-- ==== Sys2Proof/Word.lean ====
section
/-!
DEFINITION. The word types of the module and the plainest arithmetic on them.
Spec: 00_scope R11 (bit numbering), R12 (byte order), R15 (registers are 64 bits wide).
-/
namespace Sys2Proof

/-- A byte. -/
abbrev Byte := BitVec 8
/-- A 32-bit word: a general register of a task, a waymark, a marker value. -/
abbrev W32 := BitVec 32
/-- A 64-bit register word (R15). -/
abbrev W64 := BitVec 64
/-- A waymark (R37): 32 bits. -/
abbrev Waymark := BitVec 32

/-- Bits [hi:lo] of a natural number, as a natural number (R11). -/
def natBits (hi lo x : Nat) : Nat := (x >>> lo) % 2 ^ (hi + 1 - lo)

/-- A natural number read as two's complement of width n. -/
def natSigned (n x : Nat) : Int :=
  if x % 2 ^ n < 2 ^ (n - 1) then (x % 2 ^ n : Nat) else ((x % 2 ^ n : Nat) : Int) - (2 ^ n : Nat)

/-- 0 or 1. -/
def boolNat (b : Bool) : Nat := if b then 1 else 0

end Sys2Proof
end

