-- ==== Sys2Proof/Syntax.lean ====
section
/-!
DEFINITION. The commands that change the module: one constructor per row of the opcode table, with the row's operands.
Spec: opcode_table.json, and the rules it cites.
-/
namespace Sys2Proof

/-- A field of a plane (R22, R24): plane 0 or 1, field index 0 to 59. -/
structure FieldAddr where
  plane : Fin 2
  field : Fin 60
  deriving DecidableEq, Repr

/-- A logical tile (R24, R25): a field, a row 0 to 95 and a column 0 to 127. -/
structure TileAddr where
  fld : FieldAddr
  row : Fin 96
  col : Fin 128
  deriving DecidableEq, Repr

/-- What a self-test finds in one field (R643, R644): physical row and column of failing tiles and of failing routers, and
whether its field controller, power stage or rail monitors fail. -/
structure FieldTest where
  fld : FieldAddr
  tiles : List (Nat × Nat)
  routers : List (Nat × Nat)
  dead : Bool
  deriving DecidableEq, Repr

/-- The selector registers that start a snapshot (R148, R203, R369, R370, R442). -/
inductive SnapUnit where
  | tsq | seg | ctx | fopen | mrk
  deriving DecidableEq, Repr

/-- The commands of the module: one constructor per row of the opcode table. -/
inductive Instr where
  /-- REGISTER_WRITE: A host or firmware write to a register that has no row of its own: it is checked in order, then performed or refused (R532) -/
  | registerWrite (fw : Bool) (aligned : Bool) (poisoned : Bool) (addr : Nat) (value : W64)
  /-- SNAPSHOT_ARRIVAL: A snapshot that a selector write requested arrives in its registers and BUSY clears (R148) -/
  | snapshotArrival (unit : SnapUnit) (n : Nat)
  /-- NOP: Tile no-operation; its dequeues and predicate and counter updates still act (R116) -/
  | opNop (a : TileAddr) (task : Fin 4) (slot : Fin 128)
  /-- MOVI: Loads a sign-extended immediate into a register (R116) -/
  | opMovi (a : TileAddr) (task : Fin 4) (slot : Fin 128)
  /-- MOV: Copies one register into another (R116) -/
  | opMov (a : TileAddr) (task : Fin 4) (slot : Fin 128)
  /-- ADD: Adds two registers modulo 2^32 (R116) -/
  | opAdd (a : TileAddr) (task : Fin 4) (slot : Fin 128)
  /-- ADDI: Adds a register and a sign-extended immediate modulo 2^32 (R116) -/
  | opAddi (a : TileAddr) (task : Fin 4) (slot : Fin 128)
  /-- SUB: Subtracts one register from another modulo 2^32 (R116) -/
  | opSub (a : TileAddr) (task : Fin 4) (slot : Fin 128)
  /-- AND: Bitwise AND of two registers (R116) -/
  | opAnd (a : TileAddr) (task : Fin 4) (slot : Fin 128)
  /-- OR: Bitwise OR of two registers (R116) -/
  | opOr (a : TileAddr) (task : Fin 4) (slot : Fin 128)
  /-- XOR: Bitwise exclusive OR of two registers (R116) -/
  | opXor (a : TileAddr) (task : Fin 4) (slot : Fin 128)
  /-- SHL: Shifts a register left by an immediate amount (R116) -/
  | opShl (a : TileAddr) (task : Fin 4) (slot : Fin 128)
  /-- SHR: Logical right shift of a register by an immediate amount (R116) -/
  | opShr (a : TileAddr) (task : Fin 4) (slot : Fin 128)
  /-- MUL: Writes the low 32 bits of a register product (R116) -/
  | opMul (a : TileAddr) (task : Fin 4) (slot : Fin 128)
  /-- CMP: Compares two registers and may set a predicate to the result (R116) -/
  | opCmp (a : TileAddr) (task : Fin 4) (slot : Fin 128)
  /-- TOKR: Reads a word of the head token of a queue into a register (R116) -/
  | opTokr (a : TileAddr) (task : Fin 4) (slot : Fin 128)
  /-- ENQC: Enqueues a control token with an immediate kind and value (R116) -/
  | opEnqc (a : TileAddr) (task : Fin 4) (slot : Fin 128)
  /-- ENQD: Enqueues eight registers as one data token (R116) -/
  | opEnqd (a : TileAddr) (task : Fin 4) (slot : Fin 128)
  /-- FWD: Forwards the head token of a queue unchanged, as towpath tiles do (R307) -/
  | opFwd (a : TileAddr) (task : Fin 4) (slot : Fin 128)
  /-- RDQ: The read engine checks the windows and reads tokens in PLAIN, SWITCHBACK or STRIDED mode into a data queue (R165) -/
  | opRdq (a : TileAddr) (task : Fin 4) (slot : Fin 128)
  /-- WRT: Writes the payload at the head of a queue, and optionally its scales, to a bank (R164) -/
  | opWrt (a : TileAddr) (task : Fin 4) (slot : Fin 128)
  /-- LDN: Loads a 32-bit word from a bank into a register (R160) -/
  | opLdn (a : TileAddr) (task : Fin 4) (slot : Fin 128)
  /-- STN: Stores a 32-bit word through the narrow-gather buffer (R175) -/
  | opStn (a : TileAddr) (task : Fin 4) (slot : Fin 128)
  /-- MMA: Multiplies the A and B head tokens exactly and adds the products into an accumulator bank (R121) -/
  | opMma (a : TileAddr) (task : Fin 4) (slot : Fin 128)
  /-- ACLR: Clears an accumulator bank and abandons its open work unit (R124) -/
  | opAclr (a : TileAddr) (task : Fin 4) (slot : Fin 128)
  /-- EMIT: Emits an accumulator bank, either rounded into a bank or as contributions to a reduction (R127) -/
  | opEmit (a : TileAddr) (task : Fin 4) (slot : Fin 128)
  /-- VUNP: Unpacks a data token exactly into vector lanes (R133) -/
  | opVunp (a : TileAddr) (task : Fin 4) (slot : Fin 128)
  /-- VPACK: Converts vector lanes under a result format word and packs them into one token (R134) -/
  | opVpack (a : TileAddr) (task : Fin 4) (slot : Fin 128)
  /-- VFMA: Fused multiply-add per lane in FP32 (R132) -/
  | opVfma (a : TileAddr) (task : Fin 4) (slot : Fin 128)
  /-- VADD: Adds vectors per lane in FP32 (R132) -/
  | opVadd (a : TileAddr) (task : Fin 4) (slot : Fin 128)
  /-- VMUL: Multiplies vectors per lane in FP32 (R132) -/
  | opVmul (a : TileAddr) (task : Fin 4) (slot : Fin 128)
  /-- VMAX: Takes the maximum per lane, with NaN and signed-zero rules (R132) -/
  | opVmax (a : TileAddr) (task : Fin 4) (slot : Fin 128)
  /-- VMIN: Takes the minimum per lane, with NaN and signed-zero rules (R132) -/
  | opVmin (a : TileAddr) (task : Fin 4) (slot : Fin 128)
  /-- VBCAST: Broadcasts a register into every lane (R132) -/
  | opVbcast (a : TileAddr) (task : Fin 4) (slot : Fin 128)
  /-- VRED: Adds the 16 lanes in the fixed tree and adds the lane sum to a register (R135) -/
  | opVred (a : TileAddr) (task : Fin 4) (slot : Fin 128)
  /-- VTAB: Evaluates the forward table of a table unit per lane (R140) -/
  | opVtab (a : TileAddr) (task : Fin 4) (slot : Fin 128)
  /-- VTABD: Evaluates the derivative table at the saved values (R141) -/
  | opVtabd (a : TileAddr) (task : Fin 4) (slot : Fin 128)
  /-- VMASK: Forms mask bits from the lanes by the GT0, GE0, NE0 or KEEP mode (R138) -/
  | opVmask (a : TileAddr) (task : Fin 4) (slot : Fin 128)
  /-- VSEL: Selects lanes by mask bits, and writes +0 elsewhere (R132) -/
  | opVsel (a : TileAddr) (task : Fin 4) (slot : Fin 128)
  /-- VQMX: MX-quantises vector values into one token (R136) -/
  | opVqmx (a : TileAddr) (task : Fin 4) (slot : Fin 128)
  /-- VEXACT: Converts lanes to the exact form and sends them as EXACT contributions (R137) -/
  | opVexact (a : TileAddr) (task : Fin 4) (slot : Fin 128)
  /-- MSIG: Signals a marker of the tile's field by a register amount (R422) -/
  | opMsig (a : TileAddr) (task : Fin 4) (slot : Fin 128)
  /-- MSIG_WATCH: Arms or replaces the task's watch on a marker (R427) -/
  | opMsigWatch (a : TileAddr) (task : Fin 4) (slot : Fin 128)
  /-- BARR: Sets the tile's arrival latch on a milestone wire channel (R435) -/
  | opBarr (a : TileAddr) (task : Fin 4) (slot : Fin 128)
  /-- HALT: Ends the task's work for the pass; the task goes to DONE (R99) -/
  | opHalt (a : TileAddr) (task : Fin 4) (slot : Fin 128)
  /-- STEERING_FIRE: A steering channel pairs control and data heads and routes, copies or drops the data token (R119) -/
  | steeringFire (a : TileAddr) (ch : Fin 4)
  /-- STEER_KIND: A steering channel meets an unexecutable kind at its head and faults its owner task (R120) -/
  | steerKind (a : TileAddr) (ch : Fin 4)
  /-- OQ_LOCAL_TRANSFER: An output queue bound LOCAL moves its head token into its data queue when there is room (R94) -/
  | oqLocalTransfer (a : TileAddr) (q : Fin 8)
  /-- WAITING_TOKEN_ENTRY: A waiting ARRIVE or BARRIER token enters its control queue once an entry is free (R97) -/
  | waitingTokenEntry (a : TileAddr) (barrier : Bool) (n : Fin 16)
  /-- TASK_DRAINED: A DONE task whose queues are empty and whose operations have completed goes to DRAINED (R99) -/
  | taskDrained (a : TileAddr) (task : Fin 4)
  /-- READ_TOKEN_DELIVERY: A token produced by the read engine enters its data queue when there is room (R174) -/
  | readTokenDelivery (a : TileAddr)
  /-- GATHER_FLUSH: A gather-buffer entry is written to its bank, merging partial words (R177) -/
  | gatherFlush (a : TileAddr)
  /-- CORRECTION_WRITEBACK: A corrected row is written back in a free bank cycle (R182) -/
  | correctionWriteback (a : TileAddr)
  /-- SCRUB_READ: On the scrub interval, a tile reads its next row and corrects or poisons it (R186) -/
  | scrubRead (a : TileAddr) (word : Fin 4) (err : Fin 3)
  /-- SEG_CMD_OFF: Segment command with target OFF: the target segments enter CLOSING (R188) -/
  | segCmdOff (f : FieldAddr) (fw : Bool) (value : W64)
  /-- SEG_CMD_ACTIVE: Segment command with target ACTIVE: the segments wake or change from RETAINED (R188) -/
  | segCmdActive (f : FieldAddr) (fw : Bool) (value : W64)
  /-- SEG_CMD_RETAINED: Segment command with target RETAINED: the segments wake or change from ACTIVE (R188) -/
  | segCmdRetained (f : FieldAddr) (fw : Bool) (value : W64)
  /-- SEGMENT_WAKE_DONE: A waking segment finishes clearing and reaches its target state (R197) -/
  | segmentWakeDone (a : TileAddr) (seg : Fin 8)
  /-- SEGMENT_GATE: A CLOSING segment whose in-flight count reaches 0 gates to OFF (R192) -/
  | segmentGate (a : TileAddr) (seg : Fin 8)
  /-- GATE_TIMEOUT: A CLOSING segment gates when GATE_TIMEOUT elapses; the command ends TIMED_OUT (R192) -/
  | gateTimeout (a : TileAddr) (seg : Fin 8)
  /-- SEG_SEL: Starts a snapshot of a tile's segment states (R203) -/
  | segSel (f : FieldAddr) (fw : Bool) (value : W64)
  /-- TSQ_SEL: Starts a snapshot of a task's status (R148) -/
  | tsqSel (f : FieldAddr) (fw : Bool) (value : W64)
  /-- NEIGHBOUR_TOKEN: A token crosses a neighbour port into the adjacent tile's queue (R210) -/
  | neighbourToken (a : TileAddr) (side : Fin 4)
  /-- PACKET_HOP: A router forwards a packet one hop by virtual cut-through once it holds the credit (R214) -/
  | packetHop (a : TileAddr) (dir : Fin 4)
  /-- PACKET_DELIVERY: A packet at its destination router is handed to the landing buffer and acted on by class (R235) -/
  | packetDelivery (a : TileAddr) (input : Fin 5) (cls : Fin 4)
  /-- WGT_RECORD_ENQUEUE: One token record of a WGT packet enters the towpath input as room allows (R235) -/
  | wgtRecordEnqueue (a : TileAddr)
  /-- EMITTER_SEND: An emitter composes the path and injects a packet once enough tokens stand in its queue (R227) -/
  | emitterSend (a : TileAddr) (q : Fin 8)
  /-- FOLD_READER_SEND: A fold reader sends one EXACT SUM packet of a partial region (R319) -/
  | foldReaderSend (a : TileAddr)
  /-- DRAIN_STOP: STOP drain: holds injection into the field and lets work in flight finish (R255) -/
  | drainStop (f : FieldAddr) (fw : Bool) (value : W64)
  /-- DRAIN_ABORT: ABORT drain: holds injection, abort-drains tasks and discards buffered packets (R255) -/
  | drainAbort (f : FieldAddr) (fw : Bool) (value : W64)
  /-- DRAIN_RELEASE: RELEASE: lifts the hold and clears DRAINED (R255) -/
  | drainRelease (f : FieldAddr) (fw : Bool) (value : W64)
  /-- DRAIN_SWEEP: A periodic sweep tests the drained conditions, and DRAINED is reported after two clean sweeps (R254) -/
  | drainSweep (f : FieldAddr)
  /-- DRAIN_TIMEOUT: A STOP drain not drained within DRAIN_TIMEOUT ends TIMED_OUT (R257) -/
  | drainTimeout (f : FieldAddr)
  /-- LINK_ISOLATION: A link whose handshake goes unacknowledged for BND_TIMEOUT is isolated (R261) -/
  | linkIsolation (a : TileAddr) (side : Fin 4) (port : Bool) (here : Bool) (far : Bool)
  /-- DEADLOCK_SPILL: A block stuck for INTERVAL spills blocked input head packets to spill rings (R264) -/
  | deadlockSpill (a : TileAddr)
  /-- SPILL_RESTORE: A spilled packet leaves its spill ring once its output holds a credit (R265) -/
  | spillRestore (a : TileAddr)
  /-- DEADLOCK: A block still stuck with a full spill ring is an unresolved deadlock, and the pass aborts (R266) -/
  | deadlock (f : FieldAddr) (block : Fin 12)
  /-- STALL_WATCHDOG: A packet head without progress for STALL_LIMIT fires the stall watchdog (R267) -/
  | stallWatchdog (a : TileAddr) (n : Nat)
  /-- FEP_READ: Reads an endpoint, reduction or fence item into FEP.DATA (R276) -/
  | fepRead (f : FieldAddr) (fw : Bool) (value : W64)
  /-- FEP_WRITE: Writes an endpoint, reduction or fence item if the field is held and drained (R276) -/
  | fepWrite (f : FieldAddr) (fw : Bool) (value : W64)
  /-- PLACE_LOAD: The Array Engine checks a placement image and, if it passes, begins to install it (R285) -/
  | placeLoad (p : Fin 2)
  /-- PLACE_LOAD_COMMIT: Once the fields have drained, endpoint tables and segment maps are written, the fields released and the placement recorded (R286) -/
  | placeLoadCommit (p : Fin 2)
  /-- PASS_RUN: The Array Engine accepts or refuses a pass and enters LOADING or ARMED (R287) -/
  | passRun (p : Fin 2)
  /-- PASS_LOAD_BEGIN: Once the old-epoch contexts have closed, the pass's fields are held and STOP-drained (R290) -/
  | passLoadBegin (p : Fin 2)
  /-- PASS_ARMED: The records are delivered on the chains, the epochs advance and the pass becomes ARMED and then starts (R292) -/
  | passArmed (p : Fin 2)
  /-- PASS_RESTART: A REUSE run restarts the last completed pass once its previous contexts have closed (R293) -/
  | passRestart (p : Fin 2)
  /-- PASS_FINISHING: Every configured task is DONE; the pass enters FINISHING and STOP-drains (R289) -/
  | passFinishing (p : Fin 2) (cycles : List Nat)
  /-- PASS_COMPLETE: Once drained and rate-checked, the pass goes to COMPLETE, or to EXITING for a SPAN pass (R300) -/
  | passComplete (p : Fin 2)
  /-- PASS_ABORT: On the first cause, the Array Engine enters ABORTING, notifies the peer, ABORT-drains and reports (R303) -/
  | passAbort (p : Fin 2) (recent : Bool)
  /-- PASS_FAILED: Once the ABORT drain is complete in every field, the pass enters FAILED (R303) -/
  | passFailed (p : Fin 2)
  /-- PASS_ABORT_NOTICE: A pass-abort notice received over the sideband aborts the partner half with PEER_ABORT (R294) -/
  | passAbortNotice (p : Fin 2)
  /-- PASS_WATCHDOG: The pass watchdog expires and the pass aborts (R301) -/
  | passWatchdog (p : Fin 2)
  /-- STREAM_OPEN: The Stream Engine checks a descriptor and allocates a context in HOLDING (R337) -/
  | streamOpen (p : Fin 2)
  /-- STREAM_CANCEL: Cancels the matching stream contexts, which stop injecting and enter ENDING (R361) -/
  | streamCancel (p : Fin 2)
  /-- STREAM_DELIVER_START: A HOLDING context whose field is at its epoch and not held enters DELIVERING (R348) -/
  | streamDeliverStart (p : Fin 2) (ctx : Nat)
  /-- STREAM_REQUEST: A port grants the eligible fetch request chosen by deadline arbitration (R354) -/
  | streamRequest (p : Fin 2) (server : Bool) (port : Fin 32) (starved : List Nat)
  /-- STREAM_INJECT: A stream injects its next packet when every delivery condition holds (R346) -/
  | streamInject (p : Fin 2) (ctx : Nat)
  /-- STREAM_READ_TIMEOUT: An unanswered server request is resent, or the stream ends READ_TIMEOUT (R358) -/
  | streamReadTimeout (p : Fin 2) (ctx : Nat) (seq : Nat)
  /-- STREAM_STALLED: A delivering context without progress for STREAM_WD ends STALLED (R363) -/
  | streamStalled (p : Fin 2) (ctx : Nat)
  /-- STREAM_CONTEXT_RELEASE: An ENDING context with no outstanding reads returns its frames, goes FREE and completes (R348) -/
  | streamContextRelease (p : Fin 2) (ctx : Nat)
  /-- SEN_CTX_SEL: Starts a snapshot of a stream context (R369) -/
  | senCtxSel (p : Fin 2) (fw : Bool) (value : W64)
  /-- SEN_FOPEN_SEL: Starts a snapshot of open contexts of a field, counted by epoch (R370) -/
  | senFopenSel (p : Fin 2) (fw : Bool) (value : W64)
  /-- DOORBELL: A doorbell write updates the submission TAIL or the completion head, or is refused (R378) -/
  | doorbell (e : Fin 7) (q : Fin 64) (aligned : Bool) (poisoned : Bool) (value : W64)
  /-- RECORD_FETCH: An engine fetches a record, reads its payload and validates it (R380) -/
  | recordFetch (e : Fin 7) (q : Fin 64) (raw : List Byte) (payload : List Byte) (err : Fin 3)
  /-- RECORD_START: The queue head starts once its waymark, order, waits, completion slot and engine allow (R387) -/
  | recordStart (e : Fin 7)
  /-- NOP_COMMAND: Engine NOP: waits and signals only (R384) -/
  | nopCommand (e : Fin 7) (q : Fin 64)
  /-- STEP_BEGIN: Opens a step: latches the milepost, sets the waymarks, records step marks and step epochs (R394) -/
  | stepBegin (q : Fin 64)
  /-- WAYMARK_CLOSE: Once the waymark's records have completed, latches the milepost and opens the next waymark or ends the step (R395) -/
  | waymarkClose (q : Fin 64) (meas : Nat)
  /-- MARKER_WRITE: Sets a marker's value (R421) -/
  | markerWrite (q : Fin 64)
  /-- MILEPOST_COPY: Copies a directory range of pages into the payload buffer (R400) -/
  | milepostCopy (q : Fin 64)
  /-- EXCH_ACCUM: Starts an exchange of ACCUMULATE frames from edge memory (R470) -/
  | exchAccum (p : Fin 2)
  /-- EXCH_WRITE: Starts an exchange of WRITE frames from edge memory (R470) -/
  | exchWrite (p : Fin 2)
  /-- EXCH_SIGNAL: Sends one SIGNAL frame behind the queue's earlier data (R471) -/
  | exchSignal (p : Fin 2)
  /-- EXCH_CANCEL: Cancels the matching exchanges, which send no further frame (R475) -/
  | exchCancel (p : Fin 2)
  /-- WAIT_TIMEOUT: A record's waits unsatisfied for WAIT_TIMEOUT complete it with WAIT_TIMEOUT (R388) -/
  | waitTimeout (e : Fin 7) (q : Fin 64)
  /-- WM_HOLD_TIMEOUT: A record that has waited for its waymark longer than WM_HOLD completes WM_HOLD_TIMEOUT (R391) -/
  | wmHoldTimeout (e : Fin 7) (q : Fin 64)
  /-- STEP_RERUN: On a hardware outcome, the Service Engine stops the step and cancels its work (R406) -/
  | stepRerun
  /-- STEP_REWIND: Once the started records have completed and recovery is done, the queues, waymarks and epochs are rewound and the attempt rises (R406) -/
  | stepRewind
  /-- STEP_END: A step ending ERROR or ABORTED cancels its work and flushes its remaining records (R408) -/
  | stepEnd
  /-- STEP_ABORT: A write of ENG.STEP.ABORT ends the open step ABORTED (R409) -/
  | stepAbort (fw : Bool) (value : W64)
  /-- QUEUE_RESUME: A write of QSTAT.RESUME takes a queue out of STOPPED (R404) -/
  | queueResume (e : Fin 7) (q : Fin 64) (fw : Bool) (value : W64)
  /-- QUEUE_CONFIG_WRITE: A write to a queue's registers changes its configuration and enables or disables the queue (R416) -/
  | queueConfigWrite (e : Fin 7) (q : Fin 64) (reg : Fin 4) (fw : Bool) (value : W64)
  /-- MARKER_UPDATE: At the end of a FIELD cycle the marker unit applies its operations in order and evaluates waits and watches (R424) -/
  | markerUpdate (f : FieldAddr)
  /-- WATCH_DELIVERY: A satisfied watch enqueues its USER token once its queue has room (R427) -/
  | watchDelivery (a : TileAddr) (task : Fin 4)
  /-- WATCH_TIMEOUT: An unsatisfied watch is disarmed after WATCH_TIMEOUT and the pass aborts (R440) -/
  | watchTimeout (a : TileAddr) (task : Fin 4)
  /-- BARRIER_COMPLETE: A channel's root sees every input high and completes the generation (R435) -/
  | barrierComplete (p : Fin 2) (ch : Fin 16)
  /-- BARRIER_WATCHDOG: An uncompleted barrier generation fails on its watchdog and is scanned and recorded (R439) -/
  | barrierWatchdog (p : Fin 2) (ch : Fin 16)
  /-- MRK_SEL: Starts a snapshot of a marker's record (R442) -/
  | mrkSel (f : FieldAddr) (fw : Bool) (value : W64)
  /-- WRITE_FRAME: An inbound WRITE frame is checked, deduplicated, performed and answered (R459) -/
  | writeFrame (l : Fin 72) (tag : W64) (bytes : List Byte)
  /-- SIGNAL_FRAME: An inbound SIGNAL frame is checked and held until earlier writes are performed, then applied (R461) -/
  | signalFrame (l : Fin 72) (tag : W64) (bytes : List Byte)
  /-- TAINT_FRAME: An inbound TAINT frame is captured, counted and handed to the lookout (R480) -/
  | taintFrame (l : Fin 72) (tag : W64) (bytes : List Byte)
  /-- READRESP: A READRESP carrying data is accepted into the waystation or discarded (R357) -/
  | readresp (l : Fin 72) (tag : W64) (bytes : List Byte)
  /-- FRAME_ANSWER: An answer to an exchange frame marks it answered, resends it, or ends the exchange (R473) -/
  | frameAnswer (l : Fin 72) (tag : W64) (bytes : List Byte)
  /-- UNACCEPTED_FRAME: An inbound frame that is malformed, misaddressed or of an op not accepted is discarded or refused (R459) -/
  | unacceptedFrame (l : Fin 72) (tag : W64) (bytes : List Byte)
  /-- LINK_CONTROL_WORD: A link tag carrying acknowledgement or NAK is sent or received (R462) -/
  | linkControlWord (l : Fin 72) (send : Bool) (tag : W64) (corr : Nat) (uncorr : Nat)
  /-- REPLAY_TIMER: An unacknowledged frame waiting 3 µs triggers a replay (R463) -/
  | replayTimer (l : Fin 72)
  /-- LANE_FAILURE: A link retry unfinished after 20 µs declares the faulty lane failed or fails the port (R464) -/
  | laneFailure (unit : Fin 80) (lanes : BitVec 8) (lost : Nat)
  /-- PORT_DEGRADE: Both ends agree on the surviving half and the port runs on 4 lanes, replaying frames (R465) -/
  | portDegrade (l : Fin 64)
  /-- PORT_FAIL: A port fails outright and its outstanding frames are resent on sibling ports (R466) -/
  | portFail (unit : Fin 80) (lost : Nat)
  /-- LANE_CALIBRATION: Every CAL_INTERVAL, the next lane is taken out of service to calibrate (R467) -/
  | laneCalibration (l : Fin 64)
  /-- CALIBRATION_END: A calibrating lane returns to service (R467) -/
  | calibrationEnd (l : Fin 64)
  /-- EXCHANGE_FRAME_SEND: The Exchange Engine sends the next frame of an exchange when its window allows (R470) -/
  | exchangeFrameSend (n : Nat)
  /-- ACK_TIMEOUT: An unanswered exchange frame is resent, or the exchange ends ACK_TIMEOUT (R473) -/
  | ackTimeout (n : Nat) (k : Nat) (final : Bool)
  /-- BUSY_BACKOFF: A frame answered BUSY or ERROR is resent after BUSY_BACKOFF (R473) -/
  | busyBackoff (n : Nat) (k : Nat)
  /-- PORT_DISABLE: VPT.CTL.DISABLE holds a Volino port in DISABLED (R486) -/
  | portDisable (l : Fin 64) (fw : Bool) (value : W64)
  /-- PORT_RETRAIN: VPT.CTL.RETRAIN moves a port's frames and trains the port again (R486) -/
  | portRetrain (l : Fin 64) (fw : Bool) (value : W64)
  /-- LINK_TRAINING_DONE: A port or link finishes training and enters service (R486) -/
  | linkTrainingDone (unit : Fin 80) (lanes : BitVec 8)
  /-- BRIDGE_REINJECT: A received bridged frame is re-injected as an ACT packet or absorbed (R492) -/
  | bridgeReinject (n : Nat)
  /-- SIDEBAND_WORD: A sideband word with the roots and any abort notice is sent or received (R493) -/
  | sidebandWord (p : Fin 2)
  /-- SIDEBAND_LOST: A sideband direction without a good word for 200 ns is lost (R493) -/
  | sidebandLost (p : Fin 2)
  /-- BRIDGE_RETRAIN: BRG.CTL.RETRAIN retrains failed bridge links, groups and sideband directions (R497) -/
  | bridgeRetrain (fw : Bool) (value : W64)
  /-- TEST: Causeway TEST: PRBS31 between two ports, with bit errors counted (R495) -/
  | cwyTest (fw : Bool) (value : W64)
  /-- CROSSCHECK: Causeway CROSSCHECK of a field pair (R645) -/
  | cwyCrosscheck (fw : Bool) (value : W64)
  /-- MIGRATE: Copies a field's near banks and RETAINED segments to another field over the causeway (R496) -/
  | cwyMigrate (fw : Bool) (value : W64)
  /-- EXPORT: Sends an edge-memory range to another module as CAUSEWAY WRITE frames (R495) -/
  | cwyExport (fw : Bool) (value : W64)
  /-- IMPORT: Arms a fresh import window to accept an EXPORT into edge memory (R495) -/
  | cwyImport (fw : Bool) (value : W64)
  /-- CAUSEWAY_DONE: A causeway command ends, powers its ports off and writes RESULT (R496) -/
  | causewayDone (link : Bool) (peer : Bool) (differ : Bool) (errors : Nat) (bytes : Nat)
  /-- EDGE_MEMORY_ACCESS: A stack controller performs a burst access, correcting or reporting errors (R505) -/
  | edgeMemoryAccess (p : Fin 2) (ctx : Nat) (seq : Nat) (burst : Nat) (err : Fin 4)
  /-- REFRESH: Per-bank refresh, or an RFM command, is issued to a stack (R501) -/
  | refresh (p : Fin 2) (stack : Fin 24) (rfm : Bool)
  /-- HBM_TEMP_READOUT: Every 1 ms a stack's temperature is read and its refresh and throttle states are set (R501) -/
  | hbmTempReadout (p : Fin 2) (stack : Fin 24) (temp : BitVec 8)
  /-- PATROL_SCRUB: The patrol scrub reads the next burst in an idle cycle (R509) -/
  | patrolScrub (p : Fin 2) (err : Fin 4)
  /-- STACK_FAIL: A stack that does not retrain within 1 ms enters FAILED and the step ends (R510) -/
  | stackFail (p : Fin 2) (stack : Fin 24)
  /-- SELF_REFRESH_ENTRY: The stacks enter self-refresh after 10 ms idle with every field in layby or lost (R570) -/
  | selfRefreshEntry (p : Fin 2)
  /-- SELF_REFRESH_EXIT: The stacks finish leaving self-refresh 200 µs after an access (R570) -/
  | selfRefreshExit (p : Fin 2)
  /-- BAR4_ACCESS: A host read or write of edge memory through the BAR4 window (R519) -/
  | bar4Access (off : Nat) (write : Bool) (poisoned : Bool) (bytes : List Byte) (len : Nat)
  /-- BAR0_BAD_READ: A BAR0 read of an unaccepted size or alignment completes Unsupported Request (R517) -/
  | bar0BadRead (off : Nat)
  /-- PCIE_RESET: A conventional reset or link loss resets the PCIe function and holds DMA (R521) -/
  | pcieReset (link : W64)
  /-- DMA_RESUME: HIF.DMA_CTL.RESUME releases the held DMA writes (R521) -/
  | dmaResume (fw : Bool) (value : W64)
  /-- DMA_DISCARD: HIF.DMA_CTL.DISCARD drops the held writes and disables host-ring queues (R521) -/
  | dmaDiscard (fw : Bool) (value : W64)
  /-- FETCH_RETRY: A failed host-ring record fetch is retried after 100 µs, or fails (R518) -/
  | fetchRetry (e : Fin 7) (q : Fin 64) (raw : List Byte) (payload : List Byte) (err : Fin 3)
  /-- DOE_DISCOVERY: A DOE discovery request is answered (R523) -/
  | doeDiscovery (index : Nat)
  /-- DOE_ABORT: A DOE abort discards the object in progress (R523) -/
  | doeAbort
  /-- GET_REPORT: A DOE request for a signed attestation report (R666) -/
  | getReport (request : List Byte) (busy : Bool)
  /-- GET_CERTS: A DOE request for bytes of the certificate chain (R666) -/
  | getCerts (request : List Byte)
  /-- BANK_OFFLINE: A conversion bank whose input is out of range for 50 µs goes OFFLINE (R537) -/
  | bankOffline (bank : Fin 2)
  /-- BANK_RETURN: A bank whose input has been in range for 1 s returns to service (R537) -/
  | bankReturn (bank : Fin 2)
  /-- POWER_LOSS: Neither bank returns within 1 ms and the module loses power (R538) -/
  | powerLoss
  /-- SUPPLY_WARN: A rail falls below 92 %; the field is stretched HALF and its waymark marked supply-suspect (R542) -/
  | supplyWarn (f : FieldAddr) (pct : Nat)
  /-- SUPPLY_RECOVER: After 10 µs at or above 95 %, the supply stretch is lifted (R541) -/
  | supplyRecover (f : FieldAddr)
  /-- FIELD_RESET: A rail below 85 % asserts a field reset and aborts the field's pass (R543) -/
  | fieldReset (f : FieldAddr) (pct : Nat) (third : Bool)
  /-- FIELD_RESET_RECOVERY: The rail recovers, the field state is reset and the field is clocked again (R543) -/
  | fieldResetRecovery (f : FieldAddr)
  /-- NO_RECOVER: A rail that does not recover within 1 ms after RESET opens the power stage (R541) -/
  | noRecover (f : FieldAddr)
  /-- OVERCURRENT_TRIP: A field power stage opens on current above 900 A (R547) -/
  | overcurrentTrip (f : FieldAddr)
  /-- REF_FAILOVER: One REF oscillator fails and the module switches to the other (R551) -/
  | refFailover
  /-- REF_FAILURE: Both REF oscillators fail; power is removed and a power-on reset follows (R646) -/
  | refFailure (third : Bool)
  /-- LOCK_LOSS: A clock generator loses lock, stops its clock and relocks (R552) -/
  | lockLoss (domain : Fin 18) (f : FieldAddr) (block : Fin 12)
  /-- RELOCK_TIMEOUT: A TILE island not relocked within 100 µs is handled as the RESET level (R552) -/
  | relockTimeout (domain : Fin 18) (f : FieldAddr) (block : Fin 12) (unit : Fin 80) (lanes : BitVec 8) (lost : Nat) (pct : Nat) (third : Bool)
  /-- AGEING_READ: Every 24 h service firmware reads the ageing monitors and updates AGE (R555) -/
  | ageingRead (f : FieldAddr) (block : Fin 12) (age : Nat)
  /-- TEMPERATURE_SAMPLE: Every 10 µs the block temperatures are sampled and PARK or TRIP levels are acted on (R558) -/
  | temperatureSample (f : FieldAddr) (temps : List Nat)
  /-- THERMAL_THROTTLE_STEP: While above THROTTLE, the thermal ceiling falls one step every 100 µs (R559) -/
  | thermalThrottleStep (f : FieldAddr)
  /-- THERMAL_RELEASE_STEP: Once cool, the thermal ceiling rises one step every 1 ms (R559) -/
  | thermalReleaseStep (f : FieldAddr)
  /-- THERMAL_UNPARK: A parked field cool for 1 s is unparked by service firmware (R559) -/
  | thermalUnpark (f : FieldAddr)
  /-- LAYBY: FPW.CMD LAYBY puts a held and drained field into layby (R568) -/
  | layby (f : FieldAddr) (fw : Bool) (value : W64)
  /-- WAKE: FPW.CMD WAKE, or the Array Engine, starts waking a field from layby (R568) -/
  | wake (f : FieldAddr) (fw : Bool) (value : W64)
  /-- PARK: FPW.CMD PARK parks a field without retention (R562) -/
  | park (f : FieldAddr) (fw : Bool) (value : W64)
  /-- PARK_RETAIN: FPW.CMD PARK_RETAIN saves contexts and parks a field with retention (R562) -/
  | parkRetain (f : FieldAddr) (fw : Bool) (value : W64)
  /-- UNPARK: FPW.CMD UNPARK starts unparking a field (R562) -/
  | unpark (f : FieldAddr) (fw : Bool) (value : W64)
  /-- LAYBY_DONE: A field's islands stop and its rail reaches retention; STATE becomes LAYBY (R568) -/
  | laybyDone (f : FieldAddr)
  /-- WAKE_DONE: Exactly 200 µs after the wake, the field is AWAKE with its contexts restored (R568) -/
  | wakeDone (f : FieldAddr)
  /-- PARK_DONE: A field's arithmetic is unpowered and its rail is at PARK_V (R562) -/
  | parkDone (f : FieldAddr)
  /-- UNPARK_DONE: Exactly 200 µs after UNPARK, the field is AWAKE (R562) -/
  | unparkDone (f : FieldAddr)
  /-- PORT_LAYBY: PWR.LAYBY_CMD puts a Volino port into layby (R566) -/
  | portLayby (fw : Bool) (value : W64)
  /-- PORT_WAKE: PWR.LAYBY_CMD wakes a Volino port (R569) -/
  | portWake (fw : Bool) (value : W64)
  /-- PORT_WAKE_DONE: A port's lanes are ready 200 µs after its wake, and it trains (R569) -/
  | portWakeDone (l : Fin 64)
  /-- BRIDGE_LAYBY: PWR.LAYBY_CMD puts the bridge data links into layby (R566) -/
  | bridgeLayby (fw : Bool) (value : W64)
  /-- BRIDGE_WAKE: PWR.LAYBY_CMD, or a SPAN PASS_RUN, wakes the bridge data links (R569) -/
  | bridgeWake (fw : Bool) (value : W64)
  /-- BRIDGE_WAKE_DONE: The bridge data links are ready 200 µs after their wake, and train (R569) -/
  | bridgeWakeDone
  /-- COOLANT_SAMPLE: Every 100 ms the coolant is measured and its state and coolant cap are set (R564) -/
  | coolantSample (inlet : Nat) (outlet : Nat) (flow : Nat) (leak : Bool)
  /-- POWER_SAMPLE: At each 10 kHz sample the cap controller adjusts the module ceiling (R573) -/
  | powerSample (watts : Nat) (va : Nat) (ia : Nat) (vb : Nat) (ib : Nat) (rails : List Nat) (unlimited : Nat)
  /-- LIMITER_ENGAGE: Input power above 39,500 W stretches every island HALF (R575) -/
  | limiterEngage
  /-- PWR_CAP_WRITE: A host write to PWR.CAP applies HOST_CAP, or is refused if RACK_CAP differs (R571) -/
  | pwrCapWrite (fw : Bool) (value : W64)
  /-- ERROR_RECORD: Service firmware numbers an error record and writes it to the log, holding or discarding it when full (R594) -/
  | errorRecord
  /-- LOG_HEAD_WRITE: The host returns consumed log records by writing FLT.LOG_PTR.HEAD (R599) -/
  | logHeadWrite (fw : Bool) (value : W64)
  /-- DMAP_COPY: FLT.DMAP_CTL.GO copies the current defect map image to edge memory (R604) -/
  | dmapCopy (fw : Bool) (value : W64)
  /-- CHECK_FEED: A captured unit is fed to a tile's check engine and its bank is returned (R620) -/
  | checkFeed (n : Nat) (which : Fin 3) (steals : Nat) (wrong : List Nat)
  /-- CHECK_VERDICT: The shadow, repeat and referee banks are compared, a verdict is given and recorded (R622) -/
  | checkVerdict (n : Nat) (recent : Bool)
  /-- CHECK_DEADLINE: A feed not completed within DEADLINE gives verdict UNDECIDED (R622) -/
  | checkDeadline (n : Nat)
  /-- REBIND: Service firmware rebinds a slot to a spare field, rewrites tables and restores state (R612) -/
  | rebind
  /-- LOOKOUT_POLL: Every 1 ms the lookout reads new loss reports and updates its statistics (R628) -/
  | lookoutPoll
  /-- POWER_ON_RESET: An input entering range restarts everything from start-up step 1 (R639) -/
  | powerOnReset (cell : Bool)
  /-- MODULE_RESET: SYS.RESET, the Redfish reset or an interlock return resets the module within 10 µs (R640) -/
  | moduleReset (redfish : Bool) (admin : Bool) (fw : Bool) (value : W64)
  /-- STARTUP_STEP: A start-up step completes and the next begins (R641) -/
  | startupStep (ok : Bool) (tests : List FieldTest) (differ : List TileAddr) (ports : List Nat) (badStacks : List Nat) (link : W64) (secs : Nat)
  /-- RC_ENABLE_LOW: RC_ENABLE goes low: the step is aborted and the module enters STANDBY or abandons start-up (R648) -/
  | rcEnableLow
  /-- RC_ENABLE_HIGH: RC_ENABLE returns high: the module wakes to READY or resumes start-up (R648) -/
  | rcEnableHigh
  /-- RC_INTERLOCK_LOW: RC_INTERLOCK opens: the field power stages open and the module enters RESETTING (R649) -/
  | rcInterlockLow
  /-- RC_INTERLOCK_HIGH: RC_INTERLOCK closes again and a module reset follows (R649) -/
  | rcInterlockHigh
  /-- PIN_GLITCH: A pulse shorter than the glitch filter is ignored, counted and latched (R647) -/
  | pinGlitch (interlock : Bool)
  /-- FIELD_BIST: SYS.TEST FIELD_BIST of one field (R650) -/
  | fieldBist (fw : Bool) (value : W64)
  /-- TEST_CROSSCHECK: SYS.TEST CROSSCHECK of one field pair (R650) -/
  | testCrosscheck (fw : Bool) (value : W64)
  /-- VOLINO_CAL: SYS.TEST calibration of every lane of a Volino port (R650) -/
  | volinoCal (fw : Bool) (value : W64)
  /-- BRIDGE_CAL: SYS.TEST calibration of one bridge link (R650) -/
  | bridgeCal (fw : Bool) (value : W64)
  /-- CAUSEWAY_TEST: SYS.TEST causeway PRBS test between two ports (R650) -/
  | causewayTest (fw : Bool) (value : W64)
  /-- HELD_TEST_START: A held self-test starts once the step and the pass have ended (R651) -/
  | heldTestStart
  /-- TEST_COMPLETE: A self-test ends; mirrors are restored, and a field that fails is retired (R652) -/
  | testComplete (tests : List FieldTest) (differ : List TileAddr) (fail : Bool) (errors : Nat) (bytes : Nat)
  /-- STAGE: Checks a firmware image and writes it into the inactive bank (R659) -/
  | stageImage (fw : Bool) (value : W64)
  /-- ACTIVATE: Makes the staged bank active at the next reset (R659) -/
  | activateImage (fw : Bool) (value : W64)
  /-- COMMIT: Blows SVN fuses up to the active image's SVN (R658) -/
  | commitImage (fw : Bool) (value : W64) (fails : Bool) (blown : Nat)
  /-- ACTIVATION_TIMEOUT: A newly activated bank not READY within 300 s falls back to the previous bank (R656) -/
  | activationTimeout
  /-- ENCLOSURE_OPENING: An enclosure opening blows a tamper fuse and is recorded (R662) -/
  | enclosureOpening
  /-- DEBUG_UNLOCK: A Redfish unlock returns a nonce, or accepts a token that unlocks the next boot (R664) -/
  | debugUnlock (admin : Bool) (token : List Byte)
  /-- SEAL: Blows the SEALED debug fuse (R664) -/
  | sealFuse (redfish : Bool) (admin : Bool) (fw : Bool) (value : W64)
  /-- POWERCAP_SET: Redfish PowerCap.SetPoint writes RACK_CAP within 10 ms (R668) -/
  | powercapSet (operator : Bool) (watts : Nat)
  /-- MANAGER_RESET: The Redfish Managers reset action resets the management controller (R667) -/
  | managerReset (admin : Bool)
  /-- COMPONENT_INTEGRITY: Redfish request for an attestation report or the certificate chain (R667) -/
  | componentIntegrity (certs : Bool) (nonce : List Byte)
  /-- UPDATE_PUSH: Redfish UpdateService push of a firmware image (R667) -/
  | updatePush (admin : Bool) (op : Nat) (stage : Nat) (image : List Byte) (fails : Bool) (blown : Nat)
  /-- EVENT_SUBSCRIPTION: Creates or removes a Redfish event push subscription (R667) -/
  | eventSubscription (admin : Bool) (add : Bool) (id : Nat)
  /-- PLDM_REQUEST: A PLDM message over MCTP is answered (R669) -/
  | pldmRequest (message : List Byte)
  /-- CLOCK_RELOCK: A clock generator that lost lock relocks and its clock runs again, and the crossings it held resume without loss or duplication (R552) -/
  | clockRelock (domain : Fin 18) (f : FieldAddr) (block : Fin 12)
  /-- BURST_WRITEBACK: An edge-memory burst that was corrected on read is written back by its stack controller in an idle cycle (R508) -/
  | burstWriteback (p : Fin 2) (burst : Nat)
  /-- DEBUG_PORT_ACCESS: An access on the debug test access port, clocked by external TCK, gives full access, identification only, or nothing, by the fused debug state and unlock (R663) -/
  | debugPortAccess
  /-- CONFIG_SPACE_WRITE: A host write to the PCIe configuration space, such as a Resizable BAR size for BAR4 or a move between D0 and D3hot, changes the function's BAR4 size or stops and restarts its DMA and messages (R515) -/
  | configSpaceWrite (power : Bool) (v : Nat)
  deriving DecidableEq, Repr

end Sys2Proof
end

