-- ==== Sys2Proof/Decode.lean ====
section
/-!
DEFINITION. What a table word spells. The opcode table gives bits to none of its rows: the block's commands are events and register
writes, and the tile opcodes are read from a tile's slot words (Machine/Operands.lean).
-/
namespace Sys2Proof

/-- No row of the opcode table gives bits, so no word spells a command. -/
def decodeTableWord (_nbits _w : Nat) : Option Instr := none

end Sys2Proof
end

