-- ==== Sys2Proof/Machine/Arith.lean ====
section
/-!
DEFINITION. Number formats, the exact form, rounding at the destination, stochastic rounding, conversions and the
FP32 arithmetic of the vector unit. Spec: 02_arithmetic_and_rounding (R42 to R80).
-/
namespace Sys2Proof.Machine

/-- The binary floating encodings of R43. -/
inductive Enc where
  | fp32 | bf16 | fp16 | e4m3 | e5m2 | e3m2 | e2m3 | e2m1
  deriving DecidableEq, Repr

/-- Mantissa width (R43). -/
def Enc.mbits : Enc → Nat
  | .fp32 => 23 | .bf16 => 7 | .fp16 => 10 | .e4m3 => 3 | .e5m2 => 2 | .e3m2 => 2 | .e2m3 => 3 | .e2m1 => 1

/-- Exponent width (R43). -/
def Enc.ebits : Enc → Nat
  | .fp32 => 8 | .bf16 => 8 | .fp16 => 5 | .e4m3 => 4 | .e5m2 => 5 | .e3m2 => 3 | .e2m3 => 2 | .e2m1 => 2

/-- Exponent bias (R43). -/
def Enc.bias : Enc → Int
  | .fp32 => 127 | .bf16 => 127 | .fp16 => 15 | .e4m3 => 7 | .e5m2 => 15 | .e3m2 => 3 | .e2m3 => 1 | .e2m1 => 1

/-- Whether the encoding has infinities (R43). -/
def Enc.hasInf : Enc → Bool
  | .fp32 | .bf16 | .fp16 | .e5m2 => true
  | .e4m3 | .e3m2 | .e2m3 | .e2m1 => false

/-- Exponent of the unit of the subnormals. -/
def Enc.minExp (f : Enc) : Int := 1 - f.bias - f.mbits

/-- The largest finite value is `maxQ * 2 ^ maxK` (R43: 448 for E4M3, 28, 7.5 and 6 for the MX elements). -/
def Enc.maxQ : Enc → Nat
  | .e4m3 => 14
  | f => 2 ^ (f.mbits + 1) - 1

def Enc.maxK (f : Enc) : Int :=
  (if f.hasInf then 2 ^ f.ebits - 2 else 2 ^ f.ebits - 1 : Int) - f.bias - f.mbits

/-- The canonical NaN (R43); the MX elements have none. -/
def Enc.nan : Enc → Nat
  | .fp32 => 0x7FC00000 | .bf16 => 0x7FC0 | .fp16 => 0x7E00 | .e4m3 => 0x7F | .e5m2 => 0x7E
  | .e3m2 | .e2m3 | .e2m1 => 0

/-- A decoded operand: NaN, an infinity, or `(-1)^neg * mag * 2 ^ exp`. -/
inductive Num where
  | nan
  | inf (neg : Bool)
  | fin (neg : Bool) (mag : Nat) (exp : Int)
  deriving DecidableEq, Repr

/-- Reading an encoding (R43, R44: subnormals at full value, every NaN encoding reads as NaN). -/
def Enc.decode (f : Enc) (w : Nat) : Num :=
  let neg := natBits (f.mbits + f.ebits) (f.mbits + f.ebits) w == 1
  let ex := natBits (f.mbits + f.ebits - 1) f.mbits w
  let man := natBits (f.mbits - 1) 0 w
  if f.hasInf && ex == 2 ^ f.ebits - 1 then (if man == 0 then .inf neg else .nan)
  else if f == .e4m3 && ex == 15 && man == 7 then .nan
  else if ex == 0 then .fin neg man f.minExp
  else .fin neg (man + 2 ^ f.mbits) ((ex : Int) - f.bias - f.mbits)

/-- An INT8 MX element: the two's complement integer times 2^-6 (R45). -/
def decodeInt8 (w : Nat) : Num :=
  let i := natSigned 8 w
  .fin (i < 0) i.natAbs (-6)

/-- A block scale byte applied to an element (R46). -/
def Num.scaled (n : Num) (scale : Nat) : Num :=
  if scale == 0xFF then .nan
  else match n with
    | .nan => .nan
    | .inf s => .inf s
    | .fin s m e => .fin s m (e + scale - 127)

/-- The CLASS of an exact value (R51). -/
inductive SumClass where
  | finite | posInf | negInf | nan
  deriving DecidableEq, Repr

def SumClass.code : SumClass → Nat
  | .finite => 0 | .posInf => 1 | .negInf => 2 | .nan => 3

def SumClass.ofCode : Nat → SumClass
  | 0 => .finite | 1 => .posInf | 2 => .negInf | _ => .nan

/-- The CLASS table of R54. -/
def SumClass.add : SumClass → SumClass → SumClass
  | .finite, b => b
  | a, .finite => a
  | .posInf, .posInf => .posInf
  | .negInf, .negInf => .negInf
  | _, _ => .nan

/-- An exact value: V and its sum status (R50, R51). `nanIn` is the model's record that a NaN operand or a NaN
contribution is among the addends, which R69 needs to tell NAN_IN from NAN_GEN (assumption 3). -/
structure ExactVal where
  v : BitVec 192
  cls : SumClass
  winLo : Bool
  winHi : Bool
  high : Bool
  wrap : BitVec 7
  nanIn : Bool
  deriving DecidableEq, Repr

/-- A cleared accumulator element. -/
def ExactVal.zero : ExactVal :=
  { v := 0, cls := .finite, winLo := false, winHi := false, high := false, wrap := 0, nanIn := false }

/-- The signed integer X = V + w * 2^192, in units of 2^-96. -/
def ExactVal.toInt (a : ExactVal) : Int := a.v.toInt + a.wrap.toInt * 2 ^ 192

/-- Addition of exact values (R53, R54). -/
def ExactVal.add (a b : ExactVal) : ExactVal :=
  let s := a.v.toInt + b.v.toInt
  let c : BitVec 7 := if 2 ^ 191 ≤ s then 1 else if s < -(2 ^ 191) then -1 else 0
  { v := a.v + b.v
    cls := a.cls.add b.cls
    winLo := a.winLo || b.winLo
    winHi := a.winHi || b.winHi
    high := a.high || b.high
    wrap := a.wrap + b.wrap + c
    nanIn := a.nanIn || b.nanIn }

/-- The clamped form of a finite value `(-1)^neg * mag * 2^exp` with its causes (R50). -/
def clampExact (neg : Bool) (mag : Nat) (exp : Int) : ExactVal :=
  let e := exp + 96
  let u := if 0 ≤ e then mag <<< e.toNat else mag >>> (-e).toNat
  let lost := if 0 ≤ e then false else mag % 2 ^ (-e).toNat != 0
  let big : Bool := decide (2 ^ 176 ≤ u)
  let m := if big then 2 ^ 176 - 1 else u
  { ExactVal.zero with
    v := BitVec.ofInt 192 (if neg then -(m : Int) else m)
    winLo := lost && !big
    winHi := big
    high := decide (2 ^ 168 ≤ u) }

/-- The exact form of one value: an FP32 exact contribution (R77). -/
def Num.toExact : Num → ExactVal
  | .nan => { ExactVal.zero with cls := .nan, nanIn := true }
  | .inf neg => { ExactVal.zero with cls := if neg then .negInf else .posInf }
  | .fin neg m e => clampExact neg m e

/-- The exact product of two operands, clamped into the window (R50, R52). -/
def exactProduct (a b : Num) : ExactVal :=
  match a, b with
  | .nan, _ => { ExactVal.zero with cls := .nan, nanIn := true }
  | _, .nan => { ExactVal.zero with cls := .nan, nanIn := true }
  | .inf s, .inf t => { ExactVal.zero with cls := if s != t then .negInf else .posInf }
  | .inf s, .fin t m _ =>
    { ExactVal.zero with cls := if m == 0 then .nan else if s != t then .negInf else .posInf }
  | .fin s m _, .inf t =>
    { ExactVal.zero with cls := if m == 0 then .nan else if s != t then .negInf else .posInf }
  | .fin s m e, .fin t n f => clampExact (s != t) (m * n) (e + f)

/-- The 12-bit sum status (R51). -/
def ExactVal.status (a : ExactVal) : BitVec 12 :=
  BitVec.ofNat 12 (a.cls.code + 4 * boolNat a.winLo + 8 * boolNat a.winHi + 16 * boolNat a.high + 32 * a.wrap.toNat)

/-- An exact value read back from V and its sum status. -/
def ExactVal.ofStatus (v : BitVec 192) (st : BitVec 12) : ExactVal :=
  { v := v
    cls := SumClass.ofCode (natBits 1 0 st.toNat)
    winLo := st.getLsbD 2
    winHi := st.getLsbD 3
    high := st.getLsbD 4
    wrap := BitVec.ofNat 7 (natBits 11 5 st.toNat)
    nanIn := natBits 1 0 st.toNat == 3 }

/-- The rounding modes (R64). -/
inductive Rnd where
  | rne | rtz | rto | sr
  deriving DecidableEq, Repr

def Rnd.ofCode : Nat → Rnd
  | 0 => .rne | 1 => .rtz | 2 => .rto | _ => .sr

/-- The condition flags of R69. -/
structure RFlags where
  nanIn : Bool := false
  nanGen : Bool := false
  infOut : Bool := false
  outSat : Bool := false
  scaleNan : Bool := false
  deriving DecidableEq, Repr

def RFlags.or (a b : RFlags) : RFlags :=
  { nanIn := a.nanIn || b.nanIn, nanGen := a.nanGen || b.nanGen, infOut := a.infOut || b.infOut
    outSat := a.outSat || b.outSat, scaleNan := a.scaleNan || b.scaleNan }

/-- `mag * 2^exp` rounded to a multiple of `2^k` (R64, R70): the quotient, and whether the magnitude grew.
`r` is the 16-bit generator value that SR uses. -/
def roundAt (rnd : Rnd) (r : Nat) (mag : Nat) (exp k : Int) : Nat × Bool :=
  if k ≤ exp then (mag <<< (exp - k).toNat, false)
  else
    let sh := (k - exp).toNat
    let q := mag >>> sh
    let rem := mag % 2 ^ sh
    match rnd with
    | .rtz => (q, false)
    | .rto => if rem != 0 && q % 2 == 0 then (q + 1, true) else (q, false)
    | .rne =>
      if 2 ^ sh < 2 * rem || (2 ^ sh == 2 * rem && q % 2 == 1) then (q + 1, true) else (q, false)
    | .sr => if 0x10000 ≤ (rem <<< 16) >>> sh + r then (q + 1, true) else (q, false)

/-- The exponent of the unit in the last place of `mag * 2^exp` in an encoding, with gradual underflow. -/
def Enc.ulp (f : Enc) (mag : Nat) (exp : Int) : Int :=
  max f.minExp ((Nat.log2 mag : Int) + exp - f.mbits)

/-- `q * 2^k` lies above the largest finite value. -/
def Enc.above (f : Enc) (q : Nat) (k : Int) : Bool :=
  if f.maxK ≤ k then decide (f.maxQ < q <<< (k - f.maxK).toNat) else decide (f.maxQ <<< (f.maxK - k).toNat < q)

/-- The sign bit of an encoding. -/
def Enc.signBit (f : Enc) (neg : Bool) : Nat := boolNat neg * 2 ^ (f.mbits + f.ebits)

/-- The encoding of a representable `q * 2^k`, where k is the unit of its binade or q is a power of two above it. -/
def Enc.encode (f : Enc) (neg : Bool) (q : Nat) (k : Int) : Nat :=
  let carry := 2 ^ (f.mbits + 1) ≤ q
  let q' := if carry then q / 2 else q
  let k' := if carry then k + 1 else k
  f.signBit neg +
    (if q' < 2 ^ f.mbits then q' else ((k' + f.bias + f.mbits).toNat) * 2 ^ f.mbits + (q' - 2 ^ f.mbits))

/-- The largest finite value with a sign. -/
def Enc.largest (f : Enc) (neg : Bool) : Nat := f.encode neg f.maxQ f.maxK

/-- An infinite value at a rounding point (R68). -/
def Enc.infinityResult (f : Enc) (neg sat : Bool) : Nat × RFlags :=
  if sat then (f.largest neg, { outSat := true })
  else if f.hasInf then (f.signBit neg + (2 ^ f.ebits - 1) * 2 ^ f.mbits, { infOut := true })
  else (f.nan, { nanGen := true })

/-- An overflow (R68): RNE, and SR that rounded away from zero, give the infinity; RTZ, RTO and SR toward zero give
the largest finite value. -/
def Enc.overflowResult (f : Enc) (neg sat away : Bool) (rnd : Rnd) : Nat × RFlags :=
  if sat then (f.largest neg, { outSat := true })
  else match rnd with
    | .rne => f.infinityResult neg false
    | .sr => if away then f.infinityResult neg false else (f.largest neg, { outSat := true })
    | .rtz | .rto => (f.largest neg, { outSat := true })

/-- A finite value rounded into an encoding (R66, R67: a nonzero value that rounds to zero keeps its sign). A lane that is -0 keeps its
sign too: the spec speaks of exact sums and of all-zero MX blocks (DESIGN CHOICE, assumption 85). -/
def Enc.round (f : Enc) (rnd : Rnd) (sat : Bool) (r : Nat) (neg : Bool) (mag : Nat) (exp : Int) : Nat × RFlags :=
  if mag == 0 then (f.signBit neg, {})
  else
    let k := f.ulp mag exp
    let (q, away) := roundAt rnd r mag exp k
    if f.above q k then f.overflowResult neg sat away rnd else (f.encode neg q k, {})

/-- round_exact (R66 to R68). -/
def ExactVal.round (a : ExactVal) (f : Enc) (rnd : Rnd) (sat : Bool) (r : Nat) : Nat × RFlags :=
  match a.cls with
  | .nan => (f.nan, if a.nanIn then { nanIn := true } else { nanGen := true })
  | .posInf => f.infinityResult false sat
  | .negInf => f.infinityResult true sat
  | .finite =>
    if a.toInt == 0 then (0, {})
    else f.round rnd sat r (decide (a.toInt < 0)) a.toInt.natAbs (-96)

/-- A vector-unit conversion of an FP32 value into a scalar encoding (R76). -/
def Num.round (n : Num) (f : Enc) (rnd : Rnd) (sat : Bool) (r : Nat) : Nat × RFlags :=
  match n with
  | .nan => (f.nan, { nanIn := true })
  | .inf neg => f.infinityResult neg sat
  | .fin neg m e => f.round rnd sat r neg m e

/-- The stochastic-rounding generator (R71): the 16-bit value r of one element. -/
def srValue (tag waymark : W32) (index : BitVec 48) : Nat :=
  let k : W64 := tag ++ waymark
  let z := k + (index.setWidth 64 + 1) * 0x9E3779B97F4A7C15#64
  let z := (z ^^^ (z >>> 30)) * 0xBF58476D1CE4E5B9#64
  let z := (z ^^^ (z >>> 27)) * 0x94D049BB133111EB#64
  let z := z ^^^ (z >>> 31)
  (z >>> 48).toNat

/-! ### FP32 arithmetic of the vector unit (R79, R80) -/

/-- A finite sum of two signed dyadics rounded to FP32 with RNE. -/
def fpAddFin (s : Bool) (m : Nat) (e : Int) (t : Bool) (n : Nat) (g : Int) : W32 :=
  let k := min e g
  let a : Int := (m <<< (e - k).toNat : Nat)
  let b : Int := (n <<< (g - k).toNat : Nat)
  let x := (if s then -a else a) + (if t then -b else b)
  if x == 0 then BitVec.ofNat 32 (Enc.fp32.signBit (s && t))
  else BitVec.ofNat 32 (Enc.fp32.round .rne false 0 (decide (x < 0)) x.natAbs k).1

def fpNan : W32 := 0x7FC00000#32

def fpInf (neg : Bool) : W32 := if neg then 0xFF800000#32 else 0x7F800000#32

/-- FP32 addition, RNE. -/
def fpAdd (a b : W32) : W32 :=
  match Enc.fp32.decode a.toNat, Enc.fp32.decode b.toNat with
  | .nan, _ => fpNan
  | _, .nan => fpNan
  | .inf s, .inf t => if s == t then fpInf s else fpNan
  | .inf s, .fin _ _ _ => fpInf s
  | .fin _ _ _, .inf t => fpInf t
  | .fin s m e, .fin t n g => fpAddFin s m e t n g

/-- FP32 multiplication, RNE. -/
def fpMul (a b : W32) : W32 :=
  match Enc.fp32.decode a.toNat, Enc.fp32.decode b.toNat with
  | .nan, _ => fpNan
  | _, .nan => fpNan
  | .inf s, .inf t => fpInf (s != t)
  | .inf s, .fin t m _ => if m == 0 then fpNan else fpInf (s != t)
  | .fin s m _, .inf t => if m == 0 then fpNan else fpInf (s != t)
  | .fin s m e, .fin t n g => BitVec.ofNat 32 (Enc.fp32.round .rne false 0 (s != t) (m * n) (e + g)).1

/-- FP32 fused multiply-add `a * b + c`, one rounding. -/
def fpFma (a b c : W32) : W32 :=
  match Enc.fp32.decode a.toNat, Enc.fp32.decode b.toNat, Enc.fp32.decode c.toNat with
  | .nan, _, _ => fpNan
  | _, .nan, _ => fpNan
  | .fin s m e, .fin t n g, z =>
    match z with
    | .nan => fpNan
    | .inf u => fpInf u
    | .fin u p h => fpAddFin (s != t) (m * n) (e + g) u p h
  | x, y, z =>
    let zero := match x, y with
      | .fin _ m _, _ => m == 0
      | _, .fin _ m _ => m == 0
      | _, _ => false
    let neg := (match x with | .inf s => s | .fin s _ _ => s | .nan => false) !=
      (match y with | .inf s => s | .fin s _ _ => s | .nan => false)
    if zero then fpNan
    else match z with
      | .nan => fpNan
      | .inf u => if u == neg then fpInf u else fpNan
      | .fin _ _ _ => fpInf neg

/-- The sign flipped. -/
def fpNeg (a : W32) : W32 := a ^^^ 0x80000000#32

/-- The fixed reduction tree over 16 lanes (R80). -/
def laneTree (v : Nat → W32) : W32 :=
  let half (b : Nat) := fpAdd (fpAdd (fpAdd (v b) (v (b + 1))) (fpAdd (v (b + 2)) (v (b + 3))))
    (fpAdd (fpAdd (v (b + 4)) (v (b + 5))) (fpAdd (v (b + 6)) (v (b + 7))))
  fpAdd (half 0) (half 8)

/-! ### Element formats (R42) -/

/-- The element formats of R42 that hold numbers one element at a time. -/
inductive Fmt where
  | fp32 | bf16 | fp16 | e4m3 | e5m2 | mxE4m3 | mxE5m2 | mxE3m2 | mxE2m3 | mxE2m1 | mxInt8 | mask1 | exact192
  deriving DecidableEq, Repr

def Fmt.ofCode : Nat → Option Fmt
  | 0 => some .fp32 | 1 => some .bf16 | 2 => some .fp16 | 3 => some .e4m3 | 4 => some .e5m2
  | 5 => some .mxE4m3 | 6 => some .mxE5m2 | 7 => some .mxE3m2 | 8 => some .mxE2m3 | 9 => some .mxE2m1
  | 10 => some .mxInt8 | 11 => some .mask1 | 12 => some .exact192
  | _ => none

/-- Bits of one element. -/
def Fmt.bits : Fmt → Nat
  | .fp32 => 32 | .bf16 => 16 | .fp16 => 16 | .e4m3 => 8 | .e5m2 => 8 | .mxE4m3 => 8 | .mxE5m2 => 8
  | .mxE3m2 => 6 | .mxE2m3 => 6 | .mxE2m1 => 4 | .mxInt8 => 8 | .mask1 => 1 | .exact192 => 256

/-- The MX formats: elements in blocks of 32 with a scale byte (R42). -/
def Fmt.isMx : Fmt → Bool
  | .mxE4m3 | .mxE5m2 | .mxE3m2 | .mxE2m3 | .mxE2m1 | .mxInt8 => true
  | .fp32 | .bf16 | .fp16 | .e4m3 | .e5m2 | .mask1 | .exact192 => false

/-- The encoding of an element, where it is a floating one. -/
def Fmt.enc : Fmt → Option Enc
  | .fp32 => some .fp32 | .bf16 => some .bf16 | .fp16 => some .fp16
  | .e4m3 | .mxE4m3 => some .e4m3
  | .e5m2 | .mxE5m2 => some .e5m2
  | .mxE3m2 => some .e3m2 | .mxE2m3 => some .e2m3 | .mxE2m1 => some .e2m1
  | .mxInt8 | .mask1 | .exact192 => none

/-- An element read with its own scale byte (R46, R48); scalar formats take no scale. -/
def Fmt.read (f : Fmt) (w scale : Nat) : Num :=
  let n := match f.enc with
    | some e => e.decode w
    | none => decodeInt8 w
  if f.isMx then n.scaled scale else n

/-- emax of the MX quantisation (R78). -/
def Fmt.emax : Fmt → Int
  | .mxE4m3 => 8 | .mxE5m2 => 15 | .mxE3m2 => 4 | .mxE2m3 => 2 | .mxE2m1 => 2
  | .mxInt8 | .fp32 | .bf16 | .fp16 | .e4m3 | .e5m2 | .mask1 | .exact192 => 0

/-- The operand pairs of the matrix unit and their MACs per cycle (R49); none where the pair is refused. -/
def Fmt.pairRate (a b : Fmt) : Option Nat :=
  let low : Fmt → Bool := fun f => match f with
    | .e4m3 | .e5m2 | .mxE4m3 | .mxE5m2 | .mxE3m2 | .mxE2m3 | .mxE2m1 | .mxInt8 => true
    | .fp32 | .bf16 | .fp16 | .mask1 | .exact192 => false
  let half : Fmt → Bool := fun f => f == .bf16 || f == .fp16
  if a == .mxE2m1 && b == .mxE2m1 then some 128
  else if low a && low b then some 64
  else if half a && half b then some 16
  else none

/-- One element of an MX block: `v / 2^x` rounded and limited (R78). -/
def quantElem (f : Fmt) (rnd : Rnd) (r : Nat) (x : Int) : Num → Nat × RFlags
  | .fin neg m e =>
    match f.enc with
    | some en => en.round rnd true r neg m (e - x)
    | none =>
      let (q, _) := roundAt rnd r m (e - x + 6) 0
      let c := min q 127
      (if neg then (256 - c) % 256 else c, { outSat := decide (127 < q) })
  | .nan | .inf _ => (0, {})

/-- quantise_mx (R78): the scale byte, the element codes with their flags, and whether SCALE_NAN is raised. `r i` is the
generator value of element i. -/
def quantiseMx (f : Fmt) (rnd : Rnd) (r : Nat → Nat) (v : List W32) : Nat × List (Nat × RFlags) × Bool :=
  let ns := v.map (fun w => Enc.fp32.decode w.toNat)
  if ns.any (fun n => match n with | .fin _ _ _ => false | .nan | .inf _ => true) then
    (0xFF, v.map (fun _ => (0, {})), true)
  else
    let tops := ns.filterMap (fun n => match n with
      | .fin _ m e => if m == 0 then none else some ((Nat.log2 m : Int) + e)
      | .nan | .inf _ => none)
    match tops with
    | [] => (0, v.map (fun _ => (0, {})), false)
    | t :: ts =>
      let x := max (-127) (min 127 (ts.foldl max t - f.emax))
      ((x + 127).toNat, ns.mapIdx (fun i n => quantElem f rnd (r i) x n), false)

end Sys2Proof.Machine
end

