-- ==== Sys2Proof/Config.lean ====
section
/-!
DEFINITION. What an implementation fixes and the values the spec leaves open. Each constant is opaque: nothing in Lean
can evaluate it, so a statement about it holds whatever its value is.
-/
namespace Sys2Proof

/-- The fused value of a register, by page type code, page instance and offset: the "fuse" entries of the Reset
columns (00_scope, Registers). Assumption 10. -/
opaque Config.fuse : Nat → Nat → Nat → W64

/-- A free value: what the spec leaves open where the machine goes on. It is applied to the counter `State.free`, which
the step reads and advances. Assumption 11. -/
opaque Config.freeValue : Nat → Nat

/-- The fused maximum frequency of a physical tile at VNOM, as an FCODE, by field instance, physical row and physical column
of the field (R554). Assumption 10. -/
opaque Config.tileCode : Nat → Nat → Nat → BitVec 5

/-- The attach router of an edge port group in a field, by field instance: logical row and logical column (R23, R342).
Assumption 10. -/
opaque Config.edgeAttach : Nat → Nat × Nat

/-- The attach router of a bridge link in its field of plane 0: logical row and logical column; the facing router of plane 1 is
its mirror image (R23, R489). Assumption 10. -/
opaque Config.bridgeAttach : Nat → Nat × Nat

/-- SHA3-256 of Holtide's root key, as fused (R655). Assumption 10. -/
opaque Config.rootKeyHash : List Byte

/-- The ML-DSA-44 verification of FIPS 204: public key, message, signature (R655, R664). Assumption 13. -/
opaque Config.mlDsaVerify : List Byte → List Byte → List Byte → Bool

/-- The ML-DSA-44 signature of FIPS 204: seed of the key pair, message (R660, R665). Assumption 13. -/
opaque Config.mlDsaSign : List Byte → List Byte → List Byte

/-- The ML-DSA-44 public key of FIPS 204 that a seed gives (R660). Assumption 13. -/
opaque Config.mlDsaPublic : List Byte → List Byte

/-- The fused seed and the PUF response of the security die (R660). Assumption 10. -/
opaque Config.fusedSeed : List Byte
opaque Config.pufResponse : List Byte

/-- Holtide's public debug key (R664). Assumption 10. -/
opaque Config.debugKey : List Byte

/-- FUSE_DIGEST of an attestation report, by debug state, SVN counters and tamper count: how the fuses are laid out under the hash
is not stated (R665). Assumption 11. -/
opaque Config.fuseDigest : Nat → List Nat → Nat → List Byte

/-- The answer to a PLDM message, by a free value's index and the message: its content is that of DSP0240, DSP0248 and DSP0257
(R669). Assumption 11. -/
opaque Config.pldmAnswer : Nat → List Byte → List Byte

/-- Holtide's PCI-SIG vendor ID (R666). Assumption 10. -/
opaque Config.vendorId : BitVec 16

/-- The certificate chain that the management controller stores (R661). Assumption 10. -/
opaque Config.certChain : List Byte

/-- What a firmware bank holds at manufacture: stage s, bank b at 2s + b (R656). Assumption 10. -/
opaque Config.flashBank : Nat → List Byte

end Sys2Proof
end

