-- ==== Sys2Proof/Machine/Pages.lean ====
section
/-!
DEFINITION. The register pages: every register of every page, its fields, access, reset value and legal range, and
every counter with its milepost shadow. Spec: the register tables of 02 to 14, 00_scope R13 to R16, R528 (common
header), R529 (page types), R84 (counters). Which registers their chapter gives to service firmware alone is `fw`.
-/
namespace Sys2Proof.Machine

/-- The page types (R529; R581, 13 and 14 for the types from 0x20). -/
inductive PageType where
  | DIR | HIF | ENG | BRG | CWY | AEN | SEN | MLW | VLX | EMP | HBM | VPT | MESH | FEP | ARF | TSQ | SPD | PAS | MRK | PWR | FPW | FEN | NRG | FLT | LKO | SYS | SEC
  deriving DecidableEq, Repr

/-- A register page: its type and its instance number (R528). -/
structure Page where
  typ : PageType
  inst : Nat
  deriving DecidableEq, Repr

/-- The page type codes (R529). -/
def PageType.code : PageType → Nat
  | .DIR => 0x0001
  | .HIF => 0x0002
  | .ENG => 0x0003
  | .BRG => 0x0004
  | .CWY => 0x0005
  | .AEN => 0x0010
  | .SEN => 0x0011
  | .MLW => 0x0012
  | .VLX => 0x0013
  | .EMP => 0x0014
  | .HBM => 0x0015
  | .VPT => 0x0016
  | .MESH => 0x0018
  | .FEP => 0x0019
  | .ARF => 0x001A
  | .TSQ => 0x001B
  | .SPD => 0x001C
  | .PAS => 0x001D
  | .MRK => 0x001E
  | .PWR => 0x0020
  | .FPW => 0x0021
  | .FEN => 0x0022
  | .NRG => 0x0023
  | .FLT => 0x0024
  | .LKO => 0x0025
  | .SYS => 0x0026
  | .SEC => 0x0027

/-- The access codes (R16). -/
inductive Access where
  | ro | rw | w1c | wo | rws
  deriving DecidableEq, Repr

/-- One field of a register. `codes` bounds an enumerated field: a code above it is a reserved encoding (R14). -/
structure FldSpec where
  hi : Nat
  lo : Nat
  acc : Access
  reset : Nat
  fuse : Bool
  min : Nat
  max : Nat
  codes : Option Nat

/-- One register: its page offset, whether only service firmware (or an engine) writes it, and its fields. -/
structure RegSpec where
  off : Nat
  fw : Bool
  flds : List FldSpec

def ro (hi lo reset : Nat) : FldSpec := ⟨hi, lo, .ro, reset, false, 0, 0, none⟩
def fused (hi lo : Nat) : FldSpec := ⟨hi, lo, .ro, 0, true, 0, 0, none⟩
def rw (hi lo reset min max : Nat) : FldSpec := ⟨hi, lo, .rw, reset, false, min, max, none⟩
def rwFused (hi lo min max : Nat) : FldSpec := ⟨hi, lo, .rw, 0, true, min, max, none⟩
def rwEnum (hi lo reset codes : Nat) : FldSpec := ⟨hi, lo, .rw, reset, false, 0, codes, some codes⟩
def w1c (hi lo : Nat) : FldSpec := ⟨hi, lo, .w1c, 0, false, 0, 0, none⟩
def wo (hi lo : Nat) : FldSpec := ⟨hi, lo, .wo, 0, false, 0, 0, none⟩
def rws (hi lo reset min max : Nat) : FldSpec := ⟨hi, lo, .rws, reset, false, min, max, none⟩

/-- A counter register or its shadow: bits [47:0], read only (R84), or all 64 bits (R273, R591). -/
def ctrReg (off : Nat) (wide : Bool) : RegSpec := ⟨off, false, [ro (if wide then 63 else 47) 0 0]⟩

/-- Defined bits of IRQ_STATUS of a page (R528: the others are reserved). -/
def PageType.irqBits : PageType → Nat
  | .DIR => 1
  | .HIF => 3
  | .ENG => 4
  | .BRG => 3
  | .CWY => 1
  | .AEN => 3
  | .SEN => 3
  | .MLW => 1
  | .VLX => 2
  | .EMP => 2
  | .HBM => 0
  | .VPT => 2
  | .MESH => 6
  | .FEP => 0
  | .ARF => 2
  | .TSQ => 3
  | .SPD => 4
  | .PAS => 3
  | .MRK => 2
  | .PWR => 6
  | .FPW => 3
  | .FEN => 0
  | .NRG => 0
  | .FLT => 6
  | .LKO => 2
  | .SYS => 4
  | .SEC => 2

/-- Defined bits of ERR_STATUS of a page. -/
def PageType.errBits : PageType → Nat
  | .DIR => 0
  | .HIF => 0
  | .ENG => 1
  | .BRG => 0
  | .CWY => 0
  | .AEN => 0
  | .SEN => 1
  | .MLW => 1
  | .VLX => 1
  | .EMP => 0
  | .HBM => 0
  | .VPT => 0
  | .MESH => 4
  | .FEP => 0
  | .ARF => 0
  | .TSQ => 0
  | .SPD => 0
  | .PAS => 0
  | .MRK => 0
  | .PWR => 2
  | .FPW => 0
  | .FEN => 0
  | .NRG => 0
  | .FLT => 1
  | .LKO => 0
  | .SYS => 1
  | .SEC => 0

/-- The registers of page DIR beside the header and the counters. -/
def regsDIR : List RegSpec :=
  [
    ⟨0x80, false, [ro 15 0 0]⟩,
    ⟨0x88, false, [ro 3 0 0, ro 4 4 0, w1c 31 31, ro 63 32 0]⟩,
    ⟨0x90, false, [ro 25 0 0]⟩,
    ⟨0x98, false, [ro 63 0 0]⟩]

/-- The registers of page HIF beside the header and the counters. -/
def regsHIF : List RegSpec :=
  [
    ⟨0x80, false, [ro 3 0 0, ro 8 4 0, ro 9 9 0]⟩,
    ⟨0x88, false, [rw 0 0 0 0 1, rw 47 30 0 0 262143]⟩,
    ⟨0x90, false, [ro 5 0 30]⟩,
    ⟨0x98, false, [ro 0 0 0, wo 1 1, wo 2 2, w1c 3 3]⟩,
    ⟨0xA0, false, [ro 1 0 0, ro 2 2 0, ro 3 3 0, w1c 31 31]⟩,
    ⟨0xA8, false, [ro 63 0 0]⟩]

/-- The registers of page ENG beside the header and the counters. -/
def regsENG : List RegSpec :=
  [
    ⟨0x80, false, [rw 13 0 50 1 10000, rw 25 14 120 1 3600]⟩,
    ⟨0x88, false, [ro 31 0 0, ro 32 32 0]⟩,
    ⟨0x90, false, [ro 19 0 0, ro 25 20 0, ro 29 26 0, ro 30 30 0, w1c 31 31, ro 63 32 0]⟩,
    ⟨0x98, false, [ro 7 0 0, ro 15 8 0, ro 47 16 0, ro 51 48 0]⟩,
    ⟨0xA0, false, [wo 0 0, ro 1 1 0, ro 5 2 0, ro 63 32 0]⟩,
    ⟨0xA8, false, [ro 31 0 0, ro 63 32 0]⟩] ++
    (List.range 64).map (fun n => ⟨0x100 + 0x30 * n, false, [rw 63 0 0 0 18446744073709551615]⟩) ++
    (List.range 64).map (fun n => ⟨0x108 + 0x30 * n, false, [rw 4 0 6 6 20, rwEnum 6 5 0 2, rw 7 7 0 0 1, rw 9 8 0 0 3]⟩) ++
    (List.range 64).map (fun n => ⟨0x110 + 0x30 * n, false, [ro 19 0 0, ro 39 20 0, ro 59 40 0]⟩) ++
    (List.range 64).map (fun n => ⟨0x118 + 0x30 * n, false, [rw 63 0 0 0 18446744073709551615]⟩) ++
    (List.range 64).map (fun n => ⟨0x120 + 0x30 * n, false, [rw 4 0 6 4 20, rwEnum 6 5 0 2, rw 17 7 0 0 2047, ro 37 18 0, ro 57 38 0, ro 58 58 1]⟩) ++
    (List.range 64).map (fun n => ⟨0x128 + 0x30 * n, false, [ro 2 0 0, wo 3 3, ro 23 4 0, ro 31 24 0, ro 63 32 0]⟩)

/-- The registers of page BRG beside the header and the counters. -/
def regsBRG : List RegSpec :=
  [
    ⟨0x80, true, [wo 0 0]⟩,
    ⟨0x88, false, [ro 63 0 0]⟩,
    ⟨0x90, false, [ro 0 0 0, ro 1 1 0]⟩]

/-- The registers of page CWY beside the header and the counters. -/
def regsCWY : List RegSpec :=
  [
    ⟨0x80, true, [rwEnum 2 0 0 4, rw 10 3 0 0 255, rw 18 11 0 0 255, wo 19 19, ro 20 20 0, ro 23 21 0]⟩] ++
    (List.range 4).map (fun n => ⟨0x88 + 0x8 * n, true, [rw 63 0 0 0 18446744073709551615]⟩)

/-- The registers of page AEN beside the header and the counters. -/
def regsAEN : List RegSpec :=
  [
    ⟨0x80, false, [rw 15 0 2000 2 60000, rw 16 16 1 0 1]⟩,
    ⟨0x88, false, [ro 63 0 0]⟩,
    ⟨0x90, false, [ro 3 0 0, ro 15 4 0, ro 16 16 0, ro 21 17 31, ro 63 32 0]⟩,
    ⟨0x98, false, [ro 4 0 0, ro 5 5 0, ro 11 6 0, ro 18 12 0, ro 25 19 0, ro 27 26 0, w1c 31 31, ro 63 32 0]⟩,
    ⟨0xA0, false, [ro 63 0 0]⟩,
    ⟨0xA8, false, [ro 31 0 0]⟩]

/-- The registers of page SEN beside the header and the counters. -/
def regsSEN : List RegSpec :=
  [
    ⟨0x80, true, [rw 15 0 20 2 10000, rw 18 16 2 0 7, rw 35 20 200 10 65535, rw 51 36 5000 10 60000]⟩,
    ⟨0x88, true, [rw 15 0 0 0 65535, rw 31 16 2 0 65535, rw 47 32 20 0 65535, rw 63 48 200 0 65535]⟩,
    ⟨0x90, true, [rw 10 0 512 0 1024]⟩,
    ⟨0x98, false, [rw 19 0 0 0 1048575, ro 20 20 0]⟩,
    ⟨0xA0, false, [ro 2 0 0, ro 10 3 0, ro 12 11 0, ro 14 13 0, ro 17 15 0, ro 21 18 0, ro 63 32 0]⟩,
    ⟨0xA8, false, [ro 31 0 0, ro 63 32 0]⟩,
    ⟨0xB0, false, [rw 5 0 0 0 59]⟩,
    ⟨0xB8, false, [ro 63 0 0]⟩,
    ⟨0xC0, false, [ro 63 0 0]⟩,
    ⟨0xC8, false, [ro 3 0 0, ro 6 4 0, ro 26 7 0, w1c 31 31, ro 63 32 0]⟩,
    ⟨0xD0, false, [ro 31 0 0, ro 37 32 0]⟩,
    ⟨0xD8, false, [ro 63 0 0]⟩] ++
    (List.range 8).map (fun n => ⟨0x300 + 0x8 * n, false, [ro 10 0 0, ro 21 11 0, ro 42 32 0]⟩) ++
    (List.range 8).map (fun n => ⟨0x340 + 0x8 * n, true, [rwFused 9 0 0 767, rwFused 19 10 0 1023]⟩)

/-- The registers of page MLW beside the header and the counters. -/
def regsMLW : List RegSpec :=
  [
    ⟨0x80, true, [rw 13 0 50 1 10000]⟩,
    ⟨0x88, true, [ro 3 0 0, ro 19 4 0, ro 20 20 0, ro 21 21 0, w1c 31 31, ro 63 32 0]⟩,
    ⟨0x90, false, [ro 63 0 0]⟩,
    ⟨0x98, false, [ro 63 0 0]⟩] ++
    (List.range 16).map (fun n => ⟨0x100 + 0x8 * n, false, [ro 1 0 0, ro 2 2 0, ro 3 3 0, ro 31 16 0, ro 63 32 0]⟩) ++
    (List.range 16).map (fun n => ⟨0x180 + 0x8 * n, false, [ro 63 0 0]⟩)

/-- The registers of page VLX beside the header and the counters. -/
def regsVLX : List RegSpec :=
  [
    ⟨0x80, true, [rw 15 0 20 2 10000, rw 18 16 2 0 7, rw 19 19 1 0 1, rw 35 20 10 1 65535, rw 51 36 100 10 65535]⟩,
    ⟨0x88, false, [rw 7 0 0 1 64]⟩,
    ⟨0x90, true, [rw 47 0 0 0 281474976710655]⟩,
    ⟨0x98, true, [rw 47 0 0 0 281474976710655]⟩,
    ⟨0xE0, true, [ro 0 0 0, ro 8 1 0, ro 13 9 0, ro 17 14 0, w1c 31 31, ro 63 32 0]⟩,
    ⟨0xE8, false, [ro 63 0 0]⟩,
    ⟨0xF0, false, [ro 31 0 0, ro 39 32 0, ro 47 40 0]⟩] ++
    (List.range 8).map (fun n => ⟨0xA0 + 0x8 * n, true, [rw 31 0 0 0 4294967295, rw 32 32 0 0 1]⟩)

/-- The registers of page EMP beside the header and the counters. -/
def regsEMP : List RegSpec :=
  [
    ⟨0x80, false, [ro 47 0 0, ro 52 48 0]⟩,
    ⟨0x88, false, [ro 23 0 0]⟩,
    ⟨0x90, false, [rw 0 0 1 0 1, rw 8 1 24 1 168]⟩,
    ⟨0x98, false, [ro 4 0 0, ro 10 5 0, ro 13 11 0, w1c 31 31, ro 63 32 0]⟩,
    ⟨0xA0, false, [ro 47 0 0]⟩,
    ⟨0xA8, false, [ro 63 0 0]⟩]

/-- The registers of page HBM beside the header and the counters. -/
def regsHBM : List RegSpec :=
  [
    ⟨0x80, false, [ro 2 0 0, fused 7 3, fused 15 8, ro 23 16 0, ro 24 24 0]⟩,
    ⟨0x88, false, [fused 47 0]⟩]

/-- The registers of page VPT beside the header and the counters. -/
def regsVPT : List RegSpec :=
  [
    ⟨0x80, true, [rw 0 0 0 0 1, wo 1 1]⟩,
    ⟨0x88, false, [ro 2 0 0, ro 10 3 0, ro 13 11 0]⟩]

/-- The registers of page MESH beside the header and the counters. -/
def regsMESH : List RegSpec :=
  [
    ⟨0x80, false, [rw 15 0 10 1 1000, rw 31 16 1000 10 65535]⟩,
    ⟨0x88, false, [rw 0 0 1 0 1, rwEnum 2 1 0 2, rw 19 4 4096 256 65535]⟩,
    ⟨0x90, false, [rw 23 0 10000 100 10000000]⟩,
    ⟨0x98, true, [rwEnum 1 0 0 2, wo 2 2, ro 3 3 0, ro 5 4 0]⟩,
    ⟨0xA0, false, [ro 0 0 0, ro 1 1 0, ro 5 2 0, ro 63 32 0]⟩,
    ⟨0xB0, false, [ro 6 0 0, ro 13 7 0, ro 15 14 0, ro 18 16 0, ro 20 19 0, w1c 31 31, ro 63 32 0]⟩,
    ⟨0xB8, false, [ro 23 0 0]⟩,
    ⟨0xC0, false, [ro 63 0 0]⟩,
    ⟨0xC8, false, [ro 3 0 0, ro 10 4 0, ro 17 11 0, ro 19 18 0, ro 21 20 0, w1c 31 31, ro 63 32 0]⟩,
    ⟨0xD0, false, [ro 23 0 0, ro 39 24 0, ro 58 40 0]⟩,
    ⟨0xD8, false, [ro 63 0 0]⟩] ++
    (List.range 16).map (fun n => ⟨0x300 + 0x8 * n, false, [ro 63 0 0]⟩)

/-- The registers of page FEP beside the header and the counters. -/
def regsFEP : List RegSpec :=
  [
    ⟨0x80, true, [rwEnum 1 0 0 2, rw 17 2 0 0 65535, rw 21 18 0 0 15, rwEnum 23 22 0 1, wo 24 24, ro 25 25 0, ro 27 26 0]⟩,
    ⟨0x88, true, [rw 63 0 0 0 18446744073709551615]⟩,
    ⟨0x90, true, [rw 63 0 0 0 18446744073709551615]⟩]

/-- The registers of page ARF beside the header and the counters. -/
def regsARF : List RegSpec :=
  [
    ⟨0x80, false, [rwEnum 1 0 0 1, rw 2 2 0 0 1]⟩,
    ⟨0x88, false, [w1c 0 0, w1c 1 1, w1c 2 2, w1c 3 3, w1c 4 4, w1c 5 5, w1c 6 6, w1c 7 7]⟩,
    ⟨0x90, false, [ro 6 0 0, ro 13 7 0, ro 15 14 0, ro 16 16 0, ro 17 17 0, ro 18 18 0, w1c 31 31, ro 63 32 0]⟩,
    ⟨0x98, false, [ro 63 0 0]⟩]

/-- The registers of page TSQ beside the header and the counters. -/
def regsTSQ : List RegSpec :=
  [
    ⟨0x80, false, [rw 6 0 0 0 95, rw 13 7 0 0 127, rw 15 14 0 0 3, ro 16 16 0]⟩,
    ⟨0x88, false, [ro 2 0 0, ro 4 3 0, ro 12 5 0, ro 19 13 0, ro 20 20 0, ro 21 21 0, ro 22 22 0, ro 23 23 0, ro 24 24 0, ro 25 25 0, ro 26 26 0, ro 27 27 0, ro 63 32 0]⟩,
    ⟨0x90, false, [ro 6 0 0, ro 13 7 0, ro 15 14 0, ro 19 16 0, ro 21 20 0, ro 23 22 0, w1c 31 31, ro 63 32 0]⟩,
    ⟨0x98, false, [ro 63 0 0]⟩]

/-- The registers of page SPD beside the header and the counters. -/
def regsSPD : List RegSpec :=
  [
    ⟨0x80, false, [rw 0 0 1 0 1, rw 15 4 64 1 4095, rw 31 16 100 1 10000, rw 39 32 64 8 255]⟩,
    ⟨0x88, true, [rw 6 0 0 0 95, rw 13 7 0 0 127, rw 20 14 0 0 95, rw 27 21 0 0 127, rw 35 28 0 0 255, rwEnum 37 36 0 2, wo 38 38, ro 39 39 0, ro 41 40 0]⟩,
    ⟨0x90, false, [rw 6 0 0 0 95, rw 13 7 0 0 127, ro 14 14 0]⟩,
    ⟨0x98, false, [ro 23 0 0]⟩,
    ⟨0xA0, false, [ro 6 0 0, ro 13 7 0, ro 14 14 0, ro 17 15 0, ro 19 18 0, w1c 31 31, ro 63 32 0]⟩,
    ⟨0xA8, false, [ro 23 0 0, ro 63 32 0]⟩,
    ⟨0xB0, false, [ro 63 0 0]⟩,
    ⟨0xB8, false, [ro 6 0 0, ro 13 7 0, ro 14 14 0, ro 27 15 0, ro 29 28 0, w1c 31 31, ro 63 32 0]⟩,
    ⟨0xC0, false, [ro 2 0 0, ro 4 3 0]⟩,
    ⟨0xC8, false, [ro 63 0 0]⟩]

/-- The registers of page PAS beside the header and the counters. -/
def regsPAS : List RegSpec :=
  [
    ⟨0x80, false, [ro 11 0 0, ro 12 12 0, ro 14 13 0, ro 63 32 0]⟩,
    ⟨0x88, false, [ro 6 0 0, ro 13 7 0, ro 18 14 0, w1c 31 31, ro 63 32 0]⟩,
    ⟨0x90, false, [ro 31 0 0, ro 63 32 0]⟩,
    ⟨0x98, false, [ro 63 0 0]⟩,
    ⟨0xA0, false, [ro 6 0 0, ro 13 7 0, ro 15 14 0, w1c 31 31, ro 63 32 0]⟩]

/-- The registers of page MRK beside the header and the counters. -/
def regsMRK : List RegSpec :=
  [
    ⟨0x80, true, [rw 13 0 50 1 10000]⟩,
    ⟨0x88, false, [rw 11 0 0 0 4095, ro 12 12 0]⟩,
    ⟨0x90, false, [ro 31 0 0, ro 47 32 0, ro 63 48 0]⟩,
    ⟨0x98, false, [ro 3 0 0, ro 63 32 0]⟩,
    ⟨0xA0, false, [ro 31 0 0, ro 63 32 0]⟩,
    ⟨0xA8, false, [ro 63 0 0]⟩,
    ⟨0xB0, false, [ro 1 0 0, ro 8 2 0, ro 15 9 0, ro 17 16 0, ro 29 18 0, w1c 31 31, ro 43 32 0]⟩,
    ⟨0xB8, false, [ro 63 0 0]⟩]

/-- The registers of page PWR beside the header and the counters. -/
def regsPWR : List RegSpec :=
  [
    ⟨0x80, false, [ro 15 0 0, ro 31 16 0, ro 33 32 2]⟩,
    ⟨0x88, false, [ro 15 0 0, ro 31 16 0, ro 33 32 2]⟩,
    ⟨0x90, false, [ro 31 0 0, ro 63 32 0]⟩,
    ⟨0x98, false, [rw 15 0 38000 12000 38000, rw 31 16 38000 12000 38000, ro 47 32 38000]⟩,
    ⟨0xA0, false, [ro 4 0 22, ro 6 5 0, ro 7 7 0]⟩,
    ⟨0xA8, true, [rw 7 0 95 70 105, rw 15 8 105 80 110, rw 23 16 115 105 120, rw 31 24 95 85 100]⟩,
    ⟨0xB0, false, [ro 9 0 0, ro 19 10 0, ro 31 20 0, ro 32 32 0, ro 35 33 0]⟩,
    ⟨0xB8, true, [rw 0 0 0 0 1, rw 1 1 0 0 1, rw 7 2 0 0 63, wo 8 8, ro 9 9 0, ro 11 10 0]⟩,
    ⟨0xC0, false, [ro 63 0 0]⟩,
    ⟨0xC8, false, [ro 1 0 0]⟩,
    ⟨0xD0, false, [ro 0 0 0, ro 6 1 0, ro 7 7 0, ro 14 8 0, w1c 31 31, ro 63 32 0]⟩,
    ⟨0xD8, false, [ro 63 0 0]⟩,
    ⟨0xE0, false, [ro 0 0 0, ro 6 1 0, ro 8 7 0, w1c 31 31, ro 63 32 0]⟩,
    ⟨0xE8, false, [ro 63 0 0]⟩]

/-- The registers of page FPW beside the header and the counters. -/
def regsFPW : List RegSpec :=
  [
    ⟨0x80, true, [rwEnum 2 0 0 4, wo 3 3, ro 4 4 0, ro 6 5 0]⟩,
    ⟨0x88, false, [ro 2 0 0, ro 7 3 22, ro 12 8 12, ro 14 13 0, ro 22 15 0]⟩,
    ⟨0x90, false, [ro 5 0 40, fused 11 6, fused 19 12, fused 25 20, ro 37 26 0]⟩,
    ⟨0x98, true, [rw 4 0 12 0 22]⟩,
    ⟨0xA0, true, [ro 31 0 0, w1c 32 32]⟩] ++
    (List.range 12).map (fun n => ⟨0x200 + 0x8 * n, false, [ro 4 0 0, ro 9 5 0, ro 13 10 0, ro 21 14 0]⟩)

/-- The registers of page FEN beside the header and the counters. -/
def regsFEN : List RegSpec :=
  [
    ⟨0x80, true, [rws 15 0 16384 13107 20480]⟩,
    ⟨0x88, false, [ro 63 0 0]⟩]

/-- The registers of page NRG beside the header and the counters. -/
def regsNRG : List RegSpec :=
  [
    ⟨0x80, true, [rw 0 0 1 0 1, rw 4 1 4 1 8]⟩,
    ⟨0x88, false, [ro 31 0 0, ro 35 32 0]⟩,
    ⟨0x90, false, [ro 63 0 0]⟩,
    ⟨0x98, false, [ro 63 0 0]⟩,
    ⟨0xA0, false, [ro 63 0 0]⟩,
    ⟨0xA8, false, [ro 63 0 0]⟩] ++
    (List.range 19).map (fun n => ⟨0x200 + 0x8 * n, false, [fused 31 0]⟩)

/-- The registers of page FLT beside the header and the counters. -/
def regsFLT : List RegSpec :=
  [
    ⟨0x80, false, [rw 63 0 0 0 18446744073709551615]⟩,
    ⟨0x88, false, [rw 4 0 6 6 20, rwEnum 6 5 0 2, rw 7 7 0 0 1, rw 18 8 0 0 2047, rw 19 19 0 0 1, ro 20 20 1]⟩,
    ⟨0x90, false, [ro 19 0 0, rw 39 20 0 0 1048575]⟩,
    ⟨0x98, true, [rw 0 0 1 0 1, rw 5 1 12 4 20, rw 10 6 6 0 20, rw 21 11 256 16 2047, rw 35 22 100 10 10000, rw 43 36 24 1 168]⟩,
    ⟨0xA0, false, [rw 47 0 0 0 281474976710655, wo 48 48, ro 49 49 0]⟩,
    ⟨0xB8, false, [ro 2 0 0, ro 8 3 0, ro 9 9 0, ro 63 32 0]⟩,
    ⟨0xC0, false, [rw 47 0 0 0 281474976710655]⟩,
    ⟨0xC8, false, [rw 19 0 0 0 786432]⟩,
    ⟨0xD0, false, [rw 47 0 0 0 281474976710655]⟩,
    ⟨0xD8, false, [rw 19 0 0 0 786432]⟩,
    ⟨0x220, false, [ro 63 0 0]⟩,
    ⟨0x228, false, [ro 63 0 0]⟩] ++
    (List.range 2).map (fun n => ⟨0xA8 + 0x8 * n, false, [ro 5 0 0, ro 8 6 0, ro 9 9 0, ro 15 10 0, ro 28 16 0]⟩) ++
    (List.range 4).map (fun n => ⟨0xE0 + 0x8 * n, false, [ro 63 0 0]⟩) ++
    (List.range 4).map (fun n => ⟨0x200 + 0x8 * n, false, [ro 63 0 0]⟩)

/-- The registers of page LKO beside the header and the counters. -/
def regsLKO : List RegSpec :=
  [
    ⟨0x80, true, [rw 0 0 0 0 1, rw 4 1 6 2 12, rw 10 5 8 2 63, rw 22 11 64 8 4095, rw 26 23 3 1 15, rw 42 27 4096 16 65535]⟩,
    ⟨0x88, true, [rw 47 0 0 0 281474976710655, rw 52 48 6 6 16, rw 60 53 0 0 255]⟩,
    ⟨0x90, false, [ro 63 0 1]⟩,
    ⟨0x98, false, [ro 63 0 0]⟩,
    ⟨0xA0, false, [ro 63 0 0]⟩,
    ⟨0xA8, false, [ro 31 0 0, ro 33 32 0, w1c 34 34]⟩,
    ⟨0xB0, false, [ro 31 0 0, ro 63 32 0]⟩]

/-- The registers of page SYS beside the header and the counters. -/
def regsSYS : List RegSpec :=
  [
    ⟨0x80, false, [ro 2 0 0, ro 5 3 0, ro 8 6 0, ro 31 16 0, fused 63 32]⟩,
    ⟨0x88, false, [ro 0 0 0, ro 1 1 0, w1c 2 2, w1c 3 3]⟩,
    ⟨0x90, false, [rw 15 0 10000 1 65535]⟩,
    ⟨0x98, false, [wo 15 0, wo 16 16]⟩,
    ⟨0xA0, false, [rwEnum 2 0 0 4, rw 3 3 0 0 1, wo 4 4, ro 5 5 0, ro 6 6 0, ro 9 7 0]⟩,
    ⟨0xA8, false, [rw 0 0 0 0 1, rw 6 1 0 0 59, rw 14 7 0 0 255, rw 22 15 0 0 255, rw 26 23 0 0 15]⟩]

/-- The registers of page SEC beside the header and the counters. -/
def regsSEC : List RegSpec :=
  [
    ⟨0x80, false, [fused 1 0, ro 2 2 0, fused 5 3, ro 6 6 0, ro 7 7 0]⟩,
    ⟨0xA8, false, [rwEnum 1 0 0 2, rw 3 2 0 0 3, wo 4 4, ro 5 5 0, ro 8 6 0]⟩,
    ⟨0xB0, false, [rw 47 0 0 0 281474976710655]⟩,
    ⟨0xB8, false, [wo 0 0, wo 31 16]⟩] ++
    (List.range 4).map (fun n => ⟨0x88 + 0x8 * n, false, [ro 7 0 0, fused 15 8, ro 16 16 0, ro 17 17 0, ro 18 18 0, ro 21 19 0, ro 63 32 0]⟩)

/-- The registers of a page beside the header and the counters. -/
def PageType.regs : PageType → List RegSpec
  | .DIR => regsDIR
  | .HIF => regsHIF
  | .ENG => regsENG
  | .BRG => regsBRG
  | .CWY => regsCWY
  | .AEN => regsAEN
  | .SEN => regsSEN
  | .MLW => regsMLW
  | .VLX => regsVLX
  | .EMP => regsEMP
  | .HBM => regsHBM
  | .VPT => regsVPT
  | .MESH => regsMESH
  | .FEP => regsFEP
  | .ARF => regsARF
  | .TSQ => regsTSQ
  | .SPD => regsSPD
  | .PAS => regsPAS
  | .MRK => regsMRK
  | .PWR => regsPWR
  | .FPW => regsFPW
  | .FEN => regsFEN
  | .NRG => regsNRG
  | .FLT => regsFLT
  | .LKO => regsLKO
  | .SYS => regsSYS
  | .SEC => regsSEC

/-- A counter: its offset, its milepost shadow's offset, and whether it has 64 bits (R84, R273, R591). -/
structure CtrSpec where
  off : Nat
  shadow : Nat
  wide : Bool

def ctr (off shadow : Nat) : CtrSpec := ⟨off, shadow, false⟩
def ctrWide (off shadow : Nat) : CtrSpec := ⟨off, shadow, true⟩

/-- The counters of page DIR. -/
def ctrsDIR : List CtrSpec :=
  [ctr 0x100 0x180]

/-- The counters of page HIF. -/
def ctrsHIF : List CtrSpec :=
  [ctr 0x100 0x180,
    ctr 0x108 0x188,
    ctr 0x110 0x190,
    ctr 0x118 0x198]

/-- The counters of page ENG. -/
def ctrsENG : List CtrSpec :=
  [ctr 0xD00 0xE00,
    ctr 0xD08 0xE08,
    ctr 0xD10 0xE10,
    ctr 0xD18 0xE18,
    ctr 0xD20 0xE20,
    ctr 0xD28 0xE28,
    ctr 0xD30 0xE30,
    ctr 0xD38 0xE38,
    ctr 0xD40 0xE40]

/-- The counters of page BRG. -/
def ctrsBRG : List CtrSpec :=
  [ctr 0x100 0x180,
    ctr 0x108 0x188,
    ctr 0x110 0x190,
    ctr 0x118 0x198,
    ctr 0x120 0x1A0,
    ctr 0x128 0x1A8]

/-- The counters of page CWY. -/
def ctrsCWY : List CtrSpec :=
  [ctr 0x100 0x180,
    ctr 0x108 0x188]

/-- The counters of page AEN. -/
def ctrsAEN : List CtrSpec :=
  [ctr 0x100 0x180,
    ctr 0x108 0x188,
    ctr 0x110 0x190,
    ctr 0x118 0x198,
    ctr 0x120 0x1A0]

/-- The counters of page SEN. -/
def ctrsSEN : List CtrSpec :=
  [ctr 0x100 0x180,
    ctr 0x108 0x188,
    ctr 0x110 0x190,
    ctr 0x118 0x198,
    ctr 0x120 0x1A0,
    ctr 0x128 0x1A8,
    ctr 0x130 0x1B0,
    ctr 0x138 0x1B8,
    ctr 0x140 0x1C0,
    ctr 0x148 0x1C8,
    ctr 0x150 0x1D0,
    ctr 0x158 0x1D8,
    ctr 0x160 0x1E0,
    ctr 0x168 0x1E8]

/-- The counters of page MLW. -/
def ctrsMLW : List CtrSpec :=
  [ctr 0x200 0x280,
    ctr 0x208 0x288,
    ctr 0x210 0x290]

/-- The counters of page VLX. -/
def ctrsVLX : List CtrSpec :=
  [ctr 0x100 0x180,
    ctr 0x108 0x188,
    ctr 0x110 0x190,
    ctr 0x118 0x198,
    ctr 0x120 0x1A0,
    ctr 0x128 0x1A8,
    ctr 0x130 0x1B0,
    ctr 0x138 0x1B8,
    ctr 0x140 0x1C0,
    ctr 0x148 0x1C8,
    ctr 0x150 0x1D0]

/-- The counters of page EMP. -/
def ctrsEMP : List CtrSpec :=
  [ctr 0x100 0x180,
    ctr 0x108 0x188,
    ctr 0x110 0x190,
    ctr 0x118 0x198,
    ctr 0x120 0x1A0,
    ctr 0x128 0x1A8,
    ctr 0x130 0x1B0]

/-- The counters of page HBM. -/
def ctrsHBM : List CtrSpec :=
  [ctr 0x100 0x180,
    ctr 0x108 0x188,
    ctr 0x110 0x190,
    ctr 0x118 0x198]

/-- The counters of page VPT. -/
def ctrsVPT : List CtrSpec :=
  [ctr 0x100 0x180,
    ctr 0x108 0x188,
    ctr 0x110 0x190,
    ctr 0x118 0x198,
    ctr 0x120 0x1A0,
    ctr 0x128 0x1A8,
    ctr 0x130 0x1B0,
    ctr 0x138 0x1B8]

/-- The counters of page MESH. -/
def ctrsMESH : List CtrSpec :=
  [ctr 0x100 0x180,
    ctr 0x108 0x188,
    ctr 0x110 0x190,
    ctr 0x118 0x198,
    ctr 0x120 0x1A0,
    ctr 0x128 0x1A8,
    ctr 0x130 0x1B0,
    ctr 0x138 0x1B8,
    ctr 0x140 0x1C0,
    ctr 0x148 0x1C8,
    ctr 0x150 0x1D0,
    ctrWide 0x200 0x280,
    ctrWide 0x208 0x288,
    ctrWide 0x210 0x290,
    ctrWide 0x218 0x298,
    ctrWide 0x220 0x2A0]

/-- The counters of page ARF. -/
def ctrsARF : List CtrSpec :=
  [ctr 0xA0 0x100,
    ctr 0xA8 0x108,
    ctr 0xB0 0x110,
    ctr 0xB8 0x118,
    ctr 0xC0 0x120,
    ctr 0xC8 0x128]

/-- The counters of page TSQ. -/
def ctrsTSQ : List CtrSpec :=
  [ctr 0xA0 0x100,
    ctr 0xA8 0x108,
    ctr 0xB0 0x110,
    ctr 0xB8 0x118,
    ctr 0xC0 0x120,
    ctr 0xC8 0x128,
    ctr 0xD0 0x130]

/-- The counters of page SPD. -/
def ctrsSPD : List CtrSpec :=
  [ctr 0x100 0x180,
    ctr 0x108 0x188,
    ctr 0x110 0x190,
    ctr 0x118 0x198,
    ctr 0x120 0x1A0,
    ctr 0x128 0x1A8,
    ctr 0x130 0x1B0,
    ctr 0x138 0x1B8,
    ctr 0x140 0x1C0,
    ctr 0x148 0x1C8,
    ctr 0x150 0x1D0,
    ctr 0x158 0x1D8] ++
    (List.range 12).map (fun n => ctr (0x200 + 8 * n) (0x280 + 8 * n))

/-- The counters of page PAS. -/
def ctrsPAS : List CtrSpec :=
  [ctr 0x100 0x180,
    ctr 0x108 0x188,
    ctr 0x110 0x190,
    ctr 0x118 0x198,
    ctr 0x120 0x1A0,
    ctr 0x128 0x1A8] ++
    (List.range 12).map (fun n => ctr (0x260 + 8 * n) (0x360 + 8 * n)) ++
    (List.range 12).map (fun n => ctr (0x200 + 8 * n) (0x300 + 8 * n))

/-- The counters of page MRK. -/
def ctrsMRK : List CtrSpec :=
  [ctr 0x100 0x180,
    ctr 0x108 0x188,
    ctr 0x110 0x190,
    ctr 0x118 0x198,
    ctr 0x120 0x1A0,
    ctr 0x128 0x1A8,
    ctr 0x130 0x1B0,
    ctr 0x138 0x1B8]

/-- The counters of page PWR. -/
def ctrsPWR : List CtrSpec :=
  [ctr 0x100 0x180,
    ctr 0x108 0x188,
    ctr 0x110 0x190,
    ctr 0x118 0x198,
    ctr 0x120 0x1A0,
    ctr 0x128 0x1A8,
    ctr 0x130 0x1B0,
    ctr 0x138 0x1B8,
    ctr 0x140 0x1C0]

/-- The counters of page FPW. -/
def ctrsFPW : List CtrSpec :=
  [ctr 0x100 0x180,
    ctr 0x108 0x188,
    ctr 0x110 0x190,
    ctr 0x118 0x198,
    ctr 0x120 0x1A0,
    ctr 0x128 0x1A8]

/-- The counters of page FEN. -/
def ctrsFEN : List CtrSpec :=
  [ctrWide 0x100 0x200,
    ctrWide 0x108 0x208,
    ctrWide 0x110 0x210,
    ctrWide 0x118 0x218,
    ctrWide 0x120 0x220,
    ctrWide 0x128 0x228,
    ctrWide 0x130 0x230,
    ctrWide 0x138 0x238,
    ctrWide 0x140 0x240,
    ctrWide 0x148 0x248,
    ctrWide 0x150 0x250,
    ctrWide 0x158 0x258,
    ctrWide 0x160 0x260,
    ctrWide 0x168 0x268,
    ctrWide 0x170 0x270]

/-- The counters of page FLT. -/
def ctrsFLT : List CtrSpec :=
  [ctr 0x100 0x180,
    ctr 0x108 0x188,
    ctr 0x110 0x190,
    ctr 0x118 0x198,
    ctr 0x120 0x1A0,
    ctr 0x128 0x1A8,
    ctr 0x130 0x1B0,
    ctr 0x138 0x1B8,
    ctr 0x140 0x1C0,
    ctr 0x148 0x1C8,
    ctr 0x150 0x1D0,
    ctr 0x158 0x1D8]

/-- The counters of page LKO. -/
def ctrsLKO : List CtrSpec :=
  [ctr 0x100 0x180,
    ctr 0x108 0x188,
    ctr 0x110 0x190,
    ctr 0x118 0x198,
    ctr 0x120 0x1A0]

/-- The counters of page SYS. -/
def ctrsSYS : List CtrSpec :=
  [ctr 0x100 0x180,
    ctr 0x108 0x188,
    ctr 0x110 0x190,
    ctr 0x118 0x198]

/-- The counters of page SEC. -/
def ctrsSEC : List CtrSpec :=
  [ctr 0x100 0x180,
    ctr 0x108 0x188]

/-- The counters of a page. -/
def PageType.ctrs : PageType → List CtrSpec
  | .DIR => ctrsDIR
  | .HIF => ctrsHIF
  | .ENG => ctrsENG
  | .BRG => ctrsBRG
  | .CWY => ctrsCWY
  | .AEN => ctrsAEN
  | .SEN => ctrsSEN
  | .MLW => ctrsMLW
  | .VLX => ctrsVLX
  | .EMP => ctrsEMP
  | .HBM => ctrsHBM
  | .VPT => ctrsVPT
  | .MESH => ctrsMESH
  | .FEP => []
  | .ARF => ctrsARF
  | .TSQ => ctrsTSQ
  | .SPD => ctrsSPD
  | .PAS => ctrsPAS
  | .MRK => ctrsMRK
  | .PWR => ctrsPWR
  | .FPW => ctrsFPW
  | .FEN => ctrsFEN
  | .NRG => []
  | .FLT => ctrsFLT
  | .LKO => ctrsLKO
  | .SYS => ctrsSYS
  | .SEC => ctrsSEC

/-- A register field, named by its page type, its register and its bits. -/
structure Fld where
  typ : PageType
  off : Nat
  hi : Nat
  lo : Nat
  deriving DecidableEq, Repr

/-- A counter, named by its page type and offset. -/
structure Ctr where
  typ : PageType
  off : Nat
  deriving DecidableEq, Repr

/-! ### Named fields: `F.PAGE_REGISTER_FIELD`; array registers take their index. -/
namespace F

def DIR_COUNT_COUNT : Fld := ⟨.DIR, 0x80, 15, 0⟩
def DIR_WR_FIRST_CODE : Fld := ⟨.DIR, 0x88, 3, 0⟩
def DIR_WR_FIRST_SOURCE : Fld := ⟨.DIR, 0x88, 4, 4⟩
def DIR_WR_FIRST_VALID : Fld := ⟨.DIR, 0x88, 31, 31⟩
def DIR_WR_FIRST_WAYMARK : Fld := ⟨.DIR, 0x88, 63, 32⟩
def DIR_WR_FIRST_ADDR_OFFSET : Fld := ⟨.DIR, 0x90, 25, 0⟩
def DIR_WR_FIRST_DATA_DATA : Fld := ⟨.DIR, 0x98, 63, 0⟩
def HIF_LINK_RATE : Fld := ⟨.HIF, 0x80, 3, 0⟩
def HIF_LINK_WIDTH : Fld := ⟨.HIF, 0x80, 8, 4⟩
def HIF_LINK_FLIT : Fld := ⟨.HIF, 0x80, 9, 9⟩
def HIF_BAR4_WIN_PLANE : Fld := ⟨.HIF, 0x88, 0, 0⟩
def HIF_BAR4_WIN_BASE : Fld := ⟨.HIF, 0x88, 47, 30⟩
def HIF_BAR4_SIZE_LOG2 : Fld := ⟨.HIF, 0x90, 5, 0⟩
def HIF_DMA_CTL_HELD : Fld := ⟨.HIF, 0x98, 0, 0⟩
def HIF_DMA_CTL_RESUME : Fld := ⟨.HIF, 0x98, 1, 1⟩
def HIF_DMA_CTL_DISCARD : Fld := ⟨.HIF, 0x98, 2, 2⟩
def HIF_DMA_CTL_RESET_SEEN : Fld := ⟨.HIF, 0x98, 3, 3⟩
def HIF_BAD_FIRST_BAR : Fld := ⟨.HIF, 0xA0, 1, 0⟩
def HIF_BAD_FIRST_WRITE : Fld := ⟨.HIF, 0xA0, 2, 2⟩
def HIF_BAD_FIRST_POISONED : Fld := ⟨.HIF, 0xA0, 3, 3⟩
def HIF_BAD_FIRST_VALID : Fld := ⟨.HIF, 0xA0, 31, 31⟩
def HIF_BAD_FIRST_OFF_OFFSET : Fld := ⟨.HIF, 0xA8, 63, 0⟩
def ENG_CTL_WAIT_TIMEOUT : Fld := ⟨.ENG, 0x80, 13, 0⟩
def ENG_CTL_WM_HOLD : Fld := ⟨.ENG, 0x80, 25, 14⟩
def ENG_WM_CUR_WM : Fld := ⟨.ENG, 0x88, 31, 0⟩
def ENG_WM_OPEN : Fld := ⟨.ENG, 0x88, 32, 32⟩
def ENG_ERR_FIRST_INDEX : Fld := ⟨.ENG, 0x90, 19, 0⟩
def ENG_ERR_FIRST_QUEUE : Fld := ⟨.ENG, 0x90, 25, 20⟩
def ENG_ERR_FIRST_COMMON : Fld := ⟨.ENG, 0x90, 29, 26⟩
def ENG_ERR_FIRST_CLASS : Fld := ⟨.ENG, 0x90, 30, 30⟩
def ENG_ERR_FIRST_VALID : Fld := ⟨.ENG, 0x90, 31, 31⟩
def ENG_ERR_FIRST_WAYMARK : Fld := ⟨.ENG, 0x90, 63, 32⟩
def ENG_ERR_FIRST_OP_OPCODE : Fld := ⟨.ENG, 0x98, 7, 0⟩
def ENG_ERR_FIRST_OP_STATUS : Fld := ⟨.ENG, 0x98, 15, 8⟩
def ENG_ERR_FIRST_OP_TAG : Fld := ⟨.ENG, 0x98, 47, 16⟩
def ENG_ERR_FIRST_OP_ATTEMPT : Fld := ⟨.ENG, 0x98, 51, 48⟩
def ENG_STEP_ABORT : Fld := ⟨.ENG, 0xA0, 0, 0⟩
def ENG_STEP_OPEN : Fld := ⟨.ENG, 0xA0, 1, 1⟩
def ENG_STEP_ATTEMPT : Fld := ⟨.ENG, 0xA0, 5, 2⟩
def ENG_STEP_FIRST_WM : Fld := ⟨.ENG, 0xA0, 63, 32⟩
def ENG_STEP_LAST_LAST_WM : Fld := ⟨.ENG, 0xA8, 31, 0⟩
def ENG_STEP_LAST_LAST_CLOSED : Fld := ⟨.ENG, 0xA8, 63, 32⟩
def ENG_QBASE_V (n : Nat) : Fld := ⟨.ENG, 0x100 + 0x30 * n, 63, 0⟩
def ENG_QCFG_LOG2_SIZE (n : Nat) : Fld := ⟨.ENG, 0x108 + 0x30 * n, 4, 0⟩
def ENG_QCFG_LOC (n : Nat) : Fld := ⟨.ENG, 0x108 + 0x30 * n, 6, 5⟩
def ENG_QCFG_ENABLE (n : Nat) : Fld := ⟨.ENG, 0x108 + 0x30 * n, 7, 7⟩
def ENG_QCFG_PRIO (n : Nat) : Fld := ⟨.ENG, 0x108 + 0x30 * n, 9, 8⟩
def ENG_QPTR_TAIL (n : Nat) : Fld := ⟨.ENG, 0x110 + 0x30 * n, 19, 0⟩
def ENG_QPTR_FETCH (n : Nat) : Fld := ⟨.ENG, 0x110 + 0x30 * n, 39, 20⟩
def ENG_QPTR_RETIRE (n : Nat) : Fld := ⟨.ENG, 0x110 + 0x30 * n, 59, 40⟩
def ENG_CQBASE_V (n : Nat) : Fld := ⟨.ENG, 0x118 + 0x30 * n, 63, 0⟩
def ENG_CQCFG_LOG2_SIZE (n : Nat) : Fld := ⟨.ENG, 0x120 + 0x30 * n, 4, 0⟩
def ENG_CQCFG_LOC (n : Nat) : Fld := ⟨.ENG, 0x120 + 0x30 * n, 6, 5⟩
def ENG_CQCFG_VECTOR (n : Nat) : Fld := ⟨.ENG, 0x120 + 0x30 * n, 17, 7⟩
def ENG_CQCFG_CQ_TAIL (n : Nat) : Fld := ⟨.ENG, 0x120 + 0x30 * n, 37, 18⟩
def ENG_CQCFG_CQ_HEAD (n : Nat) : Fld := ⟨.ENG, 0x120 + 0x30 * n, 57, 38⟩
def ENG_CQCFG_PHASE (n : Nat) : Fld := ⟨.ENG, 0x120 + 0x30 * n, 58, 58⟩
def ENG_QSTAT_STATE (n : Nat) : Fld := ⟨.ENG, 0x128 + 0x30 * n, 2, 0⟩
def ENG_QSTAT_RESUME (n : Nat) : Fld := ⟨.ENG, 0x128 + 0x30 * n, 3, 3⟩
def ENG_QSTAT_STOP_INDEX (n : Nat) : Fld := ⟨.ENG, 0x128 + 0x30 * n, 23, 4⟩
def ENG_QSTAT_STOP_CODE (n : Nat) : Fld := ⟨.ENG, 0x128 + 0x30 * n, 31, 24⟩
def ENG_QSTAT_OUTSTANDING (n : Nat) : Fld := ⟨.ENG, 0x128 + 0x30 * n, 63, 32⟩
def BRG_CTL_RETRAIN : Fld := ⟨.BRG, 0x80, 0, 0⟩
def BRG_LINKS_GROUPS : Fld := ⟨.BRG, 0x88, 63, 0⟩
def BRG_SIDEBAND_P0_TO_P1 : Fld := ⟨.BRG, 0x90, 0, 0⟩
def BRG_SIDEBAND_P1_TO_P0 : Fld := ⟨.BRG, 0x90, 1, 1⟩
def CWY_CMD_OP : Fld := ⟨.CWY, 0x80, 2, 0⟩
def CWY_CMD_PORT_A : Fld := ⟨.CWY, 0x80, 10, 3⟩
def CWY_CMD_PORT_B : Fld := ⟨.CWY, 0x80, 18, 11⟩
def CWY_CMD_GO : Fld := ⟨.CWY, 0x80, 19, 19⟩
def CWY_CMD_BUSY : Fld := ⟨.CWY, 0x80, 20, 20⟩
def CWY_CMD_RESULT : Fld := ⟨.CWY, 0x80, 23, 21⟩
def CWY_ARG_V (n : Nat) : Fld := ⟨.CWY, 0x88 + 0x8 * n, 63, 0⟩
def AEN_CTL_PASS_WD : Fld := ⟨.AEN, 0x80, 15, 0⟩
def AEN_CTL_DIGEST_CHECK : Fld := ⟨.AEN, 0x80, 16, 16⟩
def AEN_PLACEMENT_PLACEMENT_ID : Fld := ⟨.AEN, 0x88, 63, 0⟩
def AEN_PASS_STATE_STATE : Fld := ⟨.AEN, 0x90, 3, 0⟩
def AEN_PASS_STATE_PASS : Fld := ⟨.AEN, 0x90, 15, 4⟩
def AEN_PASS_STATE_REUSE : Fld := ⟨.AEN, 0x90, 16, 16⟩
def AEN_PASS_STATE_BARRIER_CH : Fld := ⟨.AEN, 0x90, 21, 17⟩
def AEN_PASS_STATE_WAYMARK : Fld := ⟨.AEN, 0x90, 63, 32⟩
def AEN_FAIL_CAUSE : Fld := ⟨.AEN, 0x98, 4, 0⟩
def AEN_FAIL_CLASS : Fld := ⟨.AEN, 0x98, 5, 5⟩
def AEN_FAIL_SLOT : Fld := ⟨.AEN, 0x98, 11, 6⟩
def AEN_FAIL_ROW : Fld := ⟨.AEN, 0x98, 18, 12⟩
def AEN_FAIL_COL : Fld := ⟨.AEN, 0x98, 25, 19⟩
def AEN_FAIL_TASK : Fld := ⟨.AEN, 0x98, 27, 26⟩
def AEN_FAIL_VALID : Fld := ⟨.AEN, 0x98, 31, 31⟩
def AEN_FAIL_WAYMARK : Fld := ⟨.AEN, 0x98, 63, 32⟩
def AEN_FAIL_CYC_CYCLE : Fld := ⟨.AEN, 0xA0, 63, 0⟩
def AEN_CFG_CYCLES_V : Fld := ⟨.AEN, 0xA8, 31, 0⟩
def SEN_CTL_READ_TIMEOUT : Fld := ⟨.SEN, 0x80, 15, 0⟩
def SEN_CTL_READ_RETRIES : Fld := ⟨.SEN, 0x80, 18, 16⟩
def SEN_CTL_STARVE_US : Fld := ⟨.SEN, 0x80, 35, 20⟩
def SEN_CTL_STREAM_WD : Fld := ⟨.SEN, 0x80, 51, 36⟩
def SEN_CLASS_BIAS_BIAS0 : Fld := ⟨.SEN, 0x88, 15, 0⟩
def SEN_CLASS_BIAS_BIAS1 : Fld := ⟨.SEN, 0x88, 31, 16⟩
def SEN_CLASS_BIAS_BIAS2 : Fld := ⟨.SEN, 0x88, 47, 32⟩
def SEN_CLASS_BIAS_BIAS3 : Fld := ⟨.SEN, 0x88, 63, 48⟩
def SEN_HOLD_FRAMES : Fld := ⟨.SEN, 0x90, 10, 0⟩
def SEN_CTX_SEL_CTX : Fld := ⟨.SEN, 0x98, 19, 0⟩
def SEN_CTX_SEL_BUSY : Fld := ⟨.SEN, 0x98, 20, 20⟩
def SEN_CTX_STATE_STATE : Fld := ⟨.SEN, 0xA0, 2, 0⟩
def SEN_CTX_STATE_GEN : Fld := ⟨.SEN, 0xA0, 10, 3⟩
def SEN_CTX_STATE_EPOCH : Fld := ⟨.SEN, 0xA0, 12, 11⟩
def SEN_CTX_STATE_DCLASS : Fld := ⟨.SEN, 0xA0, 14, 13⟩
def SEN_CTX_STATE_GROUP : Fld := ⟨.SEN, 0xA0, 17, 15⟩
def SEN_CTX_STATE_PANELS_HELD : Fld := ⟨.SEN, 0xA0, 21, 18⟩
def SEN_CTX_STATE_WAYMARK : Fld := ⟨.SEN, 0xA0, 63, 32⟩
def SEN_CTX_INFO_SID : Fld := ⟨.SEN, 0xA8, 31, 0⟩
def SEN_CTX_INFO_PANELS_DONE : Fld := ⟨.SEN, 0xA8, 63, 32⟩
def SEN_FOPEN_SEL_FIELD : Fld := ⟨.SEN, 0xB0, 5, 0⟩
def SEN_FOPEN0_V : Fld := ⟨.SEN, 0xB8, 63, 0⟩
def SEN_FOPEN1_V : Fld := ⟨.SEN, 0xC0, 63, 0⟩
def SEN_ERR_FIRST_STATUS : Fld := ⟨.SEN, 0xC8, 3, 0⟩
def SEN_ERR_FIRST_REFUSE : Fld := ⟨.SEN, 0xC8, 6, 4⟩
def SEN_ERR_FIRST_CTX : Fld := ⟨.SEN, 0xC8, 26, 7⟩
def SEN_ERR_FIRST_VALID : Fld := ⟨.SEN, 0xC8, 31, 31⟩
def SEN_ERR_FIRST_WAYMARK : Fld := ⟨.SEN, 0xC8, 63, 32⟩
def SEN_ERR_FIRST_SID_SID : Fld := ⟨.SEN, 0xD0, 31, 0⟩
def SEN_ERR_FIRST_SID_FIELD : Fld := ⟨.SEN, 0xD0, 37, 32⟩
def SEN_ERR_FIRST_CYC_CYCLE : Fld := ⟨.SEN, 0xD8, 63, 0⟩
def SEN_GRP_OCC_FRAMES (n : Nat) : Fld := ⟨.SEN, 0x300 + 0x8 * n, 10, 0⟩
def SEN_GRP_OCC_HOLD_FRAMES (n : Nat) : Fld := ⟨.SEN, 0x300 + 0x8 * n, 21, 11⟩
def SEN_GRP_OCC_PEAK (n : Nat) : Fld := ⟨.SEN, 0x300 + 0x8 * n, 42, 32⟩
def SEN_GRP_INJ_ROW (n : Nat) : Fld := ⟨.SEN, 0x340 + 0x8 * n, 9, 0⟩
def SEN_GRP_INJ_COL (n : Nat) : Fld := ⟨.SEN, 0x340 + 0x8 * n, 19, 10⟩
def MLW_CTL_BARRIER_WD : Fld := ⟨.MLW, 0x80, 13, 0⟩
def MLW_TO_FIRST_CHANNEL : Fld := ⟨.MLW, 0x88, 3, 0⟩
def MLW_TO_FIRST_GEN : Fld := ⟨.MLW, 0x88, 19, 4⟩
def MLW_TO_FIRST_MODE : Fld := ⟨.MLW, 0x88, 20, 20⟩
def MLW_TO_FIRST_BRIDGED : Fld := ⟨.MLW, 0x88, 21, 21⟩
def MLW_TO_FIRST_VALID : Fld := ⟨.MLW, 0x88, 31, 31⟩
def MLW_TO_FIRST_WAYMARK : Fld := ⟨.MLW, 0x88, 63, 32⟩
def MLW_TO_FIRST_MASK_MASK : Fld := ⟨.MLW, 0x90, 63, 0⟩
def MLW_TO_FIRST_CYC_CYCLE : Fld := ⟨.MLW, 0x98, 63, 0⟩
def MLW_CH_STATE (n : Nat) : Fld := ⟨.MLW, 0x100 + 0x8 * n, 1, 0⟩
def MLW_CH_MODE (n : Nat) : Fld := ⟨.MLW, 0x100 + 0x8 * n, 2, 2⟩
def MLW_CH_BRIDGED (n : Nat) : Fld := ⟨.MLW, 0x100 + 0x8 * n, 3, 3⟩
def MLW_CH_GEN (n : Nat) : Fld := ⟨.MLW, 0x100 + 0x8 * n, 31, 16⟩
def MLW_CH_WAYMARK (n : Nat) : Fld := ⟨.MLW, 0x100 + 0x8 * n, 63, 32⟩
def MLW_ARR_MASK (n : Nat) : Fld := ⟨.MLW, 0x180 + 0x8 * n, 63, 0⟩
def VLX_CTL_ACK_TIMEOUT : Fld := ⟨.VLX, 0x80, 15, 0⟩
def VLX_CTL_ACK_RETRIES : Fld := ⟨.VLX, 0x80, 18, 16⟩
def VLX_CTL_CAL_EN : Fld := ⟨.VLX, 0x80, 19, 19⟩
def VLX_CTL_CAL_INTERVAL : Fld := ⟨.VLX, 0x80, 35, 20⟩
def VLX_CTL_BUSY_BACKOFF : Fld := ⟨.VLX, 0x80, 51, 36⟩
def VLX_NODE_NODE : Fld := ⟨.VLX, 0x88, 7, 0⟩
def VLX_INWIN_BASE_BASE : Fld := ⟨.VLX, 0x90, 47, 0⟩
def VLX_INWIN_SIZE_SIZE : Fld := ⟨.VLX, 0x98, 47, 0⟩
def VLX_TAINT_DEST_DEST (n : Nat) : Fld := ⟨.VLX, 0xA0 + 0x8 * n, 31, 0⟩
def VLX_TAINT_DEST_EN (n : Nat) : Fld := ⟨.VLX, 0xA0 + 0x8 * n, 32, 32⟩
def VLX_ERR_FIRST_KIND : Fld := ⟨.VLX, 0xE0, 0, 0⟩
def VLX_ERR_FIRST_CODE : Fld := ⟨.VLX, 0xE0, 8, 1⟩
def VLX_ERR_FIRST_PORT : Fld := ⟨.VLX, 0xE0, 13, 9⟩
def VLX_ERR_FIRST_OP : Fld := ⟨.VLX, 0xE0, 17, 14⟩
def VLX_ERR_FIRST_VALID : Fld := ⟨.VLX, 0xE0, 31, 31⟩
def VLX_ERR_FIRST_PEER : Fld := ⟨.VLX, 0xE0, 63, 32⟩
def VLX_ERR_FIRST_CID_CID : Fld := ⟨.VLX, 0xE8, 63, 0⟩
def VLX_TAINT_RX_TAINTED_WM : Fld := ⟨.VLX, 0xF0, 31, 0⟩
def VLX_TAINT_RX_KIND : Fld := ⟨.VLX, 0xF0, 39, 32⟩
def VLX_TAINT_RX_NODE : Fld := ⟨.VLX, 0xF0, 47, 40⟩
def EMP_CAPACITY_BYTES : Fld := ⟨.EMP, 0x80, 47, 0⟩
def EMP_CAPACITY_STACKS : Fld := ⟨.EMP, 0x80, 52, 48⟩
def EMP_STACK_MAP_IN_MAP : Fld := ⟨.EMP, 0x88, 23, 0⟩
def EMP_CTL_SCRUB_EN : Fld := ⟨.EMP, 0x90, 0, 0⟩
def EMP_CTL_SCRUB_HOURS : Fld := ⟨.EMP, 0x90, 8, 1⟩
def EMP_UE_FIRST_STACK : Fld := ⟨.EMP, 0x98, 4, 0⟩
def EMP_UE_FIRST_PC : Fld := ⟨.EMP, 0x98, 10, 5⟩
def EMP_UE_FIRST_SOURCE : Fld := ⟨.EMP, 0x98, 13, 11⟩
def EMP_UE_FIRST_VALID : Fld := ⟨.EMP, 0x98, 31, 31⟩
def EMP_UE_FIRST_WAYMARK : Fld := ⟨.EMP, 0x98, 63, 32⟩
def EMP_UE_FIRST_ADDR_ADDR : Fld := ⟨.EMP, 0xA0, 47, 0⟩
def EMP_UE_FIRST_CYC_CYCLE : Fld := ⟨.EMP, 0xA8, 63, 0⟩
def HBM_STATE_STATE : Fld := ⟨.HBM, 0x80, 2, 0⟩
def HBM_STATE_DIES : Fld := ⟨.HBM, 0x80, 7, 3⟩
def HBM_STATE_DIE_GBIT : Fld := ⟨.HBM, 0x80, 15, 8⟩
def HBM_STATE_TEMP : Fld := ⟨.HBM, 0x80, 23, 16⟩
def HBM_STATE_HOT : Fld := ⟨.HBM, 0x80, 24, 24⟩
def HBM_CAPACITY_BYTES : Fld := ⟨.HBM, 0x88, 47, 0⟩
def VPT_CTL_DISABLE : Fld := ⟨.VPT, 0x80, 0, 0⟩
def VPT_CTL_RETRAIN : Fld := ⟨.VPT, 0x80, 1, 1⟩
def VPT_STATE_STATE : Fld := ⟨.VPT, 0x88, 2, 0⟩
def VPT_STATE_FAILED_LANES : Fld := ⟨.VPT, 0x88, 10, 3⟩
def VPT_STATE_CAL_LANE : Fld := ⟨.VPT, 0x88, 13, 11⟩
def MESH_CTL_BND_TIMEOUT : Fld := ⟨.MESH, 0x80, 15, 0⟩
def MESH_CTL_DRAIN_TIMEOUT : Fld := ⟨.MESH, 0x80, 31, 16⟩
def MESH_DL_CTL_DL_EN : Fld := ⟨.MESH, 0x88, 0, 0⟩
def MESH_DL_CTL_SPILL_VC : Fld := ⟨.MESH, 0x88, 2, 1⟩
def MESH_DL_CTL_INTERVAL : Fld := ⟨.MESH, 0x88, 19, 4⟩
def MESH_WD_CTL_STALL_LIMIT : Fld := ⟨.MESH, 0x90, 23, 0⟩
def MESH_DRAIN_CMD_MODE : Fld := ⟨.MESH, 0x98, 1, 0⟩
def MESH_DRAIN_CMD_GO : Fld := ⟨.MESH, 0x98, 2, 2⟩
def MESH_DRAIN_CMD_BUSY : Fld := ⟨.MESH, 0x98, 3, 3⟩
def MESH_DRAIN_CMD_RESULT : Fld := ⟨.MESH, 0x98, 5, 4⟩
def MESH_DRAIN_STATE_HELD : Fld := ⟨.MESH, 0xA0, 0, 0⟩
def MESH_DRAIN_STATE_DRAINED : Fld := ⟨.MESH, 0xA0, 1, 1⟩
def MESH_DRAIN_STATE_ISO_SIDE : Fld := ⟨.MESH, 0xA0, 5, 2⟩
def MESH_DRAIN_STATE_SWEEPS : Fld := ⟨.MESH, 0xA0, 63, 32⟩
def MESH_REFUSE_FIRST_ROW : Fld := ⟨.MESH, 0xB0, 6, 0⟩
def MESH_REFUSE_FIRST_COL : Fld := ⟨.MESH, 0xB0, 13, 7⟩
def MESH_REFUSE_FIRST_TASK : Fld := ⟨.MESH, 0xB0, 15, 14⟩
def MESH_REFUSE_FIRST_CAUSE : Fld := ⟨.MESH, 0xB0, 18, 16⟩
def MESH_REFUSE_FIRST_CLASS : Fld := ⟨.MESH, 0xB0, 20, 19⟩
def MESH_REFUSE_FIRST_VALID : Fld := ⟨.MESH, 0xB0, 31, 31⟩
def MESH_REFUSE_FIRST_WAYMARK : Fld := ⟨.MESH, 0xB0, 63, 32⟩
def MESH_REFUSE_FIRST_EP_DEST_EP : Fld := ⟨.MESH, 0xB8, 23, 0⟩
def MESH_REFUSE_FIRST_CYC_CYCLE : Fld := ⟨.MESH, 0xC0, 63, 0⟩
def MESH_EVENT_FIRST_KIND : Fld := ⟨.MESH, 0xC8, 3, 0⟩
def MESH_EVENT_FIRST_ROW : Fld := ⟨.MESH, 0xC8, 10, 4⟩
def MESH_EVENT_FIRST_COL : Fld := ⟨.MESH, 0xC8, 17, 11⟩
def MESH_EVENT_FIRST_CLASS : Fld := ⟨.MESH, 0xC8, 19, 18⟩
def MESH_EVENT_FIRST_CAUSE : Fld := ⟨.MESH, 0xC8, 21, 20⟩
def MESH_EVENT_FIRST_VALID : Fld := ⟨.MESH, 0xC8, 31, 31⟩
def MESH_EVENT_FIRST_WAYMARK : Fld := ⟨.MESH, 0xC8, 63, 32⟩
def MESH_EVENT_FIRST_SRC_SRC_EP : Fld := ⟨.MESH, 0xD0, 23, 0⟩
def MESH_EVENT_FIRST_SRC_AUX : Fld := ⟨.MESH, 0xD0, 39, 24⟩
def MESH_EVENT_FIRST_SRC_ADDR : Fld := ⟨.MESH, 0xD0, 58, 40⟩
def MESH_EVENT_FIRST_CYC_CYCLE : Fld := ⟨.MESH, 0xD8, 63, 0⟩
def MESH_DIST_V (n : Nat) : Fld := ⟨.MESH, 0x300 + 0x8 * n, 63, 0⟩
def FEP_SEL_TARGET : Fld := ⟨.FEP, 0x80, 1, 0⟩
def FEP_SEL_INDEX : Fld := ⟨.FEP, 0x80, 17, 2⟩
def FEP_SEL_ENTRY : Fld := ⟨.FEP, 0x80, 21, 18⟩
def FEP_SEL_OP : Fld := ⟨.FEP, 0x80, 23, 22⟩
def FEP_SEL_GO : Fld := ⟨.FEP, 0x80, 24, 24⟩
def FEP_SEL_BUSY : Fld := ⟨.FEP, 0x80, 25, 25⟩
def FEP_SEL_RESULT : Fld := ⟨.FEP, 0x80, 27, 26⟩
def FEP_DATA0_V : Fld := ⟨.FEP, 0x88, 63, 0⟩
def FEP_DATA1_V : Fld := ⟨.FEP, 0x90, 63, 0⟩
def ARF_CTL_WIN_ACTION : Fld := ⟨.ARF, 0x80, 1, 0⟩
def ARF_CTL_NAN_RECORD : Fld := ⟨.ARF, 0x80, 2, 2⟩
def ARF_FLAGS_WIN_LO : Fld := ⟨.ARF, 0x88, 0, 0⟩
def ARF_FLAGS_WIN_HI : Fld := ⟨.ARF, 0x88, 1, 1⟩
def ARF_FLAGS_WIN_RANGE : Fld := ⟨.ARF, 0x88, 2, 2⟩
def ARF_FLAGS_NAN_IN : Fld := ⟨.ARF, 0x88, 3, 3⟩
def ARF_FLAGS_NAN_GEN : Fld := ⟨.ARF, 0x88, 4, 4⟩
def ARF_FLAGS_INF_OUT : Fld := ⟨.ARF, 0x88, 5, 5⟩
def ARF_FLAGS_OUT_SAT : Fld := ⟨.ARF, 0x88, 6, 6⟩
def ARF_FLAGS_SCALE_NAN : Fld := ⟨.ARF, 0x88, 7, 7⟩
def ARF_WIN_FIRST_ROW : Fld := ⟨.ARF, 0x90, 6, 0⟩
def ARF_WIN_FIRST_COL : Fld := ⟨.ARF, 0x90, 13, 7⟩
def ARF_WIN_FIRST_TASK : Fld := ⟨.ARF, 0x90, 15, 14⟩
def ARF_WIN_FIRST_LO : Fld := ⟨.ARF, 0x90, 16, 16⟩
def ARF_WIN_FIRST_HI : Fld := ⟨.ARF, 0x90, 17, 17⟩
def ARF_WIN_FIRST_RANGE : Fld := ⟨.ARF, 0x90, 18, 18⟩
def ARF_WIN_FIRST_VALID : Fld := ⟨.ARF, 0x90, 31, 31⟩
def ARF_WIN_FIRST_WAYMARK : Fld := ⟨.ARF, 0x90, 63, 32⟩
def ARF_WIN_FIRST_CYC_CYCLE : Fld := ⟨.ARF, 0x98, 63, 0⟩
def TSQ_SEL_ROW : Fld := ⟨.TSQ, 0x80, 6, 0⟩
def TSQ_SEL_COL : Fld := ⟨.TSQ, 0x80, 13, 7⟩
def TSQ_SEL_TASK : Fld := ⟨.TSQ, 0x80, 15, 14⟩
def TSQ_SEL_BUSY : Fld := ⟨.TSQ, 0x80, 16, 16⟩
def TSQ_TASK_STATUS_STATE : Fld := ⟨.TSQ, 0x88, 2, 0⟩
def TSQ_TASK_STATUS_EPOCH : Fld := ⟨.TSQ, 0x88, 4, 3⟩
def TSQ_TASK_STATUS_FAULT_CODE : Fld := ⟨.TSQ, 0x88, 12, 5⟩
def TSQ_TASK_STATUS_FAULT_SLOT : Fld := ⟨.TSQ, 0x88, 19, 13⟩
def TSQ_TASK_STATUS_WIN_LO : Fld := ⟨.TSQ, 0x88, 20, 20⟩
def TSQ_TASK_STATUS_WIN_HI : Fld := ⟨.TSQ, 0x88, 21, 21⟩
def TSQ_TASK_STATUS_WIN_RANGE : Fld := ⟨.TSQ, 0x88, 22, 22⟩
def TSQ_TASK_STATUS_NAN_IN : Fld := ⟨.TSQ, 0x88, 23, 23⟩
def TSQ_TASK_STATUS_NAN_GEN : Fld := ⟨.TSQ, 0x88, 24, 24⟩
def TSQ_TASK_STATUS_INF_OUT : Fld := ⟨.TSQ, 0x88, 25, 25⟩
def TSQ_TASK_STATUS_OUT_SAT : Fld := ⟨.TSQ, 0x88, 26, 26⟩
def TSQ_TASK_STATUS_SCALE_NAN : Fld := ⟨.TSQ, 0x88, 27, 27⟩
def TSQ_TASK_STATUS_WORK_UNITS : Fld := ⟨.TSQ, 0x88, 63, 32⟩
def TSQ_STALE_FIRST_ROW : Fld := ⟨.TSQ, 0x90, 6, 0⟩
def TSQ_STALE_FIRST_COL : Fld := ⟨.TSQ, 0x90, 13, 7⟩
def TSQ_STALE_FIRST_TASK : Fld := ⟨.TSQ, 0x90, 15, 14⟩
def TSQ_STALE_FIRST_QUEUE : Fld := ⟨.TSQ, 0x90, 19, 16⟩
def TSQ_STALE_FIRST_TOKEN_EPOCH : Fld := ⟨.TSQ, 0x90, 21, 20⟩
def TSQ_STALE_FIRST_TILE_EPOCH : Fld := ⟨.TSQ, 0x90, 23, 22⟩
def TSQ_STALE_FIRST_VALID : Fld := ⟨.TSQ, 0x90, 31, 31⟩
def TSQ_STALE_FIRST_WAYMARK : Fld := ⟨.TSQ, 0x90, 63, 32⟩
def TSQ_STALE_FIRST_CYC_CYCLE : Fld := ⟨.TSQ, 0x98, 63, 0⟩
def SPD_CTL_SCRUB_EN : Fld := ⟨.SPD, 0x80, 0, 0⟩
def SPD_CTL_SCRUB_INTERVAL : Fld := ⟨.SPD, 0x80, 15, 4⟩
def SPD_CTL_GATE_TIMEOUT : Fld := ⟨.SPD, 0x80, 31, 16⟩
def SPD_CTL_GATHER_IDLE : Fld := ⟨.SPD, 0x80, 39, 32⟩
def SPD_SEG_CMD_ROW_LO : Fld := ⟨.SPD, 0x88, 6, 0⟩
def SPD_SEG_CMD_COL_LO : Fld := ⟨.SPD, 0x88, 13, 7⟩
def SPD_SEG_CMD_ROW_HI : Fld := ⟨.SPD, 0x88, 20, 14⟩
def SPD_SEG_CMD_COL_HI : Fld := ⟨.SPD, 0x88, 27, 21⟩
def SPD_SEG_CMD_SEG_MASK : Fld := ⟨.SPD, 0x88, 35, 28⟩
def SPD_SEG_CMD_TARGET : Fld := ⟨.SPD, 0x88, 37, 36⟩
def SPD_SEG_CMD_GO : Fld := ⟨.SPD, 0x88, 38, 38⟩
def SPD_SEG_CMD_BUSY : Fld := ⟨.SPD, 0x88, 39, 39⟩
def SPD_SEG_CMD_RESULT : Fld := ⟨.SPD, 0x88, 41, 40⟩
def SPD_SEG_SEL_ROW : Fld := ⟨.SPD, 0x90, 6, 0⟩
def SPD_SEG_SEL_COL : Fld := ⟨.SPD, 0x90, 13, 7⟩
def SPD_SEG_SEL_BUSY : Fld := ⟨.SPD, 0x90, 14, 14⟩
def SPD_SEG_STATE_STATE : Fld := ⟨.SPD, 0x98, 23, 0⟩
def SPD_DROP_FIRST_ROW : Fld := ⟨.SPD, 0xA0, 6, 0⟩
def SPD_DROP_FIRST_COL : Fld := ⟨.SPD, 0xA0, 13, 7⟩
def SPD_DROP_FIRST_BANK : Fld := ⟨.SPD, 0xA0, 14, 14⟩
def SPD_DROP_FIRST_SEG : Fld := ⟨.SPD, 0xA0, 17, 15⟩
def SPD_DROP_FIRST_CAUSE : Fld := ⟨.SPD, 0xA0, 19, 18⟩
def SPD_DROP_FIRST_VALID : Fld := ⟨.SPD, 0xA0, 31, 31⟩
def SPD_DROP_FIRST_WAYMARK : Fld := ⟨.SPD, 0xA0, 63, 32⟩
def SPD_DROP_FIRST_SRC_SRC_EP : Fld := ⟨.SPD, 0xA8, 23, 0⟩
def SPD_DROP_FIRST_SRC_PKT_WAYMARK : Fld := ⟨.SPD, 0xA8, 63, 32⟩
def SPD_DROP_FIRST_CYC_CYCLE : Fld := ⟨.SPD, 0xB0, 63, 0⟩
def SPD_UE_FIRST_ROW : Fld := ⟨.SPD, 0xB8, 6, 0⟩
def SPD_UE_FIRST_COL : Fld := ⟨.SPD, 0xB8, 13, 7⟩
def SPD_UE_FIRST_BANK : Fld := ⟨.SPD, 0xB8, 14, 14⟩
def SPD_UE_FIRST_ROW_ADDR : Fld := ⟨.SPD, 0xB8, 27, 15⟩
def SPD_UE_FIRST_WORD : Fld := ⟨.SPD, 0xB8, 29, 28⟩
def SPD_UE_FIRST_VALID : Fld := ⟨.SPD, 0xB8, 31, 31⟩
def SPD_UE_FIRST_WAYMARK : Fld := ⟨.SPD, 0xB8, 63, 32⟩
def SPD_UE_FIRST_SRC_SOURCE : Fld := ⟨.SPD, 0xC0, 2, 0⟩
def SPD_UE_FIRST_SRC_TASK : Fld := ⟨.SPD, 0xC0, 4, 3⟩
def SPD_UE_FIRST_CYC_CYCLE : Fld := ⟨.SPD, 0xC8, 63, 0⟩
def PAS_RUN_PASS : Fld := ⟨.PAS, 0x80, 11, 0⟩
def PAS_RUN_IN_PASS : Fld := ⟨.PAS, 0x80, 12, 12⟩
def PAS_RUN_EPOCH : Fld := ⟨.PAS, 0x80, 14, 13⟩
def PAS_RUN_WAYMARK : Fld := ⟨.PAS, 0x80, 63, 32⟩
def PAS_RATE_FIRST_ROW : Fld := ⟨.PAS, 0x88, 6, 0⟩
def PAS_RATE_FIRST_COL : Fld := ⟨.PAS, 0x88, 13, 7⟩
def PAS_RATE_FIRST_ITEM : Fld := ⟨.PAS, 0x88, 18, 14⟩
def PAS_RATE_FIRST_VALID : Fld := ⟨.PAS, 0x88, 31, 31⟩
def PAS_RATE_FIRST_WAYMARK : Fld := ⟨.PAS, 0x88, 63, 32⟩
def PAS_RATE_FIRST_CNT_DECLARED : Fld := ⟨.PAS, 0x90, 31, 0⟩
def PAS_RATE_FIRST_CNT_ACTUAL : Fld := ⟨.PAS, 0x90, 63, 32⟩
def PAS_RATE_FIRST_CYC_CYCLE : Fld := ⟨.PAS, 0x98, 63, 0⟩
def PAS_CFG_FIRST_ROW : Fld := ⟨.PAS, 0xA0, 6, 0⟩
def PAS_CFG_FIRST_COL : Fld := ⟨.PAS, 0xA0, 13, 7⟩
def PAS_CFG_FIRST_CAUSE : Fld := ⟨.PAS, 0xA0, 15, 14⟩
def PAS_CFG_FIRST_VALID : Fld := ⟨.PAS, 0xA0, 31, 31⟩
def PAS_CFG_FIRST_WAYMARK : Fld := ⟨.PAS, 0xA0, 63, 32⟩
def MRK_CTL_WATCH_TIMEOUT : Fld := ⟨.MRK, 0x80, 13, 0⟩
def MRK_SEL_MARKER : Fld := ⟨.MRK, 0x88, 11, 0⟩
def MRK_SEL_BUSY : Fld := ⟨.MRK, 0x88, 12, 12⟩
def MRK_SNAP0_VALUE : Fld := ⟨.MRK, 0x90, 31, 0⟩
def MRK_SNAP0_WAITERS : Fld := ⟨.MRK, 0x90, 47, 32⟩
def MRK_SNAP0_WAITMAP : Fld := ⟨.MRK, 0x90, 63, 48⟩
def MRK_SNAP1_LAST_KIND : Fld := ⟨.MRK, 0x98, 3, 0⟩
def MRK_SNAP1_LAST_WM : Fld := ⟨.MRK, 0x98, 63, 32⟩
def MRK_SNAP2_LAST_ID : Fld := ⟨.MRK, 0xA0, 31, 0⟩
def MRK_SNAP2_LAST_AMOUNT : Fld := ⟨.MRK, 0xA0, 63, 32⟩
def MRK_SNAP3_LAST_CYC : Fld := ⟨.MRK, 0xA8, 63, 0⟩
def MRK_TO_FIRST_KIND : Fld := ⟨.MRK, 0xB0, 1, 0⟩
def MRK_TO_FIRST_ROW : Fld := ⟨.MRK, 0xB0, 8, 2⟩
def MRK_TO_FIRST_COL : Fld := ⟨.MRK, 0xB0, 15, 9⟩
def MRK_TO_FIRST_TASK : Fld := ⟨.MRK, 0xB0, 17, 16⟩
def MRK_TO_FIRST_INDEX : Fld := ⟨.MRK, 0xB0, 29, 18⟩
def MRK_TO_FIRST_VALID : Fld := ⟨.MRK, 0xB0, 31, 31⟩
def MRK_TO_FIRST_BLOCKS : Fld := ⟨.MRK, 0xB0, 43, 32⟩
def MRK_TO_FIRST_CYC_CYCLE : Fld := ⟨.MRK, 0xB8, 63, 0⟩
def PWR_IN_A_VOLTS : Fld := ⟨.PWR, 0x80, 15, 0⟩
def PWR_IN_A_CURRENT : Fld := ⟨.PWR, 0x80, 31, 16⟩
def PWR_IN_A_STATE : Fld := ⟨.PWR, 0x80, 33, 32⟩
def PWR_IN_B_VOLTS : Fld := ⟨.PWR, 0x88, 15, 0⟩
def PWR_IN_B_CURRENT : Fld := ⟨.PWR, 0x88, 31, 16⟩
def PWR_IN_B_STATE : Fld := ⟨.PWR, 0x88, 33, 32⟩
def PWR_IN_P_WATTS : Fld := ⟨.PWR, 0x90, 31, 0⟩
def PWR_IN_P_SAMPLE : Fld := ⟨.PWR, 0x90, 63, 32⟩
def PWR_CAP_RACK_CAP : Fld := ⟨.PWR, 0x98, 15, 0⟩
def PWR_CAP_HOST_CAP : Fld := ⟨.PWR, 0x98, 31, 16⟩
def PWR_CAP_EFFECTIVE : Fld := ⟨.PWR, 0x98, 47, 32⟩
def PWR_CEIL_FCODE : Fld := ⟨.PWR, 0xA0, 4, 0⟩
def PWR_CEIL_STRETCH : Fld := ⟨.PWR, 0xA0, 6, 5⟩
def PWR_CEIL_LIMITER : Fld := ⟨.PWR, 0xA0, 7, 7⟩
def PWR_THERM_THROTTLE : Fld := ⟨.PWR, 0xA8, 7, 0⟩
def PWR_THERM_PARK : Fld := ⟨.PWR, 0xA8, 15, 8⟩
def PWR_THERM_TRIP : Fld := ⟨.PWR, 0xA8, 23, 16⟩
def PWR_THERM_HBM_THROTTLE : Fld := ⟨.PWR, 0xA8, 31, 24⟩
def PWR_COOL_INLET : Fld := ⟨.PWR, 0xB0, 9, 0⟩
def PWR_COOL_OUTLET : Fld := ⟨.PWR, 0xB0, 19, 10⟩
def PWR_COOL_FLOW : Fld := ⟨.PWR, 0xB0, 31, 20⟩
def PWR_COOL_LEAK : Fld := ⟨.PWR, 0xB0, 32, 32⟩
def PWR_COOL_STATE : Fld := ⟨.PWR, 0xB0, 35, 33⟩
def PWR_LAYBY_CMD_OP : Fld := ⟨.PWR, 0xB8, 0, 0⟩
def PWR_LAYBY_CMD_TARGET : Fld := ⟨.PWR, 0xB8, 1, 1⟩
def PWR_LAYBY_CMD_PORT : Fld := ⟨.PWR, 0xB8, 7, 2⟩
def PWR_LAYBY_CMD_GO : Fld := ⟨.PWR, 0xB8, 8, 8⟩
def PWR_LAYBY_CMD_BUSY : Fld := ⟨.PWR, 0xB8, 9, 9⟩
def PWR_LAYBY_CMD_RESULT : Fld := ⟨.PWR, 0xB8, 11, 10⟩
def PWR_PORT_LAYBY_PORTS : Fld := ⟨.PWR, 0xC0, 63, 0⟩
def PWR_BRIDGE_STATE : Fld := ⟨.PWR, 0xC8, 1, 0⟩
def PWR_SUP_FIRST_PLANE : Fld := ⟨.PWR, 0xD0, 0, 0⟩
def PWR_SUP_FIRST_FIELD : Fld := ⟨.PWR, 0xD0, 6, 1⟩
def PWR_SUP_FIRST_KIND : Fld := ⟨.PWR, 0xD0, 7, 7⟩
def PWR_SUP_FIRST_MIN_PCT : Fld := ⟨.PWR, 0xD0, 14, 8⟩
def PWR_SUP_FIRST_VALID : Fld := ⟨.PWR, 0xD0, 31, 31⟩
def PWR_SUP_FIRST_WAYMARK : Fld := ⟨.PWR, 0xD0, 63, 32⟩
def PWR_SUP_FIRST_CYC_CYCLE : Fld := ⟨.PWR, 0xD8, 63, 0⟩
def PWR_LOST_FIRST_PLANE : Fld := ⟨.PWR, 0xE0, 0, 0⟩
def PWR_LOST_FIRST_FIELD : Fld := ⟨.PWR, 0xE0, 6, 1⟩
def PWR_LOST_FIRST_CAUSE : Fld := ⟨.PWR, 0xE0, 8, 7⟩
def PWR_LOST_FIRST_VALID : Fld := ⟨.PWR, 0xE0, 31, 31⟩
def PWR_LOST_FIRST_WAYMARK : Fld := ⟨.PWR, 0xE0, 63, 32⟩
def PWR_LOST_FIRST_CYC_CYCLE : Fld := ⟨.PWR, 0xE8, 63, 0⟩
def FPW_CMD_OP : Fld := ⟨.FPW, 0x80, 2, 0⟩
def FPW_CMD_GO : Fld := ⟨.FPW, 0x80, 3, 3⟩
def FPW_CMD_BUSY : Fld := ⟨.FPW, 0x80, 4, 4⟩
def FPW_CMD_RESULT : Fld := ⟨.FPW, 0x80, 6, 5⟩
def FPW_STATE_POWER : Fld := ⟨.FPW, 0x88, 2, 0⟩
def FPW_STATE_TCEIL : Fld := ⟨.FPW, 0x88, 7, 3⟩
def FPW_STATE_FCEIL : Fld := ⟨.FPW, 0x88, 12, 8⟩
def FPW_STATE_STRETCH : Fld := ⟨.FPW, 0x88, 14, 13⟩
def FPW_STATE_TEMP : Fld := ⟨.FPW, 0x88, 22, 15⟩
def FPW_VOLT_VCODE : Fld := ⟨.FPW, 0x90, 5, 0⟩
def FPW_VOLT_VNOM : Fld := ⟨.FPW, 0x90, 11, 6⟩
def FPW_VOLT_SLOPE : Fld := ⟨.FPW, 0x90, 19, 12⟩
def FPW_VOLT_PARK_V : Fld := ⟨.FPW, 0x90, 25, 20⟩
def FPW_VOLT_RAIL_W : Fld := ⟨.FPW, 0x90, 37, 26⟩
def FPW_FTARGET_FCODE : Fld := ⟨.FPW, 0x98, 4, 0⟩
def FPW_SUSPECT_WAYMARK : Fld := ⟨.FPW, 0xA0, 31, 0⟩
def FPW_SUSPECT_PENDING : Fld := ⟨.FPW, 0xA0, 32, 32⟩
def FPW_ISL_FMAX (n : Nat) : Fld := ⟨.FPW, 0x200 + 0x8 * n, 4, 0⟩
def FPW_ISL_FCODE (n : Nat) : Fld := ⟨.FPW, 0x200 + 0x8 * n, 9, 5⟩
def FPW_ISL_AGE (n : Nat) : Fld := ⟨.FPW, 0x200 + 0x8 * n, 13, 10⟩
def FPW_ISL_TEMP (n : Nat) : Fld := ⟨.FPW, 0x200 + 0x8 * n, 21, 14⟩
def FEN_CAL_K : Fld := ⟨.FEN, 0x80, 15, 0⟩
def FEN_ENERGY_UJ : Fld := ⟨.FEN, 0x88, 63, 0⟩
def NRG_CTL_CAL_EN : Fld := ⟨.NRG, 0x80, 0, 0⟩
def NRG_CTL_CAL_SHIFT : Fld := ⟨.NRG, 0x80, 4, 1⟩
def NRG_WM_WAYMARK : Fld := ⟨.NRG, 0x88, 31, 0⟩
def NRG_WM_ATTEMPT : Fld := ⟨.NRG, 0x88, 35, 32⟩
def NRG_WM_UJ_UJ : Fld := ⟨.NRG, 0x90, 63, 0⟩
def NRG_WM_MEAS_UJ_UJ : Fld := ⟨.NRG, 0x98, 63, 0⟩
def NRG_STEP_UJ_UJ : Fld := ⟨.NRG, 0xA0, 63, 0⟩
def NRG_STEP_MEAS_UJ_UJ : Fld := ⟨.NRG, 0xA8, 63, 0⟩
def NRG_COEF_V (n : Nat) : Fld := ⟨.NRG, 0x200 + 0x8 * n, 31, 0⟩
def FLT_LOG_BASE_V : Fld := ⟨.FLT, 0x80, 63, 0⟩
def FLT_LOG_CFG_LOG2_SIZE : Fld := ⟨.FLT, 0x88, 4, 0⟩
def FLT_LOG_CFG_LOC : Fld := ⟨.FLT, 0x88, 6, 5⟩
def FLT_LOG_CFG_ENABLE : Fld := ⟨.FLT, 0x88, 7, 7⟩
def FLT_LOG_CFG_VECTOR : Fld := ⟨.FLT, 0x88, 18, 8⟩
def FLT_LOG_CFG_TO_HOST : Fld := ⟨.FLT, 0x88, 19, 19⟩
def FLT_LOG_CFG_PHASE : Fld := ⟨.FLT, 0x88, 20, 20⟩
def FLT_LOG_PTR_TAIL : Fld := ⟨.FLT, 0x90, 19, 0⟩
def FLT_LOG_PTR_HEAD : Fld := ⟨.FLT, 0x90, 39, 20⟩
def FLT_CHECK_CTL_EN : Fld := ⟨.FLT, 0x98, 0, 0⟩
def FLT_CHECK_CTL_RATE_LOG2 : Fld := ⟨.FLT, 0x98, 5, 1⟩
def FLT_CHECK_CTL_SUSPECT_LOG2 : Fld := ⟨.FLT, 0x98, 10, 6⟩
def FLT_CHECK_CTL_MAX_MMA : Fld := ⟨.FLT, 0x98, 21, 11⟩
def FLT_CHECK_CTL_DEADLINE : Fld := ⟨.FLT, 0x98, 35, 22⟩
def FLT_CHECK_CTL_RECUR_HOURS : Fld := ⟨.FLT, 0x98, 43, 36⟩
def FLT_DMAP_CTL_ADDR : Fld := ⟨.FLT, 0xA0, 47, 0⟩
def FLT_DMAP_CTL_GO : Fld := ⟨.FLT, 0xA0, 48, 48⟩
def FLT_DMAP_CTL_BUSY : Fld := ⟨.FLT, 0xA0, 49, 49⟩
def FLT_PLANE_STATE_ASSIGNABLE (n : Nat) : Fld := ⟨.FLT, 0xA8 + 0x8 * n, 5, 0⟩
def FLT_PLANE_STATE_SPARES (n : Nat) : Fld := ⟨.FLT, 0xA8 + 0x8 * n, 8, 6⟩
def FLT_PLANE_STATE_REPLACEABLE (n : Nat) : Fld := ⟨.FLT, 0xA8 + 0x8 * n, 9, 9⟩
def FLT_PLANE_STATE_RETIRED (n : Nat) : Fld := ⟨.FLT, 0xA8 + 0x8 * n, 15, 10⟩
def FLT_PLANE_STATE_FENCED (n : Nat) : Fld := ⟨.FLT, 0xA8 + 0x8 * n, 28, 16⟩
def FLT_RECOVERY_STATE : Fld := ⟨.FLT, 0xB8, 2, 0⟩
def FLT_RECOVERY_SLOT : Fld := ⟨.FLT, 0xB8, 8, 3⟩
def FLT_RECOVERY_PLANE : Fld := ⟨.FLT, 0xB8, 9, 9⟩
def FLT_RECOVERY_WAYMARK : Fld := ⟨.FLT, 0xB8, 63, 32⟩
def FLT_MIRROR_ADDR0_V : Fld := ⟨.FLT, 0xC0, 47, 0⟩
def FLT_MIRROR_CNT0_V : Fld := ⟨.FLT, 0xC8, 19, 0⟩
def FLT_MIRROR_ADDR1_V : Fld := ⟨.FLT, 0xD0, 47, 0⟩
def FLT_MIRROR_CNT1_V : Fld := ⟨.FLT, 0xD8, 19, 0⟩
def FLT_DMAP_BOOT_V (n : Nat) : Fld := ⟨.FLT, 0xE0 + 0x8 * n, 63, 0⟩
def FLT_DMAP_CUR_V (n : Nat) : Fld := ⟨.FLT, 0x200 + 0x8 * n, 63, 0⟩
def FLT_UNAVAIL_INT_MS_V : Fld := ⟨.FLT, 0x220, 63, 0⟩
def FLT_UNAVAIL_EXT_MS_V : Fld := ⟨.FLT, 0x228, 63, 0⟩
def LKO_CTL_EN : Fld := ⟨.LKO, 0x80, 0, 0⟩
def LKO_CTL_ALPHA_LOG2 : Fld := ⟨.LKO, 0x80, 4, 1⟩
def LKO_CTL_Z : Fld := ⟨.LKO, 0x80, 10, 5⟩
def LKO_CTL_WARMUP : Fld := ⟨.LKO, 0x80, 22, 11⟩
def LKO_CTL_SPIKE_RUN : Fld := ⟨.LKO, 0x80, 26, 23⟩
def LKO_CTL_WINDOW : Fld := ⟨.LKO, 0x80, 42, 27⟩
def LKO_RING_ADDR : Fld := ⟨.LKO, 0x88, 47, 0⟩
def LKO_RING_LOG2_SIZE : Fld := ⟨.LKO, 0x88, 52, 48⟩
def LKO_RING_NODE : Fld := ⟨.LKO, 0x88, 60, 53⟩
def LKO_RING_SEQ_SEQ : Fld := ⟨.LKO, 0x90, 63, 0⟩
def LKO_MEAN_M : Fld := ⟨.LKO, 0x98, 63, 0⟩
def LKO_DEV_D : Fld := ⟨.LKO, 0xA0, 63, 0⟩
def LKO_ROLLBACK_TARGET_WM : Fld := ⟨.LKO, 0xA8, 31, 0⟩
def LKO_ROLLBACK_REASON : Fld := ⟨.LKO, 0xA8, 33, 32⟩
def LKO_ROLLBACK_VALID : Fld := ⟨.LKO, 0xA8, 34, 34⟩
def LKO_LAST_WAYMARK : Fld := ⟨.LKO, 0xB0, 31, 0⟩
def LKO_LAST_LOSS : Fld := ⟨.LKO, 0xB0, 63, 32⟩
def SYS_STATE_STATE : Fld := ⟨.SYS, 0x80, 2, 0⟩
def SYS_STATE_STEP : Fld := ⟨.SYS, 0x80, 5, 3⟩
def SYS_STATE_FAIL_CAUSE : Fld := ⟨.SYS, 0x80, 8, 6⟩
def SYS_STATE_START_S : Fld := ⟨.SYS, 0x80, 31, 16⟩
def SYS_STATE_BOOTS : Fld := ⟨.SYS, 0x80, 63, 32⟩
def SYS_PINS_ENABLE : Fld := ⟨.SYS, 0x88, 0, 0⟩
def SYS_PINS_INTERLOCK : Fld := ⟨.SYS, 0x88, 1, 1⟩
def SYS_PINS_ENABLE_GLITCH : Fld := ⟨.SYS, 0x88, 2, 2⟩
def SYS_PINS_INTERLOCK_GLITCH : Fld := ⟨.SYS, 0x88, 3, 3⟩
def SYS_PIN_CTL_ENABLE_FILTER : Fld := ⟨.SYS, 0x90, 15, 0⟩
def SYS_RESET_KEY : Fld := ⟨.SYS, 0x98, 15, 0⟩
def SYS_RESET_GO : Fld := ⟨.SYS, 0x98, 16, 16⟩
def SYS_TEST_OP : Fld := ⟨.SYS, 0xA0, 2, 0⟩
def SYS_TEST_NOWAIT : Fld := ⟨.SYS, 0xA0, 3, 3⟩
def SYS_TEST_GO : Fld := ⟨.SYS, 0xA0, 4, 4⟩
def SYS_TEST_BUSY : Fld := ⟨.SYS, 0xA0, 5, 5⟩
def SYS_TEST_HELD : Fld := ⟨.SYS, 0xA0, 6, 6⟩
def SYS_TEST_RESULT : Fld := ⟨.SYS, 0xA0, 9, 7⟩
def SYS_TEST_ARG_PLANE : Fld := ⟨.SYS, 0xA8, 0, 0⟩
def SYS_TEST_ARG_FIELD : Fld := ⟨.SYS, 0xA8, 6, 1⟩
def SYS_TEST_ARG_PORT_A : Fld := ⟨.SYS, 0xA8, 14, 7⟩
def SYS_TEST_ARG_PORT_B : Fld := ⟨.SYS, 0xA8, 22, 15⟩
def SYS_TEST_ARG_LINK : Fld := ⟨.SYS, 0xA8, 26, 23⟩
def SEC_STATE_DEBUG : Fld := ⟨.SEC, 0x80, 1, 0⟩
def SEC_STATE_UNLOCKED : Fld := ⟨.SEC, 0x80, 2, 2⟩
def SEC_STATE_TAMPER : Fld := ⟨.SEC, 0x80, 5, 3⟩
def SEC_STATE_TAMPER_NOW : Fld := ⟨.SEC, 0x80, 6, 6⟩
def SEC_STATE_FALLBACK : Fld := ⟨.SEC, 0x80, 7, 7⟩
def SEC_STAGE_SVN (n : Nat) : Fld := ⟨.SEC, 0x88 + 0x8 * n, 7, 0⟩
def SEC_STAGE_FUSE_SVN (n : Nat) : Fld := ⟨.SEC, 0x88 + 0x8 * n, 15, 8⟩
def SEC_STAGE_BANK (n : Nat) : Fld := ⟨.SEC, 0x88 + 0x8 * n, 16, 16⟩
def SEC_STAGE_STAGED (n : Nat) : Fld := ⟨.SEC, 0x88 + 0x8 * n, 17, 17⟩
def SEC_STAGE_PENDING (n : Nat) : Fld := ⟨.SEC, 0x88 + 0x8 * n, 18, 18⟩
def SEC_STAGE_CHECK (n : Nat) : Fld := ⟨.SEC, 0x88 + 0x8 * n, 21, 19⟩
def SEC_STAGE_VERSION (n : Nat) : Fld := ⟨.SEC, 0x88 + 0x8 * n, 63, 32⟩
def SEC_FW_CMD_OP : Fld := ⟨.SEC, 0xA8, 1, 0⟩
def SEC_FW_CMD_STAGE : Fld := ⟨.SEC, 0xA8, 3, 2⟩
def SEC_FW_CMD_GO : Fld := ⟨.SEC, 0xA8, 4, 4⟩
def SEC_FW_CMD_BUSY : Fld := ⟨.SEC, 0xA8, 5, 5⟩
def SEC_FW_CMD_RESULT : Fld := ⟨.SEC, 0xA8, 8, 6⟩
def SEC_FW_ADDR_ADDR : Fld := ⟨.SEC, 0xB0, 47, 0⟩
def SEC_DEBUG_CTL_SEAL : Fld := ⟨.SEC, 0xB8, 0, 0⟩
def SEC_DEBUG_CTL_KEY : Fld := ⟨.SEC, 0xB8, 31, 16⟩

end F

/-! ### Named counters: `C.PAGE_COUNTER`. -/
namespace C

def ARF_WIN_RESULTS : Ctr := ⟨.ARF, 0xA0⟩
def ARF_NAN_RESULTS : Ctr := ⟨.ARF, 0xA8⟩
def ARF_INF_RESULTS : Ctr := ⟨.ARF, 0xB0⟩
def ARF_SAT_RESULTS : Ctr := ⟨.ARF, 0xB8⟩
def ARF_SR_RESULTS : Ctr := ⟨.ARF, 0xC0⟩
def ARF_FAST_RESULTS : Ctr := ⟨.ARF, 0xC8⟩
def TSQ_STALE_TOKENS : Ctr := ⟨.TSQ, 0xA0⟩
def TSQ_FAULTED_TASKS : Ctr := ⟨.TSQ, 0xA8⟩
def TSQ_STEER_DISCARDS : Ctr := ⟨.TSQ, 0xB0⟩
def TSQ_ABORT_DISCARDS : Ctr := ⟨.TSQ, 0xB8⟩
def TSQ_UNBOUND_TOKENS : Ctr := ⟨.TSQ, 0xC0⟩
def TSQ_NO_LANDING : Ctr := ⟨.TSQ, 0xC8⟩
def TSQ_WORK_UNITS : Ctr := ⟨.TSQ, 0xD0⟩
def SPD_CE_WORDS : Ctr := ⟨.SPD, 0x100⟩
def SPD_CE_ACCESSES : Ctr := ⟨.SPD, 0x108⟩
def SPD_UE_WORDS : Ctr := ⟨.SPD, 0x110⟩
def SPD_BOUND_FAULTS : Ctr := ⟨.SPD, 0x118⟩
def SPD_SEG_OFF_FAULTS : Ctr := ⟨.SPD, 0x120⟩
def SPD_CLOSE_NACKS : Ctr := ⟨.SPD, 0x128⟩
def SPD_NACKS_RECEIVED : Ctr := ⟨.SPD, 0x130⟩
def SPD_LATE_WRITES : Ctr := ⟨.SPD, 0x138⟩
def SPD_GATE_TIMEOUTS : Ctr := ⟨.SPD, 0x140⟩
def SPD_ADDR_REFUSED : Ctr := ⟨.SPD, 0x148⟩
def SPD_GATHER_FLUSHES : Ctr := ⟨.SPD, 0x150⟩
def SPD_GATHER_RMW : Ctr := ⟨.SPD, 0x158⟩
def MESH_SEND_REFUSED : Ctr := ⟨.MESH, 0x100⟩
def MESH_DEAD_HOPS : Ctr := ⟨.MESH, 0x108⟩
def MESH_FENCED_DISCARDS : Ctr := ⟨.MESH, 0x110⟩
def MESH_RED_MISMATCH : Ctr := ⟨.MESH, 0x118⟩
def MESH_NACK_UNROUTED : Ctr := ⟨.MESH, 0x120⟩
def MESH_SPILLS : Ctr := ⟨.MESH, 0x128⟩
def MESH_RESTORES : Ctr := ⟨.MESH, 0x130⟩
def MESH_DEADLOCKS : Ctr := ⟨.MESH, 0x138⟩
def MESH_STALLS : Ctr := ⟨.MESH, 0x140⟩
def MESH_ABORT_DISCARDS : Ctr := ⟨.MESH, 0x148⟩
def MESH_STALL_CYCLES : Ctr := ⟨.MESH, 0x150⟩
def AEN_PASSES_COMPLETE : Ctr := ⟨.AEN, 0x100⟩
def AEN_PASSES_FAILED : Ctr := ⟨.AEN, 0x108⟩
def AEN_REUSES : Ctr := ⟨.AEN, 0x110⟩
def AEN_PEER_ABORTS : Ctr := ⟨.AEN, 0x118⟩
def AEN_CFG_FIELD_CYCLES : Ctr := ⟨.AEN, 0x120⟩
def PAS_PASSES : Ctr := ⟨.PAS, 0x100⟩
def PAS_CFG_BYTES : Ctr := ⟨.PAS, 0x108⟩
def PAS_RATE_MISMATCHES : Ctr := ⟨.PAS, 0x110⟩
def PAS_OVERRUNS : Ctr := ⟨.PAS, 0x118⟩
def PAS_CFG_REFUSED : Ctr := ⟨.PAS, 0x120⟩
def PAS_FOLD_ELEMENTS : Ctr := ⟨.PAS, 0x128⟩
def SEN_BYTES_EDGE : Ctr := ⟨.SEN, 0x100⟩
def SEN_BYTES_SERVER : Ctr := ⟨.SEN, 0x108⟩
def SEN_BYTES_DELIVERED : Ctr := ⟨.SEN, 0x110⟩
def SEN_DISCARD_BYTES : Ctr := ⟨.SEN, 0x118⟩
def SEN_PANELS : Ctr := ⟨.SEN, 0x120⟩
def SEN_OPENED : Ctr := ⟨.SEN, 0x128⟩
def SEN_COMPLETED : Ctr := ⟨.SEN, 0x130⟩
def SEN_CANCELLED : Ctr := ⟨.SEN, 0x138⟩
def SEN_FAILED : Ctr := ⟨.SEN, 0x140⟩
def SEN_UNDERRUNS : Ctr := ⟨.SEN, 0x148⟩
def SEN_READ_RESENDS : Ctr := ⟨.SEN, 0x150⟩
def SEN_DUP_RESPONSES : Ctr := ⟨.SEN, 0x158⟩
def SEN_BAD_RESPONSES : Ctr := ⟨.SEN, 0x160⟩
def SEN_STARVE_GRANTS : Ctr := ⟨.SEN, 0x168⟩
def ENG_FETCHED : Ctr := ⟨.ENG, 0xD00⟩
def ENG_COMPLETED : Ctr := ⟨.ENG, 0xD08⟩
def ENG_NOT_OK : Ctr := ⟨.ENG, 0xD10⟩
def ENG_FLUSHED : Ctr := ⟨.ENG, 0xD18⟩
def ENG_WAIT_NS : Ctr := ⟨.ENG, 0xD20⟩
def ENG_RERUNS : Ctr := ⟨.ENG, 0xD28⟩
def ENG_DOORBELLS : Ctr := ⟨.ENG, 0xD30⟩
def ENG_DB_REFUSED : Ctr := ⟨.ENG, 0xD38⟩
def ENG_SIG_DROPPED : Ctr := ⟨.ENG, 0xD40⟩
def MRK_SIGNALS : Ctr := ⟨.MRK, 0x100⟩
def MRK_WRITES : Ctr := ⟨.MRK, 0x108⟩
def MRK_WATCHES_FIRED : Ctr := ⟨.MRK, 0x110⟩
def MRK_WATCH_REPLACED : Ctr := ⟨.MRK, 0x118⟩
def MRK_SATURATED : Ctr := ⟨.MRK, 0x120⟩
def MRK_BARR_ARRIVALS : Ctr := ⟨.MRK, 0x128⟩
def MRK_BARR_EARLY : Ctr := ⟨.MRK, 0x130⟩
def MRK_TIMEOUTS : Ctr := ⟨.MRK, 0x138⟩
def MLW_COMPLETIONS : Ctr := ⟨.MLW, 0x200⟩
def MLW_BRIDGED_COMPLETIONS : Ctr := ⟨.MLW, 0x208⟩
def MLW_TIMEOUTS : Ctr := ⟨.MLW, 0x210⟩
def VLX_FRAMES_TX : Ctr := ⟨.VLX, 0x100⟩
def VLX_BYTES_TX : Ctr := ⟨.VLX, 0x108⟩
def VLX_ACK_RESENDS : Ctr := ⟨.VLX, 0x110⟩
def VLX_LATE_ACKS : Ctr := ⟨.VLX, 0x118⟩
def VLX_FRAMES_RX : Ctr := ⟨.VLX, 0x120⟩
def VLX_DUP_RX : Ctr := ⟨.VLX, 0x128⟩
def VLX_STALE_RX : Ctr := ⟨.VLX, 0x130⟩
def VLX_REFUSED_RX : Ctr := ⟨.VLX, 0x138⟩
def VLX_MALFORMED_RX : Ctr := ⟨.VLX, 0x140⟩
def VLX_TAINTS_TX : Ctr := ⟨.VLX, 0x148⟩
def VLX_TAINTS_RX : Ctr := ⟨.VLX, 0x150⟩
def VPT_FEC_CORR : Ctr := ⟨.VPT, 0x100⟩
def VPT_FEC_UNCORR : Ctr := ⟨.VPT, 0x108⟩
def VPT_NAKS : Ctr := ⟨.VPT, 0x110⟩
def VPT_REPLAYS : Ctr := ⟨.VPT, 0x118⟩
def VPT_RETRIES : Ctr := ⟨.VPT, 0x120⟩
def VPT_LANE_FAILS : Ctr := ⟨.VPT, 0x128⟩
def VPT_BYTES_TX : Ctr := ⟨.VPT, 0x130⟩
def VPT_BYTES_RX : Ctr := ⟨.VPT, 0x138⟩
def BRG_CROSSED : Ctr := ⟨.BRG, 0x100⟩
def BRG_CROSS_REFUSED : Ctr := ⟨.BRG, 0x108⟩
def BRG_LOST_FRAMES : Ctr := ⟨.BRG, 0x110⟩
def BRG_REPLAYS : Ctr := ⟨.BRG, 0x118⟩
def BRG_GROUP_FAILS : Ctr := ⟨.BRG, 0x120⟩
def BRG_SIDEBAND_LOSSES : Ctr := ⟨.BRG, 0x128⟩
def EMP_CE_BURSTS : Ctr := ⟨.EMP, 0x100⟩
def EMP_UE_BURSTS : Ctr := ⟨.EMP, 0x108⟩
def EMP_RD_BYTES : Ctr := ⟨.EMP, 0x110⟩
def EMP_WR_BYTES : Ctr := ⟨.EMP, 0x118⟩
def EMP_RMW : Ctr := ⟨.EMP, 0x120⟩
def EMP_EDGE_WRITE_BYTES : Ctr := ⟨.EMP, 0x128⟩
def EMP_EDGE_REFUSED : Ctr := ⟨.EMP, 0x130⟩
def PWR_BANK_DROPS : Ctr := ⟨.PWR, 0x100⟩
def PWR_CAP_LOWERS : Ctr := ⟨.PWR, 0x108⟩
def PWR_LIMITER_EVENTS : Ctr := ⟨.PWR, 0x110⟩
def PWR_FIELD_RESETS : Ctr := ⟨.PWR, 0x118⟩
def PWR_FIELDS_LOST : Ctr := ⟨.PWR, 0x120⟩
def PWR_RESET_DISCARDS : Ctr := ⟨.PWR, 0x128⟩
def PWR_HBM_THROTTLES : Ctr := ⟨.PWR, 0x130⟩
def PWR_HBM_HALTS : Ctr := ⟨.PWR, 0x138⟩
def PWR_COOL_EVENTS : Ctr := ⟨.PWR, 0x140⟩
def FPW_SUP_WARNS : Ctr := ⟨.FPW, 0x100⟩
def FPW_STRETCH_CYCLES : Ctr := ⟨.FPW, 0x108⟩
def FPW_THERM_STEPS : Ctr := ⟨.FPW, 0x110⟩
def FPW_FREQ_CHANGES : Ctr := ⟨.FPW, 0x118⟩
def FPW_PARKS : Ctr := ⟨.FPW, 0x120⟩
def FPW_LAYBYS : Ctr := ⟨.FPW, 0x128⟩
def FEN_MAC_FP4 : Ctr := ⟨.FEN, 0x100⟩
def FEN_MAC_8BIT : Ctr := ⟨.FEN, 0x108⟩
def FEN_MAC_16BIT : Ctr := ⟨.FEN, 0x110⟩
def FEN_ACTIVE_CYCLES : Ctr := ⟨.FEN, 0x118⟩
def FEN_IDLE_CYCLES : Ctr := ⟨.FEN, 0x120⟩
def FEN_NEAR_BYTES : Ctr := ⟨.FEN, 0x128⟩
def FEN_DEEP_BYTES : Ctr := ⟨.FEN, 0x130⟩
def FEN_TOW_TOKENS : Ctr := ⟨.FEN, 0x138⟩
def FEN_RED_ADDS : Ctr := ⟨.FEN, 0x140⟩
def FEN_FIELD_CYCLES : Ctr := ⟨.FEN, 0x148⟩
def FEN_PARKED_CYCLES : Ctr := ⟨.FEN, 0x150⟩
def FEN_LAYBY_CYCLES : Ctr := ⟨.FEN, 0x158⟩
def FEN_V_SUM : Ctr := ⟨.FEN, 0x160⟩
def FEN_V_SAMPLES : Ctr := ⟨.FEN, 0x168⟩
def FEN_RAIL_UJ : Ctr := ⟨.FEN, 0x170⟩
def FLT_CHECKS_SELECTED : Ctr := ⟨.FLT, 0x100⟩
def FLT_CHECKS_MATCHED : Ctr := ⟨.FLT, 0x108⟩
def FLT_CHECK_MISMATCHES : Ctr := ⟨.FLT, 0x110⟩
def FLT_CHECKS_DROPPED : Ctr := ⟨.FLT, 0x118⟩
def FLT_CHECKS_SKIPPED : Ctr := ⟨.FLT, 0x120⟩
def FLT_CHECK_STEALS : Ctr := ⟨.FLT, 0x128⟩
def FLT_TAINTS_DECIDED : Ctr := ⟨.FLT, 0x130⟩
def FLT_CONDEMNED : Ctr := ⟨.FLT, 0x138⟩
def FLT_REBINDINGS : Ctr := ⟨.FLT, 0x140⟩
def FLT_LOG_RECORDS : Ctr := ⟨.FLT, 0x148⟩
def FLT_LOG_LOST : Ctr := ⟨.FLT, 0x150⟩
def FLT_LIST_LOST : Ctr := ⟨.FLT, 0x158⟩
def HBM_CE : Ctr := ⟨.HBM, 0x100⟩
def HBM_UE : Ctr := ⟨.HBM, 0x108⟩
def HBM_RFM : Ctr := ⟨.HBM, 0x110⟩
def HBM_ODECC : Ctr := ⟨.HBM, 0x118⟩
def HIF_BAD_ACCESS : Ctr := ⟨.HIF, 0x100⟩
def HIF_POISON_RX : Ctr := ⟨.HIF, 0x108⟩
def HIF_DMA_ERRORS : Ctr := ⟨.HIF, 0x110⟩
def HIF_DMA_DISCARDS : Ctr := ⟨.HIF, 0x118⟩
def DIR_WR_REFUSED : Ctr := ⟨.DIR, 0x100⟩
def MESH_FLIT_HOPS_ACT : Ctr := ⟨.MESH, 0x200⟩
def MESH_FLIT_HOPS_WGT : Ctr := ⟨.MESH, 0x208⟩
def MESH_FLIT_HOPS_SUM : Ctr := ⟨.MESH, 0x210⟩
def MESH_FLIT_HOPS_CTL : Ctr := ⟨.MESH, 0x218⟩
def MESH_NBR_TOKENS : Ctr := ⟨.MESH, 0x220⟩
def CWY_BYTES : Ctr := ⟨.CWY, 0x100⟩
def CWY_BIT_ERRORS : Ctr := ⟨.CWY, 0x108⟩
def LKO_REPORTS : Ctr := ⟨.LKO, 0x100⟩
def LKO_ANOMALIES : Ctr := ⟨.LKO, 0x108⟩
def LKO_ROLLBACKS : Ctr := ⟨.LKO, 0x110⟩
def LKO_LOST : Ctr := ⟨.LKO, 0x118⟩
def LKO_FOREIGN : Ctr := ⟨.LKO, 0x120⟩
def SYS_TESTS_RUN : Ctr := ⟨.SYS, 0x100⟩
def SYS_TESTS_HELD : Ctr := ⟨.SYS, 0x108⟩
def SYS_TESTS_BUSY : Ctr := ⟨.SYS, 0x110⟩
def SYS_PIN_GLITCHES : Ctr := ⟨.SYS, 0x118⟩
def SEC_REPORTS : Ctr := ⟨.SEC, 0x100⟩
def SEC_CHECK_FAILS : Ctr := ⟨.SEC, 0x108⟩
def SPD_CE_BLK (n : Nat) : Ctr := ⟨.SPD, 0x200 + 8 * n⟩
def PAS_BLK_CYC (n : Nat) : Ctr := ⟨.PAS, 0x200 + 8 * n⟩
def PAS_BLK_BP (n : Nat) : Ctr := ⟨.PAS, 0x260 + 8 * n⟩

end C

end Sys2Proof.Machine
end

