-- ==== Sys2Proof/Machine/Sparse.lean ====
section
/-!
DEFINITION. Sparse stores: lists of (key, value) pairs in one canonical form, keys strictly rising and no entry equal
to what an unlisted key reads as. Memory, registers, tiles and every other store of the state are held so.
-/
namespace Sys2Proof.Machine

/-- What a key reads as: its entry, or the default of an unlisted key. -/
def look {α : Type} (d : Nat → α) : List (Nat × α) → Nat → α
  | [], k => d k
  | (j, v) :: r, k => if j = k then v else look d r k

/-- The store without a key. -/
def dropKey {α : Type} (k : Nat) : List (Nat × α) → List (Nat × α)
  | [] => []
  | (j, v) :: r => if j = k then dropKey k r else (j, v) :: dropKey k r

/-- The store with an entry put in key order. -/
def insertKey {α : Type} (k : Nat) (v : α) : List (Nat × α) → List (Nat × α)
  | [] => [(k, v)]
  | (j, w) :: r => if k < j then (k, v) :: (j, w) :: r else (j, w) :: insertKey k v r

/-- A write. Writing the default removes the entry, so that equal stores are equal lists. -/
def put {α : Type} [DecidableEq α] (d : Nat → α) (l : List (Nat × α)) (k : Nat) (v : α) : List (Nat × α) :=
  if v = d k then dropKey k l else insertKey k v (dropKey k l)

/-- Several writes, in order. -/
def putAll {α : Type} [DecidableEq α] (d : Nat → α) (l : List (Nat × α)) (es : List (Nat × α)) : List (Nat × α) :=
  es.foldl (fun m e => put d m e.1 e.2) l

/-- Every listed entry whose key satisfies `p`, changed by `f`; entries that become the default are dropped. -/
def mapKeys {α : Type} [DecidableEq α] (d : Nat → α) (p : Nat → Bool) (f : Nat → α → α) (l : List (Nat × α)) :
    List (Nat × α) :=
  l.filterMap (fun e =>
    if p e.1 then (if f e.1 e.2 = d e.1 then none else some (e.1, f e.1 e.2)) else some e)

/-- The canonical form: keys strictly rising, no default entry. -/
def storeWf {α : Type} [DecidableEq α] (d : Nat → α) : List (Nat × α) → Bool
  | [] => true
  | [(k, v)] => decide (v ≠ d k)
  | (k, v) :: (j, w) :: r => decide (v ≠ d k) && decide (k < j) && storeWf d ((j, w) :: r)

end Sys2Proof.Machine
end

