-- ==== Sys2Proof/Machine/State.lean ====
section
/-!
DEFINITION. The state of the module: plain data, holding every register, queue, buffer, bank, table and mode that the
spec gives it, and the queue of waiting commands. Spec: 01 (hierarchy) to 14, file by file as the sections name them.
-/
namespace Sys2Proof.Machine

/-! ### Tokens (R87, R90) -/

/-- A data token (R87). -/
structure DataTok where
  payload : BitVec 256
  scales : BitVec 64
  fmt : BitVec 4
  saxis : Bool
  epoch : BitVec 2
  deriving DecidableEq, Repr

/-- A control token (R90). -/
structure CtlTok where
  kind : BitVec 4
  value : BitVec 8
  epoch : BitVec 2
  deriving DecidableEq, Repr

/-- One partial sum of an EMIT CONTRIB or a VEXACT: exact, or an FP32 value with WIN_LO, WIN_HI and HIGH (R62); `gen`: it is a NaN that
no NaN operand has made (assumption 3). -/
inductive SumElem where
  | exact (x : ExactVal)
  | fast (v : W32) (lo hi high gen : Bool)
  deriving DecidableEq, Repr

/-- The contributions of one EMIT CONTRIB or VEXACT standing in an output queue (R128, R137): the partial sums not yet
sent, the remote address of the first of them and the step between them. -/
structure SumTok where
  fast : Bool
  epoch : BitVec 2
  addr : Nat
  step : Nat
  elems : List SumElem
  deriving DecidableEq, Repr

/-- What an output queue holds: data, control, or contributions, according to its sink (R91). -/
inductive OTok where
  | data (t : DataTok)
  | ctl (t : CtlTok)
  | sum (t : SumTok)
  deriving DecidableEq, Repr

/-! ### Packets (R216) -/

/-- A far packet: the 128-bit header, which holds the path that remains, and the payload bytes (R214, R216, R220). -/
structure Packet where
  hdr : BitVec 128
  payload : List Byte
  entry : BitVec 128             -- the endpoint table entry it was sent under, which says what its last router does (R221, R240)
  copied : Bool                  -- false: this router is a multicast target that has not taken its copy (R242)
  nanGen : Nat                   -- the model's record: lanes of a SUM whose NaN came from operands that were not NaN (R69, assumption 3)
  deriving DecidableEq, Repr

/-- The tile's landing buffer: one packet, whose action may still have to wait, and, for WGT, how many token records have entered
(R97, R189, R235, R242). -/
structure Landing where
  pkt : Packet
  entered : Nat
  deriving DecidableEq, Repr

/-- A merge slot (R247): its key, its lane count, whether a mismatched packet would have joined it, so that it never closes (R250),
and the packets contributed so far with their inputs (0 local, 1 N, 2 E, 3 S, 4 W). -/
structure MergeSlot where
  redId : BitVec 16
  addr : Nat
  lanes : Nat
  dead : Bool
  got : List (Nat × Packet)
  deriving DecidableEq, Repr

/-! ### Tasks and tiles -/

/-- The task states (R98). -/
inductive TaskState where
  | idle | loaded | running | done | drained | faulted | saved
  deriving DecidableEq, Repr

/-- A counter's configuration (R113). -/
structure CtrCfg where
  limit : BitVec 24
  chain : Bool
  tokmode : BitVec 2
  tokq : BitVec 4
  deriving DecidableEq, Repr

/-- A task's watch on a marker (R427). -/
structure Watch where
  marker : Nat
  value : W32
  cq : Nat
  token : BitVec 8
  satisfied : Bool
  deriving DecidableEq, Repr

/-- A task context (R86): state, registers, predicates, counters, configuration and the task status fields of R149. -/
structure TaskCtx where
  state : TaskState
  before : TaskState            -- the state held before a save (R99)
  present : Bool                -- PRESENT of the last configuration (R282)
  slotBase : Nat                -- R107
  slotCount : Nat
  fmtA : BitVec 4               -- R121
  fmtB : BitVec 4
  banks : BitVec 4              -- accumulator banks owned (R123)
  g : List (Nat × W32)          -- g0 to g63
  gInit : List (Nat × W32)      -- configured initial values
  p : BitVec 8                  -- p0 to p7
  cval : List (Nat × BitVec 24) -- counter VALUE
  cdone : BitVec 8              -- counter DONE
  ccfg : List (Nat × CtrCfg)
  rc0 : BitVec 128              -- result configurations (R125)
  rc1 : BitVec 128
  win : BitVec 256              -- window record (R156)
  faultCode : BitVec 8
  faultSlot : BitVec 7
  flags : BitVec 8              -- task status bits [27:20]
  workUnits : W32
  watch : Option Watch          -- R427
  deriving DecidableEq, Repr

def CtrCfg.reset : CtrCfg := { limit := 0, chain := false, tokmode := 0, tokq := 0 }

def TaskCtx.reset : TaskCtx :=
  { state := .idle, before := .idle, present := false, slotBase := 0, slotCount := 0, fmtA := 0, fmtB := 0, banks := 0
    g := [], gInit := [], p := 0, cval := [], cdone := 0, ccfg := [], rc0 := 0, rc1 := 0, win := 0
    faultCode := 0, faultSlot := 0, flags := 0, workUnits := 0, watch := none }

/-- Tokens that the read engine has produced for one RDQ and not yet delivered (R165, R170). -/
structure ReadJob where
  task : Nat
  dq : Nat
  deep : Bool
  toks : List DataTok
  deriving DecidableEq, Repr

/-- An entry of the narrow-gather buffer (R175): a row, its bytes and the byte-valid mask. -/
structure GatherEnt where
  deep : Bool
  row : Nat
  data : BitVec 256
  mask : BitVec 32
  deriving DecidableEq, Repr

/-- Deep segment states (R187). -/
inductive SegState where
  | off | waking | active | retained | closing
  deriving DecidableEq, Repr

/-- A deep segment: its state, the target of a waking, a command waiting for the present transition (R188), and how
the last gating came about (R193). -/
structure Segment where
  state : SegState
  target : SegState
  waiting : Option SegState
  timedOut : Bool
  deriving DecidableEq, Repr

/-- At power-on and at field reset every segment is ACTIVE, cleared (R188). -/
def Segment.reset : Segment := { state := .active, target := .active, waiting := none, timedOut := false }

/-- The check-code state of one 64-bit word of a bank (R180, R185). -/
inductive EccMark where
  | good | correctable | uncorr | poison
  deriving DecidableEq, Repr

/-- What the check tap has captured of one bank's open work unit (R617 to R619): whether it is selected, the operand
tokens of its MMAs in order with the HI selector, its count, and its index. -/
structure Capture where
  selected : Bool
  index : Nat
  mmas : Nat
  ops : List (DataTok × DataTok × Bool)
  deriving DecidableEq, Repr

def Capture.reset : Capture := { selected := false, index := 0, mmas := 0, ops := [] }

/-- A region that the tile's fold reader sends (R317, R319). -/
structure FoldEnt where
  addr : Nat                             -- tile address of element 0
  count : Nat
  redId : Nat
  destEp : Nat
  destAddr : Nat
  step : Nat
  deriving DecidableEq, Repr

/-- One logical tile (R86) with its router. -/
structure Tile where
  epoch : BitVec 2                       -- tile epoch (R102)
  failed : Bool                          -- failed under R184
  tasks : List (Nat × TaskCtx)           -- 4 task contexts
  acc : List (Nat × ExactVal)            -- bank b, element (i, j) at 64b + 8i + j (R86)
  openUnit : BitVec 4                    -- banks with an open work unit (R124)
  caps : List (Nat × Capture)            -- check tap, per bank (R619)
  istore : List (Nat × BitVec 128)       -- instruction store (R107)
  dq : List (Nat × List DataTok)         -- DQ0 to DQ7
  cq : List (Nat × List CtlTok)          -- CQ0 to CQ3
  oq : List (Nat × List OTok)            -- OQ0 to OQ7
  dqb : List (Nat × BitVec 16)           -- DQ bindings (R91, R282)
  cqb : List (Nat × BitVec 8)            -- CQ bindings
  oqb : List (Nat × BitVec 16)           -- OQ bindings
  emb : List (Nat × BitVec 128)          -- emitter bindings (R225)
  emSent : List (Nat × Nat)              -- payload bytes sent by a binding since pass start (R227)
  steer : List (Nat × BitVec 64)         -- steering channels (R118, R282)
  steerStuck : BitVec 4                  -- channels stopped by STEER_KIND (R120)
  landings : List (Nat × BitVec 256)     -- reduction landings (R129)
  waitArrive : BitVec 16                 -- landings with a waiting ARRIVE (R97)
  waitBarrier : List (Nat × Nat)         -- waiting BARRIER tokens: channel and CQ (R97)
  barLatch : BitVec 16                   -- arrival latches of the milestone wire channels (R435)
  barCq : List (Nat × Nat)               -- the CQ that each set latch names (R435)
  tables : List (Nat × W32)              -- table units, word n of the TABLES part (R139, R282)
  reads : List ReadJob                   -- read engine (R165)
  near : List Host.Cell                  -- near bank bytes
  deep : List Host.Cell                  -- deep bank bytes
  ecc : List (Nat × EccMark)             -- check codes: near word w at w, deep word w at 4096 + w (R180)
  wb : List (Bool × Nat)                 -- rows queued for correction write-back: deep, row (R182)
  scrubPos : Nat                         -- next row the scrub reads (R186)
  gather : List GatherEnt                -- narrow-gather buffer, oldest first (R175)
  segs : List (Nat × Segment)            -- deep segments 0 to 7
  rates : List (Nat × W32)               -- declared rates (R282, R296)
  counts : List (Nat × W32)              -- actual counts (R296)
  folds : List FoldEnt                   -- regions of the fold reader, in fold-list order (R319)
  foldPos : Nat                          -- fold reader: elements sent (R319)
  rtab : List (Nat × W64)                -- reduction table (R246)
  slots : List MergeSlot                 -- merge slots (R247)
  merged : List Packet                   -- merged packets that wait to continue (R248)
  inbuf : List (Nat × List Packet)       -- input buffers: input i (0 local, N, E, S, W), class c at 4i + c (R231)
  landing : Option Landing               -- landing buffer (R235)
  spillInput : Option Nat                -- input that the spill ring holds packets of (R264)
  spilled : List (BitVec 128 × Bool × Nat) -- entry, copied and nanGen of the packets in the spill ring, in ring order
  rr : List (Nat × Nat)                  -- arbitration pointers (R233)
  nbuf : List (Nat × List OTok)          -- neighbour-port input buffers: side d, channel c (0 ACT, 1 WGT, 3 CTL) at 4d + c (R231)
  issued : List (Nat × Nat)              -- per issue class: the task that last issued in it (R111)
  deriving DecidableEq, Repr

/-- A tile after power-on, module reset or field reset (R283): tasks IDLE, queues UNBOUND, windows of size 0, landings
and reduction entries with VALID 0, tables zero, segments ACTIVE and cleared, tile epoch as given. -/
def Tile.reset : Tile :=
  { epoch := 0, failed := false, tasks := [], acc := [], openUnit := 0, caps := [], istore := [], dq := [], cq := []
    oq := [], dqb := [], cqb := [], oqb := [], emb := [], emSent := [], steer := [], steerStuck := 0, landings := []
    waitArrive := 0, waitBarrier := [], barLatch := 0, barCq := [], tables := [], reads := [], near := [], deep := []
    ecc := [], wb := [], scrubPos := 0, gather := [], segs := [], rates := [], counts := [], folds := [], foldPos := 0, rtab := []
    slots := [], merged := [], inbuf := [], landing := none, spillInput := none, spilled := [], rr := [], nbuf := [], issued := [] }

/-! ### Markers -/

/-- A marker with its record (R420, R431). -/
structure Marker where
  value : W32
  lastKind : Nat
  lastId : W32
  lastAmount : W32
  lastWm : Waymark
  lastCyc : W64
  deriving DecidableEq, Repr

def Marker.reset : Marker := { value := 0, lastKind := 0, lastId := 0, lastAmount := 0, lastWm := 0, lastCyc := 0 }

/-- A marker operation that waits for the end of its FIELD cycle (R424): its place in the order of R424, its sub-order,
and, for a MARKER_WRITE, the engine record that completes when it has been applied (R421). -/
structure MarkOp where
  write : Bool
  rank : Nat
  sub : Nat
  marker : Nat
  amount : W32
  kind : Nat
  id : W32
  wm : Waymark
  donor : Option (Nat × Nat × Nat)       -- engine code, queue, ring index
  answer : Option (Nat × List Byte)      -- the answer to a SIGNAL frame and the link it leaves on (R458, R459)
  deriving DecidableEq, Repr

/-! ### Fields -/

/-- The field controller's state beside the register pages, and what the Array Engine and service firmware hold per
field. -/
structure FieldSt where
  cyc : W64                              -- field-local cycle count (R9)
  epoch : BitVec 2                       -- field epoch, held by the Array Engine (R105)
  ept : List (Nat × BitVec 128)          -- endpoint table (R221)
  fence : List (Nat × BitVec 2)          -- fence map per tile: bit 0 TILE_FENCED, bit 1 ROUTER_FENCED (R224)
  spared : List (Nat × Nat)              -- spared column of block n, 32 for none (R26)
  retired : Nat                          -- retirement cause, 0 for none (R604, R607)
  ownFenced : Nat                        -- tiles fenced by the field's own defects (R602)
  lost : Bool                            -- the field is lost: its power stage has opened (R547)
  resetting : Bool                       -- a field reset is in progress (R534)
  wiped : Bool                           -- a field reset has cleared its segments and no mirror has restored them (R616)
  warned : Bool                          -- stretched by a supply warning (R541)
  hot : Bool                             -- it has reached PARK and is not parked yet (R560)
  stopped : BitVec 12                    -- block islands whose clock stands still (R552)
  lockFail : Bool                        -- an island has failed to relock once (R552)
  slept : Bool                           -- put in layby because RC_ENABLE went low (R648)
  iso : List (Nat × Bool)                -- isolated links: 8 * tile + side, 4 more for a neighbour port (R261)
  isoPass : List Nat                     -- isolated links whose retest has passed: in service after the next drain (R606)
  absorbing : Bool                       -- ABORT: arrivals are absorbed until release (R255)
  drain : Option Nat                     -- mode of the drain command in progress: 0 STOP, 1 ABORT (R255)
  goodSweeps : Nat                       -- consecutive sweeps with every condition true (R253)
  resweep : Bool                         -- a packet or token has reached it while it was held and drained: it sweeps again (R254, R256)
  pendFence : List (Nat × BitVec 2)      -- fences that wait until the field is held and drained (R224, R260)
  segMap : Bool                          -- a placement's segment map is in progress (R202)
  markers : List (Nat × Marker)          -- R420
  mops : List MarkOp                     -- operations not yet applied (R424, R429)
  deriving DecidableEq, Repr

def FieldSt.reset : FieldSt :=
  { cyc := 0, epoch := 0, ept := [], fence := [], spared := [], retired := 0, ownFenced := 0, lost := false, resetting := false, wiped := false, warned := false, hot := false
    stopped := 0, lockFail := false, slept := false, iso := [], isoPass := [], absorbing := false, drain := none
    goodSweeps := 0, resweep := false, pendFence := [], segMap := false, markers := [], mops := [] }

/-! ### Pass causes (R301) -/

/-- An abort cause on its way to the Array Engine (R301, R302). -/
structure PassCause where
  plane : Fin 2
  cause : Nat
  hardware : Bool
  slot : Nat
  row : Nat
  col : Nat
  task : Nat
  named : Bool                           -- row and col name a tile or router
  cyc : W64                              -- cycle count of the field that reports it
  age : Nat                              -- FIELD cycles since it was reported
  deriving DecidableEq, Repr
/-! ### Streams (R330 to R366) -/

/-- Context states (R347). -/
inductive CtxState where
  | free | holding | delivering | ending
  deriving DecidableEq, Repr

/-- A request of a stream that has been issued and is outstanding (R350, R356): the bursts of an edge-memory request, or
the run of a server request. `sends` counts the sends. -/
structure StreamReq where
  seq : Nat
  server : Bool
  port : Nat                             -- stack, or Volino port
  chunk : Nat                            -- chunk c of panel p is 16p + c
  addr : Nat                             -- of a server request
  len : Nat
  bursts : List Nat
  sends : Nat
  deriving DecidableEq, Repr

/-- A stream context (R332, R347): descriptor, waymark and epoch of its command, the path composed at the last entry to
DELIVERING, what is fetched and what is injected. -/
structure StreamCtx where
  state : CtxState
  gen : BitVec 8
  desc : List Byte
  wm : Waymark
  epoch : BitVec 2
  queue : Nat                            -- the record of its STREAM_OPEN
  index : Nat
  field : Nat                            -- destination field
  order : Nat                            -- place in the order of opening
  router : Nat × Nat                     -- injection router of the composed path
  entry : BitVec 128                     -- endpoint table entry of the composed path
  next : Nat                             -- panels that have taken frames
  issued : List (Nat × Nat)              -- requests issued of the panels held: chunk, and stack or first address of the run
  seq : Nat                              -- SEQ of the next server request
  reqs : List StreamReq
  data : List (Nat × Byte)               -- source bytes in the waystation: of address a for chunk c, at c * 2^48 + a
  sent : Nat                             -- delivered bytes injected
  scaleSent : Nat                        -- stream blocks whose scale bytes have been injected
  bad : List (Nat × Nat)                 -- panels that end the stream when it comes to them, with the status (R341, R363)
  dropped : List Nat                     -- SEQ of server requests that failed without an accepted response (R357, R358)
  refuse : Nat                           -- refusal cause of a status DST_REFUSED (R365)
  status : Nat                           -- status that an ENDING context completes with
  dry : Bool                             -- S + D was 0 when last seen (R355)
  old : Bool                             -- it entered HOLDING before the last pass of its field reached COMPLETE (R293)
  deriving DecidableEq, Repr

def StreamCtx.reset : StreamCtx :=
  { state := .free, gen := 0, desc := [], wm := 0, epoch := 0, queue := 0, index := 0, field := 0, order := 0
    router := (0, 0), entry := 0, next := 0, issued := [], seq := 0, reqs := [], data := [], sent := 0, scaleSent := 0
    bad := [], dropped := [], refuse := 0, status := 0, dry := false, old := false }

/-! ### Engines and steps (R375 to R418) -/

/-- How far a fetched record has come: behind the head or at it, started and not yet executed, executing, completed. -/
inductive RecStage where
  | queued | started | running | done
  deriving DecidableEq, Repr

/-- A fetched record: its ring index, its 64 bytes, its payload, the COMMON code that validation gave it, and, for a
cancel, the contexts or exchanges that it matched. -/
structure EngRec where
  index : Nat
  raw : List Byte
  payload : List Byte
  check : Nat
  stage : RecStage
  retired : Bool
  sat : Bool × Bool                      -- waits found satisfied (R387, R425)
  matched : List Nat
  deriving DecidableEq, Repr

/-- A command queue beside its registers: the fetched records that have not retired, in ring order, the step mark of the
open step (R394), and failed tries of the present fetch (R518). -/
structure EngQueue where
  recs : List EngRec
  mark : Nat
  tries : Nat
  failed : Bool                          -- the queue stopped on a failed fetch (R518)
  deriving DecidableEq, Repr

def EngQueue.reset : EngQueue := { recs := [], mark := 0, tries := 0, failed := false }

/-- What the Service Engine is doing with the open step (R405 to R409). -/
inductive StepPhase where
  | running | rerunning | ending
  deriving DecidableEq, Repr

/-- The first failing outcome of a step: HARDWARE or PROGRAM, and the record (R405). -/
structure StepFail where
  hardware : Bool
  engine : Nat
  queue : Nat
  index : Nat
  key : List Nat                         -- the cause with its slot, waymark and tile, for comparison (R617)
  deriving DecidableEq, Repr

/-- The open step (R394). -/
structure StepSt where
  firstWm : Nat
  lastWm : Nat
  mask : Nat                             -- ENGINE_MASK
  reruns : Nat                           -- RERUNS
  made : Nat                             -- re-runs made
  queue : Nat                            -- the record of its STEP_BEGIN
  index : Nat
  fail : Option StepFail
  lastFail : Option StepFail
  rebound : Bool                         -- a slot has been rebound since the last re-run (R617)
  aborted : Bool
  final : Bool                           -- it ends without a re-run (R608, R609, R565)
  phase : StepPhase
  epochs : List (Nat × BitVec 2)         -- step epochs, by field
  left : List Nat                        -- attempts of which a WRITE or ACCUMULATE frame has been sent (R624)
  done : List Nat                        -- waymarks of which such a frame has been answered DONE (R478)
  stopped : List Nat                     -- fields that the recovery of this attempt has held itself, to be released (R260, R616)
  deriving DecidableEq, Repr

/-- What an Array Engine holds beside its page (R285 to R303). -/
structure ArrayEng where
  image : Nat                            -- edge-memory address of the resident placement image
  placing : Option (Nat × Nat × Nat)     -- PLACE_LOAD in its drain: queue, ring index, image address
  pass : Option (Nat × Nat)              -- the PASS_RUN that runs: queue, ring index
  span : Bool
  slots : W64                            -- SLOT_MASK of the pass
  prev : W64                             -- slots of the previous pass whose fields it has left held (R300)
  spans : Nat                            -- SPAN passes accepted in the present waymark (R294)
  held : Bool                            -- step 1 of R290 is complete
  notices : List (Waymark × Bool)        -- pass-abort notices kept, with the class of the partner's cause (R294)
  incoming : List (Waymark × Bool × Nat) -- notices on their way to this Array Engine: which SPAN pass of the waymark ended
  cause : Option (Nat × Bool)            -- the cause under which the pass ends, and whether it is of class HARDWARE
  word : Nat                             -- the bits of AEN.FAIL that name that cause, its slot and its tile (R617)
  entered : Bool                         -- the entry barrier of a SPAN pass has completed
  reuse : Bool                           -- the last pass may be restarted under REUSE (R293)
  startCyc : W64                         -- cycle count at acceptance
  runCyc : W64                           -- FIELD cycles from acceptance to RUNNING
  deriving DecidableEq, Repr

def ArrayEng.reset : ArrayEng :=
  { image := 0, placing := none, pass := none, span := false, slots := 0, prev := 0, spans := 0, held := false, notices := [], incoming := [], cause := none, word := 0, entered := false, reuse := false
    startCyc := 0, runCyc := 0 }

/-! ### Volino (R451 to R488) -/

/-- A frame (R454) without its trailer. -/
structure Frame where
  dest : Nat
  src : Nat
  op : Nat
  flags : Nat
  fmt : Nat
  status : Nat
  len : Nat
  aux : Nat
  addr : Nat
  cid : Nat
  wm : Waymark
  retain : Nat
  payload : List Byte
  deriving DecidableEq, Repr

/-- The link layer of a Volino port, or of an external causeway port (R462 to R464): the replay buffer with its sequence
numbers, frames that wait for room in it, and what has been received. -/
structure VLink where
  nextSeq : Nat
  buf : List (Nat × List Byte)
  txq : List (List Byte)
  rxSeq : Nat                            -- the SEQ expected next
  rxAny : Bool
  nak : Bool                             -- it has sent a NAK and discards frames until the SEQ expected arrives
  retry : Bool                           -- a link retry is in progress
  deriving DecidableEq, Repr

def VLink.reset : VLink := { nextSeq := 0, buf := [], txq := [], rxSeq := 0, rxAny := false, nak := false, retry := false }

/-- A frame of an exchange that is unanswered: its number, the port that it last left on, and whether it waits for
BUSY_BACKOFF (R470, R473). -/
structure ExFrame where
  k : Nat
  port : Option Nat
  frame : Frame
  backoff : Bool
  deriving DecidableEq, Repr

/-- An exchange (R469 to R475): the frames of a record, or a TAINT frame, which has no record. -/
structure Exch where
  plane : Fin 2
  donor : Option (Nat × Nat)             -- queue and ring index
  op : Nat
  wm : Waymark
  src : Nat
  bytes : Nat
  dest : Nat
  xid : Option Nat
  remote : Nat
  cid : Nat
  mask : Nat                             -- PORT_MASK
  frameBytes : Nat
  fmt : Nat
  window : Nat
  body : List Byte                       -- payload of a SIGNAL or TAINT frame
  total : Nat
  next : Nat                             -- frames formed so far
  turn : Nat                             -- the port after the one last used
  lastPort : Nat
  out : List ExFrame
  deriving DecidableEq, Repr

/-- A deduplication window (R460): the highest identifier performed and those performed at or below it that it still
covers; nothing performed where the list is empty. -/
structure DedupWin where
  high : Nat
  got : List Nat
  deriving DecidableEq, Repr

def DedupWin.reset : DedupWin := { high := 0, got := [] }

/-- An armed IMPORT (R495). -/
structure ImportWin where
  node : Nat
  plane : Fin 2
  base : Nat
  size : Nat
  win : DedupWin
  deriving DecidableEq, Repr

/-! ### The span bridge (R491) -/

/-- A bridged frame on its way to a plane. -/
structure BridgedFrame where
  plane : Fin 2                          -- the receiving plane
  router : Nat × Nat                     -- plane row and column of the receiving attach router
  destEp : BitVec 24
  srcEp : BitVec 24
  aux : BitVec 16
  addr : BitVec 19
  wm : Waymark
  payload : List Byte
  deriving DecidableEq, Repr


/-! ### Sampled repetition (R618 to R625) -/

/-- A captured work unit in the check store of its plane (R619): where it ran, the operands of its MMAs with the HI
selector, the bank as the EMIT found it, and the banks that the feeds have returned so far (R620, R622). -/
structure CheckUnit where
  tile : TileAddr
  task : Nat
  bank : Nat
  wm : Waymark
  attempt : Nat
  u : Nat
  ops : List (DataTok × DataTok × Bool)
  orig : List ExactVal
  shadow : Option (TileAddr × List ExactVal)
  again : Option (List ExactVal)
  referee : Option (List ExactVal)
  deriving DecidableEq, Repr
/-- An entry of the retained defect list (R603). KIND: 1 TILE, 2 ROUTER, 3 FIELD, 4 BLOCK, 5 STACK. -/
structure Retained where
  kind : Nat
  plane : Nat
  index : Nat
  block : Nat
  row : Nat
  col : Nat
  code : Nat
  wm : Waymark
  deriving DecidableEq, Repr


/-! ### Error records (R595) -/

/-- An error record as its unit passes it to service firmware, before it is numbered (R594, R595, R598). -/
structure ErrRec where
  code : Nat
  sev : Nat
  hardware : Bool                -- CLASS
  suspect : Bool
  attempt : Nat
  waymark : Waymark
  inst : Nat
  plane : Nat
  field : Nat
  slot : Nat
  unit : Nat
  lrow : Nat
  lcol : Nat
  pcol : Nat
  temp : Nat
  railMv : Nat
  cycle : W64
  opCode : Nat
  opKind : Nat
  detail : List W64
  deriving DecidableEq, Repr

/-- What leaves the module toward the host: a DMA write or an MSI-X message (R518, R530), the completion of a read, with
data, poisoned or not, or as Unsupported Request (R517, R519, R520). -/
inductive HostOut where
  | write (addr : Nat) (data : List Byte)
  | msix (vector : Nat)
  | completion (data : List Byte) (poisoned : Bool)
  | unsupported
  deriving DecidableEq, Repr

/-- An entry of the MSI-X table and its pending bit (R515, R526, R530). A vector is masked after reset, as PCIe gives. -/
structure MsixEntry where
  addr : W64
  data : W32
  masked : Bool
  pending : Bool
  deriving DecidableEq, Repr

def MsixEntry.reset : MsixEntry := { addr := 0, data := 0, masked := true, pending := false }

/-! ### The state -/

/-- Counts that a unit has made under a waymark that it has not entered yet (R366). -/
structure AheadCount where
  ctr : Ctr
  inst : Nat
  n : Nat
  wm : Waymark
  deriving DecidableEq, Repr

structure State where
  regs : List (Nat × W64)                -- every register that does not hold its reset value
  risen : List (Nat × W64)               -- by register: the W1C bits that events have set in the present FIELD cycle (R18)
  ahead : List AheadCount                -- counts held until their waymark opens (R366)
  peaks : List (Nat × Nat)               -- milepost values of SEN.GRP_OCCn.PEAK, plane p, group g at 8p + g (R373)
  tiles : List (Nat × Tile)
  fields : List (Nat × FieldSt)
  slotOf : List (Nat × Nat)              -- slot 56p + s: 1 + the field bound to it, 0 for none (R29)
  recOnce : List (Nat × Waymark)         -- records of a kind that a field has written in a waymark
  records : List ErrRec                  -- records passed to service firmware, oldest first (R594)
  causes : List PassCause                -- abort causes not yet taken by the Array Engines (R302)
  checks : List CheckUnit                -- check stores of both planes, oldest first (R619)
  retained : List Retained               -- the retained defect list (R603)
  suspects : List (Nat × Nat)            -- per tile: events that condemn it when repeated: 1 a verdict, 2 a pass cause (R606)
  hostOut : List HostOut                 -- what the module has sent to the host, oldest first
  hostHeld : List HostOut                -- held while HIF.DMA_CTL.HELD is 1 (R521)
  fwIrq : List Nat                       -- pages whose interrupt went to service firmware, as page keys (R530)
  msix : List (Nat × MsixEntry)          -- MSI-X table and pending bits (R515, R530)
  d3hot : Bool                           -- the PCIe function is in D3hot (R515)
  edge : List (Nat × Byte)               -- edge memory: plane p, address a at p * 2^48 + a (R503)
  edgeMark : List (Nat × EccMark)        -- controller code of burst b of plane p, at p * 2^42 + b (R501)
  edgeWb : List Nat                      -- corrected bursts that wait for write-back (R508)
  selfRefresh : List (Nat × Nat)         -- per plane: 0 no, 1 in self-refresh, 2 leaving it (R570)
  stackHeat : List (Nat × Nat)           -- per stack 32p + s: bit 0 throttled, bit 1 halted (R563)
  scrubAt : List (Nat × Nat)             -- per plane: the next burst of the patrol scrub (R509)
  edgeHeld : List (TileAddr × Packet)    -- signals of edge writes held by a drain of their field (R240, R253)
  fopenDue : List (Nat × Bool)           -- planes where a write of SEN.FOPEN_SEL waits for its snapshot (R370)
  bridgeRx : List BridgedFrame           -- frames in the bridge's receive buffers, oldest first (R491, R492)
  aeArrived : List (Nat × Bool)          -- the Array Engine of plane p stands at ENGINE channel c, at 16p + c (R433)
  ctxs : List (Nat × StreamCtx)          -- stream contexts, plane p, CTX c at p * 2^20 + c (R330)
  ctxCount : Nat                         -- contexts opened so far, which gives their order
  queues : List (Nat × EngQueue)         -- queue q of engine e at 64e + q (R375)
  turns : List (Nat × Nat)               -- per engine: the queue after the one that last started a record (R389)
  step : Option StepSt                   -- the open step (R394)
  stepFailed : Option (Nat × Nat)        -- FIRST_WM and LAST_WM of the last step that ended ERROR or ABORTED (R391)
  array : List (Nat × ArrayEng)          -- Array Engines of the planes
  remoteRoot : List (Nat × Bool)         -- the other plane's root as plane p holds it, at 16p + c (R435, R493)
  links : List (Nat × VLink)             -- port k of plane p at 32p + k, external causeway port 128 + k at 64 + k (R462)
  wire : List (Nat × W64 × List Byte)    -- what the ports have sent, oldest first: link, link tag, frame bytes
  exchs : List Exch                      -- open exchanges, oldest first (R469)
  sigCount : List (Nat × Nat)            -- per plane: unstepped EXCH_SIGNAL records since module reset (R472)
  destSets : List (Nat × Nat × Nat)      -- plane, waymark and NODE of WRITE and ACCUMULATE frames sent (R475)
  tainted : List (Nat × Nat × Nat)       -- waymarks tainted, with attempt and KIND (R625)
  taintSeq : Nat                         -- taint sequence number (R479)
  windows : List (Nat × DedupWin)        -- deduplication window of plane p for NODE n, at 256p + n (R460)
  derived : List (Nat × List (Nat × List Nat)) -- derived sets at ((256p + n) * 8 + SOURCE) * 2 + PLANE: NUMBER and CIDs (R460)
  taintNamed : List Nat                  -- waymarks that inbound TAINT frames have named (R480, R630)
  bridgeTrain : List Nat                 -- bridge links in training (R497)
  importing : Option ImportWin           -- the armed IMPORT (R495)
  stoppedClk : List Nat                  -- clock domains other than TILE whose clock stands still, as rows of R549 (R552)
  refLost : Bool                         -- one REF oscillator has failed (R551)
  dark : Nat                             -- 0 powered; 1 both inputs lost (R538), 2 both REF oscillators failed, 3 for the third time (R646)
  capBelow : Nat                         -- `below` of the cap controller (R573)
  limQuiet : Nat                         -- samples at or below the cap since the limiter engaged (R575)
  bankOn : Nat                           -- conversion banks in service: bit 0 A, bit 1 B (R537)
  coolCap : Nat                          -- coolant cap in W (R564)
  coolLow : Nat                          -- samples in a row with flow below 45 L/min (R564)
  coolWait : Nat                         -- samples in NORMAL or COLD that a STEP_BEGIN still waits for (R565)
  sleeping : Bool                        -- everything is on its way into layby (R565, R648)
  sleptPorts : List Nat                  -- ports put in layby because RC_ENABLE went low (R648)
  sleptBridge : Bool
  logNext : Nat                          -- next SEQ (R594)
  logHeld : List (List Byte)             -- numbered records that wait for the log (R600)
  logOver : Bool                         -- records were discarded since the last one written (R600)
  mlog : List (List Byte)                -- the management controller's log, oldest first (R670)
  losses : Nat                           -- the loss-ring entry that LKO.FOREIGN has last counted: its SEQ and NODE (R628)
  spikeFirst : Waymark                   -- first waymark of the spike run (R630)
  lkoN : Nat                             -- reports that m and d have taken in, n of R629
  lkoSpikes : Nat                        -- spikes in a row (R629)
  stepsSeen : List (Nat × Nat)           -- FIRST_WM and LAST_WM of the steps begun, latest first (R630)
  flash : List (Nat × List Byte)         -- firmware banks: stage s, bank b at 2s + b (R656)
  active : List (Nat × Nat)              -- active bank of a stage (R656)
  fresh : List (Nat × Nat)               -- per stage: 1 its active bank is newly activated and not READY yet, 2 abandoned (R656)
  toActivate : List Nat                  -- stages with an ACTIVATE to act on (R659)
  digests : List (Nat × List Byte)       -- BODY_DIGEST of the running image of a stage (R657)
  mgmtStage : W64                        -- SEC.STAGE1 of the MGMT image that runs, across a module reset (R641)
  cwyFailed : List Nat                   -- causeway ports that failed the PRBS of start-up (R645)
  measure : List Byte                    -- M (R657)
  nonce : Option (List Byte)             -- nonce of the Redfish unlock action (R664)
  unlockNext : Bool                      -- an unlock token has been accepted for the next boot (R664)
  testRef : Option (Nat × Nat)           -- a self-test that runs: 1 + field instance and 1 + its partner's, 0 for none (R650)
  subs : List Nat                        -- Redfish event subscriptions (R667)
  mgmtOut : List (Nat × List Byte)       -- answers of the management controller: HTTP status and content, oldest first (R667)
  doe : List Byte                        -- the response object in the DOE mailbox, empty for none (R523, R666)
  debugOut : List Nat                    -- what the debug port has granted, oldest first: 1 identification, 2 full access (R663)
  free : Nat                             -- the model's own: the next free value's index (assumption 11)
  pending : List Instr                   -- commands that wait, first in, first out
  deriving DecidableEq, Repr

/-- The module right after power-on reset: every register at its Reset value, banks cleared, nothing queued. -/
def State.reset : State :=
  { regs := [], risen := [], ahead := [], peaks := [], tiles := [], fields := [], slotOf := [], recOnce := [], records := [], causes := [], checks := [], retained := [], suspects := [], hostOut := [], hostHeld := []
    fwIrq := [], msix := [], d3hot := false, edge := [], edgeMark := [], edgeWb := [], selfRefresh := [], stackHeat := []
    scrubAt := [], edgeHeld := [], fopenDue := [], bridgeRx := [], aeArrived := [], ctxs := [], ctxCount := 0, queues := [], turns := [], step := none, stepFailed := none, array := []
    remoteRoot := [], links := [], wire := [], exchs := [], sigCount := [], destSets := [], tainted := [], taintSeq := 0
    windows := [], derived := [], taintNamed := [], bridgeTrain := [], importing := none, stoppedClk := [], refLost := false, dark := 0
    capBelow := 0, limQuiet := 0, bankOn := 3, coolCap := 38000, coolLow := 0, coolWait := 0, sleeping := false, sleptPorts := [], sleptBridge := false
    logNext := 0, logHeld := [], logOver := false, mlog := [], losses := 0, spikeFirst := 0, lkoN := 0, lkoSpikes := 0, stepsSeen := [], flash := [], active := [], fresh := [], mgmtStage := 0, cwyFailed := []
    toActivate := [], digests := [], measure := List.replicate 32 0, nonce := none, unlockNext := false, testRef := none, subs := []
    mgmtOut := [], doe := [], debugOut := [], free := 0, pending := [] }

/-! ### Outcomes -/

/-- Faults. No command of this block ends in one: every check the spec gives ends in a refusal with an error return
or in a next state. -/
inductive Fault where
  /-- Raised by nobody: kept so that the type has a name for an internal stop. Safe. -/
  | none
  deriving DecidableEq, Repr

/-- Refusals. -/
inductive Refusal where
  /-- Raised by an arm of exec whose command has no meaning yet. Safe. -/
  | notModelled (mnemonic : String)
  deriving DecidableEq, Repr

end Sys2Proof.Machine
end

