-- ==== Sys2Proof/Machine/Ops.lean ====
section
/-!
DEFINITION. The named operations over the state: register pages, counters, captures, interrupts, error records, tiles
and fields, and what leaves the module. Spec: 00_scope (R11 to R18), 01 (R22 to R29), 02 (R84), 11 (R528, R530),
13 (R594 to R598).
-/
namespace Sys2Proof

/-- A field's number in the module: 60p + f. -/
def FieldAddr.idx (a : FieldAddr) : Nat := 60 * a.plane.val + a.field.val

/-- A field page's instance number, 64p + f (R528). -/
def FieldAddr.inst (a : FieldAddr) : Nat := 64 * a.plane.val + a.field.val

/-- A tile's number in its field, row-major. -/
def TileAddr.loc (a : TileAddr) : Nat := 128 * a.row.val + a.col.val

/-- A tile's number in the module. -/
def TileAddr.key (a : TileAddr) : Nat := 12288 * a.fld.idx + a.loc

/-- The block index of a tile (R25). -/
def TileAddr.block (a : TileAddr) : Nat := a.row.val / 32 * 4 + a.col.val / 32

end Sys2Proof

namespace Sys2Proof.Machine

/-! ### Bits -/

/-- Bits [hi:lo] of a word (R11). -/
def wbits {n : Nat} (w : BitVec n) (hi lo : Nat) : Nat := natBits hi lo w.toNat

/-- The word with bits [hi:lo] replaced. -/
def setBits {n : Nat} (w : BitVec n) (hi lo v : Nat) : BitVec n :=
  let m : BitVec n := BitVec.ofNat n ((2 ^ (hi + 1 - lo) - 1) <<< lo)
  (w &&& ~~~m) ||| (BitVec.ofNat n (v <<< lo) &&& m)

/-- The bytes of a number, little-endian (R12). -/
def leBytes (n x : Nat) : List Byte := (List.range n).map (fun i => BitVec.ofNat 8 (x >>> (8 * i)))

/-- The number that little-endian bytes hold (R12). -/
def leNat : List Byte → Nat
  | [] => 0
  | b :: r => b.toNat + 256 * leNat r

/-- Bytes [a, a + n) of a list, zero beyond its end. -/
def bytesAt (l : List Byte) (a n : Nat) : List Byte := (List.range n).map (fun i => l.getD (a + i) 0)

/-- The little-endian number at a byte offset. -/
def leAt (l : List Byte) (a n : Nat) : Nat := leNat (bytesAt l a n)

/-! ### Registers -/

/-- The common page header (R528). -/
def hdrRegs (t : PageType) : List RegSpec :=
  [⟨0x000, false, [ro 63 0 0]⟩, ⟨0x008, false, [ro 15 0 1]⟩, ⟨0x010, false, [ro 2 0 0, ro 20 12 0]⟩,
   ⟨0x018, false, [rw 10 0 0 0 2047, rw 11 11 0 0 1, rw 12 12 1 0 1]⟩,
   ⟨0x020, false, [ro 3 0 0, ro 7 4 0, ro 8 8 0, ro 9 9 0, ro 10 10 0]⟩,
   ⟨0x028, false, (List.range t.errBits).map (fun i => w1c i i)⟩,
   ⟨0x030, false, (List.range t.errBits).map (fun i => rw i i 0 0 1)⟩,
   ⟨0x038, false, (List.range t.irqBits).map (fun i => w1c i i)⟩,
   ⟨0x040, false, (List.range t.irqBits).map (fun i => rw i i 0 0 1)⟩,
   ⟨0x048, false, [rw 0 0 0 0 1, w1c 1 1, w1c 2 2]⟩, ⟨0x050, false, [ro 31 0 0, ro 35 32 0, ro 63 36 0]⟩,
   ⟨0x058, true, [rw 0 0 1 0 1, rw 1 1 0 0 1]⟩]

/-- Every register of a page type: header, own registers, counters and their shadows. -/
def allRegs (t : PageType) : List RegSpec :=
  hdrRegs t ++ t.regs ++ t.ctrs.flatMap (fun c => [ctrReg c.off c.wide, ctrReg c.shadow c.wide])

/-- The register at an offset, where there is one. -/
def regSpec (t : PageType) (off : Nat) : Option RegSpec := (allRegs t).find? (fun r => r.off == off)

def allPageTypes : List PageType :=
  [.DIR, .HIF, .ENG, .BRG, .CWY, .AEN, .SEN, .MLW, .VLX, .EMP, .HBM, .VPT, .MESH, .FEP, .ARF, .TSQ, .SPD, .PAS,
   .MRK, .PWR, .FPW, .FEN, .NRG, .FLT, .LKO, .SYS, .SEC]

/-- A register's key in `State.regs`. -/
def regKey (p : Page) (off : Nat) : Nat := (p.typ.code * 65536 + p.inst % 65536) * 4096 + off % 4096

/-- The Reset value of a register: its fields' resets, fused fields from the fuses. -/
def regReset (t : PageType) (inst off : Nat) : W64 :=
  match regSpec t off with
  | none => 0
  | some r => r.flds.foldl (fun w f =>
      setBits w f.hi f.lo (if f.fuse then wbits (Config.fuse t.code inst off) f.hi f.lo else f.reset)) 0

/-- What an unlisted register key reads as: the register's Reset value. -/
def regDefault (k : Nat) : W64 :=
  match allPageTypes.find? (fun t => t.code == k / 4096 / 65536) with
  | none => 0
  | some t => regReset t (k / 4096 % 65536) (k % 4096)

/-- A register's stored value. -/
def State.reg (s : State) (p : Page) (off : Nat) : W64 := look regDefault s.regs (regKey p off)

def State.setReg (s : State) (p : Page) (off : Nat) (v : W64) : State :=
  { s with regs := put regDefault s.regs (regKey p off) v }

/-- A field of a register of a page instance. -/
def State.getF (s : State) (f : Fld) (inst : Nat) : Nat := wbits (s.reg ⟨f.typ, inst⟩ f.off) f.hi f.lo

def State.setF (s : State) (f : Fld) (inst v : Nat) : State :=
  s.setReg ⟨f.typ, inst⟩ f.off (setBits (s.reg ⟨f.typ, inst⟩ f.off) f.hi f.lo v)

/-- An event sets W1C bits of a register: a write that clears them in the same FIELD cycle leaves them set (R18). -/
def State.rose (s : State) (p : Page) (off : Nat) (b : W64) : State :=
  { s with risen := put (fun _ => 0) s.risen (regKey p off) (look (fun _ => 0) s.risen (regKey p off) ||| b) }

/-- An event sets W1C bits of a register. -/
def State.raiseBits (s : State) (p : Page) (off : Nat) (b : W64) : State := (s.setReg p off (s.reg p off ||| b)).rose p off b

/-- The bits of a field, in its register. -/
def Fld.bits (f : Fld) : W64 := setBits 0 f.hi f.lo (2 ^ (f.hi + 1 - f.lo) - 1)

/-- An event sets a W1C field. -/
def State.raiseF (s : State) (f : Fld) (inst : Nat) : State := s.raiseBits ⟨f.typ, inst⟩ f.off f.bits

/-! ### Tiles and fields -/

def State.tile (s : State) (a : TileAddr) : Tile := look (fun _ => Tile.reset) s.tiles a.key

def State.setTile (s : State) (a : TileAddr) (t : Tile) : State :=
  { s with tiles := put (fun _ => Tile.reset) s.tiles a.key t }

def State.fieldSt (s : State) (a : FieldAddr) : FieldSt := look (fun _ => FieldSt.reset) s.fields a.idx

def State.setField (s : State) (a : FieldAddr) (f : FieldSt) : State :=
  { s with fields := put (fun _ => FieldSt.reset) s.fields a.idx f }

/-- TILE_FENCED of a tile (R224). -/
def State.tileFenced (s : State) (a : TileAddr) : Bool :=
  (look (fun _ => 0#2) (s.fieldSt a.fld).fence a.loc).getLsbD 0

/-- ROUTER_FENCED of a tile (R224). -/
def State.routerFenced (s : State) (a : TileAddr) : Bool :=
  (look (fun _ => 0#2) (s.fieldSt a.fld).fence a.loc).getLsbD 1

/-- The spared column of a block (R26): 32 for none. -/
def FieldSt.sparedOf (f : FieldSt) (block : Nat) : Nat := look (fun _ => 32) f.spared block

/-- The physical column of a tile within its field (R26, R28). -/
def State.physCol (s : State) (a : TileAddr) : Nat :=
  let c := a.col.val % 32
  33 * (a.col.val / 32) + (if c < (s.fieldSt a.fld).sparedOf a.block then c else c + 1)

/-- The field's slot, 0 to 55, where one is bound (R29). -/
def State.slotOfField (s : State) (a : FieldAddr) : Option Nat :=
  (List.range 56).find? (fun n => look (fun _ => 0) s.slotOf (56 * a.plane.val + n) == a.field.val + 1)

/-- The field bound to a slot, where one is (R29). -/
def State.fieldOfSlot (s : State) (plane : Fin 2) (slot : Nat) : Option FieldAddr :=
  let v := look (fun _ => 0) s.slotOf (56 * plane.val + slot)
  if h : 0 < v ∧ v ≤ 60 then some ⟨plane, ⟨v - 1, by omega⟩⟩ else none

/-! ### Waymark and cycle of an event -/

/-- The running waymark of the module (R396): that of the open step, 0 between steps. -/
def State.runWm (s : State) : Waymark :=
  if s.getF F.ENG_STEP_OPEN 0 == 1 then BitVec.ofNat 32 (s.getF F.ENG_WM_CUR_WM 0) else 0

/-- The running waymark of the fields of a plane (R394, R396): that of the open step where the plane's Array Engine takes part in
it, else 0. -/
def State.fldWm (s : State) (p : Fin 2) : Waymark :=
  if s.getF F.ENG_WM_OPEN (1 + p.val) == 1 then BitVec.ofNat 32 (s.getF F.ENG_WM_CUR_WM (1 + p.val)) else 0

/-- The page is a field's. -/
def Page.ofField (p : Page) : Bool := [PageType.MESH, .FEP, .ARF, .TSQ, .SPD, .PAS, .MRK, .FPW, .FEN].contains p.typ

/-- The waymark that a page counts under: that of its field, or that of the module. -/
def State.pageWm (s : State) (p : Page) : Waymark :=
  if p.ofField then s.fldWm (if p.inst < 64 then 0 else 1) else s.runWm

/-- The field-local cycle count of a field (R9). -/
def State.cycleOf (s : State) (a : FieldAddr) : W64 := (s.fieldSt a).cyc

/-- The lowest-indexed field of a plane that is not lost. -/
def State.lowField (s : State) (p : Fin 2) : FieldAddr :=
  match (List.finRange 60).find? (fun f => !(s.fieldSt ⟨p, f⟩).lost) with
  | some f => ⟨p, f⟩
  | none => ⟨p, 0⟩

/-- The cycle count that plane and module events take. -/
def State.planeCycle (s : State) (p : Fin 2) : W64 := s.cycleOf (s.lowField p)

/-! ### Interrupts (R530) -/

/-- Something sent to the host, or held while DMA is held or the function is in D3hot (R515, R521). -/
def State.hostSend (s : State) (o : HostOut) : State :=
  if s.getF F.HIF_DMA_CTL_HELD 0 == 1 || s.d3hot then { s with hostHeld := s.hostHeld ++ [o] }
  else { s with hostOut := s.hostOut ++ [o] }

def State.msixEntry (s : State) (v : Nat) : MsixEntry := look (fun _ => MsixEntry.reset) s.msix v

def State.setMsix (s : State) (v : Nat) (e : MsixEntry) : State :=
  { s with msix := put (fun _ => MsixEntry.reset) s.msix v e }

/-- An MSI-X message: a masked vector sets its pending bit instead (R530). -/
def State.msixSend (s : State) (vector : Nat) : State :=
  let e := s.msixEntry vector
  if e.masked then s.setMsix vector { e with pending := true } else s.hostSend (.msix vector)

/-- P of R530: IRQ_STATUS AND IRQ_ENABLE is nonzero. -/
def State.irqP (s : State) (p : Page) : Bool := s.reg p 0x038 &&& s.reg p 0x040 != 0

/-- One interrupt to each target that HCTL enables (R530). -/
def State.sendIrq (s : State) (p : Page) : State :=
  let h := s.reg p 0x018
  let s := if h.getLsbD 11 then s.msixSend (wbits h 10 0) else s
  if h.getLsbD 12 then { s with fwIrq := s.fwIrq ++ [regKey p 0] } else s

/-- An event sets a bit of IRQ_STATUS; the page interrupts when P rises (R530). -/
def State.setIrq (s : State) (typ : PageType) (inst bit : Nat) : State :=
  let p : Page := ⟨typ, inst⟩
  let s' := s.raiseBits p 0x038 (BitVec.ofNat 64 (2 ^ bit))
  if !s.irqP p && s'.irqP p then s'.sendIrq p else s'

/-- An event sets a bit of ERR_STATUS. -/
def State.setErr (s : State) (typ : PageType) (inst bit : Nat) : State := s.raiseBits ⟨typ, inst⟩ 0x028 (BitVec.ofNat 64 (2 ^ bit))

/-! ### Counters (R84, R59, R400) -/

/-- Whether a counter has 64 bits, and its shadow's offset. -/
def ctrSpec (c : Ctr) : CtrSpec :=
  match c.typ.ctrs.find? (fun x => x.off == c.off) with
  | some x => x
  | none => ctr c.off c.off

/-- Saturation of a counter (R84: 2^48 - 1; R273, R591: 2^64 - 1). -/
def ctrMax (wide : Bool) : Nat := if wide then 2 ^ 64 - 1 else 2 ^ 48 - 1

/-- A counter's value. -/
def State.getC (s : State) (c : Ctr) (inst : Nat) : Nat := (s.reg ⟨c.typ, inst⟩ c.off).toNat

/-- n added to a counter under the running waymark, saturating. -/
def State.count (s : State) (c : Ctr) (inst n : Nat) : State :=
  s.setReg ⟨c.typ, inst⟩ c.off (BitVec.ofNat 64 (min (ctrMax (ctrSpec c).wide) (s.getC c inst + n)))

/-- The milepost of a waymark has been latched (R394, R395): it has been closed, or a step has begun after it. -/
def State.latched (s : State) (w : Waymark) : Bool :=
  decide (1 ≤ w.toNat ∧ w.toNat ≤ s.getF F.ENG_STEP_LAST_LAST_CLOSED 0) ||
    (s.getF F.ENG_STEP_OPEN 0 == 1 && decide (w.toNat < s.getF F.ENG_STEP_FIRST_WM 0))

/-- The open step has still to enter a waymark. -/
def State.comes (s : State) (w : Waymark) : Bool :=
  s.getF F.ENG_STEP_OPEN 0 == 1 && decide (s.runWm.toNat < w.toNat ∧ w.toNat ≤ s.getF F.ENG_STEP_LAST_LAST_WM 0)

/-- A late count: it joins the shadow of the waymark latched last, and is dropped when a later one has been latched; LATE is set
either way (R59, R398, R400). -/
def State.countLate (s : State) (c : Ctr) (inst n : Nat) (w : Waymark) : State :=
  let p : Page := ⟨c.typ, inst⟩
  let shadow := (ctrSpec c).shadow
  let s := s.raiseBits p 0x048 4
  if wbits (s.reg p 0x050) 63 36 != 0 && wbits (s.reg p 0x050) 31 0 == w.toNat then
    s.setReg p shadow (BitVec.ofNat 64 (min (ctrMax (ctrSpec c).wide) ((s.reg p shadow).toNat + n)))
  else s

/-- n added under the waymark that the event carries (R59, R366, R397, R399, R400): to the counter when it is the running one or has
never been latched, late when it has been latched, and held while a unit of the module or of a plane is still before it. -/
def State.countWm (s : State) (c : Ctr) (inst n : Nat) (w : Waymark) : State :=
  if w == s.pageWm ⟨c.typ, inst⟩ then s.count c inst n
  else if s.comes w then
    (if Page.ofField ⟨c.typ, inst⟩ then s.count c inst n else { s with ahead := s.ahead ++ [{ ctr := c, inst := inst, n := n, wm := w }] })
  else if s.latched w then s.countLate c inst n w
  else s.count c inst n

/-- The counts held for a waymark that has opened are added, each to a counter of its page (R366). -/
def State.addAhead (s : State) : State :=
  (s.ahead.filter (fun (e : AheadCount) => e.ctr.typ.ctrs.any (fun x => x.off == e.ctr.off))).foldl (fun s (e : AheadCount) => s.countWm e.ctr e.inst e.n e.wm) { s with ahead := [] }

/-- A latch of one page (R398): counters into shadows, counters restarted, MILEPOST_SEQ updated. -/
def State.latchPage (s : State) (p : Page) (w : Waymark) (attempt : Nat) : State :=
  let frozen := (s.reg p 0x048).getLsbD 0
  let s := p.typ.ctrs.foldl (fun s c =>
    let s := if frozen then s else s.setReg p c.shadow (s.reg p c.off)
    s.setReg p c.off 0) s
  let s := s.setReg p 0x048 (setBits (s.reg p 0x048) 2 2 0)
  if frozen then s.raiseBits p 0x048 2
  else
    let n := wbits (s.reg p 0x050) 63 36
    s.setReg p 0x050 (setBits (setBits (BitVec.ofNat 64 w.toNat) 35 32 attempt) 63 36 (min (2 ^ 28 - 1) (n + 1)))

/-! ### Captures -/

/-- The registers of a capture are written, and the page's IRQ bit is set. -/
def State.capture (s : State) (valid : Fld) (inst : Nat) (irq : Option Nat) (vals : List (Nat × W64)) : State :=
  let s := (vals.foldl (fun s v => s.setReg ⟨valid.typ, inst⟩ v.1 v.2) s).rose ⟨valid.typ, inst⟩ valid.off valid.bits
  match irq with
  | some b => s.setIrq valid.typ inst b
  | none => s

/-- A first-event capture: registers are written only while VALID is 0. -/
def State.captureFirst (s : State) (valid : Fld) (inst : Nat) (irq : Option Nat) (vals : List (Nat × W64)) : State :=
  if s.getF valid inst == 1 then s else s.capture valid inst irq vals

/-- The place of a captured word in the order of R83: its logical row, 7 bits at `lo`, then its logical column, 7 bits above. -/
def capturePlace (lo : Nat) (w : W64) : Nat := 128 * wbits w (lo + 6) lo + wbits w (lo + 13) (lo + 7)

/-- The first-event capture of a tile or router: of two events of one FIELD cycle it takes the one with the lower logical row, and
then the one with the lower logical column (R83, R150, R204, R205, R270, R271). -/
def State.captureTile (s : State) (valid : Fld) (inst : Nat) (irq : Option Nat) (lo : Nat) (word : W64) (vals : List (Nat × W64)) :
    State :=
  let p : Page := ⟨valid.typ, inst⟩
  if s.getF valid inst == 1 && !((look (fun _ => 0) s.risen (regKey p valid.off) &&& valid.bits != 0) &&
      decide (capturePlace lo word < capturePlace lo (s.reg p valid.off))) then s
  else s.capture valid inst irq ((valid.off, word) :: vals)

/-! ### Error records (R594 to R598) -/

/-- The setpoint in mV that VCODE holds (R587: 550 + 5 × VCODE). -/
def State.railMv (s : State) (a : FieldAddr) : Nat :=
  if (s.fieldSt a).lost then 0 else 550 + 5 * s.getF F.FPW_VOLT_VCODE a.inst

/-- The waymark is supply-suspect (R542, R595). -/
def State.suspect (s : State) (a : FieldAddr) (w : Waymark) : Bool :=
  s.getF F.FPW_SUSPECT_PENDING a.inst == 1 && s.getF F.FPW_SUSPECT_WAYMARK a.inst == w.toNat

/-- Who raised a record. -/
inductive Where where
  | module
  | plane (p : Fin 2)
  | field (a : FieldAddr)
  | block (a : FieldAddr) (b : Nat)
  | tile (a : TileAddr) (task : Nat)
  deriving DecidableEq, Repr

/-- An error record built at detection (R595). -/
def State.errRec (s : State) (code sev : Nat) (hw : Bool) (w : Waymark) (inst : Nat) (at' : Where)
    (opCode opKind : Nat) (detail : List W64) : ErrRec :=
  let fa : Option FieldAddr := match at' with
    | .field a => some a
    | .block a _ => some a
    | .tile a _ => some a.fld
    | .module | .plane _ => none
  let blk : Option Nat := match at' with
    | .block _ b => some b
    | .tile a _ => some a.block
    | .module | .plane _ | .field _ => none
  { code := code, sev := sev, hardware := hw
    suspect := match fa with | some a => s.suspect a w | none => false
    attempt := s.getF F.ENG_STEP_ATTEMPT 0
    waymark := w, inst := inst
    plane := match at' with
      | .module => 0xFF
      | .plane p => p.val
      | .field a => a.plane.val
      | .block a _ => a.plane.val
      | .tile a _ => a.fld.plane.val
    field := match fa with | some a => a.field.val | none => 0xFF
    slot := match fa with
      | some a => (match s.slotOfField a with | some n => n | none => 0xFF)
      | none => 0xFF
    unit := (match blk with | some b => b | none => 0xF) + (match at' with
      | .tile _ t => 16 * (t % 4) + 64
      | .module | .plane _ | .field _ | .block _ _ => 0)
    lrow := match at' with | .tile a _ => a.row.val | .module | .plane _ | .field _ | .block _ _ => 0
    lcol := match at' with | .tile a _ => a.col.val | .module | .plane _ | .field _ | .block _ _ => 0
    pcol := match at' with | .tile a _ => s.physCol a | .module | .plane _ | .field _ | .block _ _ => 0
    temp := match fa, blk with
      | some a, some b => s.getF (F.FPW_ISL_TEMP b) a.inst
      | some a, none => s.getF F.FPW_STATE_TEMP a.inst
      | none, _ => 0
    railMv := match fa with | some a => s.railMv a | none => 0
    cycle := match fa with
      | some a => s.cycleOf a
      | none => s.planeCycle 0
    opCode := opCode, opKind := opKind, detail := detail }

/-- A record passed to service firmware (R594). -/
def State.raise (s : State) (r : ErrRec) : State := { s with records := s.records ++ [r] }

/-- A record written once per place, kind and waymark. `key` names the place. -/
def State.raiseOnce (s : State) (key : Nat) (r : ErrRec) : State :=
  if s.recOnce.contains (65536 * key + r.code, r.waymark) then s
  else { s.raise r with recOnce := (65536 * key + r.code, r.waymark) :: s.recOnce }

/-! ### Free values -/

/-- The next free value, n bits wide (assumption 11). -/
def State.freeBits (s : State) (n : Nat) : BitVec n × State :=
  (BitVec.ofNat n (Config.freeValue s.free), { s with free := s.free + 1 })

end Sys2Proof.Machine
end

