-- ==== Sys2Proof/Machine/Defects.lean ====
section
/-!
DEFINITION. Defects found in service: condemnation of tiles and routers, retirement of fields, and the retained defect
list. Spec: 13_faults_and_recovery (R602 to R607, R613, R636).
-/
namespace Sys2Proof.Machine

/-- An entry of the retained list as bytes. -/
def Retained.bytes (r : Retained) : List Byte :=
  leBytes 1 r.kind ++ leBytes 1 r.plane ++ leBytes 1 r.index ++ leBytes 1 r.block ++ leBytes 1 r.row ++ leBytes 1 r.col ++
    leBytes 2 r.code ++ leBytes 4 r.wm.toNat ++ leBytes 4 0

/-- An entry added to the retained list, or lost when the list is full (R603). -/
def State.retain (s : State) (r : Retained) : State :=
  if s.retained.length < 4096 then { s with retained := s.retained ++ [r] }
  else (s.count C.FLT_LIST_LOST 0 1).setIrq .FLT 0 5

/-- The detail of a REBIND record (R613). -/
def rebindDetail (result slot fa fb index : Nat) : List W64 :=
  [BitVec.ofNat 64 (result + slot <<< 8 + fa <<< 16 + fb <<< 24), BitVec.ofNat 64 index]

/-- A field is retired: it takes no slot and no role until module reset (R607). A field bound to a slot is rebound by
REBIND, which writes the REBIND record; a spare field's is written here. `code` is the record code of the event, `block` the
block that failed, where the retirement is a block's. -/
def State.retireField (s : State) (f : FieldAddr) (cause code : Nat) (block : Option Nat) (wm : Waymark) : State :=
  let x := s.fieldSt f
  if x.retired != 0 then s
  else
    let e : Retained := { kind := if block.isSome then 4 else 3, plane := f.plane, index := f.field
                          block := (match block with | some b => b | none => 0xFF), row := 0xFF, col := 0xFF, code := code, wm := wm }
    let s := ((s.setField f { x with retired := cause }).setIrq .FLT 0 1).retain e
    if (s.slotOfField f).isSome then s
    else s.raise (s.errRec 0x2403 3 true wm 0 (.field f) 0 0 (rebindDetail 0 0xFF f.field 0xFF 0))

/-- The slot of a field that is lost or retired waits to be rebound. -/
def State.markRebind (s : State) (f : FieldAddr) : State :=
  match s.slotOfField f with
  | none => s
  | some n =>
    let ps := s.getF F.AEN_PASS_STATE_STATE f.plane
    if 4 ≤ s.getF F.FLT_RECOVERY_STATE 0 then s
    else s.setReg ⟨.FLT, 0⟩ 0x0B8 (BitVec.ofNat 64
      ((if decide (1 ≤ ps ∧ ps ≤ 5) || ps == 7 then 1 else 2) + n <<< 3 + f.plane.val <<< 9 + s.runWm.toNat <<< 32))

/-- The fence of a tile, with one that waits for the field's drain. -/
def FieldSt.fenceOf (x : FieldSt) (loc : Nat) : BitVec 2 := look (fun _ => 0#2) x.fence loc ||| look (fun _ => 0#2) x.pendFence loc

/-- Fences that have waited for the field to be held and drained enter its fence map (R224, R260). -/
def State.applyFences (s : State) (f : FieldAddr) : State :=
  let x := s.fieldSt f
  s.setField f { x with
    fence := x.pendFence.foldl (fun l e => put (fun _ => 0) l e.1 (look (fun _ => 0#2) l e.1 ||| e.2)) x.fence, pendFence := [] }

/-- A tile or router is condemned: fenced, once its field is held and drained, entered in the retained list, its field retired (R260,
R606, R607). -/
def State.condemn (s : State) (a : TileAddr) (router : Bool) (code : Nat) (wm : Waymark) : State :=
  let x := s.fieldSt a.fld
  let fence := x.fenceOf a.loc
  let new : BitVec 2 := fence ||| (if router then 3 else 1)
  if new = fence then s
  else
    let e : Retained := { kind := if router then 2 else 1, plane := a.fld.plane, index := a.fld.field, block := a.block
                          row := a.row, col := a.col, code := code, wm := wm }
    let s := s.setField a.fld { x with pendFence := put (fun _ => 0) x.pendFence a.loc new, ownFenced := x.ownFenced + 1 }
    let s := if s.getF F.MESH_DRAIN_STATE_HELD a.fld.inst == 1 && s.getF F.MESH_DRAIN_STATE_DRAINED a.fld.inst == 1
      then s.applyFences a.fld else s
    let s := (s.retain e).count C.FLT_CONDEMNED 0 1
    let s := s.raise (s.errRec 0x2402 3 true wm 0 (.tile a 0) 0 0
      [BitVec.ofNat 64 (leNat (e.bytes.take 8)), BitVec.ofNat 64 (leNat (e.bytes.drop 8))])
    (s.retireField a.fld 6 code none wm).markRebind a.fld

end Sys2Proof.Machine
end

