-- ==== Sys2Proof/Machine/Scratch.lean ====
section
/-!
DEFINITION. The near and deep banks: bytes and check codes, windows, segments, the gather buffer, reads and writes, and
the delivery of fault tokens. Spec: 04_scratchpad (R153 to R208), 03 (R142, R143, R149).
-/
namespace Sys2Proof.Machine

/-! ### Task status and faults -/

def TaskState.code : TaskState → Nat
  | .idle => 0 | .loaded => 1 | .running => 2 | .done => 3 | .drained => 4 | .faulted => 5 | .saved => 6

def TaskState.ofCode : Nat → TaskState
  | 1 => .loaded | 2 => .running | 3 => .done | 4 => .drained | 5 => .faulted | 6 => .saved | _ => .idle

/-- The task status (R149). -/
def TaskCtx.status (t : TaskCtx) (epoch : BitVec 2) : W64 :=
  BitVec.ofNat 64 (t.state.code + epoch.toNat <<< 3 + t.faultCode.toNat <<< 5 + t.faultSlot.toNat <<< 13 +
    t.flags.toNat <<< 20 + t.workUnits.toNat <<< 32)

def Tile.task (t : Tile) (i : Nat) : TaskCtx := look (fun _ => TaskCtx.reset) t.tasks i

def Tile.setTask (t : Tile) (i : Nat) (c : TaskCtx) : Tile :=
  { t with tasks := put (fun _ => TaskCtx.reset) t.tasks i c }

/-- A cause reported to the Array Engine of the plane (R301): it belongs to the pass only while the pass is in LOADING
to EXITING and the field takes part in it (R305). -/
def State.reportCause (s : State) (a : FieldAddr) (cause : Nat) (hw : Bool) (row col task : Nat) : State :=
  let st := s.getF F.AEN_PASS_STATE_STATE a.plane.val
  if 1 ≤ st ∧ st ≤ 5 ∧ s.getF F.PAS_RUN_IN_PASS a.inst = 1 then
    { s with causes := s.causes ++ [{ plane := a.plane, cause := cause, hardware := hw
                                      slot := (s.slotOfField a).getD 0, row := row, col := col, task := task, named := true
                                      cyc := s.cycleOf a, age := 0 }] }
  else s

/-- Fault codes (R142). -/
def faultNearBound : Nat := 1
def faultDeepBound : Nat := 2
def faultDeepUncorr : Nat := 3
def faultSegOff : Nat := 4
def faultFmt : Nat := 5
def faultSteer : Nat := 6
def faultAlign : Nat := 7

/-- A fault token delivered to a task (R142, R143): counted; a RUNNING or DONE task enters FAULTED and records the code
and the slot, with one error record and the report to the Array Engine. -/
def State.faultTask (s : State) (a : TileAddr) (task code slot op : Nat) : State :=
  let s := s.count C.TSQ_FAULTED_TASKS a.fld.inst 1
  let s := if code == faultNearBound || code == faultDeepBound then s.count C.SPD_BOUND_FAULTS a.fld.inst 1
    else if code == faultSegOff then s.count C.SPD_SEG_OFF_FAULTS a.fld.inst 1
    else s
  let tl := s.tile a
  let c := tl.task task
  if c.state = .running ∨ c.state = .done then
    let c := { c with state := .faulted, faultCode := BitVec.ofNat 8 code, faultSlot := BitVec.ofNat 7 slot }
    let s := s.setTile a (tl.setTask task c)
    let s := s.setIrq .TSQ a.fld.inst 1
    let hw := code == faultDeepUncorr
    let sel : W64 := BitVec.ofNat 64 (a.row.val + a.col.val <<< 7 + task <<< 14)
    let s := s.raise (s.errRec 0x1B02 2 hw (s.fldWm a.fld.plane) a.fld.inst (.tile a task) op 1 [sel, c.status tl.epoch])
    s.reportCause a.fld (if hw then 2 else 1) hw a.row.val a.col.val task
  else s

/-! ### Bytes, words and check codes -/

/-- Bank sizes in bytes (R154). -/
def bankBytes (deep : Bool) : Nat := if deep then 0x30000 else 0x8000

/-- What a byte reads as while nothing has written it: power-on, field reset and waking clear every row to zero (R180). -/
def bankDefault : Nat → Byte := fun _ => 0

def Tile.byte (t : Tile) (deep : Bool) (off : Nat) : Byte := look bankDefault (if deep then t.deep else t.near) off

def Tile.setByte (t : Tile) (deep : Bool) (off : Nat) (b : Byte) : Tile :=
  if deep then { t with deep := put bankDefault t.deep off b } else { t with near := put bankDefault t.near off b }

/-- Bytes stored from an offset upward. -/
def Tile.setBytes (t : Tile) (deep : Bool) (off : Nat) : List Byte → Tile
  | [] => t
  | b :: r => Tile.setBytes (t.setByte deep off b) deep (off + 1) r

def Tile.bytes (t : Tile) (deep : Bool) (off n : Nat) : List Byte := (List.range n).map (fun i => t.byte deep (off + i))

/-- The key of a 64-bit word's check code. -/
def wordKey (deep : Bool) (off : Nat) : Nat := (if deep then 4096 else 0) + off / 8

def Tile.mark (t : Tile) (deep : Bool) (off : Nat) : EccMark := look (fun _ => .good) t.ecc (wordKey deep off)

def Tile.setMark (t : Tile) (deep : Bool) (off : Nat) (m : EccMark) : Tile :=
  { t with ecc := put (fun _ => .good) t.ecc (wordKey deep off) m }

/-- A write of whole 64-bit words: valid check codes, and a pending correction write-back of the rows is cancelled
(R180, R182, R185). -/
def Tile.storeWords (t : Tile) (deep : Bool) (off : Nat) (bs : List Byte) : Tile :=
  let t := t.setBytes deep off bs
  let t := (List.range (bs.length / 8)).foldl (fun t i => t.setMark deep (off + 8 * i) .good) t
  { t with wb := t.wb.filter (fun w => !(w.1 == deep && decide (off / 32 ≤ w.2) &&
      decide (w.2 ≤ (off + bs.length - 1) / 32))) }

/-- Bytes moved at a bank (R577). -/
def State.countBank (s : State) (a : TileAddr) (deep : Bool) (n : Nat) : State :=
  s.count (if deep then C.FEN_DEEP_BYTES else C.FEN_NEAR_BYTES) a.fld.inst n

/-- Uncorrectable-error sources (R205). -/
inductive UeSource where
  | taskRead | gatherRmw | spill | scrub | restore
  deriving DecidableEq, Repr

def UeSource.code : UeSource → Nat
  | .taskRead => 0 | .gatherRmw => 1 | .spill => 2 | .scrub => 3 | .restore => 4

/-- An uncorrectable word met: counted, captured, and one record per waymark per field (R180, R183, R185, R205). -/
def State.noteUe (s : State) (a : TileAddr) (deep : Bool) (off : Nat) (src : UeSource) (task : Nat) : State :=
  let s := s.count C.SPD_UE_WORDS a.fld.inst 1
  let first : W64 := BitVec.ofNat 64 (a.row.val + a.col.val <<< 7 + boolNat deep <<< 14 + (off / 32) <<< 15 +
    (off / 8 % 4) <<< 28 + 1 <<< 31 + (s.fldWm a.fld.plane).toNat <<< 32)
  let from' : W64 := BitVec.ofNat 64 (src.code + (if src = .taskRead ∨ src = .restore then task <<< 3 else 0))
  let s := s.captureTile F.SPD_UE_FIRST_VALID a.fld.inst (some 0) 0 first [(0xC0, from'), (0xC8, s.cycleOf a.fld)]
  s.raiseOnce a.fld.inst (s.errRec 0x1C01 2 true (s.fldWm a.fld.plane) a.fld.inst (.tile a task) src.code 5
    [first, from', s.cycleOf a.fld])

/-! ### One row read (R180) -/

/-- How a read ends: with its data, with a correction on the way, or at the first row whose used bytes hold an
uncorrectable word. -/
inductive ReadEnd where
  | clean | corrected | uncorrectable
  deriving DecidableEq, Repr

/-- A row read from its bank: all four words are decoded, corrected words are counted and the row is queued for
write-back; an uncorrectable word that holds no byte the access uses becomes poison (R180, R182, R185). A merge and a
scrub use no byte: whatever word they meet uncorrectable is poisoned. The row read of a merge counts no access in
CE_ACCESSES, which R182 has of accesses that correction delays (DESIGN CHOICE, assumption 84). -/
def State.decodeRow (s : State) (a : TileAddr) (deep : Bool) (row : Nat) (used : List Nat) (src : UeSource) (task : Nat) :
    State × ReadEnd :=
  let s := s.countBank a deep 32
  (List.range 4).foldl (fun (acc : State × ReadEnd) w =>
    let s := acc.1
    let off := 32 * row + 8 * w
    let t := s.tile a
    match t.mark deep off with
    | .good => acc
    | .correctable =>
      let t := if t.wb.contains (deep, row) then t else { t with wb := t.wb ++ [(deep, row)] }
      ((s.setTile a t).count C.SPD_CE_WORDS a.fld.inst 1, if acc.2 = .uncorrectable then .uncorrectable else .corrected)
    | .uncorr | .poison =>
      if used.any (fun u => u / 8 == off / 8) then (s.noteUe a deep off src task, .uncorrectable)
      else ((s.setTile a (t.setMark deep off .poison)).noteUe a deep off src task, acc.2)) (s, .clean)

/-! ### The gather buffer (R175 to R178) -/

/-- One word of a flush, after the row read that a merge needs: written whole, or merged with what the bank holds; a
word that the row read has poisoned stays so (R178, R185). -/
def flushWord (s : State) (a : TileAddr) (e : GatherEnt) (w : Nat) : State :=
  let mask := wbits e.mask (8 * w + 7) (8 * w)
  let off := 32 * e.row + 8 * w
  let data := leBytes 8 (wbits e.data (64 * w + 63) (64 * w))
  let t := s.tile a
  if mask == 0 || (mask != 0xFF && t.mark e.deep off == .poison) then s
  else
    let merged := (List.range 8).map (fun i => if mask.testBit i then data.getD i 0 else t.byte e.deep (off + i))
    (s.setTile a (t.storeWords e.deep off merged)).countBank a e.deep 8

/-- A flush of one entry, which leaves the buffer; one that merges a partial word reads its row first (R177, R178). -/
def State.flushEntry (s : State) (a : TileAddr) (e : GatherEnt) : State :=
  let t := s.tile a
  let s := s.setTile a { t with gather := t.gather.filter (fun x => !(x == e)) }
  let s := s.count C.SPD_GATHER_FLUSHES a.fld.inst 1
  let partWord := (List.range 4).any (fun w =>
    let m := wbits e.mask (8 * w + 7) (8 * w)
    m != 0 && m != 0xFF)
  let s := if partWord then ((s.count C.SPD_GATHER_RMW a.fld.inst 1).decodeRow a e.deep e.row [] .gatherRmw 0).1 else s
  (List.range 4).foldl (fun s w => flushWord s a e w) s

/-- The forced flush of a row before a read of it or a full-row write to it (R177). -/
def State.flushRow (s : State) (a : TileAddr) (deep : Bool) (row : Nat) : State :=
  match (s.tile a).gather.find? (fun (e : GatherEnt) => e.deep == deep && e.row == row) with
  | some e => s.flushEntry a e
  | none => s

/-- Every entry flushed, in the order in which they were allocated (R177). -/
def State.flushAll (s : State) (a : TileAddr) : State :=
  (s.tile a).gather.foldl (fun s e => s.flushEntry a e) s

/-- Room for a gather entry: with none of the eight free the oldest is flushed (R175). -/
def State.gatherRoom (s : State) (a : TileAddr) : State :=
  match (s.tile a).gather with
  | e :: _ => if 8 ≤ (s.tile a).gather.length then s.flushEntry a e else s
  | [] => s

/-- A narrow write of a few bytes inside one row (R175, R176): merged into the row's entry, or into a free one after the
oldest entry has been flushed where none is free; a complete entry is flushed. -/
def State.narrowWrite (s : State) (a : TileAddr) (deep : Bool) (off : Nat) (bs : List Byte) : State :=
  let row := off / 32
  let lo := off % 32
  let mergeIn (e : GatherEnt) : GatherEnt :=
    { e with data := setBits e.data (8 * (lo + bs.length) - 1) (8 * lo) (leNat bs)
             mask := setBits e.mask (lo + bs.length - 1) lo (2 ^ bs.length - 1) }
  let t := s.tile a
  let s :=
    match t.gather.find? (fun (e : GatherEnt) => e.deep == deep && e.row == row) with
    | some _ => s.setTile a { t with gather := t.gather.map (fun (e : GatherEnt) =>
        if e.deep == deep && e.row == row then mergeIn e else e) }
    | none =>
      let s := s.gatherRoom a
      let t := s.tile a
      s.setTile a { t with gather := t.gather ++ [mergeIn { deep := deep, row := row, data := 0, mask := 0 }] }
  match (s.tile a).gather.find? (fun (e : GatherEnt) => e.deep == deep && e.row == row && e.mask == BitVec.allOnes 32) with
  | some e => s.flushEntry a e
  | none => s

/-- Full-row writes: rows of 32 bytes from a row-aligned offset; each row's gather entry is flushed first (R175, R177). -/
def State.writeRows (s : State) (a : TileAddr) (deep : Bool) (off : Nat) (bs : List Byte) : State :=
  let s := (List.range ((bs.length + 31) / 32)).foldl (fun s i => s.flushRow a deep (off / 32 + i)) s
  (s.setTile a ((s.tile a).storeWords deep off bs)).countBank a deep bs.length

/-! ### Reads (R180 to R185) -/

/-- One row read by an access: its gather entry is flushed first (R177, R180). -/
def State.readRow (s : State) (a : TileAddr) (deep : Bool) (row : Nat) (used : List Nat) (src : UeSource) (task : Nat) :
    State × ReadEnd := (s.flushRow a deep row).decodeRow a deep row used src task

/-- The rows of the bytes used, in the order in which they are first used. -/
def rowsOf (used : List Nat) : List Nat :=
  used.foldl (fun l u => if l.contains (u / 32) then l else l ++ [u / 32]) []

/-- A read access over the bytes used: its rows in turn, up to the first uncorrectable one; a corrected access is
counted once (R181, R182). -/
def State.readBytes (s : State) (a : TileAddr) (deep : Bool) (used : List Nat) (src : UeSource) (task : Nat) :
    State × ReadEnd :=
  let r := (rowsOf used).foldl (fun (acc : State × ReadEnd) row =>
    if acc.2 = .uncorrectable then acc
    else
      let x := acc.1.readRow a deep row (used.filter (fun u => u / 32 == row)) src task
      (x.1, if x.2 = .clean then acc.2 else x.2)) (s, .clean)
  if r.2 = .corrected then
    ((r.1.count C.SPD_CE_ACCESSES a.fld.inst 1).count (C.SPD_CE_BLK a.block) a.fld.inst 1, r.2)
  else r

/-- A tile that fails under R184: an uncorrectable near-bank word met by a task access, an emit, or a save or restore.
It is condemned (R606); the cause NEAR_UNCORR reaches the Array Engine. -/
def State.failTile (s : State) (a : TileAddr) (task : Nat) : State :=
  let s := s.setTile a { s.tile a with failed := true }
  let s := s.reportCause a.fld 3 true a.row.val a.col.val task
  s.condemn a false 0x1C01 (s.fldWm a.fld.plane)

/-! ### Windows and segments -/

/-- NBASE, NLIMIT or DBASE, DLIMIT of a window record (R156). -/
def TaskCtx.base (t : TaskCtx) (deep : Bool) : Nat := if deep then wbits t.win 32 20 else wbits t.win 9 0
def TaskCtx.limit (t : TaskCtx) (deep : Bool) : Nat := if deep then wbits t.win 45 33 else wbits t.win 19 10

/-- An access of n bytes at task address x is inside the window (R157). -/
def TaskCtx.legal (t : TaskCtx) (deep : Bool) (x n : Nat) : Bool := decide (x + n ≤ 32 * t.limit deep)

/-- The bank offset of a task address (R157). -/
def TaskCtx.bankOff (t : TaskCtx) (deep : Bool) (x : Nat) : Nat := 32 * t.base deep + x

/-- The bound fault of a bank (R157). -/
def boundFault (deep : Bool) : Nat := if deep then faultDeepBound else faultNearBound

/-- A scale window (R161). -/
def TaskCtx.scaleWin (t : TaskCtx) (second : Bool) : W64 :=
  if second then BitVec.ofNat 64 (wbits t.win 191 128) else BitVec.ofNat 64 (wbits t.win 127 64)

def Tile.seg (t : Tile) (i : Nat) : Segment := look (fun _ => Segment.reset) t.segs i

def Tile.setSeg (t : Tile) (i : Nat) (g : Segment) : Tile :=
  { t with segs := put (fun _ => Segment.reset) t.segs i g }

/-- The deep segment of a bank offset (R155). -/
def segOf (off : Nat) : Nat := off / 0x6000

/-- What the segments say of a task access (R189): it may go on, it waits for a waking, or it meets an OFF segment. -/
inductive SegCheck where
  | go | wait | off
  deriving DecidableEq, Repr

/-- The segments of the bytes used by a task access; a write to a CLOSING segment counts as one to an OFF segment. -/
def Tile.segCheck (t : Tile) (deep write : Bool) (used : List Nat) : SegCheck :=
  if !deep then .go
  else if used.any (fun u => (t.seg (segOf u)).state = .off || (write && (t.seg (segOf u)).state = .closing)) then .off
  else if used.any (fun u => (t.seg (segOf u)).state = .waking) then .wait
  else .go

end Sys2Proof.Machine
end

