-- ==== Sys2Proof/Machine/Flags.lean ====
section
/-!
DEFINITION. What a result does to the flags: task status bits, ARF.FLAGS, the ARF counters, the window capture, the
window and NaN records and the ARF interrupts. Spec: 02_arithmetic_and_rounding (R57 to R59, R69, R81 to R85), 03 (R149).
-/
namespace Sys2Proof.Machine

/-- The flag bits of one result, in the order of ARF.FLAGS [7:0] and of task status [27:20]: WIN_LO, WIN_HI, WIN_RANGE,
NAN_IN, NAN_GEN, INF_OUT, OUT_SAT, SCALE_NAN. -/
def flagByte (lo hi range : Bool) (f : RFlags) : BitVec 8 :=
  BitVec.ofNat 8 (boolNat lo + 2 * boolNat hi + 4 * boolNat range + 8 * boolNat f.nanIn + 16 * boolNat f.nanGen +
    32 * boolNat f.infOut + 64 * boolNat f.outSat + 128 * boolNat f.scaleNan)

/-- Flags raised in ARF.FLAGS, with the interrupts of R85. -/
def State.arfFlags (s : State) (a : FieldAddr) (b : BitVec 8) : State :=
  let old := s.reg ⟨.ARF, a.inst⟩ 0x088
  let new := old ||| b.setWidth 64
  let s := s.raiseBits ⟨.ARF, a.inst⟩ 0x088 (b.setWidth 64)
  let rose (m : W64) : Bool := new &&& ~~~old &&& m != 0
  let s := if rose 0x07 then s.setIrq .ARF a.inst 0 else s
  if rose 0x18 then s.setIrq .ARF a.inst 1 else s

/-- Flags raised in the status of a task (R58, R69). -/
def State.taskFlags (s : State) (a : TileAddr) (task : Nat) (b : BitVec 8) : State :=
  let t := s.tile a
  let c := t.task task
  s.setTile a (t.setTask task { c with flags := c.flags ||| b })

/-- One result rounded or converted for a task: status, flags, counters, capture and records (R58, R59, R69, R81, R84).
`w` is the waymark that the result carries. -/
def State.noteResult (s : State) (a : TileAddr) (task : Nat) (w : Waymark) (lo hi range : Bool) (f : RFlags)
    (sr fast : Bool) : State :=
  let b := flagByte lo hi range f
  let i := a.fld.inst
  let win := lo || hi || range
  let nan := f.nanIn || f.nanGen
  let place := a.row.val + a.col.val <<< 7 + task <<< 14 + 1 <<< 31 + w.toNat <<< 32
  let first : W64 := BitVec.ofNat 64 (place + boolNat lo <<< 16 + boolNat hi <<< 17 + boolNat range <<< 18)
  let s := s.taskFlags a task b
  let s := s.arfFlags a.fld b
  let s :=
    if win then
      let s := s.countWm C.ARF_WIN_RESULTS i 1 w
      let s := s.captureTile F.ARF_WIN_FIRST_VALID i none 0 first [(0x098, s.cycleOf a.fld)]
      if s.getF F.ARF_CTL_WIN_ACTION i == 1 then
        s.raiseOnce i (s.errRec 0x1A01 1 true w i (.tile a task) 0 0 [first, s.cycleOf a.fld])
      else s
    else s
  let s :=
    if nan then
      let s := s.countWm C.ARF_NAN_RESULTS i 1 w
      if s.getF F.ARF_CTL_NAN_RECORD i == 1 then
        s.raiseOnce i (s.errRec 0x1A02 1 true w i (.tile a task) 0 0 [BitVec.ofNat 64 place])
      else s
    else s
  let s := if f.infOut then s.countWm C.ARF_INF_RESULTS i 1 w else s
  let s := if f.outSat then s.countWm C.ARF_SAT_RESULTS i 1 w else s
  let s := if sr then s.countWm C.ARF_SR_RESULTS i 1 w else s
  if fast then s.countWm C.ARF_FAST_RESULTS i 1 w else s

end Sys2Proof.Machine
end

