-- ==== Sys2Proof/Machine/CheckTap.lean ====
section
/-!
DEFINITION. The check tap of a tile: which work units sampled repetition selects, what is captured, and when a capture
is skipped or dropped. Spec: 13_faults_and_recovery (R618, R619).
-/
namespace Sys2Proof.Machine

/-- The selection of a work unit (R618). -/
def unitSelected (w : Waymark) (u p f r c t b l : Nat) : Bool :=
  let k : W64 := BitVec.ofNat 64 (w.toNat <<< 32 ||| u)
  let id := p <<< 26 ||| f <<< 20 ||| r <<< 13 ||| c <<< 6 ||| t <<< 2 ||| b
  let z := k + (BitVec.ofNat 64 id + 1) * 0x9E3779B97F4A7C15#64
  let z := (z ^^^ (z >>> 30)) * 0xBF58476D1CE4E5B9#64
  let z := (z ^^^ (z >>> 27)) * 0x94D049BB133111EB#64
  let z := z ^^^ (z >>> 31)
  z >>> (64 - l) == 0

/-- L of R618: SUSPECT_LOG2 in a field whose running waymark is supply-suspect, else RATE_LOG2. -/
def State.checkRate (s : State) (a : FieldAddr) : Nat :=
  if s.getF F.FPW_SUSPECT_WAYMARK a.inst == (s.fldWm a.plane).toNat && (s.fldWm a.plane) != 0 then s.getF F.FLT_CHECK_CTL_SUSPECT_LOG2 0
  else s.getF F.FLT_CHECK_CTL_RATE_LOG2 0

def Tile.cap (t : Tile) (b : Nat) : Capture := look (fun _ => Capture.reset) t.caps b

def Tile.setCap (t : Tile) (b : Nat) (c : Capture) : Tile := { t with caps := put (fun _ => Capture.reset) t.caps b c }

/-- An MMA into a bank as the tap sees it: the first one of a unit opens the tap where the unit is selected; each one is
copied; above MAX_MMA the unit is skipped (R618, R619). -/
def State.tapMma (s : State) (a : TileAddr) (task b : Nat) (x y : DataTok) (hi : Bool) : State :=
  let t := s.tile a
  let first := !t.openUnit.getLsbD b
  let u := (t.task task).workUnits.toNat
  let sel := s.getF F.FLT_CHECK_CTL_EN 0 == 1 &&
    unitSelected (s.fldWm a.fld.plane) u a.fld.plane.val a.fld.field.val a.row.val a.col.val task b (s.checkRate a.fld)
  let c : Capture := if first then { selected := sel, index := u, mmas := 0, ops := [] } else t.cap b
  let s := if first && sel then s.count C.FLT_CHECKS_SELECTED 0 1 else s
  if !c.selected then s.setTile a ((s.tile a).setCap b Capture.reset)
  else if s.getF F.FLT_CHECK_CTL_MAX_MMA 0 ≤ c.mmas then
    (s.setTile a ((s.tile a).setCap b Capture.reset)).count C.FLT_CHECKS_SKIPPED 0 1
  else s.setTile a ((s.tile a).setCap b { c with mmas := c.mmas + 1, ops := c.ops ++ [(x, y, hi)] })

/-- The EMIT of a selected unit: the bank joins the capture, which goes to the check store of the plane (R619). -/
def State.tapEmit (s : State) (a : TileAddr) (task b : Nat) (vals : List ExactVal) : State :=
  let c := (s.tile a).cap b
  let s := s.setTile a ((s.tile a).setCap b Capture.reset)
  if c.selected then
    { s with checks := s.checks ++ [{ tile := a, task := task, bank := b, wm := s.fldWm a.fld.plane
                                      attempt := s.getF F.ENG_STEP_ATTEMPT 0, u := c.index, ops := c.ops
                                      orig := vals, shadow := none, again := none, referee := none }] }
  else s

/-- A unit abandoned by ACLR or an abort drain: its capture is dropped (R619). -/
def State.tapDrop (s : State) (a : TileAddr) (b : Nat) : State :=
  let c := (s.tile a).cap b
  let s := s.setTile a ((s.tile a).setCap b Capture.reset)
  if c.selected then s.count C.FLT_CHECKS_DROPPED 0 1 else s

end Sys2Proof.Machine
end

