-- ==== Sys2Proof/Machine/Operands.lean ====
section
/-!
DEFINITION. The triggered-instruction sequencer: trigger and action fields, queues and destination codes, counters,
readiness, and what firing an instruction does beside its own effect. Spec: 03_molcel_tile (R90 to R94, R97, R98,
R107 to R116), 06 (R296).
-/
namespace Sys2Proof.Machine

/-! ### The instruction slot (R108, R109) -/

/-- A slot of the instruction store: trigger word [63:0], action word [127:64]. -/
abbrev SlotWord := BitVec 128

def SlotWord.qa (w : SlotWord) : Nat := wbits w 3 0
def SlotWord.qb (w : SlotWord) : Nat := wbits w 7 4
def SlotWord.kind (w : SlotWord) : Nat := wbits w 11 8
def SlotWord.pmask (w : SlotWord) : Nat := wbits w 19 12
def SlotWord.pval (w : SlotWord) : Nat := wbits w 27 20
def SlotWord.csel (w : SlotWord) : Nat := wbits w 30 28
def SlotWord.ccond (w : SlotWord) : Nat := wbits w 32 31
def SlotWord.valid (w : SlotWord) : Bool := wbits w 33 33 == 1
def SlotWord.opc (w : SlotWord) : Nat := wbits w 69 64
def SlotWord.dst (w : SlotWord) : Nat := wbits w 75 70
def SlotWord.src1 (w : SlotWord) : Nat := wbits w 81 76
def SlotWord.src2 (w : SlotWord) : Nat := wbits w 87 82
def SlotWord.deqa (w : SlotWord) : Bool := wbits w 88 88 == 1
def SlotWord.deqb (w : SlotWord) : Bool := wbits w 89 89 == 1
def SlotWord.pidx (w : SlotWord) : Nat := wbits w 92 90
def SlotWord.pop (w : SlotWord) : Nat := wbits w 94 93
def SlotWord.cidx (w : SlotWord) : Nat := wbits w 97 95
def SlotWord.cop (w : SlotWord) : Nat := wbits w 99 98
/-- The 20-bit immediate. -/
def SlotWord.imm (w : SlotWord) : Nat := wbits w 119 100
/-- A field of the immediate. -/
def SlotWord.immF (w : SlotWord) (hi lo : Nat) : Nat := natBits hi lo w.imm
/-- The immediate sign-extended to 32 bits. -/
def SlotWord.simm (w : SlotWord) : W32 := BitVec.ofInt 32 (natSigned 20 w.imm)

def Tile.slotWord (t : Tile) (slot : Nat) : SlotWord := look (fun _ => 0) t.istore slot

/-! ### Registers, predicates, counters -/

def TaskCtx.reg (c : TaskCtx) (n : Nat) : W32 := look (fun _ => 0) c.g n

def TaskCtx.setReg (c : TaskCtx) (n : Nat) (v : W32) : TaskCtx := { c with g := put (fun _ => 0) c.g n v }

/-- Lane l of vector n (R131). -/
def TaskCtx.lane (c : TaskCtx) (n l : Nat) : W32 := c.reg (16 * n + l)

/-- A vector written, lane by lane. -/
def TaskCtx.setVec (c : TaskCtx) (n : Nat) (v : Nat → W32) : TaskCtx :=
  (List.range 16).foldl (fun c l => c.setReg (16 * n + l) (v l)) c

def TaskCtx.ctr (c : TaskCtx) (n : Nat) : BitVec 24 := look (fun _ => 0) c.cval n

def TaskCtx.cfg (c : TaskCtx) (n : Nat) : CtrCfg := look (fun _ => CtrCfg.reset) c.ccfg n

/-- A result configuration (R125). -/
def TaskCtx.rc (c : TaskCtx) (second : Bool) : BitVec 128 := if second then c.rc1 else c.rc0

/-! ### Queues (R91, R92, R94) -/

def dqDepth : Nat := 8
def cqDepth : Nat := 16
def oqDepth : Nat := 4

def Tile.dqOf (t : Tile) (n : Nat) : List DataTok := look (fun _ => []) t.dq n
def Tile.cqOf (t : Tile) (n : Nat) : List CtlTok := look (fun _ => []) t.cq n
def Tile.oqOf (t : Tile) (n : Nat) : List OTok := look (fun _ => []) t.oq n

def Tile.setDq (t : Tile) (n : Nat) (q : List DataTok) : Tile := { t with dq := put (fun _ => []) t.dq n q }
def Tile.setCq (t : Tile) (n : Nat) (q : List CtlTok) : Tile := { t with cq := put (fun _ => []) t.cq n q }
def Tile.setOq (t : Tile) (n : Nat) (q : List OTok) : Tile := { t with oq := put (fun _ => []) t.oq n q }

/-- An unbound DQ or OQ binding, and a CQ binding of local producers only (R91: source or sink 0xF). -/
def unboundQ : Nat → BitVec 16 := fun _ => 0x3C
def unboundCq : Nat → BitVec 8 := fun _ => 0x3C

def Tile.dqBind (t : Tile) (n : Nat) : BitVec 16 := look unboundQ t.dqb n
def Tile.cqBind (t : Tile) (n : Nat) : BitVec 8 := look unboundCq t.cqb n
def Tile.oqBind (t : Tile) (n : Nat) : BitVec 16 := look unboundQ t.oqb n

/-- OWNER, and SOURCE or SINK, of a binding (R282). -/
def bindOwner {n : Nat} (b : BitVec n) : Nat := wbits b 1 0
def bindEnd {n : Nat} (b : BitVec n) : Nat := wbits b 5 2

/-- The item count of the RATES (R282, R296): DQ n is n, CQ n is 8 + n, OQ n is 12 + n, MMAs of task t are 20 + t. -/
def Tile.bump (t : Tile) (item : Nat) : Tile :=
  let n := look (fun _ => 0#32) t.counts item
  { t with counts := put (fun _ => 0) t.counts item (if n = BitVec.allOnes 32 then n else n + 1) }

/-- The CQ that a landing notifies, where it names one (R129). -/
def landingCq (l : BitVec 256) : Option Nat :=
  let d := wbits l 134 131
  if 8 ≤ d ∧ d < 12 then some (d - 8) else none

def Tile.landingCfg (t : Tile) (n : Nat) : BitVec 256 := look (fun _ => 0) t.landings n

/-- Tokens that wait at the tile for an entry of a CQ: ARRIVE by landing, BARRIER by channel (R97). -/
def Tile.cqWaiting (t : Tile) (n : Nat) : Nat :=
  ((List.range 16).filter (fun m => t.waitArrive.getLsbD m && landingCq (t.landingCfg m) == some n)).length +
    (t.waitBarrier.filter (fun e => e.2 == n)).length

/-- A CQ has an entry for a new token beyond those that waiting tokens take first (R97). -/
def Tile.cqRoom (t : Tile) (n : Nat) : Bool := decide ((t.cqOf n).length + t.cqWaiting n < cqDepth)

/-- Free entries of a destination (R92). An entry for which a token waits at the tile is not free for another (R97). -/
def Tile.free (t : Tile) (d : Nat) : Nat :=
  if d < 8 then oqDepth - (t.oqOf d).length
  else if d < 12 then cqDepth - ((t.cqOf (d - 8)).length + t.cqWaiting (d - 8))
  else 0

/-- The destination holds a free entry for each of the enqueues (R110, R119); NONE needs none. -/
def Tile.fits (t : Tile) (ds : List Nat) : Bool :=
  ds.all (fun d => d == 0xF || decide ((ds.filter (· == d)).length ≤ t.free d))

/-- A token enqueued at a destination; NONE takes none (R92). -/
def Tile.enqueue (t : Tile) (d : Nat) (x : OTok) : Tile :=
  if d < 8 then (t.setOq d (t.oqOf d ++ [x])).bump (12 + d)
  else if d < 12 then
    match x with
    | .ctl c => t.setCq (d - 8) (t.cqOf (d - 8) ++ [c])
    | .data _ | .sum _ => t
  else t

/-- The head of the queue that a queue code names is dequeued and counted (R296). -/
def Tile.dequeue (t : Tile) (code : Nat) : Tile :=
  if code < 8 then (t.setDq code ((t.dqOf code).drop 1)).bump code
  else if code < 12 then (t.setCq (code - 8) ((t.cqOf (code - 8)).drop 1)).bump code
  else t

/-- A queue code's queue holds a head token (R110). -/
def Tile.hasHead (t : Tile) (code : Nat) : Bool :=
  if code < 8 then !(t.dqOf code).isEmpty else if code < 12 then !(t.cqOf (code - 8)).isEmpty else false

/-- The data token at the head of a queue code's queue. -/
def Tile.headData (t : Tile) (code : Nat) : Option DataTok := if code < 8 then (t.dqOf code).head? else none

def Tile.headCtl (t : Tile) (code : Nat) : Option CtlTok :=
  if 8 ≤ code ∧ code < 12 then (t.cqOf (code - 8)).head? else none

/-! ### Counters (R113, R114) -/

/-- A step of counter n (R114). `fuel` bounds the chain, which ends at c7. -/
def stepCounter (t : Tile) (task : Nat) : Nat → Nat → Tile
  | 0, _ => t
  | fuel + 1, n =>
    let c := t.task task
    let k := c.cfg n
    let v := c.ctr n + 1
    if v = k.limit then
      let c := { c with cval := put (fun _ => 0) c.cval n 0, cdone := c.cdone ||| BitVec.ofNat 8 (2 ^ n) }
      let t := t.setTask task c
      let t := if k.tokmode = 0 then t
        else t.enqueue k.tokq.toNat (.ctl { kind := 1, value := BitVec.ofNat 8 n, epoch := t.epoch })
      if k.chain then stepCounter t task fuel (n + 1) else t
    else
      let c := { c with cval := put (fun _ => 0) c.cval n v, cdone := c.cdone &&& ~~~(BitVec.ofNat 8 (2 ^ n)) }
      let t := t.setTask task c
      if k.tokmode = 2 then
        t.enqueue k.tokq.toNat (.ctl { kind := 0, value := BitVec.ofNat 8 n, epoch := t.epoch })
      else t

/-- A reset of counter n (R114). -/
def resetCounter (t : Tile) (task n : Nat) : Tile :=
  let c := t.task task
  t.setTask task { c with cval := put (fun _ => 0) c.cval n 0, cdone := c.cdone &&& ~~~(BitVec.ofNat 8 (2 ^ n)) }

/-- The queues that a step of counter n, and the steps it chains to, may enqueue into (R110). -/
def counterDests (c : TaskCtx) : Nat → Nat → List Nat
  | 0, _ => []
  | fuel + 1, n =>
    let k := c.cfg n
    (if k.tokmode = 0 then [] else [k.tokq.toNat]) ++ (if k.chain then counterDests c fuel (n + 1) else [])

/-! ### Readiness (R110, R111) -/

/-- The destination codes that the instruction itself may enqueue into (R116). -/
def SlotWord.dests (w : SlotWord) : List Nat :=
  match w.opc with
  | 0x11 => [w.immF 15 12]
  | 0x12 => [w.immF 7 4]
  | 0x13 => [w.immF 3 0]
  | 0x20 => if w.immF 2 2 == 1 then [w.immF 6 3] else []
  | 0x22 => if w.immF 3 3 == 1 then [w.immF 8 5] else []
  | 0x29 | 0x35 => [w.immF 19 16]
  | 0x36 => [w.immF 3 0]
  | _ => []

/-- Every queue that firing may enqueue into. -/
def allDests (c : TaskCtx) (w : SlotWord) : List Nat :=
  w.dests ++ (if w.cop == 1 then counterDests c 8 w.cidx else [])

/-- Elements per token and bytes per element of the scalar formats (R88). -/
def Fmt.perToken : Fmt → Nat
  | .fp32 => 8 | .bf16 | .fp16 => 16
  | .e4m3 | .e5m2 | .mxE4m3 | .mxE5m2 | .mxE3m2 | .mxE2m3 | .mxInt8 => 32
  | .mxE2m1 => 64 | .mask1 => 256 | .exact192 => 1

/-- Block bytes of an MX format in the scratchpad (R162). -/
def blockBytes (fmt : Nat) : Nat := if fmt == 9 then 16 else 32

/-- The task addresses of the payload bytes of token k of an RDQ, in payload order (R166, R167, R169). -/
def rdqToken (c : TaskCtx) (w : SlotWord) (k : Nat) : List Nat :=
  let a := (c.reg w.src1).toNat
  let g2 := (c.reg w.src2).toNat
  let fmt := w.immF 14 11
  match w.immF 1 0 with
  | 0 => (List.range 32).map (fun i => a + 32 * k + i)
  | 1 =>
    let p := natBits 17 0 g2 / 8 * 8
    let z := if fmt == 1 || fmt == 2 then 2 else 1
    -- payload byte i belongs to element i / z, lane (i / z) mod 8, k-step (i / z) / 8 of the half
    (List.range 32).map (fun i =>
      let e := i / z
      a + 8 * (k / 2) + (e % 8) * p + 4 * (k % 2) + (e / 8) * z + i % z)
  | _ =>
    let z := if fmt == 0 then 4 else if fmt == 1 || fmt == 2 then 2 else 1
    let n := 32 / z
    let st := if natBits 11 0 g2 == 0 then 1 else natBits 11 0 g2
    (List.range 32).map (fun i => a + (k * n + i / z) * st * z + i % z)

def isMxCode (fmt : Nat) : Bool := decide (5 ≤ fmt ∧ fmt ≤ 10)

/-- The element addresses whose blocks give the scale bytes of token k, scale byte n from entry n (R166, R168): a
PLAIN token takes scale bytes 0-3 from its first block and 4-7, for MXFP4, from its second; a SWITCHBACK token takes
scale byte n from run n. -/
def rdqScaleAt (c : TaskCtx) (w : SlotWord) (k : Nat) : List Nat :=
  let fmt := w.immF 14 11
  if !isMxCode fmt then []
  else
    let a := (c.reg w.src1).toNat
    match w.immF 1 0 with
    | 1 =>
      let p := natBits 17 0 (c.reg w.src2).toNat / 8 * 8
      (List.range 8).map (fun i => a + 8 * (k / 2) + i * p)
    | _ => if fmt == 9 then [a + 32 * k, a + 32 * k + 16] else [a + 32 * k]

/-- The scale byte of the block of an element byte (R163): its task address, or none where the access breaks the scale
window. -/
def scaleAddr (sw : W64) (fmt x : Nat) : Option Nat :=
  let origin := wbits sw 36 19
  let b := (x - origin) / blockBytes fmt
  if x < origin || wbits sw 50 37 ≤ b then none else some (wbits sw 18 1 + b)

/-- The address of an LDN or STN (R116, R160). -/
def narrowAddr (c : TaskCtx) (w : SlotWord) : Nat :=
  (c.reg w.src1 + BitVec.ofInt 32 (natSigned 19 (w.immF 19 1))).toNat / 4 * 4

/-- Bytes of one matrix result element (R129). -/
def elemSize (outFmt : Nat) : Nat := match outFmt with | 0 => 4 | 1 => 2 | 12 => 32 | _ => 1

/-- The bytes of the banks that a memory access of an instruction uses, as (deep, task address). `fmt` is the format of
the token at the head of QA, which a WRT with scales writes. -/
def accessBytes (c : TaskCtx) (w : SlotWord) (fmt : Nat) : List (Bool × Nat) :=
  let scaled (sw : W64) (fmt : Nat) (xs : List Nat) : List (Bool × Nat) :=
    xs.filterMap (fun x => (scaleAddr sw fmt x).map (fun y => (wbits sw 0 0 == 1, y)))
  match w.opc with
  | 0x18 =>
    let deep := w.immF 2 2 == 1
    let sw := c.scaleWin (w.immF 18 18 == 1)
    (List.range (w.immF 10 3)).flatMap (fun k =>
      scaled sw (w.immF 14 11) (rdqScaleAt c w k) ++ (rdqToken c w k).map (fun x => (deep, x)))
  | 0x19 =>
    let x := (c.reg w.src1).toNat
    (List.range 32).map (fun i => (w.immF 0 0 == 1, x + i)) ++
      (if w.immF 1 1 == 1 then
        scaled (c.scaleWin (w.immF 2 2 == 1)) fmt (if fmt == 9 then [x, x + 16] else [x])
      else [])
  | 0x1A | 0x1B => (List.range 4).map (fun i => (w.immF 0 0 == 1, narrowAddr c w + i))
  | 0x22 =>
    if w.immF 3 3 == 1 then []
    else
      (List.range (64 * elemSize (wbits (c.rc (w.immF 2 2 == 1)) 3 0))).map (fun i =>
        (w.immF 4 4 == 1, (c.reg w.src2).toNat + i))
  | _ => []

/-- An access of the instruction reaches a WAKING segment inside its window, and so waits (R189). That the instruction is
held back from firing, rather than its access at the bank, is the model's choice (DESIGN CHOICE, assumption 84). -/
def Tile.waking (t : Tile) (c : TaskCtx) (w : SlotWord) : Bool :=
  (accessBytes c w ((t.headData w.qa).elim 0 (fun h => h.fmt.toNat))).any (fun x => x.1 && c.legal true x.2 1 && (t.seg (segOf (c.bankOff true x.2))).state == .waking)

/-- An entry of the bank queue is free for an instruction of the MEMORY class (R170). An RDQ names its bank in IMM[2], a
WRT, LDN or STN in IMM[0]. -/
def Tile.readRoom (t : Tile) (w : SlotWord) : Bool :=
  let room (deep : Bool) : Bool := decide ((t.reads.filter (fun (r : ReadJob) => r.deep == deep)).length < 8)
  match w.opc with
  | 0x18 => room (w.immF 2 2 == 1)
  | 0x19 | 0x1A | 0x1B => room (w.immF 0 0 == 1)
  | _ => true

/-- The issue classes (R111, R146). -/
inductive IssueClass where
  | scalar | queue | memory | matrix | vector
  deriving DecidableEq, Repr

def IssueClass.key : IssueClass → Nat
  | .scalar => 0 | .queue => 1 | .memory => 2 | .matrix => 3 | .vector => 4

/-- The issue class of an opcode (R146). -/
def opClass (opc : Nat) : IssueClass :=
  if opc = 0 then .queue
  else if opc < 0x10 then .scalar
  else if opc < 0x18 then .queue
  else if opc < 0x20 then .memory
  else if opc < 0x28 then .matrix
  else if opc < 0x38 then .vector
  else .queue

/-- The trigger of a slot holds, but for the free entries of its destinations (R110). Results of operations already fired are never
awaited: each completes with its firing, but for the tokens of an RDQ, which no source names. -/
def Tile.triggered (t : Tile) (task slot : Nat) : Bool :=
  let w := t.slotWord slot
  let c := t.task task
  w.valid &&
  (w.qa == 0xF || t.hasHead w.qa) && (w.qb == 0xF || t.hasHead w.qb) &&
  (match t.headCtl w.qa with
    | some h => w.kind == 0xF || h.kind.toNat == w.kind
    | none => true) &&
  (c.p.toNat ^^^ w.pval) &&& w.pmask == 0 &&
  (match w.ccond with
    | 1 => c.cdone.getLsbD w.csel
    | 2 => !c.cdone.getLsbD w.csel
    | _ => true) &&
  t.readRoom w && !t.waking c w

/-- The instruction of a slot is ready: its trigger holds, and every queue it enqueues into has room (R110). -/
def Tile.ready (t : Tile) (task slot : Nat) : Bool :=
  t.triggered task slot && t.fits (allDests (t.task task) (t.slotWord slot))

/-- A RUNNING task has an instruction that waits for a free entry of an output queue and nothing else (R299). -/
def Tile.backpressed (t : Tile) : Bool :=
  (List.range 4).any (fun k =>
    let c := t.task k
    c.state == .running && (List.range c.slotCount).any (fun i =>
      let ds := allDests c (t.slotWord (c.slotBase + i))
      t.triggered k (c.slotBase + i) && !t.fits ds && t.fits (ds.filter (fun d => decide (8 ≤ d)))))

/-- The slot that a RUNNING task would fire: its lowest ready one (R111). -/
def Tile.readySlot (t : Tile) (task : Nat) : Option Nat :=
  let c := t.task task
  if c.state == .running then ((List.range c.slotCount).map (fun i => c.slotBase + i)).find? (t.ready task) else none

/-- The task to which an issue class goes: of those whose lowest ready slot is in the class, the one that follows, in the
order 0, 1, 2, 3, 0, the task that last issued in it (R111). Before any task has issued in a class the order starts at
task 0 (DESIGN CHOICE, assumption 86). -/
def Tile.grant (t : Tile) (k : IssueClass) : Option Nat :=
  let last := look (fun _ => 3) t.issued k.key
  ((List.range 4).map (fun i => (last + 1 + i) % 4)).find? (fun m =>
    (t.readySlot m).any (fun n => opClass (t.slotWord n).opc == k))

/-- A field runs: its power stage is closed, no field reset is in progress, and it is AWAKE (R534, R547, R587). -/
def State.fieldRuns (s : State) (f : FieldAddr) : Bool :=
  !(s.fieldSt f).lost && !(s.fieldSt f).resetting && s.getF F.FPW_STATE_POWER f.inst == 0

/-- The clock of the tile's block island stands still (R552). -/
def State.islandStopped (s : State) (a : TileAddr) : Bool := (s.fieldSt a.fld).stopped.getLsbD a.block

/-- A tile runs: its field does, its island is clocked, and it is neither fenced nor failed. -/
def State.tileRuns (s : State) (a : TileAddr) : Bool :=
  s.fieldRuns a.fld && !s.islandStopped a && !s.tileFenced a && !(s.tile a).failed

/-- The instruction of a slot fires: its task is RUNNING and owns the slot, the slot holds the opcode, it is the task's
lowest ready slot, and the issue class goes to the task (R107, R111). -/
def State.canFire (s : State) (a : TileAddr) (task slot opc : Nat) : Bool :=
  let t := s.tile a
  let c := t.task task
  s.tileRuns a && c.state == .running && decide (c.slotBase ≤ slot) && decide (slot < c.slotBase + c.slotCount) &&
  (t.slotWord slot).opc == opc && t.ready task slot &&
  (List.range (slot - c.slotBase)).all (fun i => !t.ready task (c.slotBase + i)) && t.grant (opClass opc) == some task

/-- The predicates after the update of a firing (R112). -/
def predAfter (c : TaskCtx) (w : SlotWord) (cmp : Bool) : BitVec 8 :=
  let bit := BitVec.ofNat 8 (2 ^ w.pidx)
  match w.pop with
  | 0 => c.p
  | 1 => if cmp then c.p ||| bit else c.p &&& ~~~bit
  | 2 => c.p ||| bit
  | _ => c.p &&& ~~~bit

/-- The dequeues of a firing: the head of QA where DEQA is 1, then the head of QB where DEQB is 1 (R109). -/
def Tile.dequeues (t : Tile) (w : SlotWord) : Tile :=
  let t := if w.deqa then t.dequeue w.qa else t
  if w.deqb then t.dequeue w.qb else t

/-- What firing does beside the instruction's own effect (R109, R111, R112): the task is the last to have issued in the
class, dequeues, the predicate update, the counter update with its tokens. `cmp` is the compare result that POP = 1 takes. -/
def Tile.retire (t : Tile) (task : Nat) (w : SlotWord) (cmp : Bool) : Tile :=
  let t := { t with issued := put (fun _ => 3) t.issued (opClass w.opc).key task }
  let t := t.dequeues w
  let t := t.setTask task { t.task task with p := predAfter (t.task task) w cmp }
  match w.cop with
  | 1 => stepCounter t task 8 w.cidx
  | 2 => resetCounter t task w.cidx
  | _ => t

/-- An instruction fires: `body` gets the slot word, the tile before firing, and the state after the dequeues and
updates of its firing. An instruction that may not fire leaves the state unchanged. -/
def State.fire (s : State) (a : TileAddr) (task slot opc : Nat) (cmp : TaskCtx → SlotWord → Bool)
    (body : SlotWord → Tile → State → State) : State :=
  if s.canFire a task slot opc then
    let t := s.tile a
    let w := t.slotWord slot
    body w t (s.setTile a (t.retire task w (cmp (t.task task) w)))
  else s

/-- As `fire`, but where `stop` gives a fault the task takes it and the instruction does not fire (R122). -/
def State.fireUnless (s : State) (a : TileAddr) (task slot opc : Nat) (stop : SlotWord → Tile → Option Nat)
    (body : SlotWord → Tile → State → State) : State :=
  if s.canFire a task slot opc then
    let t := s.tile a
    let w := t.slotWord slot
    match stop w t with
    | some code => s.faultTask a task code slot opc
    | none => body w t (s.setTile a (t.retire task w false))
  else s

/-- The compare result of an instruction other than CMP. -/
def noCmp : TaskCtx → SlotWord → Bool := fun _ _ => false

/-- A register of the firing task written. -/
def State.setG (s : State) (a : TileAddr) (task n : Nat) (v : W32) : State :=
  let t := s.tile a
  s.setTile a (t.setTask task ((t.task task).setReg n v))

/-- A vector of the firing task written. -/
def State.setV (s : State) (a : TileAddr) (task n : Nat) (v : Nat → W32) : State :=
  let t := s.tile a
  s.setTile a (t.setTask task ((t.task task).setVec n v))

/-- A token enqueued by the instruction (R94). -/
def State.enq (s : State) (a : TileAddr) (d : Nat) (x : OTok) : State := s.setTile a ((s.tile a).enqueue d x)

end Sys2Proof.Machine
end

