-- ==== Sys2Proof/Machine/RegWrite.lean ====
section
/-!
DEFINITION. Register pages as BAR0 shows them: where each page lies, what a read returns, and how a write is checked,
performed or refused. Spec: 00_scope (R13 to R18), 11_edge_memory_and_host (R517, R526 to R535).
-/
namespace Sys2Proof.Machine

/-! ### BAR0 (R526, R527) -/

/-- A page instance exists (R527, R528). -/
def Page.exists' (p : Page) : Bool :=
  match p.typ with
  | .DIR | .HIF | .BRG | .CWY | .PWR | .NRG | .FLT | .LKO | .SYS | .SEC => p.inst == 0
  | .ENG => decide (p.inst < 7)
  | .AEN | .SEN | .MLW | .VLX | .EMP => decide (p.inst < 2)
  | .HBM => decide (p.inst / 32 < 2 ∧ p.inst % 32 < 24)
  | .VPT => decide (p.inst < 64)
  | .MESH | .FEP | .ARF | .TSQ | .SPD | .PAS | .MRK | .FPW | .FEN => decide (p.inst / 64 < 2 ∧ p.inst % 64 < 60)

/-- The BAR0 offset of a page (R526, R527). -/
def Page.base (p : Page) : Nat :=
  let plane (q off : Nat) : Nat := 0x1000000 * (q + 1) + off
  let field (off : Nat) : Nat := plane (p.inst / 64) (0x100000 + 0x40000 * (p.inst % 64) + off)
  match p.typ with
  | .DIR => 0
  | .HIF => 0x10000
  | .ENG => if p.inst == 0 then 0x11000 else plane ((p.inst - 1) % 2) (0x5000 + 0x1000 * ((p.inst - 1) / 2))
  | .BRG => 0x12000
  | .CWY => 0x13000
  | .PWR => 0x20000
  | .NRG => 0x21000
  | .FLT => 0x22000
  | .LKO => 0x23000
  | .SYS => 0x24000
  | .SEC => 0x25000
  | .AEN => plane p.inst 0
  | .SEN => plane p.inst 0x1000
  | .MLW => plane p.inst 0x2000
  | .VLX => plane p.inst 0x3000
  | .EMP => plane p.inst 0x4000
  | .HBM => plane (p.inst / 32) (0x10000 + 0x1000 * (p.inst % 32))
  | .VPT => plane (p.inst / 32) (0x20000 + 0x1000 * (p.inst % 32))
  | .MESH => field 0
  | .FEP => field 0x1000
  | .ARF => field 0x2000
  | .TSQ => field 0x3000
  | .SPD => field 0x4000
  | .PAS => field 0x5000
  | .MRK => field 0x6000
  | .FPW => field 0x8000
  | .FEN => field 0x9000

/-- The pages of one field, in ascending offset. -/
def fieldPages (inst : Nat) : List Page :=
  [.MESH, .FEP, .ARF, .TSQ, .SPD, .PAS, .MRK, .FPW, .FEN].map (fun t => ⟨t, inst⟩)

def modulePages : List Page :=
  [⟨.DIR, 0⟩, ⟨.HIF, 0⟩, ⟨.ENG, 0⟩, ⟨.BRG, 0⟩, ⟨.CWY, 0⟩, ⟨.PWR, 0⟩, ⟨.NRG, 0⟩, ⟨.FLT, 0⟩, ⟨.LKO, 0⟩, ⟨.SYS, 0⟩, ⟨.SEC, 0⟩]

def planePages (p : Nat) : List Page :=
  [⟨.AEN, p⟩, ⟨.SEN, p⟩, ⟨.MLW, p⟩, ⟨.VLX, p⟩, ⟨.EMP, p⟩, ⟨.ENG, 1 + p⟩, ⟨.ENG, 3 + p⟩, ⟨.ENG, 5 + p⟩] ++
    (List.range 24).map (fun n => ⟨.HBM, 32 * p + n⟩) ++ (List.range 32).map (fun n => ⟨.VPT, 32 * p + n⟩) ++
    (List.range 60).flatMap (fun f => fieldPages (64 * p + f))

/-- Every page of the module in ascending BAR0 offset: the directory (R531). -/
def directory : List Page := modulePages ++ planePages 0 ++ planePages 1

/-- The page at a BAR0 offset. -/
def pageAt (addr : Nat) : Option Page := directory.find? (fun p => p.base == addr / 4096 * 4096)

/-- A directory entry (R531). -/
def dirEntry (i : Nat) : Nat :=
  match directory[i]? with
  | some p => p.base / 4096 + p.typ.code <<< 16 + p.inst <<< 32
  | none => 0

/-- The field of a field page. -/
def Page.fieldOf (p : Page) : Option FieldAddr :=
  match p.typ with
  | .MESH | .FEP | .ARF | .TSQ | .SPD | .PAS | .MRK | .FPW | .FEN =>
    if h : p.inst / 64 < 2 ∧ p.inst % 64 < 60 then some ⟨⟨p.inst / 64, h.1⟩, ⟨p.inst % 64, h.2⟩⟩ else none
  | .DIR | .HIF | .ENG | .BRG | .CWY | .AEN | .SEN | .MLW | .VLX | .EMP | .HBM | .VPT | .PWR | .NRG | .FLT | .LKO | .SYS
  | .SEC => none

/-- From a reset or an open interlock to the end of start-up, only DIR, HIF, SYS and SEC are served; without power, no page
is (R640, R649). -/
def State.unserved (s : State) (p : Page) : Bool :=
  s.dark != 0 || (!([PageType.DIR, .HIF, .SYS, .SEC].contains p.typ) && s.getF F.SYS_STATE_STATE 0 != 1 && s.getF F.SYS_STATE_STATE 0 != 2)

/-- OFFLINE (R534). -/
def State.offline (s : State) (p : Page) : Bool :=
  s.unserved p || (match p.fieldOf with
  | some a => (s.fieldSt a).lost || (s.fieldSt a).resetting
  | none => false)

/-! ### Reads (R13, R16, R517, R528, R534) -/

/-- The page name of PAGE_ID: four ASCII characters. -/
def PageType.nameCode : PageType → Nat
  | .DIR => 0x20524944 | .HIF => 0x20464948 | .ENG => 0x20474E45 | .BRG => 0x20475242 | .CWY => 0x20595743
  | .AEN => 0x204E4541 | .SEN => 0x204E4553 | .MLW => 0x20574C4D | .VLX => 0x20584C56 | .EMP => 0x20504D45
  | .HBM => 0x204D4248 | .VPT => 0x20545056 | .MESH => 0x4853454D | .FEP => 0x20504546 | .ARF => 0x20465241
  | .TSQ => 0x20515354 | .SPD => 0x20445053 | .PAS => 0x20534150 | .MRK => 0x204B524D | .PWR => 0x20525750
  | .FPW => 0x20575046 | .FEN => 0x204E4546 | .NRG => 0x2047524E | .FLT => 0x20544C46 | .LKO => 0x204F4B4C
  | .SYS => 0x20535953 | .SEC => 0x20434553

/-- The register at an offset of a page; ENG.STEP and ENG.STEP_LAST exist on the page of the Service Engine only. -/
def Page.spec (p : Page) (off : Nat) : Option RegSpec :=
  if !p.exists' || (p.typ == .ENG && p.inst != 0 && (off == 0x0A0 || off == 0x0A8)) then none else regSpec p.typ off

/-- The highest register offset of a page type. -/
def lastReg (t : PageType) : Nat := (allRegs t).foldl (fun m r => max m r.off) 0

/-- An offset that holds a milepost shadow. -/
def isShadow (t : PageType) (off : Nat) : Bool := t.ctrs.any (fun c => c.shadow == off)

/-- What a read of a register returns. No register has a side effect on read (R517). -/
def State.readReg (s : State) (p : Page) (off : Nat) : W64 :=
  if !p.exists' || off % 8 != 0 then 0
  else if off == 0x000 then BitVec.ofNat 64 (p.typ.code + p.inst <<< 16 + p.typ.nameCode <<< 32)
  else if off == 0x010 then
    BitVec.ofNat 64 (boolNat (!p.typ.ctrs.isEmpty) + 2 * boolNat (p.typ.irqBits != 0) + 4 * boolNat (p.typ.errBits != 0) +
      (lastReg p.typ / 8) <<< 12)
  else if off == 0x020 then
    let v := setBits (s.reg p 0x020) 8 8 (boolNat (s.reg p 0x028 &&& ~~~(s.reg p 0x030) != 0))
    setBits (setBits v 9 9 (boolNat (s.irqP p))) 10 10 (boolNat (s.offline p))
  else if (p.spec off).isNone then 0
  else if s.offline p && decide (0x060 ≤ off) && !isShadow p.typ off then 0
  else s.reg p off

/-! ### Writes (R532 to R535) -/

/-- A bit of a write that no field of the register covers, or a reserved encoding (R13, R14). -/
def reservedBad (r : RegSpec) (v : W64) : Bool :=
  let covered := r.flds.foldl (fun m f => setBits m f.hi f.lo (2 ^ (f.hi + 1 - f.lo) - 1)) (0 : W64)
  v &&& ~~~covered != 0 || r.flds.any (fun f => match f.codes with
    | some c => decide (c < wbits v f.hi f.lo)
    | none => false)

/-- A field outside its legal range. -/
def rangeBad (r : RegSpec) (v : W64) : Bool :=
  r.flds.any (fun f => (f.acc == .rw || f.acc == .rws) && f.codes.isNone &&
    (decide (wbits v f.hi f.lo < f.min) || decide (f.max < wbits v f.hi f.lo)))

/-- LOCKED (R528, R532): `fw` marks a write of service firmware. -/
def State.lockedBad (s : State) (fw : Bool) (p : Page) (off : Nat) (r : RegSpec) (v : W64) : Bool :=
  let lock := s.reg p 0x058
  !fw && (off == 0x058 || (lock.getLsbD 0 && r.fw) ||
    (lock.getLsbD 1 && !(off == 0x028 || off == 0x038 ||
      (off == 0x048 && v.getLsbD 0 == (s.reg p 0x048).getLsbD 0))))

/-- The write result of R532. `size` says that the write is an aligned 8-byte one; `range` and `state` say that the
register's own rules refuse it with RANGE or STATE. -/
def State.writeCode (s : State) (fw : Bool) (p : Page) (off : Nat) (size : Bool) (v : W64) (range state : Bool) : Nat :=
  if !size then 1
  else match p.spec off with
    | none => 2
    | some r =>
      if s.offline p then 3
      else if s.lockedBad fw p off r v then 4
      else if reservedBad r v then 5
      else if rangeBad r v || range then 6
      else if state then 7
      else 0

/-- The register's fields after a write: RW and RWS store, W1C clears but for the bits `risen` that events have set in this FIELD
cycle, RO and WO keep (R16, R18). -/
def writtenValue (r : RegSpec) (risen old v : W64) : W64 :=
  r.flds.foldl (fun m f => match f.acc with
    | .rw | .rws => setBits m f.hi f.lo (wbits v f.hi f.lo)
    | .w1c => setBits m f.hi f.lo (wbits (old &&& (~~~v ||| risen)) f.hi f.lo)
    | .ro | .wo => m) old

/-- What a write of `v` leaves in a register. -/
def State.storedValue (s : State) (r : RegSpec) (p : Page) (off : Nat) (v : W64) : W64 :=
  writtenValue r (look (fun _ => 0) s.risen (regKey p off)) (s.reg p off) v

/-- The result of a write in STATUS and, for a refusal, in DIR (R532, R535). A module without power takes no write. -/
def State.writeResult (s : State) (fw : Bool) (p : Page) (off : Nat) (v : W64) (code : Nat) : State :=
  if s.dark != 0 then s else
  let s := if p.exists' then
      s.setReg p 0x020 (if fw then setBits (s.reg p 0x020) 7 4 code else setBits (s.reg p 0x020) 3 0 code)
    else s
  if code == 0 then s
  else
    let first : W64 := BitVec.ofNat 64 (code + 16 * boolNat fw + 1 <<< 31 + s.runWm.toNat <<< 32)
    let s := s.count C.DIR_WR_REFUSED 0 1
    s.captureFirst F.DIR_WR_FIRST_VALID 0 (some 0)
      [(0x088, first), (0x090, BitVec.ofNat 64 ((p.base + off) % 2 ^ 26)), (0x098, v)]

/-- A register write: checked, performed with `action`, or refused (R532). -/
def State.regWrite (s : State) (fw : Bool) (p : Page) (off : Nat) (size : Bool) (v : W64) (range state : Bool)
    (action : State → State) : State :=
  let code := s.writeCode fw p off size v range state
  if code == 0 then
    match regSpec p.typ off with
    | none => s
    | some r =>
      let s := s.setReg p off (s.storedValue r p off v)
      let s := if (off == 0x038 || off == 0x040) && s.irqP p then s.sendIrq p else s
      (action s).writeResult fw p off v 0
  else s.writeResult fw p off v code

end Sys2Proof.Machine
end

