-- ==== Sys2Proof/Machine/Edge.lean ====
section
/-!
DEFINITION. Edge memory: the address map over the stacks, burst reads and writes, correction, poison and failed stacks.
Spec: 11_edge_memory_and_host (R501 to R514), 12 (R563, R570).
-/
namespace Sys2Proof.Machine

/-- Number of stacks in a plane's map. -/
def State.mapStacks (s : State) (p : Nat) : List Nat :=
  (List.range 24).filter (fun n => (s.reg ⟨.EMP, p⟩ 0x088).getLsbD n)

/-- map(a) of R503: the stack, the pseudo-channel and the offset in the stack; none while no stack is in the map. -/
def State.edgeMap (s : State) (p a : Nat) : Option (Nat × Nat × Nat) :=
  let m := s.mapStacks p
  let g := a / 256
  match m[g % m.length]? with
  | some k => if m.length = 0 then none else some (k, g / m.length % 64, g / m.length * 256 + a % 256)
  | none => none

/-- The reported capacity (R504). -/
def State.edgeCapacity (s : State) (p : Nat) : Nat := s.getF F.EMP_CAPACITY_BYTES p

def edgeKey (p a : Nat) : Nat := p * 2 ^ 48 + a
def burstKey (p b : Nat) : Nat := p * 2 ^ 42 + b

/-- What a byte of edge memory reads as while nothing has written it. Assumption 12. -/
def edgeDefault : Nat → Byte := fun _ => 0

def State.edgeByte (s : State) (p a : Nat) : Byte := look edgeDefault s.edge (edgeKey p a)

def State.edgeBytes (s : State) (p a n : Nat) : List Byte := (List.range n).map (fun i => s.edgeByte p (a + i))

def State.burstMark (s : State) (p b : Nat) : EccMark := look (fun _ => .good) s.edgeMark (burstKey p b)

def State.setBurst (s : State) (p b : Nat) (m : EccMark) : State :=
  { s with edgeMark := put (fun _ => .good) s.edgeMark (burstKey p b) m }

/-- Edge-memory requesters (EMP.UE_FIRST.SOURCE, R512). -/
inductive EdgeSource where
  | stream | exchange | engine | host | scrub | merge | causeway
  deriving DecidableEq, Repr

def EdgeSource.code : EdgeSource → Nat
  | .stream => 0 | .exchange => 1 | .engine => 2 | .host => 3 | .scrub => 4 | .merge => 5 | .causeway => 6

/-- The stack of a burst has failed in service, or the map holds none (R510). -/
def State.stackDead (s : State) (p a : Nat) : Bool :=
  match s.edgeMap p a with
  | some (k, _) => s.getF F.HBM_STATE_STATE (32 * p + k) == 4
  | none => true

/-- The stack of an address, 0 where the map holds none. -/
def State.stackOf (s : State) (p a : Nat) : Nat := match s.edgeMap p a with | some (k, _) => k | none => 0

/-- An uncorrectable burst met: counted, captured, one record per waymark (R508, R512). -/
def State.noteEdgeUe (s : State) (p : Fin 2) (b : Nat) (src : EdgeSource) : State :=
  let k := s.stackOf p (64 * b)
  let pc := match s.edgeMap p (64 * b) with | some (_, c, _) => c | none => 0
  let s := s.count C.EMP_UE_BURSTS p 1
  let s := s.count C.HBM_UE (32 * p + k) 1
  let first : W64 := BitVec.ofNat 64 (k + pc <<< 5 + src.code <<< 11 + 1 <<< 31 + s.runWm.toNat <<< 32)
  let s := s.captureFirst F.EMP_UE_FIRST_VALID p (some 0)
    [(0x098, first), (0x0A0, BitVec.ofNat 64 (64 * b)), (0x0A8, s.planeCycle p)]
  s.raiseOnce (1000 + p.val) (s.errRec 0x1401 2 true s.runWm p (.plane p) src.code 5
    [first, BitVec.ofNat 64 (64 * b), s.planeCycle p])

/-- An access takes the stacks of the plane out of self-refresh (R570). -/
def State.touchEdge (s : State) (p : Nat) : State :=
  if look (fun _ => 0) s.selfRefresh p == 1 then { s with selfRefresh := put (fun _ => 0) s.selfRefresh p 2 } else s

/-- One burst read: corrected and queued for write-back, or uncorrectable (R508, R510). -/
def State.readBurst (s : State) (p : Fin 2) (b : Nat) (src : EdgeSource) : State × Bool :=
  if s.stackDead p (64 * b) then (s.noteEdgeUe p b src, true)
  else match s.burstMark p b with
    | .good => (s, false)
    | .correctable =>
      let k := burstKey p b
      let s := (s.count C.EMP_CE_BURSTS p 1).count C.HBM_CE (32 * p + s.stackOf p (64 * b)) 1
      ({ s with edgeWb := if s.edgeWb.contains k then s.edgeWb else s.edgeWb ++ [k] }, false)
    | .uncorr | .poison => (s.noteEdgeUe p b src, true)

/-- The bursts that [a, a + n) touches. -/
def burstsOf (a n : Nat) : List Nat :=
  if n = 0 then [] else (List.range ((a + n - 1) / 64 + 1 - a / 64)).map (fun i => a / 64 + i)

/-- A read of edge memory: the bytes, and whether a burst was uncorrectable. -/
def State.edgeRead (s : State) (p : Fin 2) (a n : Nat) (src : EdgeSource) : State × List Byte × Bool :=
  let s := (s.touchEdge p).count C.EMP_RD_BYTES p n
  let r := (burstsOf a n).foldl (fun (x : State × Bool) b =>
    let y := x.1.readBurst p b src
    (y.1, x.2 || y.2)) (s, false)
  (r.1, r.1.edgeBytes p a n, r.2)

/-- Bytes stored in order. -/
def storeEdge (p : Nat) (l : List (Nat × Byte)) (a : Nat) : List Byte → List (Nat × Byte)
  | [] => l
  | b :: r => storeEdge p (put edgeDefault l (edgeKey p a) b) (a + 1) r

/-- One burst of a write: whole bursts directly, parts merged (R507, R510). -/
def State.writeBurst (s : State) (p : Fin 2) (a : Nat) (bs : List Byte) (b : Nat) : State :=
  if s.stackDead p (64 * b) then s.count C.EMP_UE_BURSTS p 1
  else
    let lo := max a (64 * b)
    let hi := min (a + bs.length) (64 * b + 64)
    let part := (bs.drop (lo - a)).take (hi - lo)
    let drop (s : State) : State := { s with edgeWb := s.edgeWb.filter (· != burstKey p b) }
    if hi - lo = 64 then drop ({ s with edge := storeEdge p s.edge lo part }.setBurst p b .good)
    else
      let s := s.count C.EMP_RMW p 1
      match s.burstMark p b with
      | .uncorr | .poison => (s.setBurst p b .poison).noteEdgeUe p b .merge
      | .good => { s with edge := storeEdge p s.edge lo part }
      | .correctable =>
        let s := (s.count C.EMP_CE_BURSTS p 1).count C.HBM_CE (32 * p + s.stackOf p (64 * b)) 1
        drop ({ s with edge := storeEdge p s.edge lo part }.setBurst p b .good)

/-- A write of edge memory. -/
def State.edgeWrite (s : State) (p : Fin 2) (a : Nat) (bs : List Byte) : State :=
  let s := (s.touchEdge p).count C.EMP_WR_BYTES p bs.length
  (burstsOf a bs.length).foldl (fun s b => s.writeBurst p a bs b) s

end Sys2Proof.Machine
end

