-- ==== Sys2Proof/Machine/Memory.lean ====
section
/-!
DEFINITION. The meanings of the memory instructions of a tile: RDQ, WRT, LDN, STN. Spec: 04_scratchpad (R157 to R185).
-/
namespace Sys2Proof.Machine

/-! ### The read engine (R165 to R169, R180 to R183) -/

/-- Bank bytes that one token of an RDQ uses, as (deep, bank offset), scale bytes first. -/
def tokenBytes (c : TaskCtx) (w : SlotWord) (k : Nat) : List (Bool × Nat) :=
  let deep := w.immF 2 2 == 1
  let sw := c.scaleWin (w.immF 18 18 == 1)
  let sb := wbits sw 0 0 == 1
  (rdqScaleAt c w k).filterMap (fun x => (scaleAddr sw (w.immF 14 11) x).map (fun y => (sb, c.bankOff sb y))) ++
    (rdqToken c w k).map (fun x => (deep, c.bankOff deep x))

/-- The token that the bank bytes give (R88, R89, R166 to R169). -/
def formToken (t : Tile) (c : TaskCtx) (w : SlotWord) (k : Nat) : DataTok :=
  let deep := w.immF 2 2 == 1
  let fmt := w.immF 14 11
  let sw := c.scaleWin (w.immF 18 18 == 1)
  let sb := wbits sw 0 0 == 1
  let bytes := (rdqToken c w k).mapIdx (fun i x =>
    if (fmt == 7 || fmt == 8) && decide (24 ≤ i) then 0#8 else t.byte deep (c.bankOff deep x))
  let scales := (rdqScaleAt c w k).map (fun x =>
    match scaleAddr sw fmt x with
    | some y => (t.byte sb (c.bankOff sb y)).toNat
    | none => 0)
  let lanes := w.immF 1 0 == 1
  let sc : Nat :=
    if scales.isEmpty then 0
    else (List.range 8).foldl (fun x n =>
      let v := if lanes then scales.getD n 0 else if n < 4 then scales.getD 0 0 else scales.getD 1 0
      x + v <<< (8 * n)) 0
  { payload := BitVec.ofNat 256 (leNat bytes), scales := BitVec.ofNat 64 sc, fmt := BitVec.ofNat 4 fmt
    saxis := isMxCode fmt && !lanes, epoch := t.epoch }

/-- Distinct rows of a list of bank bytes, in the order of first use. -/
def rowsIn (used : List (Bool × Nat)) : List (Bool × Nat) :=
  used.foldl (fun l u => if l.contains (u.1, u.2 / 32) then l else l ++ [(u.1, u.2 / 32)]) []

/-- How far a read access has come: the tokens completed, the rows decoded, whether a word was corrected, and the bank
of the row that failed, where one has. -/
structure ReadAcc where
  toks : List DataTok
  rows : List (Bool × Nat)
  corrected : Bool
  failed : Option Bool
  deriving DecidableEq, Repr

/-- The tokens that the read engine reads together: the two of a group under SWITCHBACK, else one (R167). -/
def readGroups (w : SlotWord) : List (List Nat) :=
  if w.immF 1 0 == 1 then (List.range (w.immF 10 3 / 2)).map (fun g => [2 * g, 2 * g + 1])
  else (List.range (w.immF 10 3)).map (fun k => [k])

/-- One row read of an access, unless an earlier one has failed (R180, R183). `used` is every byte that the whole access
uses; a row that the access has read before adds its bytes to the bank's count and no second error. -/
def readTokenRow (a : TileAddr) (task : Nat) (used : List (Bool × Nat)) (y : State × ReadAcc) (row : Bool × Nat) :
    State × ReadAcc :=
  if y.2.failed.isSome then y
  else if y.2.rows.contains row then (y.1.countBank a row.1 32, y.2)
  else
    let z := y.1.readRow a row.1 row.2 ((used.filter (fun u => u.1 == row.1 && u.2 / 32 == row.2)).map (·.2)) .taskRead task
    let r := { y.2 with rows := row :: y.2.rows }
    match z.2 with
    | .clean => (z.1, r)
    | .corrected => (z.1, { r with corrected := true })
    | .uncorrectable => (z.1, { r with failed := some row.1 })

/-- The tokens of one group of an access: their rows are read in turn up to the first that fails (R180, R183). -/
def readToken (a : TileAddr) (task : Nat) (c : TaskCtx) (w : SlotWord) (used : List (Bool × Nat)) (x : State × ReadAcc)
    (ks : List Nat) : State × ReadAcc :=
  if x.2.failed.isSome then x
  else
    let r := (rowsIn (ks.flatMap (fun k => tokenBytes c w k))).foldl (readTokenRow a task used) x
    if r.2.failed.isSome then r
    else (r.1, { r.2 with toks := r.2.toks ++ ks.map (fun k => formToken (r.1.tile a) c w k) })

/-- The fault that the windows give an RDQ, if any (R157, R159, R163, R166, R168): a bound first, then ALIGN. Every byte
of every token is judged, against the element bank's window before the scale window, and before the scale bytes. Which
bank's fault is delivered when one access breaks both banks' windows is the model's choice: the element bank's
(DESIGN CHOICE, assumption 84). -/
def rdqFault (c : TaskCtx) (w : SlotWord) : Option Nat :=
  let deep := w.immF 2 2 == 1
  let fmt := w.immF 14 11
  let sw := c.scaleWin (w.immF 18 18 == 1)
  let sb := wbits sw 0 0 == 1
  let ks := List.range (w.immF 10 3)
  let xs := ks.flatMap (fun k => rdqScaleAt c w k)
  if ks.any (fun k => (rdqToken c w k).any (fun x => !c.legal deep x 1)) then some (boundFault deep)
  else if isMxCode fmt && ks.any (fun k => (rdqToken c w k).any (fun x => (scaleAddr sw fmt x).isNone)) then some (boundFault deep)
  else if xs.any (fun x => match scaleAddr sw fmt x with | some y => !c.legal sb y 1 | none => false) then
    some (boundFault sb)
  else if isMxCode fmt then
    let m := if w.immF 1 0 == 1 then 8 else blockBytes fmt
    if ((c.reg w.src1).toNat - wbits sw 36 19) % m == 0 then none else some faultAlign
  else none

/-- An access that corrected a word is counted once (R181, R182). -/
def State.countCorrected (s : State) (a : TileAddr) (corrected : Bool) : State :=
  if corrected then (s.count C.SPD_CE_ACCESSES a.fld.inst 1).count (C.SPD_CE_BLK a.block) a.fld.inst 1 else s

/-- What an access meets at the segments of the bytes it uses (R189). -/
def segFault (t : Tile) (write : Bool) (used : List (Bool × Nat)) : Bool :=
  used.any (fun u => u.1 && (let g := (t.seg (segOf u.2)).state
    g == .off || (write && g == .closing)))

/-- RDQ: the windows are checked for every byte, then the rows are read and the tokens wait for their DQ (R165). -/
def execOpRdq (a : TileAddr) (task : Fin 4) (slot : Fin 128) (s : State) : Host.Outcome State Fault Refusal :=
  .next (s.fire a task slot 0x18 noCmp (fun w t s =>
    let c := t.task task
    let used := (List.range (w.immF 10 3)).flatMap (fun k => tokenBytes c w k)
    match rdqFault c w with
    | some code => s.faultTask a task code slot 0x18
    | none =>
      if segFault t false used then s.faultTask a task faultSegOff slot 0x18
      else
        let r := (readGroups w).foldl (readToken a task c w used) (s, { toks := [], rows := [], corrected := false, failed := none })
        let s := r.1.countCorrected a r.2.corrected
        let t := s.tile a
        let s := if r.2.toks.isEmpty then s
          else s.setTile a { t with reads := t.reads ++ [{ task := task, dq := w.immF 17 15, deep := w.immF 2 2 == 1
                                                           toks := r.2.toks }] }
        match r.2.failed with
        | some true => s.faultTask a task faultDeepUncorr slot 0x18
        | some false => s.failTile a task
        | none => s))

/-! ### WRT -/

/-- The scale bytes that a WRT with scales writes: element address and the byte (R164). -/
def wrtScales (x : Nat) (h : DataTok) : List (Nat × Byte) :=
  (x, BitVec.ofNat 8 (wbits h.scales 7 0)) ::
    (if h.fmt.toNat == 9 then [(x + 16, BitVec.ofNat 8 (wbits h.scales 39 32))] else [])

/-- A byte written into a word of a bank: its row is read, the word merged and written back; an uncorrectable word is
poisoned instead (R178, R185). R175 lets no scale byte of a WRT through the gather buffer, and no rule says how such a
byte reaches the bank: that it is merged there at once, after a forced flush of its row and under the source GATHER_RMW,
is the model's choice (DESIGN CHOICE, assumption 84). -/
def State.mergeByte (s : State) (a : TileAddr) (deep : Bool) (off : Nat) (b : Byte) : State :=
  let s := ((s.flushRow a deep (off / 32)).decodeRow a deep (off / 32) [] .gatherRmw 0).1
  let t := s.tile a
  if t.mark deep off == .poison then s
  else
    let base := off / 8 * 8
    let old := t.bytes deep base 8
    (s.setTile a (t.storeWords deep base (old.mapIdx (fun i o => if base + i == off then b else o)))).countBank a deep 8

/-- The fault of a WRT, if any: ALIGN, a SAXIS of LANE with scales, a bound, a scale window bound, judged for every
payload byte (R127, R157, R159, R163, R164). -/
def wrtFault (c : TaskCtx) (w : SlotWord) (h : DataTok) : Option Nat :=
  let deep := w.immF 0 0 == 1
  let x := (c.reg w.src1).toNat
  let sw := c.scaleWin (w.immF 2 2 == 1)
  let sb := wbits sw 0 0 == 1
  let ys := if w.immF 1 1 == 1 then (wrtScales x h).map (fun e => scaleAddr sw h.fmt.toNat e.1) else []
  if x % 32 != 0 then some faultAlign
  else if w.immF 1 1 == 1 && !h.saxis then some faultFmt
  else if !c.legal deep x 32 then some (boundFault deep)
  else if w.immF 1 1 == 1 && (List.range 32).any (fun i => (scaleAddr sw h.fmt.toNat (x + i)).isNone) then
    some (boundFault deep)
  else if ys.any (fun y => match y with | some z => !c.legal sb z 1 | none => false) then some (boundFault sb)
  else none

/-- WRT: the payload at the head of QA goes to a row, and its scales to the scale window (R116, R164). -/
def execOpWrt (a : TileAddr) (task : Fin 4) (slot : Fin 128) (s : State) : Host.Outcome State Fault Refusal :=
  .next (s.fire a task slot 0x19 noCmp (fun w t s =>
    match t.headData w.qa with
    | none => s
    | some h =>
      let c := t.task task
      let deep := w.immF 0 0 == 1
      let x := (c.reg w.src1).toNat
      let sw := c.scaleWin (w.immF 2 2 == 1)
      let sb := wbits sw 0 0 == 1
      let sc := if w.immF 1 1 == 1 then
          (wrtScales x h).filterMap (fun e => (scaleAddr sw h.fmt.toNat e.1).map (fun y => (c.bankOff sb y, e.2)))
        else []
      match wrtFault c w h with
      | some code => s.faultTask a task code slot 0x19
      | none =>
        if segFault t true ((List.range 32).map (fun i => (deep, c.bankOff deep (x + i))) ++ sc.map (fun e => (sb, e.1))) then
          s.faultTask a task faultSegOff slot 0x19
        else
          let s := s.writeRows a deep (c.bankOff deep x) (leBytes 32 h.payload.toNat)
          sc.foldl (fun s e => s.mergeByte a sb e.1 e.2) s))

/-! ### LDN and STN -/

/-- LDN: a 32-bit word, little-endian (R160). -/
def execOpLdn (a : TileAddr) (task : Fin 4) (slot : Fin 128) (s : State) : Host.Outcome State Fault Refusal :=
  .next (s.fire a task slot 0x1A noCmp (fun w t s =>
    let c := t.task task
    let deep := w.immF 0 0 == 1
    let x := narrowAddr c w
    let off := c.bankOff deep x
    if !c.legal deep x 4 then s.faultTask a task (boundFault deep) slot 0x1A
    else if segFault t false [(deep, off)] then s.faultTask a task faultSegOff slot 0x1A
    else
      let r := s.readBytes a deep ((List.range 4).map (fun i => off + i)) .taskRead task
      if r.2 = .uncorrectable then
        if deep then r.1.faultTask a task faultDeepUncorr slot 0x1A else r.1.failTile a task
      else r.1.setG a task w.dst (BitVec.ofNat 32 (leNat ((r.1.tile a).bytes deep off 4)))))

/-- STN: a 32-bit word through the narrow-gather buffer (R160, R175). -/
def execOpStn (a : TileAddr) (task : Fin 4) (slot : Fin 128) (s : State) : Host.Outcome State Fault Refusal :=
  .next (s.fire a task slot 0x1B noCmp (fun w t s =>
    let c := t.task task
    let deep := w.immF 0 0 == 1
    let x := narrowAddr c w
    let off := c.bankOff deep x
    if !c.legal deep x 4 then s.faultTask a task (boundFault deep) slot 0x1B
    else if segFault t true [(deep, off)] then s.faultTask a task faultSegOff slot 0x1B
    else s.narrowWrite a deep off (leBytes 4 (c.reg w.src2).toNat)))

end Sys2Proof.Machine
end

