-- ==== Sys2Proof/Machine/Matrix.lean ====
section
/-!
DEFINITION. The meanings of the matrix instructions of a tile: MMA, ACLR, EMIT. Spec: 03_molcel_tile (R121 to R128),
02 (R47 to R54, R57 to R73).
-/
namespace Sys2Proof.Machine

/-! ### Elements of a token (R47, R88, R89) -/

/-- The code of element e of a payload. -/
def payElem (f : Fmt) (payload : BitVec 256) (e : Nat) : Nat :=
  let lo := f.bits * e
  wbits payload (lo + f.bits - 1) lo

/-- The scale byte of an element: of its lane when SAXIS is LANE, of its k-step when SAXIS is KSTEP (R89). -/
def tokScale (d : DataTok) (e : Nat) : Nat :=
  let n := if d.saxis then e / 8 else e % 8
  wbits d.scales (8 * (n % 8) + 7) (8 * (n % 8))

/-- An element as a number, its own scale applied. -/
def DataTok.num (d : DataTok) (f : Fmt) (e : Nat) : Num := f.read (payElem f d.payload e) (tokScale d e)

/-- K-steps of a token (R88). -/
def Fmt.ksteps (f : Fmt) : Nat := f.perToken / 8

/-! ### Accumulator banks (R86, R123, R124) -/

def Tile.accEl (t : Tile) (b n : Nat) : ExactVal := look (fun _ => ExactVal.zero) t.acc (64 * b + n)

def Tile.bankVals (t : Tile) (b : Nat) : List ExactVal := (List.range 64).map (t.accEl b)

/-- The bank at exact zero with a zero sum status, no work unit open (R124). -/
def Tile.clearBank (t : Tile) (b : Nat) : Tile :=
  { t with acc := t.acc.filter (fun e => !(decide (64 * b ≤ e.1) && decide (e.1 < 64 * b + 64)))
           openUnit := t.openUnit &&& ~~~(BitVec.ofNat 4 (2 ^ b)) }

/-- The products of element (i, j) of an MMA, added into x (R121, R122). -/
def mmaElem (fa fb : Fmt) (da db : DataTok) (hi : Bool) (i j : Nat) (x : ExactVal) : ExactVal :=
  let n := min fa.ksteps fb.ksteps
  let oa := if n < fa.ksteps && hi then 4 else 0
  let ob := if n < fb.ksteps && hi then 4 else 0
  (List.range n).foldl (fun x k => x.add (exactProduct (da.num fa (8 * (k + oa) + i)) (db.num fb (8 * (k + ob) + j)))) x

/-- Every element of a bank with the products of an MMA added. -/
def Tile.mmaBank (t : Tile) (fa fb : Fmt) (da db : DataTok) (hi : Bool) (b : Nat) : Tile :=
  (List.range 64).foldl (fun t n => { t with
    acc := put (fun _ => ExactVal.zero) t.acc (64 * b + n) (mmaElem fa fb da db hi (n / 8) (n % 8) (t.accEl b n)) }) t

/-- The FEN counter of an operand pair (R577). -/
def macCounter (fa fb : Fmt) : Ctr :=
  if fa == .mxE2m1 && fb == .mxE2m1 then C.FEN_MAC_FP4
  else if fa == .bf16 || fa == .fp16 then C.FEN_MAC_16BIT
  else C.FEN_MAC_8BIT

/-- MMA: the head tokens multiply exactly into a bank; a FMT that differs from the configured one delivers FMT_MISMATCH
and the MMA does not fire (R121, R122). -/
def execOpMma (a : TileAddr) (task : Fin 4) (slot : Fin 128) (s : State) : Host.Outcome State Fault Refusal :=
  .next (s.fireUnless a task slot 0x20
    (fun w t =>
      let c := t.task task
      match t.headData w.qa, t.headData w.qb with
      | some x, some y => if x.fmt != c.fmtA || y.fmt != c.fmtB then some faultFmt else none
      | _, _ => some faultFmt)
    (fun w t s =>
      let c := t.task task
      match t.headData w.qa, t.headData w.qb, Fmt.ofCode c.fmtA.toNat, Fmt.ofCode c.fmtB.toNat with
      | some x, some y, some fa, some fb =>
        let b := w.immF 1 0
        let hi := w.immF 7 7 == 1
        let s := s.tapMma a task b x y hi
        let t := s.tile a
        let t := t.mmaBank fa fb x y hi b
        let t := ({ t with openUnit := t.openUnit ||| BitVec.ofNat 4 (2 ^ b) }).bump (20 + task)
        let s := (s.setTile a t).count (macCounter fa fb) a.fld.inst (64 * min fa.ksteps fb.ksteps)
        if w.immF 2 2 == 1 then s.enq a (w.immF 6 3) (.data y) else s
      | _, _, _, _ => s))

/-- ACLR: the bank is cleared and its open work unit abandoned (R116, R619). -/
def execOpAclr (a : TileAddr) (task : Fin 4) (slot : Fin 128) (s : State) : Host.Outcome State Fault Refusal :=
  .next (s.fire a task slot 0x21 noCmp (fun w _ s =>
    let s := s.tapDrop a (w.immF 1 0)
    s.setTile a ((s.tile a).clearBank (w.immF 1 0))))

/-! ### Result configurations (R64, R125, R126) -/

def rfwFmt (rfw : Nat) : Nat := natBits 3 0 rfw
def rfwRnd (rfw : Nat) : Rnd := Rnd.ofCode (natBits 5 4 rfw)
def rfwFast (rfw : Nat) : Bool := natBits 6 6 rfw == 1
def rfwSat (rfw : Nat) : Bool := natBits 7 7 rfw == 1

/-- The element index of (i, j) modulo 2^48 (R126). -/
def elemIndex (rc : BitVec 128) (g : W32) (i j : Nat) : BitVec 48 :=
  BitVec.ofInt 48 (wbits rc 31 16 * 2 ^ 32 + g.toNat + i * natSigned 24 (wbits rc 87 64) + j * natSigned 24 (wbits rc 111 88))

/-- An EXACT192 element: V, the status, zeros (R65). -/
def exact192Bytes (x : ExactVal) : List Byte := leBytes 24 x.v.toNat ++ leBytes 2 x.status.toNat ++ leBytes 6 0

/-- One rounded result as bytes, with its condition flags (R65, R66, R71). -/
def roundResult (x : ExactVal) (rfw : Nat) (tag wm : W32) (index : BitVec 48) : List Byte × RFlags :=
  match Fmt.ofCode (rfwFmt rfw) with
  | some .exact192 => (exact192Bytes x, {})
  | some f =>
    match f.enc with
    | some e =>
      let r := x.round e (rfwRnd rfw) (rfwSat rfw) (srValue tag wm index)
      (leBytes (f.bits / 8) r.1, r.2)
    | none => ([], {})
  | none => ([], {})

/-- The work unit of a bank closes: counted, the check tap fed, the bank left at exact zero (R124, R619). -/
def State.closeUnit (s : State) (a : TileAddr) (task b : Nat) : State :=
  let s := s.tapEmit a task b ((s.tile a).bankVals b)
  let t := (s.tile a).clearBank b
  let c := t.task task
  (s.setTile a (t.setTask task { c with workUnits := c.workUnits + 1 })).count C.TSQ_WORK_UNITS a.fld.inst 1

/-- An element of a FAST contribution: the exact partial sum rounded to FP32 with RNE (R60, R62). -/
def fastElem (x : ExactVal) : SumElem :=
  let r := x.round .fp32 .rne false 0
  .fast (BitVec.ofNat 32 r.1) x.winLo x.winHi x.high r.2.nanGen

/-- The conditions of rounded results, noted for the emitting task (R58, R69). An EMIT ROUND rounds by round_exact
whatever RED says (R127), so no result of it counts in FAST_RESULTS; every one under SR counts in SR_RESULTS, also a NaN,
an infinity or a zero that returns before the rounding step (DESIGN CHOICE, assumption 85). -/
def State.noteRounded (s : State) (a : TileAddr) (task : Nat) (wm : Waymark) (sr : Bool) (rs : List (ExactVal × List Byte × RFlags)) :
    State :=
  rs.foldl (fun s r => s.noteResult a task wm r.1.winLo r.1.winHi r.1.high r.2.2 sr false) s

/-- EMIT ROUND: 64 results rounded and written row-major (R127). -/
def State.emitRound (s : State) (a : TileAddr) (task slot : Nat) (c : TaskCtx) (w : SlotWord) (vals : List ExactVal) : State :=
  let rc := c.rc (w.immF 2 2 == 1)
  let rfw := wbits rc 15 0
  let deep := w.immF 4 4 == 1
  let x := (c.reg w.src2).toNat
  let z := elemSize (rfwFmt rfw)
  let off := c.bankOff deep x
  let tag : W32 := BitVec.ofNat 32 (wbits rc 63 32)
  let wm := s.fldWm a.fld.plane
  if x % 32 != 0 then s.faultTask a task faultAlign slot 0x22
  else if !c.legal deep x (64 * z) then s.faultTask a task (boundFault deep) slot 0x22
  else if segFault (s.tile a) true [(deep, off), (deep, off + 64 * z - 1)] then s.faultTask a task faultSegOff slot 0x22
  else
    let rs := vals.mapIdx (fun n v => (v, roundResult v rfw tag wm (elemIndex rc (c.reg w.src1) (n / 8) (n % 8))))
    let s := s.closeUnit a task (w.immF 1 0)
    let s := if rfwFmt rfw == 12 then s else s.noteRounded a task wm (rfwRnd rfw == .sr) rs
    s.writeRows a deep off (rs.flatMap (fun r => r.2.1))

/-- EMIT (R124, R127, R128). -/
def execOpEmit (a : TileAddr) (task : Fin 4) (slot : Fin 128) (s : State) : Host.Outcome State Fault Refusal :=
  .next (s.fire a task slot 0x22 noCmp (fun w t s =>
    let c := t.task task
    let b := w.immF 1 0
    let rc := c.rc (w.immF 2 2 == 1)
    let vals := t.bankVals b
    if w.immF 3 3 == 1 then
      let fast := rfwFast (wbits rc 15 0)
      let s := s.closeUnit a task b
      s.enq a (w.immF 8 5) (.sum { fast := fast, epoch := t.epoch, addr := natBits 18 0 (c.reg w.src2).toNat
                                   step := wbits rc 117 112
                                   elems := vals.map (fun v => if fast then fastElem v else .exact v) })
    else s.emitRound a task slot c w vals))

end Sys2Proof.Machine
end

