-- ==== Sys2Proof/Machine/MarkerOps.lean ====
section
/-!
DEFINITION. Markers and milestone wires as other units reach them: operations queued for the marker unit, arrival masks
and roots of the barrier channels. Spec: 09_barriers_and_markers (R419 to R436).
-/
namespace Sys2Proof.Machine

/-! ### Markers -/

def FieldSt.marker (f : FieldSt) (m : Nat) : Marker := look (fun _ => Marker.reset) f.markers m

/-- The field is in layby: its marker operations are held in arrival order (R429). -/
def State.inLayby (s : State) (f : FieldAddr) : Bool := s.getF F.FPW_STATE_POWER f.inst == 2

/-- An operation reaches the marker unit of a field; it is applied at the end of the FIELD cycle (R424), or, in layby,
when the field wakes (R429). A field that is lost or in a field reset has no marker unit. -/
def State.markOp (s : State) (f : FieldAddr) (op : MarkOp) : State :=
  let x := s.fieldSt f
  if x.lost || x.resetting then s
  else
    let op := if s.inLayby f then { op with rank := 0, sub := x.mops.length } else op
    s.setField f { x with mops := x.mops ++ [op] }

/-- A SIGNAL of a marker; amount 0 changes nothing and records nothing (R422). -/
def State.signal (s : State) (f : FieldAddr) (rank sub marker : Nat) (amount : W32) (kind : Nat) (id : W32) (wm : Waymark) :
    State :=
  if amount = 0 then s
  else s.markOp f { write := false, rank := rank, sub := sub, marker := marker % 4096, amount := amount, kind := kind
                    id := id, wm := wm, donor := none, answer := none }

/-- A packet's signal (R420, R424 rank 3, R431 PACKET). -/
def State.packetSignal (s : State) (a : TileAddr) (marker : Nat) (amount : W32) (src : Nat) (wm : Waymark) : State :=
  s.signal a.fld 3 a.loc marker amount 3 (BitVec.ofNat 32 src) wm

/-! ### Barrier channels (R432, R433, R439) -/

/-- The tile that a tile key names. -/
def tileOfKey (k : Nat) : Option TileAddr :=
  let f := k / 12288
  let l := k % 12288
  if h : f / 60 < 2 ∧ l / 128 < 96 then
    some ⟨⟨⟨f / 60, h.1⟩, ⟨f % 60, Nat.mod_lt _ (by omega)⟩⟩, ⟨l / 128, h.2⟩, ⟨l % 128, Nat.mod_lt _ (by omega)⟩⟩
  else none

/-- Every tile of the state that is not at its reset, with its content. -/
def State.liveTiles (s : State) : List (TileAddr × Tile) :=
  s.tiles.filterMap (fun e => (tileOfKey e.1).map (fun a => (a, e.2)))

/-- The tile's loaded instruction store holds a VALID BARR naming the channel (R433). -/
def Tile.hasBarr (t : Tile) (ch : Nat) : Bool :=
  t.istore.any (fun e => SlotWord.valid e.2 && SlotWord.opc e.2 == 0x39 && SlotWord.immF e.2 3 0 == ch)

/-- A tile takes part in the channel: it is loaded at its field's epoch and holds a BARR for it. -/
def State.takesPart (s : State) (a : TileAddr) (t : Tile) (ch : Nat) : Bool :=
  t.epoch == (s.fieldSt a.fld).epoch && t.hasBarr ch

/-- A field's input of a TILE channel: high when it takes no part, when every participant has arrived; a field lost,
isolated or reset while the pass runs, and a participant fenced since, drive it low (R432, R438). -/
def State.fieldHigh (s : State) (f : FieldAddr) (ch : Nat) : Bool :=
  if s.getF F.PAS_RUN_IN_PASS f.inst == 0 then true
  else if (s.fieldSt f).lost || (s.fieldSt f).resetting then false
  else s.liveTiles.all (fun e => e.1.fld != f || !s.takesPart e.1 e.2 ch ||
    (e.2.barLatch.getLsbD ch && !s.tileFenced e.1 && !e.2.failed))

def chKey (p : Fin 2) (ch : Nat) : Nat := 16 * p.val + ch

def State.chEngine (s : State) (p : Fin 2) (ch : Nat) : Bool := s.getF (F.MLW_CH_MODE ch) p == 1
def State.chBridged (s : State) (p : Fin 2) (ch : Nat) : Bool := s.getF (F.MLW_CH_BRIDGED ch) p == 1

/-- The plane root of a channel: the AND of its fields and of the Array Engine (R432, R433). -/
def State.rootHigh (s : State) (p : Fin 2) (ch : Nat) : Bool :=
  if s.chEngine p ch then look (fun _ => false) s.aeArrived (chKey p ch)
  else (List.finRange 60).all (fun f => s.fieldHigh ⟨p, f⟩ ch)

/-- The arrival mask of R439: fields, the Array Engine at bit 60, the other plane at bit 61. -/
def State.arrMask (s : State) (p : Fin 2) (ch : Nat) : W64 :=
  let fields := (List.finRange 60).foldl (fun m f =>
    m + boolNat (s.chEngine p ch || s.fieldHigh ⟨p, f⟩ ch) <<< f.val) 0
  let ae := !s.chEngine p ch || look (fun _ => false) s.aeArrived (chKey p ch)
  let other := !s.chBridged p ch || look (fun _ => false) s.remoteRoot (chKey p ch)
  BitVec.ofNat 64 (fields + boolNat ae <<< 60 + boolNat other <<< 61)

/-- A capture in MRK.TO_FIRST (R444). Kinds: 0 WATCH, 1 BARRIER, 2 EARLY. -/
def State.markerCapture (s : State) (f : FieldAddr) (kind row col task index blocks : Nat) : State :=
  let first : W64 := BitVec.ofNat 64 (kind + row <<< 2 + col <<< 9 + task <<< 16 + index <<< 18 + 1 <<< 31 + blocks <<< 32)
  s.captureFirst F.MRK_TO_FIRST_VALID f.inst (some 0) [(0x0B0, first), (0x0B8, s.cycleOf f)]

end Sys2Proof.Machine
end

