-- ==== Sys2Proof/Machine/Path.lean ====
section
/-!
DEFINITION. Plane coordinates, packet headers, endpoint table entries, path composition and send refusals of the far
network. Spec: 01 (R22), 05_gulnel_mesh (R211 to R225, R230, R238, R240).
-/
namespace Sys2Proof.Machine

/-! ### Plane coordinates (R22, R211) -/

/-- Field row and field column of a field. -/
def fieldPos (f : Nat) : Nat × Nat :=
  if f < 6 then (0, f + 1) else if f < 54 then (1 + (f - 6) / 8, (f - 6) % 8) else (7, f - 53)

/-- The field at a position of the 8 by 8 grid; the corners are absent. -/
def fieldAtPos (r c : Nat) : Option Nat :=
  if r = 0 then (if 1 ≤ c ∧ c ≤ 6 then some (c - 1) else none)
  else if r < 7 then (if c < 8 then some (6 + 8 * (r - 1) + c) else none)
  else if r = 7 then (if 1 ≤ c ∧ c ≤ 6 then some (c + 53) else none)
  else none

/-- Plane row and plane column of a tile. -/
def tilePos (a : TileAddr) : Nat × Nat :=
  let p := fieldPos a.fld.field
  (96 * p.1 + a.row.val, 128 * p.2 + a.col.val)

/-- The tile at plane coordinates. -/
def tileAt (p : Fin 2) (r c : Nat) : Option TileAddr :=
  match fieldAtPos (r / 96) (c / 128) with
  | some f =>
    if h : f < 60 then some ⟨⟨p, ⟨f, h⟩⟩, ⟨r % 96, Nat.mod_lt _ (by omega)⟩, ⟨c % 128, Nat.mod_lt _ (by omega)⟩⟩ else none
  | none => none

/-- The position one hop on in a direction: 0 N, 1 E, 2 S, 3 W (R212). -/
def stepPos (q : Nat × Nat) (dir n : Nat) : Option (Nat × Nat) :=
  match dir with
  | 0 => if n ≤ q.1 then some (q.1 - n, q.2) else none
  | 1 => some (q.1, q.2 + n)
  | 2 => some (q.1 + n, q.2)
  | _ => if n ≤ q.2 then some (q.1, q.2 - n) else none

/-- The adjacent tile in a direction (R209, R213). -/
def neighbour (a : TileAddr) (dir : Nat) : Option TileAddr :=
  match stepPos (tilePos a) dir 1 with
  | some q => tileAt a.fld.plane q.1 q.2
  | none => none

/-- The far input at which a hop in a direction arrives: 0 local, 1 N, 2 E, 3 S, 4 W. -/
def inputOf (dir : Nat) : Nat := match dir with | 0 => 3 | 1 => 4 | 2 => 1 | _ => 2

/-! ### Headers (R216 to R220) -/

def Packet.cls (p : Packet) : Nat := wbits p.hdr 1 0
def Packet.epoch (p : Packet) : BitVec 2 := BitVec.ofNat 2 (wbits p.hdr 3 2)
def Packet.nseg (p : Packet) : Nat := wbits p.hdr 6 4
def Packet.mc (p : Packet) : Bool := wbits p.hdr 7 7 == 1
def Packet.src (p : Packet) : Nat := wbits p.hdr 79 56
def Packet.wm8 (p : Packet) : Nat := wbits p.hdr 87 80
def Packet.addr (p : Packet) : Nat := wbits p.hdr 106 88
def Packet.len (p : Packet) : Nat := wbits p.hdr 111 107
def Packet.aux (p : Packet) : Nat := wbits p.hdr 127 112

/-- Segment i of the path that remains: in the header, or in the extension word (R220). -/
def Packet.seg (p : Packet) (i : Nat) : Nat :=
  if i < 4 then wbits p.hdr (19 + 12 * i) (8 + 12 * i)
  else natBits (35 + 12 * (i - 4)) (24 + 12 * (i - 4)) (leAt p.payload 0 8)

/-- Segment i replaced. -/
def Packet.setSeg (p : Packet) (i v : Nat) : Packet :=
  if i < 4 then { p with hdr := setBits p.hdr (19 + 12 * i) (8 + 12 * i) v }
  else
    let w : W64 := BitVec.ofNat 64 (leAt p.payload 0 8)
    { p with payload := leBytes 8 (setBits w (35 + 12 * (i - 4)) (24 + 12 * (i - 4)) v).toNat ++ p.payload.drop 8 }

/-- The current segment: the first whose LEN is not 0 (R214). None: the packet is at its destination router. -/
def Packet.cur (p : Packet) : Option Nat := (List.range p.nseg).find? (fun i => p.seg i / 4 != 0)

/-- The direction of the next hop. -/
def Packet.dir (p : Packet) : Option Nat := p.cur.map (fun i => p.seg i % 4)

/-- One hop taken off the path (R214); a hop of a multicast's final segment enters a target (R241). -/
def Packet.hop (p : Packet) : Packet :=
  match p.cur with
  | some i => { p.setSeg i (p.seg i - 4) with copied := !(p.mc && p.cls == 0 && i + 1 == p.nseg) }
  | none => p

/-- Flits of a packet (R210). -/
def Packet.flits (p : Packet) : Nat := 2 + (p.payload.length + 7) / 8

/-- The waymark restored from WM8 (R219). -/
def restoreWm (running : Waymark) (wm8 : Nat) : Waymark :=
  let w := running.toNat
  let lo := if w < 128 then 0 else if 2 ^ 32 - 129 < w then 2 ^ 32 - 256 else w - 128
  BitVec.ofNat 32 (lo + (wm8 + 256 - lo % 256) % 256)

/-- The restored waymark of a packet. -/
def State.pktWm (s : State) (a : TileAddr) (p : Packet) : Waymark := restoreWm (s.fldWm a.fld.plane) p.wm8

/-! ### Endpoint tables (R221) -/

/-- An entry of the endpoint table. -/
abbrev EpEntry := BitVec 128

def EpEntry.typ (e : EpEntry) : Nat := wbits e 2 1
def EpEntry.dest (e : EpEntry) : Nat × Nat := (wbits e 25 16, wbits e 35 26)
def EpEntry.port (e : EpEntry) : Nat := wbits e 78 76
def EpEntry.ebase (e : EpEntry) : Nat := wbits e 126 79

/-- The entry carries a reserved value, or is not in use for the endpoint (R223 NO_ENTRY). -/
def EpEntry.bad (e : EpEntry) (ep : Nat) : Bool :=
  wbits e 0 0 == 0 || wbits e 10 3 != natBits 23 16 ep || e.typ == 3 || wbits e 15 14 == 3 || wbits e 127 127 == 1

def FieldSt.entry (f : FieldSt) (ep : Nat) : EpEntry := look (fun _ => 0) f.ept (ep % 65536)

/-- The points of a path after its source (R222). -/
def EpEntry.points (e : EpEntry) : List (Nat × Nat) :=
  [(wbits e 45 36, wbits e 55 46), (wbits e 65 56, wbits e 75 66)].take (wbits e 15 14) ++ [e.dest]

/-- The one or two parts of a leg (R222). -/
def legSegs (rowFirst : Bool) (q d : Nat × Nat) : List (Nat × Nat) :=
  let col := if q.2 < d.2 then [(1, d.2 - q.2)] else if d.2 < q.2 then [(3, q.2 - d.2)] else []
  let row := if q.1 < d.1 then [(2, d.1 - q.1)] else if d.1 < q.1 then [(0, q.1 - d.1)] else []
  if rowFirst then row ++ col else col ++ row

/-- The legs from a point on; `k` is the leg's number. -/
def legs (e : EpEntry) (k : Nat) (q : Nat × Nat) : List (Nat × Nat) → List (Nat × Nat)
  | [] => []
  | d :: r => legSegs (wbits e (11 + k) (11 + k) == 1) q d ++ legs e (k + 1) d r

/-- Neighbouring segments of one direction joined (R222). -/
def joinSegs (l : List (Nat × Nat)) : List (Nat × Nat) :=
  l.foldr (fun x acc => match acc with
    | y :: r => if x.1 = y.1 then (x.1, x.2 + y.2) :: r else x :: acc
    | [] => [x]) []

/-- The composed path: directions and lengths (R222). -/
def composePath (src : Nat × Nat) (e : EpEntry) : List (Nat × Nat) := joinSegs (legs e 0 src e.points)

/-- The position at the end of a path. -/
def endOf (q : Nat × Nat) : List (Nat × Nat) → Nat × Nat
  | [] => q
  | (d, n) :: r => endOf ((stepPos q d n).getD q) r

/-! ### Refusals (R223) -/

/-- A row or column of the field holds a fenced router (R224). -/
def FieldSt.rowSplit (f : FieldSt) (r : Nat) : Bool := f.fence.any (fun e => e.2.getLsbD 1 && e.1 / 128 == r)
def FieldSt.colSplit (f : FieldSt) (c : Nat) : Bool := f.fence.any (fun e => e.2.getLsbD 1 && e.1 % 128 == c)

/-- MC_SPAN and MC_SPLIT of a multicast's path. -/
def State.mcCause (s : State) (p : Fin 2) (src : Nat × Nat) (segs : List (Nat × Nat)) : Option Nat :=
  match segs.getLast? with
  | none => none
  | some (d, n) =>
    let q := endOf src segs.dropLast
    let t := endOf src segs
    if q.1 / 96 != t.1 / 96 || q.2 / 128 != t.2 / 128 || decide (127 < n) then some 5
    else
      match tileAt p q.1 q.2 with
      | some a =>
        let f := s.fieldSt a.fld
        if (if d % 2 = 1 then f.rowSplit a.row else f.colSplit a.col) then some 6 else none
      | none => none

/-- The refusal cause of a send to an endpoint by the table of field `f` from plane position `src`, or none. -/
def State.sendCause (s : State) (f : FieldAddr) (src : Nat × Nat) (ep cls : Nat) (mc : Bool) : Option Nat :=
  let e := (s.fieldSt f).entry ep
  if e.bad ep then some 0
  else if e.typ != 0 && (cls == 1 || cls == 2 || (cls == 0 && mc)) || (e.typ == 1 && cls == 3) then some 1
  else
    let segs := composePath src e
    if segs.isEmpty then some 2
    else if decide (7 < segs.length) || segs.any (fun x => decide (1023 < x.2)) then some 3
    else if (cls == 1 || cls == 2) && decide (4 < segs.length) then some 4
    else if cls == 0 && mc then s.mcCause f.plane src segs
    else none

/-! ### Composing a packet -/

/-- A packet on the path of an endpoint table entry: path, extension word where R220 asks for one, and header. `payload`
is what follows the extension word; `len` is LEN without it. -/
def EpEntry.packet (e : EpEntry) (src : Nat × Nat) (ep cls : Nat) (mc : Bool) (epoch : BitVec 2)
    (srcEp wm8 addr len aux : Nat) (payload : List Byte) (gen : Nat := 0) : Packet :=
  let segs := composePath src e
  let code (i : Nat) : Nat := match segs[i]? with | some (d, n) => n <<< 2 + d | none => 0
  let ext := decide (4 < segs.length) || (cls == 0 && e.typ != 0)
  let w := ep + code 4 <<< 24 + code 5 <<< 36 + code 6 <<< 48
  { hdr := BitVec.ofNat 128 (cls + epoch.toNat <<< 2 + segs.length <<< 4 + boolNat mc <<< 7 + code 0 <<< 8 + code 1 <<< 20 +
      code 2 <<< 32 + code 3 <<< 44 + srcEp <<< 56 + wm8 <<< 80 + addr <<< 88 + (len + boolNat ext) <<< 107 + aux <<< 112)
    payload := (if ext then leBytes 8 w else []) ++ payload
    entry := e, copied := true, nanGen := gen }

/-- A packet to an endpoint by the table of a field. -/
def State.mkPacket (s : State) (f : FieldAddr) (src : Nat × Nat) (ep cls : Nat) (mc : Bool) (epoch : BitVec 2)
    (srcEp wm8 addr len aux : Nat) (payload : List Byte) (gen : Nat := 0) : Packet :=
  EpEntry.packet ((s.fieldSt f).entry ep) src ep cls mc epoch srcEp wm8 addr len aux payload gen

/-- The packet carries an extension word (R220). -/
def Packet.hasExt (p : Packet) : Bool :=
  (p.cls == 0 || p.cls == 3) && (decide (4 < p.nseg) || (p.cls == 0 && EpEntry.typ p.entry != 0))

/-- The payload after the extension word. -/
def Packet.body (p : Packet) : List Byte := if p.hasExt then p.payload.drop 8 else p.payload

/-! ### Input buffers (R231) -/

def Tile.bufOf (t : Tile) (input cls : Nat) : List Packet := look (fun _ => []) t.inbuf (4 * input + cls)

def Tile.setBuf (t : Tile) (input cls : Nat) (q : List Packet) : Tile :=
  { t with inbuf := put (fun _ => []) t.inbuf (4 * input + cls) q }

/-- Whole packets that an input buffer holds (R231). -/
def bufDepth (cls : Nat) : Nat := if cls = 3 then 1 else 2

def Tile.bufRoom (t : Tile) (input cls : Nat) : Bool := decide ((t.bufOf input cls).length < bufDepth cls)

/-- A packet that a tile or a unit puts into the local input of a router. -/
def State.inject (s : State) (a : TileAddr) (p : Packet) : State :=
  let t := s.tile a
  s.setTile a (t.setBuf 0 p.cls (t.bufOf 0 p.cls ++ [p]))

/-! ### Captured events (R271) -/

/-- A packet event in MESH.EVENT_FIRST. -/
def State.meshEvent (s : State) (a : TileAddr) (kind cls cause : Nat) (wm : Waymark) (src aux addr : Nat) : State :=
  let first : W64 := BitVec.ofNat 64 (kind + a.row.val <<< 4 + a.col.val <<< 11 + cls <<< 18 + cause <<< 20 + 1 <<< 31 +
    wm.toNat <<< 32)
  s.captureTile F.MESH_EVENT_FIRST_VALID a.fld.inst (some 1) 4 first
    [(0x0D0, BitVec.ofNat 64 (src + aux <<< 24 + addr <<< 40)), (0x0D8, s.cycleOf a.fld)]

def State.pktEvent (s : State) (a : TileAddr) (kind cause : Nat) (p : Packet) : State :=
  s.meshEvent a kind p.cls cause (s.pktWm a p) p.src p.aux p.addr

/-- The error record of an isolation, a deadlock or a stall (R261, R266, R267). -/
def State.meshRecord (s : State) (a : TileAddr) (kind : Nat) (p : Packet) : State :=
  let wm := s.pktWm a p
  let first : W64 := BitVec.ofNat 64 (kind + a.row.val <<< 4 + a.col.val <<< 11 + p.cls <<< 18 + 1 <<< 31 + wm.toNat <<< 32)
  s.raise (s.errRec 0x1802 2 true wm a.fld.inst (.tile a 0) p.cls 4
    [first, BitVec.ofNat 64 (p.src + p.aux <<< 24 + p.addr <<< 40), s.cycleOf a.fld])

/-- A mismatched reduction: discarded, counted, captured, and the pass aborts (R250, R301). -/
def State.redMismatch (s : State) (a : TileAddr) (cause : Nat) (p : Packet) : State :=
  ((s.count C.MESH_RED_MISMATCH a.fld.inst 1).pktEvent a 1 cause p).reportCause a.fld 7 false a.row a.col 0

end Sys2Proof.Machine
end

