-- ==== Sys2Proof/Machine/TileEvents.lean ====
section
/-!
DEFINITION. The events of a tile beside its instructions: stale tokens, steering, local transfers, waiting tokens, the
read engine's deliveries, the gather buffer, write-backs, scrubbing, task drain and the task status snapshot.
Spec: 03_molcel_tile (R94 to R106, R118 to R120, R148, R149), 04 (R170, R177, R182, R185, R186).
-/
namespace Sys2Proof.Machine

/-! ### Stale tokens (R104, R106, R150) -/

/-- A stale token: discarded, counted, captured and recorded. `queue` is its QUEUE code. -/
def State.noteStale (s : State) (a : TileAddr) (queue task : Nat) (tok tile : BitVec 2) : State :=
  let first : W64 := BitVec.ofNat 64 (a.row.val + a.col.val <<< 7 + task <<< 14 + queue <<< 16 + tok.toNat <<< 20 +
    tile.toNat <<< 22 + 1 <<< 31 + (s.fldWm a.fld.plane).toNat <<< 32)
  let i := a.fld.inst
  let s := s.count C.TSQ_STALE_TOKENS i 1
  let s := s.captureTile F.TSQ_STALE_FIRST_VALID i (some 0) 0 first [(0x098, s.cycleOf a.fld)]
  s.raiseOnce i (s.errRec 0x1B01 1 true (s.fldWm a.fld.plane) i (.tile a task) 0 0 [first, s.cycleOf a.fld])

/-- A token enters a DQ; the epoch test of R104 stands before the entry. -/
def State.enterDq (s : State) (a : TileAddr) (n : Nat) (d : DataTok) : State :=
  let t := s.tile a
  if d.epoch != t.epoch then s.noteStale a n (bindOwner (t.dqBind n)) d.epoch t.epoch
  else s.setTile a (t.setDq n (t.dqOf n ++ [d]))

/-- A token enters a CQ; the epoch test of R104 stands before the entry. -/
def State.enterCq (s : State) (a : TileAddr) (n : Nat) (c : CtlTok) : State :=
  let t := s.tile a
  if c.epoch != t.epoch then s.noteStale a (8 + n) (bindOwner (t.cqBind n)) c.epoch t.epoch
  else s.setTile a (t.setCq n (t.cqOf n ++ [c]))

/-- A token that arrives where no queue is bound to receive it (R96). -/
def State.unbound (s : State) (a : TileAddr) : State := s.count C.TSQ_UNBOUND_TOKENS a.fld.inst 1

/-! ### The steering unit (R118 to R120) -/

def Tile.steerCfg (t : Tile) (ch : Nat) : W64 := look (fun _ => 0) t.steer ch

def steerEn (w : W64) : Bool := wbits w 0 0 == 1
def steerOwner (w : W64) : Nat := wbits w 2 1
def steerCtl (w : W64) : Nat := wbits w 4 3
def steerData (w : W64) : Nat := wbits w 7 5

/-- The outputs of a control kind: none where the channel does not execute the kind (R120). -/
def steerOuts (w : W64) (kind : Nat) : Option (List Nat) :=
  let act (v : Nat) : List Nat := match v with
    | 0 => [wbits w 11 8]
    | 1 => [wbits w 15 12]
    | 2 => [wbits w 11 8, wbits w 15 12]
    | _ => []
  match kind with
  | 0 => some (act (wbits w 17 16))
  | 1 => some (act (wbits w 19 18))
  | 2 => some (act 0)
  | 3 => some (act 1)
  | 4 => some []
  | _ => none

/-- STEERING_FIRE: both heads are dequeued together; the token goes to every output, or is discarded (R119, R120). -/
def execSteeringFire (a : TileAddr) (ch : Fin 4) (s : State) : Host.Outcome State Fault Refusal :=
  .next (
    let t := s.tile a
    let w := t.steerCfg ch
    if s.tileRuns a && steerEn w && !t.steerStuck.getLsbD ch then
      match (t.cqOf (steerCtl w)).head?, (t.dqOf (steerData w)).head? with
      | some c, some d =>
        match steerOuts w c.kind.toNat with
        | none => s
        | some outs =>
          if t.fits outs then
            let t := (t.dequeue (8 + steerCtl w)).dequeue (steerData w)
            let s := s.setTile a (outs.foldl (fun t o => t.enqueue o (.data d)) t)
            if outs.isEmpty then s.count C.TSQ_STEER_DISCARDS a.fld.inst 1 else s
          else s
      | _, _ => s
    else s)

/-- STEER_KIND: a kind that the channel does not execute stops it and faults its OWNER (R120). -/
def execSteerKind (a : TileAddr) (ch : Fin 4) (s : State) : Host.Outcome State Fault Refusal :=
  .next (
    let t := s.tile a
    let w := t.steerCfg ch
    if s.tileRuns a && steerEn w && !t.steerStuck.getLsbD ch then
      match (t.cqOf (steerCtl w)).head? with
      | some c =>
        if (steerOuts w c.kind.toNat).isNone then
          (s.setTile a { t with steerStuck := t.steerStuck ||| BitVec.ofNat 4 (2 ^ ch.val) }).faultTask a (steerOwner w) faultSteer ch 0
        else s
      | none => s
    else s)

/-! ### Queue transfers -/

/-- OQ_LOCAL_TRANSFER: the head of an OQ bound LOCAL moves into its DQ when there is room (R94). -/
def execOqLocalTransfer (a : TileAddr) (q : Fin 8) (s : State) : Host.Outcome State Fault Refusal :=
  .next (
    let t := s.tile a
    let b := t.oqBind q
    let n := wbits b 8 6
    if s.tileRuns a && bindEnd b == 7 && decide ((t.dqOf n).length < dqDepth) then
      match t.oqOf q with
      | .data d :: r => (s.setTile a (t.setOq q r)).enterDq a n d
      | _ => s
    else s)

/-- A token produced for a CQ without regard to room: it enters, or it waits at the tile, as it does behind a token that
waits there already (R97). ARRIVE tokens wait by landing, BARRIER tokens by channel. -/
def State.arrive (s : State) (a : TileAddr) (landing cq : Nat) : State :=
  let t := s.tile a
  if t.cqRoom cq then
    s.enterCq a cq { kind := 5, value := BitVec.ofNat 8 landing, epoch := t.epoch }
  else s.setTile a { t with waitArrive := t.waitArrive ||| BitVec.ofNat 16 (2 ^ landing) }

def State.barrierToken (s : State) (a : TileAddr) (channel cq : Nat) : State :=
  let t := s.tile a
  if t.cqRoom cq then
    s.enterCq a cq { kind := 6, value := BitVec.ofNat 8 channel, epoch := t.epoch }
  else s.setTile a { t with waitBarrier := put (fun _ => 4) t.waitBarrier channel cq }

/-- A lower landing has an ARRIVE that waits for the same CQ (R94). -/
def Tile.arriveBefore (t : Tile) (n cq : Nat) : Bool :=
  (List.range n).any (fun m => t.waitArrive.getLsbD m && landingCq (t.landingCfg m) == some cq)

/-- WAITING_TOKEN_ENTRY: a waiting token enters its CQ, in the order of R94, once an entry is free (R97). -/
def execWaitingTokenEntry (a : TileAddr) (barrier : Bool) (n : Fin 16) (s : State) : Host.Outcome State Fault Refusal :=
  .next (
    let t := s.tile a
    if !s.tileRuns a then s
    else if barrier then
      match t.waitBarrier.find? (fun e => e.1 == n.val) with
      | some (_, cq) =>
        if decide ((t.cqOf cq).length < cqDepth) && !t.arriveBefore 16 cq &&
            !t.waitBarrier.any (fun e => decide (e.1 < n.val) && e.2 == cq) then
          (s.setTile a { t with waitBarrier := put (fun _ => 4) t.waitBarrier n 4 }).enterCq a cq
            { kind := 6, value := BitVec.ofNat 8 n, epoch := t.epoch }
        else s
      | none => s
    else
      match landingCq (t.landingCfg n) with
      | some cq =>
        if t.waitArrive.getLsbD n && decide ((t.cqOf cq).length < cqDepth) && !t.arriveBefore n cq then
          (s.setTile a { t with waitArrive := t.waitArrive &&& ~~~(BitVec.ofNat 16 (2 ^ n.val)) }).enterCq a cq
            { kind := 5, value := BitVec.ofNat 8 n, epoch := t.epoch }
        else s
      | none => s)

/-- READ_TOKEN_DELIVERY: the oldest token of the read engine enters its DQ when there is room (R170, R174). -/
def execReadTokenDelivery (a : TileAddr) (s : State) : Host.Outcome State Fault Refusal :=
  .next (
    let t := s.tile a
    if !s.tileRuns a then s
    else match t.reads with
      | [] => s
      | j :: rest =>
        match j.toks with
        | [] => s.setTile a { t with reads := rest }
        | d :: ds =>
          if (t.dqOf j.dq).length < dqDepth then
            (s.setTile a { t with reads := if ds.isEmpty then rest else { j with toks := ds } :: rest }).enterDq a j.dq d
          else s)

/-! ### Task drain (R99) -/

/-- Every queue that the task owns is empty, and no token of an RDQ of the task waits. -/
def Tile.taskQuiet (t : Tile) (task : Nat) : Bool :=
  (List.range 8).all (fun n => (bindOwner (t.dqBind n) != task || (t.dqOf n).isEmpty) &&
    (bindOwner (t.oqBind n) != task || (t.oqOf n).isEmpty)) &&
  (List.range 4).all (fun n => bindOwner (t.cqBind n) != task || (t.cqOf n).isEmpty) &&
  t.reads.all (fun (j : ReadJob) => j.task != task)

/-- TASK_DRAINED (R99). -/
def execTaskDrained (a : TileAddr) (task : Fin 4) (s : State) : Host.Outcome State Fault Refusal :=
  .next (
    let t := s.tile a
    if s.tileRuns a && (t.task task).state == .done && t.taskQuiet task then
      s.setTile a (t.setTask task { t.task task with state := .drained })
    else s)

/-! ### Banks in the background -/

/-- GATHER_FLUSH: a flush that is not forced takes the oldest entry (R177). -/
def execGatherFlush (a : TileAddr) (s : State) : Host.Outcome State Fault Refusal :=
  .next (
    match (s.tile a).gather with
    | e :: _ => if s.tileRuns a then s.flushEntry a e else s
    | [] => s)

/-- CORRECTION_WRITEBACK: the oldest corrected row is written back; an uncorrectable word of it becomes poison (R182,
R185). -/
def execCorrectionWriteback (a : TileAddr) (s : State) : Host.Outcome State Fault Refusal :=
  .next (
    let t := s.tile a
    match t.wb with
    | [] => s
    | (deep, row) :: rest =>
      if !s.tileRuns a then s
      else
        let s := (s.setTile a { t with wb := rest }).countBank a deep 32
        (List.range 4).foldl (fun s w =>
          let off := 32 * row + 8 * w
          let t := s.tile a
          match t.mark deep off with
          | .good => s
          | .correctable => s.setTile a (t.setMark deep off .good)
          | .uncorr | .poison => (s.setTile a (t.setMark deep off .poison)).noteUe a deep off .scrub 0) s)

/-- The row that the scrub reads at a position: the near bank's 1,024 rows, then the 6,016 of the deep bank that are in
segments, RETAINED segments only; the spill area is reached only by the spill path (R154, R186). -/
def Tile.scrubRow (t : Tile) (pos : Nat) : Option (Bool × Nat) :=
  if pos < 1024 then some (false, pos)
  else if decide (7040 ≤ pos) then none
  else if (t.seg (segOf (32 * (pos - 1024)))).state == .retained then some (true, pos - 1024) else none

/-- The next position at or after `pos` that the scrub reads; the near bank is always read. -/
def Tile.scrubNext (t : Tile) (pos : Nat) : Nat :=
  if pos < 1024 then pos
  else
    match (List.range 8).find? (fun g => decide (pos - 1024 < min (768 * (g + 1)) 6016) && (t.seg g).state == .retained) with
    | some g => max pos (1024 + 768 * g)
    | none => 0

/-- A fault that a word of a bank has come by: 1 a single bit, 2 more than the code corrects. -/
def Tile.decay (t : Tile) (deep : Bool) (off err : Nat) : Tile :=
  match err with
  | 0 => t
  | 1 => if t.mark deep off == .good then t.setMark deep off .correctable else t
  | _ => if t.mark deep off == .poison then t else t.setMark deep off .uncorr

/-- SCRUB_READ: the tile reads its next row (R186). `err` is the fault that `word` of the row has come by since it was written:
0 none, 1 a bit that the code corrects, 2 more than it corrects. -/
def execScrubRead (a : TileAddr) (word : Fin 4) (err : Fin 3) (s : State) : Host.Outcome State Fault Refusal :=
  .next (
    let t := s.tile a
    if s.tileRuns a && s.getF F.SPD_CTL_SCRUB_EN a.fld.inst == 1 then
      let pos := t.scrubNext t.scrubPos
      match t.scrubRow pos with
      | some (deep, row) => ((s.setTile a ({ t with scrubPos := (pos + 1) % 7040 }.decay deep (32 * row + 8 * word.val) err)).readRow a deep row [] .scrub 0).1
      | none => s
    else s)

/-! ### The task status snapshot (R148, R149) -/

/-- A selector write of TSQ or SPD names a tile outside the field. -/
def badTileSel (v : W64) : Bool := decide (95 < wbits v 6 0)

/-- TSQ_SEL: a write of TSQ.SEL starts a snapshot (R148). -/
def State.tsqSel (s : State) (f : FieldAddr) (fw : Bool) (value : W64) : State :=
  s.regWrite fw ⟨.TSQ, f.inst⟩ 0x080 true value (badTileSel value) (s.getF F.TSQ_SEL_BUSY f.inst == 1)
    (fun s => s.setF F.TSQ_SEL_BUSY f.inst 1)

def execTsqSel (f : FieldAddr) (fw : Bool) (value : W64) (s : State) : Host.Outcome State Fault Refusal :=
  .next (s.tsqSel f fw value)

/-- The tile that a selector register of ROW [6:0] and COL [13:7] names. -/
def selTile (f : FieldAddr) (v : W64) : Option TileAddr :=
  if h : wbits v 6 0 < 96 ∧ wbits v 13 7 < 128 then some ⟨f, ⟨wbits v 6 0, h.1⟩, ⟨wbits v 13 7, h.2⟩⟩ else none

/-- The snapshot of TSQ.SEL arrives. -/
def State.tsqSnap (s : State) (f : FieldAddr) : State :=
  let v := s.reg ⟨.TSQ, f.inst⟩ 0x080
  if s.getF F.TSQ_SEL_BUSY f.inst == 1 then
    match selTile f v with
    | some a =>
      let t := s.tile a
      (s.setReg ⟨.TSQ, f.inst⟩ 0x088 ((t.task (wbits v 15 14)).status t.epoch)).setF F.TSQ_SEL_BUSY f.inst 0
    | none => s.setF F.TSQ_SEL_BUSY f.inst 0
  else s

end Sys2Proof.Machine
end

