-- ==== Sys2Proof/Machine/Segments.lean ====
section
/-!
DEFINITION. Deep segments: their state machine, segment commands and segment maps, waking, gating, and the segment
snapshot. Spec: 04_scratchpad (R187 to R197, R202, R203).
-/
namespace Sys2Proof.Machine

/-! ### One segment (R188) -/

/-- First bank offset and end of the task data of a segment; segment 7 ends at the spill area (R155). -/
def segLo (g : Nat) : Nat := 0x6000 * g
def segHi (g : Nat) : Nat := min (0x6000 * (g + 1)) 0x2F000

/-- The segment's rows at zero with valid check codes (R180, R188). -/
def Tile.clearSeg (t : Tile) (g : Nat) : Tile :=
  { t with deep := t.deep.filter (fun c => !(decide (segLo g ≤ c.1) && decide (c.1 < segHi g)))
           ecc := t.ecc.filter (fun c => !(decide (4096 + segLo g / 8 ≤ c.1) && decide (c.1 < 4096 + segHi g / 8)))
           wb := t.wb.filter (fun w => !(w.1 && decide (segLo g ≤ 32 * w.2) && decide (32 * w.2 < segHi g)))
           gather := t.gather.filter (fun (e : GatherEnt) => !(e.deep && decide (segLo g ≤ 32 * e.row) && decide (32 * e.row < segHi g))) }

/-- A command on a segment that is in no transition: its next state, or a waiting command (R188). -/
def segNext (x : Segment) (target : SegState) : Segment :=
  match x.state with
  | .off => if target = .off then x else { x with state := .waking, target := target }
  | .active | .retained => if target = .off then { x with state := .closing, target := .off } else { x with state := target, target := target }
  | .waking | .closing => { x with waiting := some target }

/-- A command reaches a segment of a tile; on entry to CLOSING its gather entries are flushed (R177, R188). -/
def State.segCommand (s : State) (a : TileAddr) (g : Nat) (target : SegState) : State :=
  let t := s.tile a
  let x := segNext { t.seg g with timedOut := false } target
  let s := s.setTile a (t.setSeg g x)
  if x.state = .closing && (t.seg g).state != .closing then
    (t.gather.filter (fun (e : GatherEnt) => e.deep && segOf (32 * e.row) == g)).foldl (fun s e => s.flushEntry a e) s
  else s

/-- A transition of a segment ends in a state; a waiting command then acts on it (R188). -/
def State.segReach (s : State) (a : TileAddr) (g : Nat) (st : SegState) (timedOut : Bool) : State :=
  let t := s.tile a
  let w := (t.seg g).waiting
  let s := s.setTile a ((t.clearSeg g).setSeg g { state := st, target := st, waiting := none, timedOut := timedOut })
  match w with
  | some target =>
    let s := s.segCommand a g target
    s.setTile a ((s.tile a).setSeg g { (s.tile a).seg g with timedOut := timedOut })
  | none => s

/-! ### Commands over a rectangle (R195, R202) -/

/-- The tiles of a rectangle of a field that are not fenced. -/
def State.rectTiles (s : State) (f : FieldAddr) (rl cl rh ch : Nat) : List TileAddr :=
  (List.finRange 96).flatMap (fun r => if rl ≤ r.val ∧ r.val ≤ rh then
    (List.finRange 128).filterMap (fun c =>
      if cl ≤ c.val ∧ c.val ≤ ch ∧ !s.tileFenced ⟨f, r, c⟩ then some ⟨f, r, c⟩ else none)
  else [])

/-- The segments of a mask. -/
def maskSegs (m : Nat) : List Nat := (List.range 8).filter (fun g => m.testBit g)

/-- A RUNNING task of the tile has a deep window that overlaps the segment (R195). -/
def Tile.segInUse (t : Tile) (g : Nat) : Bool :=
  (List.range 4).any (fun k =>
    let c := t.task k
    c.state == .running && c.limit true != 0 &&
      decide (32 * c.base true < 0x6000 * (g + 1)) && decide (0x6000 * g < 32 * (c.base true + c.limit true)))

def segTarget (v : Nat) : SegState := match v with | 0 => .off | 1 => .active | _ => .retained

/-- A segment of the tile is in a transition. -/
def Tile.segBusy (t : Tile) (m : Nat) : Bool :=
  (maskSegs m).any (fun g => let x := t.seg g
    x.state == .waking || x.state == .closing || x.waiting.isSome)

/-- The command or the segment map ends once every target segment has reached its target (R188, R202, R208). -/
def State.segFinish (s : State) (f : FieldAddr) : State :=
  let v := s.reg ⟨.SPD, f.inst⟩ 0x088
  let all := (s.fieldSt f).segMap
  if s.getF F.SPD_SEG_CMD_BUSY f.inst == 0 then s
  else
    let ts := if all then s.rectTiles f 0 0 95 127 else s.rectTiles f (wbits v 6 0) (wbits v 13 7) (wbits v 20 14) (wbits v 27 21)
    let m := if all then 0xFF else wbits v 35 28
    if ts.any (fun a => (s.tile a).segBusy m) then s
    else
      let late := ts.any (fun a => (maskSegs m).any (fun g => ((s.tile a).seg g).timedOut))
      let s := s.setField f { s.fieldSt f with segMap := false }
      let s := (s.setF F.SPD_SEG_CMD_BUSY f.inst 0).setF F.SPD_SEG_CMD_RESULT f.inst (if late then 2 else 0)
      s.setIrq .SPD f.inst 2

/-- A segment command starts, or is refused under R195; at a field on its way into layby, or out of it, too, which the rule does not name
(DESIGN CHOICE, assumption 87). -/
def State.segStart (s : State) (f : FieldAddr) : State :=
  let v := s.reg ⟨.SPD, f.inst⟩ 0x088
  let target := segTarget (wbits v 37 36)
  let gs := maskSegs (wbits v 35 28)
  let ts := s.rectTiles f (wbits v 6 0) (wbits v 13 7) (wbits v 20 14) (wbits v 27 21)
  if s.getF F.FPW_STATE_POWER f.inst != 0 then
    (s.setF F.SPD_SEG_CMD_RESULT f.inst 3).setIrq .SPD f.inst 2
  else if target == .off && ts.any (fun a => gs.any (fun g => ((s.tile a).seg g).state != .off &&
      ((s.tile a).seg g).state != .closing && (s.tile a).segInUse g)) then
    (s.setF F.SPD_SEG_CMD_RESULT f.inst 1).setIrq .SPD f.inst 2
  else
    let s := s.setF F.SPD_SEG_CMD_BUSY f.inst 1
    (ts.foldl (fun s a => gs.foldl (fun s g => s.segCommand a g target) s) s).segFinish f

/-- A write of SPD.SEG_CMD (R202). -/
def State.segCmdWrite (s : State) (f : FieldAddr) (fw : Bool) (value : W64) : State :=
  s.regWrite fw ⟨.SPD, f.inst⟩ 0x088 true value
    (decide (95 < wbits value 6 0) || decide (95 < wbits value 20 14) || decide (wbits value 20 14 < wbits value 6 0) ||
      decide (wbits value 27 21 < wbits value 13 7) || wbits value 35 28 == 0)
    (s.getF F.SPD_SEG_CMD_BUSY f.inst == 1)
    (fun s => if wbits value 38 38 == 1 then s.segStart f else s)

/-- The write carries GO and the target of the command. -/
def segCmdIs (value : W64) (target : Nat) : Bool := wbits value 38 38 == 1 && wbits value 37 36 == target

def execSegCmdOff (f : FieldAddr) (fw : Bool) (value : W64) (s : State) : Host.Outcome State Fault Refusal :=
  .next (if segCmdIs value 0 then s.segCmdWrite f fw value else s)

def execSegCmdActive (f : FieldAddr) (fw : Bool) (value : W64) (s : State) : Host.Outcome State Fault Refusal :=
  .next (if segCmdIs value 1 then s.segCmdWrite f fw value else s)

def execSegCmdRetained (f : FieldAddr) (fw : Bool) (value : W64) (s : State) : Host.Outcome State Fault Refusal :=
  .next (if segCmdIs value 2 then s.segCmdWrite f fw value else s)

/-! ### Dropped writes (R191, R193, R204) -/

/-- A write refused, discarded or absorbed, in SPD.DROP_FIRST. Causes: 0 LATE, 1 TIMEOUT, 2 ADDRESS, 3 CLOSING. -/
def State.dropFirst (s : State) (a : TileAddr) (deep : Bool) (seg cause : Nat) (p : Packet) : State × List W64 :=
  let ws : List W64 :=
    [BitVec.ofNat 64 (a.row.val + a.col.val <<< 7 + boolNat deep <<< 14 + seg <<< 15 + cause <<< 18 + 1 <<< 31 +
        (s.fldWm a.fld.plane).toNat <<< 32),
     BitVec.ofNat 64 (p.src + (s.pktWm a p).toNat <<< 32), s.cycleOf a.fld]
  (s.captureTile F.SPD_DROP_FIRST_VALID a.fld.inst (some 1) 0 (ws.getD 0 0)
    [(0x0A8, ws.getD 1 0), (0x0B0, ws.getD 2 0)], ws)

/-- A write absorbed at an OFF segment: cause 0 LATE, or 1 TIMEOUT where the segment gated by timeout under it (R193). -/
def State.lateWrite (s : State) (a : TileAddr) (seg cause : Nat) (p : Packet) : State :=
  let x := (s.count C.SPD_LATE_WRITES a.fld.inst 1).dropFirst a true seg cause p
  x.1.raiseOnce a.fld.inst (s.errRec 0x1C02 1 true (s.fldWm a.fld.plane) a.fld.inst (.tile a 0) 0 0 x.2)

/-! ### Ends of transitions (R192, R197) -/

/-- SEGMENT_WAKE_DONE: the segment is cleared and reaches its target. -/
def execSegmentWakeDone (a : TileAddr) (seg : Fin 8) (s : State) : Host.Outcome State Fault Refusal :=
  .next (
    let x := (s.tile a).seg seg
    if x.state == .waking && !(s.fieldSt a.fld).lost then (s.segReach a seg x.target false).segFinish a.fld else s)

/-- The landing that takes a reduction identifier. -/
def Tile.landingOf (t : Tile) (redId : Nat) : Option Nat :=
  (List.range 16).find? (fun n => wbits (t.landingCfg n) 137 137 == 1 && wbits (t.landingCfg n) 31 16 == redId)

/-- The packet in the landing buffer, if it writes a deep segment (R192). -/
def Tile.landingAt (t : Tile) (g : Nat) : Option Packet :=
  match t.landing with
  | none => none
  | some x =>
    let p := x.pkt
    let off := natBits 17 0 p.addr
    let meets (n : Nat) : Bool := segOf off == g || segOf (off + n - 1) == g
    match p.cls, t.landingOf p.aux with
    | 0, _ => if p.addr.testBit 18 && meets p.body.length then some p else none
    | 2, some n =>
      let l := t.landingCfg n
      if wbits l 130 130 == 1 && meets (p.len * elemSize (wbits l 3 0)) then some p else none
    | _, _ => none

/-- The in-flight count of a CLOSING segment, as far as the model holds accepted writes: its gather entries, and the packet in the
landing buffer (R192). -/
def Tile.inFlight (t : Tile) (g : Nat) : Nat :=
  (t.gather.filter (fun (e : GatherEnt) => e.deep && segOf (32 * e.row) == g)).length + (t.landingAt g).toList.length

/-- SEGMENT_GATE: a CLOSING segment with nothing in flight gates. -/
def execSegmentGate (a : TileAddr) (seg : Fin 8) (s : State) : Host.Outcome State Fault Refusal :=
  .next (
    let t := s.tile a
    if (t.seg seg).state == .closing && t.inFlight seg == 0 then (s.segReach a seg .off false).segFinish a.fld else s)

/-- GATE_TIMEOUT: a CLOSING segment gates when the timeout elapses, counted; the command ends TIMED_OUT. What the router still holds
for it is absorbed (R193). -/
def execGateTimeout (a : TileAddr) (seg : Fin 8) (s : State) : Host.Outcome State Fault Refusal :=
  .next (
    if ((s.tile a).seg seg).state == .closing then
      let rest := (s.tile a).landingAt seg
      let s := (s.count C.SPD_GATE_TIMEOUTS a.fld.inst 1).segReach a seg .off true
      let s := match rest with
        | some p => (s.setTile a { s.tile a with landing := none }).lateWrite a seg 1 p
        | none => s
      s.segFinish a.fld
    else s)

/-! ### The segment snapshot (R203) -/

def SegState.code : SegState → Nat
  | .off => 0 | .waking => 1 | .active => 2 | .retained => 3 | .closing => 4

def State.segSel (s : State) (f : FieldAddr) (fw : Bool) (value : W64) : State :=
  s.regWrite fw ⟨.SPD, f.inst⟩ 0x090 true value (badTileSel value) (s.getF F.SPD_SEG_SEL_BUSY f.inst == 1)
    (fun s => s.setF F.SPD_SEG_SEL_BUSY f.inst 1)

def execSegSel (f : FieldAddr) (fw : Bool) (value : W64) (s : State) : Host.Outcome State Fault Refusal :=
  .next (s.segSel f fw value)

/-- The snapshot of SPD.SEG_SEL arrives. -/
def State.segSnap (s : State) (f : FieldAddr) : State :=
  if s.getF F.SPD_SEG_SEL_BUSY f.inst == 1 then
    match selTile f (s.reg ⟨.SPD, f.inst⟩ 0x090) with
    | some a =>
      let v := (List.range 8).foldl (fun v g => v + ((s.tile a).seg g).state.code <<< (3 * g)) 0
      (s.setReg ⟨.SPD, f.inst⟩ 0x098 (BitVec.ofNat 64 v)).setF F.SPD_SEG_SEL_BUSY f.inst 0
    | none => s.setF F.SPD_SEG_SEL_BUSY f.inst 0
  else s

end Sys2Proof.Machine
end

