-- ==== Sys2Proof/Machine/Delivery.lean ====
section
/-!
DEFINITION. What a packet does at its destination router: the checks on an arriving write, landing writes, reduction
landings, refusals, control packets, edge writes and bridged packets. Spec: 03 (R129, R130), 04 (R190 to R193, R204),
05 (R235 to R240), 09 (R423), 10 (R491).
-/
namespace Sys2Proof.Machine

/-- One added to a counter; the page's interrupt bit is set when the counter leaves 0. -/
def State.countIrq (s : State) (c : Ctr) (inst bit : Nat) : State :=
  let s' := s.count c inst 1
  if s.getC c inst == 0 then s'.setIrq c.typ inst bit else s'

/-! ### Refused writes (R191) -/

/-- The refusal of a write at a CLOSING segment, sent to the source that the header names (R191, R238). -/
def State.closeNack (s : State) (a : TileAddr) (seg addr : Nat) (p : Packet) : State :=
  let s := ((s.count C.SPD_CLOSE_NACKS a.fld.inst 1).dropFirst a true seg 3 p).1
  if (s.sendCause a.fld (tilePos a) p.src 3 false).isSome then
    (s.count C.MESH_NACK_UNROUTED a.fld.inst 1).pktEvent a 5 0 p
  else
    let body := leBytes 8 (addr + (tilePos a).1 <<< 24 + (tilePos a).2 <<< 34 + seg <<< 44) ++
      leBytes 8 (s.pktWm a p).toNat
    s.inject a (s.mkPacket a.fld (tilePos a) p.src 3 false (s.tile a).epoch 0xFFFFFF (natBits 7 0 (s.fldWm a.fld.plane).toNat) 0 2 1 body)

/-! ### Arriving writes (R190) -/

/-- Bytes of a bank that packets and landings may reach (R154). -/
def openBytes (deep : Bool) : Nat := if deep then 0x2F000 else 0x7B00

/-- How an arriving write ends. -/
inductive Arrival where
  | done | dropped | waits
  deriving DecidableEq, Repr

/-- Bytes written at a bank offset: whole aligned rows directly, the rest in pieces of 8 bytes through the gather buffer,
and anything narrower as one piece (R175, R235). `fuel` bounds the pieces. -/
def writePieces (a : TileAddr) (deep : Bool) : Nat → Nat → List Byte → State → State
  | 0, _, _, s => s
  | fuel + 1, off, bs, s =>
    if bs.isEmpty then s
    else if off % 32 = 0 ∧ 32 ≤ bs.length then
      writePieces a deep fuel (off + 32) (bs.drop 32) (s.writeRows a deep off (bs.take 32))
    else
      let n := min (8 - off % 8) bs.length
      writePieces a deep fuel (off + n) (bs.drop n) (s.narrowWrite a deep off (bs.take n))

/-- A write from the router, after its epoch check: address, CLOSING, OFF, WAKING, and then performed (R190). `accepted`: the landing
buffer holds the packet already, and a CLOSING segment performs it (R192). -/
def State.routerWrite (s : State) (a : TileAddr) (accepted deep : Bool) (off : Nat) (bs : List Byte) (p : Packet) : State × Arrival :=
  let t := s.tile a
  let seg := segOf off
  let segs := if deep then [segOf off, segOf (off + bs.length - 1)] else []
  if openBytes deep < off + bs.length then
    (((s.count C.SPD_ADDR_REFUSED a.fld.inst 1).dropFirst a deep (if deep then min seg 7 else 0) 2 p).1, .dropped)
  else
    let st (x : SegState) : Option Nat := segs.find? (fun g => (t.seg g).state == x)
    match (if accepted then none else st .closing), st .off, st .waking with
    | some g, _, _ => (s.closeNack a g (off + boolNat deep <<< 18) p, .dropped)
    | none, some g, _ => (s.lateWrite a g 0 p, .dropped)
    | none, none, some _ => (s, .waits)
    | none, none, none => (writePieces a deep (bs.length + 1) off bs s, .done)

/-- A payload discarded at a fenced tile (R237). -/
def State.fencedDiscard (s : State) (a : TileAddr) (p : Packet) : State :=
  (s.count C.MESH_FENCED_DISCARDS a.fld.inst 1).pktEvent a 6 0 p

/-- An ACT packet acts on its tile: none while it waits (R190, R235, R236). A stale one at the scratchpad has no owner: TASK 0
(DESIGN CHOICE, assumption 86). -/
def State.deliverAct (s : State) (a : TileAddr) (accepted : Bool) (p : Packet) : Option State :=
  let t := s.tile a
  if p.epoch != t.epoch then some (s.noteStale a 0xD 0 p.epoch t.epoch)
  else
    let deep := p.addr.testBit 18
    let r := s.routerWrite a accepted deep (natBits 17 0 p.addr) p.body p
    match r.2 with
    | .waits => none
    | .dropped => some r.1
    | .done => some (if p.aux.testBit 12 then r.1.packetSignal a (natBits 11 0 p.aux) 1 p.src (s.pktWm a p) else r.1)

/-! ### Reduction landings (R62, R129, R130) -/

/-- Lane i of an EXACT payload; a NaN lane of `gen` came from operands that were not NaN. -/
def exactLane (b : List Byte) (gen i : Nat) : ExactVal :=
  let v := ExactVal.ofStatus (BitVec.ofNat 192 (leAt b (24 * i) 24)) (BitVec.ofNat 12 (natBits (12 * i + 11) (12 * i) (leAt b 120 8)))
  { v with nanIn := v.nanIn && !gen.testBit i }

/-- Lane i of a FAST payload: the value and WIN_LO, WIN_HI, HIGH. -/
def fastLane (b : List Byte) (i : Nat) : W32 × Bool × Bool × Bool :=
  let fl := leAt b 112 16
  (BitVec.ofNat 32 (leAt b (4 * i) 4), fl.testBit (3 * i), fl.testBit (3 * i + 1), fl.testBit (3 * i + 2))

/-- The flags of a rounded FAST lane: a NaN made by a merge, or by a tile's own sum, is no NaN operand (R69). -/
def genFlags (gen : Bool) (f : RFlags) : RFlags := if gen && f.nanIn then { f with nanIn := false, nanGen := true } else f

/-- One lane rounded by a landing: its bytes, window flags and condition flags. -/
def landLane (fast : Bool) (b : List Byte) (gen rfw : Nat) (tag wm : W32) (index : BitVec 48) (i : Nat) :
    List Byte × (Bool × Bool × Bool) × RFlags :=
  if fast then
    let x := fastLane b i
    match Fmt.ofCode (rfwFmt rfw) with
    | some f =>
      match f.enc with
      | some e =>
        let r := (Enc.fp32.decode x.1.toNat).round e (rfwRnd rfw) (rfwSat rfw) (srValue tag wm index)
        (leBytes (f.bits / 8) r.1, x.2, genFlags (gen.testBit i) r.2)
      | none => ([], x.2, {})
    | none => ([], x.2, {})
  else
    let v := exactLane b gen i
    let r := roundResult v rfw tag wm index
    (r.1, (v.winLo, v.winHi, v.high), r.2)

/-- A complete SUM packet at its landing: none while it waits. A stale one that no landing takes has no owner: TASK 0 (DESIGN CHOICE,
assumption 86). -/
def State.deliverSum (s : State) (a : TileAddr) (accepted : Bool) (p : Packet) : Option State :=
  let t := s.tile a
  let i := a.fld.inst
  let wm := s.pktWm a p
  let n := t.landingOf p.aux
  let l := match n with | some n => t.landingCfg n | none => 0
  if p.epoch != t.epoch then some (s.noteStale a 0xC (wbits l 136 135) p.epoch t.epoch)
  else
    match n with
    | none =>
      some ((s.countIrq C.TSQ_NO_LANDING i 2).raiseOnce i (s.errRec 0x1B03 2 true wm i (.tile a 0) 0 0
        [BitVec.ofNat 64 (p.src + p.aux <<< 24 + p.addr <<< 40)]))
    | some n =>
      let rfw := wbits l 15 0
      if t.waitArrive.getLsbD n then none
      else if rfwFast rfw != p.mc then some (s.redMismatch a 0 p)
      else
        let z := elemSize (rfwFmt rfw)
        let off := natBits 17 0 p.addr
        let index (k : Nat) : BitVec 48 :=
          BitVec.ofInt 48 ((wbits l 79 64 * 2 ^ 32 + wbits l 111 80 : Nat) + ((off + k * z : Nat) - (wbits l 129 112 : Nat) : Int) / z)
        let rs := (List.range p.len).map (fun k =>
          landLane p.mc p.body p.nanGen rfw (BitVec.ofNat 32 (wbits l 63 32)) wm (index k) k)
        let r := s.routerWrite a accepted (wbits l 130 130 == 1) off (rs.flatMap (fun x => x.1)) p
        match r.2 with
        | .waits => none
        | .dropped => some r.1
        | .done =>
          let s := if rfwFmt rfw == 12 then r.1 else rs.foldl (fun s x =>
            s.noteResult a (wbits l 136 135) wm x.2.1.1 x.2.1.2.1 x.2.1.2.2 x.2.2 (rfwRnd rfw == .sr) p.mc) r.1
          match landingCq l with
          | some cq => some (s.arrive a n cq)
          | none => some s

/-! ### Control packets (R191, R423, R235) -/

/-- A CTL packet acts by CKIND. The CHECK kinds carry what CHECK_FEED and the check tap move as whole events. -/
def State.deliverCtl (s : State) (a : TileAddr) (p : Packet) : State :=
  let t := s.tile a
  let i := a.fld.inst
  match natBits 3 0 p.aux with
  | 1 =>
    let ws := [BitVec.ofNat 64 (leAt p.body 0 8), BitVec.ofNat 64 (leAt p.body 8 8)]
    (s.countIrq C.SPD_NACKS_RECEIVED i 3).raiseOnce i (s.errRec 0x1C03 1 true (s.fldWm a.fld.plane) i (.tile a 0) 0 0 ws)
  | 2 =>
    if p.epoch != t.epoch then s.noteStale a 0xE 0 p.epoch t.epoch
    else s.packetSignal a (natBits 15 4 p.aux) (BitVec.ofNat 32 (leAt p.body 0 4)) p.src (s.pktWm a p)
  | _ => s

/-! ### The landing buffer (R97, R189, R192, R235, R242) -/

/-- The action of a packet that stands in the landing buffer, or enters it, by class: none while it waits. `accepted`: it stands there
already. The records of a WGT packet enter one at a time. -/
def State.act (s : State) (a : TileAddr) (accepted : Bool) (p : Packet) : Option State :=
  match p.cls with
  | 0 => s.deliverAct a accepted p
  | 1 => none
  | 2 => s.deliverSum a accepted p
  | _ => some (s.deliverCtl a p)

/-- A packet is handed to the landing buffer, which is free again when its action completes; none while the buffer is occupied. A
fenced tile discards it at once (R237, R243). -/
def State.land (s : State) (a : TileAddr) (p : Packet) : Option State :=
  if s.tileFenced a then some (s.fencedDiscard a p)
  else if (s.tile a).landing.isSome then none
  else match s.act a false p with
    | some s' => some s'
    | none => some (s.setTile a { s.tile a with landing := some { pkt := p, entered := 0 } })

/-- The packet in the landing buffer acts as soon as it can. -/
def State.landingWork (s : State) (a : TileAddr) : State :=
  match (s.tile a).landing with
  | none => s
  | some l => match s.act a true l.pkt with
    | some s' => s'.setTile a { s'.tile a with landing := none }
    | none => s

/-! ### Edge writes (R240) -/

/-- The edge unit holds a packet: the field that it enters at, or that it is destined for, is held (R253, R255). -/
def State.edgeBarred (s : State) (a : TileAddr) (p : Packet) : Bool :=
  s.getF F.MESH_DRAIN_STATE_HELD a.fld.inst == 1 ||
    (match tileAt a.fld.plane (EpEntry.dest p.entry).1 (EpEntry.dest p.entry).2 with
      | some b => s.getF F.MESH_DRAIN_STATE_HELD b.fld.inst == 1
      | none => false)

/-- What the edge units hold and no drain holds any more goes out (R255). -/
def State.edgeRelease (s : State) : State :=
  s.edgeHeld.foldl (fun s x => if s.edgeBarred x.1 x.2 then { s with edgeHeld := s.edgeHeld ++ [x] } else s.inject x.1 x.2)
    { s with edgeHeld := [] }

/-- A CTL SIGNAL of amount 1 back to the source of an edge write, or the loss counted. -/
def State.edgeSignal (s : State) (a : TileAddr) (p : Packet) : State :=
  if !p.aux.testBit 12 || p.src == 0xFFFFFF then s
  else if (s.sendCause a.fld (tilePos a) p.src 3 false).isSome then
    (s.count C.MESH_NACK_UNROUTED a.fld.inst 1).pktEvent a 5 0 p
  else
    let q := s.mkPacket a.fld (tilePos a) p.src 3 false p.epoch 0xFFFFFF p.wm8 0 1 (2 + natBits 11 0 p.aux <<< 4) (leBytes 8 1)
    if s.edgeBarred a q then { s with edgeHeld := s.edgeHeld ++ [(a, q)] } else s.inject a q

/-- An ACT packet for an EDGE endpoint at its attach router. -/
def State.deliverEdge (s : State) (a : TileAddr) (p : Packet) : State :=
  let pl := a.fld.plane
  let x := EpEntry.ebase p.entry + p.addr
  if s.edgeCapacity pl < x + p.body.length then s.count C.EMP_EDGE_REFUSED pl 1
  else ((s.edgeWrite pl x p.body).count C.EMP_EDGE_WRITE_BYTES pl p.body.length).edgeSignal a p

/-! ### The span bridge (R491) -/

/-- The other plane. -/
def otherPlane (p : Fin 2) : Fin 2 := if p = 0 then 1 else 0

/-- A packet at a bridge attach router: ACT crosses in a bridged frame to the facing router of the other plane (R23), CTL
is absorbed, and an isolated bridge side forwards nothing (R215, R490). -/
def State.deliverBridge (s : State) (a : TileAddr) (p : Packet) : State :=
  let side := if a.fld.plane = 0 then 1 else 3
  if (s.getF F.MESH_DRAIN_STATE_ISO_SIDE a.fld.inst).testBit side then
    (s.count C.MESH_DEAD_HOPS a.fld.inst 1).pktEvent a 0 0 p
  else if p.cls != 0 then s.count C.BRG_CROSS_REFUSED 0 1
  else
    { s with bridgeRx := s.bridgeRx ++
        [{ plane := otherPlane a.fld.plane, router := ((tilePos a).1, 1023 - (tilePos a).2), destEp := BitVec.ofNat 24 (leAt p.payload 0 3)
           srcEp := BitVec.ofNat 24 p.src, aux := BitVec.ofNat 16 p.aux, addr := BitVec.ofNat 19 p.addr
           wm := s.pktWm a p, payload := p.body }] }

end Sys2Proof.Machine
end

