-- ==== Sys2Proof/Machine/Hop.lean ====
section
/-!
DEFINITION. The routers of the far network and the neighbour ports: forwarding, multicast copies, in-network reduction,
delivery, emitters, and tokens between adjacent tiles. Spec: 05_gulnel_mesh (R209 to R251), 03 (R96).
-/
namespace Sys2Proof.Machine

/-! ### Links (R215, R261, R262, R545) -/

/-- What a hop meets: no way on (R215), a boundary that discards (R255, R545), backpressure, or a router. -/
inductive NextHop where
  | dead
  | absorb (b : TileAddr)
  | reset (b : TileAddr)
  | wait
  | go (b : TileAddr)
  deriving DecidableEq, Repr

/-- A link is isolated: `port` for the neighbour port, else the far link (R261). -/
def State.isolated (s : State) (a : TileAddr) (dir : Nat) (port : Bool) : Bool :=
  look (fun _ => false) (s.fieldSt a.fld).iso (8 * a.loc + dir + 4 * boolNat port)

/-- The field's routers stand still: lost, in reset, in layby or on the way into or out of it (R262). -/
def State.meshStopped (s : State) (f : FieldAddr) : Bool :=
  let w := s.getF F.FPW_STATE_POWER f.inst
  (s.fieldSt f).lost || w == 1 || w == 2 || w == 3

/-- The next router in a direction, as the sender sees it. -/
def State.nextHop (s : State) (a : TileAddr) (dir : Nat) (port : Bool) : NextHop :=
  match neighbour a dir with
  | none => .dead
  | some b =>
    if (!port && s.routerFenced b) || s.isolated a dir port then .dead
    else if (s.fieldSt b.fld).resetting then .reset b
    else if s.meshStopped b.fld || s.islandStopped b then .wait
    else if (s.fieldSt b.fld).absorbing then .absorb b
    else .go b

/-! ### The spill ring as packets (R198, R265) -/

/-- Payload bytes of a packet by its header (R216, R228, R229). -/
def hdrPayload (h : BitVec 128) : Nat :=
  if wbits h 1 0 = 0 ∨ wbits h 1 0 = 3 then 8 * wbits h 111 107 else 128

def spillBase : Nat := 0x2F000
def spillSlot (k : Nat) : Nat := 0x2F060 + 160 * k

/-- Ring read index, write index and count of the spill header (R198). -/
def Tile.ringRead (t : Tile) : Nat := (t.byte true (spillBase + 4)).toNat
def Tile.ringWrite (t : Tile) : Nat := (t.byte true (spillBase + 5)).toNat
def Tile.ringCount (t : Tile) : Nat := (t.byte true (spillBase + 6)).toNat

/-- The packet at the head of the spill ring. -/
def Tile.ringHead (t : Tile) : Option Packet :=
  match t.spilled with
  | [] => none
  | (e, c, g) :: _ =>
    let b := t.bytes true (spillSlot t.ringRead) 160
    let h : BitVec 128 := BitVec.ofNat 128 (leAt b 0 16)
    some { hdr := h, payload := bytesAt b 16 (hdrPayload h), entry := e, copied := c, nanGen := g }

/-- The spill ring holds a packet of a class, by the header in its slot. -/
def Tile.ringHolds (t : Tile) (cls : Nat) : Bool :=
  (List.range t.spilled.length).any (fun i => (t.byte true (spillSlot ((t.ringRead + i) % 25))).toNat % 4 == cls)

/-- The spill ring holds packets of an input and class, which go before those in the input's buffer (R265). -/
def State.ringOf (s : State) (a : TileAddr) (input cls : Nat) : Bool :=
  (s.tile a).spillInput == some input && (s.tile a).ringHolds cls

/-! ### In-network reduction (R246 to R251) -/

/-- The reduction table entry for a RED_ID. -/
def Tile.redEntry (t : Tile) (redId : Nat) : Option W64 :=
  (List.range 16).findSome? (fun n =>
    let e := look (fun _ => 0#64) t.rtab n
    if wbits e 0 0 == 1 && wbits e 23 8 == redId then some e else none)

/-- Contributions of a slot in the order local, N, E, S, W. -/
def MergeSlot.ordered (m : MergeSlot) : List Packet :=
  (List.range 5).filterMap (fun i => (m.got.find? (fun g => g.1 == i)).map (fun g => g.2))

/-- One EXACT lane of the merged sum (R248, R53). -/
def sumExact (ps : List Packet) (i : Nat) : ExactVal := (ps.map (fun p => exactLane p.payload p.nanGen i)).foldl ExactVal.add ExactVal.zero

/-- One FAST lane of the merged sum (R60, R248). -/
def sumFast (ps : List Packet) (i : Nat) : W32 × Nat :=
  let ls := ps.map (fun p => fastLane p.payload i)
  let bits := ls.foldl (fun m l => m ||| (boolNat l.2.1 + 2 * boolNat l.2.2.1 + 4 * boolNat l.2.2.2)) 0
  match ls with
  | [] => (0, bits)
  | l :: r => (r.foldl (fun x y => fpAdd x y.1) l.1, bits)

/-- The lanes of an exact sum whose NaN came from operands that were not NaN (R69). -/
def exactGen (vs : List ExactVal) : Nat :=
  (vs.mapIdx (fun i v => boolNat (v.cls == .nan && !v.nanIn) <<< i)).foldl (· + ·) 0

/-- A lane of a merged FAST sum is a NaN, and no contribution to it is a NaN of a NaN operand (R69). -/
def sumFastGen (ps : List Packet) (i : Nat) : Bool :=
  Enc.fp32.decode (sumFast ps i).1.toNat == .nan &&
    ps.all (fun p => Enc.fp32.decode (fastLane p.payload i).1.toNat != .nan || p.nanGen.testBit i)

/-- An EXACT payload of up to 5 lanes (R62). -/
def exactPayload (vs : List ExactVal) : List Byte :=
  bytesAt (vs.flatMap (fun v => leBytes 24 v.v.toNat)) 0 120 ++
    leBytes 8 ((vs.mapIdx (fun i v => v.status.toNat <<< (12 * i))).foldl (· + ·) 0)

/-- A FAST payload of up to 28 lanes (R62). -/
def fastPayload (vs : List (W32 × Nat)) : List Byte :=
  bytesAt (vs.flatMap (fun v => leBytes 4 v.1.toNat)) 0 112 ++
    leBytes 16 ((vs.mapIdx (fun i v => v.2 <<< (3 * i))).foldl (· + ·) 0)

/-- The merged packet of a closed slot: header and remaining path of the earliest input's contributor (R248). -/
def MergeSlot.close (m : MergeSlot) (fast : Bool) : Option Packet :=
  let ps := m.ordered
  match ps with
  | [] => none
  | p :: _ =>
    let body := if fast then fastPayload ((List.range m.lanes).map (sumFast ps))
      else exactPayload ((List.range m.lanes).map (sumExact ps))
    let gen := if fast then ((List.range m.lanes).map (fun i => boolNat (sumFastGen ps i) <<< i)).foldl (· + ·) 0
      else exactGen ((List.range m.lanes).map (sumExact ps))
    some { p with payload := body, nanGen := gen }

/-- A mismatched packet is discarded, and the slot that it would have joined never closes (R250). -/
def State.deadSlot (s : State) (a : TileAddr) (cause : Nat) (p : Packet) : State :=
  let t := s.tile a
  let mine (m : MergeSlot) : Bool := m.redId.toNat == p.aux && m.addr == p.addr
  let slots := if t.slots.any mine then t.slots.map (fun m => if mine m then { m with dead := true } else m)
    else t.slots ++ [{ redId := BitVec.ofNat 16 p.aux, addr := p.addr, lanes := p.len, dead := true, got := [] }]
  (s.setTile a { t with slots := slots }).redMismatch a cause p

/-- A SUM packet at a router with an entry for its RED_ID: joined, discarded, or none while it waits (R247 to R251). -/
def State.joinSlot (s : State) (a : TileAddr) (input : Nat) (p : Packet) (e : W64) : Option State :=
  let t := s.tile a
  let slot := t.slots.find? (fun (m : MergeSlot) => m.redId.toNat == p.aux && m.addr == p.addr)
  let deliver := wbits e 7 7 == 1
  if p.epoch != t.epoch then
    some (s.noteStale a 0xC (match t.landingOf p.aux with | some n => wbits (t.landingCfg n) 136 135 | none => 0)
      p.epoch t.epoch)
  else if slot.isNone && decide (8 ≤ t.slots.length) then none
  else if p.mc != (wbits e 1 1 == 1) then some (s.deadSlot a 0 p)
  else if (match slot with | some m => m.lanes != p.len | none => false) then some (s.deadSlot a 1 p)
  else if wbits e (2 + input) (2 + input) == 0 then some (s.deadSlot a 2 p)
  else if p.cur.isNone != deliver then some (s.deadSlot a 3 p)
  else
    let m := match slot with
      | some m => m
      | none => { redId := BitVec.ofNat 16 p.aux, addr := p.addr, lanes := p.len, dead := false, got := [] }
    if m.got.any (fun g => g.1 == input) then none
    else
      let m := { m with got := m.got ++ [(input, p)] }
      let rest := t.slots.filter (fun (x : MergeSlot) => !(x.redId.toNat == p.aux && x.addr == p.addr))
      if !m.dead && (List.range 5).all (fun i => wbits e (2 + i) (2 + i) == 0 || m.got.any (fun g => g.1 == i)) then
        some (s.setTile a { t with slots := rest, merged := t.merged ++ (m.close p.mc).toList })
      else some (s.setTile a { t with slots := rest ++ [m] })

/-- The head of a buffer removed. -/
def State.dropHead (s : State) (a : TileAddr) (input cls : Nat) : State :=
  let t := s.tile a
  s.setTile a (t.setBuf input cls ((t.bufOf input cls).drop 1))

/-- The SUM packet at the head of an input joins its slot where it can. -/
def State.joinInput (s : State) (a : TileAddr) (input : Nat) : State :=
  if s.ringOf a input 2 then s
  else
    match ((s.tile a).bufOf input 2).head? with
    | some p =>
      match (s.tile a).redEntry p.aux with
      | some e => match s.joinSlot a input p e with
        | some s' => s'.dropHead a input 2
        | none => s
      | none => s
    | none => s

/-! ### Multicast copies (R242, R243) -/

/-- The packet's copy for this router's tile, taken before the packet goes on; none while it waits. -/
def State.takeCopy (s : State) (a : TileAddr) (p : Packet) : Option State :=
  if p.copied || p.cur.isNone then some s else s.land a p

def State.copyInput (s : State) (a : TileAddr) (input : Nat) : State :=
  if s.ringOf a input 0 then s
  else
    match (s.tile a).bufOf input 0 with
    | p :: r =>
      if p.copied || p.cur.isNone then s
      else match s.takeCopy a p with
        | some s' => s'.setTile a ((s'.tile a).setBuf input 0 ({ p with copied := true } :: r))
        | none => s
    | [] => s

/-- What a router does before it forwards: the packet in the landing buffer acts if it can, copies are taken and sums join their slots. -/
def State.routerWork (s : State) (a : TileAddr) : State :=
  let s := s.landingWork a
  let s := (List.range 5).foldl (fun s i => s.copyInput a i) s
  (List.range 5).foldl (fun s i => s.joinInput a i) s

/-! ### Arbitration and forwarding (R214, R215, R232, R233) -/

/-- The far output has room for the packet, or the packet goes no further than the boundary. -/
def State.credit (s : State) (a : TileAddr) (dir cls : Nat) : Bool :=
  match s.nextHop a dir false with
  | .dead | .absorb _ | .reset _ => true
  | .wait => false
  | .go b => (s.tile b).bufRoom (inputOf dir) cls

/-- A packet that stands at a router is ready for the output. -/
def State.readyFor (s : State) (a : TileAddr) (dir : Nat) (p : Packet) : Bool :=
  p.dir == some dir && p.copied && !(p.cls == 2 && ((s.tile a).redEntry p.aux).isSome) && s.credit a dir p.cls

/-- 0 to n - 1 from k on, in turn. -/
def inTurn (n k : Nat) : List Nat := (List.range n).map (fun i => (k + i) % n)

/-- Where the packet that goes next stands. -/
inductive Source where
  | buf (input : Nat)
  | ring
  | merged (n : Nat)
  deriving DecidableEq, Repr

/-- The packet of a class that goes next on an output: a merged sum first, then the inputs in turn. -/
def State.pickClass (s : State) (a : TileAddr) (dir cls : Nat) : Option (Source × Packet) :=
  let t := s.tile a
  let merged := if cls == 2 then
      (t.merged.mapIdx (fun n p => (n, p))).findSome? (fun x =>
        if x.2.dir == some dir && s.credit a dir 2 then some (Source.merged x.1, x.2) else none)
    else none
  match merged with
  | some x => some x
  | none => (inTurn 5 (look (fun _ => 0) t.rr (16 * dir + 1 + cls))).findSome? (fun i =>
      if s.ringOf a i cls then
        match t.ringHead with
        | some p => if s.readyFor a dir p then some (.ring, p) else none
        | none => none
      else match (t.bufOf i cls).head? with
        | some p => if s.readyFor a dir p then some (.buf i, p) else none
        | none => none)

/-- The packet that goes next on an output: CTL first, then ACT, WGT and SUM in turn. -/
def State.pick (s : State) (a : TileAddr) (dir : Nat) : Option (Source × Packet) :=
  match s.pickClass a dir 3 with
  | some x => some x
  | none => (inTurn 3 (look (fun _ => 0) (s.tile a).rr (16 * dir))).findSome? (fun c => s.pickClass a dir c)

/-- A packet or a token reaches a field: its counts of flits change, so that its next sweep is the first one again, and a field that was
held and drained sweeps again (R253, R254, R256). -/
def State.arrivedAt (s : State) (f : FieldAddr) : State :=
  let x := s.fieldSt f
  if s.getF F.MESH_DRAIN_STATE_HELD f.inst == 0 then s
  else if s.getF F.MESH_DRAIN_STATE_DRAINED f.inst == 1 then
    (s.setField f { x with goodSweeps := 0, resweep := true }).setF F.MESH_DRAIN_STATE_DRAINED f.inst 0
  else s.setField f { x with goodSweeps := 0 }

def flitCtr (cls : Nat) : Ctr :=
  match cls with
  | 0 => C.MESH_FLIT_HOPS_ACT | 1 => C.MESH_FLIT_HOPS_WGT | 2 => C.MESH_FLIT_HOPS_SUM | _ => C.MESH_FLIT_HOPS_CTL

/-- A packet that has left its place goes over the link (R214, R215). -/
def State.transmit (s : State) (a : TileAddr) (dir : Nat) (p : Packet) : State :=
  let sent (s : State) : State := s.count (flitCtr p.cls) a.fld.inst p.flits
  match s.nextHop a dir false with
  | .dead => (s.count C.MESH_DEAD_HOPS a.fld.inst 1).pktEvent a 0 0 p
  | .absorb b => (sent s).count C.MESH_ABORT_DISCARDS b.fld.inst 1
  | .reset _ => (sent s).count C.PWR_RESET_DISCARDS 0 p.flits
  | .wait => s
  | .go b =>
    let s := (sent s).arrivedAt b.fld
    let t := s.tile b
    s.setTile b (t.setBuf (inputOf dir) p.cls (t.bufOf (inputOf dir) p.cls ++ [p.hop]))

/-- The arbitration pointers after a send (R233). -/
def State.turn (s : State) (a : TileAddr) (dir cls : Nat) (input : Option Nat) : State :=
  let t := s.tile a
  let rr := if cls < 3 then put (fun _ => 0) t.rr (16 * dir) ((cls + 1) % 3) else t.rr
  let rr := match input with | some i => put (fun _ => 0) rr (16 * dir + 1 + cls) ((i + 1) % 5) | none => rr
  s.setTile a { t with rr := rr }

/-- PACKET_HOP: copies are taken and sums merge; then the packet whose turn it is goes out (R214, R215, R231 to R233,
R241 to R251). -/
def execPacketHop (a : TileAddr) (dir : Fin 4) (s : State) : Host.Outcome State Fault Refusal :=
  .next (
    if s.meshStopped a.fld || s.islandStopped a || (s.fieldSt a.fld).resetting then s
    else
      let s := s.routerWork a
      match s.pick a dir with
      | some (.buf i, p) => ((s.dropHead a i p.cls).turn a dir p.cls (some i)).transmit a dir p
      | some (.merged n, p) =>
        ((s.setTile a { s.tile a with merged := (s.tile a).merged.eraseIdx n }).turn a dir 2 none).transmit a dir p
      | some (.ring, _) | none => s)

/-! ### Delivery (R235) -/

/-- A packet at its destination router acts by class; none while it waits. -/
def State.deliver (s : State) (a : TileAddr) (p : Packet) : Option State :=
  match EpEntry.typ p.entry, p.cls with
  | 1, 0 => some (s.deliverEdge a p)
  | 2, _ => some (s.deliverBridge a p)
  | _, _ => s.land a p

/-- A merged sum that is complete at this router, with its place (R249). -/
def Tile.completeSum (t : Tile) : Option (Nat × Packet) :=
  (t.merged.mapIdx (fun n p => (n, p))).find? (fun x => x.2.cur.isNone)

/-- PACKET_DELIVERY: the head packet of an input and class, or a completed sum, is handed to the tile, the edge port or
the bridge. -/
def execPacketDelivery (a : TileAddr) (input : Fin 5) (cls : Fin 4) (s : State) : Host.Outcome State Fault Refusal :=
  .next (
    if s.meshStopped a.fld || s.islandStopped a || (s.fieldSt a.fld).resetting then s
    else
      let s := s.routerWork a
      match (if cls.val = 2 then (s.tile a).completeSum else none) with
      | some (n, p) =>
        match s.deliver a p with
        | some s' => s'.setTile a { s'.tile a with merged := (s'.tile a).merged.eraseIdx n }
        | none => s
      | none =>
        if s.ringOf a input cls then s
        else
          match ((s.tile a).bufOf input cls).head? with
          | some p =>
            if p.cur.isSome || (p.cls == 2 && ((s.tile a).redEntry p.aux).isSome) then s
            else match s.deliver a p with
              | some s' => s'.dropHead a input cls
              | none => s
          | none => s)

/-! ### Towpath records (R228, R235) -/

/-- The queue that a source code feeds (R91). -/
def Tile.dqFrom (t : Tile) (source : Nat) : Option Nat := (List.range 8).find? (fun n => bindEnd (t.dqBind n) == source)
def Tile.cqFrom (t : Tile) (source : Nat) : Option Nat := (List.range 4).find? (fun n => bindEnd (t.cqBind n) == source)

/-- The token of a 41-byte record. -/
def recordToken (b : List Byte) : DataTok :=
  let m := leAt b 40 1
  { payload := BitVec.ofNat 256 (leAt b 0 32), scales := BitVec.ofNat 64 (leAt b 32 8), fmt := BitVec.ofNat 4 m
    saxis := m.testBit 4, epoch := BitVec.ofNat 2 (natBits 6 5 m) }

/-- WGT_RECORD_ENQUEUE: the next token record of the landing buffer enters its towpath input. -/
def execWgtRecordEnqueue (a : TileAddr) (s : State) : Host.Outcome State Fault Refusal :=
  .next (
    let t := s.tile a
    match t.landing with
    | none => s
    | some l =>
      if s.meshStopped a.fld || s.islandStopped a || (s.fieldSt a.fld).resetting then s
      else if l.pkt.cls != 1 then s.landingWork a
      else
        let d := recordToken (l.pkt.payload.drop (41 * l.entered))
        let next : Option Landing := if l.entered + 1 < l.pkt.len then some { l with entered := l.entered + 1 } else none
        let done (s : State) : State := s.setTile a { s.tile a with landing := next }
        match t.dqFrom (if l.pkt.aux.testBit 0 then 5 else 4) with
        | none => done (s.unbound a)
        | some n => if (t.dqOf n).length < dqDepth then done (s.enterDq a n d) else s)

/-! ### Emitters (R225 to R230) -/

/-- An emitter binding (R225). -/
abbrev Emitter := BitVec 128

def Emitter.dest (e : Emitter) : Nat := wbits e 23 0
def Emitter.cls (e : Emitter) : Nat := wbits e 25 24
def Emitter.mc (e : Emitter) : Bool := wbits e 26 26 == 1
def Emitter.tpp (e : Emitter) : Nat := wbits e 28 27 + 1
def Emitter.aux (e : Emitter) : Nat := wbits e 44 29
def Emitter.src (e : Emitter) : Nat := wbits e 100 77

def Tile.emitter (t : Tile) (q : Nat) : Emitter := look (fun _ => 0) t.emb q

/-- A refused send: counted, captured, recorded once per waymark, and reported to the Array Engine (R223, R301). -/
def State.sendRefused (s : State) (a : TileAddr) (task cause cls ep : Nat) : State :=
  let i := a.fld.inst
  let first : W64 := BitVec.ofNat 64 (a.row.val + a.col.val <<< 7 + task <<< 14 + cause <<< 16 + cls <<< 19 + 1 <<< 31 +
    (s.fldWm a.fld.plane).toNat <<< 32)
  let ws : List W64 := [first, BitVec.ofNat 64 ep, s.cycleOf a.fld]
  let s := (s.count C.MESH_SEND_REFUSED i 1).setErr .MESH i 0
  let s := s.captureTile F.MESH_REFUSE_FIRST_VALID i (some 0) 0 first [(0x0B8, ws.getD 1 0), (0x0C0, ws.getD 2 0)]
  let s := s.raiseOnce i (s.errRec 0x1801 2 (cause == 6) (s.fldWm a.fld.plane) i (.tile a task) cls 3 ws)
  s.reportCause a.fld (if cause == 6 then 6 else 5) (cause == 6) a.row a.col task

/-- A packet of a tile is injected, or refused. -/
def State.emit (s : State) (a : TileAddr) (task : Nat) (ep cls : Nat) (mc : Bool) (epoch : BitVec 2)
    (srcEp addr len aux : Nat) (payload : List Byte) (gen : Nat := 0) : State :=
  match s.sendCause a.fld (tilePos a) ep cls (mc && cls == 0) with
  | some c => s.sendRefused a task c cls ep
  | none => s.inject a (s.mkPacket a.fld (tilePos a) ep cls mc epoch srcEp (natBits 7 0 (s.fldWm a.fld.plane).toNat) (addr % 2 ^ 19) len aux payload gen)

/-- The data tokens of one epoch at the head of a queue, at most n. -/
def sameEpoch (n : Nat) (q : List OTok) : List DataTok :=
  let ds := q.map (fun x => match x with | .data d => some d | .ctl _ | .sum _ => none)
  match ds with
  | some d :: _ => (ds.takeWhile (fun x => match x with | some y => y.epoch == d.epoch | none => false)).filterMap id |>.take n
  | _ => []

/-- A SUM packet's worth of a contribution: how many elements, the payload (R229), and the lanes that are NaN without a NaN operand. -/
def sumPacket (x : SumTok) : Nat × List Byte × Nat :=
  let n := min x.elems.length (if x.fast then 28 else 5)
  let es := x.elems.take n
  (n, if x.fast then
      fastPayload (es.map (fun e => match e with
        | .fast v lo hi high _ => (v, boolNat lo + 2 * boolNat hi + 4 * boolNat high)
        | .exact _ => (0, 0)))
    else exactPayload (es.map (fun e => match e with | .exact v => v | .fast _ _ _ _ _ => ExactVal.zero)),
    (es.mapIdx (fun i e => boolNat (match e with | .fast _ _ _ _ g => g | .exact v => v.cls == .nan && !v.nanIn) <<< i)).foldl (· + ·) 0)

/-- A token record (R228). -/
def tokenRecord (d : DataTok) : List Byte :=
  leBytes 32 d.payload.toNat ++ leBytes 8 d.scales.toNat ++
    leBytes 1 (d.fmt.toNat + boolNat d.saxis <<< 4 + d.epoch.toNat <<< 5)

/-- EMITTER_SEND: an emitter injects a packet once enough tokens stand in its queue. -/
def execEmitterSend (a : TileAddr) (q : Fin 8) (s : State) : Host.Outcome State Fault Refusal :=
  .next (
    let t := s.tile a
    let b := t.oqBind q
    let e := t.emitter q
    let task := bindOwner b
    let oq := t.oqOf q
    if !s.tileRuns a || bindEnd b != 6 || !t.bufRoom 0 e.cls then s
    else
      match e.cls, oq with
      | 2, .sum x :: r =>
        let g := sumPacket x
        let rest := x.elems.drop g.1
        let s := s.setTile a (t.setOq q (if rest.isEmpty then r else
          .sum { x with elems := rest, addr := (x.addr + g.1 * x.step) % 2 ^ 19 } :: r))
        s.emit a task e.dest 2 x.fast x.epoch e.src x.addr g.1 e.aux g.2.1 g.2.2
      | 3, .data d :: r =>
        (s.setTile a (t.setOq q r)).emit a task e.dest 3 false d.epoch e.src 0 1 e.aux (leBytes 8 (wbits d.payload 31 0))
      | 0, .data _ :: _ | 1, .data _ :: _ =>
        let en := (s.fieldSt a.fld).entry e.dest
        let ext := e.cls == 0 && (decide (4 < (composePath (tilePos a) en).length) || en.typ != 0)
        let n := if ext then min e.tpp 3 else e.tpp
        let ds := sameEpoch n oq
        if ds.length < n && (t.task task).state != .done && ds.length == oq.length then s
        else
          match ds with
          | [] => s
          | d :: _ =>
            let t' := t.setOq q (oq.drop ds.length)
            if e.cls == 1 then
              (s.setTile a t').emit a task e.dest 1 false d.epoch e.src 0 ds.length e.aux (bytesAt (ds.flatMap tokenRecord) 0 128)
            else
              let sent := look (fun _ => 0) t.emSent q
              let wrap := 32 * wbits e 76 64
              let addr := wbits e 63 45 + (if wrap = 0 then sent else sent % wrap)
              let bytes := ds.flatMap (fun d => leBytes 32 d.payload.toNat)
              let refused := (s.sendCause a.fld (tilePos a) e.dest 0 e.mc).isSome
              let t' := if refused then t' else { t' with emSent := put (fun _ => 0) t'.emSent q.val (sent + bytes.length) }
              (s.setTile a t').emit a task e.dest 0 e.mc d.epoch e.src addr (bytes.length / 8) e.aux bytes
      | _, _ => s)

/-! ### Neighbour ports (R209, R215, R233) -/

/-- The lowest output queue bound to a sink that holds a token. -/
def Tile.oqFor (t : Tile) (sink : Nat) : Option Nat :=
  (List.range 8).find? (fun n => bindEnd (t.oqBind n) == sink && !(t.oqOf n).isEmpty)

/-- The queues whose tokens stand ready for a neighbour port, with their channels, in the order of the port: CTL, WGT, ACT (R233). -/
def Tile.portTokens (t : Tile) (side : Nat) : List (Nat × Nat) :=
  let tow := match side with | 1 => t.oqFor 4 | 3 => t.oqFor 5 | _ => none
  ((t.oqFor (8 + side)).map (fun n => (n, 3))).toList ++ (tow.map (fun n => (n, 1))).toList ++ ((t.oqFor side).map (fun n => (n, 0))).toList

/-- Tokens that a neighbour-port input buffer holds for each channel (R231). -/
def nbrDepth : Nat := 2

def Tile.nbufOf (t : Tile) (side cls : Nat) : List OTok := look (fun _ => []) t.nbuf (4 * side + cls)

def Tile.setNbuf (t : Tile) (side cls : Nat) (q : List OTok) : Tile := { t with nbuf := put (fun _ => []) t.nbuf (4 * side + cls) q }

/-- Tokens of an input buffer enter the queue bound to that input while it has room; where none is bound they are discarded (R96). The
number bounds them. -/
def nbrEnter (b : TileAddr) (side cls : Nat) : Nat → State → State
  | 0, s => s
  | n + 1, s =>
    let t := s.tile b
    let source := if cls == 1 then (if side == 3 then 4 else 5) else side
    match t.nbufOf side cls with
    | [] => s
    | x :: r =>
      let out := s.setTile b (t.setNbuf side cls r)
      match x with
      | .data d =>
        match t.dqFrom source with
        | none => nbrEnter b side cls n (out.unbound b)
        | some q => if (t.dqOf q).length < dqDepth then nbrEnter b side cls n (out.enterDq b q d) else s
      | .ctl c =>
        match t.cqFrom source with
        | none => nbrEnter b side cls n (out.unbound b)
        | some q => if (t.cqOf q).length < cqDepth then nbrEnter b side cls n (out.enterCq b q c) else s
      | .sum _ => nbrEnter b side cls n out

/-- A token leaves its output queue over a neighbour port (R273, R591). -/
def State.portSend (s : State) (a : TileAddr) (q cls : Nat) : State :=
  let t := s.tile a
  let s := (s.setTile a (t.setOq q ((t.oqOf q).drop 1))).count C.MESH_NBR_TOKENS a.fld.inst 1
  if cls == 1 then s.count C.FEN_TOW_TOKENS a.fld.inst 1 else s

/-- A token crosses into the input buffer of the adjacent tile, the first channel with a token and room there, and on into its queue. -/
def State.portCross (s : State) (a b : TileAddr) (side : Nat) : State :=
  let far := (side + 2) % 4
  let s := [3, 1, 0].foldl (fun s c => nbrEnter b far c nbrDepth s) s
  match ((s.tile a).portTokens side).find? (fun x => decide (((s.tile b).nbufOf far x.2).length < nbrDepth)) with
  | none => s
  | some (q, cls) =>
    let x := ((s.tile a).oqOf q).take 1
    let s := (s.portSend a q cls).arrivedAt b.fld
    nbrEnter b far cls nbrDepth (s.setTile b ((s.tile b).setNbuf far cls ((s.tile b).nbufOf far cls ++ x)))

/-- NEIGHBOUR_TOKEN: a token crosses a neighbour port into the adjacent tile, or is absorbed where there is no way on (R215, R255). -/
def execNeighbourToken (a : TileAddr) (side : Fin 4) (s : State) : Host.Outcome State Fault Refusal :=
  .next (
    if !s.tileRuns a then s
    else
      match s.nextHop a side true, ((s.tile a).portTokens side).head? with
      | .go b, _ => s.portCross a b side
      | .dead, some (q, cls) =>
        ((s.portSend a q cls).count C.MESH_DEAD_HOPS a.fld.inst 1).meshEvent a 0 cls 0 (s.fldWm a.fld.plane) 0 0 0
      | .absorb b, some (q, cls) => (s.portSend a q cls).count C.TSQ_ABORT_DISCARDS b.fld.inst 1
      | .reset _, some (q, cls) => s.portSend a q cls
      | _, _ => s)

end Sys2Proof.Machine
end

