-- ==== Sys2Proof/Machine/Drain.lean ====
section
/-!
DEFINITION. Drains, sweeps, isolation, the deadlock spill, the watchdog of the mesh, and the FEP window.
Spec: 05_gulnel_mesh (R253 to R267, R276), 03 (R101), 04 (R198 to R200), 07 (R348).
-/
namespace Sys2Proof.Machine

/-- Every tile address of a field. -/
def fieldTiles (f : FieldAddr) : List TileAddr :=
  (List.finRange 96).flatMap (fun r => (List.finRange 128).map (fun c => ⟨f, r, c⟩))

/-- The tiles of a field that are not at their reset. -/
def State.liveOf (s : State) (f : FieldAddr) : List TileAddr :=
  s.liveTiles.filterMap (fun e => if e.1.fld == f then some e.1 else none)

/-! ### Abort drain of a tile (R101, R255) -/

/-- Tokens of a tile's queues and neighbour-port buffers, with those that a read still has to deliver. -/
def Tile.queued (t : Tile) : Nat :=
  (t.dq.foldl (fun n e => n + e.2.length) 0) + (t.cq.foldl (fun n e => n + e.2.length) 0) +
    (t.oq.foldl (fun n e => n + e.2.length) 0) + (t.nbuf.foldl (fun n e => n + e.2.length) 0) + (t.reads.foldl (fun n (j : ReadJob) => n + j.toks.length) 0)

/-- Packets that stand in a tile's router, slots, landing buffer and spill ring. -/
def Tile.packets (t : Tile) : Nat :=
  (t.inbuf.foldl (fun n e => n + e.2.length) 0) + (t.slots.foldl (fun n (m : MergeSlot) => n + m.got.length) 0) +
    t.merged.length + (if t.landing.isSome then 1 else 0) + t.spilled.length

/-- The banks that a task owns cleared, their open work units abandoned (R101, R619). -/
def State.clearBanks (s : State) (a : TileAddr) (mask : BitVec 4) : State :=
  (List.range 4).foldl (fun s b =>
    if mask.getLsbD b then
      let s := s.tapDrop a b
      s.setTile a ((s.tile a).clearBank b)
    else s) s

/-- The spill ring empty: the header row written zero (R198, R199). -/
def Tile.clearRing (t : Tile) : Tile :=
  let u := t.storeWords true spillBase (List.replicate 32 0)
  { u with spilled := [], spillInput := none }

/-- The abort drain of one tile: tasks end DRAINED, tokens and packets are discarded and counted, gather entries are
flushed (R99, R101, R255). -/
def State.abortTile (s : State) (a : TileAddr) : State :=
  let t := s.tile a
  let i := a.fld.inst
  let s := s.count C.TSQ_ABORT_DISCARDS i t.queued
  let s := s.count C.MESH_ABORT_DISCARDS i t.packets
  let s := (List.range 4).foldl (fun s k =>
    let c := { (s.tile a).task k with watch := none }
    let s := s.setTile a ((s.tile a).setTask k c)
    if c.state == .running || c.state == .done || c.state == .faulted then
      let s := s.clearBanks a c.banks
      s.setTile a ((s.tile a).setTask k { (s.tile a).task k with state := .drained })
    else s) s
  let t := s.tile a
  let s := s.setTile a { t.clearRing with dq := [], cq := [], oq := [], nbuf := [], reads := [], waitArrive := 0, waitBarrier := []
                                          barLatch := 0, barCq := []
                                          inbuf := [], slots := [], merged := [], landing := none }
  s.flushAll a

/-! ### Drain commands (R255 to R259) -/

/-- The contexts that deliver into a field that becomes held return to HOLDING (R348). -/
def State.holdStreams (s : State) (f : FieldAddr) : State :=
  let hold (_ : Nat) (c : StreamCtx) : StreamCtx :=
    if c.state == .delivering && c.field == f.field.val then { c with state := .holding } else c
  { s with ctxs := mapKeys (fun _ => StreamCtx.reset) (fun k => k / 2 ^ 20 == f.plane.val) hold s.ctxs }

/-- A drain command ends with a result (R257 to R259, R269). -/
def State.drainEnd (s : State) (f : FieldAddr) (result : Nat) : State :=
  let s := s.setField f { s.fieldSt f with drain := none }
  ((s.setF F.MESH_DRAIN_CMD_BUSY f.inst 0).setF F.MESH_DRAIN_CMD_RESULT f.inst result).setIrq .MESH f.inst 2

/-- A drain command starts: 0 STOP, 1 ABORT, 2 RELEASE. The gather buffers are flushed (R177). What an ABORT absorbs it absorbs until
release; a release lets out what the edge units hold (R255). -/
def State.drainStart (s : State) (f : FieldAddr) (mode : Nat) : State :=
  let i := f.inst
  let power := s.getF F.FPW_STATE_POWER i
  let s := s.setF F.MESH_DRAIN_CMD_MODE i mode
  if mode = 2 then
    let s := s.setField f { s.fieldSt f with absorbing := false, resweep := false }
    (((s.setF F.MESH_DRAIN_STATE_HELD i 0).setF F.MESH_DRAIN_STATE_DRAINED i 0).edgeRelease).drainEnd f 3
  else if power = 1 ∨ power = 3 then s.drainEnd f 2
  else
    let s := ((s.setF F.MESH_DRAIN_STATE_HELD i 1).setF F.MESH_DRAIN_STATE_SWEEPS i 0).holdStreams f
    if power = 2 then ((s.setF F.MESH_DRAIN_STATE_DRAINED i 1).applyFences f).drainEnd f 0
    else
      let s := (s.setF F.MESH_DRAIN_STATE_DRAINED i 0).setF F.MESH_DRAIN_CMD_BUSY i 1
      let s := s.setField f { s.fieldSt f with drain := some mode, goodSweeps := 0, resweep := false,
                                                      absorbing := (s.fieldSt f).absorbing || mode == 1 }
      if mode = 1 then (s.liveOf f).foldl (fun s a => s.abortTile a) s
      else (s.liveOf f).foldl (fun s a => s.flushAll a) s

/-- A write of MESH.DRAIN_CMD (R259, R269). -/
def State.drainWrite (s : State) (f : FieldAddr) (fw : Bool) (value : W64) : State :=
  let go := wbits value 2 2 == 1
  let busy := s.getF F.MESH_DRAIN_CMD_BUSY f.inst == 1
  let takeover := wbits value 1 0 == 1 && (s.fieldSt f).drain == some 0
  s.regWrite fw ⟨.MESH, f.inst⟩ 0x098 true value false (go && busy && !takeover)
    (fun s => if go then s.drainStart f (wbits value 1 0) else s)

/-- The written value is a GO with the mode. -/
def drainIs (value : W64) (mode : Nat) : Bool := wbits value 2 2 == 1 && wbits value 1 0 == mode

/-- DRAIN_STOP (R255 to R257). -/
def execDrainStop (f : FieldAddr) (fw : Bool) (value : W64) (s : State) : Host.Outcome State Fault Refusal :=
  .next (if drainIs value 0 then s.drainWrite f fw value else s)

/-- DRAIN_ABORT (R255, R258, R259). -/
def execDrainAbort (f : FieldAddr) (fw : Bool) (value : W64) (s : State) : Host.Outcome State Fault Refusal :=
  .next (if drainIs value 1 then s.drainWrite f fw value else s)

/-- DRAIN_RELEASE (R255, R259). -/
def execDrainRelease (f : FieldAddr) (fw : Bool) (value : W64) (s : State) : Host.Outcome State Fault Refusal :=
  .next (if drainIs value 2 then s.drainWrite f fw value else s)

/-! ### The rate check (R297) -/

/-- Waymark of the pass of a plane. -/
def State.passWm (s : State) (p : Fin 2) : Waymark := BitVec.ofNat 32 (s.getF F.AEN_PASS_STATE_WAYMARK p)

/-- Declared and actual count of an item of the rate check (R297): 24 is the fold reader. -/
def Tile.rateItem (t : Tile) (item : Nat) : Nat × Nat :=
  if item < 24 then ((look (fun _ => 0#32) t.rates item).toNat, (look (fun _ => 0#32) t.counts item).toNat)
  else ((t.folds.foldl (fun n (e : FoldEnt) => n + e.count) 0), t.foldPos)

/-- The first item that differs; a count that has saturated mismatches. -/
def Tile.rateMismatch (t : Tile) : Option Nat :=
  (List.range 25).find? (fun k => (t.rateItem k).1 != (t.rateItem k).2 || (t.rateItem k).2 == 2 ^ 32 - 1)

/-- The rate check of a tile (R297). -/
def State.rateCheck (s : State) (a : TileAddr) : State :=
  match (s.tile a).rateMismatch with
  | none => s
  | some k =>
    let i := a.fld.inst
    let wm := s.passWm a.fld.plane
    let d := (s.tile a).rateItem k
    let first : W64 := BitVec.ofNat 64 (a.row.val + a.col.val <<< 7 + k <<< 14 + 1 <<< 31 + wm.toNat <<< 32)
    let cnt : W64 := BitVec.ofNat 64 (d.1 + d.2 <<< 32)
    let s := s.countWm C.PAS_RATE_MISMATCHES i 1 wm
    let s := s.captureFirst F.PAS_RATE_FIRST_VALID i (some 0) [(0x088, first), (0x090, cnt), (0x098, s.cycleOf a.fld)]
    let s := s.raiseOnce i (s.errRec 0x1D01 2 true wm i (.tile a 0) 0 0 [first, cnt, s.cycleOf a.fld])
    s.reportCause a.fld 0x0A true a.row a.col 0

/-- In FINISHING, once its field reports DRAINED, every tile of a field of the pass is checked against its rates. -/
def State.rateChecks (s : State) (f : FieldAddr) : State :=
  if s.getF F.AEN_PASS_STATE_STATE f.plane == 4 && s.getF F.PAS_RUN_IN_PASS f.inst == 1 then
    (s.liveOf f).foldl (fun s a => if s.tileFenced a then s else s.rateCheck a) s
  else s

/-! ### Sweeps (R253, R254) -/

/-- A field of a plane that is bound to a slot of the pass, with its PAS.RUN.IN_PASS. -/
def State.passFields (s : State) (p : Fin 2) : List FieldAddr :=
  (List.finRange 60).filterMap (fun f => if s.getF F.PAS_RUN_IN_PASS (FieldAddr.inst ⟨p, f⟩) == 1 then some ⟨p, f⟩ else none)


/-- A tile meets its part of condition 2, and none of its tasks is RUNNING (R253). -/
def Tile.drained (t : Tile) : Bool :=
  t.queued == 0 && t.packets == 0 && t.gather.isEmpty && t.waitArrive == 0 && t.waitBarrier.isEmpty &&
    (List.range 4).all (fun k => (t.task k).state != .running)

/-- Isolated links whose retest has passed return to service with a drain; a side without an isolated link shows so, unless it is
the side of the bridge (R606). -/
def State.rejoinLinks (s : State) (f : FieldAddr) : State :=
  let x := s.fieldSt f
  if x.isoPass.isEmpty then s
  else
    let iso := x.iso.filter (fun e => !x.isoPass.contains e.1)
    let bridge := if f.plane = 0 then 1 else 3
    let mask := s.getF F.MESH_DRAIN_STATE_ISO_SIDE f.inst
    let keep := (List.range 4).filter (fun d => mask.testBit d && (d == bridge || iso.any (fun e => e.1 % 4 == d)))
    (s.setField f { x with iso := iso, isoPass := [] }).setF F.MESH_DRAIN_STATE_ISO_SIDE f.inst ((keep.map (fun d => 2 ^ d)).foldl (· + ·) 0)

/-- No bank of a tile holds an access: a correction that a tile whose sequencers are off cannot write back holds none (R179). -/
def State.banksQuiet (s : State) (a : TileAddr) : Bool := (s.tile a).wb.isEmpty || !s.tileRuns a

/-- DRAIN_SWEEP: two consecutive sweeps with every condition true, between which nothing has arrived, end the command, or the sweeps of
a drained field that a packet has reached (R253, R254, R256). The flits that a link sends are received with the hop that carries them,
so condition 3 always holds. -/
def execDrainSweep (f : FieldAddr) (s : State) : Host.Outcome State Fault Refusal :=
  .next (
    let x := s.fieldSt f
    if (x.drain.isNone && !x.resweep) || x.lost || x.resetting then s
    else
      let n := s.getF F.MESH_DRAIN_STATE_SWEEPS f.inst
      let s := s.setF F.MESH_DRAIN_STATE_SWEEPS f.inst (min (2 ^ 32 - 1) (n + 1))
      if (s.liveOf f).all (fun a => (s.tile a).drained && s.banksQuiet a) then
        if x.goodSweeps = 0 then s.setField f { s.fieldSt f with goodSweeps := 1 }
        else
          let s := ((s.rejoinLinks f).setF F.MESH_DRAIN_STATE_DRAINED f.inst 1).applyFences f
          let s := s.setField f { s.fieldSt f with resweep := false }
          if x.drain.isSome then (s.drainEnd f 0).rateChecks f else s
      else s.setField f { s.fieldSt f with goodSweeps := 0 })

/-- A DONE task of the field's tiles owns a queue that holds a token (R302). -/
def State.stuckDone (s : State) (f : FieldAddr) : Bool :=
  s.liveTiles.any (fun e => e.1.fld == f && (List.range 4).any (fun k => (e.2.task k).state == .done &&
    (e.2.dq.any (fun q => !q.2.isEmpty && bindOwner (e.2.dqBind q.1) == k) ||
     e.2.cq.any (fun q => !q.2.isEmpty && bindOwner (e.2.cqBind q.1) == k) ||
     e.2.oq.any (fun q => !q.2.isEmpty && bindOwner (e.2.oqBind q.1) == k))))

/-- DRAIN_TIMEOUT: a STOP drain ends TIMED_OUT; the field stays held (R257). In LOADING and FINISHING it is an abort
cause of the pass, as R302 substitutes it in FINISHING. -/
def execDrainTimeout (f : FieldAddr) (s : State) : Host.Outcome State Fault Refusal :=
  .next (
    if (s.fieldSt f).drain == some 0 then
      let st := s.getF F.AEN_PASS_STATE_STATE f.plane
      let cause := if st == 4 && (s.passFields f.plane).any s.stuckDone then 0x0A else 0x0B
      let s := s.drainEnd f 1
      if (st == 1 || st == 4) && s.getF F.PAS_RUN_IN_PASS f.inst == 1 then
        { s with causes := s.causes ++ [{ plane := f.plane, cause := cause, hardware := true, slot := (s.slotOfField f).getD 0
                                          row := 0, col := 0, task := 0, named := false, cyc := s.cycleOf f, age := 0 }] }
      else s
    else s)

/-! ### Isolation (R261) -/

/-- The retest of an isolated link whose two routers lie in one field: it condemns the routers at which it fails, and where it
fails at neither the link returns to service after the next drain (R606). -/
def State.retestLink (s : State) (a b : TileAddr) (key : Nat) (here far : Bool) : State :=
  if a.fld != b.fld then s
  else
    let s := if here then s.condemn a true 0x1802 (s.fldWm a.fld.plane) else s
    let s := if far then s.condemn b true 0x1802 (s.fldWm a.fld.plane) else s
    if here || far then s
    else let x := s.fieldSt a.fld; s.setField a.fld { x with isoPass := x.isoPass ++ [key] }

/-- LINK_ISOLATION: a link without an acknowledgement for BND_TIMEOUT. Boundaries into a field in layby, waking or parked
hold backpressure and are not isolated. `here` and `far`: its retest fails at this router, and at the other. -/
def execLinkIsolation (a : TileAddr) (side : Fin 4) (port here far : Bool) (s : State) : Host.Outcome State Fault Refusal :=
  .next (
    match neighbour a side with
    | none => s
    | some b =>
      let power := s.getF F.FPW_STATE_POWER b.fld.inst
      let away := b.fld != a.fld && !(s.fieldSt b.fld).lost && (2 ≤ power || (s.fieldSt b.fld).resetting)
      if away || s.isolated a side port || (s.fieldSt a.fld).lost then s
      else
        let x := s.fieldSt a.fld
        let i := a.fld.inst
        let s := s.setField a.fld { x with iso := put (fun _ => false) x.iso (8 * a.loc + side + 4 * boolNat port) true }
        let mask := s.getF F.MESH_DRAIN_STATE_ISO_SIDE i
        let first := !mask.testBit side
        let s := s.setF F.MESH_DRAIN_STATE_ISO_SIDE i (mask ||| 2 ^ side.val)
        let s := ((s.setErr .MESH i 3).setIrq .MESH i 5).meshEvent a 4 0 0 (s.fldWm a.fld.plane) 0 0 0
        let s := if first then
            s.raise (s.errRec 0x1802 2 true (s.fldWm a.fld.plane) i (.tile a 0) 0 4
              [BitVec.ofNat 64 (4 + a.row.val <<< 4 + a.col.val <<< 11 + 1 <<< 31 + (s.fldWm a.fld.plane).toNat <<< 32), 0, s.cycleOf a.fld])
          else s
        s.retestLink a b (8 * a.loc + side + 4 * boolNat port) here far)

/-! ### The deadlock spill (R263 to R266) -/

/-- The head packet of an input can depart: over its output, into a merge slot, or into the tile. -/
def State.canDepart (s : State) (a : TileAddr) (input : Nat) (p : Packet) : Bool :=
  match (if p.cls == 2 then (s.tile a).redEntry p.aux else none) with
  | some e => (s.joinSlot a input p e).isSome
  | none =>
    match p.dir with
    | some d => (s.takeCopy a p).isSome && s.credit a d p.cls
    | none => (s.deliver a p).isSome

/-- The packet as bytes of a spill slot: header, payload, zeros (R198). -/
def slotBytes (p : Packet) : List Byte := bytesAt (leBytes 16 p.hdr.toNat ++ p.payload) 0 160

/-- The spill header with the ring's mask, indexes and count: its row written whole (R198, R199). -/
def Tile.setRing (t : Tile) (mask rd wr n : Nat) : Tile :=
  t.storeWords true spillBase (bytesAt (leBytes 4 mask ++ leBytes 1 rd ++ leBytes 1 wr ++ leBytes 1 n) 0 32)

/-- The spill header read before the ring changes: a row read whose used bytes are the header's seven (R180, R199). -/
def State.readSpillHeader (s : State) (a : TileAddr) : State × ReadEnd :=
  s.readBytes a true ((List.range 7).map (fun i => spillBase + i)) .spill 0

/-- A packet moves into the next free slot of the ring (R264). -/
def State.spill (s : State) (a : TileAddr) (input : Nat) (p : Packet) : State :=
  let h := s.readSpillHeader a
  let s := if h.2 = .uncorrectable then h.1.reportCause a.fld 4 true a.row a.col 0 else h.1
  let t := s.tile a
  let w := t.ringWrite
  let mask := leNat (t.bytes true spillBase 4)
  let t := t.storeWords true (spillSlot w) (slotBytes p)
  let t := t.setRing (mask ||| 2 ^ w) t.ringRead ((w + 1) % 25) (t.ringCount + 1)
  let s := s.setTile a { t with spilled := t.spilled ++ [(p.entry, p.copied, p.nanGen)], spillInput := some input }
  ((s.dropHead a input p.cls).countBank a true 192).count C.MESH_SPILLS a.fld.inst 1

/-- A far input of a router that spills: it may spill now, its buffer in the channel is full, and its head cannot depart (R264). -/
def State.spillBlocked (s : State) (a : TileAddr) (vc input : Nat) : Bool :=
  let t := s.tile a
  (match t.spillInput with | some j => t.spilled.isEmpty || input == j | none => true) && !t.bufRoom input vc &&
    (match (t.bufOf input vc).head? with | some p => s.ringOf a input vc || !s.canDepart a input p | none => false)

/-- DEADLOCK_SPILL: a router of a stuck block spills the head of its first full blocked input (R263, R264). -/
def execDeadlockSpill (a : TileAddr) (s : State) : Host.Outcome State Fault Refusal :=
  .next (
    let t := s.tile a
    let vc := s.getF F.MESH_DL_CTL_SPILL_VC a.fld.inst
    if s.meshStopped a.fld || s.islandStopped a || (s.fieldSt a.fld).resetting || s.getF F.MESH_DL_CTL_DL_EN a.fld.inst == 0 ||
        decide (25 ≤ t.spilled.length) then s
    else
      match [1, 2, 3, 4].find? (s.spillBlocked a vc) with
      | some i => match (t.bufOf i vc).head? with | some p => s.spill a i p | none => s
      | none => s)

/-- The head slot of the ring is free again. -/
def Tile.popRing (t : Tile) : Tile :=
  let r := t.ringRead
  let mask := leNat (t.bytes true spillBase 4)
  let rest := t.spilled.drop 1
  let u := t.setRing (mask &&& (2 ^ 25 - 1 - 2 ^ r)) ((r + 1) % 25) t.ringWrite (t.ringCount - 1)
  { u with spilled := rest, spillInput := if rest.isEmpty then none else t.spillInput }

/-- The header and the slot of a departing packet are read: an uncorrectable word loses the packet and ends the pass
(R200). -/
def State.readSlot (s : State) (a : TileAddr) : State × Bool :=
  let at' := spillSlot (s.tile a).ringRead
  let h := s.readSpillHeader a
  let r := h.1.readBytes a true ((List.range 160).map (fun i => at' + i)) .spill 0
  let s := ((r.1.setTile a (r.1.tile a).popRing).countBank a true 32).count C.MESH_RESTORES a.fld.inst 1
  if r.2 = .uncorrectable ∨ h.2 = .uncorrectable then (s.reportCause a.fld 4 true a.row a.col 0, false) else (s, true)

/-- SPILL_RESTORE: the packet at the head of the ring departs once its way is free (R265). -/
def execSpillRestore (a : TileAddr) (s : State) : Host.Outcome State Fault Refusal :=
  .next (
    let t := s.tile a
    match t.spillInput, t.ringHead with
    | some input, some p =>
      if s.meshStopped a.fld || s.islandStopped a || (s.fieldSt a.fld).resetting then s
      else
        match (if p.cls == 2 then t.redEntry p.aux else none) with
        | some e =>
          if (s.joinSlot a input p e).isSome then
            let r := s.readSlot a
            if r.2 then (r.1.joinSlot a input p e).getD r.1 else r.1
          else s
        | none =>
          match p.dir with
          | some d =>
            match s.takeCopy a p with
            | none => s
            | some s' =>
              if !s.credit a d p.cls then s
              else
                match (s.setTile a { t with spilled := (p.entry, true, p.nanGen) :: t.spilled.drop 1 }).pick a d with
                | some (.ring, _) =>
                  let r := s.readSlot a
                  if r.2 then
                    let r := s'.readSlot a
                    (r.1.turn a d p.cls (some input)).transmit a d { p with copied := true }
                  else r.1
                | _ => s
          | none =>
            if (s.deliver a p).isSome then
              let r := s.readSlot a
              if r.2 then (r.1.deliver a p).getD r.1 else r.1
            else s
    | _, _ => s)

/-- A far input buffer of a block is full (R263). -/
def State.blockFull (s : State) (f : FieldAddr) (block : Nat) : Bool :=
  (s.liveOf f).any (fun b => b.block == block &&
    [1, 2, 3, 4].any (fun i => (List.range 4).any (fun c => !(s.tile b).bufRoom i c)))

/-- DEADLOCK: a block still stuck with a full ring: captured, counted, recorded, and the pass aborts (R266). -/
def execDeadlock (f : FieldAddr) (block : Fin 12) (s : State) : Host.Outcome State Fault Refusal :=
  .next (
    match (s.liveOf f).find? (fun a => s.getF F.MESH_DL_CTL_DL_EN f.inst == 1 && s.blockFull f block && a.block == block.val && decide (25 ≤ (s.tile a).spilled.length)) with
    | none => s
    | some a =>
      match (s.tile a).ringHead with
      | none => s
      | some p =>
        let s := ((s.count C.MESH_DEADLOCKS f.inst 1).setErr .MESH f.inst 2).setIrq .MESH f.inst 4
        ((s.pktEvent a 3 0 p).meshRecord a 3 p).reportCause f 8 true a.row a.col 0)

/-! ### The stall watchdog (R267, R302) -/

/-- The packets whose heads the watchdog watches at a router: input buffers, spill ring, merge slots, landing buffer. -/
def State.watched (s : State) (a : TileAddr) : List Packet :=
  let t := s.tile a
  t.inbuf.filterMap (fun e => e.2.head?) ++ t.ringHead.toList ++ t.slots.flatMap (fun (m : MergeSlot) => m.got.map (fun g => g.2)) ++
    t.merged ++ (t.landing.map (fun (l : Landing) => l.pkt)).toList

/-- STALL_WATCHDOG: the n-th watched packet of a router has made no progress for STALL_LIMIT. STALL reaches the Array
Engine as RED_MISMATCH when the field has counted a mismatch under the waymark (R302). -/
def execStallWatchdog (a : TileAddr) (n : Nat) (s : State) : Host.Outcome State Fault Refusal :=
  .next (
    match (s.watched a)[n]? with
    | none => s
    | some p =>
      let i := a.fld.inst
      let s := ((s.count C.MESH_STALLS i 1).setErr .MESH i 1).setIrq .MESH i 3
      let s := (s.pktEvent a 2 0 p).meshRecord a 2 p
      if s.getC C.MESH_RED_MISMATCH i == 0 then s.reportCause a.fld 9 true a.row a.col 0
      else s.reportCause a.fld 7 false a.row a.col 0)

/-! ### The FEP window (R260, R276) -/

/-- INDEX as a tile of the field: row [6:0], column [13:7]. -/
def fepTile (f : FieldAddr) (index : Nat) : Option TileAddr :=
  if h : natBits 6 0 index < 96 then some ⟨f, ⟨natBits 6 0 index, h⟩, ⟨natBits 13 7 index, by unfold natBits; exact Nat.mod_lt _ (by decide)⟩⟩
  else none

/-- The item that FEP.SEL names. -/
def State.fepItem (s : State) (f : FieldAddr) (v : W64) : BitVec 128 :=
  let x := s.fieldSt f
  match wbits v 1 0, fepTile f (wbits v 17 2) with
  | 0, _ => x.entry (wbits v 17 2)
  | 1, some a => (look (fun _ => 0#64) (s.tile a).rtab (wbits v 21 18)).setWidth 128
  | 2, some a => (look (fun _ => 0#2) x.fence a.loc).setWidth 128
  | _, _ => 0

/-- The data set a reserved bit, name a reserved encoding, or give an IN_MASK of 0 (R276). -/
def fepBad (target : Nat) (d : BitVec 128) : Bool :=
  match target with
  | 0 => wbits d 127 127 == 1 || wbits d 2 1 == 3 || wbits d 15 14 == 3
  | 1 => wbits d 127 24 != 0 || wbits d 6 2 == 0
  | _ => wbits d 127 2 != 0

/-- The item written. ROUTER_FENCED also sets TILE_FENCED (R276). -/
def State.fepPut (s : State) (f : FieldAddr) (v : W64) (d : BitVec 128) : State :=
  let x := s.fieldSt f
  match wbits v 1 0, fepTile f (wbits v 17 2) with
  | 0, _ => s.setField f { x with ept := put (fun _ => 0) x.ept (wbits v 17 2) d }
  | 1, some a => s.setTile a { s.tile a with rtab := put (fun _ => 0#64) (s.tile a).rtab (wbits v 21 18) (d.setWidth 64) }
  | 2, some a =>
    let fence : BitVec 2 := d.setWidth 2 ||| (if d.getLsbD 1 then 1 else 0)
    s.setField f { x with fence := put (fun _ => 0) x.fence a.loc fence }
  | _, _ => s

/-- A write of FEP.SEL, with the access that it starts. -/
def State.fepWrite (s : State) (f : FieldAddr) (fw : Bool) (v : W64) : State :=
  let i := f.inst
  let t := wbits v 1 0
  let range := (t == 1 || t == 2) && decide (95 < wbits v 8 2) || t == 1 && wbits v 17 16 != 0
  s.regWrite fw ⟨.FEP, i⟩ 0x080 true v range (s.getF F.FEP_SEL_BUSY i == 1)
    (fun s =>
      if wbits v 24 24 == 0 then s
      else if wbits v 23 22 == 0 then
        let d := s.fepItem f v
        (((s.setReg ⟨.FEP, i⟩ 0x088 (d.setWidth 64)).setReg ⟨.FEP, i⟩ 0x090 ((d >>> 64).setWidth 64)).setF F.FEP_SEL_RESULT i 0)
      else
        let d : BitVec 128 := s.reg ⟨.FEP, i⟩ 0x090 ++ s.reg ⟨.FEP, i⟩ 0x088
        if s.getF F.MESH_DRAIN_STATE_HELD i == 0 || s.getF F.MESH_DRAIN_STATE_DRAINED i == 0 then s.setF F.FEP_SEL_RESULT i 1
        else if fepBad t d then s.setF F.FEP_SEL_RESULT i 2
        else (s.fepPut f v d).setF F.FEP_SEL_RESULT i 0)

/-- FEP_READ (R276). -/
def execFepRead (f : FieldAddr) (fw : Bool) (value : W64) (s : State) : Host.Outcome State Fault Refusal :=
  .next (if wbits value 24 24 == 1 && wbits value 23 22 == 0 then s.fepWrite f fw value else s)

/-- FEP_WRITE (R260, R276). -/
def execFepWrite (f : FieldAddr) (fw : Bool) (value : W64) (s : State) : Host.Outcome State Fault Refusal :=
  .next (if wbits value 24 24 == 1 && wbits value 23 22 == 1 then s.fepWrite f fw value else s)

end Sys2Proof.Machine
end

