-- ==== Sys2Proof/Machine/EngineOps.lean ====
section
/-!
DEFINITION. What every engine does alike: record fields, queues and rings, marker references, and the completion of a
record. Spec: 08_engines_and_command_lists (R375 to R383, R387, R390, R401 to R405, R410, R414).
-/
namespace Sys2Proof.Machine

/-! ### Record fields (R381 to R384) -/

/-- The 64 bytes of a record. -/
abbrev RawRec := List Byte

def RawRec.opcode (r : RawRec) : Nat := leAt r 0 1
def RawRec.engine (r : RawRec) : Nat := leAt r 1 1
def RawRec.queue (r : RawRec) : Nat := leAt r 2 1
def RawRec.flags (r : RawRec) : Nat := leAt r 3 1
def RawRec.wm (r : RawRec) : Nat := leAt r 4 4
def RawRec.wait (r : RawRec) (n : Nat) : Nat := leAt r (8 + 8 * n) 4
def RawRec.waitVal (r : RawRec) (n : Nat) : Nat := leAt r (12 + 8 * n) 4
def RawRec.sig (r : RawRec) : Nat := leAt r 24 4
def RawRec.sigInc (r : RawRec) : Nat := leAt r 28 2
def RawRec.epoch (r : RawRec) : Nat := leAt r 30 1
def RawRec.loc (r : RawRec) : Nat := leAt r 31 1
def RawRec.ptr (r : RawRec) : Nat := leAt r 32 8
def RawRec.plen (r : RawRec) : Nat := leAt r 40 4
def RawRec.tag (r : RawRec) : Nat := leAt r 44 4
/-- n bytes of the operands at a record offset. -/
def RawRec.opd (r : RawRec) (off n : Nat) : Nat := leAt r off n

def opNop : Nat := 0x00
def opStepBegin : Nat := 0x10
def opWmClose : Nat := 0x11
def opMarkerWrite : Nat := 0x12
def opMilepostCopy : Nat := 0x13
def opPlaceLoad : Nat := 0x20
def opPassRun : Nat := 0x21
def opStreamOpen : Nat := 0x30
def opStreamCancel : Nat := 0x31
def opExchAccum : Nat := 0x40
def opExchWrite : Nat := 0x41
def opExchSignal : Nat := 0x42
def opExchCancel : Nat := 0x43

/-! ### Marker references (R383) -/

def refEn (m : Nat) : Bool := m.testBit 31
def refMarker (m : Nat) : Nat := natBits 11 0 m
def refSlot (m : Nat) : Nat := natBits 17 12 m
def refPlane (m : Nat) : Fin 2 := if m.testBit 18 then 1 else 0

/-- The field that a reference's slot is bound to. -/
def State.refField (s : State) (m : Nat) : Option FieldAddr := s.fieldOfSlot (refPlane m) (refSlot m)

/-- A reference's marker value, where its slot is bound (R388). -/
def State.refValue (s : State) (m : Nat) : Option Nat :=
  (s.refField m).map (fun f => ((s.fieldSt f).marker (refMarker m)).value.toNat)

/-! ### Queues and rings -/

def qKey (e q : Nat) : Nat := 64 * e + q

def State.queue (s : State) (e q : Nat) : EngQueue := look (fun _ => EngQueue.reset) s.queues (qKey e q)

def State.setQueue (s : State) (e q : Nat) (x : EngQueue) : State :=
  { s with queues := put (fun _ => EngQueue.reset) s.queues (qKey e q) x }

def State.sqSize (s : State) (e q : Nat) : Nat := 2 ^ s.getF (F.ENG_QCFG_LOG2_SIZE q) e
def State.cqSize (s : State) (e q : Nat) : Nat := 2 ^ s.getF (F.ENG_CQCFG_LOG2_SIZE q) e

/-- Free entries of the completion ring, whose capacity is one less than its size (R403). -/
def State.cqFree (s : State) (e q : Nat) : Nat :=
  let n := s.cqSize e q
  n - 1 - (s.getF (F.ENG_CQCFG_CQ_TAIL q) e + n - s.getF (F.ENG_CQCFG_CQ_HEAD q) e) % n

/-- Records that have started and not yet completed. -/
def EngQueue.open (x : EngQueue) : Nat := (x.recs.filter (fun (r : EngRec) => r.stage == .started || r.stage == .running)).length

/-- A free entry for one more record beside those that have started (R387). -/
def State.cqRoom (s : State) (e q : Nat) : Bool := decide ((s.queue e q).open < s.cqFree e q)

/-- The head of a queue: its first record that has not started. -/
def EngQueue.head (x : EngQueue) : Option EngRec := x.recs.find? (fun (r : EngRec) => r.stage == .queued)

/-- A record changed. -/
def EngQueue.upd (x : EngQueue) (index : Nat) (f : EngRec → EngRec) : EngQueue :=
  { x with recs := x.recs.map (fun (r : EngRec) => if r.index == index then f r else r) }

def EngQueue.rec? (x : EngQueue) (index : Nat) : Option EngRec := x.recs.find? (fun (r : EngRec) => r.index == index)

/-- A record's stage set. -/
def State.setStage (s : State) (e q index : Nat) (st : RecStage) : State :=
  s.setQueue e q ((s.queue e q).upd index (fun r => { r with stage := st }))

/-- Retired records at the front leave the queue, and RETIRE passes them (R410). -/
def State.retireQueue (s : State) (e q : Nat) : State :=
  let x := s.queue e q
  let gone := x.recs.takeWhile (fun (r : EngRec) => r.stage == .done && r.retired)
  match gone.getLast? with
  | some r => (s.setQueue e q { x with recs := x.recs.drop gone.length }).setF (F.ENG_QPTR_RETIRE q) e ((r.index + 1) % s.sqSize e q)
  | none => s

/-- A record belongs to the open step (R405). -/
def State.inStep (s : State) (wm : Nat) : Bool :=
  match s.step with
  | some x => wm != 0 && decide (x.firstWm ≤ wm) && decide (wm ≤ x.lastWm)
  | none => false

/-! ### Completion (R390, R401 to R405, R414) -/

/-- A marker signalled at a record's completion; one to a slot without a bound field is dropped and counted. -/
def State.signalRef (s : State) (e q index : Nat) (r : RawRec) : State :=
  if !refEn r.sig then s
  else
    match s.refField r.sig with
    | some f => s.signal f 4 (qKey e q) (refMarker r.sig) (BitVec.ofNat 32 r.sigInc) 4
        (BitVec.ofNat 32 (e + q <<< 3 + index <<< 9)) (BitVec.ofNat 32 r.wm)
    | none => s.countWm C.ENG_SIG_DROPPED e 1 (BitVec.ofNat 32 r.wm)

/-- Bytes written by the module into a ring or a payload: host memory, or the edge memory of a plane. -/
def State.writeLoc (s : State) (loc addr : Nat) (bs : List Byte) : State :=
  match loc with
  | 0 => s.hostSend (.write addr bs)
  | 1 => s.edgeWrite 0 addr bs
  | _ => s.edgeWrite 1 addr bs

/-- The completion record at the tail of the completion ring (R401, R403). ELAPSED of a record that has started is time,
which the model does not hold: a free value (assumption 11). -/
def State.writeCqe (s : State) (e q index : Nat) (r : RawRec) (common status : Nat) (hw started : Bool) (attempt : Nat)
    (result : W64) : State :=
  let phase := s.getF (F.ENG_CQCFG_PHASE q) e
  let tail := s.getF (F.ENG_CQCFG_CQ_TAIL q) e
  let el := if started then s.freeBits 48 else (0, s)
  let s := el.2
  let bs := leBytes 4 (index + q <<< 20 + e <<< 26 + phase <<< 31) ++ leBytes 1 r.opcode ++ leBytes 1 status ++
    leBytes 1 common ++ leBytes 1 (boolNat hw + attempt <<< 1) ++ leBytes 4 r.wm ++ leBytes 4 r.tag ++
    leBytes 8 result.toNat ++ leBytes 6 el.1.toNat ++ leBytes 2 0
  let s := s.writeLoc (s.getF (F.ENG_CQCFG_LOC q) e) (s.getF (F.ENG_CQBASE_V q) e + 32 * tail) bs
  let next := (tail + 1) % s.cqSize e q
  let s := s.setF (F.ENG_CQCFG_CQ_TAIL q) e next
  if next == 0 then s.setF (F.ENG_CQCFG_PHASE q) e (1 - phase) else s

/-- The first failing record in ENG.ERR_FIRST, with its error record (R414). -/
def State.engError (s : State) (e q index : Nat) (r : RawRec) (common status : Nat) (hw : Bool) (attempt : Nat) : State :=
  let first : W64 := BitVec.ofNat 64 (index + q <<< 20 + common <<< 26 + boolNat hw <<< 30 + 1 <<< 31 + r.wm <<< 32)
  let op : W64 := BitVec.ofNat 64 (r.opcode + status <<< 8 + r.tag <<< 16 + attempt <<< 48)
  let s := if s.getF F.ENG_ERR_FIRST_VALID e == 0 then s.setErr .ENG e 0 else s
  let s := s.captureFirst F.ENG_ERR_FIRST_VALID e (some 0) [(0x090, first), (0x098, op)]
  s.raiseOnce (3000 + e) (s.errRec 0x0301 2 hw (BitVec.ofNat 32 r.wm) e .module r.opcode 2 [first, op])

/-- The class of a COMMON code other than OK (R401). -/
def commonHw (common : Nat) : Bool := common == 9 || common == 12

/-- An unstepped record with an outcome other than OK stops its queue (R404). -/
def State.stopQueue (s : State) (e q index common status : Nat) : State :=
  if s.getF (F.ENG_QSTAT_STATE q) e == 4 then s
  else
    (((s.setF (F.ENG_QSTAT_STATE q) e 4).setF (F.ENG_QSTAT_STOP_INDEX q) e index).setF (F.ENG_QSTAT_STOP_CODE q) e
      (common + (status % 16) <<< 4)).setIrq .ENG e 2

/-- A failing outcome of the open step: the first decides (R405). `final`: the step ends without a re-run (R608, R609,
R616). `key` is the cause, as R617 compares it. -/
def State.failStep (s : State) (hw final : Bool) (e q index : Nat) (key : List Nat) : State :=
  match s.step with
  | some x =>
    if x.phase == .running && x.fail.isNone then
      { s with step := some { x with fail := some { hardware := hw, engine := e, queue := q, index := index, key := key }
                                     final := x.final || final } }
    else { s with step := some { x with final := x.final || final } }
  | none => s

/-- A step that is being re-run or is ending stops what its records start (R406, R408). -/
def State.stepStops (s : State) (wm : Nat) : Bool :=
  s.inStep wm && (match s.step with | some x => x.phase != .running | none => false)

/-- The opcodes that end CANCELLED, status 1, an outcome without a class (R336, R474). -/
def cancellable (op : Nat) : Bool := op == opStreamOpen || op == opExchAccum || op == opExchWrite || op == opExchSignal

/-- An outcome that has no class (R336, R401, R474). -/
def classless (op common status : Nat) : Bool := common == 11 || (common == 0 && status == 1 && cancellable op)

/-- The record is a STEP_BEGIN, or its waymark lies in the step that is or was open last: it completes under that step's attempt (R401,
R406). -/
def State.underAttempt (s : State) (r : RawRec) : Bool :=
  r.opcode == opStepBegin || (r.wm != 0 &&
    decide (s.getF F.ENG_STEP_FIRST_WM 0 ≤ r.wm ∧ r.wm ≤ s.getF F.ENG_STEP_LAST_LAST_WM 0))

/-- The cause under which the pass of an Array Engine has ended, for a PASS_RUN that completes FAILED. -/
def State.passWord (s : State) (e op common status : Nat) : Nat :=
  if op == opPassRun && common == 0 && status == 1 then (look (fun _ => ArrayEng.reset) s.array (e - 1)).word else 0

/-- What R617 compares of a record's outcome: opcode, outcome and waymark and, of a pass, its cause with slot and tile. -/
def failKey (opcode common status wm fail : Nat) : List Nat := [opcode, common, status, wm, fail]

/-- MC_SPLIT and SLOT_UNBOUND end the step without a re-run (R616). -/
def failFinal (opcode common status fail : Nat) : Bool :=
  opcode == opPassRun && common == 0 && (status == 8 || (status == 1 && fail % 32 == 6))

/-- A record completes (R390). -/
def State.complete (s : State) (e q index common status : Nat) (hw : Bool) (result : W64) : State :=
  match (s.queue e q).rec? index with
  | none => s
  | some x =>
    let r : RawRec := x.raw
    let hw := if common == 0 then hw && status != 0 else commonHw common
    let ok := common == 0 && status == 0
    let wm : Waymark := BitVec.ofNat 32 r.wm
    let started := x.stage == .started || x.stage == .running
    let stepped := s.inStep r.wm
    let attempt := if s.underAttempt r then s.getF F.ENG_STEP_ATTEMPT 0 else 0
    let s := if ok then s.signalRef e q index r else s
    let s := if ok && r.flags.testBit 2 then s else s.writeCqe e q index r common status hw started attempt result
    let s := if r.flags.testBit 0 || !ok then s.msixSend (s.getF (F.ENG_CQCFG_VECTOR q) e) else s
    let s := if ok then s.countWm C.ENG_COMPLETED e 1 wm
      else if common == 11 then s.countWm C.ENG_FLUSHED e 1 wm
      else (s.countWm C.ENG_NOT_OK e 1 wm).engError e q index r common status hw attempt
    let s := if started then s.setF (F.ENG_QSTAT_OUTSTANDING q) e (s.getF (F.ENG_QSTAT_OUTSTANDING q) e - 1) else s
    let s := s.setQueue e q ((s.queue e q).upd index (fun r => { r with stage := .done, retired := !stepped }))
    let s := if ok || common == 11 then s
      else if stepped then
        let fail := s.passWord e r.opcode common status
        if classless r.opcode common status then s else s.failStep hw (failFinal r.opcode common status fail) e q index (failKey r.opcode common status r.wm fail)
      else s.stopQueue e q index common status
    s.retireQueue e q

/-- The record of an opcode that has started on a queue and is not yet executed. -/
def State.startedRec (s : State) (e q : Nat) (ops : List Nat) : Option EngRec :=
  (s.queue e q).recs.find? (fun (r : EngRec) => r.stage == .started && ops.contains (RawRec.opcode r.raw))

end Sys2Proof.Machine
end

