-- ==== Sys2Proof/Machine/VectorOps.lean ====
section
/-!
DEFINITION. The meanings of the vector instructions of a tile: VUNP to VEXACT. Spec: 03_molcel_tile (R131 to R141),
02 (R76 to R80).
-/
namespace Sys2Proof.Machine

/-- One converted element: its flags raised for the task, and counted where SR rounded it (R69, R84). -/
def State.noteConverted (s : State) (a : TileAddr) (task : Nat) (f : RFlags) (sr : Bool) : State :=
  s.noteResult a task (s.fldWm a.fld.plane) false false false f sr false

/-! ### VUNP (R133, R76) -/

/-- An element converted to FP32 with its flags: exact, but for an MX overflow under RND and SAT. A NaN or an infinity of
the operand is handed on and raises no flag, INF_OUT neither: nothing is rounded, and neither is a result that overflowed
(DESIGN CHOICE, assumption 85). -/
def unpackElem (d : DataTok) (f : Fmt) (rnd : Rnd) (sat : Bool) (e : Nat) : W32 × RFlags :=
  match d.num f e with
  | .nan => (fpNan, {})
  | .inf neg => (fpInf neg, {})
  | .fin neg m x =>
    let r := Enc.fp32.round rnd sat 0 neg m x
    (BitVec.ofNat 32 r.1, r.2)

/-- The formats that VUNP accepts. -/
def unpackable (fmt : BitVec 4) : Bool := decide (fmt.toNat ≤ 10)

/-- VUNP: element e goes to lane e mod 16 of vector DST + e / 16; FP32 fills one half (R133). A token whose format is not
the one that its DQ's binding names (R91), or is MASK1, EXACT192 or reserved, delivers FMT_MISMATCH and the instruction
does not fire (R142). An FP32 element is moved bit for bit: R76 has no FP32 to FP32 conversion, so a NaN that is not
canonical stays as it is (DESIGN CHOICE, assumption 85). -/
def execOpVunp (a : TileAddr) (task : Fin 4) (slot : Fin 128) (s : State) : Host.Outcome State Fault Refusal :=
  .next (s.fireUnless a task slot 0x28
    (fun w t => match t.headData w.qa with
      | some d => if unpackable d.fmt && d.fmt.toNat == wbits (t.dqBind w.qa) 9 6 then none else some faultFmt
      | none => some faultFmt)
    (fun w t s =>
      match t.headData w.qa with
      | none => s
      | some d =>
        match Fmt.ofCode d.fmt.toNat with
        | none => s
        | some .fp32 =>
          (List.range 8).foldl (fun s e =>
            s.setG a task (16 * w.dst + 8 * w.immF 0 0 + e) (BitVec.ofNat 32 (payElem .fp32 d.payload e))) s
        | some f =>
          (List.range f.perToken).foldl (fun s e =>
            let r := unpackElem d f (Rnd.ofCode (w.immF 2 1)) (w.immF 3 3 == 1) e
            (s.setG a task (16 * w.dst + e) r.1).noteConverted a task r.2 false) s))

/-! ### Lane arithmetic (R132) -/

/-- A vector operation over the lanes of V[SRC1], V[SRC2] and V[DST]. FP32 vector arithmetic raises no condition flag:
R69 speaks of results that are rounded from sums or converted (DESIGN CHOICE, assumption 85). -/
def State.laneOp (s : State) (a : TileAddr) (task slot opc : Nat) (f : W32 → W32 → W32 → W32) : State :=
  s.fire a task slot opc noCmp (fun w t s =>
    let c := t.task task
    s.setV a task w.dst (fun l => f (c.lane w.src1 l) (c.lane w.src2 l) (c.lane w.dst l)))

/-- A total order of FP32 numbers that are not NaN, with -0 below +0 (R132). -/
def fpRank (x : W32) : Int := if x.getLsbD 31 then -((x &&& 0x7FFFFFFF#32).toNat : Int) - 1 else x.toNat

def fpIsNan (x : W32) : Bool := Enc.fp32.decode x.toNat == .nan

def fpMax (x y : W32) : W32 := if fpIsNan x || fpIsNan y then fpNan else if fpRank x < fpRank y then y else x

def fpMin (x y : W32) : W32 := if fpIsNan x || fpIsNan y then fpNan else if fpRank y < fpRank x then y else x

def execOpVfma (a : TileAddr) (task : Fin 4) (slot : Fin 128) (s : State) : Host.Outcome State Fault Refusal :=
  .next (s.laneOp a task slot 0x2A fpFma)

def execOpVadd (a : TileAddr) (task : Fin 4) (slot : Fin 128) (s : State) : Host.Outcome State Fault Refusal :=
  .next (s.laneOp a task slot 0x2B (fun x y _ => fpAdd x y))

def execOpVmul (a : TileAddr) (task : Fin 4) (slot : Fin 128) (s : State) : Host.Outcome State Fault Refusal :=
  .next (s.laneOp a task slot 0x2C (fun x y _ => fpMul x y))

def execOpVmax (a : TileAddr) (task : Fin 4) (slot : Fin 128) (s : State) : Host.Outcome State Fault Refusal :=
  .next (s.laneOp a task slot 0x2D (fun x y _ => fpMax x y))

def execOpVmin (a : TileAddr) (task : Fin 4) (slot : Fin 128) (s : State) : Host.Outcome State Fault Refusal :=
  .next (s.laneOp a task slot 0x2E (fun x y _ => fpMin x y))

def execOpVbcast (a : TileAddr) (task : Fin 4) (slot : Fin 128) (s : State) : Host.Outcome State Fault Refusal :=
  .next (s.fire a task slot 0x2F noCmp (fun w t s => s.setV a task w.dst (fun _ => (t.task task).reg w.src1)))

/-- VSEL: lane l of V[SRC1] where mask bit l is 1, else +0 (R116). -/
def execOpVsel (a : TileAddr) (task : Fin 4) (slot : Fin 128) (s : State) : Host.Outcome State Fault Refusal :=
  .next (s.fire a task slot 0x34 noCmp (fun w t s =>
    let c := t.task task
    s.setV a task w.dst (fun l =>
      if (c.reg w.src2).getLsbD (l + 16 * w.immF 0 0) then c.lane w.src1 l else 0)))

/-- VRED: g[DST] + the lane sum, g[DST] on the left (R135). -/
def execOpVred (a : TileAddr) (task : Fin 4) (slot : Fin 128) (s : State) : Host.Outcome State Fault Refusal :=
  .next (s.fire a task slot 0x30 noCmp (fun w t s =>
    let c := t.task task
    s.setG a task w.dst (fpAdd (c.reg w.dst) (laneTree (c.lane w.src1)))))

/-! ### Table units (R139 to R141) -/

/-- Word n of the tables (R282: unit u at byte 4160u). -/
def Tile.tabWord (t : Tile) (n : Nat) : W32 := look (fun _ => 0) t.tables n

/-- tab(x) of R140 over unit u, forward or derivative. None where the pseudocode gives no result: an XMIN or INV_STEP
that makes t a NaN (assumption 11). -/
def tabEval (t : Tile) (u : Nat) (deriv : Bool) (x : W32) : Option W32 :=
  let at' (n : Nat) : W32 := t.tabWord (1040 * u + n)
  let base := if deriv then 518 else 2
  let loA := at' (base + 512)
  let loB := at' (base + 513)
  let hiA := at' (base + 514)
  let hiB := at' (base + 515)
  let isZero (v : W32) : Bool := v &&& 0x7FFFFFFF#32 == 0
  match Enc.fp32.decode x.toNat with
  | .nan => some fpNan
  | .inf true => some (if isZero loB then loA else fpFma x loB loA)
  | .inf false => some (if isZero hiB then hiA else fpFma x hiB hiA)
  | .fin _ _ _ =>
    let q := fpMul (fpAdd x (fpNeg (at' 0))) (at' 1)
    match Enc.fp32.decode q.toNat with
    | .nan => none
    | .inf true => some (fpFma x loB loA)
    | .inf false => some (fpFma x hiB hiA)
    | .fin neg m e =>
      if neg && m != 0 then some (fpFma x loB loA)
      else
        let i := if 0 ≤ e then m <<< e.toNat else m >>> (-e).toNat
        if 256 ≤ i then some (fpFma x hiB hiA)
        else
          let iw : W32 := BitVec.ofNat 32 (Enc.fp32.round .rne false 0 false i 0).1
          some (fpFma (fpAdd q (fpNeg iw)) (at' (base + 256 + i)) (at' (base + i)))

/-- A register takes a value, or a free one where none is given. -/
def State.setOrFree (s : State) (a : TileAddr) (task n : Nat) (v : Option W32) : State :=
  match v with
  | some v => s.setG a task n v
  | none => (s.freeBits 32).2.setG a task n (s.freeBits 32).1

/-- A table lookup in every lane; a lane whose result the pseudocode does not give takes a free value. -/
def State.tableOp (s : State) (a : TileAddr) (task slot opc : Nat) (deriv : Bool) : State :=
  s.fire a task slot opc noCmp (fun w t s =>
    let c := t.task task
    (List.range 16).foldl (fun s l =>
      s.setOrFree a task (16 * w.dst + l) (tabEval t (w.immF 0 0) deriv (c.lane w.src1 l))) s)

def execOpVtab (a : TileAddr) (task : Fin 4) (slot : Fin 128) (s : State) : Host.Outcome State Fault Refusal :=
  .next (s.tableOp a task slot 0x31 false)

def execOpVtabd (a : TileAddr) (task : Fin 4) (slot : Fin 128) (s : State) : Host.Outcome State Fault Refusal :=
  .next (s.tableOp a task slot 0x32 true)

/-! ### Masks (R138) -/

/-- The element index of VPACK, VQMX and VMASK: g + IDX_HI × 2^32 + e × COL_STRIDE of RC0, modulo 2^48 (R134, R138). -/
def laneIndex (c : TaskCtx) (g : W32) (e : Nat) : BitVec 48 :=
  BitVec.ofInt 48 (wbits c.rc0 31 16 * 2 ^ 32 + g.toNat + e * natSigned 24 (wbits c.rc0 111 88))

/-- TAG of RC0. -/
def TaskCtx.tag0 (c : TaskCtx) : W32 := BitVec.ofNat 32 (wbits c.rc0 63 32)

/-- One mask bit. -/
def maskBit (c : TaskCtx) (w : SlotWord) (wm : Waymark) (l : Nat) : Bool :=
  match Enc.fp32.decode (c.lane w.src1 l).toNat with
  | .nan => false
  | n =>
    let zero := match n with | .fin _ m _ => m == 0 | .nan | .inf _ => false
    let neg := match n with | .fin g _ _ => g | .inf g => g | .nan => false
    match w.immF 2 0 with
    | 0 => !zero && !neg
    | 1 => zero || !neg
    | 2 => !zero
    | _ => decide (w.immF 19 4 ≤ srValue c.tag0 wm (laneIndex c (c.reg w.src2) l))

/-- VMASK: 16 mask bits into one half of g[DST] (R138). -/
def execOpVmask (a : TileAddr) (task : Fin 4) (slot : Fin 128) (s : State) : Host.Outcome State Fault Refusal :=
  .next (s.fire a task slot 0x33 noCmp (fun w t s =>
    let c := t.task task
    let m := (List.range 16).foldl (fun x l => x + boolNat (maskBit c w (s.fldWm a.fld.plane) l) <<< l) 0
    let lo := 16 * w.immF 3 3
    s.setG a task w.dst (setBits (c.reg w.dst) (lo + 15) lo m)))

/-! ### VPACK, VQMX, VEXACT (R134, R136, R137) -/

/-- Element codes packed at their width from bit 0 upward (R47, R88). -/
def packCodes (bits : Nat) (l : List Nat) : Nat := (l.mapIdx (fun i v => v <<< (bits * i))).foldl (· + ·) 0

/-- VPACK. -/
def execOpVpack (a : TileAddr) (task : Fin 4) (slot : Fin 128) (s : State) : Host.Outcome State Fault Refusal :=
  .next (s.fire a task slot 0x29 noCmp (fun w t s =>
    let c := t.task task
    let rfw := w.immF 15 0
    match Fmt.ofCode (rfwFmt rfw) with
    | none => s
    | some f =>
      match f.enc with
      | none => s
      | some e =>
        let first := if f == .fp32 then 16 * w.src1 + 8 * w.src2 else 16 * w.src1
        let wm := s.fldWm a.fld.plane
        let rs := (List.range f.perToken).map (fun k =>
          (Enc.fp32.decode (c.reg (first + k)).toNat).round e (rfwRnd rfw) (rfwSat rfw)
            (srValue c.tag0 wm (laneIndex c (c.reg w.dst) k)))
        let s := rs.foldl (fun s r => s.noteConverted a task r.2 (rfwRnd rfw == .sr)) s
        s.enq a (w.immF 19 16) (.data { payload := BitVec.ofNat 256 (packCodes f.bits (rs.map (·.1))), scales := 0
                                        fmt := BitVec.ofNat 4 (rfwFmt rfw), saxis := false, epoch := t.epoch })))

/-- VQMX: one block of 32 values, or two for MXFP4 (R136). Under SR every element counts in SR_RESULTS, those of a block
of scale 0xFF or all zero too (DESIGN CHOICE, assumption 85). -/
def execOpVqmx (a : TileAddr) (task : Fin 4) (slot : Fin 128) (s : State) : Host.Outcome State Fault Refusal :=
  .next (s.fire a task slot 0x35 noCmp (fun w t s =>
    let c := t.task task
    let rfw := w.immF 15 0
    match Fmt.ofCode (rfwFmt rfw) with
    | none => s
    | some f =>
      let wm := s.fldWm a.fld.plane
      let two := f == .mxE2m1
      let first := if two then 0 else 16 * w.src1
      let block (n : Nat) := quantiseMx f (rfwRnd rfw) (fun i => srValue c.tag0 wm (laneIndex c (c.reg w.dst) (32 * n + i)))
        ((List.range 32).map (fun i => c.reg (first + 32 * n + i)))
      let bs := (List.range (if two then 2 else 1)).map block
      let s := bs.foldl (fun s b =>
        let s := if b.2.2 then s.noteConverted a task { scaleNan := true } false else s
        b.2.1.foldl (fun s e => s.noteConverted a task e.2 (rfwRnd rfw == .sr)) s) s
      let sc (n : Nat) : Nat := match bs[n]? with | some b => b.1 | none => 0
      let scales := (List.range 8).foldl (fun x n => x + sc (n / 4) <<< (8 * n)) 0
      s.enq a (w.immF 19 16)
        (.data { payload := BitVec.ofNat 256 (packCodes f.bits (bs.flatMap (fun b => b.2.1.map (·.1))))
                 scales := BitVec.ofNat 64 scales, fmt := BitVec.ofNat 4 (rfwFmt rfw), saxis := true
                 epoch := t.epoch })))

/-- VEXACT: 16 exact contributions (R137, R77). -/
def execOpVexact (a : TileAddr) (task : Fin 4) (slot : Fin 128) (s : State) : Host.Outcome State Fault Refusal :=
  .next (s.fire a task slot 0x36 noCmp (fun w t s =>
    let c := t.task task
    s.enq a (w.immF 3 0)
      (.sum { fast := false, epoch := t.epoch, addr := natBits 18 0 (c.reg w.src2).toNat, step := wbits c.rc0 117 112
              elems := (List.range 16).map (fun l => .exact ((Enc.fp32.decode (c.lane w.src1 l).toNat).toExact)) })))

end Sys2Proof.Machine
end

