-- ==== Sys2Proof/Machine/Load.lean ====
section
/-!
DEFINITION. The tile record, the checks that a tile makes when a configuration is loaded, the load itself, and pass
start and restart at a tile. Spec: 06 (R282 to R284), 03 (R91 to R93, R99, R100, R102, R107 to R118, R131, R133),
02 (R49, R64, R65), 04 (R158, R161, R165), 05 (R226, R246), 09 (R422).
-/
namespace Sys2Proof.Machine

/-! ### Layout of a tile record (R282) -/

/-- The bytes of a tile record. -/
abbrev TileRec := List Byte

def partSizes : List Nat := [64, 2048, 192, 128, 1280, 128, 512, 32, 8320, 96, 128]

def TileRec.parts (r : TileRec) : Nat := leAt r 0 2
def TileRec.has (r : TileRec) (part : Nat) : Bool := r.parts.testBit part

/-- Size of a record by its PARTS. -/
def recordSize (parts : Nat) : Nat :=
  (List.range 11).foldl (fun n b => if parts.testBit b then n + partSizes.getD b 0 else n) 32

/-- Where a part starts. -/
def TileRec.at (r : TileRec) (part : Nat) : Nat := recordSize (r.parts % 2 ^ part)

/-- n bytes at an offset of a part, as a number. -/
def TileRec.field (r : TileRec) (part off n : Nat) : Nat := leAt r (r.at part + off) n

/-- The record of the empty configuration: TASKS and RATES, nothing present (R281). -/
def emptyRecord : TileRec := leBytes 4 0x201 ++ leBytes 28 192 ++ List.replicate 160 0

/-! ### The configuration written (R282, R283) -/

/-- The four task entries of a record. -/
def Tile.loadTasks (t : Tile) (r : TileRec) : Tile :=
  (List.range 4).foldl (fun t k =>
    let w := r.field 0 (16 * k) 5
    let present := w.testBit 0
    t.setTask k { t.task k with
      present := present, slotBase := natBits 15 8 w, slotCount := natBits 23 16 w
      fmtA := BitVec.ofNat 4 (w >>> 24), fmtB := BitVec.ofNat 4 (w >>> 28), banks := BitVec.ofNat 4 (w >>> 32)
      state := if present then .loaded else .idle }) t

def putRange {α : Type} [DecidableEq α] (d : Nat → α) (l : List (Nat × α)) (n : Nat) (v : Nat → α) : List (Nat × α) :=
  putAll d l ((List.range n).map (fun i => (i, v i)))

def Tile.loadBindings (t : Tile) (r : TileRec) : Tile :=
  { t with
    dqb := putRange unboundQ t.dqb 8 (fun n => BitVec.ofNat 16 (r.field 2 (2 * n) 2))
    cqb := putRange unboundCq t.cqb 4 (fun n => BitVec.ofNat 8 (r.field 2 (16 + n) 1))
    oqb := putRange unboundQ t.oqb 8 (fun n => BitVec.ofNat 16 (r.field 2 (20 + 2 * n) 2))
    emb := putRange (fun _ => 0) t.emb 8 (fun n => BitVec.ofNat 128 (r.field 2 (64 + 16 * n) 16)) }

def ctrOf (w : Nat) : CtrCfg :=
  { limit := BitVec.ofNat 24 w, chain := w.testBit 24, tokmode := BitVec.ofNat 2 (w >>> 25), tokq := BitVec.ofNat 4 (w >>> 27) }

def Tile.loadInit (t : Tile) (r : TileRec) : Tile :=
  (List.range 4).foldl (fun t k =>
    let c := t.task k
    t.setTask k { c with
      gInit := putRange (fun _ => 0) c.gInit 64 (fun n => BitVec.ofNat 32 (r.field 4 (320 * k + 4 * n) 4))
      ccfg := putRange (fun _ => CtrCfg.reset) c.ccfg 8 (fun n => ctrOf (r.field 4 (320 * k + 256 + 8 * n) 8)) }) t

def Tile.loadWindows (t : Tile) (r : TileRec) : Tile :=
  (List.range 4).foldl (fun t k => t.setTask k { t.task k with win := BitVec.ofNat 256 (r.field 3 (32 * k) 32) }) t

def Tile.loadResults (t : Tile) (r : TileRec) : Tile :=
  (List.range 4).foldl (fun t k => t.setTask k { t.task k with
    rc0 := BitVec.ofNat 128 (r.field 5 (32 * k) 16), rc1 := BitVec.ofNat 128 (r.field 5 (32 * k + 16) 16) }) t

/-- The parts that a record carries are written; every other part stays (R283). -/
def Tile.loadParts (t : Tile) (r : TileRec) : Tile :=
  let t := if r.has 0 then t.loadTasks r else t
  let t := if r.has 1 then { t with istore := putRange (fun _ => 0) t.istore 128 (fun n => BitVec.ofNat 128 (r.field 1 (16 * n) 16)) } else t
  let t := if r.has 2 then t.loadBindings r else t
  let t := if r.has 3 then t.loadWindows r else t
  let t := if r.has 4 then t.loadInit r else t
  let t := if r.has 5 then t.loadResults r else t
  let t := if r.has 6 then { t with landings := putRange (fun _ => 0) t.landings 16 (fun n => BitVec.ofNat 256 (r.field 6 (32 * n) 32)) } else t
  let t := if r.has 7 then
    { t with steer := putRange (fun _ => 0) t.steer 4 (fun n => BitVec.ofNat 64 (r.field 7 (8 * n) 8)), steerStuck := 0 } else t
  let t := if r.has 8 then { t with tables := putRange (fun _ => 0) t.tables 2080 (fun n => BitVec.ofNat 32 (r.field 8 (4 * n) 4)) } else t
  let t := if r.has 9 then { t with rates := putRange (fun _ => 0) t.rates 24 (fun n => BitVec.ofNat 32 (r.field 9 (4 * n) 4)) } else t
  if r.has 10 then { t with rtab := putRange (fun _ => 0) t.rtab 16 (fun n => BitVec.ofNat 64 (r.field 10 (8 * n) 8)) } else t

/-! ### What a tile refuses (R102, R117 and the rules it gathers) -/

/-- A reserved bit of a part is set. -/
def TileRec.reservedBad (r : TileRec) : Bool :=
  let z (part off n mask : Nat) : Bool := r.field part off n &&& mask != 0
  (List.range 4).any (fun k => z 0 (16 * k) 16 ((2 ^ 128 - 1) - 0x0FFFFFFF01)) ||
  (r.has 2 && ((List.range 8).any (fun n => z 2 (2 * n) 2 0xFC00 || z 2 (20 + 2 * n) 2 0xFE00) ||
    (List.range 4).any (fun n => z 2 (16 + n) 1 0xC0) || z 2 36 28 (2 ^ 224 - 1) ||
    (List.range 8).any (fun n => z 2 (64 + 16 * n + 12) 4 0xFFFFFFE0))) ||
  (r.has 3 && (List.range 4).any (fun k => z 3 (32 * k) 8 (2 ^ 64 - 2 ^ 46) || z 3 (32 * k + 8) 8 (2 ^ 64 - 2 ^ 51) ||
    z 3 (32 * k + 16) 8 (2 ^ 64 - 2 ^ 51) || z 3 (32 * k + 24) 8 (2 ^ 64 - 1))) ||
  (r.has 4 && (List.range 4).any (fun k => (List.range 8).any (fun n => z 4 (320 * k + 256 + 8 * n) 8 (2 ^ 64 - 2 ^ 31)))) ||
  (r.has 5 && (List.range 8).any (fun n => z 5 (16 * n) 16 (2 ^ 128 - 2 ^ 118))) ||
  (r.has 6 && (List.range 16).any (fun n => z 6 (32 * n) 32 (2 ^ 256 - 2 ^ 138))) ||
  (r.has 7 && (List.range 4).any (fun n => z 7 (8 * n) 8 (2 ^ 64 - 2 ^ 20))) ||
  (r.has 8 && (List.range 2).any (fun u => z 8 (4160 * u + 4136) 24 (2 ^ 192 - 1))) ||
  (r.has 10 && (List.range 16).any (fun n => z 10 (8 * n) 8 (2 ^ 64 - 2 ^ 24)))

/-- A result format word that R65 refuses for a matrix result. -/
def rfwBad (rfw : Nat) : Bool :=
  !([0, 1, 3, 4, 12].contains (rfwFmt rfw)) || natBits 15 8 rfw != 0 ||
    (rfwFmt rfw == 12 && (natBits 5 4 rfw != 0 || rfwFast rfw))

/-- The token kind that a destination takes. -/
inductive DestKind where
  | none | data | ctl | sum | bad
  deriving DecidableEq, Repr

/-- CLASS of an emitter binding. -/
def emitterClass (t : Tile) (q : Nat) : Nat := wbits (look (fun _ => 0#128) t.emb q) 25 24

/-- What a destination code takes, by its sink, whoever owns it: all that R92 asks of counters and steering channels. -/
def Tile.sinkKind (t : Tile) (code : Nat) : DestKind :=
  if code == 0xF then .none
  else if code < 8 then
    let b := t.oqBind code
    if bindEnd b == 6 && emitterClass t code == 2 then .sum
    else if bindEnd b < 8 then .data
    else if bindEnd b < 12 then .ctl
    else .bad
  else if code < 12 then .ctl
  else .bad

/-- A queue that a steering channel in use owns (R118). -/
def Tile.steered (t : Tile) (code : Nat) : Bool :=
  (List.range 4).any (fun c => let w := t.steerCfg c
    steerEn w && (code == 8 + steerCtl w || code == steerData w))

/-- What a destination code takes where an instruction of a task names it: a queue that the task owns, and no CQ of a
steering channel (R91 to R93, R118). -/
def Tile.destKind (t : Tile) (task code : Nat) : DestKind :=
  let mine : Bool := code == 0xF || (if code < 8 then bindOwner (t.oqBind code) == task
    else bindOwner (t.cqBind (code - 8)) == task && !t.steered code)
  if mine then t.sinkKind code else .bad

def destIs (k want : DestKind) : Bool := k == .none || k == want

/-- The kind of an input queue code of a task: 0 none, 1 data, 2 control, 3 refused (R92, R93, R118). -/
def Tile.inKind (t : Tile) (task code : Nat) : Nat :=
  if code == 0xF then 0
  else if code < 8 then (if bindOwner (t.dqBind code) == task && bindEnd (t.dqBind code) != 0xF && !t.steered code then 1 else 3)
  else if code < 12 then (if bindOwner (t.cqBind (code - 8)) == task && !t.steered code then 2 else 3)
  else 3

/-- Vector operand fields that name no vector (R131). -/
def vecBad (l : List Nat) : Bool := l.any (fun n => decide (3 < n))

/-- RDQ modes and formats (R165). -/
def rdqBad (w : SlotWord) : Bool :=
  let fmt := w.immF 14 11
  let n := w.immF 10 3
  n == 0 || w.immF 19 19 == 1 ||
  (match w.immF 1 0 with
    | 0 => decide (10 < fmt)
    | 1 => !([1, 2, 3, 4, 5, 6, 10].contains fmt) || n % 2 == 1
    | 2 => decide (4 < fmt)
    | _ => true)

/-- The vectors that VUNP may write, by the format of its queue (R133). -/
def unpBad (fmt dst : Nat) : Bool :=
  match Fmt.ofCode fmt with
  | some f =>
    if f == .mask1 || f == .exact192 then true
    else if f.perToken == 64 then dst != 0
    else if f.perToken == 32 then !(dst == 0 || dst == 2)
    else decide (3 < dst)
  | none => true

/-- The operand formats of a task form no pair of R49 (R121). -/
def TaskCtx.pairBad (c : TaskCtx) : Bool :=
  match Fmt.ofCode c.fmtA.toNat, Fmt.ofCode c.fmtB.toNat with
  | some a, some b => (Fmt.pairRate a b).isNone
  | _, _ => true

/-- The instruction of a slot breaks a load rule for its task (R115 to R118, R122, R131 to R138, R165). HI of an MMA may
be 1 only where one operand alone is MXFP4 (R122). -/
def Tile.slotBad (t : Tile) (task : Nat) (w : SlotWord) : Bool :=
  let c := t.task task
  let d (code : Nat) : DestKind := t.destKind task code
  let qa := t.inKind task w.qa
  let qb := t.inKind task w.qb
  let ownCq (n : Nat) : Bool := bindOwner (t.cqBind n) == task && !t.steered (8 + n)
  let bank (b : Nat) : Bool := c.banks.getLsbD b
  if qa == 3 || qb == 3 || (qa == 2 && decide (7 < w.kind) && w.kind != 0xF) || w.ccond == 3 || w.cop == 3 ||
      wbits w 63 34 != 0 || wbits w 127 120 != 0 || (w.pop == 1 && w.opc != 0x0C) then true
  else
    match w.opc with
    | 0x00 | 0x01 | 0x02 | 0x03 | 0x04 | 0x05 | 0x06 | 0x07 | 0x08 | 0x09 | 0x0A | 0x0B | 0x0C | 0x3F => false
    | 0x10 => qa == 0
    | 0x11 => decide (7 < w.immF 3 0) || !destIs (d (w.immF 15 12)) .ctl
    | 0x12 => decide (12 < w.immF 3 0) || w.dst % 8 != 0 || !destIs (d (w.immF 7 4)) .data
    | 0x13 => qa == 0 || !destIs (d (w.immF 3 0)) (if qa == 1 then .data else .ctl)
    | 0x18 => rdqBad w || t.inKind task (w.immF 17 15) != 1 || bindEnd (t.dqBind (w.immF 17 15)) != 6
    | 0x19 => qa != 1
    | 0x1A | 0x1B => false
    | 0x20 => qa != 1 || qb != 1 || !bank (w.immF 1 0) || (w.immF 2 2 == 1 && !destIs (d (w.immF 6 3)) .data) ||
        c.pairBad || (w.immF 7 7 == 1 && (c.fmtA == 9) == (c.fmtB == 9))
    | 0x21 => !bank (w.immF 1 0)
    | 0x22 => !bank (w.immF 1 0) || (w.immF 3 3 == 1 && !destIs (d (w.immF 8 5)) .sum)
    | 0x28 => qa != 1 || unpBad (wbits (t.dqBind w.qa) 9 6) w.dst
    | 0x29 => vecBad [w.src1] || !([0, 1, 2, 3, 4].contains (w.immF 3 0)) || !destIs (d (w.immF 19 16)) .data ||
        w.immF 15 8 != 0 || (w.immF 3 0 == 0 && decide (1 < w.src2)) || (3 ≤ w.immF 3 0 && w.src1 % 2 == 1)
    | 0x2A | 0x2B | 0x2C | 0x2D | 0x2E => vecBad [w.dst, w.src1, w.src2]
    | 0x2F => vecBad [w.dst]
    | 0x30 => vecBad [w.src1]
    | 0x31 | 0x32 => vecBad [w.dst, w.src1]
    | 0x33 => vecBad [w.src1] || decide (3 < w.immF 2 0)
    | 0x34 => vecBad [w.dst, w.src1]
    | 0x35 => !(isMxCode (w.immF 3 0)) || (if w.immF 3 0 == 9 then w.src1 != 0 else !(w.src1 == 0 || w.src1 == 2)) ||
        !destIs (d (w.immF 19 16)) .data || w.immF 15 8 != 0
    | 0x36 => vecBad [w.src1] || !destIs (d (w.immF 3 0)) .sum
    | 0x38 => w.immF 19 15 != 0 || (w.immF 12 12 == 1 && !ownCq (w.immF 14 13)) || (w.immF 12 12 == 0 && w.immF 14 13 != 0)
    | 0x39 => !ownCq (w.immF 5 4)
    | _ => true

/-- A window record breaks R158 or R161. -/
def TaskCtx.winBad (c : TaskCtx) : Bool :=
  let sw (w : W64) : Bool := decide (32 * c.limit (wbits w 0 0 == 1) < wbits w 18 1 + wbits w 50 37)
  decide (984 < c.base false + c.limit false) || decide (6016 < c.base true + c.limit true) ||
    sw (c.scaleWin false) || sw (c.scaleWin true)

/-- An emitter binding in use breaks R226. -/
def Tile.emitterBad (t : Tile) (q : Nat) : Bool :=
  let e : BitVec 128 := look (fun _ => 0) t.emb q
  bindEnd (t.oqBind q) == 6 &&
    ((wbits e 26 26 == 1 && wbits e 25 24 != 0) || (wbits e 25 24 == 1 && wbits e 28 27 == 3) ||
      (wbits e 25 24 == 0 && wbits e 63 45 % 8 != 0) || (wbits e 25 24 == 3 && wbits e 32 29 != 2))

/-- The task slots of a present task. -/
def TaskCtx.slots (c : TaskCtx) : List Nat := (List.range c.slotCount).map (fun i => c.slotBase + i)

/-- A counter of a task is in use (R113). -/
def Tile.ctrUsed (t : Tile) (task n : Nat) : Bool :=
  let c := t.task task
  (c.cfg n).tokmode != 0 || (0 < n && (c.cfg (n - 1)).chain) ||
    c.slots.any (fun k => let w := t.slotWord k
      w.valid && ((w.csel == n && w.ccond != 0) || (w.cidx == n && w.cop != 0)))

/-- A counter of a present task breaks R92 or R113. -/
def Tile.ctrBad (t : Tile) (task n : Nat) : Bool :=
  let k := (t.task task).cfg n
  k.tokmode == 3 || (n == 7 && k.chain) || (k.tokmode != 0 && !destIs (t.sinkKind k.tokq.toNat) .ctl) ||
    (k.limit == 0 && t.ctrUsed task n)

/-- A steering channel in use breaks R92 or R118. -/
def Tile.steerBad (t : Tile) (c : Nat) : Bool :=
  let w := t.steerCfg c
  steerEn w && (!destIs (t.sinkKind (wbits w 11 8)) .data || !destIs (t.sinkKind (wbits w 15 12)) .data ||
    (List.range 4).any (fun x => x != c && steerEn (t.steerCfg x) &&
      (steerCtl (t.steerCfg x) == steerCtl w || steerData (t.steerCfg x) == steerData w)))

/-- The configuration as it would stand is refused (CONTENT, R326). A task that executes no MMA may leave both operand
formats at code 0: R121 names a pair that R49 allows, for the MMA alone (DEDUCED, assumption 86). -/
def Tile.configBad (t : Tile) : Bool :=
  let present := (List.range 4).filter (fun k => (t.task k).present)
  let slots := present.flatMap (fun k => (t.task k).slots)
  present.any (fun k => let c := t.task k
    c.slotCount == 0 || decide (128 < c.slotBase + c.slotCount) || (Fmt.ofCode c.fmtA.toNat).isNone || (Fmt.ofCode c.fmtB.toNat).isNone ||
    (c.pairBad && !(c.fmtA == 0 && c.fmtB == 0)) || rfwBad (wbits c.rc0 15 0) || rfwBad (wbits c.rc1 15 0) ||
    (List.range 8).any (t.ctrBad k) ||
    c.slots.any (fun n => (t.slotWord n).valid && t.slotBad k (t.slotWord n))) ||
  (List.range 4).any (fun k => (t.task k).winBad) ||
  slots.any (fun n => decide (1 < (slots.filter (· == n)).length)) ||
  (List.range 4).any (fun b => decide (1 < (present.filter (fun k => (t.task k).banks.getLsbD b)).length)) ||
  (List.range 8).any (fun n => (8 ≤ bindEnd (t.dqBind n) && bindEnd (t.dqBind n) != 0xF) || decide (12 < wbits (t.dqBind n) 9 6) ||
    (12 ≤ bindEnd (t.oqBind n) && bindEnd (t.oqBind n) != 0xF) || t.emitterBad n ||
    (bindEnd (t.oqBind n) == 7 && bindEnd (t.dqBind (wbits (t.oqBind n) 8 6)) != 7)) ||
  (List.range 4).any (fun n => (4 ≤ bindEnd (t.cqBind n) && bindEnd (t.cqBind n) != 0xF) || t.steerBad n) ||
  (List.range 16).any (fun n => let l := t.landingCfg n
    wbits l 137 137 == 1 && (rfwBad (wbits l 15 0) || !(wbits l 134 131 == 0xF || (8 ≤ wbits l 134 131 && decide (wbits l 134 131 < 12))))) ||
  (List.range 16).any (fun n => let e := look (fun _ => 0#64) t.rtab n
    wbits e 0 0 == 1 && (wbits e 6 2 == 0 || (List.range n).any (fun m => let g := look (fun _ => 0#64) t.rtab m
      wbits g 0 0 == 1 && wbits g 23 8 == wbits e 23 8)))

/-- Every queue of the tile is empty. -/
def Tile.queuesEmpty (t : Tile) : Bool :=
  t.dq.all (fun e => e.2.isEmpty) && t.cq.all (fun e => e.2.isEmpty) && t.oq.all (fun e => e.2.isEmpty)

/-- Why a tile refuses a load (R102, R326): 0 EPOCH, 1 NOT_IDLE, 2 QUEUES, 3 CONTENT. -/
def Tile.loadCause (t : Tile) (r : TileRec) (epoch : BitVec 2) : Option Nat :=
  if epoch != t.epoch + 1 then some 0
  else if (List.range 4).any (fun k => (t.task k).state != .idle && (t.task k).state != .drained) then some 1
  else if !t.queuesEmpty then some 2
  else if r.reservedBad || (t.loadParts r).configBad then some 3
  else none

/-! ### Pass start and restart (R99, R100, R296) -/

/-- What a task clears at pass start and restart; its watch is disarmed (R100, R427). -/
def TaskCtx.clearRun (c : TaskCtx) : TaskCtx :=
  { c with state := .running, cval := [], cdone := 0, p := 0, flags := 0, faultCode := 0, faultSlot := 0, workUnits := 0, watch := none }

/-- What pass start and restart do beside the tasks: counts restart, waiting tokens go together with the contents of
their queues, and the next MMA into a bank begins a new work unit, of which the tap holds nothing (R97, R124, R227). -/
def Tile.clearPass (t : Tile) : Tile :=
  { t with
    cq := t.cq.filter (fun e => t.cqWaiting e.1 == 0)
    counts := [], emSent := [], foldPos := 0, waitArrive := 0, waitBarrier := [], barLatch := 0, barCq := []
    openUnit := 0, caps := [] }

/-- Pass start at a tile: LOADED tasks run with their initial registers. -/
def Tile.passStart (t : Tile) : Tile :=
  let t := (List.range 4).foldl (fun t k =>
    let c := t.task k
    if c.state == .loaded then t.setTask k { c.clearRun with g := c.gInit } else t) t
  t.clearPass

/-- Pass restart at a tile: DRAINED tasks run with the registers they hold. -/
def Tile.passRestart (t : Tile) : Tile :=
  let t := (List.range 4).foldl (fun t k =>
    let c := t.task k
    if c.state == .drained then t.setTask k c.clearRun else t) t
  t.clearPass

end Sys2Proof.Machine
end

