-- ==== Sys2Proof/Machine/Sha3.lean ====
section
/-!
DEFINITION. SHA3-256 over bytes, which the placement image, the fence maps, the defect map and the firmware images are
digested with. The spec names the function and leaves it to its standard; it is written here by that standard's own
recurrences, without a table. Spec: 06 (R277, R278), 13 (R605), 14 (R655).
-/
namespace Sys2Proof.Machine

/-! ### The permutation, on 25 words: word i stands in column i mod 5 of row i / 5 -/

/-- The word at a place; zero where there is none. -/
def wordOf (a : List W64) (i : Nat) : W64 := a.getD i 0

/-- The parity of a column. -/
def colParity (a : List W64) (x : Nat) : W64 :=
  wordOf a x ^^^ wordOf a (x + 5) ^^^ wordOf a (x + 10) ^^^ wordOf a (x + 15) ^^^ wordOf a (x + 20)

/-- θ: each word takes the parities of its neighbour columns. -/
def mixColumns (a : List W64) : List W64 :=
  let even := (List.range 5).map (colParity a)
  a.mapIdx (fun i v => v ^^^ wordOf even ((i + 4) % 5) ^^^ (wordOf even ((i + 1) % 5)).rotateLeft 1)

/-- The places in the order in which ρ and π move words, from column 1 of row 0 on: the word of step t goes to the place of
step t + 1, turned left by the triangular number of t + 1. -/
def moveStep : Nat → Nat × Nat
  | 0 => (1, 0)
  | t + 1 => let p := moveStep t; (p.2, (2 * p.1 + 3 * p.2) % 5)

def movePlace (t : Nat) : Nat := (moveStep t).1 + 5 * (moveStep t).2

/-- ρ and π. -/
def moveWords (a : List W64) : List W64 :=
  (List.range 24).foldl (fun b t => b.set (movePlace (t + 1)) ((wordOf a (movePlace t)).rotateLeft ((t + 1) * (t + 2) / 2 % 64))) a

/-- χ: along each row. -/
def mixRows (a : List W64) : List W64 :=
  a.mapIdx (fun i v =>
    let row := i - i % 5
    v ^^^ (wordOf a (row + (i + 2) % 5) &&& ~~~(wordOf a (row + (i + 1) % 5))))

/-- The shift register whose lowest bits make the round constants. -/
def lfsr : Nat → Nat
  | 0 => 1
  | t + 1 => let d := 2 * lfsr t; if d < 256 then d else d ^^^ 0x171

/-- The constant of ι in a round: bit 2^j - 1 from step 7 * round + j of the shift register. -/
def iota (round : Nat) : W64 :=
  (List.range 7).foldl (fun v j => v + BitVec.ofNat 64 ((lfsr (7 * round + j) % 2) <<< (2 ^ j - 1))) 0

/-- The 24 rounds. -/
def permute (a : List W64) : List W64 :=
  (List.range 24).foldl (fun a n => (mixRows (moveWords (mixColumns a))).modify 0 (· ^^^ iota n)) a

/-! ### The sponge: 136 bytes a block -/

/-- The message with its suffix 01 and padding, in whole blocks. -/
def sponged (m : List Byte) : List Byte :=
  let size := (m.length / 136 + 1) * 136
  (bytesAt (m ++ [0x06]) 0 size).modify (size - 1) (· ||| 0x80)

/-- Block n of a padded message taken in. -/
def takeIn (m : List Byte) (a : List W64) (n : Nat) : List W64 :=
  permute (a.mapIdx (fun i v => v ^^^ (if i < 17 then BitVec.ofNat 64 (leAt m (136 * n + 8 * i) 8) else 0)))

/-- SHA3-256. -/
def sha3 (m : List Byte) : List Byte :=
  let p := sponged m
  let a := (List.range (p.length / 136)).foldl (takeIn p) (List.replicate 25 0)
  (a.take 4).flatMap (fun v => leBytes 8 v.toNat)

end Sys2Proof.Machine
end

