-- ==== Sys2Proof/Machine/Image.lean ====
section
/-!
DEFINITION. The placement image: its layout and the checks of PLACE_LOAD.
Spec: 06_passes_placement_backward (R277 to R282, R285, R298, R317, R318), 01 (R29, R30).
-/
namespace Sys2Proof.Machine

/-- The bytes of an image by offset. -/
abbrev Image := Nat → Byte

/-- n bytes at an offset as a number. -/
def Image.at (g : Image) (off n : Nat) : Nat := leNat ((List.range n).map (fun i => g (off + i)))

/-- Bytes [lo, hi) of an image are zero. -/
def Image.zero (g : Image) (lo hi : Nat) : Bool := (List.range (hi - lo)).all (fun i => g (lo + i) == 0)

/-- The image at an edge-memory address of a plane. -/
def State.image (s : State) (p : Fin 2) (addr : Nat) : Image := fun i => s.edgeByte p (addr + i)

def roundUp (n k : Nat) : Nat := (n + k - 1) / k * k

/-! ### Header and tables (R277 to R279) -/

def Image.nslots (g : Image) : Nat := g.at 13 1
def Image.npasses (g : Image) : Nat := g.at 14 2
def Image.mask (g : Image) : Nat := g.at 16 8
def Image.size (g : Image) : Nat := g.at 24 8
def Image.placement (g : Image) : Nat := g.at 32 8
def Image.slotTable (g : Image) : Nat := g.at 40 8
def Image.passTable (g : Image) : Nat := g.at 48 8
def Image.pool (g : Image) : Nat := g.at 56 8

/-- The slots of a mask, in ascending order. -/
def maskSlots (m : Nat) : List Nat := (List.range 56).filter (fun n => m.testBit n)

/-- BAD_HEADER. -/
def Image.badHeader (g : Image) (p : Fin 2) (addr capacity : Nat) : Bool :=
  g.at 0 8 != 0x4543414C50574B53 || g.at 8 4 != 1 || g.at 12 1 != p.val ||
    g.nslots != (maskSlots g.mask).length || decide (2 ^ 56 ≤ g.mask) || !g.zero 96 256 || g.placement == 0 ||
    g.nslots == 0 || decide (56 < g.nslots) || g.npasses == 0 || decide (4096 < g.npasses) ||
    decide (g.size < 256) || decide (2 ^ 36 < g.size) || decide (capacity < addr + g.size)

/-- A table of n bytes at an offset of the image is misplaced. -/
def Image.badOff (g : Image) (off n : Nat) : Bool := off % 32 != 0 || decide (g.size < off + n)

/-- Offset of slot entry k, and of its endpoint table and segment map. -/
def Image.slotEntry (g : Image) (k : Nat) : Nat := g.slotTable + 64 * k
def Image.endpointOff (g : Image) (k : Nat) : Nat := g.at (g.slotEntry k + 8) 8
def Image.segmapOff (g : Image) (k : Nat) : Nat := g.at (g.slotEntry k + 16) 8

def Image.passKind (g : Image) (n : Nat) : Nat := g.at (g.passTable + 32 * n) 1
def Image.passSpan (g : Image) (n : Nat) : Bool := (g.at (g.passTable + 32 * n + 1) 1).testBit 0
def Image.passMask (g : Image) (n : Nat) : Nat := g.at (g.passTable + 32 * n + 8) 8
def Image.section (g : Image) (n : Nat) : Nat := g.at (g.passTable + 32 * n + 16) 8
def Image.sectionBytes (g : Image) (n : Nat) : Nat := g.at (g.passTable + 32 * n + 24) 8

/-! ### Field parts (R280, R281, R317) -/

def Image.nrect (g : Image) (part : Nat) : Nat := g.at (part + 4) 4
def Image.nred (g : Image) (part : Nat) : Nat := g.at (part + 8) 4
def Image.nfold (g : Image) (part : Nat) : Nat := g.at (part + 12) 4

def Image.redList (g : Image) (part : Nat) : Nat := part + 128 + roundUp (8 * g.nrect part) 32
def Image.foldList (g : Image) (part : Nat) : Nat := g.redList part + roundUp (8 * g.nred part) 32
def Image.partEnd (g : Image) (part : Nat) : Nat := g.foldList part + 32 * g.nfold part

/-- The field parts of a section: slot and offset. -/
def Image.partsFrom (g : Image) : List Nat → Nat → List (Nat × Nat)
  | [], _ => []
  | n :: r, off => (n, off) :: g.partsFrom r (g.partEnd off)

def Image.parts (g : Image) (n : Nat) : List (Nat × Nat) := g.partsFrom (maskSlots (g.passMask n)) (g.section n)

/-- An assignment entry. -/
structure Rect where
  rl : Nat
  cl : Nat
  rh : Nat
  ch : Nat
  record : Nat                           -- offset of the record in the image
  deriving DecidableEq, Repr

def Rect.has (x : Rect) (a : TileAddr) : Bool :=
  decide (x.rl ≤ a.row.val ∧ a.row.val ≤ x.rh ∧ x.cl ≤ a.col.val ∧ a.col.val ≤ x.ch)

def Image.rects (g : Image) (part : Nat) : List Rect :=
  (List.range (g.nrect part)).map (fun i =>
    let w := g.at (part + 128 + 8 * i) 8
    { rl := natBits 6 0 w, cl := natBits 13 7 w, rh := natBits 20 14 w, ch := natBits 27 21 w
      record := g.pool + 32 * natBits 55 28 w })

/-- The bytes of a tile record. -/
def Image.record (g : Image) (off : Nat) : TileRec := (List.range (g.at (off + 4) 4)).map (fun i => g (off + i))

/-- The fold entry at an offset: its tile (row, column) and its region. -/
def Image.fold (g : Image) (off : Nat) : (Nat × Nat) × FoldEnt :=
  ((natBits 6 0 (g.at (off + 8) 4), natBits 13 7 (g.at (off + 8) 4)),
   { addr := natBits 18 0 (g.at (off + 12) 4), count := g.at (off + 16) 2, redId := g.at (off + 18) 2
     destEp := natBits 23 0 (g.at (off + 20) 4), destAddr := natBits 18 0 (g.at (off + 24) 4), step := g.at (off + 28) 1 })

/-- The offsets of the fold entries of a part. -/
def Image.foldOffs (g : Image) (part : Nat) : List Nat := (List.range (g.nfold part)).map (fun i => g.foldList part + 32 * i)

/-! ### BAD_LAYOUT (R285) -/

/-- A record whose header breaks R282. -/
def Image.badRecord (g : Image) (off : Nat) : Bool :=
  let parts := g.at off 2
  let n := g.at (off + 4) 4
  g.badOff off 32 || !g.zero (off + 2) (off + 4) || !g.zero (off + 8) (off + 32) || decide (2048 ≤ parts) ||
    !parts.testBit 0 || !parts.testBit 9 || n != recordSize parts || g.badOff off n

def Rect.overlaps (x y : Rect) : Bool := decide (x.rl ≤ y.rh ∧ y.rl ≤ x.rh ∧ x.cl ≤ y.ch ∧ y.cl ≤ x.ch)

/-- Two rectangles of a list overlap. -/
def overlapping : List Rect → Bool
  | [] => false
  | x :: r => r.any x.overlaps || overlapping r

/-- A field part breaks R280 or R281. -/
def Image.badPart (g : Image) (slot part stop : Nat) : Bool :=
  g.badOff part 128 || g.at part 1 != slot || !g.zero (part + 1) (part + 4) || !g.zero (part + 16) (part + 32) ||
    g.nrect part == 0 || decide (12288 < g.nrect part) || decide (65536 < g.nred part) || decide (stop < g.partEnd part) ||
    (List.range (g.nrect part)).any (fun i => g.at (part + 128 + 8 * i + 7) 1 != 0) ||
    (g.rects part).any (fun x => decide (x.rh < x.rl) || decide (95 < x.rh) || decide (x.ch < x.cl) || g.badRecord x.record) ||
    overlapping (g.rects part) ||
    (List.range (g.nred part)).any (fun i => natBits 63 46 (g.at (g.redList part + 8 * i) 8) != 0) ||
    (g.foldOffs part).any (fun o => natBits 31 14 (g.at (o + 8) 4) != 0 || natBits 31 19 (g.at (o + 12) 4) != 0 ||
      g.at (o + 23) 1 != 0 || natBits 31 19 (g.at (o + 24) 4) != 0 || !g.zero (o + 29) (o + 32))

/-- The parts of a pass in order, up to the first bad one. -/
def Image.badParts (g : Image) (stop : Nat) : List Nat → Nat → Bool
  | [], _ => false
  | n :: r, off => g.badPart n off stop || g.badParts stop r (g.partEnd off)

def Image.badPass (g : Image) (n : Nat) : Bool :=
  let e := g.passTable + 32 * n
  decide (1 < g.passKind n) || decide (1 < g.at (e + 1) 1) || !g.zero (e + 2) (e + 8) ||
    g.passMask n &&& (2 ^ 64 - 1 - g.mask) != 0 || g.badOff (g.section n) (g.sectionBytes n) ||
    g.badParts (g.section n + g.sectionBytes n) (maskSlots (g.passMask n)) (g.section n)

/-- Entry i of an endpoint table. -/
def Image.endpoint (g : Image) (off i : Nat) : BitVec 128 := BitVec.ofNat 128 (g.at (off + 16 * i) 16)

def Image.badSlot (g : Image) (k slot : Nat) : Bool :=
  let e := g.slotEntry k
  g.at e 1 != slot || !g.zero (e + 1) (e + 8) || !g.zero (e + 56) (e + 64) ||
    g.badOff (g.endpointOff k) (16 * 65536) || g.badOff (g.segmapOff k) (2 * 12288) ||
    (List.range (2 * 12288)).any (fun i => let b := (g (g.segmapOff k + i)).toNat
      natBits 1 0 b == 3 || natBits 3 2 b == 3 || natBits 5 4 b == 3 || natBits 7 6 b == 3) ||
    (List.range 65536).any (fun i => let w := g.endpoint (g.endpointOff k) i
      wbits w 0 0 == 1 && (wbits w 127 127 == 1 || EpEntry.typ w == 3 || wbits w 15 14 == 3))

def Image.badLayout (g : Image) : Bool :=
  let slots := maskSlots g.mask
  g.badOff g.slotTable (64 * g.nslots) || g.badOff g.passTable (32 * g.npasses) || g.badOff g.pool 0 ||
    (List.range slots.length).any (fun k => g.badSlot k (slots.getD k 0)) ||
    (List.range g.npasses).any (fun n => g.badPass n)

/-! ### PRODUCTS and FOLD_LIST (R285, R298, R318) -/

def Image.badProducts (g : Image) : Bool :=
  (List.range g.npasses).any (fun n => (g.parts n).any (fun x =>
    (List.range (g.nred x.2)).any (fun i =>
      let v := natBits 45 16 (g.at (g.redList x.2 + 8 * i) 8)
      v == 0 || decide (2 ^ 29 < v))))

/-- Bytes that a region of EXACT192 elements covers. -/
def FoldEnt.bytes (e : FoldEnt) : Nat := 32 * e.count

def FoldEnt.deep (e : FoldEnt) : Bool := e.addr.testBit 18
def FoldEnt.off (e : FoldEnt) : Nat := e.addr % 2 ^ 18

/-- A fold entry by itself breaks R317 or R318. -/
def FoldEnt.bad (t : Nat × Nat) (e : FoldEnt) : Bool :=
  decide (95 < t.1) || e.addr % 32 != 0 || e.count == 0 || decide (6016 < e.count) || !([1, 2, 4, 32].contains e.step) ||
    decide ((if e.deep then 0x2F000 else 0x7B00) < e.off + e.bytes)

def FoldEnt.overlaps (x y : FoldEnt) : Bool :=
  x.deep == y.deep && decide (x.off < y.off + y.bytes ∧ y.off < x.off + x.bytes)

def foldsOverlap : List ((Nat × Nat) × FoldEnt) → Bool
  | [] => false
  | x :: r => r.any (fun y => x.1 == y.1 && x.2.overlaps y.2) || foldsOverlap r

def hasTwice : List Nat → Bool
  | [] => false
  | x :: r => r.contains x || hasTwice r

def Image.badFolds (g : Image) : Bool :=
  (List.range g.npasses).any (fun n =>
    let ps := g.parts n
    (g.passKind n == 0 && ps.any (fun x => g.nfold x.2 != 0)) ||
    hasTwice (ps.flatMap (fun x => (g.foldOffs x.2).map (fun o => g.at o 8))) ||
    ps.any (fun x => let fs := (g.foldOffs x.2).map g.fold
      fs.any (fun y => y.2.bad y.1) || foldsOverlap fs))

/-! ### Slots and fences (R30, R278) -/

/-- The field that a slot is bound to and that is not lost (R30, R305). -/
def State.slotField (s : State) (p : Fin 2) (slot : Nat) : Option FieldAddr :=
  (s.fieldOfSlot p slot).bind (fun f => if (s.fieldSt f).lost then none else some f)

/-- The fence map of a field as it is hashed: 2 bits per tile in row-major order, TILE_FENCED lower. -/
def FieldSt.fenceBytes (x : FieldSt) : List Byte :=
  (List.range 3072).map (fun i => BitVec.ofNat 8 ((List.range 4).foldl (fun n j =>
    n + (look (fun _ => 0#2) x.fence (4 * i + j)).toNat <<< (2 * j)) 0))

/-- The status of PLACE_LOAD on an image whose header is good: the first that holds of DIGEST to FOLD_LIST, or 0. -/
def State.imageStatus (s : State) (p : Fin 2) (g : Image) : Nat :=
  let slots := maskSlots g.mask
  let whole := (List.range g.size).map (fun i => if 64 ≤ i ∧ i < 96 then 0 else g i)
  if s.getF F.AEN_CTL_DIGEST_CHECK p == 1 && sha3 whole != (List.range 32).map (fun i => g (64 + i)) then 3
  else if g.badLayout then 4
  else if slots.any (fun n => (s.slotField p n).isNone) then 5
  else if (List.range slots.length).any (fun k =>
      match s.slotField p (slots.getD k 0) with
      | some f => sha3 (s.fieldSt f).fenceBytes != (List.range 32).map (fun i => g (g.slotEntry k + 24 + i))
      | none => true) then 6
  else if g.badProducts then 7
  else if g.badFolds then 8
  else 0

end Sys2Proof.Machine
end

