-- ==== Sys2Proof/Machine/Mirror.lean ====
section
/-!
DEFINITION. Mirrors of RETAINED regions, and whether a placement's slots can be rebound. Spec: 13_faults_and_recovery (R610,
R611, R616, R634).
-/
namespace Sys2Proof.Machine

/-! ### Mirror lists (R611) -/

/-- The 32 bytes of a mirror entry. -/
abbrev MirrorEnt := List Byte

def MirrorEnt.slot (e : MirrorEnt) : Nat := leAt e 0 1
def MirrorEnt.rl (e : MirrorEnt) : Nat := natBits 6 0 (leAt e 4 4)
def MirrorEnt.cl (e : MirrorEnt) : Nat := natBits 13 7 (leAt e 4 4)
def MirrorEnt.rh (e : MirrorEnt) : Nat := natBits 20 14 (leAt e 4 4)
def MirrorEnt.ch (e : MirrorEnt) : Nat := natBits 27 21 (leAt e 4 4)
def MirrorEnt.addr (e : MirrorEnt) : Nat := natBits 18 0 (leAt e 8 4)
def MirrorEnt.len (e : MirrorEnt) : Nat := natBits 17 0 (leAt e 12 4)
def MirrorEnt.edge (e : MirrorEnt) : Nat := natBits 47 0 (leAt e 16 8)

/-- The region of a tile starts here in its deep bank. -/
def MirrorEnt.off (e : MirrorEnt) : Nat := e.addr % 2 ^ 18

/-- The entries of a plane's mirror list for a slot, in order. -/
def State.mirrorsOf (s : State) (p : Fin 2) (slot : Nat) : List MirrorEnt :=
  let base := s.getF (if p = 0 then F.FLT_MIRROR_ADDR0_V else F.FLT_MIRROR_ADDR1_V) 0
  let n := s.getF (if p = 0 then F.FLT_MIRROR_CNT0_V else F.FLT_MIRROR_CNT1_V) 0
  ((List.range n).map (fun i => s.edgeBytes p (base + 32 * i) 32)).filter (fun e => MirrorEnt.slot e == slot)

/-- The tiles of an entry's rectangle in a field, in row-major order, fenced ones included. -/
def MirrorEnt.tiles (e : MirrorEnt) (f : FieldAddr) : List TileAddr :=
  (fieldTiles f).filter (fun a => decide (e.rl ≤ a.row.val ∧ a.row.val ≤ e.rh ∧ e.cl ≤ a.col.val ∧ a.col.val ≤ e.ch))

/-- The slot's segment map gives RETAINED for a segment of a tile. -/
def Image.retains (g : Image) (k : Nat) (a : TileAddr) (seg : Nat) : Bool :=
  natBits (2 * seg + 1) (2 * seg) (g.at (g.segmapOff k + 2 * a.loc) 2) == 2

/-- An entry is valid in a field, under the resident image. -/
def State.mirrorValid (s : State) (g : Image) (p : Fin 2) (f : FieldAddr) (e : MirrorEnt) : Bool :=
  let n := (e.rh + 1 - e.rl) * (e.ch + 1 - e.cl)
  leAt e 1 3 == 0 && natBits 31 28 (leAt e 4 4) == 0 && natBits 31 19 (leAt e 8 4) == 0 && natBits 31 18 (leAt e 12 4) == 0 &&
    natBits 63 48 (leAt e 16 8) == 0 && leAt e 24 8 == 0 && decide (e.slot < 56) &&
    decide (e.rl ≤ e.rh ∧ e.rh ≤ 95 ∧ e.cl ≤ e.ch ∧ e.ch ≤ 127) &&
    e.addr % 32 == 0 && e.len % 32 == 0 && decide (32 ≤ e.len ∧ e.len ≤ 192512) &&
    e.addr.testBit 18 && decide (e.off + e.len ≤ 0x2F000) && decide (e.edge + n * e.len ≤ s.edgeCapacity p) &&
    (match (maskSlots g.mask).idxOf? e.slot with
     | some k => (e.tiles f).all (fun a => s.tileFenced a || (List.range 8).all (fun i =>
         decide (i < segOf e.off) || decide (segOf (e.off + e.len - 1) < i) || g.retains k a i))
     | none => false)

/-- One entry restored: the region of every tile that is not fenced, up to an uncorrectable burst. -/
def State.restoreEntry (s : State) (p : Fin 2) (f : FieldAddr) (e : MirrorEnt) : State :=
  let r := ((e.tiles f).zipIdx).foldl (fun (x : State × Bool) y =>
    if x.2 || x.1.tileFenced y.1 then x
    else
      let d := x.1.edgeRead p (e.edge + y.2 * e.len) e.len .stream
      if d.2.2 then (d.1, true) else (d.1.writeRows y.1 true e.off d.2.1, false)) (s, false)
  r.1

/-! ### REPLACEABLE (R610) -/

/-- The side of the field that a queue binding faces: a neighbour port, or a towpath. -/
def sourceSide (src : Nat) : Option Nat := if src < 4 then some src else if src == 4 then some 3 else if src == 5 then some 1 else none
def sinkSide (sink : Nat) : Option Nat :=
  if sink < 4 then some sink else if sink == 4 then some 1 else if sink == 5 then some 3
  else if 8 ≤ sink ∧ sink < 12 then some (sink - 8) else none

/-- A rectangle touches an edge of the field: 0 N, 1 E, 2 S, 3 W. -/
def Rect.touches (x : Rect) (side : Nat) : Bool :=
  match side with
  | 0 => x.rl == 0
  | 1 => x.ch == 127
  | 2 => x.rh == 95
  | _ => x.cl == 0

/-- A record whose tiles, in a rectangle, bind a queue or a reduction input across the field's edge. -/
def Rect.crosses (x : Rect) (r : TileRec) : Bool :=
  let t := Tile.reset.loadParts r
  (List.range 8).any (fun q =>
    (match sourceSide (bindEnd (t.dqBind q)) with | some d => x.touches d | none => false) ||
    (match sinkSide (bindEnd (t.oqBind q)) with | some d => x.touches d | none => false)) ||
  (List.range 16).any (fun n =>
    let w := look (fun _ => 0#64) t.rtab n
    w.getLsbD 0 && (List.range 4).any (fun d => w.getLsbD (3 + d) && x.touches d))

/-- No slot of the image binds across its field's edges, and every slot was placed against the plane fence map. `fence` is that
map as it is hashed. -/
def Image.replaceable (g : Image) (fence : List Byte) : Bool :=
  let slots := maskSlots g.mask
  (List.range g.npasses).all (fun n => (g.parts n).all (fun y => (g.rects y.2).all (fun x => !x.crosses (g.record x.record)))) &&
    (List.range slots.length).all (fun k => sha3 fence == (List.range 32).map (fun i => g (g.slotEntry k + 24 + i)))

/-- The plane fence map: that of its healthy fields, which is one; empty where none is healthy (R602). -/
def State.planeFence (s : State) (p : Fin 2) : FieldSt :=
  match (List.finRange 60).find? (fun f => (s.fieldSt ⟨p, f⟩).retired == 0 && !(s.fieldSt ⟨p, f⟩).lost) with
  | some f => s.fieldSt ⟨p, f⟩
  | none => FieldSt.reset

/-- The flag of a plane, after a PLACE_LOAD of an image that ends DONE. -/
def State.setReplaceable (s : State) (p : Fin 2) (g : Image) : State :=
  s.setF (F.FLT_PLANE_STATE_REPLACEABLE p.val) 0 (boolNat (g.replaceable (s.planeFence p).fenceBytes))

end Sys2Proof.Machine
end

