-- ==== Sys2Proof/Machine/Pass.lean ====
section
/-!
DEFINITION. The Array Engine: placement, passes, their causes and their ends, and the fold reader.
Spec: 06_passes_placement_backward (R285 to R305, R319 to R327), 01 (R36), 08 (R385, R402), 09 (R433, R434), 13 (R606).
-/
namespace Sys2Proof.Machine

/-! ### The Array Engine's state -/

def State.ae (s : State) (p : Fin 2) : ArrayEng := look (fun _ => ArrayEng.reset) s.array p.val

def State.setAe (s : State) (p : Fin 2) (x : ArrayEng) : State :=
  { s with array := put (fun _ => ArrayEng.reset) s.array p.val x }

/-- Pass state of a plane (R288). -/
def State.passState (s : State) (p : Fin 2) : Nat := s.getF F.AEN_PASS_STATE_STATE p
def State.setPassState (s : State) (p : Fin 2) (v : Nat) : State := s.setF F.AEN_PASS_STATE_STATE p v

/-- IDLE, COMPLETE or FAILED. -/
def State.passOver (s : State) (p : Fin 2) : Bool := [0, 6, 8].contains (s.passState p)

/-- LOADING to EXITING. -/
def State.passLive (s : State) (p : Fin 2) : Bool := decide (1 ≤ s.passState p ∧ s.passState p ≤ 5)

/-- Engine code of a plane's Array Engine (R376). -/
def arrayCode (p : Fin 2) : Nat := 1 + p.val

/-- A started record of an engine with one of the opcodes, and its queue. -/
def State.findStarted (s : State) (e : Nat) (ops : List Nat) : Option (Nat × EngRec) :=
  (List.range 64).findSome? (fun q => (s.startedRec e q ops).map (fun r => (q, r)))

/-- A cause is on its way to the Array Engine of the plane. -/
def State.causeWaits (s : State) (p : Fin 2) : Bool := s.causes.any (fun (c : PassCause) => c.plane == p)

/-- A cause that names no tile or router; it takes the lowest slot of the pass. -/
def State.planeCause (s : State) (p : Fin 2) (cause : Nat) (hw : Bool) : State :=
  if s.passLive p then
    let slot := (maskSlots (s.ae p).slots.toNat).headD 0
    { s with causes := s.causes ++ [{ plane := p, cause := cause, hardware := hw, slot := slot, row := 0, col := 0, task := 0
                                      named := false
                                      cyc := match s.fieldOfSlot p slot with | some f => s.cycleOf f | none => s.planeCycle p
                                      age := 0 }] }
  else s

/-- Every field of a plane that is not lost. -/
def State.wholeFields (s : State) (p : Fin 2) : List FieldAddr :=
  (List.finRange 60).filterMap (fun f => if (s.fieldSt ⟨p, f⟩).lost then none else some ⟨p, f⟩)

/-- Every valid mirror entry of a slot restored into the field that it is bound to (R612, R616, R652). -/
def State.mirrorRestore (s : State) (f : FieldAddr) : State :=
  match s.slotOfField f with
  | none => s
  | some n =>
    let g := s.image f.plane (s.ae f.plane).image
    (s.mirrorsOf f.plane n).foldl (fun s e => if s.mirrorValid g f.plane f e then s.restoreEntry f.plane f e else s) s

/-- The fields that a field reset has cleared, restored before a re-run. -/
def State.restoreWiped (s : State) : State :=
  ((List.finRange 2).flatMap (fun p => s.wholeFields p)).foldl (fun s f =>
    if (s.fieldSt f).wiped && !(s.fieldSt f).resetting then
      (s.setField f { s.fieldSt f with wiped := false }).mirrorRestore f
    else s) s

/-- A field is held and drained. -/
def State.quiet (s : State) (f : FieldAddr) : Bool :=
  s.getF F.MESH_DRAIN_STATE_HELD f.inst == 1 && s.getF F.MESH_DRAIN_STATE_DRAINED f.inst == 1

/-- No drain command of a field of the pass is in progress: a RELEASE would be refused (R259). -/
def State.passReady (s : State) (p : Fin 2) : Bool := (s.passFields p).all (fun f => (s.fieldSt f).drain.isNone)

/-- The Array Engine holds a field and STOP-drains it; one that is draining already is left to end. -/
def State.stopDrain (s : State) (f : FieldAddr) : State :=
  if (s.fieldSt f).drain.isSome || (s.fieldSt f).lost || (s.fieldSt f).resetting then s else s.drainStart f 0

/-! ### PLACE_LOAD (R285, R286) -/

/-- A PLACE_LOAD ends with a status. -/
def State.placeEnd (s : State) (p : Fin 2) (q index common status : Nat) (result : W64) : State :=
  (s.complete (arrayCode p) q index common status (status == 9) result).setIrq .AEN p 1

/-- PLACE_LOAD: the image is checked and, if it passes, the fields of the plane are held and STOP-drained. The image is
read whole once its header is good. -/
def execPlaceLoad (p : Fin 2) (s : State) : Host.Outcome State Fault Refusal :=
  .next (
    match s.findStarted (arrayCode p) [opPlaceLoad] with
    | none => s
    | some (q, r) =>
      let addr := RawRec.opd r.raw 48 8
      let cap := s.edgeCapacity p
      let g := s.image p addr
      if !s.passOver p then s.placeEnd p q r.index 0 1 0
      else if cap < addr + 256 then s.placeEnd p q r.index 0 2 0
      else
        let h := s.edgeRead p addr 256 .engine
        if h.2.2 then h.1.placeEnd p q r.index 12 0 0
        else if g.badHeader p addr cap then h.1.placeEnd p q r.index 0 2 0
        else
          let b := h.1.edgeRead p (addr + 256) (g.size - 256) .engine
          if b.2.2 then b.1.placeEnd p q r.index 12 0 0
          else
            let s := b.1
            let status := s.imageStatus p g
            if status != 0 then s.placeEnd p q r.index 0 status 0
            else
              let s := s.setStage (arrayCode p) q r.index .running
              let s := s.setAe p { s.ae p with placing := some (q, r.index, addr) }
              (s.wholeFields p).foldl (fun s f => s.stopDrain f) s)

/-- The endpoint table of an image as the field holds it. -/
def Image.table (g : Image) (off : Nat) : List (Nat × BitVec 128) :=
  (List.range 65536).filterMap (fun i => let w := g.endpoint off i; if w = 0 then none else some (i, w))

/-- The endpoint tables: those of the used slots from the image, every other field's with VALID 0. -/
def State.placeTables (s : State) (p : Fin 2) (g : Image) : State :=
  let slots := maskSlots g.mask
  (s.wholeFields p).foldl (fun s f =>
    let k := match s.slotOfField f with | some n => slots.idxOf? n | none => none
    let x := s.fieldSt f
    s.setField f (match k with
      | some k => { x with ept := g.table (g.endpointOff k) }
      | none => { x with ept := [] })) s

/-- The segment map of a slot applied to a field, by the mechanism of a segment command (R188, R202). -/
def State.placeSegments (s : State) (f : FieldAddr) (g : Image) (off : Nat) : State :=
  let s := (s.setField f { s.fieldSt f with segMap := true }).setF F.SPD_SEG_CMD_BUSY f.inst 1
  let s := (s.rectTiles f 0 0 95 127).foldl (fun s a =>
    (List.range 8).foldl (fun s n =>
      s.segCommand a n (segTarget (natBits (2 * n + 1) (2 * n) (g.at (off + 2 * a.loc) 2)))) s) s
  s.segFinish f

/-- PLACE_LOAD_COMMIT: once the fields have drained, tables and segment maps are written, the fields released and the
placement recorded; a drain that timed out ends the command DRAIN_TIMEOUT and the fields are released. -/
def execPlaceLoadCommit (p : Fin 2) (s : State) : Host.Outcome State Fault Refusal :=
  .next (
    match (s.ae p).placing with
    | none => s
    | some (q, index, addr) =>
      let fs := s.wholeFields p
      let release (s : State) : State := fs.foldl (fun s f => s.drainStart f 2) s
      if fs.any (fun f => (s.fieldSt f).drain.isSome) then s
      else if fs.any (fun f => !s.quiet f && s.getF F.MESH_DRAIN_CMD_RESULT f.inst == 1) then
        let s := release s
        (s.setAe p { s.ae p with placing := none }).placeEnd p q index 0 9 0
      else if fs.any (fun f => !s.quiet f) then
        fs.foldl (fun s f => if s.quiet f then s else s.stopDrain f) s
      else
        let g := s.image p addr
        let slots := maskSlots g.mask
        let s := s.placeTables p g
        let s := (List.range slots.length).foldl (fun s k =>
          match s.slotField p (slots.getD k 0) with
          | some f => s.placeSegments f g (g.segmapOff k)
          | none => s) s
        let s := release s
        let s := s.setF F.AEN_PLACEMENT_PLACEMENT_ID p g.placement
        let s := s.setReg ⟨.AEN, p⟩ 0x090 (BitVec.ofNat 64 (31 <<< 17))
        let s := fs.foldl (fun s f => s.setF F.PAS_RUN_IN_PASS f.inst 0) s
        let s := s.setAe p { s.ae p with image := addr, placing := none, reuse := false, pass := none, cause := none, span := false,
                                         slots := 0, prev := 0 }
        (s.setReplaceable p g).placeEnd p q index 0 0 (BitVec.ofNat 64 g.placement))

/-! ### PASS_RUN (R287 to R289, R293 to R295, R433) -/

def RawRec.passIndex (r : RawRec) : Nat := natBits 11 0 (r.opd 56 2)
def RawRec.passReuse (r : RawRec) : Bool := (r.opd 56 2).testBit 12
def RawRec.barrierCh (r : RawRec) : Nat := natBits 4 0 (r.opd 58 1)
def RawRec.wdMs (r : RawRec) : Nat := r.opd 60 2

/-- The refusal of a PASS_RUN, or 0. -/
def State.passRefusal (s : State) (p : Fin 2) (r : RawRec) : Nat :=
  let g := s.image p (s.ae p).image
  let n := r.passIndex
  let id := s.getF F.AEN_PLACEMENT_PLACEMENT_ID p
  if id == 0 || r.opd 48 8 != id then 2
  else if g.npasses ≤ n then 3
  else if !s.passOver p then 4
  else if (if g.passSpan n then decide (15 < r.barrierCh) else r.barrierCh != 31) then 5
  else if r.passReuse && (s.passState p != 6 || !(s.ae p).reuse || s.getF F.AEN_PASS_STATE_PASS p != n) then 6
  else if r.wdMs == 1 || decide (60000 < r.wdMs) then 7
  else if (maskSlots (g.passMask n)).any (fun k => (s.slotField p k).isNone) then 8
  else 0

/-- The channels of a plane set for a pass: IDLE at generation 0, the channel of a SPAN pass in ENGINE mode, all bridged
during it (R433, R438). -/
def State.setChannels (s : State) (p : Fin 2) (span : Bool) (ch : Nat) (wm : Waymark) : State :=
  let s := (List.range 16).foldl (fun s c => s.setReg ⟨.MLW, p⟩ (0x100 + 8 * c) (BitVec.ofNat 64
    (boolNat (span && c == ch) <<< 2 + boolNat span <<< 3 + wm.toNat <<< 32))) s
  { s with aeArrived := s.aeArrived.filter (fun e => e.1 / 16 != p.val)
           remoteRoot := s.remoteRoot.filter (fun e => e.1 / 16 != p.val) }

/-- A channel has its first arrival (R448). -/
def State.openChannel (s : State) (p : Fin 2) (ch : Nat) : State :=
  if s.getF (F.MLW_CH_STATE ch) p == 0 then s.setF (F.MLW_CH_STATE ch) p 1 else s

/-- Between passes no channel is bridged (R433). -/
def State.unbridge (s : State) (p : Fin 2) : State :=
  (List.range 16).foldl (fun s c => s.setF (F.MLW_CH_BRIDGED c) p 0) s

/-- The Array Engine arrives on the channel of its SPAN pass (R294). -/
def State.aeArrive (s : State) (p : Fin 2) : State :=
  let ch := s.getF F.AEN_PASS_STATE_BARRIER_CH p
  ({ s with aeArrived := put (fun _ => false) s.aeArrived (chKey p ch) true }).openChannel p ch

/-- A field in layby starts to wake (R295, R568). -/
def State.startWake (s : State) (f : FieldAddr) : State :=
  if s.getF F.FPW_STATE_POWER f.inst == 2 then (s.setF F.FPW_STATE_POWER f.inst 3).setF F.FPW_CMD_BUSY f.inst 1 else s

/-- The bridge data links are awake and trained (R569). -/
def State.bridgeReady (s : State) : Bool := s.getF F.PWR_BRIDGE_STATE 0 == 0 && s.bridgeTrain.isEmpty

/-- PASS_RUN: the Array Engine accepts or refuses a pass and enters LOADING or ARMED. A pass that the step no longer wants is cancelled
at once (R406). -/
def execPassRun (p : Fin 2) (s : State) : Host.Outcome State Fault Refusal :=
  .next (
    match s.findStarted (arrayCode p) [opPassRun] with
    | none => s
    | some (q, r) =>
      let status := s.passRefusal p r.raw
      if status != 0 then s.complete (arrayCode p) q r.index 0 status (status == 8) 0
      else
        let g := s.image p (s.ae p).image
        let n := RawRec.passIndex r.raw
        let reuse := RawRec.passReuse r.raw
        let span := g.passSpan n
        let wm : Waymark := BitVec.ofNat 32 (RawRec.wm r.raw)
        let mask := g.passMask n
        let slots := maskSlots mask
        let fields := slots.filterMap (fun k => s.slotField p k)
        let x := s.ae p
        let s := s.setStage (arrayCode p) q r.index .running
        let s := s.setReg ⟨.AEN, p⟩ 0x090 (BitVec.ofNat 64
          ((if reuse then 2 else 1) + n <<< 4 + boolNat reuse <<< 16 + RawRec.barrierCh r.raw <<< 17 + wm.toNat <<< 32))
        let s := (s.wholeFields p).foldl (fun s f =>
          let s := s.setF F.PAS_RUN_IN_PASS f.inst (boolNat (fields.contains f))
          if fields.contains f then s.setF F.PAS_RUN_WAYMARK f.inst wm.toNat else s) s
        let s := s.setAe p { x with pass := some (q, r.index), span := span, slots := BitVec.ofNat 64 mask, held := false
                                    spans := x.spans + boolNat span, cause := none, entered := false
                                    notices := if span then x.notices.filter (fun y => y.1 != wm) else x.notices
                                    startCyc := s.planeCycle p, runCyc := 0 }
        let s := s.setChannels p span (RawRec.barrierCh r.raw) wm
        let s := if span && s.getF F.PWR_BRIDGE_STATE 0 == 1 then s.setF F.PWR_BRIDGE_STATE 0 2 else s
        let s := match x.notices.find? (fun y => span && y.1 == wm) with
          | some y => s.planeCause p 0x11 y.2
          | none => s
        let s := if s.stepStops wm.toNat then s.planeCause p 0x12 false else s
        if reuse && span then s.aeArrive p else s)

/-! ### Loading (R290 to R292, R300) -/

/-- A context that carries the present epoch of a field of the pass and has neither closed nor been cancelled (R105, R370). -/
def State.oldContext (s : State) (p : Fin 2) (c : StreamCtx) : Bool :=
  (c.state == .holding || c.state == .delivering) &&
    (s.passFields p).any (fun f => f.field.val == c.field && (s.fieldSt f).epoch == c.epoch)

/-- The contexts of a plane. -/
def State.ctxsOf (s : State) (p : Fin 2) : List (Nat × StreamCtx) := s.ctxs.filter (fun e => e.1 / 2 ^ 20 == p.val)

/-- The fields that previous passes have left held and the pass does not name are released; one whose drain is in progress is kept for
later (R259, R300). -/
def State.releasePrev (s : State) (p : Fin 2) : State :=
  let x := s.ae p
  let ks := (maskSlots x.prev.toNat).filter (fun k => !x.slots.getLsbD k)
  let busy (k : Nat) : Bool := match s.slotField p k with | some f => (s.fieldSt f).drain.isSome | none => false
  let s := s.setAe p { x with prev := (x.prev &&& x.slots) ||| BitVec.ofNat 64 (((ks.filter busy).map (2 ^ ·)).foldl (· + ·) 0) }
  (ks.filter (fun k => !busy k)).foldl (fun s k =>
    match s.slotField p k with
    | some f => if s.getF F.MESH_DRAIN_STATE_HELD f.inst == 1 then s.drainStart f 2 else s
    | none => s) s

/-- PASS_LOAD_BEGIN: once the contexts of the old epoch have closed, the fields held by the previous pass and not named
are released, fields in layby are woken, and the fields of the pass are held and STOP-drained. -/
def execPassLoadBegin (p : Fin 2) (s : State) : Host.Outcome State Fault Refusal :=
  .next (
    if s.passState p != 1 || (s.ae p).held || s.causeWaits p then s
    else if (s.ctxsOf p).any (fun e => s.oldContext p e.2) then s
    else if (s.ae p).span && !s.bridgeReady then s
    else
      let fs := s.passFields p
      let s := fs.foldl (fun s f => s.startWake f) (s.releasePrev p)
      if fs.any (fun f => s.getF F.FPW_STATE_POWER f.inst != 0 || (s.fieldSt f).resetting) then s
      else
        let s := fs.foldl (fun s f => s.stopDrain f) s
        s.setAe p { s.ae p with held := true })

/-- The chain time of a block and the record bytes that its chain delivers (R291). -/
def State.chainOf (s : State) (f : FieldAddr) (g : Image) (rects : List Rect) (block : Nat) : Nat × Nat :=
  let r0 := 32 * (block / 4)
  let c0 := 32 * (block % 4)
  let met := rects.filter (fun x => decide (x.rl ≤ r0 + 31 ∧ r0 ≤ x.rh ∧ x.cl ≤ c0 + 31 ∧ c0 ≤ x.ch))
  let bytes := met.map (fun x => g.at (x.record + 4) 4)
  let bare := (fieldTiles f).any (fun a => a.block == block && !s.tileFenced a && !met.any (fun x => x.has a))
  let all := if bare then bytes ++ [192] else bytes
  (all.foldl (fun n b => n + (b + 31) / 32 + 8) 0, all.foldl (· + ·) 0)

/-- Why a tile refuses its load, the ENGINE-mode channel of R434 included. -/
def Tile.refuses (t : Tile) (r : TileRec) (epoch : BitVec 2) (ch : Option Nat) : Option Nat :=
  match t.loadCause r epoch with
  | some c => some c
  | none => match ch with
    | some c => if (t.loadParts r).hasBarr c then some 3 else none
    | none => none

/-- A refused load: counted, captured, recorded once per waymark, reported (R102, R301, R326). -/
def State.noteRefusedLoad (s : State) (a : TileAddr) (cause : Nat) : State :=
  let i := a.fld.inst
  let wm := s.passWm a.fld.plane
  let first : W64 := BitVec.ofNat 64 (a.row.val + a.col.val <<< 7 + cause <<< 14 + 1 <<< 31 + wm.toNat <<< 32)
  let s := s.countWm C.PAS_CFG_REFUSED i 1 wm
  let s := s.captureFirst F.PAS_CFG_FIRST_VALID i (some 1) [(0x0A0, first)]
  let s := s.raiseOnce i (s.errRec 0x1D02 2 false wm i (.tile a 0) 0 0 [first])
  s.reportCause a.fld 0x10 false a.row a.col 0

/-- A tile loads its record at an epoch, or refuses it. -/
def State.loadTile (s : State) (a : TileAddr) (r : TileRec) (folds : List FoldEnt) (epoch : BitVec 2) (ch : Option Nat) : State :=
  let t := s.tile a
  match t.refuses r epoch ch with
  | some c => s.noteRefusedLoad a c
  | none => s.setTile a { t.loadParts r with epoch := epoch, folds := folds, barLatch := 0, barCq := [], steerStuck := 0 }

/-- A field of the pass loads: every tile that is not fenced, under the record of its rectangle or the empty one. -/
def State.loadField (s : State) (f : FieldAddr) (g : Image) (part : Nat) (ch : Option Nat) : State :=
  let i := f.inst
  let rects := g.rects part
  let folds := (g.foldOffs part).map g.fold
  let e := (s.fieldSt f).epoch + 1
  let bytes := ((List.range 12).map (fun b => (s.chainOf f g rects b).2)).foldl (· + ·) 0
  let s := s.countWm C.PAS_CFG_BYTES i bytes (s.passWm f.plane)
  let s := (s.setF F.PAS_RUN_PASS i (s.getF F.AEN_PASS_STATE_PASS f.plane)).setF F.PAS_RUN_EPOCH i e.toNat
  let s := s.setField f { s.fieldSt f with epoch := e }
  (fieldTiles f).foldl (fun s a =>
    if s.tileFenced a then s
    else
      let r := match rects.find? (fun x => x.has a) with
        | some x => g.record x.record
        | none => emptyRecord
      s.loadTile a r (folds.filterMap (fun y => if y.1 == (a.row.val, a.col.val) then some y.2 else none)) e ch) s

/-- The section of the pass and its records read from edge memory: whether a burst was uncorrectable (R508). -/
def State.readPass (s : State) (p : Fin 2) (g : Image) (n : Nat) : State × Bool :=
  let addr := (s.ae p).image
  let sec := s.edgeRead p (addr + g.section n) (g.sectionBytes n) .engine
  let recs := ((g.parts n).flatMap (fun x => (g.rects x.2).map (fun y => y.record))).eraseDups
  recs.foldl (fun (x : State × Bool) off =>
    let y := x.1.edgeRead p (addr + off) (g.at (off + 4) 4) .engine
    (y.1, x.2 || y.2.2)) (sec.1, sec.2.2)

/-- Pass start or restart: the fields are released, their tasks run, and the pass is RUNNING (R99, R100, R292, R300). -/
def State.passGo (s : State) (p : Fin 2) (restart : Bool) : State :=
  let wm := s.passWm p
  let s := (s.passFields p).foldl (fun s f =>
    let s := s.drainStart f 2
    let s := s.countWm C.PAS_PASSES f.inst 1 wm
    let s := s.setF F.PAS_RUN_PASS f.inst (s.getF F.AEN_PASS_STATE_PASS p)
    (s.liveOf f).foldl (fun s a =>
      s.setTile a (if restart then (s.tile a).passRestart else (s.tile a).passStart)) s) s
  let cyc := s.planeCycle p - (s.ae p).startCyc
  let s := s.setAe p { s.ae p with runCyc := cyc, prev := (s.ae p).prev &&& ~~~(s.ae p).slots }
  let s := s.countWm C.AEN_CFG_FIELD_CYCLES p cyc.toNat wm
  let s := if restart then s.countWm C.AEN_REUSES p 1 wm else s
  s.setPassState p 3

/-- Every field of the pass loads its part of the pass's section; AEN.CFG_CYCLES takes the longest chain (R291). -/
def State.loadFields (s : State) (p : Fin 2) (g : Image) (n : Nat) : State :=
  let ch := if (s.ae p).span then some (s.getF F.AEN_PASS_STATE_BARRIER_CH p) else none
  let parts := (g.parts n).filterMap (fun x => (s.slotField p x.1).map (fun f => (f, x.2)))
  let c := (parts.flatMap (fun x => (List.range 12).map (fun b => (s.chainOf x.1 g (g.rects x.2) b).1))).foldl max 0
  let s := s.setF F.AEN_CFG_CYCLES_V p (c % 2 ^ 32)
  parts.foldl (fun s x => s.loadField x.1 g x.2 ch) s

/-- PASS_ARMED: the records are delivered, the epochs advance once no context carries the old ones, and the pass is ARMED; a pass without
SPAN starts, one with SPAN arrives at its entry barrier, or starts where the entry barrier has completed (R105, R290, R294). -/
def execPassArmed (p : Fin 2) (s : State) : Host.Outcome State Fault Refusal :=
  .next (
    let fs := s.passFields p
    if s.passState p == 2 && s.getF F.AEN_PASS_STATE_REUSE p == 0 && (s.ae p).entered && s.passReady p && !s.causeWaits p then s.passGo p false
    else if s.passState p != 1 || !(s.ae p).held || s.causeWaits p || !fs.all (fun f => s.quiet f) || !s.passReady p ||
        (s.ctxsOf p).any (fun e => s.oldContext p e.2) then s
    else
      let n := s.getF F.AEN_PASS_STATE_PASS p
      let g := s.image p (s.ae p).image
      let r := s.readPass p g n
      if r.2 then r.1.planeCause p 0x13 true
      else
        let s := r.1.loadFields p g n
        if s.causeWaits p then s
        else
          let s := s.setPassState p 2
          if (s.ae p).span then s.aeArrive p else s.passGo p false)

/-- PASS_RESTART: a REUSE run restarts the last completed pass once the contexts of the previous run have closed and, for
a SPAN pass, the entry barrier has completed (R293). -/
def execPassRestart (p : Fin 2) (s : State) : Host.Outcome State Fault Refusal :=
  .next (
    if s.passState p != 2 || s.getF F.AEN_PASS_STATE_REUSE p == 0 || s.causeWaits p ||
        ((s.ae p).span && (!(s.ae p).entered || !s.bridgeReady)) ||
        !s.passReady p || (s.ctxsOf p).any (fun e => e.2.old && s.oldContext p e.2) then s
    else s.passGo p true)

/-! ### Ending (R296, R297, R299, R300) -/

/-- Every task configured for the pass is DONE. -/
def State.allDone (s : State) (p : Fin 2) : Bool :=
  let fs := s.passFields p
  s.liveTiles.all (fun e => !fs.contains e.1.fld || s.tileFenced e.1 ||
    (List.range 4).all (fun k => !(e.2.task k).present || (e.2.task k).state == .done))

/-- EXPECTED + SLACK of a block (R280). -/
def Image.blockBound (g : Image) (part block : Nat) : Nat := g.at (part + 32 + 8 * block) 4 + g.at (part + 36 + 8 * block) 4

/-- The cycles of the blocks of a field's part of the pass, counted, with their overruns (R299). -/
def State.blockCycles (s : State) (f : FieldAddr) (g : Image) (part : Nat) (cycles : List Nat) : State :=
  let wm := s.passWm f.plane
  (List.range 12).foldl (fun s b =>
    let n := cycles.getD b 0
    let s := s.countWm (C.PAS_BLK_CYC b) f.inst n wm
    if g.blockBound part b < n then
      let first := s.getC C.PAS_OVERRUNS f.inst == 0
      let s := s.countWm C.PAS_OVERRUNS f.inst 1 wm
      if first then s.setIrq .PAS f.inst 2 else s
    else s) s

/-- PASS_FINISHING: every configured task is DONE; the fields STOP-drain. `cycles` holds, slot by slot and block by
block, the tile cycles from pass start to the last HALT, which the model's clockless tiles do not give. -/
def execPassFinishing (p : Fin 2) (cycles : List Nat) (s : State) : Host.Outcome State Fault Refusal :=
  .next (
    if s.passState p != 3 || s.causeWaits p || !s.allDone p then s
    else
      let g := s.image p (s.ae p).image
      let parts := g.parts (s.getF F.AEN_PASS_STATE_PASS p)
      let s := (List.range parts.length).foldl (fun s k =>
        match parts[k]? with
        | some x => match s.slotField p x.1 with
          | some f => s.blockCycles f g x.2 (cycles.drop (12 * k))
          | none => s
        | none => s) s
      (s.passFields p).foldl (fun s f => s.stopDrain f) (s.setPassState p 4))

/-- The pass is COMPLETE: its contexts belong to the past run, and its PASS_RUN completes (R293, R300, R402). -/
def State.passEnd (s : State) (p : Fin 2) : State :=
  let x := s.ae p
  let fs := s.passFields p
  let mark (k : Nat) (c : StreamCtx) : StreamCtx :=
    if k / 2 ^ 20 == p.val && c.state != .free && fs.any (fun f => f.field.val == c.field) then { c with old := true } else c
  let s := { s with ctxs := mapKeys (fun _ => StreamCtx.reset) (fun k => k / 2 ^ 20 == p.val) mark s.ctxs }
  let s := s.countWm C.AEN_PASSES_COMPLETE p 1 (s.passWm p)
  let s := ((s.setPassState p 6).setIrq .AEN p 2).unbridge p
  let s := s.setAe p { x with reuse := true, pass := none, prev := x.prev ||| x.slots }
  match x.pass with
  | some (q, index) => s.complete (arrayCode p) q index 0 0 false (BitVec.ofNat 64 (x.runCyc.toNat % 2 ^ 32))
  | none => s

/-- Once every field is drained and no rate check has failed, the pass goes to COMPLETE, or to EXITING. -/
def State.completePass (s : State) (p : Fin 2) : State :=
  let fs := s.passFields p
  if s.passState p != 4 || s.causeWaits p || !fs.all (fun f => s.quiet f) then s
  else
    if (s.ae p).span then (s.setPassState p 5).aeArrive p
    else s.passEnd p

/-! ### Causes and aborts (R301 to R304, R606) -/

/-- The cause that decides: the lowest value, then the lowest slot, of those that have come in the FIELD cycle of the first (R302). Counts
of different fields are no times (R10): what has passed since each came is. -/
def decidingCause : List PassCause → Option PassCause
  | [] => none
  | c :: r => some ((r.filter (fun x => x.age == c.age)).foldl (fun b x =>
      if x.cause < b.cause || (x.cause == b.cause && x.slot < b.slot) then x else b) c)

def PassCause.tile (s : State) (c : PassCause) : Option TileAddr :=
  match s.fieldOfSlot c.plane c.slot with
  | some f => if h : c.row < 96 ∧ c.col < 128 then some ⟨f, ⟨c.row, h.1⟩, ⟨c.col, h.2⟩⟩ else none
  | none => none

/-- A second cause DEEP_UNCORR, SPILL_UNCORR or RATE_MISMATCH that names one tile condemns it (R606). -/
def State.suspectTile (s : State) (c : PassCause) (recent : Bool) : State :=
  if !c.named || !([2, 4, 0x0A].contains c.cause) then s
  else
    match c.tile s with
    | none => s
    | some a =>
      let m := look (fun _ => 0) s.suspects a.key
      if recent && m.testBit 1 then s.condemn a false 0x1001 (s.passWm c.plane)
      else { s with suspects := put (fun _ => 0) s.suspects a.key (m ||| 2) }

/-- The word that AEN.FAIL takes for a cause. -/
def State.failWord (s : State) (p : Fin 2) (c : PassCause) : W64 :=
  let task := if c.cause == 1 || c.cause == 2 then c.task else 0
  BitVec.ofNat 64 (c.cause + boolNat c.hardware <<< 5 + c.slot <<< 6 + c.row <<< 12 + c.col <<< 19 + task <<< 26 + 1 <<< 31 +
    (s.passWm p).toNat <<< 32)

/-- Where a cause lies. -/
def State.causeAt (s : State) (p : Fin 2) (c : PassCause) : Where :=
  match s.fieldOfSlot p c.slot with
  | some f => (match c.named, c.tile s with
    | true, some a => .tile a (if c.cause == 1 || c.cause == 2 then c.task else 0)
    | _, _ => .field f)
  | none => .plane p

/-- The deciding cause is captured and recorded. -/
def State.abortNoted (s : State) (p : Fin 2) (c : PassCause) : State :=
  let fail := s.failWord p c
  let s := s.captureFirst F.AEN_FAIL_VALID p none [(0x098, fail), (0x0A0, c.cyc)]
  s.raise (s.errRec 0x1001 2 c.hardware (s.passWm p) p (s.causeAt p c) opPassRun 2 [fail, c.cyc])

/-- The Array Engine enters ABORTING, and a pass over both planes tells its other half which SPAN pass of the waymark ends (R294). -/
def State.abortEnters (s : State) (p : Fin 2) (c : PassCause) : State :=
  let s := s.setAe p { s.ae p with cause := some (c.cause, c.hardware), word := (s.failWord p c).toNat % 2 ^ 26, reuse := false }
  let other := otherPlane p
  let s := if (s.ae p).span then
    s.setAe other { s.ae other with incoming := (s.ae other).incoming ++ [(s.passWm p, c.hardware, (s.ae p).spans)] } else s
  s.setPassState p 7

/-- The rows' channels close, and the pass's fields are drained under ABORT, which takes over a STOP in progress (R259, R303). -/
def State.abortDrains (s : State) (p : Fin 2) : State :=
  let s := (List.range 16).foldl (fun s ch => s.setF (F.MLW_CH_STATE ch) p 0) s
  let s := { s with aeArrived := s.aeArrived.filter (fun e => e.1 / 16 != p.val) }
  (s.passFields p).foldl (fun s f =>
    if (s.fieldSt f).lost || (s.fieldSt f).resetting || (s.fieldSt f).drain == some 1 then s else s.drainStart f 1) s

/-- The field's epoch is written into its tiles that kept an older one (R290, R406). -/
def State.repairEpoch (s : State) (f : FieldAddr) : State :=
  let e := (s.fieldSt f).epoch
  (fieldTiles f).foldl (fun s a =>
    if s.tileFenced a || (s.tile a).epoch == e then s else s.setTile a { s.tile a with epoch := e }) s

/-- Every field of the pass is drained; the tiles that refused take the field's epoch, and the PASS_RUN
completes FAILED. The fields stay held under ABORT. -/
def State.failPass (s : State) (p : Fin 2) : State :=
  let fs := (s.passFields p).filter (fun f => !(s.fieldSt f).lost && !(s.fieldSt f).resetting)
  if s.passState p != 7 || !fs.all (fun f => s.quiet f) then s
  else
    let x := s.ae p
    let s := fs.foldl (fun s f => s.repairEpoch f) s
    let s := s.countWm C.AEN_PASSES_FAILED p 1 (s.passWm p)
    let s := ((s.setPassState p 8).setIrq .AEN p 0).unbridge p
    let s := s.setAe p { x with pass := none, prev := x.prev ||| x.slots }
    match x.pass with
    | some (q, index) => s.complete (arrayCode p) q index 0 1 (wbits (s.reg ⟨.AEN, p⟩ 0x098) 5 5 == 1)
        (BitVec.ofNat 64 (x.runCyc.toNat % 2 ^ 32 + wbits (s.reg ⟨.AEN, p⟩ 0x098) 31 0 <<< 32))
    | none => s

/-- PASS_ABORT_NOTICE: a notice from the partner arrives. It aborts the other half of the same SPAN pass, and is kept while that half has
not been accepted; one whose half is over, or whose waymark is, is gone (R294). -/
def execPassAbortNotice (p : Fin 2) (s : State) : Host.Outcome State Fault Refusal :=
  .next (
    let x := s.ae p
    match x.incoming with
    | [] => s
    | n :: r =>
      let s := (s.setAe p { x with incoming := r }).countWm C.AEN_PEER_ABORTS p 1 n.1
      if n.1 != s.fldWm p then s
      else if x.spans < n.2.2 then s.setAe p { s.ae p with notices := x.notices ++ [(n.1, n.2.1)] }
      else if s.passLive p && x.span && s.passWm p == n.1 && x.spans == n.2.2 then s.planeCause p 0x11 n.2.1
      else s)

/-- PASS_WATCHDOG: the pass watchdog expires. -/
def execPassWatchdog (p : Fin 2) (s : State) : Host.Outcome State Fault Refusal :=
  .next (s.planeCause p 0x0C true)

/-! ### The fold reader (R319) -/

/-- The region that element n of a fold list stands in, and its index there. -/
def foldAt : List FoldEnt → Nat → Option (FoldEnt × Nat)
  | [], _ => none
  | e :: r, n => if n < e.count then some (e, n) else foldAt r (n - e.count)

/-- The EXACT192 element at bank offset off (R65). -/
def Tile.exactAt (t : Tile) (deep : Bool) (off : Nat) : ExactVal :=
  let b := t.bytes deep off 32
  ExactVal.ofStatus (BitVec.ofNat 192 (leAt b 0 24)) (BitVec.ofNat 12 (leAt b 24 2))

/-- FOLD_READER_SEND: the fold reader of a tile sends the next EXACT SUM packet of its regions. -/
def execFoldReaderSend (a : TileAddr) (s : State) : Host.Outcome State Fault Refusal :=
  .next (
    let t := s.tile a
    match foldAt t.folds t.foldPos with
    | none => s
    | some (e, k) =>
      if !s.tileRuns a || s.passState a.fld.plane != 3 || s.getF F.PAS_RUN_IN_PASS a.fld.inst != 1 || !t.bufRoom 0 2 then s
      else
        let n := min 5 (e.count - k)
        let off := e.off + 32 * k
        let used := (List.range (32 * n)).map (fun i => off + i)
        match t.segCheck e.deep false used with
        | .off => s.reportCause a.fld 1 false a.row a.col 0
        | .wait => s
        | .go =>
          let r := s.readBytes a e.deep used .taskRead 0
          if r.2 = .uncorrectable then
            if e.deep then r.1.reportCause a.fld 2 true a.row a.col 0 else r.1.failTile a 0
          else
            let t := r.1.tile a
            let vs := (List.range n).map (fun j => t.exactAt e.deep (off + 32 * j))
            let s := r.1.setTile a { t with foldPos := t.foldPos + n }
            let sent := (s.sendCause a.fld (tilePos a) e.destEp 2 false).isNone
            let s := if sent then s.countWm C.PAS_FOLD_ELEMENTS a.fld.inst n (s.passWm a.fld.plane) else s
            s.emit a 0 e.destEp 2 false t.epoch 0xFFFFFF ((e.destAddr + k * e.step) % 2 ^ 19) n e.redId (exactPayload vs))

end Sys2Proof.Machine
end

