-- ==== Sys2Proof/Machine/Engines.lean ====
section
/-!
DEFINITION. Command queues: doorbells, fetching and validation, the start of queue heads, waits and their timeouts,
queue registers. Spec: 08_engines_and_command_lists (R376 to R393, R404, R411, R416 to R418), 11 (R518, R520), 13 (R609).
-/
namespace Sys2Proof.Machine

/-! ### Validation (R384, R386) -/

/-- The opcode is one of the engine's (R384). -/
def opcodeOk (e op : Nat) : Bool :=
  op == 0 || (e == 0 && [0x10, 0x11, 0x12, 0x13].contains op) || ((e == 1 || e == 2) && [0x20, 0x21].contains op) ||
    ((e == 3 || e == 4) && [0x30, 0x31].contains op) || ((e == 5 || e == 6) && [0x40, 0x41, 0x42, 0x43].contains op)

/-- The plane of an engine; none for the Service Engine. -/
def enginePlane (e : Nat) : Option (Fin 2) := if e = 0 then none else if e % 2 = 1 then some 0 else some 1

/-- A marker reference with its value word breaks RESERVED_SET. -/
def refReserved (m v : Nat) : Bool := natBits 30 19 m != 0 || (!refEn m && (m != 0 || v != 0))

/-- A reserved bit or an unused byte of the operands is nonzero. -/
def RawRec.operandReserved (r : RawRec) : Bool :=
  let z (off n : Nat) : Bool := r.opd off n != 0
  match r.opcode with
  | 0x10 => (r.opd 56 1).testBit 7 || natBits 7 4 (r.opd 57 1) != 0 || z 58 6
  | 0x12 => refReserved (r.opd 48 4) (r.opd 52 4) || z 56 8
  | 0x13 => z 52 12
  | 0x20 => z 56 8
  | 0x21 => natBits 15 13 (r.opd 56 2) != 0 || natBits 7 5 (r.opd 58 1) != 0 || z 59 1 || z 62 2
  | 0x31 | 0x43 => natBits 7 2 (r.opd 48 1) != 0 || z 49 7
  | 0x42 => natBits 63 48 (r.opd 56 8) != 0
  | _ => z 48 16

def RawRec.reserved (r : RawRec) : Bool :=
  natBits 7 3 r.engine != 0 || natBits 7 6 r.queue != 0 || natBits 7 4 r.flags != 0 ||
    (r.flags.testBit 3 && r.opcode != opStreamOpen) ||
    (if r.opcode == opStreamOpen then natBits 7 2 r.epoch != 0 else r.epoch != 0) ||
    refReserved (r.wait 0) (r.waitVal 0) || refReserved (r.wait 1) (r.waitVal 1) || refReserved r.sig r.sigInc ||
    r.operandReserved

/-- The enabled marker references of a record. -/
def RawRec.refs (r : RawRec) : List Nat :=
  ([r.wait 0, r.wait 1, r.sig] ++ (if r.opcode == opMarkerWrite then [r.opd 48 4] else [])).filter refEn

def RawRec.badMarker (e : Nat) (r : RawRec) : Bool :=
  r.refs.any (fun m => decide (55 < refSlot m) || (match enginePlane e with | some p => refPlane m != p | none => false)) ||
    (refEn r.sig && r.sigInc == 0)

/-- The payload length that an opcode requires; 0 for an opcode without payload. -/
def RawRec.payloadNeed (r : RawRec) : Nat :=
  match r.opcode with
  | 0x13 => 4096 * r.opd 50 2
  | 0x30 => 128
  | 0x40 | 0x41 => 64
  | _ => 0

/-- The opcode takes a payload. -/
def RawRec.hasPayload (r : RawRec) : Bool := [0x13, 0x30, 0x40, 0x41].contains r.opcode

/-- The engine reads the payload when it fetches the record. -/
def RawRec.readsPayload (r : RawRec) : Bool := [0x30, 0x40, 0x41].contains r.opcode

def State.badPayload (s : State) (r : RawRec) : Bool :=
  if r.hasPayload then
    r.loc == 0 || decide (3 < r.loc) || r.ptr % 64 != 0 || r.plen != r.payloadNeed ||
      (decide (2 ≤ r.loc) && decide (s.edgeCapacity (r.loc - 2) < r.ptr + r.plen))
  else r.loc != 0 || r.ptr != 0 || r.plen != 0

def State.badOperand (s : State) (e : Nat) (r : RawRec) : Bool :=
  match r.opcode with
  | 0x10 => r.wm != 0 || !(r.opd 56 1).testBit 0
  | 0x12 => !refEn (r.opd 48 4)
  | 0x13 => r.opd 50 2 == 0 || decide (1024 < r.opd 50 2) || decide (directory.length < r.opd 48 2 + r.opd 50 2)
  | 0x20 => r.opd 48 8 % 4096 != 0 || decide (s.edgeCapacity (e - 1) < r.opd 48 8 + 256)
  | 0x31 | 0x43 =>
    (match natBits 1 0 (r.opd 48 1) with
      | 0 | 1 => decide (2 ^ 32 ≤ r.opd 56 8)
      | 2 => decide (64 ≤ r.opd 56 8)
      | _ => r.opd 56 8 != 0)
  | _ => false

/-- The COMMON code that validation gives a record, 0 for none (R386). -/
def State.validate (s : State) (e q : Nat) (r : RawRec) : Nat :=
  if r.engine % 8 != e || r.queue % 64 != q then 1
  else if !opcodeOk e r.opcode then 2
  else if r.reserved then 3
  else if r.badMarker e then 4
  else if s.badPayload r then 5
  else if s.badOperand e r then 6
  else 0

/-! ### Fetching (R380, R411, R518) -/

def State.engineOpen (s : State) (e : Nat) : Bool := s.getF F.ENG_WM_OPEN e == 1
def State.enabled (s : State) (e q : Nat) : Bool := s.getF (F.ENG_QCFG_ENABLE q) e == 1
def State.stopped (s : State) (e q : Nat) : Bool := s.getF (F.ENG_QSTAT_STATE q) e == 4

/-- Every try of a fetch has failed: the queue stops, or the step takes an outcome of class HARDWARE (R518). -/
def State.fetchFailed (s : State) (e q : Nat) : State :=
  let at' := s.getF (F.ENG_QPTR_FETCH q) e
  let s := s.setQueue e q { s.queue e q with failed := true, tries := 0 }
  if s.engineOpen e then s.failStep true false e q at' [0x100, e, q]
  else
    (((s.setF (F.ENG_QSTAT_STATE q) e 4).setF (F.ENG_QSTAT_STOP_INDEX q) e at').setF (F.ENG_QSTAT_STOP_CODE q) e 12).setIrq
      .ENG e 2

/-- The record at FETCH: the state after its read, its bytes, and whether the read failed. A ring in edge memory is read there;
of one in host memory `raw` is what stands there, and `err` 1 says that its read failed. -/
def State.fetchRaw (s : State) (e q : Nat) (raw : List Byte) (err : Nat) : State × RawRec × Bool :=
  let loc := s.getF (F.ENG_QCFG_LOC q) e
  let addr := s.getF (F.ENG_QBASE_V q) e + 64 * s.getF (F.ENG_QPTR_FETCH q) e
  if loc == 0 then (if err == 1 then (s.countIrq C.HIF_DMA_ERRORS 0 1, [], true) else (s, bytesAt raw 0 64, false))
  else s.edgeRead (if loc = 1 then 0 else 1) addr 64 .engine

/-- The payload of a record that passes validation with one: the state after its read, its bytes, and whether it failed. -/
def State.fetchPayload (s : State) (raw : RawRec) (check : Nat) (payload : List Byte) (err : Nat) : State × List Byte × Bool :=
  if check != 0 || !raw.readsPayload then (s, [], false)
  else if raw.loc == 1 then (if err == 2 then (s.countIrq C.HIF_DMA_ERRORS 0 1, [], true) else (s, bytesAt payload 0 raw.plen, false))
  else s.edgeRead (if raw.loc = 2 then 0 else 1) raw.ptr raw.plen .engine

/-- Host DMA is held (R518). -/
def State.dmaHeld (s : State) : Bool := s.getF F.HIF_DMA_CTL_HELD 0 == 1

/-- One try of a fetch. `raw` and `payload` are what host memory holds; `err` says that its read failed: 1 the record's,
2 the payload's. A ring or a payload in edge memory is read there. -/
def State.fetch (s : State) (e q : Nat) (raw payload : List Byte) (err : Nat) : State :=
  let at' := s.getF (F.ENG_QPTR_FETCH q) e
  let held := s.dmaHeld
  if s.getF (F.ENG_QCFG_LOC q) e == 0 && held then s
  else
    let r := s.fetchRaw e q raw err
    let s := r.1
    let x := s.queue e q
    if r.2.2 then
      if x.tries < 3 then s.setQueue e q { x with tries := x.tries + 1 } else s.fetchFailed e q
    else
      let raw : RawRec := r.2.1
      let check := s.validate e q raw
      if check == 0 && raw.readsPayload && raw.loc == 1 && held then s
      else
        let y := s.fetchPayload raw check payload err
        let s := y.1
        let rec' : EngRec := { index := at', raw := raw, payload := y.2.1, check := if y.2.2 then 12 else check, stage := .queued
                               retired := false, sat := (false, false), matched := [] }
        let s := s.setQueue e q { s.queue e q with recs := (s.queue e q).recs ++ [rec'], tries := 0 }
        let s := s.setF (F.ENG_QPTR_FETCH q) e ((at' + 1) % s.sqSize e q)
        s.countWm C.ENG_FETCHED e 1 (BitVec.ofNat 32 raw.wm)

/-- The engine may fetch the queue's next record: at most 16 ahead of the head. -/
def State.mayFetch (s : State) (e q : Nat) : Bool :=
  let x := s.queue e q
  s.enabled e q && !s.stopped e q && !x.failed && s.getF (F.ENG_QPTR_FETCH q) e != s.getF (F.ENG_QPTR_TAIL q) e &&
    decide ((x.recs.filter (fun (r : EngRec) => r.stage == .queued)).length ≤ 16)

/-- RECORD_FETCH: an engine fetches the next record of a queue, reads its payload and validates it. -/
def execRecordFetch (e : Fin 7) (q : Fin 64) (raw payload : List Byte) (err : Fin 3) (s : State) : Host.Outcome State Fault Refusal :=
  .next (if s.mayFetch e q && (s.queue e q).tries == 0 then s.fetch e q raw payload err else s)

/-- FETCH_RETRY: a failed fetch is tried again after 100 µs, or fails. -/
def execFetchRetry (e : Fin 7) (q : Fin 64) (raw payload : List Byte) (err : Fin 3) (s : State) : Host.Outcome State Fault Refusal :=
  .next (if s.mayFetch e q && (s.queue e q).tries != 0 then s.fetch e q raw payload err else s)

/-! ### Doorbells (R378, R379, R520) -/

/-- A host access that the module does not accept, captured (R525). -/
def State.badAccess (s : State) (bar : Nat) (write poisoned : Bool) (off : Nat) : State :=
  s.captureFirst F.HIF_BAD_FIRST_VALID 0 (some 0)
    [(0x0A0, BitVec.ofNat 64 (bar + boolNat write <<< 2 + boolNat poisoned <<< 3 + 1 <<< 31)), (0x0A8, BitVec.ofNat 64 off)]

/-- The doorbell write is refused (R379). `aligned`: it is an aligned 8-byte write at offset 0 of its page. -/
def State.doorbellBad (s : State) (e q : Nat) (aligned : Bool) (v : W64) : Bool :=
  let n := s.sqSize e q
  let m := s.cqSize e q
  let tail := s.getF (F.ENG_QPTR_TAIL q) e
  let retire := s.getF (F.ENG_QPTR_RETIRE q) e
  let ct := s.getF (F.ENG_CQCFG_CQ_TAIL q) e
  let ch := s.getF (F.ENG_CQCFG_CQ_HEAD q) e
  !aligned || !s.enabled e q || wbits v 23 20 != 0 || wbits v 47 44 != 0 || wbits v 63 50 != 0 ||
    (wbits v 48 48 == 1 && decide ((retire + 2 * n - 1 - tail) % n < (wbits v 19 0 + n - tail % n) % n)) ||
    (wbits v 49 49 == 1 && decide ((ct + m - ch) % m < (wbits v 43 24 + m - ch % m) % m))

/-- DOORBELL: TAIL or the completion head moves, or the write is refused. A poisoned write is discarded. -/
def execDoorbell (e : Fin 7) (q : Fin 64) (aligned poisoned : Bool) (value : W64) (s : State) : Host.Outcome State Fault Refusal :=
  .next (
    if poisoned then
      (s.count C.HIF_POISON_RX 0 1).badAccess 1 true true (4096 * (64 * e.val + q.val))
    else if s.doorbellBad e q aligned value then (s.count C.ENG_DB_REFUSED e 1).setIrq .ENG e 1
    else
      let s := s.count C.ENG_DOORBELLS e 1
      let s := if wbits value 48 48 == 1 then s.setF (F.ENG_QPTR_TAIL q) e (wbits value 19 0 % s.sqSize e q) else s
      if wbits value 49 49 == 1 then s.setF (F.ENG_CQCFG_CQ_HEAD q) e (wbits value 43 24 % s.cqSize e q) else s)

/-! ### The waymark condition (R391, R392) -/

/-- What the waymark condition of a record says: it holds, the record waits, or it completes with a code. -/
inductive WmCond where
  | holds | waits | ends (common : Nat)
  deriving DecidableEq, Repr

def State.stepOpen (s : State) : Bool := s.getF F.ENG_STEP_OPEN 0 == 1

def State.wmCond (s : State) (e : Nat) (r : RawRec) : WmCond :=
  let w := r.wm
  let cur := s.getF F.ENG_WM_CUR_WM e
  let isOpen := s.stepOpen
  let first := s.getF F.ENG_STEP_FIRST_WM 0
  let last := s.getF F.ENG_STEP_LAST_LAST_WM 0
  let closed := s.getF F.ENG_STEP_LAST_LAST_CLOSED 0
  let outside := decide (w < first) || decide (last < w)
  if w == 0 then (if isOpen then .waits else .holds)
  else if !isOpen && s.stepFailed.any (fun x => decide (x.1 ≤ w ∧ w ≤ x.2)) then .ends 11
  else if decide (w < cur) || (!isOpen && decide (w ≤ closed)) then .ends 7
  else if !isOpen then .waits
  else if outside || !s.engineOpen e then .ends 8
  else if w == cur then .holds
  else if r.opcode == opStreamOpen && r.flags.testBit 3 && w == cur + 1 then .holds
  else .waits

/-! ### Waits (R387, R388, R426, R429) -/

/-- A wait is met by the marker's value now; a wait on a slot without a bound field, or on a field in layby, is not. -/
def State.waitMet (s : State) (r : RawRec) (n : Nat) : Bool :=
  !refEn (r.wait n) || (match s.refField (r.wait n) with
    | some f => !s.inLayby f && decide (r.waitVal n ≤ (((s.fieldSt f).marker (refMarker (r.wait n))).value).toNat)
    | none => false)

/-- The record is its queue's head with its waymark condition met: its waits are armed. -/
def State.waitsArmed (s : State) (e : Nat) (x : EngRec) : Bool := x.check == 0 && s.wmCond e x.raw == .holds

/-- Every enabled wait is satisfied. -/
def State.waitsDone (s : State) (x : EngRec) : Bool :=
  (x.sat.1 || s.waitMet x.raw 0) && (x.sat.2 || s.waitMet x.raw 1)

/-- The waits of a queue's head evaluated at the end of a FIELD cycle. -/
def EngQueue.evalHead (s : State) (e : Nat) (x : EngQueue) : EngQueue :=
  match x.head with
  | some h =>
    if s.waitsArmed e h then
      x.upd h.index (fun r => if r.stage == .queued then
        { r with sat := (r.sat.1 || s.waitMet r.raw 0, r.sat.2 || s.waitMet r.raw 1) } else r)
    else x
  | none => x

/-- The waits of every queue head evaluated (R424, R426). -/
def State.evalWaits (s : State) : State :=
  { s with queues := mapKeys (fun _ => EngQueue.reset) (fun _ => true) (fun k x => x.evalHead s (k / 64)) s.queues }

/-! ### Starting (R387, R389) -/

/-- What the head of a queue may do: complete with a code, or start. -/
inductive HeadAction where
  | none | ends (common : Nat) | starts
  deriving DecidableEq, Repr

/-- A step that is being re-run or is ending starts no further record (R406, R408). -/
def State.stepHolds (s : State) (wm : Nat) : Bool :=
  match s.step with
  | some x => wm != 0 && (x.phase != .running || x.fail.isSome || x.aborted)
  | none => false

/-- Recovery is under way, and the next STEP_BEGIN waits for its end (R614, R633). -/
def State.recovering (s : State) : Bool := let v := s.getF F.FLT_RECOVERY_STATE 0; decide (1 ≤ v ∧ v ≤ 3)

/-- The engine can accept the opcode (R389). -/
def State.accepts (s : State) (e q : Nat) (op : Nat) : Bool :=
  !((s.queue e q).recs.any (fun (r : EngRec) => r.stage == .started && RawRec.opcode r.raw != opStepBegin)) &&
    (!(op == opPlaceLoad || op == opPassRun) || (List.range 64).all (fun k => (s.queue e k).recs.all (fun (r : EngRec) =>
      !((r.stage == .started || r.stage == .running) && (RawRec.opcode r.raw == opPlaceLoad || RawRec.opcode r.raw == opPassRun)))))

/-- A slot of the placement resident on a plane of the mask has no bound field: no step starts (R30, R631). -/
def State.placementUnbound (s : State) (mask : Nat) : Bool :=
  (List.finRange 2).any (fun p => mask.testBit (1 + p.val) && s.getF F.AEN_PLACEMENT_PLACEMENT_ID p.val != 0 &&
    (maskSlots (s.image p (s.ae p).image).mask).any (fun k => (s.slotField p k).isNone))

/-- RESET_NEEDED or FAILED (R608, R609). -/
def State.moduleDead (s : State) : Bool := s.getF F.FLT_RECOVERY_STATE 0 == 4 || s.getF F.FLT_RECOVERY_STATE 0 == 5

/-- A record may not start: in FAILED none but a STEP_BEGIN, which is refused; a STEP_BEGIN while cooling, a self-test, a recovery or a
placement with an unbound slot stands before it (R30, R394, R565, R609, R614, R650). -/
def State.startBarred (s : State) (r : RawRec) : Bool :=
  if r.opcode == opStepBegin then
    s.coolWait != 0 || s.getF F.SYS_TEST_BUSY 0 == 1 || s.recovering || (!s.moduleDead && s.placementUnbound (r.opd 56 1))
  else s.getF F.FLT_RECOVERY_STATE 0 == 5

def State.headAction (s : State) (e q : Nat) : HeadAction :=
  let x := s.queue e q
  match x.head with
  | none => .none
  | some h =>
    let r : RawRec := h.raw
    if !s.enabled e q || s.stopped e q then .none
    else if h.check != 0 then (if s.cqRoom e q then .ends h.check else .none)
    else if e == 0 && x.recs.any (fun (y : EngRec) => (y.stage == .started || y.stage == .running) && RawRec.opcode y.raw != opStepBegin) then
      .none
    else
      match s.wmCond e r with
      | .waits => .none
      | .ends c => if s.cqRoom e q then .ends c else .none
      | .holds =>
        if s.startBarred r || s.stepHolds r.wm || !s.waitsDone h || ((r.flags.testBit 1 || r.opcode == opExchSignal) && x.open != 0) ||
            !s.cqRoom e q || !s.accepts e q r.opcode then .none
        else .starts

/-- The queue whose head acts next: the lowest PRIO, then in turn (R389). -/
def State.nextHead (s : State) (e : Nat) : Option (Nat × HeadAction) :=
  let turn := look (fun _ => 0) s.turns e
  (List.range 4).findSome? (fun prio => (inTurn 64 turn).findSome? (fun q =>
    if s.getF (F.ENG_QCFG_PRIO q) e == prio then
      (match s.headAction e q with | .none => none | a => some (q, a))
    else none))

/-- The records of a waymark that have been fetched and have not completed, on the engines of the step, but for those behind a close in
its own queue: those that the close waits for (R395, R677). -/
def State.closeWaits (s : State) (q index w : Nat) : List Nat :=
  let mask := match s.step with | some x => x.mask | none => 0
  ((List.range 7).filter (fun e => mask.testBit e)).flatMap (fun e => (List.range 64).flatMap (fun k =>
    let l := (s.queue e k).recs
    let l := if e == 0 && k == q then l.takeWhile (fun (r : EngRec) => r.index != index) else l
    (l.filter (fun (r : EngRec) => r.stage != .done && RawRec.wm r.raw == w)).map (fun r => 2 ^ 20 * qKey e k + r.index)))

/-- A record starts. -/
def State.startRec (s : State) (e q : Nat) (h : EngRec) : State :=
  let waits := if RawRec.opcode h.raw == opWmClose then s.closeWaits q h.index (RawRec.wm h.raw) else []
  let s := s.setQueue e q ((s.queue e q).upd h.index (fun r => { r with stage := .started, matched := waits }))
  s.setF (F.ENG_QSTAT_OUTSTANDING q) e (s.getF (F.ENG_QSTAT_OUTSTANDING q) e + 1)

/-- RECORD_START: the queue head of an engine that is next starts, or completes where it does not execute. -/
def execRecordStart (e : Fin 7) (s : State) : Host.Outcome State Fault Refusal :=
  .next (
    match s.nextHead e with
    | none => s
    | some (q, a) =>
      match (s.queue e q).head with
      | none => s
      | some h =>
        match a with
        | .ends c => s.complete e q h.index c 0 false 0
        | .starts =>
          let s := s.startRec e q h
          { s with turns := put (fun _ => 0) s.turns e ((q + 1) % 64) }
        | .none => s)

/-- NOP_COMMAND: an engine NOP completes. -/
def execNopCommand (e : Fin 7) (q : Fin 64) (s : State) : Host.Outcome State Fault Refusal :=
  .next (match s.startedRec e q [opNop] with | some r => s.complete e q r.index 0 0 false 0 | none => s)

/-! ### Timeouts of a head (R388, R391, R441) -/

/-- A head completes with a code, or will once the completion ring has room. -/
def State.endHead (s : State) (e q : Nat) (h : EngRec) (code : Nat) : State :=
  if s.cqRoom e q && !s.stopped e q then s.complete e q h.index code 0 false 0
  else s.setQueue e q ((s.queue e q).upd h.index (fun r => if r.stage == .queued then { r with check := code } else r))

/-- The sync detail of a marker (R441). -/
def syncMarker (kind plane marker slot : Nat) (m : Marker) (waitVal waiter : Nat) : List W64 :=
  [BitVec.ofNat 64 (kind + plane <<< 8 + marker <<< 16 + slot <<< 32), BitVec.ofNat 64 (m.value.toNat + waitVal <<< 32),
   BitVec.ofNat 64 (m.lastKind + m.lastId.toNat <<< 32), BitVec.ofNat 64 (waiter + m.lastWm.toNat <<< 32)]

/-- WAIT_TIMEOUT: the head's waits have not been satisfied in time; the Service Engine names the marker. -/
def execWaitTimeout (e : Fin 7) (q : Fin 64) (s : State) : Host.Outcome State Fault Refusal :=
  .next (
    match (s.queue e q).head with
    | none => s
    | some h =>
      let r : RawRec := h.raw
      if !s.enabled e q || !s.waitsArmed e h || s.waitsDone h then s
      else
        let n := if h.sat.1 || s.waitMet r 0 then 1 else 0
        let ref := r.wait n
        let f := s.refField ref
        let m := match f with | some f => (s.fieldSt f).marker (refMarker ref) | none => Marker.reset
        let at' : Where := match f with | some f => .field f | none => .plane (refPlane ref)
        let s := s.raise (s.errRec 0x0302 2 true (BitVec.ofNat 32 r.wm) e at' r.opcode 2
          (syncMarker 0 (refPlane ref) (refMarker ref) (refSlot ref) m (r.waitVal n) (e.val + q.val <<< 3 + h.index <<< 9)))
        s.endHead e q h 9)

/-- WM_HOLD_TIMEOUT: the head has waited too long for its waymark. -/
def execWmHoldTimeout (e : Fin 7) (q : Fin 64) (s : State) : Host.Outcome State Fault Refusal :=
  .next (
    match (s.queue e q).head with
    | none => s
    | some h => if s.enabled e q && h.check == 0 && s.wmCond e h.raw == .waits then s.endHead e q h 10 else s)

/-! ### Queue registers (R404, R416, R518) -/

def queueReg (q k : Nat) : Nat := 0x100 + 0x30 * q + 8 * k

/-- A write of QSTAT: RESUME leaves STOPPED. -/
def State.resumeWrite (s : State) (e q : Nat) (fw : Bool) (value : W64) : State :=
  let go := wbits value 3 3 == 1
  s.regWrite fw ⟨.ENG, e⟩ (queueReg q 5) true value false (go && !s.stopped e q)
    (fun s => if go then
      (s.setF (F.ENG_QSTAT_STATE q) e 1).setQueue e q { s.queue e q with failed := false, tries := 0 } else s)

/-- QUEUE_RESUME: a write of QSTAT.RESUME takes the queue out of STOPPED. -/
def execQueueResume (e : Fin 7) (q : Fin 64) (fw : Bool) (value : W64) (s : State) : Host.Outcome State Fault Refusal :=
  .next (if wbits value 3 3 == 1 then s.resumeWrite e q fw value else s)

/-- A queue is enabled afresh. -/
def State.enableQueue (s : State) (e q : Nat) : State :=
  let s := s.setReg ⟨.ENG, e⟩ (queueReg q 2) 0
  let s := ((s.setF (F.ENG_CQCFG_CQ_TAIL q) e 0).setF (F.ENG_CQCFG_CQ_HEAD q) e 0).setF (F.ENG_CQCFG_PHASE q) e 1
  (s.setF (F.ENG_QSTAT_STATE q) e 1).setQueue e q EngQueue.reset

/-- A queue is disabled. -/
def State.disableQueue (s : State) (e q : Nat) : State :=
  ((s.setF (F.ENG_QCFG_ENABLE q) e 0).setF (F.ENG_QSTAT_STATE q) e 0).setQueue e q EngQueue.reset

/-- A write of a queue register that R416 refuses with STATE: of an enabled queue, a base, a size, a place or a vector that would
change, or ENABLE cleared while records are outstanding or unfetched or the engine is open. -/
def State.queueFixed (s : State) (e q k : Nat) (value : W64) : Bool :=
  let old := s.reg ⟨.ENG, e⟩ (queueReg q k)
  let fixed := if k == 0 || k == 3 then value != old
    else if k == 1 then wbits value 6 0 != wbits old 6 0
    else k == 4 && wbits value 17 0 != wbits old 17 0
  let busy := s.getF (F.ENG_QSTAT_OUTSTANDING q) e != 0 || s.getF (F.ENG_QPTR_FETCH q) e != s.getF (F.ENG_QPTR_TAIL q) e ||
    s.engineOpen e
  s.enabled e q && (fixed || (k == 1 && wbits value 7 7 == 0 && busy))

/-- A write of a queue register: 0 QBASE, 1 QCFG, 3 CQBASE, 4 CQCFG. -/
def State.queueWrite (s : State) (e q k : Nat) (fw : Bool) (value : W64) : State :=
  let on := s.enabled e q
  s.regWrite fw ⟨.ENG, e⟩ (queueReg q k) true value ((k == 0 || k == 3) && value.toNat % 4096 != 0) (s.queueFixed e q k value)
    (fun s => if k == 1 && !on && wbits value 7 7 == 1 then s.enableQueue e q
      else if k == 1 && on && wbits value 7 7 == 0 then s.disableQueue e q else s)

/-- QUEUE_CONFIG_WRITE: a write of QBASE, QCFG, CQBASE or CQCFG. -/
def execQueueConfigWrite (e : Fin 7) (q : Fin 64) (reg : Fin 4) (fw : Bool) (value : W64) (s : State) :
    Host.Outcome State Fault Refusal :=
  .next (s.queueWrite e q (match reg.val with | 0 => 0 | 1 => 1 | 2 => 3 | _ => 4) fw value)

end Sys2Proof.Machine
end

