-- ==== Sys2Proof/Machine/Link.lean ====
section
/-!
DEFINITION. Volino frames and the link layer: frame bytes and their codes, link tags, replay buffers, what leaves a
port and what a link tag does. Spec: 10_volino_span_causeway (R454 to R463, R487).
-/
namespace Sys2Proof.Machine

/-! ### Codes (R454, R462) -/

/-- One byte of CRC-32C, reflected: polynomial 0x1EDC_6F41. -/
def crc32Byte (c : Nat) (b : Byte) : Nat :=
  (List.range 8).foldl (fun c _ => if c % 2 = 1 then (c / 2) ^^^ 0x82F63B78 else c / 2) (c ^^^ b.toNat)

/-- CRC-32C with initial value and final XOR 0xFFFF_FFFF. -/
def crc32c (bs : List Byte) : Nat := bs.foldl crc32Byte 0xFFFFFFFF ^^^ 0xFFFFFFFF

/-- CRC-8 with polynomial 0x07, the byte's high bit first, from 0. Assumption 20. -/
def crc8 (bs : List Byte) : Nat :=
  bs.foldl (fun c b => (List.range 8).foldl (fun c _ => if c / 128 % 2 = 1 then (c * 2 % 256) ^^^ 7 else c * 2 % 256) (c ^^^ b.toNat)) 0

/-- The code of a 64-bit word whose bits [63:56] hold it. -/
def wordCrc (w : W64) : Nat := crc8 (leBytes 7 w.toNat)

/-! ### Frames (R454) -/

def Frame.header (f : Frame) : List Byte :=
  leBytes 4 f.dest ++ leBytes 4 f.src ++ leBytes 1 f.op ++ leBytes 1 f.flags ++ leBytes 1 f.fmt ++ leBytes 1 f.status ++
    leBytes 2 f.len ++ leBytes 2 f.aux ++ leBytes 8 f.addr ++ leBytes 8 f.cid ++ leBytes 4 f.wm.toNat ++ leBytes 4 f.retain

/-- The frame with its trailer. -/
def Frame.bytes (f : Frame) : List Byte :=
  let b := f.header ++ f.payload
  b ++ leBytes 4 (crc32c b) ++ leBytes 4 0

def Frame.ofBytes (b : List Byte) : Frame :=
  { dest := leAt b 0 4, src := leAt b 4 4, op := natBits 3 0 (leAt b 8 1), flags := leAt b 9 1, fmt := leAt b 10 1
    status := leAt b 11 1, len := leAt b 12 2, aux := leAt b 14 2, addr := leAt b 16 8, cid := leAt b 24 8
    wm := BitVec.ofNat 32 (leAt b 32 4), retain := leAt b 36 4, payload := (b.drop 40).take (b.length - 48) }

/-- The bytes end in a good trailer. -/
def goodTrailer (b : List Byte) : Bool :=
  let n := b.length - 8
  leAt b n 4 == crc32c (b.take n) && leAt b (n + 4) 4 == 0

def opWrite : Nat := 0
def opAccum : Nat := 1
def opSignal : Nat := 2
def opReadReq : Nat := 3
def opReadResp : Nat := 4
def opTaint : Nat := 5

/-- Payload bytes that a frame of this header carries. -/
def Frame.wants (f : Frame) : Nat := if f.op == opReadReq then 0 else f.len

/-- ACKREQ. -/
def Frame.ackReq (f : Frame) : Bool := f.flags.testBit 0

/-- A reserved bit of the header is set, or a field is not 0 where the op makes it 0. On a port outside the span bridge
BRIDGED and AUX belong to these. -/
def Frame.reserved (b : List Byte) (f : Frame) : Bool :=
  natBits 7 4 (leAt b 8 1) != 0 || natBits 7 1 f.flags != 0 || natBits 7 4 f.fmt != 0 || (f.op != opAccum && f.fmt != 0) ||
    (f.op != opReadResp && f.status != 0) || natBits 15 13 f.len != 0 || f.aux != 0 || natBits 63 48 f.addr != 0

def epEdge (p : Nat) : Nat := 0xFFFFF0 + p
def epCauseway : Nat := 0xFFFFFC
def epTaint : Nat := 0xFFFFFD
def epMarkers : Nat := 0xFFFFFE

/-- The NODE and the endpoint of a 32-bit endpoint (R454). -/
def nodeOf (ep : Nat) : Nat := natBits 31 24 ep
def epOf (ep : Nat) : Nat := natBits 23 0 ep

/-! ### Links (R462, R463) -/

/-- VLX.NODE; plane 1 reads the value of plane 0 (R481). -/
def State.node (s : State) : Nat := s.getF F.VLX_NODE_NODE 0

def State.vlink (s : State) (l : Nat) : VLink := look (fun _ => VLink.reset) s.links l

def State.setVlink (s : State) (l : Nat) (x : VLink) : State := { s with links := put (fun _ => VLink.reset) s.links l x }

/-- The link of port k of a plane. -/
def portLink (p : Fin 2) (k : Nat) : Nat := 32 * p.val + k

/-- A port carries frames: X8, X8_CAL, X4_LOW or X4_HIGH (R486). An external causeway port does while a command uses it. -/
def State.linkUp (s : State) (l : Nat) : Bool :=
  if l < 64 then decide (2 ≤ s.getF F.VPT_STATE_STATE l ∧ s.getF F.VPT_STATE_STATE l ≤ 5) else s.getF F.CWY_CMD_BUSY 0 == 1

/-- One more frame fits: fewer than 2,048 unacknowledged, and 256 KiB of replay buffer (R451, R463). -/
def VLink.room (x : VLink) (n : Nat) : Bool :=
  decide (x.buf.length < 2048) && decide ((x.buf.map (fun e => e.2.length)).foldl (· + ·) 0 + n ≤ 262144)

/-- A link tag with its code. -/
def VLink.tag (x : VLink) (seq : Nat) (nak frame : Bool) : W64 :=
  let w := seq + ((x.rxSeq + 4095) % 4096) <<< 12 + boolNat x.rxAny <<< 24 + boolNat nak <<< 25 + boolNat frame <<< 26
  BitVec.ofNat 64 (w + wordCrc (BitVec.ofNat 64 w) <<< 56)

/-- Something put on the wire of a link. -/
def State.onWire (s : State) (l : Nat) (tag : W64) (bs : List Byte) : State :=
  let s := { s with wire := s.wire ++ [(l, tag, bs)] }
  if l < 64 && !bs.isEmpty then s.count C.VPT_BYTES_TX l bs.length else s

/-- A frame numbered, kept in the replay buffer and sent. -/
def State.transmitFrame (s : State) (l : Nat) (bs : List Byte) : State :=
  let x := s.vlink l
  let s := s.onWire l (x.tag x.nextSeq false true) bs
  s.setVlink l { x with nextSeq := (x.nextSeq + 1) % 4096, buf := x.buf ++ [(x.nextSeq, bs)] }

/-- A frame handed to a link; it waits where the replay buffer has no room, and is gone where the link is down. A module
without a NODE sends no frame (R456). -/
def State.sendFrame (s : State) (l : Nat) (bs : List Byte) : State :=
  let x := s.vlink l
  if s.node == 0 || !s.linkUp l then s
  else if x.txq.isEmpty && x.room bs.length then s.transmitFrame l bs
  else s.setVlink l { x with txq := x.txq ++ [bs] }

/-- Frames that waited are sent while there is room. -/
def State.pumpLink (s : State) (l : Nat) : List (List Byte) → State
  | [] => s.setVlink l { s.vlink l with txq := [] }
  | b :: r =>
    if (s.vlink l).room b.length then (s.transmitFrame l b).pumpLink l r
    else s.setVlink l { s.vlink l with txq := b :: r }

/-- A link retry begins after a fully acknowledged state (R464); a calibrating lane returns first (R467). -/
def State.beginRetry (s : State) (l : Nat) : State :=
  let x := s.vlink l
  if x.retry then s
  else
    let s := s.setVlink l { x with retry := true }
    let s := if l < 64 && s.getF F.VPT_STATE_STATE l == 3 then s.setF F.VPT_STATE_STATE l 2 else s
    if l < 64 then s.count C.VPT_RETRIES l 1 else s

/-- Every frame of the replay buffer sent again, in SEQ order (R463). -/
def State.replay (s : State) (l : Nat) : State :=
  let x := s.vlink l
  if x.buf.isEmpty then s
  else
    let s := x.buf.foldl (fun s e => s.onWire l ((s.vlink l).tag e.1 false true) e.2) (s.beginRetry l)
    if l < 64 then s.count C.VPT_REPLAYS l x.buf.length else s

/-- An acknowledgement: frames up to ACK_SEQ leave the replay buffer, which ends a retry when it is empty. -/
def State.acked (s : State) (l ackSeq : Nat) : State :=
  let x := s.vlink l
  if x.buf.any (fun e => e.1 == ackSeq) then
    let buf := (x.buf.dropWhile (fun e => e.1 != ackSeq)).drop 1
    let s := s.setVlink l { x with buf := buf, retry := x.retry && !buf.isEmpty }
    s.pumpLink l x.txq
  else s

/-- A NAK sent: once, until the SEQ expected arrives (R463). -/
def State.sendNak (s : State) (l : Nat) : State :=
  let x := s.vlink l
  if x.nak then s
  else
    let s := (s.setVlink l { x with nak := true }).onWire l (x.tag 0 true false) []
    if l < 64 then s.count C.VPT_NAKS l 1 else s

/-- What a good link tag acknowledges or asks for. -/
def State.tagWork (s : State) (l : Nat) (tag : W64) : State :=
  let s := if wbits tag 24 24 == 1 then s.acked l (wbits tag 23 12) else s
  if wbits tag 25 25 == 1 then s.replay l else s

def tagGood (tag : W64) : Bool := wbits tag 63 56 == wordCrc tag

/-- What the link layer makes of an arriving frame: seen above it, discarded by its length, or not accepted. -/
inductive LinkFate where
  | accepted | malformed | none
  deriving DecidableEq, Repr

/-- An arriving tag with its frame: the tag's code, SEQ, length and trailer are checked, in this order (R459, R463). -/
def State.recvFrame (s : State) (l : Nat) (tag : W64) (b : List Byte) : State × LinkFate :=
  if !s.linkUp l then (s, .none)
  else if !tagGood tag then (s.sendNak l, .none)
  else
    let s := s.tagWork l tag
    let x := s.vlink l
    if wbits tag 26 26 == 0 || s.node == 0 then (s, .none)
    else if wbits tag 11 0 != x.rxSeq then (s.sendNak l, .none)
    else
      let f := Frame.ofBytes b
      let bad := decide (b.length < 48) || b.length != 48 + f.wants || decide (4096 < natBits 12 0 f.len) || f.len % 8 != 0
      if !bad && !goodTrailer b then (s.sendNak l, .none)
      else
        let s := s.setVlink l { x with rxSeq := (x.rxSeq + 1) % 4096, rxAny := true, nak := false }
        let s := if l < 64 then s.count C.VPT_BYTES_RX l b.length else s
        (s, if bad then .malformed else .accepted)

/-! ### Answers (R458) -/

/-- The answer to a frame, of LEN 0. -/
def Frame.answer (f : Frame) (status : Nat) : Frame :=
  { dest := f.src, src := f.dest, op := opReadResp, flags := 0, fmt := 0, status := status, len := 0, aux := 0
    addr := 0, cid := f.cid, wm := f.wm, retain := 0, payload := [] }

/-- The answer sent on the link on which the frame arrived, where the frame asks for one. -/
def State.answerFrame (s : State) (l : Nat) (f : Frame) (status : Nat) : State :=
  if f.ackReq then s.sendFrame l (f.answer status).bytes else s

end Sys2Proof.Machine
end

