-- ==== Sys2Proof/Machine/StreamOps.lean ====
section
/-!
DEFINITION. Streams: descriptors, units and delivered bytes, source and stream blocks, contexts with their frames, credit
and underruns, and the end of a context. Spec: 07_stream_engine (R330 to R341, R344 to R355, R361 to R366).
-/
namespace Sys2Proof.Machine

/-! ### Descriptors (R333) -/

/-- The 128 bytes of a stream descriptor. -/
abbrev SDesc := List Byte

def SDesc.srcAddr (d : SDesc) : Nat := natBits 47 0 (leAt d 0 8)
def SDesc.srcEp (d : SDesc) : Nat := leAt d 8 4
def SDesc.server (d : SDesc) : Bool := (leAt d 12 1).testBit 0
def SDesc.group (d : SDesc) : Nat := natBits 3 1 (leAt d 12 1)
def SDesc.fmt (d : SDesc) : Nat := natBits 3 0 (leAt d 13 1)
def SDesc.saxis (d : SDesc) : Bool := (leAt d 13 1).testBit 4
def SDesc.ndim (d : SDesc) : Nat := natBits 2 0 (leAt d 14 1)
def SDesc.dclass (d : SDesc) : Nat := natBits 1 0 (leAt d 15 1)
def SDesc.fetchAhead (d : SDesc) : Nat := natBits 5 2 (leAt d 15 1)
def SDesc.stride (d : SDesc) (n : Nat) : Int := natSigned 40 (natBits 39 0 (leAt d (16 + 8 * n) 8))
def SDesc.cnt (d : SDesc) (n : Nat) : Nat := natBits 63 40 (leAt d (16 + 8 * n) 8)
def SDesc.scaleAddr (d : SDesc) : Nat := natBits 47 0 (leAt d 56 8)
def SDesc.towpath (d : SDesc) : Bool := natBits 1 0 (leAt d 64 1) == 1
def SDesc.mc (d : SDesc) : Bool := (leAt d 64 1).testBit 2
def SDesc.side (d : SDesc) : Nat := natBits 3 3 (leAt d 64 1)
def SDesc.ringPanels (d : SDesc) : Nat := leAt d 65 1
def SDesc.panel (d : SDesc) : Nat := 32 * natBits 11 0 (leAt d 66 2)
def SDesc.dstEp (d : SDesc) : Nat := natBits 23 0 (leAt d 68 4)
def SDesc.dstAddr (d : SDesc) : Nat := natBits 18 0 (leAt d 72 4)
def SDesc.dstScale (d : SDesc) : Nat := natBits 18 0 (leAt d 76 4)
def SDesc.dataMarker (d : SDesc) : Nat := natBits 11 0 (leAt d 80 2)
def SDesc.dataEn (d : SDesc) : Bool := (leAt d 80 2).testBit 15
def SDesc.credMarker (d : SDesc) : Nat := natBits 11 0 (leAt d 82 2)
def SDesc.credEn (d : SDesc) : Bool := (leAt d 82 2).testBit 15
def SDesc.credDiv (d : SDesc) : Nat := leAt d 84 1
def SDesc.rate (d : SDesc) : Nat := natBits 19 0 (leAt d 85 3)
def SDesc.sid (d : SDesc) : Nat := leAt d 88 4

/-- The dimensions that NDIM names: stride and count. -/
def SDesc.dims (d : SDesc) : List (Int × Nat) := (List.range (min d.ndim 5)).map (fun n => (d.stride n, d.cnt n))

/-- Unit bytes and elements per unit (R334). -/
def SDesc.unit (d : SDesc) : Nat × Nat :=
  match d.fmt with
  | 0 => (4, 1)
  | 1 | 2 => (2, 1)
  | 7 | 8 => (3, 4)
  | 9 => (1, 2)
  | _ => (1, 1)

/-- The format is MX. -/
def SDesc.mx (d : SDesc) : Bool := match Fmt.ofCode d.fmt with | some f => f.isMx | none => false

/-- M: the bytes of a source block (R338). -/
def SDesc.blockBytes (d : SDesc) : Nat := match d.fmt with | 7 | 8 => 24 | 9 => 16 | _ => 32

/-- Number of units. -/
def SDesc.units (d : SDesc) : Nat := (d.dims.map (fun x => x.2)).foldl (· * ·) 1

/-- Each 24 delivered bytes of a TILE stream in an MXFP6 format are followed by 8 zero bytes (R335). -/
def SDesc.pad (d : SDesc) : Bool := (d.fmt == 7 || d.fmt == 8) && !d.towpath

/-- The delivered bytes of the stream (R335). -/
def SDesc.total (d : SDesc) : Nat :=
  let n := d.units * d.unit.1
  if d.pad then n + 8 * (n / 24) else n

/-- The source address of unit u in stream order (R334). -/
def unitAddr (base : Int) : List (Int × Nat) → Nat → Int
  | [], _ => base
  | (st, c) :: r, u => unitAddr (base + st * (u % c : Nat)) r (u / c)

def SDesc.addrOf (d : SDesc) (u : Nat) : Int := unitAddr d.srcAddr d.dims u

/-- The place among the units' bytes of a delivered byte; a padding byte takes the place of the byte before it. -/
def SDesc.rawOf (d : SDesc) (o : Nat) : Nat := if d.pad then 24 * (o / 32) + min (o % 32) 23 else o

/-- A delivered byte is padding. -/
def SDesc.isPad (d : SDesc) (o : Nat) : Bool := d.pad && decide (24 ≤ o % 32)

/-- The source address of the byte under a delivered byte. -/
def SDesc.byteAddr (d : SDesc) (o : Nat) : Nat :=
  let r := d.rawOf o
  (d.addrOf (r / d.unit.1) + (r % d.unit.1 : Nat)).toNat

/-- Number of panels. -/
def SDesc.panels (d : SDesc) : Nat := (d.total + d.panel - 1) / d.panel

/-- First delivered byte of panel p, and the byte after its last (R335). -/
def SDesc.panelLo (d : SDesc) (p : Nat) : Nat := d.panel * p
def SDesc.panelHi (d : SDesc) (p : Nat) : Nat := min (d.panel * p + d.panel) d.total

/-- The frames of a panel (R349). -/
def SDesc.frames (d : SDesc) (p : Nat) : Nat := (d.panelHi p - d.panelLo p + 4095) / 4096

/-- The chunk of a delivered byte: chunk c of panel p is 16p + c (R350). -/
def SDesc.chunkOf (d : SDesc) (o : Nat) : Nat := 16 * (o / d.panel) + o % d.panel / 4096

/-- The delivered bytes of a chunk. -/
def SDesc.chunkBytes (d : SDesc) (c : Nat) : List Nat :=
  let lo := d.panelLo (c / 16) + 4096 * (c % 16)
  let hi := min (lo + 4096) (d.panelHi (c / 16))
  (List.range (hi - lo)).map (lo + ·)

/-- The chunks of a panel. -/
def SDesc.chunks (d : SDesc) (p : Nat) : List Nat := (List.range (d.frames p)).map (16 * p + ·)

/-! ### Blocks (R338 to R341) -/

/-- The source block of element e: below SRC_ADDR too, where a stride is negative, in whole blocks counted down. -/
def SDesc.blockOf (d : SDesc) (e : Nat) : Int := (d.addrOf (e / d.unit.2) - d.srcAddr) / d.blockBytes

/-- Delivered bytes of a stream block of a TILE stream (R339). -/
def SDesc.streamBlock (d : SDesc) : Nat := if d.pad then 32 else 32 / d.unit.2 * d.unit.1

/-- Bytes and elements of a token (R88). -/
def SDesc.tokBytes (d : SDesc) : Nat := if d.fmt == 7 || d.fmt == 8 then 24 else 32
def SDesc.tokElems (d : SDesc) : Nat := d.tokBytes / d.unit.1 * d.unit.2

/-- Number of tokens formed from the delivered bytes before o. A token belongs to the panel that holds its last byte. -/
def SDesc.tokens (d : SDesc) (o : Nat) : Nat := if o == d.total then (o + d.tokBytes - 1) / d.tokBytes else o / d.tokBytes

/-- Number of stream blocks that end in the delivered bytes before o. -/
def SDesc.blocks (d : SDesc) (o : Nat) : Nat := if o == d.total then (o + d.streamBlock - 1) / d.streamBlock else o / d.streamBlock

/-- The elements of the stream under a scale byte: stream block j of a TILE stream, or scale byte n of token t of a TOWPATH
stream at 8t + n (R339, R340). -/
def SDesc.under (d : SDesc) (j : Nat) : List Nat :=
  let all := d.units * d.unit.2
  (if d.towpath then
    let n := d.tokElems
    ((List.range n).filter (fun e => if d.saxis then e / 8 == j % 8 else e % 8 == j % 8)).map (fun e => n * (j / 8) + e)
  else (List.range 32).map (32 * j + ·)).filter (fun e => decide (e < all))

/-- The scale bytes that travel with the delivered bytes [lo, hi): those of the stream blocks, or tokens, that end there. -/
def SDesc.scalesIn (d : SDesc) (lo hi : Nat) : List Nat :=
  if !d.mx then []
  else if d.towpath then
    ((List.range (d.tokens hi - d.tokens lo)).flatMap (fun i => (List.range 8).map (fun n => 8 * (d.tokens lo + i) + n))).filter
      (fun j => !(d.under j).isEmpty)
  else (List.range (d.blocks hi - d.blocks lo)).map (d.blocks lo + ·)

/-- The scale byte's source address: that of the source block of its first element (R338). -/
def SDesc.scaleOf (d : SDesc) (j : Nat) : Nat := ((d.scaleAddr : Int) + d.blockOf ((d.under j).headD 0)).toNat

/-- Elements of two source blocks fall under a scale byte that has elements in the panel (R341). -/
def SDesc.splits (d : SDesc) (p : Nat) : Bool :=
  let lo := d.panelLo p
  let hi := d.panelHi p
  let last := if hi == d.total then hi else min d.total (hi + 31)
  let starts (j : Nat) : Bool := decide ((if d.towpath then j / 8 * d.tokBytes else j * d.streamBlock) < hi)
  (d.scalesIn lo hi ++ (d.scalesIn hi last).filter starts).any (fun j =>
    match d.under j with
    | e :: r => r.any (fun x => d.blockOf x != d.blockOf e)
    | [] => false)

/-- Insertion into a rising list. -/
def insertRising (x : Nat) : List Nat → List Nat
  | [] => [x]
  | y :: r => if x < y then x :: y :: r else if x = y then y :: r else y :: insertRising x r

/-- A list in rising order, each number once. -/
def rising (l : List Nat) : List Nat := l.foldr insertRising []

/-- The source addresses that a chunk needs: the bytes of its units and of its scale bytes (R350). -/
def SDesc.needs (d : SDesc) (c : Nat) : List Nat :=
  let os := d.chunkBytes c
  let units := rising (os.map (fun o => d.rawOf o / d.unit.1))
  let lo := os.headD 0
  units.flatMap (fun u => (List.range d.unit.1).map (fun i => (d.addrOf u).toNat + i)) ++
    (d.scalesIn lo (lo + os.length)).map d.scaleOf

/-- The bursts that a chunk reads, each once. -/
def SDesc.bursts (d : SDesc) (c : Nat) : List Nat := rising ((d.needs c).map (· / 64))

/-- Rising word numbers grouped into contiguous runs of at most 512: first word and length. -/
def runsOf : List Nat → List (Nat × Nat)
  | [] => []
  | w :: r =>
    match runsOf r with
    | (a, n) :: t => if a = w + 1 ∧ n < 512 then (w, n + 1) :: t else (w, 1) :: (a, n) :: t
    | [] => [(w, 1)]

/-- The server requests of a chunk: address and length of each contiguous run of its source bytes, widened to whole words
of 8 bytes, as a frame's LEN asks (R350, R454). -/
def SDesc.runs (d : SDesc) (c : Nat) : List (Nat × Nat) :=
  (runsOf (rising ((d.needs c).map (· / 8)))).map (fun x => (8 * x.1, 8 * x.2))

/-! ### Contexts (R330, R347) -/

def ctxKey (p : Fin 2) (c : Nat) : Nat := p.val * 2 ^ 20 + c

def State.ctx (s : State) (k : Nat) : StreamCtx := look (fun _ => StreamCtx.reset) s.ctxs k

def State.setCtx (s : State) (k : Nat) (c : StreamCtx) : State := { s with ctxs := put (fun _ => StreamCtx.reset) s.ctxs k c }

/-- The plane of a context key. -/
def ctxPlane (k : Nat) : Fin 2 := if k / 2 ^ 20 = 0 then 0 else 1

def StreamCtx.d (c : StreamCtx) : SDesc := c.desc

/-- The context is open. -/
def StreamCtx.live (c : StreamCtx) : Bool := c.state != .free

/-- The field that a context delivers into. -/
def StreamCtx.dest (c : StreamCtx) (p : Fin 2) : FieldAddr :=
  if h : c.field < 60 then ⟨p, ⟨c.field, h⟩⟩ else ⟨p, 0⟩

/-- The contexts that deliver into a field, by key. -/
def fieldCtxs (s : State) (f : FieldAddr) : List Nat :=
  (s.ctxs.filter (fun e => e.1 / 2 ^ 20 == f.plane.val && e.2.live && e.2.field == f.field.val)).map (fun e => e.1)

/-- Panels injected in full. -/
def StreamCtx.done (c : StreamCtx) : Nat := if c.sent == c.d.total then c.d.panels else c.sent / c.d.panel

/-- The panels that hold frames (R349). -/
def StreamCtx.heldPanels (c : StreamCtx) : List Nat := (List.range (c.next - c.done)).map (c.done + ·)

/-- The frames that a context holds. -/
def StreamCtx.frames (c : StreamCtx) : Nat := (c.heldPanels.map c.d.frames).foldl (· + ·) 0

/-- Frames held in the waystation of a group: by every context, or by HOLDING contexts only (R349, R352). -/
def State.groupFrames (s : State) (p : Fin 2) (g : Nat) (holding : Bool) : Nat :=
  ((s.ctxs.filter (fun e => e.1 / 2 ^ 20 == p.val && e.2.live && e.2.d.group == g && (!holding || e.2.state == .holding))).map
    (fun e => e.2.frames)).foldl (· + ·) 0

/-- SEN.GRP_OCC.PEAK raised to the frames held now (R373). -/
def State.notePeak (s : State) (p : Fin 2) (g : Nat) : State :=
  let n := s.groupFrames p g false
  if s.getF (F.SEN_GRP_OCC_PEAK g) p < n then s.setF (F.SEN_GRP_OCC_PEAK g) p n else s

/-- A source byte of a chunk is in the waystation. -/
def StreamCtx.has (c : StreamCtx) (chunk a : Nat) : Bool := c.data.any (fun e => e.1 == chunk * 2 ^ 48 + a)

def StreamCtx.byte (c : StreamCtx) (chunk a : Nat) : Byte := look (fun _ => 0) c.data (chunk * 2 ^ 48 + a)

/-- Delivered byte o is in the waystation. -/
def StreamCtx.present (c : StreamCtx) (o : Nat) : Bool := c.has (c.d.chunkOf o) (c.d.byteAddr o)

/-- Delivered byte o. -/
def StreamCtx.delivered (c : StreamCtx) (o : Nat) : Byte :=
  if c.d.isPad o then 0 else c.byte (c.d.chunkOf o) (c.d.byteAddr o)

/-- The delivered bytes of a chunk that stand on source bytes just fetched (R335). -/
def StreamCtx.fetched (c : StreamCtx) (chunk : Nat) (bytes : List (Nat × Byte)) : Nat :=
  (c.d.chunkBytes chunk).countP (fun o => bytes.any (fun e => e.1 == c.d.byteAddr o))

/-- The panel that comes next holds a byte that cannot be had: nothing of it is injected (R364). -/
def StreamCtx.spoilt (c : StreamCtx) : Bool := c.bad.any (fun e => e.1 == c.done)

/-- S of R353: the delivered bytes in the waystation that have not been injected. -/
def StreamCtx.staged (c : StreamCtx) : Nat :=
  ((c.heldPanels.flatMap c.d.chunks).flatMap c.d.chunkBytes).countP (fun o => decide (c.sent ≤ o) && c.present o)

/-- The value of the credit marker, divided by CREDIT_DIV; 0 while the write of R346 has yet to be applied. -/
def State.credit' (s : State) (k : Nat) (c : StreamCtx) : Nat :=
  let x := s.fieldSt (c.dest (ctxPlane k))
  if x.mops.any (fun op => op.write && op.marker == c.d.credMarker && op.kind == 1) then 0
  else (x.marker c.d.credMarker).value.toNat / c.d.credDiv

/-- S + D of R353. -/
def State.stock (s : State) (k : Nat) (c : StreamCtx) : Int :=
  c.staged + (if c.d.ringPanels != 0 then (c.sent : Int) - (c.d.panel * s.credit' k c : Nat) else 0)

/-- TTE (R353). -/
def State.tte (s : State) (k : Nat) (c : StreamCtx) : Nat := min (2 ^ 32 - 1) ((s.stock k c).toNat * 1000 / c.d.rate)

/-- A count under the context's waymark (R366). -/
def State.countCtx (s : State) (k : Nat) (x : Ctr) (n : Nat) (wm : Waymark) : State := s.countWm x (ctxPlane k) n wm

/-- As `countCtx` by one, with the interrupt of a counter that leaves 0 (R374). -/
def State.countCtxIrq (s : State) (k : Nat) (x : Ctr) (bit : Nat) (wm : Waymark) : State :=
  let p := ctxPlane k
  let s' := s.countWm x p 1 wm
  if s.getC x p == 0 && s'.getC x p != 0 then s'.setIrq .SEN p bit else s'

/-- An underrun: S + D of a DELIVERING stream with a rate becomes 0 with bytes still to inject (R355). -/
def State.noteDry (s : State) (k : Nat) : State :=
  let c := s.ctx k
  if c.state != .delivering || c.d.rate == 0 then s
  else
    let dry := decide (s.stock k c ≤ 0) && decide (c.sent < c.d.total)
    let s := if dry && !c.dry then s.countCtxIrq k C.SEN_UNDERRUNS 1 c.wm else s
    s.setCtx k { c with dry := dry }

/-! ### Errors and the end of a context (R336, R348, R361 to R365) -/

/-- The class of a stream status (R336). -/
def streamHw (status refuse : Nat) : Bool := [8, 9, 10].contains status || (status == 6 && refuse == 6)

/-- The first error or refusal in SEN.ERR_FIRST, and one record per waymark (R365). -/
def State.streamError (s : State) (p : Fin 2) (status refuse ctx : Nat) (wm : Waymark) (sid field : Nat) (cyc : W64) : State :=
  let first : W64 := BitVec.ofNat 64 (status + (if status == 6 then refuse else 0) <<< 4 + ctx <<< 7 + 1 <<< 31 + wm.toNat <<< 32)
  let id : W64 := BitVec.ofNat 64 (sid + field <<< 32)
  let s := if s.getF F.SEN_ERR_FIRST_VALID p == 0 then s.setErr .SEN p 0 else s
  let s := s.captureFirst F.SEN_ERR_FIRST_VALID p (some 0) [(0x0C8, first), (0x0D0, id), (0x0D8, cyc)]
  s.raiseOnce (1000 + p.val) (s.errRec 0x1101 2 (streamHw status refuse) wm p (.plane p) opStreamOpen 2 [first, id, cyc])

/-- An open context, named by its key and generation. -/
def ctxTag (k : Nat) (c : StreamCtx) : Nat := k * 256 + c.gen.toNat

/-- The context of a tag is still open. -/
def State.tagOpen (s : State) (t : Nat) : Bool :=
  let c := s.ctx (t / 256)
  c.live && c.gen.toNat == t % 256

/-- A STREAM_CANCEL completes when every context that it matched is FREE (R362). -/
def State.cancelsDone (s : State) (p : Fin 2) : State :=
  let e := 3 + p.val
  (List.range 64).foldl (fun s q =>
    (s.queue e q).recs.foldl (fun s (r : EngRec) =>
      if r.stage == .running && RawRec.opcode r.raw == opStreamCancel && !r.matched.any s.tagOpen then
        s.complete e q r.index 0 0 false (BitVec.ofNat 64 r.matched.length)
      else s) s) s

/-- RESULT of a STREAM_OPEN (R402). -/
def StreamCtx.result (c : StreamCtx) (k : Nat) : W64 := BitVec.ofNat 64 (k % 2 ^ 20 + c.gen.toNat <<< 20 + c.d.sid <<< 32)

/-- A context goes FREE: its frames and requests are gone, its generation rises, and its STREAM_OPEN completes (R330, R348). -/
def State.freeCtx (s : State) (k status : Nat) : State :=
  let c := s.ctx k
  let p := ctxPlane k
  let s := s.countCtx k (match status with | 0 => C.SEN_COMPLETED | 1 => C.SEN_CANCELLED | _ => C.SEN_FAILED) 1 c.wm
  let s := s.setCtx k { StreamCtx.reset with gen := c.gen + 1 }
  (s.complete (3 + p.val) c.queue c.index 0 status (streamHw status c.refuse) (c.result k)).cancelsDone p

/-- A context is cancelled, or fails: it discards what the waystation holds and enters ENDING (R361, R363). -/
def State.endCtx (s : State) (k status refuse : Nat) : State :=
  let c := s.ctx k
  let s := s.countCtx k C.SEN_DISCARD_BYTES c.staged c.wm
  let s := s.setCtx k { c with state := .ending, status := status, refuse := refuse, reqs := c.reqs.filter (fun r => !r.server) }
  if status == 1 then s
  else s.streamError (ctxPlane k) status refuse (k % 2 ^ 20) c.wm c.d.sid c.field (s.cycleOf (c.dest (ctxPlane k)))

/-- A stream ends with an error once the panels before the failing one have been injected (R341, R363). -/
def State.streamBad (s : State) (k : Nat) : State :=
  let c := s.ctx k
  if c.state != .holding && c.state != .delivering then s
  else
    match c.bad.find? (fun e => e.1 == c.done) with
    | some (_, status) => s.endCtx k status 0
    | none => s

/-- Contexts that a cancellation matches (R360). -/
def State.matchCtxs (s : State) (p : Fin 2) (scope key : Nat) : List Nat :=
  (s.ctxs.filter (fun e => e.1 / 2 ^ 20 == p.val && (e.2.state == .holding || e.2.state == .delivering) &&
    (match scope with
     | 0 => e.2.d.sid == key
     | 1 => e.2.wm.toNat == key
     | 2 => s.slotOfField (e.2.dest p) == some key
     | _ => true))).map (fun e => e.1)

/-- Every matching context is cancelled. -/
def State.cancelStreams (s : State) (p : Fin 2) (scope key : Nat) : State :=
  (s.matchCtxs p scope key).foldl (fun s k => s.endCtx k 1 0) s

end Sys2Proof.Machine
end

