-- ==== Sys2Proof/Machine/Markers.lean ====
section
/-!
DEFINITION. Markers and milestone wires: MSIG, BARR, the marker unit of a field, watches, barrier completion and its
watchdog, and the marker snapshot. Spec: 09_barriers_and_markers (R419 to R450), 08 (R384 MARKER_WRITE).
-/
namespace Sys2Proof.Machine

/-! ### Instructions (R422, R427, R435, R436) -/

/-- The identity of a task in LAST_ID, and in a WAITER of kind TILE_WATCH. -/
def tileId (a : TileAddr) (task : Nat) : Nat := a.row + a.col.val <<< 7 + task <<< 14

/-- MSIG in SIGNAL mode: the marker is signalled by g[SRC1]. -/
def execOpMsig (a : TileAddr) (task : Fin 4) (slot : Fin 128) (s : State) : Host.Outcome State Fault Refusal :=
  .next (
    if ((s.tile a).slotWord slot).immF 12 12 == 1 then s
    else s.fire a task slot 0x38 noCmp (fun w t s =>
      s.signal a.fld 2 a.loc (w.immF 11 0) ((t.task task).reg w.src1) 2 (BitVec.ofNat 32 (tileId a task)) (s.fldWm a.fld.plane)))

/-- MSIG in WATCH mode: the task's watch is armed, or replaced. A satisfied watch that still waits for its CQ is
replaced as well. -/
def execOpMsigWatch (a : TileAddr) (task : Fin 4) (slot : Fin 128) (s : State) : Host.Outcome State Fault Refusal :=
  .next (
    if ((s.tile a).slotWord slot).immF 12 12 == 0 then s
    else s.fire a task slot 0x38 noCmp (fun w t s =>
      let c := (s.tile a).task task
      let s := if c.watch.isSome then s.count C.MRK_WATCH_REPLACED a.fld.inst 1 else s
      let watch : Watch := { marker := w.immF 11 0, value := (t.task task).reg w.src1, cq := w.immF 14 13
                             token := ((t.task task).reg w.src2).setWidth 8, satisfied := false }
      s.setTile a ((s.tile a).setTask task { c with watch := some watch })))

/-- BARR: the tile arrives on a channel; a BARR on a channel whose latch is set is discarded and captured. -/
def execOpBarr (a : TileAddr) (task : Fin 4) (slot : Fin 128) (s : State) : Host.Outcome State Fault Refusal :=
  .next (s.fire a task slot 0x39 noCmp (fun w _ s =>
    let ch := w.immF 3 0
    let t := s.tile a
    if t.barLatch.getLsbD ch then
      (s.count C.MRK_BARR_EARLY a.fld.inst 1).markerCapture a.fld 2 a.row a.col task ch 0
    else
      let s := s.setTile a { t with barLatch := t.barLatch ||| BitVec.ofNat 16 (2 ^ ch)
                                    barCq := put (fun _ => 0) t.barCq ch (w.immF 5 4) }
      (s.count C.MRK_BARR_ARRIVALS a.fld.inst 1).openChannel a.fld.plane ch))

/-! ### The marker unit (R421 to R426, R429, R431) -/

/-- The order of R424: rank, then sub-order; operations of one rank and sub-order stay in arrival order. -/
def MarkOp.before (x y : MarkOp) : Bool := decide (x.rank < y.rank) || (x.rank == y.rank && decide (x.sub < y.sub))

/-- An operation put into its place behind those that do not come after it. -/
def MarkOp.insert (x : MarkOp) : List MarkOp → List MarkOp
  | [] => [x]
  | y :: r => if x.before y then x :: y :: r else y :: MarkOp.insert x r

def sortOps (l : List MarkOp) : List MarkOp := l.foldl (fun acc x => x.insert acc) []

/-- One operation applied to its marker. -/
def State.applyMark (s : State) (f : FieldAddr) (op : MarkOp) : State :=
  let x := s.fieldSt f
  let m := x.marker op.marker
  let sum := m.value.toNat + op.amount.toNat
  let v : W32 := if op.write then op.amount else BitVec.ofNat 32 (min (2 ^ 32 - 1) sum)
  let m' : Marker := { value := v, lastKind := op.kind, lastId := op.id, lastAmount := op.amount, lastWm := op.wm, lastCyc := x.cyc }
  let s := s.setField f { x with markers := put (fun _ => Marker.reset) x.markers op.marker m' }
  let s := s.count (if op.write then C.MRK_WRITES else C.MRK_SIGNALS) f.inst 1
  if !op.write && decide (2 ^ 32 - 1 < sum) then s.countIrq C.MRK_SATURATED f.inst 1 else s

/-- A watch that the marker's value meets is satisfied (R426). -/
def FieldSt.evalWatch (x : FieldSt) (w : Watch) : Watch :=
  { w with satisfied := w.satisfied || decide (w.value.toNat ≤ ((x.marker w.marker).value).toNat) }

/-- The watches of a field evaluated at the end of a FIELD cycle. -/
def State.evalWatches (s : State) (f : FieldAddr) : State :=
  let x := s.fieldSt f
  (s.liveOf f).foldl (fun s a => (List.range 4).foldl (fun s k =>
    let c := (s.tile a).task k
    match c.watch with
    | some w => s.setTile a ((s.tile a).setTask k { c with watch := some (x.evalWatch w) })
    | none => s) s) s

/-- MARKER_UPDATE: the operations that have reached the marker unit of a field are applied in order, a MARKER_WRITE
completes with its write, a SIGNAL frame is answered, and waits and watches are evaluated. A field in layby holds its operations. -/
def execMarkerUpdate (f : FieldAddr) (s : State) : Host.Outcome State Fault Refusal :=
  .next (
    let x := s.fieldSt f
    if x.lost || x.resetting || s.inLayby f then s
    else
      let ops := sortOps x.mops
      let s := s.setField f { x with mops := [] }
      let s := ops.foldl (fun s op => s.applyMark f op) s
      let s := (s.evalWaits).evalWatches f
      let s := ops.foldl (fun s op => match op.answer with
        | some (l, bs) => s.sendFrame l bs
        | none => s) s
      let s := (fieldCtxs s f).foldl (fun s k => s.noteDry k) s
      ops.foldl (fun s op => match op.donor with
        | some (e, q, index) => s.complete e q index 0 0 false 0
        | none => s) s)

/-- MARKER_WRITE: a marker takes a value at the end of a FIELD cycle; the record completes with it. A write to a slot
without a bound field, or to a field without a marker unit, is discarded and completes at once. -/
def execMarkerWrite (q : Fin 64) (s : State) : Host.Outcome State Fault Refusal :=
  .next (
    match s.startedRec 0 q [opMarkerWrite] with
    | none => s
    | some r =>
      let ref := RawRec.opd r.raw 48 4
      match s.refField ref with
      | some f =>
        if (s.fieldSt f).lost || (s.fieldSt f).resetting then s.complete 0 q r.index 0 0 false 0
        else
          (s.setStage 0 q r.index .running).markOp f { write := true, rank := 1, sub := 0, marker := refMarker ref
                                                       amount := BitVec.ofNat 32 (RawRec.opd r.raw 52 4), kind := 1
                                                       id := BitVec.ofNat 32 (r.index <<< 9)
                                                       wm := BitVec.ofNat 32 (RawRec.wm r.raw), donor := some (0, q, r.index), answer := none }
      | none => s.complete 0 q r.index 0 0 false 0)

/-! ### Watches (R427, R440) -/

/-- WATCH_DELIVERY: the token of a satisfied watch enters its CQ once there is room. -/
def execWatchDelivery (a : TileAddr) (task : Fin 4) (s : State) : Host.Outcome State Fault Refusal :=
  .next (
    let t := s.tile a
    let c := t.task task
    match c.watch with
    | some w =>
      if s.tileRuns a && w.satisfied && t.cqRoom w.cq then
        let s := s.setTile a (t.setTask task { c with watch := none })
        (s.enterCq a w.cq { kind := 7, value := w.token, epoch := t.epoch }).count C.MRK_WATCHES_FIRED a.fld.inst 1
      else s
    | none => s)

/-- A cause BARRIER_TIMEOUT that a field raises. -/
def State.fieldTimeout (s : State) (f : FieldAddr) (row col : Nat) (named : Bool) : State :=
  if s.passLive f.plane && s.getF F.PAS_RUN_IN_PASS f.inst == 1 then
    { s with causes := s.causes ++ [{ plane := f.plane, cause := 0x0D, hardware := true, slot := (s.slotOfField f).getD 0
                                      row := row, col := col, task := 0, named := named, cyc := s.cycleOf f, age := 0 }] }
  else s

/-- WATCH_TIMEOUT: a watch not satisfied in time is disarmed without a token, captured and recorded; the pass aborts. -/
def execWatchTimeout (a : TileAddr) (task : Fin 4) (s : State) : Host.Outcome State Fault Refusal :=
  .next (
    let t := s.tile a
    let c := t.task task
    match c.watch with
    | some w =>
      if w.satisfied || (s.fieldSt a.fld).lost || (s.fieldSt a.fld).resetting then s
      else
        let i := a.fld.inst
        let m := (s.fieldSt a.fld).marker w.marker
        let s := s.setTile a (t.setTask task { c with watch := none })
        let s := s.count C.MRK_TIMEOUTS i 1
        let s := s.markerCapture a.fld 0 a.row a.col task w.marker 0
        let s := s.raiseOnce i (s.errRec 0x1E01 2 true (s.fldWm a.fld.plane) i (.tile a task) 0 0
          (syncMarker 1 a.fld.plane w.marker ((s.slotOfField a.fld).getD 0) m w.value.toNat (tileId a task)))
        s.fieldTimeout a.fld a.row a.col true
    | none => s)

/-! ### Barriers (R432 to R439) -/

/-- The sideband direction toward a plane is good (R493). -/
def State.sidebandGood (s : State) (p : Fin 2) : Bool :=
  s.getF (if p = 1 then F.BRG_SIDEBAND_P0_TO_P1 else F.BRG_SIDEBAND_P1_TO_P0) 0 == 1

/-- The other plane's root as a plane sees it: low while the direction toward the plane is lost (R438). -/
def State.remoteHigh (s : State) (p : Fin 2) (ch : Nat) : Bool :=
  s.sidebandGood p && look (fun _ => false) s.remoteRoot (chKey p ch)

def State.setRemote (s : State) (p : Fin 2) (ch : Nat) (v : Bool) : State :=
  { s with remoteRoot := put (fun _ => false) s.remoteRoot (chKey p ch) v }

/-- The channel's generation can complete in a plane: it is open, the plane's root is high, and so is the other's where
the channel is bridged. A bridged channel without participants in this plane completes with the other's generation. -/
def State.canComplete (s : State) (p : Fin 2) (ch : Nat) : Bool :=
  let st := s.getF (F.MLW_CH_STATE ch) p
  st != 2 && s.rootHigh p ch &&
    (if s.chBridged p ch then s.remoteHigh p ch && (st == 1 || s.getF (F.MLW_CH_STATE ch) (otherPlane p) == 1 ||
        s.getF (F.MLW_CH_GEN ch) (otherPlane p) != s.getF (F.MLW_CH_GEN ch) p)
      else st == 1)

/-- The completion reaches the participants of the plane: latches clear, tokens go to the CQs that BARR named. -/
def State.sendCompletion (s : State) (p : Fin 2) (ch : Nat) : State :=
  s.liveTiles.foldl (fun s e =>
    if e.1.fld.plane == p && e.2.barLatch.getLsbD ch then
      let t := s.tile e.1
      let cq := look (fun _ => 0) t.barCq ch
      let s := s.setTile e.1 { t with barLatch := t.barLatch &&& ~~~(BitVec.ofNat 16 (2 ^ ch))
                                      barCq := put (fun _ => 0) t.barCq ch 0 }
      s.barrierToken e.1 ch cq
    else s) s

/-- The Array Engine takes the completion of its entry or exit barrier (R289, R294). -/
def State.aeCompletion (s : State) (p : Fin 2) : State :=
  if s.causeWaits p then s
  else if s.passState p == 2 then
    let s := s.setAe p { s.ae p with entered := true }
    if s.getF F.AEN_PASS_STATE_REUSE p == 0 && s.passReady p then s.passGo p false else s
  else if s.passState p == 5 then s.passEnd p
  else s

/-- BARRIER_COMPLETE: the root completes the generation of a channel. On a bridged channel the completion also shows the
other plane, where it has not completed yet, that this plane's root was high. -/
def execBarrierComplete (p : Fin 2) (ch : Fin 16) (s : State) : Host.Outcome State Fault Refusal :=
  .next (
    if !s.canComplete p ch then s
    else
      let o := otherPlane p
      let gen := s.getF (F.MLW_CH_GEN ch) p
      let bridged := s.chBridged p ch
      let engine := s.chEngine p ch
      let s := if bridged && s.getF (F.MLW_CH_GEN ch) o == gen then s.setRemote o ch true else s
      let s := (s.setF (F.MLW_CH_GEN ch) p ((gen + 1) % 65536)).setF (F.MLW_CH_STATE ch) p 0
      let s := (s.setRemote p ch false).count C.MLW_COMPLETIONS p 1
      let s := if bridged then s.count C.MLW_BRIDGED_COMPLETIONS p 1 else s
      if engine then
        ({ s with aeArrived := put (fun _ => false) s.aeArrived (chKey p ch) false }).aeCompletion p
      else s.sendCompletion p ch)

/-- The participants of a field that have not arrived, by logical row and then column. -/
def State.missingTiles (s : State) (f : FieldAddr) (ch : Nat) : List TileAddr :=
  s.liveTiles.filterMap (fun e => if e.1.fld == f && s.takesPart e.1 e.2 ch &&
    (!e.2.barLatch.getLsbD ch || s.tileFenced e.1 || e.2.failed) then some e.1 else none)

/-- The missing-block mask. -/
def blockMask (l : List TileAddr) : Nat := l.foldl (fun m a => m ||| 2 ^ a.block) 0

/-- BARRIER_WATCHDOG: a generation that has not completed fails; the plane latches the mask, the missing fields scan
their tiles, and the pass aborts. -/
def execBarrierWatchdog (p : Fin 2) (ch : Fin 16) (s : State) : Host.Outcome State Fault Refusal :=
  .next (
    if s.getF (F.MLW_CH_STATE ch) p != 1 || s.canComplete p ch then s
    else
      let mask := s.arrMask p ch
      let gen := s.getF (F.MLW_CH_GEN ch) p
      let engine := s.chEngine p ch
      let bridged := s.chBridged p ch
      let wm := s.passWm p
      let missing : List FieldAddr := (List.finRange 60).filterMap (fun f : Fin 60 =>
        if mask.getLsbD f.val then none else some ⟨p, f⟩)
      let low := missing.head?
      let cyc := match low with | some f => s.cycleOf f | none => s.cycleOf ⟨p, 0⟩
      let first := s.getF F.MLW_TO_FIRST_VALID p == 0
      let s := (s.setF (F.MLW_CH_STATE ch) p 2).count C.MLW_TIMEOUTS p 1
      let s := if first then s.setErr .MLW p 0 else s
      let s := s.captureFirst F.MLW_TO_FIRST_VALID p (some 0)
        [(0x088, BitVec.ofNat 64 (ch.val + gen <<< 4 + boolNat engine <<< 20 + boolNat bridged <<< 21 + 1 <<< 31 + wm.toNat <<< 32)),
         (0x090, mask), (0x098, cyc)]
      let s := missing.foldl (fun s f =>
        let l := s.missingTiles f ch
        let s := s.count C.MRK_TIMEOUTS f.inst 1
        match l.head? with
        | some a => s.markerCapture f 1 a.row a.col 0 ch (blockMask l)
        | none => s.markerCapture f 1 0 0 0 ch 0) s
      let waiter := match low with
        | some f =>
          let l := s.missingTiles f ch
          (match l.head? with | some a => f.field.val + a.row.val <<< 6 + a.col.val <<< 13 + blockMask l <<< 20 | none => f.field.val)
        | none => 0
      let s := s.raise (s.errRec 0x1201 2 true wm p (match low with | some f => .field f | none => .plane p) 0 0
        [BitVec.ofNat 64 (2 + p.val <<< 8 + ch.val <<< 16 + (gen + boolNat engine <<< 16 + boolNat bridged <<< 17) <<< 32), 0, mask,
         BitVec.ofNat 64 (waiter + wm.toNat <<< 32)])
      match low with
      | some f => if engine then s.planeCause p 0x0D true else s.fieldTimeout f 0 0 false
      | none => s.planeCause p 0x0D true)

/-! ### The marker snapshot (R431, R442, R443) -/

/-- MRK_SEL: a write of MRK.SEL starts a snapshot. -/
def execMrkSel (f : FieldAddr) (fw : Bool) (value : W64) (s : State) : Host.Outcome State Fault Refusal :=
  .next (s.regWrite fw ⟨.MRK, f.inst⟩ 0x088 true value false (s.getF F.MRK_SEL_BUSY f.inst == 1)
    (fun s => s.setF F.MRK_SEL_BUSY f.inst 1))

/-- The bit of an engine in WAITMAP. -/
def waitBit (e : Nat) : Nat := if e = 0 then 12 else if e ≤ 2 then 13 else if e ≤ 4 then 14 else 15

/-- The engine codes of the queue heads that wait on a marker. -/
def State.headWaiters (s : State) (f : FieldAddr) (m : Nat) : List Nat :=
  s.queues.flatMap (fun e => match e.2.head with
    | some h =>
      let r : RawRec := h.raw
      let on (n : Nat) (sat : Bool) : Bool := refEn (r.wait n) && !sat && !s.waitMet r n && refMarker (r.wait n) == m &&
        s.refField (r.wait n) == some f
      if s.waitsArmed (e.1 / 64) h && (on 0 h.sat.1 || on 1 h.sat.2) then [e.1 / 64] else []
    | none => [])

/-- The tiles of a field with an armed watch on a marker, one entry for each watch. -/
def State.watchers (s : State) (f : FieldAddr) (m : Nat) : List TileAddr :=
  s.liveTiles.flatMap (fun e => if e.1.fld == f then
    (List.range 4).filterMap (fun k => match (e.2.task k).watch with
      | some w => if w.marker == m then some e.1 else none
      | none => none) else [])

/-- The snapshot of MRK.SEL arrives. -/
def State.markSnap (s : State) (f : FieldAddr) : State :=
  let i := f.inst
  if s.getF F.MRK_SEL_BUSY i == 0 then s
  else
    let n := s.getF F.MRK_SEL_MARKER i
    let m := (s.fieldSt f).marker n
    let heads := s.headWaiters f n
    let watches := s.watchers f n
    let map := heads.foldl (fun b e => b ||| 2 ^ waitBit e) (blockMask watches)
    let s := s.setReg ⟨.MRK, i⟩ 0x090 (BitVec.ofNat 64 (m.value.toNat + min 65535 (heads.length + watches.length) <<< 32 + map <<< 48))
    let s := s.setReg ⟨.MRK, i⟩ 0x098 (BitVec.ofNat 64 (m.lastKind + m.lastWm.toNat <<< 32))
    let s := s.setReg ⟨.MRK, i⟩ 0x0A0 (BitVec.ofNat 64 (m.lastId.toNat + m.lastAmount.toNat <<< 32))
    (s.setReg ⟨.MRK, i⟩ 0x0A8 m.lastCyc).setF F.MRK_SEL_BUSY i 0

end Sys2Proof.Machine
end

