-- ==== Sys2Proof/Machine/ExchangeOps.lean ====
section
/-!
DEFINITION. Exchanges: how their frames are formed, sent, answered and ended, destination sets, deduplication of arriving
frames, and TAINT. Spec: 10_volino_span_causeway (R460, R466, R469 to R479, R483, R484), 13 (R624, R625).
-/
namespace Sys2Proof.Machine

/-! ### Captures and counts (R483, R484) -/

/-- A frame's waymark for counting: the running waymark for WAYMARK 0. -/
def State.frameWm (s : State) (w : Waymark) : Waymark := if w = 0 then s.runWm else w

/-- An inbound refusal, or an exchange that ended with a class, in VLX.ERR_FIRST. -/
def State.vlxCapture (s : State) (p : Fin 2) (kind code port op peer cid : Nat) (wm : Waymark) (hw : Bool) : State :=
  let first : W64 := BitVec.ofNat 64 (kind + code <<< 1 + port <<< 9 + op <<< 14 + 1 <<< 31 + peer <<< 32)
  let s := if s.getF F.VLX_ERR_FIRST_VALID p == 0 then s.setErr .VLX p 0 else s
  let s := s.captureFirst F.VLX_ERR_FIRST_VALID p (some 0) [(0x0E0, first), (0x0E8, BitVec.ofNat 64 cid)]
  s.raiseOnce (1000 + p.val) (s.errRec 0x1301 2 hw wm p (.plane p) op 3 [first, BitVec.ofNat 64 cid])

/-! ### Deduplication (R460) -/

/-- What deduplication says of a CID. -/
inductive Dedup where
  | perform | duplicate | stale
  deriving DecidableEq, Repr

/-- A CID with bit 63 clear against a window, and the window when it is performed. -/
def DedupWin.test (w : DedupWin) (c : Nat) : Dedup × DedupWin :=
  let slide (h : Nat) : DedupWin := { high := h, got := (c :: w.got).filter (fun x => decide (h ≤ x + 65535)) }
  if w.got.isEmpty then (.perform, { high := c, got := [c] })
  else if w.high < c then (.perform, slide c)
  else if c + 65535 < w.high then (.stale, w)
  else if w.got.contains c then (.duplicate, w)
  else (.perform, slide w.high)

/-- The lowest NUMBER kept. -/
def lowestNumber (l : List (Nat × List Nat)) : Nat := (l.map (fun e => e.1)).foldl min (2 ^ 32)

/-- A derived CID against a derived set, and the set when it is performed: the 16 highest NUMBER values, and the latest
4,096 CIDs of each. -/
def testDerived (l : List (Nat × List Nat)) (c : Nat) : Dedup × List (Nat × List Nat) :=
  let n := natBits 59 28 c
  if decide (16 ≤ l.length) && decide (n < lowestNumber l) then (.stale, l)
  else if l.any (fun e => e.1 == n && e.2.contains c) then (.duplicate, l)
  else if l.any (fun e => e.1 == n) then
    (.perform, l.map (fun e => if e.1 == n then (n, (c :: e.2).take 4096) else e))
  else
    let kept := if 16 ≤ l.length then l.filter (fun e => e.1 != lowestNumber l) else l
    (.perform, kept ++ [(n, [c])])

/-- A state-changing frame from a NODE tested at a plane, and entered when it is to be performed. -/
def State.dedup (s : State) (p : Fin 2) (node cid : Nat) : Dedup × State :=
  if cid.testBit 63 then
    let k := ((256 * p.val + node) * 8 + natBits 62 60 cid) * 2 + natBits 27 27 cid
    let r := testDerived (look (fun _ => []) s.derived k) cid
    (r.1, { s with derived := put (fun _ => []) s.derived k r.2 })
  else
    let k := 256 * p.val + node
    let r := (look (fun _ => DedupWin.reset) s.windows k).test cid
    (r.1, { s with windows := put (fun _ => DedupWin.reset) s.windows k r.2 })

/-! ### Destination sets (R475) -/

/-- A destination NODE entered for a waymark; the sets of the last 16 waymarks are kept. -/
def State.noteDest (s : State) (p : Fin 2) (wm node : Nat) : State :=
  let l := if s.destSets.contains (p.val, wm, node) then s.destSets else s.destSets ++ [(p.val, wm, node)]
  let wms := (l.filter (fun e => e.1 == p.val)).map (fun e => e.2.1)
  let higher (w : Nat) : Nat := ((wms.filter (fun x => decide (w < x))).eraseDups).length
  { s with destSets := l.filter (fun e => e.1 != p.val || decide (higher e.2.1 < 16)) }

/-! ### Frames of an exchange (R470 to R473) -/

/-- Frame k of an exchange; `payload` is what it carries. -/
def State.exFrame (s : State) (x : Exch) (k : Nat) (payload : List Byte) (retain : Nat) : Frame :=
  { dest := x.dest, src := s.node <<< 24 + epEdge x.plane, op := x.op, flags := 1, fmt := if x.op == opAccum then x.fmt else 0
    status := 0, len := payload.length, aux := 0, addr := (x.remote + k * x.frameBytes) % 2 ^ 48, cid := x.cid + k
    wm := x.wm, retain := retain, payload := payload }

/-- The exchange goes over the span bridge: its DEST is this module's other edge memory (R470). -/
def State.exBridged (s : State) (x : Exch) : Bool :=
  decide (x.op ≤ 1) && x.dest == s.node <<< 24 + epEdge (otherPlane x.plane)

/-- The bridge's data links carry frames. -/
def State.bridgeUp (s : State) : Bool := s.getF F.BRG_LINKS_GROUPS 0 != 0 && s.getF F.PWR_BRIDGE_STATE 0 == 0

/-- The port on which an exchange sends next: the next healthy port of PORT_MASK in turn, or else the lowest healthy port
of the plane (R470, R474). -/
def State.exPort (s : State) (x : Exch) : Option Nat :=
  match ((List.range 32).map (fun i => (x.turn + i) % 32)).find? (fun n => x.mask.testBit n && s.linkUp (portLink x.plane n)) with
  | some n => some n
  | none => (List.range 32).find? (fun n => s.linkUp (portLink x.plane n))

def State.exch (s : State) (n : Nat) : Option Exch := s.exchs[n]?

def State.setExch (s : State) (n : Nat) (x : Exch) : State := { s with exchs := s.exchs.set n x }

/-- An exchange ends: its record completes, and a status with a class is captured (R474, R483). -/
def State.endExch (s : State) (n status : Nat) (k : Nat) : State :=
  match s.exch n with
  | none => s
  | some x =>
    let s := { s with exchs := s.exchs.eraseIdx n }
    match x.donor with
    | none => s
    | some (q, index) =>
      let hw := [4, 7, 8].contains status
      let s := if 2 ≤ status then
          s.vlxCapture x.plane 1 status x.lastPort x.op x.dest (x.cid + k) (s.frameWm x.wm) hw
        else s
      s.complete (5 + x.plane.val) q index 0 status hw 0

/-- What sending a frame of an exchange counts and notes (R475, R484, R624). -/
def State.noteSent (s : State) (x : Exch) (f : Frame) (again : Bool) : State :=
  let w := s.frameWm x.wm
  let s := (s.countWm C.VLX_FRAMES_TX x.plane 1 w).countWm C.VLX_BYTES_TX x.plane f.payload.length w
  let s := if again then s.countWm C.VLX_ACK_RESENDS x.plane 1 w else s
  if x.op ≤ 1 then
    let s := s.noteDest x.plane x.wm.toNat (nodeOf x.dest)
    match s.step with
    | some st =>
      let a := s.getF F.ENG_STEP_ATTEMPT 0
      if s.inStep x.wm.toNat && !st.left.contains a then { s with step := some { st with left := a :: st.left } } else s
    | none => s
  else s

/-- An answer DONE or DUPLICATE: the frame is answered, and the exchange ends with its last one (R473, R474). -/
def State.exDone (s : State) (n k : Nat) (first : Bool) : State :=
  match s.exch n with
  | none => s
  | some x =>
    let x := { x with out := x.out.filter (fun f => f.k != k) }
    let s := s.setExch n x
    let s := if first && x.op == opTaint then s.countWm C.VLX_TAINTS_TX x.plane 1 (s.frameWm x.wm) else s
    let s := match s.step with
      | some st => if first && decide (x.op ≤ 1) && s.inStep x.wm.toNat && !st.done.contains x.wm.toNat then
          { s with step := some { st with done := x.wm.toNat :: st.done } } else s
      | none => s
    if x.out.isEmpty && x.next == x.total then s.endExch n 0 0 else s

/-- An answer to frame k of exchange n (R473). -/
def State.exAnswer (s : State) (n k status : Nat) : State :=
  match status with
  | 0 => s.exDone n k true
  | 1 => s.exDone n k false
  | 2 => s.endExch n 6 k
  | 7 | 8 =>
    (match s.exch n with
     | some x => s.setExch n { x with out := x.out.map (fun f => if f.k == k then { f with backoff := true } else f) }
     | none => s)
  | _ => s.endExch n 5 k

/-- A frame of another plane's exchange that crosses the span bridge: checked as an inbound WRITE over the whole reported
capacity, deduplicated and performed (R470). -/
def State.crossWrite (s : State) (p : Fin 2) (f : Frame) : Nat × State :=
  let refuse (s : State) (code : Nat) : Nat × State :=
    (code, (s.countWm C.VLX_REFUSED_RX p 1 (s.frameWm f.wm)).vlxCapture p 0 code 0 f.op f.src f.cid (s.frameWm f.wm) false)
  if f.op != opWrite then refuse s 4
  else if s.edgeCapacity p < f.addr + f.len then refuse s 5
  else
    let r := s.dedup p (nodeOf f.src) f.cid
    match r.1 with
    | .duplicate => (1, r.2.countWm C.VLX_DUP_RX p 1 (s.frameWm f.wm))
    | .stale => (2, r.2.countWm C.VLX_STALE_RX p 1 (s.frameWm f.wm))
    | .perform => (0, (r.2.edgeWrite p f.addr f.payload).countWm C.VLX_FRAMES_RX p 1 (s.frameWm f.wm))

/-- A frame of an exchange leaves, for the first time or again. Over the bridge it is answered at once; with no healthy
port it stays, its timeouts running. -/
def State.sendEx (s : State) (n k : Nat) (again : Bool) : State :=
  match s.exch n with
  | none => s
  | some x =>
    match x.out.find? (fun f => f.k == k) with
    | none => s
    | some e =>
      let put' (s : State) (port : Option Nat) : State :=
        s.setExch n { x with turn := match port with | some q => q + 1 | none => x.turn
                             lastPort := match port with | some q => q | none => x.lastPort
                             out := x.out.map (fun f => if f.k == k then { f with port := port, backoff := false } else f) }
      if s.exBridged x then
        if s.bridgeUp then
          let r := ((put' s none).noteSent x e.frame again).crossWrite (otherPlane x.plane) e.frame
          r.2.exAnswer n k r.1
        else put' s none
      else
        match s.exPort x with
        | some q => ((put' s (some q)).noteSent x e.frame again).sendFrame (portLink x.plane q) e.frame.bytes
        | none => put' s none

/-- The next frame of an exchange formed: its payload read from edge memory, or taken from the exchange. -/
def State.formFrame (s : State) (n : Nat) (x : Exch) : State :=
  let k := x.next
  let r : State × List Byte × Bool :=
    if x.op ≤ 1 then s.edgeRead x.plane (x.src + k * x.frameBytes) (min x.frameBytes (x.bytes - k * x.frameBytes)) .exchange
    else (s, x.body, false)
  if r.2.2 then r.1.endExch n 8 k
  else
    let s := r.1
    let retain := if s.getF F.ENG_STEP_OPEN 0 == 1 then s.getF F.ENG_STEP_FIRST_WM 0 else s.getF F.ENG_STEP_LAST_LAST_CLOSED 0 + 1
    let f := s.exFrame x k r.2.1 retain
    (s.setExch n { x with next := k + 1, out := x.out ++ [{ k := k, port := none, frame := f, backoff := false }] }).sendEx n k false

/-- Exchanges that a cancellation matches (R475). A TAINT frame is matched by none. -/
def Exch.matches' (x : Exch) (p : Fin 2) (scope key : Nat) : Bool :=
  x.plane == p && x.donor.isSome && (match scope with
    | 0 => x.xid == some key
    | 1 => x.wm.toNat == key
    | 2 => false
    | _ => true)

/-- The matching exchange that ends next: those of the lowest queue first, the oldest of them first, and last those without a record
(R414). -/
def State.nextMatch (s : State) (p : Fin 2) (scope key : Nat) : Option Nat :=
  let rank (x : Exch) : Nat := match x.donor with | some d => min 64 d.1 | none => 64
  (List.range 65).findSome? (fun q => s.exchs.findIdx? (fun x => x.matches' p scope key && rank x == q))

/-- Every matching exchange ends CANCELLED at once, in ascending queue order. `fuel` bounds the exchanges. -/
def cancelExchs (p : Fin 2) (scope key : Nat) : Nat → State → State
  | 0, s => s
  | fuel + 1, s =>
    match s.nextMatch p scope key with
    | some n => cancelExchs p scope key fuel (s.endExch n 1 0)
    | none => s

def State.cancelExchanges (s : State) (p : Fin 2) (scope key : Nat) : State := cancelExchs p scope key s.exchs.length s

/-! ### TAINT (R477 to R479) -/

/-- A derived CID (R472). -/
def derivedCid (source number plane queue index : Nat) : Nat :=
  2 ^ 63 + source <<< 60 + (number % 2 ^ 32) <<< 28 + plane <<< 27 + (queue % 64) <<< 21 + index % 2 ^ 20

/-- The TAINT payload (R477). -/
def taintBytes (wm kind attempt plane slot detect : Nat) : List Byte :=
  bytesAt (leBytes 4 wm ++ leBytes 1 kind ++ leBytes 1 (attempt % 16) ++ leBytes 1 plane ++ leBytes 1 slot ++ leBytes 4 detect) 0 32

/-- A waymark is tainted, once per attempt: one frame to each destination, and one record (R478, R479, R597, R625). -/
def State.taint (s : State) (wm kind attempt plane slot : Nat) (at' : Where) : State :=
  if s.tainted.any (fun e => e.1 == wm && (e.2.1 == attempt || (kind == 1 && e.2.2 == 0))) then s
  else
    let detect := s.runWm
    let seq := s.taintSeq
    let p : Fin 2 := if (List.range 32).any (fun n => s.linkUp (portLink 0 n)) then 0 else 1
    let nodes := ((s.destSets.filter (fun e => e.2.1 == wm)).map (fun e => e.2.2 <<< 24 + epTaint))
    let fixed := (List.range 2).flatMap (fun q => (List.range 8).filterMap (fun n =>
      if s.getF (F.VLX_TAINT_DEST_EN n) q == 1 then some (s.getF (F.VLX_TAINT_DEST_DEST n) q) else none))
    let body := taintBytes wm kind attempt plane slot detect.toNat
    let cid := derivedCid 2 wm p.val 0 seq
    let mk (d : Nat) : Exch :=
      { plane := p, donor := none, op := opTaint, wm := detect, src := 0, bytes := 0, dest := d, xid := none, remote := 0
        cid := cid, mask := 2 ^ 32 - 1, frameBytes := 0, fmt := 0, window := 1, body := body, total := 1, next := 0, turn := 0
        lastPort := 0, out := [] }
    let s := { s with taintSeq := seq + 1, tainted := s.tainted ++ [(wm, attempt, kind)]
                      exchs := s.exchs ++ (nodes ++ fixed).eraseDups.map mk }
    let s := (s.count C.FLT_TAINTS_DECIDED 0 1).setIrq .FLT 0 2
    s.raise (s.errRec 0x2404 3 true detect 0 at' opTaint 3
      ((List.range 4).map (fun i => BitVec.ofNat 64 (leAt body (8 * i) 8)) ++ [BitVec.ofNat 64 seq]))

end Sys2Proof.Machine
end

