-- ==== Sys2Proof/Machine/Streams.lean ====
section
/-!
DEFINITION. The Stream Engine: opening and cancelling streams, delivery, requests under deadline arbitration, responses,
injection, timeouts and snapshots. Spec: 07_stream_engine (R331 to R374), 08 (R392).
-/
namespace Sys2Proof.Machine

/-! ### Opening (R331, R337, R342) -/

/-- BAD_DESC (R337). -/
def SDesc.bad (d : SDesc) : Bool :=
  let reserved := natBits 63 48 (leAt d 0 8) != 0 || (!d.server && d.srcEp != 0) || natBits 7 4 (leAt d 12 1) != 0 ||
    natBits 7 5 (leAt d 13 1) != 0 || natBits 7 3 (leAt d 14 1) != 0 || natBits 7 6 (leAt d 15 1) != 0 ||
    natBits 63 48 (leAt d 56 8) != 0 || natBits 7 4 (leAt d 64 1) != 0 || decide (1 < natBits 1 0 (leAt d 64 1)) ||
    natBits 15 12 (leAt d 66 2) != 0 || natBits 31 24 (leAt d 68 4) != 0 || natBits 31 19 (leAt d 72 4) != 0 ||
    natBits 31 19 (leAt d 76 4) != 0 || natBits 14 12 (leAt d 80 2) != 0 || natBits 14 12 (leAt d 82 2) != 0 ||
    natBits 23 20 (leAt d 85 3) != 0 || leAt d 92 36 != 0 || decide (12 < d.fmt)
  let dims := d.ndim == 0 || decide (5 < d.ndim) || d.dims.any (fun x => x.2 == 0) ||
    (List.range 5).any (fun n => decide (d.ndim ≤ n) && leAt d (16 + 8 * n) 8 != 0)
  let sizes := d.fmt == 11 || d.fmt == 12 || d.panel == 0 || decide (65536 < d.panel) || decide (8 < d.fetchAhead)
  let span := if d.ringPanels != 0 then d.ringPanels * d.panel else d.total
  let dest :=
    if d.towpath then
      d.fmt == 0 || d.total % 32 != 0 || d.dataEn || d.credEn || d.mc || d.ringPanels != 0 || d.dstAddr != 0 || d.dstScale != 0
    else d.total % 8 != 0 || d.dstAddr % 32 != 0 || (d.dstAddr + span - 1) / 2 ^ 18 != d.dstAddr / 2 ^ 18
  reserved || dims || sizes || dest || (d.ringPanels != 0 && !d.credEn) ||
    (if d.credEn then d.credDiv == 0 || decide (128 < d.credDiv) else d.credDiv != 0) ||
    (!d.mx && (d.scaleAddr != 0 || d.dstScale != 0))

/-- SRC_RANGE (R337). -/
def SDesc.outside (d : SDesc) (capacity : Nat) : Bool :=
  let lo : Int := (d.dims.map (fun x => min (0 : Int) (x.1 * ((x.2 - 1 : Nat) : Int)))).foldl (· + ·) (d.srcAddr : Int)
  let hi : Int := (d.dims.map (fun x => max (0 : Int) (x.1 * ((x.2 - 1 : Nat) : Int)))).foldl (· + ·) (d.srcAddr : Int)
  let block (a : Int) : Int := d.scaleAddr + (a - d.srcAddr) / (d.blockBytes : Int)
  decide (2 ^ 47 < d.total) ||
    (!d.server && (decide (lo < 0) || decide ((capacity : Int) < hi + d.unit.1) ||
      (d.mx && (decide (block lo < 0) || decide ((capacity : Int) ≤ block hi)))))

/-- The injection router of a group (R342). -/
def State.injection (s : State) (p : Fin 2) (g : Nat) : Nat × Nat := (s.getF (F.SEN_GRP_INJ_ROW g) p, s.getF (F.SEN_GRP_INJ_COL g) p)

/-- The path of a stream: its endpoint table entry and destination tile, or the cause of a refusal with the destination field, which
a cause of the path itself leaves named (R331, R337, R342, R371). -/
def State.streamPath (s : State) (p : Fin 2) (d : SDesc) : Except (Nat × Nat) (EpEntry × TileAddr) :=
  let q := s.injection p d.group
  match tileAt p q.1 q.2 with
  | none => .error (0, 0)
  | some a =>
    let e := (s.fieldSt a.fld).entry d.dstEp
    match tileAt p (EpEntry.dest e).1 (EpEntry.dest e).2, s.sendCause a.fld q d.dstEp (if d.towpath then 1 else 0) d.mc with
    | some t, some c => .error (c, if c < 2 then 0 else t.fld.field)
    | none, some c => .error (c, 0)
    | some t, none => .ok (e, t)
    | none, none => .error (0, 0)

/-- The lowest free context of a field's pool, or of the plane pool (R330, R331). -/
def State.freeContext (s : State) (p : Fin 2) (f : Nat) : Option Nat :=
  let free (c : Nat) : Bool := (s.ctx (ctxKey p c)).state == .free
  match (List.range 16384).find? (fun i => free (16384 * f + i)) with
  | some i => some (16384 * f + i)
  | none => ((List.range 65536).find? (fun i => free (983040 + i))).map (983040 + ·)

/-- A refusal at open (R336, R365). -/
def State.refuseOpen (s : State) (p : Fin 2) (q : Nat) (r : EngRec) (status refuse field : Nat) : State :=
  let d : SDesc := r.payload
  let wm : Waymark := BitVec.ofNat 32 (RawRec.wm r.raw)
  let cyc := if h : field < 60 then s.cycleOf ⟨p, ⟨field, h⟩⟩ else s.planeCycle p
  let s := (s.countWm C.SEN_FAILED p 1 wm).streamError p status refuse 0 wm d.sid field cyc
  s.complete (3 + p.val) q r.index 0 status (streamHw status refuse) 0

/-- STREAM_OPEN: a descriptor is checked and a context allocated in HOLDING. -/
def execStreamOpen (p : Fin 2) (s : State) : Host.Outcome State Fault Refusal :=
  .next (
    match s.findStarted (3 + p.val) [opStreamOpen] with
    | none => s
    | some (q, r) =>
      let d : SDesc := r.payload
      let wm : Waymark := BitVec.ofNat 32 (RawRec.wm r.raw)
      if d.bad then s.refuseOpen p q r 2 0 0
      else if d.outside (s.edgeCapacity p) then s.refuseOpen p q r 5 0 0
      else
        match s.streamPath p d with
        | .error c => s.refuseOpen p q r 6 c.1 c.2
        | .ok (e, t) =>
          let f := t.fld
          match s.freeContext p f.field with
          | none => s.refuseOpen p q r 3 0 f.field
          | some c =>
            let ep : BitVec 2 := BitVec.ofNat 2 (RawRec.epoch r.raw)
            if ep != (s.fieldSt f).epoch && ep != (s.fieldSt f).epoch + 1 then s.refuseOpen p q r 4 0 f.field
            else
              let k := ctxKey p c
              let x := { StreamCtx.reset with state := .holding, gen := (s.ctx k).gen, desc := d, wm := wm, epoch := ep
                                              queue := q, index := r.index, field := f.field.val, order := s.ctxCount
                                              router := s.injection p d.group, entry := e }
              let s := (s.setCtx k x).countWm C.SEN_OPENED p 1 wm
              { s with ctxCount := s.ctxCount + 1 }.setStage (3 + p.val) q r.index .running)

/-- STREAM_CANCEL: the contexts that match stop and enter ENDING. -/
def execStreamCancel (p : Fin 2) (s : State) : Host.Outcome State Fault Refusal :=
  .next (
    match s.findStarted (3 + p.val) [opStreamCancel] with
    | none => s
    | some (q, r) =>
      let scope := RawRec.opd r.raw 48 1 % 4
      let key := RawRec.opd r.raw 56 8
      let tags := (s.matchCtxs p scope key).map (fun k => ctxTag k (s.ctx k))
      let e := 3 + p.val
      let s := s.setQueue e q ((s.queue e q).upd r.index (fun x => { x with matched := tags, stage := .running }))
      (s.cancelStreams p scope key).cancelsDone p)

/-! ### Delivery (R346, R348, R392) -/

/-- The field is held: a STOP or an ABORT holds it. -/
def State.fieldHeld (s : State) (f : FieldAddr) : Bool := s.getF F.MESH_DRAIN_STATE_HELD f.inst == 1

/-- STREAM_DELIVER_START: a context in HOLDING whose field is at its epoch and not held, and whose waymark is open,
composes its path again, writes its credit marker to 0 and enters DELIVERING. Where the path now ends in a field that is held or at
another epoch, the context holds for that field. -/
def execStreamDeliverStart (p : Fin 2) (ctx : Nat) (s : State) : Host.Outcome State Fault Refusal :=
  .next (
    let k := ctxKey p (ctx % 2 ^ 20)
    let c := s.ctx k
    let f := c.dest p
    if c.state != .holding || (s.fieldSt f).epoch != c.epoch || s.fieldHeld f ||
        (s.getF F.ENG_WM_OPEN (3 + p.val) == 1 && decide (s.getF F.ENG_WM_CUR_WM (3 + p.val) < c.wm.toNat)) then s
    else
      match s.streamPath p c.d with
      | .error cause => s.endCtx k 6 cause.1
      | .ok (e, t) =>
        let f := t.fld
        let c := { c with router := s.injection p c.d.group, entry := e, field := f.field.val }
        if (s.fieldSt f).epoch != c.epoch || s.fieldHeld f then s.setCtx k c
        else
        let s := if c.d.credEn then
            s.markOp f { write := true, rank := 1, sub := 1, marker := c.d.credMarker, amount := 0, kind := 1
                         id := BitVec.ofNat 32 (3 + p.val + (ctx % 2 ^ 20) <<< 9), wm := c.wm, donor := none, answer := none }
          else s
        let c := { c with state := .delivering }
        s.setCtx k { c with dry := decide (s.stock k c ≤ 0) })

/-! ### Requests (R349 to R356) -/

/-- The next panel may take frames (R349, R351, R352). -/
def State.mayTake (s : State) (p : Fin 2) (c : StreamCtx) : Bool :=
  let g := c.d.group
  let n := c.d.frames c.next
  let ahead := if c.d.fetchAhead == 0 then 3 else c.d.fetchAhead
  decide (c.next < c.d.panels) && decide (c.next - c.done < ahead) && decide (s.groupFrames p g false + n ≤ 1024) &&
    (c.state != .holding || decide (s.groupFrames p g true + n ≤ s.getF F.SEN_HOLD_FRAMES p))

/-- The first request of a chunk at a port that has not been issued: its name in `issued`, address, length, bursts. -/
def State.chunkReq (s : State) (p : Fin 2) (c : StreamCtx) (server : Bool) (port chunk : Nat) :
    Option (Nat × Nat × Nat × List Nat) :=
  if server then
    if port / 4 != c.d.group then none
    else (c.d.runs chunk).findSome? (fun x => if c.issued.contains (chunk, x.1) then none else some (x.1, x.1, x.2, []))
  else if c.issued.contains (chunk, port) then none
  else
    let bs := (c.d.bursts chunk).filter (fun b => s.stackOf p (64 * b) == port)
    if bs.isEmpty then none else some (port, 0, 64 * bs.length, bs)

/-- The request of a stream that is next in line at a port, with its chunk (R354). Panels take frames in stream order. -/
def State.nextReq (s : State) (p : Fin 2) (c : StreamCtx) (server : Bool) (port : Nat) : Option (Nat × Nat × Nat × Nat × List Nat) :=
  if c.d.server != server || (c.state != .holding && c.state != .delivering) then none
  else
    (c.heldPanels ++ (if s.mayTake p c then [c.next] else [])).findSome? (fun n => (c.d.chunks n).findSome? (fun ch =>
      (s.chunkReq p c server port ch).map (fun x => (ch, x))))

/-- A port can accept a request: a stack that is not halted, or a Volino port with room in its replay buffer (R354, R563). -/
def State.portReady (s : State) (p : Fin 2) (server : Bool) (port : Nat) : Bool :=
  if server then
    s.node != 0 && s.linkUp (portLink p port) && (s.vlink (portLink p port)).txq.isEmpty && (s.vlink (portLink p port)).room 48
  else look (fun _ => 0) s.stackHeat (32 * p.val + port) < 2

/-- The order of rule 2 and rule 3 of R354: streams without a rate last, effective TTE, DCLASS, order of opening, CTX. -/
def State.reqRank (s : State) (p : Fin 2) (k : Nat) : List Nat :=
  let c := s.ctx k
  let bias := wbits (s.reg ⟨.SEN, p⟩ 0x088) (16 * c.d.dclass + 15) (16 * c.d.dclass)
  [boolNat (c.d.rate == 0), if c.d.rate == 0 then 0 else s.tte k c + 1000 * bias, c.d.dclass, c.order, k]

/-- Lexicographic order. -/
def lexLt : List Nat → List Nat → Bool
  | x :: r, y :: t => decide (x < y) || (x == y && lexLt r t)
  | _, _ => false

/-- The context whose request a port grants (R354), and whether rule 1 chose it. `starved` names the contexts whose
requests have been eligible at the port for STARVE_US or longer, oldest first. -/
def State.grant (s : State) (p : Fin 2) (server : Bool) (port : Nat) (starved : List Nat) : Option (Nat × Bool) :=
  let ks := ((s.ctxsOf p).filter (fun e => (s.nextReq p e.2 server port).isSome)).map (fun e => e.1)
  match starved.find? (fun c => ks.contains (ctxKey p c)) with
  | some c => some (ctxKey p c, true)
  | none =>
    (ks.foldl (fun b k => match b with
      | none => some k
      | some j => if lexLt (s.reqRank p k) (s.reqRank p j) then some k else some j) none).map (fun k => (k, false))

/-- The lowest waymark under which a frame may still be sent again (R470). -/
def State.retainWm (s : State) : Nat :=
  if s.getF F.ENG_STEP_OPEN 0 == 1 then s.getF F.ENG_STEP_FIRST_WM 0 else s.getF F.ENG_STEP_LAST_LAST_CLOSED 0 + 1

/-- The READREQ of a server request (R356, R454). -/
def State.readReq (s : State) (k : Nat) (c : StreamCtx) (r : StreamReq) : Frame :=
  { dest := c.d.srcEp, src := s.node <<< 24 + epEdge (ctxPlane k), op := opReadReq, flags := 0, fmt := 0, status := 0
    len := r.len, aux := 0, addr := r.addr
    cid := k % 2 ^ 20 + c.gen.toNat <<< 20 + (ctxPlane k).val <<< 28 + r.seq <<< 29
    wm := c.wm, retain := s.retainWm, payload := [] }

/-- STREAM_REQUEST: a stack port, or a Volino port, grants a request. -/
def execStreamRequest (p : Fin 2) (server : Bool) (port : Fin 32) (starved : List Nat) (s : State) : Host.Outcome State Fault Refusal :=
  .next (
    if !s.portReady p server port || (!server && decide (24 ≤ port.val)) then s
    else
      match s.grant p server port starved with
      | none => s
      | some (k, starve) =>
        let c := s.ctx k
        match s.nextReq p c server port with
        | none => s
        | some (ch, name, addr, len, bs) =>
          let s := if starve then s.countCtxIrq k C.SEN_STARVE_GRANTS 2 c.wm else s
          let r : StreamReq := { seq := c.seq, server := server, port := port, chunk := ch, addr := addr, len := len
                                 bursts := bs, sends := 1 }
          let s := s.setCtx k { c with next := max c.next (ch / 16 + 1), issued := c.issued ++ [(ch, name)]
                                       seq := c.seq + 1, reqs := c.reqs ++ [r] }
          let s := s.notePeak p c.d.group
          if server then s.sendFrame (portLink p port) (s.readReq k c r).bytes else s)

/-! ### Responses (R357, R361, R363) -/

/-- Bytes placed in the waystation. -/
def placeBytes (chunk : Nat) (l : List (Nat × Byte)) : List (Nat × Byte) → List (Nat × Byte)
  | [] => l
  | (a, b) :: r => placeBytes chunk (insertKey (chunk * 2 ^ 48 + a) b (dropKey (chunk * 2 ^ 48 + a) l)) r

/-- A request returns with source bytes, an uncorrectable one among them where it `failed`: its panel is not injected. In ENDING its
delivered bytes are discarded. -/
def State.reqBack (s : State) (k : Nat) (r : StreamReq) (bytes : List (Nat × Byte)) (failed : Bool) : State :=
  let c := s.ctx k
  let need := c.d.needs r.chunk
  let bytes := bytes.filter (fun e => need.contains e.1)
  let full := { c with data := placeBytes r.chunk c.data bytes, reqs := c.reqs.filter (· != r) }
  if c.state == .ending then
    (s.countCtx k C.SEN_DISCARD_BYTES (c.fetched r.chunk bytes) c.wm).setCtx k { full with data := c.data }
  else
    let s := s.setCtx k (if failed then { full with bad := c.bad ++ [(r.chunk / 16, 8)] } else full)
    (s.noteDry k).streamBad k

/-- A stack returns an edge-memory request of a stream (R350, R363); the bytes counted are delivered ones (R335). -/
def State.edgeBack (s : State) (k : Nat) (r : StreamReq) : State :=
  let p := ctxPlane k
  let c := s.ctx k
  let x := r.bursts.foldl (fun (x : State × Bool) b =>
    let y := x.1.edgeRead p (64 * b) 64 .stream
    (y.1, x.2 || y.2.2)) (s, false)
  let bytes := r.bursts.flatMap (fun b => (List.range 64).map (fun i => (64 * b + i, x.1.edgeByte p (64 * b + i))))
  (x.1.countCtx k C.SEN_BYTES_EDGE (c.fetched r.chunk bytes) c.wm).reqBack k r bytes x.2

/-- A READRESP with data reaches the Stream Engine of a plane (R357). A request that has failed has not been filled. -/
def State.readResp (s : State) (p : Fin 2) (f : Frame) : State :=
  let k := ctxKey p (natBits 19 0 f.cid)
  let c := s.ctx k
  let seq := natBits 63 29 f.cid
  if natBits 28 28 f.cid != p.val then s.countWm C.SEN_BAD_RESPONSES p 1 f.wm
  else if !c.live || c.gen.toNat != natBits 27 20 f.cid || c.state == .ending then s.countWm C.SEN_DISCARD_BYTES p f.len f.wm
  else
    match c.reqs.find? (fun r => r.server && r.seq == seq) with
    | some r =>
      if r.addr != f.addr || r.len != f.len then s.countCtx k C.SEN_BAD_RESPONSES 1 c.wm
      else
        let bytes := (List.range f.len).map (fun i => (f.addr + i, f.payload.getD i 0))
        (s.countCtx k C.SEN_BYTES_SERVER (c.fetched r.chunk bytes) c.wm).reqBack k r bytes false
    | none => if decide (seq < c.seq) && c.d.server && !c.dropped.contains seq then s.countCtx k C.SEN_DUP_RESPONSES 1 c.wm
      else s.countCtx k C.SEN_BAD_RESPONSES 1 c.wm

/-- A server request sent again with its identifier unchanged, on a port (R358, R359). -/
def State.resendReq (s : State) (k : Nat) (r : StreamReq) (port : Nat) : State :=
  let c := s.ctx k
  let r' := { r with port := port, sends := r.sends + 1 }
  let s := s.setCtx k { c with reqs := c.reqs.map (fun x => if x == r then r' else x) }
  (s.countCtx k C.SEN_READ_RESENDS 1 c.wm).sendFrame (portLink (ctxPlane k) port) (s.readReq k c r').bytes

/-- The port on which a request is sent again: a healthy one of its group, or else of the plane. -/
def State.healthyPort (s : State) (p : Fin 2) (g : Nat) : Option Nat :=
  ((List.range 4).map (4 * g + ·) ++ List.range 32).find? (fun n => s.linkUp (portLink p n))

/-- STREAM_READ_TIMEOUT: a server request without an accepted response is sent again; after READ_RETRIES resends it fails,
and the stream ends READ_TIMEOUT. -/
def execStreamReadTimeout (p : Fin 2) (ctx seq : Nat) (s : State) : Host.Outcome State Fault Refusal :=
  .next (
    let k := ctxKey p (ctx % 2 ^ 20)
    let c := s.ctx k
    match c.reqs.find? (fun r => r.server && r.seq == seq) with
    | none => s
    | some r =>
      if c.state != .holding && c.state != .delivering then s
      else if s.getF F.SEN_CTL_READ_RETRIES p < r.sends then
        (s.setCtx k { c with reqs := c.reqs.filter (· != r), bad := c.bad ++ [(r.chunk / 16, 9)], dropped := c.dropped ++ [r.seq] }).streamBad k
      else
        match s.healthyPort p c.d.group with
        | some n => s.resendReq k r n
        | none => s.setCtx k { c with reqs := c.reqs.map (fun x => if x == r then { r with sends := r.sends + 1 } else x) })

/-- STREAM_STALLED: a DELIVERING context has made no progress for STREAM_WD. -/
def execStreamStalled (p : Fin 2) (ctx : Nat) (s : State) : Host.Outcome State Fault Refusal :=
  .next (
    let k := ctxKey p (ctx % 2 ^ 20)
    if (s.ctx k).state == .delivering then s.endCtx k 10 0 else s)

/-- STREAM_CONTEXT_RELEASE: an ENDING context without an outstanding edge-memory read goes FREE. -/
def execStreamContextRelease (p : Fin 2) (ctx : Nat) (s : State) : Host.Outcome State Fault Refusal :=
  .next (
    let k := ctxKey p (ctx % 2 ^ 20)
    let c := s.ctx k
    if c.state == .ending && c.reqs.isEmpty then s.freeCtx k c.status else s)

/-! ### Injection (R343 to R346) -/

/-- A packet of a stream, the delivered bytes injected after it, and the stream blocks whose scale bytes have gone. -/
structure StreamPkt where
  pkt : Packet
  sent : Nat
  scales : Nat
  deriving DecidableEq, Repr

/-- The path of a context needs an extension word for a class (R220). -/
def StreamCtx.ext (c : StreamCtx) : Bool := decide (4 < (composePath c.router c.entry).length) || EpEntry.typ c.entry != 0

def StreamCtx.packet (c : StreamCtx) (cls addr len aux : Nat) (payload : List Byte) : Packet :=
  EpEntry.packet c.entry c.router c.d.dstEp cls (c.d.mc && cls == 0) c.epoch 0xFFFFFF (natBits 7 0 c.wm.toNat) addr len aux payload

/-- Scale byte j of a TILE stream: the chunk that fetches it, and its source address. -/
def SDesc.scalePlace (d : SDesc) (j : Nat) : Nat × Nat := (d.chunkOf (min ((j + 1) * d.streamBlock) d.total - 1), d.scaleOf j)

/-- The next scale bytes of a TILE stream: one packet, where they are in the waystation (R339, R344, R346). -/
def StreamCtx.scalePacket (c : StreamCtx) (j stop : Nat) : Option Packet :=
  let d := c.d
  let ring := if d.ringPanels != 0 then d.ringPanels * d.panel / d.streamBlock else 2 ^ 19
  let n := min (min (if c.ext then 120 else 128) (stop - j)) (ring - j % ring)
  let at' := (List.range n).map (fun i => d.scalePlace (j + i))
  if at'.all (fun x => c.has x.1 x.2) then
    some (c.packet 0 (d.dstScale + j % ring) ((n + 7) / 8) 0 (at'.map (fun x => c.byte x.1 x.2)))
  else none

/-- Every scale byte of token t of a TOWPATH stream is in the waystation (R340, R346). -/
def StreamCtx.tokenScales (c : StreamCtx) (t : Nat) : Bool :=
  let d := c.d
  !d.mx || (List.range 8).all (fun n => (d.under (8 * t + n)).isEmpty ||
    c.has (d.chunkOf (min ((t + 1) * d.tokBytes) d.total - 1)) (d.scaleOf (8 * t + n)))

/-- Token t of a TOWPATH stream (R340); bytes that a short last token lacks are `fill`. -/
def StreamCtx.token (c : StreamCtx) (t : Nat) (fill : BitVec 256) : DataTok :=
  let d := c.d
  let lo := t * d.tokBytes
  let last := min (lo + d.tokBytes) d.total - 1
  let bs := (List.range 32).map (fun i => if d.tokBytes ≤ i then 0
    else if d.total ≤ lo + i then BitVec.ofNat 8 (wbits fill (8 * i + 7) (8 * i)) else c.delivered (lo + i))
  let sc := (List.range 8).map (fun n => if d.mx && !(d.under (8 * t + n)).isEmpty then
    c.byte (d.chunkOf last) (d.scaleOf (8 * t + n)) else 0)
  { payload := BitVec.ofNat 256 (leNat bs), scales := BitVec.ofNat 64 (leNat sc), fmt := BitVec.ofNat 4 d.fmt
    saxis := d.mx && d.saxis, epoch := c.epoch }

/-- The next packet of a TILE stream, where its bytes are in the waystation. -/
def StreamCtx.nextTile (c : StreamCtx) : Option StreamPkt :=
  let d := c.d
  let hi := d.panelHi c.done
  let n := min (if c.ext then 120 else 128) (hi - c.sent)
  let last := c.sent + n == hi
  if !((List.range n).all (fun i => c.present (c.sent + i))) then none
  else if last && d.mx && decide (c.scaleSent < d.blocks hi) then
    (c.scalePacket c.scaleSent (d.blocks hi)).map (fun p => { pkt := p, sent := c.sent, scales := c.scaleSent + p.body.length })
  else
    let ring := d.ringPanels * d.panel
    let aux := if last && d.dataEn then d.dataMarker + 1 <<< 12 else 0
    some { pkt := c.packet 0 (d.dstAddr + (if ring = 0 then c.sent else c.sent % ring)) (n / 8) aux
                    ((List.range n).map (fun i => c.delivered (c.sent + i)))
           sent := c.sent + n, scales := c.scaleSent }

/-- The next packet of a TOWPATH stream, where its bytes are in the waystation. -/
def StreamCtx.nextTow (c : StreamCtx) (fill : BitVec 256) : Option StreamPkt :=
  let d := c.d
  let hi := d.panelHi c.done
  let t := c.sent / d.tokBytes
  let n := min 3 (d.tokens hi - t)
  let stop := min ((t + n) * d.tokBytes) d.total
  if !((List.range (stop - t * d.tokBytes)).all (fun i => c.present (t * d.tokBytes + i))) ||
      !((List.range n).all (fun i => c.tokenScales (t + i))) then none
  else
    some { pkt := c.packet 1 0 n d.side (bytesAt (((List.range n).map (fun i => c.token (t + i) fill)).flatMap tokenRecord) 0 128)
           sent := if t + n == d.tokens hi then hi else stop, scales := c.scaleSent }

/-- The conditions of R346 on the field and the ring credit; a panel with an uncorrectable byte is never injected (R364). -/
def State.mayInject (s : State) (k : Nat) (c : StreamCtx) : Bool :=
  let f := c.dest (ctxPlane k)
  c.state == .delivering && !c.spoilt && (s.fieldSt f).epoch == c.epoch && !s.fieldHeld f &&
    (c.d.ringPanels == 0 || decide (c.done < s.credit' k c + c.d.ringPanels))

/-- A packet has been injected: counts, frames that return, and the end of the stream, or its error where the panel that comes next
cannot be had (R363). -/
def State.injected (s : State) (k : Nat) (x : StreamPkt) : State :=
  let c := s.ctx k
  let s := s.countCtx k C.SEN_BYTES_DELIVERED (x.sent - c.sent) c.wm
  let c' := { c with sent := x.sent, scaleSent := x.scales }
  let s := if c'.done != c.done then s.countCtx k C.SEN_PANELS 1 c.wm else s
  let keep := c.d.chunkOf (if c.d.towpath then x.sent / c.d.tokBytes * c.d.tokBytes else x.sent)
  let s := s.setCtx k { c' with data := c'.data.filter (fun e => decide (keep ≤ e.1 / 2 ^ 48))
                                issued := c'.issued.filter (fun e => decide (c'.done ≤ e.1 / 16)) }
  if x.sent == c.d.total then s.freeCtx k 0 else (s.noteDry k).streamBad k

/-- STREAM_INJECT: a stream injects its next packet; a panel whose scale bytes span two source blocks ends it instead. -/
def execStreamInject (p : Fin 2) (ctx : Nat) (s : State) : Host.Outcome State Fault Refusal :=
  .next (
    let k := ctxKey p (ctx % 2 ^ 20)
    let c := s.ctx k
    match tileAt p c.router.1 c.router.2 with
    | none => s
    | some a =>
      if !s.mayInject k c || !(s.tile a).bufRoom 0 (if c.d.towpath then 1 else 0) then s
      else
        let short := c.d.towpath && decide (c.d.total < (c.sent / c.d.tokBytes + 3) * c.d.tokBytes) && c.d.total % c.d.tokBytes != 0
        let fill := if short then s.freeBits 256 else (0, s)
        match (if c.d.towpath then c.nextTow fill.1 else c.nextTile) with
        | none => s
        | some x =>
          if c.sent == c.d.panelLo c.done && c.d.mx && c.d.splits c.done then s.endCtx k 7 0
          else (fill.2.inject a x.pkt).injected k x)

/-! ### Snapshots (R369, R370) -/

/-- SEN_CTX_SEL: a write starts a snapshot of a context. -/
def execSenCtxSel (p : Fin 2) (fw : Bool) (value : W64) (s : State) : Host.Outcome State Fault Refusal :=
  .next (s.regWrite fw ⟨.SEN, p⟩ 0x098 true value false (s.getF F.SEN_CTX_SEL_BUSY p == 1)
    (fun s => s.setF F.SEN_CTX_SEL_BUSY p 1))

/-- A context's snapshot. -/
def State.ctxSnap (s : State) (p : Fin 2) : State :=
  let c := s.ctx (ctxKey p (s.getF F.SEN_CTX_SEL_CTX p))
  let st : Nat := match c.state with | .free => 0 | .holding => 1 | .delivering => 2 | .ending => 3
  let info : W64 × W64 := if c.live then
      (BitVec.ofNat 64 (st + c.gen.toNat <<< 3 + c.epoch.toNat <<< 11 + c.d.dclass <<< 13 + c.d.group <<< 15 +
         c.heldPanels.length <<< 18 + c.wm.toNat <<< 32), BitVec.ofNat 64 (c.d.sid + c.done <<< 32))
    else (BitVec.ofNat 64 (c.gen.toNat <<< 3), 0)
  ((s.setReg ⟨.SEN, p⟩ 0x0A0 info.1).setReg ⟨.SEN, p⟩ 0x0A8 info.2).setF F.SEN_CTX_SEL_BUSY p 0

/-- SEN_FOPEN_SEL: a write starts a snapshot of a field's open contexts. -/
def execSenFopenSel (p : Fin 2) (fw : Bool) (value : W64) (s : State) : Host.Outcome State Fault Refusal :=
  .next (s.regWrite fw ⟨.SEN, p⟩ 0x0B0 true value false false
    (fun s => { s with fopenDue := put (fun _ => false) s.fopenDue p.val true }))

/-- The counts of the field selected, by epoch, where a write waits for them (R370). -/
def State.fopenSnap (s : State) (p : Fin 2) : State :=
  if !look (fun _ => false) s.fopenDue p.val then s
  else
  let s := { s with fopenDue := put (fun _ => false) s.fopenDue p.val false }
  let f := s.getF F.SEN_FOPEN_SEL_FIELD p
  let n (e : Nat) : Nat := (s.ctxsOf p).countP (fun x => x.2.field == f && x.2.epoch.toNat == e &&
    (x.2.state == .holding || x.2.state == .delivering))
  (s.setReg ⟨.SEN, p⟩ 0x0B8 (BitVec.ofNat 64 (n 0 + n 1 <<< 32))).setReg ⟨.SEN, p⟩ 0x0C0 (BitVec.ofNat 64 (n 2 + n 3 <<< 32))

end Sys2Proof.Machine
end

