-- ==== Sys2Proof/Machine/Volino.lean ====
section
/-!
DEFINITION. Volino: exchange commands, arriving frames, answers, and the events of a port's link layer and lanes.
Spec: 10_volino_span_causeway (R459 to R475, R480, R486 to R488, R490, R495).
-/
namespace Sys2Proof.Machine

/-! ### Exchange commands (R469 to R475) -/

/-- A port of the plane is healthy. -/
def State.anyPort (s : State) (p : Fin 2) : Bool := (List.range 32).any (fun n => s.linkUp (portLink p n))

/-- Element size of an ACCUMULATE format: FP32, BF16 or EXACT192 (R469). -/
def accumSize : Nat → Option Nat
  | 0 => some 4 | 1 => some 2 | 12 => some 32 | _ => none

/-- The exchange that a descriptor asks for (R469). -/
def exchOf (p : Fin 2) (q : Nat) (r : EngRec) (op : Nat) : Exch :=
  let d := r.payload
  let n := natBits 40 0 (leAt d 8 8)
  let fb := natBits 12 0 (leAt d 44 2)
  let win := natBits 6 0 (leAt d 47 1)
  { plane := p, donor := some (q, r.index), op := op, wm := BitVec.ofNat 32 (RawRec.wm r.raw), src := natBits 47 0 (leAt d 0 8)
    bytes := n, dest := leAt d 16 4, xid := some (leAt d 20 4), remote := natBits 47 0 (leAt d 24 8), cid := leAt d 32 8
    mask := leAt d 40 4, frameBytes := fb, fmt := leAt d 46 1, window := if win = 0 then 16 else win, body := []
    total := (n + fb - 1) / fb, next := 0, turn := 0, lastPort := 0, out := [] }

/-- BAD_DESC (R469, R474). -/
def badExch (d : List Byte) (op : Nat) : Bool :=
  let n := natBits 40 0 (leAt d 8 8)
  let fb := natBits 12 0 (leAt d 44 2)
  let fmt := leAt d 46 1
  natBits 63 48 (leAt d 0 8) != 0 || natBits 47 0 (leAt d 0 8) % 64 != 0 || natBits 63 41 (leAt d 8 8) != 0 || decide (n < 8) ||
    decide (2 ^ 40 < n) || n % 8 != 0 || natBits 63 48 (leAt d 24 8) != 0 || (leAt d 32 8).testBit 63 || leAt d 40 4 == 0 ||
    natBits 15 13 (leAt d 44 2) != 0 || decide (fb < 64) || decide (4096 < fb) || fb % 64 != 0 || (leAt d 47 1).testBit 7 ||
    decide (64 < natBits 6 0 (leAt d 47 1)) || leAt d 48 16 != 0 ||
    (if op == opAccum then (match accumSize fmt with | some z => n % z != 0 | none => true) else fmt != 0)

/-- An exchange record that does not start: captured, and completed with its status. -/
def State.refuseExch (s : State) (x : Exch) (q index status : Nat) : State :=
  let s := s.vlxCapture x.plane 1 status 0 x.op x.dest x.cid (s.frameWm x.wm) (status == 4)
  s.complete (5 + x.plane.val) q index 0 status (status == 4) 0

/-- An exchange begins: the record runs until every frame is answered. -/
def State.openExch (s : State) (x : Exch) (q index : Nat) : State :=
  { s with exchs := s.exchs ++ [x] }.setStage (5 + x.plane.val) q index .running

/-- EXCH_ACCUM and EXCH_WRITE at their start (R474). -/
def State.startExch (s : State) (p : Fin 2) (opcode op : Nat) : State :=
  match s.findStarted (5 + p.val) [opcode] with
  | none => s
  | some (q, r) =>
    let x := exchOf p q r op
    if badExch r.payload op then s.refuseExch x q r.index 2
    else if s.edgeCapacity p < x.src + x.bytes then s.refuseExch x q r.index 3
    else if !s.anyPort p && !s.exBridged x then s.refuseExch x q r.index 4
    else s.openExch x q r.index

/-- EXCH_ACCUM: an exchange of ACCUMULATE frames starts. -/
def execExchAccum (p : Fin 2) (s : State) : Host.Outcome State Fault Refusal := .next (s.startExch p opExchAccum opAccum)

/-- EXCH_WRITE: an exchange of WRITE frames starts. -/
def execExchWrite (p : Fin 2) (s : State) : Host.Outcome State Fault Refusal := .next (s.startExch p opExchWrite opWrite)

/-- EXCH_SIGNAL: one SIGNAL frame under a derived CID (R471, R472). -/
def execExchSignal (p : Fin 2) (s : State) : Host.Outcome State Fault Refusal :=
  .next (
    match s.findStarted (5 + p.val) [opExchSignal] with
    | none => s
    | some (q, r) =>
      let raw : RawRec := r.raw
      let count := look (fun _ => 0) s.sigCount p
      let cid := if raw.wm != 0 then derivedCid 0 raw.wm p q r.index else derivedCid 1 count p q r.index
      let s := if raw.wm != 0 then s else { s with sigCount := put (fun _ => 0) s.sigCount p (count + 1) }
      let x : Exch :=
        { plane := p, donor := some (q, r.index), op := opSignal, wm := BitVec.ofNat 32 raw.wm, src := 0, bytes := 0
          dest := raw.opd 48 4, xid := none, remote := raw.opd 56 8, cid := cid, mask := 2 ^ 32 - 1, frameBytes := 0, fmt := 0
          window := 1, body := leBytes 8 (raw.opd 52 4), total := 1, next := 0, turn := 0, lastPort := 0, out := [] }
      if s.anyPort p then s.openExch x q r.index else s.refuseExch x q r.index 4)

/-- EXCH_CANCEL: the exchanges that match end CANCELLED. -/
def execExchCancel (p : Fin 2) (s : State) : Host.Outcome State Fault Refusal :=
  .next (
    match s.findStarted (5 + p.val) [opExchCancel] with
    | none => s
    | some (q, r) =>
      let scope := RawRec.opd r.raw 48 1 % 4
      let key := RawRec.opd r.raw 56 8
      let n := s.exchs.countP (fun x => x.matches' p scope key)
      (s.cancelExchanges p scope key).complete (5 + p.val) q r.index 0 0 false (BitVec.ofNat 64 n))

/-- EXCHANGE_FRAME_SEND: exchange n sends its next frame, while fewer than WINDOW are unanswered and a port is healthy. -/
def execExchangeFrameSend (n : Nat) (s : State) : Host.Outcome State Fault Refusal :=
  .next (
    match s.exch n with
    | none => s
    | some x =>
      let way := if s.exBridged x then s.bridgeUp else (s.exPort x).isSome
      if x.next < x.total ∧ x.out.length < x.window ∧ way ∧ s.node ≠ 0 then s.formFrame n x else s)

/-- ACK_TIMEOUT: frame k of exchange n has had no answer for ACK_TIMEOUT: it is sent again on the next port. `final`: the
time ACK_TIMEOUT × (ACK_RETRIES + 1) from its first sending has passed. -/
def execAckTimeout (n k : Nat) (final : Bool) (s : State) : Host.Outcome State Fault Refusal :=
  .next (
    match s.exch n with
    | none => s
    | some x =>
      match x.out.find? (fun f => f.k == k) with
      | none => s
      | some f => if final then s.endExch n 7 k else if f.backoff then s else s.sendEx n k true)

/-- BUSY_BACKOFF: a frame answered BUSY or ERROR is sent again. -/
def execBusyBackoff (n k : Nat) (s : State) : Host.Outcome State Fault Refusal :=
  .next (
    match s.exch n with
    | none => s
    | some x => if x.out.any (fun f => f.k == k && f.backoff) then s.sendEx n k true else s)

/-! ### Arriving frames (R459 to R461, R473, R480, R495) -/

/-- A frame refused: answered, counted and captured at a plane. -/
def State.refuseFrame (s : State) (l : Nat) (p : Fin 2) (f : Frame) (code : Nat) : State :=
  let w := s.frameWm f.wm
  ((s.answerFrame l f code).countWm C.VLX_REFUSED_RX p 1 w).vlxCapture p 0 code (l % 32) f.op f.src f.cid w false

/-- A state-changing frame in its range: deduplicated, and performed by `act`, which also answers it. -/
def State.once (s : State) (l : Nat) (p : Fin 2) (f : Frame) (act : State → State) : State :=
  let r := s.dedup p (nodeOf f.src) f.cid
  let w := s.frameWm f.wm
  match r.1 with
  | .duplicate => (r.2.countWm C.VLX_DUP_RX p 1 w).answerFrame l f 1
  | .stale => (r.2.countWm C.VLX_STALE_RX p 1 w).answerFrame l f 2
  | .perform => act (r.2.countWm C.VLX_FRAMES_RX p 1 w)

/-- A WRITE to the edge memory of plane q that arrived at plane p. -/
def State.inWrite (s : State) (l : Nat) (p q : Fin 2) (f : Frame) : State :=
  let base := s.getF F.VLX_INWIN_BASE_BASE q
  let size := s.getF F.VLX_INWIN_SIZE_SIZE q
  if q != p && !s.bridgeUp then s.answerFrame l f 7
  else if size == 0 || decide (f.addr < base) || decide (base + size < f.addr + f.len) then s.refuseFrame l q f 5
  else s.once l q f (fun s => (s.edgeWrite q f.addr f.payload).answerFrame l f 0)

/-- A SIGNAL that arrived at plane p: answered DONE when it has been applied to its marker. -/
def State.inSignal (s : State) (l : Nat) (p : Fin 2) (f : Frame) : State :=
  let ref := f.addr % 2 ^ 32
  let q := refPlane ref
  let bad := f.len != 8 || leAt f.payload 4 4 != 0 || !refEn ref || natBits 30 19 ref != 0 || natBits 47 32 f.addr != 0 ||
    decide (55 < refSlot ref)
  if bad then s.refuseFrame l p f 5
  else if q != p && !s.bridgeUp then s.answerFrame l f 7
  else
    s.once l q f (fun s =>
      let amount := leAt f.payload 0 4
      match s.refField ref with
      | none => (s.countWm C.ENG_SIG_DROPPED (5 + q.val) 1 f.wm).answerFrame l f 0
      | some a =>
        if amount = 0 || (s.fieldSt a).lost || (s.fieldSt a).resetting then s.answerFrame l f 0
        else
          s.markOp a { write := false, rank := 5, sub := l, marker := refMarker ref, amount := BitVec.ofNat 32 amount, kind := 5
                       id := BitVec.ofNat 32 f.src, wm := f.wm, donor := none
                       answer := if f.ackReq then some (l, (f.answer 0).bytes) else none })

/-- A TAINT: captured, counted, recorded and handed to the lookout. -/
def State.inTaint (s : State) (l : Nat) (p : Fin 2) (f : Frame) : State :=
  if f.len != 32 then s.refuseFrame l p f 5
  else
    s.once l p f (fun s =>
      let rx : W64 := BitVec.ofNat 64 (leAt f.payload 0 4 + leAt f.payload 4 1 <<< 32 + nodeOf f.src <<< 40)
      let s := (s.setReg ⟨.VLX, p⟩ 0x0F0 rx).countWm C.VLX_TAINTS_RX p 1 (s.frameWm f.wm)
      let s := s.setIrq .VLX p 1
      let s := { s with taintNamed := s.taintNamed ++ [leAt f.payload 0 4] }
      (s.raise (s.errRec 0x1302 3 true (s.frameWm f.wm) p (.plane p) opTaint 3 [rx])).answerFrame l f 0)

/-- A WRITE to the endpoint CAUSEWAY: it belongs to the armed IMPORT, whose range begins at ADDR 0. -/
def State.inCauseway (s : State) (l : Nat) (p : Fin 2) (f : Frame) : State :=
  match s.importing with
  | none => s.refuseFrame l p f 3
  | some w =>
    if w.node != nodeOf f.src then s.refuseFrame l p f 3
    else if w.size < f.addr + f.len then s.refuseFrame l p f 5
    else
      let r := w.win.test f.cid
      match r.1 with
      | .duplicate => (s.countWm C.VLX_DUP_RX p 1 (s.frameWm f.wm)).answerFrame l f 1
      | .stale => (s.countWm C.VLX_STALE_RX p 1 (s.frameWm f.wm)).answerFrame l f 2
      | .perform =>
        let s := { s with importing := some { w with win := r.2 } }
        ((s.edgeWrite w.plane (w.base + f.addr) f.payload).count C.CWY_BYTES 0 f.len).answerFrame l f 0

/-- An answer to a frame of the Exchange Engine of plane q (R473). -/
def State.inAnswer (s : State) (q : Fin 2) (f : Frame) : State :=
  let mine (x : Exch) : Option ExFrame := if x.plane == q then
    x.out.find? (fun e => e.frame.dest == f.src && e.frame.cid == f.cid) else none
  match s.exchs.findIdx? (fun x => (mine x).isSome) with
  | some n =>
    (match (s.exch n).bind mine with
     | some e => if f.status ≤ 8 then s.exAnswer n e.k f.status else s.countWm C.VLX_LATE_ACKS q 1 (s.frameWm f.wm)
     | none => s)
  | none => s.countWm C.VLX_LATE_ACKS q 1 (s.frameWm f.wm)

/-- What an arriving frame is, by its row: 0 a WRITE, 1 a SIGNAL, 2 a TAINT, 3 a READRESP with data, 4 an answer, 5 a frame
that is discarded or refused by checks 1 to 5 of R459. -/
def State.frameRow (s : State) (b : List Byte) : Nat :=
  let f := Frame.ofBytes b
  let ep := epOf f.dest
  let edge := ep == epEdge 0 || ep == epEdge 1
  if b.length < 48 || b.length != 48 + f.wants || 4096 < natBits 12 0 f.len || f.len % 8 != 0 then 5
  else if nodeOf f.dest != s.node || Frame.reserved b f then 5
  else if f.op == opWrite && (edge || ep == epCauseway) then 0
  else if f.op == opSignal && ep == epMarkers then 1
  else if f.op == opTaint && ep == epTaint then 2
  else if f.op == opReadResp && edge then (if f.len = 0 then 4 else 3)
  else 5

/-- A frame that the link layer has accepted, performed or refused in the order of R459. -/
def State.inbound (s : State) (l : Nat) (b : List Byte) : State :=
  let f := Frame.ofBytes b
  let p : Fin 2 := if l < 64 then (if l < 32 then 0 else 1) else (match s.importing with | some w => w.plane | none => 0)
  let ep := epOf f.dest
  let q : Fin 2 := if ep == epEdge 1 then 1 else 0
  let service := ep == epEdge 0 || ep == epEdge 1 || ep == epCauseway || ep == epTaint || ep == epMarkers
  if nodeOf f.dest != s.node || !service then s.refuseFrame l p f 3
  else if !([opWrite, opSignal, opReadResp, opTaint].contains f.op) then s.refuseFrame l p f 4
  else
    match s.frameRow b with
    | 0 => if ep == epCauseway then s.inCauseway l p f else s.inWrite l p q f
    | 1 => s.inSignal l p f
    | 2 => s.inTaint l p f
    | 3 => s.readResp q f
    | 4 => s.inAnswer q f
    | _ => if Frame.reserved b f && ((f.op == opWrite && (ep == epEdge 0 || ep == epEdge 1 || ep == epCauseway)) ||
        (f.op == opSignal && ep == epMarkers) || (f.op == opTaint && ep == epTaint) || f.op == opReadResp) then
        s.refuseFrame l p f 4 else s.refuseFrame l p f 3

/-- A frame arrives on a link behind its tag. -/
def State.arriveFrame (s : State) (l : Nat) (tag : W64) (b : List Byte) : State :=
  let r := s.recvFrame l tag b
  match r.2 with
  | .none => r.1
  | .malformed => r.1.countWm C.VLX_MALFORMED_RX (if l < 64 then l / 32 else 0) 1 r.1.runWm
  | .accepted => r.1.inbound l b

/-- A frame of a row arrives. -/
def State.arriveRow (s : State) (row : Nat) (l : Nat) (tag : W64) (b : List Byte) : State :=
  if s.frameRow b == row then s.arriveFrame l tag b else s

/-- WRITE_FRAME: an inbound WRITE is checked, deduplicated, performed and answered. -/
def execWriteFrame (l : Fin 72) (tag : W64) (bytes : List Byte) (s : State) : Host.Outcome State Fault Refusal :=
  .next (s.arriveRow 0 l tag bytes)

/-- SIGNAL_FRAME: an inbound SIGNAL is checked and applied behind the WRITEs accepted before it. -/
def execSignalFrame (l : Fin 72) (tag : W64) (bytes : List Byte) (s : State) : Host.Outcome State Fault Refusal :=
  .next (s.arriveRow 1 l tag bytes)

/-- TAINT_FRAME: an inbound TAINT is captured, counted and handed to the lookout. -/
def execTaintFrame (l : Fin 72) (tag : W64) (bytes : List Byte) (s : State) : Host.Outcome State Fault Refusal :=
  .next (s.arriveRow 2 l tag bytes)

/-- READRESP: data for a stream is accepted into the waystation or discarded. -/
def execReadresp (l : Fin 72) (tag : W64) (bytes : List Byte) (s : State) : Host.Outcome State Fault Refusal :=
  .next (s.arriveRow 3 l tag bytes)

/-- FRAME_ANSWER: an answer to an exchange frame acts on it. -/
def execFrameAnswer (l : Fin 72) (tag : W64) (bytes : List Byte) (s : State) : Host.Outcome State Fault Refusal :=
  .next (s.arriveRow 4 l tag bytes)

/-- UNACCEPTED_FRAME: a frame that is malformed, misaddressed or of an op not accepted is discarded or refused. -/
def execUnacceptedFrame (l : Fin 72) (tag : W64) (bytes : List Byte) (s : State) : Host.Outcome State Fault Refusal :=
  .next (s.arriveRow 5 l tag bytes)

/-! ### Link layer events (R462 to R466) -/

/-- LINK_CONTROL_WORD: a tag without a frame is sent, or arrives. `corr` and `uncorr` are the codewords that the port's FEC
has corrected, or found uncorrectable, since the last such event. -/
def execLinkControlWord (l : Fin 72) (send : Bool) (tag : W64) (corr uncorr : Nat) (s : State) : Host.Outcome State Fault Refusal :=
  .next (
    let s := if l.val < 64 then (s.count C.VPT_FEC_CORR l corr).count C.VPT_FEC_UNCORR l uncorr else s
    if !s.linkUp l then s
    else if send then s.onWire l ((s.vlink l).tag 0 false false) []
    else if !tagGood tag then s.sendNak l
    else if wbits tag 26 26 == 1 then s
    else s.tagWork l tag)

/-- REPLAY_TIMER: an unacknowledged frame has waited 3 µs. -/
def execReplayTimer (l : Fin 72) (s : State) : Host.Outcome State Fault Refusal :=
  .next (if s.linkUp l then s.replay l else s)

/-- The frames outstanding on a port are sent again: exchange frames on a sibling port or any healthy one, stream requests
likewise (R359, R466). -/
def State.moveFrames (s : State) (p : Fin 2) (port : Nat) : State :=
  let s := (List.range s.exchs.length).foldl (fun s n =>
    match s.exch n with
    | some x =>
      if x.plane != p then s
      else
        let x' := { x with turn := port / 4 * 4, mask := 0xF <<< (port / 4 * 4) }
        (x.out.filter (fun f => f.port == some port)).foldl (fun s f =>
          match s.exch n with
          | some y =>
            let s := (s.setExch n { y with turn := x'.turn, mask := x'.mask }).sendEx n f.k true
            (match s.exch n with | some z => s.setExch n { z with turn := y.turn, mask := y.mask } | none => s)
          | none => s) s
    | none => s) s
  (s.ctxsOf p).foldl (fun s e => (e.2.reqs.filter (fun r => r.server && r.port == port)).foldl (fun s r =>
    match s.healthyPort p e.2.d.group with
    | some n => s.resendReq e.1 r n
    | none => s) s) s

/-- A port leaves service for a state: its replay buffer is abandoned and its frames move. -/
def State.portOut (s : State) (l state : Nat) : State :=
  let s := (s.setF F.VPT_STATE_STATE l state).setVlink l VLink.reset
  s.moveFrames (if l < 32 then 0 else 1) (l % 32)

/-- A port fails outright (R466, R488). -/
def State.portFail (s : State) (l : Nat) : State :=
  if !s.linkUp l then s
  else
    let p : Fin 2 := if l < 32 then 0 else 1
    let s := (s.portOut l 6).setIrq .VPT l 1
    s.raise (s.errRec 0x1602 2 true s.runWm l (.plane p) 0 0 [s.reg ⟨.VPT, l⟩ 0x088])

/-- The field row that a bridge link serves (R489). -/
def bridgeRow (n : Nat) : Nat := if n < 12 then 1 + n / 3 else 5 + (n - 12) / 2

/-- The fields at the two ends of a bridge link. -/
def bridgeFields (n : Nat) : List FieldAddr :=
  [(0, fieldAtPos (bridgeRow n) 7), (1, fieldAtPos (bridgeRow n) 0)].filterMap (fun e => match e.2 with
    | some f => if h : f < 60 then some ⟨e.1, ⟨f, h⟩⟩ else none
    | none => none)

/-- The bridge side of a field isolated (R261, R490). -/
def State.isolateBridge (s : State) (f : FieldAddr) : State :=
  let side := if f.plane = 0 then 1 else 3
  let mask := s.getF F.MESH_DRAIN_STATE_ISO_SIDE f.inst
  if mask.testBit side then s
  else
    let s := ((s.setF F.MESH_DRAIN_STATE_ISO_SIDE f.inst (mask ||| 2 ^ side)).setErr .MESH f.inst 3).setIrq .MESH f.inst 5
    s.raise (s.errRec 0x1802 2 true s.runWm f.inst (.field f) 0 4 [BitVec.ofNat 64 (4 + 1 <<< 31 + s.runWm.toNat <<< 32), 0, s.cycleOf f])

/-- The youngest `lost` bridged frames of a link's row are gone with its replay buffer. -/
def dropYoungest (row : Nat) : Nat → List BridgedFrame → List BridgedFrame
  | 0, l => l
  | n + 1, l =>
    match l.reverse.findIdx? (fun f => f.router.1 / 96 == row) with
    | some i => dropYoungest row n (l.eraseIdx (l.length - 1 - i))
    | none => l

/-- A bridge link fails: frames lost, the bridge sides isolated, and every SPAN pass aborted (R490). -/
def State.bridgeFail (s : State) (n lost : Nat) : State :=
  let rest := dropYoungest (bridgeRow n) lost s.bridgeRx
  let s := { s with bridgeRx := rest }.count C.BRG_LOST_FRAMES 0 (s.bridgeRx.length - rest.length)
  let s := s.setIrq .BRG 0 1
  let s := s.raise (s.errRec 0x0402 2 true s.runWm 0 .module 0 0 [s.reg ⟨.BRG, 0⟩ 0x088, s.reg ⟨.BRG, 0⟩ 0x090])
  let s := (bridgeFields n).foldl (fun s f => s.isolateBridge f) s
  (List.finRange 2).foldl (fun s p => if (s.ae p).span then s.planeCause p 0x0E true else s) s

/-- Lane groups of a bridge link leave service (R490, R498). -/
def State.groupsOut (s : State) (n groups lost : Nat) : State :=
  let all := s.getF F.BRG_LINKS_GROUPS 0
  let now := natBits (4 * n + 3) (4 * n) all
  let gone := (List.range 4).filter (fun i => now.testBit i && groups.testBit i)
  if gone.isEmpty then s
  else
    let mask := gone.foldl (fun m i => m + 2 ^ (4 * n + i)) 0
    let s := s.setF F.BRG_LINKS_GROUPS 0 (all - mask)
    let s := (s.count C.BRG_GROUP_FAILS 0 gone.length).setIrq .BRG 0 0
    let s := s.raise (s.errRec 0x0401 1 true s.runWm 0 .module 0 0 [s.reg ⟨.BRG, 0⟩ 0x088, s.reg ⟨.BRG, 0⟩ 0x090])
    if gone.length == (List.range 4).countP (fun i => now.testBit i) then s.bridgeFail n lost
    else s.count C.BRG_REPLAYS 0 (min lost (s.bridgeRx.countP (fun f => f.router.1 / 96 == bridgeRow n)))

/-- The lanes at fault of a port fail; where both halves, or none, are at fault, the port does (R464). -/
def State.laneFail (s : State) (l : Nat) (lanes : BitVec 8) : State :=
  let low := wbits lanes 3 0 != 0
  let high := wbits lanes 7 4 != 0
  let s := s.count C.VPT_LANE_FAILS l ((List.range 8).countP (fun i => lanes.getLsbD i))
  if low == high || 4 ≤ s.getF F.VPT_STATE_STATE l then s.portFail l
  else s.setF F.VPT_STATE_FAILED_LANES l (s.getF F.VPT_STATE_FAILED_LANES l ||| lanes.toNat)

/-- LANE_FAILURE: a link retry has not ended after 20 µs. `lanes` are the lanes that reported uncorrectable codewords during
it; of bridge link n, which is unit 64 + n, the lane groups, and `lost` its frames that are unacknowledged. -/
def execLaneFailure (unit : Fin 80) (lanes : BitVec 8) (lost : Nat) (s : State) : Host.Outcome State Fault Refusal :=
  .next (
    let l := unit.val
    if 64 ≤ l then s.groupsOut (l - 64) lanes.toNat lost
    else if !s.linkUp l || !(s.vlink l).retry then s
    else s.laneFail l lanes)

/-- A port enters X4_LOW or X4_HIGH: its interrupt and its record (R488). -/
def State.portX4 (s : State) (l state : Nat) : State :=
  let s := (s.setF F.VPT_STATE_STATE l state).setIrq .VPT l 0
  s.raise (s.errRec 0x1601 1 true s.runWm l (.plane (if l < 32 then 0 else 1)) 0 0 [s.reg ⟨.VPT, l⟩ 0x088])

/-- PORT_DEGRADE: both ends agree on the surviving half, and every unacknowledged frame is replayed on its 4 lanes. -/
def execPortDegrade (l : Fin 64) (s : State) : Host.Outcome State Fault Refusal :=
  .next (
    let bad := s.getF F.VPT_STATE_FAILED_LANES l
    if (s.getF F.VPT_STATE_STATE l != 2 && s.getF F.VPT_STATE_STATE l != 3) || bad == 0 then s
    else (s.portX4 l (if bad % 16 = 0 then 4 else 5)).replay l)

/-- PORT_FAIL: a port, or bridge link n as unit 64 + n, fails outright. -/
def execPortFail (unit : Fin 80) (lost : Nat) (s : State) : Host.Outcome State Fault Refusal :=
  .next (if 64 ≤ unit.val then s.groupsOut (unit.val - 64) 15 lost else s.portFail unit)

/-- LANE_CALIBRATION: an 8-lane port takes the next lane out of service to calibrate. -/
def execLaneCalibration (l : Fin 64) (s : State) : Host.Outcome State Fault Refusal :=
  .next (
    if s.getF F.VLX_CTL_CAL_EN (l.val / 32) != 1 || s.getF F.VPT_STATE_STATE l != 2 || (s.vlink l).retry then s
    else (s.setF F.VPT_STATE_STATE l 3).setF F.VPT_STATE_CAL_LANE l ((s.getF F.VPT_STATE_CAL_LANE l + 1) % 8))

/-- CALIBRATION_END: the calibrating lane returns to service. -/
def execCalibrationEnd (l : Fin 64) (s : State) : Host.Outcome State Fault Refusal :=
  .next (if s.getF F.VPT_STATE_STATE l == 3 then s.setF F.VPT_STATE_STATE l 2 else s)

/-! ### Port control (R486) -/

/-- A write of VPT.CTL. -/
def State.vptWrite (s : State) (l : Nat) (fw : Bool) (value : W64) : State :=
  let off := s.getF F.VPT_CTL_DISABLE l == 1
  let train := wbits value 1 1 == 1
  s.regWrite fw ⟨.VPT, l⟩ 0x080 true value false (train && (off || wbits value 0 0 == 1)) (fun s =>
    if train then s.portOut l 1
    else if wbits value 0 0 == 1 then (if s.getF F.VPT_STATE_STATE l == 7 then s else s.portOut l 7)
    else if s.getF F.VPT_STATE_STATE l == 7 then s.setF F.VPT_STATE_STATE l 1
    else s)

/-- PORT_DISABLE: a write of VPT.CTL without RETRAIN. -/
def execPortDisable (l : Fin 64) (fw : Bool) (value : W64) (s : State) : Host.Outcome State Fault Refusal :=
  .next (if wbits value 1 1 == 0 then s.vptWrite l fw value else s)

/-- PORT_RETRAIN: a write of VPT.CTL.RETRAIN. -/
def execPortRetrain (l : Fin 64) (fw : Bool) (value : W64) (s : State) : Host.Outcome State Fault Refusal :=
  .next (if wbits value 1 1 == 1 then s.vptWrite l fw value else s)

/-- A port in training enters service on the lanes that passed: all, or a whole half; otherwise it fails. -/
def State.portTrained (s : State) (l : Nat) (lanes : BitVec 8) : State :=
  if s.getF F.VPT_STATE_STATE l != 1 then s
  else
    let s := (s.setF F.VPT_STATE_FAILED_LANES l (255 - lanes.toNat)).setVlink l VLink.reset
    if lanes = 255 then s.setF F.VPT_STATE_STATE l 2
    else if wbits lanes 3 0 == 15 then s.portX4 l 4
    else if wbits lanes 7 4 == 15 then s.portX4 l 5
    else
      let s := (s.setF F.VPT_STATE_STATE l 6).setIrq .VPT l 1
      s.raise (s.errRec 0x1602 2 true s.runWm l (.plane (if l < 32 then 0 else 1)) 0 0 [s.reg ⟨.VPT, l⟩ 0x088])

/-- A bridge link in training enters service on the lane groups that passed. -/
def State.bridgeTrained (s : State) (n groups : Nat) : State :=
  if !s.bridgeTrain.contains n then s
  else
    let all := s.getF F.BRG_LINKS_GROUPS 0
    let now := natBits (4 * n + 3) (4 * n) all
    let new := (List.range 4).foldl (fun m i => if groups.testBit i || now.testBit i then m + 2 ^ i else m) 0
    { s with bridgeTrain := s.bridgeTrain.filter (· != n) }.setF F.BRG_LINKS_GROUPS 0 (all + (new - now) <<< (4 * n))

/-- LINK_TRAINING_DONE: a port, or bridge link n as unit 64 + n, has trained on the lanes, or lane groups, that passed. -/
def execLinkTrainingDone (unit : Fin 80) (lanes : BitVec 8) (s : State) : Host.Outcome State Fault Refusal :=
  .next (if 64 ≤ unit.val then s.bridgeTrained (unit.val - 64) lanes.toNat else s.portTrained unit lanes)

end Sys2Proof.Machine
end

