-- ==== Sys2Proof/Machine/Bridge.lean ====
section
/-!
DEFINITION. The span bridge, its sideband, and the causeway. Spec: 10_volino_span_causeway (R490 to R500).
-/
namespace Sys2Proof.Machine

/-! ### Re-injection (R492) -/

/-- The packet that a bridged frame becomes at its attach router, where its destination router lies in a field. -/
def State.bridgedPacket (s : State) (a : TileAddr) (f : BridgedFrame) : Option (Packet × FieldAddr) :=
  let ep := f.destEp.toNat
  if (s.sendCause a.fld f.router ep 0 false).isSome then none
  else
    let e := (s.fieldSt a.fld).entry ep
    match tileAt f.plane (EpEntry.dest e).1 (EpEntry.dest e).2 with
    | none => none
    | some t =>
      some (EpEntry.packet e f.router ep 0 false (s.fieldSt t.fld).epoch f.srcEp.toNat (natBits 7 0 f.wm.toNat) f.addr.toNat
        (f.payload.length / 8) f.aux.toNat f.payload, t.fld)

/-- BRIDGE_REINJECT: bridged frame n, the first of its attach router, is injected as an ACT packet while the plane runs the
SPAN pass of its waymark, waits while the destination field is held, and is absorbed otherwise. -/
def execBridgeReinject (n : Nat) (s : State) : Host.Outcome State Fault Refusal :=
  .next (
    match s.bridgeRx[n]? with
    | none => s
    | some f =>
      let p := f.plane
      if (s.bridgeRx.take n).any (fun g => g.plane == p && g.router == f.router) then s
      else
        let left := { s with bridgeRx := s.bridgeRx.eraseIdx n }
        let absorb := left.count C.BRG_CROSS_REFUSED 0 1
        let st := s.passState p
        if !(s.ae p).span || (st != 3 && st != 4) || s.passWm p != f.wm then absorb
        else
          match tileAt p f.router.1 f.router.2 with
          | none => absorb
          | some a =>
            match s.bridgedPacket a f with
            | none => absorb
            | some (pkt, dest) =>
              if s.fieldHeld dest || !(s.tile a).bufRoom 0 0 then s
              else (left.inject a pkt).count C.BRG_CROSSED 0 1)

/-! ### Sideband (R493) -/

/-- SIDEBAND_WORD: a good word from the other plane reaches plane p, which takes the roots of the bridged channels whose
generation is the same in both planes. A notice that it carries is PASS_ABORT_NOTICE. -/
def execSidebandWord (p : Fin 2) (s : State) : Host.Outcome State Fault Refusal :=
  .next (
    if !s.sidebandGood p then s
    else
      let q := otherPlane p
      (List.range 16).foldl (fun s ch =>
        if s.getF (F.MLW_CH_GEN ch) p == s.getF (F.MLW_CH_GEN ch) q then s.setRemote p ch (s.chBridged q ch && s.rootHigh q ch)
        else s) s)

/-- SIDEBAND_LOST: the direction toward plane p has had no good word for 200 ns: roots read low and notices are lost. -/
def execSidebandLost (p : Fin 2) (s : State) : Host.Outcome State Fault Refusal :=
  .next (
    if !s.sidebandGood p then s
    else
      let s := s.setF (if p = 1 then F.BRG_SIDEBAND_P0_TO_P1 else F.BRG_SIDEBAND_P1_TO_P0) 0 0
      let s := (List.range 16).foldl (fun s ch => s.setRemote p ch false) s
      let s := s.setAe p { s.ae p with incoming := [] }
      let s := (s.count C.BRG_SIDEBAND_LOSSES 0 1).setIrq .BRG 0 2
      s.raise (s.errRec 0x0403 2 true s.runWm 0 .module 0 0 [s.reg ⟨.BRG, 0⟩ 0x088, s.reg ⟨.BRG, 0⟩ 0x090]))

/-- A write of BRG.CTL: with RETRAIN every link with a group out of service trains again, and lost sideband directions return. -/
def State.brgWrite (s : State) (fw : Bool) (value : W64) : State :=
  let go := wbits value 0 0 == 1
  let live := (List.finRange 2).any (fun p => decide (2 ≤ s.passState p ∧ s.passState p ≤ 5))
  s.regWrite fw ⟨.BRG, 0⟩ 0x080 true value false (go && live) (fun s =>
    if go then
      let out := (List.range 16).filter (fun n => natBits (4 * n + 3) (4 * n) (s.getF F.BRG_LINKS_GROUPS 0) != 15)
      ({ s with bridgeTrain := (s.bridgeTrain ++ out).eraseDups }.setF F.BRG_SIDEBAND_P0_TO_P1 0 1).setF F.BRG_SIDEBAND_P1_TO_P0 0 1
    else s)

/-- BRIDGE_RETRAIN: a write of BRG.CTL that carries RETRAIN. -/
def execBridgeRetrain (fw : Bool) (value : W64) (s : State) : Host.Outcome State Fault Refusal :=
  .next (if wbits value 0 0 == 1 then s.brgWrite fw value else s)

/-! ### The causeway (R494 to R500) -/

/-- A field port, and its field; an external port. -/
def cwyField (n : Nat) : Option FieldAddr :=
  if h : n % 64 < 60 ∧ n < 128 then some ⟨if n < 64 then 0 else 1, ⟨n % 64, h.1⟩⟩ else none

def cwyExternal (n : Nat) : Bool := decide (128 ≤ n ∧ n < 136)

def cwyPort (n : Nat) : Bool := (cwyField n).isSome || cwyExternal n

/-- The pairing that the operation table allows, and the arguments of EXPORT and IMPORT (R495, R499). -/
def State.cwyBad (s : State) (v : W64) : Bool :=
  let a := wbits v 10 3
  let b := wbits v 18 11
  let arg (n : Nat) : Nat := s.getF (F.CWY_ARG_V n) 0
  let args := arg 0 % 4096 != 0 || arg 1 % 4096 != 0 || decide (1 < arg 2) || arg 3 == 0 || decide (64 < arg 3) || arg 3 == s.node
  match wbits v 2 0 with
  | 0 => !cwyPort a || !cwyPort b || a == b
  | 1 => !(decide (a < 60) && b == 64 + a)
  | 2 => (cwyField a).isNone || (cwyField b).isNone || a == b
  | 3 => !cwyPort a || !cwyExternal b || a == b || args
  | 4 => !cwyExternal a || args
  | _ => true

/-- Every tile of a field is whole: its present tasks are SAVED (R496). -/
def State.allSaved (s : State) (f : FieldAddr) : Bool :=
  (s.liveOf f).all (fun a => (List.range 4).all (fun k =>
    let t := (s.tile a).task k
    !t.present || t.state == .saved))

/-- MIGRATE's preconditions (R496), as a RESULT: 0, FENCE_CONFLICT or REFUSED. -/
def State.migrateCode (s : State) (src dst : FieldAddr) : Nat :=
  if !s.quiet src || !s.quiet dst || !s.allSaved src || s.getF F.FPW_STATE_POWER dst.inst != 0 || (s.fieldSt src).lost ||
      (s.fieldSt dst).lost || (s.fieldSt dst).resetting then 5
  else if (fieldTiles src).any (fun a => s.tileFenced { a with fld := dst } && !s.tileFenced a) then 2
  else 0

/-- A port of a MIGRATE or EXPORT failed the PRBS of start-up (R645). -/
def State.cwyDead (s : State) (v : W64) : Bool :=
  [2, 3].contains (wbits v 2 0) && (s.cwyFailed.contains (wbits v 10 3) || s.cwyFailed.contains (wbits v 18 11))

/-- A causeway command ends (R499, R500). -/
def State.cwyEnd (s : State) (result : Nat) : State :=
  let s := ((s.setF F.CWY_CMD_BUSY 0 0).setF F.CWY_CMD_RESULT 0 result).setIrq .CWY 0 0
  let s := { s with importing := none }
  if result == 0 then s
  else s.raise (s.errRec 0x0501 2 true s.runWm 0 .module 0 0 ([0x080, 0x088, 0x090, 0x098, 0x0A0].map (fun o => s.reg ⟨.CWY, 0⟩ o)))

/-- A write of CWY.CMD: with GO a command starts. -/
def State.cwyWrite (s : State) (fw : Bool) (v : W64) : State :=
  s.regWrite fw ⟨.CWY, 0⟩ 0x080 true v (s.cwyBad v) (s.getF F.CWY_CMD_BUSY 0 == 1) (fun s =>
    let arg (n : Nat) : Nat := s.getF (F.CWY_ARG_V n) 0
    if wbits v 19 19 == 0 then s
    else
    let s := s.setF F.CWY_CMD_BUSY 0 1
    if s.cwyDead v then s.cwyEnd 4
    else match wbits v 2 0 with
    | 2 =>
      (match cwyField (wbits v 10 3), cwyField (wbits v 18 11) with
       | some a, some b => let c := s.migrateCode a b; if c == 0 then s else s.cwyEnd c
       | _, _ => s)
    | 4 =>
      let s := s.setVlink (64 + (wbits v 10 3 - 128)) VLink.reset
      { s with importing := some { node := arg 3, plane := if arg 2 = 0 then 0 else 1, base := arg 0, size := arg 1
                                   win := DedupWin.reset } }
    | 3 => s.setVlink (64 + (wbits v 18 11 - 128)) VLink.reset
    | _ => s)

/-- The write carries the operation. -/
def cwyIs (v : W64) (op : Nat) : Bool := wbits v 19 19 == 1 && wbits v 2 0 == op

/-- TEST: a PRBS test between two ports starts. -/
def execCwyTest (fw : Bool) (value : W64) (s : State) : Host.Outcome State Fault Refusal :=
  .next (if cwyIs value 0 then s.cwyWrite fw value else s)

/-- CROSSCHECK: a cross-check of a field pair starts. -/
def execCwyCrosscheck (fw : Bool) (value : W64) (s : State) : Host.Outcome State Fault Refusal :=
  .next (if cwyIs value 1 then s.cwyWrite fw value else s)

/-- MIGRATE: a move of a field's state starts, or ends at once where R496 refuses it. -/
def execCwyMigrate (fw : Bool) (value : W64) (s : State) : Host.Outcome State Fault Refusal :=
  .next (if cwyIs value 2 then s.cwyWrite fw value else s)

/-- EXPORT: a transfer of edge memory to another module starts. -/
def execCwyExport (fw : Bool) (value : W64) (s : State) : Host.Outcome State Fault Refusal :=
  .next (if cwyIs value 3 then s.cwyWrite fw value else s)

/-- IMPORT: a fresh import window is armed. -/
def execCwyImport (fw : Bool) (value : W64) (s : State) : Host.Outcome State Fault Refusal :=
  .next (if cwyIs value 4 then s.cwyWrite fw value else s)

/-- One tile's banks copied to the same tile of another field: the near bank, and the RETAINED deep segments, which become
RETAINED there (R496). -/
def State.migrateTile (s : State) (a : TileAddr) (dst : FieldAddr) : State × Nat :=
  let b : TileAddr := { a with fld := dst }
  let t := s.tile a
  let u := s.tile b
  let kept := (List.range 8).filter (fun g => (t.seg g).state == .retained)
  let inKept (off : Nat) : Bool := decide (off < 0x2F000) && kept.contains (segOf off)
  let u := { u with
    near := t.near
    deep := putAll (fun _ => 0) (u.deep.filter (fun c => !inKept c.1)) (t.deep.filter (fun c => inKept c.1))
    ecc := putAll (fun _ => .good) (u.ecc.filter (fun e => decide (4096 ≤ e.1) && !inKept (8 * (e.1 - 4096))))
      (t.ecc.filter (fun e => decide (e.1 < 4096) || inKept (8 * (e.1 - 4096)))) }
  let u := kept.foldl (fun u g => u.setSeg g { u.seg g with state := .retained, target := .retained, waiting := none }) u
  (s.setTile b u, 32768 + (kept.map (fun g => if g = 7 then 20480 else 24576)).foldl (· + ·) 0)

/-- The frames of an EXPORT: WRITE to the endpoint CAUSEWAY of the receiving module, CIDs from 0 (R495). `n` counts them. -/
def exportFrames (l : Nat) (p : Fin 2) (node addr total : Nat) : Nat → Nat → State → State × Bool
  | 0, _, s => (s, true)
  | n + 1, k, s =>
    let len := min 4096 (total - 4096 * k)
    let r := s.edgeRead p (addr + 4096 * k) len .causeway
    if r.2.2 then (r.1, false)
    else
      let f : Frame := { dest := node <<< 24 + epCauseway, src := r.1.node <<< 24 + epEdge p, op := opWrite, flags := 1, fmt := 0
                         status := 0, len := len, aux := 0, addr := 4096 * k, cid := k, wm := r.1.runWm, retain := 0
                         payload := r.2.1 }
      exportFrames l p node addr total n (k + 1) ((r.1.onWire l ((r.1.vlink l).tag (k % 4096) false true) f.bytes).count C.CWY_BYTES 0 len)

/-- Tiles move to another field one after another; the bytes moved add up. -/
def migrateTiles (b : FieldAddr) : List TileAddr → State → Nat → State × Nat
  | [], s, n => (s, n)
  | t :: l, s, n => migrateTiles b l (s.migrateTile t b).1 (n + (s.migrateTile t b).2)

/-- CAUSEWAY_DONE: a causeway command ends and powers its ports off. `link`: the ports did not train, or failed; `peer`: the
other module refused; `errors`: bit errors of a TEST; `differ`: a CROSSCHECK found a mismatch; `bytes`: bytes that a TEST or
CROSSCHECK moved. -/
def execCausewayDone (link peer differ : Bool) (errors bytes : Nat) (s : State) : Host.Outcome State Fault Refusal :=
  .next (
    if s.getF F.CWY_CMD_BUSY 0 != 1 then s
    else if link then s.cwyEnd 4
    else
      let arg (n : Nat) : Nat := s.getF (F.CWY_ARG_V n) 0
      match s.getF F.CWY_CMD_OP 0 with
      | 0 => ((s.count C.CWY_BIT_ERRORS 0 errors).count C.CWY_BYTES 0 bytes).cwyEnd 0
      | 1 => (s.count C.CWY_BYTES 0 bytes).cwyEnd (boolNat differ)
      | 2 =>
        (match cwyField (s.getF F.CWY_CMD_PORT_A 0), cwyField (s.getF F.CWY_CMD_PORT_B 0) with
         | some a, some b =>
           let r := migrateTiles b (fieldTiles a) s 0
           (r.1.count C.CWY_BYTES 0 r.2).cwyEnd 0
         | _, _ => s.cwyEnd 5)
      | 3 =>
        let r := exportFrames (64 + (s.getF F.CWY_CMD_PORT_B 0 - 128)) (if arg 2 = 0 then 0 else 1) (arg 3) (arg 0) (arg 1)
          ((arg 1 + 4095) / 4096) 0 s
        r.1.cwyEnd (if !r.2 then 4 else if peer then 5 else 0)
      | _ => s.cwyEnd (if peer then 5 else 0))

end Sys2Proof.Machine
end

