-- ==== Sys2Proof/Machine/Energy.lean ====
section
/-!
DEFINITION. The energy of a waymark: IEEE 754 binary64 arithmetic as far as the computation uses it, the energy itself,
and the calibration of a field. Spec: 12_power_clocks_thermal (R577 to R580, R590 to R593).
-/
namespace Sys2Proof.Machine

/-! ### binary64 -/

/-- A binary64 number m × 2^e. Every quantity of the computation lies far inside the exponent range. -/
structure F64 where
  m : Int
  e : Int
  deriving DecidableEq, Repr

/-- A magnitude rounded to 53 bits, to nearest, ties to even; the shift made. -/
def round53 (n : Nat) : Nat × Nat :=
  let k := n.log2 + 1 - 53
  if k = 0 then (n, 0)
  else
    let q := n >>> k
    let r := n % 2 ^ k
    let h := 2 ^ (k - 1)
    (if h < r ∨ (r = h ∧ q % 2 = 1) then q + 1 else q, k)

def F64.round (m e : Int) : F64 :=
  let r := round53 m.natAbs
  { m := if m < 0 then -(r.1 : Int) else r.1, e := e + r.2 }

def F64.ofNat (n : Nat) : F64 := F64.round n 0

/-- m × 2^e as an integer at exponent `low`, which is at most e. -/
def F64.scaled (x : F64) (low : Int) : Int := x.m * 2 ^ (x.e - low).toNat

def F64.add (x y : F64) : F64 :=
  let low := min x.e y.e
  F64.round (x.scaled low + y.scaled low) low

def F64.sub (x y : F64) : F64 := F64.add x { y with m := -y.m }

def F64.mul (x y : F64) : F64 := F64.round (x.m * y.m) (x.e + y.e)

/-- A quotient; the lowest bit stands for a remainder. The divisor is not 0. -/
def F64.div (x y : F64) : F64 :=
  let n := x.m.natAbs <<< 120
  let d := y.m.natAbs
  let q := 2 * (n / d) + (if n % d = 0 then 0 else 1)
  F64.round (if (x.m < 0) != (y.m < 0) then -(q : Int) else q) (x.e - y.e - 121)

def F64.lt (x y : F64) : Bool := let low := min x.e y.e; decide (x.scaled low < y.scaled low)

/-- The nearest integer of a number that is not negative, ties upward. -/
def F64.nearest (x : F64) : Nat :=
  if 0 ≤ x.e then x.m.natAbs * 2 ^ x.e.toNat
  else (2 * x.m.natAbs + 2 ^ (-x.e).toNat) / 2 ^ ((-x.e).toNat + 1)

/-! ### Shadows -/

/-- A milepost shadow. -/
def State.shadow (s : State) (c : Ctr) (inst : Nat) : Nat := (s.reg ⟨c.typ, inst⟩ (ctrSpec c).shadow).toNat

def State.coef (s : State) (n : Nat) : F64 := F64.ofNat (s.getF (F.NRG_COEF_V n) 0)

/-- The counts of the field items, in the order of their coefficients (R577, R593). -/
def State.fieldItems (s : State) (i : Nat) : List Nat :=
  let n (c : Ctr) : Nat := s.shadow c i
  [n C.FEN_MAC_FP4, n C.FEN_MAC_8BIT, n C.FEN_MAC_16BIT, n C.FEN_ACTIVE_CYCLES, n C.FEN_IDLE_CYCLES, n C.FEN_NEAR_BYTES,
   n C.FEN_DEEP_BYTES, n C.MESH_FLIT_HOPS_ACT + n C.MESH_FLIT_HOPS_WGT + n C.MESH_FLIT_HOPS_SUM + n C.MESH_FLIT_HOPS_CTL,
   n C.MESH_NBR_TOKENS, n C.FEN_TOW_TOKENS, n C.FEN_RED_ADDS,
   n C.FEN_FIELD_CYCLES - n C.FEN_PARKED_CYCLES - n C.FEN_LAYBY_CYCLES, n C.FEN_PARKED_CYCLES, n C.FEN_LAYBY_CYCLES]

/-- The energy of a field in fJ before its calibration factor. -/
def State.fieldRaw (s : State) (f : FieldAddr) : F64 :=
  let i := f.inst
  let sum := ((s.fieldItems i).mapIdx (fun k c => (s.coef k).mul (F64.ofNat c))).foldl F64.add (F64.ofNat 0)
  let samples := s.shadow C.FEN_V_SAMPLES i
  let vnom := F64.ofNat (550 + 5 * s.getF F.FPW_VOLT_VNOM i)
  let v := if samples = 0 then vnom else (F64.ofNat (s.shadow C.FEN_V_SUM i)).div (F64.ofNat samples)
  let r := v.div vnom
  sum.mul (r.mul r)

/-- The calibration factor K of a field. -/
def State.calK (s : State) (f : FieldAddr) : F64 := (F64.ofNat (s.getF F.FEN_CAL_K f.inst)).div (F64.ofNat 16384)

def State.fieldEnergy (s : State) (f : FieldAddr) : F64 := (s.calK f).mul (s.fieldRaw f)

/-- Seconds of a plane in the waymark. -/
def State.planeSeconds (s : State) (p : Fin 2) : F64 :=
  (F64.ofNat (s.shadow C.FEN_FIELD_CYCLES (s.lowField p).inst)).div (F64.ofNat 800000000)

/-- 10^15: fJ in a joule. -/
def femto : F64 := F64.ofNat (10 ^ 15)

/-- fJ as µJ. -/
def F64.micro (x : F64) : F64 := x.div (F64.ofNat (10 ^ 9))

def State.planeEnergy (s : State) (p : Fin 2) : F64 :=
  let fields := (List.finRange 60).foldl (fun n f =>
    if (s.fieldSt ⟨p, f⟩).lost then n else n.add (s.fieldEnergy ⟨p, f⟩)) (F64.ofNat 0)
  let edge := (s.coef 14).mul (F64.ofNat (s.shadow C.EMP_RD_BYTES p + s.shadow C.EMP_WR_BYTES p))
  let vol := (s.coef 15).mul (F64.ofNat ((List.range 32).foldl (fun n k =>
    n + s.shadow C.VPT_BYTES_TX (32 * p + k) + s.shadow C.VPT_BYTES_RX (32 * p + k)) 0))
  ((fields.add edge).add vol).add (((s.coef 16).mul (s.planeSeconds p)).mul femto)

/-- energy(w) in µJ, from the shadows latched at the close (R578). -/
def State.waymarkEnergy (s : State) : Nat :=
  let one := F64.ofNat 1
  let conv := (s.coef 18).div (F64.ofNat 1000000)
  let sum := ((s.planeEnergy 0).add (s.planeEnergy 1)).add (((s.coef 17).mul (s.planeSeconds 0)).mul femto)
  ((one.add conv).mul sum).micro.nearest

/-- The calibration of a field after a close (R579). A field without energy and without measured energy gives no R: its
new K is a free value in the legal range (assumption 11). -/
def State.calibrate (s : State) (f : FieldAddr) : State :=
  let i := f.inst
  if s.getF F.NRG_CTL_CAL_EN 0 == 0 || (s.fieldSt f).lost || decide (s.shadow C.FEN_FIELD_CYCLES i < 800000) then s
  else
    let m := (s.fieldRaw f).micro
    let rail := s.shadow C.FEN_RAIL_UJ i
    if m.m = 0 then
      if rail = 0 then let x := s.freeBits 16; x.2.setF F.FEN_CAL_K i (max 13107 (min 20480 x.1.toNat))
      else s.setF F.FEN_CAL_K i 20480
    else
      let k := s.calK f
      let r := (F64.ofNat rail).div m
      let d := r.sub k
      let new := k.add { d with e := d.e - s.getF F.NRG_CTL_CAL_SHIFT 0 }
      let lo := (F64.ofNat 8).div (F64.ofNat 10)
      let hi := (F64.ofNat 5).div (F64.ofNat 4)
      let lim := if new.lt lo then lo else if hi.lt new then hi else new
      s.setF F.FEN_CAL_K i (lim.mul (F64.ofNat 16384)).nearest

/-- The energy registers at the close of a waymark (R579, R580); `meas` is the measured input energy in µJ. The energy
goes into the RESULT of the close. -/
def State.closeEnergy (s : State) (wm attempt meas : Nat) : State × Nat :=
  let uj := s.waymarkEnergy
  let all : List FieldAddr := (List.finRange 2).flatMap (fun p => (List.finRange 60).map (fun f => ⟨p, f⟩))
  let s := all.foldl (fun s f =>
    if (s.fieldSt f).lost then s else s.setF F.FEN_ENERGY_UJ f.inst ((s.fieldEnergy f).micro.nearest)) s
  let s := s.setReg ⟨.NRG, 0⟩ 0x088 (BitVec.ofNat 64 (wm + attempt <<< 32))
  let s := (s.setF F.NRG_WM_UJ_UJ 0 uj).setF F.NRG_WM_MEAS_UJ_UJ 0 meas
  let s := s.setF F.NRG_STEP_UJ_UJ 0 (s.getF F.NRG_STEP_UJ_UJ 0 + uj)
  let s := s.setF F.NRG_STEP_MEAS_UJ_UJ 0 (s.getF F.NRG_STEP_MEAS_UJ_UJ 0 + meas)
  (all.foldl (fun s f => s.calibrate f) s, uj)

end Sys2Proof.Machine
end

