-- ==== Sys2Proof/Machine/Steps.lean ====
section
/-!
DEFINITION. Steps: beginning one, closing its waymarks, running it again, ending and aborting it. Spec:
08_engines_and_command_lists (R394 to R399, R405 to R410, R677), 10 (R478), 12 (R578), 13 (R608, R609).
-/
namespace Sys2Proof.Machine

/-! ### Latches (R398, R399) -/

/-- The most frames held are latched into the milepost, unless FREEZE holds it, and restart at the frames held now (R373, R398). -/
def State.latchPeaks (s : State) : State :=
  (List.finRange 2).foldl (fun s (p : Fin 2) => (List.range 8).foldl (fun s g =>
    let s := if (s.reg ⟨.SEN, p.val⟩ 0x048).getLsbD 0 then s
      else { s with peaks := put (fun _ => 0) s.peaks (8 * p.val + g) (s.getF (F.SEN_GRP_OCC_PEAK g) p.val) }
    s.setF (F.SEN_GRP_OCC_PEAK g) p.val (s.groupFrames p g false)) s) s

/-- A latch of every page of the module, in directory order: SERVICE, plane 0, plane 1. -/
def State.latchAll (s : State) (w : Waymark) (attempt : Nat) : State :=
  (directory.foldl (fun s p => if s.offline p then s else s.latchPage p w attempt) s).latchPeaks

/-! ### Step records -/

/-- The engines of a mask. -/
def maskEngines (mask : Nat) : List Nat := (List.range 7).filter (fun e => mask.testBit e)

/-- The planes whose Array Engine is in the mask. -/
def maskPlanes (mask : Nat) : List (Fin 2) := (List.finRange 2).filter (fun p => mask.testBit (1 + p.val))

/-- The fields of the planes whose Array Engine is in the mask. -/
def maskFields (mask : Nat) : List FieldAddr := (maskPlanes mask).flatMap (fun p => (List.finRange 60).map (fun f => ⟨p, f⟩))

def StepSt.holds (x : StepSt) (wm : Nat) : Bool := decide (x.firstWm ≤ wm ∧ wm ≤ x.lastWm)

/-- A record has started and not completed. -/
def EngRec.busy (r : EngRec) : Bool := r.stage == .started || r.stage == .running

/-- The started records of a step: engine, queue, record. -/
def State.stepBusy (s : State) (x : StepSt) : List (Nat × Nat × EngRec) :=
  (maskEngines x.mask).flatMap (fun e => (List.range 64).flatMap (fun q =>
    ((s.queue e q).recs.filter (fun (r : EngRec) => r.busy && x.holds (RawRec.wm r.raw))).map (fun r => (e, q, r))))

def EngRec.isClose (r : EngRec) : Bool := RawRec.opcode r.raw == opWmClose

/-- A waymark opened on the engines of a mask, with the counts held for it (R366, R394, R395). -/
def State.setCurWm (s : State) (mask wm : Nat) : State :=
  ((maskEngines mask).foldl (fun s e => (s.setF F.ENG_WM_CUR_WM e wm).setF F.ENG_WM_OPEN e 1) s).addAhead

/-- Kept pass-abort notices are discarded at the next waymark, whose SPAN passes are counted anew (R294). -/
def State.dropNotices (s : State) : State :=
  (List.finRange 2).foldl (fun s p => s.setAe p { s.ae p with notices := [], spans := 0 }) s

/-! ### STEP_BEGIN (R385, R394) -/

/-- WM_ORDER: FIRST_WM is 0 or not above the last waymark closed, or LAST_WM lies below it or more than 65,535 above. -/
def State.wmOrder (s : State) (first last : Nat) : Bool :=
  first == 0 || decide (first ≤ s.getF F.ENG_STEP_LAST_LAST_CLOSED 0) || decide (last < first) || decide (65535 < last - first)

/-- STEP_BEGIN: a step opens. -/
def execStepBegin (q : Fin 64) (s : State) : Host.Outcome State Fault Refusal :=
  .next (
    match s.startedRec 0 q [opStepBegin] with
    | none => s
    | some r =>
      let raw : RawRec := r.raw
      let first := raw.opd 48 4
      let last := raw.opd 52 4
      let mask := natBits 6 0 (raw.opd 56 1)
      if s.step.isSome then s
      else if s.getF F.FLT_RECOVERY_STATE 0 == 4 || s.getF F.FLT_RECOVERY_STATE 0 == 5 then s.complete 0 q r.index 0 4 true 0
      else if s.wmOrder first last then s.complete 0 q r.index 0 3 false 0
      else
        let s := s.setF F.ENG_STEP_ATTEMPT 0 0
        let s := ((s.latchAll 0 0).setF F.NRG_STEP_UJ_UJ 0 0).setF F.NRG_STEP_MEAS_UJ_UJ 0 0
        let s := ((s.setF F.ENG_STEP_OPEN 0 1).setF F.ENG_STEP_FIRST_WM 0 first).setF F.ENG_STEP_LAST_LAST_WM 0 last
        let s := (s.setCurWm mask first).dropNotices
        let s := (maskEngines mask).foldl (fun s e => (List.range 64).foldl (fun s k =>
          let x := s.queue e k
          s.setQueue e k { x with mark := match x.head with | some h => h.index | none => s.getF (F.ENG_QPTR_FETCH k) e }) s) s
        let st : StepSt :=
          { firstWm := first, lastWm := last, mask := mask, reruns := natBits 3 0 (raw.opd 57 1), made := 0, queue := q
            index := r.index, fail := none, lastFail := none, rebound := false, aborted := false, final := false, phase := .running
            epochs := (maskFields mask).map (fun f => (f.idx, (s.fieldSt f).epoch)), left := [], done := [], stopped := [] }
        { s with step := some st, stepsSeen := (first, last) :: s.stepsSeen }.setStage 0 q r.index .running)

/-! ### The end of a step (R402, R408, R410) -/

/-- RESULT of a STEP_BEGIN. -/
def StepSt.result (x : StepSt) : W64 :=
  BitVec.ofNat 64 (x.made + (match x.lastFail with
    | some f => f.engine <<< 4 + f.queue <<< 8 + f.index <<< 16
    | none => 0))

/-- OPEN becomes 0 on the engines of the mask. -/
def State.closeOpen (s : State) (mask : Nat) : State := (maskEngines mask).foldl (fun s e => s.setF F.ENG_WM_OPEN e 0) s

/-- The step is over: no engine is open, its records retire together, and its STEP_BEGIN completes. -/
def State.endStep (s : State) (x : StepSt) (status : Nat) (hw : Bool) : State :=
  let failed := if status != 0 then some (x.firstWm, x.lastWm) else s.stepFailed
  let s := { (s.closeOpen x.mask).setF F.ENG_STEP_OPEN 0 0 with step := none, stepFailed := failed, ahead := [] }
  let s := (List.range 7).foldl (fun s e => (List.range 64).foldl (fun s q =>
    let y := s.queue e q
    (s.setQueue e q { y with recs := y.recs.map (fun (r : EngRec) =>
      if r.stage == .done && x.holds (RawRec.wm r.raw) then { r with retired := true } else r) }).retireQueue e q) s) s
  (s.setIrq .ENG 0 3).complete 0 x.queue x.index 0 status hw x.result

/-! ### WAYMARK_CLOSE (R395, R677) -/

/-- Every record that a WAYMARK_CLOSE found when it started has completed. -/
def State.wmDone (s : State) (r : EngRec) : Bool :=
  r.matched.all (fun k => match (s.queue (k / 2 ^ 20 / 64) (k / 2 ^ 20 % 64)).rec? (k % 2 ^ 20) with
    | some y => y.stage == .done
    | none => true)

/-- WAYMARK_CLOSE: once every record of its waymark has completed, every page is latched, and the next waymark opens or the
step ends. `meas` is the measured input energy of the waymark in µJ. -/
def execWaymarkClose (q : Fin 64) (meas : Nat) (s : State) : Host.Outcome State Fault Refusal :=
  .next (
    match s.step, (s.queue 0 q).recs.find? (fun (r : EngRec) => r.busy && r.isClose) with
    | some x, some r =>
      let w := RawRec.wm r.raw
      if x.phase != .running || x.fail.isSome || x.aborted || !s.wmDone r then s
      else
        let attempt := s.getF F.ENG_STEP_ATTEMPT 0
        let e := (s.latchAll (BitVec.ofNat 32 w) attempt).closeEnergy w attempt meas
        let s := e.1.setF F.ENG_STEP_LAST_LAST_CLOSED 0 w
        let s := s.dropNotices
        let s := if w < x.lastWm then s.setCurWm x.mask (w + 1) else s.endStep x 0 false
        s.complete 0 q r.index 0 0 false (BitVec.ofNat 64 e.2)
    | _, _ => s)

/-! ### Cancelling a step's work (R406) -/

/-- The streams and exchanges of the waymarks that are open or prefetched are cancelled, and the records that have started and have not
opened one yet (R303, R406). -/
def State.cancelWork (s : State) (x : StepSt) : State :=
  let cur := s.getF F.ENG_WM_CUR_WM 0
  let wms := [cur, cur + 1].filter x.holds
  let s := (List.finRange 2).foldl (fun s p => wms.foldl (fun s w => (s.cancelStreams p 1 w).cancelExchanges p 1 w) s) s
  (s.stepBusy x).foldl (fun s e =>
    if e.2.2.stage == .started && cancellable (RawRec.opcode e.2.2.raw) then s.complete e.1 e.2.1 e.2.2.index 0 1 false 0 else s) s

/-- The work of a step is cancelled: streams, exchanges, and the running passes. -/
def State.cancelStep (s : State) (x : StepSt) : State :=
  let s := s.cancelWork x
  (maskPlanes x.mask).foldl (fun s p => if x.holds (s.passWm p).toNat then s.planeCause p 0x12 false else s) s

/-- A WAYMARK_CLOSE that has started and still waits is withdrawn. -/
def State.withdrawCloses (s : State) : State :=
  (List.range 64).foldl (fun s q =>
    (s.queue 0 q).recs.foldl (fun s (r : EngRec) =>
      if r.busy && r.isClose then
        let s := s.setQueue 0 q ((s.queue 0 q).upd r.index (fun y => { y with stage := .queued, sat := (false, false) }))
        s.setF (F.ENG_QSTAT_OUTSTANDING q) 0 (s.getF (F.ENG_QSTAT_OUTSTANDING q) 0 - 1)
      else s) s) s

/-- The same cause has arisen in two consecutive attempts, and no slot was rebound between them (R617). -/
def StepSt.again (x : StepSt) : Bool :=
  match x.fail, x.lastFail with
  | some f, some g => f.key == g.key && !x.rebound
  | _, _ => false

/-- A re-run can be made after the failing outcome (R405, R409, R608, R616, R617). -/
def StepSt.mayRerun (x : StepSt) : Bool :=
  (match x.fail with | some f => f.hardware | none => false) && decide (x.made < x.reruns) && !x.final && !x.aborted && !x.again

/-- STEP_RERUN: on an outcome of class HARDWARE, the step's work is cancelled and waiting closes are withdrawn. -/
def execStepRerun (s : State) : Host.Outcome State Fault Refusal :=
  .next (
    match s.step with
    | none => s
    | some x =>
      if x.phase != .running || !x.mayRerun then s
      else
        let s := { s with step := some { x with phase := .rerunning } }.count C.ENG_RERUNS 0 1
        (s.cancelStep x).withdrawCloses)

/-- A field's epoch set back to its step epoch, in the Array Engine and in every tile (R406). -/
def State.rewindEpoch (s : State) (e : Nat × BitVec 2) : State :=
  match (maskFields 6).find? (fun f => f.idx == e.1) with
  | none => s
  | some f =>
    if (s.fieldSt f).epoch == e.2 then s
    else
      let s := (s.setField f { s.fieldSt f with epoch := e.2 }).setF F.PAS_RUN_EPOCH f.inst e.2.toNat
      (fieldTiles f).foldl (fun s a => if s.tileFenced a then s else s.setTile a { s.tile a with epoch := e.2 }) s

/-! ### STEP_END and STEP_ABORT (R408, R409, R478) -/

/-- The step ends ERROR or ABORTED. -/
def StepSt.mustEnd (x : StepSt) : Bool :=
  x.aborted || (x.phase == .rerunning && x.final) || (x.fail.isSome && !x.mayRerun && x.phase == .running)

/-- The fetched records of a step that have not started complete FLUSHED, or with what validation gave them, in queue order,
while the completion ring has room. `fuel` bounds them. -/
def State.flushQueue (x : StepSt) (e q : Nat) : Nat → State → State
  | 0, s => s
  | fuel + 1, s =>
    match (s.queue e q).head with
    | some h =>
      if x.holds (RawRec.wm h.raw) && s.cqRoom e q && !s.stopped e q then
        State.flushQueue x e q fuel (s.complete e q h.index (if h.check != 0 then h.check else 11) 0 false 0)
      else s
    | none => s

/-- The fields that the recovery has held are released. -/
def State.releaseRecovery (s : State) : State :=
  match s.step with
  | some x => (maskFields 6).foldl (fun s f => if x.stopped.contains f.idx then s.drainStart f 2 else s)
      { s with step := some { x with stopped := [] } }
  | none => s

/-- Nothing of the step runs any more: waiting closes and fetched records are flushed, waymarks whose contributions have been
performed are tainted ABANDONED, and the step ends. -/
def State.finishStep (s : State) (x : StepSt) : State :=
  let s := s.releaseRecovery
  let s := (List.range 64).foldl (fun s q => (s.queue 0 q).recs.foldl (fun s (r : EngRec) =>
    if r.busy && r.isClose then s.complete 0 q r.index 11 0 false 0 else s) s) s
  let s := s.closeOpen x.mask
  let s := (maskEngines x.mask).foldl (fun s e => (List.range 64).foldl (fun s q => State.flushQueue x e q (s.queue e q).recs.length s) s) s
  let attempt := s.getF F.ENG_STEP_ATTEMPT 0
  let s := (rising x.done).foldl (fun s w => s.taint w 1 attempt 0xFF 0xFF .module) s
  let x := match s.step with | some y => y | none => x
  let fail := match x.fail with | some f => some f | none => x.lastFail
  s.endStep { x with lastFail := fail } (if x.aborted then 2 else 1) (!x.aborted && (match x.fail with | some f => f.hardware | none => true))

/-- STEP_END: a step that ends ERROR or ABORTED cancels its work; when nothing of it runs any more, it ends. -/
def execStepEnd (s : State) : Host.Outcome State Fault Refusal :=
  .next (
    match s.step with
    | none => s
    | some x =>
      if x.phase != .ending && !x.mustEnd then s
      else
        let s := if x.phase == .ending then s
          else ({ s with step := some { x with phase := .ending } }).cancelStep x
        if (s.stepBusy x).all (fun r => r.2.2.isClose) then s.finishStep (match s.step with | some y => y | none => x) else s)

/-- The open step ends ABORTED. -/
def State.abortStep (s : State) : State :=
  match s.step with
  | some x => if x.phase == .ending then s else { s with step := some { x with aborted := true } }
  | none => s

/-- A write of ENG.STEP. -/
def State.stepWrite (s : State) (fw : Bool) (value : W64) : State :=
  s.regWrite fw ⟨.ENG, 0⟩ 0x0A0 true value false false (fun s => if wbits value 0 0 == 1 then s.abortStep else s)

/-- STEP_ABORT: a write of ENG.STEP.ABORT ends the open step ABORTED. -/
def execStepAbort (fw : Bool) (value : W64) (s : State) : Host.Outcome State Fault Refusal :=
  .next (if wbits value 0 0 == 1 then s.stepWrite fw value else s)

end Sys2Proof.Machine
end

