-- ==== Sys2Proof/Machine/EdgeHost.lean ====
section
/-!
DEFINITION. The edge-memory stacks and the PCIe function: burst accesses and errors, refresh, readouts, scrub, failed
stacks, self-refresh, the BAR4 window, bad reads, PCIe resets and held DMA. Spec: 11_edge_memory_and_host (R501 to R525),
12 (R563, R570), 13 (R608).
-/
namespace Sys2Proof.Machine

/-! ### Stacks (R501, R505 to R510, R514) -/

def stackInst (p : Fin 2) (k : Fin 24) : Nat := 32 * p.val + k.val

def State.stackState (s : State) (p : Fin 2) (k : Fin 24) : Nat := s.getF F.HBM_STATE_STATE (stackInst p k)

/-- What the stack finds of a burst: 1 a correctable error, 2 an uncorrectable one, 3 a correction by its on-die ECC. -/
def State.burstFound (s : State) (p : Fin 2) (b err : Nat) : State :=
  match err with
  | 1 => if s.burstMark p b == .good then s.setBurst p b .correctable else s
  | 2 => if s.burstMark p b == .poison then s else s.setBurst p b .uncorr
  | 3 => s.count C.HBM_ODECC (32 * p.val + s.stackOf p (64 * b)) 1
  | _ => s

/-- EDGE_MEMORY_ACCESS: the stack controllers perform the outstanding request `seq` of stream context `ctx`, and return it.
`err` says what the stack of burst `burst` finds there. -/
def execEdgeMemoryAccess (p : Fin 2) (ctx seq burst : Nat) (err : Fin 4) (s : State) : Host.Outcome State Fault Refusal :=
  .next (
    let s := s.burstFound p burst err
    let k := ctxKey p (ctx % 2 ^ 20)
    match (s.ctx k).reqs.find? (fun (r : StreamReq) => !r.server && r.seq == seq) with
    | some r => s.edgeBack k r
    | none => s)

/-- REFRESH: a per-bank refresh holds no state; an RFM command is counted. -/
def execRefresh (p : Fin 2) (stack : Fin 24) (rfm : Bool) (s : State) : Host.Outcome State Fault Refusal :=
  .next (if s.stackState p stack == 2 && rfm then s.count C.HBM_RFM (stackInst p stack) 1 else s)

/-- Throttling and halt of a stack by its readout (R563): bit 0 throttled, bit 1 halted. -/
def State.stackHeatSet (s : State) (k temp : Nat) : State :=
  let thr := s.getF F.PWR_THERM_HBM_THROTTLE 0
  let old := look (fun _ => 0) s.stackHeat k
  let slow := if old.testBit 0 then decide (thr < temp + 3) else decide (thr ≤ temp)
  let halt := if old.testBit 1 then decide (100 ≤ temp) else decide (105 ≤ temp)
  let s := if slow && !old.testBit 0 then s.count C.PWR_HBM_THROTTLES 0 1 else s
  let s := if halt && !old.testBit 1 then s.count C.PWR_HBM_HALTS 0 1 else s
  { s with stackHeat := put (fun _ => 0) s.stackHeat k (boolNat slow + 2 * boolNat halt) }

/-- HBM_TEMP_READOUT: the stack's temperature in °C is read; above 85 the refresh rate doubles until it falls below 82. -/
def execHbmTempReadout (p : Fin 2) (stack : Fin 24) (temp : BitVec 8) (s : State) : Host.Outcome State Fault Refusal :=
  .next (
    let k := stackInst p stack
    if s.stackState p stack != 2 then s
    else
      let hot := if s.getF F.HBM_STATE_HOT k == 1 then decide (82 ≤ temp.toNat) else decide (85 < temp.toNat)
      let s := (s.setF F.HBM_STATE_TEMP k temp.toNat).setF F.HBM_STATE_HOT k (boolNat hot)
      s.stackHeatSet k temp.toNat)

/-- Bursts of a plane's edge memory, the reserved top included. -/
def State.planeBursts (s : State) (p : Fin 2) : Nat := (s.edgeCapacity p + 2 ^ 30) / 64

/-- PATROL_SCRUB: the next burst of the plane is read; an uncorrectable one is written with the poison code. `err` as in
EDGE_MEMORY_ACCESS. -/
def execPatrolScrub (p : Fin 2) (err : Fin 4) (s : State) : Host.Outcome State Fault Refusal :=
  .next (
    let b := look (fun _ => 0) s.scrubAt p
    if s.getF F.EMP_CTL_SCRUB_EN p == 0 || s.getF F.EMP_CAPACITY_STACKS p == 0 || look (fun _ => 0) s.selfRefresh p != 0 then s
    else
      let n := s.planeBursts p
      let s := { s with scrubAt := put (fun _ => 0) s.scrubAt p (if b + 1 < n then b + 1 else 0) }
      let r := (s.burstFound p b err).readBurst p b .scrub
      if r.2 && !r.1.stackDead p (64 * b) then r.1.setBurst p b .poison else r.1)

/-- BURST_WRITEBACK: a corrected burst is written back. -/
def execBurstWriteback (p : Fin 2) (burst : Nat) (s : State) : Host.Outcome State Fault Refusal :=
  .next (
    let k := burstKey p burst
    if !s.edgeWb.contains k then s
    else
      let s := { s with edgeWb := s.edgeWb.filter (· != k) }
      if s.burstMark p burst == .correctable && !s.stackDead p (64 * burst) then s.setBurst p burst .good else s)

/-- Service firmware's state after a loss that only a module reset mends (R608, R609, R636): 4 RESET_NEEDED, 5 FAILED. -/
def State.moduleDown (s : State) (state : Nat) : State :=
  if s.getF F.FLT_RECOVERY_STATE 0 == 5 then s
  else ((s.setF F.FLT_RECOVERY_STATE 0 state).setErr .FLT 0 0).failStep true true 0 0 0 [0x101]

/-- STACK_FAIL: a stack that did not retrain fails until module reset, and the open step ends without a re-run. -/
def execStackFail (p : Fin 2) (stack : Fin 24) (s : State) : Host.Outcome State Fault Refusal :=
  .next (
    let k := stackInst p stack
    if s.stackState p stack != 2 then s
    else
      let s := (s.setF F.HBM_STATE_STATE k 4).setIrq .EMP p 1
      let s := s.raise (s.errRec 0x1402 3 true s.runWm k (.plane p) 0 0 [s.reg ⟨.HBM, k⟩ 0x080, BitVec.ofNat 64 stack.val])
      let s := s.retain { kind := 5, plane := p, index := stack, block := 0xFF, row := 0xFF, col := 0xFF, code := 0x1402, wm := s.runWm }
      s.moduleDown 4)

/-- SELF_REFRESH_ENTRY: every field of the plane is in layby or lost, and no requester has come for 10 ms. -/
def execSelfRefreshEntry (p : Fin 2) (s : State) : Host.Outcome State Fault Refusal :=
  .next (
    let quiet := (List.finRange 60).all (fun f => s.inLayby ⟨p, f⟩ || (s.fieldSt ⟨p, f⟩).lost)
    if quiet && look (fun _ => 0) s.selfRefresh p == 0 then { s with selfRefresh := put (fun _ => 0) s.selfRefresh p 1 } else s)

/-- SELF_REFRESH_EXIT: 200 µs after the access, the stacks are out. -/
def execSelfRefreshExit (p : Fin 2) (s : State) : Host.Outcome State Fault Refusal :=
  .next (if look (fun _ => 0) s.selfRefresh p == 2 then { s with selfRefresh := put (fun _ => 0) s.selfRefresh p 0 } else s)

/-! ### BAR4 and bad reads (R506, R517, R519, R520) -/

/-- What leaves toward the host and is not DMA: a completion. -/
def State.respond (s : State) (o : HostOut) : State := { s with hostOut := s.hostOut ++ [o] }

/-- A host access that is refused: counted and captured (R520). -/
def State.refusedAccess (s : State) (bar : Nat) (write poisoned : Bool) (off : Nat) : State :=
  (s.count C.HIF_BAD_ACCESS 0 1).badAccess bar write poisoned off

/-- BAR4_ACCESS: a host read of `len` bytes, or a write of `bytes`, at an offset of BAR4. A poisoned write is stored, and
every burst that it touches takes the poison code. -/
def execBar4Access (off : Nat) (write poisoned : Bool) (bytes : List Byte) (len : Nat) (s : State) :
    Host.Outcome State Fault Refusal :=
  .next (
    let p : Fin 2 := if s.getF F.HIF_BAR4_WIN_PLANE 0 = 0 then 0 else 1
    let off := off % 2 ^ s.getF F.HIF_BAR4_SIZE_LOG2 0
    let addr := 2 ^ 30 * s.getF F.HIF_BAR4_WIN_BASE 0 + off
    let n := if write then bytes.length else len
    if s.edgeCapacity p < addr + n then
      let s := s.refusedAccess 2 write (write && poisoned) off
      if write then s else s.respond .unsupported
    else if write then
      let s := s.edgeWrite p addr bytes
      if poisoned then
        ((burstsOf addr n).foldl (fun s b => if s.stackDead p (64 * b) then s else s.setBurst p b .poison) s).badAccess 2 true true off
      else s
    else
      let r := s.edgeRead p addr len .host
      r.1.respond (.completion r.2.1 r.2.2))

/-- BAR0_BAD_READ: a BAR0 read of another size or alignment than R517 accepts. -/
def execBar0BadRead (off : Nat) (s : State) : Host.Outcome State Fault Refusal :=
  .next ((s.refusedAccess 0 false false (off % 2 ^ 26)).respond .unsupported)

/-! ### PCIe resets and held DMA (R515, R521, R524) -/

/-- Page HIF at its Reset values. -/
def State.resetPage (s : State) (p : Page) : State :=
  { s with regs := s.regs.filter (fun e => e.1 / 4096 != regKey p 0 / 4096) }

/-- What is held leaves, unless DMA is held or the function is in D3hot. -/
def State.releaseHost (s : State) : State :=
  if s.getF F.HIF_DMA_CTL_HELD 0 == 1 || s.d3hot then s else { s with hostOut := s.hostOut ++ s.hostHeld, hostHeld := [] }

/-- PCIE_RESET: a conventional reset or a link loss resets the function; `link` is HIF.LINK as the link trains again. -/
def execPcieReset (link : W64) (s : State) : Host.Outcome State Fault Refusal :=
  .next (
    let s := { s.resetPage ⟨.HIF, 0⟩ with msix := [], d3hot := false, doe := [] }
    let s := (s.setF F.HIF_DMA_CTL_HELD 0 1).raiseF F.HIF_DMA_CTL_RESET_SEEN 0
    let s := s.setReg ⟨.HIF, 0⟩ 0x080 (BitVec.ofNat 64 (wbits link 9 0))
    s.setIrq .HIF 0 2)

/-- The queues whose rings lie in host memory are disabled, without the checks of R416. -/
def State.dropHostQueues (s : State) : State :=
  (List.range 7).foldl (fun s e => (List.range 64).foldl (fun s q =>
    if s.enabled e q && s.getF (F.ENG_QCFG_LOC q) e == 0 then (s.disableQueue e q).setF (F.ENG_QSTAT_OUTSTANDING q) e 0 else s) s) s

/-- A write of HIF.DMA_CTL: RESUME releases what is held, DISCARD drops it. -/
def State.dmaCtlWrite (s : State) (fw : Bool) (value : W64) : State :=
  let cmd := wbits value 2 1 != 0
  s.regWrite fw ⟨.HIF, 0⟩ 0x098 true value false (cmd && s.getF F.HIF_DMA_CTL_HELD 0 == 0) (fun s =>
    let s := if cmd then s.setF F.HIF_DMA_CTL_HELD 0 0 else s
    let s := if wbits value 1 1 == 1 then s.releaseHost else s
    if wbits value 2 2 == 1 then
      ({ (s.count C.HIF_DMA_DISCARDS 0 s.hostHeld.length) with hostHeld := [] }).dropHostQueues
    else s)

/-- DMA_RESUME: a write of HIF.DMA_CTL that carries RESUME. -/
def execDmaResume (fw : Bool) (value : W64) (s : State) : Host.Outcome State Fault Refusal :=
  .next (if wbits value 1 1 == 1 then s.dmaCtlWrite fw value else s)

/-- DMA_DISCARD: a write of HIF.DMA_CTL that carries DISCARD. -/
def execDmaDiscard (fw : Bool) (value : W64) (s : State) : Host.Outcome State Fault Refusal :=
  .next (if wbits value 2 2 == 1 then s.dmaCtlWrite fw value else s)

/-- CONFIG_SPACE_WRITE: a Resizable BAR size for BAR4 (`power` false, log2 of the bytes), or a move to D3hot (`v` 1) or D0. -/
def execConfigSpaceWrite (power : Bool) (v : Nat) (s : State) : Host.Outcome State Fault Refusal :=
  .next (
    if power then
      if v = 1 then { s with d3hot := true } else if v = 0 then { s with d3hot := false }.releaseHost else s
    else if 30 ≤ v ∧ v ≤ 36 then s.setF F.HIF_BAR4_SIZE_LOG2 0 v
    else s)

end Sys2Proof.Machine
end

