-- ==== Sys2Proof/Machine/Rails.lean ====
section
/-!
DEFINITION. Field rails, frequencies and heat: frequency selection, supply warnings, field resets, lost fields, clock
locks, ageing and temperatures. Spec: 12_power_clocks_thermal (R536 to R562, R584 to R589), 13 (R607, R609, R616).
-/
namespace Sys2Proof.Machine

/-! ### Frequency selection (R553 to R557) -/

/-- The lowest fused code of an island's tiles that are not fenced; none where every tile is. -/
def State.islandCode (s : State) (f : FieldAddr) (block : Nat) : Option Nat :=
  (fieldTiles f).foldl (fun (m : Option Nat) a =>
    if a.block != block || s.tileFenced a then m
    else
      let c := (Config.tileCode f.inst a.row.val (s.physCol a)).toNat
      some (match m with | some b => min b c | none => c)) none

/-- An island's maximum at a rail voltage in mV, as an FCODE, from its lowest fused code; below 0 where it falls short of
800 MHz. Worked in tenths of a MHz. -/
def State.islandMax (s : State) (f : FieldAddr) (code : Option Nat) (age mv : Nat) : Int :=
  match code with
  | none => 22
  | some c =>
    let vnom : Int := 550 + 5 * s.getF F.FPW_VOLT_VNOM f.inst
    let slope : Int := s.getF F.FPW_VOLT_SLOPE f.inst
    min 22 (((250 * c : Int) - slope * (vnom - mv)).fdiv 250 - age)

/-- A field's stretch: the deepest of the module's, the limiter's, the supply warning's and the one held before parking
(R560, R576). -/
def State.fieldStretch (s : State) (f : FieldAddr) : Nat :=
  let half := s.getF F.PWR_CEIL_LIMITER 0 == 1 || (s.fieldSt f).warned || (s.fieldSt f).hot
  max (s.getF F.PWR_CEIL_STRETCH 0) (boolNat half)

/-- The field ceiling (R556). A field that waits to be parked runs with thermal ceiling 0 (R560). -/
def State.fieldCeil (s : State) (f : FieldAddr) : Nat :=
  min (s.getF F.FPW_FTARGET_FCODE f.inst) (min (if (s.fieldSt f).hot then 0 else s.getF F.FPW_STATE_TCEIL f.inst) (s.getF F.PWR_CEIL_FCODE 0))

/-- The lowest setpoint, as a VCODE, at which every island reaches the ceiling; 50, which is 800 mV, where none does. -/
def lowestSetpoint (ok : Nat → Bool) : Nat :=
  match (List.range 51).find? ok with | some v => v | none => 50

/-- select(field) of R556: ceiling, setpoint and island frequencies; a warned field keeps its setpoint (R540). -/
def State.select (s : State) (f : FieldAddr) : State :=
  let i := f.inst
  if !s.fieldRuns f then s
  else
    let ceil := s.fieldCeil f
    let codes := (List.range 12).map (fun b => (s.islandCode f b, s.getF (F.FPW_ISL_AGE b) i))
    let old := s.getF F.FPW_VOLT_VCODE i
    let v := if (s.fieldSt f).warned then old
      else lowestSetpoint (fun v => codes.all (fun c => decide ((ceil : Int) ≤ s.islandMax f c.1 c.2 (550 + 5 * v))))
    let fm := codes.map (fun c => (max 0 (s.islandMax f c.1 c.2 (550 + 5 * v))).toNat)
    let changed := v != old || (List.range 12).any (fun b => s.getF (F.FPW_ISL_FCODE b) i != min ceil (fm.getD b 0))
    let s := ((s.setF F.FPW_STATE_FCEIL i ceil).setF F.FPW_STATE_STRETCH i (s.fieldStretch f)).setF F.FPW_VOLT_VCODE i v
    let s := (List.range 12).foldl (fun s b =>
      (s.setF (F.FPW_ISL_FMAX b) i (fm.getD b 0)).setF (F.FPW_ISL_FCODE b) i (min ceil (fm.getD b 0))) s
    if changed then s.count C.FPW_FREQ_CHANGES i 1 else s

/-- Every field of the module. -/
def allFields : List FieldAddr := (List.finRange 2).flatMap (fun p => (List.finRange 60).map (fun f => ⟨p, f⟩))

def State.selectAll (s : State) : State := allFields.foldl (fun s f => s.select f) s

/-! ### Recovery marks (R607, R614, R633) -/

/-- A field is retired, and its slot marked for rebinding (R607). -/
def State.retireBound (s : State) (f : FieldAddr) (cause code : Nat) (block : Option Nat) : State :=
  (s.retireField f cause code block s.runWm).markRebind f

/-- A field of the last pass no longer holds what REUSE needs (R293). -/
def State.noReuse (s : State) (f : FieldAddr) : State :=
  if s.getF F.PAS_RUN_IN_PASS f.inst == 1 then s.setAe f.plane { s.ae f.plane with reuse := false } else s

/-- An outcome of class HARDWARE that a field brings about: to the pass that it belongs to, or between passes to the open
step (R305, R544). -/
def State.fieldOutcome (s : State) (f : FieldAddr) (cause : Nat) : State :=
  let inPass := decide (1 ≤ s.passState f.plane ∧ s.passState f.plane ≤ 5) && s.getF F.PAS_RUN_IN_PASS f.inst == 1
  if inPass then s.reportCause f cause true 0 0 0
  else match s.slotOfField f with
    | some n => s.failStep true false 0 0 0 [0x102, cause, s.runWm.toNat, f.plane.val, n]
    | none => s

/-! ### Lost fields (R547, R584) -/

/-- The field's power stage is open: the field is lost until module reset. -/
def State.openStage (s : State) (f : FieldAddr) : State :=
  s.setField f { s.fieldSt f with lost := true, resetting := false, warned := false, hot := false, drain := none, markers := [], mops := [] }

/-- A field is lost, with a cause: 0 OVERCURRENT, 1 THERMAL, 2 NO_RECOVER, 3 LOCK. -/
def State.loseField (s : State) (f : FieldAddr) (cause : Nat) : State :=
  if (s.fieldSt f).lost then s
  else
    let first : W64 := BitVec.ofNat 64 (f.plane.val + f.field.val <<< 1 + cause <<< 7 + 1 <<< 31 + (s.fldWm f.plane).toNat <<< 32)
    let rec' := s.errRec 0x2003 3 true (s.fldWm f.plane) 0 (.field f) 0 0 [first, s.cycleOf f]
    let s := s.count C.PWR_FIELDS_LOST 0 1
    let s := if s.getF F.PWR_LOST_FIRST_VALID 0 == 0 then s.setErr .PWR 0 0 else s
    let s := s.captureFirst F.PWR_LOST_FIRST_VALID 0 (some 1) [(0x0E0, first), (0x0E8, s.cycleOf f)]
    let s := s.raise { rec' with railMv := 0 }
    let s := s.openStage f
    (s.fieldOutcome f 0x0E).retireBound f 4 0x2003 none

/-- OVERCURRENT_TRIP: a field power stage opens above 900 A. -/
def execOvercurrentTrip (f : FieldAddr) (s : State) : Host.Outcome State Fault Refusal :=
  .next (s.loseField f 0)

/-! ### Supply levels (R541 to R546, R548) -/

/-- The capture and record of a supply event: 0 WARN, 1 RESET. -/
def State.noteSupply (s : State) (f : FieldAddr) (kind pct : Nat) : State :=
  let first : W64 := BitVec.ofNat 64
    (f.plane.val + f.field.val <<< 1 + kind <<< 7 + (pct % 128) <<< 8 + 1 <<< 31 + (s.fldWm f.plane).toNat <<< 32)
  let cyc := s.cycleOf f
  let s := s.captureFirst F.PWR_SUP_FIRST_VALID 0 (some 4) [(0x0D0, first), (0x0D8, cyc)]
  let r := s.errRec 0x2002 (1 + kind) true (s.fldWm f.plane) 0 (.field f) 0 0 [first, cyc]
  if kind = 0 then s.raiseOnce f.inst r else s.raise r

/-- SUPPLY_WARN: a point below 92 %. `pct` is the lowest sensed rail in percent of the reference. -/
def execSupplyWarn (f : FieldAddr) (pct : Nat) (s : State) : Host.Outcome State Fault Refusal :=
  .next (
    let x := s.fieldSt f
    if x.lost || x.resetting || x.warned then s
    else
      let i := f.inst
      let s := s.setField f { x with warned := true }
      let s := if s.getC C.FPW_SUP_WARNS i == 0 then s.setIrq .FPW i 0 else s
      let s := s.count C.FPW_SUP_WARNS i 1
      let s := if s.fldWm f.plane = 0 then s
        else (s.setF F.FPW_SUSPECT_WAYMARK i (s.fldWm f.plane).toNat).raiseF F.FPW_SUSPECT_PENDING i
      (s.noteSupply f 0 pct).setF F.FPW_STATE_STRETCH i (s.fieldStretch f))

/-- SUPPLY_RECOVER: every point at or above 95 % for 10 µs. -/
def execSupplyRecover (f : FieldAddr) (s : State) : Host.Outcome State Fault Refusal :=
  .next (
    let x := s.fieldSt f
    if x.lost || x.resetting || !x.warned then s
    else
      let s := s.setField f { x with warned := false }
      (s.setF F.FPW_STATE_STRETCH f.inst (s.fieldStretch f)).select f)

/-- The RESET level: a field reset is asserted. `third`: it is the third within 60 s, and the field is retired and its power
stage opened by command (R546). -/
def State.assertReset (s : State) (f : FieldAddr) (pct : Nat) (third : Bool) : State :=
  let x := s.fieldSt f
  if x.lost || x.resetting then s
  else
    let s := (s.count C.PWR_FIELD_RESETS 0 1).noteSupply f 1 pct
    let s := s.setField f { s.fieldSt f with resetting := true, drain := none }
    let s := (s.noReuse f).fieldOutcome f 0x0F
    if third then (s.openStage f).retireBound f 5 0x2002 none else s

/-- FIELD_RESET: a point below 85 %. -/
def execFieldReset (f : FieldAddr) (pct : Nat) (third : Bool) (s : State) : Host.Outcome State Fault Refusal :=
  .next (s.assertReset f pct third)

/-- The RWS fields of a register's value; the rest at Reset. -/
def keepRws (p : Page) (off : Nat) (v : W64) : W64 :=
  match regSpec p.typ off with
  | none => v
  | some r => r.flds.foldl (fun m f => if f.acc == .rws then setBits m f.hi f.lo (wbits v f.hi f.lo) else m) (regReset p.typ p.inst off)

/-- A field's pages after a field reset: Reset values, RWS fields kept (R17). -/
def State.resetPages (s : State) (f : FieldAddr) : State :=
  let keys := (fieldPages f.inst).map (fun p => (regKey p 0 / 4096, p))
  let kept (k : Nat) (v : W64) : W64 :=
    match keys.find? (fun x => x.1 == k / 4096) with
    | none => v
    | some x => keepRws x.2 (k % 4096) v
  { s with regs := mapKeys regDefault (fun k => keys.any (fun x => x.1 == k / 4096)) kept s.regs }

/-- A field's own state after a field reset. The Array Engine's epoch, the tables that a placement or start-up wrote, the
defect data and the slot binding lie outside it. -/
def FieldSt.afterReset (x : FieldSt) (keepWiped : Bool) : FieldSt :=
  { FieldSt.reset with
      epoch := x.epoch, ept := x.ept, fence := x.fence, pendFence := x.pendFence, spared := x.spared, retired := x.retired, ownFenced := x.ownFenced
      iso := x.iso, isoPass := x.isoPass, wiped := keepWiped, lockFail := x.lockFail, stopped := x.stopped }

/-- The field's tiles at reset, under the epoch that the Array Engine holds for it. -/
def State.resetTiles (s : State) (f : FieldAddr) : State :=
  (fieldTiles f).foldl (fun s a => s.setTile a { Tile.reset with epoch := (s.fieldSt f).epoch }) s

/-- FIELD_RESET_RECOVERY: the rail is back at 95 %; the field's state is reset and the field is clocked again. -/
def execFieldResetRecovery (f : FieldAddr) (s : State) : Host.Outcome State Fault Refusal :=
  .next (
    let x := s.fieldSt f
    if x.lost || !x.resetting then s
    else
      let s := (s.resetTiles f).resetPages f
      let s := s.setField f (x.afterReset (s.slotOfField f).isSome)
      (s.setF F.PAS_RUN_EPOCH f.inst x.epoch.toNat).select f)

/-- NO_RECOVER: the rail has not come back within 1 ms. -/
def execNoRecover (f : FieldAddr) (s : State) : Host.Outcome State Fault Refusal :=
  .next (if (s.fieldSt f).resetting then s.loseField f 2 else s)

/-! ### Clocks (R549 to R552, R609) -/

/-- LOCK_LOSS: the generator of a domain, as a row of R549 from 1, loses lock and stops its clock; of TILE, a block island's. -/
def execLockLoss (domain : Fin 18) (f : FieldAddr) (block : Fin 12) (s : State) : Host.Outcome State Fault Refusal :=
  .next (
    if domain = 0 then s.setField f { s.fieldSt f with stopped := (s.fieldSt f).stopped ||| BitVec.ofNat 12 (2 ^ block.val) }
    else if s.stoppedClk.contains (domain.val + 1) then s
    else { s with stoppedClk := s.stoppedClk ++ [domain.val + 1] })

/-- CLOCK_RELOCK: the generator has relocked and its clock runs again. -/
def execClockRelock (domain : Fin 18) (f : FieldAddr) (block : Fin 12) (s : State) : Host.Outcome State Fault Refusal :=
  .next (
    if domain = 0 then
      let x := s.fieldSt f
      if !x.stopped.getLsbD block then s
      else s.setField f { x with stopped := x.stopped &&& ~~~BitVec.ofNat 12 (2 ^ block.val), lockFail := false }
    else { s with stoppedClk := s.stoppedClk.filter (· != domain.val + 1) })

/-- RELOCK_TIMEOUT: a TILE island counts as the RESET level of its field, and the second time the field is lost; a lane
generator fails its lane; the failure of any other domain is a module failure. `unit`, `lanes` and `lost` as in
LANE_FAILURE, `pct` and `third` as in FIELD_RESET. -/
def execRelockTimeout (domain : Fin 18) (f : FieldAddr) (block : Fin 12) (unit : Fin 80) (lanes : BitVec 8) (lost pct : Nat)
    (third : Bool) (s : State) : Host.Outcome State Fault Refusal :=
  .next (
    if domain = 0 then
      let x := s.fieldSt f
      if !x.stopped.getLsbD block || x.lost then s
      else if x.lockFail then s.loseField f 3
      else (s.setField f { x with lockFail := true }).assertReset f pct third
    else if !s.stoppedClk.contains (domain.val + 1) then s
    else if domain = 5 ∨ domain = 7 then
      let s := { s with stoppedClk := s.stoppedClk.filter (· != domain.val + 1) }
      if 64 ≤ unit.val then s.groupsOut (unit.val - 64) lanes.toNat lost
      else if !s.linkUp unit then s
      else s.laneFail unit lanes
    else
      (s.raise (s.errRec 0x2006 4 true s.runWm 0 .module 0 0 [BitVec.ofNat 64 (domain.val + 1)])).moduleDown 5)

/-- REF_FAILOVER: one oscillator fails, and the module runs on the other. -/
def execRefFailover (s : State) : Host.Outcome State Fault Refusal :=
  .next (
    if s.refLost then s
    else { s with refLost := true }.raise (s.errRec 0x2005 1 true s.runWm 0 .module 0 0 []))

/-! ### Ageing (R555) -/

/-- AGEING_READ: the slowdown of a block against its fused reference, in whole percent. -/
def execAgeingRead (f : FieldAddr) (block : Fin 12) (age : Nat) (s : State) : Host.Outcome State Fault Refusal :=
  .next (
    if (s.fieldSt f).lost || (s.fieldSt f).resetting then s
    else
      let age := min age 15
      let s := s.setF (F.FPW_ISL_AGE block) f.inst age
      if s.islandMax f (s.islandCode f block) age 800 < 0 then s.retireBound f 3 0x2403 (some block.val) else s.select f)

/-! ### Temperatures (R558 to R562) -/

/-- Every task of the field is IDLE or DRAINED, and no DRAINED one holds an open work unit that a save would lose where the
tasks are to be saved (R145, R561, R566). -/
def State.tasksAtRest (s : State) (f : FieldAddr) (saves : Bool) : Bool :=
  s.liveTiles.all (fun e => decide (e.1.fld ≠ f) || (List.range 4).all (fun k =>
    let c := e.2.task k
    c.state == .idle || (c.state == .drained && !(saves && e.2.openUnit &&& c.banks != 0))))

/-- The plane's pass keeps its fields out of layby and parking: ARMED to EXITING (R295, R560). -/
def State.passKeeps (s : State) (p : Fin 2) : Bool := decide (2 ≤ s.passState p ∧ s.passState p ≤ 5)

/-- A saved context as bytes (R144). -/
def TaskCtx.saved (c : TaskCtx) (epoch : BitVec 2) : List Byte :=
  (List.range 64).flatMap (fun n => leBytes 4 (c.reg n).toNat) ++
    (List.range 8).flatMap (fun n => leBytes 3 (c.ctr n).toNat ++ leBytes 3 (c.cfg n).limit.toNat) ++
    leBytes 1 c.p.toNat ++ leBytes 1 c.cdone.toNat ++ leBytes 6 0 ++ leBytes 8 (c.status epoch).toNat

/-- CONTEXT_SAVE: every LOADED or DRAINED task of a tile goes to SAVED, its context in the save area (R144, R145). -/
def State.saveTile (s : State) (a : TileAddr) : State :=
  (List.range 4).foldl (fun s k =>
    let t := s.tile a
    let c := t.task k
    if c.state == .loaded || c.state == .drained then
      let t := t.storeWords false (0x7B00 + 320 * k) (c.saved t.epoch)
      (s.setTile a (t.setTask k { c with state := .saved, before := c.state })).countBank a false 320
    else s) s

def State.saveField (s : State) (f : FieldAddr) : State := (s.liveOf f).foldl (fun s a => s.saveTile a) s

/-- A context read back from a save area: registers, counters, predicates, flags and fault, and the state before the save
(R144, R145). -/
def TaskCtx.restore (b : List Byte) : TaskCtx :=
  let st : W64 := BitVec.ofNat 64 (leAt b 312 8)
  let state := TaskState.ofCode (wbits st 2 0)
  { TaskCtx.reset with
      state := state, before := state
      g := (List.range 64).foldl (fun l n => put (fun _ => 0) l n (BitVec.ofNat 32 (leAt b (4 * n) 4))) []
      cval := (List.range 8).foldl (fun l n => put (fun _ => 0) l n (BitVec.ofNat 24 (leAt b (256 + 6 * n) 3))) []
      ccfg := (List.range 8).foldl (fun l n =>
        put (fun _ => CtrCfg.reset) l n { CtrCfg.reset with limit := BitVec.ofNat 24 (leAt b (259 + 6 * n) 3) }) []
      p := BitVec.ofNat 8 (leAt b 304 1), cdone := BitVec.ofNat 8 (leAt b 305 1)
      faultCode := BitVec.ofNat 8 (wbits st 12 5), faultSlot := BitVec.ofNat 7 (wbits st 19 13), flags := BitVec.ofNat 8 (wbits st 27 20)
      workUnits := BitVec.ofNat 32 (wbits st 63 32) }

/-- A tile whose arithmetic and sequencers power on again: parts at their reset values; the router's packets, the banks that
were kept and the tile epoch stay (R561, R567). -/
def Tile.powerUp (t : Tile) (router : Bool) : Tile :=
  { Tile.reset with
      epoch := t.epoch, failed := t.failed, near := t.near, deep := t.deep, ecc := t.ecc, wb := t.wb, scrubPos := t.scrubPos
      segs := t.segs, inbuf := t.inbuf, nbuf := t.nbuf, landing := t.landing, slots := t.slots, merged := t.merged, rr := t.rr
      rtab := if router then t.rtab else [] }

/-- The near bank at its cleared state. -/
def Tile.clearNear (t : Tile) : Tile :=
  { t with near := [], ecc := t.ecc.filter (fun e => decide (4096 ≤ e.1)), wb := t.wb.filter (fun w => w.1)
           gather := t.gather.filter (fun (e : GatherEnt) => e.deep) }

/-- Segments that layby or parking turns off: the ACTIVE ones, and every one where nothing is retained; the spill area keeps
nothing (R188, R199). -/
def Tile.segsOff (t : Tile) (all : Bool) : Tile :=
  let t := (List.range 8).foldl (fun t g =>
    let x := t.seg g
    if x.state == .active || (all && x.state == .retained) then
      (t.clearSeg g).setSeg g { state := .off, target := if x.state == .active then .active else .off, waiting := none, timedOut := false }
    else t) t
  { t with deep := t.deep.filter (fun c => decide (c.1 < 0x2F000)), ecc := t.ecc.filter (fun e => decide (e.1 < 4096 + 0x2F000 / 8)) }

/-- Segments that were ACTIVE come back through WAKING to ACTIVE, cleared (R188). -/
def Tile.segsBack (t : Tile) : Tile :=
  (List.range 8).foldl (fun t g =>
    let x := t.seg g
    if x.state == .off && x.target == .active then
      (t.clearSeg g).setSeg g { state := .active, target := .active, waiting := none, timedOut := false }
    else t) t

/-- CONTEXT_RESTORE of a tile: its save areas are read, each as one access, and its tasks return to their state before
the save. An uncorrectable word that a restore meets fails the tile (R145, R181, R184). -/
def State.restoreTile (s : State) (a : TileAddr) (saved : List Nat) : State :=
  saved.foldl (fun s k =>
    let off := 0x7B00 + 320 * k
    let r := s.readBytes a false ((List.range 320).map (fun i => off + i)) .restore k
    if r.2 = .uncorrectable then r.1.failTile a k
    else
      let t := r.1.tile a
      r.1.setTile a (t.setTask k (TaskCtx.restore (t.bytes false off 320)))) s

/-- The tasks of a tile that are SAVED. -/
def Tile.savedTasks (t : Tile) : List Nat := (List.range 4).filter (fun k => (t.task k).state == .saved)

/-- The field's tiles power up and their contexts are restored; then its frequency is chosen. -/
def State.wakeTiles (s : State) (f : FieldAddr) (router : Bool) : State :=
  let s := (fieldTiles f).foldl (fun s a =>
    let t := s.tile a
    if t = Tile.reset || s.tileFenced a then s
    else (s.setTile a (t.powerUp router).segsBack).restoreTile a t.savedTasks) s
  (s.setF F.FPW_STATE_POWER f.inst 0).select f

end Sys2Proof.Machine
end

