-- ==== Sys2Proof/Machine/Layby.lean ====
section
/-!
DEFINITION. Layby, parking and waking of fields, Volino ports and the bridge data links, and the fields that heat parks.
Spec: 12_power_clocks_thermal (R558 to R562, R566 to R569, R583, R587), 13 (R615), 14 (R648).
-/
namespace Sys2Proof.Machine

/-! ### FPW.CMD (R561, R562, R566 to R568, R587) -/

/-- A field command ends. -/
def State.fpwEnd (s : State) (f : FieldAddr) (result : Nat) : State :=
  ((s.setF F.FPW_CMD_BUSY f.inst 0).setF F.FPW_CMD_RESULT f.inst result).setIrq .FPW f.inst 2

/-- The field belongs to a pass in LOADING. -/
def State.loadingField (s : State) (f : FieldAddr) : Bool := s.passState f.plane == 1 && s.getF F.PAS_RUN_IN_PASS f.inst == 1

/-- Why a field may not enter layby or be parked now: a RESULT, 0 where it may. Nothing keeps a field that is not AWAKE out of
REFUSED_STATE. -/
def State.sleepCode (s : State) (f : FieldAddr) (saves : Bool) : Nat :=
  if s.getF F.FPW_STATE_POWER f.inst != 0 || !s.quiet f || !s.tasksAtRest f saves then 1
  else if s.passKeeps f.plane || s.loadingField f then 2
  else 0

/-- The contexts of a field are saved and its gather entries flushed; a restart of its pass is no longer possible. -/
def State.bedField (s : State) (f : FieldAddr) (saves : Bool) : State :=
  let s := (s.liveOf f).foldl (fun s a => if (s.tile a).gather.isEmpty then s else s.flushAll a) s
  (if saves then s.saveField f else s).noReuse f

/-- A field command starts: 0 LAYBY, 1 WAKE, 2 PARK, 3 PARK_RETAIN, 4 UNPARK. -/
def State.fpwStart (s : State) (f : FieldAddr) (op : Nat) : State :=
  let i := f.inst
  let power := s.getF F.FPW_STATE_POWER i
  let s := s.setF F.FPW_CMD_OP i op
  match op with
  | 0 =>
    let c := s.sleepCode f true
    if c != 0 then s.fpwEnd f c
    else ((s.setF F.FPW_CMD_BUSY i 1).setF F.FPW_STATE_POWER i 1).bedField f true
  | 1 =>
    if power == 0 || power == 3 then s.fpwEnd f 0
    else if power == 2 then s.startWake f
    else s.fpwEnd f 1
  | 2 | 3 =>
    let c := s.sleepCode f (op == 3)
    if c != 0 then s.fpwEnd f c
    else (s.setF F.FPW_CMD_BUSY i 1).bedField f (op == 3)
  | _ => if power == 4 || power == 5 then s.setF F.FPW_CMD_BUSY i 1 else s.fpwEnd f 1

/-- A write of FPW.CMD. -/
def State.fpwWrite (s : State) (f : FieldAddr) (fw : Bool) (value : W64) : State :=
  s.regWrite fw ⟨.FPW, f.inst⟩ 0x080 true value false (s.getF F.FPW_CMD_BUSY f.inst == 1)
    (fun s => if wbits value 3 3 == 1 then s.fpwStart f (wbits value 2 0) else s)

/-- The write carries GO and the operation. -/
def fpwIs (value : W64) (op : Nat) : Bool := wbits value 3 3 == 1 && wbits value 2 0 == op

def execLayby (f : FieldAddr) (fw : Bool) (value : W64) (s : State) : Host.Outcome State Fault Refusal :=
  .next (if fpwIs value 0 then s.fpwWrite f fw value else s)

def execWake (f : FieldAddr) (fw : Bool) (value : W64) (s : State) : Host.Outcome State Fault Refusal :=
  .next (if fpwIs value 1 then s.fpwWrite f fw value else s)

def execPark (f : FieldAddr) (fw : Bool) (value : W64) (s : State) : Host.Outcome State Fault Refusal :=
  .next (if fpwIs value 2 then s.fpwWrite f fw value else s)

def execParkRetain (f : FieldAddr) (fw : Bool) (value : W64) (s : State) : Host.Outcome State Fault Refusal :=
  .next (if fpwIs value 3 then s.fpwWrite f fw value else s)

def execUnpark (f : FieldAddr) (fw : Bool) (value : W64) (s : State) : Host.Outcome State Fault Refusal :=
  .next (if fpwIs value 4 then s.fpwWrite f fw value else s)

/-- Islands of a field at rest: FCODE 0. -/
def State.islandsIdle (s : State) (f : FieldAddr) : State :=
  (List.range 12).foldl (fun s b => s.setF (F.FPW_ISL_FCODE b) f.inst 0) s

/-- No segment of the field is in a transition. -/
def State.segsSettled (s : State) (f : FieldAddr) : Bool := !(s.liveOf f).any (fun a => (s.tile a).segBusy 0xFF)

/-- A command in progress, of an operation. -/
def State.fpwBusy (s : State) (f : FieldAddr) (op : Nat) : Bool :=
  s.getF F.FPW_CMD_BUSY f.inst == 1 && s.getF F.FPW_CMD_OP f.inst == op && !(s.fieldSt f).lost && !(s.fieldSt f).resetting

/-- LAYBY_DONE: the islands have stopped, ACTIVE segments are OFF, the rail is at retention. -/
def execLaybyDone (f : FieldAddr) (s : State) : Host.Outcome State Fault Refusal :=
  .next (
    if s.getF F.FPW_STATE_POWER f.inst != 1 || !s.fpwBusy f 0 || !s.segsSettled f then s
    else
      let s := (fieldTiles f).foldl (fun s a => s.setTile a ((s.tile a).segsOff false)) s
      let s := (s.islandsIdle f).setF F.FPW_STATE_POWER f.inst 2
      let s := (s.count C.FPW_LAYBYS f.inst 1).fpwEnd f 0
      if (s.fieldSt f).slept && s.getF F.SYS_PINS_ENABLE 0 == 1 then s.startWake f else s)

/-- PARK_DONE: the arithmetic and the deep banks are unpowered, and the rail is at PARK_V. Without retention the near bank
and every tile part are lost. -/
def execParkDone (f : FieldAddr) (s : State) : Host.Outcome State Fault Refusal :=
  .next (
    let keep := s.fpwBusy f 3
    if s.getF F.FPW_STATE_POWER f.inst != 0 || !(keep || s.fpwBusy f 2) || !s.segsSettled f then s
    else
      let s := (fieldTiles f).foldl (fun s a =>
        let t := (s.tile a).segsOff (!keep)
        s.setTile a (if keep then t else (t.clearNear).powerUp false)) s
      let s := ((s.islandsIdle f).setF F.FPW_STATE_POWER f.inst (if keep then 5 else 4)).setF F.FPW_VOLT_VCODE f.inst
        (s.getF F.FPW_VOLT_PARK_V f.inst)
      let s := s.setField f { s.fieldSt f with hot := false }
      (s.count C.FPW_PARKS f.inst 1).fpwEnd f 0)

/-- RC_ENABLE has returned, and every field that it put to sleep is awake again: READY (R648). -/
def State.readyAgain (s : State) : State :=
  if s.getF F.SYS_STATE_STATE 0 != 2 || s.sleeping || s.getF F.SYS_PINS_ENABLE 0 == 0 || allFields.any (fun f => (s.fieldSt f).slept) ||
      !s.sleptPorts.isEmpty || s.sleptBridge then s
  else (s.setF F.SYS_STATE_STATE 0 1).setIrq .SYS 0 0

/-- A field is awake: its command ends DONE. -/
def State.awake (s : State) (f : FieldAddr) (router : Bool) : State :=
  let s := (s.wakeTiles f router).fpwEnd f 0
  (s.setField f { s.fieldSt f with slept := false }).readyAgain

/-- WAKE_DONE: 200 µs after the wake, the field is AWAKE with its contexts restored. -/
def execWakeDone (f : FieldAddr) (s : State) : Host.Outcome State Fault Refusal :=
  .next (
    if s.getF F.FPW_STATE_POWER f.inst != 3 || (s.fieldSt f).lost || (s.fieldSt f).resetting then s else s.awake f false)

/-- UNPARK_DONE: 200 µs after UNPARK, the field is AWAKE; without retention every task is IDLE. -/
def execUnparkDone (f : FieldAddr) (s : State) : Host.Outcome State Fault Refusal :=
  .next (
    let power := s.getF F.FPW_STATE_POWER f.inst
    if (power != 4 && power != 5) || !s.fpwBusy f 4 then s else s.awake f false)

/-! ### Heat (R558 to R560) -/

/-- A spare field of a plane: healthy, bound to no slot (R29). -/
def State.isSpare (s : State) (f : FieldAddr) : Bool :=
  !(s.fieldSt f).lost && (s.fieldSt f).retired == 0 && (s.slotOfField f).isNone

/-- The lowest-indexed spare field, other than `not`; a parked field is spare once it is unparked (R560, R612). -/
def State.spareField (s : State) (p : Fin 2) (not : FieldAddr) : Option FieldAddr :=
  ((List.finRange 60).map (fun f => (⟨p, f⟩ : FieldAddr))).find? (fun f =>
    s.isSpare f && decide (f ≠ not) && !(s.fieldSt f).hot && !(s.fieldSt f).resetting && decide (s.getF F.FPW_STATE_POWER f.inst < 4))

/-- A hot field is parked once nothing keeps it: an unbound one without retention; a bound one with retention where no spare
field exists, and otherwise only after its slot has been rebound, which REBIND does (R560). It is held and drained first. -/
def State.parkHot (s : State) (f : FieldAddr) : State :=
  if !(s.fieldSt f).hot || s.getF F.FPW_STATE_POWER f.inst != 0 || s.getF F.FPW_CMD_BUSY f.inst == 1 || s.passKeeps f.plane ||
      (s.fieldSt f).lost || (s.fieldSt f).resetting then s
  else
    let bound := (s.slotOfField f).isSome
    if bound && (s.spareField f.plane f).isSome then (s.stopDrain f).markRebind f
    else if s.sleepCode f bound == 0 then s.fpwStart f (if bound then 3 else 2)
    else if s.quiet f then s
    else s.stopDrain f

/-- PARK_AFTER_PASS: the pass of a plane has ended, and its hot fields are parked (R560). -/
def State.parkAfterPass (s : State) (p : Fin 2) : State :=
  (List.finRange 60).foldl (fun s f => s.parkHot ⟨p, f⟩) s

/-- TEMPERATURE_SAMPLE: the 12 block temperatures of a field in °C. -/
def execTemperatureSample (f : FieldAddr) (temps : List Nat) (s : State) : Host.Outcome State Fault Refusal :=
  .next (
    if (s.fieldSt f).lost || (s.fieldSt f).resetting then s
    else
      let i := f.inst
      let t := (List.range 12).foldl (fun m b => max m (temps.getD b 0 % 256)) 0
      let s := (List.range 12).foldl (fun s b => s.setF (F.FPW_ISL_TEMP b) i (temps.getD b 0 % 256)) s
      let s := s.setF F.FPW_STATE_TEMP i t
      if s.getF F.PWR_THERM_TRIP 0 ≤ t then s.loseField f 1
      else if s.getF F.PWR_THERM_PARK 0 ≤ t then
        if s.getF F.FPW_STATE_POWER i != 0 then s
        else ((s.setField f { s.fieldSt f with hot := true }).select f).parkHot f
      else if (s.fieldSt f).hot then (s.setField f { s.fieldSt f with hot := false }).select f
      else s)

/-- THERMAL_THROTTLE_STEP: 100 µs more at or above THROTTLE, and the thermal ceiling falls a step. -/
def execThermalThrottleStep (f : FieldAddr) (s : State) : Host.Outcome State Fault Refusal :=
  .next (
    let i := f.inst
    let c := s.getF F.FPW_STATE_TCEIL i
    if !s.fieldRuns f || s.getF F.FPW_STATE_TEMP i < s.getF F.PWR_THERM_THROTTLE 0 || c == 0 then s
    else
      let s := (s.setF F.FPW_STATE_TCEIL i (c - 1)).count C.FPW_THERM_STEPS i 1
      let ft := s.getF F.FPW_FTARGET_FCODE i
      let s := if c - 1 < ft && ft ≤ c then s.setIrq .FPW i 1 else s
      s.select f)

/-- THERMAL_RELEASE_STEP: cool for 1 ms, the thermal ceiling rises a step, up to 22. -/
def execThermalReleaseStep (f : FieldAddr) (s : State) : Host.Outcome State Fault Refusal :=
  .next (
    let i := f.inst
    let c := s.getF F.FPW_STATE_TCEIL i
    if !s.fieldRuns f || s.getF F.PWR_THERM_THROTTLE 0 ≤ s.getF F.FPW_STATE_TEMP i + 3 || 22 ≤ c then s
    else (s.setF F.FPW_STATE_TCEIL i (c + 1)).select f)

/-- THERMAL_UNPARK: a parked field whose blocks have all been below PARK - 10 °C for 1 s is unparked. -/
def execThermalUnpark (f : FieldAddr) (s : State) : Host.Outcome State Fault Refusal :=
  .next (
    let power := s.getF F.FPW_STATE_POWER f.inst
    if (power != 4 && power != 5) || s.getF F.FPW_CMD_BUSY f.inst == 1 || (s.fieldSt f).lost || (s.fieldSt f).resetting ||
        s.getF F.PWR_THERM_PARK 0 ≤ s.getF F.FPW_STATE_TEMP f.inst + 10 then s
    else s.fpwStart f 4)

/-! ### Ports and the bridge (R566, R569, R583) -/

/-- A PWR.LAYBY_CMD command ends. -/
def State.laybyEnd (s : State) (result : Nat) : State :=
  ((s.setF F.PWR_LAYBY_CMD_BUSY 0 0).setF F.PWR_LAYBY_CMD_RESULT 0 result).setIrq .PWR 0 5

/-- A frame, a request or an exchange frame is outstanding on a port. -/
def State.portBusy (s : State) (l : Nat) : Bool :=
  let p : Nat := l / 32
  let x := s.vlink l
  !x.buf.isEmpty || !x.txq.isEmpty ||
    s.ctxs.any (fun e => e.1 / 2 ^ 20 == p && e.2.reqs.any (fun (r : StreamReq) => r.server && r.port == l % 32)) ||
    s.exchs.any (fun (x : Exch) => x.plane.val == p && x.out.any (fun (y : ExFrame) => y.port == some (l % 32)))

def State.portInLayby (s : State) (l : Nat) : Bool := (s.reg ⟨.PWR, 0⟩ 0x0C0).getLsbD l

def State.setPortLayby (s : State) (l : Nat) (v : Bool) : State :=
  s.setReg ⟨.PWR, 0⟩ 0x0C0 (setBits (s.reg ⟨.PWR, 0⟩ 0x0C0) l l (boolNat v))

/-- A port in service with nothing outstanding goes into layby, which VPT.STATE shows as DOWN. -/
def State.portSleep (s : State) (l : Nat) : State :=
  ((s.setF F.VPT_STATE_STATE l 0).setVlink l VLink.reset).setPortLayby l true

/-- A SPAN pass of a plane is in a state from LOADING to EXITING. -/
def State.spanRuns (s : State) : Bool :=
  (List.finRange 2).any (fun p => (s.ae p).span && decide (1 ≤ s.passState p ∧ s.passState p ≤ 5))

def State.bridgeSleep (s : State) : State :=
  { (s.setF F.PWR_BRIDGE_STATE 0 1).setF F.BRG_LINKS_GROUPS 0 0 with bridgeTrain := [] }

/-- A command on a port or on the bridge starts, and ends at once but for a wake. -/
def State.laybyStart (s : State) (wake bridge : Bool) (port : Nat) : State :=
  if bridge then
    let st := s.getF F.PWR_BRIDGE_STATE 0
    if wake then (if st == 1 then (s.setF F.PWR_LAYBY_CMD_BUSY 0 1).setF F.PWR_BRIDGE_STATE 0 2 else s.laybyEnd 0)
    else if s.spanRuns then s.laybyEnd 2
    else if st == 0 then (s.bridgeSleep).laybyEnd 0
    else s.laybyEnd 0
  else if wake then
    (if s.portInLayby port then s.setF F.PWR_LAYBY_CMD_BUSY 0 1 else s.laybyEnd 0)
  else if s.portInLayby port then s.laybyEnd 0
  else if !s.linkUp port || s.portBusy port then s.laybyEnd 1
  else (s.portSleep port).laybyEnd 0

/-- A write of PWR.LAYBY_CMD; PORT is 0 for the bridge. -/
def State.laybyWrite (s : State) (fw : Bool) (value : W64) : State :=
  s.regWrite fw ⟨.PWR, 0⟩ 0x0B8 true value (wbits value 1 1 == 1 && wbits value 7 2 != 0) (s.getF F.PWR_LAYBY_CMD_BUSY 0 == 1)
    (fun s => if wbits value 8 8 == 1 then s.laybyStart (wbits value 0 0 == 1) (wbits value 1 1 == 1) (wbits value 7 2) else s)

/-- The write carries GO, the operation and the target. -/
def laybyIs (value : W64) (op target : Nat) : Bool := wbits value 8 8 == 1 && wbits value 0 0 == op && wbits value 1 1 == target

def execPortLayby (fw : Bool) (value : W64) (s : State) : Host.Outcome State Fault Refusal :=
  .next (if laybyIs value 0 0 then s.laybyWrite fw value else s)

def execPortWake (fw : Bool) (value : W64) (s : State) : Host.Outcome State Fault Refusal :=
  .next (if laybyIs value 1 0 then s.laybyWrite fw value else s)

def execBridgeLayby (fw : Bool) (value : W64) (s : State) : Host.Outcome State Fault Refusal :=
  .next (if laybyIs value 0 1 then s.laybyWrite fw value else s)

def execBridgeWake (fw : Bool) (value : W64) (s : State) : Host.Outcome State Fault Refusal :=
  .next (if laybyIs value 1 1 then s.laybyWrite fw value else s)

/-- The wake that PWR.LAYBY_CMD ordered is over, where one is in progress. -/
def State.laybyWoken (s : State) (bridge : Bool) (port : Nat) : State :=
  if s.getF F.PWR_LAYBY_CMD_BUSY 0 == 1 && (s.getF F.PWR_LAYBY_CMD_TARGET 0 == 1) == bridge &&
      (bridge || s.getF F.PWR_LAYBY_CMD_PORT 0 == port) then s.laybyEnd 0 else s

/-- PORT_WAKE_DONE: 200 µs after its wake a port's lanes are ready, and it trains. -/
def execPortWakeDone (l : Fin 64) (s : State) : Host.Outcome State Fault Refusal :=
  .next (
    if !s.portInLayby l then s
    else
      let s := ((s.setPortLayby l false).setF F.VPT_STATE_STATE l 1).laybyWoken false l
      { s with sleptPorts := s.sleptPorts.filter (· != l.val) }.readyAgain)

/-- BRIDGE_WAKE_DONE: 200 µs after their wake the data links are ready, and train. -/
def execBridgeWakeDone (s : State) : Host.Outcome State Fault Refusal :=
  .next (
    if s.getF F.PWR_BRIDGE_STATE 0 != 2 then s
    else
      let s := { s.setF F.PWR_BRIDGE_STATE 0 0 with bridgeTrain := List.range 16, sleptBridge := false }
      (s.laybyWoken true 0).readyAgain)

/-! ### Everything to sleep (R565, R648) -/

/-- One move of the way into layby, for each unit that is ready for it: fields are held under an ABORT drain and then enter
layby; ports and the bridge follow once nothing is outstanding. Nothing moves while a step is open. -/
def State.sleepMoves (s : State) : State :=
  if !s.sleeping || s.step.isSome then s
  else
    let off := s.getF F.SYS_PINS_ENABLE 0 == 0
    let s := (List.finRange 2).foldl (fun s p => if s.passLive p && !s.causeWaits p then s.planeCause p 0x12 false else s) s
    let s := allFields.foldl (fun s f =>
      if !s.fieldRuns f || s.getF F.FPW_CMD_BUSY f.inst == 1 || s.passLive f.plane || s.passState f.plane == 7 then s
      else if s.sleepCode f true == 0 then
        (s.setField f { s.fieldSt f with slept := off }).fpwStart f 0
      else if (s.fieldSt f).drain.isSome || s.quiet f then s
      else s.drainStart f 1) s
    let s := (List.range 64).foldl (fun s l =>
      if s.linkUp l && !s.portBusy l then
        let s := s.portSleep l
        if off then { s with sleptPorts := s.sleptPorts ++ [l] } else s
      else s) s
    let s := if s.getF F.PWR_BRIDGE_STATE 0 == 0 && !s.spanRuns then { s.bridgeSleep with sleptBridge := off } else s
    let down := allFields.all (fun f => !s.fieldRuns f && s.getF F.FPW_CMD_BUSY f.inst == 0) && (List.range 64).all (fun l => !s.linkUp l) &&
      s.getF F.PWR_BRIDGE_STATE 0 == 1
    if !down then s
    else
      let s := { s with sleeping := false }
      if off && s.getF F.SYS_STATE_STATE 0 == 1 then s.setF F.SYS_STATE_STATE 0 2 else s.readyAgain

end Sys2Proof.Machine
end

