-- ==== Sys2Proof/Machine/Supply.lean ====
section
/-!
DEFINITION. The module's inputs, its coolant and its input power cap: conversion banks, coolant states, the cap controller
and the limiter. Spec: 12_power_clocks_thermal (R536 to R539, R564, R565, R571 to R576, R582, R586, R591).
-/
namespace Sys2Proof.Machine

/-! ### Conversion banks (R537) -/

/-- STATE of a bank's input: bank 0 is A. -/
def State.setBank (s : State) (bank : Fin 2) (v : Nat) : State :=
  s.setF (if bank = 0 then F.PWR_IN_A_STATE else F.PWR_IN_B_STATE) 0 v

/-- A bank is in service. -/
def State.bankIn (s : State) (bank : Fin 2) : Bool := s.bankOn.testBit bank

/-- A bank changes state: counted, an interrupt and a record. -/
def State.bankChange (s : State) (bank : Fin 2) (up : Bool) : State :=
  let s := { s with bankOn := s.bankOn ^^^ 2 ^ bank.val }
  let s := s.setBank bank (if up then 0 else 1)
  let s := (s.count C.PWR_BANK_DROPS 0 1).setIrq .PWR 0 0
  s.raise (s.errRec 0x2001 1 true s.runWm 0 .module 0 0 [s.reg ⟨.PWR, 0⟩ 0x080, s.reg ⟨.PWR, 0⟩ 0x088])

/-- The input of a bank changes while the module has no power: only the input itself is known. -/
def State.bankFlip (s : State) (bank : Fin 2) : State := { s with bankOn := s.bankOn ^^^ 2 ^ bank.val }

/-- BANK_OFFLINE: a bank in service whose input is out of range leaves it. -/
def execBankOffline (bank : Fin 2) (s : State) : Host.Outcome State Fault Refusal :=
  .next (if !s.bankIn bank then s else if s.dark != 0 then s.bankFlip bank else s.bankChange bank false)

/-- BANK_RETURN: a bank that is out of service returns to it. -/
def execBankReturn (bank : Fin 2) (s : State) : Host.Outcome State Fault Refusal :=
  .next (if s.bankIn bank then s else if s.dark != 0 then s.bankFlip bank else s.bankChange bank true)

/-! ### The cap (R571) -/

/-- The effective cap: the lowest of the rack's, the host's and the coolant's. -/
def State.recap (s : State) : State :=
  s.setF F.PWR_CAP_EFFECTIVE 0 (min s.coolCap (min (s.getF F.PWR_CAP_RACK_CAP 0) (s.getF F.PWR_CAP_HOST_CAP 0)))

/-- The result of a write to PWR.CAP: the host's must carry the RACK_CAP held, and service firmware writes neither cap. -/
def State.capCode (s : State) (fw : Bool) (value : W64) : Nat :=
  let code := s.writeCode fw ⟨.PWR, 0⟩ 0x098 true value false false
  if 1 ≤ code ∧ code ≤ 3 then code
  else if fw || wbits value 15 0 != s.getF F.PWR_CAP_RACK_CAP 0 then 4
  else code

/-- PWR_CAP_WRITE: a register write of PWR.CAP. -/
def execPwrCapWrite (fw : Bool) (value : W64) (s : State) : Host.Outcome State Fault Refusal :=
  .next (
    let code := s.capCode fw value
    if code != 0 then s.writeResult fw ⟨.PWR, 0⟩ 0x098 value code
    else ((s.setF F.PWR_CAP_HOST_CAP 0 (wbits value 31 16)).recap).writeResult fw ⟨.PWR, 0⟩ 0x098 value 0)

/-! ### Coolant (R564, R565) -/

/-- The state that a coolant measurement gives: the first condition that holds. Temperatures in 0.1 °C, flow in 0.1 L/min;
`low` is the number of samples in a row, this one included, with flow below 45 L/min, of which 5 s hold 50. -/
def coolState (inlet flow low : Nat) (leak : Bool) : Nat :=
  if leak ∨ 450 < inlet ∨ 50 ≤ low then 3
  else if 400 < inlet ∨ flow < 600 then 2
  else if inlet < 170 then 1
  else 0

/-- The coolant cap of DERATE in W. -/
def derateCap (inlet flow : Nat) : Nat :=
  (min (38000 - 200 * ((inlet : Int) - 400)) (38000 * flow / 600 : Nat)).toNat

/-- FAULT is entered: the open step ends ERROR of class HARDWARE without a re-run, everything goes into layby, and no step
begins for 60 s. -/
def State.coolFault (s : State) : State :=
  let s := (s.setErr .PWR 0 1).failStep true true 0 0 0 [0x103]
  { s with sleeping := true, coolWait := 600 }

/-- COOLANT_SAMPLE: the 100 ms measurement. -/
def execCoolantSample (inlet outlet flow : Nat) (leak : Bool) (s : State) : Host.Outcome State Fault Refusal :=
  .next (
    if s.dark != 0 then s
    else
      let inlet := inlet % 1024
      let flow := flow % 4096
      let low := if flow < 450 then min 50 (s.coolLow + 1) else 0
      let old := s.getF F.PWR_COOL_STATE 0
      let st := coolState inlet flow low leak
      let s := s.setReg ⟨.PWR, 0⟩ 0x0B0 (BitVec.ofNat 64
        (inlet + (outlet % 1024) <<< 10 + flow <<< 20 + boolNat leak <<< 32 + st <<< 33))
      let s := { s with coolLow := low
                        coolCap := if st = 2 then derateCap inlet flow else if st = 3 then s.coolCap else 38000
                        coolWait := if s.coolWait = 0 then 0 else if st ≤ 1 then s.coolWait - 1 else 600 }.recap
      if st == old then s
      else
        let s := (s.count C.PWR_COOL_EVENTS 0 1).setIrq .PWR 0 2
        let s := s.raise (s.errRec 0x2004 2 true s.runWm 0 .module 0 0 [s.reg ⟨.PWR, 0⟩ 0x0B0])
        if st = 3 then s.coolFault else s)

/-! ### The cap controller and the limiter (R572, R573, R575) -/

/-- One lowering of the module ceiling: FCODE and stretch (0 none, 1 HALF, 2 QUARTER). -/
def lowerCeil (c : Nat × Nat) : Nat × Nat :=
  if 0 < c.1 then (c.1 - 1, c.2) else if c.2 < 2 then (c.1, c.2 + 1) else c

/-- One raising. -/
def raiseCeil (c : Nat × Nat) : Nat × Nat :=
  if 0 < c.2 then (c.1, c.2 - 1) else if c.1 < 22 then (c.1 + 1, c.2) else c

/-- n lowerings, and how many of them changed the ceiling. -/
def lowerCeils : Nat → Nat × Nat → (Nat × Nat) × Nat
  | 0, c => (c, 0)
  | n + 1, c =>
    let r := lowerCeils n (lowerCeil c)
    (r.1, r.2 + boolNat (lowerCeil c != c))

def State.ceil (s : State) : Nat × Nat := (s.getF F.PWR_CEIL_FCODE 0, s.getF F.PWR_CEIL_STRETCH 0)

def State.setCeil (s : State) (c : Nat × Nat) : State := (s.setF F.PWR_CEIL_FCODE 0 c.1).setF F.PWR_CEIL_STRETCH 0 c.2

/-- The adjustment of the module ceiling after input sample p. -/
def State.capSample (s : State) (p : Nat) : State :=
  let cap := s.getF F.PWR_CAP_EFFECTIVE 0
  if cap < p then
    let r := lowerCeils (max 1 ((p - cap + 599) / 600)) s.ceil
    { (s.setCeil r.1).count C.PWR_CAP_LOWERS 0 r.2 with capBelow := 0 }
  else if p + 1500 ≤ cap then
    if s.capBelow + 1 == 10 then { s.setCeil (raiseCeil s.ceil) with capBelow := 0 } else { s with capBelow := s.capBelow + 1 }
  else { s with capBelow := 0 }

/-- The limiter releases after two samples at or below the cap; `p` is input power without the limiter's stretch. -/
def State.limiterSample (s : State) (p : Nat) : State :=
  if s.getF F.PWR_CEIL_LIMITER 0 == 0 then s
  else if s.getF F.PWR_CAP_EFFECTIVE 0 < p then { s with limQuiet := 0 }
  else if s.limQuiet == 1 then { s.setF F.PWR_CEIL_LIMITER 0 0 with limQuiet := 0 }
  else { s with limQuiet := s.limQuiet + 1 }

/-- The rail sample of a field: its setpoint, and 100 µs of its power in W as µJ. -/
def State.railSample (s : State) (f : FieldAddr) (w : Nat) : State :=
  if (s.fieldSt f).lost || (s.fieldSt f).resetting then s
  else ((s.count C.FEN_V_SUM f.inst (s.railMv f)).count C.FEN_V_SAMPLES f.inst 1).count C.FEN_RAIL_UJ f.inst (100 * w)

/-- POWER_SAMPLE: a 10 kHz sample. `watts` is the power of both inputs; volts and currents in V and 0.01 A; `rails` the power of
each field rail in W, fields of plane 0 first; `unlimited` is `watts` with the limiter's stretch removed from the calculation. -/
def execPowerSample (watts va ia vb ib : Nat) (rails : List Nat) (unlimited : Nat) (s : State) : Host.Outcome State Fault Refusal :=
  .next (
    if s.dark != 0 then s
    else
      let s := ((s.setF F.PWR_IN_A_VOLTS 0 va).setF F.PWR_IN_A_CURRENT 0 ia).setF F.PWR_IN_B_VOLTS 0 vb
      let s := s.setF F.PWR_IN_B_CURRENT 0 ib
      let s := (List.finRange 2).foldl (fun s b => if s.bankIn b then s.setBank b 0 else s) s
      let s := (s.setF F.PWR_IN_P_WATTS 0 watts).setF F.PWR_IN_P_SAMPLE 0 (s.getF F.PWR_IN_P_SAMPLE 0 + 1)
      let s := allFields.foldl (fun s f => s.railSample f (rails.getD f.idx 0)) s
      let t := (s.capSample watts).limiterSample unlimited
      if t.reg ⟨.PWR, 0⟩ 0x0A0 == s.reg ⟨.PWR, 0⟩ 0x0A0 then t else t.selectAll)

/-- LIMITER_ENGAGE: input power above 39,500 W. -/
def execLimiterEngage (s : State) : Host.Outcome State Fault Refusal :=
  .next (
    if s.dark != 0 || s.getF F.PWR_CEIL_LIMITER 0 == 1 then s
    else
      let s := { s.setF F.PWR_CEIL_LIMITER 0 1 with limQuiet := 0 }
      ((s.count C.PWR_LIMITER_EVENTS 0 1).setIrq .PWR 0 3).selectAll)

end Sys2Proof.Machine
end

