-- ==== Sys2Proof/Machine/ErrLog.lean ====
section
/-!
DEFINITION. The error log and the defect map: records numbered, written to the ring or held, the management controller's log,
and the map image with its digest and copy. Spec: 13_faults_and_recovery (R594 to R605, R632 to R634), 14 (R670).
-/
namespace Sys2Proof.Machine

/-! ### Records as bytes (R595) -/

/-- The 128 bytes of a record, with PHASE 0. -/
def ErrRec.bytes (r : ErrRec) (seq : Nat) (lost : Bool) : List Byte :=
  leBytes 4 seq ++ leBytes 2 r.code ++
    leBytes 1 (r.sev + 8 * boolNat r.hardware + 16 * boolNat r.suspect + 32 * boolNat lost) ++ leBytes 1 (r.attempt % 16) ++
    leBytes 4 r.waymark.toNat ++ leBytes 2 r.inst ++ leBytes 1 r.plane ++ leBytes 1 r.field ++ leBytes 1 r.slot ++ leBytes 1 r.unit ++
    leBytes 1 r.lrow ++ leBytes 1 r.lcol ++ leBytes 1 r.pcol ++ leBytes 1 r.temp ++ leBytes 2 r.railMv ++ leBytes 8 r.cycle.toNat ++
    leBytes 2 (r.opCode % 256 + (r.opKind % 16) <<< 8) ++ List.replicate 30 0 ++
    bytesAt (r.detail.flatMap (fun w => leBytes 8 w.toNat)) 0 64

/-- A record with the PHASE of the pass through the ring that it is written in. -/
def withPhase (b : List Byte) (phase : Nat) : List Byte := b.set 6 (b.getD 6 0 ||| BitVec.ofNat 8 (128 * phase))

/-! ### The management controller's log (R600, R670) -/

/-- A record of severity ERROR or above goes to every push subscription, as code 1 of `mgmtOut`, and once the host link is up as
a PLDM platform event message, as code 2 (R667, R669). -/
def State.pushEvent (s : State) (b : List Byte) : State :=
  if natBits 2 0 (b.getD 6 0).toNat < 2 then s
  else
    { s with mgmtOut := s.mgmtOut ++ s.subs.map (fun _ => (1, b)) ++
      (if s.getF F.HIF_LINK_WIDTH 0 == 0 then [] else [(2, b)]) }

/-- A record kept by the management controller; the oldest is replaced when the log is full. -/
def State.mgmtKeep (s : State) (b : List Byte) : State :=
  { s with mlog := (if 65536 ≤ s.mlog.length then s.mlog.drop 1 else s.mlog) ++ [b] }.pushEvent b

/-! ### The ring (R599, R600) -/

def State.logSize (s : State) : Nat := 2 ^ s.getF F.FLT_LOG_CFG_LOG2_SIZE 0

/-- The log is enabled and its ring not full. -/
def State.logRoom (s : State) : Bool :=
  s.getF F.FLT_LOG_CFG_ENABLE 0 == 1 && (s.getF F.FLT_LOG_PTR_TAIL 0 + 1) % s.logSize != s.getF F.FLT_LOG_PTR_HEAD 0

/-- A record written at TAIL. -/
def State.logPut (s : State) (b : List Byte) : State :=
  let tail := s.getF F.FLT_LOG_PTR_TAIL 0
  let phase := s.getF F.FLT_LOG_CFG_PHASE 0
  let s := s.writeLoc (s.getF F.FLT_LOG_CFG_LOC 0) (s.getF F.FLT_LOG_BASE_V 0 + 128 * tail) (withPhase b phase)
  let next := (tail + 1) % s.logSize
  let s := s.setF F.FLT_LOG_PTR_TAIL 0 next
  let s := if next == 0 then s.setF F.FLT_LOG_CFG_PHASE 0 (1 - phase) else s
  if s.getF F.FLT_LOG_CFG_TO_HOST 0 == 1 then s.msixSend (s.getF F.FLT_LOG_CFG_VECTOR 0) else s

/-- Held records written while the ring has room. The number bounds them. -/
def State.logDrain : Nat → State → State
  | 0, s => s
  | n + 1, s =>
    match s.logHeld with
    | b :: rest => if s.logRoom then State.logDrain n ({ s with logHeld := rest }.logPut b) else s
    | [] => s

def State.drainLog (s : State) : State := State.logDrain s.logHeld.length s

/-- A record is dropped because the buffer is full. -/
def State.logLose (s : State) (r : ErrRec) : State :=
  if s.getC C.FLT_LOG_LOST 0 == 0 && (s.countWm C.FLT_LOG_LOST 0 1 r.waymark).getC C.FLT_LOG_LOST 0 != 0 then
    { s.countWm C.FLT_LOG_LOST 0 1 r.waymark with logOver := true }.setIrq .FLT 0 3
  else { s.countWm C.FLT_LOG_LOST 0 1 r.waymark with logOver := true }

/-- A record's bytes: written, held while they have to wait, or dropped when the buffer is full. -/
def State.logHold (s : State) (r : ErrRec) (b : List Byte) : State :=
  if s.logHeld.isEmpty && s.logRoom then { s.logPut b with logOver := false }
  else if s.logHeld.length < 1024 then { s with logHeld := s.logHeld ++ [b], logOver := false }
  else s.logLose r

/-- The sequence number that the next record gets. -/
def State.logAdvance (s : State) : State := { s with logNext := (s.logNext + 1) % 2 ^ 32 }

/-- A numbered record: kept by the management controller too from severity 2 up, then written, held or dropped. -/
def State.logRecord (s : State) (r : ErrRec) : State :=
  let b := r.bytes s.logNext s.logOver
  let s := s.logAdvance.countWm C.FLT_LOG_RECORDS 0 1 r.waymark
  (if 2 ≤ r.sev then s.mgmtKeep b else s).logHold r b

/-- Service firmware serves: from the end of start-up on, and in STANDBY. -/
def State.svcRuns (s : State) : Bool := s.dark == 0 && (s.getF F.SYS_STATE_STATE 0 == 1 || s.getF F.SYS_STATE_STATE 0 == 2 ||
  (s.getF F.SYS_STATE_STATE 0 == 0 && decide (3 ≤ s.getF F.SYS_STATE_STEP 0)))

/-- A record that service firmware takes while it serves, and the management controller otherwise, unnumbered (R670). -/
def State.note (s : State) (r : ErrRec) : State := if s.svcRuns then s.raise r else s.mgmtKeep (r.bytes 0 false)

/-- ERROR_RECORD: service firmware numbers the oldest record that a unit has passed to it. -/
def execErrorRecord (s : State) : Host.Outcome State Fault Refusal :=
  .next (
    match s.records with
    | [] => s
    | r :: rest => if s.svcRuns then { s with records := rest }.logRecord r else s)

/-- HEAD passes TAIL, or lies outside the ring. -/
def State.logHeadBad (s : State) (new : Nat) : Bool :=
  let n := s.logSize
  let head := s.getF F.FLT_LOG_PTR_HEAD 0
  decide (n ≤ new) || decide ((s.getF F.FLT_LOG_PTR_TAIL 0 + n - head) % n < (new + n - head) % n)

/-- LOG_HEAD_WRITE: a write of FLT.LOG_PTR; held records follow into the room it makes. -/
def execLogHeadWrite (fw : Bool) (value : W64) (s : State) : Host.Outcome State Fault Refusal :=
  .next (s.regWrite fw ⟨.FLT, 0⟩ 0x090 true value (s.logHeadBad (wbits value 39 20)) false (fun s => s.drainLog))

/-! ### The defect map (R602, R604, R605) -/

/-- Tiles fenced by a fence map. -/
def FieldSt.fenced (x : FieldSt) : Nat := (x.fence.filter (fun e => e.2.getLsbD 0)).length

/-- The record of a field in the map. -/
def State.fieldRecord (s : State) (f : FieldAddr) : List Byte :=
  let x := s.fieldSt f
  leBytes 1 (if x.lost || x.retired == 4 then 2 else if x.retired != 0 then 1 else 0) ++ leBytes 1 x.retired ++ leBytes 2 x.ownFenced ++
    (List.range 12).flatMap (fun b => leBytes 1 (x.sparedOf b)) ++ List.replicate 16 0

/-- The defect map image as it stands. -/
def State.dmap (s : State) : List Byte :=
  leBytes 8 0x5443464544574B53 ++ leBytes 4 1 ++ leBytes 4 s.retained.length ++
    (List.finRange 2).flatMap (fun p => leBytes 4 (s.planeFence p).fenced) ++ List.replicate 40 0 ++
    (List.finRange 2).flatMap (fun p => (s.planeFence p).fenceBytes) ++ allFields.flatMap (fun f => s.fieldRecord f) ++
    (List.finRange 2).flatMap (fun p => (List.range 24).flatMap (fun n => leBytes 1 (s.getF F.HBM_STATE_STATE (32 * p.val + n))) ++
      List.replicate 8 0) ++
    s.retained.flatMap (fun e => e.bytes)

/-- Its digest; before start-up has built a map there is none. -/
def State.dmapDigest (s : State) : List Byte :=
  if s.getF F.SYS_STATE_STEP 0 < 5 then List.replicate 32 0 else sha3 s.dmap

/-- A write of FLT.DMAP_CTL: with GO the current image is copied into plane 0's edge memory. -/
def State.dmapWrite (s : State) (fw : Bool) (value : W64) : State :=
  let addr := wbits value 47 0
  s.regWrite fw ⟨.FLT, 0⟩ 0x0A0 true value
    (addr % 4096 != 0 || (wbits value 48 48 == 1 && decide (s.edgeCapacity 0 < addr + (10112 + 16 * s.retained.length)))) false
    (fun s => if wbits value 48 48 == 1 then s.edgeWrite 0 addr s.dmap else s)

/-- DMAP_COPY: the write carries GO. -/
def execDmapCopy (fw : Bool) (value : W64) (s : State) : Host.Outcome State Fault Refusal :=
  .next (if wbits value 48 48 == 1 then s.dmapWrite fw value else s)

end Sys2Proof.Machine
end

