-- ==== Sys2Proof/Machine/Rebind.lean ====
section
/-!
DEFINITION. Rebinding a slot to a spare field: attach routers, distance tables, endpoint tables rewritten, state moved.
Spec: 13_faults_and_recovery (R612 to R616), 08 (R406), 05 (R252), 07 (R342), 01 (R23), 10 (R489, R490).
-/
namespace Sys2Proof.Machine

/-! ### Attach routers (R23, R342, R489) -/

/-- The fields of plane 0 that an edge port group attaches to. -/
def groupFields0 (g : Nat) : List Nat :=
  match g with
  | 0 => [0, 1]
  | 1 => [2, 3]
  | 2 => [4, 5]
  | 3 => [6, 14, 22]
  | 4 => [30, 38, 46]
  | 5 => [54, 55]
  | 6 => [56, 57]
  | _ => [58, 59]

/-- The fields that a group attaches to, in ascending order; plane 1 is the mirror image about the span bridge. -/
def groupFields (p : Fin 2) (g : Nat) : List FieldAddr :=
  (List.finRange 60).filterMap (fun f =>
    let q := fieldPos f.val
    let m := if p = 0 then some f.val else fieldAtPos q.1 (7 - q.2)
    match m with
    | some n => if (groupFields0 g).contains n then some ⟨p, f⟩ else none
    | none => none)

/-- Plane coordinates of a group's attach router in a field. -/
def edgeRouter (f : FieldAddr) : Nat × Nat :=
  let q := fieldPos f.field
  let r := Config.edgeAttach f.inst
  (96 * q.1 + r.1 % 96, 128 * q.2 + r.2 % 128)

/-- Plane coordinates of a bridge link's attach router. -/
def bridgeRouter (p : Fin 2) (n : Nat) : Nat × Nat :=
  let r := Config.bridgeAttach n
  let q := (96 * bridgeRow n + r.1 % 96, 896 + r.2 % 128)
  if p = 0 then q else (q.1, 1023 - q.2)

/-- The injection router of a group: that of its lowest field that is neither lost nor isolated by a field reset. -/
def State.injectionOf (s : State) (p : Fin 2) (g : Nat) : Option (Nat × Nat) :=
  ((groupFields p g).find? (fun f => !(s.fieldSt f).lost && !(s.fieldSt f).resetting)).map edgeRouter

/-- A bridge link is in service, and so is its attach field in a plane. -/
def State.bridgeLinkUp (s : State) (p : Fin 2) (n : Nat) : Bool :=
  natBits (4 * n + 3) (4 * n) (s.getF F.BRG_LINKS_GROUPS 0) != 0 &&
    (bridgeFields n).all (fun f => decide (f.plane ≠ p) || !(s.fieldSt f).lost)

/-- SEN.GRP_INJ0 to SEN.GRP_INJ7 published. A group without a router keeps its last. -/
def State.publishInjection (s : State) (p : Fin 2) : State :=
  (List.range 8).foldl (fun s g =>
    match s.injectionOf p g with
    | some q => (s.setF (F.SEN_GRP_INJ_ROW g) p q.1).setF (F.SEN_GRP_INJ_COL g) p q.2
    | none => s) s

/-! ### Distance tables (R210, R252) -/

/-- Boundaries of size n between two coordinates. -/
def crossings (n x y : Nat) : Nat := max (x / n) (y / n) - min (x / n) (y / n)

/-- Far hops between two routers, and the head latency from a tile: injection, hops within a block, across a block boundary and
across a field boundary. -/
def farCost (q d : Nat × Nat) : Nat × Nat :=
  let hops := (max q.1 d.1 - min q.1 d.1) + (max q.2 d.2 - min q.2 d.2)
  let fields := crossings 96 q.1 d.1 + crossings 128 q.2 d.2
  let blocks := crossings 32 q.1 d.1 + crossings 32 q.2 d.2 - fields
  (hops, 2 + 2 * (hops - fields - blocks) + 6 * blocks + 8 * fields)

/-- A table entry toward a router, over the tiles of a field that are not fenced. -/
def State.distEntry (s : State) (f : FieldAddr) (d : Nat × Nat) : W64 :=
  let costs := ((fieldTiles f).filter (fun a => !s.tileFenced a)).map (fun a => farCost (tilePos a) d)
  match costs with
  | [] => 0
  | c :: r =>
    let lo := r.foldl (fun m x => if x.1 < m.1 then x else m) c
    let hi := r.foldl (fun m x => if m.1 < x.1 then x else m) c
    BitVec.ofNat 64 (lo.1 + hi.1 <<< 11 + lo.2 <<< 24 + hi.2 <<< 44)

/-- MESH.DIST0 to MESH.DIST8 of a field: the edge port groups, and the nearest attach router of the bridge. -/
def State.publishDistances (s : State) (f : FieldAddr) : State :=
  let s := (List.range 8).foldl (fun s g =>
    s.setReg ⟨.MESH, f.inst⟩ (0x300 + 8 * g) (match s.injectionOf f.plane g with | some q => s.distEntry f q | none => 0)) s
  let links := ((List.range 16).filter (s.bridgeLinkUp f.plane)).map (fun n => s.distEntry f (bridgeRouter f.plane n))
  s.setReg ⟨.MESH, f.inst⟩ 0x340 (match links with
    | [] => 0
    | e :: r => r.foldl (fun m x => if wbits x 10 0 < wbits m 10 0 then x else m) e)

/-- The injection routers and the distance tables of a plane, as start-up and a rebinding leave them. -/
def State.publishPlane (s : State) (p : Fin 2) : State :=
  (s.wholeFields p).foldl (fun s f => if (s.fieldSt f).resetting then s else s.publishDistances f) (s.publishInjection p)

/-! ### Paths (R222, R612) -/

/-- Every hop of a path goes over a link that is not isolated to a router that is present, not fenced and in a field that is not
lost. -/
def State.hopsGood (s : State) (a : TileAddr) : List Nat → Bool
  | [] => true
  | d :: r =>
    match neighbour a d with
    | none => false
    | some b => !s.isolated a d false && !s.routerFenced b && !(s.fieldSt b.fld).lost && s.hopsGood b r

/-- The composed path is good from every router of a field that is not fenced. -/
def State.entryGood (s : State) (f : FieldAddr) (e : EpEntry) : Bool :=
  (fieldTiles f).all (fun a => s.routerFenced a ||
    s.hopsGood a ((composePath (tilePos a) e).flatMap (fun x => List.replicate x.2 x.1)))

/-- An entry with other waypoints. -/
def EpEntry.via (e : EpEntry) (way : List (Nat × Nat)) (order : Nat) : EpEntry :=
  let w1 := way.getD 0 (0, 0)
  let w2 := way.getD 1 (0, 0)
  let e := setBits (setBits e 13 11 order) 15 14 way.length
  setBits (setBits (setBits (setBits e 45 36 w1.1) 55 46 w1.2) 65 56 w2.1) 75 66 w2.2

/-- Every path of at most 2 waypoints to the entry's destination. -/
def State.pathsTo (s : State) (f : FieldAddr) (e : EpEntry) : List EpEntry :=
  let at' := (List.range 768).flatMap (fun r => ((List.range 1024).map (fun c => (r, c))).filter (fun q => (tileAt f.plane q.1 q.2).isSome))
  let ways : List (List (Nat × Nat)) := [[]] ++ at'.map (fun q => [q]) ++ at'.flatMap (fun q => at'.map (fun r => [q, r]))
  (ways.flatMap (fun w => (List.range (2 ^ (w.length + 1))).map (fun o => EpEntry.via e w o))).filter (s.entryGood f)

/-- A coordinate that lies in field a, at the same position of field b. -/
def moveCoord (a b : FieldAddr) (q : Nat × Nat) : Nat × Nat :=
  let x := fieldPos a.field
  let y := fieldPos b.field
  if q.1 / 96 = x.1 ∧ q.2 / 128 = x.2 then (96 * y.1 + q.1 % 96, 128 * y.2 + q.2 % 128) else q

/-- Every coordinate of an entry translated from field a to field b. -/
def EpEntry.moved (e : EpEntry) (a b : FieldAddr) : EpEntry :=
  let n := wbits e 15 14
  let d := moveCoord a b (EpEntry.dest e)
  let w1 := if 1 ≤ n then moveCoord a b (wbits e 45 36, wbits e 55 46) else (wbits e 45 36, wbits e 55 46)
  let w2 := if 2 ≤ n then moveCoord a b (wbits e 65 56, wbits e 75 66) else (wbits e 65 56, wbits e 75 66)
  let e := setBits (setBits e 25 16 d.1) 35 26 d.2
  setBits (setBits (setBits (setBits e 45 36 w1.1) 55 46 w1.2) 65 56 w2.1) 75 66 w2.2

/-- A BRIDGE entry whose attach router lies in a lost field, or on a failed link, takes the attach router of the nearest
surviving link. -/
def State.bridgeEntry (s : State) (p : Fin 2) (e : EpEntry) : EpEntry :=
  let d := EpEntry.dest e
  let up := (List.range 16).filter (s.bridgeLinkUp p)
  let inLost := match tileAt p d.1 d.2 with | some a => (s.fieldSt a.fld).lost | none => true
  let links := (List.range 16).filter (fun n => bridgeRouter p n == d)
  let failed := !links.isEmpty && links.all (fun n => !up.contains n)
  if e.typ != 2 || !(inLost || failed) then e
  else
    match up with
    | [] => e
    | n :: r =>
      let best := r.foldl (fun m k => if (farCost d (bridgeRouter p k)).1 < (farCost d (bridgeRouter p m)).1 then k else m) n
      let q := bridgeRouter p best
      setBits (setBits e 25 16 q.1) 35 26 q.2

/-- One entry of field f rewritten after slot binding a → b: none where it has no path. Which of several paths service firmware
takes is a free value (assumption 11). -/
def State.rewriteEntry (s : State) (f a b : FieldAddr) (e : EpEntry) : State × Option EpEntry :=
  let m := EpEntry.moved e a b
  let e := if e.typ == 2 then
      let x := s.bridgeEntry f.plane e
      setBits (setBits m 25 16 (EpEntry.dest x).1) 35 26 (EpEntry.dest x).2
    else m
  if s.entryGood f e then (s, some e)
  else
    let l := s.pathsTo f e
    let n := s.freeBits 64
    match l[n.1.toNat % l.length]? with
    | some x => (n.2, some x)
    | none => (s, none)

/-- The VALID entries of a field rewritten in index order, up to the first without a path. -/
def State.rewriteFrom (f a b : FieldAddr) : List (Nat × BitVec 128) → State → State × Option Nat
  | [], s => (s, none)
  | (i, e) :: r, s =>
    if wbits e 0 0 == 0 then State.rewriteFrom f a b r s
    else
      match s.rewriteEntry f a b e with
      | (s, some x) =>
        let y := s.fieldSt f
        State.rewriteFrom f a b r (s.setField f { y with ept := put (fun _ => 0) y.ept i x })
      | (s, none) => (s, some i)

/-- The tables of several fields rewritten. -/
def State.rewriteFields (a b : FieldAddr) : List FieldAddr → State → State × Option Nat
  | [], s => (s, none)
  | f :: r, s =>
    match State.rewriteFrom f a b (s.fieldSt f).ept s with
    | (s, none) => State.rewriteFields a b r s
    | x => x

/-- The fields bound to the slots that the plane's resident placement uses. -/
def State.usedFields (s : State) (p : Fin 2) : List FieldAddr :=
  if s.getF F.AEN_PLACEMENT_PLACEMENT_ID p == 0 then []
  else (maskSlots (s.image p (s.ae p).image).mask).filterMap (s.slotField p)

/-! ### Rebinding (R612, R613) -/

/-- A slot waits to be rebound: the field bound to it is lost, retired, or hot while a spare field exists. -/
def State.needsRebind (s : State) (p : Fin 2) (slot : Nat) : Bool :=
  match s.fieldOfSlot p slot with
  | none => false
  | some f => (s.fieldSt f).lost || (s.fieldSt f).retired != 0 || ((s.fieldSt f).hot && (s.spareField p f).isSome)

/-- FLT.RECOVERY after a rebinding: the next slot that waits, or IDLE. -/
def State.nextRebind (s : State) : State :=
  let l := (List.finRange 2).flatMap (fun p => ((List.range 56).filter (s.needsRebind p)).map (fun n => (p, n)))
  match l with
  | (p, n) :: _ => s.setReg ⟨.FLT, 0⟩ 0x0B8 (BitVec.ofNat 64
      ((if s.passLive p || s.passState p == 7 then 1 else 2) + n <<< 3 + p.val <<< 9 + s.runWm.toNat <<< 32))
  | [] => s.setF F.FLT_RECOVERY_STATE 0 0

/-- A rebinding ends: counted, recorded, and when it failed the slot is unbound and the step of a failed attempt ends. -/
def State.rebindEnd (s : State) (p : Fin 2) (slot : Nat) (a : FieldAddr) (b : Option FieldAddr) (result index : Nat) : State :=
  let s := (s.count C.FLT_REBINDINGS 0 1).setIrq .FLT 0 4
  let s := s.raise (s.errRec 0x2403 3 true s.runWm 0 (.field a) 0 0
    (rebindDetail result slot a.field (match b with | some f => f.field.val | none => 0xFF) index))
  let s := if result == 0 then s
    else
      let s := { s with slotOf := put (fun _ => 0) s.slotOf (56 * p.val + slot) 0 }
      match s.step with
      | some x => if x.fail.isSome then { s with step := some { x with final := true } } else s
      | none => s
  let s := (s.wholeFields p).foldl (fun s f => s.drainStart f 2) s
  let s := s.setAe p { s.ae p with prev := 0 }
  (s.nextRebind).parkHot a

/-- Segments of a field in transition reach their targets. -/
def State.settleSegs (s : State) (f : FieldAddr) : State :=
  ((fieldTiles f).foldl (fun s a => (List.range 8).foldl (fun s g =>
    let x := (s.tile a).seg g
    if x.state == .waking || x.state == .closing then s.segReach a g x.target false else s) s) s).segFinish f

/-- The slot names the field. -/
def State.slotNames (s : State) (p : Fin 2) (slot : Nat) (b : FieldAddr) : State :=
  { s with slotOf := put (fun _ => 0) s.slotOf (56 * p.val + slot) (b.field.val + 1) }

/-- A field and its tiles take an epoch. -/
def State.takeEpoch (s : State) (b : FieldAddr) (e : BitVec 2) : State :=
  (fieldTiles b).foldl (fun s t => if s.tileFenced t then s else s.setTile t { s.tile t with epoch := e })
    ((s.setField b { s.fieldSt b with epoch := e }).setF F.PAS_RUN_EPOCH b.inst e.toNat)

/-- In the epochs that the step began with, the spare field stands for the one that it takes over. -/
def State.stepEpochs (s : State) (a b : FieldAddr) : State :=
  match s.step with
  | some x => { s with step := some { x with
      rebound := true
      epochs := (x.epochs.filter (fun y => y.1 != b.idx)).map (fun y => if y.1 == a.idx then (b.idx, y.2) else y) } }
  | none => s

/-- The spare field takes the slot: awake, bound, in field a's epoch; the step's epoch moves with it (R105, R406). -/
def State.bindSlot (s : State) (p : Fin 2) (slot : Nat) (a b : FieldAddr) : State :=
  let s := if s.getF F.FPW_STATE_POWER b.inst == 0 then s else s.wakeTiles b true
  let s := s.slotNames p slot b
  (s.takeEpoch b (s.fieldSt a).epoch).stepEpochs a b

/-- The state of field a moved to field b over the causeway, or the mirrors of the slot restored into b. A field that still has
its rail saves its contexts first (R560, R612). -/
def State.moveState (s : State) (a b : FieldAddr) : State :=
  let whole := !(s.fieldSt a).lost && !(s.fieldSt a).resetting && s.getF F.FPW_STATE_POWER a.inst == 0
  let s := if whole && s.tasksAtRest a true then s.saveField a else s
  if whole && s.migrateCode a b == 0 && !s.cwyFailed.contains (64 * a.plane.val + a.field.val) &&
      !s.cwyFailed.contains (64 * b.plane.val + b.field.val) then
    (migrateTiles b (fieldTiles a) s 0).1.count C.CWY_BYTES 0 (migrateTiles b (fieldTiles a) s 0).2
  else s.mirrorRestore b

/-- Steps 2 to 6 for a slot, a field and a spare one. -/
def State.rebindTo (s : State) (p : Fin 2) (slot : Nat) (a b : FieldAddr) : State :=
  let g := s.image p (s.ae p).image
  let k := (maskSlots g.mask).idxOf? slot
  let s := s.bindSlot p slot a b
  let s := match k with
    | some k => s.setField b { s.fieldSt b with ept := g.table (g.endpointOff k) }
    | none => s.setField b { s.fieldSt b with ept := [] }
  let s := if (s.fieldSt a).lost then s else s.setField a { s.fieldSt a with ept := [] }
  match State.rewriteFields a b (s.usedFields p) s with
  | (s, some i) => s.rebindEnd p slot a (some b) 3 i
  | (s, none) =>
    let s := match k with
      | some k => (s.placeSegments b g (g.segmapOff k)).settleSegs b
      | none => s
    let s := (s.setF F.FLT_RECOVERY_STATE 0 3).moveState a b
    let s := s.publishPlane p
    (s.setAe p { s.ae p with reuse := (s.ae p).reuse && !(s.ae p).slots.getLsbD slot }).rebindEnd p slot a (some b) 0 0

/-- The step's work has been cancelled, where the step of a failed attempt is still open. -/
def State.stepCancelled (s : State) : Bool :=
  match s.step with
  | some x => x.fail.isNone || x.phase != .running
  | none => true

/-- REBIND: the slot that FLT.RECOVERY names is rebound once its plane's pass is over and every field of the plane is held and
drained, which the command sees to first; the streams into the slot are cancelled (R360). -/
def execRebind (s : State) : Host.Outcome State Fault Refusal :=
  .next (
    let p : Fin 2 := if s.getF F.FLT_RECOVERY_PLANE 0 = 1 then 1 else 0
    let slot := s.getF F.FLT_RECOVERY_SLOT 0
    if !s.recovering || s.passLive p || s.passState p == 7 || (s.ae p).placing.isSome || !s.stepCancelled then s
    else
      let s := (s.setF F.FLT_RECOVERY_STATE 0 2).cancelStreams p 2 slot
      let fs := (s.wholeFields p).filter (fun f => !(s.fieldSt f).resetting)
      if !fs.all (fun f => s.quiet f) then fs.foldl (fun s f => if s.quiet f then s else s.stopDrain f) s
      else
        match s.fieldOfSlot p slot with
        | none => s.nextRebind
        | some a =>
          if !s.needsRebind p slot then s.nextRebind
          else
            let g := s.image p (s.ae p).image
            match s.spareField p a with
            | none => s.rebindEnd p slot a none 1 0
            | some b =>
              if s.getF (F.FLT_PLANE_STATE_REPLACEABLE p.val) 0 == 0 then s.rebindEnd p slot a none 2 0
              else if (s.mirrorsOf p slot).any (fun e => !s.mirrorValid g p b e) then s.rebindEnd p slot a none 4 0
              else s.rebindTo p slot a b)

/-! ### Recovery before a re-run (R406, R616) -/

/-- The VALID entries of a field whose bridge attach router has failed. -/
def State.deadBridge (s : State) (f : FieldAddr) : List (Nat × BitVec 128) :=
  (s.fieldSt f).ept.filter (fun e => wbits e.2 0 0 == 1 && s.bridgeEntry f.plane e.2 != e.2)

/-- The fields through which the paths of such entries may run, which are drained before a table changes (R260): those of their plane. -/
def State.rerouteFields (s : State) : List FieldAddr :=
  (List.finRange 2).flatMap (fun p =>
    if (s.usedFields p).any (fun f => !(s.deadBridge f).isEmpty) then (s.wholeFields p).filter (fun f => !(s.fieldSt f).resetting) else [])

/-- The recovery holds and STOP-drains fields, and remembers those that nothing else holds. -/
def State.holdForRecovery (s : State) (fs : List FieldAddr) : State :=
  let mine := (fs.filter (fun f => s.getF F.MESH_DRAIN_STATE_HELD f.inst == 0)).map (fun f => f.idx)
  let s := match s.step with
    | some x => { s with step := some { x with stopped := x.stopped ++ mine } }
    | none => s
  fs.foldl (fun s f => if s.quiet f then s else s.stopDrain f) s

/-- BRIDGE entries of the used fields whose attach router has failed, re-routed without a rebinding. -/
def State.rerouteBridge (s : State) : State :=
  ((List.finRange 2).flatMap (fun p => s.usedFields p)).foldl (fun s f =>
    (s.deadBridge f).foldl (fun s e =>
      match s.rewriteEntry f f f e.2 with
      | (s, some x) => s.setField f { s.fieldSt f with ept := put (fun _ => 0) (s.fieldSt f).ept e.1 x }
      | (s, none) => s) s) s

/-- STEP_REWIND: once every started record of the step has completed and recovery is over, its fields drained where tables change, queues,
waymarks and epochs go back and the attempt rises. -/
def execStepRewind (s : State) : Host.Outcome State Fault Refusal :=
  .next (
    match s.step with
    | none => s
    | some x =>
      if x.phase != .rerunning || x.aborted || x.final || !(s.stepBusy x).isEmpty || s.recovering then s
      else if !s.rerouteFields.all (fun f => s.quiet f) then s.holdForRecovery s.rerouteFields
      else
        let s := s.restoreWiped.rerouteBridge
        let s := (maskEngines x.mask).foldl (fun s e => (List.range 64).foldl (fun s q =>
          let y := s.queue e q
          let n := s.sqSize e q
          let back := (s.getF (F.ENG_QPTR_FETCH q) e + n - y.mark % n) % n
          (s.setQueue e q { y with recs := y.recs.filter (fun (r : EngRec) => decide (back ≤ (r.index + n - y.mark % n) % n)), failed := false, tries := 0 }).setF
            (F.ENG_QPTR_FETCH q) e (if s.enabled e q then y.mark else s.getF (F.ENG_QPTR_FETCH q) e)) s) s
        let s := (s.setCurWm x.mask x.firstWm).dropNotices
        let s := x.epochs.foldl (fun s e => s.rewindEpoch e) s
        let s := s.setF F.ENG_STEP_ATTEMPT 0 (min 15 (s.getF F.ENG_STEP_ATTEMPT 0 + 1))
        { s.releaseRecovery with step := some { x with phase := .running, made := x.made + 1, fail := none, lastFail := x.fail, rebound := false, stopped := [] } })

end Sys2Proof.Machine
end

