-- ==== Sys2Proof/Machine/Checks.lean ====
section
/-!
DEFINITION. Sampled repetition: feeding captured work units to check engines, verdicts, and what follows from them.
Spec: 13_faults_and_recovery (R606, R617, R620 to R626).
-/
namespace Sys2Proof.Machine

/-! ### Shadow and referee (R621) -/

/-- A tile can take a feed: it is not fenced, and its field runs. -/
def State.canCheck (s : State) (a : TileAddr) : Bool := s.fieldRuns a.fld && !s.tileFenced a

/-- The used slots of a plane after a slot, in ascending order with wrap, the slot itself left out. -/
def slotsAfter (used : List Nat) (slot : Nat) : List Nat := used.filter (fun n => slot < n) ++ used.filter (fun n => n < slot)

/-- The shadow and the referee of a tile: the tile at its place in the next two used slots that can take a feed, or, where the
plane uses one slot, in other blocks of the same field. -/
def State.checkers (s : State) (a : TileAddr) : List TileAddr :=
  let p := a.fld.plane
  let used := if s.getF F.AEN_PLACEMENT_PLACEMENT_ID p == 0 then [] else maskSlots (s.image p (s.ae p).image).mask
  if used.length ≤ 1 then
    [32, 64].map (fun n => { a with col := ⟨(a.col.val + n) % 128, Nat.mod_lt _ (by omega)⟩ })
  else
    let slot := match s.slotOfField a.fld with | some n => n | none => 56
    ((slotsAfter used slot).filterMap (fun n => (s.fieldOfSlot p n).map (fun f => { a with fld := f }))).filter s.canCheck

/-! ### Feeds (R620) -/

/-- A captured unit accumulated in a check accumulator, by the additions of R53. -/
def CheckUnit.sum (u : CheckUnit) : List ExactVal :=
  (List.range 64).map (fun n => u.ops.foldl (fun x o =>
    match Fmt.ofCode o.1.fmt.toNat, Fmt.ofCode o.2.1.fmt.toNat with
    | some fa, some fb => mmaElem fa fb o.1 o.2.1 o.2.2 (n / 8) (n % 8) x
    | _, _ => x) ExactVal.zero)

/-- The bank that a tile with a fault returns: the bits that its hardware got wrong, as 192 × element + bit of V. -/
def upset (l : List ExactVal) (bits : List Nat) : List ExactVal :=
  bits.foldl (fun l b => l.modify (b / 192) (fun x => { x with v := x.v ^^^ BitVec.ofNat 192 (2 ^ (b % 192)) })) l

/-- Two banks agree in all values and statuses. -/
def sameBank (x y : List ExactVal) : Bool := x.map (fun e => (e.v, e.status)) == y.map (fun e => (e.v, e.status))

/-- CHECK_FEED: unit n of the check store is fed to its shadow (0), and once that has differed to the original (1) and the
referee (2); the bank returns. `steals` MATRIX slots are taken from tasks; `wrong` are bits that the tile gets wrong. -/
def execCheckFeed (n : Nat) (which : Fin 3) (steals : Nat) (wrong : List Nat) (s : State) : Host.Outcome State Fault Refusal :=
  .next (
    match s.checks[n]? with
    | none => s
    | some (u : CheckUnit) =>
      let r := upset u.sum wrong
      let give (a : Option TileAddr) (ok : Bool) (v : CheckUnit) : State :=
        if ok && (match a with | some t => s.canCheck t | none => false) then
          { s with checks := s.checks.set n v }.countWm C.FLT_CHECK_STEALS 0 steals u.wm
        else s
      let cs := s.checkers u.tile
      match which with
      | 0 => (match cs[0]? with
        | some t => give (some t) u.shadow.isNone { u with shadow := some (t, r) }
        | none => s)
      | 1 => give (some u.tile) (u.again.isNone && (match u.shadow with | some x => !sameBank x.2 u.orig | none => false))
          { u with again := some r }
      | 2 => give cs[1]? (u.referee.isNone && (match u.shadow with | some x => !sameBank x.2 u.orig | none => false))
          { u with referee := some r })

/-! ### Verdicts (R622 to R625) -/

/-- The check detail (R623). Where no bank has come back, what it would show is a free value (assumption 11). -/
def State.checkDetail (s : State) (u : CheckUnit) (verdict : Nat) : List W64 × State :=
  let sh : TileAddr := match u.shadow with
    | some x => x.1
    | none => (match (s.checkers u.tile)[0]? with | some t => t | none => u.tile)
  let tail := sh.fld.plane.val + sh.fld.field.val <<< 1 + sh.row.val <<< 7 + sh.col.val <<< 14 + (u.ops.length % 2048) <<< 21
  match u.shadow with
  | some x =>
    let diff := (List.range 64).filter (fun n =>
      !sameBank [u.orig.getD n ExactVal.zero] [x.2.getD n ExactVal.zero])
    let e := diff.headD 0
    let o := u.orig.getD e ExactVal.zero
    let h := x.2.getD e ExactVal.zero
    let bs := leBytes 1 verdict ++ leBytes 1 e ++ leBytes 1 diff.length ++ leBytes 1 u.bank ++ leBytes 2 o.status.toNat ++
      leBytes 2 h.status.toNat ++ leBytes 4 u.u ++ leBytes 4 tail ++ leBytes 24 o.v.toNat ++ leBytes 24 h.v.toNat
    ((List.range 8).map (fun i => BitVec.ofNat 64 (leAt bs (8 * i) 8)), s)
  | none =>
    let f := s.freeBits 448
    let bs := leBytes 1 verdict ++ leBytes 2 f.1.toNat ++ leBytes 1 u.bank ++ leBytes 4 (natBits 43 16 f.1.toNat) ++ leBytes 4 u.u ++
      leBytes 4 tail ++ leBytes 48 (f.1.toNat >>> 48)
    ((List.range 8).map (fun i => BitVec.ofNat 64 (leAt bs (8 * i) 8)), f.2)

/-- The cause of a check mismatch as R617 compares it: its waymark and its tile. -/
def CheckUnit.key (u : CheckUnit) : List Nat := [0x104, u.wm.toNat, u.tile.key]

/-- What follows from a verdict other than SHADOW_FAULT (R624). -/
def State.checkAction (s : State) (u : CheckUnit) (verdict : Nat) : State :=
  let w := u.wm.toNat
  let slot := match s.slotOfField u.tile.fld with | some n => n | none => 0xFF
  let taint (s : State) : State := s.taint w 0 u.attempt u.tile.fld.plane slot (.tile u.tile u.task)
  if w = 0 then s
  else
    match s.step with
    | none => taint s
    | some x =>
      if !x.holds w then taint s
      else
        let left := x.left.contains u.attempt
        if u.attempt != s.getF F.ENG_STEP_ATTEMPT 0 then (if left then taint s else s)
        else if !left then s.failStep true false 0 0 0 u.key
        else if verdict == 1 then taint s
        else (taint s).failStep true true 0 0 0 u.key

/-- A verdict that condemns a tile when it recurs (R606). `recent`: the tile has had one within FLT.CHECK_CTL.RECUR_HOURS. -/
def State.suspectVerdict (s : State) (a : TileAddr) (wm : Waymark) (recent : Bool) : State :=
  let m := look (fun _ => 0) s.suspects a.key
  if recent && m.testBit 0 then s.condemn a false 0x2401 wm
  else { s with suspects := put (fun _ => 0) s.suspects a.key (m ||| 1) }

/-- A verdict on unit n: counted, recorded, acted upon; the unit leaves the check store. -/
def State.giveVerdict (s : State) (n : Nat) (u : CheckUnit) (verdict : Nat) (recent : Bool) : State :=
  let s := { s with checks := s.checks.eraseIdx n }
  let s := (s.countWm C.FLT_CHECK_MISMATCHES 0 1 u.wm).setIrq .FLT 0 0
  let d := s.checkDetail u verdict
  let r := d.2.errRec 0x2401 3 true u.wm 0 (.tile u.tile u.task) 0x20 6 d.1
  let s := d.2.raise { r with attempt := u.attempt }
  match verdict with
  | 3 => (match u.shadow with | some x => s.suspectVerdict x.1 u.wm recent | none => s)
  | 2 => (s.checkAction u 2).condemn u.tile false 0x2401 u.wm
  | 1 => (s.checkAction u 1).suspectVerdict u.tile u.wm recent
  | v => s.checkAction u v

/-- The verdict of three banks against the original. -/
def verdictOf (orig shadow again referee : List ExactVal) : Nat :=
  if sameBank again shadow && sameBank referee shadow then 1
  else if sameBank again orig && sameBank referee shadow then 2
  else if sameBank again orig && sameBank referee orig then 3
  else 4

/-- CHECK_VERDICT: the banks of unit n are compared once they have come back. -/
def execCheckVerdict (n : Nat) (recent : Bool) (s : State) : Host.Outcome State Fault Refusal :=
  .next (
    match s.checks[n]? with
    | none => s
    | some (u : CheckUnit) =>
      match u.shadow, u.again, u.referee with
      | some x, some y, some z =>
        if sameBank x.2 u.orig then { s with checks := s.checks.eraseIdx n }.countWm C.FLT_CHECKS_MATCHED 0 1 u.wm
        else s.giveVerdict n u (verdictOf u.orig x.2 y z) recent
      | some x, _, _ =>
        if sameBank x.2 u.orig then { s with checks := s.checks.eraseIdx n }.countWm C.FLT_CHECKS_MATCHED 0 1 u.wm else s
      | none, _, _ => s)

/-- CHECK_DEADLINE: a feed of unit n has not completed in time, and the verdict is UNDECIDED. -/
def execCheckDeadline (n : Nat) (s : State) : Host.Outcome State Fault Refusal :=
  .next (
    match s.checks[n]? with
    | none => s
    | some (u : CheckUnit) =>
      match u.shadow with
      | some x =>
        if sameBank x.2 u.orig || (u.again.isSome && u.referee.isSome) then s else s.giveVerdict n u 4 false
      | none => s.giveVerdict n u 4 false)

end Sys2Proof.Machine
end

