-- ==== Sys2Proof/Machine/Firmware.lean ====
section
/-!
DEFINITION. Firmware images: their check, the two banks of each stage, the operations of SEC.FW_CMD, and the fused counters.
Spec: 14_bringup_security_management (R654 to R659, R671, R675, R676).
-/
namespace Sys2Proof.Machine

/-! ### Images (R654) -/

/-- A stage image as bytes: the 4 KiB header, then the body. -/
abbrev FwImage := List Byte

def FwImage.stage (g : FwImage) : Nat := leAt g 8 1
def FwImage.version (g : FwImage) : Nat := leAt g 12 4
def FwImage.svn (g : FwImage) : Nat := leAt g 16 4
def FwImage.bodyBytes (g : FwImage) : Nat := leAt g 24 8
def FwImage.digest (g : FwImage) : List Byte := bytesAt g 32 32
def FwImage.key (g : FwImage) : List Byte := bytesAt g 64 1312
def FwImage.signature (g : FwImage) : List Byte := bytesAt g 1376 2420
def FwImage.body (g : FwImage) : List Byte := bytesAt g 4096 (FwImage.bodyBytes g)

/-- The header is in order for a stage. -/
def FwImage.headerGood (g : FwImage) (stage : Nat) : Bool :=
  leAt g 0 8 == 0x474D495746574B53 && FwImage.stage g == stage && leAt g 9 3 == 0 && leAt g 20 4 == 0 &&
    (bytesAt g 3796 300).all (· == 0) && decide (FwImage.svn g ≤ 64) && decide (FwImage.bodyBytes g ≤ 2 ^ 26)

/-- The check of an image for a stage with a fused counter (R655): 0 where it passes. `readable`: every byte could be read. -/
def FwImage.check (g : FwImage) (stage fuse : Nat) (readable : Bool) : Nat :=
  if !FwImage.headerGood g stage then 1
  else if sha3 (FwImage.key g) != Config.rootKeyHash then 2
  else if FwImage.svn g < fuse then 3
  else if !Config.mlDsaVerify (FwImage.key g) (bytesAt g 0 64) (FwImage.signature g) then 4
  else if !readable || sha3 (FwImage.body g) != FwImage.digest g then 5
  else 0

/-! ### Banks (R656) -/

def State.flashBank (s : State) (stage bank : Nat) : FwImage := look Config.flashBank s.flash (2 * stage + bank)

def State.activeBank (s : State) (stage : Nat) : Nat := look (fun _ => 0) s.active stage

/-- An image checked: CHECK of the stage shows the result, and a failure is counted. -/
def State.checkBank (s : State) (stage : Nat) (g : FwImage) (readable : Bool) : State × Nat :=
  let c := g.check stage (s.getF (F.SEC_STAGE_FUSE_SVN stage) 0) readable
  let s := s.setF (F.SEC_STAGE_CHECK stage) 0 c
  (if c == 0 then s else s.count C.SEC_CHECK_FAILS 0 1, c)

/-- The banks of a stage in the order in which a boot tries them; an abandoned bank comes second. -/
def State.bankOrder (s : State) (stage : Nat) : List Nat :=
  let a := s.activeBank stage
  if look (fun _ => 0) s.fresh stage == 2 then [1 - a, a] else [a, 1 - a]

/-- The first bank that passes. -/
def State.firstBank (stage : Nat) : List Nat → State → State × Option Nat
  | [], s => (s, none)
  | b :: r, s =>
    let x := s.checkBank stage (s.flashBank stage b) true
    if x.2 == 0 then (x.1, some b) else State.firstBank stage r x.1

/-- M is extended with the image of a stage that runs (R657). -/
def State.measured (s : State) (stage : Nat) (digest : List Byte) : State :=
  { s with digests := put (fun _ => []) s.digests stage digest
           measure := sha3 (s.measure ++ leBytes 1 stage ++ digest) }

/-- A BOOT record. -/
def State.bootRecord (s : State) (sev : Nat) : State :=
  s.note (s.errRec 0x2701 sev true s.runWm 0 .module 0 0 ((List.range 4).map (fun n => s.reg ⟨.SEC, 0⟩ (0x088 + 8 * n))))

/-- A stage verified at boot. False where it has no bootable bank. -/
def State.verifyStage (s : State) (stage : Nat) : State × Bool :=
  match State.firstBank stage (s.bankOrder stage) s with
  | (s, none) => (s.bootRecord 4, false)
  | (s, some b) =>
    let g := s.flashBank stage b
    let s := ((s.setF (F.SEC_STAGE_SVN stage) 0 (FwImage.svn g)).setF (F.SEC_STAGE_BANK stage) 0 b).setF (F.SEC_STAGE_VERSION stage) 0
      (FwImage.version g)
    let s := if stage == 1 then { s with mgmtStage := s.reg ⟨.SEC, 0⟩ 0x090 } else s
    let s := s.measured stage (FwImage.digest g)
    if b == s.activeBank stage then (s, true) else ((s.setF F.SEC_STATE_FALLBACK 0 1).bootRecord 2, true)

/-- The inactive banks that ACTIVATE has named, among the stages given, become active. -/
def State.activateStages (s : State) (stages : List Nat) : State :=
  (s.toActivate.filter stages.contains).foldl (fun s n =>
    { s with active := put (fun _ => 0) s.active n (1 - s.activeBank n)
             fresh := put (fun _ => 0) s.fresh n 1
             toActivate := s.toActivate.filter (· != n) }) s

/-! ### SEC.FW_CMD (R658, R659) -/

/-- An operation ends with a RESULT. -/
def State.fwEnd (s : State) (stage result : Nat) : State :=
  let s := ((s.setF F.SEC_FW_CMD_BUSY 0 0).setF F.SEC_FW_CMD_RESULT 0 result).setIrq .SEC 0 0
  s.note (s.errRec 0x2703 (if result == 0 then 0 else 2) true s.runWm 0 .module 0 0
    [s.reg ⟨.SEC, 0⟩ 0x0A8, s.reg ⟨.SEC, 0⟩ (0x088 + 8 * stage)])

/-- STAGE: an image is checked and written into the inactive bank. -/
def State.fwStage (s : State) (stage : Nat) (g : FwImage) (readable : Bool) : State :=
  let x := s.checkBank stage g readable
  if x.2 != 0 then x.1.fwEnd stage x.2
  else
    let s := x.1
    let b := 1 - s.activeBank stage
    let s := { s with flash := put Config.flashBank s.flash (2 * stage + b) (bytesAt g 0 (4096 + FwImage.bodyBytes g)) }
    (s.setF (F.SEC_STAGE_STAGED stage) 0 1).fwEnd stage 0

/-- ACTIVATE: the inactive bank becomes active at the next reset. -/
def State.fwActivate (s : State) (stage : Nat) : State :=
  if s.getF (F.SEC_STAGE_STAGED stage) 0 == 0 then s.fwEnd stage 6
  else
    let s := s.setF (F.SEC_STAGE_PENDING stage) 0 1
    { s with toActivate := if s.toActivate.contains stage then s.toActivate else s.toActivate ++ [stage] }.fwEnd stage 0

/-- COMMIT: fuse bits are blown up to the SVN of the active image. `fails`: a fuse does not blow after `blown` bits. -/
def State.fwCommit (s : State) (stage : Nat) (fails : Bool) (blown : Nat) : State :=
  if s.getF F.SYS_STATE_STATE 0 != 1 || s.getF (F.SEC_STAGE_PENDING stage) 0 == 1 || s.getF F.SEC_STATE_FALLBACK 0 == 1 then s.fwEnd stage 6
  else
    let old := s.getF (F.SEC_STAGE_FUSE_SVN stage) 0
    let svn := min 64 (FwImage.svn (s.flashBank stage (s.activeBank stage)))
    let new := max old svn
    if fails && decide (old + blown < new) then (s.setF (F.SEC_STAGE_FUSE_SVN stage) 0 (old + blown)).fwEnd stage 7
    else (s.setF (F.SEC_STAGE_FUSE_SVN stage) 0 new).fwEnd stage 0

/-- The image in plane 0's edge memory that SEC.FW_ADDR names, up to the capacity, and whether every byte could be read. A header
that reaches beyond the capacity reads as empty, and so does a body. -/
def State.fwImage (s : State) : State × FwImage × Bool :=
  let a := s.getF F.SEC_FW_ADDR_ADDR 0
  if s.edgeCapacity 0 < a + 4096 then (s, [], true)
  else
    let h := s.edgeRead 0 a 4096 .engine
    let n := FwImage.bodyBytes h.2.1
    if h.2.2 || decide (2 ^ 26 < n) then (h.1, h.2.1, !h.2.2)
    else if s.edgeCapacity 0 < a + 4096 + n then (h.1, [], true)
    else
      let b := h.1.edgeRead 0 (a + 4096) n .engine
      (b.1, h.2.1 ++ b.2.1, !b.2.2)

/-- One operation on a stage. -/
def State.fwOp (s : State) (op stage : Nat) (image : FwImage) (readable fails : Bool) (blown : Nat) : State :=
  let s := (s.setF F.SEC_FW_CMD_OP 0 op).setF F.SEC_FW_CMD_STAGE 0 stage
  match op with
  | 0 => s.fwStage stage image readable
  | 1 => s.fwActivate stage
  | _ => s.fwCommit stage fails blown

/-- A write of SEC.FW_CMD. -/
def State.fwWrite (s : State) (fw : Bool) (value : W64) (fails : Bool) (blown : Nat) : State :=
  s.regWrite fw ⟨.SEC, 0⟩ 0x0A8 true value false (s.getF F.SEC_FW_CMD_BUSY 0 == 1) (fun s =>
    if wbits value 4 4 == 0 then s
    else
      let x := if wbits value 1 0 == 0 then s.fwImage else (s, [], true)
      x.1.fwOp (wbits value 1 0) (wbits value 3 2) x.2.1 x.2.2 fails blown)

/-- The write carries GO and the operation. -/
def fwIs (value : W64) (op : Nat) : Bool := wbits value 4 4 == 1 && wbits value 1 0 == op

/-- STAGE: a write of SEC.FW_CMD. -/
def execStageImage (fw : Bool) (value : W64) (s : State) : Host.Outcome State Fault Refusal :=
  .next (if fwIs value 0 then s.fwWrite fw value false 0 else s)

/-- ACTIVATE: a write of SEC.FW_CMD. -/
def execActivateImage (fw : Bool) (value : W64) (s : State) : Host.Outcome State Fault Refusal :=
  .next (if fwIs value 1 then s.fwWrite fw value false 0 else s)

/-- COMMIT: a write of SEC.FW_CMD. `fails`: a fuse does not blow after `blown` bits. -/
def execCommitImage (fw : Bool) (value : W64) (fails : Bool) (blown : Nat) (s : State) : Host.Outcome State Fault Refusal :=
  .next (if fwIs value 2 then s.fwWrite fw value fails blown else s)

end Sys2Proof.Machine
end

