-- ==== Sys2Proof/Machine/Lookout.lean ====
section
/-!
DEFINITION. The lookout: the loss ring, the running mean and deviation, anomalies and rollback requests.
Spec: 13_faults_and_recovery (R628 to R630, R637, R638).
-/
namespace Sys2Proof.Machine

/-! ### binary64 over its whole range -/

/-- m × 2^e to nearest, ties to even, at binary64's precision and least exponent. -/
def b64 (m e : Int) : F64 :=
  let n := m.natAbs
  let k := max (n.log2 + 1 - 53) (-1074 - e).toNat
  if k = 0 then { m := m, e := e }
  else
    let q := n >>> k
    let r := n % 2 ^ k
    let h := 2 ^ (k - 1)
    let q := if h < r ∨ (r = h ∧ q % 2 = 1) then q + 1 else q
    { m := if m < 0 then -(q : Int) else q, e := e + k }

def F64.plus (x y : F64) : F64 := let low := min x.e y.e; b64 (x.scaled low + y.scaled low) low
def F64.minus (x y : F64) : F64 := x.plus { y with m := -y.m }
def F64.times (x : F64) (n : Nat) : F64 := b64 (x.m * n) x.e
/-- x × 2^-k. -/
def F64.shrink (x : F64) (k : Nat) : F64 := b64 x.m (x.e - k)
def F64.abs (x : F64) : F64 := { x with m := x.m.natAbs }

/-- A finite binary64 word as a number. -/
def F64.ofBits (w : W64) : F64 :=
  let ex := wbits w 62 52
  let m : Nat := wbits w 51 0 + if ex = 0 then 0 else 2 ^ 52
  { m := if w.getLsbD 63 then -(m : Int) else m, e := if ex = 0 then -1074 else (ex : Int) - 1075 }

/-- The word of a number at most 53 bits wide and inside the range. -/
def F64.toBits (x : F64) : W64 :=
  let n := x.m.natAbs
  if n = 0 then 0
  else
    let top : Int := n.log2 + x.e
    let sign := if x.m < 0 then 2 ^ 63 else 0
    let low : Int := max (top - 52) (-1074)
    let q := if low ≤ x.e then n * 2 ^ (x.e - low).toNat else n >>> (low - x.e).toNat
    BitVec.ofNat 64 (sign + (if q < 2 ^ 52 then q else (low + 1075).toNat <<< 52 + (q - 2 ^ 52)))

/-- A finite FP32 word as a number. -/
def F64.ofFp32 (w : W32) : F64 :=
  let ex := wbits w 30 23
  let m : Nat := wbits w 22 0 + if ex = 0 then 0 else 2 ^ 23
  { m := if w.getLsbD 31 then -(m : Int) else m, e := if ex = 0 then -149 else (ex : Int) - 150 }

/-- A finite FP32 value as a binary64 word, zero with its sign. -/
def widen (w : W32) : W64 :=
  let x := (F64.ofFp32 w).toBits
  if w.getLsbD 31 then x ||| BitVec.ofNat 64 (2 ^ 63) else x

/-! ### Anomalies and rollbacks (R629, R630) -/

/-- The FIRST_WM of the step that holds a waymark; the waymark itself where no step of the module does. -/
def State.stepOf (s : State) (w : Nat) : Nat :=
  match s.stepsSeen.find? (fun x => decide (x.1 ≤ w ∧ w ≤ x.2)) with
  | some x => x.1
  | none => w

/-- A rollback request: 1 NONFINITE, 2 TAINT_SPIKE, 3 SPIKE_RUN. -/
def State.rollback (s : State) (wm : Nat) (reason at' : Nat) : State :=
  let v : W64 := BitVec.ofNat 64 ((s.stepOf at') % 2 ^ 32 + reason <<< 32 + 1 <<< 34)
  let was := s.getF F.LKO_ROLLBACK_VALID 0
  let s := ((s.setReg ⟨.LKO, 0⟩ 0x0A8 v).rose ⟨.LKO, 0⟩ 0x0A8 F.LKO_ROLLBACK_VALID.bits).countWm C.LKO_ROLLBACKS 0 1 (BitVec.ofNat 32 wm)
  let s := if was == 0 then s.setIrq .LKO 0 1 else s
  s.raise (s.errRec 0x2502 3 true (BitVec.ofNat 32 wm) 0 .module 0 0 [v])

/-- The anomaly of a report: 1 NONFINITE, 2 SPIKE. -/
def State.anomaly (s : State) (wm x kind : Nat) : State :=
  let s := (s.countWm C.LKO_ANOMALIES 0 1 (BitVec.ofNat 32 wm)).setIrq .LKO 0 0
  s.raise (s.errRec 0x2501 1 true (BitVec.ofNat 32 wm) 0 .module 0 0
    [BitVec.ofNat 64 (wm + x <<< 32), s.reg ⟨.LKO, 0⟩ 0x098, s.reg ⟨.LKO, 0⟩ 0x0A0, BitVec.ofNat 64 kind])

/-- A spike: counted in its run, and a rollback is requested near a tainted waymark, or when the run reaches SPIKE_RUN. -/
def State.spike (s : State) (wm x : Nat) : State :=
  let s := s.anomaly wm x 2
  let s := { s with lkoSpikes := s.lkoSpikes + 1, spikeFirst := if s.lkoSpikes = 0 then BitVec.ofNat 32 wm else s.spikeFirst }
  let first := s.spikeFirst.toNat
  let window := s.getF F.LKO_CTL_WINDOW 0
  let taints := (s.tainted.map (fun t => t.1) ++ s.taintNamed).filter (fun t => decide (t ≤ wm ∧ wm ≤ t + window))
  match taints with
  | t :: r => s.rollback wm 2 (min first (r.foldl min t))
  | [] => if s.lkoSpikes == s.getF F.LKO_CTL_SPIKE_RUN 0 then s.rollback wm 3 first else s

/-- A report is counted, and LAST shows it. -/
def State.reported (s : State) (wm : Nat) (x : W32) : State :=
  (s.countWm C.LKO_REPORTS 0 1 (BitVec.ofNat 32 wm)).setReg ⟨.LKO, 0⟩ 0x0B0 (BitVec.ofNat 64 (wm + x.toNat <<< 32))

/-- A finite report lies above the band, once the warm-up is over. -/
def State.spikes (s : State) (x : W32) : Bool :=
  let m := F64.ofBits (s.reg ⟨.LKO, 0⟩ 0x098)
  let d := F64.ofBits (s.reg ⟨.LKO, 0⟩ 0x0A0)
  s.getF F.LKO_CTL_WARMUP 0 ≤ s.lkoN && (m.plus (d.times (s.getF F.LKO_CTL_Z 0))).lt (F64.ofFp32 x)

/-- Mean and deviation follow a finite report; the first one of a run sets them. -/
def State.follow (s : State) (x : W32) : State :=
  let v := F64.ofFp32 x
  let m := F64.ofBits (s.reg ⟨.LKO, 0⟩ 0x098)
  let d := F64.ofBits (s.reg ⟨.LKO, 0⟩ 0x0A0)
  let k := s.getF F.LKO_CTL_ALPHA_LOG2 0
  let diff := v.minus m
  let s := { s with lkoSpikes := 0, lkoN := s.lkoN + 1 }
  if s.lkoN = 1 then (s.setReg ⟨.LKO, 0⟩ 0x098 (widen x)).setReg ⟨.LKO, 0⟩ 0x0A0 0
  else (s.setReg ⟨.LKO, 0⟩ 0x098 (m.plus (diff.shrink k)).toBits).setReg ⟨.LKO, 0⟩ 0x0A0
    (d.plus ((diff.abs.minus d).shrink k)).toBits

/-- on report(x, wm) of R629. -/
def State.report (s : State) (wm : Nat) (x : W32) : State :=
  let s := s.reported wm x
  if wbits x 30 23 == 255 then (s.anomaly wm x.toNat 1).rollback wm 1 wm
  else if s.spikes x then s.spike wm x.toNat
  else s.follow x

/-! ### The loss ring (R628) -/

/-- The entry that the lookout reads next: nothing where it cannot be read; else its sequence number, node, waymark and report. -/
def State.ringEntry (s : State) : Option (Nat × Nat × Nat × W32) :=
  let addr := s.getF F.LKO_RING_ADDR 0 + 32 * (s.getF F.LKO_RING_SEQ_SEQ 0 % 2 ^ s.getF F.LKO_RING_LOG2_SIZE 0)
  let e := s.edgeBytes 0 addr 32
  let mark := s.burstMark 0 (addr / 64)
  if mark == .uncorr || mark == .poison then none else some (leAt e 0 8, leAt e 16 1, leAt e 8 4, BitVec.ofNat 32 (leAt e 12 4))

/-- An entry of another node: counted once for its sequence number and node. -/
def State.foreignEntry (s : State) (got node : Nat) : State :=
  let id := got + node <<< 64
  if s.losses == id then s
  else { s with losses := id }.countWm C.LKO_FOREIGN 0 1 (BitVec.ofNat 32 (s.getF F.LKO_LAST_WAYMARK 0))

/-- Entries that the ring has already overwritten are lost. -/
def State.lostEntries (s : State) (got : Nat) : State :=
  let size := 2 ^ s.getF F.LKO_RING_LOG2_SIZE 0
  (s.countWm C.LKO_LOST 0 (got - size + 1 - s.getF F.LKO_RING_SEQ_SEQ 0) (BitVec.ofNat 32 (s.getF F.LKO_LAST_WAYMARK 0))).setF
    F.LKO_RING_SEQ_SEQ 0 (got - size + 1)

/-- Entries read in order from LKO.RING_SEQ on. The number bounds them. -/
def State.readRing : Nat → State → State
  | 0, s => s
  | n + 1, s =>
    match s.ringEntry with
    | none => s
    | some (got, node, wm, x) =>
      let size := 2 ^ s.getF F.LKO_RING_LOG2_SIZE 0
      let seq := s.getF F.LKO_RING_SEQ_SEQ 0
      let want := s.getF F.LKO_RING_NODE 0
      if got < seq then s
      else if want != 0 && node != want then s.foreignEntry got node
      else if got == seq then State.readRing n ((s.report wm x).setF F.LKO_RING_SEQ_SEQ 0 (seq + 1))
      else if got % size == seq % size then State.readRing n (s.lostEntries got)
      else s

/-- LOOKOUT_POLL: every 1 ms the lookout reads the reports that have come. -/
def execLookoutPoll (s : State) : Host.Outcome State Fault Refusal :=
  .next (
    if s.getF F.LKO_CTL_EN 0 == 0 || !s.svcRuns then s else State.readRing (2 * 2 ^ s.getF F.LKO_RING_LOG2_SIZE 0) s)

end Sys2Proof.Machine
end

