-- ==== Sys2Proof/Machine/PassEnd.lean ====
section
/-!
DEFINITION. The ends of a pass as commands, with the parking of hot fields that follows. Spec:
06_passes_placement_backward (R300, R303), 12 (R560).
-/
namespace Sys2Proof.Machine

/-- The Service Engine cancels the streams and exchanges of the step that the pass belongs to (R303, R360). -/
def State.cancelPassStep (s : State) (p : Fin 2) : State :=
  match s.step with
  | some x => if x.holds (s.passWm p).toNat then s.cancelWork x else s
  | none => s

/-- PASS_ABORT: on the first cause the Array Engine enters ABORTING, notifies the peer, ABORT-drains the fields, and has
the step's streams and exchanges cancelled (R303).
`recent`: a cause of the same kind named the same tile within FLT.CHECK_CTL.RECUR_HOURS. -/
def execPassAbort (p : Fin 2) (recent : Bool) (s : State) : Host.Outcome State Fault Refusal :=
  .next (
    match decidingCause (s.causes.filter (fun (c : PassCause) => c.plane == p)) with
    | none => s
    | some c =>
      let s := { s with causes := s.causes.filter (fun (x : PassCause) => x.plane != p) }
      if !s.passLive p then s
      else ((((s.abortNoted p c).abortEnters p c).abortDrains p).cancelPassStep p).suspectTile c recent)

/-- PASS_COMPLETE: once every field is drained and no rate check has failed, the pass goes to COMPLETE, or to EXITING. -/
def execPassComplete (p : Fin 2) (s : State) : Host.Outcome State Fault Refusal :=
  .next ((s.completePass p).parkAfterPass p)

/-- PASS_FAILED: every field of the pass is drained; the tiles that refused take the field's epoch, and the PASS_RUN
completes FAILED. -/
def execPassFailed (p : Fin 2) (s : State) : Host.Outcome State Fault Refusal :=
  .next ((s.failPass p).parkAfterPass p)

end Sys2Proof.Machine
end

