-- ==== Sys2Proof/Machine/Startup.lean ====
section
/-!
DEFINITION. Resets, start-up and the rack control pins. Spec: 14_bringup_security_management (R639 to R649, R653, R656, R657,
R660, R664, R671, R672, R674), 00 (R17), 01 (R26, R29, R30), 11 (R503, R504, R531), 12 (R538, R551), 13 (R602 to R605).
-/
namespace Sys2Proof.Machine

/-! ### What a reset keeps (R639) -/

/-- The state that every reset leaves: fuses, the retained defect list, firmware banks, the management controller's log, what has
left the module, and the inputs. -/
def State.bare (s : State) : State :=
  let t : State := { State.reset with
    retained := s.retained, mlog := s.mlog, flash := s.flash, active := s.active, fresh := s.fresh, toActivate := s.toActivate
    unlockNext := s.unlockNext, hostOut := s.hostOut, fwIrq := s.fwIrq, wire := s.wire, mgmtOut := s.mgmtOut, debugOut := s.debugOut, bankOn := s.bankOn
    free := s.free, pending := s.pending }
  let t := ((t.setF F.SYS_STATE_BOOTS 0 (s.getF F.SYS_STATE_BOOTS 0)).setF F.SEC_STATE_DEBUG 0 (s.getF F.SEC_STATE_DEBUG 0)).setF
    F.SEC_STATE_TAMPER 0 (s.getF F.SEC_STATE_TAMPER 0)
  (List.range 4).foldl (fun t n => t.setF (F.SEC_STAGE_FUSE_SVN n) 0 (s.getF (F.SEC_STAGE_FUSE_SVN n) 0)) t

/-- What keeps running beside the planes: the management controller, the PCIe function and page HIF. -/
def State.bareUp (s : State) : State :=
  let t := s.bare
  { t with
    regs := putAll regDefault t.regs (s.regs.filter (fun e => e.1 / 4096 == regKey ⟨.HIF, 0⟩ 0 / 4096))
    msix := s.msix, d3hot := s.d3hot, doe := s.doe, hostHeld := s.hostHeld, subs := s.subs, refLost := s.refLost
    digests := s.digests.filter (fun e => e.1 == 1), mgmtStage := s.mgmtStage }

/-- The levels of the rack control pins as they stand. -/
def State.pinsOf (t s : State) : State :=
  (t.setF F.SYS_PINS_ENABLE 0 (s.getF F.SYS_PINS_ENABLE 0)).setF F.SYS_PINS_INTERLOCK 0 (s.getF F.SYS_PINS_INTERLOCK 0)

/-- A boot more. -/
def State.bootCount (t : State) : State := t.setF F.SYS_STATE_BOOTS 0 ((t.getF F.SYS_STATE_BOOTS 0 + 1) % 2 ^ 32)

/-- A self-test that was held or running is abandoned (R653). -/
def State.testAbandon (t s : State) : State :=
  if s.getF F.SYS_TEST_BUSY 0 == 1 then (t.setF F.SYS_TEST_RESULT 0 3).setIrq .SYS 0 2 else t

/-- A module reset: start-up goes on after step 1. Every step, pass, stream and exchange is lost (R640). -/
def State.moduleReset (s : State) : State :=
  let t := (s.bareUp.pinsOf s).bootCount
  let t := (t.setF F.SYS_STATE_STEP 0 1).setF F.DIR_COUNT_COUNT 0 4
  (t.testAbandon s).activateStages [0, 2, 3]

/-- A power-on reset. -/
def State.powerOn (s : State) : State := s.bare.bootCount.activateStages [0, 1, 2, 3]

/-! ### Power and REF (R538, R639, R646) -/

/-- POWER_LOSS: both banks have stayed out for 1 ms, and the module loses power. -/
def execPowerLoss (s : State) : Host.Outcome State Fault Refusal :=
  .next (if s.bankOn != 0 || s.dark == 1 then s else { s.bare with dark := 1 })

/-- An opening of the enclosure blows a tamper fuse; with power present it shows at once (R662). -/
def State.opening (s : State) (powered : Bool) : State :=
  let s := s.setF F.SEC_STATE_TAMPER 0 (min 7 (s.getF F.SEC_STATE_TAMPER 0 + 1))
  if !powered then s
  else
    let s := (s.setF F.SEC_STATE_TAMPER_NOW 0 1).setIrq .SEC 0 1
    s.note (s.errRec 0x2702 3 true s.runWm 0 .module 0 0 [s.reg ⟨.SEC, 0⟩ 0x080])

/-- POWER_ON_RESET: an input is back after a loss of power, or the auxiliary supply restarts after REF was lost. `cell`: the
backup cell is found exhausted, which counts as an opening. -/
def execPowerOnReset (cell : Bool) (s : State) : Host.Outcome State Fault Refusal :=
  .next (
    if s.bankOn != 0 && (s.dark == 1 || s.dark == 2) then
      let t := s.powerOn
      if cell then t.opening true else t
    else s)

/-- Start-up ends in FAILED, or the module does (R642, R646). -/
def State.startFail (s : State) (cause : Nat) : State :=
  let s := (s.setF F.SYS_STATE_STATE 0 4).setF F.SYS_STATE_FAIL_CAUSE 0 cause
  let s := (s.setErr .SYS 0 0).setIrq .SYS 0 3
  s.note (s.errRec 0x2605 4 true s.runWm 0 .module 0 0 [s.reg ⟨.SYS, 0⟩ 0x080])

/-- REF_FAILURE: both oscillators have failed, and power is removed. `third`: the third time within 10 minutes, after which the
module stays FAILED until both inputs have been removed and restored. -/
def execRefFailure (third : Bool) (s : State) : Host.Outcome State Fault Refusal :=
  .next (
    if s.dark != 0 then s
    else
      let r := s.errRec 0x2005 4 true s.runWm 0 .module 0 0 []
      let s := s.mgmtKeep (r.bytes s.logNext s.logOver)
      if third then { (s.bare).startFail 3 with dark := 3 } else { s.bare with dark := 2 })

/-! ### Module reset (R640, R667, R672) -/

/-- The management controller serves: its stage has verified (R642). -/
def State.mgmtUp (s : State) : Bool := s.dark == 0 && s.digests.any (fun e => e.1 == 1)

/-- An answer of the management controller: an HTTP status and content. -/
def State.answer (s : State) (status : Nat) (content : List Byte) : State := { s with mgmtOut := s.mgmtOut ++ [(status, content)] }

/-- MODULE_RESET: a register write of SYS.RESET, or the Redfish reset action, which only an Administrator may order. -/
def execModuleReset (redfish admin fw : Bool) (value : W64) (s : State) : Host.Outcome State Fault Refusal :=
  .next (
    if redfish then
      if !s.mgmtUp then s
      else if !admin then s.answer 403 []
      else if s.getF F.SYS_STATE_STATE 0 == 3 then s.answer 400 []
      else (s.moduleReset).answer 200 []
    else s.regWrite fw ⟨.SYS, 0⟩ 0x098 true value (wbits value 15 0 != 0x0A5C) (s.getF F.SYS_STATE_STATE 0 == 3)
      (fun s => if wbits value 16 16 == 1 then s.moduleReset else s))

/-- ACTIVATION_TIMEOUT: a newly activated bank has not become READY within 300 s. It is abandoned, and the module resets. -/
def execActivationTimeout (s : State) : Host.Outcome State Fault Refusal :=
  .next (
    if s.dark != 0 || s.getF F.SYS_STATE_STATE 0 == 1 || !s.fresh.any (fun e => e.2 == 1) then s
    else { s with fresh := s.fresh.map (fun (e : Nat × Nat) => (e.1, 2)) }.moduleReset)

/-! ### Steps 1 and 2: the security die and the firmware stages (R641, R656, R657, R660, R664) -/

/-- MGMT keeps running across a module reset: its registers show the image that runs, and M takes in its digest (R641, R657). -/
def State.mgmtRuns (s : State) : State :=
  let w := s.mgmtStage
  let s := ((s.setF (F.SEC_STAGE_SVN 1) 0 (wbits w 7 0)).setF (F.SEC_STAGE_BANK 1) 0 (wbits w 16 16)).setF (F.SEC_STAGE_VERSION 1) 0
    (wbits w 63 32)
  let s := s.setF (F.SEC_STAGE_PENDING 1) 0 (boolNat (s.toActivate.contains 1))
  let s := if wbits w 16 16 == s.activeBank 1 then s else s.setF F.SEC_STATE_FALLBACK 0 1
  s.measured 1 (look (fun _ => []) s.digests 1)

/-- The stages verified in order, up to one that has no bootable bank. -/
def State.verifyStages : List Nat → State → State × Bool
  | [], s => (s, true)
  | n :: r, s =>
    if n == 1 && s.digests.any (fun e => e.1 == 1) then State.verifyStages r s.mgmtRuns
    else
      let x := s.verifyStage n
      if x.2 then State.verifyStages r x.1 else x

/-- A boot that uses an unlock token. -/
def State.useToken (s : State) : State :=
  if !s.unlockNext then s
  else
    let s := { s with unlockNext := false }
    if s.getF F.SEC_STATE_DEBUG 0 != 1 then s
    else
      let s := s.setF F.SEC_STATE_UNLOCKED 0 1
      s.note (s.errRec 0x2704 1 true s.runWm 0 .module 0 0 [s.reg ⟨.SEC, 0⟩ 0x080])

def State.stepDone (s : State) (n : Nat) : State := s.setF F.SYS_STATE_STEP 0 n

/-- Step 2. `puf`: the PUF response can be reconstructed. -/
def State.bootStages (s : State) (puf : Bool) : State :=
  let x := State.verifyStages [0, 1, 2, 3] s
  if !x.2 then x.1.startFail 1
  else if !puf then x.1.startFail 2
  else x.1.useToken.stepDone 2

/-! ### Step 4: self-test (R643 to R645) -/

/-- Physical columns of a block at which the test of a field found a failing tile or router, one entry per tile. -/
def bistCols (t : FieldTest) (b : Nat) : List Nat :=
  (((t.tiles ++ t.routers).eraseDups).filter (fun q => q.1 / 32 == b / 4 && q.2 / 33 == b % 4)).map (fun q => q.2 % 33)

/-- The spared column of a block: the one with most failing tiles, the lowest on a tie, 32 where none fails. -/
def bistSpare (t : FieldTest) (b : Nat) : Nat :=
  let l := bistCols t b
  (List.range 33).foldl (fun d c => if l.count d < l.count c then c else d) (if l.isEmpty then 32 else 0)

/-- The logical tile at a physical place, where the spared columns leave one. -/
def logicalAt (spared : Nat → Nat) (row pcol : Nat) : Option Nat :=
  let b := row / 32 * 4 + pcol / 33
  let c := pcol % 33
  let d := spared b
  if 96 ≤ row ∨ 132 ≤ pcol ∨ c = d then none
  else some (128 * row + 32 * (pcol / 33) + (if c < d then c else c - 1))

/-- The fences that a test of a field leaves: bit 0 a tile, bit 1 its router. -/
def bistFences (t : FieldTest) (spared : Nat → Nat) : List (Nat × BitVec 2) :=
  let put' (m : List (Nat × BitVec 2)) (v : BitVec 2) (q : Nat × Nat) : List (Nat × BitVec 2) :=
    match logicalAt spared q.1 q.2 with
    | some k => put (fun _ => 0) m k (look (fun _ => 0#2) m k ||| v)
    | none => m
  t.routers.foldl (fun m q => put' m 3 q) (t.tiles.foldl (fun m q => put' m 1 q) [])

/-- The four words of a field record. -/
def State.recordWords (s : State) (f : FieldAddr) : List W64 :=
  (List.range 4).map (fun i => BitVec.ofNat 64 (leAt (s.fieldRecord f) (8 * i) 8))

/-- BIST of one field. -/
def State.bistField (s : State) (t : FieldTest) : State :=
  let spared := (List.range 12).foldl (fun m b => put (fun _ => 32) m b (bistSpare t b)) ([] : List (Nat × Nat))
  let fence := bistFences t (look (fun _ => 32) spared)
  let n := (fence.filter (fun e => e.2.getLsbD 0)).length
  let bad := t.dead || decide (1024 < n)
  let s := s.setField t.fld { s.fieldSt t.fld with spared := spared, fence := fence, ownFenced := n, retired := if bad then 1 else 0 }
  if bad then s.raise (s.errRec 0x2601 3 true s.runWm 0 (.field t.fld) 0 0 (s.recordWords t.fld)) else s

/-- A healthy field (R29). -/
def State.healthy (s : State) (f : FieldAddr) : Bool := (s.fieldSt f).retired == 0 && !(s.fieldSt f).lost

/-- Pairs of the cross-check: equal indexes, then the fields left over, lowest index first (R645). -/
def State.crossPairs (s : State) : List (FieldAddr × FieldAddr) :=
  let fs := List.finRange 60
  let both := fs.filter (fun f => s.healthy ⟨0, f⟩ && s.healthy ⟨1, f⟩)
  let left (p : Fin 2) : List FieldAddr := (fs.filter (fun f => s.healthy ⟨p, f⟩ && !both.contains f)).map (fun f => ⟨p, f⟩)
  both.map (fun f => (⟨0, f⟩, ⟨1, f⟩)) ++ (left 0).zip (left 1)

/-- A tile fenced by a self-test. -/
def State.testFence (s : State) (a : TileAddr) : State :=
  let x := s.fieldSt a.fld
  let old := look (fun _ => 0#2) x.fence a.loc
  if old.getLsbD 0 then s
  else s.setField a.fld { x with fence := put (fun _ => 0) x.fence a.loc (old ||| 1), ownFenced := x.ownFenced + 1 }

/-- A pair whose digests differ: the tiles that the referee faults are fenced. -/
def State.crossPair (s : State) (differ : List TileAddr) (p : FieldAddr × FieldAddr) : State :=
  let l := differ.filter (fun a => decide (a.fld = p.1 ∨ a.fld = p.2))
  if l.isEmpty then s
  else
    let s := l.foldl (fun s a => s.testFence a) s
    let s := s.setReg ⟨.CWY, 0⟩ 0x080 (BitVec.ofNat 64 (1 + p.1.field.val <<< 3 + (64 + p.2.field.val) <<< 11 + 1 <<< 21))
    s.raise (s.errRec 0x2602 3 true s.runWm 0 .module 0 0 ([0x080, 0x088, 0x090, 0x098, 0x0A0].map (fun o => s.reg ⟨.CWY, 0⟩ o)))

/-- Step 4: BIST of every field that a test names a defect of, then the cross-check of the pairs. -/
def State.selfTest (s : State) (tests : List FieldTest) (differ : List TileAddr) (ports : List Nat) : State :=
  let s := tests.foldl (fun s t => s.bistField t) s
  let s := s.crossPairs.foldl (fun s p => s.crossPair differ p) s
  { s with cwyFailed := ports }.stepDone 4

/-! ### Step 5: the defect map and the slots (R29, R602, R603, R615) -/

/-- An entry of the retained list takes effect. -/
def State.applyRetained (s : State) (e : Retained) : State :=
  match e.kind, (if h : e.plane < 2 ∧ e.index < 60 then some (⟨⟨e.plane, h.1⟩, ⟨e.index, h.2⟩⟩ : FieldAddr) else none) with
  | 1, some f | 2, some f =>
    let x := s.fieldSt f
    let k := 128 * e.row + e.col
    let old := look (fun _ => 0#2) x.fence k
    s.setField f { x with fence := put (fun _ => 0) x.fence k (old ||| (if e.kind = 2 then 3 else 1))
                          ownFenced := if old.getLsbD 0 then x.ownFenced else x.ownFenced + 1 }
  | 3, some f | 4, some f =>
    let x := s.fieldSt f
    if x.retired == 0 then s.setField f { x with retired := 7 } else s
  | _, _ => s

/-- Two fence maps together. -/
def fenceUnion (m n : List (Nat × BitVec 2)) : List (Nat × BitVec 2) :=
  n.foldl (fun m e => put (fun _ => 0) m e.1 (look (fun _ => 0#2) m e.1 ||| e.2)) m

/-- Tiles that a fence map fences. -/
def fenceCount (m : List (Nat × BitVec 2)) : Nat := (m.filter (fun e => e.2.getLsbD 0)).length

/-- Fields taken into the plane fence map in order, each one retired that would take it above 256 tiles. -/
def State.takeIn : List FieldAddr → List (Nat × BitVec 2) → State → State × List (Nat × BitVec 2)
  | [], m, s => (s, m)
  | f :: r, m, s =>
    let u := fenceUnion m (s.fieldSt f).fence
    if fenceCount u ≤ 256 then State.takeIn r u s
    else State.takeIn r m (s.setField f { s.fieldSt f with retired := 2 })

/-- A field put before the first of a list that has more tiles of its own fenced. -/
def State.takenBefore (s : State) (f : FieldAddr) : List FieldAddr → List FieldAddr
  | [] => [f]
  | g :: r => if (s.fieldSt f).ownFenced < (s.fieldSt g).ownFenced then f :: g :: r else g :: s.takenBefore f r

/-- The fields of a plane in order of their own fenced tiles, then of index. -/
def State.takingOrder (s : State) (p : Fin 2) : List FieldAddr :=
  let fs := ((List.finRange 60).map (fun f => (⟨p, f⟩ : FieldAddr))).filter s.healthy
  fs.foldl (fun l f => s.takenBefore f l) []

/-- The plane fence map formed and written, and the slots bound in ascending order; the fields left over are spares, in layby. -/
def State.bindPlane (s : State) (p : Fin 2) : State :=
  let x := State.takeIn (s.takingOrder p) [] s
  let fs := ((List.finRange 60).map (fun f => (⟨p, f⟩ : FieldAddr))).filter x.1.healthy
  let s := fs.foldl (fun s f => s.setField f { s.fieldSt f with fence := x.2 }) x.1
  let s := (fs.take 56).zipIdx.foldl (fun s e =>
    { s with slotOf := put (fun _ => 0) s.slotOf (56 * p.val + e.2) (e.1.field.val + 1) }) s
  (fs.drop 56).foldl (fun s f => s.setF F.FPW_STATE_POWER f.inst 2) s

/-- FLT.DMAP_BOOT0 to FLT.DMAP_BOOT3. -/
def State.bootDigest (s : State) : State :=
  let d := s.dmapDigest
  (List.range 4).foldl (fun s n => s.setF (F.FLT_DMAP_BOOT_V n) 0 (leAt d (8 * n) 8)) s

/-- Step 5. -/
def State.mergeMaps (s : State) : State :=
  let s := s.retained.foldl (fun s e => s.applyRetained e) s
  let s := ((s.bindPlane 0).bindPlane 1).selectAll
  (s.stepDone 5).bootDigest

/-! ### Step 6: edge memory and links (R503, R504, R522, R641) -/

/-- The stack that a retained entry names is retired (R603). -/
def State.stackRetained (s : State) (k : Nat) : Bool := s.retained.any (fun e => e.kind == 5 && 32 * e.plane + e.index == k)

/-- The stacks of a plane mapped: those that failed training, or that the retained list names, are left out. -/
def State.trainStacks (s : State) (p : Fin 2) (failed : List Nat) : State :=
  let up := (List.range 24).filter (fun n => !failed.contains (32 * p.val + n) && !s.stackRetained (32 * p.val + n))
  let s := (List.range 24).foldl (fun s n => s.setF F.HBM_STATE_STATE (32 * p.val + n) (if up.contains n then 2 else 3)) s
  let size := match up with | n :: _ => s.getF F.HBM_CAPACITY_BYTES (32 * p.val + n) | [] => 0
  let s := s.setF F.EMP_STACK_MAP_IN_MAP p (up.foldl (fun m n => m + 2 ^ n) 0)
  (s.setF F.EMP_CAPACITY_BYTES p (up.length * size - 2 ^ 30)).setF F.EMP_CAPACITY_STACKS p up.length

/-- Step 6: `failed` stacks did not train; the ports, the bridge and PCIe train. `link` is HIF.LINK as PCIe trains. -/
def State.trainLinks (s : State) (failed : List Nat) (link : W64) : State :=
  let s := (s.trainStacks 0 failed).trainStacks 1 failed
  let s := (List.range 64).foldl (fun s l => s.setF F.VPT_STATE_STATE l 1) s
  let s := ({ s with bridgeTrain := List.range 16 }.setF F.BRG_SIDEBAND_P0_TO_P1 0 1).setF F.BRG_SIDEBAND_P1_TO_P0 0 1
  let s := if s.reg ⟨.HIF, 0⟩ 0x080 == 0 then s.setReg ⟨.HIF, 0⟩ 0x080 (BitVec.ofNat 64 (wbits link 9 0)) else s
  s.stepDone 6

/-! ### Step 7 (R531, R641) -/

/-- The two sums of unavailable time: how many ms an interval has added is a free value (R631, assumption 81). -/
def State.addUnavail (s : State) : State :=
  let s := (s.freeBits 32).2.setF F.FLT_UNAVAIL_INT_MS_V 0 (s.getF F.FLT_UNAVAIL_INT_MS_V 0 + (s.freeBits 32).1.toNat)
  (s.freeBits 32).2.setF F.FLT_UNAVAIL_EXT_MS_V 0 (s.getF F.FLT_UNAVAIL_EXT_MS_V 0 + (s.freeBits 32).1.toNat)

/-- Step 7: the directory is fixed and the module is ready, `secs` after the reset. -/
def State.makeReady (s : State) (secs : Nat) : State :=
  let s := ((s.publishPlane 0).publishPlane 1).setF F.DIR_COUNT_COUNT 0 directory.length
  let s := ((s.stepDone 7).setF F.SYS_STATE_STATE 0 1).setF F.SYS_STATE_START_S 0 (min 65535 secs)
  let s := { s with fresh := s.fresh.filter (fun e => e.2 != 1) }
  s.addUnavail.bootDigest.setIrq .SYS 0 0

/-- STARTUP_STEP: the next start-up step completes. `ok`: the ROM's self-test (step 1), the PUF response (step 2); `tests`,
`differ`, `ports`: defects that BIST and the cross-check find and causeway ports that fail PRBS (step 4); `badStacks`, `link`: stacks
that fail training and the PCIe link (step 6); `secs`: seconds since the reset (step 7). Step 3 waits for RC_ENABLE. -/
def execStartupStep (ok : Bool) (tests : List FieldTest) (differ : List TileAddr) (ports badStacks : List Nat) (link : W64) (secs : Nat)
    (s : State) : Host.Outcome State Fault Refusal :=
  .next (
    if s.dark != 0 || s.getF F.SYS_STATE_STATE 0 != 0 then s
    else
      match s.getF F.SYS_STATE_STEP 0 with
      | 0 => if ok then s.stepDone 1 else s.startFail 4
      | 1 => s.bootStages ok
      | 2 => if s.getF F.SYS_PINS_ENABLE 0 == 1 then s.stepDone 3 else s
      | 3 => s.selfTest tests differ ports
      | 4 => s.mergeMaps
      | 5 => s.trainLinks badStacks link
      | 6 => s.makeReady secs
      | _ => s)

/-! ### Rack control pins (R647 to R649) -/

/-- A PIN record. -/
def State.pinRecord (s : State) (sev : Nat) : State :=
  s.mgmtKeep ((s.errRec 0x2603 sev true s.runWm 0 .module 0 0 [s.reg ⟨.SYS, 0⟩ 0x088]).bytes 0 false)

/-- A filtered change of a pin. -/
def State.pinSet (s : State) (pin : Fld) (v : Nat) : State := (s.setF pin 0 v).setIrq .SYS 0 1

/-- Load power is gone, with everything that the planes held; pages HIF, SYS and SEC and what they show stay. -/
def State.unload (s : State) : State :=
  let t := s.bareUp
  { t with
    regs := putAll regDefault t.regs (s.regs.filter (fun e => [PageType.HIF, .SYS, .SEC].any (fun y =>
      e.1 / 4096 == regKey ⟨y, 0⟩ 0 / 4096)))
    digests := s.digests, measure := s.measure, nonce := s.nonce }

/-- Page PWR and what stands behind it, as another state has it. -/
def State.powerOf (t s : State) : State :=
  { t with
    regs := putAll regDefault t.regs (s.regs.filter (fun e => e.1 / 4096 == regKey ⟨.PWR, 0⟩ 0 / 4096))
    capBelow := s.capBelow, limQuiet := s.limQuiet, coolCap := s.coolCap, coolLow := s.coolLow, coolWait := s.coolWait }

/-- RC_ENABLE_LOW: in READY the open step is aborted and everything goes to sleep; in start-up the step in progress is abandoned
and the module waits in step 2. -/
def execRcEnableLow (s : State) : Host.Outcome State Fault Refusal :=
  .next (
    if s.dark != 0 || s.getF F.SYS_PINS_ENABLE 0 == 0 then s
    else
      let s : State := s.pinSet F.SYS_PINS_ENABLE 0
      match s.getF F.SYS_STATE_STATE 0 with
      | 1 =>
        let s := s.abortStep
        { s with sleeping := true }
      | 0 => if s.getF F.SYS_STATE_STEP 0 < 2 then s
        else
          ((s.unload.stepDone 2).powerOf s).pinRecord 1
      | _ => s)

/-- What RC_ENABLE put to sleep wakes. -/
def State.wakeAll (s : State) : State :=
  let s := allFields.foldl (fun s f => if (s.fieldSt f).slept then s.startWake f else s) s
  let s := if s.sleptBridge then s.setF F.PWR_BRIDGE_STATE 0 2 else s
  s.readyAgain

/-- RC_ENABLE_HIGH: what RC_ENABLE put to sleep wakes, or start-up may go on with step 3. -/
def execRcEnableHigh (s : State) : Host.Outcome State Fault Refusal :=
  .next (
    if s.dark != 0 || s.getF F.SYS_PINS_ENABLE 0 == 1 then s
    else
      let s := s.pinSet F.SYS_PINS_ENABLE 1
      if s.getF F.SYS_STATE_STATE 0 == 1 || s.getF F.SYS_STATE_STATE 0 == 2 then
        { s with sleeping := s.sleeping && s.getF F.PWR_COOL_STATE 0 == 3 }.wakeAll
      else s)

/-- RC_INTERLOCK_LOW: every field power stage opens, and the module waits in RESETTING. -/
def execRcInterlockLow (s : State) : Host.Outcome State Fault Refusal :=
  .next (
    if s.dark != 0 || s.getF F.SYS_PINS_INTERLOCK 0 == 0 then s
    else
      let s := s.pinSet F.SYS_PINS_INTERLOCK 0
      if s.getF F.SYS_STATE_STATE 0 == 4 then s
      else
        let t := s.unload.setF F.SYS_STATE_STATE 0 3
        let t := t.setF F.DIR_COUNT_COUNT 0 4
        let t := if s.getF F.SYS_TEST_BUSY 0 == 1 then
            (((t.setF F.SYS_TEST_BUSY 0 0).setF F.SYS_TEST_HELD 0 0).setF F.SYS_TEST_RESULT 0 3).setIrq .SYS 0 2
          else t
        t.pinRecord 2)

/-- RC_INTERLOCK_HIGH: the interlock is closed again, and a module reset follows. -/
def execRcInterlockHigh (s : State) : Host.Outcome State Fault Refusal :=
  .next (
    if s.dark != 0 || s.getF F.SYS_PINS_INTERLOCK 0 == 1 then s
    else
      let s := s.pinSet F.SYS_PINS_INTERLOCK 1
      if s.getF F.SYS_STATE_STATE 0 == 3 then s.moduleReset else s)

/-- PIN_GLITCH: a pulse shorter than the glitch filter is counted and latched. -/
def execPinGlitch (interlock : Bool) (s : State) : Host.Outcome State Fault Refusal :=
  .next (
    if s.dark != 0 then s
    else (s.count C.SYS_PIN_GLITCHES 0 1).raiseF (if interlock then F.SYS_PINS_INTERLOCK_GLITCH else F.SYS_PINS_ENABLE_GLITCH) 0)

end Sys2Proof.Machine
end

