-- ==== Sys2Proof/Machine/SelfTest.lean ====
section
/-!
DEFINITION. Self-tests in service: SYS.TEST. Spec: 14_bringup_security_management (R650 to R653, R671, R673, R674).
-/
namespace Sys2Proof.Machine

/-! ### Targets (R650, R673) -/

/-- The partner of a field of plane 0 in a cross-check (R645). -/
def State.crossPartner (s : State) (f : FieldAddr) : Option FieldAddr := (s.crossPairs.find? (fun p => decide (p.1 = f))).map (·.2)

/-- The field that SYS.TEST_ARG names. -/
def State.testField (s : State) : FieldAddr :=
  ⟨if s.getF F.SYS_TEST_ARG_PLANE 0 = 0 then 0 else 1, ⟨s.getF F.SYS_TEST_ARG_FIELD 0 % 60, Nat.mod_lt _ (by omega)⟩⟩

/-- The fields that an operation works on. -/
def State.testFields (s : State) (op : Nat) : List FieldAddr :=
  match op with
  | 0 => [s.testField]
  | 1 => (match s.crossPartner s.testField with | some g => [s.testField, g] | none => [])
  | _ => []

/-- SYS.TEST_ARG names something outside the operation's target. -/
def State.testRange (s : State) (op : Nat) : Bool :=
  let a := s.getF F.SYS_TEST_ARG_PORT_A 0
  let b := s.getF F.SYS_TEST_ARG_PORT_B 0
  match op with
  | 0 => decide (59 < s.getF F.SYS_TEST_ARG_FIELD 0)
  | 1 => s.getF F.SYS_TEST_ARG_PLANE 0 != 0 || (s.crossPartner s.testField).isNone
  | 2 => decide (63 < a)
  | 3 => false
  | _ => !cwyPort a || !cwyPort b || a == b

/-- A field keeps a test waiting: it is assigned while a step is open, or belongs to a pass of its plane (R651). -/
def State.testBlocked (s : State) (f : FieldAddr) : Bool :=
  ((s.slotOfField f).isSome && s.step.isSome) || (s.passLive f.plane && s.getF F.PAS_RUN_IN_PASS f.inst == 1)

/-- Causeway ports powered by the command in progress (R494). -/
def State.cwyPowered (s : State) : Nat := if s.getF F.CWY_CMD_BUSY 0 == 1 then 2 else 0

/-! ### Running (R650, R651) -/

/-- A request ends. -/
def State.testEnd (s : State) (result : Nat) : State :=
  let s := ((s.setF F.SYS_TEST_BUSY 0 0).setF F.SYS_TEST_HELD 0 0).setF F.SYS_TEST_RESULT 0 result
  { s with testRef := none }.setIrq .SYS 0 2

/-- The banks of every tile of a field are cleared by its test. -/
def State.wipeBanks (s : State) (f : FieldAddr) : State :=
  ((fieldTiles f).foldl (fun s a =>
    let t := s.tile a
    s.setTile a { t with near := [], deep := [], ecc := [], wb := [], gather := [] }) s)

/-- A test runs from now on. -/
def State.testRun (s : State) (op : Nat) : State :=
  let fs := s.testFields op
  let s := ((s.setF F.SYS_TEST_BUSY 0 1).setF F.SYS_TEST_HELD 0 0).count C.SYS_TESTS_RUN 0 1
  let key (o : Option FieldAddr) : Nat := match o with | some f => f.inst + 1 | none => 0
  fs.foldl (fun s f => s.wipeBanks f) { s with testRef := some (key fs[0]?, key fs[1]?) }

/-- A request: refused, ended at once, held, or started. -/
def State.testSubmit (s : State) (op : Nat) (nowait : Bool) : State :=
  if s.getF F.SYS_STATE_STATE 0 != 1 then s.testEnd 4
  else if (s.testFields op).any (fun f => s.testBlocked f) then
    if nowait then (s.count C.SYS_TESTS_BUSY 0 1).testEnd 2
    else ((s.setF F.SYS_TEST_BUSY 0 1).setF F.SYS_TEST_HELD 0 1).count C.SYS_TESTS_HELD 0 1
  else if op == 4 && decide (32 ≤ s.cwyPowered) then (s.count C.SYS_TESTS_BUSY 0 1).testEnd 2
  else s.testRun op

/-- A write of SYS.TEST. -/
def State.testWrite (s : State) (fw : Bool) (value : W64) : State :=
  let go := wbits value 4 4 == 1
  s.regWrite fw ⟨.SYS, 0⟩ 0x0A0 true value (go && s.testRange (wbits value 2 0)) (s.getF F.SYS_TEST_BUSY 0 == 1)
    (fun s => if go then s.testSubmit (wbits value 2 0) (wbits value 3 3 == 1) else s)

/-- The write carries GO and the operation. -/
def testIs (value : W64) (op : Nat) : Bool := wbits value 4 4 == 1 && wbits value 2 0 == op

/-- FIELD_BIST: a write of SYS.TEST; `fw` marks service firmware and the management controller's Redfish test action. -/
def execFieldBist (fw : Bool) (value : W64) (s : State) : Host.Outcome State Fault Refusal :=
  .next (if testIs value 0 then s.testWrite fw value else s)

/-- CROSSCHECK: a write of SYS.TEST. -/
def execTestCrosscheck (fw : Bool) (value : W64) (s : State) : Host.Outcome State Fault Refusal :=
  .next (if testIs value 1 then s.testWrite fw value else s)

/-- VOLINO_CAL: a write of SYS.TEST. -/
def execVolinoCal (fw : Bool) (value : W64) (s : State) : Host.Outcome State Fault Refusal :=
  .next (if testIs value 2 then s.testWrite fw value else s)

/-- BRIDGE_CAL: a write of SYS.TEST. -/
def execBridgeCal (fw : Bool) (value : W64) (s : State) : Host.Outcome State Fault Refusal :=
  .next (if testIs value 3 then s.testWrite fw value else s)

/-- CAUSEWAY_TEST: a write of SYS.TEST. -/
def execCausewayTest (fw : Bool) (value : W64) (s : State) : Host.Outcome State Fault Refusal :=
  .next (if testIs value 4 then s.testWrite fw value else s)

/-- HELD_TEST_START: the step and the pass that kept a request waiting have ended. -/
def execHeldTestStart (s : State) : Host.Outcome State Fault Refusal :=
  .next (
    let op := s.getF F.SYS_TEST_OP 0
    if s.getF F.SYS_TEST_HELD 0 != 1 || (s.testFields op).any (fun f => s.testBlocked f) then s else s.testRun op)

/-! ### The end (R652) -/

/-- The fields that the running test works on. -/
def State.testedFields (s : State) : List FieldAddr :=
  match s.testRef with
  | some (x, y) => allFields.filter (fun f => f.inst + 1 == x || f.inst + 1 == y)
  | none => []

/-- Tiles that the test fences and the plane fence map does not hold, each with whether its router fails. -/
def State.testNew (s : State) (fs : List FieldAddr) (tests : List FieldTest) (differ : List TileAddr) : List (TileAddr × Bool) :=
  let found := tests.flatMap (fun t => if !fs.contains t.fld then []
    else
      let m := bistFences t (s.fieldSt t.fld).sparedOf
      ((fieldTiles t.fld).filter (fun a => look (fun _ => 0#2) m a.loc != 0)).map (fun a => (a, (look (fun _ => 0#2) m a.loc).getLsbD 1)))
  let other := (differ.filter (fun a => fs.contains a.fld)).map (fun a => (a, false))
  (found ++ other).filter (fun e => !s.tileFenced e.1 || (e.2 && !s.routerFenced e.1))

/-- TEST_COMPLETE: the running self-test ends. `tests` and `differ` are what BIST and a cross-check find; `fail`: a calibration or a
causeway test fails; `errors`, `bytes`: bit errors and bytes of a causeway test. -/
def execTestComplete (tests : List FieldTest) (differ : List TileAddr) (fail : Bool) (errors bytes : Nat) (s : State) :
    Host.Outcome State Fault Refusal :=
  .next (
    if s.testRef.isNone || s.getF F.SYS_TEST_BUSY 0 != 1 || s.dark != 0 then s
    else
      let op := s.getF F.SYS_TEST_OP 0
      let fs := s.testedFields
      let s := fs.foldl (fun s f => s.mirrorRestore f) s
      let new := s.testNew fs (if op == 0 then tests else []) (if op == 1 then differ else [])
      let dead := if op == 0 then (tests.filter (fun t => t.dead && fs.contains t.fld)).map (·.fld) else []
      let s := new.foldl (fun s e => s.condemn e.1 e.2 0x2604 s.runWm) s
      let s := dead.foldl (fun s f => s.retireBound f 1 0x2604 none) s
      let s := if op == 4 then (s.count C.CWY_BIT_ERRORS 0 errors).count C.CWY_BYTES 0 bytes else s
      let bad := if op ≤ 1 then !new.isEmpty || !dead.isEmpty else fail
      let s := s.testEnd (boolNat bad)
      s.raise (s.errRec 0x2604 (if bad then 3 else 0) true s.runWm 0 .module 0 0 [s.reg ⟨.SYS, 0⟩ 0x0A0, s.reg ⟨.SYS, 0⟩ 0x0A8]))

end Sys2Proof.Machine
end

