-- ==== Sys2Proof/Machine/Security.lean ====
section
/-!
DEFINITION. The security die and the management controller: attestation, DOE, debug, tamper, Redfish and PLDM. Spec:
14_bringup_security_management (R656, R659 to R669, R675, R676), 11 (R523), 12 (R571, R574).
-/
namespace Sys2Proof.Machine

/-! ### Identity and attestation (R660, R665) -/

/-- The seed of the identity key pair of this boot. -/
def State.identitySeed (s : State) : List Byte :=
  sha3 (bytesAt Config.fusedSeed 0 32 ++ bytesAt Config.pufResponse 0 32 ++ leBytes 1 (s.getF F.SEC_STATE_UNLOCKED 0))

/-- The identity public key. -/
def State.identityKey (s : State) : List Byte := bytesAt (Config.mlDsaPublic s.identitySeed) 0 1312

/-- The identity key has been derived in this boot (R641). -/
def State.identityUp (s : State) : Bool := s.dark == 0 && decide (2 ≤ s.getF F.SYS_STATE_STEP 0)

/-- FLAGS of a report. -/
def State.reportFlags (s : State) : Nat :=
  s.getF F.SEC_STATE_DEBUG 0 + s.getF F.SEC_STATE_UNLOCKED 0 <<< 2 + s.getF F.SEC_STATE_TAMPER 0 <<< 3 +
    s.getF F.SEC_STATE_TAMPER_NOW 0 <<< 6 + s.getF F.SEC_STATE_FALLBACK 0 <<< 7 + boolNat (s.getF F.SYS_STATE_STATE 0 == 1) <<< 8

/-- The record of a stage. -/
def State.stageRecord (s : State) (n : Nat) : List Byte :=
  leBytes 1 n ++ leBytes 1 (s.getF (F.SEC_STAGE_BANK n) 0) ++ leBytes 1 (s.getF (F.SEC_STAGE_SVN n) 0) ++
    leBytes 1 (s.getF (F.SEC_STAGE_FUSE_SVN n) 0) ++ leBytes 4 (s.getF (F.SEC_STAGE_VERSION n) 0) ++ List.replicate 8 0 ++
    bytesAt (look (fun _ => []) s.digests n) 0 32

/-- Bytes 0 to 447 of a report for a nonce. -/
def State.reportBody (s : State) (nonce : List Byte) : List Byte :=
  leBytes 8 0x5453545441574B53 ++ leBytes 4 1 ++ leBytes 4 2868 ++ bytesAt nonce 0 32 ++ sha3 s.identityKey ++
    leBytes 8 (s.getF F.SYS_STATE_BOOTS 0) ++ leBytes 4 s.reportFlags ++ leBytes 4 0 ++
    bytesAt (Config.fuseDigest (s.getF F.SEC_STATE_DEBUG 0) ((List.range 4).map (fun n => s.getF (F.SEC_STAGE_FUSE_SVN n) 0))
      (s.getF F.SEC_STATE_TAMPER 0)) 0 32 ++
    (List.range 4).flatMap (fun n => s.stageRecord n) ++
    (List.range 4).flatMap (fun n => leBytes 8 (s.getF (F.FLT_DMAP_BOOT_V n) 0)) ++ s.dmapDigest ++ bytesAt s.measure 0 32 ++
    List.replicate 32 0

/-- An attestation report. -/
def State.attest (s : State) (nonce : List Byte) : List Byte :=
  let b := s.reportBody nonce
  b ++ bytesAt (Config.mlDsaSign s.identitySeed b) 0 2420

/-! ### DOE (R523, R666) -/

/-- A response object in the mailbox, which the host reads there. -/
def State.doeAnswer (s : State) (b : List Byte) : State := { s with doe := b }

/-- A response without content. -/
def State.doeStatus (s : State) (code status : Nat) : State :=
  s.doeAnswer (leBytes 1 (code % 128 + 128) ++ leBytes 1 status ++ leBytes 2 0)

/-- DOE_DISCOVERY: the discovery protocol itself at index 0, Holtide's object at index 1. -/
def execDoeDiscovery (index : Nat) (s : State) : Host.Outcome State Fault Refusal :=
  .next (
    if s.dark != 0 then s
    else
      match index with
      | 0 => s.doeAnswer (leBytes 2 1 ++ leBytes 1 0 ++ leBytes 1 1)
      | 1 => s.doeAnswer (leBytes 2 Config.vendorId.toNat ++ leBytes 1 1 ++ leBytes 1 0)
      | _ => s.doeAnswer (leBytes 2 0xFFFF ++ leBytes 1 0 ++ leBytes 1 0))

/-- DOE_ABORT: the object in progress is discarded. -/
def execDoeAbort (s : State) : Host.Outcome State Fault Refusal := .next { s with doe := [] }

/-- GET_REPORT: a request of Holtide's object type with another code than GET_CERTS; `busy`: another report is being signed. -/
def execGetReport (request : List Byte) (busy : Bool) (s : State) : Host.Outcome State Fault Refusal :=
  .next (
    let code := leAt request 0 1
    if s.dark != 0 || code == 2 then s
    else if code != 1 || request.length != 36 || leAt request 1 3 != 0 then s.doeStatus code 1
    else if busy || !s.identityUp then s.doeStatus code 2
    else
      (s.count C.SEC_REPORTS 0 1).doeAnswer (leBytes 1 0x81 ++ leBytes 3 0 ++ s.attest (bytesAt request 4 32)))

/-- GET_CERTS: a request for bytes of the certificate chain. -/
def execGetCerts (request : List Byte) (s : State) : Host.Outcome State Fault Refusal :=
  .next (
    let len := leAt request 8 4
    if s.dark != 0 || leAt request 0 1 != 2 then s
    else if request.length != 12 || leAt request 1 3 != 0 || len == 0 || decide (61440 < len) then s.doeStatus 2 1
    else s.doeAnswer (leBytes 1 0x82 ++ leBytes 3 0 ++ leBytes 4 Config.certChain.length ++
      (Config.certChain.drop (leAt request 4 4)).take len))

/-! ### Tamper and debug (R662 to R664) -/

/-- ENCLOSURE_OPENING: an opening blows a tamper fuse, with power present or absent. -/
def execEnclosureOpening (s : State) : Host.Outcome State Fault Refusal := .next (s.opening (s.dark == 0))

/-- What the debug port gives to an access: 0 nothing, 1 identification, 2 full access. -/
def State.debugAccess (s : State) : Nat :=
  match s.getF F.SEC_STATE_DEBUG 0 with
  | 0 => 2
  | 1 => if s.getF F.SEC_STATE_UNLOCKED 0 == 1 then 2 else 1
  | _ => 0

/-- DEBUG_PORT_ACCESS: the port grants what its fused state and the unlock give. -/
def execDebugPortAccess (s : State) : Host.Outcome State Fault Refusal :=
  .next (if s.dark != 0 || s.debugAccess == 0 then s else { s with debugOut := s.debugOut ++ [s.debugAccess] })

/-- DEBUG_UNLOCK: the Redfish unlock action of an Administrator. Without a token it returns a nonce, a free value (assumption 11);
an accepted token unlocks the next boot. -/
def execDebugUnlock (admin : Bool) (token : List Byte) (s : State) : Host.Outcome State Fault Refusal :=
  .next (
    if !s.mgmtUp then s
    else if !admin then s.answer 403 []
    else if s.getF F.SEC_STATE_DEBUG 0 != 1 then s.answer 400 []
    else if token.isEmpty then
      let f := s.freeBits 256
      let n := leBytes 32 f.1.toNat
      { f.2 with nonce := some n }.answer 200 n
    else
      match s.nonce with
      | none => s.answer 400 []
      | some n =>
        if Config.mlDsaVerify Config.debugKey (sha3 (s.identityKey ++ n)) token then
          { s with nonce := none, unlockNext := true }.answer 200 []
        else s.answer 400 [])

/-- SEAL: a write of SEC.DEBUG_CTL, or the Redfish seal action of an Administrator. -/
def execSealFuse (redfish admin fw : Bool) (value : W64) (s : State) : Host.Outcome State Fault Refusal :=
  .next (
    let opened := s.getF F.SEC_STATE_DEBUG 0 == 0
    if redfish then
      if !s.mgmtUp then s
      else if !admin then s.answer 403 []
      else if opened then s.answer 400 []
      else (s.setF F.SEC_STATE_DEBUG 0 2).answer 200 []
    else
      s.regWrite fw ⟨.SEC, 0⟩ 0x0B8 true value (wbits value 31 16 != 0x5EA1) (wbits value 0 0 == 1 && opened)
        (fun s => if wbits value 0 0 == 1 then s.setF F.SEC_STATE_DEBUG 0 2 else s))

/-! ### Redfish (R667, R668) -/

/-- POWERCAP_SET: PowerCap.SetPoint in W, by an Operator. -/
def execPowercapSet (operator : Bool) (watts : Nat) (s : State) : Host.Outcome State Fault Refusal :=
  .next (
    if !s.mgmtUp then s
    else if !operator then s.answer 403 []
    else if watts < 12000 || 38000 < watts then s.answer 400 []
    else ((s.setF F.PWR_CAP_RACK_CAP 0 watts).recap).answer 200 [])

/-- The management controller stops: its subscriptions and its part of the measurement go. -/
def State.mgmtDown (s : State) : State := { s with subs := [], digests := s.digests.filter (fun e => e.1 != 1) }

/-- An activation of the MGMT stage that waits is acted on. -/
def State.mgmtActivate (s : State) : State :=
  if s.toActivate.contains 1 then ((s.activateStages [1]).setF (F.SEC_STAGE_PENDING 1) 0 0).setF (F.SEC_STAGE_STAGED 1) 0 0 else s

/-- The stage boots: the measurement stays as the module's boot made it. -/
def State.mgmtBoot (s : State) : State :=
  let t := (s.verifyStage 1).1
  { t with measure := s.measure
           fresh := if t.getF F.SYS_STATE_STATE 0 == 1 then t.fresh.filter (fun e => e.1 != 1 || e.2 == 2) else t.fresh }

/-- MANAGER_RESET: the management controller resets, which verifies MGMT; its sessions and subscriptions end. -/
def execManagerReset (admin : Bool) (s : State) : Host.Outcome State Fault Refusal :=
  .next (
    if !s.mgmtUp then s
    else if !admin then s.answer 403 []
    else (s.answer 200 []).mgmtDown.mgmtActivate.mgmtBoot)

/-- COMPONENT_INTEGRITY: a report for a nonce, or the certificate chain. -/
def execComponentIntegrity (certs : Bool) (nonce : List Byte) (s : State) : Host.Outcome State Fault Refusal :=
  .next (
    if !s.mgmtUp then s
    else if certs then s.answer 200 Config.certChain
    else if nonce.length != 32 || !s.identityUp then s.answer 400 []
    else (s.count C.SEC_REPORTS 0 1).answer 200 (s.attest nonce))

/-- UPDATE_PUSH: the UpdateService of an Administrator runs an operation of R659, STAGE on the image pushed. The answer's content is
RESULT. `fails`, `blown` as in COMMIT. -/
def execUpdatePush (admin : Bool) (op stage : Nat) (image : List Byte) (fails : Bool) (blown : Nat) (s : State) :
    Host.Outcome State Fault Refusal :=
  .next (
    if !s.mgmtUp then s
    else if !admin then s.answer 403 []
    else if 2 < op || 3 < stage then s.answer 400 []
    else
      let s := s.fwOp op stage image true fails blown
      let r := s.getF F.SEC_FW_CMD_RESULT 0
      s.answer (if r == 0 then 200 else 400) (leBytes 1 r))

/-- EVENT_SUBSCRIPTION: an Administrator adds or removes a push subscription, of which there are at most 8. -/
def execEventSubscription (admin add : Bool) (id : Nat) (s : State) : Host.Outcome State Fault Refusal :=
  .next (
    if !s.mgmtUp then s
    else if !admin then s.answer 403 []
    else if add then
      if 8 ≤ s.subs.length || s.subs.contains id then s.answer 400 [] else { s with subs := s.subs ++ [id] }.answer 200 []
    else if s.subs.contains id then { s with subs := s.subs.filter (· != id) }.answer 200 []
    else s.answer 404 [])

/-! ### PLDM (R669) -/

/-- PLDM types that the module supports: 0 discovery, 2 platform monitoring, 4 FRU data. -/
def pldmTypes : List Nat := [0, 2, 4]

/-- PLDM_REQUEST: a message over MCTP, from start-up step 6 on. The answer to a supported type is a free value (assumption 11); an
unsupported type is answered with the completion code of DSP0240. -/
def execPldmRequest (message : List Byte) (s : State) : Host.Outcome State Fault Refusal :=
  .next (
    if !s.mgmtUp || s.getF F.HIF_LINK_WIDTH 0 == 0 then s
    else if pldmTypes.contains (leAt message 1 1 % 64) then
      { s with free := s.free + 1, mgmtOut := s.mgmtOut ++ [(2, Config.pldmAnswer s.free message)] }
    else { s with mgmtOut := s.mgmtOut ++ [(2, leBytes 1 (leAt message 0 1 % 128) ++ bytesAt message 1 2 ++ leBytes 1 0x20)] })

end Sys2Proof.Machine
end

