-- ==== Sys2Proof/Machine/Registers.lean ====
section
/-!
DEFINITION. Register access as a whole: what a read shows, what a write of each register does, arriving snapshots, and the copy
of pages. Spec: 11_edge_memory_and_host (R517, R524, R526, R531 to R535), 08 (R400, R416), 10 (R481), 12 (R582, R587), 13 (R632 to
R637).
-/
namespace Sys2Proof.Machine

/-! ### Reads (R517, R531, R534) -/

/-- QSTAT.STATE as it stands. -/
def State.queueState (s : State) (e q : Nat) : Nat :=
  if s.stopped e q then 4
  else if !s.enabled e q then 0
  else if (s.queue e q).recs.any (fun (r : EngRec) => r.stage == .started || r.stage == .running) then 2
  else if (s.queue e q).head.isSome then 3
  else 1

/-- FLT.PLANE_STATE of a plane. -/
def State.planeStateWord (s : State) (p : Fin 2) : W64 :=
  let fs := (List.finRange 60).map (fun f => (⟨p, f⟩ : FieldAddr))
  let bound := (List.range 56).countP (fun n => (s.fieldOfSlot p n).isSome)
  let spares := fs.countP (fun f => s.isSpare f)
  let gone := fs.countP (fun f => !s.healthy f)
  BitVec.ofNat 64 (bound + (min 4 spares) <<< 6 + s.getF (F.FLT_PLANE_STATE_REPLACEABLE p.val) 0 <<< 9 + gone <<< 10 +
    (s.planeFence p).fenced <<< 16)

def plane01 (n : Nat) : Fin 2 := if n = 0 then 0 else 1

/-- What a register shows: its stored value, or what the module computes for it at the read. -/
def State.view (s : State) (p : Page) (off : Nat) : W64 :=
  let v := s.readReg p off
  if s.offline p || (p.spec off).isNone then v
  else
    match p.typ with
    | .ENG => if 0x100 ≤ off ∧ (off - 0x100) % 0x30 = 0x28 then setBits v 2 0 (s.queueState p.inst ((off - 0x100) / 0x30)) else v
    | .MLW => if 0x180 ≤ off ∧ off < 0x200 then s.arrMask (plane01 p.inst) ((off - 0x180) / 8) else v
    | .SEN =>
      if 0x300 ≤ off ∧ off < 0x340 then
        let g := (off - 0x300) / 8
        setBits (setBits v 10 0 (s.groupFrames (plane01 p.inst) g false)) 21 11 (s.groupFrames (plane01 p.inst) g true)
      else v
    | .VLX => if off = 0x088 then s.reg ⟨.VLX, 0⟩ 0x088 else v
    | .FLT =>
      if off = 0x0A8 then s.planeStateWord 0
      else if off = 0x0B0 then s.planeStateWord 1
      else if 0x200 ≤ off ∧ off < 0x220 then BitVec.ofNat 64 (leAt s.dmapDigest (off - 0x200) 8)
      else v
    | .DIR | .HIF | .BRG | .CWY | .AEN | .EMP | .HBM | .VPT | .MESH | .FEP | .ARF | .TSQ | .SPD | .PAS | .MRK | .PWR | .FPW | .FEN
    | .NRG | .LKO | .SYS | .SEC => v

/-- The directory as the module shows it: until it is ready after a module reset, the four pages that are served. -/
def State.dirWord (s : State) (i : Nat) : Nat :=
  let n := s.getF F.DIR_COUNT_COUNT 0
  if n ≤ i then 0
  else if n = 4 then dirEntry (match i with | 0 => 0 | 1 => 1 | 2 => 9 | _ => 10)
  else dirEntry i

/-- A word of BAR0: an aligned 8-byte read. -/
def State.barWord (s : State) (addr : Nat) : W64 :=
  if 0x1000 ≤ addr ∧ addr < 0x10000 then BitVec.ofNat 64 (s.dirWord ((addr - 0x1000) / 8))
  else if 0x3F00000 ≤ addr ∧ addr < 0x3F08000 then
    let e := s.msixEntry ((addr - 0x3F00000) / 16)
    if addr / 8 % 2 = 0 then e.addr else BitVec.ofNat 64 (e.data.toNat + boolNat e.masked <<< 32)
  else if 0x3F10000 ≤ addr ∧ addr < 0x3F10100 then
    BitVec.ofNat 64 ((List.range 64).foldl (fun m i => m + boolNat (s.msixEntry (8 * (addr - 0x3F10000) + i)).pending <<< i) 0)
  else
    match pageAt addr with
    | some p => if s.unserved p && s.dark != 0 then 0 else s.view p (addr % 4096)
    | none => 0

/-- A read of BAR0: 8 bytes or 4, aligned; none for any other, which ends as BAR0_BAD_READ. -/
def State.barRead (s : State) (addr size : Nat) : Option (List Byte) :=
  if size = 8 ∧ addr % 8 = 0 then some (leBytes 8 (s.barWord addr).toNat)
  else if size = 4 ∧ addr % 4 = 0 then some (bytesAt (leBytes 8 (s.barWord (addr / 8 * 8)).toNat) (addr % 8) 4)
  else none

/-! ### Writes of registers with rules of their own -/

/-- An exchange or a stream of the plane is open (R481). -/
def State.planeOpen (s : State) (p : Nat) : Bool :=
  s.ctxs.any (fun e => e.1 / 2 ^ 20 == p && e.2.live) || s.exchs.any (fun (x : Exch) => x.plane.val == p)

/-- The rules of one register's own: whether a value breaks an alignment, a sum or an order (RANGE), and whether the present state
refuses the write (STATE). -/
def State.ownRules (s : State) (p : Page) (off : Nat) (v : W64) : Bool × Bool :=
  let n := v.toNat
  match p.typ, off with
  | .HIF, 0x088 => (wbits v 47 30 % 2 ^ (s.getF F.HIF_BAR4_SIZE_LOG2 0 - 30) != 0, false)
  | .CWY, 0x088 | .CWY, 0x090 | .CWY, 0x098 | .CWY, 0x0A0 => (false, s.getF F.CWY_CMD_BUSY 0 == 1)
  | .VLX, 0x088 => (false, p.inst != 0 || s.planeOpen 0)
  | .VLX, 0x090 => (n % 4096 != 0 || (s.getF F.VLX_INWIN_SIZE_SIZE p.inst != 0 &&
      decide (s.edgeCapacity p.inst < n + s.getF F.VLX_INWIN_SIZE_SIZE p.inst)), s.planeOpen p.inst)
  | .VLX, 0x098 => (n % 4096 != 0 || (n != 0 && decide (s.edgeCapacity p.inst < s.getF F.VLX_INWIN_BASE_BASE p.inst + n)),
      s.planeOpen p.inst)
  | .VLX, 0x0A0 | .VLX, 0x0A8 | .VLX, 0x0B0 | .VLX, 0x0B8 | .VLX, 0x0C0 | .VLX, 0x0C8 | .VLX, 0x0D0 | .VLX, 0x0D8 =>
      (wbits v 32 32 == 1 && !decide (0x41 ≤ wbits v 31 24 ∧ wbits v 31 24 ≤ 0xFE), false)
  | .PWR, 0x0A8 => (!decide (wbits v 7 0 < wbits v 15 8 ∧ wbits v 15 8 < wbits v 23 16), false)
  | .FLT, 0x080 => (n % 4096 != 0, s.getF F.FLT_LOG_CFG_ENABLE 0 == 1)
  | .FLT, 0x088 => (false, s.getF F.FLT_LOG_CFG_ENABLE 0 == 1 && wbits v 6 0 != wbits (s.reg p 0x088) 6 0)
  | .FLT, 0x098 => (decide (wbits v 5 1 < wbits v 10 6), false)
  | .FLT, 0x0C0 => (n % 4096 != 0 || (n != 0 && decide (s.edgeCapacity 0 ≤ n)), s.step.isSome)
  | .FLT, 0x0D0 => (n % 4096 != 0 || (n != 0 && decide (s.edgeCapacity 1 ≤ n)), s.step.isSome)
  | .FLT, 0x0C8 | .FLT, 0x0D8 => (false, s.step.isSome)
  | .LKO, 0x088 => (wbits v 47 0 % 4096 != 0 || !(wbits v 60 53 == 0 || decide (0x41 ≤ wbits v 60 53 ∧ wbits v 60 53 ≤ 0xFE)),
      s.getF F.LKO_CTL_EN 0 == 1)
  | .SEC, 0x0B0 => (n % 4096 != 0, false)
  | _, _ => (false, false)

/-- The log is enabled afresh: TAIL and HEAD start at 0 in the first pass, and what waits is written (R599, R600). -/
def State.logEnable (s : State) : State := ((s.setReg ⟨.FLT, 0⟩ 0x090 0).setF F.FLT_LOG_CFG_PHASE 0 1).drainLog

/-- What a write does beside storing its fields. -/
def State.afterWrite (s : State) (p : Page) (off : Nat) (old v : W64) : State :=
  match p.typ, off with
  | .FLT, 0x088 => if wbits old 7 7 == 0 && wbits v 7 7 == 1 then s.logEnable else s
  | .FPW, 0x098 => (match p.fieldOf with | some f => s.select f | none => s)
  | _, _ => s

/-- A write of a register that has no row of its own. -/
def State.plainWrite (s : State) (fw : Bool) (p : Page) (off : Nat) (v : W64) : State :=
  let r := s.ownRules p off v
  let old := s.reg p off
  s.regWrite fw p off true v r.1 r.2 (fun s => s.afterWrite p off old v)

/-- A write of an existing page, each register by its own rule. -/
def State.pageWrite (s : State) (fw : Bool) (p : Page) (off : Nat) (v : W64) : State :=
  match p.typ, p.fieldOf, off with
  | .HIF, _, 0x098 => s.dmaCtlWrite fw v
  | .ENG, _, _ =>
    let q := (off - 0x100) / 0x30
    let k := (off - 0x100) % 0x30 / 8
    if 0x100 ≤ off ∧ off < 0xD00 ∧ off % 8 = 0 then
      (if k = 5 then s.resumeWrite p.inst q fw v else if k = 2 then s.plainWrite fw p off v else s.queueWrite p.inst q k fw v)
    else if p.inst = 0 ∧ off = 0x0A0 then s.stepWrite fw v
    else s.plainWrite fw p off v
  | .BRG, _, 0x080 => s.brgWrite fw v
  | .CWY, _, 0x080 => s.cwyWrite fw v
  | .SEN, _, 0x098 =>
    s.regWrite fw p off true v false (s.getF F.SEN_CTX_SEL_BUSY p.inst == 1) (fun s => s.setF F.SEN_CTX_SEL_BUSY p.inst 1)
  | .VPT, _, 0x080 => s.vptWrite p.inst fw v
  | .MESH, some f, 0x098 => s.drainWrite f fw v
  | .FEP, some f, 0x080 => s.fepWrite f fw v
  | .TSQ, some f, 0x080 => s.tsqSel f fw v
  | .SPD, some f, 0x088 => s.segCmdWrite f fw v
  | .SPD, some f, 0x090 => s.segSel f fw v
  | .MRK, some f, 0x088 =>
    s.regWrite fw p off true v false (s.getF F.MRK_SEL_BUSY f.inst == 1) (fun s => s.setF F.MRK_SEL_BUSY f.inst 1)
  | .PWR, _, 0x098 =>
    let code := s.capCode fw v
    if code != 0 then s.writeResult fw p off v code
    else ((s.setF F.PWR_CAP_HOST_CAP 0 (wbits v 31 16)).recap).writeResult fw p off v 0
  | .PWR, _, 0x0B8 => s.laybyWrite fw v
  | .FPW, some f, 0x080 => s.fpwWrite f fw v
  | .FLT, _, 0x090 => s.regWrite fw p off true v (s.logHeadBad (wbits v 39 20)) false (fun s => s.drainLog)
  | .FLT, _, 0x0A0 => s.dmapWrite fw v
  | .SYS, _, 0x098 =>
    s.regWrite fw p off true v (wbits v 15 0 != 0x0A5C) (s.getF F.SYS_STATE_STATE 0 == 3)
      (fun s => if wbits v 16 16 == 1 then s.moduleReset else s)
  | .SYS, _, 0x0A0 => s.testWrite fw v
  | .SEC, _, 0x0A8 => s.fwWrite fw v false 0
  | .SEC, _, 0x0B8 =>
    s.regWrite fw p off true v (wbits v 31 16 != 0x5EA1) (wbits v 0 0 == 1 && s.getF F.SEC_STATE_DEBUG 0 == 0)
      (fun s => if wbits v 0 0 == 1 then s.setF F.SEC_STATE_DEBUG 0 2 else s)
  | _, _, _ => s.plainWrite fw p off v

/-- A word of the MSI-X table; a vector that is unmasked with its pending bit set sends its message (R526, R530). -/
def State.msixWrite (s : State) (addr : Nat) (v : W64) : State :=
  let n := (addr - 0x3F00000) / 16
  let e := s.msixEntry n
  if addr / 8 % 2 = 0 then s.setMsix n { e with addr := v }
  else
    let masked := v.getLsbD 32
    let s := s.setMsix n { e with data := v.setWidth 32, masked := masked, pending := e.pending && masked }
    if e.pending && !masked then s.hostSend (.msix n) else s

/-- A write that no page of BAR0 takes, as DIR captures it (R532, R535). -/
def State.strayWrite (s : State) (fw : Bool) (addr : Nat) (v : W64) (code : Nat) : State :=
  let first : W64 := BitVec.ofNat 64 (code + 16 * boolNat fw + 1 <<< 31 + s.runWm.toNat <<< 32)
  (s.count C.DIR_WR_REFUSED 0 1).captureFirst F.DIR_WR_FIRST_VALID 0 (some 0)
    [(0x088, first), (0x090, BitVec.ofNat 64 (addr % 2 ^ 26)), (0x098, v)]

/-- REGISTER_WRITE: a host or firmware write in BAR0. `aligned`: it is an aligned 8-byte write; a poisoned one is discarded. -/
def execRegisterWrite (fw aligned poisoned : Bool) (addr : Nat) (value : W64) (s : State) : Host.Outcome State Fault Refusal :=
  .next (
    if s.dark != 0 then s
    else if poisoned then (s.count C.HIF_POISON_RX 0 1).badAccess 0 true true (addr % 2 ^ 26)
    else
      match pageAt addr with
      | some p =>
        if !aligned || addr % 8 != 0 then s.writeResult fw p (addr % 4096) value 1
        else s.pageWrite fw p (addr % 4096) value
      | none =>
        if 0x3F00000 ≤ addr ∧ addr < 0x3F08000 then
          (if !aligned || addr % 8 != 0 then s.strayWrite fw addr value 1 else s.msixWrite addr value)
        else if (0x1000 ≤ addr ∧ addr < 0x10000) ∨ (0x3F10000 ≤ addr ∧ addr < 0x3F10100) then
          s.strayWrite fw addr value (if !aligned || addr % 8 != 0 then 1 else 2)
        else (s.count C.HIF_BAD_ACCESS 0 1).badAccess 0 true false (addr % 2 ^ 26))

/-! ### Snapshots (R148, R203, R369, R370, R442) -/

/-- SNAPSHOT_ARRIVAL: the snapshot that a selector write requested arrives. `n` is the field, 60p + f, or the plane. -/
def execSnapshotArrival (unit : SnapUnit) (n : Nat) (s : State) : Host.Outcome State Fault Refusal :=
  .next (
    let p := plane01 n
    let f : FieldAddr := ⟨if n < 60 then 0 else 1, ⟨n % 60, Nat.mod_lt _ (by omega)⟩⟩
    match unit with
    | .ctx => if s.getF F.SEN_CTX_SEL_BUSY p == 1 then s.ctxSnap p else s
    | .fopen => if s.unserved ⟨.SEN, p⟩ then s else s.fopenSnap p
    | .tsq => if s.offline ⟨.TSQ, f.inst⟩ then s else s.tsqSnap f
    | .seg => if s.offline ⟨.SPD, f.inst⟩ then s else s.segSnap f
    | .mrk => if s.offline ⟨.MRK, f.inst⟩ then s else s.markSnap f)

/-! ### MILEPOST_COPY (R400) -/

/-- The 4 KiB of a page as 512 reads show it. -/
def State.pageBytes (s : State) (p : Page) : List Byte := (List.range 512).flatMap (fun i => leBytes 8 (s.view p (8 * i)).toNat)

/-- Pages of the directory copied to consecutive 4 KiB of a payload. -/
def State.copyPages (loc ptr : Nat) : List Page → Nat → State → State
  | [], _, s => s
  | p :: r, k, s => State.copyPages loc ptr r (k + 1) (s.writeLoc loc (ptr + 4096 * k) (s.pageBytes p))

/-- MILEPOST_COPY: the started record of a queue of the Service Engine copies its pages and completes. -/
def execMilepostCopy (q : Fin 64) (s : State) : Host.Outcome State Fault Refusal :=
  .next (
    match s.startedRec 0 q [opMilepostCopy] with
    | none => s
    | some r =>
      let pages := (directory.drop (RawRec.opd r.raw 48 2)).take (RawRec.opd r.raw 50 2)
      (State.copyPages (RawRec.loc r.raw - 1) (RawRec.ptr r.raw) pages 0 s).complete 0 q r.index 0 0 false 0)

end Sys2Proof.Machine
end

