-- ==== Sys2Proof/Machine/Scalar.lean ====
section
/-!
DEFINITION. The meanings of the scalar and queue instructions of a tile: NOP to CMP, TOKR, ENQC, ENQD, FWD, HALT.
Spec: 03_molcel_tile (R99, R109, R114 to R116), 06 (R307).
-/
namespace Sys2Proof.Machine

/-- g[DST] takes a value computed from the registers before the instruction (R116). -/
def State.scalarOp (s : State) (a : TileAddr) (task slot opc : Nat) (f : TaskCtx → SlotWord → W32) : State :=
  s.fire a task slot opc noCmp (fun w t s => s.setG a task w.dst (f (t.task task) w))

/-- NOP: only the dequeues and updates of its firing (R116). -/
def execOpNop (a : TileAddr) (task : Fin 4) (slot : Fin 128) (s : State) : Host.Outcome State Fault Refusal :=
  .next (s.fire a task slot 0x00 noCmp (fun _ _ s => s))

def execOpMovi (a : TileAddr) (task : Fin 4) (slot : Fin 128) (s : State) : Host.Outcome State Fault Refusal :=
  .next (s.scalarOp a task slot 0x01 (fun _ w => w.simm))

def execOpMov (a : TileAddr) (task : Fin 4) (slot : Fin 128) (s : State) : Host.Outcome State Fault Refusal :=
  .next (s.scalarOp a task slot 0x02 (fun c w => c.reg w.src1))

def execOpAdd (a : TileAddr) (task : Fin 4) (slot : Fin 128) (s : State) : Host.Outcome State Fault Refusal :=
  .next (s.scalarOp a task slot 0x03 (fun c w => c.reg w.src1 + c.reg w.src2))

def execOpAddi (a : TileAddr) (task : Fin 4) (slot : Fin 128) (s : State) : Host.Outcome State Fault Refusal :=
  .next (s.scalarOp a task slot 0x04 (fun c w => c.reg w.src1 + w.simm))

def execOpSub (a : TileAddr) (task : Fin 4) (slot : Fin 128) (s : State) : Host.Outcome State Fault Refusal :=
  .next (s.scalarOp a task slot 0x05 (fun c w => c.reg w.src1 - c.reg w.src2))

def execOpAnd (a : TileAddr) (task : Fin 4) (slot : Fin 128) (s : State) : Host.Outcome State Fault Refusal :=
  .next (s.scalarOp a task slot 0x06 (fun c w => c.reg w.src1 &&& c.reg w.src2))

def execOpOr (a : TileAddr) (task : Fin 4) (slot : Fin 128) (s : State) : Host.Outcome State Fault Refusal :=
  .next (s.scalarOp a task slot 0x07 (fun c w => c.reg w.src1 ||| c.reg w.src2))

def execOpXor (a : TileAddr) (task : Fin 4) (slot : Fin 128) (s : State) : Host.Outcome State Fault Refusal :=
  .next (s.scalarOp a task slot 0x08 (fun c w => c.reg w.src1 ^^^ c.reg w.src2))

def execOpShl (a : TileAddr) (task : Fin 4) (slot : Fin 128) (s : State) : Host.Outcome State Fault Refusal :=
  .next (s.scalarOp a task slot 0x09 (fun c w => c.reg w.src1 <<< w.immF 4 0))

def execOpShr (a : TileAddr) (task : Fin 4) (slot : Fin 128) (s : State) : Host.Outcome State Fault Refusal :=
  .next (s.scalarOp a task slot 0x0A (fun c w => c.reg w.src1 >>> w.immF 4 0))

def execOpMul (a : TileAddr) (task : Fin 4) (slot : Fin 128) (s : State) : Host.Outcome State Fault Refusal :=
  .next (s.scalarOp a task slot 0x0B (fun c w => c.reg w.src1 * c.reg w.src2))

/-- An FP32 number as a comparable pair: the sign of an infinity, and the finite value in units of 2^-149; none for a
NaN. The two zeros compare equal (R116, R132). -/
def fpKey (x : W32) : Option (Int × Int) :=
  match Enc.fp32.decode x.toNat with
  | .nan => none
  | .inf neg => some (if neg then -1 else 1, 0)
  | .fin neg m e => some (0, (if neg then -1 else 1) * ((m <<< (e + 149).toNat : Nat) : Int))

def fpKeyLt (x y : Int × Int) : Bool := decide (x.1 < y.1 ∨ (x.1 = y.1 ∧ x.2 < y.2))

/-- The comparison of CMP (R116). -/
def cmpResult (c : TaskCtx) (w : SlotWord) : Bool :=
  let x := c.reg w.src1
  let y := c.reg w.src2
  match w.immF 2 0 with
  | 0 => x == y
  | 1 => x != y
  | 2 => x.slt y
  | 3 => !x.slt y
  | 4 => x.ult y
  | 5 => !x.ult y
  | 6 => match fpKey x, fpKey y with | some p, some q => fpKeyLt p q | _, _ => false
  | _ => match fpKey x, fpKey y with | some p, some q => p == q | _, _ => false

/-- CMP: the compare result goes to the predicate where POP is 1 (R116). -/
def execOpCmp (a : TileAddr) (task : Fin 4) (slot : Fin 128) (s : State) : Host.Outcome State Fault Refusal :=
  .next (s.fire a task slot 0x0C cmpResult (fun _ _ s => s))

/-- A control token as 16 bits (R90). -/
def CtlTok.word (c : CtlTok) : Nat := c.kind.toNat + c.value.toNat <<< 4 + c.epoch.toNat <<< 12

/-- TOKR: a word of the data token at the head of QA, or the whole control token (R116). -/
def execOpTokr (a : TileAddr) (task : Fin 4) (slot : Fin 128) (s : State) : Host.Outcome State Fault Refusal :=
  .next (s.fire a task slot 0x10 noCmp (fun w t s =>
    match t.headData w.qa, t.headCtl w.qa with
    | some d, _ => s.setG a task w.dst (BitVec.ofNat 32 (wbits d.payload (32 * w.immF 2 0 + 31) (32 * w.immF 2 0)))
    | none, some c => s.setG a task w.dst (BitVec.ofNat 32 c.word)
    | none, none => s))

/-- ENQC: a control token with the tile epoch (R103, R116). -/
def execOpEnqc (a : TileAddr) (task : Fin 4) (slot : Fin 128) (s : State) : Host.Outcome State Fault Refusal :=
  .next (s.fire a task slot 0x11 noCmp (fun w t s =>
    s.enq a (w.immF 15 12) (.ctl { kind := BitVec.ofNat 4 (w.immF 3 0), value := BitVec.ofNat 8 (w.immF 11 4)
                                   epoch := t.epoch })))

/-- ENQD: eight registers as a data token, scales zero (R103, R116). -/
def execOpEnqd (a : TileAddr) (task : Fin 4) (slot : Fin 128) (s : State) : Host.Outcome State Fault Refusal :=
  .next (s.fire a task slot 0x12 noCmp (fun w t s =>
    let c := t.task task
    let p := (List.range 8).foldl (fun x k => x + (c.reg (w.dst + k)).toNat <<< (32 * k)) 0
    s.enq a (w.immF 7 4) (.data { payload := BitVec.ofNat 256 p, scales := 0, fmt := BitVec.ofNat 4 (w.immF 3 0)
                                  saxis := false, epoch := t.epoch })))

/-- FWD: the head of QA, unchanged (R116, R307). -/
def execOpFwd (a : TileAddr) (task : Fin 4) (slot : Fin 128) (s : State) : Host.Outcome State Fault Refusal :=
  .next (s.fire a task slot 0x13 noCmp (fun w t s =>
    match t.headData w.qa, t.headCtl w.qa with
    | some d, _ => s.enq a (w.immF 3 0) (.data d)
    | none, some c => s.enq a (w.immF 3 0) (.ctl c)
    | none, none => s))

/-- HALT: the task goes to DONE (R99). -/
def execOpHalt (a : TileAddr) (task : Fin 4) (slot : Fin 128) (s : State) : Host.Outcome State Fault Refusal :=
  .next (s.fire a task slot 0x3F noCmp (fun _ _ s =>
    let t := s.tile a
    s.setTile a (t.setTask task { t.task task with state := .done })))

end Sys2Proof.Machine
end

