-- ==== Sys2Proof/Machine/Dispatch.lean ====
section
/-! DEFINITION. The effect of every command, one arm per row of the opcode table, each a call of its meaning. -/
namespace Sys2Proof.Machine

/-- A command's effect on everything but the queue of commands. -/
def exec (i : Instr) (s : State) : Host.Outcome State Fault Refusal :=
  match i with
  | .registerWrite fw aligned poisoned addr value => Sys2Proof.Machine.execRegisterWrite fw aligned poisoned addr value s
  | .snapshotArrival unit n => Sys2Proof.Machine.execSnapshotArrival unit n s
  | .opNop a task slot => Sys2Proof.Machine.execOpNop a task slot s
  | .opMovi a task slot => Sys2Proof.Machine.execOpMovi a task slot s
  | .opMov a task slot => Sys2Proof.Machine.execOpMov a task slot s
  | .opAdd a task slot => Sys2Proof.Machine.execOpAdd a task slot s
  | .opAddi a task slot => Sys2Proof.Machine.execOpAddi a task slot s
  | .opSub a task slot => Sys2Proof.Machine.execOpSub a task slot s
  | .opAnd a task slot => Sys2Proof.Machine.execOpAnd a task slot s
  | .opOr a task slot => Sys2Proof.Machine.execOpOr a task slot s
  | .opXor a task slot => Sys2Proof.Machine.execOpXor a task slot s
  | .opShl a task slot => Sys2Proof.Machine.execOpShl a task slot s
  | .opShr a task slot => Sys2Proof.Machine.execOpShr a task slot s
  | .opMul a task slot => Sys2Proof.Machine.execOpMul a task slot s
  | .opCmp a task slot => Sys2Proof.Machine.execOpCmp a task slot s
  | .opTokr a task slot => Sys2Proof.Machine.execOpTokr a task slot s
  | .opEnqc a task slot => Sys2Proof.Machine.execOpEnqc a task slot s
  | .opEnqd a task slot => Sys2Proof.Machine.execOpEnqd a task slot s
  | .opFwd a task slot => Sys2Proof.Machine.execOpFwd a task slot s
  | .opRdq a task slot => Sys2Proof.Machine.execOpRdq a task slot s
  | .opWrt a task slot => Sys2Proof.Machine.execOpWrt a task slot s
  | .opLdn a task slot => Sys2Proof.Machine.execOpLdn a task slot s
  | .opStn a task slot => Sys2Proof.Machine.execOpStn a task slot s
  | .opMma a task slot => Sys2Proof.Machine.execOpMma a task slot s
  | .opAclr a task slot => Sys2Proof.Machine.execOpAclr a task slot s
  | .opEmit a task slot => Sys2Proof.Machine.execOpEmit a task slot s
  | .opVunp a task slot => Sys2Proof.Machine.execOpVunp a task slot s
  | .opVpack a task slot => Sys2Proof.Machine.execOpVpack a task slot s
  | .opVfma a task slot => Sys2Proof.Machine.execOpVfma a task slot s
  | .opVadd a task slot => Sys2Proof.Machine.execOpVadd a task slot s
  | .opVmul a task slot => Sys2Proof.Machine.execOpVmul a task slot s
  | .opVmax a task slot => Sys2Proof.Machine.execOpVmax a task slot s
  | .opVmin a task slot => Sys2Proof.Machine.execOpVmin a task slot s
  | .opVbcast a task slot => Sys2Proof.Machine.execOpVbcast a task slot s
  | .opVred a task slot => Sys2Proof.Machine.execOpVred a task slot s
  | .opVtab a task slot => Sys2Proof.Machine.execOpVtab a task slot s
  | .opVtabd a task slot => Sys2Proof.Machine.execOpVtabd a task slot s
  | .opVmask a task slot => Sys2Proof.Machine.execOpVmask a task slot s
  | .opVsel a task slot => Sys2Proof.Machine.execOpVsel a task slot s
  | .opVqmx a task slot => Sys2Proof.Machine.execOpVqmx a task slot s
  | .opVexact a task slot => Sys2Proof.Machine.execOpVexact a task slot s
  | .opMsig a task slot => Sys2Proof.Machine.execOpMsig a task slot s
  | .opMsigWatch a task slot => Sys2Proof.Machine.execOpMsigWatch a task slot s
  | .opBarr a task slot => Sys2Proof.Machine.execOpBarr a task slot s
  | .opHalt a task slot => Sys2Proof.Machine.execOpHalt a task slot s
  | .steeringFire a ch => Sys2Proof.Machine.execSteeringFire a ch s
  | .steerKind a ch => Sys2Proof.Machine.execSteerKind a ch s
  | .oqLocalTransfer a q => Sys2Proof.Machine.execOqLocalTransfer a q s
  | .waitingTokenEntry a barrier n => Sys2Proof.Machine.execWaitingTokenEntry a barrier n s
  | .taskDrained a task => Sys2Proof.Machine.execTaskDrained a task s
  | .readTokenDelivery a => Sys2Proof.Machine.execReadTokenDelivery a s
  | .gatherFlush a => Sys2Proof.Machine.execGatherFlush a s
  | .correctionWriteback a => Sys2Proof.Machine.execCorrectionWriteback a s
  | .scrubRead a word err => Sys2Proof.Machine.execScrubRead a word err s
  | .segCmdOff f fw value => Sys2Proof.Machine.execSegCmdOff f fw value s
  | .segCmdActive f fw value => Sys2Proof.Machine.execSegCmdActive f fw value s
  | .segCmdRetained f fw value => Sys2Proof.Machine.execSegCmdRetained f fw value s
  | .segmentWakeDone a seg => Sys2Proof.Machine.execSegmentWakeDone a seg s
  | .segmentGate a seg => Sys2Proof.Machine.execSegmentGate a seg s
  | .gateTimeout a seg => Sys2Proof.Machine.execGateTimeout a seg s
  | .segSel f fw value => Sys2Proof.Machine.execSegSel f fw value s
  | .tsqSel f fw value => Sys2Proof.Machine.execTsqSel f fw value s
  | .neighbourToken a side => Sys2Proof.Machine.execNeighbourToken a side s
  | .packetHop a dir => Sys2Proof.Machine.execPacketHop a dir s
  | .packetDelivery a input cls => Sys2Proof.Machine.execPacketDelivery a input cls s
  | .wgtRecordEnqueue a => Sys2Proof.Machine.execWgtRecordEnqueue a s
  | .emitterSend a q => Sys2Proof.Machine.execEmitterSend a q s
  | .foldReaderSend a => Sys2Proof.Machine.execFoldReaderSend a s
  | .drainStop f fw value => Sys2Proof.Machine.execDrainStop f fw value s
  | .drainAbort f fw value => Sys2Proof.Machine.execDrainAbort f fw value s
  | .drainRelease f fw value => Sys2Proof.Machine.execDrainRelease f fw value s
  | .drainSweep f => Sys2Proof.Machine.execDrainSweep f s
  | .drainTimeout f => Sys2Proof.Machine.execDrainTimeout f s
  | .linkIsolation a side port here far => Sys2Proof.Machine.execLinkIsolation a side port here far s
  | .deadlockSpill a => Sys2Proof.Machine.execDeadlockSpill a s
  | .spillRestore a => Sys2Proof.Machine.execSpillRestore a s
  | .deadlock f block => Sys2Proof.Machine.execDeadlock f block s
  | .stallWatchdog a n => Sys2Proof.Machine.execStallWatchdog a n s
  | .fepRead f fw value => Sys2Proof.Machine.execFepRead f fw value s
  | .fepWrite f fw value => Sys2Proof.Machine.execFepWrite f fw value s
  | .placeLoad p => Sys2Proof.Machine.execPlaceLoad p s
  | .placeLoadCommit p => Sys2Proof.Machine.execPlaceLoadCommit p s
  | .passRun p => Sys2Proof.Machine.execPassRun p s
  | .passLoadBegin p => Sys2Proof.Machine.execPassLoadBegin p s
  | .passArmed p => Sys2Proof.Machine.execPassArmed p s
  | .passRestart p => Sys2Proof.Machine.execPassRestart p s
  | .passFinishing p cycles => Sys2Proof.Machine.execPassFinishing p cycles s
  | .passComplete p => Sys2Proof.Machine.execPassComplete p s
  | .passAbort p recent => Sys2Proof.Machine.execPassAbort p recent s
  | .passFailed p => Sys2Proof.Machine.execPassFailed p s
  | .passAbortNotice p => Sys2Proof.Machine.execPassAbortNotice p s
  | .passWatchdog p => Sys2Proof.Machine.execPassWatchdog p s
  | .streamOpen p => Sys2Proof.Machine.execStreamOpen p s
  | .streamCancel p => Sys2Proof.Machine.execStreamCancel p s
  | .streamDeliverStart p ctx => Sys2Proof.Machine.execStreamDeliverStart p ctx s
  | .streamRequest p server port starved => Sys2Proof.Machine.execStreamRequest p server port starved s
  | .streamInject p ctx => Sys2Proof.Machine.execStreamInject p ctx s
  | .streamReadTimeout p ctx seq => Sys2Proof.Machine.execStreamReadTimeout p ctx seq s
  | .streamStalled p ctx => Sys2Proof.Machine.execStreamStalled p ctx s
  | .streamContextRelease p ctx => Sys2Proof.Machine.execStreamContextRelease p ctx s
  | .senCtxSel p fw value => Sys2Proof.Machine.execSenCtxSel p fw value s
  | .senFopenSel p fw value => Sys2Proof.Machine.execSenFopenSel p fw value s
  | .doorbell e q aligned poisoned value => Sys2Proof.Machine.execDoorbell e q aligned poisoned value s
  | .recordFetch e q raw payload err => Sys2Proof.Machine.execRecordFetch e q raw payload err s
  | .recordStart e => Sys2Proof.Machine.execRecordStart e s
  | .nopCommand e q => Sys2Proof.Machine.execNopCommand e q s
  | .stepBegin q => Sys2Proof.Machine.execStepBegin q s
  | .waymarkClose q meas => Sys2Proof.Machine.execWaymarkClose q meas s
  | .markerWrite q => Sys2Proof.Machine.execMarkerWrite q s
  | .milepostCopy q => Sys2Proof.Machine.execMilepostCopy q s
  | .exchAccum p => Sys2Proof.Machine.execExchAccum p s
  | .exchWrite p => Sys2Proof.Machine.execExchWrite p s
  | .exchSignal p => Sys2Proof.Machine.execExchSignal p s
  | .exchCancel p => Sys2Proof.Machine.execExchCancel p s
  | .waitTimeout e q => Sys2Proof.Machine.execWaitTimeout e q s
  | .wmHoldTimeout e q => Sys2Proof.Machine.execWmHoldTimeout e q s
  | .stepRerun => Sys2Proof.Machine.execStepRerun s
  | .stepRewind => Sys2Proof.Machine.execStepRewind s
  | .stepEnd => Sys2Proof.Machine.execStepEnd s
  | .stepAbort fw value => Sys2Proof.Machine.execStepAbort fw value s
  | .queueResume e q fw value => Sys2Proof.Machine.execQueueResume e q fw value s
  | .queueConfigWrite e q reg fw value => Sys2Proof.Machine.execQueueConfigWrite e q reg fw value s
  | .markerUpdate f => Sys2Proof.Machine.execMarkerUpdate f s
  | .watchDelivery a task => Sys2Proof.Machine.execWatchDelivery a task s
  | .watchTimeout a task => Sys2Proof.Machine.execWatchTimeout a task s
  | .barrierComplete p ch => Sys2Proof.Machine.execBarrierComplete p ch s
  | .barrierWatchdog p ch => Sys2Proof.Machine.execBarrierWatchdog p ch s
  | .mrkSel f fw value => Sys2Proof.Machine.execMrkSel f fw value s
  | .writeFrame l tag bytes => Sys2Proof.Machine.execWriteFrame l tag bytes s
  | .signalFrame l tag bytes => Sys2Proof.Machine.execSignalFrame l tag bytes s
  | .taintFrame l tag bytes => Sys2Proof.Machine.execTaintFrame l tag bytes s
  | .readresp l tag bytes => Sys2Proof.Machine.execReadresp l tag bytes s
  | .frameAnswer l tag bytes => Sys2Proof.Machine.execFrameAnswer l tag bytes s
  | .unacceptedFrame l tag bytes => Sys2Proof.Machine.execUnacceptedFrame l tag bytes s
  | .linkControlWord l send tag corr uncorr => Sys2Proof.Machine.execLinkControlWord l send tag corr uncorr s
  | .replayTimer l => Sys2Proof.Machine.execReplayTimer l s
  | .laneFailure unit lanes lost => Sys2Proof.Machine.execLaneFailure unit lanes lost s
  | .portDegrade l => Sys2Proof.Machine.execPortDegrade l s
  | .portFail unit lost => Sys2Proof.Machine.execPortFail unit lost s
  | .laneCalibration l => Sys2Proof.Machine.execLaneCalibration l s
  | .calibrationEnd l => Sys2Proof.Machine.execCalibrationEnd l s
  | .exchangeFrameSend n => Sys2Proof.Machine.execExchangeFrameSend n s
  | .ackTimeout n k final => Sys2Proof.Machine.execAckTimeout n k final s
  | .busyBackoff n k => Sys2Proof.Machine.execBusyBackoff n k s
  | .portDisable l fw value => Sys2Proof.Machine.execPortDisable l fw value s
  | .portRetrain l fw value => Sys2Proof.Machine.execPortRetrain l fw value s
  | .linkTrainingDone unit lanes => Sys2Proof.Machine.execLinkTrainingDone unit lanes s
  | .bridgeReinject n => Sys2Proof.Machine.execBridgeReinject n s
  | .sidebandWord p => Sys2Proof.Machine.execSidebandWord p s
  | .sidebandLost p => Sys2Proof.Machine.execSidebandLost p s
  | .bridgeRetrain fw value => Sys2Proof.Machine.execBridgeRetrain fw value s
  | .cwyTest fw value => Sys2Proof.Machine.execCwyTest fw value s
  | .cwyCrosscheck fw value => Sys2Proof.Machine.execCwyCrosscheck fw value s
  | .cwyMigrate fw value => Sys2Proof.Machine.execCwyMigrate fw value s
  | .cwyExport fw value => Sys2Proof.Machine.execCwyExport fw value s
  | .cwyImport fw value => Sys2Proof.Machine.execCwyImport fw value s
  | .causewayDone link peer differ errors bytes => Sys2Proof.Machine.execCausewayDone link peer differ errors bytes s
  | .edgeMemoryAccess p ctx seq burst err => Sys2Proof.Machine.execEdgeMemoryAccess p ctx seq burst err s
  | .refresh p stack rfm => Sys2Proof.Machine.execRefresh p stack rfm s
  | .hbmTempReadout p stack temp => Sys2Proof.Machine.execHbmTempReadout p stack temp s
  | .patrolScrub p err => Sys2Proof.Machine.execPatrolScrub p err s
  | .stackFail p stack => Sys2Proof.Machine.execStackFail p stack s
  | .selfRefreshEntry p => Sys2Proof.Machine.execSelfRefreshEntry p s
  | .selfRefreshExit p => Sys2Proof.Machine.execSelfRefreshExit p s
  | .bar4Access off write poisoned bytes len => Sys2Proof.Machine.execBar4Access off write poisoned bytes len s
  | .bar0BadRead off => Sys2Proof.Machine.execBar0BadRead off s
  | .pcieReset link => Sys2Proof.Machine.execPcieReset link s
  | .dmaResume fw value => Sys2Proof.Machine.execDmaResume fw value s
  | .dmaDiscard fw value => Sys2Proof.Machine.execDmaDiscard fw value s
  | .fetchRetry e q raw payload err => Sys2Proof.Machine.execFetchRetry e q raw payload err s
  | .doeDiscovery index => Sys2Proof.Machine.execDoeDiscovery index s
  | .doeAbort => Sys2Proof.Machine.execDoeAbort s
  | .getReport request busy => Sys2Proof.Machine.execGetReport request busy s
  | .getCerts request => Sys2Proof.Machine.execGetCerts request s
  | .bankOffline bank => Sys2Proof.Machine.execBankOffline bank s
  | .bankReturn bank => Sys2Proof.Machine.execBankReturn bank s
  | .powerLoss => Sys2Proof.Machine.execPowerLoss s
  | .supplyWarn f pct => Sys2Proof.Machine.execSupplyWarn f pct s
  | .supplyRecover f => Sys2Proof.Machine.execSupplyRecover f s
  | .fieldReset f pct third => Sys2Proof.Machine.execFieldReset f pct third s
  | .fieldResetRecovery f => Sys2Proof.Machine.execFieldResetRecovery f s
  | .noRecover f => Sys2Proof.Machine.execNoRecover f s
  | .overcurrentTrip f => Sys2Proof.Machine.execOvercurrentTrip f s
  | .refFailover => Sys2Proof.Machine.execRefFailover s
  | .refFailure third => Sys2Proof.Machine.execRefFailure third s
  | .lockLoss domain f block => Sys2Proof.Machine.execLockLoss domain f block s
  | .relockTimeout domain f block unit lanes lost pct third => Sys2Proof.Machine.execRelockTimeout domain f block unit lanes lost pct third s
  | .ageingRead f block age => Sys2Proof.Machine.execAgeingRead f block age s
  | .temperatureSample f temps => Sys2Proof.Machine.execTemperatureSample f temps s
  | .thermalThrottleStep f => Sys2Proof.Machine.execThermalThrottleStep f s
  | .thermalReleaseStep f => Sys2Proof.Machine.execThermalReleaseStep f s
  | .thermalUnpark f => Sys2Proof.Machine.execThermalUnpark f s
  | .layby f fw value => Sys2Proof.Machine.execLayby f fw value s
  | .wake f fw value => Sys2Proof.Machine.execWake f fw value s
  | .park f fw value => Sys2Proof.Machine.execPark f fw value s
  | .parkRetain f fw value => Sys2Proof.Machine.execParkRetain f fw value s
  | .unpark f fw value => Sys2Proof.Machine.execUnpark f fw value s
  | .laybyDone f => Sys2Proof.Machine.execLaybyDone f s
  | .wakeDone f => Sys2Proof.Machine.execWakeDone f s
  | .parkDone f => Sys2Proof.Machine.execParkDone f s
  | .unparkDone f => Sys2Proof.Machine.execUnparkDone f s
  | .portLayby fw value => Sys2Proof.Machine.execPortLayby fw value s
  | .portWake fw value => Sys2Proof.Machine.execPortWake fw value s
  | .portWakeDone l => Sys2Proof.Machine.execPortWakeDone l s
  | .bridgeLayby fw value => Sys2Proof.Machine.execBridgeLayby fw value s
  | .bridgeWake fw value => Sys2Proof.Machine.execBridgeWake fw value s
  | .bridgeWakeDone => Sys2Proof.Machine.execBridgeWakeDone s
  | .coolantSample inlet outlet flow leak => Sys2Proof.Machine.execCoolantSample inlet outlet flow leak s
  | .powerSample watts va ia vb ib rails unlimited => Sys2Proof.Machine.execPowerSample watts va ia vb ib rails unlimited s
  | .limiterEngage => Sys2Proof.Machine.execLimiterEngage s
  | .pwrCapWrite fw value => Sys2Proof.Machine.execPwrCapWrite fw value s
  | .errorRecord => Sys2Proof.Machine.execErrorRecord s
  | .logHeadWrite fw value => Sys2Proof.Machine.execLogHeadWrite fw value s
  | .dmapCopy fw value => Sys2Proof.Machine.execDmapCopy fw value s
  | .checkFeed n which steals wrong => Sys2Proof.Machine.execCheckFeed n which steals wrong s
  | .checkVerdict n recent => Sys2Proof.Machine.execCheckVerdict n recent s
  | .checkDeadline n => Sys2Proof.Machine.execCheckDeadline n s
  | .rebind => Sys2Proof.Machine.execRebind s
  | .lookoutPoll => Sys2Proof.Machine.execLookoutPoll s
  | .powerOnReset cell => Sys2Proof.Machine.execPowerOnReset cell s
  | .moduleReset redfish admin fw value => Sys2Proof.Machine.execModuleReset redfish admin fw value s
  | .startupStep ok tests differ ports badStacks link secs => Sys2Proof.Machine.execStartupStep ok tests differ ports badStacks link secs s
  | .rcEnableLow => Sys2Proof.Machine.execRcEnableLow s
  | .rcEnableHigh => Sys2Proof.Machine.execRcEnableHigh s
  | .rcInterlockLow => Sys2Proof.Machine.execRcInterlockLow s
  | .rcInterlockHigh => Sys2Proof.Machine.execRcInterlockHigh s
  | .pinGlitch interlock => Sys2Proof.Machine.execPinGlitch interlock s
  | .fieldBist fw value => Sys2Proof.Machine.execFieldBist fw value s
  | .testCrosscheck fw value => Sys2Proof.Machine.execTestCrosscheck fw value s
  | .volinoCal fw value => Sys2Proof.Machine.execVolinoCal fw value s
  | .bridgeCal fw value => Sys2Proof.Machine.execBridgeCal fw value s
  | .causewayTest fw value => Sys2Proof.Machine.execCausewayTest fw value s
  | .heldTestStart => Sys2Proof.Machine.execHeldTestStart s
  | .testComplete tests differ fail errors bytes => Sys2Proof.Machine.execTestComplete tests differ fail errors bytes s
  | .stageImage fw value => Sys2Proof.Machine.execStageImage fw value s
  | .activateImage fw value => Sys2Proof.Machine.execActivateImage fw value s
  | .commitImage fw value fails blown => Sys2Proof.Machine.execCommitImage fw value fails blown s
  | .activationTimeout => Sys2Proof.Machine.execActivationTimeout s
  | .enclosureOpening => Sys2Proof.Machine.execEnclosureOpening s
  | .debugUnlock admin token => Sys2Proof.Machine.execDebugUnlock admin token s
  | .sealFuse redfish admin fw value => Sys2Proof.Machine.execSealFuse redfish admin fw value s
  | .powercapSet operator watts => Sys2Proof.Machine.execPowercapSet operator watts s
  | .managerReset admin => Sys2Proof.Machine.execManagerReset admin s
  | .componentIntegrity certs nonce => Sys2Proof.Machine.execComponentIntegrity certs nonce s
  | .updatePush admin op stage image fails blown => Sys2Proof.Machine.execUpdatePush admin op stage image fails blown s
  | .eventSubscription admin add id => Sys2Proof.Machine.execEventSubscription admin add id s
  | .pldmRequest message => Sys2Proof.Machine.execPldmRequest message s
  | .clockRelock domain f block => Sys2Proof.Machine.execClockRelock domain f block s
  | .burstWriteback p burst => Sys2Proof.Machine.execBurstWriteback p burst s
  | .debugPortAccess => Sys2Proof.Machine.execDebugPortAccess s
  | .configSpaceWrite power v => Sys2Proof.Machine.execConfigSpaceWrite power v s

end Sys2Proof.Machine
end

