-- ==== Sys2Proof/Machine/Tick.lean ====
section
/-!
DEFINITION. One FIELD cycle in which no command waits: cycle counts, energy counters, waits and watches that have become true, and
units on their way into layby. Assumption 1. Spec: 00_scope (R9), 08 (R388), 09 (R427), 12 (R569, R589, R591), 14 (R648).
-/
namespace Sys2Proof.Machine

/-- A counter of time that passes in tile cycles or ns: how much of it falls into one FIELD cycle is a free value (assumption 81). -/
def State.countFree (s : State) (c : Ctr) (i : Nat) : State := (s.freeBits 32).2.count c i (s.freeBits 32).1.toNat

/-- The head of a packet waits at a router for a credit, a slot or the landing buffer (R272). -/
def State.routerStalls (s : State) (a : TileAddr) : Bool :=
  let t := s.tile a
  (List.range 5).any (fun i => (List.range 4).any (fun c => match (t.bufOf i c).head? with
    | some p => !s.canDepart a i p
    | none => false)) ||
  t.merged.any (fun p => !s.canDepart a 0 p) ||
  (match t.spillInput, t.ringHead with | some i, some p => !s.canDepart a i p | _, _ => false)

/-- The tile cycles in which a packet of the field's routers waits (R272). -/
def State.stallCycles (s : State) (f : FieldAddr) : State :=
  if (s.liveOf f).any s.routerStalls then s.countFree C.MESH_STALL_CYCLES f.inst else s

/-- The tile cycles of an awake field: active and idle ones, and in a pass those of each block under backpressure (R299, R577, R591). -/
def State.tileCycles (s : State) (f : FieldAddr) : State :=
  let i := f.inst
  let s := (s.countFree C.FEN_ACTIVE_CYCLES i).countFree C.FEN_IDLE_CYCLES i
  if s.getF F.PAS_RUN_IN_PASS i == 1 then
    (List.range 12).foldl (fun s b =>
      if (s.liveOf f).any (fun a => a.block == b && s.tileRuns a && (s.tile a).backpressed) then s.countFree (C.PAS_BLK_BP b) i else s) s
  else s

/-- A field counts one FIELD cycle (R9, R578, R589, R591). -/
def State.fieldTick (s : State) (f : FieldAddr) : State :=
  let x := s.fieldSt f
  if x.lost || x.resetting then s
  else
    let i := f.inst
    let power := s.getF F.FPW_STATE_POWER i
    let s := (s.setField f { x with cyc := x.cyc + 1 }).count C.FEN_FIELD_CYCLES i 1
    let s := if power = 0 then s.tileCycles f else s
    let s := if power = 0 ∨ 4 ≤ power then s.stallCycles f else s
    let s := if 4 ≤ power then s.count C.FEN_PARKED_CYCLES i 1 else s
    let s := if power = 2 then s.count C.FEN_LAYBY_CYCLES i 1 else s
    if power = 0 ∧ (x.warned || s.getF F.FPW_STATE_STRETCH i != 0) then s.count C.FPW_STRETCH_CYCLES i 1 else s

/-- Fields are clocked: in READY and in STANDBY. -/
def State.clocked (s : State) : Bool := s.dark == 0 && (s.getF F.SYS_STATE_STATE 0 == 1 || s.getF F.SYS_STATE_STATE 0 == 2)

/-- One FIELD cycle. -/
def State.tick (s : State) : State :=
  let s := { s with risen := [], causes := s.causes.map (fun (c : PassCause) => { c with age := c.age + 1 }) }
  if !s.clocked then s
  else
    let s := (allFields.foldl (fun s f => s.fieldTick f) s).evalWaits
    let s := (List.range 7).foldl (fun s e => s.countFree C.ENG_WAIT_NS e) s.addUnavail
    (allFields.foldl (fun s f => if (s.fieldSt f).lost || (s.fieldSt f).resetting then s else s.evalWatches f) s).sleepMoves

end Sys2Proof.Machine
end

