-- ==== Sys2Proof/Safety.lean ====
section
/-!
DEFINITION. What a safe state is, and what a command leaves unchanged, in the terms that the statements use: stores in their one
canonical form, lists within the sizes that the spec gives them, and the frames of the commands that act on one tile, on registers,
or on edge memory. Spec: 11 (R503), 13 (R600, R603), 14 (R667, R670).
-/
namespace Sys2Proof.Machine

/-- Edge memory is in its canonical form. -/
abbrev Memory.wf (s : State) : Prop := storeWf edgeDefault s.edge = true

/-- The lists of the management controller and the service firmware stay within their sizes: the retained defect list, the log
buffer, the management log, the subscriptions. -/
structure State.Bounded (s : State) : Prop where
  retained : s.retained.length ≤ 4096
  held : s.logHeld.length ≤ 1024
  mlog : s.mlog.length ≤ 65536
  subs : s.subs.length ≤ 8

/-- What no command breaks: every store below is in its one canonical form, so that equal contents are equal data, and the bounded
lists are within their bounds. -/
structure State.Sound (s : State) : Prop where
  regs : storeWf regDefault s.regs = true
  tiles : storeWf (fun _ => Tile.reset) s.tiles = true
  fields : storeWf (fun _ => FieldSt.reset) s.fields = true
  edge : Memory.wf s
  queues : storeWf (fun _ => EngQueue.reset) s.queues = true
  ctxs : storeWf (fun _ => StreamCtx.reset) s.ctxs = true
  links : storeWf (fun _ => VLink.reset) s.links = true
  msix : storeWf (fun _ => MsixEntry.reset) s.msix = true
  bounded : s.Bounded

/-- What the security die and the management controller guard: firmware banks and which is active, activations to act on, the
measurement and its digests, the nonce and the mark of an accepted unlock token, the event subscriptions. -/
structure Guarded where
  flash : List (Nat × List Byte)
  active : List (Nat × Nat)
  toActivate : List Nat
  digests : List (Nat × List Byte)
  measure : List Byte
  nonce : Option (List Byte)
  unlockNext : Bool
  subs : List Nat
  deriving DecidableEq, Repr

/-- What a state guards. -/
def State.guarded (s : State) : Guarded :=
  { flash := s.flash, active := s.active, toActivate := s.toActivate, digests := s.digests, measure := s.measure
    nonce := s.nonce, unlockNext := s.unlockNext, subs := s.subs }

/-- The commands that may change what is guarded: register writes, which reach SYS.RESET and SEC.FW_CMD, the resets and the pins that
order one, start-up, and the firmware and management commands. -/
def touchesGuarded : Instr → Bool
  | .registerWrite .. | .powerLoss | .refFailure _ | .powerOnReset _ | .moduleReset .. | .startupStep .. | .rcEnableLow
  | .rcInterlockLow | .rcInterlockHigh | .stageImage .. | .activateImage .. | .commitImage .. | .activationTimeout
  | .debugUnlock .. | .managerReset _ | .updatePush .. | .eventSubscription .. => true
  | _ => false

/-- The parts of the state: the registers of one page type, or one field of the state. -/
inductive Part where
  | page (t : PageType)
  | risen | ahead | peaks | tiles | fields | slotOf | recOnce | records | causes | checks | retained | suspects | hostOut
  | hostHeld | fwIrq | msix | d3hot | edge | edgeMark | edgeWb | selfRefresh | stackHeat | scrubAt | edgeHeld | fopenDue
  | bridgeRx | aeArrived | ctxs | ctxCount | queues | turns | step | stepFailed | array | remoteRoot | links | wire | exchs
  | sigCount | destSets | tainted | taintSeq | windows | derived | taintNamed | bridgeTrain | importing | stoppedClk
  | refLost | dark | capBelow | limQuiet | bankOn | coolCap | coolLow | coolWait | sleeping | sleptPorts | sleptBridge
  | logNext | logHeld | logOver | mlog | losses | spikeFirst | lkoN | lkoSpikes | stepsSeen | flash | active | fresh
  | toActivate | digests | mgmtStage | cwyFailed | measure | nonce | unlockNext | testRef | subs | mgmtOut | doe | debugOut
  | free | pending
  deriving DecidableEq, Repr

/-- A part that is the same in two states. -/
def Part.same : Part → State → State → Prop
  | .page y, s, t => ∀ i off, t.reg ⟨y, i⟩ off = s.reg ⟨y, i⟩ off
  | .risen, s, t => t.risen = s.risen
  | .ahead, s, t => t.ahead = s.ahead
  | .peaks, s, t => t.peaks = s.peaks
  | .tiles, s, t => t.tiles = s.tiles
  | .fields, s, t => t.fields = s.fields
  | .slotOf, s, t => t.slotOf = s.slotOf
  | .recOnce, s, t => t.recOnce = s.recOnce
  | .records, s, t => t.records = s.records
  | .causes, s, t => t.causes = s.causes
  | .checks, s, t => t.checks = s.checks
  | .retained, s, t => t.retained = s.retained
  | .suspects, s, t => t.suspects = s.suspects
  | .hostOut, s, t => t.hostOut = s.hostOut
  | .hostHeld, s, t => t.hostHeld = s.hostHeld
  | .fwIrq, s, t => t.fwIrq = s.fwIrq
  | .msix, s, t => t.msix = s.msix
  | .d3hot, s, t => t.d3hot = s.d3hot
  | .edge, s, t => t.edge = s.edge
  | .edgeMark, s, t => t.edgeMark = s.edgeMark
  | .edgeWb, s, t => t.edgeWb = s.edgeWb
  | .selfRefresh, s, t => t.selfRefresh = s.selfRefresh
  | .stackHeat, s, t => t.stackHeat = s.stackHeat
  | .scrubAt, s, t => t.scrubAt = s.scrubAt
  | .edgeHeld, s, t => t.edgeHeld = s.edgeHeld
  | .fopenDue, s, t => t.fopenDue = s.fopenDue
  | .bridgeRx, s, t => t.bridgeRx = s.bridgeRx
  | .aeArrived, s, t => t.aeArrived = s.aeArrived
  | .ctxs, s, t => t.ctxs = s.ctxs
  | .ctxCount, s, t => t.ctxCount = s.ctxCount
  | .queues, s, t => t.queues = s.queues
  | .turns, s, t => t.turns = s.turns
  | .step, s, t => t.step = s.step
  | .stepFailed, s, t => t.stepFailed = s.stepFailed
  | .array, s, t => t.array = s.array
  | .remoteRoot, s, t => t.remoteRoot = s.remoteRoot
  | .links, s, t => t.links = s.links
  | .wire, s, t => t.wire = s.wire
  | .exchs, s, t => t.exchs = s.exchs
  | .sigCount, s, t => t.sigCount = s.sigCount
  | .destSets, s, t => t.destSets = s.destSets
  | .tainted, s, t => t.tainted = s.tainted
  | .taintSeq, s, t => t.taintSeq = s.taintSeq
  | .windows, s, t => t.windows = s.windows
  | .derived, s, t => t.derived = s.derived
  | .taintNamed, s, t => t.taintNamed = s.taintNamed
  | .bridgeTrain, s, t => t.bridgeTrain = s.bridgeTrain
  | .importing, s, t => t.importing = s.importing
  | .stoppedClk, s, t => t.stoppedClk = s.stoppedClk
  | .refLost, s, t => t.refLost = s.refLost
  | .dark, s, t => t.dark = s.dark
  | .capBelow, s, t => t.capBelow = s.capBelow
  | .limQuiet, s, t => t.limQuiet = s.limQuiet
  | .bankOn, s, t => t.bankOn = s.bankOn
  | .coolCap, s, t => t.coolCap = s.coolCap
  | .coolLow, s, t => t.coolLow = s.coolLow
  | .coolWait, s, t => t.coolWait = s.coolWait
  | .sleeping, s, t => t.sleeping = s.sleeping
  | .sleptPorts, s, t => t.sleptPorts = s.sleptPorts
  | .sleptBridge, s, t => t.sleptBridge = s.sleptBridge
  | .logNext, s, t => t.logNext = s.logNext
  | .logHeld, s, t => t.logHeld = s.logHeld
  | .logOver, s, t => t.logOver = s.logOver
  | .mlog, s, t => t.mlog = s.mlog
  | .losses, s, t => t.losses = s.losses
  | .spikeFirst, s, t => t.spikeFirst = s.spikeFirst
  | .lkoN, s, t => t.lkoN = s.lkoN
  | .lkoSpikes, s, t => t.lkoSpikes = s.lkoSpikes
  | .stepsSeen, s, t => t.stepsSeen = s.stepsSeen
  | .flash, s, t => t.flash = s.flash
  | .active, s, t => t.active = s.active
  | .fresh, s, t => t.fresh = s.fresh
  | .toActivate, s, t => t.toActivate = s.toActivate
  | .digests, s, t => t.digests = s.digests
  | .mgmtStage, s, t => t.mgmtStage = s.mgmtStage
  | .cwyFailed, s, t => t.cwyFailed = s.cwyFailed
  | .measure, s, t => t.measure = s.measure
  | .nonce, s, t => t.nonce = s.nonce
  | .unlockNext, s, t => t.unlockNext = s.unlockNext
  | .testRef, s, t => t.testRef = s.testRef
  | .subs, s, t => t.subs = s.subs
  | .mgmtOut, s, t => t.mgmtOut = s.mgmtOut
  | .doe, s, t => t.doe = s.doe
  | .debugOut, s, t => t.debugOut = s.debugOut
  | .free, s, t => t.free = s.free
  | .pending, s, t => t.pending = s.pending

/-- No part but those listed differs. -/
def Changes (l : List Part) (s t : State) : Prop := ∀ p, p ∉ l → p.same s t

/-- The registers of every page. -/
def allPages : List Part := allPageTypes.map Part.page

/-- What a reset of the module may change (R639, R640). -/
def resetParts : List Part := allPages ++
  [.risen, .ahead, .peaks, .tiles, .fields, .slotOf, .recOnce, .records, .causes, .checks, .suspects, .hostHeld, .msix,
   .d3hot, .edge, .edgeMark, .edgeWb, .selfRefresh, .stackHeat, .scrubAt, .edgeHeld, .fopenDue, .bridgeRx, .aeArrived,
   .ctxs, .ctxCount, .queues, .turns, .step, .stepFailed, .array, .remoteRoot, .links, .exchs, .sigCount, .destSets,
   .tainted, .taintSeq, .windows, .derived, .taintNamed, .bridgeTrain, .importing, .stoppedClk, .refLost, .dark,
   .capBelow, .limQuiet, .coolCap, .coolLow, .coolWait, .sleeping, .sleptPorts, .sleptBridge, .logNext, .logHeld,
   .logOver, .losses, .spikeFirst, .lkoN, .lkoSpikes, .stepsSeen, .digests, .mgmtStage, .cwyFailed, .measure, .nonce,
   .testRef, .subs, .doe]

/-- What each command may change, and nothing else. -/
def partsOf : Instr → List Part
  | .registerWrite .. =>
    resetParts ++ [.hostOut, .fwIrq, .wire, .mlog, .flash, .active, .fresh, .toActivate, .mgmtOut, .free]
  | .snapshotArrival .. =>
    [.page .SEN, .page .TSQ, .page .SPD, .page .MRK, .fopenDue]
  | .opNop .. | .opMovi .. | .opMov .. | .opAdd .. | .opAddi .. | .opSub .. | .opAnd .. | .opOr .. | .opXor .. | .opShl ..
  | .opShr .. | .opMul .. | .opCmp .. | .opTokr .. | .opEnqc .. | .opEnqd .. | .opFwd .. | .opVfma .. | .opVadd ..
  | .opVmul .. | .opVmax .. | .opVmin .. | .opVbcast .. | .opVred .. | .opVmask .. | .opVsel .. | .opVexact .. | .opHalt ..
  | .taskDrained .. =>
    [.tiles]
  | .opRdq .. | .opLdn .. =>
    [.page .TSQ, .page .SPD, .page .FEN, .page .FLT, .risen, .tiles, .fields, .recOnce, .records, .causes, .retained,
      .hostOut, .hostHeld, .fwIrq, .msix]
  | .opWrt .. | .opStn .. =>
    [.page .TSQ, .page .SPD, .page .FEN, .risen, .tiles, .recOnce, .records, .causes, .hostOut, .hostHeld, .fwIrq, .msix]
  | .opMma .. =>
    [.page .TSQ, .page .SPD, .page .FEN, .page .FLT, .risen, .tiles, .records, .causes, .hostOut, .hostHeld, .fwIrq, .msix]
  | .opAclr .. =>
    [.page .FLT, .tiles]
  | .opEmit .. =>
    [.page .ARF, .page .TSQ, .page .SPD, .page .FEN, .risen, .ahead, .tiles, .recOnce, .records, .causes, .checks, .hostOut,
      .hostHeld, .fwIrq, .msix]
  | .opVunp .. =>
    [.page .ARF, .page .TSQ, .page .SPD, .risen, .ahead, .tiles, .recOnce, .records, .causes, .hostOut, .hostHeld, .fwIrq,
      .msix]
  | .opVpack .. | .opVqmx .. =>
    [.page .ARF, .risen, .ahead, .tiles, .recOnce, .records, .hostOut, .hostHeld, .fwIrq, .msix]
  | .opVtab .. | .opVtabd .. =>
    [.tiles, .free]
  | .opMsig .. =>
    [.tiles, .fields]
  | .opMsigWatch .. =>
    [.page .MRK, .tiles]
  | .opBarr .. =>
    [.page .MLW, .page .MRK, .risen, .tiles, .hostOut, .hostHeld, .fwIrq, .msix]
  | .steeringFire .. =>
    [.page .TSQ, .tiles]
  | .steerKind .. =>
    [.page .TSQ, .page .SPD, .risen, .tiles, .records, .causes, .hostOut, .hostHeld, .fwIrq, .msix]
  | .oqLocalTransfer .. | .waitingTokenEntry .. | .readTokenDelivery .. =>
    [.page .TSQ, .risen, .tiles, .recOnce, .records, .hostOut, .hostHeld, .fwIrq, .msix]
  | .gatherFlush .. | .correctionWriteback .. | .scrubRead .. =>
    [.page .SPD, .page .FEN, .risen, .tiles, .recOnce, .records, .hostOut, .hostHeld, .fwIrq, .msix]
  | .segCmdOff .. | .segCmdActive .. | .segCmdRetained .. =>
    [.page .DIR, .page .SPD, .page .FEN, .risen, .tiles, .fields, .recOnce, .records, .hostOut, .hostHeld, .fwIrq, .msix]
  | .segmentWakeDone .. | .segmentGate .. | .gateTimeout .. =>
    [.page .SPD, .page .FEN, .risen, .tiles, .fields, .recOnce, .records, .hostOut, .hostHeld, .fwIrq, .msix]
  | .segSel .. =>
    [.page .DIR, .page .SPD, .risen, .hostOut, .hostHeld, .fwIrq, .msix]
  | .tsqSel .. =>
    [.page .DIR, .page .TSQ, .risen, .hostOut, .hostHeld, .fwIrq, .msix]
  | .neighbourToken .. =>
    [.page .MESH, .page .TSQ, .page .FEN, .risen, .tiles, .fields, .recOnce, .records, .hostOut, .hostHeld, .fwIrq, .msix]
  | .packetHop .. =>
    [.page .MESH, .page .ARF, .page .TSQ, .page .SPD, .page .PWR, .page .FEN, .risen, .ahead, .tiles, .fields, .recOnce,
      .records, .causes, .hostOut, .hostHeld, .fwIrq, .msix]
  | .packetDelivery .. =>
    [.page .BRG, .page .EMP, .page .HBM, .page .MESH, .page .ARF, .page .TSQ, .page .SPD, .page .FEN, .risen, .ahead, .tiles,
      .fields, .recOnce, .records, .causes, .hostOut, .hostHeld, .fwIrq, .msix, .edge, .edgeMark, .edgeWb, .selfRefresh,
      .edgeHeld, .bridgeRx]
  | .wgtRecordEnqueue .. =>
    [.page .MESH, .page .ARF, .page .TSQ, .page .SPD, .page .FEN, .risen, .ahead, .tiles, .fields, .recOnce, .records,
      .causes, .hostOut, .hostHeld, .fwIrq, .msix]
  | .emitterSend .. =>
    [.page .MESH, .risen, .tiles, .recOnce, .records, .causes, .hostOut, .hostHeld, .fwIrq, .msix]
  | .foldReaderSend .. =>
    [.page .MESH, .page .SPD, .page .PAS, .page .FEN, .page .FLT, .risen, .ahead, .tiles, .fields, .recOnce, .records,
      .causes, .retained, .hostOut, .hostHeld, .fwIrq, .msix]
  | .drainStop .. | .drainAbort .. | .drainRelease .. =>
    [.page .DIR, .page .MESH, .page .TSQ, .page .SPD, .page .FEN, .page .FLT, .risen, .tiles, .fields, .recOnce, .records,
      .hostOut, .hostHeld, .fwIrq, .msix, .edgeHeld, .ctxs]
  | .drainSweep .. =>
    [.page .MESH, .page .PAS, .risen, .ahead, .fields, .recOnce, .records, .causes, .hostOut, .hostHeld, .fwIrq, .msix]
  | .drainTimeout .. =>
    [.page .MESH, .risen, .fields, .causes, .hostOut, .hostHeld, .fwIrq, .msix]
  | .linkIsolation .. =>
    [.page .MESH, .page .FLT, .risen, .fields, .records, .retained, .hostOut, .hostHeld, .fwIrq, .msix]
  | .deadlockSpill .. =>
    [.page .MESH, .page .SPD, .page .FEN, .risen, .tiles, .recOnce, .records, .causes, .hostOut, .hostHeld, .fwIrq, .msix]
  | .spillRestore .. =>
    [.page .BRG, .page .EMP, .page .HBM, .page .MESH, .page .ARF, .page .TSQ, .page .SPD, .page .PWR, .page .FEN, .risen,
      .ahead, .tiles, .fields, .recOnce, .records, .causes, .hostOut, .hostHeld, .fwIrq, .msix, .edge, .edgeMark, .edgeWb,
      .selfRefresh, .edgeHeld, .bridgeRx]
  | .deadlock .. | .stallWatchdog .. =>
    [.page .MESH, .risen, .records, .causes, .hostOut, .hostHeld, .fwIrq, .msix]
  | .fepRead .. | .fepWrite .. =>
    [.page .DIR, .page .FEP, .risen, .tiles, .fields, .hostOut, .hostHeld, .fwIrq, .msix]
  | .placeLoad .. =>
    [.page .ENG, .page .AEN, .page .EMP, .page .HBM, .page .MESH, .page .TSQ, .page .SPD, .page .FEN, .page .FLT, .risen,
      .ahead, .tiles, .fields, .recOnce, .records, .hostOut, .hostHeld, .fwIrq, .msix, .edge, .edgeMark, .edgeWb,
      .selfRefresh, .edgeHeld, .ctxs, .queues, .step, .array, .free]
  | .placeLoadCommit .. =>
    [.page .ENG, .page .AEN, .page .EMP, .page .HBM, .page .MESH, .page .TSQ, .page .SPD, .page .PAS, .page .FEN, .page .FLT,
      .risen, .ahead, .tiles, .fields, .recOnce, .records, .hostOut, .hostHeld, .fwIrq, .msix, .edge, .edgeMark, .edgeWb,
      .selfRefresh, .edgeHeld, .ctxs, .queues, .step, .array, .free]
  | .passRun .. =>
    [.page .ENG, .page .AEN, .page .MLW, .page .EMP, .page .HBM, .page .PAS, .page .PWR, .risen, .ahead, .fields, .recOnce,
      .records, .causes, .hostOut, .hostHeld, .fwIrq, .msix, .edge, .edgeMark, .edgeWb, .selfRefresh, .aeArrived, .queues,
      .step, .array, .remoteRoot, .free]
  | .passLoadBegin .. =>
    [.page .MESH, .page .TSQ, .page .SPD, .page .FPW, .page .FEN, .page .FLT, .risen, .tiles, .fields, .recOnce, .records,
      .hostOut, .hostHeld, .fwIrq, .msix, .edgeHeld, .ctxs, .array]
  | .passArmed .. =>
    [.page .AEN, .page .MLW, .page .EMP, .page .HBM, .page .MESH, .page .TSQ, .page .SPD, .page .PAS, .page .FEN, .page .FLT,
      .risen, .ahead, .tiles, .fields, .recOnce, .records, .causes, .hostOut, .hostHeld, .fwIrq, .msix, .edgeWb,
      .selfRefresh, .edgeHeld, .aeArrived, .ctxs, .array]
  | .passRestart .. =>
    [.page .AEN, .page .MESH, .page .TSQ, .page .SPD, .page .PAS, .page .FEN, .page .FLT, .risen, .ahead, .tiles, .fields,
      .recOnce, .records, .hostOut, .hostHeld, .fwIrq, .msix, .edgeHeld, .ctxs, .array]
  | .passFinishing .. =>
    [.page .AEN, .page .MESH, .page .TSQ, .page .SPD, .page .PAS, .page .FEN, .page .FLT, .risen, .ahead, .tiles, .fields,
      .recOnce, .records, .hostOut, .hostHeld, .fwIrq, .msix, .edgeHeld, .ctxs]
  | .passComplete .. =>
    [.page .ENG, .page .AEN, .page .MLW, .page .EMP, .page .HBM, .page .MESH, .page .TSQ, .page .SPD, .page .FPW, .page .FEN,
      .page .FLT, .risen, .ahead, .tiles, .fields, .recOnce, .records, .hostOut, .hostHeld, .fwIrq, .msix, .edge, .edgeMark,
      .edgeWb, .selfRefresh, .edgeHeld, .aeArrived, .ctxs, .queues, .step, .array, .free]
  | .passAbort .. =>
    [.page .ENG, .page .AEN, .page .SEN, .page .MLW, .page .VLX, .page .EMP, .page .HBM, .page .MESH, .page .TSQ, .page .SPD,
      .page .FEN, .page .FLT, .risen, .ahead, .tiles, .fields, .recOnce, .records, .causes, .retained, .suspects, .hostOut,
      .hostHeld, .fwIrq, .msix, .edge, .edgeMark, .edgeWb, .selfRefresh, .edgeHeld, .aeArrived, .ctxs, .queues, .step,
      .array, .exchs, .free]
  | .passFailed .. =>
    [.page .ENG, .page .AEN, .page .MLW, .page .EMP, .page .HBM, .page .MESH, .page .TSQ, .page .SPD, .page .FPW, .page .FEN,
      .page .FLT, .risen, .ahead, .tiles, .fields, .recOnce, .records, .hostOut, .hostHeld, .fwIrq, .msix, .edge, .edgeMark,
      .edgeWb, .selfRefresh, .edgeHeld, .ctxs, .queues, .step, .array, .free]
  | .passAbortNotice .. =>
    [.page .AEN, .risen, .ahead, .causes, .array]
  | .passWatchdog .. =>
    [.causes]
  | .streamOpen .. =>
    [.page .ENG, .page .SEN, .page .EMP, .page .HBM, .risen, .ahead, .fields, .recOnce, .records, .hostOut, .hostHeld,
      .fwIrq, .msix, .edge, .edgeMark, .edgeWb, .selfRefresh, .ctxs, .ctxCount, .queues, .step, .free]
  | .streamCancel .. | .streamContextRelease .. =>
    [.page .ENG, .page .SEN, .page .EMP, .page .HBM, .risen, .ahead, .fields, .recOnce, .records, .hostOut, .hostHeld,
      .fwIrq, .msix, .edge, .edgeMark, .edgeWb, .selfRefresh, .ctxs, .queues, .step, .free]
  | .streamDeliverStart .. =>
    [.page .SEN, .risen, .ahead, .fields, .recOnce, .records, .hostOut, .hostHeld, .fwIrq, .msix, .ctxs]
  | .streamRequest .. =>
    [.page .SEN, .page .VPT, .risen, .ahead, .hostOut, .hostHeld, .fwIrq, .msix, .ctxs, .links, .wire]
  | .streamInject .. =>
    [.page .ENG, .page .SEN, .page .EMP, .page .HBM, .risen, .ahead, .tiles, .fields, .recOnce, .records, .hostOut,
      .hostHeld, .fwIrq, .msix, .edge, .edgeMark, .edgeWb, .selfRefresh, .ctxs, .queues, .step, .free]
  | .streamReadTimeout .. =>
    [.page .SEN, .page .VPT, .risen, .ahead, .recOnce, .records, .hostOut, .hostHeld, .fwIrq, .msix, .ctxs, .links, .wire]
  | .streamStalled .. =>
    [.page .SEN, .risen, .ahead, .recOnce, .records, .hostOut, .hostHeld, .fwIrq, .msix, .ctxs]
  | .senCtxSel .. =>
    [.page .DIR, .page .SEN, .risen, .hostOut, .hostHeld, .fwIrq, .msix]
  | .senFopenSel .. =>
    [.page .DIR, .page .SEN, .risen, .hostOut, .hostHeld, .fwIrq, .msix, .fopenDue]
  | .doorbell .. =>
    [.page .HIF, .page .ENG, .risen, .hostOut, .hostHeld, .fwIrq, .msix]
  | .recordFetch .. | .fetchRetry .. =>
    [.page .HIF, .page .ENG, .page .EMP, .page .HBM, .risen, .ahead, .recOnce, .records, .hostOut, .hostHeld, .fwIrq, .msix,
      .edgeWb, .selfRefresh, .queues, .step]
  | .recordStart .. =>
    [.page .ENG, .page .EMP, .page .HBM, .risen, .ahead, .fields, .recOnce, .records, .hostOut, .hostHeld, .fwIrq, .msix,
      .edge, .edgeMark, .edgeWb, .selfRefresh, .queues, .turns, .step, .free]
  | .nopCommand .. | .markerWrite .. | .milepostCopy .. | .waitTimeout .. | .wmHoldTimeout .. =>
    [.page .ENG, .page .EMP, .page .HBM, .risen, .ahead, .fields, .recOnce, .records, .hostOut, .hostHeld, .fwIrq, .msix,
      .edge, .edgeMark, .edgeWb, .selfRefresh, .queues, .step, .free]
  | .stepBegin .. =>
    allPages ++ [.risen, .ahead, .peaks, .fields, .recOnce, .records, .hostOut, .hostHeld, .fwIrq, .msix, .edge, .edgeMark,
      .edgeWb, .selfRefresh, .queues, .step, .array, .stepsSeen, .free]
  | .waymarkClose .. =>
    allPages ++ [.risen, .ahead, .peaks, .fields, .recOnce, .records, .hostOut, .hostHeld, .fwIrq, .msix, .edge, .edgeMark,
      .edgeWb, .selfRefresh, .queues, .step, .stepFailed, .array, .free]
  | .exchAccum .. | .exchWrite .. | .exchCancel .. =>
    [.page .ENG, .page .VLX, .page .EMP, .page .HBM, .risen, .ahead, .fields, .recOnce, .records, .hostOut, .hostHeld,
      .fwIrq, .msix, .edge, .edgeMark, .edgeWb, .selfRefresh, .queues, .step, .exchs, .free]
  | .exchSignal .. =>
    [.page .ENG, .page .VLX, .page .EMP, .page .HBM, .risen, .ahead, .fields, .recOnce, .records, .hostOut, .hostHeld,
      .fwIrq, .msix, .edge, .edgeMark, .edgeWb, .selfRefresh, .queues, .step, .exchs, .sigCount, .free]
  | .stepRerun =>
    [.page .ENG, .page .SEN, .page .VLX, .page .EMP, .page .HBM, .risen, .ahead, .fields, .recOnce, .records, .causes,
      .hostOut, .hostHeld, .fwIrq, .msix, .edge, .edgeMark, .edgeWb, .selfRefresh, .ctxs, .queues, .step, .exchs, .free]
  | .stepRewind =>
    allPages ++ [.risen, .ahead, .tiles, .fields, .recOnce, .records, .hostOut, .hostHeld, .fwIrq, .msix, .edgeWb,
      .selfRefresh, .edgeHeld, .ctxs, .queues, .step, .array, .free]
  | .stepEnd =>
    [.page .ENG, .page .SEN, .page .VLX, .page .EMP, .page .HBM, .page .MESH, .page .TSQ, .page .SPD, .page .FEN, .page .FLT,
      .risen, .ahead, .tiles, .fields, .recOnce, .records, .causes, .hostOut, .hostHeld, .fwIrq, .msix, .edge, .edgeMark,
      .edgeWb, .selfRefresh, .edgeHeld, .ctxs, .queues, .step, .stepFailed, .exchs, .tainted, .taintSeq, .free]
  | .stepAbort .. =>
    [.page .DIR, .page .ENG, .risen, .hostOut, .hostHeld, .fwIrq, .msix, .step]
  | .queueResume .. =>
    [.page .DIR, .page .ENG, .risen, .hostOut, .hostHeld, .fwIrq, .msix, .queues]
  | .queueConfigWrite .. =>
    [.page .DIR, .page .ENG, .page .AEN, .page .SEN, .page .MLW, .risen, .hostOut, .hostHeld, .fwIrq, .msix, .queues]
  | .markerUpdate .. =>
    [.page .ENG, .page .SEN, .page .EMP, .page .HBM, .page .VPT, .page .MRK, .risen, .ahead, .tiles, .fields, .recOnce,
      .records, .hostOut, .hostHeld, .fwIrq, .msix, .edge, .edgeMark, .edgeWb, .selfRefresh, .ctxs, .queues, .step, .links,
      .wire, .free]
  | .watchDelivery .. =>
    [.page .TSQ, .page .MRK, .risen, .tiles, .recOnce, .records, .hostOut, .hostHeld, .fwIrq, .msix]
  | .watchTimeout .. =>
    [.page .MRK, .risen, .tiles, .recOnce, .records, .causes, .hostOut, .hostHeld, .fwIrq, .msix]
  | .barrierComplete .. =>
    [.page .ENG, .page .AEN, .page .MLW, .page .EMP, .page .HBM, .page .MESH, .page .TSQ, .page .SPD, .page .PAS, .page .FEN,
      .page .FLT, .risen, .ahead, .tiles, .fields, .recOnce, .records, .hostOut, .hostHeld, .fwIrq, .msix, .edge, .edgeMark,
      .edgeWb, .selfRefresh, .edgeHeld, .aeArrived, .ctxs, .queues, .step, .array, .remoteRoot, .free]
  | .barrierWatchdog .. =>
    [.page .MLW, .page .MRK, .risen, .records, .causes, .hostOut, .hostHeld, .fwIrq, .msix]
  | .mrkSel .. =>
    [.page .DIR, .page .MRK, .risen, .hostOut, .hostHeld, .fwIrq, .msix]
  | .writeFrame .. | .signalFrame .. | .taintFrame .. | .readresp .. | .frameAnswer .. | .unacceptedFrame .. =>
    [.page .ENG, .page .CWY, .page .SEN, .page .VLX, .page .EMP, .page .HBM, .page .VPT, .risen, .ahead, .fields, .recOnce,
      .records, .hostOut, .hostHeld, .fwIrq, .msix, .edge, .edgeMark, .edgeWb, .selfRefresh, .ctxs, .queues, .step, .links,
      .wire, .exchs, .windows, .derived, .taintNamed, .importing, .free]
  | .linkControlWord .. | .replayTimer .. =>
    [.page .VPT, .links, .wire]
  | .laneFailure .. | .portFail .. =>
    [.page .ENG, .page .BRG, .page .SEN, .page .VLX, .page .EMP, .page .HBM, .page .VPT, .page .MESH, .risen, .ahead, .tiles,
      .fields, .recOnce, .records, .causes, .hostOut, .hostHeld, .fwIrq, .msix, .edge, .edgeMark, .edgeWb, .selfRefresh,
      .bridgeRx, .ctxs, .queues, .step, .links, .wire, .exchs, .destSets, .windows, .derived, .free]
  | .portDegrade .. =>
    [.page .VPT, .risen, .records, .hostOut, .hostHeld, .fwIrq, .msix, .links, .wire]
  | .laneCalibration .. | .calibrationEnd .. =>
    [.page .VPT]
  | .exchangeFrameSend .. | .ackTimeout .. | .busyBackoff .. =>
    [.page .ENG, .page .VLX, .page .EMP, .page .HBM, .page .VPT, .risen, .ahead, .tiles, .fields, .recOnce, .records,
      .hostOut, .hostHeld, .fwIrq, .msix, .edge, .edgeMark, .edgeWb, .selfRefresh, .queues, .step, .links, .wire, .exchs,
      .destSets, .windows, .derived, .free]
  | .portDisable .. | .portRetrain .. =>
    [.page .DIR, .page .ENG, .page .SEN, .page .VLX, .page .EMP, .page .HBM, .page .VPT, .risen, .ahead, .tiles, .fields,
      .recOnce, .records, .hostOut, .hostHeld, .fwIrq, .msix, .edge, .edgeMark, .edgeWb, .selfRefresh, .ctxs, .queues, .step,
      .links, .wire, .exchs, .destSets, .windows, .derived, .free]
  | .linkTrainingDone .. =>
    [.page .BRG, .page .VPT, .risen, .records, .hostOut, .hostHeld, .fwIrq, .msix, .links, .bridgeTrain]
  | .bridgeReinject .. =>
    [.page .BRG, .tiles, .bridgeRx]
  | .sidebandWord .. =>
    [.remoteRoot]
  | .sidebandLost .. =>
    [.page .BRG, .page .MLW, .page .VLX, .risen, .records, .hostOut, .hostHeld, .fwIrq, .msix, .array, .remoteRoot]
  | .bridgeRetrain .. =>
    [.page .DIR, .page .BRG, .risen, .hostOut, .hostHeld, .fwIrq, .msix, .bridgeTrain]
  | .cwyTest .. | .cwyCrosscheck .. | .cwyMigrate .. | .cwyExport .. | .cwyImport .. =>
    [.page .DIR, .page .CWY, .risen, .records, .hostOut, .hostHeld, .fwIrq, .msix, .links, .importing]
  | .causewayDone .. =>
    [.page .CWY, .page .EMP, .page .HBM, .page .VPT, .risen, .tiles, .recOnce, .records, .hostOut, .hostHeld, .fwIrq, .msix,
      .edgeWb, .selfRefresh, .wire, .importing]
  | .edgeMemoryAccess .. =>
    [.page .SEN, .page .EMP, .page .HBM, .risen, .ahead, .recOnce, .records, .hostOut, .hostHeld, .fwIrq, .msix, .edgeMark,
      .edgeWb, .selfRefresh, .ctxs]
  | .refresh .. =>
    [.page .HBM]
  | .hbmTempReadout .. =>
    [.page .HBM, .page .PWR, .stackHeat]
  | .patrolScrub .. =>
    [.page .EMP, .page .HBM, .risen, .recOnce, .records, .hostOut, .hostHeld, .fwIrq, .msix, .edgeMark, .edgeWb, .scrubAt]
  | .stackFail .. =>
    [.page .EMP, .page .HBM, .page .FLT, .risen, .records, .retained, .hostOut, .hostHeld, .fwIrq, .msix, .step]
  | .selfRefreshEntry .. | .selfRefreshExit .. =>
    [.selfRefresh]
  | .bar4Access .. =>
    [.page .HIF, .page .EMP, .page .HBM, .risen, .recOnce, .records, .hostOut, .hostHeld, .fwIrq, .msix, .edge, .edgeMark,
      .edgeWb, .selfRefresh]
  | .bar0BadRead .. =>
    [.page .HIF, .risen, .hostOut, .hostHeld, .fwIrq, .msix]
  | .pcieReset .. =>
    [.page .HIF, .risen, .hostOut, .hostHeld, .fwIrq, .msix, .d3hot, .doe]
  | .dmaResume .. | .dmaDiscard .. =>
    [.page .DIR, .page .HIF, .page .ENG, .risen, .hostOut, .hostHeld, .fwIrq, .msix, .queues]
  | .doeDiscovery .. | .doeAbort | .getCerts .. =>
    [.doe]
  | .getReport .. =>
    [.page .SEC, .doe]
  | .bankOffline .. | .bankReturn .. =>
    [.page .PWR, .risen, .records, .hostOut, .hostHeld, .fwIrq, .msix, .bankOn]
  | .powerLoss =>
    resetParts
  | .supplyWarn .. =>
    [.page .PWR, .page .FPW, .risen, .fields, .recOnce, .records, .hostOut, .hostHeld, .fwIrq, .msix]
  | .supplyRecover .. =>
    [.page .FPW, .fields]
  | .fieldReset .. =>
    [.page .PWR, .page .FLT, .risen, .fields, .recOnce, .records, .causes, .retained, .hostOut, .hostHeld, .fwIrq, .msix,
      .step, .array]
  | .fieldResetRecovery .. =>
    allPages ++ [.tiles, .fields]
  | .noRecover .. | .overcurrentTrip .. =>
    [.page .PWR, .page .FLT, .risen, .fields, .records, .causes, .retained, .hostOut, .hostHeld, .fwIrq, .msix, .step]
  | .refFailover =>
    [.records, .refLost]
  | .refFailure .. | .rcEnableLow | .rcInterlockLow =>
    resetParts ++ [.hostOut, .fwIrq, .mlog, .mgmtOut]
  | .lockLoss .. | .clockRelock .. =>
    [.fields, .stoppedClk]
  | .relockTimeout .. =>
    [.page .ENG, .page .BRG, .page .SEN, .page .VLX, .page .EMP, .page .HBM, .page .VPT, .page .MESH, .page .PWR, .page .FLT,
      .risen, .ahead, .tiles, .fields, .recOnce, .records, .causes, .retained, .hostOut, .hostHeld, .fwIrq, .msix, .edge,
      .edgeMark, .edgeWb, .selfRefresh, .bridgeRx, .ctxs, .queues, .step, .array, .links, .wire, .exchs, .destSets, .windows,
      .derived, .stoppedClk, .free]
  | .ageingRead .. =>
    [.page .FPW, .page .FLT, .risen, .fields, .records, .retained, .hostOut, .hostHeld, .fwIrq, .msix]
  | .temperatureSample .. =>
    [.page .MESH, .page .TSQ, .page .SPD, .page .PWR, .page .FPW, .page .FEN, .page .FLT, .risen, .tiles, .fields, .recOnce,
      .records, .causes, .retained, .hostOut, .hostHeld, .fwIrq, .msix, .edgeHeld, .ctxs, .step, .array]
  | .thermalThrottleStep .. =>
    [.page .FPW, .risen, .hostOut, .hostHeld, .fwIrq, .msix]
  | .thermalReleaseStep .. =>
    [.page .FPW]
  | .thermalUnpark .. =>
    [.page .SPD, .page .FPW, .page .FEN, .risen, .tiles, .recOnce, .records, .hostOut, .hostHeld, .fwIrq, .msix, .array]
  | .layby .. | .wake .. | .park .. | .parkRetain .. | .unpark .. =>
    [.page .DIR, .page .SPD, .page .FPW, .page .FEN, .risen, .tiles, .recOnce, .records, .hostOut, .hostHeld, .fwIrq, .msix,
      .array]
  | .laybyDone .. =>
    [.page .FPW, .risen, .tiles, .hostOut, .hostHeld, .fwIrq, .msix]
  | .wakeDone .. | .unparkDone .. =>
    [.page .SPD, .page .FPW, .page .FEN, .page .FLT, .page .SYS, .risen, .tiles, .fields, .recOnce, .records, .causes,
      .retained, .hostOut, .hostHeld, .fwIrq, .msix]
  | .parkDone .. =>
    [.page .FPW, .risen, .tiles, .fields, .hostOut, .hostHeld, .fwIrq, .msix]
  | .portLayby .. | .portWake .. | .bridgeLayby .. | .bridgeWake .. =>
    [.page .DIR, .page .BRG, .page .VPT, .page .PWR, .risen, .hostOut, .hostHeld, .fwIrq, .msix, .links, .bridgeTrain]
  | .portWakeDone .. =>
    [.page .VPT, .page .PWR, .page .SYS, .risen, .hostOut, .hostHeld, .fwIrq, .msix, .sleptPorts]
  | .bridgeWakeDone =>
    [.page .PWR, .page .SYS, .risen, .hostOut, .hostHeld, .fwIrq, .msix, .bridgeTrain, .sleptBridge]
  | .coolantSample .. =>
    [.page .PWR, .risen, .records, .hostOut, .hostHeld, .fwIrq, .msix, .step, .coolCap, .coolLow, .coolWait, .sleeping]
  | .powerSample .. =>
    [.page .PWR, .page .FPW, .page .FEN, .capBelow, .limQuiet]
  | .limiterEngage =>
    [.page .PWR, .page .FPW, .risen, .hostOut, .hostHeld, .fwIrq, .msix, .limQuiet]
  | .pwrCapWrite .. =>
    [.page .DIR, .page .PWR, .risen, .hostOut, .hostHeld, .fwIrq, .msix]
  | .errorRecord =>
    [.page .EMP, .page .HBM, .page .FLT, .risen, .ahead, .recOnce, .records, .hostOut, .hostHeld, .fwIrq, .msix, .edge,
      .edgeMark, .edgeWb, .selfRefresh, .logNext, .logHeld, .logOver, .mlog, .mgmtOut]
  | .logHeadWrite .. =>
    [.page .DIR, .page .EMP, .page .HBM, .page .FLT, .risen, .recOnce, .records, .hostOut, .hostHeld, .fwIrq, .msix, .edge,
      .edgeMark, .edgeWb, .selfRefresh, .logHeld]
  | .dmapCopy .. =>
    [.page .DIR, .page .EMP, .page .HBM, .page .FLT, .risen, .recOnce, .records, .hostOut, .hostHeld, .fwIrq, .msix, .edge,
      .edgeMark, .edgeWb, .selfRefresh]
  | .checkFeed .. =>
    [.page .FLT, .risen, .ahead, .checks]
  | .checkVerdict .. | .checkDeadline .. =>
    [.page .FLT, .risen, .ahead, .fields, .records, .checks, .retained, .suspects, .hostOut, .hostHeld, .fwIrq, .msix, .step,
      .exchs, .tainted, .taintSeq, .free]
  | .rebind =>
    [.page .CWY, .page .SEN, .page .EMP, .page .HBM, .page .MESH, .page .TSQ, .page .SPD, .page .PAS, .page .FPW, .page .FEN,
      .page .FLT, .risen, .ahead, .tiles, .fields, .slotOf, .recOnce, .records, .causes, .retained, .hostOut, .hostHeld,
      .fwIrq, .msix, .edgeWb, .selfRefresh, .edgeHeld, .ctxs, .step, .array, .free]
  | .lookoutPoll =>
    [.page .LKO, .risen, .ahead, .records, .hostOut, .hostHeld, .fwIrq, .msix, .losses, .spikeFirst, .lkoN, .lkoSpikes]
  | .powerOnReset .. =>
    resetParts ++ [.hostOut, .fwIrq, .mlog, .active, .fresh, .toActivate, .mgmtOut]
  | .moduleReset .. =>
    resetParts ++ [.hostOut, .fwIrq, .active, .fresh, .toActivate, .mgmtOut]
  | .startupStep .. =>
    [.page .DIR, .page .HIF, .page .BRG, .page .CWY, .page .SEN, .page .EMP, .page .HBM, .page .VPT, .page .MESH, .page .FPW,
      .page .FLT, .page .SYS, .page .SEC, .risen, .fields, .slotOf, .records, .hostOut, .hostHeld, .fwIrq, .msix,
      .bridgeTrain, .mlog, .fresh, .digests, .mgmtStage, .cwyFailed, .measure, .unlockNext, .mgmtOut, .free]
  | .rcEnableHigh =>
    [.page .PWR, .page .FPW, .page .SYS, .risen, .hostOut, .hostHeld, .fwIrq, .msix, .sleeping]
  | .rcInterlockHigh | .activationTimeout =>
    resetParts ++ [.hostOut, .fwIrq, .active, .fresh, .toActivate]
  | .pinGlitch .. =>
    [.page .SYS, .risen]
  | .fieldBist .. | .testCrosscheck .. | .volinoCal .. | .bridgeCal .. | .causewayTest .. =>
    [.page .DIR, .page .SYS, .risen, .tiles, .hostOut, .hostHeld, .fwIrq, .msix, .testRef]
  | .heldTestStart =>
    [.page .SYS, .tiles, .testRef]
  | .testComplete .. =>
    [.page .CWY, .page .EMP, .page .HBM, .page .SPD, .page .FEN, .page .FLT, .page .SYS, .risen, .tiles, .fields, .recOnce,
      .records, .retained, .hostOut, .hostHeld, .fwIrq, .msix, .edgeWb, .selfRefresh, .testRef]
  | .stageImage .. | .activateImage .. | .commitImage .. =>
    [.page .DIR, .page .EMP, .page .HBM, .page .SEC, .risen, .recOnce, .records, .hostOut, .hostHeld, .fwIrq, .msix, .edgeWb,
      .selfRefresh, .mlog, .flash, .toActivate, .mgmtOut]
  | .enclosureOpening =>
    [.page .SEC, .risen, .records, .hostOut, .hostHeld, .fwIrq, .msix, .mlog, .mgmtOut]
  | .debugUnlock .. =>
    [.nonce, .unlockNext, .mgmtOut, .free]
  | .sealFuse .. =>
    [.page .DIR, .page .SEC, .risen, .hostOut, .hostHeld, .fwIrq, .msix, .mgmtOut]
  | .powercapSet .. =>
    [.page .PWR, .mgmtOut]
  | .managerReset .. =>
    [.page .SEC, .records, .mlog, .active, .fresh, .toActivate, .digests, .mgmtStage, .measure, .subs, .mgmtOut]
  | .componentIntegrity .. =>
    [.page .SEC, .mgmtOut]
  | .updatePush .. =>
    [.page .SEC, .risen, .records, .hostOut, .hostHeld, .fwIrq, .msix, .mlog, .flash, .toActivate, .mgmtOut]
  | .eventSubscription .. =>
    [.subs, .mgmtOut]
  | .pldmRequest .. =>
    [.mgmtOut, .free]
  | .burstWriteback .. =>
    [.edgeMark, .edgeWb]
  | .debugPortAccess =>
    [.debugOut]
  | .configSpaceWrite .. =>
    [.page .HIF, .hostOut, .hostHeld, .d3hot]

/-- The command runs to a next state that has the property. -/
def RunsTo (c : Instr) (s : State) (P : State → Prop) : Prop := ∃ t, exec c s = .next t ∧ P t

/-- The command runs to a next state. -/
def Completes (c : Instr) (s : State) : Prop := ∃ t, exec c s = .next t

/-- A task's context. -/
def State.taskOf (s : State) (a : TileAddr) (task : Nat) : TaskCtx := (s.tile a).task task

/-- The word in a slot of a tile's instruction store. -/
def State.slotOp (s : State) (a : TileAddr) (slot : Nat) : SlotWord := (s.tile a).slotWord slot

/-- The state after the dequeues and updates of a firing (R109, R112), before the instruction's own effect. -/
def State.fired (s : State) (a : TileAddr) (task slot : Nat) : State :=
  s.setTile a ((s.tile a).retire task (s.slotOp a slot) false)

/-- How many heads an instruction takes from the queue of a queue code: one for QA and one for QB (R109). -/
def SlotWord.takes (w : SlotWord) (code : Nat) : Nat :=
  boolNat (w.deqa && w.qa == code) + boolNat (w.deqb && w.qb == code)

/-- Only the tile changed. -/
structure OnlyTile (a : TileAddr) (s t : State) : Prop where
  state : t = { s with tiles := t.tiles }
  tiles : ∀ b, b ≠ a → t.tile b = s.tile b

/-- Of a tile only task contexts, queues, rate counts and the tasks that issued last changed; of the contexts only that of the task, and there only registers,
predicates and counters. -/
structure TileFiring (task : Nat) (t u : Tile) : Prop where
  tile : u = { t with tasks := u.tasks, dq := u.dq, cq := u.cq, oq := u.oq, counts := u.counts, issued := u.issued }
  tasks : ∀ k, k ≠ task → u.task k = t.task k
  context : u.task task = { t.task task with
    g := (u.task task).g, p := (u.task task).p, cval := (u.task task).cval, cdone := (u.task task).cdone }

/-- A firing that leaves the banks, the accumulators and the configuration of its tile alone. -/
structure FiringFrame (a : TileAddr) (task : Nat) (s t : State) : Prop where
  only : OnlyTile a s t
  firing : TileFiring task (s.tile a) (t.tile a)

/-- From u to t a control token joined the destination d of a tile, behind what stood there. -/
def JoinedCtl (a : TileAddr) (d : Nat) (x : CtlTok) (u t : State) : Prop :=
  (d < 8 → (t.tile a).oqOf d = (u.tile a).oqOf d ++ [.ctl x]) ∧
  (8 ≤ d → d < 12 → (t.tile a).cqOf (d - 8) = (u.tile a).cqOf (d - 8) ++ [x])

/-- From u to t a data token joined the output queue d of a tile, behind what stood there. -/
def JoinedData (a : TileAddr) (d : Nat) (x : DataTok) (u t : State) : Prop :=
  d < 8 → (t.tile a).oqOf d = (u.tile a).oqOf d ++ [.data x]

/-- An instruction that writes one register: the register, the other registers, and the frame of its firing. -/
structure Wrote (a : TileAddr) (task : Nat) (s : State) (dst : Nat) (v : W32) (t : State) : Prop where
  value : (t.taskOf a task).reg dst = v
  others : ∀ n, n ≠ dst → (t.taskOf a task).reg n = (s.taskOf a task).reg n
  frame : FiringFrame a task s t

/-- An instruction that writes one vector: its lanes, the other registers, and the frame of its firing. -/
structure WroteVec (a : TileAddr) (task : Nat) (s : State) (dst : Nat) (v : Nat → W32) (t : State) : Prop where
  value : ∀ l, l < 16 → (t.taskOf a task).lane dst l = v l
  others : ∀ n, n / 16 ≠ dst → (t.taskOf a task).reg n = (s.taskOf a task).reg n
  frame : FiringFrame a task s t

/-- Every register but those listed, each a page and an offset, reads as before. -/
def RegsBut (ks : List (Page × Nat)) (s t : State) : Prop :=
  ∀ k, (∀ x ∈ ks, k ≠ regKey x.1 x.2) → look regDefault t.regs k = look regDefault s.regs k

/-- Nothing changed but registers, what their interrupts send (R530), and the counts held for a later waymark (R366). -/
def OnlyRegs (s t : State) : Prop :=
  t = { s with regs := t.regs, risen := t.risen, ahead := t.ahead, hostOut := t.hostOut, hostHeld := t.hostHeld, fwIrq := t.fwIrq, msix := t.msix }

/-- Only the tile and the registers listed changed. -/
structure TileAndRegs (a : TileAddr) (ks : List (Page × Nat)) (s t : State) : Prop where
  state : t = { s with regs := t.regs, tiles := t.tiles }
  tiles : ∀ b, b ≠ a → t.tile b = s.tile b
  regs : RegsBut ks s t

/-- The counters of bytes moved at the banks of a field's tiles (R577). -/
def bankCounters (f : FieldAddr) : List (Page × Nat) :=
  [(⟨.FEN, f.inst⟩, C.FEN_NEAR_BYTES.off), (⟨.FEN, f.inst⟩, C.FEN_DEEP_BYTES.off)]

/-- A row of a bank reads without an event: no gather entry names it and its four words have good check codes. -/
def Tile.rowClean (t : Tile) (deep : Bool) (row : Nat) : Prop :=
  (∀ e ∈ t.gather, ¬ (e.deep = deep ∧ e.row = row)) ∧ ∀ k, k < 4 → t.mark deep (32 * row + 8 * k) = .good

/-- Nothing changed but registers, counts held, what interrupts send, and the error records that wait for service firmware. -/
def OnlyNoted (s t : State) : Prop :=
  t = { s with regs := t.regs, risen := t.risen, ahead := t.ahead, hostOut := t.hostOut, hostHeld := t.hostHeld, fwIrq := t.fwIrq, msix := t.msix
               records := t.records, recOnce := t.recOnce }

/-- Nothing changed but registers, counts held, what interrupts send, error records, and the tiles. -/
def OnlyTilesNoted (s t : State) : Prop :=
  t = { s with regs := t.regs, risen := t.risen, ahead := t.ahead, hostOut := t.hostOut, hostHeld := t.hostHeld, fwIrq := t.fwIrq, msix := t.msix
               records := t.records, recOnce := t.recOnce, tiles := t.tiles }

/-- The bytes stored to the edge memory of a plane from an address on: each good burst of a stack in service takes its bytes, and
every byte outside them reads as before. -/
def EdgeStored (p : Fin 2) (a : Nat) (bs : List Byte) (s t : State) : Prop :=
  (∀ i b, bs[i]? = some b → s.stackDead p (64 * ((a + i) / 64)) = false → s.burstMark p ((a + i) / 64) = .good →
    t.edgeByte p (a + i) = b) ∧
  ∀ (q : Fin 2) x, x < 2 ^ 48 → a + bs.length ≤ 2 ^ 48 → (q ≠ p ∨ x < a ∨ a + bs.length ≤ x) → t.edgeByte q x = s.edgeByte q x

/-- A counter has counted n, up to its largest value. -/
def Counts (c : Ctr) (i n : Nat) (s t : State) : Prop := t.getC c i = min (ctrMax (ctrSpec c).wide) (s.getC c i + n)

/-- A counter has counted one event of a waymark: in the running values, in the shadow, or not at all (R397, R400). -/
def CountsWm (c : Ctr) (i : Nat) (w : Waymark) (s t : State) : Prop := t.getC c i = (s.countWm c i 1 w).getC c i

end Sys2Proof.Machine
end

