-- ==== Sys2Proof/Certificates/Slice0/Obligations.lean ====
section
/-!
DEFINITION. The statements for the provers. Each says in its docstring which rule of the spec it formalises; RunsTo c s P says that
the command c runs from s to a next state that has P.
-/

open Sys2Proof Sys2Proof.Machine

/-- What a step does with a waiting command: the model's own queue, assumption 1. -/
def Obligations.StepRunsFront : Prop :=
  ∀ (c : Instr) (r : List Instr) (s : State), s.pending = c :: r → step s = exec c { s with pending := r }

/-- The queue holds commands from outside only (assumption 1): no engine of the module sends one to itself. -/
def Obligations.CommandsTakeOneTurn : Prop :=
  ∀ s t : State, step s = .next t → t.pending = s.pending.tail

/-- The invariant of StepKeepsSound holds at reset. -/
def Obligations.ResetIsSound : Prop :=
  State.reset.Sound ∧ State.reset.pending = []

/-- Equal contents stay equal data, and no list outgrows the size that the spec gives it (R598, R603, R667, R670). -/
def Obligations.StepKeepsSound : Prop :=
  ∀ s t : State, s.Sound → step s = .next t → t.Sound

/-- Nothing that a tile, a mesh, a frame, a stream, an engine or a sensor does reaches what the security die and the management controller guard. -/
def Obligations.GuardedStateIsIsolated : Prop :=
  (∀ (c : Instr) (s t : State), touchesGuarded c = false → exec c s = .next t → t.guarded = s.guarded) ∧
  ∀ s t : State, s.pending = [] → step s = .next t → t.guarded = s.guarded

/-- The spec gives every command an effect, or says that it changes nothing: no command of this block stops it. -/
def Obligations.EveryCommandRuns : Prop :=
  (∀ (c : Instr) (s : State), Completes c s) ∧ ∀ s : State, ∃ t, step s = .next t

/-- R111: each task fires at most one ready instruction, the one in its lowest-numbered slot. -/
def Obligations.AtMostOneInstructionIsReadyToFire : Prop :=
  ∀ (a : TileAddr) (task : Fin 4) (i j : Fin 128) (o q : Nat) (s : State),
    s.canFire a task i o = true →
    (∀ other : Fin 4, s.canFire a other j q = true → opClass q = opClass o → other = task) ∧
    (s.canFire a task j q = true →
      i = j ∧ o = q ∧ (s.taskOf a task).slotBase ≤ i ∧ i < (s.taskOf a task).slotBase + (s.taskOf a task).slotCount ∧
      (s.taskOf a task).state = .running ∧
      ∀ k, (s.taskOf a task).slotBase ≤ k → k < i → (s.tile a).ready task k = false)

/-- R110, R111: only the lowest-numbered ready slot of a RUNNING task fires. -/
def Obligations.NothingFiresUnready : Prop :=
  ∀ (a : TileAddr) (task : Fin 4) (slot : Fin 128) (s : State),
    ∀ x ∈ ([(.opNop a task slot, 0x00), (.opMovi a task slot, 0x01), (.opMov a task slot, 0x02), (.opAdd a task slot, 0x03),
      (.opAddi a task slot, 0x04), (.opSub a task slot, 0x05), (.opAnd a task slot, 0x06), (.opOr a task slot, 0x07),
      (.opXor a task slot, 0x08), (.opShl a task slot, 0x09), (.opShr a task slot, 0x0A), (.opMul a task slot, 0x0B),
      (.opCmp a task slot, 0x0C), (.opTokr a task slot, 0x10), (.opEnqc a task slot, 0x11), (.opEnqd a task slot, 0x12),
      (.opFwd a task slot, 0x13), (.opRdq a task slot, 0x18), (.opWrt a task slot, 0x19), (.opLdn a task slot, 0x1A),
      (.opStn a task slot, 0x1B), (.opMma a task slot, 0x20), (.opAclr a task slot, 0x21), (.opEmit a task slot, 0x22),
      (.opVunp a task slot, 0x28), (.opVpack a task slot, 0x29), (.opVfma a task slot, 0x2A), (.opVadd a task slot, 0x2B),
      (.opVmul a task slot, 0x2C), (.opVmax a task slot, 0x2D), (.opVmin a task slot, 0x2E), (.opVbcast a task slot, 0x2F),
      (.opVred a task slot, 0x30), (.opVtab a task slot, 0x31), (.opVtabd a task slot, 0x32), (.opVmask a task slot, 0x33),
      (.opVsel a task slot, 0x34), (.opVqmx a task slot, 0x35), (.opVexact a task slot, 0x36), (.opMsig a task slot, 0x38),
      (.opMsigWatch a task slot, 0x38), (.opBarr a task slot, 0x39), (.opHalt a task slot, 0x3F)] : List (Instr × Nat)),
      s.canFire a task slot x.2 = false → exec x.1 s = .next s

/-- R116, the rows MOVI to MUL; R109 and R112 give what else a firing does. -/
def Obligations.ScalarInstructionsWriteTheirResult : Prop :=
  ∀ (a : TileAddr) (task : Fin 4) (slot : Fin 128) (s : State),
    let w := s.slotOp a slot
    let x := (s.taskOf a task).reg w.src1
    let y := (s.taskOf a task).reg w.src2
    (s.canFire a task slot 0x01 = true →
      RunsTo (.opMovi a task slot) s (Wrote a task s w.dst (w.simm))) ∧
    (s.canFire a task slot 0x02 = true →
      RunsTo (.opMov a task slot) s (Wrote a task s w.dst (x))) ∧
    (s.canFire a task slot 0x03 = true →
      RunsTo (.opAdd a task slot) s (Wrote a task s w.dst (BitVec.ofNat 32 (x.toNat + y.toNat)))) ∧
    (s.canFire a task slot 0x04 = true →
      RunsTo (.opAddi a task slot) s (Wrote a task s w.dst (BitVec.ofInt 32 (x.toNat + natSigned 20 w.imm)))) ∧
    (s.canFire a task slot 0x05 = true →
      RunsTo (.opSub a task slot) s (Wrote a task s w.dst (BitVec.ofInt 32 ((x.toNat : Int) - y.toNat)))) ∧
    (s.canFire a task slot 0x06 = true →
      RunsTo (.opAnd a task slot) s (Wrote a task s w.dst (x &&& y))) ∧
    (s.canFire a task slot 0x07 = true →
      RunsTo (.opOr a task slot) s (Wrote a task s w.dst (x ||| y))) ∧
    (s.canFire a task slot 0x08 = true →
      RunsTo (.opXor a task slot) s (Wrote a task s w.dst (x ^^^ y))) ∧
    (s.canFire a task slot 0x09 = true →
      RunsTo (.opShl a task slot) s (Wrote a task s w.dst (BitVec.ofNat 32 (x.toNat * 2 ^ w.immF 4 0)))) ∧
    (s.canFire a task slot 0x0A = true →
      RunsTo (.opShr a task slot) s (Wrote a task s w.dst (BitVec.ofNat 32 (x.toNat / 2 ^ w.immF 4 0)))) ∧
    (s.canFire a task slot 0x0B = true →
      RunsTo (.opMul a task slot) s (Wrote a task s w.dst (BitVec.ofNat 32 (x.toNat * y.toNat))))

/-- R109, R112 and the reset of R114, shown on NOP, for which R116 says: DEQA, DEQB, POP and COP act. -/
def Obligations.FiringTakesHeadsAndUpdates : Prop :=
  ∀ (a : TileAddr) (task : Fin 4) (slot : Fin 128) (s : State),
    let w := s.slotOp a slot
    let c := s.taskOf a task
    s.canFire a task slot 0x00 = true →
      RunsTo (.opNop a task slot) s (fun t =>
        FiringFrame a task s t ∧ (∀ n, (t.taskOf a task).reg n = c.reg n) ∧
        (∀ n, n < 8 → (t.tile a).dqOf n = ((s.tile a).dqOf n).drop (w.takes n)) ∧
        (w.cop ≠ 1 → ∀ n, n < 4 → (t.tile a).cqOf n = ((s.tile a).cqOf n).drop (w.takes (8 + n))) ∧
        (w.cop ≠ 1 → ∀ n, (t.tile a).oqOf n = (s.tile a).oqOf n) ∧
        (∀ n, n < 8 → n ≠ w.pidx → (t.taskOf a task).p.getLsbD n = c.p.getLsbD n) ∧
        (w.pop = 0 → (t.taskOf a task).p = c.p) ∧
        (w.pop = 2 → (t.taskOf a task).p.getLsbD w.pidx = true) ∧
        (w.pop = 3 → (t.taskOf a task).p.getLsbD w.pidx = false) ∧
        (w.cop = 0 → ∀ n, (t.taskOf a task).ctr n = c.ctr n ∧ (t.taskOf a task).cdone = c.cdone) ∧
        (w.cop = 2 → (t.taskOf a task).ctr w.cidx = 0 ∧ (t.taskOf a task).cdone.getLsbD w.cidx = false ∧
          ∀ n, n ≠ w.cidx → (t.taskOf a task).ctr n = c.ctr n ∧
            (n < 8 → (t.taskOf a task).cdone.getLsbD n = c.cdone.getLsbD n)))

/-- R114: step(c), with the token kinds of R90 (0 NEXT, 1 LAST). -/
def Obligations.CountersStepAsDefined : Prop :=
  ∀ (a : TileAddr) (task : Fin 4) (slot : Fin 128) (s : State),
    let w := s.slotOp a slot
    let c := s.taskOf a task
    let n := w.cidx
    let k := c.cfg n
    let tok (kind : BitVec 4) : CtlTok := { kind := kind, value := BitVec.ofNat 8 n, epoch := (s.tile a).epoch }
    let joined (t : State) (x : CtlTok) : Prop :=
      (k.tokq.toNat < 8 → (t.tile a).oqOf k.tokq.toNat = (s.tile a).oqOf k.tokq.toNat ++ [.ctl x]) ∧
      (8 ≤ k.tokq.toNat → k.tokq.toNat < 12 →
        (t.tile a).cqOf (k.tokq.toNat - 8) = ((s.tile a).cqOf (k.tokq.toNat - 8)).drop (w.takes k.tokq.toNat) ++ [x])
    s.canFire a task slot 0x00 = true → w.cop = 1 →
      (c.ctr n + 1 ≠ k.limit → RunsTo (.opNop a task slot) s (fun t =>
        (t.taskOf a task).ctr n = c.ctr n + 1 ∧ (t.taskOf a task).cdone.getLsbD n = false ∧
        (∀ m, m ≠ n → (t.taskOf a task).ctr m = c.ctr m) ∧
        (∀ m, m < 8 → m ≠ n → (t.taskOf a task).cdone.getLsbD m = c.cdone.getLsbD m) ∧
        (k.tokmode = 2 → joined t (tok 0)))) ∧
      (c.ctr n + 1 = k.limit → k.chain = false → RunsTo (.opNop a task slot) s (fun t =>
        (t.taskOf a task).ctr n = 0 ∧ (t.taskOf a task).cdone.getLsbD n = true ∧
        (∀ m, m ≠ n → (t.taskOf a task).ctr m = c.ctr m) ∧
        (∀ m, m < 8 → m ≠ n → (t.taskOf a task).cdone.getLsbD m = c.cdone.getLsbD m) ∧
        (k.tokmode ≠ 0 → joined t (tok 1)))) ∧
      (c.ctr n + 1 = k.limit → k.chain = true → n < 7 → c.ctr (n + 1) + 1 ≠ (c.cfg (n + 1)).limit →
        RunsTo (.opNop a task slot) s (fun t =>
          (t.taskOf a task).ctr n = 0 ∧ (t.taskOf a task).cdone.getLsbD n = true ∧
          (t.taskOf a task).ctr (n + 1) = c.ctr (n + 1) + 1 ∧ (t.taskOf a task).cdone.getLsbD (n + 1) = false ∧
          ∀ m, m ≠ n → m ≠ n + 1 → (t.taskOf a task).ctr m = c.ctr m))

/-- R116, the row CMP, with the predicate update of R109 and R115. -/
def Obligations.CompareSetsThePredicate : Prop :=
  ∀ (a : TileAddr) (task : Fin 4) (slot : Fin 128) (s : State),
    let w := s.slotOp a slot
    let c := s.taskOf a task
    let x := c.reg w.src1
    let y := c.reg w.src2
    let nan (v : W32) : Prop := wbits v 30 23 = 255 ∧ wbits v 22 0 ≠ 0
    s.canFire a task slot 0x0C = true →
      RunsTo (.opCmp a task slot) s (fun t =>
        FiringFrame a task s t ∧ (∀ n, (t.taskOf a task).reg n = c.reg n) ∧
        (∀ n, n < 8 → n ≠ w.pidx → (t.taskOf a task).p.getLsbD n = c.p.getLsbD n) ∧
        (w.pop = 1 → ∀ r : Bool, (t.taskOf a task).p.getLsbD w.pidx = r →
          (w.immF 2 0 = 0 → (r = true ↔ x = y)) ∧ (w.immF 2 0 = 1 → (r = true ↔ x ≠ y)) ∧
          (w.immF 2 0 = 2 → (r = true ↔ x.toInt < y.toInt)) ∧ (w.immF 2 0 = 3 → (r = true ↔ y.toInt ≤ x.toInt)) ∧
          (w.immF 2 0 = 4 → (r = true ↔ x.toNat < y.toNat)) ∧ (w.immF 2 0 = 5 → (r = true ↔ y.toNat ≤ x.toNat)) ∧
          (6 ≤ w.immF 2 0 → nan x ∨ nan y → r = false)))

/-- R116, the rows TOKR, ENQC, ENQD, FWD and HALT; R90 gives the 16 bits of a control token, R103 the epoch of a new token. -/
def Obligations.QueueInstructionsMoveTokens : Prop :=
  ∀ (a : TileAddr) (task : Fin 4) (slot : Fin 128) (s : State),
    let w := s.slotOp a slot
    let c := s.taskOf a task
    let b := s.tile a
    let kept (t : State) : Prop := FiringFrame a task s t ∧ ∀ n, (t.taskOf a task).reg n = c.reg n
    (s.canFire a task slot 0x10 = true →
      (∀ d, b.headData w.qa = some d → RunsTo (.opTokr a task slot) s
        (Wrote a task s w.dst (BitVec.ofNat 32 (d.payload.toNat / 2 ^ (32 * w.immF 2 0) % 2 ^ 32)))) ∧
      (∀ x, b.headCtl w.qa = some x → RunsTo (.opTokr a task slot) s
        (Wrote a task s w.dst (BitVec.ofNat 32 (x.kind.toNat + 2 ^ 4 * x.value.toNat + 2 ^ 12 * x.epoch.toNat))))) ∧
    (s.canFire a task slot 0x11 = true → RunsTo (.opEnqc a task slot) s (fun t => kept t ∧
      JoinedCtl a (w.immF 15 12)
        { kind := BitVec.ofNat 4 (w.immF 3 0), value := BitVec.ofNat 8 (w.immF 11 4), epoch := b.epoch } (s.fired a task slot) t)) ∧
    (s.canFire a task slot 0x12 = true → RunsTo (.opEnqd a task slot) s (fun t => kept t ∧
      ∃ d : DataTok, JoinedData a (w.immF 7 4) d (s.fired a task slot) t ∧ d.scales = 0 ∧ d.fmt.toNat = w.immF 3 0 ∧
        d.saxis = false ∧ d.epoch = b.epoch ∧
        ∀ i, i < 8 → d.payload.toNat / 2 ^ (32 * i) % 2 ^ 32 = (c.reg (w.dst + i)).toNat)) ∧
    (s.canFire a task slot 0x13 = true →
      (∀ d, b.headData w.qa = some d → RunsTo (.opFwd a task slot) s (fun t => kept t ∧
        JoinedData a (w.immF 3 0) d (s.fired a task slot) t)) ∧
      (∀ x, b.headCtl w.qa = some x → RunsTo (.opFwd a task slot) s (fun t => kept t ∧
        JoinedCtl a (w.immF 3 0) x (s.fired a task slot) t))) ∧
    (s.canFire a task slot 0x3F = true → RunsTo (.opHalt a task slot) s (fun t =>
      OnlyTile a s t ∧ (t.taskOf a task).state = .done ∧ (∀ n, (t.taskOf a task).reg n = c.reg n) ∧
      ∀ k, k ≠ task.val → t.taskOf a k = s.taskOf a k))

/-- R116, the rows LDN and RDQ; R157 gives the window, R160 the narrow word, R165 and R166 the read engine in mode PLAIN. -/
def Obligations.MemoryReadsDeliverBankBytes : Prop :=
  ∀ (a : TileAddr) (task : Fin 4) (slot : Fin 128) (s : State),
    let w := s.slotOp a slot
    let c := s.taskOf a task
    let b := s.tile a
    (let deep := w.immF 0 0 == 1
     let off := c.bankOff deep (narrowAddr c w)
     s.canFire a task slot 0x1A = true → narrowAddr c w + 4 ≤ 32 * c.limit deep → segFault b false [(deep, off)] = false →
      b.rowClean deep (off / 32) →
      RunsTo (.opLdn a task slot) s (fun t =>
        ((t.taskOf a task).reg w.dst).toNat = (b.byte deep off).toNat + 2 ^ 8 * (b.byte deep (off + 1)).toNat +
          2 ^ 16 * (b.byte deep (off + 2)).toNat + 2 ^ 24 * (b.byte deep (off + 3)).toNat ∧
        (∀ n, n ≠ w.dst → (t.taskOf a task).reg n = c.reg n) ∧ TileFiring task b (t.tile a) ∧
        TileAndRegs a (bankCounters a.fld) s t)) ∧
    (let deep := w.immF 2 2 == 1
     let n := w.immF 10 3
     s.canFire a task slot 0x18 = true → (w.immF 1 0 = 1 → n % 2 = 0) → rdqFault c w = none →
      segFault b false ((List.range n).flatMap (fun k => tokenBytes c w k)) = false →
      (∀ k, k < n → ∀ u ∈ tokenBytes c w k, b.rowClean u.1 (u.2 / 32)) →
      RunsTo (.opRdq a task slot) s (fun t =>
        (∀ d o, (t.tile a).byte d o = b.byte d o) ∧ (∀ r, (t.taskOf a task).reg r = c.reg r) ∧
        TileAndRegs a (bankCounters a.fld) s t ∧
        (0 < n → ∃ toks : List DataTok,
          (t.tile a).reads = b.reads ++ [{ task := task, dq := w.immF 17 15, deep := deep, toks := toks }] ∧
          toks.length = n ∧
          ∀ k, k < n → ∃ d, toks[k]? = some d ∧ d.epoch = b.epoch ∧ d.fmt.toNat = w.immF 14 11 ∧
            (w.immF 1 0 = 0 → ∀ i, i < 32 → (i < 24 ∨ (w.immF 14 11 ≠ 7 ∧ w.immF 14 11 ≠ 8)) →
              d.payload.toNat / 2 ^ (8 * i) % 2 ^ 8 =
                (b.byte deep (c.bankOff deep ((c.reg w.src1).toNat + 32 * k + i))).toNat))))

/-- R116, the rows WRT and STN; R157 gives the window, R164 the scale bytes, R175 the gather buffer. -/
def Obligations.MemoryWritesStoreTheirBytes : Prop :=
  ∀ (a : TileAddr) (task : Fin 4) (slot : Fin 128) (s : State),
    let w := s.slotOp a slot
    let c := s.taskOf a task
    let b := s.tile a
    let deep := w.immF 0 0 == 1
    (let off := c.bankOff deep (narrowAddr c w)
     let lo := off % 32
     s.canFire a task slot 0x1B = true → narrowAddr c w + 4 ≤ 32 * c.limit deep → segFault b true [(deep, off)] = false →
      b.gather.length < 8 → (∀ e ∈ b.gather, ¬ (e.deep = deep ∧ e.row = off / 32)) →
      RunsTo (.opStn a task slot) s (fun t =>
        (∃ e : GatherEnt, (t.tile a).gather = b.gather ++ [e] ∧ e.deep = deep ∧ e.row = off / 32 ∧
          (∀ i, i < 32 → e.mask.getLsbD i = decide (lo ≤ i ∧ i < lo + 4)) ∧
          wbits e.data (8 * lo + 31) (8 * lo) = (c.reg w.src2).toNat) ∧
        (∀ d o, (t.tile a).byte d o = b.byte d o) ∧ (∀ n, (t.taskOf a task).reg n = c.reg n) ∧ OnlyTile a s t)) ∧
    (∀ h, b.headData w.qa = some h →
     let x := (c.reg w.src1).toNat
     let off := c.bankOff deep x
     let sw := c.scaleWin (w.immF 2 2 == 1)
     let sb := wbits sw 0 0 == 1
     let sc := if w.immF 1 1 == 1 then
       (wrtScales x h).filterMap (fun e => (scaleAddr sw h.fmt.toNat e.1).map (fun y => (c.bankOff sb y, e.2))) else []
     s.canFire a task slot 0x19 = true → wrtFault c w h = none →
      segFault b true ((List.range 32).map (fun i => (deep, c.bankOff deep (x + i))) ++ sc.map (fun e => (sb, e.1))) = false →
      b.rowClean deep (off / 32) → (∀ e ∈ sc, b.rowClean sb (e.1 / 32)) →
      RunsTo (.opWrt a task slot) s (fun t =>
        (∀ d o, ((t.tile a).byte d o).toNat = (sc.foldl (fun v e => if d = sb ∧ o = e.1 then e.2.toNat else v)
          (if d = deep ∧ off ≤ o ∧ o < off + 32 then h.payload.toNat / 2 ^ (8 * (o - off)) % 2 ^ 8 else (b.byte d o).toNat))) ∧
        (∀ n, (t.taskOf a task).reg n = c.reg n) ∧ TileAndRegs a (bankCounters a.fld) s t))

/-- R50, its table of clamped products, and R52. A finite operand is (-1)^s * m * 2^e, its block scale included (R46). -/
def Obligations.ExactProductsAreClampedIntoTheWindow : Prop :=
  (∀ (s t : Bool) (m n : Nat) (e f : Int) (u : Nat),
    let p := exactProduct (.fin s m e) (.fin t n f)
    let signed (x : Int) : Int := if s = t then x else -x
    p.cls = .finite ∧
    -- the product lies in [u, u + 1) units of 2^-96
    (((0 ≤ e + f + 96 ∧ m * n * 2 ^ (e + f + 96).toNat = u) ∨
      (e + f + 96 < 0 ∧ u * 2 ^ (-(e + f + 96)).toNat ≤ m * n ∧ m * n < (u + 1) * 2 ^ (-(e + f + 96)).toNat)) →
      (p.high = true ↔ 2 ^ (72 + 96) ≤ u) ∧
      (u < 2 ^ (80 + 96) →
        p.v.toInt = signed u ∧ p.winHi = false ∧
        (p.winLo = true ↔ e + f + 96 < 0 ∧ m * n ≠ u * 2 ^ (-(e + f + 96)).toNat)) ∧
      (2 ^ (80 + 96) ≤ u → p.v.toInt = signed (2 ^ (80 + 96) - 1) ∧ p.winHi = true ∧ p.winLo = false))) ∧
  (∀ x : Machine.Num, (exactProduct .nan x).cls = .nan ∧ (exactProduct x .nan).cls = .nan ∧ x.scaled 0xFF = .nan ∧
    (exactProduct .nan x).v = 0 ∧ (exactProduct x .nan).v = 0) ∧
  (∀ (s t : Bool) (m : Nat) (e : Int) (x y : Machine.Num), x = .inf s → (y = .fin t m e ∨ y = .inf t ∧ m ≠ 0) →
    ∀ p, p = exactProduct x y ∨ p = exactProduct y x →
      p.v = 0 ∧ p.cls = (if m = 0 then .nan else if s = t then .posInf else .negInf))

/-- R53 and the CLASS table of R54: mesh and accumulators may add in any order. The model adds a record of NaN operands, which combines by OR as the causes do (assumption 3). -/
def Obligations.ExactSumsDoNotDependOnOrder : Prop :=
  (∀ a b : ExactVal,
    ((a.add b).toInt - (a.toInt + b.toInt)) % 2 ^ 199 = 0 ∧
    (a.add b).winLo = (a.winLo || b.winLo) ∧ (a.add b).winHi = (a.winHi || b.winHi) ∧ (a.add b).high = (a.high || b.high) ∧
    (a.cls = .finite → (a.add b).cls = b.cls) ∧ (a.cls = .nan → (a.add b).cls = .nan) ∧
    (a.cls = .posInf → (a.add b).cls = (if b.cls = .nan ∨ b.cls = .negInf then .nan else .posInf)) ∧
    (a.cls = .negInf → (a.add b).cls = (if b.cls = .nan ∨ b.cls = .posInf then .nan else .negInf))) ∧
  (∀ a b : ExactVal, a.add b = b.add a) ∧ (∀ a b c : ExactVal, (a.add b).add c = a.add (b.add c))

/-- The frame of every command at once: partsOf in Safety lists the pages and fields that the effects of its rules name. -/
def Obligations.EveryCommandKeepsToItsParts : Prop :=
  ∀ (c : Instr) (s t : State), exec c s = .next t → Changes (partsOf c) s t

/-- R116, the rows MMA and ACLR, R121 and R124. mmaElem sums the exact products of one element over the k-steps (R122). -/
def Obligations.MatrixInstructionsAccumulateAndClear : Prop :=
  ∀ (a : TileAddr) (task : Fin 4) (slot : Fin 128) (s : State),
    let w := s.slotOp a slot
    let c := s.taskOf a task
    let b := s.tile a
    let bk := w.immF 1 0
    let tap : List (Page × Nat) := [(⟨.FLT, 0⟩, C.FLT_CHECKS_SELECTED.off), (⟨.FLT, 0⟩, C.FLT_CHECKS_SKIPPED.off)]
    (∀ x y fa fb, s.canFire a task slot 0x20 = true → b.headData w.qa = some x → b.headData w.qb = some y →
      x.fmt = c.fmtA → y.fmt = c.fmtB → Fmt.ofCode c.fmtA.toNat = some fa → Fmt.ofCode c.fmtB.toNat = some fb →
      RunsTo (.opMma a task slot) s (fun t =>
        (∀ n, n < 64 → (t.tile a).accEl bk n = mmaElem fa fb x y (w.immF 7 7 == 1) (n / 8) (n % 8) (b.accEl bk n)) ∧
        (∀ k n, n < 64 → k ≠ bk → (t.tile a).accEl k n = b.accEl k n) ∧
        (t.tile a).openUnit = b.openUnit ||| BitVec.ofNat 4 (2 ^ bk) ∧
        (w.immF 2 2 = 1 → JoinedData a (w.immF 6 3) y (s.fired a task slot) t) ∧
        (∀ n, (t.taskOf a task).reg n = c.reg n) ∧
        TileFiring task { b with acc := (t.tile a).acc, openUnit := (t.tile a).openUnit, caps := (t.tile a).caps } (t.tile a) ∧
        TileAndRegs a ((⟨.FEN, a.fld.inst⟩, (macCounter fa fb).off) :: tap) s t)) ∧
    (s.canFire a task slot 0x21 = true →
      RunsTo (.opAclr a task slot) s (fun t =>
        (∀ n, n < 64 → (t.tile a).accEl bk n = ExactVal.zero) ∧
        (∀ k n, n < 64 → k ≠ bk → (t.tile a).accEl k n = b.accEl k n) ∧
        (t.tile a).openUnit = b.openUnit &&& ~~~(BitVec.ofNat 4 (2 ^ bk)) ∧
        (∀ n, (t.taskOf a task).reg n = c.reg n) ∧
        TileFiring task { b with acc := (t.tile a).acc, openUnit := (t.tile a).openUnit, caps := (t.tile a).caps } (t.tile a) ∧
        TileAndRegs a [(⟨.FLT, 0⟩, C.FLT_CHECKS_DROPPED.off)] s t))

/-- R116, the row EMIT, R124 on the work unit, R127 and R128. -/
def Obligations.EmitClosesItsWorkUnit : Prop :=
  ∀ (a : TileAddr) (task : Fin 4) (slot : Fin 128) (s : State),
    let w := s.slotOp a slot
    let c := s.taskOf a task
    let b := s.tile a
    let bk := w.immF 1 0
    let rc := c.rc (w.immF 2 2 == 1)
    let rfw := wbits rc 15 0
    let closed (t : State) : Prop :=
      (∀ n, n < 64 → (t.tile a).accEl bk n = ExactVal.zero) ∧ (∀ k n, n < 64 → k ≠ bk → (t.tile a).accEl k n = b.accEl k n) ∧
      (t.taskOf a task).workUnits = c.workUnits + 1 ∧ (∀ n, (t.taskOf a task).reg n = c.reg n) ∧
      t.getC C.TSQ_WORK_UNITS a.fld.inst = min (2 ^ 48 - 1) (s.getC C.TSQ_WORK_UNITS a.fld.inst + 1) ∧
      (∀ x, x ≠ a → t.tile x = s.tile x)
    s.canFire a task slot 0x22 = true →
    (w.immF 3 3 = 1 → RunsTo (.opEmit a task slot) s (fun t => closed t ∧
      (w.immF 8 5 < 8 → (t.tile a).oqOf (w.immF 8 5) = ((s.fired a task slot).tile a).oqOf (w.immF 8 5) ++
        [.sum { fast := rfwFast rfw, epoch := b.epoch, addr := natBits 18 0 (c.reg w.src2).toNat, step := wbits rc 117 112
                elems := (b.bankVals bk).map (fun v => if rfwFast rfw then fastElem v else .exact v) }]))) ∧
    (w.immF 3 3 = 0 →
      let deep := w.immF 4 4 == 1
      let x := (c.reg w.src2).toNat
      let z := elemSize (rfwFmt rfw)
      let off := c.bankOff deep x
      let bs := ((b.bankVals bk).mapIdx (fun n v =>
        (roundResult v rfw (BitVec.ofNat 32 (wbits rc 63 32)) (s.fldWm a.fld.plane) (elemIndex rc (c.reg w.src1) (n / 8) (n % 8))).1)).flatten
      x % 32 = 0 → c.legal deep x (64 * z) = true → segFault b true [(deep, off), (deep, off + 64 * z - 1)] = false →
      rfwFmt rfw ∈ [0, 1, 3, 4, 12] → (∀ r, off / 32 ≤ r → r < off / 32 + 2 * z → b.rowClean deep r) →
      RunsTo (.opEmit a task slot) s (fun t => closed t ∧
        ∀ d o, (t.tile a).byte d o = if d = deep ∧ off ≤ o ∧ o < off + 64 * z then bs.getD (o - off) 0 else b.byte d o))

/-- R116, the rows of the vector unit, R131 on lanes, R135 and R138. -/
def Obligations.VectorInstructionsWriteEveryLane : Prop :=
  ∀ (a : TileAddr) (task : Fin 4) (slot : Fin 128) (s : State),
    let w := s.slotOp a slot
    let c := s.taskOf a task
    (s.canFire a task slot 0x2A = true →
      RunsTo (.opVfma a task slot) s (WroteVec a task s w.dst (fun l => fpFma (c.lane w.src1 l) (c.lane w.src2 l) (c.lane w.dst l)))) ∧
    (s.canFire a task slot 0x2B = true →
      RunsTo (.opVadd a task slot) s (WroteVec a task s w.dst (fun l => fpAdd (c.lane w.src1 l) (c.lane w.src2 l)))) ∧
    (s.canFire a task slot 0x2C = true →
      RunsTo (.opVmul a task slot) s (WroteVec a task s w.dst (fun l => fpMul (c.lane w.src1 l) (c.lane w.src2 l)))) ∧
    (s.canFire a task slot 0x2D = true →
      RunsTo (.opVmax a task slot) s (WroteVec a task s w.dst (fun l => fpMax (c.lane w.src1 l) (c.lane w.src2 l)))) ∧
    (s.canFire a task slot 0x2E = true →
      RunsTo (.opVmin a task slot) s (WroteVec a task s w.dst (fun l => fpMin (c.lane w.src1 l) (c.lane w.src2 l)))) ∧
    (s.canFire a task slot 0x2F = true →
      RunsTo (.opVbcast a task slot) s (WroteVec a task s w.dst (fun _ => c.reg w.src1))) ∧
    (s.canFire a task slot 0x34 = true →
      RunsTo (.opVsel a task slot) s (WroteVec a task s w.dst (fun l => if (c.reg w.src2).getLsbD (l + 16 * w.immF 0 0) then c.lane w.src1 l else 0))) ∧
    (s.canFire a task slot 0x30 = true →
      RunsTo (.opVred a task slot) s (Wrote a task s w.dst (fpAdd (c.reg w.dst) (laneTree (c.lane w.src1))))) ∧
    (s.canFire a task slot 0x33 = true →
      let h := 16 * w.immF 3 3
      RunsTo (.opVmask a task slot) s (fun t => ∃ v, Wrote a task s w.dst v t ∧
        (∀ l, l < 16 → v.getLsbD (h + l) = maskBit c w (s.fldWm a.fld.plane) l) ∧
        (∀ i, i < 32 → ¬ (h ≤ i ∧ i < h + 16) → v.getLsbD i = (c.reg w.dst).getLsbD i)))

/-- R116, the rows VUNP, VPACK, VTAB, VTABD, VQMX and VEXACT, with R133, R134, R136, R137 and R140. -/
def Obligations.VectorConversionsFollowTheirFormats : Prop :=
  ∀ (a : TileAddr) (task : Fin 4) (slot : Fin 128) (s : State),
    let w := s.slotOp a slot
    let c := s.taskOf a task
    let b := s.tile a
    let rfw := w.immF 15 0
    let others (t : State) : Prop := ∀ x, x ≠ a → t.tile x = s.tile x
    let wroteFrom (n base : Nat) (v : Nat → W32) (t : State) : Prop := others t ∧
      ∀ r, (t.taskOf a task).reg r = if base ≤ r ∧ r < base + n then v (r - base) else c.reg r
    let looked (deriv : Bool) (t : State) : Prop := others t ∧
      (∀ l v, l < 16 → tabEval b (w.immF 0 0) deriv (c.lane w.src1 l) = some v → (t.taskOf a task).lane w.dst l = v) ∧
      (∀ r, ¬ (16 * w.dst ≤ r ∧ r < 16 * w.dst + 16) → (t.taskOf a task).reg r = c.reg r)
    let sent (q : Nat) (x : OTok) (t : State) : Prop := others t ∧ (∀ r, (t.taskOf a task).reg r = c.reg r) ∧
      (q < 8 → (t.tile a).oqOf q = ((s.fired a task slot).tile a).oqOf q ++ [x])
    (∀ d f, s.canFire a task slot 0x28 = true → b.headData w.qa = some d → unpackable d.fmt = true →
      d.fmt.toNat = wbits (b.dqBind w.qa) 9 6 → Fmt.ofCode d.fmt.toNat = some f →
      RunsTo (.opVunp a task slot) s (if f = .fp32
        then wroteFrom 8 (16 * w.dst + 8 * w.immF 0 0) (fun e => BitVec.ofNat 32 (payElem .fp32 d.payload e))
        else wroteFrom f.perToken (16 * w.dst) (fun e => (unpackElem d f (Rnd.ofCode (w.immF 2 1)) (w.immF 3 3 == 1) e).1))) ∧
    (s.canFire a task slot 0x31 = true → RunsTo (.opVtab a task slot) s (looked false)) ∧
    (s.canFire a task slot 0x32 = true → RunsTo (.opVtabd a task slot) s (looked true)) ∧
    (∀ f e, s.canFire a task slot 0x29 = true → Fmt.ofCode (rfwFmt rfw) = some f → f.enc = some e →
      let first := if f == .fp32 then 16 * w.src1 + 8 * w.src2 else 16 * w.src1
      RunsTo (.opVpack a task slot) s (sent (w.immF 19 16) (.data
        { payload := BitVec.ofNat 256 (packCodes f.bits ((List.range f.perToken).map (fun k =>
            ((Enc.fp32.decode (c.reg (first + k)).toNat).round e (rfwRnd rfw) (rfwSat rfw)
              (srValue c.tag0 (s.fldWm a.fld.plane) (laneIndex c (c.reg w.dst) k))).1)))
          scales := 0, fmt := BitVec.ofNat 4 (rfwFmt rfw), saxis := false, epoch := b.epoch }))) ∧
    (∀ f, s.canFire a task slot 0x35 = true → Fmt.ofCode (rfwFmt rfw) = some f →
      let two := f == .mxE2m1
      let first := if two then 0 else 16 * w.src1
      let block (n : Nat) := quantiseMx f (rfwRnd rfw) (fun i => srValue c.tag0 (s.fldWm a.fld.plane) (laneIndex c (c.reg w.dst) (32 * n + i)))
        ((List.range 32).map (fun i => c.reg (first + 32 * n + i)))
      let bs := (List.range (if two then 2 else 1)).map block
      RunsTo (.opVqmx a task slot) s (sent (w.immF 19 16) (.data
        { payload := BitVec.ofNat 256 (packCodes f.bits (bs.flatMap (fun x => x.2.1.map (·.1))))
          scales := BitVec.ofNat 64 ((List.range 8).foldl (fun x n => x + (bs[n / 4]?.elim 0 (·.1)) <<< (8 * n)) 0)
          fmt := BitVec.ofNat 4 (rfwFmt rfw), saxis := true, epoch := b.epoch }))) ∧
    (s.canFire a task slot 0x36 = true → RunsTo (.opVexact a task slot) s (sent (w.immF 3 0) (.sum
      { fast := false, epoch := b.epoch, addr := natBits 18 0 (c.reg w.src2).toNat, step := wbits c.rc0 117 112
        elems := (List.range 16).map (fun l => .exact ((Enc.fp32.decode (c.lane w.src1 l).toNat).toExact)) })))

/-- R116, the rows MSIG and BARR, with R421, R427, R432 and R438. -/
def Obligations.MarkerInstructionsReachTheirUnits : Prop :=
  ∀ (a : TileAddr) (task : Fin 4) (slot : Fin 128) (s : State),
    let w := s.slotOp a slot
    let c := s.taskOf a task
    let x := s.fieldSt a.fld
    let kept (t : State) : Prop := (∀ n, (t.taskOf a task).reg n = c.reg n) ∧ ∀ b, b ≠ a → t.tile b = s.tile b
    let ch := w.immF 3 0
    (s.canFire a task slot 0x38 = true → w.immF 12 12 = 0 → c.reg w.src1 = 0 →
      RunsTo (.opMsig a task slot) s (FiringFrame a task s)) ∧
    (s.canFire a task slot 0x38 = true → w.immF 12 12 = 0 → c.reg w.src1 ≠ 0 → x.lost = false → x.resetting = false →
      RunsTo (.opMsig a task slot) s (fun t => kept t ∧ (∀ f, f ≠ a.fld → t.fieldSt f = s.fieldSt f) ∧
        t.fieldSt a.fld = { x with mops := x.mops ++ [{
          write := false, rank := if s.inLayby a.fld then 0 else 2, sub := if s.inLayby a.fld then x.mops.length else a.loc
          marker := w.immF 11 0, amount := c.reg w.src1, kind := 2, id := BitVec.ofNat 32 (tileId a task), wm := (s.fldWm a.fld.plane)
          donor := none, answer := none }] })) ∧
    (s.canFire a task slot 0x38 = true → w.immF 12 12 = 1 → RunsTo (.opMsigWatch a task slot) s (fun t => kept t ∧
      (t.taskOf a task).watch = some { marker := w.immF 11 0, value := c.reg w.src1, cq := w.immF 14 13
                                       token := (c.reg w.src2).setWidth 8, satisfied := false } ∧
      t.getC C.MRK_WATCH_REPLACED a.fld.inst = if c.watch.isSome
        then min (2 ^ 48 - 1) (s.getC C.MRK_WATCH_REPLACED a.fld.inst + 1) else s.getC C.MRK_WATCH_REPLACED a.fld.inst)) ∧
    (s.canFire a task slot 0x39 = true → (s.tile a).barLatch.getLsbD ch = false →
      RunsTo (.opBarr a task slot) s (fun t => kept t ∧ (t.tile a).barLatch.getLsbD ch = true ∧
        (∀ k, k < 16 → k ≠ ch → (t.tile a).barLatch.getLsbD k = (s.tile a).barLatch.getLsbD k) ∧
        look (fun _ => 0) (t.tile a).barCq ch = w.immF 5 4 ∧
        t.getC C.MRK_BARR_ARRIVALS a.fld.inst = min (2 ^ 48 - 1) (s.getC C.MRK_BARR_ARRIVALS a.fld.inst + 1))) ∧
    (s.canFire a task slot 0x39 = true → (s.tile a).barLatch.getLsbD ch = true →
      RunsTo (.opBarr a task slot) s (fun t => kept t ∧ (t.tile a).barLatch = (s.tile a).barLatch ∧
        (t.tile a).barCq = (s.tile a).barCq ∧
        t.getC C.MRK_BARR_EARLY a.fld.inst = min (2 ^ 48 - 1) (s.getC C.MRK_BARR_EARLY a.fld.inst + 1)))

/-- R94 and R97 on the order of entry, R99 on DRAINED, R104 on stale tokens, R119 and R120 on steering, R170 on RDQ tokens. -/
def Obligations.TileQueuesHandTokensOn : Prop :=
  ∀ (a : TileAddr) (s : State),
    let b := s.tile a
    let i := a.fld.inst
    let others (t : State) : Prop := ∀ x, x ≠ a → t.tile x = s.tile x
    s.tileRuns a = true →
    (∀ (ch : Fin 4) c d outs,
      let w := b.steerCfg ch
      steerEn w = true → b.steerStuck.getLsbD ch = false → (b.cqOf (steerCtl w)).head? = some c →
      (b.dqOf (steerData w)).head? = some d → steerOuts w c.kind.toNat = some outs → b.fits outs = true →
      RunsTo (.steeringFire a ch) s (fun t => others t ∧
        t.tile a = { b with dq := (t.tile a).dq, cq := (t.tile a).cq, oq := (t.tile a).oq, counts := (t.tile a).counts } ∧
        (∀ n, n < 8 → (t.tile a).dqOf n = (b.dqOf n).drop (boolNat (steerData w == n))) ∧
        (∀ n, n < 4 → (t.tile a).cqOf n = (b.cqOf n).drop (boolNat (steerCtl w == n))) ∧
        (∀ n, n < 8 → (t.tile a).oqOf n = b.oqOf n ++ List.replicate (outs.count n) (.data d)) ∧
        t.getC C.TSQ_STEER_DISCARDS i =
          if outs = [] then min (2 ^ 48 - 1) (s.getC C.TSQ_STEER_DISCARDS i + 1) else s.getC C.TSQ_STEER_DISCARDS i)) ∧
    (∀ (ch : Fin 4) c,
      let w := b.steerCfg ch
      let o := steerOwner w
      steerEn w = true → b.steerStuck.getLsbD ch = false → (b.cqOf (steerCtl w)).head? = some c →
      steerOuts w c.kind.toNat = none →
      RunsTo (.steerKind a ch) s (fun t => others t ∧ (t.tile a).steerStuck = b.steerStuck ||| BitVec.ofNat 4 (2 ^ ch.val) ∧
        t.getC C.TSQ_FAULTED_TASKS i = min (2 ^ 48 - 1) (s.getC C.TSQ_FAULTED_TASKS i + 1) ∧
        (∀ k, k ≠ o → (t.tile a).task k = b.task k) ∧
        (t.tile a).task o = if (b.task o).state = .running ∨ (b.task o).state = .done then { b.task o with
          state := .faulted, faultCode := BitVec.ofNat 8 faultSteer, faultSlot := BitVec.ofNat 7 ch } else b.task o)) ∧
    (∀ (q : Fin 8) d r,
      let n := wbits (b.oqBind q) 8 6
      bindEnd (b.oqBind q) = 7 → b.oqOf q = .data d :: r → (b.dqOf n).length < 8 →
      RunsTo (.oqLocalTransfer a q) s (fun t => others t ∧ (t.tile a).oqOf q = r ∧
        (∀ k, k ≠ q.val → (t.tile a).oqOf k = b.oqOf k) ∧
        (∀ k, (t.tile a).dqOf k = if k = n ∧ d.epoch = b.epoch then b.dqOf n ++ [d] else b.dqOf k) ∧
        (d.epoch ≠ b.epoch →
          t.getC C.TSQ_STALE_TOKENS i = min (2 ^ 48 - 1) (s.getC C.TSQ_STALE_TOKENS i + 1)))) ∧
    (∀ j rest d ds, b.reads = j :: rest → j.toks = d :: ds → (b.dqOf j.dq).length < 8 →
      RunsTo (.readTokenDelivery a) s (fun t => others t ∧
        (t.tile a).reads = (if ds = [] then rest else { j with toks := ds } :: rest) ∧
        (∀ k, (t.tile a).dqOf k = if k = j.dq ∧ d.epoch = b.epoch then b.dqOf j.dq ++ [d] else b.dqOf k))) ∧
    (∀ (n : Fin 16) cq, landingCq (b.landingCfg n) = some cq → b.waitArrive.getLsbD n = true → (b.cqOf cq).length < 16 →
      b.arriveBefore n cq = false →
      RunsTo (.waitingTokenEntry a false n) s (fun t => others t ∧
        (∀ k, (t.tile a).cqOf k = if k = cq then b.cqOf cq ++ [{ kind := 5, value := BitVec.ofNat 8 n, epoch := b.epoch }]
          else b.cqOf k) ∧
        ∀ m, (t.tile a).waitArrive.getLsbD m = (b.waitArrive.getLsbD m && decide (m ≠ n.val)))) ∧
    (∀ (n : Fin 16) k cq, b.waitBarrier.find? (fun e => e.1 == n.val) = some (k, cq) → (b.cqOf cq).length < 16 →
      b.arriveBefore 16 cq = false → b.waitBarrier.any (fun e => decide (e.1 < n.val) && e.2 == cq) = false →
      RunsTo (.waitingTokenEntry a true n) s (fun t => others t ∧
        (∀ k, (t.tile a).cqOf k = if k = cq then b.cqOf cq ++ [{ kind := 6, value := BitVec.ofNat 8 n, epoch := b.epoch }]
          else b.cqOf k) ∧
        ∀ m, look (fun _ => 4) (t.tile a).waitBarrier m = if m = n.val then 4 else look (fun _ => 4) b.waitBarrier m)) ∧
    (∀ task : Fin 4, (b.task task).state = .done → b.taskQuiet task = true →
      RunsTo (.taskDrained a task) s (fun t => OnlyTile a s t ∧ t.tile a = { b with tasks := (t.tile a).tasks } ∧
        (∀ k, (t.tile a).task k = if k = task.val then { b.task task with state := .drained } else b.task k)))

/-- R177 on the flush, R182 and R185 on write-back and poison, R186 on the scrub. -/
def Obligations.BanksAreCleanedInTheBackground : Prop :=
  ∀ (a : TileAddr) (s : State),
    let b := s.tile a
    let i := a.fld.inst
    let others (t : State) : Prop := ∀ x, x ≠ a → t.tile x = s.tile x
    s.tileRuns a = true →
    (∀ e r, b.gather = e :: r → (∀ k, k < 4 → b.mark e.deep (32 * e.row + 8 * k) = .good) →
      RunsTo (.gatherFlush a) s (fun t => others t ∧ (t.tile a).gather = b.gather.filter (fun x => !(x == e)) ∧
        t.getC C.SPD_GATHER_FLUSHES i = min (2 ^ 48 - 1) (s.getC C.SPD_GATHER_FLUSHES i + 1) ∧
        ∀ d o, (t.tile a).byte d o =
          if d = e.deep ∧ 32 * e.row ≤ o ∧ o < 32 * e.row + 32 ∧ e.mask.getLsbD (o - 32 * e.row) = true
          then (leBytes 32 e.data.toNat).getD (o - 32 * e.row) 0 else b.byte d o)) ∧
    (∀ deep row r, b.wb = (deep, row) :: r → 32 * row < bankBytes deep →
      RunsTo (.correctionWriteback a) s (fun t => others t ∧ (t.tile a).wb = r ∧
        (∀ d o, (t.tile a).byte d o = b.byte d o) ∧
        ∀ d o, o < bankBytes d → (t.tile a).mark d o = if (d = deep ∧ o / 32 = row) ∧ (b.mark d o = .correctable) then .good
          else if (d = deep ∧ o / 32 = row) ∧ b.mark d o = .uncorr then .poison else b.mark d o)) ∧
    (∀ (word : Fin 4) (err : Fin 3) deep row,
      let pos := b.scrubNext b.scrubPos
      let at' := 32 * row + 8 * word.val
      s.getF F.SPD_CTL_SCRUB_EN i = 1 → b.scrubRow pos = some (deep, row) → b.rowClean deep row → (deep, row) ∉ b.wb →
      RunsTo (.scrubRead a word err) s (fun t => others t ∧ (t.tile a).scrubPos = (pos + 1) % 7040 ∧
        (∀ d o, (t.tile a).byte d o = b.byte d o) ∧
        (t.tile a).mark deep at' = (match err.val with | 0 => .good | 1 => .correctable | _ => .poison) ∧
        (err = 1 → (t.tile a).wb = b.wb ++ [(deep, row)] ∧
          t.getC C.SPD_CE_WORDS i = min (2 ^ 48 - 1) (s.getC C.SPD_CE_WORDS i + 1)) ∧
        (err = 2 → t.getC C.SPD_UE_WORDS i = min (2 ^ 48 - 1) (s.getC C.SPD_UE_WORDS i + 1))))

/-- R16, R532 and R535 on register writes, R148, R203, R369, R370 and R442 on selectors and their snapshots. -/
def Obligations.RegisterWritesStoreOrAreRefused : Prop :=
  ∀ (s : State) (fw : Bool) (v : W64),
    let only (ks : List (Page × Nat)) (t : State) : Prop := OnlyRegs s t ∧ RegsBut ks s t
    let status (p : Page) (t : State) : Nat := wbits (t.reg p 0x020) (if fw then 7 else 3) (if fw then 4 else 0)
    let report (p : Page) : List (Page × Nat) :=
      [(p, 0x020), (⟨.DIR, 0⟩, 0x100), (⟨.DIR, 0⟩, 0x088), (⟨.DIR, 0⟩, 0x090), (⟨.DIR, 0⟩, 0x098), (⟨.DIR, 0⟩, 0x038)]
    let refused (p : Page) (off code : Nat) (t : State) : Prop := only (report p) t ∧ status p t = code ∧
      t.getC C.DIR_WR_REFUSED 0 = min (2 ^ 48 - 1) (s.getC C.DIR_WR_REFUSED 0 + 1) ∧
      (s.getF F.DIR_WR_FIRST_VALID 0 = 0 → t.getF F.DIR_WR_FIRST_CODE 0 = code ∧
        t.reg ⟨.DIR, 0⟩ 0x090 = BitVec.ofNat 64 ((p.base + off) % 2 ^ 26) ∧ t.reg ⟨.DIR, 0⟩ 0x098 = v)
    let selected (p : Page) (off : Nat) (t : State) : Prop := only [(p, off), (p, 0x020)] t ∧ status p t = 0 ∧
      ∀ r, regSpec p.typ off = some r → ∀ g ∈ r.flds, g.acc = .rw →
        wbits (t.reg p off) g.hi g.lo = wbits (s.storedValue r p off v) g.hi g.lo
    (∀ addr p r, pageAt addr = some p → p.exists' = true → s.dark = 0 → addr % 8 = 0 →
      p.typ ∈ [.ARF, .PAS, .FEN, .HBM, .EMP, .AEN, .MLW, .VLX, .NRG, .LKO] →
      let off := addr % 4096
      let code := s.writeCode fw p off true v (s.ownRules p off v).1 (s.ownRules p off v).2
      (code = 0 → off ≠ 0x020 → regSpec p.typ off = some r → RunsTo (.registerWrite fw true false addr v) s (fun t =>
        only [(p, off), (p, 0x020)] t ∧ status p t = 0 ∧ t.reg p off = s.storedValue r p off v)) ∧
      (code ≠ 0 → RunsTo (.registerWrite fw true false addr v) s (refused p off code)) ∧
      RunsTo (.registerWrite fw false false addr v) s (refused p off 1)) ∧
    ∀ (p : Fin 2) (f : FieldAddr),
    (s.writeCode fw ⟨.SPD, f.inst⟩ 0x090 true v (badTileSel v) (s.getF F.SPD_SEG_SEL_BUSY f.inst == 1) = 0 → RunsTo (.segSel f fw v) s (fun t =>
      selected ⟨.SPD, f.inst⟩ 0x090 t ∧ t.getF F.SPD_SEG_SEL_BUSY f.inst = 1)) ∧
    (s.writeCode fw ⟨.TSQ, f.inst⟩ 0x080 true v (badTileSel v) (s.getF F.TSQ_SEL_BUSY f.inst == 1) = 0 → RunsTo (.tsqSel f fw v) s (fun t =>
      selected ⟨.TSQ, f.inst⟩ 0x080 t ∧ t.getF F.TSQ_SEL_BUSY f.inst = 1)) ∧
    (s.writeCode fw ⟨.MRK, f.inst⟩ 0x088 true v (false) (s.getF F.MRK_SEL_BUSY f.inst == 1) = 0 → RunsTo (.mrkSel f fw v) s (fun t =>
      selected ⟨.MRK, f.inst⟩ 0x088 t ∧ t.getF F.MRK_SEL_BUSY f.inst = 1)) ∧
    (s.writeCode fw ⟨.SEN, p⟩ 0x098 true v (false) (s.getF F.SEN_CTX_SEL_BUSY p == 1) = 0 → RunsTo (.senCtxSel p fw v) s (fun t =>
      selected ⟨.SEN, p⟩ 0x098 t ∧ t.getF F.SEN_CTX_SEL_BUSY p = 1)) ∧
    (s.writeCode fw ⟨.SEN, p⟩ 0x0B0 true v false false = 0 → RunsTo (.senFopenSel p fw v) s (fun t =>
      t.fopenDue = put (fun _ => false) s.fopenDue p.val true ∧ selected ⟨.SEN, p⟩ 0x0B0 { t with fopenDue := s.fopenDue })) ∧
    (s.offline ⟨.SPD, f.inst⟩ = false → s.getF F.SPD_SEG_SEL_BUSY f.inst = 1 →
      ∀ a, selTile f (s.reg ⟨.SPD, f.inst⟩ 0x090) = some a → RunsTo (.snapshotArrival .seg f.idx) s (fun t =>
        only [(⟨.SPD, f.inst⟩, 0x090), (⟨.SPD, f.inst⟩, 0x098)] t ∧ t.getF F.SPD_SEG_SEL_BUSY f.inst = 0 ∧
        t.reg ⟨.SPD, f.inst⟩ 0x098 =
          BitVec.ofNat 64 ((List.range 8).foldl (fun x g => x + ((s.tile a).seg g).state.code <<< (3 * g)) 0))) ∧
    (s.offline ⟨.TSQ, f.inst⟩ = false → s.getF F.TSQ_SEL_BUSY f.inst = 1 →
      let w := s.reg ⟨.TSQ, f.inst⟩ 0x080
      ∀ a, selTile f w = some a → RunsTo (.snapshotArrival .tsq f.idx) s (fun t =>
        only [(⟨.TSQ, f.inst⟩, 0x080), (⟨.TSQ, f.inst⟩, 0x088)] t ∧ t.getF F.TSQ_SEL_BUSY f.inst = 0 ∧
        t.reg ⟨.TSQ, f.inst⟩ 0x088 = (s.taskOf a (wbits w 15 14)).status (s.tile a).epoch)) ∧
    (s.offline ⟨.MRK, f.inst⟩ = false → s.getF F.MRK_SEL_BUSY f.inst = 1 →
      let m := (s.fieldSt f).marker (s.getF F.MRK_SEL_MARKER f.inst)
      RunsTo (.snapshotArrival .mrk f.idx) s (fun t =>
        only ([0x088, 0x090, 0x098, 0x0A0, 0x0A8].map (fun o => (⟨.MRK, f.inst⟩, o))) t ∧ t.getF F.MRK_SEL_BUSY f.inst = 0 ∧
        wbits (t.reg ⟨.MRK, f.inst⟩ 0x090) 31 0 = m.value.toNat ∧
        t.reg ⟨.MRK, f.inst⟩ 0x098 = BitVec.ofNat 64 (m.lastKind + m.lastWm.toNat <<< 32) ∧
        t.reg ⟨.MRK, f.inst⟩ 0x0A0 = BitVec.ofNat 64 (m.lastId.toNat + m.lastAmount.toNat <<< 32) ∧
        t.reg ⟨.MRK, f.inst⟩ 0x0A8 = m.lastCyc)) ∧
    (s.getF F.SEN_CTX_SEL_BUSY p = 1 →
      let c := s.ctx (ctxKey p (s.getF F.SEN_CTX_SEL_CTX p))
      RunsTo (.snapshotArrival .ctx p) s (fun t => only ([0x098, 0x0A0, 0x0A8].map (fun o => (⟨.SEN, p⟩, o))) t ∧
        t.getF F.SEN_CTX_SEL_BUSY p = 0 ∧
        (c.live = true → t.reg ⟨.SEN, p⟩ 0x0A8 = BitVec.ofNat 64 (c.d.sid + c.done <<< 32)) ∧
        (c.live = false → t.reg ⟨.SEN, p⟩ 0x0A0 = BitVec.ofNat 64 (c.gen.toNat <<< 3) ∧ t.reg ⟨.SEN, p⟩ 0x0A8 = 0))) ∧
    ((s.unserved ⟨.SEN, p⟩ = true ∨ look (fun _ => false) s.fopenDue p.val = false) → RunsTo (.snapshotArrival .fopen p) s (· = s)) ∧
    (s.unserved ⟨.SEN, p⟩ = false → look (fun _ => false) s.fopenDue p.val = true →
      let n (e : Nat) : Nat := (s.ctxsOf p).countP (fun x => x.2.field == s.getF F.SEN_FOPEN_SEL_FIELD p &&
        x.2.epoch.toNat == e && (x.2.state == .holding || x.2.state == .delivering))
      RunsTo (.snapshotArrival .fopen p) s (fun t =>
        t.fopenDue = put (fun _ => false) s.fopenDue p.val false ∧
        only [(⟨.SEN, p⟩, 0x0B8), (⟨.SEN, p⟩, 0x0C0)] { t with fopenDue := s.fopenDue } ∧
        t.reg ⟨.SEN, p⟩ 0x0B8 = BitVec.ofNat 64 (n 0 + n 1 <<< 32) ∧
        t.reg ⟨.SEN, p⟩ 0x0C0 = BitVec.ofNat 64 (n 2 + n 3 <<< 32)))

/-- R188 on segment states, R192 on gating, R195 on refusals (that a field on its way into or out of layby refuses too is the model's, log entry 87), R202 on the command register. -/
def Obligations.SegmentsFollowTheirStateTable : Prop :=
  ∀ s : State,
    let inRect (v : W64) (a : TileAddr) : Prop := s.tileFenced a = false ∧ wbits v 6 0 ≤ a.row.val ∧ a.row.val ≤ wbits v 20 14 ∧
      wbits v 13 7 ≤ a.col.val ∧ a.col.val ≤ wbits v 27 21
    let cmd (c : Instr) (f : FieldAddr) (fw : Bool) (v : W64) (target : SegState) : Prop :=
      s.writeCode fw ⟨.SPD, f.inst⟩ 0x088 true v (decide (95 < wbits v 6 0) || decide (95 < wbits v 20 14) ||
          decide (wbits v 20 14 < wbits v 6 0) || decide (wbits v 27 21 < wbits v 13 7) || wbits v 35 28 == 0)
        (s.getF F.SPD_SEG_CMD_BUSY f.inst == 1) = 0 → wbits v 38 38 = 1 →
      let stays (code : Nat) : Prop := RunsTo c s (fun t => t.tiles = s.tiles ∧ t.getF F.SPD_SEG_CMD_RESULT f.inst = code)
      let blocked : Prop := target = .off ∧ ∃ a g, a.fld = f ∧ inRect v a ∧ g < 8 ∧ (wbits v 35 28).testBit g = true ∧
        ((s.tile a).seg g).state ≠ .off ∧ ((s.tile a).seg g).state ≠ .closing ∧ (s.tile a).segInUse g = true
      (s.getF F.FPW_STATE_POWER f.inst ≠ 0 → stays 3) ∧
      (s.getF F.FPW_STATE_POWER f.inst = 0 → blocked → stays 1) ∧
      (s.getF F.FPW_STATE_POWER f.inst = 0 → ¬ blocked → RunsTo c s (fun t => ∀ a g, g < 8 →
        (a.fld = f ∧ inRect v a ∧ (wbits v 35 28).testBit g = true →
          (t.tile a).seg g = segNext { (s.tile a).seg g with timedOut := false } target) ∧
        (¬ (a.fld = f ∧ inRect v a ∧ (wbits v 35 28).testBit g = true) → (t.tile a).seg g = (s.tile a).seg g)))
    let ends (a : TileAddr) (g : Nat) (st : SegState) (late : Bool) (t : State) : Prop :=
      let x : Segment := { state := st, target := st, waiting := none, timedOut := late }
      (∀ b, b ≠ a → t.tile b = s.tile b) ∧
      (t.tile a).seg g = (match ((s.tile a).seg g).waiting with
        | none => x
        | some w => { segNext { x with timedOut := false } w with timedOut := late }) ∧
      (∀ k, k ≠ g → (t.tile a).seg k = (s.tile a).seg k) ∧
      (((s.tile a).seg g).waiting = none → (t.tile a).near = (s.tile a).near ∧
        ∀ o, (t.tile a).byte true o = if segLo g ≤ o ∧ o < segHi g then 0 else (s.tile a).byte true o)
    (∀ f fw v, wbits v 37 36 = 0 → cmd (.segCmdOff f fw v) f fw v .off) ∧
    (∀ f fw v, wbits v 37 36 = 1 → cmd (.segCmdActive f fw v) f fw v .active) ∧
    (∀ f fw v, wbits v 37 36 = 2 → cmd (.segCmdRetained f fw v) f fw v .retained) ∧
    ∀ (a : TileAddr) (g : Fin 8),
      (((s.tile a).seg g).state = .waking → (s.fieldSt a.fld).lost = false →
        RunsTo (.segmentWakeDone a g) s (ends a g ((s.tile a).seg g).target false)) ∧
      (((s.tile a).seg g).state = .closing → (s.tile a).inFlight g = 0 →
        RunsTo (.segmentGate a g) s (ends a g .off false)) ∧
      (((s.tile a).seg g).state = .closing → RunsTo (.gateTimeout a g) s (fun t => ends a g .off true t ∧
        t.getC C.SPD_GATE_TIMEOUTS a.fld.inst = min (2 ^ 48 - 1) (s.getC C.SPD_GATE_TIMEOUTS a.fld.inst + 1)))

/-- R209 and R215 on neighbour ports, R96 on unbound tokens, R228 and R235 on records, R223 and R227 to R230 on emitters, R319 on the fold reader. -/
def Obligations.TokensCrossPortsTowpathsAndEmitters : Prop :=
  ∀ (a : TileAddr) (s : State),
    let b := s.tile a
    let i := a.fld.inst
    let stands (f : FieldAddr) : Prop := (s.meshStopped f || s.islandStopped a || (s.fieldSt f).resetting) = false
    (∀ side : Fin 4, s.tileRuns a = true →
      let far := (side.val + 2) % 4
      let src (k : Nat) := if k = 1 then (if side.val = 1 then 4 else 5) else far
      let full (c : TileAddr) (x : OTok) (k : Nat) : Prop := match x with
        | .data _ => ∃ n, (s.tile c).dqFrom (src k) = some n ∧ 8 ≤ ((s.tile c).dqOf n).length
        | .ctl _ => ∃ n, (s.tile c).cqFrom (src k) = some n ∧ 16 ≤ ((s.tile c).cqOf n).length
        | .sum _ => False
      let held (c : TileAddr) : Prop := ∀ k x r, k = 3 ∨ k = 1 ∨ k = 0 → (s.tile c).nbufOf far k = x :: r → full c x k
      let next (c : TileAddr) : Option (Nat × Nat) :=
        (b.portTokens side).find? (fun x => decide (((s.tile c).nbufOf far x.2).length < 2))
      let sent (c : TileAddr) (q : Nat) (r : List OTok) (t : State) : Prop := t.tile a = b.setOq q r ∧
        (∀ y, y ≠ a → y ≠ c → t.tile y = s.tile y) ∧
        t.getC C.MESH_NBR_TOKENS i = min (2 ^ 64 - 1) (s.getC C.MESH_NBR_TOKENS i + 1)
      (∀ q cls x r, s.nextHop a side true = .dead → (b.portTokens side).head? = some (q, cls) → b.oqOf q = x :: r →
        RunsTo (.neighbourToken a side) s (fun t => sent a q r t ∧
          t.getC C.MESH_DEAD_HOPS i = min (2 ^ 48 - 1) (s.getC C.MESH_DEAD_HOPS i + 1))) ∧
      (∀ c, s.nextHop a side true = .go c → held c → next c = none → RunsTo (.neighbourToken a side) s (fun t => t = s)) ∧
      (∀ c q cls x r, c ≠ a → s.nextHop a side true = .go c → held c → next c = some (q, cls) → b.oqOf q = x :: r →
        (full c x cls → RunsTo (.neighbourToken a side) s (fun t => sent c q r t ∧
          t.tile c = (s.tile c).setNbuf far cls ((s.tile c).nbufOf far cls ++ [x]))) ∧
        ((s.tile c).nbufOf far cls = [] →
          (∀ d n, x = .data d → (s.tile c).dqFrom (src cls) = some n → ((s.tile c).dqOf n).length < 8 →
            d.epoch = (s.tile c).epoch → RunsTo (.neighbourToken a side) s (fun t => sent c q r t ∧
              t.tile c = { (s.tile c).setDq n ((s.tile c).dqOf n ++ [d]) with nbuf := (t.tile c).nbuf } ∧
              ∀ m k, k < 4 → (t.tile c).nbufOf m k = (s.tile c).nbufOf m k)) ∧
          (∀ d n, x = .ctl d → (s.tile c).cqFrom (src cls) = some n → ((s.tile c).cqOf n).length < 16 →
            d.epoch = (s.tile c).epoch → RunsTo (.neighbourToken a side) s (fun t => sent c q r t ∧
              t.tile c = { (s.tile c).setCq n ((s.tile c).cqOf n ++ [d]) with nbuf := (t.tile c).nbuf } ∧
              ∀ m k, k < 4 → (t.tile c).nbufOf m k = (s.tile c).nbufOf m k)) ∧
          (∀ d, x = .data d → (s.tile c).dqFrom (src cls) = none →
            RunsTo (.neighbourToken a side) s (fun t => sent c q r t ∧
              t.getC C.TSQ_UNBOUND_TOKENS c.fld.inst = min (2 ^ 48 - 1) (s.getC C.TSQ_UNBOUND_TOKENS c.fld.inst + 1)))))) ∧
    (∀ l n, b.landing = some l → l.pkt.cls = 1 → stands a.fld → b.dqFrom (if l.pkt.aux.testBit 0 then 5 else 4) = some n →
      (b.dqOf n).length < 8 →
      let d := recordToken (l.pkt.payload.drop (41 * l.entered))
      d.epoch = b.epoch →
      RunsTo (.wgtRecordEnqueue a) s (fun t => (∀ y, y ≠ a → t.tile y = s.tile y) ∧
        t.tile a = { b.setDq n (b.dqOf n ++ [d]) with
          landing := if l.entered + 1 < l.pkt.len then some { l with entered := l.entered + 1 } else none })) ∧
    (∀ l, b.landing = some l → l.pkt.cls = 1 → stands a.fld →
      let code := if l.pkt.aux.testBit 0 then 5 else 4
      (∀ n, b.dqFrom code = some n → 8 ≤ (b.dqOf n).length → RunsTo (.wgtRecordEnqueue a) s (fun t => t = s)) ∧
      (b.dqFrom code = none → RunsTo (.wgtRecordEnqueue a) s (fun t => (∀ y, y ≠ a → t.tile y = s.tile y) ∧
        t.tile a = { b with landing := if l.entered + 1 < l.pkt.len then some { l with entered := l.entered + 1 } else none } ∧
        t.getC C.TSQ_UNBOUND_TOKENS i = min (2 ^ 48 - 1) (s.getC C.TSQ_UNBOUND_TOKENS i + 1)))) ∧
    (∀ q : Fin 8, s.tileRuns a = true → bindEnd (b.oqBind q) = 6 → b.bufRoom 0 (b.emitter q).cls = true →
      let e := b.emitter q
      let sent (left : List OTok) (mc : Bool) (epoch : BitVec 2) (addr len : Nat) (body : List Byte) (gen : Nat) : Prop :=
        (s.sendCause a.fld (tilePos a) e.dest e.cls (mc && e.cls == 0) = none →
          RunsTo (.emitterSend a q) s (fun t => (∀ y, y ≠ a → t.tile y = s.tile y) ∧ (t.tile a).oqOf q = left ∧
            (t.tile a).bufOf 0 e.cls = b.bufOf 0 e.cls ++ [s.mkPacket a.fld (tilePos a) e.dest e.cls mc epoch e.src
              (natBits 7 0 (s.fldWm a.fld.plane).toNat) (addr % 2 ^ 19) len e.aux body gen])) ∧
        (∀ c, s.sendCause a.fld (tilePos a) e.dest e.cls (mc && e.cls == 0) = some c →
          RunsTo (.emitterSend a q) s (fun t => (∀ y, y ≠ a → t.tile y = s.tile y) ∧ (t.tile a).oqOf q = left ∧
            (∀ c, (t.tile a).bufOf 0 c = b.bufOf 0 c) ∧
            t.getC C.MESH_SEND_REFUSED i = min (2 ^ 48 - 1) (s.getC C.MESH_SEND_REFUSED i + 1)))
      (∀ x r, e.cls = 2 → b.oqOf q = .sum x :: r →
        let n := min x.elems.length (if x.fast then 28 else 5)
        sent (if x.elems.drop n = [] then r else
            .sum { x with elems := x.elems.drop n, addr := (x.addr + n * x.step) % 2 ^ 19 } :: r)
          x.fast x.epoch x.addr n (sumPacket x).2.1 (sumPacket x).2.2) ∧
      (∀ d r, e.cls = 3 → b.oqOf q = .data d :: r → sent r false d.epoch 0 1 (leBytes 8 (wbits d.payload 31 0)) 0) ∧
      (∀ d r, e.cls = 0 ∨ e.cls = 1 → b.oqOf q = .data d :: r →
        let en := (s.fieldSt a.fld).entry e.dest
        let n := if e.cls = 0 ∧ (4 < (composePath (tilePos a) en).length ∨ en.typ ≠ 0) then min e.tpp 3 else e.tpp
        let ds := sameEpoch n (b.oqOf q)
        let gone := look (fun _ => 0) b.emSent q
        ds ≠ [] → (n ≤ ds.length ∨ (b.task (bindOwner (b.oqBind q))).state = .done ∨ ds.length ≠ (b.oqOf q).length) →
        (∀ d', ds.head? = some d' → d'.epoch = d.epoch) →
        if e.cls = 1 then sent ((b.oqOf q).drop ds.length) false d.epoch 0 ds.length (bytesAt (ds.flatMap tokenRecord) 0 128) 0
        else sent ((b.oqOf q).drop ds.length) e.mc d.epoch
          (wbits e 63 45 + (if wbits e 76 64 = 0 then gone else gone % (32 * wbits e 76 64)))
          ((ds.flatMap (fun d => leBytes 32 d.payload.toNat)).length / 8) (ds.flatMap (fun d => leBytes 32 d.payload.toNat)) 0)) ∧
    (∀ f k, foldAt b.folds b.foldPos = some (f, k) → s.tileRuns a = true → s.passState a.fld.plane = 3 →
      s.getF F.PAS_RUN_IN_PASS i = 1 → b.bufRoom 0 2 = true →
      let n := min 5 (f.count - k)
      let off := f.off + 32 * k
      let used := (List.range (32 * n)).map (fun i => off + i)
      b.segCheck f.deep false used = .go → (∀ r ∈ rowsOf used, b.rowClean f.deep r) →
      s.sendCause a.fld (tilePos a) f.destEp 2 false = none →
      RunsTo (.foldReaderSend a) s (fun t => (∀ y, y ≠ a → t.tile y = s.tile y) ∧
        t.tile a = { b with foldPos := b.foldPos + n, inbuf := (t.tile a).inbuf } ∧
        (t.tile a).bufOf 0 2 = b.bufOf 0 2 ++ [s.mkPacket a.fld (tilePos a) f.destEp 2 false b.epoch 0xFFFFFF
          (natBits 7 0 (s.fldWm a.fld.plane).toNat) ((f.destAddr + k * f.step) % 2 ^ 19) n f.redId
          (exactPayload ((List.range n).map (fun j => b.exactAt f.deep (off + 32 * j))))]))

/-- R214, R215 and R233 on hops, R249 on merged sums, R190 and R235 on arriving packets, R237 on fenced tiles, R491 on the bridge. -/
def Obligations.RoutersForwardAndDeliverPackets : Prop :=
  ∀ (a : TileAddr) (s : State),
    let u := s.routerWork a
    let i := a.fld.inst
    (s.meshStopped a.fld || s.islandStopped a || (s.fieldSt a.fld).resetting) = false →
    (∀ (dir : Fin 4) n p, u.pick a dir = some (.buf n, p) →
      (u.nextHop a dir false = .dead → RunsTo (.packetHop a dir) s (fun t =>
        (t.tile a).bufOf n p.cls = ((u.tile a).bufOf n p.cls).drop 1 ∧ (∀ y, y ≠ a → t.tile y = u.tile y) ∧
        t.getC C.MESH_DEAD_HOPS i = min (2 ^ 48 - 1) (u.getC C.MESH_DEAD_HOPS i + 1))) ∧
      (∀ c, c ≠ a → u.nextHop a dir false = .go c → RunsTo (.packetHop a dir) s (fun t =>
        (t.tile a).bufOf n p.cls = ((u.tile a).bufOf n p.cls).drop 1 ∧
        t.tile c = (u.tile c).setBuf (inputOf dir) p.cls ((u.tile c).bufOf (inputOf dir) p.cls ++ [p.hop]) ∧
        (∀ y, y ≠ a → y ≠ c → t.tile y = u.tile y) ∧
        t.getC (flitCtr p.cls) i = min (2 ^ 64 - 1) (u.getC (flitCtr p.cls) i + p.flits)))) ∧
    (∀ (dir : Fin 4) n p c, u.pick a dir = some (.merged n, p) → c ≠ a → u.nextHop a dir false = .go c →
      RunsTo (.packetHop a dir) s (fun t =>
        (t.tile a).merged = (u.tile a).merged.eraseIdx n ∧ (t.tile a).inbuf = (u.tile a).inbuf ∧
        t.tile c = (u.tile c).setBuf (inputOf dir) p.cls ((u.tile c).bufOf (inputOf dir) p.cls ++ [p.hop]) ∧
        (∀ y, y ≠ a → y ≠ c → t.tile y = u.tile y))) ∧
    (∀ (n : Fin 5) (cls : Fin 4) p r, u.ringOf a n cls = false → (u.tile a).bufOf n cls = p :: r → p.cls = cls.val → p.cur = none →
      (cls.val = 2 → (u.tile a).completeSum = none ∧ (u.tile a).redEntry p.aux = none) →
      let v := u.tile a
      (EpEntry.typ p.entry = 0 → u.tileFenced a = true → RunsTo (.packetDelivery a n cls) s (fun t =>
        t.tile a = v.setBuf n cls r ∧ (∀ y, y ≠ a → t.tile y = u.tile y) ∧
        t.getC C.MESH_FENCED_DISCARDS i = min (2 ^ 48 - 1) (u.getC C.MESH_FENCED_DISCARDS i + 1))) ∧
      (EpEntry.typ p.entry = 0 → u.tileFenced a = false → v.landing = none →
        (cls.val = 1 → RunsTo (.packetDelivery a n cls) s (fun t =>
          t.tile a = { v.setBuf n cls r with landing := some { pkt := p, entered := 0 } } ∧ (∀ y, y ≠ a → t.tile y = u.tile y))) ∧
        (cls.val = 3 → natBits 3 0 p.aux = 2 → p.epoch = v.epoch → BitVec.ofNat 32 (leAt p.body 0 4) ≠ 0 →
          (u.fieldSt a.fld).lost = false → (u.fieldSt a.fld).resetting = false → u.inLayby a.fld = false →
          RunsTo (.packetDelivery a n cls) s (fun t =>
            t.tile a = v.setBuf n cls r ∧ (∀ y, y ≠ a → t.tile y = u.tile y) ∧
            (t.fieldSt a.fld).mops = (u.fieldSt a.fld).mops ++
              [{ write := false, rank := 3, sub := a.loc, marker := natBits 15 4 p.aux, amount := BitVec.ofNat 32 (leAt p.body 0 4)
                 kind := 3, id := BitVec.ofNat 32 p.src, wm := u.pktWm a p, donor := none, answer := none }])) ∧
        (cls.val = 0 → p.epoch = v.epoch →
          let deep := p.addr.testBit 18
          let off := natBits 17 0 p.addr
          off % 32 = 0 → p.body.length % 32 = 0 → p.body ≠ [] → off + p.body.length ≤ openBytes deep →
          (deep = true → (v.seg (segOf off)).state = .active ∧ (v.seg (segOf (off + p.body.length - 1))).state = .active) →
          (∀ e ∈ v.gather, ¬ (e.deep = deep ∧ off / 32 ≤ e.row ∧ e.row < (off + p.body.length) / 32)) →
          RunsTo (.packetDelivery a n cls) s (fun t =>
            (t.tile a).bufOf n cls = r ∧ (∀ y, y ≠ a → t.tile y = u.tile y) ∧
            ∀ d o, (t.tile a).byte d o =
              if d = deep ∧ off ≤ o ∧ o < off + p.body.length then p.body.getD (o - off) 0 else v.byte d o))) ∧
      (EpEntry.typ p.entry = 2 → cls.val = 0 →
        (u.getF F.MESH_DRAIN_STATE_ISO_SIDE i).testBit (if a.fld.plane = 0 then 1 else 3) = false →
        RunsTo (.packetDelivery a n cls) s (fun t =>
          t.tile a = v.setBuf n cls r ∧ (∀ y, y ≠ a → t.tile y = u.tile y) ∧
          t.bridgeRx = u.bridgeRx ++ [{
            plane := otherPlane a.fld.plane, router := ((tilePos a).1, 1023 - (tilePos a).2)
            destEp := BitVec.ofNat 24 (leAt p.payload 0 3), srcEp := BitVec.ofNat 24 p.src, aux := BitVec.ofNat 16 p.aux
            addr := BitVec.ofNat 19 p.addr, wm := u.pktWm a p, payload := p.body }])))

/-- R255 on the modes, R253 and R254 on sweeps, R256 to R258 on results, R259 on layby and power transitions, R101 on the abort drain of a tile. -/
def Obligations.DrainsHoldAbortSweepAndRelease : Prop :=
  ∀ (f : FieldAddr) (s : State),
    let i := f.inst
    let power := s.getF F.FPW_STATE_POWER i
    let accepted (fw : Bool) (v : W64) : Prop := wbits v 2 2 = 1 ∧
      s.writeCode fw ⟨.MESH, i⟩ 0x098 true v false (wbits v 2 2 == 1 && s.getF F.MESH_DRAIN_CMD_BUSY i == 1 &&
        !(wbits v 1 0 == 1 && (s.fieldSt f).drain == some 0)) = 0
    let shows (t : State) (held drained busy : Nat) : Prop := t.getF F.MESH_DRAIN_STATE_HELD i = held ∧
      t.getF F.MESH_DRAIN_STATE_DRAINED i = drained ∧ t.getF F.MESH_DRAIN_CMD_BUSY i = busy
    let result (t : State) (code : Nat) : Prop := t.getF F.MESH_DRAIN_CMD_RESULT i = code ∧
      t.getF F.MESH_DRAIN_CMD_BUSY i = 0 ∧ (t.fieldSt f).drain = none
    let still (t : State) : Prop := ∀ a, t.tile a = s.tile a
    (∀ fw v, accepted fw v → wbits v 1 0 = 0 →
      (power = 1 ∨ power = 3 → RunsTo (.drainStop f fw v) s (fun t => result t 2 ∧ still t)) ∧
      (power = 2 → RunsTo (.drainStop f fw v) s (fun t => result t 0 ∧ shows t 1 1 0 ∧ still t)) ∧
      (power ≠ 1 ∧ power ≠ 2 ∧ power ≠ 3 → RunsTo (.drainStop f fw v) s (fun t => shows t 1 0 1 ∧
        (t.fieldSt f).drain = some 0 ∧ (t.fieldSt f).goodSweeps = 0 ∧ (t.fieldSt f).absorbing = (s.fieldSt f).absorbing ∧
        (∀ a, a.fld ≠ f → t.tile a = s.tile a) ∧
        ∀ a, a.fld = f → t.tile a = { s.tile a with near := (t.tile a).near, deep := (t.tile a).deep, ecc := (t.tile a).ecc, wb := (t.tile a).wb,
                                                    gather := (t.tile a).gather }))) ∧
    (∀ fw v, accepted fw v → wbits v 1 0 = 1 → power ≠ 1 → power ≠ 2 → power ≠ 3 →
      RunsTo (.drainAbort f fw v) s (fun t => shows t 1 0 1 ∧ (t.fieldSt f).drain = some 1 ∧ (t.fieldSt f).absorbing = true ∧
        (∀ a, a.fld ≠ f → t.tile a = s.tile a) ∧
        (∀ a, a.fld = f → (t.tile a).dq = [] ∧ (t.tile a).cq = [] ∧ (t.tile a).oq = [] ∧ (t.tile a).reads = [] ∧
          (t.tile a).inbuf = [] ∧ (t.tile a).slots = [] ∧ (t.tile a).merged = [] ∧ (t.tile a).landing = none ∧
          (t.tile a).spilled = [] ∧ ∀ k, k < 4 → ((t.tile a).task k).state ≠ .running ∧
            ((t.tile a).task k).state ≠ .done ∧ ((t.tile a).task k).state ≠ .faulted))) ∧
    (∀ fw v, accepted fw v → wbits v 1 0 = 2 →
      RunsTo (.drainRelease f fw v) s (fun t => result t 3 ∧ shows t 0 0 0 ∧ (t.fieldSt f).absorbing = false ∧
        (s.edgeHeld = [] → still t) ∧ ∀ a, t.tile a = { s.tile a with inbuf := (t.tile a).inbuf })) ∧
    (∀ m, (s.fieldSt f).drain = some m → (s.fieldSt f).lost = false → (s.fieldSt f).resetting = false →
      let n := s.getF F.MESH_DRAIN_STATE_SWEEPS i
      (¬ (∀ a ∈ s.liveOf f, (s.tile a).drained = true ∧ s.banksQuiet a = true) → RunsTo (.drainSweep f) s (fun t =>
        (t.fieldSt f).goodSweeps = 0 ∧ (t.fieldSt f).drain = some m ∧ t.getF F.MESH_DRAIN_STATE_SWEEPS i = min (2 ^ 32 - 1) (n + 1) ∧ still t)) ∧
      ((∀ a ∈ s.liveOf f, (s.tile a).drained = true ∧ s.banksQuiet a = true) →
        ((s.fieldSt f).goodSweeps = 0 → RunsTo (.drainSweep f) s (fun t =>
          (t.fieldSt f).goodSweeps = 1 ∧ (t.fieldSt f).drain = some m ∧ t.getF F.MESH_DRAIN_STATE_SWEEPS i = min (2 ^ 32 - 1) (n + 1) ∧ still t)) ∧
        ((s.fieldSt f).goodSweeps ≠ 0 → RunsTo (.drainSweep f) s (fun t =>
          result t 0 ∧ t.getF F.MESH_DRAIN_STATE_DRAINED i = 1 ∧ t.getF F.MESH_DRAIN_STATE_SWEEPS i = min (2 ^ 32 - 1) (n + 1) ∧ still t)))) ∧
    ((s.fieldSt f).drain = some 0 → RunsTo (.drainTimeout f) s (fun t => result t 1 ∧
      t.getF F.MESH_DRAIN_STATE_HELD i = s.getF F.MESH_DRAIN_STATE_HELD i ∧ still t))

/-- R261 and R606 on isolation, R198, R200, R264 and R265 on the spill ring, R266 on deadlocks, R267 and R302 on stalls. -/
def Obligations.IsolationSpillsAndMeshFailuresAreKept : Prop :=
  ∀ (a : TileAddr) (s : State),
    let b := s.tile a
    let f := a.fld
    let i := a.fld.inst
    let runs : Prop := (s.meshStopped f || s.islandStopped a || (s.fieldSt f).resetting) = false
    let live : Prop := 1 ≤ s.getF F.AEN_PASS_STATE_STATE f.plane ∧ s.getF F.AEN_PASS_STATE_STATE f.plane ≤ 5 ∧
      s.getF F.PAS_RUN_IN_PASS i = 1
    let reported (t : State) (row col : Nat) (cause : Nat) (hw : Bool) : Prop := t.causes = s.causes ++
      [{ plane := f.plane, cause := cause, hardware := hw, slot := (s.slotOfField f).getD 0, row := row, col := col, task := 0
         named := true, cyc := s.cycleOf f, age := 0 }]
    (∀ (side : Fin 4) (port here far : Bool) c, neighbour a side = some c → (s.fieldSt f).lost = false →
      (c.fld = f ∨ (s.fieldSt c.fld).lost = true ∨
        (s.getF F.FPW_STATE_POWER c.fld.inst < 2 ∧ (s.fieldSt c.fld).resetting = false)) →
      s.isolated a side port = false →
      RunsTo (.linkIsolation a side port here far) s (fun t =>
        t.isolated a side port = true ∧ (t.getF F.MESH_DRAIN_STATE_ISO_SIDE i).testBit side = true ∧
        (∀ y, t.tile y = s.tile y) ∧
        (c.fld = f → here = true → (t.fieldSt f).fenceOf a.loc = 3) ∧
        (c.fld = f → far = true → (t.fieldSt f).fenceOf c.loc = 3))) ∧
    (let vc := s.getF F.MESH_DL_CTL_SPILL_VC i
     ∀ n p r, runs → s.getF F.MESH_DL_CTL_DL_EN i ≠ 0 → b.spilled.length < 25 → [1, 2, 3, 4].find? (s.spillBlocked a vc) = some n →
      b.bufOf n vc = p :: r → p.cls = vc → b.ringWrite < 25 → b.rowClean true (spillBase / 32) →
      RunsTo (.deadlockSpill a) s (fun t => (∀ y, y ≠ a → t.tile y = s.tile y) ∧
        (t.tile a).spilled = b.spilled ++ [(p.entry, p.copied, p.nanGen)] ∧ (t.tile a).spillInput = some n ∧ (t.tile a).bufOf n vc = r ∧
        (∀ k, k < 160 → (t.tile a).byte true (spillSlot b.ringWrite + k) = (slotBytes p).getD k 0) ∧
        t.getC C.MESH_SPILLS i = min (2 ^ 48 - 1) (s.getC C.MESH_SPILLS i + 1))) ∧
    (∀ n p w, runs → b.spillInput = some n → b.ringHead = some p → (p.cls = 2 → b.redEntry p.aux = none) → p.dir = none →
      (s.deliver a p).isSome = true → (s.readSlot a).2 = true → (s.readSlot a).1.deliver a p = some w →
      RunsTo (.spillRestore a) s (fun t => t = w) ∧
      ((s.readSlot a).1.tile a).spilled = b.spilled.drop 1) ∧
    (∀ (block : Fin 12) c p, s.getF F.MESH_DL_CTL_DL_EN i = 1 → s.blockFull f block = true →
      (s.liveOf f).find? (fun x => x.block == block.val && decide (25 ≤ (s.tile x).spilled.length)) = some c →
      c.fld = f → (s.tile c).ringHead = some p →
      RunsTo (.deadlock f block) s (fun t => (∀ y, t.tile y = s.tile y) ∧
        t.getC C.MESH_DEADLOCKS i = min (2 ^ 48 - 1) (s.getC C.MESH_DEADLOCKS i + 1) ∧
        (s.getF F.MESH_EVENT_FIRST_VALID i = 0 → t.getF F.MESH_EVENT_FIRST_KIND i = 3) ∧
        (live → reported t c.row c.col 8 true))) ∧
    (∀ n p, (s.watched a)[n]? = some p →
      RunsTo (.stallWatchdog a n) s (fun t => (∀ y, t.tile y = s.tile y) ∧
        t.getC C.MESH_STALLS i = min (2 ^ 48 - 1) (s.getC C.MESH_STALLS i + 1) ∧
        (s.getF F.MESH_EVENT_FIRST_VALID i = 0 → t.getF F.MESH_EVENT_FIRST_KIND i = 2) ∧
        (live → if s.getC C.MESH_RED_MISMATCH i = 0 then reported t a.row a.col 9 true else reported t a.row a.col 7 false)))

/-- R260 on table changes, R276 on FEP.SEL, R221 on the endpoint table, R224 on the fence map. -/
def Obligations.TableAccessesReadAndWriteTheirItem : Prop :=
  ∀ (f : FieldAddr) (fw : Bool) (v : W64) (s : State),
    let i := f.inst
    let t := wbits v 1 0
    s.writeCode fw ⟨.FEP, i⟩ 0x080 true v
      ((t == 1 || t == 2) && decide (95 < wbits v 8 2) || t == 1 && wbits v 17 16 != 0) (s.getF F.FEP_SEL_BUSY i == 1) = 0 →
    wbits v 24 24 = 1 →
    let open' : Prop := s.getF F.MESH_DRAIN_STATE_HELD i ≠ 0 ∧ s.getF F.MESH_DRAIN_STATE_DRAINED i ≠ 0
    let d : BitVec 128 := s.reg ⟨.FEP, i⟩ 0x090 ++ s.reg ⟨.FEP, i⟩ 0x088
    let kept (z : State) : Prop := (∀ a, z.tile a = s.tile a) ∧ ∀ g, z.fieldSt g = s.fieldSt g
    (wbits v 23 22 = 0 → RunsTo (.fepRead f fw v) s (fun z => kept z ∧ z.getF F.FEP_SEL_RESULT i = 0 ∧
      z.reg ⟨.FEP, i⟩ 0x088 = (s.fepItem f v).setWidth 64 ∧ z.reg ⟨.FEP, i⟩ 0x090 = (s.fepItem f v >>> 64).setWidth 64)) ∧
    (wbits v 23 22 = 1 →
      (¬ open' → RunsTo (.fepWrite f fw v) s (fun z => kept z ∧ z.getF F.FEP_SEL_RESULT i = 1)) ∧
      (open' → fepBad t d = true → RunsTo (.fepWrite f fw v) s (fun z => kept z ∧ z.getF F.FEP_SEL_RESULT i = 2)) ∧
      (open' → fepBad t d = false →
        (t = 0 → RunsTo (.fepWrite f fw v) s (fun z => z.getF F.FEP_SEL_RESULT i = 0 ∧ (∀ a, z.tile a = s.tile a) ∧
          (∀ g, g ≠ f → z.fieldSt g = s.fieldSt g) ∧
          z.fieldSt f = { s.fieldSt f with ept := put (fun _ => 0) (s.fieldSt f).ept (wbits v 17 2) d })) ∧
        (∀ a, fepTile f (wbits v 17 2) = some a → t = 1 → RunsTo (.fepWrite f fw v) s (fun z =>
          z.getF F.FEP_SEL_RESULT i = 0 ∧ (∀ g, z.fieldSt g = s.fieldSt g) ∧ (∀ b, b ≠ a → z.tile b = s.tile b) ∧
          z.tile a = { s.tile a with rtab := put (fun _ => 0#64) (s.tile a).rtab (wbits v 21 18) (d.setWidth 64) })) ∧
        (∀ a, fepTile f (wbits v 17 2) = some a → t = 2 → RunsTo (.fepWrite f fw v) s (fun z =>
          z.getF F.FEP_SEL_RESULT i = 0 ∧ (∀ b, z.tile b = s.tile b) ∧ (∀ g, g ≠ f → z.fieldSt g = s.fieldSt g) ∧
          z.fieldSt f = { s.fieldSt f with
            fence := put (fun _ => 0) (s.fieldSt f).fence a.loc (if d.getLsbD 1 then 3 else d.setWidth 2) }))))

/-- R285 and R286 on PLACE_LOAD, R287 to R289 on acceptance, R290 to R292 on loading and start, R293 on REUSE, R294 on the partner, R296 and R297 on the end, R301 to R304 on aborts. -/
def Obligations.PassesGoThroughTheirStates : Prop :=
  ∀ (p : Fin 2) (s : State),
    let n := s.getF F.AEN_PASS_STATE_PASS p
    let fs := s.passFields p
    let quiet : Prop := ∀ f ∈ fs, s.quiet f = true
    let fresh : Prop := ∀ e ∈ s.ctxsOf p, s.oldContext p e.2 = false
    let img := s.image p (s.ae p).image
    (∀ q r, s.findStarted (arrayCode p) [opPlaceLoad] = some (q, r) →
      let addr := RawRec.opd r.raw 48 8
      let cap := s.edgeCapacity p
      let g := s.image p addr
      let h := s.edgeRead p addr 256 .engine
      let b := h.1.edgeRead p (addr + 256) (g.size - 256) .engine
      s.passOver p = true → addr + 256 ≤ cap → h.2.2 = false → g.badHeader p addr cap = false → b.2.2 = false →
      b.1.imageStatus p g = 0 →
      RunsTo (.placeLoad p) s (fun t => (t.ae p).placing = some (q, r.index, addr) ∧ t.passState p = s.passState p ∧
        ∀ x, x ≠ p → t.ae x = s.ae x)) ∧
    (∀ q index addr, (s.ae p).placing = some (q, index, addr) →
      (∀ f ∈ s.wholeFields p, (s.fieldSt f).drain = none ∧ s.quiet f = true) →
      RunsTo (.placeLoadCommit p) s (fun t => t.getF F.AEN_PLACEMENT_PLACEMENT_ID p = (s.image p addr).placement % 2 ^ 64 ∧
        t.passState p = 0 ∧ (t.ae p).image = addr ∧ (t.ae p).placing = none ∧ (t.ae p).pass = none ∧ (t.ae p).reuse = false)) ∧
    (∀ q r, s.findStarted (arrayCode p) [opPassRun] = some (q, r) → s.passRefusal p r.raw = 0 →
      let k := RawRec.passIndex r.raw
      RunsTo (.passRun p) s (fun t =>
        t.reg ⟨.AEN, p⟩ 0x090 = BitVec.ofNat 64 ((if RawRec.passReuse r.raw then 2 else 1) + k <<< 4 +
          boolNat (RawRec.passReuse r.raw) <<< 16 + RawRec.barrierCh r.raw <<< 17 + (BitVec.ofNat 32 (RawRec.wm r.raw)).toNat <<< 32) ∧
        (t.ae p).pass = some (q, r.index) ∧ (t.ae p).span = img.passSpan k ∧
        (t.ae p).slots = BitVec.ofNat 64 (img.passMask k) ∧ (t.ae p).held = false ∧ (t.ae p).cause = none ∧
        ∀ a, t.tile a = s.tile a)) ∧
    (s.passState p = 1 → (s.ae p).held = false → s.causeWaits p = false → fresh →
      ((s.ae p).span = true → s.bridgeReady = true) →
      (∀ f ∈ fs, s.getF F.FPW_STATE_POWER f.inst = 0 ∧ (s.fieldSt f).resetting = false) →
      RunsTo (.passLoadBegin p) s (fun t => (t.ae p).held = true ∧ t.passState p = 1)) ∧
    (s.passState p = 1 → (s.ae p).held = true → s.causeWaits p = false → quiet → s.passReady p = true → fresh →
      let r := s.readPass p img n
      r.2 = false → (r.1.loadFields p img n).causeWaits p = false →
      RunsTo (.passArmed p) s (fun t => t.passState p = if (s.ae p).span then 2 else 3)) ∧
    (s.passState p = 2 → s.getF F.AEN_PASS_STATE_REUSE p = 0 → (s.ae p).entered = true → s.causeWaits p = false → s.passReady p = true →
      RunsTo (.passArmed p) s (fun t => t.passState p = 3)) ∧
    (s.passState p = 2 → s.getF F.AEN_PASS_STATE_REUSE p ≠ 0 → s.causeWaits p = false → fresh → s.passReady p = true →
      ((s.ae p).span = true → (s.ae p).entered = true ∧ s.bridgeReady = true) →
      RunsTo (.passRestart p) s (fun t => t.passState p = 3)) ∧
    (∀ cycles, s.passState p = 3 → s.causeWaits p = false → s.allDone p = true →
      RunsTo (.passFinishing p cycles) s (fun t => t.passState p = 4)) ∧
    (s.passState p = 4 → s.causeWaits p = false → quiet →
      RunsTo (.passComplete p) s (fun t => t.passState p = if (s.ae p).span then 5 else 6)) ∧
    (∀ c, decidingCause (s.causes.filter (fun (c : PassCause) => c.plane == p)) = some c → s.passLive p = true → ∀ recent,
      RunsTo (.passAbort p recent) s (fun t => t.passState p = 7 ∧ (t.ae p).cause = some (c.cause, c.hardware) ∧
        (t.ae p).reuse = false ∧ t.causeWaits p = false ∧
        (s.getF F.AEN_FAIL_VALID p = 0 → t.reg ⟨.AEN, p⟩ 0x098 = s.failWord p c ∧ t.reg ⟨.AEN, p⟩ 0x0A0 = c.cyc))) ∧
    (s.passState p = 7 → (∀ f ∈ fs, (s.fieldSt f).lost = false → (s.fieldSt f).resetting = false → s.quiet f = true) →
      RunsTo (.passFailed p) s (fun t => t.passState p = 8)) ∧
    (∀ y r, (s.ae p).incoming = y :: r →
      let mine : Prop := y.1 = s.fldWm p
      let kept (t : State) : Prop := t.causes = s.causes
      (mine → (s.ae p).spans < y.2.2 → RunsTo (.passAbortNotice p) s (fun t => kept t ∧
        t.ae p = { s.ae p with incoming := r, notices := (s.ae p).notices ++ [(y.1, y.2.1)] })) ∧
      (mine → s.passLive p = true → (s.ae p).span = true → s.passWm p = y.1 → (s.ae p).spans = y.2.2 →
        RunsTo (.passAbortNotice p) s (fun t => (t.ae p).incoming = r ∧
          ∃ c : PassCause, t.causes = s.causes ++ [c] ∧ c.plane = p ∧ c.cause = 0x11 ∧ c.hardware = y.2.1)) ∧
      (¬ mine ∨ (s.passLive p = false ∧ y.2.2 ≤ (s.ae p).spans) ∨ y.2.2 < (s.ae p).spans → RunsTo (.passAbortNotice p) s (fun t => kept t ∧
        t.ae p = { s.ae p with incoming := r }))) ∧
    (s.passLive p = true → RunsTo (.passWatchdog p) s (fun t => ∃ c : PassCause, t = { s with causes := s.causes ++ [c] } ∧
      c.plane = p ∧ c.cause = 0x0C ∧ c.hardware = true))

/-- R330 and R331 on contexts, R337 on the open checks, R346 on injection, R348 on the states, R350 and R354 on requests, R358 on resends, R361 to R363 on the ends. -/
def Obligations.StreamsOpenDeliverInjectAndEnd : Prop :=
  ∀ (p : Fin 2) (s : State),
    let others (k : Nat) (t : State) : Prop := ∀ j, j ≠ k → t.ctx j = s.ctx j
    let ending (k status : Nat) (t : State) : Prop := (t.ctx k).state = .ending ∧ (t.ctx k).status = status ∧ others k t
    let freed (k : Nat) (t : State) : Prop := t.ctx k = { StreamCtx.reset with gen := (s.ctx k).gen + 1 } ∧ others k t
    (∀ q r e tl c, s.findStarted (3 + p.val) [opStreamOpen] = some (q, r) →
      let d : SDesc := r.payload
      let ep : BitVec 2 := BitVec.ofNat 2 (RawRec.epoch r.raw)
      d.bad = false → d.outside (s.edgeCapacity p) = false → s.streamPath p d = .ok (e, tl) →
      s.freeContext p tl.fld.field = some c → (ep = (s.fieldSt tl.fld).epoch ∨ ep = (s.fieldSt tl.fld).epoch + 1) →
      let k := ctxKey p c
      RunsTo (.streamOpen p) s (fun t => others k t ∧ t.ctxCount = s.ctxCount + 1 ∧
        t.ctx k = { StreamCtx.reset with
          state := .holding, gen := (s.ctx k).gen, desc := d,
          wm := BitVec.ofNat 32 (RawRec.wm r.raw), epoch := ep, queue := q, index := r.index, field := tl.fld.field.val,
          order := s.ctxCount, router := s.injection p d.group, entry := e })) ∧
    (∀ q r, s.findStarted (3 + p.val) [opStreamCancel] = some (q, r) →
      let m := s.matchCtxs p (RawRec.opd r.raw 48 1 % 4) (RawRec.opd r.raw 56 8)
      RunsTo (.streamCancel p) s (fun t => (∀ k ∈ m, (t.ctx k).state = .ending ∧ (t.ctx k).status = 1) ∧
        ∀ j, j ∉ m → t.ctx j = s.ctx j)) ∧
    (∀ ctx : Nat,
      let k := ctxKey p (ctx % 2 ^ 20)
      let c := s.ctx k
      let f := c.dest p
      (c.state = .holding → (s.fieldSt f).epoch = c.epoch → s.fieldHeld f = false →
        (s.getF F.ENG_WM_OPEN (3 + p.val) = 1 → c.wm.toNat ≤ s.getF F.ENG_WM_CUR_WM (3 + p.val)) →
        (∀ e tl, s.streamPath p c.d = .ok (e, tl) → RunsTo (.streamDeliverStart p ctx) s (fun t => others k t ∧
          (t.ctx k).state = (if (s.fieldSt tl.fld).epoch = c.epoch ∧ s.fieldHeld tl.fld = false then .delivering else .holding) ∧
          (t.ctx k).entry = e ∧ (t.ctx k).router = s.injection p c.d.group ∧ (t.ctx k).field = tl.fld.field.val ∧ (t.ctx k).sent = c.sent)) ∧
        (∀ cause, s.streamPath p c.d = .error cause → RunsTo (.streamDeliverStart p ctx) s (fun t =>
          ending k 6 t ∧ (t.ctx k).refuse = cause.1))) ∧
      (∀ a, tileAt p c.router.1 c.router.2 = some a → s.mayInject k c = true →
        let cls := if c.d.towpath then 1 else 0
        (s.tile a).bufRoom 0 cls = true →
        let short := c.d.towpath && decide (c.d.total < (c.sent / c.d.tokBytes + 3) * c.d.tokBytes) && c.d.total % c.d.tokBytes != 0
        let fill : BitVec 256 := if short then BitVec.ofNat 256 (Config.freeValue s.free) else 0
        ∀ x, (if c.d.towpath then c.nextTow fill else c.nextTile) = some x →
        let split := c.sent == c.d.panelLo c.done && c.d.mx && c.d.splits c.done
        let put (t : State) : Prop := (∀ b, b ≠ a → t.tile b = s.tile b) ∧
          t.tile a = (s.tile a).setBuf 0 x.pkt.cls ((s.tile a).bufOf 0 x.pkt.cls ++ [x.pkt])
        (split = true → RunsTo (.streamInject p ctx) s (fun t => ending k 7 t ∧ ∀ b, t.tile b = s.tile b)) ∧
        (split = false → x.sent = c.d.total → RunsTo (.streamInject p ctx) s (fun t => put t ∧ freed k t)) ∧
        (split = false → x.sent ≠ c.d.total → RunsTo (.streamInject p ctx) s (fun t => put t ∧ others k t ∧
          (t.ctx k).sent = x.sent ∧ (t.ctx k).scaleSent = x.scales ∧
          match c.bad.find? (fun e => e.1 == StreamCtx.done { c with sent := x.sent, scaleSent := x.scales }) with
          | none => (t.ctx k).state = .delivering
          | some e => ending k e.2 t))) ∧
      (∀ seq r, c.reqs.find? (fun r => r.server && r.seq == seq) = some r → (c.state = .holding ∨ c.state = .delivering) →
        (s.getF F.SEN_CTL_READ_RETRIES p < r.sends → RunsTo (.streamReadTimeout p ctx seq) s (fun t =>
          others k t ∧ r ∉ (t.ctx k).reqs)) ∧
        (r.sends ≤ s.getF F.SEN_CTL_READ_RETRIES p → RunsTo (.streamReadTimeout p ctx seq) s (fun t => others k t ∧
          t.ctx k = { c with reqs := c.reqs.map (fun x => if x == r then
            { r with port := (s.healthyPort p c.d.group).getD r.port, sends := r.sends + 1 } else x) }))) ∧
      (c.state = .delivering → RunsTo (.streamStalled p ctx) s (ending k 10)) ∧
      (c.state = .ending → c.reqs = [] → RunsTo (.streamContextRelease p ctx) s (freed k))) ∧
    (∀ server (port : Fin 32) starved k starve ch name addr len bs, s.portReady p server port = true →
      (server = true ∨ port.val < 24) → s.grant p server port starved = some (k, starve) →
      s.nextReq p (s.ctx k) server port = some (ch, name, addr, len, bs) →
      RunsTo (.streamRequest p server port starved) s (fun t => others k t ∧
        t.ctx k = { s.ctx k with
          next := max (s.ctx k).next (ch / 16 + 1),
          issued := (s.ctx k).issued ++ [(ch, name)],
          seq := (s.ctx k).seq + 1,
          reqs := (s.ctx k).reqs ++ [{
            seq := (s.ctx k).seq, server := server, port := port, chunk := ch, addr := addr,
            len := len, bursts := bs, sends := 1 }] }))

/-- R378 and R379 on doorbells, R380 and R386 on fetching, R387 and R389 on starting, R388 and R391 on timeouts, R390 and R403 on completion, R404 and R416 on the queue registers. -/
def Obligations.EnginesFetchStartAndCompleteRecords : Prop :=
  ∀ (e : Fin 7) (q : Fin 64) (s : State),
    let p : Page := ⟨.ENG, e⟩
    let get (f : Fld) : Nat := s.getF f e
    let recs (t : State) : List EngRec := (t.queue e q).recs
    let rings (t : State) : Prop := t.getF (F.ENG_QPTR_TAIL q) e = get (F.ENG_QPTR_TAIL q) ∧
      t.getF (F.ENG_CQCFG_CQ_HEAD q) e = get (F.ENG_CQCFG_CQ_HEAD q)
    let completes (q : Nat) (index common : Nat) (t : State) : Prop :=
      (∀ r ∈ (t.queue e q).recs, r.index = index → r.stage = .done) ∧
      ∀ x, (s.queue e q).rec? index = some x → t.getF (F.ENG_CQCFG_CQ_TAIL q) e =
        if common = 0 ∧ (RawRec.flags x.raw).testBit 2 = true then get (F.ENG_CQCFG_CQ_TAIL q)
        else (get (F.ENG_CQCFG_CQ_TAIL q) + 1) % s.cqSize e q % 2 ^ 20
    let times (h : EngRec) (code : Nat) (t : State) : Prop :=
      if s.cqRoom e q = true ∧ s.stopped e q = false then completes q h.index code t
      else ∀ r ∈ recs t, r.index = h.index → r.stage = .queued → r.check = code
    (∀ aligned v,
      RunsTo (.doorbell e q aligned true v) s rings ∧
      (s.doorbellBad e q aligned v = true → RunsTo (.doorbell e q aligned false v) s (fun t => rings t ∧
        t.getC C.ENG_DB_REFUSED e = min (2 ^ 48 - 1) (s.getC C.ENG_DB_REFUSED e + 1))) ∧
      (s.doorbellBad e q aligned v = false → RunsTo (.doorbell e q aligned false v) s (fun t =>
        t.getF (F.ENG_QPTR_TAIL q) e = (if wbits v 48 48 = 1 then wbits v 19 0 % s.sqSize e q % 2 ^ 20 else get (F.ENG_QPTR_TAIL q)) ∧
        t.getF (F.ENG_CQCFG_CQ_HEAD q) e =
          (if wbits v 49 49 = 1 then wbits v 43 24 % s.cqSize e q % 2 ^ 20 else get (F.ENG_CQCFG_CQ_HEAD q))))) ∧
    (∀ raw payload (err : Fin 3), s.mayFetch e q = true → (s.queue e q).tries = 0 →
      (get (F.ENG_QCFG_LOC q) = 0 → s.dmaHeld = false) →
      let x := s.fetchRaw e q raw err
      let check := x.1.validate e q x.2.1
      let y := x.1.fetchPayload x.2.1 check payload err
      (x.2.2 = true → RunsTo (.recordFetch e q raw payload err) s (fun t => recs t = recs s ∧ (t.queue e q).tries = 1)) ∧
      (x.2.2 = false → (check = 0 → RawRec.readsPayload x.2.1 = true → RawRec.loc x.2.1 = 1 → s.dmaHeld = false) →
        RunsTo (.recordFetch e q raw payload err) s (fun t => (t.queue e q).tries = 0 ∧
          t.getF (F.ENG_QPTR_FETCH q) e = (get (F.ENG_QPTR_FETCH q) + 1) % s.sqSize e q % 2 ^ 20 ∧
          recs t = recs s ++ [{
            index := get (F.ENG_QPTR_FETCH q), raw := x.2.1, payload := y.2.1, check := if y.2.2 then 12 else check,
            stage := .queued, retired := false, sat := (false, false), matched := [] }]))) ∧
    (∀ (k : Fin 64) h,
      (s.nextHead e = some (k.val, .starts) → (s.queue e k).head = some h → RunsTo (.recordStart e) s (fun t =>
        (∀ r ∈ (t.queue e k).recs, r.index = h.index → r.stage = .started) ∧
        t.getF (F.ENG_QSTAT_OUTSTANDING k) e = (get (F.ENG_QSTAT_OUTSTANDING k) + 1) % 2 ^ 32 ∧
        look (fun _ => 0) t.turns e = (k + 1) % 64)) ∧
      (∀ c, s.nextHead e = some (k.val, .ends c) → (s.queue e k).head = some h →
        RunsTo (.recordStart e) s (completes k h.index c))) ∧
    (∀ r, s.startedRec e q [opNop] = some r → RunsTo (.nopCommand e q) s (completes q r.index 0)) ∧
    (∀ h, (s.queue e q).head = some h → s.enabled e q = true →
      (s.waitsArmed e h = true → s.waitsDone h = false → RunsTo (.waitTimeout e q) s (times h 9)) ∧
      (h.check = 0 → s.wmCond e h.raw = .waits → RunsTo (.wmHoldTimeout e q) s (times h 10))) ∧
    (∀ fw v, wbits v 3 3 = 1 → s.writeCode fw p (queueReg q 5) true v false (!s.stopped e q) = 0 →
      RunsTo (.queueResume e q fw v) s (fun t => t.getF (F.ENG_QSTAT_STATE q) e = 1 ∧
        t.queue e q = { s.queue e q with failed := false, tries := 0 })) ∧
    (∀ (reg : Fin 4) fw v,
      let k := match reg.val with | 0 => 0 | 1 => 1 | 2 => 3 | _ => 4
      s.writeCode fw p (queueReg q k) true v ((k == 0 || k == 3) && v.toNat % 4096 != 0) (s.queueFixed e q k v) = 0 →
      (reg = 1 → s.enabled e q = false → wbits v 7 7 = 1 → RunsTo (.queueConfigWrite e q reg fw v) s (fun t =>
        t.queue e q = EngQueue.reset ∧ t.getF (F.ENG_QSTAT_STATE q) e = 1 ∧ t.reg p (queueReg q 2) = 0 ∧
        t.getF (F.ENG_CQCFG_CQ_TAIL q) e = 0 ∧ t.getF (F.ENG_CQCFG_CQ_HEAD q) e = 0 ∧ t.getF (F.ENG_CQCFG_PHASE q) e = 1)) ∧
      (reg = 1 → s.enabled e q = true → wbits v 7 7 = 0 → RunsTo (.queueConfigWrite e q reg fw v) s (fun t =>
        t.queue e q = EngQueue.reset ∧ t.getF (F.ENG_QSTAT_STATE q) e = 0 ∧ t.getF (F.ENG_QCFG_ENABLE q) e = 0)) ∧
      (¬ (reg = 1 ∧ (s.enabled e q = true ↔ wbits v 7 7 = 0)) → RunsTo (.queueConfigWrite e q reg fw v) s (fun t =>
        OnlyRegs s t ∧ RegsBut [(p, queueReg q k), (p, 0x020)] s t)))

/-- R394 on STEP_BEGIN, R395 and R410 on closing, R396 and R400 on the marker and copy records, R405, R406 and R409 on re-runs, R408 on the end. -/
def Obligations.StepsBeginCloseRerunRewindAndEnd : Prop :=
  ∀ (s : State),
    let opens (mask wm : Nat) (t : State) : Prop :=
      ∀ e ∈ maskEngines mask, t.getF F.ENG_WM_CUR_WM e = wm % 2 ^ 32 ∧ t.getF F.ENG_WM_OPEN e = 1
    let closed (failed : Option (Nat × Nat)) (t : State) : Prop := t.step = none ∧ t.stepFailed = failed ∧ t.getF F.ENG_STEP_OPEN 0 = 0
    let done (q index : Nat) (t : State) : Prop := ∀ z ∈ (t.queue 0 q).recs, z.index = index → z.stage = .done
    (∀ (q : Fin 64) r, s.startedRec 0 q [opStepBegin] = some r → s.step = none → s.getF F.FLT_RECOVERY_STATE 0 ≠ 4 →
      s.getF F.FLT_RECOVERY_STATE 0 ≠ 5 →
      let first := RawRec.opd r.raw 48 4
      let last := RawRec.opd r.raw 52 4
      let mask := natBits 6 0 (RawRec.opd r.raw 56 1)
      s.wmOrder first last = false → RunsTo (.stepBegin q) s (fun t => opens mask first t ∧ t.getF F.ENG_STEP_OPEN 0 = 1 ∧
        t.getF F.ENG_STEP_FIRST_WM 0 = first % 2 ^ 32 ∧ t.getF F.ENG_STEP_LAST_LAST_WM 0 = last % 2 ^ 32 ∧
        (∀ z ∈ (t.queue 0 q).recs, z.index = r.index → z.stage = .running) ∧
        ∃ y, t.step = some y ∧ y.firstWm = first ∧ y.lastWm = last ∧ y.mask = mask ∧ y.reruns = natBits 3 0 (RawRec.opd r.raw 57 1) ∧
          y.made = 0 ∧ y.queue = q ∧ y.index = r.index ∧ y.fail = none ∧ y.aborted = false ∧ y.phase = .running)) ∧
    (∀ (q : Fin 64) meas x r, s.step = some x → (s.queue 0 q).recs.find? (fun (r : EngRec) => r.busy && r.isClose) = some r →
      x.phase = .running → x.fail = none → x.aborted = false → x.queue < 64 →
      let w := RawRec.wm r.raw
      s.wmDone r = true →
      (w < x.lastWm → RunsTo (.waymarkClose q meas) s (fun t => t.getF F.ENG_STEP_LAST_LAST_CLOSED 0 = w % 2 ^ 32 ∧
        opens x.mask (w + 1) t ∧ done q r.index t)) ∧
      (x.lastWm ≤ w → RunsTo (.waymarkClose q meas) s (fun t => t.getF F.ENG_STEP_LAST_LAST_CLOSED 0 = w % 2 ^ 32 ∧ closed s.stepFailed t ∧ done q r.index t))) ∧
    (∀ (q : Fin 64) r, s.startedRec 0 q [opMarkerWrite] = some r →
      (∀ f, s.refField (RawRec.opd r.raw 48 4) = some f → (s.fieldSt f).lost = false → (s.fieldSt f).resetting = false →
        RunsTo (.markerWrite q) s (fun t => ∃ op : MarkOp, (t.fieldSt f).mops = (s.fieldSt f).mops ++ [op] ∧ op.write = true ∧
          op.marker = refMarker (RawRec.opd r.raw 48 4) ∧ op.amount = BitVec.ofNat 32 (RawRec.opd r.raw 52 4) ∧
          op.donor = some (0, q.val, r.index))) ∧
      (s.refField (RawRec.opd r.raw 48 4) = none → RunsTo (.markerWrite q) s (done q r.index))) ∧
    (∀ (q : Fin 64) r, s.startedRec 0 q [opMilepostCopy] = some r → RunsTo (.milepostCopy q) s (done q r.index)) ∧
    (∀ x, s.step = some x →
      (x.phase = .running → x.mayRerun = true → RunsTo .stepRerun s (fun t => ∃ y, t.step = some y ∧ y.phase = .rerunning)) ∧
      (x.phase = .rerunning → x.aborted = false → x.final = false → s.stepBusy x = [] → s.recovering = false → s.rerouteFields.all (fun f => s.quiet f) = true →
        RunsTo .stepRewind s (fun t => opens x.mask x.firstWm t ∧
          t.step = some { x with phase := .running, made := x.made + 1, fail := none, lastFail := x.fail, rebound := false, stopped := [] } ∧
          t.getF F.ENG_STEP_ATTEMPT 0 = min 15 (s.getF F.ENG_STEP_ATTEMPT 0 + 1))) ∧
      (x.queue < 64 → x.phase = .ending ∨ x.mustEnd = true →
        let u := if x.phase = .ending then s else ({ s with step := some { x with phase := .ending } }).cancelStep x
        ((u.stepBusy x).all (fun r => r.2.2.isClose) = true → RunsTo .stepEnd s (closed (some (x.firstWm, x.lastWm)))) ∧
        ((u.stepBusy x).all (fun r => r.2.2.isClose) = false →
          RunsTo .stepEnd s (fun t => ∃ y, t.step = some y ∧ y.phase = .ending)))) ∧
    (∀ fw v, wbits v 0 0 = 1 → s.writeCode fw ⟨.ENG, 0⟩ 0x0A0 true v false false = 0 → RunsTo (.stepAbort fw v) s (fun t =>
      t.step = s.step.map (fun x => if x.phase = .ending then x else { x with aborted := true })))

/-- R469 on descriptors, R470 on the way, R471 and R472 on SIGNAL and CIDs, R473 and R474 on answers and ends, R475 on cancelling. -/
def Obligations.ExchangesStartSendRetryAndEnd : Prop :=
  ∀ (p : Fin 2) (s : State),
    let done (q index : Nat) (t : State) : Prop := ∀ z ∈ (t.queue (5 + p.val) q).recs, z.index = index → z.stage = .done
    let runs (q index : Nat) (t : State) : Prop := ∀ z ∈ (t.queue (5 + p.val) q).recs, z.index = index → z.stage = .running
    let starts (c : Instr) (opcode op : Nat) : Prop :=
      ∀ q r, s.findStarted (5 + p.val) [opcode] = some (q, r) →
        let x := exchOf p q r op
        let good := badExch r.payload op = false ∧ x.src + x.bytes ≤ s.edgeCapacity p ∧ (s.anyPort p = true ∨ s.exBridged x = true)
        (good → RunsTo c s (fun t => t.exchs = s.exchs ++ [x] ∧ runs q r.index t)) ∧
        (¬ good → RunsTo c s (fun t => t.exchs = s.exchs ∧ done q r.index t))
    let sends (n : Nat) (x : Exch) (t : State) (k : Nat) : Prop :=
      ∃ y, t.exch n = some y ∧ y.next = x.next ∧
        y.out = x.out.map (fun f => if f.k == k then { f with port := s.exPort x, backoff := false } else f)
    starts (.exchAccum p) opExchAccum opAccum ∧
    starts (.exchWrite p) opExchWrite opWrite ∧
    (∀ q r, s.findStarted (5 + p.val) [opExchSignal] = some (q, r) →
      let raw : RawRec := r.raw
      (s.anyPort p = true → RunsTo (.exchSignal p) s (fun t => runs q r.index t ∧ ∃ x, t.exchs = s.exchs ++ [x] ∧
        x.op = opSignal ∧ x.dest = raw.opd 48 4 ∧ x.remote = raw.opd 56 8 ∧ x.body = leBytes 8 (raw.opd 52 4) ∧ x.total = 1 ∧
        x.cid = (if raw.wm = 0 then derivedCid 1 (look (fun _ => 0) s.sigCount p) p q r.index else derivedCid 0 raw.wm p q r.index))) ∧
      (s.anyPort p = false → RunsTo (.exchSignal p) s (fun t => t.exchs = s.exchs ∧ done q r.index t))) ∧
    (∀ q r, s.findStarted (5 + p.val) [opExchCancel] = some (q, r) →
      RunsTo (.exchCancel p) s (fun t => done q r.index t ∧
        t.exchs = s.exchs.filter (fun x => !x.matches' p (RawRec.opd r.raw 48 1 % 4) (RawRec.opd r.raw 56 8)))) ∧
    (∀ n x, s.exch n = some x → s.exBridged x = false →
      let len := min x.frameBytes (x.bytes - x.next * x.frameBytes)
      let e := s.edgeRead x.plane (x.src + x.next * x.frameBytes) len .exchange
      let payload := if x.op ≤ 1 then e.2.1 else x.body
      let retain := if s.getF F.ENG_STEP_OPEN 0 = 1 then s.getF F.ENG_STEP_FIRST_WM 0 else s.getF F.ENG_STEP_LAST_LAST_CLOSED 0 + 1
      (x.next < x.total → x.out.length < x.window → (s.exPort x).isSome = true → s.node ≠ 0 →
        (x.op ≤ 1 → e.2.2 = false) → RunsTo (.exchangeFrameSend n) s (fun t => ∃ y, t.exch n = some y ∧ y.next = x.next + 1 ∧
          y.out.map (fun f => (f.k, f.frame)) =
            x.out.map (fun f => (f.k, f.frame)) ++ [(x.next, s.exFrame x x.next payload retain)])) ∧
      (x.next < x.total → x.out.length < x.window → (s.exPort x).isSome = true → s.node ≠ 0 → x.op ≤ 1 → e.2.2 = true →
        RunsTo (.exchangeFrameSend n) s (fun t => t.exchs = s.exchs.eraseIdx n)) ∧
      (∀ k f, x.out.find? (fun f => f.k == k) = some f →
        (f.backoff = false → RunsTo (.ackTimeout n k false) s (fun t => sends n x t k)) ∧
        (f.backoff = true → RunsTo (.busyBackoff n k) s (fun t => sends n x t k) ∧ RunsTo (.ackTimeout n k false) s (· = s)))) ∧
    (∀ n x k f, s.exch n = some x → x.out.find? (fun f => f.k == k) = some f →
      RunsTo (.ackTimeout n k true) s (fun t => t.exchs = s.exchs.eraseIdx n))

/-- R421, R422 and R424 on the marker unit, R426, R427 and R440 on watches, R432, R434 and R435 on completion, R437 and R439 on the watchdog. -/
def Obligations.MarkersWatchesAndBarriersComplete : Prop :=
  ∀ (s : State),
    (∀ (f : FieldAddr), (s.fieldSt f).lost = false → (s.fieldSt f).resetting = false → s.inLayby f = false →
      RunsTo (.markerUpdate f) s (fun t => ∀ m, ((t.fieldSt f).marker m).value =
        (sortOps (s.fieldSt f).mops).foldl (fun v (op : MarkOp) => if op.marker = m then
          (if op.write = true then op.amount else BitVec.ofNat 32 (min (2 ^ 32 - 1) (v.toNat + op.amount.toNat))) else v)
          ((s.fieldSt f).marker m).value)) ∧
    (∀ (a : TileAddr) (task : Fin 4) w, ((s.tile a).task task).watch = some w →
      (s.tileRuns a = true → w.satisfied = true → (s.tile a).cqRoom w.cq = true →
        RunsTo (.watchDelivery a task) s (fun t => ((t.tile a).task task).watch = none ∧ (∀ b, b ≠ a → t.tile b = s.tile b) ∧
          (t.tile a).cqOf w.cq = (s.tile a).cqOf w.cq ++ [{ kind := 7, value := w.token, epoch := (s.tile a).epoch }] ∧
          t.getC C.MRK_WATCHES_FIRED a.fld.inst = min (2 ^ 48 - 1) (s.getC C.MRK_WATCHES_FIRED a.fld.inst + 1))) ∧
      (w.satisfied = false → (s.fieldSt a.fld).lost = false → (s.fieldSt a.fld).resetting = false →
        RunsTo (.watchTimeout a task) s (fun t => ((t.tile a).task task).watch = none ∧ (∀ b, b ≠ a → t.tile b = s.tile b) ∧
          (t.tile a).cq = (s.tile a).cq ∧
          t.getC C.MRK_TIMEOUTS a.fld.inst = min (2 ^ 48 - 1) (s.getC C.MRK_TIMEOUTS a.fld.inst + 1)))) ∧
    (∀ (p : Fin 2) (ch : Fin 16),
      (s.canComplete p ch = true → RunsTo (.barrierComplete p ch) s (fun t =>
        t.getF (F.MLW_CH_GEN ch) p = (s.getF (F.MLW_CH_GEN ch) p + 1) % 65536 ∧ t.getF (F.MLW_CH_STATE ch) p = 0 ∧
        t.getC C.MLW_COMPLETIONS p = min (2 ^ 48 - 1) (s.getC C.MLW_COMPLETIONS p + 1) ∧
        (s.chEngine p ch = false → ∀ e ∈ s.liveTiles, e.1.fld.plane = p → e.2.barLatch.getLsbD ch = true →
          (t.tile e.1).barLatch.getLsbD ch = false))) ∧
      (s.getF (F.MLW_CH_STATE ch) p = 1 → s.canComplete p ch = false → RunsTo (.barrierWatchdog p ch) s (fun t =>
        t.getF (F.MLW_CH_STATE ch) p = 2 ∧ t.getC C.MLW_TIMEOUTS p = min (2 ^ 48 - 1) (s.getC C.MLW_TIMEOUTS p + 1) ∧
        (s.getF F.MLW_TO_FIRST_VALID p = 0 → t.reg ⟨.MLW, p⟩ 0x090 = s.arrMask p ch))))

/-- R357 on responses, R459 on the checks, R460 on deduplication, R461 on answers, R470 on the bridge, R473 on answers to exchanges, R480 on TAINT, R495 on the causeway. -/
def Obligations.FramesArePerformedAnsweredOrRefused : Prop :=
  ∀ (l : Fin 72) (tag : W64) (b : List Byte) (s : State), (s.recvFrame l tag b).2 = .accepted →
    let f := Frame.ofBytes b
    let p : Fin 2 := if l.val < 64 then (if l.val < 32 then 0 else 1) else (match s.importing with | some m => m.plane | none => 0)
    let w := s.frameWm f.wm
    let inside (q : Fin 2) : Prop := s.getF F.VLX_INWIN_SIZE_SIZE q ≠ 0 ∧ s.getF F.VLX_INWIN_BASE_BASE q ≤ f.addr ∧
      f.addr + f.len ≤ s.getF F.VLX_INWIN_BASE_BASE q + s.getF F.VLX_INWIN_SIZE_SIZE q
    let tested (q : Fin 2) : Dedup := (s.dedup q (nodeOf f.src) f.cid).1
    (s.frameRow b = 0 → ∀ q : Fin 2, epOf f.dest = epEdge q → (q = p ∨ s.bridgeUp = true) →
      (¬ inside q → RunsTo (.writeFrame l tag b) s (fun t => CountsWm C.VLX_REFUSED_RX q w s t ∧ t.edge = s.edge)) ∧
      (inside q → tested q = .perform → RunsTo (.writeFrame l tag b) s (fun t =>
        CountsWm C.VLX_FRAMES_RX q w s t ∧ EdgeStored q f.addr f.payload s t)) ∧
      (inside q → tested q = .duplicate → RunsTo (.writeFrame l tag b) s (fun t => CountsWm C.VLX_DUP_RX q w s t ∧ t.edge = s.edge)) ∧
      (inside q → tested q = .stale → RunsTo (.writeFrame l tag b) s (fun t => CountsWm C.VLX_STALE_RX q w s t ∧ t.edge = s.edge))) ∧
    (s.frameRow b = 0 → epOf f.dest = epCauseway →
      (s.importing = none → RunsTo (.writeFrame l tag b) s (fun t => CountsWm C.VLX_REFUSED_RX p w s t ∧ t.edge = s.edge)) ∧
      (∀ m, s.importing = some m → m.node = nodeOf f.src → f.addr + f.len ≤ m.size → (m.win.test f.cid).1 = .perform →
        RunsTo (.writeFrame l tag b) s (fun t => EdgeStored m.plane (m.base + f.addr) f.payload s t ∧
          t.importing = some { m with win := (m.win.test f.cid).2 }))) ∧
    (s.frameRow b = 1 →
      let ref := f.addr % 2 ^ 32
      let q := refPlane ref
      f.len = 8 → leAt f.payload 4 4 = 0 → refEn ref = true → natBits 30 19 ref = 0 → natBits 47 32 f.addr = 0 → refSlot ref ≤ 55 →
      (q = p ∨ s.bridgeUp = true) → ∀ a, s.refField ref = some a →
      (tested q = .perform → leAt f.payload 0 4 ≠ 0 → (s.fieldSt a).lost = false → (s.fieldSt a).resetting = false →
        RunsTo (.signalFrame l tag b) s (fun t => ∃ op : MarkOp, (t.fieldSt a).mops = (s.fieldSt a).mops ++ [op] ∧
          op.write = false ∧ op.marker = refMarker ref ∧ op.amount = BitVec.ofNat 32 (leAt f.payload 0 4))) ∧
      (tested q = .duplicate → RunsTo (.signalFrame l tag b) s (fun t => CountsWm C.VLX_DUP_RX q w s t ∧ t.fields = s.fields))) ∧
    (s.frameRow b = 2 →
      (f.len = 32 → tested p = .perform → RunsTo (.taintFrame l tag b) s (fun t =>
        t.taintNamed = s.taintNamed ++ [leAt f.payload 0 4] ∧
        t.reg ⟨.VLX, p⟩ 0x0F0 = BitVec.ofNat 64 (leAt f.payload 0 4 + leAt f.payload 4 1 <<< 32 + nodeOf f.src <<< 40))) ∧
      (f.len ≠ 32 → RunsTo (.taintFrame l tag b) s (fun t => CountsWm C.VLX_REFUSED_RX p w s t ∧ t.taintNamed = s.taintNamed))) ∧
    (s.frameRow b = 3 → ∀ q : Fin 2, epOf f.dest = epEdge q →
      let k := ctxKey q (natBits 19 0 f.cid)
      let c := s.ctx k
      (natBits 28 28 f.cid ≠ q.val → RunsTo (.readresp l tag b) s (fun t => CountsWm C.SEN_BAD_RESPONSES q f.wm s t ∧ t.ctxs = s.ctxs)) ∧
      (natBits 28 28 f.cid = q.val → c.live = true → c.gen.toNat = natBits 27 20 f.cid → c.state ≠ .ending →
        c.bad.find? (fun e => e.1 == c.done) = none →
        ∀ r, c.reqs.find? (fun r => r.server && r.seq == natBits 63 29 f.cid) = some r →
          r.addr = f.addr → r.len = f.len → RunsTo (.readresp l tag b) s (fun t => ∃ d,
            t.ctx k = { c with
              data := placeBytes r.chunk c.data (((List.range f.len).map (fun i => (f.addr + i, f.payload.getD i 0))).filter
                (fun e => (c.d.needs r.chunk).contains e.1)), reqs := c.reqs.filter (· != r), dry := d }))) ∧
    (s.frameRow b = 4 → ∀ q : Fin 2, epOf f.dest = epEdge q →
      let mine (x : Exch) : Option ExFrame := if x.plane == q then x.out.find? (fun e => e.frame.dest == f.src && e.frame.cid == f.cid)
        else none
      (s.exchs.findIdx? (fun x => (mine x).isSome) = none → RunsTo (.frameAnswer l tag b) s (fun t =>
        CountsWm C.VLX_LATE_ACKS q w s t ∧ t.exchs = s.exchs)) ∧
      (∀ n x e, s.exchs.findIdx? (fun x => (mine x).isSome) = some n → s.exch n = some x → mine x = some e →
        (f.status ≤ 1 → RunsTo (.frameAnswer l tag b) s (fun t =>
          if (x.out.filter (fun g => g.k != e.k)).isEmpty = true ∧ x.next = x.total then t.exchs = s.exchs.eraseIdx n
          else ∃ y, t.exch n = some y ∧ y.out = x.out.filter (fun g => g.k != e.k))) ∧
        (2 ≤ f.status → f.status ≤ 6 → RunsTo (.frameAnswer l tag b) s (fun t => t.exchs = s.exchs.eraseIdx n)) ∧
        (f.status = 7 ∨ f.status = 8 → RunsTo (.frameAnswer l tag b) s (fun t =>
          ∃ y, t.exch n = some y ∧ y.out = x.out.map (fun g => if g.k == e.k then { g with backoff := true } else g))))) ∧
    (s.frameRow b = 5 → RunsTo (.unacceptedFrame l tag b) s (fun t => CountsWm C.VLX_REFUSED_RX p w s t ∧ t.edge = s.edge ∧
      t.exchs = s.exchs ∧ t.fields = s.fields))

/-- R462 and R463 on tags and replay, R464 to R466 on retry, degrading and failing, R467 on calibration, R486 on port control, R490 on bridge links. -/
def Obligations.LinksReplayRetryDegradeAndFail : Prop :=
  ∀ (s : State),
    let state (t : State) (l : Nat) : Nat := t.getF F.VPT_STATE_STATE l
    let lost (t : State) (l : Nat) : Nat := t.getF F.VPT_STATE_FAILED_LANES l
    let replays (l : Nat) (t : State) : Prop :=
      t.wire = s.wire ++ (s.vlink l).buf.map (fun e => (l, (s.vlink l).tag e.1 false true, e.2)) ∧ (t.vlink l).buf = (s.vlink l).buf
    let out (n groups : Nat) (t : State) : Prop := t.getF F.BRG_LINKS_GROUPS 0 =
      s.getF F.BRG_LINKS_GROUPS 0 - (((List.range 4).filter (fun i =>
        (natBits (4 * n + 3) (4 * n) (s.getF F.BRG_LINKS_GROUPS 0)).testBit i && groups.testBit i)).map (fun i => 2 ^ (4 * n + i))).sum
    (∀ (l : Fin 72) tag corr uncorr, s.linkUp l = true →
      RunsTo (.linkControlWord l true tag corr uncorr) s (fun t => t.links = s.links ∧
        t.wire = s.wire ++ [(l.val, (s.vlink l).tag 0 false false, [])]) ∧
      (tagGood tag = false → RunsTo (.linkControlWord l false tag corr uncorr) s (fun t => (t.vlink l).nak = true ∧
        t.wire = s.wire ++ (if (s.vlink l).nak = true then [] else [(l.val, (s.vlink l).tag 0 true false, [])]))) ∧
      (tagGood tag = true → wbits tag 26 26 = 0 → wbits tag 25 25 = 1 → wbits tag 24 24 = 0 →
        RunsTo (.linkControlWord l false tag corr uncorr) s (replays l)) ∧
      (tagGood tag = true → wbits tag 26 26 = 0 → wbits tag 25 25 = 0 → wbits tag 24 24 = 1 → (s.vlink l).txq = [] →
        RunsTo (.linkControlWord l false tag corr uncorr) s (fun t => t.wire = s.wire ∧
          (t.vlink l).buf = (if (s.vlink l).buf.any (fun e => e.1 == wbits tag 23 12) = true
            then ((s.vlink l).buf.dropWhile (fun e => e.1 != wbits tag 23 12)).drop 1 else (s.vlink l).buf))) ∧
      RunsTo (.replayTimer l) s (replays l)) ∧
    (∀ (unit : Fin 80) (lanes : BitVec 8) n,
      (64 ≤ unit.val → RunsTo (.laneFailure unit lanes n) s (out (unit.val - 64) lanes.toNat) ∧
        RunsTo (.portFail unit n) s (out (unit.val - 64) 15) ∧
        (s.bridgeTrain.contains (unit.val - 64) = true → RunsTo (.linkTrainingDone unit lanes) s (fun t =>
          t.bridgeTrain = s.bridgeTrain.filter (· != unit.val - 64)))) ∧
      (unit.val < 64 → s.linkUp unit = true → RunsTo (.portFail unit n) s (fun t => state t unit = 6)) ∧
      (unit.val < 64 → s.linkUp unit = true → (s.vlink unit).retry = true →
        (wbits lanes 3 0 ≠ 0 ↔ wbits lanes 7 4 = 0) → state s unit < 4 → RunsTo (.laneFailure unit lanes n) s (fun t =>
          state t unit = state s unit ∧ lost t unit = lost s unit ||| lanes.toNat)) ∧
      (unit.val < 64 → s.linkUp unit = true → (s.vlink unit).retry = true →
        ¬ ((wbits lanes 3 0 ≠ 0 ↔ wbits lanes 7 4 = 0) ∧ state s unit < 4) →
        RunsTo (.laneFailure unit lanes n) s (fun t => state t unit = 6)) ∧
      (unit.val < 64 → state s unit = 1 → RunsTo (.linkTrainingDone unit lanes) s (fun t => (t.vlink unit) = VLink.reset ∧
        lost t unit = 255 - lanes.toNat ∧
        state t unit = (if lanes = 255 then 2 else if wbits lanes 3 0 = 15 then 4 else if wbits lanes 7 4 = 15 then 5 else 6)))) ∧
    (∀ (l : Fin 64),
      (state s l = 2 ∨ state s l = 3 → lost s l ≠ 0 → RunsTo (.portDegrade l) s (fun t =>
        state t l = (if lost s l % 16 = 0 then 4 else 5) ∧ (t.vlink l).buf = (s.vlink l).buf)) ∧
      (s.getF F.VLX_CTL_CAL_EN (l.val / 32) = 1 → state s l = 2 → (s.vlink l).retry = false →
        RunsTo (.laneCalibration l) s (fun t => state t l = 3 ∧
          t.getF F.VPT_STATE_CAL_LANE l = (s.getF F.VPT_STATE_CAL_LANE l + 1) % 8)) ∧
      (state s l = 3 → RunsTo (.calibrationEnd l) s (fun t => state t l = 2)) ∧
      (∀ fw v, wbits v 1 1 = 0 → wbits v 0 0 = 1 → s.writeCode fw ⟨.VPT, l⟩ 0x080 true v false false = 0 →
        RunsTo (.portDisable l fw v) s (fun t => state t l = 7)) ∧
      (∀ fw v, wbits v 1 1 = 1 → wbits v 0 0 = 0 → s.getF F.VPT_CTL_DISABLE l = 0 →
        s.writeCode fw ⟨.VPT, l⟩ 0x080 true v false false = 0 → RunsTo (.portRetrain l fw v) s (fun t => state t l = 1)))

/-- R492 on re-injection, R493 on the sideband (that a root is taken only for a channel of equal generation in both planes is the model's, log entry 31), R495, R496, R499 and R500 on the causeway, R497 on RETRAIN. -/
def Obligations.BridgeAndCausewayCommandsWork : Prop :=
  ∀ (s : State),
    let busy (t : State) : Nat := t.getF F.CWY_CMD_BUSY 0
    let ends (r : Nat) (t : State) : Prop := busy t = 0 ∧ t.getF F.CWY_CMD_RESULT 0 = r ∧ t.importing = none
    let arg (n : Nat) : Nat := s.getF (F.CWY_ARG_V n) 0
    let accepted (fw : Bool) (v : W64) (op : Nat) : Prop := wbits v 19 19 = 1 ∧ wbits v 2 0 = op ∧
      s.writeCode fw ⟨.CWY, 0⟩ 0x080 true v (s.cwyBad v) (busy s == 1) = 0
    (∀ n f, s.bridgeRx[n]? = some f →
      (s.bridgeRx.take n).any (fun g => g.plane == f.plane && g.router == f.router) = false →
      ((s.ae f.plane).span = false ∨ (s.passState f.plane ≠ 3 ∧ s.passState f.plane ≠ 4) ∨ s.passWm f.plane ≠ f.wm →
        RunsTo (.bridgeReinject n) s (fun t =>
          t.bridgeRx = s.bridgeRx.eraseIdx n ∧ t.tiles = s.tiles ∧ Counts C.BRG_CROSS_REFUSED 0 1 s t)) ∧
      (∀ a pkt dest, (s.ae f.plane).span = true → s.passState f.plane = 3 ∨ s.passState f.plane = 4 → s.passWm f.plane = f.wm →
        tileAt f.plane f.router.1 f.router.2 = some a → s.bridgedPacket a f = some (pkt, dest) →
        (s.fieldHeld dest = true → RunsTo (.bridgeReinject n) s (fun t => t = s)) ∧
        (s.fieldHeld dest = false → (s.tile a).bufRoom 0 0 = true → RunsTo (.bridgeReinject n) s (fun t =>
          t.bridgeRx = s.bridgeRx.eraseIdx n ∧ t.tile a = (s.tile a).setBuf 0 pkt.cls ((s.tile a).bufOf 0 pkt.cls ++ [pkt]) ∧
          Counts C.BRG_CROSSED 0 1 s t)))) ∧
    (∀ p : Fin 2, s.sidebandGood p = true →
      RunsTo (.sidebandWord p) s (fun t => ∀ ch < 16, look (fun _ => false) t.remoteRoot (chKey p ch) =
        (if s.getF (F.MLW_CH_GEN ch) p = s.getF (F.MLW_CH_GEN ch) (otherPlane p)
          then s.chBridged (otherPlane p) ch && s.rootHigh (otherPlane p) ch
          else look (fun _ => false) s.remoteRoot (chKey p ch))) ∧
      RunsTo (.sidebandLost p) s (fun t => t.sidebandGood p = false ∧ (t.ae p).incoming = [] ∧
        (∀ ch, t.remoteHigh p ch = false) ∧ Counts C.BRG_SIDEBAND_LOSSES 0 1 s t)) ∧
    (∀ fw v, wbits v 0 0 = 1 → (∀ p, ¬ (2 ≤ s.passState p ∧ s.passState p ≤ 5)) →
      s.writeCode fw ⟨.BRG, 0⟩ 0x080 true v false false = 0 → RunsTo (.bridgeRetrain fw v) s (fun t =>
        t.bridgeTrain = (s.bridgeTrain ++ (List.range 16).filter (fun n =>
          natBits (4 * n + 3) (4 * n) (s.getF F.BRG_LINKS_GROUPS 0) != 15)).eraseDups ∧
        t.sidebandGood 0 = true ∧ t.sidebandGood 1 = true)) ∧
    (∀ fw v,
      (accepted fw v 0 → RunsTo (.cwyTest fw v) s (fun t => busy t = 1)) ∧
      (accepted fw v 1 → RunsTo (.cwyCrosscheck fw v) s (fun t => busy t = 1)) ∧
      (∀ a b, accepted fw v 2 → cwyField (wbits v 10 3) = some a → cwyField (wbits v 18 11) = some b →
        RunsTo (.cwyMigrate fw v) s (fun t => if s.cwyDead v = true then ends 4 t
          else if s.migrateCode a b = 0 then busy t = 1 else ends (s.migrateCode a b) t)) ∧
      (accepted fw v 3 → RunsTo (.cwyExport fw v) s (fun t => if s.cwyDead v = true then ends 4 t
        else busy t = 1 ∧ t.vlink (64 + (wbits v 18 11 - 128)) = VLink.reset)) ∧
      (accepted fw v 4 → RunsTo (.cwyImport fw v) s (fun t => busy t = 1 ∧
        t.vlink (64 + (wbits v 10 3 - 128)) = VLink.reset ∧
        t.importing = some { node := arg 3, plane := if arg 2 = 0 then 0 else 1, base := arg 0, size := arg 1
                             win := DedupWin.reset }))) ∧
    (∀ link peer differ errors bytes, busy s = 1 →
      let c : Instr := .causewayDone link peer differ errors bytes
      let op := s.getF F.CWY_CMD_OP 0
      (link = true → RunsTo c s (ends 4)) ∧
      (link = false → op = 0 → RunsTo c s (fun t =>
        ends 0 t ∧ Counts C.CWY_BIT_ERRORS 0 errors s t ∧ Counts C.CWY_BYTES 0 bytes s t)) ∧
      (link = false → op = 1 → RunsTo c s (fun t => ends (boolNat differ) t ∧ Counts C.CWY_BYTES 0 bytes s t)) ∧
      (∀ a b, link = false → op = 2 → cwyField (s.getF F.CWY_CMD_PORT_A 0) = some a →
        cwyField (s.getF F.CWY_CMD_PORT_B 0) = some b → RunsTo c s (fun t =>
          ends 0 t ∧ t.tiles = (migrateTiles b (fieldTiles a) s 0).1.tiles)) ∧
      (link = false → op = 3 → RunsTo c s (fun t =>
        let r := exportFrames (64 + (s.getF F.CWY_CMD_PORT_B 0 - 128)) (if arg 2 = 0 then 0 else 1) (arg 3) (arg 0) (arg 1)
          ((arg 1 + 4095) / 4096) 0 s
        ends (if r.2 = false then 4 else if peer = true then 5 else 0) t ∧ t.wire = r.1.wire)) ∧
      (link = false → op = 4 → RunsTo c s (ends (if peer = true then 5 else 0))))

/-- R501 and R505 to R510 on bursts and stacks, R514, R519 and R520 on BAR4, R563 on throttling, R570 on self-refresh. -/
def Obligations.EdgeMemoryStacksWork : Prop :=
  ∀ (s : State) (p : Fin 2),
    let clean (a n : Nat) : Prop := ∀ b ∈ burstsOf a n, s.stackDead p (64 * b) = false ∧ s.burstMark p b = .good
    let at0 (l : List (Nat × Nat)) (k : Nat) : Nat := look (fun _ => 0) l k
    (∀ ctx seq burst r, let k := ctxKey p (ctx % 2 ^ 20)
      let c := s.ctx k
      c.reqs.find? (fun x => !x.server && x.seq == seq) = some r → c.state ≠ .ending → c.bad.find? (fun e => e.1 == c.done) = none →
      (∀ b ∈ r.bursts, clean (64 * b) 64) →
      RunsTo (.edgeMemoryAccess p ctx seq burst 0) s (fun t => (t.ctx k).reqs = c.reqs.filter (· != r) ∧ t.edge = s.edge ∧
        (t.ctx k).data = placeBytes r.chunk c.data ((r.bursts.flatMap (fun b => (List.range 64).map (fun i =>
          (64 * b + i, s.edgeByte p (64 * b + i))))).filter (fun e => (c.d.needs r.chunk).contains e.1)))) ∧
    (∀ stack : Fin 24, s.stackState p stack = 2 →
      let k := stackInst p stack
      let heat (t : State) (i : Nat) : Bool := (at0 t.stackHeat k).testBit i
      RunsTo (.refresh p stack true) s (Counts C.HBM_RFM k 1 s) ∧
      RunsTo (.refresh p stack false) s (fun t => t = s) ∧
      (∀ temp, RunsTo (.hbmTempReadout p stack temp) s (fun t => t.getF F.HBM_STATE_TEMP k = temp.toNat ∧
        (t.getF F.HBM_STATE_HOT k = 1 ↔ 85 < temp.toNat ∨ (s.getF F.HBM_STATE_HOT k = 1 ∧ 82 ≤ temp.toNat)) ∧
        (heat t 0 = true ↔ s.getF F.PWR_THERM_HBM_THROTTLE 0 ≤ temp.toNat ∨
          (heat s 0 = true ∧ s.getF F.PWR_THERM_HBM_THROTTLE 0 < temp.toNat + 3)) ∧
        (heat t 1 = true ↔ 105 ≤ temp.toNat ∨ (heat s 1 = true ∧ 100 ≤ temp.toNat)))) ∧
      RunsTo (.stackFail p stack) s (fun t => t.stackState p stack = 4 ∧
        (s.getF F.FLT_RECOVERY_STATE 0 ≠ 5 → t.getF F.FLT_RECOVERY_STATE 0 = 4))) ∧
    (s.getF F.EMP_CTL_SCRUB_EN p ≠ 0 → s.getF F.EMP_CAPACITY_STACKS p ≠ 0 → at0 s.selfRefresh p = 0 →
      let b := at0 s.scrubAt p
      let next (t : State) : Prop := at0 t.scrubAt p = (if b + 1 < s.planeBursts p then b + 1 else 0) ∧ t.edge = s.edge
      (∀ err, RunsTo (.patrolScrub p err) s next) ∧
      (s.stackDead p (64 * b) = false → RunsTo (.patrolScrub p 2) s (fun t => next t ∧ t.burstMark p b = .poison)) ∧
      (s.stackDead p (64 * b) = false → s.burstMark p b = .good → RunsTo (.patrolScrub p 1) s (fun t =>
        next t ∧ t.burstMark p b = .correctable ∧ t.edgeWb.contains (burstKey p b) = true))) ∧
    (∀ burst, s.edgeWb.contains (burstKey p burst) = true → s.burstMark p burst = .correctable →
      s.stackDead p (64 * burst) = false → RunsTo (.burstWriteback p burst) s (fun t => t.burstMark p burst = .good ∧
        t.edge = s.edge ∧ t.edgeWb = s.edgeWb.filter (· != burstKey p burst))) ∧
    ((∀ f : Fin 60, s.inLayby ⟨p, f⟩ = true ∨ (s.fieldSt ⟨p, f⟩).lost = true) → at0 s.selfRefresh p = 0 →
      RunsTo (.selfRefreshEntry p) s (fun t => at0 t.selfRefresh p = 1)) ∧
    (at0 s.selfRefresh p = 2 → RunsTo (.selfRefreshExit p) s (fun t => at0 t.selfRefresh p = 0)) ∧
    (∀ off bytes len, p.val = s.getF F.HIF_BAR4_WIN_PLANE 0 →
      let addr := 2 ^ 30 * s.getF F.HIF_BAR4_WIN_BASE 0 + off % 2 ^ s.getF F.HIF_BAR4_SIZE_LOG2 0
      (addr + bytes.length ≤ s.edgeCapacity p → RunsTo (.bar4Access off true false bytes len) s (EdgeStored p addr bytes s)) ∧
      (addr + len ≤ s.edgeCapacity p → clean addr len → RunsTo (.bar4Access off false false bytes len) s (fun t =>
        t.hostOut = s.hostOut ++ [.completion (s.edgeBytes p addr len) false] ∧ t.edge = s.edge)) ∧
      (s.edgeCapacity p < addr + len → RunsTo (.bar4Access off false false bytes len) s (fun t =>
        t.hostOut.getLast? = some .unsupported ∧ t.edge = s.edge ∧ Counts C.HIF_BAD_ACCESS 0 1 s t)))

/-- R537 on banks, R571 and R667 on the caps, R564 and R565 on coolant, R572 and R573 on samples and the ceiling, R575 on the limiter. -/
def Obligations.InputPowerCapCoolantAndLimiterAct : Prop :=
  ∀ (s : State), s.dark = 0 →
    let cap (t : State) : Nat := t.getF F.PWR_CAP_EFFECTIVE 0
    let lowest (t : State) : Prop :=
      cap t = min s.coolCap (min (t.getF F.PWR_CAP_RACK_CAP 0) (t.getF F.PWR_CAP_HOST_CAP 0))
    let shows (b : Fin 2) (t : State) : Nat := t.getF (if b = 0 then F.PWR_IN_A_STATE else F.PWR_IN_B_STATE) 0
    (∀ b : Fin 2,
      (s.bankIn b = true → RunsTo (.bankOffline b) s (fun t =>
        t.bankIn b = false ∧ shows b t = 1 ∧ Counts C.PWR_BANK_DROPS 0 1 s t)) ∧
      (s.bankIn b = false → RunsTo (.bankReturn b) s (fun t =>
        t.bankIn b = true ∧ shows b t = 0 ∧ Counts C.PWR_BANK_DROPS 0 1 s t))) ∧
    (∀ fw v, s.capCode fw v = 0 → RunsTo (.pwrCapWrite fw v) s (fun t => t.getF F.PWR_CAP_HOST_CAP 0 = wbits v 31 16 ∧
      t.getF F.PWR_CAP_RACK_CAP 0 = s.getF F.PWR_CAP_RACK_CAP 0 ∧ lowest t)) ∧
    (s.mgmtUp = true → ∀ watts,
      RunsTo (.powercapSet false watts) s (fun t => t = s.answer 403 []) ∧
      (watts < 12000 ∨ 38000 < watts → RunsTo (.powercapSet true watts) s (fun t => t = s.answer 400 [])) ∧
      (12000 ≤ watts → watts ≤ 38000 → RunsTo (.powercapSet true watts) s (fun t =>
        t.getF F.PWR_CAP_RACK_CAP 0 = watts ∧ t.getF F.PWR_CAP_HOST_CAP 0 = s.getF F.PWR_CAP_HOST_CAP 0 ∧ lowest t))) ∧
    (∀ inlet outlet flow leak, inlet < 1024 → outlet < 1024 → flow < 4096 →
      let low := if flow < 450 then min 50 (s.coolLow + 1) else 0
      let st := coolState inlet flow low leak
      RunsTo (.coolantSample inlet outlet flow leak) s (fun t => t.coolLow = low ∧
        t.reg ⟨.PWR, 0⟩ 0x0B0 = BitVec.ofNat 64 (inlet + outlet <<< 10 + flow <<< 20 + boolNat leak <<< 32 + st <<< 33) ∧
        t.coolCap = (if st = 2 then derateCap inlet flow else if st = 3 then s.coolCap else 38000) ∧
        (st ≠ s.getF F.PWR_COOL_STATE 0 → Counts C.PWR_COOL_EVENTS 0 1 s t ∧
          (st = 3 → t.sleeping = true ∧ t.coolWait = 600)))) ∧
    (∀ watts va ia vb ib rails unlimited, RunsTo (.powerSample watts va ia vb ib rails unlimited) s (fun t =>
      t.getF F.PWR_IN_P_WATTS 0 = watts % 2 ^ 32 ∧
      t.ceil = (if cap s < watts then (lowerCeils (max 1 ((watts - cap s + 599) / 600)) s.ceil).1
        else if watts + 1500 ≤ cap s ∧ s.capBelow = 9 then raiseCeil s.ceil else s.ceil) ∧
      t.capBelow = (if watts + 1500 ≤ cap s ∧ s.capBelow ≠ 9 then s.capBelow + 1 else 0))) ∧
    (s.getF F.PWR_CEIL_LIMITER 0 = 0 → RunsTo .limiterEngage s (fun t =>
      t.getF F.PWR_CEIL_LIMITER 0 = 1 ∧ t.limQuiet = 0 ∧ Counts C.PWR_LIMITER_EVENTS 0 1 s t))

/-- R541 to R547 on supply levels, field resets and lost fields, R549 to R551 on clocks, R555 on ageing, R609 on a module failure. -/
def Obligations.FieldsWarnResetRecoverAndAreLost : Prop :=
  ∀ (s : State) (f : FieldAddr),
    let x := s.fieldSt f
    let i := f.inst
    let lost (t : State) : Prop := (t.fieldSt f).lost = true ∧ (t.fieldSt f).resetting = false ∧ (t.fieldSt f).retired ≠ 0 ∧
      Counts C.PWR_FIELDS_LOST 0 1 s t ∧ t.tiles = s.tiles
    (x.lost = false →
      RunsTo (.overcurrentTrip f) s lost ∧
      (x.resetting = true → RunsTo (.noRecover f) s lost) ∧
      (x.resetting = true → RunsTo (.fieldResetRecovery f) s (fun t =>
        t.fieldSt f = x.afterReset (s.slotOfField f).isSome ∧
        ∀ a, t.tile a = (if a.fld = f then { Tile.reset with epoch := x.epoch } else s.tile a))) ∧
      (∀ block unit lanes n pct third, x.stopped.getLsbD block.val = true → x.lockFail = true →
        RunsTo (.relockTimeout 0 f block unit lanes n pct third) s lost)) ∧
    (x.lost = false → x.resetting = false →
      (∀ pct, x.warned = false → RunsTo (.supplyWarn f pct) s (fun t => (t.fieldSt f).warned = true ∧
        Counts C.FPW_SUP_WARNS i 1 s t ∧ t.getF F.FPW_STATE_STRETCH i = max (s.getF F.PWR_CEIL_STRETCH 0) 1 ∧
        (s.fldWm f.plane ≠ 0 → t.getF F.FPW_SUSPECT_WAYMARK i = (s.fldWm f.plane).toNat ∧ t.getF F.FPW_SUSPECT_PENDING i = 1))) ∧
      (x.warned = true → RunsTo (.supplyRecover f) s (fun t => t.fieldSt f = { x with warned := false } ∧
        Changes [.page .FPW, .fields] s t)) ∧
      (∀ pct, RunsTo (.fieldReset f pct false) s (fun t =>
          (t.fieldSt f).resetting = true ∧ Counts C.PWR_FIELD_RESETS 0 1 s t ∧ t.tiles = s.tiles) ∧
        RunsTo (.fieldReset f pct true) s (fun t => (t.fieldSt f).lost = true ∧ (t.fieldSt f).retired ≠ 0 ∧
          Counts C.PWR_FIELD_RESETS 0 1 s t ∧ t.tiles = s.tiles)) ∧
      (∀ block unit lanes n pct, x.stopped.getLsbD block.val = true → x.lockFail = false →
        RunsTo (.relockTimeout 0 f block unit lanes n pct false) s (fun t =>
          (t.fieldSt f).resetting = true ∧ (t.fieldSt f).lockFail = true)) ∧
      (∀ (block : Fin 12) age, RunsTo (.ageingRead f block age) s (fun t =>
        t.getF (F.FPW_ISL_AGE block) i = min age 15 ∧
        (s.islandMax f (s.islandCode f block) (min age 15) 800 < 0 → (t.fieldSt f).retired ≠ 0)))) ∧
    (∀ block : Fin 12,
      RunsTo (.lockLoss 0 f block) s (fun t =>
        t.fieldSt f = { x with stopped := x.stopped ||| BitVec.ofNat 12 (2 ^ block.val) }) ∧
      (x.stopped.getLsbD block.val = true → RunsTo (.clockRelock 0 f block) s (fun t => t.fieldSt f =
        { x with stopped := x.stopped &&& ~~~BitVec.ofNat 12 (2 ^ block.val), lockFail := false })) ∧
      (∀ domain : Fin 18, domain ≠ 0 →
        (s.stoppedClk.contains (domain.val + 1) = false → RunsTo (.lockLoss domain f block) s (fun t =>
          t.stoppedClk = s.stoppedClk ++ [domain.val + 1])) ∧
        RunsTo (.clockRelock domain f block) s (fun t => t.stoppedClk = s.stoppedClk.filter (· != domain.val + 1)) ∧
        (∀ unit lanes n pct third, s.stoppedClk.contains (domain.val + 1) = true →
          ((domain = 5 ∨ domain = 7) → 64 ≤ unit.val → RunsTo (.relockTimeout domain f block unit lanes n pct third) s (fun t =>
            t = State.groupsOut { s with stoppedClk := s.stoppedClk.filter (· != domain.val + 1) } (unit.val - 64) lanes.toNat n)) ∧
          (domain ≠ 5 → domain ≠ 7 → RunsTo (.relockTimeout domain f block unit lanes n pct third) s (fun t =>
            t.getF F.FLT_RECOVERY_STATE 0 = 5))))) ∧
    (s.refLost = false → RunsTo .refFailover s (fun t => t.refLost = true ∧ Changes [.refLost, .records] s t))

/-- R560, R561 and R566 to R568 on layby and parking, R587 on FPW.CMD. -/
def Obligations.FieldsEnterAndLeaveLaybyAndParking : Prop :=
  ∀ (s : State) (f : FieldAddr),
    let i := f.inst
    let power (t : State) : Nat := t.getF F.FPW_STATE_POWER i
    let busy (t : State) : Nat := t.getF F.FPW_CMD_BUSY i
    let ends (r : Nat) (t : State) : Prop := busy t = 0 ∧ t.getF F.FPW_CMD_RESULT i = r
    let others (t : State) : Prop := ∀ a, a.fld ≠ f → t.tile a = s.tile a
    let off (t : State) : Prop := ∀ a g, a.fld = f → g < 8 → ((t.tile a).seg g).state ≠ .active
    let whole : Prop := (s.fieldSt f).lost = false ∧ (s.fieldSt f).resetting = false
    let accepted (fw : Bool) (v : W64) (op : Nat) : Prop := wbits v 3 3 = 1 ∧ wbits v 2 0 = op ∧
      s.writeCode fw ⟨.FPW, i⟩ 0x080 true v false (busy s == 1) = 0
    (∀ fw v,
      (accepted fw v 0 → RunsTo (.layby f fw v) s (fun t => if s.sleepCode f true = 0
        then busy t = 1 ∧ power t = 1 else ends (s.sleepCode f true) t)) ∧
      (accepted fw v 1 → RunsTo (.wake f fw v) s (fun t => if power s = 2 then busy t = 1 ∧ power t = 3
        else ends (if power s = 0 ∨ power s = 3 then 0 else 1) t)) ∧
      (accepted fw v 2 → RunsTo (.park f fw v) s (fun t => if s.sleepCode f false = 0
        then busy t = 1 else ends (s.sleepCode f false) t)) ∧
      (accepted fw v 3 → RunsTo (.parkRetain f fw v) s (fun t => if s.sleepCode f true = 0
        then busy t = 1 else ends (s.sleepCode f true) t)) ∧
      (accepted fw v 4 → RunsTo (.unpark f fw v) s (fun t => if power s = 4 ∨ power s = 5
        then busy t = 1 else ends 1 t))) ∧
    (power s = 1 → s.fpwBusy f 0 = true → s.segsSettled f = true → (s.fieldSt f).slept = false →
      RunsTo (.laybyDone f) s (fun t => power t = 2 ∧ ends 0 t ∧ off t ∧ others t ∧ Counts C.FPW_LAYBYS i 1 s t)) ∧
    (power s = 0 → s.segsSettled f = true →
      let parked (keep : Bool) (t : State) : Prop := power t = (if keep = true then 5 else 4) ∧ ends 0 t ∧ off t ∧ others t ∧
        t.getF F.FPW_VOLT_VCODE i = s.getF F.FPW_VOLT_PARK_V i ∧ (t.fieldSt f).hot = false ∧ Counts C.FPW_PARKS i 1 s t
      (s.fpwBusy f 3 = true → RunsTo (.parkDone f) s (parked true)) ∧
      (s.fpwBusy f 2 = true → RunsTo (.parkDone f) s (fun t => parked false t ∧ ∀ a, a.fld = f → (t.tile a).near = []))) ∧
    (whole → power s = 3 → RunsTo (.wakeDone f) s (fun t => power t = 0 ∧ ends 0 t ∧ (t.fieldSt f).slept = false)) ∧
    (power s = 4 ∨ power s = 5 →
      (s.fpwBusy f 4 = true → RunsTo (.unparkDone f) s (fun t => power t = 0 ∧ ends 0 t ∧ (t.fieldSt f).slept = false)) ∧
      (whole → busy s = 0 → s.getF F.FPW_STATE_TEMP i + 10 < s.getF F.PWR_THERM_PARK 0 →
        RunsTo (.thermalUnpark f) s (fun t => busy t = 1 ∧ t.tiles = s.tiles)))

/-- R558 to R560 on heat, R566 and R569 on the layby of ports and of the bridge. -/
def Obligations.FieldsActOnHeatAndLinksSleepAndWake : Prop :=
  ∀ s : State,
    let busy (t : State) : Nat := t.getF F.PWR_LAYBY_CMD_BUSY 0
    let ends (r : Nat) (t : State) : Prop := busy t = 0 ∧ t.getF F.PWR_LAYBY_CMD_RESULT 0 = r
    let bridge (t : State) : Nat := t.getF F.PWR_BRIDGE_STATE 0
    let accepted (fw : Bool) (v : W64) (op target : Nat) : Prop := wbits v 8 8 = 1 ∧ wbits v 0 0 = op ∧ wbits v 1 1 = target ∧
      s.writeCode fw ⟨.PWR, 0⟩ 0x0B8 true v (wbits v 1 1 == 1 && wbits v 7 2 != 0) (busy s == 1) = 0
    (∀ f temps, (s.fieldSt f).lost = false → (s.fieldSt f).resetting = false →
      let i := f.inst
      let T : Nat := (List.range 12).foldl (fun m b => max m (temps.getD b 0 % 256)) 0
      RunsTo (.temperatureSample f temps) s (fun t =>
        if s.getF F.PWR_THERM_TRIP 0 ≤ T then (t.fieldSt f).lost = true
        else if s.getF F.PWR_THERM_PARK 0 ≤ T then
          (s.getF F.FPW_STATE_POWER i = 0 → s.passKeeps f.plane = true → t.getF F.FPW_STATE_TEMP i = T ∧ (t.fieldSt f).hot = true)
        else (s.fieldSt f).hot = false → t.getF F.FPW_STATE_TEMP i = T ∧
          (∀ b, b < 12 → t.getF (F.FPW_ISL_TEMP b) i = temps.getD b 0 % 256) ∧ Changes [.page .FPW] s t)) ∧
    (∀ f, s.fieldRuns f = true →
      let c := s.getF F.FPW_STATE_TCEIL f.inst
      (s.getF F.PWR_THERM_THROTTLE 0 ≤ s.getF F.FPW_STATE_TEMP f.inst → RunsTo (.thermalThrottleStep f) s (fun t =>
        if c = 0 then t = s else t.getF F.FPW_STATE_TCEIL f.inst = c - 1 ∧ Counts C.FPW_THERM_STEPS f.inst 1 s t)) ∧
      (s.getF F.FPW_STATE_TEMP f.inst + 3 < s.getF F.PWR_THERM_THROTTLE 0 → RunsTo (.thermalReleaseStep f) s (fun t =>
        t.getF F.FPW_STATE_TCEIL f.inst = if c < 22 then c + 1 else c))) ∧
    (∀ fw v,
      let p := wbits v 7 2
      (accepted fw v 0 0 → RunsTo (.portLayby fw v) s (fun t =>
        if s.portInLayby p = true then ends 0 t
        else if s.linkUp p = false ∨ s.portBusy p = true then ends 1 t
        else ends 0 t ∧ t.portInLayby p = true ∧ t.getF F.VPT_STATE_STATE p = 0)) ∧
      (accepted fw v 1 0 → RunsTo (.portWake fw v) s (fun t => if s.portInLayby p = true then busy t = 1 else ends 0 t)) ∧
      (accepted fw v 0 1 → RunsTo (.bridgeLayby fw v) s (fun t => if s.spanRuns = true then ends 2 t
        else ends 0 t ∧ bridge t = (if bridge s = 0 then 1 else bridge s))) ∧
      (accepted fw v 1 1 → RunsTo (.bridgeWake fw v) s (fun t => if bridge s = 1 then busy t = 1 ∧ bridge t = 2
        else ends 0 t ∧ bridge t = bridge s))) ∧
    (∀ l : Fin 64, s.portInLayby l = true → RunsTo (.portWakeDone l) s (fun t => t.portInLayby l = false ∧ t.getF F.VPT_STATE_STATE l = 1 ∧
      (busy s = 1 → s.getF F.PWR_LAYBY_CMD_TARGET 0 = 0 → s.getF F.PWR_LAYBY_CMD_PORT 0 = l → ends 0 t))) ∧
    (bridge s = 2 → RunsTo .bridgeWakeDone s (fun t => bridge t = 0 ∧ t.bridgeTrain = List.range 16 ∧ t.sleptBridge = false ∧
      (busy s = 1 → s.getF F.PWR_LAYBY_CMD_TARGET 0 = 1 → ends 0 t)))

/-- R54, the CLASS table, row by row: the table is the chain of cases on the right. -/
def Obligations.ClassOfASumFollowsItsTable : Prop :=
  ∀ a b : ExactVal,
    (a.add b).cls = (if a.cls = .nan ∨ b.cls = .nan then .nan
      else if a.cls = .finite then b.cls
      else if b.cls = .finite then a.cls
      else if a.cls = b.cls then a.cls
      else .nan) ∧
    (b.add a).cls = (a.add b).cls

/-- R67 on zero sums: +0 for an exact zero, the sum's sign for a nonzero sum that rounds to zero. -/
def Obligations.ZeroSumsRoundToPlusZero : Prop :=
  ∀ (f : Enc) (rnd : Rnd) (sat : Bool) (r : Nat),
    (∀ a : ExactVal, a.cls = .finite →
      (a.toInt = 0 → (a.round f rnd sat r).1 = 0) ∧
      (a.toInt ≠ 0 → (roundAt rnd r a.toInt.natAbs (-96) (f.ulp a.toInt.natAbs (-96))).1 = 0 →
        (a.round f rnd sat r).1 = f.signBit (decide (a.toInt < 0)))) ∧
    (∀ e e' : Int, (((clampExact true 0 e).add (clampExact true 0 e')).round f rnd sat r).1 = 0)

/-- R71, line by line, in arithmetic on natural numbers modulo 2^64. -/
def Obligations.RandomBitsOfARoundingFollowTheGenerator : Prop :=
  ∀ (tag waymark : W32) (index : BitVec 48),
    let k := (tag.toNat <<< 32) ||| waymark.toNat
    let z0 := (k + (index.toNat + 1) * 0x9E3779B97F4A7C15) % 2 ^ 64
    let z1 := ((z0 ^^^ (z0 >>> 30)) * 0xBF58476D1CE4E5B9) % 2 ^ 64
    let z2 := ((z1 ^^^ (z1 >>> 27)) * 0x94D049BB133111EB) % 2 ^ 64
    let z3 := z2 ^^^ (z2 >>> 31)
    srValue tag waymark index = z3 / 2 ^ 48

/-- R45: the value of an INT8 element, the reading of 0x80, and the clamp of every conversion. -/
def Obligations.Int8ElementsReadAndNeverHoldMinusTwo : Prop :=
  (∀ w : Nat, w < 256 → decodeInt8 w = .fin (decide (128 ≤ w)) (if w < 128 then w else 256 - w) (-6)) ∧
  decodeInt8 0x80 = .fin true 128 (-6) ∧
  (∀ (rnd : Rnd) (r : Nat → Nat) (v : List W32), ∀ e ∈ (quantiseMx .mxInt8 rnd r v).2.1,
    e.1 ≠ 0x80 ∧ ∃ neg m, m ≤ 127 ∧ decodeInt8 e.1 = .fin neg m (-6))

/-- R517 and R520 on bad reads, R521 on PCIe resets, R518 on retries, R523, R665 and R666 on the mailbox. -/
def Obligations.HostResetsHeldDmaAndMailboxAct : Prop :=
  ∀ s : State,
    let held (t : State) : Nat := t.getF F.HIF_DMA_CTL_HELD 0
    (∀ off, RunsTo (.bar0BadRead off) s (fun t => Counts C.HIF_BAD_ACCESS 0 1 s t ∧
      t.hostOut.getLast? = some .unsupported ∧ Changes [.page .HIF, .risen, .ahead, .hostOut, .hostHeld, .fwIrq, .msix] s t)) ∧
    (∀ link, RunsTo (.pcieReset link) s (fun t => held t = 1 ∧ t.getF F.HIF_DMA_CTL_RESET_SEEN 0 = 1 ∧
      t.doe = [] ∧ t.d3hot = false ∧ t.reg ⟨.HIF, 0⟩ 0x080 = BitVec.ofNat 64 (wbits link 9 0) ∧
      Changes [.page .HIF, .risen, .msix, .d3hot, .doe, .hostOut, .hostHeld, .fwIrq] s t)) ∧
    (∀ fw v, s.writeCode fw ⟨.HIF, 0⟩ 0x098 true v false (wbits v 2 1 != 0 && held s == 0) = 0 →
      (wbits v 1 1 = 1 → wbits v 2 2 = 0 → RunsTo (.dmaResume fw v) s (fun t => held t = 0 ∧
        (s.d3hot = false → t.hostOut = s.hostOut ++ s.hostHeld ∧ t.hostHeld = []) ∧
        (s.d3hot = true → t.hostOut = s.hostOut ∧ t.hostHeld = s.hostHeld))) ∧
      (wbits v 2 2 = 1 → wbits v 1 1 = 0 → RunsTo (.dmaDiscard fw v) s (fun t => held t = 0 ∧ t.hostHeld = [] ∧
        t.hostOut = s.hostOut ∧ Counts C.HIF_DMA_DISCARDS 0 s.hostHeld.length s t))) ∧
    (∀ (e : Fin 7) (q : Fin 64) (raw payload : List Byte), s.mayFetch e q = true → (s.queue e q).tries ≠ 0 →
      s.getF (F.ENG_QCFG_LOC q) e = 0 → held s = 0 → RunsTo (.fetchRetry e q raw payload 1) s (fun t =>
        Counts C.HIF_DMA_ERRORS 0 1 s t ∧
        (if (s.queue e q).tries < 3 then t.queue e q = { s.queue e q with tries := (s.queue e q).tries + 1 }
        else t.queue e q = { s.queue e q with failed := true, tries := 0 } ∧
          (s.engineOpen e = false → t.getF (F.ENG_QSTAT_STATE q) e = 4 ∧ t.getF (F.ENG_QSTAT_STOP_CODE q) e = 12)))) ∧
    RunsTo .doeAbort s (fun t => t = { s with doe := [] }) ∧
    (s.dark = 0 →
      (∀ index, RunsTo (.doeDiscovery index) s (fun t => t = { s with doe :=
        (if index = 0 then leBytes 2 1 ++ [0, 1]
         else if index = 1 then leBytes 2 Config.vendorId.toNat ++ [1, 0] else leBytes 2 0xFFFF ++ [0, 0]) })) ∧
      (∀ request busy, leAt request 0 1 = 1 → RunsTo (.getReport request busy) s (fun t =>
        if request.length ≠ 36 ∨ leAt request 1 3 ≠ 0 then t = { s with doe := [0x81, 1, 0, 0] }
        else if busy = true ∨ s.identityUp = false then t = { s with doe := [0x81, 2, 0, 0] }
        else t.doe = [0x81, 0, 0, 0] ++ s.attest (bytesAt request 4 32) ∧ Counts C.SEC_REPORTS 0 1 s t ∧ Changes [.page .SEC, .doe] s t)) ∧
      (∀ request, leAt request 0 1 = 2 →
        let n := leAt request 8 4
        RunsTo (.getCerts request) s (fun t => t = { s with doe :=
          (if request.length ≠ 12 ∨ leAt request 1 3 ≠ 0 ∨ n = 0 ∨ 61440 < n then [0x82, 1, 0, 0]
           else [0x82, 0, 0, 0] ++ leBytes 4 Config.certChain.length ++ (Config.certChain.drop (leAt request 4 4)).take n) })))

/-- R538, R639, R640 and R646 on resets, R641 and R642 on start-up, R647 to R649 on the pins, R653 on self-tests, R656 on activation. -/
def Obligations.ResetsStartUpAndPinsAct : Prop :=
  ∀ s : State,
    let state (t : State) : Nat := t.getF F.SYS_STATE_STATE 0
    let stepOf (t : State) : Nat := t.getF F.SYS_STATE_STEP 0
    let enable (t : State) : Nat := t.getF F.SYS_PINS_ENABLE 0
    let lock (t : State) : Nat := t.getF F.SYS_PINS_INTERLOCK 0
    let emptied (t : State) : Prop := t.tiles = [] ∧ t.fields = [] ∧ t.queues = [] ∧ t.ctxs = [] ∧ t.step = none ∧ t.edge = [] ∧
      t.retained = s.retained ∧ t.flash = s.flash
    let boots (t : State) : Prop := t.getF F.SYS_STATE_BOOTS 0 = (s.getF F.SYS_STATE_BOOTS 0 + 1) % 2 ^ 32
    let reset (t : State) : Prop := emptied t ∧ boots t ∧ state t = 0 ∧ stepOf t = 1 ∧ enable t = enable s
    (s.bankOn = 0 → s.dark ≠ 1 → RunsTo .powerLoss s (fun t => emptied t ∧ t.dark = 1)) ∧
    (s.dark = 0 → ∀ third, RunsTo (.refFailure third) s (fun t => emptied t ∧ t.dark = (if third = true then 3 else 2) ∧
      (third = true → state t = 4 ∧ t.getF F.SYS_STATE_FAIL_CAUSE 0 = 3))) ∧
    (s.bankOn ≠ 0 → s.dark = 1 ∨ s.dark = 2 → ∀ cell, RunsTo (.powerOnReset cell) s (fun t => emptied t ∧ boots t ∧ t.dark = 0 ∧
      t.getF F.SEC_STATE_TAMPER 0 = (if cell = true then min 7 (s.getF F.SEC_STATE_TAMPER 0 + 1) else s.getF F.SEC_STATE_TAMPER 0))) ∧
    (∀ admin fw v, s.mgmtUp = true →
      (admin = true → state s ≠ 3 → RunsTo (.moduleReset true admin fw v) s (fun t => reset t ∧ t.mgmtOut = s.mgmtOut ++ [(200, [])])) ∧
      (admin = false → RunsTo (.moduleReset true admin fw v) s (fun t => t = { s with mgmtOut := s.mgmtOut ++ [(403, [])] }))) ∧
    (∀ admin fw v, s.writeCode fw ⟨.SYS, 0⟩ 0x098 true v (wbits v 15 0 != 0x0A5C) (state s == 3) = 0 → wbits v 16 16 = 1 →
      RunsTo (.moduleReset false admin fw v) s reset) ∧
    (s.dark = 0 → state s ≠ 1 → s.fresh.any (fun e => e.2 == 1) = true → RunsTo .activationTimeout s reset) ∧
    (s.dark = 0 → state s = 0 → ∀ ok tests differ ports bad link secs,
      let runs (P : State → Prop) : Prop := RunsTo (.startupStep ok tests differ ports bad link secs) s P
      (stepOf s = 0 → runs (fun t => if ok = true then stepOf t = 1 else state t = 4 ∧ t.getF F.SYS_STATE_FAIL_CAUSE 0 = 4)) ∧
      (stepOf s = 2 → runs (fun t => if enable s = 1 then stepOf t = 3 else t = s)) ∧
      (stepOf s = 4 → runs (fun t => stepOf t = 5)) ∧
      (stepOf s = 5 → runs (fun t => stepOf t = 6)) ∧
      (stepOf s = 6 → runs (fun t => stepOf t = 7 ∧ state t = 1 ∧ t.getF F.SYS_STATE_START_S 0 = min 65535 secs))) ∧
    (s.Sound → s.dark = 0 →
      RunsTo .rcEnableLow s (fun t => if enable s = 0 then t = s else enable t = 0 ∧ (state s = 1 → t.sleeping = true) ∧
        (state s = 0 → 2 ≤ stepOf s → stepOf t = 2 ∧ emptied t)) ∧
      RunsTo .rcEnableHigh s (fun t => if enable s = 1 then t = s else enable t = 1) ∧
      RunsTo .rcInterlockLow s (fun t => if lock s = 0 then t = s else lock t = 0 ∧
        (state s ≠ 4 → emptied t ∧ state t = 3 ∧
          (s.getF F.SYS_TEST_BUSY 0 = 1 → t.getF F.SYS_TEST_BUSY 0 = 0 ∧ t.getF F.SYS_TEST_RESULT 0 = 3))) ∧
      RunsTo .rcInterlockHigh s (fun t => if lock s = 1 then t = s else lock t = 1 ∧ (state s = 3 → emptied t ∧ boots t ∧ stepOf t = 1)) ∧
      (∀ interlock, RunsTo (.pinGlitch interlock) s (fun t => Counts C.SYS_PIN_GLITCHES 0 1 s t ∧
        t.getF (if interlock = true then F.SYS_PINS_INTERLOCK_GLITCH else F.SYS_PINS_ENABLE_GLITCH) 0 = 1)))

/-- R643 and R645 on the tests, R650 and R651 on requests, R652 on the end, R653 on NOT_READY, R673 and R674 on the registers and counts. -/
def Obligations.SelfTestsAreRefusedHeldRunAndEnd : Prop :=
  ∀ s : State,
    let busy (t : State) : Nat := t.getF F.SYS_TEST_BUSY 0
    let held (t : State) : Nat := t.getF F.SYS_TEST_HELD 0
    let result (t : State) : Nat := t.getF F.SYS_TEST_RESULT 0
    let command (op : Nat) (fw : Bool) (v : W64) : Instr :=
      match op with
      | 0 => .fieldBist fw v
      | 1 => .testCrosscheck fw v
      | 2 => .volinoCal fw v
      | 3 => .bridgeCal fw v
      | _ => .causewayTest fw v
    let blocked (op : Nat) : Bool := (s.testFields op).any (fun f => s.testBlocked f)
    let ended (r : Nat) (t : State) : Prop := busy t = 0 ∧ held t = 0 ∧ result t = r
    let running (op : Nat) (t : State) : Prop := busy t = 1 ∧ held t = 0 ∧ Counts C.SYS_TESTS_RUN 0 1 s t ∧ t.testRef ≠ none ∧
      ∀ f ∈ s.testFields op, ∀ a ∈ fieldTiles f, t.tile a = { s.tile a with near := [], deep := [], ecc := [], wb := [], gather := [] }
    (∀ op, op ≤ 4 → ∀ fw v, wbits v 4 4 = 1 → wbits v 2 0 = op →
      s.writeCode fw ⟨.SYS, 0⟩ 0x0A0 true v (s.testRange op) (busy s == 1) = 0 →
      let runs (P : State → Prop) : Prop := RunsTo (command op fw v) s P
      (s.getF F.SYS_STATE_STATE 0 ≠ 1 → runs (ended 4)) ∧
      (s.getF F.SYS_STATE_STATE 0 = 1 → blocked op = true →
        (wbits v 3 3 = 1 → runs (fun t => ended 2 t ∧ Counts C.SYS_TESTS_BUSY 0 1 s t)) ∧
        (wbits v 3 3 = 0 → runs (fun t => busy t = 1 ∧ held t = 1 ∧ Counts C.SYS_TESTS_HELD 0 1 s t))) ∧
      (s.getF F.SYS_STATE_STATE 0 = 1 → blocked op = false → (op = 4 → s.cwyPowered < 32) → runs (running op))) ∧
    (held s = 1 → blocked (s.getF F.SYS_TEST_OP 0) = false → RunsTo .heldTestStart s (running (s.getF F.SYS_TEST_OP 0))) ∧
    (∀ tests differ fail errors bytes, s.testRef ≠ none → busy s = 1 → s.dark = 0 →
      let op := s.getF F.SYS_TEST_OP 0
      RunsTo (.testComplete tests differ fail errors bytes) s (fun t => busy t = 0 ∧ held t = 0 ∧ t.testRef = none ∧
        (∃ r : ErrRec, r.code = 0x2604 ∧ t.records.getLast? = some r) ∧
        (2 ≤ op → result t = boolNat fail) ∧
        (op = 4 → Counts C.CWY_BIT_ERRORS 0 errors s t ∧ Counts C.CWY_BYTES 0 bytes s t) ∧
        (∀ a ∈ differ, op = 1 → a.fld ∈ s.testedFields → s.tileFenced a = false → result t = 1) ∧
        (op ≤ 1 → tests = [] → differ = [] → result t = 0)))

/-- R655, R658 and R659 on images and operations, R656 and R676 on the reset, R662 to R665 on tamper, debug, seal and reports, R667 to R669 on requests. -/
def Obligations.FirmwareAndManagementRequestsAct : Prop :=
  ∀ s : State,
    let answers (n : Nat) (b : List Byte) (t : State) : Prop := t = { s with mgmtOut := s.mgmtOut ++ [(n, b)] }
    let fuse (n : Nat) (t : State) : Nat := t.getF (F.SEC_STAGE_FUSE_SVN n) 0
    let svn (n : Nat) : Nat := max (fuse n s) (min 64 (FwImage.svn (s.flashBank n (s.activeBank n))))
    let code (op n : Nat) (g : FwImage) (ok fails : Bool) (blown : Nat) : Nat :=
      if op = 0 then FwImage.check g n (fuse n s) ok
      else if op = 1 then (if s.getF (F.SEC_STAGE_STAGED n) 0 = 0 then 6 else 0)
      else if s.getF F.SYS_STATE_STATE 0 ≠ 1 ∨ s.getF (F.SEC_STAGE_PENDING n) 0 = 1 ∨ s.getF F.SEC_STATE_FALLBACK 0 = 1 then 6
      else if fails = true ∧ fuse n s + blown < svn n then 7 else 0
    let acts (op n : Nat) (g : FwImage) (blown r : Nat) (t : State) : Prop := t.getF F.SEC_FW_CMD_BUSY 0 = 0 ∧ t.getF F.SEC_FW_CMD_RESULT 0 = r ∧
      (op = 0 → r = 0 → t.flashBank n (1 - s.activeBank n) = bytesAt g 0 (4096 + FwImage.bodyBytes g) ∧ t.getF (F.SEC_STAGE_STAGED n) 0 = 1) ∧
      (op = 1 → r = 0 → t.getF (F.SEC_STAGE_PENDING n) 0 = 1 ∧ n ∈ t.toActivate) ∧
      (op = 2 → fuse n t = if r = 0 then svn n else if r = 7 then fuse n s + blown else fuse n s)
    (∀ fw v fails blown, wbits v 4 4 = 1 → s.writeCode fw ⟨.SEC, 0⟩ 0x0A8 true v false (s.getF F.SEC_FW_CMD_BUSY 0 == 1) = 0 →
      let n := wbits v 3 2
      (wbits v 1 0 = 0 → RunsTo (.stageImage fw v) s (fun t => ∃ x, let g := (s.setReg ⟨.SEC, 0⟩ 0x0A8 x).fwImage.2
        acts 0 n g.1 0 (code 0 n g.1 g.2 false 0) t)) ∧
      (wbits v 1 0 = 1 → RunsTo (.activateImage fw v) s (acts 1 n [] 0 (code 1 n [] true false 0))) ∧
      (wbits v 1 0 = 2 → RunsTo (.commitImage fw v fails blown) s (acts 2 n [] blown (code 2 n [] true fails blown)))) ∧
    RunsTo .enclosureOpening s (fun t => t.getF F.SEC_STATE_TAMPER 0 = min 7 (s.getF F.SEC_STATE_TAMPER 0 + 1) ∧
      (s.dark = 0 → t.getF F.SEC_STATE_TAMPER_NOW 0 = 1)) ∧
    (∀ fw v, s.writeCode fw ⟨.SEC, 0⟩ 0x0B8 true v (wbits v 31 16 != 0x5EA1) (wbits v 0 0 == 1 && s.getF F.SEC_STATE_DEBUG 0 == 0) = 0 →
      wbits v 0 0 = 1 → RunsTo (.sealFuse false false fw v) s (fun t => t.getF F.SEC_STATE_DEBUG 0 = 2)) ∧
    (s.dark = 0 → RunsTo .debugPortAccess s (fun t => t = if s.debugAccess = 0 then s else { s with debugOut := s.debugOut ++ [s.debugAccess] })) ∧
    (s.mgmtUp = true →
      (∀ op n image fails blown, op ≤ 2 → n ≤ 3 → RunsTo (.updatePush true op n image fails blown) s (fun t =>
        let r := code op n image true fails blown
        acts op n image blown r t ∧ t.mgmtOut.getLast? = some (if r = 0 then 200 else 400, leBytes 1 r))) ∧
      (∀ op n image fails blown, RunsTo (.updatePush false op n image fails blown) s (answers 403 [])) ∧
      (∀ token, RunsTo (.debugUnlock false token) s (answers 403 []) ∧
        (s.getF F.SEC_STATE_DEBUG 0 ≠ 1 → RunsTo (.debugUnlock true token) s (answers 400 []))) ∧
      (s.getF F.SEC_STATE_DEBUG 0 = 1 →
        RunsTo (.debugUnlock true []) s (fun t => ∃ n, t = { s with free := s.free + 1, nonce := some n, mgmtOut := s.mgmtOut ++ [(200, n)] }) ∧
        ∀ token n, token ≠ [] → s.nonce = some n →
          RunsTo (.debugUnlock true token) s (fun t =>
            if Config.mlDsaVerify Config.debugKey (sha3 (s.identityKey ++ n)) token = true then
              t = { s with nonce := none, unlockNext := true, mgmtOut := s.mgmtOut ++ [(200, [])] }
            else answers 400 [] t)) ∧
      (∀ fw v, RunsTo (.sealFuse true false fw v) s (answers 403 []) ∧
        RunsTo (.sealFuse true true fw v) s (fun t => if s.getF F.SEC_STATE_DEBUG 0 = 0 then answers 400 [] t
          else t.getF F.SEC_STATE_DEBUG 0 = 2 ∧ t.mgmtOut = s.mgmtOut ++ [(200, [])])) ∧
      RunsTo (.managerReset false) s (answers 403 []) ∧
      RunsTo (.managerReset true) s (fun t => t.subs = [] ∧ t.measure = s.measure ∧ t.flash = s.flash ∧
        1 ∉ t.toActivate ∧ (1 ∈ s.toActivate → t.getF (F.SEC_STAGE_PENDING 1) 0 = 0)) ∧
      (∀ nonce, RunsTo (.componentIntegrity true nonce) s (answers 200 Config.certChain) ∧
        RunsTo (.componentIntegrity false nonce) s (fun t =>
          if nonce.length = 32 ∧ s.identityUp = true then t.mgmtOut = s.mgmtOut ++ [(200, s.attest nonce)] ∧ Counts C.SEC_REPORTS 0 1 s t
          else answers 400 [] t)) ∧
      (∀ id, (∀ add, RunsTo (.eventSubscription false add id) s (answers 403 [])) ∧
        RunsTo (.eventSubscription true true id) s (fun t =>
          if s.subs.length < 8 ∧ id ∉ s.subs then t = { s with subs := s.subs ++ [id], mgmtOut := s.mgmtOut ++ [(200, [])] }
          else answers 400 [] t) ∧
        RunsTo (.eventSubscription true false id) s (fun t =>
          if id ∈ s.subs then t = { s with subs := s.subs.filter (· != id), mgmtOut := s.mgmtOut ++ [(200, [])] }
          else answers 404 [] t)) ∧
      (∀ m, s.getF F.HIF_LINK_WIDTH 0 ≠ 0 → RunsTo (.pldmRequest m) s (fun t =>
        if pldmTypes.contains (leAt m 1 1 % 64) = true then
          t = { s with free := s.free + 1, mgmtOut := s.mgmtOut ++ [(2, Config.pldmAnswer s.free m)] }
        else answers 2 (leBytes 1 (leAt m 0 1 % 128) ++ bytesAt m 1 2 ++ leBytes 1 0x20) t)))

/-- R597, R599 and R600 on records and the log ring, R602, R604 and R605 on the defect map, R619, R620 and R622 on checks, R612 and R631 on rebinding, R628 on the lookout. -/
def Obligations.RecordsChecksRebindingAndLookoutAct : Prop :=
  ∀ s : State,
    let tail (t : State) : Nat := t.getF F.FLT_LOG_PTR_TAIL 0
    (s.records = [] ∨ s.svcRuns = false → RunsTo .errorRecord s (fun t => t = s)) ∧
    (∀ r rest, s.records = r :: rest → s.svcRuns = true → RunsTo .errorRecord s (fun t =>
      t.logNext = (s.logNext + 1) % 2 ^ 32 ∧ CountsWm C.FLT_LOG_RECORDS 0 r.waymark s t ∧
      (if s.logHeld = [] ∧ s.logRoom = true then tail t = (tail s + 1) % s.logSize % 2 ^ 20 ∧ t.logHeld = [] ∧ t.logOver = false
      else t.records = rest ∧ if s.logHeld.length < 1024 then t.logHeld = s.logHeld ++ [r.bytes s.logNext s.logOver] ∧ t.logOver = false
        else t.logHeld = s.logHeld ∧ t.logOver = true))) ∧
    (∀ fw v, s.writeCode fw ⟨.FLT, 0⟩ 0x090 true v (s.logHeadBad (wbits v 39 20)) false = 0 → RunsTo (.logHeadWrite fw v) s (fun t =>
      t.getF F.FLT_LOG_PTR_HEAD 0 = wbits v 39 20 ∧ (s.logHeld = [] → t.logHeld = [] ∧ tail t = tail s))) ∧
    (∀ fw v, wbits v 48 48 = 1 →
      let addr := wbits v 47 0
      s.writeCode fw ⟨.FLT, 0⟩ 0x0A0 true v (addr % 4096 != 0 || decide (s.edgeCapacity 0 < addr + (10112 + 16 * s.retained.length))) false = 0 →
      RunsTo (.dmapCopy fw v) s (EdgeStored 0 addr s.dmap s)) ∧
    (∀ n u, s.checks[n]? = some u → ∀ steals wrong,
      let r := upset u.sum wrong
      let fed (which : Fin 3) (y : CheckUnit) : Prop := RunsTo (.checkFeed n which steals wrong) s (fun t => t.checks = s.checks.set n y ∧
        t.getC C.FLT_CHECK_STEALS 0 = (s.countWm C.FLT_CHECK_STEALS 0 steals u.wm).getC C.FLT_CHECK_STEALS 0)
      (∀ a, (s.checkers u.tile)[0]? = some a → s.canCheck a = true → u.shadow = none → fed 0 { u with shadow := some (a, r) }) ∧
      (∀ x, u.shadow = some x → sameBank x.2 u.orig = false →
        (s.canCheck u.tile = true → u.again = none → fed 1 { u with again := some r }) ∧
        (∀ a, (s.checkers u.tile)[1]? = some a → s.canCheck a = true → u.referee = none → fed 2 { u with referee := some r }))) ∧
    (∀ n u, s.checks[n]? = some u →
      (∀ x recent, u.shadow = some x → sameBank x.2 u.orig = true → RunsTo (.checkVerdict n recent) s (fun t =>
        t.checks = s.checks.eraseIdx n ∧ CountsWm C.FLT_CHECKS_MATCHED 0 u.wm s t)) ∧
      (∀ x recent, u.shadow = some x → sameBank x.2 u.orig = false → u.again ≠ none → u.referee ≠ none →
        RunsTo (.checkVerdict n recent) s (fun t => t.checks = s.checks.eraseIdx n)) ∧
      (u.shadow = none → RunsTo (.checkDeadline n) s (fun t => t.checks = s.checks.eraseIdx n)) ∧
      (∀ x, u.shadow = some x → sameBank x.2 u.orig = false → u.again = none ∨ u.referee = none →
        RunsTo (.checkDeadline n) s (fun t => t.checks = s.checks.eraseIdx n))) ∧
    (s.recovering = false → RunsTo .rebind s (fun t => t = s)) ∧
    (let p : Fin 2 := if s.getF F.FLT_RECOVERY_PLANE 0 = 1 then 1 else 0
      let slot := s.getF F.FLT_RECOVERY_SLOT 0
      s.recovering = true → s.passLive p = false → s.passState p ≠ 7 → (s.ae p).placing = none → s.stepCancelled = true →
      (∀ f ∈ s.wholeFields p, (s.fieldSt f).resetting = false → s.quiet f = true) →
      ∀ a, s.fieldOfSlot p slot = some a → s.needsRebind p slot = true → s.spareField p a = none →
        RunsTo .rebind s (fun t => t.fieldOfSlot p slot = none)) ∧
    (s.getF F.LKO_CTL_EN 0 = 0 ∨ s.svcRuns = false ∨ s.ringEntry = none → RunsTo .lookoutPoll s (fun t => t = s)) ∧
    (s.getF F.LKO_CTL_EN 0 = 1 → s.svcRuns = true → ∀ got node wm x, s.ringEntry = some (got, node, wm, x) →
      let seq := s.getF F.LKO_RING_SEQ_SEQ 0
      let want := s.getF F.LKO_RING_NODE 0
      (got < seq → RunsTo .lookoutPoll s (fun t => t = s)) ∧
      (seq ≤ got → want ≠ 0 → node ≠ want → RunsTo .lookoutPoll s (fun t => t = s.foreignEntry got node)) ∧
      (got = seq → want = 0 ∨ node = want →
        let u := (s.report wm x).setF F.LKO_RING_SEQ_SEQ 0 (seq + 1)
        u.ringEntry = none → RunsTo .lookoutPoll s (fun t => t = u ∧ t.getF F.LKO_RING_SEQ_SEQ 0 = (seq + 1) % 2 ^ 64)))

/-- R515 on power management, R516 and R524 on the size of BAR4. -/
def Obligations.ConfigurationSpaceSetsPowerAndBarSize : Prop :=
  ∀ s : State,
    let held : Nat := s.getF F.HIF_DMA_CTL_HELD 0
    RunsTo (.configSpaceWrite true 1) s (fun t => t = { s with d3hot := true }) ∧
    RunsTo (.configSpaceWrite true 0) s (fun t => t = if held = 1 then { s with d3hot := false }
      else { s with d3hot := false, hostOut := s.hostOut ++ s.hostHeld, hostHeld := [] }) ∧
    (∀ v, 1 < v → RunsTo (.configSpaceWrite true v) s (fun t => t = s)) ∧
    (∀ v, 30 ≤ v → v ≤ 36 → RunsTo (.configSpaceWrite false v) s (fun t => t.getF F.HIF_BAR4_SIZE_LOG2 0 = v ∧
      Changes [.page .HIF] s t ∧ ∀ off, off % 4096 ≠ 0x090 → t.reg ⟨.HIF, 0⟩ off = s.reg ⟨.HIF, 0⟩ off)) ∧
    (∀ v, v < 30 ∨ 36 < v → RunsTo (.configSpaceWrite false v) s (fun t => t = s))
end

