-- ==== Sys2Proof/Laws/Sparse.lean ====
section
/-!
SUPPORT. Sparse stores: what a read after a write gives, and that every write keeps the canonical form.
-/
namespace Sys2Proof.Machine

variable {α : Type}

theorem look_dropKey (d : Nat → α) (k j : Nat) :
    ∀ l : List (Nat × α), look d (dropKey k l) j = if j = k then d j else look d l j
  | [] => by simp [dropKey, look]
  | (i, v) :: r => by
    have ih := look_dropKey d k j r
    by_cases h : i = k
    · simp only [dropKey, h, if_true, ih, look]
      by_cases hj : j = k
      · simp [hj]
      · simp [hj, Ne.symm hj]
    · simp only [dropKey, h, if_false, look, ih]
      by_cases hj : i = j
      · simp [hj, show j ≠ k from hj ▸ h]
      · simp [hj]

theorem look_insertKey (d : Nat → α) (k j : Nat) (v : α) :
    ∀ l : List (Nat × α), (∀ e ∈ l, e.1 ≠ k) → look d (insertKey k v l) j = if j = k then v else look d l j
  | [], _ => by
    by_cases h : j = k
    · simp [insertKey, look, h]
    · simp [insertKey, look, h, Ne.symm h]
  | (i, w) :: r, hl => by
    have hi : i ≠ k := hl (i, w) (by simp)
    have ih := look_insertKey d k j v r (fun e he => hl e (by simp [he]))
    by_cases hki : k < i
    · by_cases hj : j = k
      · simp [insertKey, hki, look, hj]
      · simp [insertKey, hki, look, hj, Ne.symm hj]
    · simp only [insertKey, hki, if_false, look, ih]
      by_cases hj : i = j
      · simp [hj, show j ≠ k from hj ▸ hi]
      · simp [hj]

theorem dropKey_fresh (k : Nat) : ∀ l : List (Nat × α), ∀ e ∈ dropKey k l, e.1 ≠ k
  | [], e, h => by simp [dropKey] at h
  | (i, v) :: r, e, h => by
    by_cases hi : i = k
    · simp only [dropKey, hi, if_true] at h
      exact dropKey_fresh k r e h
    · simp only [dropKey, hi, if_false, List.mem_cons] at h
      rcases h with h | h
      · simpa [h] using hi
      · exact dropKey_fresh k r e h

/-- A read after a write. -/
theorem look_put [DecidableEq α] (d : Nat → α) (l : List (Nat × α)) (k j : Nat) (v : α) :
    look d (put d l k v) j = if j = k then v else look d l j := by
  unfold put
  split
  · rename_i h
    rw [look_dropKey]
    by_cases hj : j = k <;> simp [hj, h]
  · rw [look_insertKey d k j v _ (dropKey_fresh k l), look_dropKey]
    by_cases hj : j = k <;> simp [hj]

@[simp] theorem look_put_same [DecidableEq α] (d : Nat → α) (l : List (Nat × α)) (k : Nat) (v : α) :
    look d (put d l k v) k = v := by simp [look_put]

theorem look_put_ne [DecidableEq α] (d : Nat → α) (l : List (Nat × α)) {k j : Nat} (v : α) (h : j ≠ k) :
    look d (put d l k v) j = look d l j := by simp [look_put, h]

@[simp] theorem look_nil (d : Nat → α) (k : Nat) : look d [] k = d k := rfl

/-! ### The canonical form -/

variable [DecidableEq α]

/-- The canonical form, entry by entry. -/
theorem storeWf_cons (d : Nat → α) (k : Nat) (v : α) (l : List (Nat × α)) :
    storeWf d ((k, v) :: l) = true ↔ v ≠ d k ∧ (∀ e ∈ l, k < e.1) ∧ storeWf d l = true := by
  induction l generalizing k v with
  | nil => simp [storeWf]
  | cons e r ih =>
    obtain ⟨j, w⟩ := e
    have h := ih j w
    simp only [storeWf, Bool.and_eq_true, decide_eq_true_eq, List.mem_cons, forall_eq_or_imp]
    constructor
    · rintro ⟨⟨hv, hk⟩, hw⟩
      refine ⟨hv, ⟨hk, fun x hx => ?_⟩, hw⟩
      exact Nat.lt_trans hk ((h.1 hw).2.1 x hx)
    · rintro ⟨hv, ⟨hk, _⟩, hw⟩
      exact ⟨⟨hv, hk⟩, hw⟩

@[simp] theorem storeWf_nil (d : Nat → α) : storeWf d ([] : List (Nat × α)) = true := rfl

theorem storeWf_dropKey (d : Nat → α) (k : Nat) :
    ∀ l : List (Nat × α), storeWf d l = true → storeWf d (dropKey k l) = true ∧ ∀ e ∈ dropKey k l, e ∈ l
  | [], _ => by simp [dropKey]
  | (i, v) :: r, h => by
    obtain ⟨hv, hlt, hr⟩ := (storeWf_cons d i v r).1 h
    obtain ⟨ih, hm⟩ := storeWf_dropKey d k r hr
    by_cases hi : i = k
    · simp only [dropKey, hi, if_true]
      exact ⟨ih, fun e he => by simp [hm e he]⟩
    · simp only [dropKey, hi, if_false]
      refine ⟨(storeWf_cons d i v _).2 ⟨hv, fun e he => hlt e (hm e he), ih⟩, fun e he => ?_⟩
      rcases List.mem_cons.1 he with h' | h'
      · simp [h']
      · simp [hm e h']

omit [DecidableEq α] in
theorem mem_insertKey (k : Nat) (v : α) : ∀ (l : List (Nat × α)) (e : Nat × α), e ∈ insertKey k v l → e = (k, v) ∨ e ∈ l
  | [], e, h => by simpa [insertKey] using h
  | (i, w) :: r, e, h => by
    by_cases hk : k < i
    · simpa [insertKey, hk] using h
    · simp only [insertKey, hk, if_false, List.mem_cons] at h ⊢
      rcases h with h | h
      · exact .inr (.inl h)
      · rcases mem_insertKey k v r e h with h' | h'
        · exact .inl h'
        · exact .inr (.inr h')

theorem storeWf_insertKey (d : Nat → α) (k : Nat) (v : α) (hv : v ≠ d k) :
    ∀ l : List (Nat × α), storeWf d l = true → (∀ e ∈ l, e.1 ≠ k) → storeWf d (insertKey k v l) = true
  | [], _, _ => by simpa [insertKey, storeWf] using hv
  | (i, w) :: r, h, hf => by
    obtain ⟨hw, hlt, hr⟩ := (storeWf_cons d i w r).1 h
    have hik : i ≠ k := hf (i, w) (by simp)
    by_cases hk : k < i
    · simp only [insertKey, hk, if_true]
      refine (storeWf_cons d k v _).2 ⟨hv, fun e he => ?_, h⟩
      rcases List.mem_cons.1 he with h' | h'
      · simpa [h'] using hk
      · exact Nat.lt_trans hk (hlt e h')
    · simp only [insertKey, hk, if_false]
      refine (storeWf_cons d i w _).2 ⟨hw, fun e he => ?_, storeWf_insertKey d k v hv r hr (fun e he => hf e (by simp [he]))⟩
      rcases mem_insertKey k v r e he with h' | h'
      · simp only [h']; omega
      · exact hlt e h'

/-- A write keeps the canonical form. -/
theorem storeWf_put (d : Nat → α) (l : List (Nat × α)) (k : Nat) (v : α) (h : storeWf d l = true) :
    storeWf d (put d l k v) = true := by
  unfold put
  split
  · exact (storeWf_dropKey d k l h).1
  · rename_i hv
    exact storeWf_insertKey d k v hv _ (storeWf_dropKey d k l h).1 (dropKey_fresh k l)

/-- Several writes keep it. -/
theorem storeWf_putAll (d : Nat → α) (es l : List (Nat × α)) (h : storeWf d l = true) : storeWf d (putAll d l es) = true := by
  unfold putAll
  induction es generalizing l with
  | nil => exact h
  | cons e r ih => exact ih _ (storeWf_put d l e.1 e.2 h)

/-- So does dropping entries. -/
theorem storeWf_filter (d : Nat → α) (p : Nat × α → Bool) :
    ∀ l : List (Nat × α), storeWf d l = true → storeWf d (l.filter p) = true
  | [], _ => by simp
  | (k, v) :: r, h => by
    obtain ⟨hv, hlt, hr⟩ := (storeWf_cons d k v r).1 h
    have ih := storeWf_filter d p r hr
    by_cases hp : p (k, v)
    · simp only [List.filter_cons, hp, if_true]
      exact (storeWf_cons d k v _).2 ⟨hv, fun e he => hlt e (List.mem_filter.1 he).1, ih⟩
    · simpa [List.filter_cons, hp] using ih

theorem mapKeys_cons (d : Nat → α) (p : Nat → Bool) (f : Nat → α → α) (k : Nat) (v : α) (r : List (Nat × α)) :
    mapKeys d p f ((k, v) :: r) =
      if p k then (if f k v = d k then mapKeys d p f r else (k, f k v) :: mapKeys d p f r) else (k, v) :: mapKeys d p f r := by
  by_cases hp : p k = true
  · by_cases hd : f k v = d k <;> simp [mapKeys, List.filterMap_cons, hp, hd]
  · simp [mapKeys, List.filterMap_cons, hp]

/-- And a change of chosen entries in place. -/
theorem storeWf_mapKeys (d : Nat → α) (p : Nat → Bool) (f : Nat → α → α) :
    ∀ l : List (Nat × α), storeWf d l = true →
      storeWf d (mapKeys d p f l) = true ∧ ∀ e ∈ mapKeys d p f l, ∃ x ∈ l, x.1 = e.1
  | [], _ => by simp [mapKeys]
  | (k, v) :: r, h => by
    obtain ⟨hv, hlt, hr⟩ := (storeWf_cons d k v r).1 h
    obtain ⟨ih, hm⟩ := storeWf_mapKeys d p f r hr
    have up : ∀ e ∈ mapKeys d p f r, ∃ x ∈ (k, v) :: r, x.1 = e.1 := fun e he => by
      obtain ⟨x, hx, hxe⟩ := hm e he
      exact ⟨x, by simp [hx], hxe⟩
    have low : ∀ e ∈ mapKeys d p f r, k < e.1 := fun e he => by
      obtain ⟨x, hx, hxe⟩ := hm e he
      exact hxe ▸ hlt x hx
    have keep : ∀ w, w ≠ d k → storeWf d ((k, w) :: mapKeys d p f r) = true ∧
        ∀ e ∈ (k, w) :: mapKeys d p f r, ∃ x ∈ (k, v) :: r, x.1 = e.1 := fun w hw =>
      ⟨(storeWf_cons d k w _).2 ⟨hw, low, ih⟩, fun e he => by
        rcases List.mem_cons.1 he with h' | h'
        · exact ⟨(k, v), by simp, by simp [h']⟩
        · exact up e h'⟩
    rw [mapKeys_cons]
    split
    · split
      · exact ⟨ih, up⟩
      · rename_i hd
        exact keep _ hd
    · exact keep v hv

end Sys2Proof.Machine
end

