-- ==== Sys2Proof/Laws/State.lean ====
section
/-!
SUPPORT. The primitive updates of the state, field by field, and once for each shared operation what it can change.
-/
namespace Sys2Proof.Machine

variable (s : State)

/-! ### State.setReg changes `regs` alone -/

theorem State.regs_keep_risen (l : List (Nat × W64)) : ({ s with regs := l } : State).risen = s.risen := rfl
@[simp] theorem State.setReg_risen (p : Page) (off : Nat) (v : W64) : (s.setReg p off v).risen = s.risen := State.regs_keep_risen s _
theorem State.regs_keep_ahead (l : List (Nat × W64)) : ({ s with regs := l } : State).ahead = s.ahead := rfl
@[simp] theorem State.setReg_ahead (p : Page) (off : Nat) (v : W64) : (s.setReg p off v).ahead = s.ahead := State.regs_keep_ahead s _
theorem State.regs_keep_peaks (l : List (Nat × W64)) : ({ s with regs := l } : State).peaks = s.peaks := rfl
@[simp] theorem State.setReg_peaks (p : Page) (off : Nat) (v : W64) : (s.setReg p off v).peaks = s.peaks := State.regs_keep_peaks s _
theorem State.regs_keep_tiles (l : List (Nat × W64)) : ({ s with regs := l } : State).tiles = s.tiles := rfl
@[simp] theorem State.setReg_tiles (p : Page) (off : Nat) (v : W64) : (s.setReg p off v).tiles = s.tiles := State.regs_keep_tiles s _
theorem State.regs_keep_fields (l : List (Nat × W64)) : ({ s with regs := l } : State).fields = s.fields := rfl
@[simp] theorem State.setReg_fields (p : Page) (off : Nat) (v : W64) : (s.setReg p off v).fields = s.fields := State.regs_keep_fields s _
theorem State.regs_keep_slotOf (l : List (Nat × W64)) : ({ s with regs := l } : State).slotOf = s.slotOf := rfl
@[simp] theorem State.setReg_slotOf (p : Page) (off : Nat) (v : W64) : (s.setReg p off v).slotOf = s.slotOf := State.regs_keep_slotOf s _
theorem State.regs_keep_recOnce (l : List (Nat × W64)) : ({ s with regs := l } : State).recOnce = s.recOnce := rfl
@[simp] theorem State.setReg_recOnce (p : Page) (off : Nat) (v : W64) : (s.setReg p off v).recOnce = s.recOnce := State.regs_keep_recOnce s _
theorem State.regs_keep_records (l : List (Nat × W64)) : ({ s with regs := l } : State).records = s.records := rfl
@[simp] theorem State.setReg_records (p : Page) (off : Nat) (v : W64) : (s.setReg p off v).records = s.records := State.regs_keep_records s _
theorem State.regs_keep_causes (l : List (Nat × W64)) : ({ s with regs := l } : State).causes = s.causes := rfl
@[simp] theorem State.setReg_causes (p : Page) (off : Nat) (v : W64) : (s.setReg p off v).causes = s.causes := State.regs_keep_causes s _
theorem State.regs_keep_checks (l : List (Nat × W64)) : ({ s with regs := l } : State).checks = s.checks := rfl
@[simp] theorem State.setReg_checks (p : Page) (off : Nat) (v : W64) : (s.setReg p off v).checks = s.checks := State.regs_keep_checks s _
theorem State.regs_keep_retained (l : List (Nat × W64)) : ({ s with regs := l } : State).retained = s.retained := rfl
@[simp] theorem State.setReg_retained (p : Page) (off : Nat) (v : W64) : (s.setReg p off v).retained = s.retained := State.regs_keep_retained s _
theorem State.regs_keep_suspects (l : List (Nat × W64)) : ({ s with regs := l } : State).suspects = s.suspects := rfl
@[simp] theorem State.setReg_suspects (p : Page) (off : Nat) (v : W64) : (s.setReg p off v).suspects = s.suspects := State.regs_keep_suspects s _
theorem State.regs_keep_hostOut (l : List (Nat × W64)) : ({ s with regs := l } : State).hostOut = s.hostOut := rfl
@[simp] theorem State.setReg_hostOut (p : Page) (off : Nat) (v : W64) : (s.setReg p off v).hostOut = s.hostOut := State.regs_keep_hostOut s _
theorem State.regs_keep_hostHeld (l : List (Nat × W64)) : ({ s with regs := l } : State).hostHeld = s.hostHeld := rfl
@[simp] theorem State.setReg_hostHeld (p : Page) (off : Nat) (v : W64) : (s.setReg p off v).hostHeld = s.hostHeld := State.regs_keep_hostHeld s _
theorem State.regs_keep_fwIrq (l : List (Nat × W64)) : ({ s with regs := l } : State).fwIrq = s.fwIrq := rfl
@[simp] theorem State.setReg_fwIrq (p : Page) (off : Nat) (v : W64) : (s.setReg p off v).fwIrq = s.fwIrq := State.regs_keep_fwIrq s _
theorem State.regs_keep_msix (l : List (Nat × W64)) : ({ s with regs := l } : State).msix = s.msix := rfl
@[simp] theorem State.setReg_msix (p : Page) (off : Nat) (v : W64) : (s.setReg p off v).msix = s.msix := State.regs_keep_msix s _
theorem State.regs_keep_d3hot (l : List (Nat × W64)) : ({ s with regs := l } : State).d3hot = s.d3hot := rfl
@[simp] theorem State.setReg_d3hot (p : Page) (off : Nat) (v : W64) : (s.setReg p off v).d3hot = s.d3hot := State.regs_keep_d3hot s _
theorem State.regs_keep_edge (l : List (Nat × W64)) : ({ s with regs := l } : State).edge = s.edge := rfl
@[simp] theorem State.setReg_edge (p : Page) (off : Nat) (v : W64) : (s.setReg p off v).edge = s.edge := State.regs_keep_edge s _
theorem State.regs_keep_edgeMark (l : List (Nat × W64)) : ({ s with regs := l } : State).edgeMark = s.edgeMark := rfl
@[simp] theorem State.setReg_edgeMark (p : Page) (off : Nat) (v : W64) : (s.setReg p off v).edgeMark = s.edgeMark := State.regs_keep_edgeMark s _
theorem State.regs_keep_edgeWb (l : List (Nat × W64)) : ({ s with regs := l } : State).edgeWb = s.edgeWb := rfl
@[simp] theorem State.setReg_edgeWb (p : Page) (off : Nat) (v : W64) : (s.setReg p off v).edgeWb = s.edgeWb := State.regs_keep_edgeWb s _
theorem State.regs_keep_selfRefresh (l : List (Nat × W64)) : ({ s with regs := l } : State).selfRefresh = s.selfRefresh := rfl
@[simp] theorem State.setReg_selfRefresh (p : Page) (off : Nat) (v : W64) : (s.setReg p off v).selfRefresh = s.selfRefresh := State.regs_keep_selfRefresh s _
theorem State.regs_keep_stackHeat (l : List (Nat × W64)) : ({ s with regs := l } : State).stackHeat = s.stackHeat := rfl
@[simp] theorem State.setReg_stackHeat (p : Page) (off : Nat) (v : W64) : (s.setReg p off v).stackHeat = s.stackHeat := State.regs_keep_stackHeat s _
theorem State.regs_keep_scrubAt (l : List (Nat × W64)) : ({ s with regs := l } : State).scrubAt = s.scrubAt := rfl
@[simp] theorem State.setReg_scrubAt (p : Page) (off : Nat) (v : W64) : (s.setReg p off v).scrubAt = s.scrubAt := State.regs_keep_scrubAt s _
theorem State.regs_keep_edgeHeld (l : List (Nat × W64)) : ({ s with regs := l } : State).edgeHeld = s.edgeHeld := rfl
@[simp] theorem State.setReg_edgeHeld (p : Page) (off : Nat) (v : W64) : (s.setReg p off v).edgeHeld = s.edgeHeld := State.regs_keep_edgeHeld s _
theorem State.regs_keep_fopenDue (l : List (Nat × W64)) : ({ s with regs := l } : State).fopenDue = s.fopenDue := rfl
@[simp] theorem State.setReg_fopenDue (p : Page) (off : Nat) (v : W64) : (s.setReg p off v).fopenDue = s.fopenDue := State.regs_keep_fopenDue s _
theorem State.regs_keep_bridgeRx (l : List (Nat × W64)) : ({ s with regs := l } : State).bridgeRx = s.bridgeRx := rfl
@[simp] theorem State.setReg_bridgeRx (p : Page) (off : Nat) (v : W64) : (s.setReg p off v).bridgeRx = s.bridgeRx := State.regs_keep_bridgeRx s _
theorem State.regs_keep_aeArrived (l : List (Nat × W64)) : ({ s with regs := l } : State).aeArrived = s.aeArrived := rfl
@[simp] theorem State.setReg_aeArrived (p : Page) (off : Nat) (v : W64) : (s.setReg p off v).aeArrived = s.aeArrived := State.regs_keep_aeArrived s _
theorem State.regs_keep_ctxs (l : List (Nat × W64)) : ({ s with regs := l } : State).ctxs = s.ctxs := rfl
@[simp] theorem State.setReg_ctxs (p : Page) (off : Nat) (v : W64) : (s.setReg p off v).ctxs = s.ctxs := State.regs_keep_ctxs s _
theorem State.regs_keep_ctxCount (l : List (Nat × W64)) : ({ s with regs := l } : State).ctxCount = s.ctxCount := rfl
@[simp] theorem State.setReg_ctxCount (p : Page) (off : Nat) (v : W64) : (s.setReg p off v).ctxCount = s.ctxCount := State.regs_keep_ctxCount s _
theorem State.regs_keep_queues (l : List (Nat × W64)) : ({ s with regs := l } : State).queues = s.queues := rfl
@[simp] theorem State.setReg_queues (p : Page) (off : Nat) (v : W64) : (s.setReg p off v).queues = s.queues := State.regs_keep_queues s _
theorem State.regs_keep_turns (l : List (Nat × W64)) : ({ s with regs := l } : State).turns = s.turns := rfl
@[simp] theorem State.setReg_turns (p : Page) (off : Nat) (v : W64) : (s.setReg p off v).turns = s.turns := State.regs_keep_turns s _
theorem State.regs_keep_step (l : List (Nat × W64)) : ({ s with regs := l } : State).step = s.step := rfl
@[simp] theorem State.setReg_step (p : Page) (off : Nat) (v : W64) : (s.setReg p off v).step = s.step := State.regs_keep_step s _
theorem State.regs_keep_stepFailed (l : List (Nat × W64)) : ({ s with regs := l } : State).stepFailed = s.stepFailed := rfl
@[simp] theorem State.setReg_stepFailed (p : Page) (off : Nat) (v : W64) : (s.setReg p off v).stepFailed = s.stepFailed := State.regs_keep_stepFailed s _
theorem State.regs_keep_array (l : List (Nat × W64)) : ({ s with regs := l } : State).array = s.array := rfl
@[simp] theorem State.setReg_array (p : Page) (off : Nat) (v : W64) : (s.setReg p off v).array = s.array := State.regs_keep_array s _
theorem State.regs_keep_remoteRoot (l : List (Nat × W64)) : ({ s with regs := l } : State).remoteRoot = s.remoteRoot := rfl
@[simp] theorem State.setReg_remoteRoot (p : Page) (off : Nat) (v : W64) : (s.setReg p off v).remoteRoot = s.remoteRoot := State.regs_keep_remoteRoot s _
theorem State.regs_keep_links (l : List (Nat × W64)) : ({ s with regs := l } : State).links = s.links := rfl
@[simp] theorem State.setReg_links (p : Page) (off : Nat) (v : W64) : (s.setReg p off v).links = s.links := State.regs_keep_links s _
theorem State.regs_keep_wire (l : List (Nat × W64)) : ({ s with regs := l } : State).wire = s.wire := rfl
@[simp] theorem State.setReg_wire (p : Page) (off : Nat) (v : W64) : (s.setReg p off v).wire = s.wire := State.regs_keep_wire s _
theorem State.regs_keep_exchs (l : List (Nat × W64)) : ({ s with regs := l } : State).exchs = s.exchs := rfl
@[simp] theorem State.setReg_exchs (p : Page) (off : Nat) (v : W64) : (s.setReg p off v).exchs = s.exchs := State.regs_keep_exchs s _
theorem State.regs_keep_sigCount (l : List (Nat × W64)) : ({ s with regs := l } : State).sigCount = s.sigCount := rfl
@[simp] theorem State.setReg_sigCount (p : Page) (off : Nat) (v : W64) : (s.setReg p off v).sigCount = s.sigCount := State.regs_keep_sigCount s _
theorem State.regs_keep_destSets (l : List (Nat × W64)) : ({ s with regs := l } : State).destSets = s.destSets := rfl
@[simp] theorem State.setReg_destSets (p : Page) (off : Nat) (v : W64) : (s.setReg p off v).destSets = s.destSets := State.regs_keep_destSets s _
theorem State.regs_keep_tainted (l : List (Nat × W64)) : ({ s with regs := l } : State).tainted = s.tainted := rfl
@[simp] theorem State.setReg_tainted (p : Page) (off : Nat) (v : W64) : (s.setReg p off v).tainted = s.tainted := State.regs_keep_tainted s _
theorem State.regs_keep_taintSeq (l : List (Nat × W64)) : ({ s with regs := l } : State).taintSeq = s.taintSeq := rfl
@[simp] theorem State.setReg_taintSeq (p : Page) (off : Nat) (v : W64) : (s.setReg p off v).taintSeq = s.taintSeq := State.regs_keep_taintSeq s _
theorem State.regs_keep_windows (l : List (Nat × W64)) : ({ s with regs := l } : State).windows = s.windows := rfl
@[simp] theorem State.setReg_windows (p : Page) (off : Nat) (v : W64) : (s.setReg p off v).windows = s.windows := State.regs_keep_windows s _
theorem State.regs_keep_derived (l : List (Nat × W64)) : ({ s with regs := l } : State).derived = s.derived := rfl
@[simp] theorem State.setReg_derived (p : Page) (off : Nat) (v : W64) : (s.setReg p off v).derived = s.derived := State.regs_keep_derived s _
theorem State.regs_keep_taintNamed (l : List (Nat × W64)) : ({ s with regs := l } : State).taintNamed = s.taintNamed := rfl
@[simp] theorem State.setReg_taintNamed (p : Page) (off : Nat) (v : W64) : (s.setReg p off v).taintNamed = s.taintNamed := State.regs_keep_taintNamed s _
theorem State.regs_keep_bridgeTrain (l : List (Nat × W64)) : ({ s with regs := l } : State).bridgeTrain = s.bridgeTrain := rfl
@[simp] theorem State.setReg_bridgeTrain (p : Page) (off : Nat) (v : W64) : (s.setReg p off v).bridgeTrain = s.bridgeTrain := State.regs_keep_bridgeTrain s _
theorem State.regs_keep_importing (l : List (Nat × W64)) : ({ s with regs := l } : State).importing = s.importing := rfl
@[simp] theorem State.setReg_importing (p : Page) (off : Nat) (v : W64) : (s.setReg p off v).importing = s.importing := State.regs_keep_importing s _
theorem State.regs_keep_stoppedClk (l : List (Nat × W64)) : ({ s with regs := l } : State).stoppedClk = s.stoppedClk := rfl
@[simp] theorem State.setReg_stoppedClk (p : Page) (off : Nat) (v : W64) : (s.setReg p off v).stoppedClk = s.stoppedClk := State.regs_keep_stoppedClk s _
theorem State.regs_keep_refLost (l : List (Nat × W64)) : ({ s with regs := l } : State).refLost = s.refLost := rfl
@[simp] theorem State.setReg_refLost (p : Page) (off : Nat) (v : W64) : (s.setReg p off v).refLost = s.refLost := State.regs_keep_refLost s _
theorem State.regs_keep_dark (l : List (Nat × W64)) : ({ s with regs := l } : State).dark = s.dark := rfl
@[simp] theorem State.setReg_dark (p : Page) (off : Nat) (v : W64) : (s.setReg p off v).dark = s.dark := State.regs_keep_dark s _
theorem State.regs_keep_capBelow (l : List (Nat × W64)) : ({ s with regs := l } : State).capBelow = s.capBelow := rfl
@[simp] theorem State.setReg_capBelow (p : Page) (off : Nat) (v : W64) : (s.setReg p off v).capBelow = s.capBelow := State.regs_keep_capBelow s _
theorem State.regs_keep_limQuiet (l : List (Nat × W64)) : ({ s with regs := l } : State).limQuiet = s.limQuiet := rfl
@[simp] theorem State.setReg_limQuiet (p : Page) (off : Nat) (v : W64) : (s.setReg p off v).limQuiet = s.limQuiet := State.regs_keep_limQuiet s _
theorem State.regs_keep_bankOn (l : List (Nat × W64)) : ({ s with regs := l } : State).bankOn = s.bankOn := rfl
@[simp] theorem State.setReg_bankOn (p : Page) (off : Nat) (v : W64) : (s.setReg p off v).bankOn = s.bankOn := State.regs_keep_bankOn s _
theorem State.regs_keep_coolCap (l : List (Nat × W64)) : ({ s with regs := l } : State).coolCap = s.coolCap := rfl
@[simp] theorem State.setReg_coolCap (p : Page) (off : Nat) (v : W64) : (s.setReg p off v).coolCap = s.coolCap := State.regs_keep_coolCap s _
theorem State.regs_keep_coolLow (l : List (Nat × W64)) : ({ s with regs := l } : State).coolLow = s.coolLow := rfl
@[simp] theorem State.setReg_coolLow (p : Page) (off : Nat) (v : W64) : (s.setReg p off v).coolLow = s.coolLow := State.regs_keep_coolLow s _
theorem State.regs_keep_coolWait (l : List (Nat × W64)) : ({ s with regs := l } : State).coolWait = s.coolWait := rfl
@[simp] theorem State.setReg_coolWait (p : Page) (off : Nat) (v : W64) : (s.setReg p off v).coolWait = s.coolWait := State.regs_keep_coolWait s _
theorem State.regs_keep_sleeping (l : List (Nat × W64)) : ({ s with regs := l } : State).sleeping = s.sleeping := rfl
@[simp] theorem State.setReg_sleeping (p : Page) (off : Nat) (v : W64) : (s.setReg p off v).sleeping = s.sleeping := State.regs_keep_sleeping s _
theorem State.regs_keep_sleptPorts (l : List (Nat × W64)) : ({ s with regs := l } : State).sleptPorts = s.sleptPorts := rfl
@[simp] theorem State.setReg_sleptPorts (p : Page) (off : Nat) (v : W64) : (s.setReg p off v).sleptPorts = s.sleptPorts := State.regs_keep_sleptPorts s _
theorem State.regs_keep_sleptBridge (l : List (Nat × W64)) : ({ s with regs := l } : State).sleptBridge = s.sleptBridge := rfl
@[simp] theorem State.setReg_sleptBridge (p : Page) (off : Nat) (v : W64) : (s.setReg p off v).sleptBridge = s.sleptBridge := State.regs_keep_sleptBridge s _
theorem State.regs_keep_logNext (l : List (Nat × W64)) : ({ s with regs := l } : State).logNext = s.logNext := rfl
@[simp] theorem State.setReg_logNext (p : Page) (off : Nat) (v : W64) : (s.setReg p off v).logNext = s.logNext := State.regs_keep_logNext s _
theorem State.regs_keep_logHeld (l : List (Nat × W64)) : ({ s with regs := l } : State).logHeld = s.logHeld := rfl
@[simp] theorem State.setReg_logHeld (p : Page) (off : Nat) (v : W64) : (s.setReg p off v).logHeld = s.logHeld := State.regs_keep_logHeld s _
theorem State.regs_keep_logOver (l : List (Nat × W64)) : ({ s with regs := l } : State).logOver = s.logOver := rfl
@[simp] theorem State.setReg_logOver (p : Page) (off : Nat) (v : W64) : (s.setReg p off v).logOver = s.logOver := State.regs_keep_logOver s _
theorem State.regs_keep_mlog (l : List (Nat × W64)) : ({ s with regs := l } : State).mlog = s.mlog := rfl
@[simp] theorem State.setReg_mlog (p : Page) (off : Nat) (v : W64) : (s.setReg p off v).mlog = s.mlog := State.regs_keep_mlog s _
theorem State.regs_keep_losses (l : List (Nat × W64)) : ({ s with regs := l } : State).losses = s.losses := rfl
@[simp] theorem State.setReg_losses (p : Page) (off : Nat) (v : W64) : (s.setReg p off v).losses = s.losses := State.regs_keep_losses s _
theorem State.regs_keep_spikeFirst (l : List (Nat × W64)) : ({ s with regs := l } : State).spikeFirst = s.spikeFirst := rfl
@[simp] theorem State.setReg_spikeFirst (p : Page) (off : Nat) (v : W64) : (s.setReg p off v).spikeFirst = s.spikeFirst := State.regs_keep_spikeFirst s _
theorem State.regs_keep_lkoN (l : List (Nat × W64)) : ({ s with regs := l } : State).lkoN = s.lkoN := rfl
@[simp] theorem State.setReg_lkoN (p : Page) (off : Nat) (v : W64) : (s.setReg p off v).lkoN = s.lkoN := State.regs_keep_lkoN s _
theorem State.regs_keep_lkoSpikes (l : List (Nat × W64)) : ({ s with regs := l } : State).lkoSpikes = s.lkoSpikes := rfl
@[simp] theorem State.setReg_lkoSpikes (p : Page) (off : Nat) (v : W64) : (s.setReg p off v).lkoSpikes = s.lkoSpikes := State.regs_keep_lkoSpikes s _
theorem State.regs_keep_stepsSeen (l : List (Nat × W64)) : ({ s with regs := l } : State).stepsSeen = s.stepsSeen := rfl
@[simp] theorem State.setReg_stepsSeen (p : Page) (off : Nat) (v : W64) : (s.setReg p off v).stepsSeen = s.stepsSeen := State.regs_keep_stepsSeen s _
theorem State.regs_keep_flash (l : List (Nat × W64)) : ({ s with regs := l } : State).flash = s.flash := rfl
@[simp] theorem State.setReg_flash (p : Page) (off : Nat) (v : W64) : (s.setReg p off v).flash = s.flash := State.regs_keep_flash s _
theorem State.regs_keep_active (l : List (Nat × W64)) : ({ s with regs := l } : State).active = s.active := rfl
@[simp] theorem State.setReg_active (p : Page) (off : Nat) (v : W64) : (s.setReg p off v).active = s.active := State.regs_keep_active s _
theorem State.regs_keep_fresh (l : List (Nat × W64)) : ({ s with regs := l } : State).fresh = s.fresh := rfl
@[simp] theorem State.setReg_fresh (p : Page) (off : Nat) (v : W64) : (s.setReg p off v).fresh = s.fresh := State.regs_keep_fresh s _
theorem State.regs_keep_toActivate (l : List (Nat × W64)) : ({ s with regs := l } : State).toActivate = s.toActivate := rfl
@[simp] theorem State.setReg_toActivate (p : Page) (off : Nat) (v : W64) : (s.setReg p off v).toActivate = s.toActivate := State.regs_keep_toActivate s _
theorem State.regs_keep_digests (l : List (Nat × W64)) : ({ s with regs := l } : State).digests = s.digests := rfl
@[simp] theorem State.setReg_digests (p : Page) (off : Nat) (v : W64) : (s.setReg p off v).digests = s.digests := State.regs_keep_digests s _
theorem State.regs_keep_mgmtStage (l : List (Nat × W64)) : ({ s with regs := l } : State).mgmtStage = s.mgmtStage := rfl
@[simp] theorem State.setReg_mgmtStage (p : Page) (off : Nat) (v : W64) : (s.setReg p off v).mgmtStage = s.mgmtStage := State.regs_keep_mgmtStage s _
theorem State.regs_keep_cwyFailed (l : List (Nat × W64)) : ({ s with regs := l } : State).cwyFailed = s.cwyFailed := rfl
@[simp] theorem State.setReg_cwyFailed (p : Page) (off : Nat) (v : W64) : (s.setReg p off v).cwyFailed = s.cwyFailed := State.regs_keep_cwyFailed s _
theorem State.regs_keep_measure (l : List (Nat × W64)) : ({ s with regs := l } : State).measure = s.measure := rfl
@[simp] theorem State.setReg_measure (p : Page) (off : Nat) (v : W64) : (s.setReg p off v).measure = s.measure := State.regs_keep_measure s _
theorem State.regs_keep_nonce (l : List (Nat × W64)) : ({ s with regs := l } : State).nonce = s.nonce := rfl
@[simp] theorem State.setReg_nonce (p : Page) (off : Nat) (v : W64) : (s.setReg p off v).nonce = s.nonce := State.regs_keep_nonce s _
theorem State.regs_keep_unlockNext (l : List (Nat × W64)) : ({ s with regs := l } : State).unlockNext = s.unlockNext := rfl
@[simp] theorem State.setReg_unlockNext (p : Page) (off : Nat) (v : W64) : (s.setReg p off v).unlockNext = s.unlockNext := State.regs_keep_unlockNext s _
theorem State.regs_keep_testRef (l : List (Nat × W64)) : ({ s with regs := l } : State).testRef = s.testRef := rfl
@[simp] theorem State.setReg_testRef (p : Page) (off : Nat) (v : W64) : (s.setReg p off v).testRef = s.testRef := State.regs_keep_testRef s _
theorem State.regs_keep_subs (l : List (Nat × W64)) : ({ s with regs := l } : State).subs = s.subs := rfl
@[simp] theorem State.setReg_subs (p : Page) (off : Nat) (v : W64) : (s.setReg p off v).subs = s.subs := State.regs_keep_subs s _
theorem State.regs_keep_mgmtOut (l : List (Nat × W64)) : ({ s with regs := l } : State).mgmtOut = s.mgmtOut := rfl
@[simp] theorem State.setReg_mgmtOut (p : Page) (off : Nat) (v : W64) : (s.setReg p off v).mgmtOut = s.mgmtOut := State.regs_keep_mgmtOut s _
theorem State.regs_keep_doe (l : List (Nat × W64)) : ({ s with regs := l } : State).doe = s.doe := rfl
@[simp] theorem State.setReg_doe (p : Page) (off : Nat) (v : W64) : (s.setReg p off v).doe = s.doe := State.regs_keep_doe s _
theorem State.regs_keep_debugOut (l : List (Nat × W64)) : ({ s with regs := l } : State).debugOut = s.debugOut := rfl
@[simp] theorem State.setReg_debugOut (p : Page) (off : Nat) (v : W64) : (s.setReg p off v).debugOut = s.debugOut := State.regs_keep_debugOut s _
theorem State.regs_keep_free (l : List (Nat × W64)) : ({ s with regs := l } : State).free = s.free := rfl
@[simp] theorem State.setReg_free (p : Page) (off : Nat) (v : W64) : (s.setReg p off v).free = s.free := State.regs_keep_free s _
theorem State.regs_keep_pending (l : List (Nat × W64)) : ({ s with regs := l } : State).pending = s.pending := rfl
@[simp] theorem State.setReg_pending (p : Page) (off : Nat) (v : W64) : (s.setReg p off v).pending = s.pending := State.regs_keep_pending s _

/-! ### State.setTile changes `tiles` alone -/

theorem State.tiles_keep_regs (l : List (Nat × Tile)) : ({ s with tiles := l } : State).regs = s.regs := rfl
@[simp] theorem State.setTile_regs (a : TileAddr) (x : Tile) : (s.setTile a x).regs = s.regs := State.tiles_keep_regs s _
theorem State.tiles_keep_risen (l : List (Nat × Tile)) : ({ s with tiles := l } : State).risen = s.risen := rfl
@[simp] theorem State.setTile_risen (a : TileAddr) (x : Tile) : (s.setTile a x).risen = s.risen := State.tiles_keep_risen s _
theorem State.tiles_keep_ahead (l : List (Nat × Tile)) : ({ s with tiles := l } : State).ahead = s.ahead := rfl
@[simp] theorem State.setTile_ahead (a : TileAddr) (x : Tile) : (s.setTile a x).ahead = s.ahead := State.tiles_keep_ahead s _
theorem State.tiles_keep_peaks (l : List (Nat × Tile)) : ({ s with tiles := l } : State).peaks = s.peaks := rfl
@[simp] theorem State.setTile_peaks (a : TileAddr) (x : Tile) : (s.setTile a x).peaks = s.peaks := State.tiles_keep_peaks s _
theorem State.tiles_keep_fields (l : List (Nat × Tile)) : ({ s with tiles := l } : State).fields = s.fields := rfl
@[simp] theorem State.setTile_fields (a : TileAddr) (x : Tile) : (s.setTile a x).fields = s.fields := State.tiles_keep_fields s _
theorem State.tiles_keep_slotOf (l : List (Nat × Tile)) : ({ s with tiles := l } : State).slotOf = s.slotOf := rfl
@[simp] theorem State.setTile_slotOf (a : TileAddr) (x : Tile) : (s.setTile a x).slotOf = s.slotOf := State.tiles_keep_slotOf s _
theorem State.tiles_keep_recOnce (l : List (Nat × Tile)) : ({ s with tiles := l } : State).recOnce = s.recOnce := rfl
@[simp] theorem State.setTile_recOnce (a : TileAddr) (x : Tile) : (s.setTile a x).recOnce = s.recOnce := State.tiles_keep_recOnce s _
theorem State.tiles_keep_records (l : List (Nat × Tile)) : ({ s with tiles := l } : State).records = s.records := rfl
@[simp] theorem State.setTile_records (a : TileAddr) (x : Tile) : (s.setTile a x).records = s.records := State.tiles_keep_records s _
theorem State.tiles_keep_causes (l : List (Nat × Tile)) : ({ s with tiles := l } : State).causes = s.causes := rfl
@[simp] theorem State.setTile_causes (a : TileAddr) (x : Tile) : (s.setTile a x).causes = s.causes := State.tiles_keep_causes s _
theorem State.tiles_keep_checks (l : List (Nat × Tile)) : ({ s with tiles := l } : State).checks = s.checks := rfl
@[simp] theorem State.setTile_checks (a : TileAddr) (x : Tile) : (s.setTile a x).checks = s.checks := State.tiles_keep_checks s _
theorem State.tiles_keep_retained (l : List (Nat × Tile)) : ({ s with tiles := l } : State).retained = s.retained := rfl
@[simp] theorem State.setTile_retained (a : TileAddr) (x : Tile) : (s.setTile a x).retained = s.retained := State.tiles_keep_retained s _
theorem State.tiles_keep_suspects (l : List (Nat × Tile)) : ({ s with tiles := l } : State).suspects = s.suspects := rfl
@[simp] theorem State.setTile_suspects (a : TileAddr) (x : Tile) : (s.setTile a x).suspects = s.suspects := State.tiles_keep_suspects s _
theorem State.tiles_keep_hostOut (l : List (Nat × Tile)) : ({ s with tiles := l } : State).hostOut = s.hostOut := rfl
@[simp] theorem State.setTile_hostOut (a : TileAddr) (x : Tile) : (s.setTile a x).hostOut = s.hostOut := State.tiles_keep_hostOut s _
theorem State.tiles_keep_hostHeld (l : List (Nat × Tile)) : ({ s with tiles := l } : State).hostHeld = s.hostHeld := rfl
@[simp] theorem State.setTile_hostHeld (a : TileAddr) (x : Tile) : (s.setTile a x).hostHeld = s.hostHeld := State.tiles_keep_hostHeld s _
theorem State.tiles_keep_fwIrq (l : List (Nat × Tile)) : ({ s with tiles := l } : State).fwIrq = s.fwIrq := rfl
@[simp] theorem State.setTile_fwIrq (a : TileAddr) (x : Tile) : (s.setTile a x).fwIrq = s.fwIrq := State.tiles_keep_fwIrq s _
theorem State.tiles_keep_msix (l : List (Nat × Tile)) : ({ s with tiles := l } : State).msix = s.msix := rfl
@[simp] theorem State.setTile_msix (a : TileAddr) (x : Tile) : (s.setTile a x).msix = s.msix := State.tiles_keep_msix s _
theorem State.tiles_keep_d3hot (l : List (Nat × Tile)) : ({ s with tiles := l } : State).d3hot = s.d3hot := rfl
@[simp] theorem State.setTile_d3hot (a : TileAddr) (x : Tile) : (s.setTile a x).d3hot = s.d3hot := State.tiles_keep_d3hot s _
theorem State.tiles_keep_edge (l : List (Nat × Tile)) : ({ s with tiles := l } : State).edge = s.edge := rfl
@[simp] theorem State.setTile_edge (a : TileAddr) (x : Tile) : (s.setTile a x).edge = s.edge := State.tiles_keep_edge s _
theorem State.tiles_keep_edgeMark (l : List (Nat × Tile)) : ({ s with tiles := l } : State).edgeMark = s.edgeMark := rfl
@[simp] theorem State.setTile_edgeMark (a : TileAddr) (x : Tile) : (s.setTile a x).edgeMark = s.edgeMark := State.tiles_keep_edgeMark s _
theorem State.tiles_keep_edgeWb (l : List (Nat × Tile)) : ({ s with tiles := l } : State).edgeWb = s.edgeWb := rfl
@[simp] theorem State.setTile_edgeWb (a : TileAddr) (x : Tile) : (s.setTile a x).edgeWb = s.edgeWb := State.tiles_keep_edgeWb s _
theorem State.tiles_keep_selfRefresh (l : List (Nat × Tile)) : ({ s with tiles := l } : State).selfRefresh = s.selfRefresh := rfl
@[simp] theorem State.setTile_selfRefresh (a : TileAddr) (x : Tile) : (s.setTile a x).selfRefresh = s.selfRefresh := State.tiles_keep_selfRefresh s _
theorem State.tiles_keep_stackHeat (l : List (Nat × Tile)) : ({ s with tiles := l } : State).stackHeat = s.stackHeat := rfl
@[simp] theorem State.setTile_stackHeat (a : TileAddr) (x : Tile) : (s.setTile a x).stackHeat = s.stackHeat := State.tiles_keep_stackHeat s _
theorem State.tiles_keep_scrubAt (l : List (Nat × Tile)) : ({ s with tiles := l } : State).scrubAt = s.scrubAt := rfl
@[simp] theorem State.setTile_scrubAt (a : TileAddr) (x : Tile) : (s.setTile a x).scrubAt = s.scrubAt := State.tiles_keep_scrubAt s _
theorem State.tiles_keep_edgeHeld (l : List (Nat × Tile)) : ({ s with tiles := l } : State).edgeHeld = s.edgeHeld := rfl
@[simp] theorem State.setTile_edgeHeld (a : TileAddr) (x : Tile) : (s.setTile a x).edgeHeld = s.edgeHeld := State.tiles_keep_edgeHeld s _
theorem State.tiles_keep_fopenDue (l : List (Nat × Tile)) : ({ s with tiles := l } : State).fopenDue = s.fopenDue := rfl
@[simp] theorem State.setTile_fopenDue (a : TileAddr) (x : Tile) : (s.setTile a x).fopenDue = s.fopenDue := State.tiles_keep_fopenDue s _
theorem State.tiles_keep_bridgeRx (l : List (Nat × Tile)) : ({ s with tiles := l } : State).bridgeRx = s.bridgeRx := rfl
@[simp] theorem State.setTile_bridgeRx (a : TileAddr) (x : Tile) : (s.setTile a x).bridgeRx = s.bridgeRx := State.tiles_keep_bridgeRx s _
theorem State.tiles_keep_aeArrived (l : List (Nat × Tile)) : ({ s with tiles := l } : State).aeArrived = s.aeArrived := rfl
@[simp] theorem State.setTile_aeArrived (a : TileAddr) (x : Tile) : (s.setTile a x).aeArrived = s.aeArrived := State.tiles_keep_aeArrived s _
theorem State.tiles_keep_ctxs (l : List (Nat × Tile)) : ({ s with tiles := l } : State).ctxs = s.ctxs := rfl
@[simp] theorem State.setTile_ctxs (a : TileAddr) (x : Tile) : (s.setTile a x).ctxs = s.ctxs := State.tiles_keep_ctxs s _
theorem State.tiles_keep_ctxCount (l : List (Nat × Tile)) : ({ s with tiles := l } : State).ctxCount = s.ctxCount := rfl
@[simp] theorem State.setTile_ctxCount (a : TileAddr) (x : Tile) : (s.setTile a x).ctxCount = s.ctxCount := State.tiles_keep_ctxCount s _
theorem State.tiles_keep_queues (l : List (Nat × Tile)) : ({ s with tiles := l } : State).queues = s.queues := rfl
@[simp] theorem State.setTile_queues (a : TileAddr) (x : Tile) : (s.setTile a x).queues = s.queues := State.tiles_keep_queues s _
theorem State.tiles_keep_turns (l : List (Nat × Tile)) : ({ s with tiles := l } : State).turns = s.turns := rfl
@[simp] theorem State.setTile_turns (a : TileAddr) (x : Tile) : (s.setTile a x).turns = s.turns := State.tiles_keep_turns s _
theorem State.tiles_keep_step (l : List (Nat × Tile)) : ({ s with tiles := l } : State).step = s.step := rfl
@[simp] theorem State.setTile_step (a : TileAddr) (x : Tile) : (s.setTile a x).step = s.step := State.tiles_keep_step s _
theorem State.tiles_keep_stepFailed (l : List (Nat × Tile)) : ({ s with tiles := l } : State).stepFailed = s.stepFailed := rfl
@[simp] theorem State.setTile_stepFailed (a : TileAddr) (x : Tile) : (s.setTile a x).stepFailed = s.stepFailed := State.tiles_keep_stepFailed s _
theorem State.tiles_keep_array (l : List (Nat × Tile)) : ({ s with tiles := l } : State).array = s.array := rfl
@[simp] theorem State.setTile_array (a : TileAddr) (x : Tile) : (s.setTile a x).array = s.array := State.tiles_keep_array s _
theorem State.tiles_keep_remoteRoot (l : List (Nat × Tile)) : ({ s with tiles := l } : State).remoteRoot = s.remoteRoot := rfl
@[simp] theorem State.setTile_remoteRoot (a : TileAddr) (x : Tile) : (s.setTile a x).remoteRoot = s.remoteRoot := State.tiles_keep_remoteRoot s _
theorem State.tiles_keep_links (l : List (Nat × Tile)) : ({ s with tiles := l } : State).links = s.links := rfl
@[simp] theorem State.setTile_links (a : TileAddr) (x : Tile) : (s.setTile a x).links = s.links := State.tiles_keep_links s _
theorem State.tiles_keep_wire (l : List (Nat × Tile)) : ({ s with tiles := l } : State).wire = s.wire := rfl
@[simp] theorem State.setTile_wire (a : TileAddr) (x : Tile) : (s.setTile a x).wire = s.wire := State.tiles_keep_wire s _
theorem State.tiles_keep_exchs (l : List (Nat × Tile)) : ({ s with tiles := l } : State).exchs = s.exchs := rfl
@[simp] theorem State.setTile_exchs (a : TileAddr) (x : Tile) : (s.setTile a x).exchs = s.exchs := State.tiles_keep_exchs s _
theorem State.tiles_keep_sigCount (l : List (Nat × Tile)) : ({ s with tiles := l } : State).sigCount = s.sigCount := rfl
@[simp] theorem State.setTile_sigCount (a : TileAddr) (x : Tile) : (s.setTile a x).sigCount = s.sigCount := State.tiles_keep_sigCount s _
theorem State.tiles_keep_destSets (l : List (Nat × Tile)) : ({ s with tiles := l } : State).destSets = s.destSets := rfl
@[simp] theorem State.setTile_destSets (a : TileAddr) (x : Tile) : (s.setTile a x).destSets = s.destSets := State.tiles_keep_destSets s _
theorem State.tiles_keep_tainted (l : List (Nat × Tile)) : ({ s with tiles := l } : State).tainted = s.tainted := rfl
@[simp] theorem State.setTile_tainted (a : TileAddr) (x : Tile) : (s.setTile a x).tainted = s.tainted := State.tiles_keep_tainted s _
theorem State.tiles_keep_taintSeq (l : List (Nat × Tile)) : ({ s with tiles := l } : State).taintSeq = s.taintSeq := rfl
@[simp] theorem State.setTile_taintSeq (a : TileAddr) (x : Tile) : (s.setTile a x).taintSeq = s.taintSeq := State.tiles_keep_taintSeq s _
theorem State.tiles_keep_windows (l : List (Nat × Tile)) : ({ s with tiles := l } : State).windows = s.windows := rfl
@[simp] theorem State.setTile_windows (a : TileAddr) (x : Tile) : (s.setTile a x).windows = s.windows := State.tiles_keep_windows s _
theorem State.tiles_keep_derived (l : List (Nat × Tile)) : ({ s with tiles := l } : State).derived = s.derived := rfl
@[simp] theorem State.setTile_derived (a : TileAddr) (x : Tile) : (s.setTile a x).derived = s.derived := State.tiles_keep_derived s _
theorem State.tiles_keep_taintNamed (l : List (Nat × Tile)) : ({ s with tiles := l } : State).taintNamed = s.taintNamed := rfl
@[simp] theorem State.setTile_taintNamed (a : TileAddr) (x : Tile) : (s.setTile a x).taintNamed = s.taintNamed := State.tiles_keep_taintNamed s _
theorem State.tiles_keep_bridgeTrain (l : List (Nat × Tile)) : ({ s with tiles := l } : State).bridgeTrain = s.bridgeTrain := rfl
@[simp] theorem State.setTile_bridgeTrain (a : TileAddr) (x : Tile) : (s.setTile a x).bridgeTrain = s.bridgeTrain := State.tiles_keep_bridgeTrain s _
theorem State.tiles_keep_importing (l : List (Nat × Tile)) : ({ s with tiles := l } : State).importing = s.importing := rfl
@[simp] theorem State.setTile_importing (a : TileAddr) (x : Tile) : (s.setTile a x).importing = s.importing := State.tiles_keep_importing s _
theorem State.tiles_keep_stoppedClk (l : List (Nat × Tile)) : ({ s with tiles := l } : State).stoppedClk = s.stoppedClk := rfl
@[simp] theorem State.setTile_stoppedClk (a : TileAddr) (x : Tile) : (s.setTile a x).stoppedClk = s.stoppedClk := State.tiles_keep_stoppedClk s _
theorem State.tiles_keep_refLost (l : List (Nat × Tile)) : ({ s with tiles := l } : State).refLost = s.refLost := rfl
@[simp] theorem State.setTile_refLost (a : TileAddr) (x : Tile) : (s.setTile a x).refLost = s.refLost := State.tiles_keep_refLost s _
theorem State.tiles_keep_dark (l : List (Nat × Tile)) : ({ s with tiles := l } : State).dark = s.dark := rfl
@[simp] theorem State.setTile_dark (a : TileAddr) (x : Tile) : (s.setTile a x).dark = s.dark := State.tiles_keep_dark s _
theorem State.tiles_keep_capBelow (l : List (Nat × Tile)) : ({ s with tiles := l } : State).capBelow = s.capBelow := rfl
@[simp] theorem State.setTile_capBelow (a : TileAddr) (x : Tile) : (s.setTile a x).capBelow = s.capBelow := State.tiles_keep_capBelow s _
theorem State.tiles_keep_limQuiet (l : List (Nat × Tile)) : ({ s with tiles := l } : State).limQuiet = s.limQuiet := rfl
@[simp] theorem State.setTile_limQuiet (a : TileAddr) (x : Tile) : (s.setTile a x).limQuiet = s.limQuiet := State.tiles_keep_limQuiet s _
theorem State.tiles_keep_bankOn (l : List (Nat × Tile)) : ({ s with tiles := l } : State).bankOn = s.bankOn := rfl
@[simp] theorem State.setTile_bankOn (a : TileAddr) (x : Tile) : (s.setTile a x).bankOn = s.bankOn := State.tiles_keep_bankOn s _
theorem State.tiles_keep_coolCap (l : List (Nat × Tile)) : ({ s with tiles := l } : State).coolCap = s.coolCap := rfl
@[simp] theorem State.setTile_coolCap (a : TileAddr) (x : Tile) : (s.setTile a x).coolCap = s.coolCap := State.tiles_keep_coolCap s _
theorem State.tiles_keep_coolLow (l : List (Nat × Tile)) : ({ s with tiles := l } : State).coolLow = s.coolLow := rfl
@[simp] theorem State.setTile_coolLow (a : TileAddr) (x : Tile) : (s.setTile a x).coolLow = s.coolLow := State.tiles_keep_coolLow s _
theorem State.tiles_keep_coolWait (l : List (Nat × Tile)) : ({ s with tiles := l } : State).coolWait = s.coolWait := rfl
@[simp] theorem State.setTile_coolWait (a : TileAddr) (x : Tile) : (s.setTile a x).coolWait = s.coolWait := State.tiles_keep_coolWait s _
theorem State.tiles_keep_sleeping (l : List (Nat × Tile)) : ({ s with tiles := l } : State).sleeping = s.sleeping := rfl
@[simp] theorem State.setTile_sleeping (a : TileAddr) (x : Tile) : (s.setTile a x).sleeping = s.sleeping := State.tiles_keep_sleeping s _
theorem State.tiles_keep_sleptPorts (l : List (Nat × Tile)) : ({ s with tiles := l } : State).sleptPorts = s.sleptPorts := rfl
@[simp] theorem State.setTile_sleptPorts (a : TileAddr) (x : Tile) : (s.setTile a x).sleptPorts = s.sleptPorts := State.tiles_keep_sleptPorts s _
theorem State.tiles_keep_sleptBridge (l : List (Nat × Tile)) : ({ s with tiles := l } : State).sleptBridge = s.sleptBridge := rfl
@[simp] theorem State.setTile_sleptBridge (a : TileAddr) (x : Tile) : (s.setTile a x).sleptBridge = s.sleptBridge := State.tiles_keep_sleptBridge s _
theorem State.tiles_keep_logNext (l : List (Nat × Tile)) : ({ s with tiles := l } : State).logNext = s.logNext := rfl
@[simp] theorem State.setTile_logNext (a : TileAddr) (x : Tile) : (s.setTile a x).logNext = s.logNext := State.tiles_keep_logNext s _
theorem State.tiles_keep_logHeld (l : List (Nat × Tile)) : ({ s with tiles := l } : State).logHeld = s.logHeld := rfl
@[simp] theorem State.setTile_logHeld (a : TileAddr) (x : Tile) : (s.setTile a x).logHeld = s.logHeld := State.tiles_keep_logHeld s _
theorem State.tiles_keep_logOver (l : List (Nat × Tile)) : ({ s with tiles := l } : State).logOver = s.logOver := rfl
@[simp] theorem State.setTile_logOver (a : TileAddr) (x : Tile) : (s.setTile a x).logOver = s.logOver := State.tiles_keep_logOver s _
theorem State.tiles_keep_mlog (l : List (Nat × Tile)) : ({ s with tiles := l } : State).mlog = s.mlog := rfl
@[simp] theorem State.setTile_mlog (a : TileAddr) (x : Tile) : (s.setTile a x).mlog = s.mlog := State.tiles_keep_mlog s _
theorem State.tiles_keep_losses (l : List (Nat × Tile)) : ({ s with tiles := l } : State).losses = s.losses := rfl
@[simp] theorem State.setTile_losses (a : TileAddr) (x : Tile) : (s.setTile a x).losses = s.losses := State.tiles_keep_losses s _
theorem State.tiles_keep_spikeFirst (l : List (Nat × Tile)) : ({ s with tiles := l } : State).spikeFirst = s.spikeFirst := rfl
@[simp] theorem State.setTile_spikeFirst (a : TileAddr) (x : Tile) : (s.setTile a x).spikeFirst = s.spikeFirst := State.tiles_keep_spikeFirst s _
theorem State.tiles_keep_lkoN (l : List (Nat × Tile)) : ({ s with tiles := l } : State).lkoN = s.lkoN := rfl
@[simp] theorem State.setTile_lkoN (a : TileAddr) (x : Tile) : (s.setTile a x).lkoN = s.lkoN := State.tiles_keep_lkoN s _
theorem State.tiles_keep_lkoSpikes (l : List (Nat × Tile)) : ({ s with tiles := l } : State).lkoSpikes = s.lkoSpikes := rfl
@[simp] theorem State.setTile_lkoSpikes (a : TileAddr) (x : Tile) : (s.setTile a x).lkoSpikes = s.lkoSpikes := State.tiles_keep_lkoSpikes s _
theorem State.tiles_keep_stepsSeen (l : List (Nat × Tile)) : ({ s with tiles := l } : State).stepsSeen = s.stepsSeen := rfl
@[simp] theorem State.setTile_stepsSeen (a : TileAddr) (x : Tile) : (s.setTile a x).stepsSeen = s.stepsSeen := State.tiles_keep_stepsSeen s _
theorem State.tiles_keep_flash (l : List (Nat × Tile)) : ({ s with tiles := l } : State).flash = s.flash := rfl
@[simp] theorem State.setTile_flash (a : TileAddr) (x : Tile) : (s.setTile a x).flash = s.flash := State.tiles_keep_flash s _
theorem State.tiles_keep_active (l : List (Nat × Tile)) : ({ s with tiles := l } : State).active = s.active := rfl
@[simp] theorem State.setTile_active (a : TileAddr) (x : Tile) : (s.setTile a x).active = s.active := State.tiles_keep_active s _
theorem State.tiles_keep_fresh (l : List (Nat × Tile)) : ({ s with tiles := l } : State).fresh = s.fresh := rfl
@[simp] theorem State.setTile_fresh (a : TileAddr) (x : Tile) : (s.setTile a x).fresh = s.fresh := State.tiles_keep_fresh s _
theorem State.tiles_keep_toActivate (l : List (Nat × Tile)) : ({ s with tiles := l } : State).toActivate = s.toActivate := rfl
@[simp] theorem State.setTile_toActivate (a : TileAddr) (x : Tile) : (s.setTile a x).toActivate = s.toActivate := State.tiles_keep_toActivate s _
theorem State.tiles_keep_digests (l : List (Nat × Tile)) : ({ s with tiles := l } : State).digests = s.digests := rfl
@[simp] theorem State.setTile_digests (a : TileAddr) (x : Tile) : (s.setTile a x).digests = s.digests := State.tiles_keep_digests s _
theorem State.tiles_keep_mgmtStage (l : List (Nat × Tile)) : ({ s with tiles := l } : State).mgmtStage = s.mgmtStage := rfl
@[simp] theorem State.setTile_mgmtStage (a : TileAddr) (x : Tile) : (s.setTile a x).mgmtStage = s.mgmtStage := State.tiles_keep_mgmtStage s _
theorem State.tiles_keep_cwyFailed (l : List (Nat × Tile)) : ({ s with tiles := l } : State).cwyFailed = s.cwyFailed := rfl
@[simp] theorem State.setTile_cwyFailed (a : TileAddr) (x : Tile) : (s.setTile a x).cwyFailed = s.cwyFailed := State.tiles_keep_cwyFailed s _
theorem State.tiles_keep_measure (l : List (Nat × Tile)) : ({ s with tiles := l } : State).measure = s.measure := rfl
@[simp] theorem State.setTile_measure (a : TileAddr) (x : Tile) : (s.setTile a x).measure = s.measure := State.tiles_keep_measure s _
theorem State.tiles_keep_nonce (l : List (Nat × Tile)) : ({ s with tiles := l } : State).nonce = s.nonce := rfl
@[simp] theorem State.setTile_nonce (a : TileAddr) (x : Tile) : (s.setTile a x).nonce = s.nonce := State.tiles_keep_nonce s _
theorem State.tiles_keep_unlockNext (l : List (Nat × Tile)) : ({ s with tiles := l } : State).unlockNext = s.unlockNext := rfl
@[simp] theorem State.setTile_unlockNext (a : TileAddr) (x : Tile) : (s.setTile a x).unlockNext = s.unlockNext := State.tiles_keep_unlockNext s _
theorem State.tiles_keep_testRef (l : List (Nat × Tile)) : ({ s with tiles := l } : State).testRef = s.testRef := rfl
@[simp] theorem State.setTile_testRef (a : TileAddr) (x : Tile) : (s.setTile a x).testRef = s.testRef := State.tiles_keep_testRef s _
theorem State.tiles_keep_subs (l : List (Nat × Tile)) : ({ s with tiles := l } : State).subs = s.subs := rfl
@[simp] theorem State.setTile_subs (a : TileAddr) (x : Tile) : (s.setTile a x).subs = s.subs := State.tiles_keep_subs s _
theorem State.tiles_keep_mgmtOut (l : List (Nat × Tile)) : ({ s with tiles := l } : State).mgmtOut = s.mgmtOut := rfl
@[simp] theorem State.setTile_mgmtOut (a : TileAddr) (x : Tile) : (s.setTile a x).mgmtOut = s.mgmtOut := State.tiles_keep_mgmtOut s _
theorem State.tiles_keep_doe (l : List (Nat × Tile)) : ({ s with tiles := l } : State).doe = s.doe := rfl
@[simp] theorem State.setTile_doe (a : TileAddr) (x : Tile) : (s.setTile a x).doe = s.doe := State.tiles_keep_doe s _
theorem State.tiles_keep_debugOut (l : List (Nat × Tile)) : ({ s with tiles := l } : State).debugOut = s.debugOut := rfl
@[simp] theorem State.setTile_debugOut (a : TileAddr) (x : Tile) : (s.setTile a x).debugOut = s.debugOut := State.tiles_keep_debugOut s _
theorem State.tiles_keep_free (l : List (Nat × Tile)) : ({ s with tiles := l } : State).free = s.free := rfl
@[simp] theorem State.setTile_free (a : TileAddr) (x : Tile) : (s.setTile a x).free = s.free := State.tiles_keep_free s _
theorem State.tiles_keep_pending (l : List (Nat × Tile)) : ({ s with tiles := l } : State).pending = s.pending := rfl
@[simp] theorem State.setTile_pending (a : TileAddr) (x : Tile) : (s.setTile a x).pending = s.pending := State.tiles_keep_pending s _

/-! ### State.setField changes `fields` alone -/

theorem State.fields_keep_regs (l : List (Nat × FieldSt)) : ({ s with fields := l } : State).regs = s.regs := rfl
@[simp] theorem State.setField_regs (a : FieldAddr) (x : FieldSt) : (s.setField a x).regs = s.regs := State.fields_keep_regs s _
theorem State.fields_keep_risen (l : List (Nat × FieldSt)) : ({ s with fields := l } : State).risen = s.risen := rfl
@[simp] theorem State.setField_risen (a : FieldAddr) (x : FieldSt) : (s.setField a x).risen = s.risen := State.fields_keep_risen s _
theorem State.fields_keep_ahead (l : List (Nat × FieldSt)) : ({ s with fields := l } : State).ahead = s.ahead := rfl
@[simp] theorem State.setField_ahead (a : FieldAddr) (x : FieldSt) : (s.setField a x).ahead = s.ahead := State.fields_keep_ahead s _
theorem State.fields_keep_peaks (l : List (Nat × FieldSt)) : ({ s with fields := l } : State).peaks = s.peaks := rfl
@[simp] theorem State.setField_peaks (a : FieldAddr) (x : FieldSt) : (s.setField a x).peaks = s.peaks := State.fields_keep_peaks s _
theorem State.fields_keep_tiles (l : List (Nat × FieldSt)) : ({ s with fields := l } : State).tiles = s.tiles := rfl
@[simp] theorem State.setField_tiles (a : FieldAddr) (x : FieldSt) : (s.setField a x).tiles = s.tiles := State.fields_keep_tiles s _
theorem State.fields_keep_slotOf (l : List (Nat × FieldSt)) : ({ s with fields := l } : State).slotOf = s.slotOf := rfl
@[simp] theorem State.setField_slotOf (a : FieldAddr) (x : FieldSt) : (s.setField a x).slotOf = s.slotOf := State.fields_keep_slotOf s _
theorem State.fields_keep_recOnce (l : List (Nat × FieldSt)) : ({ s with fields := l } : State).recOnce = s.recOnce := rfl
@[simp] theorem State.setField_recOnce (a : FieldAddr) (x : FieldSt) : (s.setField a x).recOnce = s.recOnce := State.fields_keep_recOnce s _
theorem State.fields_keep_records (l : List (Nat × FieldSt)) : ({ s with fields := l } : State).records = s.records := rfl
@[simp] theorem State.setField_records (a : FieldAddr) (x : FieldSt) : (s.setField a x).records = s.records := State.fields_keep_records s _
theorem State.fields_keep_causes (l : List (Nat × FieldSt)) : ({ s with fields := l } : State).causes = s.causes := rfl
@[simp] theorem State.setField_causes (a : FieldAddr) (x : FieldSt) : (s.setField a x).causes = s.causes := State.fields_keep_causes s _
theorem State.fields_keep_checks (l : List (Nat × FieldSt)) : ({ s with fields := l } : State).checks = s.checks := rfl
@[simp] theorem State.setField_checks (a : FieldAddr) (x : FieldSt) : (s.setField a x).checks = s.checks := State.fields_keep_checks s _
theorem State.fields_keep_retained (l : List (Nat × FieldSt)) : ({ s with fields := l } : State).retained = s.retained := rfl
@[simp] theorem State.setField_retained (a : FieldAddr) (x : FieldSt) : (s.setField a x).retained = s.retained := State.fields_keep_retained s _
theorem State.fields_keep_suspects (l : List (Nat × FieldSt)) : ({ s with fields := l } : State).suspects = s.suspects := rfl
@[simp] theorem State.setField_suspects (a : FieldAddr) (x : FieldSt) : (s.setField a x).suspects = s.suspects := State.fields_keep_suspects s _
theorem State.fields_keep_hostOut (l : List (Nat × FieldSt)) : ({ s with fields := l } : State).hostOut = s.hostOut := rfl
@[simp] theorem State.setField_hostOut (a : FieldAddr) (x : FieldSt) : (s.setField a x).hostOut = s.hostOut := State.fields_keep_hostOut s _
theorem State.fields_keep_hostHeld (l : List (Nat × FieldSt)) : ({ s with fields := l } : State).hostHeld = s.hostHeld := rfl
@[simp] theorem State.setField_hostHeld (a : FieldAddr) (x : FieldSt) : (s.setField a x).hostHeld = s.hostHeld := State.fields_keep_hostHeld s _
theorem State.fields_keep_fwIrq (l : List (Nat × FieldSt)) : ({ s with fields := l } : State).fwIrq = s.fwIrq := rfl
@[simp] theorem State.setField_fwIrq (a : FieldAddr) (x : FieldSt) : (s.setField a x).fwIrq = s.fwIrq := State.fields_keep_fwIrq s _
theorem State.fields_keep_msix (l : List (Nat × FieldSt)) : ({ s with fields := l } : State).msix = s.msix := rfl
@[simp] theorem State.setField_msix (a : FieldAddr) (x : FieldSt) : (s.setField a x).msix = s.msix := State.fields_keep_msix s _
theorem State.fields_keep_d3hot (l : List (Nat × FieldSt)) : ({ s with fields := l } : State).d3hot = s.d3hot := rfl
@[simp] theorem State.setField_d3hot (a : FieldAddr) (x : FieldSt) : (s.setField a x).d3hot = s.d3hot := State.fields_keep_d3hot s _
theorem State.fields_keep_edge (l : List (Nat × FieldSt)) : ({ s with fields := l } : State).edge = s.edge := rfl
@[simp] theorem State.setField_edge (a : FieldAddr) (x : FieldSt) : (s.setField a x).edge = s.edge := State.fields_keep_edge s _
theorem State.fields_keep_edgeMark (l : List (Nat × FieldSt)) : ({ s with fields := l } : State).edgeMark = s.edgeMark := rfl
@[simp] theorem State.setField_edgeMark (a : FieldAddr) (x : FieldSt) : (s.setField a x).edgeMark = s.edgeMark := State.fields_keep_edgeMark s _
theorem State.fields_keep_edgeWb (l : List (Nat × FieldSt)) : ({ s with fields := l } : State).edgeWb = s.edgeWb := rfl
@[simp] theorem State.setField_edgeWb (a : FieldAddr) (x : FieldSt) : (s.setField a x).edgeWb = s.edgeWb := State.fields_keep_edgeWb s _
theorem State.fields_keep_selfRefresh (l : List (Nat × FieldSt)) : ({ s with fields := l } : State).selfRefresh = s.selfRefresh := rfl
@[simp] theorem State.setField_selfRefresh (a : FieldAddr) (x : FieldSt) : (s.setField a x).selfRefresh = s.selfRefresh := State.fields_keep_selfRefresh s _
theorem State.fields_keep_stackHeat (l : List (Nat × FieldSt)) : ({ s with fields := l } : State).stackHeat = s.stackHeat := rfl
@[simp] theorem State.setField_stackHeat (a : FieldAddr) (x : FieldSt) : (s.setField a x).stackHeat = s.stackHeat := State.fields_keep_stackHeat s _
theorem State.fields_keep_scrubAt (l : List (Nat × FieldSt)) : ({ s with fields := l } : State).scrubAt = s.scrubAt := rfl
@[simp] theorem State.setField_scrubAt (a : FieldAddr) (x : FieldSt) : (s.setField a x).scrubAt = s.scrubAt := State.fields_keep_scrubAt s _
theorem State.fields_keep_edgeHeld (l : List (Nat × FieldSt)) : ({ s with fields := l } : State).edgeHeld = s.edgeHeld := rfl
@[simp] theorem State.setField_edgeHeld (a : FieldAddr) (x : FieldSt) : (s.setField a x).edgeHeld = s.edgeHeld := State.fields_keep_edgeHeld s _
theorem State.fields_keep_fopenDue (l : List (Nat × FieldSt)) : ({ s with fields := l } : State).fopenDue = s.fopenDue := rfl
@[simp] theorem State.setField_fopenDue (a : FieldAddr) (x : FieldSt) : (s.setField a x).fopenDue = s.fopenDue := State.fields_keep_fopenDue s _
theorem State.fields_keep_bridgeRx (l : List (Nat × FieldSt)) : ({ s with fields := l } : State).bridgeRx = s.bridgeRx := rfl
@[simp] theorem State.setField_bridgeRx (a : FieldAddr) (x : FieldSt) : (s.setField a x).bridgeRx = s.bridgeRx := State.fields_keep_bridgeRx s _
theorem State.fields_keep_aeArrived (l : List (Nat × FieldSt)) : ({ s with fields := l } : State).aeArrived = s.aeArrived := rfl
@[simp] theorem State.setField_aeArrived (a : FieldAddr) (x : FieldSt) : (s.setField a x).aeArrived = s.aeArrived := State.fields_keep_aeArrived s _
theorem State.fields_keep_ctxs (l : List (Nat × FieldSt)) : ({ s with fields := l } : State).ctxs = s.ctxs := rfl
@[simp] theorem State.setField_ctxs (a : FieldAddr) (x : FieldSt) : (s.setField a x).ctxs = s.ctxs := State.fields_keep_ctxs s _
theorem State.fields_keep_ctxCount (l : List (Nat × FieldSt)) : ({ s with fields := l } : State).ctxCount = s.ctxCount := rfl
@[simp] theorem State.setField_ctxCount (a : FieldAddr) (x : FieldSt) : (s.setField a x).ctxCount = s.ctxCount := State.fields_keep_ctxCount s _
theorem State.fields_keep_queues (l : List (Nat × FieldSt)) : ({ s with fields := l } : State).queues = s.queues := rfl
@[simp] theorem State.setField_queues (a : FieldAddr) (x : FieldSt) : (s.setField a x).queues = s.queues := State.fields_keep_queues s _
theorem State.fields_keep_turns (l : List (Nat × FieldSt)) : ({ s with fields := l } : State).turns = s.turns := rfl
@[simp] theorem State.setField_turns (a : FieldAddr) (x : FieldSt) : (s.setField a x).turns = s.turns := State.fields_keep_turns s _
theorem State.fields_keep_step (l : List (Nat × FieldSt)) : ({ s with fields := l } : State).step = s.step := rfl
@[simp] theorem State.setField_step (a : FieldAddr) (x : FieldSt) : (s.setField a x).step = s.step := State.fields_keep_step s _
theorem State.fields_keep_stepFailed (l : List (Nat × FieldSt)) : ({ s with fields := l } : State).stepFailed = s.stepFailed := rfl
@[simp] theorem State.setField_stepFailed (a : FieldAddr) (x : FieldSt) : (s.setField a x).stepFailed = s.stepFailed := State.fields_keep_stepFailed s _
theorem State.fields_keep_array (l : List (Nat × FieldSt)) : ({ s with fields := l } : State).array = s.array := rfl
@[simp] theorem State.setField_array (a : FieldAddr) (x : FieldSt) : (s.setField a x).array = s.array := State.fields_keep_array s _
theorem State.fields_keep_remoteRoot (l : List (Nat × FieldSt)) : ({ s with fields := l } : State).remoteRoot = s.remoteRoot := rfl
@[simp] theorem State.setField_remoteRoot (a : FieldAddr) (x : FieldSt) : (s.setField a x).remoteRoot = s.remoteRoot := State.fields_keep_remoteRoot s _
theorem State.fields_keep_links (l : List (Nat × FieldSt)) : ({ s with fields := l } : State).links = s.links := rfl
@[simp] theorem State.setField_links (a : FieldAddr) (x : FieldSt) : (s.setField a x).links = s.links := State.fields_keep_links s _
theorem State.fields_keep_wire (l : List (Nat × FieldSt)) : ({ s with fields := l } : State).wire = s.wire := rfl
@[simp] theorem State.setField_wire (a : FieldAddr) (x : FieldSt) : (s.setField a x).wire = s.wire := State.fields_keep_wire s _
theorem State.fields_keep_exchs (l : List (Nat × FieldSt)) : ({ s with fields := l } : State).exchs = s.exchs := rfl
@[simp] theorem State.setField_exchs (a : FieldAddr) (x : FieldSt) : (s.setField a x).exchs = s.exchs := State.fields_keep_exchs s _
theorem State.fields_keep_sigCount (l : List (Nat × FieldSt)) : ({ s with fields := l } : State).sigCount = s.sigCount := rfl
@[simp] theorem State.setField_sigCount (a : FieldAddr) (x : FieldSt) : (s.setField a x).sigCount = s.sigCount := State.fields_keep_sigCount s _
theorem State.fields_keep_destSets (l : List (Nat × FieldSt)) : ({ s with fields := l } : State).destSets = s.destSets := rfl
@[simp] theorem State.setField_destSets (a : FieldAddr) (x : FieldSt) : (s.setField a x).destSets = s.destSets := State.fields_keep_destSets s _
theorem State.fields_keep_tainted (l : List (Nat × FieldSt)) : ({ s with fields := l } : State).tainted = s.tainted := rfl
@[simp] theorem State.setField_tainted (a : FieldAddr) (x : FieldSt) : (s.setField a x).tainted = s.tainted := State.fields_keep_tainted s _
theorem State.fields_keep_taintSeq (l : List (Nat × FieldSt)) : ({ s with fields := l } : State).taintSeq = s.taintSeq := rfl
@[simp] theorem State.setField_taintSeq (a : FieldAddr) (x : FieldSt) : (s.setField a x).taintSeq = s.taintSeq := State.fields_keep_taintSeq s _
theorem State.fields_keep_windows (l : List (Nat × FieldSt)) : ({ s with fields := l } : State).windows = s.windows := rfl
@[simp] theorem State.setField_windows (a : FieldAddr) (x : FieldSt) : (s.setField a x).windows = s.windows := State.fields_keep_windows s _
theorem State.fields_keep_derived (l : List (Nat × FieldSt)) : ({ s with fields := l } : State).derived = s.derived := rfl
@[simp] theorem State.setField_derived (a : FieldAddr) (x : FieldSt) : (s.setField a x).derived = s.derived := State.fields_keep_derived s _
theorem State.fields_keep_taintNamed (l : List (Nat × FieldSt)) : ({ s with fields := l } : State).taintNamed = s.taintNamed := rfl
@[simp] theorem State.setField_taintNamed (a : FieldAddr) (x : FieldSt) : (s.setField a x).taintNamed = s.taintNamed := State.fields_keep_taintNamed s _
theorem State.fields_keep_bridgeTrain (l : List (Nat × FieldSt)) : ({ s with fields := l } : State).bridgeTrain = s.bridgeTrain := rfl
@[simp] theorem State.setField_bridgeTrain (a : FieldAddr) (x : FieldSt) : (s.setField a x).bridgeTrain = s.bridgeTrain := State.fields_keep_bridgeTrain s _
theorem State.fields_keep_importing (l : List (Nat × FieldSt)) : ({ s with fields := l } : State).importing = s.importing := rfl
@[simp] theorem State.setField_importing (a : FieldAddr) (x : FieldSt) : (s.setField a x).importing = s.importing := State.fields_keep_importing s _
theorem State.fields_keep_stoppedClk (l : List (Nat × FieldSt)) : ({ s with fields := l } : State).stoppedClk = s.stoppedClk := rfl
@[simp] theorem State.setField_stoppedClk (a : FieldAddr) (x : FieldSt) : (s.setField a x).stoppedClk = s.stoppedClk := State.fields_keep_stoppedClk s _
theorem State.fields_keep_refLost (l : List (Nat × FieldSt)) : ({ s with fields := l } : State).refLost = s.refLost := rfl
@[simp] theorem State.setField_refLost (a : FieldAddr) (x : FieldSt) : (s.setField a x).refLost = s.refLost := State.fields_keep_refLost s _
theorem State.fields_keep_dark (l : List (Nat × FieldSt)) : ({ s with fields := l } : State).dark = s.dark := rfl
@[simp] theorem State.setField_dark (a : FieldAddr) (x : FieldSt) : (s.setField a x).dark = s.dark := State.fields_keep_dark s _
theorem State.fields_keep_capBelow (l : List (Nat × FieldSt)) : ({ s with fields := l } : State).capBelow = s.capBelow := rfl
@[simp] theorem State.setField_capBelow (a : FieldAddr) (x : FieldSt) : (s.setField a x).capBelow = s.capBelow := State.fields_keep_capBelow s _
theorem State.fields_keep_limQuiet (l : List (Nat × FieldSt)) : ({ s with fields := l } : State).limQuiet = s.limQuiet := rfl
@[simp] theorem State.setField_limQuiet (a : FieldAddr) (x : FieldSt) : (s.setField a x).limQuiet = s.limQuiet := State.fields_keep_limQuiet s _
theorem State.fields_keep_bankOn (l : List (Nat × FieldSt)) : ({ s with fields := l } : State).bankOn = s.bankOn := rfl
@[simp] theorem State.setField_bankOn (a : FieldAddr) (x : FieldSt) : (s.setField a x).bankOn = s.bankOn := State.fields_keep_bankOn s _
theorem State.fields_keep_coolCap (l : List (Nat × FieldSt)) : ({ s with fields := l } : State).coolCap = s.coolCap := rfl
@[simp] theorem State.setField_coolCap (a : FieldAddr) (x : FieldSt) : (s.setField a x).coolCap = s.coolCap := State.fields_keep_coolCap s _
theorem State.fields_keep_coolLow (l : List (Nat × FieldSt)) : ({ s with fields := l } : State).coolLow = s.coolLow := rfl
@[simp] theorem State.setField_coolLow (a : FieldAddr) (x : FieldSt) : (s.setField a x).coolLow = s.coolLow := State.fields_keep_coolLow s _
theorem State.fields_keep_coolWait (l : List (Nat × FieldSt)) : ({ s with fields := l } : State).coolWait = s.coolWait := rfl
@[simp] theorem State.setField_coolWait (a : FieldAddr) (x : FieldSt) : (s.setField a x).coolWait = s.coolWait := State.fields_keep_coolWait s _
theorem State.fields_keep_sleeping (l : List (Nat × FieldSt)) : ({ s with fields := l } : State).sleeping = s.sleeping := rfl
@[simp] theorem State.setField_sleeping (a : FieldAddr) (x : FieldSt) : (s.setField a x).sleeping = s.sleeping := State.fields_keep_sleeping s _
theorem State.fields_keep_sleptPorts (l : List (Nat × FieldSt)) : ({ s with fields := l } : State).sleptPorts = s.sleptPorts := rfl
@[simp] theorem State.setField_sleptPorts (a : FieldAddr) (x : FieldSt) : (s.setField a x).sleptPorts = s.sleptPorts := State.fields_keep_sleptPorts s _
theorem State.fields_keep_sleptBridge (l : List (Nat × FieldSt)) : ({ s with fields := l } : State).sleptBridge = s.sleptBridge := rfl
@[simp] theorem State.setField_sleptBridge (a : FieldAddr) (x : FieldSt) : (s.setField a x).sleptBridge = s.sleptBridge := State.fields_keep_sleptBridge s _
theorem State.fields_keep_logNext (l : List (Nat × FieldSt)) : ({ s with fields := l } : State).logNext = s.logNext := rfl
@[simp] theorem State.setField_logNext (a : FieldAddr) (x : FieldSt) : (s.setField a x).logNext = s.logNext := State.fields_keep_logNext s _
theorem State.fields_keep_logHeld (l : List (Nat × FieldSt)) : ({ s with fields := l } : State).logHeld = s.logHeld := rfl
@[simp] theorem State.setField_logHeld (a : FieldAddr) (x : FieldSt) : (s.setField a x).logHeld = s.logHeld := State.fields_keep_logHeld s _
theorem State.fields_keep_logOver (l : List (Nat × FieldSt)) : ({ s with fields := l } : State).logOver = s.logOver := rfl
@[simp] theorem State.setField_logOver (a : FieldAddr) (x : FieldSt) : (s.setField a x).logOver = s.logOver := State.fields_keep_logOver s _
theorem State.fields_keep_mlog (l : List (Nat × FieldSt)) : ({ s with fields := l } : State).mlog = s.mlog := rfl
@[simp] theorem State.setField_mlog (a : FieldAddr) (x : FieldSt) : (s.setField a x).mlog = s.mlog := State.fields_keep_mlog s _
theorem State.fields_keep_losses (l : List (Nat × FieldSt)) : ({ s with fields := l } : State).losses = s.losses := rfl
@[simp] theorem State.setField_losses (a : FieldAddr) (x : FieldSt) : (s.setField a x).losses = s.losses := State.fields_keep_losses s _
theorem State.fields_keep_spikeFirst (l : List (Nat × FieldSt)) : ({ s with fields := l } : State).spikeFirst = s.spikeFirst := rfl
@[simp] theorem State.setField_spikeFirst (a : FieldAddr) (x : FieldSt) : (s.setField a x).spikeFirst = s.spikeFirst := State.fields_keep_spikeFirst s _
theorem State.fields_keep_lkoN (l : List (Nat × FieldSt)) : ({ s with fields := l } : State).lkoN = s.lkoN := rfl
@[simp] theorem State.setField_lkoN (a : FieldAddr) (x : FieldSt) : (s.setField a x).lkoN = s.lkoN := State.fields_keep_lkoN s _
theorem State.fields_keep_lkoSpikes (l : List (Nat × FieldSt)) : ({ s with fields := l } : State).lkoSpikes = s.lkoSpikes := rfl
@[simp] theorem State.setField_lkoSpikes (a : FieldAddr) (x : FieldSt) : (s.setField a x).lkoSpikes = s.lkoSpikes := State.fields_keep_lkoSpikes s _
theorem State.fields_keep_stepsSeen (l : List (Nat × FieldSt)) : ({ s with fields := l } : State).stepsSeen = s.stepsSeen := rfl
@[simp] theorem State.setField_stepsSeen (a : FieldAddr) (x : FieldSt) : (s.setField a x).stepsSeen = s.stepsSeen := State.fields_keep_stepsSeen s _
theorem State.fields_keep_flash (l : List (Nat × FieldSt)) : ({ s with fields := l } : State).flash = s.flash := rfl
@[simp] theorem State.setField_flash (a : FieldAddr) (x : FieldSt) : (s.setField a x).flash = s.flash := State.fields_keep_flash s _
theorem State.fields_keep_active (l : List (Nat × FieldSt)) : ({ s with fields := l } : State).active = s.active := rfl
@[simp] theorem State.setField_active (a : FieldAddr) (x : FieldSt) : (s.setField a x).active = s.active := State.fields_keep_active s _
theorem State.fields_keep_fresh (l : List (Nat × FieldSt)) : ({ s with fields := l } : State).fresh = s.fresh := rfl
@[simp] theorem State.setField_fresh (a : FieldAddr) (x : FieldSt) : (s.setField a x).fresh = s.fresh := State.fields_keep_fresh s _
theorem State.fields_keep_toActivate (l : List (Nat × FieldSt)) : ({ s with fields := l } : State).toActivate = s.toActivate := rfl
@[simp] theorem State.setField_toActivate (a : FieldAddr) (x : FieldSt) : (s.setField a x).toActivate = s.toActivate := State.fields_keep_toActivate s _
theorem State.fields_keep_digests (l : List (Nat × FieldSt)) : ({ s with fields := l } : State).digests = s.digests := rfl
@[simp] theorem State.setField_digests (a : FieldAddr) (x : FieldSt) : (s.setField a x).digests = s.digests := State.fields_keep_digests s _
theorem State.fields_keep_mgmtStage (l : List (Nat × FieldSt)) : ({ s with fields := l } : State).mgmtStage = s.mgmtStage := rfl
@[simp] theorem State.setField_mgmtStage (a : FieldAddr) (x : FieldSt) : (s.setField a x).mgmtStage = s.mgmtStage := State.fields_keep_mgmtStage s _
theorem State.fields_keep_cwyFailed (l : List (Nat × FieldSt)) : ({ s with fields := l } : State).cwyFailed = s.cwyFailed := rfl
@[simp] theorem State.setField_cwyFailed (a : FieldAddr) (x : FieldSt) : (s.setField a x).cwyFailed = s.cwyFailed := State.fields_keep_cwyFailed s _
theorem State.fields_keep_measure (l : List (Nat × FieldSt)) : ({ s with fields := l } : State).measure = s.measure := rfl
@[simp] theorem State.setField_measure (a : FieldAddr) (x : FieldSt) : (s.setField a x).measure = s.measure := State.fields_keep_measure s _
theorem State.fields_keep_nonce (l : List (Nat × FieldSt)) : ({ s with fields := l } : State).nonce = s.nonce := rfl
@[simp] theorem State.setField_nonce (a : FieldAddr) (x : FieldSt) : (s.setField a x).nonce = s.nonce := State.fields_keep_nonce s _
theorem State.fields_keep_unlockNext (l : List (Nat × FieldSt)) : ({ s with fields := l } : State).unlockNext = s.unlockNext := rfl
@[simp] theorem State.setField_unlockNext (a : FieldAddr) (x : FieldSt) : (s.setField a x).unlockNext = s.unlockNext := State.fields_keep_unlockNext s _
theorem State.fields_keep_testRef (l : List (Nat × FieldSt)) : ({ s with fields := l } : State).testRef = s.testRef := rfl
@[simp] theorem State.setField_testRef (a : FieldAddr) (x : FieldSt) : (s.setField a x).testRef = s.testRef := State.fields_keep_testRef s _
theorem State.fields_keep_subs (l : List (Nat × FieldSt)) : ({ s with fields := l } : State).subs = s.subs := rfl
@[simp] theorem State.setField_subs (a : FieldAddr) (x : FieldSt) : (s.setField a x).subs = s.subs := State.fields_keep_subs s _
theorem State.fields_keep_mgmtOut (l : List (Nat × FieldSt)) : ({ s with fields := l } : State).mgmtOut = s.mgmtOut := rfl
@[simp] theorem State.setField_mgmtOut (a : FieldAddr) (x : FieldSt) : (s.setField a x).mgmtOut = s.mgmtOut := State.fields_keep_mgmtOut s _
theorem State.fields_keep_doe (l : List (Nat × FieldSt)) : ({ s with fields := l } : State).doe = s.doe := rfl
@[simp] theorem State.setField_doe (a : FieldAddr) (x : FieldSt) : (s.setField a x).doe = s.doe := State.fields_keep_doe s _
theorem State.fields_keep_debugOut (l : List (Nat × FieldSt)) : ({ s with fields := l } : State).debugOut = s.debugOut := rfl
@[simp] theorem State.setField_debugOut (a : FieldAddr) (x : FieldSt) : (s.setField a x).debugOut = s.debugOut := State.fields_keep_debugOut s _
theorem State.fields_keep_free (l : List (Nat × FieldSt)) : ({ s with fields := l } : State).free = s.free := rfl
@[simp] theorem State.setField_free (a : FieldAddr) (x : FieldSt) : (s.setField a x).free = s.free := State.fields_keep_free s _
theorem State.fields_keep_pending (l : List (Nat × FieldSt)) : ({ s with fields := l } : State).pending = s.pending := rfl
@[simp] theorem State.setField_pending (a : FieldAddr) (x : FieldSt) : (s.setField a x).pending = s.pending := State.fields_keep_pending s _

/-! ### Keys -/

theorem TileAddr.key_inj {a b : TileAddr} (h : a.key = b.key) : a = b := by
  obtain ⟨⟨p, f⟩, r, c⟩ := a
  obtain ⟨⟨p', f'⟩, r', c'⟩ := b
  simp only [TileAddr.key, FieldAddr.idx, TileAddr.loc] at h
  have h1 : p.val = p'.val := by omega
  have h2 : f.val = f'.val := by omega
  have h3 : r.val = r'.val := by omega
  have h4 : c.val = c'.val := by omega
  simp [Fin.ext h1, Fin.ext h2, Fin.ext h3, Fin.ext h4]

theorem FieldAddr.idx_inj {a b : FieldAddr} (h : a.idx = b.idx) : a = b := by
  obtain ⟨p, f⟩ := a
  obtain ⟨p', f'⟩ := b
  simp only [FieldAddr.idx] at h
  have h1 : p.val = p'.val := by omega
  have h2 : f.val = f'.val := by omega
  simp [Fin.ext h1, Fin.ext h2]

/-! ### Reads after writes -/

theorem State.tile_setTile (a b : TileAddr) (x : Tile) : (s.setTile a x).tile b = if b = a then x else s.tile b := by
  unfold State.tile State.setTile
  rw [look_put]
  by_cases h : b = a
  · simp [h]
  · have : b.key ≠ a.key := fun e => h (TileAddr.key_inj e)
    simp [h, this]

@[simp] theorem State.tile_setTile_same (a : TileAddr) (x : Tile) : (s.setTile a x).tile a = x := by simp [State.tile_setTile]

theorem State.fieldSt_setField (a b : FieldAddr) (x : FieldSt) :
    (s.setField a x).fieldSt b = if b = a then x else s.fieldSt b := by
  unfold State.fieldSt State.setField
  rw [look_put]
  by_cases h : b = a
  · simp [h]
  · have : b.idx ≠ a.idx := fun e => h (FieldAddr.idx_inj e)
    simp [h, this]

@[simp] theorem State.fieldSt_setField_same (a : FieldAddr) (x : FieldSt) : (s.setField a x).fieldSt a = x := by
  simp [State.fieldSt_setField]

theorem State.reg_setReg (p q : Page) (off o : Nat) (v : W64) :
    (s.setReg p off v).reg q o = if regKey q o = regKey p off then v else s.reg q o := by
  unfold State.reg State.setReg
  rw [look_put]

@[simp] theorem State.reg_setReg_same (p : Page) (off : Nat) (v : W64) : (s.setReg p off v).reg p off = v := by
  simp [State.reg_setReg]

@[simp] theorem State.tile_setReg (p : Page) (off : Nat) (v : W64) (a : TileAddr) : (s.setReg p off v).tile a = s.tile a := by
  unfold State.tile; rw [State.setReg_tiles]
@[simp] theorem State.fieldSt_setReg (p : Page) (off : Nat) (v : W64) (a : FieldAddr) :
    (s.setReg p off v).fieldSt a = s.fieldSt a := by unfold State.fieldSt; rw [State.setReg_fields]
@[simp] theorem State.reg_setTile (a : TileAddr) (x : Tile) (p : Page) (off : Nat) : (s.setTile a x).reg p off = s.reg p off := by
  unfold State.reg; rw [State.setTile_regs]
@[simp] theorem State.fieldSt_setTile (a : TileAddr) (x : Tile) (b : FieldAddr) : (s.setTile a x).fieldSt b = s.fieldSt b := by
  unfold State.fieldSt; rw [State.setTile_fields]
@[simp] theorem State.reg_setField (a : FieldAddr) (x : FieldSt) (p : Page) (off : Nat) :
    (s.setField a x).reg p off = s.reg p off := by unfold State.reg; rw [State.setField_regs]
@[simp] theorem State.tile_setField (a : FieldAddr) (x : FieldSt) (b : TileAddr) : (s.setField a x).tile b = s.tile b := by
  unfold State.tile; rw [State.setField_tiles]

/-! ### Shared operations: what each can change -/

variable {s}

/-- Changes of registers and what interrupts send, one after another. -/
theorem OnlyRegs.trans {t u : State} (h : OnlyRegs s t) (k : OnlyRegs t u) : OnlyRegs s u := by
  unfold OnlyRegs at *
  rw [k, h]

theorem OnlyRegs.refl : OnlyRegs s s := rfl

theorem OnlyNoted.trans {t u : State} (h : OnlyNoted s t) (k : OnlyNoted t u) : OnlyNoted s u := by
  unfold OnlyNoted at *
  rw [k, h]

theorem OnlyNoted.refl : OnlyNoted s s := rfl

theorem OnlyRegs.noted {t : State} (h : OnlyRegs s t) : OnlyNoted s t := by
  unfold OnlyRegs at h
  unfold OnlyNoted
  rw [h]

theorem OnlyRegs.foldl {β : Type} (f : State → β → State) (hf : ∀ t x, OnlyRegs t (f t x)) :
    ∀ (l : List β) (t : State), OnlyRegs s t → OnlyRegs s (l.foldl f t)
  | [], _, h => h
  | x :: r, t, h => OnlyRegs.foldl f hf r (f t x) (h.trans (hf t x))

variable (s)

theorem State.regs_only (l : List (Nat × W64)) : OnlyRegs s { s with regs := l } := rfl
theorem State.setReg_only (p : Page) (off : Nat) (v : W64) : OnlyRegs s (s.setReg p off v) := State.regs_only s _
theorem State.setF_only (f : Fld) (i v : Nat) : OnlyRegs s (s.setF f i v) := State.setReg_only s _ _ _
theorem State.count_only (c : Ctr) (i n : Nat) : OnlyRegs s (s.count c i n) := State.setReg_only s _ _ _
theorem State.risen_only (l : List (Nat × W64)) : OnlyRegs s { s with risen := l } := rfl
theorem State.rose_only (p : Page) (off : Nat) (b : W64) : OnlyRegs s (s.rose p off b) := State.risen_only s _
theorem State.raiseBits_only (p : Page) (off : Nat) (b : W64) : OnlyRegs s (s.raiseBits p off b) :=
  (State.setReg_only s _ _ _).trans (State.rose_only _ _ _ _)
theorem State.raiseF_only (f : Fld) (i : Nat) : OnlyRegs s (s.raiseF f i) := State.raiseBits_only s _ _ _
theorem State.setErr_only (t : PageType) (i b : Nat) : OnlyRegs s (s.setErr t i b) := State.raiseBits_only s _ _ _

/-- A late count changes the shadow and LATE. -/
theorem State.countLate_only (c : Ctr) (i n : Nat) (w : Waymark) : OnlyRegs s (s.countLate c i n w) := by
  unfold State.countLate
  dsimp only
  split
  · exact (State.raiseBits_only s _ _ _).trans (State.setReg_only _ _ _ _)
  · exact State.raiseBits_only s _ _ _

theorem State.ahead_only (l : List AheadCount) : OnlyRegs s { s with ahead := l } := rfl

theorem State.countWm_only (c : Ctr) (i n : Nat) (w : Waymark) : OnlyRegs s (s.countWm c i n w) := by
  unfold State.countWm
  split
  · exact State.count_only s c i n
  · split
    · split
      · exact State.count_only s c i n
      · exact State.ahead_only s _
    · split
      · exact State.countLate_only s c i n w
      · exact State.count_only s c i n

/-- The counts held are added where they belong. -/
theorem State.addAhead_only : OnlyRegs s s.addAhead := by
  unfold State.addAhead
  exact OnlyRegs.foldl (fun s (e : AheadCount) => s.countWm e.ctr e.inst e.n e.wm) (fun t e => State.countWm_only t _ _ _ _) _ _
    (State.ahead_only s [])

/-- What is sent to the host goes to one of two lists. -/
theorem State.hostSend_only (o : HostOut) : OnlyRegs s (s.hostSend o) := by
  unfold State.hostSend
  split <;> rfl

theorem State.msix_only (l : List (Nat × MsixEntry)) : OnlyRegs s { s with msix := l } := rfl
theorem State.setMsix_only (v : Nat) (e : MsixEntry) : OnlyRegs s (s.setMsix v e) := State.msix_only s _

theorem State.msixSend_only (v : Nat) : OnlyRegs s (s.msixSend v) := by
  unfold State.msixSend
  dsimp only
  split
  · exact State.setMsix_only s _ _
  · exact State.hostSend_only s _

theorem State.fwIrq_only (l : List Nat) : OnlyRegs s { s with fwIrq := l } := rfl

theorem State.sendIrq_only (p : Page) : OnlyRegs s (s.sendIrq p) := by
  unfold State.sendIrq
  dsimp only
  split <;> split
  · exact (State.msixSend_only s _).trans (State.fwIrq_only _ _)
  · exact State.fwIrq_only _ _
  · exact State.msixSend_only s _
  · exact OnlyRegs.refl

/-- An event at a page changes registers and what its interrupt sends. -/
theorem State.setIrq_only (t : PageType) (i b : Nat) : OnlyRegs s (s.setIrq t i b) := by
  unfold State.setIrq
  dsimp only
  split
  · exact (State.raiseBits_only s _ _ _).trans (State.sendIrq_only _ _)
  · exact State.raiseBits_only s _ _ _

/-- A capture changes registers and what its interrupt sends. -/
theorem State.capture_only (f : Fld) (i : Nat) (q : Option Nat) (vs : List (Nat × W64)) : OnlyRegs s (s.capture f i q vs) := by
  have h := OnlyRegs.foldl (fun s v => s.setReg ⟨f.typ, i⟩ v.1 v.2) (fun t x => State.setReg_only t _ _ _) vs s OnlyRegs.refl
  unfold State.capture
  dsimp only
  split
  · exact (h.trans (State.rose_only _ _ _ _)).trans (State.setIrq_only _ _ _ _)
  · exact h.trans (State.rose_only _ _ _ _)

theorem State.captureFirst_only (f : Fld) (i : Nat) (q : Option Nat) (vs : List (Nat × W64)) :
    OnlyRegs s (s.captureFirst f i q vs) := by
  unfold State.captureFirst
  split
  · exact OnlyRegs.refl
  · exact State.capture_only s f i q vs

theorem State.captureTile_only (f : Fld) (i : Nat) (q : Option Nat) (lo : Nat) (w : W64) (vs : List (Nat × W64)) :
    OnlyRegs s (s.captureTile f i q lo w vs) := by
  unfold State.captureTile
  dsimp only
  split
  · exact OnlyRegs.refl
  · exact State.capture_only s f i q _

theorem State.raise_only (r : ErrRec) : OnlyNoted s (s.raise r) := rfl

theorem State.recOnce_only (l : List (Nat × Waymark)) : OnlyNoted s { s with recOnce := l } := rfl

/-- A record raised is kept once. -/
theorem State.raiseOnce_only (k : Nat) (r : ErrRec) : OnlyNoted s (s.raiseOnce k r) := by
  unfold State.raiseOnce
  split
  · exact OnlyNoted.refl
  · exact (State.raise_only s r).trans (State.recOnce_only _ _)

variable {s}

theorem OnlyRegs.tile {t : State} (h : OnlyRegs s t) (a : TileAddr) : t.tile a = s.tile a := by
  have e : t.tiles = s.tiles := by rw [h]
  unfold State.tile; rw [e]
theorem OnlyRegs.fieldSt {t : State} (h : OnlyRegs s t) (a : FieldAddr) : t.fieldSt a = s.fieldSt a := by
  have e : t.fields = s.fields := by rw [h]
  unfold State.fieldSt; rw [e]
theorem OnlyNoted.tile {t : State} (h : OnlyNoted s t) (a : TileAddr) : t.tile a = s.tile a := by
  have e : t.tiles = s.tiles := by rw [h]
  unfold State.tile; rw [e]
theorem OnlyNoted.fieldSt {t : State} (h : OnlyNoted s t) (a : FieldAddr) : t.fieldSt a = s.fieldSt a := by
  have e : t.fields = s.fields := by rw [h]
  unfold State.fieldSt; rw [e]

variable (s)


@[simp] theorem State.tile_setF (f : Fld) (i v : Nat) (a : TileAddr) : (s.setF f i v).tile a = s.tile a :=
  (State.setF_only s f i v).tile a
@[simp] theorem State.fieldSt_setF (f : Fld) (i v : Nat) (a : FieldAddr) : (s.setF f i v).fieldSt a = s.fieldSt a :=
  (State.setF_only s f i v).fieldSt a
@[simp] theorem State.tile_count (c : Ctr) (i n : Nat) (a : TileAddr) : (s.count c i n).tile a = s.tile a :=
  (State.count_only s c i n).tile a
@[simp] theorem State.fieldSt_count (c : Ctr) (i n : Nat) (a : FieldAddr) : (s.count c i n).fieldSt a = s.fieldSt a :=
  (State.count_only s c i n).fieldSt a
@[simp] theorem State.tile_setErr (t : PageType) (i b : Nat) (a : TileAddr) : (s.setErr t i b).tile a = s.tile a :=
  (State.setErr_only s t i b).tile a
@[simp] theorem State.fieldSt_setErr (t : PageType) (i b : Nat) (a : FieldAddr) : (s.setErr t i b).fieldSt a = s.fieldSt a :=
  (State.setErr_only s t i b).fieldSt a
@[simp] theorem State.tile_countWm (c : Ctr) (i n : Nat) (w : Waymark) (a : TileAddr) : (s.countWm c i n w).tile a = s.tile a :=
  (State.countWm_only s c i n w).tile a
@[simp] theorem State.fieldSt_countWm (c : Ctr) (i n : Nat) (w : Waymark) (a : FieldAddr) : (s.countWm c i n w).fieldSt a = s.fieldSt a :=
  (State.countWm_only s c i n w).fieldSt a
@[simp] theorem State.tile_raiseF (f : Fld) (i : Nat) (a : TileAddr) : (s.raiseF f i).tile a = s.tile a :=
  (State.raiseF_only s f i).tile a
@[simp] theorem State.fieldSt_raiseF (f : Fld) (i : Nat) (a : FieldAddr) : (s.raiseF f i).fieldSt a = s.fieldSt a :=
  (State.raiseF_only s f i).fieldSt a
@[simp] theorem State.tile_captureTile (f : Fld) (i : Nat) (q : Option Nat) (lo : Nat) (w : W64) (vs : List (Nat × W64)) (a : TileAddr) : (s.captureTile f i q lo w vs).tile a = s.tile a :=
  (State.captureTile_only s f i q lo w vs).tile a
@[simp] theorem State.fieldSt_captureTile (f : Fld) (i : Nat) (q : Option Nat) (lo : Nat) (w : W64) (vs : List (Nat × W64)) (a : FieldAddr) : (s.captureTile f i q lo w vs).fieldSt a = s.fieldSt a :=
  (State.captureTile_only s f i q lo w vs).fieldSt a
@[simp] theorem State.tile_hostSend (o : HostOut) (a : TileAddr) : (s.hostSend o).tile a = s.tile a :=
  (State.hostSend_only s o).tile a
@[simp] theorem State.fieldSt_hostSend (o : HostOut) (a : FieldAddr) : (s.hostSend o).fieldSt a = s.fieldSt a :=
  (State.hostSend_only s o).fieldSt a
@[simp] theorem State.tile_setIrq (t : PageType) (i b : Nat) (a : TileAddr) : (s.setIrq t i b).tile a = s.tile a :=
  (State.setIrq_only s t i b).tile a
@[simp] theorem State.fieldSt_setIrq (t : PageType) (i b : Nat) (a : FieldAddr) : (s.setIrq t i b).fieldSt a = s.fieldSt a :=
  (State.setIrq_only s t i b).fieldSt a
@[simp] theorem State.tile_captureFirst (f : Fld) (i : Nat) (q : Option Nat) (vs : List (Nat × W64)) (a : TileAddr) : (s.captureFirst f i q vs).tile a = s.tile a :=
  (State.captureFirst_only s f i q vs).tile a
@[simp] theorem State.fieldSt_captureFirst (f : Fld) (i : Nat) (q : Option Nat) (vs : List (Nat × W64)) (a : FieldAddr) : (s.captureFirst f i q vs).fieldSt a = s.fieldSt a :=
  (State.captureFirst_only s f i q vs).fieldSt a
@[simp] theorem State.tile_raise (r : ErrRec) (a : TileAddr) : (s.raise r).tile a = s.tile a :=
  (State.raise_only s r).tile a
@[simp] theorem State.fieldSt_raise (r : ErrRec) (a : FieldAddr) : (s.raise r).fieldSt a = s.fieldSt a :=
  (State.raise_only s r).fieldSt a
@[simp] theorem State.tile_raiseOnce (k : Nat) (r : ErrRec) (a : TileAddr) : (s.raiseOnce k r).tile a = s.tile a :=
  (State.raiseOnce_only s k r).tile a
@[simp] theorem State.fieldSt_raiseOnce (k : Nat) (r : ErrRec) (a : FieldAddr) : (s.raiseOnce k r).fieldSt a = s.fieldSt a :=
  (State.raiseOnce_only s k r).fieldSt a

end Sys2Proof.Machine
end

