-- ==== Sys2Proof/Laws/Regs.lean ====
section
/-!
SUPPORT. Fields of registers: what a field reads as after the operations that write registers, and which registers those
operations leave alone.
-/
namespace Sys2Proof.Machine

/-! ### Bits -/

theorem wbits_lt {n : Nat} (w : BitVec n) (hi lo : Nat) : wbits w hi lo < 2 ^ (hi + 1 - lo) := Nat.mod_lt _ (Nat.two_pow_pos _)

theorem testBit_wbits {n : Nat} (w : BitVec n) (hi lo i : Nat) :
    (wbits w hi lo).testBit i = (decide (i < hi + 1 - lo) && w.getLsbD (lo + i)) := by
  simp [wbits, natBits, Nat.testBit_mod_two_pow, Nat.testBit_shiftRight, BitVec.getLsbD]

theorem getLsbD_setBits {n : Nat} (w : BitVec n) (hi lo v i : Nat) :
    (setBits w hi lo v).getLsbD i =
      if lo ≤ i ∧ i < hi + 1 ∧ lo < hi + 1 then (decide (i < n) && v.testBit (i - lo)) else w.getLsbD i := by
  simp only [setBits, BitVec.getLsbD_or, BitVec.getLsbD_and, BitVec.getLsbD_not, BitVec.getLsbD_ofNat, Nat.testBit_shiftLeft,
    Nat.testBit_two_pow_sub_one]
  by_cases hn : i < n
  · by_cases h1 : lo ≤ i
    · by_cases h2 : i - lo < hi + 1 - lo
      · have h3 : i < hi + 1 := by omega
        have h4 : lo < hi + 1 := by omega
        simp [hn, h1, h2, h3, h4]
      · have h3 : ¬ (lo ≤ i ∧ i < hi + 1 ∧ lo < hi + 1) := by omega
        rw [if_neg h3]
        simp [hn, h2]
    · simp [hn, h1]
  · have : w.getLsbD i = false := BitVec.getLsbD_of_ge w i (by omega)
    simp [hn, this]

theorem wbits_setBits_same {n : Nat} (w : BitVec n) (hi lo v : Nat) (h : hi < n) (hl : lo ≤ hi) :
    wbits (setBits w hi lo v) hi lo = v % 2 ^ (hi + 1 - lo) := by
  apply Nat.eq_of_testBit_eq
  intro i
  rw [testBit_wbits, getLsbD_setBits, Nat.testBit_mod_two_pow]
  by_cases hi' : i < hi + 1 - lo
  · have h1 : lo ≤ lo + i ∧ lo + i < hi + 1 ∧ lo < hi + 1 := by omega
    have h2 : lo + i < n := by omega
    simp [hi', h1, h2]
  · simp [hi']

theorem wbits_setBits_ne {n : Nat} (w : BitVec n) (hi lo v hi' lo' : Nat) (h : hi < lo' ∨ hi' < lo) :
    wbits (setBits w hi lo v) hi' lo' = wbits w hi' lo' := by
  apply Nat.eq_of_testBit_eq
  intro i
  rw [testBit_wbits, testBit_wbits, getLsbD_setBits]
  by_cases hi1 : i < hi' + 1 - lo'
  · have h1 : ¬ (lo ≤ lo' + i ∧ lo' + i < hi + 1 ∧ lo < hi + 1) := by omega
    rw [if_neg h1]
  · simp [hi1]

/-! ### Register keys -/

theorem PageType.code_inj {t u : PageType} (h : t.code = u.code) : t = u := by
  cases t <;> cases u <;> first | rfl | (exfalso; revert h; decide)

theorem regKey_eq (p q : Page) (a b : Nat) :
    regKey p a = regKey q b ↔ p.typ = q.typ ∧ p.inst % 65536 = q.inst % 65536 ∧ a % 4096 = b % 4096 := by
  constructor
  · intro h
    simp only [regKey] at h
    have h1 : p.typ.code = q.typ.code := by omega
    exact ⟨PageType.code_inj h1, by omega, by omega⟩
  · rintro ⟨h1, h2, h3⟩
    simp only [regKey, h1, h2, h3]

/-! ### Fields after writes -/

variable {s t u : State}

theorem State.getF_setF (f g : Fld) (i j v : Nat) :
    (s.setF f i v).getF g j = if regKey ⟨g.typ, j⟩ g.off = regKey ⟨f.typ, i⟩ f.off then
      wbits (setBits (s.reg ⟨f.typ, i⟩ f.off) f.hi f.lo v) g.hi g.lo else s.getF g j := by
  unfold State.getF State.setF
  rw [State.reg_setReg]
  split <;> rfl

theorem State.getF_setReg (p : Page) (off : Nat) (v : W64) (g : Fld) (j : Nat) :
    (s.setReg p off v).getF g j = if regKey ⟨g.typ, j⟩ g.off = regKey p off then wbits v g.hi g.lo else s.getF g j := by
  unfold State.getF
  rw [State.reg_setReg]
  split <;> rfl

/-- A field reads as written. -/
theorem State.getF_setF_same (f : Fld) (i v : Nat) (h : f.hi < 64) (hl : f.lo ≤ f.hi) :
    (s.setF f i v).getF f i = v % 2 ^ (f.hi + 1 - f.lo) := by
  rw [State.getF_setF, if_pos rfl, wbits_setBits_same _ _ _ _ h hl]


/-! ### Registers that an operation leaves alone -/

variable {ks : List (Page × Nat)}

theorem RegsBut.refl (ks : List (Page × Nat)) (s : State) : RegsBut ks s s := fun _ _ => rfl

theorem RegsBut.trans (h : RegsBut ks s t) (k : RegsBut ks t u) : RegsBut ks s u := fun x hx => (k x hx).trans (h x hx)

theorem RegsBut.mono {ls : List (Page × Nat)} (h : RegsBut ks s t) (hl : ∀ x ∈ ks, x ∈ ls) : RegsBut ls s t :=
  fun x hx => h x (fun y hy => hx y (hl y hy))

theorem RegsBut.reg (h : RegsBut ks s t) (p : Page) (off : Nat) (hk : ∀ x ∈ ks, regKey p off ≠ regKey x.1 x.2) :
    t.reg p off = s.reg p off := h _ hk

theorem RegsBut.getF (h : RegsBut ks s t) (f : Fld) (i : Nat) (hk : ∀ x ∈ ks, regKey ⟨f.typ, i⟩ f.off ≠ regKey x.1 x.2) :
    t.getF f i = s.getF f i := by
  unfold State.getF
  rw [h.reg _ _ hk]

/-- An operation that leaves the register store alone. -/
theorem RegsBut.keep (h : RegsBut ks s t) (e : u.regs = t.regs) : RegsBut ks s u := fun k hk => by rw [e]; exact h k hk

theorem RegsBut.setReg (h : RegsBut ks s t) {p : Page} {off : Nat} {v : W64} (hm : (p, off) ∈ ks) :
    RegsBut ks s (t.setReg p off v) := by
  intro k hk
  unfold State.setReg
  rw [look_put_ne _ _ _ (hk _ hm)]
  exact h k hk

theorem RegsBut.setF (h : RegsBut ks s t) {f : Fld} {i v : Nat} (hm : ((⟨f.typ, i⟩ : Page), f.off) ∈ ks) :
    RegsBut ks s (t.setF f i v) := h.setReg hm

theorem RegsBut.count (h : RegsBut ks s t) {c : Ctr} {i n : Nat} (hm : ((⟨c.typ, i⟩ : Page), c.off) ∈ ks) :
    RegsBut ks s (t.count c i n) := h.setReg hm

theorem State.rose_regs (p : Page) (off : Nat) (b : W64) : (s.rose p off b).regs = s.regs := rfl

theorem RegsBut.raiseBits (h : RegsBut ks s t) {p : Page} {off : Nat} {b : W64} (hm : (p, off) ∈ ks) :
    RegsBut ks s (t.raiseBits p off b) := (h.setReg hm).keep (State.rose_regs _ _ _)

theorem RegsBut.raiseF (h : RegsBut ks s t) {f : Fld} {i : Nat} (hm : ((⟨f.typ, i⟩ : Page), f.off) ∈ ks) :
    RegsBut ks s (t.raiseF f i) := h.raiseBits hm

theorem RegsBut.countLate (h : RegsBut ks s t) {c : Ctr} {i n : Nat} {w : Waymark} (h2 : ((⟨c.typ, i⟩ : Page), 0x048) ∈ ks)
    (h3 : ((⟨c.typ, i⟩ : Page), (ctrSpec c).shadow) ∈ ks) : RegsBut ks s (t.countLate c i n w) := by
  unfold State.countLate
  dsimp only
  split
  · exact (h.raiseBits h2).setReg h3
  · exact h.raiseBits h2

theorem State.ahead_regs (l : List AheadCount) : ({ s with ahead := l } : State).regs = s.regs := rfl

theorem RegsBut.countWm (h : RegsBut ks s t) {c : Ctr} {i n : Nat} {w : Waymark} (h1 : ((⟨c.typ, i⟩ : Page), c.off) ∈ ks)
    (h2 : ((⟨c.typ, i⟩ : Page), 0x048) ∈ ks) (h3 : ((⟨c.typ, i⟩ : Page), (ctrSpec c).shadow) ∈ ks) :
    RegsBut ks s (t.countWm c i n w) := by
  unfold State.countWm
  split
  · exact h.count h1
  · split
    · split
      · exact h.count h1
      · exact h.keep (State.ahead_regs _)
    · split
      · exact h.countLate h2 h3
      · exact h.count h1

theorem State.hostSend_regs (o : HostOut) : (s.hostSend o).regs = s.regs := by unfold State.hostSend; split <;> rfl
theorem State.setMsix_regs (v : Nat) (e : MsixEntry) : (s.setMsix v e).regs = s.regs := rfl
theorem State.msixSend_regs (v : Nat) : (s.msixSend v).regs = s.regs := by
  unfold State.msixSend
  dsimp only
  split
  · rfl
  · exact State.hostSend_regs _
theorem State.fwIrq_regs (l : List Nat) : ({ s with fwIrq := l } : State).regs = s.regs := rfl
theorem State.sendIrq_regs (p : Page) : (s.sendIrq p).regs = s.regs := by
  unfold State.sendIrq
  have h : (if (s.reg p 0x018).getLsbD 11 then s.msixSend (wbits (s.reg p 0x018) 10 0) else s).regs = s.regs := by
    split
    · exact State.msixSend_regs _
    · rfl
  dsimp only
  generalize (if (s.reg p 0x018).getLsbD 11 then s.msixSend (wbits (s.reg p 0x018) 10 0) else s) = x at h ⊢
  split
  · rw [State.fwIrq_regs]; exact h
  · exact h

theorem RegsBut.setIrq (h : RegsBut ks s t) {y : PageType} {i b : Nat} (hm : ((⟨y, i⟩ : Page), 0x038) ∈ ks) :
    RegsBut ks s (t.setIrq y i b) := by
  unfold State.setIrq
  dsimp only
  split
  · exact (h.raiseBits hm).keep (State.sendIrq_regs _)
  · exact h.raiseBits hm

theorem RegsBut.setErr (h : RegsBut ks s t) {y : PageType} {i b : Nat} (hm : ((⟨y, i⟩ : Page), 0x028) ∈ ks) :
    RegsBut ks s (t.setErr y i b) := h.raiseBits hm

theorem RegsBut.raise (h : RegsBut ks s t) {r : ErrRec} : RegsBut ks s (t.raise r) := h
theorem State.recs_regs (l : List (Nat × Waymark)) : ({ s with recOnce := l } : State).regs = s.regs := rfl
theorem RegsBut.raiseOnce (h : RegsBut ks s t) {n : Nat} {r : ErrRec} : RegsBut ks s (t.raiseOnce n r) := by
  unfold State.raiseOnce
  split
  · exact h
  · exact h.keep (State.recs_regs _)

theorem RegsBut.foldl {β : Type} {f : State → β → State} {l : List β} (h : RegsBut ks s t)
    (hf : ∀ u x, x ∈ l → RegsBut ks s u → RegsBut ks s (f u x)) : RegsBut ks s (l.foldl f t) := by
  induction l generalizing t with
  | nil => exact h
  | cons x r ih => exact ih (hf t x (by simp) h) (fun u y hy hu => hf u y (by simp [hy]) hu)

end Sys2Proof.Machine
end

