-- ==== Sys2Proof/Laws/Tile.lean ====
section
/-!
SUPPORT. What firing an instruction does to its tile: task contexts, queues, counters, and the frames of the statements.
-/
namespace Sys2Proof.Machine

/-! ### Task contexts -/

variable {t u v : Tile} {task : Nat}

theorem Tile.task_setTask (t : Tile) (i j : Nat) (c : TaskCtx) : (t.setTask i c).task j = if j = i then c else t.task j :=
  look_put _ _ _ _ _

@[simp] theorem Tile.task_setTask_same (t : Tile) (i : Nat) (c : TaskCtx) : (t.setTask i c).task i = c := look_put_same _ _ _ _

theorem Tile.task_setTask_ne (t : Tile) {i j : Nat} (c : TaskCtx) (h : j ≠ i) : (t.setTask i c).task j = t.task j :=
  look_put_ne _ _ _ h

theorem TaskCtx.reg_setReg (c : TaskCtx) (n m : Nat) (x : W32) : (c.setReg n x).reg m = if m = n then x else c.reg m :=
  look_put _ _ _ _ _

/-- Lanes written in order: those below k of vector n, and no other register. -/
theorem TaskCtx.reg_lanes (n : Nat) (x : Nat → W32) (m : Nat) :
    ∀ (k : Nat) (c : TaskCtx), ((List.range k).foldl (fun c l => c.setReg (16 * n + l) (x l)) c).reg m =
      if 16 * n ≤ m ∧ m < 16 * n + k then x (m - 16 * n) else c.reg m := by
  intro k
  induction k with
  | zero =>
    intro c
    have h : ¬ (16 * n ≤ m ∧ m < 16 * n + 0) := by omega
    simp only [List.range_zero, List.foldl_nil, if_neg h]
  | succ k ih =>
    intro c
    rw [List.range_succ, List.foldl_append]
    simp only [List.foldl_cons, List.foldl_nil]
    rw [TaskCtx.reg_setReg, ih]
    by_cases h : m = 16 * n + k
    · have h2 : 16 * n ≤ m ∧ m < 16 * n + (k + 1) := by omega
      have h3 : m - 16 * n = k := by omega
      rw [if_pos h, if_pos h2, h3]
    · rw [if_neg h]
      by_cases h2 : 16 * n ≤ m ∧ m < 16 * n + k
      · have h3 : 16 * n ≤ m ∧ m < 16 * n + (k + 1) := by omega
        rw [if_pos h2, if_pos h3]
      · have h3 : ¬ (16 * n ≤ m ∧ m < 16 * n + (k + 1)) := by omega
        rw [if_neg h2, if_neg h3]

theorem TaskCtx.reg_setVec (c : TaskCtx) (n : Nat) (x : Nat → W32) (m : Nat) :
    (c.setVec n x).reg m = if 16 * n ≤ m ∧ m < 16 * n + 16 then x (m - 16 * n) else c.reg m := TaskCtx.reg_lanes n x m 16 c

theorem TaskCtx.setVec_only (n : Nat) (x : Nat → W32) (c : TaskCtx) : c.setVec n x = { c with g := (c.setVec n x).g } := by
  unfold TaskCtx.setVec
  generalize List.range 16 = l
  induction l generalizing c with
  | nil => rfl
  | cons k r ih => exact ih (c.setReg (16 * n + k) (x k))

/-! ### The frame of a firing -/

theorem TileFiring.refl (task : Nat) (t : Tile) : TileFiring task t t := ⟨rfl, fun _ _ => rfl, rfl⟩

theorem TileFiring.trans (h : TileFiring task t u) (k : TileFiring task u v) : TileFiring task t v :=
  ⟨by rw [k.tile, h.tile], fun j hj => (k.tasks j hj).trans (h.tasks j hj), by rw [k.context, h.context]⟩

theorem Tile.bump_firing (t : Tile) (n : Nat) : TileFiring task t (t.bump n) := ⟨rfl, fun _ _ => rfl, rfl⟩
theorem Tile.setDq_firing (t : Tile) (n : Nat) (q : List DataTok) : TileFiring task t (t.setDq n q) := ⟨rfl, fun _ _ => rfl, rfl⟩
theorem Tile.setCq_firing (t : Tile) (n : Nat) (q : List CtlTok) : TileFiring task t (t.setCq n q) := ⟨rfl, fun _ _ => rfl, rfl⟩
theorem Tile.setOq_firing (t : Tile) (n : Nat) (q : List OTok) : TileFiring task t (t.setOq n q) := ⟨rfl, fun _ _ => rfl, rfl⟩

/-- An update of the task's own context within the frame. -/
theorem Tile.setTask_firing (t : Tile) (c : TaskCtx) (h : c = { t.task task with g := c.g, p := c.p, cval := c.cval, cdone := c.cdone }) :
    TileFiring task t (t.setTask task c) :=
  ⟨rfl, fun j hj => Tile.task_setTask_ne t c hj, by rw [Tile.task_setTask_same]; exact h⟩

theorem Tile.enqueue_firing (t : Tile) (d : Nat) (x : OTok) : TileFiring task t (t.enqueue d x) := by
  unfold Tile.enqueue
  split
  · exact (Tile.setOq_firing t _ _).trans (Tile.bump_firing _ _)
  · split
    · split
      · exact Tile.setCq_firing t _ _
      · exact TileFiring.refl task t
      · exact TileFiring.refl task t
    · exact TileFiring.refl task t

theorem Tile.dequeue_firing (t : Tile) (code : Nat) : TileFiring task t (t.dequeue code) := by
  unfold Tile.dequeue
  split
  · exact (Tile.setDq_firing t _ _).trans (Tile.bump_firing _ _)
  · split
    · exact (Tile.setCq_firing t _ _).trans (Tile.bump_firing _ _)
    · exact TileFiring.refl task t

theorem Tile.task_enqueue (t : Tile) (d : Nat) (x : OTok) (j : Nat) : (t.enqueue d x).task j = t.task j := by
  unfold Tile.enqueue
  split
  · rfl
  · split
    · split <;> rfl
    · rfl

theorem Tile.task_dequeue (t : Tile) (code j : Nat) : (t.dequeue code).task j = t.task j := by
  unfold Tile.dequeue
  split
  · rfl
  · split <;> rfl

theorem stepCounter_firing (task : Nat) : ∀ (fuel n : Nat) (t : Tile),
    TileFiring task t (stepCounter t task fuel n) ∧ ((stepCounter t task fuel n).task task).g = (t.task task).g ∧
      ((stepCounter t task fuel n).task task).p = (t.task task).p := by
  intro fuel
  induction fuel with
  | zero => exact fun n t => ⟨TileFiring.refl task t, rfl, rfl⟩
  | succ fuel ih =>
    intro n t
    unfold stepCounter
    dsimp only
    split
    · generalize put (fun _ => (0 : BitVec 24)) (t.task task).cval n 0 = cv
      generalize (t.task task).cdone ||| BitVec.ofNat 8 (2 ^ n) = cd
      have h1 : TileFiring task t (t.setTask task { t.task task with cval := cv, cdone := cd }) := Tile.setTask_firing t _ rfl
      have h2 : ((t.setTask task { t.task task with cval := cv, cdone := cd }).task task).g = (t.task task).g := by simp
      have h3 : ((t.setTask task { t.task task with cval := cv, cdone := cd }).task task).p = (t.task task).p := by simp
      generalize t.setTask task { t.task task with cval := cv, cdone := cd } = u at h1 h2 h3 ⊢
      have h4 : ∀ d x, TileFiring task t (u.enqueue d x) ∧ ((u.enqueue d x).task task).g = (t.task task).g ∧
          ((u.enqueue d x).task task).p = (t.task task).p := fun d x =>
        ⟨h1.trans (Tile.enqueue_firing u d x), by rw [Tile.task_enqueue]; exact h2, by rw [Tile.task_enqueue]; exact h3⟩
      have step : ∀ w : Tile, TileFiring task t w ∧ (w.task task).g = (t.task task).g ∧ (w.task task).p = (t.task task).p →
          TileFiring task t (stepCounter w task fuel (n + 1)) ∧ ((stepCounter w task fuel (n + 1)).task task).g = (t.task task).g ∧
            ((stepCounter w task fuel (n + 1)).task task).p = (t.task task).p := fun w hw =>
        ⟨hw.1.trans (ih (n + 1) w).1, (ih (n + 1) w).2.1.trans hw.2.1, (ih (n + 1) w).2.2.trans hw.2.2⟩
      split
      · split
        · exact step _ ⟨h1, h2, h3⟩
        · exact step _ (h4 _ _)
      · split
        · exact ⟨h1, h2, h3⟩
        · exact h4 _ _
    · generalize put (fun _ => (0 : BitVec 24)) (t.task task).cval n ((t.task task).ctr n + 1) = cv
      generalize (t.task task).cdone &&& ~~~BitVec.ofNat 8 (2 ^ n) = cd
      have h1 : TileFiring task t (t.setTask task { t.task task with cval := cv, cdone := cd }) := Tile.setTask_firing t _ rfl
      have h2 : ((t.setTask task { t.task task with cval := cv, cdone := cd }).task task).g = (t.task task).g := by simp
      have h3 : ((t.setTask task { t.task task with cval := cv, cdone := cd }).task task).p = (t.task task).p := by simp
      generalize t.setTask task { t.task task with cval := cv, cdone := cd } = u at h1 h2 h3 ⊢
      split
      · exact ⟨h1.trans (Tile.enqueue_firing u _ _), by rw [Tile.task_enqueue]; exact h2, by rw [Tile.task_enqueue]; exact h3⟩
      · exact ⟨h1, h2, h3⟩

/-! ### The dequeues of a firing -/

theorem Tile.dqOf_dequeue (t : Tile) (code n : Nat) (hn : n < 8) :
    (t.dequeue code).dqOf n = (t.dqOf n).drop (boolNat (code == n)) := by
  unfold Tile.dequeue
  by_cases h : code < 8
  · rw [if_pos h]
    show look (fun _ => []) (put (fun _ => []) t.dq code ((t.dqOf code).drop 1)) n = _
    rw [look_put]
    by_cases e : n = code
    · subst e; simp [boolNat]
    · have e2 : (code == n) = false := by simp; omega
      rw [if_neg e, e2]; rfl
  · have e2 : (code == n) = false := by simp; omega
    rw [if_neg h, e2]
    split <;> rfl

theorem Tile.cqOf_dequeue (t : Tile) (code n : Nat) (hn : n < 4) :
    (t.dequeue code).cqOf n = (t.cqOf n).drop (boolNat (code == 8 + n)) := by
  unfold Tile.dequeue
  by_cases h : code < 8
  · have e2 : (code == 8 + n) = false := by simp; omega
    rw [if_pos h, e2]; rfl
  · rw [if_neg h]
    by_cases h2 : code < 12
    · rw [if_pos h2]
      show look (fun _ => []) (put (fun _ => []) t.cq (code - 8) ((t.cqOf (code - 8)).drop 1)) n = _
      rw [look_put]
      by_cases e : n = code - 8
      · have e2 : (code == 8 + n) = true := by simp; omega
        rw [if_pos e, e2, e]; rfl
      · have e2 : (code == 8 + n) = false := by simp; omega
        rw [if_neg e, e2]; rfl
    · have e2 : (code == 8 + n) = false := by simp; omega
      rw [if_neg h2, e2]; rfl

theorem Tile.oqOf_dequeue (t : Tile) (code n : Nat) : (t.dequeue code).oqOf n = t.oqOf n := by
  unfold Tile.dequeue
  split
  · rfl
  · split <;> rfl

theorem Tile.epoch_dequeue (t : Tile) (code : Nat) : (t.dequeue code).epoch = t.epoch := by
  unfold Tile.dequeue
  split
  · rfl
  · split <;> rfl

/-- What the dequeues of a firing leave: the queues without the heads taken, everything else as it was. -/
theorem Tile.dequeues_facts (t : Tile) (task : Nat) (w : SlotWord) :
    TileFiring task t (t.dequeues w) ∧ (∀ j, (t.dequeues w).task j = t.task j) ∧ (t.dequeues w).epoch = t.epoch ∧
      (∀ n, n < 8 → (t.dequeues w).dqOf n = (t.dqOf n).drop (w.takes n)) ∧
      (∀ n, n < 4 → (t.dequeues w).cqOf n = (t.cqOf n).drop (w.takes (8 + n))) ∧ (∀ n, (t.dequeues w).oqOf n = t.oqOf n) := by
  unfold Tile.dequeues SlotWord.takes
  cases ha : w.deqa <;> cases hb : w.deqb <;>
    simp only [if_true, if_false, Bool.false_eq_true, Bool.true_and, Bool.false_and]
  · exact ⟨TileFiring.refl task t, fun _ => trivial, trivial, fun _ _ => rfl, fun _ _ => rfl, fun _ => trivial⟩
  · refine ⟨Tile.dequeue_firing t _, fun j => Tile.task_dequeue t _ j, Tile.epoch_dequeue t _, fun n hn => ?_, fun n hn => ?_,
      fun n => Tile.oqOf_dequeue t _ n⟩
    · rw [Tile.dqOf_dequeue t _ n hn]; simp [boolNat]
    · rw [Tile.cqOf_dequeue t _ n hn]; simp [boolNat]
  · refine ⟨Tile.dequeue_firing t _, fun j => Tile.task_dequeue t _ j, Tile.epoch_dequeue t _, fun n hn => ?_, fun n hn => ?_,
      fun n => Tile.oqOf_dequeue t _ n⟩
    · rw [Tile.dqOf_dequeue t _ n hn]; simp [boolNat]
    · rw [Tile.cqOf_dequeue t _ n hn]; simp [boolNat]
  · refine ⟨(Tile.dequeue_firing t _).trans (Tile.dequeue_firing _ _), fun j => by rw [Tile.task_dequeue, Tile.task_dequeue],
      by rw [Tile.epoch_dequeue, Tile.epoch_dequeue], fun n hn => ?_, fun n hn => ?_,
      fun n => by rw [Tile.oqOf_dequeue, Tile.oqOf_dequeue]⟩
    · rw [Tile.dqOf_dequeue _ _ n hn, Tile.dqOf_dequeue _ _ n hn, List.drop_drop]
    · rw [Tile.cqOf_dequeue _ _ n hn, Tile.cqOf_dequeue _ _ n hn, List.drop_drop]

/-- Noting the task that issued last stays in the frame of a firing. -/
theorem Tile.issued_firing {task : Nat} (t : Tile) (l : List (Nat × Nat)) : TileFiring task t { t with issued := l } :=
  ⟨rfl, fun _ _ => rfl, rfl⟩

/-- What the dequeues and updates of a firing do: they stay in the frame, leave the registers alone, and set the predicate. -/
theorem Tile.retire_firing (t : Tile) (task : Nat) (w : SlotWord) (cmp : Bool) :
    TileFiring task t (t.retire task w cmp) ∧ ((t.retire task w cmp).task task).g = (t.task task).g ∧
      ((t.retire task w cmp).task task).p = predAfter (t.task task) w cmp := by
  unfold Tile.retire
  dsimp only
  generalize put (fun _ => 3) t.issued (opClass w.opc).key task = l
  have h2 : TileFiring task t (({ t with issued := l } : Tile).dequeues w) ∧
      (({ t with issued := l } : Tile).dequeues w).task task = t.task task :=
    ⟨(Tile.issued_firing t l).trans (Tile.dequeues_facts _ task w).1, (Tile.dequeues_facts _ task w).2.1 task⟩
  generalize ({ t with issued := l } : Tile).dequeues w = u at h2 ⊢
  have hp : predAfter (u.task task) w cmp = predAfter (t.task task) w cmp := by rw [h2.2]
  generalize predAfter (u.task task) w cmp = p at hp ⊢
  have h3 : TileFiring task t (u.setTask task { u.task task with p := p }) := h2.1.trans (Tile.setTask_firing u _ rfl)
  have h4 : ((u.setTask task { u.task task with p := p }).task task).g = (t.task task).g := by simp [h2.2]
  have h5 : ((u.setTask task { u.task task with p := p }).task task).p = predAfter (t.task task) w cmp := by simp [hp]
  generalize u.setTask task { u.task task with p := p } = x at h3 h4 h5 ⊢
  split
  · have k := stepCounter_firing task 8 w.cidx x
    exact ⟨h3.trans k.1, k.2.1.trans h4, k.2.2.trans h5⟩
  · unfold resetCounter
    dsimp only
    refine ⟨h3.trans (Tile.setTask_firing x _ rfl), ?_, ?_⟩
    · simp [h4]
    · simp [h5]
  · exact ⟨h3, h4, h5⟩

/-- A step of a counter takes nothing from the data queues, and enqueues nothing there. -/
theorem Tile.dq_enqueue (t : Tile) (d : Nat) (x : OTok) : (t.enqueue d x).dq = t.dq := by
  unfold Tile.enqueue
  split
  · rfl
  · split
    · split <;> rfl
    · rfl

@[simp] theorem Tile.setTask_dq (t : Tile) (i : Nat) (c : TaskCtx) : (t.setTask i c).dq = t.dq := rfl
@[simp] theorem Tile.setTask_cq (t : Tile) (i : Nat) (c : TaskCtx) : (t.setTask i c).cq = t.cq := rfl
@[simp] theorem Tile.setTask_oq (t : Tile) (i : Nat) (c : TaskCtx) : (t.setTask i c).oq = t.oq := rfl
@[simp] theorem Tile.setTask_epoch (t : Tile) (i : Nat) (c : TaskCtx) : (t.setTask i c).epoch = t.epoch := rfl

theorem stepCounter_dq (task : Nat) : ∀ (fuel n : Nat) (t : Tile), (stepCounter t task fuel n).dq = t.dq := by
  intro fuel
  induction fuel with
  | zero => exact fun _ _ => rfl
  | succ fuel ih =>
    intro n t
    unfold stepCounter
    dsimp only
    split
    · split <;> split <;> simp [ih, Tile.dq_enqueue]
    · split <;> simp [Tile.dq_enqueue]

/-- The data queues after a firing: without the heads taken. -/
theorem Tile.retire_dq (t : Tile) (task : Nat) (w : SlotWord) (cmp : Bool) (n : Nat) (hn : n < 8) :
    (t.retire task w cmp).dqOf n = (t.dqOf n).drop (w.takes n) := by
  unfold Tile.retire resetCounter
  dsimp only
  generalize put (fun _ => 3) t.issued (opClass w.opc).key task = l
  rw [show (t.dqOf n).drop (w.takes n) = (({ t with issued := l } : Tile).dequeues w).dqOf n from
    ((Tile.dequeues_facts { t with issued := l } task w).2.2.2.1 n hn).symm]
  unfold Tile.dqOf
  split
  · rw [stepCounter_dq]; rfl
  · rfl
  · rfl

/-- Control queues, output queues and epoch after a firing that steps no counter. -/
theorem Tile.retire_queues (t : Tile) (task : Nat) (w : SlotWord) (cmp : Bool) (h : w.cop ≠ 1) :
    (∀ n, n < 4 → (t.retire task w cmp).cqOf n = (t.cqOf n).drop (w.takes (8 + n))) ∧
      (∀ n, (t.retire task w cmp).oqOf n = t.oqOf n) ∧ (t.retire task w cmp).epoch = t.epoch := by
  unfold Tile.retire resetCounter
  dsimp only
  generalize put (fun _ => 3) t.issued (opClass w.opc).key task = l
  have d := Tile.dequeues_facts { t with issued := l } task w
  split
  · exact absurd (by assumption) h
  · exact ⟨fun n hn => d.2.2.2.2.1 n hn, fun n => d.2.2.2.2.2 n, d.2.2.1⟩
  · exact ⟨fun n hn => d.2.2.2.2.1 n hn, fun n => d.2.2.2.2.2 n, d.2.2.1⟩

/-! ### Predicates, counters and tokens of a firing -/

theorem getLsbD_bit8 (i n : Nat) : (BitVec.ofNat 8 (2 ^ i)).getLsbD n = decide (n < 8 ∧ n = i) := by
  rw [BitVec.getLsbD_ofNat, Nat.testBit_two_pow]
  by_cases h : n < 8 <;> simp [h, eq_comm]

theorem getLsbD_or_bit (p : BitVec 8) (i n : Nat) (hn : n < 8) : (p ||| BitVec.ofNat 8 (2 ^ i)).getLsbD n = (p.getLsbD n || decide (n = i)) := by
  rw [BitVec.getLsbD_or, getLsbD_bit8]; congr 1; exact decide_eq_decide.mpr ⟨fun h => h.2, fun h => ⟨hn, h⟩⟩
theorem getLsbD_clear_bit (p : BitVec 8) (i n : Nat) (hn : n < 8) : (p &&& ~~~(BitVec.ofNat 8 (2 ^ i))).getLsbD n = (p.getLsbD n && !decide (n = i)) := by
  rw [BitVec.getLsbD_and, BitVec.getLsbD_not, getLsbD_bit8, decide_eq_true hn, Bool.true_and]; congr 2; exact decide_eq_decide.mpr ⟨fun h => h.2, fun h => ⟨hn, h⟩⟩
theorem SlotWord.pidx_lt (w : SlotWord) : w.pidx < 8 := by
  unfold SlotWord.pidx; exact Nat.mod_lt _ (by decide)
theorem SlotWord.cidx_lt (w : SlotWord) : w.cidx < 8 := by
  unfold SlotWord.cidx; exact Nat.mod_lt _ (by decide)
theorem SlotWord.pop_lt (w : SlotWord) : w.pop < 4 := by
  unfold SlotWord.pop; exact Nat.mod_lt _ (by decide)

theorem Tile.retire_reset (t : Tile) (task : Nat) (w : SlotWord) (cmp : Bool) :
    (w.cop = 0 → ((t.retire task w cmp).task task).cval = (t.task task).cval ∧ ((t.retire task w cmp).task task).cdone = (t.task task).cdone) ∧
    (w.cop = 2 → ((t.retire task w cmp).task task).cval = put (fun _ => 0) (t.task task).cval w.cidx 0 ∧
      ((t.retire task w cmp).task task).cdone = (t.task task).cdone &&& ~~~(BitVec.ofNat 8 (2 ^ w.cidx))) := by
  unfold Tile.retire resetCounter
  dsimp only
  generalize put (fun _ => 3) t.issued (opClass w.opc).key task = l
  have d : (({ t with issued := l } : Tile).dequeues w).task task = t.task task :=
    (Tile.dequeues_facts { t with issued := l } task w).2.1 task
  constructor
  · intro h
    rw [h]
    simp only [Tile.task_setTask_same, d, and_self]
  · intro h
    rw [h]
    simp only [Tile.task_setTask_same, d, and_self]

theorem stepCounter_eq (t : Tile) (task fuel n : Nat) : stepCounter t task (fuel + 1) n =
    (if (t.task task).ctr n + 1 = ((t.task task).cfg n).limit then
      let c := { t.task task with cval := put (fun _ => 0) (t.task task).cval n 0, cdone := (t.task task).cdone ||| BitVec.ofNat 8 (2 ^ n) }
      let t1 := t.setTask task c
      let t2 := if ((t.task task).cfg n).tokmode = 0 then t1
        else t1.enqueue ((t.task task).cfg n).tokq.toNat (.ctl { kind := 1, value := BitVec.ofNat 8 n, epoch := t1.epoch })
      if ((t.task task).cfg n).chain then stepCounter t2 task fuel (n + 1) else t2
    else
      let c := { t.task task with cval := put (fun _ => 0) (t.task task).cval n ((t.task task).ctr n + 1), cdone := (t.task task).cdone &&& ~~~(BitVec.ofNat 8 (2 ^ n)) }
      let t1 := t.setTask task c
      if ((t.task task).cfg n).tokmode = 2 then
        t1.enqueue ((t.task task).cfg n).tokq.toNat (.ctl { kind := 0, value := BitVec.ofNat 8 n, epoch := t1.epoch })
      else t1) := rfl

theorem Tile.enqueue_joins (t : Tile) (d : Nat) (x : CtlTok) :
    (d < 8 → (t.enqueue d (.ctl x)).oqOf d = t.oqOf d ++ [.ctl x]) ∧
    (8 ≤ d → d < 12 → (t.enqueue d (.ctl x)).cqOf (d - 8) = t.cqOf (d - 8) ++ [x]) := by
  unfold Tile.enqueue
  constructor
  · intro h
    rw [if_pos h]
    exact look_put_same _ _ _ _
  · intro h h2
    rw [if_neg (by omega), if_pos h2]
    exact look_put_same _ _ _ _

/-! ### Frames of states -/

variable {s s' s'' : State} {a : TileAddr}

theorem OnlyTile.refl (a : TileAddr) (s : State) : OnlyTile a s s := ⟨rfl, fun _ _ => rfl⟩

theorem OnlyTile.trans (h : OnlyTile a s s') (k : OnlyTile a s' s'') : OnlyTile a s s'' :=
  ⟨by rw [k.state, h.state], fun b hb => (k.tiles b hb).trans (h.tiles b hb)⟩

theorem State.setTile_self (s : State) (a : TileAddr) (x : Tile) : s.setTile a x = { s with tiles := (s.setTile a x).tiles } := rfl

theorem State.setTile_only (s : State) (a : TileAddr) (x : Tile) : OnlyTile a s (s.setTile a x) :=
  ⟨State.setTile_self s a x, fun b hb => by rw [State.tile_setTile, if_neg hb]⟩

theorem FiringFrame.refl (a : TileAddr) (task : Nat) (s : State) : FiringFrame a task s s :=
  ⟨OnlyTile.refl a s, TileFiring.refl task _⟩

theorem FiringFrame.trans (h : FiringFrame a task s s') (k : FiringFrame a task s' s'') : FiringFrame a task s s'' :=
  ⟨h.only.trans k.only, h.firing.trans k.firing⟩

/-- A tile written within the frame of a firing. -/
theorem FiringFrame.setTile (h : FiringFrame a task s s') {x : Tile} (k : TileFiring task (s'.tile a) x) :
    FiringFrame a task s (s'.setTile a x) :=
  ⟨h.only.trans (State.setTile_only s' a x), by rw [State.tile_setTile_same]; exact h.firing.trans k⟩

/-- The dequeues and updates of a firing stay in its frame, leave the registers alone, and set the predicate. -/
theorem State.fired_frame (s : State) (a : TileAddr) (task : Nat) (w : SlotWord) (cmp : Bool) :
    FiringFrame a task s (s.setTile a ((s.tile a).retire task w cmp)) ∧
      (∀ n, ((s.setTile a ((s.tile a).retire task w cmp)).taskOf a task).reg n = (s.taskOf a task).reg n) ∧
      ((s.setTile a ((s.tile a).retire task w cmp)).taskOf a task).p = predAfter (s.taskOf a task) w cmp := by
  have h := Tile.retire_firing (s.tile a) task w cmp
  refine ⟨(FiringFrame.refl a task s).setTile h.1, fun n => ?_, ?_⟩
  · unfold State.taskOf TaskCtx.reg
    rw [State.tile_setTile_same, h.2.1]
  · unfold State.taskOf
    rw [State.tile_setTile_same]
    exact h.2.2

/-- A register written by a firing. -/
theorem State.setG_wrote {w : State} (h : FiringFrame a task s w)
    (hr : ∀ n, (w.taskOf a task).reg n = (s.taskOf a task).reg n) (n : Nat) (x : W32) :
    Wrote a task s n x (w.setG a task n x) := by
  refine ⟨?_, fun m hm => ?_, h.setTile (Tile.setTask_firing _ _ rfl)⟩
  · unfold State.taskOf State.setG
    rw [State.tile_setTile_same, Tile.task_setTask_same, TaskCtx.reg_setReg, if_pos rfl]
  · rw [← hr m]
    unfold State.taskOf State.setG
    rw [State.tile_setTile_same, Tile.task_setTask_same, TaskCtx.reg_setReg, if_neg hm]

/-- A vector written by a firing. -/
theorem State.setV_wrote {w : State} (h : FiringFrame a task s w)
    (hr : ∀ n, (w.taskOf a task).reg n = (s.taskOf a task).reg n) (n : Nat) (x : Nat → W32) :
    WroteVec a task s n x (w.setV a task n x) := by
  refine ⟨fun l hl => ?_, fun m hm => ?_, h.setTile (Tile.setTask_firing _ _ ?_)⟩
  · unfold State.taskOf State.setV TaskCtx.lane
    rw [State.tile_setTile_same, Tile.task_setTask_same, TaskCtx.reg_setVec]
    have h1 : 16 * n ≤ 16 * n + l ∧ 16 * n + l < 16 * n + 16 := by omega
    rw [if_pos h1, Nat.add_sub_cancel_left]
  · rw [← hr m]
    unfold State.taskOf State.setV
    rw [State.tile_setTile_same, Tile.task_setTask_same, TaskCtx.reg_setVec]
    have h1 : ¬ (16 * n ≤ m ∧ m < 16 * n + 16) := by omega
    rw [if_neg h1]
  · generalize (w.tile a).task task = c
    rw [TaskCtx.setVec_only n x c]

/-- A token enqueued by a firing joins its destination, within the frame. -/
theorem State.enq_ctl (s : State) (a : TileAddr) (d : Nat) (x : CtlTok) : JoinedCtl a d x s (s.enq a d (.ctl x)) := by
  unfold JoinedCtl State.enq
  rw [State.tile_setTile_same]
  exact Tile.enqueue_joins _ _ _

theorem State.enq_data (s : State) (a : TileAddr) (d : Nat) (x : DataTok) : JoinedData a d x s (s.enq a d (.data x)) := by
  unfold JoinedData State.enq Tile.enqueue
  rw [State.tile_setTile_same]
  intro h
  rw [if_pos h]
  exact look_put_same _ _ _ _

theorem State.enq_frame {w : State} (h : FiringFrame a task s w) (hr : ∀ n, (w.taskOf a task).reg n = (s.taskOf a task).reg n)
    (d : Nat) (x : OTok) : FiringFrame a task s (w.enq a d x) ∧ ∀ n, ((w.enq a d x).taskOf a task).reg n = (s.taskOf a task).reg n := by
  refine ⟨h.setTile (Tile.enqueue_firing _ _ _), fun n => ?_⟩
  rw [← hr n]
  unfold State.taskOf State.enq
  rw [State.tile_setTile_same, Tile.task_enqueue]

/-- What an instruction that may fire answers. -/
theorem State.fire_pos {slot opc : Nat} {cmp : TaskCtx → SlotWord → Bool} {body : SlotWord → Tile → State → State}
    (h : s.canFire a task slot opc) : s.fire a task slot opc cmp body =
      body (s.slotOp a slot) (s.tile a) (s.setTile a ((s.tile a).retire task (s.slotOp a slot) (cmp (s.taskOf a task) (s.slotOp a slot)))) := by
  unfold State.fire State.slotOp State.taskOf
  rw [if_pos h]

/-- An instruction that may not fire leaves the state as it is. -/
theorem State.fire_neg {slot opc : Nat} {cmp : TaskCtx → SlotWord → Bool} {body : SlotWord → Tile → State → State}
    (h : ¬ s.canFire a task slot opc) : s.fire a task slot opc cmp body = s := by
  unfold State.fire
  rw [if_neg h]

end Sys2Proof.Machine
end

