-- ==== Sys2Proof/Laws/Bank.lean ====
section
/-!
SUPPORT. The banks of a tile: bytes after writes, check codes, and reads that meet no event.
-/
namespace Sys2Proof.Machine

variable {t u : Tile} {a : TileAddr} {s w x : State} {ks : List (Page × Nat)}

/-! ### Bytes -/

theorem Tile.byte_setByte (t : Tile) (deep : Bool) (off : Nat) (b : Byte) (d : Bool) (o : Nat) :
    (t.setByte deep off b).byte d o = if d = deep ∧ o = off then b else t.byte d o := by
  unfold Tile.setByte Tile.byte
  cases deep <;> cases d <;> simp [look_put]

theorem Tile.byte_setBytes (deep : Bool) (bs : List Byte) (d : Bool) (o : Nat) :
    ∀ (t : Tile) (off : Nat), (t.setBytes deep off bs).byte d o =
      if d = deep ∧ off ≤ o ∧ o < off + bs.length then bs.getD (o - off) 0 else t.byte d o := by
  induction bs with
  | nil =>
    intro t off
    have h : ¬ (d = deep ∧ off ≤ o ∧ o < off + ([] : List Byte).length) := by simp only [List.length_nil]; omega
    rw [if_neg h]; rfl
  | cons b r ih =>
    intro t off
    unfold Tile.setBytes
    rw [ih, Tile.byte_setByte]
    by_cases hd : d = deep
    · by_cases h1 : off + 1 ≤ o ∧ o < off + 1 + r.length
      · have h2 : off ≤ o ∧ o < off + (b :: r).length := by simp; omega
        have h3 : o - off = (o - (off + 1)) + 1 := by omega
        rw [if_pos ⟨hd, h1⟩, if_pos ⟨hd, h2⟩, h3]; simp
      · rw [if_neg (fun h => h1 h.2)]
        by_cases h4 : o = off
        · have h2 : off ≤ o ∧ o < off + (b :: r).length := by simp; omega
          rw [if_pos ⟨hd, h4⟩, if_pos ⟨hd, h2⟩, h4, Nat.sub_self]; simp
        · have h2 : ¬ (off ≤ o ∧ o < off + (b :: r).length) := by simp; omega
          rw [if_neg (fun h => h4 h.2), if_neg (fun h => h2 h.2)]
    · rw [if_neg (fun h => hd h.1), if_neg (fun h => hd h.1), if_neg (fun h => hd h.1)]

theorem Tile.byte_setMark (t : Tile) (deep : Bool) (off : Nat) (m : EccMark) (d : Bool) (o : Nat) :
    (t.setMark deep off m).byte d o = t.byte d o := rfl

theorem Tile.setBytes_only (deep : Bool) (bs : List Byte) : ∀ (t : Tile) (off : Nat),
    t.setBytes deep off bs = { t with near := (t.setBytes deep off bs).near, deep := (t.setBytes deep off bs).deep } := by
  induction bs with
  | nil => exact fun _ _ => rfl
  | cons b r ih =>
    intro t off
    have h : t.setByte deep off b = { t with near := (t.setByte deep off b).near, deep := (t.setByte deep off b).deep } := by
      unfold Tile.setByte; cases deep <;> rfl
    unfold Tile.setBytes
    generalize t.setByte deep off b = v at h ⊢
    rw [ih v (off + 1), h]

theorem Tile.setMarks_only (deep : Bool) (off : Nat) (l : List Nat) : ∀ t : Tile,
    l.foldl (fun t i => t.setMark deep (off + 8 * i) .good) t =
      { t with ecc := (l.foldl (fun t i => t.setMark deep (off + 8 * i) .good) t).ecc } := by
  induction l with
  | nil => exact fun _ => rfl
  | cons i r ih => exact fun t => ih (t.setMark deep (off + 8 * i) .good)

/-- A write of whole words: the bytes are stored, and of the tile only banks, check codes and pending write-backs change. -/
theorem Tile.storeWords_facts (t : Tile) (deep : Bool) (off : Nat) (bs : List Byte) :
    (∀ d o, (t.storeWords deep off bs).byte d o =
      if d = deep ∧ off ≤ o ∧ o < off + bs.length then bs.getD (o - off) 0 else t.byte d o) ∧
    t.storeWords deep off bs = { t with
      near := (t.storeWords deep off bs).near, deep := (t.storeWords deep off bs).deep
      ecc := (t.storeWords deep off bs).ecc, wb := (t.storeWords deep off bs).wb } := by
  have h1 := Tile.byte_setBytes deep bs (off := off) (t := t)
  have h2 := Tile.setBytes_only deep bs t off
  unfold Tile.storeWords
  dsimp only
  generalize t.setBytes deep off bs = v at h1 h2 ⊢
  have h3 := Tile.setMarks_only deep off (List.range (bs.length / 8)) v
  generalize (List.range (bs.length / 8)).foldl (fun t i => t.setMark deep (off + 8 * i) .good) v = z at h3 ⊢
  constructor
  · intro d o
    rw [← h1]
    unfold Tile.byte
    rw [h3]
  · rw [h3, h2]

theorem leNat_byte : ∀ (l : List Byte) (i : Nat), leNat l / 2 ^ (8 * i) % 2 ^ 8 = (l.getD i 0).toNat := by
  intro l
  induction l with
  | nil => intro i; simp [leNat]
  | cons b r ih =>
    intro i
    cases i with
    | zero =>
      have := b.isLt
      simp only [leNat, Nat.mul_zero, Nat.pow_zero, Nat.div_one, List.getD_cons_zero]
      omega
    | succ i =>
      rw [List.getD_cons_succ, ← ih i]
      have hb := b.isLt
      rw [show 8 * (i + 1) = 8 + 8 * i by omega, Nat.pow_add, ← Nat.div_div_eq_div_mul]
      have : leNat (b :: r) / 2 ^ 8 = leNat r := by simp only [leNat]; omega
      rw [this]

theorem leNat_lt : ∀ l : List Byte, leNat l < 2 ^ (8 * l.length) := by
  intro l
  induction l with
  | nil => simp [leNat]
  | cons b r ih =>
    have hb := b.isLt
    simp only [leNat, List.length_cons]
    rw [show 8 * (r.length + 1) = 8 + 8 * r.length by omega, Nat.pow_add]
    omega

/-! ### Frames -/

theorem TileAndRegs.refl (a : TileAddr) (ks : List (Page × Nat)) (s : State) : TileAndRegs a ks s s :=
  ⟨rfl, fun _ _ => rfl, RegsBut.refl ks s⟩

theorem TileAndRegs.trans (h : TileAndRegs a ks s w) (k : TileAndRegs a ks w x) : TileAndRegs a ks s x :=
  ⟨by rw [k.state, h.state], fun b hb => (k.tiles b hb).trans (h.tiles b hb), h.regs.trans k.regs⟩

theorem OnlyTile.andRegs (h : OnlyTile a s w) (ks : List (Page × Nat)) : TileAndRegs a ks s w :=
  ⟨by rw [h.state], h.tiles, (RegsBut.refl ks s).keep (by rw [h.state])⟩

theorem State.setTile_andRegs (s : State) (a : TileAddr) (b : Tile) (ks : List (Page × Nat)) : TileAndRegs a ks s (s.setTile a b) :=
  (State.setTile_only s a b).andRegs ks

theorem State.regs_only' (s : State) (l : List (Nat × W64)) : ({ s with regs := l } : State).tiles = s.tiles := rfl

theorem State.count_andRegs (s : State) (a : TileAddr) (c : Ctr) (i n : Nat) (h : ((⟨c.typ, i⟩ : Page), c.off) ∈ ks) :
    TileAndRegs a ks s (s.count c i n) :=
  ⟨rfl, fun b _ => State.tile_count s c i n b, (RegsBut.refl ks s).count h⟩

theorem State.countBank_andRegs (s : State) (a b : TileAddr) (deep : Bool) (n : Nat) :
    TileAndRegs b (bankCounters a.fld) s (s.countBank a deep n) := by
  unfold State.countBank
  cases deep
  · exact State.count_andRegs s b _ _ _ (by simp [bankCounters]; left; rfl)
  · exact State.count_andRegs s b _ _ _ (by simp [bankCounters]; right; rfl)

theorem State.countBank_tile (s : State) (a : TileAddr) (deep : Bool) (n : Nat) : (s.countBank a deep n).tile a = s.tile a :=
  State.tile_count _ _ _ _ _

/-! ### Reads that meet no event -/

theorem State.flushRow_clean (s : State) (a : TileAddr) (deep : Bool) (row : Nat)
    (h : ∀ e ∈ (s.tile a).gather, ¬ (e.deep = deep ∧ e.row = row)) : s.flushRow a deep row = s := by
  unfold State.flushRow
  have hn : (s.tile a).gather.find? (fun (e : GatherEnt) => e.deep == deep && e.row == row) = none := by
    rw [List.find?_eq_none]
    intro e he
    simp only [Bool.and_eq_true, beq_iff_eq]
    exact h e he
  rw [hn]

theorem foldl_const {α β : Type} (f : α → β → α) (z : α) (l : List β) (h : ∀ y ∈ l, f z y = z) : l.foldl f z = z := by
  induction l with
  | nil => rfl
  | cons y r ih => rw [List.foldl_cons, h y (by simp)]; exact ih (fun q hq => h q (by simp [hq]))

/-- The four words of a clean row decode with no event: only the byte count changes. -/
theorem State.decodeRow_clean (s : State) (a : TileAddr) (deep : Bool) (row : Nat) (used : List Nat) (src : UeSource) (task : Nat)
    (h : (s.tile a).rowClean deep row) : s.decodeRow a deep row used src task = (s.countBank a deep 32, .clean) := by
  unfold State.decodeRow
  have ht := State.countBank_tile s a deep 32
  dsimp only
  generalize s.countBank a deep 32 = v at ht ⊢
  refine foldl_const _ _ _ (fun k hk => ?_)
  dsimp only
  rw [ht, h.2 k (by simpa using hk)]

/-- A clean row is read with no event: only the byte count changes. -/
theorem State.readRow_clean (s : State) (a : TileAddr) (deep : Bool) (row : Nat) (used : List Nat) (src : UeSource) (task : Nat)
    (h : (s.tile a).rowClean deep row) : s.readRow a deep row used src task = (s.countBank a deep 32, .clean) := by
  unfold State.readRow
  rw [State.flushRow_clean s a deep row h.1, State.decodeRow_clean s a deep row used src task h]

/-- A read over clean rows: only the byte counts change. -/
theorem State.readBytes_clean (s : State) (a : TileAddr) (deep : Bool) (used : List Nat) (src : UeSource) (task : Nat)
    (h : ∀ r ∈ rowsOf used, (s.tile a).rowClean deep r) :
    (s.readBytes a deep used src task).2 = .clean ∧
      TileAndRegs a (bankCounters a.fld) s (s.readBytes a deep used src task).1 ∧
      (s.readBytes a deep used src task).1.tile a = s.tile a := by
  have key : ∀ (l : List Nat) (v : State), (∀ r ∈ l, (v.tile a).rowClean deep r) →
      let z := l.foldl (fun (acc : State × ReadEnd) row =>
        if acc.2 = .uncorrectable then acc
        else
          let x := acc.1.readRow a deep row (used.filter (fun u => u / 32 == row)) src task
          (x.1, if x.2 = .clean then acc.2 else x.2)) (v, ReadEnd.clean)
      z.2 = .clean ∧ TileAndRegs a (bankCounters a.fld) v z.1 ∧ z.1.tile a = v.tile a := by
    intro l
    induction l with
    | nil => exact fun v _ => ⟨rfl, TileAndRegs.refl _ _ _, rfl⟩
    | cons r l ih =>
      intro v hv
      simp only [List.foldl_cons]
      rw [State.readRow_clean v a deep r _ src task (hv r (by simp))]
      have ht := State.countBank_tile v a deep 32
      have hf := State.countBank_andRegs v a a deep 32
      generalize v.countBank a deep 32 = y at ht hf ⊢
      simp only [if_neg (show ¬ ReadEnd.clean = ReadEnd.uncorrectable by simp), if_true]
      have k := ih y (fun q hq => by rw [ht]; exact hv q (by simp [hq]))
      exact ⟨k.1, hf.trans k.2.1, k.2.2.trans ht⟩
  have k := key (rowsOf used) s h
  unfold State.readBytes
  dsimp only at k ⊢
  generalize (rowsOf used).foldl _ (s, ReadEnd.clean) = z at k ⊢
  rw [if_neg (by rw [k.1]; simp)]
  exact k

/-! ### Writes that meet no event -/

theorem Tile.setMarks_good (deep : Bool) (off : Nat) (d : Bool) (o : Nat) (l : List Nat) : ∀ t : Tile, t.mark d o = .good →
    (l.foldl (fun t i => t.setMark deep (off + 8 * i) .good) t).mark d o = .good := by
  induction l with
  | nil => exact fun _ h => h
  | cons i r ih =>
    intro t h
    refine ih _ ?_
    unfold Tile.setMark Tile.mark at *
    dsimp only
    rw [look_put]
    split
    · rfl
    · exact h

theorem Tile.storeWords_good (t : Tile) (deep : Bool) (off : Nat) (bs : List Byte) (d : Bool) (o : Nat) (h : t.mark d o = .good) :
    (t.storeWords deep off bs).mark d o = .good := by
  have h2 := Tile.setBytes_only deep bs t off
  unfold Tile.storeWords
  dsimp only
  have h1 : (t.setBytes deep off bs).mark d o = .good := by
    unfold Tile.mark at *; rw [h2]; exact h
  exact Tile.setMarks_good deep off d o _ _ h1

theorem Tile.storeWords_gather (t : Tile) (deep : Bool) (off : Nat) (bs : List Byte) :
    (t.storeWords deep off bs).gather = t.gather := by rw [(Tile.storeWords_facts t deep off bs).2]

/-- A row that is clean stays so over a write of whole words. -/
theorem Tile.storeWords_clean (t : Tile) (deep : Bool) (off : Nat) (bs : List Byte) (d : Bool) (r : Nat) (h : t.rowClean d r) :
    (t.storeWords deep off bs).rowClean d r :=
  ⟨by rw [Tile.storeWords_gather]; exact h.1, fun k hk => Tile.storeWords_good _ _ _ _ _ _ (h.2 k hk)⟩

/-- One row written whole, with no gather entry for it. -/
theorem State.writeRow_clean (s : State) (a : TileAddr) (deep : Bool) (off : Nat) (bs : List Byte) (hl : bs.length = 32)
    (h : ∀ e ∈ (s.tile a).gather, ¬ (e.deep = deep ∧ e.row = off / 32)) :
    TileAndRegs a (bankCounters a.fld) s (s.writeRows a deep off bs) ∧
      (s.writeRows a deep off bs).tile a = (s.tile a).storeWords deep off bs := by
  unfold State.writeRows
  rw [hl, show List.range ((32 + 31) / 32) = [0] from rfl]
  simp only [List.foldl_cons, List.foldl_nil, Nat.add_zero]
  rw [State.flushRow_clean s a deep _ h]
  refine ⟨(State.setTile_andRegs s a _ _).trans (State.countBank_andRegs _ a a deep _), ?_⟩
  rw [State.countBank_tile, State.tile_setTile_same]

/-- A byte merged into a clean row: that byte changes, and no other. -/
theorem State.mergeByte_clean (s : State) (a : TileAddr) (deep : Bool) (off : Nat) (b : Byte)
    (h : (s.tile a).rowClean deep (off / 32)) :
    TileAndRegs a (bankCounters a.fld) s (s.mergeByte a deep off b) ∧
      (∀ d o, ((s.mergeByte a deep off b).tile a).byte d o = if d = deep ∧ o = off then b else (s.tile a).byte d o) ∧
      (∀ d r, (s.tile a).rowClean d r → ((s.mergeByte a deep off b).tile a).rowClean d r) ∧
      (s.mergeByte a deep off b).tile a = { s.tile a with
        near := ((s.mergeByte a deep off b).tile a).near, deep := ((s.mergeByte a deep off b).tile a).deep
        ecc := ((s.mergeByte a deep off b).tile a).ecc, wb := ((s.mergeByte a deep off b).tile a).wb } := by
  have hm : (s.tile a).mark deep off = .good := by
    have := h.2 (off / 8 % 4) (by omega)
    unfold Tile.mark wordKey at this ⊢
    rw [show (32 * (off / 32) + 8 * (off / 8 % 4)) / 8 = off / 8 by omega] at this
    exact this
  unfold State.mergeByte
  rw [State.flushRow_clean s a deep _ h.1, State.decodeRow_clean s a deep _ _ _ _ h]
  dsimp only
  rw [State.countBank_tile, hm]
  rw [if_neg (by simp)]
  have f := Tile.storeWords_facts (s.tile a) deep (off / 8 * 8)
    (((s.tile a).bytes deep (off / 8 * 8) 8).mapIdx (fun i o => if off / 8 * 8 + i == off then b else o))
  have g := Tile.storeWords_clean (s.tile a) deep (off / 8 * 8)
    (((s.tile a).bytes deep (off / 8 * 8) 8).mapIdx (fun i o => if off / 8 * 8 + i == off then b else o))
  refine ⟨((State.countBank_andRegs s a a deep 32).trans (State.setTile_andRegs _ a _ _)).trans (State.countBank_andRegs _ a a deep 8),
    ?_, ?_, ?_⟩
  · intro d o
    rw [State.countBank_tile, State.tile_setTile_same, f.1]
    have hlen : (((s.tile a).bytes deep (off / 8 * 8) 8).mapIdx (fun i o => if off / 8 * 8 + i == off then b else o)).length = 8 := by
      simp [Tile.bytes]
    rw [hlen]
    by_cases hd : d = deep
    · by_cases hr : off / 8 * 8 ≤ o ∧ o < off / 8 * 8 + 8
      · rw [if_pos ⟨hd, hr⟩, List.getD_eq_getElem?_getD, List.getElem?_mapIdx]
        have hg : ((s.tile a).bytes deep (off / 8 * 8) 8)[o - off / 8 * 8]? = some ((s.tile a).byte deep o) := by
          unfold Tile.bytes
          rw [List.getElem?_map, List.getElem?_range (by omega)]
          simp only [Option.map_some]
          rw [show off / 8 * 8 + (o - off / 8 * 8) = o by omega]
        rw [hg]
        simp only [Option.map_some, Option.getD_some, beq_iff_eq]
        rw [show off / 8 * 8 + (o - off / 8 * 8) = o by omega]
        by_cases he : o = off
        · rw [if_pos he, if_pos ⟨hd, he⟩]
        · rw [if_neg he, if_neg (fun x => he x.2), hd]
      · rw [if_neg (fun x => hr x.2), if_neg (fun x => hr (by omega))]
    · rw [if_neg (fun x => hd x.1), if_neg (fun x => hd x.1)]
  · intro d r hr
    rw [State.countBank_tile, State.tile_setTile_same]
    exact g d r hr
  · rw [State.countBank_tile, State.tile_setTile_same]
    exact f.2

end Sys2Proof.Machine
end

