-- ==== Sys2Proof/Laws/Changes.lean ====
section
/-!
SUPPORT. What each part of a change may touch (`Changes` of Safety): the primitive updates, folds and choices. Laws/Changes*.lean
hold one lemma for each operation, named after it: all that it can change.
-/
namespace Sys2Proof.Machine

/-- Every part of the one list is in the other. -/
abbrev Part.Sub (a b : List Part) : Prop := ∀ p ∈ a, p ∈ b

theorem Part.Sub.via {a b l : List Part} (k : Part.Sub b l) (h : Part.Sub a b) : Part.Sub a l := fun p hp => k p (h p hp)

theorem Part.Sub.mem {a l : List Part} {p : Part} (k : Part.Sub a l) (h : p ∈ a) : p ∈ l := k p h

theorem Part.mem_elem {a : List Part} {p : Part} (h : a.elem p = true) : p ∈ a := List.mem_of_elem_eq_true h

theorem Part.mem_pages (y : PageType) : Part.page y ∈ allPages := by cases y <;> decide

variable {l : List Part} {s t u : State}

theorem Changes.refl (l : List Part) (s : State) : Changes l s s := fun p _ => by cases p <;> first | rfl | exact fun _ _ => rfl

theorem Part.same_trans {p : Part} (h : p.same s t) (k : p.same t u) : p.same s u := by
  cases p <;> first | exact Eq.trans k h | exact fun i o => (k i o).trans (h i o)

theorem Changes.trans (h : Changes l s t) (k : Changes l t u) : Changes l s u := fun p hp => Part.same_trans (h p hp) (k p hp)

theorem Changes.mono {m : List Part} (h : Changes l s t) (k : Part.Sub l m) : Changes m s t := fun p hp => h p (fun x => hp (k p x))

theorem Changes.reg (h : Changes l s t) {p : Page} (hp : Part.page p.typ ∉ l) (off : Nat) : t.reg p off = s.reg p off := h _ hp p.inst off

theorem Changes.getF (h : Changes l s t) {f : Fld} (hp : Part.page f.typ ∉ l) (i : Nat) : t.getF f i = s.getF f i := by
  unfold State.getF
  rw [h.reg (p := ⟨f.typ, i⟩) hp]

theorem Changes.getC (h : Changes l s t) {c : Ctr} (hp : Part.page c.typ ∉ l) (i : Nat) : t.getC c i = s.getC c i := by
  unfold State.getC
  rw [h.reg (p := ⟨c.typ, i⟩) hp]

theorem Changes.tile (h : Changes l s t) (hp : Part.tiles ∉ l) (a : TileAddr) : t.tile a = s.tile a := by
  unfold State.tile
  rw [show t.tiles = s.tiles from h _ hp]

theorem Changes.fieldSt (h : Changes l s t) (hp : Part.fields ∉ l) (a : FieldAddr) : t.fieldSt a = s.fieldSt a := by
  unfold State.fieldSt
  rw [show t.fields = s.fields from h _ hp]

/-! ### Primitive updates -/

theorem State.setReg_changes {p : Page} {off : Nat} {v : W64} (h : Changes l s u) (hm : Part.page p.typ ∈ l) :
    Changes l s (u.setReg p off v) := by
  refine h.trans (fun q hq => ?_)
  cases q with
  | page y =>
    intro i o
    rw [State.reg_setReg, if_neg]
    intro e
    have k : ((⟨y, i⟩ : Page).typ.code * 65536 + i % 65536) * 4096 + o % 4096 = (p.typ.code * 65536 + p.inst % 65536) * 4096 + off % 4096 := e
    have c : y.code = p.typ.code := by dsimp only at k; omega
    have z : y = p.typ := by revert c; cases y <;> cases p.typ <;> first | (intro _; rfl) | (intro c; exact absurd c (by decide))
    exact hq (z ▸ hm)
  | _ => rfl

/-- An update of the register store itself. -/
theorem Changes.upd_regs {v : List (Nat × W64)} (h : Changes l s u) (hl : Part.Sub allPages l := by first | assumption | exact Part.Sub.via (by assumption) (by decide +kernel)) : Changes l s { u with regs := v } := by
  refine h.trans (fun q hq => ?_)
  cases q with
  | page y => exact absurd (hl _ (Part.mem_pages y)) hq
  | _ => rfl

theorem Changes.upd_active_fresh_toActivate {v0 : List (Nat × Nat)} {v1 : List (Nat × Nat)} {v2 : List Nat} (h : Changes l s u)
    (hl : Part.Sub [.active, .fresh, .toActivate] l := by first | assumption | exact Part.Sub.via (by assumption) (by decide +kernel)) :
    Changes l s { u with active := v0, fresh := v1, toActivate := v2 } := by
  refine h.trans (fun q hq => ?_)
  cases q with
  | active => exact absurd (hl _ (by decide)) hq
  | fresh => exact absurd (hl _ (by decide)) hq
  | toActivate => exact absurd (hl _ (by decide)) hq
  | page y => exact fun _ _ => rfl
  | _ => rfl

theorem Changes.upd_aeArrived {v0 : List (Nat × Bool)} (h : Changes l s u)
    (hl : Part.Sub [.aeArrived] l := by first | assumption | exact Part.Sub.via (by assumption) (by decide +kernel)) :
    Changes l s { u with aeArrived := v0 } := by
  refine h.trans (fun q hq => ?_)
  cases q with
  | aeArrived => exact absurd (hl _ (by decide)) hq
  | page y => exact fun _ _ => rfl
  | _ => rfl

theorem Changes.upd_aeArrived_remoteRoot {v0 : List (Nat × Bool)} {v1 : List (Nat × Bool)} (h : Changes l s u)
    (hl : Part.Sub [.aeArrived, .remoteRoot] l := by first | assumption | exact Part.Sub.via (by assumption) (by decide +kernel)) :
    Changes l s { u with aeArrived := v0, remoteRoot := v1 } := by
  refine h.trans (fun q hq => ?_)
  cases q with
  | aeArrived => exact absurd (hl _ (by decide)) hq
  | remoteRoot => exact absurd (hl _ (by decide)) hq
  | page y => exact fun _ _ => rfl
  | _ => rfl

theorem Changes.upd_ahead {v0 : List AheadCount} (h : Changes l s u)
    (hl : Part.Sub [.ahead] l := by first | assumption | exact Part.Sub.via (by assumption) (by decide +kernel)) :
    Changes l s { u with ahead := v0 } := by
  refine h.trans (fun q hq => ?_)
  cases q with
  | ahead => exact absurd (hl _ (by decide)) hq
  | page y => exact fun _ _ => rfl
  | _ => rfl

theorem Changes.upd_array {v0 : List (Nat × ArrayEng)} (h : Changes l s u)
    (hl : Part.Sub [.array] l := by first | assumption | exact Part.Sub.via (by assumption) (by decide +kernel)) :
    Changes l s { u with array := v0 } := by
  refine h.trans (fun q hq => ?_)
  cases q with
  | array => exact absurd (hl _ (by decide)) hq
  | page y => exact fun _ _ => rfl
  | _ => rfl

theorem Changes.upd_bankOn {v0 : Nat} (h : Changes l s u)
    (hl : Part.Sub [.bankOn] l := by first | assumption | exact Part.Sub.via (by assumption) (by decide +kernel)) :
    Changes l s { u with bankOn := v0 } := by
  refine h.trans (fun q hq => ?_)
  cases q with
  | bankOn => exact absurd (hl _ (by decide)) hq
  | page y => exact fun _ _ => rfl
  | _ => rfl

theorem Changes.upd_bridgeRx {v0 : List BridgedFrame} (h : Changes l s u)
    (hl : Part.Sub [.bridgeRx] l := by first | assumption | exact Part.Sub.via (by assumption) (by decide +kernel)) :
    Changes l s { u with bridgeRx := v0 } := by
  refine h.trans (fun q hq => ?_)
  cases q with
  | bridgeRx => exact absurd (hl _ (by decide)) hq
  | page y => exact fun _ _ => rfl
  | _ => rfl

theorem Changes.upd_bridgeTrain {v0 : List Nat} (h : Changes l s u)
    (hl : Part.Sub [.bridgeTrain] l := by first | assumption | exact Part.Sub.via (by assumption) (by decide +kernel)) :
    Changes l s { u with bridgeTrain := v0 } := by
  refine h.trans (fun q hq => ?_)
  cases q with
  | bridgeTrain => exact absurd (hl _ (by decide)) hq
  | page y => exact fun _ _ => rfl
  | _ => rfl

theorem Changes.upd_bridgeTrain_sleptBridge {v0 : List Nat} {v1 : Bool} (h : Changes l s u)
    (hl : Part.Sub [.bridgeTrain, .sleptBridge] l := by first | assumption | exact Part.Sub.via (by assumption) (by decide +kernel)) :
    Changes l s { u with bridgeTrain := v0, sleptBridge := v1 } := by
  refine h.trans (fun q hq => ?_)
  cases q with
  | bridgeTrain => exact absurd (hl _ (by decide)) hq
  | sleptBridge => exact absurd (hl _ (by decide)) hq
  | page y => exact fun _ _ => rfl
  | _ => rfl

theorem Changes.upd_capBelow {v0 : Nat} (h : Changes l s u)
    (hl : Part.Sub [.capBelow] l := by first | assumption | exact Part.Sub.via (by assumption) (by decide +kernel)) :
    Changes l s { u with capBelow := v0 } := by
  refine h.trans (fun q hq => ?_)
  cases q with
  | capBelow => exact absurd (hl _ (by decide)) hq
  | page y => exact fun _ _ => rfl
  | _ => rfl

theorem Changes.upd_causes {v0 : List PassCause} (h : Changes l s u)
    (hl : Part.Sub [.causes] l := by first | assumption | exact Part.Sub.via (by assumption) (by decide +kernel)) :
    Changes l s { u with causes := v0 } := by
  refine h.trans (fun q hq => ?_)
  cases q with
  | causes => exact absurd (hl _ (by decide)) hq
  | page y => exact fun _ _ => rfl
  | _ => rfl

theorem Changes.upd_checks {v0 : List CheckUnit} (h : Changes l s u)
    (hl : Part.Sub [.checks] l := by first | assumption | exact Part.Sub.via (by assumption) (by decide +kernel)) :
    Changes l s { u with checks := v0 } := by
  refine h.trans (fun q hq => ?_)
  cases q with
  | checks => exact absurd (hl _ (by decide)) hq
  | page y => exact fun _ _ => rfl
  | _ => rfl

theorem Changes.upd_coolLow_coolCap_coolWait {v0 : Nat} {v1 : Nat} {v2 : Nat} (h : Changes l s u)
    (hl : Part.Sub [.coolLow, .coolCap, .coolWait] l := by first | assumption | exact Part.Sub.via (by assumption) (by decide +kernel)) :
    Changes l s { u with coolLow := v0, coolCap := v1, coolWait := v2 } := by
  refine h.trans (fun q hq => ?_)
  cases q with
  | coolLow => exact absurd (hl _ (by decide)) hq
  | coolCap => exact absurd (hl _ (by decide)) hq
  | coolWait => exact absurd (hl _ (by decide)) hq
  | page y => exact fun _ _ => rfl
  | _ => rfl

theorem Changes.upd_ctxCount {v0 : Nat} (h : Changes l s u)
    (hl : Part.Sub [.ctxCount] l := by first | assumption | exact Part.Sub.via (by assumption) (by decide +kernel)) :
    Changes l s { u with ctxCount := v0 } := by
  refine h.trans (fun q hq => ?_)
  cases q with
  | ctxCount => exact absurd (hl _ (by decide)) hq
  | page y => exact fun _ _ => rfl
  | _ => rfl

theorem Changes.upd_ctxs {v0 : List (Nat × StreamCtx)} (h : Changes l s u)
    (hl : Part.Sub [.ctxs] l := by first | assumption | exact Part.Sub.via (by assumption) (by decide +kernel)) :
    Changes l s { u with ctxs := v0 } := by
  refine h.trans (fun q hq => ?_)
  cases q with
  | ctxs => exact absurd (hl _ (by decide)) hq
  | page y => exact fun _ _ => rfl
  | _ => rfl

theorem Changes.upd_cwyFailed {v0 : List Nat} (h : Changes l s u)
    (hl : Part.Sub [.cwyFailed] l := by first | assumption | exact Part.Sub.via (by assumption) (by decide +kernel)) :
    Changes l s { u with cwyFailed := v0 } := by
  refine h.trans (fun q hq => ?_)
  cases q with
  | cwyFailed => exact absurd (hl _ (by decide)) hq
  | page y => exact fun _ _ => rfl
  | _ => rfl

theorem Changes.upd_d3hot {v0 : Bool} (h : Changes l s u)
    (hl : Part.Sub [.d3hot] l := by first | assumption | exact Part.Sub.via (by assumption) (by decide +kernel)) :
    Changes l s { u with d3hot := v0 } := by
  refine h.trans (fun q hq => ?_)
  cases q with
  | d3hot => exact absurd (hl _ (by decide)) hq
  | page y => exact fun _ _ => rfl
  | _ => rfl

theorem Changes.upd_dark {v0 : Nat} (h : Changes l s u)
    (hl : Part.Sub [.dark] l := by first | assumption | exact Part.Sub.via (by assumption) (by decide +kernel)) :
    Changes l s { u with dark := v0 } := by
  refine h.trans (fun q hq => ?_)
  cases q with
  | dark => exact absurd (hl _ (by decide)) hq
  | page y => exact fun _ _ => rfl
  | _ => rfl

theorem Changes.upd_debugOut {v0 : List Nat} (h : Changes l s u)
    (hl : Part.Sub [.debugOut] l := by first | assumption | exact Part.Sub.via (by assumption) (by decide +kernel)) :
    Changes l s { u with debugOut := v0 } := by
  refine h.trans (fun q hq => ?_)
  cases q with
  | debugOut => exact absurd (hl _ (by decide)) hq
  | page y => exact fun _ _ => rfl
  | _ => rfl

theorem Changes.upd_derived {v0 : List (Nat × List (Nat × List Nat))} (h : Changes l s u)
    (hl : Part.Sub [.derived] l := by first | assumption | exact Part.Sub.via (by assumption) (by decide +kernel)) :
    Changes l s { u with derived := v0 } := by
  refine h.trans (fun q hq => ?_)
  cases q with
  | derived => exact absurd (hl _ (by decide)) hq
  | page y => exact fun _ _ => rfl
  | _ => rfl

theorem Changes.upd_destSets {v0 : List (Nat × Nat × Nat)} (h : Changes l s u)
    (hl : Part.Sub [.destSets] l := by first | assumption | exact Part.Sub.via (by assumption) (by decide +kernel)) :
    Changes l s { u with destSets := v0 } := by
  refine h.trans (fun q hq => ?_)
  cases q with
  | destSets => exact absurd (hl _ (by decide)) hq
  | page y => exact fun _ _ => rfl
  | _ => rfl

theorem Changes.upd_digests_measure {v0 : List (Nat × List Byte)} {v1 : List Byte} (h : Changes l s u)
    (hl : Part.Sub [.digests, .measure] l := by first | assumption | exact Part.Sub.via (by assumption) (by decide +kernel)) :
    Changes l s { u with digests := v0, measure := v1 } := by
  refine h.trans (fun q hq => ?_)
  cases q with
  | digests => exact absurd (hl _ (by decide)) hq
  | measure => exact absurd (hl _ (by decide)) hq
  | page y => exact fun _ _ => rfl
  | _ => rfl

theorem Changes.upd_doe {v0 : List Byte} (h : Changes l s u)
    (hl : Part.Sub [.doe] l := by first | assumption | exact Part.Sub.via (by assumption) (by decide +kernel)) :
    Changes l s { u with doe := v0 } := by
  refine h.trans (fun q hq => ?_)
  cases q with
  | doe => exact absurd (hl _ (by decide)) hq
  | page y => exact fun _ _ => rfl
  | _ => rfl

theorem Changes.upd_edge {v0 : List (Nat × Byte)} (h : Changes l s u)
    (hl : Part.Sub [.edge] l := by first | assumption | exact Part.Sub.via (by assumption) (by decide +kernel)) :
    Changes l s { u with edge := v0 } := by
  refine h.trans (fun q hq => ?_)
  cases q with
  | edge => exact absurd (hl _ (by decide)) hq
  | page y => exact fun _ _ => rfl
  | _ => rfl

theorem Changes.upd_edgeHeld {v0 : List (TileAddr × Packet)} (h : Changes l s u)
    (hl : Part.Sub [.edgeHeld] l := by first | assumption | exact Part.Sub.via (by assumption) (by decide +kernel)) :
    Changes l s { u with edgeHeld := v0 } := by
  refine h.trans (fun q hq => ?_)
  cases q with
  | edgeHeld => exact absurd (hl _ (by decide)) hq
  | page y => exact fun _ _ => rfl
  | _ => rfl

theorem Changes.upd_edgeMark {v0 : List (Nat × EccMark)} (h : Changes l s u)
    (hl : Part.Sub [.edgeMark] l := by first | assumption | exact Part.Sub.via (by assumption) (by decide +kernel)) :
    Changes l s { u with edgeMark := v0 } := by
  refine h.trans (fun q hq => ?_)
  cases q with
  | edgeMark => exact absurd (hl _ (by decide)) hq
  | page y => exact fun _ _ => rfl
  | _ => rfl

theorem Changes.upd_edgeWb {v0 : List Nat} (h : Changes l s u)
    (hl : Part.Sub [.edgeWb] l := by first | assumption | exact Part.Sub.via (by assumption) (by decide +kernel)) :
    Changes l s { u with edgeWb := v0 } := by
  refine h.trans (fun q hq => ?_)
  cases q with
  | edgeWb => exact absurd (hl _ (by decide)) hq
  | page y => exact fun _ _ => rfl
  | _ => rfl

theorem Changes.upd_exchs {v0 : List Exch} (h : Changes l s u)
    (hl : Part.Sub [.exchs] l := by first | assumption | exact Part.Sub.via (by assumption) (by decide +kernel)) :
    Changes l s { u with exchs := v0 } := by
  refine h.trans (fun q hq => ?_)
  cases q with
  | exchs => exact absurd (hl _ (by decide)) hq
  | page y => exact fun _ _ => rfl
  | _ => rfl

theorem Changes.upd_fields {v0 : List (Nat × FieldSt)} (h : Changes l s u)
    (hl : Part.Sub [.fields] l := by first | assumption | exact Part.Sub.via (by assumption) (by decide +kernel)) :
    Changes l s { u with fields := v0 } := by
  refine h.trans (fun q hq => ?_)
  cases q with
  | fields => exact absurd (hl _ (by decide)) hq
  | page y => exact fun _ _ => rfl
  | _ => rfl

theorem Changes.upd_flash {v0 : List (Nat × List Byte)} (h : Changes l s u)
    (hl : Part.Sub [.flash] l := by first | assumption | exact Part.Sub.via (by assumption) (by decide +kernel)) :
    Changes l s { u with flash := v0 } := by
  refine h.trans (fun q hq => ?_)
  cases q with
  | flash => exact absurd (hl _ (by decide)) hq
  | page y => exact fun _ _ => rfl
  | _ => rfl

theorem Changes.upd_fopenDue {v0 : List (Nat × Bool)} (h : Changes l s u)
    (hl : Part.Sub [.fopenDue] l := by first | assumption | exact Part.Sub.via (by assumption) (by decide +kernel)) :
    Changes l s { u with fopenDue := v0 } := by
  refine h.trans (fun q hq => ?_)
  cases q with
  | fopenDue => exact absurd (hl _ (by decide)) hq
  | page y => exact fun _ _ => rfl
  | _ => rfl

theorem Changes.upd_free {v0 : Nat} (h : Changes l s u)
    (hl : Part.Sub [.free] l := by first | assumption | exact Part.Sub.via (by assumption) (by decide +kernel)) :
    Changes l s { u with free := v0 } := by
  refine h.trans (fun q hq => ?_)
  cases q with
  | free => exact absurd (hl _ (by decide)) hq
  | page y => exact fun _ _ => rfl
  | _ => rfl

theorem Changes.upd_free_mgmtOut {v0 : Nat} {v1 : List (Nat × List Byte)} (h : Changes l s u)
    (hl : Part.Sub [.free, .mgmtOut] l := by first | assumption | exact Part.Sub.via (by assumption) (by decide +kernel)) :
    Changes l s { u with free := v0, mgmtOut := v1 } := by
  refine h.trans (fun q hq => ?_)
  cases q with
  | free => exact absurd (hl _ (by decide)) hq
  | mgmtOut => exact absurd (hl _ (by decide)) hq
  | page y => exact fun _ _ => rfl
  | _ => rfl

theorem Changes.upd_fresh {v0 : List (Nat × Nat)} (h : Changes l s u)
    (hl : Part.Sub [.fresh] l := by first | assumption | exact Part.Sub.via (by assumption) (by decide +kernel)) :
    Changes l s { u with fresh := v0 } := by
  refine h.trans (fun q hq => ?_)
  cases q with
  | fresh => exact absurd (hl _ (by decide)) hq
  | page y => exact fun _ _ => rfl
  | _ => rfl

theorem Changes.upd_fwIrq {v0 : List Nat} (h : Changes l s u)
    (hl : Part.Sub [.fwIrq] l := by first | assumption | exact Part.Sub.via (by assumption) (by decide +kernel)) :
    Changes l s { u with fwIrq := v0 } := by
  refine h.trans (fun q hq => ?_)
  cases q with
  | fwIrq => exact absurd (hl _ (by decide)) hq
  | page y => exact fun _ _ => rfl
  | _ => rfl

theorem Changes.upd_hostHeld {v0 : List HostOut} (h : Changes l s u)
    (hl : Part.Sub [.hostHeld] l := by first | assumption | exact Part.Sub.via (by assumption) (by decide +kernel)) :
    Changes l s { u with hostHeld := v0 } := by
  refine h.trans (fun q hq => ?_)
  cases q with
  | hostHeld => exact absurd (hl _ (by decide)) hq
  | page y => exact fun _ _ => rfl
  | _ => rfl

theorem Changes.upd_hostOut {v0 : List HostOut} (h : Changes l s u)
    (hl : Part.Sub [.hostOut] l := by first | assumption | exact Part.Sub.via (by assumption) (by decide +kernel)) :
    Changes l s { u with hostOut := v0 } := by
  refine h.trans (fun q hq => ?_)
  cases q with
  | hostOut => exact absurd (hl _ (by decide)) hq
  | page y => exact fun _ _ => rfl
  | _ => rfl

theorem Changes.upd_hostOut_hostHeld {v0 : List HostOut} {v1 : List HostOut} (h : Changes l s u)
    (hl : Part.Sub [.hostOut, .hostHeld] l := by first | assumption | exact Part.Sub.via (by assumption) (by decide +kernel)) :
    Changes l s { u with hostOut := v0, hostHeld := v1 } := by
  refine h.trans (fun q hq => ?_)
  cases q with
  | hostOut => exact absurd (hl _ (by decide)) hq
  | hostHeld => exact absurd (hl _ (by decide)) hq
  | page y => exact fun _ _ => rfl
  | _ => rfl

theorem Changes.upd_importing {v0 : Option ImportWin} (h : Changes l s u)
    (hl : Part.Sub [.importing] l := by first | assumption | exact Part.Sub.via (by assumption) (by decide +kernel)) :
    Changes l s { u with importing := v0 } := by
  refine h.trans (fun q hq => ?_)
  cases q with
  | importing => exact absurd (hl _ (by decide)) hq
  | page y => exact fun _ _ => rfl
  | _ => rfl

theorem Changes.upd_limQuiet {v0 : Nat} (h : Changes l s u)
    (hl : Part.Sub [.limQuiet] l := by first | assumption | exact Part.Sub.via (by assumption) (by decide +kernel)) :
    Changes l s { u with limQuiet := v0 } := by
  refine h.trans (fun q hq => ?_)
  cases q with
  | limQuiet => exact absurd (hl _ (by decide)) hq
  | page y => exact fun _ _ => rfl
  | _ => rfl

theorem Changes.upd_links {v0 : List (Nat × VLink)} (h : Changes l s u)
    (hl : Part.Sub [.links] l := by first | assumption | exact Part.Sub.via (by assumption) (by decide +kernel)) :
    Changes l s { u with links := v0 } := by
  refine h.trans (fun q hq => ?_)
  cases q with
  | links => exact absurd (hl _ (by decide)) hq
  | page y => exact fun _ _ => rfl
  | _ => rfl

theorem Changes.upd_lkoSpikes_lkoN {v0 : Nat} {v1 : Nat} (h : Changes l s u)
    (hl : Part.Sub [.lkoSpikes, .lkoN] l := by first | assumption | exact Part.Sub.via (by assumption) (by decide +kernel)) :
    Changes l s { u with lkoSpikes := v0, lkoN := v1 } := by
  refine h.trans (fun q hq => ?_)
  cases q with
  | lkoSpikes => exact absurd (hl _ (by decide)) hq
  | lkoN => exact absurd (hl _ (by decide)) hq
  | page y => exact fun _ _ => rfl
  | _ => rfl

theorem Changes.upd_lkoSpikes_spikeFirst {v0 : Nat} {v1 : Waymark} (h : Changes l s u)
    (hl : Part.Sub [.lkoSpikes, .spikeFirst] l := by first | assumption | exact Part.Sub.via (by assumption) (by decide +kernel)) :
    Changes l s { u with lkoSpikes := v0, spikeFirst := v1 } := by
  refine h.trans (fun q hq => ?_)
  cases q with
  | lkoSpikes => exact absurd (hl _ (by decide)) hq
  | spikeFirst => exact absurd (hl _ (by decide)) hq
  | page y => exact fun _ _ => rfl
  | _ => rfl

theorem Changes.upd_logHeld {v0 : List (List Byte)} (h : Changes l s u)
    (hl : Part.Sub [.logHeld] l := by first | assumption | exact Part.Sub.via (by assumption) (by decide +kernel)) :
    Changes l s { u with logHeld := v0 } := by
  refine h.trans (fun q hq => ?_)
  cases q with
  | logHeld => exact absurd (hl _ (by decide)) hq
  | page y => exact fun _ _ => rfl
  | _ => rfl

theorem Changes.upd_logHeld_logOver {v0 : List (List Byte)} {v1 : Bool} (h : Changes l s u)
    (hl : Part.Sub [.logHeld, .logOver] l := by first | assumption | exact Part.Sub.via (by assumption) (by decide +kernel)) :
    Changes l s { u with logHeld := v0, logOver := v1 } := by
  refine h.trans (fun q hq => ?_)
  cases q with
  | logHeld => exact absurd (hl _ (by decide)) hq
  | logOver => exact absurd (hl _ (by decide)) hq
  | page y => exact fun _ _ => rfl
  | _ => rfl

theorem Changes.upd_logNext {v0 : Nat} (h : Changes l s u)
    (hl : Part.Sub [.logNext] l := by first | assumption | exact Part.Sub.via (by assumption) (by decide +kernel)) :
    Changes l s { u with logNext := v0 } := by
  refine h.trans (fun q hq => ?_)
  cases q with
  | logNext => exact absurd (hl _ (by decide)) hq
  | page y => exact fun _ _ => rfl
  | _ => rfl

theorem Changes.upd_logOver {v0 : Bool} (h : Changes l s u)
    (hl : Part.Sub [.logOver] l := by first | assumption | exact Part.Sub.via (by assumption) (by decide +kernel)) :
    Changes l s { u with logOver := v0 } := by
  refine h.trans (fun q hq => ?_)
  cases q with
  | logOver => exact absurd (hl _ (by decide)) hq
  | page y => exact fun _ _ => rfl
  | _ => rfl

theorem Changes.upd_losses {v0 : Nat} (h : Changes l s u)
    (hl : Part.Sub [.losses] l := by first | assumption | exact Part.Sub.via (by assumption) (by decide +kernel)) :
    Changes l s { u with losses := v0 } := by
  refine h.trans (fun q hq => ?_)
  cases q with
  | losses => exact absurd (hl _ (by decide)) hq
  | page y => exact fun _ _ => rfl
  | _ => rfl

theorem Changes.upd_measure_fresh {v0 : List Byte} {v1 : List (Nat × Nat)} (h : Changes l s u)
    (hl : Part.Sub [.measure, .fresh] l := by first | assumption | exact Part.Sub.via (by assumption) (by decide +kernel)) :
    Changes l s { u with measure := v0, fresh := v1 } := by
  refine h.trans (fun q hq => ?_)
  cases q with
  | measure => exact absurd (hl _ (by decide)) hq
  | fresh => exact absurd (hl _ (by decide)) hq
  | page y => exact fun _ _ => rfl
  | _ => rfl

theorem Changes.upd_mgmtOut {v0 : List (Nat × List Byte)} (h : Changes l s u)
    (hl : Part.Sub [.mgmtOut] l := by first | assumption | exact Part.Sub.via (by assumption) (by decide +kernel)) :
    Changes l s { u with mgmtOut := v0 } := by
  refine h.trans (fun q hq => ?_)
  cases q with
  | mgmtOut => exact absurd (hl _ (by decide)) hq
  | page y => exact fun _ _ => rfl
  | _ => rfl

theorem Changes.upd_mgmtStage {v0 : W64} (h : Changes l s u)
    (hl : Part.Sub [.mgmtStage] l := by first | assumption | exact Part.Sub.via (by assumption) (by decide +kernel)) :
    Changes l s { u with mgmtStage := v0 } := by
  refine h.trans (fun q hq => ?_)
  cases q with
  | mgmtStage => exact absurd (hl _ (by decide)) hq
  | page y => exact fun _ _ => rfl
  | _ => rfl

theorem Changes.upd_mlog {v0 : List (List Byte)} (h : Changes l s u)
    (hl : Part.Sub [.mlog] l := by first | assumption | exact Part.Sub.via (by assumption) (by decide +kernel)) :
    Changes l s { u with mlog := v0 } := by
  refine h.trans (fun q hq => ?_)
  cases q with
  | mlog => exact absurd (hl _ (by decide)) hq
  | page y => exact fun _ _ => rfl
  | _ => rfl

theorem Changes.upd_msix {v0 : List (Nat × MsixEntry)} (h : Changes l s u)
    (hl : Part.Sub [.msix] l := by first | assumption | exact Part.Sub.via (by assumption) (by decide +kernel)) :
    Changes l s { u with msix := v0 } := by
  refine h.trans (fun q hq => ?_)
  cases q with
  | msix => exact absurd (hl _ (by decide)) hq
  | page y => exact fun _ _ => rfl
  | _ => rfl

theorem Changes.upd_msix_d3hot_doe {v0 : List (Nat × MsixEntry)} {v1 : Bool} {v2 : List Byte} (h : Changes l s u)
    (hl : Part.Sub [.msix, .d3hot, .doe] l := by first | assumption | exact Part.Sub.via (by assumption) (by decide +kernel)) :
    Changes l s { u with msix := v0, d3hot := v1, doe := v2 } := by
  refine h.trans (fun q hq => ?_)
  cases q with
  | msix => exact absurd (hl _ (by decide)) hq
  | d3hot => exact absurd (hl _ (by decide)) hq
  | doe => exact absurd (hl _ (by decide)) hq
  | page y => exact fun _ _ => rfl
  | _ => rfl

theorem Changes.upd_nonce {v0 : Option (List Byte)} (h : Changes l s u)
    (hl : Part.Sub [.nonce] l := by first | assumption | exact Part.Sub.via (by assumption) (by decide +kernel)) :
    Changes l s { u with nonce := v0 } := by
  refine h.trans (fun q hq => ?_)
  cases q with
  | nonce => exact absurd (hl _ (by decide)) hq
  | page y => exact fun _ _ => rfl
  | _ => rfl

theorem Changes.upd_nonce_unlockNext {v0 : Option (List Byte)} {v1 : Bool} (h : Changes l s u)
    (hl : Part.Sub [.nonce, .unlockNext] l := by first | assumption | exact Part.Sub.via (by assumption) (by decide +kernel)) :
    Changes l s { u with nonce := v0, unlockNext := v1 } := by
  refine h.trans (fun q hq => ?_)
  cases q with
  | nonce => exact absurd (hl _ (by decide)) hq
  | unlockNext => exact absurd (hl _ (by decide)) hq
  | page y => exact fun _ _ => rfl
  | _ => rfl

theorem Changes.upd_peaks {v0 : List (Nat × Nat)} (h : Changes l s u)
    (hl : Part.Sub [.peaks] l := by first | assumption | exact Part.Sub.via (by assumption) (by decide +kernel)) :
    Changes l s { u with peaks := v0 } := by
  refine h.trans (fun q hq => ?_)
  cases q with
  | peaks => exact absurd (hl _ (by decide)) hq
  | page y => exact fun _ _ => rfl
  | _ => rfl

theorem Changes.upd_queues {v0 : List (Nat × EngQueue)} (h : Changes l s u)
    (hl : Part.Sub [.queues] l := by first | assumption | exact Part.Sub.via (by assumption) (by decide +kernel)) :
    Changes l s { u with queues := v0 } := by
  refine h.trans (fun q hq => ?_)
  cases q with
  | queues => exact absurd (hl _ (by decide)) hq
  | page y => exact fun _ _ => rfl
  | _ => rfl

theorem Changes.upd_recOnce {v0 : List (Nat × Waymark)} (h : Changes l s u)
    (hl : Part.Sub [.recOnce] l := by first | assumption | exact Part.Sub.via (by assumption) (by decide +kernel)) :
    Changes l s { u with recOnce := v0 } := by
  refine h.trans (fun q hq => ?_)
  cases q with
  | recOnce => exact absurd (hl _ (by decide)) hq
  | page y => exact fun _ _ => rfl
  | _ => rfl

theorem Changes.upd_records {v0 : List ErrRec} (h : Changes l s u)
    (hl : Part.Sub [.records] l := by first | assumption | exact Part.Sub.via (by assumption) (by decide +kernel)) :
    Changes l s { u with records := v0 } := by
  refine h.trans (fun q hq => ?_)
  cases q with
  | records => exact absurd (hl _ (by decide)) hq
  | page y => exact fun _ _ => rfl
  | _ => rfl

theorem Changes.upd_refLost {v0 : Bool} (h : Changes l s u)
    (hl : Part.Sub [.refLost] l := by first | assumption | exact Part.Sub.via (by assumption) (by decide +kernel)) :
    Changes l s { u with refLost := v0 } := by
  refine h.trans (fun q hq => ?_)
  cases q with
  | refLost => exact absurd (hl _ (by decide)) hq
  | page y => exact fun _ _ => rfl
  | _ => rfl

theorem Changes.upd_remoteRoot {v0 : List (Nat × Bool)} (h : Changes l s u)
    (hl : Part.Sub [.remoteRoot] l := by first | assumption | exact Part.Sub.via (by assumption) (by decide +kernel)) :
    Changes l s { u with remoteRoot := v0 } := by
  refine h.trans (fun q hq => ?_)
  cases q with
  | remoteRoot => exact absurd (hl _ (by decide)) hq
  | page y => exact fun _ _ => rfl
  | _ => rfl

theorem Changes.upd_retained {v0 : List Retained} (h : Changes l s u)
    (hl : Part.Sub [.retained] l := by first | assumption | exact Part.Sub.via (by assumption) (by decide +kernel)) :
    Changes l s { u with retained := v0 } := by
  refine h.trans (fun q hq => ?_)
  cases q with
  | retained => exact absurd (hl _ (by decide)) hq
  | page y => exact fun _ _ => rfl
  | _ => rfl

theorem Changes.upd_retained_mlog_flash_active_fresh_toActivate_unlockNext_hostOut_fwIrq_wire_mgmtOut_debugOut_bankOn_free_pending {v0 : List Retained} {v1 : List (List Byte)} {v2 : List (Nat × List Byte)} {v3 : List (Nat × Nat)} {v4 : List (Nat × Nat)} {v5 : List Nat} {v6 : Bool} {v7 : List HostOut} {v8 : List Nat} {v9 : List (Nat × W64 × List Byte)} {v10 : List (Nat × List Byte)} {v11 : List Nat} {v12 : Nat} {v13 : Nat} {v14 : List Instr} (h : Changes l s u)
    (hl : Part.Sub [.retained, .mlog, .flash, .active, .fresh, .toActivate, .unlockNext, .hostOut, .fwIrq, .wire, .mgmtOut, .debugOut, .bankOn, .free, .pending] l := by first | assumption | exact Part.Sub.via (by assumption) (by decide +kernel)) :
    Changes l s { u with retained := v0, mlog := v1, flash := v2, active := v3, fresh := v4, toActivate := v5, unlockNext := v6, hostOut := v7, fwIrq := v8, wire := v9, mgmtOut := v10, debugOut := v11, bankOn := v12, free := v13, pending := v14 } := by
  refine h.trans (fun q hq => ?_)
  cases q with
  | retained => exact absurd (hl _ (by decide)) hq
  | mlog => exact absurd (hl _ (by decide)) hq
  | flash => exact absurd (hl _ (by decide)) hq
  | active => exact absurd (hl _ (by decide)) hq
  | fresh => exact absurd (hl _ (by decide)) hq
  | toActivate => exact absurd (hl _ (by decide)) hq
  | unlockNext => exact absurd (hl _ (by decide)) hq
  | hostOut => exact absurd (hl _ (by decide)) hq
  | fwIrq => exact absurd (hl _ (by decide)) hq
  | wire => exact absurd (hl _ (by decide)) hq
  | mgmtOut => exact absurd (hl _ (by decide)) hq
  | debugOut => exact absurd (hl _ (by decide)) hq
  | bankOn => exact absurd (hl _ (by decide)) hq
  | free => exact absurd (hl _ (by decide)) hq
  | pending => exact absurd (hl _ (by decide)) hq
  | page y => exact fun _ _ => rfl
  | _ => rfl

theorem Changes.upd_risen {v0 : List (Nat × W64)} (h : Changes l s u)
    (hl : Part.Sub [.risen] l := by first | assumption | exact Part.Sub.via (by assumption) (by decide +kernel)) :
    Changes l s { u with risen := v0 } := by
  refine h.trans (fun q hq => ?_)
  cases q with
  | risen => exact absurd (hl _ (by decide)) hq
  | page y => exact fun _ _ => rfl
  | _ => rfl

theorem Changes.upd_risen_causes {v0 : List (Nat × W64)} {v1 : List PassCause} (h : Changes l s u)
    (hl : Part.Sub [.risen, .causes] l := by first | assumption | exact Part.Sub.via (by assumption) (by decide +kernel)) :
    Changes l s { u with risen := v0, causes := v1 } := by
  refine h.trans (fun q hq => ?_)
  cases q with
  | risen => exact absurd (hl _ (by decide)) hq
  | causes => exact absurd (hl _ (by decide)) hq
  | page y => exact fun _ _ => rfl
  | _ => rfl

theorem Changes.upd_scrubAt {v0 : List (Nat × Nat)} (h : Changes l s u)
    (hl : Part.Sub [.scrubAt] l := by first | assumption | exact Part.Sub.via (by assumption) (by decide +kernel)) :
    Changes l s { u with scrubAt := v0 } := by
  refine h.trans (fun q hq => ?_)
  cases q with
  | scrubAt => exact absurd (hl _ (by decide)) hq
  | page y => exact fun _ _ => rfl
  | _ => rfl

theorem Changes.upd_selfRefresh {v0 : List (Nat × Nat)} (h : Changes l s u)
    (hl : Part.Sub [.selfRefresh] l := by first | assumption | exact Part.Sub.via (by assumption) (by decide +kernel)) :
    Changes l s { u with selfRefresh := v0 } := by
  refine h.trans (fun q hq => ?_)
  cases q with
  | selfRefresh => exact absurd (hl _ (by decide)) hq
  | page y => exact fun _ _ => rfl
  | _ => rfl

theorem Changes.upd_sigCount {v0 : List (Nat × Nat)} (h : Changes l s u)
    (hl : Part.Sub [.sigCount] l := by first | assumption | exact Part.Sub.via (by assumption) (by decide +kernel)) :
    Changes l s { u with sigCount := v0 } := by
  refine h.trans (fun q hq => ?_)
  cases q with
  | sigCount => exact absurd (hl _ (by decide)) hq
  | page y => exact fun _ _ => rfl
  | _ => rfl

theorem Changes.upd_sleeping {v0 : Bool} (h : Changes l s u)
    (hl : Part.Sub [.sleeping] l := by first | assumption | exact Part.Sub.via (by assumption) (by decide +kernel)) :
    Changes l s { u with sleeping := v0 } := by
  refine h.trans (fun q hq => ?_)
  cases q with
  | sleeping => exact absurd (hl _ (by decide)) hq
  | page y => exact fun _ _ => rfl
  | _ => rfl

theorem Changes.upd_sleeping_coolWait {v0 : Bool} {v1 : Nat} (h : Changes l s u)
    (hl : Part.Sub [.sleeping, .coolWait] l := by first | assumption | exact Part.Sub.via (by assumption) (by decide +kernel)) :
    Changes l s { u with sleeping := v0, coolWait := v1 } := by
  refine h.trans (fun q hq => ?_)
  cases q with
  | sleeping => exact absurd (hl _ (by decide)) hq
  | coolWait => exact absurd (hl _ (by decide)) hq
  | page y => exact fun _ _ => rfl
  | _ => rfl

theorem Changes.upd_sleptBridge {v0 : Bool} (h : Changes l s u)
    (hl : Part.Sub [.sleptBridge] l := by first | assumption | exact Part.Sub.via (by assumption) (by decide +kernel)) :
    Changes l s { u with sleptBridge := v0 } := by
  refine h.trans (fun q hq => ?_)
  cases q with
  | sleptBridge => exact absurd (hl _ (by decide)) hq
  | page y => exact fun _ _ => rfl
  | _ => rfl

theorem Changes.upd_sleptPorts {v0 : List Nat} (h : Changes l s u)
    (hl : Part.Sub [.sleptPorts] l := by first | assumption | exact Part.Sub.via (by assumption) (by decide +kernel)) :
    Changes l s { u with sleptPorts := v0 } := by
  refine h.trans (fun q hq => ?_)
  cases q with
  | sleptPorts => exact absurd (hl _ (by decide)) hq
  | page y => exact fun _ _ => rfl
  | _ => rfl

theorem Changes.upd_slotOf {v0 : List (Nat × Nat)} (h : Changes l s u)
    (hl : Part.Sub [.slotOf] l := by first | assumption | exact Part.Sub.via (by assumption) (by decide +kernel)) :
    Changes l s { u with slotOf := v0 } := by
  refine h.trans (fun q hq => ?_)
  cases q with
  | slotOf => exact absurd (hl _ (by decide)) hq
  | page y => exact fun _ _ => rfl
  | _ => rfl

theorem Changes.upd_stackHeat {v0 : List (Nat × Nat)} (h : Changes l s u)
    (hl : Part.Sub [.stackHeat] l := by first | assumption | exact Part.Sub.via (by assumption) (by decide +kernel)) :
    Changes l s { u with stackHeat := v0 } := by
  refine h.trans (fun q hq => ?_)
  cases q with
  | stackHeat => exact absurd (hl _ (by decide)) hq
  | page y => exact fun _ _ => rfl
  | _ => rfl

theorem Changes.upd_step {v0 : Option StepSt} (h : Changes l s u)
    (hl : Part.Sub [.step] l := by first | assumption | exact Part.Sub.via (by assumption) (by decide +kernel)) :
    Changes l s { u with step := v0 } := by
  refine h.trans (fun q hq => ?_)
  cases q with
  | step => exact absurd (hl _ (by decide)) hq
  | page y => exact fun _ _ => rfl
  | _ => rfl

theorem Changes.upd_step_stepFailed_ahead {v0 : Option StepSt} {v1 : Option (Nat × Nat)} {v2 : List AheadCount} (h : Changes l s u)
    (hl : Part.Sub [.step, .stepFailed, .ahead] l := by first | assumption | exact Part.Sub.via (by assumption) (by decide +kernel)) :
    Changes l s { u with step := v0, stepFailed := v1, ahead := v2 } := by
  refine h.trans (fun q hq => ?_)
  cases q with
  | step => exact absurd (hl _ (by decide)) hq
  | stepFailed => exact absurd (hl _ (by decide)) hq
  | ahead => exact absurd (hl _ (by decide)) hq
  | page y => exact fun _ _ => rfl
  | _ => rfl

theorem Changes.upd_step_stepsSeen {v0 : Option StepSt} {v1 : List (Nat × Nat)} (h : Changes l s u)
    (hl : Part.Sub [.step, .stepsSeen] l := by first | assumption | exact Part.Sub.via (by assumption) (by decide +kernel)) :
    Changes l s { u with step := v0, stepsSeen := v1 } := by
  refine h.trans (fun q hq => ?_)
  cases q with
  | step => exact absurd (hl _ (by decide)) hq
  | stepsSeen => exact absurd (hl _ (by decide)) hq
  | page y => exact fun _ _ => rfl
  | _ => rfl

theorem Changes.upd_stoppedClk {v0 : List Nat} (h : Changes l s u)
    (hl : Part.Sub [.stoppedClk] l := by first | assumption | exact Part.Sub.via (by assumption) (by decide +kernel)) :
    Changes l s { u with stoppedClk := v0 } := by
  refine h.trans (fun q hq => ?_)
  cases q with
  | stoppedClk => exact absurd (hl _ (by decide)) hq
  | page y => exact fun _ _ => rfl
  | _ => rfl

theorem Changes.upd_subs {v0 : List Nat} (h : Changes l s u)
    (hl : Part.Sub [.subs] l := by first | assumption | exact Part.Sub.via (by assumption) (by decide +kernel)) :
    Changes l s { u with subs := v0 } := by
  refine h.trans (fun q hq => ?_)
  cases q with
  | subs => exact absurd (hl _ (by decide)) hq
  | page y => exact fun _ _ => rfl
  | _ => rfl

theorem Changes.upd_subs_digests {v0 : List Nat} {v1 : List (Nat × List Byte)} (h : Changes l s u)
    (hl : Part.Sub [.subs, .digests] l := by first | assumption | exact Part.Sub.via (by assumption) (by decide +kernel)) :
    Changes l s { u with subs := v0, digests := v1 } := by
  refine h.trans (fun q hq => ?_)
  cases q with
  | subs => exact absurd (hl _ (by decide)) hq
  | digests => exact absurd (hl _ (by decide)) hq
  | page y => exact fun _ _ => rfl
  | _ => rfl

theorem Changes.upd_suspects {v0 : List (Nat × Nat)} (h : Changes l s u)
    (hl : Part.Sub [.suspects] l := by first | assumption | exact Part.Sub.via (by assumption) (by decide +kernel)) :
    Changes l s { u with suspects := v0 } := by
  refine h.trans (fun q hq => ?_)
  cases q with
  | suspects => exact absurd (hl _ (by decide)) hq
  | page y => exact fun _ _ => rfl
  | _ => rfl

theorem Changes.upd_taintNamed {v0 : List Nat} (h : Changes l s u)
    (hl : Part.Sub [.taintNamed] l := by first | assumption | exact Part.Sub.via (by assumption) (by decide +kernel)) :
    Changes l s { u with taintNamed := v0 } := by
  refine h.trans (fun q hq => ?_)
  cases q with
  | taintNamed => exact absurd (hl _ (by decide)) hq
  | page y => exact fun _ _ => rfl
  | _ => rfl

theorem Changes.upd_taintSeq_tainted_exchs {v0 : Nat} {v1 : List (Nat × Nat × Nat)} {v2 : List Exch} (h : Changes l s u)
    (hl : Part.Sub [.taintSeq, .tainted, .exchs] l := by first | assumption | exact Part.Sub.via (by assumption) (by decide +kernel)) :
    Changes l s { u with taintSeq := v0, tainted := v1, exchs := v2 } := by
  refine h.trans (fun q hq => ?_)
  cases q with
  | taintSeq => exact absurd (hl _ (by decide)) hq
  | tainted => exact absurd (hl _ (by decide)) hq
  | exchs => exact absurd (hl _ (by decide)) hq
  | page y => exact fun _ _ => rfl
  | _ => rfl

theorem Changes.upd_testRef {v0 : Option (Nat × Nat)} (h : Changes l s u)
    (hl : Part.Sub [.testRef] l := by first | assumption | exact Part.Sub.via (by assumption) (by decide +kernel)) :
    Changes l s { u with testRef := v0 } := by
  refine h.trans (fun q hq => ?_)
  cases q with
  | testRef => exact absurd (hl _ (by decide)) hq
  | page y => exact fun _ _ => rfl
  | _ => rfl

theorem Changes.upd_tiles {v0 : List (Nat × Tile)} (h : Changes l s u)
    (hl : Part.Sub [.tiles] l := by first | assumption | exact Part.Sub.via (by assumption) (by decide +kernel)) :
    Changes l s { u with tiles := v0 } := by
  refine h.trans (fun q hq => ?_)
  cases q with
  | tiles => exact absurd (hl _ (by decide)) hq
  | page y => exact fun _ _ => rfl
  | _ => rfl

theorem Changes.upd_toActivate {v0 : List Nat} (h : Changes l s u)
    (hl : Part.Sub [.toActivate] l := by first | assumption | exact Part.Sub.via (by assumption) (by decide +kernel)) :
    Changes l s { u with toActivate := v0 } := by
  refine h.trans (fun q hq => ?_)
  cases q with
  | toActivate => exact absurd (hl _ (by decide)) hq
  | page y => exact fun _ _ => rfl
  | _ => rfl

theorem Changes.upd_turns {v0 : List (Nat × Nat)} (h : Changes l s u)
    (hl : Part.Sub [.turns] l := by first | assumption | exact Part.Sub.via (by assumption) (by decide +kernel)) :
    Changes l s { u with turns := v0 } := by
  refine h.trans (fun q hq => ?_)
  cases q with
  | turns => exact absurd (hl _ (by decide)) hq
  | page y => exact fun _ _ => rfl
  | _ => rfl

theorem Changes.upd_unlockNext {v0 : Bool} (h : Changes l s u)
    (hl : Part.Sub [.unlockNext] l := by first | assumption | exact Part.Sub.via (by assumption) (by decide +kernel)) :
    Changes l s { u with unlockNext := v0 } := by
  refine h.trans (fun q hq => ?_)
  cases q with
  | unlockNext => exact absurd (hl _ (by decide)) hq
  | page y => exact fun _ _ => rfl
  | _ => rfl

theorem Changes.upd_windows {v0 : List (Nat × DedupWin)} (h : Changes l s u)
    (hl : Part.Sub [.windows] l := by first | assumption | exact Part.Sub.via (by assumption) (by decide +kernel)) :
    Changes l s { u with windows := v0 } := by
  refine h.trans (fun q hq => ?_)
  cases q with
  | windows => exact absurd (hl _ (by decide)) hq
  | page y => exact fun _ _ => rfl
  | _ => rfl

theorem Changes.upd_wire {v0 : List (Nat × W64 × List Byte)} (h : Changes l s u)
    (hl : Part.Sub [.wire] l := by first | assumption | exact Part.Sub.via (by assumption) (by decide +kernel)) :
    Changes l s { u with wire := v0 } := by
  refine h.trans (fun q hq => ?_)
  cases q with
  | wire => exact absurd (hl _ (by decide)) hq
  | page y => exact fun _ _ => rfl
  | _ => rfl

theorem look_filter {α : Type} (d : Nat → α) (p : Nat × α → Bool) (k : Nat) (hp : ∀ v, p (k, v) = true) :
    ∀ m : List (Nat × α), look d (m.filter p) k = look d m k
  | [] => rfl
  | (j, v) :: r => by
    by_cases h : j = k
    · subst h
      rw [List.filter_cons_of_pos (hp v)]
      simp [look]
    · by_cases e : p (j, v) = true
      · rw [List.filter_cons_of_pos e]
        simp only [look, if_neg h]
        exact look_filter d p k hp r
      · rw [List.filter_cons_of_neg e]
        simp only [look, if_neg h]
        exact look_filter d p k hp r

/-! ### Folds and choices -/

theorem Changes.foldl {β : Type} {f : State → β → State} {m : List β} (h : Changes l s t)
    (hf : ∀ u x, Changes l s u → Changes l s (f u x)) : Changes l s (m.foldl f t) := by
  induction m generalizing t with
  | nil => exact h
  | cons x r ih => exact ih (hf t x h)

theorem Changes.foldl_fst {β γ : Type} {f : State × γ → β → State × γ} {m : List β} {t : State × γ} (h : Changes l s t.1)
    (hf : ∀ u x, Changes l s u.1 → Changes l s (f u x).1) : Changes l s (m.foldl f t).1 := by
  induction m generalizing t with
  | nil => exact h
  | cons x r ih => exact ih (hf t x h)

theorem Changes.foldl_snd {β γ : Type} {f : γ × State → β → γ × State} {m : List β} {t : γ × State} (h : Changes l s t.2)
    (hf : ∀ u x, Changes l s u.2 → Changes l s (f u x).2) : Changes l s (m.foldl f t).2 := by
  induction m generalizing t with
  | nil => exact h
  | cons x r ih => exact ih (hf t x h)

theorem Changes.via {x : State} {P : Prop} (h : Changes l s x) (k : Changes l s x → P) : P := k h

/-- The state in what an operation answers beside something else, or may answer. -/
theorem Changes.of_fst {β : Type} {x : State × β} {t : State} {b : β} (h : Changes l s x.1) (e : x = (t, b)) : Changes l s t := by
  rw [e] at h; exact h
theorem Changes.of_snd {β : Type} {x : β × State} {t : State} {b : β} (h : Changes l s x.2) (e : x = (b, t)) : Changes l s t := by
  rw [e] at h; exact h

def ChangesOpt (l : List Part) (s : State) (o : Option State) : Prop := ∀ t, o = some t → Changes l s t

theorem ChangesOpt.ofSome (h : Changes l s t) : ChangesOpt l s (some t) := fun _ e => by cases e; exact h
theorem ChangesOpt.ofNone : ChangesOpt l s none := fun _ e => by cases e
theorem Changes.getD {o : Option State} (h : ChangesOpt l s o) (k : Changes l s u) : Changes l s (o.getD u) := by
  cases o with
  | none => exact k
  | some t => exact h t rfl
theorem ChangesOpt.get {o : Option State} (h : ChangesOpt l s o) (e : o = some t) : Changes l s t := h t e

/-- A command's outcome changes no more than its next state does. -/
def ChangesOut (l : List Part) (s : State) (o : Host.Outcome State Fault Refusal) : Prop := ∀ t, o = .next t → Changes l s t

theorem ChangesOut.next (h : Changes l s t) : ChangesOut l s (.next t) := fun _ e => by cases e; exact h

end Sys2Proof.Machine
end

