-- ==== Sys2Proof/Laws/ChangesOps.lean ====
section
/-!
SUPPORT. What the operations of Machine/Ops can change (Laws/Changes).
-/
namespace Sys2Proof.Machine

set_option linter.all false

variable {s0 s : State}

theorem State.setF_changes {pl : List Part} {f : Fld} {inst v : Nat} (hk : Changes pl s0 s) (hm : Part.page f.typ ∈ pl := by first | assumption | exact Part.Sub.mem (by assumption) (Part.mem_elem (by rfl))) (hL : Part.Sub [] pl := by first | assumption | exact Part.Sub.via (by assumption) (by decide +kernel)) : Changes pl s0 (State.setF s f inst v) := by
  unfold State.setF
  repeat' (first
    | with_reducible exact hL
    | with_reducible exact Part.Sub.via hL (by decide)
    | ((try lift_lets); intro (x : State); refine Changes.via (l := pl) (s := s0) (x := x) ?_ (fun hx => ?_); rotate_left; clear_value x; rotate_left; unfold x)
    | ((try lift_lets); intro x; clear_value x)
    | with_reducible assumption
    | with_reducible apply State.setReg_changes
    | exact hm
    | exact hL _ (Part.mem_elem (by rfl))
    | split
    | (dsimp only))

theorem State.rose_changes {pl : List Part} {p : Page} {off : Nat} {b : W64} (hk : Changes pl s0 s) (hL : Part.Sub [.risen] pl := by first | assumption | exact Part.Sub.via (by assumption) (by decide +kernel)) : Changes pl s0 (State.rose s p off b) := by
  unfold State.rose
  repeat' (first
    | with_reducible exact hL
    | with_reducible exact Part.Sub.via hL (by decide)
    | ((try lift_lets); intro (x : State); refine Changes.via (l := pl) (s := s0) (x := x) ?_ (fun hx => ?_); rotate_left; clear_value x; rotate_left; unfold x)
    | ((try lift_lets); intro x; clear_value x)
    | with_reducible assumption
    | (with_reducible apply Changes.upd_risen; first | with_reducible assumption | split)
    | split
    | (dsimp only))

theorem State.raiseBits_changes {pl : List Part} {p : Page} {off : Nat} {b : W64} (hk : Changes pl s0 s) (hm : Part.page p.typ ∈ pl := by first | assumption | exact Part.Sub.mem (by assumption) (Part.mem_elem (by rfl))) (hL : Part.Sub [.risen] pl := by first | assumption | exact Part.Sub.via (by assumption) (by decide +kernel)) : Changes pl s0 (State.raiseBits s p off b) := by
  unfold State.raiseBits
  repeat' (first
    | with_reducible exact hL
    | with_reducible exact Part.Sub.via hL (by decide)
    | ((try lift_lets); intro (x : State); refine Changes.via (l := pl) (s := s0) (x := x) ?_ (fun hx => ?_); rotate_left; clear_value x; rotate_left; unfold x)
    | ((try lift_lets); intro x; clear_value x)
    | with_reducible assumption
    | with_reducible apply State.rose_changes
    | with_reducible apply State.setReg_changes
    | exact hm
    | exact hL _ (Part.mem_elem (by rfl))
    | split
    | (dsimp only))

theorem State.raiseF_changes {pl : List Part} {f : Fld} {inst : Nat} (hk : Changes pl s0 s) (hm : Part.page f.typ ∈ pl := by first | assumption | exact Part.Sub.mem (by assumption) (Part.mem_elem (by rfl))) (hL : Part.Sub [.risen] pl := by first | assumption | exact Part.Sub.via (by assumption) (by decide +kernel)) : Changes pl s0 (State.raiseF s f inst) := by
  unfold State.raiseF
  repeat' (first
    | with_reducible exact hL
    | with_reducible exact Part.Sub.via hL (by decide)
    | ((try lift_lets); intro (x : State); refine Changes.via (l := pl) (s := s0) (x := x) ?_ (fun hx => ?_); rotate_left; clear_value x; rotate_left; unfold x)
    | ((try lift_lets); intro x; clear_value x)
    | with_reducible assumption
    | with_reducible apply State.raiseBits_changes
    | exact hm
    | exact hL _ (Part.mem_elem (by rfl))
    | split
    | (dsimp only))

theorem State.setTile_changes {pl : List Part} {a : TileAddr} {t : Tile} (h : Changes pl s0 s) (hL : Part.Sub [.tiles] pl := by first | assumption | exact Part.Sub.via (by assumption) (by decide +kernel)) :
    Changes pl s0 (s.setTile a t) := Changes.upd_tiles h hL

theorem State.setField_changes {pl : List Part} {a : FieldAddr} {f : FieldSt} (h : Changes pl s0 s) (hL : Part.Sub [.fields] pl := by first | assumption | exact Part.Sub.via (by assumption) (by decide +kernel)) :
    Changes pl s0 (s.setField a f) := Changes.upd_fields h hL

theorem State.hostSend_changes {pl : List Part} {o : HostOut} (hk : Changes pl s0 s) (hL : Part.Sub [.hostOut, .hostHeld] pl := by first | assumption | exact Part.Sub.via (by assumption) (by decide +kernel)) : Changes pl s0 (State.hostSend s o) := by
  unfold State.hostSend
  repeat' (first
    | with_reducible exact hL
    | with_reducible exact Part.Sub.via hL (by decide)
    | ((try lift_lets); intro (x : State); refine Changes.via (l := pl) (s := s0) (x := x) ?_ (fun hx => ?_); rotate_left; clear_value x; rotate_left; unfold x)
    | ((try lift_lets); intro x; clear_value x)
    | with_reducible assumption
    | (with_reducible apply Changes.upd_hostHeld; first | with_reducible assumption | split)
    | (with_reducible apply Changes.upd_hostOut; first | with_reducible assumption | split)
    | split
    | (dsimp only))

theorem State.setMsix_changes {pl : List Part} {v : Nat} {e : MsixEntry} (h : Changes pl s0 s) (hL : Part.Sub [.msix] pl := by first | assumption | exact Part.Sub.via (by assumption) (by decide +kernel)) :
    Changes pl s0 (s.setMsix v e) := Changes.upd_msix h hL

theorem State.msixSend_changes {pl : List Part} {vector : Nat} (hk : Changes pl s0 s) (hL : Part.Sub [.hostOut, .hostHeld, .msix] pl := by first | assumption | exact Part.Sub.via (by assumption) (by decide +kernel)) : Changes pl s0 (State.msixSend s vector) := by
  unfold State.msixSend
  repeat' (first
    | with_reducible exact hL
    | with_reducible exact Part.Sub.via hL (by decide)
    | ((try lift_lets); intro (x : State); refine Changes.via (l := pl) (s := s0) (x := x) ?_ (fun hx => ?_); rotate_left; clear_value x; rotate_left; unfold x)
    | ((try lift_lets); intro x; clear_value x)
    | with_reducible assumption
    | with_reducible apply State.setMsix_changes
    | with_reducible apply State.hostSend_changes
    | split
    | (dsimp only))

theorem State.sendIrq_changes {pl : List Part} {p : Page} (hk : Changes pl s0 s) (hL : Part.Sub [.hostOut, .hostHeld, .fwIrq, .msix] pl := by first | assumption | exact Part.Sub.via (by assumption) (by decide +kernel)) : Changes pl s0 (State.sendIrq s p) := by
  unfold State.sendIrq
  repeat' (first
    | with_reducible exact hL
    | with_reducible exact Part.Sub.via hL (by decide)
    | ((try lift_lets); intro (x : State); refine Changes.via (l := pl) (s := s0) (x := x) ?_ (fun hx => ?_); rotate_left; clear_value x; rotate_left; unfold x)
    | ((try lift_lets); intro x; clear_value x)
    | with_reducible assumption
    | with_reducible apply State.msixSend_changes
    | (with_reducible apply Changes.upd_fwIrq; first | with_reducible assumption | with_reducible apply State.msixSend_changes | split)
    | split
    | (dsimp only))

theorem State.setIrq_changes {pl : List Part} {typ : PageType} {inst bit : Nat} (hk : Changes pl s0 s) (hm : Part.page typ ∈ pl := by first | assumption | exact Part.Sub.mem (by assumption) (Part.mem_elem (by rfl))) (hL : Part.Sub [.risen, .hostOut, .hostHeld, .fwIrq, .msix] pl := by first | assumption | exact Part.Sub.via (by assumption) (by decide +kernel)) : Changes pl s0 (State.setIrq s typ inst bit) := by
  unfold State.setIrq
  dsimp only
  repeat' (first
    | with_reducible exact hL
    | with_reducible exact Part.Sub.via hL (by decide)
    | ((try lift_lets); intro (x : State); refine Changes.via (l := pl) (s := s0) (x := x) ?_ (fun hx => ?_); rotate_left; clear_value x; rotate_left; unfold x)
    | ((try lift_lets); intro (x : Page); (try dsimp -zeta only [x]); clear x)
    | ((try lift_lets); intro x; clear_value x)
    | with_reducible assumption
    | with_reducible apply State.sendIrq_changes
    | with_reducible apply State.raiseBits_changes
    | exact hm
    | exact hL _ (Part.mem_elem (by rfl))
    | (refine hL _ (Part.mem_elem ?_); (repeat' split) <;> rfl)
    | split
    | (dsimp only))

theorem State.setErr_changes {pl : List Part} {typ : PageType} {inst bit : Nat} (hk : Changes pl s0 s) (hm : Part.page typ ∈ pl := by first | assumption | exact Part.Sub.mem (by assumption) (Part.mem_elem (by rfl))) (hL : Part.Sub [.risen] pl := by first | assumption | exact Part.Sub.via (by assumption) (by decide +kernel)) : Changes pl s0 (State.setErr s typ inst bit) := by
  unfold State.setErr
  repeat' (first
    | with_reducible exact hL
    | with_reducible exact Part.Sub.via hL (by decide)
    | ((try lift_lets); intro (x : State); refine Changes.via (l := pl) (s := s0) (x := x) ?_ (fun hx => ?_); rotate_left; clear_value x; rotate_left; unfold x)
    | ((try lift_lets); intro x; clear_value x)
    | with_reducible assumption
    | with_reducible apply State.raiseBits_changes
    | exact hm
    | exact hL _ (Part.mem_elem (by rfl))
    | split
    | (dsimp only))

theorem State.count_changes {pl : List Part} {c : Ctr} {inst n : Nat} (hk : Changes pl s0 s) (hm : Part.page c.typ ∈ pl := by first | assumption | exact Part.Sub.mem (by assumption) (Part.mem_elem (by rfl))) (hL : Part.Sub [] pl := by first | assumption | exact Part.Sub.via (by assumption) (by decide +kernel)) : Changes pl s0 (State.count s c inst n) := by
  unfold State.count
  repeat' (first
    | with_reducible exact hL
    | with_reducible exact Part.Sub.via hL (by decide)
    | ((try lift_lets); intro (x : State); refine Changes.via (l := pl) (s := s0) (x := x) ?_ (fun hx => ?_); rotate_left; clear_value x; rotate_left; unfold x)
    | ((try lift_lets); intro x; clear_value x)
    | with_reducible assumption
    | with_reducible apply State.setReg_changes
    | exact hm
    | exact hL _ (Part.mem_elem (by rfl))
    | split
    | (dsimp only))

theorem State.countLate_changes {pl : List Part} {c : Ctr} {inst n : Nat} {w : Waymark} (hk : Changes pl s0 s) (hm : Part.page c.typ ∈ pl := by first | assumption | exact Part.Sub.mem (by assumption) (Part.mem_elem (by rfl))) (hL : Part.Sub [.risen] pl := by first | assumption | exact Part.Sub.via (by assumption) (by decide +kernel)) : Changes pl s0 (State.countLate s c inst n w) := by
  unfold State.countLate
  dsimp only
  repeat' (first
    | with_reducible exact hL
    | with_reducible exact Part.Sub.via hL (by decide)
    | ((try lift_lets); intro (x : State); refine Changes.via (l := pl) (s := s0) (x := x) ?_ (fun hx => ?_); rotate_left; clear_value x; rotate_left; unfold x)
    | ((try lift_lets); intro (x : Page); (try dsimp -zeta only [x]); clear x)
    | ((try lift_lets); intro x; clear_value x)
    | with_reducible assumption
    | with_reducible apply State.raiseBits_changes
    | with_reducible apply State.setReg_changes
    | exact hm
    | exact hL _ (Part.mem_elem (by rfl))
    | (refine hL _ (Part.mem_elem ?_); (repeat' split) <;> rfl)
    | split
    | (dsimp only))

theorem State.countWm_changes {pl : List Part} {c : Ctr} {inst n : Nat} {w : Waymark} (hk : Changes pl s0 s) (hm : Part.page c.typ ∈ pl := by first | assumption | exact Part.Sub.mem (by assumption) (Part.mem_elem (by rfl))) (hL : Part.Sub [.risen, .ahead] pl := by first | assumption | exact Part.Sub.via (by assumption) (by decide +kernel)) : Changes pl s0 (State.countWm s c inst n w) := by
  unfold State.countWm
  repeat' (first
    | with_reducible exact hL
    | with_reducible exact Part.Sub.via hL (by decide)
    | ((try lift_lets); intro (x : State); refine Changes.via (l := pl) (s := s0) (x := x) ?_ (fun hx => ?_); rotate_left; clear_value x; rotate_left; unfold x)
    | ((try lift_lets); intro x; clear_value x)
    | with_reducible assumption
    | with_reducible apply State.countLate_changes
    | with_reducible apply State.count_changes
    | (with_reducible apply Changes.upd_ahead; first | with_reducible assumption | with_reducible apply State.countLate_changes | with_reducible apply State.count_changes | split)
    | exact hm
    | exact hL _ (Part.mem_elem (by rfl))
    | (refine hL _ (Part.mem_elem ?_); (repeat' split) <;> rfl)
    | split
    | (dsimp only))

theorem State.addAhead_changes {pl : List Part}  (hk : Changes pl s0 s) (hL : Part.Sub (allPages ++ [.risen, .ahead]) pl := by first | assumption | exact Part.Sub.via (by assumption) (by decide +kernel)) : Changes pl s0 (State.addAhead s) := by
  unfold State.addAhead
  repeat' (first
    | with_reducible exact hL
    | with_reducible exact Part.Sub.via hL (by decide)
    | ((try lift_lets); intro (x : State); refine Changes.via (l := pl) (s := s0) (x := x) ?_ (fun hx => ?_); rotate_left; clear_value x; rotate_left; unfold x)
    | ((try lift_lets); intro x; clear_value x)
    | with_reducible assumption
    | with_reducible apply State.countWm_changes
    | with_reducible refine Changes.foldl ?_ (fun u x hu => ?_)
    | (with_reducible apply Changes.upd_ahead; first | with_reducible assumption | with_reducible apply State.countWm_changes | split)
    | exact hL _ (Part.mem_elem (by rfl))
    | (refine hL _ (Part.mem_elem ?_); (repeat' split) <;> rfl)
    | exact hL _ (List.mem_append_left _ (Part.mem_pages _))
    | split
    | (dsimp only))

theorem State.latchPage_changes {pl : List Part} {p : Page} {w : Waymark} {attempt : Nat} (hk : Changes pl s0 s) (hm : Part.page p.typ ∈ pl := by first | assumption | exact Part.Sub.mem (by assumption) (Part.mem_elem (by rfl))) (hL : Part.Sub [.risen] pl := by first | assumption | exact Part.Sub.via (by assumption) (by decide +kernel)) : Changes pl s0 (State.latchPage s p w attempt) := by
  unfold State.latchPage
  repeat' (first
    | with_reducible exact hL
    | with_reducible exact Part.Sub.via hL (by decide)
    | ((try lift_lets); intro (x : State); refine Changes.via (l := pl) (s := s0) (x := x) ?_ (fun hx => ?_); rotate_left; clear_value x; rotate_left; unfold x)
    | ((try lift_lets); intro x; clear_value x)
    | with_reducible assumption
    | with_reducible apply State.raiseBits_changes
    | with_reducible apply State.setReg_changes
    | with_reducible refine Changes.foldl ?_ (fun u x hu => ?_)
    | exact hm
    | exact hL _ (Part.mem_elem (by rfl))
    | (refine hL _ (Part.mem_elem ?_); (repeat' split) <;> rfl)
    | split
    | (dsimp only))

theorem State.capture_changes {pl : List Part} {valid : Fld} {inst : Nat} {irq : Option Nat} {vals : List (Nat × W64)} (hk : Changes pl s0 s) (hm : Part.page valid.typ ∈ pl := by first | assumption | exact Part.Sub.mem (by assumption) (Part.mem_elem (by rfl))) (hL : Part.Sub [.risen, .hostOut, .hostHeld, .fwIrq, .msix] pl := by first | assumption | exact Part.Sub.via (by assumption) (by decide +kernel)) : Changes pl s0 (State.capture s valid inst irq vals) := by
  unfold State.capture
  repeat' (first
    | with_reducible exact hL
    | with_reducible exact Part.Sub.via hL (by decide)
    | ((try lift_lets); intro (x : State); refine Changes.via (l := pl) (s := s0) (x := x) ?_ (fun hx => ?_); rotate_left; clear_value x; rotate_left; unfold x)
    | ((try lift_lets); intro x; clear_value x)
    | with_reducible assumption
    | with_reducible apply State.setIrq_changes
    | with_reducible apply State.rose_changes
    | with_reducible apply State.setReg_changes
    | with_reducible refine Changes.foldl ?_ (fun u x hu => ?_)
    | exact hm
    | exact hL _ (Part.mem_elem (by rfl))
    | (refine hL _ (Part.mem_elem ?_); (repeat' split) <;> rfl)
    | split
    | (dsimp only))

theorem State.captureFirst_changes {pl : List Part} {valid : Fld} {inst : Nat} {irq : Option Nat} {vals : List (Nat × W64)} (hk : Changes pl s0 s) (hm : Part.page valid.typ ∈ pl := by first | assumption | exact Part.Sub.mem (by assumption) (Part.mem_elem (by rfl))) (hL : Part.Sub [.risen, .hostOut, .hostHeld, .fwIrq, .msix] pl := by first | assumption | exact Part.Sub.via (by assumption) (by decide +kernel)) : Changes pl s0 (State.captureFirst s valid inst irq vals) := by
  unfold State.captureFirst
  repeat' (first
    | with_reducible exact hL
    | with_reducible exact Part.Sub.via hL (by decide)
    | ((try lift_lets); intro (x : State); refine Changes.via (l := pl) (s := s0) (x := x) ?_ (fun hx => ?_); rotate_left; clear_value x; rotate_left; unfold x)
    | ((try lift_lets); intro x; clear_value x)
    | with_reducible assumption
    | with_reducible apply State.capture_changes
    | exact hm
    | exact hL _ (Part.mem_elem (by rfl))
    | (refine hL _ (Part.mem_elem ?_); (repeat' split) <;> rfl)
    | split
    | (dsimp only))

theorem State.captureTile_changes {pl : List Part} {valid : Fld} {inst : Nat} {irq : Option Nat} {lo : Nat} {word : W64} {vals : List (Nat × W64)} (hk : Changes pl s0 s) (hm : Part.page valid.typ ∈ pl := by first | assumption | exact Part.Sub.mem (by assumption) (Part.mem_elem (by rfl))) (hL : Part.Sub [.risen, .hostOut, .hostHeld, .fwIrq, .msix] pl := by first | assumption | exact Part.Sub.via (by assumption) (by decide +kernel)) : Changes pl s0 (State.captureTile s valid inst irq lo word vals) := by
  unfold State.captureTile
  dsimp only
  repeat' (first
    | with_reducible exact hL
    | with_reducible exact Part.Sub.via hL (by decide)
    | ((try lift_lets); intro (x : State); refine Changes.via (l := pl) (s := s0) (x := x) ?_ (fun hx => ?_); rotate_left; clear_value x; rotate_left; unfold x)
    | ((try lift_lets); intro (x : Page); (try dsimp -zeta only [x]); clear x)
    | ((try lift_lets); intro x; clear_value x)
    | with_reducible assumption
    | with_reducible apply State.capture_changes
    | exact hm
    | exact hL _ (Part.mem_elem (by rfl))
    | (refine hL _ (Part.mem_elem ?_); (repeat' split) <;> rfl)
    | split
    | (dsimp only))

theorem State.raise_changes {pl : List Part} {r : ErrRec} (hk : Changes pl s0 s) (hL : Part.Sub [.records] pl := by first | assumption | exact Part.Sub.via (by assumption) (by decide +kernel)) : Changes pl s0 (State.raise s r) := by
  unfold State.raise
  repeat' (first
    | with_reducible exact hL
    | with_reducible exact Part.Sub.via hL (by decide)
    | ((try lift_lets); intro (x : State); refine Changes.via (l := pl) (s := s0) (x := x) ?_ (fun hx => ?_); rotate_left; clear_value x; rotate_left; unfold x)
    | ((try lift_lets); intro x; clear_value x)
    | with_reducible assumption
    | (with_reducible apply Changes.upd_records; first | with_reducible assumption | split)
    | split
    | (dsimp only))

theorem State.raiseOnce_changes {pl : List Part} {key : Nat} {r : ErrRec} (hk : Changes pl s0 s) (hL : Part.Sub [.recOnce, .records] pl := by first | assumption | exact Part.Sub.via (by assumption) (by decide +kernel)) : Changes pl s0 (State.raiseOnce s key r) := by
  unfold State.raiseOnce
  repeat' (first
    | with_reducible exact hL
    | with_reducible exact Part.Sub.via hL (by decide)
    | ((try lift_lets); intro (x : State); refine Changes.via (l := pl) (s := s0) (x := x) ?_ (fun hx => ?_); rotate_left; clear_value x; rotate_left; unfold x)
    | ((try lift_lets); intro x; clear_value x)
    | with_reducible assumption
    | with_reducible apply State.raise_changes
    | (with_reducible apply Changes.upd_recOnce; first | with_reducible assumption | with_reducible apply State.raise_changes | split)
    | split
    | (dsimp only))

theorem State.freeBits_changes {pl : List Part} {n : Nat} (hk : Changes pl s0 s) (hL : Part.Sub [.free] pl := by first | assumption | exact Part.Sub.via (by assumption) (by decide +kernel)) : Changes pl s0 (State.freeBits s n).2 := by
  unfold State.freeBits
  repeat' (first
    | with_reducible exact hL
    | with_reducible exact Part.Sub.via hL (by decide)
    | ((try lift_lets); intro (x : State); refine Changes.via (l := pl) (s := s0) (x := x) ?_ (fun hx => ?_); rotate_left; clear_value x; rotate_left; unfold x)
    | ((try lift_lets); intro x; clear_value x)
    | with_reducible assumption
    | (with_reducible apply Changes.upd_free; first | with_reducible assumption | split)
    | split
    | (dsimp only))

end Sys2Proof.Machine
end

