-- ==== Sys2Proof/Laws/ChangesDefects.lean ====
section
/-!
SUPPORT. What the operations of Machine/Defects can change (Laws/Changes).
-/
namespace Sys2Proof.Machine

set_option linter.all false

variable {s0 s : State}

theorem State.retain_changes {pl : List Part} {r : Retained} (hk : Changes pl s0 s) (hL : Part.Sub [.page .FLT, .risen, .retained, .hostOut, .hostHeld, .fwIrq, .msix] pl := by first | assumption | exact Part.Sub.via (by assumption) (by decide +kernel)) : Changes pl s0 (State.retain s r) := by
  unfold State.retain
  repeat' (first
    | with_reducible exact hL
    | with_reducible exact Part.Sub.via hL (by decide)
    | ((try lift_lets); intro (x : State); refine Changes.via (l := pl) (s := s0) (x := x) ?_ (fun hx => ?_); rotate_left; clear_value x; rotate_left; unfold x)
    | ((try lift_lets); intro x; clear_value x)
    | with_reducible assumption
    | with_reducible apply State.count_changes
    | with_reducible apply State.setIrq_changes
    | (with_reducible apply Changes.upd_retained; first | with_reducible assumption | with_reducible apply State.count_changes | with_reducible apply State.setIrq_changes | split)
    | exact hL _ (Part.mem_elem (by rfl))
    | (refine hL _ (Part.mem_elem ?_); (repeat' split) <;> rfl)
    | split
    | (dsimp only))

theorem State.retireField_changes {pl : List Part} {f : FieldAddr} {cause code : Nat} {block : Option Nat} {wm : Waymark} (hk : Changes pl s0 s) (hL : Part.Sub [.page .FLT, .risen, .fields, .records, .retained, .hostOut, .hostHeld, .fwIrq, .msix] pl := by first | assumption | exact Part.Sub.via (by assumption) (by decide +kernel)) : Changes pl s0 (State.retireField s f cause code block wm) := by
  unfold State.retireField
  repeat' (first
    | with_reducible exact hL
    | with_reducible exact Part.Sub.via hL (by decide)
    | ((try lift_lets); intro (x : State); refine Changes.via (l := pl) (s := s0) (x := x) ?_ (fun hx => ?_); rotate_left; clear_value x; rotate_left; unfold x)
    | ((try lift_lets); intro x; clear_value x)
    | with_reducible assumption
    | with_reducible apply State.raise_changes
    | with_reducible apply State.setIrq_changes
    | with_reducible apply State.setField_changes
    | with_reducible apply State.retain_changes
    | exact hL _ (Part.mem_elem (by rfl))
    | (refine hL _ (Part.mem_elem ?_); (repeat' split) <;> rfl)
    | split
    | (dsimp only))

theorem State.markRebind_changes {pl : List Part} {f : FieldAddr} (hk : Changes pl s0 s) (hL : Part.Sub [.page .FLT] pl := by first | assumption | exact Part.Sub.via (by assumption) (by decide +kernel)) : Changes pl s0 (State.markRebind s f) := by
  unfold State.markRebind
  repeat' (first
    | with_reducible exact hL
    | with_reducible exact Part.Sub.via hL (by decide)
    | ((try lift_lets); intro (x : State); refine Changes.via (l := pl) (s := s0) (x := x) ?_ (fun hx => ?_); rotate_left; clear_value x; rotate_left; unfold x)
    | ((try lift_lets); intro x; clear_value x)
    | with_reducible assumption
    | with_reducible apply State.setReg_changes
    | exact hL _ (Part.mem_elem (by rfl))
    | (refine hL _ (Part.mem_elem ?_); (repeat' split) <;> rfl)
    | split
    | (dsimp only))

theorem State.applyFences_changes {pl : List Part} {f : FieldAddr} (hk : Changes pl s0 s) (hL : Part.Sub [.fields] pl := by first | assumption | exact Part.Sub.via (by assumption) (by decide +kernel)) : Changes pl s0 (State.applyFences s f) := by
  unfold State.applyFences
  repeat' (first
    | with_reducible exact hL
    | with_reducible exact Part.Sub.via hL (by decide)
    | ((try lift_lets); intro (x : State); refine Changes.via (l := pl) (s := s0) (x := x) ?_ (fun hx => ?_); rotate_left; clear_value x; rotate_left; unfold x)
    | ((try lift_lets); intro x; clear_value x)
    | with_reducible assumption
    | with_reducible apply State.setField_changes
    | with_reducible refine Changes.foldl ?_ (fun u x hu => ?_)
    | split
    | (dsimp only))

theorem State.condemn_changes {pl : List Part} {a : TileAddr} {router : Bool} {code : Nat} {wm : Waymark} (hk : Changes pl s0 s) (hL : Part.Sub [.page .FLT, .risen, .fields, .records, .retained, .hostOut, .hostHeld, .fwIrq, .msix] pl := by first | assumption | exact Part.Sub.via (by assumption) (by decide +kernel)) : Changes pl s0 (State.condemn s a router code wm) := by
  unfold State.condemn
  repeat' (first
    | with_reducible exact hL
    | with_reducible exact Part.Sub.via hL (by decide)
    | ((try lift_lets); intro (x : State); refine Changes.via (l := pl) (s := s0) (x := x) ?_ (fun hx => ?_); rotate_left; clear_value x; rotate_left; unfold x)
    | ((try lift_lets); intro x; clear_value x)
    | with_reducible assumption
    | with_reducible apply State.raise_changes
    | with_reducible apply State.count_changes
    | with_reducible apply State.setField_changes
    | with_reducible apply State.applyFences_changes
    | with_reducible apply State.markRebind_changes
    | with_reducible apply State.retireField_changes
    | with_reducible apply State.retain_changes
    | exact hL _ (Part.mem_elem (by rfl))
    | (refine hL _ (Part.mem_elem ?_); (repeat' split) <;> rfl)
    | split
    | (dsimp only))

end Sys2Proof.Machine
end

