-- ==== Sys2Proof/Laws/ChangesScratch.lean ====
section
/-!
SUPPORT. What the operations of Machine/Scratch can change (Laws/Changes).
-/
namespace Sys2Proof.Machine

set_option linter.all false

variable {s0 s : State}

theorem State.reportCause_changes {pl : List Part} {a : FieldAddr} {cause : Nat} {hw : Bool} {row col task : Nat} (hk : Changes pl s0 s) (hL : Part.Sub [.causes] pl := by first | assumption | exact Part.Sub.via (by assumption) (by decide +kernel)) : Changes pl s0 (State.reportCause s a cause hw row col task) := by
  unfold State.reportCause
  repeat' (first
    | with_reducible exact hL
    | with_reducible exact Part.Sub.via hL (by decide)
    | ((try lift_lets); intro (x : State); refine Changes.via (l := pl) (s := s0) (x := x) ?_ (fun hx => ?_); rotate_left; clear_value x; rotate_left; unfold x)
    | ((try lift_lets); intro x; clear_value x)
    | with_reducible assumption
    | (with_reducible apply Changes.upd_causes; first | with_reducible assumption | split)
    | split
    | (dsimp only))

theorem State.faultTask_changes {pl : List Part} {a : TileAddr} {task code slot op : Nat} (hk : Changes pl s0 s) (hL : Part.Sub [.page .TSQ, .page .SPD, .risen, .tiles, .records, .causes, .hostOut, .hostHeld, .fwIrq, .msix] pl := by first | assumption | exact Part.Sub.via (by assumption) (by decide +kernel)) : Changes pl s0 (State.faultTask s a task code slot op) := by
  unfold State.faultTask
  repeat' (first
    | with_reducible exact hL
    | with_reducible exact Part.Sub.via hL (by decide)
    | ((try lift_lets); intro (x : State); refine Changes.via (l := pl) (s := s0) (x := x) ?_ (fun hx => ?_); rotate_left; clear_value x; rotate_left; unfold x)
    | ((try lift_lets); intro x; clear_value x)
    | with_reducible assumption
    | with_reducible apply State.reportCause_changes
    | with_reducible apply State.raise_changes
    | with_reducible apply State.count_changes
    | with_reducible apply State.setIrq_changes
    | with_reducible apply State.setTile_changes
    | exact hL _ (Part.mem_elem (by rfl))
    | (refine hL _ (Part.mem_elem ?_); (repeat' split) <;> rfl)
    | split
    | (dsimp only))

theorem State.countBank_changes {pl : List Part} {a : TileAddr} {deep : Bool} {n : Nat} (hk : Changes pl s0 s) (hL : Part.Sub [.page .FEN] pl := by first | assumption | exact Part.Sub.via (by assumption) (by decide +kernel)) : Changes pl s0 (State.countBank s a deep n) := by
  unfold State.countBank
  repeat' (first
    | with_reducible exact hL
    | with_reducible exact Part.Sub.via hL (by decide)
    | ((try lift_lets); intro (x : State); refine Changes.via (l := pl) (s := s0) (x := x) ?_ (fun hx => ?_); rotate_left; clear_value x; rotate_left; unfold x)
    | ((try lift_lets); intro x; clear_value x)
    | with_reducible assumption
    | with_reducible apply State.count_changes
    | exact hL _ (Part.mem_elem (by rfl))
    | (refine hL _ (Part.mem_elem ?_); (repeat' split) <;> rfl)
    | split
    | (dsimp only))

theorem State.noteUe_changes {pl : List Part} {a : TileAddr} {deep : Bool} {off : Nat} {src : UeSource} {task : Nat} (hk : Changes pl s0 s) (hL : Part.Sub [.page .SPD, .risen, .recOnce, .records, .hostOut, .hostHeld, .fwIrq, .msix] pl := by first | assumption | exact Part.Sub.via (by assumption) (by decide +kernel)) : Changes pl s0 (State.noteUe s a deep off src task) := by
  unfold State.noteUe
  repeat' (first
    | with_reducible exact hL
    | with_reducible exact Part.Sub.via hL (by decide)
    | ((try lift_lets); intro (x : State); refine Changes.via (l := pl) (s := s0) (x := x) ?_ (fun hx => ?_); rotate_left; clear_value x; rotate_left; unfold x)
    | ((try lift_lets); intro x; clear_value x)
    | with_reducible assumption
    | with_reducible apply State.raiseOnce_changes
    | with_reducible apply State.captureTile_changes
    | with_reducible apply State.count_changes
    | exact hL _ (Part.mem_elem (by rfl))
    | (refine hL _ (Part.mem_elem ?_); (repeat' split) <;> rfl)
    | split
    | (dsimp only))

theorem State.decodeRow_changes {pl : List Part} {a : TileAddr} {deep : Bool} {row : Nat} {used : List Nat} {src : UeSource} {task : Nat} (hk : Changes pl s0 s) (hL : Part.Sub [.page .SPD, .page .FEN, .risen, .tiles, .recOnce, .records, .hostOut, .hostHeld, .fwIrq, .msix] pl := by first | assumption | exact Part.Sub.via (by assumption) (by decide +kernel)) : Changes pl s0 (State.decodeRow s a deep row used src task).1 := by
  unfold State.decodeRow
  repeat' (first
    | with_reducible exact hL
    | with_reducible exact Part.Sub.via hL (by decide)
    | ((try lift_lets); intro (x : State); refine Changes.via (l := pl) (s := s0) (x := x) ?_ (fun hx => ?_); rotate_left; clear_value x; rotate_left; unfold x)
    | ((try lift_lets); intro (x : State × _); refine Changes.via (l := pl) (s := s0) (x := x.1) ?_ (fun hx => ?_); rotate_left; clear_value x; rotate_left; unfold x)
    | ((try lift_lets); intro (x : _ × State); refine Changes.via (l := pl) (s := s0) (x := x.2) ?_ (fun hx => ?_); rotate_left; clear_value x; rotate_left; unfold x)
    | ((try lift_lets); intro x; clear_value x)
    | with_reducible assumption
    | with_reducible apply State.noteUe_changes
    | with_reducible apply State.countBank_changes
    | with_reducible apply State.count_changes
    | with_reducible apply State.setTile_changes
    | with_reducible refine Changes.foldl ?_ (fun u x hu => ?_)
    | with_reducible refine Changes.foldl_fst ?_ (fun u x hu => ?_)
    | exact hL _ (Part.mem_elem (by rfl))
    | (refine hL _ (Part.mem_elem ?_); (repeat' split) <;> rfl)
    | split
    | (dsimp only))

theorem flushWord_changes {pl : List Part} {a : TileAddr} {e : GatherEnt} {w : Nat} (hk : Changes pl s0 s) (hL : Part.Sub [.page .FEN, .tiles] pl := by first | assumption | exact Part.Sub.via (by assumption) (by decide +kernel)) : Changes pl s0 (flushWord s a e w) := by
  unfold flushWord
  repeat' (first
    | with_reducible exact hL
    | with_reducible exact Part.Sub.via hL (by decide)
    | ((try lift_lets); intro (x : State); refine Changes.via (l := pl) (s := s0) (x := x) ?_ (fun hx => ?_); rotate_left; clear_value x; rotate_left; unfold x)
    | ((try lift_lets); intro x; clear_value x)
    | with_reducible assumption
    | with_reducible apply State.countBank_changes
    | with_reducible apply State.setTile_changes
    | split
    | (dsimp only))

theorem State.flushEntry_changes {pl : List Part} {a : TileAddr} {e : GatherEnt} (hk : Changes pl s0 s) (hL : Part.Sub [.page .SPD, .page .FEN, .risen, .tiles, .recOnce, .records, .hostOut, .hostHeld, .fwIrq, .msix] pl := by first | assumption | exact Part.Sub.via (by assumption) (by decide +kernel)) : Changes pl s0 (State.flushEntry s a e) := by
  unfold State.flushEntry
  repeat' (first
    | with_reducible exact hL
    | with_reducible exact Part.Sub.via hL (by decide)
    | ((try lift_lets); intro (x : State); refine Changes.via (l := pl) (s := s0) (x := x) ?_ (fun hx => ?_); rotate_left; clear_value x; rotate_left; unfold x)
    | ((try lift_lets); intro (x : State × _); refine Changes.via (l := pl) (s := s0) (x := x.1) ?_ (fun hx => ?_); rotate_left; clear_value x; rotate_left; unfold x)
    | ((try lift_lets); intro (x : _ × State); refine Changes.via (l := pl) (s := s0) (x := x.2) ?_ (fun hx => ?_); rotate_left; clear_value x; rotate_left; unfold x)
    | ((try lift_lets); intro x; clear_value x)
    | with_reducible assumption
    | with_reducible apply flushWord_changes
    | with_reducible refine Changes.of_fst (State.decodeRow_changes ?_ ?_) (by assumption)
    | with_reducible apply State.decodeRow_changes
    | with_reducible apply State.count_changes
    | with_reducible apply State.setTile_changes
    | with_reducible refine Changes.foldl ?_ (fun u x hu => ?_)
    | with_reducible refine Changes.foldl_fst ?_ (fun u x hu => ?_)
    | exact hL _ (Part.mem_elem (by rfl))
    | (refine hL _ (Part.mem_elem ?_); (repeat' split) <;> rfl)
    | split
    | (dsimp only))

theorem State.flushRow_changes {pl : List Part} {a : TileAddr} {deep : Bool} {row : Nat} (hk : Changes pl s0 s) (hL : Part.Sub [.page .SPD, .page .FEN, .risen, .tiles, .recOnce, .records, .hostOut, .hostHeld, .fwIrq, .msix] pl := by first | assumption | exact Part.Sub.via (by assumption) (by decide +kernel)) : Changes pl s0 (State.flushRow s a deep row) := by
  unfold State.flushRow
  repeat' (first
    | with_reducible exact hL
    | with_reducible exact Part.Sub.via hL (by decide)
    | ((try lift_lets); intro (x : State); refine Changes.via (l := pl) (s := s0) (x := x) ?_ (fun hx => ?_); rotate_left; clear_value x; rotate_left; unfold x)
    | ((try lift_lets); intro x; clear_value x)
    | with_reducible assumption
    | with_reducible apply State.flushEntry_changes
    | split
    | (dsimp only))

theorem State.flushAll_changes {pl : List Part} {a : TileAddr} (hk : Changes pl s0 s) (hL : Part.Sub [.page .SPD, .page .FEN, .risen, .tiles, .recOnce, .records, .hostOut, .hostHeld, .fwIrq, .msix] pl := by first | assumption | exact Part.Sub.via (by assumption) (by decide +kernel)) : Changes pl s0 (State.flushAll s a) := by
  unfold State.flushAll
  repeat' (first
    | with_reducible exact hL
    | with_reducible exact Part.Sub.via hL (by decide)
    | ((try lift_lets); intro (x : State); refine Changes.via (l := pl) (s := s0) (x := x) ?_ (fun hx => ?_); rotate_left; clear_value x; rotate_left; unfold x)
    | ((try lift_lets); intro x; clear_value x)
    | with_reducible assumption
    | with_reducible apply State.flushEntry_changes
    | with_reducible refine Changes.foldl ?_ (fun u x hu => ?_)
    | split
    | (dsimp only))

theorem State.gatherRoom_changes {pl : List Part} {a : TileAddr} (hk : Changes pl s0 s) (hL : Part.Sub [.page .SPD, .page .FEN, .risen, .tiles, .recOnce, .records, .hostOut, .hostHeld, .fwIrq, .msix] pl := by first | assumption | exact Part.Sub.via (by assumption) (by decide +kernel)) : Changes pl s0 (State.gatherRoom s a) := by
  unfold State.gatherRoom
  repeat' (first
    | with_reducible exact hL
    | with_reducible exact Part.Sub.via hL (by decide)
    | ((try lift_lets); intro (x : State); refine Changes.via (l := pl) (s := s0) (x := x) ?_ (fun hx => ?_); rotate_left; clear_value x; rotate_left; unfold x)
    | ((try lift_lets); intro x; clear_value x)
    | with_reducible assumption
    | with_reducible apply State.flushEntry_changes
    | split
    | (dsimp only))

theorem State.narrowWrite_changes {pl : List Part} {a : TileAddr} {deep : Bool} {off : Nat} {bs : List Byte} (hk : Changes pl s0 s) (hL : Part.Sub [.page .SPD, .page .FEN, .risen, .tiles, .recOnce, .records, .hostOut, .hostHeld, .fwIrq, .msix] pl := by first | assumption | exact Part.Sub.via (by assumption) (by decide +kernel)) : Changes pl s0 (State.narrowWrite s a deep off bs) := by
  unfold State.narrowWrite
  repeat' (first
    | with_reducible exact hL
    | with_reducible exact Part.Sub.via hL (by decide)
    | ((try lift_lets); intro (x : State); refine Changes.via (l := pl) (s := s0) (x := x) ?_ (fun hx => ?_); rotate_left; clear_value x; rotate_left; unfold x)
    | ((try lift_lets); intro (x : _ → _); dsimp -zeta only [x]; clear x)
    | ((try lift_lets); intro x; clear_value x)
    | with_reducible assumption
    | with_reducible apply State.gatherRoom_changes
    | with_reducible apply State.flushEntry_changes
    | with_reducible apply State.setTile_changes
    | split
    | (dsimp only))

theorem State.writeRows_changes {pl : List Part} {a : TileAddr} {deep : Bool} {off : Nat} {bs : List Byte} (hk : Changes pl s0 s) (hL : Part.Sub [.page .SPD, .page .FEN, .risen, .tiles, .recOnce, .records, .hostOut, .hostHeld, .fwIrq, .msix] pl := by first | assumption | exact Part.Sub.via (by assumption) (by decide +kernel)) : Changes pl s0 (State.writeRows s a deep off bs) := by
  unfold State.writeRows
  repeat' (first
    | with_reducible exact hL
    | with_reducible exact Part.Sub.via hL (by decide)
    | ((try lift_lets); intro (x : State); refine Changes.via (l := pl) (s := s0) (x := x) ?_ (fun hx => ?_); rotate_left; clear_value x; rotate_left; unfold x)
    | ((try lift_lets); intro x; clear_value x)
    | with_reducible assumption
    | with_reducible apply State.flushRow_changes
    | with_reducible apply State.countBank_changes
    | with_reducible apply State.setTile_changes
    | with_reducible refine Changes.foldl ?_ (fun u x hu => ?_)
    | split
    | (dsimp only))

theorem State.readRow_changes {pl : List Part} {a : TileAddr} {deep : Bool} {row : Nat} {used : List Nat} {src : UeSource} {task : Nat} (hk : Changes pl s0 s) (hL : Part.Sub [.page .SPD, .page .FEN, .risen, .tiles, .recOnce, .records, .hostOut, .hostHeld, .fwIrq, .msix] pl := by first | assumption | exact Part.Sub.via (by assumption) (by decide +kernel)) : Changes pl s0 (State.readRow s a deep row used src task).1 := by
  unfold State.readRow
  repeat' (first
    | with_reducible exact hL
    | with_reducible exact Part.Sub.via hL (by decide)
    | ((try lift_lets); intro (x : State); refine Changes.via (l := pl) (s := s0) (x := x) ?_ (fun hx => ?_); rotate_left; clear_value x; rotate_left; unfold x)
    | ((try lift_lets); intro (x : State × _); refine Changes.via (l := pl) (s := s0) (x := x.1) ?_ (fun hx => ?_); rotate_left; clear_value x; rotate_left; unfold x)
    | ((try lift_lets); intro (x : _ × State); refine Changes.via (l := pl) (s := s0) (x := x.2) ?_ (fun hx => ?_); rotate_left; clear_value x; rotate_left; unfold x)
    | ((try lift_lets); intro x; clear_value x)
    | with_reducible assumption
    | with_reducible apply State.flushRow_changes
    | with_reducible refine Changes.of_fst (State.decodeRow_changes ?_ ?_) (by assumption)
    | with_reducible apply State.decodeRow_changes
    | split
    | (dsimp only))

theorem State.readBytes_changes {pl : List Part} {a : TileAddr} {deep : Bool} {used : List Nat} {src : UeSource} {task : Nat} (hk : Changes pl s0 s) (hL : Part.Sub [.page .SPD, .page .FEN, .risen, .tiles, .recOnce, .records, .hostOut, .hostHeld, .fwIrq, .msix] pl := by first | assumption | exact Part.Sub.via (by assumption) (by decide +kernel)) : Changes pl s0 (State.readBytes s a deep used src task).1 := by
  unfold State.readBytes
  repeat' (first
    | with_reducible exact hL
    | with_reducible exact Part.Sub.via hL (by decide)
    | ((try lift_lets); intro (x : State); refine Changes.via (l := pl) (s := s0) (x := x) ?_ (fun hx => ?_); rotate_left; clear_value x; rotate_left; unfold x)
    | ((try lift_lets); intro (x : State × _); refine Changes.via (l := pl) (s := s0) (x := x.1) ?_ (fun hx => ?_); rotate_left; clear_value x; rotate_left; unfold x)
    | ((try lift_lets); intro (x : _ × State); refine Changes.via (l := pl) (s := s0) (x := x.2) ?_ (fun hx => ?_); rotate_left; clear_value x; rotate_left; unfold x)
    | ((try lift_lets); intro x; clear_value x)
    | with_reducible assumption
    | with_reducible refine Changes.of_fst (State.readRow_changes ?_ ?_) (by assumption)
    | with_reducible apply State.readRow_changes
    | with_reducible apply State.count_changes
    | with_reducible refine Changes.foldl ?_ (fun u x hu => ?_)
    | with_reducible refine Changes.foldl_fst ?_ (fun u x hu => ?_)
    | exact hL _ (Part.mem_elem (by rfl))
    | (refine hL _ (Part.mem_elem ?_); (repeat' split) <;> rfl)
    | split
    | (dsimp only))

theorem State.failTile_changes {pl : List Part} {a : TileAddr} {task : Nat} (hk : Changes pl s0 s) (hL : Part.Sub [.page .FLT, .risen, .tiles, .fields, .records, .causes, .retained, .hostOut, .hostHeld, .fwIrq, .msix] pl := by first | assumption | exact Part.Sub.via (by assumption) (by decide +kernel)) : Changes pl s0 (State.failTile s a task) := by
  unfold State.failTile
  repeat' (first
    | with_reducible exact hL
    | with_reducible exact Part.Sub.via hL (by decide)
    | ((try lift_lets); intro (x : State); refine Changes.via (l := pl) (s := s0) (x := x) ?_ (fun hx => ?_); rotate_left; clear_value x; rotate_left; unfold x)
    | ((try lift_lets); intro x; clear_value x)
    | with_reducible assumption
    | with_reducible apply State.reportCause_changes
    | with_reducible apply State.setTile_changes
    | with_reducible apply State.condemn_changes
    | split
    | (dsimp only))

end Sys2Proof.Machine
end

