-- ==== Sys2Proof/Laws/ChangesFlags.lean ====
section
/-!
SUPPORT. What the operations of Machine/Flags can change (Laws/Changes).
-/
namespace Sys2Proof.Machine

set_option linter.all false

variable {s0 s : State}

theorem State.arfFlags_changes {pl : List Part} {a : FieldAddr} {b : BitVec 8} (hk : Changes pl s0 s) (hL : Part.Sub [.page .ARF, .risen, .hostOut, .hostHeld, .fwIrq, .msix] pl := by first | assumption | exact Part.Sub.via (by assumption) (by decide +kernel)) : Changes pl s0 (State.arfFlags s a b) := by
  unfold State.arfFlags
  repeat' (first
    | with_reducible exact hL
    | with_reducible exact Part.Sub.via hL (by decide)
    | ((try lift_lets); intro (x : State); refine Changes.via (l := pl) (s := s0) (x := x) ?_ (fun hx => ?_); rotate_left; clear_value x; rotate_left; unfold x)
    | ((try lift_lets); intro (x : _ → _); dsimp -zeta only [x]; clear x)
    | ((try lift_lets); intro x; clear_value x)
    | with_reducible assumption
    | with_reducible apply State.setIrq_changes
    | with_reducible apply State.raiseBits_changes
    | exact hL _ (Part.mem_elem (by rfl))
    | (refine hL _ (Part.mem_elem ?_); (repeat' split) <;> rfl)
    | split
    | (dsimp only))

theorem State.taskFlags_changes {pl : List Part} {a : TileAddr} {task : Nat} {b : BitVec 8} (hk : Changes pl s0 s) (hL : Part.Sub [.tiles] pl := by first | assumption | exact Part.Sub.via (by assumption) (by decide +kernel)) : Changes pl s0 (State.taskFlags s a task b) := by
  unfold State.taskFlags
  repeat' (first
    | with_reducible exact hL
    | with_reducible exact Part.Sub.via hL (by decide)
    | ((try lift_lets); intro (x : State); refine Changes.via (l := pl) (s := s0) (x := x) ?_ (fun hx => ?_); rotate_left; clear_value x; rotate_left; unfold x)
    | ((try lift_lets); intro x; clear_value x)
    | with_reducible assumption
    | with_reducible apply State.setTile_changes
    | split
    | (dsimp only))

theorem State.noteResult_changes {pl : List Part} {a : TileAddr} {task : Nat} {w : Waymark} {lo hi range : Bool} {f : RFlags} {sr fast : Bool} (hk : Changes pl s0 s) (hL : Part.Sub [.page .ARF, .risen, .ahead, .tiles, .recOnce, .records, .hostOut, .hostHeld, .fwIrq, .msix] pl := by first | assumption | exact Part.Sub.via (by assumption) (by decide +kernel)) : Changes pl s0 (State.noteResult s a task w lo hi range f sr fast) := by
  unfold State.noteResult
  repeat' (first
    | with_reducible exact hL
    | with_reducible exact Part.Sub.via hL (by decide)
    | ((try lift_lets); intro (x : State); refine Changes.via (l := pl) (s := s0) (x := x) ?_ (fun hx => ?_); rotate_left; clear_value x; rotate_left; unfold x)
    | ((try lift_lets); intro x; clear_value x)
    | with_reducible assumption
    | with_reducible apply State.raiseOnce_changes
    | with_reducible apply State.captureTile_changes
    | with_reducible apply State.countWm_changes
    | with_reducible apply State.taskFlags_changes
    | with_reducible apply State.arfFlags_changes
    | exact hL _ (Part.mem_elem (by rfl))
    | (refine hL _ (Part.mem_elem ?_); (repeat' split) <;> rfl)
    | split
    | (dsimp only))

end Sys2Proof.Machine
end

