-- ==== Sys2Proof/Laws/ChangesCheckTap.lean ====
section
/-!
SUPPORT. What the operations of Machine/CheckTap can change (Laws/Changes).
-/
namespace Sys2Proof.Machine

set_option linter.all false

variable {s0 s : State}

theorem State.tapMma_changes {pl : List Part} {a : TileAddr} {task b : Nat} {x y : DataTok} {hi : Bool} (hk : Changes pl s0 s) (hL : Part.Sub [.page .FLT, .tiles] pl := by first | assumption | exact Part.Sub.via (by assumption) (by decide +kernel)) : Changes pl s0 (State.tapMma s a task b x y hi) := by
  unfold State.tapMma
  repeat' (first
    | with_reducible exact hL
    | with_reducible exact Part.Sub.via hL (by decide)
    | ((try lift_lets); intro (x : State); refine Changes.via (l := pl) (s := s0) (x := x) ?_ (fun hx => ?_); rotate_left; clear_value x; rotate_left; unfold x)
    | ((try lift_lets); intro x; clear_value x)
    | with_reducible assumption
    | with_reducible apply State.count_changes
    | with_reducible apply State.setTile_changes
    | exact hL _ (Part.mem_elem (by rfl))
    | (refine hL _ (Part.mem_elem ?_); (repeat' split) <;> rfl)
    | split
    | (dsimp only))

theorem State.tapEmit_changes {pl : List Part} {a : TileAddr} {task b : Nat} {vals : List ExactVal} (hk : Changes pl s0 s) (hL : Part.Sub [.tiles, .checks] pl := by first | assumption | exact Part.Sub.via (by assumption) (by decide +kernel)) : Changes pl s0 (State.tapEmit s a task b vals) := by
  unfold State.tapEmit
  repeat' (first
    | with_reducible exact hL
    | with_reducible exact Part.Sub.via hL (by decide)
    | ((try lift_lets); intro (x : State); refine Changes.via (l := pl) (s := s0) (x := x) ?_ (fun hx => ?_); rotate_left; clear_value x; rotate_left; unfold x)
    | ((try lift_lets); intro x; clear_value x)
    | with_reducible assumption
    | with_reducible apply State.setTile_changes
    | (with_reducible apply Changes.upd_checks; first | with_reducible assumption | with_reducible apply State.setTile_changes | split)
    | split
    | (dsimp only))

theorem State.tapDrop_changes {pl : List Part} {a : TileAddr} {b : Nat} (hk : Changes pl s0 s) (hL : Part.Sub [.page .FLT, .tiles] pl := by first | assumption | exact Part.Sub.via (by assumption) (by decide +kernel)) : Changes pl s0 (State.tapDrop s a b) := by
  unfold State.tapDrop
  repeat' (first
    | with_reducible exact hL
    | with_reducible exact Part.Sub.via hL (by decide)
    | ((try lift_lets); intro (x : State); refine Changes.via (l := pl) (s := s0) (x := x) ?_ (fun hx => ?_); rotate_left; clear_value x; rotate_left; unfold x)
    | ((try lift_lets); intro x; clear_value x)
    | with_reducible assumption
    | with_reducible apply State.count_changes
    | with_reducible apply State.setTile_changes
    | exact hL _ (Part.mem_elem (by rfl))
    | (refine hL _ (Part.mem_elem ?_); (repeat' split) <;> rfl)
    | split
    | (dsimp only))

end Sys2Proof.Machine
end

