-- ==== Sys2Proof/Laws/ChangesOperands.lean ====
section
/-!
SUPPORT. What the operations of Machine/Operands can change (Laws/Changes).
-/
namespace Sys2Proof.Machine

set_option linter.all false

variable {s0 s : State}

theorem State.fire_changes {pl : List Part} {a : TileAddr} {task slot opc : Nat} {cmp : TaskCtx → SlotWord → Bool}
    {body : SlotWord → Tile → State → State} (h : Changes pl s0 s)
    (hb : ∀ w t u, Changes pl s0 u → Changes pl s0 (body w t u)) (hL : Part.Sub [.tiles] pl := by first | assumption | exact Part.Sub.via (by assumption) (by decide +kernel)) : Changes pl s0 (s.fire a task slot opc cmp body) := by
  unfold State.fire
  split
  · exact hb _ _ _ (State.setTile_changes h)
  · exact h

theorem State.fireUnless_changes {pl : List Part} {a : TileAddr} {task slot opc : Nat} {stop : SlotWord → Tile → Option Nat}
    {body : SlotWord → Tile → State → State} (h : Changes pl s0 s)
    (hb : ∀ w t u, Changes pl s0 u → Changes pl s0 (body w t u)) (hL : Part.Sub [.page .TSQ, .page .SPD, .risen, .tiles, .records, .causes, .hostOut, .hostHeld, .fwIrq, .msix] pl := by first | assumption | exact Part.Sub.via (by assumption) (by decide +kernel)) : Changes pl s0 (s.fireUnless a task slot opc stop body) := by
  unfold State.fireUnless
  split
  · dsimp only
    split
    · exact State.faultTask_changes h
    · exact hb _ _ _ (State.setTile_changes h)
  · exact h

theorem State.setG_changes {pl : List Part} {a : TileAddr} {task n : Nat} {v : W32} (hk : Changes pl s0 s) (hL : Part.Sub [.tiles] pl := by first | assumption | exact Part.Sub.via (by assumption) (by decide +kernel)) : Changes pl s0 (State.setG s a task n v) := by
  unfold State.setG
  repeat' (first
    | with_reducible exact hL
    | with_reducible exact Part.Sub.via hL (by decide)
    | ((try lift_lets); intro (x : State); refine Changes.via (l := pl) (s := s0) (x := x) ?_ (fun hx => ?_); rotate_left; clear_value x; rotate_left; unfold x)
    | ((try lift_lets); intro x; clear_value x)
    | with_reducible assumption
    | with_reducible apply State.setTile_changes
    | with_reducible apply State.setReg_changes
    | exact hL _ (Part.mem_elem (by rfl))
    | split
    | (dsimp only))

theorem State.setV_changes {pl : List Part} {a : TileAddr} {task n : Nat} {v : Nat → W32} (hk : Changes pl s0 s) (hL : Part.Sub [.tiles] pl := by first | assumption | exact Part.Sub.via (by assumption) (by decide +kernel)) : Changes pl s0 (State.setV s a task n v) := by
  unfold State.setV
  repeat' (first
    | with_reducible exact hL
    | with_reducible exact Part.Sub.via hL (by decide)
    | ((try lift_lets); intro (x : State); refine Changes.via (l := pl) (s := s0) (x := x) ?_ (fun hx => ?_); rotate_left; clear_value x; rotate_left; unfold x)
    | ((try lift_lets); intro x; clear_value x)
    | with_reducible assumption
    | with_reducible apply State.setTile_changes
    | split
    | (dsimp only))

theorem State.enq_changes {pl : List Part} {a : TileAddr} {d : Nat} {x : OTok} (hk : Changes pl s0 s) (hL : Part.Sub [.tiles] pl := by first | assumption | exact Part.Sub.via (by assumption) (by decide +kernel)) : Changes pl s0 (State.enq s a d x) := by
  unfold State.enq
  repeat' (first
    | with_reducible exact hL
    | with_reducible exact Part.Sub.via hL (by decide)
    | ((try lift_lets); intro (x : State); refine Changes.via (l := pl) (s := s0) (x := x) ?_ (fun hx => ?_); rotate_left; clear_value x; rotate_left; unfold x)
    | ((try lift_lets); intro x; clear_value x)
    | with_reducible assumption
    | with_reducible apply State.setTile_changes
    | split
    | (dsimp only))

end Sys2Proof.Machine
end

