-- ==== Sys2Proof/Laws/ChangesRegWrite.lean ====
section
/-!
SUPPORT. What the operations of Machine/RegWrite can change (Laws/Changes).
-/
namespace Sys2Proof.Machine

set_option linter.all false

variable {s0 s : State}

theorem State.writeResult_changes {pl : List Part} {fw : Bool} {p : Page} {off : Nat} {v : W64} {code : Nat} (hk : Changes pl s0 s) (hm : Part.page p.typ ∈ pl := by first | assumption | exact Part.Sub.mem (by assumption) (Part.mem_elem (by rfl))) (hL : Part.Sub [.page .DIR, .risen, .hostOut, .hostHeld, .fwIrq, .msix] pl := by first | assumption | exact Part.Sub.via (by assumption) (by decide +kernel)) : Changes pl s0 (State.writeResult s fw p off v code) := by
  unfold State.writeResult
  repeat' (first
    | with_reducible exact hL
    | with_reducible exact Part.Sub.via hL (by decide)
    | ((try lift_lets); intro (x : State); refine Changes.via (l := pl) (s := s0) (x := x) ?_ (fun hx => ?_); rotate_left; clear_value x; rotate_left; unfold x)
    | ((try lift_lets); intro x; clear_value x)
    | with_reducible assumption
    | with_reducible apply State.captureFirst_changes
    | with_reducible apply State.count_changes
    | with_reducible apply State.setReg_changes
    | exact hm
    | exact hL _ (Part.mem_elem (by rfl))
    | (refine hL _ (Part.mem_elem ?_); (repeat' split) <;> rfl)
    | split
    | (dsimp only))

theorem State.regWrite_changes {pl : List Part} {fw : Bool} {p : Page} {off : Nat} {size : Bool} {v : W64} {range state : Bool}
    {action : State → State} (h : Changes pl s0 s) (hm : Part.page p.typ ∈ pl)
    (ha : ∀ u, Changes pl s0 u → Changes pl s0 (action u)) (hL : Part.Sub [.page .DIR, .risen, .hostOut, .hostHeld, .fwIrq, .msix] pl := by first | assumption | exact Part.Sub.via (by assumption) (by decide +kernel)) : Changes pl s0 (s.regWrite fw p off size v range state action) := by
  unfold State.regWrite
  dsimp only
  split
  · split
    · exact h
    · refine State.writeResult_changes (ha _ ?_) hm
      split
      · exact State.sendIrq_changes (State.setReg_changes h hm)
      · exact State.setReg_changes h hm
  · exact State.writeResult_changes h hm

end Sys2Proof.Machine
end

