-- ==== Sys2Proof/Laws/ChangesEdge.lean ====
section
/-!
SUPPORT. What the operations of Machine/Edge can change (Laws/Changes).
-/
namespace Sys2Proof.Machine

set_option linter.all false

variable {s0 s : State}

theorem State.setBurst_changes {pl : List Part} {p b : Nat} {m : EccMark} (hk : Changes pl s0 s) (hL : Part.Sub [.edgeMark] pl := by first | assumption | exact Part.Sub.via (by assumption) (by decide +kernel)) : Changes pl s0 (State.setBurst s p b m) := by
  unfold State.setBurst
  repeat' (first
    | with_reducible exact hL
    | with_reducible exact Part.Sub.via hL (by decide)
    | ((try lift_lets); intro (x : State); refine Changes.via (l := pl) (s := s0) (x := x) ?_ (fun hx => ?_); rotate_left; clear_value x; rotate_left; unfold x)
    | ((try lift_lets); intro x; clear_value x)
    | with_reducible assumption
    | (with_reducible apply Changes.upd_edgeMark; first | with_reducible assumption | split)
    | split
    | (dsimp only))

theorem State.noteEdgeUe_changes {pl : List Part} {p : Fin 2} {b : Nat} {src : EdgeSource} (hk : Changes pl s0 s) (hL : Part.Sub [.page .EMP, .page .HBM, .risen, .recOnce, .records, .hostOut, .hostHeld, .fwIrq, .msix] pl := by first | assumption | exact Part.Sub.via (by assumption) (by decide +kernel)) : Changes pl s0 (State.noteEdgeUe s p b src) := by
  unfold State.noteEdgeUe
  repeat' (first
    | with_reducible exact hL
    | with_reducible exact Part.Sub.via hL (by decide)
    | ((try lift_lets); intro (x : State); refine Changes.via (l := pl) (s := s0) (x := x) ?_ (fun hx => ?_); rotate_left; clear_value x; rotate_left; unfold x)
    | ((try lift_lets); intro x; clear_value x)
    | with_reducible assumption
    | with_reducible apply State.raiseOnce_changes
    | with_reducible apply State.captureFirst_changes
    | with_reducible apply State.count_changes
    | exact hL _ (Part.mem_elem (by rfl))
    | (refine hL _ (Part.mem_elem ?_); (repeat' split) <;> rfl)
    | split
    | (dsimp only))

theorem State.touchEdge_changes {pl : List Part} {p : Nat} (hk : Changes pl s0 s) (hL : Part.Sub [.selfRefresh] pl := by first | assumption | exact Part.Sub.via (by assumption) (by decide +kernel)) : Changes pl s0 (State.touchEdge s p) := by
  unfold State.touchEdge
  repeat' (first
    | with_reducible exact hL
    | with_reducible exact Part.Sub.via hL (by decide)
    | ((try lift_lets); intro (x : State); refine Changes.via (l := pl) (s := s0) (x := x) ?_ (fun hx => ?_); rotate_left; clear_value x; rotate_left; unfold x)
    | ((try lift_lets); intro x; clear_value x)
    | with_reducible assumption
    | (with_reducible apply Changes.upd_selfRefresh; first | with_reducible assumption | split)
    | split
    | (dsimp only))

theorem State.readBurst_changes {pl : List Part} {p : Fin 2} {b : Nat} {src : EdgeSource} (hk : Changes pl s0 s) (hL : Part.Sub [.page .EMP, .page .HBM, .risen, .recOnce, .records, .hostOut, .hostHeld, .fwIrq, .msix, .edgeWb] pl := by first | assumption | exact Part.Sub.via (by assumption) (by decide +kernel)) : Changes pl s0 (State.readBurst s p b src).1 := by
  unfold State.readBurst
  repeat' (first
    | with_reducible exact hL
    | with_reducible exact Part.Sub.via hL (by decide)
    | ((try lift_lets); intro (x : State); refine Changes.via (l := pl) (s := s0) (x := x) ?_ (fun hx => ?_); rotate_left; clear_value x; rotate_left; unfold x)
    | ((try lift_lets); intro x; clear_value x)
    | with_reducible assumption
    | with_reducible apply State.count_changes
    | with_reducible apply State.noteEdgeUe_changes
    | (with_reducible apply Changes.upd_edgeWb; first | with_reducible assumption | with_reducible apply State.count_changes | with_reducible apply State.noteEdgeUe_changes | split)
    | exact hL _ (Part.mem_elem (by rfl))
    | (refine hL _ (Part.mem_elem ?_); (repeat' split) <;> rfl)
    | split
    | (dsimp only))

theorem State.edgeRead_changes {pl : List Part} {p : Fin 2} {a n : Nat} {src : EdgeSource} (hk : Changes pl s0 s) (hL : Part.Sub [.page .EMP, .page .HBM, .risen, .recOnce, .records, .hostOut, .hostHeld, .fwIrq, .msix, .edgeWb, .selfRefresh] pl := by first | assumption | exact Part.Sub.via (by assumption) (by decide +kernel)) : Changes pl s0 (State.edgeRead s p a n src).1 := by
  unfold State.edgeRead
  repeat' (first
    | with_reducible exact hL
    | with_reducible exact Part.Sub.via hL (by decide)
    | ((try lift_lets); intro (x : State); refine Changes.via (l := pl) (s := s0) (x := x) ?_ (fun hx => ?_); rotate_left; clear_value x; rotate_left; unfold x)
    | ((try lift_lets); intro (x : State × _); refine Changes.via (l := pl) (s := s0) (x := x.1) ?_ (fun hx => ?_); rotate_left; clear_value x; rotate_left; unfold x)
    | ((try lift_lets); intro (x : _ × State); refine Changes.via (l := pl) (s := s0) (x := x.2) ?_ (fun hx => ?_); rotate_left; clear_value x; rotate_left; unfold x)
    | ((try lift_lets); intro x; clear_value x)
    | with_reducible assumption
    | with_reducible apply State.count_changes
    | with_reducible refine Changes.of_fst (State.readBurst_changes ?_ ?_) (by assumption)
    | with_reducible apply State.readBurst_changes
    | with_reducible apply State.touchEdge_changes
    | with_reducible refine Changes.foldl ?_ (fun u x hu => ?_)
    | with_reducible refine Changes.foldl_fst ?_ (fun u x hu => ?_)
    | exact hL _ (Part.mem_elem (by rfl))
    | split
    | (dsimp only))

theorem State.writeBurst_changes {pl : List Part} {p : Fin 2} {a : Nat} {bs : List Byte} {b : Nat} (hk : Changes pl s0 s) (hL : Part.Sub [.page .EMP, .page .HBM, .risen, .recOnce, .records, .hostOut, .hostHeld, .fwIrq, .msix, .edge, .edgeMark, .edgeWb] pl := by first | assumption | exact Part.Sub.via (by assumption) (by decide +kernel)) : Changes pl s0 (State.writeBurst s p a bs b) := by
  unfold State.writeBurst
  repeat' (first
    | with_reducible exact hL
    | with_reducible exact Part.Sub.via hL (by decide)
    | ((try lift_lets); intro (x : State); refine Changes.via (l := pl) (s := s0) (x := x) ?_ (fun hx => ?_); rotate_left; clear_value x; rotate_left; unfold x)
    | ((try lift_lets); intro (x : _ → _); dsimp -zeta only [x]; clear x)
    | ((try lift_lets); intro x; clear_value x)
    | with_reducible assumption
    | with_reducible apply State.count_changes
    | with_reducible apply State.noteEdgeUe_changes
    | with_reducible apply State.setBurst_changes
    | (with_reducible apply Changes.upd_edge; first | with_reducible assumption | with_reducible apply State.count_changes | with_reducible apply State.noteEdgeUe_changes | with_reducible apply State.setBurst_changes | split)
    | (with_reducible apply Changes.upd_edgeWb; first | with_reducible assumption | with_reducible apply State.count_changes | with_reducible apply State.noteEdgeUe_changes | with_reducible apply State.setBurst_changes | split)
    | exact hL _ (Part.mem_elem (by rfl))
    | (refine hL _ (Part.mem_elem ?_); (repeat' split) <;> rfl)
    | split
    | (dsimp only))

theorem State.edgeWrite_changes {pl : List Part} {p : Fin 2} {a : Nat} {bs : List Byte} (hk : Changes pl s0 s) (hL : Part.Sub [.page .EMP, .page .HBM, .risen, .recOnce, .records, .hostOut, .hostHeld, .fwIrq, .msix, .edge, .edgeMark, .edgeWb, .selfRefresh] pl := by first | assumption | exact Part.Sub.via (by assumption) (by decide +kernel)) : Changes pl s0 (State.edgeWrite s p a bs) := by
  unfold State.edgeWrite
  repeat' (first
    | with_reducible exact hL
    | with_reducible exact Part.Sub.via hL (by decide)
    | ((try lift_lets); intro (x : State); refine Changes.via (l := pl) (s := s0) (x := x) ?_ (fun hx => ?_); rotate_left; clear_value x; rotate_left; unfold x)
    | ((try lift_lets); intro x; clear_value x)
    | with_reducible assumption
    | with_reducible apply State.count_changes
    | with_reducible apply State.writeBurst_changes
    | with_reducible apply State.touchEdge_changes
    | with_reducible refine Changes.foldl ?_ (fun u x hu => ?_)
    | exact hL _ (Part.mem_elem (by rfl))
    | split
    | (dsimp only))

end Sys2Proof.Machine
end

