-- ==== Sys2Proof/Laws/ChangesMemory.lean ====
section
/-!
SUPPORT. What the operations of Machine/Memory can change (Laws/Changes).
-/
namespace Sys2Proof.Machine

set_option linter.all false

variable {s0 s : State}

theorem readTokenRow_changes {pl : List Part} {a : TileAddr} {task : Nat} {used : List (Bool × Nat)} {y : State × ReadAcc} {row : Bool × Nat} (hk : Changes pl s0 y.1) (hL : Part.Sub [.page .SPD, .page .FEN, .risen, .tiles, .recOnce, .records, .hostOut, .hostHeld, .fwIrq, .msix] pl := by first | assumption | exact Part.Sub.via (by assumption) (by decide +kernel)) : Changes pl s0 (readTokenRow a task used y row).1 := by
  unfold readTokenRow
  repeat' (first
    | with_reducible exact hL
    | with_reducible exact Part.Sub.via hL (by decide)
    | ((try lift_lets); intro (x : State); refine Changes.via (l := pl) (s := s0) (x := x) ?_ (fun hx => ?_); rotate_left; clear_value x; rotate_left; unfold x)
    | ((try lift_lets); intro (x : State × _); refine Changes.via (l := pl) (s := s0) (x := x.1) ?_ (fun hx => ?_); rotate_left; clear_value x; rotate_left; unfold x)
    | ((try lift_lets); intro (x : _ × State); refine Changes.via (l := pl) (s := s0) (x := x.2) ?_ (fun hx => ?_); rotate_left; clear_value x; rotate_left; unfold x)
    | ((try lift_lets); intro x; clear_value x)
    | with_reducible assumption
    | with_reducible refine Changes.of_fst (State.readRow_changes ?_ ?_) (by assumption)
    | with_reducible apply State.readRow_changes
    | with_reducible apply State.countBank_changes
    | split
    | (dsimp only))

theorem readToken_changes {pl : List Part} {a : TileAddr} {task : Nat} {c : TaskCtx} {w : SlotWord} {used : List (Bool × Nat)} {x : State × ReadAcc} {ks : List Nat} (hk : Changes pl s0 x.1) (hL : Part.Sub [.page .SPD, .page .FEN, .risen, .tiles, .recOnce, .records, .hostOut, .hostHeld, .fwIrq, .msix] pl := by first | assumption | exact Part.Sub.via (by assumption) (by decide +kernel)) : Changes pl s0 (readToken a task c w used x ks).1 := by
  unfold readToken
  repeat' (first
    | with_reducible exact hL
    | with_reducible exact Part.Sub.via hL (by decide)
    | ((try lift_lets); intro (x : State); refine Changes.via (l := pl) (s := s0) (x := x) ?_ (fun hx => ?_); rotate_left; clear_value x; rotate_left; unfold x)
    | ((try lift_lets); intro (x : State × _); refine Changes.via (l := pl) (s := s0) (x := x.1) ?_ (fun hx => ?_); rotate_left; clear_value x; rotate_left; unfold x)
    | ((try lift_lets); intro (x : _ × State); refine Changes.via (l := pl) (s := s0) (x := x.2) ?_ (fun hx => ?_); rotate_left; clear_value x; rotate_left; unfold x)
    | ((try lift_lets); intro x; clear_value x)
    | with_reducible assumption
    | with_reducible refine Changes.of_fst (readTokenRow_changes ?_ ?_) (by assumption)
    | with_reducible apply readTokenRow_changes
    | with_reducible refine Changes.foldl ?_ (fun u x hu => ?_)
    | with_reducible refine Changes.foldl_fst ?_ (fun u x hu => ?_)
    | split
    | (dsimp only))

theorem State.countCorrected_changes {pl : List Part} {a : TileAddr} {corrected : Bool} (hk : Changes pl s0 s) (hL : Part.Sub [.page .SPD] pl := by first | assumption | exact Part.Sub.via (by assumption) (by decide +kernel)) : Changes pl s0 (State.countCorrected s a corrected) := by
  unfold State.countCorrected
  repeat' (first
    | with_reducible exact hL
    | with_reducible exact Part.Sub.via hL (by decide)
    | ((try lift_lets); intro (x : State); refine Changes.via (l := pl) (s := s0) (x := x) ?_ (fun hx => ?_); rotate_left; clear_value x; rotate_left; unfold x)
    | ((try lift_lets); intro x; clear_value x)
    | with_reducible assumption
    | with_reducible apply State.count_changes
    | exact hL _ (Part.mem_elem (by rfl))
    | (refine hL _ (Part.mem_elem ?_); (repeat' split) <;> rfl)
    | split
    | (dsimp only))

theorem execOpRdq_changes {a : TileAddr} {task : Fin 4} {slot : Fin 128} {pl : List Part} (hL : Part.Sub [.page .TSQ, .page .SPD, .page .FEN, .page .FLT, .risen, .tiles, .fields, .recOnce, .records, .causes, .retained, .hostOut, .hostHeld, .fwIrq, .msix] pl := by first | assumption | exact Part.Sub.via (by assumption) (by decide +kernel)) : ChangesOut pl s (execOpRdq a task slot s) := by
  unfold execOpRdq
  have hk : Changes pl s s := Changes.refl pl s
  repeat' (first
    | with_reducible exact hL
    | with_reducible exact Part.Sub.via hL (by decide)
    | with_reducible apply ChangesOut.next
    | ((try lift_lets); intro (x : State); refine Changes.via (l := pl) (s := s) (x := x) ?_ (fun hx => ?_); rotate_left; clear_value x; rotate_left; unfold x)
    | ((try lift_lets); intro (x : State × _); refine Changes.via (l := pl) (s := s) (x := x.1) ?_ (fun hx => ?_); rotate_left; clear_value x; rotate_left; unfold x)
    | ((try lift_lets); intro (x : _ × State); refine Changes.via (l := pl) (s := s) (x := x.2) ?_ (fun hx => ?_); rotate_left; clear_value x; rotate_left; unfold x)
    | ((try lift_lets); intro x; clear_value x)
    | with_reducible assumption
    | with_reducible apply State.failTile_changes
    | with_reducible apply State.faultTask_changes
    | with_reducible apply State.setTile_changes
    | with_reducible refine State.fire_changes ?_ (fun w t u hu => ?_) ?_
    | with_reducible apply State.countCorrected_changes
    | with_reducible refine Changes.of_fst (readToken_changes ?_ ?_) (by assumption)
    | with_reducible apply readToken_changes
    | with_reducible refine Changes.foldl ?_ (fun u x hu => ?_)
    | with_reducible refine Changes.foldl_fst ?_ (fun u x hu => ?_)
    | exact hL _ (Part.mem_elem (by rfl))
    | (refine hL _ (Part.mem_elem ?_); (repeat' split) <;> rfl)
    | split
    | (dsimp only))

theorem State.mergeByte_changes {pl : List Part} {a : TileAddr} {deep : Bool} {off : Nat} {b : Byte} (hk : Changes pl s0 s) (hL : Part.Sub [.page .SPD, .page .FEN, .risen, .tiles, .recOnce, .records, .hostOut, .hostHeld, .fwIrq, .msix] pl := by first | assumption | exact Part.Sub.via (by assumption) (by decide +kernel)) : Changes pl s0 (State.mergeByte s a deep off b) := by
  unfold State.mergeByte
  repeat' (first
    | with_reducible exact hL
    | with_reducible exact Part.Sub.via hL (by decide)
    | ((try lift_lets); intro (x : State); refine Changes.via (l := pl) (s := s0) (x := x) ?_ (fun hx => ?_); rotate_left; clear_value x; rotate_left; unfold x)
    | ((try lift_lets); intro (x : State × _); refine Changes.via (l := pl) (s := s0) (x := x.1) ?_ (fun hx => ?_); rotate_left; clear_value x; rotate_left; unfold x)
    | ((try lift_lets); intro (x : _ × State); refine Changes.via (l := pl) (s := s0) (x := x.2) ?_ (fun hx => ?_); rotate_left; clear_value x; rotate_left; unfold x)
    | ((try lift_lets); intro x; clear_value x)
    | with_reducible assumption
    | with_reducible apply State.flushRow_changes
    | with_reducible refine Changes.of_fst (State.decodeRow_changes ?_ ?_) (by assumption)
    | with_reducible apply State.decodeRow_changes
    | with_reducible apply State.countBank_changes
    | with_reducible apply State.setTile_changes
    | split
    | (dsimp only))

theorem execOpWrt_changes {a : TileAddr} {task : Fin 4} {slot : Fin 128} {pl : List Part} (hL : Part.Sub [.page .TSQ, .page .SPD, .page .FEN, .risen, .tiles, .recOnce, .records, .causes, .hostOut, .hostHeld, .fwIrq, .msix] pl := by first | assumption | exact Part.Sub.via (by assumption) (by decide +kernel)) : ChangesOut pl s (execOpWrt a task slot s) := by
  unfold execOpWrt
  have hk : Changes pl s s := Changes.refl pl s
  repeat' (first
    | with_reducible exact hL
    | with_reducible exact Part.Sub.via hL (by decide)
    | with_reducible apply ChangesOut.next
    | ((try lift_lets); intro (x : State); refine Changes.via (l := pl) (s := s) (x := x) ?_ (fun hx => ?_); rotate_left; clear_value x; rotate_left; unfold x)
    | ((try lift_lets); intro x; clear_value x)
    | with_reducible assumption
    | with_reducible apply State.writeRows_changes
    | with_reducible apply State.faultTask_changes
    | with_reducible refine State.fire_changes ?_ (fun w t u hu => ?_) ?_
    | with_reducible apply State.mergeByte_changes
    | with_reducible refine Changes.foldl ?_ (fun u x hu => ?_)
    | exact hL _ (Part.mem_elem (by rfl))
    | (refine hL _ (Part.mem_elem ?_); (repeat' split) <;> rfl)
    | split
    | (dsimp only))

theorem execOpLdn_changes {a : TileAddr} {task : Fin 4} {slot : Fin 128} {pl : List Part} (hL : Part.Sub [.page .TSQ, .page .SPD, .page .FEN, .page .FLT, .risen, .tiles, .fields, .recOnce, .records, .causes, .retained, .hostOut, .hostHeld, .fwIrq, .msix] pl := by first | assumption | exact Part.Sub.via (by assumption) (by decide +kernel)) : ChangesOut pl s (execOpLdn a task slot s) := by
  unfold execOpLdn
  have hk : Changes pl s s := Changes.refl pl s
  repeat' (first
    | with_reducible exact hL
    | with_reducible exact Part.Sub.via hL (by decide)
    | with_reducible apply ChangesOut.next
    | ((try lift_lets); intro (x : State); refine Changes.via (l := pl) (s := s) (x := x) ?_ (fun hx => ?_); rotate_left; clear_value x; rotate_left; unfold x)
    | ((try lift_lets); intro (x : State × _); refine Changes.via (l := pl) (s := s) (x := x.1) ?_ (fun hx => ?_); rotate_left; clear_value x; rotate_left; unfold x)
    | ((try lift_lets); intro (x : _ × State); refine Changes.via (l := pl) (s := s) (x := x.2) ?_ (fun hx => ?_); rotate_left; clear_value x; rotate_left; unfold x)
    | ((try lift_lets); intro x; clear_value x)
    | with_reducible assumption
    | with_reducible apply State.failTile_changes
    | with_reducible refine Changes.of_fst (State.readBytes_changes ?_ ?_) (by assumption)
    | with_reducible apply State.readBytes_changes
    | with_reducible apply State.faultTask_changes
    | with_reducible apply State.setG_changes
    | with_reducible refine State.fire_changes ?_ (fun w t u hu => ?_) ?_
    | exact hL _ (Part.mem_elem (by rfl))
    | (refine hL _ (Part.mem_elem ?_); (repeat' split) <;> rfl)
    | split
    | (dsimp only))

theorem execOpStn_changes {a : TileAddr} {task : Fin 4} {slot : Fin 128} {pl : List Part} (hL : Part.Sub [.page .TSQ, .page .SPD, .page .FEN, .risen, .tiles, .recOnce, .records, .causes, .hostOut, .hostHeld, .fwIrq, .msix] pl := by first | assumption | exact Part.Sub.via (by assumption) (by decide +kernel)) : ChangesOut pl s (execOpStn a task slot s) := by
  unfold execOpStn
  have hk : Changes pl s s := Changes.refl pl s
  repeat' (first
    | with_reducible exact hL
    | with_reducible exact Part.Sub.via hL (by decide)
    | with_reducible apply ChangesOut.next
    | ((try lift_lets); intro (x : State); refine Changes.via (l := pl) (s := s) (x := x) ?_ (fun hx => ?_); rotate_left; clear_value x; rotate_left; unfold x)
    | ((try lift_lets); intro x; clear_value x)
    | with_reducible assumption
    | with_reducible apply State.narrowWrite_changes
    | with_reducible apply State.faultTask_changes
    | with_reducible refine State.fire_changes ?_ (fun w t u hu => ?_) ?_
    | exact hL _ (Part.mem_elem (by rfl))
    | (refine hL _ (Part.mem_elem ?_); (repeat' split) <;> rfl)
    | split
    | (dsimp only))

end Sys2Proof.Machine
end

