-- ==== Sys2Proof/Laws/ChangesMatrix.lean ====
section
/-!
SUPPORT. What the operations of Machine/Matrix can change (Laws/Changes).
-/
namespace Sys2Proof.Machine

set_option linter.all false

variable {s0 s : State}

theorem execOpMma_changes {a : TileAddr} {task : Fin 4} {slot : Fin 128} {pl : List Part} (hL : Part.Sub [.page .TSQ, .page .SPD, .page .FEN, .page .FLT, .risen, .tiles, .records, .causes, .hostOut, .hostHeld, .fwIrq, .msix] pl := by first | assumption | exact Part.Sub.via (by assumption) (by decide +kernel)) : ChangesOut pl s (execOpMma a task slot s) := by
  unfold execOpMma
  have hk : Changes pl s s := Changes.refl pl s
  repeat' (first
    | with_reducible exact hL
    | with_reducible exact Part.Sub.via hL (by decide)
    | with_reducible apply ChangesOut.next
    | ((try lift_lets); intro (x : State); refine Changes.via (l := pl) (s := s) (x := x) ?_ (fun hx => ?_); rotate_left; clear_value x; rotate_left; unfold x)
    | ((try lift_lets); intro x; clear_value x)
    | with_reducible assumption
    | with_reducible apply State.count_changes
    | with_reducible apply State.setTile_changes
    | with_reducible apply State.enq_changes
    | with_reducible refine State.fireUnless_changes ?_ (fun w t u hu => ?_) ?_
    | with_reducible apply State.tapMma_changes
    | exact hL _ (Part.mem_elem (by rfl))
    | (refine hL _ (Part.mem_elem ?_); unfold macCounter; (repeat' split) <;> rfl)
    | split
    | (dsimp only))

theorem execOpAclr_changes {a : TileAddr} {task : Fin 4} {slot : Fin 128} {pl : List Part} (hL : Part.Sub [.page .FLT, .tiles] pl := by first | assumption | exact Part.Sub.via (by assumption) (by decide +kernel)) : ChangesOut pl s (execOpAclr a task slot s) := by
  unfold execOpAclr
  have hk : Changes pl s s := Changes.refl pl s
  repeat' (first
    | with_reducible exact hL
    | with_reducible exact Part.Sub.via hL (by decide)
    | with_reducible apply ChangesOut.next
    | ((try lift_lets); intro (x : State); refine Changes.via (l := pl) (s := s) (x := x) ?_ (fun hx => ?_); rotate_left; clear_value x; rotate_left; unfold x)
    | ((try lift_lets); intro x; clear_value x)
    | with_reducible assumption
    | with_reducible apply State.setTile_changes
    | with_reducible refine State.fire_changes ?_ (fun w t u hu => ?_) ?_
    | with_reducible apply State.tapDrop_changes
    | exact hL _ (Part.mem_elem (by rfl))
    | split
    | (dsimp only))

theorem State.closeUnit_changes {pl : List Part} {a : TileAddr} {task b : Nat} (hk : Changes pl s0 s) (hL : Part.Sub [.page .TSQ, .tiles, .checks] pl := by first | assumption | exact Part.Sub.via (by assumption) (by decide +kernel)) : Changes pl s0 (State.closeUnit s a task b) := by
  unfold State.closeUnit
  repeat' (first
    | with_reducible exact hL
    | with_reducible exact Part.Sub.via hL (by decide)
    | ((try lift_lets); intro (x : State); refine Changes.via (l := pl) (s := s0) (x := x) ?_ (fun hx => ?_); rotate_left; clear_value x; rotate_left; unfold x)
    | ((try lift_lets); intro x; clear_value x)
    | with_reducible assumption
    | with_reducible apply State.count_changes
    | with_reducible apply State.setTile_changes
    | with_reducible apply State.tapEmit_changes
    | exact hL _ (Part.mem_elem (by rfl))
    | split
    | (dsimp only))

theorem State.noteRounded_changes {pl : List Part} {a : TileAddr} {task : Nat} {wm : Waymark} {sr : Bool} {rs : List (ExactVal × List Byte × RFlags)} (hk : Changes pl s0 s) (hL : Part.Sub [.page .ARF, .risen, .ahead, .tiles, .recOnce, .records, .hostOut, .hostHeld, .fwIrq, .msix] pl := by first | assumption | exact Part.Sub.via (by assumption) (by decide +kernel)) : Changes pl s0 (State.noteRounded s a task wm sr rs) := by
  unfold State.noteRounded
  repeat' (first
    | with_reducible exact hL
    | with_reducible exact Part.Sub.via hL (by decide)
    | ((try lift_lets); intro (x : State); refine Changes.via (l := pl) (s := s0) (x := x) ?_ (fun hx => ?_); rotate_left; clear_value x; rotate_left; unfold x)
    | ((try lift_lets); intro x; clear_value x)
    | with_reducible assumption
    | with_reducible apply State.noteResult_changes
    | with_reducible refine Changes.foldl ?_ (fun u x hu => ?_)
    | split
    | (dsimp only))

theorem State.emitRound_changes {pl : List Part} {a : TileAddr} {task slot : Nat} {c : TaskCtx} {w : SlotWord} {vals : List ExactVal} (hk : Changes pl s0 s) (hL : Part.Sub [.page .ARF, .page .TSQ, .page .SPD, .page .FEN, .risen, .ahead, .tiles, .recOnce, .records, .causes, .checks, .hostOut, .hostHeld, .fwIrq, .msix] pl := by first | assumption | exact Part.Sub.via (by assumption) (by decide +kernel)) : Changes pl s0 (State.emitRound s a task slot c w vals) := by
  unfold State.emitRound
  repeat' (first
    | with_reducible exact hL
    | with_reducible exact Part.Sub.via hL (by decide)
    | ((try lift_lets); intro (x : State); refine Changes.via (l := pl) (s := s0) (x := x) ?_ (fun hx => ?_); rotate_left; clear_value x; rotate_left; unfold x)
    | ((try lift_lets); intro x; clear_value x)
    | with_reducible assumption
    | with_reducible apply State.writeRows_changes
    | with_reducible apply State.faultTask_changes
    | with_reducible apply State.noteRounded_changes
    | with_reducible apply State.closeUnit_changes
    | split
    | (dsimp only))

theorem execOpEmit_changes {a : TileAddr} {task : Fin 4} {slot : Fin 128} {pl : List Part} (hL : Part.Sub [.page .ARF, .page .TSQ, .page .SPD, .page .FEN, .risen, .ahead, .tiles, .recOnce, .records, .causes, .checks, .hostOut, .hostHeld, .fwIrq, .msix] pl := by first | assumption | exact Part.Sub.via (by assumption) (by decide +kernel)) : ChangesOut pl s (execOpEmit a task slot s) := by
  unfold execOpEmit
  have hk : Changes pl s s := Changes.refl pl s
  repeat' (first
    | with_reducible exact hL
    | with_reducible exact Part.Sub.via hL (by decide)
    | with_reducible apply ChangesOut.next
    | ((try lift_lets); intro (x : State); refine Changes.via (l := pl) (s := s) (x := x) ?_ (fun hx => ?_); rotate_left; clear_value x; rotate_left; unfold x)
    | ((try lift_lets); intro x; clear_value x)
    | with_reducible assumption
    | with_reducible apply State.enq_changes
    | with_reducible refine State.fire_changes ?_ (fun w t u hu => ?_) ?_
    | with_reducible apply State.emitRound_changes
    | with_reducible apply State.closeUnit_changes
    | exact hL _ (Part.mem_elem (by rfl))
    | (refine hL _ (Part.mem_elem ?_); (repeat' split) <;> rfl)
    | split
    | (dsimp only))

end Sys2Proof.Machine
end

