-- ==== Sys2Proof/Laws/ChangesMarkerOps.lean ====
section
/-!
SUPPORT. What the operations of Machine/MarkerOps can change (Laws/Changes).
-/
namespace Sys2Proof.Machine

set_option linter.all false

variable {s0 s : State}

theorem State.markOp_changes {pl : List Part} {f : FieldAddr} {op : MarkOp} (hk : Changes pl s0 s) (hL : Part.Sub [.fields] pl := by first | assumption | exact Part.Sub.via (by assumption) (by decide +kernel)) : Changes pl s0 (State.markOp s f op) := by
  unfold State.markOp
  repeat' (first
    | with_reducible exact hL
    | with_reducible exact Part.Sub.via hL (by decide)
    | ((try lift_lets); intro (x : State); refine Changes.via (l := pl) (s := s0) (x := x) ?_ (fun hx => ?_); rotate_left; clear_value x; rotate_left; unfold x)
    | ((try lift_lets); intro x; clear_value x)
    | with_reducible assumption
    | with_reducible apply State.setField_changes
    | split
    | (dsimp only))

theorem State.signal_changes {pl : List Part} {f : FieldAddr} {rank sub marker : Nat} {amount : W32} {kind : Nat} {id : W32} {wm : Waymark} (hk : Changes pl s0 s) (hL : Part.Sub [.fields] pl := by first | assumption | exact Part.Sub.via (by assumption) (by decide +kernel)) : Changes pl s0 (State.signal s f rank sub marker amount kind id wm) := by
  unfold State.signal
  repeat' (first
    | with_reducible exact hL
    | with_reducible exact Part.Sub.via hL (by decide)
    | ((try lift_lets); intro (x : State); refine Changes.via (l := pl) (s := s0) (x := x) ?_ (fun hx => ?_); rotate_left; clear_value x; rotate_left; unfold x)
    | ((try lift_lets); intro x; clear_value x)
    | with_reducible assumption
    | with_reducible apply State.markOp_changes
    | split
    | (dsimp only))

theorem State.packetSignal_changes {pl : List Part} {a : TileAddr} {marker : Nat} {amount : W32} {src : Nat} {wm : Waymark} (hk : Changes pl s0 s) (hL : Part.Sub [.fields] pl := by first | assumption | exact Part.Sub.via (by assumption) (by decide +kernel)) : Changes pl s0 (State.packetSignal s a marker amount src wm) := by
  unfold State.packetSignal
  repeat' (first
    | with_reducible exact hL
    | with_reducible exact Part.Sub.via hL (by decide)
    | ((try lift_lets); intro (x : State); refine Changes.via (l := pl) (s := s0) (x := x) ?_ (fun hx => ?_); rotate_left; clear_value x; rotate_left; unfold x)
    | ((try lift_lets); intro x; clear_value x)
    | with_reducible assumption
    | with_reducible apply State.signal_changes
    | split
    | (dsimp only))

theorem State.markerCapture_changes {pl : List Part} {f : FieldAddr} {kind row col task index blocks : Nat} (hk : Changes pl s0 s) (hL : Part.Sub [.page .MRK, .risen, .hostOut, .hostHeld, .fwIrq, .msix] pl := by first | assumption | exact Part.Sub.via (by assumption) (by decide +kernel)) : Changes pl s0 (State.markerCapture s f kind row col task index blocks) := by
  unfold State.markerCapture
  repeat' (first
    | with_reducible exact hL
    | with_reducible exact Part.Sub.via hL (by decide)
    | ((try lift_lets); intro (x : State); refine Changes.via (l := pl) (s := s0) (x := x) ?_ (fun hx => ?_); rotate_left; clear_value x; rotate_left; unfold x)
    | ((try lift_lets); intro x; clear_value x)
    | with_reducible assumption
    | with_reducible apply State.captureFirst_changes
    | exact hL _ (Part.mem_elem (by rfl))
    | split
    | (dsimp only))

end Sys2Proof.Machine
end

