-- ==== Sys2Proof/Laws/ChangesPath.lean ====
section
/-!
SUPPORT. What the operations of Machine/Path can change (Laws/Changes).
-/
namespace Sys2Proof.Machine

set_option linter.all false

variable {s0 s : State}

theorem State.inject_changes {pl : List Part} {a : TileAddr} {p : Packet} (hk : Changes pl s0 s) (hL : Part.Sub [.tiles] pl := by first | assumption | exact Part.Sub.via (by assumption) (by decide +kernel)) : Changes pl s0 (State.inject s a p) := by
  unfold State.inject
  repeat' (first
    | with_reducible exact hL
    | with_reducible exact Part.Sub.via hL (by decide)
    | ((try lift_lets); intro (x : State); refine Changes.via (l := pl) (s := s0) (x := x) ?_ (fun hx => ?_); rotate_left; clear_value x; rotate_left; unfold x)
    | ((try lift_lets); intro x; clear_value x)
    | with_reducible assumption
    | with_reducible apply State.setTile_changes
    | split
    | (dsimp only))

theorem State.meshEvent_changes {pl : List Part} {a : TileAddr} {kind cls cause : Nat} {wm : Waymark} {src aux addr : Nat} (hk : Changes pl s0 s) (hL : Part.Sub [.page .MESH, .risen, .hostOut, .hostHeld, .fwIrq, .msix] pl := by first | assumption | exact Part.Sub.via (by assumption) (by decide +kernel)) : Changes pl s0 (State.meshEvent s a kind cls cause wm src aux addr) := by
  unfold State.meshEvent
  repeat' (first
    | with_reducible exact hL
    | with_reducible exact Part.Sub.via hL (by decide)
    | ((try lift_lets); intro (x : State); refine Changes.via (l := pl) (s := s0) (x := x) ?_ (fun hx => ?_); rotate_left; clear_value x; rotate_left; unfold x)
    | ((try lift_lets); intro x; clear_value x)
    | with_reducible assumption
    | with_reducible apply State.captureTile_changes
    | exact hL _ (Part.mem_elem (by rfl))
    | split
    | (dsimp only))

theorem State.pktEvent_changes {pl : List Part} {a : TileAddr} {kind cause : Nat} {p : Packet} (hk : Changes pl s0 s) (hL : Part.Sub [.page .MESH, .risen, .hostOut, .hostHeld, .fwIrq, .msix] pl := by first | assumption | exact Part.Sub.via (by assumption) (by decide +kernel)) : Changes pl s0 (State.pktEvent s a kind cause p) := by
  unfold State.pktEvent
  repeat' (first
    | with_reducible exact hL
    | with_reducible exact Part.Sub.via hL (by decide)
    | ((try lift_lets); intro (x : State); refine Changes.via (l := pl) (s := s0) (x := x) ?_ (fun hx => ?_); rotate_left; clear_value x; rotate_left; unfold x)
    | ((try lift_lets); intro x; clear_value x)
    | with_reducible assumption
    | with_reducible apply State.meshEvent_changes
    | split
    | (dsimp only))

theorem State.meshRecord_changes {pl : List Part} {a : TileAddr} {kind : Nat} {p : Packet} (hk : Changes pl s0 s) (hL : Part.Sub [.records] pl := by first | assumption | exact Part.Sub.via (by assumption) (by decide +kernel)) : Changes pl s0 (State.meshRecord s a kind p) := by
  unfold State.meshRecord
  repeat' (first
    | with_reducible exact hL
    | with_reducible exact Part.Sub.via hL (by decide)
    | ((try lift_lets); intro (x : State); refine Changes.via (l := pl) (s := s0) (x := x) ?_ (fun hx => ?_); rotate_left; clear_value x; rotate_left; unfold x)
    | ((try lift_lets); intro x; clear_value x)
    | with_reducible assumption
    | with_reducible apply State.raise_changes
    | split
    | (dsimp only))

theorem State.redMismatch_changes {pl : List Part} {a : TileAddr} {cause : Nat} {p : Packet} (hk : Changes pl s0 s) (hL : Part.Sub [.page .MESH, .risen, .causes, .hostOut, .hostHeld, .fwIrq, .msix] pl := by first | assumption | exact Part.Sub.via (by assumption) (by decide +kernel)) : Changes pl s0 (State.redMismatch s a cause p) := by
  unfold State.redMismatch
  repeat' (first
    | with_reducible exact hL
    | with_reducible exact Part.Sub.via hL (by decide)
    | ((try lift_lets); intro (x : State); refine Changes.via (l := pl) (s := s0) (x := x) ?_ (fun hx => ?_); rotate_left; clear_value x; rotate_left; unfold x)
    | ((try lift_lets); intro x; clear_value x)
    | with_reducible assumption
    | with_reducible apply State.reportCause_changes
    | with_reducible apply State.pktEvent_changes
    | with_reducible apply State.count_changes
    | exact hL _ (Part.mem_elem (by rfl))
    | split
    | (dsimp only))

end Sys2Proof.Machine
end

