-- ==== Sys2Proof/Laws/ChangesTileEvents.lean ====
section
/-!
SUPPORT. What the operations of Machine/TileEvents can change (Laws/Changes).
-/
namespace Sys2Proof.Machine

set_option linter.all false

variable {s0 s : State}

theorem State.noteStale_changes {pl : List Part} {a : TileAddr} {queue task : Nat} {tok tile : BitVec 2} (hk : Changes pl s0 s) (hL : Part.Sub [.page .TSQ, .risen, .recOnce, .records, .hostOut, .hostHeld, .fwIrq, .msix] pl := by first | assumption | exact Part.Sub.via (by assumption) (by decide +kernel)) : Changes pl s0 (State.noteStale s a queue task tok tile) := by
  unfold State.noteStale
  repeat' (first
    | with_reducible exact hL
    | with_reducible exact Part.Sub.via hL (by decide)
    | ((try lift_lets); intro (x : State); refine Changes.via (l := pl) (s := s0) (x := x) ?_ (fun hx => ?_); rotate_left; clear_value x; rotate_left; unfold x)
    | ((try lift_lets); intro x; clear_value x)
    | with_reducible assumption
    | with_reducible apply State.raiseOnce_changes
    | with_reducible apply State.captureTile_changes
    | with_reducible apply State.count_changes
    | exact hL _ (Part.mem_elem (by rfl))
    | split
    | (dsimp only))

theorem State.enterDq_changes {pl : List Part} {a : TileAddr} {n : Nat} {d : DataTok} (hk : Changes pl s0 s) (hL : Part.Sub [.page .TSQ, .risen, .tiles, .recOnce, .records, .hostOut, .hostHeld, .fwIrq, .msix] pl := by first | assumption | exact Part.Sub.via (by assumption) (by decide +kernel)) : Changes pl s0 (State.enterDq s a n d) := by
  unfold State.enterDq
  repeat' (first
    | with_reducible exact hL
    | with_reducible exact Part.Sub.via hL (by decide)
    | ((try lift_lets); intro (x : State); refine Changes.via (l := pl) (s := s0) (x := x) ?_ (fun hx => ?_); rotate_left; clear_value x; rotate_left; unfold x)
    | ((try lift_lets); intro x; clear_value x)
    | with_reducible assumption
    | with_reducible apply State.noteStale_changes
    | with_reducible apply State.setTile_changes
    | split
    | (dsimp only))

theorem State.enterCq_changes {pl : List Part} {a : TileAddr} {n : Nat} {c : CtlTok} (hk : Changes pl s0 s) (hL : Part.Sub [.page .TSQ, .risen, .tiles, .recOnce, .records, .hostOut, .hostHeld, .fwIrq, .msix] pl := by first | assumption | exact Part.Sub.via (by assumption) (by decide +kernel)) : Changes pl s0 (State.enterCq s a n c) := by
  unfold State.enterCq
  repeat' (first
    | with_reducible exact hL
    | with_reducible exact Part.Sub.via hL (by decide)
    | ((try lift_lets); intro (x : State); refine Changes.via (l := pl) (s := s0) (x := x) ?_ (fun hx => ?_); rotate_left; clear_value x; rotate_left; unfold x)
    | ((try lift_lets); intro x; clear_value x)
    | with_reducible assumption
    | with_reducible apply State.noteStale_changes
    | with_reducible apply State.setTile_changes
    | split
    | (dsimp only))

theorem State.unbound_changes {pl : List Part} {a : TileAddr} (hk : Changes pl s0 s) (hL : Part.Sub [.page .TSQ] pl := by first | assumption | exact Part.Sub.via (by assumption) (by decide +kernel)) : Changes pl s0 (State.unbound s a) := by
  unfold State.unbound
  repeat' (first
    | with_reducible exact hL
    | with_reducible exact Part.Sub.via hL (by decide)
    | ((try lift_lets); intro (x : State); refine Changes.via (l := pl) (s := s0) (x := x) ?_ (fun hx => ?_); rotate_left; clear_value x; rotate_left; unfold x)
    | ((try lift_lets); intro x; clear_value x)
    | with_reducible assumption
    | with_reducible apply State.count_changes
    | exact hL _ (Part.mem_elem (by rfl))
    | split
    | (dsimp only))

theorem execSteeringFire_changes {a : TileAddr} {ch : Fin 4} {pl : List Part} (hL : Part.Sub [.page .TSQ, .tiles] pl := by first | assumption | exact Part.Sub.via (by assumption) (by decide +kernel)) : ChangesOut pl s (execSteeringFire a ch s) := by
  unfold execSteeringFire
  have hk : Changes pl s s := Changes.refl pl s
  repeat' (first
    | with_reducible exact hL
    | with_reducible exact Part.Sub.via hL (by decide)
    | with_reducible apply ChangesOut.next
    | ((try lift_lets); intro (x : State); refine Changes.via (l := pl) (s := s) (x := x) ?_ (fun hx => ?_); rotate_left; clear_value x; rotate_left; unfold x)
    | ((try lift_lets); intro x; clear_value x)
    | with_reducible assumption
    | with_reducible apply State.count_changes
    | with_reducible apply State.setTile_changes
    | with_reducible refine Changes.foldl ?_ (fun u x hu => ?_)
    | exact hL _ (Part.mem_elem (by rfl))
    | (refine hL _ (Part.mem_elem ?_); (repeat' split) <;> rfl)
    | split
    | (dsimp only))

theorem execSteerKind_changes {a : TileAddr} {ch : Fin 4} {pl : List Part} (hL : Part.Sub [.page .TSQ, .page .SPD, .risen, .tiles, .records, .causes, .hostOut, .hostHeld, .fwIrq, .msix] pl := by first | assumption | exact Part.Sub.via (by assumption) (by decide +kernel)) : ChangesOut pl s (execSteerKind a ch s) := by
  unfold execSteerKind
  have hk : Changes pl s s := Changes.refl pl s
  repeat' (first
    | with_reducible exact hL
    | with_reducible exact Part.Sub.via hL (by decide)
    | with_reducible apply ChangesOut.next
    | ((try lift_lets); intro (x : State); refine Changes.via (l := pl) (s := s) (x := x) ?_ (fun hx => ?_); rotate_left; clear_value x; rotate_left; unfold x)
    | ((try lift_lets); intro x; clear_value x)
    | with_reducible assumption
    | with_reducible apply State.faultTask_changes
    | with_reducible apply State.setTile_changes
    | split
    | (dsimp only))

theorem execOqLocalTransfer_changes {a : TileAddr} {q : Fin 8} {pl : List Part} (hL : Part.Sub [.page .TSQ, .risen, .tiles, .recOnce, .records, .hostOut, .hostHeld, .fwIrq, .msix] pl := by first | assumption | exact Part.Sub.via (by assumption) (by decide +kernel)) : ChangesOut pl s (execOqLocalTransfer a q s) := by
  unfold execOqLocalTransfer
  have hk : Changes pl s s := Changes.refl pl s
  repeat' (first
    | with_reducible exact hL
    | with_reducible exact Part.Sub.via hL (by decide)
    | with_reducible apply ChangesOut.next
    | ((try lift_lets); intro (x : State); refine Changes.via (l := pl) (s := s) (x := x) ?_ (fun hx => ?_); rotate_left; clear_value x; rotate_left; unfold x)
    | ((try lift_lets); intro x; clear_value x)
    | with_reducible assumption
    | with_reducible apply State.enterDq_changes
    | with_reducible apply State.setTile_changes
    | split
    | (dsimp only))

theorem State.arrive_changes {pl : List Part} {a : TileAddr} {landing cq : Nat} (hk : Changes pl s0 s) (hL : Part.Sub [.page .TSQ, .risen, .tiles, .recOnce, .records, .hostOut, .hostHeld, .fwIrq, .msix] pl := by first | assumption | exact Part.Sub.via (by assumption) (by decide +kernel)) : Changes pl s0 (State.arrive s a landing cq) := by
  unfold State.arrive
  repeat' (first
    | with_reducible exact hL
    | with_reducible exact Part.Sub.via hL (by decide)
    | ((try lift_lets); intro (x : State); refine Changes.via (l := pl) (s := s0) (x := x) ?_ (fun hx => ?_); rotate_left; clear_value x; rotate_left; unfold x)
    | ((try lift_lets); intro x; clear_value x)
    | with_reducible assumption
    | with_reducible apply State.enterCq_changes
    | with_reducible apply State.setTile_changes
    | split
    | (dsimp only))

theorem State.barrierToken_changes {pl : List Part} {a : TileAddr} {channel cq : Nat} (hk : Changes pl s0 s) (hL : Part.Sub [.page .TSQ, .risen, .tiles, .recOnce, .records, .hostOut, .hostHeld, .fwIrq, .msix] pl := by first | assumption | exact Part.Sub.via (by assumption) (by decide +kernel)) : Changes pl s0 (State.barrierToken s a channel cq) := by
  unfold State.barrierToken
  repeat' (first
    | with_reducible exact hL
    | with_reducible exact Part.Sub.via hL (by decide)
    | ((try lift_lets); intro (x : State); refine Changes.via (l := pl) (s := s0) (x := x) ?_ (fun hx => ?_); rotate_left; clear_value x; rotate_left; unfold x)
    | ((try lift_lets); intro x; clear_value x)
    | with_reducible assumption
    | with_reducible apply State.enterCq_changes
    | with_reducible apply State.setTile_changes
    | split
    | (dsimp only))

theorem execWaitingTokenEntry_changes {a : TileAddr} {barrier : Bool} {n : Fin 16} {pl : List Part} (hL : Part.Sub [.page .TSQ, .risen, .tiles, .recOnce, .records, .hostOut, .hostHeld, .fwIrq, .msix] pl := by first | assumption | exact Part.Sub.via (by assumption) (by decide +kernel)) : ChangesOut pl s (execWaitingTokenEntry a barrier n s) := by
  unfold execWaitingTokenEntry
  have hk : Changes pl s s := Changes.refl pl s
  repeat' (first
    | with_reducible exact hL
    | with_reducible exact Part.Sub.via hL (by decide)
    | with_reducible apply ChangesOut.next
    | ((try lift_lets); intro (x : State); refine Changes.via (l := pl) (s := s) (x := x) ?_ (fun hx => ?_); rotate_left; clear_value x; rotate_left; unfold x)
    | ((try lift_lets); intro x; clear_value x)
    | with_reducible assumption
    | with_reducible apply State.enterCq_changes
    | with_reducible apply State.setTile_changes
    | split
    | (dsimp only))

theorem execReadTokenDelivery_changes {a : TileAddr} {pl : List Part} (hL : Part.Sub [.page .TSQ, .risen, .tiles, .recOnce, .records, .hostOut, .hostHeld, .fwIrq, .msix] pl := by first | assumption | exact Part.Sub.via (by assumption) (by decide +kernel)) : ChangesOut pl s (execReadTokenDelivery a s) := by
  unfold execReadTokenDelivery
  have hk : Changes pl s s := Changes.refl pl s
  repeat' (first
    | with_reducible exact hL
    | with_reducible exact Part.Sub.via hL (by decide)
    | with_reducible apply ChangesOut.next
    | ((try lift_lets); intro (x : State); refine Changes.via (l := pl) (s := s) (x := x) ?_ (fun hx => ?_); rotate_left; clear_value x; rotate_left; unfold x)
    | ((try lift_lets); intro x; clear_value x)
    | with_reducible assumption
    | with_reducible apply State.enterDq_changes
    | with_reducible apply State.setTile_changes
    | split
    | (dsimp only))

theorem execTaskDrained_changes {a : TileAddr} {task : Fin 4} {pl : List Part} (hL : Part.Sub [.tiles] pl := by first | assumption | exact Part.Sub.via (by assumption) (by decide +kernel)) : ChangesOut pl s (execTaskDrained a task s) := by
  unfold execTaskDrained
  have hk : Changes pl s s := Changes.refl pl s
  repeat' (first
    | with_reducible exact hL
    | with_reducible exact Part.Sub.via hL (by decide)
    | with_reducible apply ChangesOut.next
    | ((try lift_lets); intro (x : State); refine Changes.via (l := pl) (s := s) (x := x) ?_ (fun hx => ?_); rotate_left; clear_value x; rotate_left; unfold x)
    | ((try lift_lets); intro x; clear_value x)
    | with_reducible assumption
    | with_reducible apply State.setTile_changes
    | split
    | (dsimp only))

theorem execGatherFlush_changes {a : TileAddr} {pl : List Part} (hL : Part.Sub [.page .SPD, .page .FEN, .risen, .tiles, .recOnce, .records, .hostOut, .hostHeld, .fwIrq, .msix] pl := by first | assumption | exact Part.Sub.via (by assumption) (by decide +kernel)) : ChangesOut pl s (execGatherFlush a s) := by
  unfold execGatherFlush
  have hk : Changes pl s s := Changes.refl pl s
  repeat' (first
    | with_reducible exact hL
    | with_reducible exact Part.Sub.via hL (by decide)
    | with_reducible apply ChangesOut.next
    | ((try lift_lets); intro (x : State); refine Changes.via (l := pl) (s := s) (x := x) ?_ (fun hx => ?_); rotate_left; clear_value x; rotate_left; unfold x)
    | ((try lift_lets); intro x; clear_value x)
    | with_reducible assumption
    | with_reducible apply State.flushEntry_changes
    | split
    | (dsimp only))

theorem execCorrectionWriteback_changes {a : TileAddr} {pl : List Part} (hL : Part.Sub [.page .SPD, .page .FEN, .risen, .tiles, .recOnce, .records, .hostOut, .hostHeld, .fwIrq, .msix] pl := by first | assumption | exact Part.Sub.via (by assumption) (by decide +kernel)) : ChangesOut pl s (execCorrectionWriteback a s) := by
  unfold execCorrectionWriteback
  have hk : Changes pl s s := Changes.refl pl s
  repeat' (first
    | with_reducible exact hL
    | with_reducible exact Part.Sub.via hL (by decide)
    | with_reducible apply ChangesOut.next
    | ((try lift_lets); intro (x : State); refine Changes.via (l := pl) (s := s) (x := x) ?_ (fun hx => ?_); rotate_left; clear_value x; rotate_left; unfold x)
    | ((try lift_lets); intro x; clear_value x)
    | with_reducible assumption
    | with_reducible apply State.noteUe_changes
    | with_reducible apply State.countBank_changes
    | with_reducible apply State.setTile_changes
    | with_reducible refine Changes.foldl ?_ (fun u x hu => ?_)
    | split
    | (dsimp only))

theorem execScrubRead_changes {a : TileAddr} {word : Fin 4} {err : Fin 3} {pl : List Part} (hL : Part.Sub [.page .SPD, .page .FEN, .risen, .tiles, .recOnce, .records, .hostOut, .hostHeld, .fwIrq, .msix] pl := by first | assumption | exact Part.Sub.via (by assumption) (by decide +kernel)) : ChangesOut pl s (execScrubRead a word err s) := by
  unfold execScrubRead
  have hk : Changes pl s s := Changes.refl pl s
  repeat' (first
    | with_reducible exact hL
    | with_reducible exact Part.Sub.via hL (by decide)
    | with_reducible apply ChangesOut.next
    | ((try lift_lets); intro (x : State); refine Changes.via (l := pl) (s := s) (x := x) ?_ (fun hx => ?_); rotate_left; clear_value x; rotate_left; unfold x)
    | ((try lift_lets); intro (x : State × _); refine Changes.via (l := pl) (s := s) (x := x.1) ?_ (fun hx => ?_); rotate_left; clear_value x; rotate_left; unfold x)
    | ((try lift_lets); intro (x : _ × State); refine Changes.via (l := pl) (s := s) (x := x.2) ?_ (fun hx => ?_); rotate_left; clear_value x; rotate_left; unfold x)
    | ((try lift_lets); intro x; clear_value x)
    | with_reducible assumption
    | with_reducible refine Changes.of_fst (State.readRow_changes ?_ ?_) (by assumption)
    | with_reducible apply State.readRow_changes
    | with_reducible apply State.setTile_changes
    | split
    | (dsimp only))

theorem State.tsqSel_changes {pl : List Part} {f : FieldAddr} {fw : Bool} {value : W64} (hk : Changes pl s0 s) (hL : Part.Sub [.page .DIR, .page .TSQ, .risen, .hostOut, .hostHeld, .fwIrq, .msix] pl := by first | assumption | exact Part.Sub.via (by assumption) (by decide +kernel)) : Changes pl s0 (State.tsqSel s f fw value) := by
  unfold State.tsqSel
  repeat' (first
    | with_reducible exact hL
    | with_reducible exact Part.Sub.via hL (by decide)
    | ((try lift_lets); intro (x : State); refine Changes.via (l := pl) (s := s0) (x := x) ?_ (fun hx => ?_); rotate_left; clear_value x; rotate_left; unfold x)
    | ((try lift_lets); intro x; clear_value x)
    | with_reducible assumption
    | with_reducible refine State.regWrite_changes ?_ ?_ (fun u hu => ?_) ?_
    | with_reducible apply State.setF_changes
    | exact hL _ (Part.mem_elem (by rfl))
    | split
    | (dsimp only))

theorem execTsqSel_changes {f : FieldAddr} {fw : Bool} {value : W64} {pl : List Part} (hL : Part.Sub [.page .DIR, .page .TSQ, .risen, .hostOut, .hostHeld, .fwIrq, .msix] pl := by first | assumption | exact Part.Sub.via (by assumption) (by decide +kernel)) : ChangesOut pl s (execTsqSel f fw value s) := by
  unfold execTsqSel
  have hk : Changes pl s s := Changes.refl pl s
  repeat' (first
    | with_reducible exact hL
    | with_reducible exact Part.Sub.via hL (by decide)
    | with_reducible apply ChangesOut.next
    | ((try lift_lets); intro (x : State); refine Changes.via (l := pl) (s := s) (x := x) ?_ (fun hx => ?_); rotate_left; clear_value x; rotate_left; unfold x)
    | ((try lift_lets); intro x; clear_value x)
    | with_reducible assumption
    | with_reducible apply State.tsqSel_changes
    | split
    | (dsimp only))

theorem State.tsqSnap_changes {pl : List Part} {f : FieldAddr} (hk : Changes pl s0 s) (hL : Part.Sub [.page .TSQ] pl := by first | assumption | exact Part.Sub.via (by assumption) (by decide +kernel)) : Changes pl s0 (State.tsqSnap s f) := by
  unfold State.tsqSnap
  repeat' (first
    | with_reducible exact hL
    | with_reducible exact Part.Sub.via hL (by decide)
    | ((try lift_lets); intro (x : State); refine Changes.via (l := pl) (s := s0) (x := x) ?_ (fun hx => ?_); rotate_left; clear_value x; rotate_left; unfold x)
    | ((try lift_lets); intro x; clear_value x)
    | with_reducible assumption
    | with_reducible apply State.setF_changes
    | with_reducible apply State.setReg_changes
    | exact hL _ (Part.mem_elem (by rfl))
    | (refine hL _ (Part.mem_elem ?_); (repeat' split) <;> rfl)
    | split
    | (dsimp only))

end Sys2Proof.Machine
end

