-- ==== Sys2Proof/Laws/ChangesSegments.lean ====
section
/-!
SUPPORT. What the operations of Machine/Segments can change (Laws/Changes).
-/
namespace Sys2Proof.Machine

set_option linter.all false

variable {s0 s : State}

theorem State.segCommand_changes {pl : List Part} {a : TileAddr} {g : Nat} {target : SegState} (hk : Changes pl s0 s) (hL : Part.Sub [.page .SPD, .page .FEN, .risen, .tiles, .recOnce, .records, .hostOut, .hostHeld, .fwIrq, .msix] pl := by first | assumption | exact Part.Sub.via (by assumption) (by decide +kernel)) : Changes pl s0 (State.segCommand s a g target) := by
  unfold State.segCommand
  repeat' (first
    | with_reducible exact hL
    | with_reducible exact Part.Sub.via hL (by decide)
    | ((try lift_lets); intro (x : State); refine Changes.via (l := pl) (s := s0) (x := x) ?_ (fun hx => ?_); rotate_left; clear_value x; rotate_left; unfold x)
    | ((try lift_lets); intro x; clear_value x)
    | with_reducible assumption
    | with_reducible apply State.flushEntry_changes
    | with_reducible apply State.setTile_changes
    | with_reducible refine Changes.foldl ?_ (fun u x hu => ?_)
    | split
    | (dsimp only))

theorem State.segReach_changes {pl : List Part} {a : TileAddr} {g : Nat} {st : SegState} {timedOut : Bool} (hk : Changes pl s0 s) (hL : Part.Sub [.page .SPD, .page .FEN, .risen, .tiles, .recOnce, .records, .hostOut, .hostHeld, .fwIrq, .msix] pl := by first | assumption | exact Part.Sub.via (by assumption) (by decide +kernel)) : Changes pl s0 (State.segReach s a g st timedOut) := by
  unfold State.segReach
  repeat' (first
    | with_reducible exact hL
    | with_reducible exact Part.Sub.via hL (by decide)
    | ((try lift_lets); intro (x : State); refine Changes.via (l := pl) (s := s0) (x := x) ?_ (fun hx => ?_); rotate_left; clear_value x; rotate_left; unfold x)
    | ((try lift_lets); intro x; clear_value x)
    | with_reducible assumption
    | with_reducible apply State.segCommand_changes
    | with_reducible apply State.setTile_changes
    | split
    | (dsimp only))

theorem State.segFinish_changes {pl : List Part} {f : FieldAddr} (hk : Changes pl s0 s) (hL : Part.Sub [.page .SPD, .risen, .fields, .hostOut, .hostHeld, .fwIrq, .msix] pl := by first | assumption | exact Part.Sub.via (by assumption) (by decide +kernel)) : Changes pl s0 (State.segFinish s f) := by
  unfold State.segFinish
  repeat' (first
    | with_reducible exact hL
    | with_reducible exact Part.Sub.via hL (by decide)
    | ((try lift_lets); intro (x : State); refine Changes.via (l := pl) (s := s0) (x := x) ?_ (fun hx => ?_); rotate_left; clear_value x; rotate_left; unfold x)
    | ((try lift_lets); intro x; clear_value x)
    | with_reducible assumption
    | with_reducible apply State.setIrq_changes
    | with_reducible apply State.setField_changes
    | with_reducible apply State.setF_changes
    | exact hL _ (Part.mem_elem (by rfl))
    | (refine hL _ (Part.mem_elem ?_); (repeat' split) <;> rfl)
    | split
    | (dsimp only))

theorem State.segStart_changes {pl : List Part} {f : FieldAddr} (hk : Changes pl s0 s) (hL : Part.Sub [.page .SPD, .page .FEN, .risen, .tiles, .fields, .recOnce, .records, .hostOut, .hostHeld, .fwIrq, .msix] pl := by first | assumption | exact Part.Sub.via (by assumption) (by decide +kernel)) : Changes pl s0 (State.segStart s f) := by
  unfold State.segStart
  repeat' (first
    | with_reducible exact hL
    | with_reducible exact Part.Sub.via hL (by decide)
    | ((try lift_lets); intro (x : State); refine Changes.via (l := pl) (s := s0) (x := x) ?_ (fun hx => ?_); rotate_left; clear_value x; rotate_left; unfold x)
    | ((try lift_lets); intro x; clear_value x)
    | with_reducible assumption
    | with_reducible apply State.segFinish_changes
    | with_reducible apply State.segCommand_changes
    | with_reducible apply State.setIrq_changes
    | with_reducible apply State.setF_changes
    | with_reducible refine Changes.foldl ?_ (fun u x hu => ?_)
    | exact hL _ (Part.mem_elem (by rfl))
    | (refine hL _ (Part.mem_elem ?_); (repeat' split) <;> rfl)
    | split
    | (dsimp only))

theorem State.segCmdWrite_changes {pl : List Part} {f : FieldAddr} {fw : Bool} {value : W64} (hk : Changes pl s0 s) (hL : Part.Sub [.page .DIR, .page .SPD, .page .FEN, .risen, .tiles, .fields, .recOnce, .records, .hostOut, .hostHeld, .fwIrq, .msix] pl := by first | assumption | exact Part.Sub.via (by assumption) (by decide +kernel)) : Changes pl s0 (State.segCmdWrite s f fw value) := by
  unfold State.segCmdWrite
  repeat' (first
    | with_reducible exact hL
    | with_reducible exact Part.Sub.via hL (by decide)
    | ((try lift_lets); intro (x : State); refine Changes.via (l := pl) (s := s0) (x := x) ?_ (fun hx => ?_); rotate_left; clear_value x; rotate_left; unfold x)
    | ((try lift_lets); intro x; clear_value x)
    | with_reducible assumption
    | with_reducible apply State.segStart_changes
    | with_reducible refine State.regWrite_changes ?_ ?_ (fun u hu => ?_) ?_
    | exact hL _ (Part.mem_elem (by rfl))
    | (refine hL _ (Part.mem_elem ?_); (repeat' split) <;> rfl)
    | split
    | (dsimp only))

theorem execSegCmdOff_changes {f : FieldAddr} {fw : Bool} {value : W64} {pl : List Part} (hL : Part.Sub [.page .DIR, .page .SPD, .page .FEN, .risen, .tiles, .fields, .recOnce, .records, .hostOut, .hostHeld, .fwIrq, .msix] pl := by first | assumption | exact Part.Sub.via (by assumption) (by decide +kernel)) : ChangesOut pl s (execSegCmdOff f fw value s) := by
  unfold execSegCmdOff
  have hk : Changes pl s s := Changes.refl pl s
  repeat' (first
    | with_reducible exact hL
    | with_reducible exact Part.Sub.via hL (by decide)
    | with_reducible apply ChangesOut.next
    | ((try lift_lets); intro (x : State); refine Changes.via (l := pl) (s := s) (x := x) ?_ (fun hx => ?_); rotate_left; clear_value x; rotate_left; unfold x)
    | ((try lift_lets); intro x; clear_value x)
    | with_reducible assumption
    | with_reducible apply State.segCmdWrite_changes
    | split
    | (dsimp only))

theorem execSegCmdActive_changes {f : FieldAddr} {fw : Bool} {value : W64} {pl : List Part} (hL : Part.Sub [.page .DIR, .page .SPD, .page .FEN, .risen, .tiles, .fields, .recOnce, .records, .hostOut, .hostHeld, .fwIrq, .msix] pl := by first | assumption | exact Part.Sub.via (by assumption) (by decide +kernel)) : ChangesOut pl s (execSegCmdActive f fw value s) := by
  unfold execSegCmdActive
  have hk : Changes pl s s := Changes.refl pl s
  repeat' (first
    | with_reducible exact hL
    | with_reducible exact Part.Sub.via hL (by decide)
    | with_reducible apply ChangesOut.next
    | ((try lift_lets); intro (x : State); refine Changes.via (l := pl) (s := s) (x := x) ?_ (fun hx => ?_); rotate_left; clear_value x; rotate_left; unfold x)
    | ((try lift_lets); intro x; clear_value x)
    | with_reducible assumption
    | with_reducible apply State.segCmdWrite_changes
    | split
    | (dsimp only))

theorem execSegCmdRetained_changes {f : FieldAddr} {fw : Bool} {value : W64} {pl : List Part} (hL : Part.Sub [.page .DIR, .page .SPD, .page .FEN, .risen, .tiles, .fields, .recOnce, .records, .hostOut, .hostHeld, .fwIrq, .msix] pl := by first | assumption | exact Part.Sub.via (by assumption) (by decide +kernel)) : ChangesOut pl s (execSegCmdRetained f fw value s) := by
  unfold execSegCmdRetained
  have hk : Changes pl s s := Changes.refl pl s
  repeat' (first
    | with_reducible exact hL
    | with_reducible exact Part.Sub.via hL (by decide)
    | with_reducible apply ChangesOut.next
    | ((try lift_lets); intro (x : State); refine Changes.via (l := pl) (s := s) (x := x) ?_ (fun hx => ?_); rotate_left; clear_value x; rotate_left; unfold x)
    | ((try lift_lets); intro x; clear_value x)
    | with_reducible assumption
    | with_reducible apply State.segCmdWrite_changes
    | split
    | (dsimp only))

theorem State.dropFirst_changes {pl : List Part} {a : TileAddr} {deep : Bool} {seg cause : Nat} {p : Packet} (hk : Changes pl s0 s) (hL : Part.Sub [.page .SPD, .risen, .hostOut, .hostHeld, .fwIrq, .msix] pl := by first | assumption | exact Part.Sub.via (by assumption) (by decide +kernel)) : Changes pl s0 (State.dropFirst s a deep seg cause p).1 := by
  unfold State.dropFirst
  repeat' (first
    | with_reducible exact hL
    | with_reducible exact Part.Sub.via hL (by decide)
    | ((try lift_lets); intro (x : State); refine Changes.via (l := pl) (s := s0) (x := x) ?_ (fun hx => ?_); rotate_left; clear_value x; rotate_left; unfold x)
    | ((try lift_lets); intro x; clear_value x)
    | with_reducible assumption
    | with_reducible apply State.captureTile_changes
    | exact hL _ (Part.mem_elem (by rfl))
    | split
    | (dsimp only))

theorem State.lateWrite_changes {pl : List Part} {a : TileAddr} {seg cause : Nat} {p : Packet} (hk : Changes pl s0 s) (hL : Part.Sub [.page .SPD, .risen, .recOnce, .records, .hostOut, .hostHeld, .fwIrq, .msix] pl := by first | assumption | exact Part.Sub.via (by assumption) (by decide +kernel)) : Changes pl s0 (State.lateWrite s a seg cause p) := by
  unfold State.lateWrite
  repeat' (first
    | with_reducible exact hL
    | with_reducible exact Part.Sub.via hL (by decide)
    | ((try lift_lets); intro (x : State); refine Changes.via (l := pl) (s := s0) (x := x) ?_ (fun hx => ?_); rotate_left; clear_value x; rotate_left; unfold x)
    | ((try lift_lets); intro (x : State × _); refine Changes.via (l := pl) (s := s0) (x := x.1) ?_ (fun hx => ?_); rotate_left; clear_value x; rotate_left; unfold x)
    | ((try lift_lets); intro (x : _ × State); refine Changes.via (l := pl) (s := s0) (x := x.2) ?_ (fun hx => ?_); rotate_left; clear_value x; rotate_left; unfold x)
    | ((try lift_lets); intro x; clear_value x)
    | with_reducible assumption
    | with_reducible refine Changes.of_fst (State.dropFirst_changes ?_ ?_) (by assumption)
    | with_reducible apply State.dropFirst_changes
    | with_reducible apply State.raiseOnce_changes
    | with_reducible apply State.count_changes
    | exact hL _ (Part.mem_elem (by rfl))
    | split
    | (dsimp only))

theorem execSegmentWakeDone_changes {a : TileAddr} {seg : Fin 8} {pl : List Part} (hL : Part.Sub [.page .SPD, .page .FEN, .risen, .tiles, .fields, .recOnce, .records, .hostOut, .hostHeld, .fwIrq, .msix] pl := by first | assumption | exact Part.Sub.via (by assumption) (by decide +kernel)) : ChangesOut pl s (execSegmentWakeDone a seg s) := by
  unfold execSegmentWakeDone
  have hk : Changes pl s s := Changes.refl pl s
  repeat' (first
    | with_reducible exact hL
    | with_reducible exact Part.Sub.via hL (by decide)
    | with_reducible apply ChangesOut.next
    | ((try lift_lets); intro (x : State); refine Changes.via (l := pl) (s := s) (x := x) ?_ (fun hx => ?_); rotate_left; clear_value x; rotate_left; unfold x)
    | ((try lift_lets); intro x; clear_value x)
    | with_reducible assumption
    | with_reducible apply State.segFinish_changes
    | with_reducible apply State.segReach_changes
    | split
    | (dsimp only))

theorem execSegmentGate_changes {a : TileAddr} {seg : Fin 8} {pl : List Part} (hL : Part.Sub [.page .SPD, .page .FEN, .risen, .tiles, .fields, .recOnce, .records, .hostOut, .hostHeld, .fwIrq, .msix] pl := by first | assumption | exact Part.Sub.via (by assumption) (by decide +kernel)) : ChangesOut pl s (execSegmentGate a seg s) := by
  unfold execSegmentGate
  have hk : Changes pl s s := Changes.refl pl s
  repeat' (first
    | with_reducible exact hL
    | with_reducible exact Part.Sub.via hL (by decide)
    | with_reducible apply ChangesOut.next
    | ((try lift_lets); intro (x : State); refine Changes.via (l := pl) (s := s) (x := x) ?_ (fun hx => ?_); rotate_left; clear_value x; rotate_left; unfold x)
    | ((try lift_lets); intro x; clear_value x)
    | with_reducible assumption
    | with_reducible apply State.segFinish_changes
    | with_reducible apply State.segReach_changes
    | split
    | (dsimp only))

theorem execGateTimeout_changes {a : TileAddr} {seg : Fin 8} {pl : List Part} (hL : Part.Sub [.page .SPD, .page .FEN, .risen, .tiles, .fields, .recOnce, .records, .hostOut, .hostHeld, .fwIrq, .msix] pl := by first | assumption | exact Part.Sub.via (by assumption) (by decide +kernel)) : ChangesOut pl s (execGateTimeout a seg s) := by
  unfold execGateTimeout
  have hk : Changes pl s s := Changes.refl pl s
  repeat' (first
    | with_reducible exact hL
    | with_reducible exact Part.Sub.via hL (by decide)
    | with_reducible apply ChangesOut.next
    | ((try lift_lets); intro (x : State); refine Changes.via (l := pl) (s := s) (x := x) ?_ (fun hx => ?_); rotate_left; clear_value x; rotate_left; unfold x)
    | ((try lift_lets); intro x; clear_value x)
    | with_reducible assumption
    | with_reducible apply State.lateWrite_changes
    | with_reducible apply State.segFinish_changes
    | with_reducible apply State.segReach_changes
    | with_reducible apply State.count_changes
    | with_reducible apply State.setTile_changes
    | exact hL _ (Part.mem_elem (by rfl))
    | (refine hL _ (Part.mem_elem ?_); (repeat' split) <;> rfl)
    | split
    | (dsimp only))

theorem State.segSel_changes {pl : List Part} {f : FieldAddr} {fw : Bool} {value : W64} (hk : Changes pl s0 s) (hL : Part.Sub [.page .DIR, .page .SPD, .risen, .hostOut, .hostHeld, .fwIrq, .msix] pl := by first | assumption | exact Part.Sub.via (by assumption) (by decide +kernel)) : Changes pl s0 (State.segSel s f fw value) := by
  unfold State.segSel
  repeat' (first
    | with_reducible exact hL
    | with_reducible exact Part.Sub.via hL (by decide)
    | ((try lift_lets); intro (x : State); refine Changes.via (l := pl) (s := s0) (x := x) ?_ (fun hx => ?_); rotate_left; clear_value x; rotate_left; unfold x)
    | ((try lift_lets); intro x; clear_value x)
    | with_reducible assumption
    | with_reducible refine State.regWrite_changes ?_ ?_ (fun u hu => ?_) ?_
    | with_reducible apply State.setF_changes
    | exact hL _ (Part.mem_elem (by rfl))
    | split
    | (dsimp only))

theorem execSegSel_changes {f : FieldAddr} {fw : Bool} {value : W64} {pl : List Part} (hL : Part.Sub [.page .DIR, .page .SPD, .risen, .hostOut, .hostHeld, .fwIrq, .msix] pl := by first | assumption | exact Part.Sub.via (by assumption) (by decide +kernel)) : ChangesOut pl s (execSegSel f fw value s) := by
  unfold execSegSel
  have hk : Changes pl s s := Changes.refl pl s
  repeat' (first
    | with_reducible exact hL
    | with_reducible exact Part.Sub.via hL (by decide)
    | with_reducible apply ChangesOut.next
    | ((try lift_lets); intro (x : State); refine Changes.via (l := pl) (s := s) (x := x) ?_ (fun hx => ?_); rotate_left; clear_value x; rotate_left; unfold x)
    | ((try lift_lets); intro x; clear_value x)
    | with_reducible assumption
    | with_reducible apply State.segSel_changes
    | split
    | (dsimp only))

theorem State.segSnap_changes {pl : List Part} {f : FieldAddr} (hk : Changes pl s0 s) (hL : Part.Sub [.page .SPD] pl := by first | assumption | exact Part.Sub.via (by assumption) (by decide +kernel)) : Changes pl s0 (State.segSnap s f) := by
  unfold State.segSnap
  repeat' (first
    | with_reducible exact hL
    | with_reducible exact Part.Sub.via hL (by decide)
    | ((try lift_lets); intro (x : State); refine Changes.via (l := pl) (s := s0) (x := x) ?_ (fun hx => ?_); rotate_left; clear_value x; rotate_left; unfold x)
    | ((try lift_lets); intro x; clear_value x)
    | with_reducible assumption
    | with_reducible apply State.setF_changes
    | with_reducible apply State.setReg_changes
    | with_reducible refine Changes.foldl ?_ (fun u x hu => ?_)
    | exact hL _ (Part.mem_elem (by rfl))
    | (refine hL _ (Part.mem_elem ?_); (repeat' split) <;> rfl)
    | split
    | (dsimp only))

end Sys2Proof.Machine
end

