-- ==== Sys2Proof/Laws/ChangesDelivery.lean ====
section
/-!
SUPPORT. What the operations of Machine/Delivery can change (Laws/Changes).
-/
namespace Sys2Proof.Machine

set_option linter.all false

variable {s0 s : State}

theorem State.countIrq_changes {pl : List Part} {c : Ctr} {inst bit : Nat} (hk : Changes pl s0 s) (hm : Part.page c.typ ∈ pl := by first | assumption | exact Part.Sub.mem (by assumption) (Part.mem_elem (by rfl))) (hL : Part.Sub [.risen, .hostOut, .hostHeld, .fwIrq, .msix] pl := by first | assumption | exact Part.Sub.via (by assumption) (by decide +kernel)) : Changes pl s0 (State.countIrq s c inst bit) := by
  unfold State.countIrq
  repeat' (first
    | with_reducible exact hL
    | with_reducible exact Part.Sub.via hL (by decide)
    | ((try lift_lets); intro (x : State); refine Changes.via (l := pl) (s := s0) (x := x) ?_ (fun hx => ?_); rotate_left; clear_value x; rotate_left; unfold x)
    | ((try lift_lets); intro x; clear_value x)
    | with_reducible assumption
    | with_reducible apply State.count_changes
    | with_reducible apply State.setIrq_changes
    | exact hm
    | exact hL _ (Part.mem_elem (by rfl))
    | (refine hL _ (Part.mem_elem ?_); (repeat' split) <;> rfl)
    | split
    | (dsimp only))

theorem State.closeNack_changes {pl : List Part} {a : TileAddr} {seg addr : Nat} {p : Packet} (hk : Changes pl s0 s) (hL : Part.Sub [.page .MESH, .page .SPD, .risen, .tiles, .hostOut, .hostHeld, .fwIrq, .msix] pl := by first | assumption | exact Part.Sub.via (by assumption) (by decide +kernel)) : Changes pl s0 (State.closeNack s a seg addr p) := by
  unfold State.closeNack
  repeat' (first
    | with_reducible exact hL
    | with_reducible exact Part.Sub.via hL (by decide)
    | ((try lift_lets); intro (x : State); refine Changes.via (l := pl) (s := s0) (x := x) ?_ (fun hx => ?_); rotate_left; clear_value x; rotate_left; unfold x)
    | ((try lift_lets); intro (x : State × _); refine Changes.via (l := pl) (s := s0) (x := x.1) ?_ (fun hx => ?_); rotate_left; clear_value x; rotate_left; unfold x)
    | ((try lift_lets); intro (x : _ × State); refine Changes.via (l := pl) (s := s0) (x := x.2) ?_ (fun hx => ?_); rotate_left; clear_value x; rotate_left; unfold x)
    | ((try lift_lets); intro x; clear_value x)
    | with_reducible assumption
    | with_reducible refine Changes.of_fst (State.dropFirst_changes ?_ ?_) (by assumption)
    | with_reducible apply State.dropFirst_changes
    | with_reducible apply State.pktEvent_changes
    | with_reducible apply State.inject_changes
    | with_reducible apply State.count_changes
    | exact hL _ (Part.mem_elem (by rfl))
    | (refine hL _ (Part.mem_elem ?_); (repeat' split) <;> rfl)
    | split
    | (dsimp only))

theorem writePieces_changes {pl : List Part} {a : TileAddr} {deep : Bool} {n : Nat} (hL : Part.Sub [.page .SPD, .page .FEN, .risen, .tiles, .recOnce, .records, .hostOut, .hostHeld, .fwIrq, .msix] pl := by first | assumption | exact Part.Sub.via (by assumption) (by decide +kernel)) :
    ∀ {off : Nat} {bs : List Byte} {s : State}, Changes pl s0 s → Changes pl s0 (writePieces a deep n off bs s) := by
  induction n with
  | zero => exact fun h => h
  | succ n ih =>
    intro off bs s h
    unfold writePieces
    split
    · exact h
    · split
      · exact ih (State.writeRows_changes h)
      · exact ih (State.narrowWrite_changes h)

theorem State.routerWrite_changes {pl : List Part} {a : TileAddr} {accepted deep : Bool} {off : Nat} {bs : List Byte} {p : Packet} (hk : Changes pl s0 s) (hL : Part.Sub [.page .MESH, .page .SPD, .page .FEN, .risen, .tiles, .recOnce, .records, .hostOut, .hostHeld, .fwIrq, .msix] pl := by first | assumption | exact Part.Sub.via (by assumption) (by decide +kernel)) : Changes pl s0 (State.routerWrite s a accepted deep off bs p).1 := by
  unfold State.routerWrite
  repeat' (first
    | with_reducible exact hL
    | with_reducible exact Part.Sub.via hL (by decide)
    | ((try lift_lets); intro (x : State); refine Changes.via (l := pl) (s := s0) (x := x) ?_ (fun hx => ?_); rotate_left; clear_value x; rotate_left; unfold x)
    | ((try lift_lets); intro (x : State × _); refine Changes.via (l := pl) (s := s0) (x := x.1) ?_ (fun hx => ?_); rotate_left; clear_value x; rotate_left; unfold x)
    | ((try lift_lets); intro (x : _ × State); refine Changes.via (l := pl) (s := s0) (x := x.2) ?_ (fun hx => ?_); rotate_left; clear_value x; rotate_left; unfold x)
    | ((try lift_lets); intro (x : _ → _); dsimp -zeta only [x]; clear x)
    | ((try lift_lets); intro x; clear_value x)
    | with_reducible assumption
    | with_reducible apply State.lateWrite_changes
    | with_reducible refine Changes.of_fst (State.dropFirst_changes ?_ ?_) (by assumption)
    | with_reducible apply State.dropFirst_changes
    | with_reducible apply State.count_changes
    | with_reducible apply writePieces_changes
    | with_reducible apply State.closeNack_changes
    | exact hL _ (Part.mem_elem (by rfl))
    | (refine hL _ (Part.mem_elem ?_); (repeat' split) <;> rfl)
    | split
    | (dsimp only))

theorem State.fencedDiscard_changes {pl : List Part} {a : TileAddr} {p : Packet} (hk : Changes pl s0 s) (hL : Part.Sub [.page .MESH, .risen, .hostOut, .hostHeld, .fwIrq, .msix] pl := by first | assumption | exact Part.Sub.via (by assumption) (by decide +kernel)) : Changes pl s0 (State.fencedDiscard s a p) := by
  unfold State.fencedDiscard
  repeat' (first
    | with_reducible exact hL
    | with_reducible exact Part.Sub.via hL (by decide)
    | ((try lift_lets); intro (x : State); refine Changes.via (l := pl) (s := s0) (x := x) ?_ (fun hx => ?_); rotate_left; clear_value x; rotate_left; unfold x)
    | ((try lift_lets); intro x; clear_value x)
    | with_reducible assumption
    | with_reducible apply State.pktEvent_changes
    | with_reducible apply State.count_changes
    | exact hL _ (Part.mem_elem (by rfl))
    | split
    | (dsimp only))

theorem State.deliverAct_changes {pl : List Part} {a : TileAddr} {accepted : Bool} {p : Packet} (hk : Changes pl s0 s) (hL : Part.Sub [.page .MESH, .page .TSQ, .page .SPD, .page .FEN, .risen, .tiles, .fields, .recOnce, .records, .hostOut, .hostHeld, .fwIrq, .msix] pl := by first | assumption | exact Part.Sub.via (by assumption) (by decide +kernel)) : ChangesOpt pl s0 (State.deliverAct s a accepted p) := by
  unfold State.deliverAct
  repeat' (first
    | with_reducible exact hL
    | with_reducible exact Part.Sub.via hL (by decide)
    | with_reducible apply ChangesOpt.ofSome
    | with_reducible exact ChangesOpt.ofNone
    | ((try lift_lets); intro (x : State); refine Changes.via (l := pl) (s := s0) (x := x) ?_ (fun hx => ?_); rotate_left; clear_value x; rotate_left; unfold x)
    | ((try lift_lets); intro (x : State × _); refine Changes.via (l := pl) (s := s0) (x := x.1) ?_ (fun hx => ?_); rotate_left; clear_value x; rotate_left; unfold x)
    | ((try lift_lets); intro (x : _ × State); refine Changes.via (l := pl) (s := s0) (x := x.2) ?_ (fun hx => ?_); rotate_left; clear_value x; rotate_left; unfold x)
    | ((try lift_lets); intro x; clear_value x)
    | with_reducible assumption
    | with_reducible apply State.noteStale_changes
    | with_reducible apply State.packetSignal_changes
    | with_reducible refine Changes.of_fst (State.routerWrite_changes ?_ ?_) (by assumption)
    | with_reducible apply State.routerWrite_changes
    | split
    | (dsimp only))

theorem State.deliverSum_changes {pl : List Part} {a : TileAddr} {accepted : Bool} {p : Packet} (hk : Changes pl s0 s) (hL : Part.Sub [.page .MESH, .page .ARF, .page .TSQ, .page .SPD, .page .FEN, .risen, .ahead, .tiles, .recOnce, .records, .causes, .hostOut, .hostHeld, .fwIrq, .msix] pl := by first | assumption | exact Part.Sub.via (by assumption) (by decide +kernel)) : ChangesOpt pl s0 (State.deliverSum s a accepted p) := by
  unfold State.deliverSum
  repeat' (first
    | with_reducible exact hL
    | with_reducible exact Part.Sub.via hL (by decide)
    | with_reducible apply ChangesOpt.ofSome
    | with_reducible exact ChangesOpt.ofNone
    | ((try lift_lets); intro (x : State); refine Changes.via (l := pl) (s := s0) (x := x) ?_ (fun hx => ?_); rotate_left; clear_value x; rotate_left; unfold x)
    | ((try lift_lets); intro (x : State × _); refine Changes.via (l := pl) (s := s0) (x := x.1) ?_ (fun hx => ?_); rotate_left; clear_value x; rotate_left; unfold x)
    | ((try lift_lets); intro (x : _ × State); refine Changes.via (l := pl) (s := s0) (x := x.2) ?_ (fun hx => ?_); rotate_left; clear_value x; rotate_left; unfold x)
    | ((try lift_lets); intro (x : _ → _); dsimp -zeta only [x]; clear x)
    | ((try lift_lets); intro x; clear_value x)
    | with_reducible assumption
    | with_reducible apply State.arrive_changes
    | with_reducible apply State.noteStale_changes
    | with_reducible apply State.redMismatch_changes
    | with_reducible apply State.raiseOnce_changes
    | with_reducible apply State.noteResult_changes
    | with_reducible refine Changes.of_fst (State.routerWrite_changes ?_ ?_) (by assumption)
    | with_reducible apply State.routerWrite_changes
    | with_reducible apply State.countIrq_changes
    | with_reducible refine Changes.foldl ?_ (fun u x hu => ?_)
    | with_reducible refine Changes.foldl_fst ?_ (fun u x hu => ?_)
    | exact hL _ (Part.mem_elem (by rfl))
    | (refine hL _ (Part.mem_elem ?_); (repeat' split) <;> rfl)
    | split
    | (dsimp only))

theorem State.deliverCtl_changes {pl : List Part} {a : TileAddr} {p : Packet} (hk : Changes pl s0 s) (hL : Part.Sub [.page .TSQ, .page .SPD, .risen, .fields, .recOnce, .records, .hostOut, .hostHeld, .fwIrq, .msix] pl := by first | assumption | exact Part.Sub.via (by assumption) (by decide +kernel)) : Changes pl s0 (State.deliverCtl s a p) := by
  unfold State.deliverCtl
  repeat' (first
    | with_reducible exact hL
    | with_reducible exact Part.Sub.via hL (by decide)
    | ((try lift_lets); intro (x : State); refine Changes.via (l := pl) (s := s0) (x := x) ?_ (fun hx => ?_); rotate_left; clear_value x; rotate_left; unfold x)
    | ((try lift_lets); intro x; clear_value x)
    | with_reducible assumption
    | with_reducible apply State.noteStale_changes
    | with_reducible apply State.raiseOnce_changes
    | with_reducible apply State.packetSignal_changes
    | with_reducible apply State.countIrq_changes
    | exact hL _ (Part.mem_elem (by rfl))
    | (refine hL _ (Part.mem_elem ?_); (repeat' split) <;> rfl)
    | split
    | (dsimp only))

theorem State.act_changes {pl : List Part} {a : TileAddr} {accepted : Bool} {p : Packet} (hk : Changes pl s0 s) (hL : Part.Sub [.page .MESH, .page .ARF, .page .TSQ, .page .SPD, .page .FEN, .risen, .ahead, .tiles, .fields, .recOnce, .records, .causes, .hostOut, .hostHeld, .fwIrq, .msix] pl := by first | assumption | exact Part.Sub.via (by assumption) (by decide +kernel)) : ChangesOpt pl s0 (State.act s a accepted p) := by
  unfold State.act
  repeat' (first
    | with_reducible exact hL
    | with_reducible exact Part.Sub.via hL (by decide)
    | with_reducible apply ChangesOpt.ofSome
    | with_reducible exact ChangesOpt.ofNone
    | ((try lift_lets); intro (x : State); refine Changes.via (l := pl) (s := s0) (x := x) ?_ (fun hx => ?_); rotate_left; clear_value x; rotate_left; unfold x)
    | ((try lift_lets); intro x; clear_value x)
    | with_reducible assumption
    | with_reducible apply State.deliverCtl_changes
    | with_reducible refine ChangesOpt.get (State.deliverSum_changes ?_ ?_) (by assumption)
    | with_reducible apply State.deliverSum_changes
    | with_reducible refine ChangesOpt.get (State.deliverAct_changes ?_ ?_) (by assumption)
    | with_reducible apply State.deliverAct_changes
    | split
    | (dsimp only))

theorem State.land_changes {pl : List Part} {a : TileAddr} {p : Packet} (hk : Changes pl s0 s) (hL : Part.Sub [.page .MESH, .page .ARF, .page .TSQ, .page .SPD, .page .FEN, .risen, .ahead, .tiles, .fields, .recOnce, .records, .causes, .hostOut, .hostHeld, .fwIrq, .msix] pl := by first | assumption | exact Part.Sub.via (by assumption) (by decide +kernel)) : ChangesOpt pl s0 (State.land s a p) := by
  unfold State.land
  repeat' (first
    | with_reducible exact hL
    | with_reducible exact Part.Sub.via hL (by decide)
    | with_reducible apply ChangesOpt.ofSome
    | with_reducible exact ChangesOpt.ofNone
    | ((try lift_lets); intro (x : State); refine Changes.via (l := pl) (s := s0) (x := x) ?_ (fun hx => ?_); rotate_left; clear_value x; rotate_left; unfold x)
    | ((try lift_lets); intro x; clear_value x)
    | with_reducible assumption
    | with_reducible apply State.setTile_changes
    | with_reducible refine ChangesOpt.get (State.act_changes ?_ ?_) (by assumption)
    | with_reducible apply State.act_changes
    | with_reducible apply State.fencedDiscard_changes
    | split
    | (dsimp only))

theorem State.landingWork_changes {pl : List Part} {a : TileAddr} (hk : Changes pl s0 s) (hL : Part.Sub [.page .MESH, .page .ARF, .page .TSQ, .page .SPD, .page .FEN, .risen, .ahead, .tiles, .fields, .recOnce, .records, .causes, .hostOut, .hostHeld, .fwIrq, .msix] pl := by first | assumption | exact Part.Sub.via (by assumption) (by decide +kernel)) : Changes pl s0 (State.landingWork s a) := by
  unfold State.landingWork
  repeat' (first
    | with_reducible exact hL
    | with_reducible exact Part.Sub.via hL (by decide)
    | ((try lift_lets); intro (x : State); refine Changes.via (l := pl) (s := s0) (x := x) ?_ (fun hx => ?_); rotate_left; clear_value x; rotate_left; unfold x)
    | ((try lift_lets); intro x; clear_value x)
    | with_reducible assumption
    | with_reducible apply State.setTile_changes
    | with_reducible refine ChangesOpt.get (State.act_changes ?_ ?_) (by assumption)
    | split
    | (dsimp only))

theorem State.edgeRelease_changes {pl : List Part}  (hk : Changes pl s0 s) (hL : Part.Sub [.tiles, .edgeHeld] pl := by first | assumption | exact Part.Sub.via (by assumption) (by decide +kernel)) : Changes pl s0 (State.edgeRelease s) := by
  unfold State.edgeRelease
  repeat' (first
    | with_reducible exact hL
    | with_reducible exact Part.Sub.via hL (by decide)
    | ((try lift_lets); intro (x : State); refine Changes.via (l := pl) (s := s0) (x := x) ?_ (fun hx => ?_); rotate_left; clear_value x; rotate_left; unfold x)
    | ((try lift_lets); intro x; clear_value x)
    | with_reducible assumption
    | with_reducible apply State.inject_changes
    | with_reducible refine Changes.foldl ?_ (fun u x hu => ?_)
    | (with_reducible apply Changes.upd_edgeHeld; first | with_reducible assumption | with_reducible apply State.inject_changes | split)
    | split
    | (dsimp only))

theorem State.edgeSignal_changes {pl : List Part} {a : TileAddr} {p : Packet} (hk : Changes pl s0 s) (hL : Part.Sub [.page .MESH, .risen, .tiles, .hostOut, .hostHeld, .fwIrq, .msix, .edgeHeld] pl := by first | assumption | exact Part.Sub.via (by assumption) (by decide +kernel)) : Changes pl s0 (State.edgeSignal s a p) := by
  unfold State.edgeSignal
  repeat' (first
    | with_reducible exact hL
    | with_reducible exact Part.Sub.via hL (by decide)
    | ((try lift_lets); intro (x : State); refine Changes.via (l := pl) (s := s0) (x := x) ?_ (fun hx => ?_); rotate_left; clear_value x; rotate_left; unfold x)
    | ((try lift_lets); intro x; clear_value x)
    | with_reducible assumption
    | with_reducible apply State.pktEvent_changes
    | with_reducible apply State.inject_changes
    | with_reducible apply State.count_changes
    | (with_reducible apply Changes.upd_edgeHeld; first | with_reducible assumption | with_reducible apply State.pktEvent_changes | with_reducible apply State.inject_changes | with_reducible apply State.count_changes | split)
    | exact hL _ (Part.mem_elem (by rfl))
    | (refine hL _ (Part.mem_elem ?_); (repeat' split) <;> rfl)
    | split
    | (dsimp only))

theorem State.deliverEdge_changes {pl : List Part} {a : TileAddr} {p : Packet} (hk : Changes pl s0 s) (hL : Part.Sub [.page .EMP, .page .HBM, .page .MESH, .risen, .tiles, .recOnce, .records, .hostOut, .hostHeld, .fwIrq, .msix, .edge, .edgeMark, .edgeWb, .selfRefresh, .edgeHeld] pl := by first | assumption | exact Part.Sub.via (by assumption) (by decide +kernel)) : Changes pl s0 (State.deliverEdge s a p) := by
  unfold State.deliverEdge
  repeat' (first
    | with_reducible exact hL
    | with_reducible exact Part.Sub.via hL (by decide)
    | ((try lift_lets); intro (x : State); refine Changes.via (l := pl) (s := s0) (x := x) ?_ (fun hx => ?_); rotate_left; clear_value x; rotate_left; unfold x)
    | ((try lift_lets); intro x; clear_value x)
    | with_reducible assumption
    | with_reducible apply State.count_changes
    | with_reducible apply State.edgeWrite_changes
    | with_reducible apply State.edgeSignal_changes
    | exact hL _ (Part.mem_elem (by rfl))
    | (refine hL _ (Part.mem_elem ?_); (repeat' split) <;> rfl)
    | split
    | (dsimp only))

theorem State.deliverBridge_changes {pl : List Part} {a : TileAddr} {p : Packet} (hk : Changes pl s0 s) (hL : Part.Sub [.page .BRG, .page .MESH, .risen, .hostOut, .hostHeld, .fwIrq, .msix, .bridgeRx] pl := by first | assumption | exact Part.Sub.via (by assumption) (by decide +kernel)) : Changes pl s0 (State.deliverBridge s a p) := by
  unfold State.deliverBridge
  repeat' (first
    | with_reducible exact hL
    | with_reducible exact Part.Sub.via hL (by decide)
    | ((try lift_lets); intro (x : State); refine Changes.via (l := pl) (s := s0) (x := x) ?_ (fun hx => ?_); rotate_left; clear_value x; rotate_left; unfold x)
    | ((try lift_lets); intro x; clear_value x)
    | with_reducible assumption
    | with_reducible apply State.pktEvent_changes
    | with_reducible apply State.count_changes
    | (with_reducible apply Changes.upd_bridgeRx; first | with_reducible assumption | with_reducible apply State.pktEvent_changes | with_reducible apply State.count_changes | split)
    | exact hL _ (Part.mem_elem (by rfl))
    | (refine hL _ (Part.mem_elem ?_); (repeat' split) <;> rfl)
    | split
    | (dsimp only))

end Sys2Proof.Machine
end

