-- ==== Sys2Proof/Laws/ChangesHop.lean ====
section
/-!
SUPPORT. What the operations of Machine/Hop can change (Laws/Changes).
-/
namespace Sys2Proof.Machine

set_option linter.all false

variable {s0 s : State}

theorem State.deadSlot_changes {pl : List Part} {a : TileAddr} {cause : Nat} {p : Packet} (hk : Changes pl s0 s) (hL : Part.Sub [.page .MESH, .risen, .tiles, .causes, .hostOut, .hostHeld, .fwIrq, .msix] pl := by first | assumption | exact Part.Sub.via (by assumption) (by decide +kernel)) : Changes pl s0 (State.deadSlot s a cause p) := by
  unfold State.deadSlot
  repeat' (first
    | with_reducible exact hL
    | with_reducible exact Part.Sub.via hL (by decide)
    | ((try lift_lets); intro (x : State); refine Changes.via (l := pl) (s := s0) (x := x) ?_ (fun hx => ?_); rotate_left; clear_value x; rotate_left; unfold x)
    | ((try lift_lets); intro (x : _ → _); dsimp -zeta only [x]; clear x)
    | ((try lift_lets); intro x; clear_value x)
    | with_reducible assumption
    | with_reducible apply State.redMismatch_changes
    | with_reducible apply State.setTile_changes
    | split
    | (dsimp only))

theorem State.joinSlot_changes {pl : List Part} {a : TileAddr} {input : Nat} {p : Packet} {e : W64} (hk : Changes pl s0 s) (hL : Part.Sub [.page .MESH, .page .TSQ, .risen, .tiles, .recOnce, .records, .causes, .hostOut, .hostHeld, .fwIrq, .msix] pl := by first | assumption | exact Part.Sub.via (by assumption) (by decide +kernel)) : ChangesOpt pl s0 (State.joinSlot s a input p e) := by
  unfold State.joinSlot
  repeat' (first
    | with_reducible exact hL
    | with_reducible exact Part.Sub.via hL (by decide)
    | with_reducible apply ChangesOpt.ofSome
    | with_reducible exact ChangesOpt.ofNone
    | ((try lift_lets); intro (x : State); refine Changes.via (l := pl) (s := s0) (x := x) ?_ (fun hx => ?_); rotate_left; clear_value x; rotate_left; unfold x)
    | ((try lift_lets); intro x; clear_value x)
    | with_reducible assumption
    | with_reducible apply State.noteStale_changes
    | with_reducible apply State.setTile_changes
    | with_reducible apply State.deadSlot_changes
    | split
    | (dsimp only))

theorem State.dropHead_changes {pl : List Part} {a : TileAddr} {input cls : Nat} (hk : Changes pl s0 s) (hL : Part.Sub [.tiles] pl := by first | assumption | exact Part.Sub.via (by assumption) (by decide +kernel)) : Changes pl s0 (State.dropHead s a input cls) := by
  unfold State.dropHead
  repeat' (first
    | with_reducible exact hL
    | with_reducible exact Part.Sub.via hL (by decide)
    | ((try lift_lets); intro (x : State); refine Changes.via (l := pl) (s := s0) (x := x) ?_ (fun hx => ?_); rotate_left; clear_value x; rotate_left; unfold x)
    | ((try lift_lets); intro x; clear_value x)
    | with_reducible assumption
    | with_reducible apply State.setTile_changes
    | split
    | (dsimp only))

theorem State.joinInput_changes {pl : List Part} {a : TileAddr} {input : Nat} (hk : Changes pl s0 s) (hL : Part.Sub [.page .MESH, .page .TSQ, .risen, .tiles, .recOnce, .records, .causes, .hostOut, .hostHeld, .fwIrq, .msix] pl := by first | assumption | exact Part.Sub.via (by assumption) (by decide +kernel)) : Changes pl s0 (State.joinInput s a input) := by
  unfold State.joinInput
  repeat' (first
    | with_reducible exact hL
    | with_reducible exact Part.Sub.via hL (by decide)
    | ((try lift_lets); intro (x : State); refine Changes.via (l := pl) (s := s0) (x := x) ?_ (fun hx => ?_); rotate_left; clear_value x; rotate_left; unfold x)
    | ((try lift_lets); intro x; clear_value x)
    | with_reducible assumption
    | with_reducible apply State.dropHead_changes
    | with_reducible refine ChangesOpt.get (State.joinSlot_changes ?_ ?_) (by assumption)
    | split
    | (dsimp only))

theorem State.takeCopy_changes {pl : List Part} {a : TileAddr} {p : Packet} (hk : Changes pl s0 s) (hL : Part.Sub [.page .MESH, .page .ARF, .page .TSQ, .page .SPD, .page .FEN, .risen, .ahead, .tiles, .fields, .recOnce, .records, .causes, .hostOut, .hostHeld, .fwIrq, .msix] pl := by first | assumption | exact Part.Sub.via (by assumption) (by decide +kernel)) : ChangesOpt pl s0 (State.takeCopy s a p) := by
  unfold State.takeCopy
  repeat' (first
    | with_reducible exact hL
    | with_reducible exact Part.Sub.via hL (by decide)
    | with_reducible apply ChangesOpt.ofSome
    | with_reducible exact ChangesOpt.ofNone
    | ((try lift_lets); intro (x : State); refine Changes.via (l := pl) (s := s0) (x := x) ?_ (fun hx => ?_); rotate_left; clear_value x; rotate_left; unfold x)
    | ((try lift_lets); intro x; clear_value x)
    | with_reducible assumption
    | with_reducible refine ChangesOpt.get (State.land_changes ?_ ?_) (by assumption)
    | with_reducible apply State.land_changes
    | split
    | (dsimp only))

theorem State.copyInput_changes {pl : List Part} {a : TileAddr} {input : Nat} (hk : Changes pl s0 s) (hL : Part.Sub [.page .MESH, .page .ARF, .page .TSQ, .page .SPD, .page .FEN, .risen, .ahead, .tiles, .fields, .recOnce, .records, .causes, .hostOut, .hostHeld, .fwIrq, .msix] pl := by first | assumption | exact Part.Sub.via (by assumption) (by decide +kernel)) : Changes pl s0 (State.copyInput s a input) := by
  unfold State.copyInput
  repeat' (first
    | with_reducible exact hL
    | with_reducible exact Part.Sub.via hL (by decide)
    | ((try lift_lets); intro (x : State); refine Changes.via (l := pl) (s := s0) (x := x) ?_ (fun hx => ?_); rotate_left; clear_value x; rotate_left; unfold x)
    | ((try lift_lets); intro x; clear_value x)
    | with_reducible assumption
    | with_reducible apply State.setTile_changes
    | with_reducible refine ChangesOpt.get (State.takeCopy_changes ?_ ?_) (by assumption)
    | split
    | (dsimp only))

theorem State.routerWork_changes {pl : List Part} {a : TileAddr} (hk : Changes pl s0 s) (hL : Part.Sub [.page .MESH, .page .ARF, .page .TSQ, .page .SPD, .page .FEN, .risen, .ahead, .tiles, .fields, .recOnce, .records, .causes, .hostOut, .hostHeld, .fwIrq, .msix] pl := by first | assumption | exact Part.Sub.via (by assumption) (by decide +kernel)) : Changes pl s0 (State.routerWork s a) := by
  unfold State.routerWork
  repeat' (first
    | with_reducible exact hL
    | with_reducible exact Part.Sub.via hL (by decide)
    | ((try lift_lets); intro (x : State); refine Changes.via (l := pl) (s := s0) (x := x) ?_ (fun hx => ?_); rotate_left; clear_value x; rotate_left; unfold x)
    | ((try lift_lets); intro x; clear_value x)
    | with_reducible assumption
    | with_reducible apply State.copyInput_changes
    | with_reducible apply State.joinInput_changes
    | with_reducible apply State.landingWork_changes
    | with_reducible refine Changes.foldl ?_ (fun u x hu => ?_)
    | split
    | (dsimp only))

theorem State.arrivedAt_changes {pl : List Part} {f : FieldAddr} (hk : Changes pl s0 s) (hL : Part.Sub [.page .MESH, .fields] pl := by first | assumption | exact Part.Sub.via (by assumption) (by decide +kernel)) : Changes pl s0 (State.arrivedAt s f) := by
  unfold State.arrivedAt
  repeat' (first
    | with_reducible exact hL
    | with_reducible exact Part.Sub.via hL (by decide)
    | ((try lift_lets); intro (x : State); refine Changes.via (l := pl) (s := s0) (x := x) ?_ (fun hx => ?_); rotate_left; clear_value x; rotate_left; unfold x)
    | ((try lift_lets); intro x; clear_value x)
    | with_reducible assumption
    | with_reducible apply State.setField_changes
    | with_reducible apply State.setF_changes
    | exact hL _ (Part.mem_elem (by rfl))
    | (refine hL _ (Part.mem_elem ?_); (repeat' split) <;> rfl)
    | split
    | (dsimp only))

theorem State.transmit_changes {pl : List Part} {a : TileAddr} {dir : Nat} {p : Packet} (hk : Changes pl s0 s) (hL : Part.Sub [.page .MESH, .page .PWR, .risen, .tiles, .fields, .hostOut, .hostHeld, .fwIrq, .msix] pl := by first | assumption | exact Part.Sub.via (by assumption) (by decide +kernel)) : Changes pl s0 (State.transmit s a dir p) := by
  unfold State.transmit
  repeat' (first
    | with_reducible exact hL
    | with_reducible exact Part.Sub.via hL (by decide)
    | ((try lift_lets); intro (x : State); refine Changes.via (l := pl) (s := s0) (x := x) ?_ (fun hx => ?_); rotate_left; clear_value x; rotate_left; unfold x)
    | ((try lift_lets); intro (x : _ → _); dsimp -zeta only [x]; clear x)
    | ((try lift_lets); intro x; clear_value x)
    | with_reducible assumption
    | with_reducible apply State.pktEvent_changes
    | with_reducible apply State.count_changes
    | with_reducible apply State.setTile_changes
    | with_reducible apply State.arrivedAt_changes
    | exact hL _ (Part.mem_elem (by rfl))
    | (refine hL _ (Part.mem_elem ?_); unfold flitCtr; (repeat' split) <;> rfl)
    | split
    | (dsimp only))

theorem State.turn_changes {pl : List Part} {a : TileAddr} {dir cls : Nat} {input : Option Nat} (hk : Changes pl s0 s) (hL : Part.Sub [.tiles] pl := by first | assumption | exact Part.Sub.via (by assumption) (by decide +kernel)) : Changes pl s0 (State.turn s a dir cls input) := by
  unfold State.turn
  repeat' (first
    | with_reducible exact hL
    | with_reducible exact Part.Sub.via hL (by decide)
    | ((try lift_lets); intro (x : State); refine Changes.via (l := pl) (s := s0) (x := x) ?_ (fun hx => ?_); rotate_left; clear_value x; rotate_left; unfold x)
    | ((try lift_lets); intro x; clear_value x)
    | with_reducible assumption
    | with_reducible apply State.setTile_changes
    | split
    | (dsimp only))

theorem execPacketHop_changes {a : TileAddr} {dir : Fin 4} {pl : List Part} (hL : Part.Sub [.page .MESH, .page .ARF, .page .TSQ, .page .SPD, .page .PWR, .page .FEN, .risen, .ahead, .tiles, .fields, .recOnce, .records, .causes, .hostOut, .hostHeld, .fwIrq, .msix] pl := by first | assumption | exact Part.Sub.via (by assumption) (by decide +kernel)) : ChangesOut pl s (execPacketHop a dir s) := by
  unfold execPacketHop
  have hk : Changes pl s s := Changes.refl pl s
  repeat' (first
    | with_reducible exact hL
    | with_reducible exact Part.Sub.via hL (by decide)
    | with_reducible apply ChangesOut.next
    | ((try lift_lets); intro (x : State); refine Changes.via (l := pl) (s := s) (x := x) ?_ (fun hx => ?_); rotate_left; clear_value x; rotate_left; unfold x)
    | ((try lift_lets); intro x; clear_value x)
    | with_reducible assumption
    | with_reducible apply State.setTile_changes
    | with_reducible apply State.turn_changes
    | with_reducible apply State.transmit_changes
    | with_reducible apply State.routerWork_changes
    | with_reducible apply State.dropHead_changes
    | split
    | (dsimp only))

theorem State.deliver_changes {pl : List Part} {a : TileAddr} {p : Packet} (hk : Changes pl s0 s) (hL : Part.Sub [.page .BRG, .page .EMP, .page .HBM, .page .MESH, .page .ARF, .page .TSQ, .page .SPD, .page .FEN, .risen, .ahead, .tiles, .fields, .recOnce, .records, .causes, .hostOut, .hostHeld, .fwIrq, .msix, .edge, .edgeMark, .edgeWb, .selfRefresh, .edgeHeld, .bridgeRx] pl := by first | assumption | exact Part.Sub.via (by assumption) (by decide +kernel)) : ChangesOpt pl s0 (State.deliver s a p) := by
  unfold State.deliver
  repeat' (first
    | with_reducible exact hL
    | with_reducible exact Part.Sub.via hL (by decide)
    | with_reducible apply ChangesOpt.ofSome
    | with_reducible exact ChangesOpt.ofNone
    | ((try lift_lets); intro (x : State); refine Changes.via (l := pl) (s := s0) (x := x) ?_ (fun hx => ?_); rotate_left; clear_value x; rotate_left; unfold x)
    | ((try lift_lets); intro x; clear_value x)
    | with_reducible assumption
    | with_reducible apply State.deliverBridge_changes
    | with_reducible apply State.deliverEdge_changes
    | with_reducible refine ChangesOpt.get (State.land_changes ?_ ?_) (by assumption)
    | with_reducible apply State.land_changes
    | split
    | (dsimp only))

theorem execPacketDelivery_changes {a : TileAddr} {input : Fin 5} {cls : Fin 4} {pl : List Part} (hL : Part.Sub [.page .BRG, .page .EMP, .page .HBM, .page .MESH, .page .ARF, .page .TSQ, .page .SPD, .page .FEN, .risen, .ahead, .tiles, .fields, .recOnce, .records, .causes, .hostOut, .hostHeld, .fwIrq, .msix, .edge, .edgeMark, .edgeWb, .selfRefresh, .edgeHeld, .bridgeRx] pl := by first | assumption | exact Part.Sub.via (by assumption) (by decide +kernel)) : ChangesOut pl s (execPacketDelivery a input cls s) := by
  unfold execPacketDelivery
  have hk : Changes pl s s := Changes.refl pl s
  repeat' (first
    | with_reducible exact hL
    | with_reducible exact Part.Sub.via hL (by decide)
    | with_reducible apply ChangesOut.next
    | ((try lift_lets); intro (x : State); refine Changes.via (l := pl) (s := s) (x := x) ?_ (fun hx => ?_); rotate_left; clear_value x; rotate_left; unfold x)
    | ((try lift_lets); intro x; clear_value x)
    | with_reducible assumption
    | with_reducible apply State.setTile_changes
    | with_reducible refine ChangesOpt.get (State.deliver_changes ?_ ?_) (by assumption)
    | with_reducible apply State.routerWork_changes
    | with_reducible apply State.dropHead_changes
    | split
    | (dsimp only))

theorem execWgtRecordEnqueue_changes {a : TileAddr} {pl : List Part} (hL : Part.Sub [.page .MESH, .page .ARF, .page .TSQ, .page .SPD, .page .FEN, .risen, .ahead, .tiles, .fields, .recOnce, .records, .causes, .hostOut, .hostHeld, .fwIrq, .msix] pl := by first | assumption | exact Part.Sub.via (by assumption) (by decide +kernel)) : ChangesOut pl s (execWgtRecordEnqueue a s) := by
  unfold execWgtRecordEnqueue
  have hk : Changes pl s s := Changes.refl pl s
  repeat' (first
    | with_reducible exact hL
    | with_reducible exact Part.Sub.via hL (by decide)
    | with_reducible apply ChangesOut.next
    | ((try lift_lets); intro (x : State); refine Changes.via (l := pl) (s := s) (x := x) ?_ (fun hx => ?_); rotate_left; clear_value x; rotate_left; unfold x)
    | ((try lift_lets); intro (x : _ → _); dsimp -zeta only [x]; clear x)
    | ((try lift_lets); intro x; clear_value x)
    | with_reducible assumption
    | with_reducible apply State.unbound_changes
    | with_reducible apply State.enterDq_changes
    | with_reducible apply State.setTile_changes
    | with_reducible apply State.landingWork_changes
    | split
    | (dsimp only))

theorem State.sendRefused_changes {pl : List Part} {a : TileAddr} {task cause cls ep : Nat} (hk : Changes pl s0 s) (hL : Part.Sub [.page .MESH, .risen, .recOnce, .records, .causes, .hostOut, .hostHeld, .fwIrq, .msix] pl := by first | assumption | exact Part.Sub.via (by assumption) (by decide +kernel)) : Changes pl s0 (State.sendRefused s a task cause cls ep) := by
  unfold State.sendRefused
  repeat' (first
    | with_reducible exact hL
    | with_reducible exact Part.Sub.via hL (by decide)
    | ((try lift_lets); intro (x : State); refine Changes.via (l := pl) (s := s0) (x := x) ?_ (fun hx => ?_); rotate_left; clear_value x; rotate_left; unfold x)
    | ((try lift_lets); intro x; clear_value x)
    | with_reducible assumption
    | with_reducible apply State.reportCause_changes
    | with_reducible apply State.raiseOnce_changes
    | with_reducible apply State.captureTile_changes
    | with_reducible apply State.count_changes
    | with_reducible apply State.setErr_changes
    | exact hL _ (Part.mem_elem (by rfl))
    | (refine hL _ (Part.mem_elem ?_); (repeat' split) <;> rfl)
    | split
    | (dsimp only))

theorem State.emit_changes {pl : List Part} {a : TileAddr} {task : Nat} {ep cls : Nat} {mc : Bool} {epoch : BitVec 2} {srcEp addr len aux : Nat} {payload : List Byte} {gen : Nat} (hk : Changes pl s0 s) (hL : Part.Sub [.page .MESH, .risen, .tiles, .recOnce, .records, .causes, .hostOut, .hostHeld, .fwIrq, .msix] pl := by first | assumption | exact Part.Sub.via (by assumption) (by decide +kernel)) : Changes pl s0 (State.emit s a task ep cls mc epoch srcEp addr len aux payload gen) := by
  unfold State.emit
  repeat' (first
    | with_reducible exact hL
    | with_reducible exact Part.Sub.via hL (by decide)
    | ((try lift_lets); intro (x : State); refine Changes.via (l := pl) (s := s0) (x := x) ?_ (fun hx => ?_); rotate_left; clear_value x; rotate_left; unfold x)
    | ((try lift_lets); intro x; clear_value x)
    | with_reducible assumption
    | with_reducible apply State.inject_changes
    | with_reducible apply State.sendRefused_changes
    | split
    | (dsimp only))

theorem execEmitterSend_changes {a : TileAddr} {q : Fin 8} {pl : List Part} (hL : Part.Sub [.page .MESH, .risen, .tiles, .recOnce, .records, .causes, .hostOut, .hostHeld, .fwIrq, .msix] pl := by first | assumption | exact Part.Sub.via (by assumption) (by decide +kernel)) : ChangesOut pl s (execEmitterSend a q s) := by
  unfold execEmitterSend
  have hk : Changes pl s s := Changes.refl pl s
  repeat' (first
    | with_reducible exact hL
    | with_reducible exact Part.Sub.via hL (by decide)
    | with_reducible apply ChangesOut.next
    | ((try lift_lets); intro (x : State); refine Changes.via (l := pl) (s := s) (x := x) ?_ (fun hx => ?_); rotate_left; clear_value x; rotate_left; unfold x)
    | ((try lift_lets); intro x; clear_value x)
    | with_reducible assumption
    | with_reducible apply State.setTile_changes
    | with_reducible apply State.emit_changes
    | split
    | (dsimp only))

theorem nbrEnter_changes {pl : List Part} {b : TileAddr} {side cls n : Nat} : ∀ {s : State}, Changes pl s0 s → ∀ (hL : Part.Sub [.page .TSQ, .risen, .tiles, .recOnce, .records, .hostOut, .hostHeld, .fwIrq, .msix] pl := by first | assumption | exact Part.Sub.via (by assumption) (by decide +kernel)), Changes pl s0 (nbrEnter b side cls n s) := by
  induction n with
  | zero => exact fun h _ => h
  | succ n ih =>
    intro s h hL
    unfold nbrEnter
    dsimp only
    split
    · exact h
    · have h1 := fun x => State.setTile_changes (a := b) (t := x) h
      split
      · split
        · exact ih (State.unbound_changes (h1 _)) hL
        · split
          · exact ih (State.enterDq_changes (h1 _)) hL
          · exact h
      · split
        · exact ih (State.unbound_changes (h1 _)) hL
        · split
          · exact ih (State.enterCq_changes (h1 _)) hL
          · exact h
      · exact ih (h1 _) hL

theorem State.portSend_changes {pl : List Part} {a : TileAddr} {q cls : Nat} (hk : Changes pl s0 s) (hL : Part.Sub [.page .MESH, .page .FEN, .tiles] pl := by first | assumption | exact Part.Sub.via (by assumption) (by decide +kernel)) : Changes pl s0 (State.portSend s a q cls) := by
  unfold State.portSend
  repeat' (first
    | with_reducible exact hL
    | with_reducible exact Part.Sub.via hL (by decide)
    | ((try lift_lets); intro (x : State); refine Changes.via (l := pl) (s := s0) (x := x) ?_ (fun hx => ?_); rotate_left; clear_value x; rotate_left; unfold x)
    | ((try lift_lets); intro x; clear_value x)
    | with_reducible assumption
    | with_reducible apply State.count_changes
    | with_reducible apply State.setTile_changes
    | exact hL _ (Part.mem_elem (by rfl))
    | (refine hL _ (Part.mem_elem ?_); (repeat' split) <;> rfl)
    | split
    | (dsimp only))

theorem State.portCross_changes {pl : List Part} {a b : TileAddr} {side : Nat} (hk : Changes pl s0 s) (hL : Part.Sub [.page .MESH, .page .TSQ, .page .FEN, .risen, .tiles, .fields, .recOnce, .records, .hostOut, .hostHeld, .fwIrq, .msix] pl := by first | assumption | exact Part.Sub.via (by assumption) (by decide +kernel)) : Changes pl s0 (State.portCross s a b side) := by
  unfold State.portCross
  repeat' (first
    | with_reducible exact hL
    | with_reducible exact Part.Sub.via hL (by decide)
    | ((try lift_lets); intro (x : State); refine Changes.via (l := pl) (s := s0) (x := x) ?_ (fun hx => ?_); rotate_left; clear_value x; rotate_left; unfold x)
    | ((try lift_lets); intro x; clear_value x)
    | with_reducible assumption
    | with_reducible apply State.setTile_changes
    | with_reducible apply State.portSend_changes
    | with_reducible apply nbrEnter_changes
    | with_reducible apply State.arrivedAt_changes
    | with_reducible refine Changes.foldl ?_ (fun u x hu => ?_)
    | split
    | (dsimp only))

theorem execNeighbourToken_changes {a : TileAddr} {side : Fin 4} {pl : List Part} (hL : Part.Sub [.page .MESH, .page .TSQ, .page .FEN, .risen, .tiles, .fields, .recOnce, .records, .hostOut, .hostHeld, .fwIrq, .msix] pl := by first | assumption | exact Part.Sub.via (by assumption) (by decide +kernel)) : ChangesOut pl s (execNeighbourToken a side s) := by
  unfold execNeighbourToken
  have hk : Changes pl s s := Changes.refl pl s
  repeat' (first
    | with_reducible exact hL
    | with_reducible exact Part.Sub.via hL (by decide)
    | with_reducible apply ChangesOut.next
    | ((try lift_lets); intro (x : State); refine Changes.via (l := pl) (s := s) (x := x) ?_ (fun hx => ?_); rotate_left; clear_value x; rotate_left; unfold x)
    | ((try lift_lets); intro x; clear_value x)
    | with_reducible assumption
    | with_reducible apply State.meshEvent_changes
    | with_reducible apply State.count_changes
    | with_reducible apply State.portCross_changes
    | with_reducible apply State.portSend_changes
    | exact hL _ (Part.mem_elem (by rfl))
    | (refine hL _ (Part.mem_elem ?_); (repeat' split) <;> rfl)
    | split
    | (dsimp only))

end Sys2Proof.Machine
end

