-- ==== Sys2Proof/Laws/ChangesDrain.lean ====
section
/-!
SUPPORT. What the operations of Machine/Drain can change (Laws/Changes).
-/
namespace Sys2Proof.Machine

set_option linter.all false

variable {s0 s : State}

theorem State.clearBanks_changes {pl : List Part} {a : TileAddr} {mask : BitVec 4} (hk : Changes pl s0 s) (hL : Part.Sub [.page .FLT, .tiles] pl := by first | assumption | exact Part.Sub.via (by assumption) (by decide +kernel)) : Changes pl s0 (State.clearBanks s a mask) := by
  unfold State.clearBanks
  repeat' (first
    | with_reducible exact hL
    | with_reducible exact Part.Sub.via hL (by decide)
    | ((try lift_lets); intro (x : State); refine Changes.via (l := pl) (s := s0) (x := x) ?_ (fun hx => ?_); rotate_left; clear_value x; rotate_left; unfold x)
    | ((try lift_lets); intro x; clear_value x)
    | with_reducible assumption
    | with_reducible apply State.setTile_changes
    | with_reducible apply State.tapDrop_changes
    | with_reducible refine Changes.foldl ?_ (fun u x hu => ?_)
    | split
    | (dsimp only))

theorem State.abortTile_changes {pl : List Part} {a : TileAddr} (hk : Changes pl s0 s) (hL : Part.Sub [.page .MESH, .page .TSQ, .page .SPD, .page .FEN, .page .FLT, .risen, .tiles, .recOnce, .records, .hostOut, .hostHeld, .fwIrq, .msix] pl := by first | assumption | exact Part.Sub.via (by assumption) (by decide +kernel)) : Changes pl s0 (State.abortTile s a) := by
  unfold State.abortTile
  repeat' (first
    | with_reducible exact hL
    | with_reducible exact Part.Sub.via hL (by decide)
    | ((try lift_lets); intro (x : State); refine Changes.via (l := pl) (s := s0) (x := x) ?_ (fun hx => ?_); rotate_left; clear_value x; rotate_left; unfold x)
    | ((try lift_lets); intro x; clear_value x)
    | with_reducible assumption
    | with_reducible apply State.flushAll_changes
    | with_reducible apply State.count_changes
    | with_reducible apply State.setTile_changes
    | with_reducible apply State.clearBanks_changes
    | with_reducible refine Changes.foldl ?_ (fun u x hu => ?_)
    | exact hL _ (Part.mem_elem (by rfl))
    | (refine hL _ (Part.mem_elem ?_); (repeat' split) <;> rfl)
    | split
    | (dsimp only))

theorem State.holdStreams_changes {pl : List Part} {f : FieldAddr} (hk : Changes pl s0 s) (hL : Part.Sub [.ctxs] pl := by first | assumption | exact Part.Sub.via (by assumption) (by decide +kernel)) : Changes pl s0 (State.holdStreams s f) := by
  unfold State.holdStreams
  repeat' (first
    | with_reducible exact hL
    | with_reducible exact Part.Sub.via hL (by decide)
    | ((try lift_lets); intro (x : State); refine Changes.via (l := pl) (s := s0) (x := x) ?_ (fun hx => ?_); rotate_left; clear_value x; rotate_left; unfold x)
    | ((try lift_lets); intro (x : _ → _); dsimp -zeta only [x]; clear x)
    | ((try lift_lets); intro x; clear_value x)
    | with_reducible assumption
    | (with_reducible apply Changes.upd_ctxs; first | with_reducible assumption | split)
    | split
    | (dsimp only))

theorem State.drainEnd_changes {pl : List Part} {f : FieldAddr} {result : Nat} (hk : Changes pl s0 s) (hL : Part.Sub [.page .MESH, .risen, .fields, .hostOut, .hostHeld, .fwIrq, .msix] pl := by first | assumption | exact Part.Sub.via (by assumption) (by decide +kernel)) : Changes pl s0 (State.drainEnd s f result) := by
  unfold State.drainEnd
  repeat' (first
    | with_reducible exact hL
    | with_reducible exact Part.Sub.via hL (by decide)
    | ((try lift_lets); intro (x : State); refine Changes.via (l := pl) (s := s0) (x := x) ?_ (fun hx => ?_); rotate_left; clear_value x; rotate_left; unfold x)
    | ((try lift_lets); intro x; clear_value x)
    | with_reducible assumption
    | with_reducible apply State.setIrq_changes
    | with_reducible apply State.setField_changes
    | with_reducible apply State.setF_changes
    | exact hL _ (Part.mem_elem (by rfl))
    | split
    | (dsimp only))

theorem State.drainStart_changes {pl : List Part} {f : FieldAddr} {mode : Nat} (hk : Changes pl s0 s) (hL : Part.Sub [.page .MESH, .page .TSQ, .page .SPD, .page .FEN, .page .FLT, .risen, .tiles, .fields, .recOnce, .records, .hostOut, .hostHeld, .fwIrq, .msix, .edgeHeld, .ctxs] pl := by first | assumption | exact Part.Sub.via (by assumption) (by decide +kernel)) : Changes pl s0 (State.drainStart s f mode) := by
  unfold State.drainStart
  repeat' (first
    | with_reducible exact hL
    | with_reducible exact Part.Sub.via hL (by decide)
    | ((try lift_lets); intro (x : State); refine Changes.via (l := pl) (s := s0) (x := x) ?_ (fun hx => ?_); rotate_left; clear_value x; rotate_left; unfold x)
    | ((try lift_lets); intro x; clear_value x)
    | with_reducible assumption
    | with_reducible apply State.flushAll_changes
    | with_reducible apply State.setField_changes
    | with_reducible apply State.setF_changes
    | with_reducible apply State.drainEnd_changes
    | with_reducible apply State.holdStreams_changes
    | with_reducible apply State.abortTile_changes
    | with_reducible apply State.edgeRelease_changes
    | with_reducible apply State.applyFences_changes
    | with_reducible refine Changes.foldl ?_ (fun u x hu => ?_)
    | exact hL _ (Part.mem_elem (by rfl))
    | (refine hL _ (Part.mem_elem ?_); (repeat' split) <;> rfl)
    | split
    | (dsimp only))

theorem State.drainWrite_changes {pl : List Part} {f : FieldAddr} {fw : Bool} {value : W64} (hk : Changes pl s0 s) (hL : Part.Sub [.page .DIR, .page .MESH, .page .TSQ, .page .SPD, .page .FEN, .page .FLT, .risen, .tiles, .fields, .recOnce, .records, .hostOut, .hostHeld, .fwIrq, .msix, .edgeHeld, .ctxs] pl := by first | assumption | exact Part.Sub.via (by assumption) (by decide +kernel)) : Changes pl s0 (State.drainWrite s f fw value) := by
  unfold State.drainWrite
  repeat' (first
    | with_reducible exact hL
    | with_reducible exact Part.Sub.via hL (by decide)
    | ((try lift_lets); intro (x : State); refine Changes.via (l := pl) (s := s0) (x := x) ?_ (fun hx => ?_); rotate_left; clear_value x; rotate_left; unfold x)
    | ((try lift_lets); intro x; clear_value x)
    | with_reducible assumption
    | with_reducible refine State.regWrite_changes ?_ ?_ (fun u hu => ?_) ?_
    | with_reducible apply State.drainStart_changes
    | exact hL _ (Part.mem_elem (by rfl))
    | (refine hL _ (Part.mem_elem ?_); (repeat' split) <;> rfl)
    | split
    | (dsimp only))

theorem execDrainStop_changes {f : FieldAddr} {fw : Bool} {value : W64} {pl : List Part} (hL : Part.Sub [.page .DIR, .page .MESH, .page .TSQ, .page .SPD, .page .FEN, .page .FLT, .risen, .tiles, .fields, .recOnce, .records, .hostOut, .hostHeld, .fwIrq, .msix, .edgeHeld, .ctxs] pl := by first | assumption | exact Part.Sub.via (by assumption) (by decide +kernel)) : ChangesOut pl s (execDrainStop f fw value s) := by
  unfold execDrainStop
  have hk : Changes pl s s := Changes.refl pl s
  repeat' (first
    | with_reducible exact hL
    | with_reducible exact Part.Sub.via hL (by decide)
    | with_reducible apply ChangesOut.next
    | ((try lift_lets); intro (x : State); refine Changes.via (l := pl) (s := s) (x := x) ?_ (fun hx => ?_); rotate_left; clear_value x; rotate_left; unfold x)
    | ((try lift_lets); intro x; clear_value x)
    | with_reducible assumption
    | with_reducible apply State.drainWrite_changes
    | split
    | (dsimp only))

theorem execDrainAbort_changes {f : FieldAddr} {fw : Bool} {value : W64} {pl : List Part} (hL : Part.Sub [.page .DIR, .page .MESH, .page .TSQ, .page .SPD, .page .FEN, .page .FLT, .risen, .tiles, .fields, .recOnce, .records, .hostOut, .hostHeld, .fwIrq, .msix, .edgeHeld, .ctxs] pl := by first | assumption | exact Part.Sub.via (by assumption) (by decide +kernel)) : ChangesOut pl s (execDrainAbort f fw value s) := by
  unfold execDrainAbort
  have hk : Changes pl s s := Changes.refl pl s
  repeat' (first
    | with_reducible exact hL
    | with_reducible exact Part.Sub.via hL (by decide)
    | with_reducible apply ChangesOut.next
    | ((try lift_lets); intro (x : State); refine Changes.via (l := pl) (s := s) (x := x) ?_ (fun hx => ?_); rotate_left; clear_value x; rotate_left; unfold x)
    | ((try lift_lets); intro x; clear_value x)
    | with_reducible assumption
    | with_reducible apply State.drainWrite_changes
    | split
    | (dsimp only))

theorem execDrainRelease_changes {f : FieldAddr} {fw : Bool} {value : W64} {pl : List Part} (hL : Part.Sub [.page .DIR, .page .MESH, .page .TSQ, .page .SPD, .page .FEN, .page .FLT, .risen, .tiles, .fields, .recOnce, .records, .hostOut, .hostHeld, .fwIrq, .msix, .edgeHeld, .ctxs] pl := by first | assumption | exact Part.Sub.via (by assumption) (by decide +kernel)) : ChangesOut pl s (execDrainRelease f fw value s) := by
  unfold execDrainRelease
  have hk : Changes pl s s := Changes.refl pl s
  repeat' (first
    | with_reducible exact hL
    | with_reducible exact Part.Sub.via hL (by decide)
    | with_reducible apply ChangesOut.next
    | ((try lift_lets); intro (x : State); refine Changes.via (l := pl) (s := s) (x := x) ?_ (fun hx => ?_); rotate_left; clear_value x; rotate_left; unfold x)
    | ((try lift_lets); intro x; clear_value x)
    | with_reducible assumption
    | with_reducible apply State.drainWrite_changes
    | split
    | (dsimp only))

theorem State.rateCheck_changes {pl : List Part} {a : TileAddr} (hk : Changes pl s0 s) (hL : Part.Sub [.page .PAS, .risen, .ahead, .recOnce, .records, .causes, .hostOut, .hostHeld, .fwIrq, .msix] pl := by first | assumption | exact Part.Sub.via (by assumption) (by decide +kernel)) : Changes pl s0 (State.rateCheck s a) := by
  unfold State.rateCheck
  repeat' (first
    | with_reducible exact hL
    | with_reducible exact Part.Sub.via hL (by decide)
    | ((try lift_lets); intro (x : State); refine Changes.via (l := pl) (s := s0) (x := x) ?_ (fun hx => ?_); rotate_left; clear_value x; rotate_left; unfold x)
    | ((try lift_lets); intro x; clear_value x)
    | with_reducible assumption
    | with_reducible apply State.reportCause_changes
    | with_reducible apply State.raiseOnce_changes
    | with_reducible apply State.captureFirst_changes
    | with_reducible apply State.countWm_changes
    | exact hL _ (Part.mem_elem (by rfl))
    | (refine hL _ (Part.mem_elem ?_); (repeat' split) <;> rfl)
    | split
    | (dsimp only))

theorem State.rateChecks_changes {pl : List Part} {f : FieldAddr} (hk : Changes pl s0 s) (hL : Part.Sub [.page .PAS, .risen, .ahead, .recOnce, .records, .causes, .hostOut, .hostHeld, .fwIrq, .msix] pl := by first | assumption | exact Part.Sub.via (by assumption) (by decide +kernel)) : Changes pl s0 (State.rateChecks s f) := by
  unfold State.rateChecks
  repeat' (first
    | with_reducible exact hL
    | with_reducible exact Part.Sub.via hL (by decide)
    | ((try lift_lets); intro (x : State); refine Changes.via (l := pl) (s := s0) (x := x) ?_ (fun hx => ?_); rotate_left; clear_value x; rotate_left; unfold x)
    | ((try lift_lets); intro x; clear_value x)
    | with_reducible assumption
    | with_reducible apply State.rateCheck_changes
    | with_reducible refine Changes.foldl ?_ (fun u x hu => ?_)
    | split
    | (dsimp only))

theorem State.rejoinLinks_changes {pl : List Part} {f : FieldAddr} (hk : Changes pl s0 s) (hL : Part.Sub [.page .MESH, .fields] pl := by first | assumption | exact Part.Sub.via (by assumption) (by decide +kernel)) : Changes pl s0 (State.rejoinLinks s f) := by
  unfold State.rejoinLinks
  repeat' (first
    | with_reducible exact hL
    | with_reducible exact Part.Sub.via hL (by decide)
    | ((try lift_lets); intro (x : State); refine Changes.via (l := pl) (s := s0) (x := x) ?_ (fun hx => ?_); rotate_left; clear_value x; rotate_left; unfold x)
    | ((try lift_lets); intro x; clear_value x)
    | with_reducible assumption
    | with_reducible apply State.setField_changes
    | with_reducible apply State.setF_changes
    | with_reducible refine Changes.foldl ?_ (fun u x hu => ?_)
    | exact hL _ (Part.mem_elem (by rfl))
    | (refine hL _ (Part.mem_elem ?_); (repeat' split) <;> rfl)
    | split
    | (dsimp only))

theorem execDrainSweep_changes {f : FieldAddr} {pl : List Part} (hL : Part.Sub [.page .MESH, .page .PAS, .risen, .ahead, .fields, .recOnce, .records, .causes, .hostOut, .hostHeld, .fwIrq, .msix] pl := by first | assumption | exact Part.Sub.via (by assumption) (by decide +kernel)) : ChangesOut pl s (execDrainSweep f s) := by
  unfold execDrainSweep
  have hk : Changes pl s s := Changes.refl pl s
  repeat' (first
    | with_reducible exact hL
    | with_reducible exact Part.Sub.via hL (by decide)
    | with_reducible apply ChangesOut.next
    | ((try lift_lets); intro (x : State); refine Changes.via (l := pl) (s := s) (x := x) ?_ (fun hx => ?_); rotate_left; clear_value x; rotate_left; unfold x)
    | ((try lift_lets); intro x; clear_value x)
    | with_reducible assumption
    | with_reducible apply State.setField_changes
    | with_reducible apply State.setF_changes
    | with_reducible apply State.rejoinLinks_changes
    | with_reducible apply State.rateChecks_changes
    | with_reducible apply State.drainEnd_changes
    | with_reducible apply State.applyFences_changes
    | exact hL _ (Part.mem_elem (by rfl))
    | (refine hL _ (Part.mem_elem ?_); (repeat' split) <;> rfl)
    | split
    | (dsimp only))

theorem execDrainTimeout_changes {f : FieldAddr} {pl : List Part} (hL : Part.Sub [.page .MESH, .risen, .fields, .causes, .hostOut, .hostHeld, .fwIrq, .msix] pl := by first | assumption | exact Part.Sub.via (by assumption) (by decide +kernel)) : ChangesOut pl s (execDrainTimeout f s) := by
  unfold execDrainTimeout
  have hk : Changes pl s s := Changes.refl pl s
  repeat' (first
    | with_reducible exact hL
    | with_reducible exact Part.Sub.via hL (by decide)
    | with_reducible apply ChangesOut.next
    | ((try lift_lets); intro (x : State); refine Changes.via (l := pl) (s := s) (x := x) ?_ (fun hx => ?_); rotate_left; clear_value x; rotate_left; unfold x)
    | ((try lift_lets); intro x; clear_value x)
    | with_reducible assumption
    | with_reducible apply State.drainEnd_changes
    | (with_reducible apply Changes.upd_causes; first | with_reducible assumption | with_reducible apply State.drainEnd_changes | split)
    | split
    | (dsimp only))

theorem State.retestLink_changes {pl : List Part} {a b : TileAddr} {key : Nat} {here far : Bool} (hk : Changes pl s0 s) (hL : Part.Sub [.page .FLT, .risen, .fields, .records, .retained, .hostOut, .hostHeld, .fwIrq, .msix] pl := by first | assumption | exact Part.Sub.via (by assumption) (by decide +kernel)) : Changes pl s0 (State.retestLink s a b key here far) := by
  unfold State.retestLink
  repeat' (first
    | with_reducible exact hL
    | with_reducible exact Part.Sub.via hL (by decide)
    | ((try lift_lets); intro (x : State); refine Changes.via (l := pl) (s := s0) (x := x) ?_ (fun hx => ?_); rotate_left; clear_value x; rotate_left; unfold x)
    | ((try lift_lets); intro x; clear_value x)
    | with_reducible assumption
    | with_reducible apply State.setField_changes
    | with_reducible apply State.condemn_changes
    | split
    | (dsimp only))

theorem execLinkIsolation_changes {a : TileAddr} {side : Fin 4} {port here far : Bool} {pl : List Part} (hL : Part.Sub [.page .MESH, .page .FLT, .risen, .fields, .records, .retained, .hostOut, .hostHeld, .fwIrq, .msix] pl := by first | assumption | exact Part.Sub.via (by assumption) (by decide +kernel)) : ChangesOut pl s (execLinkIsolation a side port here far s) := by
  unfold execLinkIsolation
  have hk : Changes pl s s := Changes.refl pl s
  repeat' (first
    | with_reducible exact hL
    | with_reducible exact Part.Sub.via hL (by decide)
    | with_reducible apply ChangesOut.next
    | ((try lift_lets); intro (x : State); refine Changes.via (l := pl) (s := s) (x := x) ?_ (fun hx => ?_); rotate_left; clear_value x; rotate_left; unfold x)
    | ((try lift_lets); intro x; clear_value x)
    | with_reducible assumption
    | with_reducible apply State.meshEvent_changes
    | with_reducible apply State.raise_changes
    | with_reducible apply State.setErr_changes
    | with_reducible apply State.setIrq_changes
    | with_reducible apply State.setField_changes
    | with_reducible apply State.setF_changes
    | with_reducible apply State.retestLink_changes
    | exact hL _ (Part.mem_elem (by rfl))
    | (refine hL _ (Part.mem_elem ?_); (repeat' split) <;> rfl)
    | split
    | (dsimp only))

theorem State.readSpillHeader_changes {pl : List Part} {a : TileAddr} (hk : Changes pl s0 s) (hL : Part.Sub [.page .SPD, .page .FEN, .risen, .tiles, .recOnce, .records, .hostOut, .hostHeld, .fwIrq, .msix] pl := by first | assumption | exact Part.Sub.via (by assumption) (by decide +kernel)) : Changes pl s0 (State.readSpillHeader s a).1 := by
  unfold State.readSpillHeader
  repeat' (first
    | with_reducible exact hL
    | with_reducible exact Part.Sub.via hL (by decide)
    | ((try lift_lets); intro (x : State); refine Changes.via (l := pl) (s := s0) (x := x) ?_ (fun hx => ?_); rotate_left; clear_value x; rotate_left; unfold x)
    | ((try lift_lets); intro (x : State × _); refine Changes.via (l := pl) (s := s0) (x := x.1) ?_ (fun hx => ?_); rotate_left; clear_value x; rotate_left; unfold x)
    | ((try lift_lets); intro (x : _ × State); refine Changes.via (l := pl) (s := s0) (x := x.2) ?_ (fun hx => ?_); rotate_left; clear_value x; rotate_left; unfold x)
    | ((try lift_lets); intro x; clear_value x)
    | with_reducible assumption
    | with_reducible refine Changes.of_fst (State.readBytes_changes ?_ ?_) (by assumption)
    | with_reducible apply State.readBytes_changes
    | split
    | (dsimp only))

theorem State.spill_changes {pl : List Part} {a : TileAddr} {input : Nat} {p : Packet} (hk : Changes pl s0 s) (hL : Part.Sub [.page .MESH, .page .SPD, .page .FEN, .risen, .tiles, .recOnce, .records, .causes, .hostOut, .hostHeld, .fwIrq, .msix] pl := by first | assumption | exact Part.Sub.via (by assumption) (by decide +kernel)) : Changes pl s0 (State.spill s a input p) := by
  unfold State.spill
  repeat' (first
    | with_reducible exact hL
    | with_reducible exact Part.Sub.via hL (by decide)
    | ((try lift_lets); intro (x : State); refine Changes.via (l := pl) (s := s0) (x := x) ?_ (fun hx => ?_); rotate_left; clear_value x; rotate_left; unfold x)
    | ((try lift_lets); intro (x : State × _); refine Changes.via (l := pl) (s := s0) (x := x.1) ?_ (fun hx => ?_); rotate_left; clear_value x; rotate_left; unfold x)
    | ((try lift_lets); intro (x : _ × State); refine Changes.via (l := pl) (s := s0) (x := x.2) ?_ (fun hx => ?_); rotate_left; clear_value x; rotate_left; unfold x)
    | ((try lift_lets); intro x; clear_value x)
    | with_reducible assumption
    | with_reducible apply State.countBank_changes
    | with_reducible apply State.reportCause_changes
    | with_reducible apply State.count_changes
    | with_reducible apply State.setTile_changes
    | with_reducible apply State.dropHead_changes
    | with_reducible refine Changes.of_fst (State.readSpillHeader_changes ?_ ?_) (by assumption)
    | with_reducible apply State.readSpillHeader_changes
    | exact hL _ (Part.mem_elem (by rfl))
    | (refine hL _ (Part.mem_elem ?_); (repeat' split) <;> rfl)
    | split
    | (dsimp only))

theorem execDeadlockSpill_changes {a : TileAddr} {pl : List Part} (hL : Part.Sub [.page .MESH, .page .SPD, .page .FEN, .risen, .tiles, .recOnce, .records, .causes, .hostOut, .hostHeld, .fwIrq, .msix] pl := by first | assumption | exact Part.Sub.via (by assumption) (by decide +kernel)) : ChangesOut pl s (execDeadlockSpill a s) := by
  unfold execDeadlockSpill
  have hk : Changes pl s s := Changes.refl pl s
  repeat' (first
    | with_reducible exact hL
    | with_reducible exact Part.Sub.via hL (by decide)
    | with_reducible apply ChangesOut.next
    | ((try lift_lets); intro (x : State); refine Changes.via (l := pl) (s := s) (x := x) ?_ (fun hx => ?_); rotate_left; clear_value x; rotate_left; unfold x)
    | ((try lift_lets); intro x; clear_value x)
    | with_reducible assumption
    | with_reducible apply State.spill_changes
    | split
    | (dsimp only))

theorem State.readSlot_changes {pl : List Part} {a : TileAddr} (hk : Changes pl s0 s) (hL : Part.Sub [.page .MESH, .page .SPD, .page .FEN, .risen, .tiles, .recOnce, .records, .causes, .hostOut, .hostHeld, .fwIrq, .msix] pl := by first | assumption | exact Part.Sub.via (by assumption) (by decide +kernel)) : Changes pl s0 (State.readSlot s a).1 := by
  unfold State.readSlot
  repeat' (first
    | with_reducible exact hL
    | with_reducible exact Part.Sub.via hL (by decide)
    | ((try lift_lets); intro (x : State); refine Changes.via (l := pl) (s := s0) (x := x) ?_ (fun hx => ?_); rotate_left; clear_value x; rotate_left; unfold x)
    | ((try lift_lets); intro (x : State × _); refine Changes.via (l := pl) (s := s0) (x := x.1) ?_ (fun hx => ?_); rotate_left; clear_value x; rotate_left; unfold x)
    | ((try lift_lets); intro (x : _ × State); refine Changes.via (l := pl) (s := s0) (x := x.2) ?_ (fun hx => ?_); rotate_left; clear_value x; rotate_left; unfold x)
    | ((try lift_lets); intro x; clear_value x)
    | with_reducible assumption
    | with_reducible refine Changes.of_fst (State.readBytes_changes ?_ ?_) (by assumption)
    | with_reducible apply State.readBytes_changes
    | with_reducible apply State.countBank_changes
    | with_reducible apply State.reportCause_changes
    | with_reducible apply State.count_changes
    | with_reducible apply State.setTile_changes
    | with_reducible refine Changes.of_fst (State.readSpillHeader_changes ?_ ?_) (by assumption)
    | with_reducible apply State.readSpillHeader_changes
    | exact hL _ (Part.mem_elem (by rfl))
    | (refine hL _ (Part.mem_elem ?_); (repeat' split) <;> rfl)
    | split
    | (dsimp only))

theorem execSpillRestore_changes {a : TileAddr} {pl : List Part} (hL : Part.Sub [.page .BRG, .page .EMP, .page .HBM, .page .MESH, .page .ARF, .page .TSQ, .page .SPD, .page .PWR, .page .FEN, .risen, .ahead, .tiles, .fields, .recOnce, .records, .causes, .hostOut, .hostHeld, .fwIrq, .msix, .edge, .edgeMark, .edgeWb, .selfRefresh, .edgeHeld, .bridgeRx] pl := by first | assumption | exact Part.Sub.via (by assumption) (by decide +kernel)) : ChangesOut pl s (execSpillRestore a s) := by
  unfold execSpillRestore
  have hk : Changes pl s s := Changes.refl pl s
  repeat' (first
    | with_reducible exact hL
    | with_reducible exact Part.Sub.via hL (by decide)
    | with_reducible apply ChangesOut.next
    | ((try lift_lets); intro (x : State); refine Changes.via (l := pl) (s := s) (x := x) ?_ (fun hx => ?_); rotate_left; clear_value x; rotate_left; unfold x)
    | ((try lift_lets); intro (x : State × _); refine Changes.via (l := pl) (s := s) (x := x.1) ?_ (fun hx => ?_); rotate_left; clear_value x; rotate_left; unfold x)
    | ((try lift_lets); intro (x : _ × State); refine Changes.via (l := pl) (s := s) (x := x.2) ?_ (fun hx => ?_); rotate_left; clear_value x; rotate_left; unfold x)
    | ((try lift_lets); intro x; clear_value x)
    | with_reducible assumption
    | with_reducible apply State.setTile_changes
    | with_reducible refine ChangesOpt.get (State.deliver_changes ?_ ?_) (by assumption)
    | with_reducible apply State.turn_changes
    | with_reducible apply State.transmit_changes
    | with_reducible refine ChangesOpt.get (State.takeCopy_changes ?_ ?_) (by assumption)
    | with_reducible refine ChangesOpt.get (State.joinSlot_changes ?_ ?_) (by assumption)
    | with_reducible refine Changes.of_fst (State.readSlot_changes ?_ ?_) (by assumption)
    | with_reducible apply State.readSlot_changes
    | with_reducible refine Changes.getD ?_ ?_
    | with_reducible apply State.joinSlot_changes
    | with_reducible apply State.takeCopy_changes
    | with_reducible apply State.deliver_changes
    | split
    | (dsimp only))

theorem execDeadlock_changes {f : FieldAddr} {block : Fin 12} {pl : List Part} (hL : Part.Sub [.page .MESH, .risen, .records, .causes, .hostOut, .hostHeld, .fwIrq, .msix] pl := by first | assumption | exact Part.Sub.via (by assumption) (by decide +kernel)) : ChangesOut pl s (execDeadlock f block s) := by
  unfold execDeadlock
  have hk : Changes pl s s := Changes.refl pl s
  repeat' (first
    | with_reducible exact hL
    | with_reducible exact Part.Sub.via hL (by decide)
    | with_reducible apply ChangesOut.next
    | ((try lift_lets); intro (x : State); refine Changes.via (l := pl) (s := s) (x := x) ?_ (fun hx => ?_); rotate_left; clear_value x; rotate_left; unfold x)
    | ((try lift_lets); intro x; clear_value x)
    | with_reducible assumption
    | with_reducible apply State.reportCause_changes
    | with_reducible apply State.meshRecord_changes
    | with_reducible apply State.pktEvent_changes
    | with_reducible apply State.count_changes
    | with_reducible apply State.setErr_changes
    | with_reducible apply State.setIrq_changes
    | exact hL _ (Part.mem_elem (by rfl))
    | (refine hL _ (Part.mem_elem ?_); (repeat' split) <;> rfl)
    | split
    | (dsimp only))

theorem execStallWatchdog_changes {a : TileAddr} {n : Nat} {pl : List Part} (hL : Part.Sub [.page .MESH, .risen, .records, .causes, .hostOut, .hostHeld, .fwIrq, .msix] pl := by first | assumption | exact Part.Sub.via (by assumption) (by decide +kernel)) : ChangesOut pl s (execStallWatchdog a n s) := by
  unfold execStallWatchdog
  have hk : Changes pl s s := Changes.refl pl s
  repeat' (first
    | with_reducible exact hL
    | with_reducible exact Part.Sub.via hL (by decide)
    | with_reducible apply ChangesOut.next
    | ((try lift_lets); intro (x : State); refine Changes.via (l := pl) (s := s) (x := x) ?_ (fun hx => ?_); rotate_left; clear_value x; rotate_left; unfold x)
    | ((try lift_lets); intro x; clear_value x)
    | with_reducible assumption
    | with_reducible apply State.reportCause_changes
    | with_reducible apply State.meshRecord_changes
    | with_reducible apply State.pktEvent_changes
    | with_reducible apply State.count_changes
    | with_reducible apply State.setErr_changes
    | with_reducible apply State.setIrq_changes
    | exact hL _ (Part.mem_elem (by rfl))
    | (refine hL _ (Part.mem_elem ?_); (repeat' split) <;> rfl)
    | split
    | (dsimp only))

theorem State.fepPut_changes {pl : List Part} {f : FieldAddr} {v : W64} {d : BitVec 128} (hk : Changes pl s0 s) (hL : Part.Sub [.tiles, .fields] pl := by first | assumption | exact Part.Sub.via (by assumption) (by decide +kernel)) : Changes pl s0 (State.fepPut s f v d) := by
  unfold State.fepPut
  repeat' (first
    | with_reducible exact hL
    | with_reducible exact Part.Sub.via hL (by decide)
    | ((try lift_lets); intro (x : State); refine Changes.via (l := pl) (s := s0) (x := x) ?_ (fun hx => ?_); rotate_left; clear_value x; rotate_left; unfold x)
    | ((try lift_lets); intro x; clear_value x)
    | with_reducible assumption
    | with_reducible apply State.setField_changes
    | with_reducible apply State.setTile_changes
    | split
    | (dsimp only))

theorem State.fepWrite_changes {pl : List Part} {f : FieldAddr} {fw : Bool} {v : W64} (hk : Changes pl s0 s) (hL : Part.Sub [.page .DIR, .page .FEP, .risen, .tiles, .fields, .hostOut, .hostHeld, .fwIrq, .msix] pl := by first | assumption | exact Part.Sub.via (by assumption) (by decide +kernel)) : Changes pl s0 (State.fepWrite s f fw v) := by
  unfold State.fepWrite
  repeat' (first
    | with_reducible exact hL
    | with_reducible exact Part.Sub.via hL (by decide)
    | ((try lift_lets); intro (x : State); refine Changes.via (l := pl) (s := s0) (x := x) ?_ (fun hx => ?_); rotate_left; clear_value x; rotate_left; unfold x)
    | ((try lift_lets); intro x; clear_value x)
    | with_reducible assumption
    | with_reducible refine State.regWrite_changes ?_ ?_ (fun u hu => ?_) ?_
    | with_reducible apply State.setF_changes
    | with_reducible apply State.setReg_changes
    | with_reducible apply State.fepPut_changes
    | exact hL _ (Part.mem_elem (by rfl))
    | (refine hL _ (Part.mem_elem ?_); (repeat' split) <;> rfl)
    | split
    | (dsimp only))

theorem execFepRead_changes {f : FieldAddr} {fw : Bool} {value : W64} {pl : List Part} (hL : Part.Sub [.page .DIR, .page .FEP, .risen, .tiles, .fields, .hostOut, .hostHeld, .fwIrq, .msix] pl := by first | assumption | exact Part.Sub.via (by assumption) (by decide +kernel)) : ChangesOut pl s (execFepRead f fw value s) := by
  unfold execFepRead
  have hk : Changes pl s s := Changes.refl pl s
  repeat' (first
    | with_reducible exact hL
    | with_reducible exact Part.Sub.via hL (by decide)
    | with_reducible apply ChangesOut.next
    | ((try lift_lets); intro (x : State); refine Changes.via (l := pl) (s := s) (x := x) ?_ (fun hx => ?_); rotate_left; clear_value x; rotate_left; unfold x)
    | ((try lift_lets); intro x; clear_value x)
    | with_reducible assumption
    | with_reducible apply State.fepWrite_changes
    | split
    | (dsimp only))

theorem execFepWrite_changes {f : FieldAddr} {fw : Bool} {value : W64} {pl : List Part} (hL : Part.Sub [.page .DIR, .page .FEP, .risen, .tiles, .fields, .hostOut, .hostHeld, .fwIrq, .msix] pl := by first | assumption | exact Part.Sub.via (by assumption) (by decide +kernel)) : ChangesOut pl s (execFepWrite f fw value s) := by
  unfold execFepWrite
  have hk : Changes pl s s := Changes.refl pl s
  repeat' (first
    | with_reducible exact hL
    | with_reducible exact Part.Sub.via hL (by decide)
    | with_reducible apply ChangesOut.next
    | ((try lift_lets); intro (x : State); refine Changes.via (l := pl) (s := s) (x := x) ?_ (fun hx => ?_); rotate_left; clear_value x; rotate_left; unfold x)
    | ((try lift_lets); intro x; clear_value x)
    | with_reducible assumption
    | with_reducible apply State.fepWrite_changes
    | split
    | (dsimp only))

end Sys2Proof.Machine
end

