-- ==== Sys2Proof/Laws/ChangesEngineOps.lean ====
section
/-!
SUPPORT. What the operations of Machine/EngineOps can change (Laws/Changes).
-/
namespace Sys2Proof.Machine

set_option linter.all false

variable {s0 s : State}

theorem State.setQueue_changes {pl : List Part} {e q : Nat} {x : EngQueue} (hk : Changes pl s0 s) (hL : Part.Sub [.queues] pl := by first | assumption | exact Part.Sub.via (by assumption) (by decide +kernel)) : Changes pl s0 (State.setQueue s e q x) := by
  unfold State.setQueue
  repeat' (first
    | with_reducible exact hL
    | with_reducible exact Part.Sub.via hL (by decide)
    | ((try lift_lets); intro (x : State); refine Changes.via (l := pl) (s := s0) (x := x) ?_ (fun hx => ?_); rotate_left; clear_value x; rotate_left; unfold x)
    | ((try lift_lets); intro x; clear_value x)
    | with_reducible assumption
    | (with_reducible apply Changes.upd_queues; first | with_reducible assumption | split)
    | split
    | (dsimp only))

theorem State.setStage_changes {pl : List Part} {e q index : Nat} {st : RecStage} (hk : Changes pl s0 s) (hL : Part.Sub [.queues] pl := by first | assumption | exact Part.Sub.via (by assumption) (by decide +kernel)) : Changes pl s0 (State.setStage s e q index st) := by
  unfold State.setStage
  repeat' (first
    | with_reducible exact hL
    | with_reducible exact Part.Sub.via hL (by decide)
    | ((try lift_lets); intro (x : State); refine Changes.via (l := pl) (s := s0) (x := x) ?_ (fun hx => ?_); rotate_left; clear_value x; rotate_left; unfold x)
    | ((try lift_lets); intro x; clear_value x)
    | with_reducible assumption
    | with_reducible apply State.setQueue_changes
    | split
    | (dsimp only))

theorem State.retireQueue_changes {pl : List Part} {e q : Nat} (hk : Changes pl s0 s) (hL : Part.Sub [.page .ENG, .queues] pl := by first | assumption | exact Part.Sub.via (by assumption) (by decide +kernel)) : Changes pl s0 (State.retireQueue s e q) := by
  unfold State.retireQueue
  repeat' (first
    | with_reducible exact hL
    | with_reducible exact Part.Sub.via hL (by decide)
    | ((try lift_lets); intro (x : State); refine Changes.via (l := pl) (s := s0) (x := x) ?_ (fun hx => ?_); rotate_left; clear_value x; rotate_left; unfold x)
    | ((try lift_lets); intro x; clear_value x)
    | with_reducible assumption
    | with_reducible apply State.setF_changes
    | with_reducible apply State.setQueue_changes
    | exact hL _ (Part.mem_elem (by rfl))
    | (refine hL _ (Part.mem_elem ?_); (repeat' split) <;> rfl)
    | split
    | (dsimp only))

theorem State.signalRef_changes {pl : List Part} {e q index : Nat} {r : RawRec} (hk : Changes pl s0 s) (hL : Part.Sub [.page .ENG, .risen, .ahead, .fields] pl := by first | assumption | exact Part.Sub.via (by assumption) (by decide +kernel)) : Changes pl s0 (State.signalRef s e q index r) := by
  unfold State.signalRef
  repeat' (first
    | with_reducible exact hL
    | with_reducible exact Part.Sub.via hL (by decide)
    | ((try lift_lets); intro (x : State); refine Changes.via (l := pl) (s := s0) (x := x) ?_ (fun hx => ?_); rotate_left; clear_value x; rotate_left; unfold x)
    | ((try lift_lets); intro x; clear_value x)
    | with_reducible assumption
    | with_reducible apply State.countWm_changes
    | with_reducible apply State.signal_changes
    | exact hL _ (Part.mem_elem (by rfl))
    | (refine hL _ (Part.mem_elem ?_); (repeat' split) <;> rfl)
    | split
    | (dsimp only))

theorem State.writeLoc_changes {pl : List Part} {loc addr : Nat} {bs : List Byte} (hk : Changes pl s0 s) (hL : Part.Sub [.page .EMP, .page .HBM, .risen, .recOnce, .records, .hostOut, .hostHeld, .fwIrq, .msix, .edge, .edgeMark, .edgeWb, .selfRefresh] pl := by first | assumption | exact Part.Sub.via (by assumption) (by decide +kernel)) : Changes pl s0 (State.writeLoc s loc addr bs) := by
  unfold State.writeLoc
  repeat' (first
    | with_reducible exact hL
    | with_reducible exact Part.Sub.via hL (by decide)
    | ((try lift_lets); intro (x : State); refine Changes.via (l := pl) (s := s0) (x := x) ?_ (fun hx => ?_); rotate_left; clear_value x; rotate_left; unfold x)
    | ((try lift_lets); intro x; clear_value x)
    | with_reducible assumption
    | with_reducible apply State.hostSend_changes
    | with_reducible apply State.edgeWrite_changes
    | split
    | (dsimp only))

theorem State.writeCqe_changes {pl : List Part} {e q index : Nat} {r : RawRec} {common status : Nat} {hw started : Bool} {attempt : Nat} {result : W64} (hk : Changes pl s0 s) (hL : Part.Sub [.page .ENG, .page .EMP, .page .HBM, .risen, .recOnce, .records, .hostOut, .hostHeld, .fwIrq, .msix, .edge, .edgeMark, .edgeWb, .selfRefresh, .free] pl := by first | assumption | exact Part.Sub.via (by assumption) (by decide +kernel)) : Changes pl s0 (State.writeCqe s e q index r common status hw started attempt result) := by
  unfold State.writeCqe
  repeat' (first
    | with_reducible exact hL
    | with_reducible exact Part.Sub.via hL (by decide)
    | ((try lift_lets); intro (x : State); refine Changes.via (l := pl) (s := s0) (x := x) ?_ (fun hx => ?_); rotate_left; clear_value x; rotate_left; unfold x)
    | ((try lift_lets); intro (x : State × _); refine Changes.via (l := pl) (s := s0) (x := x.1) ?_ (fun hx => ?_); rotate_left; clear_value x; rotate_left; unfold x)
    | ((try lift_lets); intro (x : _ × State); refine Changes.via (l := pl) (s := s0) (x := x.2) ?_ (fun hx => ?_); rotate_left; clear_value x; rotate_left; unfold x)
    | ((try lift_lets); intro x; clear_value x)
    | with_reducible assumption
    | with_reducible refine Changes.of_snd (State.freeBits_changes ?_ ?_) (by assumption)
    | with_reducible apply State.freeBits_changes
    | with_reducible apply State.setF_changes
    | with_reducible apply State.writeLoc_changes
    | exact hL _ (Part.mem_elem (by rfl))
    | (refine hL _ (Part.mem_elem ?_); (repeat' split) <;> rfl)
    | split
    | (dsimp only))

theorem State.engError_changes {pl : List Part} {e q index : Nat} {r : RawRec} {common status : Nat} {hw : Bool} {attempt : Nat} (hk : Changes pl s0 s) (hL : Part.Sub [.page .ENG, .risen, .recOnce, .records, .hostOut, .hostHeld, .fwIrq, .msix] pl := by first | assumption | exact Part.Sub.via (by assumption) (by decide +kernel)) : Changes pl s0 (State.engError s e q index r common status hw attempt) := by
  unfold State.engError
  repeat' (first
    | with_reducible exact hL
    | with_reducible exact Part.Sub.via hL (by decide)
    | ((try lift_lets); intro (x : State); refine Changes.via (l := pl) (s := s0) (x := x) ?_ (fun hx => ?_); rotate_left; clear_value x; rotate_left; unfold x)
    | ((try lift_lets); intro x; clear_value x)
    | with_reducible assumption
    | with_reducible apply State.raiseOnce_changes
    | with_reducible apply State.captureFirst_changes
    | with_reducible apply State.setErr_changes
    | exact hL _ (Part.mem_elem (by rfl))
    | (refine hL _ (Part.mem_elem ?_); (repeat' split) <;> rfl)
    | split
    | (dsimp only))

theorem State.stopQueue_changes {pl : List Part} {e q index common status : Nat} (hk : Changes pl s0 s) (hL : Part.Sub [.page .ENG, .risen, .hostOut, .hostHeld, .fwIrq, .msix] pl := by first | assumption | exact Part.Sub.via (by assumption) (by decide +kernel)) : Changes pl s0 (State.stopQueue s e q index common status) := by
  unfold State.stopQueue
  repeat' (first
    | with_reducible exact hL
    | with_reducible exact Part.Sub.via hL (by decide)
    | ((try lift_lets); intro (x : State); refine Changes.via (l := pl) (s := s0) (x := x) ?_ (fun hx => ?_); rotate_left; clear_value x; rotate_left; unfold x)
    | ((try lift_lets); intro x; clear_value x)
    | with_reducible assumption
    | with_reducible apply State.setIrq_changes
    | with_reducible apply State.setF_changes
    | exact hL _ (Part.mem_elem (by rfl))
    | (refine hL _ (Part.mem_elem ?_); (repeat' split) <;> rfl)
    | split
    | (dsimp only))

theorem State.failStep_changes {pl : List Part} {hw final : Bool} {e q index : Nat} {key : List Nat} (hk : Changes pl s0 s) (hL : Part.Sub [.step] pl := by first | assumption | exact Part.Sub.via (by assumption) (by decide +kernel)) : Changes pl s0 (State.failStep s hw final e q index key) := by
  unfold State.failStep
  repeat' (first
    | with_reducible exact hL
    | with_reducible exact Part.Sub.via hL (by decide)
    | ((try lift_lets); intro (x : State); refine Changes.via (l := pl) (s := s0) (x := x) ?_ (fun hx => ?_); rotate_left; clear_value x; rotate_left; unfold x)
    | ((try lift_lets); intro x; clear_value x)
    | with_reducible assumption
    | (with_reducible apply Changes.upd_step; first | with_reducible assumption | split)
    | split
    | (dsimp only))

theorem State.complete_changes {pl : List Part} {e q index common status : Nat} {hw : Bool} {result : W64} (hk : Changes pl s0 s) (hL : Part.Sub [.page .ENG, .page .EMP, .page .HBM, .risen, .ahead, .fields, .recOnce, .records, .hostOut, .hostHeld, .fwIrq, .msix, .edge, .edgeMark, .edgeWb, .selfRefresh, .queues, .step, .free] pl := by first | assumption | exact Part.Sub.via (by assumption) (by decide +kernel)) : Changes pl s0 (State.complete s e q index common status hw result) := by
  unfold State.complete
  repeat' (first
    | with_reducible exact hL
    | with_reducible exact Part.Sub.via hL (by decide)
    | ((try lift_lets); intro (x : State); refine Changes.via (l := pl) (s := s0) (x := x) ?_ (fun hx => ?_); rotate_left; clear_value x; rotate_left; unfold x)
    | ((try lift_lets); intro x; clear_value x)
    | with_reducible assumption
    | with_reducible apply State.countWm_changes
    | with_reducible apply State.msixSend_changes
    | with_reducible apply State.setF_changes
    | with_reducible apply State.failStep_changes
    | with_reducible apply State.stopQueue_changes
    | with_reducible apply State.engError_changes
    | with_reducible apply State.writeCqe_changes
    | with_reducible apply State.signalRef_changes
    | with_reducible apply State.retireQueue_changes
    | with_reducible apply State.setQueue_changes
    | exact hL _ (Part.mem_elem (by rfl))
    | (refine hL _ (Part.mem_elem ?_); (repeat' split) <;> rfl)
    | split
    | (dsimp only))

end Sys2Proof.Machine
end

