-- ==== Sys2Proof/Laws/ChangesVectorOps.lean ====
section
/-!
SUPPORT. What the operations of Machine/VectorOps can change (Laws/Changes).
-/
namespace Sys2Proof.Machine

set_option linter.all false

variable {s0 s : State}

theorem State.noteConverted_changes {pl : List Part} {a : TileAddr} {task : Nat} {f : RFlags} {sr : Bool} (hk : Changes pl s0 s) (hL : Part.Sub [.page .ARF, .risen, .ahead, .tiles, .recOnce, .records, .hostOut, .hostHeld, .fwIrq, .msix] pl := by first | assumption | exact Part.Sub.via (by assumption) (by decide +kernel)) : Changes pl s0 (State.noteConverted s a task f sr) := by
  unfold State.noteConverted
  repeat' (first
    | with_reducible exact hL
    | with_reducible exact Part.Sub.via hL (by decide)
    | ((try lift_lets); intro (x : State); refine Changes.via (l := pl) (s := s0) (x := x) ?_ (fun hx => ?_); rotate_left; clear_value x; rotate_left; unfold x)
    | ((try lift_lets); intro x; clear_value x)
    | with_reducible assumption
    | with_reducible apply State.noteResult_changes
    | split
    | (dsimp only))

theorem execOpVunp_changes {a : TileAddr} {task : Fin 4} {slot : Fin 128} {pl : List Part} (hL : Part.Sub [.page .ARF, .page .TSQ, .page .SPD, .risen, .ahead, .tiles, .recOnce, .records, .causes, .hostOut, .hostHeld, .fwIrq, .msix] pl := by first | assumption | exact Part.Sub.via (by assumption) (by decide +kernel)) : ChangesOut pl s (execOpVunp a task slot s) := by
  unfold execOpVunp
  have hk : Changes pl s s := Changes.refl pl s
  repeat' (first
    | with_reducible exact hL
    | with_reducible exact Part.Sub.via hL (by decide)
    | with_reducible apply ChangesOut.next
    | ((try lift_lets); intro (x : State); refine Changes.via (l := pl) (s := s) (x := x) ?_ (fun hx => ?_); rotate_left; clear_value x; rotate_left; unfold x)
    | ((try lift_lets); intro x; clear_value x)
    | with_reducible assumption
    | with_reducible apply State.noteConverted_changes
    | with_reducible apply State.setG_changes
    | with_reducible refine State.fireUnless_changes ?_ (fun w t u hu => ?_) ?_
    | with_reducible refine Changes.foldl ?_ (fun u x hu => ?_)
    | exact hL _ (Part.mem_elem (by rfl))
    | (refine hL _ (Part.mem_elem ?_); (repeat' split) <;> rfl)
    | split
    | (dsimp only))

theorem State.laneOp_changes {pl : List Part} {a : TileAddr} {task slot opc : Nat} {f : W32 → W32 → W32 → W32} (hk : Changes pl s0 s) (hL : Part.Sub [.tiles] pl := by first | assumption | exact Part.Sub.via (by assumption) (by decide +kernel)) : Changes pl s0 (State.laneOp s a task slot opc f) := by
  unfold State.laneOp
  repeat' (first
    | with_reducible exact hL
    | with_reducible exact Part.Sub.via hL (by decide)
    | ((try lift_lets); intro (x : State); refine Changes.via (l := pl) (s := s0) (x := x) ?_ (fun hx => ?_); rotate_left; clear_value x; rotate_left; unfold x)
    | ((try lift_lets); intro x; clear_value x)
    | with_reducible assumption
    | with_reducible apply State.setV_changes
    | with_reducible refine State.fire_changes ?_ (fun w t u hu => ?_) ?_
    | exact hL _ (Part.mem_elem (by rfl))
    | split
    | (dsimp only))

theorem execOpVfma_changes {a : TileAddr} {task : Fin 4} {slot : Fin 128} {pl : List Part} (hL : Part.Sub [.tiles] pl := by first | assumption | exact Part.Sub.via (by assumption) (by decide +kernel)) : ChangesOut pl s (execOpVfma a task slot s) := by
  unfold execOpVfma
  have hk : Changes pl s s := Changes.refl pl s
  repeat' (first
    | with_reducible exact hL
    | with_reducible exact Part.Sub.via hL (by decide)
    | with_reducible apply ChangesOut.next
    | ((try lift_lets); intro (x : State); refine Changes.via (l := pl) (s := s) (x := x) ?_ (fun hx => ?_); rotate_left; clear_value x; rotate_left; unfold x)
    | ((try lift_lets); intro x; clear_value x)
    | with_reducible assumption
    | with_reducible apply State.laneOp_changes
    | split
    | (dsimp only))

theorem execOpVadd_changes {a : TileAddr} {task : Fin 4} {slot : Fin 128} {pl : List Part} (hL : Part.Sub [.tiles] pl := by first | assumption | exact Part.Sub.via (by assumption) (by decide +kernel)) : ChangesOut pl s (execOpVadd a task slot s) := by
  unfold execOpVadd
  have hk : Changes pl s s := Changes.refl pl s
  repeat' (first
    | with_reducible exact hL
    | with_reducible exact Part.Sub.via hL (by decide)
    | with_reducible apply ChangesOut.next
    | ((try lift_lets); intro (x : State); refine Changes.via (l := pl) (s := s) (x := x) ?_ (fun hx => ?_); rotate_left; clear_value x; rotate_left; unfold x)
    | ((try lift_lets); intro x; clear_value x)
    | with_reducible assumption
    | with_reducible apply State.laneOp_changes
    | split
    | (dsimp only))

theorem execOpVmul_changes {a : TileAddr} {task : Fin 4} {slot : Fin 128} {pl : List Part} (hL : Part.Sub [.tiles] pl := by first | assumption | exact Part.Sub.via (by assumption) (by decide +kernel)) : ChangesOut pl s (execOpVmul a task slot s) := by
  unfold execOpVmul
  have hk : Changes pl s s := Changes.refl pl s
  repeat' (first
    | with_reducible exact hL
    | with_reducible exact Part.Sub.via hL (by decide)
    | with_reducible apply ChangesOut.next
    | ((try lift_lets); intro (x : State); refine Changes.via (l := pl) (s := s) (x := x) ?_ (fun hx => ?_); rotate_left; clear_value x; rotate_left; unfold x)
    | ((try lift_lets); intro x; clear_value x)
    | with_reducible assumption
    | with_reducible apply State.laneOp_changes
    | split
    | (dsimp only))

theorem execOpVmax_changes {a : TileAddr} {task : Fin 4} {slot : Fin 128} {pl : List Part} (hL : Part.Sub [.tiles] pl := by first | assumption | exact Part.Sub.via (by assumption) (by decide +kernel)) : ChangesOut pl s (execOpVmax a task slot s) := by
  unfold execOpVmax
  have hk : Changes pl s s := Changes.refl pl s
  repeat' (first
    | with_reducible exact hL
    | with_reducible exact Part.Sub.via hL (by decide)
    | with_reducible apply ChangesOut.next
    | ((try lift_lets); intro (x : State); refine Changes.via (l := pl) (s := s) (x := x) ?_ (fun hx => ?_); rotate_left; clear_value x; rotate_left; unfold x)
    | ((try lift_lets); intro x; clear_value x)
    | with_reducible assumption
    | with_reducible apply State.laneOp_changes
    | split
    | (dsimp only))

theorem execOpVmin_changes {a : TileAddr} {task : Fin 4} {slot : Fin 128} {pl : List Part} (hL : Part.Sub [.tiles] pl := by first | assumption | exact Part.Sub.via (by assumption) (by decide +kernel)) : ChangesOut pl s (execOpVmin a task slot s) := by
  unfold execOpVmin
  have hk : Changes pl s s := Changes.refl pl s
  repeat' (first
    | with_reducible exact hL
    | with_reducible exact Part.Sub.via hL (by decide)
    | with_reducible apply ChangesOut.next
    | ((try lift_lets); intro (x : State); refine Changes.via (l := pl) (s := s) (x := x) ?_ (fun hx => ?_); rotate_left; clear_value x; rotate_left; unfold x)
    | ((try lift_lets); intro x; clear_value x)
    | with_reducible assumption
    | with_reducible apply State.laneOp_changes
    | split
    | (dsimp only))

theorem execOpVbcast_changes {a : TileAddr} {task : Fin 4} {slot : Fin 128} {pl : List Part} (hL : Part.Sub [.tiles] pl := by first | assumption | exact Part.Sub.via (by assumption) (by decide +kernel)) : ChangesOut pl s (execOpVbcast a task slot s) := by
  unfold execOpVbcast
  have hk : Changes pl s s := Changes.refl pl s
  repeat' (first
    | with_reducible exact hL
    | with_reducible exact Part.Sub.via hL (by decide)
    | with_reducible apply ChangesOut.next
    | ((try lift_lets); intro (x : State); refine Changes.via (l := pl) (s := s) (x := x) ?_ (fun hx => ?_); rotate_left; clear_value x; rotate_left; unfold x)
    | ((try lift_lets); intro x; clear_value x)
    | with_reducible assumption
    | with_reducible apply State.setV_changes
    | with_reducible refine State.fire_changes ?_ (fun w t u hu => ?_) ?_
    | exact hL _ (Part.mem_elem (by rfl))
    | split
    | (dsimp only))

theorem execOpVsel_changes {a : TileAddr} {task : Fin 4} {slot : Fin 128} {pl : List Part} (hL : Part.Sub [.tiles] pl := by first | assumption | exact Part.Sub.via (by assumption) (by decide +kernel)) : ChangesOut pl s (execOpVsel a task slot s) := by
  unfold execOpVsel
  have hk : Changes pl s s := Changes.refl pl s
  repeat' (first
    | with_reducible exact hL
    | with_reducible exact Part.Sub.via hL (by decide)
    | with_reducible apply ChangesOut.next
    | ((try lift_lets); intro (x : State); refine Changes.via (l := pl) (s := s) (x := x) ?_ (fun hx => ?_); rotate_left; clear_value x; rotate_left; unfold x)
    | ((try lift_lets); intro x; clear_value x)
    | with_reducible assumption
    | with_reducible apply State.setV_changes
    | with_reducible refine State.fire_changes ?_ (fun w t u hu => ?_) ?_
    | exact hL _ (Part.mem_elem (by rfl))
    | (refine hL _ (Part.mem_elem ?_); (repeat' split) <;> rfl)
    | split
    | (dsimp only))

theorem execOpVred_changes {a : TileAddr} {task : Fin 4} {slot : Fin 128} {pl : List Part} (hL : Part.Sub [.tiles] pl := by first | assumption | exact Part.Sub.via (by assumption) (by decide +kernel)) : ChangesOut pl s (execOpVred a task slot s) := by
  unfold execOpVred
  have hk : Changes pl s s := Changes.refl pl s
  repeat' (first
    | with_reducible exact hL
    | with_reducible exact Part.Sub.via hL (by decide)
    | with_reducible apply ChangesOut.next
    | ((try lift_lets); intro (x : State); refine Changes.via (l := pl) (s := s) (x := x) ?_ (fun hx => ?_); rotate_left; clear_value x; rotate_left; unfold x)
    | ((try lift_lets); intro x; clear_value x)
    | with_reducible assumption
    | with_reducible apply State.setG_changes
    | with_reducible refine State.fire_changes ?_ (fun w t u hu => ?_) ?_
    | exact hL _ (Part.mem_elem (by rfl))
    | split
    | (dsimp only))

theorem State.setOrFree_changes {pl : List Part} {a : TileAddr} {task n : Nat} {v : Option W32} (hk : Changes pl s0 s) (hL : Part.Sub [.tiles, .free] pl := by first | assumption | exact Part.Sub.via (by assumption) (by decide +kernel)) : Changes pl s0 (State.setOrFree s a task n v) := by
  unfold State.setOrFree
  repeat' (first
    | with_reducible exact hL
    | with_reducible exact Part.Sub.via hL (by decide)
    | ((try lift_lets); intro (x : State); refine Changes.via (l := pl) (s := s0) (x := x) ?_ (fun hx => ?_); rotate_left; clear_value x; rotate_left; unfold x)
    | ((try lift_lets); intro (x : State × _); refine Changes.via (l := pl) (s := s0) (x := x.1) ?_ (fun hx => ?_); rotate_left; clear_value x; rotate_left; unfold x)
    | ((try lift_lets); intro (x : _ × State); refine Changes.via (l := pl) (s := s0) (x := x.2) ?_ (fun hx => ?_); rotate_left; clear_value x; rotate_left; unfold x)
    | ((try lift_lets); intro x; clear_value x)
    | with_reducible assumption
    | with_reducible refine Changes.of_snd (State.freeBits_changes ?_ ?_) (by assumption)
    | with_reducible apply State.freeBits_changes
    | with_reducible apply State.setG_changes
    | split
    | (dsimp only))

theorem State.tableOp_changes {pl : List Part} {a : TileAddr} {task slot opc : Nat} {deriv : Bool} (hk : Changes pl s0 s) (hL : Part.Sub [.tiles, .free] pl := by first | assumption | exact Part.Sub.via (by assumption) (by decide +kernel)) : Changes pl s0 (State.tableOp s a task slot opc deriv) := by
  unfold State.tableOp
  repeat' (first
    | with_reducible exact hL
    | with_reducible exact Part.Sub.via hL (by decide)
    | ((try lift_lets); intro (x : State); refine Changes.via (l := pl) (s := s0) (x := x) ?_ (fun hx => ?_); rotate_left; clear_value x; rotate_left; unfold x)
    | ((try lift_lets); intro x; clear_value x)
    | with_reducible assumption
    | with_reducible apply State.setOrFree_changes
    | with_reducible refine State.fire_changes ?_ (fun w t u hu => ?_) ?_
    | with_reducible refine Changes.foldl ?_ (fun u x hu => ?_)
    | exact hL _ (Part.mem_elem (by rfl))
    | split
    | (dsimp only))

theorem execOpVtab_changes {a : TileAddr} {task : Fin 4} {slot : Fin 128} {pl : List Part} (hL : Part.Sub [.tiles, .free] pl := by first | assumption | exact Part.Sub.via (by assumption) (by decide +kernel)) : ChangesOut pl s (execOpVtab a task slot s) := by
  unfold execOpVtab
  have hk : Changes pl s s := Changes.refl pl s
  repeat' (first
    | with_reducible exact hL
    | with_reducible exact Part.Sub.via hL (by decide)
    | with_reducible apply ChangesOut.next
    | ((try lift_lets); intro (x : State); refine Changes.via (l := pl) (s := s) (x := x) ?_ (fun hx => ?_); rotate_left; clear_value x; rotate_left; unfold x)
    | ((try lift_lets); intro x; clear_value x)
    | with_reducible assumption
    | with_reducible apply State.tableOp_changes
    | split
    | (dsimp only))

theorem execOpVtabd_changes {a : TileAddr} {task : Fin 4} {slot : Fin 128} {pl : List Part} (hL : Part.Sub [.tiles, .free] pl := by first | assumption | exact Part.Sub.via (by assumption) (by decide +kernel)) : ChangesOut pl s (execOpVtabd a task slot s) := by
  unfold execOpVtabd
  have hk : Changes pl s s := Changes.refl pl s
  repeat' (first
    | with_reducible exact hL
    | with_reducible exact Part.Sub.via hL (by decide)
    | with_reducible apply ChangesOut.next
    | ((try lift_lets); intro (x : State); refine Changes.via (l := pl) (s := s) (x := x) ?_ (fun hx => ?_); rotate_left; clear_value x; rotate_left; unfold x)
    | ((try lift_lets); intro x; clear_value x)
    | with_reducible assumption
    | with_reducible apply State.tableOp_changes
    | split
    | (dsimp only))

theorem execOpVmask_changes {a : TileAddr} {task : Fin 4} {slot : Fin 128} {pl : List Part} (hL : Part.Sub [.tiles] pl := by first | assumption | exact Part.Sub.via (by assumption) (by decide +kernel)) : ChangesOut pl s (execOpVmask a task slot s) := by
  unfold execOpVmask
  have hk : Changes pl s s := Changes.refl pl s
  repeat' (first
    | with_reducible exact hL
    | with_reducible exact Part.Sub.via hL (by decide)
    | with_reducible apply ChangesOut.next
    | ((try lift_lets); intro (x : State); refine Changes.via (l := pl) (s := s) (x := x) ?_ (fun hx => ?_); rotate_left; clear_value x; rotate_left; unfold x)
    | ((try lift_lets); intro x; clear_value x)
    | with_reducible assumption
    | with_reducible apply State.setG_changes
    | with_reducible refine State.fire_changes ?_ (fun w t u hu => ?_) ?_
    | with_reducible refine Changes.foldl ?_ (fun u x hu => ?_)
    | exact hL _ (Part.mem_elem (by rfl))
    | split
    | (dsimp only))

theorem execOpVpack_changes {a : TileAddr} {task : Fin 4} {slot : Fin 128} {pl : List Part} (hL : Part.Sub [.page .ARF, .risen, .ahead, .tiles, .recOnce, .records, .hostOut, .hostHeld, .fwIrq, .msix] pl := by first | assumption | exact Part.Sub.via (by assumption) (by decide +kernel)) : ChangesOut pl s (execOpVpack a task slot s) := by
  unfold execOpVpack
  have hk : Changes pl s s := Changes.refl pl s
  repeat' (first
    | with_reducible exact hL
    | with_reducible exact Part.Sub.via hL (by decide)
    | with_reducible apply ChangesOut.next
    | ((try lift_lets); intro (x : State); refine Changes.via (l := pl) (s := s) (x := x) ?_ (fun hx => ?_); rotate_left; clear_value x; rotate_left; unfold x)
    | ((try lift_lets); intro x; clear_value x)
    | with_reducible assumption
    | with_reducible apply State.noteConverted_changes
    | with_reducible apply State.enq_changes
    | with_reducible refine State.fire_changes ?_ (fun w t u hu => ?_) ?_
    | with_reducible refine Changes.foldl ?_ (fun u x hu => ?_)
    | exact hL _ (Part.mem_elem (by rfl))
    | (refine hL _ (Part.mem_elem ?_); (repeat' split) <;> rfl)
    | split
    | (dsimp only))

theorem execOpVqmx_changes {a : TileAddr} {task : Fin 4} {slot : Fin 128} {pl : List Part} (hL : Part.Sub [.page .ARF, .risen, .ahead, .tiles, .recOnce, .records, .hostOut, .hostHeld, .fwIrq, .msix] pl := by first | assumption | exact Part.Sub.via (by assumption) (by decide +kernel)) : ChangesOut pl s (execOpVqmx a task slot s) := by
  unfold execOpVqmx
  have hk : Changes pl s s := Changes.refl pl s
  repeat' (first
    | with_reducible exact hL
    | with_reducible exact Part.Sub.via hL (by decide)
    | with_reducible apply ChangesOut.next
    | ((try lift_lets); intro (x : State); refine Changes.via (l := pl) (s := s) (x := x) ?_ (fun hx => ?_); rotate_left; clear_value x; rotate_left; unfold x)
    | ((try lift_lets); intro (x : _ → _); dsimp -zeta only [x]; clear x)
    | ((try lift_lets); intro x; clear_value x)
    | with_reducible assumption
    | with_reducible apply State.noteConverted_changes
    | with_reducible apply State.enq_changes
    | with_reducible refine State.fire_changes ?_ (fun w t u hu => ?_) ?_
    | with_reducible refine Changes.foldl ?_ (fun u x hu => ?_)
    | exact hL _ (Part.mem_elem (by rfl))
    | (refine hL _ (Part.mem_elem ?_); (repeat' split) <;> rfl)
    | split
    | (dsimp only))

theorem execOpVexact_changes {a : TileAddr} {task : Fin 4} {slot : Fin 128} {pl : List Part} (hL : Part.Sub [.tiles] pl := by first | assumption | exact Part.Sub.via (by assumption) (by decide +kernel)) : ChangesOut pl s (execOpVexact a task slot s) := by
  unfold execOpVexact
  have hk : Changes pl s s := Changes.refl pl s
  repeat' (first
    | with_reducible exact hL
    | with_reducible exact Part.Sub.via hL (by decide)
    | with_reducible apply ChangesOut.next
    | ((try lift_lets); intro (x : State); refine Changes.via (l := pl) (s := s) (x := x) ?_ (fun hx => ?_); rotate_left; clear_value x; rotate_left; unfold x)
    | ((try lift_lets); intro x; clear_value x)
    | with_reducible assumption
    | with_reducible apply State.enq_changes
    | with_reducible refine State.fire_changes ?_ (fun w t u hu => ?_) ?_
    | exact hL _ (Part.mem_elem (by rfl))
    | split
    | (dsimp only))

end Sys2Proof.Machine
end

