-- ==== Sys2Proof/Laws/ChangesMirror.lean ====
section
/-!
SUPPORT. What the operations of Machine/Mirror can change (Laws/Changes).
-/
namespace Sys2Proof.Machine

set_option linter.all false

variable {s0 s : State}

theorem State.restoreEntry_changes {pl : List Part} {p : Fin 2} {f : FieldAddr} {e : MirrorEnt} (hk : Changes pl s0 s) (hL : Part.Sub [.page .EMP, .page .HBM, .page .SPD, .page .FEN, .risen, .tiles, .recOnce, .records, .hostOut, .hostHeld, .fwIrq, .msix, .edgeWb, .selfRefresh] pl := by first | assumption | exact Part.Sub.via (by assumption) (by decide +kernel)) : Changes pl s0 (State.restoreEntry s p f e) := by
  unfold State.restoreEntry
  repeat' (first
    | with_reducible exact hL
    | with_reducible exact Part.Sub.via hL (by decide)
    | ((try lift_lets); intro (x : State); refine Changes.via (l := pl) (s := s0) (x := x) ?_ (fun hx => ?_); rotate_left; clear_value x; rotate_left; unfold x)
    | ((try lift_lets); intro (x : State × _); refine Changes.via (l := pl) (s := s0) (x := x.1) ?_ (fun hx => ?_); rotate_left; clear_value x; rotate_left; unfold x)
    | ((try lift_lets); intro (x : _ × State); refine Changes.via (l := pl) (s := s0) (x := x.2) ?_ (fun hx => ?_); rotate_left; clear_value x; rotate_left; unfold x)
    | ((try lift_lets); intro x; clear_value x)
    | with_reducible assumption
    | with_reducible apply State.writeRows_changes
    | with_reducible refine Changes.of_fst (State.edgeRead_changes ?_ ?_) (by assumption)
    | with_reducible apply State.edgeRead_changes
    | with_reducible refine Changes.foldl ?_ (fun u x hu => ?_)
    | with_reducible refine Changes.foldl_fst ?_ (fun u x hu => ?_)
    | split
    | (dsimp only))

theorem State.setReplaceable_changes {pl : List Part} {p : Fin 2} {g : Image} (hk : Changes pl s0 s) (hL : Part.Sub [.page .FLT] pl := by first | assumption | exact Part.Sub.via (by assumption) (by decide +kernel)) : Changes pl s0 (State.setReplaceable s p g) := by
  unfold State.setReplaceable
  repeat' (first
    | with_reducible exact hL
    | with_reducible exact Part.Sub.via hL (by decide)
    | ((try lift_lets); intro (x : State); refine Changes.via (l := pl) (s := s0) (x := x) ?_ (fun hx => ?_); rotate_left; clear_value x; rotate_left; unfold x)
    | ((try lift_lets); intro x; clear_value x)
    | with_reducible assumption
    | with_reducible apply State.setF_changes
    | exact hL _ (Part.mem_elem (by rfl))
    | split
    | (dsimp only))

end Sys2Proof.Machine
end

