-- ==== Sys2Proof/Laws/ChangesPass.lean ====
section
/-!
SUPPORT. What the operations of Machine/Pass can change (Laws/Changes).
-/
namespace Sys2Proof.Machine

set_option linter.all false

variable {s0 s : State}

theorem State.setAe_changes {pl : List Part} {p : Fin 2} {x : ArrayEng} (hk : Changes pl s0 s) (hL : Part.Sub [.array] pl := by first | assumption | exact Part.Sub.via (by assumption) (by decide +kernel)) : Changes pl s0 (State.setAe s p x) := by
  unfold State.setAe
  repeat' (first
    | with_reducible exact hL
    | with_reducible exact Part.Sub.via hL (by decide)
    | ((try lift_lets); intro (x : State); refine Changes.via (l := pl) (s := s0) (x := x) ?_ (fun hx => ?_); rotate_left; clear_value x; rotate_left; unfold x)
    | ((try lift_lets); intro x; clear_value x)
    | with_reducible assumption
    | (with_reducible apply Changes.upd_array; first | with_reducible assumption | split)
    | split
    | (dsimp only))

theorem State.setPassState_changes {pl : List Part} {p : Fin 2} {v : Nat} (hk : Changes pl s0 s) (hL : Part.Sub [.page .AEN] pl := by first | assumption | exact Part.Sub.via (by assumption) (by decide +kernel)) : Changes pl s0 (State.setPassState s p v) := by
  unfold State.setPassState
  repeat' (first
    | with_reducible exact hL
    | with_reducible exact Part.Sub.via hL (by decide)
    | ((try lift_lets); intro (x : State); refine Changes.via (l := pl) (s := s0) (x := x) ?_ (fun hx => ?_); rotate_left; clear_value x; rotate_left; unfold x)
    | ((try lift_lets); intro x; clear_value x)
    | with_reducible assumption
    | with_reducible apply State.setF_changes
    | exact hL _ (Part.mem_elem (by rfl))
    | split
    | (dsimp only))

theorem State.planeCause_changes {pl : List Part} {p : Fin 2} {cause : Nat} {hw : Bool} (hk : Changes pl s0 s) (hL : Part.Sub [.causes] pl := by first | assumption | exact Part.Sub.via (by assumption) (by decide +kernel)) : Changes pl s0 (State.planeCause s p cause hw) := by
  unfold State.planeCause
  repeat' (first
    | with_reducible exact hL
    | with_reducible exact Part.Sub.via hL (by decide)
    | ((try lift_lets); intro (x : State); refine Changes.via (l := pl) (s := s0) (x := x) ?_ (fun hx => ?_); rotate_left; clear_value x; rotate_left; unfold x)
    | ((try lift_lets); intro x; clear_value x)
    | with_reducible assumption
    | (with_reducible apply Changes.upd_causes; first | with_reducible assumption | split)
    | split
    | (dsimp only))

theorem State.mirrorRestore_changes {pl : List Part} {f : FieldAddr} (hk : Changes pl s0 s) (hL : Part.Sub [.page .EMP, .page .HBM, .page .SPD, .page .FEN, .risen, .tiles, .recOnce, .records, .hostOut, .hostHeld, .fwIrq, .msix, .edgeWb, .selfRefresh] pl := by first | assumption | exact Part.Sub.via (by assumption) (by decide +kernel)) : Changes pl s0 (State.mirrorRestore s f) := by
  unfold State.mirrorRestore
  repeat' (first
    | with_reducible exact hL
    | with_reducible exact Part.Sub.via hL (by decide)
    | ((try lift_lets); intro (x : State); refine Changes.via (l := pl) (s := s0) (x := x) ?_ (fun hx => ?_); rotate_left; clear_value x; rotate_left; unfold x)
    | ((try lift_lets); intro x; clear_value x)
    | with_reducible assumption
    | with_reducible apply State.restoreEntry_changes
    | with_reducible refine Changes.foldl ?_ (fun u x hu => ?_)
    | split
    | (dsimp only))

theorem State.restoreWiped_changes {pl : List Part}  (hk : Changes pl s0 s) (hL : Part.Sub [.page .EMP, .page .HBM, .page .SPD, .page .FEN, .risen, .tiles, .fields, .recOnce, .records, .hostOut, .hostHeld, .fwIrq, .msix, .edgeWb, .selfRefresh] pl := by first | assumption | exact Part.Sub.via (by assumption) (by decide +kernel)) : Changes pl s0 (State.restoreWiped s) := by
  unfold State.restoreWiped
  repeat' (first
    | with_reducible exact hL
    | with_reducible exact Part.Sub.via hL (by decide)
    | ((try lift_lets); intro (x : State); refine Changes.via (l := pl) (s := s0) (x := x) ?_ (fun hx => ?_); rotate_left; clear_value x; rotate_left; unfold x)
    | ((try lift_lets); intro x; clear_value x)
    | with_reducible assumption
    | with_reducible apply State.mirrorRestore_changes
    | with_reducible apply State.setField_changes
    | with_reducible refine Changes.foldl ?_ (fun u x hu => ?_)
    | split
    | (dsimp only))

theorem State.stopDrain_changes {pl : List Part} {f : FieldAddr} (hk : Changes pl s0 s) (hL : Part.Sub [.page .MESH, .page .TSQ, .page .SPD, .page .FEN, .page .FLT, .risen, .tiles, .fields, .recOnce, .records, .hostOut, .hostHeld, .fwIrq, .msix, .edgeHeld, .ctxs] pl := by first | assumption | exact Part.Sub.via (by assumption) (by decide +kernel)) : Changes pl s0 (State.stopDrain s f) := by
  unfold State.stopDrain
  repeat' (first
    | with_reducible exact hL
    | with_reducible exact Part.Sub.via hL (by decide)
    | ((try lift_lets); intro (x : State); refine Changes.via (l := pl) (s := s0) (x := x) ?_ (fun hx => ?_); rotate_left; clear_value x; rotate_left; unfold x)
    | ((try lift_lets); intro x; clear_value x)
    | with_reducible assumption
    | with_reducible apply State.drainStart_changes
    | split
    | (dsimp only))

theorem State.placeEnd_changes {pl : List Part} {p : Fin 2} {q index common status : Nat} {result : W64} (hk : Changes pl s0 s) (hL : Part.Sub [.page .ENG, .page .AEN, .page .EMP, .page .HBM, .risen, .ahead, .fields, .recOnce, .records, .hostOut, .hostHeld, .fwIrq, .msix, .edge, .edgeMark, .edgeWb, .selfRefresh, .queues, .step, .free] pl := by first | assumption | exact Part.Sub.via (by assumption) (by decide +kernel)) : Changes pl s0 (State.placeEnd s p q index common status result) := by
  unfold State.placeEnd
  repeat' (first
    | with_reducible exact hL
    | with_reducible exact Part.Sub.via hL (by decide)
    | ((try lift_lets); intro (x : State); refine Changes.via (l := pl) (s := s0) (x := x) ?_ (fun hx => ?_); rotate_left; clear_value x; rotate_left; unfold x)
    | ((try lift_lets); intro x; clear_value x)
    | with_reducible assumption
    | with_reducible apply State.setIrq_changes
    | with_reducible apply State.complete_changes
    | exact hL _ (Part.mem_elem (by rfl))
    | split
    | (dsimp only))

theorem execPlaceLoad_changes {p : Fin 2} {pl : List Part} (hL : Part.Sub [.page .ENG, .page .AEN, .page .EMP, .page .HBM, .page .MESH, .page .TSQ, .page .SPD, .page .FEN, .page .FLT, .risen, .ahead, .tiles, .fields, .recOnce, .records, .hostOut, .hostHeld, .fwIrq, .msix, .edge, .edgeMark, .edgeWb, .selfRefresh, .edgeHeld, .ctxs, .queues, .step, .array, .free] pl := by first | assumption | exact Part.Sub.via (by assumption) (by decide +kernel)) : ChangesOut pl s (execPlaceLoad p s) := by
  unfold execPlaceLoad
  have hk : Changes pl s s := Changes.refl pl s
  repeat' (first
    | with_reducible exact hL
    | with_reducible exact Part.Sub.via hL (by decide)
    | with_reducible apply ChangesOut.next
    | ((try lift_lets); intro (x : State); refine Changes.via (l := pl) (s := s) (x := x) ?_ (fun hx => ?_); rotate_left; clear_value x; rotate_left; unfold x)
    | ((try lift_lets); intro (x : State × _); refine Changes.via (l := pl) (s := s) (x := x.1) ?_ (fun hx => ?_); rotate_left; clear_value x; rotate_left; unfold x)
    | ((try lift_lets); intro (x : _ × State); refine Changes.via (l := pl) (s := s) (x := x.2) ?_ (fun hx => ?_); rotate_left; clear_value x; rotate_left; unfold x)
    | ((try lift_lets); intro x; clear_value x)
    | with_reducible assumption
    | with_reducible apply State.placeEnd_changes
    | with_reducible apply State.stopDrain_changes
    | with_reducible apply State.setAe_changes
    | with_reducible apply State.setStage_changes
    | with_reducible refine Changes.of_fst (State.edgeRead_changes ?_ ?_) (by assumption)
    | with_reducible apply State.edgeRead_changes
    | with_reducible refine Changes.foldl ?_ (fun u x hu => ?_)
    | with_reducible refine Changes.foldl_fst ?_ (fun u x hu => ?_)
    | split
    | (dsimp only))

theorem State.placeTables_changes {pl : List Part} {p : Fin 2} {g : Image} (hk : Changes pl s0 s) (hL : Part.Sub [.fields] pl := by first | assumption | exact Part.Sub.via (by assumption) (by decide +kernel)) : Changes pl s0 (State.placeTables s p g) := by
  unfold State.placeTables
  repeat' (first
    | with_reducible exact hL
    | with_reducible exact Part.Sub.via hL (by decide)
    | ((try lift_lets); intro (x : State); refine Changes.via (l := pl) (s := s0) (x := x) ?_ (fun hx => ?_); rotate_left; clear_value x; rotate_left; unfold x)
    | ((try lift_lets); intro x; clear_value x)
    | with_reducible assumption
    | with_reducible apply State.setField_changes
    | with_reducible refine Changes.foldl ?_ (fun u x hu => ?_)
    | split
    | (dsimp only))

theorem State.placeSegments_changes {pl : List Part} {f : FieldAddr} {g : Image} {off : Nat} (hk : Changes pl s0 s) (hL : Part.Sub [.page .SPD, .page .FEN, .risen, .tiles, .fields, .recOnce, .records, .hostOut, .hostHeld, .fwIrq, .msix] pl := by first | assumption | exact Part.Sub.via (by assumption) (by decide +kernel)) : Changes pl s0 (State.placeSegments s f g off) := by
  unfold State.placeSegments
  repeat' (first
    | with_reducible exact hL
    | with_reducible exact Part.Sub.via hL (by decide)
    | ((try lift_lets); intro (x : State); refine Changes.via (l := pl) (s := s0) (x := x) ?_ (fun hx => ?_); rotate_left; clear_value x; rotate_left; unfold x)
    | ((try lift_lets); intro x; clear_value x)
    | with_reducible assumption
    | with_reducible apply State.segFinish_changes
    | with_reducible apply State.segCommand_changes
    | with_reducible apply State.setField_changes
    | with_reducible apply State.setF_changes
    | with_reducible refine Changes.foldl ?_ (fun u x hu => ?_)
    | exact hL _ (Part.mem_elem (by rfl))
    | split
    | (dsimp only))

theorem execPlaceLoadCommit_changes {p : Fin 2} {pl : List Part} (hL : Part.Sub [.page .ENG, .page .AEN, .page .EMP, .page .HBM, .page .MESH, .page .TSQ, .page .SPD, .page .PAS, .page .FEN, .page .FLT, .risen, .ahead, .tiles, .fields, .recOnce, .records, .hostOut, .hostHeld, .fwIrq, .msix, .edge, .edgeMark, .edgeWb, .selfRefresh, .edgeHeld, .ctxs, .queues, .step, .array, .free] pl := by first | assumption | exact Part.Sub.via (by assumption) (by decide +kernel)) : ChangesOut pl s (execPlaceLoadCommit p s) := by
  unfold execPlaceLoadCommit
  have hk : Changes pl s s := Changes.refl pl s
  repeat' (first
    | with_reducible exact hL
    | with_reducible exact Part.Sub.via hL (by decide)
    | with_reducible apply ChangesOut.next
    | ((try lift_lets); intro (x : State); refine Changes.via (l := pl) (s := s) (x := x) ?_ (fun hx => ?_); rotate_left; clear_value x; rotate_left; unfold x)
    | ((try lift_lets); intro (x : _ → _); dsimp -zeta only [x]; clear x)
    | ((try lift_lets); intro x; clear_value x)
    | with_reducible assumption
    | with_reducible apply State.placeSegments_changes
    | with_reducible apply State.placeTables_changes
    | with_reducible apply State.placeEnd_changes
    | with_reducible apply State.stopDrain_changes
    | with_reducible apply State.setAe_changes
    | with_reducible apply State.setF_changes
    | with_reducible apply State.setReg_changes
    | with_reducible apply State.setReplaceable_changes
    | with_reducible apply State.drainStart_changes
    | with_reducible refine Changes.foldl ?_ (fun u x hu => ?_)
    | exact hL _ (Part.mem_elem (by rfl))
    | (refine hL _ (Part.mem_elem ?_); (repeat' split) <;> rfl)
    | split
    | (dsimp only))

theorem State.setChannels_changes {pl : List Part} {p : Fin 2} {span : Bool} {ch : Nat} {wm : Waymark} (hk : Changes pl s0 s) (hL : Part.Sub [.page .MLW, .aeArrived, .remoteRoot] pl := by first | assumption | exact Part.Sub.via (by assumption) (by decide +kernel)) : Changes pl s0 (State.setChannels s p span ch wm) := by
  unfold State.setChannels
  repeat' (first
    | with_reducible exact hL
    | with_reducible exact Part.Sub.via hL (by decide)
    | ((try lift_lets); intro (x : State); refine Changes.via (l := pl) (s := s0) (x := x) ?_ (fun hx => ?_); rotate_left; clear_value x; rotate_left; unfold x)
    | ((try lift_lets); intro x; clear_value x)
    | with_reducible assumption
    | with_reducible apply State.setReg_changes
    | with_reducible refine Changes.foldl ?_ (fun u x hu => ?_)
    | (with_reducible apply Changes.upd_aeArrived_remoteRoot; first | with_reducible assumption | with_reducible apply State.setReg_changes | split)
    | exact hL _ (Part.mem_elem (by rfl))
    | split
    | (dsimp only))

theorem State.openChannel_changes {pl : List Part} {p : Fin 2} {ch : Nat} (hk : Changes pl s0 s) (hL : Part.Sub [.page .MLW] pl := by first | assumption | exact Part.Sub.via (by assumption) (by decide +kernel)) : Changes pl s0 (State.openChannel s p ch) := by
  unfold State.openChannel
  repeat' (first
    | with_reducible exact hL
    | with_reducible exact Part.Sub.via hL (by decide)
    | ((try lift_lets); intro (x : State); refine Changes.via (l := pl) (s := s0) (x := x) ?_ (fun hx => ?_); rotate_left; clear_value x; rotate_left; unfold x)
    | ((try lift_lets); intro x; clear_value x)
    | with_reducible assumption
    | with_reducible apply State.setF_changes
    | exact hL _ (Part.mem_elem (by rfl))
    | (refine hL _ (Part.mem_elem ?_); (repeat' split) <;> rfl)
    | split
    | (dsimp only))

theorem State.unbridge_changes {pl : List Part} {p : Fin 2} (hk : Changes pl s0 s) (hL : Part.Sub [.page .MLW] pl := by first | assumption | exact Part.Sub.via (by assumption) (by decide +kernel)) : Changes pl s0 (State.unbridge s p) := by
  unfold State.unbridge
  repeat' (first
    | with_reducible exact hL
    | with_reducible exact Part.Sub.via hL (by decide)
    | ((try lift_lets); intro (x : State); refine Changes.via (l := pl) (s := s0) (x := x) ?_ (fun hx => ?_); rotate_left; clear_value x; rotate_left; unfold x)
    | ((try lift_lets); intro x; clear_value x)
    | with_reducible assumption
    | with_reducible apply State.setF_changes
    | with_reducible refine Changes.foldl ?_ (fun u x hu => ?_)
    | exact hL _ (Part.mem_elem (by rfl))
    | split
    | (dsimp only))

theorem State.aeArrive_changes {pl : List Part} {p : Fin 2} (hk : Changes pl s0 s) (hL : Part.Sub [.page .MLW, .aeArrived] pl := by first | assumption | exact Part.Sub.via (by assumption) (by decide +kernel)) : Changes pl s0 (State.aeArrive s p) := by
  unfold State.aeArrive
  repeat' (first
    | with_reducible exact hL
    | with_reducible exact Part.Sub.via hL (by decide)
    | ((try lift_lets); intro (x : State); refine Changes.via (l := pl) (s := s0) (x := x) ?_ (fun hx => ?_); rotate_left; clear_value x; rotate_left; unfold x)
    | ((try lift_lets); intro x; clear_value x)
    | with_reducible assumption
    | with_reducible apply State.openChannel_changes
    | (with_reducible apply Changes.upd_aeArrived; first | with_reducible assumption | with_reducible apply State.openChannel_changes | split)
    | split
    | (dsimp only))

theorem State.startWake_changes {pl : List Part} {f : FieldAddr} (hk : Changes pl s0 s) (hL : Part.Sub [.page .FPW] pl := by first | assumption | exact Part.Sub.via (by assumption) (by decide +kernel)) : Changes pl s0 (State.startWake s f) := by
  unfold State.startWake
  repeat' (first
    | with_reducible exact hL
    | with_reducible exact Part.Sub.via hL (by decide)
    | ((try lift_lets); intro (x : State); refine Changes.via (l := pl) (s := s0) (x := x) ?_ (fun hx => ?_); rotate_left; clear_value x; rotate_left; unfold x)
    | ((try lift_lets); intro x; clear_value x)
    | with_reducible assumption
    | with_reducible apply State.setF_changes
    | exact hL _ (Part.mem_elem (by rfl))
    | (refine hL _ (Part.mem_elem ?_); (repeat' split) <;> rfl)
    | split
    | (dsimp only))

theorem execPassRun_changes {p : Fin 2} {pl : List Part} (hL : Part.Sub [.page .ENG, .page .AEN, .page .MLW, .page .EMP, .page .HBM, .page .PAS, .page .PWR, .risen, .ahead, .fields, .recOnce, .records, .causes, .hostOut, .hostHeld, .fwIrq, .msix, .edge, .edgeMark, .edgeWb, .selfRefresh, .aeArrived, .queues, .step, .array, .remoteRoot, .free] pl := by first | assumption | exact Part.Sub.via (by assumption) (by decide +kernel)) : ChangesOut pl s (execPassRun p s) := by
  unfold execPassRun
  have hk : Changes pl s s := Changes.refl pl s
  repeat' (first
    | with_reducible exact hL
    | with_reducible exact Part.Sub.via hL (by decide)
    | with_reducible apply ChangesOut.next
    | ((try lift_lets); intro (x : State); refine Changes.via (l := pl) (s := s) (x := x) ?_ (fun hx => ?_); rotate_left; clear_value x; rotate_left; unfold x)
    | ((try lift_lets); intro x; clear_value x)
    | with_reducible assumption
    | with_reducible apply State.aeArrive_changes
    | with_reducible apply State.setChannels_changes
    | with_reducible apply State.planeCause_changes
    | with_reducible apply State.setAe_changes
    | with_reducible apply State.setF_changes
    | with_reducible apply State.setReg_changes
    | with_reducible apply State.complete_changes
    | with_reducible apply State.setStage_changes
    | with_reducible refine Changes.foldl ?_ (fun u x hu => ?_)
    | exact hL _ (Part.mem_elem (by rfl))
    | (refine hL _ (Part.mem_elem ?_); (repeat' split) <;> rfl)
    | split
    | (dsimp only))

theorem State.releasePrev_changes {pl : List Part} {p : Fin 2} (hk : Changes pl s0 s) (hL : Part.Sub [.page .MESH, .page .TSQ, .page .SPD, .page .FEN, .page .FLT, .risen, .tiles, .fields, .recOnce, .records, .hostOut, .hostHeld, .fwIrq, .msix, .edgeHeld, .ctxs, .array] pl := by first | assumption | exact Part.Sub.via (by assumption) (by decide +kernel)) : Changes pl s0 (State.releasePrev s p) := by
  unfold State.releasePrev
  repeat' (first
    | with_reducible exact hL
    | with_reducible exact Part.Sub.via hL (by decide)
    | ((try lift_lets); intro (x : State); refine Changes.via (l := pl) (s := s0) (x := x) ?_ (fun hx => ?_); rotate_left; clear_value x; rotate_left; unfold x)
    | ((try lift_lets); intro (x : _ → _); dsimp -zeta only [x]; clear x)
    | ((try lift_lets); intro x; clear_value x)
    | with_reducible assumption
    | with_reducible apply State.setAe_changes
    | with_reducible apply State.drainStart_changes
    | with_reducible refine Changes.foldl ?_ (fun u x hu => ?_)
    | split
    | (dsimp only))

theorem execPassLoadBegin_changes {p : Fin 2} {pl : List Part} (hL : Part.Sub [.page .MESH, .page .TSQ, .page .SPD, .page .FPW, .page .FEN, .page .FLT, .risen, .tiles, .fields, .recOnce, .records, .hostOut, .hostHeld, .fwIrq, .msix, .edgeHeld, .ctxs, .array] pl := by first | assumption | exact Part.Sub.via (by assumption) (by decide +kernel)) : ChangesOut pl s (execPassLoadBegin p s) := by
  unfold execPassLoadBegin
  have hk : Changes pl s s := Changes.refl pl s
  repeat' (first
    | with_reducible exact hL
    | with_reducible exact Part.Sub.via hL (by decide)
    | with_reducible apply ChangesOut.next
    | ((try lift_lets); intro (x : State); refine Changes.via (l := pl) (s := s) (x := x) ?_ (fun hx => ?_); rotate_left; clear_value x; rotate_left; unfold x)
    | ((try lift_lets); intro x; clear_value x)
    | with_reducible assumption
    | with_reducible apply State.releasePrev_changes
    | with_reducible apply State.startWake_changes
    | with_reducible apply State.stopDrain_changes
    | with_reducible apply State.setAe_changes
    | with_reducible refine Changes.foldl ?_ (fun u x hu => ?_)
    | split
    | (dsimp only))

theorem State.noteRefusedLoad_changes {pl : List Part} {a : TileAddr} {cause : Nat} (hk : Changes pl s0 s) (hL : Part.Sub [.page .PAS, .risen, .ahead, .recOnce, .records, .causes, .hostOut, .hostHeld, .fwIrq, .msix] pl := by first | assumption | exact Part.Sub.via (by assumption) (by decide +kernel)) : Changes pl s0 (State.noteRefusedLoad s a cause) := by
  unfold State.noteRefusedLoad
  repeat' (first
    | with_reducible exact hL
    | with_reducible exact Part.Sub.via hL (by decide)
    | ((try lift_lets); intro (x : State); refine Changes.via (l := pl) (s := s0) (x := x) ?_ (fun hx => ?_); rotate_left; clear_value x; rotate_left; unfold x)
    | ((try lift_lets); intro x; clear_value x)
    | with_reducible assumption
    | with_reducible apply State.reportCause_changes
    | with_reducible apply State.raiseOnce_changes
    | with_reducible apply State.captureFirst_changes
    | with_reducible apply State.countWm_changes
    | exact hL _ (Part.mem_elem (by rfl))
    | split
    | (dsimp only))

theorem State.loadTile_changes {pl : List Part} {a : TileAddr} {r : TileRec} {folds : List FoldEnt} {epoch : BitVec 2} {ch : Option Nat} (hk : Changes pl s0 s) (hL : Part.Sub [.page .PAS, .risen, .ahead, .tiles, .recOnce, .records, .causes, .hostOut, .hostHeld, .fwIrq, .msix] pl := by first | assumption | exact Part.Sub.via (by assumption) (by decide +kernel)) : Changes pl s0 (State.loadTile s a r folds epoch ch) := by
  unfold State.loadTile
  repeat' (first
    | with_reducible exact hL
    | with_reducible exact Part.Sub.via hL (by decide)
    | ((try lift_lets); intro (x : State); refine Changes.via (l := pl) (s := s0) (x := x) ?_ (fun hx => ?_); rotate_left; clear_value x; rotate_left; unfold x)
    | ((try lift_lets); intro x; clear_value x)
    | with_reducible assumption
    | with_reducible apply State.noteRefusedLoad_changes
    | with_reducible apply State.setTile_changes
    | split
    | (dsimp only))

theorem State.loadField_changes {pl : List Part} {f : FieldAddr} {g : Image} {part : Nat} {ch : Option Nat} (hk : Changes pl s0 s) (hL : Part.Sub [.page .PAS, .risen, .ahead, .tiles, .fields, .recOnce, .records, .causes, .hostOut, .hostHeld, .fwIrq, .msix] pl := by first | assumption | exact Part.Sub.via (by assumption) (by decide +kernel)) : Changes pl s0 (State.loadField s f g part ch) := by
  unfold State.loadField
  repeat' (first
    | with_reducible exact hL
    | with_reducible exact Part.Sub.via hL (by decide)
    | ((try lift_lets); intro (x : State); refine Changes.via (l := pl) (s := s0) (x := x) ?_ (fun hx => ?_); rotate_left; clear_value x; rotate_left; unfold x)
    | ((try lift_lets); intro x; clear_value x)
    | with_reducible assumption
    | with_reducible apply State.loadTile_changes
    | with_reducible apply State.countWm_changes
    | with_reducible apply State.setField_changes
    | with_reducible apply State.setF_changes
    | with_reducible refine Changes.foldl ?_ (fun u x hu => ?_)
    | exact hL _ (Part.mem_elem (by rfl))
    | (refine hL _ (Part.mem_elem ?_); (repeat' split) <;> rfl)
    | split
    | (dsimp only))

theorem State.readPass_changes {pl : List Part} {p : Fin 2} {g : Image} {n : Nat} (hk : Changes pl s0 s) (hL : Part.Sub [.page .EMP, .page .HBM, .risen, .recOnce, .records, .hostOut, .hostHeld, .fwIrq, .msix, .edgeWb, .selfRefresh] pl := by first | assumption | exact Part.Sub.via (by assumption) (by decide +kernel)) : Changes pl s0 (State.readPass s p g n).1 := by
  unfold State.readPass
  repeat' (first
    | with_reducible exact hL
    | with_reducible exact Part.Sub.via hL (by decide)
    | ((try lift_lets); intro (x : State); refine Changes.via (l := pl) (s := s0) (x := x) ?_ (fun hx => ?_); rotate_left; clear_value x; rotate_left; unfold x)
    | ((try lift_lets); intro (x : State × _); refine Changes.via (l := pl) (s := s0) (x := x.1) ?_ (fun hx => ?_); rotate_left; clear_value x; rotate_left; unfold x)
    | ((try lift_lets); intro (x : _ × State); refine Changes.via (l := pl) (s := s0) (x := x.2) ?_ (fun hx => ?_); rotate_left; clear_value x; rotate_left; unfold x)
    | ((try lift_lets); intro x; clear_value x)
    | with_reducible assumption
    | with_reducible refine Changes.of_fst (State.edgeRead_changes ?_ ?_) (by assumption)
    | with_reducible apply State.edgeRead_changes
    | with_reducible refine Changes.foldl ?_ (fun u x hu => ?_)
    | with_reducible refine Changes.foldl_fst ?_ (fun u x hu => ?_)
    | split
    | (dsimp only))

theorem State.passGo_changes {pl : List Part} {p : Fin 2} {restart : Bool} (hk : Changes pl s0 s) (hL : Part.Sub [.page .AEN, .page .MESH, .page .TSQ, .page .SPD, .page .PAS, .page .FEN, .page .FLT, .risen, .ahead, .tiles, .fields, .recOnce, .records, .hostOut, .hostHeld, .fwIrq, .msix, .edgeHeld, .ctxs, .array] pl := by first | assumption | exact Part.Sub.via (by assumption) (by decide +kernel)) : Changes pl s0 (State.passGo s p restart) := by
  unfold State.passGo
  repeat' (first
    | with_reducible exact hL
    | with_reducible exact Part.Sub.via hL (by decide)
    | ((try lift_lets); intro (x : State); refine Changes.via (l := pl) (s := s0) (x := x) ?_ (fun hx => ?_); rotate_left; clear_value x; rotate_left; unfold x)
    | ((try lift_lets); intro x; clear_value x)
    | with_reducible assumption
    | with_reducible apply State.setPassState_changes
    | with_reducible apply State.setAe_changes
    | with_reducible apply State.countWm_changes
    | with_reducible apply State.setTile_changes
    | with_reducible apply State.setF_changes
    | with_reducible apply State.drainStart_changes
    | with_reducible refine Changes.foldl ?_ (fun u x hu => ?_)
    | exact hL _ (Part.mem_elem (by rfl))
    | (refine hL _ (Part.mem_elem ?_); (repeat' split) <;> rfl)
    | split
    | (dsimp only))

theorem State.loadFields_changes {pl : List Part} {p : Fin 2} {g : Image} {n : Nat} (hk : Changes pl s0 s) (hL : Part.Sub [.page .AEN, .page .PAS, .risen, .ahead, .tiles, .fields, .recOnce, .records, .causes, .hostOut, .hostHeld, .fwIrq, .msix] pl := by first | assumption | exact Part.Sub.via (by assumption) (by decide +kernel)) : Changes pl s0 (State.loadFields s p g n) := by
  unfold State.loadFields
  repeat' (first
    | with_reducible exact hL
    | with_reducible exact Part.Sub.via hL (by decide)
    | ((try lift_lets); intro (x : State); refine Changes.via (l := pl) (s := s0) (x := x) ?_ (fun hx => ?_); rotate_left; clear_value x; rotate_left; unfold x)
    | ((try lift_lets); intro x; clear_value x)
    | with_reducible assumption
    | with_reducible apply State.loadField_changes
    | with_reducible apply State.setF_changes
    | with_reducible refine Changes.foldl ?_ (fun u x hu => ?_)
    | exact hL _ (Part.mem_elem (by rfl))
    | (refine hL _ (Part.mem_elem ?_); (repeat' split) <;> rfl)
    | split
    | (dsimp only))

theorem execPassArmed_changes {p : Fin 2} {pl : List Part} (hL : Part.Sub [.page .AEN, .page .MLW, .page .EMP, .page .HBM, .page .MESH, .page .TSQ, .page .SPD, .page .PAS, .page .FEN, .page .FLT, .risen, .ahead, .tiles, .fields, .recOnce, .records, .causes, .hostOut, .hostHeld, .fwIrq, .msix, .edgeWb, .selfRefresh, .edgeHeld, .aeArrived, .ctxs, .array] pl := by first | assumption | exact Part.Sub.via (by assumption) (by decide +kernel)) : ChangesOut pl s (execPassArmed p s) := by
  unfold execPassArmed
  have hk : Changes pl s s := Changes.refl pl s
  repeat' (first
    | with_reducible exact hL
    | with_reducible exact Part.Sub.via hL (by decide)
    | with_reducible apply ChangesOut.next
    | ((try lift_lets); intro (x : State); refine Changes.via (l := pl) (s := s) (x := x) ?_ (fun hx => ?_); rotate_left; clear_value x; rotate_left; unfold x)
    | ((try lift_lets); intro (x : State × _); refine Changes.via (l := pl) (s := s) (x := x.1) ?_ (fun hx => ?_); rotate_left; clear_value x; rotate_left; unfold x)
    | ((try lift_lets); intro (x : _ × State); refine Changes.via (l := pl) (s := s) (x := x.2) ?_ (fun hx => ?_); rotate_left; clear_value x; rotate_left; unfold x)
    | ((try lift_lets); intro x; clear_value x)
    | with_reducible assumption
    | with_reducible apply State.loadFields_changes
    | with_reducible apply State.passGo_changes
    | with_reducible refine Changes.of_fst (State.readPass_changes ?_ ?_) (by assumption)
    | with_reducible apply State.readPass_changes
    | with_reducible apply State.aeArrive_changes
    | with_reducible apply State.planeCause_changes
    | with_reducible apply State.setPassState_changes
    | split
    | (dsimp only))

theorem execPassRestart_changes {p : Fin 2} {pl : List Part} (hL : Part.Sub [.page .AEN, .page .MESH, .page .TSQ, .page .SPD, .page .PAS, .page .FEN, .page .FLT, .risen, .ahead, .tiles, .fields, .recOnce, .records, .hostOut, .hostHeld, .fwIrq, .msix, .edgeHeld, .ctxs, .array] pl := by first | assumption | exact Part.Sub.via (by assumption) (by decide +kernel)) : ChangesOut pl s (execPassRestart p s) := by
  unfold execPassRestart
  have hk : Changes pl s s := Changes.refl pl s
  repeat' (first
    | with_reducible exact hL
    | with_reducible exact Part.Sub.via hL (by decide)
    | with_reducible apply ChangesOut.next
    | ((try lift_lets); intro (x : State); refine Changes.via (l := pl) (s := s) (x := x) ?_ (fun hx => ?_); rotate_left; clear_value x; rotate_left; unfold x)
    | ((try lift_lets); intro x; clear_value x)
    | with_reducible assumption
    | with_reducible apply State.passGo_changes
    | split
    | (dsimp only))

theorem State.blockCycles_changes {pl : List Part} {f : FieldAddr} {g : Image} {part : Nat} {cycles : List Nat} (hk : Changes pl s0 s) (hL : Part.Sub [.page .PAS, .risen, .ahead, .hostOut, .hostHeld, .fwIrq, .msix] pl := by first | assumption | exact Part.Sub.via (by assumption) (by decide +kernel)) : Changes pl s0 (State.blockCycles s f g part cycles) := by
  unfold State.blockCycles
  repeat' (first
    | with_reducible exact hL
    | with_reducible exact Part.Sub.via hL (by decide)
    | ((try lift_lets); intro (x : State); refine Changes.via (l := pl) (s := s0) (x := x) ?_ (fun hx => ?_); rotate_left; clear_value x; rotate_left; unfold x)
    | ((try lift_lets); intro x; clear_value x)
    | with_reducible assumption
    | with_reducible apply State.countWm_changes
    | with_reducible apply State.setIrq_changes
    | with_reducible refine Changes.foldl ?_ (fun u x hu => ?_)
    | exact hL _ (Part.mem_elem (by rfl))
    | (refine hL _ (Part.mem_elem ?_); (repeat' split) <;> rfl)
    | split
    | (dsimp only))

theorem execPassFinishing_changes {p : Fin 2} {cycles : List Nat} {pl : List Part} (hL : Part.Sub [.page .AEN, .page .MESH, .page .TSQ, .page .SPD, .page .PAS, .page .FEN, .page .FLT, .risen, .ahead, .tiles, .fields, .recOnce, .records, .hostOut, .hostHeld, .fwIrq, .msix, .edgeHeld, .ctxs] pl := by first | assumption | exact Part.Sub.via (by assumption) (by decide +kernel)) : ChangesOut pl s (execPassFinishing p cycles s) := by
  unfold execPassFinishing
  have hk : Changes pl s s := Changes.refl pl s
  repeat' (first
    | with_reducible exact hL
    | with_reducible exact Part.Sub.via hL (by decide)
    | with_reducible apply ChangesOut.next
    | ((try lift_lets); intro (x : State); refine Changes.via (l := pl) (s := s) (x := x) ?_ (fun hx => ?_); rotate_left; clear_value x; rotate_left; unfold x)
    | ((try lift_lets); intro x; clear_value x)
    | with_reducible assumption
    | with_reducible apply State.blockCycles_changes
    | with_reducible apply State.stopDrain_changes
    | with_reducible apply State.setPassState_changes
    | with_reducible refine Changes.foldl ?_ (fun u x hu => ?_)
    | split
    | (dsimp only))

theorem State.passEnd_changes {pl : List Part} {p : Fin 2} (hk : Changes pl s0 s) (hL : Part.Sub [.page .ENG, .page .AEN, .page .MLW, .page .EMP, .page .HBM, .risen, .ahead, .fields, .recOnce, .records, .hostOut, .hostHeld, .fwIrq, .msix, .edge, .edgeMark, .edgeWb, .selfRefresh, .ctxs, .queues, .step, .array, .free] pl := by first | assumption | exact Part.Sub.via (by assumption) (by decide +kernel)) : Changes pl s0 (State.passEnd s p) := by
  unfold State.passEnd
  repeat' (first
    | with_reducible exact hL
    | with_reducible exact Part.Sub.via hL (by decide)
    | ((try lift_lets); intro (x : State); refine Changes.via (l := pl) (s := s0) (x := x) ?_ (fun hx => ?_); rotate_left; clear_value x; rotate_left; unfold x)
    | ((try lift_lets); intro (x : _ → _); dsimp -zeta only [x]; clear x)
    | ((try lift_lets); intro x; clear_value x)
    | with_reducible assumption
    | with_reducible apply State.unbridge_changes
    | with_reducible apply State.setPassState_changes
    | with_reducible apply State.setAe_changes
    | with_reducible apply State.countWm_changes
    | with_reducible apply State.setIrq_changes
    | with_reducible apply State.complete_changes
    | (with_reducible apply Changes.upd_ctxs; first | with_reducible assumption | with_reducible apply State.unbridge_changes | with_reducible apply State.setPassState_changes | with_reducible apply State.setAe_changes | with_reducible apply State.countWm_changes | with_reducible apply State.setIrq_changes | with_reducible apply State.complete_changes | split)
    | exact hL _ (Part.mem_elem (by rfl))
    | (refine hL _ (Part.mem_elem ?_); (repeat' split) <;> rfl)
    | split
    | (dsimp only))

theorem State.completePass_changes {pl : List Part} {p : Fin 2} (hk : Changes pl s0 s) (hL : Part.Sub [.page .ENG, .page .AEN, .page .MLW, .page .EMP, .page .HBM, .risen, .ahead, .fields, .recOnce, .records, .hostOut, .hostHeld, .fwIrq, .msix, .edge, .edgeMark, .edgeWb, .selfRefresh, .aeArrived, .ctxs, .queues, .step, .array, .free] pl := by first | assumption | exact Part.Sub.via (by assumption) (by decide +kernel)) : Changes pl s0 (State.completePass s p) := by
  unfold State.completePass
  repeat' (first
    | with_reducible exact hL
    | with_reducible exact Part.Sub.via hL (by decide)
    | ((try lift_lets); intro (x : State); refine Changes.via (l := pl) (s := s0) (x := x) ?_ (fun hx => ?_); rotate_left; clear_value x; rotate_left; unfold x)
    | ((try lift_lets); intro x; clear_value x)
    | with_reducible assumption
    | with_reducible apply State.passEnd_changes
    | with_reducible apply State.aeArrive_changes
    | with_reducible apply State.setPassState_changes
    | split
    | (dsimp only))

theorem State.suspectTile_changes {pl : List Part} {c : PassCause} {recent : Bool} (hk : Changes pl s0 s) (hL : Part.Sub [.page .FLT, .risen, .fields, .records, .retained, .suspects, .hostOut, .hostHeld, .fwIrq, .msix] pl := by first | assumption | exact Part.Sub.via (by assumption) (by decide +kernel)) : Changes pl s0 (State.suspectTile s c recent) := by
  unfold State.suspectTile
  repeat' (first
    | with_reducible exact hL
    | with_reducible exact Part.Sub.via hL (by decide)
    | ((try lift_lets); intro (x : State); refine Changes.via (l := pl) (s := s0) (x := x) ?_ (fun hx => ?_); rotate_left; clear_value x; rotate_left; unfold x)
    | ((try lift_lets); intro x; clear_value x)
    | with_reducible assumption
    | with_reducible apply State.condemn_changes
    | (with_reducible apply Changes.upd_suspects; first | with_reducible assumption | with_reducible apply State.condemn_changes | split)
    | split
    | (dsimp only))

theorem State.abortNoted_changes {pl : List Part} {p : Fin 2} {c : PassCause} (hk : Changes pl s0 s) (hL : Part.Sub [.page .AEN, .risen, .records, .hostOut, .hostHeld, .fwIrq, .msix] pl := by first | assumption | exact Part.Sub.via (by assumption) (by decide +kernel)) : Changes pl s0 (State.abortNoted s p c) := by
  unfold State.abortNoted
  repeat' (first
    | with_reducible exact hL
    | with_reducible exact Part.Sub.via hL (by decide)
    | ((try lift_lets); intro (x : State); refine Changes.via (l := pl) (s := s0) (x := x) ?_ (fun hx => ?_); rotate_left; clear_value x; rotate_left; unfold x)
    | ((try lift_lets); intro x; clear_value x)
    | with_reducible assumption
    | with_reducible apply State.raise_changes
    | with_reducible apply State.captureFirst_changes
    | exact hL _ (Part.mem_elem (by rfl))
    | split
    | (dsimp only))

theorem State.abortEnters_changes {pl : List Part} {p : Fin 2} {c : PassCause} (hk : Changes pl s0 s) (hL : Part.Sub [.page .AEN, .array] pl := by first | assumption | exact Part.Sub.via (by assumption) (by decide +kernel)) : Changes pl s0 (State.abortEnters s p c) := by
  unfold State.abortEnters
  repeat' (first
    | with_reducible exact hL
    | with_reducible exact Part.Sub.via hL (by decide)
    | ((try lift_lets); intro (x : State); refine Changes.via (l := pl) (s := s0) (x := x) ?_ (fun hx => ?_); rotate_left; clear_value x; rotate_left; unfold x)
    | ((try lift_lets); intro x; clear_value x)
    | with_reducible assumption
    | with_reducible apply State.setPassState_changes
    | with_reducible apply State.setAe_changes
    | split
    | (dsimp only))

theorem State.abortDrains_changes {pl : List Part} {p : Fin 2} (hk : Changes pl s0 s) (hL : Part.Sub [.page .MLW, .page .MESH, .page .TSQ, .page .SPD, .page .FEN, .page .FLT, .risen, .tiles, .fields, .recOnce, .records, .hostOut, .hostHeld, .fwIrq, .msix, .edgeHeld, .aeArrived, .ctxs] pl := by first | assumption | exact Part.Sub.via (by assumption) (by decide +kernel)) : Changes pl s0 (State.abortDrains s p) := by
  unfold State.abortDrains
  repeat' (first
    | with_reducible exact hL
    | with_reducible exact Part.Sub.via hL (by decide)
    | ((try lift_lets); intro (x : State); refine Changes.via (l := pl) (s := s0) (x := x) ?_ (fun hx => ?_); rotate_left; clear_value x; rotate_left; unfold x)
    | ((try lift_lets); intro x; clear_value x)
    | with_reducible assumption
    | with_reducible apply State.setF_changes
    | with_reducible apply State.drainStart_changes
    | with_reducible refine Changes.foldl ?_ (fun u x hu => ?_)
    | (with_reducible apply Changes.upd_aeArrived; first | with_reducible assumption | with_reducible apply State.setF_changes | with_reducible apply State.drainStart_changes | split)
    | exact hL _ (Part.mem_elem (by rfl))
    | (refine hL _ (Part.mem_elem ?_); (repeat' split) <;> rfl)
    | split
    | (dsimp only))

theorem State.repairEpoch_changes {pl : List Part} {f : FieldAddr} (hk : Changes pl s0 s) (hL : Part.Sub [.tiles] pl := by first | assumption | exact Part.Sub.via (by assumption) (by decide +kernel)) : Changes pl s0 (State.repairEpoch s f) := by
  unfold State.repairEpoch
  repeat' (first
    | with_reducible exact hL
    | with_reducible exact Part.Sub.via hL (by decide)
    | ((try lift_lets); intro (x : State); refine Changes.via (l := pl) (s := s0) (x := x) ?_ (fun hx => ?_); rotate_left; clear_value x; rotate_left; unfold x)
    | ((try lift_lets); intro x; clear_value x)
    | with_reducible assumption
    | with_reducible apply State.setTile_changes
    | with_reducible refine Changes.foldl ?_ (fun u x hu => ?_)
    | split
    | (dsimp only))

theorem State.failPass_changes {pl : List Part} {p : Fin 2} (hk : Changes pl s0 s) (hL : Part.Sub [.page .ENG, .page .AEN, .page .MLW, .page .EMP, .page .HBM, .risen, .ahead, .tiles, .fields, .recOnce, .records, .hostOut, .hostHeld, .fwIrq, .msix, .edge, .edgeMark, .edgeWb, .selfRefresh, .queues, .step, .array, .free] pl := by first | assumption | exact Part.Sub.via (by assumption) (by decide +kernel)) : Changes pl s0 (State.failPass s p) := by
  unfold State.failPass
  repeat' (first
    | with_reducible exact hL
    | with_reducible exact Part.Sub.via hL (by decide)
    | ((try lift_lets); intro (x : State); refine Changes.via (l := pl) (s := s0) (x := x) ?_ (fun hx => ?_); rotate_left; clear_value x; rotate_left; unfold x)
    | ((try lift_lets); intro x; clear_value x)
    | with_reducible assumption
    | with_reducible apply State.repairEpoch_changes
    | with_reducible apply State.unbridge_changes
    | with_reducible apply State.setPassState_changes
    | with_reducible apply State.setAe_changes
    | with_reducible apply State.countWm_changes
    | with_reducible apply State.setIrq_changes
    | with_reducible apply State.complete_changes
    | with_reducible refine Changes.foldl ?_ (fun u x hu => ?_)
    | exact hL _ (Part.mem_elem (by rfl))
    | (refine hL _ (Part.mem_elem ?_); (repeat' split) <;> rfl)
    | split
    | (dsimp only))

theorem execPassAbortNotice_changes {p : Fin 2} {pl : List Part} (hL : Part.Sub [.page .AEN, .risen, .ahead, .causes, .array] pl := by first | assumption | exact Part.Sub.via (by assumption) (by decide +kernel)) : ChangesOut pl s (execPassAbortNotice p s) := by
  unfold execPassAbortNotice
  have hk : Changes pl s s := Changes.refl pl s
  repeat' (first
    | with_reducible exact hL
    | with_reducible exact Part.Sub.via hL (by decide)
    | with_reducible apply ChangesOut.next
    | ((try lift_lets); intro (x : State); refine Changes.via (l := pl) (s := s) (x := x) ?_ (fun hx => ?_); rotate_left; clear_value x; rotate_left; unfold x)
    | ((try lift_lets); intro x; clear_value x)
    | with_reducible assumption
    | with_reducible apply State.planeCause_changes
    | with_reducible apply State.setAe_changes
    | with_reducible apply State.countWm_changes
    | exact hL _ (Part.mem_elem (by rfl))
    | (refine hL _ (Part.mem_elem ?_); (repeat' split) <;> rfl)
    | split
    | (dsimp only))

theorem execPassWatchdog_changes {p : Fin 2} {pl : List Part} (hL : Part.Sub [.causes] pl := by first | assumption | exact Part.Sub.via (by assumption) (by decide +kernel)) : ChangesOut pl s (execPassWatchdog p s) := by
  unfold execPassWatchdog
  have hk : Changes pl s s := Changes.refl pl s
  repeat' (first
    | with_reducible exact hL
    | with_reducible exact Part.Sub.via hL (by decide)
    | with_reducible apply ChangesOut.next
    | ((try lift_lets); intro (x : State); refine Changes.via (l := pl) (s := s) (x := x) ?_ (fun hx => ?_); rotate_left; clear_value x; rotate_left; unfold x)
    | ((try lift_lets); intro x; clear_value x)
    | with_reducible assumption
    | with_reducible apply State.planeCause_changes
    | split
    | (dsimp only))

theorem execFoldReaderSend_changes {a : TileAddr} {pl : List Part} (hL : Part.Sub [.page .MESH, .page .SPD, .page .PAS, .page .FEN, .page .FLT, .risen, .ahead, .tiles, .fields, .recOnce, .records, .causes, .retained, .hostOut, .hostHeld, .fwIrq, .msix] pl := by first | assumption | exact Part.Sub.via (by assumption) (by decide +kernel)) : ChangesOut pl s (execFoldReaderSend a s) := by
  unfold execFoldReaderSend
  have hk : Changes pl s s := Changes.refl pl s
  repeat' (first
    | with_reducible exact hL
    | with_reducible exact Part.Sub.via hL (by decide)
    | with_reducible apply ChangesOut.next
    | ((try lift_lets); intro (x : State); refine Changes.via (l := pl) (s := s) (x := x) ?_ (fun hx => ?_); rotate_left; clear_value x; rotate_left; unfold x)
    | ((try lift_lets); intro (x : State × _); refine Changes.via (l := pl) (s := s) (x := x.1) ?_ (fun hx => ?_); rotate_left; clear_value x; rotate_left; unfold x)
    | ((try lift_lets); intro (x : _ × State); refine Changes.via (l := pl) (s := s) (x := x.2) ?_ (fun hx => ?_); rotate_left; clear_value x; rotate_left; unfold x)
    | ((try lift_lets); intro x; clear_value x)
    | with_reducible assumption
    | with_reducible apply State.failTile_changes
    | with_reducible refine Changes.of_fst (State.readBytes_changes ?_ ?_) (by assumption)
    | with_reducible apply State.readBytes_changes
    | with_reducible apply State.reportCause_changes
    | with_reducible apply State.countWm_changes
    | with_reducible apply State.count_changes
    | with_reducible apply State.setTile_changes
    | with_reducible apply State.emit_changes
    | exact hL _ (Part.mem_elem (by rfl))
    | (refine hL _ (Part.mem_elem ?_); (repeat' split) <;> rfl)
    | split
    | (dsimp only))

end Sys2Proof.Machine
end

