-- ==== Sys2Proof/Laws/ChangesEngines.lean ====
section
/-!
SUPPORT. What the operations of Machine/Engines can change (Laws/Changes).
-/
namespace Sys2Proof.Machine

set_option linter.all false

variable {s0 s : State}

theorem State.fetchFailed_changes {pl : List Part} {e q : Nat} (hk : Changes pl s0 s) (hL : Part.Sub [.page .ENG, .risen, .hostOut, .hostHeld, .fwIrq, .msix, .queues, .step] pl := by first | assumption | exact Part.Sub.via (by assumption) (by decide +kernel)) : Changes pl s0 (State.fetchFailed s e q) := by
  unfold State.fetchFailed
  repeat' (first
    | with_reducible exact hL
    | with_reducible exact Part.Sub.via hL (by decide)
    | ((try lift_lets); intro (x : State); refine Changes.via (l := pl) (s := s0) (x := x) ?_ (fun hx => ?_); rotate_left; clear_value x; rotate_left; unfold x)
    | ((try lift_lets); intro x; clear_value x)
    | with_reducible assumption
    | with_reducible apply State.setIrq_changes
    | with_reducible apply State.setF_changes
    | with_reducible apply State.failStep_changes
    | with_reducible apply State.setQueue_changes
    | exact hL _ (Part.mem_elem (by rfl))
    | (refine hL _ (Part.mem_elem ?_); (repeat' split) <;> rfl)
    | split
    | (dsimp only))

theorem State.fetchRaw_changes {pl : List Part} {e q : Nat} {raw : List Byte} {err : Nat} (hk : Changes pl s0 s) (hL : Part.Sub [.page .HIF, .page .EMP, .page .HBM, .risen, .recOnce, .records, .hostOut, .hostHeld, .fwIrq, .msix, .edgeWb, .selfRefresh] pl := by first | assumption | exact Part.Sub.via (by assumption) (by decide +kernel)) : Changes pl s0 (State.fetchRaw s e q raw err).1 := by
  unfold State.fetchRaw
  repeat' (first
    | with_reducible exact hL
    | with_reducible exact Part.Sub.via hL (by decide)
    | ((try lift_lets); intro (x : State); refine Changes.via (l := pl) (s := s0) (x := x) ?_ (fun hx => ?_); rotate_left; clear_value x; rotate_left; unfold x)
    | ((try lift_lets); intro (x : State × _); refine Changes.via (l := pl) (s := s0) (x := x.1) ?_ (fun hx => ?_); rotate_left; clear_value x; rotate_left; unfold x)
    | ((try lift_lets); intro (x : _ × State); refine Changes.via (l := pl) (s := s0) (x := x.2) ?_ (fun hx => ?_); rotate_left; clear_value x; rotate_left; unfold x)
    | ((try lift_lets); intro x; clear_value x)
    | with_reducible assumption
    | with_reducible refine Changes.of_fst (State.edgeRead_changes ?_ ?_) (by assumption)
    | with_reducible apply State.edgeRead_changes
    | with_reducible apply State.countIrq_changes
    | exact hL _ (Part.mem_elem (by rfl))
    | (refine hL _ (Part.mem_elem ?_); (repeat' split) <;> rfl)
    | split
    | (dsimp only))

theorem State.fetchPayload_changes {pl : List Part} {raw : RawRec} {check : Nat} {payload : List Byte} {err : Nat} (hk : Changes pl s0 s) (hL : Part.Sub [.page .HIF, .page .EMP, .page .HBM, .risen, .recOnce, .records, .hostOut, .hostHeld, .fwIrq, .msix, .edgeWb, .selfRefresh] pl := by first | assumption | exact Part.Sub.via (by assumption) (by decide +kernel)) : Changes pl s0 (State.fetchPayload s raw check payload err).1 := by
  unfold State.fetchPayload
  repeat' (first
    | with_reducible exact hL
    | with_reducible exact Part.Sub.via hL (by decide)
    | ((try lift_lets); intro (x : State); refine Changes.via (l := pl) (s := s0) (x := x) ?_ (fun hx => ?_); rotate_left; clear_value x; rotate_left; unfold x)
    | ((try lift_lets); intro (x : State × _); refine Changes.via (l := pl) (s := s0) (x := x.1) ?_ (fun hx => ?_); rotate_left; clear_value x; rotate_left; unfold x)
    | ((try lift_lets); intro (x : _ × State); refine Changes.via (l := pl) (s := s0) (x := x.2) ?_ (fun hx => ?_); rotate_left; clear_value x; rotate_left; unfold x)
    | ((try lift_lets); intro x; clear_value x)
    | with_reducible assumption
    | with_reducible refine Changes.of_fst (State.edgeRead_changes ?_ ?_) (by assumption)
    | with_reducible apply State.edgeRead_changes
    | with_reducible apply State.countIrq_changes
    | exact hL _ (Part.mem_elem (by rfl))
    | (refine hL _ (Part.mem_elem ?_); (repeat' split) <;> rfl)
    | split
    | (dsimp only))

theorem State.fetch_changes {pl : List Part} {e q : Nat} {raw payload : List Byte} {err : Nat} (hk : Changes pl s0 s) (hL : Part.Sub [.page .HIF, .page .ENG, .page .EMP, .page .HBM, .risen, .ahead, .recOnce, .records, .hostOut, .hostHeld, .fwIrq, .msix, .edgeWb, .selfRefresh, .queues, .step] pl := by first | assumption | exact Part.Sub.via (by assumption) (by decide +kernel)) : Changes pl s0 (State.fetch s e q raw payload err) := by
  unfold State.fetch
  repeat' (first
    | with_reducible exact hL
    | with_reducible exact Part.Sub.via hL (by decide)
    | ((try lift_lets); intro (x : State); refine Changes.via (l := pl) (s := s0) (x := x) ?_ (fun hx => ?_); rotate_left; clear_value x; rotate_left; unfold x)
    | ((try lift_lets); intro (x : State × _); refine Changes.via (l := pl) (s := s0) (x := x.1) ?_ (fun hx => ?_); rotate_left; clear_value x; rotate_left; unfold x)
    | ((try lift_lets); intro (x : _ × State); refine Changes.via (l := pl) (s := s0) (x := x.2) ?_ (fun hx => ?_); rotate_left; clear_value x; rotate_left; unfold x)
    | ((try lift_lets); intro x; clear_value x)
    | with_reducible assumption
    | with_reducible apply State.countWm_changes
    | with_reducible apply State.setF_changes
    | with_reducible refine Changes.of_fst (State.fetchPayload_changes ?_ ?_) (by assumption)
    | with_reducible apply State.fetchPayload_changes
    | with_reducible refine Changes.of_fst (State.fetchRaw_changes ?_ ?_) (by assumption)
    | with_reducible apply State.fetchRaw_changes
    | with_reducible apply State.fetchFailed_changes
    | with_reducible apply State.setQueue_changes
    | exact hL _ (Part.mem_elem (by rfl))
    | (refine hL _ (Part.mem_elem ?_); (repeat' split) <;> rfl)
    | split
    | (dsimp only))

theorem execRecordFetch_changes {e : Fin 7} {q : Fin 64} {raw payload : List Byte} {err : Fin 3} {pl : List Part} (hL : Part.Sub [.page .HIF, .page .ENG, .page .EMP, .page .HBM, .risen, .ahead, .recOnce, .records, .hostOut, .hostHeld, .fwIrq, .msix, .edgeWb, .selfRefresh, .queues, .step] pl := by first | assumption | exact Part.Sub.via (by assumption) (by decide +kernel)) : ChangesOut pl s (execRecordFetch e q raw payload err s) := by
  unfold execRecordFetch
  have hk : Changes pl s s := Changes.refl pl s
  repeat' (first
    | with_reducible exact hL
    | with_reducible exact Part.Sub.via hL (by decide)
    | with_reducible apply ChangesOut.next
    | ((try lift_lets); intro (x : State); refine Changes.via (l := pl) (s := s) (x := x) ?_ (fun hx => ?_); rotate_left; clear_value x; rotate_left; unfold x)
    | ((try lift_lets); intro x; clear_value x)
    | with_reducible assumption
    | with_reducible apply State.fetch_changes
    | split
    | (dsimp only))

theorem execFetchRetry_changes {e : Fin 7} {q : Fin 64} {raw payload : List Byte} {err : Fin 3} {pl : List Part} (hL : Part.Sub [.page .HIF, .page .ENG, .page .EMP, .page .HBM, .risen, .ahead, .recOnce, .records, .hostOut, .hostHeld, .fwIrq, .msix, .edgeWb, .selfRefresh, .queues, .step] pl := by first | assumption | exact Part.Sub.via (by assumption) (by decide +kernel)) : ChangesOut pl s (execFetchRetry e q raw payload err s) := by
  unfold execFetchRetry
  have hk : Changes pl s s := Changes.refl pl s
  repeat' (first
    | with_reducible exact hL
    | with_reducible exact Part.Sub.via hL (by decide)
    | with_reducible apply ChangesOut.next
    | ((try lift_lets); intro (x : State); refine Changes.via (l := pl) (s := s) (x := x) ?_ (fun hx => ?_); rotate_left; clear_value x; rotate_left; unfold x)
    | ((try lift_lets); intro x; clear_value x)
    | with_reducible assumption
    | with_reducible apply State.fetch_changes
    | split
    | (dsimp only))

theorem State.badAccess_changes {pl : List Part} {bar : Nat} {write poisoned : Bool} {off : Nat} (hk : Changes pl s0 s) (hL : Part.Sub [.page .HIF, .risen, .hostOut, .hostHeld, .fwIrq, .msix] pl := by first | assumption | exact Part.Sub.via (by assumption) (by decide +kernel)) : Changes pl s0 (State.badAccess s bar write poisoned off) := by
  unfold State.badAccess
  repeat' (first
    | with_reducible exact hL
    | with_reducible exact Part.Sub.via hL (by decide)
    | ((try lift_lets); intro (x : State); refine Changes.via (l := pl) (s := s0) (x := x) ?_ (fun hx => ?_); rotate_left; clear_value x; rotate_left; unfold x)
    | ((try lift_lets); intro x; clear_value x)
    | with_reducible assumption
    | with_reducible apply State.captureFirst_changes
    | exact hL _ (Part.mem_elem (by rfl))
    | split
    | (dsimp only))

theorem execDoorbell_changes {e : Fin 7} {q : Fin 64} {aligned poisoned : Bool} {value : W64} {pl : List Part} (hL : Part.Sub [.page .HIF, .page .ENG, .risen, .hostOut, .hostHeld, .fwIrq, .msix] pl := by first | assumption | exact Part.Sub.via (by assumption) (by decide +kernel)) : ChangesOut pl s (execDoorbell e q aligned poisoned value s) := by
  unfold execDoorbell
  have hk : Changes pl s s := Changes.refl pl s
  repeat' (first
    | with_reducible exact hL
    | with_reducible exact Part.Sub.via hL (by decide)
    | with_reducible apply ChangesOut.next
    | ((try lift_lets); intro (x : State); refine Changes.via (l := pl) (s := s) (x := x) ?_ (fun hx => ?_); rotate_left; clear_value x; rotate_left; unfold x)
    | ((try lift_lets); intro x; clear_value x)
    | with_reducible assumption
    | with_reducible apply State.count_changes
    | with_reducible apply State.setIrq_changes
    | with_reducible apply State.setF_changes
    | with_reducible apply State.badAccess_changes
    | exact hL _ (Part.mem_elem (by rfl))
    | (refine hL _ (Part.mem_elem ?_); (repeat' split) <;> rfl)
    | split
    | (dsimp only))

theorem State.evalWaits_changes {pl : List Part}  (hk : Changes pl s0 s) (hL : Part.Sub [.queues] pl := by first | assumption | exact Part.Sub.via (by assumption) (by decide +kernel)) : Changes pl s0 (State.evalWaits s) := by
  unfold State.evalWaits
  repeat' (first
    | with_reducible exact hL
    | with_reducible exact Part.Sub.via hL (by decide)
    | ((try lift_lets); intro (x : State); refine Changes.via (l := pl) (s := s0) (x := x) ?_ (fun hx => ?_); rotate_left; clear_value x; rotate_left; unfold x)
    | ((try lift_lets); intro x; clear_value x)
    | with_reducible assumption
    | (with_reducible apply Changes.upd_queues; first | with_reducible assumption | split)
    | split
    | (dsimp only))

theorem State.startRec_changes {pl : List Part} {e q : Nat} {h : EngRec} (hk : Changes pl s0 s) (hL : Part.Sub [.page .ENG, .queues] pl := by first | assumption | exact Part.Sub.via (by assumption) (by decide +kernel)) : Changes pl s0 (State.startRec s e q h) := by
  unfold State.startRec
  repeat' (first
    | with_reducible exact hL
    | with_reducible exact Part.Sub.via hL (by decide)
    | ((try lift_lets); intro (x : State); refine Changes.via (l := pl) (s := s0) (x := x) ?_ (fun hx => ?_); rotate_left; clear_value x; rotate_left; unfold x)
    | ((try lift_lets); intro x; clear_value x)
    | with_reducible assumption
    | with_reducible apply State.setF_changes
    | with_reducible apply State.setQueue_changes
    | exact hL _ (Part.mem_elem (by rfl))
    | (refine hL _ (Part.mem_elem ?_); (repeat' split) <;> rfl)
    | split
    | (dsimp only))

theorem execRecordStart_changes {e : Fin 7} {pl : List Part} (hL : Part.Sub [.page .ENG, .page .EMP, .page .HBM, .risen, .ahead, .fields, .recOnce, .records, .hostOut, .hostHeld, .fwIrq, .msix, .edge, .edgeMark, .edgeWb, .selfRefresh, .queues, .turns, .step, .free] pl := by first | assumption | exact Part.Sub.via (by assumption) (by decide +kernel)) : ChangesOut pl s (execRecordStart e s) := by
  unfold execRecordStart
  have hk : Changes pl s s := Changes.refl pl s
  repeat' (first
    | with_reducible exact hL
    | with_reducible exact Part.Sub.via hL (by decide)
    | with_reducible apply ChangesOut.next
    | ((try lift_lets); intro (x : State); refine Changes.via (l := pl) (s := s) (x := x) ?_ (fun hx => ?_); rotate_left; clear_value x; rotate_left; unfold x)
    | ((try lift_lets); intro x; clear_value x)
    | with_reducible assumption
    | with_reducible apply State.startRec_changes
    | with_reducible apply State.complete_changes
    | (with_reducible apply Changes.upd_turns; first | with_reducible assumption | with_reducible apply State.startRec_changes | with_reducible apply State.complete_changes | split)
    | split
    | (dsimp only))

theorem execNopCommand_changes {e : Fin 7} {q : Fin 64} {pl : List Part} (hL : Part.Sub [.page .ENG, .page .EMP, .page .HBM, .risen, .ahead, .fields, .recOnce, .records, .hostOut, .hostHeld, .fwIrq, .msix, .edge, .edgeMark, .edgeWb, .selfRefresh, .queues, .step, .free] pl := by first | assumption | exact Part.Sub.via (by assumption) (by decide +kernel)) : ChangesOut pl s (execNopCommand e q s) := by
  unfold execNopCommand
  have hk : Changes pl s s := Changes.refl pl s
  repeat' (first
    | with_reducible exact hL
    | with_reducible exact Part.Sub.via hL (by decide)
    | with_reducible apply ChangesOut.next
    | ((try lift_lets); intro (x : State); refine Changes.via (l := pl) (s := s) (x := x) ?_ (fun hx => ?_); rotate_left; clear_value x; rotate_left; unfold x)
    | ((try lift_lets); intro x; clear_value x)
    | with_reducible assumption
    | with_reducible apply State.complete_changes
    | split
    | (dsimp only))

theorem State.endHead_changes {pl : List Part} {e q : Nat} {h : EngRec} {code : Nat} (hk : Changes pl s0 s) (hL : Part.Sub [.page .ENG, .page .EMP, .page .HBM, .risen, .ahead, .fields, .recOnce, .records, .hostOut, .hostHeld, .fwIrq, .msix, .edge, .edgeMark, .edgeWb, .selfRefresh, .queues, .step, .free] pl := by first | assumption | exact Part.Sub.via (by assumption) (by decide +kernel)) : Changes pl s0 (State.endHead s e q h code) := by
  unfold State.endHead
  repeat' (first
    | with_reducible exact hL
    | with_reducible exact Part.Sub.via hL (by decide)
    | ((try lift_lets); intro (x : State); refine Changes.via (l := pl) (s := s0) (x := x) ?_ (fun hx => ?_); rotate_left; clear_value x; rotate_left; unfold x)
    | ((try lift_lets); intro x; clear_value x)
    | with_reducible assumption
    | with_reducible apply State.complete_changes
    | with_reducible apply State.setQueue_changes
    | split
    | (dsimp only))

theorem execWaitTimeout_changes {e : Fin 7} {q : Fin 64} {pl : List Part} (hL : Part.Sub [.page .ENG, .page .EMP, .page .HBM, .risen, .ahead, .fields, .recOnce, .records, .hostOut, .hostHeld, .fwIrq, .msix, .edge, .edgeMark, .edgeWb, .selfRefresh, .queues, .step, .free] pl := by first | assumption | exact Part.Sub.via (by assumption) (by decide +kernel)) : ChangesOut pl s (execWaitTimeout e q s) := by
  unfold execWaitTimeout
  have hk : Changes pl s s := Changes.refl pl s
  repeat' (first
    | with_reducible exact hL
    | with_reducible exact Part.Sub.via hL (by decide)
    | with_reducible apply ChangesOut.next
    | ((try lift_lets); intro (x : State); refine Changes.via (l := pl) (s := s) (x := x) ?_ (fun hx => ?_); rotate_left; clear_value x; rotate_left; unfold x)
    | ((try lift_lets); intro x; clear_value x)
    | with_reducible assumption
    | with_reducible apply State.raise_changes
    | with_reducible apply State.endHead_changes
    | split
    | (dsimp only))

theorem execWmHoldTimeout_changes {e : Fin 7} {q : Fin 64} {pl : List Part} (hL : Part.Sub [.page .ENG, .page .EMP, .page .HBM, .risen, .ahead, .fields, .recOnce, .records, .hostOut, .hostHeld, .fwIrq, .msix, .edge, .edgeMark, .edgeWb, .selfRefresh, .queues, .step, .free] pl := by first | assumption | exact Part.Sub.via (by assumption) (by decide +kernel)) : ChangesOut pl s (execWmHoldTimeout e q s) := by
  unfold execWmHoldTimeout
  have hk : Changes pl s s := Changes.refl pl s
  repeat' (first
    | with_reducible exact hL
    | with_reducible exact Part.Sub.via hL (by decide)
    | with_reducible apply ChangesOut.next
    | ((try lift_lets); intro (x : State); refine Changes.via (l := pl) (s := s) (x := x) ?_ (fun hx => ?_); rotate_left; clear_value x; rotate_left; unfold x)
    | ((try lift_lets); intro x; clear_value x)
    | with_reducible assumption
    | with_reducible apply State.endHead_changes
    | split
    | (dsimp only))

theorem State.resumeWrite_changes {pl : List Part} {e q : Nat} {fw : Bool} {value : W64} (hk : Changes pl s0 s) (hL : Part.Sub [.page .DIR, .page .ENG, .risen, .hostOut, .hostHeld, .fwIrq, .msix, .queues] pl := by first | assumption | exact Part.Sub.via (by assumption) (by decide +kernel)) : Changes pl s0 (State.resumeWrite s e q fw value) := by
  unfold State.resumeWrite
  repeat' (first
    | with_reducible exact hL
    | with_reducible exact Part.Sub.via hL (by decide)
    | ((try lift_lets); intro (x : State); refine Changes.via (l := pl) (s := s0) (x := x) ?_ (fun hx => ?_); rotate_left; clear_value x; rotate_left; unfold x)
    | ((try lift_lets); intro x; clear_value x)
    | with_reducible assumption
    | with_reducible refine State.regWrite_changes ?_ ?_ (fun u hu => ?_) ?_
    | with_reducible apply State.setF_changes
    | with_reducible apply State.setQueue_changes
    | exact hL _ (Part.mem_elem (by rfl))
    | (refine hL _ (Part.mem_elem ?_); (repeat' split) <;> rfl)
    | split
    | (dsimp only))

theorem execQueueResume_changes {e : Fin 7} {q : Fin 64} {fw : Bool} {value : W64} {pl : List Part} (hL : Part.Sub [.page .DIR, .page .ENG, .risen, .hostOut, .hostHeld, .fwIrq, .msix, .queues] pl := by first | assumption | exact Part.Sub.via (by assumption) (by decide +kernel)) : ChangesOut pl s (execQueueResume e q fw value s) := by
  unfold execQueueResume
  have hk : Changes pl s s := Changes.refl pl s
  repeat' (first
    | with_reducible exact hL
    | with_reducible exact Part.Sub.via hL (by decide)
    | with_reducible apply ChangesOut.next
    | ((try lift_lets); intro (x : State); refine Changes.via (l := pl) (s := s) (x := x) ?_ (fun hx => ?_); rotate_left; clear_value x; rotate_left; unfold x)
    | ((try lift_lets); intro x; clear_value x)
    | with_reducible assumption
    | with_reducible apply State.resumeWrite_changes
    | split
    | (dsimp only))

theorem State.enableQueue_changes {pl : List Part} {e q : Nat} (hk : Changes pl s0 s) (hL : Part.Sub [.page .ENG, .queues] pl := by first | assumption | exact Part.Sub.via (by assumption) (by decide +kernel)) : Changes pl s0 (State.enableQueue s e q) := by
  unfold State.enableQueue
  repeat' (first
    | with_reducible exact hL
    | with_reducible exact Part.Sub.via hL (by decide)
    | ((try lift_lets); intro (x : State); refine Changes.via (l := pl) (s := s0) (x := x) ?_ (fun hx => ?_); rotate_left; clear_value x; rotate_left; unfold x)
    | ((try lift_lets); intro x; clear_value x)
    | with_reducible assumption
    | with_reducible apply State.setF_changes
    | with_reducible apply State.setReg_changes
    | with_reducible apply State.setQueue_changes
    | exact hL _ (Part.mem_elem (by rfl))
    | split
    | (dsimp only))

theorem State.disableQueue_changes {pl : List Part} {e q : Nat} (hk : Changes pl s0 s) (hL : Part.Sub [.page .ENG, .queues] pl := by first | assumption | exact Part.Sub.via (by assumption) (by decide +kernel)) : Changes pl s0 (State.disableQueue s e q) := by
  unfold State.disableQueue
  repeat' (first
    | with_reducible exact hL
    | with_reducible exact Part.Sub.via hL (by decide)
    | ((try lift_lets); intro (x : State); refine Changes.via (l := pl) (s := s0) (x := x) ?_ (fun hx => ?_); rotate_left; clear_value x; rotate_left; unfold x)
    | ((try lift_lets); intro x; clear_value x)
    | with_reducible assumption
    | with_reducible apply State.setF_changes
    | with_reducible apply State.setQueue_changes
    | exact hL _ (Part.mem_elem (by rfl))
    | split
    | (dsimp only))

theorem State.queueWrite_changes {pl : List Part} {e q k : Nat} {fw : Bool} {value : W64} (hk : Changes pl s0 s) (hL : Part.Sub [.page .DIR, .page .ENG, .page .AEN, .page .SEN, .page .MLW, .risen, .hostOut, .hostHeld, .fwIrq, .msix, .queues] pl := by first | assumption | exact Part.Sub.via (by assumption) (by decide +kernel)) : Changes pl s0 (State.queueWrite s e q k fw value) := by
  unfold State.queueWrite
  repeat' (first
    | with_reducible exact hL
    | with_reducible exact Part.Sub.via hL (by decide)
    | ((try lift_lets); intro (x : State); refine Changes.via (l := pl) (s := s0) (x := x) ?_ (fun hx => ?_); rotate_left; clear_value x; rotate_left; unfold x)
    | ((try lift_lets); intro x; clear_value x)
    | with_reducible assumption
    | with_reducible refine State.regWrite_changes ?_ ?_ (fun u hu => ?_) ?_
    | with_reducible apply State.disableQueue_changes
    | with_reducible apply State.enableQueue_changes
    | exact hL _ (Part.mem_elem (by rfl))
    | (refine hL _ (Part.mem_elem ?_); (repeat' split) <;> rfl)
    | split
    | (dsimp only))

theorem execQueueConfigWrite_changes {e : Fin 7} {q : Fin 64} {reg : Fin 4} {fw : Bool} {value : W64} {pl : List Part} (hL : Part.Sub [.page .DIR, .page .ENG, .page .AEN, .page .SEN, .page .MLW, .risen, .hostOut, .hostHeld, .fwIrq, .msix, .queues] pl := by first | assumption | exact Part.Sub.via (by assumption) (by decide +kernel)) : ChangesOut pl s (execQueueConfigWrite e q reg fw value s) := by
  unfold execQueueConfigWrite
  have hk : Changes pl s s := Changes.refl pl s
  repeat' (first
    | with_reducible exact hL
    | with_reducible exact Part.Sub.via hL (by decide)
    | with_reducible apply ChangesOut.next
    | ((try lift_lets); intro (x : State); refine Changes.via (l := pl) (s := s) (x := x) ?_ (fun hx => ?_); rotate_left; clear_value x; rotate_left; unfold x)
    | ((try lift_lets); intro x; clear_value x)
    | with_reducible assumption
    | with_reducible apply State.queueWrite_changes
    | split
    | (dsimp only))

end Sys2Proof.Machine
end

