-- ==== Sys2Proof/Laws/ChangesLink.lean ====
section
/-!
SUPPORT. What the operations of Machine/Link can change (Laws/Changes).
-/
namespace Sys2Proof.Machine

set_option linter.all false

variable {s0 s : State}

theorem State.setVlink_changes {pl : List Part} {l : Nat} {x : VLink} (hk : Changes pl s0 s) (hL : Part.Sub [.links] pl := by first | assumption | exact Part.Sub.via (by assumption) (by decide +kernel)) : Changes pl s0 (State.setVlink s l x) := by
  unfold State.setVlink
  repeat' (first
    | with_reducible exact hL
    | with_reducible exact Part.Sub.via hL (by decide)
    | ((try lift_lets); intro (x : State); refine Changes.via (l := pl) (s := s0) (x := x) ?_ (fun hx => ?_); rotate_left; clear_value x; rotate_left; unfold x)
    | ((try lift_lets); intro x; clear_value x)
    | with_reducible assumption
    | (with_reducible apply Changes.upd_links; first | with_reducible assumption | split)
    | split
    | (dsimp only))

theorem State.onWire_changes {pl : List Part} {l : Nat} {tag : W64} {bs : List Byte} (hk : Changes pl s0 s) (hL : Part.Sub [.page .VPT, .wire] pl := by first | assumption | exact Part.Sub.via (by assumption) (by decide +kernel)) : Changes pl s0 (State.onWire s l tag bs) := by
  unfold State.onWire
  repeat' (first
    | with_reducible exact hL
    | with_reducible exact Part.Sub.via hL (by decide)
    | ((try lift_lets); intro (x : State); refine Changes.via (l := pl) (s := s0) (x := x) ?_ (fun hx => ?_); rotate_left; clear_value x; rotate_left; unfold x)
    | ((try lift_lets); intro x; clear_value x)
    | with_reducible assumption
    | with_reducible apply State.count_changes
    | (with_reducible apply Changes.upd_wire; first | with_reducible assumption | with_reducible apply State.count_changes | split)
    | exact hL _ (Part.mem_elem (by rfl))
    | (refine hL _ (Part.mem_elem ?_); (repeat' split) <;> rfl)
    | split
    | (dsimp only))

theorem State.transmitFrame_changes {pl : List Part} {l : Nat} {bs : List Byte} (hk : Changes pl s0 s) (hL : Part.Sub [.page .VPT, .links, .wire] pl := by first | assumption | exact Part.Sub.via (by assumption) (by decide +kernel)) : Changes pl s0 (State.transmitFrame s l bs) := by
  unfold State.transmitFrame
  repeat' (first
    | with_reducible exact hL
    | with_reducible exact Part.Sub.via hL (by decide)
    | ((try lift_lets); intro (x : State); refine Changes.via (l := pl) (s := s0) (x := x) ?_ (fun hx => ?_); rotate_left; clear_value x; rotate_left; unfold x)
    | ((try lift_lets); intro x; clear_value x)
    | with_reducible assumption
    | with_reducible apply State.onWire_changes
    | with_reducible apply State.setVlink_changes
    | split
    | (dsimp only))

theorem State.sendFrame_changes {pl : List Part} {l : Nat} {bs : List Byte} (hk : Changes pl s0 s) (hL : Part.Sub [.page .VPT, .links, .wire] pl := by first | assumption | exact Part.Sub.via (by assumption) (by decide +kernel)) : Changes pl s0 (State.sendFrame s l bs) := by
  unfold State.sendFrame
  repeat' (first
    | with_reducible exact hL
    | with_reducible exact Part.Sub.via hL (by decide)
    | ((try lift_lets); intro (x : State); refine Changes.via (l := pl) (s := s0) (x := x) ?_ (fun hx => ?_); rotate_left; clear_value x; rotate_left; unfold x)
    | ((try lift_lets); intro x; clear_value x)
    | with_reducible assumption
    | with_reducible apply State.transmitFrame_changes
    | with_reducible apply State.setVlink_changes
    | split
    | (dsimp only))

theorem State.pumpLink_changes {pl : List Part} {l : Nat} {q : List (List Byte)} (hL : Part.Sub [.page .VPT, .links, .wire] pl := by first | assumption | exact Part.Sub.via (by assumption) (by decide +kernel)) : ∀ {s : State}, Changes pl s0 s → Changes pl s0 (s.pumpLink l q) := by
  induction q with
  | nil => exact fun h => State.setVlink_changes h
  | cons b r ih =>
    intro s h
    unfold State.pumpLink
    split
    · exact ih (State.transmitFrame_changes h)
    · exact State.setVlink_changes h

theorem State.beginRetry_changes {pl : List Part} {l : Nat} (hk : Changes pl s0 s) (hL : Part.Sub [.page .VPT, .links] pl := by first | assumption | exact Part.Sub.via (by assumption) (by decide +kernel)) : Changes pl s0 (State.beginRetry s l) := by
  unfold State.beginRetry
  repeat' (first
    | with_reducible exact hL
    | with_reducible exact Part.Sub.via hL (by decide)
    | ((try lift_lets); intro (x : State); refine Changes.via (l := pl) (s := s0) (x := x) ?_ (fun hx => ?_); rotate_left; clear_value x; rotate_left; unfold x)
    | ((try lift_lets); intro x; clear_value x)
    | with_reducible assumption
    | with_reducible apply State.count_changes
    | with_reducible apply State.setF_changes
    | with_reducible apply State.setVlink_changes
    | exact hL _ (Part.mem_elem (by rfl))
    | (refine hL _ (Part.mem_elem ?_); (repeat' split) <;> rfl)
    | split
    | (dsimp only))

theorem State.replay_changes {pl : List Part} {l : Nat} (hk : Changes pl s0 s) (hL : Part.Sub [.page .VPT, .links, .wire] pl := by first | assumption | exact Part.Sub.via (by assumption) (by decide +kernel)) : Changes pl s0 (State.replay s l) := by
  unfold State.replay
  repeat' (first
    | with_reducible exact hL
    | with_reducible exact Part.Sub.via hL (by decide)
    | ((try lift_lets); intro (x : State); refine Changes.via (l := pl) (s := s0) (x := x) ?_ (fun hx => ?_); rotate_left; clear_value x; rotate_left; unfold x)
    | ((try lift_lets); intro x; clear_value x)
    | with_reducible assumption
    | with_reducible apply State.count_changes
    | with_reducible apply State.beginRetry_changes
    | with_reducible apply State.onWire_changes
    | with_reducible refine Changes.foldl ?_ (fun u x hu => ?_)
    | exact hL _ (Part.mem_elem (by rfl))
    | (refine hL _ (Part.mem_elem ?_); (repeat' split) <;> rfl)
    | split
    | (dsimp only))

theorem State.acked_changes {pl : List Part} {l ackSeq : Nat} (hk : Changes pl s0 s) (hL : Part.Sub [.page .VPT, .links, .wire] pl := by first | assumption | exact Part.Sub.via (by assumption) (by decide +kernel)) : Changes pl s0 (State.acked s l ackSeq) := by
  unfold State.acked
  repeat' (first
    | with_reducible exact hL
    | with_reducible exact Part.Sub.via hL (by decide)
    | ((try lift_lets); intro (x : State); refine Changes.via (l := pl) (s := s0) (x := x) ?_ (fun hx => ?_); rotate_left; clear_value x; rotate_left; unfold x)
    | ((try lift_lets); intro x; clear_value x)
    | with_reducible assumption
    | with_reducible apply State.pumpLink_changes
    | with_reducible apply State.setVlink_changes
    | split
    | (dsimp only))

theorem State.sendNak_changes {pl : List Part} {l : Nat} (hk : Changes pl s0 s) (hL : Part.Sub [.page .VPT, .links, .wire] pl := by first | assumption | exact Part.Sub.via (by assumption) (by decide +kernel)) : Changes pl s0 (State.sendNak s l) := by
  unfold State.sendNak
  repeat' (first
    | with_reducible exact hL
    | with_reducible exact Part.Sub.via hL (by decide)
    | ((try lift_lets); intro (x : State); refine Changes.via (l := pl) (s := s0) (x := x) ?_ (fun hx => ?_); rotate_left; clear_value x; rotate_left; unfold x)
    | ((try lift_lets); intro x; clear_value x)
    | with_reducible assumption
    | with_reducible apply State.count_changes
    | with_reducible apply State.onWire_changes
    | with_reducible apply State.setVlink_changes
    | exact hL _ (Part.mem_elem (by rfl))
    | (refine hL _ (Part.mem_elem ?_); (repeat' split) <;> rfl)
    | split
    | (dsimp only))

theorem State.tagWork_changes {pl : List Part} {l : Nat} {tag : W64} (hk : Changes pl s0 s) (hL : Part.Sub [.page .VPT, .links, .wire] pl := by first | assumption | exact Part.Sub.via (by assumption) (by decide +kernel)) : Changes pl s0 (State.tagWork s l tag) := by
  unfold State.tagWork
  repeat' (first
    | with_reducible exact hL
    | with_reducible exact Part.Sub.via hL (by decide)
    | ((try lift_lets); intro (x : State); refine Changes.via (l := pl) (s := s0) (x := x) ?_ (fun hx => ?_); rotate_left; clear_value x; rotate_left; unfold x)
    | ((try lift_lets); intro x; clear_value x)
    | with_reducible assumption
    | with_reducible apply State.acked_changes
    | with_reducible apply State.replay_changes
    | split
    | (dsimp only))

theorem State.recvFrame_changes {pl : List Part} {l : Nat} {tag : W64} {b : List Byte} (hk : Changes pl s0 s) (hL : Part.Sub [.page .VPT, .links, .wire] pl := by first | assumption | exact Part.Sub.via (by assumption) (by decide +kernel)) : Changes pl s0 (State.recvFrame s l tag b).1 := by
  unfold State.recvFrame
  repeat' (first
    | with_reducible exact hL
    | with_reducible exact Part.Sub.via hL (by decide)
    | ((try lift_lets); intro (x : State); refine Changes.via (l := pl) (s := s0) (x := x) ?_ (fun hx => ?_); rotate_left; clear_value x; rotate_left; unfold x)
    | ((try lift_lets); intro x; clear_value x)
    | with_reducible assumption
    | with_reducible apply State.count_changes
    | with_reducible apply State.tagWork_changes
    | with_reducible apply State.sendNak_changes
    | with_reducible apply State.setVlink_changes
    | exact hL _ (Part.mem_elem (by rfl))
    | (refine hL _ (Part.mem_elem ?_); (repeat' split) <;> rfl)
    | split
    | (dsimp only))

theorem State.answerFrame_changes {pl : List Part} {l : Nat} {f : Frame} {status : Nat} (hk : Changes pl s0 s) (hL : Part.Sub [.page .VPT, .links, .wire] pl := by first | assumption | exact Part.Sub.via (by assumption) (by decide +kernel)) : Changes pl s0 (State.answerFrame s l f status) := by
  unfold State.answerFrame
  repeat' (first
    | with_reducible exact hL
    | with_reducible exact Part.Sub.via hL (by decide)
    | ((try lift_lets); intro (x : State); refine Changes.via (l := pl) (s := s0) (x := x) ?_ (fun hx => ?_); rotate_left; clear_value x; rotate_left; unfold x)
    | ((try lift_lets); intro x; clear_value x)
    | with_reducible assumption
    | with_reducible apply State.sendFrame_changes
    | split
    | (dsimp only))

end Sys2Proof.Machine
end

