-- ==== Sys2Proof/Laws/ChangesStreamOps.lean ====
section
/-!
SUPPORT. What the operations of Machine/StreamOps can change (Laws/Changes).
-/
namespace Sys2Proof.Machine

set_option linter.all false

variable {s0 s : State}

theorem State.setCtx_changes {pl : List Part} {k : Nat} {c : StreamCtx} (hk : Changes pl s0 s) (hL : Part.Sub [.ctxs] pl := by first | assumption | exact Part.Sub.via (by assumption) (by decide +kernel)) : Changes pl s0 (State.setCtx s k c) := by
  unfold State.setCtx
  repeat' (first
    | with_reducible exact hL
    | with_reducible exact Part.Sub.via hL (by decide)
    | ((try lift_lets); intro (x : State); refine Changes.via (l := pl) (s := s0) (x := x) ?_ (fun hx => ?_); rotate_left; clear_value x; rotate_left; unfold x)
    | ((try lift_lets); intro x; clear_value x)
    | with_reducible assumption
    | (with_reducible apply Changes.upd_ctxs; first | with_reducible assumption | split)
    | split
    | (dsimp only))

theorem State.notePeak_changes {pl : List Part} {p : Fin 2} {g : Nat} (hk : Changes pl s0 s) (hL : Part.Sub [.page .SEN] pl := by first | assumption | exact Part.Sub.via (by assumption) (by decide +kernel)) : Changes pl s0 (State.notePeak s p g) := by
  unfold State.notePeak
  repeat' (first
    | with_reducible exact hL
    | with_reducible exact Part.Sub.via hL (by decide)
    | ((try lift_lets); intro (x : State); refine Changes.via (l := pl) (s := s0) (x := x) ?_ (fun hx => ?_); rotate_left; clear_value x; rotate_left; unfold x)
    | ((try lift_lets); intro x; clear_value x)
    | with_reducible assumption
    | with_reducible apply State.setF_changes
    | exact hL _ (Part.mem_elem (by rfl))
    | (refine hL _ (Part.mem_elem ?_); (repeat' split) <;> rfl)
    | split
    | (dsimp only))

theorem State.countCtx_changes {pl : List Part} {k : Nat} {x : Ctr} {n : Nat} {wm : Waymark} (hk : Changes pl s0 s) (hm : Part.page x.typ ∈ pl := by first | assumption | exact Part.Sub.mem (by assumption) (Part.mem_elem (by rfl))) (hL : Part.Sub [.risen, .ahead] pl := by first | assumption | exact Part.Sub.via (by assumption) (by decide +kernel)) : Changes pl s0 (State.countCtx s k x n wm) := by
  unfold State.countCtx
  repeat' (first
    | with_reducible exact hL
    | with_reducible exact Part.Sub.via hL (by decide)
    | ((try lift_lets); intro (x : State); refine Changes.via (l := pl) (s := s0) (x := x) ?_ (fun hx => ?_); rotate_left; clear_value x; rotate_left; unfold x)
    | ((try lift_lets); intro x; clear_value x)
    | with_reducible assumption
    | with_reducible apply State.countWm_changes
    | exact hm
    | exact hL _ (Part.mem_elem (by rfl))
    | split
    | (dsimp only))

theorem State.countCtxIrq_changes {pl : List Part} {k : Nat} {x : Ctr} {bit : Nat} {wm : Waymark} (hk : Changes pl s0 s) (hm : Part.page x.typ ∈ pl := by first | assumption | exact Part.Sub.mem (by assumption) (Part.mem_elem (by rfl))) (hL : Part.Sub [.page .SEN, .risen, .ahead, .hostOut, .hostHeld, .fwIrq, .msix] pl := by first | assumption | exact Part.Sub.via (by assumption) (by decide +kernel)) : Changes pl s0 (State.countCtxIrq s k x bit wm) := by
  unfold State.countCtxIrq
  repeat' (first
    | with_reducible exact hL
    | with_reducible exact Part.Sub.via hL (by decide)
    | ((try lift_lets); intro (x : State); refine Changes.via (l := pl) (s := s0) (x := x) ?_ (fun hx => ?_); rotate_left; clear_value x; rotate_left; unfold x)
    | ((try lift_lets); intro x; clear_value x)
    | with_reducible assumption
    | with_reducible apply State.countWm_changes
    | with_reducible apply State.setIrq_changes
    | exact hm
    | exact hL _ (Part.mem_elem (by rfl))
    | (refine hL _ (Part.mem_elem ?_); (repeat' split) <;> rfl)
    | split
    | (dsimp only))

theorem State.noteDry_changes {pl : List Part} {k : Nat} (hk : Changes pl s0 s) (hL : Part.Sub [.page .SEN, .risen, .ahead, .hostOut, .hostHeld, .fwIrq, .msix, .ctxs] pl := by first | assumption | exact Part.Sub.via (by assumption) (by decide +kernel)) : Changes pl s0 (State.noteDry s k) := by
  unfold State.noteDry
  repeat' (first
    | with_reducible exact hL
    | with_reducible exact Part.Sub.via hL (by decide)
    | ((try lift_lets); intro (x : State); refine Changes.via (l := pl) (s := s0) (x := x) ?_ (fun hx => ?_); rotate_left; clear_value x; rotate_left; unfold x)
    | ((try lift_lets); intro x; clear_value x)
    | with_reducible assumption
    | with_reducible apply State.countCtxIrq_changes
    | with_reducible apply State.setCtx_changes
    | exact hL _ (Part.mem_elem (by rfl))
    | (refine hL _ (Part.mem_elem ?_); (repeat' split) <;> rfl)
    | split
    | (dsimp only))

theorem State.streamError_changes {pl : List Part} {p : Fin 2} {status refuse ctx : Nat} {wm : Waymark} {sid field : Nat} {cyc : W64} (hk : Changes pl s0 s) (hL : Part.Sub [.page .SEN, .risen, .recOnce, .records, .hostOut, .hostHeld, .fwIrq, .msix] pl := by first | assumption | exact Part.Sub.via (by assumption) (by decide +kernel)) : Changes pl s0 (State.streamError s p status refuse ctx wm sid field cyc) := by
  unfold State.streamError
  repeat' (first
    | with_reducible exact hL
    | with_reducible exact Part.Sub.via hL (by decide)
    | ((try lift_lets); intro (x : State); refine Changes.via (l := pl) (s := s0) (x := x) ?_ (fun hx => ?_); rotate_left; clear_value x; rotate_left; unfold x)
    | ((try lift_lets); intro x; clear_value x)
    | with_reducible assumption
    | with_reducible apply State.raiseOnce_changes
    | with_reducible apply State.captureFirst_changes
    | with_reducible apply State.setErr_changes
    | exact hL _ (Part.mem_elem (by rfl))
    | (refine hL _ (Part.mem_elem ?_); (repeat' split) <;> rfl)
    | split
    | (dsimp only)
    | (dsimp only [id]))

theorem State.cancelsDone_changes {pl : List Part} {p : Fin 2} (hk : Changes pl s0 s) (hL : Part.Sub [.page .ENG, .page .EMP, .page .HBM, .risen, .ahead, .fields, .recOnce, .records, .hostOut, .hostHeld, .fwIrq, .msix, .edge, .edgeMark, .edgeWb, .selfRefresh, .queues, .step, .free] pl := by first | assumption | exact Part.Sub.via (by assumption) (by decide +kernel)) : Changes pl s0 (State.cancelsDone s p) := by
  unfold State.cancelsDone
  repeat' (first
    | with_reducible exact hL
    | with_reducible exact Part.Sub.via hL (by decide)
    | ((try lift_lets); intro (x : State); refine Changes.via (l := pl) (s := s0) (x := x) ?_ (fun hx => ?_); rotate_left; clear_value x; rotate_left; unfold x)
    | ((try lift_lets); intro x; clear_value x)
    | with_reducible assumption
    | with_reducible apply State.complete_changes
    | with_reducible refine Changes.foldl ?_ (fun u x hu => ?_)
    | split
    | (dsimp only))

theorem State.freeCtx_changes {pl : List Part} {k status : Nat} (hk : Changes pl s0 s) (hL : Part.Sub [.page .ENG, .page .SEN, .page .EMP, .page .HBM, .risen, .ahead, .fields, .recOnce, .records, .hostOut, .hostHeld, .fwIrq, .msix, .edge, .edgeMark, .edgeWb, .selfRefresh, .ctxs, .queues, .step, .free] pl := by first | assumption | exact Part.Sub.via (by assumption) (by decide +kernel)) : Changes pl s0 (State.freeCtx s k status) := by
  unfold State.freeCtx
  repeat' (first
    | with_reducible exact hL
    | with_reducible exact Part.Sub.via hL (by decide)
    | ((try lift_lets); intro (x : State); refine Changes.via (l := pl) (s := s0) (x := x) ?_ (fun hx => ?_); rotate_left; clear_value x; rotate_left; unfold x)
    | ((try lift_lets); intro x; clear_value x)
    | with_reducible assumption
    | with_reducible apply State.cancelsDone_changes
    | with_reducible apply State.countCtx_changes
    | with_reducible apply State.setCtx_changes
    | with_reducible apply State.complete_changes
    | exact hL _ (Part.mem_elem (by rfl))
    | (refine hL _ (Part.mem_elem ?_); (repeat' split) <;> rfl)
    | split
    | (dsimp only))

theorem State.endCtx_changes {pl : List Part} {k status refuse : Nat} (hk : Changes pl s0 s) (hL : Part.Sub [.page .SEN, .risen, .ahead, .recOnce, .records, .hostOut, .hostHeld, .fwIrq, .msix, .ctxs] pl := by first | assumption | exact Part.Sub.via (by assumption) (by decide +kernel)) : Changes pl s0 (State.endCtx s k status refuse) := by
  unfold State.endCtx
  repeat' (first
    | with_reducible exact hL
    | with_reducible exact Part.Sub.via hL (by decide)
    | ((try lift_lets); intro (x : State); refine Changes.via (l := pl) (s := s0) (x := x) ?_ (fun hx => ?_); rotate_left; clear_value x; rotate_left; unfold x)
    | ((try lift_lets); intro x; clear_value x)
    | with_reducible assumption
    | with_reducible apply State.streamError_changes
    | with_reducible apply State.countCtx_changes
    | with_reducible apply State.setCtx_changes
    | exact hL _ (Part.mem_elem (by rfl))
    | (refine hL _ (Part.mem_elem ?_); (repeat' split) <;> rfl)
    | split
    | (dsimp only))

theorem State.streamBad_changes {pl : List Part} {k : Nat} (hk : Changes pl s0 s) (hL : Part.Sub [.page .SEN, .risen, .ahead, .recOnce, .records, .hostOut, .hostHeld, .fwIrq, .msix, .ctxs] pl := by first | assumption | exact Part.Sub.via (by assumption) (by decide +kernel)) : Changes pl s0 (State.streamBad s k) := by
  unfold State.streamBad
  repeat' (first
    | with_reducible exact hL
    | with_reducible exact Part.Sub.via hL (by decide)
    | ((try lift_lets); intro (x : State); refine Changes.via (l := pl) (s := s0) (x := x) ?_ (fun hx => ?_); rotate_left; clear_value x; rotate_left; unfold x)
    | ((try lift_lets); intro x; clear_value x)
    | with_reducible assumption
    | with_reducible apply State.endCtx_changes
    | split
    | (dsimp only))

theorem State.cancelStreams_changes {pl : List Part} {p : Fin 2} {scope key : Nat} (hk : Changes pl s0 s) (hL : Part.Sub [.page .SEN, .risen, .ahead, .recOnce, .records, .hostOut, .hostHeld, .fwIrq, .msix, .ctxs] pl := by first | assumption | exact Part.Sub.via (by assumption) (by decide +kernel)) : Changes pl s0 (State.cancelStreams s p scope key) := by
  unfold State.cancelStreams
  repeat' (first
    | with_reducible exact hL
    | with_reducible exact Part.Sub.via hL (by decide)
    | ((try lift_lets); intro (x : State); refine Changes.via (l := pl) (s := s0) (x := x) ?_ (fun hx => ?_); rotate_left; clear_value x; rotate_left; unfold x)
    | ((try lift_lets); intro x; clear_value x)
    | with_reducible assumption
    | with_reducible apply State.endCtx_changes
    | with_reducible refine Changes.foldl ?_ (fun u x hu => ?_)
    | split
    | (dsimp only))

end Sys2Proof.Machine
end

