-- ==== Sys2Proof/Laws/ChangesMarkers.lean ====
section
/-!
SUPPORT. What the operations of Machine/Markers can change (Laws/Changes).
-/
namespace Sys2Proof.Machine

set_option linter.all false

variable {s0 s : State}

theorem execOpMsig_changes {a : TileAddr} {task : Fin 4} {slot : Fin 128} {pl : List Part} (hL : Part.Sub [.tiles, .fields] pl := by first | assumption | exact Part.Sub.via (by assumption) (by decide +kernel)) : ChangesOut pl s (execOpMsig a task slot s) := by
  unfold execOpMsig
  have hk : Changes pl s s := Changes.refl pl s
  repeat' (first
    | with_reducible exact hL
    | with_reducible exact Part.Sub.via hL (by decide)
    | with_reducible apply ChangesOut.next
    | ((try lift_lets); intro (x : State); refine Changes.via (l := pl) (s := s) (x := x) ?_ (fun hx => ?_); rotate_left; clear_value x; rotate_left; unfold x)
    | ((try lift_lets); intro x; clear_value x)
    | with_reducible assumption
    | with_reducible refine State.fire_changes ?_ (fun w t u hu => ?_) ?_
    | with_reducible apply State.signal_changes
    | exact hL _ (Part.mem_elem (by rfl))
    | (refine hL _ (Part.mem_elem ?_); (repeat' split) <;> rfl)
    | split
    | (dsimp only))

theorem execOpMsigWatch_changes {a : TileAddr} {task : Fin 4} {slot : Fin 128} {pl : List Part} (hL : Part.Sub [.page .MRK, .tiles] pl := by first | assumption | exact Part.Sub.via (by assumption) (by decide +kernel)) : ChangesOut pl s (execOpMsigWatch a task slot s) := by
  unfold execOpMsigWatch
  have hk : Changes pl s s := Changes.refl pl s
  repeat' (first
    | with_reducible exact hL
    | with_reducible exact Part.Sub.via hL (by decide)
    | with_reducible apply ChangesOut.next
    | ((try lift_lets); intro (x : State); refine Changes.via (l := pl) (s := s) (x := x) ?_ (fun hx => ?_); rotate_left; clear_value x; rotate_left; unfold x)
    | ((try lift_lets); intro x; clear_value x)
    | with_reducible assumption
    | with_reducible apply State.count_changes
    | with_reducible apply State.setTile_changes
    | with_reducible refine State.fire_changes ?_ (fun w t u hu => ?_) ?_
    | exact hL _ (Part.mem_elem (by rfl))
    | (refine hL _ (Part.mem_elem ?_); (repeat' split) <;> rfl)
    | split
    | (dsimp only))

theorem execOpBarr_changes {a : TileAddr} {task : Fin 4} {slot : Fin 128} {pl : List Part} (hL : Part.Sub [.page .MLW, .page .MRK, .risen, .tiles, .hostOut, .hostHeld, .fwIrq, .msix] pl := by first | assumption | exact Part.Sub.via (by assumption) (by decide +kernel)) : ChangesOut pl s (execOpBarr a task slot s) := by
  unfold execOpBarr
  have hk : Changes pl s s := Changes.refl pl s
  repeat' (first
    | with_reducible exact hL
    | with_reducible exact Part.Sub.via hL (by decide)
    | with_reducible apply ChangesOut.next
    | ((try lift_lets); intro (x : State); refine Changes.via (l := pl) (s := s) (x := x) ?_ (fun hx => ?_); rotate_left; clear_value x; rotate_left; unfold x)
    | ((try lift_lets); intro x; clear_value x)
    | with_reducible assumption
    | with_reducible apply State.openChannel_changes
    | with_reducible apply State.count_changes
    | with_reducible apply State.setTile_changes
    | with_reducible refine State.fire_changes ?_ (fun w t u hu => ?_) ?_
    | with_reducible apply State.markerCapture_changes
    | exact hL _ (Part.mem_elem (by rfl))
    | (refine hL _ (Part.mem_elem ?_); (repeat' split) <;> rfl)
    | split
    | (dsimp only))

theorem State.applyMark_changes {pl : List Part} {f : FieldAddr} {op : MarkOp} (hk : Changes pl s0 s) (hL : Part.Sub [.page .MRK, .risen, .fields, .hostOut, .hostHeld, .fwIrq, .msix] pl := by first | assumption | exact Part.Sub.via (by assumption) (by decide +kernel)) : Changes pl s0 (State.applyMark s f op) := by
  unfold State.applyMark
  repeat' (first
    | with_reducible exact hL
    | with_reducible exact Part.Sub.via hL (by decide)
    | ((try lift_lets); intro (x : State); refine Changes.via (l := pl) (s := s0) (x := x) ?_ (fun hx => ?_); rotate_left; clear_value x; rotate_left; unfold x)
    | ((try lift_lets); intro x; clear_value x)
    | with_reducible assumption
    | with_reducible apply State.count_changes
    | with_reducible apply State.setField_changes
    | with_reducible apply State.countIrq_changes
    | exact hL _ (Part.mem_elem (by rfl))
    | (refine hL _ (Part.mem_elem ?_); (repeat' split) <;> rfl)
    | split
    | (dsimp only))

theorem State.evalWatches_changes {pl : List Part} {f : FieldAddr} (hk : Changes pl s0 s) (hL : Part.Sub [.tiles] pl := by first | assumption | exact Part.Sub.via (by assumption) (by decide +kernel)) : Changes pl s0 (State.evalWatches s f) := by
  unfold State.evalWatches
  repeat' (first
    | with_reducible exact hL
    | with_reducible exact Part.Sub.via hL (by decide)
    | ((try lift_lets); intro (x : State); refine Changes.via (l := pl) (s := s0) (x := x) ?_ (fun hx => ?_); rotate_left; clear_value x; rotate_left; unfold x)
    | ((try lift_lets); intro x; clear_value x)
    | with_reducible assumption
    | with_reducible apply State.setTile_changes
    | with_reducible refine Changes.foldl ?_ (fun u x hu => ?_)
    | split
    | (dsimp only))

theorem execMarkerUpdate_changes {f : FieldAddr} {pl : List Part} (hL : Part.Sub [.page .ENG, .page .SEN, .page .EMP, .page .HBM, .page .VPT, .page .MRK, .risen, .ahead, .tiles, .fields, .recOnce, .records, .hostOut, .hostHeld, .fwIrq, .msix, .edge, .edgeMark, .edgeWb, .selfRefresh, .ctxs, .queues, .step, .links, .wire, .free] pl := by first | assumption | exact Part.Sub.via (by assumption) (by decide +kernel)) : ChangesOut pl s (execMarkerUpdate f s) := by
  unfold execMarkerUpdate
  have hk : Changes pl s s := Changes.refl pl s
  repeat' (first
    | with_reducible exact hL
    | with_reducible exact Part.Sub.via hL (by decide)
    | with_reducible apply ChangesOut.next
    | ((try lift_lets); intro (x : State); refine Changes.via (l := pl) (s := s) (x := x) ?_ (fun hx => ?_); rotate_left; clear_value x; rotate_left; unfold x)
    | ((try lift_lets); intro x; clear_value x)
    | with_reducible assumption
    | with_reducible apply State.noteDry_changes
    | with_reducible apply State.setField_changes
    | with_reducible apply State.evalWatches_changes
    | with_reducible apply State.applyMark_changes
    | with_reducible apply State.sendFrame_changes
    | with_reducible apply State.evalWaits_changes
    | with_reducible apply State.complete_changes
    | with_reducible refine Changes.foldl ?_ (fun u x hu => ?_)
    | split
    | (dsimp only))

theorem execMarkerWrite_changes {q : Fin 64} {pl : List Part} (hL : Part.Sub [.page .ENG, .page .EMP, .page .HBM, .risen, .ahead, .fields, .recOnce, .records, .hostOut, .hostHeld, .fwIrq, .msix, .edge, .edgeMark, .edgeWb, .selfRefresh, .queues, .step, .free] pl := by first | assumption | exact Part.Sub.via (by assumption) (by decide +kernel)) : ChangesOut pl s (execMarkerWrite q s) := by
  unfold execMarkerWrite
  have hk : Changes pl s s := Changes.refl pl s
  repeat' (first
    | with_reducible exact hL
    | with_reducible exact Part.Sub.via hL (by decide)
    | with_reducible apply ChangesOut.next
    | ((try lift_lets); intro (x : State); refine Changes.via (l := pl) (s := s) (x := x) ?_ (fun hx => ?_); rotate_left; clear_value x; rotate_left; unfold x)
    | ((try lift_lets); intro x; clear_value x)
    | with_reducible assumption
    | with_reducible apply State.markOp_changes
    | with_reducible apply State.complete_changes
    | with_reducible apply State.setStage_changes
    | split
    | (dsimp only))

theorem execWatchDelivery_changes {a : TileAddr} {task : Fin 4} {pl : List Part} (hL : Part.Sub [.page .TSQ, .page .MRK, .risen, .tiles, .recOnce, .records, .hostOut, .hostHeld, .fwIrq, .msix] pl := by first | assumption | exact Part.Sub.via (by assumption) (by decide +kernel)) : ChangesOut pl s (execWatchDelivery a task s) := by
  unfold execWatchDelivery
  have hk : Changes pl s s := Changes.refl pl s
  repeat' (first
    | with_reducible exact hL
    | with_reducible exact Part.Sub.via hL (by decide)
    | with_reducible apply ChangesOut.next
    | ((try lift_lets); intro (x : State); refine Changes.via (l := pl) (s := s) (x := x) ?_ (fun hx => ?_); rotate_left; clear_value x; rotate_left; unfold x)
    | ((try lift_lets); intro x; clear_value x)
    | with_reducible assumption
    | with_reducible apply State.enterCq_changes
    | with_reducible apply State.count_changes
    | with_reducible apply State.setTile_changes
    | exact hL _ (Part.mem_elem (by rfl))
    | (refine hL _ (Part.mem_elem ?_); (repeat' split) <;> rfl)
    | split
    | (dsimp only))

theorem State.fieldTimeout_changes {pl : List Part} {f : FieldAddr} {row col : Nat} {named : Bool} (hk : Changes pl s0 s) (hL : Part.Sub [.causes] pl := by first | assumption | exact Part.Sub.via (by assumption) (by decide +kernel)) : Changes pl s0 (State.fieldTimeout s f row col named) := by
  unfold State.fieldTimeout
  repeat' (first
    | with_reducible exact hL
    | with_reducible exact Part.Sub.via hL (by decide)
    | ((try lift_lets); intro (x : State); refine Changes.via (l := pl) (s := s0) (x := x) ?_ (fun hx => ?_); rotate_left; clear_value x; rotate_left; unfold x)
    | ((try lift_lets); intro x; clear_value x)
    | with_reducible assumption
    | (with_reducible apply Changes.upd_causes; first | with_reducible assumption | split)
    | split
    | (dsimp only))

theorem execWatchTimeout_changes {a : TileAddr} {task : Fin 4} {pl : List Part} (hL : Part.Sub [.page .MRK, .risen, .tiles, .recOnce, .records, .causes, .hostOut, .hostHeld, .fwIrq, .msix] pl := by first | assumption | exact Part.Sub.via (by assumption) (by decide +kernel)) : ChangesOut pl s (execWatchTimeout a task s) := by
  unfold execWatchTimeout
  have hk : Changes pl s s := Changes.refl pl s
  repeat' (first
    | with_reducible exact hL
    | with_reducible exact Part.Sub.via hL (by decide)
    | with_reducible apply ChangesOut.next
    | ((try lift_lets); intro (x : State); refine Changes.via (l := pl) (s := s) (x := x) ?_ (fun hx => ?_); rotate_left; clear_value x; rotate_left; unfold x)
    | ((try lift_lets); intro x; clear_value x)
    | with_reducible assumption
    | with_reducible apply State.raiseOnce_changes
    | with_reducible apply State.count_changes
    | with_reducible apply State.setTile_changes
    | with_reducible apply State.fieldTimeout_changes
    | with_reducible apply State.markerCapture_changes
    | exact hL _ (Part.mem_elem (by rfl))
    | (refine hL _ (Part.mem_elem ?_); (repeat' split) <;> rfl)
    | split
    | (dsimp only))

theorem State.setRemote_changes {pl : List Part} {p : Fin 2} {ch : Nat} {v : Bool} (hk : Changes pl s0 s) (hL : Part.Sub [.remoteRoot] pl := by first | assumption | exact Part.Sub.via (by assumption) (by decide +kernel)) : Changes pl s0 (State.setRemote s p ch v) := by
  unfold State.setRemote
  repeat' (first
    | with_reducible exact hL
    | with_reducible exact Part.Sub.via hL (by decide)
    | ((try lift_lets); intro (x : State); refine Changes.via (l := pl) (s := s0) (x := x) ?_ (fun hx => ?_); rotate_left; clear_value x; rotate_left; unfold x)
    | ((try lift_lets); intro x; clear_value x)
    | with_reducible assumption
    | (with_reducible apply Changes.upd_remoteRoot; first | with_reducible assumption | split)
    | split
    | (dsimp only))

theorem State.sendCompletion_changes {pl : List Part} {p : Fin 2} {ch : Nat} (hk : Changes pl s0 s) (hL : Part.Sub [.page .TSQ, .risen, .tiles, .recOnce, .records, .hostOut, .hostHeld, .fwIrq, .msix] pl := by first | assumption | exact Part.Sub.via (by assumption) (by decide +kernel)) : Changes pl s0 (State.sendCompletion s p ch) := by
  unfold State.sendCompletion
  repeat' (first
    | with_reducible exact hL
    | with_reducible exact Part.Sub.via hL (by decide)
    | ((try lift_lets); intro (x : State); refine Changes.via (l := pl) (s := s0) (x := x) ?_ (fun hx => ?_); rotate_left; clear_value x; rotate_left; unfold x)
    | ((try lift_lets); intro x; clear_value x)
    | with_reducible assumption
    | with_reducible apply State.barrierToken_changes
    | with_reducible apply State.setTile_changes
    | with_reducible refine Changes.foldl ?_ (fun u x hu => ?_)
    | split
    | (dsimp only))

theorem State.aeCompletion_changes {pl : List Part} {p : Fin 2} (hk : Changes pl s0 s) (hL : Part.Sub [.page .ENG, .page .AEN, .page .MLW, .page .EMP, .page .HBM, .page .MESH, .page .TSQ, .page .SPD, .page .PAS, .page .FEN, .page .FLT, .risen, .ahead, .tiles, .fields, .recOnce, .records, .hostOut, .hostHeld, .fwIrq, .msix, .edge, .edgeMark, .edgeWb, .selfRefresh, .edgeHeld, .ctxs, .queues, .step, .array, .free] pl := by first | assumption | exact Part.Sub.via (by assumption) (by decide +kernel)) : Changes pl s0 (State.aeCompletion s p) := by
  unfold State.aeCompletion
  repeat' (first
    | with_reducible exact hL
    | with_reducible exact Part.Sub.via hL (by decide)
    | ((try lift_lets); intro (x : State); refine Changes.via (l := pl) (s := s0) (x := x) ?_ (fun hx => ?_); rotate_left; clear_value x; rotate_left; unfold x)
    | ((try lift_lets); intro x; clear_value x)
    | with_reducible assumption
    | with_reducible apply State.passEnd_changes
    | with_reducible apply State.passGo_changes
    | with_reducible apply State.setAe_changes
    | split
    | (dsimp only))

theorem execBarrierComplete_changes {p : Fin 2} {ch : Fin 16} {pl : List Part} (hL : Part.Sub [.page .ENG, .page .AEN, .page .MLW, .page .EMP, .page .HBM, .page .MESH, .page .TSQ, .page .SPD, .page .PAS, .page .FEN, .page .FLT, .risen, .ahead, .tiles, .fields, .recOnce, .records, .hostOut, .hostHeld, .fwIrq, .msix, .edge, .edgeMark, .edgeWb, .selfRefresh, .edgeHeld, .aeArrived, .ctxs, .queues, .step, .array, .remoteRoot, .free] pl := by first | assumption | exact Part.Sub.via (by assumption) (by decide +kernel)) : ChangesOut pl s (execBarrierComplete p ch s) := by
  unfold execBarrierComplete
  have hk : Changes pl s s := Changes.refl pl s
  repeat' (first
    | with_reducible exact hL
    | with_reducible exact Part.Sub.via hL (by decide)
    | with_reducible apply ChangesOut.next
    | ((try lift_lets); intro (x : State); refine Changes.via (l := pl) (s := s) (x := x) ?_ (fun hx => ?_); rotate_left; clear_value x; rotate_left; unfold x)
    | ((try lift_lets); intro x; clear_value x)
    | with_reducible assumption
    | with_reducible apply State.count_changes
    | with_reducible apply State.setF_changes
    | with_reducible apply State.aeCompletion_changes
    | with_reducible apply State.sendCompletion_changes
    | with_reducible apply State.setRemote_changes
    | (with_reducible apply Changes.upd_aeArrived; first | with_reducible assumption | with_reducible apply State.count_changes | with_reducible apply State.setF_changes | with_reducible apply State.aeCompletion_changes | with_reducible apply State.sendCompletion_changes | with_reducible apply State.setRemote_changes | split)
    | exact hL _ (Part.mem_elem (by rfl))
    | (refine hL _ (Part.mem_elem ?_); (repeat' split) <;> rfl)
    | split
    | (dsimp only))

theorem execBarrierWatchdog_changes {p : Fin 2} {ch : Fin 16} {pl : List Part} (hL : Part.Sub [.page .MLW, .page .MRK, .risen, .records, .causes, .hostOut, .hostHeld, .fwIrq, .msix] pl := by first | assumption | exact Part.Sub.via (by assumption) (by decide +kernel)) : ChangesOut pl s (execBarrierWatchdog p ch s) := by
  unfold execBarrierWatchdog
  have hk : Changes pl s s := Changes.refl pl s
  repeat' (first
    | with_reducible exact hL
    | with_reducible exact Part.Sub.via hL (by decide)
    | with_reducible apply ChangesOut.next
    | ((try lift_lets); intro (x : State); refine Changes.via (l := pl) (s := s) (x := x) ?_ (fun hx => ?_); rotate_left; clear_value x; rotate_left; unfold x)
    | ((try lift_lets); intro x; clear_value x)
    | with_reducible assumption
    | with_reducible apply State.planeCause_changes
    | with_reducible apply State.raise_changes
    | with_reducible apply State.captureFirst_changes
    | with_reducible apply State.count_changes
    | with_reducible apply State.setErr_changes
    | with_reducible apply State.setF_changes
    | with_reducible apply State.fieldTimeout_changes
    | with_reducible apply State.markerCapture_changes
    | with_reducible refine Changes.foldl ?_ (fun u x hu => ?_)
    | exact hL _ (Part.mem_elem (by rfl))
    | (refine hL _ (Part.mem_elem ?_); (repeat' split) <;> rfl)
    | split
    | (dsimp only))

theorem execMrkSel_changes {f : FieldAddr} {fw : Bool} {value : W64} {pl : List Part} (hL : Part.Sub [.page .DIR, .page .MRK, .risen, .hostOut, .hostHeld, .fwIrq, .msix] pl := by first | assumption | exact Part.Sub.via (by assumption) (by decide +kernel)) : ChangesOut pl s (execMrkSel f fw value s) := by
  unfold execMrkSel
  have hk : Changes pl s s := Changes.refl pl s
  repeat' (first
    | with_reducible exact hL
    | with_reducible exact Part.Sub.via hL (by decide)
    | with_reducible apply ChangesOut.next
    | ((try lift_lets); intro (x : State); refine Changes.via (l := pl) (s := s) (x := x) ?_ (fun hx => ?_); rotate_left; clear_value x; rotate_left; unfold x)
    | ((try lift_lets); intro x; clear_value x)
    | with_reducible assumption
    | with_reducible refine State.regWrite_changes ?_ ?_ (fun u hu => ?_) ?_
    | with_reducible apply State.setF_changes
    | exact hL _ (Part.mem_elem (by rfl))
    | split
    | (dsimp only))

theorem State.markSnap_changes {pl : List Part} {f : FieldAddr} (hk : Changes pl s0 s) (hL : Part.Sub [.page .MRK] pl := by first | assumption | exact Part.Sub.via (by assumption) (by decide +kernel)) : Changes pl s0 (State.markSnap s f) := by
  unfold State.markSnap
  repeat' (first
    | with_reducible exact hL
    | with_reducible exact Part.Sub.via hL (by decide)
    | ((try lift_lets); intro (x : State); refine Changes.via (l := pl) (s := s0) (x := x) ?_ (fun hx => ?_); rotate_left; clear_value x; rotate_left; unfold x)
    | ((try lift_lets); intro x; clear_value x)
    | with_reducible assumption
    | with_reducible apply State.setF_changes
    | with_reducible apply State.setReg_changes
    | with_reducible refine Changes.foldl ?_ (fun u x hu => ?_)
    | exact hL _ (Part.mem_elem (by rfl))
    | (refine hL _ (Part.mem_elem ?_); (repeat' split) <;> rfl)
    | split
    | (dsimp only))

end Sys2Proof.Machine
end

