-- ==== Sys2Proof/Laws/ChangesExchangeOps.lean ====
section
/-!
SUPPORT. What the operations of Machine/ExchangeOps can change (Laws/Changes).
-/
namespace Sys2Proof.Machine

set_option linter.all false

variable {s0 s : State}

theorem State.vlxCapture_changes {pl : List Part} {p : Fin 2} {kind code port op peer cid : Nat} {wm : Waymark} {hw : Bool} (hk : Changes pl s0 s) (hL : Part.Sub [.page .VLX, .risen, .recOnce, .records, .hostOut, .hostHeld, .fwIrq, .msix] pl := by first | assumption | exact Part.Sub.via (by assumption) (by decide +kernel)) : Changes pl s0 (State.vlxCapture s p kind code port op peer cid wm hw) := by
  unfold State.vlxCapture
  repeat' (first
    | with_reducible exact hL
    | with_reducible exact Part.Sub.via hL (by decide)
    | ((try lift_lets); intro (x : State); refine Changes.via (l := pl) (s := s0) (x := x) ?_ (fun hx => ?_); rotate_left; clear_value x; rotate_left; unfold x)
    | ((try lift_lets); intro x; clear_value x)
    | with_reducible assumption
    | with_reducible apply State.raiseOnce_changes
    | with_reducible apply State.captureFirst_changes
    | with_reducible apply State.setErr_changes
    | exact hL _ (Part.mem_elem (by rfl))
    | (refine hL _ (Part.mem_elem ?_); (repeat' split) <;> rfl)
    | split
    | (dsimp only))

theorem State.dedup_changes {pl : List Part} {p : Fin 2} {node cid : Nat} (hk : Changes pl s0 s) (hL : Part.Sub [.windows, .derived] pl := by first | assumption | exact Part.Sub.via (by assumption) (by decide +kernel)) : Changes pl s0 (State.dedup s p node cid).2 := by
  unfold State.dedup
  repeat' (first
    | with_reducible exact hL
    | with_reducible exact Part.Sub.via hL (by decide)
    | ((try lift_lets); intro (x : State); refine Changes.via (l := pl) (s := s0) (x := x) ?_ (fun hx => ?_); rotate_left; clear_value x; rotate_left; unfold x)
    | ((try lift_lets); intro x; clear_value x)
    | with_reducible assumption
    | (with_reducible apply Changes.upd_derived; first | with_reducible assumption | split)
    | (with_reducible apply Changes.upd_windows; first | with_reducible assumption | split)
    | split
    | (dsimp only))

theorem State.noteDest_changes {pl : List Part} {p : Fin 2} {wm node : Nat} (hk : Changes pl s0 s) (hL : Part.Sub [.destSets] pl := by first | assumption | exact Part.Sub.via (by assumption) (by decide +kernel)) : Changes pl s0 (State.noteDest s p wm node) := by
  unfold State.noteDest
  repeat' (first
    | with_reducible exact hL
    | with_reducible exact Part.Sub.via hL (by decide)
    | ((try lift_lets); intro (x : State); refine Changes.via (l := pl) (s := s0) (x := x) ?_ (fun hx => ?_); rotate_left; clear_value x; rotate_left; unfold x)
    | ((try lift_lets); intro (x : _ → _); dsimp -zeta only [x]; clear x)
    | ((try lift_lets); intro x; clear_value x)
    | with_reducible assumption
    | (with_reducible apply Changes.upd_destSets; first | with_reducible assumption | split)
    | split
    | (dsimp only))

theorem State.setExch_changes {pl : List Part} {n : Nat} {x : Exch} (hk : Changes pl s0 s) (hL : Part.Sub [.exchs] pl := by first | assumption | exact Part.Sub.via (by assumption) (by decide +kernel)) : Changes pl s0 (State.setExch s n x) := by
  unfold State.setExch
  repeat' (first
    | with_reducible exact hL
    | with_reducible exact Part.Sub.via hL (by decide)
    | ((try lift_lets); intro (x : State); refine Changes.via (l := pl) (s := s0) (x := x) ?_ (fun hx => ?_); rotate_left; clear_value x; rotate_left; unfold x)
    | ((try lift_lets); intro x; clear_value x)
    | with_reducible assumption
    | (with_reducible apply Changes.upd_exchs; first | with_reducible assumption | split)
    | split
    | (dsimp only))

theorem State.endExch_changes {pl : List Part} {n status : Nat} {k : Nat} (hk : Changes pl s0 s) (hL : Part.Sub [.page .ENG, .page .VLX, .page .EMP, .page .HBM, .risen, .ahead, .fields, .recOnce, .records, .hostOut, .hostHeld, .fwIrq, .msix, .edge, .edgeMark, .edgeWb, .selfRefresh, .queues, .step, .exchs, .free] pl := by first | assumption | exact Part.Sub.via (by assumption) (by decide +kernel)) : Changes pl s0 (State.endExch s n status k) := by
  unfold State.endExch
  repeat' (first
    | with_reducible exact hL
    | with_reducible exact Part.Sub.via hL (by decide)
    | ((try lift_lets); intro (x : State); refine Changes.via (l := pl) (s := s0) (x := x) ?_ (fun hx => ?_); rotate_left; clear_value x; rotate_left; unfold x)
    | ((try lift_lets); intro x; clear_value x)
    | with_reducible assumption
    | with_reducible apply State.vlxCapture_changes
    | with_reducible apply State.complete_changes
    | (with_reducible apply Changes.upd_exchs; first | with_reducible assumption | with_reducible apply State.vlxCapture_changes | with_reducible apply State.complete_changes | split)
    | split
    | (dsimp only))

theorem State.noteSent_changes {pl : List Part} {x : Exch} {f : Frame} {again : Bool} (hk : Changes pl s0 s) (hL : Part.Sub [.page .VLX, .risen, .ahead, .step, .destSets] pl := by first | assumption | exact Part.Sub.via (by assumption) (by decide +kernel)) : Changes pl s0 (State.noteSent s x f again) := by
  unfold State.noteSent
  repeat' (first
    | with_reducible exact hL
    | with_reducible exact Part.Sub.via hL (by decide)
    | ((try lift_lets); intro (x : State); refine Changes.via (l := pl) (s := s0) (x := x) ?_ (fun hx => ?_); rotate_left; clear_value x; rotate_left; unfold x)
    | ((try lift_lets); intro x; clear_value x)
    | with_reducible assumption
    | with_reducible apply State.countWm_changes
    | with_reducible apply State.noteDest_changes
    | (with_reducible apply Changes.upd_step; first | with_reducible assumption | with_reducible apply State.countWm_changes | with_reducible apply State.noteDest_changes | split)
    | exact hL _ (Part.mem_elem (by rfl))
    | (refine hL _ (Part.mem_elem ?_); (repeat' split) <;> rfl)
    | split
    | (dsimp only))

theorem State.exDone_changes {pl : List Part} {n k : Nat} {first : Bool} (hk : Changes pl s0 s) (hL : Part.Sub [.page .ENG, .page .VLX, .page .EMP, .page .HBM, .risen, .ahead, .fields, .recOnce, .records, .hostOut, .hostHeld, .fwIrq, .msix, .edge, .edgeMark, .edgeWb, .selfRefresh, .queues, .step, .exchs, .free] pl := by first | assumption | exact Part.Sub.via (by assumption) (by decide +kernel)) : Changes pl s0 (State.exDone s n k first) := by
  unfold State.exDone
  repeat' (first
    | with_reducible exact hL
    | with_reducible exact Part.Sub.via hL (by decide)
    | ((try lift_lets); intro (x : State); refine Changes.via (l := pl) (s := s0) (x := x) ?_ (fun hx => ?_); rotate_left; clear_value x; rotate_left; unfold x)
    | ((try lift_lets); intro x; clear_value x)
    | with_reducible assumption
    | with_reducible apply State.countWm_changes
    | with_reducible apply State.endExch_changes
    | with_reducible apply State.setExch_changes
    | (with_reducible apply Changes.upd_step; first | with_reducible assumption | with_reducible apply State.countWm_changes | with_reducible apply State.endExch_changes | with_reducible apply State.setExch_changes | split)
    | exact hL _ (Part.mem_elem (by rfl))
    | (refine hL _ (Part.mem_elem ?_); (repeat' split) <;> rfl)
    | split
    | (dsimp only))

theorem State.exAnswer_changes {pl : List Part} {n k status : Nat} (hk : Changes pl s0 s) (hL : Part.Sub [.page .ENG, .page .VLX, .page .EMP, .page .HBM, .risen, .ahead, .fields, .recOnce, .records, .hostOut, .hostHeld, .fwIrq, .msix, .edge, .edgeMark, .edgeWb, .selfRefresh, .queues, .step, .exchs, .free] pl := by first | assumption | exact Part.Sub.via (by assumption) (by decide +kernel)) : Changes pl s0 (State.exAnswer s n k status) := by
  unfold State.exAnswer
  repeat' (first
    | with_reducible exact hL
    | with_reducible exact Part.Sub.via hL (by decide)
    | ((try lift_lets); intro (x : State); refine Changes.via (l := pl) (s := s0) (x := x) ?_ (fun hx => ?_); rotate_left; clear_value x; rotate_left; unfold x)
    | ((try lift_lets); intro x; clear_value x)
    | with_reducible assumption
    | with_reducible apply State.exDone_changes
    | with_reducible apply State.endExch_changes
    | with_reducible apply State.setExch_changes
    | split
    | (dsimp only))

theorem State.crossWrite_changes {pl : List Part} {p : Fin 2} {f : Frame} (hk : Changes pl s0 s) (hL : Part.Sub [.page .VLX, .page .EMP, .page .HBM, .risen, .ahead, .recOnce, .records, .hostOut, .hostHeld, .fwIrq, .msix, .edge, .edgeMark, .edgeWb, .selfRefresh, .windows, .derived] pl := by first | assumption | exact Part.Sub.via (by assumption) (by decide +kernel)) : Changes pl s0 (State.crossWrite s p f).2 := by
  unfold State.crossWrite
  repeat' (first
    | with_reducible exact hL
    | with_reducible exact Part.Sub.via hL (by decide)
    | ((try lift_lets); intro (x : State); refine Changes.via (l := pl) (s := s0) (x := x) ?_ (fun hx => ?_); rotate_left; clear_value x; rotate_left; unfold x)
    | ((try lift_lets); intro (x : State × _); refine Changes.via (l := pl) (s := s0) (x := x.1) ?_ (fun hx => ?_); rotate_left; clear_value x; rotate_left; unfold x)
    | ((try lift_lets); intro (x : _ × State); refine Changes.via (l := pl) (s := s0) (x := x.2) ?_ (fun hx => ?_); rotate_left; clear_value x; rotate_left; unfold x)
    | ((try lift_lets); intro (x : _ → _); dsimp -zeta only [x]; clear x)
    | ((try lift_lets); intro x; clear_value x)
    | with_reducible assumption
    | with_reducible apply State.countWm_changes
    | with_reducible refine Changes.of_snd (State.dedup_changes ?_ ?_) (by assumption)
    | with_reducible apply State.dedup_changes
    | with_reducible apply State.vlxCapture_changes
    | with_reducible apply State.edgeWrite_changes
    | exact hL _ (Part.mem_elem (by rfl))
    | (refine hL _ (Part.mem_elem ?_); (repeat' split) <;> rfl)
    | split
    | (dsimp only))

theorem State.sendEx_changes {pl : List Part} {n k : Nat} {again : Bool} (hk : Changes pl s0 s) (hL : Part.Sub [.page .ENG, .page .VLX, .page .EMP, .page .HBM, .page .VPT, .risen, .ahead, .tiles, .fields, .recOnce, .records, .hostOut, .hostHeld, .fwIrq, .msix, .edge, .edgeMark, .edgeWb, .selfRefresh, .queues, .step, .links, .wire, .exchs, .destSets, .windows, .derived, .free] pl := by first | assumption | exact Part.Sub.via (by assumption) (by decide +kernel)) : Changes pl s0 (State.sendEx s n k again) := by
  unfold State.sendEx
  repeat' (first
    | with_reducible exact hL
    | with_reducible exact Part.Sub.via hL (by decide)
    | ((try lift_lets); intro (x : State); refine Changes.via (l := pl) (s := s0) (x := x) ?_ (fun hx => ?_); rotate_left; clear_value x; rotate_left; unfold x)
    | ((try lift_lets); intro (x : State × _); refine Changes.via (l := pl) (s := s0) (x := x.1) ?_ (fun hx => ?_); rotate_left; clear_value x; rotate_left; unfold x)
    | ((try lift_lets); intro (x : _ × State); refine Changes.via (l := pl) (s := s0) (x := x.2) ?_ (fun hx => ?_); rotate_left; clear_value x; rotate_left; unfold x)
    | ((try lift_lets); intro (x : _ → _); dsimp -zeta only [x]; clear x)
    | ((try lift_lets); intro x; clear_value x)
    | with_reducible assumption
    | with_reducible apply State.sendFrame_changes
    | with_reducible apply State.turn_changes
    | with_reducible refine Changes.of_snd (State.crossWrite_changes ?_ ?_) (by assumption)
    | with_reducible apply State.crossWrite_changes
    | with_reducible apply State.exAnswer_changes
    | with_reducible apply State.noteSent_changes
    | with_reducible apply State.setExch_changes
    | split
    | (dsimp only))

theorem State.formFrame_changes {pl : List Part} {n : Nat} {x : Exch} (hk : Changes pl s0 s) (hL : Part.Sub [.page .ENG, .page .VLX, .page .EMP, .page .HBM, .page .VPT, .risen, .ahead, .tiles, .fields, .recOnce, .records, .hostOut, .hostHeld, .fwIrq, .msix, .edge, .edgeMark, .edgeWb, .selfRefresh, .queues, .step, .links, .wire, .exchs, .destSets, .windows, .derived, .free] pl := by first | assumption | exact Part.Sub.via (by assumption) (by decide +kernel)) : Changes pl s0 (State.formFrame s n x) := by
  unfold State.formFrame
  repeat' (first
    | with_reducible exact hL
    | with_reducible exact Part.Sub.via hL (by decide)
    | ((try lift_lets); intro (x : State); refine Changes.via (l := pl) (s := s0) (x := x) ?_ (fun hx => ?_); rotate_left; clear_value x; rotate_left; unfold x)
    | ((try lift_lets); intro (x : State × _); refine Changes.via (l := pl) (s := s0) (x := x.1) ?_ (fun hx => ?_); rotate_left; clear_value x; rotate_left; unfold x)
    | ((try lift_lets); intro (x : _ × State); refine Changes.via (l := pl) (s := s0) (x := x.2) ?_ (fun hx => ?_); rotate_left; clear_value x; rotate_left; unfold x)
    | ((try lift_lets); intro x; clear_value x)
    | with_reducible assumption
    | with_reducible apply State.sendEx_changes
    | with_reducible apply State.endExch_changes
    | with_reducible apply State.setExch_changes
    | with_reducible refine Changes.of_fst (State.edgeRead_changes ?_ ?_) (by assumption)
    | with_reducible apply State.edgeRead_changes
    | split
    | (dsimp only))

theorem cancelExchs_changes {pl : List Part} {p : Fin 2} {scope key n : Nat} (hL : Part.Sub [.page .ENG, .page .VLX, .page .EMP, .page .HBM, .risen, .ahead, .fields, .recOnce, .records, .hostOut, .hostHeld, .fwIrq, .msix, .edge, .edgeMark, .edgeWb, .selfRefresh, .queues, .step, .exchs, .free] pl := by first | assumption | exact Part.Sub.via (by assumption) (by decide +kernel)) :
    ∀ {s : State}, Changes pl s0 s → Changes pl s0 (cancelExchs p scope key n s) := by
  induction n with
  | zero => exact fun h => h
  | succ n ih =>
    intro s h
    unfold cancelExchs
    split
    · exact ih (State.endExch_changes h)
    · exact h

theorem State.cancelExchanges_changes {pl : List Part} {p : Fin 2} {scope key : Nat} (hk : Changes pl s0 s) (hL : Part.Sub [.page .ENG, .page .VLX, .page .EMP, .page .HBM, .risen, .ahead, .fields, .recOnce, .records, .hostOut, .hostHeld, .fwIrq, .msix, .edge, .edgeMark, .edgeWb, .selfRefresh, .queues, .step, .exchs, .free] pl := by first | assumption | exact Part.Sub.via (by assumption) (by decide +kernel)) : Changes pl s0 (State.cancelExchanges s p scope key) := by
  unfold State.cancelExchanges
  repeat' (first
    | with_reducible exact hL
    | with_reducible exact Part.Sub.via hL (by decide)
    | ((try lift_lets); intro (x : State); refine Changes.via (l := pl) (s := s0) (x := x) ?_ (fun hx => ?_); rotate_left; clear_value x; rotate_left; unfold x)
    | ((try lift_lets); intro x; clear_value x)
    | with_reducible assumption
    | with_reducible apply cancelExchs_changes
    | split
    | (dsimp only))

theorem State.taint_changes {pl : List Part} {wm kind attempt plane slot : Nat} {at' : Where} (hk : Changes pl s0 s) (hL : Part.Sub [.page .FLT, .risen, .records, .hostOut, .hostHeld, .fwIrq, .msix, .exchs, .tainted, .taintSeq] pl := by first | assumption | exact Part.Sub.via (by assumption) (by decide +kernel)) : Changes pl s0 (State.taint s wm kind attempt plane slot at') := by
  unfold State.taint
  repeat' (first
    | with_reducible exact hL
    | with_reducible exact Part.Sub.via hL (by decide)
    | ((try lift_lets); intro (x : State); refine Changes.via (l := pl) (s := s0) (x := x) ?_ (fun hx => ?_); rotate_left; clear_value x; rotate_left; unfold x)
    | ((try lift_lets); intro (x : _ → _); dsimp -zeta only [x]; clear x)
    | ((try lift_lets); intro x; clear_value x)
    | with_reducible assumption
    | with_reducible apply State.raise_changes
    | with_reducible apply State.count_changes
    | with_reducible apply State.setIrq_changes
    | (with_reducible apply Changes.upd_taintSeq_tainted_exchs; first | with_reducible assumption | with_reducible apply State.raise_changes | with_reducible apply State.count_changes | with_reducible apply State.setIrq_changes | split)
    | exact hL _ (Part.mem_elem (by rfl))
    | (refine hL _ (Part.mem_elem ?_); (repeat' split) <;> rfl)
    | split
    | (dsimp only))

end Sys2Proof.Machine
end

