-- ==== Sys2Proof/Laws/ChangesStreams.lean ====
section
/-!
SUPPORT. What the operations of Machine/Streams can change (Laws/Changes).
-/
namespace Sys2Proof.Machine

set_option linter.all false

variable {s0 s : State}

theorem State.refuseOpen_changes {pl : List Part} {p : Fin 2} {q : Nat} {r : EngRec} {status refuse field : Nat} (hk : Changes pl s0 s) (hL : Part.Sub [.page .ENG, .page .SEN, .page .EMP, .page .HBM, .risen, .ahead, .fields, .recOnce, .records, .hostOut, .hostHeld, .fwIrq, .msix, .edge, .edgeMark, .edgeWb, .selfRefresh, .queues, .step, .free] pl := by first | assumption | exact Part.Sub.via (by assumption) (by decide +kernel)) : Changes pl s0 (State.refuseOpen s p q r status refuse field) := by
  unfold State.refuseOpen
  repeat' (first
    | with_reducible exact hL
    | with_reducible exact Part.Sub.via hL (by decide)
    | ((try lift_lets); intro (x : State); refine Changes.via (l := pl) (s := s0) (x := x) ?_ (fun hx => ?_); rotate_left; clear_value x; rotate_left; unfold x)
    | ((try lift_lets); intro x; clear_value x)
    | with_reducible assumption
    | with_reducible apply State.streamError_changes
    | with_reducible apply State.countWm_changes
    | with_reducible apply State.complete_changes
    | exact hL _ (Part.mem_elem (by rfl))
    | (refine hL _ (Part.mem_elem ?_); (repeat' split) <;> rfl)
    | split
    | (dsimp only))

theorem execStreamOpen_changes {p : Fin 2} {pl : List Part} (hL : Part.Sub [.page .ENG, .page .SEN, .page .EMP, .page .HBM, .risen, .ahead, .fields, .recOnce, .records, .hostOut, .hostHeld, .fwIrq, .msix, .edge, .edgeMark, .edgeWb, .selfRefresh, .ctxs, .ctxCount, .queues, .step, .free] pl := by first | assumption | exact Part.Sub.via (by assumption) (by decide +kernel)) : ChangesOut pl s (execStreamOpen p s) := by
  unfold execStreamOpen
  have hk : Changes pl s s := Changes.refl pl s
  repeat' (first
    | with_reducible exact hL
    | with_reducible exact Part.Sub.via hL (by decide)
    | with_reducible apply ChangesOut.next
    | ((try lift_lets); intro (x : State); refine Changes.via (l := pl) (s := s) (x := x) ?_ (fun hx => ?_); rotate_left; clear_value x; rotate_left; unfold x)
    | ((try lift_lets); intro x; clear_value x)
    | with_reducible assumption
    | with_reducible apply State.refuseOpen_changes
    | with_reducible apply State.setCtx_changes
    | with_reducible apply State.countWm_changes
    | with_reducible apply State.setStage_changes
    | (with_reducible apply Changes.upd_ctxCount; first | with_reducible assumption | with_reducible apply State.refuseOpen_changes | with_reducible apply State.setCtx_changes | with_reducible apply State.countWm_changes | with_reducible apply State.setStage_changes | split)
    | exact hL _ (Part.mem_elem (by rfl))
    | (refine hL _ (Part.mem_elem ?_); (repeat' split) <;> rfl)
    | split
    | (dsimp only))

theorem execStreamCancel_changes {p : Fin 2} {pl : List Part} (hL : Part.Sub [.page .ENG, .page .SEN, .page .EMP, .page .HBM, .risen, .ahead, .fields, .recOnce, .records, .hostOut, .hostHeld, .fwIrq, .msix, .edge, .edgeMark, .edgeWb, .selfRefresh, .ctxs, .queues, .step, .free] pl := by first | assumption | exact Part.Sub.via (by assumption) (by decide +kernel)) : ChangesOut pl s (execStreamCancel p s) := by
  unfold execStreamCancel
  have hk : Changes pl s s := Changes.refl pl s
  repeat' (first
    | with_reducible exact hL
    | with_reducible exact Part.Sub.via hL (by decide)
    | with_reducible apply ChangesOut.next
    | ((try lift_lets); intro (x : State); refine Changes.via (l := pl) (s := s) (x := x) ?_ (fun hx => ?_); rotate_left; clear_value x; rotate_left; unfold x)
    | ((try lift_lets); intro x; clear_value x)
    | with_reducible assumption
    | with_reducible apply State.cancelStreams_changes
    | with_reducible apply State.cancelsDone_changes
    | with_reducible apply State.setQueue_changes
    | split
    | (dsimp only))

theorem execStreamDeliverStart_changes {p : Fin 2} {ctx : Nat} {pl : List Part} (hL : Part.Sub [.page .SEN, .risen, .ahead, .fields, .recOnce, .records, .hostOut, .hostHeld, .fwIrq, .msix, .ctxs] pl := by first | assumption | exact Part.Sub.via (by assumption) (by decide +kernel)) : ChangesOut pl s (execStreamDeliverStart p ctx s) := by
  unfold execStreamDeliverStart
  have hk : Changes pl s s := Changes.refl pl s
  repeat' (first
    | with_reducible exact hL
    | with_reducible exact Part.Sub.via hL (by decide)
    | with_reducible apply ChangesOut.next
    | ((try lift_lets); intro (x : State); refine Changes.via (l := pl) (s := s) (x := x) ?_ (fun hx => ?_); rotate_left; clear_value x; rotate_left; unfold x)
    | ((try lift_lets); intro x; clear_value x)
    | with_reducible assumption
    | with_reducible apply State.endCtx_changes
    | with_reducible apply State.setCtx_changes
    | with_reducible apply State.markOp_changes
    | split
    | (dsimp only))

theorem execStreamRequest_changes {p : Fin 2} {server : Bool} {port : Fin 32} {starved : List Nat} {pl : List Part} (hL : Part.Sub [.page .SEN, .page .VPT, .risen, .ahead, .hostOut, .hostHeld, .fwIrq, .msix, .ctxs, .links, .wire] pl := by first | assumption | exact Part.Sub.via (by assumption) (by decide +kernel)) : ChangesOut pl s (execStreamRequest p server port starved s) := by
  unfold execStreamRequest
  have hk : Changes pl s s := Changes.refl pl s
  repeat' (first
    | with_reducible exact hL
    | with_reducible exact Part.Sub.via hL (by decide)
    | with_reducible apply ChangesOut.next
    | ((try lift_lets); intro (x : State); refine Changes.via (l := pl) (s := s) (x := x) ?_ (fun hx => ?_); rotate_left; clear_value x; rotate_left; unfold x)
    | ((try lift_lets); intro x; clear_value x)
    | with_reducible assumption
    | with_reducible apply State.countCtxIrq_changes
    | with_reducible apply State.notePeak_changes
    | with_reducible apply State.setCtx_changes
    | with_reducible apply State.sendFrame_changes
    | exact hL _ (Part.mem_elem (by rfl))
    | (refine hL _ (Part.mem_elem ?_); (repeat' split) <;> rfl)
    | split
    | (dsimp only))

theorem State.reqBack_changes {pl : List Part} {k : Nat} {r : StreamReq} {bytes : List (Nat × Byte)} {failed : Bool} (hk : Changes pl s0 s) (hL : Part.Sub [.page .SEN, .risen, .ahead, .recOnce, .records, .hostOut, .hostHeld, .fwIrq, .msix, .ctxs] pl := by first | assumption | exact Part.Sub.via (by assumption) (by decide +kernel)) : Changes pl s0 (State.reqBack s k r bytes failed) := by
  unfold State.reqBack
  repeat' (first
    | with_reducible exact hL
    | with_reducible exact Part.Sub.via hL (by decide)
    | ((try lift_lets); intro (x : State); refine Changes.via (l := pl) (s := s0) (x := x) ?_ (fun hx => ?_); rotate_left; clear_value x; rotate_left; unfold x)
    | ((try lift_lets); intro x; clear_value x)
    | with_reducible assumption
    | with_reducible apply State.streamBad_changes
    | with_reducible apply State.noteDry_changes
    | with_reducible apply State.countCtx_changes
    | with_reducible apply State.setCtx_changes
    | exact hL _ (Part.mem_elem (by rfl))
    | (refine hL _ (Part.mem_elem ?_); (repeat' split) <;> rfl)
    | split
    | (dsimp only))

theorem State.edgeBack_changes {pl : List Part} {k : Nat} {r : StreamReq} (hk : Changes pl s0 s) (hL : Part.Sub [.page .SEN, .page .EMP, .page .HBM, .risen, .ahead, .recOnce, .records, .hostOut, .hostHeld, .fwIrq, .msix, .edgeWb, .selfRefresh, .ctxs] pl := by first | assumption | exact Part.Sub.via (by assumption) (by decide +kernel)) : Changes pl s0 (State.edgeBack s k r) := by
  unfold State.edgeBack
  repeat' (first
    | with_reducible exact hL
    | with_reducible exact Part.Sub.via hL (by decide)
    | ((try lift_lets); intro (x : State); refine Changes.via (l := pl) (s := s0) (x := x) ?_ (fun hx => ?_); rotate_left; clear_value x; rotate_left; unfold x)
    | ((try lift_lets); intro (x : State × _); refine Changes.via (l := pl) (s := s0) (x := x.1) ?_ (fun hx => ?_); rotate_left; clear_value x; rotate_left; unfold x)
    | ((try lift_lets); intro (x : _ × State); refine Changes.via (l := pl) (s := s0) (x := x.2) ?_ (fun hx => ?_); rotate_left; clear_value x; rotate_left; unfold x)
    | ((try lift_lets); intro x; clear_value x)
    | with_reducible assumption
    | with_reducible apply State.reqBack_changes
    | with_reducible apply State.countCtx_changes
    | with_reducible refine Changes.of_fst (State.edgeRead_changes ?_ ?_) (by assumption)
    | with_reducible apply State.edgeRead_changes
    | with_reducible refine Changes.foldl ?_ (fun u x hu => ?_)
    | with_reducible refine Changes.foldl_fst ?_ (fun u x hu => ?_)
    | exact hL _ (Part.mem_elem (by rfl))
    | split
    | (dsimp only))

theorem State.readResp_changes {pl : List Part} {p : Fin 2} {f : Frame} (hk : Changes pl s0 s) (hL : Part.Sub [.page .SEN, .risen, .ahead, .recOnce, .records, .hostOut, .hostHeld, .fwIrq, .msix, .ctxs] pl := by first | assumption | exact Part.Sub.via (by assumption) (by decide +kernel)) : Changes pl s0 (State.readResp s p f) := by
  unfold State.readResp
  repeat' (first
    | with_reducible exact hL
    | with_reducible exact Part.Sub.via hL (by decide)
    | ((try lift_lets); intro (x : State); refine Changes.via (l := pl) (s := s0) (x := x) ?_ (fun hx => ?_); rotate_left; clear_value x; rotate_left; unfold x)
    | ((try lift_lets); intro x; clear_value x)
    | with_reducible assumption
    | with_reducible apply State.reqBack_changes
    | with_reducible apply State.countCtx_changes
    | with_reducible apply State.countWm_changes
    | exact hL _ (Part.mem_elem (by rfl))
    | (refine hL _ (Part.mem_elem ?_); (repeat' split) <;> rfl)
    | split
    | (dsimp only))

theorem State.resendReq_changes {pl : List Part} {k : Nat} {r : StreamReq} {port : Nat} (hk : Changes pl s0 s) (hL : Part.Sub [.page .SEN, .page .VPT, .risen, .ahead, .ctxs, .links, .wire] pl := by first | assumption | exact Part.Sub.via (by assumption) (by decide +kernel)) : Changes pl s0 (State.resendReq s k r port) := by
  unfold State.resendReq
  repeat' (first
    | with_reducible exact hL
    | with_reducible exact Part.Sub.via hL (by decide)
    | ((try lift_lets); intro (x : State); refine Changes.via (l := pl) (s := s0) (x := x) ?_ (fun hx => ?_); rotate_left; clear_value x; rotate_left; unfold x)
    | ((try lift_lets); intro x; clear_value x)
    | with_reducible assumption
    | with_reducible apply State.countCtx_changes
    | with_reducible apply State.setCtx_changes
    | with_reducible apply State.sendFrame_changes
    | exact hL _ (Part.mem_elem (by rfl))
    | (refine hL _ (Part.mem_elem ?_); (repeat' split) <;> rfl)
    | split
    | (dsimp only))

theorem execStreamReadTimeout_changes {p : Fin 2} {ctx seq : Nat} {pl : List Part} (hL : Part.Sub [.page .SEN, .page .VPT, .risen, .ahead, .recOnce, .records, .hostOut, .hostHeld, .fwIrq, .msix, .ctxs, .links, .wire] pl := by first | assumption | exact Part.Sub.via (by assumption) (by decide +kernel)) : ChangesOut pl s (execStreamReadTimeout p ctx seq s) := by
  unfold execStreamReadTimeout
  have hk : Changes pl s s := Changes.refl pl s
  repeat' (first
    | with_reducible exact hL
    | with_reducible exact Part.Sub.via hL (by decide)
    | with_reducible apply ChangesOut.next
    | ((try lift_lets); intro (x : State); refine Changes.via (l := pl) (s := s) (x := x) ?_ (fun hx => ?_); rotate_left; clear_value x; rotate_left; unfold x)
    | ((try lift_lets); intro x; clear_value x)
    | with_reducible assumption
    | with_reducible apply State.resendReq_changes
    | with_reducible apply State.streamBad_changes
    | with_reducible apply State.setCtx_changes
    | split
    | (dsimp only))

theorem execStreamStalled_changes {p : Fin 2} {ctx : Nat} {pl : List Part} (hL : Part.Sub [.page .SEN, .risen, .ahead, .recOnce, .records, .hostOut, .hostHeld, .fwIrq, .msix, .ctxs] pl := by first | assumption | exact Part.Sub.via (by assumption) (by decide +kernel)) : ChangesOut pl s (execStreamStalled p ctx s) := by
  unfold execStreamStalled
  have hk : Changes pl s s := Changes.refl pl s
  repeat' (first
    | with_reducible exact hL
    | with_reducible exact Part.Sub.via hL (by decide)
    | with_reducible apply ChangesOut.next
    | ((try lift_lets); intro (x : State); refine Changes.via (l := pl) (s := s) (x := x) ?_ (fun hx => ?_); rotate_left; clear_value x; rotate_left; unfold x)
    | ((try lift_lets); intro x; clear_value x)
    | with_reducible assumption
    | with_reducible apply State.endCtx_changes
    | split
    | (dsimp only))

theorem execStreamContextRelease_changes {p : Fin 2} {ctx : Nat} {pl : List Part} (hL : Part.Sub [.page .ENG, .page .SEN, .page .EMP, .page .HBM, .risen, .ahead, .fields, .recOnce, .records, .hostOut, .hostHeld, .fwIrq, .msix, .edge, .edgeMark, .edgeWb, .selfRefresh, .ctxs, .queues, .step, .free] pl := by first | assumption | exact Part.Sub.via (by assumption) (by decide +kernel)) : ChangesOut pl s (execStreamContextRelease p ctx s) := by
  unfold execStreamContextRelease
  have hk : Changes pl s s := Changes.refl pl s
  repeat' (first
    | with_reducible exact hL
    | with_reducible exact Part.Sub.via hL (by decide)
    | with_reducible apply ChangesOut.next
    | ((try lift_lets); intro (x : State); refine Changes.via (l := pl) (s := s) (x := x) ?_ (fun hx => ?_); rotate_left; clear_value x; rotate_left; unfold x)
    | ((try lift_lets); intro x; clear_value x)
    | with_reducible assumption
    | with_reducible apply State.freeCtx_changes
    | split
    | (dsimp only))

theorem State.injected_changes {pl : List Part} {k : Nat} {x : StreamPkt} (hk : Changes pl s0 s) (hL : Part.Sub [.page .ENG, .page .SEN, .page .EMP, .page .HBM, .risen, .ahead, .fields, .recOnce, .records, .hostOut, .hostHeld, .fwIrq, .msix, .edge, .edgeMark, .edgeWb, .selfRefresh, .ctxs, .queues, .step, .free] pl := by first | assumption | exact Part.Sub.via (by assumption) (by decide +kernel)) : Changes pl s0 (State.injected s k x) := by
  unfold State.injected
  repeat' (first
    | with_reducible exact hL
    | with_reducible exact Part.Sub.via hL (by decide)
    | ((try lift_lets); intro (x : State); refine Changes.via (l := pl) (s := s0) (x := x) ?_ (fun hx => ?_); rotate_left; clear_value x; rotate_left; unfold x)
    | ((try lift_lets); intro x; clear_value x)
    | with_reducible assumption
    | with_reducible apply State.streamBad_changes
    | with_reducible apply State.freeCtx_changes
    | with_reducible apply State.noteDry_changes
    | with_reducible apply State.countCtx_changes
    | with_reducible apply State.setCtx_changes
    | exact hL _ (Part.mem_elem (by rfl))
    | (refine hL _ (Part.mem_elem ?_); (repeat' split) <;> rfl)
    | split
    | (dsimp only))

theorem execStreamInject_changes {p : Fin 2} {ctx : Nat} {pl : List Part} (hL : Part.Sub [.page .ENG, .page .SEN, .page .EMP, .page .HBM, .risen, .ahead, .tiles, .fields, .recOnce, .records, .hostOut, .hostHeld, .fwIrq, .msix, .edge, .edgeMark, .edgeWb, .selfRefresh, .ctxs, .queues, .step, .free] pl := by first | assumption | exact Part.Sub.via (by assumption) (by decide +kernel)) : ChangesOut pl s (execStreamInject p ctx s) := by
  unfold execStreamInject
  have hk : Changes pl s s := Changes.refl pl s
  repeat' (first
    | with_reducible exact hL
    | with_reducible exact Part.Sub.via hL (by decide)
    | with_reducible apply ChangesOut.next
    | ((try lift_lets); intro (x : State); refine Changes.via (l := pl) (s := s) (x := x) ?_ (fun hx => ?_); rotate_left; clear_value x; rotate_left; unfold x)
    | ((try lift_lets); intro (x : State × _); refine Changes.via (l := pl) (s := s) (x := x.1) ?_ (fun hx => ?_); rotate_left; clear_value x; rotate_left; unfold x)
    | ((try lift_lets); intro (x : _ × State); refine Changes.via (l := pl) (s := s) (x := x.2) ?_ (fun hx => ?_); rotate_left; clear_value x; rotate_left; unfold x)
    | ((try lift_lets); intro x; clear_value x)
    | with_reducible assumption
    | with_reducible apply State.injected_changes
    | with_reducible apply State.endCtx_changes
    | with_reducible apply State.inject_changes
    | with_reducible refine Changes.of_snd (State.freeBits_changes ?_ ?_) (by assumption)
    | with_reducible apply State.freeBits_changes
    | split
    | (dsimp only))

theorem execSenCtxSel_changes {p : Fin 2} {fw : Bool} {value : W64} {pl : List Part} (hL : Part.Sub [.page .DIR, .page .SEN, .risen, .hostOut, .hostHeld, .fwIrq, .msix] pl := by first | assumption | exact Part.Sub.via (by assumption) (by decide +kernel)) : ChangesOut pl s (execSenCtxSel p fw value s) := by
  unfold execSenCtxSel
  have hk : Changes pl s s := Changes.refl pl s
  repeat' (first
    | with_reducible exact hL
    | with_reducible exact Part.Sub.via hL (by decide)
    | with_reducible apply ChangesOut.next
    | ((try lift_lets); intro (x : State); refine Changes.via (l := pl) (s := s) (x := x) ?_ (fun hx => ?_); rotate_left; clear_value x; rotate_left; unfold x)
    | ((try lift_lets); intro x; clear_value x)
    | with_reducible assumption
    | with_reducible refine State.regWrite_changes ?_ ?_ (fun u hu => ?_) ?_
    | with_reducible apply State.setF_changes
    | exact hL _ (Part.mem_elem (by rfl))
    | split
    | (dsimp only))

theorem State.ctxSnap_changes {pl : List Part} {p : Fin 2} (hk : Changes pl s0 s) (hL : Part.Sub [.page .SEN] pl := by first | assumption | exact Part.Sub.via (by assumption) (by decide +kernel)) : Changes pl s0 (State.ctxSnap s p) := by
  unfold State.ctxSnap
  repeat' (first
    | with_reducible exact hL
    | with_reducible exact Part.Sub.via hL (by decide)
    | ((try lift_lets); intro (x : State); refine Changes.via (l := pl) (s := s0) (x := x) ?_ (fun hx => ?_); rotate_left; clear_value x; rotate_left; unfold x)
    | ((try lift_lets); intro (x : State × _); refine Changes.via (l := pl) (s := s0) (x := x.1) ?_ (fun hx => ?_); rotate_left; clear_value x; rotate_left; unfold x)
    | ((try lift_lets); intro (x : _ × State); refine Changes.via (l := pl) (s := s0) (x := x.2) ?_ (fun hx => ?_); rotate_left; clear_value x; rotate_left; unfold x)
    | ((try lift_lets); intro x; clear_value x)
    | with_reducible assumption
    | with_reducible apply State.setF_changes
    | with_reducible apply State.setReg_changes
    | exact hL _ (Part.mem_elem (by rfl))
    | (refine hL _ (Part.mem_elem ?_); (repeat' split) <;> rfl)
    | split
    | (dsimp only))

theorem execSenFopenSel_changes {p : Fin 2} {fw : Bool} {value : W64} {pl : List Part} (hL : Part.Sub [.page .DIR, .page .SEN, .risen, .hostOut, .hostHeld, .fwIrq, .msix, .fopenDue] pl := by first | assumption | exact Part.Sub.via (by assumption) (by decide +kernel)) : ChangesOut pl s (execSenFopenSel p fw value s) := by
  unfold execSenFopenSel
  have hk : Changes pl s s := Changes.refl pl s
  repeat' (first
    | with_reducible exact hL
    | with_reducible exact Part.Sub.via hL (by decide)
    | with_reducible apply ChangesOut.next
    | ((try lift_lets); intro (x : State); refine Changes.via (l := pl) (s := s) (x := x) ?_ (fun hx => ?_); rotate_left; clear_value x; rotate_left; unfold x)
    | ((try lift_lets); intro x; clear_value x)
    | with_reducible assumption
    | with_reducible refine State.regWrite_changes ?_ ?_ (fun u hu => ?_) ?_
    | (with_reducible apply Changes.upd_fopenDue; first | with_reducible assumption | with_reducible refine State.regWrite_changes ?_ ?_ (fun u hu => ?_) ?_ | split)
    | exact hL _ (Part.mem_elem (by rfl))
    | split
    | (dsimp only))

theorem State.fopenSnap_changes {pl : List Part} {p : Fin 2} (hk : Changes pl s0 s) (hL : Part.Sub [.page .SEN, .fopenDue] pl := by first | assumption | exact Part.Sub.via (by assumption) (by decide +kernel)) : Changes pl s0 (State.fopenSnap s p) := by
  unfold State.fopenSnap
  repeat' (first
    | with_reducible exact hL
    | with_reducible exact Part.Sub.via hL (by decide)
    | ((try lift_lets); intro (x : State); refine Changes.via (l := pl) (s := s0) (x := x) ?_ (fun hx => ?_); rotate_left; clear_value x; rotate_left; unfold x)
    | ((try lift_lets); intro (x : _ → _); dsimp -zeta only [x]; clear x)
    | ((try lift_lets); intro x; clear_value x)
    | with_reducible assumption
    | with_reducible apply State.setReg_changes
    | (with_reducible apply Changes.upd_fopenDue; first | with_reducible assumption | with_reducible apply State.setReg_changes | split)
    | exact hL _ (Part.mem_elem (by rfl))
    | (refine hL _ (Part.mem_elem ?_); (repeat' split) <;> rfl)
    | split
    | (dsimp only))

end Sys2Proof.Machine
end

