-- ==== Sys2Proof/Laws/ChangesVolino.lean ====
section
/-!
SUPPORT. What the operations of Machine/Volino can change (Laws/Changes).
-/
namespace Sys2Proof.Machine

set_option linter.all false

variable {s0 s : State}

theorem State.refuseExch_changes {pl : List Part} {x : Exch} {q index status : Nat} (hk : Changes pl s0 s) (hL : Part.Sub [.page .ENG, .page .VLX, .page .EMP, .page .HBM, .risen, .ahead, .fields, .recOnce, .records, .hostOut, .hostHeld, .fwIrq, .msix, .edge, .edgeMark, .edgeWb, .selfRefresh, .queues, .step, .free] pl := by first | assumption | exact Part.Sub.via (by assumption) (by decide +kernel)) : Changes pl s0 (State.refuseExch s x q index status) := by
  unfold State.refuseExch
  repeat' (first
    | with_reducible exact hL
    | with_reducible exact Part.Sub.via hL (by decide)
    | ((try lift_lets); intro (x : State); refine Changes.via (l := pl) (s := s0) (x := x) ?_ (fun hx => ?_); rotate_left; clear_value x; rotate_left; unfold x)
    | ((try lift_lets); intro x; clear_value x)
    | with_reducible assumption
    | with_reducible apply State.vlxCapture_changes
    | with_reducible apply State.complete_changes
    | split
    | (dsimp only))

theorem State.openExch_changes {pl : List Part} {x : Exch} {q index : Nat} (hk : Changes pl s0 s) (hL : Part.Sub [.queues, .exchs] pl := by first | assumption | exact Part.Sub.via (by assumption) (by decide +kernel)) : Changes pl s0 (State.openExch s x q index) := by
  unfold State.openExch
  repeat' (first
    | with_reducible exact hL
    | with_reducible exact Part.Sub.via hL (by decide)
    | ((try lift_lets); intro (x : State); refine Changes.via (l := pl) (s := s0) (x := x) ?_ (fun hx => ?_); rotate_left; clear_value x; rotate_left; unfold x)
    | ((try lift_lets); intro x; clear_value x)
    | with_reducible assumption
    | with_reducible apply State.setStage_changes
    | (with_reducible apply Changes.upd_exchs; first | with_reducible assumption | with_reducible apply State.setStage_changes | split)
    | split
    | (dsimp only))

theorem State.startExch_changes {pl : List Part} {p : Fin 2} {opcode op : Nat} (hk : Changes pl s0 s) (hL : Part.Sub [.page .ENG, .page .VLX, .page .EMP, .page .HBM, .risen, .ahead, .fields, .recOnce, .records, .hostOut, .hostHeld, .fwIrq, .msix, .edge, .edgeMark, .edgeWb, .selfRefresh, .queues, .step, .exchs, .free] pl := by first | assumption | exact Part.Sub.via (by assumption) (by decide +kernel)) : Changes pl s0 (State.startExch s p opcode op) := by
  unfold State.startExch
  repeat' (first
    | with_reducible exact hL
    | with_reducible exact Part.Sub.via hL (by decide)
    | ((try lift_lets); intro (x : State); refine Changes.via (l := pl) (s := s0) (x := x) ?_ (fun hx => ?_); rotate_left; clear_value x; rotate_left; unfold x)
    | ((try lift_lets); intro x; clear_value x)
    | with_reducible assumption
    | with_reducible apply State.openExch_changes
    | with_reducible apply State.refuseExch_changes
    | split
    | (dsimp only))

theorem execExchAccum_changes {p : Fin 2} {pl : List Part} (hL : Part.Sub [.page .ENG, .page .VLX, .page .EMP, .page .HBM, .risen, .ahead, .fields, .recOnce, .records, .hostOut, .hostHeld, .fwIrq, .msix, .edge, .edgeMark, .edgeWb, .selfRefresh, .queues, .step, .exchs, .free] pl := by first | assumption | exact Part.Sub.via (by assumption) (by decide +kernel)) : ChangesOut pl s (execExchAccum p s) := by
  unfold execExchAccum
  have hk : Changes pl s s := Changes.refl pl s
  repeat' (first
    | with_reducible exact hL
    | with_reducible exact Part.Sub.via hL (by decide)
    | with_reducible apply ChangesOut.next
    | ((try lift_lets); intro (x : State); refine Changes.via (l := pl) (s := s) (x := x) ?_ (fun hx => ?_); rotate_left; clear_value x; rotate_left; unfold x)
    | ((try lift_lets); intro x; clear_value x)
    | with_reducible assumption
    | with_reducible apply State.startExch_changes
    | split
    | (dsimp only))

theorem execExchWrite_changes {p : Fin 2} {pl : List Part} (hL : Part.Sub [.page .ENG, .page .VLX, .page .EMP, .page .HBM, .risen, .ahead, .fields, .recOnce, .records, .hostOut, .hostHeld, .fwIrq, .msix, .edge, .edgeMark, .edgeWb, .selfRefresh, .queues, .step, .exchs, .free] pl := by first | assumption | exact Part.Sub.via (by assumption) (by decide +kernel)) : ChangesOut pl s (execExchWrite p s) := by
  unfold execExchWrite
  have hk : Changes pl s s := Changes.refl pl s
  repeat' (first
    | with_reducible exact hL
    | with_reducible exact Part.Sub.via hL (by decide)
    | with_reducible apply ChangesOut.next
    | ((try lift_lets); intro (x : State); refine Changes.via (l := pl) (s := s) (x := x) ?_ (fun hx => ?_); rotate_left; clear_value x; rotate_left; unfold x)
    | ((try lift_lets); intro x; clear_value x)
    | with_reducible assumption
    | with_reducible apply State.startExch_changes
    | split
    | (dsimp only))

theorem execExchSignal_changes {p : Fin 2} {pl : List Part} (hL : Part.Sub [.page .ENG, .page .VLX, .page .EMP, .page .HBM, .risen, .ahead, .fields, .recOnce, .records, .hostOut, .hostHeld, .fwIrq, .msix, .edge, .edgeMark, .edgeWb, .selfRefresh, .queues, .step, .exchs, .sigCount, .free] pl := by first | assumption | exact Part.Sub.via (by assumption) (by decide +kernel)) : ChangesOut pl s (execExchSignal p s) := by
  unfold execExchSignal
  have hk : Changes pl s s := Changes.refl pl s
  repeat' (first
    | with_reducible exact hL
    | with_reducible exact Part.Sub.via hL (by decide)
    | with_reducible apply ChangesOut.next
    | ((try lift_lets); intro (x : State); refine Changes.via (l := pl) (s := s) (x := x) ?_ (fun hx => ?_); rotate_left; clear_value x; rotate_left; unfold x)
    | ((try lift_lets); intro x; clear_value x)
    | with_reducible assumption
    | with_reducible apply State.openExch_changes
    | with_reducible apply State.refuseExch_changes
    | (with_reducible apply Changes.upd_sigCount; first | with_reducible assumption | with_reducible apply State.openExch_changes | with_reducible apply State.refuseExch_changes | split)
    | split
    | (dsimp only))

theorem execExchCancel_changes {p : Fin 2} {pl : List Part} (hL : Part.Sub [.page .ENG, .page .VLX, .page .EMP, .page .HBM, .risen, .ahead, .fields, .recOnce, .records, .hostOut, .hostHeld, .fwIrq, .msix, .edge, .edgeMark, .edgeWb, .selfRefresh, .queues, .step, .exchs, .free] pl := by first | assumption | exact Part.Sub.via (by assumption) (by decide +kernel)) : ChangesOut pl s (execExchCancel p s) := by
  unfold execExchCancel
  have hk : Changes pl s s := Changes.refl pl s
  repeat' (first
    | with_reducible exact hL
    | with_reducible exact Part.Sub.via hL (by decide)
    | with_reducible apply ChangesOut.next
    | ((try lift_lets); intro (x : State); refine Changes.via (l := pl) (s := s) (x := x) ?_ (fun hx => ?_); rotate_left; clear_value x; rotate_left; unfold x)
    | ((try lift_lets); intro x; clear_value x)
    | with_reducible assumption
    | with_reducible apply State.cancelExchanges_changes
    | with_reducible apply State.complete_changes
    | split
    | (dsimp only))

theorem execExchangeFrameSend_changes {n : Nat} {pl : List Part} (hL : Part.Sub [.page .ENG, .page .VLX, .page .EMP, .page .HBM, .page .VPT, .risen, .ahead, .tiles, .fields, .recOnce, .records, .hostOut, .hostHeld, .fwIrq, .msix, .edge, .edgeMark, .edgeWb, .selfRefresh, .queues, .step, .links, .wire, .exchs, .destSets, .windows, .derived, .free] pl := by first | assumption | exact Part.Sub.via (by assumption) (by decide +kernel)) : ChangesOut pl s (execExchangeFrameSend n s) := by
  unfold execExchangeFrameSend
  have hk : Changes pl s s := Changes.refl pl s
  repeat' (first
    | with_reducible exact hL
    | with_reducible exact Part.Sub.via hL (by decide)
    | with_reducible apply ChangesOut.next
    | ((try lift_lets); intro (x : State); refine Changes.via (l := pl) (s := s) (x := x) ?_ (fun hx => ?_); rotate_left; clear_value x; rotate_left; unfold x)
    | ((try lift_lets); intro x; clear_value x)
    | with_reducible assumption
    | with_reducible apply State.formFrame_changes
    | split
    | (dsimp only))

theorem execAckTimeout_changes {n k : Nat} {final : Bool} {pl : List Part} (hL : Part.Sub [.page .ENG, .page .VLX, .page .EMP, .page .HBM, .page .VPT, .risen, .ahead, .tiles, .fields, .recOnce, .records, .hostOut, .hostHeld, .fwIrq, .msix, .edge, .edgeMark, .edgeWb, .selfRefresh, .queues, .step, .links, .wire, .exchs, .destSets, .windows, .derived, .free] pl := by first | assumption | exact Part.Sub.via (by assumption) (by decide +kernel)) : ChangesOut pl s (execAckTimeout n k final s) := by
  unfold execAckTimeout
  have hk : Changes pl s s := Changes.refl pl s
  repeat' (first
    | with_reducible exact hL
    | with_reducible exact Part.Sub.via hL (by decide)
    | with_reducible apply ChangesOut.next
    | ((try lift_lets); intro (x : State); refine Changes.via (l := pl) (s := s) (x := x) ?_ (fun hx => ?_); rotate_left; clear_value x; rotate_left; unfold x)
    | ((try lift_lets); intro x; clear_value x)
    | with_reducible assumption
    | with_reducible apply State.sendEx_changes
    | with_reducible apply State.endExch_changes
    | split
    | (dsimp only))

theorem execBusyBackoff_changes {n k : Nat} {pl : List Part} (hL : Part.Sub [.page .ENG, .page .VLX, .page .EMP, .page .HBM, .page .VPT, .risen, .ahead, .tiles, .fields, .recOnce, .records, .hostOut, .hostHeld, .fwIrq, .msix, .edge, .edgeMark, .edgeWb, .selfRefresh, .queues, .step, .links, .wire, .exchs, .destSets, .windows, .derived, .free] pl := by first | assumption | exact Part.Sub.via (by assumption) (by decide +kernel)) : ChangesOut pl s (execBusyBackoff n k s) := by
  unfold execBusyBackoff
  have hk : Changes pl s s := Changes.refl pl s
  repeat' (first
    | with_reducible exact hL
    | with_reducible exact Part.Sub.via hL (by decide)
    | with_reducible apply ChangesOut.next
    | ((try lift_lets); intro (x : State); refine Changes.via (l := pl) (s := s) (x := x) ?_ (fun hx => ?_); rotate_left; clear_value x; rotate_left; unfold x)
    | ((try lift_lets); intro x; clear_value x)
    | with_reducible assumption
    | with_reducible apply State.sendEx_changes
    | split
    | (dsimp only))

theorem State.refuseFrame_changes {pl : List Part} {l : Nat} {p : Fin 2} {f : Frame} {code : Nat} (hk : Changes pl s0 s) (hL : Part.Sub [.page .VLX, .page .VPT, .risen, .ahead, .recOnce, .records, .hostOut, .hostHeld, .fwIrq, .msix, .links, .wire] pl := by first | assumption | exact Part.Sub.via (by assumption) (by decide +kernel)) : Changes pl s0 (State.refuseFrame s l p f code) := by
  unfold State.refuseFrame
  repeat' (first
    | with_reducible exact hL
    | with_reducible exact Part.Sub.via hL (by decide)
    | ((try lift_lets); intro (x : State); refine Changes.via (l := pl) (s := s0) (x := x) ?_ (fun hx => ?_); rotate_left; clear_value x; rotate_left; unfold x)
    | ((try lift_lets); intro x; clear_value x)
    | with_reducible assumption
    | with_reducible apply State.countWm_changes
    | with_reducible apply State.answerFrame_changes
    | with_reducible apply State.vlxCapture_changes
    | exact hL _ (Part.mem_elem (by rfl))
    | split
    | (dsimp only))

theorem State.once_changes {pl : List Part} {l : Nat} {p : Fin 2} {f : Frame} {act : State → State} (h : Changes pl s0 s)
    (ha : ∀ u, Changes pl s0 u → Changes pl s0 (act u)) (hL : Part.Sub [.page .VLX, .page .VPT, .risen, .ahead, .links, .wire, .windows, .derived] pl := by first | assumption | exact Part.Sub.via (by assumption) (by decide +kernel)) : Changes pl s0 (s.once l p f act) := by
  have hv : Part.page .VLX ∈ pl := hL _ (Part.mem_elem (by rfl))
  unfold State.once
  dsimp only
  split
  · exact State.answerFrame_changes (State.countWm_changes (State.dedup_changes h) hv)
  · exact State.answerFrame_changes (State.countWm_changes (State.dedup_changes h) hv)
  · exact ha _ (State.countWm_changes (State.dedup_changes h) hv)

theorem State.inWrite_changes {pl : List Part} {l : Nat} {p q : Fin 2} {f : Frame} (hk : Changes pl s0 s) (hL : Part.Sub [.page .VLX, .page .EMP, .page .HBM, .page .VPT, .risen, .ahead, .recOnce, .records, .hostOut, .hostHeld, .fwIrq, .msix, .edge, .edgeMark, .edgeWb, .selfRefresh, .links, .wire, .windows, .derived] pl := by first | assumption | exact Part.Sub.via (by assumption) (by decide +kernel)) : Changes pl s0 (State.inWrite s l p q f) := by
  unfold State.inWrite
  repeat' (first
    | with_reducible exact hL
    | with_reducible exact Part.Sub.via hL (by decide)
    | ((try lift_lets); intro (x : State); refine Changes.via (l := pl) (s := s0) (x := x) ?_ (fun hx => ?_); rotate_left; clear_value x; rotate_left; unfold x)
    | ((try lift_lets); intro x; clear_value x)
    | with_reducible assumption
    | with_reducible refine State.once_changes ?_ (fun u hu => ?_) ?_
    | with_reducible apply State.refuseFrame_changes
    | with_reducible apply State.answerFrame_changes
    | with_reducible apply State.edgeWrite_changes
    | exact hL _ (Part.mem_elem (by rfl))
    | (refine hL _ (Part.mem_elem ?_); (repeat' split) <;> rfl)
    | split
    | (dsimp only))

theorem State.inSignal_changes {pl : List Part} {l : Nat} {p : Fin 2} {f : Frame} (hk : Changes pl s0 s) (hL : Part.Sub [.page .ENG, .page .VLX, .page .VPT, .risen, .ahead, .fields, .recOnce, .records, .hostOut, .hostHeld, .fwIrq, .msix, .links, .wire, .windows, .derived] pl := by first | assumption | exact Part.Sub.via (by assumption) (by decide +kernel)) : Changes pl s0 (State.inSignal s l p f) := by
  unfold State.inSignal
  repeat' (first
    | with_reducible exact hL
    | with_reducible exact Part.Sub.via hL (by decide)
    | ((try lift_lets); intro (x : State); refine Changes.via (l := pl) (s := s0) (x := x) ?_ (fun hx => ?_); rotate_left; clear_value x; rotate_left; unfold x)
    | ((try lift_lets); intro x; clear_value x)
    | with_reducible assumption
    | with_reducible refine State.once_changes ?_ (fun u hu => ?_) ?_
    | with_reducible apply State.refuseFrame_changes
    | with_reducible apply State.countWm_changes
    | with_reducible apply State.markOp_changes
    | with_reducible apply State.answerFrame_changes
    | exact hL _ (Part.mem_elem (by rfl))
    | (refine hL _ (Part.mem_elem ?_); (repeat' split) <;> rfl)
    | split
    | (dsimp only))

theorem State.inTaint_changes {pl : List Part} {l : Nat} {p : Fin 2} {f : Frame} (hk : Changes pl s0 s) (hL : Part.Sub [.page .VLX, .page .VPT, .risen, .ahead, .recOnce, .records, .hostOut, .hostHeld, .fwIrq, .msix, .links, .wire, .windows, .derived, .taintNamed] pl := by first | assumption | exact Part.Sub.via (by assumption) (by decide +kernel)) : Changes pl s0 (State.inTaint s l p f) := by
  unfold State.inTaint
  repeat' (first
    | with_reducible exact hL
    | with_reducible exact Part.Sub.via hL (by decide)
    | ((try lift_lets); intro (x : State); refine Changes.via (l := pl) (s := s0) (x := x) ?_ (fun hx => ?_); rotate_left; clear_value x; rotate_left; unfold x)
    | ((try lift_lets); intro x; clear_value x)
    | with_reducible assumption
    | with_reducible refine State.once_changes ?_ (fun u hu => ?_) ?_
    | with_reducible apply State.refuseFrame_changes
    | with_reducible apply State.raise_changes
    | with_reducible apply State.countWm_changes
    | with_reducible apply State.setIrq_changes
    | with_reducible apply State.setReg_changes
    | with_reducible apply State.answerFrame_changes
    | (with_reducible apply Changes.upd_taintNamed; first | with_reducible assumption | with_reducible refine State.once_changes ?_ (fun u hu => ?_) ?_ | with_reducible apply State.refuseFrame_changes | with_reducible apply State.raise_changes | with_reducible apply State.countWm_changes | with_reducible apply State.setIrq_changes | with_reducible apply State.setReg_changes | with_reducible apply State.answerFrame_changes | split)
    | exact hL _ (Part.mem_elem (by rfl))
    | (refine hL _ (Part.mem_elem ?_); (repeat' split) <;> rfl)
    | split
    | (dsimp only))

theorem State.inCauseway_changes {pl : List Part} {l : Nat} {p : Fin 2} {f : Frame} (hk : Changes pl s0 s) (hL : Part.Sub [.page .CWY, .page .VLX, .page .EMP, .page .HBM, .page .VPT, .risen, .ahead, .recOnce, .records, .hostOut, .hostHeld, .fwIrq, .msix, .edge, .edgeMark, .edgeWb, .selfRefresh, .links, .wire, .importing] pl := by first | assumption | exact Part.Sub.via (by assumption) (by decide +kernel)) : Changes pl s0 (State.inCauseway s l p f) := by
  unfold State.inCauseway
  repeat' (first
    | with_reducible exact hL
    | with_reducible exact Part.Sub.via hL (by decide)
    | ((try lift_lets); intro (x : State); refine Changes.via (l := pl) (s := s0) (x := x) ?_ (fun hx => ?_); rotate_left; clear_value x; rotate_left; unfold x)
    | ((try lift_lets); intro x; clear_value x)
    | with_reducible assumption
    | with_reducible apply State.refuseFrame_changes
    | with_reducible apply State.countWm_changes
    | with_reducible apply State.count_changes
    | with_reducible apply State.answerFrame_changes
    | with_reducible apply State.edgeWrite_changes
    | (with_reducible apply Changes.upd_importing; first | with_reducible assumption | with_reducible apply State.refuseFrame_changes | with_reducible apply State.countWm_changes | with_reducible apply State.count_changes | with_reducible apply State.answerFrame_changes | with_reducible apply State.edgeWrite_changes | split)
    | exact hL _ (Part.mem_elem (by rfl))
    | (refine hL _ (Part.mem_elem ?_); (repeat' split) <;> rfl)
    | split
    | (dsimp only))

theorem State.inAnswer_changes {pl : List Part} {q : Fin 2} {f : Frame} (hk : Changes pl s0 s) (hL : Part.Sub [.page .ENG, .page .VLX, .page .EMP, .page .HBM, .risen, .ahead, .fields, .recOnce, .records, .hostOut, .hostHeld, .fwIrq, .msix, .edge, .edgeMark, .edgeWb, .selfRefresh, .queues, .step, .exchs, .free] pl := by first | assumption | exact Part.Sub.via (by assumption) (by decide +kernel)) : Changes pl s0 (State.inAnswer s q f) := by
  unfold State.inAnswer
  repeat' (first
    | with_reducible exact hL
    | with_reducible exact Part.Sub.via hL (by decide)
    | ((try lift_lets); intro (x : State); refine Changes.via (l := pl) (s := s0) (x := x) ?_ (fun hx => ?_); rotate_left; clear_value x; rotate_left; unfold x)
    | ((try lift_lets); intro (x : _ → _); dsimp -zeta only [x]; clear x)
    | ((try lift_lets); intro x; clear_value x)
    | with_reducible assumption
    | with_reducible apply State.countWm_changes
    | with_reducible apply State.exAnswer_changes
    | exact hL _ (Part.mem_elem (by rfl))
    | (refine hL _ (Part.mem_elem ?_); (repeat' split) <;> rfl)
    | split
    | (dsimp only))

theorem State.inbound_changes {pl : List Part} {l : Nat} {b : List Byte} (hk : Changes pl s0 s) (hL : Part.Sub [.page .ENG, .page .CWY, .page .SEN, .page .VLX, .page .EMP, .page .HBM, .page .VPT, .risen, .ahead, .fields, .recOnce, .records, .hostOut, .hostHeld, .fwIrq, .msix, .edge, .edgeMark, .edgeWb, .selfRefresh, .ctxs, .queues, .step, .links, .wire, .exchs, .windows, .derived, .taintNamed, .importing, .free] pl := by first | assumption | exact Part.Sub.via (by assumption) (by decide +kernel)) : Changes pl s0 (State.inbound s l b) := by
  unfold State.inbound
  repeat' (first
    | with_reducible exact hL
    | with_reducible exact Part.Sub.via hL (by decide)
    | ((try lift_lets); intro (x : State); refine Changes.via (l := pl) (s := s0) (x := x) ?_ (fun hx => ?_); rotate_left; clear_value x; rotate_left; unfold x)
    | ((try lift_lets); intro x; clear_value x)
    | with_reducible assumption
    | with_reducible apply State.inAnswer_changes
    | with_reducible apply State.inCauseway_changes
    | with_reducible apply State.inTaint_changes
    | with_reducible apply State.inSignal_changes
    | with_reducible apply State.inWrite_changes
    | with_reducible apply State.refuseFrame_changes
    | with_reducible apply State.readResp_changes
    | split
    | (dsimp only))

theorem State.arriveFrame_changes {pl : List Part} {l : Nat} {tag : W64} {b : List Byte} (hk : Changes pl s0 s) (hL : Part.Sub [.page .ENG, .page .CWY, .page .SEN, .page .VLX, .page .EMP, .page .HBM, .page .VPT, .risen, .ahead, .fields, .recOnce, .records, .hostOut, .hostHeld, .fwIrq, .msix, .edge, .edgeMark, .edgeWb, .selfRefresh, .ctxs, .queues, .step, .links, .wire, .exchs, .windows, .derived, .taintNamed, .importing, .free] pl := by first | assumption | exact Part.Sub.via (by assumption) (by decide +kernel)) : Changes pl s0 (State.arriveFrame s l tag b) := by
  unfold State.arriveFrame
  repeat' (first
    | with_reducible exact hL
    | with_reducible exact Part.Sub.via hL (by decide)
    | ((try lift_lets); intro (x : State); refine Changes.via (l := pl) (s := s0) (x := x) ?_ (fun hx => ?_); rotate_left; clear_value x; rotate_left; unfold x)
    | ((try lift_lets); intro (x : State × _); refine Changes.via (l := pl) (s := s0) (x := x.1) ?_ (fun hx => ?_); rotate_left; clear_value x; rotate_left; unfold x)
    | ((try lift_lets); intro (x : _ × State); refine Changes.via (l := pl) (s := s0) (x := x.2) ?_ (fun hx => ?_); rotate_left; clear_value x; rotate_left; unfold x)
    | ((try lift_lets); intro x; clear_value x)
    | with_reducible assumption
    | with_reducible apply State.inbound_changes
    | with_reducible apply State.countWm_changes
    | with_reducible refine Changes.of_fst (State.recvFrame_changes ?_ ?_) (by assumption)
    | with_reducible apply State.recvFrame_changes
    | exact hL _ (Part.mem_elem (by rfl))
    | (refine hL _ (Part.mem_elem ?_); (repeat' split) <;> rfl)
    | split
    | (dsimp only))

theorem State.arriveRow_changes {pl : List Part} {row : Nat} {l : Nat} {tag : W64} {b : List Byte} (hk : Changes pl s0 s) (hL : Part.Sub [.page .ENG, .page .CWY, .page .SEN, .page .VLX, .page .EMP, .page .HBM, .page .VPT, .risen, .ahead, .fields, .recOnce, .records, .hostOut, .hostHeld, .fwIrq, .msix, .edge, .edgeMark, .edgeWb, .selfRefresh, .ctxs, .queues, .step, .links, .wire, .exchs, .windows, .derived, .taintNamed, .importing, .free] pl := by first | assumption | exact Part.Sub.via (by assumption) (by decide +kernel)) : Changes pl s0 (State.arriveRow s row l tag b) := by
  unfold State.arriveRow
  repeat' (first
    | with_reducible exact hL
    | with_reducible exact Part.Sub.via hL (by decide)
    | ((try lift_lets); intro (x : State); refine Changes.via (l := pl) (s := s0) (x := x) ?_ (fun hx => ?_); rotate_left; clear_value x; rotate_left; unfold x)
    | ((try lift_lets); intro x; clear_value x)
    | with_reducible assumption
    | with_reducible apply State.arriveFrame_changes
    | split
    | (dsimp only))

theorem execWriteFrame_changes {l : Fin 72} {tag : W64} {bytes : List Byte} {pl : List Part} (hL : Part.Sub [.page .ENG, .page .CWY, .page .SEN, .page .VLX, .page .EMP, .page .HBM, .page .VPT, .risen, .ahead, .fields, .recOnce, .records, .hostOut, .hostHeld, .fwIrq, .msix, .edge, .edgeMark, .edgeWb, .selfRefresh, .ctxs, .queues, .step, .links, .wire, .exchs, .windows, .derived, .taintNamed, .importing, .free] pl := by first | assumption | exact Part.Sub.via (by assumption) (by decide +kernel)) : ChangesOut pl s (execWriteFrame l tag bytes s) := by
  unfold execWriteFrame
  have hk : Changes pl s s := Changes.refl pl s
  repeat' (first
    | with_reducible exact hL
    | with_reducible exact Part.Sub.via hL (by decide)
    | with_reducible apply ChangesOut.next
    | ((try lift_lets); intro (x : State); refine Changes.via (l := pl) (s := s) (x := x) ?_ (fun hx => ?_); rotate_left; clear_value x; rotate_left; unfold x)
    | ((try lift_lets); intro x; clear_value x)
    | with_reducible assumption
    | with_reducible apply State.arriveRow_changes
    | split
    | (dsimp only))

theorem execSignalFrame_changes {l : Fin 72} {tag : W64} {bytes : List Byte} {pl : List Part} (hL : Part.Sub [.page .ENG, .page .CWY, .page .SEN, .page .VLX, .page .EMP, .page .HBM, .page .VPT, .risen, .ahead, .fields, .recOnce, .records, .hostOut, .hostHeld, .fwIrq, .msix, .edge, .edgeMark, .edgeWb, .selfRefresh, .ctxs, .queues, .step, .links, .wire, .exchs, .windows, .derived, .taintNamed, .importing, .free] pl := by first | assumption | exact Part.Sub.via (by assumption) (by decide +kernel)) : ChangesOut pl s (execSignalFrame l tag bytes s) := by
  unfold execSignalFrame
  have hk : Changes pl s s := Changes.refl pl s
  repeat' (first
    | with_reducible exact hL
    | with_reducible exact Part.Sub.via hL (by decide)
    | with_reducible apply ChangesOut.next
    | ((try lift_lets); intro (x : State); refine Changes.via (l := pl) (s := s) (x := x) ?_ (fun hx => ?_); rotate_left; clear_value x; rotate_left; unfold x)
    | ((try lift_lets); intro x; clear_value x)
    | with_reducible assumption
    | with_reducible apply State.arriveRow_changes
    | split
    | (dsimp only))

theorem execTaintFrame_changes {l : Fin 72} {tag : W64} {bytes : List Byte} {pl : List Part} (hL : Part.Sub [.page .ENG, .page .CWY, .page .SEN, .page .VLX, .page .EMP, .page .HBM, .page .VPT, .risen, .ahead, .fields, .recOnce, .records, .hostOut, .hostHeld, .fwIrq, .msix, .edge, .edgeMark, .edgeWb, .selfRefresh, .ctxs, .queues, .step, .links, .wire, .exchs, .windows, .derived, .taintNamed, .importing, .free] pl := by first | assumption | exact Part.Sub.via (by assumption) (by decide +kernel)) : ChangesOut pl s (execTaintFrame l tag bytes s) := by
  unfold execTaintFrame
  have hk : Changes pl s s := Changes.refl pl s
  repeat' (first
    | with_reducible exact hL
    | with_reducible exact Part.Sub.via hL (by decide)
    | with_reducible apply ChangesOut.next
    | ((try lift_lets); intro (x : State); refine Changes.via (l := pl) (s := s) (x := x) ?_ (fun hx => ?_); rotate_left; clear_value x; rotate_left; unfold x)
    | ((try lift_lets); intro x; clear_value x)
    | with_reducible assumption
    | with_reducible apply State.arriveRow_changes
    | split
    | (dsimp only))

theorem execReadresp_changes {l : Fin 72} {tag : W64} {bytes : List Byte} {pl : List Part} (hL : Part.Sub [.page .ENG, .page .CWY, .page .SEN, .page .VLX, .page .EMP, .page .HBM, .page .VPT, .risen, .ahead, .fields, .recOnce, .records, .hostOut, .hostHeld, .fwIrq, .msix, .edge, .edgeMark, .edgeWb, .selfRefresh, .ctxs, .queues, .step, .links, .wire, .exchs, .windows, .derived, .taintNamed, .importing, .free] pl := by first | assumption | exact Part.Sub.via (by assumption) (by decide +kernel)) : ChangesOut pl s (execReadresp l tag bytes s) := by
  unfold execReadresp
  have hk : Changes pl s s := Changes.refl pl s
  repeat' (first
    | with_reducible exact hL
    | with_reducible exact Part.Sub.via hL (by decide)
    | with_reducible apply ChangesOut.next
    | ((try lift_lets); intro (x : State); refine Changes.via (l := pl) (s := s) (x := x) ?_ (fun hx => ?_); rotate_left; clear_value x; rotate_left; unfold x)
    | ((try lift_lets); intro x; clear_value x)
    | with_reducible assumption
    | with_reducible apply State.arriveRow_changes
    | split
    | (dsimp only))

theorem execFrameAnswer_changes {l : Fin 72} {tag : W64} {bytes : List Byte} {pl : List Part} (hL : Part.Sub [.page .ENG, .page .CWY, .page .SEN, .page .VLX, .page .EMP, .page .HBM, .page .VPT, .risen, .ahead, .fields, .recOnce, .records, .hostOut, .hostHeld, .fwIrq, .msix, .edge, .edgeMark, .edgeWb, .selfRefresh, .ctxs, .queues, .step, .links, .wire, .exchs, .windows, .derived, .taintNamed, .importing, .free] pl := by first | assumption | exact Part.Sub.via (by assumption) (by decide +kernel)) : ChangesOut pl s (execFrameAnswer l tag bytes s) := by
  unfold execFrameAnswer
  have hk : Changes pl s s := Changes.refl pl s
  repeat' (first
    | with_reducible exact hL
    | with_reducible exact Part.Sub.via hL (by decide)
    | with_reducible apply ChangesOut.next
    | ((try lift_lets); intro (x : State); refine Changes.via (l := pl) (s := s) (x := x) ?_ (fun hx => ?_); rotate_left; clear_value x; rotate_left; unfold x)
    | ((try lift_lets); intro x; clear_value x)
    | with_reducible assumption
    | with_reducible apply State.arriveRow_changes
    | split
    | (dsimp only))

theorem execUnacceptedFrame_changes {l : Fin 72} {tag : W64} {bytes : List Byte} {pl : List Part} (hL : Part.Sub [.page .ENG, .page .CWY, .page .SEN, .page .VLX, .page .EMP, .page .HBM, .page .VPT, .risen, .ahead, .fields, .recOnce, .records, .hostOut, .hostHeld, .fwIrq, .msix, .edge, .edgeMark, .edgeWb, .selfRefresh, .ctxs, .queues, .step, .links, .wire, .exchs, .windows, .derived, .taintNamed, .importing, .free] pl := by first | assumption | exact Part.Sub.via (by assumption) (by decide +kernel)) : ChangesOut pl s (execUnacceptedFrame l tag bytes s) := by
  unfold execUnacceptedFrame
  have hk : Changes pl s s := Changes.refl pl s
  repeat' (first
    | with_reducible exact hL
    | with_reducible exact Part.Sub.via hL (by decide)
    | with_reducible apply ChangesOut.next
    | ((try lift_lets); intro (x : State); refine Changes.via (l := pl) (s := s) (x := x) ?_ (fun hx => ?_); rotate_left; clear_value x; rotate_left; unfold x)
    | ((try lift_lets); intro x; clear_value x)
    | with_reducible assumption
    | with_reducible apply State.arriveRow_changes
    | split
    | (dsimp only))

theorem execLinkControlWord_changes {l : Fin 72} {send : Bool} {tag : W64} {corr uncorr : Nat} {pl : List Part} (hL : Part.Sub [.page .VPT, .links, .wire] pl := by first | assumption | exact Part.Sub.via (by assumption) (by decide +kernel)) : ChangesOut pl s (execLinkControlWord l send tag corr uncorr s) := by
  unfold execLinkControlWord
  have hk : Changes pl s s := Changes.refl pl s
  repeat' (first
    | with_reducible exact hL
    | with_reducible exact Part.Sub.via hL (by decide)
    | with_reducible apply ChangesOut.next
    | ((try lift_lets); intro (x : State); refine Changes.via (l := pl) (s := s) (x := x) ?_ (fun hx => ?_); rotate_left; clear_value x; rotate_left; unfold x)
    | ((try lift_lets); intro x; clear_value x)
    | with_reducible assumption
    | with_reducible apply State.count_changes
    | with_reducible apply State.tagWork_changes
    | with_reducible apply State.sendNak_changes
    | with_reducible apply State.onWire_changes
    | exact hL _ (Part.mem_elem (by rfl))
    | (refine hL _ (Part.mem_elem ?_); (repeat' split) <;> rfl)
    | split
    | (dsimp only))

theorem execReplayTimer_changes {l : Fin 72} {pl : List Part} (hL : Part.Sub [.page .VPT, .links, .wire] pl := by first | assumption | exact Part.Sub.via (by assumption) (by decide +kernel)) : ChangesOut pl s (execReplayTimer l s) := by
  unfold execReplayTimer
  have hk : Changes pl s s := Changes.refl pl s
  repeat' (first
    | with_reducible exact hL
    | with_reducible exact Part.Sub.via hL (by decide)
    | with_reducible apply ChangesOut.next
    | ((try lift_lets); intro (x : State); refine Changes.via (l := pl) (s := s) (x := x) ?_ (fun hx => ?_); rotate_left; clear_value x; rotate_left; unfold x)
    | ((try lift_lets); intro x; clear_value x)
    | with_reducible assumption
    | with_reducible apply State.replay_changes
    | split
    | (dsimp only))

theorem State.moveFrames_changes {pl : List Part} {p : Fin 2} {port : Nat} (hk : Changes pl s0 s) (hL : Part.Sub [.page .ENG, .page .SEN, .page .VLX, .page .EMP, .page .HBM, .page .VPT, .risen, .ahead, .tiles, .fields, .recOnce, .records, .hostOut, .hostHeld, .fwIrq, .msix, .edge, .edgeMark, .edgeWb, .selfRefresh, .ctxs, .queues, .step, .links, .wire, .exchs, .destSets, .windows, .derived, .free] pl := by first | assumption | exact Part.Sub.via (by assumption) (by decide +kernel)) : Changes pl s0 (State.moveFrames s p port) := by
  unfold State.moveFrames
  repeat' (first
    | with_reducible exact hL
    | with_reducible exact Part.Sub.via hL (by decide)
    | ((try lift_lets); intro (x : State); refine Changes.via (l := pl) (s := s0) (x := x) ?_ (fun hx => ?_); rotate_left; clear_value x; rotate_left; unfold x)
    | ((try lift_lets); intro x; clear_value x)
    | with_reducible assumption
    | with_reducible apply State.resendReq_changes
    | with_reducible apply State.turn_changes
    | with_reducible apply State.sendEx_changes
    | with_reducible apply State.setExch_changes
    | with_reducible refine Changes.foldl ?_ (fun u x hu => ?_)
    | split
    | (dsimp only))

theorem State.portOut_changes {pl : List Part} {l state : Nat} (hk : Changes pl s0 s) (hL : Part.Sub [.page .ENG, .page .SEN, .page .VLX, .page .EMP, .page .HBM, .page .VPT, .risen, .ahead, .tiles, .fields, .recOnce, .records, .hostOut, .hostHeld, .fwIrq, .msix, .edge, .edgeMark, .edgeWb, .selfRefresh, .ctxs, .queues, .step, .links, .wire, .exchs, .destSets, .windows, .derived, .free] pl := by first | assumption | exact Part.Sub.via (by assumption) (by decide +kernel)) : Changes pl s0 (State.portOut s l state) := by
  unfold State.portOut
  repeat' (first
    | with_reducible exact hL
    | with_reducible exact Part.Sub.via hL (by decide)
    | ((try lift_lets); intro (x : State); refine Changes.via (l := pl) (s := s0) (x := x) ?_ (fun hx => ?_); rotate_left; clear_value x; rotate_left; unfold x)
    | ((try lift_lets); intro x; clear_value x)
    | with_reducible assumption
    | with_reducible apply State.moveFrames_changes
    | with_reducible apply State.setF_changes
    | with_reducible apply State.setVlink_changes
    | exact hL _ (Part.mem_elem (by rfl))
    | (refine hL _ (Part.mem_elem ?_); (repeat' split) <;> rfl)
    | split
    | (dsimp only))

theorem State.portFail_changes {pl : List Part} {l : Nat} (hk : Changes pl s0 s) (hL : Part.Sub [.page .ENG, .page .SEN, .page .VLX, .page .EMP, .page .HBM, .page .VPT, .risen, .ahead, .tiles, .fields, .recOnce, .records, .hostOut, .hostHeld, .fwIrq, .msix, .edge, .edgeMark, .edgeWb, .selfRefresh, .ctxs, .queues, .step, .links, .wire, .exchs, .destSets, .windows, .derived, .free] pl := by first | assumption | exact Part.Sub.via (by assumption) (by decide +kernel)) : Changes pl s0 (State.portFail s l) := by
  unfold State.portFail
  repeat' (first
    | with_reducible exact hL
    | with_reducible exact Part.Sub.via hL (by decide)
    | ((try lift_lets); intro (x : State); refine Changes.via (l := pl) (s := s0) (x := x) ?_ (fun hx => ?_); rotate_left; clear_value x; rotate_left; unfold x)
    | ((try lift_lets); intro x; clear_value x)
    | with_reducible assumption
    | with_reducible apply State.portOut_changes
    | with_reducible apply State.raise_changes
    | with_reducible apply State.setIrq_changes
    | exact hL _ (Part.mem_elem (by rfl))
    | (refine hL _ (Part.mem_elem ?_); (repeat' split) <;> rfl)
    | split
    | (dsimp only))

theorem State.isolateBridge_changes {pl : List Part} {f : FieldAddr} (hk : Changes pl s0 s) (hL : Part.Sub [.page .MESH, .risen, .records, .hostOut, .hostHeld, .fwIrq, .msix] pl := by first | assumption | exact Part.Sub.via (by assumption) (by decide +kernel)) : Changes pl s0 (State.isolateBridge s f) := by
  unfold State.isolateBridge
  repeat' (first
    | with_reducible exact hL
    | with_reducible exact Part.Sub.via hL (by decide)
    | ((try lift_lets); intro (x : State); refine Changes.via (l := pl) (s := s0) (x := x) ?_ (fun hx => ?_); rotate_left; clear_value x; rotate_left; unfold x)
    | ((try lift_lets); intro x; clear_value x)
    | with_reducible assumption
    | with_reducible apply State.raise_changes
    | with_reducible apply State.setErr_changes
    | with_reducible apply State.setIrq_changes
    | with_reducible apply State.setF_changes
    | exact hL _ (Part.mem_elem (by rfl))
    | (refine hL _ (Part.mem_elem ?_); (repeat' split) <;> rfl)
    | split
    | (dsimp only))

theorem State.bridgeFail_changes {pl : List Part} {n lost : Nat} (hk : Changes pl s0 s) (hL : Part.Sub [.page .BRG, .page .MESH, .risen, .records, .causes, .hostOut, .hostHeld, .fwIrq, .msix, .bridgeRx] pl := by first | assumption | exact Part.Sub.via (by assumption) (by decide +kernel)) : Changes pl s0 (State.bridgeFail s n lost) := by
  unfold State.bridgeFail
  repeat' (first
    | with_reducible exact hL
    | with_reducible exact Part.Sub.via hL (by decide)
    | ((try lift_lets); intro (x : State); refine Changes.via (l := pl) (s := s0) (x := x) ?_ (fun hx => ?_); rotate_left; clear_value x; rotate_left; unfold x)
    | ((try lift_lets); intro x; clear_value x)
    | with_reducible assumption
    | with_reducible apply State.isolateBridge_changes
    | with_reducible apply State.planeCause_changes
    | with_reducible apply State.raise_changes
    | with_reducible apply State.count_changes
    | with_reducible apply State.setIrq_changes
    | with_reducible refine Changes.foldl ?_ (fun u x hu => ?_)
    | (with_reducible apply Changes.upd_bridgeRx; first | with_reducible assumption | with_reducible apply State.isolateBridge_changes | with_reducible apply State.planeCause_changes | with_reducible apply State.raise_changes | with_reducible apply State.count_changes | with_reducible apply State.setIrq_changes | split)
    | exact hL _ (Part.mem_elem (by rfl))
    | (refine hL _ (Part.mem_elem ?_); (repeat' split) <;> rfl)
    | split
    | (dsimp only))

theorem State.groupsOut_changes {pl : List Part} {n groups lost : Nat} (hk : Changes pl s0 s) (hL : Part.Sub [.page .BRG, .page .MESH, .risen, .records, .causes, .hostOut, .hostHeld, .fwIrq, .msix, .bridgeRx] pl := by first | assumption | exact Part.Sub.via (by assumption) (by decide +kernel)) : Changes pl s0 (State.groupsOut s n groups lost) := by
  unfold State.groupsOut
  repeat' (first
    | with_reducible exact hL
    | with_reducible exact Part.Sub.via hL (by decide)
    | ((try lift_lets); intro (x : State); refine Changes.via (l := pl) (s := s0) (x := x) ?_ (fun hx => ?_); rotate_left; clear_value x; rotate_left; unfold x)
    | ((try lift_lets); intro x; clear_value x)
    | with_reducible assumption
    | with_reducible apply State.bridgeFail_changes
    | with_reducible apply State.raise_changes
    | with_reducible apply State.count_changes
    | with_reducible apply State.setIrq_changes
    | with_reducible apply State.setF_changes
    | with_reducible refine Changes.foldl ?_ (fun u x hu => ?_)
    | exact hL _ (Part.mem_elem (by rfl))
    | (refine hL _ (Part.mem_elem ?_); (repeat' split) <;> rfl)
    | split
    | (dsimp only))

theorem State.laneFail_changes {pl : List Part} {l : Nat} {lanes : BitVec 8} (hk : Changes pl s0 s) (hL : Part.Sub [.page .ENG, .page .SEN, .page .VLX, .page .EMP, .page .HBM, .page .VPT, .risen, .ahead, .tiles, .fields, .recOnce, .records, .hostOut, .hostHeld, .fwIrq, .msix, .edge, .edgeMark, .edgeWb, .selfRefresh, .ctxs, .queues, .step, .links, .wire, .exchs, .destSets, .windows, .derived, .free] pl := by first | assumption | exact Part.Sub.via (by assumption) (by decide +kernel)) : Changes pl s0 (State.laneFail s l lanes) := by
  unfold State.laneFail
  repeat' (first
    | with_reducible exact hL
    | with_reducible exact Part.Sub.via hL (by decide)
    | ((try lift_lets); intro (x : State); refine Changes.via (l := pl) (s := s0) (x := x) ?_ (fun hx => ?_); rotate_left; clear_value x; rotate_left; unfold x)
    | ((try lift_lets); intro x; clear_value x)
    | with_reducible assumption
    | with_reducible apply State.portFail_changes
    | with_reducible apply State.count_changes
    | with_reducible apply State.setF_changes
    | exact hL _ (Part.mem_elem (by rfl))
    | (refine hL _ (Part.mem_elem ?_); (repeat' split) <;> rfl)
    | split
    | (dsimp only))

theorem execLaneFailure_changes {unit : Fin 80} {lanes : BitVec 8} {lost : Nat} {pl : List Part} (hL : Part.Sub [.page .ENG, .page .BRG, .page .SEN, .page .VLX, .page .EMP, .page .HBM, .page .VPT, .page .MESH, .risen, .ahead, .tiles, .fields, .recOnce, .records, .causes, .hostOut, .hostHeld, .fwIrq, .msix, .edge, .edgeMark, .edgeWb, .selfRefresh, .bridgeRx, .ctxs, .queues, .step, .links, .wire, .exchs, .destSets, .windows, .derived, .free] pl := by first | assumption | exact Part.Sub.via (by assumption) (by decide +kernel)) : ChangesOut pl s (execLaneFailure unit lanes lost s) := by
  unfold execLaneFailure
  have hk : Changes pl s s := Changes.refl pl s
  repeat' (first
    | with_reducible exact hL
    | with_reducible exact Part.Sub.via hL (by decide)
    | with_reducible apply ChangesOut.next
    | ((try lift_lets); intro (x : State); refine Changes.via (l := pl) (s := s) (x := x) ?_ (fun hx => ?_); rotate_left; clear_value x; rotate_left; unfold x)
    | ((try lift_lets); intro x; clear_value x)
    | with_reducible assumption
    | with_reducible apply State.laneFail_changes
    | with_reducible apply State.groupsOut_changes
    | split
    | (dsimp only))

theorem State.portX4_changes {pl : List Part} {l state : Nat} (hk : Changes pl s0 s) (hL : Part.Sub [.page .VPT, .risen, .records, .hostOut, .hostHeld, .fwIrq, .msix] pl := by first | assumption | exact Part.Sub.via (by assumption) (by decide +kernel)) : Changes pl s0 (State.portX4 s l state) := by
  unfold State.portX4
  repeat' (first
    | with_reducible exact hL
    | with_reducible exact Part.Sub.via hL (by decide)
    | ((try lift_lets); intro (x : State); refine Changes.via (l := pl) (s := s0) (x := x) ?_ (fun hx => ?_); rotate_left; clear_value x; rotate_left; unfold x)
    | ((try lift_lets); intro x; clear_value x)
    | with_reducible assumption
    | with_reducible apply State.raise_changes
    | with_reducible apply State.setIrq_changes
    | with_reducible apply State.setF_changes
    | exact hL _ (Part.mem_elem (by rfl))
    | (refine hL _ (Part.mem_elem ?_); (repeat' split) <;> rfl)
    | split
    | (dsimp only))

theorem execPortDegrade_changes {l : Fin 64} {pl : List Part} (hL : Part.Sub [.page .VPT, .risen, .records, .hostOut, .hostHeld, .fwIrq, .msix, .links, .wire] pl := by first | assumption | exact Part.Sub.via (by assumption) (by decide +kernel)) : ChangesOut pl s (execPortDegrade l s) := by
  unfold execPortDegrade
  have hk : Changes pl s s := Changes.refl pl s
  repeat' (first
    | with_reducible exact hL
    | with_reducible exact Part.Sub.via hL (by decide)
    | with_reducible apply ChangesOut.next
    | ((try lift_lets); intro (x : State); refine Changes.via (l := pl) (s := s) (x := x) ?_ (fun hx => ?_); rotate_left; clear_value x; rotate_left; unfold x)
    | ((try lift_lets); intro x; clear_value x)
    | with_reducible assumption
    | with_reducible apply State.portX4_changes
    | with_reducible apply State.replay_changes
    | split
    | (dsimp only))

theorem execPortFail_changes {unit : Fin 80} {lost : Nat} {pl : List Part} (hL : Part.Sub [.page .ENG, .page .BRG, .page .SEN, .page .VLX, .page .EMP, .page .HBM, .page .VPT, .page .MESH, .risen, .ahead, .tiles, .fields, .recOnce, .records, .causes, .hostOut, .hostHeld, .fwIrq, .msix, .edge, .edgeMark, .edgeWb, .selfRefresh, .bridgeRx, .ctxs, .queues, .step, .links, .wire, .exchs, .destSets, .windows, .derived, .free] pl := by first | assumption | exact Part.Sub.via (by assumption) (by decide +kernel)) : ChangesOut pl s (execPortFail unit lost s) := by
  unfold execPortFail
  have hk : Changes pl s s := Changes.refl pl s
  repeat' (first
    | with_reducible exact hL
    | with_reducible exact Part.Sub.via hL (by decide)
    | with_reducible apply ChangesOut.next
    | ((try lift_lets); intro (x : State); refine Changes.via (l := pl) (s := s) (x := x) ?_ (fun hx => ?_); rotate_left; clear_value x; rotate_left; unfold x)
    | ((try lift_lets); intro x; clear_value x)
    | with_reducible assumption
    | with_reducible apply State.groupsOut_changes
    | with_reducible apply State.portFail_changes
    | split
    | (dsimp only))

theorem execLaneCalibration_changes {l : Fin 64} {pl : List Part} (hL : Part.Sub [.page .VPT] pl := by first | assumption | exact Part.Sub.via (by assumption) (by decide +kernel)) : ChangesOut pl s (execLaneCalibration l s) := by
  unfold execLaneCalibration
  have hk : Changes pl s s := Changes.refl pl s
  repeat' (first
    | with_reducible exact hL
    | with_reducible exact Part.Sub.via hL (by decide)
    | with_reducible apply ChangesOut.next
    | ((try lift_lets); intro (x : State); refine Changes.via (l := pl) (s := s) (x := x) ?_ (fun hx => ?_); rotate_left; clear_value x; rotate_left; unfold x)
    | ((try lift_lets); intro x; clear_value x)
    | with_reducible assumption
    | with_reducible apply State.setF_changes
    | exact hL _ (Part.mem_elem (by rfl))
    | (refine hL _ (Part.mem_elem ?_); (repeat' split) <;> rfl)
    | split
    | (dsimp only))

theorem execCalibrationEnd_changes {l : Fin 64} {pl : List Part} (hL : Part.Sub [.page .VPT] pl := by first | assumption | exact Part.Sub.via (by assumption) (by decide +kernel)) : ChangesOut pl s (execCalibrationEnd l s) := by
  unfold execCalibrationEnd
  have hk : Changes pl s s := Changes.refl pl s
  repeat' (first
    | with_reducible exact hL
    | with_reducible exact Part.Sub.via hL (by decide)
    | with_reducible apply ChangesOut.next
    | ((try lift_lets); intro (x : State); refine Changes.via (l := pl) (s := s) (x := x) ?_ (fun hx => ?_); rotate_left; clear_value x; rotate_left; unfold x)
    | ((try lift_lets); intro x; clear_value x)
    | with_reducible assumption
    | with_reducible apply State.setF_changes
    | exact hL _ (Part.mem_elem (by rfl))
    | (refine hL _ (Part.mem_elem ?_); (repeat' split) <;> rfl)
    | split
    | (dsimp only))

theorem State.vptWrite_changes {pl : List Part} {l : Nat} {fw : Bool} {value : W64} (hk : Changes pl s0 s) (hL : Part.Sub [.page .DIR, .page .ENG, .page .SEN, .page .VLX, .page .EMP, .page .HBM, .page .VPT, .risen, .ahead, .tiles, .fields, .recOnce, .records, .hostOut, .hostHeld, .fwIrq, .msix, .edge, .edgeMark, .edgeWb, .selfRefresh, .ctxs, .queues, .step, .links, .wire, .exchs, .destSets, .windows, .derived, .free] pl := by first | assumption | exact Part.Sub.via (by assumption) (by decide +kernel)) : Changes pl s0 (State.vptWrite s l fw value) := by
  unfold State.vptWrite
  repeat' (first
    | with_reducible exact hL
    | with_reducible exact Part.Sub.via hL (by decide)
    | ((try lift_lets); intro (x : State); refine Changes.via (l := pl) (s := s0) (x := x) ?_ (fun hx => ?_); rotate_left; clear_value x; rotate_left; unfold x)
    | ((try lift_lets); intro x; clear_value x)
    | with_reducible assumption
    | with_reducible apply State.portOut_changes
    | with_reducible refine State.regWrite_changes ?_ ?_ (fun u hu => ?_) ?_
    | with_reducible apply State.setF_changes
    | exact hL _ (Part.mem_elem (by rfl))
    | (refine hL _ (Part.mem_elem ?_); (repeat' split) <;> rfl)
    | split
    | (dsimp only))

theorem execPortDisable_changes {l : Fin 64} {fw : Bool} {value : W64} {pl : List Part} (hL : Part.Sub [.page .DIR, .page .ENG, .page .SEN, .page .VLX, .page .EMP, .page .HBM, .page .VPT, .risen, .ahead, .tiles, .fields, .recOnce, .records, .hostOut, .hostHeld, .fwIrq, .msix, .edge, .edgeMark, .edgeWb, .selfRefresh, .ctxs, .queues, .step, .links, .wire, .exchs, .destSets, .windows, .derived, .free] pl := by first | assumption | exact Part.Sub.via (by assumption) (by decide +kernel)) : ChangesOut pl s (execPortDisable l fw value s) := by
  unfold execPortDisable
  have hk : Changes pl s s := Changes.refl pl s
  repeat' (first
    | with_reducible exact hL
    | with_reducible exact Part.Sub.via hL (by decide)
    | with_reducible apply ChangesOut.next
    | ((try lift_lets); intro (x : State); refine Changes.via (l := pl) (s := s) (x := x) ?_ (fun hx => ?_); rotate_left; clear_value x; rotate_left; unfold x)
    | ((try lift_lets); intro x; clear_value x)
    | with_reducible assumption
    | with_reducible apply State.vptWrite_changes
    | split
    | (dsimp only))

theorem execPortRetrain_changes {l : Fin 64} {fw : Bool} {value : W64} {pl : List Part} (hL : Part.Sub [.page .DIR, .page .ENG, .page .SEN, .page .VLX, .page .EMP, .page .HBM, .page .VPT, .risen, .ahead, .tiles, .fields, .recOnce, .records, .hostOut, .hostHeld, .fwIrq, .msix, .edge, .edgeMark, .edgeWb, .selfRefresh, .ctxs, .queues, .step, .links, .wire, .exchs, .destSets, .windows, .derived, .free] pl := by first | assumption | exact Part.Sub.via (by assumption) (by decide +kernel)) : ChangesOut pl s (execPortRetrain l fw value s) := by
  unfold execPortRetrain
  have hk : Changes pl s s := Changes.refl pl s
  repeat' (first
    | with_reducible exact hL
    | with_reducible exact Part.Sub.via hL (by decide)
    | with_reducible apply ChangesOut.next
    | ((try lift_lets); intro (x : State); refine Changes.via (l := pl) (s := s) (x := x) ?_ (fun hx => ?_); rotate_left; clear_value x; rotate_left; unfold x)
    | ((try lift_lets); intro x; clear_value x)
    | with_reducible assumption
    | with_reducible apply State.vptWrite_changes
    | split
    | (dsimp only))

theorem State.portTrained_changes {pl : List Part} {l : Nat} {lanes : BitVec 8} (hk : Changes pl s0 s) (hL : Part.Sub [.page .VPT, .risen, .records, .hostOut, .hostHeld, .fwIrq, .msix, .links] pl := by first | assumption | exact Part.Sub.via (by assumption) (by decide +kernel)) : Changes pl s0 (State.portTrained s l lanes) := by
  unfold State.portTrained
  repeat' (first
    | with_reducible exact hL
    | with_reducible exact Part.Sub.via hL (by decide)
    | ((try lift_lets); intro (x : State); refine Changes.via (l := pl) (s := s0) (x := x) ?_ (fun hx => ?_); rotate_left; clear_value x; rotate_left; unfold x)
    | ((try lift_lets); intro x; clear_value x)
    | with_reducible assumption
    | with_reducible apply State.portX4_changes
    | with_reducible apply State.raise_changes
    | with_reducible apply State.setIrq_changes
    | with_reducible apply State.setF_changes
    | with_reducible apply State.setVlink_changes
    | exact hL _ (Part.mem_elem (by rfl))
    | (refine hL _ (Part.mem_elem ?_); (repeat' split) <;> rfl)
    | split
    | (dsimp only))

theorem State.bridgeTrained_changes {pl : List Part} {n groups : Nat} (hk : Changes pl s0 s) (hL : Part.Sub [.page .BRG, .bridgeTrain] pl := by first | assumption | exact Part.Sub.via (by assumption) (by decide +kernel)) : Changes pl s0 (State.bridgeTrained s n groups) := by
  unfold State.bridgeTrained
  repeat' (first
    | with_reducible exact hL
    | with_reducible exact Part.Sub.via hL (by decide)
    | ((try lift_lets); intro (x : State); refine Changes.via (l := pl) (s := s0) (x := x) ?_ (fun hx => ?_); rotate_left; clear_value x; rotate_left; unfold x)
    | ((try lift_lets); intro x; clear_value x)
    | with_reducible assumption
    | with_reducible apply State.setF_changes
    | with_reducible refine Changes.foldl ?_ (fun u x hu => ?_)
    | (with_reducible apply Changes.upd_bridgeTrain; first | with_reducible assumption | with_reducible apply State.setF_changes | split)
    | exact hL _ (Part.mem_elem (by rfl))
    | (refine hL _ (Part.mem_elem ?_); (repeat' split) <;> rfl)
    | split
    | (dsimp only))

theorem execLinkTrainingDone_changes {unit : Fin 80} {lanes : BitVec 8} {pl : List Part} (hL : Part.Sub [.page .BRG, .page .VPT, .risen, .records, .hostOut, .hostHeld, .fwIrq, .msix, .links, .bridgeTrain] pl := by first | assumption | exact Part.Sub.via (by assumption) (by decide +kernel)) : ChangesOut pl s (execLinkTrainingDone unit lanes s) := by
  unfold execLinkTrainingDone
  have hk : Changes pl s s := Changes.refl pl s
  repeat' (first
    | with_reducible exact hL
    | with_reducible exact Part.Sub.via hL (by decide)
    | with_reducible apply ChangesOut.next
    | ((try lift_lets); intro (x : State); refine Changes.via (l := pl) (s := s) (x := x) ?_ (fun hx => ?_); rotate_left; clear_value x; rotate_left; unfold x)
    | ((try lift_lets); intro x; clear_value x)
    | with_reducible assumption
    | with_reducible apply State.bridgeTrained_changes
    | with_reducible apply State.portTrained_changes
    | split
    | (dsimp only))

end Sys2Proof.Machine
end

