-- ==== Sys2Proof/Laws/ChangesBridge.lean ====
section
/-!
SUPPORT. What the operations of Machine/Bridge can change (Laws/Changes).
-/
namespace Sys2Proof.Machine

set_option linter.all false

variable {s0 s : State}

theorem execBridgeReinject_changes {n : Nat} {pl : List Part} (hL : Part.Sub [.page .BRG, .tiles, .bridgeRx] pl := by first | assumption | exact Part.Sub.via (by assumption) (by decide +kernel)) : ChangesOut pl s (execBridgeReinject n s) := by
  unfold execBridgeReinject
  have hk : Changes pl s s := Changes.refl pl s
  repeat' (first
    | with_reducible exact hL
    | with_reducible exact Part.Sub.via hL (by decide)
    | with_reducible apply ChangesOut.next
    | ((try lift_lets); intro (x : State); refine Changes.via (l := pl) (s := s) (x := x) ?_ (fun hx => ?_); rotate_left; clear_value x; rotate_left; unfold x)
    | ((try lift_lets); intro x; clear_value x)
    | with_reducible assumption
    | with_reducible apply State.inject_changes
    | with_reducible apply State.count_changes
    | (with_reducible apply Changes.upd_bridgeRx; first | with_reducible assumption | with_reducible apply State.inject_changes | with_reducible apply State.count_changes | split)
    | exact hL _ (Part.mem_elem (by rfl))
    | (refine hL _ (Part.mem_elem ?_); (repeat' split) <;> rfl)
    | split
    | (dsimp only))

theorem execSidebandWord_changes {p : Fin 2} {pl : List Part} (hL : Part.Sub [.remoteRoot] pl := by first | assumption | exact Part.Sub.via (by assumption) (by decide +kernel)) : ChangesOut pl s (execSidebandWord p s) := by
  unfold execSidebandWord
  have hk : Changes pl s s := Changes.refl pl s
  repeat' (first
    | with_reducible exact hL
    | with_reducible exact Part.Sub.via hL (by decide)
    | with_reducible apply ChangesOut.next
    | ((try lift_lets); intro (x : State); refine Changes.via (l := pl) (s := s) (x := x) ?_ (fun hx => ?_); rotate_left; clear_value x; rotate_left; unfold x)
    | ((try lift_lets); intro x; clear_value x)
    | with_reducible assumption
    | with_reducible apply State.setRemote_changes
    | with_reducible refine Changes.foldl ?_ (fun u x hu => ?_)
    | split
    | (dsimp only))

theorem execSidebandLost_changes {p : Fin 2} {pl : List Part} (hL : Part.Sub [.page .BRG, .page .MLW, .page .VLX, .risen, .records, .hostOut, .hostHeld, .fwIrq, .msix, .array, .remoteRoot] pl := by first | assumption | exact Part.Sub.via (by assumption) (by decide +kernel)) : ChangesOut pl s (execSidebandLost p s) := by
  unfold execSidebandLost
  have hk : Changes pl s s := Changes.refl pl s
  repeat' (first
    | with_reducible exact hL
    | with_reducible exact Part.Sub.via hL (by decide)
    | with_reducible apply ChangesOut.next
    | ((try lift_lets); intro (x : State); refine Changes.via (l := pl) (s := s) (x := x) ?_ (fun hx => ?_); rotate_left; clear_value x; rotate_left; unfold x)
    | ((try lift_lets); intro x; clear_value x)
    | with_reducible assumption
    | with_reducible apply State.setAe_changes
    | with_reducible apply State.raise_changes
    | with_reducible apply State.count_changes
    | with_reducible apply State.setIrq_changes
    | with_reducible apply State.setF_changes
    | with_reducible apply State.setRemote_changes
    | with_reducible refine Changes.foldl ?_ (fun u x hu => ?_)
    | exact hL _ (Part.mem_elem (by rfl))
    | (refine hL _ (Part.mem_elem ?_); (repeat' split) <;> rfl)
    | split
    | (dsimp only))

theorem State.brgWrite_changes {pl : List Part} {fw : Bool} {value : W64} (hk : Changes pl s0 s) (hL : Part.Sub [.page .DIR, .page .BRG, .risen, .hostOut, .hostHeld, .fwIrq, .msix, .bridgeTrain] pl := by first | assumption | exact Part.Sub.via (by assumption) (by decide +kernel)) : Changes pl s0 (State.brgWrite s fw value) := by
  unfold State.brgWrite
  repeat' (first
    | with_reducible exact hL
    | with_reducible exact Part.Sub.via hL (by decide)
    | ((try lift_lets); intro (x : State); refine Changes.via (l := pl) (s := s0) (x := x) ?_ (fun hx => ?_); rotate_left; clear_value x; rotate_left; unfold x)
    | ((try lift_lets); intro x; clear_value x)
    | with_reducible assumption
    | with_reducible refine State.regWrite_changes ?_ ?_ (fun u hu => ?_) ?_
    | with_reducible apply State.setF_changes
    | (with_reducible apply Changes.upd_bridgeTrain; first | with_reducible assumption | with_reducible refine State.regWrite_changes ?_ ?_ (fun u hu => ?_) ?_ | with_reducible apply State.setF_changes | split)
    | exact hL _ (Part.mem_elem (by rfl))
    | (refine hL _ (Part.mem_elem ?_); (repeat' split) <;> rfl)
    | split
    | (dsimp only))

theorem execBridgeRetrain_changes {fw : Bool} {value : W64} {pl : List Part} (hL : Part.Sub [.page .DIR, .page .BRG, .risen, .hostOut, .hostHeld, .fwIrq, .msix, .bridgeTrain] pl := by first | assumption | exact Part.Sub.via (by assumption) (by decide +kernel)) : ChangesOut pl s (execBridgeRetrain fw value s) := by
  unfold execBridgeRetrain
  have hk : Changes pl s s := Changes.refl pl s
  repeat' (first
    | with_reducible exact hL
    | with_reducible exact Part.Sub.via hL (by decide)
    | with_reducible apply ChangesOut.next
    | ((try lift_lets); intro (x : State); refine Changes.via (l := pl) (s := s) (x := x) ?_ (fun hx => ?_); rotate_left; clear_value x; rotate_left; unfold x)
    | ((try lift_lets); intro x; clear_value x)
    | with_reducible assumption
    | with_reducible apply State.brgWrite_changes
    | split
    | (dsimp only))

theorem State.cwyEnd_changes {pl : List Part} {result : Nat} (hk : Changes pl s0 s) (hL : Part.Sub [.page .CWY, .risen, .records, .hostOut, .hostHeld, .fwIrq, .msix, .importing] pl := by first | assumption | exact Part.Sub.via (by assumption) (by decide +kernel)) : Changes pl s0 (State.cwyEnd s result) := by
  unfold State.cwyEnd
  repeat' (first
    | with_reducible exact hL
    | with_reducible exact Part.Sub.via hL (by decide)
    | ((try lift_lets); intro (x : State); refine Changes.via (l := pl) (s := s0) (x := x) ?_ (fun hx => ?_); rotate_left; clear_value x; rotate_left; unfold x)
    | ((try lift_lets); intro x; clear_value x)
    | with_reducible assumption
    | with_reducible apply State.raise_changes
    | with_reducible apply State.setIrq_changes
    | with_reducible apply State.setF_changes
    | (with_reducible apply Changes.upd_importing; first | with_reducible assumption | with_reducible apply State.raise_changes | with_reducible apply State.setIrq_changes | with_reducible apply State.setF_changes | split)
    | exact hL _ (Part.mem_elem (by rfl))
    | (refine hL _ (Part.mem_elem ?_); (repeat' split) <;> rfl)
    | split
    | (dsimp only))

theorem State.cwyWrite_changes {pl : List Part} {fw : Bool} {v : W64} (hk : Changes pl s0 s) (hL : Part.Sub [.page .DIR, .page .CWY, .risen, .records, .hostOut, .hostHeld, .fwIrq, .msix, .links, .importing] pl := by first | assumption | exact Part.Sub.via (by assumption) (by decide +kernel)) : Changes pl s0 (State.cwyWrite s fw v) := by
  unfold State.cwyWrite
  repeat' (first
    | with_reducible exact hL
    | with_reducible exact Part.Sub.via hL (by decide)
    | ((try lift_lets); intro (x : State); refine Changes.via (l := pl) (s := s0) (x := x) ?_ (fun hx => ?_); rotate_left; clear_value x; rotate_left; unfold x)
    | ((try lift_lets); intro (x : _ → _); dsimp -zeta only [x]; clear x)
    | ((try lift_lets); intro x; clear_value x)
    | with_reducible assumption
    | with_reducible refine State.regWrite_changes ?_ ?_ (fun u hu => ?_) ?_
    | with_reducible apply State.setF_changes
    | with_reducible apply State.setVlink_changes
    | with_reducible apply State.cwyEnd_changes
    | (with_reducible apply Changes.upd_importing; first | with_reducible assumption | with_reducible refine State.regWrite_changes ?_ ?_ (fun u hu => ?_) ?_ | with_reducible apply State.setF_changes | with_reducible apply State.setVlink_changes | with_reducible apply State.cwyEnd_changes | split)
    | exact hL _ (Part.mem_elem (by rfl))
    | (refine hL _ (Part.mem_elem ?_); (repeat' split) <;> rfl)
    | split
    | (dsimp only))

theorem execCwyTest_changes {fw : Bool} {value : W64} {pl : List Part} (hL : Part.Sub [.page .DIR, .page .CWY, .risen, .records, .hostOut, .hostHeld, .fwIrq, .msix, .links, .importing] pl := by first | assumption | exact Part.Sub.via (by assumption) (by decide +kernel)) : ChangesOut pl s (execCwyTest fw value s) := by
  unfold execCwyTest
  have hk : Changes pl s s := Changes.refl pl s
  repeat' (first
    | with_reducible exact hL
    | with_reducible exact Part.Sub.via hL (by decide)
    | with_reducible apply ChangesOut.next
    | ((try lift_lets); intro (x : State); refine Changes.via (l := pl) (s := s) (x := x) ?_ (fun hx => ?_); rotate_left; clear_value x; rotate_left; unfold x)
    | ((try lift_lets); intro x; clear_value x)
    | with_reducible assumption
    | with_reducible apply State.cwyWrite_changes
    | split
    | (dsimp only))

theorem execCwyCrosscheck_changes {fw : Bool} {value : W64} {pl : List Part} (hL : Part.Sub [.page .DIR, .page .CWY, .risen, .records, .hostOut, .hostHeld, .fwIrq, .msix, .links, .importing] pl := by first | assumption | exact Part.Sub.via (by assumption) (by decide +kernel)) : ChangesOut pl s (execCwyCrosscheck fw value s) := by
  unfold execCwyCrosscheck
  have hk : Changes pl s s := Changes.refl pl s
  repeat' (first
    | with_reducible exact hL
    | with_reducible exact Part.Sub.via hL (by decide)
    | with_reducible apply ChangesOut.next
    | ((try lift_lets); intro (x : State); refine Changes.via (l := pl) (s := s) (x := x) ?_ (fun hx => ?_); rotate_left; clear_value x; rotate_left; unfold x)
    | ((try lift_lets); intro x; clear_value x)
    | with_reducible assumption
    | with_reducible apply State.cwyWrite_changes
    | split
    | (dsimp only))

theorem execCwyMigrate_changes {fw : Bool} {value : W64} {pl : List Part} (hL : Part.Sub [.page .DIR, .page .CWY, .risen, .records, .hostOut, .hostHeld, .fwIrq, .msix, .links, .importing] pl := by first | assumption | exact Part.Sub.via (by assumption) (by decide +kernel)) : ChangesOut pl s (execCwyMigrate fw value s) := by
  unfold execCwyMigrate
  have hk : Changes pl s s := Changes.refl pl s
  repeat' (first
    | with_reducible exact hL
    | with_reducible exact Part.Sub.via hL (by decide)
    | with_reducible apply ChangesOut.next
    | ((try lift_lets); intro (x : State); refine Changes.via (l := pl) (s := s) (x := x) ?_ (fun hx => ?_); rotate_left; clear_value x; rotate_left; unfold x)
    | ((try lift_lets); intro x; clear_value x)
    | with_reducible assumption
    | with_reducible apply State.cwyWrite_changes
    | split
    | (dsimp only))

theorem execCwyExport_changes {fw : Bool} {value : W64} {pl : List Part} (hL : Part.Sub [.page .DIR, .page .CWY, .risen, .records, .hostOut, .hostHeld, .fwIrq, .msix, .links, .importing] pl := by first | assumption | exact Part.Sub.via (by assumption) (by decide +kernel)) : ChangesOut pl s (execCwyExport fw value s) := by
  unfold execCwyExport
  have hk : Changes pl s s := Changes.refl pl s
  repeat' (first
    | with_reducible exact hL
    | with_reducible exact Part.Sub.via hL (by decide)
    | with_reducible apply ChangesOut.next
    | ((try lift_lets); intro (x : State); refine Changes.via (l := pl) (s := s) (x := x) ?_ (fun hx => ?_); rotate_left; clear_value x; rotate_left; unfold x)
    | ((try lift_lets); intro x; clear_value x)
    | with_reducible assumption
    | with_reducible apply State.cwyWrite_changes
    | split
    | (dsimp only))

theorem execCwyImport_changes {fw : Bool} {value : W64} {pl : List Part} (hL : Part.Sub [.page .DIR, .page .CWY, .risen, .records, .hostOut, .hostHeld, .fwIrq, .msix, .links, .importing] pl := by first | assumption | exact Part.Sub.via (by assumption) (by decide +kernel)) : ChangesOut pl s (execCwyImport fw value s) := by
  unfold execCwyImport
  have hk : Changes pl s s := Changes.refl pl s
  repeat' (first
    | with_reducible exact hL
    | with_reducible exact Part.Sub.via hL (by decide)
    | with_reducible apply ChangesOut.next
    | ((try lift_lets); intro (x : State); refine Changes.via (l := pl) (s := s) (x := x) ?_ (fun hx => ?_); rotate_left; clear_value x; rotate_left; unfold x)
    | ((try lift_lets); intro x; clear_value x)
    | with_reducible assumption
    | with_reducible apply State.cwyWrite_changes
    | split
    | (dsimp only))

theorem State.migrateTile_changes {pl : List Part} {a : TileAddr} {dst : FieldAddr} (hk : Changes pl s0 s) (hL : Part.Sub [.tiles] pl := by first | assumption | exact Part.Sub.via (by assumption) (by decide +kernel)) : Changes pl s0 (State.migrateTile s a dst).1 := by
  unfold State.migrateTile
  repeat' (first
    | with_reducible exact hL
    | with_reducible exact Part.Sub.via hL (by decide)
    | ((try lift_lets); intro (x : State); refine Changes.via (l := pl) (s := s0) (x := x) ?_ (fun hx => ?_); rotate_left; clear_value x; rotate_left; unfold x)
    | ((try lift_lets); intro (x : _ → _); dsimp -zeta only [x]; clear x)
    | ((try lift_lets); intro x; clear_value x)
    | with_reducible assumption
    | with_reducible apply State.setTile_changes
    | with_reducible refine Changes.foldl ?_ (fun u x hu => ?_)
    | split
    | (dsimp only))

theorem exportFrames_changes {pl : List Part} {l : Nat} {p : Fin 2} {node addr total n : Nat} (hL : Part.Sub [.page .CWY, .page .EMP, .page .HBM, .page .VPT, .risen, .recOnce, .records, .hostOut, .hostHeld, .fwIrq, .msix, .edgeWb, .selfRefresh, .wire] pl := by first | assumption | exact Part.Sub.via (by assumption) (by decide +kernel)) :
    ∀ {k : Nat} {s : State}, Changes pl s0 s → Changes pl s0 (exportFrames l p node addr total n k s).1 := by
  induction n with
  | zero => exact fun h => h
  | succ n ih =>
    intro k s h
    unfold exportFrames
    dsimp only
    split
    · exact State.edgeRead_changes h
    · exact ih (State.count_changes (State.onWire_changes (State.edgeRead_changes h)))

theorem migrateTiles_changes {pl : List Part} {b : FieldAddr} {l : List TileAddr} (hL : Part.Sub [.tiles] pl := by first | assumption | exact Part.Sub.via (by assumption) (by decide +kernel)) :
    ∀ {s : State} {n : Nat}, Changes pl s0 s → Changes pl s0 (migrateTiles b l s n).1 := by
  induction l with
  | nil => exact fun h => h
  | cons t r ih =>
    intro s n h
    unfold migrateTiles
    exact ih (State.migrateTile_changes h)

theorem execCausewayDone_changes {pl : List Part} {link peer differ : Bool} {errors bytes : Nat} (hL : Part.Sub [.page .CWY, .page .EMP, .page .HBM, .page .VPT, .risen, .tiles, .recOnce, .records, .hostOut, .hostHeld, .fwIrq, .msix, .edgeWb, .selfRefresh, .wire, .importing] pl := by first | assumption | exact Part.Sub.via (by assumption) (by decide +kernel)) :
    ChangesOut pl s (execCausewayDone link peer differ errors bytes s) := by
  refine ChangesOut.next ?_
  have hk : Changes pl s s := Changes.refl pl s
  split
  · exact hk
  split
  · exact State.cwyEnd_changes hk
  split
  · exact State.cwyEnd_changes (State.count_changes (State.count_changes hk))
  · exact State.cwyEnd_changes (State.count_changes hk)
  · split
    · exact State.cwyEnd_changes (State.count_changes (migrateTiles_changes (Part.Sub.via hL (by decide)) hk))
    · exact State.cwyEnd_changes hk
  · exact State.cwyEnd_changes (exportFrames_changes (Part.Sub.via hL (by decide)) hk)
  · exact State.cwyEnd_changes hk

end Sys2Proof.Machine
end

