-- ==== Sys2Proof/Laws/ChangesSteps.lean ====
section
/-!
SUPPORT. What the operations of Machine/Steps can change (Laws/Changes).
-/
namespace Sys2Proof.Machine

set_option linter.all false

variable {s0 s : State}

theorem State.latchPeaks_changes {pl : List Part}  (hk : Changes pl s0 s) (hL : Part.Sub [.page .SEN, .peaks] pl := by first | assumption | exact Part.Sub.via (by assumption) (by decide +kernel)) : Changes pl s0 (State.latchPeaks s) := by
  unfold State.latchPeaks
  repeat' (first
    | with_reducible exact hL
    | with_reducible exact Part.Sub.via hL (by decide)
    | ((try lift_lets); intro (x : State); refine Changes.via (l := pl) (s := s0) (x := x) ?_ (fun hx => ?_); rotate_left; clear_value x; rotate_left; unfold x)
    | ((try lift_lets); intro x; clear_value x)
    | with_reducible assumption
    | with_reducible apply State.setF_changes
    | with_reducible refine Changes.foldl ?_ (fun u x hu => ?_)
    | (with_reducible apply Changes.upd_peaks; first | with_reducible assumption | with_reducible apply State.setF_changes | split)
    | exact hL _ (Part.mem_elem (by rfl))
    | (refine hL _ (Part.mem_elem ?_); (repeat' split) <;> rfl)
    | split
    | (dsimp only))

theorem State.latchAll_changes {pl : List Part} {w : Waymark} {attempt : Nat} (hk : Changes pl s0 s) (hL : Part.Sub (allPages ++ [.risen, .peaks]) pl := by first | assumption | exact Part.Sub.via (by assumption) (by decide +kernel)) : Changes pl s0 (State.latchAll s w attempt) := by
  unfold State.latchAll
  repeat' (first
    | with_reducible exact hL
    | with_reducible exact Part.Sub.via hL (by decide)
    | ((try lift_lets); intro (x : State); refine Changes.via (l := pl) (s := s0) (x := x) ?_ (fun hx => ?_); rotate_left; clear_value x; rotate_left; unfold x)
    | ((try lift_lets); intro x; clear_value x)
    | with_reducible assumption
    | with_reducible apply State.latchPeaks_changes
    | with_reducible apply State.latchPage_changes
    | with_reducible refine Changes.foldl ?_ (fun u x hu => ?_)
    | exact hL _ (Part.mem_elem (by rfl))
    | (refine hL _ (Part.mem_elem ?_); (repeat' split) <;> rfl)
    | exact hL _ (List.mem_append_left _ (Part.mem_pages _))
    | split
    | (dsimp only))

theorem State.setCurWm_changes {pl : List Part} {mask wm : Nat} (hk : Changes pl s0 s) (hL : Part.Sub (allPages ++ [.risen, .ahead]) pl := by first | assumption | exact Part.Sub.via (by assumption) (by decide +kernel)) : Changes pl s0 (State.setCurWm s mask wm) := by
  unfold State.setCurWm
  repeat' (first
    | with_reducible exact hL
    | with_reducible exact Part.Sub.via hL (by decide)
    | ((try lift_lets); intro (x : State); refine Changes.via (l := pl) (s := s0) (x := x) ?_ (fun hx => ?_); rotate_left; clear_value x; rotate_left; unfold x)
    | ((try lift_lets); intro x; clear_value x)
    | with_reducible assumption
    | with_reducible apply State.addAhead_changes
    | with_reducible apply State.setF_changes
    | with_reducible refine Changes.foldl ?_ (fun u x hu => ?_)
    | exact hL _ (Part.mem_elem (by rfl))
    | split
    | (dsimp only))

theorem State.dropNotices_changes {pl : List Part}  (hk : Changes pl s0 s) (hL : Part.Sub [.array] pl := by first | assumption | exact Part.Sub.via (by assumption) (by decide +kernel)) : Changes pl s0 (State.dropNotices s) := by
  unfold State.dropNotices
  repeat' (first
    | with_reducible exact hL
    | with_reducible exact Part.Sub.via hL (by decide)
    | ((try lift_lets); intro (x : State); refine Changes.via (l := pl) (s := s0) (x := x) ?_ (fun hx => ?_); rotate_left; clear_value x; rotate_left; unfold x)
    | ((try lift_lets); intro x; clear_value x)
    | with_reducible assumption
    | with_reducible apply State.setAe_changes
    | with_reducible refine Changes.foldl ?_ (fun u x hu => ?_)
    | split
    | (dsimp only))

theorem execStepBegin_changes {q : Fin 64} {pl : List Part} (hL : Part.Sub (allPages ++ [.risen, .ahead, .peaks, .fields, .recOnce, .records, .hostOut, .hostHeld, .fwIrq, .msix, .edge, .edgeMark, .edgeWb, .selfRefresh, .queues, .step, .array, .stepsSeen, .free]) pl := by first | assumption | exact Part.Sub.via (by assumption) (by decide +kernel)) : ChangesOut pl s (execStepBegin q s) := by
  unfold execStepBegin
  have hk : Changes pl s s := Changes.refl pl s
  repeat' (first
    | with_reducible exact hL
    | with_reducible exact Part.Sub.via hL (by decide)
    | with_reducible apply ChangesOut.next
    | ((try lift_lets); intro (x : State); refine Changes.via (l := pl) (s := s) (x := x) ?_ (fun hx => ?_); rotate_left; clear_value x; rotate_left; unfold x)
    | ((try lift_lets); intro x; clear_value x)
    | with_reducible assumption
    | with_reducible apply State.dropNotices_changes
    | with_reducible apply State.setCurWm_changes
    | with_reducible apply State.latchAll_changes
    | with_reducible apply State.setF_changes
    | with_reducible apply State.complete_changes
    | with_reducible apply State.setStage_changes
    | with_reducible apply State.setQueue_changes
    | with_reducible refine Changes.foldl ?_ (fun u x hu => ?_)
    | (with_reducible apply Changes.upd_step_stepsSeen; first | with_reducible assumption | with_reducible apply State.dropNotices_changes | with_reducible apply State.setCurWm_changes | with_reducible apply State.latchAll_changes | with_reducible apply State.setF_changes | with_reducible apply State.complete_changes | with_reducible apply State.setStage_changes | with_reducible apply State.setQueue_changes | split)
    | exact hL _ (Part.mem_elem (by rfl))
    | (refine hL _ (Part.mem_elem ?_); (repeat' split) <;> rfl)
    | split
    | (dsimp only))

theorem State.closeOpen_changes {pl : List Part} {mask : Nat} (hk : Changes pl s0 s) (hL : Part.Sub [.page .ENG] pl := by first | assumption | exact Part.Sub.via (by assumption) (by decide +kernel)) : Changes pl s0 (State.closeOpen s mask) := by
  unfold State.closeOpen
  repeat' (first
    | with_reducible exact hL
    | with_reducible exact Part.Sub.via hL (by decide)
    | ((try lift_lets); intro (x : State); refine Changes.via (l := pl) (s := s0) (x := x) ?_ (fun hx => ?_); rotate_left; clear_value x; rotate_left; unfold x)
    | ((try lift_lets); intro x; clear_value x)
    | with_reducible assumption
    | with_reducible apply State.setF_changes
    | with_reducible refine Changes.foldl ?_ (fun u x hu => ?_)
    | exact hL _ (Part.mem_elem (by rfl))
    | split
    | (dsimp only))

theorem State.endStep_changes {pl : List Part} {x : StepSt} {status : Nat} {hw : Bool} (hk : Changes pl s0 s) (hL : Part.Sub [.page .ENG, .page .EMP, .page .HBM, .risen, .ahead, .fields, .recOnce, .records, .hostOut, .hostHeld, .fwIrq, .msix, .edge, .edgeMark, .edgeWb, .selfRefresh, .queues, .step, .stepFailed, .free] pl := by first | assumption | exact Part.Sub.via (by assumption) (by decide +kernel)) : Changes pl s0 (State.endStep s x status hw) := by
  unfold State.endStep
  repeat' (first
    | with_reducible exact hL
    | with_reducible exact Part.Sub.via hL (by decide)
    | ((try lift_lets); intro (x : State); refine Changes.via (l := pl) (s := s0) (x := x) ?_ (fun hx => ?_); rotate_left; clear_value x; rotate_left; unfold x)
    | ((try lift_lets); intro x; clear_value x)
    | with_reducible assumption
    | with_reducible apply State.closeOpen_changes
    | with_reducible apply State.setIrq_changes
    | with_reducible apply State.setF_changes
    | with_reducible apply State.complete_changes
    | with_reducible apply State.retireQueue_changes
    | with_reducible apply State.setQueue_changes
    | with_reducible refine Changes.foldl ?_ (fun u x hu => ?_)
    | (with_reducible apply Changes.upd_step_stepFailed_ahead; first | with_reducible assumption | with_reducible apply State.closeOpen_changes | with_reducible apply State.setIrq_changes | with_reducible apply State.setF_changes | with_reducible apply State.complete_changes | with_reducible apply State.retireQueue_changes | with_reducible apply State.setQueue_changes | split)
    | exact hL _ (Part.mem_elem (by rfl))
    | (refine hL _ (Part.mem_elem ?_); (repeat' split) <;> rfl)
    | split
    | (dsimp only))

theorem execWaymarkClose_changes {q : Fin 64} {meas : Nat} {pl : List Part} (hL : Part.Sub (allPages ++ [.risen, .ahead, .peaks, .fields, .recOnce, .records, .hostOut, .hostHeld, .fwIrq, .msix, .edge, .edgeMark, .edgeWb, .selfRefresh, .queues, .step, .stepFailed, .array, .free]) pl := by first | assumption | exact Part.Sub.via (by assumption) (by decide +kernel)) : ChangesOut pl s (execWaymarkClose q meas s) := by
  unfold execWaymarkClose
  have hk : Changes pl s s := Changes.refl pl s
  repeat' (first
    | with_reducible exact hL
    | with_reducible exact Part.Sub.via hL (by decide)
    | with_reducible apply ChangesOut.next
    | ((try lift_lets); intro (x : State); refine Changes.via (l := pl) (s := s) (x := x) ?_ (fun hx => ?_); rotate_left; clear_value x; rotate_left; unfold x)
    | ((try lift_lets); intro (x : State × _); refine Changes.via (l := pl) (s := s) (x := x.1) ?_ (fun hx => ?_); rotate_left; clear_value x; rotate_left; unfold x)
    | ((try lift_lets); intro (x : _ × State); refine Changes.via (l := pl) (s := s) (x := x.2) ?_ (fun hx => ?_); rotate_left; clear_value x; rotate_left; unfold x)
    | ((try lift_lets); intro x; clear_value x)
    | with_reducible assumption
    | with_reducible apply State.endStep_changes
    | with_reducible apply State.dropNotices_changes
    | with_reducible apply State.setCurWm_changes
    | with_reducible apply State.latchAll_changes
    | with_reducible apply State.setF_changes
    | with_reducible apply State.complete_changes
    | with_reducible refine Changes.of_fst (State.closeEnergy_changes ?_ ?_) (by assumption)
    | with_reducible apply State.closeEnergy_changes
    | exact hL _ (Part.mem_elem (by rfl))
    | (refine hL _ (Part.mem_elem ?_); (repeat' split) <;> rfl)
    | split
    | (dsimp only))

theorem State.cancelWork_changes {pl : List Part} {x : StepSt} (hk : Changes pl s0 s) (hL : Part.Sub [.page .ENG, .page .SEN, .page .VLX, .page .EMP, .page .HBM, .risen, .ahead, .fields, .recOnce, .records, .hostOut, .hostHeld, .fwIrq, .msix, .edge, .edgeMark, .edgeWb, .selfRefresh, .ctxs, .queues, .step, .exchs, .free] pl := by first | assumption | exact Part.Sub.via (by assumption) (by decide +kernel)) : Changes pl s0 (State.cancelWork s x) := by
  unfold State.cancelWork
  repeat' (first
    | with_reducible exact hL
    | with_reducible exact Part.Sub.via hL (by decide)
    | ((try lift_lets); intro (x : State); refine Changes.via (l := pl) (s := s0) (x := x) ?_ (fun hx => ?_); rotate_left; clear_value x; rotate_left; unfold x)
    | ((try lift_lets); intro x; clear_value x)
    | with_reducible assumption
    | with_reducible apply State.cancelStreams_changes
    | with_reducible apply State.cancelExchanges_changes
    | with_reducible apply State.complete_changes
    | with_reducible refine Changes.foldl ?_ (fun u x hu => ?_)
    | split
    | (dsimp only))

theorem State.cancelStep_changes {pl : List Part} {x : StepSt} (hk : Changes pl s0 s) (hL : Part.Sub [.page .ENG, .page .SEN, .page .VLX, .page .EMP, .page .HBM, .risen, .ahead, .fields, .recOnce, .records, .causes, .hostOut, .hostHeld, .fwIrq, .msix, .edge, .edgeMark, .edgeWb, .selfRefresh, .ctxs, .queues, .step, .exchs, .free] pl := by first | assumption | exact Part.Sub.via (by assumption) (by decide +kernel)) : Changes pl s0 (State.cancelStep s x) := by
  unfold State.cancelStep
  repeat' (first
    | with_reducible exact hL
    | with_reducible exact Part.Sub.via hL (by decide)
    | ((try lift_lets); intro (x : State); refine Changes.via (l := pl) (s := s0) (x := x) ?_ (fun hx => ?_); rotate_left; clear_value x; rotate_left; unfold x)
    | ((try lift_lets); intro x; clear_value x)
    | with_reducible assumption
    | with_reducible apply State.cancelWork_changes
    | with_reducible apply State.planeCause_changes
    | with_reducible refine Changes.foldl ?_ (fun u x hu => ?_)
    | split
    | (dsimp only))

theorem State.withdrawCloses_changes {pl : List Part}  (hk : Changes pl s0 s) (hL : Part.Sub [.page .ENG, .queues] pl := by first | assumption | exact Part.Sub.via (by assumption) (by decide +kernel)) : Changes pl s0 (State.withdrawCloses s) := by
  unfold State.withdrawCloses
  repeat' (first
    | with_reducible exact hL
    | with_reducible exact Part.Sub.via hL (by decide)
    | ((try lift_lets); intro (x : State); refine Changes.via (l := pl) (s := s0) (x := x) ?_ (fun hx => ?_); rotate_left; clear_value x; rotate_left; unfold x)
    | ((try lift_lets); intro x; clear_value x)
    | with_reducible assumption
    | with_reducible apply State.setF_changes
    | with_reducible apply State.setQueue_changes
    | with_reducible refine Changes.foldl ?_ (fun u x hu => ?_)
    | exact hL _ (Part.mem_elem (by rfl))
    | (refine hL _ (Part.mem_elem ?_); (repeat' split) <;> rfl)
    | split
    | (dsimp only))

theorem execStepRerun_changes  {pl : List Part} (hL : Part.Sub [.page .ENG, .page .SEN, .page .VLX, .page .EMP, .page .HBM, .risen, .ahead, .fields, .recOnce, .records, .causes, .hostOut, .hostHeld, .fwIrq, .msix, .edge, .edgeMark, .edgeWb, .selfRefresh, .ctxs, .queues, .step, .exchs, .free] pl := by first | assumption | exact Part.Sub.via (by assumption) (by decide +kernel)) : ChangesOut pl s (execStepRerun s) := by
  unfold execStepRerun
  have hk : Changes pl s s := Changes.refl pl s
  repeat' (first
    | with_reducible exact hL
    | with_reducible exact Part.Sub.via hL (by decide)
    | with_reducible apply ChangesOut.next
    | ((try lift_lets); intro (x : State); refine Changes.via (l := pl) (s := s) (x := x) ?_ (fun hx => ?_); rotate_left; clear_value x; rotate_left; unfold x)
    | ((try lift_lets); intro x; clear_value x)
    | with_reducible assumption
    | with_reducible apply State.withdrawCloses_changes
    | with_reducible apply State.cancelStep_changes
    | with_reducible apply State.count_changes
    | (with_reducible apply Changes.upd_step; first | with_reducible assumption | with_reducible apply State.withdrawCloses_changes | with_reducible apply State.cancelStep_changes | with_reducible apply State.count_changes | split)
    | exact hL _ (Part.mem_elem (by rfl))
    | (refine hL _ (Part.mem_elem ?_); (repeat' split) <;> rfl)
    | split
    | (dsimp only))

theorem State.rewindEpoch_changes {pl : List Part} {e : Nat × BitVec 2} (hk : Changes pl s0 s) (hL : Part.Sub [.page .PAS, .tiles, .fields] pl := by first | assumption | exact Part.Sub.via (by assumption) (by decide +kernel)) : Changes pl s0 (State.rewindEpoch s e) := by
  unfold State.rewindEpoch
  repeat' (first
    | with_reducible exact hL
    | with_reducible exact Part.Sub.via hL (by decide)
    | ((try lift_lets); intro (x : State); refine Changes.via (l := pl) (s := s0) (x := x) ?_ (fun hx => ?_); rotate_left; clear_value x; rotate_left; unfold x)
    | ((try lift_lets); intro x; clear_value x)
    | with_reducible assumption
    | with_reducible apply State.setField_changes
    | with_reducible apply State.setTile_changes
    | with_reducible apply State.setF_changes
    | with_reducible refine Changes.foldl ?_ (fun u x hu => ?_)
    | exact hL _ (Part.mem_elem (by rfl))
    | (refine hL _ (Part.mem_elem ?_); (repeat' split) <;> rfl)
    | split
    | (dsimp only))

theorem State.flushQueue_changes {pl : List Part} {x : StepSt} {e q n : Nat} (hL : Part.Sub [.page .ENG, .page .EMP, .page .HBM, .risen, .ahead, .fields, .recOnce, .records, .hostOut, .hostHeld, .fwIrq, .msix, .edge, .edgeMark, .edgeWb, .selfRefresh, .queues, .step, .free] pl := by first | assumption | exact Part.Sub.via (by assumption) (by decide +kernel)) :
    ∀ {s : State}, Changes pl s0 s → Changes pl s0 (State.flushQueue x e q n s) := by
  induction n with
  | zero => exact fun h => h
  | succ n ih =>
    intro s h
    unfold State.flushQueue
    split
    · split
      · exact ih (State.complete_changes h)
      · exact h
    · exact h

theorem State.releaseRecovery_changes {pl : List Part}  (hk : Changes pl s0 s) (hL : Part.Sub [.page .MESH, .page .TSQ, .page .SPD, .page .FEN, .page .FLT, .risen, .tiles, .fields, .recOnce, .records, .hostOut, .hostHeld, .fwIrq, .msix, .edgeHeld, .ctxs, .step] pl := by first | assumption | exact Part.Sub.via (by assumption) (by decide +kernel)) : Changes pl s0 (State.releaseRecovery s) := by
  unfold State.releaseRecovery
  repeat' (first
    | with_reducible exact hL
    | with_reducible exact Part.Sub.via hL (by decide)
    | ((try lift_lets); intro (x : State); refine Changes.via (l := pl) (s := s0) (x := x) ?_ (fun hx => ?_); rotate_left; clear_value x; rotate_left; unfold x)
    | ((try lift_lets); intro x; clear_value x)
    | with_reducible assumption
    | with_reducible apply State.drainStart_changes
    | with_reducible refine Changes.foldl ?_ (fun u x hu => ?_)
    | (with_reducible apply Changes.upd_step; first | with_reducible assumption | with_reducible apply State.drainStart_changes | split)
    | split
    | (dsimp only))

theorem State.finishStep_changes {pl : List Part} {x : StepSt} (hk : Changes pl s0 s) (hL : Part.Sub [.page .ENG, .page .EMP, .page .HBM, .page .MESH, .page .TSQ, .page .SPD, .page .FEN, .page .FLT, .risen, .ahead, .tiles, .fields, .recOnce, .records, .hostOut, .hostHeld, .fwIrq, .msix, .edge, .edgeMark, .edgeWb, .selfRefresh, .edgeHeld, .ctxs, .queues, .step, .stepFailed, .exchs, .tainted, .taintSeq, .free] pl := by first | assumption | exact Part.Sub.via (by assumption) (by decide +kernel)) : Changes pl s0 (State.finishStep s x) := by
  unfold State.finishStep
  repeat' (first
    | with_reducible exact hL
    | with_reducible exact Part.Sub.via hL (by decide)
    | ((try lift_lets); intro (x : State); refine Changes.via (l := pl) (s := s0) (x := x) ?_ (fun hx => ?_); rotate_left; clear_value x; rotate_left; unfold x)
    | ((try lift_lets); intro x; clear_value x)
    | with_reducible assumption
    | with_reducible apply State.releaseRecovery_changes
    | with_reducible apply State.flushQueue_changes
    | with_reducible apply State.endStep_changes
    | with_reducible apply State.closeOpen_changes
    | with_reducible apply State.taint_changes
    | with_reducible apply State.complete_changes
    | with_reducible refine Changes.foldl ?_ (fun u x hu => ?_)
    | split
    | (dsimp only))

theorem execStepEnd_changes  {pl : List Part} (hL : Part.Sub [.page .ENG, .page .SEN, .page .VLX, .page .EMP, .page .HBM, .page .MESH, .page .TSQ, .page .SPD, .page .FEN, .page .FLT, .risen, .ahead, .tiles, .fields, .recOnce, .records, .causes, .hostOut, .hostHeld, .fwIrq, .msix, .edge, .edgeMark, .edgeWb, .selfRefresh, .edgeHeld, .ctxs, .queues, .step, .stepFailed, .exchs, .tainted, .taintSeq, .free] pl := by first | assumption | exact Part.Sub.via (by assumption) (by decide +kernel)) : ChangesOut pl s (execStepEnd s) := by
  unfold execStepEnd
  have hk : Changes pl s s := Changes.refl pl s
  repeat' (first
    | with_reducible exact hL
    | with_reducible exact Part.Sub.via hL (by decide)
    | with_reducible apply ChangesOut.next
    | ((try lift_lets); intro (x : State); refine Changes.via (l := pl) (s := s) (x := x) ?_ (fun hx => ?_); rotate_left; clear_value x; rotate_left; unfold x)
    | ((try lift_lets); intro x; clear_value x)
    | with_reducible assumption
    | with_reducible apply State.finishStep_changes
    | with_reducible apply State.cancelStep_changes
    | (with_reducible apply Changes.upd_step; first | with_reducible assumption | with_reducible apply State.finishStep_changes | with_reducible apply State.cancelStep_changes | split)
    | split
    | (dsimp only))

theorem State.abortStep_changes {pl : List Part}  (hk : Changes pl s0 s) (hL : Part.Sub [.step] pl := by first | assumption | exact Part.Sub.via (by assumption) (by decide +kernel)) : Changes pl s0 (State.abortStep s) := by
  unfold State.abortStep
  repeat' (first
    | with_reducible exact hL
    | with_reducible exact Part.Sub.via hL (by decide)
    | ((try lift_lets); intro (x : State); refine Changes.via (l := pl) (s := s0) (x := x) ?_ (fun hx => ?_); rotate_left; clear_value x; rotate_left; unfold x)
    | ((try lift_lets); intro x; clear_value x)
    | with_reducible assumption
    | (with_reducible apply Changes.upd_step; first | with_reducible assumption | split)
    | split
    | (dsimp only))

theorem State.stepWrite_changes {pl : List Part} {fw : Bool} {value : W64} (hk : Changes pl s0 s) (hL : Part.Sub [.page .DIR, .page .ENG, .risen, .hostOut, .hostHeld, .fwIrq, .msix, .step] pl := by first | assumption | exact Part.Sub.via (by assumption) (by decide +kernel)) : Changes pl s0 (State.stepWrite s fw value) := by
  unfold State.stepWrite
  repeat' (first
    | with_reducible exact hL
    | with_reducible exact Part.Sub.via hL (by decide)
    | ((try lift_lets); intro (x : State); refine Changes.via (l := pl) (s := s0) (x := x) ?_ (fun hx => ?_); rotate_left; clear_value x; rotate_left; unfold x)
    | ((try lift_lets); intro x; clear_value x)
    | with_reducible assumption
    | with_reducible apply State.abortStep_changes
    | with_reducible refine State.regWrite_changes ?_ ?_ (fun u hu => ?_) ?_
    | exact hL _ (Part.mem_elem (by rfl))
    | (refine hL _ (Part.mem_elem ?_); (repeat' split) <;> rfl)
    | split
    | (dsimp only))

theorem execStepAbort_changes {fw : Bool} {value : W64} {pl : List Part} (hL : Part.Sub [.page .DIR, .page .ENG, .risen, .hostOut, .hostHeld, .fwIrq, .msix, .step] pl := by first | assumption | exact Part.Sub.via (by assumption) (by decide +kernel)) : ChangesOut pl s (execStepAbort fw value s) := by
  unfold execStepAbort
  have hk : Changes pl s s := Changes.refl pl s
  repeat' (first
    | with_reducible exact hL
    | with_reducible exact Part.Sub.via hL (by decide)
    | with_reducible apply ChangesOut.next
    | ((try lift_lets); intro (x : State); refine Changes.via (l := pl) (s := s) (x := x) ?_ (fun hx => ?_); rotate_left; clear_value x; rotate_left; unfold x)
    | ((try lift_lets); intro x; clear_value x)
    | with_reducible assumption
    | with_reducible apply State.stepWrite_changes
    | split
    | (dsimp only))

end Sys2Proof.Machine
end

