-- ==== Sys2Proof/Laws/ChangesEdgeHost.lean ====
section
/-!
SUPPORT. What the operations of Machine/EdgeHost can change (Laws/Changes).
-/
namespace Sys2Proof.Machine

set_option linter.all false

variable {s0 s : State}

theorem State.burstFound_changes {pl : List Part} {p : Fin 2} {b err : Nat} (hk : Changes pl s0 s) (hL : Part.Sub [.page .HBM, .edgeMark] pl := by first | assumption | exact Part.Sub.via (by assumption) (by decide +kernel)) : Changes pl s0 (State.burstFound s p b err) := by
  unfold State.burstFound
  repeat' (first
    | with_reducible exact hL
    | with_reducible exact Part.Sub.via hL (by decide)
    | ((try lift_lets); intro (x : State); refine Changes.via (l := pl) (s := s0) (x := x) ?_ (fun hx => ?_); rotate_left; clear_value x; rotate_left; unfold x)
    | ((try lift_lets); intro x; clear_value x)
    | with_reducible assumption
    | with_reducible apply State.count_changes
    | with_reducible apply State.setBurst_changes
    | exact hL _ (Part.mem_elem (by rfl))
    | (refine hL _ (Part.mem_elem ?_); (repeat' split) <;> rfl)
    | split
    | (dsimp only))

theorem execEdgeMemoryAccess_changes {p : Fin 2} {ctx seq burst : Nat} {err : Fin 4} {pl : List Part} (hL : Part.Sub [.page .SEN, .page .EMP, .page .HBM, .risen, .ahead, .recOnce, .records, .hostOut, .hostHeld, .fwIrq, .msix, .edgeMark, .edgeWb, .selfRefresh, .ctxs] pl := by first | assumption | exact Part.Sub.via (by assumption) (by decide +kernel)) : ChangesOut pl s (execEdgeMemoryAccess p ctx seq burst err s) := by
  unfold execEdgeMemoryAccess
  have hk : Changes pl s s := Changes.refl pl s
  repeat' (first
    | with_reducible exact hL
    | with_reducible exact Part.Sub.via hL (by decide)
    | with_reducible apply ChangesOut.next
    | ((try lift_lets); intro (x : State); refine Changes.via (l := pl) (s := s) (x := x) ?_ (fun hx => ?_); rotate_left; clear_value x; rotate_left; unfold x)
    | ((try lift_lets); intro x; clear_value x)
    | with_reducible assumption
    | with_reducible apply State.edgeBack_changes
    | with_reducible apply State.burstFound_changes
    | split
    | (dsimp only))

theorem execRefresh_changes {p : Fin 2} {stack : Fin 24} {rfm : Bool} {pl : List Part} (hL : Part.Sub [.page .HBM] pl := by first | assumption | exact Part.Sub.via (by assumption) (by decide +kernel)) : ChangesOut pl s (execRefresh p stack rfm s) := by
  unfold execRefresh
  have hk : Changes pl s s := Changes.refl pl s
  repeat' (first
    | with_reducible exact hL
    | with_reducible exact Part.Sub.via hL (by decide)
    | with_reducible apply ChangesOut.next
    | ((try lift_lets); intro (x : State); refine Changes.via (l := pl) (s := s) (x := x) ?_ (fun hx => ?_); rotate_left; clear_value x; rotate_left; unfold x)
    | ((try lift_lets); intro x; clear_value x)
    | with_reducible assumption
    | with_reducible apply State.count_changes
    | exact hL _ (Part.mem_elem (by rfl))
    | (refine hL _ (Part.mem_elem ?_); (repeat' split) <;> rfl)
    | split
    | (dsimp only))

theorem State.stackHeatSet_changes {pl : List Part} {k temp : Nat} (hk : Changes pl s0 s) (hL : Part.Sub [.page .PWR, .stackHeat] pl := by first | assumption | exact Part.Sub.via (by assumption) (by decide +kernel)) : Changes pl s0 (State.stackHeatSet s k temp) := by
  unfold State.stackHeatSet
  repeat' (first
    | with_reducible exact hL
    | with_reducible exact Part.Sub.via hL (by decide)
    | ((try lift_lets); intro (x : State); refine Changes.via (l := pl) (s := s0) (x := x) ?_ (fun hx => ?_); rotate_left; clear_value x; rotate_left; unfold x)
    | ((try lift_lets); intro x; clear_value x)
    | with_reducible assumption
    | with_reducible apply State.count_changes
    | (with_reducible apply Changes.upd_stackHeat; first | with_reducible assumption | with_reducible apply State.count_changes | split)
    | exact hL _ (Part.mem_elem (by rfl))
    | (refine hL _ (Part.mem_elem ?_); (repeat' split) <;> rfl)
    | split
    | (dsimp only))

theorem execHbmTempReadout_changes {p : Fin 2} {stack : Fin 24} {temp : BitVec 8} {pl : List Part} (hL : Part.Sub [.page .HBM, .page .PWR, .stackHeat] pl := by first | assumption | exact Part.Sub.via (by assumption) (by decide +kernel)) : ChangesOut pl s (execHbmTempReadout p stack temp s) := by
  unfold execHbmTempReadout
  have hk : Changes pl s s := Changes.refl pl s
  repeat' (first
    | with_reducible exact hL
    | with_reducible exact Part.Sub.via hL (by decide)
    | with_reducible apply ChangesOut.next
    | ((try lift_lets); intro (x : State); refine Changes.via (l := pl) (s := s) (x := x) ?_ (fun hx => ?_); rotate_left; clear_value x; rotate_left; unfold x)
    | ((try lift_lets); intro x; clear_value x)
    | with_reducible assumption
    | with_reducible apply State.setF_changes
    | with_reducible apply State.stackHeatSet_changes
    | exact hL _ (Part.mem_elem (by rfl))
    | (refine hL _ (Part.mem_elem ?_); (repeat' split) <;> rfl)
    | split
    | (dsimp only))

theorem execPatrolScrub_changes {p : Fin 2} {err : Fin 4} {pl : List Part} (hL : Part.Sub [.page .EMP, .page .HBM, .risen, .recOnce, .records, .hostOut, .hostHeld, .fwIrq, .msix, .edgeMark, .edgeWb, .scrubAt] pl := by first | assumption | exact Part.Sub.via (by assumption) (by decide +kernel)) : ChangesOut pl s (execPatrolScrub p err s) := by
  unfold execPatrolScrub
  have hk : Changes pl s s := Changes.refl pl s
  repeat' (first
    | with_reducible exact hL
    | with_reducible exact Part.Sub.via hL (by decide)
    | with_reducible apply ChangesOut.next
    | ((try lift_lets); intro (x : State); refine Changes.via (l := pl) (s := s) (x := x) ?_ (fun hx => ?_); rotate_left; clear_value x; rotate_left; unfold x)
    | ((try lift_lets); intro (x : State × _); refine Changes.via (l := pl) (s := s) (x := x.1) ?_ (fun hx => ?_); rotate_left; clear_value x; rotate_left; unfold x)
    | ((try lift_lets); intro (x : _ × State); refine Changes.via (l := pl) (s := s) (x := x.2) ?_ (fun hx => ?_); rotate_left; clear_value x; rotate_left; unfold x)
    | ((try lift_lets); intro x; clear_value x)
    | with_reducible assumption
    | with_reducible apply State.burstFound_changes
    | with_reducible refine Changes.of_fst (State.readBurst_changes ?_ ?_) (by assumption)
    | with_reducible apply State.readBurst_changes
    | with_reducible apply State.setBurst_changes
    | (with_reducible apply Changes.upd_scrubAt; first | with_reducible assumption | with_reducible apply State.burstFound_changes | with_reducible refine Changes.of_fst (State.readBurst_changes ?_ ?_) (by assumption) | with_reducible apply State.readBurst_changes | with_reducible apply State.setBurst_changes | split)
    | split
    | (dsimp only))

theorem execBurstWriteback_changes {p : Fin 2} {burst : Nat} {pl : List Part} (hL : Part.Sub [.edgeMark, .edgeWb] pl := by first | assumption | exact Part.Sub.via (by assumption) (by decide +kernel)) : ChangesOut pl s (execBurstWriteback p burst s) := by
  unfold execBurstWriteback
  have hk : Changes pl s s := Changes.refl pl s
  repeat' (first
    | with_reducible exact hL
    | with_reducible exact Part.Sub.via hL (by decide)
    | with_reducible apply ChangesOut.next
    | ((try lift_lets); intro (x : State); refine Changes.via (l := pl) (s := s) (x := x) ?_ (fun hx => ?_); rotate_left; clear_value x; rotate_left; unfold x)
    | ((try lift_lets); intro x; clear_value x)
    | with_reducible assumption
    | with_reducible apply State.setBurst_changes
    | (with_reducible apply Changes.upd_edgeWb; first | with_reducible assumption | with_reducible apply State.setBurst_changes | split)
    | split
    | (dsimp only))

theorem State.moduleDown_changes {pl : List Part} {state : Nat} (hk : Changes pl s0 s) (hL : Part.Sub [.page .FLT, .risen, .step] pl := by first | assumption | exact Part.Sub.via (by assumption) (by decide +kernel)) : Changes pl s0 (State.moduleDown s state) := by
  unfold State.moduleDown
  repeat' (first
    | with_reducible exact hL
    | with_reducible exact Part.Sub.via hL (by decide)
    | ((try lift_lets); intro (x : State); refine Changes.via (l := pl) (s := s0) (x := x) ?_ (fun hx => ?_); rotate_left; clear_value x; rotate_left; unfold x)
    | ((try lift_lets); intro x; clear_value x)
    | with_reducible assumption
    | with_reducible apply State.setErr_changes
    | with_reducible apply State.setF_changes
    | with_reducible apply State.failStep_changes
    | exact hL _ (Part.mem_elem (by rfl))
    | (refine hL _ (Part.mem_elem ?_); (repeat' split) <;> rfl)
    | split
    | (dsimp only))

theorem execStackFail_changes {p : Fin 2} {stack : Fin 24} {pl : List Part} (hL : Part.Sub [.page .EMP, .page .HBM, .page .FLT, .risen, .records, .retained, .hostOut, .hostHeld, .fwIrq, .msix, .step] pl := by first | assumption | exact Part.Sub.via (by assumption) (by decide +kernel)) : ChangesOut pl s (execStackFail p stack s) := by
  unfold execStackFail
  have hk : Changes pl s s := Changes.refl pl s
  repeat' (first
    | with_reducible exact hL
    | with_reducible exact Part.Sub.via hL (by decide)
    | with_reducible apply ChangesOut.next
    | ((try lift_lets); intro (x : State); refine Changes.via (l := pl) (s := s) (x := x) ?_ (fun hx => ?_); rotate_left; clear_value x; rotate_left; unfold x)
    | ((try lift_lets); intro x; clear_value x)
    | with_reducible assumption
    | with_reducible apply State.raise_changes
    | with_reducible apply State.setIrq_changes
    | with_reducible apply State.setF_changes
    | with_reducible apply State.moduleDown_changes
    | with_reducible apply State.retain_changes
    | exact hL _ (Part.mem_elem (by rfl))
    | (refine hL _ (Part.mem_elem ?_); (repeat' split) <;> rfl)
    | split
    | (dsimp only))

theorem execSelfRefreshEntry_changes {p : Fin 2} {pl : List Part} (hL : Part.Sub [.selfRefresh] pl := by first | assumption | exact Part.Sub.via (by assumption) (by decide +kernel)) : ChangesOut pl s (execSelfRefreshEntry p s) := by
  unfold execSelfRefreshEntry
  have hk : Changes pl s s := Changes.refl pl s
  repeat' (first
    | with_reducible exact hL
    | with_reducible exact Part.Sub.via hL (by decide)
    | with_reducible apply ChangesOut.next
    | ((try lift_lets); intro (x : State); refine Changes.via (l := pl) (s := s) (x := x) ?_ (fun hx => ?_); rotate_left; clear_value x; rotate_left; unfold x)
    | ((try lift_lets); intro x; clear_value x)
    | with_reducible assumption
    | (with_reducible apply Changes.upd_selfRefresh; first | with_reducible assumption | split)
    | split
    | (dsimp only))

theorem execSelfRefreshExit_changes {p : Fin 2} {pl : List Part} (hL : Part.Sub [.selfRefresh] pl := by first | assumption | exact Part.Sub.via (by assumption) (by decide +kernel)) : ChangesOut pl s (execSelfRefreshExit p s) := by
  unfold execSelfRefreshExit
  have hk : Changes pl s s := Changes.refl pl s
  repeat' (first
    | with_reducible exact hL
    | with_reducible exact Part.Sub.via hL (by decide)
    | with_reducible apply ChangesOut.next
    | ((try lift_lets); intro (x : State); refine Changes.via (l := pl) (s := s) (x := x) ?_ (fun hx => ?_); rotate_left; clear_value x; rotate_left; unfold x)
    | ((try lift_lets); intro x; clear_value x)
    | with_reducible assumption
    | (with_reducible apply Changes.upd_selfRefresh; first | with_reducible assumption | split)
    | split
    | (dsimp only))

theorem State.respond_changes {pl : List Part} {o : HostOut} (hk : Changes pl s0 s) (hL : Part.Sub [.hostOut] pl := by first | assumption | exact Part.Sub.via (by assumption) (by decide +kernel)) : Changes pl s0 (State.respond s o) := by
  unfold State.respond
  repeat' (first
    | with_reducible exact hL
    | with_reducible exact Part.Sub.via hL (by decide)
    | ((try lift_lets); intro (x : State); refine Changes.via (l := pl) (s := s0) (x := x) ?_ (fun hx => ?_); rotate_left; clear_value x; rotate_left; unfold x)
    | ((try lift_lets); intro x; clear_value x)
    | with_reducible assumption
    | (with_reducible apply Changes.upd_hostOut; first | with_reducible assumption | split)
    | split
    | (dsimp only))

theorem State.refusedAccess_changes {pl : List Part} {bar : Nat} {write poisoned : Bool} {off : Nat} (hk : Changes pl s0 s) (hL : Part.Sub [.page .HIF, .risen, .hostOut, .hostHeld, .fwIrq, .msix] pl := by first | assumption | exact Part.Sub.via (by assumption) (by decide +kernel)) : Changes pl s0 (State.refusedAccess s bar write poisoned off) := by
  unfold State.refusedAccess
  repeat' (first
    | with_reducible exact hL
    | with_reducible exact Part.Sub.via hL (by decide)
    | ((try lift_lets); intro (x : State); refine Changes.via (l := pl) (s := s0) (x := x) ?_ (fun hx => ?_); rotate_left; clear_value x; rotate_left; unfold x)
    | ((try lift_lets); intro x; clear_value x)
    | with_reducible assumption
    | with_reducible apply State.count_changes
    | with_reducible apply State.badAccess_changes
    | exact hL _ (Part.mem_elem (by rfl))
    | split
    | (dsimp only))

theorem execBar4Access_changes {off : Nat} {write poisoned : Bool} {bytes : List Byte} {len : Nat} {pl : List Part} (hL : Part.Sub [.page .HIF, .page .EMP, .page .HBM, .risen, .recOnce, .records, .hostOut, .hostHeld, .fwIrq, .msix, .edge, .edgeMark, .edgeWb, .selfRefresh] pl := by first | assumption | exact Part.Sub.via (by assumption) (by decide +kernel)) : ChangesOut pl s (execBar4Access off write poisoned bytes len s) := by
  unfold execBar4Access
  have hk : Changes pl s s := Changes.refl pl s
  repeat' (first
    | with_reducible exact hL
    | with_reducible exact Part.Sub.via hL (by decide)
    | with_reducible apply ChangesOut.next
    | ((try lift_lets); intro (x : State); refine Changes.via (l := pl) (s := s) (x := x) ?_ (fun hx => ?_); rotate_left; clear_value x; rotate_left; unfold x)
    | ((try lift_lets); intro (x : State × _); refine Changes.via (l := pl) (s := s) (x := x.1) ?_ (fun hx => ?_); rotate_left; clear_value x; rotate_left; unfold x)
    | ((try lift_lets); intro (x : _ × State); refine Changes.via (l := pl) (s := s) (x := x.2) ?_ (fun hx => ?_); rotate_left; clear_value x; rotate_left; unfold x)
    | ((try lift_lets); intro x; clear_value x)
    | with_reducible assumption
    | with_reducible apply State.badAccess_changes
    | with_reducible apply State.refusedAccess_changes
    | with_reducible apply State.respond_changes
    | with_reducible apply State.edgeWrite_changes
    | with_reducible refine Changes.of_fst (State.edgeRead_changes ?_ ?_) (by assumption)
    | with_reducible apply State.edgeRead_changes
    | with_reducible apply State.setBurst_changes
    | with_reducible refine Changes.foldl ?_ (fun u x hu => ?_)
    | with_reducible refine Changes.foldl_fst ?_ (fun u x hu => ?_)
    | split
    | (dsimp only))

theorem execBar0BadRead_changes {off : Nat} {pl : List Part} (hL : Part.Sub [.page .HIF, .risen, .hostOut, .hostHeld, .fwIrq, .msix] pl := by first | assumption | exact Part.Sub.via (by assumption) (by decide +kernel)) : ChangesOut pl s (execBar0BadRead off s) := by
  unfold execBar0BadRead
  have hk : Changes pl s s := Changes.refl pl s
  repeat' (first
    | with_reducible exact hL
    | with_reducible exact Part.Sub.via hL (by decide)
    | with_reducible apply ChangesOut.next
    | ((try lift_lets); intro (x : State); refine Changes.via (l := pl) (s := s) (x := x) ?_ (fun hx => ?_); rotate_left; clear_value x; rotate_left; unfold x)
    | ((try lift_lets); intro x; clear_value x)
    | with_reducible assumption
    | with_reducible apply State.refusedAccess_changes
    | with_reducible apply State.respond_changes
    | split
    | (dsimp only))

theorem State.resetPage_changes {pl : List Part} {p : Page} (h : Changes pl s0 s) (hm : Part.page p.typ ∈ pl) (hL : Part.Sub [] pl := by first | assumption | exact Part.Sub.via (by assumption) (by decide +kernel)) : Changes pl s0 (s.resetPage p) := by
  refine h.trans (fun q hq => ?_)
  cases q with
  | page y =>
    intro i o
    have ht : PageType.code y ≠ PageType.code p.typ := by
      intro e
      refine hq (?_ : Part.page y ∈ pl)
      have z : y = p.typ := by revert e; cases y <;> cases p.typ <;> first | (intro _; rfl) | (intro e; exact absurd e (by decide))
      exact z ▸ hm
    refine look_filter regDefault _ _ (fun v => ?_) s.regs
    simp only [regKey, bne_iff_ne, ne_eq]
    omega
  | _ => rfl

theorem State.releaseHost_changes {pl : List Part}  (hk : Changes pl s0 s) (hL : Part.Sub [.hostOut, .hostHeld] pl := by first | assumption | exact Part.Sub.via (by assumption) (by decide +kernel)) : Changes pl s0 (State.releaseHost s) := by
  unfold State.releaseHost
  repeat' (first
    | with_reducible exact hL
    | with_reducible exact Part.Sub.via hL (by decide)
    | ((try lift_lets); intro (x : State); refine Changes.via (l := pl) (s := s0) (x := x) ?_ (fun hx => ?_); rotate_left; clear_value x; rotate_left; unfold x)
    | ((try lift_lets); intro x; clear_value x)
    | with_reducible assumption
    | (with_reducible apply Changes.upd_hostOut_hostHeld; first | with_reducible assumption | split)
    | split
    | (dsimp only))

theorem execPcieReset_changes {pl : List Part} {link : W64} (hL : Part.Sub [.page .HIF, .risen, .hostOut, .hostHeld, .fwIrq, .msix, .d3hot, .doe] pl := by first | assumption | exact Part.Sub.via (by assumption) (by decide +kernel)) : ChangesOut pl s (execPcieReset link s) := by
  have hm : Part.page .HIF ∈ pl := hL _ (Part.mem_elem (by rfl))
  refine ChangesOut.next (State.setIrq_changes (State.setReg_changes (State.raiseF_changes (State.setF_changes ?_ hm) hm) hm) hm)
  have h : Changes pl s (s.resetPage ⟨.HIF, 0⟩) := State.resetPage_changes (Changes.refl pl s) hm
  exact Changes.upd_msix_d3hot_doe h

theorem State.dropHostQueues_changes {pl : List Part}  (hk : Changes pl s0 s) (hL : Part.Sub [.page .ENG, .queues] pl := by first | assumption | exact Part.Sub.via (by assumption) (by decide +kernel)) : Changes pl s0 (State.dropHostQueues s) := by
  unfold State.dropHostQueues
  repeat' (first
    | with_reducible exact hL
    | with_reducible exact Part.Sub.via hL (by decide)
    | ((try lift_lets); intro (x : State); refine Changes.via (l := pl) (s := s0) (x := x) ?_ (fun hx => ?_); rotate_left; clear_value x; rotate_left; unfold x)
    | ((try lift_lets); intro x; clear_value x)
    | with_reducible assumption
    | with_reducible apply State.setF_changes
    | with_reducible apply State.disableQueue_changes
    | with_reducible refine Changes.foldl ?_ (fun u x hu => ?_)
    | exact hL _ (Part.mem_elem (by rfl))
    | (refine hL _ (Part.mem_elem ?_); (repeat' split) <;> rfl)
    | split
    | (dsimp only))

theorem State.dmaCtlWrite_changes {pl : List Part} {fw : Bool} {value : W64} (hk : Changes pl s0 s) (hL : Part.Sub [.page .DIR, .page .HIF, .page .ENG, .risen, .hostOut, .hostHeld, .fwIrq, .msix, .queues] pl := by first | assumption | exact Part.Sub.via (by assumption) (by decide +kernel)) : Changes pl s0 (State.dmaCtlWrite s fw value) := by
  unfold State.dmaCtlWrite
  repeat' (first
    | with_reducible exact hL
    | with_reducible exact Part.Sub.via hL (by decide)
    | ((try lift_lets); intro (x : State); refine Changes.via (l := pl) (s := s0) (x := x) ?_ (fun hx => ?_); rotate_left; clear_value x; rotate_left; unfold x)
    | ((try lift_lets); intro x; clear_value x)
    | with_reducible assumption
    | with_reducible refine State.regWrite_changes ?_ ?_ (fun u hu => ?_) ?_
    | with_reducible apply State.count_changes
    | with_reducible apply State.setF_changes
    | with_reducible apply State.dropHostQueues_changes
    | with_reducible apply State.releaseHost_changes
    | (with_reducible apply Changes.upd_hostHeld; first | with_reducible assumption | with_reducible refine State.regWrite_changes ?_ ?_ (fun u hu => ?_) ?_ | with_reducible apply State.count_changes | with_reducible apply State.setF_changes | with_reducible apply State.dropHostQueues_changes | with_reducible apply State.releaseHost_changes | split)
    | exact hL _ (Part.mem_elem (by rfl))
    | (refine hL _ (Part.mem_elem ?_); (repeat' split) <;> rfl)
    | split
    | (dsimp only))

theorem execDmaResume_changes {fw : Bool} {value : W64} {pl : List Part} (hL : Part.Sub [.page .DIR, .page .HIF, .page .ENG, .risen, .hostOut, .hostHeld, .fwIrq, .msix, .queues] pl := by first | assumption | exact Part.Sub.via (by assumption) (by decide +kernel)) : ChangesOut pl s (execDmaResume fw value s) := by
  unfold execDmaResume
  have hk : Changes pl s s := Changes.refl pl s
  repeat' (first
    | with_reducible exact hL
    | with_reducible exact Part.Sub.via hL (by decide)
    | with_reducible apply ChangesOut.next
    | ((try lift_lets); intro (x : State); refine Changes.via (l := pl) (s := s) (x := x) ?_ (fun hx => ?_); rotate_left; clear_value x; rotate_left; unfold x)
    | ((try lift_lets); intro x; clear_value x)
    | with_reducible assumption
    | with_reducible apply State.dmaCtlWrite_changes
    | split
    | (dsimp only))

theorem execDmaDiscard_changes {fw : Bool} {value : W64} {pl : List Part} (hL : Part.Sub [.page .DIR, .page .HIF, .page .ENG, .risen, .hostOut, .hostHeld, .fwIrq, .msix, .queues] pl := by first | assumption | exact Part.Sub.via (by assumption) (by decide +kernel)) : ChangesOut pl s (execDmaDiscard fw value s) := by
  unfold execDmaDiscard
  have hk : Changes pl s s := Changes.refl pl s
  repeat' (first
    | with_reducible exact hL
    | with_reducible exact Part.Sub.via hL (by decide)
    | with_reducible apply ChangesOut.next
    | ((try lift_lets); intro (x : State); refine Changes.via (l := pl) (s := s) (x := x) ?_ (fun hx => ?_); rotate_left; clear_value x; rotate_left; unfold x)
    | ((try lift_lets); intro x; clear_value x)
    | with_reducible assumption
    | with_reducible apply State.dmaCtlWrite_changes
    | split
    | (dsimp only))

theorem execConfigSpaceWrite_changes {power : Bool} {v : Nat} {pl : List Part} (hL : Part.Sub [.page .HIF, .hostOut, .hostHeld, .d3hot] pl := by first | assumption | exact Part.Sub.via (by assumption) (by decide +kernel)) : ChangesOut pl s (execConfigSpaceWrite power v s) := by
  unfold execConfigSpaceWrite
  have hk : Changes pl s s := Changes.refl pl s
  repeat' (first
    | with_reducible exact hL
    | with_reducible exact Part.Sub.via hL (by decide)
    | with_reducible apply ChangesOut.next
    | ((try lift_lets); intro (x : State); refine Changes.via (l := pl) (s := s) (x := x) ?_ (fun hx => ?_); rotate_left; clear_value x; rotate_left; unfold x)
    | ((try lift_lets); intro x; clear_value x)
    | with_reducible assumption
    | with_reducible apply State.setF_changes
    | with_reducible apply State.releaseHost_changes
    | (with_reducible apply Changes.upd_d3hot; first | with_reducible assumption | with_reducible apply State.setF_changes | with_reducible apply State.releaseHost_changes | split)
    | exact hL _ (Part.mem_elem (by rfl))
    | (refine hL _ (Part.mem_elem ?_); (repeat' split) <;> rfl)
    | split
    | (dsimp only))

end Sys2Proof.Machine
end

