-- ==== Sys2Proof/Laws/ChangesRails.lean ====
section
/-!
SUPPORT. What the operations of Machine/Rails can change (Laws/Changes).
-/
namespace Sys2Proof.Machine

set_option linter.all false

variable {s0 s : State}

theorem State.select_changes {pl : List Part} {f : FieldAddr} (hk : Changes pl s0 s) (hL : Part.Sub [.page .FPW] pl := by first | assumption | exact Part.Sub.via (by assumption) (by decide +kernel)) : Changes pl s0 (State.select s f) := by
  unfold State.select
  repeat' (first
    | with_reducible exact hL
    | with_reducible exact Part.Sub.via hL (by decide)
    | ((try lift_lets); intro (x : State); refine Changes.via (l := pl) (s := s0) (x := x) ?_ (fun hx => ?_); rotate_left; clear_value x; rotate_left; unfold x)
    | ((try lift_lets); intro x; clear_value x)
    | with_reducible assumption
    | with_reducible apply State.count_changes
    | with_reducible apply State.setF_changes
    | with_reducible refine Changes.foldl ?_ (fun u x hu => ?_)
    | exact hL _ (Part.mem_elem (by rfl))
    | (refine hL _ (Part.mem_elem ?_); (repeat' split) <;> rfl)
    | split
    | (dsimp only))

theorem State.selectAll_changes {pl : List Part}  (hk : Changes pl s0 s) (hL : Part.Sub [.page .FPW] pl := by first | assumption | exact Part.Sub.via (by assumption) (by decide +kernel)) : Changes pl s0 (State.selectAll s) := by
  unfold State.selectAll
  repeat' (first
    | with_reducible exact hL
    | with_reducible exact Part.Sub.via hL (by decide)
    | ((try lift_lets); intro (x : State); refine Changes.via (l := pl) (s := s0) (x := x) ?_ (fun hx => ?_); rotate_left; clear_value x; rotate_left; unfold x)
    | ((try lift_lets); intro x; clear_value x)
    | with_reducible assumption
    | with_reducible apply State.select_changes
    | with_reducible refine Changes.foldl ?_ (fun u x hu => ?_)
    | split
    | (dsimp only))

theorem State.retireBound_changes {pl : List Part} {f : FieldAddr} {cause code : Nat} {block : Option Nat} (hk : Changes pl s0 s) (hL : Part.Sub [.page .FLT, .risen, .fields, .records, .retained, .hostOut, .hostHeld, .fwIrq, .msix] pl := by first | assumption | exact Part.Sub.via (by assumption) (by decide +kernel)) : Changes pl s0 (State.retireBound s f cause code block) := by
  unfold State.retireBound
  repeat' (first
    | with_reducible exact hL
    | with_reducible exact Part.Sub.via hL (by decide)
    | ((try lift_lets); intro (x : State); refine Changes.via (l := pl) (s := s0) (x := x) ?_ (fun hx => ?_); rotate_left; clear_value x; rotate_left; unfold x)
    | ((try lift_lets); intro x; clear_value x)
    | with_reducible assumption
    | with_reducible apply State.markRebind_changes
    | with_reducible apply State.retireField_changes
    | split
    | (dsimp only))

theorem State.noReuse_changes {pl : List Part} {f : FieldAddr} (hk : Changes pl s0 s) (hL : Part.Sub [.array] pl := by first | assumption | exact Part.Sub.via (by assumption) (by decide +kernel)) : Changes pl s0 (State.noReuse s f) := by
  unfold State.noReuse
  repeat' (first
    | with_reducible exact hL
    | with_reducible exact Part.Sub.via hL (by decide)
    | ((try lift_lets); intro (x : State); refine Changes.via (l := pl) (s := s0) (x := x) ?_ (fun hx => ?_); rotate_left; clear_value x; rotate_left; unfold x)
    | ((try lift_lets); intro x; clear_value x)
    | with_reducible assumption
    | with_reducible apply State.setAe_changes
    | split
    | (dsimp only))

theorem State.fieldOutcome_changes {pl : List Part} {f : FieldAddr} {cause : Nat} (hk : Changes pl s0 s) (hL : Part.Sub [.causes, .step] pl := by first | assumption | exact Part.Sub.via (by assumption) (by decide +kernel)) : Changes pl s0 (State.fieldOutcome s f cause) := by
  unfold State.fieldOutcome
  repeat' (first
    | with_reducible exact hL
    | with_reducible exact Part.Sub.via hL (by decide)
    | ((try lift_lets); intro (x : State); refine Changes.via (l := pl) (s := s0) (x := x) ?_ (fun hx => ?_); rotate_left; clear_value x; rotate_left; unfold x)
    | ((try lift_lets); intro x; clear_value x)
    | with_reducible assumption
    | with_reducible apply State.reportCause_changes
    | with_reducible apply State.failStep_changes
    | split
    | (dsimp only))

theorem State.openStage_changes {pl : List Part} {f : FieldAddr} (hk : Changes pl s0 s) (hL : Part.Sub [.fields] pl := by first | assumption | exact Part.Sub.via (by assumption) (by decide +kernel)) : Changes pl s0 (State.openStage s f) := by
  unfold State.openStage
  repeat' (first
    | with_reducible exact hL
    | with_reducible exact Part.Sub.via hL (by decide)
    | ((try lift_lets); intro (x : State); refine Changes.via (l := pl) (s := s0) (x := x) ?_ (fun hx => ?_); rotate_left; clear_value x; rotate_left; unfold x)
    | ((try lift_lets); intro x; clear_value x)
    | with_reducible assumption
    | with_reducible apply State.setField_changes
    | split
    | (dsimp only))

theorem State.loseField_changes {pl : List Part} {f : FieldAddr} {cause : Nat} (hk : Changes pl s0 s) (hL : Part.Sub [.page .PWR, .page .FLT, .risen, .fields, .records, .causes, .retained, .hostOut, .hostHeld, .fwIrq, .msix, .step] pl := by first | assumption | exact Part.Sub.via (by assumption) (by decide +kernel)) : Changes pl s0 (State.loseField s f cause) := by
  unfold State.loseField
  repeat' (first
    | with_reducible exact hL
    | with_reducible exact Part.Sub.via hL (by decide)
    | ((try lift_lets); intro (x : State); refine Changes.via (l := pl) (s := s0) (x := x) ?_ (fun hx => ?_); rotate_left; clear_value x; rotate_left; unfold x)
    | ((try lift_lets); intro x; clear_value x)
    | with_reducible assumption
    | with_reducible apply State.openStage_changes
    | with_reducible apply State.fieldOutcome_changes
    | with_reducible apply State.retireBound_changes
    | with_reducible apply State.raise_changes
    | with_reducible apply State.captureFirst_changes
    | with_reducible apply State.count_changes
    | with_reducible apply State.setErr_changes
    | exact hL _ (Part.mem_elem (by rfl))
    | (refine hL _ (Part.mem_elem ?_); (repeat' split) <;> rfl)
    | split
    | (dsimp only))

theorem execOvercurrentTrip_changes {f : FieldAddr} {pl : List Part} (hL : Part.Sub [.page .PWR, .page .FLT, .risen, .fields, .records, .causes, .retained, .hostOut, .hostHeld, .fwIrq, .msix, .step] pl := by first | assumption | exact Part.Sub.via (by assumption) (by decide +kernel)) : ChangesOut pl s (execOvercurrentTrip f s) := by
  unfold execOvercurrentTrip
  have hk : Changes pl s s := Changes.refl pl s
  repeat' (first
    | with_reducible exact hL
    | with_reducible exact Part.Sub.via hL (by decide)
    | with_reducible apply ChangesOut.next
    | ((try lift_lets); intro (x : State); refine Changes.via (l := pl) (s := s) (x := x) ?_ (fun hx => ?_); rotate_left; clear_value x; rotate_left; unfold x)
    | ((try lift_lets); intro x; clear_value x)
    | with_reducible assumption
    | with_reducible apply State.loseField_changes
    | split
    | (dsimp only))

theorem State.noteSupply_changes {pl : List Part} {f : FieldAddr} {kind pct : Nat} (hk : Changes pl s0 s) (hL : Part.Sub [.page .PWR, .risen, .recOnce, .records, .hostOut, .hostHeld, .fwIrq, .msix] pl := by first | assumption | exact Part.Sub.via (by assumption) (by decide +kernel)) : Changes pl s0 (State.noteSupply s f kind pct) := by
  unfold State.noteSupply
  repeat' (first
    | with_reducible exact hL
    | with_reducible exact Part.Sub.via hL (by decide)
    | ((try lift_lets); intro (x : State); refine Changes.via (l := pl) (s := s0) (x := x) ?_ (fun hx => ?_); rotate_left; clear_value x; rotate_left; unfold x)
    | ((try lift_lets); intro x; clear_value x)
    | with_reducible assumption
    | with_reducible apply State.raiseOnce_changes
    | with_reducible apply State.raise_changes
    | with_reducible apply State.captureFirst_changes
    | exact hL _ (Part.mem_elem (by rfl))
    | (refine hL _ (Part.mem_elem ?_); (repeat' split) <;> rfl)
    | split
    | (dsimp only))

theorem execSupplyWarn_changes {f : FieldAddr} {pct : Nat} {pl : List Part} (hL : Part.Sub [.page .PWR, .page .FPW, .risen, .fields, .recOnce, .records, .hostOut, .hostHeld, .fwIrq, .msix] pl := by first | assumption | exact Part.Sub.via (by assumption) (by decide +kernel)) : ChangesOut pl s (execSupplyWarn f pct s) := by
  unfold execSupplyWarn
  have hk : Changes pl s s := Changes.refl pl s
  repeat' (first
    | with_reducible exact hL
    | with_reducible exact Part.Sub.via hL (by decide)
    | with_reducible apply ChangesOut.next
    | ((try lift_lets); intro (x : State); refine Changes.via (l := pl) (s := s) (x := x) ?_ (fun hx => ?_); rotate_left; clear_value x; rotate_left; unfold x)
    | ((try lift_lets); intro x; clear_value x)
    | with_reducible assumption
    | with_reducible apply State.noteSupply_changes
    | with_reducible apply State.count_changes
    | with_reducible apply State.setIrq_changes
    | with_reducible apply State.setField_changes
    | with_reducible apply State.raiseF_changes
    | with_reducible apply State.setF_changes
    | exact hL _ (Part.mem_elem (by rfl))
    | (refine hL _ (Part.mem_elem ?_); (repeat' split) <;> rfl)
    | split
    | (dsimp only))

theorem execSupplyRecover_changes {f : FieldAddr} {pl : List Part} (hL : Part.Sub [.page .FPW, .fields] pl := by first | assumption | exact Part.Sub.via (by assumption) (by decide +kernel)) : ChangesOut pl s (execSupplyRecover f s) := by
  unfold execSupplyRecover
  have hk : Changes pl s s := Changes.refl pl s
  repeat' (first
    | with_reducible exact hL
    | with_reducible exact Part.Sub.via hL (by decide)
    | with_reducible apply ChangesOut.next
    | ((try lift_lets); intro (x : State); refine Changes.via (l := pl) (s := s) (x := x) ?_ (fun hx => ?_); rotate_left; clear_value x; rotate_left; unfold x)
    | ((try lift_lets); intro x; clear_value x)
    | with_reducible assumption
    | with_reducible apply State.select_changes
    | with_reducible apply State.setField_changes
    | with_reducible apply State.setF_changes
    | exact hL _ (Part.mem_elem (by rfl))
    | (refine hL _ (Part.mem_elem ?_); (repeat' split) <;> rfl)
    | split
    | (dsimp only))

theorem State.assertReset_changes {pl : List Part} {f : FieldAddr} {pct : Nat} {third : Bool} (hk : Changes pl s0 s) (hL : Part.Sub [.page .PWR, .page .FLT, .risen, .fields, .recOnce, .records, .causes, .retained, .hostOut, .hostHeld, .fwIrq, .msix, .step, .array] pl := by first | assumption | exact Part.Sub.via (by assumption) (by decide +kernel)) : Changes pl s0 (State.assertReset s f pct third) := by
  unfold State.assertReset
  repeat' (first
    | with_reducible exact hL
    | with_reducible exact Part.Sub.via hL (by decide)
    | ((try lift_lets); intro (x : State); refine Changes.via (l := pl) (s := s0) (x := x) ?_ (fun hx => ?_); rotate_left; clear_value x; rotate_left; unfold x)
    | ((try lift_lets); intro x; clear_value x)
    | with_reducible assumption
    | with_reducible apply State.noteSupply_changes
    | with_reducible apply State.openStage_changes
    | with_reducible apply State.fieldOutcome_changes
    | with_reducible apply State.noReuse_changes
    | with_reducible apply State.retireBound_changes
    | with_reducible apply State.count_changes
    | with_reducible apply State.setField_changes
    | exact hL _ (Part.mem_elem (by rfl))
    | (refine hL _ (Part.mem_elem ?_); (repeat' split) <;> rfl)
    | split
    | (dsimp only))

theorem execFieldReset_changes {f : FieldAddr} {pct : Nat} {third : Bool} {pl : List Part} (hL : Part.Sub [.page .PWR, .page .FLT, .risen, .fields, .recOnce, .records, .causes, .retained, .hostOut, .hostHeld, .fwIrq, .msix, .step, .array] pl := by first | assumption | exact Part.Sub.via (by assumption) (by decide +kernel)) : ChangesOut pl s (execFieldReset f pct third s) := by
  unfold execFieldReset
  have hk : Changes pl s s := Changes.refl pl s
  repeat' (first
    | with_reducible exact hL
    | with_reducible exact Part.Sub.via hL (by decide)
    | with_reducible apply ChangesOut.next
    | ((try lift_lets); intro (x : State); refine Changes.via (l := pl) (s := s) (x := x) ?_ (fun hx => ?_); rotate_left; clear_value x; rotate_left; unfold x)
    | ((try lift_lets); intro x; clear_value x)
    | with_reducible assumption
    | with_reducible apply State.assertReset_changes
    | split
    | (dsimp only))

theorem State.resetPages_changes {pl : List Part} {f : FieldAddr} (hk : Changes pl s0 s) (hL : Part.Sub (allPages ++ []) pl := by first | assumption | exact Part.Sub.via (by assumption) (by decide +kernel)) : Changes pl s0 (State.resetPages s f) := by
  unfold State.resetPages
  repeat' (first
    | with_reducible exact hL
    | with_reducible exact Part.Sub.via hL (by decide)
    | ((try lift_lets); intro (x : State); refine Changes.via (l := pl) (s := s0) (x := x) ?_ (fun hx => ?_); rotate_left; clear_value x; rotate_left; unfold x)
    | ((try lift_lets); intro (x : _ → _); dsimp -zeta only [x]; clear x)
    | ((try lift_lets); intro x; clear_value x)
    | with_reducible assumption
    | (with_reducible apply Changes.upd_regs; first | with_reducible assumption | split)
    | exact hL _ (Part.mem_elem (by rfl))
    | (refine hL _ (Part.mem_elem ?_); (repeat' split) <;> rfl)
    | exact hL _ (List.mem_append_left _ (Part.mem_pages _))
    | split
    | (dsimp only))

theorem State.resetTiles_changes {pl : List Part} {f : FieldAddr} (hk : Changes pl s0 s) (hL : Part.Sub [.tiles] pl := by first | assumption | exact Part.Sub.via (by assumption) (by decide +kernel)) : Changes pl s0 (State.resetTiles s f) := by
  unfold State.resetTiles
  repeat' (first
    | with_reducible exact hL
    | with_reducible exact Part.Sub.via hL (by decide)
    | ((try lift_lets); intro (x : State); refine Changes.via (l := pl) (s := s0) (x := x) ?_ (fun hx => ?_); rotate_left; clear_value x; rotate_left; unfold x)
    | ((try lift_lets); intro x; clear_value x)
    | with_reducible assumption
    | with_reducible apply State.setTile_changes
    | with_reducible refine Changes.foldl ?_ (fun u x hu => ?_)
    | split
    | (dsimp only))

theorem execFieldResetRecovery_changes {f : FieldAddr} {pl : List Part} (hL : Part.Sub (allPages ++ [.tiles, .fields]) pl := by first | assumption | exact Part.Sub.via (by assumption) (by decide +kernel)) : ChangesOut pl s (execFieldResetRecovery f s) := by
  unfold execFieldResetRecovery
  have hk : Changes pl s s := Changes.refl pl s
  repeat' (first
    | with_reducible exact hL
    | with_reducible exact Part.Sub.via hL (by decide)
    | with_reducible apply ChangesOut.next
    | ((try lift_lets); intro (x : State); refine Changes.via (l := pl) (s := s) (x := x) ?_ (fun hx => ?_); rotate_left; clear_value x; rotate_left; unfold x)
    | ((try lift_lets); intro x; clear_value x)
    | with_reducible assumption
    | with_reducible apply State.resetTiles_changes
    | with_reducible apply State.resetPages_changes
    | with_reducible apply State.select_changes
    | with_reducible apply State.setField_changes
    | with_reducible apply State.setF_changes
    | exact hL _ (Part.mem_elem (by rfl))
    | (refine hL _ (Part.mem_elem ?_); (repeat' split) <;> rfl)
    | split
    | (dsimp only))

theorem execNoRecover_changes {f : FieldAddr} {pl : List Part} (hL : Part.Sub [.page .PWR, .page .FLT, .risen, .fields, .records, .causes, .retained, .hostOut, .hostHeld, .fwIrq, .msix, .step] pl := by first | assumption | exact Part.Sub.via (by assumption) (by decide +kernel)) : ChangesOut pl s (execNoRecover f s) := by
  unfold execNoRecover
  have hk : Changes pl s s := Changes.refl pl s
  repeat' (first
    | with_reducible exact hL
    | with_reducible exact Part.Sub.via hL (by decide)
    | with_reducible apply ChangesOut.next
    | ((try lift_lets); intro (x : State); refine Changes.via (l := pl) (s := s) (x := x) ?_ (fun hx => ?_); rotate_left; clear_value x; rotate_left; unfold x)
    | ((try lift_lets); intro x; clear_value x)
    | with_reducible assumption
    | with_reducible apply State.loseField_changes
    | split
    | (dsimp only))

theorem execLockLoss_changes {domain : Fin 18} {f : FieldAddr} {block : Fin 12} {pl : List Part} (hL : Part.Sub [.fields, .stoppedClk] pl := by first | assumption | exact Part.Sub.via (by assumption) (by decide +kernel)) : ChangesOut pl s (execLockLoss domain f block s) := by
  unfold execLockLoss
  have hk : Changes pl s s := Changes.refl pl s
  repeat' (first
    | with_reducible exact hL
    | with_reducible exact Part.Sub.via hL (by decide)
    | with_reducible apply ChangesOut.next
    | ((try lift_lets); intro (x : State); refine Changes.via (l := pl) (s := s) (x := x) ?_ (fun hx => ?_); rotate_left; clear_value x; rotate_left; unfold x)
    | ((try lift_lets); intro x; clear_value x)
    | with_reducible assumption
    | with_reducible apply State.setField_changes
    | (with_reducible apply Changes.upd_stoppedClk; first | with_reducible assumption | with_reducible apply State.setField_changes | split)
    | split
    | (dsimp only))

theorem execClockRelock_changes {domain : Fin 18} {f : FieldAddr} {block : Fin 12} {pl : List Part} (hL : Part.Sub [.fields, .stoppedClk] pl := by first | assumption | exact Part.Sub.via (by assumption) (by decide +kernel)) : ChangesOut pl s (execClockRelock domain f block s) := by
  unfold execClockRelock
  have hk : Changes pl s s := Changes.refl pl s
  repeat' (first
    | with_reducible exact hL
    | with_reducible exact Part.Sub.via hL (by decide)
    | with_reducible apply ChangesOut.next
    | ((try lift_lets); intro (x : State); refine Changes.via (l := pl) (s := s) (x := x) ?_ (fun hx => ?_); rotate_left; clear_value x; rotate_left; unfold x)
    | ((try lift_lets); intro x; clear_value x)
    | with_reducible assumption
    | with_reducible apply State.setField_changes
    | (with_reducible apply Changes.upd_stoppedClk; first | with_reducible assumption | with_reducible apply State.setField_changes | split)
    | split
    | (dsimp only))

theorem execRelockTimeout_changes {domain : Fin 18} {f : FieldAddr} {block : Fin 12} {unit : Fin 80} {lanes : BitVec 8} {lost pct : Nat} {third : Bool} {pl : List Part} (hL : Part.Sub [.page .ENG, .page .BRG, .page .SEN, .page .VLX, .page .EMP, .page .HBM, .page .VPT, .page .MESH, .page .PWR, .page .FLT, .risen, .ahead, .tiles, .fields, .recOnce, .records, .causes, .retained, .hostOut, .hostHeld, .fwIrq, .msix, .edge, .edgeMark, .edgeWb, .selfRefresh, .bridgeRx, .ctxs, .queues, .step, .array, .links, .wire, .exchs, .destSets, .windows, .derived, .stoppedClk, .free] pl := by first | assumption | exact Part.Sub.via (by assumption) (by decide +kernel)) : ChangesOut pl s (execRelockTimeout domain f block unit lanes lost pct third s) := by
  unfold execRelockTimeout
  have hk : Changes pl s s := Changes.refl pl s
  repeat' (first
    | with_reducible exact hL
    | with_reducible exact Part.Sub.via hL (by decide)
    | with_reducible apply ChangesOut.next
    | ((try lift_lets); intro (x : State); refine Changes.via (l := pl) (s := s) (x := x) ?_ (fun hx => ?_); rotate_left; clear_value x; rotate_left; unfold x)
    | ((try lift_lets); intro x; clear_value x)
    | with_reducible assumption
    | with_reducible apply State.laneFail_changes
    | with_reducible apply State.groupsOut_changes
    | with_reducible apply State.assertReset_changes
    | with_reducible apply State.loseField_changes
    | with_reducible apply State.raise_changes
    | with_reducible apply State.setField_changes
    | with_reducible apply State.moduleDown_changes
    | (with_reducible apply Changes.upd_stoppedClk; first | with_reducible assumption | with_reducible apply State.laneFail_changes | with_reducible apply State.groupsOut_changes | with_reducible apply State.assertReset_changes | with_reducible apply State.loseField_changes | with_reducible apply State.raise_changes | with_reducible apply State.setField_changes | with_reducible apply State.moduleDown_changes | split)
    | split
    | (dsimp only))

theorem execRefFailover_changes  {pl : List Part} (hL : Part.Sub [.records, .refLost] pl := by first | assumption | exact Part.Sub.via (by assumption) (by decide +kernel)) : ChangesOut pl s (execRefFailover s) := by
  unfold execRefFailover
  have hk : Changes pl s s := Changes.refl pl s
  repeat' (first
    | with_reducible exact hL
    | with_reducible exact Part.Sub.via hL (by decide)
    | with_reducible apply ChangesOut.next
    | ((try lift_lets); intro (x : State); refine Changes.via (l := pl) (s := s) (x := x) ?_ (fun hx => ?_); rotate_left; clear_value x; rotate_left; unfold x)
    | ((try lift_lets); intro x; clear_value x)
    | with_reducible assumption
    | with_reducible apply State.raise_changes
    | (with_reducible apply Changes.upd_refLost; first | with_reducible assumption | with_reducible apply State.raise_changes | split)
    | split
    | (dsimp only))

theorem execAgeingRead_changes {f : FieldAddr} {block : Fin 12} {age : Nat} {pl : List Part} (hL : Part.Sub [.page .FPW, .page .FLT, .risen, .fields, .records, .retained, .hostOut, .hostHeld, .fwIrq, .msix] pl := by first | assumption | exact Part.Sub.via (by assumption) (by decide +kernel)) : ChangesOut pl s (execAgeingRead f block age s) := by
  unfold execAgeingRead
  have hk : Changes pl s s := Changes.refl pl s
  repeat' (first
    | with_reducible exact hL
    | with_reducible exact Part.Sub.via hL (by decide)
    | with_reducible apply ChangesOut.next
    | ((try lift_lets); intro (x : State); refine Changes.via (l := pl) (s := s) (x := x) ?_ (fun hx => ?_); rotate_left; clear_value x; rotate_left; unfold x)
    | ((try lift_lets); intro x; clear_value x)
    | with_reducible assumption
    | with_reducible apply State.retireBound_changes
    | with_reducible apply State.select_changes
    | with_reducible apply State.setF_changes
    | exact hL _ (Part.mem_elem (by rfl))
    | (refine hL _ (Part.mem_elem ?_); (repeat' split) <;> rfl)
    | split
    | (dsimp only))

theorem State.saveTile_changes {pl : List Part} {a : TileAddr} (hk : Changes pl s0 s) (hL : Part.Sub [.page .FEN, .tiles] pl := by first | assumption | exact Part.Sub.via (by assumption) (by decide +kernel)) : Changes pl s0 (State.saveTile s a) := by
  unfold State.saveTile
  repeat' (first
    | with_reducible exact hL
    | with_reducible exact Part.Sub.via hL (by decide)
    | ((try lift_lets); intro (x : State); refine Changes.via (l := pl) (s := s0) (x := x) ?_ (fun hx => ?_); rotate_left; clear_value x; rotate_left; unfold x)
    | ((try lift_lets); intro x; clear_value x)
    | with_reducible assumption
    | with_reducible apply State.countBank_changes
    | with_reducible apply State.setTile_changes
    | with_reducible refine Changes.foldl ?_ (fun u x hu => ?_)
    | split
    | (dsimp only))

theorem State.saveField_changes {pl : List Part} {f : FieldAddr} (hk : Changes pl s0 s) (hL : Part.Sub [.page .FEN, .tiles] pl := by first | assumption | exact Part.Sub.via (by assumption) (by decide +kernel)) : Changes pl s0 (State.saveField s f) := by
  unfold State.saveField
  repeat' (first
    | with_reducible exact hL
    | with_reducible exact Part.Sub.via hL (by decide)
    | ((try lift_lets); intro (x : State); refine Changes.via (l := pl) (s := s0) (x := x) ?_ (fun hx => ?_); rotate_left; clear_value x; rotate_left; unfold x)
    | ((try lift_lets); intro x; clear_value x)
    | with_reducible assumption
    | with_reducible apply State.saveTile_changes
    | with_reducible refine Changes.foldl ?_ (fun u x hu => ?_)
    | split
    | (dsimp only))

theorem State.restoreTile_changes {pl : List Part} {a : TileAddr} {saved : List Nat} (hk : Changes pl s0 s) (hL : Part.Sub [.page .SPD, .page .FEN, .page .FLT, .risen, .tiles, .fields, .recOnce, .records, .causes, .retained, .hostOut, .hostHeld, .fwIrq, .msix] pl := by first | assumption | exact Part.Sub.via (by assumption) (by decide +kernel)) : Changes pl s0 (State.restoreTile s a saved) := by
  unfold State.restoreTile
  repeat' (first
    | with_reducible exact hL
    | with_reducible exact Part.Sub.via hL (by decide)
    | ((try lift_lets); intro (x : State); refine Changes.via (l := pl) (s := s0) (x := x) ?_ (fun hx => ?_); rotate_left; clear_value x; rotate_left; unfold x)
    | ((try lift_lets); intro (x : State × _); refine Changes.via (l := pl) (s := s0) (x := x.1) ?_ (fun hx => ?_); rotate_left; clear_value x; rotate_left; unfold x)
    | ((try lift_lets); intro (x : _ × State); refine Changes.via (l := pl) (s := s0) (x := x.2) ?_ (fun hx => ?_); rotate_left; clear_value x; rotate_left; unfold x)
    | ((try lift_lets); intro x; clear_value x)
    | with_reducible assumption
    | with_reducible apply State.failTile_changes
    | with_reducible refine Changes.of_fst (State.readBytes_changes ?_ ?_) (by assumption)
    | with_reducible apply State.readBytes_changes
    | with_reducible apply State.setTile_changes
    | with_reducible refine Changes.foldl ?_ (fun u x hu => ?_)
    | with_reducible refine Changes.foldl_fst ?_ (fun u x hu => ?_)
    | split
    | (dsimp only))

theorem State.wakeTiles_changes {pl : List Part} {f : FieldAddr} {router : Bool} (hk : Changes pl s0 s) (hL : Part.Sub [.page .SPD, .page .FPW, .page .FEN, .page .FLT, .risen, .tiles, .fields, .recOnce, .records, .causes, .retained, .hostOut, .hostHeld, .fwIrq, .msix] pl := by first | assumption | exact Part.Sub.via (by assumption) (by decide +kernel)) : Changes pl s0 (State.wakeTiles s f router) := by
  unfold State.wakeTiles
  repeat' (first
    | with_reducible exact hL
    | with_reducible exact Part.Sub.via hL (by decide)
    | ((try lift_lets); intro (x : State); refine Changes.via (l := pl) (s := s0) (x := x) ?_ (fun hx => ?_); rotate_left; clear_value x; rotate_left; unfold x)
    | ((try lift_lets); intro x; clear_value x)
    | with_reducible assumption
    | with_reducible apply State.restoreTile_changes
    | with_reducible apply State.select_changes
    | with_reducible apply State.setTile_changes
    | with_reducible apply State.setF_changes
    | with_reducible refine Changes.foldl ?_ (fun u x hu => ?_)
    | exact hL _ (Part.mem_elem (by rfl))
    | (refine hL _ (Part.mem_elem ?_); (repeat' split) <;> rfl)
    | split
    | (dsimp only))

end Sys2Proof.Machine
end

