-- ==== Sys2Proof/Laws/ChangesLayby.lean ====
section
/-!
SUPPORT. What the operations of Machine/Layby can change (Laws/Changes).
-/
namespace Sys2Proof.Machine

set_option linter.all false

variable {s0 s : State}

theorem State.fpwEnd_changes {pl : List Part} {f : FieldAddr} {result : Nat} (hk : Changes pl s0 s) (hL : Part.Sub [.page .FPW, .risen, .hostOut, .hostHeld, .fwIrq, .msix] pl := by first | assumption | exact Part.Sub.via (by assumption) (by decide +kernel)) : Changes pl s0 (State.fpwEnd s f result) := by
  unfold State.fpwEnd
  repeat' (first
    | with_reducible exact hL
    | with_reducible exact Part.Sub.via hL (by decide)
    | ((try lift_lets); intro (x : State); refine Changes.via (l := pl) (s := s0) (x := x) ?_ (fun hx => ?_); rotate_left; clear_value x; rotate_left; unfold x)
    | ((try lift_lets); intro x; clear_value x)
    | with_reducible assumption
    | with_reducible apply State.setIrq_changes
    | with_reducible apply State.setF_changes
    | exact hL _ (Part.mem_elem (by rfl))
    | split
    | (dsimp only))

theorem State.bedField_changes {pl : List Part} {f : FieldAddr} {saves : Bool} (hk : Changes pl s0 s) (hL : Part.Sub [.page .SPD, .page .FEN, .risen, .tiles, .recOnce, .records, .hostOut, .hostHeld, .fwIrq, .msix, .array] pl := by first | assumption | exact Part.Sub.via (by assumption) (by decide +kernel)) : Changes pl s0 (State.bedField s f saves) := by
  unfold State.bedField
  repeat' (first
    | with_reducible exact hL
    | with_reducible exact Part.Sub.via hL (by decide)
    | ((try lift_lets); intro (x : State); refine Changes.via (l := pl) (s := s0) (x := x) ?_ (fun hx => ?_); rotate_left; clear_value x; rotate_left; unfold x)
    | ((try lift_lets); intro x; clear_value x)
    | with_reducible assumption
    | with_reducible apply State.flushAll_changes
    | with_reducible apply State.saveField_changes
    | with_reducible apply State.noReuse_changes
    | with_reducible refine Changes.foldl ?_ (fun u x hu => ?_)
    | split
    | (dsimp only))

theorem State.fpwStart_changes {pl : List Part} {f : FieldAddr} {op : Nat} (hk : Changes pl s0 s) (hL : Part.Sub [.page .SPD, .page .FPW, .page .FEN, .risen, .tiles, .recOnce, .records, .hostOut, .hostHeld, .fwIrq, .msix, .array] pl := by first | assumption | exact Part.Sub.via (by assumption) (by decide +kernel)) : Changes pl s0 (State.fpwStart s f op) := by
  unfold State.fpwStart
  repeat' (first
    | with_reducible exact hL
    | with_reducible exact Part.Sub.via hL (by decide)
    | ((try lift_lets); intro (x : State); refine Changes.via (l := pl) (s := s0) (x := x) ?_ (fun hx => ?_); rotate_left; clear_value x; rotate_left; unfold x)
    | ((try lift_lets); intro x; clear_value x)
    | with_reducible assumption
    | with_reducible apply State.startWake_changes
    | with_reducible apply State.setF_changes
    | with_reducible apply State.bedField_changes
    | with_reducible apply State.fpwEnd_changes
    | exact hL _ (Part.mem_elem (by rfl))
    | (refine hL _ (Part.mem_elem ?_); (repeat' split) <;> rfl)
    | split
    | (dsimp only))

theorem State.fpwWrite_changes {pl : List Part} {f : FieldAddr} {fw : Bool} {value : W64} (hk : Changes pl s0 s) (hL : Part.Sub [.page .DIR, .page .SPD, .page .FPW, .page .FEN, .risen, .tiles, .recOnce, .records, .hostOut, .hostHeld, .fwIrq, .msix, .array] pl := by first | assumption | exact Part.Sub.via (by assumption) (by decide +kernel)) : Changes pl s0 (State.fpwWrite s f fw value) := by
  unfold State.fpwWrite
  repeat' (first
    | with_reducible exact hL
    | with_reducible exact Part.Sub.via hL (by decide)
    | ((try lift_lets); intro (x : State); refine Changes.via (l := pl) (s := s0) (x := x) ?_ (fun hx => ?_); rotate_left; clear_value x; rotate_left; unfold x)
    | ((try lift_lets); intro x; clear_value x)
    | with_reducible assumption
    | with_reducible refine State.regWrite_changes ?_ ?_ (fun u hu => ?_) ?_
    | with_reducible apply State.fpwStart_changes
    | exact hL _ (Part.mem_elem (by rfl))
    | (refine hL _ (Part.mem_elem ?_); (repeat' split) <;> rfl)
    | split
    | (dsimp only))

theorem execLayby_changes {f : FieldAddr} {fw : Bool} {value : W64} {pl : List Part} (hL : Part.Sub [.page .DIR, .page .SPD, .page .FPW, .page .FEN, .risen, .tiles, .recOnce, .records, .hostOut, .hostHeld, .fwIrq, .msix, .array] pl := by first | assumption | exact Part.Sub.via (by assumption) (by decide +kernel)) : ChangesOut pl s (execLayby f fw value s) := by
  unfold execLayby
  have hk : Changes pl s s := Changes.refl pl s
  repeat' (first
    | with_reducible exact hL
    | with_reducible exact Part.Sub.via hL (by decide)
    | with_reducible apply ChangesOut.next
    | ((try lift_lets); intro (x : State); refine Changes.via (l := pl) (s := s) (x := x) ?_ (fun hx => ?_); rotate_left; clear_value x; rotate_left; unfold x)
    | ((try lift_lets); intro x; clear_value x)
    | with_reducible assumption
    | with_reducible apply State.fpwWrite_changes
    | split
    | (dsimp only))

theorem execWake_changes {f : FieldAddr} {fw : Bool} {value : W64} {pl : List Part} (hL : Part.Sub [.page .DIR, .page .SPD, .page .FPW, .page .FEN, .risen, .tiles, .recOnce, .records, .hostOut, .hostHeld, .fwIrq, .msix, .array] pl := by first | assumption | exact Part.Sub.via (by assumption) (by decide +kernel)) : ChangesOut pl s (execWake f fw value s) := by
  unfold execWake
  have hk : Changes pl s s := Changes.refl pl s
  repeat' (first
    | with_reducible exact hL
    | with_reducible exact Part.Sub.via hL (by decide)
    | with_reducible apply ChangesOut.next
    | ((try lift_lets); intro (x : State); refine Changes.via (l := pl) (s := s) (x := x) ?_ (fun hx => ?_); rotate_left; clear_value x; rotate_left; unfold x)
    | ((try lift_lets); intro x; clear_value x)
    | with_reducible assumption
    | with_reducible apply State.fpwWrite_changes
    | split
    | (dsimp only))

theorem execPark_changes {f : FieldAddr} {fw : Bool} {value : W64} {pl : List Part} (hL : Part.Sub [.page .DIR, .page .SPD, .page .FPW, .page .FEN, .risen, .tiles, .recOnce, .records, .hostOut, .hostHeld, .fwIrq, .msix, .array] pl := by first | assumption | exact Part.Sub.via (by assumption) (by decide +kernel)) : ChangesOut pl s (execPark f fw value s) := by
  unfold execPark
  have hk : Changes pl s s := Changes.refl pl s
  repeat' (first
    | with_reducible exact hL
    | with_reducible exact Part.Sub.via hL (by decide)
    | with_reducible apply ChangesOut.next
    | ((try lift_lets); intro (x : State); refine Changes.via (l := pl) (s := s) (x := x) ?_ (fun hx => ?_); rotate_left; clear_value x; rotate_left; unfold x)
    | ((try lift_lets); intro x; clear_value x)
    | with_reducible assumption
    | with_reducible apply State.fpwWrite_changes
    | split
    | (dsimp only))

theorem execParkRetain_changes {f : FieldAddr} {fw : Bool} {value : W64} {pl : List Part} (hL : Part.Sub [.page .DIR, .page .SPD, .page .FPW, .page .FEN, .risen, .tiles, .recOnce, .records, .hostOut, .hostHeld, .fwIrq, .msix, .array] pl := by first | assumption | exact Part.Sub.via (by assumption) (by decide +kernel)) : ChangesOut pl s (execParkRetain f fw value s) := by
  unfold execParkRetain
  have hk : Changes pl s s := Changes.refl pl s
  repeat' (first
    | with_reducible exact hL
    | with_reducible exact Part.Sub.via hL (by decide)
    | with_reducible apply ChangesOut.next
    | ((try lift_lets); intro (x : State); refine Changes.via (l := pl) (s := s) (x := x) ?_ (fun hx => ?_); rotate_left; clear_value x; rotate_left; unfold x)
    | ((try lift_lets); intro x; clear_value x)
    | with_reducible assumption
    | with_reducible apply State.fpwWrite_changes
    | split
    | (dsimp only))

theorem execUnpark_changes {f : FieldAddr} {fw : Bool} {value : W64} {pl : List Part} (hL : Part.Sub [.page .DIR, .page .SPD, .page .FPW, .page .FEN, .risen, .tiles, .recOnce, .records, .hostOut, .hostHeld, .fwIrq, .msix, .array] pl := by first | assumption | exact Part.Sub.via (by assumption) (by decide +kernel)) : ChangesOut pl s (execUnpark f fw value s) := by
  unfold execUnpark
  have hk : Changes pl s s := Changes.refl pl s
  repeat' (first
    | with_reducible exact hL
    | with_reducible exact Part.Sub.via hL (by decide)
    | with_reducible apply ChangesOut.next
    | ((try lift_lets); intro (x : State); refine Changes.via (l := pl) (s := s) (x := x) ?_ (fun hx => ?_); rotate_left; clear_value x; rotate_left; unfold x)
    | ((try lift_lets); intro x; clear_value x)
    | with_reducible assumption
    | with_reducible apply State.fpwWrite_changes
    | split
    | (dsimp only))

theorem State.islandsIdle_changes {pl : List Part} {f : FieldAddr} (hk : Changes pl s0 s) (hL : Part.Sub [.page .FPW] pl := by first | assumption | exact Part.Sub.via (by assumption) (by decide +kernel)) : Changes pl s0 (State.islandsIdle s f) := by
  unfold State.islandsIdle
  repeat' (first
    | with_reducible exact hL
    | with_reducible exact Part.Sub.via hL (by decide)
    | ((try lift_lets); intro (x : State); refine Changes.via (l := pl) (s := s0) (x := x) ?_ (fun hx => ?_); rotate_left; clear_value x; rotate_left; unfold x)
    | ((try lift_lets); intro x; clear_value x)
    | with_reducible assumption
    | with_reducible apply State.setF_changes
    | with_reducible refine Changes.foldl ?_ (fun u x hu => ?_)
    | exact hL _ (Part.mem_elem (by rfl))
    | split
    | (dsimp only))

theorem execLaybyDone_changes {f : FieldAddr} {pl : List Part} (hL : Part.Sub [.page .FPW, .risen, .tiles, .hostOut, .hostHeld, .fwIrq, .msix] pl := by first | assumption | exact Part.Sub.via (by assumption) (by decide +kernel)) : ChangesOut pl s (execLaybyDone f s) := by
  unfold execLaybyDone
  have hk : Changes pl s s := Changes.refl pl s
  repeat' (first
    | with_reducible exact hL
    | with_reducible exact Part.Sub.via hL (by decide)
    | with_reducible apply ChangesOut.next
    | ((try lift_lets); intro (x : State); refine Changes.via (l := pl) (s := s) (x := x) ?_ (fun hx => ?_); rotate_left; clear_value x; rotate_left; unfold x)
    | ((try lift_lets); intro x; clear_value x)
    | with_reducible assumption
    | with_reducible apply State.startWake_changes
    | with_reducible apply State.count_changes
    | with_reducible apply State.setTile_changes
    | with_reducible apply State.setF_changes
    | with_reducible apply State.islandsIdle_changes
    | with_reducible apply State.fpwEnd_changes
    | with_reducible refine Changes.foldl ?_ (fun u x hu => ?_)
    | exact hL _ (Part.mem_elem (by rfl))
    | (refine hL _ (Part.mem_elem ?_); (repeat' split) <;> rfl)
    | split
    | (dsimp only))

theorem execParkDone_changes {f : FieldAddr} {pl : List Part} (hL : Part.Sub [.page .FPW, .risen, .tiles, .fields, .hostOut, .hostHeld, .fwIrq, .msix] pl := by first | assumption | exact Part.Sub.via (by assumption) (by decide +kernel)) : ChangesOut pl s (execParkDone f s) := by
  unfold execParkDone
  have hk : Changes pl s s := Changes.refl pl s
  repeat' (first
    | with_reducible exact hL
    | with_reducible exact Part.Sub.via hL (by decide)
    | with_reducible apply ChangesOut.next
    | ((try lift_lets); intro (x : State); refine Changes.via (l := pl) (s := s) (x := x) ?_ (fun hx => ?_); rotate_left; clear_value x; rotate_left; unfold x)
    | ((try lift_lets); intro x; clear_value x)
    | with_reducible assumption
    | with_reducible apply State.count_changes
    | with_reducible apply State.setField_changes
    | with_reducible apply State.setTile_changes
    | with_reducible apply State.setF_changes
    | with_reducible apply State.islandsIdle_changes
    | with_reducible apply State.fpwEnd_changes
    | with_reducible refine Changes.foldl ?_ (fun u x hu => ?_)
    | exact hL _ (Part.mem_elem (by rfl))
    | (refine hL _ (Part.mem_elem ?_); (repeat' split) <;> rfl)
    | split
    | (dsimp only))

theorem State.readyAgain_changes {pl : List Part}  (hk : Changes pl s0 s) (hL : Part.Sub [.page .SYS, .risen, .hostOut, .hostHeld, .fwIrq, .msix] pl := by first | assumption | exact Part.Sub.via (by assumption) (by decide +kernel)) : Changes pl s0 (State.readyAgain s) := by
  unfold State.readyAgain
  repeat' (first
    | with_reducible exact hL
    | with_reducible exact Part.Sub.via hL (by decide)
    | ((try lift_lets); intro (x : State); refine Changes.via (l := pl) (s := s0) (x := x) ?_ (fun hx => ?_); rotate_left; clear_value x; rotate_left; unfold x)
    | ((try lift_lets); intro x; clear_value x)
    | with_reducible assumption
    | with_reducible apply State.setIrq_changes
    | with_reducible apply State.setF_changes
    | exact hL _ (Part.mem_elem (by rfl))
    | (refine hL _ (Part.mem_elem ?_); (repeat' split) <;> rfl)
    | split
    | (dsimp only))

theorem State.awake_changes {pl : List Part} {f : FieldAddr} {router : Bool} (hk : Changes pl s0 s) (hL : Part.Sub [.page .SPD, .page .FPW, .page .FEN, .page .FLT, .page .SYS, .risen, .tiles, .fields, .recOnce, .records, .causes, .retained, .hostOut, .hostHeld, .fwIrq, .msix] pl := by first | assumption | exact Part.Sub.via (by assumption) (by decide +kernel)) : Changes pl s0 (State.awake s f router) := by
  unfold State.awake
  repeat' (first
    | with_reducible exact hL
    | with_reducible exact Part.Sub.via hL (by decide)
    | ((try lift_lets); intro (x : State); refine Changes.via (l := pl) (s := s0) (x := x) ?_ (fun hx => ?_); rotate_left; clear_value x; rotate_left; unfold x)
    | ((try lift_lets); intro x; clear_value x)
    | with_reducible assumption
    | with_reducible apply State.wakeTiles_changes
    | with_reducible apply State.setField_changes
    | with_reducible apply State.readyAgain_changes
    | with_reducible apply State.fpwEnd_changes
    | split
    | (dsimp only))

theorem execWakeDone_changes {f : FieldAddr} {pl : List Part} (hL : Part.Sub [.page .SPD, .page .FPW, .page .FEN, .page .FLT, .page .SYS, .risen, .tiles, .fields, .recOnce, .records, .causes, .retained, .hostOut, .hostHeld, .fwIrq, .msix] pl := by first | assumption | exact Part.Sub.via (by assumption) (by decide +kernel)) : ChangesOut pl s (execWakeDone f s) := by
  unfold execWakeDone
  have hk : Changes pl s s := Changes.refl pl s
  repeat' (first
    | with_reducible exact hL
    | with_reducible exact Part.Sub.via hL (by decide)
    | with_reducible apply ChangesOut.next
    | ((try lift_lets); intro (x : State); refine Changes.via (l := pl) (s := s) (x := x) ?_ (fun hx => ?_); rotate_left; clear_value x; rotate_left; unfold x)
    | ((try lift_lets); intro x; clear_value x)
    | with_reducible assumption
    | with_reducible apply State.awake_changes
    | split
    | (dsimp only))

theorem execUnparkDone_changes {f : FieldAddr} {pl : List Part} (hL : Part.Sub [.page .SPD, .page .FPW, .page .FEN, .page .FLT, .page .SYS, .risen, .tiles, .fields, .recOnce, .records, .causes, .retained, .hostOut, .hostHeld, .fwIrq, .msix] pl := by first | assumption | exact Part.Sub.via (by assumption) (by decide +kernel)) : ChangesOut pl s (execUnparkDone f s) := by
  unfold execUnparkDone
  have hk : Changes pl s s := Changes.refl pl s
  repeat' (first
    | with_reducible exact hL
    | with_reducible exact Part.Sub.via hL (by decide)
    | with_reducible apply ChangesOut.next
    | ((try lift_lets); intro (x : State); refine Changes.via (l := pl) (s := s) (x := x) ?_ (fun hx => ?_); rotate_left; clear_value x; rotate_left; unfold x)
    | ((try lift_lets); intro x; clear_value x)
    | with_reducible assumption
    | with_reducible apply State.awake_changes
    | split
    | (dsimp only))

theorem State.parkHot_changes {pl : List Part} {f : FieldAddr} (hk : Changes pl s0 s) (hL : Part.Sub [.page .MESH, .page .TSQ, .page .SPD, .page .FPW, .page .FEN, .page .FLT, .risen, .tiles, .fields, .recOnce, .records, .hostOut, .hostHeld, .fwIrq, .msix, .edgeHeld, .ctxs, .array] pl := by first | assumption | exact Part.Sub.via (by assumption) (by decide +kernel)) : Changes pl s0 (State.parkHot s f) := by
  unfold State.parkHot
  repeat' (first
    | with_reducible exact hL
    | with_reducible exact Part.Sub.via hL (by decide)
    | ((try lift_lets); intro (x : State); refine Changes.via (l := pl) (s := s0) (x := x) ?_ (fun hx => ?_); rotate_left; clear_value x; rotate_left; unfold x)
    | ((try lift_lets); intro x; clear_value x)
    | with_reducible assumption
    | with_reducible apply State.stopDrain_changes
    | with_reducible apply State.fpwStart_changes
    | with_reducible apply State.markRebind_changes
    | split
    | (dsimp only))

theorem State.parkAfterPass_changes {pl : List Part} {p : Fin 2} (hk : Changes pl s0 s) (hL : Part.Sub [.page .MESH, .page .TSQ, .page .SPD, .page .FPW, .page .FEN, .page .FLT, .risen, .tiles, .fields, .recOnce, .records, .hostOut, .hostHeld, .fwIrq, .msix, .edgeHeld, .ctxs, .array] pl := by first | assumption | exact Part.Sub.via (by assumption) (by decide +kernel)) : Changes pl s0 (State.parkAfterPass s p) := by
  unfold State.parkAfterPass
  repeat' (first
    | with_reducible exact hL
    | with_reducible exact Part.Sub.via hL (by decide)
    | ((try lift_lets); intro (x : State); refine Changes.via (l := pl) (s := s0) (x := x) ?_ (fun hx => ?_); rotate_left; clear_value x; rotate_left; unfold x)
    | ((try lift_lets); intro x; clear_value x)
    | with_reducible assumption
    | with_reducible apply State.parkHot_changes
    | with_reducible refine Changes.foldl ?_ (fun u x hu => ?_)
    | split
    | (dsimp only))

theorem execTemperatureSample_changes {f : FieldAddr} {temps : List Nat} {pl : List Part} (hL : Part.Sub [.page .MESH, .page .TSQ, .page .SPD, .page .PWR, .page .FPW, .page .FEN, .page .FLT, .risen, .tiles, .fields, .recOnce, .records, .causes, .retained, .hostOut, .hostHeld, .fwIrq, .msix, .edgeHeld, .ctxs, .step, .array] pl := by first | assumption | exact Part.Sub.via (by assumption) (by decide +kernel)) : ChangesOut pl s (execTemperatureSample f temps s) := by
  unfold execTemperatureSample
  have hk : Changes pl s s := Changes.refl pl s
  repeat' (first
    | with_reducible exact hL
    | with_reducible exact Part.Sub.via hL (by decide)
    | with_reducible apply ChangesOut.next
    | ((try lift_lets); intro (x : State); refine Changes.via (l := pl) (s := s) (x := x) ?_ (fun hx => ?_); rotate_left; clear_value x; rotate_left; unfold x)
    | ((try lift_lets); intro x; clear_value x)
    | with_reducible assumption
    | with_reducible apply State.loseField_changes
    | with_reducible apply State.select_changes
    | with_reducible apply State.setField_changes
    | with_reducible apply State.setF_changes
    | with_reducible apply State.parkHot_changes
    | with_reducible refine Changes.foldl ?_ (fun u x hu => ?_)
    | exact hL _ (Part.mem_elem (by rfl))
    | (refine hL _ (Part.mem_elem ?_); (repeat' split) <;> rfl)
    | split
    | (dsimp only))

theorem execThermalThrottleStep_changes {f : FieldAddr} {pl : List Part} (hL : Part.Sub [.page .FPW, .risen, .hostOut, .hostHeld, .fwIrq, .msix] pl := by first | assumption | exact Part.Sub.via (by assumption) (by decide +kernel)) : ChangesOut pl s (execThermalThrottleStep f s) := by
  unfold execThermalThrottleStep
  have hk : Changes pl s s := Changes.refl pl s
  repeat' (first
    | with_reducible exact hL
    | with_reducible exact Part.Sub.via hL (by decide)
    | with_reducible apply ChangesOut.next
    | ((try lift_lets); intro (x : State); refine Changes.via (l := pl) (s := s) (x := x) ?_ (fun hx => ?_); rotate_left; clear_value x; rotate_left; unfold x)
    | ((try lift_lets); intro x; clear_value x)
    | with_reducible assumption
    | with_reducible apply State.select_changes
    | with_reducible apply State.count_changes
    | with_reducible apply State.setIrq_changes
    | with_reducible apply State.setF_changes
    | exact hL _ (Part.mem_elem (by rfl))
    | (refine hL _ (Part.mem_elem ?_); (repeat' split) <;> rfl)
    | split
    | (dsimp only))

theorem execThermalReleaseStep_changes {f : FieldAddr} {pl : List Part} (hL : Part.Sub [.page .FPW] pl := by first | assumption | exact Part.Sub.via (by assumption) (by decide +kernel)) : ChangesOut pl s (execThermalReleaseStep f s) := by
  unfold execThermalReleaseStep
  have hk : Changes pl s s := Changes.refl pl s
  repeat' (first
    | with_reducible exact hL
    | with_reducible exact Part.Sub.via hL (by decide)
    | with_reducible apply ChangesOut.next
    | ((try lift_lets); intro (x : State); refine Changes.via (l := pl) (s := s) (x := x) ?_ (fun hx => ?_); rotate_left; clear_value x; rotate_left; unfold x)
    | ((try lift_lets); intro x; clear_value x)
    | with_reducible assumption
    | with_reducible apply State.select_changes
    | with_reducible apply State.setF_changes
    | exact hL _ (Part.mem_elem (by rfl))
    | (refine hL _ (Part.mem_elem ?_); (repeat' split) <;> rfl)
    | split
    | (dsimp only))

theorem execThermalUnpark_changes {f : FieldAddr} {pl : List Part} (hL : Part.Sub [.page .SPD, .page .FPW, .page .FEN, .risen, .tiles, .recOnce, .records, .hostOut, .hostHeld, .fwIrq, .msix, .array] pl := by first | assumption | exact Part.Sub.via (by assumption) (by decide +kernel)) : ChangesOut pl s (execThermalUnpark f s) := by
  unfold execThermalUnpark
  have hk : Changes pl s s := Changes.refl pl s
  repeat' (first
    | with_reducible exact hL
    | with_reducible exact Part.Sub.via hL (by decide)
    | with_reducible apply ChangesOut.next
    | ((try lift_lets); intro (x : State); refine Changes.via (l := pl) (s := s) (x := x) ?_ (fun hx => ?_); rotate_left; clear_value x; rotate_left; unfold x)
    | ((try lift_lets); intro x; clear_value x)
    | with_reducible assumption
    | with_reducible apply State.fpwStart_changes
    | split
    | (dsimp only))

theorem State.laybyEnd_changes {pl : List Part} {result : Nat} (hk : Changes pl s0 s) (hL : Part.Sub [.page .PWR, .risen, .hostOut, .hostHeld, .fwIrq, .msix] pl := by first | assumption | exact Part.Sub.via (by assumption) (by decide +kernel)) : Changes pl s0 (State.laybyEnd s result) := by
  unfold State.laybyEnd
  repeat' (first
    | with_reducible exact hL
    | with_reducible exact Part.Sub.via hL (by decide)
    | ((try lift_lets); intro (x : State); refine Changes.via (l := pl) (s := s0) (x := x) ?_ (fun hx => ?_); rotate_left; clear_value x; rotate_left; unfold x)
    | ((try lift_lets); intro x; clear_value x)
    | with_reducible assumption
    | with_reducible apply State.setIrq_changes
    | with_reducible apply State.setF_changes
    | exact hL _ (Part.mem_elem (by rfl))
    | split
    | (dsimp only))

theorem State.setPortLayby_changes {pl : List Part} {l : Nat} {v : Bool} (hk : Changes pl s0 s) (hL : Part.Sub [.page .PWR] pl := by first | assumption | exact Part.Sub.via (by assumption) (by decide +kernel)) : Changes pl s0 (State.setPortLayby s l v) := by
  unfold State.setPortLayby
  repeat' (first
    | with_reducible exact hL
    | with_reducible exact Part.Sub.via hL (by decide)
    | ((try lift_lets); intro (x : State); refine Changes.via (l := pl) (s := s0) (x := x) ?_ (fun hx => ?_); rotate_left; clear_value x; rotate_left; unfold x)
    | ((try lift_lets); intro x; clear_value x)
    | with_reducible assumption
    | with_reducible apply State.setReg_changes
    | exact hL _ (Part.mem_elem (by rfl))
    | split
    | (dsimp only))

theorem State.portSleep_changes {pl : List Part} {l : Nat} (hk : Changes pl s0 s) (hL : Part.Sub [.page .VPT, .page .PWR, .links] pl := by first | assumption | exact Part.Sub.via (by assumption) (by decide +kernel)) : Changes pl s0 (State.portSleep s l) := by
  unfold State.portSleep
  repeat' (first
    | with_reducible exact hL
    | with_reducible exact Part.Sub.via hL (by decide)
    | ((try lift_lets); intro (x : State); refine Changes.via (l := pl) (s := s0) (x := x) ?_ (fun hx => ?_); rotate_left; clear_value x; rotate_left; unfold x)
    | ((try lift_lets); intro x; clear_value x)
    | with_reducible assumption
    | with_reducible apply State.setF_changes
    | with_reducible apply State.setVlink_changes
    | with_reducible apply State.setPortLayby_changes
    | exact hL _ (Part.mem_elem (by rfl))
    | split
    | (dsimp only))

theorem State.bridgeSleep_changes {pl : List Part}  (hk : Changes pl s0 s) (hL : Part.Sub [.page .BRG, .page .PWR, .bridgeTrain] pl := by first | assumption | exact Part.Sub.via (by assumption) (by decide +kernel)) : Changes pl s0 (State.bridgeSleep s) := by
  unfold State.bridgeSleep
  repeat' (first
    | with_reducible exact hL
    | with_reducible exact Part.Sub.via hL (by decide)
    | ((try lift_lets); intro (x : State); refine Changes.via (l := pl) (s := s0) (x := x) ?_ (fun hx => ?_); rotate_left; clear_value x; rotate_left; unfold x)
    | ((try lift_lets); intro x; clear_value x)
    | with_reducible assumption
    | with_reducible apply State.setF_changes
    | (with_reducible apply Changes.upd_bridgeTrain; first | with_reducible assumption | with_reducible apply State.setF_changes | split)
    | exact hL _ (Part.mem_elem (by rfl))
    | split
    | (dsimp only))

theorem State.laybyStart_changes {pl : List Part} {wake bridge : Bool} {port : Nat} (hk : Changes pl s0 s) (hL : Part.Sub [.page .BRG, .page .VPT, .page .PWR, .risen, .hostOut, .hostHeld, .fwIrq, .msix, .links, .bridgeTrain] pl := by first | assumption | exact Part.Sub.via (by assumption) (by decide +kernel)) : Changes pl s0 (State.laybyStart s wake bridge port) := by
  unfold State.laybyStart
  repeat' (first
    | with_reducible exact hL
    | with_reducible exact Part.Sub.via hL (by decide)
    | ((try lift_lets); intro (x : State); refine Changes.via (l := pl) (s := s0) (x := x) ?_ (fun hx => ?_); rotate_left; clear_value x; rotate_left; unfold x)
    | ((try lift_lets); intro x; clear_value x)
    | with_reducible assumption
    | with_reducible apply State.setF_changes
    | with_reducible apply State.bridgeSleep_changes
    | with_reducible apply State.portSleep_changes
    | with_reducible apply State.laybyEnd_changes
    | exact hL _ (Part.mem_elem (by rfl))
    | (refine hL _ (Part.mem_elem ?_); (repeat' split) <;> rfl)
    | split
    | (dsimp only))

theorem State.laybyWrite_changes {pl : List Part} {fw : Bool} {value : W64} (hk : Changes pl s0 s) (hL : Part.Sub [.page .DIR, .page .BRG, .page .VPT, .page .PWR, .risen, .hostOut, .hostHeld, .fwIrq, .msix, .links, .bridgeTrain] pl := by first | assumption | exact Part.Sub.via (by assumption) (by decide +kernel)) : Changes pl s0 (State.laybyWrite s fw value) := by
  unfold State.laybyWrite
  repeat' (first
    | with_reducible exact hL
    | with_reducible exact Part.Sub.via hL (by decide)
    | ((try lift_lets); intro (x : State); refine Changes.via (l := pl) (s := s0) (x := x) ?_ (fun hx => ?_); rotate_left; clear_value x; rotate_left; unfold x)
    | ((try lift_lets); intro x; clear_value x)
    | with_reducible assumption
    | with_reducible refine State.regWrite_changes ?_ ?_ (fun u hu => ?_) ?_
    | with_reducible apply State.laybyStart_changes
    | exact hL _ (Part.mem_elem (by rfl))
    | (refine hL _ (Part.mem_elem ?_); (repeat' split) <;> rfl)
    | split
    | (dsimp only))

theorem execPortLayby_changes {fw : Bool} {value : W64} {pl : List Part} (hL : Part.Sub [.page .DIR, .page .BRG, .page .VPT, .page .PWR, .risen, .hostOut, .hostHeld, .fwIrq, .msix, .links, .bridgeTrain] pl := by first | assumption | exact Part.Sub.via (by assumption) (by decide +kernel)) : ChangesOut pl s (execPortLayby fw value s) := by
  unfold execPortLayby
  have hk : Changes pl s s := Changes.refl pl s
  repeat' (first
    | with_reducible exact hL
    | with_reducible exact Part.Sub.via hL (by decide)
    | with_reducible apply ChangesOut.next
    | ((try lift_lets); intro (x : State); refine Changes.via (l := pl) (s := s) (x := x) ?_ (fun hx => ?_); rotate_left; clear_value x; rotate_left; unfold x)
    | ((try lift_lets); intro x; clear_value x)
    | with_reducible assumption
    | with_reducible apply State.laybyWrite_changes
    | split
    | (dsimp only))

theorem execPortWake_changes {fw : Bool} {value : W64} {pl : List Part} (hL : Part.Sub [.page .DIR, .page .BRG, .page .VPT, .page .PWR, .risen, .hostOut, .hostHeld, .fwIrq, .msix, .links, .bridgeTrain] pl := by first | assumption | exact Part.Sub.via (by assumption) (by decide +kernel)) : ChangesOut pl s (execPortWake fw value s) := by
  unfold execPortWake
  have hk : Changes pl s s := Changes.refl pl s
  repeat' (first
    | with_reducible exact hL
    | with_reducible exact Part.Sub.via hL (by decide)
    | with_reducible apply ChangesOut.next
    | ((try lift_lets); intro (x : State); refine Changes.via (l := pl) (s := s) (x := x) ?_ (fun hx => ?_); rotate_left; clear_value x; rotate_left; unfold x)
    | ((try lift_lets); intro x; clear_value x)
    | with_reducible assumption
    | with_reducible apply State.laybyWrite_changes
    | split
    | (dsimp only))

theorem execBridgeLayby_changes {fw : Bool} {value : W64} {pl : List Part} (hL : Part.Sub [.page .DIR, .page .BRG, .page .VPT, .page .PWR, .risen, .hostOut, .hostHeld, .fwIrq, .msix, .links, .bridgeTrain] pl := by first | assumption | exact Part.Sub.via (by assumption) (by decide +kernel)) : ChangesOut pl s (execBridgeLayby fw value s) := by
  unfold execBridgeLayby
  have hk : Changes pl s s := Changes.refl pl s
  repeat' (first
    | with_reducible exact hL
    | with_reducible exact Part.Sub.via hL (by decide)
    | with_reducible apply ChangesOut.next
    | ((try lift_lets); intro (x : State); refine Changes.via (l := pl) (s := s) (x := x) ?_ (fun hx => ?_); rotate_left; clear_value x; rotate_left; unfold x)
    | ((try lift_lets); intro x; clear_value x)
    | with_reducible assumption
    | with_reducible apply State.laybyWrite_changes
    | split
    | (dsimp only))

theorem execBridgeWake_changes {fw : Bool} {value : W64} {pl : List Part} (hL : Part.Sub [.page .DIR, .page .BRG, .page .VPT, .page .PWR, .risen, .hostOut, .hostHeld, .fwIrq, .msix, .links, .bridgeTrain] pl := by first | assumption | exact Part.Sub.via (by assumption) (by decide +kernel)) : ChangesOut pl s (execBridgeWake fw value s) := by
  unfold execBridgeWake
  have hk : Changes pl s s := Changes.refl pl s
  repeat' (first
    | with_reducible exact hL
    | with_reducible exact Part.Sub.via hL (by decide)
    | with_reducible apply ChangesOut.next
    | ((try lift_lets); intro (x : State); refine Changes.via (l := pl) (s := s) (x := x) ?_ (fun hx => ?_); rotate_left; clear_value x; rotate_left; unfold x)
    | ((try lift_lets); intro x; clear_value x)
    | with_reducible assumption
    | with_reducible apply State.laybyWrite_changes
    | split
    | (dsimp only))

theorem State.laybyWoken_changes {pl : List Part} {bridge : Bool} {port : Nat} (hk : Changes pl s0 s) (hL : Part.Sub [.page .PWR, .risen, .hostOut, .hostHeld, .fwIrq, .msix] pl := by first | assumption | exact Part.Sub.via (by assumption) (by decide +kernel)) : Changes pl s0 (State.laybyWoken s bridge port) := by
  unfold State.laybyWoken
  repeat' (first
    | with_reducible exact hL
    | with_reducible exact Part.Sub.via hL (by decide)
    | ((try lift_lets); intro (x : State); refine Changes.via (l := pl) (s := s0) (x := x) ?_ (fun hx => ?_); rotate_left; clear_value x; rotate_left; unfold x)
    | ((try lift_lets); intro x; clear_value x)
    | with_reducible assumption
    | with_reducible apply State.laybyEnd_changes
    | split
    | (dsimp only))

theorem execPortWakeDone_changes {l : Fin 64} {pl : List Part} (hL : Part.Sub [.page .VPT, .page .PWR, .page .SYS, .risen, .hostOut, .hostHeld, .fwIrq, .msix, .sleptPorts] pl := by first | assumption | exact Part.Sub.via (by assumption) (by decide +kernel)) : ChangesOut pl s (execPortWakeDone l s) := by
  unfold execPortWakeDone
  have hk : Changes pl s s := Changes.refl pl s
  repeat' (first
    | with_reducible exact hL
    | with_reducible exact Part.Sub.via hL (by decide)
    | with_reducible apply ChangesOut.next
    | ((try lift_lets); intro (x : State); refine Changes.via (l := pl) (s := s) (x := x) ?_ (fun hx => ?_); rotate_left; clear_value x; rotate_left; unfold x)
    | ((try lift_lets); intro x; clear_value x)
    | with_reducible assumption
    | with_reducible apply State.setF_changes
    | with_reducible apply State.laybyWoken_changes
    | with_reducible apply State.setPortLayby_changes
    | with_reducible apply State.readyAgain_changes
    | (with_reducible apply Changes.upd_sleptPorts; first | with_reducible assumption | with_reducible apply State.setF_changes | with_reducible apply State.laybyWoken_changes | with_reducible apply State.setPortLayby_changes | with_reducible apply State.readyAgain_changes | split)
    | exact hL _ (Part.mem_elem (by rfl))
    | (refine hL _ (Part.mem_elem ?_); (repeat' split) <;> rfl)
    | split
    | (dsimp only))

theorem execBridgeWakeDone_changes  {pl : List Part} (hL : Part.Sub [.page .PWR, .page .SYS, .risen, .hostOut, .hostHeld, .fwIrq, .msix, .bridgeTrain, .sleptBridge] pl := by first | assumption | exact Part.Sub.via (by assumption) (by decide +kernel)) : ChangesOut pl s (execBridgeWakeDone s) := by
  unfold execBridgeWakeDone
  have hk : Changes pl s s := Changes.refl pl s
  repeat' (first
    | with_reducible exact hL
    | with_reducible exact Part.Sub.via hL (by decide)
    | with_reducible apply ChangesOut.next
    | ((try lift_lets); intro (x : State); refine Changes.via (l := pl) (s := s) (x := x) ?_ (fun hx => ?_); rotate_left; clear_value x; rotate_left; unfold x)
    | ((try lift_lets); intro x; clear_value x)
    | with_reducible assumption
    | with_reducible apply State.setF_changes
    | with_reducible apply State.laybyWoken_changes
    | with_reducible apply State.readyAgain_changes
    | (with_reducible apply Changes.upd_bridgeTrain_sleptBridge; first | with_reducible assumption | with_reducible apply State.setF_changes | with_reducible apply State.laybyWoken_changes | with_reducible apply State.readyAgain_changes | split)
    | exact hL _ (Part.mem_elem (by rfl))
    | (refine hL _ (Part.mem_elem ?_); (repeat' split) <;> rfl)
    | split
    | (dsimp only))

theorem State.sleepMoves_changes {pl : List Part}  (hk : Changes pl s0 s) (hL : Part.Sub [.page .BRG, .page .VPT, .page .MESH, .page .TSQ, .page .SPD, .page .PWR, .page .FPW, .page .FEN, .page .FLT, .page .SYS, .risen, .tiles, .fields, .recOnce, .records, .causes, .hostOut, .hostHeld, .fwIrq, .msix, .edgeHeld, .ctxs, .array, .links, .bridgeTrain, .sleeping, .sleptPorts, .sleptBridge] pl := by first | assumption | exact Part.Sub.via (by assumption) (by decide +kernel)) : Changes pl s0 (State.sleepMoves s) := by
  unfold State.sleepMoves
  repeat' (first
    | with_reducible exact hL
    | with_reducible exact Part.Sub.via hL (by decide)
    | ((try lift_lets); intro (x : State); refine Changes.via (l := pl) (s := s0) (x := x) ?_ (fun hx => ?_); rotate_left; clear_value x; rotate_left; unfold x)
    | ((try lift_lets); intro x; clear_value x)
    | with_reducible assumption
    | with_reducible apply State.planeCause_changes
    | with_reducible apply State.setField_changes
    | with_reducible apply State.setF_changes
    | with_reducible apply State.bridgeSleep_changes
    | with_reducible apply State.portSleep_changes
    | with_reducible apply State.readyAgain_changes
    | with_reducible apply State.fpwStart_changes
    | with_reducible apply State.drainStart_changes
    | with_reducible refine Changes.foldl ?_ (fun u x hu => ?_)
    | (with_reducible apply Changes.upd_sleeping; first | with_reducible assumption | with_reducible apply State.planeCause_changes | with_reducible apply State.setField_changes | with_reducible apply State.setF_changes | with_reducible apply State.bridgeSleep_changes | with_reducible apply State.portSleep_changes | with_reducible apply State.readyAgain_changes | with_reducible apply State.fpwStart_changes | with_reducible apply State.drainStart_changes | split)
    | (with_reducible apply Changes.upd_sleptBridge; first | with_reducible assumption | with_reducible apply State.planeCause_changes | with_reducible apply State.setField_changes | with_reducible apply State.setF_changes | with_reducible apply State.bridgeSleep_changes | with_reducible apply State.portSleep_changes | with_reducible apply State.readyAgain_changes | with_reducible apply State.fpwStart_changes | with_reducible apply State.drainStart_changes | split)
    | (with_reducible apply Changes.upd_sleptPorts; first | with_reducible assumption | with_reducible apply State.planeCause_changes | with_reducible apply State.setField_changes | with_reducible apply State.setF_changes | with_reducible apply State.bridgeSleep_changes | with_reducible apply State.portSleep_changes | with_reducible apply State.readyAgain_changes | with_reducible apply State.fpwStart_changes | with_reducible apply State.drainStart_changes | split)
    | exact hL _ (Part.mem_elem (by rfl))
    | (refine hL _ (Part.mem_elem ?_); (repeat' split) <;> rfl)
    | split
    | (dsimp only))

end Sys2Proof.Machine
end

