-- ==== Sys2Proof/Laws/ChangesSupply.lean ====
section
/-!
SUPPORT. What the operations of Machine/Supply can change (Laws/Changes).
-/
namespace Sys2Proof.Machine

set_option linter.all false

variable {s0 s : State}

theorem State.setBank_changes {pl : List Part} {bank : Fin 2} {v : Nat} (hk : Changes pl s0 s) (hL : Part.Sub [.page .PWR] pl := by first | assumption | exact Part.Sub.via (by assumption) (by decide +kernel)) : Changes pl s0 (State.setBank s bank v) := by
  unfold State.setBank
  repeat' (first
    | with_reducible exact hL
    | with_reducible exact Part.Sub.via hL (by decide)
    | ((try lift_lets); intro (x : State); refine Changes.via (l := pl) (s := s0) (x := x) ?_ (fun hx => ?_); rotate_left; clear_value x; rotate_left; unfold x)
    | ((try lift_lets); intro x; clear_value x)
    | with_reducible assumption
    | with_reducible apply State.setF_changes
    | exact hL _ (Part.mem_elem (by rfl))
    | (refine hL _ (Part.mem_elem ?_); (repeat' split) <;> rfl)
    | split
    | (dsimp only))

theorem State.bankChange_changes {pl : List Part} {bank : Fin 2} {up : Bool} (hk : Changes pl s0 s) (hL : Part.Sub [.page .PWR, .risen, .records, .hostOut, .hostHeld, .fwIrq, .msix, .bankOn] pl := by first | assumption | exact Part.Sub.via (by assumption) (by decide +kernel)) : Changes pl s0 (State.bankChange s bank up) := by
  unfold State.bankChange
  repeat' (first
    | with_reducible exact hL
    | with_reducible exact Part.Sub.via hL (by decide)
    | ((try lift_lets); intro (x : State); refine Changes.via (l := pl) (s := s0) (x := x) ?_ (fun hx => ?_); rotate_left; clear_value x; rotate_left; unfold x)
    | ((try lift_lets); intro x; clear_value x)
    | with_reducible assumption
    | with_reducible apply State.setBank_changes
    | with_reducible apply State.raise_changes
    | with_reducible apply State.count_changes
    | with_reducible apply State.setIrq_changes
    | (with_reducible apply Changes.upd_bankOn; first | with_reducible assumption | with_reducible apply State.setBank_changes | with_reducible apply State.raise_changes | with_reducible apply State.count_changes | with_reducible apply State.setIrq_changes | split)
    | exact hL _ (Part.mem_elem (by rfl))
    | (refine hL _ (Part.mem_elem ?_); (repeat' split) <;> rfl)
    | split
    | (dsimp only))

theorem State.bankFlip_changes {pl : List Part} {bank : Fin 2} (hk : Changes pl s0 s) (hL : Part.Sub [.bankOn] pl := by first | assumption | exact Part.Sub.via (by assumption) (by decide +kernel)) : Changes pl s0 (State.bankFlip s bank) := by
  unfold State.bankFlip
  repeat' (first
    | with_reducible exact hL
    | with_reducible exact Part.Sub.via hL (by decide)
    | ((try lift_lets); intro (x : State); refine Changes.via (l := pl) (s := s0) (x := x) ?_ (fun hx => ?_); rotate_left; clear_value x; rotate_left; unfold x)
    | ((try lift_lets); intro x; clear_value x)
    | with_reducible assumption
    | (with_reducible apply Changes.upd_bankOn; first | with_reducible assumption | split)
    | split
    | (dsimp only))

theorem execBankOffline_changes {bank : Fin 2} {pl : List Part} (hL : Part.Sub [.page .PWR, .risen, .records, .hostOut, .hostHeld, .fwIrq, .msix, .bankOn] pl := by first | assumption | exact Part.Sub.via (by assumption) (by decide +kernel)) : ChangesOut pl s (execBankOffline bank s) := by
  unfold execBankOffline
  have hk : Changes pl s s := Changes.refl pl s
  repeat' (first
    | with_reducible exact hL
    | with_reducible exact Part.Sub.via hL (by decide)
    | with_reducible apply ChangesOut.next
    | ((try lift_lets); intro (x : State); refine Changes.via (l := pl) (s := s) (x := x) ?_ (fun hx => ?_); rotate_left; clear_value x; rotate_left; unfold x)
    | ((try lift_lets); intro x; clear_value x)
    | with_reducible assumption
    | with_reducible apply State.bankFlip_changes
    | with_reducible apply State.bankChange_changes
    | split
    | (dsimp only))

theorem execBankReturn_changes {bank : Fin 2} {pl : List Part} (hL : Part.Sub [.page .PWR, .risen, .records, .hostOut, .hostHeld, .fwIrq, .msix, .bankOn] pl := by first | assumption | exact Part.Sub.via (by assumption) (by decide +kernel)) : ChangesOut pl s (execBankReturn bank s) := by
  unfold execBankReturn
  have hk : Changes pl s s := Changes.refl pl s
  repeat' (first
    | with_reducible exact hL
    | with_reducible exact Part.Sub.via hL (by decide)
    | with_reducible apply ChangesOut.next
    | ((try lift_lets); intro (x : State); refine Changes.via (l := pl) (s := s) (x := x) ?_ (fun hx => ?_); rotate_left; clear_value x; rotate_left; unfold x)
    | ((try lift_lets); intro x; clear_value x)
    | with_reducible assumption
    | with_reducible apply State.bankFlip_changes
    | with_reducible apply State.bankChange_changes
    | split
    | (dsimp only))

theorem State.recap_changes {pl : List Part}  (hk : Changes pl s0 s) (hL : Part.Sub [.page .PWR] pl := by first | assumption | exact Part.Sub.via (by assumption) (by decide +kernel)) : Changes pl s0 (State.recap s) := by
  unfold State.recap
  repeat' (first
    | with_reducible exact hL
    | with_reducible exact Part.Sub.via hL (by decide)
    | ((try lift_lets); intro (x : State); refine Changes.via (l := pl) (s := s0) (x := x) ?_ (fun hx => ?_); rotate_left; clear_value x; rotate_left; unfold x)
    | ((try lift_lets); intro x; clear_value x)
    | with_reducible assumption
    | with_reducible apply State.setF_changes
    | exact hL _ (Part.mem_elem (by rfl))
    | split
    | (dsimp only))

theorem execPwrCapWrite_changes {fw : Bool} {value : W64} {pl : List Part} (hL : Part.Sub [.page .DIR, .page .PWR, .risen, .hostOut, .hostHeld, .fwIrq, .msix] pl := by first | assumption | exact Part.Sub.via (by assumption) (by decide +kernel)) : ChangesOut pl s (execPwrCapWrite fw value s) := by
  unfold execPwrCapWrite
  have hk : Changes pl s s := Changes.refl pl s
  repeat' (first
    | with_reducible exact hL
    | with_reducible exact Part.Sub.via hL (by decide)
    | with_reducible apply ChangesOut.next
    | ((try lift_lets); intro (x : State); refine Changes.via (l := pl) (s := s) (x := x) ?_ (fun hx => ?_); rotate_left; clear_value x; rotate_left; unfold x)
    | ((try lift_lets); intro x; clear_value x)
    | with_reducible assumption
    | with_reducible apply State.recap_changes
    | with_reducible apply State.writeResult_changes
    | with_reducible apply State.setF_changes
    | exact hL _ (Part.mem_elem (by rfl))
    | (refine hL _ (Part.mem_elem ?_); (repeat' split) <;> rfl)
    | split
    | (dsimp only))

theorem State.coolFault_changes {pl : List Part}  (hk : Changes pl s0 s) (hL : Part.Sub [.page .PWR, .risen, .step, .coolWait, .sleeping] pl := by first | assumption | exact Part.Sub.via (by assumption) (by decide +kernel)) : Changes pl s0 (State.coolFault s) := by
  unfold State.coolFault
  repeat' (first
    | with_reducible exact hL
    | with_reducible exact Part.Sub.via hL (by decide)
    | ((try lift_lets); intro (x : State); refine Changes.via (l := pl) (s := s0) (x := x) ?_ (fun hx => ?_); rotate_left; clear_value x; rotate_left; unfold x)
    | ((try lift_lets); intro x; clear_value x)
    | with_reducible assumption
    | with_reducible apply State.setErr_changes
    | with_reducible apply State.failStep_changes
    | (with_reducible apply Changes.upd_sleeping_coolWait; first | with_reducible assumption | with_reducible apply State.setErr_changes | with_reducible apply State.failStep_changes | split)
    | exact hL _ (Part.mem_elem (by rfl))
    | split
    | (dsimp only))

theorem execCoolantSample_changes {inlet outlet flow : Nat} {leak : Bool} {pl : List Part} (hL : Part.Sub [.page .PWR, .risen, .records, .hostOut, .hostHeld, .fwIrq, .msix, .step, .coolCap, .coolLow, .coolWait, .sleeping] pl := by first | assumption | exact Part.Sub.via (by assumption) (by decide +kernel)) : ChangesOut pl s (execCoolantSample inlet outlet flow leak s) := by
  unfold execCoolantSample
  have hk : Changes pl s s := Changes.refl pl s
  repeat' (first
    | with_reducible exact hL
    | with_reducible exact Part.Sub.via hL (by decide)
    | with_reducible apply ChangesOut.next
    | ((try lift_lets); intro (x : State); refine Changes.via (l := pl) (s := s) (x := x) ?_ (fun hx => ?_); rotate_left; clear_value x; rotate_left; unfold x)
    | ((try lift_lets); intro x; clear_value x)
    | with_reducible assumption
    | with_reducible apply State.coolFault_changes
    | with_reducible apply State.recap_changes
    | with_reducible apply State.raise_changes
    | with_reducible apply State.count_changes
    | with_reducible apply State.setIrq_changes
    | with_reducible apply State.setReg_changes
    | (with_reducible apply Changes.upd_coolLow_coolCap_coolWait; first | with_reducible assumption | with_reducible apply State.coolFault_changes | with_reducible apply State.recap_changes | with_reducible apply State.raise_changes | with_reducible apply State.count_changes | with_reducible apply State.setIrq_changes | with_reducible apply State.setReg_changes | split)
    | exact hL _ (Part.mem_elem (by rfl))
    | (refine hL _ (Part.mem_elem ?_); (repeat' split) <;> rfl)
    | split
    | (dsimp only))

theorem State.setCeil_changes {pl : List Part} {c : Nat × Nat} (hk : Changes pl s0 s) (hL : Part.Sub [.page .PWR] pl := by first | assumption | exact Part.Sub.via (by assumption) (by decide +kernel)) : Changes pl s0 (State.setCeil s c) := by
  unfold State.setCeil
  repeat' (first
    | with_reducible exact hL
    | with_reducible exact Part.Sub.via hL (by decide)
    | ((try lift_lets); intro (x : State); refine Changes.via (l := pl) (s := s0) (x := x) ?_ (fun hx => ?_); rotate_left; clear_value x; rotate_left; unfold x)
    | ((try lift_lets); intro x; clear_value x)
    | with_reducible assumption
    | with_reducible apply State.setF_changes
    | exact hL _ (Part.mem_elem (by rfl))
    | split
    | (dsimp only))

theorem State.capSample_changes {pl : List Part} {p : Nat} (hk : Changes pl s0 s) (hL : Part.Sub [.page .PWR, .capBelow] pl := by first | assumption | exact Part.Sub.via (by assumption) (by decide +kernel)) : Changes pl s0 (State.capSample s p) := by
  unfold State.capSample
  repeat' (first
    | with_reducible exact hL
    | with_reducible exact Part.Sub.via hL (by decide)
    | ((try lift_lets); intro (x : State); refine Changes.via (l := pl) (s := s0) (x := x) ?_ (fun hx => ?_); rotate_left; clear_value x; rotate_left; unfold x)
    | ((try lift_lets); intro x; clear_value x)
    | with_reducible assumption
    | with_reducible apply State.setCeil_changes
    | with_reducible apply State.count_changes
    | (with_reducible apply Changes.upd_capBelow; first | with_reducible assumption | with_reducible apply State.setCeil_changes | with_reducible apply State.count_changes | split)
    | exact hL _ (Part.mem_elem (by rfl))
    | (refine hL _ (Part.mem_elem ?_); (repeat' split) <;> rfl)
    | split
    | (dsimp only))

theorem State.limiterSample_changes {pl : List Part} {p : Nat} (hk : Changes pl s0 s) (hL : Part.Sub [.page .PWR, .limQuiet] pl := by first | assumption | exact Part.Sub.via (by assumption) (by decide +kernel)) : Changes pl s0 (State.limiterSample s p) := by
  unfold State.limiterSample
  repeat' (first
    | with_reducible exact hL
    | with_reducible exact Part.Sub.via hL (by decide)
    | ((try lift_lets); intro (x : State); refine Changes.via (l := pl) (s := s0) (x := x) ?_ (fun hx => ?_); rotate_left; clear_value x; rotate_left; unfold x)
    | ((try lift_lets); intro x; clear_value x)
    | with_reducible assumption
    | with_reducible apply State.setF_changes
    | (with_reducible apply Changes.upd_limQuiet; first | with_reducible assumption | with_reducible apply State.setF_changes | split)
    | exact hL _ (Part.mem_elem (by rfl))
    | (refine hL _ (Part.mem_elem ?_); (repeat' split) <;> rfl)
    | split
    | (dsimp only))

theorem State.railSample_changes {pl : List Part} {f : FieldAddr} {w : Nat} (hk : Changes pl s0 s) (hL : Part.Sub [.page .FEN] pl := by first | assumption | exact Part.Sub.via (by assumption) (by decide +kernel)) : Changes pl s0 (State.railSample s f w) := by
  unfold State.railSample
  repeat' (first
    | with_reducible exact hL
    | with_reducible exact Part.Sub.via hL (by decide)
    | ((try lift_lets); intro (x : State); refine Changes.via (l := pl) (s := s0) (x := x) ?_ (fun hx => ?_); rotate_left; clear_value x; rotate_left; unfold x)
    | ((try lift_lets); intro x; clear_value x)
    | with_reducible assumption
    | with_reducible apply State.count_changes
    | exact hL _ (Part.mem_elem (by rfl))
    | (refine hL _ (Part.mem_elem ?_); (repeat' split) <;> rfl)
    | split
    | (dsimp only))

theorem execPowerSample_changes {watts va ia vb ib : Nat} {rails : List Nat} {unlimited : Nat} {pl : List Part} (hL : Part.Sub [.page .PWR, .page .FPW, .page .FEN, .capBelow, .limQuiet] pl := by first | assumption | exact Part.Sub.via (by assumption) (by decide +kernel)) : ChangesOut pl s (execPowerSample watts va ia vb ib rails unlimited s) := by
  unfold execPowerSample
  have hk : Changes pl s s := Changes.refl pl s
  repeat' (first
    | with_reducible exact hL
    | with_reducible exact Part.Sub.via hL (by decide)
    | with_reducible apply ChangesOut.next
    | ((try lift_lets); intro (x : State); refine Changes.via (l := pl) (s := s) (x := x) ?_ (fun hx => ?_); rotate_left; clear_value x; rotate_left; unfold x)
    | ((try lift_lets); intro x; clear_value x)
    | with_reducible assumption
    | with_reducible apply State.railSample_changes
    | with_reducible apply State.limiterSample_changes
    | with_reducible apply State.capSample_changes
    | with_reducible apply State.setBank_changes
    | with_reducible apply State.selectAll_changes
    | with_reducible apply State.setF_changes
    | with_reducible refine Changes.foldl ?_ (fun u x hu => ?_)
    | exact hL _ (Part.mem_elem (by rfl))
    | (refine hL _ (Part.mem_elem ?_); (repeat' split) <;> rfl)
    | split
    | (dsimp only))

theorem execLimiterEngage_changes  {pl : List Part} (hL : Part.Sub [.page .PWR, .page .FPW, .risen, .hostOut, .hostHeld, .fwIrq, .msix, .limQuiet] pl := by first | assumption | exact Part.Sub.via (by assumption) (by decide +kernel)) : ChangesOut pl s (execLimiterEngage s) := by
  unfold execLimiterEngage
  have hk : Changes pl s s := Changes.refl pl s
  repeat' (first
    | with_reducible exact hL
    | with_reducible exact Part.Sub.via hL (by decide)
    | with_reducible apply ChangesOut.next
    | ((try lift_lets); intro (x : State); refine Changes.via (l := pl) (s := s) (x := x) ?_ (fun hx => ?_); rotate_left; clear_value x; rotate_left; unfold x)
    | ((try lift_lets); intro x; clear_value x)
    | with_reducible assumption
    | with_reducible apply State.selectAll_changes
    | with_reducible apply State.count_changes
    | with_reducible apply State.setIrq_changes
    | with_reducible apply State.setF_changes
    | (with_reducible apply Changes.upd_limQuiet; first | with_reducible assumption | with_reducible apply State.selectAll_changes | with_reducible apply State.count_changes | with_reducible apply State.setIrq_changes | with_reducible apply State.setF_changes | split)
    | exact hL _ (Part.mem_elem (by rfl))
    | (refine hL _ (Part.mem_elem ?_); (repeat' split) <;> rfl)
    | split
    | (dsimp only))

end Sys2Proof.Machine
end

