-- ==== Sys2Proof/Laws/ChangesErrLog.lean ====
section
/-!
SUPPORT. What the operations of Machine/ErrLog can change (Laws/Changes).
-/
namespace Sys2Proof.Machine

set_option linter.all false

variable {s0 s : State}

theorem State.pushEvent_changes {pl : List Part} {b : List Byte} (hk : Changes pl s0 s) (hL : Part.Sub [.mgmtOut] pl := by first | assumption | exact Part.Sub.via (by assumption) (by decide +kernel)) : Changes pl s0 (State.pushEvent s b) := by
  unfold State.pushEvent
  repeat' (first
    | with_reducible exact hL
    | with_reducible exact Part.Sub.via hL (by decide)
    | ((try lift_lets); intro (x : State); refine Changes.via (l := pl) (s := s0) (x := x) ?_ (fun hx => ?_); rotate_left; clear_value x; rotate_left; unfold x)
    | ((try lift_lets); intro x; clear_value x)
    | with_reducible assumption
    | (with_reducible apply Changes.upd_mgmtOut; first | with_reducible assumption | split)
    | split
    | (dsimp only))

theorem State.mgmtKeep_changes {pl : List Part} {b : List Byte} (hk : Changes pl s0 s) (hL : Part.Sub [.mlog, .mgmtOut] pl := by first | assumption | exact Part.Sub.via (by assumption) (by decide +kernel)) : Changes pl s0 (State.mgmtKeep s b) := by
  unfold State.mgmtKeep
  repeat' (first
    | with_reducible exact hL
    | with_reducible exact Part.Sub.via hL (by decide)
    | ((try lift_lets); intro (x : State); refine Changes.via (l := pl) (s := s0) (x := x) ?_ (fun hx => ?_); rotate_left; clear_value x; rotate_left; unfold x)
    | ((try lift_lets); intro x; clear_value x)
    | with_reducible assumption
    | with_reducible apply State.pushEvent_changes
    | (with_reducible apply Changes.upd_mlog; first | with_reducible assumption | with_reducible apply State.pushEvent_changes | split)
    | split
    | (dsimp only))

theorem State.logPut_changes {pl : List Part} {b : List Byte} (hk : Changes pl s0 s) (hL : Part.Sub [.page .EMP, .page .HBM, .page .FLT, .risen, .recOnce, .records, .hostOut, .hostHeld, .fwIrq, .msix, .edge, .edgeMark, .edgeWb, .selfRefresh] pl := by first | assumption | exact Part.Sub.via (by assumption) (by decide +kernel)) : Changes pl s0 (State.logPut s b) := by
  unfold State.logPut
  repeat' (first
    | with_reducible exact hL
    | with_reducible exact Part.Sub.via hL (by decide)
    | ((try lift_lets); intro (x : State); refine Changes.via (l := pl) (s := s0) (x := x) ?_ (fun hx => ?_); rotate_left; clear_value x; rotate_left; unfold x)
    | ((try lift_lets); intro x; clear_value x)
    | with_reducible assumption
    | with_reducible apply State.msixSend_changes
    | with_reducible apply State.setF_changes
    | with_reducible apply State.writeLoc_changes
    | exact hL _ (Part.mem_elem (by rfl))
    | (refine hL _ (Part.mem_elem ?_); (repeat' split) <;> rfl)
    | split
    | (dsimp only))

theorem State.logDrain_changes {pl : List Part} {n : Nat} : ∀ {s : State}, Changes pl s0 s → ∀ (hL : Part.Sub [.page .EMP, .page .HBM, .page .FLT, .risen, .recOnce, .records, .hostOut, .hostHeld, .fwIrq, .msix, .edge, .edgeMark, .edgeWb, .selfRefresh, .logHeld] pl := by first | assumption | exact Part.Sub.via (by assumption) (by decide +kernel)), Changes pl s0 (State.logDrain n s) := by
  induction n with
  | zero => exact fun h _ => h
  | succ n ih =>
    intro s h hL
    unfold State.logDrain
    split
    · split
      · exact ih (State.logPut_changes (Changes.upd_logHeld h)) hL
      · exact h
    · exact h

theorem State.drainLog_changes {pl : List Part}  (hk : Changes pl s0 s) (hL : Part.Sub [.page .EMP, .page .HBM, .page .FLT, .risen, .recOnce, .records, .hostOut, .hostHeld, .fwIrq, .msix, .edge, .edgeMark, .edgeWb, .selfRefresh, .logHeld] pl := by first | assumption | exact Part.Sub.via (by assumption) (by decide +kernel)) : Changes pl s0 (State.drainLog s) := by
  unfold State.drainLog
  repeat' (first
    | with_reducible exact hL
    | with_reducible exact Part.Sub.via hL (by decide)
    | ((try lift_lets); intro (x : State); refine Changes.via (l := pl) (s := s0) (x := x) ?_ (fun hx => ?_); rotate_left; clear_value x; rotate_left; unfold x)
    | ((try lift_lets); intro x; clear_value x)
    | with_reducible assumption
    | with_reducible apply State.logDrain_changes
    | split
    | (dsimp only))

theorem State.logLose_changes {pl : List Part} {r : ErrRec} (hk : Changes pl s0 s) (hL : Part.Sub [.page .FLT, .risen, .ahead, .hostOut, .hostHeld, .fwIrq, .msix, .logOver] pl := by first | assumption | exact Part.Sub.via (by assumption) (by decide +kernel)) : Changes pl s0 (State.logLose s r) := by
  unfold State.logLose
  repeat' (first
    | with_reducible exact hL
    | with_reducible exact Part.Sub.via hL (by decide)
    | ((try lift_lets); intro (x : State); refine Changes.via (l := pl) (s := s0) (x := x) ?_ (fun hx => ?_); rotate_left; clear_value x; rotate_left; unfold x)
    | ((try lift_lets); intro x; clear_value x)
    | with_reducible assumption
    | with_reducible apply State.countWm_changes
    | with_reducible apply State.setIrq_changes
    | (with_reducible apply Changes.upd_logOver; first | with_reducible assumption | with_reducible apply State.countWm_changes | with_reducible apply State.setIrq_changes | split)
    | exact hL _ (Part.mem_elem (by rfl))
    | (refine hL _ (Part.mem_elem ?_); (repeat' split) <;> rfl)
    | split
    | (dsimp only))

theorem State.logHold_changes {pl : List Part} {r : ErrRec} {b : List Byte} (hk : Changes pl s0 s) (hL : Part.Sub [.page .EMP, .page .HBM, .page .FLT, .risen, .ahead, .recOnce, .records, .hostOut, .hostHeld, .fwIrq, .msix, .edge, .edgeMark, .edgeWb, .selfRefresh, .logHeld, .logOver] pl := by first | assumption | exact Part.Sub.via (by assumption) (by decide +kernel)) : Changes pl s0 (State.logHold s r b) := by
  unfold State.logHold
  repeat' (first
    | with_reducible exact hL
    | with_reducible exact Part.Sub.via hL (by decide)
    | ((try lift_lets); intro (x : State); refine Changes.via (l := pl) (s := s0) (x := x) ?_ (fun hx => ?_); rotate_left; clear_value x; rotate_left; unfold x)
    | ((try lift_lets); intro x; clear_value x)
    | with_reducible assumption
    | with_reducible apply State.logLose_changes
    | with_reducible apply State.logPut_changes
    | (with_reducible apply Changes.upd_logHeld_logOver; first | with_reducible assumption | with_reducible apply State.logLose_changes | with_reducible apply State.logPut_changes | split)
    | (with_reducible apply Changes.upd_logOver; first | with_reducible assumption | with_reducible apply State.logLose_changes | with_reducible apply State.logPut_changes | split)
    | split
    | (dsimp only))

theorem State.logAdvance_changes {pl : List Part}  (hk : Changes pl s0 s) (hL : Part.Sub [.logNext] pl := by first | assumption | exact Part.Sub.via (by assumption) (by decide +kernel)) : Changes pl s0 (State.logAdvance s) := by
  unfold State.logAdvance
  repeat' (first
    | with_reducible exact hL
    | with_reducible exact Part.Sub.via hL (by decide)
    | ((try lift_lets); intro (x : State); refine Changes.via (l := pl) (s := s0) (x := x) ?_ (fun hx => ?_); rotate_left; clear_value x; rotate_left; unfold x)
    | ((try lift_lets); intro x; clear_value x)
    | with_reducible assumption
    | (with_reducible apply Changes.upd_logNext; first | with_reducible assumption | split)
    | split
    | (dsimp only))

theorem State.logRecord_changes {pl : List Part} {r : ErrRec} (hk : Changes pl s0 s) (hL : Part.Sub [.page .EMP, .page .HBM, .page .FLT, .risen, .ahead, .recOnce, .records, .hostOut, .hostHeld, .fwIrq, .msix, .edge, .edgeMark, .edgeWb, .selfRefresh, .logNext, .logHeld, .logOver, .mlog, .mgmtOut] pl := by first | assumption | exact Part.Sub.via (by assumption) (by decide +kernel)) : Changes pl s0 (State.logRecord s r) := by
  unfold State.logRecord
  repeat' (first
    | with_reducible exact hL
    | with_reducible exact Part.Sub.via hL (by decide)
    | ((try lift_lets); intro (x : State); refine Changes.via (l := pl) (s := s0) (x := x) ?_ (fun hx => ?_); rotate_left; clear_value x; rotate_left; unfold x)
    | ((try lift_lets); intro x; clear_value x)
    | with_reducible assumption
    | with_reducible apply State.countWm_changes
    | with_reducible apply State.logAdvance_changes
    | with_reducible apply State.logHold_changes
    | with_reducible apply State.mgmtKeep_changes
    | exact hL _ (Part.mem_elem (by rfl))
    | (refine hL _ (Part.mem_elem ?_); (repeat' split) <;> rfl)
    | split
    | (dsimp only))

theorem State.note_changes {pl : List Part} {r : ErrRec} (hk : Changes pl s0 s) (hL : Part.Sub [.records, .mlog, .mgmtOut] pl := by first | assumption | exact Part.Sub.via (by assumption) (by decide +kernel)) : Changes pl s0 (State.note s r) := by
  unfold State.note
  repeat' (first
    | with_reducible exact hL
    | with_reducible exact Part.Sub.via hL (by decide)
    | ((try lift_lets); intro (x : State); refine Changes.via (l := pl) (s := s0) (x := x) ?_ (fun hx => ?_); rotate_left; clear_value x; rotate_left; unfold x)
    | ((try lift_lets); intro x; clear_value x)
    | with_reducible assumption
    | with_reducible apply State.raise_changes
    | with_reducible apply State.mgmtKeep_changes
    | split
    | (dsimp only))

theorem execErrorRecord_changes  {pl : List Part} (hL : Part.Sub [.page .EMP, .page .HBM, .page .FLT, .risen, .ahead, .recOnce, .records, .hostOut, .hostHeld, .fwIrq, .msix, .edge, .edgeMark, .edgeWb, .selfRefresh, .logNext, .logHeld, .logOver, .mlog, .mgmtOut] pl := by first | assumption | exact Part.Sub.via (by assumption) (by decide +kernel)) : ChangesOut pl s (execErrorRecord s) := by
  unfold execErrorRecord
  have hk : Changes pl s s := Changes.refl pl s
  repeat' (first
    | with_reducible exact hL
    | with_reducible exact Part.Sub.via hL (by decide)
    | with_reducible apply ChangesOut.next
    | ((try lift_lets); intro (x : State); refine Changes.via (l := pl) (s := s) (x := x) ?_ (fun hx => ?_); rotate_left; clear_value x; rotate_left; unfold x)
    | ((try lift_lets); intro x; clear_value x)
    | with_reducible assumption
    | with_reducible apply State.logRecord_changes
    | (with_reducible apply Changes.upd_records; first | with_reducible assumption | with_reducible apply State.logRecord_changes | split)
    | split
    | (dsimp only))

theorem execLogHeadWrite_changes {fw : Bool} {value : W64} {pl : List Part} (hL : Part.Sub [.page .DIR, .page .EMP, .page .HBM, .page .FLT, .risen, .recOnce, .records, .hostOut, .hostHeld, .fwIrq, .msix, .edge, .edgeMark, .edgeWb, .selfRefresh, .logHeld] pl := by first | assumption | exact Part.Sub.via (by assumption) (by decide +kernel)) : ChangesOut pl s (execLogHeadWrite fw value s) := by
  unfold execLogHeadWrite
  have hk : Changes pl s s := Changes.refl pl s
  repeat' (first
    | with_reducible exact hL
    | with_reducible exact Part.Sub.via hL (by decide)
    | with_reducible apply ChangesOut.next
    | ((try lift_lets); intro (x : State); refine Changes.via (l := pl) (s := s) (x := x) ?_ (fun hx => ?_); rotate_left; clear_value x; rotate_left; unfold x)
    | ((try lift_lets); intro x; clear_value x)
    | with_reducible assumption
    | with_reducible refine State.regWrite_changes ?_ ?_ (fun u hu => ?_) ?_
    | with_reducible apply State.drainLog_changes
    | exact hL _ (Part.mem_elem (by rfl))
    | split
    | (dsimp only))

theorem State.dmapWrite_changes {pl : List Part} {fw : Bool} {value : W64} (hk : Changes pl s0 s) (hL : Part.Sub [.page .DIR, .page .EMP, .page .HBM, .page .FLT, .risen, .recOnce, .records, .hostOut, .hostHeld, .fwIrq, .msix, .edge, .edgeMark, .edgeWb, .selfRefresh] pl := by first | assumption | exact Part.Sub.via (by assumption) (by decide +kernel)) : Changes pl s0 (State.dmapWrite s fw value) := by
  unfold State.dmapWrite
  repeat' (first
    | with_reducible exact hL
    | with_reducible exact Part.Sub.via hL (by decide)
    | ((try lift_lets); intro (x : State); refine Changes.via (l := pl) (s := s0) (x := x) ?_ (fun hx => ?_); rotate_left; clear_value x; rotate_left; unfold x)
    | ((try lift_lets); intro x; clear_value x)
    | with_reducible assumption
    | with_reducible refine State.regWrite_changes ?_ ?_ (fun u hu => ?_) ?_
    | with_reducible apply State.edgeWrite_changes
    | exact hL _ (Part.mem_elem (by rfl))
    | (refine hL _ (Part.mem_elem ?_); (repeat' split) <;> rfl)
    | split
    | (dsimp only))

theorem execDmapCopy_changes {fw : Bool} {value : W64} {pl : List Part} (hL : Part.Sub [.page .DIR, .page .EMP, .page .HBM, .page .FLT, .risen, .recOnce, .records, .hostOut, .hostHeld, .fwIrq, .msix, .edge, .edgeMark, .edgeWb, .selfRefresh] pl := by first | assumption | exact Part.Sub.via (by assumption) (by decide +kernel)) : ChangesOut pl s (execDmapCopy fw value s) := by
  unfold execDmapCopy
  have hk : Changes pl s s := Changes.refl pl s
  repeat' (first
    | with_reducible exact hL
    | with_reducible exact Part.Sub.via hL (by decide)
    | with_reducible apply ChangesOut.next
    | ((try lift_lets); intro (x : State); refine Changes.via (l := pl) (s := s) (x := x) ?_ (fun hx => ?_); rotate_left; clear_value x; rotate_left; unfold x)
    | ((try lift_lets); intro x; clear_value x)
    | with_reducible assumption
    | with_reducible apply State.dmapWrite_changes
    | split
    | (dsimp only))

end Sys2Proof.Machine
end

