-- ==== Sys2Proof/Laws/ChangesRebind.lean ====
section
/-!
SUPPORT. What the operations of Machine/Rebind can change (Laws/Changes).
-/
namespace Sys2Proof.Machine

set_option linter.all false

variable {s0 s : State}

theorem State.publishInjection_changes {pl : List Part} {p : Fin 2} (hk : Changes pl s0 s) (hL : Part.Sub [.page .SEN] pl := by first | assumption | exact Part.Sub.via (by assumption) (by decide +kernel)) : Changes pl s0 (State.publishInjection s p) := by
  unfold State.publishInjection
  repeat' (first
    | with_reducible exact hL
    | with_reducible exact Part.Sub.via hL (by decide)
    | ((try lift_lets); intro (x : State); refine Changes.via (l := pl) (s := s0) (x := x) ?_ (fun hx => ?_); rotate_left; clear_value x; rotate_left; unfold x)
    | ((try lift_lets); intro x; clear_value x)
    | with_reducible assumption
    | with_reducible apply State.setF_changes
    | with_reducible refine Changes.foldl ?_ (fun u x hu => ?_)
    | exact hL _ (Part.mem_elem (by rfl))
    | (refine hL _ (Part.mem_elem ?_); (repeat' split) <;> rfl)
    | split
    | (dsimp only))

theorem State.publishDistances_changes {pl : List Part} {f : FieldAddr} (hk : Changes pl s0 s) (hL : Part.Sub [.page .MESH] pl := by first | assumption | exact Part.Sub.via (by assumption) (by decide +kernel)) : Changes pl s0 (State.publishDistances s f) := by
  unfold State.publishDistances
  repeat' (first
    | with_reducible exact hL
    | with_reducible exact Part.Sub.via hL (by decide)
    | ((try lift_lets); intro (x : State); refine Changes.via (l := pl) (s := s0) (x := x) ?_ (fun hx => ?_); rotate_left; clear_value x; rotate_left; unfold x)
    | ((try lift_lets); intro x; clear_value x)
    | with_reducible assumption
    | with_reducible apply State.setReg_changes
    | with_reducible refine Changes.foldl ?_ (fun u x hu => ?_)
    | exact hL _ (Part.mem_elem (by rfl))
    | (refine hL _ (Part.mem_elem ?_); (repeat' split) <;> rfl)
    | split
    | (dsimp only))

theorem State.publishPlane_changes {pl : List Part} {p : Fin 2} (hk : Changes pl s0 s) (hL : Part.Sub [.page .SEN, .page .MESH] pl := by first | assumption | exact Part.Sub.via (by assumption) (by decide +kernel)) : Changes pl s0 (State.publishPlane s p) := by
  unfold State.publishPlane
  repeat' (first
    | with_reducible exact hL
    | with_reducible exact Part.Sub.via hL (by decide)
    | ((try lift_lets); intro (x : State); refine Changes.via (l := pl) (s := s0) (x := x) ?_ (fun hx => ?_); rotate_left; clear_value x; rotate_left; unfold x)
    | ((try lift_lets); intro x; clear_value x)
    | with_reducible assumption
    | with_reducible apply State.publishDistances_changes
    | with_reducible apply State.publishInjection_changes
    | with_reducible refine Changes.foldl ?_ (fun u x hu => ?_)
    | split
    | (dsimp only))

theorem State.rewriteEntry_changes {pl : List Part} {f a b : FieldAddr} {e : EpEntry} (hk : Changes pl s0 s) (hL : Part.Sub [.free] pl := by first | assumption | exact Part.Sub.via (by assumption) (by decide +kernel)) : Changes pl s0 (State.rewriteEntry s f a b e).1 := by
  unfold State.rewriteEntry
  repeat' (first
    | with_reducible exact hL
    | with_reducible exact Part.Sub.via hL (by decide)
    | ((try lift_lets); intro (x : State); refine Changes.via (l := pl) (s := s0) (x := x) ?_ (fun hx => ?_); rotate_left; clear_value x; rotate_left; unfold x)
    | ((try lift_lets); intro (x : State × _); refine Changes.via (l := pl) (s := s0) (x := x.1) ?_ (fun hx => ?_); rotate_left; clear_value x; rotate_left; unfold x)
    | ((try lift_lets); intro (x : _ × State); refine Changes.via (l := pl) (s := s0) (x := x.2) ?_ (fun hx => ?_); rotate_left; clear_value x; rotate_left; unfold x)
    | ((try lift_lets); intro x; clear_value x)
    | with_reducible assumption
    | with_reducible refine Changes.of_snd (State.freeBits_changes ?_ ?_) (by assumption)
    | with_reducible apply State.freeBits_changes
    | split
    | (dsimp only))

theorem State.rewriteFrom_changes {pl : List Part} {f a b : FieldAddr} {l : List (Nat × BitVec 128)} (hL : Part.Sub [.fields, .free] pl := by first | assumption | exact Part.Sub.via (by assumption) (by decide +kernel)) :
    ∀ {s : State}, Changes pl s0 s → Changes pl s0 (State.rewriteFrom f a b l s).1 := by
  induction l with
  | nil => exact fun h => h
  | cons x r ih =>
    intro s h
    unfold State.rewriteFrom
    dsimp only
    split
    · exact ih h
    · split
      · exact ih (State.setField_changes (Changes.of_fst (State.rewriteEntry_changes h) (by assumption)))
      · exact Changes.of_fst (State.rewriteEntry_changes h) (by assumption)

theorem State.rewriteFields_changes {pl : List Part} {a b : FieldAddr} {l : List FieldAddr} (hL : Part.Sub [.fields, .free] pl := by first | assumption | exact Part.Sub.via (by assumption) (by decide +kernel)) :
    ∀ {s : State}, Changes pl s0 s → Changes pl s0 (State.rewriteFields a b l s).1 := by
  induction l with
  | nil => exact fun h => h
  | cons f r ih =>
    intro s h
    have k := State.rewriteFrom_changes (f := f) (a := a) (b := b) (l := (s.fieldSt f).ept) (Part.Sub.via hL (by decide)) h
    unfold State.rewriteFields
    split
    · exact ih (Changes.of_fst k (by assumption))
    · exact k

theorem State.nextRebind_changes {pl : List Part}  (hk : Changes pl s0 s) (hL : Part.Sub [.page .FLT] pl := by first | assumption | exact Part.Sub.via (by assumption) (by decide +kernel)) : Changes pl s0 (State.nextRebind s) := by
  unfold State.nextRebind
  repeat' (first
    | with_reducible exact hL
    | with_reducible exact Part.Sub.via hL (by decide)
    | ((try lift_lets); intro (x : State); refine Changes.via (l := pl) (s := s0) (x := x) ?_ (fun hx => ?_); rotate_left; clear_value x; rotate_left; unfold x)
    | ((try lift_lets); intro x; clear_value x)
    | with_reducible assumption
    | with_reducible apply State.setF_changes
    | with_reducible apply State.setReg_changes
    | exact hL _ (Part.mem_elem (by rfl))
    | (refine hL _ (Part.mem_elem ?_); (repeat' split) <;> rfl)
    | split
    | (dsimp only))

theorem State.rebindEnd_changes {pl : List Part} {p : Fin 2} {slot : Nat} {a : FieldAddr} {b : Option FieldAddr} {result index : Nat} (hk : Changes pl s0 s) (hL : Part.Sub [.page .MESH, .page .TSQ, .page .SPD, .page .FPW, .page .FEN, .page .FLT, .risen, .tiles, .fields, .slotOf, .recOnce, .records, .hostOut, .hostHeld, .fwIrq, .msix, .edgeHeld, .ctxs, .step, .array] pl := by first | assumption | exact Part.Sub.via (by assumption) (by decide +kernel)) : Changes pl s0 (State.rebindEnd s p slot a b result index) := by
  unfold State.rebindEnd
  repeat' (first
    | with_reducible exact hL
    | with_reducible exact Part.Sub.via hL (by decide)
    | ((try lift_lets); intro (x : State); refine Changes.via (l := pl) (s := s0) (x := x) ?_ (fun hx => ?_); rotate_left; clear_value x; rotate_left; unfold x)
    | ((try lift_lets); intro x; clear_value x)
    | with_reducible assumption
    | with_reducible apply State.nextRebind_changes
    | with_reducible apply State.setAe_changes
    | with_reducible apply State.raise_changes
    | with_reducible apply State.count_changes
    | with_reducible apply State.setIrq_changes
    | with_reducible apply State.parkHot_changes
    | with_reducible apply State.drainStart_changes
    | with_reducible refine Changes.foldl ?_ (fun u x hu => ?_)
    | (with_reducible apply Changes.upd_slotOf; first | with_reducible assumption | with_reducible apply State.nextRebind_changes | with_reducible apply State.setAe_changes | with_reducible apply State.raise_changes | with_reducible apply State.count_changes | with_reducible apply State.setIrq_changes | with_reducible apply State.parkHot_changes | with_reducible apply State.drainStart_changes | split)
    | (with_reducible apply Changes.upd_step; first | with_reducible assumption | with_reducible apply State.nextRebind_changes | with_reducible apply State.setAe_changes | with_reducible apply State.raise_changes | with_reducible apply State.count_changes | with_reducible apply State.setIrq_changes | with_reducible apply State.parkHot_changes | with_reducible apply State.drainStart_changes | split)
    | exact hL _ (Part.mem_elem (by rfl))
    | (refine hL _ (Part.mem_elem ?_); (repeat' split) <;> rfl)
    | split
    | (dsimp only))

theorem State.settleSegs_changes {pl : List Part} {f : FieldAddr} (hk : Changes pl s0 s) (hL : Part.Sub [.page .SPD, .page .FEN, .risen, .tiles, .fields, .recOnce, .records, .hostOut, .hostHeld, .fwIrq, .msix] pl := by first | assumption | exact Part.Sub.via (by assumption) (by decide +kernel)) : Changes pl s0 (State.settleSegs s f) := by
  unfold State.settleSegs
  repeat' (first
    | with_reducible exact hL
    | with_reducible exact Part.Sub.via hL (by decide)
    | ((try lift_lets); intro (x : State); refine Changes.via (l := pl) (s := s0) (x := x) ?_ (fun hx => ?_); rotate_left; clear_value x; rotate_left; unfold x)
    | ((try lift_lets); intro x; clear_value x)
    | with_reducible assumption
    | with_reducible apply State.segFinish_changes
    | with_reducible apply State.segReach_changes
    | with_reducible refine Changes.foldl ?_ (fun u x hu => ?_)
    | split
    | (dsimp only))

theorem State.slotNames_changes {pl : List Part} {p : Fin 2} {slot : Nat} {b : FieldAddr} (hk : Changes pl s0 s) (hL : Part.Sub [.slotOf] pl := by first | assumption | exact Part.Sub.via (by assumption) (by decide +kernel)) : Changes pl s0 (State.slotNames s p slot b) := by
  unfold State.slotNames
  repeat' (first
    | with_reducible exact hL
    | with_reducible exact Part.Sub.via hL (by decide)
    | ((try lift_lets); intro (x : State); refine Changes.via (l := pl) (s := s0) (x := x) ?_ (fun hx => ?_); rotate_left; clear_value x; rotate_left; unfold x)
    | ((try lift_lets); intro x; clear_value x)
    | with_reducible assumption
    | (with_reducible apply Changes.upd_slotOf; first | with_reducible assumption | split)
    | split
    | (dsimp only))

theorem State.takeEpoch_changes {pl : List Part} {b : FieldAddr} {e : BitVec 2} (hk : Changes pl s0 s) (hL : Part.Sub [.page .PAS, .tiles, .fields] pl := by first | assumption | exact Part.Sub.via (by assumption) (by decide +kernel)) : Changes pl s0 (State.takeEpoch s b e) := by
  unfold State.takeEpoch
  repeat' (first
    | with_reducible exact hL
    | with_reducible exact Part.Sub.via hL (by decide)
    | ((try lift_lets); intro (x : State); refine Changes.via (l := pl) (s := s0) (x := x) ?_ (fun hx => ?_); rotate_left; clear_value x; rotate_left; unfold x)
    | ((try lift_lets); intro x; clear_value x)
    | with_reducible assumption
    | with_reducible apply State.setField_changes
    | with_reducible apply State.setTile_changes
    | with_reducible apply State.setF_changes
    | with_reducible refine Changes.foldl ?_ (fun u x hu => ?_)
    | exact hL _ (Part.mem_elem (by rfl))
    | (refine hL _ (Part.mem_elem ?_); (repeat' split) <;> rfl)
    | split
    | (dsimp only))

theorem State.stepEpochs_changes {pl : List Part} {a b : FieldAddr} (hk : Changes pl s0 s) (hL : Part.Sub [.step] pl := by first | assumption | exact Part.Sub.via (by assumption) (by decide +kernel)) : Changes pl s0 (State.stepEpochs s a b) := by
  unfold State.stepEpochs
  repeat' (first
    | with_reducible exact hL
    | with_reducible exact Part.Sub.via hL (by decide)
    | ((try lift_lets); intro (x : State); refine Changes.via (l := pl) (s := s0) (x := x) ?_ (fun hx => ?_); rotate_left; clear_value x; rotate_left; unfold x)
    | ((try lift_lets); intro x; clear_value x)
    | with_reducible assumption
    | (with_reducible apply Changes.upd_step; first | with_reducible assumption | split)
    | split
    | (dsimp only))

theorem State.bindSlot_changes {pl : List Part} {p : Fin 2} {slot : Nat} {a b : FieldAddr} (hk : Changes pl s0 s) (hL : Part.Sub [.page .SPD, .page .PAS, .page .FPW, .page .FEN, .page .FLT, .risen, .tiles, .fields, .slotOf, .recOnce, .records, .causes, .retained, .hostOut, .hostHeld, .fwIrq, .msix, .step] pl := by first | assumption | exact Part.Sub.via (by assumption) (by decide +kernel)) : Changes pl s0 (State.bindSlot s p slot a b) := by
  unfold State.bindSlot
  repeat' (first
    | with_reducible exact hL
    | with_reducible exact Part.Sub.via hL (by decide)
    | ((try lift_lets); intro (x : State); refine Changes.via (l := pl) (s := s0) (x := x) ?_ (fun hx => ?_); rotate_left; clear_value x; rotate_left; unfold x)
    | ((try lift_lets); intro x; clear_value x)
    | with_reducible assumption
    | with_reducible apply State.stepEpochs_changes
    | with_reducible apply State.takeEpoch_changes
    | with_reducible apply State.slotNames_changes
    | with_reducible apply State.wakeTiles_changes
    | split
    | (dsimp only))

theorem State.moveState_changes {pl : List Part} {a b : FieldAddr} (hk : Changes pl s0 s) (hL : Part.Sub [.page .CWY, .page .EMP, .page .HBM, .page .SPD, .page .FEN, .risen, .tiles, .recOnce, .records, .hostOut, .hostHeld, .fwIrq, .msix, .edgeWb, .selfRefresh] pl := by first | assumption | exact Part.Sub.via (by assumption) (by decide +kernel)) : Changes pl s0 (State.moveState s a b) := by
  unfold State.moveState
  repeat' (first
    | with_reducible exact hL
    | with_reducible exact Part.Sub.via hL (by decide)
    | ((try lift_lets); intro (x : State); refine Changes.via (l := pl) (s := s0) (x := x) ?_ (fun hx => ?_); rotate_left; clear_value x; rotate_left; unfold x)
    | ((try lift_lets); intro (x : State × _); refine Changes.via (l := pl) (s := s0) (x := x.1) ?_ (fun hx => ?_); rotate_left; clear_value x; rotate_left; unfold x)
    | ((try lift_lets); intro (x : _ × State); refine Changes.via (l := pl) (s := s0) (x := x.2) ?_ (fun hx => ?_); rotate_left; clear_value x; rotate_left; unfold x)
    | ((try lift_lets); intro x; clear_value x)
    | with_reducible assumption
    | with_reducible apply State.saveField_changes
    | with_reducible apply State.mirrorRestore_changes
    | with_reducible apply State.count_changes
    | with_reducible refine Changes.of_fst (migrateTiles_changes ?_ ?_) (by assumption)
    | with_reducible apply migrateTiles_changes
    | exact hL _ (Part.mem_elem (by rfl))
    | (refine hL _ (Part.mem_elem ?_); (repeat' split) <;> rfl)
    | split
    | (dsimp only))

theorem State.rebindTo_changes {pl : List Part} {p : Fin 2} {slot : Nat} {a b : FieldAddr} (hk : Changes pl s0 s) (hL : Part.Sub [.page .CWY, .page .SEN, .page .EMP, .page .HBM, .page .MESH, .page .TSQ, .page .SPD, .page .PAS, .page .FPW, .page .FEN, .page .FLT, .risen, .tiles, .fields, .slotOf, .recOnce, .records, .causes, .retained, .hostOut, .hostHeld, .fwIrq, .msix, .edgeWb, .selfRefresh, .edgeHeld, .ctxs, .step, .array, .free] pl := by first | assumption | exact Part.Sub.via (by assumption) (by decide +kernel)) : Changes pl s0 (State.rebindTo s p slot a b) := by
  unfold State.rebindTo
  repeat' (first
    | with_reducible exact hL
    | with_reducible exact Part.Sub.via hL (by decide)
    | ((try lift_lets); intro (x : State); refine Changes.via (l := pl) (s := s0) (x := x) ?_ (fun hx => ?_); rotate_left; clear_value x; rotate_left; unfold x)
    | ((try lift_lets); intro (x : State × _); refine Changes.via (l := pl) (s := s0) (x := x.1) ?_ (fun hx => ?_); rotate_left; clear_value x; rotate_left; unfold x)
    | ((try lift_lets); intro (x : _ × State); refine Changes.via (l := pl) (s := s0) (x := x.2) ?_ (fun hx => ?_); rotate_left; clear_value x; rotate_left; unfold x)
    | ((try lift_lets); intro x; clear_value x)
    | with_reducible assumption
    | with_reducible apply State.moveState_changes
    | with_reducible apply State.bindSlot_changes
    | with_reducible apply State.settleSegs_changes
    | with_reducible apply State.rebindEnd_changes
    | with_reducible refine Changes.of_fst (State.rewriteFields_changes ?_ ?_) (by assumption)
    | with_reducible apply State.rewriteFields_changes
    | with_reducible apply State.publishPlane_changes
    | with_reducible apply State.placeSegments_changes
    | with_reducible apply State.setAe_changes
    | with_reducible apply State.setField_changes
    | with_reducible apply State.setF_changes
    | exact hL _ (Part.mem_elem (by rfl))
    | (refine hL _ (Part.mem_elem ?_); (repeat' split) <;> rfl)
    | split
    | (dsimp only))

theorem execRebind_changes  {pl : List Part} (hL : Part.Sub [.page .CWY, .page .SEN, .page .EMP, .page .HBM, .page .MESH, .page .TSQ, .page .SPD, .page .PAS, .page .FPW, .page .FEN, .page .FLT, .risen, .ahead, .tiles, .fields, .slotOf, .recOnce, .records, .causes, .retained, .hostOut, .hostHeld, .fwIrq, .msix, .edgeWb, .selfRefresh, .edgeHeld, .ctxs, .step, .array, .free] pl := by first | assumption | exact Part.Sub.via (by assumption) (by decide +kernel)) : ChangesOut pl s (execRebind s) := by
  unfold execRebind
  have hk : Changes pl s s := Changes.refl pl s
  repeat' (first
    | with_reducible exact hL
    | with_reducible exact Part.Sub.via hL (by decide)
    | with_reducible apply ChangesOut.next
    | ((try lift_lets); intro (x : State); refine Changes.via (l := pl) (s := s) (x := x) ?_ (fun hx => ?_); rotate_left; clear_value x; rotate_left; unfold x)
    | ((try lift_lets); intro x; clear_value x)
    | with_reducible assumption
    | with_reducible apply State.cancelStreams_changes
    | with_reducible apply State.rebindTo_changes
    | with_reducible apply State.rebindEnd_changes
    | with_reducible apply State.nextRebind_changes
    | with_reducible apply State.stopDrain_changes
    | with_reducible apply State.setF_changes
    | with_reducible refine Changes.foldl ?_ (fun u x hu => ?_)
    | exact hL _ (Part.mem_elem (by rfl))
    | (refine hL _ (Part.mem_elem ?_); (repeat' split) <;> rfl)
    | split
    | (dsimp only))

theorem State.holdForRecovery_changes {pl : List Part} {fs : List FieldAddr} (hk : Changes pl s0 s) (hL : Part.Sub [.page .MESH, .page .TSQ, .page .SPD, .page .FEN, .page .FLT, .risen, .tiles, .fields, .recOnce, .records, .hostOut, .hostHeld, .fwIrq, .msix, .edgeHeld, .ctxs, .step] pl := by first | assumption | exact Part.Sub.via (by assumption) (by decide +kernel)) : Changes pl s0 (State.holdForRecovery s fs) := by
  unfold State.holdForRecovery
  repeat' (first
    | with_reducible exact hL
    | with_reducible exact Part.Sub.via hL (by decide)
    | ((try lift_lets); intro (x : State); refine Changes.via (l := pl) (s := s0) (x := x) ?_ (fun hx => ?_); rotate_left; clear_value x; rotate_left; unfold x)
    | ((try lift_lets); intro x; clear_value x)
    | with_reducible assumption
    | with_reducible apply State.stopDrain_changes
    | with_reducible refine Changes.foldl ?_ (fun u x hu => ?_)
    | (with_reducible apply Changes.upd_step; first | with_reducible assumption | with_reducible apply State.stopDrain_changes | split)
    | split
    | (dsimp only))

theorem State.rerouteBridge_changes {pl : List Part}  (hk : Changes pl s0 s) (hL : Part.Sub [.fields, .free] pl := by first | assumption | exact Part.Sub.via (by assumption) (by decide +kernel)) : Changes pl s0 (State.rerouteBridge s) := by
  unfold State.rerouteBridge
  repeat' (first
    | with_reducible exact hL
    | with_reducible exact Part.Sub.via hL (by decide)
    | ((try lift_lets); intro (x : State); refine Changes.via (l := pl) (s := s0) (x := x) ?_ (fun hx => ?_); rotate_left; clear_value x; rotate_left; unfold x)
    | ((try lift_lets); intro (x : State × _); refine Changes.via (l := pl) (s := s0) (x := x.1) ?_ (fun hx => ?_); rotate_left; clear_value x; rotate_left; unfold x)
    | ((try lift_lets); intro (x : _ × State); refine Changes.via (l := pl) (s := s0) (x := x.2) ?_ (fun hx => ?_); rotate_left; clear_value x; rotate_left; unfold x)
    | ((try lift_lets); intro x; clear_value x)
    | with_reducible assumption
    | with_reducible refine Changes.of_fst (State.rewriteEntry_changes ?_ ?_) (by assumption)
    | with_reducible apply State.rewriteEntry_changes
    | with_reducible apply State.setField_changes
    | with_reducible refine Changes.foldl ?_ (fun u x hu => ?_)
    | with_reducible refine Changes.foldl_fst ?_ (fun u x hu => ?_)
    | split
    | (dsimp only))

theorem execStepRewind_changes  {pl : List Part} (hL : Part.Sub (allPages ++ [.risen, .ahead, .tiles, .fields, .recOnce, .records, .hostOut, .hostHeld, .fwIrq, .msix, .edgeWb, .selfRefresh, .edgeHeld, .ctxs, .queues, .step, .array, .free]) pl := by first | assumption | exact Part.Sub.via (by assumption) (by decide +kernel)) : ChangesOut pl s (execStepRewind s) := by
  unfold execStepRewind
  have hk : Changes pl s s := Changes.refl pl s
  repeat' (first
    | with_reducible exact hL
    | with_reducible exact Part.Sub.via hL (by decide)
    | with_reducible apply ChangesOut.next
    | ((try lift_lets); intro (x : State); refine Changes.via (l := pl) (s := s) (x := x) ?_ (fun hx => ?_); rotate_left; clear_value x; rotate_left; unfold x)
    | ((try lift_lets); intro x; clear_value x)
    | with_reducible assumption
    | with_reducible apply State.releaseRecovery_changes
    | with_reducible apply State.rewindEpoch_changes
    | with_reducible apply State.dropNotices_changes
    | with_reducible apply State.setCurWm_changes
    | with_reducible apply State.rerouteBridge_changes
    | with_reducible apply State.holdForRecovery_changes
    | with_reducible apply State.restoreWiped_changes
    | with_reducible apply State.setF_changes
    | with_reducible apply State.setQueue_changes
    | with_reducible refine Changes.foldl ?_ (fun u x hu => ?_)
    | (with_reducible apply Changes.upd_step; first | with_reducible assumption | with_reducible apply State.releaseRecovery_changes | with_reducible apply State.rewindEpoch_changes | with_reducible apply State.dropNotices_changes | with_reducible apply State.setCurWm_changes | with_reducible apply State.rerouteBridge_changes | with_reducible apply State.holdForRecovery_changes | with_reducible apply State.restoreWiped_changes | with_reducible apply State.setF_changes | with_reducible apply State.setQueue_changes | split)
    | exact hL _ (Part.mem_elem (by rfl))
    | (refine hL _ (Part.mem_elem ?_); (repeat' split) <;> rfl)
    | split
    | (dsimp only))

end Sys2Proof.Machine
end

