-- ==== Sys2Proof/Laws/ChangesChecks.lean ====
section
/-!
SUPPORT. What the operations of Machine/Checks can change (Laws/Changes).
-/
namespace Sys2Proof.Machine

set_option linter.all false

variable {s0 s : State}

theorem execCheckFeed_changes {n : Nat} {which : Fin 3} {steals : Nat} {wrong : List Nat} {pl : List Part} (hL : Part.Sub [.page .FLT, .risen, .ahead, .checks] pl := by first | assumption | exact Part.Sub.via (by assumption) (by decide +kernel)) : ChangesOut pl s (execCheckFeed n which steals wrong s) := by
  unfold execCheckFeed
  have hk : Changes pl s s := Changes.refl pl s
  repeat' (first
    | with_reducible exact hL
    | with_reducible exact Part.Sub.via hL (by decide)
    | with_reducible apply ChangesOut.next
    | ((try lift_lets); intro (x : State); refine Changes.via (l := pl) (s := s) (x := x) ?_ (fun hx => ?_); rotate_left; clear_value x; rotate_left; unfold x)
    | ((try lift_lets); intro (x : _ → _); dsimp -zeta only [x]; clear x)
    | ((try lift_lets); intro x; clear_value x)
    | with_reducible assumption
    | with_reducible apply State.countWm_changes
    | (with_reducible apply Changes.upd_checks; first | with_reducible assumption | with_reducible apply State.countWm_changes | split)
    | exact hL _ (Part.mem_elem (by rfl))
    | (refine hL _ (Part.mem_elem ?_); (repeat' split) <;> rfl)
    | split
    | (dsimp only))

theorem State.checkDetail_changes {pl : List Part} {u : CheckUnit} {verdict : Nat} (hk : Changes pl s0 s) (hL : Part.Sub [.free] pl := by first | assumption | exact Part.Sub.via (by assumption) (by decide +kernel)) : Changes pl s0 (State.checkDetail s u verdict).2 := by
  unfold State.checkDetail
  repeat' (first
    | with_reducible exact hL
    | with_reducible exact Part.Sub.via hL (by decide)
    | ((try lift_lets); intro (x : State); refine Changes.via (l := pl) (s := s0) (x := x) ?_ (fun hx => ?_); rotate_left; clear_value x; rotate_left; unfold x)
    | ((try lift_lets); intro (x : State × _); refine Changes.via (l := pl) (s := s0) (x := x.1) ?_ (fun hx => ?_); rotate_left; clear_value x; rotate_left; unfold x)
    | ((try lift_lets); intro (x : _ × State); refine Changes.via (l := pl) (s := s0) (x := x.2) ?_ (fun hx => ?_); rotate_left; clear_value x; rotate_left; unfold x)
    | ((try lift_lets); intro x; clear_value x)
    | with_reducible assumption
    | with_reducible refine Changes.of_snd (State.freeBits_changes ?_ ?_) (by assumption)
    | with_reducible apply State.freeBits_changes
    | split
    | (dsimp only))

theorem State.checkAction_changes {pl : List Part} {u : CheckUnit} {verdict : Nat} (hk : Changes pl s0 s) (hL : Part.Sub [.page .FLT, .risen, .records, .hostOut, .hostHeld, .fwIrq, .msix, .step, .exchs, .tainted, .taintSeq] pl := by first | assumption | exact Part.Sub.via (by assumption) (by decide +kernel)) : Changes pl s0 (State.checkAction s u verdict) := by
  unfold State.checkAction
  repeat' (first
    | with_reducible exact hL
    | with_reducible exact Part.Sub.via hL (by decide)
    | ((try lift_lets); intro (x : State); refine Changes.via (l := pl) (s := s0) (x := x) ?_ (fun hx => ?_); rotate_left; clear_value x; rotate_left; unfold x)
    | ((try lift_lets); intro (x : _ → _); dsimp -zeta only [x]; clear x)
    | ((try lift_lets); intro x; clear_value x)
    | with_reducible assumption
    | with_reducible apply State.taint_changes
    | with_reducible apply State.failStep_changes
    | split
    | (dsimp only))

theorem State.suspectVerdict_changes {pl : List Part} {a : TileAddr} {wm : Waymark} {recent : Bool} (hk : Changes pl s0 s) (hL : Part.Sub [.page .FLT, .risen, .fields, .records, .retained, .suspects, .hostOut, .hostHeld, .fwIrq, .msix] pl := by first | assumption | exact Part.Sub.via (by assumption) (by decide +kernel)) : Changes pl s0 (State.suspectVerdict s a wm recent) := by
  unfold State.suspectVerdict
  repeat' (first
    | with_reducible exact hL
    | with_reducible exact Part.Sub.via hL (by decide)
    | ((try lift_lets); intro (x : State); refine Changes.via (l := pl) (s := s0) (x := x) ?_ (fun hx => ?_); rotate_left; clear_value x; rotate_left; unfold x)
    | ((try lift_lets); intro x; clear_value x)
    | with_reducible assumption
    | with_reducible apply State.condemn_changes
    | (with_reducible apply Changes.upd_suspects; first | with_reducible assumption | with_reducible apply State.condemn_changes | split)
    | split
    | (dsimp only))

theorem State.giveVerdict_changes {pl : List Part} {n : Nat} {u : CheckUnit} {verdict : Nat} {recent : Bool} (hk : Changes pl s0 s) (hL : Part.Sub [.page .FLT, .risen, .ahead, .fields, .records, .checks, .retained, .suspects, .hostOut, .hostHeld, .fwIrq, .msix, .step, .exchs, .tainted, .taintSeq, .free] pl := by first | assumption | exact Part.Sub.via (by assumption) (by decide +kernel)) : Changes pl s0 (State.giveVerdict s n u verdict recent) := by
  unfold State.giveVerdict
  repeat' (first
    | with_reducible exact hL
    | with_reducible exact Part.Sub.via hL (by decide)
    | ((try lift_lets); intro (x : State); refine Changes.via (l := pl) (s := s0) (x := x) ?_ (fun hx => ?_); rotate_left; clear_value x; rotate_left; unfold x)
    | ((try lift_lets); intro (x : State × _); refine Changes.via (l := pl) (s := s0) (x := x.1) ?_ (fun hx => ?_); rotate_left; clear_value x; rotate_left; unfold x)
    | ((try lift_lets); intro (x : _ × State); refine Changes.via (l := pl) (s := s0) (x := x.2) ?_ (fun hx => ?_); rotate_left; clear_value x; rotate_left; unfold x)
    | ((try lift_lets); intro x; clear_value x)
    | with_reducible assumption
    | with_reducible apply State.raise_changes
    | with_reducible apply State.countWm_changes
    | with_reducible apply State.setIrq_changes
    | with_reducible apply State.condemn_changes
    | with_reducible apply State.suspectVerdict_changes
    | with_reducible apply State.checkAction_changes
    | with_reducible refine Changes.of_snd (State.checkDetail_changes ?_ ?_) (by assumption)
    | with_reducible apply State.checkDetail_changes
    | (with_reducible apply Changes.upd_checks; first | with_reducible assumption | with_reducible apply State.raise_changes | with_reducible apply State.countWm_changes | with_reducible apply State.setIrq_changes | with_reducible apply State.condemn_changes | with_reducible apply State.suspectVerdict_changes | with_reducible apply State.checkAction_changes | with_reducible refine Changes.of_snd (State.checkDetail_changes ?_ ?_) (by assumption) | with_reducible apply State.checkDetail_changes | split)
    | exact hL _ (Part.mem_elem (by rfl))
    | (refine hL _ (Part.mem_elem ?_); (repeat' split) <;> rfl)
    | split
    | (dsimp only))

theorem execCheckVerdict_changes {n : Nat} {recent : Bool} {pl : List Part} (hL : Part.Sub [.page .FLT, .risen, .ahead, .fields, .records, .checks, .retained, .suspects, .hostOut, .hostHeld, .fwIrq, .msix, .step, .exchs, .tainted, .taintSeq, .free] pl := by first | assumption | exact Part.Sub.via (by assumption) (by decide +kernel)) : ChangesOut pl s (execCheckVerdict n recent s) := by
  unfold execCheckVerdict
  have hk : Changes pl s s := Changes.refl pl s
  repeat' (first
    | with_reducible exact hL
    | with_reducible exact Part.Sub.via hL (by decide)
    | with_reducible apply ChangesOut.next
    | ((try lift_lets); intro (x : State); refine Changes.via (l := pl) (s := s) (x := x) ?_ (fun hx => ?_); rotate_left; clear_value x; rotate_left; unfold x)
    | ((try lift_lets); intro x; clear_value x)
    | with_reducible assumption
    | with_reducible apply State.countWm_changes
    | with_reducible apply State.giveVerdict_changes
    | (with_reducible apply Changes.upd_checks; first | with_reducible assumption | with_reducible apply State.countWm_changes | with_reducible apply State.giveVerdict_changes | split)
    | exact hL _ (Part.mem_elem (by rfl))
    | (refine hL _ (Part.mem_elem ?_); (repeat' split) <;> rfl)
    | split
    | (dsimp only))

theorem execCheckDeadline_changes {n : Nat} {pl : List Part} (hL : Part.Sub [.page .FLT, .risen, .ahead, .fields, .records, .checks, .retained, .suspects, .hostOut, .hostHeld, .fwIrq, .msix, .step, .exchs, .tainted, .taintSeq, .free] pl := by first | assumption | exact Part.Sub.via (by assumption) (by decide +kernel)) : ChangesOut pl s (execCheckDeadline n s) := by
  unfold execCheckDeadline
  have hk : Changes pl s s := Changes.refl pl s
  repeat' (first
    | with_reducible exact hL
    | with_reducible exact Part.Sub.via hL (by decide)
    | with_reducible apply ChangesOut.next
    | ((try lift_lets); intro (x : State); refine Changes.via (l := pl) (s := s) (x := x) ?_ (fun hx => ?_); rotate_left; clear_value x; rotate_left; unfold x)
    | ((try lift_lets); intro x; clear_value x)
    | with_reducible assumption
    | with_reducible apply State.giveVerdict_changes
    | split
    | (dsimp only))

end Sys2Proof.Machine
end

