-- ==== Sys2Proof/Laws/ChangesFirmware.lean ====
section
/-!
SUPPORT. What the operations of Machine/Firmware can change (Laws/Changes).
-/
namespace Sys2Proof.Machine

set_option linter.all false

variable {s0 s : State}

theorem State.checkBank_changes {pl : List Part} {stage : Nat} {g : FwImage} {readable : Bool} (hk : Changes pl s0 s) (hL : Part.Sub [.page .SEC] pl := by first | assumption | exact Part.Sub.via (by assumption) (by decide +kernel)) : Changes pl s0 (State.checkBank s stage g readable).1 := by
  unfold State.checkBank
  repeat' (first
    | with_reducible exact hL
    | with_reducible exact Part.Sub.via hL (by decide)
    | ((try lift_lets); intro (x : State); refine Changes.via (l := pl) (s := s0) (x := x) ?_ (fun hx => ?_); rotate_left; clear_value x; rotate_left; unfold x)
    | ((try lift_lets); intro x; clear_value x)
    | with_reducible assumption
    | with_reducible apply State.count_changes
    | with_reducible apply State.setF_changes
    | exact hL _ (Part.mem_elem (by rfl))
    | (refine hL _ (Part.mem_elem ?_); (repeat' split) <;> rfl)
    | split
    | (dsimp only))

theorem State.firstBank_changes {pl : List Part} {stage : Nat} {l : List Nat} (hL : Part.Sub [.page .SEC] pl := by first | assumption | exact Part.Sub.via (by assumption) (by decide +kernel)) :
    ∀ {s : State}, Changes pl s0 s → Changes pl s0 (State.firstBank stage l s).1 := by
  induction l with
  | nil => exact fun h => h
  | cons b r ih =>
    intro s h
    have hc : Changes pl s0 (s.checkBank stage (s.flashBank stage b) true).1 := State.checkBank_changes h
    unfold State.firstBank
    generalize s.checkBank stage (s.flashBank stage b) true = x at hc ⊢
    dsimp only
    split
    · exact hc
    · exact ih hc

theorem State.measured_changes {pl : List Part} {stage : Nat} {digest : List Byte} (hk : Changes pl s0 s) (hL : Part.Sub [.digests, .measure] pl := by first | assumption | exact Part.Sub.via (by assumption) (by decide +kernel)) : Changes pl s0 (State.measured s stage digest) := by
  unfold State.measured
  repeat' (first
    | with_reducible exact hL
    | with_reducible exact Part.Sub.via hL (by decide)
    | ((try lift_lets); intro (x : State); refine Changes.via (l := pl) (s := s0) (x := x) ?_ (fun hx => ?_); rotate_left; clear_value x; rotate_left; unfold x)
    | ((try lift_lets); intro x; clear_value x)
    | with_reducible assumption
    | (with_reducible apply Changes.upd_digests_measure; first | with_reducible assumption | split)
    | split
    | (dsimp only))

theorem State.bootRecord_changes {pl : List Part} {sev : Nat} (hk : Changes pl s0 s) (hL : Part.Sub [.records, .mlog, .mgmtOut] pl := by first | assumption | exact Part.Sub.via (by assumption) (by decide +kernel)) : Changes pl s0 (State.bootRecord s sev) := by
  unfold State.bootRecord
  repeat' (first
    | with_reducible exact hL
    | with_reducible exact Part.Sub.via hL (by decide)
    | ((try lift_lets); intro (x : State); refine Changes.via (l := pl) (s := s0) (x := x) ?_ (fun hx => ?_); rotate_left; clear_value x; rotate_left; unfold x)
    | ((try lift_lets); intro x; clear_value x)
    | with_reducible assumption
    | with_reducible apply State.note_changes
    | split
    | (dsimp only))

theorem State.verifyStage_changes {pl : List Part} {stage : Nat} (hk : Changes pl s0 s) (hL : Part.Sub [.page .SEC, .records, .mlog, .digests, .mgmtStage, .measure, .mgmtOut] pl := by first | assumption | exact Part.Sub.via (by assumption) (by decide +kernel)) : Changes pl s0 (State.verifyStage s stage).1 := by
  unfold State.verifyStage
  repeat' (first
    | with_reducible exact hL
    | with_reducible exact Part.Sub.via hL (by decide)
    | ((try lift_lets); intro (x : State); refine Changes.via (l := pl) (s := s0) (x := x) ?_ (fun hx => ?_); rotate_left; clear_value x; rotate_left; unfold x)
    | ((try lift_lets); intro (x : State × _); refine Changes.via (l := pl) (s := s0) (x := x.1) ?_ (fun hx => ?_); rotate_left; clear_value x; rotate_left; unfold x)
    | ((try lift_lets); intro (x : _ × State); refine Changes.via (l := pl) (s := s0) (x := x.2) ?_ (fun hx => ?_); rotate_left; clear_value x; rotate_left; unfold x)
    | ((try lift_lets); intro x; clear_value x)
    | with_reducible assumption
    | with_reducible apply State.setF_changes
    | with_reducible apply State.bootRecord_changes
    | with_reducible apply State.measured_changes
    | with_reducible refine Changes.of_fst (State.firstBank_changes ?_ ?_) (by assumption)
    | with_reducible apply State.firstBank_changes
    | (with_reducible apply Changes.upd_mgmtStage; first | with_reducible assumption | with_reducible apply State.setF_changes | with_reducible apply State.bootRecord_changes | with_reducible apply State.measured_changes | with_reducible refine Changes.of_fst (State.firstBank_changes ?_ ?_) (by assumption) | with_reducible apply State.firstBank_changes | split)
    | exact hL _ (Part.mem_elem (by rfl))
    | (refine hL _ (Part.mem_elem ?_); (repeat' split) <;> rfl)
    | split
    | (dsimp only))

theorem State.activateStages_changes {pl : List Part} {stages : List Nat} (hk : Changes pl s0 s) (hL : Part.Sub [.active, .fresh, .toActivate] pl := by first | assumption | exact Part.Sub.via (by assumption) (by decide +kernel)) : Changes pl s0 (State.activateStages s stages) := by
  unfold State.activateStages
  repeat' (first
    | with_reducible exact hL
    | with_reducible exact Part.Sub.via hL (by decide)
    | ((try lift_lets); intro (x : State); refine Changes.via (l := pl) (s := s0) (x := x) ?_ (fun hx => ?_); rotate_left; clear_value x; rotate_left; unfold x)
    | ((try lift_lets); intro x; clear_value x)
    | with_reducible assumption
    | with_reducible refine Changes.foldl ?_ (fun u x hu => ?_)
    | (with_reducible apply Changes.upd_active_fresh_toActivate; first | with_reducible assumption | split)
    | split
    | (dsimp only))

theorem State.fwEnd_changes {pl : List Part} {stage result : Nat} (hk : Changes pl s0 s) (hL : Part.Sub [.page .SEC, .risen, .records, .hostOut, .hostHeld, .fwIrq, .msix, .mlog, .mgmtOut] pl := by first | assumption | exact Part.Sub.via (by assumption) (by decide +kernel)) : Changes pl s0 (State.fwEnd s stage result) := by
  unfold State.fwEnd
  repeat' (first
    | with_reducible exact hL
    | with_reducible exact Part.Sub.via hL (by decide)
    | ((try lift_lets); intro (x : State); refine Changes.via (l := pl) (s := s0) (x := x) ?_ (fun hx => ?_); rotate_left; clear_value x; rotate_left; unfold x)
    | ((try lift_lets); intro x; clear_value x)
    | with_reducible assumption
    | with_reducible apply State.setIrq_changes
    | with_reducible apply State.setF_changes
    | with_reducible apply State.note_changes
    | exact hL _ (Part.mem_elem (by rfl))
    | (refine hL _ (Part.mem_elem ?_); (repeat' split) <;> rfl)
    | split
    | (dsimp only))

theorem State.fwStage_changes {pl : List Part} {stage : Nat} {g : FwImage} {readable : Bool} (hk : Changes pl s0 s) (hL : Part.Sub [.page .SEC, .risen, .records, .hostOut, .hostHeld, .fwIrq, .msix, .mlog, .flash, .mgmtOut] pl := by first | assumption | exact Part.Sub.via (by assumption) (by decide +kernel)) : Changes pl s0 (State.fwStage s stage g readable) := by
  unfold State.fwStage
  repeat' (first
    | with_reducible exact hL
    | with_reducible exact Part.Sub.via hL (by decide)
    | ((try lift_lets); intro (x : State); refine Changes.via (l := pl) (s := s0) (x := x) ?_ (fun hx => ?_); rotate_left; clear_value x; rotate_left; unfold x)
    | ((try lift_lets); intro (x : State × _); refine Changes.via (l := pl) (s := s0) (x := x.1) ?_ (fun hx => ?_); rotate_left; clear_value x; rotate_left; unfold x)
    | ((try lift_lets); intro (x : _ × State); refine Changes.via (l := pl) (s := s0) (x := x.2) ?_ (fun hx => ?_); rotate_left; clear_value x; rotate_left; unfold x)
    | ((try lift_lets); intro x; clear_value x)
    | with_reducible assumption
    | with_reducible apply State.setF_changes
    | with_reducible apply State.fwEnd_changes
    | with_reducible refine Changes.of_fst (State.checkBank_changes ?_ ?_) (by assumption)
    | with_reducible apply State.checkBank_changes
    | (with_reducible apply Changes.upd_flash; first | with_reducible assumption | with_reducible apply State.setF_changes | with_reducible apply State.fwEnd_changes | with_reducible refine Changes.of_fst (State.checkBank_changes ?_ ?_) (by assumption) | with_reducible apply State.checkBank_changes | split)
    | exact hL _ (Part.mem_elem (by rfl))
    | (refine hL _ (Part.mem_elem ?_); (repeat' split) <;> rfl)
    | split
    | (dsimp only))

theorem State.fwActivate_changes {pl : List Part} {stage : Nat} (hk : Changes pl s0 s) (hL : Part.Sub [.page .SEC, .risen, .records, .hostOut, .hostHeld, .fwIrq, .msix, .mlog, .toActivate, .mgmtOut] pl := by first | assumption | exact Part.Sub.via (by assumption) (by decide +kernel)) : Changes pl s0 (State.fwActivate s stage) := by
  unfold State.fwActivate
  repeat' (first
    | with_reducible exact hL
    | with_reducible exact Part.Sub.via hL (by decide)
    | ((try lift_lets); intro (x : State); refine Changes.via (l := pl) (s := s0) (x := x) ?_ (fun hx => ?_); rotate_left; clear_value x; rotate_left; unfold x)
    | ((try lift_lets); intro x; clear_value x)
    | with_reducible assumption
    | with_reducible apply State.setF_changes
    | with_reducible apply State.fwEnd_changes
    | (with_reducible apply Changes.upd_toActivate; first | with_reducible assumption | with_reducible apply State.setF_changes | with_reducible apply State.fwEnd_changes | split)
    | exact hL _ (Part.mem_elem (by rfl))
    | (refine hL _ (Part.mem_elem ?_); (repeat' split) <;> rfl)
    | split
    | (dsimp only))

theorem State.fwCommit_changes {pl : List Part} {stage : Nat} {fails : Bool} {blown : Nat} (hk : Changes pl s0 s) (hL : Part.Sub [.page .SEC, .risen, .records, .hostOut, .hostHeld, .fwIrq, .msix, .mlog, .mgmtOut] pl := by first | assumption | exact Part.Sub.via (by assumption) (by decide +kernel)) : Changes pl s0 (State.fwCommit s stage fails blown) := by
  unfold State.fwCommit
  repeat' (first
    | with_reducible exact hL
    | with_reducible exact Part.Sub.via hL (by decide)
    | ((try lift_lets); intro (x : State); refine Changes.via (l := pl) (s := s0) (x := x) ?_ (fun hx => ?_); rotate_left; clear_value x; rotate_left; unfold x)
    | ((try lift_lets); intro x; clear_value x)
    | with_reducible assumption
    | with_reducible apply State.setF_changes
    | with_reducible apply State.fwEnd_changes
    | exact hL _ (Part.mem_elem (by rfl))
    | (refine hL _ (Part.mem_elem ?_); (repeat' split) <;> rfl)
    | split
    | (dsimp only))

theorem State.fwImage_changes {pl : List Part}  (hk : Changes pl s0 s) (hL : Part.Sub [.page .EMP, .page .HBM, .risen, .recOnce, .records, .hostOut, .hostHeld, .fwIrq, .msix, .edgeWb, .selfRefresh] pl := by first | assumption | exact Part.Sub.via (by assumption) (by decide +kernel)) : Changes pl s0 (State.fwImage s).1 := by
  unfold State.fwImage
  repeat' (first
    | with_reducible exact hL
    | with_reducible exact Part.Sub.via hL (by decide)
    | ((try lift_lets); intro (x : State); refine Changes.via (l := pl) (s := s0) (x := x) ?_ (fun hx => ?_); rotate_left; clear_value x; rotate_left; unfold x)
    | ((try lift_lets); intro (x : State × _); refine Changes.via (l := pl) (s := s0) (x := x.1) ?_ (fun hx => ?_); rotate_left; clear_value x; rotate_left; unfold x)
    | ((try lift_lets); intro (x : _ × State); refine Changes.via (l := pl) (s := s0) (x := x.2) ?_ (fun hx => ?_); rotate_left; clear_value x; rotate_left; unfold x)
    | ((try lift_lets); intro x; clear_value x)
    | with_reducible assumption
    | with_reducible refine Changes.of_fst (State.edgeRead_changes ?_ ?_) (by assumption)
    | with_reducible apply State.edgeRead_changes
    | split
    | (dsimp only))

theorem State.fwOp_changes {pl : List Part} {op stage : Nat} {image : FwImage} {readable fails : Bool} {blown : Nat} (hk : Changes pl s0 s) (hL : Part.Sub [.page .SEC, .risen, .records, .hostOut, .hostHeld, .fwIrq, .msix, .mlog, .flash, .toActivate, .mgmtOut] pl := by first | assumption | exact Part.Sub.via (by assumption) (by decide +kernel)) : Changes pl s0 (State.fwOp s op stage image readable fails blown) := by
  unfold State.fwOp
  repeat' (first
    | with_reducible exact hL
    | with_reducible exact Part.Sub.via hL (by decide)
    | ((try lift_lets); intro (x : State); refine Changes.via (l := pl) (s := s0) (x := x) ?_ (fun hx => ?_); rotate_left; clear_value x; rotate_left; unfold x)
    | ((try lift_lets); intro x; clear_value x)
    | with_reducible assumption
    | with_reducible apply State.setF_changes
    | with_reducible apply State.fwCommit_changes
    | with_reducible apply State.fwActivate_changes
    | with_reducible apply State.fwStage_changes
    | exact hL _ (Part.mem_elem (by rfl))
    | (refine hL _ (Part.mem_elem ?_); (repeat' split) <;> rfl)
    | split
    | (dsimp only))

theorem State.fwWrite_changes {pl : List Part} {fw : Bool} {value : W64} {fails : Bool} {blown : Nat} (hk : Changes pl s0 s) (hL : Part.Sub [.page .DIR, .page .EMP, .page .HBM, .page .SEC, .risen, .recOnce, .records, .hostOut, .hostHeld, .fwIrq, .msix, .edgeWb, .selfRefresh, .mlog, .flash, .toActivate, .mgmtOut] pl := by first | assumption | exact Part.Sub.via (by assumption) (by decide +kernel)) : Changes pl s0 (State.fwWrite s fw value fails blown) := by
  unfold State.fwWrite
  repeat' (first
    | with_reducible exact hL
    | with_reducible exact Part.Sub.via hL (by decide)
    | ((try lift_lets); intro (x : State); refine Changes.via (l := pl) (s := s0) (x := x) ?_ (fun hx => ?_); rotate_left; clear_value x; rotate_left; unfold x)
    | ((try lift_lets); intro (x : State × _); refine Changes.via (l := pl) (s := s0) (x := x.1) ?_ (fun hx => ?_); rotate_left; clear_value x; rotate_left; unfold x)
    | ((try lift_lets); intro (x : _ × State); refine Changes.via (l := pl) (s := s0) (x := x.2) ?_ (fun hx => ?_); rotate_left; clear_value x; rotate_left; unfold x)
    | ((try lift_lets); intro x; clear_value x)
    | with_reducible assumption
    | with_reducible refine State.regWrite_changes ?_ ?_ (fun u hu => ?_) ?_
    | with_reducible apply State.fwOp_changes
    | with_reducible refine Changes.of_fst (State.fwImage_changes ?_ ?_) (by assumption)
    | with_reducible apply State.fwImage_changes
    | exact hL _ (Part.mem_elem (by rfl))
    | (refine hL _ (Part.mem_elem ?_); (repeat' split) <;> rfl)
    | split
    | (dsimp only))

theorem execStageImage_changes {fw : Bool} {value : W64} {pl : List Part} (hL : Part.Sub [.page .DIR, .page .EMP, .page .HBM, .page .SEC, .risen, .recOnce, .records, .hostOut, .hostHeld, .fwIrq, .msix, .edgeWb, .selfRefresh, .mlog, .flash, .toActivate, .mgmtOut] pl := by first | assumption | exact Part.Sub.via (by assumption) (by decide +kernel)) : ChangesOut pl s (execStageImage fw value s) := by
  unfold execStageImage
  have hk : Changes pl s s := Changes.refl pl s
  repeat' (first
    | with_reducible exact hL
    | with_reducible exact Part.Sub.via hL (by decide)
    | with_reducible apply ChangesOut.next
    | ((try lift_lets); intro (x : State); refine Changes.via (l := pl) (s := s) (x := x) ?_ (fun hx => ?_); rotate_left; clear_value x; rotate_left; unfold x)
    | ((try lift_lets); intro x; clear_value x)
    | with_reducible assumption
    | with_reducible apply State.fwWrite_changes
    | split
    | (dsimp only))

theorem execActivateImage_changes {fw : Bool} {value : W64} {pl : List Part} (hL : Part.Sub [.page .DIR, .page .EMP, .page .HBM, .page .SEC, .risen, .recOnce, .records, .hostOut, .hostHeld, .fwIrq, .msix, .edgeWb, .selfRefresh, .mlog, .flash, .toActivate, .mgmtOut] pl := by first | assumption | exact Part.Sub.via (by assumption) (by decide +kernel)) : ChangesOut pl s (execActivateImage fw value s) := by
  unfold execActivateImage
  have hk : Changes pl s s := Changes.refl pl s
  repeat' (first
    | with_reducible exact hL
    | with_reducible exact Part.Sub.via hL (by decide)
    | with_reducible apply ChangesOut.next
    | ((try lift_lets); intro (x : State); refine Changes.via (l := pl) (s := s) (x := x) ?_ (fun hx => ?_); rotate_left; clear_value x; rotate_left; unfold x)
    | ((try lift_lets); intro x; clear_value x)
    | with_reducible assumption
    | with_reducible apply State.fwWrite_changes
    | split
    | (dsimp only))

theorem execCommitImage_changes {fw : Bool} {value : W64} {fails : Bool} {blown : Nat} {pl : List Part} (hL : Part.Sub [.page .DIR, .page .EMP, .page .HBM, .page .SEC, .risen, .recOnce, .records, .hostOut, .hostHeld, .fwIrq, .msix, .edgeWb, .selfRefresh, .mlog, .flash, .toActivate, .mgmtOut] pl := by first | assumption | exact Part.Sub.via (by assumption) (by decide +kernel)) : ChangesOut pl s (execCommitImage fw value fails blown s) := by
  unfold execCommitImage
  have hk : Changes pl s s := Changes.refl pl s
  repeat' (first
    | with_reducible exact hL
    | with_reducible exact Part.Sub.via hL (by decide)
    | with_reducible apply ChangesOut.next
    | ((try lift_lets); intro (x : State); refine Changes.via (l := pl) (s := s) (x := x) ?_ (fun hx => ?_); rotate_left; clear_value x; rotate_left; unfold x)
    | ((try lift_lets); intro x; clear_value x)
    | with_reducible assumption
    | with_reducible apply State.fwWrite_changes
    | split
    | (dsimp only))

end Sys2Proof.Machine
end

