-- ==== Sys2Proof/Laws/ChangesLookout.lean ====
section
/-!
SUPPORT. What the operations of Machine/Lookout can change (Laws/Changes).
-/
namespace Sys2Proof.Machine

set_option linter.all false

variable {s0 s : State}

theorem State.rollback_changes {pl : List Part} {wm : Nat} {reason at' : Nat} (hk : Changes pl s0 s) (hL : Part.Sub [.page .LKO, .risen, .ahead, .records, .hostOut, .hostHeld, .fwIrq, .msix] pl := by first | assumption | exact Part.Sub.via (by assumption) (by decide +kernel)) : Changes pl s0 (State.rollback s wm reason at') := by
  unfold State.rollback
  repeat' (first
    | with_reducible exact hL
    | with_reducible exact Part.Sub.via hL (by decide)
    | ((try lift_lets); intro (x : State); refine Changes.via (l := pl) (s := s0) (x := x) ?_ (fun hx => ?_); rotate_left; clear_value x; rotate_left; unfold x)
    | ((try lift_lets); intro x; clear_value x)
    | with_reducible assumption
    | with_reducible apply State.raise_changes
    | with_reducible apply State.countWm_changes
    | with_reducible apply State.setIrq_changes
    | with_reducible apply State.rose_changes
    | with_reducible apply State.setReg_changes
    | exact hL _ (Part.mem_elem (by rfl))
    | (refine hL _ (Part.mem_elem ?_); (repeat' split) <;> rfl)
    | split
    | (dsimp only))

theorem State.anomaly_changes {pl : List Part} {wm x kind : Nat} (hk : Changes pl s0 s) (hL : Part.Sub [.page .LKO, .risen, .ahead, .records, .hostOut, .hostHeld, .fwIrq, .msix] pl := by first | assumption | exact Part.Sub.via (by assumption) (by decide +kernel)) : Changes pl s0 (State.anomaly s wm x kind) := by
  unfold State.anomaly
  repeat' (first
    | with_reducible exact hL
    | with_reducible exact Part.Sub.via hL (by decide)
    | ((try lift_lets); intro (x : State); refine Changes.via (l := pl) (s := s0) (x := x) ?_ (fun hx => ?_); rotate_left; clear_value x; rotate_left; unfold x)
    | ((try lift_lets); intro x; clear_value x)
    | with_reducible assumption
    | with_reducible apply State.raise_changes
    | with_reducible apply State.countWm_changes
    | with_reducible apply State.setIrq_changes
    | exact hL _ (Part.mem_elem (by rfl))
    | split
    | (dsimp only))

theorem State.spike_changes {pl : List Part} {wm x : Nat} (hk : Changes pl s0 s) (hL : Part.Sub [.page .LKO, .risen, .ahead, .records, .hostOut, .hostHeld, .fwIrq, .msix, .spikeFirst, .lkoSpikes] pl := by first | assumption | exact Part.Sub.via (by assumption) (by decide +kernel)) : Changes pl s0 (State.spike s wm x) := by
  unfold State.spike
  repeat' (first
    | with_reducible exact hL
    | with_reducible exact Part.Sub.via hL (by decide)
    | ((try lift_lets); intro (x : State); refine Changes.via (l := pl) (s := s0) (x := x) ?_ (fun hx => ?_); rotate_left; clear_value x; rotate_left; unfold x)
    | ((try lift_lets); intro x; clear_value x)
    | with_reducible assumption
    | with_reducible apply State.anomaly_changes
    | with_reducible apply State.rollback_changes
    | with_reducible refine Changes.foldl ?_ (fun u x hu => ?_)
    | (with_reducible apply Changes.upd_lkoSpikes_spikeFirst; first | with_reducible assumption | with_reducible apply State.anomaly_changes | with_reducible apply State.rollback_changes | split)
    | split
    | (dsimp only))

theorem State.reported_changes {pl : List Part} {wm : Nat} {x : W32} (hk : Changes pl s0 s) (hL : Part.Sub [.page .LKO, .risen, .ahead] pl := by first | assumption | exact Part.Sub.via (by assumption) (by decide +kernel)) : Changes pl s0 (State.reported s wm x) := by
  unfold State.reported
  repeat' (first
    | with_reducible exact hL
    | with_reducible exact Part.Sub.via hL (by decide)
    | ((try lift_lets); intro (x : State); refine Changes.via (l := pl) (s := s0) (x := x) ?_ (fun hx => ?_); rotate_left; clear_value x; rotate_left; unfold x)
    | ((try lift_lets); intro x; clear_value x)
    | with_reducible assumption
    | with_reducible apply State.countWm_changes
    | with_reducible apply State.setReg_changes
    | exact hL _ (Part.mem_elem (by rfl))
    | split
    | (dsimp only))

theorem State.follow_changes {pl : List Part} {x : W32} (hk : Changes pl s0 s) (hL : Part.Sub [.page .LKO, .lkoN, .lkoSpikes] pl := by first | assumption | exact Part.Sub.via (by assumption) (by decide +kernel)) : Changes pl s0 (State.follow s x) := by
  unfold State.follow
  repeat' (first
    | with_reducible exact hL
    | with_reducible exact Part.Sub.via hL (by decide)
    | ((try lift_lets); intro (x : State); refine Changes.via (l := pl) (s := s0) (x := x) ?_ (fun hx => ?_); rotate_left; clear_value x; rotate_left; unfold x)
    | ((try lift_lets); intro x; clear_value x)
    | with_reducible assumption
    | with_reducible apply State.setReg_changes
    | (with_reducible apply Changes.upd_lkoSpikes_lkoN; first | with_reducible assumption | with_reducible apply State.setReg_changes | split)
    | exact hL _ (Part.mem_elem (by rfl))
    | (refine hL _ (Part.mem_elem ?_); (repeat' split) <;> rfl)
    | split
    | (dsimp only))

theorem State.report_changes {pl : List Part} {wm : Nat} {x : W32} (hk : Changes pl s0 s) (hL : Part.Sub [.page .LKO, .risen, .ahead, .records, .hostOut, .hostHeld, .fwIrq, .msix, .spikeFirst, .lkoN, .lkoSpikes] pl := by first | assumption | exact Part.Sub.via (by assumption) (by decide +kernel)) : Changes pl s0 (State.report s wm x) := by
  unfold State.report
  repeat' (first
    | with_reducible exact hL
    | with_reducible exact Part.Sub.via hL (by decide)
    | ((try lift_lets); intro (x : State); refine Changes.via (l := pl) (s := s0) (x := x) ?_ (fun hx => ?_); rotate_left; clear_value x; rotate_left; unfold x)
    | ((try lift_lets); intro x; clear_value x)
    | with_reducible assumption
    | with_reducible apply State.follow_changes
    | with_reducible apply State.reported_changes
    | with_reducible apply State.spike_changes
    | with_reducible apply State.anomaly_changes
    | with_reducible apply State.rollback_changes
    | split
    | (dsimp only))

theorem State.foreignEntry_changes {pl : List Part} {got node : Nat} (hk : Changes pl s0 s) (hL : Part.Sub [.page .LKO, .risen, .ahead, .losses] pl := by first | assumption | exact Part.Sub.via (by assumption) (by decide +kernel)) : Changes pl s0 (State.foreignEntry s got node) := by
  unfold State.foreignEntry
  repeat' (first
    | with_reducible exact hL
    | with_reducible exact Part.Sub.via hL (by decide)
    | ((try lift_lets); intro (x : State); refine Changes.via (l := pl) (s := s0) (x := x) ?_ (fun hx => ?_); rotate_left; clear_value x; rotate_left; unfold x)
    | ((try lift_lets); intro x; clear_value x)
    | with_reducible assumption
    | with_reducible apply State.countWm_changes
    | (with_reducible apply Changes.upd_losses; first | with_reducible assumption | with_reducible apply State.countWm_changes | split)
    | exact hL _ (Part.mem_elem (by rfl))
    | (refine hL _ (Part.mem_elem ?_); (repeat' split) <;> rfl)
    | split
    | (dsimp only))

theorem State.lostEntries_changes {pl : List Part} {got : Nat} (hk : Changes pl s0 s) (hL : Part.Sub [.page .LKO, .risen, .ahead] pl := by first | assumption | exact Part.Sub.via (by assumption) (by decide +kernel)) : Changes pl s0 (State.lostEntries s got) := by
  unfold State.lostEntries
  repeat' (first
    | with_reducible exact hL
    | with_reducible exact Part.Sub.via hL (by decide)
    | ((try lift_lets); intro (x : State); refine Changes.via (l := pl) (s := s0) (x := x) ?_ (fun hx => ?_); rotate_left; clear_value x; rotate_left; unfold x)
    | ((try lift_lets); intro x; clear_value x)
    | with_reducible assumption
    | with_reducible apply State.countWm_changes
    | with_reducible apply State.setF_changes
    | exact hL _ (Part.mem_elem (by rfl))
    | split
    | (dsimp only))

theorem State.readRing_changes {pl : List Part} {n : Nat} (hL : Part.Sub [.page .LKO, .risen, .ahead, .records, .hostOut, .hostHeld, .fwIrq, .msix, .losses, .spikeFirst, .lkoN, .lkoSpikes] pl := by first | assumption | exact Part.Sub.via (by assumption) (by decide +kernel)) : ∀ {s : State}, Changes pl s0 s → Changes pl s0 (State.readRing n s) := by
  induction n with
  | zero => exact fun h => h
  | succ n ih =>
    intro s h
    unfold State.readRing
    split
    · exact h
    · rename_i got node wm x _
      dsimp only
      split
      · exact h
      split
      · exact State.foreignEntry_changes h
      split
      · exact ih (State.setF_changes (State.report_changes h))
      split
      · exact ih (State.lostEntries_changes h)
      · exact h

theorem execLookoutPoll_changes  {pl : List Part} (hL : Part.Sub [.page .LKO, .risen, .ahead, .records, .hostOut, .hostHeld, .fwIrq, .msix, .losses, .spikeFirst, .lkoN, .lkoSpikes] pl := by first | assumption | exact Part.Sub.via (by assumption) (by decide +kernel)) : ChangesOut pl s (execLookoutPoll s) := by
  unfold execLookoutPoll
  have hk : Changes pl s s := Changes.refl pl s
  repeat' (first
    | with_reducible exact hL
    | with_reducible exact Part.Sub.via hL (by decide)
    | with_reducible apply ChangesOut.next
    | ((try lift_lets); intro (x : State); refine Changes.via (l := pl) (s := s) (x := x) ?_ (fun hx => ?_); rotate_left; clear_value x; rotate_left; unfold x)
    | ((try lift_lets); intro x; clear_value x)
    | with_reducible assumption
    | with_reducible apply State.readRing_changes
    | split
    | (dsimp only))

end Sys2Proof.Machine
end

