-- ==== Sys2Proof/Laws/ChangesPassEnd.lean ====
section
/-!
SUPPORT. What the operations of Machine/PassEnd can change (Laws/Changes).
-/
namespace Sys2Proof.Machine

set_option linter.all false

variable {s0 s : State}

theorem State.cancelPassStep_changes {pl : List Part} {p : Fin 2} (hk : Changes pl s0 s) (hL : Part.Sub [.page .ENG, .page .SEN, .page .VLX, .page .EMP, .page .HBM, .risen, .ahead, .fields, .recOnce, .records, .hostOut, .hostHeld, .fwIrq, .msix, .edge, .edgeMark, .edgeWb, .selfRefresh, .ctxs, .queues, .step, .exchs, .free] pl := by first | assumption | exact Part.Sub.via (by assumption) (by decide +kernel)) : Changes pl s0 (State.cancelPassStep s p) := by
  unfold State.cancelPassStep
  repeat' (first
    | with_reducible exact hL
    | with_reducible exact Part.Sub.via hL (by decide)
    | ((try lift_lets); intro (x : State); refine Changes.via (l := pl) (s := s0) (x := x) ?_ (fun hx => ?_); rotate_left; clear_value x; rotate_left; unfold x)
    | ((try lift_lets); intro x; clear_value x)
    | with_reducible assumption
    | with_reducible apply State.cancelWork_changes
    | split
    | (dsimp only))

theorem execPassAbort_changes {p : Fin 2} {recent : Bool} {pl : List Part} (hL : Part.Sub [.page .ENG, .page .AEN, .page .SEN, .page .MLW, .page .VLX, .page .EMP, .page .HBM, .page .MESH, .page .TSQ, .page .SPD, .page .FEN, .page .FLT, .risen, .ahead, .tiles, .fields, .recOnce, .records, .causes, .retained, .suspects, .hostOut, .hostHeld, .fwIrq, .msix, .edge, .edgeMark, .edgeWb, .selfRefresh, .edgeHeld, .aeArrived, .ctxs, .queues, .step, .array, .exchs, .free] pl := by first | assumption | exact Part.Sub.via (by assumption) (by decide +kernel)) : ChangesOut pl s (execPassAbort p recent s) := by
  unfold execPassAbort
  have hk : Changes pl s s := Changes.refl pl s
  repeat' (first
    | with_reducible exact hL
    | with_reducible exact Part.Sub.via hL (by decide)
    | with_reducible apply ChangesOut.next
    | ((try lift_lets); intro (x : State); refine Changes.via (l := pl) (s := s) (x := x) ?_ (fun hx => ?_); rotate_left; clear_value x; rotate_left; unfold x)
    | ((try lift_lets); intro x; clear_value x)
    | with_reducible assumption
    | with_reducible apply State.cancelPassStep_changes
    | with_reducible apply State.abortDrains_changes
    | with_reducible apply State.abortEnters_changes
    | with_reducible apply State.abortNoted_changes
    | with_reducible apply State.suspectTile_changes
    | (with_reducible apply Changes.upd_causes; first | with_reducible assumption | with_reducible apply State.cancelPassStep_changes | with_reducible apply State.abortDrains_changes | with_reducible apply State.abortEnters_changes | with_reducible apply State.abortNoted_changes | with_reducible apply State.suspectTile_changes | split)
    | split
    | (dsimp only))

theorem execPassComplete_changes {p : Fin 2} {pl : List Part} (hL : Part.Sub [.page .ENG, .page .AEN, .page .MLW, .page .EMP, .page .HBM, .page .MESH, .page .TSQ, .page .SPD, .page .FPW, .page .FEN, .page .FLT, .risen, .ahead, .tiles, .fields, .recOnce, .records, .hostOut, .hostHeld, .fwIrq, .msix, .edge, .edgeMark, .edgeWb, .selfRefresh, .edgeHeld, .aeArrived, .ctxs, .queues, .step, .array, .free] pl := by first | assumption | exact Part.Sub.via (by assumption) (by decide +kernel)) : ChangesOut pl s (execPassComplete p s) := by
  unfold execPassComplete
  have hk : Changes pl s s := Changes.refl pl s
  repeat' (first
    | with_reducible exact hL
    | with_reducible exact Part.Sub.via hL (by decide)
    | with_reducible apply ChangesOut.next
    | ((try lift_lets); intro (x : State); refine Changes.via (l := pl) (s := s) (x := x) ?_ (fun hx => ?_); rotate_left; clear_value x; rotate_left; unfold x)
    | ((try lift_lets); intro x; clear_value x)
    | with_reducible assumption
    | with_reducible apply State.completePass_changes
    | with_reducible apply State.parkAfterPass_changes
    | split
    | (dsimp only))

theorem execPassFailed_changes {p : Fin 2} {pl : List Part} (hL : Part.Sub [.page .ENG, .page .AEN, .page .MLW, .page .EMP, .page .HBM, .page .MESH, .page .TSQ, .page .SPD, .page .FPW, .page .FEN, .page .FLT, .risen, .ahead, .tiles, .fields, .recOnce, .records, .hostOut, .hostHeld, .fwIrq, .msix, .edge, .edgeMark, .edgeWb, .selfRefresh, .edgeHeld, .ctxs, .queues, .step, .array, .free] pl := by first | assumption | exact Part.Sub.via (by assumption) (by decide +kernel)) : ChangesOut pl s (execPassFailed p s) := by
  unfold execPassFailed
  have hk : Changes pl s s := Changes.refl pl s
  repeat' (first
    | with_reducible exact hL
    | with_reducible exact Part.Sub.via hL (by decide)
    | with_reducible apply ChangesOut.next
    | ((try lift_lets); intro (x : State); refine Changes.via (l := pl) (s := s) (x := x) ?_ (fun hx => ?_); rotate_left; clear_value x; rotate_left; unfold x)
    | ((try lift_lets); intro x; clear_value x)
    | with_reducible assumption
    | with_reducible apply State.failPass_changes
    | with_reducible apply State.parkAfterPass_changes
    | split
    | (dsimp only))

end Sys2Proof.Machine
end

