-- ==== Sys2Proof/Laws/ChangesStartup.lean ====
section
/-!
SUPPORT. What the operations of Machine/Startup can change (Laws/Changes).
-/
namespace Sys2Proof.Machine

set_option linter.all false

variable {s0 s : State}

theorem State.bare_changes {pl : List Part} (h : Changes pl s0 s) (hL : Part.Sub resetParts pl := by first | assumption | exact Part.Sub.via (by assumption) (by decide +kernel)) : Changes pl s0 s.bare := by
  have hm : ∀ y : PageType, Part.page y ∈ pl := fun y => hL _ (List.mem_append_left _ (Part.mem_pages y))
  unfold State.bare
  refine Changes.foldl ?_ (fun u n hu => State.setF_changes hu (hm _))
  refine State.setF_changes (State.setF_changes (State.setF_changes ?_ (hm _)) (hm _)) (hm _)
  refine h.trans (fun q hq => ?_)
  cases q with
  | page y => exact absurd (hm y) hq
  | _ => first | rfl | exact absurd (hL _ (by decide +kernel)) hq

theorem State.bareUp_changes {pl : List Part} (h : Changes pl s0 s) (hL : Part.Sub resetParts pl := by first | assumption | exact Part.Sub.via (by assumption) (by decide +kernel)) : Changes pl s0 s.bareUp := by
  have hm : ∀ y : PageType, Part.page y ∈ pl := fun y => hL _ (List.mem_append_left _ (Part.mem_pages y))
  have hb : Changes pl s0 s.bare := State.bare_changes h
  unfold State.bareUp
  generalize s.bare = t at hb ⊢
  refine hb.trans (fun q hq => ?_)
  cases q with
  | page y => exact absurd (hm y) hq
  | _ => first | rfl | exact absurd (hL _ (by decide +kernel)) hq

theorem State.pinsOf_changes {pl : List Part} {s1 : State} (hk : Changes pl s0 s) (hL : Part.Sub [.page .SYS] pl := by first | assumption | exact Part.Sub.via (by assumption) (by decide +kernel)) : Changes pl s0 (State.pinsOf s s1) := by
  unfold State.pinsOf
  repeat' (first
    | with_reducible exact hL
    | with_reducible exact Part.Sub.via hL (by decide)
    | ((try lift_lets); intro (x : State); refine Changes.via (l := pl) (s := s0) (x := x) ?_ (fun hx => ?_); rotate_left; clear_value x; rotate_left; unfold x)
    | ((try lift_lets); intro x; clear_value x)
    | with_reducible assumption
    | with_reducible apply State.setF_changes
    | exact hL _ (Part.mem_elem (by rfl))
    | split
    | (dsimp only))

theorem State.bootCount_changes {pl : List Part}  (hk : Changes pl s0 s) (hL : Part.Sub [.page .SYS] pl := by first | assumption | exact Part.Sub.via (by assumption) (by decide +kernel)) : Changes pl s0 (State.bootCount s) := by
  unfold State.bootCount
  repeat' (first
    | with_reducible exact hL
    | with_reducible exact Part.Sub.via hL (by decide)
    | ((try lift_lets); intro (x : State); refine Changes.via (l := pl) (s := s0) (x := x) ?_ (fun hx => ?_); rotate_left; clear_value x; rotate_left; unfold x)
    | ((try lift_lets); intro x; clear_value x)
    | with_reducible assumption
    | with_reducible apply State.setF_changes
    | exact hL _ (Part.mem_elem (by rfl))
    | split
    | (dsimp only))

theorem State.testAbandon_changes {pl : List Part} {s1 : State} (hk : Changes pl s0 s) (hL : Part.Sub [.page .SYS, .risen, .hostOut, .hostHeld, .fwIrq, .msix] pl := by first | assumption | exact Part.Sub.via (by assumption) (by decide +kernel)) : Changes pl s0 (State.testAbandon s s1) := by
  unfold State.testAbandon
  repeat' (first
    | with_reducible exact hL
    | with_reducible exact Part.Sub.via hL (by decide)
    | ((try lift_lets); intro (x : State); refine Changes.via (l := pl) (s := s0) (x := x) ?_ (fun hx => ?_); rotate_left; clear_value x; rotate_left; unfold x)
    | ((try lift_lets); intro x; clear_value x)
    | with_reducible assumption
    | with_reducible apply State.setIrq_changes
    | with_reducible apply State.setF_changes
    | exact hL _ (Part.mem_elem (by rfl))
    | (refine hL _ (Part.mem_elem ?_); (repeat' split) <;> rfl)
    | split
    | (dsimp only))

theorem State.moduleReset_changes {pl : List Part}  (hk : Changes pl s0 s) (hL : Part.Sub (resetParts ++ [.hostOut, .fwIrq, .active, .fresh, .toActivate]) pl := by first | assumption | exact Part.Sub.via (by assumption) (by decide +kernel)) : Changes pl s0 (State.moduleReset s) := by
  unfold State.moduleReset
  repeat' (first
    | with_reducible exact hL
    | with_reducible exact Part.Sub.via hL (by decide +kernel)
    | ((try lift_lets); intro (x : State); refine Changes.via (l := pl) (s := s0) (x := x) ?_ (fun hx => ?_); rotate_left; clear_value x; rotate_left; unfold x)
    | ((try lift_lets); intro x; clear_value x)
    | with_reducible assumption
    | with_reducible apply State.testAbandon_changes
    | with_reducible apply State.bootCount_changes
    | with_reducible apply State.pinsOf_changes
    | with_reducible apply State.bareUp_changes
    | with_reducible apply State.setF_changes
    | with_reducible apply State.activateStages_changes
    | exact hL _ (Part.mem_elem (by rfl))
    | split
    | (dsimp only))

theorem State.powerOn_changes {pl : List Part}  (hk : Changes pl s0 s) (hL : Part.Sub (resetParts ++ [.active, .fresh, .toActivate]) pl := by first | assumption | exact Part.Sub.via (by assumption) (by decide +kernel)) : Changes pl s0 (State.powerOn s) := by
  unfold State.powerOn
  repeat' (first
    | with_reducible exact hL
    | with_reducible exact Part.Sub.via hL (by decide +kernel)
    | ((try lift_lets); intro (x : State); refine Changes.via (l := pl) (s := s0) (x := x) ?_ (fun hx => ?_); rotate_left; clear_value x; rotate_left; unfold x)
    | ((try lift_lets); intro x; clear_value x)
    | with_reducible assumption
    | with_reducible apply State.bootCount_changes
    | with_reducible apply State.bare_changes
    | with_reducible apply State.activateStages_changes
    | split
    | (dsimp only))

theorem execPowerLoss_changes  {pl : List Part} (hL : Part.Sub resetParts pl := by first | assumption | exact Part.Sub.via (by assumption) (by decide +kernel)) : ChangesOut pl s (execPowerLoss s) := by
  unfold execPowerLoss
  have hk : Changes pl s s := Changes.refl pl s
  repeat' (first
    | with_reducible exact hL
    | with_reducible exact Part.Sub.via hL (by decide +kernel)
    | with_reducible apply ChangesOut.next
    | ((try lift_lets); intro (x : State); refine Changes.via (l := pl) (s := s) (x := x) ?_ (fun hx => ?_); rotate_left; clear_value x; rotate_left; unfold x)
    | ((try lift_lets); intro x; clear_value x)
    | with_reducible assumption
    | with_reducible apply State.bare_changes
    | (with_reducible apply Changes.upd_dark; first | with_reducible assumption | with_reducible apply State.bare_changes | split)
    | split
    | (dsimp only))

theorem State.opening_changes {pl : List Part} {powered : Bool} (hk : Changes pl s0 s) (hL : Part.Sub [.page .SEC, .risen, .records, .hostOut, .hostHeld, .fwIrq, .msix, .mlog, .mgmtOut] pl := by first | assumption | exact Part.Sub.via (by assumption) (by decide +kernel)) : Changes pl s0 (State.opening s powered) := by
  unfold State.opening
  repeat' (first
    | with_reducible exact hL
    | with_reducible exact Part.Sub.via hL (by decide)
    | ((try lift_lets); intro (x : State); refine Changes.via (l := pl) (s := s0) (x := x) ?_ (fun hx => ?_); rotate_left; clear_value x; rotate_left; unfold x)
    | ((try lift_lets); intro x; clear_value x)
    | with_reducible assumption
    | with_reducible apply State.setIrq_changes
    | with_reducible apply State.setF_changes
    | with_reducible apply State.note_changes
    | exact hL _ (Part.mem_elem (by rfl))
    | (refine hL _ (Part.mem_elem ?_); (repeat' split) <;> rfl)
    | split
    | (dsimp only))

theorem execPowerOnReset_changes {cell : Bool} {pl : List Part} (hL : Part.Sub (resetParts ++ [.hostOut, .fwIrq, .mlog, .active, .fresh, .toActivate, .mgmtOut]) pl := by first | assumption | exact Part.Sub.via (by assumption) (by decide +kernel)) : ChangesOut pl s (execPowerOnReset cell s) := by
  unfold execPowerOnReset
  have hk : Changes pl s s := Changes.refl pl s
  repeat' (first
    | with_reducible exact hL
    | with_reducible exact Part.Sub.via hL (by decide +kernel)
    | with_reducible apply ChangesOut.next
    | ((try lift_lets); intro (x : State); refine Changes.via (l := pl) (s := s) (x := x) ?_ (fun hx => ?_); rotate_left; clear_value x; rotate_left; unfold x)
    | ((try lift_lets); intro x; clear_value x)
    | with_reducible assumption
    | with_reducible apply State.opening_changes
    | with_reducible apply State.powerOn_changes
    | split
    | (dsimp only))

theorem State.startFail_changes {pl : List Part} {cause : Nat} (hk : Changes pl s0 s) (hL : Part.Sub [.page .SYS, .risen, .records, .hostOut, .hostHeld, .fwIrq, .msix, .mlog, .mgmtOut] pl := by first | assumption | exact Part.Sub.via (by assumption) (by decide +kernel)) : Changes pl s0 (State.startFail s cause) := by
  unfold State.startFail
  repeat' (first
    | with_reducible exact hL
    | with_reducible exact Part.Sub.via hL (by decide)
    | ((try lift_lets); intro (x : State); refine Changes.via (l := pl) (s := s0) (x := x) ?_ (fun hx => ?_); rotate_left; clear_value x; rotate_left; unfold x)
    | ((try lift_lets); intro x; clear_value x)
    | with_reducible assumption
    | with_reducible apply State.setErr_changes
    | with_reducible apply State.setIrq_changes
    | with_reducible apply State.setF_changes
    | with_reducible apply State.note_changes
    | exact hL _ (Part.mem_elem (by rfl))
    | split
    | (dsimp only))

theorem execRefFailure_changes {third : Bool} {pl : List Part} (hL : Part.Sub (resetParts ++ [.hostOut, .fwIrq, .mlog, .mgmtOut]) pl := by first | assumption | exact Part.Sub.via (by assumption) (by decide +kernel)) : ChangesOut pl s (execRefFailure third s) := by
  unfold execRefFailure
  have hk : Changes pl s s := Changes.refl pl s
  repeat' (first
    | with_reducible exact hL
    | with_reducible exact Part.Sub.via hL (by decide +kernel)
    | with_reducible apply ChangesOut.next
    | ((try lift_lets); intro (x : State); refine Changes.via (l := pl) (s := s) (x := x) ?_ (fun hx => ?_); rotate_left; clear_value x; rotate_left; unfold x)
    | ((try lift_lets); intro x; clear_value x)
    | with_reducible assumption
    | with_reducible apply State.startFail_changes
    | with_reducible apply State.bare_changes
    | with_reducible apply State.mgmtKeep_changes
    | (with_reducible apply Changes.upd_dark; first | with_reducible assumption | with_reducible apply State.startFail_changes | with_reducible apply State.bare_changes | with_reducible apply State.mgmtKeep_changes | split)
    | split
    | (dsimp only))

theorem State.answer_changes {pl : List Part} {status : Nat} {content : List Byte} (hk : Changes pl s0 s) (hL : Part.Sub [.mgmtOut] pl := by first | assumption | exact Part.Sub.via (by assumption) (by decide +kernel)) : Changes pl s0 (State.answer s status content) := by
  unfold State.answer
  repeat' (first
    | with_reducible exact hL
    | with_reducible exact Part.Sub.via hL (by decide)
    | ((try lift_lets); intro (x : State); refine Changes.via (l := pl) (s := s0) (x := x) ?_ (fun hx => ?_); rotate_left; clear_value x; rotate_left; unfold x)
    | ((try lift_lets); intro x; clear_value x)
    | with_reducible assumption
    | (with_reducible apply Changes.upd_mgmtOut; first | with_reducible assumption | split)
    | split
    | (dsimp only))

theorem execModuleReset_changes {redfish admin fw : Bool} {value : W64} {pl : List Part} (hL : Part.Sub (resetParts ++ [.hostOut, .fwIrq, .active, .fresh, .toActivate, .mgmtOut]) pl := by first | assumption | exact Part.Sub.via (by assumption) (by decide +kernel)) : ChangesOut pl s (execModuleReset redfish admin fw value s) := by
  unfold execModuleReset
  have hk : Changes pl s s := Changes.refl pl s
  repeat' (first
    | with_reducible exact hL
    | with_reducible exact Part.Sub.via hL (by decide +kernel)
    | with_reducible apply ChangesOut.next
    | ((try lift_lets); intro (x : State); refine Changes.via (l := pl) (s := s) (x := x) ?_ (fun hx => ?_); rotate_left; clear_value x; rotate_left; unfold x)
    | ((try lift_lets); intro x; clear_value x)
    | with_reducible assumption
    | with_reducible apply State.answer_changes
    | with_reducible apply State.moduleReset_changes
    | with_reducible refine State.regWrite_changes ?_ ?_ (fun u hu => ?_) ?_
    | exact hL _ (Part.mem_elem (by rfl))
    | (refine hL _ (Part.mem_elem ?_); (repeat' split) <;> rfl)
    | split
    | (dsimp only))

theorem execActivationTimeout_changes  {pl : List Part} (hL : Part.Sub (resetParts ++ [.hostOut, .fwIrq, .active, .fresh, .toActivate]) pl := by first | assumption | exact Part.Sub.via (by assumption) (by decide +kernel)) : ChangesOut pl s (execActivationTimeout s) := by
  unfold execActivationTimeout
  have hk : Changes pl s s := Changes.refl pl s
  repeat' (first
    | with_reducible exact hL
    | with_reducible exact Part.Sub.via hL (by decide +kernel)
    | with_reducible apply ChangesOut.next
    | ((try lift_lets); intro (x : State); refine Changes.via (l := pl) (s := s) (x := x) ?_ (fun hx => ?_); rotate_left; clear_value x; rotate_left; unfold x)
    | ((try lift_lets); intro (x : State × _); refine Changes.via (l := pl) (s := s) (x := x.1) ?_ (fun hx => ?_); rotate_left; clear_value x; rotate_left; unfold x)
    | ((try lift_lets); intro (x : _ × State); refine Changes.via (l := pl) (s := s) (x := x.2) ?_ (fun hx => ?_); rotate_left; clear_value x; rotate_left; unfold x)
    | ((try lift_lets); intro x; clear_value x)
    | with_reducible assumption
    | with_reducible apply State.moduleReset_changes
    | (with_reducible apply Changes.upd_fresh; first | with_reducible assumption | with_reducible apply State.moduleReset_changes | split)
    | split
    | (dsimp only))

theorem State.mgmtRuns_changes {pl : List Part}  (hk : Changes pl s0 s) (hL : Part.Sub [.page .SEC, .digests, .measure] pl := by first | assumption | exact Part.Sub.via (by assumption) (by decide +kernel)) : Changes pl s0 (State.mgmtRuns s) := by
  unfold State.mgmtRuns
  repeat' (first
    | with_reducible exact hL
    | with_reducible exact Part.Sub.via hL (by decide)
    | ((try lift_lets); intro (x : State); refine Changes.via (l := pl) (s := s0) (x := x) ?_ (fun hx => ?_); rotate_left; clear_value x; rotate_left; unfold x)
    | ((try lift_lets); intro x; clear_value x)
    | with_reducible assumption
    | with_reducible apply State.setF_changes
    | with_reducible apply State.measured_changes
    | exact hL _ (Part.mem_elem (by rfl))
    | (refine hL _ (Part.mem_elem ?_); (repeat' split) <;> rfl)
    | split
    | (dsimp only))

theorem State.verifyStages_changes {pl : List Part} {l : List Nat} (hL : Part.Sub [.page .SEC, .records, .mlog, .digests, .mgmtStage, .measure, .mgmtOut] pl := by first | assumption | exact Part.Sub.via (by assumption) (by decide +kernel)) : ∀ {s : State}, Changes pl s0 s → Changes pl s0 (State.verifyStages l s).1 := by
  induction l with
  | nil => exact fun h => h
  | cons n r ih =>
    intro s h
    have hc : Changes pl s0 (s.verifyStage n).1 := State.verifyStage_changes h
    unfold State.verifyStages
    split
    · exact ih (State.mgmtRuns_changes h)
    · generalize s.verifyStage n = x at hc ⊢
      dsimp only
      split
      · exact ih hc
      · exact hc

theorem State.useToken_changes {pl : List Part}  (hk : Changes pl s0 s) (hL : Part.Sub [.page .SEC, .records, .mlog, .unlockNext, .mgmtOut] pl := by first | assumption | exact Part.Sub.via (by assumption) (by decide +kernel)) : Changes pl s0 (State.useToken s) := by
  unfold State.useToken
  repeat' (first
    | with_reducible exact hL
    | with_reducible exact Part.Sub.via hL (by decide)
    | ((try lift_lets); intro (x : State); refine Changes.via (l := pl) (s := s0) (x := x) ?_ (fun hx => ?_); rotate_left; clear_value x; rotate_left; unfold x)
    | ((try lift_lets); intro x; clear_value x)
    | with_reducible assumption
    | with_reducible apply State.setF_changes
    | with_reducible apply State.note_changes
    | (with_reducible apply Changes.upd_unlockNext; first | with_reducible assumption | with_reducible apply State.setF_changes | with_reducible apply State.note_changes | split)
    | exact hL _ (Part.mem_elem (by rfl))
    | (refine hL _ (Part.mem_elem ?_); (repeat' split) <;> rfl)
    | split
    | (dsimp only))

theorem State.stepDone_changes {pl : List Part} {n : Nat} (hk : Changes pl s0 s) (hL : Part.Sub [.page .SYS] pl := by first | assumption | exact Part.Sub.via (by assumption) (by decide +kernel)) : Changes pl s0 (State.stepDone s n) := by
  unfold State.stepDone
  repeat' (first
    | with_reducible exact hL
    | with_reducible exact Part.Sub.via hL (by decide)
    | ((try lift_lets); intro (x : State); refine Changes.via (l := pl) (s := s0) (x := x) ?_ (fun hx => ?_); rotate_left; clear_value x; rotate_left; unfold x)
    | ((try lift_lets); intro x; clear_value x)
    | with_reducible assumption
    | with_reducible apply State.setF_changes
    | exact hL _ (Part.mem_elem (by rfl))
    | split
    | (dsimp only))

theorem State.bootStages_changes {pl : List Part} {puf : Bool} (hk : Changes pl s0 s) (hL : Part.Sub [.page .SYS, .page .SEC, .risen, .records, .hostOut, .hostHeld, .fwIrq, .msix, .mlog, .digests, .mgmtStage, .measure, .unlockNext, .mgmtOut] pl := by first | assumption | exact Part.Sub.via (by assumption) (by decide +kernel)) : Changes pl s0 (State.bootStages s puf) := by
  unfold State.bootStages
  repeat' (first
    | with_reducible exact hL
    | with_reducible exact Part.Sub.via hL (by decide)
    | ((try lift_lets); intro (x : State); refine Changes.via (l := pl) (s := s0) (x := x) ?_ (fun hx => ?_); rotate_left; clear_value x; rotate_left; unfold x)
    | ((try lift_lets); intro (x : State × _); refine Changes.via (l := pl) (s := s0) (x := x.1) ?_ (fun hx => ?_); rotate_left; clear_value x; rotate_left; unfold x)
    | ((try lift_lets); intro (x : _ × State); refine Changes.via (l := pl) (s := s0) (x := x.2) ?_ (fun hx => ?_); rotate_left; clear_value x; rotate_left; unfold x)
    | ((try lift_lets); intro x; clear_value x)
    | with_reducible assumption
    | with_reducible apply State.stepDone_changes
    | with_reducible apply State.useToken_changes
    | with_reducible refine Changes.of_fst (State.verifyStages_changes ?_ ?_) (by assumption)
    | with_reducible apply State.verifyStages_changes
    | with_reducible apply State.startFail_changes
    | split
    | (dsimp only))

theorem State.bistField_changes {pl : List Part} {t : FieldTest} (hk : Changes pl s0 s) (hL : Part.Sub [.fields, .records] pl := by first | assumption | exact Part.Sub.via (by assumption) (by decide +kernel)) : Changes pl s0 (State.bistField s t) := by
  unfold State.bistField
  repeat' (first
    | with_reducible exact hL
    | with_reducible exact Part.Sub.via hL (by decide)
    | ((try lift_lets); intro (x : State); refine Changes.via (l := pl) (s := s0) (x := x) ?_ (fun hx => ?_); rotate_left; clear_value x; rotate_left; unfold x)
    | ((try lift_lets); intro (x : State × _); refine Changes.via (l := pl) (s := s0) (x := x.1) ?_ (fun hx => ?_); rotate_left; clear_value x; rotate_left; unfold x)
    | ((try lift_lets); intro (x : _ × State); refine Changes.via (l := pl) (s := s0) (x := x.2) ?_ (fun hx => ?_); rotate_left; clear_value x; rotate_left; unfold x)
    | ((try lift_lets); intro x; clear_value x)
    | with_reducible assumption
    | with_reducible apply State.raise_changes
    | with_reducible apply State.setField_changes
    | with_reducible refine Changes.foldl ?_ (fun u x hu => ?_)
    | with_reducible refine Changes.foldl_fst ?_ (fun u x hu => ?_)
    | split
    | (dsimp only))

theorem State.testFence_changes {pl : List Part} {a : TileAddr} (hk : Changes pl s0 s) (hL : Part.Sub [.fields] pl := by first | assumption | exact Part.Sub.via (by assumption) (by decide +kernel)) : Changes pl s0 (State.testFence s a) := by
  unfold State.testFence
  repeat' (first
    | with_reducible exact hL
    | with_reducible exact Part.Sub.via hL (by decide)
    | ((try lift_lets); intro (x : State); refine Changes.via (l := pl) (s := s0) (x := x) ?_ (fun hx => ?_); rotate_left; clear_value x; rotate_left; unfold x)
    | ((try lift_lets); intro x; clear_value x)
    | with_reducible assumption
    | with_reducible apply State.setField_changes
    | split
    | (dsimp only))

theorem State.crossPair_changes {pl : List Part} {differ : List TileAddr} {p : FieldAddr × FieldAddr} (hk : Changes pl s0 s) (hL : Part.Sub [.page .CWY, .fields, .records] pl := by first | assumption | exact Part.Sub.via (by assumption) (by decide +kernel)) : Changes pl s0 (State.crossPair s differ p) := by
  unfold State.crossPair
  repeat' (first
    | with_reducible exact hL
    | with_reducible exact Part.Sub.via hL (by decide)
    | ((try lift_lets); intro (x : State); refine Changes.via (l := pl) (s := s0) (x := x) ?_ (fun hx => ?_); rotate_left; clear_value x; rotate_left; unfold x)
    | ((try lift_lets); intro x; clear_value x)
    | with_reducible assumption
    | with_reducible apply State.testFence_changes
    | with_reducible apply State.raise_changes
    | with_reducible apply State.setReg_changes
    | with_reducible refine Changes.foldl ?_ (fun u x hu => ?_)
    | exact hL _ (Part.mem_elem (by rfl))
    | (refine hL _ (Part.mem_elem ?_); (repeat' split) <;> rfl)
    | split
    | (dsimp only))

theorem State.selfTest_changes {pl : List Part} {tests : List FieldTest} {differ : List TileAddr} {ports : List Nat} (hk : Changes pl s0 s) (hL : Part.Sub [.page .CWY, .page .SYS, .fields, .records, .cwyFailed] pl := by first | assumption | exact Part.Sub.via (by assumption) (by decide +kernel)) : Changes pl s0 (State.selfTest s tests differ ports) := by
  unfold State.selfTest
  repeat' (first
    | with_reducible exact hL
    | with_reducible exact Part.Sub.via hL (by decide)
    | ((try lift_lets); intro (x : State); refine Changes.via (l := pl) (s := s0) (x := x) ?_ (fun hx => ?_); rotate_left; clear_value x; rotate_left; unfold x)
    | ((try lift_lets); intro x; clear_value x)
    | with_reducible assumption
    | with_reducible apply State.crossPair_changes
    | with_reducible apply State.bistField_changes
    | with_reducible apply State.stepDone_changes
    | with_reducible refine Changes.foldl ?_ (fun u x hu => ?_)
    | (with_reducible apply Changes.upd_cwyFailed; first | with_reducible assumption | with_reducible apply State.crossPair_changes | with_reducible apply State.bistField_changes | with_reducible apply State.stepDone_changes | split)
    | split
    | (dsimp only))

theorem State.applyRetained_changes {pl : List Part} {e : Retained} (hk : Changes pl s0 s) (hL : Part.Sub [.fields] pl := by first | assumption | exact Part.Sub.via (by assumption) (by decide +kernel)) : Changes pl s0 (State.applyRetained s e) := by
  unfold State.applyRetained
  repeat' (first
    | with_reducible exact hL
    | with_reducible exact Part.Sub.via hL (by decide)
    | ((try lift_lets); intro (x : State); refine Changes.via (l := pl) (s := s0) (x := x) ?_ (fun hx => ?_); rotate_left; clear_value x; rotate_left; unfold x)
    | ((try lift_lets); intro x; clear_value x)
    | with_reducible assumption
    | with_reducible apply State.setField_changes
    | split
    | (dsimp only))

theorem State.takeIn_changes {pl : List Part} {l : List FieldAddr} (hL : Part.Sub [.fields] pl := by first | assumption | exact Part.Sub.via (by assumption) (by decide +kernel)) :
    ∀ {m : List (Nat × BitVec 2)} {s : State}, Changes pl s0 s → Changes pl s0 (State.takeIn l m s).1 := by
  induction l with
  | nil => exact fun h => h
  | cons f r ih =>
    intro m s h
    unfold State.takeIn
    dsimp only
    split
    · exact ih h
    · exact ih (State.setField_changes h)

theorem State.bindPlane_changes {pl : List Part} {p : Fin 2} (hk : Changes pl s0 s) (hL : Part.Sub [.page .FPW, .fields, .slotOf] pl := by first | assumption | exact Part.Sub.via (by assumption) (by decide +kernel)) : Changes pl s0 (State.bindPlane s p) := by
  unfold State.bindPlane
  repeat' (first
    | with_reducible exact hL
    | with_reducible exact Part.Sub.via hL (by decide)
    | ((try lift_lets); intro (x : State); refine Changes.via (l := pl) (s := s0) (x := x) ?_ (fun hx => ?_); rotate_left; clear_value x; rotate_left; unfold x)
    | ((try lift_lets); intro (x : State × _); refine Changes.via (l := pl) (s := s0) (x := x.1) ?_ (fun hx => ?_); rotate_left; clear_value x; rotate_left; unfold x)
    | ((try lift_lets); intro (x : _ × State); refine Changes.via (l := pl) (s := s0) (x := x.2) ?_ (fun hx => ?_); rotate_left; clear_value x; rotate_left; unfold x)
    | ((try lift_lets); intro x; clear_value x)
    | with_reducible assumption
    | with_reducible refine Changes.of_fst (State.takeIn_changes ?_ ?_) (by assumption)
    | with_reducible apply State.takeIn_changes
    | with_reducible apply State.setField_changes
    | with_reducible apply State.setF_changes
    | with_reducible refine Changes.foldl ?_ (fun u x hu => ?_)
    | with_reducible refine Changes.foldl_fst ?_ (fun u x hu => ?_)
    | (with_reducible apply Changes.upd_slotOf; first | with_reducible assumption | with_reducible refine Changes.of_fst (State.takeIn_changes ?_ ?_) (by assumption) | with_reducible apply State.takeIn_changes | with_reducible apply State.setField_changes | with_reducible apply State.setF_changes | split)
    | exact hL _ (Part.mem_elem (by rfl))
    | split
    | (dsimp only))

theorem State.bootDigest_changes {pl : List Part}  (hk : Changes pl s0 s) (hL : Part.Sub [.page .FLT] pl := by first | assumption | exact Part.Sub.via (by assumption) (by decide +kernel)) : Changes pl s0 (State.bootDigest s) := by
  unfold State.bootDigest
  repeat' (first
    | with_reducible exact hL
    | with_reducible exact Part.Sub.via hL (by decide)
    | ((try lift_lets); intro (x : State); refine Changes.via (l := pl) (s := s0) (x := x) ?_ (fun hx => ?_); rotate_left; clear_value x; rotate_left; unfold x)
    | ((try lift_lets); intro x; clear_value x)
    | with_reducible assumption
    | with_reducible apply State.setF_changes
    | with_reducible refine Changes.foldl ?_ (fun u x hu => ?_)
    | exact hL _ (Part.mem_elem (by rfl))
    | split
    | (dsimp only))

theorem State.mergeMaps_changes {pl : List Part}  (hk : Changes pl s0 s) (hL : Part.Sub [.page .FPW, .page .FLT, .page .SYS, .fields, .slotOf] pl := by first | assumption | exact Part.Sub.via (by assumption) (by decide +kernel)) : Changes pl s0 (State.mergeMaps s) := by
  unfold State.mergeMaps
  repeat' (first
    | with_reducible exact hL
    | with_reducible exact Part.Sub.via hL (by decide)
    | ((try lift_lets); intro (x : State); refine Changes.via (l := pl) (s := s0) (x := x) ?_ (fun hx => ?_); rotate_left; clear_value x; rotate_left; unfold x)
    | ((try lift_lets); intro x; clear_value x)
    | with_reducible assumption
    | with_reducible apply State.bootDigest_changes
    | with_reducible apply State.bindPlane_changes
    | with_reducible apply State.applyRetained_changes
    | with_reducible apply State.stepDone_changes
    | with_reducible apply State.selectAll_changes
    | with_reducible refine Changes.foldl ?_ (fun u x hu => ?_)
    | split
    | (dsimp only))

theorem State.trainStacks_changes {pl : List Part} {p : Fin 2} {failed : List Nat} (hk : Changes pl s0 s) (hL : Part.Sub [.page .EMP, .page .HBM] pl := by first | assumption | exact Part.Sub.via (by assumption) (by decide +kernel)) : Changes pl s0 (State.trainStacks s p failed) := by
  unfold State.trainStacks
  repeat' (first
    | with_reducible exact hL
    | with_reducible exact Part.Sub.via hL (by decide)
    | ((try lift_lets); intro (x : State); refine Changes.via (l := pl) (s := s0) (x := x) ?_ (fun hx => ?_); rotate_left; clear_value x; rotate_left; unfold x)
    | ((try lift_lets); intro x; clear_value x)
    | with_reducible assumption
    | with_reducible apply State.setF_changes
    | with_reducible refine Changes.foldl ?_ (fun u x hu => ?_)
    | exact hL _ (Part.mem_elem (by rfl))
    | (refine hL _ (Part.mem_elem ?_); (repeat' split) <;> rfl)
    | split
    | (dsimp only))

theorem State.trainLinks_changes {pl : List Part} {failed : List Nat} {link : W64} (hk : Changes pl s0 s) (hL : Part.Sub [.page .HIF, .page .BRG, .page .EMP, .page .HBM, .page .VPT, .page .SYS, .bridgeTrain] pl := by first | assumption | exact Part.Sub.via (by assumption) (by decide +kernel)) : Changes pl s0 (State.trainLinks s failed link) := by
  unfold State.trainLinks
  repeat' (first
    | with_reducible exact hL
    | with_reducible exact Part.Sub.via hL (by decide)
    | ((try lift_lets); intro (x : State); refine Changes.via (l := pl) (s := s0) (x := x) ?_ (fun hx => ?_); rotate_left; clear_value x; rotate_left; unfold x)
    | ((try lift_lets); intro x; clear_value x)
    | with_reducible assumption
    | with_reducible apply State.trainStacks_changes
    | with_reducible apply State.stepDone_changes
    | with_reducible apply State.setF_changes
    | with_reducible apply State.setReg_changes
    | with_reducible refine Changes.foldl ?_ (fun u x hu => ?_)
    | (with_reducible apply Changes.upd_bridgeTrain; first | with_reducible assumption | with_reducible apply State.trainStacks_changes | with_reducible apply State.stepDone_changes | with_reducible apply State.setF_changes | with_reducible apply State.setReg_changes | split)
    | exact hL _ (Part.mem_elem (by rfl))
    | (refine hL _ (Part.mem_elem ?_); (repeat' split) <;> rfl)
    | split
    | (dsimp only))

theorem State.addUnavail_changes {pl : List Part}  (hk : Changes pl s0 s) (hL : Part.Sub [.page .FLT, .free] pl := by first | assumption | exact Part.Sub.via (by assumption) (by decide +kernel)) : Changes pl s0 (State.addUnavail s) := by
  unfold State.addUnavail
  repeat' (first
    | with_reducible exact hL
    | with_reducible exact Part.Sub.via hL (by decide)
    | ((try lift_lets); intro (x : State); refine Changes.via (l := pl) (s := s0) (x := x) ?_ (fun hx => ?_); rotate_left; clear_value x; rotate_left; unfold x)
    | ((try lift_lets); intro (x : State × _); refine Changes.via (l := pl) (s := s0) (x := x.1) ?_ (fun hx => ?_); rotate_left; clear_value x; rotate_left; unfold x)
    | ((try lift_lets); intro (x : _ × State); refine Changes.via (l := pl) (s := s0) (x := x.2) ?_ (fun hx => ?_); rotate_left; clear_value x; rotate_left; unfold x)
    | ((try lift_lets); intro x; clear_value x)
    | with_reducible assumption
    | with_reducible refine Changes.of_snd (State.freeBits_changes ?_ ?_) (by assumption)
    | with_reducible apply State.freeBits_changes
    | with_reducible apply State.setF_changes
    | exact hL _ (Part.mem_elem (by rfl))
    | split
    | (dsimp only))

theorem State.makeReady_changes {pl : List Part} {secs : Nat} (hk : Changes pl s0 s) (hL : Part.Sub [.page .DIR, .page .SEN, .page .MESH, .page .FLT, .page .SYS, .risen, .hostOut, .hostHeld, .fwIrq, .msix, .fresh, .free] pl := by first | assumption | exact Part.Sub.via (by assumption) (by decide +kernel)) : Changes pl s0 (State.makeReady s secs) := by
  unfold State.makeReady
  repeat' (first
    | with_reducible exact hL
    | with_reducible exact Part.Sub.via hL (by decide)
    | ((try lift_lets); intro (x : State); refine Changes.via (l := pl) (s := s0) (x := x) ?_ (fun hx => ?_); rotate_left; clear_value x; rotate_left; unfold x)
    | ((try lift_lets); intro x; clear_value x)
    | with_reducible assumption
    | with_reducible apply State.addUnavail_changes
    | with_reducible apply State.bootDigest_changes
    | with_reducible apply State.stepDone_changes
    | with_reducible apply State.publishPlane_changes
    | with_reducible apply State.setIrq_changes
    | with_reducible apply State.setF_changes
    | (with_reducible apply Changes.upd_fresh; first | with_reducible assumption | with_reducible apply State.addUnavail_changes | with_reducible apply State.bootDigest_changes | with_reducible apply State.stepDone_changes | with_reducible apply State.publishPlane_changes | with_reducible apply State.setIrq_changes | with_reducible apply State.setF_changes | split)
    | exact hL _ (Part.mem_elem (by rfl))
    | split
    | (dsimp only))

theorem execStartupStep_changes {ok : Bool} {tests : List FieldTest} {differ : List TileAddr} {ports badStacks : List Nat} {link : W64} {secs : Nat} {pl : List Part} (hL : Part.Sub [.page .DIR, .page .HIF, .page .BRG, .page .CWY, .page .SEN, .page .EMP, .page .HBM, .page .VPT, .page .MESH, .page .FPW, .page .FLT, .page .SYS, .page .SEC, .risen, .fields, .slotOf, .records, .hostOut, .hostHeld, .fwIrq, .msix, .bridgeTrain, .mlog, .fresh, .digests, .mgmtStage, .cwyFailed, .measure, .unlockNext, .mgmtOut, .free] pl := by first | assumption | exact Part.Sub.via (by assumption) (by decide +kernel)) : ChangesOut pl s (execStartupStep ok tests differ ports badStacks link secs s) := by
  unfold execStartupStep
  have hk : Changes pl s s := Changes.refl pl s
  repeat' (first
    | with_reducible exact hL
    | with_reducible exact Part.Sub.via hL (by decide)
    | with_reducible apply ChangesOut.next
    | ((try lift_lets); intro (x : State); refine Changes.via (l := pl) (s := s) (x := x) ?_ (fun hx => ?_); rotate_left; clear_value x; rotate_left; unfold x)
    | ((try lift_lets); intro x; clear_value x)
    | with_reducible assumption
    | with_reducible apply State.makeReady_changes
    | with_reducible apply State.trainLinks_changes
    | with_reducible apply State.mergeMaps_changes
    | with_reducible apply State.selfTest_changes
    | with_reducible apply State.bootStages_changes
    | with_reducible apply State.stepDone_changes
    | with_reducible apply State.startFail_changes
    | split
    | (dsimp only))

theorem State.pinRecord_changes {pl : List Part} {sev : Nat} (hk : Changes pl s0 s) (hL : Part.Sub [.mlog, .mgmtOut] pl := by first | assumption | exact Part.Sub.via (by assumption) (by decide +kernel)) : Changes pl s0 (State.pinRecord s sev) := by
  unfold State.pinRecord
  repeat' (first
    | with_reducible exact hL
    | with_reducible exact Part.Sub.via hL (by decide)
    | ((try lift_lets); intro (x : State); refine Changes.via (l := pl) (s := s0) (x := x) ?_ (fun hx => ?_); rotate_left; clear_value x; rotate_left; unfold x)
    | ((try lift_lets); intro x; clear_value x)
    | with_reducible assumption
    | with_reducible apply State.mgmtKeep_changes
    | split
    | (dsimp only))

theorem State.pinSet_changes {pl : List Part} {pin : Fld} {v : Nat} (hk : Changes pl s0 s) (hm : Part.page pin.typ ∈ pl := by first | assumption | exact Part.Sub.mem (by assumption) (Part.mem_elem (by rfl))) (hL : Part.Sub [.page .SYS, .risen, .hostOut, .hostHeld, .fwIrq, .msix] pl := by first | assumption | exact Part.Sub.via (by assumption) (by decide +kernel)) : Changes pl s0 (State.pinSet s pin v) := by
  unfold State.pinSet
  repeat' (first
    | with_reducible exact hL
    | with_reducible exact Part.Sub.via hL (by decide)
    | ((try lift_lets); intro (x : State); refine Changes.via (l := pl) (s := s0) (x := x) ?_ (fun hx => ?_); rotate_left; clear_value x; rotate_left; unfold x)
    | ((try lift_lets); intro x; clear_value x)
    | with_reducible assumption
    | with_reducible apply State.setIrq_changes
    | with_reducible apply State.setF_changes
    | exact hm
    | exact hL _ (Part.mem_elem (by rfl))
    | split
    | (dsimp only))

theorem State.unload_changes {pl : List Part} (h : Changes pl s0 s) (hL : Part.Sub resetParts pl := by first | assumption | exact Part.Sub.via (by assumption) (by decide +kernel)) : Changes pl s0 s.unload := by
  have hm : ∀ y : PageType, Part.page y ∈ pl := fun y => hL _ (List.mem_append_left _ (Part.mem_pages y))
  have hb : Changes pl s0 s.bareUp := State.bareUp_changes h
  unfold State.unload
  generalize s.bareUp = t at hb ⊢
  refine hb.trans (fun q hq => ?_)
  cases q with
  | page y => exact absurd (hm y) hq
  | _ => first | rfl | exact absurd (hL _ (by decide +kernel)) hq

theorem State.powerOf_changes {pl : List Part} {s1 : State} (h : Changes pl s0 s) (hL : Part.Sub (allPages ++ [.capBelow, .limQuiet, .coolCap, .coolLow, .coolWait]) pl := by first | assumption | exact Part.Sub.via (by assumption) (by decide +kernel)) : Changes pl s0 (s.powerOf s1) := by
  have hm : ∀ y : PageType, Part.page y ∈ pl := fun y => hL _ (List.mem_append_left _ (Part.mem_pages y))
  refine h.trans (fun q hq => ?_)
  cases q with
  | page y => exact absurd (hm y) hq
  | _ => first | rfl | exact absurd (hL _ (by decide +kernel)) hq

theorem execRcEnableLow_changes  {pl : List Part} (hL : Part.Sub (resetParts ++ [.hostOut, .fwIrq, .mlog, .mgmtOut]) pl := by first | assumption | exact Part.Sub.via (by assumption) (by decide +kernel)) : ChangesOut pl s (execRcEnableLow s) := by
  unfold execRcEnableLow
  have hk : Changes pl s s := Changes.refl pl s
  repeat' (first
    | with_reducible exact hL
    | with_reducible exact Part.Sub.via hL (by decide +kernel)
    | with_reducible apply ChangesOut.next
    | ((try lift_lets); intro (x : State); refine Changes.via (l := pl) (s := s) (x := x) ?_ (fun hx => ?_); rotate_left; clear_value x; rotate_left; unfold x)
    | ((try lift_lets); intro x; clear_value x)
    | with_reducible assumption
    | with_reducible apply State.abortStep_changes
    | with_reducible apply State.powerOf_changes
    | with_reducible apply State.unload_changes
    | with_reducible apply State.pinSet_changes
    | with_reducible apply State.pinRecord_changes
    | with_reducible apply State.stepDone_changes
    | (with_reducible apply Changes.upd_sleeping; first | with_reducible assumption | with_reducible apply State.abortStep_changes | with_reducible apply State.powerOf_changes | with_reducible apply State.unload_changes | with_reducible apply State.pinSet_changes | with_reducible apply State.pinRecord_changes | with_reducible apply State.stepDone_changes | split)
    | exact hL _ (Part.mem_elem (by rfl))
    | (refine hL _ (Part.mem_elem ?_); (repeat' split) <;> rfl)
    | split
    | (dsimp only))

theorem State.wakeAll_changes {pl : List Part}  (hk : Changes pl s0 s) (hL : Part.Sub [.page .PWR, .page .FPW, .page .SYS, .risen, .hostOut, .hostHeld, .fwIrq, .msix] pl := by first | assumption | exact Part.Sub.via (by assumption) (by decide +kernel)) : Changes pl s0 (State.wakeAll s) := by
  unfold State.wakeAll
  repeat' (first
    | with_reducible exact hL
    | with_reducible exact Part.Sub.via hL (by decide)
    | ((try lift_lets); intro (x : State); refine Changes.via (l := pl) (s := s0) (x := x) ?_ (fun hx => ?_); rotate_left; clear_value x; rotate_left; unfold x)
    | ((try lift_lets); intro x; clear_value x)
    | with_reducible assumption
    | with_reducible apply State.startWake_changes
    | with_reducible apply State.setF_changes
    | with_reducible apply State.readyAgain_changes
    | with_reducible refine Changes.foldl ?_ (fun u x hu => ?_)
    | exact hL _ (Part.mem_elem (by rfl))
    | (refine hL _ (Part.mem_elem ?_); (repeat' split) <;> rfl)
    | split
    | (dsimp only))

theorem execRcEnableHigh_changes  {pl : List Part} (hL : Part.Sub [.page .PWR, .page .FPW, .page .SYS, .risen, .hostOut, .hostHeld, .fwIrq, .msix, .sleeping] pl := by first | assumption | exact Part.Sub.via (by assumption) (by decide +kernel)) : ChangesOut pl s (execRcEnableHigh s) := by
  unfold execRcEnableHigh
  have hk : Changes pl s s := Changes.refl pl s
  repeat' (first
    | with_reducible exact hL
    | with_reducible exact Part.Sub.via hL (by decide)
    | with_reducible apply ChangesOut.next
    | ((try lift_lets); intro (x : State); refine Changes.via (l := pl) (s := s) (x := x) ?_ (fun hx => ?_); rotate_left; clear_value x; rotate_left; unfold x)
    | ((try lift_lets); intro x; clear_value x)
    | with_reducible assumption
    | with_reducible apply State.wakeAll_changes
    | with_reducible apply State.pinSet_changes
    | (with_reducible apply Changes.upd_sleeping; first | with_reducible assumption | with_reducible apply State.wakeAll_changes | with_reducible apply State.pinSet_changes | split)
    | exact hL _ (Part.mem_elem (by rfl))
    | (refine hL _ (Part.mem_elem ?_); (repeat' split) <;> rfl)
    | split
    | (dsimp only))

theorem execRcInterlockLow_changes  {pl : List Part} (hL : Part.Sub (resetParts ++ [.hostOut, .fwIrq, .mlog, .mgmtOut]) pl := by first | assumption | exact Part.Sub.via (by assumption) (by decide +kernel)) : ChangesOut pl s (execRcInterlockLow s) := by
  unfold execRcInterlockLow
  have hk : Changes pl s s := Changes.refl pl s
  repeat' (first
    | with_reducible exact hL
    | with_reducible exact Part.Sub.via hL (by decide +kernel)
    | with_reducible apply ChangesOut.next
    | ((try lift_lets); intro (x : State); refine Changes.via (l := pl) (s := s) (x := x) ?_ (fun hx => ?_); rotate_left; clear_value x; rotate_left; unfold x)
    | ((try lift_lets); intro x; clear_value x)
    | with_reducible assumption
    | with_reducible apply State.unload_changes
    | with_reducible apply State.pinSet_changes
    | with_reducible apply State.pinRecord_changes
    | with_reducible apply State.setIrq_changes
    | with_reducible apply State.setF_changes
    | exact hL _ (Part.mem_elem (by rfl))
    | (refine hL _ (Part.mem_elem ?_); (repeat' split) <;> rfl)
    | split
    | (dsimp only))

theorem execRcInterlockHigh_changes  {pl : List Part} (hL : Part.Sub (resetParts ++ [.hostOut, .fwIrq, .active, .fresh, .toActivate]) pl := by first | assumption | exact Part.Sub.via (by assumption) (by decide +kernel)) : ChangesOut pl s (execRcInterlockHigh s) := by
  unfold execRcInterlockHigh
  have hk : Changes pl s s := Changes.refl pl s
  repeat' (first
    | with_reducible exact hL
    | with_reducible exact Part.Sub.via hL (by decide +kernel)
    | with_reducible apply ChangesOut.next
    | ((try lift_lets); intro (x : State); refine Changes.via (l := pl) (s := s) (x := x) ?_ (fun hx => ?_); rotate_left; clear_value x; rotate_left; unfold x)
    | ((try lift_lets); intro x; clear_value x)
    | with_reducible assumption
    | with_reducible apply State.pinSet_changes
    | with_reducible apply State.moduleReset_changes
    | exact hL _ (Part.mem_elem (by rfl))
    | (refine hL _ (Part.mem_elem ?_); (repeat' split) <;> rfl)
    | split
    | (dsimp only))

theorem execPinGlitch_changes {interlock : Bool} {pl : List Part} (hL : Part.Sub [.page .SYS, .risen] pl := by first | assumption | exact Part.Sub.via (by assumption) (by decide +kernel)) : ChangesOut pl s (execPinGlitch interlock s) := by
  unfold execPinGlitch
  have hk : Changes pl s s := Changes.refl pl s
  repeat' (first
    | with_reducible exact hL
    | with_reducible exact Part.Sub.via hL (by decide)
    | with_reducible apply ChangesOut.next
    | ((try lift_lets); intro (x : State); refine Changes.via (l := pl) (s := s) (x := x) ?_ (fun hx => ?_); rotate_left; clear_value x; rotate_left; unfold x)
    | ((try lift_lets); intro x; clear_value x)
    | with_reducible assumption
    | with_reducible apply State.count_changes
    | with_reducible apply State.raiseF_changes
    | exact hL _ (Part.mem_elem (by rfl))
    | (refine hL _ (Part.mem_elem ?_); (repeat' split) <;> rfl)
    | split
    | (dsimp only))

end Sys2Proof.Machine
end

