-- ==== Sys2Proof/Laws/ChangesSecurity.lean ====
section
/-!
SUPPORT. What the operations of Machine/Security can change (Laws/Changes).
-/
namespace Sys2Proof.Machine

set_option linter.all false

variable {s0 s : State}

theorem State.doeAnswer_changes {pl : List Part} {b : List Byte} (hk : Changes pl s0 s) (hL : Part.Sub [.doe] pl := by first | assumption | exact Part.Sub.via (by assumption) (by decide +kernel)) : Changes pl s0 (State.doeAnswer s b) := by
  unfold State.doeAnswer
  repeat' (first
    | with_reducible exact hL
    | with_reducible exact Part.Sub.via hL (by decide)
    | ((try lift_lets); intro (x : State); refine Changes.via (l := pl) (s := s0) (x := x) ?_ (fun hx => ?_); rotate_left; clear_value x; rotate_left; unfold x)
    | ((try lift_lets); intro x; clear_value x)
    | with_reducible assumption
    | (with_reducible apply Changes.upd_doe; first | with_reducible assumption | split)
    | split
    | (dsimp only))

theorem State.doeStatus_changes {pl : List Part} {code status : Nat} (hk : Changes pl s0 s) (hL : Part.Sub [.doe] pl := by first | assumption | exact Part.Sub.via (by assumption) (by decide +kernel)) : Changes pl s0 (State.doeStatus s code status) := by
  unfold State.doeStatus
  repeat' (first
    | with_reducible exact hL
    | with_reducible exact Part.Sub.via hL (by decide)
    | ((try lift_lets); intro (x : State); refine Changes.via (l := pl) (s := s0) (x := x) ?_ (fun hx => ?_); rotate_left; clear_value x; rotate_left; unfold x)
    | ((try lift_lets); intro x; clear_value x)
    | with_reducible assumption
    | with_reducible apply State.doeAnswer_changes
    | split
    | (dsimp only))

theorem execDoeDiscovery_changes {index : Nat} {pl : List Part} (hL : Part.Sub [.doe] pl := by first | assumption | exact Part.Sub.via (by assumption) (by decide +kernel)) : ChangesOut pl s (execDoeDiscovery index s) := by
  unfold execDoeDiscovery
  have hk : Changes pl s s := Changes.refl pl s
  repeat' (first
    | with_reducible exact hL
    | with_reducible exact Part.Sub.via hL (by decide)
    | with_reducible apply ChangesOut.next
    | ((try lift_lets); intro (x : State); refine Changes.via (l := pl) (s := s) (x := x) ?_ (fun hx => ?_); rotate_left; clear_value x; rotate_left; unfold x)
    | ((try lift_lets); intro x; clear_value x)
    | with_reducible assumption
    | with_reducible apply State.doeAnswer_changes
    | split
    | (dsimp only))

theorem execDoeAbort_changes  {pl : List Part} (hL : Part.Sub [.doe] pl := by first | assumption | exact Part.Sub.via (by assumption) (by decide +kernel)) : ChangesOut pl s (execDoeAbort s) := by
  unfold execDoeAbort
  have hk : Changes pl s s := Changes.refl pl s
  repeat' (first
    | with_reducible exact hL
    | with_reducible exact Part.Sub.via hL (by decide)
    | with_reducible apply ChangesOut.next
    | ((try lift_lets); intro (x : State); refine Changes.via (l := pl) (s := s) (x := x) ?_ (fun hx => ?_); rotate_left; clear_value x; rotate_left; unfold x)
    | ((try lift_lets); intro x; clear_value x)
    | with_reducible assumption
    | (with_reducible apply Changes.upd_doe; first | with_reducible assumption | split)
    | split
    | (dsimp only))

theorem execGetReport_changes {request : List Byte} {busy : Bool} {pl : List Part} (hL : Part.Sub [.page .SEC, .doe] pl := by first | assumption | exact Part.Sub.via (by assumption) (by decide +kernel)) : ChangesOut pl s (execGetReport request busy s) := by
  unfold execGetReport
  have hk : Changes pl s s := Changes.refl pl s
  repeat' (first
    | with_reducible exact hL
    | with_reducible exact Part.Sub.via hL (by decide)
    | with_reducible apply ChangesOut.next
    | ((try lift_lets); intro (x : State); refine Changes.via (l := pl) (s := s) (x := x) ?_ (fun hx => ?_); rotate_left; clear_value x; rotate_left; unfold x)
    | ((try lift_lets); intro x; clear_value x)
    | with_reducible assumption
    | with_reducible apply State.doeStatus_changes
    | with_reducible apply State.doeAnswer_changes
    | with_reducible apply State.count_changes
    | exact hL _ (Part.mem_elem (by rfl))
    | (refine hL _ (Part.mem_elem ?_); (repeat' split) <;> rfl)
    | split
    | (dsimp only))

theorem execGetCerts_changes {request : List Byte} {pl : List Part} (hL : Part.Sub [.doe] pl := by first | assumption | exact Part.Sub.via (by assumption) (by decide +kernel)) : ChangesOut pl s (execGetCerts request s) := by
  unfold execGetCerts
  have hk : Changes pl s s := Changes.refl pl s
  repeat' (first
    | with_reducible exact hL
    | with_reducible exact Part.Sub.via hL (by decide)
    | with_reducible apply ChangesOut.next
    | ((try lift_lets); intro (x : State); refine Changes.via (l := pl) (s := s) (x := x) ?_ (fun hx => ?_); rotate_left; clear_value x; rotate_left; unfold x)
    | ((try lift_lets); intro x; clear_value x)
    | with_reducible assumption
    | with_reducible apply State.doeStatus_changes
    | with_reducible apply State.doeAnswer_changes
    | split
    | (dsimp only))

theorem execEnclosureOpening_changes  {pl : List Part} (hL : Part.Sub [.page .SEC, .risen, .records, .hostOut, .hostHeld, .fwIrq, .msix, .mlog, .mgmtOut] pl := by first | assumption | exact Part.Sub.via (by assumption) (by decide +kernel)) : ChangesOut pl s (execEnclosureOpening s) := by
  unfold execEnclosureOpening
  have hk : Changes pl s s := Changes.refl pl s
  repeat' (first
    | with_reducible exact hL
    | with_reducible exact Part.Sub.via hL (by decide)
    | with_reducible apply ChangesOut.next
    | ((try lift_lets); intro (x : State); refine Changes.via (l := pl) (s := s) (x := x) ?_ (fun hx => ?_); rotate_left; clear_value x; rotate_left; unfold x)
    | ((try lift_lets); intro x; clear_value x)
    | with_reducible assumption
    | with_reducible apply State.opening_changes
    | split
    | (dsimp only))

theorem execDebugPortAccess_changes  {pl : List Part} (hL : Part.Sub [.debugOut] pl := by first | assumption | exact Part.Sub.via (by assumption) (by decide +kernel)) : ChangesOut pl s (execDebugPortAccess s) := by
  unfold execDebugPortAccess
  have hk : Changes pl s s := Changes.refl pl s
  repeat' (first
    | with_reducible exact hL
    | with_reducible exact Part.Sub.via hL (by decide)
    | with_reducible apply ChangesOut.next
    | ((try lift_lets); intro (x : State); refine Changes.via (l := pl) (s := s) (x := x) ?_ (fun hx => ?_); rotate_left; clear_value x; rotate_left; unfold x)
    | ((try lift_lets); intro x; clear_value x)
    | with_reducible assumption
    | (with_reducible apply Changes.upd_debugOut; first | with_reducible assumption | split)
    | split
    | (dsimp only))

theorem execDebugUnlock_changes {admin : Bool} {token : List Byte} {pl : List Part} (hL : Part.Sub [.nonce, .unlockNext, .mgmtOut, .free] pl := by first | assumption | exact Part.Sub.via (by assumption) (by decide +kernel)) : ChangesOut pl s (execDebugUnlock admin token s) := by
  unfold execDebugUnlock
  have hk : Changes pl s s := Changes.refl pl s
  repeat' (first
    | with_reducible exact hL
    | with_reducible exact Part.Sub.via hL (by decide)
    | with_reducible apply ChangesOut.next
    | ((try lift_lets); intro (x : State); refine Changes.via (l := pl) (s := s) (x := x) ?_ (fun hx => ?_); rotate_left; clear_value x; rotate_left; unfold x)
    | ((try lift_lets); intro (x : State × _); refine Changes.via (l := pl) (s := s) (x := x.1) ?_ (fun hx => ?_); rotate_left; clear_value x; rotate_left; unfold x)
    | ((try lift_lets); intro (x : _ × State); refine Changes.via (l := pl) (s := s) (x := x.2) ?_ (fun hx => ?_); rotate_left; clear_value x; rotate_left; unfold x)
    | ((try lift_lets); intro x; clear_value x)
    | with_reducible assumption
    | with_reducible apply State.answer_changes
    | with_reducible refine Changes.of_snd (State.freeBits_changes ?_ ?_) (by assumption)
    | with_reducible apply State.freeBits_changes
    | (with_reducible apply Changes.upd_nonce; first | with_reducible assumption | with_reducible apply State.answer_changes | with_reducible refine Changes.of_snd (State.freeBits_changes ?_ ?_) (by assumption) | with_reducible apply State.freeBits_changes | split)
    | (with_reducible apply Changes.upd_nonce_unlockNext; first | with_reducible assumption | with_reducible apply State.answer_changes | with_reducible refine Changes.of_snd (State.freeBits_changes ?_ ?_) (by assumption) | with_reducible apply State.freeBits_changes | split)
    | split
    | (dsimp only))

theorem execSealFuse_changes {redfish admin fw : Bool} {value : W64} {pl : List Part} (hL : Part.Sub [.page .DIR, .page .SEC, .risen, .hostOut, .hostHeld, .fwIrq, .msix, .mgmtOut] pl := by first | assumption | exact Part.Sub.via (by assumption) (by decide +kernel)) : ChangesOut pl s (execSealFuse redfish admin fw value s) := by
  unfold execSealFuse
  have hk : Changes pl s s := Changes.refl pl s
  repeat' (first
    | with_reducible exact hL
    | with_reducible exact Part.Sub.via hL (by decide)
    | with_reducible apply ChangesOut.next
    | ((try lift_lets); intro (x : State); refine Changes.via (l := pl) (s := s) (x := x) ?_ (fun hx => ?_); rotate_left; clear_value x; rotate_left; unfold x)
    | ((try lift_lets); intro x; clear_value x)
    | with_reducible assumption
    | with_reducible apply State.answer_changes
    | with_reducible refine State.regWrite_changes ?_ ?_ (fun u hu => ?_) ?_
    | with_reducible apply State.setF_changes
    | exact hL _ (Part.mem_elem (by rfl))
    | (refine hL _ (Part.mem_elem ?_); (repeat' split) <;> rfl)
    | split
    | (dsimp only))

theorem execPowercapSet_changes {operator : Bool} {watts : Nat} {pl : List Part} (hL : Part.Sub [.page .PWR, .mgmtOut] pl := by first | assumption | exact Part.Sub.via (by assumption) (by decide +kernel)) : ChangesOut pl s (execPowercapSet operator watts s) := by
  unfold execPowercapSet
  have hk : Changes pl s s := Changes.refl pl s
  repeat' (first
    | with_reducible exact hL
    | with_reducible exact Part.Sub.via hL (by decide)
    | with_reducible apply ChangesOut.next
    | ((try lift_lets); intro (x : State); refine Changes.via (l := pl) (s := s) (x := x) ?_ (fun hx => ?_); rotate_left; clear_value x; rotate_left; unfold x)
    | ((try lift_lets); intro x; clear_value x)
    | with_reducible assumption
    | with_reducible apply State.recap_changes
    | with_reducible apply State.answer_changes
    | with_reducible apply State.setF_changes
    | exact hL _ (Part.mem_elem (by rfl))
    | (refine hL _ (Part.mem_elem ?_); (repeat' split) <;> rfl)
    | split
    | (dsimp only))

theorem State.mgmtDown_changes {pl : List Part}  (hk : Changes pl s0 s) (hL : Part.Sub [.digests, .subs] pl := by first | assumption | exact Part.Sub.via (by assumption) (by decide +kernel)) : Changes pl s0 (State.mgmtDown s) := by
  unfold State.mgmtDown
  repeat' (first
    | with_reducible exact hL
    | with_reducible exact Part.Sub.via hL (by decide)
    | ((try lift_lets); intro (x : State); refine Changes.via (l := pl) (s := s0) (x := x) ?_ (fun hx => ?_); rotate_left; clear_value x; rotate_left; unfold x)
    | ((try lift_lets); intro x; clear_value x)
    | with_reducible assumption
    | (with_reducible apply Changes.upd_subs_digests; first | with_reducible assumption | split)
    | split
    | (dsimp only))

theorem State.mgmtActivate_changes {pl : List Part}  (hk : Changes pl s0 s) (hL : Part.Sub [.page .SEC, .active, .fresh, .toActivate] pl := by first | assumption | exact Part.Sub.via (by assumption) (by decide +kernel)) : Changes pl s0 (State.mgmtActivate s) := by
  unfold State.mgmtActivate
  repeat' (first
    | with_reducible exact hL
    | with_reducible exact Part.Sub.via hL (by decide)
    | ((try lift_lets); intro (x : State); refine Changes.via (l := pl) (s := s0) (x := x) ?_ (fun hx => ?_); rotate_left; clear_value x; rotate_left; unfold x)
    | ((try lift_lets); intro x; clear_value x)
    | with_reducible assumption
    | with_reducible apply State.setF_changes
    | with_reducible apply State.activateStages_changes
    | exact hL _ (Part.mem_elem (by rfl))
    | (refine hL _ (Part.mem_elem ?_); (repeat' split) <;> rfl)
    | split
    | (dsimp only))

theorem State.mgmtBoot_changes {pl : List Part}  (hk : Changes pl s0 s) (hL : Part.Sub [.page .SEC, .records, .mlog, .fresh, .digests, .mgmtStage, .measure, .mgmtOut] pl := by first | assumption | exact Part.Sub.via (by assumption) (by decide +kernel)) : Changes pl s0 (State.mgmtBoot s) := by
  unfold State.mgmtBoot
  repeat' (first
    | with_reducible exact hL
    | with_reducible exact Part.Sub.via hL (by decide)
    | ((try lift_lets); intro (x : State); refine Changes.via (l := pl) (s := s0) (x := x) ?_ (fun hx => ?_); rotate_left; clear_value x; rotate_left; unfold x)
    | ((try lift_lets); intro (x : State × _); refine Changes.via (l := pl) (s := s0) (x := x.1) ?_ (fun hx => ?_); rotate_left; clear_value x; rotate_left; unfold x)
    | ((try lift_lets); intro (x : _ × State); refine Changes.via (l := pl) (s := s0) (x := x.2) ?_ (fun hx => ?_); rotate_left; clear_value x; rotate_left; unfold x)
    | ((try lift_lets); intro x; clear_value x)
    | with_reducible assumption
    | with_reducible refine Changes.of_fst (State.verifyStage_changes ?_ ?_) (by assumption)
    | with_reducible apply State.verifyStage_changes
    | (with_reducible apply Changes.upd_measure_fresh; first | with_reducible assumption | with_reducible refine Changes.of_fst (State.verifyStage_changes ?_ ?_) (by assumption) | with_reducible apply State.verifyStage_changes | split)
    | split
    | (dsimp only))

theorem execManagerReset_changes {admin : Bool} {pl : List Part} (hL : Part.Sub [.page .SEC, .records, .mlog, .active, .fresh, .toActivate, .digests, .mgmtStage, .measure, .subs, .mgmtOut] pl := by first | assumption | exact Part.Sub.via (by assumption) (by decide +kernel)) : ChangesOut pl s (execManagerReset admin s) := by
  unfold execManagerReset
  have hk : Changes pl s s := Changes.refl pl s
  repeat' (first
    | with_reducible exact hL
    | with_reducible exact Part.Sub.via hL (by decide)
    | with_reducible apply ChangesOut.next
    | ((try lift_lets); intro (x : State); refine Changes.via (l := pl) (s := s) (x := x) ?_ (fun hx => ?_); rotate_left; clear_value x; rotate_left; unfold x)
    | ((try lift_lets); intro x; clear_value x)
    | with_reducible assumption
    | with_reducible apply State.answer_changes
    | with_reducible apply State.mgmtBoot_changes
    | with_reducible apply State.mgmtActivate_changes
    | with_reducible apply State.mgmtDown_changes
    | split
    | (dsimp only))

theorem execComponentIntegrity_changes {certs : Bool} {nonce : List Byte} {pl : List Part} (hL : Part.Sub [.page .SEC, .mgmtOut] pl := by first | assumption | exact Part.Sub.via (by assumption) (by decide +kernel)) : ChangesOut pl s (execComponentIntegrity certs nonce s) := by
  unfold execComponentIntegrity
  have hk : Changes pl s s := Changes.refl pl s
  repeat' (first
    | with_reducible exact hL
    | with_reducible exact Part.Sub.via hL (by decide)
    | with_reducible apply ChangesOut.next
    | ((try lift_lets); intro (x : State); refine Changes.via (l := pl) (s := s) (x := x) ?_ (fun hx => ?_); rotate_left; clear_value x; rotate_left; unfold x)
    | ((try lift_lets); intro x; clear_value x)
    | with_reducible assumption
    | with_reducible apply State.answer_changes
    | with_reducible apply State.count_changes
    | exact hL _ (Part.mem_elem (by rfl))
    | (refine hL _ (Part.mem_elem ?_); (repeat' split) <;> rfl)
    | split
    | (dsimp only))

theorem execUpdatePush_changes {admin : Bool} {op stage : Nat} {image : List Byte} {fails : Bool} {blown : Nat} {pl : List Part} (hL : Part.Sub [.page .SEC, .risen, .records, .hostOut, .hostHeld, .fwIrq, .msix, .mlog, .flash, .toActivate, .mgmtOut] pl := by first | assumption | exact Part.Sub.via (by assumption) (by decide +kernel)) : ChangesOut pl s (execUpdatePush admin op stage image fails blown s) := by
  unfold execUpdatePush
  have hk : Changes pl s s := Changes.refl pl s
  repeat' (first
    | with_reducible exact hL
    | with_reducible exact Part.Sub.via hL (by decide)
    | with_reducible apply ChangesOut.next
    | ((try lift_lets); intro (x : State); refine Changes.via (l := pl) (s := s) (x := x) ?_ (fun hx => ?_); rotate_left; clear_value x; rotate_left; unfold x)
    | ((try lift_lets); intro x; clear_value x)
    | with_reducible assumption
    | with_reducible apply State.answer_changes
    | with_reducible apply State.fwOp_changes
    | split
    | (dsimp only))

theorem execEventSubscription_changes {admin add : Bool} {id : Nat} {pl : List Part} (hL : Part.Sub [.subs, .mgmtOut] pl := by first | assumption | exact Part.Sub.via (by assumption) (by decide +kernel)) : ChangesOut pl s (execEventSubscription admin add id s) := by
  unfold execEventSubscription
  have hk : Changes pl s s := Changes.refl pl s
  repeat' (first
    | with_reducible exact hL
    | with_reducible exact Part.Sub.via hL (by decide)
    | with_reducible apply ChangesOut.next
    | ((try lift_lets); intro (x : State); refine Changes.via (l := pl) (s := s) (x := x) ?_ (fun hx => ?_); rotate_left; clear_value x; rotate_left; unfold x)
    | ((try lift_lets); intro x; clear_value x)
    | with_reducible assumption
    | with_reducible apply State.answer_changes
    | (with_reducible apply Changes.upd_subs; first | with_reducible assumption | with_reducible apply State.answer_changes | split)
    | split
    | (dsimp only)
    | (dsimp only [id]))

theorem execPldmRequest_changes {message : List Byte} {pl : List Part} (hL : Part.Sub [.mgmtOut, .free] pl := by first | assumption | exact Part.Sub.via (by assumption) (by decide +kernel)) : ChangesOut pl s (execPldmRequest message s) := by
  unfold execPldmRequest
  have hk : Changes pl s s := Changes.refl pl s
  repeat' (first
    | with_reducible exact hL
    | with_reducible exact Part.Sub.via hL (by decide)
    | with_reducible apply ChangesOut.next
    | ((try lift_lets); intro (x : State); refine Changes.via (l := pl) (s := s) (x := x) ?_ (fun hx => ?_); rotate_left; clear_value x; rotate_left; unfold x)
    | ((try lift_lets); intro x; clear_value x)
    | with_reducible assumption
    | (with_reducible apply Changes.upd_free_mgmtOut; first | with_reducible assumption | split)
    | (with_reducible apply Changes.upd_mgmtOut; first | with_reducible assumption | split)
    | split
    | (dsimp only))

end Sys2Proof.Machine
end

