-- ==== Sys2Proof/Laws/ChangesRegisters.lean ====
section
/-!
SUPPORT. What the operations of Machine/Registers can change (Laws/Changes).
-/
namespace Sys2Proof.Machine

set_option linter.all false

variable {s0 s : State}

theorem State.logEnable_changes {pl : List Part}  (hk : Changes pl s0 s) (hL : Part.Sub [.page .EMP, .page .HBM, .page .FLT, .risen, .recOnce, .records, .hostOut, .hostHeld, .fwIrq, .msix, .edge, .edgeMark, .edgeWb, .selfRefresh, .logHeld] pl := by first | assumption | exact Part.Sub.via (by assumption) (by decide +kernel)) : Changes pl s0 (State.logEnable s) := by
  unfold State.logEnable
  repeat' (first
    | with_reducible exact hL
    | with_reducible exact Part.Sub.via hL (by decide)
    | ((try lift_lets); intro (x : State); refine Changes.via (l := pl) (s := s0) (x := x) ?_ (fun hx => ?_); rotate_left; clear_value x; rotate_left; unfold x)
    | ((try lift_lets); intro x; clear_value x)
    | with_reducible assumption
    | with_reducible apply State.setF_changes
    | with_reducible apply State.setReg_changes
    | with_reducible apply State.drainLog_changes
    | exact hL _ (Part.mem_elem (by rfl))
    | split
    | (dsimp only))

theorem State.afterWrite_changes {pl : List Part} {p : Page} {off : Nat} {old v : W64} (hk : Changes pl s0 s) (hL : Part.Sub [.page .EMP, .page .HBM, .page .FPW, .page .FLT, .risen, .recOnce, .records, .hostOut, .hostHeld, .fwIrq, .msix, .edge, .edgeMark, .edgeWb, .selfRefresh, .logHeld] pl := by first | assumption | exact Part.Sub.via (by assumption) (by decide +kernel)) : Changes pl s0 (State.afterWrite s p off old v) := by
  unfold State.afterWrite
  repeat' (first
    | with_reducible exact hL
    | with_reducible exact Part.Sub.via hL (by decide)
    | ((try lift_lets); intro (x : State); refine Changes.via (l := pl) (s := s0) (x := x) ?_ (fun hx => ?_); rotate_left; clear_value x; rotate_left; unfold x)
    | ((try lift_lets); intro x; clear_value x)
    | with_reducible assumption
    | with_reducible apply State.logEnable_changes
    | with_reducible apply State.select_changes
    | split
    | (dsimp only))

theorem State.plainWrite_changes {pl : List Part} {fw : Bool} {p : Page} {off : Nat} {v : W64} (hk : Changes pl s0 s) (hm : Part.page p.typ ∈ pl := by first | assumption | exact Part.Sub.mem (by assumption) (Part.mem_elem (by rfl))) (hL : Part.Sub [.page .DIR, .page .EMP, .page .HBM, .page .FPW, .page .FLT, .risen, .recOnce, .records, .hostOut, .hostHeld, .fwIrq, .msix, .edge, .edgeMark, .edgeWb, .selfRefresh, .logHeld] pl := by first | assumption | exact Part.Sub.via (by assumption) (by decide +kernel)) : Changes pl s0 (State.plainWrite s fw p off v) := by
  unfold State.plainWrite
  repeat' (first
    | with_reducible exact hL
    | with_reducible exact Part.Sub.via hL (by decide)
    | ((try lift_lets); intro (x : State); refine Changes.via (l := pl) (s := s0) (x := x) ?_ (fun hx => ?_); rotate_left; clear_value x; rotate_left; unfold x)
    | ((try lift_lets); intro x; clear_value x)
    | with_reducible assumption
    | with_reducible apply State.afterWrite_changes
    | with_reducible refine State.regWrite_changes ?_ ?_ (fun u hu => ?_) ?_
    | exact hm
    | exact hL _ (Part.mem_elem (by rfl))
    | split
    | (dsimp only))

theorem State.pageWrite_changes {pl : List Part} {fw : Bool} {p : Page} {off : Nat} {v : W64} (hk : Changes pl s0 s) (hL : Part.Sub (resetParts ++ [.hostOut, .fwIrq, .wire, .mlog, .flash, .active, .fresh, .toActivate, .mgmtOut, .free]) pl := by first | assumption | exact Part.Sub.via (by assumption) (by decide +kernel)) : Changes pl s0 (State.pageWrite s fw p off v) := by
  unfold State.pageWrite
  repeat' (first
    | with_reducible exact hL
    | with_reducible exact Part.Sub.via hL (by decide +kernel)
    | ((try lift_lets); intro (x : State); refine Changes.via (l := pl) (s := s0) (x := x) ?_ (fun hx => ?_); rotate_left; clear_value x; rotate_left; unfold x)
    | ((try lift_lets); intro x; clear_value x)
    | with_reducible assumption
    | with_reducible apply State.vptWrite_changes
    | with_reducible apply State.tsqSel_changes
    | with_reducible apply State.recap_changes
    | with_reducible apply State.stepWrite_changes
    | with_reducible apply State.moduleReset_changes
    | with_reducible apply State.testWrite_changes
    | with_reducible apply State.segSel_changes
    | with_reducible apply State.segCmdWrite_changes
    | with_reducible apply State.plainWrite_changes
    | with_reducible refine State.regWrite_changes ?_ ?_ (fun u hu => ?_) ?_
    | with_reducible apply State.writeResult_changes
    | with_reducible apply State.setF_changes
    | with_reducible apply State.laybyWrite_changes
    | with_reducible apply State.fpwWrite_changes
    | with_reducible apply State.fwWrite_changes
    | with_reducible apply State.dmapWrite_changes
    | with_reducible apply State.drainLog_changes
    | with_reducible apply State.queueWrite_changes
    | with_reducible apply State.resumeWrite_changes
    | with_reducible apply State.dmaCtlWrite_changes
    | with_reducible apply State.fepWrite_changes
    | with_reducible apply State.drainWrite_changes
    | with_reducible apply State.cwyWrite_changes
    | with_reducible apply State.brgWrite_changes
    | exact hL _ (Part.mem_elem (by rfl))
    | (refine hL _ (Part.mem_elem ?_); (repeat' split) <;> rfl)
    | exact hL _ (List.mem_append_left _ (List.mem_append_left _ (Part.mem_pages _)))
    | split
    | (dsimp only))

theorem State.msixWrite_changes {pl : List Part} {addr : Nat} {v : W64} (hk : Changes pl s0 s) (hL : Part.Sub [.hostOut, .hostHeld, .msix] pl := by first | assumption | exact Part.Sub.via (by assumption) (by decide +kernel)) : Changes pl s0 (State.msixWrite s addr v) := by
  unfold State.msixWrite
  repeat' (first
    | with_reducible exact hL
    | with_reducible exact Part.Sub.via hL (by decide)
    | ((try lift_lets); intro (x : State); refine Changes.via (l := pl) (s := s0) (x := x) ?_ (fun hx => ?_); rotate_left; clear_value x; rotate_left; unfold x)
    | ((try lift_lets); intro x; clear_value x)
    | with_reducible assumption
    | with_reducible apply State.setMsix_changes
    | with_reducible apply State.hostSend_changes
    | split
    | (dsimp only))

theorem State.strayWrite_changes {pl : List Part} {fw : Bool} {addr : Nat} {v : W64} {code : Nat} (hk : Changes pl s0 s) (hL : Part.Sub [.page .DIR, .risen, .hostOut, .hostHeld, .fwIrq, .msix] pl := by first | assumption | exact Part.Sub.via (by assumption) (by decide +kernel)) : Changes pl s0 (State.strayWrite s fw addr v code) := by
  unfold State.strayWrite
  repeat' (first
    | with_reducible exact hL
    | with_reducible exact Part.Sub.via hL (by decide)
    | ((try lift_lets); intro (x : State); refine Changes.via (l := pl) (s := s0) (x := x) ?_ (fun hx => ?_); rotate_left; clear_value x; rotate_left; unfold x)
    | ((try lift_lets); intro x; clear_value x)
    | with_reducible assumption
    | with_reducible apply State.captureFirst_changes
    | with_reducible apply State.count_changes
    | exact hL _ (Part.mem_elem (by rfl))
    | split
    | (dsimp only))

theorem execRegisterWrite_changes {fw aligned poisoned : Bool} {addr : Nat} {value : W64} {pl : List Part} (hL : Part.Sub (resetParts ++ [.hostOut, .fwIrq, .wire, .mlog, .flash, .active, .fresh, .toActivate, .mgmtOut, .free]) pl := by first | assumption | exact Part.Sub.via (by assumption) (by decide +kernel)) : ChangesOut pl s (execRegisterWrite fw aligned poisoned addr value s) := by
  unfold execRegisterWrite
  have hk : Changes pl s s := Changes.refl pl s
  repeat' (first
    | with_reducible exact hL
    | with_reducible exact Part.Sub.via hL (by decide +kernel)
    | with_reducible apply ChangesOut.next
    | ((try lift_lets); intro (x : State); refine Changes.via (l := pl) (s := s) (x := x) ?_ (fun hx => ?_); rotate_left; clear_value x; rotate_left; unfold x)
    | ((try lift_lets); intro x; clear_value x)
    | with_reducible assumption
    | with_reducible apply State.strayWrite_changes
    | with_reducible apply State.msixWrite_changes
    | with_reducible apply State.pageWrite_changes
    | with_reducible apply State.writeResult_changes
    | with_reducible apply State.count_changes
    | with_reducible apply State.badAccess_changes
    | exact hL _ (Part.mem_elem (by rfl))
    | (refine hL _ (Part.mem_elem ?_); (repeat' split) <;> rfl)
    | exact hL _ (List.mem_append_left _ (List.mem_append_left _ (Part.mem_pages _)))
    | split
    | (dsimp only))

theorem execSnapshotArrival_changes {unit : SnapUnit} {n : Nat} {pl : List Part} (hL : Part.Sub [.page .SEN, .page .TSQ, .page .SPD, .page .MRK, .fopenDue] pl := by first | assumption | exact Part.Sub.via (by assumption) (by decide +kernel)) : ChangesOut pl s (execSnapshotArrival unit n s) := by
  unfold execSnapshotArrival
  have hk : Changes pl s s := Changes.refl pl s
  repeat' (first
    | with_reducible exact hL
    | with_reducible exact Part.Sub.via hL (by decide)
    | with_reducible apply ChangesOut.next
    | ((try lift_lets); intro (x : State); refine Changes.via (l := pl) (s := s) (x := x) ?_ (fun hx => ?_); rotate_left; clear_value x; rotate_left; unfold x)
    | ((try lift_lets); intro x; clear_value x)
    | with_reducible assumption
    | with_reducible apply State.tsqSnap_changes
    | with_reducible apply State.fopenSnap_changes
    | with_reducible apply State.ctxSnap_changes
    | with_reducible apply State.segSnap_changes
    | with_reducible apply State.markSnap_changes
    | split
    | (dsimp only))

theorem State.copyPages_changes {pl : List Part} {loc ptr : Nat} {l : List Page} (hL : Part.Sub [.page .EMP, .page .HBM, .risen, .recOnce, .records, .hostOut, .hostHeld, .fwIrq, .msix, .edge, .edgeMark, .edgeWb, .selfRefresh] pl := by first | assumption | exact Part.Sub.via (by assumption) (by decide +kernel)) :
    ∀ {k : Nat} {s : State}, Changes pl s0 s → Changes pl s0 (State.copyPages loc ptr l k s) := by
  induction l with
  | nil => exact fun h => h
  | cons p r ih => exact fun h => ih (State.writeLoc_changes h)

theorem execMilepostCopy_changes {q : Fin 64} {pl : List Part} (hL : Part.Sub [.page .ENG, .page .EMP, .page .HBM, .risen, .ahead, .fields, .recOnce, .records, .hostOut, .hostHeld, .fwIrq, .msix, .edge, .edgeMark, .edgeWb, .selfRefresh, .queues, .step, .free] pl := by first | assumption | exact Part.Sub.via (by assumption) (by decide +kernel)) : ChangesOut pl s (execMilepostCopy q s) := by
  unfold execMilepostCopy
  have hk : Changes pl s s := Changes.refl pl s
  repeat' (first
    | with_reducible exact hL
    | with_reducible exact Part.Sub.via hL (by decide)
    | with_reducible apply ChangesOut.next
    | ((try lift_lets); intro (x : State); refine Changes.via (l := pl) (s := s) (x := x) ?_ (fun hx => ?_); rotate_left; clear_value x; rotate_left; unfold x)
    | ((try lift_lets); intro x; clear_value x)
    | with_reducible assumption
    | with_reducible apply State.copyPages_changes
    | with_reducible apply State.complete_changes
    | split
    | (dsimp only))

end Sys2Proof.Machine
end

