-- ==== Sys2Proof/Laws/Keeps.lean ====
section
/-!
SUPPORT. What every operation keeps: the queue of commands, and the soundness of the state (`Keeps`); and what every operation
outside the security die and the management controller keeps beside that: what those guard (`Stays`). One lemma for each
operation, named after it; this file holds the relations, the primitive updates and the folds.
-/
namespace Sys2Proof.Machine

/-- From s to t the queue stays, and soundness is kept. -/
structure Keeps (s t : State) : Prop where
  pending : t.pending = s.pending
  sound : s.Sound → t.Sound

/-- As `Keeps`, and what the security die and the management controller guard stays. -/
structure Stays (s t : State) : Prop where
  keeps : Keeps s t
  guarded : t.guarded = s.guarded

theorem Keeps.refl (s : State) : Keeps s s := ⟨rfl, id⟩
theorem Stays.refl (s : State) : Stays s s := ⟨Keeps.refl s, rfl⟩

theorem Keeps.trans {s t u : State} (h : Keeps s t) (k : Keeps t u) : Keeps s u :=
  ⟨k.pending.trans h.pending, fun x => k.sound (h.sound x)⟩

theorem Stays.trans {s t u : State} (h : Stays s t) (k : Stays t u) : Stays s u :=
  ⟨h.keeps.trans k.keeps, k.guarded.trans h.guarded⟩


/-! ### Primitive updates -/

variable {s u : State}

/-- An update of what neither relation speaks of, and of what is guarded. -/
theorem Keeps.upd (h : Keeps s u)
    {v0 : List (Nat × W64)} {v1 : List AheadCount} {v2 : List (Nat × Nat)} {v3 : List (Nat × Nat)}
    {v4 : List (Nat × Waymark)} {v5 : List ErrRec} {v6 : List PassCause} {v7 : List CheckUnit}
    {v8 : List (Nat × Nat)} {v9 : List HostOut} {v10 : List HostOut} {v11 : List Nat} {v12 : Bool}
    {v13 : List (Nat × EccMark)} {v14 : List Nat} {v15 : List (Nat × Nat)} {v16 : List (Nat × Nat)}
    {v17 : List (Nat × Nat)} {v18 : List (TileAddr × Packet)} {v19 : List (Nat × Bool)} {v20 : List BridgedFrame}
    {v21 : List (Nat × Bool)} {v22 : Nat} {v23 : List (Nat × Nat)} {v24 : Option StepSt}
    {v25 : Option (Nat × Nat)} {v26 : List (Nat × ArrayEng)} {v27 : List (Nat × Bool)}
    {v28 : List (Nat × W64 × List Byte)} {v29 : List Exch} {v30 : List (Nat × Nat)}
    {v31 : List (Nat × Nat × Nat)} {v32 : List (Nat × Nat × Nat)} {v33 : Nat} {v34 : List (Nat × DedupWin)}
    {v35 : List (Nat × List (Nat × List Nat))} {v36 : List Nat} {v37 : List Nat} {v38 : Option ImportWin}
    {v39 : List Nat} {v40 : Bool} {v41 : Nat} {v42 : Nat} {v43 : Nat} {v44 : Nat} {v45 : Nat} {v46 : Nat}
    {v47 : Nat} {v48 : Bool} {v49 : List Nat} {v50 : Bool} {v51 : Nat} {v52 : Bool} {v53 : Nat} {v54 : Waymark}
    {v55 : Nat} {v56 : Nat} {v57 : List (Nat × Nat)} {v58 : List (Nat × Nat)} {v59 : W64} {v60 : List Nat}
    {v61 : Option (Nat × Nat)} {v62 : List (Nat × List Byte)} {v63 : List Byte} {v64 : List Nat} {v65 : Nat}
    {v66 : List (Nat × List Byte)} {v67 : List (Nat × Nat)} {v68 : List Nat} {v69 : List (Nat × List Byte)}
    {v70 : List Byte} {v71 : Option (List Byte)} {v72 : Bool} :
    Keeps s { u with
      risen := v0, ahead := v1, peaks := v2, slotOf := v3, recOnce := v4, records := v5, causes := v6
      checks := v7, suspects := v8, hostOut := v9, hostHeld := v10, fwIrq := v11, d3hot := v12, edgeMark := v13
      edgeWb := v14, selfRefresh := v15, stackHeat := v16, scrubAt := v17, edgeHeld := v18, fopenDue := v19
      bridgeRx := v20, aeArrived := v21, ctxCount := v22, turns := v23, step := v24, stepFailed := v25
      array := v26, remoteRoot := v27, wire := v28, exchs := v29, sigCount := v30, destSets := v31, tainted := v32
      taintSeq := v33, windows := v34, derived := v35, taintNamed := v36, bridgeTrain := v37, importing := v38
      stoppedClk := v39, refLost := v40, dark := v41, capBelow := v42, limQuiet := v43, bankOn := v44
      coolCap := v45, coolLow := v46, coolWait := v47, sleeping := v48, sleptPorts := v49, sleptBridge := v50
      logNext := v51, logOver := v52, losses := v53, spikeFirst := v54, lkoN := v55, lkoSpikes := v56
      stepsSeen := v57, fresh := v58, mgmtStage := v59, cwyFailed := v60, testRef := v61, mgmtOut := v62
      doe := v63, debugOut := v64, free := v65, flash := v66, active := v67, toActivate := v68, digests := v69
      measure := v70, nonce := v71, unlockNext := v72 } :=
  ⟨h.pending, fun x => let z := h.sound x
    ⟨z.regs, z.tiles, z.fields, z.edge, z.queues, z.ctxs, z.links, z.msix, ⟨z.bounded.retained, z.bounded.held, z.bounded.mlog, z.bounded.subs⟩⟩⟩

/-- An update of what neither relation speaks of. -/
theorem Stays.upd (h : Stays s u)
    {v0 : List (Nat × W64)} {v1 : List AheadCount} {v2 : List (Nat × Nat)} {v3 : List (Nat × Nat)}
    {v4 : List (Nat × Waymark)} {v5 : List ErrRec} {v6 : List PassCause} {v7 : List CheckUnit}
    {v8 : List (Nat × Nat)} {v9 : List HostOut} {v10 : List HostOut} {v11 : List Nat} {v12 : Bool}
    {v13 : List (Nat × EccMark)} {v14 : List Nat} {v15 : List (Nat × Nat)} {v16 : List (Nat × Nat)}
    {v17 : List (Nat × Nat)} {v18 : List (TileAddr × Packet)} {v19 : List (Nat × Bool)} {v20 : List BridgedFrame}
    {v21 : List (Nat × Bool)} {v22 : Nat} {v23 : List (Nat × Nat)} {v24 : Option StepSt}
    {v25 : Option (Nat × Nat)} {v26 : List (Nat × ArrayEng)} {v27 : List (Nat × Bool)}
    {v28 : List (Nat × W64 × List Byte)} {v29 : List Exch} {v30 : List (Nat × Nat)}
    {v31 : List (Nat × Nat × Nat)} {v32 : List (Nat × Nat × Nat)} {v33 : Nat} {v34 : List (Nat × DedupWin)}
    {v35 : List (Nat × List (Nat × List Nat))} {v36 : List Nat} {v37 : List Nat} {v38 : Option ImportWin}
    {v39 : List Nat} {v40 : Bool} {v41 : Nat} {v42 : Nat} {v43 : Nat} {v44 : Nat} {v45 : Nat} {v46 : Nat}
    {v47 : Nat} {v48 : Bool} {v49 : List Nat} {v50 : Bool} {v51 : Nat} {v52 : Bool} {v53 : Nat} {v54 : Waymark}
    {v55 : Nat} {v56 : Nat} {v57 : List (Nat × Nat)} {v58 : List (Nat × Nat)} {v59 : W64} {v60 : List Nat}
    {v61 : Option (Nat × Nat)} {v62 : List (Nat × List Byte)} {v63 : List Byte} {v64 : List Nat} {v65 : Nat} :
    Stays s { u with
      risen := v0, ahead := v1, peaks := v2, slotOf := v3, recOnce := v4, records := v5, causes := v6
      checks := v7, suspects := v8, hostOut := v9, hostHeld := v10, fwIrq := v11, d3hot := v12, edgeMark := v13
      edgeWb := v14, selfRefresh := v15, stackHeat := v16, scrubAt := v17, edgeHeld := v18, fopenDue := v19
      bridgeRx := v20, aeArrived := v21, ctxCount := v22, turns := v23, step := v24, stepFailed := v25
      array := v26, remoteRoot := v27, wire := v28, exchs := v29, sigCount := v30, destSets := v31, tainted := v32
      taintSeq := v33, windows := v34, derived := v35, taintNamed := v36, bridgeTrain := v37, importing := v38
      stoppedClk := v39, refLost := v40, dark := v41, capBelow := v42, limQuiet := v43, bankOn := v44
      coolCap := v45, coolLow := v46, coolWait := v47, sleeping := v48, sleptPorts := v49, sleptBridge := v50
      logNext := v51, logOver := v52, losses := v53, spikeFirst := v54, lkoN := v55, lkoSpikes := v56
      stepsSeen := v57, fresh := v58, mgmtStage := v59, cwyFailed := v60, testRef := v61, mgmtOut := v62
      doe := v63, debugOut := v64, free := v65 } :=
  ⟨Keeps.upd h.keeps, h.guarded⟩

theorem Stays.regs (h : Stays s u) {l : List (Nat × W64)}
    (w : storeWf regDefault u.regs = true → storeWf regDefault l = true) : Stays s { u with regs := l } :=
  ⟨⟨h.keeps.pending, fun x => let z := h.keeps.sound x
    ⟨w (z.regs), z.tiles, z.fields, z.edge, z.queues, z.ctxs, z.links, z.msix, ⟨z.bounded.retained, z.bounded.held, z.bounded.mlog, z.bounded.subs⟩⟩⟩, h.guarded⟩

theorem Stays.tiles (h : Stays s u) {l : List (Nat × Tile)}
    (w : storeWf (fun _ => Tile.reset) u.tiles = true → storeWf (fun _ => Tile.reset) l = true) : Stays s { u with tiles := l } :=
  ⟨⟨h.keeps.pending, fun x => let z := h.keeps.sound x
    ⟨z.regs, w (z.tiles), z.fields, z.edge, z.queues, z.ctxs, z.links, z.msix, ⟨z.bounded.retained, z.bounded.held, z.bounded.mlog, z.bounded.subs⟩⟩⟩, h.guarded⟩

theorem Stays.fields (h : Stays s u) {l : List (Nat × FieldSt)}
    (w : storeWf (fun _ => FieldSt.reset) u.fields = true → storeWf (fun _ => FieldSt.reset) l = true) : Stays s { u with fields := l } :=
  ⟨⟨h.keeps.pending, fun x => let z := h.keeps.sound x
    ⟨z.regs, z.tiles, w (z.fields), z.edge, z.queues, z.ctxs, z.links, z.msix, ⟨z.bounded.retained, z.bounded.held, z.bounded.mlog, z.bounded.subs⟩⟩⟩, h.guarded⟩

theorem Stays.edge (h : Stays s u) {l : List (Nat × Byte)}
    (w : storeWf edgeDefault u.edge = true → storeWf edgeDefault l = true) : Stays s { u with edge := l } :=
  ⟨⟨h.keeps.pending, fun x => let z := h.keeps.sound x
    ⟨z.regs, z.tiles, z.fields, w (z.edge), z.queues, z.ctxs, z.links, z.msix, ⟨z.bounded.retained, z.bounded.held, z.bounded.mlog, z.bounded.subs⟩⟩⟩, h.guarded⟩

theorem Stays.queues (h : Stays s u) {l : List (Nat × EngQueue)}
    (w : storeWf (fun _ => EngQueue.reset) u.queues = true → storeWf (fun _ => EngQueue.reset) l = true) : Stays s { u with queues := l } :=
  ⟨⟨h.keeps.pending, fun x => let z := h.keeps.sound x
    ⟨z.regs, z.tiles, z.fields, z.edge, w (z.queues), z.ctxs, z.links, z.msix, ⟨z.bounded.retained, z.bounded.held, z.bounded.mlog, z.bounded.subs⟩⟩⟩, h.guarded⟩

theorem Stays.ctxs (h : Stays s u) {l : List (Nat × StreamCtx)}
    (w : storeWf (fun _ => StreamCtx.reset) u.ctxs = true → storeWf (fun _ => StreamCtx.reset) l = true) : Stays s { u with ctxs := l } :=
  ⟨⟨h.keeps.pending, fun x => let z := h.keeps.sound x
    ⟨z.regs, z.tiles, z.fields, z.edge, z.queues, w (z.ctxs), z.links, z.msix, ⟨z.bounded.retained, z.bounded.held, z.bounded.mlog, z.bounded.subs⟩⟩⟩, h.guarded⟩

theorem Stays.links (h : Stays s u) {l : List (Nat × VLink)}
    (w : storeWf (fun _ => VLink.reset) u.links = true → storeWf (fun _ => VLink.reset) l = true) : Stays s { u with links := l } :=
  ⟨⟨h.keeps.pending, fun x => let z := h.keeps.sound x
    ⟨z.regs, z.tiles, z.fields, z.edge, z.queues, z.ctxs, w (z.links), z.msix, ⟨z.bounded.retained, z.bounded.held, z.bounded.mlog, z.bounded.subs⟩⟩⟩, h.guarded⟩

theorem Stays.msix (h : Stays s u) {l : List (Nat × MsixEntry)}
    (w : storeWf (fun _ => MsixEntry.reset) u.msix = true → storeWf (fun _ => MsixEntry.reset) l = true) : Stays s { u with msix := l } :=
  ⟨⟨h.keeps.pending, fun x => let z := h.keeps.sound x
    ⟨z.regs, z.tiles, z.fields, z.edge, z.queues, z.ctxs, z.links, w (z.msix), ⟨z.bounded.retained, z.bounded.held, z.bounded.mlog, z.bounded.subs⟩⟩⟩, h.guarded⟩

theorem Stays.retained (h : Stays s u) {l : List Retained} (w : u.retained.length ≤ 4096 → l.length ≤ 4096) : Stays s { u with retained := l } :=
  ⟨⟨h.keeps.pending, fun x => let z := h.keeps.sound x
    ⟨z.regs, z.tiles, z.fields, z.edge, z.queues, z.ctxs, z.links, z.msix, ⟨w (z.bounded.retained), z.bounded.held, z.bounded.mlog, z.bounded.subs⟩⟩⟩, h.guarded⟩

theorem Stays.logHeld (h : Stays s u) {l : List (List Byte)} (w : u.logHeld.length ≤ 1024 → l.length ≤ 1024) : Stays s { u with logHeld := l } :=
  ⟨⟨h.keeps.pending, fun x => let z := h.keeps.sound x
    ⟨z.regs, z.tiles, z.fields, z.edge, z.queues, z.ctxs, z.links, z.msix, ⟨z.bounded.retained, w (z.bounded.held), z.bounded.mlog, z.bounded.subs⟩⟩⟩, h.guarded⟩

theorem Stays.mlog (h : Stays s u) {l : List (List Byte)} (w : u.mlog.length ≤ 65536 → l.length ≤ 65536) : Stays s { u with mlog := l } :=
  ⟨⟨h.keeps.pending, fun x => let z := h.keeps.sound x
    ⟨z.regs, z.tiles, z.fields, z.edge, z.queues, z.ctxs, z.links, z.msix, ⟨z.bounded.retained, z.bounded.held, w (z.bounded.mlog), z.bounded.subs⟩⟩⟩, h.guarded⟩

theorem Keeps.subs (h : Keeps s u) {l : List Nat} (w : u.subs.length ≤ 8 → l.length ≤ 8) : Keeps s { u with subs := l } :=
  ⟨h.pending, fun x => let z := h.sound x
    ⟨z.regs, z.tiles, z.fields, z.edge, z.queues, z.ctxs, z.links, z.msix,
      ⟨z.bounded.retained, z.bounded.held, z.bounded.mlog, w z.bounded.subs⟩⟩⟩

/-! ### Folds and choices -/

theorem Stays.foldl {β : Type} {f : State → β → State} {l : List β} {t : State} (h : Stays s t)
    (hf : ∀ u x, Stays s u → Stays s (f u x)) : Stays s (l.foldl f t) := by
  induction l generalizing t with
  | nil => exact h
  | cons x r ih => exact ih (hf t x h)

theorem Keeps.foldl {β : Type} {f : State → β → State} {l : List β} {t : State} (h : Keeps s t)
    (hf : ∀ u x, Keeps s u → Keeps s (f u x)) : Keeps s (l.foldl f t) := by
  induction l generalizing t with
  | nil => exact h
  | cons x r ih => exact ih (hf t x h)

theorem Stays.foldl_fst {β γ : Type} {f : State × γ → β → State × γ} {l : List β} {t : State × γ} (h : Stays s t.1)
    (hf : ∀ u x, Stays s u.1 → Stays s (f u x).1) : Stays s (l.foldl f t).1 := by
  induction l generalizing t with
  | nil => exact h
  | cons x r ih => exact ih (hf t x h)

theorem Stays.foldl_snd {β γ : Type} {f : γ × State → β → γ × State} {l : List β} {t : γ × State} (h : Stays s t.2)
    (hf : ∀ u x, Stays s u.2 → Stays s (f u x).2) : Stays s (l.foldl f t).2 := by
  induction l generalizing t with
  | nil => exact h
  | cons x r ih => exact ih (hf t x h)

theorem Stays.via {s x : State} {P : Prop} (h : Stays s x) (k : Stays s x → P) : P := k h
theorem Keeps.via {s x : State} {P : Prop} (h : Keeps s x) (k : Keeps s x → P) : P := k h
theorem Keeps.step {t : State} (h : Keeps s u) (k : Stays u t) : Keeps s t := h.trans k.keeps
theorem Keeps.after {t : State} (k : Stays u t) (h : Keeps s u) : Keeps s t := h.trans k.keeps

/-- The state in what an operation answers beside something else, or may answer. -/
theorem Stays.of_fst {β : Type} {x : State × β} {t : State} {b : β} (h : Stays s x.1) (e : x = (t, b)) : Stays s t := by
  rw [e] at h; exact h
theorem Stays.of_snd {β : Type} {x : β × State} {t : State} {b : β} (h : Stays s x.2) (e : x = (b, t)) : Stays s t := by
  rw [e] at h; exact h

def StaysOpt (s : State) (o : Option State) : Prop := ∀ t, o = some t → Stays s t

theorem StaysOpt.ofSome {t : State} (h : Stays s t) : StaysOpt s (some t) := fun _ e => by cases e; exact h
theorem StaysOpt.ofNone : StaysOpt s none := fun _ e => by cases e
theorem Stays.getD {o : Option State} (h : StaysOpt s o) (k : Stays s u) : Stays s (o.getD u) := by
  cases o with
  | none => exact k
  | some t => exact h t rfl
theorem StaysOpt.get {o : Option State} {t : State} (h : StaysOpt s o) (e : o = some t) : Stays s t := h t e

/-! ### Outcomes -/

/-- A command's outcome keeps or stays as its next state does. -/
def KeepsOut (s : State) (o : Host.Outcome State Fault Refusal) : Prop := ∀ t, o = .next t → Keeps s t
def StaysOut (s : State) (o : Host.Outcome State Fault Refusal) : Prop := ∀ t, o = .next t → Stays s t

theorem KeepsOut.next {t : State} (h : Keeps s t) : KeepsOut s (.next t) := fun _ e => by cases e; exact h
theorem StaysOut.next {t : State} (h : Stays s t) : StaysOut s (.next t) := fun _ e => by cases e; exact h

theorem StaysOut.keeps {o : Host.Outcome State Fault Refusal} (h : StaysOut s o) : KeepsOut s o := fun t e => (h t e).keeps

end Sys2Proof.Machine
end

