-- ==== Sys2Proof/Laws/KeepsOps.lean ====
section
/-!
SUPPORT. What the operations of Machine/Ops keep (Laws/Keeps).
-/
namespace Sys2Proof.Machine

set_option linter.all false

variable {s0 s : State}

theorem State.setReg_stays {p : Page} {off : Nat} {v : W64} (h : Stays s0 s) : Stays s0 (s.setReg p off v) :=
  h.regs (fun w => storeWf_put _ _ _ _ w)

theorem State.setF_stays {f : Fld} {inst v : Nat} (hk : Stays s0 s) : Stays s0 (State.setF s f inst v) := by
  unfold State.setF
  repeat' (first
    | ((try lift_lets); intro (x : State); refine Stays.via (s := s0) (x := x) ?_ (fun hx => ?_); rotate_left; clear_value x; rotate_left; unfold x)
    | ((try lift_lets); intro x; clear_value x)
    | with_reducible assumption
    | with_reducible apply State.setReg_stays
    | split
    | (dsimp only)
    | (with_reducible apply Stays.upd; first | with_reducible assumption | with_reducible apply State.setReg_stays | split))

theorem State.rose_stays {p : Page} {off : Nat} {b : W64} (hk : Stays s0 s) : Stays s0 (State.rose s p off b) := by
  unfold State.rose
  repeat' (first
    | ((try lift_lets); intro (x : State); refine Stays.via (s := s0) (x := x) ?_ (fun hx => ?_); rotate_left; clear_value x; rotate_left; unfold x)
    | ((try lift_lets); intro x; clear_value x)
    | with_reducible assumption
    | split
    | (dsimp only)
    | (with_reducible apply Stays.upd; first | with_reducible assumption | split))

theorem State.raiseBits_stays {p : Page} {off : Nat} {b : W64} (hk : Stays s0 s) : Stays s0 (State.raiseBits s p off b) := by
  unfold State.raiseBits
  repeat' (first
    | ((try lift_lets); intro (x : State); refine Stays.via (s := s0) (x := x) ?_ (fun hx => ?_); rotate_left; clear_value x; rotate_left; unfold x)
    | ((try lift_lets); intro x; clear_value x)
    | with_reducible assumption
    | with_reducible apply State.rose_stays
    | with_reducible apply State.setReg_stays
    | split
    | (dsimp only)
    | (with_reducible apply Stays.upd; first | with_reducible assumption | with_reducible apply State.rose_stays | with_reducible apply State.setReg_stays | split))

theorem State.raiseF_stays {f : Fld} {inst : Nat} (hk : Stays s0 s) : Stays s0 (State.raiseF s f inst) := by
  unfold State.raiseF
  repeat' (first
    | ((try lift_lets); intro (x : State); refine Stays.via (s := s0) (x := x) ?_ (fun hx => ?_); rotate_left; clear_value x; rotate_left; unfold x)
    | ((try lift_lets); intro x; clear_value x)
    | with_reducible assumption
    | with_reducible apply State.raiseBits_stays
    | split
    | (dsimp only)
    | (with_reducible apply Stays.upd; first | with_reducible assumption | with_reducible apply State.raiseBits_stays | split))

theorem State.setTile_stays {a : TileAddr} {t : Tile} (h : Stays s0 s) : Stays s0 (s.setTile a t) :=
  h.tiles (fun w => storeWf_put _ _ _ _ w)

theorem State.setField_stays {a : FieldAddr} {f : FieldSt} (h : Stays s0 s) : Stays s0 (s.setField a f) :=
  h.fields (fun w => storeWf_put _ _ _ _ w)

theorem State.hostSend_stays {o : HostOut} (hk : Stays s0 s) : Stays s0 (State.hostSend s o) := by
  unfold State.hostSend
  repeat' (first
    | ((try lift_lets); intro (x : State); refine Stays.via (s := s0) (x := x) ?_ (fun hx => ?_); rotate_left; clear_value x; rotate_left; unfold x)
    | ((try lift_lets); intro x; clear_value x)
    | with_reducible assumption
    | split
    | (dsimp only)
    | (with_reducible apply Stays.upd; first | with_reducible assumption | split))

theorem State.setMsix_stays {v : Nat} {e : MsixEntry} (h : Stays s0 s) : Stays s0 (s.setMsix v e) :=
  h.msix (fun w => storeWf_put _ _ _ _ w)

theorem State.msixSend_stays {vector : Nat} (hk : Stays s0 s) : Stays s0 (State.msixSend s vector) := by
  unfold State.msixSend
  repeat' (first
    | ((try lift_lets); intro (x : State); refine Stays.via (s := s0) (x := x) ?_ (fun hx => ?_); rotate_left; clear_value x; rotate_left; unfold x)
    | ((try lift_lets); intro x; clear_value x)
    | with_reducible assumption
    | with_reducible apply State.setMsix_stays
    | with_reducible apply State.hostSend_stays
    | split
    | (dsimp only)
    | (with_reducible apply Stays.upd; first | with_reducible assumption | with_reducible apply State.setMsix_stays | with_reducible apply State.hostSend_stays | split))

theorem State.sendIrq_stays {p : Page} (hk : Stays s0 s) : Stays s0 (State.sendIrq s p) := by
  unfold State.sendIrq
  repeat' (first
    | ((try lift_lets); intro (x : State); refine Stays.via (s := s0) (x := x) ?_ (fun hx => ?_); rotate_left; clear_value x; rotate_left; unfold x)
    | ((try lift_lets); intro x; clear_value x)
    | with_reducible assumption
    | with_reducible apply State.msixSend_stays
    | split
    | (dsimp only)
    | (with_reducible apply Stays.upd; first | with_reducible assumption | with_reducible apply State.msixSend_stays | split))

theorem State.setIrq_stays {typ : PageType} {inst bit : Nat} (hk : Stays s0 s) : Stays s0 (State.setIrq s typ inst bit) := by
  unfold State.setIrq
  repeat' (first
    | ((try lift_lets); intro (x : State); refine Stays.via (s := s0) (x := x) ?_ (fun hx => ?_); rotate_left; clear_value x; rotate_left; unfold x)
    | ((try lift_lets); intro x; clear_value x)
    | with_reducible assumption
    | with_reducible apply State.sendIrq_stays
    | with_reducible apply State.raiseBits_stays
    | split
    | (dsimp only)
    | (with_reducible apply Stays.upd; first | with_reducible assumption | with_reducible apply State.sendIrq_stays | with_reducible apply State.raiseBits_stays | split))

theorem State.setErr_stays {typ : PageType} {inst bit : Nat} (hk : Stays s0 s) : Stays s0 (State.setErr s typ inst bit) := by
  unfold State.setErr
  repeat' (first
    | ((try lift_lets); intro (x : State); refine Stays.via (s := s0) (x := x) ?_ (fun hx => ?_); rotate_left; clear_value x; rotate_left; unfold x)
    | ((try lift_lets); intro x; clear_value x)
    | with_reducible assumption
    | with_reducible apply State.raiseBits_stays
    | split
    | (dsimp only)
    | (with_reducible apply Stays.upd; first | with_reducible assumption | with_reducible apply State.raiseBits_stays | split))

theorem State.count_stays {c : Ctr} {inst n : Nat} (hk : Stays s0 s) : Stays s0 (State.count s c inst n) := by
  unfold State.count
  repeat' (first
    | ((try lift_lets); intro (x : State); refine Stays.via (s := s0) (x := x) ?_ (fun hx => ?_); rotate_left; clear_value x; rotate_left; unfold x)
    | ((try lift_lets); intro x; clear_value x)
    | with_reducible assumption
    | with_reducible apply State.setReg_stays
    | split
    | (dsimp only)
    | (with_reducible apply Stays.upd; first | with_reducible assumption | with_reducible apply State.setReg_stays | split))

theorem State.countLate_stays {c : Ctr} {inst n : Nat} {w : Waymark} (hk : Stays s0 s) : Stays s0 (State.countLate s c inst n w) := by
  unfold State.countLate
  repeat' (first
    | ((try lift_lets); intro (x : State); refine Stays.via (s := s0) (x := x) ?_ (fun hx => ?_); rotate_left; clear_value x; rotate_left; unfold x)
    | ((try lift_lets); intro x; clear_value x)
    | with_reducible assumption
    | with_reducible apply State.raiseBits_stays
    | with_reducible apply State.setReg_stays
    | split
    | (dsimp only)
    | (with_reducible apply Stays.upd; first | with_reducible assumption | with_reducible apply State.raiseBits_stays | with_reducible apply State.setReg_stays | split))

theorem State.countWm_stays {c : Ctr} {inst n : Nat} {w : Waymark} (hk : Stays s0 s) : Stays s0 (State.countWm s c inst n w) := by
  unfold State.countWm
  repeat' (first
    | ((try lift_lets); intro (x : State); refine Stays.via (s := s0) (x := x) ?_ (fun hx => ?_); rotate_left; clear_value x; rotate_left; unfold x)
    | ((try lift_lets); intro x; clear_value x)
    | with_reducible assumption
    | with_reducible apply State.countLate_stays
    | with_reducible apply State.count_stays
    | split
    | (dsimp only)
    | (with_reducible apply Stays.upd; first | with_reducible assumption | with_reducible apply State.countLate_stays | with_reducible apply State.count_stays | split))

theorem State.addAhead_stays  (hk : Stays s0 s) : Stays s0 (State.addAhead s) := by
  unfold State.addAhead
  repeat' (first
    | ((try lift_lets); intro (x : State); refine Stays.via (s := s0) (x := x) ?_ (fun hx => ?_); rotate_left; clear_value x; rotate_left; unfold x)
    | ((try lift_lets); intro x; clear_value x)
    | with_reducible assumption
    | with_reducible apply State.countWm_stays
    | with_reducible refine Stays.foldl ?_ (fun u x hu => ?_)
    | split
    | (dsimp only)
    | (with_reducible apply Stays.upd; first | with_reducible assumption | with_reducible apply State.countWm_stays | split))

theorem State.latchPage_stays {p : Page} {w : Waymark} {attempt : Nat} (hk : Stays s0 s) : Stays s0 (State.latchPage s p w attempt) := by
  unfold State.latchPage
  repeat' (first
    | ((try lift_lets); intro (x : State); refine Stays.via (s := s0) (x := x) ?_ (fun hx => ?_); rotate_left; clear_value x; rotate_left; unfold x)
    | ((try lift_lets); intro x; clear_value x)
    | with_reducible assumption
    | with_reducible apply State.raiseBits_stays
    | with_reducible apply State.setReg_stays
    | with_reducible refine Stays.foldl ?_ (fun u x hu => ?_)
    | split
    | (dsimp only)
    | (with_reducible apply Stays.upd; first | with_reducible assumption | with_reducible apply State.raiseBits_stays | with_reducible apply State.setReg_stays | split))

theorem State.capture_stays {valid : Fld} {inst : Nat} {irq : Option Nat} {vals : List (Nat × W64)} (hk : Stays s0 s) : Stays s0 (State.capture s valid inst irq vals) := by
  unfold State.capture
  repeat' (first
    | ((try lift_lets); intro (x : State); refine Stays.via (s := s0) (x := x) ?_ (fun hx => ?_); rotate_left; clear_value x; rotate_left; unfold x)
    | ((try lift_lets); intro x; clear_value x)
    | with_reducible assumption
    | with_reducible apply State.setIrq_stays
    | with_reducible apply State.rose_stays
    | with_reducible apply State.setReg_stays
    | with_reducible refine Stays.foldl ?_ (fun u x hu => ?_)
    | split
    | (dsimp only)
    | (with_reducible apply Stays.upd; first | with_reducible assumption | with_reducible apply State.setIrq_stays | with_reducible apply State.rose_stays | with_reducible apply State.setReg_stays | split))

theorem State.captureFirst_stays {valid : Fld} {inst : Nat} {irq : Option Nat} {vals : List (Nat × W64)} (hk : Stays s0 s) : Stays s0 (State.captureFirst s valid inst irq vals) := by
  unfold State.captureFirst
  repeat' (first
    | ((try lift_lets); intro (x : State); refine Stays.via (s := s0) (x := x) ?_ (fun hx => ?_); rotate_left; clear_value x; rotate_left; unfold x)
    | ((try lift_lets); intro x; clear_value x)
    | with_reducible assumption
    | with_reducible apply State.capture_stays
    | split
    | (dsimp only)
    | (with_reducible apply Stays.upd; first | with_reducible assumption | with_reducible apply State.capture_stays | split))

theorem State.captureTile_stays {valid : Fld} {inst : Nat} {irq : Option Nat} {lo : Nat} {word : W64} {vals : List (Nat × W64)} (hk : Stays s0 s) : Stays s0 (State.captureTile s valid inst irq lo word vals) := by
  unfold State.captureTile
  repeat' (first
    | ((try lift_lets); intro (x : State); refine Stays.via (s := s0) (x := x) ?_ (fun hx => ?_); rotate_left; clear_value x; rotate_left; unfold x)
    | ((try lift_lets); intro x; clear_value x)
    | with_reducible assumption
    | with_reducible apply State.capture_stays
    | split
    | (dsimp only)
    | (with_reducible apply Stays.upd; first | with_reducible assumption | with_reducible apply State.capture_stays | split))

theorem State.raise_stays {r : ErrRec} (hk : Stays s0 s) : Stays s0 (State.raise s r) := by
  unfold State.raise
  repeat' (first
    | ((try lift_lets); intro (x : State); refine Stays.via (s := s0) (x := x) ?_ (fun hx => ?_); rotate_left; clear_value x; rotate_left; unfold x)
    | ((try lift_lets); intro x; clear_value x)
    | with_reducible assumption
    | split
    | (dsimp only)
    | (with_reducible apply Stays.upd; first | with_reducible assumption | split))

theorem State.raiseOnce_stays {key : Nat} {r : ErrRec} (hk : Stays s0 s) : Stays s0 (State.raiseOnce s key r) := by
  unfold State.raiseOnce
  repeat' (first
    | ((try lift_lets); intro (x : State); refine Stays.via (s := s0) (x := x) ?_ (fun hx => ?_); rotate_left; clear_value x; rotate_left; unfold x)
    | ((try lift_lets); intro x; clear_value x)
    | with_reducible assumption
    | with_reducible apply State.raise_stays
    | split
    | (dsimp only)
    | (with_reducible apply Stays.upd; first | with_reducible assumption | with_reducible apply State.raise_stays | split))

theorem State.freeBits_stays {n : Nat} (hk : Stays s0 s) : Stays s0 (State.freeBits s n).2 := by
  unfold State.freeBits
  repeat' (first
    | ((try lift_lets); intro (x : State); refine Stays.via (s := s0) (x := x) ?_ (fun hx => ?_); rotate_left; clear_value x; rotate_left; unfold x)
    | ((try lift_lets); intro x; clear_value x)
    | with_reducible assumption
    | split
    | (dsimp only)
    | (with_reducible apply Stays.upd; first | with_reducible assumption | split))

end Sys2Proof.Machine
end

