-- ==== Sys2Proof/Laws/KeepsDefects.lean ====
section
/-!
SUPPORT. What the operations of Machine/Defects keep (Laws/Keeps).
-/
namespace Sys2Proof.Machine

set_option linter.all false

variable {s0 s : State}

theorem State.retain_stays {r : Retained} (h : Stays s0 s) : Stays s0 (s.retain r) := by
  unfold State.retain
  split
  · rename_i hl
    exact h.retained (fun _ => by simp; omega)
  · exact State.setIrq_stays (State.count_stays h)

theorem State.retireField_stays {f : FieldAddr} {cause code : Nat} {block : Option Nat} {wm : Waymark} (hk : Stays s0 s) : Stays s0 (State.retireField s f cause code block wm) := by
  unfold State.retireField
  repeat' (first
    | ((try lift_lets); intro (x : State); refine Stays.via (s := s0) (x := x) ?_ (fun hx => ?_); rotate_left; clear_value x; rotate_left; unfold x)
    | ((try lift_lets); intro x; clear_value x)
    | with_reducible assumption
    | with_reducible apply State.raise_stays
    | with_reducible apply State.setIrq_stays
    | with_reducible apply State.setField_stays
    | with_reducible apply State.retain_stays
    | split
    | (dsimp only)
    | (with_reducible apply Stays.upd; first | with_reducible assumption | with_reducible apply State.raise_stays | with_reducible apply State.setIrq_stays | with_reducible apply State.setField_stays | with_reducible apply State.retain_stays | split))

theorem State.markRebind_stays {f : FieldAddr} (hk : Stays s0 s) : Stays s0 (State.markRebind s f) := by
  unfold State.markRebind
  repeat' (first
    | ((try lift_lets); intro (x : State); refine Stays.via (s := s0) (x := x) ?_ (fun hx => ?_); rotate_left; clear_value x; rotate_left; unfold x)
    | ((try lift_lets); intro x; clear_value x)
    | with_reducible assumption
    | with_reducible apply State.setReg_stays
    | split
    | (dsimp only)
    | (with_reducible apply Stays.upd; first | with_reducible assumption | with_reducible apply State.setReg_stays | split))

theorem State.applyFences_stays {f : FieldAddr} (hk : Stays s0 s) : Stays s0 (State.applyFences s f) := by
  unfold State.applyFences
  repeat' (first
    | ((try lift_lets); intro (x : State); refine Stays.via (s := s0) (x := x) ?_ (fun hx => ?_); rotate_left; clear_value x; rotate_left; unfold x)
    | ((try lift_lets); intro x; clear_value x)
    | with_reducible assumption
    | with_reducible apply State.setField_stays
    | with_reducible refine Stays.foldl ?_ (fun u x hu => ?_)
    | split
    | (dsimp only)
    | (with_reducible apply Stays.upd; first | with_reducible assumption | with_reducible apply State.setField_stays | split))

theorem State.condemn_stays {a : TileAddr} {router : Bool} {code : Nat} {wm : Waymark} (hk : Stays s0 s) : Stays s0 (State.condemn s a router code wm) := by
  unfold State.condemn
  repeat' (first
    | ((try lift_lets); intro (x : State); refine Stays.via (s := s0) (x := x) ?_ (fun hx => ?_); rotate_left; clear_value x; rotate_left; unfold x)
    | ((try lift_lets); intro x; clear_value x)
    | with_reducible assumption
    | with_reducible apply State.raise_stays
    | with_reducible apply State.count_stays
    | with_reducible apply State.setField_stays
    | with_reducible apply State.applyFences_stays
    | with_reducible apply State.markRebind_stays
    | with_reducible apply State.retireField_stays
    | with_reducible apply State.retain_stays
    | split
    | (dsimp only)
    | (with_reducible apply Stays.upd; first | with_reducible assumption | with_reducible apply State.raise_stays | with_reducible apply State.count_stays | with_reducible apply State.setField_stays | with_reducible apply State.applyFences_stays | with_reducible apply State.markRebind_stays | with_reducible apply State.retireField_stays | with_reducible apply State.retain_stays | split))

end Sys2Proof.Machine
end

