-- ==== Sys2Proof/Laws/KeepsScratch.lean ====
section
/-!
SUPPORT. What the operations of Machine/Scratch keep (Laws/Keeps).
-/
namespace Sys2Proof.Machine

set_option linter.all false

variable {s0 s : State}

theorem State.reportCause_stays {a : FieldAddr} {cause : Nat} {hw : Bool} {row col task : Nat} (hk : Stays s0 s) : Stays s0 (State.reportCause s a cause hw row col task) := by
  unfold State.reportCause
  repeat' (first
    | ((try lift_lets); intro (x : State); refine Stays.via (s := s0) (x := x) ?_ (fun hx => ?_); rotate_left; clear_value x; rotate_left; unfold x)
    | ((try lift_lets); intro x; clear_value x)
    | with_reducible assumption
    | split
    | (dsimp only)
    | (with_reducible apply Stays.upd; first | with_reducible assumption | split))

theorem State.faultTask_stays {a : TileAddr} {task code slot op : Nat} (hk : Stays s0 s) : Stays s0 (State.faultTask s a task code slot op) := by
  unfold State.faultTask
  repeat' (first
    | ((try lift_lets); intro (x : State); refine Stays.via (s := s0) (x := x) ?_ (fun hx => ?_); rotate_left; clear_value x; rotate_left; unfold x)
    | ((try lift_lets); intro x; clear_value x)
    | with_reducible assumption
    | with_reducible apply State.reportCause_stays
    | with_reducible apply State.raise_stays
    | with_reducible apply State.count_stays
    | with_reducible apply State.setIrq_stays
    | with_reducible apply State.setTile_stays
    | split
    | (dsimp only)
    | (with_reducible apply Stays.upd; first | with_reducible assumption | with_reducible apply State.reportCause_stays | with_reducible apply State.raise_stays | with_reducible apply State.count_stays | with_reducible apply State.setIrq_stays | with_reducible apply State.setTile_stays | split))

theorem State.countBank_stays {a : TileAddr} {deep : Bool} {n : Nat} (hk : Stays s0 s) : Stays s0 (State.countBank s a deep n) := by
  unfold State.countBank
  repeat' (first
    | ((try lift_lets); intro (x : State); refine Stays.via (s := s0) (x := x) ?_ (fun hx => ?_); rotate_left; clear_value x; rotate_left; unfold x)
    | ((try lift_lets); intro x; clear_value x)
    | with_reducible assumption
    | with_reducible apply State.count_stays
    | split
    | (dsimp only)
    | (with_reducible apply Stays.upd; first | with_reducible assumption | with_reducible apply State.count_stays | split))

theorem State.noteUe_stays {a : TileAddr} {deep : Bool} {off : Nat} {src : UeSource} {task : Nat} (hk : Stays s0 s) : Stays s0 (State.noteUe s a deep off src task) := by
  unfold State.noteUe
  repeat' (first
    | ((try lift_lets); intro (x : State); refine Stays.via (s := s0) (x := x) ?_ (fun hx => ?_); rotate_left; clear_value x; rotate_left; unfold x)
    | ((try lift_lets); intro x; clear_value x)
    | with_reducible assumption
    | with_reducible apply State.raiseOnce_stays
    | with_reducible apply State.captureTile_stays
    | with_reducible apply State.count_stays
    | split
    | (dsimp only)
    | (with_reducible apply Stays.upd; first | with_reducible assumption | with_reducible apply State.raiseOnce_stays | with_reducible apply State.captureTile_stays | with_reducible apply State.count_stays | split))

theorem State.decodeRow_stays {a : TileAddr} {deep : Bool} {row : Nat} {used : List Nat} {src : UeSource} {task : Nat} (hk : Stays s0 s) : Stays s0 (State.decodeRow s a deep row used src task).1 := by
  unfold State.decodeRow
  repeat' (first
    | ((try lift_lets); intro (x : State); refine Stays.via (s := s0) (x := x) ?_ (fun hx => ?_); rotate_left; clear_value x; rotate_left; unfold x)
    | ((try lift_lets); intro (x : State × _); refine Stays.via (s := s0) (x := x.1) ?_ (fun hx => ?_); rotate_left; clear_value x; rotate_left; unfold x)
    | ((try lift_lets); intro (x : _ × State); refine Stays.via (s := s0) (x := x.2) ?_ (fun hx => ?_); rotate_left; clear_value x; rotate_left; unfold x)
    | ((try lift_lets); intro x; clear_value x)
    | with_reducible assumption
    | with_reducible apply State.noteUe_stays
    | with_reducible apply State.countBank_stays
    | with_reducible apply State.count_stays
    | with_reducible apply State.setTile_stays
    | with_reducible refine Stays.foldl ?_ (fun u x hu => ?_)
    | with_reducible refine Stays.foldl_fst ?_ (fun u x hu => ?_)
    | split
    | (dsimp only)
    | (with_reducible apply Stays.upd; first | with_reducible assumption | with_reducible apply State.noteUe_stays | with_reducible apply State.countBank_stays | with_reducible apply State.count_stays | with_reducible apply State.setTile_stays | split))

theorem flushWord_stays {a : TileAddr} {e : GatherEnt} {w : Nat} (hk : Stays s0 s) : Stays s0 (flushWord s a e w) := by
  unfold flushWord
  repeat' (first
    | ((try lift_lets); intro (x : State); refine Stays.via (s := s0) (x := x) ?_ (fun hx => ?_); rotate_left; clear_value x; rotate_left; unfold x)
    | ((try lift_lets); intro x; clear_value x)
    | with_reducible assumption
    | with_reducible apply State.countBank_stays
    | with_reducible apply State.setTile_stays
    | split
    | (dsimp only)
    | (with_reducible apply Stays.upd; first | with_reducible assumption | with_reducible apply State.countBank_stays | with_reducible apply State.setTile_stays | split))

theorem State.flushEntry_stays {a : TileAddr} {e : GatherEnt} (hk : Stays s0 s) : Stays s0 (State.flushEntry s a e) := by
  unfold State.flushEntry
  repeat' (first
    | ((try lift_lets); intro (x : State); refine Stays.via (s := s0) (x := x) ?_ (fun hx => ?_); rotate_left; clear_value x; rotate_left; unfold x)
    | ((try lift_lets); intro (x : State × _); refine Stays.via (s := s0) (x := x.1) ?_ (fun hx => ?_); rotate_left; clear_value x; rotate_left; unfold x)
    | ((try lift_lets); intro (x : _ × State); refine Stays.via (s := s0) (x := x.2) ?_ (fun hx => ?_); rotate_left; clear_value x; rotate_left; unfold x)
    | ((try lift_lets); intro x; clear_value x)
    | with_reducible assumption
    | with_reducible apply flushWord_stays
    | with_reducible refine Stays.of_fst (State.decodeRow_stays ?_) (by assumption)
    | with_reducible apply State.decodeRow_stays
    | with_reducible apply State.count_stays
    | with_reducible apply State.setTile_stays
    | with_reducible refine Stays.foldl ?_ (fun u x hu => ?_)
    | with_reducible refine Stays.foldl_fst ?_ (fun u x hu => ?_)
    | split
    | (dsimp only)
    | (with_reducible apply Stays.upd; first | with_reducible assumption | with_reducible apply flushWord_stays | with_reducible refine Stays.of_fst (State.decodeRow_stays ?_) (by assumption) | with_reducible apply State.decodeRow_stays | with_reducible apply State.count_stays | with_reducible apply State.setTile_stays | split))

theorem State.flushRow_stays {a : TileAddr} {deep : Bool} {row : Nat} (hk : Stays s0 s) : Stays s0 (State.flushRow s a deep row) := by
  unfold State.flushRow
  repeat' (first
    | ((try lift_lets); intro (x : State); refine Stays.via (s := s0) (x := x) ?_ (fun hx => ?_); rotate_left; clear_value x; rotate_left; unfold x)
    | ((try lift_lets); intro x; clear_value x)
    | with_reducible assumption
    | with_reducible apply State.flushEntry_stays
    | split
    | (dsimp only)
    | (with_reducible apply Stays.upd; first | with_reducible assumption | with_reducible apply State.flushEntry_stays | split))

theorem State.flushAll_stays {a : TileAddr} (hk : Stays s0 s) : Stays s0 (State.flushAll s a) := by
  unfold State.flushAll
  repeat' (first
    | ((try lift_lets); intro (x : State); refine Stays.via (s := s0) (x := x) ?_ (fun hx => ?_); rotate_left; clear_value x; rotate_left; unfold x)
    | ((try lift_lets); intro x; clear_value x)
    | with_reducible assumption
    | with_reducible apply State.flushEntry_stays
    | with_reducible refine Stays.foldl ?_ (fun u x hu => ?_)
    | split
    | (dsimp only)
    | (with_reducible apply Stays.upd; first | with_reducible assumption | with_reducible apply State.flushEntry_stays | split))

theorem State.gatherRoom_stays {a : TileAddr} (hk : Stays s0 s) : Stays s0 (State.gatherRoom s a) := by
  unfold State.gatherRoom
  repeat' (first
    | ((try lift_lets); intro (x : State); refine Stays.via (s := s0) (x := x) ?_ (fun hx => ?_); rotate_left; clear_value x; rotate_left; unfold x)
    | ((try lift_lets); intro x; clear_value x)
    | with_reducible assumption
    | with_reducible apply State.flushEntry_stays
    | split
    | (dsimp only)
    | (with_reducible apply Stays.upd; first | with_reducible assumption | with_reducible apply State.flushEntry_stays | split))

theorem State.narrowWrite_stays {a : TileAddr} {deep : Bool} {off : Nat} {bs : List Byte} (hk : Stays s0 s) : Stays s0 (State.narrowWrite s a deep off bs) := by
  unfold State.narrowWrite
  repeat' (first
    | ((try lift_lets); intro (x : State); refine Stays.via (s := s0) (x := x) ?_ (fun hx => ?_); rotate_left; clear_value x; rotate_left; unfold x)
    | ((try lift_lets); intro (x : _ → _); dsimp -zeta only [x]; clear x)
    | ((try lift_lets); intro x; clear_value x)
    | with_reducible assumption
    | with_reducible apply State.gatherRoom_stays
    | with_reducible apply State.flushEntry_stays
    | with_reducible apply State.setTile_stays
    | split
    | (dsimp only)
    | (with_reducible apply Stays.upd; first | with_reducible assumption | with_reducible apply State.gatherRoom_stays | with_reducible apply State.flushEntry_stays | with_reducible apply State.setTile_stays | split))

theorem State.writeRows_stays {a : TileAddr} {deep : Bool} {off : Nat} {bs : List Byte} (hk : Stays s0 s) : Stays s0 (State.writeRows s a deep off bs) := by
  unfold State.writeRows
  repeat' (first
    | ((try lift_lets); intro (x : State); refine Stays.via (s := s0) (x := x) ?_ (fun hx => ?_); rotate_left; clear_value x; rotate_left; unfold x)
    | ((try lift_lets); intro x; clear_value x)
    | with_reducible assumption
    | with_reducible apply State.flushRow_stays
    | with_reducible apply State.countBank_stays
    | with_reducible apply State.setTile_stays
    | with_reducible refine Stays.foldl ?_ (fun u x hu => ?_)
    | split
    | (dsimp only)
    | (with_reducible apply Stays.upd; first | with_reducible assumption | with_reducible apply State.flushRow_stays | with_reducible apply State.countBank_stays | with_reducible apply State.setTile_stays | split))

theorem State.readRow_stays {a : TileAddr} {deep : Bool} {row : Nat} {used : List Nat} {src : UeSource} {task : Nat} (hk : Stays s0 s) : Stays s0 (State.readRow s a deep row used src task).1 := by
  unfold State.readRow
  repeat' (first
    | ((try lift_lets); intro (x : State); refine Stays.via (s := s0) (x := x) ?_ (fun hx => ?_); rotate_left; clear_value x; rotate_left; unfold x)
    | ((try lift_lets); intro (x : State × _); refine Stays.via (s := s0) (x := x.1) ?_ (fun hx => ?_); rotate_left; clear_value x; rotate_left; unfold x)
    | ((try lift_lets); intro (x : _ × State); refine Stays.via (s := s0) (x := x.2) ?_ (fun hx => ?_); rotate_left; clear_value x; rotate_left; unfold x)
    | ((try lift_lets); intro x; clear_value x)
    | with_reducible assumption
    | with_reducible apply State.flushRow_stays
    | with_reducible refine Stays.of_fst (State.decodeRow_stays ?_) (by assumption)
    | with_reducible apply State.decodeRow_stays
    | split
    | (dsimp only)
    | (with_reducible apply Stays.upd; first | with_reducible assumption | with_reducible apply State.flushRow_stays | with_reducible refine Stays.of_fst (State.decodeRow_stays ?_) (by assumption) | with_reducible apply State.decodeRow_stays | split))

theorem State.readBytes_stays {a : TileAddr} {deep : Bool} {used : List Nat} {src : UeSource} {task : Nat} (hk : Stays s0 s) : Stays s0 (State.readBytes s a deep used src task).1 := by
  unfold State.readBytes
  repeat' (first
    | ((try lift_lets); intro (x : State); refine Stays.via (s := s0) (x := x) ?_ (fun hx => ?_); rotate_left; clear_value x; rotate_left; unfold x)
    | ((try lift_lets); intro (x : State × _); refine Stays.via (s := s0) (x := x.1) ?_ (fun hx => ?_); rotate_left; clear_value x; rotate_left; unfold x)
    | ((try lift_lets); intro (x : _ × State); refine Stays.via (s := s0) (x := x.2) ?_ (fun hx => ?_); rotate_left; clear_value x; rotate_left; unfold x)
    | ((try lift_lets); intro x; clear_value x)
    | with_reducible assumption
    | with_reducible refine Stays.of_fst (State.readRow_stays ?_) (by assumption)
    | with_reducible apply State.readRow_stays
    | with_reducible apply State.count_stays
    | with_reducible refine Stays.foldl ?_ (fun u x hu => ?_)
    | with_reducible refine Stays.foldl_fst ?_ (fun u x hu => ?_)
    | split
    | (dsimp only)
    | (with_reducible apply Stays.upd; first | with_reducible assumption | with_reducible refine Stays.of_fst (State.readRow_stays ?_) (by assumption) | with_reducible apply State.readRow_stays | with_reducible apply State.count_stays | split))

theorem State.failTile_stays {a : TileAddr} {task : Nat} (hk : Stays s0 s) : Stays s0 (State.failTile s a task) := by
  unfold State.failTile
  repeat' (first
    | ((try lift_lets); intro (x : State); refine Stays.via (s := s0) (x := x) ?_ (fun hx => ?_); rotate_left; clear_value x; rotate_left; unfold x)
    | ((try lift_lets); intro x; clear_value x)
    | with_reducible assumption
    | with_reducible apply State.reportCause_stays
    | with_reducible apply State.setTile_stays
    | with_reducible apply State.condemn_stays
    | split
    | (dsimp only)
    | (with_reducible apply Stays.upd; first | with_reducible assumption | with_reducible apply State.reportCause_stays | with_reducible apply State.setTile_stays | with_reducible apply State.condemn_stays | split))

end Sys2Proof.Machine
end

