-- ==== Sys2Proof/Laws/KeepsFlags.lean ====
section
/-!
SUPPORT. What the operations of Machine/Flags keep (Laws/Keeps).
-/
namespace Sys2Proof.Machine

set_option linter.all false

variable {s0 s : State}

theorem State.arfFlags_stays {a : FieldAddr} {b : BitVec 8} (hk : Stays s0 s) : Stays s0 (State.arfFlags s a b) := by
  unfold State.arfFlags
  repeat' (first
    | ((try lift_lets); intro (x : State); refine Stays.via (s := s0) (x := x) ?_ (fun hx => ?_); rotate_left; clear_value x; rotate_left; unfold x)
    | ((try lift_lets); intro (x : _ → _); dsimp -zeta only [x]; clear x)
    | ((try lift_lets); intro x; clear_value x)
    | with_reducible assumption
    | with_reducible apply State.setIrq_stays
    | with_reducible apply State.raiseBits_stays
    | with_reducible apply State.rose_stays
    | split
    | (dsimp only)
    | (with_reducible apply Stays.upd; first | with_reducible assumption | with_reducible apply State.setIrq_stays | with_reducible apply State.raiseBits_stays | with_reducible apply State.rose_stays | split))

theorem State.taskFlags_stays {a : TileAddr} {task : Nat} {b : BitVec 8} (hk : Stays s0 s) : Stays s0 (State.taskFlags s a task b) := by
  unfold State.taskFlags
  repeat' (first
    | ((try lift_lets); intro (x : State); refine Stays.via (s := s0) (x := x) ?_ (fun hx => ?_); rotate_left; clear_value x; rotate_left; unfold x)
    | ((try lift_lets); intro x; clear_value x)
    | with_reducible assumption
    | with_reducible apply State.setTile_stays
    | split
    | (dsimp only)
    | (with_reducible apply Stays.upd; first | with_reducible assumption | with_reducible apply State.setTile_stays | split))

theorem State.noteResult_stays {a : TileAddr} {task : Nat} {w : Waymark} {lo hi range : Bool} {f : RFlags} {sr fast : Bool} (hk : Stays s0 s) : Stays s0 (State.noteResult s a task w lo hi range f sr fast) := by
  unfold State.noteResult
  repeat' (first
    | ((try lift_lets); intro (x : State); refine Stays.via (s := s0) (x := x) ?_ (fun hx => ?_); rotate_left; clear_value x; rotate_left; unfold x)
    | ((try lift_lets); intro x; clear_value x)
    | with_reducible assumption
    | with_reducible apply State.raiseOnce_stays
    | with_reducible apply State.captureTile_stays
    | with_reducible apply State.countWm_stays
    | with_reducible apply State.taskFlags_stays
    | with_reducible apply State.arfFlags_stays
    | split
    | (dsimp only)
    | (with_reducible apply Stays.upd; first | with_reducible assumption | with_reducible apply State.raiseOnce_stays | with_reducible apply State.captureTile_stays | with_reducible apply State.countWm_stays | with_reducible apply State.taskFlags_stays | with_reducible apply State.arfFlags_stays | split))

end Sys2Proof.Machine
end

