-- ==== Sys2Proof/Laws/KeepsCheckTap.lean ====
section
/-!
SUPPORT. What the operations of Machine/CheckTap keep (Laws/Keeps).
-/
namespace Sys2Proof.Machine

set_option linter.all false

variable {s0 s : State}

theorem State.tapMma_stays {a : TileAddr} {task b : Nat} {x y : DataTok} {hi : Bool} (hk : Stays s0 s) : Stays s0 (State.tapMma s a task b x y hi) := by
  unfold State.tapMma
  repeat' (first
    | ((try lift_lets); intro (x : State); refine Stays.via (s := s0) (x := x) ?_ (fun hx => ?_); rotate_left; clear_value x; rotate_left; unfold x)
    | ((try lift_lets); intro x; clear_value x)
    | with_reducible assumption
    | with_reducible apply State.count_stays
    | with_reducible apply State.setTile_stays
    | split
    | (dsimp only)
    | (with_reducible apply Stays.upd; first | with_reducible assumption | with_reducible apply State.count_stays | with_reducible apply State.setTile_stays | split))

theorem State.tapEmit_stays {a : TileAddr} {task b : Nat} {vals : List ExactVal} (hk : Stays s0 s) : Stays s0 (State.tapEmit s a task b vals) := by
  unfold State.tapEmit
  repeat' (first
    | ((try lift_lets); intro (x : State); refine Stays.via (s := s0) (x := x) ?_ (fun hx => ?_); rotate_left; clear_value x; rotate_left; unfold x)
    | ((try lift_lets); intro x; clear_value x)
    | with_reducible assumption
    | with_reducible apply State.setTile_stays
    | split
    | (dsimp only)
    | (with_reducible apply Stays.upd; first | with_reducible assumption | with_reducible apply State.setTile_stays | split))

theorem State.tapDrop_stays {a : TileAddr} {b : Nat} (hk : Stays s0 s) : Stays s0 (State.tapDrop s a b) := by
  unfold State.tapDrop
  repeat' (first
    | ((try lift_lets); intro (x : State); refine Stays.via (s := s0) (x := x) ?_ (fun hx => ?_); rotate_left; clear_value x; rotate_left; unfold x)
    | ((try lift_lets); intro x; clear_value x)
    | with_reducible assumption
    | with_reducible apply State.count_stays
    | with_reducible apply State.setTile_stays
    | split
    | (dsimp only)
    | (with_reducible apply Stays.upd; first | with_reducible assumption | with_reducible apply State.count_stays | with_reducible apply State.setTile_stays | split))

end Sys2Proof.Machine
end

