-- ==== Sys2Proof/Laws/KeepsOperands.lean ====
section
/-!
SUPPORT. What the operations of Machine/Operands keep (Laws/Keeps).
-/
namespace Sys2Proof.Machine

set_option linter.all false

variable {s0 s : State}

theorem State.fire_stays {a : TileAddr} {task slot opc : Nat} {cmp : TaskCtx → SlotWord → Bool}
    {body : SlotWord → Tile → State → State} (h : Stays s0 s) (hb : ∀ w t u, Stays s0 u → Stays s0 (body w t u)) :
    Stays s0 (s.fire a task slot opc cmp body) := by
  unfold State.fire
  split
  · exact hb _ _ _ (State.setTile_stays h)
  · exact h

theorem State.fireUnless_stays {a : TileAddr} {task slot opc : Nat} {stop : SlotWord → Tile → Option Nat}
    {body : SlotWord → Tile → State → State} (h : Stays s0 s) (hb : ∀ w t u, Stays s0 u → Stays s0 (body w t u)) :
    Stays s0 (s.fireUnless a task slot opc stop body) := by
  unfold State.fireUnless
  split
  · dsimp only
    split
    · exact State.faultTask_stays h
    · exact hb _ _ _ (State.setTile_stays h)
  · exact h

theorem State.setG_stays {a : TileAddr} {task n : Nat} {v : W32} (hk : Stays s0 s) : Stays s0 (State.setG s a task n v) := by
  unfold State.setG
  repeat' (first
    | ((try lift_lets); intro (x : State); refine Stays.via (s := s0) (x := x) ?_ (fun hx => ?_); rotate_left; clear_value x; rotate_left; unfold x)
    | ((try lift_lets); intro x; clear_value x)
    | with_reducible assumption
    | with_reducible apply State.setTile_stays
    | with_reducible apply State.setReg_stays
    | split
    | (dsimp only)
    | (with_reducible apply Stays.upd; first | with_reducible assumption | with_reducible apply State.setTile_stays | with_reducible apply State.setReg_stays | split))

theorem State.setV_stays {a : TileAddr} {task n : Nat} {v : Nat → W32} (hk : Stays s0 s) : Stays s0 (State.setV s a task n v) := by
  unfold State.setV
  repeat' (first
    | ((try lift_lets); intro (x : State); refine Stays.via (s := s0) (x := x) ?_ (fun hx => ?_); rotate_left; clear_value x; rotate_left; unfold x)
    | ((try lift_lets); intro x; clear_value x)
    | with_reducible assumption
    | with_reducible apply State.setTile_stays
    | split
    | (dsimp only)
    | (with_reducible apply Stays.upd; first | with_reducible assumption | with_reducible apply State.setTile_stays | split))

theorem State.enq_stays {a : TileAddr} {d : Nat} {x : OTok} (hk : Stays s0 s) : Stays s0 (State.enq s a d x) := by
  unfold State.enq
  repeat' (first
    | ((try lift_lets); intro (x : State); refine Stays.via (s := s0) (x := x) ?_ (fun hx => ?_); rotate_left; clear_value x; rotate_left; unfold x)
    | ((try lift_lets); intro x; clear_value x)
    | with_reducible assumption
    | with_reducible apply State.setTile_stays
    | split
    | (dsimp only)
    | (with_reducible apply Stays.upd; first | with_reducible assumption | with_reducible apply State.setTile_stays | split))

end Sys2Proof.Machine
end

