-- ==== Sys2Proof/Laws/KeepsRegWrite.lean ====
section
/-!
SUPPORT. What the operations of Machine/RegWrite keep (Laws/Keeps).
-/
namespace Sys2Proof.Machine

set_option linter.all false

variable {s0 s : State}

theorem State.writeResult_stays {fw : Bool} {p : Page} {off : Nat} {v : W64} {code : Nat} (hk : Stays s0 s) : Stays s0 (State.writeResult s fw p off v code) := by
  unfold State.writeResult
  repeat' (first
    | ((try lift_lets); intro (x : State); refine Stays.via (s := s0) (x := x) ?_ (fun hx => ?_); rotate_left; clear_value x; rotate_left; unfold x)
    | ((try lift_lets); intro x; clear_value x)
    | with_reducible assumption
    | with_reducible apply State.captureFirst_stays
    | with_reducible apply State.count_stays
    | with_reducible apply State.setReg_stays
    | split
    | (dsimp only)
    | (with_reducible apply Stays.upd; first | with_reducible assumption | with_reducible apply State.captureFirst_stays | with_reducible apply State.count_stays | with_reducible apply State.setReg_stays | split))

theorem State.regWrite_stays {fw : Bool} {p : Page} {off : Nat} {size : Bool} {v : W64} {range state : Bool}
    {action : State → State} (h : Stays s0 s) (ha : ∀ u, Stays s0 u → Stays s0 (action u)) :
    Stays s0 (s.regWrite fw p off size v range state action) := by
  unfold State.regWrite
  dsimp only
  split
  · split
    · exact h
    · refine State.writeResult_stays (ha _ ?_)
      split
      · exact State.sendIrq_stays (State.setReg_stays h)
      · exact State.setReg_stays h
  · exact State.writeResult_stays h

theorem State.regWrite_keeps {fw : Bool} {p : Page} {off : Nat} {size : Bool} {v : W64} {range state : Bool}
    {action : State → State} (h : Keeps s0 s) (ha : ∀ u, Keeps s0 u → Keeps s0 (action u)) :
    Keeps s0 (s.regWrite fw p off size v range state action) := by
  unfold State.regWrite
  dsimp only
  split
  · split
    · exact h
    · refine Keeps.step (ha _ ?_) (State.writeResult_stays (Stays.refl _))
      split
      · exact Keeps.step (Keeps.step h (State.setReg_stays (Stays.refl _))) (State.sendIrq_stays (Stays.refl _))
      · exact Keeps.step h (State.setReg_stays (Stays.refl _))
  · exact Keeps.step h (State.writeResult_stays (Stays.refl _))

end Sys2Proof.Machine
end

