-- ==== Sys2Proof/Laws/KeepsEdge.lean ====
section
/-!
SUPPORT. What the operations of Machine/Edge keep (Laws/Keeps).
-/
namespace Sys2Proof.Machine

set_option linter.all false

variable {s0 s : State}

theorem State.setBurst_stays {p b : Nat} {m : EccMark} (hk : Stays s0 s) : Stays s0 (State.setBurst s p b m) := by
  unfold State.setBurst
  repeat' (first
    | ((try lift_lets); intro (x : State); refine Stays.via (s := s0) (x := x) ?_ (fun hx => ?_); rotate_left; clear_value x; rotate_left; unfold x)
    | ((try lift_lets); intro x; clear_value x)
    | with_reducible assumption
    | split
    | (dsimp only)
    | (with_reducible apply Stays.upd; first | with_reducible assumption | split))

theorem State.noteEdgeUe_stays {p : Fin 2} {b : Nat} {src : EdgeSource} (hk : Stays s0 s) : Stays s0 (State.noteEdgeUe s p b src) := by
  unfold State.noteEdgeUe
  repeat' (first
    | ((try lift_lets); intro (x : State); refine Stays.via (s := s0) (x := x) ?_ (fun hx => ?_); rotate_left; clear_value x; rotate_left; unfold x)
    | ((try lift_lets); intro x; clear_value x)
    | with_reducible assumption
    | with_reducible apply State.raiseOnce_stays
    | with_reducible apply State.captureFirst_stays
    | with_reducible apply State.count_stays
    | split
    | (dsimp only)
    | (with_reducible apply Stays.upd; first | with_reducible assumption | with_reducible apply State.raiseOnce_stays | with_reducible apply State.captureFirst_stays | with_reducible apply State.count_stays | split))

theorem State.touchEdge_stays {p : Nat} (hk : Stays s0 s) : Stays s0 (State.touchEdge s p) := by
  unfold State.touchEdge
  repeat' (first
    | ((try lift_lets); intro (x : State); refine Stays.via (s := s0) (x := x) ?_ (fun hx => ?_); rotate_left; clear_value x; rotate_left; unfold x)
    | ((try lift_lets); intro x; clear_value x)
    | with_reducible assumption
    | split
    | (dsimp only)
    | (with_reducible apply Stays.upd; first | with_reducible assumption | split))

theorem State.readBurst_stays {p : Fin 2} {b : Nat} {src : EdgeSource} (hk : Stays s0 s) : Stays s0 (State.readBurst s p b src).1 := by
  unfold State.readBurst
  repeat' (first
    | ((try lift_lets); intro (x : State); refine Stays.via (s := s0) (x := x) ?_ (fun hx => ?_); rotate_left; clear_value x; rotate_left; unfold x)
    | ((try lift_lets); intro x; clear_value x)
    | with_reducible assumption
    | with_reducible apply State.count_stays
    | with_reducible apply State.noteEdgeUe_stays
    | split
    | (dsimp only)
    | (with_reducible apply Stays.upd; first | with_reducible assumption | with_reducible apply State.count_stays | with_reducible apply State.noteEdgeUe_stays | split))

theorem State.edgeRead_stays {p : Fin 2} {a n : Nat} {src : EdgeSource} (hk : Stays s0 s) : Stays s0 (State.edgeRead s p a n src).1 := by
  unfold State.edgeRead
  repeat' (first
    | ((try lift_lets); intro (x : State); refine Stays.via (s := s0) (x := x) ?_ (fun hx => ?_); rotate_left; clear_value x; rotate_left; unfold x)
    | ((try lift_lets); intro (x : State × _); refine Stays.via (s := s0) (x := x.1) ?_ (fun hx => ?_); rotate_left; clear_value x; rotate_left; unfold x)
    | ((try lift_lets); intro (x : _ × State); refine Stays.via (s := s0) (x := x.2) ?_ (fun hx => ?_); rotate_left; clear_value x; rotate_left; unfold x)
    | ((try lift_lets); intro x; clear_value x)
    | with_reducible assumption
    | with_reducible apply State.count_stays
    | with_reducible refine Stays.of_fst (State.readBurst_stays ?_) (by assumption)
    | with_reducible apply State.readBurst_stays
    | with_reducible apply State.touchEdge_stays
    | with_reducible refine Stays.foldl ?_ (fun u x hu => ?_)
    | with_reducible refine Stays.foldl_fst ?_ (fun u x hu => ?_)
    | split
    | (dsimp only)
    | (with_reducible apply Stays.upd; first | with_reducible assumption | with_reducible apply State.count_stays | with_reducible refine Stays.of_fst (State.readBurst_stays ?_) (by assumption) | with_reducible apply State.readBurst_stays | with_reducible apply State.touchEdge_stays | split))

theorem storeEdge_wf (p : Nat) (bs : List Byte) :
    ∀ (l : List (Nat × Byte)) (a : Nat), storeWf edgeDefault l = true → storeWf edgeDefault (storeEdge p l a bs) = true := by
  induction bs with
  | nil => exact fun _ _ h => h
  | cons b r ih => exact fun l a h => ih _ _ (storeWf_put _ _ _ _ h)

theorem State.writeBurst_stays {p : Fin 2} {a : Nat} {bs : List Byte} {b : Nat} (h : Stays s0 s) :
    Stays s0 (s.writeBurst p a bs b) := by
  have store : ∀ u : State, Stays s0 u → ∀ x y, Stays s0 { u with edge := storeEdge p u.edge x y } :=
    fun u hu x y => hu.edge (storeEdge_wf p y _ x)
  unfold State.writeBurst
  split
  · exact State.count_stays h
  · dsimp only
    split
    · exact (State.setBurst_stays (store s h _ _)).upd
    · have hc : Stays s0 (s.count C.EMP_RMW p 1) := State.count_stays h
      split
      · exact State.noteEdgeUe_stays (State.setBurst_stays hc)
      · exact State.noteEdgeUe_stays (State.setBurst_stays hc)
      · exact store _ hc _ _
      · exact (State.setBurst_stays (store _ (State.count_stays (State.count_stays hc)) _ _)).upd

theorem State.edgeWrite_stays {p : Fin 2} {a : Nat} {bs : List Byte} (hk : Stays s0 s) : Stays s0 (State.edgeWrite s p a bs) := by
  unfold State.edgeWrite
  repeat' (first
    | ((try lift_lets); intro (x : State); refine Stays.via (s := s0) (x := x) ?_ (fun hx => ?_); rotate_left; clear_value x; rotate_left; unfold x)
    | ((try lift_lets); intro x; clear_value x)
    | with_reducible assumption
    | with_reducible apply State.count_stays
    | with_reducible apply State.writeBurst_stays
    | with_reducible apply State.touchEdge_stays
    | with_reducible refine Stays.foldl ?_ (fun u x hu => ?_)
    | split
    | (dsimp only)
    | (with_reducible apply Stays.upd; first | with_reducible assumption | with_reducible apply State.count_stays | with_reducible apply State.writeBurst_stays | with_reducible apply State.touchEdge_stays | split))

end Sys2Proof.Machine
end

