-- ==== Sys2Proof/Laws/KeepsMemory.lean ====
section
/-!
SUPPORT. What the operations of Machine/Memory keep (Laws/Keeps).
-/
namespace Sys2Proof.Machine

set_option linter.all false

variable {s0 s : State}

theorem readTokenRow_stays {a : TileAddr} {task : Nat} {used : List (Bool × Nat)} {y : State × ReadAcc} {row : Bool × Nat} (hk : Stays s0 y.1) : Stays s0 (readTokenRow a task used y row).1 := by
  unfold readTokenRow
  repeat' (first
    | ((try lift_lets); intro (x : State); refine Stays.via (s := s0) (x := x) ?_ (fun hx => ?_); rotate_left; clear_value x; rotate_left; unfold x)
    | ((try lift_lets); intro (x : State × _); refine Stays.via (s := s0) (x := x.1) ?_ (fun hx => ?_); rotate_left; clear_value x; rotate_left; unfold x)
    | ((try lift_lets); intro (x : _ × State); refine Stays.via (s := s0) (x := x.2) ?_ (fun hx => ?_); rotate_left; clear_value x; rotate_left; unfold x)
    | ((try lift_lets); intro x; clear_value x)
    | with_reducible assumption
    | with_reducible refine Stays.of_fst (State.readRow_stays ?_) (by assumption)
    | with_reducible apply State.readRow_stays
    | with_reducible apply State.countBank_stays
    | split
    | (dsimp only)
    | (with_reducible apply Stays.upd; first | with_reducible assumption | with_reducible refine Stays.of_fst (State.readRow_stays ?_) (by assumption) | with_reducible apply State.readRow_stays | with_reducible apply State.countBank_stays | split))

theorem readToken_stays {a : TileAddr} {task : Nat} {c : TaskCtx} {w : SlotWord} {used : List (Bool × Nat)} {x : State × ReadAcc} {ks : List Nat} (hk : Stays s0 x.1) : Stays s0 (readToken a task c w used x ks).1 := by
  unfold readToken
  repeat' (first
    | ((try lift_lets); intro (x : State); refine Stays.via (s := s0) (x := x) ?_ (fun hx => ?_); rotate_left; clear_value x; rotate_left; unfold x)
    | ((try lift_lets); intro (x : State × _); refine Stays.via (s := s0) (x := x.1) ?_ (fun hx => ?_); rotate_left; clear_value x; rotate_left; unfold x)
    | ((try lift_lets); intro (x : _ × State); refine Stays.via (s := s0) (x := x.2) ?_ (fun hx => ?_); rotate_left; clear_value x; rotate_left; unfold x)
    | ((try lift_lets); intro x; clear_value x)
    | with_reducible assumption
    | with_reducible refine Stays.of_fst (readTokenRow_stays ?_) (by assumption)
    | with_reducible apply readTokenRow_stays
    | with_reducible refine Stays.foldl ?_ (fun u x hu => ?_)
    | with_reducible refine Stays.foldl_fst ?_ (fun u x hu => ?_)
    | split
    | (dsimp only)
    | (with_reducible apply Stays.upd; first | with_reducible assumption | with_reducible refine Stays.of_fst (readTokenRow_stays ?_) (by assumption) | with_reducible apply readTokenRow_stays | split))

theorem State.countCorrected_stays {a : TileAddr} {corrected : Bool} (hk : Stays s0 s) : Stays s0 (State.countCorrected s a corrected) := by
  unfold State.countCorrected
  repeat' (first
    | ((try lift_lets); intro (x : State); refine Stays.via (s := s0) (x := x) ?_ (fun hx => ?_); rotate_left; clear_value x; rotate_left; unfold x)
    | ((try lift_lets); intro x; clear_value x)
    | with_reducible assumption
    | with_reducible apply State.count_stays
    | split
    | (dsimp only)
    | (with_reducible apply Stays.upd; first | with_reducible assumption | with_reducible apply State.count_stays | split))

theorem execOpRdq_stays {a : TileAddr} {task : Fin 4} {slot : Fin 128} : StaysOut s (execOpRdq a task slot s) := by
  unfold execOpRdq
  have hk : Stays s s := Stays.refl s
  repeat' (first
    | with_reducible apply StaysOut.next
    | ((try lift_lets); intro (x : State); refine Stays.via (s := s) (x := x) ?_ (fun hx => ?_); rotate_left; clear_value x; rotate_left; unfold x)
    | ((try lift_lets); intro (x : State × _); refine Stays.via (s := s) (x := x.1) ?_ (fun hx => ?_); rotate_left; clear_value x; rotate_left; unfold x)
    | ((try lift_lets); intro (x : _ × State); refine Stays.via (s := s) (x := x.2) ?_ (fun hx => ?_); rotate_left; clear_value x; rotate_left; unfold x)
    | ((try lift_lets); intro x; clear_value x)
    | with_reducible assumption
    | with_reducible apply State.failTile_stays
    | with_reducible apply State.faultTask_stays
    | with_reducible apply State.setTile_stays
    | with_reducible refine State.fire_stays ?_ (fun w t u hu => ?_)
    | with_reducible apply State.countCorrected_stays
    | with_reducible refine Stays.of_fst (readToken_stays ?_) (by assumption)
    | with_reducible apply readToken_stays
    | with_reducible refine Stays.foldl ?_ (fun u x hu => ?_)
    | with_reducible refine Stays.foldl_fst ?_ (fun u x hu => ?_)
    | split
    | (dsimp only)
    | (with_reducible apply Stays.upd; first | with_reducible assumption | with_reducible apply State.failTile_stays | with_reducible apply State.faultTask_stays | with_reducible apply State.setTile_stays | with_reducible refine State.fire_stays ?_ (fun w t u hu => ?_) | with_reducible apply State.countCorrected_stays | with_reducible refine Stays.of_fst (readToken_stays ?_) (by assumption) | with_reducible apply readToken_stays | split))

theorem State.mergeByte_stays {a : TileAddr} {deep : Bool} {off : Nat} {b : Byte} (hk : Stays s0 s) : Stays s0 (State.mergeByte s a deep off b) := by
  unfold State.mergeByte
  repeat' (first
    | ((try lift_lets); intro (x : State); refine Stays.via (s := s0) (x := x) ?_ (fun hx => ?_); rotate_left; clear_value x; rotate_left; unfold x)
    | ((try lift_lets); intro (x : State × _); refine Stays.via (s := s0) (x := x.1) ?_ (fun hx => ?_); rotate_left; clear_value x; rotate_left; unfold x)
    | ((try lift_lets); intro (x : _ × State); refine Stays.via (s := s0) (x := x.2) ?_ (fun hx => ?_); rotate_left; clear_value x; rotate_left; unfold x)
    | ((try lift_lets); intro x; clear_value x)
    | with_reducible assumption
    | with_reducible apply State.flushRow_stays
    | with_reducible refine Stays.of_fst (State.decodeRow_stays ?_) (by assumption)
    | with_reducible apply State.decodeRow_stays
    | with_reducible apply State.countBank_stays
    | with_reducible apply State.setTile_stays
    | split
    | (dsimp only)
    | (with_reducible apply Stays.upd; first | with_reducible assumption | with_reducible apply State.flushRow_stays | with_reducible refine Stays.of_fst (State.decodeRow_stays ?_) (by assumption) | with_reducible apply State.decodeRow_stays | with_reducible apply State.countBank_stays | with_reducible apply State.setTile_stays | split))

theorem execOpWrt_stays {a : TileAddr} {task : Fin 4} {slot : Fin 128} : StaysOut s (execOpWrt a task slot s) := by
  unfold execOpWrt
  have hk : Stays s s := Stays.refl s
  repeat' (first
    | with_reducible apply StaysOut.next
    | ((try lift_lets); intro (x : State); refine Stays.via (s := s) (x := x) ?_ (fun hx => ?_); rotate_left; clear_value x; rotate_left; unfold x)
    | ((try lift_lets); intro x; clear_value x)
    | with_reducible assumption
    | with_reducible apply State.writeRows_stays
    | with_reducible apply State.faultTask_stays
    | with_reducible refine State.fire_stays ?_ (fun w t u hu => ?_)
    | with_reducible apply State.mergeByte_stays
    | with_reducible refine Stays.foldl ?_ (fun u x hu => ?_)
    | split
    | (dsimp only)
    | (with_reducible apply Stays.upd; first | with_reducible assumption | with_reducible apply State.writeRows_stays | with_reducible apply State.faultTask_stays | with_reducible refine State.fire_stays ?_ (fun w t u hu => ?_) | with_reducible apply State.mergeByte_stays | split))

theorem execOpLdn_stays {a : TileAddr} {task : Fin 4} {slot : Fin 128} : StaysOut s (execOpLdn a task slot s) := by
  unfold execOpLdn
  have hk : Stays s s := Stays.refl s
  repeat' (first
    | with_reducible apply StaysOut.next
    | ((try lift_lets); intro (x : State); refine Stays.via (s := s) (x := x) ?_ (fun hx => ?_); rotate_left; clear_value x; rotate_left; unfold x)
    | ((try lift_lets); intro (x : State × _); refine Stays.via (s := s) (x := x.1) ?_ (fun hx => ?_); rotate_left; clear_value x; rotate_left; unfold x)
    | ((try lift_lets); intro (x : _ × State); refine Stays.via (s := s) (x := x.2) ?_ (fun hx => ?_); rotate_left; clear_value x; rotate_left; unfold x)
    | ((try lift_lets); intro x; clear_value x)
    | with_reducible assumption
    | with_reducible apply State.failTile_stays
    | with_reducible refine Stays.of_fst (State.readBytes_stays ?_) (by assumption)
    | with_reducible apply State.readBytes_stays
    | with_reducible apply State.faultTask_stays
    | with_reducible apply State.setG_stays
    | with_reducible refine State.fire_stays ?_ (fun w t u hu => ?_)
    | split
    | (dsimp only)
    | (with_reducible apply Stays.upd; first | with_reducible assumption | with_reducible apply State.failTile_stays | with_reducible refine Stays.of_fst (State.readBytes_stays ?_) (by assumption) | with_reducible apply State.readBytes_stays | with_reducible apply State.faultTask_stays | with_reducible apply State.setG_stays | with_reducible refine State.fire_stays ?_ (fun w t u hu => ?_) | split))

theorem execOpStn_stays {a : TileAddr} {task : Fin 4} {slot : Fin 128} : StaysOut s (execOpStn a task slot s) := by
  unfold execOpStn
  have hk : Stays s s := Stays.refl s
  repeat' (first
    | with_reducible apply StaysOut.next
    | ((try lift_lets); intro (x : State); refine Stays.via (s := s) (x := x) ?_ (fun hx => ?_); rotate_left; clear_value x; rotate_left; unfold x)
    | ((try lift_lets); intro x; clear_value x)
    | with_reducible assumption
    | with_reducible apply State.narrowWrite_stays
    | with_reducible apply State.faultTask_stays
    | with_reducible refine State.fire_stays ?_ (fun w t u hu => ?_)
    | split
    | (dsimp only)
    | (with_reducible apply Stays.upd; first | with_reducible assumption | with_reducible apply State.narrowWrite_stays | with_reducible apply State.faultTask_stays | with_reducible refine State.fire_stays ?_ (fun w t u hu => ?_) | split))

end Sys2Proof.Machine
end

