-- ==== Sys2Proof/Laws/KeepsMatrix.lean ====
section
/-!
SUPPORT. What the operations of Machine/Matrix keep (Laws/Keeps).
-/
namespace Sys2Proof.Machine

set_option linter.all false

variable {s0 s : State}

theorem execOpMma_stays {a : TileAddr} {task : Fin 4} {slot : Fin 128} : StaysOut s (execOpMma a task slot s) := by
  unfold execOpMma
  have hk : Stays s s := Stays.refl s
  repeat' (first
    | with_reducible apply StaysOut.next
    | ((try lift_lets); intro (x : State); refine Stays.via (s := s) (x := x) ?_ (fun hx => ?_); rotate_left; clear_value x; rotate_left; unfold x)
    | ((try lift_lets); intro x; clear_value x)
    | with_reducible assumption
    | with_reducible apply State.count_stays
    | with_reducible apply State.setTile_stays
    | with_reducible apply State.enq_stays
    | with_reducible refine State.fireUnless_stays ?_ (fun w t u hu => ?_)
    | with_reducible apply State.tapMma_stays
    | split
    | (dsimp only)
    | (with_reducible apply Stays.upd; first | with_reducible assumption | with_reducible apply State.count_stays | with_reducible apply State.setTile_stays | with_reducible apply State.enq_stays | with_reducible refine State.fireUnless_stays ?_ (fun w t u hu => ?_) | with_reducible apply State.tapMma_stays | split))

theorem execOpAclr_stays {a : TileAddr} {task : Fin 4} {slot : Fin 128} : StaysOut s (execOpAclr a task slot s) := by
  unfold execOpAclr
  have hk : Stays s s := Stays.refl s
  repeat' (first
    | with_reducible apply StaysOut.next
    | ((try lift_lets); intro (x : State); refine Stays.via (s := s) (x := x) ?_ (fun hx => ?_); rotate_left; clear_value x; rotate_left; unfold x)
    | ((try lift_lets); intro x; clear_value x)
    | with_reducible assumption
    | with_reducible apply State.setTile_stays
    | with_reducible refine State.fire_stays ?_ (fun w t u hu => ?_)
    | with_reducible apply State.tapDrop_stays
    | split
    | (dsimp only)
    | (with_reducible apply Stays.upd; first | with_reducible assumption | with_reducible apply State.setTile_stays | with_reducible refine State.fire_stays ?_ (fun w t u hu => ?_) | with_reducible apply State.tapDrop_stays | split))

theorem State.closeUnit_stays {a : TileAddr} {task b : Nat} (hk : Stays s0 s) : Stays s0 (State.closeUnit s a task b) := by
  unfold State.closeUnit
  repeat' (first
    | ((try lift_lets); intro (x : State); refine Stays.via (s := s0) (x := x) ?_ (fun hx => ?_); rotate_left; clear_value x; rotate_left; unfold x)
    | ((try lift_lets); intro x; clear_value x)
    | with_reducible assumption
    | with_reducible apply State.count_stays
    | with_reducible apply State.setTile_stays
    | with_reducible apply State.tapEmit_stays
    | split
    | (dsimp only)
    | (with_reducible apply Stays.upd; first | with_reducible assumption | with_reducible apply State.count_stays | with_reducible apply State.setTile_stays | with_reducible apply State.tapEmit_stays | split))

theorem State.noteRounded_stays {a : TileAddr} {task : Nat} {wm : Waymark} {sr : Bool} {rs : List (ExactVal × List Byte × RFlags)} (hk : Stays s0 s) : Stays s0 (State.noteRounded s a task wm sr rs) := by
  unfold State.noteRounded
  repeat' (first
    | ((try lift_lets); intro (x : State); refine Stays.via (s := s0) (x := x) ?_ (fun hx => ?_); rotate_left; clear_value x; rotate_left; unfold x)
    | ((try lift_lets); intro x; clear_value x)
    | with_reducible assumption
    | with_reducible apply State.noteResult_stays
    | with_reducible refine Stays.foldl ?_ (fun u x hu => ?_)
    | split
    | (dsimp only)
    | (with_reducible apply Stays.upd; first | with_reducible assumption | with_reducible apply State.noteResult_stays | split))

theorem State.emitRound_stays {a : TileAddr} {task slot : Nat} {c : TaskCtx} {w : SlotWord} {vals : List ExactVal} (hk : Stays s0 s) : Stays s0 (State.emitRound s a task slot c w vals) := by
  unfold State.emitRound
  repeat' (first
    | ((try lift_lets); intro (x : State); refine Stays.via (s := s0) (x := x) ?_ (fun hx => ?_); rotate_left; clear_value x; rotate_left; unfold x)
    | ((try lift_lets); intro x; clear_value x)
    | with_reducible assumption
    | with_reducible apply State.writeRows_stays
    | with_reducible apply State.faultTask_stays
    | with_reducible apply State.noteRounded_stays
    | with_reducible apply State.closeUnit_stays
    | split
    | (dsimp only)
    | (with_reducible apply Stays.upd; first | with_reducible assumption | with_reducible apply State.writeRows_stays | with_reducible apply State.faultTask_stays | with_reducible apply State.noteRounded_stays | with_reducible apply State.closeUnit_stays | split))

theorem execOpEmit_stays {a : TileAddr} {task : Fin 4} {slot : Fin 128} : StaysOut s (execOpEmit a task slot s) := by
  unfold execOpEmit
  have hk : Stays s s := Stays.refl s
  repeat' (first
    | with_reducible apply StaysOut.next
    | ((try lift_lets); intro (x : State); refine Stays.via (s := s) (x := x) ?_ (fun hx => ?_); rotate_left; clear_value x; rotate_left; unfold x)
    | ((try lift_lets); intro x; clear_value x)
    | with_reducible assumption
    | with_reducible apply State.enq_stays
    | with_reducible refine State.fire_stays ?_ (fun w t u hu => ?_)
    | with_reducible apply State.emitRound_stays
    | with_reducible apply State.closeUnit_stays
    | split
    | (dsimp only)
    | (with_reducible apply Stays.upd; first | with_reducible assumption | with_reducible apply State.enq_stays | with_reducible refine State.fire_stays ?_ (fun w t u hu => ?_) | with_reducible apply State.emitRound_stays | with_reducible apply State.closeUnit_stays | split))

end Sys2Proof.Machine
end

