-- ==== Sys2Proof/Laws/KeepsMarkerOps.lean ====
section
/-!
SUPPORT. What the operations of Machine/MarkerOps keep (Laws/Keeps).
-/
namespace Sys2Proof.Machine

set_option linter.all false

variable {s0 s : State}

theorem State.markOp_stays {f : FieldAddr} {op : MarkOp} (hk : Stays s0 s) : Stays s0 (State.markOp s f op) := by
  unfold State.markOp
  repeat' (first
    | ((try lift_lets); intro (x : State); refine Stays.via (s := s0) (x := x) ?_ (fun hx => ?_); rotate_left; clear_value x; rotate_left; unfold x)
    | ((try lift_lets); intro x; clear_value x)
    | with_reducible assumption
    | with_reducible apply State.setField_stays
    | split
    | (dsimp only)
    | (with_reducible apply Stays.upd; first | with_reducible assumption | with_reducible apply State.setField_stays | split))

theorem State.signal_stays {f : FieldAddr} {rank sub marker : Nat} {amount : W32} {kind : Nat} {id : W32} {wm : Waymark} (hk : Stays s0 s) : Stays s0 (State.signal s f rank sub marker amount kind id wm) := by
  unfold State.signal
  repeat' (first
    | ((try lift_lets); intro (x : State); refine Stays.via (s := s0) (x := x) ?_ (fun hx => ?_); rotate_left; clear_value x; rotate_left; unfold x)
    | ((try lift_lets); intro x; clear_value x)
    | with_reducible assumption
    | with_reducible apply State.answer_stays
    | with_reducible apply State.markOp_stays
    | split
    | (dsimp only)
    | (with_reducible apply Stays.upd; first | with_reducible assumption | with_reducible apply State.answer_stays | with_reducible apply State.markOp_stays | split))

theorem State.packetSignal_stays {a : TileAddr} {marker : Nat} {amount : W32} {src : Nat} {wm : Waymark} (hk : Stays s0 s) : Stays s0 (State.packetSignal s a marker amount src wm) := by
  unfold State.packetSignal
  repeat' (first
    | ((try lift_lets); intro (x : State); refine Stays.via (s := s0) (x := x) ?_ (fun hx => ?_); rotate_left; clear_value x; rotate_left; unfold x)
    | ((try lift_lets); intro x; clear_value x)
    | with_reducible assumption
    | with_reducible apply State.signal_stays
    | split
    | (dsimp only)
    | (with_reducible apply Stays.upd; first | with_reducible assumption | with_reducible apply State.signal_stays | split))

theorem State.markerCapture_stays {f : FieldAddr} {kind row col task index blocks : Nat} (hk : Stays s0 s) : Stays s0 (State.markerCapture s f kind row col task index blocks) := by
  unfold State.markerCapture
  repeat' (first
    | ((try lift_lets); intro (x : State); refine Stays.via (s := s0) (x := x) ?_ (fun hx => ?_); rotate_left; clear_value x; rotate_left; unfold x)
    | ((try lift_lets); intro x; clear_value x)
    | with_reducible assumption
    | with_reducible apply State.captureFirst_stays
    | split
    | (dsimp only)
    | (with_reducible apply Stays.upd; first | with_reducible assumption | with_reducible apply State.captureFirst_stays | split))

end Sys2Proof.Machine
end

