-- ==== Sys2Proof/Laws/KeepsPath.lean ====
section
/-!
SUPPORT. What the operations of Machine/Path keep (Laws/Keeps).
-/
namespace Sys2Proof.Machine

set_option linter.all false

variable {s0 s : State}

theorem State.inject_stays {a : TileAddr} {p : Packet} (hk : Stays s0 s) : Stays s0 (State.inject s a p) := by
  unfold State.inject
  repeat' (first
    | ((try lift_lets); intro (x : State); refine Stays.via (s := s0) (x := x) ?_ (fun hx => ?_); rotate_left; clear_value x; rotate_left; unfold x)
    | ((try lift_lets); intro x; clear_value x)
    | with_reducible assumption
    | with_reducible apply State.setTile_stays
    | split
    | (dsimp only)
    | (with_reducible apply Stays.upd; first | with_reducible assumption | with_reducible apply State.setTile_stays | split))

theorem State.meshEvent_stays {a : TileAddr} {kind cls cause : Nat} {wm : Waymark} {src aux addr : Nat} (hk : Stays s0 s) : Stays s0 (State.meshEvent s a kind cls cause wm src aux addr) := by
  unfold State.meshEvent
  repeat' (first
    | ((try lift_lets); intro (x : State); refine Stays.via (s := s0) (x := x) ?_ (fun hx => ?_); rotate_left; clear_value x; rotate_left; unfold x)
    | ((try lift_lets); intro x; clear_value x)
    | with_reducible assumption
    | with_reducible apply State.captureTile_stays
    | split
    | (dsimp only)
    | (with_reducible apply Stays.upd; first | with_reducible assumption | with_reducible apply State.captureTile_stays | split))

theorem State.pktEvent_stays {a : TileAddr} {kind cause : Nat} {p : Packet} (hk : Stays s0 s) : Stays s0 (State.pktEvent s a kind cause p) := by
  unfold State.pktEvent
  repeat' (first
    | ((try lift_lets); intro (x : State); refine Stays.via (s := s0) (x := x) ?_ (fun hx => ?_); rotate_left; clear_value x; rotate_left; unfold x)
    | ((try lift_lets); intro x; clear_value x)
    | with_reducible assumption
    | with_reducible apply State.meshEvent_stays
    | split
    | (dsimp only)
    | (with_reducible apply Stays.upd; first | with_reducible assumption | with_reducible apply State.meshEvent_stays | split))

theorem State.meshRecord_stays {a : TileAddr} {kind : Nat} {p : Packet} (hk : Stays s0 s) : Stays s0 (State.meshRecord s a kind p) := by
  unfold State.meshRecord
  repeat' (first
    | ((try lift_lets); intro (x : State); refine Stays.via (s := s0) (x := x) ?_ (fun hx => ?_); rotate_left; clear_value x; rotate_left; unfold x)
    | ((try lift_lets); intro x; clear_value x)
    | with_reducible assumption
    | with_reducible apply State.raise_stays
    | split
    | (dsimp only)
    | (with_reducible apply Stays.upd; first | with_reducible assumption | with_reducible apply State.raise_stays | split))

theorem State.redMismatch_stays {a : TileAddr} {cause : Nat} {p : Packet} (hk : Stays s0 s) : Stays s0 (State.redMismatch s a cause p) := by
  unfold State.redMismatch
  repeat' (first
    | ((try lift_lets); intro (x : State); refine Stays.via (s := s0) (x := x) ?_ (fun hx => ?_); rotate_left; clear_value x; rotate_left; unfold x)
    | ((try lift_lets); intro x; clear_value x)
    | with_reducible assumption
    | with_reducible apply State.reportCause_stays
    | with_reducible apply State.pktEvent_stays
    | with_reducible apply State.count_stays
    | split
    | (dsimp only)
    | (with_reducible apply Stays.upd; first | with_reducible assumption | with_reducible apply State.reportCause_stays | with_reducible apply State.pktEvent_stays | with_reducible apply State.count_stays | split))

end Sys2Proof.Machine
end

