-- ==== Sys2Proof/Laws/KeepsTileEvents.lean ====
section
/-!
SUPPORT. What the operations of Machine/TileEvents keep (Laws/Keeps).
-/
namespace Sys2Proof.Machine

set_option linter.all false

variable {s0 s : State}

theorem State.noteStale_stays {a : TileAddr} {queue task : Nat} {tok tile : BitVec 2} (hk : Stays s0 s) : Stays s0 (State.noteStale s a queue task tok tile) := by
  unfold State.noteStale
  repeat' (first
    | ((try lift_lets); intro (x : State); refine Stays.via (s := s0) (x := x) ?_ (fun hx => ?_); rotate_left; clear_value x; rotate_left; unfold x)
    | ((try lift_lets); intro x; clear_value x)
    | with_reducible assumption
    | with_reducible apply State.raiseOnce_stays
    | with_reducible apply State.captureTile_stays
    | with_reducible apply State.count_stays
    | split
    | (dsimp only)
    | (with_reducible apply Stays.upd; first | with_reducible assumption | with_reducible apply State.raiseOnce_stays | with_reducible apply State.captureTile_stays | with_reducible apply State.count_stays | split))

theorem State.enterDq_stays {a : TileAddr} {n : Nat} {d : DataTok} (hk : Stays s0 s) : Stays s0 (State.enterDq s a n d) := by
  unfold State.enterDq
  repeat' (first
    | ((try lift_lets); intro (x : State); refine Stays.via (s := s0) (x := x) ?_ (fun hx => ?_); rotate_left; clear_value x; rotate_left; unfold x)
    | ((try lift_lets); intro x; clear_value x)
    | with_reducible assumption
    | with_reducible apply State.noteStale_stays
    | with_reducible apply State.setTile_stays
    | split
    | (dsimp only)
    | (with_reducible apply Stays.upd; first | with_reducible assumption | with_reducible apply State.noteStale_stays | with_reducible apply State.setTile_stays | split))

theorem State.enterCq_stays {a : TileAddr} {n : Nat} {c : CtlTok} (hk : Stays s0 s) : Stays s0 (State.enterCq s a n c) := by
  unfold State.enterCq
  repeat' (first
    | ((try lift_lets); intro (x : State); refine Stays.via (s := s0) (x := x) ?_ (fun hx => ?_); rotate_left; clear_value x; rotate_left; unfold x)
    | ((try lift_lets); intro x; clear_value x)
    | with_reducible assumption
    | with_reducible apply State.noteStale_stays
    | with_reducible apply State.setTile_stays
    | split
    | (dsimp only)
    | (with_reducible apply Stays.upd; first | with_reducible assumption | with_reducible apply State.noteStale_stays | with_reducible apply State.setTile_stays | split))

theorem State.unbound_stays {a : TileAddr} (hk : Stays s0 s) : Stays s0 (State.unbound s a) := by
  unfold State.unbound
  repeat' (first
    | ((try lift_lets); intro (x : State); refine Stays.via (s := s0) (x := x) ?_ (fun hx => ?_); rotate_left; clear_value x; rotate_left; unfold x)
    | ((try lift_lets); intro x; clear_value x)
    | with_reducible assumption
    | with_reducible apply State.count_stays
    | split
    | (dsimp only)
    | (with_reducible apply Stays.upd; first | with_reducible assumption | with_reducible apply State.count_stays | split))

theorem execSteeringFire_stays {a : TileAddr} {ch : Fin 4} : StaysOut s (execSteeringFire a ch s) := by
  unfold execSteeringFire
  have hk : Stays s s := Stays.refl s
  repeat' (first
    | with_reducible apply StaysOut.next
    | ((try lift_lets); intro (x : State); refine Stays.via (s := s) (x := x) ?_ (fun hx => ?_); rotate_left; clear_value x; rotate_left; unfold x)
    | ((try lift_lets); intro x; clear_value x)
    | with_reducible assumption
    | with_reducible apply State.count_stays
    | with_reducible apply State.setTile_stays
    | with_reducible refine Stays.foldl ?_ (fun u x hu => ?_)
    | split
    | (dsimp only)
    | (with_reducible apply Stays.upd; first | with_reducible assumption | with_reducible apply State.count_stays | with_reducible apply State.setTile_stays | split))

theorem execSteerKind_stays {a : TileAddr} {ch : Fin 4} : StaysOut s (execSteerKind a ch s) := by
  unfold execSteerKind
  have hk : Stays s s := Stays.refl s
  repeat' (first
    | with_reducible apply StaysOut.next
    | ((try lift_lets); intro (x : State); refine Stays.via (s := s) (x := x) ?_ (fun hx => ?_); rotate_left; clear_value x; rotate_left; unfold x)
    | ((try lift_lets); intro x; clear_value x)
    | with_reducible assumption
    | with_reducible apply State.faultTask_stays
    | with_reducible apply State.setTile_stays
    | split
    | (dsimp only)
    | (with_reducible apply Stays.upd; first | with_reducible assumption | with_reducible apply State.faultTask_stays | with_reducible apply State.setTile_stays | split))

theorem execOqLocalTransfer_stays {a : TileAddr} {q : Fin 8} : StaysOut s (execOqLocalTransfer a q s) := by
  unfold execOqLocalTransfer
  have hk : Stays s s := Stays.refl s
  repeat' (first
    | with_reducible apply StaysOut.next
    | ((try lift_lets); intro (x : State); refine Stays.via (s := s) (x := x) ?_ (fun hx => ?_); rotate_left; clear_value x; rotate_left; unfold x)
    | ((try lift_lets); intro x; clear_value x)
    | with_reducible assumption
    | with_reducible apply State.enterDq_stays
    | with_reducible apply State.setTile_stays
    | split
    | (dsimp only)
    | (with_reducible apply Stays.upd; first | with_reducible assumption | with_reducible apply State.enterDq_stays | with_reducible apply State.setTile_stays | split))

theorem State.arrive_stays {a : TileAddr} {landing cq : Nat} (hk : Stays s0 s) : Stays s0 (State.arrive s a landing cq) := by
  unfold State.arrive
  repeat' (first
    | ((try lift_lets); intro (x : State); refine Stays.via (s := s0) (x := x) ?_ (fun hx => ?_); rotate_left; clear_value x; rotate_left; unfold x)
    | ((try lift_lets); intro x; clear_value x)
    | with_reducible assumption
    | with_reducible apply State.enterCq_stays
    | with_reducible apply State.setTile_stays
    | split
    | (dsimp only)
    | (with_reducible apply Stays.upd; first | with_reducible assumption | with_reducible apply State.enterCq_stays | with_reducible apply State.setTile_stays | split))

theorem State.barrierToken_stays {a : TileAddr} {channel cq : Nat} (hk : Stays s0 s) : Stays s0 (State.barrierToken s a channel cq) := by
  unfold State.barrierToken
  repeat' (first
    | ((try lift_lets); intro (x : State); refine Stays.via (s := s0) (x := x) ?_ (fun hx => ?_); rotate_left; clear_value x; rotate_left; unfold x)
    | ((try lift_lets); intro x; clear_value x)
    | with_reducible assumption
    | with_reducible apply State.enterCq_stays
    | with_reducible apply State.setTile_stays
    | split
    | (dsimp only)
    | (with_reducible apply Stays.upd; first | with_reducible assumption | with_reducible apply State.enterCq_stays | with_reducible apply State.setTile_stays | split))

theorem execWaitingTokenEntry_stays {a : TileAddr} {barrier : Bool} {n : Fin 16} : StaysOut s (execWaitingTokenEntry a barrier n s) := by
  unfold execWaitingTokenEntry
  have hk : Stays s s := Stays.refl s
  repeat' (first
    | with_reducible apply StaysOut.next
    | ((try lift_lets); intro (x : State); refine Stays.via (s := s) (x := x) ?_ (fun hx => ?_); rotate_left; clear_value x; rotate_left; unfold x)
    | ((try lift_lets); intro x; clear_value x)
    | with_reducible assumption
    | with_reducible apply State.enterCq_stays
    | with_reducible apply State.setTile_stays
    | split
    | (dsimp only)
    | (with_reducible apply Stays.upd; first | with_reducible assumption | with_reducible apply State.enterCq_stays | with_reducible apply State.setTile_stays | split))

theorem execReadTokenDelivery_stays {a : TileAddr} : StaysOut s (execReadTokenDelivery a s) := by
  unfold execReadTokenDelivery
  have hk : Stays s s := Stays.refl s
  repeat' (first
    | with_reducible apply StaysOut.next
    | ((try lift_lets); intro (x : State); refine Stays.via (s := s) (x := x) ?_ (fun hx => ?_); rotate_left; clear_value x; rotate_left; unfold x)
    | ((try lift_lets); intro x; clear_value x)
    | with_reducible assumption
    | with_reducible apply State.enterDq_stays
    | with_reducible apply State.setTile_stays
    | split
    | (dsimp only)
    | (with_reducible apply Stays.upd; first | with_reducible assumption | with_reducible apply State.enterDq_stays | with_reducible apply State.setTile_stays | split))

theorem execTaskDrained_stays {a : TileAddr} {task : Fin 4} : StaysOut s (execTaskDrained a task s) := by
  unfold execTaskDrained
  have hk : Stays s s := Stays.refl s
  repeat' (first
    | with_reducible apply StaysOut.next
    | ((try lift_lets); intro (x : State); refine Stays.via (s := s) (x := x) ?_ (fun hx => ?_); rotate_left; clear_value x; rotate_left; unfold x)
    | ((try lift_lets); intro x; clear_value x)
    | with_reducible assumption
    | with_reducible apply State.setTile_stays
    | split
    | (dsimp only)
    | (with_reducible apply Stays.upd; first | with_reducible assumption | with_reducible apply State.setTile_stays | split))

theorem execGatherFlush_stays {a : TileAddr} : StaysOut s (execGatherFlush a s) := by
  unfold execGatherFlush
  have hk : Stays s s := Stays.refl s
  repeat' (first
    | with_reducible apply StaysOut.next
    | ((try lift_lets); intro (x : State); refine Stays.via (s := s) (x := x) ?_ (fun hx => ?_); rotate_left; clear_value x; rotate_left; unfold x)
    | ((try lift_lets); intro x; clear_value x)
    | with_reducible assumption
    | with_reducible apply State.flushEntry_stays
    | split
    | (dsimp only)
    | (with_reducible apply Stays.upd; first | with_reducible assumption | with_reducible apply State.flushEntry_stays | split))

theorem execCorrectionWriteback_stays {a : TileAddr} : StaysOut s (execCorrectionWriteback a s) := by
  unfold execCorrectionWriteback
  have hk : Stays s s := Stays.refl s
  repeat' (first
    | with_reducible apply StaysOut.next
    | ((try lift_lets); intro (x : State); refine Stays.via (s := s) (x := x) ?_ (fun hx => ?_); rotate_left; clear_value x; rotate_left; unfold x)
    | ((try lift_lets); intro x; clear_value x)
    | with_reducible assumption
    | with_reducible apply State.noteUe_stays
    | with_reducible apply State.countBank_stays
    | with_reducible apply State.setTile_stays
    | with_reducible refine Stays.foldl ?_ (fun u x hu => ?_)
    | split
    | (dsimp only)
    | (with_reducible apply Stays.upd; first | with_reducible assumption | with_reducible apply State.noteUe_stays | with_reducible apply State.countBank_stays | with_reducible apply State.setTile_stays | split))

theorem execScrubRead_stays {a : TileAddr} {word : Fin 4} {err : Fin 3} : StaysOut s (execScrubRead a word err s) := by
  unfold execScrubRead
  have hk : Stays s s := Stays.refl s
  repeat' (first
    | with_reducible apply StaysOut.next
    | ((try lift_lets); intro (x : State); refine Stays.via (s := s) (x := x) ?_ (fun hx => ?_); rotate_left; clear_value x; rotate_left; unfold x)
    | ((try lift_lets); intro (x : State × _); refine Stays.via (s := s) (x := x.1) ?_ (fun hx => ?_); rotate_left; clear_value x; rotate_left; unfold x)
    | ((try lift_lets); intro (x : _ × State); refine Stays.via (s := s) (x := x.2) ?_ (fun hx => ?_); rotate_left; clear_value x; rotate_left; unfold x)
    | ((try lift_lets); intro x; clear_value x)
    | with_reducible assumption
    | with_reducible refine Stays.of_fst (State.readRow_stays ?_) (by assumption)
    | with_reducible apply State.readRow_stays
    | with_reducible apply State.setTile_stays
    | split
    | (dsimp only)
    | (with_reducible apply Stays.upd; first | with_reducible assumption | with_reducible refine Stays.of_fst (State.readRow_stays ?_) (by assumption) | with_reducible apply State.readRow_stays | with_reducible apply State.setTile_stays | split))

theorem State.tsqSel_stays {f : FieldAddr} {fw : Bool} {value : W64} (hk : Stays s0 s) : Stays s0 (State.tsqSel s f fw value) := by
  unfold State.tsqSel
  repeat' (first
    | ((try lift_lets); intro (x : State); refine Stays.via (s := s0) (x := x) ?_ (fun hx => ?_); rotate_left; clear_value x; rotate_left; unfold x)
    | ((try lift_lets); intro x; clear_value x)
    | with_reducible assumption
    | with_reducible refine State.regWrite_stays ?_ (fun u hu => ?_)
    | with_reducible apply State.setF_stays
    | split
    | (dsimp only)
    | (with_reducible apply Stays.upd; first | with_reducible assumption | with_reducible refine State.regWrite_stays ?_ (fun u hu => ?_) | with_reducible apply State.setF_stays | split))

theorem execTsqSel_stays {f : FieldAddr} {fw : Bool} {value : W64} : StaysOut s (execTsqSel f fw value s) := by
  unfold execTsqSel
  have hk : Stays s s := Stays.refl s
  repeat' (first
    | with_reducible apply StaysOut.next
    | ((try lift_lets); intro (x : State); refine Stays.via (s := s) (x := x) ?_ (fun hx => ?_); rotate_left; clear_value x; rotate_left; unfold x)
    | ((try lift_lets); intro x; clear_value x)
    | with_reducible assumption
    | with_reducible apply State.tsqSel_stays
    | split
    | (dsimp only)
    | (with_reducible apply Stays.upd; first | with_reducible assumption | with_reducible apply State.tsqSel_stays | split))

theorem State.tsqSnap_stays {f : FieldAddr} (hk : Stays s0 s) : Stays s0 (State.tsqSnap s f) := by
  unfold State.tsqSnap
  repeat' (first
    | ((try lift_lets); intro (x : State); refine Stays.via (s := s0) (x := x) ?_ (fun hx => ?_); rotate_left; clear_value x; rotate_left; unfold x)
    | ((try lift_lets); intro x; clear_value x)
    | with_reducible assumption
    | with_reducible apply State.setF_stays
    | with_reducible apply State.setReg_stays
    | split
    | (dsimp only)
    | (with_reducible apply Stays.upd; first | with_reducible assumption | with_reducible apply State.setF_stays | with_reducible apply State.setReg_stays | split))

end Sys2Proof.Machine
end

