-- ==== Sys2Proof/Laws/KeepsSegments.lean ====
section
/-!
SUPPORT. What the operations of Machine/Segments keep (Laws/Keeps).
-/
namespace Sys2Proof.Machine

set_option linter.all false

variable {s0 s : State}

theorem State.segCommand_stays {a : TileAddr} {g : Nat} {target : SegState} (hk : Stays s0 s) : Stays s0 (State.segCommand s a g target) := by
  unfold State.segCommand
  repeat' (first
    | ((try lift_lets); intro (x : State); refine Stays.via (s := s0) (x := x) ?_ (fun hx => ?_); rotate_left; clear_value x; rotate_left; unfold x)
    | ((try lift_lets); intro x; clear_value x)
    | with_reducible assumption
    | with_reducible apply State.flushEntry_stays
    | with_reducible apply State.setTile_stays
    | with_reducible refine Stays.foldl ?_ (fun u x hu => ?_)
    | split
    | (dsimp only)
    | (with_reducible apply Stays.upd; first | with_reducible assumption | with_reducible apply State.flushEntry_stays | with_reducible apply State.setTile_stays | split))

theorem State.segReach_stays {a : TileAddr} {g : Nat} {st : SegState} {timedOut : Bool} (hk : Stays s0 s) : Stays s0 (State.segReach s a g st timedOut) := by
  unfold State.segReach
  repeat' (first
    | ((try lift_lets); intro (x : State); refine Stays.via (s := s0) (x := x) ?_ (fun hx => ?_); rotate_left; clear_value x; rotate_left; unfold x)
    | ((try lift_lets); intro x; clear_value x)
    | with_reducible assumption
    | with_reducible apply State.segCommand_stays
    | with_reducible apply State.setTile_stays
    | split
    | (dsimp only)
    | (with_reducible apply Stays.upd; first | with_reducible assumption | with_reducible apply State.segCommand_stays | with_reducible apply State.setTile_stays | split))

theorem State.segFinish_stays {f : FieldAddr} (hk : Stays s0 s) : Stays s0 (State.segFinish s f) := by
  unfold State.segFinish
  repeat' (first
    | ((try lift_lets); intro (x : State); refine Stays.via (s := s0) (x := x) ?_ (fun hx => ?_); rotate_left; clear_value x; rotate_left; unfold x)
    | ((try lift_lets); intro x; clear_value x)
    | with_reducible assumption
    | with_reducible apply State.setIrq_stays
    | with_reducible apply State.setField_stays
    | with_reducible apply State.setF_stays
    | split
    | (dsimp only)
    | (with_reducible apply Stays.upd; first | with_reducible assumption | with_reducible apply State.setIrq_stays | with_reducible apply State.setField_stays | with_reducible apply State.setF_stays | split))

theorem State.segStart_stays {f : FieldAddr} (hk : Stays s0 s) : Stays s0 (State.segStart s f) := by
  unfold State.segStart
  repeat' (first
    | ((try lift_lets); intro (x : State); refine Stays.via (s := s0) (x := x) ?_ (fun hx => ?_); rotate_left; clear_value x; rotate_left; unfold x)
    | ((try lift_lets); intro x; clear_value x)
    | with_reducible assumption
    | with_reducible apply State.segFinish_stays
    | with_reducible apply State.segCommand_stays
    | with_reducible apply State.setIrq_stays
    | with_reducible apply State.setF_stays
    | with_reducible refine Stays.foldl ?_ (fun u x hu => ?_)
    | split
    | (dsimp only)
    | (with_reducible apply Stays.upd; first | with_reducible assumption | with_reducible apply State.segFinish_stays | with_reducible apply State.segCommand_stays | with_reducible apply State.setIrq_stays | with_reducible apply State.setF_stays | split))

theorem State.segCmdWrite_stays {f : FieldAddr} {fw : Bool} {value : W64} (hk : Stays s0 s) : Stays s0 (State.segCmdWrite s f fw value) := by
  unfold State.segCmdWrite
  repeat' (first
    | ((try lift_lets); intro (x : State); refine Stays.via (s := s0) (x := x) ?_ (fun hx => ?_); rotate_left; clear_value x; rotate_left; unfold x)
    | ((try lift_lets); intro x; clear_value x)
    | with_reducible assumption
    | with_reducible apply State.segStart_stays
    | with_reducible refine State.regWrite_stays ?_ (fun u hu => ?_)
    | split
    | (dsimp only)
    | (with_reducible apply Stays.upd; first | with_reducible assumption | with_reducible apply State.segStart_stays | with_reducible refine State.regWrite_stays ?_ (fun u hu => ?_) | split))

theorem execSegCmdOff_stays {f : FieldAddr} {fw : Bool} {value : W64} : StaysOut s (execSegCmdOff f fw value s) := by
  unfold execSegCmdOff
  have hk : Stays s s := Stays.refl s
  repeat' (first
    | with_reducible apply StaysOut.next
    | ((try lift_lets); intro (x : State); refine Stays.via (s := s) (x := x) ?_ (fun hx => ?_); rotate_left; clear_value x; rotate_left; unfold x)
    | ((try lift_lets); intro x; clear_value x)
    | with_reducible assumption
    | with_reducible apply State.segCmdWrite_stays
    | split
    | (dsimp only)
    | (with_reducible apply Stays.upd; first | with_reducible assumption | with_reducible apply State.segCmdWrite_stays | split))

theorem execSegCmdActive_stays {f : FieldAddr} {fw : Bool} {value : W64} : StaysOut s (execSegCmdActive f fw value s) := by
  unfold execSegCmdActive
  have hk : Stays s s := Stays.refl s
  repeat' (first
    | with_reducible apply StaysOut.next
    | ((try lift_lets); intro (x : State); refine Stays.via (s := s) (x := x) ?_ (fun hx => ?_); rotate_left; clear_value x; rotate_left; unfold x)
    | ((try lift_lets); intro x; clear_value x)
    | with_reducible assumption
    | with_reducible apply State.segCmdWrite_stays
    | split
    | (dsimp only)
    | (with_reducible apply Stays.upd; first | with_reducible assumption | with_reducible apply State.segCmdWrite_stays | split))

theorem execSegCmdRetained_stays {f : FieldAddr} {fw : Bool} {value : W64} : StaysOut s (execSegCmdRetained f fw value s) := by
  unfold execSegCmdRetained
  have hk : Stays s s := Stays.refl s
  repeat' (first
    | with_reducible apply StaysOut.next
    | ((try lift_lets); intro (x : State); refine Stays.via (s := s) (x := x) ?_ (fun hx => ?_); rotate_left; clear_value x; rotate_left; unfold x)
    | ((try lift_lets); intro x; clear_value x)
    | with_reducible assumption
    | with_reducible apply State.segCmdWrite_stays
    | split
    | (dsimp only)
    | (with_reducible apply Stays.upd; first | with_reducible assumption | with_reducible apply State.segCmdWrite_stays | split))

theorem State.dropFirst_stays {a : TileAddr} {deep : Bool} {seg cause : Nat} {p : Packet} (hk : Stays s0 s) : Stays s0 (State.dropFirst s a deep seg cause p).1 := by
  unfold State.dropFirst
  repeat' (first
    | ((try lift_lets); intro (x : State); refine Stays.via (s := s0) (x := x) ?_ (fun hx => ?_); rotate_left; clear_value x; rotate_left; unfold x)
    | ((try lift_lets); intro x; clear_value x)
    | with_reducible assumption
    | with_reducible apply State.captureTile_stays
    | split
    | (dsimp only)
    | (with_reducible apply Stays.upd; first | with_reducible assumption | with_reducible apply State.captureTile_stays | split))

theorem State.lateWrite_stays {a : TileAddr} {seg cause : Nat} {p : Packet} (hk : Stays s0 s) : Stays s0 (State.lateWrite s a seg cause p) := by
  unfold State.lateWrite
  repeat' (first
    | ((try lift_lets); intro (x : State); refine Stays.via (s := s0) (x := x) ?_ (fun hx => ?_); rotate_left; clear_value x; rotate_left; unfold x)
    | ((try lift_lets); intro (x : State × _); refine Stays.via (s := s0) (x := x.1) ?_ (fun hx => ?_); rotate_left; clear_value x; rotate_left; unfold x)
    | ((try lift_lets); intro (x : _ × State); refine Stays.via (s := s0) (x := x.2) ?_ (fun hx => ?_); rotate_left; clear_value x; rotate_left; unfold x)
    | ((try lift_lets); intro x; clear_value x)
    | with_reducible assumption
    | with_reducible refine Stays.of_fst (State.dropFirst_stays ?_) (by assumption)
    | with_reducible apply State.dropFirst_stays
    | with_reducible apply State.raiseOnce_stays
    | with_reducible apply State.count_stays
    | split
    | (dsimp only)
    | (with_reducible apply Stays.upd; first | with_reducible assumption | with_reducible refine Stays.of_fst (State.dropFirst_stays ?_) (by assumption) | with_reducible apply State.dropFirst_stays | with_reducible apply State.raiseOnce_stays | with_reducible apply State.count_stays | split))

theorem execSegmentWakeDone_stays {a : TileAddr} {seg : Fin 8} : StaysOut s (execSegmentWakeDone a seg s) := by
  unfold execSegmentWakeDone
  have hk : Stays s s := Stays.refl s
  repeat' (first
    | with_reducible apply StaysOut.next
    | ((try lift_lets); intro (x : State); refine Stays.via (s := s) (x := x) ?_ (fun hx => ?_); rotate_left; clear_value x; rotate_left; unfold x)
    | ((try lift_lets); intro x; clear_value x)
    | with_reducible assumption
    | with_reducible apply State.segFinish_stays
    | with_reducible apply State.segReach_stays
    | split
    | (dsimp only)
    | (with_reducible apply Stays.upd; first | with_reducible assumption | with_reducible apply State.segFinish_stays | with_reducible apply State.segReach_stays | split))

theorem execSegmentGate_stays {a : TileAddr} {seg : Fin 8} : StaysOut s (execSegmentGate a seg s) := by
  unfold execSegmentGate
  have hk : Stays s s := Stays.refl s
  repeat' (first
    | with_reducible apply StaysOut.next
    | ((try lift_lets); intro (x : State); refine Stays.via (s := s) (x := x) ?_ (fun hx => ?_); rotate_left; clear_value x; rotate_left; unfold x)
    | ((try lift_lets); intro x; clear_value x)
    | with_reducible assumption
    | with_reducible apply State.segFinish_stays
    | with_reducible apply State.segReach_stays
    | split
    | (dsimp only)
    | (with_reducible apply Stays.upd; first | with_reducible assumption | with_reducible apply State.segFinish_stays | with_reducible apply State.segReach_stays | split))

theorem execGateTimeout_stays {a : TileAddr} {seg : Fin 8} : StaysOut s (execGateTimeout a seg s) := by
  unfold execGateTimeout
  have hk : Stays s s := Stays.refl s
  repeat' (first
    | with_reducible apply StaysOut.next
    | ((try lift_lets); intro (x : State); refine Stays.via (s := s) (x := x) ?_ (fun hx => ?_); rotate_left; clear_value x; rotate_left; unfold x)
    | ((try lift_lets); intro x; clear_value x)
    | with_reducible assumption
    | with_reducible apply State.lateWrite_stays
    | with_reducible apply State.segFinish_stays
    | with_reducible apply State.segReach_stays
    | with_reducible apply State.count_stays
    | with_reducible apply State.setTile_stays
    | split
    | (dsimp only)
    | (with_reducible apply Stays.upd; first | with_reducible assumption | with_reducible apply State.lateWrite_stays | with_reducible apply State.segFinish_stays | with_reducible apply State.segReach_stays | with_reducible apply State.count_stays | with_reducible apply State.setTile_stays | split))

theorem State.segSel_stays {f : FieldAddr} {fw : Bool} {value : W64} (hk : Stays s0 s) : Stays s0 (State.segSel s f fw value) := by
  unfold State.segSel
  repeat' (first
    | ((try lift_lets); intro (x : State); refine Stays.via (s := s0) (x := x) ?_ (fun hx => ?_); rotate_left; clear_value x; rotate_left; unfold x)
    | ((try lift_lets); intro x; clear_value x)
    | with_reducible assumption
    | with_reducible refine State.regWrite_stays ?_ (fun u hu => ?_)
    | with_reducible apply State.setF_stays
    | split
    | (dsimp only)
    | (with_reducible apply Stays.upd; first | with_reducible assumption | with_reducible refine State.regWrite_stays ?_ (fun u hu => ?_) | with_reducible apply State.setF_stays | split))

theorem execSegSel_stays {f : FieldAddr} {fw : Bool} {value : W64} : StaysOut s (execSegSel f fw value s) := by
  unfold execSegSel
  have hk : Stays s s := Stays.refl s
  repeat' (first
    | with_reducible apply StaysOut.next
    | ((try lift_lets); intro (x : State); refine Stays.via (s := s) (x := x) ?_ (fun hx => ?_); rotate_left; clear_value x; rotate_left; unfold x)
    | ((try lift_lets); intro x; clear_value x)
    | with_reducible assumption
    | with_reducible apply State.segSel_stays
    | split
    | (dsimp only)
    | (with_reducible apply Stays.upd; first | with_reducible assumption | with_reducible apply State.segSel_stays | split))

theorem State.segSnap_stays {f : FieldAddr} (hk : Stays s0 s) : Stays s0 (State.segSnap s f) := by
  unfold State.segSnap
  repeat' (first
    | ((try lift_lets); intro (x : State); refine Stays.via (s := s0) (x := x) ?_ (fun hx => ?_); rotate_left; clear_value x; rotate_left; unfold x)
    | ((try lift_lets); intro x; clear_value x)
    | with_reducible assumption
    | with_reducible apply State.setF_stays
    | with_reducible apply State.setReg_stays
    | with_reducible refine Stays.foldl ?_ (fun u x hu => ?_)
    | split
    | (dsimp only)
    | (with_reducible apply Stays.upd; first | with_reducible assumption | with_reducible apply State.setF_stays | with_reducible apply State.setReg_stays | split))

end Sys2Proof.Machine
end

