-- ==== Sys2Proof/Laws/KeepsDelivery.lean ====
section
/-!
SUPPORT. What the operations of Machine/Delivery keep (Laws/Keeps).
-/
namespace Sys2Proof.Machine

set_option linter.all false

variable {s0 s : State}

theorem State.countIrq_stays {c : Ctr} {inst bit : Nat} (hk : Stays s0 s) : Stays s0 (State.countIrq s c inst bit) := by
  unfold State.countIrq
  repeat' (first
    | ((try lift_lets); intro (x : State); refine Stays.via (s := s0) (x := x) ?_ (fun hx => ?_); rotate_left; clear_value x; rotate_left; unfold x)
    | ((try lift_lets); intro x; clear_value x)
    | with_reducible assumption
    | with_reducible apply State.count_stays
    | with_reducible apply State.setIrq_stays
    | split
    | (dsimp only)
    | (with_reducible apply Stays.upd; first | with_reducible assumption | with_reducible apply State.count_stays | with_reducible apply State.setIrq_stays | split))

theorem State.closeNack_stays {a : TileAddr} {seg addr : Nat} {p : Packet} (hk : Stays s0 s) : Stays s0 (State.closeNack s a seg addr p) := by
  unfold State.closeNack
  repeat' (first
    | ((try lift_lets); intro (x : State); refine Stays.via (s := s0) (x := x) ?_ (fun hx => ?_); rotate_left; clear_value x; rotate_left; unfold x)
    | ((try lift_lets); intro (x : State × _); refine Stays.via (s := s0) (x := x.1) ?_ (fun hx => ?_); rotate_left; clear_value x; rotate_left; unfold x)
    | ((try lift_lets); intro (x : _ × State); refine Stays.via (s := s0) (x := x.2) ?_ (fun hx => ?_); rotate_left; clear_value x; rotate_left; unfold x)
    | ((try lift_lets); intro x; clear_value x)
    | with_reducible assumption
    | with_reducible refine Stays.of_fst (State.dropFirst_stays ?_) (by assumption)
    | with_reducible apply State.dropFirst_stays
    | with_reducible apply State.pktEvent_stays
    | with_reducible apply State.inject_stays
    | with_reducible apply State.count_stays
    | split
    | (dsimp only)
    | (with_reducible apply Stays.upd; first | with_reducible assumption | with_reducible refine Stays.of_fst (State.dropFirst_stays ?_) (by assumption) | with_reducible apply State.dropFirst_stays | with_reducible apply State.pktEvent_stays | with_reducible apply State.inject_stays | with_reducible apply State.count_stays | split))

theorem writePieces_stays {a : TileAddr} {deep : Bool} {n : Nat} :
    ∀ {off : Nat} {bs : List Byte} {s : State}, Stays s0 s → Stays s0 (writePieces a deep n off bs s) := by
  induction n with
  | zero => exact fun h => h
  | succ n ih =>
    intro off bs s h
    unfold writePieces
    split
    · exact h
    · split
      · exact ih (State.writeRows_stays h)
      · exact ih (State.narrowWrite_stays h)

theorem State.routerWrite_stays {a : TileAddr} {accepted deep : Bool} {off : Nat} {bs : List Byte} {p : Packet} (hk : Stays s0 s) : Stays s0 (State.routerWrite s a accepted deep off bs p).1 := by
  unfold State.routerWrite
  repeat' (first
    | ((try lift_lets); intro (x : State); refine Stays.via (s := s0) (x := x) ?_ (fun hx => ?_); rotate_left; clear_value x; rotate_left; unfold x)
    | ((try lift_lets); intro (x : State × _); refine Stays.via (s := s0) (x := x.1) ?_ (fun hx => ?_); rotate_left; clear_value x; rotate_left; unfold x)
    | ((try lift_lets); intro (x : _ × State); refine Stays.via (s := s0) (x := x.2) ?_ (fun hx => ?_); rotate_left; clear_value x; rotate_left; unfold x)
    | ((try lift_lets); intro (x : _ → _); dsimp -zeta only [x]; clear x)
    | ((try lift_lets); intro x; clear_value x)
    | with_reducible assumption
    | with_reducible apply State.lateWrite_stays
    | with_reducible refine Stays.of_fst (State.dropFirst_stays ?_) (by assumption)
    | with_reducible apply State.dropFirst_stays
    | with_reducible apply State.count_stays
    | with_reducible apply writePieces_stays
    | with_reducible apply State.closeNack_stays
    | split
    | (dsimp only)
    | (with_reducible apply Stays.upd; first | with_reducible assumption | with_reducible apply State.lateWrite_stays | with_reducible refine Stays.of_fst (State.dropFirst_stays ?_) (by assumption) | with_reducible apply State.dropFirst_stays | with_reducible apply State.count_stays | with_reducible apply writePieces_stays | with_reducible apply State.closeNack_stays | split))

theorem State.fencedDiscard_stays {a : TileAddr} {p : Packet} (hk : Stays s0 s) : Stays s0 (State.fencedDiscard s a p) := by
  unfold State.fencedDiscard
  repeat' (first
    | ((try lift_lets); intro (x : State); refine Stays.via (s := s0) (x := x) ?_ (fun hx => ?_); rotate_left; clear_value x; rotate_left; unfold x)
    | ((try lift_lets); intro x; clear_value x)
    | with_reducible assumption
    | with_reducible apply State.pktEvent_stays
    | with_reducible apply State.count_stays
    | split
    | (dsimp only)
    | (with_reducible apply Stays.upd; first | with_reducible assumption | with_reducible apply State.pktEvent_stays | with_reducible apply State.count_stays | split))

theorem State.deliverAct_stays {a : TileAddr} {accepted : Bool} {p : Packet} (hk : Stays s0 s) : StaysOpt s0 (State.deliverAct s a accepted p) := by
  unfold State.deliverAct
  repeat' (first
    | with_reducible apply StaysOpt.ofSome
    | with_reducible exact StaysOpt.ofNone
    | ((try lift_lets); intro (x : State); refine Stays.via (s := s0) (x := x) ?_ (fun hx => ?_); rotate_left; clear_value x; rotate_left; unfold x)
    | ((try lift_lets); intro (x : State × _); refine Stays.via (s := s0) (x := x.1) ?_ (fun hx => ?_); rotate_left; clear_value x; rotate_left; unfold x)
    | ((try lift_lets); intro (x : _ × State); refine Stays.via (s := s0) (x := x.2) ?_ (fun hx => ?_); rotate_left; clear_value x; rotate_left; unfold x)
    | ((try lift_lets); intro x; clear_value x)
    | with_reducible assumption
    | with_reducible apply State.noteStale_stays
    | with_reducible apply State.packetSignal_stays
    | with_reducible refine Stays.of_fst (State.routerWrite_stays ?_) (by assumption)
    | with_reducible apply State.routerWrite_stays
    | split
    | (dsimp only)
    | (with_reducible apply Stays.upd; first | with_reducible assumption | with_reducible apply State.noteStale_stays | with_reducible apply State.packetSignal_stays | with_reducible refine Stays.of_fst (State.routerWrite_stays ?_) (by assumption) | with_reducible apply State.routerWrite_stays | split))

theorem State.deliverSum_stays {a : TileAddr} {accepted : Bool} {p : Packet} (hk : Stays s0 s) : StaysOpt s0 (State.deliverSum s a accepted p) := by
  unfold State.deliverSum
  repeat' (first
    | with_reducible apply StaysOpt.ofSome
    | with_reducible exact StaysOpt.ofNone
    | ((try lift_lets); intro (x : State); refine Stays.via (s := s0) (x := x) ?_ (fun hx => ?_); rotate_left; clear_value x; rotate_left; unfold x)
    | ((try lift_lets); intro (x : State × _); refine Stays.via (s := s0) (x := x.1) ?_ (fun hx => ?_); rotate_left; clear_value x; rotate_left; unfold x)
    | ((try lift_lets); intro (x : _ × State); refine Stays.via (s := s0) (x := x.2) ?_ (fun hx => ?_); rotate_left; clear_value x; rotate_left; unfold x)
    | ((try lift_lets); intro (x : _ → _); dsimp -zeta only [x]; clear x)
    | ((try lift_lets); intro x; clear_value x)
    | with_reducible assumption
    | with_reducible apply State.arrive_stays
    | with_reducible apply State.noteStale_stays
    | with_reducible apply State.redMismatch_stays
    | with_reducible apply State.raiseOnce_stays
    | with_reducible apply State.noteResult_stays
    | with_reducible refine Stays.of_fst (State.routerWrite_stays ?_) (by assumption)
    | with_reducible apply State.routerWrite_stays
    | with_reducible apply State.countIrq_stays
    | with_reducible refine Stays.foldl ?_ (fun u x hu => ?_)
    | with_reducible refine Stays.foldl_fst ?_ (fun u x hu => ?_)
    | split
    | (dsimp only)
    | (with_reducible apply Stays.upd; first | with_reducible assumption | with_reducible apply State.arrive_stays | with_reducible apply State.noteStale_stays | with_reducible apply State.redMismatch_stays | with_reducible apply State.raiseOnce_stays | with_reducible apply State.noteResult_stays | with_reducible refine Stays.of_fst (State.routerWrite_stays ?_) (by assumption) | with_reducible apply State.routerWrite_stays | with_reducible apply State.countIrq_stays | split))

theorem State.deliverCtl_stays {a : TileAddr} {p : Packet} (hk : Stays s0 s) : Stays s0 (State.deliverCtl s a p) := by
  unfold State.deliverCtl
  repeat' (first
    | ((try lift_lets); intro (x : State); refine Stays.via (s := s0) (x := x) ?_ (fun hx => ?_); rotate_left; clear_value x; rotate_left; unfold x)
    | ((try lift_lets); intro x; clear_value x)
    | with_reducible assumption
    | with_reducible apply State.noteStale_stays
    | with_reducible apply State.raiseOnce_stays
    | with_reducible apply State.packetSignal_stays
    | with_reducible apply State.countIrq_stays
    | split
    | (dsimp only)
    | (with_reducible apply Stays.upd; first | with_reducible assumption | with_reducible apply State.noteStale_stays | with_reducible apply State.raiseOnce_stays | with_reducible apply State.packetSignal_stays | with_reducible apply State.countIrq_stays | split))

theorem State.act_stays {a : TileAddr} {accepted : Bool} {p : Packet} (hk : Stays s0 s) : StaysOpt s0 (State.act s a accepted p) := by
  unfold State.act
  repeat' (first
    | with_reducible apply StaysOpt.ofSome
    | with_reducible exact StaysOpt.ofNone
    | ((try lift_lets); intro (x : State); refine Stays.via (s := s0) (x := x) ?_ (fun hx => ?_); rotate_left; clear_value x; rotate_left; unfold x)
    | ((try lift_lets); intro x; clear_value x)
    | with_reducible assumption
    | with_reducible apply State.deliverCtl_stays
    | with_reducible refine StaysOpt.get (State.deliverSum_stays ?_) (by assumption)
    | with_reducible apply State.deliverSum_stays
    | with_reducible refine StaysOpt.get (State.deliverAct_stays ?_) (by assumption)
    | with_reducible apply State.deliverAct_stays
    | split
    | (dsimp only)
    | (with_reducible apply Stays.upd; first | with_reducible assumption | with_reducible apply State.deliverCtl_stays | with_reducible refine StaysOpt.get (State.deliverSum_stays ?_) (by assumption) | with_reducible apply State.deliverSum_stays | with_reducible refine StaysOpt.get (State.deliverAct_stays ?_) (by assumption) | with_reducible apply State.deliverAct_stays | split))

theorem State.land_stays {a : TileAddr} {p : Packet} (hk : Stays s0 s) : StaysOpt s0 (State.land s a p) := by
  unfold State.land
  repeat' (first
    | with_reducible apply StaysOpt.ofSome
    | with_reducible exact StaysOpt.ofNone
    | ((try lift_lets); intro (x : State); refine Stays.via (s := s0) (x := x) ?_ (fun hx => ?_); rotate_left; clear_value x; rotate_left; unfold x)
    | ((try lift_lets); intro x; clear_value x)
    | with_reducible assumption
    | with_reducible apply State.setTile_stays
    | with_reducible refine StaysOpt.get (State.act_stays ?_) (by assumption)
    | with_reducible apply State.act_stays
    | with_reducible apply State.fencedDiscard_stays
    | split
    | (dsimp only)
    | (with_reducible apply Stays.upd; first | with_reducible assumption | with_reducible apply State.setTile_stays | with_reducible refine StaysOpt.get (State.act_stays ?_) (by assumption) | with_reducible apply State.act_stays | with_reducible apply State.fencedDiscard_stays | split))

theorem State.landingWork_stays {a : TileAddr} (hk : Stays s0 s) : Stays s0 (State.landingWork s a) := by
  unfold State.landingWork
  repeat' (first
    | ((try lift_lets); intro (x : State); refine Stays.via (s := s0) (x := x) ?_ (fun hx => ?_); rotate_left; clear_value x; rotate_left; unfold x)
    | ((try lift_lets); intro x; clear_value x)
    | with_reducible assumption
    | with_reducible apply State.setTile_stays
    | with_reducible refine StaysOpt.get (State.act_stays ?_) (by assumption)
    | split
    | (dsimp only)
    | (with_reducible apply Stays.upd; first | with_reducible assumption | with_reducible apply State.setTile_stays | with_reducible refine StaysOpt.get (State.act_stays ?_) (by assumption) | split))

theorem State.edgeRelease_stays  (hk : Stays s0 s) : Stays s0 (State.edgeRelease s) := by
  unfold State.edgeRelease
  repeat' (first
    | ((try lift_lets); intro (x : State); refine Stays.via (s := s0) (x := x) ?_ (fun hx => ?_); rotate_left; clear_value x; rotate_left; unfold x)
    | ((try lift_lets); intro x; clear_value x)
    | with_reducible assumption
    | with_reducible apply State.inject_stays
    | with_reducible refine Stays.foldl ?_ (fun u x hu => ?_)
    | split
    | (dsimp only)
    | (with_reducible apply Stays.upd; first | with_reducible assumption | with_reducible apply State.inject_stays | split))

theorem State.edgeSignal_stays {a : TileAddr} {p : Packet} (hk : Stays s0 s) : Stays s0 (State.edgeSignal s a p) := by
  unfold State.edgeSignal
  repeat' (first
    | ((try lift_lets); intro (x : State); refine Stays.via (s := s0) (x := x) ?_ (fun hx => ?_); rotate_left; clear_value x; rotate_left; unfold x)
    | ((try lift_lets); intro x; clear_value x)
    | with_reducible assumption
    | with_reducible apply State.pktEvent_stays
    | with_reducible apply State.inject_stays
    | with_reducible apply State.count_stays
    | split
    | (dsimp only)
    | (with_reducible apply Stays.upd; first | with_reducible assumption | with_reducible apply State.pktEvent_stays | with_reducible apply State.inject_stays | with_reducible apply State.count_stays | split))

theorem State.deliverEdge_stays {a : TileAddr} {p : Packet} (hk : Stays s0 s) : Stays s0 (State.deliverEdge s a p) := by
  unfold State.deliverEdge
  repeat' (first
    | ((try lift_lets); intro (x : State); refine Stays.via (s := s0) (x := x) ?_ (fun hx => ?_); rotate_left; clear_value x; rotate_left; unfold x)
    | ((try lift_lets); intro x; clear_value x)
    | with_reducible assumption
    | with_reducible apply State.count_stays
    | with_reducible apply State.edgeWrite_stays
    | with_reducible apply State.edgeSignal_stays
    | split
    | (dsimp only)
    | (with_reducible apply Stays.upd; first | with_reducible assumption | with_reducible apply State.count_stays | with_reducible apply State.edgeWrite_stays | with_reducible apply State.edgeSignal_stays | split))

theorem State.deliverBridge_stays {a : TileAddr} {p : Packet} (hk : Stays s0 s) : Stays s0 (State.deliverBridge s a p) := by
  unfold State.deliverBridge
  repeat' (first
    | ((try lift_lets); intro (x : State); refine Stays.via (s := s0) (x := x) ?_ (fun hx => ?_); rotate_left; clear_value x; rotate_left; unfold x)
    | ((try lift_lets); intro x; clear_value x)
    | with_reducible assumption
    | with_reducible apply State.pktEvent_stays
    | with_reducible apply State.count_stays
    | split
    | (dsimp only)
    | (with_reducible apply Stays.upd; first | with_reducible assumption | with_reducible apply State.pktEvent_stays | with_reducible apply State.count_stays | split))

end Sys2Proof.Machine
end

