-- ==== Sys2Proof/Laws/KeepsHop.lean ====
section
/-!
SUPPORT. What the operations of Machine/Hop keep (Laws/Keeps).
-/
namespace Sys2Proof.Machine

set_option linter.all false

variable {s0 s : State}

theorem State.deadSlot_stays {a : TileAddr} {cause : Nat} {p : Packet} (hk : Stays s0 s) : Stays s0 (State.deadSlot s a cause p) := by
  unfold State.deadSlot
  repeat' (first
    | ((try lift_lets); intro (x : State); refine Stays.via (s := s0) (x := x) ?_ (fun hx => ?_); rotate_left; clear_value x; rotate_left; unfold x)
    | ((try lift_lets); intro (x : _ → _); dsimp -zeta only [x]; clear x)
    | ((try lift_lets); intro x; clear_value x)
    | with_reducible assumption
    | with_reducible apply State.redMismatch_stays
    | with_reducible apply State.setTile_stays
    | split
    | (dsimp only)
    | (with_reducible apply Stays.upd; first | with_reducible assumption | with_reducible apply State.redMismatch_stays | with_reducible apply State.setTile_stays | split))

theorem State.joinSlot_stays {a : TileAddr} {input : Nat} {p : Packet} {e : W64} (hk : Stays s0 s) : StaysOpt s0 (State.joinSlot s a input p e) := by
  unfold State.joinSlot
  repeat' (first
    | with_reducible apply StaysOpt.ofSome
    | with_reducible exact StaysOpt.ofNone
    | ((try lift_lets); intro (x : State); refine Stays.via (s := s0) (x := x) ?_ (fun hx => ?_); rotate_left; clear_value x; rotate_left; unfold x)
    | ((try lift_lets); intro x; clear_value x)
    | with_reducible assumption
    | with_reducible apply State.noteStale_stays
    | with_reducible apply State.setTile_stays
    | with_reducible refine StaysOpt.get (State.deliver_stays ?_) (by assumption)
    | with_reducible apply State.deliver_stays
    | with_reducible apply State.deadSlot_stays
    | split
    | (dsimp only)
    | (with_reducible apply Stays.upd; first | with_reducible assumption | with_reducible apply State.noteStale_stays | with_reducible apply State.setTile_stays | with_reducible refine StaysOpt.get (State.deliver_stays ?_) (by assumption) | with_reducible apply State.deliver_stays | with_reducible apply State.deadSlot_stays | split))

theorem State.dropHead_stays {a : TileAddr} {input cls : Nat} (hk : Stays s0 s) : Stays s0 (State.dropHead s a input cls) := by
  unfold State.dropHead
  repeat' (first
    | ((try lift_lets); intro (x : State); refine Stays.via (s := s0) (x := x) ?_ (fun hx => ?_); rotate_left; clear_value x; rotate_left; unfold x)
    | ((try lift_lets); intro x; clear_value x)
    | with_reducible assumption
    | with_reducible apply State.setTile_stays
    | split
    | (dsimp only)
    | (with_reducible apply Stays.upd; first | with_reducible assumption | with_reducible apply State.setTile_stays | split))

theorem State.joinInput_stays {a : TileAddr} {input : Nat} (hk : Stays s0 s) : Stays s0 (State.joinInput s a input) := by
  unfold State.joinInput
  repeat' (first
    | ((try lift_lets); intro (x : State); refine Stays.via (s := s0) (x := x) ?_ (fun hx => ?_); rotate_left; clear_value x; rotate_left; unfold x)
    | ((try lift_lets); intro x; clear_value x)
    | with_reducible assumption
    | with_reducible apply State.dropHead_stays
    | with_reducible refine StaysOpt.get (State.joinSlot_stays ?_) (by assumption)
    | split
    | (dsimp only)
    | (with_reducible apply Stays.upd; first | with_reducible assumption | with_reducible apply State.dropHead_stays | with_reducible refine StaysOpt.get (State.joinSlot_stays ?_) (by assumption) | split))

theorem State.takeCopy_stays {a : TileAddr} {p : Packet} (hk : Stays s0 s) : StaysOpt s0 (State.takeCopy s a p) := by
  unfold State.takeCopy
  repeat' (first
    | with_reducible apply StaysOpt.ofSome
    | with_reducible exact StaysOpt.ofNone
    | ((try lift_lets); intro (x : State); refine Stays.via (s := s0) (x := x) ?_ (fun hx => ?_); rotate_left; clear_value x; rotate_left; unfold x)
    | ((try lift_lets); intro x; clear_value x)
    | with_reducible assumption
    | with_reducible refine StaysOpt.get (State.land_stays ?_) (by assumption)
    | with_reducible apply State.land_stays
    | split
    | (dsimp only)
    | (with_reducible apply Stays.upd; first | with_reducible assumption | with_reducible refine StaysOpt.get (State.land_stays ?_) (by assumption) | with_reducible apply State.land_stays | split))

theorem State.copyInput_stays {a : TileAddr} {input : Nat} (hk : Stays s0 s) : Stays s0 (State.copyInput s a input) := by
  unfold State.copyInput
  repeat' (first
    | ((try lift_lets); intro (x : State); refine Stays.via (s := s0) (x := x) ?_ (fun hx => ?_); rotate_left; clear_value x; rotate_left; unfold x)
    | ((try lift_lets); intro x; clear_value x)
    | with_reducible assumption
    | with_reducible apply State.setTile_stays
    | with_reducible refine StaysOpt.get (State.takeCopy_stays ?_) (by assumption)
    | split
    | (dsimp only)
    | (with_reducible apply Stays.upd; first | with_reducible assumption | with_reducible apply State.setTile_stays | with_reducible refine StaysOpt.get (State.takeCopy_stays ?_) (by assumption) | split))

theorem State.routerWork_stays {a : TileAddr} (hk : Stays s0 s) : Stays s0 (State.routerWork s a) := by
  unfold State.routerWork
  repeat' (first
    | ((try lift_lets); intro (x : State); refine Stays.via (s := s0) (x := x) ?_ (fun hx => ?_); rotate_left; clear_value x; rotate_left; unfold x)
    | ((try lift_lets); intro x; clear_value x)
    | with_reducible assumption
    | with_reducible apply State.copyInput_stays
    | with_reducible apply State.joinInput_stays
    | with_reducible apply State.landingWork_stays
    | with_reducible refine Stays.foldl ?_ (fun u x hu => ?_)
    | split
    | (dsimp only)
    | (with_reducible apply Stays.upd; first | with_reducible assumption | with_reducible apply State.copyInput_stays | with_reducible apply State.joinInput_stays | with_reducible apply State.landingWork_stays | split))

theorem State.arrivedAt_stays {f : FieldAddr} (hk : Stays s0 s) : Stays s0 (State.arrivedAt s f) := by
  unfold State.arrivedAt
  repeat' (first
    | ((try lift_lets); intro (x : State); refine Stays.via (s := s0) (x := x) ?_ (fun hx => ?_); rotate_left; clear_value x; rotate_left; unfold x)
    | ((try lift_lets); intro x; clear_value x)
    | with_reducible assumption
    | with_reducible apply State.setField_stays
    | with_reducible apply State.setF_stays
    | split
    | (dsimp only)
    | (with_reducible apply Stays.upd; first | with_reducible assumption | with_reducible apply State.setField_stays | with_reducible apply State.setF_stays | split))

theorem State.transmit_stays {a : TileAddr} {dir : Nat} {p : Packet} (hk : Stays s0 s) : Stays s0 (State.transmit s a dir p) := by
  unfold State.transmit
  repeat' (first
    | ((try lift_lets); intro (x : State); refine Stays.via (s := s0) (x := x) ?_ (fun hx => ?_); rotate_left; clear_value x; rotate_left; unfold x)
    | ((try lift_lets); intro (x : _ → _); dsimp -zeta only [x]; clear x)
    | ((try lift_lets); intro x; clear_value x)
    | with_reducible assumption
    | with_reducible apply State.pktEvent_stays
    | with_reducible apply State.count_stays
    | with_reducible apply State.setTile_stays
    | with_reducible apply State.arrivedAt_stays
    | split
    | (dsimp only)
    | (with_reducible apply Stays.upd; first | with_reducible assumption | with_reducible apply State.pktEvent_stays | with_reducible apply State.count_stays | with_reducible apply State.setTile_stays | with_reducible apply State.arrivedAt_stays | split))

theorem State.turn_stays {a : TileAddr} {dir cls : Nat} {input : Option Nat} (hk : Stays s0 s) : Stays s0 (State.turn s a dir cls input) := by
  unfold State.turn
  repeat' (first
    | ((try lift_lets); intro (x : State); refine Stays.via (s := s0) (x := x) ?_ (fun hx => ?_); rotate_left; clear_value x; rotate_left; unfold x)
    | ((try lift_lets); intro x; clear_value x)
    | with_reducible assumption
    | with_reducible apply State.setTile_stays
    | split
    | (dsimp only)
    | (with_reducible apply Stays.upd; first | with_reducible assumption | with_reducible apply State.setTile_stays | split))

theorem execPacketHop_stays {a : TileAddr} {dir : Fin 4} : StaysOut s (execPacketHop a dir s) := by
  unfold execPacketHop
  have hk : Stays s s := Stays.refl s
  repeat' (first
    | with_reducible apply StaysOut.next
    | ((try lift_lets); intro (x : State); refine Stays.via (s := s) (x := x) ?_ (fun hx => ?_); rotate_left; clear_value x; rotate_left; unfold x)
    | ((try lift_lets); intro x; clear_value x)
    | with_reducible assumption
    | with_reducible apply State.setTile_stays
    | with_reducible apply State.turn_stays
    | with_reducible apply State.transmit_stays
    | with_reducible apply State.routerWork_stays
    | with_reducible apply State.dropHead_stays
    | split
    | (dsimp only)
    | (with_reducible apply Stays.upd; first | with_reducible assumption | with_reducible apply State.setTile_stays | with_reducible apply State.turn_stays | with_reducible apply State.transmit_stays | with_reducible apply State.routerWork_stays | with_reducible apply State.dropHead_stays | split))

theorem State.deliver_stays {a : TileAddr} {p : Packet} (hk : Stays s0 s) : StaysOpt s0 (State.deliver s a p) := by
  unfold State.deliver
  repeat' (first
    | with_reducible apply StaysOpt.ofSome
    | with_reducible exact StaysOpt.ofNone
    | ((try lift_lets); intro (x : State); refine Stays.via (s := s0) (x := x) ?_ (fun hx => ?_); rotate_left; clear_value x; rotate_left; unfold x)
    | ((try lift_lets); intro x; clear_value x)
    | with_reducible assumption
    | with_reducible apply State.deliverBridge_stays
    | with_reducible apply State.deliverEdge_stays
    | with_reducible refine StaysOpt.get (State.land_stays ?_) (by assumption)
    | with_reducible apply State.land_stays
    | split
    | (dsimp only)
    | (with_reducible apply Stays.upd; first | with_reducible assumption | with_reducible apply State.deliverBridge_stays | with_reducible apply State.deliverEdge_stays | with_reducible refine StaysOpt.get (State.land_stays ?_) (by assumption) | with_reducible apply State.land_stays | split))

theorem execPacketDelivery_stays {a : TileAddr} {input : Fin 5} {cls : Fin 4} : StaysOut s (execPacketDelivery a input cls s) := by
  unfold execPacketDelivery
  have hk : Stays s s := Stays.refl s
  repeat' (first
    | with_reducible apply StaysOut.next
    | ((try lift_lets); intro (x : State); refine Stays.via (s := s) (x := x) ?_ (fun hx => ?_); rotate_left; clear_value x; rotate_left; unfold x)
    | ((try lift_lets); intro x; clear_value x)
    | with_reducible assumption
    | with_reducible apply State.setTile_stays
    | with_reducible refine StaysOpt.get (State.deliver_stays ?_) (by assumption)
    | with_reducible apply State.routerWork_stays
    | with_reducible apply State.dropHead_stays
    | split
    | (dsimp only)
    | (with_reducible apply Stays.upd; first | with_reducible assumption | with_reducible apply State.setTile_stays | with_reducible refine StaysOpt.get (State.deliver_stays ?_) (by assumption) | with_reducible apply State.routerWork_stays | with_reducible apply State.dropHead_stays | split))

theorem execWgtRecordEnqueue_stays {a : TileAddr} : StaysOut s (execWgtRecordEnqueue a s) := by
  unfold execWgtRecordEnqueue
  have hk : Stays s s := Stays.refl s
  repeat' (first
    | with_reducible apply StaysOut.next
    | ((try lift_lets); intro (x : State); refine Stays.via (s := s) (x := x) ?_ (fun hx => ?_); rotate_left; clear_value x; rotate_left; unfold x)
    | ((try lift_lets); intro (x : _ → _); dsimp -zeta only [x]; clear x)
    | ((try lift_lets); intro x; clear_value x)
    | with_reducible assumption
    | with_reducible apply State.unbound_stays
    | with_reducible apply State.enterDq_stays
    | with_reducible apply State.setTile_stays
    | with_reducible apply State.landingWork_stays
    | split
    | (dsimp only)
    | (with_reducible apply Stays.upd; first | with_reducible assumption | with_reducible apply State.unbound_stays | with_reducible apply State.enterDq_stays | with_reducible apply State.setTile_stays | with_reducible apply State.landingWork_stays | split))

theorem State.sendRefused_stays {a : TileAddr} {task cause cls ep : Nat} (hk : Stays s0 s) : Stays s0 (State.sendRefused s a task cause cls ep) := by
  unfold State.sendRefused
  repeat' (first
    | ((try lift_lets); intro (x : State); refine Stays.via (s := s0) (x := x) ?_ (fun hx => ?_); rotate_left; clear_value x; rotate_left; unfold x)
    | ((try lift_lets); intro x; clear_value x)
    | with_reducible assumption
    | with_reducible apply State.reportCause_stays
    | with_reducible apply State.raiseOnce_stays
    | with_reducible apply State.captureTile_stays
    | with_reducible apply State.count_stays
    | with_reducible apply State.setErr_stays
    | split
    | (dsimp only)
    | (with_reducible apply Stays.upd; first | with_reducible assumption | with_reducible apply State.reportCause_stays | with_reducible apply State.raiseOnce_stays | with_reducible apply State.captureTile_stays | with_reducible apply State.count_stays | with_reducible apply State.setErr_stays | split))

theorem State.emit_stays {a : TileAddr} {task : Nat} {ep cls : Nat} {mc : Bool} {epoch : BitVec 2} {srcEp addr len aux : Nat} {payload : List Byte} {gen : Nat} (hk : Stays s0 s) : Stays s0 (State.emit s a task ep cls mc epoch srcEp addr len aux payload gen) := by
  unfold State.emit
  repeat' (first
    | ((try lift_lets); intro (x : State); refine Stays.via (s := s0) (x := x) ?_ (fun hx => ?_); rotate_left; clear_value x; rotate_left; unfold x)
    | ((try lift_lets); intro x; clear_value x)
    | with_reducible assumption
    | with_reducible apply State.inject_stays
    | with_reducible apply State.sendRefused_stays
    | split
    | (dsimp only)
    | (with_reducible apply Stays.upd; first | with_reducible assumption | with_reducible apply State.inject_stays | with_reducible apply State.sendRefused_stays | split))

theorem execEmitterSend_stays {a : TileAddr} {q : Fin 8} : StaysOut s (execEmitterSend a q s) := by
  unfold execEmitterSend
  have hk : Stays s s := Stays.refl s
  repeat' (first
    | with_reducible apply StaysOut.next
    | ((try lift_lets); intro (x : State); refine Stays.via (s := s) (x := x) ?_ (fun hx => ?_); rotate_left; clear_value x; rotate_left; unfold x)
    | ((try lift_lets); intro x; clear_value x)
    | with_reducible assumption
    | with_reducible apply State.setTile_stays
    | with_reducible apply State.emit_stays
    | split
    | (dsimp only)
    | (with_reducible apply Stays.upd; first | with_reducible assumption | with_reducible apply State.setTile_stays | with_reducible apply State.emit_stays | split))

theorem nbrEnter_stays {b : TileAddr} {side cls n : Nat} : ∀ {s : State}, Stays s0 s → Stays s0 (nbrEnter b side cls n s) := by
  induction n with
  | zero => exact fun h => h
  | succ n ih =>
    intro s h
    unfold nbrEnter
    dsimp only
    split
    · exact h
    · have h1 := fun x => State.setTile_stays (a := b) (t := x) h
      split
      · split
        · exact ih (State.unbound_stays (h1 _))
        · split
          · exact ih (State.enterDq_stays (h1 _))
          · exact h
      · split
        · exact ih (State.unbound_stays (h1 _))
        · split
          · exact ih (State.enterCq_stays (h1 _))
          · exact h
      · exact ih (h1 _)

theorem State.portSend_stays {a : TileAddr} {q cls : Nat} (hk : Stays s0 s) : Stays s0 (State.portSend s a q cls) := by
  unfold State.portSend
  repeat' (first
    | ((try lift_lets); intro (x : State); refine Stays.via (s := s0) (x := x) ?_ (fun hx => ?_); rotate_left; clear_value x; rotate_left; unfold x)
    | ((try lift_lets); intro x; clear_value x)
    | with_reducible assumption
    | with_reducible apply State.count_stays
    | with_reducible apply State.setTile_stays
    | split
    | (dsimp only)
    | (with_reducible apply Stays.upd; first | with_reducible assumption | with_reducible apply State.count_stays | with_reducible apply State.setTile_stays | split))

theorem State.portCross_stays {a b : TileAddr} {side : Nat} (hk : Stays s0 s) : Stays s0 (State.portCross s a b side) := by
  unfold State.portCross
  repeat' (first
    | ((try lift_lets); intro (x : State); refine Stays.via (s := s0) (x := x) ?_ (fun hx => ?_); rotate_left; clear_value x; rotate_left; unfold x)
    | ((try lift_lets); intro x; clear_value x)
    | with_reducible assumption
    | with_reducible apply State.setTile_stays
    | with_reducible apply State.portSend_stays
    | with_reducible apply nbrEnter_stays
    | with_reducible apply State.arrivedAt_stays
    | with_reducible refine Stays.foldl ?_ (fun u x hu => ?_)
    | split
    | (dsimp only)
    | (with_reducible apply Stays.upd; first | with_reducible assumption | with_reducible apply State.setTile_stays | with_reducible apply State.portSend_stays | with_reducible apply nbrEnter_stays | with_reducible apply State.arrivedAt_stays | split))

theorem execNeighbourToken_stays {a : TileAddr} {side : Fin 4} : StaysOut s (execNeighbourToken a side s) := by
  unfold execNeighbourToken
  have hk : Stays s s := Stays.refl s
  repeat' (first
    | with_reducible apply StaysOut.next
    | ((try lift_lets); intro (x : State); refine Stays.via (s := s) (x := x) ?_ (fun hx => ?_); rotate_left; clear_value x; rotate_left; unfold x)
    | ((try lift_lets); intro x; clear_value x)
    | with_reducible assumption
    | with_reducible apply State.meshEvent_stays
    | with_reducible apply State.count_stays
    | with_reducible apply State.portCross_stays
    | with_reducible apply State.portSend_stays
    | split
    | (dsimp only)
    | (with_reducible apply Stays.upd; first | with_reducible assumption | with_reducible apply State.meshEvent_stays | with_reducible apply State.count_stays | with_reducible apply State.portCross_stays | with_reducible apply State.portSend_stays | split))

end Sys2Proof.Machine
end

