-- ==== Sys2Proof/Laws/KeepsDrain.lean ====
section
/-!
SUPPORT. What the operations of Machine/Drain keep (Laws/Keeps).
-/
namespace Sys2Proof.Machine

set_option linter.all false

variable {s0 s : State}

theorem State.clearBanks_stays {a : TileAddr} {mask : BitVec 4} (hk : Stays s0 s) : Stays s0 (State.clearBanks s a mask) := by
  unfold State.clearBanks
  repeat' (first
    | ((try lift_lets); intro (x : State); refine Stays.via (s := s0) (x := x) ?_ (fun hx => ?_); rotate_left; clear_value x; rotate_left; unfold x)
    | ((try lift_lets); intro x; clear_value x)
    | with_reducible assumption
    | with_reducible apply State.setTile_stays
    | with_reducible apply State.tapDrop_stays
    | with_reducible refine Stays.foldl ?_ (fun u x hu => ?_)
    | split
    | (dsimp only)
    | (with_reducible apply Stays.upd; first | with_reducible assumption | with_reducible apply State.setTile_stays | with_reducible apply State.tapDrop_stays | split))

theorem State.abortTile_stays {a : TileAddr} (hk : Stays s0 s) : Stays s0 (State.abortTile s a) := by
  unfold State.abortTile
  repeat' (first
    | ((try lift_lets); intro (x : State); refine Stays.via (s := s0) (x := x) ?_ (fun hx => ?_); rotate_left; clear_value x; rotate_left; unfold x)
    | ((try lift_lets); intro x; clear_value x)
    | with_reducible assumption
    | with_reducible apply State.flushAll_stays
    | with_reducible apply State.count_stays
    | with_reducible apply State.setTile_stays
    | with_reducible apply State.clearBanks_stays
    | with_reducible refine Stays.foldl ?_ (fun u x hu => ?_)
    | split
    | (dsimp only)
    | (with_reducible apply Stays.upd; first | with_reducible assumption | with_reducible apply State.flushAll_stays | with_reducible apply State.count_stays | with_reducible apply State.setTile_stays | with_reducible apply State.clearBanks_stays | split))

theorem State.holdStreams_stays {f : FieldAddr} (hk : Stays s0 s) : Stays s0 (State.holdStreams s f) := by
  unfold State.holdStreams
  repeat' (first
    | ((try lift_lets); intro (x : State); refine Stays.via (s := s0) (x := x) ?_ (fun hx => ?_); rotate_left; clear_value x; rotate_left; unfold x)
    | ((try lift_lets); intro (x : _ → _); dsimp -zeta only [x]; clear x)
    | ((try lift_lets); intro x; clear_value x)
    | with_reducible assumption
    | exact Stays.ctxs (by assumption) (fun w => (storeWf_mapKeys _ _ _ _ w).1)
    | split
    | (dsimp only)
    | (with_reducible apply Stays.upd; first | with_reducible assumption | split))

theorem State.drainEnd_stays {f : FieldAddr} {result : Nat} (hk : Stays s0 s) : Stays s0 (State.drainEnd s f result) := by
  unfold State.drainEnd
  repeat' (first
    | ((try lift_lets); intro (x : State); refine Stays.via (s := s0) (x := x) ?_ (fun hx => ?_); rotate_left; clear_value x; rotate_left; unfold x)
    | ((try lift_lets); intro x; clear_value x)
    | with_reducible assumption
    | with_reducible apply State.setIrq_stays
    | with_reducible apply State.setField_stays
    | with_reducible apply State.setF_stays
    | split
    | (dsimp only)
    | (with_reducible apply Stays.upd; first | with_reducible assumption | with_reducible apply State.setIrq_stays | with_reducible apply State.setField_stays | with_reducible apply State.setF_stays | split))

theorem State.drainStart_stays {f : FieldAddr} {mode : Nat} (hk : Stays s0 s) : Stays s0 (State.drainStart s f mode) := by
  unfold State.drainStart
  repeat' (first
    | ((try lift_lets); intro (x : State); refine Stays.via (s := s0) (x := x) ?_ (fun hx => ?_); rotate_left; clear_value x; rotate_left; unfold x)
    | ((try lift_lets); intro x; clear_value x)
    | with_reducible assumption
    | with_reducible apply State.flushAll_stays
    | with_reducible apply State.setField_stays
    | with_reducible apply State.setF_stays
    | with_reducible apply State.drainEnd_stays
    | with_reducible apply State.holdStreams_stays
    | with_reducible apply State.abortTile_stays
    | with_reducible apply State.edgeRelease_stays
    | with_reducible apply State.applyFences_stays
    | with_reducible refine Stays.foldl ?_ (fun u x hu => ?_)
    | split
    | (dsimp only)
    | (with_reducible apply Stays.upd; first | with_reducible assumption | with_reducible apply State.flushAll_stays | with_reducible apply State.setField_stays | with_reducible apply State.setF_stays | with_reducible apply State.drainEnd_stays | with_reducible apply State.holdStreams_stays | with_reducible apply State.abortTile_stays | with_reducible apply State.edgeRelease_stays | with_reducible apply State.applyFences_stays | split))

theorem State.drainWrite_stays {f : FieldAddr} {fw : Bool} {value : W64} (hk : Stays s0 s) : Stays s0 (State.drainWrite s f fw value) := by
  unfold State.drainWrite
  repeat' (first
    | ((try lift_lets); intro (x : State); refine Stays.via (s := s0) (x := x) ?_ (fun hx => ?_); rotate_left; clear_value x; rotate_left; unfold x)
    | ((try lift_lets); intro x; clear_value x)
    | with_reducible assumption
    | with_reducible refine State.regWrite_stays ?_ (fun u hu => ?_)
    | with_reducible apply State.drainStart_stays
    | split
    | (dsimp only)
    | (with_reducible apply Stays.upd; first | with_reducible assumption | with_reducible refine State.regWrite_stays ?_ (fun u hu => ?_) | with_reducible apply State.drainStart_stays | split))

theorem execDrainStop_stays {f : FieldAddr} {fw : Bool} {value : W64} : StaysOut s (execDrainStop f fw value s) := by
  unfold execDrainStop
  have hk : Stays s s := Stays.refl s
  repeat' (first
    | with_reducible apply StaysOut.next
    | ((try lift_lets); intro (x : State); refine Stays.via (s := s) (x := x) ?_ (fun hx => ?_); rotate_left; clear_value x; rotate_left; unfold x)
    | ((try lift_lets); intro x; clear_value x)
    | with_reducible assumption
    | with_reducible apply State.drainWrite_stays
    | split
    | (dsimp only)
    | (with_reducible apply Stays.upd; first | with_reducible assumption | with_reducible apply State.drainWrite_stays | split))

theorem execDrainAbort_stays {f : FieldAddr} {fw : Bool} {value : W64} : StaysOut s (execDrainAbort f fw value s) := by
  unfold execDrainAbort
  have hk : Stays s s := Stays.refl s
  repeat' (first
    | with_reducible apply StaysOut.next
    | ((try lift_lets); intro (x : State); refine Stays.via (s := s) (x := x) ?_ (fun hx => ?_); rotate_left; clear_value x; rotate_left; unfold x)
    | ((try lift_lets); intro x; clear_value x)
    | with_reducible assumption
    | with_reducible apply State.drainWrite_stays
    | split
    | (dsimp only)
    | (with_reducible apply Stays.upd; first | with_reducible assumption | with_reducible apply State.drainWrite_stays | split))

theorem execDrainRelease_stays {f : FieldAddr} {fw : Bool} {value : W64} : StaysOut s (execDrainRelease f fw value s) := by
  unfold execDrainRelease
  have hk : Stays s s := Stays.refl s
  repeat' (first
    | with_reducible apply StaysOut.next
    | ((try lift_lets); intro (x : State); refine Stays.via (s := s) (x := x) ?_ (fun hx => ?_); rotate_left; clear_value x; rotate_left; unfold x)
    | ((try lift_lets); intro x; clear_value x)
    | with_reducible assumption
    | with_reducible apply State.drainWrite_stays
    | split
    | (dsimp only)
    | (with_reducible apply Stays.upd; first | with_reducible assumption | with_reducible apply State.drainWrite_stays | split))

theorem State.rateCheck_stays {a : TileAddr} (hk : Stays s0 s) : Stays s0 (State.rateCheck s a) := by
  unfold State.rateCheck
  repeat' (first
    | ((try lift_lets); intro (x : State); refine Stays.via (s := s0) (x := x) ?_ (fun hx => ?_); rotate_left; clear_value x; rotate_left; unfold x)
    | ((try lift_lets); intro x; clear_value x)
    | with_reducible assumption
    | with_reducible apply State.reportCause_stays
    | with_reducible apply State.raiseOnce_stays
    | with_reducible apply State.captureFirst_stays
    | with_reducible apply State.countWm_stays
    | split
    | (dsimp only)
    | (with_reducible apply Stays.upd; first | with_reducible assumption | with_reducible apply State.reportCause_stays | with_reducible apply State.raiseOnce_stays | with_reducible apply State.captureFirst_stays | with_reducible apply State.countWm_stays | split))

theorem State.rateChecks_stays {f : FieldAddr} (hk : Stays s0 s) : Stays s0 (State.rateChecks s f) := by
  unfold State.rateChecks
  repeat' (first
    | ((try lift_lets); intro (x : State); refine Stays.via (s := s0) (x := x) ?_ (fun hx => ?_); rotate_left; clear_value x; rotate_left; unfold x)
    | ((try lift_lets); intro x; clear_value x)
    | with_reducible assumption
    | with_reducible apply State.rateCheck_stays
    | with_reducible refine Stays.foldl ?_ (fun u x hu => ?_)
    | split
    | (dsimp only)
    | (with_reducible apply Stays.upd; first | with_reducible assumption | with_reducible apply State.rateCheck_stays | split))

theorem State.rejoinLinks_stays {f : FieldAddr} (hk : Stays s0 s) : Stays s0 (State.rejoinLinks s f) := by
  unfold State.rejoinLinks
  repeat' (first
    | ((try lift_lets); intro (x : State); refine Stays.via (s := s0) (x := x) ?_ (fun hx => ?_); rotate_left; clear_value x; rotate_left; unfold x)
    | ((try lift_lets); intro x; clear_value x)
    | with_reducible assumption
    | with_reducible apply State.setField_stays
    | with_reducible apply State.setF_stays
    | with_reducible refine Stays.foldl ?_ (fun u x hu => ?_)
    | split
    | (dsimp only)
    | (with_reducible apply Stays.upd; first | with_reducible assumption | with_reducible apply State.setField_stays | with_reducible apply State.setF_stays | split))

theorem execDrainSweep_stays {f : FieldAddr} : StaysOut s (execDrainSweep f s) := by
  unfold execDrainSweep
  have hk : Stays s s := Stays.refl s
  repeat' (first
    | with_reducible apply StaysOut.next
    | ((try lift_lets); intro (x : State); refine Stays.via (s := s) (x := x) ?_ (fun hx => ?_); rotate_left; clear_value x; rotate_left; unfold x)
    | ((try lift_lets); intro x; clear_value x)
    | with_reducible assumption
    | with_reducible apply State.setField_stays
    | with_reducible apply State.setF_stays
    | with_reducible apply State.rejoinLinks_stays
    | with_reducible apply State.rateChecks_stays
    | with_reducible apply State.drainEnd_stays
    | with_reducible apply State.applyFences_stays
    | split
    | (dsimp only)
    | (with_reducible apply Stays.upd; first | with_reducible assumption | with_reducible apply State.setField_stays | with_reducible apply State.setF_stays | with_reducible apply State.rejoinLinks_stays | with_reducible apply State.rateChecks_stays | with_reducible apply State.drainEnd_stays | with_reducible apply State.applyFences_stays | split))

theorem execDrainTimeout_stays {f : FieldAddr} : StaysOut s (execDrainTimeout f s) := by
  unfold execDrainTimeout
  have hk : Stays s s := Stays.refl s
  repeat' (first
    | with_reducible apply StaysOut.next
    | ((try lift_lets); intro (x : State); refine Stays.via (s := s) (x := x) ?_ (fun hx => ?_); rotate_left; clear_value x; rotate_left; unfold x)
    | ((try lift_lets); intro x; clear_value x)
    | with_reducible assumption
    | with_reducible apply State.drainEnd_stays
    | split
    | (dsimp only)
    | (with_reducible apply Stays.upd; first | with_reducible assumption | with_reducible apply State.drainEnd_stays | split))

theorem State.retestLink_stays {a b : TileAddr} {key : Nat} {here far : Bool} (hk : Stays s0 s) : Stays s0 (State.retestLink s a b key here far) := by
  unfold State.retestLink
  repeat' (first
    | ((try lift_lets); intro (x : State); refine Stays.via (s := s0) (x := x) ?_ (fun hx => ?_); rotate_left; clear_value x; rotate_left; unfold x)
    | ((try lift_lets); intro x; clear_value x)
    | with_reducible assumption
    | with_reducible apply State.setField_stays
    | with_reducible apply State.condemn_stays
    | split
    | (dsimp only)
    | (with_reducible apply Stays.upd; first | with_reducible assumption | with_reducible apply State.setField_stays | with_reducible apply State.condemn_stays | split))

theorem execLinkIsolation_stays {a : TileAddr} {side : Fin 4} {port here far : Bool} : StaysOut s (execLinkIsolation a side port here far s) := by
  unfold execLinkIsolation
  have hk : Stays s s := Stays.refl s
  repeat' (first
    | with_reducible apply StaysOut.next
    | ((try lift_lets); intro (x : State); refine Stays.via (s := s) (x := x) ?_ (fun hx => ?_); rotate_left; clear_value x; rotate_left; unfold x)
    | ((try lift_lets); intro x; clear_value x)
    | with_reducible assumption
    | with_reducible apply State.meshEvent_stays
    | with_reducible apply State.raise_stays
    | with_reducible apply State.setErr_stays
    | with_reducible apply State.setIrq_stays
    | with_reducible apply State.setField_stays
    | with_reducible apply State.setF_stays
    | with_reducible apply State.retestLink_stays
    | split
    | (dsimp only)
    | (with_reducible apply Stays.upd; first | with_reducible assumption | with_reducible apply State.meshEvent_stays | with_reducible apply State.raise_stays | with_reducible apply State.setErr_stays | with_reducible apply State.setIrq_stays | with_reducible apply State.setField_stays | with_reducible apply State.setF_stays | with_reducible apply State.retestLink_stays | split))

theorem State.readSpillHeader_stays {a : TileAddr} (hk : Stays s0 s) : Stays s0 (State.readSpillHeader s a).1 := by
  unfold State.readSpillHeader
  repeat' (first
    | ((try lift_lets); intro (x : State); refine Stays.via (s := s0) (x := x) ?_ (fun hx => ?_); rotate_left; clear_value x; rotate_left; unfold x)
    | ((try lift_lets); intro (x : State × _); refine Stays.via (s := s0) (x := x.1) ?_ (fun hx => ?_); rotate_left; clear_value x; rotate_left; unfold x)
    | ((try lift_lets); intro (x : _ × State); refine Stays.via (s := s0) (x := x.2) ?_ (fun hx => ?_); rotate_left; clear_value x; rotate_left; unfold x)
    | ((try lift_lets); intro x; clear_value x)
    | with_reducible assumption
    | with_reducible refine Stays.of_fst (State.readBytes_stays ?_) (by assumption)
    | with_reducible apply State.readBytes_stays
    | with_reducible apply State.spill_stays
    | split
    | (dsimp only)
    | (with_reducible apply Stays.upd; first | with_reducible assumption | with_reducible refine Stays.of_fst (State.readBytes_stays ?_) (by assumption) | with_reducible apply State.readBytes_stays | with_reducible apply State.spill_stays | split))

theorem State.spill_stays {a : TileAddr} {input : Nat} {p : Packet} (hk : Stays s0 s) : Stays s0 (State.spill s a input p) := by
  unfold State.spill
  repeat' (first
    | ((try lift_lets); intro (x : State); refine Stays.via (s := s0) (x := x) ?_ (fun hx => ?_); rotate_left; clear_value x; rotate_left; unfold x)
    | ((try lift_lets); intro (x : State × _); refine Stays.via (s := s0) (x := x.1) ?_ (fun hx => ?_); rotate_left; clear_value x; rotate_left; unfold x)
    | ((try lift_lets); intro (x : _ × State); refine Stays.via (s := s0) (x := x.2) ?_ (fun hx => ?_); rotate_left; clear_value x; rotate_left; unfold x)
    | ((try lift_lets); intro x; clear_value x)
    | with_reducible assumption
    | with_reducible apply State.countBank_stays
    | with_reducible apply State.reportCause_stays
    | with_reducible apply State.count_stays
    | with_reducible apply State.setTile_stays
    | with_reducible apply State.dropHead_stays
    | with_reducible refine Stays.of_fst (State.readSpillHeader_stays ?_) (by assumption)
    | with_reducible apply State.readSpillHeader_stays
    | split
    | (dsimp only)
    | (with_reducible apply Stays.upd; first | with_reducible assumption | with_reducible apply State.countBank_stays | with_reducible apply State.reportCause_stays | with_reducible apply State.count_stays | with_reducible apply State.setTile_stays | with_reducible apply State.dropHead_stays | with_reducible refine Stays.of_fst (State.readSpillHeader_stays ?_) (by assumption) | with_reducible apply State.readSpillHeader_stays | split))

theorem execDeadlockSpill_stays {a : TileAddr} : StaysOut s (execDeadlockSpill a s) := by
  unfold execDeadlockSpill
  have hk : Stays s s := Stays.refl s
  repeat' (first
    | with_reducible apply StaysOut.next
    | ((try lift_lets); intro (x : State); refine Stays.via (s := s) (x := x) ?_ (fun hx => ?_); rotate_left; clear_value x; rotate_left; unfold x)
    | ((try lift_lets); intro x; clear_value x)
    | with_reducible assumption
    | with_reducible apply State.spill_stays
    | split
    | (dsimp only)
    | (with_reducible apply Stays.upd; first | with_reducible assumption | with_reducible apply State.spill_stays | split))

theorem State.readSlot_stays {a : TileAddr} (hk : Stays s0 s) : Stays s0 (State.readSlot s a).1 := by
  unfold State.readSlot
  repeat' (first
    | ((try lift_lets); intro (x : State); refine Stays.via (s := s0) (x := x) ?_ (fun hx => ?_); rotate_left; clear_value x; rotate_left; unfold x)
    | ((try lift_lets); intro (x : State × _); refine Stays.via (s := s0) (x := x.1) ?_ (fun hx => ?_); rotate_left; clear_value x; rotate_left; unfold x)
    | ((try lift_lets); intro (x : _ × State); refine Stays.via (s := s0) (x := x.2) ?_ (fun hx => ?_); rotate_left; clear_value x; rotate_left; unfold x)
    | ((try lift_lets); intro x; clear_value x)
    | with_reducible assumption
    | with_reducible refine Stays.of_fst (State.readBytes_stays ?_) (by assumption)
    | with_reducible apply State.readBytes_stays
    | with_reducible apply State.countBank_stays
    | with_reducible apply State.reportCause_stays
    | with_reducible apply State.count_stays
    | with_reducible apply State.setTile_stays
    | with_reducible apply State.spill_stays
    | with_reducible refine Stays.of_fst (State.readSpillHeader_stays ?_) (by assumption)
    | with_reducible apply State.readSpillHeader_stays
    | split
    | (dsimp only)
    | (with_reducible apply Stays.upd; first | with_reducible assumption | with_reducible refine Stays.of_fst (State.readBytes_stays ?_) (by assumption) | with_reducible apply State.readBytes_stays | with_reducible apply State.countBank_stays | with_reducible apply State.reportCause_stays | with_reducible apply State.count_stays | with_reducible apply State.setTile_stays | with_reducible apply State.spill_stays | with_reducible refine Stays.of_fst (State.readSpillHeader_stays ?_) (by assumption) | with_reducible apply State.readSpillHeader_stays | split))

theorem execSpillRestore_stays {a : TileAddr} : StaysOut s (execSpillRestore a s) := by
  unfold execSpillRestore
  have hk : Stays s s := Stays.refl s
  repeat' (first
    | with_reducible apply StaysOut.next
    | ((try lift_lets); intro (x : State); refine Stays.via (s := s) (x := x) ?_ (fun hx => ?_); rotate_left; clear_value x; rotate_left; unfold x)
    | ((try lift_lets); intro (x : State × _); refine Stays.via (s := s) (x := x.1) ?_ (fun hx => ?_); rotate_left; clear_value x; rotate_left; unfold x)
    | ((try lift_lets); intro (x : _ × State); refine Stays.via (s := s) (x := x.2) ?_ (fun hx => ?_); rotate_left; clear_value x; rotate_left; unfold x)
    | ((try lift_lets); intro x; clear_value x)
    | with_reducible assumption
    | with_reducible apply State.setTile_stays
    | with_reducible refine StaysOpt.get (State.deliver_stays ?_) (by assumption)
    | with_reducible apply State.turn_stays
    | with_reducible apply State.transmit_stays
    | with_reducible refine StaysOpt.get (State.takeCopy_stays ?_) (by assumption)
    | with_reducible refine StaysOpt.get (State.joinSlot_stays ?_) (by assumption)
    | with_reducible refine Stays.of_fst (State.readSlot_stays ?_) (by assumption)
    | with_reducible apply State.readSlot_stays
    | with_reducible refine Stays.getD ?_ ?_
    | with_reducible apply State.takeCopy_stays
    | with_reducible apply State.joinSlot_stays
    | with_reducible apply State.deliver_stays
    | split
    | (dsimp only)
    | (with_reducible apply Stays.upd; first | with_reducible assumption | with_reducible apply State.setTile_stays | with_reducible refine StaysOpt.get (State.deliver_stays ?_) (by assumption) | with_reducible apply State.turn_stays | with_reducible apply State.transmit_stays | with_reducible refine StaysOpt.get (State.takeCopy_stays ?_) (by assumption) | with_reducible refine StaysOpt.get (State.joinSlot_stays ?_) (by assumption) | with_reducible refine Stays.of_fst (State.readSlot_stays ?_) (by assumption) | with_reducible apply State.readSlot_stays | split))

theorem execDeadlock_stays {f : FieldAddr} {block : Fin 12} : StaysOut s (execDeadlock f block s) := by
  unfold execDeadlock
  have hk : Stays s s := Stays.refl s
  repeat' (first
    | with_reducible apply StaysOut.next
    | ((try lift_lets); intro (x : State); refine Stays.via (s := s) (x := x) ?_ (fun hx => ?_); rotate_left; clear_value x; rotate_left; unfold x)
    | ((try lift_lets); intro x; clear_value x)
    | with_reducible assumption
    | with_reducible apply State.reportCause_stays
    | with_reducible apply State.meshRecord_stays
    | with_reducible apply State.pktEvent_stays
    | with_reducible apply State.count_stays
    | with_reducible apply State.setErr_stays
    | with_reducible apply State.setIrq_stays
    | split
    | (dsimp only)
    | (with_reducible apply Stays.upd; first | with_reducible assumption | with_reducible apply State.reportCause_stays | with_reducible apply State.meshRecord_stays | with_reducible apply State.pktEvent_stays | with_reducible apply State.count_stays | with_reducible apply State.setErr_stays | with_reducible apply State.setIrq_stays | split))

theorem execStallWatchdog_stays {a : TileAddr} {n : Nat} : StaysOut s (execStallWatchdog a n s) := by
  unfold execStallWatchdog
  have hk : Stays s s := Stays.refl s
  repeat' (first
    | with_reducible apply StaysOut.next
    | ((try lift_lets); intro (x : State); refine Stays.via (s := s) (x := x) ?_ (fun hx => ?_); rotate_left; clear_value x; rotate_left; unfold x)
    | ((try lift_lets); intro x; clear_value x)
    | with_reducible assumption
    | with_reducible apply State.reportCause_stays
    | with_reducible apply State.meshRecord_stays
    | with_reducible apply State.pktEvent_stays
    | with_reducible apply State.count_stays
    | with_reducible apply State.setErr_stays
    | with_reducible apply State.setIrq_stays
    | split
    | (dsimp only)
    | (with_reducible apply Stays.upd; first | with_reducible assumption | with_reducible apply State.reportCause_stays | with_reducible apply State.meshRecord_stays | with_reducible apply State.pktEvent_stays | with_reducible apply State.count_stays | with_reducible apply State.setErr_stays | with_reducible apply State.setIrq_stays | split))

theorem State.fepPut_stays {f : FieldAddr} {v : W64} {d : BitVec 128} (hk : Stays s0 s) : Stays s0 (State.fepPut s f v d) := by
  unfold State.fepPut
  repeat' (first
    | ((try lift_lets); intro (x : State); refine Stays.via (s := s0) (x := x) ?_ (fun hx => ?_); rotate_left; clear_value x; rotate_left; unfold x)
    | ((try lift_lets); intro x; clear_value x)
    | with_reducible assumption
    | with_reducible apply State.setField_stays
    | with_reducible apply State.setTile_stays
    | split
    | (dsimp only)
    | (with_reducible apply Stays.upd; first | with_reducible assumption | with_reducible apply State.setField_stays | with_reducible apply State.setTile_stays | split))

theorem State.fepWrite_stays {f : FieldAddr} {fw : Bool} {v : W64} (hk : Stays s0 s) : Stays s0 (State.fepWrite s f fw v) := by
  unfold State.fepWrite
  repeat' (first
    | ((try lift_lets); intro (x : State); refine Stays.via (s := s0) (x := x) ?_ (fun hx => ?_); rotate_left; clear_value x; rotate_left; unfold x)
    | ((try lift_lets); intro x; clear_value x)
    | with_reducible assumption
    | with_reducible refine State.regWrite_stays ?_ (fun u hu => ?_)
    | with_reducible apply State.setF_stays
    | with_reducible apply State.setReg_stays
    | with_reducible apply State.fepPut_stays
    | split
    | (dsimp only)
    | (with_reducible apply Stays.upd; first | with_reducible assumption | with_reducible refine State.regWrite_stays ?_ (fun u hu => ?_) | with_reducible apply State.setF_stays | with_reducible apply State.setReg_stays | with_reducible apply State.fepPut_stays | split))

theorem execFepRead_stays {f : FieldAddr} {fw : Bool} {value : W64} : StaysOut s (execFepRead f fw value s) := by
  unfold execFepRead
  have hk : Stays s s := Stays.refl s
  repeat' (first
    | with_reducible apply StaysOut.next
    | ((try lift_lets); intro (x : State); refine Stays.via (s := s) (x := x) ?_ (fun hx => ?_); rotate_left; clear_value x; rotate_left; unfold x)
    | ((try lift_lets); intro x; clear_value x)
    | with_reducible assumption
    | with_reducible apply State.fepWrite_stays
    | split
    | (dsimp only)
    | (with_reducible apply Stays.upd; first | with_reducible assumption | with_reducible apply State.fepWrite_stays | split))

theorem execFepWrite_stays {f : FieldAddr} {fw : Bool} {value : W64} : StaysOut s (execFepWrite f fw value s) := by
  unfold execFepWrite
  have hk : Stays s s := Stays.refl s
  repeat' (first
    | with_reducible apply StaysOut.next
    | ((try lift_lets); intro (x : State); refine Stays.via (s := s) (x := x) ?_ (fun hx => ?_); rotate_left; clear_value x; rotate_left; unfold x)
    | ((try lift_lets); intro x; clear_value x)
    | with_reducible assumption
    | with_reducible apply State.fepWrite_stays
    | split
    | (dsimp only)
    | (with_reducible apply Stays.upd; first | with_reducible assumption | with_reducible apply State.fepWrite_stays | split))

end Sys2Proof.Machine
end

