-- ==== Sys2Proof/Laws/KeepsEngineOps.lean ====
section
/-!
SUPPORT. What the operations of Machine/EngineOps keep (Laws/Keeps).
-/
namespace Sys2Proof.Machine

set_option linter.all false

variable {s0 s : State}

theorem State.setQueue_stays {e q : Nat} {x : EngQueue} (h : Stays s0 s) : Stays s0 (s.setQueue e q x) :=
  h.queues (fun w => storeWf_put _ _ _ _ w)

theorem State.setStage_stays {e q index : Nat} {st : RecStage} (hk : Stays s0 s) : Stays s0 (State.setStage s e q index st) := by
  unfold State.setStage
  repeat' (first
    | ((try lift_lets); intro (x : State); refine Stays.via (s := s0) (x := x) ?_ (fun hx => ?_); rotate_left; clear_value x; rotate_left; unfold x)
    | ((try lift_lets); intro x; clear_value x)
    | with_reducible assumption
    | with_reducible apply State.setQueue_stays
    | split
    | (dsimp only)
    | (with_reducible apply Stays.upd; first | with_reducible assumption | with_reducible apply State.setQueue_stays | split))

theorem State.retireQueue_stays {e q : Nat} (hk : Stays s0 s) : Stays s0 (State.retireQueue s e q) := by
  unfold State.retireQueue
  repeat' (first
    | ((try lift_lets); intro (x : State); refine Stays.via (s := s0) (x := x) ?_ (fun hx => ?_); rotate_left; clear_value x; rotate_left; unfold x)
    | ((try lift_lets); intro x; clear_value x)
    | with_reducible assumption
    | with_reducible apply State.setF_stays
    | with_reducible apply State.setQueue_stays
    | split
    | (dsimp only)
    | (with_reducible apply Stays.upd; first | with_reducible assumption | with_reducible apply State.setF_stays | with_reducible apply State.setQueue_stays | split))

theorem State.signalRef_stays {e q index : Nat} {r : RawRec} (hk : Stays s0 s) : Stays s0 (State.signalRef s e q index r) := by
  unfold State.signalRef
  repeat' (first
    | ((try lift_lets); intro (x : State); refine Stays.via (s := s0) (x := x) ?_ (fun hx => ?_); rotate_left; clear_value x; rotate_left; unfold x)
    | ((try lift_lets); intro x; clear_value x)
    | with_reducible assumption
    | with_reducible apply State.countWm_stays
    | with_reducible apply State.signal_stays
    | split
    | (dsimp only)
    | (with_reducible apply Stays.upd; first | with_reducible assumption | with_reducible apply State.countWm_stays | with_reducible apply State.signal_stays | split))

theorem State.writeLoc_stays {loc addr : Nat} {bs : List Byte} (hk : Stays s0 s) : Stays s0 (State.writeLoc s loc addr bs) := by
  unfold State.writeLoc
  repeat' (first
    | ((try lift_lets); intro (x : State); refine Stays.via (s := s0) (x := x) ?_ (fun hx => ?_); rotate_left; clear_value x; rotate_left; unfold x)
    | ((try lift_lets); intro x; clear_value x)
    | with_reducible assumption
    | with_reducible apply State.hostSend_stays
    | with_reducible apply State.edgeWrite_stays
    | split
    | (dsimp only)
    | (with_reducible apply Stays.upd; first | with_reducible assumption | with_reducible apply State.hostSend_stays | with_reducible apply State.edgeWrite_stays | split))

theorem State.writeCqe_stays {e q index : Nat} {r : RawRec} {common status : Nat} {hw started : Bool} {attempt : Nat} {result : W64} (hk : Stays s0 s) : Stays s0 (State.writeCqe s e q index r common status hw started attempt result) := by
  unfold State.writeCqe
  repeat' (first
    | ((try lift_lets); intro (x : State); refine Stays.via (s := s0) (x := x) ?_ (fun hx => ?_); rotate_left; clear_value x; rotate_left; unfold x)
    | ((try lift_lets); intro (x : State × _); refine Stays.via (s := s0) (x := x.1) ?_ (fun hx => ?_); rotate_left; clear_value x; rotate_left; unfold x)
    | ((try lift_lets); intro (x : _ × State); refine Stays.via (s := s0) (x := x.2) ?_ (fun hx => ?_); rotate_left; clear_value x; rotate_left; unfold x)
    | ((try lift_lets); intro x; clear_value x)
    | with_reducible assumption
    | with_reducible refine Stays.of_snd (State.freeBits_stays ?_) (by assumption)
    | with_reducible apply State.freeBits_stays
    | with_reducible apply State.setF_stays
    | with_reducible apply State.writeLoc_stays
    | split
    | (dsimp only)
    | (with_reducible apply Stays.upd; first | with_reducible assumption | with_reducible refine Stays.of_snd (State.freeBits_stays ?_) (by assumption) | with_reducible apply State.freeBits_stays | with_reducible apply State.setF_stays | with_reducible apply State.writeLoc_stays | split))

theorem State.engError_stays {e q index : Nat} {r : RawRec} {common status : Nat} {hw : Bool} {attempt : Nat} (hk : Stays s0 s) : Stays s0 (State.engError s e q index r common status hw attempt) := by
  unfold State.engError
  repeat' (first
    | ((try lift_lets); intro (x : State); refine Stays.via (s := s0) (x := x) ?_ (fun hx => ?_); rotate_left; clear_value x; rotate_left; unfold x)
    | ((try lift_lets); intro x; clear_value x)
    | with_reducible assumption
    | with_reducible apply State.raiseOnce_stays
    | with_reducible apply State.captureFirst_stays
    | with_reducible apply State.setErr_stays
    | split
    | (dsimp only)
    | (with_reducible apply Stays.upd; first | with_reducible assumption | with_reducible apply State.raiseOnce_stays | with_reducible apply State.captureFirst_stays | with_reducible apply State.setErr_stays | split))

theorem State.stopQueue_stays {e q index common status : Nat} (hk : Stays s0 s) : Stays s0 (State.stopQueue s e q index common status) := by
  unfold State.stopQueue
  repeat' (first
    | ((try lift_lets); intro (x : State); refine Stays.via (s := s0) (x := x) ?_ (fun hx => ?_); rotate_left; clear_value x; rotate_left; unfold x)
    | ((try lift_lets); intro x; clear_value x)
    | with_reducible assumption
    | with_reducible apply State.setIrq_stays
    | with_reducible apply State.setF_stays
    | split
    | (dsimp only)
    | (with_reducible apply Stays.upd; first | with_reducible assumption | with_reducible apply State.setIrq_stays | with_reducible apply State.setF_stays | split))

theorem State.failStep_stays {hw final : Bool} {e q index : Nat} {key : List Nat} (hk : Stays s0 s) : Stays s0 (State.failStep s hw final e q index key) := by
  unfold State.failStep
  repeat' (first
    | ((try lift_lets); intro (x : State); refine Stays.via (s := s0) (x := x) ?_ (fun hx => ?_); rotate_left; clear_value x; rotate_left; unfold x)
    | ((try lift_lets); intro x; clear_value x)
    | with_reducible assumption
    | split
    | (dsimp only)
    | (with_reducible apply Stays.upd; first | with_reducible assumption | split))

theorem State.complete_stays {e q index common status : Nat} {hw : Bool} {result : W64} (hk : Stays s0 s) : Stays s0 (State.complete s e q index common status hw result) := by
  unfold State.complete
  repeat' (first
    | ((try lift_lets); intro (x : State); refine Stays.via (s := s0) (x := x) ?_ (fun hx => ?_); rotate_left; clear_value x; rotate_left; unfold x)
    | ((try lift_lets); intro x; clear_value x)
    | with_reducible assumption
    | with_reducible apply State.countWm_stays
    | with_reducible apply State.msixSend_stays
    | with_reducible apply State.setF_stays
    | with_reducible apply State.failStep_stays
    | with_reducible apply State.stopQueue_stays
    | with_reducible apply State.engError_stays
    | with_reducible apply State.writeCqe_stays
    | with_reducible apply State.signalRef_stays
    | with_reducible apply State.retireQueue_stays
    | with_reducible apply State.setQueue_stays
    | split
    | (dsimp only)
    | (with_reducible apply Stays.upd; first | with_reducible assumption | with_reducible apply State.countWm_stays | with_reducible apply State.msixSend_stays | with_reducible apply State.setF_stays | with_reducible apply State.failStep_stays | with_reducible apply State.stopQueue_stays | with_reducible apply State.engError_stays | with_reducible apply State.writeCqe_stays | with_reducible apply State.signalRef_stays | with_reducible apply State.retireQueue_stays | with_reducible apply State.setQueue_stays | split))

end Sys2Proof.Machine
end

