-- ==== Sys2Proof/Laws/KeepsVectorOps.lean ====
section
/-!
SUPPORT. What the operations of Machine/VectorOps keep (Laws/Keeps).
-/
namespace Sys2Proof.Machine

set_option linter.all false

variable {s0 s : State}

theorem State.noteConverted_stays {a : TileAddr} {task : Nat} {f : RFlags} {sr : Bool} (hk : Stays s0 s) : Stays s0 (State.noteConverted s a task f sr) := by
  unfold State.noteConverted
  repeat' (first
    | ((try lift_lets); intro (x : State); refine Stays.via (s := s0) (x := x) ?_ (fun hx => ?_); rotate_left; clear_value x; rotate_left; unfold x)
    | ((try lift_lets); intro x; clear_value x)
    | with_reducible assumption
    | with_reducible apply State.noteResult_stays
    | split
    | (dsimp only)
    | (with_reducible apply Stays.upd; first | with_reducible assumption | with_reducible apply State.noteResult_stays | split))

theorem execOpVunp_stays {a : TileAddr} {task : Fin 4} {slot : Fin 128} : StaysOut s (execOpVunp a task slot s) := by
  unfold execOpVunp
  have hk : Stays s s := Stays.refl s
  repeat' (first
    | with_reducible apply StaysOut.next
    | ((try lift_lets); intro (x : State); refine Stays.via (s := s) (x := x) ?_ (fun hx => ?_); rotate_left; clear_value x; rotate_left; unfold x)
    | ((try lift_lets); intro x; clear_value x)
    | with_reducible assumption
    | with_reducible apply State.noteConverted_stays
    | with_reducible apply State.setG_stays
    | with_reducible refine State.fireUnless_stays ?_ (fun w t u hu => ?_)
    | with_reducible refine Stays.foldl ?_ (fun u x hu => ?_)
    | split
    | (dsimp only)
    | (with_reducible apply Stays.upd; first | with_reducible assumption | with_reducible apply State.noteConverted_stays | with_reducible apply State.setG_stays | with_reducible refine State.fireUnless_stays ?_ (fun w t u hu => ?_) | split))

theorem State.laneOp_stays {a : TileAddr} {task slot opc : Nat} {f : W32 → W32 → W32 → W32} (hk : Stays s0 s) : Stays s0 (State.laneOp s a task slot opc f) := by
  unfold State.laneOp
  repeat' (first
    | ((try lift_lets); intro (x : State); refine Stays.via (s := s0) (x := x) ?_ (fun hx => ?_); rotate_left; clear_value x; rotate_left; unfold x)
    | ((try lift_lets); intro x; clear_value x)
    | with_reducible assumption
    | with_reducible apply State.setV_stays
    | with_reducible refine State.fire_stays ?_ (fun w t u hu => ?_)
    | split
    | (dsimp only)
    | (with_reducible apply Stays.upd; first | with_reducible assumption | with_reducible apply State.setV_stays | with_reducible refine State.fire_stays ?_ (fun w t u hu => ?_) | split))

theorem execOpVfma_stays {a : TileAddr} {task : Fin 4} {slot : Fin 128} : StaysOut s (execOpVfma a task slot s) := by
  unfold execOpVfma
  have hk : Stays s s := Stays.refl s
  repeat' (first
    | with_reducible apply StaysOut.next
    | ((try lift_lets); intro (x : State); refine Stays.via (s := s) (x := x) ?_ (fun hx => ?_); rotate_left; clear_value x; rotate_left; unfold x)
    | ((try lift_lets); intro x; clear_value x)
    | with_reducible assumption
    | with_reducible apply State.laneOp_stays
    | split
    | (dsimp only)
    | (with_reducible apply Stays.upd; first | with_reducible assumption | with_reducible apply State.laneOp_stays | split))

theorem execOpVadd_stays {a : TileAddr} {task : Fin 4} {slot : Fin 128} : StaysOut s (execOpVadd a task slot s) := by
  unfold execOpVadd
  have hk : Stays s s := Stays.refl s
  repeat' (first
    | with_reducible apply StaysOut.next
    | ((try lift_lets); intro (x : State); refine Stays.via (s := s) (x := x) ?_ (fun hx => ?_); rotate_left; clear_value x; rotate_left; unfold x)
    | ((try lift_lets); intro x; clear_value x)
    | with_reducible assumption
    | with_reducible apply State.laneOp_stays
    | split
    | (dsimp only)
    | (with_reducible apply Stays.upd; first | with_reducible assumption | with_reducible apply State.laneOp_stays | split))

theorem execOpVmul_stays {a : TileAddr} {task : Fin 4} {slot : Fin 128} : StaysOut s (execOpVmul a task slot s) := by
  unfold execOpVmul
  have hk : Stays s s := Stays.refl s
  repeat' (first
    | with_reducible apply StaysOut.next
    | ((try lift_lets); intro (x : State); refine Stays.via (s := s) (x := x) ?_ (fun hx => ?_); rotate_left; clear_value x; rotate_left; unfold x)
    | ((try lift_lets); intro x; clear_value x)
    | with_reducible assumption
    | with_reducible apply State.laneOp_stays
    | split
    | (dsimp only)
    | (with_reducible apply Stays.upd; first | with_reducible assumption | with_reducible apply State.laneOp_stays | split))

theorem execOpVmax_stays {a : TileAddr} {task : Fin 4} {slot : Fin 128} : StaysOut s (execOpVmax a task slot s) := by
  unfold execOpVmax
  have hk : Stays s s := Stays.refl s
  repeat' (first
    | with_reducible apply StaysOut.next
    | ((try lift_lets); intro (x : State); refine Stays.via (s := s) (x := x) ?_ (fun hx => ?_); rotate_left; clear_value x; rotate_left; unfold x)
    | ((try lift_lets); intro x; clear_value x)
    | with_reducible assumption
    | with_reducible apply State.laneOp_stays
    | split
    | (dsimp only)
    | (with_reducible apply Stays.upd; first | with_reducible assumption | with_reducible apply State.laneOp_stays | split))

theorem execOpVmin_stays {a : TileAddr} {task : Fin 4} {slot : Fin 128} : StaysOut s (execOpVmin a task slot s) := by
  unfold execOpVmin
  have hk : Stays s s := Stays.refl s
  repeat' (first
    | with_reducible apply StaysOut.next
    | ((try lift_lets); intro (x : State); refine Stays.via (s := s) (x := x) ?_ (fun hx => ?_); rotate_left; clear_value x; rotate_left; unfold x)
    | ((try lift_lets); intro x; clear_value x)
    | with_reducible assumption
    | with_reducible apply State.laneOp_stays
    | split
    | (dsimp only)
    | (with_reducible apply Stays.upd; first | with_reducible assumption | with_reducible apply State.laneOp_stays | split))

theorem execOpVbcast_stays {a : TileAddr} {task : Fin 4} {slot : Fin 128} : StaysOut s (execOpVbcast a task slot s) := by
  unfold execOpVbcast
  have hk : Stays s s := Stays.refl s
  repeat' (first
    | with_reducible apply StaysOut.next
    | ((try lift_lets); intro (x : State); refine Stays.via (s := s) (x := x) ?_ (fun hx => ?_); rotate_left; clear_value x; rotate_left; unfold x)
    | ((try lift_lets); intro x; clear_value x)
    | with_reducible assumption
    | with_reducible apply State.setV_stays
    | with_reducible refine State.fire_stays ?_ (fun w t u hu => ?_)
    | split
    | (dsimp only)
    | (with_reducible apply Stays.upd; first | with_reducible assumption | with_reducible apply State.setV_stays | with_reducible refine State.fire_stays ?_ (fun w t u hu => ?_) | split))

theorem execOpVsel_stays {a : TileAddr} {task : Fin 4} {slot : Fin 128} : StaysOut s (execOpVsel a task slot s) := by
  unfold execOpVsel
  have hk : Stays s s := Stays.refl s
  repeat' (first
    | with_reducible apply StaysOut.next
    | ((try lift_lets); intro (x : State); refine Stays.via (s := s) (x := x) ?_ (fun hx => ?_); rotate_left; clear_value x; rotate_left; unfold x)
    | ((try lift_lets); intro x; clear_value x)
    | with_reducible assumption
    | with_reducible apply State.setV_stays
    | with_reducible refine State.fire_stays ?_ (fun w t u hu => ?_)
    | split
    | (dsimp only)
    | (with_reducible apply Stays.upd; first | with_reducible assumption | with_reducible apply State.setV_stays | with_reducible refine State.fire_stays ?_ (fun w t u hu => ?_) | split))

theorem execOpVred_stays {a : TileAddr} {task : Fin 4} {slot : Fin 128} : StaysOut s (execOpVred a task slot s) := by
  unfold execOpVred
  have hk : Stays s s := Stays.refl s
  repeat' (first
    | with_reducible apply StaysOut.next
    | ((try lift_lets); intro (x : State); refine Stays.via (s := s) (x := x) ?_ (fun hx => ?_); rotate_left; clear_value x; rotate_left; unfold x)
    | ((try lift_lets); intro x; clear_value x)
    | with_reducible assumption
    | with_reducible apply State.setG_stays
    | with_reducible refine State.fire_stays ?_ (fun w t u hu => ?_)
    | split
    | (dsimp only)
    | (with_reducible apply Stays.upd; first | with_reducible assumption | with_reducible apply State.setG_stays | with_reducible refine State.fire_stays ?_ (fun w t u hu => ?_) | split))

theorem State.setOrFree_stays {a : TileAddr} {task n : Nat} {v : Option W32} (hk : Stays s0 s) : Stays s0 (State.setOrFree s a task n v) := by
  unfold State.setOrFree
  repeat' (first
    | ((try lift_lets); intro (x : State); refine Stays.via (s := s0) (x := x) ?_ (fun hx => ?_); rotate_left; clear_value x; rotate_left; unfold x)
    | ((try lift_lets); intro (x : State × _); refine Stays.via (s := s0) (x := x.1) ?_ (fun hx => ?_); rotate_left; clear_value x; rotate_left; unfold x)
    | ((try lift_lets); intro (x : _ × State); refine Stays.via (s := s0) (x := x.2) ?_ (fun hx => ?_); rotate_left; clear_value x; rotate_left; unfold x)
    | ((try lift_lets); intro x; clear_value x)
    | with_reducible assumption
    | with_reducible refine Stays.of_snd (State.freeBits_stays ?_) (by assumption)
    | with_reducible apply State.freeBits_stays
    | with_reducible apply State.setG_stays
    | split
    | (dsimp only)
    | (with_reducible apply Stays.upd; first | with_reducible assumption | with_reducible refine Stays.of_snd (State.freeBits_stays ?_) (by assumption) | with_reducible apply State.freeBits_stays | with_reducible apply State.setG_stays | split))

theorem State.tableOp_stays {a : TileAddr} {task slot opc : Nat} {deriv : Bool} (hk : Stays s0 s) : Stays s0 (State.tableOp s a task slot opc deriv) := by
  unfold State.tableOp
  repeat' (first
    | ((try lift_lets); intro (x : State); refine Stays.via (s := s0) (x := x) ?_ (fun hx => ?_); rotate_left; clear_value x; rotate_left; unfold x)
    | ((try lift_lets); intro x; clear_value x)
    | with_reducible assumption
    | with_reducible apply State.setOrFree_stays
    | with_reducible refine State.fire_stays ?_ (fun w t u hu => ?_)
    | with_reducible refine Stays.foldl ?_ (fun u x hu => ?_)
    | split
    | (dsimp only)
    | (with_reducible apply Stays.upd; first | with_reducible assumption | with_reducible apply State.setOrFree_stays | with_reducible refine State.fire_stays ?_ (fun w t u hu => ?_) | split))

theorem execOpVtab_stays {a : TileAddr} {task : Fin 4} {slot : Fin 128} : StaysOut s (execOpVtab a task slot s) := by
  unfold execOpVtab
  have hk : Stays s s := Stays.refl s
  repeat' (first
    | with_reducible apply StaysOut.next
    | ((try lift_lets); intro (x : State); refine Stays.via (s := s) (x := x) ?_ (fun hx => ?_); rotate_left; clear_value x; rotate_left; unfold x)
    | ((try lift_lets); intro x; clear_value x)
    | with_reducible assumption
    | with_reducible apply State.tableOp_stays
    | split
    | (dsimp only)
    | (with_reducible apply Stays.upd; first | with_reducible assumption | with_reducible apply State.tableOp_stays | split))

theorem execOpVtabd_stays {a : TileAddr} {task : Fin 4} {slot : Fin 128} : StaysOut s (execOpVtabd a task slot s) := by
  unfold execOpVtabd
  have hk : Stays s s := Stays.refl s
  repeat' (first
    | with_reducible apply StaysOut.next
    | ((try lift_lets); intro (x : State); refine Stays.via (s := s) (x := x) ?_ (fun hx => ?_); rotate_left; clear_value x; rotate_left; unfold x)
    | ((try lift_lets); intro x; clear_value x)
    | with_reducible assumption
    | with_reducible apply State.tableOp_stays
    | split
    | (dsimp only)
    | (with_reducible apply Stays.upd; first | with_reducible assumption | with_reducible apply State.tableOp_stays | split))

theorem execOpVmask_stays {a : TileAddr} {task : Fin 4} {slot : Fin 128} : StaysOut s (execOpVmask a task slot s) := by
  unfold execOpVmask
  have hk : Stays s s := Stays.refl s
  repeat' (first
    | with_reducible apply StaysOut.next
    | ((try lift_lets); intro (x : State); refine Stays.via (s := s) (x := x) ?_ (fun hx => ?_); rotate_left; clear_value x; rotate_left; unfold x)
    | ((try lift_lets); intro x; clear_value x)
    | with_reducible assumption
    | with_reducible apply State.setG_stays
    | with_reducible refine State.fire_stays ?_ (fun w t u hu => ?_)
    | with_reducible refine Stays.foldl ?_ (fun u x hu => ?_)
    | split
    | (dsimp only)
    | (with_reducible apply Stays.upd; first | with_reducible assumption | with_reducible apply State.setG_stays | with_reducible refine State.fire_stays ?_ (fun w t u hu => ?_) | split))

theorem execOpVpack_stays {a : TileAddr} {task : Fin 4} {slot : Fin 128} : StaysOut s (execOpVpack a task slot s) := by
  unfold execOpVpack
  have hk : Stays s s := Stays.refl s
  repeat' (first
    | with_reducible apply StaysOut.next
    | ((try lift_lets); intro (x : State); refine Stays.via (s := s) (x := x) ?_ (fun hx => ?_); rotate_left; clear_value x; rotate_left; unfold x)
    | ((try lift_lets); intro x; clear_value x)
    | with_reducible assumption
    | with_reducible apply State.noteConverted_stays
    | with_reducible apply State.enq_stays
    | with_reducible refine State.fire_stays ?_ (fun w t u hu => ?_)
    | with_reducible refine Stays.foldl ?_ (fun u x hu => ?_)
    | split
    | (dsimp only)
    | (with_reducible apply Stays.upd; first | with_reducible assumption | with_reducible apply State.noteConverted_stays | with_reducible apply State.enq_stays | with_reducible refine State.fire_stays ?_ (fun w t u hu => ?_) | split))

theorem execOpVqmx_stays {a : TileAddr} {task : Fin 4} {slot : Fin 128} : StaysOut s (execOpVqmx a task slot s) := by
  unfold execOpVqmx
  have hk : Stays s s := Stays.refl s
  repeat' (first
    | with_reducible apply StaysOut.next
    | ((try lift_lets); intro (x : State); refine Stays.via (s := s) (x := x) ?_ (fun hx => ?_); rotate_left; clear_value x; rotate_left; unfold x)
    | ((try lift_lets); intro (x : _ → _); dsimp -zeta only [x]; clear x)
    | ((try lift_lets); intro x; clear_value x)
    | with_reducible assumption
    | with_reducible apply State.noteConverted_stays
    | with_reducible apply State.enq_stays
    | with_reducible refine State.fire_stays ?_ (fun w t u hu => ?_)
    | with_reducible refine Stays.foldl ?_ (fun u x hu => ?_)
    | split
    | (dsimp only)
    | (with_reducible apply Stays.upd; first | with_reducible assumption | with_reducible apply State.noteConverted_stays | with_reducible apply State.enq_stays | with_reducible refine State.fire_stays ?_ (fun w t u hu => ?_) | split))

theorem execOpVexact_stays {a : TileAddr} {task : Fin 4} {slot : Fin 128} : StaysOut s (execOpVexact a task slot s) := by
  unfold execOpVexact
  have hk : Stays s s := Stays.refl s
  repeat' (first
    | with_reducible apply StaysOut.next
    | ((try lift_lets); intro (x : State); refine Stays.via (s := s) (x := x) ?_ (fun hx => ?_); rotate_left; clear_value x; rotate_left; unfold x)
    | ((try lift_lets); intro x; clear_value x)
    | with_reducible assumption
    | with_reducible apply State.enq_stays
    | with_reducible refine State.fire_stays ?_ (fun w t u hu => ?_)
    | split
    | (dsimp only)
    | (with_reducible apply Stays.upd; first | with_reducible assumption | with_reducible apply State.enq_stays | with_reducible refine State.fire_stays ?_ (fun w t u hu => ?_) | split))

end Sys2Proof.Machine
end

