-- ==== Sys2Proof/Laws/KeepsMirror.lean ====
section
/-!
SUPPORT. What the operations of Machine/Mirror keep (Laws/Keeps).
-/
namespace Sys2Proof.Machine

set_option linter.all false

variable {s0 s : State}

theorem State.restoreEntry_stays {p : Fin 2} {f : FieldAddr} {e : MirrorEnt} (hk : Stays s0 s) : Stays s0 (State.restoreEntry s p f e) := by
  unfold State.restoreEntry
  repeat' (first
    | ((try lift_lets); intro (x : State); refine Stays.via (s := s0) (x := x) ?_ (fun hx => ?_); rotate_left; clear_value x; rotate_left; unfold x)
    | ((try lift_lets); intro (x : State × _); refine Stays.via (s := s0) (x := x.1) ?_ (fun hx => ?_); rotate_left; clear_value x; rotate_left; unfold x)
    | ((try lift_lets); intro (x : _ × State); refine Stays.via (s := s0) (x := x.2) ?_ (fun hx => ?_); rotate_left; clear_value x; rotate_left; unfold x)
    | ((try lift_lets); intro x; clear_value x)
    | with_reducible assumption
    | with_reducible apply State.writeRows_stays
    | with_reducible refine Stays.of_fst (State.edgeRead_stays ?_) (by assumption)
    | with_reducible apply State.edgeRead_stays
    | with_reducible refine Stays.foldl ?_ (fun u x hu => ?_)
    | with_reducible refine Stays.foldl_fst ?_ (fun u x hu => ?_)
    | split
    | (dsimp only)
    | (with_reducible apply Stays.upd; first | with_reducible assumption | with_reducible apply State.writeRows_stays | with_reducible refine Stays.of_fst (State.edgeRead_stays ?_) (by assumption) | with_reducible apply State.edgeRead_stays | split))

theorem State.setReplaceable_stays {p : Fin 2} {g : Image} (hk : Stays s0 s) : Stays s0 (State.setReplaceable s p g) := by
  unfold State.setReplaceable
  repeat' (first
    | ((try lift_lets); intro (x : State); refine Stays.via (s := s0) (x := x) ?_ (fun hx => ?_); rotate_left; clear_value x; rotate_left; unfold x)
    | ((try lift_lets); intro x; clear_value x)
    | with_reducible assumption
    | with_reducible apply State.setF_stays
    | split
    | (dsimp only)
    | (with_reducible apply Stays.upd; first | with_reducible assumption | with_reducible apply State.setF_stays | split))

end Sys2Proof.Machine
end

