-- ==== Sys2Proof/Laws/KeepsPass.lean ====
section
/-!
SUPPORT. What the operations of Machine/Pass keep (Laws/Keeps).
-/
namespace Sys2Proof.Machine

set_option linter.all false

variable {s0 s : State}

theorem State.setAe_stays {p : Fin 2} {x : ArrayEng} (hk : Stays s0 s) : Stays s0 (State.setAe s p x) := by
  unfold State.setAe
  repeat' (first
    | ((try lift_lets); intro (x : State); refine Stays.via (s := s0) (x := x) ?_ (fun hx => ?_); rotate_left; clear_value x; rotate_left; unfold x)
    | ((try lift_lets); intro x; clear_value x)
    | with_reducible assumption
    | split
    | (dsimp only)
    | (with_reducible apply Stays.upd; first | with_reducible assumption | split))

theorem State.setPassState_stays {p : Fin 2} {v : Nat} (hk : Stays s0 s) : Stays s0 (State.setPassState s p v) := by
  unfold State.setPassState
  repeat' (first
    | ((try lift_lets); intro (x : State); refine Stays.via (s := s0) (x := x) ?_ (fun hx => ?_); rotate_left; clear_value x; rotate_left; unfold x)
    | ((try lift_lets); intro x; clear_value x)
    | with_reducible assumption
    | with_reducible apply State.setF_stays
    | split
    | (dsimp only)
    | (with_reducible apply Stays.upd; first | with_reducible assumption | with_reducible apply State.setF_stays | split))

theorem State.planeCause_stays {p : Fin 2} {cause : Nat} {hw : Bool} (hk : Stays s0 s) : Stays s0 (State.planeCause s p cause hw) := by
  unfold State.planeCause
  repeat' (first
    | ((try lift_lets); intro (x : State); refine Stays.via (s := s0) (x := x) ?_ (fun hx => ?_); rotate_left; clear_value x; rotate_left; unfold x)
    | ((try lift_lets); intro x; clear_value x)
    | with_reducible assumption
    | split
    | (dsimp only)
    | (with_reducible apply Stays.upd; first | with_reducible assumption | split))

theorem State.mirrorRestore_stays {f : FieldAddr} (hk : Stays s0 s) : Stays s0 (State.mirrorRestore s f) := by
  unfold State.mirrorRestore
  repeat' (first
    | ((try lift_lets); intro (x : State); refine Stays.via (s := s0) (x := x) ?_ (fun hx => ?_); rotate_left; clear_value x; rotate_left; unfold x)
    | ((try lift_lets); intro x; clear_value x)
    | with_reducible assumption
    | with_reducible apply State.restoreEntry_stays
    | with_reducible refine Stays.foldl ?_ (fun u x hu => ?_)
    | split
    | (dsimp only)
    | (with_reducible apply Stays.upd; first | with_reducible assumption | with_reducible apply State.restoreEntry_stays | split))

theorem State.restoreWiped_stays  (hk : Stays s0 s) : Stays s0 (State.restoreWiped s) := by
  unfold State.restoreWiped
  repeat' (first
    | ((try lift_lets); intro (x : State); refine Stays.via (s := s0) (x := x) ?_ (fun hx => ?_); rotate_left; clear_value x; rotate_left; unfold x)
    | ((try lift_lets); intro x; clear_value x)
    | with_reducible assumption
    | with_reducible apply State.mirrorRestore_stays
    | with_reducible apply State.setField_stays
    | with_reducible refine Stays.foldl ?_ (fun u x hu => ?_)
    | split
    | (dsimp only)
    | (with_reducible apply Stays.upd; first | with_reducible assumption | with_reducible apply State.mirrorRestore_stays | with_reducible apply State.setField_stays | split))

theorem State.stopDrain_stays {f : FieldAddr} (hk : Stays s0 s) : Stays s0 (State.stopDrain s f) := by
  unfold State.stopDrain
  repeat' (first
    | ((try lift_lets); intro (x : State); refine Stays.via (s := s0) (x := x) ?_ (fun hx => ?_); rotate_left; clear_value x; rotate_left; unfold x)
    | ((try lift_lets); intro x; clear_value x)
    | with_reducible assumption
    | with_reducible apply State.drainStart_stays
    | split
    | (dsimp only)
    | (with_reducible apply Stays.upd; first | with_reducible assumption | with_reducible apply State.drainStart_stays | split))

theorem State.placeEnd_stays {p : Fin 2} {q index common status : Nat} {result : W64} (hk : Stays s0 s) : Stays s0 (State.placeEnd s p q index common status result) := by
  unfold State.placeEnd
  repeat' (first
    | ((try lift_lets); intro (x : State); refine Stays.via (s := s0) (x := x) ?_ (fun hx => ?_); rotate_left; clear_value x; rotate_left; unfold x)
    | ((try lift_lets); intro x; clear_value x)
    | with_reducible assumption
    | with_reducible apply State.setIrq_stays
    | with_reducible apply State.complete_stays
    | split
    | (dsimp only)
    | (with_reducible apply Stays.upd; first | with_reducible assumption | with_reducible apply State.setIrq_stays | with_reducible apply State.complete_stays | split))

theorem execPlaceLoad_stays {p : Fin 2} : StaysOut s (execPlaceLoad p s) := by
  unfold execPlaceLoad
  have hk : Stays s s := Stays.refl s
  repeat' (first
    | with_reducible apply StaysOut.next
    | ((try lift_lets); intro (x : State); refine Stays.via (s := s) (x := x) ?_ (fun hx => ?_); rotate_left; clear_value x; rotate_left; unfold x)
    | ((try lift_lets); intro (x : State × _); refine Stays.via (s := s) (x := x.1) ?_ (fun hx => ?_); rotate_left; clear_value x; rotate_left; unfold x)
    | ((try lift_lets); intro (x : _ × State); refine Stays.via (s := s) (x := x.2) ?_ (fun hx => ?_); rotate_left; clear_value x; rotate_left; unfold x)
    | ((try lift_lets); intro x; clear_value x)
    | with_reducible assumption
    | with_reducible apply State.placeEnd_stays
    | with_reducible apply State.stopDrain_stays
    | with_reducible apply State.setAe_stays
    | with_reducible apply State.setStage_stays
    | with_reducible refine Stays.of_fst (State.edgeRead_stays ?_) (by assumption)
    | with_reducible apply State.edgeRead_stays
    | with_reducible refine Stays.foldl ?_ (fun u x hu => ?_)
    | with_reducible refine Stays.foldl_fst ?_ (fun u x hu => ?_)
    | split
    | (dsimp only)
    | (with_reducible apply Stays.upd; first | with_reducible assumption | with_reducible apply State.placeEnd_stays | with_reducible apply State.stopDrain_stays | with_reducible apply State.setAe_stays | with_reducible apply State.setStage_stays | with_reducible refine Stays.of_fst (State.edgeRead_stays ?_) (by assumption) | with_reducible apply State.edgeRead_stays | split))

theorem State.placeTables_stays {p : Fin 2} {g : Image} (hk : Stays s0 s) : Stays s0 (State.placeTables s p g) := by
  unfold State.placeTables
  repeat' (first
    | ((try lift_lets); intro (x : State); refine Stays.via (s := s0) (x := x) ?_ (fun hx => ?_); rotate_left; clear_value x; rotate_left; unfold x)
    | ((try lift_lets); intro x; clear_value x)
    | with_reducible assumption
    | with_reducible apply State.setField_stays
    | with_reducible refine Stays.foldl ?_ (fun u x hu => ?_)
    | split
    | (dsimp only)
    | (with_reducible apply Stays.upd; first | with_reducible assumption | with_reducible apply State.setField_stays | split))

theorem State.placeSegments_stays {f : FieldAddr} {g : Image} {off : Nat} (hk : Stays s0 s) : Stays s0 (State.placeSegments s f g off) := by
  unfold State.placeSegments
  repeat' (first
    | ((try lift_lets); intro (x : State); refine Stays.via (s := s0) (x := x) ?_ (fun hx => ?_); rotate_left; clear_value x; rotate_left; unfold x)
    | ((try lift_lets); intro x; clear_value x)
    | with_reducible assumption
    | with_reducible apply State.segFinish_stays
    | with_reducible apply State.segCommand_stays
    | with_reducible apply State.setField_stays
    | with_reducible apply State.setF_stays
    | with_reducible refine Stays.foldl ?_ (fun u x hu => ?_)
    | split
    | (dsimp only)
    | (with_reducible apply Stays.upd; first | with_reducible assumption | with_reducible apply State.segFinish_stays | with_reducible apply State.segCommand_stays | with_reducible apply State.setField_stays | with_reducible apply State.setF_stays | split))

theorem execPlaceLoadCommit_stays {p : Fin 2} : StaysOut s (execPlaceLoadCommit p s) := by
  unfold execPlaceLoadCommit
  have hk : Stays s s := Stays.refl s
  repeat' (first
    | with_reducible apply StaysOut.next
    | ((try lift_lets); intro (x : State); refine Stays.via (s := s) (x := x) ?_ (fun hx => ?_); rotate_left; clear_value x; rotate_left; unfold x)
    | ((try lift_lets); intro (x : _ → _); dsimp -zeta only [x]; clear x)
    | ((try lift_lets); intro x; clear_value x)
    | with_reducible assumption
    | with_reducible apply State.placeSegments_stays
    | with_reducible apply State.placeTables_stays
    | with_reducible apply State.placeEnd_stays
    | with_reducible apply State.stopDrain_stays
    | with_reducible apply State.setAe_stays
    | with_reducible apply State.setF_stays
    | with_reducible apply State.setReg_stays
    | with_reducible apply State.setReplaceable_stays
    | with_reducible apply State.drainStart_stays
    | with_reducible refine Stays.foldl ?_ (fun u x hu => ?_)
    | split
    | (dsimp only)
    | (with_reducible apply Stays.upd; first | with_reducible assumption | with_reducible apply State.placeSegments_stays | with_reducible apply State.placeTables_stays | with_reducible apply State.placeEnd_stays | with_reducible apply State.stopDrain_stays | with_reducible apply State.setAe_stays | with_reducible apply State.setF_stays | with_reducible apply State.setReg_stays | with_reducible apply State.setReplaceable_stays | with_reducible apply State.drainStart_stays | split))

theorem State.setChannels_stays {p : Fin 2} {span : Bool} {ch : Nat} {wm : Waymark} (hk : Stays s0 s) : Stays s0 (State.setChannels s p span ch wm) := by
  unfold State.setChannels
  repeat' (first
    | ((try lift_lets); intro (x : State); refine Stays.via (s := s0) (x := x) ?_ (fun hx => ?_); rotate_left; clear_value x; rotate_left; unfold x)
    | ((try lift_lets); intro x; clear_value x)
    | with_reducible assumption
    | with_reducible apply State.setReg_stays
    | with_reducible refine Stays.foldl ?_ (fun u x hu => ?_)
    | split
    | (dsimp only)
    | (with_reducible apply Stays.upd; first | with_reducible assumption | with_reducible apply State.setReg_stays | split))

theorem State.openChannel_stays {p : Fin 2} {ch : Nat} (hk : Stays s0 s) : Stays s0 (State.openChannel s p ch) := by
  unfold State.openChannel
  repeat' (first
    | ((try lift_lets); intro (x : State); refine Stays.via (s := s0) (x := x) ?_ (fun hx => ?_); rotate_left; clear_value x; rotate_left; unfold x)
    | ((try lift_lets); intro x; clear_value x)
    | with_reducible assumption
    | with_reducible apply State.setF_stays
    | split
    | (dsimp only)
    | (with_reducible apply Stays.upd; first | with_reducible assumption | with_reducible apply State.setF_stays | split))

theorem State.unbridge_stays {p : Fin 2} (hk : Stays s0 s) : Stays s0 (State.unbridge s p) := by
  unfold State.unbridge
  repeat' (first
    | ((try lift_lets); intro (x : State); refine Stays.via (s := s0) (x := x) ?_ (fun hx => ?_); rotate_left; clear_value x; rotate_left; unfold x)
    | ((try lift_lets); intro x; clear_value x)
    | with_reducible assumption
    | with_reducible apply State.setF_stays
    | with_reducible refine Stays.foldl ?_ (fun u x hu => ?_)
    | split
    | (dsimp only)
    | (with_reducible apply Stays.upd; first | with_reducible assumption | with_reducible apply State.setF_stays | split))

theorem State.aeArrive_stays {p : Fin 2} (hk : Stays s0 s) : Stays s0 (State.aeArrive s p) := by
  unfold State.aeArrive
  repeat' (first
    | ((try lift_lets); intro (x : State); refine Stays.via (s := s0) (x := x) ?_ (fun hx => ?_); rotate_left; clear_value x; rotate_left; unfold x)
    | ((try lift_lets); intro x; clear_value x)
    | with_reducible assumption
    | with_reducible apply State.openChannel_stays
    | split
    | (dsimp only)
    | (with_reducible apply Stays.upd; first | with_reducible assumption | with_reducible apply State.openChannel_stays | split))

theorem State.startWake_stays {f : FieldAddr} (hk : Stays s0 s) : Stays s0 (State.startWake s f) := by
  unfold State.startWake
  repeat' (first
    | ((try lift_lets); intro (x : State); refine Stays.via (s := s0) (x := x) ?_ (fun hx => ?_); rotate_left; clear_value x; rotate_left; unfold x)
    | ((try lift_lets); intro x; clear_value x)
    | with_reducible assumption
    | with_reducible apply State.setF_stays
    | split
    | (dsimp only)
    | (with_reducible apply Stays.upd; first | with_reducible assumption | with_reducible apply State.setF_stays | split))

theorem execPassRun_stays {p : Fin 2} : StaysOut s (execPassRun p s) := by
  unfold execPassRun
  have hk : Stays s s := Stays.refl s
  repeat' (first
    | with_reducible apply StaysOut.next
    | ((try lift_lets); intro (x : State); refine Stays.via (s := s) (x := x) ?_ (fun hx => ?_); rotate_left; clear_value x; rotate_left; unfold x)
    | ((try lift_lets); intro x; clear_value x)
    | with_reducible assumption
    | with_reducible apply State.aeArrive_stays
    | with_reducible apply State.setChannels_stays
    | with_reducible apply State.planeCause_stays
    | with_reducible apply State.setAe_stays
    | with_reducible apply State.setF_stays
    | with_reducible apply State.setReg_stays
    | with_reducible apply State.complete_stays
    | with_reducible apply State.setStage_stays
    | with_reducible refine Stays.foldl ?_ (fun u x hu => ?_)
    | split
    | (dsimp only)
    | (with_reducible apply Stays.upd; first | with_reducible assumption | with_reducible apply State.aeArrive_stays | with_reducible apply State.setChannels_stays | with_reducible apply State.planeCause_stays | with_reducible apply State.setAe_stays | with_reducible apply State.setF_stays | with_reducible apply State.setReg_stays | with_reducible apply State.complete_stays | with_reducible apply State.setStage_stays | split))

theorem State.releasePrev_stays {p : Fin 2} (hk : Stays s0 s) : Stays s0 (State.releasePrev s p) := by
  unfold State.releasePrev
  repeat' (first
    | ((try lift_lets); intro (x : State); refine Stays.via (s := s0) (x := x) ?_ (fun hx => ?_); rotate_left; clear_value x; rotate_left; unfold x)
    | ((try lift_lets); intro (x : _ → _); dsimp -zeta only [x]; clear x)
    | ((try lift_lets); intro x; clear_value x)
    | with_reducible assumption
    | with_reducible apply State.setAe_stays
    | with_reducible apply State.drainStart_stays
    | with_reducible refine Stays.foldl ?_ (fun u x hu => ?_)
    | split
    | (dsimp only)
    | (with_reducible apply Stays.upd; first | with_reducible assumption | with_reducible apply State.setAe_stays | with_reducible apply State.drainStart_stays | split))

theorem execPassLoadBegin_stays {p : Fin 2} : StaysOut s (execPassLoadBegin p s) := by
  unfold execPassLoadBegin
  have hk : Stays s s := Stays.refl s
  repeat' (first
    | with_reducible apply StaysOut.next
    | ((try lift_lets); intro (x : State); refine Stays.via (s := s) (x := x) ?_ (fun hx => ?_); rotate_left; clear_value x; rotate_left; unfold x)
    | ((try lift_lets); intro x; clear_value x)
    | with_reducible assumption
    | with_reducible apply State.releasePrev_stays
    | with_reducible apply State.startWake_stays
    | with_reducible apply State.stopDrain_stays
    | with_reducible apply State.setAe_stays
    | with_reducible refine Stays.foldl ?_ (fun u x hu => ?_)
    | split
    | (dsimp only)
    | (with_reducible apply Stays.upd; first | with_reducible assumption | with_reducible apply State.releasePrev_stays | with_reducible apply State.startWake_stays | with_reducible apply State.stopDrain_stays | with_reducible apply State.setAe_stays | split))

theorem State.noteRefusedLoad_stays {a : TileAddr} {cause : Nat} (hk : Stays s0 s) : Stays s0 (State.noteRefusedLoad s a cause) := by
  unfold State.noteRefusedLoad
  repeat' (first
    | ((try lift_lets); intro (x : State); refine Stays.via (s := s0) (x := x) ?_ (fun hx => ?_); rotate_left; clear_value x; rotate_left; unfold x)
    | ((try lift_lets); intro x; clear_value x)
    | with_reducible assumption
    | with_reducible apply State.reportCause_stays
    | with_reducible apply State.raiseOnce_stays
    | with_reducible apply State.captureFirst_stays
    | with_reducible apply State.countWm_stays
    | split
    | (dsimp only)
    | (with_reducible apply Stays.upd; first | with_reducible assumption | with_reducible apply State.reportCause_stays | with_reducible apply State.raiseOnce_stays | with_reducible apply State.captureFirst_stays | with_reducible apply State.countWm_stays | split))

theorem State.loadTile_stays {a : TileAddr} {r : TileRec} {folds : List FoldEnt} {epoch : BitVec 2} {ch : Option Nat} (hk : Stays s0 s) : Stays s0 (State.loadTile s a r folds epoch ch) := by
  unfold State.loadTile
  repeat' (first
    | ((try lift_lets); intro (x : State); refine Stays.via (s := s0) (x := x) ?_ (fun hx => ?_); rotate_left; clear_value x; rotate_left; unfold x)
    | ((try lift_lets); intro x; clear_value x)
    | with_reducible assumption
    | with_reducible apply State.noteRefusedLoad_stays
    | with_reducible apply State.setTile_stays
    | split
    | (dsimp only)
    | (with_reducible apply Stays.upd; first | with_reducible assumption | with_reducible apply State.noteRefusedLoad_stays | with_reducible apply State.setTile_stays | split))

theorem State.loadField_stays {f : FieldAddr} {g : Image} {part : Nat} {ch : Option Nat} (hk : Stays s0 s) : Stays s0 (State.loadField s f g part ch) := by
  unfold State.loadField
  repeat' (first
    | ((try lift_lets); intro (x : State); refine Stays.via (s := s0) (x := x) ?_ (fun hx => ?_); rotate_left; clear_value x; rotate_left; unfold x)
    | ((try lift_lets); intro x; clear_value x)
    | with_reducible assumption
    | with_reducible apply State.loadTile_stays
    | with_reducible apply State.countWm_stays
    | with_reducible apply State.setField_stays
    | with_reducible apply State.setF_stays
    | with_reducible refine Stays.foldl ?_ (fun u x hu => ?_)
    | split
    | (dsimp only)
    | (with_reducible apply Stays.upd; first | with_reducible assumption | with_reducible apply State.loadTile_stays | with_reducible apply State.countWm_stays | with_reducible apply State.setField_stays | with_reducible apply State.setF_stays | split))

theorem State.readPass_stays {p : Fin 2} {g : Image} {n : Nat} (hk : Stays s0 s) : Stays s0 (State.readPass s p g n).1 := by
  unfold State.readPass
  repeat' (first
    | ((try lift_lets); intro (x : State); refine Stays.via (s := s0) (x := x) ?_ (fun hx => ?_); rotate_left; clear_value x; rotate_left; unfold x)
    | ((try lift_lets); intro (x : State × _); refine Stays.via (s := s0) (x := x.1) ?_ (fun hx => ?_); rotate_left; clear_value x; rotate_left; unfold x)
    | ((try lift_lets); intro (x : _ × State); refine Stays.via (s := s0) (x := x.2) ?_ (fun hx => ?_); rotate_left; clear_value x; rotate_left; unfold x)
    | ((try lift_lets); intro x; clear_value x)
    | with_reducible assumption
    | with_reducible refine Stays.of_fst (State.edgeRead_stays ?_) (by assumption)
    | with_reducible apply State.edgeRead_stays
    | with_reducible refine Stays.foldl ?_ (fun u x hu => ?_)
    | with_reducible refine Stays.foldl_fst ?_ (fun u x hu => ?_)
    | split
    | (dsimp only)
    | (with_reducible apply Stays.upd; first | with_reducible assumption | with_reducible refine Stays.of_fst (State.edgeRead_stays ?_) (by assumption) | with_reducible apply State.edgeRead_stays | split))

theorem State.passGo_stays {p : Fin 2} {restart : Bool} (hk : Stays s0 s) : Stays s0 (State.passGo s p restart) := by
  unfold State.passGo
  repeat' (first
    | ((try lift_lets); intro (x : State); refine Stays.via (s := s0) (x := x) ?_ (fun hx => ?_); rotate_left; clear_value x; rotate_left; unfold x)
    | ((try lift_lets); intro x; clear_value x)
    | with_reducible assumption
    | with_reducible apply State.setPassState_stays
    | with_reducible apply State.setAe_stays
    | with_reducible apply State.countWm_stays
    | with_reducible apply State.setTile_stays
    | with_reducible apply State.setF_stays
    | with_reducible apply State.drainStart_stays
    | with_reducible refine Stays.foldl ?_ (fun u x hu => ?_)
    | split
    | (dsimp only)
    | (with_reducible apply Stays.upd; first | with_reducible assumption | with_reducible apply State.setPassState_stays | with_reducible apply State.setAe_stays | with_reducible apply State.countWm_stays | with_reducible apply State.setTile_stays | with_reducible apply State.setF_stays | with_reducible apply State.drainStart_stays | split))

theorem State.loadFields_stays {p : Fin 2} {g : Image} {n : Nat} (hk : Stays s0 s) : Stays s0 (State.loadFields s p g n) := by
  unfold State.loadFields
  repeat' (first
    | ((try lift_lets); intro (x : State); refine Stays.via (s := s0) (x := x) ?_ (fun hx => ?_); rotate_left; clear_value x; rotate_left; unfold x)
    | ((try lift_lets); intro x; clear_value x)
    | with_reducible assumption
    | with_reducible apply State.loadField_stays
    | with_reducible apply State.setF_stays
    | with_reducible refine Stays.foldl ?_ (fun u x hu => ?_)
    | split
    | (dsimp only)
    | (with_reducible apply Stays.upd; first | with_reducible assumption | with_reducible apply State.loadField_stays | with_reducible apply State.setF_stays | split))

theorem execPassArmed_stays {p : Fin 2} : StaysOut s (execPassArmed p s) := by
  unfold execPassArmed
  have hk : Stays s s := Stays.refl s
  repeat' (first
    | with_reducible apply StaysOut.next
    | ((try lift_lets); intro (x : State); refine Stays.via (s := s) (x := x) ?_ (fun hx => ?_); rotate_left; clear_value x; rotate_left; unfold x)
    | ((try lift_lets); intro (x : State × _); refine Stays.via (s := s) (x := x.1) ?_ (fun hx => ?_); rotate_left; clear_value x; rotate_left; unfold x)
    | ((try lift_lets); intro (x : _ × State); refine Stays.via (s := s) (x := x.2) ?_ (fun hx => ?_); rotate_left; clear_value x; rotate_left; unfold x)
    | ((try lift_lets); intro x; clear_value x)
    | with_reducible assumption
    | with_reducible apply State.loadFields_stays
    | with_reducible apply State.passGo_stays
    | with_reducible refine Stays.of_fst (State.readPass_stays ?_) (by assumption)
    | with_reducible apply State.readPass_stays
    | with_reducible apply State.aeArrive_stays
    | with_reducible apply State.planeCause_stays
    | with_reducible apply State.setPassState_stays
    | split
    | (dsimp only)
    | (with_reducible apply Stays.upd; first | with_reducible assumption | with_reducible apply State.loadFields_stays | with_reducible apply State.passGo_stays | with_reducible refine Stays.of_fst (State.readPass_stays ?_) (by assumption) | with_reducible apply State.readPass_stays | with_reducible apply State.aeArrive_stays | with_reducible apply State.planeCause_stays | with_reducible apply State.setPassState_stays | split))

theorem execPassRestart_stays {p : Fin 2} : StaysOut s (execPassRestart p s) := by
  unfold execPassRestart
  have hk : Stays s s := Stays.refl s
  repeat' (first
    | with_reducible apply StaysOut.next
    | ((try lift_lets); intro (x : State); refine Stays.via (s := s) (x := x) ?_ (fun hx => ?_); rotate_left; clear_value x; rotate_left; unfold x)
    | ((try lift_lets); intro x; clear_value x)
    | with_reducible assumption
    | with_reducible apply State.passGo_stays
    | split
    | (dsimp only)
    | (with_reducible apply Stays.upd; first | with_reducible assumption | with_reducible apply State.passGo_stays | split))

theorem State.blockCycles_stays {f : FieldAddr} {g : Image} {part : Nat} {cycles : List Nat} (hk : Stays s0 s) : Stays s0 (State.blockCycles s f g part cycles) := by
  unfold State.blockCycles
  repeat' (first
    | ((try lift_lets); intro (x : State); refine Stays.via (s := s0) (x := x) ?_ (fun hx => ?_); rotate_left; clear_value x; rotate_left; unfold x)
    | ((try lift_lets); intro x; clear_value x)
    | with_reducible assumption
    | with_reducible apply State.countWm_stays
    | with_reducible apply State.setIrq_stays
    | with_reducible refine Stays.foldl ?_ (fun u x hu => ?_)
    | split
    | (dsimp only)
    | (with_reducible apply Stays.upd; first | with_reducible assumption | with_reducible apply State.countWm_stays | with_reducible apply State.setIrq_stays | split))

theorem execPassFinishing_stays {p : Fin 2} {cycles : List Nat} : StaysOut s (execPassFinishing p cycles s) := by
  unfold execPassFinishing
  have hk : Stays s s := Stays.refl s
  repeat' (first
    | with_reducible apply StaysOut.next
    | ((try lift_lets); intro (x : State); refine Stays.via (s := s) (x := x) ?_ (fun hx => ?_); rotate_left; clear_value x; rotate_left; unfold x)
    | ((try lift_lets); intro x; clear_value x)
    | with_reducible assumption
    | with_reducible apply State.blockCycles_stays
    | with_reducible apply State.stopDrain_stays
    | with_reducible apply State.setPassState_stays
    | with_reducible refine Stays.foldl ?_ (fun u x hu => ?_)
    | split
    | (dsimp only)
    | (with_reducible apply Stays.upd; first | with_reducible assumption | with_reducible apply State.blockCycles_stays | with_reducible apply State.stopDrain_stays | with_reducible apply State.setPassState_stays | split))

theorem State.passEnd_stays {p : Fin 2} (hk : Stays s0 s) : Stays s0 (State.passEnd s p) := by
  unfold State.passEnd
  repeat' (first
    | ((try lift_lets); intro (x : State); refine Stays.via (s := s0) (x := x) ?_ (fun hx => ?_); rotate_left; clear_value x; rotate_left; unfold x)
    | ((try lift_lets); intro (x : _ → _); dsimp -zeta only [x]; clear x)
    | ((try lift_lets); intro x; clear_value x)
    | with_reducible assumption
    | with_reducible apply State.unbridge_stays
    | with_reducible apply State.setPassState_stays
    | with_reducible apply State.setAe_stays
    | with_reducible apply State.countWm_stays
    | with_reducible apply State.setIrq_stays
    | with_reducible apply State.complete_stays
    | exact Stays.ctxs (by assumption) (fun w => (storeWf_mapKeys _ _ _ _ w).1)
    | split
    | (dsimp only)
    | (with_reducible apply Stays.upd; first | with_reducible assumption | with_reducible apply State.unbridge_stays | with_reducible apply State.setPassState_stays | with_reducible apply State.setAe_stays | with_reducible apply State.countWm_stays | with_reducible apply State.setIrq_stays | with_reducible apply State.complete_stays | split))

theorem State.completePass_stays {p : Fin 2} (hk : Stays s0 s) : Stays s0 (State.completePass s p) := by
  unfold State.completePass
  repeat' (first
    | ((try lift_lets); intro (x : State); refine Stays.via (s := s0) (x := x) ?_ (fun hx => ?_); rotate_left; clear_value x; rotate_left; unfold x)
    | ((try lift_lets); intro x; clear_value x)
    | with_reducible assumption
    | with_reducible apply State.passEnd_stays
    | with_reducible apply State.aeArrive_stays
    | with_reducible apply State.setPassState_stays
    | split
    | (dsimp only)
    | (with_reducible apply Stays.upd; first | with_reducible assumption | with_reducible apply State.passEnd_stays | with_reducible apply State.aeArrive_stays | with_reducible apply State.setPassState_stays | split))

theorem State.suspectTile_stays {c : PassCause} {recent : Bool} (hk : Stays s0 s) : Stays s0 (State.suspectTile s c recent) := by
  unfold State.suspectTile
  repeat' (first
    | ((try lift_lets); intro (x : State); refine Stays.via (s := s0) (x := x) ?_ (fun hx => ?_); rotate_left; clear_value x; rotate_left; unfold x)
    | ((try lift_lets); intro x; clear_value x)
    | with_reducible assumption
    | with_reducible apply State.condemn_stays
    | split
    | (dsimp only)
    | (with_reducible apply Stays.upd; first | with_reducible assumption | with_reducible apply State.condemn_stays | split))

theorem State.abortNoted_stays {p : Fin 2} {c : PassCause} (hk : Stays s0 s) : Stays s0 (State.abortNoted s p c) := by
  unfold State.abortNoted
  repeat' (first
    | ((try lift_lets); intro (x : State); refine Stays.via (s := s0) (x := x) ?_ (fun hx => ?_); rotate_left; clear_value x; rotate_left; unfold x)
    | ((try lift_lets); intro x; clear_value x)
    | with_reducible assumption
    | with_reducible apply State.raise_stays
    | with_reducible apply State.captureFirst_stays
    | split
    | (dsimp only)
    | (with_reducible apply Stays.upd; first | with_reducible assumption | with_reducible apply State.raise_stays | with_reducible apply State.captureFirst_stays | split))

theorem State.abortEnters_stays {p : Fin 2} {c : PassCause} (hk : Stays s0 s) : Stays s0 (State.abortEnters s p c) := by
  unfold State.abortEnters
  repeat' (first
    | ((try lift_lets); intro (x : State); refine Stays.via (s := s0) (x := x) ?_ (fun hx => ?_); rotate_left; clear_value x; rotate_left; unfold x)
    | ((try lift_lets); intro x; clear_value x)
    | with_reducible assumption
    | with_reducible apply State.setPassState_stays
    | with_reducible apply State.setAe_stays
    | split
    | (dsimp only)
    | (with_reducible apply Stays.upd; first | with_reducible assumption | with_reducible apply State.setPassState_stays | with_reducible apply State.setAe_stays | split))

theorem State.abortDrains_stays {p : Fin 2} (hk : Stays s0 s) : Stays s0 (State.abortDrains s p) := by
  unfold State.abortDrains
  repeat' (first
    | ((try lift_lets); intro (x : State); refine Stays.via (s := s0) (x := x) ?_ (fun hx => ?_); rotate_left; clear_value x; rotate_left; unfold x)
    | ((try lift_lets); intro x; clear_value x)
    | with_reducible assumption
    | with_reducible apply State.setF_stays
    | with_reducible apply State.drainStart_stays
    | with_reducible refine Stays.foldl ?_ (fun u x hu => ?_)
    | split
    | (dsimp only)
    | (with_reducible apply Stays.upd; first | with_reducible assumption | with_reducible apply State.setF_stays | with_reducible apply State.drainStart_stays | split))

theorem State.repairEpoch_stays {f : FieldAddr} (hk : Stays s0 s) : Stays s0 (State.repairEpoch s f) := by
  unfold State.repairEpoch
  repeat' (first
    | ((try lift_lets); intro (x : State); refine Stays.via (s := s0) (x := x) ?_ (fun hx => ?_); rotate_left; clear_value x; rotate_left; unfold x)
    | ((try lift_lets); intro x; clear_value x)
    | with_reducible assumption
    | with_reducible apply State.setTile_stays
    | with_reducible refine Stays.foldl ?_ (fun u x hu => ?_)
    | split
    | (dsimp only)
    | (with_reducible apply Stays.upd; first | with_reducible assumption | with_reducible apply State.setTile_stays | split))

theorem State.failPass_stays {p : Fin 2} (hk : Stays s0 s) : Stays s0 (State.failPass s p) := by
  unfold State.failPass
  repeat' (first
    | ((try lift_lets); intro (x : State); refine Stays.via (s := s0) (x := x) ?_ (fun hx => ?_); rotate_left; clear_value x; rotate_left; unfold x)
    | ((try lift_lets); intro x; clear_value x)
    | with_reducible assumption
    | with_reducible apply State.repairEpoch_stays
    | with_reducible apply State.unbridge_stays
    | with_reducible apply State.setPassState_stays
    | with_reducible apply State.setAe_stays
    | with_reducible apply State.countWm_stays
    | with_reducible apply State.setIrq_stays
    | with_reducible apply State.complete_stays
    | with_reducible refine Stays.foldl ?_ (fun u x hu => ?_)
    | split
    | (dsimp only)
    | (with_reducible apply Stays.upd; first | with_reducible assumption | with_reducible apply State.repairEpoch_stays | with_reducible apply State.unbridge_stays | with_reducible apply State.setPassState_stays | with_reducible apply State.setAe_stays | with_reducible apply State.countWm_stays | with_reducible apply State.setIrq_stays | with_reducible apply State.complete_stays | split))

theorem execPassAbortNotice_stays {p : Fin 2} : StaysOut s (execPassAbortNotice p s) := by
  unfold execPassAbortNotice
  have hk : Stays s s := Stays.refl s
  repeat' (first
    | with_reducible apply StaysOut.next
    | ((try lift_lets); intro (x : State); refine Stays.via (s := s) (x := x) ?_ (fun hx => ?_); rotate_left; clear_value x; rotate_left; unfold x)
    | ((try lift_lets); intro x; clear_value x)
    | with_reducible assumption
    | with_reducible apply State.planeCause_stays
    | with_reducible apply State.setAe_stays
    | with_reducible apply State.countWm_stays
    | split
    | (dsimp only)
    | (with_reducible apply Stays.upd; first | with_reducible assumption | with_reducible apply State.planeCause_stays | with_reducible apply State.setAe_stays | with_reducible apply State.countWm_stays | split))

theorem execPassWatchdog_stays {p : Fin 2} : StaysOut s (execPassWatchdog p s) := by
  unfold execPassWatchdog
  have hk : Stays s s := Stays.refl s
  repeat' (first
    | with_reducible apply StaysOut.next
    | ((try lift_lets); intro (x : State); refine Stays.via (s := s) (x := x) ?_ (fun hx => ?_); rotate_left; clear_value x; rotate_left; unfold x)
    | ((try lift_lets); intro x; clear_value x)
    | with_reducible assumption
    | with_reducible apply State.planeCause_stays
    | split
    | (dsimp only)
    | (with_reducible apply Stays.upd; first | with_reducible assumption | with_reducible apply State.planeCause_stays | split))

theorem execFoldReaderSend_stays {a : TileAddr} : StaysOut s (execFoldReaderSend a s) := by
  unfold execFoldReaderSend
  have hk : Stays s s := Stays.refl s
  repeat' (first
    | with_reducible apply StaysOut.next
    | ((try lift_lets); intro (x : State); refine Stays.via (s := s) (x := x) ?_ (fun hx => ?_); rotate_left; clear_value x; rotate_left; unfold x)
    | ((try lift_lets); intro (x : State × _); refine Stays.via (s := s) (x := x.1) ?_ (fun hx => ?_); rotate_left; clear_value x; rotate_left; unfold x)
    | ((try lift_lets); intro (x : _ × State); refine Stays.via (s := s) (x := x.2) ?_ (fun hx => ?_); rotate_left; clear_value x; rotate_left; unfold x)
    | ((try lift_lets); intro x; clear_value x)
    | with_reducible assumption
    | with_reducible apply State.failTile_stays
    | with_reducible refine Stays.of_fst (State.readBytes_stays ?_) (by assumption)
    | with_reducible apply State.readBytes_stays
    | with_reducible apply State.reportCause_stays
    | with_reducible apply State.countWm_stays
    | with_reducible apply State.count_stays
    | with_reducible apply State.setTile_stays
    | with_reducible apply State.emit_stays
    | split
    | (dsimp only)
    | (with_reducible apply Stays.upd; first | with_reducible assumption | with_reducible apply State.failTile_stays | with_reducible refine Stays.of_fst (State.readBytes_stays ?_) (by assumption) | with_reducible apply State.readBytes_stays | with_reducible apply State.reportCause_stays | with_reducible apply State.countWm_stays | with_reducible apply State.count_stays | with_reducible apply State.setTile_stays | with_reducible apply State.emit_stays | split))

end Sys2Proof.Machine
end

