-- ==== Sys2Proof/Laws/KeepsEngines.lean ====
section
/-!
SUPPORT. What the operations of Machine/Engines keep (Laws/Keeps).
-/
namespace Sys2Proof.Machine

set_option linter.all false

variable {s0 s : State}

theorem State.fetchFailed_stays {e q : Nat} (hk : Stays s0 s) : Stays s0 (State.fetchFailed s e q) := by
  unfold State.fetchFailed
  repeat' (first
    | ((try lift_lets); intro (x : State); refine Stays.via (s := s0) (x := x) ?_ (fun hx => ?_); rotate_left; clear_value x; rotate_left; unfold x)
    | ((try lift_lets); intro x; clear_value x)
    | with_reducible assumption
    | with_reducible apply State.setIrq_stays
    | with_reducible apply State.setF_stays
    | with_reducible apply State.failStep_stays
    | with_reducible apply State.setQueue_stays
    | split
    | (dsimp only)
    | (with_reducible apply Stays.upd; first | with_reducible assumption | with_reducible apply State.setIrq_stays | with_reducible apply State.setF_stays | with_reducible apply State.failStep_stays | with_reducible apply State.setQueue_stays | split))

theorem State.fetchRaw_stays {e q : Nat} {raw : List Byte} {err : Nat} (hk : Stays s0 s) : Stays s0 (State.fetchRaw s e q raw err).1 := by
  unfold State.fetchRaw
  repeat' (first
    | ((try lift_lets); intro (x : State); refine Stays.via (s := s0) (x := x) ?_ (fun hx => ?_); rotate_left; clear_value x; rotate_left; unfold x)
    | ((try lift_lets); intro (x : State × _); refine Stays.via (s := s0) (x := x.1) ?_ (fun hx => ?_); rotate_left; clear_value x; rotate_left; unfold x)
    | ((try lift_lets); intro (x : _ × State); refine Stays.via (s := s0) (x := x.2) ?_ (fun hx => ?_); rotate_left; clear_value x; rotate_left; unfold x)
    | ((try lift_lets); intro x; clear_value x)
    | with_reducible assumption
    | with_reducible refine Stays.of_fst (State.edgeRead_stays ?_) (by assumption)
    | with_reducible apply State.edgeRead_stays
    | with_reducible apply State.countIrq_stays
    | split
    | (dsimp only)
    | (with_reducible apply Stays.upd; first | with_reducible assumption | with_reducible refine Stays.of_fst (State.edgeRead_stays ?_) (by assumption) | with_reducible apply State.edgeRead_stays | with_reducible apply State.countIrq_stays | split))

theorem State.fetchPayload_stays {raw : RawRec} {check : Nat} {payload : List Byte} {err : Nat} (hk : Stays s0 s) : Stays s0 (State.fetchPayload s raw check payload err).1 := by
  unfold State.fetchPayload
  repeat' (first
    | ((try lift_lets); intro (x : State); refine Stays.via (s := s0) (x := x) ?_ (fun hx => ?_); rotate_left; clear_value x; rotate_left; unfold x)
    | ((try lift_lets); intro (x : State × _); refine Stays.via (s := s0) (x := x.1) ?_ (fun hx => ?_); rotate_left; clear_value x; rotate_left; unfold x)
    | ((try lift_lets); intro (x : _ × State); refine Stays.via (s := s0) (x := x.2) ?_ (fun hx => ?_); rotate_left; clear_value x; rotate_left; unfold x)
    | ((try lift_lets); intro x; clear_value x)
    | with_reducible assumption
    | with_reducible refine Stays.of_fst (State.edgeRead_stays ?_) (by assumption)
    | with_reducible apply State.edgeRead_stays
    | with_reducible apply State.countIrq_stays
    | split
    | (dsimp only)
    | (with_reducible apply Stays.upd; first | with_reducible assumption | with_reducible refine Stays.of_fst (State.edgeRead_stays ?_) (by assumption) | with_reducible apply State.edgeRead_stays | with_reducible apply State.countIrq_stays | split))

theorem State.fetch_stays {e q : Nat} {raw payload : List Byte} {err : Nat} (hk : Stays s0 s) : Stays s0 (State.fetch s e q raw payload err) := by
  unfold State.fetch
  repeat' (first
    | ((try lift_lets); intro (x : State); refine Stays.via (s := s0) (x := x) ?_ (fun hx => ?_); rotate_left; clear_value x; rotate_left; unfold x)
    | ((try lift_lets); intro (x : State × _); refine Stays.via (s := s0) (x := x.1) ?_ (fun hx => ?_); rotate_left; clear_value x; rotate_left; unfold x)
    | ((try lift_lets); intro (x : _ × State); refine Stays.via (s := s0) (x := x.2) ?_ (fun hx => ?_); rotate_left; clear_value x; rotate_left; unfold x)
    | ((try lift_lets); intro x; clear_value x)
    | with_reducible assumption
    | with_reducible apply State.countWm_stays
    | with_reducible apply State.setF_stays
    | with_reducible refine Stays.of_fst (State.fetchPayload_stays ?_) (by assumption)
    | with_reducible apply State.fetchPayload_stays
    | with_reducible refine Stays.of_fst (State.fetchRaw_stays ?_) (by assumption)
    | with_reducible apply State.fetchRaw_stays
    | with_reducible apply State.fetchFailed_stays
    | with_reducible apply State.setQueue_stays
    | split
    | (dsimp only)
    | (with_reducible apply Stays.upd; first | with_reducible assumption | with_reducible apply State.countWm_stays | with_reducible apply State.setF_stays | with_reducible refine Stays.of_fst (State.fetchPayload_stays ?_) (by assumption) | with_reducible apply State.fetchPayload_stays | with_reducible refine Stays.of_fst (State.fetchRaw_stays ?_) (by assumption) | with_reducible apply State.fetchRaw_stays | with_reducible apply State.fetchFailed_stays | with_reducible apply State.setQueue_stays | split))

theorem execRecordFetch_stays {e : Fin 7} {q : Fin 64} {raw payload : List Byte} {err : Fin 3} : StaysOut s (execRecordFetch e q raw payload err s) := by
  unfold execRecordFetch
  have hk : Stays s s := Stays.refl s
  repeat' (first
    | with_reducible apply StaysOut.next
    | ((try lift_lets); intro (x : State); refine Stays.via (s := s) (x := x) ?_ (fun hx => ?_); rotate_left; clear_value x; rotate_left; unfold x)
    | ((try lift_lets); intro x; clear_value x)
    | with_reducible assumption
    | with_reducible apply State.fetch_stays
    | split
    | (dsimp only)
    | (with_reducible apply Stays.upd; first | with_reducible assumption | with_reducible apply State.fetch_stays | split))

theorem execFetchRetry_stays {e : Fin 7} {q : Fin 64} {raw payload : List Byte} {err : Fin 3} : StaysOut s (execFetchRetry e q raw payload err s) := by
  unfold execFetchRetry
  have hk : Stays s s := Stays.refl s
  repeat' (first
    | with_reducible apply StaysOut.next
    | ((try lift_lets); intro (x : State); refine Stays.via (s := s) (x := x) ?_ (fun hx => ?_); rotate_left; clear_value x; rotate_left; unfold x)
    | ((try lift_lets); intro x; clear_value x)
    | with_reducible assumption
    | with_reducible apply State.fetch_stays
    | split
    | (dsimp only)
    | (with_reducible apply Stays.upd; first | with_reducible assumption | with_reducible apply State.fetch_stays | split))

theorem State.badAccess_stays {bar : Nat} {write poisoned : Bool} {off : Nat} (hk : Stays s0 s) : Stays s0 (State.badAccess s bar write poisoned off) := by
  unfold State.badAccess
  repeat' (first
    | ((try lift_lets); intro (x : State); refine Stays.via (s := s0) (x := x) ?_ (fun hx => ?_); rotate_left; clear_value x; rotate_left; unfold x)
    | ((try lift_lets); intro x; clear_value x)
    | with_reducible assumption
    | with_reducible apply State.captureFirst_stays
    | split
    | (dsimp only)
    | (with_reducible apply Stays.upd; first | with_reducible assumption | with_reducible apply State.captureFirst_stays | split))

theorem execDoorbell_stays {e : Fin 7} {q : Fin 64} {aligned poisoned : Bool} {value : W64} : StaysOut s (execDoorbell e q aligned poisoned value s) := by
  unfold execDoorbell
  have hk : Stays s s := Stays.refl s
  repeat' (first
    | with_reducible apply StaysOut.next
    | ((try lift_lets); intro (x : State); refine Stays.via (s := s) (x := x) ?_ (fun hx => ?_); rotate_left; clear_value x; rotate_left; unfold x)
    | ((try lift_lets); intro x; clear_value x)
    | with_reducible assumption
    | with_reducible apply State.count_stays
    | with_reducible apply State.setIrq_stays
    | with_reducible apply State.setF_stays
    | with_reducible apply State.badAccess_stays
    | split
    | (dsimp only)
    | (with_reducible apply Stays.upd; first | with_reducible assumption | with_reducible apply State.count_stays | with_reducible apply State.setIrq_stays | with_reducible apply State.setF_stays | with_reducible apply State.badAccess_stays | split))

theorem State.evalWaits_stays  (hk : Stays s0 s) : Stays s0 (State.evalWaits s) := by
  unfold State.evalWaits
  repeat' (first
    | ((try lift_lets); intro (x : State); refine Stays.via (s := s0) (x := x) ?_ (fun hx => ?_); rotate_left; clear_value x; rotate_left; unfold x)
    | ((try lift_lets); intro x; clear_value x)
    | with_reducible assumption
    | exact Stays.queues (by assumption) (fun w => (storeWf_mapKeys _ _ _ _ w).1)
    | split
    | (dsimp only)
    | (with_reducible apply Stays.upd; first | with_reducible assumption | split))

theorem State.startRec_stays {e q : Nat} {h : EngRec} (hk : Stays s0 s) : Stays s0 (State.startRec s e q h) := by
  unfold State.startRec
  repeat' (first
    | ((try lift_lets); intro (x : State); refine Stays.via (s := s0) (x := x) ?_ (fun hx => ?_); rotate_left; clear_value x; rotate_left; unfold x)
    | ((try lift_lets); intro x; clear_value x)
    | with_reducible assumption
    | with_reducible apply State.setF_stays
    | with_reducible apply State.setQueue_stays
    | split
    | (dsimp only)
    | (with_reducible apply Stays.upd; first | with_reducible assumption | with_reducible apply State.setF_stays | with_reducible apply State.setQueue_stays | split))

theorem execRecordStart_stays {e : Fin 7} : StaysOut s (execRecordStart e s) := by
  unfold execRecordStart
  have hk : Stays s s := Stays.refl s
  repeat' (first
    | with_reducible apply StaysOut.next
    | ((try lift_lets); intro (x : State); refine Stays.via (s := s) (x := x) ?_ (fun hx => ?_); rotate_left; clear_value x; rotate_left; unfold x)
    | ((try lift_lets); intro x; clear_value x)
    | with_reducible assumption
    | with_reducible apply State.startRec_stays
    | with_reducible apply State.complete_stays
    | split
    | (dsimp only)
    | (with_reducible apply Stays.upd; first | with_reducible assumption | with_reducible apply State.startRec_stays | with_reducible apply State.complete_stays | split))

theorem execNopCommand_stays {e : Fin 7} {q : Fin 64} : StaysOut s (execNopCommand e q s) := by
  unfold execNopCommand
  have hk : Stays s s := Stays.refl s
  repeat' (first
    | with_reducible apply StaysOut.next
    | ((try lift_lets); intro (x : State); refine Stays.via (s := s) (x := x) ?_ (fun hx => ?_); rotate_left; clear_value x; rotate_left; unfold x)
    | ((try lift_lets); intro x; clear_value x)
    | with_reducible assumption
    | with_reducible apply State.complete_stays
    | split
    | (dsimp only)
    | (with_reducible apply Stays.upd; first | with_reducible assumption | with_reducible apply State.complete_stays | split))

theorem State.endHead_stays {e q : Nat} {h : EngRec} {code : Nat} (hk : Stays s0 s) : Stays s0 (State.endHead s e q h code) := by
  unfold State.endHead
  repeat' (first
    | ((try lift_lets); intro (x : State); refine Stays.via (s := s0) (x := x) ?_ (fun hx => ?_); rotate_left; clear_value x; rotate_left; unfold x)
    | ((try lift_lets); intro x; clear_value x)
    | with_reducible assumption
    | with_reducible apply State.complete_stays
    | with_reducible apply State.setQueue_stays
    | split
    | (dsimp only)
    | (with_reducible apply Stays.upd; first | with_reducible assumption | with_reducible apply State.complete_stays | with_reducible apply State.setQueue_stays | split))

theorem execWaitTimeout_stays {e : Fin 7} {q : Fin 64} : StaysOut s (execWaitTimeout e q s) := by
  unfold execWaitTimeout
  have hk : Stays s s := Stays.refl s
  repeat' (first
    | with_reducible apply StaysOut.next
    | ((try lift_lets); intro (x : State); refine Stays.via (s := s) (x := x) ?_ (fun hx => ?_); rotate_left; clear_value x; rotate_left; unfold x)
    | ((try lift_lets); intro x; clear_value x)
    | with_reducible assumption
    | with_reducible apply State.raise_stays
    | with_reducible apply State.endHead_stays
    | split
    | (dsimp only)
    | (with_reducible apply Stays.upd; first | with_reducible assumption | with_reducible apply State.raise_stays | with_reducible apply State.endHead_stays | split))

theorem execWmHoldTimeout_stays {e : Fin 7} {q : Fin 64} : StaysOut s (execWmHoldTimeout e q s) := by
  unfold execWmHoldTimeout
  have hk : Stays s s := Stays.refl s
  repeat' (first
    | with_reducible apply StaysOut.next
    | ((try lift_lets); intro (x : State); refine Stays.via (s := s) (x := x) ?_ (fun hx => ?_); rotate_left; clear_value x; rotate_left; unfold x)
    | ((try lift_lets); intro x; clear_value x)
    | with_reducible assumption
    | with_reducible apply State.endHead_stays
    | split
    | (dsimp only)
    | (with_reducible apply Stays.upd; first | with_reducible assumption | with_reducible apply State.endHead_stays | split))

theorem State.resumeWrite_stays {e q : Nat} {fw : Bool} {value : W64} (hk : Stays s0 s) : Stays s0 (State.resumeWrite s e q fw value) := by
  unfold State.resumeWrite
  repeat' (first
    | ((try lift_lets); intro (x : State); refine Stays.via (s := s0) (x := x) ?_ (fun hx => ?_); rotate_left; clear_value x; rotate_left; unfold x)
    | ((try lift_lets); intro x; clear_value x)
    | with_reducible assumption
    | with_reducible refine State.regWrite_stays ?_ (fun u hu => ?_)
    | with_reducible apply State.setF_stays
    | with_reducible apply State.setQueue_stays
    | split
    | (dsimp only)
    | (with_reducible apply Stays.upd; first | with_reducible assumption | with_reducible refine State.regWrite_stays ?_ (fun u hu => ?_) | with_reducible apply State.setF_stays | with_reducible apply State.setQueue_stays | split))

theorem execQueueResume_stays {e : Fin 7} {q : Fin 64} {fw : Bool} {value : W64} : StaysOut s (execQueueResume e q fw value s) := by
  unfold execQueueResume
  have hk : Stays s s := Stays.refl s
  repeat' (first
    | with_reducible apply StaysOut.next
    | ((try lift_lets); intro (x : State); refine Stays.via (s := s) (x := x) ?_ (fun hx => ?_); rotate_left; clear_value x; rotate_left; unfold x)
    | ((try lift_lets); intro x; clear_value x)
    | with_reducible assumption
    | with_reducible apply State.resumeWrite_stays
    | split
    | (dsimp only)
    | (with_reducible apply Stays.upd; first | with_reducible assumption | with_reducible apply State.resumeWrite_stays | split))

theorem State.enableQueue_stays {e q : Nat} (hk : Stays s0 s) : Stays s0 (State.enableQueue s e q) := by
  unfold State.enableQueue
  repeat' (first
    | ((try lift_lets); intro (x : State); refine Stays.via (s := s0) (x := x) ?_ (fun hx => ?_); rotate_left; clear_value x; rotate_left; unfold x)
    | ((try lift_lets); intro x; clear_value x)
    | with_reducible assumption
    | with_reducible apply State.setF_stays
    | with_reducible apply State.setReg_stays
    | with_reducible apply State.setQueue_stays
    | split
    | (dsimp only)
    | (with_reducible apply Stays.upd; first | with_reducible assumption | with_reducible apply State.setF_stays | with_reducible apply State.setReg_stays | with_reducible apply State.setQueue_stays | split))

theorem State.disableQueue_stays {e q : Nat} (hk : Stays s0 s) : Stays s0 (State.disableQueue s e q) := by
  unfold State.disableQueue
  repeat' (first
    | ((try lift_lets); intro (x : State); refine Stays.via (s := s0) (x := x) ?_ (fun hx => ?_); rotate_left; clear_value x; rotate_left; unfold x)
    | ((try lift_lets); intro x; clear_value x)
    | with_reducible assumption
    | with_reducible apply State.setF_stays
    | with_reducible apply State.setQueue_stays
    | split
    | (dsimp only)
    | (with_reducible apply Stays.upd; first | with_reducible assumption | with_reducible apply State.setF_stays | with_reducible apply State.setQueue_stays | split))

theorem State.queueWrite_stays {e q k : Nat} {fw : Bool} {value : W64} (hk : Stays s0 s) : Stays s0 (State.queueWrite s e q k fw value) := by
  unfold State.queueWrite
  repeat' (first
    | ((try lift_lets); intro (x : State); refine Stays.via (s := s0) (x := x) ?_ (fun hx => ?_); rotate_left; clear_value x; rotate_left; unfold x)
    | ((try lift_lets); intro x; clear_value x)
    | with_reducible assumption
    | with_reducible refine State.regWrite_stays ?_ (fun u hu => ?_)
    | with_reducible apply State.disableQueue_stays
    | with_reducible apply State.enableQueue_stays
    | split
    | (dsimp only)
    | (with_reducible apply Stays.upd; first | with_reducible assumption | with_reducible refine State.regWrite_stays ?_ (fun u hu => ?_) | with_reducible apply State.disableQueue_stays | with_reducible apply State.enableQueue_stays | split))

theorem execQueueConfigWrite_stays {e : Fin 7} {q : Fin 64} {reg : Fin 4} {fw : Bool} {value : W64} : StaysOut s (execQueueConfigWrite e q reg fw value s) := by
  unfold execQueueConfigWrite
  have hk : Stays s s := Stays.refl s
  repeat' (first
    | with_reducible apply StaysOut.next
    | ((try lift_lets); intro (x : State); refine Stays.via (s := s) (x := x) ?_ (fun hx => ?_); rotate_left; clear_value x; rotate_left; unfold x)
    | ((try lift_lets); intro x; clear_value x)
    | with_reducible assumption
    | with_reducible apply State.queueWrite_stays
    | split
    | (dsimp only)
    | (with_reducible apply Stays.upd; first | with_reducible assumption | with_reducible apply State.queueWrite_stays | split))

end Sys2Proof.Machine
end

