-- ==== Sys2Proof/Laws/KeepsLink.lean ====
section
/-!
SUPPORT. What the operations of Machine/Link keep (Laws/Keeps).
-/
namespace Sys2Proof.Machine

set_option linter.all false

variable {s0 s : State}

theorem State.setVlink_stays {l : Nat} {x : VLink} (h : Stays s0 s) : Stays s0 (s.setVlink l x) :=
  h.links (fun w => storeWf_put _ _ _ _ w)

theorem State.onWire_stays {l : Nat} {tag : W64} {bs : List Byte} (hk : Stays s0 s) : Stays s0 (State.onWire s l tag bs) := by
  unfold State.onWire
  repeat' (first
    | ((try lift_lets); intro (x : State); refine Stays.via (s := s0) (x := x) ?_ (fun hx => ?_); rotate_left; clear_value x; rotate_left; unfold x)
    | ((try lift_lets); intro x; clear_value x)
    | with_reducible assumption
    | with_reducible apply State.count_stays
    | split
    | (dsimp only)
    | (with_reducible apply Stays.upd; first | with_reducible assumption | with_reducible apply State.count_stays | split))

theorem State.transmitFrame_stays {l : Nat} {bs : List Byte} (hk : Stays s0 s) : Stays s0 (State.transmitFrame s l bs) := by
  unfold State.transmitFrame
  repeat' (first
    | ((try lift_lets); intro (x : State); refine Stays.via (s := s0) (x := x) ?_ (fun hx => ?_); rotate_left; clear_value x; rotate_left; unfold x)
    | ((try lift_lets); intro x; clear_value x)
    | with_reducible assumption
    | with_reducible apply State.onWire_stays
    | with_reducible apply State.setVlink_stays
    | split
    | (dsimp only)
    | (with_reducible apply Stays.upd; first | with_reducible assumption | with_reducible apply State.onWire_stays | with_reducible apply State.setVlink_stays | split))

theorem State.sendFrame_stays {l : Nat} {bs : List Byte} (hk : Stays s0 s) : Stays s0 (State.sendFrame s l bs) := by
  unfold State.sendFrame
  repeat' (first
    | ((try lift_lets); intro (x : State); refine Stays.via (s := s0) (x := x) ?_ (fun hx => ?_); rotate_left; clear_value x; rotate_left; unfold x)
    | ((try lift_lets); intro x; clear_value x)
    | with_reducible assumption
    | with_reducible apply State.transmitFrame_stays
    | with_reducible apply State.setVlink_stays
    | split
    | (dsimp only)
    | (with_reducible apply Stays.upd; first | with_reducible assumption | with_reducible apply State.transmitFrame_stays | with_reducible apply State.setVlink_stays | split))

theorem State.pumpLink_stays {l : Nat} {q : List (List Byte)} : ∀ {s : State}, Stays s0 s → Stays s0 (s.pumpLink l q) := by
  induction q with
  | nil => exact fun h => State.setVlink_stays h
  | cons b r ih =>
    intro s h
    unfold State.pumpLink
    split
    · exact ih (State.transmitFrame_stays h)
    · exact State.setVlink_stays h

theorem State.beginRetry_stays {l : Nat} (hk : Stays s0 s) : Stays s0 (State.beginRetry s l) := by
  unfold State.beginRetry
  repeat' (first
    | ((try lift_lets); intro (x : State); refine Stays.via (s := s0) (x := x) ?_ (fun hx => ?_); rotate_left; clear_value x; rotate_left; unfold x)
    | ((try lift_lets); intro x; clear_value x)
    | with_reducible assumption
    | with_reducible apply State.count_stays
    | with_reducible apply State.setF_stays
    | with_reducible apply State.setVlink_stays
    | split
    | (dsimp only)
    | (with_reducible apply Stays.upd; first | with_reducible assumption | with_reducible apply State.count_stays | with_reducible apply State.setF_stays | with_reducible apply State.setVlink_stays | split))

theorem State.replay_stays {l : Nat} (hk : Stays s0 s) : Stays s0 (State.replay s l) := by
  unfold State.replay
  repeat' (first
    | ((try lift_lets); intro (x : State); refine Stays.via (s := s0) (x := x) ?_ (fun hx => ?_); rotate_left; clear_value x; rotate_left; unfold x)
    | ((try lift_lets); intro x; clear_value x)
    | with_reducible assumption
    | with_reducible apply State.count_stays
    | with_reducible apply State.beginRetry_stays
    | with_reducible apply State.onWire_stays
    | with_reducible refine Stays.foldl ?_ (fun u x hu => ?_)
    | split
    | (dsimp only)
    | (with_reducible apply Stays.upd; first | with_reducible assumption | with_reducible apply State.count_stays | with_reducible apply State.beginRetry_stays | with_reducible apply State.onWire_stays | split))

theorem State.acked_stays {l ackSeq : Nat} (hk : Stays s0 s) : Stays s0 (State.acked s l ackSeq) := by
  unfold State.acked
  repeat' (first
    | ((try lift_lets); intro (x : State); refine Stays.via (s := s0) (x := x) ?_ (fun hx => ?_); rotate_left; clear_value x; rotate_left; unfold x)
    | ((try lift_lets); intro x; clear_value x)
    | with_reducible assumption
    | with_reducible apply State.pumpLink_stays
    | with_reducible apply State.setVlink_stays
    | split
    | (dsimp only)
    | (with_reducible apply Stays.upd; first | with_reducible assumption | with_reducible apply State.pumpLink_stays | with_reducible apply State.setVlink_stays | split))

theorem State.sendNak_stays {l : Nat} (hk : Stays s0 s) : Stays s0 (State.sendNak s l) := by
  unfold State.sendNak
  repeat' (first
    | ((try lift_lets); intro (x : State); refine Stays.via (s := s0) (x := x) ?_ (fun hx => ?_); rotate_left; clear_value x; rotate_left; unfold x)
    | ((try lift_lets); intro x; clear_value x)
    | with_reducible assumption
    | with_reducible apply State.count_stays
    | with_reducible apply State.onWire_stays
    | with_reducible apply State.setVlink_stays
    | split
    | (dsimp only)
    | (with_reducible apply Stays.upd; first | with_reducible assumption | with_reducible apply State.count_stays | with_reducible apply State.onWire_stays | with_reducible apply State.setVlink_stays | split))

theorem State.tagWork_stays {l : Nat} {tag : W64} (hk : Stays s0 s) : Stays s0 (State.tagWork s l tag) := by
  unfold State.tagWork
  repeat' (first
    | ((try lift_lets); intro (x : State); refine Stays.via (s := s0) (x := x) ?_ (fun hx => ?_); rotate_left; clear_value x; rotate_left; unfold x)
    | ((try lift_lets); intro x; clear_value x)
    | with_reducible assumption
    | with_reducible apply State.acked_stays
    | with_reducible apply State.replay_stays
    | split
    | (dsimp only)
    | (with_reducible apply Stays.upd; first | with_reducible assumption | with_reducible apply State.acked_stays | with_reducible apply State.replay_stays | split))

theorem State.recvFrame_stays {l : Nat} {tag : W64} {b : List Byte} (hk : Stays s0 s) : Stays s0 (State.recvFrame s l tag b).1 := by
  unfold State.recvFrame
  repeat' (first
    | ((try lift_lets); intro (x : State); refine Stays.via (s := s0) (x := x) ?_ (fun hx => ?_); rotate_left; clear_value x; rotate_left; unfold x)
    | ((try lift_lets); intro x; clear_value x)
    | with_reducible assumption
    | with_reducible apply State.count_stays
    | with_reducible apply State.tagWork_stays
    | with_reducible apply State.sendNak_stays
    | with_reducible apply State.setVlink_stays
    | split
    | (dsimp only)
    | (with_reducible apply Stays.upd; first | with_reducible assumption | with_reducible apply State.count_stays | with_reducible apply State.tagWork_stays | with_reducible apply State.sendNak_stays | with_reducible apply State.setVlink_stays | split))

theorem State.answerFrame_stays {l : Nat} {f : Frame} {status : Nat} (hk : Stays s0 s) : Stays s0 (State.answerFrame s l f status) := by
  unfold State.answerFrame
  repeat' (first
    | ((try lift_lets); intro (x : State); refine Stays.via (s := s0) (x := x) ?_ (fun hx => ?_); rotate_left; clear_value x; rotate_left; unfold x)
    | ((try lift_lets); intro x; clear_value x)
    | with_reducible assumption
    | with_reducible apply State.answer_stays
    | with_reducible apply State.sendFrame_stays
    | split
    | (dsimp only)
    | (with_reducible apply Stays.upd; first | with_reducible assumption | with_reducible apply State.answer_stays | with_reducible apply State.sendFrame_stays | split))

end Sys2Proof.Machine
end

