-- ==== Sys2Proof/Laws/KeepsStreamOps.lean ====
section
/-!
SUPPORT. What the operations of Machine/StreamOps keep (Laws/Keeps).
-/
namespace Sys2Proof.Machine

set_option linter.all false

variable {s0 s : State}

theorem State.setCtx_stays {k : Nat} {c : StreamCtx} (h : Stays s0 s) : Stays s0 (s.setCtx k c) :=
  h.ctxs (fun w => storeWf_put _ _ _ _ w)

theorem State.notePeak_stays {p : Fin 2} {g : Nat} (hk : Stays s0 s) : Stays s0 (State.notePeak s p g) := by
  unfold State.notePeak
  repeat' (first
    | ((try lift_lets); intro (x : State); refine Stays.via (s := s0) (x := x) ?_ (fun hx => ?_); rotate_left; clear_value x; rotate_left; unfold x)
    | ((try lift_lets); intro x; clear_value x)
    | with_reducible assumption
    | with_reducible apply State.setF_stays
    | split
    | (dsimp only)
    | (with_reducible apply Stays.upd; first | with_reducible assumption | with_reducible apply State.setF_stays | split))

theorem State.countCtx_stays {k : Nat} {x : Ctr} {n : Nat} {wm : Waymark} (hk : Stays s0 s) : Stays s0 (State.countCtx s k x n wm) := by
  unfold State.countCtx
  repeat' (first
    | ((try lift_lets); intro (x : State); refine Stays.via (s := s0) (x := x) ?_ (fun hx => ?_); rotate_left; clear_value x; rotate_left; unfold x)
    | ((try lift_lets); intro x; clear_value x)
    | with_reducible assumption
    | with_reducible apply State.countWm_stays
    | split
    | (dsimp only)
    | (with_reducible apply Stays.upd; first | with_reducible assumption | with_reducible apply State.countWm_stays | split))

theorem State.countCtxIrq_stays {k : Nat} {x : Ctr} {bit : Nat} {wm : Waymark} (hk : Stays s0 s) : Stays s0 (State.countCtxIrq s k x bit wm) := by
  unfold State.countCtxIrq
  repeat' (first
    | ((try lift_lets); intro (x : State); refine Stays.via (s := s0) (x := x) ?_ (fun hx => ?_); rotate_left; clear_value x; rotate_left; unfold x)
    | ((try lift_lets); intro x; clear_value x)
    | with_reducible assumption
    | with_reducible apply State.countWm_stays
    | with_reducible apply State.setIrq_stays
    | split
    | (dsimp only)
    | (with_reducible apply Stays.upd; first | with_reducible assumption | with_reducible apply State.countWm_stays | with_reducible apply State.setIrq_stays | split))

theorem State.noteDry_stays {k : Nat} (hk : Stays s0 s) : Stays s0 (State.noteDry s k) := by
  unfold State.noteDry
  repeat' (first
    | ((try lift_lets); intro (x : State); refine Stays.via (s := s0) (x := x) ?_ (fun hx => ?_); rotate_left; clear_value x; rotate_left; unfold x)
    | ((try lift_lets); intro x; clear_value x)
    | with_reducible assumption
    | with_reducible apply State.countCtxIrq_stays
    | with_reducible apply State.setCtx_stays
    | split
    | (dsimp only)
    | (with_reducible apply Stays.upd; first | with_reducible assumption | with_reducible apply State.countCtxIrq_stays | with_reducible apply State.setCtx_stays | split))

theorem State.streamError_stays {p : Fin 2} {status refuse ctx : Nat} {wm : Waymark} {sid field : Nat} {cyc : W64} (hk : Stays s0 s) : Stays s0 (State.streamError s p status refuse ctx wm sid field cyc) := by
  unfold State.streamError
  repeat' (first
    | ((try lift_lets); intro (x : State); refine Stays.via (s := s0) (x := x) ?_ (fun hx => ?_); rotate_left; clear_value x; rotate_left; unfold x)
    | ((try lift_lets); intro x; clear_value x)
    | with_reducible assumption
    | with_reducible apply State.raiseOnce_stays
    | with_reducible apply State.captureFirst_stays
    | with_reducible apply State.setErr_stays
    | split
    | (dsimp only)
    | (dsimp only [id])
    | (with_reducible apply Stays.upd; first | with_reducible assumption | with_reducible apply State.raiseOnce_stays | with_reducible apply State.captureFirst_stays | with_reducible apply State.setErr_stays | split))

theorem State.cancelsDone_stays {p : Fin 2} (hk : Stays s0 s) : Stays s0 (State.cancelsDone s p) := by
  unfold State.cancelsDone
  repeat' (first
    | ((try lift_lets); intro (x : State); refine Stays.via (s := s0) (x := x) ?_ (fun hx => ?_); rotate_left; clear_value x; rotate_left; unfold x)
    | ((try lift_lets); intro x; clear_value x)
    | with_reducible assumption
    | with_reducible apply State.complete_stays
    | with_reducible refine Stays.foldl ?_ (fun u x hu => ?_)
    | split
    | (dsimp only)
    | (with_reducible apply Stays.upd; first | with_reducible assumption | with_reducible apply State.complete_stays | split))

theorem State.freeCtx_stays {k status : Nat} (hk : Stays s0 s) : Stays s0 (State.freeCtx s k status) := by
  unfold State.freeCtx
  repeat' (first
    | ((try lift_lets); intro (x : State); refine Stays.via (s := s0) (x := x) ?_ (fun hx => ?_); rotate_left; clear_value x; rotate_left; unfold x)
    | ((try lift_lets); intro x; clear_value x)
    | with_reducible assumption
    | with_reducible apply State.cancelsDone_stays
    | with_reducible apply State.countCtx_stays
    | with_reducible apply State.setCtx_stays
    | with_reducible apply State.complete_stays
    | split
    | (dsimp only)
    | (with_reducible apply Stays.upd; first | with_reducible assumption | with_reducible apply State.cancelsDone_stays | with_reducible apply State.countCtx_stays | with_reducible apply State.setCtx_stays | with_reducible apply State.complete_stays | split))

theorem State.endCtx_stays {k status refuse : Nat} (hk : Stays s0 s) : Stays s0 (State.endCtx s k status refuse) := by
  unfold State.endCtx
  repeat' (first
    | ((try lift_lets); intro (x : State); refine Stays.via (s := s0) (x := x) ?_ (fun hx => ?_); rotate_left; clear_value x; rotate_left; unfold x)
    | ((try lift_lets); intro x; clear_value x)
    | with_reducible assumption
    | with_reducible apply State.streamError_stays
    | with_reducible apply State.countCtx_stays
    | with_reducible apply State.setCtx_stays
    | split
    | (dsimp only)
    | (with_reducible apply Stays.upd; first | with_reducible assumption | with_reducible apply State.streamError_stays | with_reducible apply State.countCtx_stays | with_reducible apply State.setCtx_stays | split))

theorem State.streamBad_stays {k : Nat} (hk : Stays s0 s) : Stays s0 (State.streamBad s k) := by
  unfold State.streamBad
  repeat' (first
    | ((try lift_lets); intro (x : State); refine Stays.via (s := s0) (x := x) ?_ (fun hx => ?_); rotate_left; clear_value x; rotate_left; unfold x)
    | ((try lift_lets); intro x; clear_value x)
    | with_reducible assumption
    | with_reducible apply State.endCtx_stays
    | split
    | (dsimp only)
    | (with_reducible apply Stays.upd; first | with_reducible assumption | with_reducible apply State.endCtx_stays | split))

theorem State.cancelStreams_stays {p : Fin 2} {scope key : Nat} (hk : Stays s0 s) : Stays s0 (State.cancelStreams s p scope key) := by
  unfold State.cancelStreams
  repeat' (first
    | ((try lift_lets); intro (x : State); refine Stays.via (s := s0) (x := x) ?_ (fun hx => ?_); rotate_left; clear_value x; rotate_left; unfold x)
    | ((try lift_lets); intro x; clear_value x)
    | with_reducible assumption
    | with_reducible apply State.endCtx_stays
    | with_reducible refine Stays.foldl ?_ (fun u x hu => ?_)
    | split
    | (dsimp only)
    | (with_reducible apply Stays.upd; first | with_reducible assumption | with_reducible apply State.endCtx_stays | split))

end Sys2Proof.Machine
end

