-- ==== Sys2Proof/Laws/KeepsMarkers.lean ====
section
/-!
SUPPORT. What the operations of Machine/Markers keep (Laws/Keeps).
-/
namespace Sys2Proof.Machine

set_option linter.all false

variable {s0 s : State}

theorem execOpMsig_stays {a : TileAddr} {task : Fin 4} {slot : Fin 128} : StaysOut s (execOpMsig a task slot s) := by
  unfold execOpMsig
  have hk : Stays s s := Stays.refl s
  repeat' (first
    | with_reducible apply StaysOut.next
    | ((try lift_lets); intro (x : State); refine Stays.via (s := s) (x := x) ?_ (fun hx => ?_); rotate_left; clear_value x; rotate_left; unfold x)
    | ((try lift_lets); intro x; clear_value x)
    | with_reducible assumption
    | with_reducible refine State.fire_stays ?_ (fun w t u hu => ?_)
    | with_reducible apply State.signal_stays
    | split
    | (dsimp only)
    | (with_reducible apply Stays.upd; first | with_reducible assumption | with_reducible refine State.fire_stays ?_ (fun w t u hu => ?_) | with_reducible apply State.signal_stays | split))

theorem execOpMsigWatch_stays {a : TileAddr} {task : Fin 4} {slot : Fin 128} : StaysOut s (execOpMsigWatch a task slot s) := by
  unfold execOpMsigWatch
  have hk : Stays s s := Stays.refl s
  repeat' (first
    | with_reducible apply StaysOut.next
    | ((try lift_lets); intro (x : State); refine Stays.via (s := s) (x := x) ?_ (fun hx => ?_); rotate_left; clear_value x; rotate_left; unfold x)
    | ((try lift_lets); intro x; clear_value x)
    | with_reducible assumption
    | with_reducible apply State.count_stays
    | with_reducible apply State.setTile_stays
    | with_reducible refine State.fire_stays ?_ (fun w t u hu => ?_)
    | split
    | (dsimp only)
    | (with_reducible apply Stays.upd; first | with_reducible assumption | with_reducible apply State.count_stays | with_reducible apply State.setTile_stays | with_reducible refine State.fire_stays ?_ (fun w t u hu => ?_) | split))

theorem execOpBarr_stays {a : TileAddr} {task : Fin 4} {slot : Fin 128} : StaysOut s (execOpBarr a task slot s) := by
  unfold execOpBarr
  have hk : Stays s s := Stays.refl s
  repeat' (first
    | with_reducible apply StaysOut.next
    | ((try lift_lets); intro (x : State); refine Stays.via (s := s) (x := x) ?_ (fun hx => ?_); rotate_left; clear_value x; rotate_left; unfold x)
    | ((try lift_lets); intro x; clear_value x)
    | with_reducible assumption
    | with_reducible apply State.openChannel_stays
    | with_reducible apply State.count_stays
    | with_reducible apply State.setTile_stays
    | with_reducible refine State.fire_stays ?_ (fun w t u hu => ?_)
    | with_reducible apply State.markerCapture_stays
    | split
    | (dsimp only)
    | (with_reducible apply Stays.upd; first | with_reducible assumption | with_reducible apply State.openChannel_stays | with_reducible apply State.count_stays | with_reducible apply State.setTile_stays | with_reducible refine State.fire_stays ?_ (fun w t u hu => ?_) | with_reducible apply State.markerCapture_stays | split))

theorem State.applyMark_stays {f : FieldAddr} {op : MarkOp} (hk : Stays s0 s) : Stays s0 (State.applyMark s f op) := by
  unfold State.applyMark
  repeat' (first
    | ((try lift_lets); intro (x : State); refine Stays.via (s := s0) (x := x) ?_ (fun hx => ?_); rotate_left; clear_value x; rotate_left; unfold x)
    | ((try lift_lets); intro x; clear_value x)
    | with_reducible assumption
    | with_reducible apply State.count_stays
    | with_reducible apply State.setField_stays
    | with_reducible apply State.countIrq_stays
    | split
    | (dsimp only)
    | (with_reducible apply Stays.upd; first | with_reducible assumption | with_reducible apply State.count_stays | with_reducible apply State.setField_stays | with_reducible apply State.countIrq_stays | split))

theorem State.evalWatches_stays {f : FieldAddr} (hk : Stays s0 s) : Stays s0 (State.evalWatches s f) := by
  unfold State.evalWatches
  repeat' (first
    | ((try lift_lets); intro (x : State); refine Stays.via (s := s0) (x := x) ?_ (fun hx => ?_); rotate_left; clear_value x; rotate_left; unfold x)
    | ((try lift_lets); intro x; clear_value x)
    | with_reducible assumption
    | with_reducible apply State.setTile_stays
    | with_reducible refine Stays.foldl ?_ (fun u x hu => ?_)
    | split
    | (dsimp only)
    | (with_reducible apply Stays.upd; first | with_reducible assumption | with_reducible apply State.setTile_stays | split))

theorem execMarkerUpdate_stays {f : FieldAddr} : StaysOut s (execMarkerUpdate f s) := by
  unfold execMarkerUpdate
  have hk : Stays s s := Stays.refl s
  repeat' (first
    | with_reducible apply StaysOut.next
    | ((try lift_lets); intro (x : State); refine Stays.via (s := s) (x := x) ?_ (fun hx => ?_); rotate_left; clear_value x; rotate_left; unfold x)
    | ((try lift_lets); intro x; clear_value x)
    | with_reducible assumption
    | with_reducible apply State.noteDry_stays
    | with_reducible apply State.answer_stays
    | with_reducible apply State.setField_stays
    | with_reducible apply State.evalWatches_stays
    | with_reducible apply State.applyMark_stays
    | with_reducible apply State.sendFrame_stays
    | with_reducible apply State.evalWaits_stays
    | with_reducible apply State.complete_stays
    | with_reducible refine Stays.foldl ?_ (fun u x hu => ?_)
    | split
    | (dsimp only)
    | (with_reducible apply Stays.upd; first | with_reducible assumption | with_reducible apply State.noteDry_stays | with_reducible apply State.answer_stays | with_reducible apply State.setField_stays | with_reducible apply State.evalWatches_stays | with_reducible apply State.applyMark_stays | with_reducible apply State.sendFrame_stays | with_reducible apply State.evalWaits_stays | with_reducible apply State.complete_stays | split))

theorem execMarkerWrite_stays {q : Fin 64} : StaysOut s (execMarkerWrite q s) := by
  unfold execMarkerWrite
  have hk : Stays s s := Stays.refl s
  repeat' (first
    | with_reducible apply StaysOut.next
    | ((try lift_lets); intro (x : State); refine Stays.via (s := s) (x := x) ?_ (fun hx => ?_); rotate_left; clear_value x; rotate_left; unfold x)
    | ((try lift_lets); intro x; clear_value x)
    | with_reducible assumption
    | with_reducible apply State.answer_stays
    | with_reducible apply State.markOp_stays
    | with_reducible apply State.complete_stays
    | with_reducible apply State.setStage_stays
    | split
    | (dsimp only)
    | (with_reducible apply Stays.upd; first | with_reducible assumption | with_reducible apply State.answer_stays | with_reducible apply State.markOp_stays | with_reducible apply State.complete_stays | with_reducible apply State.setStage_stays | split))

theorem execWatchDelivery_stays {a : TileAddr} {task : Fin 4} : StaysOut s (execWatchDelivery a task s) := by
  unfold execWatchDelivery
  have hk : Stays s s := Stays.refl s
  repeat' (first
    | with_reducible apply StaysOut.next
    | ((try lift_lets); intro (x : State); refine Stays.via (s := s) (x := x) ?_ (fun hx => ?_); rotate_left; clear_value x; rotate_left; unfold x)
    | ((try lift_lets); intro x; clear_value x)
    | with_reducible assumption
    | with_reducible apply State.enterCq_stays
    | with_reducible apply State.count_stays
    | with_reducible apply State.setTile_stays
    | split
    | (dsimp only)
    | (with_reducible apply Stays.upd; first | with_reducible assumption | with_reducible apply State.enterCq_stays | with_reducible apply State.count_stays | with_reducible apply State.setTile_stays | split))

theorem State.fieldTimeout_stays {f : FieldAddr} {row col : Nat} {named : Bool} (hk : Stays s0 s) : Stays s0 (State.fieldTimeout s f row col named) := by
  unfold State.fieldTimeout
  repeat' (first
    | ((try lift_lets); intro (x : State); refine Stays.via (s := s0) (x := x) ?_ (fun hx => ?_); rotate_left; clear_value x; rotate_left; unfold x)
    | ((try lift_lets); intro x; clear_value x)
    | with_reducible assumption
    | split
    | (dsimp only)
    | (with_reducible apply Stays.upd; first | with_reducible assumption | split))

theorem execWatchTimeout_stays {a : TileAddr} {task : Fin 4} : StaysOut s (execWatchTimeout a task s) := by
  unfold execWatchTimeout
  have hk : Stays s s := Stays.refl s
  repeat' (first
    | with_reducible apply StaysOut.next
    | ((try lift_lets); intro (x : State); refine Stays.via (s := s) (x := x) ?_ (fun hx => ?_); rotate_left; clear_value x; rotate_left; unfold x)
    | ((try lift_lets); intro x; clear_value x)
    | with_reducible assumption
    | with_reducible apply State.raiseOnce_stays
    | with_reducible apply State.count_stays
    | with_reducible apply State.setTile_stays
    | with_reducible apply State.fieldTimeout_stays
    | with_reducible apply State.markerCapture_stays
    | split
    | (dsimp only)
    | (with_reducible apply Stays.upd; first | with_reducible assumption | with_reducible apply State.raiseOnce_stays | with_reducible apply State.count_stays | with_reducible apply State.setTile_stays | with_reducible apply State.fieldTimeout_stays | with_reducible apply State.markerCapture_stays | split))

theorem State.setRemote_stays {p : Fin 2} {ch : Nat} {v : Bool} (hk : Stays s0 s) : Stays s0 (State.setRemote s p ch v) := by
  unfold State.setRemote
  repeat' (first
    | ((try lift_lets); intro (x : State); refine Stays.via (s := s0) (x := x) ?_ (fun hx => ?_); rotate_left; clear_value x; rotate_left; unfold x)
    | ((try lift_lets); intro x; clear_value x)
    | with_reducible assumption
    | split
    | (dsimp only)
    | (with_reducible apply Stays.upd; first | with_reducible assumption | split))

theorem State.sendCompletion_stays {p : Fin 2} {ch : Nat} (hk : Stays s0 s) : Stays s0 (State.sendCompletion s p ch) := by
  unfold State.sendCompletion
  repeat' (first
    | ((try lift_lets); intro (x : State); refine Stays.via (s := s0) (x := x) ?_ (fun hx => ?_); rotate_left; clear_value x; rotate_left; unfold x)
    | ((try lift_lets); intro x; clear_value x)
    | with_reducible assumption
    | with_reducible apply State.barrierToken_stays
    | with_reducible apply State.setTile_stays
    | with_reducible refine Stays.foldl ?_ (fun u x hu => ?_)
    | split
    | (dsimp only)
    | (with_reducible apply Stays.upd; first | with_reducible assumption | with_reducible apply State.barrierToken_stays | with_reducible apply State.setTile_stays | split))

theorem State.aeCompletion_stays {p : Fin 2} (hk : Stays s0 s) : Stays s0 (State.aeCompletion s p) := by
  unfold State.aeCompletion
  repeat' (first
    | ((try lift_lets); intro (x : State); refine Stays.via (s := s0) (x := x) ?_ (fun hx => ?_); rotate_left; clear_value x; rotate_left; unfold x)
    | ((try lift_lets); intro x; clear_value x)
    | with_reducible assumption
    | with_reducible apply State.passEnd_stays
    | with_reducible apply State.passGo_stays
    | with_reducible apply State.setAe_stays
    | split
    | (dsimp only)
    | (with_reducible apply Stays.upd; first | with_reducible assumption | with_reducible apply State.passEnd_stays | with_reducible apply State.passGo_stays | with_reducible apply State.setAe_stays | split))

theorem execBarrierComplete_stays {p : Fin 2} {ch : Fin 16} : StaysOut s (execBarrierComplete p ch s) := by
  unfold execBarrierComplete
  have hk : Stays s s := Stays.refl s
  repeat' (first
    | with_reducible apply StaysOut.next
    | ((try lift_lets); intro (x : State); refine Stays.via (s := s) (x := x) ?_ (fun hx => ?_); rotate_left; clear_value x; rotate_left; unfold x)
    | ((try lift_lets); intro x; clear_value x)
    | with_reducible assumption
    | with_reducible apply State.count_stays
    | with_reducible apply State.setF_stays
    | with_reducible apply State.aeCompletion_stays
    | with_reducible apply State.sendCompletion_stays
    | with_reducible apply State.setRemote_stays
    | split
    | (dsimp only)
    | (with_reducible apply Stays.upd; first | with_reducible assumption | with_reducible apply State.count_stays | with_reducible apply State.setF_stays | with_reducible apply State.aeCompletion_stays | with_reducible apply State.sendCompletion_stays | with_reducible apply State.setRemote_stays | split))

theorem execBarrierWatchdog_stays {p : Fin 2} {ch : Fin 16} : StaysOut s (execBarrierWatchdog p ch s) := by
  unfold execBarrierWatchdog
  have hk : Stays s s := Stays.refl s
  repeat' (first
    | with_reducible apply StaysOut.next
    | ((try lift_lets); intro (x : State); refine Stays.via (s := s) (x := x) ?_ (fun hx => ?_); rotate_left; clear_value x; rotate_left; unfold x)
    | ((try lift_lets); intro x; clear_value x)
    | with_reducible assumption
    | with_reducible apply State.planeCause_stays
    | with_reducible apply State.raise_stays
    | with_reducible apply State.captureFirst_stays
    | with_reducible apply State.count_stays
    | with_reducible apply State.setErr_stays
    | with_reducible apply State.setF_stays
    | with_reducible apply State.fieldTimeout_stays
    | with_reducible apply State.markerCapture_stays
    | with_reducible refine Stays.foldl ?_ (fun u x hu => ?_)
    | split
    | (dsimp only)
    | (with_reducible apply Stays.upd; first | with_reducible assumption | with_reducible apply State.planeCause_stays | with_reducible apply State.raise_stays | with_reducible apply State.captureFirst_stays | with_reducible apply State.count_stays | with_reducible apply State.setErr_stays | with_reducible apply State.setF_stays | with_reducible apply State.fieldTimeout_stays | with_reducible apply State.markerCapture_stays | split))

theorem execMrkSel_stays {f : FieldAddr} {fw : Bool} {value : W64} : StaysOut s (execMrkSel f fw value s) := by
  unfold execMrkSel
  have hk : Stays s s := Stays.refl s
  repeat' (first
    | with_reducible apply StaysOut.next
    | ((try lift_lets); intro (x : State); refine Stays.via (s := s) (x := x) ?_ (fun hx => ?_); rotate_left; clear_value x; rotate_left; unfold x)
    | ((try lift_lets); intro x; clear_value x)
    | with_reducible assumption
    | with_reducible refine State.regWrite_stays ?_ (fun u hu => ?_)
    | with_reducible apply State.setF_stays
    | split
    | (dsimp only)
    | (with_reducible apply Stays.upd; first | with_reducible assumption | with_reducible refine State.regWrite_stays ?_ (fun u hu => ?_) | with_reducible apply State.setF_stays | split))

theorem State.markSnap_stays {f : FieldAddr} (hk : Stays s0 s) : Stays s0 (State.markSnap s f) := by
  unfold State.markSnap
  repeat' (first
    | ((try lift_lets); intro (x : State); refine Stays.via (s := s0) (x := x) ?_ (fun hx => ?_); rotate_left; clear_value x; rotate_left; unfold x)
    | ((try lift_lets); intro x; clear_value x)
    | with_reducible assumption
    | with_reducible apply State.setF_stays
    | with_reducible apply State.setReg_stays
    | with_reducible refine Stays.foldl ?_ (fun u x hu => ?_)
    | split
    | (dsimp only)
    | (with_reducible apply Stays.upd; first | with_reducible assumption | with_reducible apply State.setF_stays | with_reducible apply State.setReg_stays | split))

end Sys2Proof.Machine
end

