-- ==== Sys2Proof/Laws/KeepsExchangeOps.lean ====
section
/-!
SUPPORT. What the operations of Machine/ExchangeOps keep (Laws/Keeps).
-/
namespace Sys2Proof.Machine

set_option linter.all false

variable {s0 s : State}

theorem State.vlxCapture_stays {p : Fin 2} {kind code port op peer cid : Nat} {wm : Waymark} {hw : Bool} (hk : Stays s0 s) : Stays s0 (State.vlxCapture s p kind code port op peer cid wm hw) := by
  unfold State.vlxCapture
  repeat' (first
    | ((try lift_lets); intro (x : State); refine Stays.via (s := s0) (x := x) ?_ (fun hx => ?_); rotate_left; clear_value x; rotate_left; unfold x)
    | ((try lift_lets); intro x; clear_value x)
    | with_reducible assumption
    | with_reducible apply State.raiseOnce_stays
    | with_reducible apply State.captureFirst_stays
    | with_reducible apply State.setErr_stays
    | split
    | (dsimp only)
    | (with_reducible apply Stays.upd; first | with_reducible assumption | with_reducible apply State.raiseOnce_stays | with_reducible apply State.captureFirst_stays | with_reducible apply State.setErr_stays | split))

theorem State.dedup_stays {p : Fin 2} {node cid : Nat} (hk : Stays s0 s) : Stays s0 (State.dedup s p node cid).2 := by
  unfold State.dedup
  repeat' (first
    | ((try lift_lets); intro (x : State); refine Stays.via (s := s0) (x := x) ?_ (fun hx => ?_); rotate_left; clear_value x; rotate_left; unfold x)
    | ((try lift_lets); intro x; clear_value x)
    | with_reducible assumption
    | split
    | (dsimp only)
    | (with_reducible apply Stays.upd; first | with_reducible assumption | split))

theorem State.noteDest_stays {p : Fin 2} {wm node : Nat} (hk : Stays s0 s) : Stays s0 (State.noteDest s p wm node) := by
  unfold State.noteDest
  repeat' (first
    | ((try lift_lets); intro (x : State); refine Stays.via (s := s0) (x := x) ?_ (fun hx => ?_); rotate_left; clear_value x; rotate_left; unfold x)
    | ((try lift_lets); intro (x : _ → _); dsimp -zeta only [x]; clear x)
    | ((try lift_lets); intro x; clear_value x)
    | with_reducible assumption
    | split
    | (dsimp only)
    | (with_reducible apply Stays.upd; first | with_reducible assumption | split))

theorem State.setExch_stays {n : Nat} {x : Exch} (hk : Stays s0 s) : Stays s0 (State.setExch s n x) := by
  unfold State.setExch
  repeat' (first
    | ((try lift_lets); intro (x : State); refine Stays.via (s := s0) (x := x) ?_ (fun hx => ?_); rotate_left; clear_value x; rotate_left; unfold x)
    | ((try lift_lets); intro x; clear_value x)
    | with_reducible assumption
    | split
    | (dsimp only)
    | (with_reducible apply Stays.upd; first | with_reducible assumption | split))

theorem State.endExch_stays {n status : Nat} {k : Nat} (hk : Stays s0 s) : Stays s0 (State.endExch s n status k) := by
  unfold State.endExch
  repeat' (first
    | ((try lift_lets); intro (x : State); refine Stays.via (s := s0) (x := x) ?_ (fun hx => ?_); rotate_left; clear_value x; rotate_left; unfold x)
    | ((try lift_lets); intro x; clear_value x)
    | with_reducible assumption
    | with_reducible apply State.vlxCapture_stays
    | with_reducible apply State.complete_stays
    | split
    | (dsimp only)
    | (with_reducible apply Stays.upd; first | with_reducible assumption | with_reducible apply State.vlxCapture_stays | with_reducible apply State.complete_stays | split))

theorem State.noteSent_stays {x : Exch} {f : Frame} {again : Bool} (hk : Stays s0 s) : Stays s0 (State.noteSent s x f again) := by
  unfold State.noteSent
  repeat' (first
    | ((try lift_lets); intro (x : State); refine Stays.via (s := s0) (x := x) ?_ (fun hx => ?_); rotate_left; clear_value x; rotate_left; unfold x)
    | ((try lift_lets); intro x; clear_value x)
    | with_reducible assumption
    | with_reducible apply State.countWm_stays
    | with_reducible apply State.noteDest_stays
    | split
    | (dsimp only)
    | (with_reducible apply Stays.upd; first | with_reducible assumption | with_reducible apply State.countWm_stays | with_reducible apply State.noteDest_stays | split))

theorem State.exDone_stays {n k : Nat} {first : Bool} (hk : Stays s0 s) : Stays s0 (State.exDone s n k first) := by
  unfold State.exDone
  repeat' (first
    | ((try lift_lets); intro (x : State); refine Stays.via (s := s0) (x := x) ?_ (fun hx => ?_); rotate_left; clear_value x; rotate_left; unfold x)
    | ((try lift_lets); intro x; clear_value x)
    | with_reducible assumption
    | with_reducible apply State.countWm_stays
    | with_reducible apply State.endExch_stays
    | with_reducible apply State.setExch_stays
    | split
    | (dsimp only)
    | (with_reducible apply Stays.upd; first | with_reducible assumption | with_reducible apply State.countWm_stays | with_reducible apply State.endExch_stays | with_reducible apply State.setExch_stays | split))

theorem State.exAnswer_stays {n k status : Nat} (hk : Stays s0 s) : Stays s0 (State.exAnswer s n k status) := by
  unfold State.exAnswer
  repeat' (first
    | ((try lift_lets); intro (x : State); refine Stays.via (s := s0) (x := x) ?_ (fun hx => ?_); rotate_left; clear_value x; rotate_left; unfold x)
    | ((try lift_lets); intro x; clear_value x)
    | with_reducible assumption
    | with_reducible apply State.exDone_stays
    | with_reducible apply State.endExch_stays
    | with_reducible apply State.setExch_stays
    | split
    | (dsimp only)
    | (with_reducible apply Stays.upd; first | with_reducible assumption | with_reducible apply State.exDone_stays | with_reducible apply State.endExch_stays | with_reducible apply State.setExch_stays | split))

theorem State.crossWrite_stays {p : Fin 2} {f : Frame} (hk : Stays s0 s) : Stays s0 (State.crossWrite s p f).2 := by
  unfold State.crossWrite
  repeat' (first
    | ((try lift_lets); intro (x : State); refine Stays.via (s := s0) (x := x) ?_ (fun hx => ?_); rotate_left; clear_value x; rotate_left; unfold x)
    | ((try lift_lets); intro (x : State × _); refine Stays.via (s := s0) (x := x.1) ?_ (fun hx => ?_); rotate_left; clear_value x; rotate_left; unfold x)
    | ((try lift_lets); intro (x : _ × State); refine Stays.via (s := s0) (x := x.2) ?_ (fun hx => ?_); rotate_left; clear_value x; rotate_left; unfold x)
    | ((try lift_lets); intro (x : _ → _); dsimp -zeta only [x]; clear x)
    | ((try lift_lets); intro x; clear_value x)
    | with_reducible assumption
    | with_reducible apply State.countWm_stays
    | with_reducible refine Stays.of_snd (State.dedup_stays ?_) (by assumption)
    | with_reducible apply State.dedup_stays
    | with_reducible apply State.vlxCapture_stays
    | with_reducible apply State.edgeWrite_stays
    | split
    | (dsimp only)
    | (with_reducible apply Stays.upd; first | with_reducible assumption | with_reducible apply State.countWm_stays | with_reducible refine Stays.of_snd (State.dedup_stays ?_) (by assumption) | with_reducible apply State.dedup_stays | with_reducible apply State.vlxCapture_stays | with_reducible apply State.edgeWrite_stays | split))

theorem State.sendEx_stays {n k : Nat} {again : Bool} (hk : Stays s0 s) : Stays s0 (State.sendEx s n k again) := by
  unfold State.sendEx
  repeat' (first
    | ((try lift_lets); intro (x : State); refine Stays.via (s := s0) (x := x) ?_ (fun hx => ?_); rotate_left; clear_value x; rotate_left; unfold x)
    | ((try lift_lets); intro (x : State × _); refine Stays.via (s := s0) (x := x.1) ?_ (fun hx => ?_); rotate_left; clear_value x; rotate_left; unfold x)
    | ((try lift_lets); intro (x : _ × State); refine Stays.via (s := s0) (x := x.2) ?_ (fun hx => ?_); rotate_left; clear_value x; rotate_left; unfold x)
    | ((try lift_lets); intro (x : _ → _); dsimp -zeta only [x]; clear x)
    | ((try lift_lets); intro x; clear_value x)
    | with_reducible assumption
    | with_reducible apply State.sendFrame_stays
    | with_reducible apply State.turn_stays
    | with_reducible refine Stays.of_snd (State.crossWrite_stays ?_) (by assumption)
    | with_reducible apply State.crossWrite_stays
    | with_reducible apply State.exAnswer_stays
    | with_reducible apply State.noteSent_stays
    | with_reducible apply State.setExch_stays
    | split
    | (dsimp only)
    | (with_reducible apply Stays.upd; first | with_reducible assumption | with_reducible apply State.sendFrame_stays | with_reducible apply State.turn_stays | with_reducible refine Stays.of_snd (State.crossWrite_stays ?_) (by assumption) | with_reducible apply State.crossWrite_stays | with_reducible apply State.exAnswer_stays | with_reducible apply State.noteSent_stays | with_reducible apply State.setExch_stays | split))

theorem State.formFrame_stays {n : Nat} {x : Exch} (hk : Stays s0 s) : Stays s0 (State.formFrame s n x) := by
  unfold State.formFrame
  repeat' (first
    | ((try lift_lets); intro (x : State); refine Stays.via (s := s0) (x := x) ?_ (fun hx => ?_); rotate_left; clear_value x; rotate_left; unfold x)
    | ((try lift_lets); intro (x : State × _); refine Stays.via (s := s0) (x := x.1) ?_ (fun hx => ?_); rotate_left; clear_value x; rotate_left; unfold x)
    | ((try lift_lets); intro (x : _ × State); refine Stays.via (s := s0) (x := x.2) ?_ (fun hx => ?_); rotate_left; clear_value x; rotate_left; unfold x)
    | ((try lift_lets); intro x; clear_value x)
    | with_reducible assumption
    | with_reducible apply State.sendEx_stays
    | with_reducible apply State.endExch_stays
    | with_reducible apply State.setExch_stays
    | with_reducible refine Stays.of_fst (State.edgeRead_stays ?_) (by assumption)
    | with_reducible apply State.edgeRead_stays
    | with_reducible apply State.retain_stays
    | split
    | (dsimp only)
    | (with_reducible apply Stays.upd; first | with_reducible assumption | with_reducible apply State.sendEx_stays | with_reducible apply State.endExch_stays | with_reducible apply State.setExch_stays | with_reducible refine Stays.of_fst (State.edgeRead_stays ?_) (by assumption) | with_reducible apply State.edgeRead_stays | with_reducible apply State.retain_stays | split))

theorem cancelExchs_stays {p : Fin 2} {scope key n : Nat} :
    ∀ {s : State}, Stays s0 s → Stays s0 (cancelExchs p scope key n s) := by
  induction n with
  | zero => exact fun h => h
  | succ n ih =>
    intro s h
    unfold cancelExchs
    split
    · exact ih (State.endExch_stays h)
    · exact h

theorem State.cancelExchanges_stays {p : Fin 2} {scope key : Nat} (hk : Stays s0 s) : Stays s0 (State.cancelExchanges s p scope key) := by
  unfold State.cancelExchanges
  repeat' (first
    | ((try lift_lets); intro (x : State); refine Stays.via (s := s0) (x := x) ?_ (fun hx => ?_); rotate_left; clear_value x; rotate_left; unfold x)
    | ((try lift_lets); intro x; clear_value x)
    | with_reducible assumption
    | with_reducible apply cancelExchs_stays
    | split
    | (dsimp only)
    | (with_reducible apply Stays.upd; first | with_reducible assumption | with_reducible apply cancelExchs_stays | split))

theorem State.taint_stays {wm kind attempt plane slot : Nat} {at' : Where} (hk : Stays s0 s) : Stays s0 (State.taint s wm kind attempt plane slot at') := by
  unfold State.taint
  repeat' (first
    | ((try lift_lets); intro (x : State); refine Stays.via (s := s0) (x := x) ?_ (fun hx => ?_); rotate_left; clear_value x; rotate_left; unfold x)
    | ((try lift_lets); intro (x : _ → _); dsimp -zeta only [x]; clear x)
    | ((try lift_lets); intro x; clear_value x)
    | with_reducible assumption
    | with_reducible apply State.raise_stays
    | with_reducible apply State.count_stays
    | with_reducible apply State.setIrq_stays
    | with_reducible apply State.turn_stays
    | split
    | (dsimp only)
    | (with_reducible apply Stays.upd; first | with_reducible assumption | with_reducible apply State.raise_stays | with_reducible apply State.count_stays | with_reducible apply State.setIrq_stays | with_reducible apply State.turn_stays | split))

end Sys2Proof.Machine
end

