-- ==== Sys2Proof/Laws/KeepsStreams.lean ====
section
/-!
SUPPORT. What the operations of Machine/Streams keep (Laws/Keeps).
-/
namespace Sys2Proof.Machine

set_option linter.all false

variable {s0 s : State}

theorem State.refuseOpen_stays {p : Fin 2} {q : Nat} {r : EngRec} {status refuse field : Nat} (hk : Stays s0 s) : Stays s0 (State.refuseOpen s p q r status refuse field) := by
  unfold State.refuseOpen
  repeat' (first
    | ((try lift_lets); intro (x : State); refine Stays.via (s := s0) (x := x) ?_ (fun hx => ?_); rotate_left; clear_value x; rotate_left; unfold x)
    | ((try lift_lets); intro x; clear_value x)
    | with_reducible assumption
    | with_reducible apply State.streamError_stays
    | with_reducible apply State.countWm_stays
    | with_reducible apply State.complete_stays
    | split
    | (dsimp only)
    | (with_reducible apply Stays.upd; first | with_reducible assumption | with_reducible apply State.streamError_stays | with_reducible apply State.countWm_stays | with_reducible apply State.complete_stays | split))

theorem execStreamOpen_stays {p : Fin 2} : StaysOut s (execStreamOpen p s) := by
  unfold execStreamOpen
  have hk : Stays s s := Stays.refl s
  repeat' (first
    | with_reducible apply StaysOut.next
    | ((try lift_lets); intro (x : State); refine Stays.via (s := s) (x := x) ?_ (fun hx => ?_); rotate_left; clear_value x; rotate_left; unfold x)
    | ((try lift_lets); intro x; clear_value x)
    | with_reducible assumption
    | with_reducible apply State.refuseOpen_stays
    | with_reducible apply State.setCtx_stays
    | with_reducible apply State.countWm_stays
    | with_reducible apply State.setStage_stays
    | split
    | (dsimp only)
    | (with_reducible apply Stays.upd; first | with_reducible assumption | with_reducible apply State.refuseOpen_stays | with_reducible apply State.setCtx_stays | with_reducible apply State.countWm_stays | with_reducible apply State.setStage_stays | split))

theorem execStreamCancel_stays {p : Fin 2} : StaysOut s (execStreamCancel p s) := by
  unfold execStreamCancel
  have hk : Stays s s := Stays.refl s
  repeat' (first
    | with_reducible apply StaysOut.next
    | ((try lift_lets); intro (x : State); refine Stays.via (s := s) (x := x) ?_ (fun hx => ?_); rotate_left; clear_value x; rotate_left; unfold x)
    | ((try lift_lets); intro x; clear_value x)
    | with_reducible assumption
    | with_reducible apply State.cancelStreams_stays
    | with_reducible apply State.cancelsDone_stays
    | with_reducible apply State.setQueue_stays
    | split
    | (dsimp only)
    | (with_reducible apply Stays.upd; first | with_reducible assumption | with_reducible apply State.cancelStreams_stays | with_reducible apply State.cancelsDone_stays | with_reducible apply State.setQueue_stays | split))

theorem execStreamDeliverStart_stays {p : Fin 2} {ctx : Nat} : StaysOut s (execStreamDeliverStart p ctx s) := by
  unfold execStreamDeliverStart
  have hk : Stays s s := Stays.refl s
  repeat' (first
    | with_reducible apply StaysOut.next
    | ((try lift_lets); intro (x : State); refine Stays.via (s := s) (x := x) ?_ (fun hx => ?_); rotate_left; clear_value x; rotate_left; unfold x)
    | ((try lift_lets); intro x; clear_value x)
    | with_reducible assumption
    | with_reducible apply State.endCtx_stays
    | with_reducible apply State.setCtx_stays
    | with_reducible apply State.answer_stays
    | with_reducible apply State.markOp_stays
    | split
    | (dsimp only)
    | (with_reducible apply Stays.upd; first | with_reducible assumption | with_reducible apply State.endCtx_stays | with_reducible apply State.setCtx_stays | with_reducible apply State.answer_stays | with_reducible apply State.markOp_stays | split))

theorem execStreamRequest_stays {p : Fin 2} {server : Bool} {port : Fin 32} {starved : List Nat} : StaysOut s (execStreamRequest p server port starved s) := by
  unfold execStreamRequest
  have hk : Stays s s := Stays.refl s
  repeat' (first
    | with_reducible apply StaysOut.next
    | ((try lift_lets); intro (x : State); refine Stays.via (s := s) (x := x) ?_ (fun hx => ?_); rotate_left; clear_value x; rotate_left; unfold x)
    | ((try lift_lets); intro x; clear_value x)
    | with_reducible assumption
    | with_reducible apply State.countCtxIrq_stays
    | with_reducible apply State.notePeak_stays
    | with_reducible apply State.setCtx_stays
    | with_reducible apply State.sendFrame_stays
    | split
    | (dsimp only)
    | (with_reducible apply Stays.upd; first | with_reducible assumption | with_reducible apply State.countCtxIrq_stays | with_reducible apply State.notePeak_stays | with_reducible apply State.setCtx_stays | with_reducible apply State.sendFrame_stays | split))

theorem State.reqBack_stays {k : Nat} {r : StreamReq} {bytes : List (Nat × Byte)} {failed : Bool} (hk : Stays s0 s) : Stays s0 (State.reqBack s k r bytes failed) := by
  unfold State.reqBack
  repeat' (first
    | ((try lift_lets); intro (x : State); refine Stays.via (s := s0) (x := x) ?_ (fun hx => ?_); rotate_left; clear_value x; rotate_left; unfold x)
    | ((try lift_lets); intro x; clear_value x)
    | with_reducible assumption
    | with_reducible apply State.streamBad_stays
    | with_reducible apply State.noteDry_stays
    | with_reducible apply State.countCtx_stays
    | with_reducible apply State.setCtx_stays
    | split
    | (dsimp only)
    | (with_reducible apply Stays.upd; first | with_reducible assumption | with_reducible apply State.streamBad_stays | with_reducible apply State.noteDry_stays | with_reducible apply State.countCtx_stays | with_reducible apply State.setCtx_stays | split))

theorem State.edgeBack_stays {k : Nat} {r : StreamReq} (hk : Stays s0 s) : Stays s0 (State.edgeBack s k r) := by
  unfold State.edgeBack
  repeat' (first
    | ((try lift_lets); intro (x : State); refine Stays.via (s := s0) (x := x) ?_ (fun hx => ?_); rotate_left; clear_value x; rotate_left; unfold x)
    | ((try lift_lets); intro (x : State × _); refine Stays.via (s := s0) (x := x.1) ?_ (fun hx => ?_); rotate_left; clear_value x; rotate_left; unfold x)
    | ((try lift_lets); intro (x : _ × State); refine Stays.via (s := s0) (x := x.2) ?_ (fun hx => ?_); rotate_left; clear_value x; rotate_left; unfold x)
    | ((try lift_lets); intro x; clear_value x)
    | with_reducible assumption
    | with_reducible apply State.reqBack_stays
    | with_reducible apply State.countCtx_stays
    | with_reducible refine Stays.of_fst (State.edgeRead_stays ?_) (by assumption)
    | with_reducible apply State.edgeRead_stays
    | with_reducible refine Stays.foldl ?_ (fun u x hu => ?_)
    | with_reducible refine Stays.foldl_fst ?_ (fun u x hu => ?_)
    | split
    | (dsimp only)
    | (with_reducible apply Stays.upd; first | with_reducible assumption | with_reducible apply State.reqBack_stays | with_reducible apply State.countCtx_stays | with_reducible refine Stays.of_fst (State.edgeRead_stays ?_) (by assumption) | with_reducible apply State.edgeRead_stays | split))

theorem State.readResp_stays {p : Fin 2} {f : Frame} (hk : Stays s0 s) : Stays s0 (State.readResp s p f) := by
  unfold State.readResp
  repeat' (first
    | ((try lift_lets); intro (x : State); refine Stays.via (s := s0) (x := x) ?_ (fun hx => ?_); rotate_left; clear_value x; rotate_left; unfold x)
    | ((try lift_lets); intro x; clear_value x)
    | with_reducible assumption
    | with_reducible apply State.reqBack_stays
    | with_reducible apply State.countCtx_stays
    | with_reducible apply State.countWm_stays
    | split
    | (dsimp only)
    | (with_reducible apply Stays.upd; first | with_reducible assumption | with_reducible apply State.reqBack_stays | with_reducible apply State.countCtx_stays | with_reducible apply State.countWm_stays | split))

theorem State.resendReq_stays {k : Nat} {r : StreamReq} {port : Nat} (hk : Stays s0 s) : Stays s0 (State.resendReq s k r port) := by
  unfold State.resendReq
  repeat' (first
    | ((try lift_lets); intro (x : State); refine Stays.via (s := s0) (x := x) ?_ (fun hx => ?_); rotate_left; clear_value x; rotate_left; unfold x)
    | ((try lift_lets); intro x; clear_value x)
    | with_reducible assumption
    | with_reducible apply State.countCtx_stays
    | with_reducible apply State.setCtx_stays
    | with_reducible apply State.sendFrame_stays
    | split
    | (dsimp only)
    | (with_reducible apply Stays.upd; first | with_reducible assumption | with_reducible apply State.countCtx_stays | with_reducible apply State.setCtx_stays | with_reducible apply State.sendFrame_stays | split))

theorem execStreamReadTimeout_stays {p : Fin 2} {ctx seq : Nat} : StaysOut s (execStreamReadTimeout p ctx seq s) := by
  unfold execStreamReadTimeout
  have hk : Stays s s := Stays.refl s
  repeat' (first
    | with_reducible apply StaysOut.next
    | ((try lift_lets); intro (x : State); refine Stays.via (s := s) (x := x) ?_ (fun hx => ?_); rotate_left; clear_value x; rotate_left; unfold x)
    | ((try lift_lets); intro x; clear_value x)
    | with_reducible assumption
    | with_reducible apply State.resendReq_stays
    | with_reducible apply State.streamBad_stays
    | with_reducible apply State.setCtx_stays
    | split
    | (dsimp only)
    | (with_reducible apply Stays.upd; first | with_reducible assumption | with_reducible apply State.resendReq_stays | with_reducible apply State.streamBad_stays | with_reducible apply State.setCtx_stays | split))

theorem execStreamStalled_stays {p : Fin 2} {ctx : Nat} : StaysOut s (execStreamStalled p ctx s) := by
  unfold execStreamStalled
  have hk : Stays s s := Stays.refl s
  repeat' (first
    | with_reducible apply StaysOut.next
    | ((try lift_lets); intro (x : State); refine Stays.via (s := s) (x := x) ?_ (fun hx => ?_); rotate_left; clear_value x; rotate_left; unfold x)
    | ((try lift_lets); intro x; clear_value x)
    | with_reducible assumption
    | with_reducible apply State.endCtx_stays
    | split
    | (dsimp only)
    | (with_reducible apply Stays.upd; first | with_reducible assumption | with_reducible apply State.endCtx_stays | split))

theorem execStreamContextRelease_stays {p : Fin 2} {ctx : Nat} : StaysOut s (execStreamContextRelease p ctx s) := by
  unfold execStreamContextRelease
  have hk : Stays s s := Stays.refl s
  repeat' (first
    | with_reducible apply StaysOut.next
    | ((try lift_lets); intro (x : State); refine Stays.via (s := s) (x := x) ?_ (fun hx => ?_); rotate_left; clear_value x; rotate_left; unfold x)
    | ((try lift_lets); intro x; clear_value x)
    | with_reducible assumption
    | with_reducible apply State.freeCtx_stays
    | split
    | (dsimp only)
    | (with_reducible apply Stays.upd; first | with_reducible assumption | with_reducible apply State.freeCtx_stays | split))

theorem State.injected_stays {k : Nat} {x : StreamPkt} (hk : Stays s0 s) : Stays s0 (State.injected s k x) := by
  unfold State.injected
  repeat' (first
    | ((try lift_lets); intro (x : State); refine Stays.via (s := s0) (x := x) ?_ (fun hx => ?_); rotate_left; clear_value x; rotate_left; unfold x)
    | ((try lift_lets); intro x; clear_value x)
    | with_reducible assumption
    | with_reducible apply State.streamBad_stays
    | with_reducible apply State.freeCtx_stays
    | with_reducible apply State.noteDry_stays
    | with_reducible apply State.countCtx_stays
    | with_reducible apply State.setCtx_stays
    | split
    | (dsimp only)
    | (with_reducible apply Stays.upd; first | with_reducible assumption | with_reducible apply State.streamBad_stays | with_reducible apply State.freeCtx_stays | with_reducible apply State.noteDry_stays | with_reducible apply State.countCtx_stays | with_reducible apply State.setCtx_stays | split))

theorem execStreamInject_stays {p : Fin 2} {ctx : Nat} : StaysOut s (execStreamInject p ctx s) := by
  unfold execStreamInject
  have hk : Stays s s := Stays.refl s
  repeat' (first
    | with_reducible apply StaysOut.next
    | ((try lift_lets); intro (x : State); refine Stays.via (s := s) (x := x) ?_ (fun hx => ?_); rotate_left; clear_value x; rotate_left; unfold x)
    | ((try lift_lets); intro (x : State × _); refine Stays.via (s := s) (x := x.1) ?_ (fun hx => ?_); rotate_left; clear_value x; rotate_left; unfold x)
    | ((try lift_lets); intro (x : _ × State); refine Stays.via (s := s) (x := x.2) ?_ (fun hx => ?_); rotate_left; clear_value x; rotate_left; unfold x)
    | ((try lift_lets); intro x; clear_value x)
    | with_reducible assumption
    | with_reducible apply State.injected_stays
    | with_reducible apply State.endCtx_stays
    | with_reducible apply State.inject_stays
    | with_reducible refine Stays.of_snd (State.freeBits_stays ?_) (by assumption)
    | with_reducible apply State.freeBits_stays
    | split
    | (dsimp only)
    | (with_reducible apply Stays.upd; first | with_reducible assumption | with_reducible apply State.injected_stays | with_reducible apply State.endCtx_stays | with_reducible apply State.inject_stays | with_reducible refine Stays.of_snd (State.freeBits_stays ?_) (by assumption) | with_reducible apply State.freeBits_stays | split))

theorem execSenCtxSel_stays {p : Fin 2} {fw : Bool} {value : W64} : StaysOut s (execSenCtxSel p fw value s) := by
  unfold execSenCtxSel
  have hk : Stays s s := Stays.refl s
  repeat' (first
    | with_reducible apply StaysOut.next
    | ((try lift_lets); intro (x : State); refine Stays.via (s := s) (x := x) ?_ (fun hx => ?_); rotate_left; clear_value x; rotate_left; unfold x)
    | ((try lift_lets); intro x; clear_value x)
    | with_reducible assumption
    | with_reducible refine State.regWrite_stays ?_ (fun u hu => ?_)
    | with_reducible apply State.setF_stays
    | split
    | (dsimp only)
    | (with_reducible apply Stays.upd; first | with_reducible assumption | with_reducible refine State.regWrite_stays ?_ (fun u hu => ?_) | with_reducible apply State.setF_stays | split))

theorem State.ctxSnap_stays {p : Fin 2} (hk : Stays s0 s) : Stays s0 (State.ctxSnap s p) := by
  unfold State.ctxSnap
  repeat' (first
    | ((try lift_lets); intro (x : State); refine Stays.via (s := s0) (x := x) ?_ (fun hx => ?_); rotate_left; clear_value x; rotate_left; unfold x)
    | ((try lift_lets); intro (x : State × _); refine Stays.via (s := s0) (x := x.1) ?_ (fun hx => ?_); rotate_left; clear_value x; rotate_left; unfold x)
    | ((try lift_lets); intro (x : _ × State); refine Stays.via (s := s0) (x := x.2) ?_ (fun hx => ?_); rotate_left; clear_value x; rotate_left; unfold x)
    | ((try lift_lets); intro x; clear_value x)
    | with_reducible assumption
    | with_reducible apply State.setF_stays
    | with_reducible apply State.setReg_stays
    | split
    | (dsimp only)
    | (with_reducible apply Stays.upd; first | with_reducible assumption | with_reducible apply State.setF_stays | with_reducible apply State.setReg_stays | split))

theorem execSenFopenSel_stays {p : Fin 2} {fw : Bool} {value : W64} : StaysOut s (execSenFopenSel p fw value s) := by
  unfold execSenFopenSel
  have hk : Stays s s := Stays.refl s
  repeat' (first
    | with_reducible apply StaysOut.next
    | ((try lift_lets); intro (x : State); refine Stays.via (s := s) (x := x) ?_ (fun hx => ?_); rotate_left; clear_value x; rotate_left; unfold x)
    | ((try lift_lets); intro x; clear_value x)
    | with_reducible assumption
    | with_reducible refine State.regWrite_stays ?_ (fun u hu => ?_)
    | split
    | (dsimp only)
    | (with_reducible apply Stays.upd; first | with_reducible assumption | with_reducible refine State.regWrite_stays ?_ (fun u hu => ?_) | split))

theorem State.fopenSnap_stays {p : Fin 2} (hk : Stays s0 s) : Stays s0 (State.fopenSnap s p) := by
  unfold State.fopenSnap
  repeat' (first
    | ((try lift_lets); intro (x : State); refine Stays.via (s := s0) (x := x) ?_ (fun hx => ?_); rotate_left; clear_value x; rotate_left; unfold x)
    | ((try lift_lets); intro (x : _ → _); dsimp -zeta only [x]; clear x)
    | ((try lift_lets); intro x; clear_value x)
    | with_reducible assumption
    | with_reducible apply State.setReg_stays
    | split
    | (dsimp only)
    | (with_reducible apply Stays.upd; first | with_reducible assumption | with_reducible apply State.setReg_stays | split))

end Sys2Proof.Machine
end

