-- ==== Sys2Proof/Laws/KeepsVolino.lean ====
section
/-!
SUPPORT. What the operations of Machine/Volino keep (Laws/Keeps).
-/
namespace Sys2Proof.Machine

set_option linter.all false

variable {s0 s : State}

theorem State.refuseExch_stays {x : Exch} {q index status : Nat} (hk : Stays s0 s) : Stays s0 (State.refuseExch s x q index status) := by
  unfold State.refuseExch
  repeat' (first
    | ((try lift_lets); intro (x : State); refine Stays.via (s := s0) (x := x) ?_ (fun hx => ?_); rotate_left; clear_value x; rotate_left; unfold x)
    | ((try lift_lets); intro x; clear_value x)
    | with_reducible assumption
    | with_reducible apply State.vlxCapture_stays
    | with_reducible apply State.complete_stays
    | split
    | (dsimp only)
    | (with_reducible apply Stays.upd; first | with_reducible assumption | with_reducible apply State.vlxCapture_stays | with_reducible apply State.complete_stays | split))

theorem State.openExch_stays {x : Exch} {q index : Nat} (hk : Stays s0 s) : Stays s0 (State.openExch s x q index) := by
  unfold State.openExch
  repeat' (first
    | ((try lift_lets); intro (x : State); refine Stays.via (s := s0) (x := x) ?_ (fun hx => ?_); rotate_left; clear_value x; rotate_left; unfold x)
    | ((try lift_lets); intro x; clear_value x)
    | with_reducible assumption
    | with_reducible apply State.setStage_stays
    | split
    | (dsimp only)
    | (with_reducible apply Stays.upd; first | with_reducible assumption | with_reducible apply State.setStage_stays | split))

theorem State.startExch_stays {p : Fin 2} {opcode op : Nat} (hk : Stays s0 s) : Stays s0 (State.startExch s p opcode op) := by
  unfold State.startExch
  repeat' (first
    | ((try lift_lets); intro (x : State); refine Stays.via (s := s0) (x := x) ?_ (fun hx => ?_); rotate_left; clear_value x; rotate_left; unfold x)
    | ((try lift_lets); intro x; clear_value x)
    | with_reducible assumption
    | with_reducible apply State.openExch_stays
    | with_reducible apply State.refuseExch_stays
    | split
    | (dsimp only)
    | (with_reducible apply Stays.upd; first | with_reducible assumption | with_reducible apply State.openExch_stays | with_reducible apply State.refuseExch_stays | split))

theorem execExchAccum_stays {p : Fin 2} : StaysOut s (execExchAccum p s) := by
  unfold execExchAccum
  have hk : Stays s s := Stays.refl s
  repeat' (first
    | with_reducible apply StaysOut.next
    | ((try lift_lets); intro (x : State); refine Stays.via (s := s) (x := x) ?_ (fun hx => ?_); rotate_left; clear_value x; rotate_left; unfold x)
    | ((try lift_lets); intro x; clear_value x)
    | with_reducible assumption
    | with_reducible apply State.startExch_stays
    | split
    | (dsimp only)
    | (with_reducible apply Stays.upd; first | with_reducible assumption | with_reducible apply State.startExch_stays | split))

theorem execExchWrite_stays {p : Fin 2} : StaysOut s (execExchWrite p s) := by
  unfold execExchWrite
  have hk : Stays s s := Stays.refl s
  repeat' (first
    | with_reducible apply StaysOut.next
    | ((try lift_lets); intro (x : State); refine Stays.via (s := s) (x := x) ?_ (fun hx => ?_); rotate_left; clear_value x; rotate_left; unfold x)
    | ((try lift_lets); intro x; clear_value x)
    | with_reducible assumption
    | with_reducible apply State.startExch_stays
    | split
    | (dsimp only)
    | (with_reducible apply Stays.upd; first | with_reducible assumption | with_reducible apply State.startExch_stays | split))

theorem execExchSignal_stays {p : Fin 2} : StaysOut s (execExchSignal p s) := by
  unfold execExchSignal
  have hk : Stays s s := Stays.refl s
  repeat' (first
    | with_reducible apply StaysOut.next
    | ((try lift_lets); intro (x : State); refine Stays.via (s := s) (x := x) ?_ (fun hx => ?_); rotate_left; clear_value x; rotate_left; unfold x)
    | ((try lift_lets); intro x; clear_value x)
    | with_reducible assumption
    | with_reducible apply State.openExch_stays
    | with_reducible apply State.refuseExch_stays
    | with_reducible apply State.count_stays
    | with_reducible apply State.turn_stays
    | split
    | (dsimp only)
    | (with_reducible apply Stays.upd; first | with_reducible assumption | with_reducible apply State.openExch_stays | with_reducible apply State.refuseExch_stays | with_reducible apply State.count_stays | with_reducible apply State.turn_stays | split))

theorem execExchCancel_stays {p : Fin 2} : StaysOut s (execExchCancel p s) := by
  unfold execExchCancel
  have hk : Stays s s := Stays.refl s
  repeat' (first
    | with_reducible apply StaysOut.next
    | ((try lift_lets); intro (x : State); refine Stays.via (s := s) (x := x) ?_ (fun hx => ?_); rotate_left; clear_value x; rotate_left; unfold x)
    | ((try lift_lets); intro x; clear_value x)
    | with_reducible assumption
    | with_reducible apply State.cancelExchanges_stays
    | with_reducible apply State.complete_stays
    | split
    | (dsimp only)
    | (with_reducible apply Stays.upd; first | with_reducible assumption | with_reducible apply State.cancelExchanges_stays | with_reducible apply State.complete_stays | split))

theorem execExchangeFrameSend_stays {n : Nat} : StaysOut s (execExchangeFrameSend n s) := by
  unfold execExchangeFrameSend
  have hk : Stays s s := Stays.refl s
  repeat' (first
    | with_reducible apply StaysOut.next
    | ((try lift_lets); intro (x : State); refine Stays.via (s := s) (x := x) ?_ (fun hx => ?_); rotate_left; clear_value x; rotate_left; unfold x)
    | ((try lift_lets); intro x; clear_value x)
    | with_reducible assumption
    | with_reducible apply State.formFrame_stays
    | split
    | (dsimp only)
    | (with_reducible apply Stays.upd; first | with_reducible assumption | with_reducible apply State.formFrame_stays | split))

theorem execAckTimeout_stays {n k : Nat} {final : Bool} : StaysOut s (execAckTimeout n k final s) := by
  unfold execAckTimeout
  have hk : Stays s s := Stays.refl s
  repeat' (first
    | with_reducible apply StaysOut.next
    | ((try lift_lets); intro (x : State); refine Stays.via (s := s) (x := x) ?_ (fun hx => ?_); rotate_left; clear_value x; rotate_left; unfold x)
    | ((try lift_lets); intro x; clear_value x)
    | with_reducible assumption
    | with_reducible apply State.sendEx_stays
    | with_reducible apply State.endExch_stays
    | split
    | (dsimp only)
    | (with_reducible apply Stays.upd; first | with_reducible assumption | with_reducible apply State.sendEx_stays | with_reducible apply State.endExch_stays | split))

theorem execBusyBackoff_stays {n k : Nat} : StaysOut s (execBusyBackoff n k s) := by
  unfold execBusyBackoff
  have hk : Stays s s := Stays.refl s
  repeat' (first
    | with_reducible apply StaysOut.next
    | ((try lift_lets); intro (x : State); refine Stays.via (s := s) (x := x) ?_ (fun hx => ?_); rotate_left; clear_value x; rotate_left; unfold x)
    | ((try lift_lets); intro x; clear_value x)
    | with_reducible assumption
    | with_reducible apply State.sendEx_stays
    | split
    | (dsimp only)
    | (with_reducible apply Stays.upd; first | with_reducible assumption | with_reducible apply State.sendEx_stays | split))

theorem State.refuseFrame_stays {l : Nat} {p : Fin 2} {f : Frame} {code : Nat} (hk : Stays s0 s) : Stays s0 (State.refuseFrame s l p f code) := by
  unfold State.refuseFrame
  repeat' (first
    | ((try lift_lets); intro (x : State); refine Stays.via (s := s0) (x := x) ?_ (fun hx => ?_); rotate_left; clear_value x; rotate_left; unfold x)
    | ((try lift_lets); intro x; clear_value x)
    | with_reducible assumption
    | with_reducible apply State.countWm_stays
    | with_reducible apply State.answerFrame_stays
    | with_reducible apply State.vlxCapture_stays
    | split
    | (dsimp only)
    | (with_reducible apply Stays.upd; first | with_reducible assumption | with_reducible apply State.countWm_stays | with_reducible apply State.answerFrame_stays | with_reducible apply State.vlxCapture_stays | split))

theorem State.once_stays {l : Nat} {p : Fin 2} {f : Frame} {act : State → State} (h : Stays s0 s)
    (ha : ∀ u, Stays s0 u → Stays s0 (act u)) : Stays s0 (s.once l p f act) := by
  unfold State.once
  dsimp only
  split
  · exact State.answerFrame_stays (State.countWm_stays (State.dedup_stays h))
  · exact State.answerFrame_stays (State.countWm_stays (State.dedup_stays h))
  · exact ha _ (State.countWm_stays (State.dedup_stays h))

theorem State.inWrite_stays {l : Nat} {p q : Fin 2} {f : Frame} (hk : Stays s0 s) : Stays s0 (State.inWrite s l p q f) := by
  unfold State.inWrite
  repeat' (first
    | ((try lift_lets); intro (x : State); refine Stays.via (s := s0) (x := x) ?_ (fun hx => ?_); rotate_left; clear_value x; rotate_left; unfold x)
    | ((try lift_lets); intro x; clear_value x)
    | with_reducible assumption
    | with_reducible refine State.once_stays ?_ (fun u hu => ?_)
    | with_reducible apply State.refuseFrame_stays
    | with_reducible apply State.answerFrame_stays
    | with_reducible apply State.edgeWrite_stays
    | split
    | (dsimp only)
    | (with_reducible apply Stays.upd; first | with_reducible assumption | with_reducible refine State.once_stays ?_ (fun u hu => ?_) | with_reducible apply State.refuseFrame_stays | with_reducible apply State.answerFrame_stays | with_reducible apply State.edgeWrite_stays | split))

theorem State.inSignal_stays {l : Nat} {p : Fin 2} {f : Frame} (hk : Stays s0 s) : Stays s0 (State.inSignal s l p f) := by
  unfold State.inSignal
  repeat' (first
    | ((try lift_lets); intro (x : State); refine Stays.via (s := s0) (x := x) ?_ (fun hx => ?_); rotate_left; clear_value x; rotate_left; unfold x)
    | ((try lift_lets); intro x; clear_value x)
    | with_reducible assumption
    | with_reducible refine State.once_stays ?_ (fun u hu => ?_)
    | with_reducible apply State.refuseFrame_stays
    | with_reducible apply State.answer_stays
    | with_reducible apply State.countWm_stays
    | with_reducible apply State.markOp_stays
    | with_reducible apply State.answerFrame_stays
    | split
    | (dsimp only)
    | (with_reducible apply Stays.upd; first | with_reducible assumption | with_reducible refine State.once_stays ?_ (fun u hu => ?_) | with_reducible apply State.refuseFrame_stays | with_reducible apply State.answer_stays | with_reducible apply State.countWm_stays | with_reducible apply State.markOp_stays | with_reducible apply State.answerFrame_stays | split))

theorem State.inTaint_stays {l : Nat} {p : Fin 2} {f : Frame} (hk : Stays s0 s) : Stays s0 (State.inTaint s l p f) := by
  unfold State.inTaint
  repeat' (first
    | ((try lift_lets); intro (x : State); refine Stays.via (s := s0) (x := x) ?_ (fun hx => ?_); rotate_left; clear_value x; rotate_left; unfold x)
    | ((try lift_lets); intro x; clear_value x)
    | with_reducible assumption
    | with_reducible refine State.once_stays ?_ (fun u hu => ?_)
    | with_reducible apply State.refuseFrame_stays
    | with_reducible apply State.raise_stays
    | with_reducible apply State.countWm_stays
    | with_reducible apply State.setIrq_stays
    | with_reducible apply State.setReg_stays
    | with_reducible apply State.answerFrame_stays
    | split
    | (dsimp only)
    | (with_reducible apply Stays.upd; first | with_reducible assumption | with_reducible refine State.once_stays ?_ (fun u hu => ?_) | with_reducible apply State.refuseFrame_stays | with_reducible apply State.raise_stays | with_reducible apply State.countWm_stays | with_reducible apply State.setIrq_stays | with_reducible apply State.setReg_stays | with_reducible apply State.answerFrame_stays | split))

theorem State.inCauseway_stays {l : Nat} {p : Fin 2} {f : Frame} (hk : Stays s0 s) : Stays s0 (State.inCauseway s l p f) := by
  unfold State.inCauseway
  repeat' (first
    | ((try lift_lets); intro (x : State); refine Stays.via (s := s0) (x := x) ?_ (fun hx => ?_); rotate_left; clear_value x; rotate_left; unfold x)
    | ((try lift_lets); intro x; clear_value x)
    | with_reducible assumption
    | with_reducible apply State.refuseFrame_stays
    | with_reducible apply State.countWm_stays
    | with_reducible apply State.count_stays
    | with_reducible apply State.answerFrame_stays
    | with_reducible apply State.edgeWrite_stays
    | split
    | (dsimp only)
    | (with_reducible apply Stays.upd; first | with_reducible assumption | with_reducible apply State.refuseFrame_stays | with_reducible apply State.countWm_stays | with_reducible apply State.count_stays | with_reducible apply State.answerFrame_stays | with_reducible apply State.edgeWrite_stays | split))

theorem State.inAnswer_stays {q : Fin 2} {f : Frame} (hk : Stays s0 s) : Stays s0 (State.inAnswer s q f) := by
  unfold State.inAnswer
  repeat' (first
    | ((try lift_lets); intro (x : State); refine Stays.via (s := s0) (x := x) ?_ (fun hx => ?_); rotate_left; clear_value x; rotate_left; unfold x)
    | ((try lift_lets); intro (x : _ → _); dsimp -zeta only [x]; clear x)
    | ((try lift_lets); intro x; clear_value x)
    | with_reducible assumption
    | with_reducible apply State.countWm_stays
    | with_reducible apply State.exAnswer_stays
    | split
    | (dsimp only)
    | (with_reducible apply Stays.upd; first | with_reducible assumption | with_reducible apply State.countWm_stays | with_reducible apply State.exAnswer_stays | split))

theorem State.inbound_stays {l : Nat} {b : List Byte} (hk : Stays s0 s) : Stays s0 (State.inbound s l b) := by
  unfold State.inbound
  repeat' (first
    | ((try lift_lets); intro (x : State); refine Stays.via (s := s0) (x := x) ?_ (fun hx => ?_); rotate_left; clear_value x; rotate_left; unfold x)
    | ((try lift_lets); intro x; clear_value x)
    | with_reducible assumption
    | with_reducible apply State.inAnswer_stays
    | with_reducible apply State.inCauseway_stays
    | with_reducible apply State.inTaint_stays
    | with_reducible apply State.inSignal_stays
    | with_reducible apply State.inWrite_stays
    | with_reducible apply State.refuseFrame_stays
    | with_reducible apply State.readResp_stays
    | split
    | (dsimp only)
    | (with_reducible apply Stays.upd; first | with_reducible assumption | with_reducible apply State.inAnswer_stays | with_reducible apply State.inCauseway_stays | with_reducible apply State.inTaint_stays | with_reducible apply State.inSignal_stays | with_reducible apply State.inWrite_stays | with_reducible apply State.refuseFrame_stays | with_reducible apply State.readResp_stays | split))

theorem State.arriveFrame_stays {l : Nat} {tag : W64} {b : List Byte} (hk : Stays s0 s) : Stays s0 (State.arriveFrame s l tag b) := by
  unfold State.arriveFrame
  repeat' (first
    | ((try lift_lets); intro (x : State); refine Stays.via (s := s0) (x := x) ?_ (fun hx => ?_); rotate_left; clear_value x; rotate_left; unfold x)
    | ((try lift_lets); intro (x : State × _); refine Stays.via (s := s0) (x := x.1) ?_ (fun hx => ?_); rotate_left; clear_value x; rotate_left; unfold x)
    | ((try lift_lets); intro (x : _ × State); refine Stays.via (s := s0) (x := x.2) ?_ (fun hx => ?_); rotate_left; clear_value x; rotate_left; unfold x)
    | ((try lift_lets); intro x; clear_value x)
    | with_reducible assumption
    | with_reducible apply State.inbound_stays
    | with_reducible apply State.countWm_stays
    | with_reducible refine Stays.of_fst (State.recvFrame_stays ?_) (by assumption)
    | with_reducible apply State.recvFrame_stays
    | split
    | (dsimp only)
    | (with_reducible apply Stays.upd; first | with_reducible assumption | with_reducible apply State.inbound_stays | with_reducible apply State.countWm_stays | with_reducible refine Stays.of_fst (State.recvFrame_stays ?_) (by assumption) | with_reducible apply State.recvFrame_stays | split))

theorem State.arriveRow_stays {row : Nat} {l : Nat} {tag : W64} {b : List Byte} (hk : Stays s0 s) : Stays s0 (State.arriveRow s row l tag b) := by
  unfold State.arriveRow
  repeat' (first
    | ((try lift_lets); intro (x : State); refine Stays.via (s := s0) (x := x) ?_ (fun hx => ?_); rotate_left; clear_value x; rotate_left; unfold x)
    | ((try lift_lets); intro x; clear_value x)
    | with_reducible assumption
    | with_reducible apply State.arriveFrame_stays
    | split
    | (dsimp only)
    | (with_reducible apply Stays.upd; first | with_reducible assumption | with_reducible apply State.arriveFrame_stays | split))

theorem execWriteFrame_stays {l : Fin 72} {tag : W64} {bytes : List Byte} : StaysOut s (execWriteFrame l tag bytes s) := by
  unfold execWriteFrame
  have hk : Stays s s := Stays.refl s
  repeat' (first
    | with_reducible apply StaysOut.next
    | ((try lift_lets); intro (x : State); refine Stays.via (s := s) (x := x) ?_ (fun hx => ?_); rotate_left; clear_value x; rotate_left; unfold x)
    | ((try lift_lets); intro x; clear_value x)
    | with_reducible assumption
    | with_reducible apply State.arriveRow_stays
    | split
    | (dsimp only)
    | (with_reducible apply Stays.upd; first | with_reducible assumption | with_reducible apply State.arriveRow_stays | split))

theorem execSignalFrame_stays {l : Fin 72} {tag : W64} {bytes : List Byte} : StaysOut s (execSignalFrame l tag bytes s) := by
  unfold execSignalFrame
  have hk : Stays s s := Stays.refl s
  repeat' (first
    | with_reducible apply StaysOut.next
    | ((try lift_lets); intro (x : State); refine Stays.via (s := s) (x := x) ?_ (fun hx => ?_); rotate_left; clear_value x; rotate_left; unfold x)
    | ((try lift_lets); intro x; clear_value x)
    | with_reducible assumption
    | with_reducible apply State.arriveRow_stays
    | split
    | (dsimp only)
    | (with_reducible apply Stays.upd; first | with_reducible assumption | with_reducible apply State.arriveRow_stays | split))

theorem execTaintFrame_stays {l : Fin 72} {tag : W64} {bytes : List Byte} : StaysOut s (execTaintFrame l tag bytes s) := by
  unfold execTaintFrame
  have hk : Stays s s := Stays.refl s
  repeat' (first
    | with_reducible apply StaysOut.next
    | ((try lift_lets); intro (x : State); refine Stays.via (s := s) (x := x) ?_ (fun hx => ?_); rotate_left; clear_value x; rotate_left; unfold x)
    | ((try lift_lets); intro x; clear_value x)
    | with_reducible assumption
    | with_reducible apply State.arriveRow_stays
    | split
    | (dsimp only)
    | (with_reducible apply Stays.upd; first | with_reducible assumption | with_reducible apply State.arriveRow_stays | split))

theorem execReadresp_stays {l : Fin 72} {tag : W64} {bytes : List Byte} : StaysOut s (execReadresp l tag bytes s) := by
  unfold execReadresp
  have hk : Stays s s := Stays.refl s
  repeat' (first
    | with_reducible apply StaysOut.next
    | ((try lift_lets); intro (x : State); refine Stays.via (s := s) (x := x) ?_ (fun hx => ?_); rotate_left; clear_value x; rotate_left; unfold x)
    | ((try lift_lets); intro x; clear_value x)
    | with_reducible assumption
    | with_reducible apply State.arriveRow_stays
    | split
    | (dsimp only)
    | (with_reducible apply Stays.upd; first | with_reducible assumption | with_reducible apply State.arriveRow_stays | split))

theorem execFrameAnswer_stays {l : Fin 72} {tag : W64} {bytes : List Byte} : StaysOut s (execFrameAnswer l tag bytes s) := by
  unfold execFrameAnswer
  have hk : Stays s s := Stays.refl s
  repeat' (first
    | with_reducible apply StaysOut.next
    | ((try lift_lets); intro (x : State); refine Stays.via (s := s) (x := x) ?_ (fun hx => ?_); rotate_left; clear_value x; rotate_left; unfold x)
    | ((try lift_lets); intro x; clear_value x)
    | with_reducible assumption
    | with_reducible apply State.arriveRow_stays
    | split
    | (dsimp only)
    | (with_reducible apply Stays.upd; first | with_reducible assumption | with_reducible apply State.arriveRow_stays | split))

theorem execUnacceptedFrame_stays {l : Fin 72} {tag : W64} {bytes : List Byte} : StaysOut s (execUnacceptedFrame l tag bytes s) := by
  unfold execUnacceptedFrame
  have hk : Stays s s := Stays.refl s
  repeat' (first
    | with_reducible apply StaysOut.next
    | ((try lift_lets); intro (x : State); refine Stays.via (s := s) (x := x) ?_ (fun hx => ?_); rotate_left; clear_value x; rotate_left; unfold x)
    | ((try lift_lets); intro x; clear_value x)
    | with_reducible assumption
    | with_reducible apply State.arriveRow_stays
    | split
    | (dsimp only)
    | (with_reducible apply Stays.upd; first | with_reducible assumption | with_reducible apply State.arriveRow_stays | split))

theorem execLinkControlWord_stays {l : Fin 72} {send : Bool} {tag : W64} {corr uncorr : Nat} : StaysOut s (execLinkControlWord l send tag corr uncorr s) := by
  unfold execLinkControlWord
  have hk : Stays s s := Stays.refl s
  repeat' (first
    | with_reducible apply StaysOut.next
    | ((try lift_lets); intro (x : State); refine Stays.via (s := s) (x := x) ?_ (fun hx => ?_); rotate_left; clear_value x; rotate_left; unfold x)
    | ((try lift_lets); intro x; clear_value x)
    | with_reducible assumption
    | with_reducible apply State.count_stays
    | with_reducible apply State.tagWork_stays
    | with_reducible apply State.sendNak_stays
    | with_reducible apply State.onWire_stays
    | split
    | (dsimp only)
    | (with_reducible apply Stays.upd; first | with_reducible assumption | with_reducible apply State.count_stays | with_reducible apply State.tagWork_stays | with_reducible apply State.sendNak_stays | with_reducible apply State.onWire_stays | split))

theorem execReplayTimer_stays {l : Fin 72} : StaysOut s (execReplayTimer l s) := by
  unfold execReplayTimer
  have hk : Stays s s := Stays.refl s
  repeat' (first
    | with_reducible apply StaysOut.next
    | ((try lift_lets); intro (x : State); refine Stays.via (s := s) (x := x) ?_ (fun hx => ?_); rotate_left; clear_value x; rotate_left; unfold x)
    | ((try lift_lets); intro x; clear_value x)
    | with_reducible assumption
    | with_reducible apply State.replay_stays
    | split
    | (dsimp only)
    | (with_reducible apply Stays.upd; first | with_reducible assumption | with_reducible apply State.replay_stays | split))

theorem State.moveFrames_stays {p : Fin 2} {port : Nat} (hk : Stays s0 s) : Stays s0 (State.moveFrames s p port) := by
  unfold State.moveFrames
  repeat' (first
    | ((try lift_lets); intro (x : State); refine Stays.via (s := s0) (x := x) ?_ (fun hx => ?_); rotate_left; clear_value x; rotate_left; unfold x)
    | ((try lift_lets); intro x; clear_value x)
    | with_reducible assumption
    | with_reducible apply State.resendReq_stays
    | with_reducible apply State.turn_stays
    | with_reducible apply State.sendEx_stays
    | with_reducible apply State.setExch_stays
    | with_reducible refine Stays.foldl ?_ (fun u x hu => ?_)
    | split
    | (dsimp only)
    | (with_reducible apply Stays.upd; first | with_reducible assumption | with_reducible apply State.resendReq_stays | with_reducible apply State.turn_stays | with_reducible apply State.sendEx_stays | with_reducible apply State.setExch_stays | split))

theorem State.portOut_stays {l state : Nat} (hk : Stays s0 s) : Stays s0 (State.portOut s l state) := by
  unfold State.portOut
  repeat' (first
    | ((try lift_lets); intro (x : State); refine Stays.via (s := s0) (x := x) ?_ (fun hx => ?_); rotate_left; clear_value x; rotate_left; unfold x)
    | ((try lift_lets); intro x; clear_value x)
    | with_reducible assumption
    | with_reducible apply State.moveFrames_stays
    | with_reducible apply State.setF_stays
    | with_reducible apply State.setVlink_stays
    | split
    | (dsimp only)
    | (with_reducible apply Stays.upd; first | with_reducible assumption | with_reducible apply State.moveFrames_stays | with_reducible apply State.setF_stays | with_reducible apply State.setVlink_stays | split))

theorem State.portFail_stays {l : Nat} (hk : Stays s0 s) : Stays s0 (State.portFail s l) := by
  unfold State.portFail
  repeat' (first
    | ((try lift_lets); intro (x : State); refine Stays.via (s := s0) (x := x) ?_ (fun hx => ?_); rotate_left; clear_value x; rotate_left; unfold x)
    | ((try lift_lets); intro x; clear_value x)
    | with_reducible assumption
    | with_reducible apply State.portOut_stays
    | with_reducible apply State.raise_stays
    | with_reducible apply State.setIrq_stays
    | split
    | (dsimp only)
    | (with_reducible apply Stays.upd; first | with_reducible assumption | with_reducible apply State.portOut_stays | with_reducible apply State.raise_stays | with_reducible apply State.setIrq_stays | split))

theorem State.isolateBridge_stays {f : FieldAddr} (hk : Stays s0 s) : Stays s0 (State.isolateBridge s f) := by
  unfold State.isolateBridge
  repeat' (first
    | ((try lift_lets); intro (x : State); refine Stays.via (s := s0) (x := x) ?_ (fun hx => ?_); rotate_left; clear_value x; rotate_left; unfold x)
    | ((try lift_lets); intro x; clear_value x)
    | with_reducible assumption
    | with_reducible apply State.raise_stays
    | with_reducible apply State.setErr_stays
    | with_reducible apply State.setIrq_stays
    | with_reducible apply State.setF_stays
    | split
    | (dsimp only)
    | (with_reducible apply Stays.upd; first | with_reducible assumption | with_reducible apply State.raise_stays | with_reducible apply State.setErr_stays | with_reducible apply State.setIrq_stays | with_reducible apply State.setF_stays | split))

theorem State.bridgeFail_stays {n lost : Nat} (hk : Stays s0 s) : Stays s0 (State.bridgeFail s n lost) := by
  unfold State.bridgeFail
  repeat' (first
    | ((try lift_lets); intro (x : State); refine Stays.via (s := s0) (x := x) ?_ (fun hx => ?_); rotate_left; clear_value x; rotate_left; unfold x)
    | ((try lift_lets); intro x; clear_value x)
    | with_reducible assumption
    | with_reducible apply State.isolateBridge_stays
    | with_reducible apply State.planeCause_stays
    | with_reducible apply State.raise_stays
    | with_reducible apply State.count_stays
    | with_reducible apply State.setIrq_stays
    | with_reducible refine Stays.foldl ?_ (fun u x hu => ?_)
    | split
    | (dsimp only)
    | (with_reducible apply Stays.upd; first | with_reducible assumption | with_reducible apply State.isolateBridge_stays | with_reducible apply State.planeCause_stays | with_reducible apply State.raise_stays | with_reducible apply State.count_stays | with_reducible apply State.setIrq_stays | split))

theorem State.groupsOut_stays {n groups lost : Nat} (hk : Stays s0 s) : Stays s0 (State.groupsOut s n groups lost) := by
  unfold State.groupsOut
  repeat' (first
    | ((try lift_lets); intro (x : State); refine Stays.via (s := s0) (x := x) ?_ (fun hx => ?_); rotate_left; clear_value x; rotate_left; unfold x)
    | ((try lift_lets); intro x; clear_value x)
    | with_reducible assumption
    | with_reducible apply State.bridgeFail_stays
    | with_reducible apply State.raise_stays
    | with_reducible apply State.count_stays
    | with_reducible apply State.setIrq_stays
    | with_reducible apply State.setF_stays
    | with_reducible refine Stays.foldl ?_ (fun u x hu => ?_)
    | split
    | (dsimp only)
    | (with_reducible apply Stays.upd; first | with_reducible assumption | with_reducible apply State.bridgeFail_stays | with_reducible apply State.raise_stays | with_reducible apply State.count_stays | with_reducible apply State.setIrq_stays | with_reducible apply State.setF_stays | split))

theorem State.laneFail_stays {l : Nat} {lanes : BitVec 8} (hk : Stays s0 s) : Stays s0 (State.laneFail s l lanes) := by
  unfold State.laneFail
  repeat' (first
    | ((try lift_lets); intro (x : State); refine Stays.via (s := s0) (x := x) ?_ (fun hx => ?_); rotate_left; clear_value x; rotate_left; unfold x)
    | ((try lift_lets); intro x; clear_value x)
    | with_reducible assumption
    | with_reducible apply State.portFail_stays
    | with_reducible apply State.count_stays
    | with_reducible apply State.setF_stays
    | split
    | (dsimp only)
    | (with_reducible apply Stays.upd; first | with_reducible assumption | with_reducible apply State.portFail_stays | with_reducible apply State.count_stays | with_reducible apply State.setF_stays | split))

theorem execLaneFailure_stays {unit : Fin 80} {lanes : BitVec 8} {lost : Nat} : StaysOut s (execLaneFailure unit lanes lost s) := by
  unfold execLaneFailure
  have hk : Stays s s := Stays.refl s
  repeat' (first
    | with_reducible apply StaysOut.next
    | ((try lift_lets); intro (x : State); refine Stays.via (s := s) (x := x) ?_ (fun hx => ?_); rotate_left; clear_value x; rotate_left; unfold x)
    | ((try lift_lets); intro x; clear_value x)
    | with_reducible assumption
    | with_reducible apply State.laneFail_stays
    | with_reducible apply State.groupsOut_stays
    | split
    | (dsimp only)
    | (with_reducible apply Stays.upd; first | with_reducible assumption | with_reducible apply State.laneFail_stays | with_reducible apply State.groupsOut_stays | split))

theorem State.portX4_stays {l state : Nat} (hk : Stays s0 s) : Stays s0 (State.portX4 s l state) := by
  unfold State.portX4
  repeat' (first
    | ((try lift_lets); intro (x : State); refine Stays.via (s := s0) (x := x) ?_ (fun hx => ?_); rotate_left; clear_value x; rotate_left; unfold x)
    | ((try lift_lets); intro x; clear_value x)
    | with_reducible assumption
    | with_reducible apply State.raise_stays
    | with_reducible apply State.setIrq_stays
    | with_reducible apply State.setF_stays
    | split
    | (dsimp only)
    | (with_reducible apply Stays.upd; first | with_reducible assumption | with_reducible apply State.raise_stays | with_reducible apply State.setIrq_stays | with_reducible apply State.setF_stays | split))

theorem execPortDegrade_stays {l : Fin 64} : StaysOut s (execPortDegrade l s) := by
  unfold execPortDegrade
  have hk : Stays s s := Stays.refl s
  repeat' (first
    | with_reducible apply StaysOut.next
    | ((try lift_lets); intro (x : State); refine Stays.via (s := s) (x := x) ?_ (fun hx => ?_); rotate_left; clear_value x; rotate_left; unfold x)
    | ((try lift_lets); intro x; clear_value x)
    | with_reducible assumption
    | with_reducible apply State.portX4_stays
    | with_reducible apply State.replay_stays
    | split
    | (dsimp only)
    | (with_reducible apply Stays.upd; first | with_reducible assumption | with_reducible apply State.portX4_stays | with_reducible apply State.replay_stays | split))

theorem execPortFail_stays {unit : Fin 80} {lost : Nat} : StaysOut s (execPortFail unit lost s) := by
  unfold execPortFail
  have hk : Stays s s := Stays.refl s
  repeat' (first
    | with_reducible apply StaysOut.next
    | ((try lift_lets); intro (x : State); refine Stays.via (s := s) (x := x) ?_ (fun hx => ?_); rotate_left; clear_value x; rotate_left; unfold x)
    | ((try lift_lets); intro x; clear_value x)
    | with_reducible assumption
    | with_reducible apply State.groupsOut_stays
    | with_reducible apply State.portFail_stays
    | split
    | (dsimp only)
    | (with_reducible apply Stays.upd; first | with_reducible assumption | with_reducible apply State.groupsOut_stays | with_reducible apply State.portFail_stays | split))

theorem execLaneCalibration_stays {l : Fin 64} : StaysOut s (execLaneCalibration l s) := by
  unfold execLaneCalibration
  have hk : Stays s s := Stays.refl s
  repeat' (first
    | with_reducible apply StaysOut.next
    | ((try lift_lets); intro (x : State); refine Stays.via (s := s) (x := x) ?_ (fun hx => ?_); rotate_left; clear_value x; rotate_left; unfold x)
    | ((try lift_lets); intro x; clear_value x)
    | with_reducible assumption
    | with_reducible apply State.setF_stays
    | split
    | (dsimp only)
    | (with_reducible apply Stays.upd; first | with_reducible assumption | with_reducible apply State.setF_stays | split))

theorem execCalibrationEnd_stays {l : Fin 64} : StaysOut s (execCalibrationEnd l s) := by
  unfold execCalibrationEnd
  have hk : Stays s s := Stays.refl s
  repeat' (first
    | with_reducible apply StaysOut.next
    | ((try lift_lets); intro (x : State); refine Stays.via (s := s) (x := x) ?_ (fun hx => ?_); rotate_left; clear_value x; rotate_left; unfold x)
    | ((try lift_lets); intro x; clear_value x)
    | with_reducible assumption
    | with_reducible apply State.setF_stays
    | split
    | (dsimp only)
    | (with_reducible apply Stays.upd; first | with_reducible assumption | with_reducible apply State.setF_stays | split))

theorem State.vptWrite_stays {l : Nat} {fw : Bool} {value : W64} (hk : Stays s0 s) : Stays s0 (State.vptWrite s l fw value) := by
  unfold State.vptWrite
  repeat' (first
    | ((try lift_lets); intro (x : State); refine Stays.via (s := s0) (x := x) ?_ (fun hx => ?_); rotate_left; clear_value x; rotate_left; unfold x)
    | ((try lift_lets); intro x; clear_value x)
    | with_reducible assumption
    | with_reducible apply State.portOut_stays
    | with_reducible refine State.regWrite_stays ?_ (fun u hu => ?_)
    | with_reducible apply State.setF_stays
    | split
    | (dsimp only)
    | (with_reducible apply Stays.upd; first | with_reducible assumption | with_reducible apply State.portOut_stays | with_reducible refine State.regWrite_stays ?_ (fun u hu => ?_) | with_reducible apply State.setF_stays | split))

theorem execPortDisable_stays {l : Fin 64} {fw : Bool} {value : W64} : StaysOut s (execPortDisable l fw value s) := by
  unfold execPortDisable
  have hk : Stays s s := Stays.refl s
  repeat' (first
    | with_reducible apply StaysOut.next
    | ((try lift_lets); intro (x : State); refine Stays.via (s := s) (x := x) ?_ (fun hx => ?_); rotate_left; clear_value x; rotate_left; unfold x)
    | ((try lift_lets); intro x; clear_value x)
    | with_reducible assumption
    | with_reducible apply State.vptWrite_stays
    | split
    | (dsimp only)
    | (with_reducible apply Stays.upd; first | with_reducible assumption | with_reducible apply State.vptWrite_stays | split))

theorem execPortRetrain_stays {l : Fin 64} {fw : Bool} {value : W64} : StaysOut s (execPortRetrain l fw value s) := by
  unfold execPortRetrain
  have hk : Stays s s := Stays.refl s
  repeat' (first
    | with_reducible apply StaysOut.next
    | ((try lift_lets); intro (x : State); refine Stays.via (s := s) (x := x) ?_ (fun hx => ?_); rotate_left; clear_value x; rotate_left; unfold x)
    | ((try lift_lets); intro x; clear_value x)
    | with_reducible assumption
    | with_reducible apply State.vptWrite_stays
    | split
    | (dsimp only)
    | (with_reducible apply Stays.upd; first | with_reducible assumption | with_reducible apply State.vptWrite_stays | split))

theorem State.portTrained_stays {l : Nat} {lanes : BitVec 8} (hk : Stays s0 s) : Stays s0 (State.portTrained s l lanes) := by
  unfold State.portTrained
  repeat' (first
    | ((try lift_lets); intro (x : State); refine Stays.via (s := s0) (x := x) ?_ (fun hx => ?_); rotate_left; clear_value x; rotate_left; unfold x)
    | ((try lift_lets); intro x; clear_value x)
    | with_reducible assumption
    | with_reducible apply State.portX4_stays
    | with_reducible apply State.raise_stays
    | with_reducible apply State.setIrq_stays
    | with_reducible apply State.setF_stays
    | with_reducible apply State.setVlink_stays
    | split
    | (dsimp only)
    | (with_reducible apply Stays.upd; first | with_reducible assumption | with_reducible apply State.portX4_stays | with_reducible apply State.raise_stays | with_reducible apply State.setIrq_stays | with_reducible apply State.setF_stays | with_reducible apply State.setVlink_stays | split))

theorem State.bridgeTrained_stays {n groups : Nat} (hk : Stays s0 s) : Stays s0 (State.bridgeTrained s n groups) := by
  unfold State.bridgeTrained
  repeat' (first
    | ((try lift_lets); intro (x : State); refine Stays.via (s := s0) (x := x) ?_ (fun hx => ?_); rotate_left; clear_value x; rotate_left; unfold x)
    | ((try lift_lets); intro x; clear_value x)
    | with_reducible assumption
    | with_reducible apply State.setF_stays
    | with_reducible refine Stays.foldl ?_ (fun u x hu => ?_)
    | split
    | (dsimp only)
    | (with_reducible apply Stays.upd; first | with_reducible assumption | with_reducible apply State.setF_stays | split))

theorem execLinkTrainingDone_stays {unit : Fin 80} {lanes : BitVec 8} : StaysOut s (execLinkTrainingDone unit lanes s) := by
  unfold execLinkTrainingDone
  have hk : Stays s s := Stays.refl s
  repeat' (first
    | with_reducible apply StaysOut.next
    | ((try lift_lets); intro (x : State); refine Stays.via (s := s) (x := x) ?_ (fun hx => ?_); rotate_left; clear_value x; rotate_left; unfold x)
    | ((try lift_lets); intro x; clear_value x)
    | with_reducible assumption
    | with_reducible apply State.bridgeTrained_stays
    | with_reducible apply State.portTrained_stays
    | split
    | (dsimp only)
    | (with_reducible apply Stays.upd; first | with_reducible assumption | with_reducible apply State.bridgeTrained_stays | with_reducible apply State.portTrained_stays | split))

end Sys2Proof.Machine
end

