-- ==== Sys2Proof/Laws/KeepsBridge.lean ====
section
/-!
SUPPORT. What the operations of Machine/Bridge keep (Laws/Keeps).
-/
namespace Sys2Proof.Machine

set_option linter.all false

variable {s0 s : State}

theorem execBridgeReinject_stays {n : Nat} : StaysOut s (execBridgeReinject n s) := by
  unfold execBridgeReinject
  have hk : Stays s s := Stays.refl s
  repeat' (first
    | with_reducible apply StaysOut.next
    | ((try lift_lets); intro (x : State); refine Stays.via (s := s) (x := x) ?_ (fun hx => ?_); rotate_left; clear_value x; rotate_left; unfold x)
    | ((try lift_lets); intro x; clear_value x)
    | with_reducible assumption
    | with_reducible apply State.inject_stays
    | with_reducible apply State.count_stays
    | split
    | (dsimp only)
    | (with_reducible apply Stays.upd; first | with_reducible assumption | with_reducible apply State.inject_stays | with_reducible apply State.count_stays | split))

theorem execSidebandWord_stays {p : Fin 2} : StaysOut s (execSidebandWord p s) := by
  unfold execSidebandWord
  have hk : Stays s s := Stays.refl s
  repeat' (first
    | with_reducible apply StaysOut.next
    | ((try lift_lets); intro (x : State); refine Stays.via (s := s) (x := x) ?_ (fun hx => ?_); rotate_left; clear_value x; rotate_left; unfold x)
    | ((try lift_lets); intro x; clear_value x)
    | with_reducible assumption
    | with_reducible apply State.setRemote_stays
    | with_reducible refine Stays.foldl ?_ (fun u x hu => ?_)
    | split
    | (dsimp only)
    | (with_reducible apply Stays.upd; first | with_reducible assumption | with_reducible apply State.setRemote_stays | split))

theorem execSidebandLost_stays {p : Fin 2} : StaysOut s (execSidebandLost p s) := by
  unfold execSidebandLost
  have hk : Stays s s := Stays.refl s
  repeat' (first
    | with_reducible apply StaysOut.next
    | ((try lift_lets); intro (x : State); refine Stays.via (s := s) (x := x) ?_ (fun hx => ?_); rotate_left; clear_value x; rotate_left; unfold x)
    | ((try lift_lets); intro x; clear_value x)
    | with_reducible assumption
    | with_reducible apply State.setAe_stays
    | with_reducible apply State.raise_stays
    | with_reducible apply State.count_stays
    | with_reducible apply State.setIrq_stays
    | with_reducible apply State.setF_stays
    | with_reducible apply State.setRemote_stays
    | with_reducible refine Stays.foldl ?_ (fun u x hu => ?_)
    | split
    | (dsimp only)
    | (with_reducible apply Stays.upd; first | with_reducible assumption | with_reducible apply State.setAe_stays | with_reducible apply State.raise_stays | with_reducible apply State.count_stays | with_reducible apply State.setIrq_stays | with_reducible apply State.setF_stays | with_reducible apply State.setRemote_stays | split))

theorem State.brgWrite_stays {fw : Bool} {value : W64} (hk : Stays s0 s) : Stays s0 (State.brgWrite s fw value) := by
  unfold State.brgWrite
  repeat' (first
    | ((try lift_lets); intro (x : State); refine Stays.via (s := s0) (x := x) ?_ (fun hx => ?_); rotate_left; clear_value x; rotate_left; unfold x)
    | ((try lift_lets); intro x; clear_value x)
    | with_reducible assumption
    | with_reducible refine State.regWrite_stays ?_ (fun u hu => ?_)
    | with_reducible apply State.setF_stays
    | split
    | (dsimp only)
    | (with_reducible apply Stays.upd; first | with_reducible assumption | with_reducible refine State.regWrite_stays ?_ (fun u hu => ?_) | with_reducible apply State.setF_stays | split))

theorem execBridgeRetrain_stays {fw : Bool} {value : W64} : StaysOut s (execBridgeRetrain fw value s) := by
  unfold execBridgeRetrain
  have hk : Stays s s := Stays.refl s
  repeat' (first
    | with_reducible apply StaysOut.next
    | ((try lift_lets); intro (x : State); refine Stays.via (s := s) (x := x) ?_ (fun hx => ?_); rotate_left; clear_value x; rotate_left; unfold x)
    | ((try lift_lets); intro x; clear_value x)
    | with_reducible assumption
    | with_reducible apply State.brgWrite_stays
    | split
    | (dsimp only)
    | (with_reducible apply Stays.upd; first | with_reducible assumption | with_reducible apply State.brgWrite_stays | split))

theorem State.cwyEnd_stays {result : Nat} (hk : Stays s0 s) : Stays s0 (State.cwyEnd s result) := by
  unfold State.cwyEnd
  repeat' (first
    | ((try lift_lets); intro (x : State); refine Stays.via (s := s0) (x := x) ?_ (fun hx => ?_); rotate_left; clear_value x; rotate_left; unfold x)
    | ((try lift_lets); intro x; clear_value x)
    | with_reducible assumption
    | with_reducible apply State.raise_stays
    | with_reducible apply State.setIrq_stays
    | with_reducible apply State.setF_stays
    | split
    | (dsimp only)
    | (with_reducible apply Stays.upd; first | with_reducible assumption | with_reducible apply State.raise_stays | with_reducible apply State.setIrq_stays | with_reducible apply State.setF_stays | split))

theorem State.cwyWrite_stays {fw : Bool} {v : W64} (hk : Stays s0 s) : Stays s0 (State.cwyWrite s fw v) := by
  unfold State.cwyWrite
  repeat' (first
    | ((try lift_lets); intro (x : State); refine Stays.via (s := s0) (x := x) ?_ (fun hx => ?_); rotate_left; clear_value x; rotate_left; unfold x)
    | ((try lift_lets); intro (x : _ → _); dsimp -zeta only [x]; clear x)
    | ((try lift_lets); intro x; clear_value x)
    | with_reducible assumption
    | with_reducible refine State.regWrite_stays ?_ (fun u hu => ?_)
    | with_reducible apply State.setF_stays
    | with_reducible apply State.setVlink_stays
    | with_reducible apply State.cwyEnd_stays
    | split
    | (dsimp only)
    | (with_reducible apply Stays.upd; first | with_reducible assumption | with_reducible refine State.regWrite_stays ?_ (fun u hu => ?_) | with_reducible apply State.setF_stays | with_reducible apply State.setVlink_stays | with_reducible apply State.cwyEnd_stays | split))

theorem execCwyTest_stays {fw : Bool} {value : W64} : StaysOut s (execCwyTest fw value s) := by
  unfold execCwyTest
  have hk : Stays s s := Stays.refl s
  repeat' (first
    | with_reducible apply StaysOut.next
    | ((try lift_lets); intro (x : State); refine Stays.via (s := s) (x := x) ?_ (fun hx => ?_); rotate_left; clear_value x; rotate_left; unfold x)
    | ((try lift_lets); intro x; clear_value x)
    | with_reducible assumption
    | with_reducible apply State.cwyWrite_stays
    | split
    | (dsimp only)
    | (with_reducible apply Stays.upd; first | with_reducible assumption | with_reducible apply State.cwyWrite_stays | split))

theorem execCwyCrosscheck_stays {fw : Bool} {value : W64} : StaysOut s (execCwyCrosscheck fw value s) := by
  unfold execCwyCrosscheck
  have hk : Stays s s := Stays.refl s
  repeat' (first
    | with_reducible apply StaysOut.next
    | ((try lift_lets); intro (x : State); refine Stays.via (s := s) (x := x) ?_ (fun hx => ?_); rotate_left; clear_value x; rotate_left; unfold x)
    | ((try lift_lets); intro x; clear_value x)
    | with_reducible assumption
    | with_reducible apply State.cwyWrite_stays
    | split
    | (dsimp only)
    | (with_reducible apply Stays.upd; first | with_reducible assumption | with_reducible apply State.cwyWrite_stays | split))

theorem execCwyMigrate_stays {fw : Bool} {value : W64} : StaysOut s (execCwyMigrate fw value s) := by
  unfold execCwyMigrate
  have hk : Stays s s := Stays.refl s
  repeat' (first
    | with_reducible apply StaysOut.next
    | ((try lift_lets); intro (x : State); refine Stays.via (s := s) (x := x) ?_ (fun hx => ?_); rotate_left; clear_value x; rotate_left; unfold x)
    | ((try lift_lets); intro x; clear_value x)
    | with_reducible assumption
    | with_reducible apply State.cwyWrite_stays
    | split
    | (dsimp only)
    | (with_reducible apply Stays.upd; first | with_reducible assumption | with_reducible apply State.cwyWrite_stays | split))

theorem execCwyExport_stays {fw : Bool} {value : W64} : StaysOut s (execCwyExport fw value s) := by
  unfold execCwyExport
  have hk : Stays s s := Stays.refl s
  repeat' (first
    | with_reducible apply StaysOut.next
    | ((try lift_lets); intro (x : State); refine Stays.via (s := s) (x := x) ?_ (fun hx => ?_); rotate_left; clear_value x; rotate_left; unfold x)
    | ((try lift_lets); intro x; clear_value x)
    | with_reducible assumption
    | with_reducible apply State.cwyWrite_stays
    | split
    | (dsimp only)
    | (with_reducible apply Stays.upd; first | with_reducible assumption | with_reducible apply State.cwyWrite_stays | split))

theorem execCwyImport_stays {fw : Bool} {value : W64} : StaysOut s (execCwyImport fw value s) := by
  unfold execCwyImport
  have hk : Stays s s := Stays.refl s
  repeat' (first
    | with_reducible apply StaysOut.next
    | ((try lift_lets); intro (x : State); refine Stays.via (s := s) (x := x) ?_ (fun hx => ?_); rotate_left; clear_value x; rotate_left; unfold x)
    | ((try lift_lets); intro x; clear_value x)
    | with_reducible assumption
    | with_reducible apply State.cwyWrite_stays
    | split
    | (dsimp only)
    | (with_reducible apply Stays.upd; first | with_reducible assumption | with_reducible apply State.cwyWrite_stays | split))

theorem State.migrateTile_stays {a : TileAddr} {dst : FieldAddr} (hk : Stays s0 s) : Stays s0 (State.migrateTile s a dst).1 := by
  unfold State.migrateTile
  repeat' (first
    | ((try lift_lets); intro (x : State); refine Stays.via (s := s0) (x := x) ?_ (fun hx => ?_); rotate_left; clear_value x; rotate_left; unfold x)
    | ((try lift_lets); intro (x : _ → _); dsimp -zeta only [x]; clear x)
    | ((try lift_lets); intro x; clear_value x)
    | with_reducible assumption
    | with_reducible apply State.setTile_stays
    | with_reducible refine Stays.foldl ?_ (fun u x hu => ?_)
    | split
    | (dsimp only)
    | (with_reducible apply Stays.upd; first | with_reducible assumption | with_reducible apply State.setTile_stays | split))

theorem exportFrames_stays {l : Nat} {p : Fin 2} {node addr total n : Nat} :
    ∀ {k : Nat} {s : State}, Stays s0 s → Stays s0 (exportFrames l p node addr total n k s).1 := by
  induction n with
  | zero => exact fun h => h
  | succ n ih =>
    intro k s h
    unfold exportFrames
    dsimp only
    split
    · exact State.edgeRead_stays h
    · exact ih (State.count_stays (State.onWire_stays (State.edgeRead_stays h)))

theorem migrateTiles_stays {b : FieldAddr} {l : List TileAddr} :
    ∀ {s : State} {n : Nat}, Stays s0 s → Stays s0 (migrateTiles b l s n).1 := by
  induction l with
  | nil => exact fun h => h
  | cons t r ih =>
    intro s n h
    unfold migrateTiles
    exact ih (State.migrateTile_stays h)

theorem execCausewayDone_stays {link peer differ : Bool} {errors bytes : Nat} :
    StaysOut s (execCausewayDone link peer differ errors bytes s) := by
  refine StaysOut.next ?_
  have hk : Stays s s := Stays.refl s
  split
  · exact hk
  split
  · exact State.cwyEnd_stays hk
  split
  · exact State.cwyEnd_stays (State.count_stays (State.count_stays hk))
  · exact State.cwyEnd_stays (State.count_stays hk)
  · split
    · exact State.cwyEnd_stays (State.count_stays (migrateTiles_stays hk))
    · exact State.cwyEnd_stays hk
  · exact State.cwyEnd_stays (exportFrames_stays hk)
  · exact State.cwyEnd_stays hk

end Sys2Proof.Machine
end

