-- ==== Sys2Proof/Laws/KeepsEnergy.lean ====
section
/-!
SUPPORT. What the operations of Machine/Energy keep (Laws/Keeps).
-/
namespace Sys2Proof.Machine

set_option linter.all false

variable {s0 s : State}

theorem State.calibrate_stays {f : FieldAddr} (hk : Stays s0 s) : Stays s0 (State.calibrate s f) := by
  unfold State.calibrate
  repeat' (first
    | ((try lift_lets); intro (x : State); refine Stays.via (s := s0) (x := x) ?_ (fun hx => ?_); rotate_left; clear_value x; rotate_left; unfold x)
    | ((try lift_lets); intro (x : State × _); refine Stays.via (s := s0) (x := x.1) ?_ (fun hx => ?_); rotate_left; clear_value x; rotate_left; unfold x)
    | ((try lift_lets); intro (x : _ × State); refine Stays.via (s := s0) (x := x.2) ?_ (fun hx => ?_); rotate_left; clear_value x; rotate_left; unfold x)
    | ((try lift_lets); intro x; clear_value x)
    | with_reducible assumption
    | with_reducible refine Stays.of_snd (State.freeBits_stays ?_) (by assumption)
    | with_reducible apply State.freeBits_stays
    | with_reducible apply State.setF_stays
    | split
    | (dsimp only)
    | (with_reducible apply Stays.upd; first | with_reducible assumption | with_reducible refine Stays.of_snd (State.freeBits_stays ?_) (by assumption) | with_reducible apply State.freeBits_stays | with_reducible apply State.setF_stays | split))

theorem State.closeEnergy_stays {wm attempt meas : Nat} (hk : Stays s0 s) : Stays s0 (State.closeEnergy s wm attempt meas).1 := by
  unfold State.closeEnergy
  repeat' (first
    | ((try lift_lets); intro (x : State); refine Stays.via (s := s0) (x := x) ?_ (fun hx => ?_); rotate_left; clear_value x; rotate_left; unfold x)
    | ((try lift_lets); intro x; clear_value x)
    | with_reducible assumption
    | with_reducible apply State.setF_stays
    | with_reducible apply State.setReg_stays
    | with_reducible apply State.calibrate_stays
    | with_reducible refine Stays.foldl ?_ (fun u x hu => ?_)
    | split
    | (dsimp only)
    | (with_reducible apply Stays.upd; first | with_reducible assumption | with_reducible apply State.setF_stays | with_reducible apply State.setReg_stays | with_reducible apply State.calibrate_stays | split))

end Sys2Proof.Machine
end

