-- ==== Sys2Proof/Laws/KeepsSteps.lean ====
section
/-!
SUPPORT. What the operations of Machine/Steps keep (Laws/Keeps).
-/
namespace Sys2Proof.Machine

set_option linter.all false

variable {s0 s : State}

theorem State.latchPeaks_stays  (hk : Stays s0 s) : Stays s0 (State.latchPeaks s) := by
  unfold State.latchPeaks
  repeat' (first
    | ((try lift_lets); intro (x : State); refine Stays.via (s := s0) (x := x) ?_ (fun hx => ?_); rotate_left; clear_value x; rotate_left; unfold x)
    | ((try lift_lets); intro x; clear_value x)
    | with_reducible assumption
    | with_reducible apply State.setF_stays
    | with_reducible refine Stays.foldl ?_ (fun u x hu => ?_)
    | split
    | (dsimp only)
    | (with_reducible apply Stays.upd; first | with_reducible assumption | with_reducible apply State.setF_stays | split))

theorem State.latchAll_stays {w : Waymark} {attempt : Nat} (hk : Stays s0 s) : Stays s0 (State.latchAll s w attempt) := by
  unfold State.latchAll
  repeat' (first
    | ((try lift_lets); intro (x : State); refine Stays.via (s := s0) (x := x) ?_ (fun hx => ?_); rotate_left; clear_value x; rotate_left; unfold x)
    | ((try lift_lets); intro x; clear_value x)
    | with_reducible assumption
    | with_reducible apply State.latchPeaks_stays
    | with_reducible apply State.latchPage_stays
    | with_reducible refine Stays.foldl ?_ (fun u x hu => ?_)
    | split
    | (dsimp only)
    | (with_reducible apply Stays.upd; first | with_reducible assumption | with_reducible apply State.latchPeaks_stays | with_reducible apply State.latchPage_stays | split))

theorem State.setCurWm_stays {mask wm : Nat} (hk : Stays s0 s) : Stays s0 (State.setCurWm s mask wm) := by
  unfold State.setCurWm
  repeat' (first
    | ((try lift_lets); intro (x : State); refine Stays.via (s := s0) (x := x) ?_ (fun hx => ?_); rotate_left; clear_value x; rotate_left; unfold x)
    | ((try lift_lets); intro x; clear_value x)
    | with_reducible assumption
    | with_reducible apply State.addAhead_stays
    | with_reducible apply State.setF_stays
    | with_reducible refine Stays.foldl ?_ (fun u x hu => ?_)
    | split
    | (dsimp only)
    | (with_reducible apply Stays.upd; first | with_reducible assumption | with_reducible apply State.addAhead_stays | with_reducible apply State.setF_stays | split))

theorem State.dropNotices_stays  (hk : Stays s0 s) : Stays s0 (State.dropNotices s) := by
  unfold State.dropNotices
  repeat' (first
    | ((try lift_lets); intro (x : State); refine Stays.via (s := s0) (x := x) ?_ (fun hx => ?_); rotate_left; clear_value x; rotate_left; unfold x)
    | ((try lift_lets); intro x; clear_value x)
    | with_reducible assumption
    | with_reducible apply State.setAe_stays
    | with_reducible refine Stays.foldl ?_ (fun u x hu => ?_)
    | split
    | (dsimp only)
    | (with_reducible apply Stays.upd; first | with_reducible assumption | with_reducible apply State.setAe_stays | split))

theorem execStepBegin_stays {q : Fin 64} : StaysOut s (execStepBegin q s) := by
  unfold execStepBegin
  have hk : Stays s s := Stays.refl s
  repeat' (first
    | with_reducible apply StaysOut.next
    | ((try lift_lets); intro (x : State); refine Stays.via (s := s) (x := x) ?_ (fun hx => ?_); rotate_left; clear_value x; rotate_left; unfold x)
    | ((try lift_lets); intro x; clear_value x)
    | with_reducible assumption
    | with_reducible apply State.dropNotices_stays
    | with_reducible apply State.setCurWm_stays
    | with_reducible apply State.latchAll_stays
    | with_reducible apply State.setF_stays
    | with_reducible apply State.complete_stays
    | with_reducible apply State.setStage_stays
    | with_reducible apply State.setQueue_stays
    | with_reducible refine Stays.foldl ?_ (fun u x hu => ?_)
    | split
    | (dsimp only)
    | (with_reducible apply Stays.upd; first | with_reducible assumption | with_reducible apply State.dropNotices_stays | with_reducible apply State.setCurWm_stays | with_reducible apply State.latchAll_stays | with_reducible apply State.setF_stays | with_reducible apply State.complete_stays | with_reducible apply State.setStage_stays | with_reducible apply State.setQueue_stays | split))

theorem State.closeOpen_stays {mask : Nat} (hk : Stays s0 s) : Stays s0 (State.closeOpen s mask) := by
  unfold State.closeOpen
  repeat' (first
    | ((try lift_lets); intro (x : State); refine Stays.via (s := s0) (x := x) ?_ (fun hx => ?_); rotate_left; clear_value x; rotate_left; unfold x)
    | ((try lift_lets); intro x; clear_value x)
    | with_reducible assumption
    | with_reducible apply State.setF_stays
    | with_reducible refine Stays.foldl ?_ (fun u x hu => ?_)
    | split
    | (dsimp only)
    | (with_reducible apply Stays.upd; first | with_reducible assumption | with_reducible apply State.setF_stays | split))

theorem State.endStep_stays {x : StepSt} {status : Nat} {hw : Bool} (hk : Stays s0 s) : Stays s0 (State.endStep s x status hw) := by
  unfold State.endStep
  repeat' (first
    | ((try lift_lets); intro (x : State); refine Stays.via (s := s0) (x := x) ?_ (fun hx => ?_); rotate_left; clear_value x; rotate_left; unfold x)
    | ((try lift_lets); intro x; clear_value x)
    | with_reducible assumption
    | with_reducible apply State.closeOpen_stays
    | with_reducible apply State.setIrq_stays
    | with_reducible apply State.setF_stays
    | with_reducible apply State.complete_stays
    | with_reducible apply State.retireQueue_stays
    | with_reducible apply State.setQueue_stays
    | with_reducible refine Stays.foldl ?_ (fun u x hu => ?_)
    | split
    | (dsimp only)
    | (with_reducible apply Stays.upd; first | with_reducible assumption | with_reducible apply State.closeOpen_stays | with_reducible apply State.setIrq_stays | with_reducible apply State.setF_stays | with_reducible apply State.complete_stays | with_reducible apply State.retireQueue_stays | with_reducible apply State.setQueue_stays | split))

theorem execWaymarkClose_stays {q : Fin 64} {meas : Nat} : StaysOut s (execWaymarkClose q meas s) := by
  unfold execWaymarkClose
  have hk : Stays s s := Stays.refl s
  repeat' (first
    | with_reducible apply StaysOut.next
    | ((try lift_lets); intro (x : State); refine Stays.via (s := s) (x := x) ?_ (fun hx => ?_); rotate_left; clear_value x; rotate_left; unfold x)
    | ((try lift_lets); intro (x : State × _); refine Stays.via (s := s) (x := x.1) ?_ (fun hx => ?_); rotate_left; clear_value x; rotate_left; unfold x)
    | ((try lift_lets); intro (x : _ × State); refine Stays.via (s := s) (x := x.2) ?_ (fun hx => ?_); rotate_left; clear_value x; rotate_left; unfold x)
    | ((try lift_lets); intro x; clear_value x)
    | with_reducible assumption
    | with_reducible apply State.endStep_stays
    | with_reducible apply State.dropNotices_stays
    | with_reducible apply State.setCurWm_stays
    | with_reducible apply State.latchAll_stays
    | with_reducible apply State.setF_stays
    | with_reducible apply State.complete_stays
    | with_reducible refine Stays.of_fst (State.closeEnergy_stays ?_) (by assumption)
    | with_reducible apply State.closeEnergy_stays
    | split
    | (dsimp only)
    | (with_reducible apply Stays.upd; first | with_reducible assumption | with_reducible apply State.endStep_stays | with_reducible apply State.dropNotices_stays | with_reducible apply State.setCurWm_stays | with_reducible apply State.latchAll_stays | with_reducible apply State.setF_stays | with_reducible apply State.complete_stays | with_reducible refine Stays.of_fst (State.closeEnergy_stays ?_) (by assumption) | with_reducible apply State.closeEnergy_stays | split))

theorem State.cancelWork_stays {x : StepSt} (hk : Stays s0 s) : Stays s0 (State.cancelWork s x) := by
  unfold State.cancelWork
  repeat' (first
    | ((try lift_lets); intro (x : State); refine Stays.via (s := s0) (x := x) ?_ (fun hx => ?_); rotate_left; clear_value x; rotate_left; unfold x)
    | ((try lift_lets); intro x; clear_value x)
    | with_reducible assumption
    | with_reducible apply State.cancelStreams_stays
    | with_reducible apply State.cancelExchanges_stays
    | with_reducible apply State.complete_stays
    | with_reducible refine Stays.foldl ?_ (fun u x hu => ?_)
    | split
    | (dsimp only)
    | (with_reducible apply Stays.upd; first | with_reducible assumption | with_reducible apply State.cancelStreams_stays | with_reducible apply State.cancelExchanges_stays | with_reducible apply State.complete_stays | split))

theorem State.cancelStep_stays {x : StepSt} (hk : Stays s0 s) : Stays s0 (State.cancelStep s x) := by
  unfold State.cancelStep
  repeat' (first
    | ((try lift_lets); intro (x : State); refine Stays.via (s := s0) (x := x) ?_ (fun hx => ?_); rotate_left; clear_value x; rotate_left; unfold x)
    | ((try lift_lets); intro x; clear_value x)
    | with_reducible assumption
    | with_reducible apply State.cancelWork_stays
    | with_reducible apply State.planeCause_stays
    | with_reducible refine Stays.foldl ?_ (fun u x hu => ?_)
    | split
    | (dsimp only)
    | (with_reducible apply Stays.upd; first | with_reducible assumption | with_reducible apply State.cancelWork_stays | with_reducible apply State.planeCause_stays | split))

theorem State.withdrawCloses_stays  (hk : Stays s0 s) : Stays s0 (State.withdrawCloses s) := by
  unfold State.withdrawCloses
  repeat' (first
    | ((try lift_lets); intro (x : State); refine Stays.via (s := s0) (x := x) ?_ (fun hx => ?_); rotate_left; clear_value x; rotate_left; unfold x)
    | ((try lift_lets); intro x; clear_value x)
    | with_reducible assumption
    | with_reducible apply State.setF_stays
    | with_reducible apply State.setQueue_stays
    | with_reducible refine Stays.foldl ?_ (fun u x hu => ?_)
    | split
    | (dsimp only)
    | (with_reducible apply Stays.upd; first | with_reducible assumption | with_reducible apply State.setF_stays | with_reducible apply State.setQueue_stays | split))

theorem execStepRerun_stays  : StaysOut s (execStepRerun s) := by
  unfold execStepRerun
  have hk : Stays s s := Stays.refl s
  repeat' (first
    | with_reducible apply StaysOut.next
    | ((try lift_lets); intro (x : State); refine Stays.via (s := s) (x := x) ?_ (fun hx => ?_); rotate_left; clear_value x; rotate_left; unfold x)
    | ((try lift_lets); intro x; clear_value x)
    | with_reducible assumption
    | with_reducible apply State.withdrawCloses_stays
    | with_reducible apply State.cancelStep_stays
    | with_reducible apply State.count_stays
    | split
    | (dsimp only)
    | (with_reducible apply Stays.upd; first | with_reducible assumption | with_reducible apply State.withdrawCloses_stays | with_reducible apply State.cancelStep_stays | with_reducible apply State.count_stays | split))

theorem State.rewindEpoch_stays {e : Nat × BitVec 2} (hk : Stays s0 s) : Stays s0 (State.rewindEpoch s e) := by
  unfold State.rewindEpoch
  repeat' (first
    | ((try lift_lets); intro (x : State); refine Stays.via (s := s0) (x := x) ?_ (fun hx => ?_); rotate_left; clear_value x; rotate_left; unfold x)
    | ((try lift_lets); intro x; clear_value x)
    | with_reducible assumption
    | with_reducible apply State.setField_stays
    | with_reducible apply State.setTile_stays
    | with_reducible apply State.setF_stays
    | with_reducible refine Stays.foldl ?_ (fun u x hu => ?_)
    | split
    | (dsimp only)
    | (with_reducible apply Stays.upd; first | with_reducible assumption | with_reducible apply State.setField_stays | with_reducible apply State.setTile_stays | with_reducible apply State.setF_stays | split))

theorem State.flushQueue_stays {x : StepSt} {e q n : Nat} :
    ∀ {s : State}, Stays s0 s → Stays s0 (State.flushQueue x e q n s) := by
  induction n with
  | zero => exact fun h => h
  | succ n ih =>
    intro s h
    unfold State.flushQueue
    split
    · split
      · exact ih (State.complete_stays h)
      · exact h
    · exact h

theorem State.releaseRecovery_stays  (hk : Stays s0 s) : Stays s0 (State.releaseRecovery s) := by
  unfold State.releaseRecovery
  repeat' (first
    | ((try lift_lets); intro (x : State); refine Stays.via (s := s0) (x := x) ?_ (fun hx => ?_); rotate_left; clear_value x; rotate_left; unfold x)
    | ((try lift_lets); intro x; clear_value x)
    | with_reducible assumption
    | with_reducible apply State.drainStart_stays
    | with_reducible refine Stays.foldl ?_ (fun u x hu => ?_)
    | split
    | (dsimp only)
    | (with_reducible apply Stays.upd; first | with_reducible assumption | with_reducible apply State.drainStart_stays | split))

theorem State.finishStep_stays {x : StepSt} (hk : Stays s0 s) : Stays s0 (State.finishStep s x) := by
  unfold State.finishStep
  repeat' (first
    | ((try lift_lets); intro (x : State); refine Stays.via (s := s0) (x := x) ?_ (fun hx => ?_); rotate_left; clear_value x; rotate_left; unfold x)
    | ((try lift_lets); intro x; clear_value x)
    | with_reducible assumption
    | with_reducible apply State.releaseRecovery_stays
    | with_reducible apply State.flushQueue_stays
    | with_reducible apply State.endStep_stays
    | with_reducible apply State.closeOpen_stays
    | with_reducible apply State.taint_stays
    | with_reducible apply State.complete_stays
    | with_reducible refine Stays.foldl ?_ (fun u x hu => ?_)
    | split
    | (dsimp only)
    | (with_reducible apply Stays.upd; first | with_reducible assumption | with_reducible apply State.releaseRecovery_stays | with_reducible apply State.flushQueue_stays | with_reducible apply State.endStep_stays | with_reducible apply State.closeOpen_stays | with_reducible apply State.taint_stays | with_reducible apply State.complete_stays | split))

theorem execStepEnd_stays  : StaysOut s (execStepEnd s) := by
  unfold execStepEnd
  have hk : Stays s s := Stays.refl s
  repeat' (first
    | with_reducible apply StaysOut.next
    | ((try lift_lets); intro (x : State); refine Stays.via (s := s) (x := x) ?_ (fun hx => ?_); rotate_left; clear_value x; rotate_left; unfold x)
    | ((try lift_lets); intro x; clear_value x)
    | with_reducible assumption
    | with_reducible apply State.finishStep_stays
    | with_reducible apply State.cancelStep_stays
    | split
    | (dsimp only)
    | (with_reducible apply Stays.upd; first | with_reducible assumption | with_reducible apply State.finishStep_stays | with_reducible apply State.cancelStep_stays | split))

theorem State.abortStep_stays  (hk : Stays s0 s) : Stays s0 (State.abortStep s) := by
  unfold State.abortStep
  repeat' (first
    | ((try lift_lets); intro (x : State); refine Stays.via (s := s0) (x := x) ?_ (fun hx => ?_); rotate_left; clear_value x; rotate_left; unfold x)
    | ((try lift_lets); intro x; clear_value x)
    | with_reducible assumption
    | split
    | (dsimp only)
    | (with_reducible apply Stays.upd; first | with_reducible assumption | split))

theorem State.stepWrite_stays {fw : Bool} {value : W64} (hk : Stays s0 s) : Stays s0 (State.stepWrite s fw value) := by
  unfold State.stepWrite
  repeat' (first
    | ((try lift_lets); intro (x : State); refine Stays.via (s := s0) (x := x) ?_ (fun hx => ?_); rotate_left; clear_value x; rotate_left; unfold x)
    | ((try lift_lets); intro x; clear_value x)
    | with_reducible assumption
    | with_reducible apply State.abortStep_stays
    | with_reducible refine State.regWrite_stays ?_ (fun u hu => ?_)
    | split
    | (dsimp only)
    | (with_reducible apply Stays.upd; first | with_reducible assumption | with_reducible apply State.abortStep_stays | with_reducible refine State.regWrite_stays ?_ (fun u hu => ?_) | split))

theorem execStepAbort_stays {fw : Bool} {value : W64} : StaysOut s (execStepAbort fw value s) := by
  unfold execStepAbort
  have hk : Stays s s := Stays.refl s
  repeat' (first
    | with_reducible apply StaysOut.next
    | ((try lift_lets); intro (x : State); refine Stays.via (s := s) (x := x) ?_ (fun hx => ?_); rotate_left; clear_value x; rotate_left; unfold x)
    | ((try lift_lets); intro x; clear_value x)
    | with_reducible assumption
    | with_reducible apply State.stepWrite_stays
    | split
    | (dsimp only)
    | (with_reducible apply Stays.upd; first | with_reducible assumption | with_reducible apply State.stepWrite_stays | split))

end Sys2Proof.Machine
end

