-- ==== Sys2Proof/Laws/KeepsEdgeHost.lean ====
section
/-!
SUPPORT. What the operations of Machine/EdgeHost keep (Laws/Keeps).
-/
namespace Sys2Proof.Machine

set_option linter.all false

variable {s0 s : State}

theorem State.burstFound_stays {p : Fin 2} {b err : Nat} (hk : Stays s0 s) : Stays s0 (State.burstFound s p b err) := by
  unfold State.burstFound
  repeat' (first
    | ((try lift_lets); intro (x : State); refine Stays.via (s := s0) (x := x) ?_ (fun hx => ?_); rotate_left; clear_value x; rotate_left; unfold x)
    | ((try lift_lets); intro x; clear_value x)
    | with_reducible assumption
    | with_reducible apply State.count_stays
    | with_reducible apply State.setBurst_stays
    | split
    | (dsimp only)
    | (with_reducible apply Stays.upd; first | with_reducible assumption | with_reducible apply State.count_stays | with_reducible apply State.setBurst_stays | split))

theorem execEdgeMemoryAccess_stays {p : Fin 2} {ctx seq burst : Nat} {err : Fin 4} : StaysOut s (execEdgeMemoryAccess p ctx seq burst err s) := by
  unfold execEdgeMemoryAccess
  have hk : Stays s s := Stays.refl s
  repeat' (first
    | with_reducible apply StaysOut.next
    | ((try lift_lets); intro (x : State); refine Stays.via (s := s) (x := x) ?_ (fun hx => ?_); rotate_left; clear_value x; rotate_left; unfold x)
    | ((try lift_lets); intro x; clear_value x)
    | with_reducible assumption
    | with_reducible apply State.edgeBack_stays
    | with_reducible apply State.burstFound_stays
    | split
    | (dsimp only)
    | (with_reducible apply Stays.upd; first | with_reducible assumption | with_reducible apply State.edgeBack_stays | with_reducible apply State.burstFound_stays | split))

theorem execRefresh_stays {p : Fin 2} {stack : Fin 24} {rfm : Bool} : StaysOut s (execRefresh p stack rfm s) := by
  unfold execRefresh
  have hk : Stays s s := Stays.refl s
  repeat' (first
    | with_reducible apply StaysOut.next
    | ((try lift_lets); intro (x : State); refine Stays.via (s := s) (x := x) ?_ (fun hx => ?_); rotate_left; clear_value x; rotate_left; unfold x)
    | ((try lift_lets); intro x; clear_value x)
    | with_reducible assumption
    | with_reducible apply State.count_stays
    | split
    | (dsimp only)
    | (with_reducible apply Stays.upd; first | with_reducible assumption | with_reducible apply State.count_stays | split))

theorem State.stackHeatSet_stays {k temp : Nat} (hk : Stays s0 s) : Stays s0 (State.stackHeatSet s k temp) := by
  unfold State.stackHeatSet
  repeat' (first
    | ((try lift_lets); intro (x : State); refine Stays.via (s := s0) (x := x) ?_ (fun hx => ?_); rotate_left; clear_value x; rotate_left; unfold x)
    | ((try lift_lets); intro x; clear_value x)
    | with_reducible assumption
    | with_reducible apply State.count_stays
    | split
    | (dsimp only)
    | (with_reducible apply Stays.upd; first | with_reducible assumption | with_reducible apply State.count_stays | split))

theorem execHbmTempReadout_stays {p : Fin 2} {stack : Fin 24} {temp : BitVec 8} : StaysOut s (execHbmTempReadout p stack temp s) := by
  unfold execHbmTempReadout
  have hk : Stays s s := Stays.refl s
  repeat' (first
    | with_reducible apply StaysOut.next
    | ((try lift_lets); intro (x : State); refine Stays.via (s := s) (x := x) ?_ (fun hx => ?_); rotate_left; clear_value x; rotate_left; unfold x)
    | ((try lift_lets); intro x; clear_value x)
    | with_reducible assumption
    | with_reducible apply State.setF_stays
    | with_reducible apply State.stackHeatSet_stays
    | split
    | (dsimp only)
    | (with_reducible apply Stays.upd; first | with_reducible assumption | with_reducible apply State.setF_stays | with_reducible apply State.stackHeatSet_stays | split))

theorem execPatrolScrub_stays {p : Fin 2} {err : Fin 4} : StaysOut s (execPatrolScrub p err s) := by
  unfold execPatrolScrub
  have hk : Stays s s := Stays.refl s
  repeat' (first
    | with_reducible apply StaysOut.next
    | ((try lift_lets); intro (x : State); refine Stays.via (s := s) (x := x) ?_ (fun hx => ?_); rotate_left; clear_value x; rotate_left; unfold x)
    | ((try lift_lets); intro (x : State × _); refine Stays.via (s := s) (x := x.1) ?_ (fun hx => ?_); rotate_left; clear_value x; rotate_left; unfold x)
    | ((try lift_lets); intro (x : _ × State); refine Stays.via (s := s) (x := x.2) ?_ (fun hx => ?_); rotate_left; clear_value x; rotate_left; unfold x)
    | ((try lift_lets); intro x; clear_value x)
    | with_reducible assumption
    | with_reducible apply State.burstFound_stays
    | with_reducible refine Stays.of_fst (State.readBurst_stays ?_) (by assumption)
    | with_reducible apply State.readBurst_stays
    | with_reducible apply State.setBurst_stays
    | split
    | (dsimp only)
    | (with_reducible apply Stays.upd; first | with_reducible assumption | with_reducible apply State.burstFound_stays | with_reducible refine Stays.of_fst (State.readBurst_stays ?_) (by assumption) | with_reducible apply State.readBurst_stays | with_reducible apply State.setBurst_stays | split))

theorem execBurstWriteback_stays {p : Fin 2} {burst : Nat} : StaysOut s (execBurstWriteback p burst s) := by
  unfold execBurstWriteback
  have hk : Stays s s := Stays.refl s
  repeat' (first
    | with_reducible apply StaysOut.next
    | ((try lift_lets); intro (x : State); refine Stays.via (s := s) (x := x) ?_ (fun hx => ?_); rotate_left; clear_value x; rotate_left; unfold x)
    | ((try lift_lets); intro x; clear_value x)
    | with_reducible assumption
    | with_reducible apply State.setBurst_stays
    | split
    | (dsimp only)
    | (with_reducible apply Stays.upd; first | with_reducible assumption | with_reducible apply State.setBurst_stays | split))

theorem State.moduleDown_stays {state : Nat} (hk : Stays s0 s) : Stays s0 (State.moduleDown s state) := by
  unfold State.moduleDown
  repeat' (first
    | ((try lift_lets); intro (x : State); refine Stays.via (s := s0) (x := x) ?_ (fun hx => ?_); rotate_left; clear_value x; rotate_left; unfold x)
    | ((try lift_lets); intro x; clear_value x)
    | with_reducible assumption
    | with_reducible apply State.setErr_stays
    | with_reducible apply State.setF_stays
    | with_reducible apply State.failStep_stays
    | split
    | (dsimp only)
    | (with_reducible apply Stays.upd; first | with_reducible assumption | with_reducible apply State.setErr_stays | with_reducible apply State.setF_stays | with_reducible apply State.failStep_stays | split))

theorem execStackFail_stays {p : Fin 2} {stack : Fin 24} : StaysOut s (execStackFail p stack s) := by
  unfold execStackFail
  have hk : Stays s s := Stays.refl s
  repeat' (first
    | with_reducible apply StaysOut.next
    | ((try lift_lets); intro (x : State); refine Stays.via (s := s) (x := x) ?_ (fun hx => ?_); rotate_left; clear_value x; rotate_left; unfold x)
    | ((try lift_lets); intro x; clear_value x)
    | with_reducible assumption
    | with_reducible apply State.raise_stays
    | with_reducible apply State.setIrq_stays
    | with_reducible apply State.setF_stays
    | with_reducible apply State.moduleDown_stays
    | with_reducible apply State.retain_stays
    | split
    | (dsimp only)
    | (with_reducible apply Stays.upd; first | with_reducible assumption | with_reducible apply State.raise_stays | with_reducible apply State.setIrq_stays | with_reducible apply State.setF_stays | with_reducible apply State.moduleDown_stays | with_reducible apply State.retain_stays | split))

theorem execSelfRefreshEntry_stays {p : Fin 2} : StaysOut s (execSelfRefreshEntry p s) := by
  unfold execSelfRefreshEntry
  have hk : Stays s s := Stays.refl s
  repeat' (first
    | with_reducible apply StaysOut.next
    | ((try lift_lets); intro (x : State); refine Stays.via (s := s) (x := x) ?_ (fun hx => ?_); rotate_left; clear_value x; rotate_left; unfold x)
    | ((try lift_lets); intro x; clear_value x)
    | with_reducible assumption
    | split
    | (dsimp only)
    | (with_reducible apply Stays.upd; first | with_reducible assumption | split))

theorem execSelfRefreshExit_stays {p : Fin 2} : StaysOut s (execSelfRefreshExit p s) := by
  unfold execSelfRefreshExit
  have hk : Stays s s := Stays.refl s
  repeat' (first
    | with_reducible apply StaysOut.next
    | ((try lift_lets); intro (x : State); refine Stays.via (s := s) (x := x) ?_ (fun hx => ?_); rotate_left; clear_value x; rotate_left; unfold x)
    | ((try lift_lets); intro x; clear_value x)
    | with_reducible assumption
    | split
    | (dsimp only)
    | (with_reducible apply Stays.upd; first | with_reducible assumption | split))

theorem State.respond_stays {o : HostOut} (hk : Stays s0 s) : Stays s0 (State.respond s o) := by
  unfold State.respond
  repeat' (first
    | ((try lift_lets); intro (x : State); refine Stays.via (s := s0) (x := x) ?_ (fun hx => ?_); rotate_left; clear_value x; rotate_left; unfold x)
    | ((try lift_lets); intro x; clear_value x)
    | with_reducible assumption
    | split
    | (dsimp only)
    | (with_reducible apply Stays.upd; first | with_reducible assumption | split))

theorem State.refusedAccess_stays {bar : Nat} {write poisoned : Bool} {off : Nat} (hk : Stays s0 s) : Stays s0 (State.refusedAccess s bar write poisoned off) := by
  unfold State.refusedAccess
  repeat' (first
    | ((try lift_lets); intro (x : State); refine Stays.via (s := s0) (x := x) ?_ (fun hx => ?_); rotate_left; clear_value x; rotate_left; unfold x)
    | ((try lift_lets); intro x; clear_value x)
    | with_reducible assumption
    | with_reducible apply State.count_stays
    | with_reducible apply State.badAccess_stays
    | split
    | (dsimp only)
    | (with_reducible apply Stays.upd; first | with_reducible assumption | with_reducible apply State.count_stays | with_reducible apply State.badAccess_stays | split))

theorem execBar4Access_stays {off : Nat} {write poisoned : Bool} {bytes : List Byte} {len : Nat} : StaysOut s (execBar4Access off write poisoned bytes len s) := by
  unfold execBar4Access
  have hk : Stays s s := Stays.refl s
  repeat' (first
    | with_reducible apply StaysOut.next
    | ((try lift_lets); intro (x : State); refine Stays.via (s := s) (x := x) ?_ (fun hx => ?_); rotate_left; clear_value x; rotate_left; unfold x)
    | ((try lift_lets); intro (x : State × _); refine Stays.via (s := s) (x := x.1) ?_ (fun hx => ?_); rotate_left; clear_value x; rotate_left; unfold x)
    | ((try lift_lets); intro (x : _ × State); refine Stays.via (s := s) (x := x.2) ?_ (fun hx => ?_); rotate_left; clear_value x; rotate_left; unfold x)
    | ((try lift_lets); intro x; clear_value x)
    | with_reducible assumption
    | with_reducible apply State.badAccess_stays
    | with_reducible apply State.refusedAccess_stays
    | with_reducible apply State.respond_stays
    | with_reducible apply State.edgeWrite_stays
    | with_reducible refine Stays.of_fst (State.edgeRead_stays ?_) (by assumption)
    | with_reducible apply State.edgeRead_stays
    | with_reducible apply State.setBurst_stays
    | with_reducible refine Stays.foldl ?_ (fun u x hu => ?_)
    | with_reducible refine Stays.foldl_fst ?_ (fun u x hu => ?_)
    | split
    | (dsimp only)
    | (with_reducible apply Stays.upd; first | with_reducible assumption | with_reducible apply State.badAccess_stays | with_reducible apply State.refusedAccess_stays | with_reducible apply State.respond_stays | with_reducible apply State.edgeWrite_stays | with_reducible refine Stays.of_fst (State.edgeRead_stays ?_) (by assumption) | with_reducible apply State.edgeRead_stays | with_reducible apply State.setBurst_stays | split))

theorem execBar0BadRead_stays {off : Nat} : StaysOut s (execBar0BadRead off s) := by
  unfold execBar0BadRead
  have hk : Stays s s := Stays.refl s
  repeat' (first
    | with_reducible apply StaysOut.next
    | ((try lift_lets); intro (x : State); refine Stays.via (s := s) (x := x) ?_ (fun hx => ?_); rotate_left; clear_value x; rotate_left; unfold x)
    | ((try lift_lets); intro x; clear_value x)
    | with_reducible assumption
    | with_reducible apply State.refusedAccess_stays
    | with_reducible apply State.respond_stays
    | split
    | (dsimp only)
    | (with_reducible apply Stays.upd; first | with_reducible assumption | with_reducible apply State.refusedAccess_stays | with_reducible apply State.respond_stays | split))

theorem State.resetPage_stays {p : Page} (hk : Stays s0 s) : Stays s0 (State.resetPage s p) := by
  unfold State.resetPage
  repeat' (first
    | ((try lift_lets); intro (x : State); refine Stays.via (s := s0) (x := x) ?_ (fun hx => ?_); rotate_left; clear_value x; rotate_left; unfold x)
    | ((try lift_lets); intro x; clear_value x)
    | with_reducible assumption
    | exact Stays.regs (by assumption) (fun w => storeWf_filter _ _ _ w)
    | split
    | (dsimp only)
    | (with_reducible apply Stays.upd; first | with_reducible assumption | split))

theorem State.releaseHost_stays  (hk : Stays s0 s) : Stays s0 (State.releaseHost s) := by
  unfold State.releaseHost
  repeat' (first
    | ((try lift_lets); intro (x : State); refine Stays.via (s := s0) (x := x) ?_ (fun hx => ?_); rotate_left; clear_value x; rotate_left; unfold x)
    | ((try lift_lets); intro x; clear_value x)
    | with_reducible assumption
    | split
    | (dsimp only)
    | (with_reducible apply Stays.upd; first | with_reducible assumption | split))

theorem execPcieReset_stays {link : W64} : StaysOut s (execPcieReset link s) := by
  refine StaysOut.next (State.setIrq_stays (State.setReg_stays (State.raiseF_stays (State.setF_stays ?_))))
  have h : Stays s (s.resetPage ⟨.HIF, 0⟩) := State.resetPage_stays (Stays.refl s)
  exact (h.msix (l := []) (fun _ => rfl)).upd

theorem State.dropHostQueues_stays  (hk : Stays s0 s) : Stays s0 (State.dropHostQueues s) := by
  unfold State.dropHostQueues
  repeat' (first
    | ((try lift_lets); intro (x : State); refine Stays.via (s := s0) (x := x) ?_ (fun hx => ?_); rotate_left; clear_value x; rotate_left; unfold x)
    | ((try lift_lets); intro x; clear_value x)
    | with_reducible assumption
    | with_reducible apply State.setF_stays
    | with_reducible apply State.disableQueue_stays
    | with_reducible refine Stays.foldl ?_ (fun u x hu => ?_)
    | split
    | (dsimp only)
    | (with_reducible apply Stays.upd; first | with_reducible assumption | with_reducible apply State.setF_stays | with_reducible apply State.disableQueue_stays | split))

theorem State.dmaCtlWrite_stays {fw : Bool} {value : W64} (hk : Stays s0 s) : Stays s0 (State.dmaCtlWrite s fw value) := by
  unfold State.dmaCtlWrite
  repeat' (first
    | ((try lift_lets); intro (x : State); refine Stays.via (s := s0) (x := x) ?_ (fun hx => ?_); rotate_left; clear_value x; rotate_left; unfold x)
    | ((try lift_lets); intro x; clear_value x)
    | with_reducible assumption
    | with_reducible refine State.regWrite_stays ?_ (fun u hu => ?_)
    | with_reducible apply State.count_stays
    | with_reducible apply State.setF_stays
    | with_reducible apply State.dropHostQueues_stays
    | with_reducible apply State.releaseHost_stays
    | split
    | (dsimp only)
    | (with_reducible apply Stays.upd; first | with_reducible assumption | with_reducible refine State.regWrite_stays ?_ (fun u hu => ?_) | with_reducible apply State.count_stays | with_reducible apply State.setF_stays | with_reducible apply State.dropHostQueues_stays | with_reducible apply State.releaseHost_stays | split))

theorem execDmaResume_stays {fw : Bool} {value : W64} : StaysOut s (execDmaResume fw value s) := by
  unfold execDmaResume
  have hk : Stays s s := Stays.refl s
  repeat' (first
    | with_reducible apply StaysOut.next
    | ((try lift_lets); intro (x : State); refine Stays.via (s := s) (x := x) ?_ (fun hx => ?_); rotate_left; clear_value x; rotate_left; unfold x)
    | ((try lift_lets); intro x; clear_value x)
    | with_reducible assumption
    | with_reducible apply State.dmaCtlWrite_stays
    | split
    | (dsimp only)
    | (with_reducible apply Stays.upd; first | with_reducible assumption | with_reducible apply State.dmaCtlWrite_stays | split))

theorem execDmaDiscard_stays {fw : Bool} {value : W64} : StaysOut s (execDmaDiscard fw value s) := by
  unfold execDmaDiscard
  have hk : Stays s s := Stays.refl s
  repeat' (first
    | with_reducible apply StaysOut.next
    | ((try lift_lets); intro (x : State); refine Stays.via (s := s) (x := x) ?_ (fun hx => ?_); rotate_left; clear_value x; rotate_left; unfold x)
    | ((try lift_lets); intro x; clear_value x)
    | with_reducible assumption
    | with_reducible apply State.dmaCtlWrite_stays
    | split
    | (dsimp only)
    | (with_reducible apply Stays.upd; first | with_reducible assumption | with_reducible apply State.dmaCtlWrite_stays | split))

theorem execConfigSpaceWrite_stays {power : Bool} {v : Nat} : StaysOut s (execConfigSpaceWrite power v s) := by
  unfold execConfigSpaceWrite
  have hk : Stays s s := Stays.refl s
  repeat' (first
    | with_reducible apply StaysOut.next
    | ((try lift_lets); intro (x : State); refine Stays.via (s := s) (x := x) ?_ (fun hx => ?_); rotate_left; clear_value x; rotate_left; unfold x)
    | ((try lift_lets); intro x; clear_value x)
    | with_reducible assumption
    | with_reducible apply State.setF_stays
    | with_reducible apply State.releaseHost_stays
    | split
    | (dsimp only)
    | (with_reducible apply Stays.upd; first | with_reducible assumption | with_reducible apply State.setF_stays | with_reducible apply State.releaseHost_stays | split))

end Sys2Proof.Machine
end

