-- ==== Sys2Proof/Laws/KeepsRails.lean ====
section
/-!
SUPPORT. What the operations of Machine/Rails keep (Laws/Keeps).
-/
namespace Sys2Proof.Machine

set_option linter.all false

variable {s0 s : State}

theorem State.select_stays {f : FieldAddr} (hk : Stays s0 s) : Stays s0 (State.select s f) := by
  unfold State.select
  repeat' (first
    | ((try lift_lets); intro (x : State); refine Stays.via (s := s0) (x := x) ?_ (fun hx => ?_); rotate_left; clear_value x; rotate_left; unfold x)
    | ((try lift_lets); intro x; clear_value x)
    | with_reducible assumption
    | with_reducible apply State.count_stays
    | with_reducible apply State.setF_stays
    | with_reducible refine Stays.foldl ?_ (fun u x hu => ?_)
    | split
    | (dsimp only)
    | (with_reducible apply Stays.upd; first | with_reducible assumption | with_reducible apply State.count_stays | with_reducible apply State.setF_stays | split))

theorem State.selectAll_stays  (hk : Stays s0 s) : Stays s0 (State.selectAll s) := by
  unfold State.selectAll
  repeat' (first
    | ((try lift_lets); intro (x : State); refine Stays.via (s := s0) (x := x) ?_ (fun hx => ?_); rotate_left; clear_value x; rotate_left; unfold x)
    | ((try lift_lets); intro x; clear_value x)
    | with_reducible assumption
    | with_reducible apply State.select_stays
    | with_reducible refine Stays.foldl ?_ (fun u x hu => ?_)
    | split
    | (dsimp only)
    | (with_reducible apply Stays.upd; first | with_reducible assumption | with_reducible apply State.select_stays | split))

theorem State.retireBound_stays {f : FieldAddr} {cause code : Nat} {block : Option Nat} (hk : Stays s0 s) : Stays s0 (State.retireBound s f cause code block) := by
  unfold State.retireBound
  repeat' (first
    | ((try lift_lets); intro (x : State); refine Stays.via (s := s0) (x := x) ?_ (fun hx => ?_); rotate_left; clear_value x; rotate_left; unfold x)
    | ((try lift_lets); intro x; clear_value x)
    | with_reducible assumption
    | with_reducible apply State.markRebind_stays
    | with_reducible apply State.retireField_stays
    | split
    | (dsimp only)
    | (with_reducible apply Stays.upd; first | with_reducible assumption | with_reducible apply State.markRebind_stays | with_reducible apply State.retireField_stays | split))

theorem State.noReuse_stays {f : FieldAddr} (hk : Stays s0 s) : Stays s0 (State.noReuse s f) := by
  unfold State.noReuse
  repeat' (first
    | ((try lift_lets); intro (x : State); refine Stays.via (s := s0) (x := x) ?_ (fun hx => ?_); rotate_left; clear_value x; rotate_left; unfold x)
    | ((try lift_lets); intro x; clear_value x)
    | with_reducible assumption
    | with_reducible apply State.setAe_stays
    | split
    | (dsimp only)
    | (with_reducible apply Stays.upd; first | with_reducible assumption | with_reducible apply State.setAe_stays | split))

theorem State.fieldOutcome_stays {f : FieldAddr} {cause : Nat} (hk : Stays s0 s) : Stays s0 (State.fieldOutcome s f cause) := by
  unfold State.fieldOutcome
  repeat' (first
    | ((try lift_lets); intro (x : State); refine Stays.via (s := s0) (x := x) ?_ (fun hx => ?_); rotate_left; clear_value x; rotate_left; unfold x)
    | ((try lift_lets); intro x; clear_value x)
    | with_reducible assumption
    | with_reducible apply State.reportCause_stays
    | with_reducible apply State.failStep_stays
    | split
    | (dsimp only)
    | (with_reducible apply Stays.upd; first | with_reducible assumption | with_reducible apply State.reportCause_stays | with_reducible apply State.failStep_stays | split))

theorem State.openStage_stays {f : FieldAddr} (hk : Stays s0 s) : Stays s0 (State.openStage s f) := by
  unfold State.openStage
  repeat' (first
    | ((try lift_lets); intro (x : State); refine Stays.via (s := s0) (x := x) ?_ (fun hx => ?_); rotate_left; clear_value x; rotate_left; unfold x)
    | ((try lift_lets); intro x; clear_value x)
    | with_reducible assumption
    | with_reducible apply State.setField_stays
    | split
    | (dsimp only)
    | (with_reducible apply Stays.upd; first | with_reducible assumption | with_reducible apply State.setField_stays | split))

theorem State.loseField_stays {f : FieldAddr} {cause : Nat} (hk : Stays s0 s) : Stays s0 (State.loseField s f cause) := by
  unfold State.loseField
  repeat' (first
    | ((try lift_lets); intro (x : State); refine Stays.via (s := s0) (x := x) ?_ (fun hx => ?_); rotate_left; clear_value x; rotate_left; unfold x)
    | ((try lift_lets); intro x; clear_value x)
    | with_reducible assumption
    | with_reducible apply State.openStage_stays
    | with_reducible apply State.fieldOutcome_stays
    | with_reducible apply State.retireBound_stays
    | with_reducible apply State.raise_stays
    | with_reducible apply State.captureFirst_stays
    | with_reducible apply State.count_stays
    | with_reducible apply State.setErr_stays
    | split
    | (dsimp only)
    | (with_reducible apply Stays.upd; first | with_reducible assumption | with_reducible apply State.openStage_stays | with_reducible apply State.fieldOutcome_stays | with_reducible apply State.retireBound_stays | with_reducible apply State.raise_stays | with_reducible apply State.captureFirst_stays | with_reducible apply State.count_stays | with_reducible apply State.setErr_stays | split))

theorem execOvercurrentTrip_stays {f : FieldAddr} : StaysOut s (execOvercurrentTrip f s) := by
  unfold execOvercurrentTrip
  have hk : Stays s s := Stays.refl s
  repeat' (first
    | with_reducible apply StaysOut.next
    | ((try lift_lets); intro (x : State); refine Stays.via (s := s) (x := x) ?_ (fun hx => ?_); rotate_left; clear_value x; rotate_left; unfold x)
    | ((try lift_lets); intro x; clear_value x)
    | with_reducible assumption
    | with_reducible apply State.loseField_stays
    | split
    | (dsimp only)
    | (with_reducible apply Stays.upd; first | with_reducible assumption | with_reducible apply State.loseField_stays | split))

theorem State.noteSupply_stays {f : FieldAddr} {kind pct : Nat} (hk : Stays s0 s) : Stays s0 (State.noteSupply s f kind pct) := by
  unfold State.noteSupply
  repeat' (first
    | ((try lift_lets); intro (x : State); refine Stays.via (s := s0) (x := x) ?_ (fun hx => ?_); rotate_left; clear_value x; rotate_left; unfold x)
    | ((try lift_lets); intro x; clear_value x)
    | with_reducible assumption
    | with_reducible apply State.raiseOnce_stays
    | with_reducible apply State.raise_stays
    | with_reducible apply State.captureFirst_stays
    | split
    | (dsimp only)
    | (with_reducible apply Stays.upd; first | with_reducible assumption | with_reducible apply State.raiseOnce_stays | with_reducible apply State.raise_stays | with_reducible apply State.captureFirst_stays | split))

theorem execSupplyWarn_stays {f : FieldAddr} {pct : Nat} : StaysOut s (execSupplyWarn f pct s) := by
  unfold execSupplyWarn
  have hk : Stays s s := Stays.refl s
  repeat' (first
    | with_reducible apply StaysOut.next
    | ((try lift_lets); intro (x : State); refine Stays.via (s := s) (x := x) ?_ (fun hx => ?_); rotate_left; clear_value x; rotate_left; unfold x)
    | ((try lift_lets); intro x; clear_value x)
    | with_reducible assumption
    | with_reducible apply State.noteSupply_stays
    | with_reducible apply State.count_stays
    | with_reducible apply State.setIrq_stays
    | with_reducible apply State.setField_stays
    | with_reducible apply State.raiseF_stays
    | with_reducible apply State.setF_stays
    | split
    | (dsimp only)
    | (with_reducible apply Stays.upd; first | with_reducible assumption | with_reducible apply State.noteSupply_stays | with_reducible apply State.count_stays | with_reducible apply State.setIrq_stays | with_reducible apply State.setField_stays | with_reducible apply State.raiseF_stays | with_reducible apply State.setF_stays | split))

theorem execSupplyRecover_stays {f : FieldAddr} : StaysOut s (execSupplyRecover f s) := by
  unfold execSupplyRecover
  have hk : Stays s s := Stays.refl s
  repeat' (first
    | with_reducible apply StaysOut.next
    | ((try lift_lets); intro (x : State); refine Stays.via (s := s) (x := x) ?_ (fun hx => ?_); rotate_left; clear_value x; rotate_left; unfold x)
    | ((try lift_lets); intro x; clear_value x)
    | with_reducible assumption
    | with_reducible apply State.select_stays
    | with_reducible apply State.setField_stays
    | with_reducible apply State.setF_stays
    | split
    | (dsimp only)
    | (with_reducible apply Stays.upd; first | with_reducible assumption | with_reducible apply State.select_stays | with_reducible apply State.setField_stays | with_reducible apply State.setF_stays | split))

theorem State.assertReset_stays {f : FieldAddr} {pct : Nat} {third : Bool} (hk : Stays s0 s) : Stays s0 (State.assertReset s f pct third) := by
  unfold State.assertReset
  repeat' (first
    | ((try lift_lets); intro (x : State); refine Stays.via (s := s0) (x := x) ?_ (fun hx => ?_); rotate_left; clear_value x; rotate_left; unfold x)
    | ((try lift_lets); intro x; clear_value x)
    | with_reducible assumption
    | with_reducible apply State.noteSupply_stays
    | with_reducible apply State.openStage_stays
    | with_reducible apply State.fieldOutcome_stays
    | with_reducible apply State.noReuse_stays
    | with_reducible apply State.retireBound_stays
    | with_reducible apply State.count_stays
    | with_reducible apply State.setField_stays
    | split
    | (dsimp only)
    | (with_reducible apply Stays.upd; first | with_reducible assumption | with_reducible apply State.noteSupply_stays | with_reducible apply State.openStage_stays | with_reducible apply State.fieldOutcome_stays | with_reducible apply State.noReuse_stays | with_reducible apply State.retireBound_stays | with_reducible apply State.count_stays | with_reducible apply State.setField_stays | split))

theorem execFieldReset_stays {f : FieldAddr} {pct : Nat} {third : Bool} : StaysOut s (execFieldReset f pct third s) := by
  unfold execFieldReset
  have hk : Stays s s := Stays.refl s
  repeat' (first
    | with_reducible apply StaysOut.next
    | ((try lift_lets); intro (x : State); refine Stays.via (s := s) (x := x) ?_ (fun hx => ?_); rotate_left; clear_value x; rotate_left; unfold x)
    | ((try lift_lets); intro x; clear_value x)
    | with_reducible assumption
    | with_reducible apply State.assertReset_stays
    | split
    | (dsimp only)
    | (with_reducible apply Stays.upd; first | with_reducible assumption | with_reducible apply State.assertReset_stays | split))

theorem State.resetPages_stays {f : FieldAddr} (hk : Stays s0 s) : Stays s0 (State.resetPages s f) := by
  unfold State.resetPages
  repeat' (first
    | ((try lift_lets); intro (x : State); refine Stays.via (s := s0) (x := x) ?_ (fun hx => ?_); rotate_left; clear_value x; rotate_left; unfold x)
    | ((try lift_lets); intro (x : _ → _); dsimp -zeta only [x]; clear x)
    | ((try lift_lets); intro x; clear_value x)
    | with_reducible assumption
    | exact Stays.regs (by assumption) (fun w => (storeWf_mapKeys _ _ _ _ w).1)
    | split
    | (dsimp only)
    | (with_reducible apply Stays.upd; first | with_reducible assumption | split))

theorem State.resetTiles_stays {f : FieldAddr} (hk : Stays s0 s) : Stays s0 (State.resetTiles s f) := by
  unfold State.resetTiles
  repeat' (first
    | ((try lift_lets); intro (x : State); refine Stays.via (s := s0) (x := x) ?_ (fun hx => ?_); rotate_left; clear_value x; rotate_left; unfold x)
    | ((try lift_lets); intro x; clear_value x)
    | with_reducible assumption
    | with_reducible apply State.setTile_stays
    | with_reducible refine Stays.foldl ?_ (fun u x hu => ?_)
    | split
    | (dsimp only)
    | (with_reducible apply Stays.upd; first | with_reducible assumption | with_reducible apply State.setTile_stays | split))

theorem execFieldResetRecovery_stays {f : FieldAddr} : StaysOut s (execFieldResetRecovery f s) := by
  unfold execFieldResetRecovery
  have hk : Stays s s := Stays.refl s
  repeat' (first
    | with_reducible apply StaysOut.next
    | ((try lift_lets); intro (x : State); refine Stays.via (s := s) (x := x) ?_ (fun hx => ?_); rotate_left; clear_value x; rotate_left; unfold x)
    | ((try lift_lets); intro x; clear_value x)
    | with_reducible assumption
    | with_reducible apply State.resetTiles_stays
    | with_reducible apply State.resetPages_stays
    | with_reducible apply State.select_stays
    | with_reducible apply State.setField_stays
    | with_reducible apply State.setF_stays
    | split
    | (dsimp only)
    | (with_reducible apply Stays.upd; first | with_reducible assumption | with_reducible apply State.resetTiles_stays | with_reducible apply State.resetPages_stays | with_reducible apply State.select_stays | with_reducible apply State.setField_stays | with_reducible apply State.setF_stays | split))

theorem execNoRecover_stays {f : FieldAddr} : StaysOut s (execNoRecover f s) := by
  unfold execNoRecover
  have hk : Stays s s := Stays.refl s
  repeat' (first
    | with_reducible apply StaysOut.next
    | ((try lift_lets); intro (x : State); refine Stays.via (s := s) (x := x) ?_ (fun hx => ?_); rotate_left; clear_value x; rotate_left; unfold x)
    | ((try lift_lets); intro x; clear_value x)
    | with_reducible assumption
    | with_reducible apply State.loseField_stays
    | split
    | (dsimp only)
    | (with_reducible apply Stays.upd; first | with_reducible assumption | with_reducible apply State.loseField_stays | split))

theorem execLockLoss_stays {domain : Fin 18} {f : FieldAddr} {block : Fin 12} : StaysOut s (execLockLoss domain f block s) := by
  unfold execLockLoss
  have hk : Stays s s := Stays.refl s
  repeat' (first
    | with_reducible apply StaysOut.next
    | ((try lift_lets); intro (x : State); refine Stays.via (s := s) (x := x) ?_ (fun hx => ?_); rotate_left; clear_value x; rotate_left; unfold x)
    | ((try lift_lets); intro x; clear_value x)
    | with_reducible assumption
    | with_reducible apply State.setField_stays
    | split
    | (dsimp only)
    | (with_reducible apply Stays.upd; first | with_reducible assumption | with_reducible apply State.setField_stays | split))

theorem execClockRelock_stays {domain : Fin 18} {f : FieldAddr} {block : Fin 12} : StaysOut s (execClockRelock domain f block s) := by
  unfold execClockRelock
  have hk : Stays s s := Stays.refl s
  repeat' (first
    | with_reducible apply StaysOut.next
    | ((try lift_lets); intro (x : State); refine Stays.via (s := s) (x := x) ?_ (fun hx => ?_); rotate_left; clear_value x; rotate_left; unfold x)
    | ((try lift_lets); intro x; clear_value x)
    | with_reducible assumption
    | with_reducible apply State.setField_stays
    | split
    | (dsimp only)
    | (with_reducible apply Stays.upd; first | with_reducible assumption | with_reducible apply State.setField_stays | split))

theorem execRelockTimeout_stays {domain : Fin 18} {f : FieldAddr} {block : Fin 12} {unit : Fin 80} {lanes : BitVec 8} {lost pct : Nat} {third : Bool} : StaysOut s (execRelockTimeout domain f block unit lanes lost pct third s) := by
  unfold execRelockTimeout
  have hk : Stays s s := Stays.refl s
  repeat' (first
    | with_reducible apply StaysOut.next
    | ((try lift_lets); intro (x : State); refine Stays.via (s := s) (x := x) ?_ (fun hx => ?_); rotate_left; clear_value x; rotate_left; unfold x)
    | ((try lift_lets); intro x; clear_value x)
    | with_reducible assumption
    | with_reducible apply State.laneFail_stays
    | with_reducible apply State.groupsOut_stays
    | with_reducible apply State.assertReset_stays
    | with_reducible apply State.loseField_stays
    | with_reducible apply State.raise_stays
    | with_reducible apply State.setField_stays
    | with_reducible apply State.moduleDown_stays
    | split
    | (dsimp only)
    | (with_reducible apply Stays.upd; first | with_reducible assumption | with_reducible apply State.laneFail_stays | with_reducible apply State.groupsOut_stays | with_reducible apply State.assertReset_stays | with_reducible apply State.loseField_stays | with_reducible apply State.raise_stays | with_reducible apply State.setField_stays | with_reducible apply State.moduleDown_stays | split))

theorem execRefFailover_stays  : StaysOut s (execRefFailover s) := by
  unfold execRefFailover
  have hk : Stays s s := Stays.refl s
  repeat' (first
    | with_reducible apply StaysOut.next
    | ((try lift_lets); intro (x : State); refine Stays.via (s := s) (x := x) ?_ (fun hx => ?_); rotate_left; clear_value x; rotate_left; unfold x)
    | ((try lift_lets); intro x; clear_value x)
    | with_reducible assumption
    | with_reducible apply State.raise_stays
    | split
    | (dsimp only)
    | (with_reducible apply Stays.upd; first | with_reducible assumption | with_reducible apply State.raise_stays | split))

theorem execAgeingRead_stays {f : FieldAddr} {block : Fin 12} {age : Nat} : StaysOut s (execAgeingRead f block age s) := by
  unfold execAgeingRead
  have hk : Stays s s := Stays.refl s
  repeat' (first
    | with_reducible apply StaysOut.next
    | ((try lift_lets); intro (x : State); refine Stays.via (s := s) (x := x) ?_ (fun hx => ?_); rotate_left; clear_value x; rotate_left; unfold x)
    | ((try lift_lets); intro x; clear_value x)
    | with_reducible assumption
    | with_reducible apply State.retireBound_stays
    | with_reducible apply State.select_stays
    | with_reducible apply State.setF_stays
    | split
    | (dsimp only)
    | (with_reducible apply Stays.upd; first | with_reducible assumption | with_reducible apply State.retireBound_stays | with_reducible apply State.select_stays | with_reducible apply State.setF_stays | split))

theorem State.saveTile_stays {a : TileAddr} (hk : Stays s0 s) : Stays s0 (State.saveTile s a) := by
  unfold State.saveTile
  repeat' (first
    | ((try lift_lets); intro (x : State); refine Stays.via (s := s0) (x := x) ?_ (fun hx => ?_); rotate_left; clear_value x; rotate_left; unfold x)
    | ((try lift_lets); intro x; clear_value x)
    | with_reducible assumption
    | with_reducible apply State.countBank_stays
    | with_reducible apply State.setTile_stays
    | with_reducible refine Stays.foldl ?_ (fun u x hu => ?_)
    | split
    | (dsimp only)
    | (with_reducible apply Stays.upd; first | with_reducible assumption | with_reducible apply State.countBank_stays | with_reducible apply State.setTile_stays | split))

theorem State.saveField_stays {f : FieldAddr} (hk : Stays s0 s) : Stays s0 (State.saveField s f) := by
  unfold State.saveField
  repeat' (first
    | ((try lift_lets); intro (x : State); refine Stays.via (s := s0) (x := x) ?_ (fun hx => ?_); rotate_left; clear_value x; rotate_left; unfold x)
    | ((try lift_lets); intro x; clear_value x)
    | with_reducible assumption
    | with_reducible apply State.saveTile_stays
    | with_reducible refine Stays.foldl ?_ (fun u x hu => ?_)
    | split
    | (dsimp only)
    | (with_reducible apply Stays.upd; first | with_reducible assumption | with_reducible apply State.saveTile_stays | split))

theorem State.restoreTile_stays {a : TileAddr} {saved : List Nat} (hk : Stays s0 s) : Stays s0 (State.restoreTile s a saved) := by
  unfold State.restoreTile
  repeat' (first
    | ((try lift_lets); intro (x : State); refine Stays.via (s := s0) (x := x) ?_ (fun hx => ?_); rotate_left; clear_value x; rotate_left; unfold x)
    | ((try lift_lets); intro (x : State × _); refine Stays.via (s := s0) (x := x.1) ?_ (fun hx => ?_); rotate_left; clear_value x; rotate_left; unfold x)
    | ((try lift_lets); intro (x : _ × State); refine Stays.via (s := s0) (x := x.2) ?_ (fun hx => ?_); rotate_left; clear_value x; rotate_left; unfold x)
    | ((try lift_lets); intro x; clear_value x)
    | with_reducible assumption
    | with_reducible apply State.failTile_stays
    | with_reducible refine Stays.of_fst (State.readBytes_stays ?_) (by assumption)
    | with_reducible apply State.readBytes_stays
    | with_reducible apply State.setTile_stays
    | with_reducible refine Stays.foldl ?_ (fun u x hu => ?_)
    | with_reducible refine Stays.foldl_fst ?_ (fun u x hu => ?_)
    | split
    | (dsimp only)
    | (with_reducible apply Stays.upd; first | with_reducible assumption | with_reducible apply State.failTile_stays | with_reducible refine Stays.of_fst (State.readBytes_stays ?_) (by assumption) | with_reducible apply State.readBytes_stays | with_reducible apply State.setTile_stays | split))

theorem State.wakeTiles_stays {f : FieldAddr} {router : Bool} (hk : Stays s0 s) : Stays s0 (State.wakeTiles s f router) := by
  unfold State.wakeTiles
  repeat' (first
    | ((try lift_lets); intro (x : State); refine Stays.via (s := s0) (x := x) ?_ (fun hx => ?_); rotate_left; clear_value x; rotate_left; unfold x)
    | ((try lift_lets); intro x; clear_value x)
    | with_reducible assumption
    | with_reducible apply State.restoreTile_stays
    | with_reducible apply State.select_stays
    | with_reducible apply State.setTile_stays
    | with_reducible apply State.setF_stays
    | with_reducible refine Stays.foldl ?_ (fun u x hu => ?_)
    | split
    | (dsimp only)
    | (with_reducible apply Stays.upd; first | with_reducible assumption | with_reducible apply State.restoreTile_stays | with_reducible apply State.select_stays | with_reducible apply State.setTile_stays | with_reducible apply State.setF_stays | split))

end Sys2Proof.Machine
end

