-- ==== Sys2Proof/Laws/KeepsLayby.lean ====
section
/-!
SUPPORT. What the operations of Machine/Layby keep (Laws/Keeps).
-/
namespace Sys2Proof.Machine

set_option linter.all false

variable {s0 s : State}

theorem State.fpwEnd_stays {f : FieldAddr} {result : Nat} (hk : Stays s0 s) : Stays s0 (State.fpwEnd s f result) := by
  unfold State.fpwEnd
  repeat' (first
    | ((try lift_lets); intro (x : State); refine Stays.via (s := s0) (x := x) ?_ (fun hx => ?_); rotate_left; clear_value x; rotate_left; unfold x)
    | ((try lift_lets); intro x; clear_value x)
    | with_reducible assumption
    | with_reducible apply State.setIrq_stays
    | with_reducible apply State.setF_stays
    | split
    | (dsimp only)
    | (with_reducible apply Stays.upd; first | with_reducible assumption | with_reducible apply State.setIrq_stays | with_reducible apply State.setF_stays | split))

theorem State.bedField_stays {f : FieldAddr} {saves : Bool} (hk : Stays s0 s) : Stays s0 (State.bedField s f saves) := by
  unfold State.bedField
  repeat' (first
    | ((try lift_lets); intro (x : State); refine Stays.via (s := s0) (x := x) ?_ (fun hx => ?_); rotate_left; clear_value x; rotate_left; unfold x)
    | ((try lift_lets); intro x; clear_value x)
    | with_reducible assumption
    | with_reducible apply State.flushAll_stays
    | with_reducible apply State.saveField_stays
    | with_reducible apply State.noReuse_stays
    | with_reducible refine Stays.foldl ?_ (fun u x hu => ?_)
    | split
    | (dsimp only)
    | (with_reducible apply Stays.upd; first | with_reducible assumption | with_reducible apply State.flushAll_stays | with_reducible apply State.saveField_stays | with_reducible apply State.noReuse_stays | split))

theorem State.fpwStart_stays {f : FieldAddr} {op : Nat} (hk : Stays s0 s) : Stays s0 (State.fpwStart s f op) := by
  unfold State.fpwStart
  repeat' (first
    | ((try lift_lets); intro (x : State); refine Stays.via (s := s0) (x := x) ?_ (fun hx => ?_); rotate_left; clear_value x; rotate_left; unfold x)
    | ((try lift_lets); intro x; clear_value x)
    | with_reducible assumption
    | with_reducible apply State.startWake_stays
    | with_reducible apply State.setF_stays
    | with_reducible apply State.bedField_stays
    | with_reducible apply State.fpwEnd_stays
    | split
    | (dsimp only)
    | (with_reducible apply Stays.upd; first | with_reducible assumption | with_reducible apply State.startWake_stays | with_reducible apply State.setF_stays | with_reducible apply State.bedField_stays | with_reducible apply State.fpwEnd_stays | split))

theorem State.fpwWrite_stays {f : FieldAddr} {fw : Bool} {value : W64} (hk : Stays s0 s) : Stays s0 (State.fpwWrite s f fw value) := by
  unfold State.fpwWrite
  repeat' (first
    | ((try lift_lets); intro (x : State); refine Stays.via (s := s0) (x := x) ?_ (fun hx => ?_); rotate_left; clear_value x; rotate_left; unfold x)
    | ((try lift_lets); intro x; clear_value x)
    | with_reducible assumption
    | with_reducible refine State.regWrite_stays ?_ (fun u hu => ?_)
    | with_reducible apply State.fpwStart_stays
    | split
    | (dsimp only)
    | (with_reducible apply Stays.upd; first | with_reducible assumption | with_reducible refine State.regWrite_stays ?_ (fun u hu => ?_) | with_reducible apply State.fpwStart_stays | split))

theorem execLayby_stays {f : FieldAddr} {fw : Bool} {value : W64} : StaysOut s (execLayby f fw value s) := by
  unfold execLayby
  have hk : Stays s s := Stays.refl s
  repeat' (first
    | with_reducible apply StaysOut.next
    | ((try lift_lets); intro (x : State); refine Stays.via (s := s) (x := x) ?_ (fun hx => ?_); rotate_left; clear_value x; rotate_left; unfold x)
    | ((try lift_lets); intro x; clear_value x)
    | with_reducible assumption
    | with_reducible apply State.fpwWrite_stays
    | split
    | (dsimp only)
    | (with_reducible apply Stays.upd; first | with_reducible assumption | with_reducible apply State.fpwWrite_stays | split))

theorem execWake_stays {f : FieldAddr} {fw : Bool} {value : W64} : StaysOut s (execWake f fw value s) := by
  unfold execWake
  have hk : Stays s s := Stays.refl s
  repeat' (first
    | with_reducible apply StaysOut.next
    | ((try lift_lets); intro (x : State); refine Stays.via (s := s) (x := x) ?_ (fun hx => ?_); rotate_left; clear_value x; rotate_left; unfold x)
    | ((try lift_lets); intro x; clear_value x)
    | with_reducible assumption
    | with_reducible apply State.fpwWrite_stays
    | split
    | (dsimp only)
    | (with_reducible apply Stays.upd; first | with_reducible assumption | with_reducible apply State.fpwWrite_stays | split))

theorem execPark_stays {f : FieldAddr} {fw : Bool} {value : W64} : StaysOut s (execPark f fw value s) := by
  unfold execPark
  have hk : Stays s s := Stays.refl s
  repeat' (first
    | with_reducible apply StaysOut.next
    | ((try lift_lets); intro (x : State); refine Stays.via (s := s) (x := x) ?_ (fun hx => ?_); rotate_left; clear_value x; rotate_left; unfold x)
    | ((try lift_lets); intro x; clear_value x)
    | with_reducible assumption
    | with_reducible apply State.fpwWrite_stays
    | split
    | (dsimp only)
    | (with_reducible apply Stays.upd; first | with_reducible assumption | with_reducible apply State.fpwWrite_stays | split))

theorem execParkRetain_stays {f : FieldAddr} {fw : Bool} {value : W64} : StaysOut s (execParkRetain f fw value s) := by
  unfold execParkRetain
  have hk : Stays s s := Stays.refl s
  repeat' (first
    | with_reducible apply StaysOut.next
    | ((try lift_lets); intro (x : State); refine Stays.via (s := s) (x := x) ?_ (fun hx => ?_); rotate_left; clear_value x; rotate_left; unfold x)
    | ((try lift_lets); intro x; clear_value x)
    | with_reducible assumption
    | with_reducible apply State.fpwWrite_stays
    | split
    | (dsimp only)
    | (with_reducible apply Stays.upd; first | with_reducible assumption | with_reducible apply State.fpwWrite_stays | split))

theorem execUnpark_stays {f : FieldAddr} {fw : Bool} {value : W64} : StaysOut s (execUnpark f fw value s) := by
  unfold execUnpark
  have hk : Stays s s := Stays.refl s
  repeat' (first
    | with_reducible apply StaysOut.next
    | ((try lift_lets); intro (x : State); refine Stays.via (s := s) (x := x) ?_ (fun hx => ?_); rotate_left; clear_value x; rotate_left; unfold x)
    | ((try lift_lets); intro x; clear_value x)
    | with_reducible assumption
    | with_reducible apply State.fpwWrite_stays
    | split
    | (dsimp only)
    | (with_reducible apply Stays.upd; first | with_reducible assumption | with_reducible apply State.fpwWrite_stays | split))

theorem State.islandsIdle_stays {f : FieldAddr} (hk : Stays s0 s) : Stays s0 (State.islandsIdle s f) := by
  unfold State.islandsIdle
  repeat' (first
    | ((try lift_lets); intro (x : State); refine Stays.via (s := s0) (x := x) ?_ (fun hx => ?_); rotate_left; clear_value x; rotate_left; unfold x)
    | ((try lift_lets); intro x; clear_value x)
    | with_reducible assumption
    | with_reducible apply State.setF_stays
    | with_reducible refine Stays.foldl ?_ (fun u x hu => ?_)
    | split
    | (dsimp only)
    | (with_reducible apply Stays.upd; first | with_reducible assumption | with_reducible apply State.setF_stays | split))

theorem execLaybyDone_stays {f : FieldAddr} : StaysOut s (execLaybyDone f s) := by
  unfold execLaybyDone
  have hk : Stays s s := Stays.refl s
  repeat' (first
    | with_reducible apply StaysOut.next
    | ((try lift_lets); intro (x : State); refine Stays.via (s := s) (x := x) ?_ (fun hx => ?_); rotate_left; clear_value x; rotate_left; unfold x)
    | ((try lift_lets); intro x; clear_value x)
    | with_reducible assumption
    | with_reducible apply State.startWake_stays
    | with_reducible apply State.count_stays
    | with_reducible apply State.setTile_stays
    | with_reducible apply State.setF_stays
    | with_reducible apply State.islandsIdle_stays
    | with_reducible apply State.fpwEnd_stays
    | with_reducible refine Stays.foldl ?_ (fun u x hu => ?_)
    | split
    | (dsimp only)
    | (with_reducible apply Stays.upd; first | with_reducible assumption | with_reducible apply State.startWake_stays | with_reducible apply State.count_stays | with_reducible apply State.setTile_stays | with_reducible apply State.setF_stays | with_reducible apply State.islandsIdle_stays | with_reducible apply State.fpwEnd_stays | split))

theorem execParkDone_stays {f : FieldAddr} : StaysOut s (execParkDone f s) := by
  unfold execParkDone
  have hk : Stays s s := Stays.refl s
  repeat' (first
    | with_reducible apply StaysOut.next
    | ((try lift_lets); intro (x : State); refine Stays.via (s := s) (x := x) ?_ (fun hx => ?_); rotate_left; clear_value x; rotate_left; unfold x)
    | ((try lift_lets); intro x; clear_value x)
    | with_reducible assumption
    | with_reducible apply State.count_stays
    | with_reducible apply State.setField_stays
    | with_reducible apply State.setTile_stays
    | with_reducible apply State.setF_stays
    | with_reducible apply State.islandsIdle_stays
    | with_reducible apply State.fpwEnd_stays
    | with_reducible refine Stays.foldl ?_ (fun u x hu => ?_)
    | split
    | (dsimp only)
    | (with_reducible apply Stays.upd; first | with_reducible assumption | with_reducible apply State.count_stays | with_reducible apply State.setField_stays | with_reducible apply State.setTile_stays | with_reducible apply State.setF_stays | with_reducible apply State.islandsIdle_stays | with_reducible apply State.fpwEnd_stays | split))

theorem State.readyAgain_stays  (hk : Stays s0 s) : Stays s0 (State.readyAgain s) := by
  unfold State.readyAgain
  repeat' (first
    | ((try lift_lets); intro (x : State); refine Stays.via (s := s0) (x := x) ?_ (fun hx => ?_); rotate_left; clear_value x; rotate_left; unfold x)
    | ((try lift_lets); intro x; clear_value x)
    | with_reducible assumption
    | with_reducible apply State.setIrq_stays
    | with_reducible apply State.setF_stays
    | split
    | (dsimp only)
    | (with_reducible apply Stays.upd; first | with_reducible assumption | with_reducible apply State.setIrq_stays | with_reducible apply State.setF_stays | split))

theorem State.awake_stays {f : FieldAddr} {router : Bool} (hk : Stays s0 s) : Stays s0 (State.awake s f router) := by
  unfold State.awake
  repeat' (first
    | ((try lift_lets); intro (x : State); refine Stays.via (s := s0) (x := x) ?_ (fun hx => ?_); rotate_left; clear_value x; rotate_left; unfold x)
    | ((try lift_lets); intro x; clear_value x)
    | with_reducible assumption
    | with_reducible apply State.wakeTiles_stays
    | with_reducible apply State.setField_stays
    | with_reducible apply State.readyAgain_stays
    | with_reducible apply State.fpwEnd_stays
    | split
    | (dsimp only)
    | (with_reducible apply Stays.upd; first | with_reducible assumption | with_reducible apply State.wakeTiles_stays | with_reducible apply State.setField_stays | with_reducible apply State.readyAgain_stays | with_reducible apply State.fpwEnd_stays | split))

theorem execWakeDone_stays {f : FieldAddr} : StaysOut s (execWakeDone f s) := by
  unfold execWakeDone
  have hk : Stays s s := Stays.refl s
  repeat' (first
    | with_reducible apply StaysOut.next
    | ((try lift_lets); intro (x : State); refine Stays.via (s := s) (x := x) ?_ (fun hx => ?_); rotate_left; clear_value x; rotate_left; unfold x)
    | ((try lift_lets); intro x; clear_value x)
    | with_reducible assumption
    | with_reducible apply State.awake_stays
    | split
    | (dsimp only)
    | (with_reducible apply Stays.upd; first | with_reducible assumption | with_reducible apply State.awake_stays | split))

theorem execUnparkDone_stays {f : FieldAddr} : StaysOut s (execUnparkDone f s) := by
  unfold execUnparkDone
  have hk : Stays s s := Stays.refl s
  repeat' (first
    | with_reducible apply StaysOut.next
    | ((try lift_lets); intro (x : State); refine Stays.via (s := s) (x := x) ?_ (fun hx => ?_); rotate_left; clear_value x; rotate_left; unfold x)
    | ((try lift_lets); intro x; clear_value x)
    | with_reducible assumption
    | with_reducible apply State.awake_stays
    | split
    | (dsimp only)
    | (with_reducible apply Stays.upd; first | with_reducible assumption | with_reducible apply State.awake_stays | split))

theorem State.parkHot_stays {f : FieldAddr} (hk : Stays s0 s) : Stays s0 (State.parkHot s f) := by
  unfold State.parkHot
  repeat' (first
    | ((try lift_lets); intro (x : State); refine Stays.via (s := s0) (x := x) ?_ (fun hx => ?_); rotate_left; clear_value x; rotate_left; unfold x)
    | ((try lift_lets); intro x; clear_value x)
    | with_reducible assumption
    | with_reducible apply State.stopDrain_stays
    | with_reducible apply State.fpwStart_stays
    | with_reducible apply State.markRebind_stays
    | split
    | (dsimp only)
    | (with_reducible apply Stays.upd; first | with_reducible assumption | with_reducible apply State.stopDrain_stays | with_reducible apply State.fpwStart_stays | with_reducible apply State.markRebind_stays | split))

theorem State.parkAfterPass_stays {p : Fin 2} (hk : Stays s0 s) : Stays s0 (State.parkAfterPass s p) := by
  unfold State.parkAfterPass
  repeat' (first
    | ((try lift_lets); intro (x : State); refine Stays.via (s := s0) (x := x) ?_ (fun hx => ?_); rotate_left; clear_value x; rotate_left; unfold x)
    | ((try lift_lets); intro x; clear_value x)
    | with_reducible assumption
    | with_reducible apply State.parkHot_stays
    | with_reducible refine Stays.foldl ?_ (fun u x hu => ?_)
    | split
    | (dsimp only)
    | (with_reducible apply Stays.upd; first | with_reducible assumption | with_reducible apply State.parkHot_stays | split))

theorem execTemperatureSample_stays {f : FieldAddr} {temps : List Nat} : StaysOut s (execTemperatureSample f temps s) := by
  unfold execTemperatureSample
  have hk : Stays s s := Stays.refl s
  repeat' (first
    | with_reducible apply StaysOut.next
    | ((try lift_lets); intro (x : State); refine Stays.via (s := s) (x := x) ?_ (fun hx => ?_); rotate_left; clear_value x; rotate_left; unfold x)
    | ((try lift_lets); intro x; clear_value x)
    | with_reducible assumption
    | with_reducible apply State.loseField_stays
    | with_reducible apply State.select_stays
    | with_reducible apply State.setField_stays
    | with_reducible apply State.setF_stays
    | with_reducible apply State.parkHot_stays
    | with_reducible refine Stays.foldl ?_ (fun u x hu => ?_)
    | split
    | (dsimp only)
    | (with_reducible apply Stays.upd; first | with_reducible assumption | with_reducible apply State.loseField_stays | with_reducible apply State.select_stays | with_reducible apply State.setField_stays | with_reducible apply State.setF_stays | with_reducible apply State.parkHot_stays | split))

theorem execThermalThrottleStep_stays {f : FieldAddr} : StaysOut s (execThermalThrottleStep f s) := by
  unfold execThermalThrottleStep
  have hk : Stays s s := Stays.refl s
  repeat' (first
    | with_reducible apply StaysOut.next
    | ((try lift_lets); intro (x : State); refine Stays.via (s := s) (x := x) ?_ (fun hx => ?_); rotate_left; clear_value x; rotate_left; unfold x)
    | ((try lift_lets); intro x; clear_value x)
    | with_reducible assumption
    | with_reducible apply State.select_stays
    | with_reducible apply State.count_stays
    | with_reducible apply State.setIrq_stays
    | with_reducible apply State.setF_stays
    | split
    | (dsimp only)
    | (with_reducible apply Stays.upd; first | with_reducible assumption | with_reducible apply State.select_stays | with_reducible apply State.count_stays | with_reducible apply State.setIrq_stays | with_reducible apply State.setF_stays | split))

theorem execThermalReleaseStep_stays {f : FieldAddr} : StaysOut s (execThermalReleaseStep f s) := by
  unfold execThermalReleaseStep
  have hk : Stays s s := Stays.refl s
  repeat' (first
    | with_reducible apply StaysOut.next
    | ((try lift_lets); intro (x : State); refine Stays.via (s := s) (x := x) ?_ (fun hx => ?_); rotate_left; clear_value x; rotate_left; unfold x)
    | ((try lift_lets); intro x; clear_value x)
    | with_reducible assumption
    | with_reducible apply State.select_stays
    | with_reducible apply State.setF_stays
    | split
    | (dsimp only)
    | (with_reducible apply Stays.upd; first | with_reducible assumption | with_reducible apply State.select_stays | with_reducible apply State.setF_stays | split))

theorem execThermalUnpark_stays {f : FieldAddr} : StaysOut s (execThermalUnpark f s) := by
  unfold execThermalUnpark
  have hk : Stays s s := Stays.refl s
  repeat' (first
    | with_reducible apply StaysOut.next
    | ((try lift_lets); intro (x : State); refine Stays.via (s := s) (x := x) ?_ (fun hx => ?_); rotate_left; clear_value x; rotate_left; unfold x)
    | ((try lift_lets); intro x; clear_value x)
    | with_reducible assumption
    | with_reducible apply State.fpwStart_stays
    | split
    | (dsimp only)
    | (with_reducible apply Stays.upd; first | with_reducible assumption | with_reducible apply State.fpwStart_stays | split))

theorem State.laybyEnd_stays {result : Nat} (hk : Stays s0 s) : Stays s0 (State.laybyEnd s result) := by
  unfold State.laybyEnd
  repeat' (first
    | ((try lift_lets); intro (x : State); refine Stays.via (s := s0) (x := x) ?_ (fun hx => ?_); rotate_left; clear_value x; rotate_left; unfold x)
    | ((try lift_lets); intro x; clear_value x)
    | with_reducible assumption
    | with_reducible apply State.setIrq_stays
    | with_reducible apply State.setF_stays
    | split
    | (dsimp only)
    | (with_reducible apply Stays.upd; first | with_reducible assumption | with_reducible apply State.setIrq_stays | with_reducible apply State.setF_stays | split))

theorem State.setPortLayby_stays {l : Nat} {v : Bool} (hk : Stays s0 s) : Stays s0 (State.setPortLayby s l v) := by
  unfold State.setPortLayby
  repeat' (first
    | ((try lift_lets); intro (x : State); refine Stays.via (s := s0) (x := x) ?_ (fun hx => ?_); rotate_left; clear_value x; rotate_left; unfold x)
    | ((try lift_lets); intro x; clear_value x)
    | with_reducible assumption
    | with_reducible apply State.setReg_stays
    | split
    | (dsimp only)
    | (with_reducible apply Stays.upd; first | with_reducible assumption | with_reducible apply State.setReg_stays | split))

theorem State.portSleep_stays {l : Nat} (hk : Stays s0 s) : Stays s0 (State.portSleep s l) := by
  unfold State.portSleep
  repeat' (first
    | ((try lift_lets); intro (x : State); refine Stays.via (s := s0) (x := x) ?_ (fun hx => ?_); rotate_left; clear_value x; rotate_left; unfold x)
    | ((try lift_lets); intro x; clear_value x)
    | with_reducible assumption
    | with_reducible apply State.setF_stays
    | with_reducible apply State.setVlink_stays
    | with_reducible apply State.setPortLayby_stays
    | split
    | (dsimp only)
    | (with_reducible apply Stays.upd; first | with_reducible assumption | with_reducible apply State.setF_stays | with_reducible apply State.setVlink_stays | with_reducible apply State.setPortLayby_stays | split))

theorem State.bridgeSleep_stays  (hk : Stays s0 s) : Stays s0 (State.bridgeSleep s) := by
  unfold State.bridgeSleep
  repeat' (first
    | ((try lift_lets); intro (x : State); refine Stays.via (s := s0) (x := x) ?_ (fun hx => ?_); rotate_left; clear_value x; rotate_left; unfold x)
    | ((try lift_lets); intro x; clear_value x)
    | with_reducible assumption
    | with_reducible apply State.setF_stays
    | split
    | (dsimp only)
    | (with_reducible apply Stays.upd; first | with_reducible assumption | with_reducible apply State.setF_stays | split))

theorem State.laybyStart_stays {wake bridge : Bool} {port : Nat} (hk : Stays s0 s) : Stays s0 (State.laybyStart s wake bridge port) := by
  unfold State.laybyStart
  repeat' (first
    | ((try lift_lets); intro (x : State); refine Stays.via (s := s0) (x := x) ?_ (fun hx => ?_); rotate_left; clear_value x; rotate_left; unfold x)
    | ((try lift_lets); intro x; clear_value x)
    | with_reducible assumption
    | with_reducible apply State.setF_stays
    | with_reducible apply State.bridgeSleep_stays
    | with_reducible apply State.portSleep_stays
    | with_reducible apply State.laybyEnd_stays
    | split
    | (dsimp only)
    | (with_reducible apply Stays.upd; first | with_reducible assumption | with_reducible apply State.setF_stays | with_reducible apply State.bridgeSleep_stays | with_reducible apply State.portSleep_stays | with_reducible apply State.laybyEnd_stays | split))

theorem State.laybyWrite_stays {fw : Bool} {value : W64} (hk : Stays s0 s) : Stays s0 (State.laybyWrite s fw value) := by
  unfold State.laybyWrite
  repeat' (first
    | ((try lift_lets); intro (x : State); refine Stays.via (s := s0) (x := x) ?_ (fun hx => ?_); rotate_left; clear_value x; rotate_left; unfold x)
    | ((try lift_lets); intro x; clear_value x)
    | with_reducible assumption
    | with_reducible refine State.regWrite_stays ?_ (fun u hu => ?_)
    | with_reducible apply State.laybyStart_stays
    | split
    | (dsimp only)
    | (with_reducible apply Stays.upd; first | with_reducible assumption | with_reducible refine State.regWrite_stays ?_ (fun u hu => ?_) | with_reducible apply State.laybyStart_stays | split))

theorem execPortLayby_stays {fw : Bool} {value : W64} : StaysOut s (execPortLayby fw value s) := by
  unfold execPortLayby
  have hk : Stays s s := Stays.refl s
  repeat' (first
    | with_reducible apply StaysOut.next
    | ((try lift_lets); intro (x : State); refine Stays.via (s := s) (x := x) ?_ (fun hx => ?_); rotate_left; clear_value x; rotate_left; unfold x)
    | ((try lift_lets); intro x; clear_value x)
    | with_reducible assumption
    | with_reducible apply State.laybyWrite_stays
    | split
    | (dsimp only)
    | (with_reducible apply Stays.upd; first | with_reducible assumption | with_reducible apply State.laybyWrite_stays | split))

theorem execPortWake_stays {fw : Bool} {value : W64} : StaysOut s (execPortWake fw value s) := by
  unfold execPortWake
  have hk : Stays s s := Stays.refl s
  repeat' (first
    | with_reducible apply StaysOut.next
    | ((try lift_lets); intro (x : State); refine Stays.via (s := s) (x := x) ?_ (fun hx => ?_); rotate_left; clear_value x; rotate_left; unfold x)
    | ((try lift_lets); intro x; clear_value x)
    | with_reducible assumption
    | with_reducible apply State.laybyWrite_stays
    | split
    | (dsimp only)
    | (with_reducible apply Stays.upd; first | with_reducible assumption | with_reducible apply State.laybyWrite_stays | split))

theorem execBridgeLayby_stays {fw : Bool} {value : W64} : StaysOut s (execBridgeLayby fw value s) := by
  unfold execBridgeLayby
  have hk : Stays s s := Stays.refl s
  repeat' (first
    | with_reducible apply StaysOut.next
    | ((try lift_lets); intro (x : State); refine Stays.via (s := s) (x := x) ?_ (fun hx => ?_); rotate_left; clear_value x; rotate_left; unfold x)
    | ((try lift_lets); intro x; clear_value x)
    | with_reducible assumption
    | with_reducible apply State.laybyWrite_stays
    | split
    | (dsimp only)
    | (with_reducible apply Stays.upd; first | with_reducible assumption | with_reducible apply State.laybyWrite_stays | split))

theorem execBridgeWake_stays {fw : Bool} {value : W64} : StaysOut s (execBridgeWake fw value s) := by
  unfold execBridgeWake
  have hk : Stays s s := Stays.refl s
  repeat' (first
    | with_reducible apply StaysOut.next
    | ((try lift_lets); intro (x : State); refine Stays.via (s := s) (x := x) ?_ (fun hx => ?_); rotate_left; clear_value x; rotate_left; unfold x)
    | ((try lift_lets); intro x; clear_value x)
    | with_reducible assumption
    | with_reducible apply State.laybyWrite_stays
    | split
    | (dsimp only)
    | (with_reducible apply Stays.upd; first | with_reducible assumption | with_reducible apply State.laybyWrite_stays | split))

theorem State.laybyWoken_stays {bridge : Bool} {port : Nat} (hk : Stays s0 s) : Stays s0 (State.laybyWoken s bridge port) := by
  unfold State.laybyWoken
  repeat' (first
    | ((try lift_lets); intro (x : State); refine Stays.via (s := s0) (x := x) ?_ (fun hx => ?_); rotate_left; clear_value x; rotate_left; unfold x)
    | ((try lift_lets); intro x; clear_value x)
    | with_reducible assumption
    | with_reducible apply State.laybyEnd_stays
    | split
    | (dsimp only)
    | (with_reducible apply Stays.upd; first | with_reducible assumption | with_reducible apply State.laybyEnd_stays | split))

theorem execPortWakeDone_stays {l : Fin 64} : StaysOut s (execPortWakeDone l s) := by
  unfold execPortWakeDone
  have hk : Stays s s := Stays.refl s
  repeat' (first
    | with_reducible apply StaysOut.next
    | ((try lift_lets); intro (x : State); refine Stays.via (s := s) (x := x) ?_ (fun hx => ?_); rotate_left; clear_value x; rotate_left; unfold x)
    | ((try lift_lets); intro x; clear_value x)
    | with_reducible assumption
    | with_reducible apply State.setF_stays
    | with_reducible apply State.laybyWoken_stays
    | with_reducible apply State.setPortLayby_stays
    | with_reducible apply State.readyAgain_stays
    | split
    | (dsimp only)
    | (with_reducible apply Stays.upd; first | with_reducible assumption | with_reducible apply State.setF_stays | with_reducible apply State.laybyWoken_stays | with_reducible apply State.setPortLayby_stays | with_reducible apply State.readyAgain_stays | split))

theorem execBridgeWakeDone_stays  : StaysOut s (execBridgeWakeDone s) := by
  unfold execBridgeWakeDone
  have hk : Stays s s := Stays.refl s
  repeat' (first
    | with_reducible apply StaysOut.next
    | ((try lift_lets); intro (x : State); refine Stays.via (s := s) (x := x) ?_ (fun hx => ?_); rotate_left; clear_value x; rotate_left; unfold x)
    | ((try lift_lets); intro x; clear_value x)
    | with_reducible assumption
    | with_reducible apply State.setF_stays
    | with_reducible apply State.laybyWoken_stays
    | with_reducible apply State.readyAgain_stays
    | split
    | (dsimp only)
    | (with_reducible apply Stays.upd; first | with_reducible assumption | with_reducible apply State.setF_stays | with_reducible apply State.laybyWoken_stays | with_reducible apply State.readyAgain_stays | split))

theorem State.sleepMoves_stays  (hk : Stays s0 s) : Stays s0 (State.sleepMoves s) := by
  unfold State.sleepMoves
  repeat' (first
    | ((try lift_lets); intro (x : State); refine Stays.via (s := s0) (x := x) ?_ (fun hx => ?_); rotate_left; clear_value x; rotate_left; unfold x)
    | ((try lift_lets); intro x; clear_value x)
    | with_reducible assumption
    | with_reducible apply State.planeCause_stays
    | with_reducible apply State.setField_stays
    | with_reducible apply State.setF_stays
    | with_reducible apply State.bridgeSleep_stays
    | with_reducible apply State.portSleep_stays
    | with_reducible apply State.readyAgain_stays
    | with_reducible apply State.fpwStart_stays
    | with_reducible apply State.drainStart_stays
    | with_reducible refine Stays.foldl ?_ (fun u x hu => ?_)
    | split
    | (dsimp only)
    | (with_reducible apply Stays.upd; first | with_reducible assumption | with_reducible apply State.planeCause_stays | with_reducible apply State.setField_stays | with_reducible apply State.setF_stays | with_reducible apply State.bridgeSleep_stays | with_reducible apply State.portSleep_stays | with_reducible apply State.readyAgain_stays | with_reducible apply State.fpwStart_stays | with_reducible apply State.drainStart_stays | split))

end Sys2Proof.Machine
end

