-- ==== Sys2Proof/Laws/KeepsSupply.lean ====
section
/-!
SUPPORT. What the operations of Machine/Supply keep (Laws/Keeps).
-/
namespace Sys2Proof.Machine

set_option linter.all false

variable {s0 s : State}

theorem State.setBank_stays {bank : Fin 2} {v : Nat} (hk : Stays s0 s) : Stays s0 (State.setBank s bank v) := by
  unfold State.setBank
  repeat' (first
    | ((try lift_lets); intro (x : State); refine Stays.via (s := s0) (x := x) ?_ (fun hx => ?_); rotate_left; clear_value x; rotate_left; unfold x)
    | ((try lift_lets); intro x; clear_value x)
    | with_reducible assumption
    | with_reducible apply State.setF_stays
    | split
    | (dsimp only)
    | (with_reducible apply Stays.upd; first | with_reducible assumption | with_reducible apply State.setF_stays | split))

theorem State.bankChange_stays {bank : Fin 2} {up : Bool} (hk : Stays s0 s) : Stays s0 (State.bankChange s bank up) := by
  unfold State.bankChange
  repeat' (first
    | ((try lift_lets); intro (x : State); refine Stays.via (s := s0) (x := x) ?_ (fun hx => ?_); rotate_left; clear_value x; rotate_left; unfold x)
    | ((try lift_lets); intro x; clear_value x)
    | with_reducible assumption
    | with_reducible apply State.setBank_stays
    | with_reducible apply State.raise_stays
    | with_reducible apply State.count_stays
    | with_reducible apply State.setIrq_stays
    | split
    | (dsimp only)
    | (with_reducible apply Stays.upd; first | with_reducible assumption | with_reducible apply State.setBank_stays | with_reducible apply State.raise_stays | with_reducible apply State.count_stays | with_reducible apply State.setIrq_stays | split))

theorem State.bankFlip_stays {bank : Fin 2} (hk : Stays s0 s) : Stays s0 (State.bankFlip s bank) := by
  unfold State.bankFlip
  repeat' (first
    | ((try lift_lets); intro (x : State); refine Stays.via (s := s0) (x := x) ?_ (fun hx => ?_); rotate_left; clear_value x; rotate_left; unfold x)
    | ((try lift_lets); intro x; clear_value x)
    | with_reducible assumption
    | split
    | (dsimp only)
    | (with_reducible apply Stays.upd; first | with_reducible assumption | split))

theorem execBankOffline_stays {bank : Fin 2} : StaysOut s (execBankOffline bank s) := by
  unfold execBankOffline
  have hk : Stays s s := Stays.refl s
  repeat' (first
    | with_reducible apply StaysOut.next
    | ((try lift_lets); intro (x : State); refine Stays.via (s := s) (x := x) ?_ (fun hx => ?_); rotate_left; clear_value x; rotate_left; unfold x)
    | ((try lift_lets); intro x; clear_value x)
    | with_reducible assumption
    | with_reducible apply State.bankFlip_stays
    | with_reducible apply State.bankChange_stays
    | split
    | (dsimp only)
    | (with_reducible apply Stays.upd; first | with_reducible assumption | with_reducible apply State.bankFlip_stays | with_reducible apply State.bankChange_stays | split))

theorem execBankReturn_stays {bank : Fin 2} : StaysOut s (execBankReturn bank s) := by
  unfold execBankReturn
  have hk : Stays s s := Stays.refl s
  repeat' (first
    | with_reducible apply StaysOut.next
    | ((try lift_lets); intro (x : State); refine Stays.via (s := s) (x := x) ?_ (fun hx => ?_); rotate_left; clear_value x; rotate_left; unfold x)
    | ((try lift_lets); intro x; clear_value x)
    | with_reducible assumption
    | with_reducible apply State.bankFlip_stays
    | with_reducible apply State.bankChange_stays
    | split
    | (dsimp only)
    | (with_reducible apply Stays.upd; first | with_reducible assumption | with_reducible apply State.bankFlip_stays | with_reducible apply State.bankChange_stays | split))

theorem State.recap_stays  (hk : Stays s0 s) : Stays s0 (State.recap s) := by
  unfold State.recap
  repeat' (first
    | ((try lift_lets); intro (x : State); refine Stays.via (s := s0) (x := x) ?_ (fun hx => ?_); rotate_left; clear_value x; rotate_left; unfold x)
    | ((try lift_lets); intro x; clear_value x)
    | with_reducible assumption
    | with_reducible apply State.setF_stays
    | split
    | (dsimp only)
    | (with_reducible apply Stays.upd; first | with_reducible assumption | with_reducible apply State.setF_stays | split))

theorem execPwrCapWrite_stays {fw : Bool} {value : W64} : StaysOut s (execPwrCapWrite fw value s) := by
  unfold execPwrCapWrite
  have hk : Stays s s := Stays.refl s
  repeat' (first
    | with_reducible apply StaysOut.next
    | ((try lift_lets); intro (x : State); refine Stays.via (s := s) (x := x) ?_ (fun hx => ?_); rotate_left; clear_value x; rotate_left; unfold x)
    | ((try lift_lets); intro x; clear_value x)
    | with_reducible assumption
    | with_reducible apply State.recap_stays
    | with_reducible apply State.writeResult_stays
    | with_reducible apply State.setF_stays
    | split
    | (dsimp only)
    | (with_reducible apply Stays.upd; first | with_reducible assumption | with_reducible apply State.recap_stays | with_reducible apply State.writeResult_stays | with_reducible apply State.setF_stays | split))

theorem State.coolFault_stays  (hk : Stays s0 s) : Stays s0 (State.coolFault s) := by
  unfold State.coolFault
  repeat' (first
    | ((try lift_lets); intro (x : State); refine Stays.via (s := s0) (x := x) ?_ (fun hx => ?_); rotate_left; clear_value x; rotate_left; unfold x)
    | ((try lift_lets); intro x; clear_value x)
    | with_reducible assumption
    | with_reducible apply State.setErr_stays
    | with_reducible apply State.failStep_stays
    | split
    | (dsimp only)
    | (with_reducible apply Stays.upd; first | with_reducible assumption | with_reducible apply State.setErr_stays | with_reducible apply State.failStep_stays | split))

theorem execCoolantSample_stays {inlet outlet flow : Nat} {leak : Bool} : StaysOut s (execCoolantSample inlet outlet flow leak s) := by
  unfold execCoolantSample
  have hk : Stays s s := Stays.refl s
  repeat' (first
    | with_reducible apply StaysOut.next
    | ((try lift_lets); intro (x : State); refine Stays.via (s := s) (x := x) ?_ (fun hx => ?_); rotate_left; clear_value x; rotate_left; unfold x)
    | ((try lift_lets); intro x; clear_value x)
    | with_reducible assumption
    | with_reducible apply State.coolFault_stays
    | with_reducible apply State.recap_stays
    | with_reducible apply State.raise_stays
    | with_reducible apply State.count_stays
    | with_reducible apply State.setIrq_stays
    | with_reducible apply State.setReg_stays
    | split
    | (dsimp only)
    | (with_reducible apply Stays.upd; first | with_reducible assumption | with_reducible apply State.coolFault_stays | with_reducible apply State.recap_stays | with_reducible apply State.raise_stays | with_reducible apply State.count_stays | with_reducible apply State.setIrq_stays | with_reducible apply State.setReg_stays | split))

theorem State.setCeil_stays {c : Nat × Nat} (hk : Stays s0 s) : Stays s0 (State.setCeil s c) := by
  unfold State.setCeil
  repeat' (first
    | ((try lift_lets); intro (x : State); refine Stays.via (s := s0) (x := x) ?_ (fun hx => ?_); rotate_left; clear_value x; rotate_left; unfold x)
    | ((try lift_lets); intro x; clear_value x)
    | with_reducible assumption
    | with_reducible apply State.setF_stays
    | split
    | (dsimp only)
    | (with_reducible apply Stays.upd; first | with_reducible assumption | with_reducible apply State.setF_stays | split))

theorem State.capSample_stays {p : Nat} (hk : Stays s0 s) : Stays s0 (State.capSample s p) := by
  unfold State.capSample
  repeat' (first
    | ((try lift_lets); intro (x : State); refine Stays.via (s := s0) (x := x) ?_ (fun hx => ?_); rotate_left; clear_value x; rotate_left; unfold x)
    | ((try lift_lets); intro x; clear_value x)
    | with_reducible assumption
    | with_reducible apply State.setCeil_stays
    | with_reducible apply State.count_stays
    | split
    | (dsimp only)
    | (with_reducible apply Stays.upd; first | with_reducible assumption | with_reducible apply State.setCeil_stays | with_reducible apply State.count_stays | split))

theorem State.limiterSample_stays {p : Nat} (hk : Stays s0 s) : Stays s0 (State.limiterSample s p) := by
  unfold State.limiterSample
  repeat' (first
    | ((try lift_lets); intro (x : State); refine Stays.via (s := s0) (x := x) ?_ (fun hx => ?_); rotate_left; clear_value x; rotate_left; unfold x)
    | ((try lift_lets); intro x; clear_value x)
    | with_reducible assumption
    | with_reducible apply State.setF_stays
    | split
    | (dsimp only)
    | (with_reducible apply Stays.upd; first | with_reducible assumption | with_reducible apply State.setF_stays | split))

theorem State.railSample_stays {f : FieldAddr} {w : Nat} (hk : Stays s0 s) : Stays s0 (State.railSample s f w) := by
  unfold State.railSample
  repeat' (first
    | ((try lift_lets); intro (x : State); refine Stays.via (s := s0) (x := x) ?_ (fun hx => ?_); rotate_left; clear_value x; rotate_left; unfold x)
    | ((try lift_lets); intro x; clear_value x)
    | with_reducible assumption
    | with_reducible apply State.count_stays
    | split
    | (dsimp only)
    | (with_reducible apply Stays.upd; first | with_reducible assumption | with_reducible apply State.count_stays | split))

theorem execPowerSample_stays {watts va ia vb ib : Nat} {rails : List Nat} {unlimited : Nat} : StaysOut s (execPowerSample watts va ia vb ib rails unlimited s) := by
  unfold execPowerSample
  have hk : Stays s s := Stays.refl s
  repeat' (first
    | with_reducible apply StaysOut.next
    | ((try lift_lets); intro (x : State); refine Stays.via (s := s) (x := x) ?_ (fun hx => ?_); rotate_left; clear_value x; rotate_left; unfold x)
    | ((try lift_lets); intro x; clear_value x)
    | with_reducible assumption
    | with_reducible apply State.railSample_stays
    | with_reducible apply State.limiterSample_stays
    | with_reducible apply State.capSample_stays
    | with_reducible apply State.setBank_stays
    | with_reducible apply State.selectAll_stays
    | with_reducible apply State.setF_stays
    | with_reducible refine Stays.foldl ?_ (fun u x hu => ?_)
    | split
    | (dsimp only)
    | (with_reducible apply Stays.upd; first | with_reducible assumption | with_reducible apply State.railSample_stays | with_reducible apply State.limiterSample_stays | with_reducible apply State.capSample_stays | with_reducible apply State.setBank_stays | with_reducible apply State.selectAll_stays | with_reducible apply State.setF_stays | split))

theorem execLimiterEngage_stays  : StaysOut s (execLimiterEngage s) := by
  unfold execLimiterEngage
  have hk : Stays s s := Stays.refl s
  repeat' (first
    | with_reducible apply StaysOut.next
    | ((try lift_lets); intro (x : State); refine Stays.via (s := s) (x := x) ?_ (fun hx => ?_); rotate_left; clear_value x; rotate_left; unfold x)
    | ((try lift_lets); intro x; clear_value x)
    | with_reducible assumption
    | with_reducible apply State.selectAll_stays
    | with_reducible apply State.count_stays
    | with_reducible apply State.setIrq_stays
    | with_reducible apply State.setF_stays
    | split
    | (dsimp only)
    | (with_reducible apply Stays.upd; first | with_reducible assumption | with_reducible apply State.selectAll_stays | with_reducible apply State.count_stays | with_reducible apply State.setIrq_stays | with_reducible apply State.setF_stays | split))

end Sys2Proof.Machine
end

