-- ==== Sys2Proof/Laws/KeepsErrLog.lean ====
section
/-!
SUPPORT. What the operations of Machine/ErrLog keep (Laws/Keeps).
-/
namespace Sys2Proof.Machine

set_option linter.all false

variable {s0 s : State}

theorem State.pushEvent_stays {b : List Byte} (hk : Stays s0 s) : Stays s0 (State.pushEvent s b) := by
  unfold State.pushEvent
  repeat' (first
    | ((try lift_lets); intro (x : State); refine Stays.via (s := s0) (x := x) ?_ (fun hx => ?_); rotate_left; clear_value x; rotate_left; unfold x)
    | ((try lift_lets); intro x; clear_value x)
    | with_reducible assumption
    | split
    | (dsimp only)
    | (with_reducible apply Stays.upd; first | with_reducible assumption | split))

theorem State.mgmtKeep_stays {b : List Byte} (h : Stays s0 s) : Stays s0 (s.mgmtKeep b) := by
  unfold State.mgmtKeep
  refine State.pushEvent_stays (h.mlog (fun w => ?_))
  split <;> simp <;> omega

theorem State.logPut_stays {b : List Byte} (hk : Stays s0 s) : Stays s0 (State.logPut s b) := by
  unfold State.logPut
  repeat' (first
    | ((try lift_lets); intro (x : State); refine Stays.via (s := s0) (x := x) ?_ (fun hx => ?_); rotate_left; clear_value x; rotate_left; unfold x)
    | ((try lift_lets); intro x; clear_value x)
    | with_reducible assumption
    | with_reducible apply State.msixSend_stays
    | with_reducible apply State.setF_stays
    | with_reducible apply State.writeLoc_stays
    | split
    | (dsimp only)
    | (with_reducible apply Stays.upd; first | with_reducible assumption | with_reducible apply State.msixSend_stays | with_reducible apply State.setF_stays | with_reducible apply State.writeLoc_stays | split))

theorem State.logDrain_stays {n : Nat} : ∀ {s : State}, Stays s0 s → Stays s0 (State.logDrain n s) := by
  induction n with
  | zero => exact fun h => h
  | succ n ih =>
    intro s h
    unfold State.logDrain
    split
    · rename_i b rest hl
      split
      · refine ih (State.logPut_stays (h.logHeld (fun w => ?_)))
        rw [hl] at w
        simp at w
        omega
      · exact h
    · exact h

theorem State.drainLog_stays  (hk : Stays s0 s) : Stays s0 (State.drainLog s) := by
  unfold State.drainLog
  repeat' (first
    | ((try lift_lets); intro (x : State); refine Stays.via (s := s0) (x := x) ?_ (fun hx => ?_); rotate_left; clear_value x; rotate_left; unfold x)
    | ((try lift_lets); intro x; clear_value x)
    | with_reducible assumption
    | with_reducible apply State.logDrain_stays
    | split
    | (dsimp only)
    | (with_reducible apply Stays.upd; first | with_reducible assumption | with_reducible apply State.logDrain_stays | split))

theorem State.logLose_stays {r : ErrRec} (hk : Stays s0 s) : Stays s0 (State.logLose s r) := by
  unfold State.logLose
  repeat' (first
    | ((try lift_lets); intro (x : State); refine Stays.via (s := s0) (x := x) ?_ (fun hx => ?_); rotate_left; clear_value x; rotate_left; unfold x)
    | ((try lift_lets); intro x; clear_value x)
    | with_reducible assumption
    | with_reducible apply State.countWm_stays
    | with_reducible apply State.setIrq_stays
    | split
    | (dsimp only)
    | (with_reducible apply Stays.upd; first | with_reducible assumption | with_reducible apply State.countWm_stays | with_reducible apply State.setIrq_stays | split))

theorem State.logHold_stays {r : ErrRec} {b : List Byte} (hk : Stays s0 s) : Stays s0 (s.logHold r b) := by
  unfold State.logHold
  split
  · exact (State.logPut_stays hk).upd
  split
  · exact (hk.logHeld (l := s.logHeld ++ [b]) (fun _ => by simp; omega)).upd
  · exact State.logLose_stays hk

theorem State.logAdvance_stays (hk : Stays s0 s) : Stays s0 s.logAdvance := hk.upd

theorem State.logRecord_stays {r : ErrRec} (hk : Stays s0 s) : Stays s0 (State.logRecord s r) := by
  unfold State.logRecord
  repeat' (first
    | ((try lift_lets); intro (x : State); refine Stays.via (s := s0) (x := x) ?_ (fun hx => ?_); rotate_left; clear_value x; rotate_left; unfold x)
    | ((try lift_lets); intro x; clear_value x)
    | with_reducible assumption
    | with_reducible apply State.countWm_stays
    | with_reducible apply State.logAdvance_stays
    | with_reducible apply State.logHold_stays
    | with_reducible apply State.mgmtKeep_stays
    | split
    | (dsimp only)
    | (with_reducible apply Stays.upd; first | with_reducible assumption | with_reducible apply State.countWm_stays | with_reducible apply State.logAdvance_stays | with_reducible apply State.logHold_stays | with_reducible apply State.mgmtKeep_stays | split))

theorem State.note_stays {r : ErrRec} (hk : Stays s0 s) : Stays s0 (State.note s r) := by
  unfold State.note
  repeat' (first
    | ((try lift_lets); intro (x : State); refine Stays.via (s := s0) (x := x) ?_ (fun hx => ?_); rotate_left; clear_value x; rotate_left; unfold x)
    | ((try lift_lets); intro x; clear_value x)
    | with_reducible assumption
    | with_reducible apply State.raise_stays
    | with_reducible apply State.mgmtKeep_stays
    | split
    | (dsimp only)
    | (with_reducible apply Stays.upd; first | with_reducible assumption | with_reducible apply State.raise_stays | with_reducible apply State.mgmtKeep_stays | split))

theorem execErrorRecord_stays  : StaysOut s (execErrorRecord s) := by
  unfold execErrorRecord
  have hk : Stays s s := Stays.refl s
  repeat' (first
    | with_reducible apply StaysOut.next
    | ((try lift_lets); intro (x : State); refine Stays.via (s := s) (x := x) ?_ (fun hx => ?_); rotate_left; clear_value x; rotate_left; unfold x)
    | ((try lift_lets); intro x; clear_value x)
    | with_reducible assumption
    | with_reducible apply State.logRecord_stays
    | split
    | (dsimp only)
    | (with_reducible apply Stays.upd; first | with_reducible assumption | with_reducible apply State.logRecord_stays | split))

theorem execLogHeadWrite_stays {fw : Bool} {value : W64} : StaysOut s (execLogHeadWrite fw value s) := by
  unfold execLogHeadWrite
  have hk : Stays s s := Stays.refl s
  repeat' (first
    | with_reducible apply StaysOut.next
    | ((try lift_lets); intro (x : State); refine Stays.via (s := s) (x := x) ?_ (fun hx => ?_); rotate_left; clear_value x; rotate_left; unfold x)
    | ((try lift_lets); intro x; clear_value x)
    | with_reducible assumption
    | with_reducible refine State.regWrite_stays ?_ (fun u hu => ?_)
    | with_reducible apply State.drainLog_stays
    | split
    | (dsimp only)
    | (with_reducible apply Stays.upd; first | with_reducible assumption | with_reducible refine State.regWrite_stays ?_ (fun u hu => ?_) | with_reducible apply State.drainLog_stays | split))

theorem State.dmapWrite_stays {fw : Bool} {value : W64} (hk : Stays s0 s) : Stays s0 (State.dmapWrite s fw value) := by
  unfold State.dmapWrite
  repeat' (first
    | ((try lift_lets); intro (x : State); refine Stays.via (s := s0) (x := x) ?_ (fun hx => ?_); rotate_left; clear_value x; rotate_left; unfold x)
    | ((try lift_lets); intro x; clear_value x)
    | with_reducible assumption
    | with_reducible refine State.regWrite_stays ?_ (fun u hu => ?_)
    | with_reducible apply State.edgeWrite_stays
    | split
    | (dsimp only)
    | (with_reducible apply Stays.upd; first | with_reducible assumption | with_reducible refine State.regWrite_stays ?_ (fun u hu => ?_) | with_reducible apply State.edgeWrite_stays | split))

theorem execDmapCopy_stays {fw : Bool} {value : W64} : StaysOut s (execDmapCopy fw value s) := by
  unfold execDmapCopy
  have hk : Stays s s := Stays.refl s
  repeat' (first
    | with_reducible apply StaysOut.next
    | ((try lift_lets); intro (x : State); refine Stays.via (s := s) (x := x) ?_ (fun hx => ?_); rotate_left; clear_value x; rotate_left; unfold x)
    | ((try lift_lets); intro x; clear_value x)
    | with_reducible assumption
    | with_reducible apply State.dmapWrite_stays
    | split
    | (dsimp only)
    | (with_reducible apply Stays.upd; first | with_reducible assumption | with_reducible apply State.dmapWrite_stays | split))

end Sys2Proof.Machine
end

