-- ==== Sys2Proof/Laws/KeepsRebind.lean ====
section
/-!
SUPPORT. What the operations of Machine/Rebind keep (Laws/Keeps).
-/
namespace Sys2Proof.Machine

set_option linter.all false

variable {s0 s : State}

theorem State.publishInjection_stays {p : Fin 2} (hk : Stays s0 s) : Stays s0 (State.publishInjection s p) := by
  unfold State.publishInjection
  repeat' (first
    | ((try lift_lets); intro (x : State); refine Stays.via (s := s0) (x := x) ?_ (fun hx => ?_); rotate_left; clear_value x; rotate_left; unfold x)
    | ((try lift_lets); intro x; clear_value x)
    | with_reducible assumption
    | with_reducible apply State.setF_stays
    | with_reducible refine Stays.foldl ?_ (fun u x hu => ?_)
    | split
    | (dsimp only)
    | (with_reducible apply Stays.upd; first | with_reducible assumption | with_reducible apply State.setF_stays | split))

theorem State.publishDistances_stays {f : FieldAddr} (hk : Stays s0 s) : Stays s0 (State.publishDistances s f) := by
  unfold State.publishDistances
  repeat' (first
    | ((try lift_lets); intro (x : State); refine Stays.via (s := s0) (x := x) ?_ (fun hx => ?_); rotate_left; clear_value x; rotate_left; unfold x)
    | ((try lift_lets); intro x; clear_value x)
    | with_reducible assumption
    | with_reducible apply State.setReg_stays
    | with_reducible refine Stays.foldl ?_ (fun u x hu => ?_)
    | split
    | (dsimp only)
    | (with_reducible apply Stays.upd; first | with_reducible assumption | with_reducible apply State.setReg_stays | split))

theorem State.publishPlane_stays {p : Fin 2} (hk : Stays s0 s) : Stays s0 (State.publishPlane s p) := by
  unfold State.publishPlane
  repeat' (first
    | ((try lift_lets); intro (x : State); refine Stays.via (s := s0) (x := x) ?_ (fun hx => ?_); rotate_left; clear_value x; rotate_left; unfold x)
    | ((try lift_lets); intro x; clear_value x)
    | with_reducible assumption
    | with_reducible apply State.publishDistances_stays
    | with_reducible apply State.publishInjection_stays
    | with_reducible refine Stays.foldl ?_ (fun u x hu => ?_)
    | split
    | (dsimp only)
    | (with_reducible apply Stays.upd; first | with_reducible assumption | with_reducible apply State.publishDistances_stays | with_reducible apply State.publishInjection_stays | split))

theorem State.rewriteEntry_stays {f a b : FieldAddr} {e : EpEntry} (hk : Stays s0 s) : Stays s0 (State.rewriteEntry s f a b e).1 := by
  unfold State.rewriteEntry
  repeat' (first
    | ((try lift_lets); intro (x : State); refine Stays.via (s := s0) (x := x) ?_ (fun hx => ?_); rotate_left; clear_value x; rotate_left; unfold x)
    | ((try lift_lets); intro (x : State × _); refine Stays.via (s := s0) (x := x.1) ?_ (fun hx => ?_); rotate_left; clear_value x; rotate_left; unfold x)
    | ((try lift_lets); intro (x : _ × State); refine Stays.via (s := s0) (x := x.2) ?_ (fun hx => ?_); rotate_left; clear_value x; rotate_left; unfold x)
    | ((try lift_lets); intro x; clear_value x)
    | with_reducible assumption
    | with_reducible refine Stays.of_snd (State.freeBits_stays ?_) (by assumption)
    | with_reducible apply State.freeBits_stays
    | split
    | (dsimp only)
    | (with_reducible apply Stays.upd; first | with_reducible assumption | with_reducible refine Stays.of_snd (State.freeBits_stays ?_) (by assumption) | with_reducible apply State.freeBits_stays | split))

theorem State.rewriteFrom_stays {f a b : FieldAddr} {l : List (Nat × BitVec 128)} :
    ∀ {s : State}, Stays s0 s → Stays s0 (State.rewriteFrom f a b l s).1 := by
  induction l with
  | nil => exact fun h => h
  | cons x r ih =>
    intro s h
    unfold State.rewriteFrom
    dsimp only
    split
    · exact ih h
    · split
      · exact ih (State.setField_stays (Stays.of_fst (State.rewriteEntry_stays h) (by assumption)))
      · exact Stays.of_fst (State.rewriteEntry_stays h) (by assumption)

theorem State.rewriteFields_stays {a b : FieldAddr} {l : List FieldAddr} :
    ∀ {s : State}, Stays s0 s → Stays s0 (State.rewriteFields a b l s).1 := by
  induction l with
  | nil => exact fun h => h
  | cons f r ih =>
    intro s h
    have k := State.rewriteFrom_stays (f := f) (a := a) (b := b) (l := (s.fieldSt f).ept) h
    unfold State.rewriteFields
    split
    · exact ih (Stays.of_fst k (by assumption))
    · exact k

theorem State.nextRebind_stays  (hk : Stays s0 s) : Stays s0 (State.nextRebind s) := by
  unfold State.nextRebind
  repeat' (first
    | ((try lift_lets); intro (x : State); refine Stays.via (s := s0) (x := x) ?_ (fun hx => ?_); rotate_left; clear_value x; rotate_left; unfold x)
    | ((try lift_lets); intro x; clear_value x)
    | with_reducible assumption
    | with_reducible apply State.setF_stays
    | with_reducible apply State.setReg_stays
    | split
    | (dsimp only)
    | (with_reducible apply Stays.upd; first | with_reducible assumption | with_reducible apply State.setF_stays | with_reducible apply State.setReg_stays | split))

theorem State.rebindEnd_stays {p : Fin 2} {slot : Nat} {a : FieldAddr} {b : Option FieldAddr} {result index : Nat} (hk : Stays s0 s) : Stays s0 (State.rebindEnd s p slot a b result index) := by
  unfold State.rebindEnd
  repeat' (first
    | ((try lift_lets); intro (x : State); refine Stays.via (s := s0) (x := x) ?_ (fun hx => ?_); rotate_left; clear_value x; rotate_left; unfold x)
    | ((try lift_lets); intro x; clear_value x)
    | with_reducible assumption
    | with_reducible apply State.nextRebind_stays
    | with_reducible apply State.setAe_stays
    | with_reducible apply State.raise_stays
    | with_reducible apply State.count_stays
    | with_reducible apply State.setIrq_stays
    | with_reducible apply State.parkHot_stays
    | with_reducible apply State.drainStart_stays
    | with_reducible refine Stays.foldl ?_ (fun u x hu => ?_)
    | split
    | (dsimp only)
    | (with_reducible apply Stays.upd; first | with_reducible assumption | with_reducible apply State.nextRebind_stays | with_reducible apply State.setAe_stays | with_reducible apply State.raise_stays | with_reducible apply State.count_stays | with_reducible apply State.setIrq_stays | with_reducible apply State.parkHot_stays | with_reducible apply State.drainStart_stays | split))

theorem State.settleSegs_stays {f : FieldAddr} (hk : Stays s0 s) : Stays s0 (State.settleSegs s f) := by
  unfold State.settleSegs
  repeat' (first
    | ((try lift_lets); intro (x : State); refine Stays.via (s := s0) (x := x) ?_ (fun hx => ?_); rotate_left; clear_value x; rotate_left; unfold x)
    | ((try lift_lets); intro x; clear_value x)
    | with_reducible assumption
    | with_reducible apply State.segFinish_stays
    | with_reducible apply State.segReach_stays
    | with_reducible refine Stays.foldl ?_ (fun u x hu => ?_)
    | split
    | (dsimp only)
    | (with_reducible apply Stays.upd; first | with_reducible assumption | with_reducible apply State.segFinish_stays | with_reducible apply State.segReach_stays | split))

theorem State.slotNames_stays {p : Fin 2} {slot : Nat} {b : FieldAddr} (h : Stays s0 s) : Stays s0 (s.slotNames p slot b) := h.upd

theorem State.takeEpoch_stays {b : FieldAddr} {e : BitVec 2} (hk : Stays s0 s) : Stays s0 (State.takeEpoch s b e) := by
  unfold State.takeEpoch
  repeat' (first
    | ((try lift_lets); intro (x : State); refine Stays.via (s := s0) (x := x) ?_ (fun hx => ?_); rotate_left; clear_value x; rotate_left; unfold x)
    | ((try lift_lets); intro x; clear_value x)
    | with_reducible assumption
    | with_reducible apply State.setField_stays
    | with_reducible apply State.setTile_stays
    | with_reducible apply State.setF_stays
    | with_reducible refine Stays.foldl ?_ (fun u x hu => ?_)
    | split
    | (dsimp only)
    | (with_reducible apply Stays.upd; first | with_reducible assumption | with_reducible apply State.setField_stays | with_reducible apply State.setTile_stays | with_reducible apply State.setF_stays | split))

theorem State.stepEpochs_stays {a b : FieldAddr} (hk : Stays s0 s) : Stays s0 (State.stepEpochs s a b) := by
  unfold State.stepEpochs
  repeat' (first
    | ((try lift_lets); intro (x : State); refine Stays.via (s := s0) (x := x) ?_ (fun hx => ?_); rotate_left; clear_value x; rotate_left; unfold x)
    | ((try lift_lets); intro x; clear_value x)
    | with_reducible assumption
    | split
    | (dsimp only)
    | (with_reducible apply Stays.upd; first | with_reducible assumption | split))

theorem State.bindSlot_stays {p : Fin 2} {slot : Nat} {a b : FieldAddr} (hk : Stays s0 s) : Stays s0 (State.bindSlot s p slot a b) := by
  unfold State.bindSlot
  repeat' (first
    | ((try lift_lets); intro (x : State); refine Stays.via (s := s0) (x := x) ?_ (fun hx => ?_); rotate_left; clear_value x; rotate_left; unfold x)
    | ((try lift_lets); intro x; clear_value x)
    | with_reducible assumption
    | with_reducible apply State.stepEpochs_stays
    | with_reducible apply State.takeEpoch_stays
    | with_reducible apply State.slotNames_stays
    | with_reducible apply State.wakeTiles_stays
    | split
    | (dsimp only)
    | (with_reducible apply Stays.upd; first | with_reducible assumption | with_reducible apply State.stepEpochs_stays | with_reducible apply State.takeEpoch_stays | with_reducible apply State.slotNames_stays | with_reducible apply State.wakeTiles_stays | split))

theorem State.moveState_stays {a b : FieldAddr} (hk : Stays s0 s) : Stays s0 (State.moveState s a b) := by
  unfold State.moveState
  repeat' (first
    | ((try lift_lets); intro (x : State); refine Stays.via (s := s0) (x := x) ?_ (fun hx => ?_); rotate_left; clear_value x; rotate_left; unfold x)
    | ((try lift_lets); intro (x : State × _); refine Stays.via (s := s0) (x := x.1) ?_ (fun hx => ?_); rotate_left; clear_value x; rotate_left; unfold x)
    | ((try lift_lets); intro (x : _ × State); refine Stays.via (s := s0) (x := x.2) ?_ (fun hx => ?_); rotate_left; clear_value x; rotate_left; unfold x)
    | ((try lift_lets); intro x; clear_value x)
    | with_reducible assumption
    | with_reducible apply State.saveField_stays
    | with_reducible apply State.mirrorRestore_stays
    | with_reducible apply State.count_stays
    | with_reducible refine Stays.of_fst (migrateTiles_stays ?_) (by assumption)
    | with_reducible apply migrateTiles_stays
    | split
    | (dsimp only)
    | (with_reducible apply Stays.upd; first | with_reducible assumption | with_reducible apply State.saveField_stays | with_reducible apply State.mirrorRestore_stays | with_reducible apply State.count_stays | with_reducible refine Stays.of_fst (migrateTiles_stays ?_) (by assumption) | with_reducible apply migrateTiles_stays | split))

theorem State.rebindTo_stays {p : Fin 2} {slot : Nat} {a b : FieldAddr} (hk : Stays s0 s) : Stays s0 (State.rebindTo s p slot a b) := by
  unfold State.rebindTo
  repeat' (first
    | ((try lift_lets); intro (x : State); refine Stays.via (s := s0) (x := x) ?_ (fun hx => ?_); rotate_left; clear_value x; rotate_left; unfold x)
    | ((try lift_lets); intro (x : State × _); refine Stays.via (s := s0) (x := x.1) ?_ (fun hx => ?_); rotate_left; clear_value x; rotate_left; unfold x)
    | ((try lift_lets); intro (x : _ × State); refine Stays.via (s := s0) (x := x.2) ?_ (fun hx => ?_); rotate_left; clear_value x; rotate_left; unfold x)
    | ((try lift_lets); intro x; clear_value x)
    | with_reducible assumption
    | with_reducible apply State.moveState_stays
    | with_reducible apply State.bindSlot_stays
    | with_reducible apply State.settleSegs_stays
    | with_reducible apply State.rebindEnd_stays
    | with_reducible refine Stays.of_fst (State.rewriteFields_stays ?_) (by assumption)
    | with_reducible apply State.rewriteFields_stays
    | with_reducible apply State.publishPlane_stays
    | with_reducible apply State.placeSegments_stays
    | with_reducible apply State.setAe_stays
    | with_reducible apply State.setField_stays
    | with_reducible apply State.setF_stays
    | split
    | (dsimp only)
    | (with_reducible apply Stays.upd; first | with_reducible assumption | with_reducible apply State.moveState_stays | with_reducible apply State.bindSlot_stays | with_reducible apply State.settleSegs_stays | with_reducible apply State.rebindEnd_stays | with_reducible refine Stays.of_fst (State.rewriteFields_stays ?_) (by assumption) | with_reducible apply State.rewriteFields_stays | with_reducible apply State.publishPlane_stays | with_reducible apply State.placeSegments_stays | with_reducible apply State.setAe_stays | with_reducible apply State.setField_stays | with_reducible apply State.setF_stays | split))

theorem execRebind_stays  : StaysOut s (execRebind s) := by
  unfold execRebind
  have hk : Stays s s := Stays.refl s
  repeat' (first
    | with_reducible apply StaysOut.next
    | ((try lift_lets); intro (x : State); refine Stays.via (s := s) (x := x) ?_ (fun hx => ?_); rotate_left; clear_value x; rotate_left; unfold x)
    | ((try lift_lets); intro x; clear_value x)
    | with_reducible assumption
    | with_reducible apply State.cancelStreams_stays
    | with_reducible apply State.rebindTo_stays
    | with_reducible apply State.rebindEnd_stays
    | with_reducible apply State.nextRebind_stays
    | with_reducible apply State.stopDrain_stays
    | with_reducible apply State.setF_stays
    | with_reducible refine Stays.foldl ?_ (fun u x hu => ?_)
    | split
    | (dsimp only)
    | (with_reducible apply Stays.upd; first | with_reducible assumption | with_reducible apply State.cancelStreams_stays | with_reducible apply State.rebindTo_stays | with_reducible apply State.rebindEnd_stays | with_reducible apply State.nextRebind_stays | with_reducible apply State.stopDrain_stays | with_reducible apply State.setF_stays | split))

theorem State.holdForRecovery_stays {fs : List FieldAddr} (hk : Stays s0 s) : Stays s0 (State.holdForRecovery s fs) := by
  unfold State.holdForRecovery
  repeat' (first
    | ((try lift_lets); intro (x : State); refine Stays.via (s := s0) (x := x) ?_ (fun hx => ?_); rotate_left; clear_value x; rotate_left; unfold x)
    | ((try lift_lets); intro x; clear_value x)
    | with_reducible assumption
    | with_reducible apply State.stopDrain_stays
    | with_reducible refine Stays.foldl ?_ (fun u x hu => ?_)
    | split
    | (dsimp only)
    | (with_reducible apply Stays.upd; first | with_reducible assumption | with_reducible apply State.stopDrain_stays | split))

theorem State.rerouteBridge_stays  (hk : Stays s0 s) : Stays s0 (State.rerouteBridge s) := by
  unfold State.rerouteBridge
  repeat' (first
    | ((try lift_lets); intro (x : State); refine Stays.via (s := s0) (x := x) ?_ (fun hx => ?_); rotate_left; clear_value x; rotate_left; unfold x)
    | ((try lift_lets); intro (x : State × _); refine Stays.via (s := s0) (x := x.1) ?_ (fun hx => ?_); rotate_left; clear_value x; rotate_left; unfold x)
    | ((try lift_lets); intro (x : _ × State); refine Stays.via (s := s0) (x := x.2) ?_ (fun hx => ?_); rotate_left; clear_value x; rotate_left; unfold x)
    | ((try lift_lets); intro x; clear_value x)
    | with_reducible assumption
    | with_reducible refine Stays.of_fst (State.rewriteEntry_stays ?_) (by assumption)
    | with_reducible apply State.rewriteEntry_stays
    | with_reducible apply State.setField_stays
    | with_reducible refine Stays.foldl ?_ (fun u x hu => ?_)
    | with_reducible refine Stays.foldl_fst ?_ (fun u x hu => ?_)
    | split
    | (dsimp only)
    | (with_reducible apply Stays.upd; first | with_reducible assumption | with_reducible refine Stays.of_fst (State.rewriteEntry_stays ?_) (by assumption) | with_reducible apply State.rewriteEntry_stays | with_reducible apply State.setField_stays | split))

theorem execStepRewind_stays  : StaysOut s (execStepRewind s) := by
  unfold execStepRewind
  have hk : Stays s s := Stays.refl s
  repeat' (first
    | with_reducible apply StaysOut.next
    | ((try lift_lets); intro (x : State); refine Stays.via (s := s) (x := x) ?_ (fun hx => ?_); rotate_left; clear_value x; rotate_left; unfold x)
    | ((try lift_lets); intro x; clear_value x)
    | with_reducible assumption
    | with_reducible apply State.releaseRecovery_stays
    | with_reducible apply State.rewindEpoch_stays
    | with_reducible apply State.dropNotices_stays
    | with_reducible apply State.setCurWm_stays
    | with_reducible apply State.rerouteBridge_stays
    | with_reducible apply State.holdForRecovery_stays
    | with_reducible apply State.restoreWiped_stays
    | with_reducible apply State.setF_stays
    | with_reducible apply State.setQueue_stays
    | with_reducible refine Stays.foldl ?_ (fun u x hu => ?_)
    | split
    | (dsimp only)
    | (with_reducible apply Stays.upd; first | with_reducible assumption | with_reducible apply State.releaseRecovery_stays | with_reducible apply State.rewindEpoch_stays | with_reducible apply State.dropNotices_stays | with_reducible apply State.setCurWm_stays | with_reducible apply State.rerouteBridge_stays | with_reducible apply State.holdForRecovery_stays | with_reducible apply State.restoreWiped_stays | with_reducible apply State.setF_stays | with_reducible apply State.setQueue_stays | split))

end Sys2Proof.Machine
end

