-- ==== Sys2Proof/Laws/KeepsChecks.lean ====
section
/-!
SUPPORT. What the operations of Machine/Checks keep (Laws/Keeps).
-/
namespace Sys2Proof.Machine

set_option linter.all false

variable {s0 s : State}

theorem execCheckFeed_stays {n : Nat} {which : Fin 3} {steals : Nat} {wrong : List Nat} : StaysOut s (execCheckFeed n which steals wrong s) := by
  unfold execCheckFeed
  have hk : Stays s s := Stays.refl s
  repeat' (first
    | with_reducible apply StaysOut.next
    | ((try lift_lets); intro (x : State); refine Stays.via (s := s) (x := x) ?_ (fun hx => ?_); rotate_left; clear_value x; rotate_left; unfold x)
    | ((try lift_lets); intro (x : _ → _); dsimp -zeta only [x]; clear x)
    | ((try lift_lets); intro x; clear_value x)
    | with_reducible assumption
    | with_reducible apply State.countWm_stays
    | split
    | (dsimp only)
    | (with_reducible apply Stays.upd; first | with_reducible assumption | with_reducible apply State.countWm_stays | split))

theorem State.checkDetail_stays {u : CheckUnit} {verdict : Nat} (hk : Stays s0 s) : Stays s0 (State.checkDetail s u verdict).2 := by
  unfold State.checkDetail
  repeat' (first
    | ((try lift_lets); intro (x : State); refine Stays.via (s := s0) (x := x) ?_ (fun hx => ?_); rotate_left; clear_value x; rotate_left; unfold x)
    | ((try lift_lets); intro (x : State × _); refine Stays.via (s := s0) (x := x.1) ?_ (fun hx => ?_); rotate_left; clear_value x; rotate_left; unfold x)
    | ((try lift_lets); intro (x : _ × State); refine Stays.via (s := s0) (x := x.2) ?_ (fun hx => ?_); rotate_left; clear_value x; rotate_left; unfold x)
    | ((try lift_lets); intro x; clear_value x)
    | with_reducible assumption
    | with_reducible refine Stays.of_snd (State.freeBits_stays ?_) (by assumption)
    | with_reducible apply State.freeBits_stays
    | split
    | (dsimp only)
    | (with_reducible apply Stays.upd; first | with_reducible assumption | with_reducible refine Stays.of_snd (State.freeBits_stays ?_) (by assumption) | with_reducible apply State.freeBits_stays | split))

theorem State.checkAction_stays {u : CheckUnit} {verdict : Nat} (hk : Stays s0 s) : Stays s0 (State.checkAction s u verdict) := by
  unfold State.checkAction
  repeat' (first
    | ((try lift_lets); intro (x : State); refine Stays.via (s := s0) (x := x) ?_ (fun hx => ?_); rotate_left; clear_value x; rotate_left; unfold x)
    | ((try lift_lets); intro (x : _ → _); dsimp -zeta only [x]; clear x)
    | ((try lift_lets); intro x; clear_value x)
    | with_reducible assumption
    | with_reducible apply State.taint_stays
    | with_reducible apply State.failStep_stays
    | split
    | (dsimp only)
    | (with_reducible apply Stays.upd; first | with_reducible assumption | with_reducible apply State.taint_stays | with_reducible apply State.failStep_stays | split))

theorem State.suspectVerdict_stays {a : TileAddr} {wm : Waymark} {recent : Bool} (hk : Stays s0 s) : Stays s0 (State.suspectVerdict s a wm recent) := by
  unfold State.suspectVerdict
  repeat' (first
    | ((try lift_lets); intro (x : State); refine Stays.via (s := s0) (x := x) ?_ (fun hx => ?_); rotate_left; clear_value x; rotate_left; unfold x)
    | ((try lift_lets); intro x; clear_value x)
    | with_reducible assumption
    | with_reducible apply State.condemn_stays
    | split
    | (dsimp only)
    | (with_reducible apply Stays.upd; first | with_reducible assumption | with_reducible apply State.condemn_stays | split))

theorem State.giveVerdict_stays {n : Nat} {u : CheckUnit} {verdict : Nat} {recent : Bool} (hk : Stays s0 s) : Stays s0 (State.giveVerdict s n u verdict recent) := by
  unfold State.giveVerdict
  repeat' (first
    | ((try lift_lets); intro (x : State); refine Stays.via (s := s0) (x := x) ?_ (fun hx => ?_); rotate_left; clear_value x; rotate_left; unfold x)
    | ((try lift_lets); intro (x : State × _); refine Stays.via (s := s0) (x := x.1) ?_ (fun hx => ?_); rotate_left; clear_value x; rotate_left; unfold x)
    | ((try lift_lets); intro (x : _ × State); refine Stays.via (s := s0) (x := x.2) ?_ (fun hx => ?_); rotate_left; clear_value x; rotate_left; unfold x)
    | ((try lift_lets); intro x; clear_value x)
    | with_reducible assumption
    | with_reducible apply State.raise_stays
    | with_reducible apply State.countWm_stays
    | with_reducible apply State.setIrq_stays
    | with_reducible apply State.condemn_stays
    | with_reducible apply State.suspectVerdict_stays
    | with_reducible apply State.checkAction_stays
    | with_reducible refine Stays.of_snd (State.checkDetail_stays ?_) (by assumption)
    | with_reducible apply State.checkDetail_stays
    | split
    | (dsimp only)
    | (with_reducible apply Stays.upd; first | with_reducible assumption | with_reducible apply State.raise_stays | with_reducible apply State.countWm_stays | with_reducible apply State.setIrq_stays | with_reducible apply State.condemn_stays | with_reducible apply State.suspectVerdict_stays | with_reducible apply State.checkAction_stays | with_reducible refine Stays.of_snd (State.checkDetail_stays ?_) (by assumption) | with_reducible apply State.checkDetail_stays | split))

theorem execCheckVerdict_stays {n : Nat} {recent : Bool} : StaysOut s (execCheckVerdict n recent s) := by
  unfold execCheckVerdict
  have hk : Stays s s := Stays.refl s
  repeat' (first
    | with_reducible apply StaysOut.next
    | ((try lift_lets); intro (x : State); refine Stays.via (s := s) (x := x) ?_ (fun hx => ?_); rotate_left; clear_value x; rotate_left; unfold x)
    | ((try lift_lets); intro x; clear_value x)
    | with_reducible assumption
    | with_reducible apply State.countWm_stays
    | with_reducible apply State.giveVerdict_stays
    | split
    | (dsimp only)
    | (with_reducible apply Stays.upd; first | with_reducible assumption | with_reducible apply State.countWm_stays | with_reducible apply State.giveVerdict_stays | split))

theorem execCheckDeadline_stays {n : Nat} : StaysOut s (execCheckDeadline n s) := by
  unfold execCheckDeadline
  have hk : Stays s s := Stays.refl s
  repeat' (first
    | with_reducible apply StaysOut.next
    | ((try lift_lets); intro (x : State); refine Stays.via (s := s) (x := x) ?_ (fun hx => ?_); rotate_left; clear_value x; rotate_left; unfold x)
    | ((try lift_lets); intro x; clear_value x)
    | with_reducible assumption
    | with_reducible apply State.giveVerdict_stays
    | split
    | (dsimp only)
    | (with_reducible apply Stays.upd; first | with_reducible assumption | with_reducible apply State.giveVerdict_stays | split))

end Sys2Proof.Machine
end

