-- ==== Sys2Proof/Laws/KeepsFirmware.lean ====
section
/-!
SUPPORT. What the operations of Machine/Firmware keep (Laws/Keeps).
-/
namespace Sys2Proof.Machine

set_option linter.all false

variable {s0 s : State}

theorem State.checkBank_stays {stage : Nat} {g : FwImage} {readable : Bool} (hk : Stays s0 s) : Stays s0 (State.checkBank s stage g readable).1 := by
  unfold State.checkBank
  repeat' (first
    | ((try lift_lets); intro (x : State); refine Stays.via (s := s0) (x := x) ?_ (fun hx => ?_); rotate_left; clear_value x; rotate_left; unfold x)
    | ((try lift_lets); intro x; clear_value x)
    | with_reducible assumption
    | with_reducible apply State.count_stays
    | with_reducible apply State.setF_stays
    | split
    | (dsimp only)
    | (with_reducible apply Stays.upd; first | with_reducible assumption | with_reducible apply State.count_stays | with_reducible apply State.setF_stays | split))

theorem State.firstBank_stays {stage : Nat} {l : List Nat} :
    ∀ {s : State}, Stays s0 s → Stays s0 (State.firstBank stage l s).1 := by
  induction l with
  | nil => exact fun h => h
  | cons b r ih =>
    intro s h
    have hc : Stays s0 (s.checkBank stage (s.flashBank stage b) true).1 := State.checkBank_stays h
    unfold State.firstBank
    generalize s.checkBank stage (s.flashBank stage b) true = x at hc ⊢
    dsimp only
    split
    · exact hc
    · exact ih hc

theorem State.measured_keeps {stage : Nat} {digest : List Byte} (hk : Keeps s0 s) : Keeps s0 (State.measured s stage digest) := by
  unfold State.measured
  repeat' (first
    | ((try lift_lets); intro (x : State); refine Keeps.via (s := s0) (x := x) ?_ (fun hx => ?_); rotate_left; clear_value x; rotate_left; unfold x)
    | ((try lift_lets); intro x; clear_value x)
    | with_reducible assumption
    | split
    | (dsimp only)
    | (with_reducible apply Keeps.upd; first | with_reducible assumption | split))

theorem State.bootRecord_stays {sev : Nat} (hk : Stays s0 s) : Stays s0 (State.bootRecord s sev) := by
  unfold State.bootRecord
  repeat' (first
    | ((try lift_lets); intro (x : State); refine Stays.via (s := s0) (x := x) ?_ (fun hx => ?_); rotate_left; clear_value x; rotate_left; unfold x)
    | ((try lift_lets); intro x; clear_value x)
    | with_reducible assumption
    | with_reducible apply State.note_stays
    | split
    | (dsimp only)
    | (with_reducible apply Stays.upd; first | with_reducible assumption | with_reducible apply State.note_stays | split))

theorem State.verifyStage_keeps {stage : Nat} (h : Keeps s0 s) : Keeps s0 (State.verifyStage s stage).1 := by
  have hc : Keeps s0 (State.firstBank stage (s.bankOrder stage) s).1 := Keeps.step h (State.firstBank_stays (Stays.refl s))
  unfold State.verifyStage
  generalize State.firstBank stage (s.bankOrder stage) s = x at hc ⊢
  obtain ⟨u, _ | b⟩ := x
  · exact Keeps.step hc (State.bootRecord_stays (Stays.refl u))
  · have h1 : ∀ (i j k : Nat), Keeps s0 (((u.setF (F.SEC_STAGE_SVN stage) 0 i).setF (F.SEC_STAGE_BANK stage) 0 j).setF
        (F.SEC_STAGE_VERSION stage) 0 k) :=
      fun i j k => Keeps.step hc (State.setF_stays (State.setF_stays (State.setF_stays (Stays.refl u))))
    replace h1 := h1 (FwImage.svn (u.flashBank stage b)) b (FwImage.version (u.flashBank stage b))
    dsimp only
    generalize FwImage.svn (u.flashBank stage b) = i at h1 ⊢
    generalize FwImage.version (u.flashBank stage b) = k at h1 ⊢
    generalize FwImage.digest (u.flashBank stage b) = d
    generalize ((u.setF (F.SEC_STAGE_SVN stage) 0 i).setF (F.SEC_STAGE_BANK stage) 0 b).setF
        (F.SEC_STAGE_VERSION stage) 0 k = v at h1 ⊢
    have h2 : Keeps s0 (if (stage == 1) = true then { v with mgmtStage := v.reg ⟨.SEC, 0⟩ 0x090 } else v) := by
      split
      · exact h1.upd
      · exact h1
    generalize (if (stage == 1) = true then { v with mgmtStage := v.reg ⟨.SEC, 0⟩ 0x090 } else v) = w at h2 ⊢
    have h3 : Keeps s0 (w.measured stage d) := State.measured_keeps h2
    generalize w.measured stage d = y at h3 ⊢
    split
    · exact h3
    · exact Keeps.step h3 (State.bootRecord_stays (State.setF_stays (Stays.refl y)))

theorem State.activateStages_keeps {stages : List Nat} (hk : Keeps s0 s) : Keeps s0 (State.activateStages s stages) := by
  unfold State.activateStages
  repeat' (first
    | ((try lift_lets); intro (x : State); refine Keeps.via (s := s0) (x := x) ?_ (fun hx => ?_); rotate_left; clear_value x; rotate_left; unfold x)
    | ((try lift_lets); intro x; clear_value x)
    | with_reducible assumption
    | with_reducible refine Keeps.foldl ?_ (fun u x hu => ?_)
    | split
    | (dsimp only)
    | (with_reducible apply Keeps.upd; first | with_reducible assumption | split))

theorem State.fwEnd_stays {stage result : Nat} (hk : Stays s0 s) : Stays s0 (State.fwEnd s stage result) := by
  unfold State.fwEnd
  repeat' (first
    | ((try lift_lets); intro (x : State); refine Stays.via (s := s0) (x := x) ?_ (fun hx => ?_); rotate_left; clear_value x; rotate_left; unfold x)
    | ((try lift_lets); intro x; clear_value x)
    | with_reducible assumption
    | with_reducible apply State.setIrq_stays
    | with_reducible apply State.setF_stays
    | with_reducible apply State.note_stays
    | split
    | (dsimp only)
    | (with_reducible apply Stays.upd; first | with_reducible assumption | with_reducible apply State.setIrq_stays | with_reducible apply State.setF_stays | with_reducible apply State.note_stays | split))

theorem State.fwStage_keeps {stage : Nat} {g : FwImage} {readable : Bool} (h : Keeps s0 s) :
    Keeps s0 (State.fwStage s stage g readable) := by
  have hc : Keeps s0 (s.checkBank stage g readable).1 := Keeps.step h (State.checkBank_stays (Stays.refl s))
  unfold State.fwStage
  generalize s.checkBank stage g readable = x at hc ⊢
  generalize bytesAt g 0 (4096 + FwImage.bodyBytes g) = b
  dsimp only
  split
  · exact Keeps.step hc (State.fwEnd_stays (Stays.refl _))
  · exact Keeps.step (Keeps.upd hc) (State.fwEnd_stays (State.setF_stays (Stays.refl _)))

theorem State.fwActivate_keeps {stage : Nat} (h : Keeps s0 s) : Keeps s0 (State.fwActivate s stage) := by
  unfold State.fwActivate
  split
  · exact Keeps.step h (State.fwEnd_stays (Stays.refl _))
  · exact Keeps.step (Keeps.upd (Keeps.step h (State.setF_stays (Stays.refl _)))) (State.fwEnd_stays (Stays.refl _))

theorem State.fwCommit_stays {stage : Nat} {fails : Bool} {blown : Nat} (hk : Stays s0 s) : Stays s0 (State.fwCommit s stage fails blown) := by
  unfold State.fwCommit
  repeat' (first
    | ((try lift_lets); intro (x : State); refine Stays.via (s := s0) (x := x) ?_ (fun hx => ?_); rotate_left; clear_value x; rotate_left; unfold x)
    | ((try lift_lets); intro x; clear_value x)
    | with_reducible assumption
    | with_reducible apply State.setF_stays
    | with_reducible apply State.fwEnd_stays
    | split
    | (dsimp only)
    | (with_reducible apply Stays.upd; first | with_reducible assumption | with_reducible apply State.setF_stays | with_reducible apply State.fwEnd_stays | split))

theorem State.fwImage_stays  (hk : Stays s0 s) : Stays s0 (State.fwImage s).1 := by
  unfold State.fwImage
  repeat' (first
    | ((try lift_lets); intro (x : State); refine Stays.via (s := s0) (x := x) ?_ (fun hx => ?_); rotate_left; clear_value x; rotate_left; unfold x)
    | ((try lift_lets); intro (x : State × _); refine Stays.via (s := s0) (x := x.1) ?_ (fun hx => ?_); rotate_left; clear_value x; rotate_left; unfold x)
    | ((try lift_lets); intro (x : _ × State); refine Stays.via (s := s0) (x := x.2) ?_ (fun hx => ?_); rotate_left; clear_value x; rotate_left; unfold x)
    | ((try lift_lets); intro x; clear_value x)
    | with_reducible assumption
    | with_reducible refine Stays.of_fst (State.edgeRead_stays ?_) (by assumption)
    | with_reducible apply State.edgeRead_stays
    | split
    | (dsimp only)
    | (with_reducible apply Stays.upd; first | with_reducible assumption | with_reducible refine Stays.of_fst (State.edgeRead_stays ?_) (by assumption) | with_reducible apply State.edgeRead_stays | split))

theorem State.fwOp_keeps {op stage : Nat} {image : FwImage} {readable fails : Bool} {blown : Nat} (h : Keeps s0 s) :
    Keeps s0 (State.fwOp s op stage image readable fails blown) := by
  have h1 : Keeps s0 ((s.setF F.SEC_FW_CMD_OP 0 op).setF F.SEC_FW_CMD_STAGE 0 stage) :=
    Keeps.step h (State.setF_stays (State.setF_stays (Stays.refl s)))
  unfold State.fwOp
  dsimp only
  split
  · exact State.fwStage_keeps h1
  · exact State.fwActivate_keeps h1
  · exact Keeps.step h1 (State.fwCommit_stays (Stays.refl _))

theorem State.fwWrite_keeps {fw : Bool} {value : W64} {fails : Bool} {blown : Nat} (h : Keeps s0 s) :
    Keeps s0 (State.fwWrite s fw value fails blown) := by
  unfold State.fwWrite
  refine State.regWrite_keeps h (fun u hu => ?_)
  split
  · exact hu
  · refine State.fwOp_keeps ?_
    split
    · exact Keeps.step hu (State.fwImage_stays (Stays.refl u))
    · exact hu

theorem execStageImage_keeps {fw : Bool} {value : W64} : KeepsOut s (execStageImage fw value s) := by
  unfold execStageImage
  have hk : Keeps s s := Keeps.refl s
  repeat' (first
    | with_reducible apply KeepsOut.next
    | ((try lift_lets); intro (x : State); refine Keeps.via (s := s) (x := x) ?_ (fun hx => ?_); rotate_left; clear_value x; rotate_left; unfold x)
    | ((try lift_lets); intro x; clear_value x)
    | with_reducible assumption
    | with_reducible apply State.fwWrite_keeps
    | split
    | (dsimp only)
    | (with_reducible apply Keeps.upd; first | with_reducible assumption | with_reducible apply State.fwWrite_keeps | split))

theorem execActivateImage_keeps {fw : Bool} {value : W64} : KeepsOut s (execActivateImage fw value s) := by
  unfold execActivateImage
  have hk : Keeps s s := Keeps.refl s
  repeat' (first
    | with_reducible apply KeepsOut.next
    | ((try lift_lets); intro (x : State); refine Keeps.via (s := s) (x := x) ?_ (fun hx => ?_); rotate_left; clear_value x; rotate_left; unfold x)
    | ((try lift_lets); intro x; clear_value x)
    | with_reducible assumption
    | with_reducible apply State.fwWrite_keeps
    | split
    | (dsimp only)
    | (with_reducible apply Keeps.upd; first | with_reducible assumption | with_reducible apply State.fwWrite_keeps | split))

theorem execCommitImage_keeps {fw : Bool} {value : W64} {fails : Bool} {blown : Nat} : KeepsOut s (execCommitImage fw value fails blown s) := by
  unfold execCommitImage
  have hk : Keeps s s := Keeps.refl s
  repeat' (first
    | with_reducible apply KeepsOut.next
    | ((try lift_lets); intro (x : State); refine Keeps.via (s := s) (x := x) ?_ (fun hx => ?_); rotate_left; clear_value x; rotate_left; unfold x)
    | ((try lift_lets); intro x; clear_value x)
    | with_reducible assumption
    | with_reducible apply State.fwWrite_keeps
    | split
    | (dsimp only)
    | (with_reducible apply Keeps.upd; first | with_reducible assumption | with_reducible apply State.fwWrite_keeps | split))

end Sys2Proof.Machine
end

