-- ==== Sys2Proof/Laws/KeepsLookout.lean ====
section
/-!
SUPPORT. What the operations of Machine/Lookout keep (Laws/Keeps).
-/
namespace Sys2Proof.Machine

set_option linter.all false

variable {s0 s : State}

theorem State.rollback_stays {wm : Nat} {reason at' : Nat} (hk : Stays s0 s) : Stays s0 (State.rollback s wm reason at') := by
  unfold State.rollback
  repeat' (first
    | ((try lift_lets); intro (x : State); refine Stays.via (s := s0) (x := x) ?_ (fun hx => ?_); rotate_left; clear_value x; rotate_left; unfold x)
    | ((try lift_lets); intro x; clear_value x)
    | with_reducible assumption
    | with_reducible apply State.raise_stays
    | with_reducible apply State.countWm_stays
    | with_reducible apply State.setIrq_stays
    | with_reducible apply State.rose_stays
    | with_reducible apply State.setReg_stays
    | split
    | (dsimp only)
    | (with_reducible apply Stays.upd; first | with_reducible assumption | with_reducible apply State.raise_stays | with_reducible apply State.countWm_stays | with_reducible apply State.setIrq_stays | with_reducible apply State.rose_stays | with_reducible apply State.setReg_stays | split))

theorem State.anomaly_stays {wm x kind : Nat} (hk : Stays s0 s) : Stays s0 (State.anomaly s wm x kind) := by
  unfold State.anomaly
  repeat' (first
    | ((try lift_lets); intro (x : State); refine Stays.via (s := s0) (x := x) ?_ (fun hx => ?_); rotate_left; clear_value x; rotate_left; unfold x)
    | ((try lift_lets); intro x; clear_value x)
    | with_reducible assumption
    | with_reducible apply State.raise_stays
    | with_reducible apply State.countWm_stays
    | with_reducible apply State.setIrq_stays
    | split
    | (dsimp only)
    | (with_reducible apply Stays.upd; first | with_reducible assumption | with_reducible apply State.raise_stays | with_reducible apply State.countWm_stays | with_reducible apply State.setIrq_stays | split))

theorem State.spike_stays {wm x : Nat} (hk : Stays s0 s) : Stays s0 (State.spike s wm x) := by
  unfold State.spike
  repeat' (first
    | ((try lift_lets); intro (x : State); refine Stays.via (s := s0) (x := x) ?_ (fun hx => ?_); rotate_left; clear_value x; rotate_left; unfold x)
    | ((try lift_lets); intro x; clear_value x)
    | with_reducible assumption
    | with_reducible apply State.anomaly_stays
    | with_reducible apply State.rollback_stays
    | with_reducible refine Stays.foldl ?_ (fun u x hu => ?_)
    | split
    | (dsimp only)
    | (with_reducible apply Stays.upd; first | with_reducible assumption | with_reducible apply State.anomaly_stays | with_reducible apply State.rollback_stays | split))

theorem State.reported_stays {wm : Nat} {x : W32} (h : Stays s0 s) : Stays s0 (s.reported wm x) :=
  State.setReg_stays (State.countWm_stays h)

theorem State.follow_stays {x : W32} (hk : Stays s0 s) : Stays s0 (State.follow s x) := by
  unfold State.follow
  repeat' (first
    | ((try lift_lets); intro (x : State); refine Stays.via (s := s0) (x := x) ?_ (fun hx => ?_); rotate_left; clear_value x; rotate_left; unfold x)
    | ((try lift_lets); intro x; clear_value x)
    | with_reducible assumption
    | with_reducible apply State.setReg_stays
    | split
    | (dsimp only)
    | (with_reducible apply Stays.upd; first | with_reducible assumption | with_reducible apply State.setReg_stays | split))

theorem State.report_stays {wm : Nat} {x : W32} (hk : Stays s0 s) : Stays s0 (State.report s wm x) := by
  unfold State.report
  repeat' (first
    | ((try lift_lets); intro (x : State); refine Stays.via (s := s0) (x := x) ?_ (fun hx => ?_); rotate_left; clear_value x; rotate_left; unfold x)
    | ((try lift_lets); intro x; clear_value x)
    | with_reducible assumption
    | with_reducible apply State.follow_stays
    | with_reducible apply State.reported_stays
    | with_reducible apply State.spike_stays
    | with_reducible apply State.anomaly_stays
    | with_reducible apply State.rollback_stays
    | split
    | (dsimp only)
    | (with_reducible apply Stays.upd; first | with_reducible assumption | with_reducible apply State.follow_stays | with_reducible apply State.reported_stays | with_reducible apply State.spike_stays | with_reducible apply State.anomaly_stays | with_reducible apply State.rollback_stays | split))

theorem State.foreignEntry_stays {got node : Nat} (h : Stays s0 s) : Stays s0 (s.foreignEntry got node) := by
  unfold State.foreignEntry
  lift_lets
  intro id
  clear_value id
  split
  · exact h
  · exact State.countWm_stays h.upd

theorem State.lostEntries_stays {got : Nat} (hk : Stays s0 s) : Stays s0 (State.lostEntries s got) := by
  unfold State.lostEntries
  repeat' (first
    | ((try lift_lets); intro (x : State); refine Stays.via (s := s0) (x := x) ?_ (fun hx => ?_); rotate_left; clear_value x; rotate_left; unfold x)
    | ((try lift_lets); intro x; clear_value x)
    | with_reducible assumption
    | with_reducible apply State.countWm_stays
    | with_reducible apply State.setF_stays
    | split
    | (dsimp only)
    | (with_reducible apply Stays.upd; first | with_reducible assumption | with_reducible apply State.countWm_stays | with_reducible apply State.setF_stays | split))

theorem State.readRing_stays {n : Nat} : ∀ {s : State}, Stays s0 s → Stays s0 (State.readRing n s) := by
  induction n with
  | zero => exact fun h => h
  | succ n ih =>
    intro s h
    unfold State.readRing
    split
    · exact h
    · rename_i got node wm x _
      dsimp only
      split
      · exact h
      split
      · exact State.foreignEntry_stays h
      split
      · exact ih (State.setF_stays (State.report_stays h))
      split
      · exact ih (State.lostEntries_stays h)
      · exact h

theorem execLookoutPoll_stays  : StaysOut s (execLookoutPoll s) := by
  unfold execLookoutPoll
  have hk : Stays s s := Stays.refl s
  repeat' (first
    | with_reducible apply StaysOut.next
    | ((try lift_lets); intro (x : State); refine Stays.via (s := s) (x := x) ?_ (fun hx => ?_); rotate_left; clear_value x; rotate_left; unfold x)
    | ((try lift_lets); intro x; clear_value x)
    | with_reducible assumption
    | with_reducible apply State.readRing_stays
    | split
    | (dsimp only)
    | (with_reducible apply Stays.upd; first | with_reducible assumption | with_reducible apply State.readRing_stays | split))

end Sys2Proof.Machine
end

