-- ==== Sys2Proof/Laws/KeepsPassEnd.lean ====
section
/-!
SUPPORT. What the operations of Machine/PassEnd keep (Laws/Keeps).
-/
namespace Sys2Proof.Machine

set_option linter.all false

variable {s0 s : State}

theorem State.cancelPassStep_stays {p : Fin 2} (hk : Stays s0 s) : Stays s0 (State.cancelPassStep s p) := by
  unfold State.cancelPassStep
  repeat' (first
    | ((try lift_lets); intro (x : State); refine Stays.via (s := s0) (x := x) ?_ (fun hx => ?_); rotate_left; clear_value x; rotate_left; unfold x)
    | ((try lift_lets); intro x; clear_value x)
    | with_reducible assumption
    | with_reducible apply State.cancelWork_stays
    | split
    | (dsimp only)
    | (with_reducible apply Stays.upd; first | with_reducible assumption | with_reducible apply State.cancelWork_stays | split))

theorem execPassAbort_stays {p : Fin 2} {recent : Bool} : StaysOut s (execPassAbort p recent s) := by
  unfold execPassAbort
  have hk : Stays s s := Stays.refl s
  repeat' (first
    | with_reducible apply StaysOut.next
    | ((try lift_lets); intro (x : State); refine Stays.via (s := s) (x := x) ?_ (fun hx => ?_); rotate_left; clear_value x; rotate_left; unfold x)
    | ((try lift_lets); intro x; clear_value x)
    | with_reducible assumption
    | with_reducible apply State.cancelPassStep_stays
    | with_reducible apply State.abortDrains_stays
    | with_reducible apply State.abortEnters_stays
    | with_reducible apply State.abortNoted_stays
    | with_reducible apply State.suspectTile_stays
    | split
    | (dsimp only)
    | (with_reducible apply Stays.upd; first | with_reducible assumption | with_reducible apply State.cancelPassStep_stays | with_reducible apply State.abortDrains_stays | with_reducible apply State.abortEnters_stays | with_reducible apply State.abortNoted_stays | with_reducible apply State.suspectTile_stays | split))

theorem execPassComplete_stays {p : Fin 2} : StaysOut s (execPassComplete p s) := by
  unfold execPassComplete
  have hk : Stays s s := Stays.refl s
  repeat' (first
    | with_reducible apply StaysOut.next
    | ((try lift_lets); intro (x : State); refine Stays.via (s := s) (x := x) ?_ (fun hx => ?_); rotate_left; clear_value x; rotate_left; unfold x)
    | ((try lift_lets); intro x; clear_value x)
    | with_reducible assumption
    | with_reducible apply State.completePass_stays
    | with_reducible apply State.parkAfterPass_stays
    | split
    | (dsimp only)
    | (with_reducible apply Stays.upd; first | with_reducible assumption | with_reducible apply State.completePass_stays | with_reducible apply State.parkAfterPass_stays | split))

theorem execPassFailed_stays {p : Fin 2} : StaysOut s (execPassFailed p s) := by
  unfold execPassFailed
  have hk : Stays s s := Stays.refl s
  repeat' (first
    | with_reducible apply StaysOut.next
    | ((try lift_lets); intro (x : State); refine Stays.via (s := s) (x := x) ?_ (fun hx => ?_); rotate_left; clear_value x; rotate_left; unfold x)
    | ((try lift_lets); intro x; clear_value x)
    | with_reducible assumption
    | with_reducible apply State.failPass_stays
    | with_reducible apply State.parkAfterPass_stays
    | split
    | (dsimp only)
    | (with_reducible apply Stays.upd; first | with_reducible assumption | with_reducible apply State.failPass_stays | with_reducible apply State.parkAfterPass_stays | split))

end Sys2Proof.Machine
end

