-- ==== Sys2Proof/Laws/KeepsStartup.lean ====
section
/-!
SUPPORT. What the operations of Machine/Startup keep (Laws/Keeps).
-/
namespace Sys2Proof.Machine

set_option linter.all false

variable {s0 s : State}

theorem State.bare_keeps (h : Keeps s0 s) : Keeps s0 s.bare := by
  unfold State.bare
  refine Keeps.foldl ?_ (fun u n hu => Keeps.step hu (State.setF_stays (Stays.refl u)))
  refine Keeps.step ?_ (State.setF_stays (State.setF_stays (State.setF_stays (Stays.refl _))))
  refine ⟨h.pending, fun x => ?_⟩
  have z := (h.sound x).bounded
  exact ⟨rfl, rfl, rfl, rfl, rfl, rfl, rfl, rfl, ⟨z.retained, Nat.zero_le _, z.mlog, Nat.zero_le _⟩⟩

theorem State.bareUp_keeps (h : Keeps s0 s) : Keeps s0 s.bareUp := by
  have hb : Keeps s0 s.bare := State.bare_keeps h
  unfold State.bareUp
  generalize s.bare = t at hb ⊢
  refine ⟨hb.pending, fun x => ?_⟩
  have y := h.sound x
  have z := hb.sound x
  exact ⟨storeWf_putAll _ _ _ z.regs, z.tiles, z.fields, z.edge, z.queues, z.ctxs, z.links, y.msix,
    ⟨z.bounded.retained, z.bounded.held, z.bounded.mlog, y.bounded.subs⟩⟩

theorem State.pinsOf_stays {s1 : State} (hk : Stays s0 s) : Stays s0 (State.pinsOf s s1) := by
  unfold State.pinsOf
  repeat' (first
    | ((try lift_lets); intro (x : State); refine Stays.via (s := s0) (x := x) ?_ (fun hx => ?_); rotate_left; clear_value x; rotate_left; unfold x)
    | ((try lift_lets); intro x; clear_value x)
    | with_reducible assumption
    | with_reducible apply State.setF_stays
    | split
    | (dsimp only)
    | (with_reducible apply Stays.upd; first | with_reducible assumption | with_reducible apply State.setF_stays | split))

theorem State.bootCount_stays  (hk : Stays s0 s) : Stays s0 (State.bootCount s) := by
  unfold State.bootCount
  repeat' (first
    | ((try lift_lets); intro (x : State); refine Stays.via (s := s0) (x := x) ?_ (fun hx => ?_); rotate_left; clear_value x; rotate_left; unfold x)
    | ((try lift_lets); intro x; clear_value x)
    | with_reducible assumption
    | with_reducible apply State.setF_stays
    | split
    | (dsimp only)
    | (with_reducible apply Stays.upd; first | with_reducible assumption | with_reducible apply State.setF_stays | split))

theorem State.testAbandon_stays {s1 : State} (hk : Stays s0 s) : Stays s0 (State.testAbandon s s1) := by
  unfold State.testAbandon
  repeat' (first
    | ((try lift_lets); intro (x : State); refine Stays.via (s := s0) (x := x) ?_ (fun hx => ?_); rotate_left; clear_value x; rotate_left; unfold x)
    | ((try lift_lets); intro x; clear_value x)
    | with_reducible assumption
    | with_reducible apply State.setIrq_stays
    | with_reducible apply State.setF_stays
    | split
    | (dsimp only)
    | (with_reducible apply Stays.upd; first | with_reducible assumption | with_reducible apply State.setIrq_stays | with_reducible apply State.setF_stays | split))

theorem State.moduleReset_keeps  (hk : Keeps s0 s) : Keeps s0 (State.moduleReset s) := by
  unfold State.moduleReset
  repeat' (first
    | ((try lift_lets); intro (x : State); refine Keeps.via (s := s0) (x := x) ?_ (fun hx => ?_); rotate_left; clear_value x; rotate_left; unfold x)
    | ((try lift_lets); intro x; clear_value x)
    | with_reducible assumption
    | with_reducible apply Keeps.after (State.testAbandon_stays (Stays.refl _))
    | with_reducible apply Keeps.after (State.bootCount_stays (Stays.refl _))
    | with_reducible apply Keeps.after (State.pinsOf_stays (Stays.refl _))
    | with_reducible apply State.bareUp_keeps
    | with_reducible apply Keeps.after (State.setF_stays (Stays.refl _))
    | with_reducible apply State.activateStages_keeps
    | split
    | (dsimp only)
    | (with_reducible apply Keeps.upd; first | with_reducible assumption | with_reducible apply Keeps.after (State.testAbandon_stays (Stays.refl _)) | with_reducible apply Keeps.after (State.bootCount_stays (Stays.refl _)) | with_reducible apply Keeps.after (State.pinsOf_stays (Stays.refl _)) | with_reducible apply State.bareUp_keeps | with_reducible apply Keeps.after (State.setF_stays (Stays.refl _)) | with_reducible apply State.activateStages_keeps | split))

theorem State.powerOn_keeps  (hk : Keeps s0 s) : Keeps s0 (State.powerOn s) := by
  unfold State.powerOn
  repeat' (first
    | ((try lift_lets); intro (x : State); refine Keeps.via (s := s0) (x := x) ?_ (fun hx => ?_); rotate_left; clear_value x; rotate_left; unfold x)
    | ((try lift_lets); intro x; clear_value x)
    | with_reducible assumption
    | with_reducible apply Keeps.after (State.bootCount_stays (Stays.refl _))
    | with_reducible apply State.bare_keeps
    | with_reducible apply State.activateStages_keeps
    | split
    | (dsimp only)
    | (with_reducible apply Keeps.upd; first | with_reducible assumption | with_reducible apply Keeps.after (State.bootCount_stays (Stays.refl _)) | with_reducible apply State.bare_keeps | with_reducible apply State.activateStages_keeps | split))

theorem execPowerLoss_keeps  : KeepsOut s (execPowerLoss s) := by
  unfold execPowerLoss
  have hk : Keeps s s := Keeps.refl s
  repeat' (first
    | with_reducible apply KeepsOut.next
    | ((try lift_lets); intro (x : State); refine Keeps.via (s := s) (x := x) ?_ (fun hx => ?_); rotate_left; clear_value x; rotate_left; unfold x)
    | ((try lift_lets); intro x; clear_value x)
    | with_reducible assumption
    | with_reducible apply State.bare_keeps
    | split
    | (dsimp only)
    | (with_reducible apply Keeps.upd; first | with_reducible assumption | with_reducible apply State.bare_keeps | split))

theorem State.opening_stays {powered : Bool} (hk : Stays s0 s) : Stays s0 (State.opening s powered) := by
  unfold State.opening
  repeat' (first
    | ((try lift_lets); intro (x : State); refine Stays.via (s := s0) (x := x) ?_ (fun hx => ?_); rotate_left; clear_value x; rotate_left; unfold x)
    | ((try lift_lets); intro x; clear_value x)
    | with_reducible assumption
    | with_reducible apply State.setIrq_stays
    | with_reducible apply State.setF_stays
    | with_reducible apply State.note_stays
    | split
    | (dsimp only)
    | (with_reducible apply Stays.upd; first | with_reducible assumption | with_reducible apply State.setIrq_stays | with_reducible apply State.setF_stays | with_reducible apply State.note_stays | split))

theorem execPowerOnReset_keeps {cell : Bool} : KeepsOut s (execPowerOnReset cell s) := by
  unfold execPowerOnReset
  have hk : Keeps s s := Keeps.refl s
  repeat' (first
    | with_reducible apply KeepsOut.next
    | ((try lift_lets); intro (x : State); refine Keeps.via (s := s) (x := x) ?_ (fun hx => ?_); rotate_left; clear_value x; rotate_left; unfold x)
    | ((try lift_lets); intro x; clear_value x)
    | with_reducible assumption
    | with_reducible apply Keeps.after (State.opening_stays (Stays.refl _))
    | with_reducible apply State.powerOn_keeps
    | split
    | (dsimp only)
    | (with_reducible apply Keeps.upd; first | with_reducible assumption | with_reducible apply Keeps.after (State.opening_stays (Stays.refl _)) | with_reducible apply State.powerOn_keeps | split))

theorem State.startFail_stays {cause : Nat} (hk : Stays s0 s) : Stays s0 (State.startFail s cause) := by
  unfold State.startFail
  repeat' (first
    | ((try lift_lets); intro (x : State); refine Stays.via (s := s0) (x := x) ?_ (fun hx => ?_); rotate_left; clear_value x; rotate_left; unfold x)
    | ((try lift_lets); intro x; clear_value x)
    | with_reducible assumption
    | with_reducible apply State.setErr_stays
    | with_reducible apply State.setIrq_stays
    | with_reducible apply State.setF_stays
    | with_reducible apply State.note_stays
    | split
    | (dsimp only)
    | (with_reducible apply Stays.upd; first | with_reducible assumption | with_reducible apply State.setErr_stays | with_reducible apply State.setIrq_stays | with_reducible apply State.setF_stays | with_reducible apply State.note_stays | split))

theorem execRefFailure_keeps {third : Bool} : KeepsOut s (execRefFailure third s) := by
  unfold execRefFailure
  have hk : Keeps s s := Keeps.refl s
  repeat' (first
    | with_reducible apply KeepsOut.next
    | ((try lift_lets); intro (x : State); refine Keeps.via (s := s) (x := x) ?_ (fun hx => ?_); rotate_left; clear_value x; rotate_left; unfold x)
    | ((try lift_lets); intro x; clear_value x)
    | with_reducible assumption
    | with_reducible apply Keeps.after (State.startFail_stays (Stays.refl _))
    | with_reducible apply State.bare_keeps
    | with_reducible apply Keeps.after (State.mgmtKeep_stays (Stays.refl _))
    | split
    | (dsimp only)
    | (with_reducible apply Keeps.upd; first | with_reducible assumption | with_reducible apply Keeps.after (State.startFail_stays (Stays.refl _)) | with_reducible apply State.bare_keeps | with_reducible apply Keeps.after (State.mgmtKeep_stays (Stays.refl _)) | split))

theorem State.answer_stays {status : Nat} {content : List Byte} (hk : Stays s0 s) : Stays s0 (State.answer s status content) := by
  unfold State.answer
  repeat' (first
    | ((try lift_lets); intro (x : State); refine Stays.via (s := s0) (x := x) ?_ (fun hx => ?_); rotate_left; clear_value x; rotate_left; unfold x)
    | ((try lift_lets); intro x; clear_value x)
    | with_reducible assumption
    | split
    | (dsimp only)
    | (with_reducible apply Stays.upd; first | with_reducible assumption | split))

theorem execModuleReset_keeps {redfish admin fw : Bool} {value : W64} : KeepsOut s (execModuleReset redfish admin fw value s) := by
  unfold execModuleReset
  have hk : Keeps s s := Keeps.refl s
  repeat' (first
    | with_reducible apply KeepsOut.next
    | ((try lift_lets); intro (x : State); refine Keeps.via (s := s) (x := x) ?_ (fun hx => ?_); rotate_left; clear_value x; rotate_left; unfold x)
    | ((try lift_lets); intro x; clear_value x)
    | with_reducible assumption
    | with_reducible apply Keeps.after (State.answer_stays (Stays.refl _))
    | with_reducible apply State.moduleReset_keeps
    | with_reducible refine State.regWrite_keeps ?_ (fun u hu => ?_)
    | split
    | (dsimp only)
    | (with_reducible apply Keeps.upd; first | with_reducible assumption | with_reducible apply Keeps.after (State.answer_stays (Stays.refl _)) | with_reducible apply State.moduleReset_keeps | with_reducible refine State.regWrite_keeps ?_ (fun u hu => ?_) | split))

theorem execActivationTimeout_keeps  : KeepsOut s (execActivationTimeout s) := by
  unfold execActivationTimeout
  have hk : Keeps s s := Keeps.refl s
  repeat' (first
    | with_reducible apply KeepsOut.next
    | ((try lift_lets); intro (x : State); refine Keeps.via (s := s) (x := x) ?_ (fun hx => ?_); rotate_left; clear_value x; rotate_left; unfold x)
    | ((try lift_lets); intro (x : State × _); refine Keeps.via (s := s) (x := x.1) ?_ (fun hx => ?_); rotate_left; clear_value x; rotate_left; unfold x)
    | ((try lift_lets); intro (x : _ × State); refine Keeps.via (s := s) (x := x.2) ?_ (fun hx => ?_); rotate_left; clear_value x; rotate_left; unfold x)
    | ((try lift_lets); intro x; clear_value x)
    | with_reducible assumption
    | with_reducible apply State.moduleReset_keeps
    | split
    | (dsimp only)
    | (with_reducible apply Keeps.upd; first | with_reducible assumption | with_reducible apply State.moduleReset_keeps | split))

theorem State.mgmtRuns_keeps  (hk : Keeps s0 s) : Keeps s0 (State.mgmtRuns s) := by
  unfold State.mgmtRuns
  repeat' (first
    | ((try lift_lets); intro (x : State); refine Keeps.via (s := s0) (x := x) ?_ (fun hx => ?_); rotate_left; clear_value x; rotate_left; unfold x)
    | ((try lift_lets); intro x; clear_value x)
    | with_reducible assumption
    | with_reducible apply Keeps.after (State.setF_stays (Stays.refl _))
    | with_reducible apply State.measured_keeps
    | split
    | (dsimp only)
    | (with_reducible apply Keeps.upd; first | with_reducible assumption | with_reducible apply Keeps.after (State.setF_stays (Stays.refl _)) | with_reducible apply State.measured_keeps | split))

theorem State.verifyStages_keeps {l : List Nat} : ∀ {s : State}, Keeps s0 s → Keeps s0 (State.verifyStages l s).1 := by
  induction l with
  | nil => exact fun h => h
  | cons n r ih =>
    intro s h
    have hc : Keeps s0 (s.verifyStage n).1 := State.verifyStage_keeps h
    unfold State.verifyStages
    split
    · exact ih (State.mgmtRuns_keeps h)
    · generalize s.verifyStage n = x at hc ⊢
      dsimp only
      split
      · exact ih hc
      · exact hc

theorem State.useToken_keeps  (hk : Keeps s0 s) : Keeps s0 (State.useToken s) := by
  unfold State.useToken
  repeat' (first
    | ((try lift_lets); intro (x : State); refine Keeps.via (s := s0) (x := x) ?_ (fun hx => ?_); rotate_left; clear_value x; rotate_left; unfold x)
    | ((try lift_lets); intro x; clear_value x)
    | with_reducible assumption
    | with_reducible apply Keeps.after (State.setF_stays (Stays.refl _))
    | with_reducible apply Keeps.after (State.note_stays (Stays.refl _))
    | split
    | (dsimp only)
    | (with_reducible apply Keeps.upd; first | with_reducible assumption | with_reducible apply Keeps.after (State.setF_stays (Stays.refl _)) | with_reducible apply Keeps.after (State.note_stays (Stays.refl _)) | split))

theorem State.stepDone_stays {n : Nat} (hk : Stays s0 s) : Stays s0 (State.stepDone s n) := by
  unfold State.stepDone
  repeat' (first
    | ((try lift_lets); intro (x : State); refine Stays.via (s := s0) (x := x) ?_ (fun hx => ?_); rotate_left; clear_value x; rotate_left; unfold x)
    | ((try lift_lets); intro x; clear_value x)
    | with_reducible assumption
    | with_reducible apply State.setF_stays
    | split
    | (dsimp only)
    | (with_reducible apply Stays.upd; first | with_reducible assumption | with_reducible apply State.setF_stays | split))

theorem State.bootStages_keeps {puf : Bool} (hk : Keeps s0 s) : Keeps s0 (State.bootStages s puf) := by
  unfold State.bootStages
  repeat' (first
    | ((try lift_lets); intro (x : State); refine Keeps.via (s := s0) (x := x) ?_ (fun hx => ?_); rotate_left; clear_value x; rotate_left; unfold x)
    | ((try lift_lets); intro (x : State × _); refine Keeps.via (s := s0) (x := x.1) ?_ (fun hx => ?_); rotate_left; clear_value x; rotate_left; unfold x)
    | ((try lift_lets); intro (x : _ × State); refine Keeps.via (s := s0) (x := x.2) ?_ (fun hx => ?_); rotate_left; clear_value x; rotate_left; unfold x)
    | ((try lift_lets); intro x; clear_value x)
    | with_reducible assumption
    | with_reducible apply Keeps.after (State.stepDone_stays (Stays.refl _))
    | with_reducible apply State.useToken_keeps
    | with_reducible apply State.verifyStages_keeps
    | with_reducible apply Keeps.after (State.startFail_stays (Stays.refl _))
    | split
    | (dsimp only)
    | (with_reducible apply Keeps.upd; first | with_reducible assumption | with_reducible apply Keeps.after (State.stepDone_stays (Stays.refl _)) | with_reducible apply State.useToken_keeps | with_reducible apply State.verifyStages_keeps | with_reducible apply Keeps.after (State.startFail_stays (Stays.refl _)) | split))

theorem State.bistField_stays {t : FieldTest} (hk : Stays s0 s) : Stays s0 (State.bistField s t) := by
  unfold State.bistField
  repeat' (first
    | ((try lift_lets); intro (x : State); refine Stays.via (s := s0) (x := x) ?_ (fun hx => ?_); rotate_left; clear_value x; rotate_left; unfold x)
    | ((try lift_lets); intro (x : State × _); refine Stays.via (s := s0) (x := x.1) ?_ (fun hx => ?_); rotate_left; clear_value x; rotate_left; unfold x)
    | ((try lift_lets); intro (x : _ × State); refine Stays.via (s := s0) (x := x.2) ?_ (fun hx => ?_); rotate_left; clear_value x; rotate_left; unfold x)
    | ((try lift_lets); intro x; clear_value x)
    | with_reducible assumption
    | with_reducible apply State.raise_stays
    | with_reducible apply State.setField_stays
    | with_reducible refine Stays.foldl ?_ (fun u x hu => ?_)
    | with_reducible refine Stays.foldl_fst ?_ (fun u x hu => ?_)
    | split
    | (dsimp only)
    | (with_reducible apply Stays.upd; first | with_reducible assumption | with_reducible apply State.raise_stays | with_reducible apply State.setField_stays | split))

theorem State.testFence_stays {a : TileAddr} (hk : Stays s0 s) : Stays s0 (State.testFence s a) := by
  unfold State.testFence
  repeat' (first
    | ((try lift_lets); intro (x : State); refine Stays.via (s := s0) (x := x) ?_ (fun hx => ?_); rotate_left; clear_value x; rotate_left; unfold x)
    | ((try lift_lets); intro x; clear_value x)
    | with_reducible assumption
    | with_reducible apply State.setField_stays
    | split
    | (dsimp only)
    | (with_reducible apply Stays.upd; first | with_reducible assumption | with_reducible apply State.setField_stays | split))

theorem State.crossPair_stays {differ : List TileAddr} {p : FieldAddr × FieldAddr} (hk : Stays s0 s) : Stays s0 (State.crossPair s differ p) := by
  unfold State.crossPair
  repeat' (first
    | ((try lift_lets); intro (x : State); refine Stays.via (s := s0) (x := x) ?_ (fun hx => ?_); rotate_left; clear_value x; rotate_left; unfold x)
    | ((try lift_lets); intro x; clear_value x)
    | with_reducible assumption
    | with_reducible apply State.testFence_stays
    | with_reducible apply State.raise_stays
    | with_reducible apply State.setReg_stays
    | with_reducible refine Stays.foldl ?_ (fun u x hu => ?_)
    | split
    | (dsimp only)
    | (with_reducible apply Stays.upd; first | with_reducible assumption | with_reducible apply State.testFence_stays | with_reducible apply State.raise_stays | with_reducible apply State.setReg_stays | split))

theorem State.selfTest_stays {tests : List FieldTest} {differ : List TileAddr} {ports : List Nat} (hk : Stays s0 s) : Stays s0 (State.selfTest s tests differ ports) := by
  unfold State.selfTest
  repeat' (first
    | ((try lift_lets); intro (x : State); refine Stays.via (s := s0) (x := x) ?_ (fun hx => ?_); rotate_left; clear_value x; rotate_left; unfold x)
    | ((try lift_lets); intro x; clear_value x)
    | with_reducible assumption
    | with_reducible apply State.crossPair_stays
    | with_reducible apply State.bistField_stays
    | with_reducible apply State.stepDone_stays
    | with_reducible refine Stays.foldl ?_ (fun u x hu => ?_)
    | split
    | (dsimp only)
    | (with_reducible apply Stays.upd; first | with_reducible assumption | with_reducible apply State.crossPair_stays | with_reducible apply State.bistField_stays | with_reducible apply State.stepDone_stays | split))

theorem State.applyRetained_stays {e : Retained} (hk : Stays s0 s) : Stays s0 (State.applyRetained s e) := by
  unfold State.applyRetained
  repeat' (first
    | ((try lift_lets); intro (x : State); refine Stays.via (s := s0) (x := x) ?_ (fun hx => ?_); rotate_left; clear_value x; rotate_left; unfold x)
    | ((try lift_lets); intro x; clear_value x)
    | with_reducible assumption
    | with_reducible apply State.setField_stays
    | split
    | (dsimp only)
    | (with_reducible apply Stays.upd; first | with_reducible assumption | with_reducible apply State.setField_stays | split))

theorem State.takeIn_stays {l : List FieldAddr} :
    ∀ {m : List (Nat × BitVec 2)} {s : State}, Stays s0 s → Stays s0 (State.takeIn l m s).1 := by
  induction l with
  | nil => exact fun h => h
  | cons f r ih =>
    intro m s h
    unfold State.takeIn
    dsimp only
    split
    · exact ih h
    · exact ih (State.setField_stays h)

theorem State.bindPlane_stays {p : Fin 2} (hk : Stays s0 s) : Stays s0 (State.bindPlane s p) := by
  unfold State.bindPlane
  repeat' (first
    | ((try lift_lets); intro (x : State); refine Stays.via (s := s0) (x := x) ?_ (fun hx => ?_); rotate_left; clear_value x; rotate_left; unfold x)
    | ((try lift_lets); intro (x : State × _); refine Stays.via (s := s0) (x := x.1) ?_ (fun hx => ?_); rotate_left; clear_value x; rotate_left; unfold x)
    | ((try lift_lets); intro (x : _ × State); refine Stays.via (s := s0) (x := x.2) ?_ (fun hx => ?_); rotate_left; clear_value x; rotate_left; unfold x)
    | ((try lift_lets); intro x; clear_value x)
    | with_reducible assumption
    | with_reducible refine Stays.of_fst (State.takeIn_stays ?_) (by assumption)
    | with_reducible apply State.takeIn_stays
    | with_reducible apply State.setField_stays
    | with_reducible apply State.setF_stays
    | with_reducible refine Stays.foldl ?_ (fun u x hu => ?_)
    | with_reducible refine Stays.foldl_fst ?_ (fun u x hu => ?_)
    | split
    | (dsimp only)
    | (with_reducible apply Stays.upd; first | with_reducible assumption | with_reducible refine Stays.of_fst (State.takeIn_stays ?_) (by assumption) | with_reducible apply State.takeIn_stays | with_reducible apply State.setField_stays | with_reducible apply State.setF_stays | split))

theorem State.bootDigest_stays  (hk : Stays s0 s) : Stays s0 (State.bootDigest s) := by
  unfold State.bootDigest
  repeat' (first
    | ((try lift_lets); intro (x : State); refine Stays.via (s := s0) (x := x) ?_ (fun hx => ?_); rotate_left; clear_value x; rotate_left; unfold x)
    | ((try lift_lets); intro x; clear_value x)
    | with_reducible assumption
    | with_reducible apply State.setF_stays
    | with_reducible refine Stays.foldl ?_ (fun u x hu => ?_)
    | split
    | (dsimp only)
    | (with_reducible apply Stays.upd; first | with_reducible assumption | with_reducible apply State.setF_stays | split))

theorem State.mergeMaps_stays  (hk : Stays s0 s) : Stays s0 (State.mergeMaps s) := by
  unfold State.mergeMaps
  repeat' (first
    | ((try lift_lets); intro (x : State); refine Stays.via (s := s0) (x := x) ?_ (fun hx => ?_); rotate_left; clear_value x; rotate_left; unfold x)
    | ((try lift_lets); intro x; clear_value x)
    | with_reducible assumption
    | with_reducible apply State.bootDigest_stays
    | with_reducible apply State.bindPlane_stays
    | with_reducible apply State.applyRetained_stays
    | with_reducible apply State.stepDone_stays
    | with_reducible apply State.selectAll_stays
    | with_reducible refine Stays.foldl ?_ (fun u x hu => ?_)
    | split
    | (dsimp only)
    | (with_reducible apply Stays.upd; first | with_reducible assumption | with_reducible apply State.bootDigest_stays | with_reducible apply State.bindPlane_stays | with_reducible apply State.applyRetained_stays | with_reducible apply State.stepDone_stays | with_reducible apply State.selectAll_stays | split))

theorem State.trainStacks_stays {p : Fin 2} {failed : List Nat} (hk : Stays s0 s) : Stays s0 (State.trainStacks s p failed) := by
  unfold State.trainStacks
  repeat' (first
    | ((try lift_lets); intro (x : State); refine Stays.via (s := s0) (x := x) ?_ (fun hx => ?_); rotate_left; clear_value x; rotate_left; unfold x)
    | ((try lift_lets); intro x; clear_value x)
    | with_reducible assumption
    | with_reducible apply State.setF_stays
    | with_reducible refine Stays.foldl ?_ (fun u x hu => ?_)
    | split
    | (dsimp only)
    | (with_reducible apply Stays.upd; first | with_reducible assumption | with_reducible apply State.setF_stays | split))

theorem State.trainLinks_stays {failed : List Nat} {link : W64} (hk : Stays s0 s) : Stays s0 (State.trainLinks s failed link) := by
  unfold State.trainLinks
  repeat' (first
    | ((try lift_lets); intro (x : State); refine Stays.via (s := s0) (x := x) ?_ (fun hx => ?_); rotate_left; clear_value x; rotate_left; unfold x)
    | ((try lift_lets); intro x; clear_value x)
    | with_reducible assumption
    | with_reducible apply State.trainStacks_stays
    | with_reducible apply State.stepDone_stays
    | with_reducible apply State.setF_stays
    | with_reducible apply State.setReg_stays
    | with_reducible refine Stays.foldl ?_ (fun u x hu => ?_)
    | split
    | (dsimp only)
    | (with_reducible apply Stays.upd; first | with_reducible assumption | with_reducible apply State.trainStacks_stays | with_reducible apply State.stepDone_stays | with_reducible apply State.setF_stays | with_reducible apply State.setReg_stays | split))

theorem State.addUnavail_stays  (hk : Stays s0 s) : Stays s0 (State.addUnavail s) := by
  unfold State.addUnavail
  repeat' (first
    | ((try lift_lets); intro (x : State); refine Stays.via (s := s0) (x := x) ?_ (fun hx => ?_); rotate_left; clear_value x; rotate_left; unfold x)
    | ((try lift_lets); intro (x : State × _); refine Stays.via (s := s0) (x := x.1) ?_ (fun hx => ?_); rotate_left; clear_value x; rotate_left; unfold x)
    | ((try lift_lets); intro (x : _ × State); refine Stays.via (s := s0) (x := x.2) ?_ (fun hx => ?_); rotate_left; clear_value x; rotate_left; unfold x)
    | ((try lift_lets); intro x; clear_value x)
    | with_reducible assumption
    | with_reducible refine Stays.of_snd (State.freeBits_stays ?_) (by assumption)
    | with_reducible apply State.freeBits_stays
    | with_reducible apply State.setF_stays
    | split
    | (dsimp only)
    | (with_reducible apply Stays.upd; first | with_reducible assumption | with_reducible refine Stays.of_snd (State.freeBits_stays ?_) (by assumption) | with_reducible apply State.freeBits_stays | with_reducible apply State.setF_stays | split))

theorem State.makeReady_stays {secs : Nat} (hk : Stays s0 s) : Stays s0 (State.makeReady s secs) := by
  unfold State.makeReady
  repeat' (first
    | ((try lift_lets); intro (x : State); refine Stays.via (s := s0) (x := x) ?_ (fun hx => ?_); rotate_left; clear_value x; rotate_left; unfold x)
    | ((try lift_lets); intro x; clear_value x)
    | with_reducible assumption
    | with_reducible apply State.addUnavail_stays
    | with_reducible apply State.bootDigest_stays
    | with_reducible apply State.stepDone_stays
    | with_reducible apply State.publishPlane_stays
    | with_reducible apply State.setIrq_stays
    | with_reducible apply State.setF_stays
    | split
    | (dsimp only)
    | (with_reducible apply Stays.upd; first | with_reducible assumption | with_reducible apply State.addUnavail_stays | with_reducible apply State.bootDigest_stays | with_reducible apply State.stepDone_stays | with_reducible apply State.publishPlane_stays | with_reducible apply State.setIrq_stays | with_reducible apply State.setF_stays | split))

theorem execStartupStep_keeps {ok : Bool} {tests : List FieldTest} {differ : List TileAddr} {ports badStacks : List Nat} {link : W64} {secs : Nat} : KeepsOut s (execStartupStep ok tests differ ports badStacks link secs s) := by
  unfold execStartupStep
  have hk : Keeps s s := Keeps.refl s
  repeat' (first
    | with_reducible apply KeepsOut.next
    | ((try lift_lets); intro (x : State); refine Keeps.via (s := s) (x := x) ?_ (fun hx => ?_); rotate_left; clear_value x; rotate_left; unfold x)
    | ((try lift_lets); intro x; clear_value x)
    | with_reducible assumption
    | with_reducible apply Keeps.after (State.makeReady_stays (Stays.refl _))
    | with_reducible apply Keeps.after (State.trainLinks_stays (Stays.refl _))
    | with_reducible apply Keeps.after (State.mergeMaps_stays (Stays.refl _))
    | with_reducible apply Keeps.after (State.selfTest_stays (Stays.refl _))
    | with_reducible apply State.bootStages_keeps
    | with_reducible apply Keeps.after (State.stepDone_stays (Stays.refl _))
    | with_reducible apply Keeps.after (State.startFail_stays (Stays.refl _))
    | split
    | (dsimp only)
    | (with_reducible apply Keeps.upd; first | with_reducible assumption | with_reducible apply Keeps.after (State.makeReady_stays (Stays.refl _)) | with_reducible apply Keeps.after (State.trainLinks_stays (Stays.refl _)) | with_reducible apply Keeps.after (State.mergeMaps_stays (Stays.refl _)) | with_reducible apply Keeps.after (State.selfTest_stays (Stays.refl _)) | with_reducible apply State.bootStages_keeps | with_reducible apply Keeps.after (State.stepDone_stays (Stays.refl _)) | with_reducible apply Keeps.after (State.startFail_stays (Stays.refl _)) | split))

theorem State.pinRecord_stays {sev : Nat} (hk : Stays s0 s) : Stays s0 (State.pinRecord s sev) := by
  unfold State.pinRecord
  repeat' (first
    | ((try lift_lets); intro (x : State); refine Stays.via (s := s0) (x := x) ?_ (fun hx => ?_); rotate_left; clear_value x; rotate_left; unfold x)
    | ((try lift_lets); intro x; clear_value x)
    | with_reducible assumption
    | with_reducible apply State.mgmtKeep_stays
    | split
    | (dsimp only)
    | (with_reducible apply Stays.upd; first | with_reducible assumption | with_reducible apply State.mgmtKeep_stays | split))

theorem State.pinSet_stays {pin : Fld} {v : Nat} (hk : Stays s0 s) : Stays s0 (State.pinSet s pin v) := by
  unfold State.pinSet
  repeat' (first
    | ((try lift_lets); intro (x : State); refine Stays.via (s := s0) (x := x) ?_ (fun hx => ?_); rotate_left; clear_value x; rotate_left; unfold x)
    | ((try lift_lets); intro x; clear_value x)
    | with_reducible assumption
    | with_reducible apply State.setIrq_stays
    | with_reducible apply State.setF_stays
    | split
    | (dsimp only)
    | (with_reducible apply Stays.upd; first | with_reducible assumption | with_reducible apply State.setIrq_stays | with_reducible apply State.setF_stays | split))

theorem State.unload_keeps (h : Keeps s0 s) : Keeps s0 s.unload := by
  have hb : Keeps s0 s.bareUp := State.bareUp_keeps h
  unfold State.unload
  generalize s.bareUp = t at hb ⊢
  refine ⟨hb.pending, fun x => ?_⟩
  have z := hb.sound x
  exact ⟨storeWf_putAll _ _ _ z.regs, z.tiles, z.fields, z.edge, z.queues, z.ctxs, z.links, z.msix,
    ⟨z.bounded.retained, z.bounded.held, z.bounded.mlog, z.bounded.subs⟩⟩

theorem State.powerOf_stays {s1 : State} (h : Stays s0 s) : Stays s0 (s.powerOf s1) :=
  (h.regs (fun w => storeWf_putAll _ _ _ w)).upd

theorem execRcEnableLow_keeps  : KeepsOut s (execRcEnableLow s) := by
  unfold execRcEnableLow
  have hk : Keeps s s := Keeps.refl s
  repeat' (first
    | with_reducible apply KeepsOut.next
    | ((try lift_lets); intro (x : State); refine Keeps.via (s := s) (x := x) ?_ (fun hx => ?_); rotate_left; clear_value x; rotate_left; unfold x)
    | ((try lift_lets); intro x; clear_value x)
    | with_reducible assumption
    | with_reducible apply Keeps.after (State.abortStep_stays (Stays.refl _))
    | with_reducible apply Keeps.after (State.powerOf_stays (Stays.refl _))
    | with_reducible apply State.unload_keeps
    | with_reducible apply Keeps.after (State.pinSet_stays (Stays.refl _))
    | with_reducible apply Keeps.after (State.pinRecord_stays (Stays.refl _))
    | with_reducible apply Keeps.after (State.stepDone_stays (Stays.refl _))
    | split
    | (dsimp only)
    | (with_reducible apply Keeps.upd; first | with_reducible assumption | with_reducible apply Keeps.after (State.abortStep_stays (Stays.refl _)) | with_reducible apply Keeps.after (State.powerOf_stays (Stays.refl _)) | with_reducible apply State.unload_keeps | with_reducible apply Keeps.after (State.pinSet_stays (Stays.refl _)) | with_reducible apply Keeps.after (State.pinRecord_stays (Stays.refl _)) | with_reducible apply Keeps.after (State.stepDone_stays (Stays.refl _)) | split))

theorem State.wakeAll_stays  (hk : Stays s0 s) : Stays s0 (State.wakeAll s) := by
  unfold State.wakeAll
  repeat' (first
    | ((try lift_lets); intro (x : State); refine Stays.via (s := s0) (x := x) ?_ (fun hx => ?_); rotate_left; clear_value x; rotate_left; unfold x)
    | ((try lift_lets); intro x; clear_value x)
    | with_reducible assumption
    | with_reducible apply State.startWake_stays
    | with_reducible apply State.setF_stays
    | with_reducible apply State.readyAgain_stays
    | with_reducible refine Stays.foldl ?_ (fun u x hu => ?_)
    | split
    | (dsimp only)
    | (with_reducible apply Stays.upd; first | with_reducible assumption | with_reducible apply State.startWake_stays | with_reducible apply State.setF_stays | with_reducible apply State.readyAgain_stays | split))

theorem execRcEnableHigh_stays  : StaysOut s (execRcEnableHigh s) := by
  unfold execRcEnableHigh
  have hk : Stays s s := Stays.refl s
  repeat' (first
    | with_reducible apply StaysOut.next
    | ((try lift_lets); intro (x : State); refine Stays.via (s := s) (x := x) ?_ (fun hx => ?_); rotate_left; clear_value x; rotate_left; unfold x)
    | ((try lift_lets); intro x; clear_value x)
    | with_reducible assumption
    | with_reducible apply State.wakeAll_stays
    | with_reducible apply State.pinSet_stays
    | split
    | (dsimp only)
    | (with_reducible apply Stays.upd; first | with_reducible assumption | with_reducible apply State.wakeAll_stays | with_reducible apply State.pinSet_stays | split))

theorem execRcInterlockLow_keeps  : KeepsOut s (execRcInterlockLow s) := by
  unfold execRcInterlockLow
  have hk : Keeps s s := Keeps.refl s
  repeat' (first
    | with_reducible apply KeepsOut.next
    | ((try lift_lets); intro (x : State); refine Keeps.via (s := s) (x := x) ?_ (fun hx => ?_); rotate_left; clear_value x; rotate_left; unfold x)
    | ((try lift_lets); intro x; clear_value x)
    | with_reducible assumption
    | with_reducible apply State.unload_keeps
    | with_reducible apply Keeps.after (State.pinSet_stays (Stays.refl _))
    | with_reducible apply Keeps.after (State.pinRecord_stays (Stays.refl _))
    | with_reducible apply Keeps.after (State.setIrq_stays (Stays.refl _))
    | with_reducible apply Keeps.after (State.setF_stays (Stays.refl _))
    | split
    | (dsimp only)
    | (with_reducible apply Keeps.upd; first | with_reducible assumption | with_reducible apply State.unload_keeps | with_reducible apply Keeps.after (State.pinSet_stays (Stays.refl _)) | with_reducible apply Keeps.after (State.pinRecord_stays (Stays.refl _)) | with_reducible apply Keeps.after (State.setIrq_stays (Stays.refl _)) | with_reducible apply Keeps.after (State.setF_stays (Stays.refl _)) | split))

theorem execRcInterlockHigh_keeps  : KeepsOut s (execRcInterlockHigh s) := by
  unfold execRcInterlockHigh
  have hk : Keeps s s := Keeps.refl s
  repeat' (first
    | with_reducible apply KeepsOut.next
    | ((try lift_lets); intro (x : State); refine Keeps.via (s := s) (x := x) ?_ (fun hx => ?_); rotate_left; clear_value x; rotate_left; unfold x)
    | ((try lift_lets); intro x; clear_value x)
    | with_reducible assumption
    | with_reducible apply Keeps.after (State.pinSet_stays (Stays.refl _))
    | with_reducible apply State.moduleReset_keeps
    | split
    | (dsimp only)
    | (with_reducible apply Keeps.upd; first | with_reducible assumption | with_reducible apply Keeps.after (State.pinSet_stays (Stays.refl _)) | with_reducible apply State.moduleReset_keeps | split))

theorem execPinGlitch_stays {interlock : Bool} : StaysOut s (execPinGlitch interlock s) := by
  unfold execPinGlitch
  have hk : Stays s s := Stays.refl s
  repeat' (first
    | with_reducible apply StaysOut.next
    | ((try lift_lets); intro (x : State); refine Stays.via (s := s) (x := x) ?_ (fun hx => ?_); rotate_left; clear_value x; rotate_left; unfold x)
    | ((try lift_lets); intro x; clear_value x)
    | with_reducible assumption
    | with_reducible apply State.count_stays
    | with_reducible apply State.raiseF_stays
    | split
    | (dsimp only)
    | (with_reducible apply Stays.upd; first | with_reducible assumption | with_reducible apply State.count_stays | with_reducible apply State.raiseF_stays | split))

end Sys2Proof.Machine
end

