-- ==== Sys2Proof/Laws/KeepsSelfTest.lean ====
section
/-!
SUPPORT. What the operations of Machine/SelfTest keep (Laws/Keeps).
-/
namespace Sys2Proof.Machine

set_option linter.all false

variable {s0 s : State}

theorem State.testEnd_stays {result : Nat} (hk : Stays s0 s) : Stays s0 (State.testEnd s result) := by
  unfold State.testEnd
  repeat' (first
    | ((try lift_lets); intro (x : State); refine Stays.via (s := s0) (x := x) ?_ (fun hx => ?_); rotate_left; clear_value x; rotate_left; unfold x)
    | ((try lift_lets); intro x; clear_value x)
    | with_reducible assumption
    | with_reducible apply State.setIrq_stays
    | with_reducible apply State.setF_stays
    | split
    | (dsimp only)
    | (with_reducible apply Stays.upd; first | with_reducible assumption | with_reducible apply State.setIrq_stays | with_reducible apply State.setF_stays | split))

theorem State.wipeBanks_stays {f : FieldAddr} (hk : Stays s0 s) : Stays s0 (State.wipeBanks s f) := by
  unfold State.wipeBanks
  repeat' (first
    | ((try lift_lets); intro (x : State); refine Stays.via (s := s0) (x := x) ?_ (fun hx => ?_); rotate_left; clear_value x; rotate_left; unfold x)
    | ((try lift_lets); intro x; clear_value x)
    | with_reducible assumption
    | with_reducible apply State.setTile_stays
    | with_reducible refine Stays.foldl ?_ (fun u x hu => ?_)
    | split
    | (dsimp only)
    | (with_reducible apply Stays.upd; first | with_reducible assumption | with_reducible apply State.setTile_stays | split))

theorem State.testRun_stays {op : Nat} (hk : Stays s0 s) : Stays s0 (State.testRun s op) := by
  unfold State.testRun
  repeat' (first
    | ((try lift_lets); intro (x : State); refine Stays.via (s := s0) (x := x) ?_ (fun hx => ?_); rotate_left; clear_value x; rotate_left; unfold x)
    | ((try lift_lets); intro (x : _ → _); dsimp -zeta only [x]; clear x)
    | ((try lift_lets); intro x; clear_value x)
    | with_reducible assumption
    | with_reducible apply State.wipeBanks_stays
    | with_reducible apply State.count_stays
    | with_reducible apply State.setF_stays
    | with_reducible refine Stays.foldl ?_ (fun u x hu => ?_)
    | split
    | (dsimp only)
    | (with_reducible apply Stays.upd; first | with_reducible assumption | with_reducible apply State.wipeBanks_stays | with_reducible apply State.count_stays | with_reducible apply State.setF_stays | split))

theorem State.testSubmit_stays {op : Nat} {nowait : Bool} (hk : Stays s0 s) : Stays s0 (State.testSubmit s op nowait) := by
  unfold State.testSubmit
  repeat' (first
    | ((try lift_lets); intro (x : State); refine Stays.via (s := s0) (x := x) ?_ (fun hx => ?_); rotate_left; clear_value x; rotate_left; unfold x)
    | ((try lift_lets); intro x; clear_value x)
    | with_reducible assumption
    | with_reducible apply State.testRun_stays
    | with_reducible apply State.testEnd_stays
    | with_reducible apply State.count_stays
    | with_reducible apply State.setF_stays
    | split
    | (dsimp only)
    | (with_reducible apply Stays.upd; first | with_reducible assumption | with_reducible apply State.testRun_stays | with_reducible apply State.testEnd_stays | with_reducible apply State.count_stays | with_reducible apply State.setF_stays | split))

theorem State.testWrite_stays {fw : Bool} {value : W64} (hk : Stays s0 s) : Stays s0 (State.testWrite s fw value) := by
  unfold State.testWrite
  repeat' (first
    | ((try lift_lets); intro (x : State); refine Stays.via (s := s0) (x := x) ?_ (fun hx => ?_); rotate_left; clear_value x; rotate_left; unfold x)
    | ((try lift_lets); intro x; clear_value x)
    | with_reducible assumption
    | with_reducible apply State.testSubmit_stays
    | with_reducible refine State.regWrite_stays ?_ (fun u hu => ?_)
    | split
    | (dsimp only)
    | (with_reducible apply Stays.upd; first | with_reducible assumption | with_reducible apply State.testSubmit_stays | with_reducible refine State.regWrite_stays ?_ (fun u hu => ?_) | split))

theorem execFieldBist_stays {fw : Bool} {value : W64} : StaysOut s (execFieldBist fw value s) := by
  unfold execFieldBist
  have hk : Stays s s := Stays.refl s
  repeat' (first
    | with_reducible apply StaysOut.next
    | ((try lift_lets); intro (x : State); refine Stays.via (s := s) (x := x) ?_ (fun hx => ?_); rotate_left; clear_value x; rotate_left; unfold x)
    | ((try lift_lets); intro x; clear_value x)
    | with_reducible assumption
    | with_reducible apply State.testWrite_stays
    | split
    | (dsimp only)
    | (with_reducible apply Stays.upd; first | with_reducible assumption | with_reducible apply State.testWrite_stays | split))

theorem execTestCrosscheck_stays {fw : Bool} {value : W64} : StaysOut s (execTestCrosscheck fw value s) := by
  unfold execTestCrosscheck
  have hk : Stays s s := Stays.refl s
  repeat' (first
    | with_reducible apply StaysOut.next
    | ((try lift_lets); intro (x : State); refine Stays.via (s := s) (x := x) ?_ (fun hx => ?_); rotate_left; clear_value x; rotate_left; unfold x)
    | ((try lift_lets); intro x; clear_value x)
    | with_reducible assumption
    | with_reducible apply State.testWrite_stays
    | split
    | (dsimp only)
    | (with_reducible apply Stays.upd; first | with_reducible assumption | with_reducible apply State.testWrite_stays | split))

theorem execVolinoCal_stays {fw : Bool} {value : W64} : StaysOut s (execVolinoCal fw value s) := by
  unfold execVolinoCal
  have hk : Stays s s := Stays.refl s
  repeat' (first
    | with_reducible apply StaysOut.next
    | ((try lift_lets); intro (x : State); refine Stays.via (s := s) (x := x) ?_ (fun hx => ?_); rotate_left; clear_value x; rotate_left; unfold x)
    | ((try lift_lets); intro x; clear_value x)
    | with_reducible assumption
    | with_reducible apply State.testWrite_stays
    | split
    | (dsimp only)
    | (with_reducible apply Stays.upd; first | with_reducible assumption | with_reducible apply State.testWrite_stays | split))

theorem execBridgeCal_stays {fw : Bool} {value : W64} : StaysOut s (execBridgeCal fw value s) := by
  unfold execBridgeCal
  have hk : Stays s s := Stays.refl s
  repeat' (first
    | with_reducible apply StaysOut.next
    | ((try lift_lets); intro (x : State); refine Stays.via (s := s) (x := x) ?_ (fun hx => ?_); rotate_left; clear_value x; rotate_left; unfold x)
    | ((try lift_lets); intro x; clear_value x)
    | with_reducible assumption
    | with_reducible apply State.testWrite_stays
    | split
    | (dsimp only)
    | (with_reducible apply Stays.upd; first | with_reducible assumption | with_reducible apply State.testWrite_stays | split))

theorem execCausewayTest_stays {fw : Bool} {value : W64} : StaysOut s (execCausewayTest fw value s) := by
  unfold execCausewayTest
  have hk : Stays s s := Stays.refl s
  repeat' (first
    | with_reducible apply StaysOut.next
    | ((try lift_lets); intro (x : State); refine Stays.via (s := s) (x := x) ?_ (fun hx => ?_); rotate_left; clear_value x; rotate_left; unfold x)
    | ((try lift_lets); intro x; clear_value x)
    | with_reducible assumption
    | with_reducible apply State.testWrite_stays
    | split
    | (dsimp only)
    | (with_reducible apply Stays.upd; first | with_reducible assumption | with_reducible apply State.testWrite_stays | split))

theorem execHeldTestStart_stays  : StaysOut s (execHeldTestStart s) := by
  unfold execHeldTestStart
  have hk : Stays s s := Stays.refl s
  repeat' (first
    | with_reducible apply StaysOut.next
    | ((try lift_lets); intro (x : State); refine Stays.via (s := s) (x := x) ?_ (fun hx => ?_); rotate_left; clear_value x; rotate_left; unfold x)
    | ((try lift_lets); intro x; clear_value x)
    | with_reducible assumption
    | with_reducible apply State.testRun_stays
    | split
    | (dsimp only)
    | (with_reducible apply Stays.upd; first | with_reducible assumption | with_reducible apply State.testRun_stays | split))

theorem execTestComplete_stays {tests : List FieldTest} {differ : List TileAddr} {fail : Bool} {errors bytes : Nat} : StaysOut s (execTestComplete tests differ fail errors bytes s) := by
  unfold execTestComplete
  have hk : Stays s s := Stays.refl s
  repeat' (first
    | with_reducible apply StaysOut.next
    | ((try lift_lets); intro (x : State); refine Stays.via (s := s) (x := x) ?_ (fun hx => ?_); rotate_left; clear_value x; rotate_left; unfold x)
    | ((try lift_lets); intro x; clear_value x)
    | with_reducible assumption
    | with_reducible apply State.testEnd_stays
    | with_reducible apply State.retireBound_stays
    | with_reducible apply State.mirrorRestore_stays
    | with_reducible apply State.raise_stays
    | with_reducible apply State.count_stays
    | with_reducible apply State.condemn_stays
    | with_reducible refine Stays.foldl ?_ (fun u x hu => ?_)
    | split
    | (dsimp only)
    | (with_reducible apply Stays.upd; first | with_reducible assumption | with_reducible apply State.testEnd_stays | with_reducible apply State.retireBound_stays | with_reducible apply State.mirrorRestore_stays | with_reducible apply State.raise_stays | with_reducible apply State.count_stays | with_reducible apply State.condemn_stays | split))

end Sys2Proof.Machine
end

