-- ==== Sys2Proof/Laws/KeepsSecurity.lean ====
section
/-!
SUPPORT. What the operations of Machine/Security keep (Laws/Keeps).
-/
namespace Sys2Proof.Machine

set_option linter.all false

variable {s0 s : State}

theorem State.doeAnswer_stays {b : List Byte} (hk : Stays s0 s) : Stays s0 (State.doeAnswer s b) := by
  unfold State.doeAnswer
  repeat' (first
    | ((try lift_lets); intro (x : State); refine Stays.via (s := s0) (x := x) ?_ (fun hx => ?_); rotate_left; clear_value x; rotate_left; unfold x)
    | ((try lift_lets); intro x; clear_value x)
    | with_reducible assumption
    | split
    | (dsimp only)
    | (with_reducible apply Stays.upd; first | with_reducible assumption | split))

theorem State.doeStatus_stays {code status : Nat} (hk : Stays s0 s) : Stays s0 (State.doeStatus s code status) := by
  unfold State.doeStatus
  repeat' (first
    | ((try lift_lets); intro (x : State); refine Stays.via (s := s0) (x := x) ?_ (fun hx => ?_); rotate_left; clear_value x; rotate_left; unfold x)
    | ((try lift_lets); intro x; clear_value x)
    | with_reducible assumption
    | with_reducible apply State.doeAnswer_stays
    | split
    | (dsimp only)
    | (with_reducible apply Stays.upd; first | with_reducible assumption | with_reducible apply State.doeAnswer_stays | split))

theorem execDoeDiscovery_stays {index : Nat} : StaysOut s (execDoeDiscovery index s) := by
  unfold execDoeDiscovery
  have hk : Stays s s := Stays.refl s
  repeat' (first
    | with_reducible apply StaysOut.next
    | ((try lift_lets); intro (x : State); refine Stays.via (s := s) (x := x) ?_ (fun hx => ?_); rotate_left; clear_value x; rotate_left; unfold x)
    | ((try lift_lets); intro x; clear_value x)
    | with_reducible assumption
    | with_reducible apply State.doeAnswer_stays
    | split
    | (dsimp only)
    | (with_reducible apply Stays.upd; first | with_reducible assumption | with_reducible apply State.doeAnswer_stays | split))

theorem execDoeAbort_stays  : StaysOut s (execDoeAbort s) := by
  unfold execDoeAbort
  have hk : Stays s s := Stays.refl s
  repeat' (first
    | with_reducible apply StaysOut.next
    | ((try lift_lets); intro (x : State); refine Stays.via (s := s) (x := x) ?_ (fun hx => ?_); rotate_left; clear_value x; rotate_left; unfold x)
    | ((try lift_lets); intro x; clear_value x)
    | with_reducible assumption
    | split
    | (dsimp only)
    | (with_reducible apply Stays.upd; first | with_reducible assumption | split))

theorem execGetReport_stays {request : List Byte} {busy : Bool} : StaysOut s (execGetReport request busy s) := by
  unfold execGetReport
  have hk : Stays s s := Stays.refl s
  repeat' (first
    | with_reducible apply StaysOut.next
    | ((try lift_lets); intro (x : State); refine Stays.via (s := s) (x := x) ?_ (fun hx => ?_); rotate_left; clear_value x; rotate_left; unfold x)
    | ((try lift_lets); intro x; clear_value x)
    | with_reducible assumption
    | with_reducible apply State.doeStatus_stays
    | with_reducible apply State.doeAnswer_stays
    | with_reducible apply State.count_stays
    | split
    | (dsimp only)
    | (with_reducible apply Stays.upd; first | with_reducible assumption | with_reducible apply State.doeStatus_stays | with_reducible apply State.doeAnswer_stays | with_reducible apply State.count_stays | split))

theorem execGetCerts_stays {request : List Byte} : StaysOut s (execGetCerts request s) := by
  unfold execGetCerts
  have hk : Stays s s := Stays.refl s
  repeat' (first
    | with_reducible apply StaysOut.next
    | ((try lift_lets); intro (x : State); refine Stays.via (s := s) (x := x) ?_ (fun hx => ?_); rotate_left; clear_value x; rotate_left; unfold x)
    | ((try lift_lets); intro x; clear_value x)
    | with_reducible assumption
    | with_reducible apply State.doeStatus_stays
    | with_reducible apply State.doeAnswer_stays
    | split
    | (dsimp only)
    | (with_reducible apply Stays.upd; first | with_reducible assumption | with_reducible apply State.doeStatus_stays | with_reducible apply State.doeAnswer_stays | split))

theorem execEnclosureOpening_stays  : StaysOut s (execEnclosureOpening s) := by
  unfold execEnclosureOpening
  have hk : Stays s s := Stays.refl s
  repeat' (first
    | with_reducible apply StaysOut.next
    | ((try lift_lets); intro (x : State); refine Stays.via (s := s) (x := x) ?_ (fun hx => ?_); rotate_left; clear_value x; rotate_left; unfold x)
    | ((try lift_lets); intro x; clear_value x)
    | with_reducible assumption
    | with_reducible apply State.opening_stays
    | split
    | (dsimp only)
    | (with_reducible apply Stays.upd; first | with_reducible assumption | with_reducible apply State.opening_stays | split))

theorem execDebugPortAccess_stays  : StaysOut s (execDebugPortAccess s) := by
  unfold execDebugPortAccess
  have hk : Stays s s := Stays.refl s
  repeat' (first
    | with_reducible apply StaysOut.next
    | ((try lift_lets); intro (x : State); refine Stays.via (s := s) (x := x) ?_ (fun hx => ?_); rotate_left; clear_value x; rotate_left; unfold x)
    | ((try lift_lets); intro x; clear_value x)
    | with_reducible assumption
    | split
    | (dsimp only)
    | (with_reducible apply Stays.upd; first | with_reducible assumption | split))

theorem execDebugUnlock_keeps {admin : Bool} {token : List Byte} : KeepsOut s (execDebugUnlock admin token s) := by
  unfold execDebugUnlock
  have hk : Keeps s s := Keeps.refl s
  repeat' (first
    | with_reducible apply KeepsOut.next
    | ((try lift_lets); intro (x : State); refine Keeps.via (s := s) (x := x) ?_ (fun hx => ?_); rotate_left; clear_value x; rotate_left; unfold x)
    | ((try lift_lets); intro (x : State × _); refine Keeps.via (s := s) (x := x.1) ?_ (fun hx => ?_); rotate_left; clear_value x; rotate_left; unfold x)
    | ((try lift_lets); intro (x : _ × State); refine Keeps.via (s := s) (x := x.2) ?_ (fun hx => ?_); rotate_left; clear_value x; rotate_left; unfold x)
    | ((try lift_lets); intro x; clear_value x)
    | with_reducible assumption
    | with_reducible apply Keeps.after (State.answer_stays (Stays.refl _))
    | with_reducible apply Keeps.after (State.freeBits_stays (Stays.refl _))
    | split
    | (dsimp only)
    | (with_reducible apply Keeps.upd; first | with_reducible assumption | with_reducible apply Keeps.after (State.answer_stays (Stays.refl _)) | with_reducible apply Keeps.after (State.freeBits_stays (Stays.refl _)) | split))

theorem execSealFuse_stays {redfish admin fw : Bool} {value : W64} : StaysOut s (execSealFuse redfish admin fw value s) := by
  unfold execSealFuse
  have hk : Stays s s := Stays.refl s
  repeat' (first
    | with_reducible apply StaysOut.next
    | ((try lift_lets); intro (x : State); refine Stays.via (s := s) (x := x) ?_ (fun hx => ?_); rotate_left; clear_value x; rotate_left; unfold x)
    | ((try lift_lets); intro x; clear_value x)
    | with_reducible assumption
    | with_reducible apply State.answer_stays
    | with_reducible refine State.regWrite_stays ?_ (fun u hu => ?_)
    | with_reducible apply State.setF_stays
    | split
    | (dsimp only)
    | (with_reducible apply Stays.upd; first | with_reducible assumption | with_reducible apply State.answer_stays | with_reducible refine State.regWrite_stays ?_ (fun u hu => ?_) | with_reducible apply State.setF_stays | split))

theorem execPowercapSet_stays {operator : Bool} {watts : Nat} : StaysOut s (execPowercapSet operator watts s) := by
  unfold execPowercapSet
  have hk : Stays s s := Stays.refl s
  repeat' (first
    | with_reducible apply StaysOut.next
    | ((try lift_lets); intro (x : State); refine Stays.via (s := s) (x := x) ?_ (fun hx => ?_); rotate_left; clear_value x; rotate_left; unfold x)
    | ((try lift_lets); intro x; clear_value x)
    | with_reducible assumption
    | with_reducible apply State.recap_stays
    | with_reducible apply State.answer_stays
    | with_reducible apply State.setF_stays
    | split
    | (dsimp only)
    | (with_reducible apply Stays.upd; first | with_reducible assumption | with_reducible apply State.recap_stays | with_reducible apply State.answer_stays | with_reducible apply State.setF_stays | split))

theorem State.mgmtDown_keeps (h : Keeps s0 s) : Keeps s0 s.mgmtDown :=
  (h.subs (l := []) (fun _ => Nat.zero_le _)).upd

theorem State.mgmtActivate_keeps  (hk : Keeps s0 s) : Keeps s0 (State.mgmtActivate s) := by
  unfold State.mgmtActivate
  repeat' (first
    | ((try lift_lets); intro (x : State); refine Keeps.via (s := s0) (x := x) ?_ (fun hx => ?_); rotate_left; clear_value x; rotate_left; unfold x)
    | ((try lift_lets); intro x; clear_value x)
    | with_reducible assumption
    | with_reducible apply Keeps.after (State.setF_stays (Stays.refl _))
    | with_reducible apply State.activateStages_keeps
    | split
    | (dsimp only)
    | (with_reducible apply Keeps.upd; first | with_reducible assumption | with_reducible apply Keeps.after (State.setF_stays (Stays.refl _)) | with_reducible apply State.activateStages_keeps | split))

theorem State.mgmtBoot_keeps (h : Keeps s0 s) : Keeps s0 s.mgmtBoot := (State.verifyStage_keeps h).upd

theorem execManagerReset_keeps {admin : Bool} : KeepsOut s (execManagerReset admin s) := by
  unfold execManagerReset
  have hk : Keeps s s := Keeps.refl s
  repeat' (first
    | with_reducible apply KeepsOut.next
    | ((try lift_lets); intro (x : State); refine Keeps.via (s := s) (x := x) ?_ (fun hx => ?_); rotate_left; clear_value x; rotate_left; unfold x)
    | ((try lift_lets); intro x; clear_value x)
    | with_reducible assumption
    | with_reducible apply Keeps.after (State.answer_stays (Stays.refl _))
    | with_reducible apply State.mgmtBoot_keeps
    | with_reducible apply State.mgmtActivate_keeps
    | with_reducible apply State.mgmtDown_keeps
    | split
    | (dsimp only)
    | (with_reducible apply Keeps.upd; first | with_reducible assumption | with_reducible apply Keeps.after (State.answer_stays (Stays.refl _)) | with_reducible apply State.mgmtBoot_keeps | with_reducible apply State.mgmtActivate_keeps | with_reducible apply State.mgmtDown_keeps | split))

theorem execComponentIntegrity_stays {certs : Bool} {nonce : List Byte} : StaysOut s (execComponentIntegrity certs nonce s) := by
  unfold execComponentIntegrity
  have hk : Stays s s := Stays.refl s
  repeat' (first
    | with_reducible apply StaysOut.next
    | ((try lift_lets); intro (x : State); refine Stays.via (s := s) (x := x) ?_ (fun hx => ?_); rotate_left; clear_value x; rotate_left; unfold x)
    | ((try lift_lets); intro x; clear_value x)
    | with_reducible assumption
    | with_reducible apply State.answer_stays
    | with_reducible apply State.count_stays
    | split
    | (dsimp only)
    | (with_reducible apply Stays.upd; first | with_reducible assumption | with_reducible apply State.answer_stays | with_reducible apply State.count_stays | split))

theorem execUpdatePush_keeps {admin : Bool} {op stage : Nat} {image : List Byte} {fails : Bool} {blown : Nat} : KeepsOut s (execUpdatePush admin op stage image fails blown s) := by
  unfold execUpdatePush
  have hk : Keeps s s := Keeps.refl s
  repeat' (first
    | with_reducible apply KeepsOut.next
    | ((try lift_lets); intro (x : State); refine Keeps.via (s := s) (x := x) ?_ (fun hx => ?_); rotate_left; clear_value x; rotate_left; unfold x)
    | ((try lift_lets); intro x; clear_value x)
    | with_reducible assumption
    | with_reducible apply Keeps.after (State.answer_stays (Stays.refl _))
    | with_reducible apply State.fwOp_keeps
    | split
    | (dsimp only)
    | (with_reducible apply Keeps.upd; first | with_reducible assumption | with_reducible apply Keeps.after (State.answer_stays (Stays.refl _)) | with_reducible apply State.fwOp_keeps | split))

theorem execEventSubscription_keeps {admin add : Bool} {id : Nat} : KeepsOut s (execEventSubscription admin add id s) := by
  refine KeepsOut.next ?_
  have hk : Keeps s s := Keeps.refl s
  split
  · exact hk
  split
  · exact Keeps.step hk (State.answer_stays (Stays.refl _))
  split
  · split
    · exact Keeps.step hk (State.answer_stays (Stays.refl _))
    · rename_i hn
      refine Keeps.step (hk.subs (fun _ => ?_)) (State.answer_stays (Stays.refl _))
      simp at hn ⊢
      omega
  split
  · exact Keeps.step (hk.subs (fun w => Nat.le_trans (List.length_filter_le _ _) w)) (State.answer_stays (Stays.refl _))
  · exact Keeps.step hk (State.answer_stays (Stays.refl _))

theorem execPldmRequest_stays {message : List Byte} : StaysOut s (execPldmRequest message s) := by
  unfold execPldmRequest
  have hk : Stays s s := Stays.refl s
  repeat' (first
    | with_reducible apply StaysOut.next
    | ((try lift_lets); intro (x : State); refine Stays.via (s := s) (x := x) ?_ (fun hx => ?_); rotate_left; clear_value x; rotate_left; unfold x)
    | ((try lift_lets); intro x; clear_value x)
    | with_reducible assumption
    | split
    | (dsimp only)
    | (with_reducible apply Stays.upd; first | with_reducible assumption | split))

end Sys2Proof.Machine
end

