-- ==== Sys2Proof/Laws/KeepsRegisters.lean ====
section
/-!
SUPPORT. What the operations of Machine/Registers keep (Laws/Keeps).
-/
namespace Sys2Proof.Machine

set_option linter.all false

variable {s0 s : State}

theorem State.logEnable_stays  (hk : Stays s0 s) : Stays s0 (State.logEnable s) := by
  unfold State.logEnable
  repeat' (first
    | ((try lift_lets); intro (x : State); refine Stays.via (s := s0) (x := x) ?_ (fun hx => ?_); rotate_left; clear_value x; rotate_left; unfold x)
    | ((try lift_lets); intro x; clear_value x)
    | with_reducible assumption
    | with_reducible apply State.setF_stays
    | with_reducible apply State.setReg_stays
    | with_reducible apply State.drainLog_stays
    | split
    | (dsimp only)
    | (with_reducible apply Stays.upd; first | with_reducible assumption | with_reducible apply State.setF_stays | with_reducible apply State.setReg_stays | with_reducible apply State.drainLog_stays | split))

theorem State.afterWrite_stays {p : Page} {off : Nat} {old v : W64} (hk : Stays s0 s) : Stays s0 (State.afterWrite s p off old v) := by
  unfold State.afterWrite
  repeat' (first
    | ((try lift_lets); intro (x : State); refine Stays.via (s := s0) (x := x) ?_ (fun hx => ?_); rotate_left; clear_value x; rotate_left; unfold x)
    | ((try lift_lets); intro x; clear_value x)
    | with_reducible assumption
    | with_reducible apply State.logEnable_stays
    | with_reducible apply State.select_stays
    | split
    | (dsimp only)
    | (with_reducible apply Stays.upd; first | with_reducible assumption | with_reducible apply State.logEnable_stays | with_reducible apply State.select_stays | split))

theorem State.plainWrite_stays {fw : Bool} {p : Page} {off : Nat} {v : W64} (hk : Stays s0 s) : Stays s0 (State.plainWrite s fw p off v) := by
  unfold State.plainWrite
  repeat' (first
    | ((try lift_lets); intro (x : State); refine Stays.via (s := s0) (x := x) ?_ (fun hx => ?_); rotate_left; clear_value x; rotate_left; unfold x)
    | ((try lift_lets); intro x; clear_value x)
    | with_reducible assumption
    | with_reducible apply State.afterWrite_stays
    | with_reducible refine State.regWrite_stays ?_ (fun u hu => ?_)
    | split
    | (dsimp only)
    | (with_reducible apply Stays.upd; first | with_reducible assumption | with_reducible apply State.afterWrite_stays | with_reducible refine State.regWrite_stays ?_ (fun u hu => ?_) | split))

theorem State.pageWrite_keeps {fw : Bool} {p : Page} {off : Nat} {v : W64} (hk : Keeps s0 s) : Keeps s0 (State.pageWrite s fw p off v) := by
  unfold State.pageWrite
  repeat' (first
    | ((try lift_lets); intro (x : State); refine Keeps.via (s := s0) (x := x) ?_ (fun hx => ?_); rotate_left; clear_value x; rotate_left; unfold x)
    | ((try lift_lets); intro x; clear_value x)
    | with_reducible assumption
    | with_reducible apply Keeps.after (State.vptWrite_stays (Stays.refl _))
    | with_reducible apply Keeps.after (State.tsqSel_stays (Stays.refl _))
    | with_reducible apply Keeps.after (State.recap_stays (Stays.refl _))
    | with_reducible apply Keeps.after (State.stepWrite_stays (Stays.refl _))
    | with_reducible apply State.moduleReset_keeps
    | with_reducible apply Keeps.after (State.testWrite_stays (Stays.refl _))
    | with_reducible apply Keeps.after (State.segSel_stays (Stays.refl _))
    | with_reducible apply Keeps.after (State.segCmdWrite_stays (Stays.refl _))
    | with_reducible apply Keeps.after (State.plainWrite_stays (Stays.refl _))
    | with_reducible refine State.regWrite_keeps ?_ (fun u hu => ?_)
    | with_reducible apply Keeps.after (State.writeResult_stays (Stays.refl _))
    | with_reducible apply Keeps.after (State.setF_stays (Stays.refl _))
    | with_reducible apply Keeps.after (State.laybyWrite_stays (Stays.refl _))
    | with_reducible apply Keeps.after (State.fpwWrite_stays (Stays.refl _))
    | with_reducible apply State.fwWrite_keeps
    | with_reducible apply Keeps.after (State.dmapWrite_stays (Stays.refl _))
    | with_reducible apply Keeps.after (State.drainLog_stays (Stays.refl _))
    | with_reducible apply Keeps.after (State.queueWrite_stays (Stays.refl _))
    | with_reducible apply Keeps.after (State.resumeWrite_stays (Stays.refl _))
    | with_reducible apply Keeps.after (State.dmaCtlWrite_stays (Stays.refl _))
    | with_reducible apply Keeps.after (State.fepWrite_stays (Stays.refl _))
    | with_reducible apply Keeps.after (State.drainWrite_stays (Stays.refl _))
    | with_reducible apply Keeps.after (State.cwyWrite_stays (Stays.refl _))
    | with_reducible apply Keeps.after (State.brgWrite_stays (Stays.refl _))
    | split
    | (dsimp only)
    | (with_reducible apply Keeps.upd; first | with_reducible assumption | with_reducible apply Keeps.after (State.vptWrite_stays (Stays.refl _)) | with_reducible apply Keeps.after (State.tsqSel_stays (Stays.refl _)) | with_reducible apply Keeps.after (State.recap_stays (Stays.refl _)) | with_reducible apply Keeps.after (State.stepWrite_stays (Stays.refl _)) | with_reducible apply State.moduleReset_keeps | with_reducible apply Keeps.after (State.testWrite_stays (Stays.refl _)) | with_reducible apply Keeps.after (State.segSel_stays (Stays.refl _)) | with_reducible apply Keeps.after (State.segCmdWrite_stays (Stays.refl _)) | with_reducible apply Keeps.after (State.plainWrite_stays (Stays.refl _)) | with_reducible refine State.regWrite_keeps ?_ (fun u hu => ?_) | with_reducible apply Keeps.after (State.writeResult_stays (Stays.refl _)) | with_reducible apply Keeps.after (State.setF_stays (Stays.refl _)) | with_reducible apply Keeps.after (State.laybyWrite_stays (Stays.refl _)) | with_reducible apply Keeps.after (State.fpwWrite_stays (Stays.refl _)) | with_reducible apply State.fwWrite_keeps | with_reducible apply Keeps.after (State.dmapWrite_stays (Stays.refl _)) | with_reducible apply Keeps.after (State.drainLog_stays (Stays.refl _)) | with_reducible apply Keeps.after (State.queueWrite_stays (Stays.refl _)) | with_reducible apply Keeps.after (State.resumeWrite_stays (Stays.refl _)) | with_reducible apply Keeps.after (State.dmaCtlWrite_stays (Stays.refl _)) | with_reducible apply Keeps.after (State.fepWrite_stays (Stays.refl _)) | with_reducible apply Keeps.after (State.drainWrite_stays (Stays.refl _)) | with_reducible apply Keeps.after (State.cwyWrite_stays (Stays.refl _)) | with_reducible apply Keeps.after (State.brgWrite_stays (Stays.refl _)) | split))

theorem State.msixWrite_stays {addr : Nat} {v : W64} (hk : Stays s0 s) : Stays s0 (State.msixWrite s addr v) := by
  unfold State.msixWrite
  repeat' (first
    | ((try lift_lets); intro (x : State); refine Stays.via (s := s0) (x := x) ?_ (fun hx => ?_); rotate_left; clear_value x; rotate_left; unfold x)
    | ((try lift_lets); intro x; clear_value x)
    | with_reducible assumption
    | with_reducible apply State.setMsix_stays
    | with_reducible apply State.hostSend_stays
    | split
    | (dsimp only)
    | (with_reducible apply Stays.upd; first | with_reducible assumption | with_reducible apply State.setMsix_stays | with_reducible apply State.hostSend_stays | split))

theorem State.strayWrite_stays {fw : Bool} {addr : Nat} {v : W64} {code : Nat} (hk : Stays s0 s) : Stays s0 (State.strayWrite s fw addr v code) := by
  unfold State.strayWrite
  repeat' (first
    | ((try lift_lets); intro (x : State); refine Stays.via (s := s0) (x := x) ?_ (fun hx => ?_); rotate_left; clear_value x; rotate_left; unfold x)
    | ((try lift_lets); intro x; clear_value x)
    | with_reducible assumption
    | with_reducible apply State.captureFirst_stays
    | with_reducible apply State.count_stays
    | split
    | (dsimp only)
    | (with_reducible apply Stays.upd; first | with_reducible assumption | with_reducible apply State.captureFirst_stays | with_reducible apply State.count_stays | split))

theorem execRegisterWrite_keeps {fw aligned poisoned : Bool} {addr : Nat} {value : W64} : KeepsOut s (execRegisterWrite fw aligned poisoned addr value s) := by
  unfold execRegisterWrite
  have hk : Keeps s s := Keeps.refl s
  repeat' (first
    | with_reducible apply KeepsOut.next
    | ((try lift_lets); intro (x : State); refine Keeps.via (s := s) (x := x) ?_ (fun hx => ?_); rotate_left; clear_value x; rotate_left; unfold x)
    | ((try lift_lets); intro x; clear_value x)
    | with_reducible assumption
    | with_reducible apply Keeps.after (State.strayWrite_stays (Stays.refl _))
    | with_reducible apply Keeps.after (State.msixWrite_stays (Stays.refl _))
    | with_reducible apply State.pageWrite_keeps
    | with_reducible apply Keeps.after (State.writeResult_stays (Stays.refl _))
    | with_reducible apply Keeps.after (State.count_stays (Stays.refl _))
    | with_reducible apply Keeps.after (State.badAccess_stays (Stays.refl _))
    | split
    | (dsimp only)
    | (with_reducible apply Keeps.upd; first | with_reducible assumption | with_reducible apply Keeps.after (State.strayWrite_stays (Stays.refl _)) | with_reducible apply Keeps.after (State.msixWrite_stays (Stays.refl _)) | with_reducible apply State.pageWrite_keeps | with_reducible apply Keeps.after (State.writeResult_stays (Stays.refl _)) | with_reducible apply Keeps.after (State.count_stays (Stays.refl _)) | with_reducible apply Keeps.after (State.badAccess_stays (Stays.refl _)) | split))

theorem execSnapshotArrival_stays {unit : SnapUnit} {n : Nat} : StaysOut s (execSnapshotArrival unit n s) := by
  unfold execSnapshotArrival
  have hk : Stays s s := Stays.refl s
  repeat' (first
    | with_reducible apply StaysOut.next
    | ((try lift_lets); intro (x : State); refine Stays.via (s := s) (x := x) ?_ (fun hx => ?_); rotate_left; clear_value x; rotate_left; unfold x)
    | ((try lift_lets); intro x; clear_value x)
    | with_reducible assumption
    | with_reducible apply State.tsqSnap_stays
    | with_reducible apply State.fopenSnap_stays
    | with_reducible apply State.ctxSnap_stays
    | with_reducible apply State.segSnap_stays
    | with_reducible apply State.markSnap_stays
    | split
    | (dsimp only)
    | (with_reducible apply Stays.upd; first | with_reducible assumption | with_reducible apply State.tsqSnap_stays | with_reducible apply State.fopenSnap_stays | with_reducible apply State.ctxSnap_stays | with_reducible apply State.segSnap_stays | with_reducible apply State.markSnap_stays | split))

theorem State.copyPages_stays {loc ptr : Nat} {l : List Page} :
    ∀ {k : Nat} {s : State}, Stays s0 s → Stays s0 (State.copyPages loc ptr l k s) := by
  induction l with
  | nil => exact fun h => h
  | cons p r ih => exact fun h => ih (State.writeLoc_stays h)

theorem execMilepostCopy_stays {q : Fin 64} : StaysOut s (execMilepostCopy q s) := by
  unfold execMilepostCopy
  have hk : Stays s s := Stays.refl s
  repeat' (first
    | with_reducible apply StaysOut.next
    | ((try lift_lets); intro (x : State); refine Stays.via (s := s) (x := x) ?_ (fun hx => ?_); rotate_left; clear_value x; rotate_left; unfold x)
    | ((try lift_lets); intro x; clear_value x)
    | with_reducible assumption
    | with_reducible apply State.copyPages_stays
    | with_reducible apply State.complete_stays
    | split
    | (dsimp only)
    | (with_reducible apply Stays.upd; first | with_reducible assumption | with_reducible apply State.copyPages_stays | with_reducible apply State.complete_stays | split))

end Sys2Proof.Machine
end

