-- ==== Sys2Proof/Laws/KeepsScalar.lean ====
section
/-!
SUPPORT. What the operations of Machine/Scalar keep (Laws/Keeps).
-/
namespace Sys2Proof.Machine

set_option linter.all false

variable {s0 s : State}

theorem State.scalarOp_stays {a : TileAddr} {task slot opc : Nat} {f : TaskCtx → SlotWord → W32} (hk : Stays s0 s) : Stays s0 (State.scalarOp s a task slot opc f) := by
  unfold State.scalarOp
  repeat' (first
    | ((try lift_lets); intro (x : State); refine Stays.via (s := s0) (x := x) ?_ (fun hx => ?_); rotate_left; clear_value x; rotate_left; unfold x)
    | ((try lift_lets); intro x; clear_value x)
    | with_reducible assumption
    | with_reducible apply State.setG_stays
    | with_reducible refine State.fire_stays ?_ (fun w t u hu => ?_)
    | split
    | (dsimp only)
    | (with_reducible apply Stays.upd; first | with_reducible assumption | with_reducible apply State.setG_stays | with_reducible refine State.fire_stays ?_ (fun w t u hu => ?_) | split))

theorem execOpNop_stays {a : TileAddr} {task : Fin 4} {slot : Fin 128} : StaysOut s (execOpNop a task slot s) := by
  unfold execOpNop
  have hk : Stays s s := Stays.refl s
  repeat' (first
    | with_reducible apply StaysOut.next
    | ((try lift_lets); intro (x : State); refine Stays.via (s := s) (x := x) ?_ (fun hx => ?_); rotate_left; clear_value x; rotate_left; unfold x)
    | ((try lift_lets); intro x; clear_value x)
    | with_reducible assumption
    | with_reducible refine State.fire_stays ?_ (fun w t u hu => ?_)
    | split
    | (dsimp only)
    | (with_reducible apply Stays.upd; first | with_reducible assumption | with_reducible refine State.fire_stays ?_ (fun w t u hu => ?_) | split))

theorem execOpMovi_stays {a : TileAddr} {task : Fin 4} {slot : Fin 128} : StaysOut s (execOpMovi a task slot s) := by
  unfold execOpMovi
  have hk : Stays s s := Stays.refl s
  repeat' (first
    | with_reducible apply StaysOut.next
    | ((try lift_lets); intro (x : State); refine Stays.via (s := s) (x := x) ?_ (fun hx => ?_); rotate_left; clear_value x; rotate_left; unfold x)
    | ((try lift_lets); intro x; clear_value x)
    | with_reducible assumption
    | with_reducible apply State.scalarOp_stays
    | split
    | (dsimp only)
    | (with_reducible apply Stays.upd; first | with_reducible assumption | with_reducible apply State.scalarOp_stays | split))

theorem execOpMov_stays {a : TileAddr} {task : Fin 4} {slot : Fin 128} : StaysOut s (execOpMov a task slot s) := by
  unfold execOpMov
  have hk : Stays s s := Stays.refl s
  repeat' (first
    | with_reducible apply StaysOut.next
    | ((try lift_lets); intro (x : State); refine Stays.via (s := s) (x := x) ?_ (fun hx => ?_); rotate_left; clear_value x; rotate_left; unfold x)
    | ((try lift_lets); intro x; clear_value x)
    | with_reducible assumption
    | with_reducible apply State.scalarOp_stays
    | split
    | (dsimp only)
    | (with_reducible apply Stays.upd; first | with_reducible assumption | with_reducible apply State.scalarOp_stays | split))

theorem execOpAdd_stays {a : TileAddr} {task : Fin 4} {slot : Fin 128} : StaysOut s (execOpAdd a task slot s) := by
  unfold execOpAdd
  have hk : Stays s s := Stays.refl s
  repeat' (first
    | with_reducible apply StaysOut.next
    | ((try lift_lets); intro (x : State); refine Stays.via (s := s) (x := x) ?_ (fun hx => ?_); rotate_left; clear_value x; rotate_left; unfold x)
    | ((try lift_lets); intro x; clear_value x)
    | with_reducible assumption
    | with_reducible apply State.scalarOp_stays
    | split
    | (dsimp only)
    | (with_reducible apply Stays.upd; first | with_reducible assumption | with_reducible apply State.scalarOp_stays | split))

theorem execOpAddi_stays {a : TileAddr} {task : Fin 4} {slot : Fin 128} : StaysOut s (execOpAddi a task slot s) := by
  unfold execOpAddi
  have hk : Stays s s := Stays.refl s
  repeat' (first
    | with_reducible apply StaysOut.next
    | ((try lift_lets); intro (x : State); refine Stays.via (s := s) (x := x) ?_ (fun hx => ?_); rotate_left; clear_value x; rotate_left; unfold x)
    | ((try lift_lets); intro x; clear_value x)
    | with_reducible assumption
    | with_reducible apply State.scalarOp_stays
    | split
    | (dsimp only)
    | (with_reducible apply Stays.upd; first | with_reducible assumption | with_reducible apply State.scalarOp_stays | split))

theorem execOpSub_stays {a : TileAddr} {task : Fin 4} {slot : Fin 128} : StaysOut s (execOpSub a task slot s) := by
  unfold execOpSub
  have hk : Stays s s := Stays.refl s
  repeat' (first
    | with_reducible apply StaysOut.next
    | ((try lift_lets); intro (x : State); refine Stays.via (s := s) (x := x) ?_ (fun hx => ?_); rotate_left; clear_value x; rotate_left; unfold x)
    | ((try lift_lets); intro x; clear_value x)
    | with_reducible assumption
    | with_reducible apply State.scalarOp_stays
    | split
    | (dsimp only)
    | (with_reducible apply Stays.upd; first | with_reducible assumption | with_reducible apply State.scalarOp_stays | split))

theorem execOpAnd_stays {a : TileAddr} {task : Fin 4} {slot : Fin 128} : StaysOut s (execOpAnd a task slot s) := by
  unfold execOpAnd
  have hk : Stays s s := Stays.refl s
  repeat' (first
    | with_reducible apply StaysOut.next
    | ((try lift_lets); intro (x : State); refine Stays.via (s := s) (x := x) ?_ (fun hx => ?_); rotate_left; clear_value x; rotate_left; unfold x)
    | ((try lift_lets); intro x; clear_value x)
    | with_reducible assumption
    | with_reducible apply State.scalarOp_stays
    | split
    | (dsimp only)
    | (with_reducible apply Stays.upd; first | with_reducible assumption | with_reducible apply State.scalarOp_stays | split))

theorem execOpOr_stays {a : TileAddr} {task : Fin 4} {slot : Fin 128} : StaysOut s (execOpOr a task slot s) := by
  unfold execOpOr
  have hk : Stays s s := Stays.refl s
  repeat' (first
    | with_reducible apply StaysOut.next
    | ((try lift_lets); intro (x : State); refine Stays.via (s := s) (x := x) ?_ (fun hx => ?_); rotate_left; clear_value x; rotate_left; unfold x)
    | ((try lift_lets); intro x; clear_value x)
    | with_reducible assumption
    | with_reducible apply State.scalarOp_stays
    | split
    | (dsimp only)
    | (with_reducible apply Stays.upd; first | with_reducible assumption | with_reducible apply State.scalarOp_stays | split))

theorem execOpXor_stays {a : TileAddr} {task : Fin 4} {slot : Fin 128} : StaysOut s (execOpXor a task slot s) := by
  unfold execOpXor
  have hk : Stays s s := Stays.refl s
  repeat' (first
    | with_reducible apply StaysOut.next
    | ((try lift_lets); intro (x : State); refine Stays.via (s := s) (x := x) ?_ (fun hx => ?_); rotate_left; clear_value x; rotate_left; unfold x)
    | ((try lift_lets); intro x; clear_value x)
    | with_reducible assumption
    | with_reducible apply State.scalarOp_stays
    | split
    | (dsimp only)
    | (with_reducible apply Stays.upd; first | with_reducible assumption | with_reducible apply State.scalarOp_stays | split))

theorem execOpShl_stays {a : TileAddr} {task : Fin 4} {slot : Fin 128} : StaysOut s (execOpShl a task slot s) := by
  unfold execOpShl
  have hk : Stays s s := Stays.refl s
  repeat' (first
    | with_reducible apply StaysOut.next
    | ((try lift_lets); intro (x : State); refine Stays.via (s := s) (x := x) ?_ (fun hx => ?_); rotate_left; clear_value x; rotate_left; unfold x)
    | ((try lift_lets); intro x; clear_value x)
    | with_reducible assumption
    | with_reducible apply State.scalarOp_stays
    | split
    | (dsimp only)
    | (with_reducible apply Stays.upd; first | with_reducible assumption | with_reducible apply State.scalarOp_stays | split))

theorem execOpShr_stays {a : TileAddr} {task : Fin 4} {slot : Fin 128} : StaysOut s (execOpShr a task slot s) := by
  unfold execOpShr
  have hk : Stays s s := Stays.refl s
  repeat' (first
    | with_reducible apply StaysOut.next
    | ((try lift_lets); intro (x : State); refine Stays.via (s := s) (x := x) ?_ (fun hx => ?_); rotate_left; clear_value x; rotate_left; unfold x)
    | ((try lift_lets); intro x; clear_value x)
    | with_reducible assumption
    | with_reducible apply State.scalarOp_stays
    | split
    | (dsimp only)
    | (with_reducible apply Stays.upd; first | with_reducible assumption | with_reducible apply State.scalarOp_stays | split))

theorem execOpMul_stays {a : TileAddr} {task : Fin 4} {slot : Fin 128} : StaysOut s (execOpMul a task slot s) := by
  unfold execOpMul
  have hk : Stays s s := Stays.refl s
  repeat' (first
    | with_reducible apply StaysOut.next
    | ((try lift_lets); intro (x : State); refine Stays.via (s := s) (x := x) ?_ (fun hx => ?_); rotate_left; clear_value x; rotate_left; unfold x)
    | ((try lift_lets); intro x; clear_value x)
    | with_reducible assumption
    | with_reducible apply State.scalarOp_stays
    | split
    | (dsimp only)
    | (with_reducible apply Stays.upd; first | with_reducible assumption | with_reducible apply State.scalarOp_stays | split))

theorem execOpCmp_stays {a : TileAddr} {task : Fin 4} {slot : Fin 128} : StaysOut s (execOpCmp a task slot s) := by
  unfold execOpCmp
  have hk : Stays s s := Stays.refl s
  repeat' (first
    | with_reducible apply StaysOut.next
    | ((try lift_lets); intro (x : State); refine Stays.via (s := s) (x := x) ?_ (fun hx => ?_); rotate_left; clear_value x; rotate_left; unfold x)
    | ((try lift_lets); intro x; clear_value x)
    | with_reducible assumption
    | with_reducible refine State.fire_stays ?_ (fun w t u hu => ?_)
    | split
    | (dsimp only)
    | (with_reducible apply Stays.upd; first | with_reducible assumption | with_reducible refine State.fire_stays ?_ (fun w t u hu => ?_) | split))

theorem execOpTokr_stays {a : TileAddr} {task : Fin 4} {slot : Fin 128} : StaysOut s (execOpTokr a task slot s) := by
  unfold execOpTokr
  have hk : Stays s s := Stays.refl s
  repeat' (first
    | with_reducible apply StaysOut.next
    | ((try lift_lets); intro (x : State); refine Stays.via (s := s) (x := x) ?_ (fun hx => ?_); rotate_left; clear_value x; rotate_left; unfold x)
    | ((try lift_lets); intro x; clear_value x)
    | with_reducible assumption
    | with_reducible apply State.setG_stays
    | with_reducible refine State.fire_stays ?_ (fun w t u hu => ?_)
    | split
    | (dsimp only)
    | (with_reducible apply Stays.upd; first | with_reducible assumption | with_reducible apply State.setG_stays | with_reducible refine State.fire_stays ?_ (fun w t u hu => ?_) | split))

theorem execOpEnqc_stays {a : TileAddr} {task : Fin 4} {slot : Fin 128} : StaysOut s (execOpEnqc a task slot s) := by
  unfold execOpEnqc
  have hk : Stays s s := Stays.refl s
  repeat' (first
    | with_reducible apply StaysOut.next
    | ((try lift_lets); intro (x : State); refine Stays.via (s := s) (x := x) ?_ (fun hx => ?_); rotate_left; clear_value x; rotate_left; unfold x)
    | ((try lift_lets); intro x; clear_value x)
    | with_reducible assumption
    | with_reducible apply State.enq_stays
    | with_reducible refine State.fire_stays ?_ (fun w t u hu => ?_)
    | split
    | (dsimp only)
    | (with_reducible apply Stays.upd; first | with_reducible assumption | with_reducible apply State.enq_stays | with_reducible refine State.fire_stays ?_ (fun w t u hu => ?_) | split))

theorem execOpEnqd_stays {a : TileAddr} {task : Fin 4} {slot : Fin 128} : StaysOut s (execOpEnqd a task slot s) := by
  unfold execOpEnqd
  have hk : Stays s s := Stays.refl s
  repeat' (first
    | with_reducible apply StaysOut.next
    | ((try lift_lets); intro (x : State); refine Stays.via (s := s) (x := x) ?_ (fun hx => ?_); rotate_left; clear_value x; rotate_left; unfold x)
    | ((try lift_lets); intro x; clear_value x)
    | with_reducible assumption
    | with_reducible apply State.enq_stays
    | with_reducible refine State.fire_stays ?_ (fun w t u hu => ?_)
    | with_reducible refine Stays.foldl ?_ (fun u x hu => ?_)
    | split
    | (dsimp only)
    | (with_reducible apply Stays.upd; first | with_reducible assumption | with_reducible apply State.enq_stays | with_reducible refine State.fire_stays ?_ (fun w t u hu => ?_) | split))

theorem execOpFwd_stays {a : TileAddr} {task : Fin 4} {slot : Fin 128} : StaysOut s (execOpFwd a task slot s) := by
  unfold execOpFwd
  have hk : Stays s s := Stays.refl s
  repeat' (first
    | with_reducible apply StaysOut.next
    | ((try lift_lets); intro (x : State); refine Stays.via (s := s) (x := x) ?_ (fun hx => ?_); rotate_left; clear_value x; rotate_left; unfold x)
    | ((try lift_lets); intro x; clear_value x)
    | with_reducible assumption
    | with_reducible apply State.enq_stays
    | with_reducible refine State.fire_stays ?_ (fun w t u hu => ?_)
    | split
    | (dsimp only)
    | (with_reducible apply Stays.upd; first | with_reducible assumption | with_reducible apply State.enq_stays | with_reducible refine State.fire_stays ?_ (fun w t u hu => ?_) | split))

theorem execOpHalt_stays {a : TileAddr} {task : Fin 4} {slot : Fin 128} : StaysOut s (execOpHalt a task slot s) := by
  unfold execOpHalt
  have hk : Stays s s := Stays.refl s
  repeat' (first
    | with_reducible apply StaysOut.next
    | ((try lift_lets); intro (x : State); refine Stays.via (s := s) (x := x) ?_ (fun hx => ?_); rotate_left; clear_value x; rotate_left; unfold x)
    | ((try lift_lets); intro x; clear_value x)
    | with_reducible assumption
    | with_reducible apply State.setTile_stays
    | with_reducible refine State.fire_stays ?_ (fun w t u hu => ?_)
    | split
    | (dsimp only)
    | (with_reducible apply Stays.upd; first | with_reducible assumption | with_reducible apply State.setTile_stays | with_reducible refine State.fire_stays ?_ (fun w t u hu => ?_) | split))

end Sys2Proof.Machine
end

