-- ==== Sys2Proof/Laws/KeepsTick.lean ====
section
/-!
SUPPORT. What the operations of Machine/Tick keep (Laws/Keeps).
-/
namespace Sys2Proof.Machine

set_option linter.all false

variable {s0 s : State}

theorem State.countFree_stays {c : Ctr} {i : Nat} (hk : Stays s0 s) : Stays s0 (State.countFree s c i) := by
  unfold State.countFree
  repeat' (first
    | ((try lift_lets); intro (x : State); refine Stays.via (s := s0) (x := x) ?_ (fun hx => ?_); rotate_left; clear_value x; rotate_left; unfold x)
    | ((try lift_lets); intro (x : State × _); refine Stays.via (s := s0) (x := x.1) ?_ (fun hx => ?_); rotate_left; clear_value x; rotate_left; unfold x)
    | ((try lift_lets); intro (x : _ × State); refine Stays.via (s := s0) (x := x.2) ?_ (fun hx => ?_); rotate_left; clear_value x; rotate_left; unfold x)
    | ((try lift_lets); intro x; clear_value x)
    | with_reducible assumption
    | with_reducible refine Stays.of_snd (State.freeBits_stays ?_) (by assumption)
    | with_reducible apply State.freeBits_stays
    | with_reducible apply State.count_stays
    | split
    | (dsimp only)
    | (with_reducible apply Stays.upd; first | with_reducible assumption | with_reducible refine Stays.of_snd (State.freeBits_stays ?_) (by assumption) | with_reducible apply State.freeBits_stays | with_reducible apply State.count_stays | split))

theorem State.stallCycles_stays {f : FieldAddr} (hk : Stays s0 s) : Stays s0 (State.stallCycles s f) := by
  unfold State.stallCycles
  repeat' (first
    | ((try lift_lets); intro (x : State); refine Stays.via (s := s0) (x := x) ?_ (fun hx => ?_); rotate_left; clear_value x; rotate_left; unfold x)
    | ((try lift_lets); intro x; clear_value x)
    | with_reducible assumption
    | with_reducible apply State.countFree_stays
    | split
    | (dsimp only)
    | (with_reducible apply Stays.upd; first | with_reducible assumption | with_reducible apply State.countFree_stays | split))

theorem State.tileCycles_stays {f : FieldAddr} (hk : Stays s0 s) : Stays s0 (State.tileCycles s f) := by
  unfold State.tileCycles
  repeat' (first
    | ((try lift_lets); intro (x : State); refine Stays.via (s := s0) (x := x) ?_ (fun hx => ?_); rotate_left; clear_value x; rotate_left; unfold x)
    | ((try lift_lets); intro x; clear_value x)
    | with_reducible assumption
    | with_reducible apply State.countFree_stays
    | with_reducible refine Stays.foldl ?_ (fun u x hu => ?_)
    | split
    | (dsimp only)
    | (with_reducible apply Stays.upd; first | with_reducible assumption | with_reducible apply State.countFree_stays | split))

theorem State.fieldTick_stays {f : FieldAddr} (hk : Stays s0 s) : Stays s0 (State.fieldTick s f) := by
  unfold State.fieldTick
  repeat' (first
    | ((try lift_lets); intro (x : State); refine Stays.via (s := s0) (x := x) ?_ (fun hx => ?_); rotate_left; clear_value x; rotate_left; unfold x)
    | ((try lift_lets); intro x; clear_value x)
    | with_reducible assumption
    | with_reducible apply State.tileCycles_stays
    | with_reducible apply State.stallCycles_stays
    | with_reducible apply State.count_stays
    | with_reducible apply State.setField_stays
    | split
    | (dsimp only)
    | (with_reducible apply Stays.upd; first | with_reducible assumption | with_reducible apply State.tileCycles_stays | with_reducible apply State.stallCycles_stays | with_reducible apply State.count_stays | with_reducible apply State.setField_stays | split))

theorem State.tick_stays  (hk : Stays s0 s) : Stays s0 (State.tick s) := by
  unfold State.tick
  repeat' (first
    | ((try lift_lets); intro (x : State); refine Stays.via (s := s0) (x := x) ?_ (fun hx => ?_); rotate_left; clear_value x; rotate_left; unfold x)
    | ((try lift_lets); intro x; clear_value x)
    | with_reducible assumption
    | with_reducible apply State.fieldTick_stays
    | with_reducible apply State.countFree_stays
    | with_reducible apply State.addUnavail_stays
    | with_reducible apply State.evalWatches_stays
    | with_reducible apply State.sleepMoves_stays
    | with_reducible apply State.evalWaits_stays
    | with_reducible refine Stays.foldl ?_ (fun u x hu => ?_)
    | split
    | (dsimp only)
    | (with_reducible apply Stays.upd; first | with_reducible assumption | with_reducible apply State.fieldTick_stays | with_reducible apply State.countFree_stays | with_reducible apply State.addUnavail_stays | with_reducible apply State.evalWatches_stays | with_reducible apply State.sleepMoves_stays | with_reducible apply State.evalWaits_stays | split))

end Sys2Proof.Machine
end

