-- ==== Sys2Proof/WellFormed.lean ====
section
/-!
DEFINITION. Well-formed commands: operands that the hardware has room for. Operands whose type is exact need no check; here are the
numbers and lists. Spec: the rule that each row of the opcode table cites.
-/
namespace Sys2Proof

/-- A test names places of a field (R28). -/
def FieldTest.inField (t : FieldTest) : Bool := (t.tiles ++ t.routers).all (fun q => decide (q.1 < 96 ∧ q.2 < 132))

/-- A frame has at most a header, 4,096 bytes of payload and its trailer (R452). -/
def frameFits (l : List Byte) : Bool := decide (l.length ≤ 4160)

/-- The operands of a command lie in the ranges that its rule gives them. -/
def Instr.wellFormed : Instr → Bool
  | .registerWrite _ _ _ addr _ => decide (addr < 2 ^ 26)
  | .snapshotArrival u n => decide (n < (match u with | .tsq | .seg | .mrk => 120 | .ctx | .fopen => 2))
  | .passFinishing _ cycles => cycles.all (fun n => decide (n < 2 ^ 32))
  | .streamDeliverStart _ ctx => decide (ctx < 2 ^ 20)
  | .streamInject _ ctx => decide (ctx < 2 ^ 20)
  | .streamStalled _ ctx => decide (ctx < 2 ^ 20)
  | .streamContextRelease _ ctx => decide (ctx < 2 ^ 20)
  | .recordFetch _ _ raw _ _ => raw.length == 64
  | .fetchRetry _ _ raw _ _ => raw.length == 64
  | .writeFrame _ _ bytes => frameFits bytes
  | .signalFrame _ _ bytes => frameFits bytes
  | .taintFrame _ _ bytes => frameFits bytes
  | .readresp _ _ bytes => frameFits bytes
  | .frameAnswer _ _ bytes => frameFits bytes
  | .unacceptedFrame _ _ bytes => frameFits bytes
  | .bar4Access off _ _ _ _ => decide (off < 2 ^ 36)
  | .bar0BadRead off => decide (off < 2 ^ 26)
  | .getReport request _ => decide (request.length ≤ 65536)
  | .getCerts request => decide (request.length ≤ 65536)
  | .ageingRead _ _ age => decide (age < 16)
  | .temperatureSample _ temps => temps.length == 12 && temps.all (fun t => decide (t < 256))
  | .coolantSample inlet outlet flow _ => decide (inlet < 1024 ∧ outlet < 1024 ∧ flow < 4096)
  | .powerSample _ va ia vb ib rails _ => decide (va < 65536 ∧ ia < 65536 ∧ vb < 65536 ∧ ib < 65536) && rails.length == 120
  | .startupStep _ tests _ ports badStacks _ secs =>
    tests.all (fun t => t.inField) && ports.all (fun n => decide (n < 136)) && badStacks.all (fun n => decide (n < 64 ∧ n % 32 < 24)) &&
      decide (secs < 65536)
  | .testComplete tests _ _ _ _ => tests.all (fun t => t.inField)
  | .updatePush _ op stage _ _ _ => decide (op ≤ 2 ∧ stage ≤ 3)
  | .opNop _ _ _ => true
  | .opMovi _ _ _ => true
  | .opMov _ _ _ => true
  | .opAdd _ _ _ => true
  | .opAddi _ _ _ => true
  | .opSub _ _ _ => true
  | .opAnd _ _ _ => true
  | .opOr _ _ _ => true
  | .opXor _ _ _ => true
  | .opShl _ _ _ => true
  | .opShr _ _ _ => true
  | .opMul _ _ _ => true
  | .opCmp _ _ _ => true
  | .opTokr _ _ _ => true
  | .opEnqc _ _ _ => true
  | .opEnqd _ _ _ => true
  | .opFwd _ _ _ => true
  | .opRdq _ _ _ => true
  | .opWrt _ _ _ => true
  | .opLdn _ _ _ => true
  | .opStn _ _ _ => true
  | .opMma _ _ _ => true
  | .opAclr _ _ _ => true
  | .opEmit _ _ _ => true
  | .opVunp _ _ _ => true
  | .opVpack _ _ _ => true
  | .opVfma _ _ _ => true
  | .opVadd _ _ _ => true
  | .opVmul _ _ _ => true
  | .opVmax _ _ _ => true
  | .opVmin _ _ _ => true
  | .opVbcast _ _ _ => true
  | .opVred _ _ _ => true
  | .opVtab _ _ _ => true
  | .opVtabd _ _ _ => true
  | .opVmask _ _ _ => true
  | .opVsel _ _ _ => true
  | .opVqmx _ _ _ => true
  | .opVexact _ _ _ => true
  | .opMsig _ _ _ => true
  | .opMsigWatch _ _ _ => true
  | .opBarr _ _ _ => true
  | .opHalt _ _ _ => true
  | .steeringFire _ _ => true
  | .steerKind _ _ => true
  | .oqLocalTransfer _ _ => true
  | .waitingTokenEntry _ _ _ => true
  | .taskDrained _ _ => true
  | .readTokenDelivery _ => true
  | .gatherFlush _ => true
  | .correctionWriteback _ => true
  | .scrubRead _ _ _ => true
  | .segCmdOff _ _ _ => true
  | .segCmdActive _ _ _ => true
  | .segCmdRetained _ _ _ => true
  | .segmentWakeDone _ _ => true
  | .segmentGate _ _ => true
  | .gateTimeout _ _ => true
  | .segSel _ _ _ => true
  | .tsqSel _ _ _ => true
  | .neighbourToken _ _ => true
  | .packetHop _ _ => true
  | .packetDelivery _ _ _ => true
  | .wgtRecordEnqueue _ => true
  | .emitterSend _ _ => true
  | .foldReaderSend _ => true
  | .drainStop _ _ _ => true
  | .drainAbort _ _ _ => true
  | .drainRelease _ _ _ => true
  | .drainSweep _ => true
  | .drainTimeout _ => true
  | .linkIsolation _ _ _ _ _ => true
  | .deadlockSpill _ => true
  | .spillRestore _ => true
  | .deadlock _ _ => true
  | .stallWatchdog _ _ => true
  | .fepRead _ _ _ => true
  | .fepWrite _ _ _ => true
  | .placeLoad _ => true
  | .placeLoadCommit _ => true
  | .passRun _ => true
  | .passLoadBegin _ => true
  | .passArmed _ => true
  | .passRestart _ => true
  | .passComplete _ => true
  | .passAbort _ _ => true
  | .passFailed _ => true
  | .passAbortNotice _ => true
  | .passWatchdog _ => true
  | .streamOpen _ => true
  | .streamCancel _ => true
  | .streamRequest _ _ _ _ => true
  | .streamReadTimeout _ _ _ => true
  | .senCtxSel _ _ _ => true
  | .senFopenSel _ _ _ => true
  | .doorbell _ _ _ _ _ => true
  | .recordStart _ => true
  | .nopCommand _ _ => true
  | .stepBegin _ => true
  | .waymarkClose _ _ => true
  | .markerWrite _ => true
  | .milepostCopy _ => true
  | .exchAccum _ => true
  | .exchWrite _ => true
  | .exchSignal _ => true
  | .exchCancel _ => true
  | .waitTimeout _ _ => true
  | .wmHoldTimeout _ _ => true
  | .stepRerun => true
  | .stepRewind => true
  | .stepEnd => true
  | .stepAbort _ _ => true
  | .queueResume _ _ _ _ => true
  | .queueConfigWrite _ _ _ _ _ => true
  | .markerUpdate _ => true
  | .watchDelivery _ _ => true
  | .watchTimeout _ _ => true
  | .barrierComplete _ _ => true
  | .barrierWatchdog _ _ => true
  | .mrkSel _ _ _ => true
  | .linkControlWord _ _ _ _ _ => true
  | .replayTimer _ => true
  | .laneFailure _ _ _ => true
  | .portDegrade _ => true
  | .portFail _ _ => true
  | .laneCalibration _ => true
  | .calibrationEnd _ => true
  | .exchangeFrameSend _ => true
  | .ackTimeout _ _ _ => true
  | .busyBackoff _ _ => true
  | .portDisable _ _ _ => true
  | .portRetrain _ _ _ => true
  | .linkTrainingDone _ _ => true
  | .bridgeReinject _ => true
  | .sidebandWord _ => true
  | .sidebandLost _ => true
  | .bridgeRetrain _ _ => true
  | .cwyTest _ _ => true
  | .cwyCrosscheck _ _ => true
  | .cwyMigrate _ _ => true
  | .cwyExport _ _ => true
  | .cwyImport _ _ => true
  | .causewayDone _ _ _ _ _ => true
  | .edgeMemoryAccess _ _ _ _ _ => true
  | .refresh _ _ _ => true
  | .hbmTempReadout _ _ _ => true
  | .patrolScrub _ _ => true
  | .stackFail _ _ => true
  | .selfRefreshEntry _ => true
  | .selfRefreshExit _ => true
  | .pcieReset _ => true
  | .dmaResume _ _ => true
  | .dmaDiscard _ _ => true
  | .doeDiscovery _ => true
  | .doeAbort => true
  | .bankOffline _ => true
  | .bankReturn _ => true
  | .powerLoss => true
  | .supplyWarn _ _ => true
  | .supplyRecover _ => true
  | .fieldReset _ _ _ => true
  | .fieldResetRecovery _ => true
  | .noRecover _ => true
  | .overcurrentTrip _ => true
  | .refFailover => true
  | .refFailure _ => true
  | .lockLoss _ _ _ => true
  | .relockTimeout _ _ _ _ _ _ _ _ => true
  | .thermalThrottleStep _ => true
  | .thermalReleaseStep _ => true
  | .thermalUnpark _ => true
  | .layby _ _ _ => true
  | .wake _ _ _ => true
  | .park _ _ _ => true
  | .parkRetain _ _ _ => true
  | .unpark _ _ _ => true
  | .laybyDone _ => true
  | .wakeDone _ => true
  | .parkDone _ => true
  | .unparkDone _ => true
  | .portLayby _ _ => true
  | .portWake _ _ => true
  | .portWakeDone _ => true
  | .bridgeLayby _ _ => true
  | .bridgeWake _ _ => true
  | .bridgeWakeDone => true
  | .limiterEngage => true
  | .pwrCapWrite _ _ => true
  | .errorRecord => true
  | .logHeadWrite _ _ => true
  | .dmapCopy _ _ => true
  | .checkFeed _ _ _ _ => true
  | .checkVerdict _ _ => true
  | .checkDeadline _ => true
  | .rebind => true
  | .lookoutPoll => true
  | .powerOnReset _ => true
  | .moduleReset _ _ _ _ => true
  | .rcEnableLow => true
  | .rcEnableHigh => true
  | .rcInterlockLow => true
  | .rcInterlockHigh => true
  | .pinGlitch _ => true
  | .fieldBist _ _ => true
  | .testCrosscheck _ _ => true
  | .volinoCal _ _ => true
  | .bridgeCal _ _ => true
  | .causewayTest _ _ => true
  | .heldTestStart => true
  | .stageImage _ _ => true
  | .activateImage _ _ => true
  | .commitImage _ _ _ _ => true
  | .activationTimeout => true
  | .enclosureOpening => true
  | .debugUnlock _ _ => true
  | .sealFuse _ _ _ _ => true
  | .powercapSet _ _ => true
  | .managerReset _ => true
  | .componentIntegrity _ _ => true
  | .eventSubscription _ _ _ => true
  | .pldmRequest _ => true
  | .clockRelock _ _ _ => true
  | .burstWriteback _ _ => true
  | .debugPortAccess => true
  | .configSpaceWrite _ _ => true

end Sys2Proof
end

