-- ==== Sys2Proof/Tests/Slice0.lean ====
section
/-!
SUPPORT. Tests: the ill-formed operands that WellFormed refuses, and, for every statement with hypotheses, states that meet them
(theorems wit_<statement>). Expected values stand in the rules that each part names.
-/
set_option linter.all false
set_option Elab.async false

namespace Sys2Proof.Tests
open Sys2Proof.Machine

/-! ### The fields, tiles and states of the tests -/

def f0 : FieldAddr := ⟨0, 0⟩
def a0 : TileAddr := ⟨f0, 0, 0⟩
/-- The tile to the east of a0. -/
def a1 : TileAddr := ⟨f0, 0, 1⟩

/-- A register with a value that is not 0, put into a state as it stands: the reset value of some is a fuse's. -/
def raw (s : State) (p : Page) (off : Nat) (v : W64) : State := { s with regs := put (fun _ => 0) s.regs (regKey p off) v }

/-- A state of READY with start-up complete: SYS.STATE. -/
def up (s : State) : State := raw s ⟨.SYS, 0⟩ 0x080 (BitVec.ofNat 64 (1 + 7 <<< 3))
def ready : State := up State.reset

/-- An instruction word: opcode, the trigger's QA and QB codes, and the action's fields above the opcode. -/
def slotOf (opc qa qb action : Nat) : SlotWord := BitVec.ofNat 128 (qa + qb <<< 4 + 15 <<< 8 + 1 <<< 33 + (opc + action <<< 6) <<< 64)

/-- The immediate of an action. -/
def imm (n : Nat) : Nat := n <<< 30

/-- A running task that owns slot 0 alone. -/
def task0 : TaskCtx := { TaskCtx.reset with state := .running, present := true, slotCount := 1 }

/-- The tile a0 with an instruction in slot 0 of task 0. -/
def tile0 (w : SlotWord) (c : TaskCtx) : Tile := { Tile.reset with tasks := [(0, c)], istore := [(0, w)] }

def at0 (t : Tile) : State := State.reset.setTile a0 t

/-- The next state of an outcome. -/
def nextOf (o : Host.Outcome State Fault Refusal) : Option State := match o with | .next s => some s | _ => none

/-! ### Ill-formed operands, one for each check of WellFormed -/

theorem test_illFormed_registerWrite : (Instr.registerWrite true true false (2 ^ 26) 0).wellFormed = false := by decide
theorem test_illFormed_snapshotArrival :
    [SnapUnit.tsq, .seg, .mrk].all (fun u => !(Instr.snapshotArrival u 120).wellFormed) = true ∧
    [SnapUnit.ctx, .fopen].all (fun u => !(Instr.snapshotArrival u 2).wellFormed) = true := by decide
theorem test_illFormed_passFinishing : (Instr.passFinishing 0 [2 ^ 32]).wellFormed = false := by decide
theorem test_illFormed_streams : [Instr.streamDeliverStart 0 (2 ^ 20), .streamInject 0 (2 ^ 20), .streamStalled 0 (2 ^ 20),
    .streamContextRelease 0 (2 ^ 20)].all (fun c => !c.wellFormed) = true := by decide
theorem test_illFormed_records : [Instr.recordFetch 0 0 (List.replicate 63 0) [] 0, .fetchRetry 0 0 (List.replicate 65 0) [] 0].all
    (fun c => !c.wellFormed) = true := by decide +kernel
theorem test_illFormed_frames : [Instr.writeFrame 0 0 (List.replicate 4161 0), .signalFrame 0 0 (List.replicate 4161 0),
    .taintFrame 0 0 (List.replicate 4161 0), .readresp 0 0 (List.replicate 4161 0), .frameAnswer 0 0 (List.replicate 4161 0),
    .unacceptedFrame 0 0 (List.replicate 4161 0)].all (fun c => !c.wellFormed) = true := by decide +kernel
theorem test_illFormed_bars : [Instr.bar4Access (2 ^ 36) true false [] 0, .bar0BadRead (2 ^ 26)].all (fun c => !c.wellFormed) = true := by
  decide
theorem test_illFormed_mailbox : [Instr.getReport (List.replicate 65537 0) false, .getCerts (List.replicate 65537 0)].all
    (fun c => !c.wellFormed) = true := by decide +kernel
theorem test_illFormed_samples : [Instr.ageingRead f0 0 16, .temperatureSample f0 (List.replicate 11 0),
    .temperatureSample f0 (256 :: List.replicate 11 0), .coolantSample 1024 0 0 false, .coolantSample 0 1024 0 false,
    .coolantSample 0 0 4096 false, .powerSample 0 65536 0 0 0 (List.replicate 120 0) 0, .powerSample 0 0 0 0 0 [] 0].all
    (fun c => !c.wellFormed) = true := by decide +kernel
theorem test_illFormed_tests : [Instr.startupStep true [{ fld := f0, tiles := [(96, 0)], routers := [], dead := false }] [] [] [] 0 0,
    .startupStep true [] [] [136] [] 0 0, .startupStep true [] [] [] [24] 0 0, .startupStep true [] [] [] [] 0 65536,
    .testComplete [{ fld := f0, tiles := [], routers := [(0, 132)], dead := false }] [] false 0 0].all (fun c => !c.wellFormed) = true := by
  decide +kernel
theorem test_illFormed_updatePush : [Instr.updatePush true 3 0 [] false 0, .updatePush true 0 4 [] false 0].all (fun c => !c.wellFormed) = true := by
  decide
theorem test_wellFormed_bounds : [Instr.registerWrite true true false (2 ^ 26 - 1) 0, .snapshotArrival .tsq 119, .snapshotArrival .ctx 1,
    .passFinishing 0 [2 ^ 32 - 1], .streamInject 0 (2 ^ 20 - 1), .recordFetch 0 0 (List.replicate 64 0) [] 0, .bar0BadRead (2 ^ 26 - 1),
    .ageingRead f0 0 15, .startupStep true [] [] [135] [55] 0 65535, .updatePush true 2 3 [] false 0].all (fun c => c.wellFormed) = true := by
  decide +kernel

/-! ### The queue, and what every command keeps -/

/-- Each outcome of a step that a statement assumes is reached. -/
theorem wit_StepRunsFront : ({ State.reset with pending := [.doeAbort] } : State).pending = [.doeAbort] := by decide
theorem wit_CommandsTakeOneTurn :
    nextOf (step { State.reset with pending := [.doeAbort, .doeAbort] }) = some { State.reset with pending := [.doeAbort] } := by decide +kernel
theorem wit_StepKeepsSound : State.reset.Sound := ⟨rfl, rfl, rfl, rfl, rfl, rfl, rfl, rfl, ⟨Nat.zero_le _, Nat.zero_le _, Nat.zero_le _, Nat.zero_le _⟩⟩
theorem wit_GuardedStateIsIsolated : touchesGuarded .doeAbort = false ∧ nextOf (exec .doeAbort State.reset) = some State.reset ∧
    nextOf (step { State.reset with dark := 1 }) = some { State.reset with dark := 1 } := by decide +kernel
theorem wit_EveryCommandKeepsToItsParts : nextOf (exec .doeAbort { State.reset with doe := [1] }) = some State.reset := by decide +kernel

/-! ### Firing (R107 to R116) -/

/-- An instruction without sources of its own stands ready. -/
def plain (opc action : Nat) : State := at0 (tile0 (slotOf opc 15 15 action) task0)

/-- A data token of format fmt, and control tokens of a kind. -/
def dtok (fmt : BitVec 4) : DataTok := { payload := 0x3F800000, scales := 0x7F, fmt := fmt, saxis := false, epoch := 0 }
def ctok (kind : BitVec 4) : CtlTok := { kind := kind, value := 3, epoch := 0 }

/-- An instruction whose QA names DQ0, which holds two tokens, and QB CQ0 (code 8). -/
def taking (opc action : Nat) : State :=
  at0 { tile0 (slotOf opc 0 8 action) task0 with dq := [(0, [dtok 0, dtok 0])], cq := [(0, [ctok 0])] }

theorem wit_AtMostOneInstructionIsReadyToFire : (plain 1 0).canFire a0 0 0 1 = true := by decide +kernel

/-- Nothing fires without its token, in a task that does not run, from a slot below a ready one, or past the task's slots. -/
theorem wit_NothingFiresUnready : (at0 (tile0 (slotOf 0x10 0 15 0) task0)).canFire a0 0 0 0x10 = false ∧
    (at0 (tile0 (slotOf 0 15 15 0) { task0 with state := .done })).canFire a0 0 0 0 = false ∧
    (plain 0 0).canFire a0 0 1 0 = false ∧ (plain 1 0).canFire a0 0 0 2 = false := by decide +kernel

theorem wit_ScalarInstructionsWriteTheirResult :
    [1, 2, 3, 4, 5, 6, 7, 8, 9, 10, 11].all (fun opc => (plain opc (imm 31)).canFire a0 0 0 opc) = true := by decide +kernel

/-- DEQA, DEQB, POP and COP at each of their values. -/
theorem wit_FiringTakesHeadsAndUpdates :
    [0, 2].all (fun cop => [0, 2, 3].all (fun pop =>
      let s := taking 0 (3 <<< 18 + pop <<< 23 + cop <<< 28)
      s.canFire a0 0 0 0 && (s.slotOp a0 0).cop == cop && (s.slotOp a0 0).pop == pop && (s.slotOp a0 0).takes 0 == 1)) = true := by
  decide +kernel

/-- A task whose counter 0 has the limit, chain and token mode, and counter 1 the limit 2. -/
def counting (limit : BitVec 24) (chain : Bool) (tokmode : BitVec 2) (tokq : BitVec 4) : State :=
  at0 (tile0 (slotOf 0 15 15 (1 <<< 28)) { task0 with
    ccfg := [(0, { limit := limit, chain := chain, tokmode := tokmode, tokq := tokq }), (1, { CtrCfg.reset with limit := 2 })] })

/-- The clauses: below the limit, with tokens and without; at the limit, unchained, into an OQ and a CQ; at the limit, chained. -/
theorem wit_CountersStepAsDefined :
    [counting 2 false 0 0, counting 2 false 2 7, counting 1 false 1 0, counting 1 false 1 8, counting 1 true 0 0].all (fun s =>
      s.canFire a0 0 0 0 && (s.slotOp a0 0).cop == 1) = true ∧
    ((counting 2 false 2 7).taskOf a0 0).ctr 0 + 1 ≠ (((counting 2 false 2 7).taskOf a0 0).cfg 0).limit ∧
    ((counting 1 true 0 0).taskOf a0 0).ctr 0 + 1 = (((counting 1 true 0 0).taskOf a0 0).cfg 0).limit ∧
    ((counting 1 true 0 0).taskOf a0 0).ctr 1 + 1 ≠ (((counting 1 true 0 0).taskOf a0 0).cfg 1).limit := by decide +kernel

/-- Each comparison, with the predicate taken from the result, and with a NaN operand. -/
theorem wit_CompareSetsThePredicate : (List.range 8).all (fun n =>
    let s := at0 (tile0 (slotOf 0x0C 15 15 (1 <<< 23 + imm n)) { task0 with g := [(0, 0x7FC00000)] })
    s.canFire a0 0 0 0x0C && (s.slotOp a0 0).pop == 1 && (s.slotOp a0 0).immF 2 0 == n) = true ∧
    wbits (0x7FC00000 : W32) 30 23 = 255 ∧ wbits (0x7FC00000 : W32) 22 0 ≠ 0 := by decide +kernel

/-- TOKR and FWD of a data and of a control token, ENQC into an OQ and a CQ, ENQD, HALT. -/
theorem wit_QueueInstructionsMoveTokens :
    (taking 0x10 0).canFire a0 0 0 0x10 = true ∧ ((taking 0x10 0).tile a0).headData 0 = some (dtok 0) ∧
    (let s := at0 { tile0 (slotOf 0x10 8 15 0) task0 with cq := [(0, [ctok 0])] }
     s.canFire a0 0 0 0x10 = true ∧ (s.tile a0).headCtl 8 = some (ctok 0)) ∧
    (plain 0x11 (imm (0 <<< 12))).canFire a0 0 0 0x11 = true ∧ (plain 0x11 (imm (11 <<< 12))).canFire a0 0 0 0x11 = true ∧
    (plain 0x12 (imm (7 <<< 4))).canFire a0 0 0 0x12 = true ∧
    (taking 0x13 (imm 7)).canFire a0 0 0 0x13 = true ∧
    (let s := at0 { tile0 (slotOf 0x13 8 15 (imm 8)) task0 with cq := [(0, [ctok 0])] }
     s.canFire a0 0 0 0x13 = true ∧ (s.tile a0).headCtl 8 = some (ctok 0)) ∧
    (plain 0x3F 0).canFire a0 0 0 0x3F = true := by decide +kernel

/-! ### Memory, matrix and vector instructions -/

/-- Windows over the first eight rows of both banks, scale window 0 over eight blocks in the last near row. -/
def win0 : BitVec 256 := BitVec.ofNat 256 (8 <<< 10 + 8 <<< 33 + (224 <<< 1 + 7 <<< 37) <<< 64)
def banked (opc qa action : Nat) (c : TaskCtx → TaskCtx) (t : Tile → Tile) : State :=
  at0 (t (tile0 (slotOf opc qa 15 action) (c { task0 with win := win0 })))

theorem rowClean_of_empty (t : Tile) (h : t.gather = []) (k : t.ecc = []) (d : Bool) (r : Nat) : t.rowClean d r := by
  refine ⟨fun e he => ?_, fun i _ => ?_⟩
  · rw [h] at he; cases he
  · simp [Tile.mark, k, look]

/-- LDN at the last word of a near and of a deep window; RDQ PLAIN of a scalar and of an MX format up to the window's last row, SWITCHBACK,
STRIDED, and of no token. -/
theorem wit_MemoryReadsDeliverBankBytes :
    [0, 1].all (fun deep =>
      let s := banked 0x1A 15 (imm (deep + 252 <<< 1)) id id
      let w := s.slotOp a0 0
      let c := s.taskOf a0 0
      s.canFire a0 0 0 0x1A && decide (narrowAddr c w + 4 ≤ 32 * c.limit (deep == 1)) &&
        !segFault (s.tile a0) false [(deep == 1, c.bankOff (deep == 1) (narrowAddr c w))]) = true ∧
    [8 <<< 3, 7 <<< 3 + 5 <<< 11, 1 + 2 <<< 3, 2 + 1 <<< 3, 0, 4 + 8 <<< 3].all (fun i =>
      let s := banked 0x18 15 (imm i) id id
      let w := s.slotOp a0 0
      let c := s.taskOf a0 0
      s.canFire a0 0 0 0x18 && (w.immF 1 0 != 1 || w.immF 10 3 % 2 == 0) && (rdqFault c w).isNone &&
        !segFault (s.tile a0) false ((List.range (w.immF 10 3)).flatMap (fun k => tokenBytes c w k))) = true ∧
    (∀ i, ((banked 0x18 15 (imm i) id id).tile a0).gather = [] ∧ ((banked 0x18 15 (imm i) id id).tile a0).ecc = []) := by
  refine ⟨by decide +kernel, by decide +kernel, fun i => ⟨rfl, rfl⟩⟩

/-- STN at the last word of a window with the gather buffer one entry short of full; WRT without scales, and with them. -/
theorem wit_MemoryWritesStoreTheirBytes :
    (let g := (List.range 7).map (fun r => ({ deep := false, row := r, data := 0, mask := 1 } : GatherEnt))
     let s := banked 0x1B 15 (imm (252 <<< 1)) id (fun t => { t with gather := g })
     let w := s.slotOp a0 0
     let c := s.taskOf a0 0
     s.canFire a0 0 0 0x1B = true ∧ narrowAddr c w + 4 ≤ 32 * c.limit false ∧ segFault (s.tile a0) true [(false, c.bankOff false (narrowAddr c w))] = false ∧
       (s.tile a0).gather.length < 8 ∧ ∀ e ∈ (s.tile a0).gather, ¬ (e.deep = false ∧ e.row = c.bankOff false (narrowAddr c w) / 32)) ∧
    [(0, dtok 0), (2, { dtok 5 with saxis := true }), (3, { dtok 9 with saxis := true })].all (fun x =>
      let s := banked 0x19 0 (imm x.1) id (fun t => { t with dq := [(0, [x.2])] })
      let w := s.slotOp a0 0
      let c := s.taskOf a0 0
      s.canFire a0 0 0 0x19 && (s.tile a0).headData 0 == some x.2 && (wrtFault c w x.2).isNone &&
        !segFault (s.tile a0) true ((List.range 32).map (fun i => (x.1 % 2 == 1, c.bankOff (x.1 % 2 == 1) i)))) = true := by decide +kernel

theorem wit_ExactProductsAreClampedIntoTheWindow :
    -- a product inside the window, one below its last place, and one at and above its top
    (0 ≤ (0 : Int) + 0 + 96 ∧ 3 * 5 * 2 ^ ((0 : Int) + 0 + 96).toNat = 15 * 2 ^ 96) ∧
    ((-60 : Int) + (-60) + 96 < 0 ∧ 0 * 2 ^ (-((-60 : Int) + (-60) + 96)).toNat ≤ 3 * 5 ∧
      3 * 5 < (0 + 1) * 2 ^ (-((-60 : Int) + (-60) + 96)).toNat) ∧
    (1 * 1 * 2 ^ ((40 : Int) + 40 + 96).toNat = 2 ^ (80 + 96) ∧ 2 ^ (80 + 96) ≤ 2 ^ (80 + 96)) := by decide +kernel

/-- A task that owns every accumulator bank, with operand formats E4M3 and a token of that format in DQ0 and in DQ1. -/
def matrix (opc action : Nat) (fmt : BitVec 4) : State :=
  at0 { tile0 (slotOf opc 0 1 action) { task0 with fmtA := fmt, fmtB := fmt, banks := 15, win := win0 } with
    dq := [(0, [dtok fmt]), (1, [dtok fmt])] }

/-- MMA of each scalar and MX format, without and with passing the B token on, into bank 3; ACLR. -/
theorem wit_MatrixInstructionsAccumulateAndClear :
    [1, 2, 3, 4, 5, 6, 7, 8, 9, 10].all (fun f => [3, 3 + 1 <<< 2 + 7 <<< 3].all (fun i =>
      let s := matrix 0x20 (imm i) (BitVec.ofNat 4 f)
      s.canFire a0 0 0 0x20 && (s.tile a0).headData 0 == some (dtok (BitVec.ofNat 4 f)) &&
        (s.tile a0).headData 1 == some (dtok (BitVec.ofNat 4 f)) && (Fmt.ofCode f).isSome)) = true ∧
    (matrix 0x21 (imm 3) 3).canFire a0 0 0 0x21 = true := by decide +kernel

/-- EMIT CONTRIB, and EMIT ROUND into the window's last rows for every result format. -/
theorem wit_EmitClosesItsWorkUnit :
    (matrix 0x22 (imm (3 + 8 + 7 <<< 5)) 3).canFire a0 0 0 0x22 = true ∧
    [(0, 4), (1, 2), (3, 1), (4, 1), (12, 32)].all (fun f =>
      let s := at0 (tile0 (slotOf 0x22 15 15 (1 <<< 18 + imm 3)) { task0 with
        banks := 15, win := BitVec.ofNat 256 (64 <<< 10), rc0 := BitVec.ofNat 128 f.1, g := [(0, BitVec.ofNat 32 (2048 - 64 * f.2))] })
      let w := s.slotOp a0 0
      let c := s.taskOf a0 0
      s.canFire a0 0 0 0x22 && w.immF 3 3 == 0 && elemSize f.1 == f.2 && (c.reg w.src2).toNat % 32 == 0 &&
        c.legal false (c.reg w.src2).toNat (64 * f.2) &&
        !segFault (s.tile a0) true [(false, c.bankOff false (c.reg w.src2).toNat), (false, c.bankOff false (c.reg w.src2).toNat + 64 * f.2 - 1)]) = true := by
  decide +kernel

theorem wit_VectorInstructionsWriteEveryLane :
    [0x2A, 0x2B, 0x2C, 0x2D, 0x2E, 0x2F, 0x30, 0x33, 0x34].all (fun opc => (plain opc 0).canFire a0 0 0 opc) = true := by decide +kernel

/-- VUNP of a token of each format that its DQ's binding names; VTAB, VTABD, VEXACT; VPACK and VQMX for each of their formats. -/
theorem wit_VectorConversionsFollowTheirFormats :
    (List.range 11).all (fun f =>
      let s := at0 { tile0 (slotOf 0x28 0 15 0) task0 with dq := [(0, [dtok (BitVec.ofNat 4 f)])], dqb := [(0, BitVec.ofNat 16 (0xF <<< 2 + f <<< 6))] }
      s.canFire a0 0 0 0x28 && (s.tile a0).headData 0 == some (dtok (BitVec.ofNat 4 f)) && unpackable (BitVec.ofNat 4 f) &&
        wbits ((s.tile a0).dqBind 0) 9 6 == f && (Fmt.ofCode f).isSome) = true ∧
    [0x31, 0x32, 0x36].all (fun opc => (plain opc (imm 7)).canFire a0 0 0 opc) = true ∧
    [0, 1, 2, 3, 4].all (fun f =>
      (plain 0x29 (imm (f + 7 <<< 16))).canFire a0 0 0 0x29 && ((Fmt.ofCode f).bind Fmt.enc).isSome) = true ∧
    [5, 6, 7, 8, 9, 10].all (fun f => (plain 0x35 (imm (f + 7 <<< 16))).canFire a0 0 0 0x35 && (Fmt.ofCode f).isSome) = true := by
  decide +kernel

/-- MSIG of nothing, and of an amount, from a running field; the watch; BARR with its latch clear, and set. -/
theorem wit_MarkerInstructionsReachTheirUnits :
    (plain 0x38 0).canFire a0 0 0 0x38 = true ∧
    (let s := at0 (tile0 (slotOf 0x38 15 15 (imm 4095)) { task0 with g := [(0, 1)] })
     s.canFire a0 0 0 0x38 = true ∧ (s.slotOp a0 0).immF 12 12 = 0 ∧ (s.taskOf a0 0).reg (s.slotOp a0 0).src1 ≠ 0 ∧
       (s.fieldSt f0).lost = false ∧ (s.fieldSt f0).resetting = false) ∧
    (let s := plain 0x38 (imm (1 <<< 12))
     s.canFire a0 0 0 0x38 = true ∧ (s.slotOp a0 0).immF 12 12 = 1) ∧
    (let s := plain 0x39 (imm 15)
     s.canFire a0 0 0 0x39 = true ∧ (s.tile a0).barLatch.getLsbD 15 = false) ∧
    (let s := at0 { tile0 (slotOf 0x39 15 15 (imm 15)) task0 with barLatch := 0x8000, barCq := [(15, 3)] }
     s.canFire a0 0 0 0x39 = true ∧ (s.tile a0).barLatch.getLsbD 15 = true) := by decide +kernel

/-! ### Queues, banks, registers and segments -/

/-- Channel ch on: owner 0, CTL CQ1 (cq 1), DATA DQ2, outputs OQ3 and OQ4, action 2 (both) for kind 0 and 3 (none) for kind 1. -/
def steered (kind : BitVec 4) : State :=
  at0 { Tile.reset with steer := [(3, BitVec.ofNat 64 (1 + 1 <<< 3 + 2 <<< 5 + 3 <<< 8 + 4 <<< 12 + 2 <<< 16 + 3 <<< 18))]
                        tasks := [(0, task0)], dq := [(2, [dtok 0])], cq := [(1, [ctok kind])] }

/-- Steering with two outputs, with none, and of a kind that the channel does not execute; a local transfer and a read token at the room of
the last entry; a waiting ARRIVE of landing 15 and BARRIER of channel 15; a task that is quiet. -/
theorem wit_TileQueuesHandTokensOn :
    [(0, [3, 4]), (1, [])].all (fun x =>
      let s := steered (BitVec.ofNat 4 x.1)
      let b := s.tile a0
      let w := b.steerCfg 3
      s.tileRuns a0 && steerEn w && !b.steerStuck.getLsbD 3 && (b.cqOf (steerCtl w)).head? == some (ctok (BitVec.ofNat 4 x.1)) &&
        (b.dqOf (steerData w)).head? == some (dtok 0) && steerOuts w x.1 == some x.2 && b.fits x.2) = true ∧
    (let s := steered 5
     let b := s.tile a0
     s.tileRuns a0 = true ∧ b.steerStuck.getLsbD 3 = false ∧ (b.cqOf (steerCtl (b.steerCfg 3))).head? = some (ctok 5) ∧
       steerOuts (b.steerCfg 3) 5 = none) ∧
    (let s := at0 { Tile.reset with oqb := [(7, BitVec.ofNat 16 (7 <<< 2 + 5 <<< 6))], oq := [(7, [.data (dtok 0)])]
                                    dq := [(5, List.replicate 7 (dtok 0))] }
     let b := s.tile a0
     s.tileRuns a0 = true ∧ bindEnd (b.oqBind 7) = 7 ∧ wbits (b.oqBind 7) 8 6 = 5 ∧ b.oqOf 7 = [.data (dtok 0)] ∧ (b.dqOf 5).length < 8) ∧
    (let b : Tile := { Tile.reset with reads := [{ task := 0, dq := 7, deep := true, toks := [dtok 0] }], dq := [(7, List.replicate 7 (dtok 0))] }
     (at0 b).tileRuns a0 = true ∧ (b.dqOf 7).length < 8) ∧
    (let b : Tile := { Tile.reset with landings := [(15, BitVec.ofNat 256 (11 <<< 131))], waitArrive := 0x8000, cq := [(3, List.replicate 15 (ctok 0))] }
     (at0 b).tileRuns a0 = true ∧ landingCq (b.landingCfg 15) = some 3 ∧ b.waitArrive.getLsbD 15 = true ∧ (b.cqOf 3).length < 16 ∧
       b.arriveBefore 15 3 = false) ∧
    (let b : Tile := { Tile.reset with waitBarrier := [(15, 3)] }
     (at0 b).tileRuns a0 = true ∧ b.waitBarrier.find? (fun e => e.1 == 15) = some (15, 3) ∧ (b.cqOf 3).length < 16 ∧
       b.arriveBefore 16 3 = false ∧ b.waitBarrier.any (fun e => decide (e.1 < 15) && e.2 == 3) = false) ∧
    (let b : Tile := { Tile.reset with tasks := [(3, { task0 with state := .done })] }
     (at0 b).tileRuns a0 = true ∧ (b.task 3).state = .done ∧ b.taskQuiet 3 = true) := by and_intros <;> decide +kernel

/-- A gather entry of the last deep row; a write-back of that row; the scrub at its last position, with SCRUB_EN 1. -/
theorem wit_BanksAreCleanedInTheBackground :
    (let b : Tile := { Tile.reset with gather := [{ deep := true, row := 6143, data := 5, mask := 1 }], wb := [(true, 6143)] }
     (at0 b).tileRuns a0 = true ∧ (∀ k, k < 4 → b.mark true (32 * 6143 + 8 * k) = .good) ∧ 32 * 6143 < bankBytes true) ∧
    (let s := up (raw (at0 { Tile.reset with scrubPos := 7039, segs := [(7, { state := .retained, target := .retained, waiting := none, timedOut := false })] }) ⟨.SPD, 0⟩ 0x080 1)
     let b := s.tile a0
     s.tileRuns a0 = true ∧ s.getF F.SPD_CTL_SCRUB_EN 0 = 1 ∧ b.scrubNext b.scrubPos = 7039 ∧ b.scrubRow 7039 = some (true, 6015) ∧
       b.gather = [] ∧ b.ecc = [] ∧ (true, 6015) ∉ b.wb) := by and_intros <;> decide +kernel

/-- A write that clears VALID and one that stores a field at its bound; writes refused as NO_REGISTER, OFFLINE, LOCKED, RESERVED and RANGE;
the selectors of the last field and plane and their snapshots. -/
theorem wit_RegisterWritesStoreOrAreRefused :
    let f : FieldAddr := ⟨1, 59⟩
    let code (s : State) (fw : Bool) (p : Page) (off : Nat) (v : W64) : Nat :=
      s.writeCode fw p off true v (s.ownRules p off v).1 (s.ownRules p off v).2
    let busy (p : Page) (off bit : Nat) : State := up (raw State.reset p off (BitVec.ofNat 64 (2 ^ bit)))
    [(⟨.PAS, 0⟩, 0x088, 2 ^ 31, 0), (⟨.PAS, 1⟩, 0x7F8, 0, 2), (⟨.PAS, 0⟩, 0x080, 2 ^ 20, 5)].all (fun (x : Page × Nat × Nat × Nat) =>
      pageAt x.1.base == some x.1 && x.1.exists' && x.1.base % 8 == 0 && ready.dark == 0 &&
        code ready true x.1 x.2.1 (BitVec.ofNat 64 x.2.2.1) == x.2.2.2) = true ∧
    (regSpec .PAS 0x088).isSome = true ∧
    code (raw State.reset ⟨.SYS, 0⟩ 0x080 4) true ⟨.PAS, 0⟩ 0x088 0 = 3 ∧
    ready.writeCode true ⟨.SPD, f.inst⟩ 0x090 true 0 (badTileSel 0) (ready.getF F.SPD_SEG_SEL_BUSY f.inst == 1) = 0 ∧
    ready.writeCode true ⟨.TSQ, f.inst⟩ 0x080 true 0 (badTileSel 0) (ready.getF F.TSQ_SEL_BUSY f.inst == 1) = 0 ∧
    ready.writeCode true ⟨.MRK, f.inst⟩ 0x088 true 4095 false (ready.getF F.MRK_SEL_BUSY f.inst == 1) = 0 ∧
    ready.writeCode true ⟨.SEN, 1⟩ 0x098 true 0 false (ready.getF F.SEN_CTX_SEL_BUSY 1 == 1) = 0 ∧
    ready.writeCode true ⟨.SEN, 1⟩ 0x0B0 true 0 false false = 0 ∧
    (let s := busy ⟨.SPD, f.inst⟩ 0x090 14
     s.offline ⟨.SPD, f.inst⟩ = false ∧ s.getF F.SPD_SEG_SEL_BUSY f.inst = 1 ∧ selTile f (s.reg ⟨.SPD, f.inst⟩ 0x090) = some ⟨f, 0, 0⟩) ∧
    (let s := busy ⟨.TSQ, f.inst⟩ 0x080 16
     s.offline ⟨.TSQ, f.inst⟩ = false ∧ s.getF F.TSQ_SEL_BUSY f.inst = 1 ∧ selTile f (s.reg ⟨.TSQ, f.inst⟩ 0x080) = some ⟨f, 0, 0⟩) ∧
    (let s := busy ⟨.MRK, f.inst⟩ 0x088 12
     s.offline ⟨.MRK, f.inst⟩ = false ∧ s.getF F.MRK_SEL_BUSY f.inst = 1) ∧
    (let s := busy ⟨.SEN, 1⟩ 0x098 20
     s.getF F.SEN_CTX_SEL_BUSY 1 = 1 ∧ (s.ctx (ctxKey 1 (s.getF F.SEN_CTX_SEL_CTX 1))).live = false) ∧
    ready.unserved ⟨.SEN, 1⟩ = false ∧ look (fun _ => false) ready.fopenDue 1 = false ∧
    look (fun _ => false) ({ ready with fopenDue := [(1, true)] }).fopenDue 1 = true := by and_intros <;> decide +kernel

/-- A command on every segment of the field's last tile, of each target, in a field that is up and in one in layby; an OFF command that a
segment in use holds back; each of the ends of a transition, with and without a waiting command. -/
theorem wit_SegmentsFollowTheirStateTable :
    let f : FieldAddr := ⟨1, 59⟩
    let a : TileAddr := ⟨f, 95, 127⟩
    let v (target : Nat) : W64 := BitVec.ofNat 64 (95 + 127 <<< 7 + 95 <<< 14 + 127 <<< 21 + 128 <<< 28 + target <<< 36 + 1 <<< 38)
    let code (s : State) (v : W64) : Nat := s.writeCode true ⟨.SPD, f.inst⟩ 0x088 true v (decide (95 < wbits v 6 0) || decide (95 < wbits v 20 14) ||
          decide (wbits v 20 14 < wbits v 6 0) || decide (wbits v 27 21 < wbits v 13 7) || wbits v 35 28 == 0)
        (s.getF F.SPD_SEG_CMD_BUSY f.inst == 1)
    let seg (st : SegState) (w : Option SegState) : State :=
      State.reset.setTile a { Tile.reset with segs := [(7, { state := st, target := .retained, waiting := w, timedOut := false })] }
    [0, 1, 2].all (fun t => code ready (v t) == 0 && wbits (v t) 37 36 == t && wbits (v t) 38 38 == 1) = true ∧
    ready.getF F.FPW_STATE_POWER f.inst = 0 ∧
    (let s := up (raw State.reset ⟨.FPW, f.inst⟩ 0x088 2)
     code s (v 0) = 0 ∧ s.getF F.FPW_STATE_POWER f.inst ≠ 0) ∧
    (let s := up (State.reset.setTile a { Tile.reset with reads := [{ task := 0, dq := 0, deep := true, toks := [dtok 0] }]
                                                          tasks := [(0, { task0 with state := .running, win := BitVec.ofNat 256 (8 <<< 33 + 5376 <<< 20) })] })
     code s (v 0) = 0 ∧ s.tileFenced a = false ∧ ((s.tile a).seg 7).state = .active ∧ (s.tile a).segInUse 7 = true) ∧
    ((seg .waking none).tile a).seg 7 = { state := .waking, target := .retained, waiting := none, timedOut := false } ∧
    ((seg .waking none).fieldSt f).lost = false ∧
    (((seg .closing (some .active)).tile a).seg 7).state = .closing ∧ (((seg .closing (some .active)).tile a)).inFlight 7 = 0 := by
  and_intros <;> decide +kernel

/-! ### Ports, routers, drains and tables -/

/-- Two tiles of one state. -/
def two (t u : Tile) : State := (State.reset.setTile a0 t).setTile a1 u

/-- a0 with a token in an OQ whose sink is its east port's channel. -/
def porting (sink : Nat) (x : OTok) : Tile := { Tile.reset with oqb := [(7, BitVec.ofNat 16 (sink <<< 2))], oq := [(7, [x])] }

/-- A packet that goes `n` hops east, with its body and entry type. -/
def pkt (cls n aux addr : Nat) (body : List Byte) (typ : Nat := 0) (src : Nat := 0) : Packet :=
  { hdr := BitVec.ofNat 128 (cls + 1 <<< 4 + (1 + 4 * n) <<< 8 + src <<< 56 + addr <<< 88 + ((body.length + 7) / 8) <<< 107 + aux <<< 112), payload := body
    entry := BitVec.ofNat 128 (typ <<< 1), copied := true, nanGen := 0 }

/-- a0 with an emitter binding of OQ0, tokens in OQ0, and endpoint 1 at tile a1. -/
def emitting (e : Nat) (xs : List OTok) (valid : Nat := 1) : State :=
  let s := at0 { Tile.reset with oqb := [(0, BitVec.ofNat 16 (6 <<< 2))], emb := [(0, BitVec.ofNat 128 e)], oq := [(0, xs)] }
  s.setField f0 { s.fieldSt f0 with ept := [(1, BitVec.ofNat 128 (valid + 129 <<< 26))] }

def sum0 (fast : Bool) (n : Nat) : SumTok := { fast := fast, epoch := 0, addr := 0, step := 32, elems := List.replicate n (.fast 0 false false false false) }

/-- Each clause: a dead edge, a full receiver, a token that moves on into a queue with room for one and to a tile without the queue; a
record of the landing buffer, with room, without and unbound; emitters of each class, sent and refused; the fold reader's last elements. -/
theorem wit_TokensCrossPortsTowpathsAndEmitters :
    (let s := at0 (porting 3 (.data (dtok 0)))
     s.tileRuns a0 = true ∧ s.nextHop a0 3 true = .dead ∧ ((s.tile a0).portTokens 3).head? = some (7, 0)) ∧
    (let s := two (porting 1 (.data (dtok 0))) { Tile.reset with dqb := [(0, 3 <<< 2)], dq := [(0, List.replicate 8 (dtok 0))], nbuf := [(12, [.data (dtok 0), .data (dtok 0)])] }
     s.nextHop a0 1 true = .go a1 ∧ (s.tile a1).dqFrom 3 = some 0 ∧ 8 ≤ ((s.tile a1).dqOf 0).length ∧ (s.tile a1).nbufOf 3 1 = [] ∧ (s.tile a1).nbufOf 3 3 = [] ∧
       (s.tile a0).portTokens 1 = [(7, 0)] ∧ ((s.tile a1).nbufOf 3 0).length = 2) ∧
    [porting 1 (.data (dtok 0)), porting 9 (.ctl (ctok 0)), porting 4 (.data (dtok 0))].all (fun t =>
      let s := two t { Tile.reset with dqb := [(0, 3 <<< 2), (1, 4 <<< 2)], cqb := [(0, 3 <<< 2)], dq := [(0, List.replicate 7 (dtok 0))], cq := [(0, List.replicate 15 (ctok 0))] }
      s.tileRuns a0 && s.nextHop a0 1 true == .go a1 && (s.tile a1).nbuf == [] && (t.portTokens 1).length == 1 && (s.tile a1).dqFrom 3 == some 0 &&
        (s.tile a1).cqFrom 3 == some 0 && (s.tile a1).dqFrom 4 == some 1 && (s.tile a1).epoch == 0) = true ∧
    ((two (porting 1 (.data (dtok 0))) Tile.reset).tile a1).dqFrom 3 = none ∧
    [(7, true), (8, true), (0, false)].all (fun x =>
      let p := pkt 1 0 1 0 (List.replicate 82 0)
      let b : Tile := { Tile.reset with landing := some { pkt := p, entered := 1 }, dqb := if x.2 then [(0, 5 <<< 2)] else [], dq := [(0, List.replicate x.1 (dtok 0))] }
      p.cls == 1 && p.aux.testBit 0 && b.dqFrom 5 == (if x.2 then some 0 else none) && (b.dqOf 0).length == x.1 && !(at0 b).meshStopped f0 &&
        (recordToken (p.payload.drop 41)).epoch == b.epoch) = true ∧
    [(1 + 2 <<< 24, [OTok.sum (sum0 true 28)]), (1 + 3 <<< 24, [.data (dtok 2)]), (1 + 1 <<< 24, [.data (dtok 0)]), (1 + 2 <<< 27 + 8 <<< 45, List.replicate 3 (.data (dtok 0)))].all (fun x =>
      [1, 0].all (fun valid =>
        let s := emitting x.1 x.2 valid
        let e := (s.tile a0).emitter 0
        s.tileRuns a0 && bindEnd ((s.tile a0).oqBind 0) == 6 && (s.tile a0).bufRoom 0 e.cls && (s.sendCause f0 (tilePos a0) e.dest e.cls (e.mc && e.cls == 0)).isNone == (valid == 1))) = true ∧
    (let f : FoldEnt := { addr := 32, count := 6, redId := 1, destEp := 1, destAddr := 0, step := 32 }
     let s := raw (raw ((emitting 0 []).setTile a0 { Tile.reset with folds := [f], foldPos := 5 }) ⟨.AEN, 0⟩ 0x090 3) ⟨.PAS, 0⟩ 0x080 0x1000
     let b := s.tile a0
     foldAt b.folds b.foldPos = some (f, 5) ∧ s.tileRuns a0 = true ∧ s.passState 0 = 3 ∧ s.getF F.PAS_RUN_IN_PASS 0 = 1 ∧ b.bufRoom 0 2 = true ∧
       b.segCheck false false ((List.range 32).map (fun i => 192 + i)) = .go ∧ b.gather = [] ∧ b.ecc = [] ∧ s.sendCause f0 (tilePos a0) 1 2 false = none) := by
  and_intros <;> decide +kernel

/-- A hop off the plane and one to the east, from a buffer and of a merged sum; a packet that arrives at a fenced tile, of WGT, of a CTL
notice, of one row of ACT, and at the bridge. -/
theorem wit_RoutersForwardAndDeliverPackets :
    (let s := at0 (Tile.reset.setBuf 0 0 [{ pkt 0 0 0 0 [] with hdr := BitVec.ofNat 128 (1 <<< 4 + 4 <<< 8) }])
     let u := s.routerWork a0
     (s.meshStopped f0 || s.islandStopped a0 || (s.fieldSt f0).resetting) = false ∧ (u.pick a0 0).isSome = true ∧ u.nextHop a0 0 false = .dead) ∧
    (let p := pkt 0 127 0 0 []
     let u := (at0 (Tile.reset.setBuf 2 0 [p])).routerWork a0
     u.pick a0 1 = some (.buf 2, p) ∧ u.nextHop a0 1 false = .go a1) ∧
    (let p := pkt 2 1 0 0 []
     let u := (at0 { Tile.reset with merged := [p] }).routerWork a0
     u.pick a0 1 = some (.merged 0, p) ∧ u.nextHop a0 1 false = .go a1) ∧
    [(pkt 0 0 0 (6015 * 32 + 2 ^ 18) (List.replicate 32 1), 0), (pkt 1 0 0 0 (List.replicate 41 0), 1), (pkt 3 0 (2 + 4095 <<< 4) 0 [1, 0, 0, 0, 0, 0, 0, 0], 3)].all (fun x =>
      let p := x.1
      let u := (at0 (Tile.reset.setBuf 4 x.2 [p])).routerWork a0
      let v := u.tile a0
      !u.ringOf a0 4 x.2 && v.bufOf 4 x.2 == [p] && p.cls == x.2 && p.cur.isNone && EpEntry.typ p.entry == 0 && !u.tileFenced a0 && v.landing.isNone &&
        p.epoch == v.epoch && (x.2 != 0 || ((p.addr.testBit 18) && natBits 17 0 p.addr % 32 == 0 && p.body.length == 32 &&
          decide (natBits 17 0 p.addr + 32 ≤ openBytes true) && (v.seg 7).state == .active && v.gather.isEmpty))) = true ∧
    (let s := at0 (Tile.reset.setBuf 4 0 [pkt 0 0 0 0 []])
     let u := (s.setField f0 { s.fieldSt f0 with fence := [(0, 1)] }).routerWork a0
     u.tileFenced a0 = true ∧ (u.tile a0).bufOf 4 0 = [pkt 0 0 0 0 []]) ∧
    (let p := pkt 0 0 0 0 (List.replicate 8 0) 2
     let u := (at0 (Tile.reset.setBuf 4 0 [p])).routerWork a0
     EpEntry.typ p.entry = 2 ∧ (u.tile a0).bufOf 4 0 = [p] ∧ p.cur = none ∧ (u.getF F.MESH_DRAIN_STATE_ISO_SIDE 0).testBit 1 = false) := by
  and_intros <;> decide +kernel

/-- Commands in each power state that R259 names, an ABORT that finds a STOP in progress, sweeps that find and do not find the field quiet. -/
theorem wit_DrainsHoldAbortSweepAndRelease :
    let f : FieldAddr := ⟨1, 59⟩
    let cmd (m : Nat) : W64 := BitVec.ofNat 64 (m + 4)
    let ok (s : State) (m : Nat) : Bool := s.writeCode true ⟨.MESH, f.inst⟩ 0x098 true (cmd m) false (wbits (cmd m) 2 2 == 1 && s.getF F.MESH_DRAIN_CMD_BUSY f.inst == 1 &&
        !(wbits (cmd m) 1 0 == 1 && (s.fieldSt f).drain == some 0)) == 0
    let inPower (n : Nat) : State := up (raw State.reset ⟨.FPW, f.inst⟩ 0x088 (BitVec.ofNat 64 n))
    let draining (good : Nat) (t : Tile) : State := (up (raw (State.reset.setTile ⟨f, 95, 127⟩ t) ⟨.MESH, f.inst⟩ 0x098 8)).setField f { FieldSt.reset with drain := some 0, goodSweeps := good }
    [0, 1, 2].all (fun m => ok ready m && wbits (cmd m) 2 2 == 1 && wbits (cmd m) 1 0 == m) = true ∧ ready.getF F.FPW_STATE_POWER f.inst = 0 ∧
    [1, 2, 3].all (fun n => ok (inPower n) 0 && (inPower n).getF F.FPW_STATE_POWER f.inst == n) = true ∧
    ok (draining 0 Tile.reset) 1 = true ∧ ok (draining 0 Tile.reset) 0 = false ∧ ready.edgeHeld = [] ∧
    [0, 1].all (fun good => (draining good Tile.reset).fieldSt f == { FieldSt.reset with drain := some 0, goodSweeps := good } &&
      ((draining good Tile.reset).liveOf f).all (fun a => ((draining good Tile.reset).tile a).drained && (draining good Tile.reset).banksQuiet a)) = true ∧
    ((draining 0 { Tile.reset with dq := [(0, [dtok 0])] }).liveOf f = [⟨f, 95, 127⟩] ∧ ({ Tile.reset with dq := [(0, [dtok 0])] } : Tile).drained = false) := by
  and_intros <;> decide +kernel

/-- A router with a full south input of class 0 whose heads find no credit, spilling on, and packets in its ring. -/
def spilling (n : Nat) : State :=
  let t := (Tile.reset.setBuf 3 0 [pkt 0 1 0 0 [], pkt 0 1 0 0 []])
  raw (raw (raw ((State.reset.setTile a0 { t with spilled := List.replicate n (0, true, 0), spillInput := some 3 }).setTile a1 (Tile.reset.setBuf 4 0 [pkt 0 1 0 0 [], pkt 0 1 0 0 []]))
    ⟨.MESH, 0⟩ 0x088 1) ⟨.AEN, 0⟩ 0x090 3) ⟨.PAS, 0⟩ 0x080 0x1000

/-- A link inside a field and one to a neighbour field, and the last neighbour that R261 allows; a spill with none and with one packet short of
a full ring; a restore of a packet at its tile; a full ring in a full block; a watched packet, with and without a mismatch. -/
theorem wit_IsolationSpillsAndMeshFailuresAreKept :
    (neighbour a0 1 = some a1 ∧ (State.reset.fieldSt f0).lost = false ∧ State.reset.isolated a0 1 false = false ∧ State.reset.isolated a0 1 true = false) ∧
    (let a : TileAddr := ⟨f0, 0, 127⟩
     let c := (neighbour a 1).getD a
     c.fld ≠ f0 ∧ State.reset.getF F.FPW_STATE_POWER c.fld.inst = 0 ∧ (State.reset.fieldSt c.fld).resetting = false) ∧
    [0, 24].all (fun n =>
      let s := spilling n
      let b := s.tile a0
      !(s.meshStopped f0 || s.islandStopped a0 || (s.fieldSt f0).resetting) && s.getF F.MESH_DL_CTL_DL_EN 0 == 1 && b.spilled.length == n &&
        [1, 2, 3, 4].find? (s.spillBlocked a0 (s.getF F.MESH_DL_CTL_SPILL_VC 0)) == some 3 && (b.bufOf 3 0).length == 2 && b.ringWrite == 0 && b.gather.isEmpty && b.ecc.isEmpty) = true ∧
    (let s := State.reset.setTile a0 { Tile.reset with spilled := [(0, true, 0)], spillInput := some 3 }
     match (s.tile a0).ringHead with
     | some p => p.cls ≠ 2 ∧ p.dir = none ∧ (s.deliver a0 p).isSome = true ∧ (s.readSlot a0).2 = true ∧ ((s.readSlot a0).1.deliver a0 p).isSome = true
     | none => False) ∧
    (let s := spilling 25
     s.getF F.MESH_DL_CTL_DL_EN 0 = 1 ∧ s.blockFull f0 0 = true ∧
       (s.liveOf f0).find? (fun x => x.block == 0 && decide (25 ≤ (s.tile x).spilled.length)) = some a0 ∧ ((s.tile a0).ringHead).isSome = true) ∧
    ((spilling 0).watched a0)[0]? = some (pkt 0 1 0 0 []) ∧
    ((spilling 0).getF F.AEN_PASS_STATE_STATE 0 = 3 ∧ (spilling 0).getF F.PAS_RUN_IN_PASS 0 = 1 ∧ (spilling 0).getC C.MESH_RED_MISMATCH 0 = 0) := by
  and_intros <;> decide +kernel

/-- Reads and writes of each table, at its last item, with the field held and drained, and not; a bad item. -/
theorem wit_TableAccessesReadAndWriteTheirItem :
    let cmd (table item lo op : Nat) : W64 := BitVec.ofNat 64 (table + item <<< 2 + lo <<< 18 + op <<< 22 + 1 <<< 24)
    let held (d : W64) : State := up (raw (raw State.reset ⟨.MESH, 0⟩ 0x0A0 3) ⟨.FEP, 0⟩ 0x088 d)
    [(0, 65535, 0), (1, 95 + 127 <<< 7, 15), (2, 95 + 127 <<< 7, 0)].all (fun x => [0, 1].all (fun op => [ready, held 1].all (fun s =>
      let v := cmd x.1 x.2.1 x.2.2 op
      let t := wbits v 1 0
      s.writeCode true ⟨.FEP, 0⟩ 0x080 true v ((t == 1 || t == 2) && decide (95 < wbits v 8 2) || t == 1 && wbits v 17 16 != 0) (s.getF F.FEP_SEL_BUSY 0 == 1) == 0 &&
        wbits v 24 24 == 1 && wbits v 23 22 == op && t == x.1 && (t == 0 || (fepTile f0 (wbits v 17 2)).isSome)))) = true ∧
    (ready.getF F.MESH_DRAIN_STATE_HELD 0 = 0 ∧ (held 1).getF F.MESH_DRAIN_STATE_HELD 0 = 1 ∧ (held 1).getF F.MESH_DRAIN_STATE_DRAINED 0 = 1) ∧
    (fepBad 0 1 = false ∧ fepBad 0 (BitVec.ofNat 128 (3 <<< 14)) = true ∧ fepBad 1 5 = false ∧ fepBad 1 1 = true ∧ fepBad 2 1 = false) := by
  and_intros <;> decide +kernel

/-! ### Passes, streams, engines and steps -/

/-- A record with its opcode and operands from byte 48 on, at ring index 0, in a stage. -/
def recOf (stage : RecStage) (opc wm : Nat) (opds payload : List Byte) (flags : Nat := 0) : EngRec :=
  { index := 0, raw := [BitVec.ofNat 8 opc, 0, 0, BitVec.ofNat 8 flags] ++ leBytes 4 wm ++ List.replicate 22 0 ++ [0, 0] ++ List.replicate 16 0 ++ opds
    payload := payload, check := 0, stage := stage, retired := false, sat := (false, false), matched := [] }

/-- The state with a record in queue q of engine e. -/
def withRec (s : State) (e q : Nat) (r : EngRec) : State := s.setQueue e q { EngQueue.reset with recs := [r] }

/-- PASS_STATE of plane 1, with PASS_STATE.REUSE. -/
def inPassState (n : Nat) (reuse : Nat := 0) (s : State := State.reset) : State := raw s ⟨.AEN, 1⟩ 0x090 (BitVec.ofNat 64 (n + reuse <<< 16))

/-- The whole plane held and drained. -/
def allQuiet (s : State) : State := (List.range 60).foldl (fun s n => raw s ⟨.MESH, 64 + n⟩ 0x0A0 3) s

def cause0 (plane : Fin 2) (age : Nat) : PassCause :=
  { plane := plane, cause := 2, hardware := true, slot := 55, row := 95, col := 127, task := 3, named := true, cyc := 7, age := age }

/-- The commit, an accepted PASS_RUN, each state of a pass without and with SPAN, the abort, notices of this waymark and of others. -/
theorem wit_PassesGoThroughTheirStates :
    (let s := (allQuiet State.reset).setAe 1 { ArrayEng.reset with placing := some (63, 0, 64) }
     (s.ae 1).placing = some (63, 0, 64) ∧ (s.wholeFields 1).all (fun f => (s.fieldSt f).drain.isNone && s.quiet f) = true ∧ (s.wholeFields 1).length = 60) ∧
    (let r := recOf .started 0x21 7 ([5, 0, 0, 0, 0, 0, 0, 0] ++ [0, 0, 31, 0, 0, 0, 0, 0]) []
     let s := { withRec (raw State.reset ⟨.AEN, 1⟩ 0x088 5) 2 63 r with edge := [(edgeKey 1 14, 1), (edgeKey 1 49, 1)] }
     s.findStarted (arrayCode 1) [opPassRun] = some (63, r) ∧ s.passRefusal 1 r.raw = 0) ∧
    (let s := inPassState 1
     s.passState 1 = 1 ∧ (s.ae 1).held = false ∧ (s.ae 1).span = false ∧ s.causeWaits 1 = false ∧ s.ctxs = [] ∧ s.passFields 1 = []) ∧
    [false, true].all (fun span =>
      let s := ({ inPassState 1 with regs := (raw (raw (inPassState 1) ⟨.MESH, 123⟩ 0x0A0 3) ⟨.PAS, 123⟩ 0x080 0x1000).regs }).setAe 1 { ArrayEng.reset with held := true, span := span }
      let img := s.image 1 (s.ae 1).image
      let r := s.readPass 1 img 0
      s.passState 1 == 1 && (s.ae 1).held && !s.causeWaits 1 && s.passFields 1 == [⟨1, 59⟩] && (s.passFields 1).all (fun f => s.quiet f) && s.passReady 1 &&
        s.ctxs.isEmpty && !r.2 && !(r.1.loadFields 1 img 0).causeWaits 1) = true ∧
    (let s := (inPassState 2).setAe 1 { ArrayEng.reset with span := true, entered := true }
     s.passState 1 = 2 ∧ s.getF F.AEN_PASS_STATE_REUSE 1 = 0 ∧ (s.ae 1).entered = true ∧ s.causeWaits 1 = false ∧ s.passReady 1 = true) ∧
    (let s := (raw (inPassState 2 1) ⟨.PWR, 0⟩ 0x0C8 4).setAe 1 { ArrayEng.reset with span := true, entered := true }
     s.passState 1 = 2 ∧ s.getF F.AEN_PASS_STATE_REUSE 1 ≠ 0 ∧ s.causeWaits 1 = false ∧ s.ctxs = [] ∧ s.passReady 1 = true ∧ s.bridgeReady = true) ∧
    ((inPassState 3).passState 1 = 3 ∧ (inPassState 3).causeWaits 1 = false ∧ (inPassState 3).allDone 1 = true) ∧
    ((inPassState 4).passState 1 = 4 ∧ (inPassState 4).passFields 1 = [] ∧ (inPassState 7).passState 1 = 7) ∧
    (let s := { inPassState 5 with causes := [cause0 0 0, cause0 1 3] }
     decidingCause (s.causes.filter (fun (c : PassCause) => c.plane == 1)) = some (cause0 1 3) ∧ s.passLive 1 = true ∧ s.getF F.AEN_FAIL_VALID 1 = 0) ∧
    (let s := (inPassState 5).setAe 1 { ArrayEng.reset with span := true, spans := 1 }
     s.fldWm 1 = 0 ∧ s.passWm 1 = 0 ∧ s.passLive 1 = true ∧ (s.ae 1).span = true ∧ (s.ae 1).spans = 1) := by
  and_intros <;> decide +kernel

/-- A stream descriptor of 64 bytes from address 64 in two panels, to endpoint 1, with sid 5. -/
def desc (fmt : Nat := 3) (dest : Nat := 0) (server : Bool := false) (ring : Nat := 0) (stride : Nat := 1) : List Byte :=
  leBytes 8 64 ++ [0, 0, 0, 0, if server then 1 else 0, BitVec.ofNat 8 fmt, 1, 0] ++ leBytes 8 (stride + 64 <<< 40) ++ List.replicate 32 0 ++ leBytes 8 (if fmt < 5 then 0 else 4096) ++
    [BitVec.ofNat 8 dest, BitVec.ofNat 8 ring, 1, 0, 1, 0, 0, 0] ++ List.replicate 16 0 ++ [5, 0, 0, 0] ++ List.replicate 36 0

/-- The injection router of group 0 of plane 0, a tile below a0; endpoint 1 at a1; an edge memory of 1 GiB. -/
def aInj : TileAddr := ⟨f0, 1, 0⟩
def routed (s : State) : State :=
  (raw (raw s ⟨.EMP, 0⟩ 0x080 0x40000000) ⟨.SEN, 0⟩ 0x340 (BitVec.ofNat 64 (1 + 128 <<< 10))).setField f0 { s.fieldSt f0 with ept := [(1, BitVec.ofNat 128 (1 + 129 <<< 26))] }

/-- Context 0 of plane 0, with the bytes of both panels, and with panel 0's alone. -/
def ctx0 (st : CtxState) (d : List Byte) (sent : Nat := 0) : StreamCtx :=
  { StreamCtx.reset with state := st, desc := d, entry := BitVec.ofNat 128 (1 + 129 <<< 26), router := (1, 128), sent := sent, next := 2, scaleSent := sent / 32
                         data := (List.range 128).map (fun i => (64 + i, 9)) ++ [(4096, 1), (4097, 1)] ++ (List.range 128).map (fun i => (16 * 2 ^ 48 + 64 + i, 9)) ++ [(16 * 2 ^ 48 + 4097, 1)] }
def withCtx (c : StreamCtx) : State := (routed State.reset).setCtx (ctxKey 0 0) c

def req0 (server : Bool) (sends : Nat) : StreamReq := { seq := 3, server := server, port := 31, chunk := 0, addr := 64, len := 32, bursts := [], sends := sends }

/-- An open; a cancel of every scope; a start with a path and without; the last packet of a TILE and of a TOWPATH stream and one before it, and a panel
whose scale bytes span two blocks; a request short of and at READ_RETRIES; a stalled stream; a release; a request to a stack, chosen by rank
and by starvation. -/
theorem wit_StreamsOpenDeliverInjectAndEnd :
    [desc, desc 5, desc 3 1].all (fun d =>
      let r := recOf .started 0x30 0 [] d
      let s := withRec (routed State.reset) 3 63 r
      s.findStarted 3 [opStreamOpen] == some (63, r) && !SDesc.bad d && !SDesc.outside d (s.edgeCapacity 0) &&
        (match s.streamPath 0 d with | .ok (_, t) => t == a1 | .error _ => false) && BitVec.ofNat 2 (RawRec.epoch r.raw) == (s.fieldSt f0).epoch) = true ∧
    (withRec (routed State.reset) 3 63 (recOf .started 0x30 0 [] desc)).freeContext 0 0 = some 0 ∧
    [0, 1, 2, 3].all (fun (scope : Nat) =>
      let r := recOf .started 0x31 0 ([BitVec.ofNat 8 scope] ++ List.replicate 15 0) []
      let s := withRec State.reset 3 63 r
      s.findStarted 3 [opStreamCancel] == some (63, r)) = true ∧
    (let s := withCtx (ctx0 .holding desc)
     let c := s.ctx (ctxKey 0 0)
     c.state = .holding ∧ (s.fieldSt (c.dest 0)).epoch = c.epoch ∧ s.fieldHeld (c.dest 0) = false ∧ s.getF F.ENG_WM_OPEN 3 = 0 ∧
       (match s.streamPath 0 c.d with | .ok _ => true | .error _ => false) = true ∧ (match s.streamPath 0 (desc 3 4) with | .ok _ => false | .error _ => true) = false ∧
       (match s.streamPath 0 (desc 0 5) with | .ok _ => false | .error c => c.1 < 7) = false) ∧
    [(desc, 32, 64), (desc, 0, 32), (desc 3 1, 32, 64)].all (fun x =>
      let s := withCtx (ctx0 .delivering x.1 x.2.1)
      let c := s.ctx (ctxKey 0 0)
      let cls := if c.d.towpath then 1 else 0
      tileAt 0 c.router.1 c.router.2 == some aInj && s.mayInject (ctxKey 0 0) c && (s.tile aInj).bufRoom 0 cls &&
        (match (if c.d.towpath then c.nextTow 0 else c.nextTile) with | some y => y.sent == x.2.2 | none => false) &&
        !(c.sent == c.d.panelLo c.done && c.d.mx && c.d.splits c.done)) = true ∧
    (let c := ctx0 .delivering (desc 5 0 false 0 2)
     let s := withCtx c
     s.mayInject (ctxKey 0 0) c = true ∧ c.nextTile.isSome = true ∧ (c.sent == c.d.panelLo c.done && c.d.mx && c.d.splits c.done) = true) ∧
    [1, 7, 8].all (fun n => let c := { ctx0 .holding (desc 3 0 true) with reqs := [req0 true n] }
      c.reqs.find? (fun r => r.server && r.seq == 3) == some (req0 true n) && (withCtx c).getF F.SEN_CTL_READ_RETRIES 0 < 8) = true ∧
    ((ctx0 .delivering desc).state = .delivering ∧ (ctx0 .ending desc).state = .ending ∧ (ctx0 .ending desc).reqs = []) ∧
    [[], [0]].all (fun starved =>
      let s := withCtx { ctx0 .holding desc with next := 0, data := [] }
      s.portReady 0 false 0 && (s.grant 0 false 0 starved).map (fun x => x.1) == some (ctxKey 0 0) &&
        (s.nextReq 0 (s.ctx (ctxKey 0 0)) false 0).isSome) = true := by
  and_intros <;> decide +kernel

/-- Queue 63 of engine 6 enabled, with rings of 64 entries and 63 records announced, and a record in it. -/
def engine (s : State) : State :=
  (((s.setF (F.ENG_QCFG_LOG2_SIZE 63) 6 6).setF (F.ENG_QCFG_ENABLE 63) 6 1).setF (F.ENG_CQCFG_LOG2_SIZE 63) 6 6).setF (F.ENG_QPTR_TAIL 63) 6 63

/-- A doorbell taken and one refused; a fetch that succeeds and one that fails; a head that starts and one that ends in its check; a NOP; a head with
an unmet wait and one whose waymark waits; a resume; each write of a queue's configuration. -/
theorem wit_EnginesFetchStartAndCompleteRecords :
    (let s := engine ready
     s.doorbellBad 6 63 true (BitVec.ofNat 64 (1 <<< 48 + 63)) = false ∧ s.doorbellBad 6 63 false 0 = true ∧ s.doorbellBad 6 63 true (BitVec.ofNat 64 (1 <<< 50)) = true ∧
       s.mayFetch 6 63 = true ∧ (s.queue 6 63).tries = 0 ∧ s.dmaHeld = false ∧
       (s.fetchRaw 6 63 (recOf .queued 0 0 [] []).raw 1).2.2 = true ∧ (s.fetchRaw 6 63 (recOf .queued 0 0 [] []).raw 0).2.2 = false) ∧
    (let h := recOf .queued 0 0 [] []
     let s := withRec (engine ready) 6 63 h
     s.nextHead 6 = some (63, .starts) ∧ (s.queue 6 63).head = some h) ∧
    (let h := { recOf .queued 0 0 [] [] with check := 3 }
     let s := withRec (engine ready) 6 63 h
     s.nextHead 6 = some (63, .ends 3) ∧ (s.queue 6 63).head = some h) ∧
    (let r := recOf .started 0 0 [] []
     (withRec (engine ready) 6 63 r).startedRec 6 63 [opNop] = some r) ∧
    (let h := { recOf .queued 0 0 [] [] with raw := List.replicate 8 0 ++ leBytes 4 (2 ^ 31) ++ [1, 0, 0, 0] ++ List.replicate 48 0 }
     let s := withRec (engine ready) 6 63 h
     s.enabled 6 63 = true ∧ s.waitsArmed 6 h = true ∧ s.waitsDone h = false ∧ s.cqRoom 6 63 = true ∧ s.stopped 6 63 = false) ∧
    (let h := recOf .queued 0 7 [] []
     let s := withRec (engine ready) 6 63 h
     h.check = 0 ∧ s.wmCond 6 h.raw = .waits) ∧
    (let s := (engine ready).setF (F.ENG_QSTAT_STATE 63) 6 4
     s.writeCode true ⟨.ENG, 6⟩ (queueReg 63 5) true 8 false (!s.stopped 6 63) = 0) ∧
    (let s := engine ready
     let ok (s : State) (k : Nat) (v : W64) : Bool :=
       s.writeCode true ⟨.ENG, 6⟩ (queueReg 63 k) true v ((k == 0 || k == 3) && v.toNat % 4096 != 0) (s.queueFixed 6 63 k v) == 0
     ok (s.setF (F.ENG_QPTR_FETCH 63) 6 63) 1 6 = true ∧ ok ready 1 (0x80 + 6) = true ∧ s.enabled 6 63 = true ∧ ready.enabled 6 63 = false ∧
       ok ready 0 4096 = true ∧ ok ready 3 4096 = true ∧ ok ready 4 4 = true) := by
  and_intros <;> decide +kernel

/-- A step of waymarks 3 to 4 on all engines, begun by a record of queue 63. -/
def step0 : StepSt :=
  { firstWm := 3, lastWm := 4, mask := 127, reruns := 15, made := 14, queue := 63, index := 0, fail := none, lastFail := none, rebound := false, aborted := false
    final := false, phase := .running, epochs := [], left := [], done := [], stopped := [] }
def failed (hw : Bool) : StepFail := { hardware := hw, engine := 6, queue := 63, index := 0, key := [1] }

/-- A step that opens at the last waymark with every engine; closes of its first and its last waymark; a marker write to a bound slot and to none; a
copy; a re-run and its rewind; an end at once and one that waits; an abort. -/
theorem wit_StepsBeginCloseRerunRewindAndEnd :
    (let r := recOf .started 0x10 0 (leBytes 4 (2 ^ 32 - 1) ++ leBytes 4 (2 ^ 32 - 1) ++ [127, 15, 0, 0, 0, 0, 0, 0]) []
     let s := withRec ready 0 63 r
     s.startedRec 0 63 [opStepBegin] = some r ∧ s.step = none ∧ s.getF F.FLT_RECOVERY_STATE 0 = 0 ∧ s.wmOrder (RawRec.opd r.raw 48 4) (RawRec.opd r.raw 52 4) = false) ∧
    [3, 4].all (fun w =>
      let r := recOf .running 0x11 w (List.replicate 16 0) []
      let s := { withRec ready 0 63 r with step := some step0 }
      (s.queue 0 63).recs.find? (fun (r : EngRec) => r.busy && r.isClose) == some r && step0.phase == .running && step0.fail.isNone && !step0.aborted && s.wmDone r && RawRec.wm r.raw == w) = true ∧
    (let r := recOf .started 0x12 0 (leBytes 4 (2 ^ 31 + 2 ^ 18 + 55 * 4096 + 4095) ++ leBytes 4 5 ++ List.replicate 8 0) []
     let s := { withRec ready 0 63 r with slotOf := [(111, 60)] }
     s.startedRec 0 63 [opMarkerWrite] = some r ∧ s.refField (RawRec.opd r.raw 48 4) = some ⟨1, 59⟩ ∧ (s.fieldSt ⟨1, 59⟩).lost = false ∧ (s.fieldSt ⟨1, 59⟩).resetting = false ∧
       (withRec ready 0 63 r).refField (RawRec.opd r.raw 48 4) = none) ∧
    (let r := recOf .started 0x13 0 (List.replicate 16 0) []
     (withRec ready 0 63 r).startedRec 0 63 [opMilepostCopy] = some r) ∧
    (let x := { step0 with fail := some (failed true) }
     x.phase = .running ∧ x.mayRerun = true) ∧
    (let x := { step0 with phase := .rerunning }
     let s := { ready with step := some x }
     x.aborted = false ∧ x.final = false ∧ s.stepBusy x = [] ∧ s.recovering = false ∧ s.rerouteFields.all (fun f => s.quiet f) = true) ∧
    (let x := { step0 with fail := some (failed false) }
     let s := { ready with step := some x }
     let u := ({ s with step := some { x with phase := .ending } }).cancelStep x
     x.mustEnd = true ∧ (u.stepBusy x).all (fun r => r.2.2.isClose) = true) ∧
    (let x := { step0 with phase := .ending }
     let s := { withRec ready 6 63 (recOf .running 0 4 (List.replicate 16 0) []) with step := some x }
     (s.stepBusy x).all (fun r => r.2.2.isClose) = false) ∧
    ready.writeCode true ⟨.ENG, 0⟩ 0x0A0 true 1 false false = 0 := by
  and_intros <;> decide +kernel

/-- Plane 1 with an edge memory of 1 GiB in one stack. -/
def edged (s : State) : State := raw (raw (raw s ⟨.EMP, 1⟩ 0x080 0x40000000) ⟨.EMP, 1⟩ 0x088 1) ⟨.HBM, 32⟩ 0x080 8

/-- The same with node number 64 and port 31 of the plane up. -/
def linked (s : State) : State := raw (raw (edged s) ⟨.VLX, 0⟩ 0x088 64) ⟨.VPT, 63⟩ 0x088 2

/-- An exchange descriptor of 4,096 bytes in the format, in frames of 2,048. -/
def exDesc (fmt : Nat) : List Byte :=
  leBytes 8 64 ++ leBytes 8 4096 ++ leBytes 4 (2 <<< 24) ++ leBytes 4 9 ++ leBytes 8 128 ++ leBytes 8 77 ++ leBytes 4 (2 ^ 31) ++ leBytes 2 2048 ++ [BitVec.ofNat 8 fmt, 64] ++ List.replicate 16 0
def exRec (opc fmt : Nat) : EngRec := recOf .started opc 0 (List.replicate 16 0) (exDesc fmt)

/-- The exchange of exDesc once it has sent one of its two frames, which waits for its answer or in back-off. -/
def exch0 (backoff : Bool) (bytes : Nat := 4096) : Exch :=
  { exchOf 1 63 (exRec 0x41 0) opWrite with next := 1, bytes := bytes, total := bytes / 2048
                                            out := [{ k := 0, port := some 31, frame := Frame.ofBytes [], backoff := backoff }] }

/-- An ACCUMULATE and a WRITE that start, a bad format, a SIGNAL, a cancel of everything; the last frame of an exchange, sent and unreadable, and the
timeouts of the first. -/
theorem wit_ExchangesStartSendRetryAndEnd :
    [(0x40, 1, opAccum), (0x41, 0, opWrite)].all (fun x =>
      let r := exRec x.1 x.2.1
      let s := withRec (linked ready) 6 63 r
      s.findStarted 6 [x.1] == some (63, r) && !badExch r.payload x.2.2 && decide ((exchOf 1 63 r x.2.2).src + (exchOf 1 63 r x.2.2).bytes ≤ s.edgeCapacity 1) && s.anyPort 1) = true ∧
    badExch (exDesc 7) opAccum = true ∧
    (let r := recOf .started 0x42 0 (leBytes 4 (2 <<< 24) ++ leBytes 4 1 ++ leBytes 8 (2 ^ 31)) []
     let s := withRec (linked ready) 6 63 r
     s.findStarted 6 [opExchSignal] = some (63, r) ∧ s.anyPort 1 = true) ∧
    (let r := recOf .started 0x43 0 ([3] ++ List.replicate 15 0) []
     (withRec (linked ready) 6 63 r).findStarted 6 [opExchCancel] = some (63, r)) ∧
    [false, true].all (fun back => [EccMark.good, .uncorr].all (fun m =>
      let x := exch0 back
      let s := { linked ready with exchs := [x], edgeMark := if m = EccMark.good then [] else [(burstKey 1 33, m)] }
      s.exch 0 == some x && !s.exBridged x && decide (x.next < x.total) && decide (x.out.length < x.window) && (s.exPort x).isSome && s.node != 0 &&
        (s.edgeRead 1 (x.src + 2048) 2048 .exchange).2.2 == (m == .uncorr) && (x.out.find? (fun f => f.k == 0)).map (fun f => f.backoff) == some back)) = true := by
  and_intros <;> decide +kernel

/-! ### Markers, frames, links, bridge and causeway -/

/-- Adds that saturate, a write; a watch that fires and one that times out; a channel of an engine that completes and one that stands. -/
theorem wit_MarkersWatchesAndBarriersComplete :
    ((State.reset.fieldSt f0).lost = false ∧ (State.reset.fieldSt f0).resetting = false ∧ State.reset.inLayby f0 = false) ∧
    [true, false].all (fun sat =>
      let w : Watch := { marker := 4095, value := 0xFFFFFFFF, cq := 3, token := 9, satisfied := sat }
      let s := at0 { Tile.reset with tasks := [(3, { TaskCtx.reset with watch := some w })], cq := [(3, List.replicate 15 (ctok 0))] }
      s.tileRuns a0 && ((s.tile a0).task 3).watch == some w && (s.tile a0).cqRoom 3) = true ∧
    (let s := { raw State.reset ⟨.MLW, 1⟩ 0x178 5 with aeArrived := [(31, true)] }
     s.canComplete 1 15 = true ∧ s.chEngine 1 15 = true) ∧
    (let s := raw State.reset ⟨.MLW, 1⟩ 0x178 5
     s.getF (F.MLW_CH_STATE 15) 1 = 1 ∧ s.canComplete 1 15 = false ∧ s.getF F.MLW_TO_FIRST_VALID 1 = 0) := by
  and_intros <;> decide +kernel

/-- A frame to an endpoint of node 64 from node 2, and the tag that it arrives with. -/
def frame (op ep len addr cid : Nat) (body : List Byte) (status : Nat := 0) (wm : Waymark := 3) : List Byte :=
  Frame.bytes { dest := 64 <<< 24 + ep, src := 2 <<< 24 + 5, op := op, flags := 1, fmt := 0, status := status, len := len, aux := 0, addr := addr, cid := cid, wm := wm, retain := 1, payload := body }
def ftag : W64 := VLink.reset.tag 0 false true
def window (s : State) : State := (s.setF F.VLX_INWIN_BASE_BASE 1 4096).setF F.VLX_INWIN_SIZE_SIZE 1 4096
def takes (s : State) (l : Nat) (b : List Byte) (row : Nat) : Bool := (s.recvFrame l ftag b).2 == .accepted && s.frameRow b == row
def win (cid : Nat) : List (Nat × DedupWin) := [(256 + 2, { high := cid, got := [cid] })]

/-- Each row of the table of frames: WRITE at the last byte of the window and past it, with each answer of deduplication, and to the causeway; SIGNAL;
TAINT of 32 bytes and of 8; READRESP for a context and for none; an answer for an exchange, of each kind, and for none; a frame of no row. -/
theorem wit_FramesArePerformedAnsweredOrRefused :
    [(8184, true), (8192, false)].all (fun x =>
      let b := frame 0 (epEdge 1) 8 x.1 70000 (List.replicate 8 1)
      let s := window (linked ready)
      let f := Frame.ofBytes b
      takes s 63 b 0 && epOf f.dest == epEdge 1 && decide (s.getF F.VLX_INWIN_BASE_BASE 1 ≤ f.addr) &&
        decide (f.addr + f.len ≤ s.getF F.VLX_INWIN_BASE_BASE 1 + s.getF F.VLX_INWIN_SIZE_SIZE 1) == x.2) = true ∧
    [([], Dedup.perform), (win 70000, .duplicate), (win 140000, .stale)].all (fun x =>
      (({ linked ready with windows := x.1 }).dedup 1 2 70000).1 == x.2) = true ∧
    (let b := frame 0 epCauseway 8 4088 0 (List.replicate 8 1)
     let m : ImportWin := { node := 2, plane := 1, base := 0, size := 4096, win := DedupWin.reset }
     takes (linked ready) 63 b 0 = true ∧ (linked ready).importing = none ∧ takes { linked ready with importing := some m } 63 b 0 = true ∧
       (Frame.ofBytes b).addr + (Frame.ofBytes b).len ≤ m.size ∧ (m.win.test 0).1 = .perform) ∧
    (let ref := 2 ^ 31 + 2 ^ 18 + 55 * 4096 + 4095
     let b := frame 2 epMarkers 8 ref 7 ([1, 0, 0, 0, 0, 0, 0, 0])
     let s := { linked ready with slotOf := [(111, 60)] }
     takes s 63 b 1 = true ∧ (Frame.ofBytes b).len = 8 ∧ leAt (Frame.ofBytes b).payload 4 4 = 0 ∧ (Frame.ofBytes b).addr = ref ∧ refEn ref = true ∧ natBits 30 19 ref = 0 ∧
       refSlot ref = 55 ∧ refPlane ref = 1 ∧ s.refField ref = some ⟨1, 59⟩ ∧ (s.dedup 1 2 7).1 = .perform ∧ leAt (Frame.ofBytes b).payload 0 4 = 1 ∧
       (({ s with windows := win 7 }).dedup 1 2 7).1 = .duplicate) ∧
    [32, 8].all (fun n => takes (linked ready) 63 (frame 5 epTaint n 0 7 (List.replicate n 1)) 2) = true ∧
    (let c := { ctx0 .delivering (desc 3 0 true) with reqs := [req0 true 1] }
     let s := { linked ready with ctxs := [(ctxKey 1 0, c)] }
     let cid := 3 <<< 29 + 1 <<< 28
     let b := frame 4 (epEdge 1) 32 64 cid (List.replicate 32 1)
     takes s 63 b 3 = true ∧ (s.ctx (ctxKey 1 (natBits 19 0 cid))) = c ∧ natBits 28 28 cid = 1 ∧ c.live = true ∧ c.gen.toNat = natBits 27 20 cid ∧
       c.bad = [] ∧ c.reqs.find? (fun r => r.server && r.seq == natBits 63 29 cid) = some (req0 true 1) ∧ natBits 28 28 3 ≠ 1) ∧
    [0, 1, 2, 6, 7, 8].all (fun st =>
      let b := frame 4 (epEdge 1) 0 0 77 [] st
      let f := Frame.ofBytes b
      let e : ExFrame := { k := 0, port := some 31, frame := { Frame.ofBytes [] with dest := f.src, cid := 77 }, backoff := false }
      let s := { linked ready with exchs := [{ exch0 false with out := [e] }] }
      takes s 63 b 4 && f.status == st && (s.exchs.findIdx? (fun x => x.plane == 1 && (x.out.find? (fun e => e.frame.dest == f.src && e.frame.cid == f.cid)).isSome)) == some 0 &&
        takes (linked ready) 63 b 4 && (linked ready).exchs.isEmpty) = true ∧
    takes (linked ready) 63 (frame 6 (epEdge 1) 0 0 7 []) 5 = true := by
  and_intros <;> decide +kernel

/-- Ports up in a state, with lanes failed, and a link that retries. -/
def port (l state lanes : Nat) (retry : Bool) (s : State) : State :=
  (raw s ⟨.VPT, l⟩ 0x088 (BitVec.ofNat 64 (state + lanes <<< 3))).setVlink l { VLink.reset with retry := retry, buf := [(4095, [1])] }

/-- Words of each kind for a port that is up; a bridge link and a port that lose lanes or fail, in each state; training that ends, with each set of
lanes; degrading, calibration, DISABLE and RETRAIN. -/
theorem wit_LinksReplayRetryDegradeAndFail :
    (let s := port 63 2 0 false ready
     let good := VLink.reset.tag 0 false false
     s.linkUp 63 = true ∧ tagGood (good ^^^ 1) = false ∧ tagGood (VLink.reset.tag 0 true false) = true ∧ wbits (VLink.reset.tag 0 true false) 26 26 = 0 ∧
       wbits (VLink.reset.tag 0 true false) 25 25 = 1 ∧ wbits (VLink.reset.tag 0 true false) 24 24 = 0 ∧ (s.vlink 63).txq = [] ∧
       (let t := ({ VLink.reset with rxAny := true }).tag 0 false false
        tagGood t = true ∧ wbits t 26 26 = 0 ∧ wbits t 25 25 = 0 ∧ wbits t 24 24 = 1)) ∧
    [(2, 0x0F), (5, 0x80), (4, 0x01), (3, 0xFF), (2, 0x11)].all (fun x =>
      let s := port 63 x.1 0 true ready
      let lanes : BitVec 8 := BitVec.ofNat 8 x.2
      s.linkUp 63 && (s.vlink 63).retry && s.getF F.VPT_STATE_STATE 63 == x.1 &&
        decide (((wbits lanes 3 0 ≠ 0 ↔ wbits lanes 7 4 = 0) ∧ x.1 < 4) ↔ x.2 = 0x0F)) = true ∧
    (port 63 1 0 false ready).getF F.VPT_STATE_STATE 63 = 1 ∧ ({ ready with bridgeTrain := [15] }).bridgeTrain.contains (79 - 64) = true ∧
    [(2, 0xF0), (3, 0x01)].all (fun x => let s := port 63 x.1 x.2 false ready
      s.getF F.VPT_STATE_STATE 63 == x.1 && s.getF F.VPT_STATE_FAILED_LANES 63 == x.2) = true ∧
    (let s := port 63 2 0 false (ready.setF F.VLX_CTL_CAL_EN 1 1)
     s.getF F.VLX_CTL_CAL_EN (63 / 32) = 1 ∧ s.getF F.VPT_STATE_STATE 63 = 2 ∧ (s.vlink 63).retry = false) ∧
    ready.writeCode true ⟨.VPT, 63⟩ 0x080 true 1 false false = 0 ∧ ready.writeCode true ⟨.VPT, 63⟩ 0x080 true 2 false false = 0 ∧ ready.getF F.VPT_CTL_DISABLE 63 = 0 := by
  and_intros <;> decide +kernel

/-- A bridged frame of plane 0 to endpoint 1, received at the injection router. -/
def bridged0 : BridgedFrame := { plane := 0, router := (1, 128), destEp := 1, srcEp := 0, aux := 0, addr := 0, wm := 0, payload := List.replicate 8 0 }

/-- A frame outside its pass, in it, and held; a sideband word and its loss; a retrain; each causeway command and its end. -/
theorem wit_BridgeAndCausewayCommandsWork :
    (let s := { routed State.reset with bridgeRx := [bridged0] }
     s.bridgeRx[0]? = some bridged0 ∧ (s.ae 0).span = false) ∧
    [0, 1].all (fun (held : Nat) =>
      let s := raw (raw ((routed State.reset).setAe 0 { ArrayEng.reset with span := true }) ⟨.AEN, 0⟩ 0x090 4) ⟨.MESH, 0⟩ 0x0A0 (BitVec.ofNat 64 held)
      (s.ae 0).span && s.passState 0 == 4 && s.passWm 0 == bridged0.wm && tileAt 0 1 128 == some aInj &&
        (s.bridgedPacket aInj bridged0).map (fun x => x.2) == some f0 && s.fieldHeld f0 == (held == 1) && (s.tile aInj).bufRoom 0 0) = true ∧
    ((raw State.reset ⟨.BRG, 0⟩ 0x090 3).sidebandGood 0 = true ∧ (raw State.reset ⟨.BRG, 0⟩ 0x090 3).sidebandGood 1 = true) ∧
    (ready.writeCode true ⟨.BRG, 0⟩ 0x080 true 1 false false = 0 ∧ ready.passState 0 = 0 ∧ ready.passState 1 = 0) ∧
    [(0, 0, 123), (1, 59, 123), (2, 59, 0), (3, 59, 135), (4, 135, 0)].all (fun x =>
      let s := raw (raw (raw (raw ready ⟨.CWY, 0⟩ 0x088 4096) ⟨.CWY, 0⟩ 0x090 4096) ⟨.CWY, 0⟩ 0x098 1) ⟨.CWY, 0⟩ 0x0A0 64
      let v : W64 := BitVec.ofNat 64 (x.1 + x.2.1 <<< 3 + x.2.2 <<< 11 + 1 <<< 19)
      let done := raw s ⟨.CWY, 0⟩ 0x080 (BitVec.ofNat 64 (x.1 + x.2.1 <<< 3 + x.2.2 <<< 11 + 1 <<< 20))
      wbits v 19 19 == 1 && wbits v 2 0 == x.1 && s.writeCode true ⟨.CWY, 0⟩ 0x080 true v (s.cwyBad v) (s.getF F.CWY_CMD_BUSY 0 == 1) == 0 && !s.cwyDead v &&
        done.getF F.CWY_CMD_BUSY 0 == 1 && done.getF F.CWY_CMD_OP 0 == x.1 && (x.1 != 2 || ((cwyField 59).isSome && (cwyField 0).isSome))) = true := by
  and_intros <;> decide +kernel

/-- A request whose burst is clean; a stack in service; the scrub at the plane's last burst and at a bad stack's; a write-back; every field in layby; the
leave of self-refresh; BAR4 up to the last byte of the memory and past it. -/
theorem wit_EdgeMemoryStacksWork :
    (let r : StreamReq := { req0 false 1 with bursts := [1] }
     let c := { ctx0 .holding desc with reqs := [r] }
     let s := (edged State.reset).setCtx (ctxKey 1 5) c
     (s.ctx (ctxKey 1 (5 % 2 ^ 20))).reqs.find? (fun x => !x.server && x.seq == 3) = some r ∧ c.state ≠ .ending ∧ c.bad = [] ∧ burstsOf 64 64 = [1] ∧
       s.stackDead 1 64 = false ∧ s.burstMark 1 1 = .good) ∧
    (raw State.reset ⟨.HBM, 55⟩ 0x080 2).stackState 1 23 = 2 ∧
    (let s := { raw (edged State.reset) ⟨.EMP, 1⟩ 0x080 (BitVec.ofNat 64 (2 ^ 30 + 1 <<< 48)) with scrubAt := [(1, 2 ^ 25 - 1)] }
     s.getF F.EMP_CTL_SCRUB_EN 1 = 1 ∧ s.getF F.EMP_CAPACITY_STACKS 1 = 1 ∧ look (fun _ => 0) s.selfRefresh 1 = 0 ∧ s.planeBursts 1 = 2 ^ 25 ∧
       s.stackDead 1 (64 * (2 ^ 25 - 1)) = false ∧ s.burstMark 1 (2 ^ 25 - 1) = .good ∧
       (let t := { s with edgeWb := [burstKey 1 9], edgeMark := [(burstKey 1 9, .correctable)] }
        t.edgeWb.contains (burstKey 1 9) = true ∧ t.burstMark 1 9 = .correctable ∧ t.stackDead 1 (64 * 9) = false)) ∧
    (let s := (List.range 60).foldl (fun s n => raw s ⟨.FPW, 64 + n⟩ 0x088 2) State.reset
     (List.finRange 60).all (fun f => s.inLayby ⟨1, f⟩) = true ∧ look (fun _ => 0) s.selfRefresh 1 = 0) ∧
    look (fun _ => 0) ({ State.reset with selfRefresh := [(1, 2)] }).selfRefresh 1 = 2 ∧
    (let s := raw (edged State.reset) ⟨.HIF, 0⟩ 0x088 1
     let addr := 2 ^ 30 * s.getF F.HIF_BAR4_WIN_BASE 0 + (2 ^ 30 - 8) % 2 ^ s.getF F.HIF_BAR4_SIZE_LOG2 0
     s.getF F.HIF_BAR4_WIN_PLANE 0 = 1 ∧ addr + 8 = s.edgeCapacity 1 ∧ s.edgeCapacity 1 < addr + 9 ∧ burstsOf addr 8 = [2 ^ 24 - 1] ∧
       s.stackDead 1 (64 * (2 ^ 24 - 1)) = false ∧ s.burstMark 1 (2 ^ 24 - 1) = .good) := by
  and_intros <;> decide +kernel

/-! ### Power, layby, heat, arithmetic -/

/-- Each bank in and out; a host cap; rack caps at the bounds and past them; coolant samples that give each state; input samples over the cap, in the
band and below it; the limiter. -/
theorem wit_InputPowerCapCoolantAndLimiterAct :
    ready.dark = 0 ∧ ready.bankIn 1 = true ∧ ({ ready with bankOn := 1 }).bankIn 1 = false ∧
    ready.capCode false (BitVec.ofNat 64 (38000 + 12000 <<< 16)) = 0 ∧ ({ ready with digests := [(1, [])] }).mgmtUp = true ∧
    [(460, 4095, 0, false, 3), (400, 449, 50, false, 3), (0, 4095, 0, true, 3), (401, 600, 0, false, 2), (170, 599, 0, false, 2), (169, 600, 0, false, 1), (170, 600, 0, false, 0)].all (fun x =>
      coolState x.1 x.2.1 x.2.2.1 x.2.2.2.1 == x.2.2.2.2) = true ∧
    ready.getF F.PWR_CAP_EFFECTIVE 0 = 38000 ∧ ready.getF F.PWR_CEIL_LIMITER 0 = 0 := by
  and_intros <;> decide +kernel

/-- The field f0 in a state of its own. -/
def fieldIn (g : FieldSt → FieldSt) : State := ready.setField f0 (g FieldSt.reset)

/-- A field whole, in reset, warned, and with a stopped island that has failed to lock before and has not; a stopped domain; the reference present. -/
theorem wit_FieldsWarnResetRecoverAndAreLost :
    [fieldIn id, fieldIn (fun x => { x with resetting := true }), fieldIn (fun x => { x with warned := true }),
      fieldIn (fun x => { x with stopped := 0x800, lockFail := true }), fieldIn (fun x => { x with stopped := 0x800 })].all (fun s => !(s.fieldSt f0).lost) = true ∧
    ((fieldIn id).fieldSt f0).resetting = false ∧ ((fieldIn id).fieldSt f0).warned = false ∧ ((fieldIn (fun x => { x with resetting := true })).fieldSt f0).resetting = true ∧
    ((fieldIn (fun x => { x with warned := true })).fieldSt f0).warned = true ∧
    [true, false].all (fun l => ((fieldIn (fun x => { x with stopped := 0x800, lockFail := l })).fieldSt f0).stopped.getLsbD 11 &&
      ((fieldIn (fun x => { x with stopped := 0x800, lockFail := l })).fieldSt f0).lockFail == l) = true ∧
    ready.stoppedClk.contains 18 = false ∧ ({ ready with stoppedClk := [6, 18] }).stoppedClk.contains 18 = true ∧ ({ ready with stoppedClk := [6, 18] }).stoppedClk.contains 6 = true ∧
    ready.refLost = false := by
  and_intros <;> decide +kernel

/-- FPW.CMD and FPW.STATE of f0. -/
def power0 (power temp : Nat) (busy : Option Nat) : State :=
  let s := raw ready ⟨.FPW, 0⟩ 0x088 (BitVec.ofNat 64 (power + temp <<< 15))
  match busy with | some op => raw s ⟨.FPW, 0⟩ 0x080 (BitVec.ofNat 64 (op + 1 <<< 4)) | none => s

/-- Each command, in a field that can sleep and in one that cannot; each end; a parked field cool enough by one degree. -/
theorem wit_FieldsEnterAndLeaveLaybyAndParking :
    [0, 1, 2, 3, 4].all (fun op => let v : W64 := BitVec.ofNat 64 (op + 8)
      wbits v 3 3 == 1 && wbits v 2 0 == op && ready.writeCode true ⟨.FPW, 0⟩ 0x080 true v false (ready.getF F.FPW_CMD_BUSY 0 == 1) == 0) = true ∧
    (raw ready ⟨.MESH, 0⟩ 0x0A0 3).sleepCode f0 true = 0 ∧ ready.sleepCode f0 true = 1 ∧
    (let s := power0 1 0 (some 0)
     s.getF F.FPW_STATE_POWER 0 = 1 ∧ s.fpwBusy f0 0 = true ∧ s.segsSettled f0 = true ∧ (s.fieldSt f0).slept = false) ∧
    [2, 3].all (fun op => let s := power0 0 50 (some op)
      s.getF F.FPW_STATE_POWER 0 == 0 && s.segsSettled f0 && s.fpwBusy f0 op) = true ∧
    (power0 3 0 none).getF F.FPW_STATE_POWER 0 = 3 ∧ ((power0 3 0 none).fieldSt f0).lost = false ∧ ((power0 3 0 none).fieldSt f0).resetting = false ∧
    [4, 5].all (fun p => (power0 p 94 (some 4)).fpwBusy f0 4 && (power0 p 94 (some 4)).getF F.FPW_STATE_POWER 0 == p) = true ∧
    (let s := power0 5 94 none
     s.getF F.FPW_STATE_POWER 0 = 5 ∧ s.getF F.FPW_CMD_BUSY 0 = 0 ∧ s.getF F.FPW_STATE_TEMP 0 + 10 < s.getF F.PWR_THERM_PARK 0) := by
  and_intros <;> decide +kernel

/-- A sample at TRIP, at PARK and below; a field at THROTTLE and 3 degrees and one below it; each command of PWR.LAYBY_CMD; the ends of both wakes. -/
theorem wit_FieldsActOnHeatAndLinksSleepAndWake :
    (ready.getF F.PWR_THERM_TRIP 0 = 115 ∧ ready.getF F.PWR_THERM_PARK 0 = 105 ∧ ready.getF F.PWR_THERM_THROTTLE 0 = 95 ∧ (ready.fieldSt f0).lost = false ∧
      (ready.fieldSt f0).resetting = false ∧ (ready.fieldSt f0).hot = false ∧ (inPassState 2).passKeeps 1 = true) ∧
    ((power0 0 95 none).fieldRuns f0 = true ∧ (power0 0 95 none).getF F.FPW_STATE_TEMP f0.inst = 95 ∧ (power0 0 91 none).fieldRuns f0 = true ∧
      (power0 0 91 none).getF F.FPW_STATE_TEMP f0.inst = 91) ∧
    [(0, 0, 63), (1, 0, 63), (0, 1, 0), (1, 1, 0)].all (fun x =>
      let v : W64 := BitVec.ofNat 64 (x.1 + x.2.1 <<< 1 + x.2.2 <<< 2 + 1 <<< 8)
      wbits v 8 8 == 1 && wbits v 0 0 == x.1 && wbits v 1 1 == x.2.1 && wbits v 7 2 == x.2.2 &&
        ready.writeCode true ⟨.PWR, 0⟩ 0x0B8 true v (wbits v 1 1 == 1 && wbits v 7 2 != 0) (ready.getF F.PWR_LAYBY_CMD_BUSY 0 == 1) == 0) = true ∧
    (raw ready ⟨.PWR, 0⟩ 0x0C0 (BitVec.ofNat 64 (2 ^ 63))).portInLayby 63 = true ∧ (raw ready ⟨.PWR, 0⟩ 0x0C8 2).getF F.PWR_BRIDGE_STATE 0 = 2 := by
  and_intros <;> decide +kernel

/-- An exact zero; the smallest sum, which rounds to zero in E4M3 with either sign. -/
theorem wit_ZeroSumsRoundToPlusZero :
    (ExactVal.zero.cls = .finite ∧ ExactVal.zero.toInt = 0) ∧
    [1, -1].all (fun v => let a : ExactVal := { ExactVal.zero with v := BitVec.ofInt 192 v }
      a.cls == .finite && a.toInt == v && (roundAt .rne 0 a.toInt.natAbs (-96) (Enc.ulp .e4m3 a.toInt.natAbs (-96))).1 == 0) = true := by
  and_intros <;> decide +kernel

theorem wit_Int8ElementsReadAndNeverHoldMinusTwo :
    ((255 : Nat) < 256) ∧ ((quantiseMx .mxInt8 .rne (fun _ => 0) (List.replicate 32 (0xBF800000#32))).2.1).length = 32 := by
  and_intros <;> decide +kernel

/-! ### Host interface, resets, self-tests, firmware, reports -/

/-- RESUME and DISCARD of a DMA that is held; a fetch that has failed once and one that has failed three times; a request of each kind. -/
theorem wit_HostResetsHeldDmaAndMailboxAct :
    (let s := raw ready ⟨.HIF, 0⟩ 0x098 1
     s.getF F.HIF_DMA_CTL_HELD 0 = 1 ∧ [2, 4].all (fun n => let v : W64 := BitVec.ofNat 64 n
       s.writeCode true ⟨.HIF, 0⟩ 0x098 true v false (wbits v 2 1 != 0 && s.getF F.HIF_DMA_CTL_HELD 0 == 0) == 0) = true ∧
       s.d3hot = false ∧ ({ s with d3hot := true }).d3hot = true ∧ wbits (2 : W64) 1 1 = 1 ∧ wbits (2 : W64) 2 2 = 0 ∧ wbits (4 : W64) 2 2 = 1 ∧ wbits (4 : W64) 1 1 = 0) ∧
    [1, 2, 3].all (fun n =>
      let s := (engine ready).setQueue 6 63 { EngQueue.reset with tries := n }
      s.mayFetch 6 63 && (s.queue 6 63).tries == n && s.getF (F.ENG_QCFG_LOC 63) 6 == 0 && s.getF F.HIF_DMA_CTL_HELD 0 == 0 && !s.engineOpen 6) = true ∧
    ready.dark = 0 ∧ leAt [1, 0, 0, 0] 0 1 = 1 ∧ leAt ([2, 0, 0, 0, 0, 0, 0, 0, 0, 0xF0, 0, 0] : List Byte) 0 1 = 2 ∧
    leAt ([2, 0, 0, 0, 0, 0, 0, 0, 0, 0xF0, 0, 0] : List Byte) 8 4 = 61440 := by
  and_intros <;> decide +kernel

/-- SYS.STATE of start-up at a step, in the second boot. -/
def starting (step : Nat) : State := raw State.reset ⟨.SYS, 0⟩ 0x080 (BitVec.ofNat 64 (step <<< 3 + 2 ^ 32))

/-- The last bank lost; REF lost; both banks back; an Administrator's reset and a written one; a new bank that is not READY; each start-up step that
needs no free value; the pins of a sound state. -/
theorem wit_ResetsStartUpAndPinsAct : State.reset.Sound ∧ State.reset.dark = 0 ∧
    (let s := { ready with bankOn := 0 }
     s.bankOn = 0 ∧ s.dark ≠ 1) ∧
    [1, 2].all (fun n => let s := { ready with dark := n }
      s.bankOn != 0 && s.dark == n) = true ∧
    (let s := { ready with digests := [(1, [])] }
     s.mgmtUp = true ∧ s.getF F.SYS_STATE_STATE 0 ≠ 3) ∧
    (let v : W64 := BitVec.ofNat 64 (0x0A5C + 1 <<< 16)
     ready.writeCode true ⟨.SYS, 0⟩ 0x098 true v (wbits v 15 0 != 0x0A5C) (ready.getF F.SYS_STATE_STATE 0 == 3) = 0 ∧ wbits v 16 16 = 1) ∧
    (let s := { starting 2 with fresh := [(3, 1)] }
     s.dark = 0 ∧ s.getF F.SYS_STATE_STATE 0 ≠ 1 ∧ s.fresh.any (fun e => e.2 == 1) = true) ∧
    [0, 2, 4, 5, 6].all (fun n => (starting n).dark == 0 && (starting n).getF F.SYS_STATE_STATE 0 == 0 && (starting n).getF F.SYS_STATE_STEP 0 == n) = true ∧
    ready.dark = 0 ∧ (raw ready ⟨.SYS, 0⟩ 0x0A0 0x20).getF F.SYS_TEST_BUSY 0 = 1 := by
  refine ⟨wit_StepKeepsSound, ?_⟩
  and_intros <;> decide +kernel

/-- SYS.TEST_ARG. -/
def testArg (plane field a b : Nat) (s : State := ready) : State := raw s ⟨.SYS, 0⟩ 0x0A8 (BitVec.ofNat 64 (plane + field <<< 1 + a <<< 7 + b <<< 15))

/-- The field of the test bound to slot 55 with a step open. -/
def testHeld (s : State) : State := { s with slotOf := [(55, 60)], step := some step0 }

/-- Each operation, at the last of its targets, before READY and in it; a field of an open step, with NOWAIT and without; a request that is held and
free again; a test that runs. -/
theorem wit_SelfTestsAreRefusedHeldRunAndEnd :
    [(0, testArg 1 59 0 0), (1, testArg 0 59 0 0), (2, testArg 0 0 63 0), (3, testArg 1 127 255 255), (4, testArg 0 0 135 0)].all (fun x =>
      let v : W64 := BitVec.ofNat 64 (x.1 + 16)
      [x.2, raw x.2 ⟨.SYS, 0⟩ 0x080 2].all (fun s => s.writeCode true ⟨.SYS, 0⟩ 0x0A0 true v (s.testRange x.1) (s.getF F.SYS_TEST_BUSY 0 == 1) == 0 &&
        !(s.testFields x.1).any (fun f => s.testBlocked f) && decide (s.cwyPowered < 32))) = true ∧
    (let s := testHeld (testArg 0 59 0 0)
     [16, 24].all (fun n => let v : W64 := BitVec.ofNat 64 n
       wbits v 4 4 == 1 && wbits v 2 0 == 0 && s.writeCode true ⟨.SYS, 0⟩ 0x0A0 true v (s.testRange 0) (s.getF F.SYS_TEST_BUSY 0 == 1) == 0 &&
         (s.testFields 0).any (fun f => s.testBlocked f)) = true) ∧
    (let s := raw (testArg 0 59 0 0) ⟨.SYS, 0⟩ 0x0A0 0x60
     s.getF F.SYS_TEST_HELD 0 = 1 ∧ s.getF F.SYS_TEST_OP 0 = 0 ∧ (s.testFields 0).any (fun f => s.testBlocked f) = false) ∧
    [0, 1, 2, 3, 4].all (fun op => let s := { raw ready ⟨.SYS, 0⟩ 0x0A0 (BitVec.ofNat 64 (op + 0x20)) with testRef := some (1, 2) }
      s.testRef != none && s.getF F.SYS_TEST_BUSY 0 == 1 && s.dark == 0 && s.getF F.SYS_TEST_OP 0 == op && s.testedFields.contains f0 && !s.tileFenced a0) = true := by
  and_intros <;> decide +kernel

/-- A state with the management controller up, in a debug state. -/
def managed (debug : Nat) : State := raw { ready with digests := [(1, [])] } ⟨.SEC, 0⟩ 0x080 (BitVec.ofNat 64 (debug + 8))

/-- Each operation on each stage; a seal in each fused state; the requests of the management controller. -/
theorem wit_FirmwareAndManagementRequestsAct :
    [0, 1, 2, 4, 5, 6, 8, 9, 10, 12, 13, 14].all (fun n => let v : W64 := BitVec.ofNat 64 (16 + n)
      wbits v 4 4 == 1 && ready.writeCode true ⟨.SEC, 0⟩ 0x0A8 true v false (ready.getF F.SEC_FW_CMD_BUSY 0 == 1) == 0 && wbits v 1 0 == n % 4 && decide (wbits v 1 0 ≤ 2)) = true ∧
    [1, 2].all (fun d => let v : W64 := BitVec.ofNat 64 (0x5EA1 <<< 16 + 1)
      let s := managed d
      s.writeCode true ⟨.SEC, 0⟩ 0x0B8 true v (wbits v 31 16 != 0x5EA1) (wbits v 0 0 == 1 && s.getF F.SEC_STATE_DEBUG 0 == 0) == 0 && wbits v 0 0 == 1) = true ∧
    [0, 1, 2].all (fun d => (managed d).mgmtUp && (managed d).dark == 0 && (managed d).getF F.SEC_STATE_DEBUG 0 == d) = true ∧
    ({ managed 1 with nonce := some [] }).nonce = some [] ∧ (raw (managed 1) ⟨.HIF, 0⟩ 0x080 0x100).getF F.HIF_LINK_WIDTH 0 ≠ 0 := by
  and_intros <;> decide +kernel

def rec0 : ErrRec :=
  { code := 0x2604, sev := 1, hardware := true, suspect := false, attempt := 0, waymark := 0, inst := 0, plane := 0, field := 0, slot := 0, unit := 0, lrow := 0
    lcol := 0, pcol := 0, temp := 0, railMv := 0, cycle := 0, opCode := 0, opKind := 0, detail := [] }

/-- A unit of tile a0 in the check store, with its shadow, its second run and its referee. -/
def unit0 (shadow : Option (TileAddr × List ExactVal)) (again referee : Option (List ExactVal)) : CheckUnit :=
  { tile := a0, task := 0, bank := 0, wm := 0, attempt := 0, u := 0, ops := [], orig := [ExactVal.zero], shadow := shadow, again := again, referee := referee }
def checking (u : CheckUnit) : State := { ready with checks := [u] }
def other : List ExactVal := [{ ExactVal.zero with v := 1 }]

/-- LKO enabled, reading entries of 64 ends at sequence number 2 of node n. -/
def looking (seq node : Nat) (edge : List (Nat × Byte)) : State :=
  { raw (raw (raw ready ⟨.LKO, 0⟩ 0x080 1) ⟨.LKO, 0⟩ 0x088 (BitVec.ofNat 64 (4096 + 4 <<< 48 + node <<< 53))) ⟨.LKO, 0⟩ 0x090 (BitVec.ofNat 64 seq) with edge := edge }

/-- A record with service firmware and without; HEAD up to TAIL; a map that just fits; a unit without a shadow, with one that agrees and with one that
differs; a lost field of a slot without a spare; an entry that is old, of another node, and next. -/
theorem wit_RecordsChecksRebindingAndLookoutAct :
    (let s := { ready with records := [rec0] }
     s.records = [rec0] ∧ s.svcRuns = true ∧ ({ s with dark := 1 }).svcRuns = false) ∧
    (let s := raw (raw ready ⟨.FLT, 0⟩ 0x088 8) ⟨.FLT, 0⟩ 0x090 5
     let v : W64 := BitVec.ofNat 64 (5 <<< 20)
     s.writeCode true ⟨.FLT, 0⟩ 0x090 true v (s.logHeadBad (wbits v 39 20)) false = 0) ∧
    (let s := raw ready ⟨.EMP, 0⟩ 0x080 (4096 + 10112)
     let v : W64 := BitVec.ofNat 64 (4096 + 1 <<< 48)
     wbits v 48 48 = 1 ∧ s.writeCode true ⟨.FLT, 0⟩ 0x0A0 true v (wbits v 47 0 % 4096 != 0 || decide (s.edgeCapacity 0 < wbits v 47 0 + (10112 + 16 * s.retained.length))) false = 0) ∧
    (let s := checking (unit0 none none none)
     s.checks[0]? = some (unit0 none none none) ∧ ((s.checkers a0)[0]?).isSome = true ∧ ((s.checkers a0)[1]?).isSome = true ∧
       (s.checkers a0).all s.canCheck = true ∧ s.canCheck a0 = true) ∧
    sameBank [ExactVal.zero] (unit0 none none none).orig = true ∧ sameBank other (unit0 none none none).orig = false ∧
    ready.recovering = false ∧
    (let s := { raw (allQuiet ready) ⟨.FLT, 0⟩ 0x0B8 (BitVec.ofNat 64 (3 + 55 <<< 3 + 1 <<< 9)) with slotOf := [(111, 60)] }
     let t := s.setField ⟨1, 59⟩ { FieldSt.reset with lost := true }
     let u := (List.finRange 59).foldl (fun (s : State) f => s.setField ⟨1, ⟨f.val, by omega⟩⟩ { FieldSt.reset with hot := true }) t
     u.recovering = true ∧ u.getF F.FLT_RECOVERY_PLANE 0 = 1 ∧ u.getF F.FLT_RECOVERY_SLOT 0 = 55 ∧ u.passLive 1 = false ∧ u.passState 1 ≠ 7 ∧ (u.ae 1).placing = none ∧
       u.stepCancelled = true ∧ (u.wholeFields 1).all (fun f => u.quiet f) = true ∧ u.fieldOfSlot 1 55 = some ⟨1, 59⟩ ∧ u.needsRebind 1 55 = true ∧
       u.spareField 1 ⟨1, 59⟩ = none) ∧
    ready.getF F.LKO_CTL_EN 0 = 0 ∧
    [(2, 0, 1, 0), (1, 3, 1, 0), (1, 3, 1, 3), (1, 0, 1, 7)].all (fun x =>
      let at0 := 4096 + 32 * x.1
      let s := looking x.1 x.2.1 [(edgeKey 0 at0, BitVec.ofNat 8 x.2.2.1), (edgeKey 0 (at0 + 14), 0x80), (edgeKey 0 (at0 + 15), 0x7F),
        (edgeKey 0 (at0 + 16), BitVec.ofNat 8 x.2.2.2)]
      s.getF F.LKO_CTL_EN 0 == 1 && s.svcRuns && s.ringEntry == some (x.2.2.1, x.2.2.2, 0, 0x7F800000) && s.getF F.LKO_RING_SEQ_SEQ 0 == x.1) = true ∧
    (let s := { looking 1 0 [] with edgeMark := [(burstKey 0 65, .uncorr)] }
     ((s.report 0 0x7F800000).setF F.LKO_RING_SEQ_SEQ 0 2).ringEntry = none) := by
  and_intros <;> decide +kernel

/-- D3hot entered, and left with a held DMA and without; sizes of BAR4 at the bounds and past them. -/
theorem wit_ConfigurationSpaceSetsPowerAndBarSize :
    [30, 36].all (fun (v : Nat) => decide (30 ≤ v ∧ v ≤ 36)) = true ∧ [29, 37].all (fun (v : Nat) => decide (v < 30 ∨ 36 < v)) = true ∧ (1 < 2) ∧
    ready.getF F.HIF_DMA_CTL_HELD 0 = 0 ∧ (raw ready ⟨.HIF, 0⟩ 0x098 1).getF F.HIF_DMA_CTL_HELD 0 = 1 := by
  and_intros <;> decide +kernel

end Sys2Proof.Tests
end

section
/-!
PROOF of O26. A register write either stores its fields and shows OK in STATUS, or reports its code in STATUS and in DIR; a
selector write sets BUSY; an arriving snapshot fills its registers. The lemmas say once what `State.writeResult`, `State.regWrite`
and each snapshot do; the clauses of the statement are short uses of them.
-/
namespace Sys2Proof.Machine

variable {s t u : State}

/-! ### The vocabulary of the statement -/

/-- Of the whole state only the listed registers, and what interrupts send, changed. -/
def OnlyThese (ks : List (Page × Nat)) (s t : State) : Prop := OnlyRegs s t ∧ RegsBut ks s t

/-- The write result that STATUS shows to firmware or to the host (R532). -/
def State.statusFor (t : State) (fw : Bool) (p : Page) : Nat := wbits (t.reg p 0x020) (if fw then 7 else 3) (if fw then 4 else 0)

/-- The registers that a refused write may change: STATUS of its page and the report in DIR (R535). -/
def reportRegs (p : Page) : List (Page × Nat) :=
  [(p, 0x020), (⟨.DIR, 0⟩, 0x100), (⟨.DIR, 0⟩, 0x088), (⟨.DIR, 0⟩, 0x090), (⟨.DIR, 0⟩, 0x098), (⟨.DIR, 0⟩, 0x038)]

/-- From s to t a write was refused with a code and reported. -/
def RefusedWrite (s : State) (fw : Bool) (v : W64) (p : Page) (off code : Nat) (t : State) : Prop :=
  OnlyThese (reportRegs p) s t ∧ t.statusFor fw p = code ∧
    t.getC C.DIR_WR_REFUSED 0 = min (2 ^ 48 - 1) (s.getC C.DIR_WR_REFUSED 0 + 1) ∧
    (s.getF F.DIR_WR_FIRST_VALID 0 = 0 → t.getF F.DIR_WR_FIRST_CODE 0 = code ∧
      t.reg ⟨.DIR, 0⟩ 0x090 = BitVec.ofNat 64 ((p.base + off) % 2 ^ 26) ∧ t.reg ⟨.DIR, 0⟩ 0x098 = v)

/-- From s to t a write stored its RW fields and STATUS shows OK. -/
def SelectedWrite (s : State) (fw : Bool) (v : W64) (p : Page) (off : Nat) (t : State) : Prop :=
  OnlyThese [(p, off), (p, 0x020)] s t ∧ t.statusFor fw p = 0 ∧
    ∀ r, regSpec p.typ off = some r → ∀ g ∈ r.flds, g.acc = .rw →
      wbits (t.reg p off) g.hi g.lo = wbits (s.storedValue r p off v) g.hi g.lo

theorem OnlyThese.refl (ks : List (Page × Nat)) (s : State) : OnlyThese ks s s := ⟨OnlyRegs.refl, RegsBut.refl ks s⟩

theorem OnlyThese.setReg {ks : List (Page × Nat)} (h : OnlyThese ks s t) {p : Page} {off : Nat} {v : W64} (hm : (p, off) ∈ ks) :
    OnlyThese ks s (t.setReg p off v) := ⟨h.1.trans (State.setReg_only t p off v), h.2.setReg hm⟩

theorem OnlyThese.setF {ks : List (Page × Nat)} (h : OnlyThese ks s t) {f : Fld} {i v : Nat} (hm : ((⟨f.typ, i⟩ : Page), f.off) ∈ ks) :
    OnlyThese ks s (t.setF f i v) := h.setReg hm

theorem OnlyThese.mono {ks ls : List (Page × Nat)} (h : OnlyThese ks s t) (hl : ∀ x ∈ ks, x ∈ ls) : OnlyThese ls s t :=
  ⟨h.1, h.2.mono hl⟩

theorem OnlyRegs.dark (h : OnlyRegs s t) : t.dark = s.dark := by rw [h]

/-- Two offsets of one page below 4096 name different registers. -/
theorem regKey_ne_of_off {p : Page} {a b : Nat} (ha : a < 4096) (hb : b < 4096) (h : a ≠ b) : regKey p a ≠ regKey p b := by
  rw [Ne, regKey_eq]
  omega

theorem regKey_ne_of_typ {p q : Page} {a b : Nat} (h : p.typ ≠ q.typ) : regKey p a ≠ regKey q b := by
  rw [Ne, regKey_eq]
  exact fun e => h e.1

/-! ### STATUS -/

/-- The result of a write put into STATUS (R532). -/
def State.setStatus (s : State) (fw : Bool) (p : Page) (code : Nat) : State :=
  s.setReg p 0x020 (if fw then setBits (s.reg p 0x020) 7 4 code else setBits (s.reg p 0x020) 3 0 code)

theorem OnlyThese.setStatus {ks : List (Page × Nat)} (h : OnlyThese ks s t) {fw : Bool} {p : Page} {code : Nat}
    (hm : (p, 0x020) ∈ ks) : OnlyThese ks s (t.setStatus fw p code) := h.setReg hm

theorem State.statusFor_setStatus (fw : Bool) (p : Page) {code : Nat} (hc : code < 16) :
    (s.setStatus fw p code).statusFor fw p = code := by
  unfold State.statusFor State.setStatus
  rw [State.reg_setReg_same]
  cases fw
  · exact (wbits_setBits_same _ 3 0 code (by omega) (by omega)).trans (Nat.mod_eq_of_lt hc)
  · exact (wbits_setBits_same _ 7 4 code (by omega) (by omega)).trans (Nat.mod_eq_of_lt hc)

theorem State.reg_setStatus_ne (fw : Bool) (p q : Page) (code off : Nat) (h : regKey q off ≠ regKey p 0x020) :
    (s.setStatus fw p code).reg q off = s.reg q off := by
  unfold State.setStatus
  rw [State.reg_setReg, if_neg h]

/-- An accepted write reports nothing but OK. -/
theorem State.writeResult_ok (hd : s.dark = 0) {p : Page} (he : p.exists' = true) (fw : Bool) (off : Nat) (v : W64) :
    s.writeResult fw p off v 0 = s.setStatus fw p 0 := by
  simp [State.writeResult, State.setStatus, hd, he]

/-! ### The report of a refused write (R535) -/

/-- WR_FIRST as a refused write captures it: CODE, SOURCE, VALID and the waymark. -/
def State.firstRefusal (s : State) (fw : Bool) (code : Nat) : W64 :=
  BitVec.ofNat 64 (code + 16 * boolNat fw + 1 <<< 31 + s.runWm.toNat <<< 32)

theorem State.firstRefusal_code (fw : Bool) {code : Nat} (hc : code < 16) : wbits (s.firstRefusal fw code) 3 0 = code := by
  simp only [wbits, natBits, State.firstRefusal, BitVec.toNat_ofNat, Nat.shiftLeft_eq, Nat.shiftRight_zero]
  omega

/-- A refused write as STATUS shows it and DIR counts it. -/
def State.countRefusal (s : State) (fw : Bool) (p : Page) (code : Nat) : State :=
  (s.setStatus fw p code).count C.DIR_WR_REFUSED 0 1

/-- The registers that DIR captures of a refused write. -/
def State.refusalRegs (s : State) (fw : Bool) (p : Page) (off : Nat) (v : W64) (code : Nat) : List (Nat × W64) :=
  [(0x088, (s.setStatus fw p code).firstRefusal fw code), (0x090, BitVec.ofNat 64 ((p.base + off) % 2 ^ 26)), (0x098, v)]

/-- A refused write: STATUS, the count, and the first capture. -/
theorem State.writeResult_refused (hd : s.dark = 0) {p : Page} (he : p.exists' = true) (fw : Bool) (off : Nat) (v : W64) {code : Nat}
    (hc : code ≠ 0) :
    s.writeResult fw p off v code =
      (s.countRefusal fw p code).captureFirst F.DIR_WR_FIRST_VALID 0 (some 0) (s.refusalRegs fw p off v code) := by
  simp [State.writeResult, State.countRefusal, State.refusalRegs, State.setStatus, State.firstRefusal, hd, he, hc]

/-- What a capture writes reads as written, but for IRQ_STATUS. -/
theorem State.reg_capture (f : Fld) (i : Nat) (q : Option Nat) (vs : List (Nat × W64)) (p : Page) (off : Nat)
    (h : regKey p off ≠ regKey ⟨f.typ, i⟩ 0x038) :
    (s.capture f i q vs).reg p off = (vs.foldl (fun s v => s.setReg ⟨f.typ, i⟩ v.1 v.2) s).reg p off := by
  unfold State.capture
  cases q with
  | none => rfl
  | some b =>
    exact ((RegsBut.refl [(⟨f.typ, i⟩, 0x038)] _).setIrq (by simp)).reg p off (by simpa using h)

theorem RegsBut.capture {ks : List (Page × Nat)} (h : RegsBut ks s t) {f : Fld} {i : Nat} {q : Option Nat} {vs : List (Nat × W64)}
    (hv : ∀ x ∈ vs, ((⟨f.typ, i⟩ : Page), x.1) ∈ ks) (hq : ((⟨f.typ, i⟩ : Page), 0x038) ∈ ks) : RegsBut ks s (t.capture f i q vs) := by
  have hw : RegsBut ks s (vs.foldl (fun s v => s.setReg ⟨f.typ, i⟩ v.1 v.2) t) := h.foldl (fun _ x hx hu => hu.setReg (hv x hx))
  unfold State.capture
  cases q with
  | none => exact hw.keep (State.rose_regs _ _ _)
  | some b => exact (hw.keep (State.rose_regs _ _ _)).setIrq hq

theorem RegsBut.captureFirst {ks : List (Page × Nat)} (h : RegsBut ks s t) {f : Fld} {i : Nat} {q : Option Nat}
    {vs : List (Nat × W64)} (hv : ∀ x ∈ vs, ((⟨f.typ, i⟩ : Page), x.1) ∈ ks) (hq : ((⟨f.typ, i⟩ : Page), 0x038) ∈ ks) :
    RegsBut ks s (t.captureFirst f i q vs) := by
  unfold State.captureFirst
  split
  · exact h
  · exact h.capture hv hq

/-- A capture leaves every other register of its page as it was. -/
theorem State.reg_captureFirst_ne (f : Fld) (i : Nat) (q : Option Nat) (vs : List (Nat × W64)) (p : Page) (off : Nat)
    (hv : ∀ x ∈ vs, regKey p off ≠ regKey ⟨f.typ, i⟩ x.1) (h : regKey p off ≠ regKey ⟨f.typ, i⟩ 0x038) :
    (s.captureFirst f i q vs).reg p off = s.reg p off := by
  refine ((RegsBut.refl ((⟨f.typ, i⟩, 0x038) :: vs.map (fun x => (⟨f.typ, i⟩, x.1))) s).captureFirst
    (fun x hx => ?_) (by simp)).reg p off ?_
  · exact List.mem_cons_of_mem _ (List.mem_map.2 ⟨x, hx, rfl⟩)
  · intro x hx
    rcases List.mem_cons.1 hx with rfl | hx
    · exact h
    · obtain ⟨y, hy, rfl⟩ := List.mem_map.1 hx
      exact hv y hy

/-- A capture that finds VALID at 0 captures. -/
theorem State.captureFirst_free {f : Fld} {i : Nat} (h : s.getF f i = 0) (q : Option Nat) (vs : List (Nat × W64)) :
    s.captureFirst f i q vs = s.capture f i q vs := by
  simp [State.captureFirst, h]

theorem State.getC_count_narrow (c : Ctr) (i n : Nat) (hw : (ctrSpec c).wide = false) :
    (s.count c i n).getC c i = min (2 ^ 48 - 1) (s.getC c i + n) := by
  have hread : (s.count c i n).reg ⟨c.typ, i⟩ c.off = BitVec.ofNat 64 (min (ctrMax (ctrSpec c).wide) (s.getC c i + n)) :=
    State.reg_setReg_same _ _ _ _
  have hlt : min (2 ^ 48 - 1) (s.getC c i + n) < 2 ^ 64 := Nat.lt_of_le_of_lt (Nat.min_le_left _ _) (by decide)
  calc (s.count c i n).getC c i = (BitVec.ofNat 64 (min (2 ^ 48 - 1) (s.getC c i + n))).toNat := by
        rw [State.getC, hread, hw]; rfl
    _ = min (2 ^ 48 - 1) (s.getC c i + n) := by rw [BitVec.toNat_ofNat, Nat.mod_eq_of_lt hlt]

/-- Of the registers of DIR the count of a refusal changes WR_REFUSED alone. -/
theorem State.reg_countRefusal {p : Page} (hp : p.typ ≠ .DIR) (fw : Bool) (code : Nat) {off : Nat} (h : off % 4096 ≠ 0x100) :
    (s.countRefusal fw p code).reg ⟨.DIR, 0⟩ off = s.reg ⟨.DIR, 0⟩ off := by
  rw [State.countRefusal, State.count, State.reg_setReg, if_neg (by simpa [regKey_eq, C.DIR_WR_REFUSED] using h),
    State.reg_setStatus_ne _ _ _ _ _ (regKey_ne_of_typ (Ne.symm hp))]

theorem State.statusFor_countRefusal {p : Page} (hp : p.typ ≠ .DIR) (fw : Bool) {code : Nat} (hc : code < 16) :
    (s.countRefusal fw p code).statusFor fw p = code := by
  unfold State.statusFor
  rw [State.countRefusal, State.count, State.reg_setReg, if_neg (regKey_ne_of_typ hp)]
  exact State.statusFor_setStatus fw p hc

theorem State.getC_countRefusal {p : Page} (hp : p.typ ≠ .DIR) (fw : Bool) (code : Nat) :
    (s.countRefusal fw p code).getC C.DIR_WR_REFUSED 0 = min (2 ^ 48 - 1) (s.getC C.DIR_WR_REFUSED 0 + 1) := by
  have h : (s.setStatus fw p code).getC C.DIR_WR_REFUSED 0 = s.getC C.DIR_WR_REFUSED 0 :=
    congrArg BitVec.toNat (State.reg_setStatus_ne fw p ⟨.DIR, 0⟩ code 0x100 (regKey_ne_of_typ (Ne.symm hp)))
  rw [State.countRefusal, State.getC_count_narrow _ _ _ rfl, h]

/-- A refused write of a page other than DIR keeps its register and reports its code. -/
theorem State.writeResult_reports (hd : s.dark = 0) {p : Page} (he : p.exists' = true) (hp : p.typ ≠ .DIR) (fw : Bool) (off : Nat)
    (v : W64) {code : Nat} (hc : code ≠ 0) (hlt : code < 16) : RefusedWrite s fw v p off code (s.writeResult fw p off v code) := by
  have hcount : OnlyThese (reportRegs p) s (s.countRefusal fw p code) :=
    ((OnlyThese.refl _ s).setStatus (by simp [reportRegs])).setReg (by simp [reportRegs, C.DIR_WR_REFUSED])
  rw [State.writeResult_refused hd he fw off v hc]
  refine ⟨⟨hcount.1.trans (State.captureFirst_only _ _ _ _ _), hcount.2.captureFirst ?_ ?_⟩, ?_, ?_, fun hv => ?_⟩
  · simp [State.refusalRegs, reportRegs, F.DIR_WR_FIRST_VALID]
  · simp [reportRegs, F.DIR_WR_FIRST_VALID]
  · unfold State.statusFor
    rw [State.reg_captureFirst_ne _ _ _ _ _ _ (fun x _ => regKey_ne_of_typ hp) (regKey_ne_of_typ hp)]
    exact State.statusFor_countRefusal hp fw hlt
  · refine Eq.trans (congrArg BitVec.toNat (State.reg_captureFirst_ne _ _ _ _ _ _ ?_ ?_)) (State.getC_countRefusal hp fw code) <;>
      simp [State.refusalRegs, regKey_eq, C.DIR_WR_REFUSED, F.DIR_WR_FIRST_VALID]
  · have hfree : (s.countRefusal fw p code).getF F.DIR_WR_FIRST_VALID 0 = 0 :=
      (congrArg (fun w => wbits w 31 31) (State.reg_countRefusal hp fw code (off := 0x088) (by decide))).trans hv
    have hread (o : Nat) (ho : o % 4096 ≠ 0x038) := State.reg_capture (s := s.countRefusal fw p code)
      F.DIR_WR_FIRST_VALID 0 (some 0) (s.refusalRegs fw p off v code) ⟨.DIR, 0⟩ o (by simpa [regKey_eq, F.DIR_WR_FIRST_VALID] using ho)
    rw [State.captureFirst_free hfree]
    refine ⟨(congrArg (fun w => wbits w 3 0) (hread 0x088 (by decide))).trans ?_, (hread 0x090 (by decide)).trans ?_,
      (hread 0x098 (by decide)).trans ?_⟩
    · simpa [State.refusalRegs, State.reg_setReg, regKey_eq, F.DIR_WR_FIRST_VALID] using State.firstRefusal_code fw hlt
    · simp [State.refusalRegs, State.reg_setReg, regKey_eq, F.DIR_WR_FIRST_VALID]
    · simp [State.refusalRegs, F.DIR_WR_FIRST_VALID]

/-! ### The checks of a write (R532) -/

theorem Page.spec_some {p : Page} {off : Nat} {r : RegSpec} (h : p.spec off = some r) : p.exists' = true ∧ regSpec p.typ off = some r := by
  unfold Page.spec at h
  split at h
  · cases h
  · rename_i hn
    simp only [Bool.or_eq_true, Bool.not_eq_true', not_or, Bool.not_eq_false] at hn
    exact ⟨hn.1, h⟩

theorem State.dark_of_served {p : Page} (h : s.offline p = false) : s.dark = 0 := by
  simp only [State.offline, State.unserved, Bool.or_eq_false_iff, bne_eq_false_iff_eq] at h
  obtain ⟨⟨hdark, -⟩, -⟩ := h
  exact hdark

/-- An accepted write names a register of an existing page that is served. -/
theorem State.writeCode_accepted {fw : Bool} {p : Page} {off : Nat} {v : W64} {range state : Bool}
    (h : s.writeCode fw p off true v range state = 0) :
    s.dark = 0 ∧ p.exists' = true ∧ ∃ r, regSpec p.typ off = some r := by
  unfold State.writeCode at h
  cases hr : p.spec off with
  | none => simp [hr] at h
  | some r =>
    cases hs : s.offline p with
    | true => simp [hr, hs] at h
    | false =>
      obtain ⟨he, hspec⟩ := Page.spec_some hr
      exact ⟨State.dark_of_served hs, he, r, hspec⟩

theorem State.writeCode_le (fw : Bool) (p : Page) (off : Nat) (size : Bool) (v : W64) (range state : Bool) :
    s.writeCode fw p off size v range state ≤ 7 := by
  unfold State.writeCode
  repeat' split
  all_goals decide

/-! ### Accepted writes -/

/-- A write of IRQ_STATUS or IRQ_ENABLE that leaves an interrupt due sends it (R530). -/
def State.sendDue (s : State) (p : Page) (off : Nat) : State :=
  if (off == 0x038 || off == 0x040) && s.irqP p then s.sendIrq p else s

theorem State.sendDue_only (p : Page) (off : Nat) : OnlyRegs s (s.sendDue p off) := by
  unfold State.sendDue
  split
  · exact State.sendIrq_only s p
  · exact OnlyRegs.refl

theorem State.sendDue_regs (p : Page) (off : Nat) : (s.sendDue p off).regs = s.regs := by
  unfold State.sendDue
  split
  · exact State.sendIrq_regs p
  · rfl

theorem State.sendDue_other (p : Page) {off : Nat} (h : off ≠ 0x038) (h' : off ≠ 0x040) : s.sendDue p off = s := by
  simp [State.sendDue, h, h']

theorem State.regWrite_accepted {fw : Bool} {p : Page} {off : Nat} {v : W64} {range state : Bool} {action : State → State} {r : RegSpec}
    (h : s.writeCode fw p off true v range state = 0) (hr : regSpec p.typ off = some r) :
    s.regWrite fw p off true v range state action =
      (action ((s.setReg p off (s.storedValue r p off v)).sendDue p off)).writeResult fw p off v 0 := by
  simp only [State.regWrite, h, hr]
  rfl

theorem State.regWrite_refused {fw : Bool} {p : Page} {off : Nat} {v : W64} {range state : Bool} {action : State → State}
    (h : s.writeCode fw p off true v range state ≠ 0) :
    s.regWrite fw p off true v range state action = s.writeResult fw p off v (s.writeCode fw p off true v range state) := by
  simp [State.regWrite, h]

/-! ### Pages without registers of their own rules -/

/-- The page types none of whose registers has a command row. -/
def plainPages : List PageType := [.ARF, .PAS, .FEN, .HBM, .EMP, .AEN, .MLW, .VLX, .NRG, .LKO]

theorem State.pageWrite_plain {p : Page} (h : p.typ ∈ plainPages) (fw : Bool) (off : Nat) (v : W64) :
    s.pageWrite fw p off v =
      s.regWrite fw p off true v (s.ownRules p off v).1 (s.ownRules p off v).2 (fun s => s) := by
  obtain ⟨y, i⟩ := p
  simp only [plainPages, List.mem_cons, List.not_mem_nil, or_false] at h
  rcases h with rfl | rfl | rfl | rfl | rfl | rfl | rfl | rfl | rfl | rfl <;> rfl

theorem plainPages_not_dir {p : Page} (h : p.typ ∈ plainPages) : p.typ ≠ .DIR := by
  intro e
  rw [e] at h
  exact absurd h (by decide)

/-- REGISTER_WRITE of a page reaches the page. -/
theorem exec_registerWrite_page {addr : Nat} {p : Page} (hp : pageAt addr = some p) (hd : s.dark = 0) (h8 : addr % 8 = 0)
    (fw aligned : Bool) (v : W64) :
    exec (.registerWrite fw aligned false addr v) s =
      .next (if aligned then s.pageWrite fw p (addr % 4096) v else s.writeResult fw p (addr % 4096) v 1) := by
  change execRegisterWrite fw aligned false addr v s = _
  cases aligned <;> simp [execRegisterWrite, hp, hd, h8]

/-- An accepted write stores its value and shows OK. -/
theorem State.plainWrite_stores {fw : Bool} {p : Page} {off : Nat} {v : W64} {range state : Bool} {r : RegSpec}
    (h : s.writeCode fw p off true v range state = 0) (hr : regSpec p.typ off = some r) (ho : off < 4096) (hs : off ≠ 0x020) :
    let t := s.regWrite fw p off true v range state (fun s => s)
    OnlyThese [(p, off), (p, 0x020)] s t ∧ t.statusFor fw p = 0 ∧ t.reg p off = s.storedValue r p off v := by
  intro t
  obtain ⟨hd, he, -⟩ := State.writeCode_accepted h
  have hst : OnlyThese [(p, off), (p, 0x020)] s ((s.setReg p off (s.storedValue r p off v)).sendDue p off) :=
    have h1 : OnlyThese [(p, off), (p, 0x020)] s (s.setReg p off (s.storedValue r p off v)) := (OnlyThese.refl _ s).setReg (by simp)
    ⟨h1.1.trans (State.sendDue_only _ _), h1.2.keep (State.sendDue_regs _ _)⟩
  have ht : t = ((s.setReg p off (s.storedValue r p off v)).sendDue p off).setStatus fw p 0 :=
    (State.regWrite_accepted h hr).trans (State.writeResult_ok (hst.1.dark.trans hd) he fw off v)
  rw [ht]
  refine ⟨hst.setStatus (by simp), State.statusFor_setStatus fw p (by omega), ?_⟩
  rw [State.reg_setStatus_ne _ _ _ _ _ (regKey_ne_of_off ho (by omega) hs)]
  unfold State.reg
  rw [State.sendDue_regs]
  exact State.reg_setReg_same _ _ _ _

/-! ### Selectors -/

/-- An action that changes only its own register, and there only fields that are not RW, ends as a selector write. -/
theorem SelectedWrite.setStatus {fw : Bool} {p : Page} {off : Nat} {v : W64} (h : OnlyThese [(p, off)] s u) (ho : off < 4096)
    (hs : off ≠ 0x020)
    (hf : ∀ r, regSpec p.typ off = some r → ∀ g ∈ r.flds, g.acc = .rw →
      wbits (u.reg p off) g.hi g.lo = wbits (s.storedValue r p off v) g.hi g.lo) :
    SelectedWrite s fw v p off (u.setStatus fw p 0) := by
  refine ⟨(h.mono (by simp)).setStatus (by simp), State.statusFor_setStatus fw p (by omega), fun r hr g hg ha => ?_⟩
  rw [State.reg_setStatus_ne _ _ _ _ _ (regKey_ne_of_off ho (by omega) hs)]
  exact hf r hr g hg ha

/-- A register with a BUSY bit above its RW fields, in a place of its own on its page. -/
structure Fld.IsBusy (b : Fld) : Prop where
  bit : b.hi = b.lo
  width : b.hi < 64
  off : b.off < 4096
  status : b.off ≠ 0x020
  irq : b.off ≠ 0x038 ∧ b.off ≠ 0x040
  above : ((regSpec b.typ b.off).all (fun r => r.flds.all (fun g => !(g.acc == .rw) || decide (g.hi < b.lo)))) = true

theorem Fld.IsBusy.above_rw {b : Fld} (hb : b.IsBusy) {r : RegSpec} (hr : regSpec b.typ b.off = some r) {g : FldSpec}
    (hg : g ∈ r.flds) (ha : g.acc = .rw) : g.hi < b.lo := by
  have h := hb.above
  rw [hr] at h
  simpa [ha] using List.all_eq_true.1 h g hg

theorem State.getF_setF_bit {b : Fld} (hb : b.IsBusy) (i : Nat) {v : Nat} (hv : v < 2) : (s.setF b i v).getF b i = v := by
  rw [State.getF_setF_same b i v hb.width (Nat.le_of_eq hb.bit.symm), hb.bit, Nat.add_sub_cancel_left]
  exact Nat.mod_eq_of_lt hv

/-- An accepted selector write stores its fields and sets BUSY. -/
theorem State.selectorWrite_busy {b : Fld} (hb : b.IsBusy) {i : Nat} {fw : Bool} {v : W64} {range state : Bool}
    (h : s.writeCode fw ⟨b.typ, i⟩ b.off true v range state = 0) :
    let t := s.regWrite fw ⟨b.typ, i⟩ b.off true v range state (fun s => s.setF b i 1)
    SelectedWrite s fw v ⟨b.typ, i⟩ b.off t ∧ t.getF b i = 1 := by
  intro t
  obtain ⟨hd, he, r, hr⟩ := State.writeCode_accepted h
  have hu : OnlyThese [(⟨b.typ, i⟩, b.off)] s ((s.setReg ⟨b.typ, i⟩ b.off (s.storedValue r ⟨b.typ, i⟩ b.off v)).setF b i 1) :=
    ((OnlyThese.refl _ s).setReg (by simp)).setF (by simp)
  have ht : t = ((s.setReg ⟨b.typ, i⟩ b.off (s.storedValue r ⟨b.typ, i⟩ b.off v)).setF b i 1).setStatus fw ⟨b.typ, i⟩ 0 := by
    refine (State.regWrite_accepted h hr).trans ?_
    rw [State.sendDue_other _ hb.irq.1 hb.irq.2]
    exact State.writeResult_ok (hu.1.dark.trans hd) he fw b.off v
  rw [ht]
  refine ⟨SelectedWrite.setStatus hu hb.off hb.status (fun r' hr' g hg ha => ?_), ?_⟩
  · cases hr.symm.trans hr'
    rw [State.setF, State.reg_setReg_same, State.reg_setReg_same, wbits_setBits_ne _ _ _ _ _ _ (.inr (hb.above_rw hr hg ha))]
  · have hread := State.reg_setStatus_ne
      (s := (s.setReg ⟨b.typ, i⟩ b.off (s.storedValue r ⟨b.typ, i⟩ b.off v)).setF b i 1) fw ⟨b.typ, i⟩ ⟨b.typ, i⟩ 0 b.off
      (regKey_ne_of_off hb.off (by omega) hb.status)
    exact (congrArg (fun w => wbits w b.hi b.lo) hread).trans (State.getF_setF_bit hb i (by omega))

theorem isBusy_segSel : F.SPD_SEG_SEL_BUSY.IsBusy := by constructor <;> decide
theorem isBusy_tsqSel : F.TSQ_SEL_BUSY.IsBusy := by constructor <;> decide
theorem isBusy_mrkSel : F.MRK_SEL_BUSY.IsBusy := by constructor <;> decide
theorem isBusy_senCtxSel : F.SEN_CTX_SEL_BUSY.IsBusy := by constructor <;> decide

/-- A wish for new counts of FOPEN, or its end. -/
def State.setFopenDue (s : State) (p : Fin 2) (b : Bool) : State := { s with fopenDue := put (fun _ => false) s.fopenDue p.val b }

/-- The mark of a wish for counts and a register change separate parts of the state. -/
theorem State.setFopenDue_setReg (p : Fin 2) (b : Bool) (q : Page) (off : Nat) (v : W64) :
    (s.setFopenDue p b).setReg q off v = (s.setReg q off v).setFopenDue p b := rfl

theorem State.setFopenDue_undone (h : t.fopenDue = s.fopenDue) (p : Fin 2) (b : Bool) :
    ({ t.setFopenDue p b with fopenDue := s.fopenDue } : State) = t := by
  rw [← h]
  rfl

theorem State.fopenDue_setFopenDue (h : t.fopenDue = s.fopenDue) (p : Fin 2) (b : Bool) :
    (t.setFopenDue p b).fopenDue = put (fun _ => false) s.fopenDue p.val b := by
  rw [← h]
  rfl

/-- An accepted write of SEN.FOPEN_SEL stores its field and asks for new counts (R370). -/
theorem State.fopenSel_asks {p : Fin 2} {fw : Bool} {v : W64} (h : s.writeCode fw ⟨.SEN, p⟩ 0x0B0 true v false false = 0) :
    let t := s.regWrite fw ⟨.SEN, p⟩ 0x0B0 true v false false (fun s => s.setFopenDue p true)
    t.fopenDue = put (fun _ => false) s.fopenDue p.val true ∧
      SelectedWrite s fw v ⟨.SEN, p⟩ 0x0B0 { t with fopenDue := s.fopenDue } := by
  obtain ⟨hd, he, r, hr⟩ := State.writeCode_accepted h
  have hdue : ((s.setReg ⟨.SEN, p⟩ 0x0B0 (s.storedValue r ⟨.SEN, p⟩ 0x0B0 v)).setStatus fw ⟨.SEN, p⟩ 0).fopenDue = s.fopenDue := rfl
  have ht : s.regWrite fw ⟨.SEN, p⟩ 0x0B0 true v false false (fun s => s.setFopenDue p true) =
      ((s.setReg ⟨.SEN, p⟩ 0x0B0 (s.storedValue r ⟨.SEN, p⟩ 0x0B0 v)).setStatus fw ⟨.SEN, p⟩ 0).setFopenDue p true := by
    rw [State.regWrite_accepted h hr, State.sendDue_other _ (by decide) (by decide)]
    exact State.writeResult_ok (s := (s.setReg _ _ _).setFopenDue p true) hd he fw 0x0B0 v
  intro t
  rw [show t = _ from ht, State.fopenDue_setFopenDue hdue, State.setFopenDue_undone hdue]
  refine ⟨rfl, SelectedWrite.setStatus ((OnlyThese.refl _ s).setReg (by simp)) (by omega) (by omega) (fun r' hr' g _ _ => ?_)⟩
  cases hr.symm.trans hr'
  rw [State.reg_setReg_same]

/-! ### Snapshots -/

/-- The field that a number of SNAPSHOT_ARRIVAL names. -/
def snapField (n : Nat) : FieldAddr := ⟨if n < 60 then 0 else 1, ⟨n % 60, Nat.mod_lt _ (by omega)⟩⟩

theorem snapField_idx (f : FieldAddr) : snapField f.idx = f := by
  obtain ⟨p, f⟩ := f
  have hf := f.isLt
  have hmod : FieldAddr.idx ⟨p, f⟩ % 60 = f.val := by simp only [FieldAddr.idx]; omega
  have hlt : FieldAddr.idx ⟨p, f⟩ < 60 ↔ p.val = 0 := by simp only [FieldAddr.idx]; omega
  unfold snapField
  congr 1
  · by_cases h : p.val = 0
    · rw [if_pos (hlt.2 h)]; exact Fin.ext h.symm
    · rw [if_neg (mt hlt.1 h)]; apply Fin.ext; change 1 = p.val; omega
  · exact Fin.ext hmod

theorem plane01_val (p : Fin 2) : plane01 p.val = p := by
  unfold plane01
  split <;> (apply Fin.ext; simp; omega)

/-- Registers of one page are written and BUSY cleared: a snapshot of the BUSY bit's page. -/
theorem OnlyThese.clearBusy {ks : List (Page × Nat)} (h : OnlyThese ks s t) {b : Fld} (hb : b.IsBusy) {i : Nat}
    (hm : ((⟨b.typ, i⟩ : Page), b.off) ∈ ks) : OnlyThese ks s (t.setF b i 0) ∧ (t.setF b i 0).getF b i = 0 :=
  ⟨h.setF hm, State.getF_setF_bit hb i (by omega)⟩

theorem State.reg_setF (b : Fld) (i v : Nat) (p : Page) (off : Nat) :
    (s.setF b i v).reg p off =
      if regKey p off = regKey ⟨b.typ, i⟩ b.off then setBits (s.reg ⟨b.typ, i⟩ b.off) b.hi b.lo v else s.reg p off :=
  State.reg_setReg s _ _ _ _ _

theorem exec_snapshot_seg {f : FieldAddr} (h : s.offline ⟨.SPD, f.inst⟩ = false) :
    exec (.snapshotArrival .seg f.idx) s = .next (s.segSnap f) := by
  change Host.Outcome.next (if s.offline ⟨.SPD, (snapField f.idx).inst⟩ then s else s.segSnap (snapField f.idx)) = _
  rw [snapField_idx, h]
  rfl

theorem exec_snapshot_tsq {f : FieldAddr} (h : s.offline ⟨.TSQ, f.inst⟩ = false) :
    exec (.snapshotArrival .tsq f.idx) s = .next (s.tsqSnap f) := by
  change Host.Outcome.next (if s.offline ⟨.TSQ, (snapField f.idx).inst⟩ then s else s.tsqSnap (snapField f.idx)) = _
  rw [snapField_idx, h]
  rfl

theorem exec_snapshot_mrk {f : FieldAddr} (h : s.offline ⟨.MRK, f.inst⟩ = false) :
    exec (.snapshotArrival .mrk f.idx) s = .next (s.markSnap f) := by
  change Host.Outcome.next (if s.offline ⟨.MRK, (snapField f.idx).inst⟩ then s else s.markSnap (snapField f.idx)) = _
  rw [snapField_idx, h]
  rfl

theorem exec_snapshot_ctx {p : Fin 2} (h : s.getF F.SEN_CTX_SEL_BUSY p = 1) :
    exec (.snapshotArrival .ctx p) s = .next (s.ctxSnap p) := by
  change Host.Outcome.next (if s.getF F.SEN_CTX_SEL_BUSY (plane01 p.val) == 1 then s.ctxSnap (plane01 p.val) else s) = _
  rw [plane01_val, h]
  rfl

theorem exec_snapshot_fopen (p : Fin 2) (s : State) :
    exec (.snapshotArrival .fopen p) s = .next (if s.unserved ⟨.SEN, p⟩ then s else s.fopenSnap p) := by
  change Host.Outcome.next (if s.unserved ⟨.SEN, plane01 p.val⟩ then s else s.fopenSnap (plane01 p.val)) = _
  rw [plane01_val]

/-- The segment states of the selected tile arrive (R203). -/
theorem State.segSnap_fills {f : FieldAddr} (hb : s.getF F.SPD_SEG_SEL_BUSY f.inst = 1) {a : TileAddr}
    (ha : selTile f (s.reg ⟨.SPD, f.inst⟩ 0x090) = some a) :
    OnlyThese [(⟨.SPD, f.inst⟩, 0x090), (⟨.SPD, f.inst⟩, 0x098)] s (s.segSnap f) ∧ (s.segSnap f).getF F.SPD_SEG_SEL_BUSY f.inst = 0 ∧
      (s.segSnap f).reg ⟨.SPD, f.inst⟩ 0x098 =
        BitVec.ofNat 64 ((List.range 8).foldl (fun x g => x + ((s.tile a).seg g).state.code <<< (3 * g)) 0) := by
  simp only [State.segSnap, hb, ha, beq_self_eq_true, if_true]
  obtain ⟨honly, hbusy⟩ := ((OnlyThese.refl [((⟨.SPD, f.inst⟩ : Page), 0x090), (⟨.SPD, f.inst⟩, 0x098)] s).setReg
    (p := ⟨.SPD, f.inst⟩) (off := 0x098) (by simp)).clearBusy isBusy_segSel (i := f.inst) (by simp [F.SPD_SEG_SEL_BUSY])
  refine ⟨honly, hbusy, ?_⟩
  simp [State.reg_setF, regKey_eq, F.SPD_SEG_SEL_BUSY]

/-- The status of the selected task arrives (R148). -/
theorem State.tsqSnap_fills {f : FieldAddr} (hb : s.getF F.TSQ_SEL_BUSY f.inst = 1) {a : TileAddr}
    (ha : selTile f (s.reg ⟨.TSQ, f.inst⟩ 0x080) = some a) :
    OnlyThese [(⟨.TSQ, f.inst⟩, 0x080), (⟨.TSQ, f.inst⟩, 0x088)] s (s.tsqSnap f) ∧ (s.tsqSnap f).getF F.TSQ_SEL_BUSY f.inst = 0 ∧
      (s.tsqSnap f).reg ⟨.TSQ, f.inst⟩ 0x088 =
        (s.taskOf a (wbits (s.reg ⟨.TSQ, f.inst⟩ 0x080) 15 14)).status (s.tile a).epoch := by
  simp only [State.tsqSnap, hb, ha, beq_self_eq_true, if_true]
  obtain ⟨honly, hbusy⟩ := ((OnlyThese.refl [((⟨.TSQ, f.inst⟩ : Page), 0x080), (⟨.TSQ, f.inst⟩, 0x088)] s).setReg
    (p := ⟨.TSQ, f.inst⟩) (off := 0x088) (by simp)).clearBusy isBusy_tsqSel (i := f.inst) (by simp [F.TSQ_SEL_BUSY])
  refine ⟨honly, hbusy, ?_⟩
  simp [State.reg_setF, regKey_eq, F.TSQ_SEL_BUSY, State.taskOf]

/-- The low half of a word made of a 32-bit value and fields above it. -/
theorem wbits_low32 (x : W32) (a b : Nat) : wbits (BitVec.ofNat 64 (x.toNat + a <<< 32 + b <<< 48)) 31 0 = x.toNat := by
  have hx := x.isLt
  simp only [wbits, natBits, BitVec.toNat_ofNat, Nat.shiftLeft_eq, Nat.shiftRight_zero]
  omega

/-- The registers that the snapshot of a marker may change. -/
def markRegs (f : FieldAddr) : List (Page × Nat) := [0x088, 0x090, 0x098, 0x0A0, 0x0A8].map (fun o => (⟨.MRK, f.inst⟩, o))

/-- The record of the selected marker arrives (R442). -/
theorem State.markSnap_fills {f : FieldAddr} (hb : s.getF F.MRK_SEL_BUSY f.inst = 1) :
    let m := (s.fieldSt f).marker (s.getF F.MRK_SEL_MARKER f.inst)
    let t := s.markSnap f
    OnlyThese (markRegs f) s t ∧ t.getF F.MRK_SEL_BUSY f.inst = 0 ∧
      wbits (t.reg ⟨.MRK, f.inst⟩ 0x090) 31 0 = m.value.toNat ∧
      t.reg ⟨.MRK, f.inst⟩ 0x098 = BitVec.ofNat 64 (m.lastKind + m.lastWm.toNat <<< 32) ∧
      t.reg ⟨.MRK, f.inst⟩ 0x0A0 = BitVec.ofNat 64 (m.lastId.toNat + m.lastAmount.toNat <<< 32) ∧
      t.reg ⟨.MRK, f.inst⟩ 0x0A8 = m.lastCyc := by
  have hcond : (s.getF F.MRK_SEL_BUSY f.inst == 0) = false := by rw [hb]; rfl
  intro m t
  simp only [t, State.markSnap, hcond, Bool.false_eq_true, if_false]
  have hfill (w0 w1 w2 w3 : W64) : OnlyThese (markRegs f) s ((((s.setReg ⟨.MRK, f.inst⟩ 0x090 w0).setReg ⟨.MRK, f.inst⟩ 0x098 w1).setReg
      ⟨.MRK, f.inst⟩ 0x0A0 w2).setReg ⟨.MRK, f.inst⟩ 0x0A8 w3) :=
    ((((OnlyThese.refl _ s).setReg (by simp [markRegs])).setReg (by simp [markRegs])).setReg (by simp [markRegs])).setReg
      (by simp [markRegs])
  obtain ⟨honly, hbusy⟩ := (hfill _ _ _ _).clearBusy isBusy_mrkSel (i := f.inst) (by simp [markRegs, F.MRK_SEL_BUSY])
  refine ⟨honly, hbusy, ?_, ?_, ?_, ?_⟩
  · simpa [State.reg_setF, State.reg_setReg, regKey_eq, F.MRK_SEL_BUSY] using wbits_low32 m.value _ _
  · simp [State.reg_setF, State.reg_setReg, regKey_eq, F.MRK_SEL_BUSY, m]
  · simp [State.reg_setF, State.reg_setReg, regKey_eq, F.MRK_SEL_BUSY, m]
  · simp [State.reg_setF, regKey_eq, F.MRK_SEL_BUSY, m]

/-- The selected context arrives (R369). -/
theorem State.ctxSnap_fills (p : Fin 2) :
    let c := s.ctx (ctxKey p (s.getF F.SEN_CTX_SEL_CTX p))
    let t := s.ctxSnap p
    OnlyThese ([0x098, 0x0A0, 0x0A8].map (fun o => (⟨.SEN, p⟩, o))) s t ∧ t.getF F.SEN_CTX_SEL_BUSY p = 0 ∧
      (c.live = true → t.reg ⟨.SEN, p⟩ 0x0A8 = BitVec.ofNat 64 (c.d.sid + c.done <<< 32)) ∧
      (c.live = false → t.reg ⟨.SEN, p⟩ 0x0A0 = BitVec.ofNat 64 (c.gen.toNat <<< 3) ∧ t.reg ⟨.SEN, p⟩ 0x0A8 = 0) := by
  intro c t
  have hfill (w0 w1 : W64) : OnlyThese ([0x098, 0x0A0, 0x0A8].map (fun o => ((⟨.SEN, p⟩ : Page), o))) s
      ((s.setReg ⟨.SEN, p⟩ 0x0A0 w0).setReg ⟨.SEN, p⟩ 0x0A8 w1) :=
    ((OnlyThese.refl _ s).setReg (by simp)).setReg (by simp)
  obtain ⟨honly, hbusy⟩ := (hfill _ _).clearBusy isBusy_senCtxSel (i := p) (by simp [F.SEN_CTX_SEL_BUSY])
  have hread (o : Nat) (ho : o = 0x0A0 ∨ o = 0x0A8) (w0 w1 : W64) :
      (((s.setReg ⟨.SEN, p⟩ 0x0A0 w0).setReg ⟨.SEN, p⟩ 0x0A8 w1).setF F.SEN_CTX_SEL_BUSY p 0).reg ⟨.SEN, p⟩ o =
        if o = 0x0A0 then w0 else w1 := by
    rcases ho with rfl | rfl <;> simp [State.reg_setF, State.reg_setReg, regKey_eq, F.SEN_CTX_SEL_BUSY]
  refine ⟨honly, hbusy, fun hl => ?_, fun hl => ⟨?_, ?_⟩⟩
  · exact (hread 0x0A8 (.inr rfl) _ _).trans (by simp only [c] at hl; simp [hl, c])
  · exact (hread 0x0A0 (.inl rfl) _ _).trans (by simp only [c] at hl; simp [hl, c])
  · exact (hread 0x0A8 (.inr rfl) _ _).trans (by simp only [c] at hl; simp [hl])

/-- The contexts of a plane that hold or deliver frames of the field selected in FOPEN_SEL, in an epoch (R370). -/
def State.openCount (s : State) (p : Fin 2) (e : Nat) : Nat :=
  (s.ctxsOf p).countP (fun x => x.2.field == s.getF F.SEN_FOPEN_SEL_FIELD p && x.2.epoch.toNat == e &&
    (x.2.state == .holding || x.2.state == .delivering))

/-- The counts of two epochs as a word of FOPEN shows them. -/
def State.openWord (s : State) (p : Fin 2) (e : Nat) : W64 := BitVec.ofNat 64 (s.openCount p e + s.openCount p (e + 1) <<< 32)

/-- The registers FOPEN0 and FOPEN1 of a plane. -/
def State.setFopen (s : State) (p : Fin 2) (w0 w1 : W64) : State := (s.setReg ⟨.SEN, p⟩ 0x0B8 w0).setReg ⟨.SEN, p⟩ 0x0C0 w1

theorem State.setFopen_only (p : Fin 2) (w0 w1 : W64) :
    OnlyThese [(⟨.SEN, p⟩, 0x0B8), (⟨.SEN, p⟩, 0x0C0)] s (s.setFopen p w0 w1) :=
  ((OnlyThese.refl _ s).setReg (by simp)).setReg (by simp)

theorem State.setFopen_due (p : Fin 2) (w0 w1 : W64) : (s.setFopen p w0 w1).fopenDue = s.fopenDue := rfl

theorem State.setFopen_fopen0 (p : Fin 2) (w0 w1 : W64) (b : Bool) :
    ((s.setFopen p w0 w1).setFopenDue p b).reg ⟨.SEN, p⟩ 0x0B8 = w0 := by
  change (s.setFopen p w0 w1).reg ⟨.SEN, p⟩ 0x0B8 = w0
  rw [State.setFopen, State.reg_setReg, if_neg (regKey_ne_of_off (by decide) (by decide) (by decide)), State.reg_setReg_same]

theorem State.setFopen_fopen1 (p : Fin 2) (w0 w1 : W64) (b : Bool) :
    ((s.setFopen p w0 w1).setFopenDue p b).reg ⟨.SEN, p⟩ 0x0C0 = w1 :=
  State.reg_setReg_same _ _ _ _

/-- The counts of FOPEN arrive where a write waits for them. -/
theorem State.fopenSnap_due {p : Fin 2} (h : look (fun _ => false) s.fopenDue p.val = true) :
    s.fopenSnap p = (s.setFopen p (s.openWord p 0) (s.openWord p 2)).setFopenDue p false := by
  unfold State.setFopen
  rw [← State.setFopenDue_setReg, ← State.setFopenDue_setReg]
  simp only [State.fopenSnap, h]
  rfl

theorem State.fopenSnap_idle {p : Fin 2} (h : look (fun _ => false) s.fopenDue p.val = false) : s.fopenSnap p = s := by
  simp [State.fopenSnap, h]

theorem State.fopenSnap_fills {p : Fin 2} (h : look (fun _ => false) s.fopenDue p.val = true) :
    let t := s.fopenSnap p
    t.fopenDue = put (fun _ => false) s.fopenDue p.val false ∧
      OnlyThese [(⟨.SEN, p⟩, 0x0B8), (⟨.SEN, p⟩, 0x0C0)] s { t with fopenDue := s.fopenDue } ∧
      t.reg ⟨.SEN, p⟩ 0x0B8 = s.openWord p 0 ∧ t.reg ⟨.SEN, p⟩ 0x0C0 = s.openWord p 2 := by
  intro t
  rw [show t = _ from State.fopenSnap_due h]
  generalize s.openWord p 0 = w0
  generalize s.openWord p 2 = w1
  rw [State.fopenDue_setFopenDue (State.setFopen_due p w0 w1), State.setFopenDue_undone (State.setFopen_due p w0 w1)]
  exact ⟨rfl, State.setFopen_only p w0 w1, State.setFopen_fopen0 p w0 w1 false, State.setFopen_fopen1 p w0 w1 false⟩

/-! ### The statement -/

/-- Settles O26: the write lemmas for REGISTER_WRITE, the selector lemma for each BUSY bit, and the snapshot lemma of each unit. -/
theorem registerWritesStoreOrAreRefused : Obligations.RegisterWritesStoreOrAreRefused := by
  unfold Obligations.RegisterWritesStoreOrAreRefused
  intro s fw v only status report refused selected
  refine ⟨?_, ?_⟩
  · intro addr p r hp he hd h8 hplain off code
    refine ⟨fun hc hs hr => ?_, fun hc => ?_, ?_⟩
    · exact ⟨_, (exec_registerWrite_page hp hd h8 fw true v).trans (by rw [if_pos rfl, State.pageWrite_plain hplain]),
        State.plainWrite_stores hc hr (Nat.mod_lt _ (by omega)) hs⟩
    · refine ⟨_, (exec_registerWrite_page hp hd h8 fw true v).trans
        (by rw [if_pos rfl, State.pageWrite_plain hplain, State.regWrite_refused hc]), ?_⟩
      exact State.writeResult_reports hd he (plainPages_not_dir hplain) fw off v hc
        (Nat.lt_of_le_of_lt (State.writeCode_le ..) (by omega))
    · exact ⟨_, exec_registerWrite_page hp hd h8 fw false v,
        State.writeResult_reports hd he (plainPages_not_dir hplain) fw off v (by omega) (by omega)⟩
  intro p f
  refine ⟨fun h => ⟨_, rfl, State.selectorWrite_busy isBusy_segSel h⟩, fun h => ⟨_, rfl, State.selectorWrite_busy isBusy_tsqSel h⟩,
    fun h => ⟨_, rfl, State.selectorWrite_busy isBusy_mrkSel h⟩, fun h => ⟨_, rfl, State.selectorWrite_busy isBusy_senCtxSel h⟩,
    fun h => ⟨_, rfl, State.fopenSel_asks h⟩,
    fun ho hb a ha => ⟨_, exec_snapshot_seg ho, State.segSnap_fills hb ha⟩,
    fun ho hb a ha => ⟨_, exec_snapshot_tsq ho, State.tsqSnap_fills hb ha⟩,
    fun ho hb => ⟨_, exec_snapshot_mrk ho, State.markSnap_fills hb⟩,
    fun hb => ⟨_, exec_snapshot_ctx hb, State.ctxSnap_fills p⟩, fun h => ⟨s, ?_, rfl⟩,
    fun hu hd => ⟨_, (exec_snapshot_fopen p s).trans (by rw [hu]; rfl), State.fopenSnap_fills hd⟩⟩
  refine (exec_snapshot_fopen p s).trans ?_
  rcases h with h | h
  · rw [if_pos h]
  · rw [State.fopenSnap_idle h, ite_self]

end Sys2Proof.Machine
end

section
/-!
PROOF of O47, O17, O16 and O48: exact values. A sum of exact values is settled by its V, its X modulo 2^199 and its status, so that
order and grouping of the addends do not matter; a clamped value is settled by its magnitude in units of 2^-96.
-/
namespace Sys2Proof.Machine

/-! ### The CLASS table (R54) -/

theorem SumClass.add_table (a b : SumClass) :
    a.add b = if a = .nan ∨ b = .nan then .nan else if a = .finite then b else if b = .finite then a
      else if a = b then a else .nan := by
  cases a <;> cases b <;> rfl

theorem SumClass.add_comm (a b : SumClass) : a.add b = b.add a := by cases a <;> cases b <;> rfl

theorem SumClass.add_assoc (a b c : SumClass) : (a.add b).add c = a.add (b.add c) := by
  cases a <;> cases b <;> cases c <;> rfl

/-- Settles O47: the table of the model is the chain of cases, and it is symmetric. -/
theorem classOfASumFollowsItsTable : Obligations.ClassOfASumFollowsItsTable := by
  unfold Obligations.ClassOfASumFollowsItsTable
  exact fun a b => ⟨SumClass.add_table a.cls b.cls, SumClass.add_comm b.cls a.cls⟩

/-! ### Sums of exact values (R53) -/

/-- The step of WRAP that the addition of two V makes (R53). -/
def wrapStep (x y : BitVec 192) : BitVec 7 :=
  if 2 ^ 191 ≤ x.toInt + y.toInt then 1 else if x.toInt + y.toInt < -(2 ^ 191) then -1 else 0

theorem toInt_wrapStep (x y : BitVec 192) : (wrapStep x y).toInt =
    if 2 ^ 191 ≤ x.toInt + y.toInt then 1 else if x.toInt + y.toInt < -(2 ^ 191) then -1 else 0 := by
  unfold wrapStep
  split
  · rfl
  · split <;> rfl

theorem ExactVal.add_wrap (a b : ExactVal) : (a.add b).wrap = a.wrap + b.wrap + wrapStep a.v b.v := rfl

/-- V and the step of WRAP together lose nothing of a sum. -/
theorem toInt_add_wrapStep (x y : BitVec 192) : (x + y).toInt + (wrapStep x y).toInt * 2 ^ 192 = x.toInt + y.toInt := by
  have hx := x.toInt_lt
  have hx' := x.le_toInt
  have hy := y.toInt_lt
  have hy' := y.le_toInt
  rw [toInt_wrapStep, BitVec.toInt_add, Int.bmod_def]
  split <;> split <;> omega

theorem dvd_toInt_add (x y : BitVec 7) : (2 : Int) ^ 7 ∣ (x + y).toInt - (x.toInt + y.toInt) := by
  rw [BitVec.toInt_add, Int.bmod_def]
  split <;> omega

/-- R53: X of a sum is the sum of the X, modulo 2^199. -/
theorem ExactVal.dvd_toInt_add (a b : ExactVal) : (2 : Int) ^ 199 ∣ (a.add b).toInt - (a.toInt + b.toInt) := by
  have hv : (a.add b).v.toInt + (wrapStep a.v b.v).toInt * 2 ^ 192 = a.v.toInt + b.v.toInt := toInt_add_wrapStep a.v b.v
  have hwrap := Machine.dvd_toInt_add (a.wrap + b.wrap) (wrapStep a.v b.v)
  have hwraps := Machine.dvd_toInt_add a.wrap b.wrap
  rw [← ExactVal.add_wrap] at hwrap
  unfold ExactVal.toInt
  omega

/-- Two exact values agree where V, X modulo 2^199 and the rest of the status do. -/
theorem ExactVal.eq_of_toInt {a b : ExactVal} (hv : a.v = b.v) (hx : (2 : Int) ^ 199 ∣ a.toInt - b.toInt) (hc : a.cls = b.cls)
    (hlo : a.winLo = b.winLo) (hhi : a.winHi = b.winHi) (hh : a.high = b.high) (hn : a.nanIn = b.nanIn) : a = b := by
  have hw : a.wrap = b.wrap := by
    apply BitVec.eq_of_toInt_eq
    have ha := a.wrap.toInt_lt
    have ha' := a.wrap.le_toInt
    have hb := b.wrap.toInt_lt
    have hb' := b.wrap.le_toInt
    unfold ExactVal.toInt at hx
    rw [hv] at hx
    omega
  cases a
  cases b
  dsimp only at hv hw hc hlo hhi hh hn
  rw [hv, hw, hc, hlo, hhi, hh, hn]

theorem ExactVal.add_comm (a b : ExactVal) : a.add b = b.add a := by
  refine ExactVal.eq_of_toInt (BitVec.add_comm _ _) ?_ (SumClass.add_comm _ _) (Bool.or_comm _ _) (Bool.or_comm _ _)
    (Bool.or_comm _ _) (Bool.or_comm _ _)
  have hab := a.dvd_toInt_add b
  have hba := b.dvd_toInt_add a
  omega

theorem ExactVal.add_assoc (a b c : ExactVal) : (a.add b).add c = a.add (b.add c) := by
  refine ExactVal.eq_of_toInt (BitVec.add_assoc _ _ _) ?_ (SumClass.add_assoc _ _ _) (Bool.or_assoc _ _ _) (Bool.or_assoc _ _ _)
    (Bool.or_assoc _ _ _) (Bool.or_assoc _ _ _)
  have hab := a.dvd_toInt_add b
  have hab_c := (a.add b).dvd_toInt_add c
  have hbc := b.dvd_toInt_add c
  have ha_bc := a.dvd_toInt_add (b.add c)
  omega

/-- Settles O17: X modulo 2^199, V and the status each add in any order, and they settle an exact value. -/
theorem exactSumsDoNotDependOnOrder : Obligations.ExactSumsDoNotDependOnOrder := by
  unfold Obligations.ExactSumsDoNotDependOnOrder
  refine ⟨fun a b => ⟨Int.emod_eq_zero_of_dvd (a.dvd_toInt_add b), rfl, rfl, rfl, ?_⟩, ExactVal.add_comm, ExactVal.add_assoc⟩
  have hcls : (a.add b).cls = a.cls.add b.cls := rfl
  rw [hcls, SumClass.add_table]
  refine ⟨fun h => ?_, fun h => ?_, fun h => ?_, fun h => ?_⟩ <;> rw [h] <;> cases b.cls <;> rfl

/-! ### Clamping into the window (R50) -/

/-- A magnitude in units of 2^-96, truncated toward zero. -/
def windowUnits (mag : Nat) (exp : Int) : Nat :=
  if 0 ≤ exp + 96 then mag <<< (exp + 96).toNat else mag >>> (-(exp + 96)).toNat

/-- The units of a magnitude are the integer u that the magnitude lies at, or above by less than one unit. -/
theorem windowUnits_eq {mag : Nat} {exp : Int} {u : Nat}
    (h : (0 ≤ exp + 96 ∧ mag * 2 ^ (exp + 96).toNat = u) ∨
      (exp + 96 < 0 ∧ u * 2 ^ (-(exp + 96)).toNat ≤ mag ∧ mag < (u + 1) * 2 ^ (-(exp + 96)).toNat)) :
    windowUnits mag exp = u := by
  unfold windowUnits
  obtain ⟨he, hu⟩ | ⟨he, hlo, hhi⟩ := h
  · rw [if_pos he, Nat.shiftLeft_eq, hu]
  · rw [if_neg (by omega), Nat.shiftRight_eq_div_pow]
    exact Nat.div_eq_of_lt_le hlo hhi

theorem clampExact_cls (neg : Bool) (mag : Nat) (exp : Int) : (clampExact neg mag exp).cls = .finite := rfl

theorem clampExact_high (neg : Bool) (mag : Nat) (exp : Int) :
    (clampExact neg mag exp).high = decide (2 ^ 168 ≤ windowUnits mag exp) := rfl

theorem clampExact_winHi (neg : Bool) (mag : Nat) (exp : Int) :
    (clampExact neg mag exp).winHi = decide (2 ^ 176 ≤ windowUnits mag exp) := rfl

theorem clampExact_winLo (neg : Bool) (mag : Nat) (exp : Int) : (clampExact neg mag exp).winLo = true ↔
    windowUnits mag exp < 2 ^ 176 ∧ exp + 96 < 0 ∧ mag ≠ windowUnits mag exp * 2 ^ (-(exp + 96)).toNat := by
  have hdef : (clampExact neg mag exp).winLo =
    ((if 0 ≤ exp + 96 then false else mag % 2 ^ (-(exp + 96)).toNat != 0) && !decide (2 ^ 176 ≤ windowUnits mag exp)) := rfl
  rw [hdef]
  by_cases he : 0 ≤ exp + 96
  · rw [if_pos he, Bool.false_and]
    exact ⟨fun h => Bool.noConfusion h, fun ⟨_, hneg, _⟩ => absurd hneg (by omega)⟩
  · have hu : windowUnits mag exp = mag / 2 ^ (-(exp + 96)).toNat := by
      rw [windowUnits, if_neg he, Nat.shiftRight_eq_div_pow]
    have hmod : mag % 2 ^ (-(exp + 96)).toNat ≠ 0 ↔ mag ≠ windowUnits mag exp * 2 ^ (-(exp + 96)).toNat := by
      rw [hu]
      have := Nat.div_add_mod' mag (2 ^ (-(exp + 96)).toNat)
      omega
    rw [if_neg he, Bool.and_eq_true, bne_iff_ne, hmod]
    simp only [Bool.not_eq_true', decide_eq_false_iff_not]
    omega

theorem clampExact_toInt (neg : Bool) (mag : Nat) (exp : Int) : (clampExact neg mag exp).v.toInt =
    if neg then -((min (windowUnits mag exp) (2 ^ 176 - 1) : Nat) : Int) else (min (windowUnits mag exp) (2 ^ 176 - 1) : Nat) := by
  have hmin : (if decide (2 ^ 176 ≤ windowUnits mag exp) then 2 ^ 176 - 1 else windowUnits mag exp) =
      min (windowUnits mag exp) (2 ^ 176 - 1) := by
    by_cases h : 2 ^ 176 ≤ windowUnits mag exp
    · rw [if_pos (decide_eq_true h)]; omega
    · rw [if_neg (by simpa using h)]; omega
  have hdef : (clampExact neg mag exp).v = BitVec.ofInt 192
      (if neg then -((if decide (2 ^ 176 ≤ windowUnits mag exp) then 2 ^ 176 - 1 else windowUnits mag exp : Nat) : Int)
        else ((if decide (2 ^ 176 ≤ windowUnits mag exp) then 2 ^ 176 - 1 else windowUnits mag exp : Nat) : Int)) := rfl
  rw [hdef, hmin, BitVec.toInt_ofInt]
  generalize hm : min (windowUnits mag exp) (2 ^ 176 - 1) = m
  have hlt : m < 2 ^ 176 := by omega
  apply Int.bmod_eq_of_le <;> split <;> omega

/-! ### Products (R50, R52) -/

theorem exactProduct_fin (s t : Bool) (m n : Nat) (e f : Int) :
    exactProduct (.fin s m e) (.fin t n f) = clampExact (s != t) (m * n) (e + f) := rfl

theorem exactProduct_nan_left (x : Machine.Num) : exactProduct .nan x = { ExactVal.zero with cls := .nan, nanIn := true } := rfl

theorem exactProduct_nan_right (x : Machine.Num) : exactProduct x .nan = { ExactVal.zero with cls := .nan, nanIn := true } := by
  cases x <;> rfl

theorem Num.scaled_ff (x : Machine.Num) : x.scaled 0xFF = .nan := rfl

/-- The CLASS of an infinity times a number of magnitude m, the signs being s and t. -/
def infTimes (s t : Bool) (m : Nat) : ExactVal :=
  { ExactVal.zero with cls := if m = 0 then .nan else if s = t then .posInf else .negInf }

theorem infTimes_comm (s t : Bool) (m : Nat) : infTimes s t m = infTimes t s m := by
  cases s <;> cases t <;> rfl

theorem exactProduct_inf_fin (s t : Bool) (m : Nat) (e : Int) : exactProduct (.inf s) (.fin t m e) = infTimes s t m := by
  cases s <;> cases t <;> cases m <;> rfl

theorem exactProduct_fin_inf (s t : Bool) (m : Nat) (e : Int) : exactProduct (.fin t m e) (.inf s) = infTimes s t m := by
  cases s <;> cases t <;> cases m <;> rfl

theorem exactProduct_inf_inf (s t : Bool) {m : Nat} (hm : m ≠ 0) : exactProduct (.inf s) (.inf t) = infTimes s t m := by
  unfold infTimes; rw [if_neg hm]; cases s <;> cases t <;> rfl

/-- Settles O16: a finite product is the clamped form of m * n * 2^(e + f), the others have V at 0 and the CLASS of R52. -/
theorem exactProductsAreClampedIntoTheWindow : Obligations.ExactProductsAreClampedIntoTheWindow := by
  unfold Obligations.ExactProductsAreClampedIntoTheWindow
  refine ⟨fun s t m n e f u => ?_, fun x => ?_, ?_⟩
  · intro p signed
    have hp : p = clampExact (s != t) (m * n) (e + f) := exactProduct_fin s t m n e f
    refine ⟨by rw [hp]; rfl, fun hu => ?_⟩
    have hunits := windowUnits_eq hu
    have hsigned : p.v.toInt = signed (min u (2 ^ 176 - 1) : Nat) := by
      rw [hp, clampExact_toInt, hunits]
      cases s <;> cases t <;> rfl
    rw [hp] at hsigned ⊢
    rw [clampExact_high, clampExact_winHi, ← Bool.not_eq_true (clampExact ..).winLo, clampExact_winLo, hunits, hsigned]
    refine ⟨decide_eq_true_iff, fun hlt => ⟨?_, decide_eq_false (by omega), ?_⟩, fun hge => ⟨?_, decide_eq_true hge, ?_⟩⟩
    · rw [Nat.min_eq_left (by omega)]
    · exact and_iff_right hlt
    · rw [Nat.min_eq_right (by omega)]; rfl
    · exact fun h => absurd h.1 (by omega)
  · rw [exactProduct_nan_left, exactProduct_nan_right, Num.scaled_ff]
    exact ⟨rfl, rfl, rfl, rfl, rfl⟩
  · rintro s t m e x y rfl hy p hp
    have hprod : p = infTimes s t m := by
      rcases hy with rfl | ⟨rfl, hm⟩ <;> rcases hp with rfl | rfl
      · exact exactProduct_inf_fin s t m e
      · exact exactProduct_fin_inf s t m e
      · exact exactProduct_inf_inf s t hm
      · rw [exactProduct_inf_inf t s hm, infTimes_comm]
    rw [hprod]
    exact ⟨rfl, rfl⟩

/-! ### Rounding to zero (R67) -/

/-- A nonzero magnitude whose quotient is 0 rounds to the zero of its sign. -/
theorem Enc.round_zero_quotient (f : Enc) (rnd : Rnd) (sat : Bool) (r : Nat) (neg : Bool) {mag : Nat} {exp : Int} (hm : mag ≠ 0)
    (hq : (roundAt rnd r mag exp (f.ulp mag exp)).1 = 0) : (f.round rnd sat r neg mag exp).1 = f.signBit neg := by
  have habove : f.above 0 (f.ulp mag exp) = false := by
    unfold Enc.above
    split
    · rw [Nat.zero_shiftLeft]
      exact decide_eq_false (Nat.not_lt_zero _)
    · exact decide_eq_false (Nat.not_lt_zero _)
  have hencode : f.encode neg 0 (f.ulp mag exp) = f.signBit neg := by
    have hcarry : ¬ 2 ^ (f.mbits + 1) ≤ 0 := Nat.not_le.2 (Nat.two_pow_pos _)
    simp only [Enc.encode, if_neg hcarry, if_pos (Nat.two_pow_pos f.mbits), Nat.add_zero]
  unfold Enc.round
  rw [if_neg (by simpa using hm)]
  simp only [hq, habove, hencode, Bool.false_eq_true, if_false]

theorem ExactVal.round_finite {a : ExactVal} (h : a.cls = .finite) (f : Enc) (rnd : Rnd) (sat : Bool) (r : Nat) :
    a.round f rnd sat r = if a.toInt = 0 then (0, {}) else f.round rnd sat r (decide (a.toInt < 0)) a.toInt.natAbs (-96) := by
  unfold ExactVal.round
  rw [h]
  simp only [beq_iff_eq]

theorem ExactVal.round_zero_sum {a : ExactVal} (h : a.cls = .finite) (hx : a.toInt = 0) (f : Enc) (rnd : Rnd) (sat : Bool) (r : Nat) :
    (a.round f rnd sat r).1 = 0 := by
  rw [ExactVal.round_finite h, if_pos hx]

theorem windowUnits_zero (exp : Int) : windowUnits 0 exp = 0 := by
  unfold windowUnits
  split
  · exact Nat.zero_shiftLeft _
  · exact Nat.zero_shiftRight _

/-- A negative zero enters the window as 0. -/
theorem clampExact_zero_v (exp : Int) : (clampExact true 0 exp).v = 0 := by
  apply BitVec.eq_of_toInt_eq
  rw [clampExact_toInt, windowUnits_zero]
  rfl

theorem clampExact_zero_add (e e' : Int) : ((clampExact true 0 e).add (clampExact true 0 e')).toInt = 0 := by
  have hv : ((clampExact true 0 e).add (clampExact true 0 e')).v = 0 := by
    show (clampExact true 0 e).v + (clampExact true 0 e').v = 0
    rw [clampExact_zero_v, clampExact_zero_v]; rfl
  have hw : ((clampExact true 0 e).add (clampExact true 0 e')).wrap = 0 := by
    rw [ExactVal.add_wrap, clampExact_zero_v, clampExact_zero_v]; rfl
  rw [ExactVal.toInt, hv, hw]
  rfl

/-- Settles O48: a sum of 0 takes the branch that gives the encoding 0; a quotient of 0 encodes as the sign alone. -/
theorem zeroSumsRoundToPlusZero : Obligations.ZeroSumsRoundToPlusZero := by
  unfold Obligations.ZeroSumsRoundToPlusZero
  refine fun f rnd sat r => ⟨fun a ha => ⟨fun hx => ExactVal.round_zero_sum ha hx f rnd sat r, fun hx hq => ?_⟩, fun e e' => ?_⟩
  · rw [ExactVal.round_finite ha, if_neg hx]
    exact Enc.round_zero_quotient f rnd sat r _ (Int.natAbs_ne_zero.2 hx) hq
  · exact ExactVal.round_zero_sum rfl (clampExact_zero_add e e') f rnd sat r

end Sys2Proof.Machine
end

section
/-!
PROOF of O49 and O50: the generator of stochastic rounding, and INT8 elements.
-/
namespace Sys2Proof.Machine

/-! ### The generator (R71) -/

/-- One line of the generator: an xor with the word's own shift, then a product, in natural numbers modulo 2^64. -/
theorem toNat_xorshift_mul (z c : W64) (n : Nat) :
    ((z ^^^ (z >>> n)) * c).toNat = (z.toNat ^^^ z.toNat >>> n) * c.toNat % 2 ^ 64 := by
  rw [BitVec.toNat_mul, BitVec.toNat_xor, BitVec.toNat_ushiftRight]

theorem toNat_xorshift (z : W64) (n : Nat) : (z ^^^ (z >>> n)).toNat = z.toNat ^^^ z.toNat >>> n := by
  rw [BitVec.toNat_xor, BitVec.toNat_ushiftRight]

/-- The start of the generator: the key and the index times the constant. -/
theorem toNat_srStart (tag waymark : W32) (index : BitVec 48) :
    ((tag ++ waymark : W64) + (index.setWidth 64 + 1) * 0x9E3779B97F4A7C15#64).toNat =
      ((tag.toNat <<< 32 ||| waymark.toNat) + (index.toNat + 1) * 0x9E3779B97F4A7C15) % 2 ^ 64 := by
  have hi := index.isLt
  have hindex : (index.setWidth 64 + 1).toNat = index.toNat + 1 := by
    rw [BitVec.toNat_add, BitVec.toNat_setWidth, Nat.mod_eq_of_lt (by omega : index.toNat < 2 ^ 64)]
    exact Nat.mod_eq_of_lt (by show index.toNat + 1 < 2 ^ 64; omega)
  rw [BitVec.toNat_add, BitVec.toNat_mul, hindex, BitVec.toNat_append, BitVec.toNat_ofNat]
  omega

/-- Settles O49: each line of the generator in natural numbers. -/
theorem randomBitsOfARoundingFollowTheGenerator : Obligations.RandomBitsOfARoundingFollowTheGenerator := by
  unfold Obligations.RandomBitsOfARoundingFollowTheGenerator
  intro tag waymark index k z0 z1 z2 z3
  unfold srValue
  dsimp only
  rw [BitVec.toNat_ushiftRight, Nat.shiftRight_eq_div_pow, toNat_xorshift, toNat_xorshift_mul, toNat_xorshift_mul, toNat_srStart]
  rfl

/-! ### INT8 elements (R45) -/

theorem decodeInt8_nonneg {w : Nat} (h : w < 128) : decodeInt8 w = .fin false w (-6) := by
  have hs : natSigned 8 w = w := by unfold natSigned; rw [if_pos (by omega)]; omega
  simp only [decodeInt8, hs, Int.natAbs_natCast]
  rw [decide_eq_false (by omega)]

theorem decodeInt8_neg {w : Nat} (h : 128 ≤ w) (h' : w < 256) : decodeInt8 w = .fin true (256 - w) (-6) := by
  have hs : natSigned 8 w = w - 256 := by unfold natSigned; rw [if_neg (by omega)]; omega
  simp only [decodeInt8, hs]
  rw [decide_eq_true (by omega), show ((w : Int) - 256).natAbs = 256 - w by omega]

/-- What R45 says of the elements that a conversion writes. -/
def Int8Written (w : Nat) : Prop := w ≠ 0x80 ∧ ∃ neg m, m ≤ 127 ∧ decodeInt8 w = .fin neg m (-6)

theorem int8Written_nonneg {c : Nat} (h : c ≤ 127) : Int8Written c :=
  ⟨by omega, false, c, h, decodeInt8_nonneg (by omega)⟩

theorem int8Written_neg {c : Nat} (h : c ≤ 127) : Int8Written ((256 - c) % 256) := by
  by_cases hc : c = 0
  · subst hc
    exact int8Written_nonneg (c := 0) (by omega)
  · rw [Nat.mod_eq_of_lt (by omega)]
    refine ⟨by omega, true, c, h, ?_⟩
    rw [decodeInt8_neg (by omega) (by omega), show 256 - (256 - c) = c by omega]

/-- The clamp to 127 on both sides keeps 0x80 out. -/
theorem quantElem_int8 (rnd : Rnd) (r : Nat) (x : Int) (n : Machine.Num) : Int8Written (quantElem .mxInt8 rnd r x n).1 := by
  cases n with
  | nan => exact int8Written_nonneg (c := 0) (by omega)
  | inf neg => exact int8Written_nonneg (c := 0) (by omega)
  | fin neg m e =>
    have hc : min (roundAt rnd r m (e - x + 6) 0).1 127 ≤ 127 := Nat.min_le_right _ _
    cases neg with
    | false => exact int8Written_nonneg hc
    | true => exact int8Written_neg hc

/-- Every element of a quantised block is 0 or the quantisation of one lane. -/
theorem quantiseMx_elem {f : Fmt} {rnd : Rnd} {r : Nat → Nat} {v : List W32} {e : Nat × RFlags} (he : e ∈ (quantiseMx f rnd r v).2.1) :
    e = (0, {}) ∨ ∃ i x n, e = quantElem f rnd (r i) x n := by
  unfold quantiseMx at he
  dsimp only at he
  split at he
  · obtain ⟨_, -, rfl⟩ := List.mem_map.1 he
    exact .inl rfl
  · split at he
    · obtain ⟨_, -, rfl⟩ := List.mem_map.1 he
      exact .inl rfl
    · obtain ⟨i, hi, rfl⟩ := List.mem_mapIdx.1 he
      exact .inr ⟨i, _, _, rfl⟩

/-- Settles O50: the reading by the sign bit, and the clamp of `quantElem` for every element of a block. -/
theorem int8ElementsReadAndNeverHoldMinusTwo : Obligations.Int8ElementsReadAndNeverHoldMinusTwo := by
  unfold Obligations.Int8ElementsReadAndNeverHoldMinusTwo
  refine ⟨fun w hw => ?_, decodeInt8_neg (by omega) (by omega), fun rnd r v e he => ?_⟩
  · by_cases h : w < 128
    · rw [decodeInt8_nonneg h, if_pos h, decide_eq_false (by omega)]
    · rw [decodeInt8_neg (by omega) hw, if_neg h, decide_eq_true (by omega)]
  · rcases quantiseMx_elem he with rfl | ⟨i, x, n, rfl⟩
    · exact int8Written_nonneg (c := 0) (by omega)
    · exact quantElem_int8 rnd (r i) x n

end Sys2Proof.Machine
end

section
/-!
PROOF of O21. A command whose instruction may fire runs to its body after the dequeues and updates of the firing; lane operations
and single results then are writes of registers within the frame of a firing.
-/
namespace Sys2Proof.Machine

variable {s : State} {a : TileAddr} {task : Fin 4} {slot : Fin 128}

/-! ### Firing -/

/-- An instruction that may fire runs to what its body makes of the state after the dequeues and updates of the firing. -/
theorem RunsTo.ofFire {i : Instr} {opc : Nat} {body : SlotWord → Tile → State → State} {P : State → Prop}
    (hx : exec i s = .next (s.fire a task slot opc noCmp body)) (h : s.canFire a task slot opc = true)
    (hP : P (body (s.slotOp a slot) (s.tile a) (s.fired a task slot))) : RunsTo i s P :=
  ⟨_, hx.trans (congrArg _ (State.fire_pos h)), hP⟩

theorem State.fired_firing (s : State) (a : TileAddr) (task slot : Nat) : FiringFrame a task s (s.fired a task slot) :=
  (State.fired_frame s a task (s.slotOp a slot) false).1

theorem State.fired_reg (s : State) (a : TileAddr) (task slot n : Nat) :
    ((s.fired a task slot).taskOf a task).reg n = (s.taskOf a task).reg n :=
  (State.fired_frame s a task (s.slotOp a slot) false).2.1 n

/-- The running waymark of a field does not depend on the tiles. -/
theorem State.fldWm_fired (s : State) (a : TileAddr) (task slot : Nat) (p : Fin 2) : (s.fired a task slot).fldWm p = s.fldWm p := rfl

/-! ### Registers and vectors -/

/-- A body that writes one vector. -/
theorem RunsTo.ofSetV {i : Instr} {opc : Nat} {n : SlotWord → Nat} {v : SlotWord → Tile → Nat → W32}
    (hx : exec i s = .next (s.fire a task slot opc noCmp (fun w t s => s.setV a task (n w) (v w t))))
    (h : s.canFire a task slot opc = true) :
    RunsTo i s (WroteVec a task s (n (s.slotOp a slot)) (v (s.slotOp a slot) (s.tile a))) :=
  RunsTo.ofFire hx h (State.setV_wrote (State.fired_firing ..) (State.fired_reg s a task slot) _ _)

/-- A lane operation writes the vector DST. -/
theorem RunsTo.ofLaneOp {i : Instr} {opc : Nat} {f : W32 → W32 → W32 → W32} (hx : exec i s = .next (s.laneOp a task slot opc f))
    (h : s.canFire a task slot opc = true) :
    let w := s.slotOp a slot
    let c := s.taskOf a task
    RunsTo i s (WroteVec a task s w.dst (fun l => f (c.lane w.src1 l) (c.lane w.src2 l) (c.lane w.dst l))) :=
  RunsTo.ofSetV (n := SlotWord.dst)
    (v := fun w t l => f ((t.task task).lane w.src1 l) ((t.task task).lane w.src2 l) ((t.task task).lane w.dst l)) hx h

/-! ### Masks (R138) -/

/-- The number whose bit l is f l, for the bits below n. -/
def bitsNat (f : Nat → Bool) (n : Nat) : Nat := (List.range n).foldl (fun x l => x + boolNat (f l) <<< l) 0

theorem bitsNat_succ (f : Nat → Bool) (n : Nat) : bitsNat f (n + 1) = bitsNat f n + 2 ^ n * boolNat (f n) := by
  unfold bitsNat
  rw [List.range_succ, List.foldl_append, List.foldl_cons, List.foldl_nil, Nat.shiftLeft_eq, Nat.mul_comm (boolNat (f n))]

theorem bitsNat_lt (f : Nat → Bool) (n : Nat) : bitsNat f n < 2 ^ n := by
  induction n with
  | zero => exact Nat.one_pos
  | succ n ih =>
    rw [bitsNat_succ, Nat.pow_succ]
    have hb : boolNat (f n) ≤ 1 := by unfold boolNat; split <;> omega
    have := Nat.mul_le_mul_left (2 ^ n) hb
    omega

theorem testBit_boolNat (b : Bool) (i : Nat) : (boolNat b).testBit i = (decide (i = 0) && b) := by
  cases b with
  | false => exact (Nat.zero_testBit i).trans (Bool.and_false _).symm
  | true =>
    rw [Bool.and_true, Bool.eq_iff_iff, decide_eq_true_iff]
    exact Nat.testBit_one_eq_true_iff_self_eq_zero

theorem testBit_bitsNat (f : Nat → Bool) (n i : Nat) : (bitsNat f n).testBit i = (decide (i < n) && f i) := by
  induction n with
  | zero =>
    rw [decide_eq_false (Nat.not_lt_zero i), Bool.false_and]
    exact Nat.zero_testBit i
  | succ n ih =>
    rw [bitsNat_succ, Nat.add_comm, Nat.two_pow_add_eq_or_of_lt (bitsNat_lt f n), Nat.testBit_or, ih, Nat.testBit_two_pow_mul,
      testBit_boolNat]
    rcases Nat.lt_trichotomy i n with h | rfl | h
    · rw [decide_eq_false (show ¬ i ≥ n by omega), decide_eq_true h, decide_eq_true (show i < n + 1 by omega), Bool.false_and,
        Bool.false_or]
    · rw [decide_eq_true (show i ≥ i by omega), decide_eq_true (show i - i = 0 by omega), decide_eq_false (show ¬ i < i by omega),
        decide_eq_true (show i < i + 1 by omega), Bool.false_and, Bool.or_false, Bool.true_and]
    · rw [decide_eq_false (show ¬ i - n = 0 by omega), decide_eq_false (show ¬ i < n by omega),
        decide_eq_false (show ¬ i < n + 1 by omega), Bool.false_and, Bool.and_false, Bool.false_and, Bool.false_or]

theorem SlotWord.immF_bit (w : SlotWord) (k : Nat) : w.immF k k < 2 := by
  unfold SlotWord.immF natBits
  rw [Nat.add_sub_cancel_left]
  exact Nat.mod_lt _ (by decide)

/-- The mask bits of a lane vector in one half of a register; the other half stays. -/
theorem getLsbD_setBits_half (x : W32) (f : Nat → Bool) {lo : Nat} (hlo : lo = 0 ∨ lo = 16) :
    (∀ l, l < 16 → (setBits x (lo + 15) lo (bitsNat f 16)).getLsbD (lo + l) = f l) ∧
    (∀ i, i < 32 → ¬ (lo ≤ i ∧ i < lo + 16) → (setBits x (lo + 15) lo (bitsNat f 16)).getLsbD i = x.getLsbD i) := by
  refine ⟨fun l hl => ?_, fun i _ hi => ?_⟩
  · rw [getLsbD_setBits, if_pos (by omega), testBit_bitsNat, Nat.add_sub_cancel_left]
    simp only [hl, decide_true, Bool.true_and, decide_eq_true (show lo + l < 32 by omega)]
  · rw [getLsbD_setBits, if_neg (by omega)]

/-! ### The statement -/

/-- Settles O21: the lane operations and VBCAST and VSEL by the rule for vectors, VRED and VMASK by the rule for one register. -/
theorem vectorInstructionsWriteEveryLane : Obligations.VectorInstructionsWriteEveryLane := by
  unfold Obligations.VectorInstructionsWriteEveryLane
  intro a task slot s w c
  refine ⟨RunsTo.ofLaneOp rfl, RunsTo.ofLaneOp (f := fun x y _ => fpAdd x y) rfl, RunsTo.ofLaneOp (f := fun x y _ => fpMul x y) rfl,
    RunsTo.ofLaneOp (f := fun x y _ => fpMax x y) rfl, RunsTo.ofLaneOp (f := fun x y _ => fpMin x y) rfl,
    RunsTo.ofSetV (n := SlotWord.dst) (v := fun w t _ => (t.task task).reg w.src1) rfl,
    RunsTo.ofSetV (n := SlotWord.dst)
      (v := fun w t l => if ((t.task task).reg w.src2).getLsbD (l + 16 * w.immF 0 0) then (t.task task).lane w.src1 l else 0) rfl,
    fun h => RunsTo.ofFire rfl h (State.setG_wrote (State.fired_firing ..) (State.fired_reg s a task slot) _ _),
    fun h => ?_⟩
  have hhalf : 16 * w.immF 3 3 = 0 ∨ 16 * w.immF 3 3 = 16 := by
    have hbit := w.immF_bit 3
    omega
  exact RunsTo.ofFire rfl h ⟨_, State.setG_wrote (State.fired_firing ..) (State.fired_reg s a task slot) _ _,
    getLsbD_setBits_half (c.reg w.dst) (maskBit c w (s.fldWm a.fld.plane)) hhalf⟩

end Sys2Proof.Machine
end

section
/-!
PROOF of O22. The notes of converted elements touch the flags of the task alone, so that what a conversion writes is told by its
register writes, and what it sends by its one token.
-/
namespace Sys2Proof.Machine

variable {s t u : State} {a : TileAddr} {task : Nat}

/-! ### Notes of results: only flags of the task, among what tiles hold -/

/-- Of all tiles only the flags in the status of one task changed. -/
structure FlagsOnly (a : TileAddr) (task : Nat) (s t : State) : Prop where
  tile : t.tile a = { s.tile a with tasks := (t.tile a).tasks }
  context : (t.tile a).task task = { (s.tile a).task task with flags := ((t.tile a).task task).flags }
  tiles : ∀ b, b ≠ a → t.tile b = s.tile b

theorem FlagsOnly.refl (a : TileAddr) (task : Nat) (s : State) : FlagsOnly a task s s := ⟨rfl, rfl, fun _ _ => rfl⟩

theorem FlagsOnly.trans (h : FlagsOnly a task s t) (k : FlagsOnly a task t u) : FlagsOnly a task s u :=
  ⟨by rw [k.tile, h.tile], by rw [k.context, h.context], fun b hb => (k.tiles b hb).trans (h.tiles b hb)⟩

theorem FlagsOnly.foldl {β : Type} {f : State → β → State} (hf : ∀ u x, FlagsOnly a task u (f u x)) :
    ∀ (l : List β) {t : State}, FlagsOnly a task s t → FlagsOnly a task s (l.foldl f t)
  | [], _, h => h
  | x :: r, t, h => FlagsOnly.foldl hf r (h.trans (hf t x))

theorem FlagsOnly.reg (h : FlagsOnly a task s t) (n : Nat) : (t.taskOf a task).reg n = (s.taskOf a task).reg n := by
  unfold State.taskOf TaskCtx.reg
  rw [h.context]

theorem FlagsOnly.oqOf (h : FlagsOnly a task s t) (q : Nat) : (t.tile a).oqOf q = (s.tile a).oqOf q := by
  unfold Tile.oqOf
  rw [h.tile]

theorem State.taskFlags_flagsOnly (s : State) (a : TileAddr) (task : Nat) (b : BitVec 8) : FlagsOnly a task s (s.taskFlags a task b) := by
  unfold State.taskFlags
  refine ⟨?_, ?_, fun x hx => by rw [State.tile_setTile, if_neg hx]⟩
  · rw [State.tile_setTile_same]; rfl
  · rw [State.tile_setTile_same, Tile.task_setTask_same]

@[simp] theorem State.tile_raiseBits (s : State) (p : Page) (off : Nat) (b : W64) (x : TileAddr) :
    (s.raiseBits p off b).tile x = s.tile x := (State.raiseBits_only s p off b).tile x

@[simp] theorem State.tile_arfFlags (s : State) (f : FieldAddr) (b : BitVec 8) (x : TileAddr) : (s.arfFlags f b).tile x = s.tile x := by
  simp only [State.arfFlags, apply_ite (fun u : State => u.tile x), State.tile_setIrq, State.tile_raiseBits, ite_self]

/-- Beside the flags of the task a note changes no tile: counters, captures and records are elsewhere. -/
theorem State.tile_noteResult (s : State) (a : TileAddr) (task : Nat) (w : Waymark) (lo hi range : Bool) (f : RFlags) (sr fast : Bool)
    (x : TileAddr) :
    (s.noteResult a task w lo hi range f sr fast).tile x = (s.taskFlags a task (flagByte lo hi range f)).tile x := by
  simp only [State.noteResult, apply_ite (fun u : State => u.tile x), State.tile_countWm, State.tile_raiseOnce, State.tile_captureTile,
    State.tile_arfFlags, ite_self]

theorem State.noteResult_flagsOnly (s : State) (a : TileAddr) (task : Nat) (w : Waymark) (lo hi range : Bool) (f : RFlags)
    (sr fast : Bool) : FlagsOnly a task s (s.noteResult a task w lo hi range f sr fast) := by
  obtain ⟨htile, hcontext, htiles⟩ := State.taskFlags_flagsOnly s a task (flagByte lo hi range f)
  constructor <;> simp only [State.tile_noteResult] <;> assumption

theorem State.noteConverted_flagsOnly (s : State) (a : TileAddr) (task : Nat) (f : RFlags) (sr : Bool) :
    FlagsOnly a task s (s.noteConverted a task f sr) := State.noteResult_flagsOnly ..

/-! ### Registers written one after another -/

/-- From s to t one register of a task takes a value; its other registers and the other tiles stay. -/
structure SetsReg (a : TileAddr) (task n : Nat) (x : W32) (s t : State) : Prop where
  reg : ∀ m, (t.taskOf a task).reg m = if m = n then x else (s.taskOf a task).reg m
  tiles : ∀ b, b ≠ a → t.tile b = s.tile b

/-- From s to t each of the n registers from `base` on takes a value that P accepts; the others and the other tiles stay. -/
structure SetsRegs (a : TileAddr) (task base n : Nat) (P : Nat → W32 → Prop) (s t : State) : Prop where
  value : ∀ e, e < n → P e ((t.taskOf a task).reg (base + e))
  others : ∀ r, ¬ (base ≤ r ∧ r < base + n) → (t.taskOf a task).reg r = (s.taskOf a task).reg r
  tiles : ∀ b, b ≠ a → t.tile b = s.tile b

theorem State.setG_sets (s : State) (a : TileAddr) (task n : Nat) (x : W32) : SetsReg a task n x s (s.setG a task n x) := by
  unfold State.setG
  refine ⟨fun m => ?_, fun b hb => by rw [State.tile_setTile, if_neg hb]⟩
  unfold State.taskOf
  rw [State.tile_setTile_same, Tile.task_setTask_same, TaskCtx.reg_setReg]

theorem SetsReg.flags {n : Nat} {x : W32} (h : SetsReg a task n x s t) (k : FlagsOnly a task t u) : SetsReg a task n x s u :=
  ⟨fun m => (k.reg m).trans (h.reg m), fun b hb => (k.tiles b hb).trans (h.tiles b hb)⟩

/-- A free value changes no tile. -/
theorem State.tile_freeBits (s : State) (n : Nat) (x : TileAddr) : (s.freeBits n).2.tile x = s.tile x := rfl

/-- A register takes the value given, where one is. -/
theorem State.setOrFree_sets (s : State) (a : TileAddr) (task n : Nat) (v : Option W32) :
    ∃ x, (∀ y, v = some y → x = y) ∧ SetsReg a task n x s (s.setOrFree a task n v) := by
  cases v with
  | some y => exact ⟨y, fun _ h => Option.some.inj h, State.setG_sets s a task n y⟩
  | none =>
    obtain ⟨hreg, htiles⟩ := State.setG_sets (s.freeBits 32).2 a task n (s.freeBits 32).1
    refine ⟨(s.freeBits 32).1, fun _ h => absurd h.symm (Option.some_ne_none _), hreg, fun b hb => ?_⟩
    exact (htiles b hb).trans (State.tile_freeBits s 32 b)

theorem SetsRegs.foldl {base : Nat} {P : Nat → W32 → Prop} {f : State → Nat → State}
    (hf : ∀ u e, ∃ x, P e x ∧ SetsReg a task (base + e) x u (f u e)) :
    ∀ n, SetsRegs a task base n P s ((List.range n).foldl f s) := by
  intro n
  induction n with
  | zero => exact ⟨fun e he => absurd he (Nat.not_lt_zero e), fun _ _ => rfl, fun _ _ => rfl⟩
  | succ n ih =>
    rw [List.range_succ, List.foldl_append, List.foldl_cons, List.foldl_nil]
    obtain ⟨x, hx, hset⟩ := hf ((List.range n).foldl f s) n
    refine ⟨fun e he => ?_, fun r hr => ?_, fun b hb => (hset.tiles b hb).trans (ih.tiles b hb)⟩
    · rw [hset.reg]
      by_cases h : e = n
      · rw [if_pos (by omega), h]; exact hx
      · rw [if_neg (by omega)]; exact ih.value e (by omega)
    · rw [hset.reg, if_neg (by omega)]
      exact ih.others r (by omega)

/-- Where the values are given, what each register holds. -/
theorem SetsRegs.reg {base n : Nat} {v : Nat → W32} (h : SetsRegs a task base n (fun e x => x = v e) s t) (r : Nat) :
    (t.taskOf a task).reg r = if base ≤ r ∧ r < base + n then v (r - base) else (s.taskOf a task).reg r := by
  by_cases hr : base ≤ r ∧ r < base + n
  · have hv := h.value (r - base) (by omega)
    rw [Nat.add_sub_cancel' hr.1] at hv
    rw [if_pos hr, hv]
  · rw [if_neg hr, h.others r hr]

/-! ### Tokens sent -/

theorem Tile.oqOf_enqueue (t : Tile) {d : Nat} (hd : d < 8) (x : OTok) : (t.enqueue d x).oqOf d = t.oqOf d ++ [x] := by
  unfold Tile.enqueue
  rw [if_pos hd]
  exact look_put_same _ _ _ _

/-- A token joins its output queue behind what stood there; the registers and the other tiles stay. -/
theorem State.enq_facts (s : State) (a : TileAddr) (task d : Nat) (x : OTok) :
    (∀ b, b ≠ a → (s.enq a d x).tile b = s.tile b) ∧ (∀ r, ((s.enq a d x).taskOf a task).reg r = (s.taskOf a task).reg r) ∧
      (d < 8 → ((s.enq a d x).tile a).oqOf d = (s.tile a).oqOf d ++ [x]) := by
  unfold State.enq State.taskOf
  rw [State.tile_setTile_same]
  exact ⟨fun b hb => by rw [State.tile_setTile, if_neg hb], fun r => by rw [Tile.task_enqueue], fun hd => Tile.oqOf_enqueue _ hd x⟩

variable {k : Fin 4} {slot : Fin 128}

/-- An instruction that may fire and meets no stop runs to what its body makes of the state after its dequeues and updates. -/
theorem RunsTo.ofFireUnless {i : Instr} {opc : Nat} {stop : SlotWord → Tile → Option Nat} {body : SlotWord → Tile → State → State}
    {P : State → Prop} (hx : exec i s = .next (s.fireUnless a k slot opc stop body)) (h : s.canFire a k slot opc = true)
    (hstop : stop (s.slotOp a slot) (s.tile a) = none) (hP : P (body (s.slotOp a slot) (s.tile a) (s.fired a k slot))) :
    RunsTo i s P := by
  refine ⟨_, hx.trans (congrArg _ ?_), hP⟩
  unfold State.fireUnless
  rw [if_pos h]
  dsimp only
  rw [show stop ((s.tile a).slotWord slot) (s.tile a) = none from hstop]
  rfl

/-- Register writes after a firing, as changes of the state before it. -/
theorem SetsRegs.ofFired {base n : Nat} {P : Nat → W32 → Prop} (h : SetsRegs a k base n P (s.fired a k slot) t) :
    SetsRegs a k base n P s t :=
  ⟨h.value, fun r hr => (h.others r hr).trans (State.fired_reg s a k slot r),
    fun b hb => (h.tiles b hb).trans ((State.fired_firing s a k slot).only.tiles b hb)⟩

/-- A token sent after a firing and notes. -/
theorem FlagsOnly.sends (h : FlagsOnly a k (s.fired a k slot) u) (q : Nat) (x : OTok) :
    (∀ b, b ≠ a → (u.enq a q x).tile b = s.tile b) ∧ (∀ r, ((u.enq a q x).taskOf a k).reg r = (s.taskOf a k).reg r) ∧
      (q < 8 → ((u.enq a q x).tile a).oqOf q = ((s.fired a k slot).tile a).oqOf q ++ [x]) := by
  obtain ⟨htiles, hregs, hoq⟩ := State.enq_facts u a k q x
  exact ⟨fun b hb => ((htiles b hb).trans (h.tiles b hb)).trans ((State.fired_firing s a k slot).only.tiles b hb),
    fun r => ((hregs r).trans (h.reg r)).trans (State.fired_reg s a k slot r), fun hq => (hoq hq).trans (by rw [h.oqOf])⟩

/-! ### The loops of the conversions -/

theorem State.unpackFp32_sets (s : State) (a : TileAddr) (task base : Nat) (d : DataTok) :
    SetsRegs a task base 8 (fun e x => x = BitVec.ofNat 32 (payElem .fp32 d.payload e)) s
      ((List.range 8).foldl (fun s e => s.setG a task (base + e) (BitVec.ofNat 32 (payElem .fp32 d.payload e))) s) :=
  SetsRegs.foldl (P := fun e x => x = BitVec.ofNat 32 (payElem .fp32 d.payload e))
    (fun u e => ⟨_, rfl, State.setG_sets u a task (base + e) _⟩) 8

theorem State.unpackElems_sets (s : State) (a : TileAddr) (task base n : Nat) (r : Nat → W32 × RFlags) :
    SetsRegs a task base n (fun e x => x = (r e).1) s
      ((List.range n).foldl (fun s e => (s.setG a task (base + e) (r e).1).noteConverted a task (r e).2 false) s) :=
  SetsRegs.foldl (P := fun e x => x = (r e).1)
    (fun u e => ⟨_, rfl, (State.setG_sets u a task (base + e) _).flags (State.noteConverted_flagsOnly ..)⟩) n

theorem State.noteBlock_flagsOnly (s : State) (a : TileAddr) (task : Nat) (sr : Bool) (b : Nat × List (Nat × RFlags) × Bool) :
    FlagsOnly a task s (b.2.1.foldl (fun s e => s.noteConverted a task e.2 sr)
      (if b.2.2 then s.noteConverted a task { scaleNan := true } false else s)) := by
  refine FlagsOnly.foldl (fun u x => State.noteConverted_flagsOnly ..) _ ?_
  split
  · exact State.noteConverted_flagsOnly ..
  · exact FlagsOnly.refl ..

/-! ### The token of VQMX (R136) -/

/-- The blocks that VQMX quantises. -/
def mxBlocks (f : Fmt) (rfw : Nat) (c : TaskCtx) (w : SlotWord) (wm : Waymark) : List (Nat × List (Nat × RFlags) × Bool) :=
  let first := if f == .mxE2m1 then 0 else 16 * w.src1
  (List.range (if f == .mxE2m1 then 2 else 1)).map (fun n =>
    quantiseMx f (rfwRnd rfw) (fun i => srValue c.tag0 wm (laneIndex c (c.reg w.dst) (32 * n + i)))
      ((List.range 32).map (fun i => c.reg (first + 32 * n + i))))

/-- The data token of quantised blocks. -/
def mxToken (f : Fmt) (rfw : Nat) (epoch : BitVec 2) (bs : List (Nat × List (Nat × RFlags) × Bool)) : DataTok :=
  { payload := BitVec.ofNat 256 (packCodes f.bits (bs.flatMap (fun x => x.2.1.map (·.1))))
    scales := BitVec.ofNat 64 ((List.range 8).foldl (fun x n => x + (bs[n / 4]?.elim 0 (·.1)) <<< (8 * n)) 0)
    fmt := BitVec.ofNat 4 (rfwFmt rfw), saxis := true, epoch := epoch }

/-- VQMX notes its elements and sends the token of its blocks. -/
theorem RunsTo.ofVqmx {f : Fmt} (h : s.canFire a k slot 0x35 = true)
    (hf : Fmt.ofCode (rfwFmt ((s.slotOp a slot).immF 15 0)) = some f) :
    let w := s.slotOp a slot
    RunsTo (.opVqmx a k slot) s (fun t => ∃ u, FlagsOnly a k (s.fired a k slot) u ∧
      t = u.enq a (w.immF 19 16) (.data (mxToken f (w.immF 15 0) (s.tile a).epoch
        (mxBlocks f (w.immF 15 0) (s.taskOf a k) w (s.fldWm a.fld.plane))))) := by
  refine RunsTo.ofFire rfl h ?_
  have hbs : (List.range (if f == .mxE2m1 then 2 else 1)).map (fun n =>
      quantiseMx f (rfwRnd ((s.slotOp a slot).immF 15 0))
        (fun i => srValue ((s.tile a).task k).tag0 ((s.fired a k slot).fldWm a.fld.plane)
          (laneIndex ((s.tile a).task k) (((s.tile a).task k).reg (s.slotOp a slot).dst) (32 * n + i)))
        ((List.range 32).map (fun i =>
          ((s.tile a).task k).reg ((if f == .mxE2m1 then 0 else 16 * (s.slotOp a slot).src1) + 32 * n + i)))) =
      mxBlocks f ((s.slotOp a slot).immF 15 0) (s.taskOf a k) (s.slotOp a slot) (s.fldWm a.fld.plane) := rfl
  simp only [hf, hbs]
  generalize mxBlocks f ((s.slotOp a slot).immF 15 0) (s.taskOf a k) (s.slotOp a slot) (s.fldWm a.fld.plane) = bs
  refine ⟨_, FlagsOnly.foldl (fun u b => State.noteBlock_flagsOnly u a k (rfwRnd ((s.slotOp a slot).immF 15 0) == .sr) b) bs
    (FlagsOnly.refl ..), ?_⟩
  unfold mxToken
  congr 5
  funext x n
  cases bs[n / 4]? <;> rfl

/-! ### The statement -/

/-- A table instruction sets its 16 registers, each to its result where R140 gives one. -/
theorem RunsTo.ofTableOp {i : Instr} {opc : Nat} {deriv : Bool} (hx : exec i s = .next (s.tableOp a k slot opc deriv))
    (h : s.canFire a k slot opc = true) :
    let w := s.slotOp a slot
    RunsTo i s (SetsRegs a k (16 * w.dst) 16
      (fun l x => ∀ v, tabEval (s.tile a) (w.immF 0 0) deriv ((s.taskOf a k).lane w.src1 l) = some v → x = v) s) :=
  RunsTo.ofFire hx h (SetsRegs.ofFired (SetsRegs.foldl (fun u _ => State.setOrFree_sets u a k _ _) 16))

/-- Settles O22: register writes for VUNP, VTAB and VTABD, one token behind the notes for VPACK, VQMX and VEXACT. -/
theorem vectorConversionsFollowTheirFormats : Obligations.VectorConversionsFollowTheirFormats := by
  unfold Obligations.VectorConversionsFollowTheirFormats
  intro a task slot s w c b rfw others wroteFrom looked sent
  have htable : ∀ {deriv t}, SetsRegs a task (16 * w.dst) 16
      (fun l x => ∀ v, tabEval b (w.immF 0 0) deriv (c.lane w.src1 l) = some v → x = v) s t → looked deriv t :=
    fun h => ⟨h.tiles, fun l v hl hv => h.value l hl v hv, h.others⟩
  refine ⟨fun d f h hd hun hbind hf => ?_, fun h => ?_, fun h => ?_, fun f e h hf he => ?_, fun f h hf => ?_,
    fun h => RunsTo.ofFire rfl h ((FlagsOnly.refl ..).sends _ _)⟩
  · have hstop : (match b.headData w.qa with
      | some d => if unpackable d.fmt && d.fmt.toNat == wbits (b.dqBind w.qa) 9 6 then none else some faultFmt
      | none => some faultFmt) = none := by
      simp only [hd, hun, hbind, beq_self_eq_true, Bool.and_self, if_true]
    have hd' : (s.tile a).headData (s.slotOp a slot).qa = some d := hd
    by_cases hfp32 : f = .fp32
    · rw [if_pos hfp32]
      rw [hfp32] at hf
      refine RunsTo.ofFireUnless rfl h hstop ?_
      simp only [hd', hf]
      have hset := (State.unpackFp32_sets (s.fired a task slot) a task (16 * w.dst + 8 * w.immF 0 0) d).ofFired
      exact ⟨hset.tiles, hset.reg⟩
    · rw [if_neg hfp32]
      refine RunsTo.ofFireUnless rfl h hstop ?_
      simp only [hd', hf]
      have hset := (State.unpackElems_sets (s.fired a task slot) a task (16 * w.dst) f.perToken
        (unpackElem d f (Rnd.ofCode (w.immF 2 1)) (w.immF 3 3 == 1))).ofFired
      exact ⟨hset.tiles, hset.reg⟩
  · obtain ⟨t, ht, hset⟩ := RunsTo.ofTableOp (i := .opVtab a task slot) rfl h
    exact ⟨t, ht, htable hset⟩
  · obtain ⟨t, ht, hset⟩ := RunsTo.ofTableOp (i := .opVtabd a task slot) rfl h
    exact ⟨t, ht, htable hset⟩
  · have hf' : Fmt.ofCode (rfwFmt ((s.slotOp a slot).immF 15 0)) = some f := hf
    refine RunsTo.ofFire rfl h ?_
    simp only [hf', he, List.map_map]
    exact FlagsOnly.sends (FlagsOnly.foldl (fun u x => State.noteConverted_flagsOnly ..) _ (FlagsOnly.refl ..)) _ _
  · obtain ⟨_, ht, u, hu, rfl⟩ := RunsTo.ofVqmx h hf
    exact ⟨_, ht, hu.sends _ _⟩

end Sys2Proof.Machine
end

section
/-!
PROOF of O20. An EMIT closes its unit first: the bank is left at exact zero and the unit counted. What follows (the token of a
contribution, or the notes and the bytes of the rounded results) keeps that, so that each clause is told where it is made.
-/
namespace Sys2Proof.Machine

variable {s t u : State} {a : TileAddr} {task : Nat}

/-! ### A bank cleared (R124) -/

/-- An entry that a filter drops reads as the default. -/
theorem look_filter_drop {α : Type} (d : Nat → α) (p : Nat × α → Bool) {k : Nat} (hp : ∀ v, p (k, v) = false) :
    ∀ m : List (Nat × α), look d (m.filter p) k = d k
  | [] => rfl
  | (j, v) :: r => by
    have ih := look_filter_drop d p hp r
    by_cases hk : p (j, v) = true
    · have hj : j ≠ k := by
        rintro rfl
        exact absurd ((hp v).symm.trans hk) Bool.false_ne_true
      rw [List.filter_cons_of_pos hk, look, if_neg hj, ih]
    · rw [List.filter_cons_of_neg hk, ih]

theorem Tile.accEl_clearBank_same (t : Tile) (b : Nat) {n : Nat} (hn : n < 64) : (t.clearBank b).accEl b n = ExactVal.zero := by
  refine look_filter_drop _ _ (fun _ => ?_) t.acc
  have hlo : 64 * b ≤ 64 * b + n := by omega
  have hhi : 64 * b + n < 64 * b + 64 := by omega
  simp only [decide_eq_true hlo, decide_eq_true hhi, Bool.and_self, Bool.not_true]

theorem Tile.accEl_clearBank_ne (t : Tile) {b k n : Nat} (hn : n < 64) (hk : k ≠ b) : (t.clearBank b).accEl k n = t.accEl k n := by
  refine look_filter _ _ _ (fun _ => ?_) t.acc
  by_cases hlo : 64 * b ≤ 64 * k + n
  · have hhi : ¬ 64 * k + n < 64 * b + 64 := by omega
    simp only [decide_eq_false hhi, Bool.and_false, Bool.not_false]
  · simp only [decide_eq_false hlo, Bool.false_and, Bool.not_false]

/-! ### A work unit closed -/

/-- The capture of a bank reset, the bank cleared, the unit counted at its task. -/
def Tile.unitClosed (t : Tile) (task b : Nat) : Tile :=
  let u := (t.setCap b Capture.reset).clearBank b
  u.setTask task { u.task task with workUnits := (u.task task).workUnits + 1 }

theorem State.tapEmit_tile (s : State) (a : TileAddr) (task b : Nat) (vals : List ExactVal) (x : TileAddr) :
    (s.tapEmit a task b vals).tile x = (s.setTile a ((s.tile a).setCap b Capture.reset)).tile x := by
  unfold State.tapEmit
  dsimp only
  split <;> rfl

theorem State.closeUnit_tile (s : State) (a : TileAddr) (task b : Nat) (x : TileAddr) :
    (s.closeUnit a task b).tile x = if x = a then (s.tile a).unitClosed task b else s.tile x := by
  unfold State.closeUnit Tile.unitClosed
  dsimp only
  rw [State.tile_count, State.tile_setTile, State.tapEmit_tile, State.tapEmit_tile, State.tile_setTile_same]
  split
  · rfl
  · rw [State.tile_setTile, if_neg ‹_›]

theorem State.closeUnit_tile_same (s : State) (a : TileAddr) (task b : Nat) :
    (s.closeUnit a task b).tile a = (s.tile a).unitClosed task b := by rw [State.closeUnit_tile, if_pos rfl]

theorem Tile.task_unitClosed (t : Tile) (task b : Nat) :
    (t.unitClosed task b).task task = { t.task task with workUnits := (t.task task).workUnits + 1 } := by
  unfold Tile.unitClosed
  rw [Tile.task_setTask_same]
  rfl

theorem State.closeUnit_counts (s : State) (a : TileAddr) (task b : Nat) :
    (s.closeUnit a task b).getC C.TSQ_WORK_UNITS a.fld.inst = min (2 ^ 48 - 1) (s.getC C.TSQ_WORK_UNITS a.fld.inst + 1) := by
  unfold State.closeUnit
  dsimp only
  rw [State.getC_count_narrow _ _ _ rfl]
  have htap : Changes [.tiles, .checks] s (s.tapEmit a task b ((s.tile a).bankVals b)) := State.tapEmit_changes (Changes.refl _ s) (fun _ h => h)
  rw [show ∀ (v : State) x i, (v.setTile a x).getC C.TSQ_WORK_UNITS i = v.getC C.TSQ_WORK_UNITS i from fun _ _ _ => rfl,
    htap.getC (by decide)]

/-- From s to t a work unit of a bank closed (R124). -/
structure UnitClosed (a : TileAddr) (task bk : Nat) (s t : State) : Prop where
  zero : ∀ n, n < 64 → (t.tile a).accEl bk n = ExactVal.zero
  banks : ∀ k n, n < 64 → k ≠ bk → (t.tile a).accEl k n = (s.tile a).accEl k n
  units : (t.taskOf a task).workUnits = (s.taskOf a task).workUnits + 1
  regs : ∀ n, (t.taskOf a task).reg n = (s.taskOf a task).reg n
  counted : t.getC C.TSQ_WORK_UNITS a.fld.inst = min (2 ^ 48 - 1) (s.getC C.TSQ_WORK_UNITS a.fld.inst + 1)
  tiles : ∀ x, x ≠ a → t.tile x = s.tile x

/-- From t to u accumulators, registers and units of the task, the count of units and other tiles stay. -/
structure KeepsUnit (a : TileAddr) (task : Nat) (t u : State) : Prop where
  acc : (u.tile a).acc = (t.tile a).acc
  regs : ∀ n, (u.taskOf a task).reg n = (t.taskOf a task).reg n
  units : (u.taskOf a task).workUnits = (t.taskOf a task).workUnits
  counted : u.getC C.TSQ_WORK_UNITS a.fld.inst = t.getC C.TSQ_WORK_UNITS a.fld.inst
  tiles : ∀ x, x ≠ a → u.tile x = t.tile x

theorem UnitClosed.after {bk : Nat} (h : UnitClosed a task bk s t) (k : KeepsUnit a task t u) : UnitClosed a task bk s u := by
  have hacc : ∀ b n, (u.tile a).accEl b n = (t.tile a).accEl b n := fun b n => by unfold Tile.accEl; rw [k.acc]
  exact ⟨fun n hn => (hacc _ _).trans (h.zero n hn), fun b n hn hb => (hacc _ _).trans (h.banks b n hn hb), k.units.trans h.units,
    fun n => (k.regs n).trans (h.regs n), k.counted.trans h.counted, fun x hx => (k.tiles x hx).trans (h.tiles x hx)⟩

theorem UnitClosed.before {bk : Nat} (k : KeepsUnit a task s t) (h : UnitClosed a task bk t u) : UnitClosed a task bk s u := by
  have hacc : ∀ b n, (t.tile a).accEl b n = (s.tile a).accEl b n := fun b n => by unfold Tile.accEl; rw [k.acc]
  exact ⟨h.zero, fun b n hn hb => (h.banks b n hn hb).trans (hacc _ _), by rw [h.units, k.units],
    fun n => (h.regs n).trans (k.regs n), by rw [h.counted, k.counted], fun x hx => (h.tiles x hx).trans (k.tiles x hx)⟩

theorem State.closeUnit_closes (s : State) (a : TileAddr) (task b : Nat) : UnitClosed a task b s (s.closeUnit a task b) := by
  refine ⟨fun n hn => ?_, fun k n hn hk => ?_, ?_, fun n => ?_, State.closeUnit_counts s a task b, fun x hx => ?_⟩
  · rw [State.closeUnit_tile_same]
    exact Tile.accEl_clearBank_same _ _ hn
  · rw [State.closeUnit_tile_same]
    exact Tile.accEl_clearBank_ne _ hn hk
  · rw [State.taskOf, State.closeUnit_tile_same, Tile.task_unitClosed]
    rfl
  · rw [State.taskOf, State.closeUnit_tile_same, Tile.task_unitClosed]
    rfl
  · rw [State.closeUnit_tile, if_neg hx]

/-! ### What keeps a closed unit -/

theorem State.fired_keepsUnit (s : State) (a : TileAddr) (task : Nat) (slot : Nat) : KeepsUnit a task s (s.fired a task slot) := by
  obtain ⟨honly, hfiring⟩ := State.fired_firing s a task slot
  exact ⟨by rw [hfiring.tile], State.fired_reg s a task slot, by rw [State.taskOf, hfiring.context]; rfl, rfl, honly.tiles⟩

theorem Tile.enqueue_acc (t : Tile) (d : Nat) (x : OTok) : (t.enqueue d x).acc = t.acc := by
  rw [(Tile.enqueue_firing (task := 0) t d x).tile]

theorem State.enq_keepsUnit (s : State) (a : TileAddr) (task d : Nat) (x : OTok) : KeepsUnit a task s (s.enq a d x) := by
  obtain ⟨htiles, hregs, -⟩ := State.enq_facts s a task d x
  refine ⟨?_, hregs, ?_, rfl, htiles⟩
  · rw [State.enq, State.tile_setTile_same, Tile.enqueue_acc]
  · rw [State.taskOf, State.enq, State.tile_setTile_same, Tile.task_enqueue]
    rfl

theorem FlagsOnly.keepsUnit (h : FlagsOnly a task s t)
    (hc : t.getC C.TSQ_WORK_UNITS a.fld.inst = s.getC C.TSQ_WORK_UNITS a.fld.inst) : KeepsUnit a task s t :=
  ⟨by rw [h.tile], h.reg, by rw [State.taskOf, h.context]; rfl, hc, h.tiles⟩

theorem State.noteRounded_flagsOnly (s : State) (a : TileAddr) (task : Nat) (wm : Waymark) (sr : Bool)
    (rs : List (ExactVal × List Byte × RFlags)) : FlagsOnly a task s (s.noteRounded a task wm sr rs) :=
  FlagsOnly.foldl (fun _ _ => State.noteResult_flagsOnly ..) rs (FlagsOnly.refl ..)

theorem State.noteRounded_keepsUnit (s : State) (a : TileAddr) (task : Nat) (wm : Waymark) (sr : Bool)
    (rs : List (ExactVal × List Byte × RFlags)) : KeepsUnit a task s (s.noteRounded a task wm sr rs) := by
  refine (State.noteRounded_flagsOnly s a task wm sr rs).keepsUnit ?_
  have hnote : Changes [.page .ARF, .risen, .ahead, .tiles, .recOnce, .records, .hostOut, .hostHeld, .fwIrq, .msix] s
      (s.noteRounded a task wm sr rs) := State.noteRounded_changes (Changes.refl _ s) (fun _ h => h)
  exact hnote.getC (by decide) _

/-! ### Rows written over clean rows -/

/-- Whole rows written where no gather entry waits: the bytes are stored, and the bytes moved are counted. -/
theorem State.writeRows_clean (s : State) (a : TileAddr) (deep : Bool) (off : Nat) (bs : List Byte)
    (h : ∀ i, i < (bs.length + 31) / 32 → ∀ e ∈ (s.tile a).gather, ¬ (e.deep = deep ∧ e.row = off / 32 + i)) :
    s.writeRows a deep off bs = (s.setTile a ((s.tile a).storeWords deep off bs)).countBank a deep bs.length := by
  unfold State.writeRows
  rw [foldl_const _ s _ (fun i hi => State.flushRow_clean s a deep _ (h i (by simpa using hi)))]

/-- A write over clean rows keeps a closed unit, and stores its bytes. -/
theorem State.storeRows_facts (s : State) (a : TileAddr) (task : Nat) (deep : Bool) (off : Nat) (bs : List Byte) :
    let t := (s.setTile a ((s.tile a).storeWords deep off bs)).countBank a deep bs.length
    KeepsUnit a task s t ∧ ∀ d o, (t.tile a).byte d o =
      if d = deep ∧ off ≤ o ∧ o < off + bs.length then bs.getD (o - off) 0 else (s.tile a).byte d o := by
  obtain ⟨hbytes, honly⟩ := Tile.storeWords_facts (s.tile a) deep off bs
  intro t
  have htile : t.tile a = (s.tile a).storeWords deep off bs := by
    rw [State.countBank_tile, State.tile_setTile_same]
  have hcount : Changes [.page .FEN] (s.setTile a ((s.tile a).storeWords deep off bs)) t :=
    State.countBank_changes (Changes.refl _ _) (fun _ h => h)
  have htask : (t.tile a).task task = (s.tile a).task task := by rw [htile, honly]; rfl
  refine ⟨⟨by rw [htile, honly], fun n => by rw [State.taskOf, htask]; rfl, by rw [State.taskOf, htask]; rfl,
    hcount.getC (by decide) _, fun x hx => ?_⟩, by rw [htile]; exact hbytes⟩
  rw [hcount.tile (by decide), State.tile_setTile, if_neg hx]

/-! ### The rounded results -/

theorem length_leBytes (n x : Nat) : (leBytes n x).length = n := by
  rw [leBytes, List.length_map, List.length_range]

theorem length_exact192Bytes (x : ExactVal) : (exact192Bytes x).length = 32 := by
  rw [exact192Bytes, List.length_append, List.length_append, length_leBytes, length_leBytes, length_leBytes]

/-- A result has the bytes of its format. -/
theorem length_roundResult (x : ExactVal) {rfw : Nat} (hf : rfwFmt rfw ∈ [0, 1, 3, 4, 12]) (tag wm : W32) (i : BitVec 48) :
    (roundResult x rfw tag wm i).1.length = elemSize (rfwFmt rfw) := by
  unfold roundResult
  generalize rfwFmt rfw = f at hf ⊢
  simp only [List.mem_cons, List.not_mem_nil, or_false] at hf
  rcases hf with rfl | rfl | rfl | rfl | rfl
  · exact length_leBytes 4 _
  · exact length_leBytes 2 _
  · exact length_leBytes 1 _
  · exact length_leBytes 1 _
  · exact length_exact192Bytes x

theorem length_flatten_of_forall {α : Type} {l : List (List α)} {z : Nat} (h : ∀ x ∈ l, x.length = z) :
    l.flatten.length = l.length * z := by
  induction l with
  | nil => exact (Nat.zero_mul z).symm
  | cons x l ih =>
    rw [List.flatten_cons, List.length_append, h x List.mem_cons_self, ih (fun y hy => h y (List.mem_cons_of_mem x hy)),
      List.length_cons, Nat.succ_mul, Nat.add_comm]

/-- The bytes of the results of a bank. -/
def emitBytes (vals : List ExactVal) (rfw : Nat) (tag wm : W32) (index : Nat → BitVec 48) : List Byte :=
  (vals.mapIdx (fun n v => (roundResult v rfw tag wm (index n)).1)).flatten

theorem length_emitBytes (b : Tile) (bk : Nat) {rfw : Nat} (hf : rfwFmt rfw ∈ [0, 1, 3, 4, 12]) (tag wm : W32)
    (index : Nat → BitVec 48) : (emitBytes (b.bankVals bk) rfw tag wm index).length = 64 * elemSize (rfwFmt rfw) := by
  unfold emitBytes
  rw [length_flatten_of_forall (z := elemSize (rfwFmt rfw))]
  · rw [List.length_mapIdx, Tile.bankVals, List.length_map, List.length_range]
  · intro x hx
    obtain ⟨n, hn, rfl⟩ := List.mem_mapIdx.1 hx
    exact length_roundResult _ hf ..

/-! ### EMIT ROUND (R127) -/

theorem TileFiring.segs {t u : Tile} (h : TileFiring task t u) : u.segs = t.segs := by rw [h.tile]
theorem TileFiring.gather {t u : Tile} (h : TileFiring task t u) : u.gather = t.gather := by rw [h.tile]
theorem TileFiring.byte {t u : Tile} (h : TileFiring task t u) (d : Bool) (o : Nat) : u.byte d o = t.byte d o := by
  unfold Tile.byte; rw [h.tile]
theorem FlagsOnly.gather (h : FlagsOnly a task s t) : (t.tile a).gather = (s.tile a).gather := by rw [h.tile]
theorem FlagsOnly.byte (h : FlagsOnly a task s t) (d : Bool) (o : Nat) : (t.tile a).byte d o = (s.tile a).byte d o := by
  unfold Tile.byte; rw [h.tile]
theorem State.closeUnit_gather (s : State) (a : TileAddr) (task b : Nat) : ((s.closeUnit a task b).tile a).gather = (s.tile a).gather := by
  rw [State.closeUnit_tile_same]; rfl
theorem State.closeUnit_byte (s : State) (a : TileAddr) (task b : Nat) (d : Bool) (o : Nat) :
    ((s.closeUnit a task b).tile a).byte d o = (s.tile a).byte d o := by
  rw [State.closeUnit_tile_same]; rfl

/-- Segments alone settle whether an access meets one that is OFF. -/
theorem segFault_congr {t u : Tile} (h : t.segs = u.segs) (write : Bool) (used : List (Bool × Nat)) :
    segFault t write used = segFault u write used := by
  unfold segFault Tile.seg
  rw [h]

/-- An aligned EMIT ROUND inside its window and over segments that are on closes its unit, notes its results, and writes them. -/
theorem State.emitRound_writes (s : State) (a : TileAddr) (task slot : Nat) {c : TaskCtx} {w : SlotWord} (vals : List ExactVal) :
    let rc := c.rc (w.immF 2 2 == 1)
    let rfw := wbits rc 15 0
    let deep := w.immF 4 4 == 1
    let x := (c.reg w.src2).toNat
    let off := c.bankOff deep x
    let z := elemSize (rfwFmt rfw)
    x % 32 = 0 → c.legal deep x (64 * z) = true → segFault (s.tile a) true [(deep, off), (deep, off + 64 * z - 1)] = false →
    ∃ v, FlagsOnly a task (s.closeUnit a task (w.immF 1 0)) v ∧ KeepsUnit a task (s.closeUnit a task (w.immF 1 0)) v ∧
      s.emitRound a task slot c w vals = v.writeRows a deep off (emitBytes vals rfw (BitVec.ofNat 32 (wbits rc 63 32))
        (s.fldWm a.fld.plane) (fun n => elemIndex rc (c.reg w.src1) (n / 8) (n % 8))) := by
  intro rc rfw deep x off z hx hlegal hseg
  have hbytes : ∀ (r : Nat → ExactVal → List Byte × RFlags),
      (vals.mapIdx (fun n v => (v, r n v))).flatMap (fun r => r.2.1) = (vals.mapIdx (fun n v => (r n v).1)).flatten := fun r => by
    simp only [List.flatMap_def, List.mapIdx_eq_zipIdx_map, List.map_map]
    rfl
  have hchecked : ∀ (align bound segment ok : State), (if x % 32 != 0 then align else if !c.legal deep x (64 * z) then bound
      else if segFault (s.tile a) true [(deep, off), (deep, off + 64 * z - 1)] then segment else ok) = ok := fun _ _ _ _ => by
    simp only [hx, hlegal, hseg, bne_self_eq_false, Bool.not_true, Bool.false_eq_true, if_false]
  refine ⟨if rfwFmt rfw == 12 then s.closeUnit a task (w.immF 1 0) else (s.closeUnit a task (w.immF 1 0)).noteRounded a task
      (s.fldWm a.fld.plane) (rfwRnd rfw == .sr) (vals.mapIdx (fun n v => (v, roundResult v rfw (BitVec.ofNat 32 (wbits rc 63 32))
        (s.fldWm a.fld.plane) (elemIndex rc (c.reg w.src1) (n / 8) (n % 8))))), ?_, ?_, ?_⟩
  · split
    · exact FlagsOnly.refl ..
    · exact State.noteRounded_flagsOnly ..
  · split
    · exact (FlagsOnly.refl ..).keepsUnit rfl
    · exact State.noteRounded_keepsUnit ..
  · unfold emitBytes
    rw [← hbytes]
    exact hchecked _ _ _ _

/-- An EMIT ROUND over rows without gather entries leaves its unit closed and its bytes stored. -/
theorem State.emitRound_stores (s : State) (a : TileAddr) (task slot : Nat) (c : TaskCtx) (w : SlotWord) (b : Tile) :
    let bk := w.immF 1 0
    let rc := c.rc (w.immF 2 2 == 1)
    let rfw := wbits rc 15 0
    let deep := w.immF 4 4 == 1
    let x := (c.reg w.src2).toNat
    let off := c.bankOff deep x
    let z := elemSize (rfwFmt rfw)
    let bs := emitBytes (b.bankVals bk) rfw (BitVec.ofNat 32 (wbits rc 63 32)) (s.fldWm a.fld.plane)
      (fun n => elemIndex rc (c.reg w.src1) (n / 8) (n % 8))
    x % 32 = 0 → c.legal deep x (64 * z) = true → segFault (s.tile a) true [(deep, off), (deep, off + 64 * z - 1)] = false →
    rfwFmt rfw ∈ [0, 1, 3, 4, 12] →
    (∀ r, off / 32 ≤ r → r < off / 32 + 2 * z → ∀ e ∈ (s.tile a).gather, ¬ (e.deep = deep ∧ e.row = r)) →
    UnitClosed a task bk s (s.emitRound a task slot c w (b.bankVals bk)) ∧
      ∀ d o, ((s.emitRound a task slot c w (b.bankVals bk)).tile a).byte d o =
        if d = deep ∧ off ≤ o ∧ o < off + 64 * z then bs.getD (o - off) 0 else (s.tile a).byte d o := by
  intro bk rc rfw deep x off z bs hx hlegal hseg hfmt hgather
  obtain ⟨v, hflags, hkeeps, hwrite⟩ := State.emitRound_writes s a task slot (b.bankVals bk) hx hlegal hseg
  rw [hwrite]
  have hlen : bs.length = 64 * z := length_emitBytes b bk hfmt ..
  have hrows : v.writeRows a deep off bs = _ := State.writeRows_clean v a deep off bs (fun i hi e he => by
    rw [hflags.gather, State.closeUnit_gather] at he
    exact hgather (off / 32 + i) (by omega) (by omega) e he)
  obtain ⟨hstore, hstored⟩ := State.storeRows_facts v a task deep off bs
  rw [hrows]
  refine ⟨((State.closeUnit_closes s a task bk).after hkeeps).after hstore, fun d o => ?_⟩
  rw [hstored, hlen, hflags.byte, State.closeUnit_byte]

/-! ### The statement -/

variable {k : Fin 4} {slot : Fin 128}

/-- EMIT CONTRIB closes its unit and sends one token. -/
theorem RunsTo.ofEmitContrib (h : s.canFire a k slot 0x22 = true) (hmode : (s.slotOp a slot).immF 3 3 = 1) :
    let w := s.slotOp a slot
    let c := s.taskOf a k
    let rc := c.rc (w.immF 2 2 == 1)
    let fast := rfwFast (wbits rc 15 0)
    RunsTo (.opEmit a k slot) s (fun t => t = ((s.fired a k slot).closeUnit a k (w.immF 1 0)).enq a (w.immF 8 5)
      (.sum { fast := fast, epoch := (s.tile a).epoch, addr := natBits 18 0 (c.reg w.src2).toNat, step := wbits rc 117 112
              elems := ((s.tile a).bankVals (w.immF 1 0)).map (fun v => if fast then fastElem v else .exact v) })) := by
  refine RunsTo.ofFire rfl h ?_
  simp only [hmode, beq_self_eq_true, if_true]
  rfl

/-- Settles O20: the closed unit survives the token of CONTRIB, and the notes and bytes of ROUND. -/
theorem emitClosesItsWorkUnit : Obligations.EmitClosesItsWorkUnit := by
  unfold Obligations.EmitClosesItsWorkUnit
  intro a task slot s w c b bk rc rfw closed hfire
  have hclosed : ∀ {t}, UnitClosed a task bk s t → closed t :=
    fun h => ⟨h.zero, h.banks, h.units, h.regs, h.counted, h.tiles⟩
  have hunit : UnitClosed a task bk s ((s.fired a task slot).closeUnit a task bk) :=
    UnitClosed.before (State.fired_keepsUnit s a task slot) (State.closeUnit_closes _ a task bk)
  refine ⟨fun hmode => ?_, ?_⟩
  · obtain ⟨_, ht, rfl⟩ := RunsTo.ofEmitContrib hfire hmode
    refine ⟨_, ht, hclosed (hunit.after (State.enq_keepsUnit ..)), fun hq => ?_⟩
    rw [(State.enq_facts _ a task _ _).2.2 hq, State.closeUnit_tile_same]
    rfl
  · intro hmode _ _ _ _ _ hx hlegal hseg hfmt hclean
    have hfiring := (State.fired_firing s a task slot).firing
    obtain ⟨hround, hbytes⟩ := State.emitRound_stores (s.fired a task slot) a task slot c w b hx hlegal
      ((segFault_congr hfiring.segs ..).trans hseg) hfmt (fun r hlo hhi e he => by
        rw [hfiring.gather] at he
        exact (hclean r hlo hhi).1 e he)
    refine RunsTo.ofFire rfl hfire ?_
    have hmode' : ((s.slotOp a slot).immF 3 3 == 1) = false := by rw [show (s.slotOp a slot).immF 3 3 = 0 from hmode]; rfl
    simp only [hmode', Bool.false_eq_true, if_false]
    refine ⟨hclosed (UnitClosed.before (State.fired_keepsUnit s a task slot) hround), fun d o => (hbytes d o).trans ?_⟩
    rw [hfiring.byte]
    rfl

end Sys2Proof.Machine
end

section
/-!
PROOF of O32. An accepted write of FEP.SEL with GO stores FEP.SEL, runs one access and shows OK in STATUS. The lemmas say what the
access of READ and of WRITE leaves; every clause of the statement is one of them under `RunsTo.ofFepRead` or `RunsTo.ofFepWrite`.
-/
namespace Sys2Proof.Machine

variable {s u : State} {f : FieldAddr} {fw : Bool} {v : W64}

/-! ### The end of an accepted write -/

theorem State.tile_setStatus (fw : Bool) (p : Page) (code : Nat) (a : TileAddr) : (s.setStatus fw p code).tile a = s.tile a :=
  State.tile_setReg s _ _ _ a

theorem State.fieldSt_setStatus (fw : Bool) (p : Page) (code : Nat) (g : FieldAddr) :
    (s.setStatus fw p code).fieldSt g = s.fieldSt g := State.fieldSt_setReg s _ _ _ g

/-- An accepted write stores its register, acts, and shows OK, where the action leaves the module its power. -/
theorem State.regWrite_acts {p : Page} {off : Nat} {range state : Bool} {action : State → State}
    (h : s.writeCode fw p off true v range state = 0) (hs : off ≠ 0x038) (he : off ≠ 0x040) (hdark : ∀ u, (action u).dark = u.dark) :
    ∃ w, s.regWrite fw p off true v range state action = (action (s.setReg p off w)).setStatus fw p 0 := by
  obtain ⟨hpower, hpage, r, hr⟩ := State.writeCode_accepted h
  refine ⟨s.storedValue r p off v, (State.regWrite_accepted h hr).trans ?_⟩
  rw [State.sendDue_other p hs he]
  exact State.writeResult_ok (((hdark _).trans (State.setReg_dark s _ _ _)).trans hpower) hpage fw off v

/-! ### The answer of an access (R276) -/

/-- An access ends: RESULT in FEP.SEL, and OK in STATUS for the write that started it. -/
def State.fepAnswer (s : State) (f : FieldAddr) (fw : Bool) (result : Nat) : State :=
  (s.setF F.FEP_SEL_RESULT f.inst result).setStatus fw ⟨.FEP, f.inst⟩ 0

@[simp] theorem State.tile_fepAnswer (result : Nat) (a : TileAddr) : (s.fepAnswer f fw result).tile a = s.tile a :=
  (State.tile_setStatus ..).trans (State.tile_setF s _ _ _ a)

@[simp] theorem State.fieldSt_fepAnswer (result : Nat) (g : FieldAddr) : (s.fepAnswer f fw result).fieldSt g = s.fieldSt g :=
  (State.fieldSt_setStatus ..).trans (State.fieldSt_setF s _ _ _ g)

/-- FEP.DATA stands beside the registers that show the end of an access. -/
theorem State.reg_fepAnswer (result : Nat) {off : Nat} (ho : off < 4096) (hsel : off ≠ 0x080) (hstatus : off ≠ 0x020) :
    (s.fepAnswer f fw result).reg ⟨.FEP, f.inst⟩ off = s.reg ⟨.FEP, f.inst⟩ off := by
  rw [State.fepAnswer, State.reg_setStatus_ne _ _ _ _ _ (regKey_ne_of_off ho (by omega) hstatus), State.setF, State.reg_setReg]
  exact if_neg (regKey_ne_of_off ho (by decide) hsel)

theorem State.getF_fepAnswer_result {result : Nat} (h : result < 4) :
    (s.fepAnswer f fw result).getF F.FEP_SEL_RESULT f.inst = result := by
  have hsel : (s.fepAnswer f fw result).reg ⟨.FEP, f.inst⟩ 0x080 =
      (s.setF F.FEP_SEL_RESULT f.inst result).reg ⟨.FEP, f.inst⟩ 0x080 :=
    State.reg_setStatus_ne _ _ _ _ _ (regKey_ne_of_off (by omega) (by omega) (by omega))
  calc (s.fepAnswer f fw result).getF F.FEP_SEL_RESULT f.inst
      = (s.setF F.FEP_SEL_RESULT f.inst result).getF F.FEP_SEL_RESULT f.inst := congrArg (fun w => wbits w 27 26) hsel
    _ = result % 4 := State.getF_setF_same F.FEP_SEL_RESULT f.inst result (by decide) (by decide)
    _ = result := Nat.mod_eq_of_lt h

/-! ### What an access reads, and that the write of FEP.SEL leaves it -/

/-- The item in FEP.DATA0 and FEP.DATA1. -/
def State.fepData (s : State) (f : FieldAddr) : BitVec 128 := s.reg ⟨.FEP, f.inst⟩ 0x090 ++ s.reg ⟨.FEP, f.inst⟩ 0x088

/-- The tables of the field may change: it is held and drained (R260). -/
def State.fepOpen (s : State) (f : FieldAddr) : Prop :=
  s.getF F.MESH_DRAIN_STATE_HELD f.inst ≠ 0 ∧ s.getF F.MESH_DRAIN_STATE_DRAINED f.inst ≠ 0

/-- FEP.SEL with a word in it. -/
def State.setFepSel (s : State) (f : FieldAddr) (w : W64) : State := s.setReg ⟨.FEP, f.inst⟩ 0x080 w

@[simp] theorem State.tile_setFepSel (w : W64) (a : TileAddr) : (s.setFepSel f w).tile a = s.tile a := State.tile_setReg ..

@[simp] theorem State.fieldSt_setFepSel (w : W64) (g : FieldAddr) : (s.setFepSel f w).fieldSt g = s.fieldSt g :=
  State.fieldSt_setReg ..

theorem State.getF_setFepSel (w : W64) (i : Nat) {g : Fld} (hg : g.typ ≠ .FEP) : (s.setFepSel f w).getF g i = s.getF g i := by
  rw [State.setFepSel, State.getF_setReg]
  exact if_neg (regKey_ne_of_typ hg)

theorem State.fepItem_setFepSel (w : W64) : (s.setFepSel f w).fepItem f v = s.fepItem f v := by
  simp only [State.fepItem, State.tile_setFepSel, State.fieldSt_setFepSel]

theorem State.fepData_setFepSel (w : W64) : (s.setFepSel f w).fepData f = s.fepData f := by
  unfold State.fepData State.setFepSel
  rw [State.reg_setReg, State.reg_setReg, if_neg (regKey_ne_of_off (by omega) (by omega) (by omega)),
    if_neg (regKey_ne_of_off (by omega) (by omega) (by omega))]

theorem State.fepOpen_setFepSel (w : W64) : (s.setFepSel f w).fepOpen f ↔ s.fepOpen f := by
  rw [State.fepOpen, State.getF_setFepSel _ _ (by decide), State.getF_setFepSel _ _ (by decide)]
  rfl

/-! ### The accesses -/

/-- The item that READ returns, in FEP.DATA. -/
def State.fepShow (s : State) (f : FieldAddr) (d : BitVec 128) : State :=
  (s.setReg ⟨.FEP, f.inst⟩ 0x088 (d.setWidth 64)).setReg ⟨.FEP, f.inst⟩ 0x090 ((d >>> 64).setWidth 64)

@[simp] theorem State.tile_fepShow (d : BitVec 128) (a : TileAddr) : (s.fepShow f d).tile a = s.tile a := by simp [State.fepShow]

@[simp] theorem State.fieldSt_fepShow (d : BitVec 128) (g : FieldAddr) : (s.fepShow f d).fieldSt g = s.fieldSt g := by
  simp [State.fepShow]

theorem State.fepShow_data0 (d : BitVec 128) : (s.fepShow f d).reg ⟨.FEP, f.inst⟩ 0x088 = d.setWidth 64 := by
  rw [State.fepShow, State.reg_setReg, if_neg (regKey_ne_of_off (by omega) (by omega) (by omega)), State.reg_setReg_same]

theorem State.fepShow_data1 (d : BitVec 128) : (s.fepShow f d).reg ⟨.FEP, f.inst⟩ 0x090 = (d >>> 64).setWidth 64 :=
  State.reg_setReg_same ..

/-- What the access of WRITE leaves before its answer, and the answer. -/
def State.fepStore (s : State) (f : FieldAddr) (v : W64) : State × Nat :=
  if s.getF F.MESH_DRAIN_STATE_HELD f.inst == 0 || s.getF F.MESH_DRAIN_STATE_DRAINED f.inst == 0 then (s, 1)
  else if fepBad (wbits v 1 0) (s.fepData f) then (s, 2)
  else (s.fepPut f v (s.fepData f), 0)

theorem State.fepStore_closed (h : ¬ s.fepOpen f) : s.fepStore f v = (s, 1) :=
  if_pos (by
    rw [Bool.or_eq_true, beq_iff_eq, beq_iff_eq]
    exact Decidable.or_iff_not_imp_left.2 fun hheld => Decidable.byContradiction fun hdrained => h ⟨hheld, hdrained⟩)

theorem State.fepStore_open (h : s.fepOpen f) :
    s.fepStore f v = if fepBad (wbits v 1 0) (s.fepData f) then (s, 2) else (s.fepPut f v (s.fepData f), 0) :=
  if_neg (by rw [Bool.or_eq_true, beq_iff_eq, beq_iff_eq, not_or]; exact h)

theorem State.fepStore_bad (h : s.fepOpen f) (hbad : fepBad (wbits v 1 0) (s.fepData f) = true) : s.fepStore f v = (s, 2) :=
  (State.fepStore_open h).trans (if_pos hbad)

theorem State.fepStore_legal (h : s.fepOpen f) (hbad : fepBad (wbits v 1 0) (s.fepData f) = false) :
    s.fepStore f v = (s.fepPut f v (s.fepData f), 0) :=
  (State.fepStore_open h).trans (if_neg (by simp [hbad]))

theorem State.fepPut_dark (d : BitVec 128) : (s.fepPut f v d).dark = s.dark := by
  unfold State.fepPut
  dsimp only
  split <;> rfl

theorem State.fepStore_dark : (s.fepStore f v).1.dark = s.dark := by
  unfold State.fepStore
  split
  · rfl
  · split
    · rfl
    · exact State.fepPut_dark _

/-- The access that a write of FEP.SEL starts: what it leaves before its answer, and the answer. -/
def State.fepAccess (s : State) (f : FieldAddr) (v : W64) : State × Nat :=
  if wbits v 23 22 == 0 then (s.fepShow f (s.fepItem f v), 0) else s.fepStore f v

theorem State.fepAccess_dark : (s.fepAccess f v).1.dark = s.dark := by
  unfold State.fepAccess
  split
  · rfl
  · exact State.fepStore_dark

/-! ### The item that WRITE puts -/

theorem State.fepPut_entry (ht : wbits v 1 0 = 0) (d : BitVec 128) :
    s.fepPut f v d = s.setField f { s.fieldSt f with ept := put (fun _ => 0) (s.fieldSt f).ept (wbits v 17 2) d } := by
  simp only [State.fepPut, ht]

theorem State.fepPut_reduction {a : TileAddr} (ht : wbits v 1 0 = 1) (ha : fepTile f (wbits v 17 2) = some a) (d : BitVec 128) :
    s.fepPut f v d = s.setTile a { s.tile a with rtab := put (fun _ => 0#64) (s.tile a).rtab (wbits v 21 18) (d.setWidth 64) } := by
  simp only [State.fepPut, ht, ha]

/-- ROUTER_FENCED alone or with TILE_FENCED gives both bits (R224, R276). -/
theorem fenceBits_eq (d : BitVec 128) :
    (d.setWidth 2 ||| (if d.getLsbD 1 then 1 else 0) : BitVec 2) = if d.getLsbD 1 then 3 else d.setWidth 2 := by
  cases h : d.getLsbD 1 with
  | false => simp
  | true =>
    apply BitVec.eq_of_getLsbD_eq
    intro i hi
    obtain rfl | rfl : i = 0 ∨ i = 1 := by omega
    · simp
    · simp [h]

theorem State.fepPut_fence {a : TileAddr} (ht : wbits v 1 0 = 2) (ha : fepTile f (wbits v 17 2) = some a) (d : BitVec 128) :
    s.fepPut f v d = s.setField f { s.fieldSt f with
      fence := put (fun _ => 0) (s.fieldSt f).fence a.loc (if d.getLsbD 1 then 3 else d.setWidth 2) } := by
  simp only [State.fepPut, ht, ha, fenceBits_eq]

/-! ### The commands -/

/-- A write of FEP.SEL is accepted (R276, R532). -/
def State.fepAccepts (s : State) (f : FieldAddr) (fw : Bool) (v : W64) : Prop :=
  s.writeCode fw ⟨.FEP, f.inst⟩ 0x080 true v
    ((wbits v 1 0 == 1 || wbits v 1 0 == 2) && decide (95 < wbits v 8 2) || wbits v 1 0 == 1 && wbits v 17 16 != 0)
    (s.getF F.FEP_SEL_BUSY f.inst == 1) = 0

/-- With GO a write of FEP.SEL makes an access and shows its answer. -/
theorem State.fepWrite_go (hgo : wbits v 24 24 = 1) : s.fepWrite f fw v = s.regWrite fw ⟨.FEP, f.inst⟩ 0x080 true v
    ((wbits v 1 0 == 1 || wbits v 1 0 == 2) && decide (95 < wbits v 8 2) || wbits v 1 0 == 1 && wbits v 17 16 != 0)
    (s.getF F.FEP_SEL_BUSY f.inst == 1) (fun u => (u.fepAccess f v).1.setF F.FEP_SEL_RESULT f.inst (u.fepAccess f v).2) := by
  unfold State.fepWrite
  dsimp only
  congr 1
  funext u
  rw [hgo, if_neg (by decide)]
  unfold State.fepAccess State.fepStore State.fepData
  repeat' split
  all_goals rfl

/-- An accepted write of FEP.SEL with GO ends with the answer of its access. -/
theorem State.fepWrite_ends (h : s.fepAccepts f fw v) (hgo : wbits v 24 24 = 1) : ∃ w,
    s.fepWrite f fw v = ((s.setFepSel f w).fepAccess f v).1.fepAnswer f fw ((s.setFepSel f w).fepAccess f v).2 := by
  rw [State.fepWrite_go hgo]
  exact State.regWrite_acts h (by omega) (by omega) (fun u => State.fepAccess_dark)

theorem exec_fepRead (hgo : wbits v 24 24 = 1) (hop : wbits v 23 22 = 0) : exec (.fepRead f fw v) s = .next (s.fepWrite f fw v) := by
  change execFepRead f fw v s = _
  simp [execFepRead, hgo, hop]

theorem exec_fepWrite (hgo : wbits v 24 24 = 1) (hop : wbits v 23 22 = 1) : exec (.fepWrite f fw v) s = .next (s.fepWrite f fw v) := by
  change execFepWrite f fw v s = _
  simp [execFepWrite, hgo, hop]

/-- READ ends DONE with the named item in FEP.DATA. -/
theorem RunsTo.ofFepRead {P : State → Prop} (h : s.fepAccepts f fw v) (hgo : wbits v 24 24 = 1) (hop : wbits v 23 22 = 0)
    (hP : ∀ w, P (((s.setFepSel f w).fepShow f (s.fepItem f v)).fepAnswer f fw 0)) : RunsTo (.fepRead f fw v) s P := by
  obtain ⟨w, hw⟩ := State.fepWrite_ends h hgo
  have hread : (s.setFepSel f w).fepAccess f v = ((s.setFepSel f w).fepShow f (s.fepItem f v), 0) := by
    rw [State.fepAccess, hop, State.fepItem_setFepSel]
    rfl
  refine ⟨_, exec_fepRead hgo hop, ?_⟩
  rw [hw, hread]
  exact hP w

/-- WRITE ends with what its access stores, and the answer of it. -/
theorem RunsTo.ofFepWrite {P : State → Prop} (h : s.fepAccepts f fw v) (hgo : wbits v 24 24 = 1) (hop : wbits v 23 22 = 1)
    {k : State → State} {result : Nat} (hk : ∀ w, (s.setFepSel f w).fepStore f v = (k (s.setFepSel f w), result))
    (hP : ∀ w, P ((k (s.setFepSel f w)).fepAnswer f fw result)) : RunsTo (.fepWrite f fw v) s P := by
  obtain ⟨w, hw⟩ := State.fepWrite_ends h hgo
  have hstore : (s.setFepSel f w).fepAccess f v = (k (s.setFepSel f w), result) := by
    rw [State.fepAccess, hop, ← hk w]
    rfl
  refine ⟨_, exec_fepWrite hgo hop, ?_⟩
  rw [hw, hstore]
  exact hP w

/-- A refused WRITE leaves tiles and fields, and shows its refusal. -/
theorem RunsTo.ofFepRefused (h : s.fepAccepts f fw v) (hgo : wbits v 24 24 = 1) (hop : wbits v 23 22 = 1) {result : Nat}
    (hr : result < 4) (hk : ∀ w, (s.setFepSel f w).fepStore f v = (s.setFepSel f w, result)) :
    RunsTo (.fepWrite f fw v) s (fun z => ((∀ a, z.tile a = s.tile a) ∧ ∀ g, z.fieldSt g = s.fieldSt g) ∧
      z.getF F.FEP_SEL_RESULT f.inst = result) :=
  RunsTo.ofFepWrite h hgo hop (k := id) hk fun w => ⟨⟨fun a => by simp, fun g => by simp⟩, State.getF_fepAnswer_result hr⟩

/-- A legal WRITE to an open field ends DONE with its item put. -/
theorem RunsTo.ofFepPut {P : State → Prop} (h : s.fepAccepts f fw v) (hgo : wbits v 24 24 = 1) (hop : wbits v 23 22 = 1)
    (hopen : s.fepOpen f) (hlegal : fepBad (wbits v 1 0) (s.fepData f) = false)
    (hP : ∀ w, P (((s.setFepSel f w).fepPut f v (s.fepData f)).fepAnswer f fw 0)) : RunsTo (.fepWrite f fw v) s P :=
  RunsTo.ofFepWrite h hgo hop (k := fun u => u.fepPut f v (s.fepData f)) (fun w => by
    have hdata : (s.setFepSel f w).fepData f = s.fepData f := State.fepData_setFepSel w
    rw [State.fepStore_legal ((State.fepOpen_setFepSel w).2 hopen) (by rw [hdata]; exact hlegal), hdata]) hP

/-! ### The statement -/

/-- Settles O32: the access of FEP.SEL by its branches, READ, the two refusals of WRITE, and the item put in each table. -/
theorem tableAccessesReadAndWriteTheirItem : Obligations.TableAccessesReadAndWriteTheirItem := by
  unfold Obligations.TableAccessesReadAndWriteTheirItem
  intro f fw v s i t haccepts hgo open' d kept
  have hd : s.fepData f = d := rfl
  have hresult (u : State) : (u.fepAnswer f fw 0).getF F.FEP_SEL_RESULT i = 0 := State.getF_fepAnswer_result (by omega)
  refine ⟨fun hop => ?_, fun hop => ⟨fun hclosed => ?_, fun hopen hbad => ?_, fun hopen hlegal => ⟨?_, ?_, ?_⟩⟩⟩
  · refine RunsTo.ofFepRead haccepts hgo hop fun w => ⟨⟨fun a => by simp, fun g => by simp⟩, hresult _, ?_, ?_⟩
    · exact (State.reg_fepAnswer 0 (by omega) (by omega) (by omega)).trans (State.fepShow_data0 _)
    · exact (State.reg_fepAnswer 0 (by omega) (by omega) (by omega)).trans (State.fepShow_data1 _)
  · exact RunsTo.ofFepRefused haccepts hgo hop (by omega) fun w =>
      State.fepStore_closed (mt (State.fepOpen_setFepSel w).1 hclosed)
  · exact RunsTo.ofFepRefused haccepts hgo hop (by omega) fun w =>
      State.fepStore_bad ((State.fepOpen_setFepSel w).2 hopen) (by rw [State.fepData_setFepSel]; exact hbad)
  · refine fun ht => RunsTo.ofFepPut haccepts hgo hop hopen hlegal fun w => ?_
    rw [State.fepPut_entry ht]
    exact ⟨hresult _, fun a => by simp, fun g hg => by simp [State.fieldSt_setField, hg], by simp [hd]⟩
  · refine fun a ha ht => RunsTo.ofFepPut haccepts hgo hop hopen hlegal fun w => ?_
    rw [State.fepPut_reduction ht ha]
    exact ⟨hresult _, fun g => by simp, fun b hb => by simp [State.tile_setTile, hb], by simp [hd]⟩
  · refine fun a ha ht => RunsTo.ofFepPut haccepts hgo hop hopen hlegal fun w => ?_
    rw [State.fepPut_fence ht ha]
    exact ⟨hresult _, fun b => by simp, fun g hg => by simp [State.fieldSt_setField, hg], by simp [hd]⟩

end Sys2Proof.Machine
end

section
/-!
PROOF of O33. What each command of a pass leaves is a chain of a few steps of the Array Engine; a helper definition names the steps
that follow the last change of its state, and an `exec_` lemma ties it to the model. Most steps stand beside the Array Engine
(`ArrayStays`), so PASS_STATE and the engine's state are read off the step that last sets them.
-/
namespace Sys2Proof.Machine

variable {s t u : State} {p : Fin 2} {l : List Part}

/-! ### The Array Engine's state after updates -/

theorem State.ae_setAe (x : Fin 2) (e : ArrayEng) : (s.setAe p e).ae x = if x = p then e else s.ae x := by
  simp [State.ae, State.setAe, look_put, Fin.ext_iff]

@[simp] theorem State.ae_setAe_same (e : ArrayEng) : (s.setAe p e).ae p = e := by simp [State.ae_setAe]

@[simp] theorem State.passState_setAe (x : Fin 2) (e : ArrayEng) : (s.setAe x e).passState p = s.passState p := rfl

theorem State.passState_setPassState {v : Nat} (hv : v < 16) : (s.setPassState p v).passState p = v :=
  (State.getF_setF_same F.AEN_PASS_STATE_STATE p v (by decide) (by decide)).trans (Nat.mod_eq_of_lt hv)

theorem State.reg_setPassState_ne {v off : Nat} (ho : off < 4096) (hstate : off ≠ 0x090) :
    (s.setPassState p v).reg ⟨.AEN, p⟩ off = s.reg ⟨.AEN, p⟩ off :=
  (State.reg_setF F.AEN_PASS_STATE_STATE p v _ off).trans (if_neg (regKey_ne_of_off ho (by decide) hstate))

theorem State.passState_setIrq (bit : Nat) : (s.setIrq .AEN p bit).passState p = s.passState p :=
  ((RegsBut.refl [(⟨.AEN, p⟩, 0x038)] s).setIrq (by simp)).getF F.AEN_PASS_STATE_STATE p (by simp [regKey_eq, F.AEN_PASS_STATE_STATE])

theorem Changes.ae (h : Changes l s t) (hl : Part.array ∉ l) (x : Fin 2) : t.ae x = s.ae x := by
  unfold State.ae
  rw [show t.array = s.array from h _ hl]

theorem Changes.passState (h : Changes l s t) (hl : Part.page .AEN ∉ l) : t.passState p = s.passState p := h.getF hl p

theorem Changes.reg_aen (h : Changes l s t) (hl : Part.page .AEN ∉ l) (off : Nat) : t.reg ⟨.AEN, p⟩ off = s.reg ⟨.AEN, p⟩ off :=
  h.reg hl off

theorem Changes.causeWaits (h : Changes l s t) (hl : Part.causes ∉ l) : t.causeWaits p = s.causeWaits p := by
  unfold State.causeWaits
  rw [show t.causes = s.causes from h _ hl]

/-! ### What leaves the Array Engine alone -/

/-- The parts that the operations of a pass change beside the Array Engines: neither their registers, nor their state, nor the causes
on their way to them. -/
def besideArray : List Part :=
  [.page .ENG, .page .SEN, .page .MLW, .page .VLX, .page .EMP, .page .HBM, .page .MESH, .page .TSQ, .page .SPD, .page .PAS, .page .PWR,
   .page .FPW, .page .FEN, .page .FLT, .risen, .ahead, .tiles, .fields, .recOnce, .records, .retained, .suspects, .hostOut, .hostHeld, .fwIrq,
   .msix, .edge, .edgeMark, .edgeWb, .selfRefresh, .edgeHeld, .aeArrived, .remoteRoot, .ctxs, .queues, .step, .exchs, .free]

/-- From s to t the Array Engines stand still: their registers, their state and the causes on their way to them. -/
abbrev ArrayStays (s t : State) : Prop := Changes besideArray s t

theorem ArrayStays.ae (h : ArrayStays s t) (x : Fin 2) : t.ae x = s.ae x := Changes.ae h (by decide) x
theorem ArrayStays.passState (h : ArrayStays s t) : t.passState p = s.passState p := Changes.passState h (by decide)
theorem ArrayStays.causeWaits (h : ArrayStays s t) : t.causeWaits p = s.causeWaits p := Changes.causeWaits h (by decide)

/-- Those parts, and the registers of the Array Engines. -/
def withAen : List Part := .page .AEN :: besideArray

/-- Fields STOP-drained one after another. -/
def State.stopDrains (s : State) (fs : List FieldAddr) : State := fs.foldl (fun u f => u.stopDrain f) s

theorem State.stopDrains_arrayStays (fs : List FieldAddr) : ArrayStays s (s.stopDrains fs) :=
  (Changes.refl _ s).foldl fun _ _ hu => State.stopDrain_changes hu (hL := by decide)

/-! ### Placement (R285, R286) -/

/-- PLACE_LOAD has found its image good: its record runs, the image is being placed, and the fields are STOP-drained. -/
def State.placeStart (s : State) (p : Fin 2) (q index addr : Nat) : State :=
  let u := s.setStage (arrayCode p) q index .running
  let v := u.setAe p { u.ae p with placing := some (q, index, addr) }
  v.stopDrains (v.wholeFields p)

theorem State.placeStart_ae (q index addr : Nat) (x : Fin 2) : (s.placeStart p q index addr).ae x =
    if x = p then { s.ae p with placing := some (q, index, addr) } else s.ae x := by
  unfold State.placeStart
  rw [(State.stopDrains_arrayStays _).ae, State.ae_setAe]
  rfl

theorem State.placeStart_passState (q index addr : Nat) : (s.placeStart p q index addr).passState p = s.passState p :=
  (State.stopDrains_arrayStays _).passState

theorem exec_placeLoad {q : Nat} {r : EngRec} (hr : s.findStarted (arrayCode p) [opPlaceLoad] = some (q, r)) (hover : s.passOver p = true)
    (hcap : RawRec.opd r.raw 48 8 + 256 ≤ s.edgeCapacity p) :
    let addr := RawRec.opd r.raw 48 8
    let g := s.image p addr
    let h := s.edgeRead p addr 256 .engine
    let b := h.1.edgeRead p (addr + 256) (g.size - 256) .engine
    h.2.2 = false → g.badHeader p addr (s.edgeCapacity p) = false → b.2.2 = false → b.1.imageStatus p g = 0 →
    exec (.placeLoad p) s = .next (b.1.placeStart p q r.index addr) := by
  intro addr g h b hhead hgood hbody hstatus
  have hfits : ¬ s.edgeCapacity p < addr + 256 := Nat.not_lt.2 hcap
  change execPlaceLoad p s = _
  unfold execPlaceLoad
  simp only [hr, hover, Bool.not_true, Bool.false_eq_true, if_false]
  rw [if_neg hfits, if_neg (by simpa using hhead), if_neg (by simpa using hgood), if_neg (by simpa using hbody), if_neg (by simpa using hstatus)]
  rfl

theorem State.edgeRead_arrayStays (addr n : Nat) (src : EdgeSource) : ArrayStays s (s.edgeRead p addr n src).1 :=
  State.edgeRead_changes (Changes.refl _ s) (hL := by decide)

/-- The tables and segment maps of an image in the fields, and the fields released. -/
def State.placeWrites (s : State) (p : Fin 2) (g : Image) : State :=
  let slots := maskSlots g.mask
  let u := (List.range slots.length).foldl (fun u k =>
    match u.slotField p (slots.getD k 0) with
    | some f => u.placeSegments f g (g.segmapOff k)
    | none => u) (s.placeTables p g)
  (s.wholeFields p).foldl (fun u f => u.drainStart f 2) u

/-- The registers that show a committed placement: its PLACEMENT_ID, no pass, no field in a pass. -/
def State.placeShows (s : State) (p : Fin 2) (g : Image) (fs : List FieldAddr) : State :=
  fs.foldl (fun u f => u.setF F.PAS_RUN_IN_PASS f.inst 0)
    ((s.setF F.AEN_PLACEMENT_PLACEMENT_ID p g.placement).setReg ⟨.AEN, p⟩ 0x090 (BitVec.ofNat 64 (31 <<< 17)))

/-- The Array Engine with the image resident and no pass behind it. -/
def State.placeResides (s : State) (p : Fin 2) (addr : Nat) : State :=
  s.setAe p { s.ae p with image := addr, placing := none, reuse := false, pass := none, cause := none, span := false, slots := 0, prev := 0 }

theorem exec_placeLoadCommit {q index addr : Nat} (hplacing : (s.ae p).placing = some (q, index, addr))
    (hquiet : ∀ f ∈ s.wholeFields p, (s.fieldSt f).drain = none ∧ s.quiet f = true) :
    let g := s.image p addr
    exec (.placeLoadCommit p) s = .next (((((s.placeWrites p g).placeShows p g (s.wholeFields p)).placeResides p addr).setReplaceable p g).placeEnd
      p q index 0 0 (BitVec.ofNat 64 g.placement)) := by
  have hidle : ¬ ((s.wholeFields p).any (fun f => (s.fieldSt f).drain.isSome) = true) := by
    simpa using fun f hf => (hquiet f hf).1
  have htimeout : ¬ ((s.wholeFields p).any (fun f => !s.quiet f && s.getF F.MESH_DRAIN_CMD_RESULT f.inst == 1) = true) := by
    simp +contextual [fun f hf => (hquiet f hf).2]
  have hdrained : ¬ ((s.wholeFields p).any (fun f => !s.quiet f) = true) := by
    simpa using fun f hf => (hquiet f hf).2
  intro g
  change execPlaceLoadCommit p s = _
  unfold execPlaceLoadCommit
  rw [hplacing]
  dsimp only
  rw [if_neg hidle, if_neg htimeout, if_neg hdrained]
  rfl

theorem State.reg_placeEnd (q index common status : Nat) (result : W64) {off : Nat} (ho : off < 4096) (hirq : off ≠ 0x038) :
    (s.placeEnd p q index common status result).reg ⟨.AEN, p⟩ off = s.reg ⟨.AEN, p⟩ off := by
  have hcomplete : ArrayStays s (s.complete (arrayCode p) q index common status (status == 9) result) :=
    State.complete_changes (Changes.refl _ s) (hL := by decide)
  unfold State.placeEnd
  rw [((RegsBut.refl [(⟨.AEN, p⟩, 0x038)] _).setIrq (by simp)).reg _ _ (by simpa using regKey_ne_of_off ho (by omega) hirq)]
  exact hcomplete.reg_aen (by decide) off

theorem State.ae_placeEnd (q index common status : Nat) (result : W64) (x : Fin 2) :
    (s.placeEnd p q index common status result).ae x = s.ae x := by
  exact (State.placeEnd_changes (pl := withAen) (Changes.refl _ s) (hL := by decide)).ae (by decide) x

theorem State.setReplaceable_arrayStays (g : Image) : ArrayStays s (s.setReplaceable p g) :=
  State.setReplaceable_changes (Changes.refl _ s) (hL := by decide)

theorem State.reg_placeShows (g : Image) (fs : List FieldAddr) (off : Nat) : (s.placeShows p g fs).reg ⟨.AEN, p⟩ off =
    ((s.setF F.AEN_PLACEMENT_PLACEMENT_ID p g.placement).setReg ⟨.AEN, p⟩ 0x090 (BitVec.ofNat 64 (31 <<< 17))).reg ⟨.AEN, p⟩ off := by
  exact ((Changes.refl besideArray _).foldl fun _ _ hu =>
    State.setF_changes (f := F.PAS_RUN_IN_PASS) hu (hm := by decide) (hL := by decide)).reg_aen (by decide) off

theorem State.placeShows_passState (g : Image) (fs : List FieldAddr) : (s.placeShows p g fs).passState p = 0 := by
  have hread := (State.reg_placeShows (s := s) (p := p) g fs 0x090).trans (State.reg_setReg_same ..)
  exact (congrArg (fun w => wbits w 3 0) hread).trans (by decide)

theorem State.placeShows_placement (g : Image) (fs : List FieldAddr) :
    (s.placeShows p g fs).getF F.AEN_PLACEMENT_PLACEMENT_ID p = g.placement % 2 ^ 64 := by
  have hread := State.reg_placeShows (s := s) (p := p) g fs 0x088
  rw [State.reg_setReg, if_neg (regKey_ne_of_off (by omega) (by omega) (by omega))] at hread
  exact (congrArg (fun w => wbits w 63 0) hread).trans
    (State.getF_setF_same F.AEN_PLACEMENT_PLACEMENT_ID p g.placement (by decide) (by decide))

/-! ### Acceptance of a pass (R287 to R289, R293 to R295) -/

/-- PASS_STATE of an accepted PASS_RUN. -/
def passRunWord (r : RawRec) : W64 :=
  BitVec.ofNat 64 ((if r.passReuse then 2 else 1) + r.passIndex <<< 4 + boolNat r.passReuse <<< 16 + r.barrierCh <<< 17 +
    (BitVec.ofNat 32 r.wm).toNat <<< 32)

/-- A PASS_RUN is accepted: its record runs, PASS_STATE shows it, and the fields of its slots are in the pass. -/
def State.passNamed (s : State) (p : Fin 2) (q : Nat) (r : EngRec) : State :=
  let fields := (maskSlots ((s.image p (s.ae p).image).passMask (RawRec.passIndex r.raw))).filterMap (fun k => s.slotField p k)
  let wm : Waymark := BitVec.ofNat 32 (RawRec.wm r.raw)
  let u := (s.setStage (arrayCode p) q r.index .running).setReg ⟨.AEN, p⟩ 0x090 (passRunWord r.raw)
  (u.wholeFields p).foldl (fun u f =>
    let v := u.setF F.PAS_RUN_IN_PASS f.inst (boolNat (fields.contains f))
    if fields.contains f then v.setF F.PAS_RUN_WAYMARK f.inst wm.toNat else v) u

/-- The Array Engine takes the pass that s has accepted; u is the state with the pass shown and its fields named. -/
def State.passTaken (s u : State) (p : Fin 2) (q : Nat) (r : EngRec) : State :=
  let g := s.image p (s.ae p).image
  let n := RawRec.passIndex r.raw
  let wm : Waymark := BitVec.ofNat 32 (RawRec.wm r.raw)
  let x := s.ae p
  u.setAe p { x with pass := some (q, r.index), span := g.passSpan n, slots := BitVec.ofNat 64 (g.passMask n), held := false
                     spans := x.spans + boolNat (g.passSpan n), cause := none, entered := false
                     notices := if g.passSpan n then x.notices.filter (fun y => y.1 != wm) else x.notices
                     startCyc := u.planeCycle p, runCyc := 0 }

/-- What the acceptance of a pass starts: its channels, the bridge, the cause of a notice that has come before it and that of a step
that stops, and the arrival of a restart. -/
def State.passOpens (s : State) (p : Fin 2) (notices : List (Waymark × Bool)) (span : Bool) (r : RawRec) : State :=
  let wm : Waymark := BitVec.ofNat 32 r.wm
  let s := s.setChannels p span r.barrierCh wm
  let s := if span && s.getF F.PWR_BRIDGE_STATE 0 == 1 then s.setF F.PWR_BRIDGE_STATE 0 2 else s
  let s := match notices.find? (fun y => span && y.1 == wm) with
    | some y => s.planeCause p 0x11 y.2
    | none => s
  let s := if s.stepStops wm.toNat then s.planeCause p 0x12 false else s
  if r.passReuse && span then s.aeArrive p else s

theorem exec_passRun {q : Nat} {r : EngRec} (hr : s.findStarted (arrayCode p) [opPassRun] = some (q, r)) (hok : s.passRefusal p r.raw = 0) :
    exec (.passRun p) s = .next ((s.passTaken (s.passNamed p q r) p q r).passOpens p (s.ae p).notices
      ((s.image p (s.ae p).image).passSpan (RawRec.passIndex r.raw)) r.raw) := by
  change execPassRun p s = _
  unfold execPassRun
  simp only [hr, hok]
  rfl

theorem State.reg_passNamed (q : Nat) (r : EngRec) : (s.passNamed p q r).reg ⟨.AEN, p⟩ 0x090 = passRunWord r.raw := by
  let u := (s.setStage (arrayCode p) q r.index .running).setReg ⟨.AEN, p⟩ 0x090 (passRunWord r.raw)
  have hfields : ArrayStays u (s.passNamed p q r) := (Changes.refl _ u).foldl fun v f hv => by
    dsimp only
    split
    · exact State.setF_changes (State.setF_changes hv (hm := by decide) (hL := by decide)) (hm := by decide) (hL := by decide)
    · exact State.setF_changes hv (hm := by decide) (hL := by decide)
  exact (hfields.reg_aen (by decide) 0x090).trans (State.reg_setReg_same ..)

/-- The acceptance of a pass leaves the Array Engines' registers and state. -/
theorem State.passOpens_changes (notices : List (Waymark × Bool)) (span : Bool) (r : RawRec) :
    Changes (.causes :: besideArray) s (s.passOpens p notices span r) := by
  have hchannels := State.setChannels_changes (p := p) (span := span) (ch := r.barrierCh) (wm := BitVec.ofNat 32 r.wm)
    (Changes.refl (.causes :: besideArray) s) (hL := by decide)
  unfold State.passOpens
  extract_lets wm u1 u2 u3 u4
  have h2 : Changes (.causes :: besideArray) s u2 := by
    dsimp only [u2]
    split
    · exact State.setF_changes hchannels (hm := by decide) (hL := by decide)
    · exact hchannels
  have h3 : Changes (.causes :: besideArray) s u3 := by
    dsimp only [u3]
    split
    · exact State.planeCause_changes h2 (hL := by decide)
    · exact h2
  have h4 : Changes (.causes :: besideArray) s u4 := by
    dsimp only [u4]
    split
    · exact State.planeCause_changes h3 (hL := by decide)
    · exact h3
  split
  · exact State.aeArrive_changes h4 (hL := by decide)
  · exact h4

/-! ### Loading (R290, R300) -/

theorem State.fieldSt_drainEnd (f : FieldAddr) (result : Nat) (g : FieldAddr) :
    (s.drainEnd f result).fieldSt g = if g = f then { s.fieldSt f with drain := none } else s.fieldSt g := by
  simp [State.drainEnd, State.fieldSt_setField]

/-- A RELEASE leaves what a field reset does to a field. -/
theorem State.resetting_release (f g : FieldAddr) : ((s.drainStart f 2).fieldSt g).resetting = (s.fieldSt g).resetting := by
  have hedge (u : State) : u.edgeRelease.fieldSt = u.fieldSt :=
    funext fun x => (State.edgeRelease_changes (pl := [.tiles, .edgeHeld]) (Changes.refl _ u) (hL := by decide)).fieldSt (by decide) x
  unfold State.drainStart
  dsimp only
  rw [if_pos rfl, State.fieldSt_drainEnd, hedge]
  by_cases h : g = f <;> simp [h, State.fieldSt_setField]

theorem State.resetting_releasePrev (g : FieldAddr) : ((s.releasePrev p).fieldSt g).resetting = (s.fieldSt g).resetting := by
  have hfold (ks : List Nat) (u : State) : ((ks.foldl (fun s k =>
      match s.slotField p k with
      | some f => if s.getF F.MESH_DRAIN_STATE_HELD f.inst == 1 then s.drainStart f 2 else s
      | none => s) u).fieldSt g).resetting = (u.fieldSt g).resetting := by
    induction ks generalizing u with
    | nil => rfl
    | cons k ks ih =>
      rw [List.foldl_cons, ih]
      split
      · split
        · exact State.resetting_release _ g
        · rfl
      · rfl
  exact hfold _ _

theorem State.power_releasePrev (i : Nat) : (s.releasePrev p).getF F.FPW_STATE_POWER i = s.getF F.FPW_STATE_POWER i := by
  exact (State.releasePrev_changes (pl := .array :: besideArray.erase (.page .FPW)) (Changes.refl _ s) (hL := by decide)).getF (by decide) i

/-- No field that is awake starts to wake. -/
theorem State.startWakes_awake (fs : List FieldAddr) (h : ∀ f ∈ fs, s.getF F.FPW_STATE_POWER f.inst = 0) :
    fs.foldl (fun u f => u.startWake f) s = s := by
  induction fs with
  | nil => rfl
  | cons f fs ih =>
    have hf : s.startWake f = s := by simp [State.startWake, h f (by simp)]
    rw [List.foldl_cons, hf]
    exact ih fun g hg => h g (by simp [hg])

theorem State.noOldContext (h : ∀ e ∈ s.ctxsOf p, s.oldContext p e.2 = false) :
    (s.ctxsOf p).any (fun e => s.oldContext p e.2) = false := by simpa using h

theorem exec_passLoadBegin (hloading : s.passState p = 1) (hheld : (s.ae p).held = false) (hcause : s.causeWaits p = false)
    (hfresh : ∀ e ∈ s.ctxsOf p, s.oldContext p e.2 = false) (hbridge : (s.ae p).span = true → s.bridgeReady = true)
    (hawake : ∀ f ∈ s.passFields p, s.getF F.FPW_STATE_POWER f.inst = 0 ∧ (s.fieldSt f).resetting = false) :
    let u := (s.releasePrev p).stopDrains (s.passFields p)
    exec (.passLoadBegin p) s = .next (u.setAe p { u.ae p with held := true }) := by
  have hready : ¬ (((s.ae p).span && !s.bridgeReady) = true) := by simpa using hbridge
  have hwakes : (s.passFields p).foldl (fun u f => u.startWake f) (s.releasePrev p) = s.releasePrev p :=
    State.startWakes_awake _ fun f hf => (State.power_releasePrev _).trans (hawake f hf).1
  have hall : ¬ ((s.passFields p).any (fun f => (s.releasePrev p).getF F.FPW_STATE_POWER f.inst != 0 ||
      ((s.releasePrev p).fieldSt f).resetting) = true) := by
    simpa [State.power_releasePrev, State.resetting_releasePrev] using hawake
  intro u
  change execPassLoadBegin p s = _
  unfold execPassLoadBegin
  rw [if_neg (by simp [hloading, hheld, hcause]), if_neg (by simp [State.noOldContext hfresh]), if_neg hready]
  dsimp only
  rw [hwakes, if_neg hall]
  rfl

/-! ### Start (R291 to R293) -/

theorem State.passGo_passState (restart : Bool) : (s.passGo p restart).passState p = 3 :=
  State.passState_setPassState (by omega)

theorem State.aeArrive_arrayStays : ArrayStays s (s.aeArrive p) :=
  State.aeArrive_changes (Changes.refl _ s) (hL := by decide)

theorem State.ae_loaded (g : Image) (n : Nat) : ((s.readPass p g n).1.loadFields p g n).ae p = s.ae p := by
  exact (State.loadFields_changes (State.readPass_changes (pl := .causes :: withAen) (Changes.refl _ s) (hL := by decide)) (hL := by decide)).ae (by decide) p

/-- A pass that is loaded is ARMED, and one without SPAN starts. -/
def State.passArms (s : State) (p : Fin 2) : State :=
  if (s.ae p).span then (s.setPassState p 2).aeArrive p else (s.setPassState p 2).passGo p false

theorem State.passArms_passState : (s.passArms p).passState p = if (s.ae p).span then 2 else 3 := by
  unfold State.passArms
  split
  · exact State.aeArrive_arrayStays.passState.trans (State.passState_setPassState (by omega))
  · exact State.passGo_passState false

theorem exec_passArmed (hloading : s.passState p = 1) (hheld : (s.ae p).held = true) (hcause : s.causeWaits p = false)
    (hquiet : ∀ f ∈ s.passFields p, s.quiet f = true) (hready : s.passReady p = true)
    (hfresh : ∀ e ∈ s.ctxsOf p, s.oldContext p e.2 = false) :
    let n := s.getF F.AEN_PASS_STATE_PASS p
    let g := s.image p (s.ae p).image
    let r := s.readPass p g n
    r.2 = false → (r.1.loadFields p g n).causeWaits p = false →
    exec (.passArmed p) s = .next ((r.1.loadFields p g n).passArms p) := by
  intro n g r hread hload
  have hdrained : (s.passFields p).all (fun f => s.quiet f) = true := by simpa using hquiet
  change execPassArmed p s = _
  unfold execPassArmed
  dsimp only
  rw [if_neg (by simp [hloading]), if_neg (by simp [hloading, hheld, hcause, hdrained, hready, State.noOldContext hfresh]),
    if_neg (by simpa using hread), if_neg (by simpa using hload)]
  rfl

theorem exec_passArmed_entered (harmed : s.passState p = 2) (hfirst : s.getF F.AEN_PASS_STATE_REUSE p = 0) (hentered : (s.ae p).entered = true)
    (hcause : s.causeWaits p = false) (hready : s.passReady p = true) : exec (.passArmed p) s = .next (s.passGo p false) := by
  change execPassArmed p s = _
  unfold execPassArmed
  rw [if_pos (by simp [harmed, hfirst, hentered, hready, hcause])]

theorem exec_passRestart (harmed : s.passState p = 2) (hreuse : s.getF F.AEN_PASS_STATE_REUSE p ≠ 0) (hcause : s.causeWaits p = false)
    (hfresh : ∀ e ∈ s.ctxsOf p, s.oldContext p e.2 = false) (hready : s.passReady p = true)
    (hspan : (s.ae p).span = true → (s.ae p).entered = true ∧ s.bridgeReady = true) :
    exec (.passRestart p) s = .next (s.passGo p true) := by
  have hcontexts : (s.ctxsOf p).any (fun e => e.2.old && s.oldContext p e.2) = false := by
    simp +contextual [hfresh]
  have hbarrier : ((s.ae p).span && (!(s.ae p).entered || !s.bridgeReady)) = false := by
    simpa using hspan
  change execPassRestart p s = _
  unfold execPassRestart
  rw [if_neg (by simp [harmed, hreuse, hcause, hready, hcontexts, hbarrier])]

/-! ### Ends (R296, R297, R299, R300) -/

/-- The block cycles of the fields of a pass, counted. -/
def State.passCycles (s : State) (p : Fin 2) (cycles : List Nat) : State :=
  let g := s.image p (s.ae p).image
  let parts := g.parts (s.getF F.AEN_PASS_STATE_PASS p)
  (List.range parts.length).foldl (fun u k =>
    match parts[k]? with
    | some x => match u.slotField p x.1 with
      | some f => u.blockCycles f g x.2 (cycles.drop (12 * k))
      | none => u
    | none => u) s

theorem exec_passFinishing (cycles : List Nat) (hrunning : s.passState p = 3) (hcause : s.causeWaits p = false) (hdone : s.allDone p = true) :
    exec (.passFinishing p cycles) s =
      .next (((s.passCycles p cycles).setPassState p 4).stopDrains ((s.passCycles p cycles).passFields p)) := by
  change execPassFinishing p cycles s = _
  unfold execPassFinishing
  rw [if_neg (by simp [hrunning, hcause, hdone])]
  rfl

/-- Whatever the end of a pass parks, its PASS_STATE stays. -/
theorem State.parkAfterPass_passState : (s.parkAfterPass p).passState p = s.passState p := by
  exact (State.parkAfterPass_changes (pl := .array :: besideArray) (Changes.refl _ s) (hL := by decide)).passState (by decide)

theorem State.complete_passState (e q index common status : Nat) (hw : Bool) (result : W64) :
    (s.complete e q index common status hw result).passState p = s.passState p := by
  exact (State.complete_changes (pl := besideArray) (Changes.refl _ s) (hL := by decide)).passState (by decide)

/-- A pass has ended in a state: the interrupt of its end, no bridged channel, and the Array Engine without it. -/
theorem State.ended_passState {v : Nat} (hv : v < 16) (bit : Nat) (e : ArrayEng) :
    ((((s.setPassState p v).setIrq .AEN p bit).unbridge p).setAe p e).passState p = v := by
  have hunbridge (u : State) : ArrayStays u (u.unbridge p) := State.unbridge_changes (Changes.refl _ u) (hL := by decide)
  rw [State.passState_setAe, (hunbridge _).passState, State.passState_setIrq, State.passState_setPassState hv]

theorem State.passEnd_passState : (s.passEnd p).passState p = 6 := by
  unfold State.passEnd
  dsimp only
  split
  · exact (State.complete_passState ..).trans (State.ended_passState (by omega) _ _)
  · exact State.ended_passState (by omega) _ _

theorem State.completePass_passState (hfinishing : s.passState p = 4) (hcause : s.causeWaits p = false)
    (hquiet : ∀ f ∈ s.passFields p, s.quiet f = true) : (s.completePass p).passState p = if (s.ae p).span then 5 else 6 := by
  have hdrained : (s.passFields p).all (fun f => s.quiet f) = true := by simpa using hquiet
  unfold State.completePass
  rw [if_neg (by simp [hfinishing, hcause, hdrained])]
  split
  · exact State.aeArrive_arrayStays.passState.trans (State.passState_setPassState (by omega))
  · exact State.passEnd_passState

theorem State.failPass_passState (haborting : s.passState p = 7)
    (hquiet : ∀ f ∈ s.passFields p, (s.fieldSt f).lost = false → (s.fieldSt f).resetting = false → s.quiet f = true) :
    (s.failPass p).passState p = 8 := by
  have hdrained : ((s.passFields p).filter (fun f => !(s.fieldSt f).lost && !(s.fieldSt f).resetting)).all (fun f => s.quiet f) = true := by
    rw [List.all_eq_true]
    intro f hf
    obtain ⟨hmem, hwhole⟩ := List.mem_filter.1 hf
    rw [Bool.and_eq_true, Bool.not_eq_true', Bool.not_eq_true'] at hwhole
    exact hquiet f hmem hwhole.1 hwhole.2
  unfold State.failPass
  dsimp only
  rw [if_neg (by simp only [haborting, hdrained]; decide)]
  split
  · exact (State.complete_passState ..).trans (State.ended_passState (by omega) _ _)
  · exact State.ended_passState (by omega) _ _

/-! ### Causes, aborts and notices (R294, R301 to R304) -/

theorem exec_passAbort {c : PassCause} (hc : decidingCause (s.causes.filter (fun (x : PassCause) => x.plane == p)) = some c)
    (hlive : s.passLive p = true) (recent : Bool) :
    let u : State := { s with causes := s.causes.filter (fun (x : PassCause) => x.plane != p) }
    exec (.passAbort p recent) s =
      .next (((((u.abortNoted p c).abortEnters p c).abortDrains p).cancelPassStep p).suspectTile c recent) := by
  intro u
  have hu : u.passLive p = true := hlive
  change execPassAbort p recent s = _
  unfold execPassAbort
  rw [hc]
  dsimp only
  rw [if_neg (by simp [u, hu])]

/-- What follows the entry into ABORTING: drains, cancelled work, a suspect tile. -/
theorem State.abortFollows_arrayStays (c : PassCause) (recent : Bool) :
    ArrayStays s (((s.abortDrains p).cancelPassStep p).suspectTile c recent) :=
  State.suspectTile_changes (State.cancelPassStep_changes (State.abortDrains_changes (Changes.refl _ s) (hL := by decide))
    (hL := by decide)) (hL := by decide)

theorem ne_otherPlane : ∀ p : Fin 2, p ≠ otherPlane p := by decide

theorem State.abortEnters_passState (c : PassCause) : (s.abortEnters p c).passState p = 7 :=
  State.passState_setPassState (by omega)

/-- The Array Engine of an aborted pass names its cause, and its pass cannot be restarted. -/
theorem State.abortEnters_ae (c : PassCause) : (s.abortEnters p c).ae p =
    { s.ae p with cause := some (c.cause, c.hardware), word := (s.failWord p c).toNat % 2 ^ 26, reuse := false } := by
  unfold State.abortEnters
  dsimp only
  split
  · exact (State.ae_setAe ..).trans ((if_neg (ne_otherPlane p)).trans (State.ae_setAe_same _))
  · exact State.ae_setAe_same _

theorem State.reg_abortEnters (c : PassCause) {off : Nat} (ho : off < 4096) (hstate : off ≠ 0x090) :
    (s.abortEnters p c).reg ⟨.AEN, p⟩ off = s.reg ⟨.AEN, p⟩ off := by
  unfold State.abortEnters
  refine (State.reg_setPassState_ne ho hstate).trans ?_
  dsimp only
  split <;> rfl

/-- The first cause is captured in AEN.FAIL with its cycle. -/
theorem State.abortNoted_captures (c : PassCause) (hfree : s.getF F.AEN_FAIL_VALID p = 0) :
    (s.abortNoted p c).reg ⟨.AEN, p⟩ 0x098 = s.failWord p c ∧ (s.abortNoted p c).reg ⟨.AEN, p⟩ 0x0A0 = c.cyc := by
  have hread (off : Nat) (ho : off < 4096) (hirq : off ≠ 0x038) : (s.abortNoted p c).reg ⟨.AEN, p⟩ off =
      ((s.setReg ⟨.AEN, p⟩ 0x098 (s.failWord p c)).setReg ⟨.AEN, p⟩ 0x0A0 c.cyc).reg ⟨.AEN, p⟩ off := by
    change (s.captureFirst F.AEN_FAIL_VALID p none [(0x098, s.failWord p c), (0x0A0, c.cyc)]).reg _ _ = _
    rw [State.captureFirst_free hfree]
    exact State.reg_capture F.AEN_FAIL_VALID p none _ _ _ (regKey_ne_of_off ho (by omega) hirq)
  constructor
  · rw [hread 0x098 (by omega) (by omega), State.reg_setReg, if_neg (regKey_ne_of_off (by omega) (by omega) (by omega)), State.reg_setReg_same]
  · rw [hread 0x0A0 (by omega) (by omega), State.reg_setReg_same]

/-- Causes taken from a plane leave none on its way. -/
theorem State.causeWaits_taken :
    ({ s with causes := s.causes.filter (fun (x : PassCause) => x.plane != p) } : State).causeWaits p = false := by
  simp [State.causeWaits]

theorem State.abortEnters_causeWaits (c : PassCause) : ((s.abortNoted p c).abortEnters p c).causeWaits p = s.causeWaits p :=
  (State.abortEnters_changes (pl := .array :: withAen) (State.abortNoted_changes (Changes.refl _ s) (hL := by decide))
    (hL := by decide)).causeWaits (by decide)

theorem State.planeCause_live {cause : Nat} {hw : Bool} (h : s.passLive p = true) : ∃ c : PassCause,
    s.planeCause p cause hw = { s with causes := s.causes ++ [c] } ∧ c.plane = p ∧ c.cause = cause ∧ c.hardware = hw := by
  unfold State.planeCause
  rw [if_pos h]
  exact ⟨_, rfl, rfl, rfl, rfl⟩

/-- A notice that has arrived, counted. -/
def State.noticeTaken (s : State) (p : Fin 2) (n : Waymark × Bool × Nat) (r : List (Waymark × Bool × Nat)) : State :=
  (s.setAe p { s.ae p with incoming := r }).countWm C.AEN_PEER_ABORTS p 1 n.1

section
variable (n : Waymark × Bool × Nat) (r : List (Waymark × Bool × Nat))

theorem State.noticeTaken_changes : Changes [.page .AEN, .risen, .ahead] (s.setAe p { s.ae p with incoming := r }) (s.noticeTaken p n r) := by
  exact State.countWm_changes (Changes.refl _ _) (hm := by decide) (hL := by decide)

theorem State.noticeTaken_ae : (s.noticeTaken p n r).ae p = { s.ae p with incoming := r } :=
  ((State.noticeTaken_changes n r).ae (by decide) p).trans (State.ae_setAe_same _)

theorem State.noticeTaken_causes : (s.noticeTaken p n r).causes = s.causes := State.noticeTaken_changes n r .causes (by decide)

theorem State.noticeTaken_fldWm : (s.noticeTaken p n r).fldWm p = s.fldWm p := by
  have hkeep (f : Fld) (hf : f.typ = .ENG) (i : Nat) : (s.noticeTaken p n r).getF f i = s.getF f i :=
    (State.noticeTaken_changes n r).getF (by rw [hf]; decide) i
  unfold State.fldWm
  rw [hkeep _ rfl, hkeep _ rfl]

/-- The count of a notice leaves PASS_STATE. -/
theorem State.reg_noticeTaken : (s.noticeTaken p n r).reg ⟨.AEN, p⟩ 0x090 = s.reg ⟨.AEN, p⟩ 0x090 :=
  have hshadow : (ctrSpec C.AEN_PEER_ABORTS).shadow = 0x198 := rfl
  ((RegsBut.refl [(⟨.AEN, p⟩, 0x118), (⟨.AEN, p⟩, 0x048), (⟨.AEN, p⟩, 0x198)] (s.setAe p { s.ae p with incoming := r })).countWm
    (c := C.AEN_PEER_ABORTS) (by simp [C.AEN_PEER_ABORTS]) (by simp [C.AEN_PEER_ABORTS])
    (by rw [hshadow]; simp [C.AEN_PEER_ABORTS])).reg _ _ (by simp [regKey_eq])

theorem State.noticeTaken_passLive : (s.noticeTaken p n r).passLive p = s.passLive p := by
  unfold State.passLive State.passState State.getF
  rw [show (s.noticeTaken p n r).reg ⟨F.AEN_PASS_STATE_STATE.typ, p⟩ F.AEN_PASS_STATE_STATE.off = _ from State.reg_noticeTaken n r]
  rfl

theorem State.noticeTaken_passWm : (s.noticeTaken p n r).passWm p = s.passWm p :=
  congrArg (fun w => BitVec.ofNat 32 (wbits w 63 32)) (State.reg_noticeTaken n r)

end

/-- What a counted notice does in u, as the state s that it has come to decides (R294): one of another waymark is dropped; one of a half
still to be accepted is kept, and one of the half that runs is a cause of it. -/
def State.noticeActs (u s : State) (p : Fin 2) (n : Waymark × Bool × Nat) : State :=
  if n.1 != s.fldWm p then u
  else if (s.ae p).spans < n.2.2 then u.setAe p { u.ae p with notices := (s.ae p).notices ++ [(n.1, n.2.1)] }
  else if s.passLive p && (s.ae p).span && s.passWm p == n.1 && (s.ae p).spans == n.2.2 then u.planeCause p 0x11 n.2.1
  else u

theorem exec_passAbortNotice {n : Waymark × Bool × Nat} {r : List (Waymark × Bool × Nat)} (hin : (s.ae p).incoming = n :: r) :
    exec (.passAbortNotice p) s = .next ((s.noticeTaken p n r).noticeActs s p n) := by
  change execPassAbortNotice p s = _
  unfold execPassAbortNotice State.noticeActs
  rw [← State.noticeTaken_fldWm n r, ← State.noticeTaken_passLive n r, ← State.noticeTaken_passWm n r]
  simp only [hin]
  rfl

/-- A notice for another waymark, for a half that is over, or for one before the half that runs, is dropped. -/
theorem State.noticeActs_dropped {n : Waymark × Bool × Nat} (u : State)
    (h : ¬ n.1 = s.fldWm p ∨ (s.passLive p = false ∧ n.2.2 ≤ (s.ae p).spans) ∨ n.2.2 < (s.ae p).spans) : u.noticeActs s p n = u := by
  unfold State.noticeActs
  split
  · rfl
  next hmine =>
    have hwm : n.1 = s.fldWm p := by simpa using hmine
    rcases h with hother | ⟨hover, hle⟩ | hpast
    · exact absurd hwm hother
    · rw [if_neg (by omega), if_neg (by simp [hover])]
    · rw [if_neg (by omega), if_neg (by simp [Nat.ne_of_gt hpast])]

theorem State.noticeActs_kept {n : Waymark × Bool × Nat} (u : State) (hmine : n.1 = s.fldWm p) (hearly : (s.ae p).spans < n.2.2) :
    u.noticeActs s p n = u.setAe p { u.ae p with notices := (s.ae p).notices ++ [(n.1, n.2.1)] } := by
  unfold State.noticeActs
  rw [if_neg (by simp [hmine]), if_pos hearly]

theorem State.noticeActs_caused {n : Waymark × Bool × Nat} (u : State) (hmine : n.1 = s.fldWm p) (hlive : s.passLive p = true)
    (hspan : (s.ae p).span = true) (hwm : s.passWm p = n.1) (hthis : (s.ae p).spans = n.2.2) :
    u.noticeActs s p n = u.planeCause p 0x11 n.2.1 := by
  unfold State.noticeActs
  rw [if_neg (by simp [hmine]), if_neg (by omega), if_pos (by simp [hlive, hspan, hwm, hthis])]

/-! ### The clauses of the statement -/

theorem runsTo_placeLoad {q : Nat} {r : EngRec} (hr : s.findStarted (arrayCode p) [opPlaceLoad] = some (q, r)) :
    let addr := RawRec.opd r.raw 48 8
    let cap := s.edgeCapacity p
    let g := s.image p addr
    let h := s.edgeRead p addr 256 .engine
    let b := h.1.edgeRead p (addr + 256) (g.size - 256) .engine
    s.passOver p = true → addr + 256 ≤ cap → h.2.2 = false → g.badHeader p addr cap = false → b.2.2 = false →
    b.1.imageStatus p g = 0 →
    RunsTo (.placeLoad p) s (fun t => (t.ae p).placing = some (q, r.index, addr) ∧ t.passState p = s.passState p ∧
      ∀ x, x ≠ p → t.ae x = s.ae x) := by
  intro addr cap g h b hover hcap hhead hgood hbody hstatus
  have hread : ArrayStays s b.1 := (State.edgeRead_arrayStays _ _ _).trans (State.edgeRead_arrayStays _ _ _)
  refine ⟨_, exec_placeLoad hr hover hcap hhead hgood hbody hstatus, ?_, ?_, fun x hx => ?_⟩
  · rw [State.placeStart_ae, if_pos rfl]
  · exact (State.placeStart_passState ..).trans hread.passState
  · rw [State.placeStart_ae, if_neg hx, hread.ae]

theorem runsTo_placeLoadCommit {q index addr : Nat} (hplacing : (s.ae p).placing = some (q, index, addr))
    (hquiet : ∀ f ∈ s.wholeFields p, (s.fieldSt f).drain = none ∧ s.quiet f = true) :
    RunsTo (.placeLoadCommit p) s (fun t => t.getF F.AEN_PLACEMENT_PLACEMENT_ID p = (s.image p addr).placement % 2 ^ 64 ∧
      t.passState p = 0 ∧ (t.ae p).image = addr ∧ (t.ae p).placing = none ∧ (t.ae p).pass = none ∧ (t.ae p).reuse = false) := by
  let g := s.image p addr
  let v := ((s.placeWrites p g).placeShows p g (s.wholeFields p)).placeResides p addr
  have hreplace : ArrayStays v (v.setReplaceable p g) := State.setReplaceable_arrayStays g
  have hae : (((v.setReplaceable p g).placeEnd p q index 0 0 (BitVec.ofNat 64 g.placement)).ae p) = v.ae p :=
    (State.ae_placeEnd ..).trans (hreplace.ae p)
  have hreg (off : Nat) (ho : off < 4096) (hirq : off ≠ 0x038) :
      ((v.setReplaceable p g).placeEnd p q index 0 0 (BitVec.ofNat 64 g.placement)).reg ⟨.AEN, p⟩ off =
        ((s.placeWrites p g).placeShows p g (s.wholeFields p)).reg ⟨.AEN, p⟩ off :=
    (State.reg_placeEnd _ _ _ _ _ ho hirq).trans (hreplace.reg_aen (by decide) off)
  have hresides : v.ae p = { (((s.placeWrites p g).placeShows p g (s.wholeFields p)).ae p) with
      image := addr, placing := none, reuse := false, pass := none, cause := none, span := false, slots := 0, prev := 0 } :=
    State.ae_setAe_same _
  refine ⟨_, exec_placeLoadCommit hplacing hquiet, ?_, ?_, ?_⟩
  · exact (congrArg (fun w => wbits w 63 0) (hreg 0x088 (by omega) (by omega))).trans (State.placeShows_placement g _)
  · exact (congrArg (fun w => wbits w 3 0) (hreg 0x090 (by omega) (by omega))).trans (State.placeShows_passState g _)
  · rw [hae, hresides]
    exact ⟨rfl, rfl, rfl, rfl⟩

theorem runsTo_passRun {q : Nat} {r : EngRec} (hr : s.findStarted (arrayCode p) [opPassRun] = some (q, r)) (hok : s.passRefusal p r.raw = 0) :
    RunsTo (.passRun p) s (fun t => t.reg ⟨.AEN, p⟩ 0x090 = passRunWord r.raw ∧ (t.ae p).pass = some (q, r.index) ∧
      (t.ae p).span = (s.image p (s.ae p).image).passSpan (RawRec.passIndex r.raw) ∧
      (t.ae p).slots = BitVec.ofNat 64 ((s.image p (s.ae p).image).passMask (RawRec.passIndex r.raw)) ∧ (t.ae p).held = false ∧
      (t.ae p).cause = none ∧ ∀ a, t.tile a = s.tile a) := by
  have hopens := State.passOpens_changes (s := s.passTaken (s.passNamed p q r) p q r) (p := p) (s.ae p).notices
    ((s.image p (s.ae p).image).passSpan (RawRec.passIndex r.raw)) r.raw
  have hae := (hopens.ae (by decide) p).trans (State.ae_setAe_same _)
  have htiles := execPassRun_changes (fun _ h => h) _ (exec_passRun hr hok)
  refine ⟨_, exec_passRun hr hok, ?_, ?_⟩
  · exact (hopens.reg_aen (by decide) 0x090).trans (State.reg_passNamed q r)
  · rw [hae]
    exact ⟨rfl, rfl, rfl, rfl, rfl, fun a => htiles.tile (by decide) a⟩

theorem runsTo_passLoadBegin (hloading : s.passState p = 1) (hheld : (s.ae p).held = false) (hcause : s.causeWaits p = false)
    (hfresh : ∀ e ∈ s.ctxsOf p, s.oldContext p e.2 = false) (hbridge : (s.ae p).span = true → s.bridgeReady = true)
    (hawake : ∀ f ∈ s.passFields p, s.getF F.FPW_STATE_POWER f.inst = 0 ∧ (s.fieldSt f).resetting = false) :
    RunsTo (.passLoadBegin p) s (fun t => (t.ae p).held = true ∧ t.passState p = 1) := by
  have hrelease : Changes (.array :: besideArray) s (s.releasePrev p) := State.releasePrev_changes (Changes.refl _ s) (hL := by decide)
  refine ⟨_, exec_passLoadBegin hloading hheld hcause hfresh hbridge hawake, ?_, ?_⟩
  · rw [State.ae_setAe_same]
  · exact (State.stopDrains_arrayStays _).passState.trans ((hrelease.passState (by decide)).trans hloading)

theorem runsTo_passAbort {c : PassCause} (hc : decidingCause (s.causes.filter (fun (x : PassCause) => x.plane == p)) = some c)
    (hlive : s.passLive p = true) (recent : Bool) :
    RunsTo (.passAbort p recent) s (fun t => t.passState p = 7 ∧ (t.ae p).cause = some (c.cause, c.hardware) ∧
      (t.ae p).reuse = false ∧ t.causeWaits p = false ∧
      (s.getF F.AEN_FAIL_VALID p = 0 → t.reg ⟨.AEN, p⟩ 0x098 = s.failWord p c ∧ t.reg ⟨.AEN, p⟩ 0x0A0 = c.cyc)) := by
  let u : State := { s with causes := s.causes.filter (fun (x : PassCause) => x.plane != p) }
  let v := (u.abortNoted p c).abortEnters p c
  have hfollows : ArrayStays v (((v.abortDrains p).cancelPassStep p).suspectTile c recent) := State.abortFollows_arrayStays c recent
  have hae := (hfollows.ae p).trans (State.abortEnters_ae c)
  have hreg (off : Nat) (ho : off < 4096) (hstate : off ≠ 0x090) :
      (((v.abortDrains p).cancelPassStep p).suspectTile c recent).reg ⟨.AEN, p⟩ off = (u.abortNoted p c).reg ⟨.AEN, p⟩ off :=
    (hfollows.reg_aen (by decide) off).trans (State.reg_abortEnters c ho hstate)
  refine ⟨_, exec_passAbort hc hlive recent, ?_, ?_, ?_, ?_, fun hfree => ?_⟩
  · exact hfollows.passState.trans (State.abortEnters_passState c)
  · rw [hae]
  · rw [hae]
  · exact hfollows.causeWaits.trans ((State.abortEnters_causeWaits c).trans State.causeWaits_taken)
  · obtain ⟨hword, hcyc⟩ := State.abortNoted_captures (s := u) c hfree
    exact ⟨(hreg 0x098 (by omega) (by omega)).trans hword, (hreg 0x0A0 (by omega) (by omega)).trans hcyc⟩

section
variable {n : Waymark × Bool × Nat} {r : List (Waymark × Bool × Nat)}

theorem runsTo_passAbortNotice_kept (hin : (s.ae p).incoming = n :: r) (hmine : n.1 = s.fldWm p) (hearly : (s.ae p).spans < n.2.2) :
    RunsTo (.passAbortNotice p) s (fun t => t.causes = s.causes ∧
      t.ae p = { s.ae p with incoming := r, notices := (s.ae p).notices ++ [(n.1, n.2.1)] }) := by
  refine ⟨_, exec_passAbortNotice hin, ?_⟩
  rw [State.noticeActs_kept _ hmine hearly]
  refine ⟨State.noticeTaken_causes n r, (State.ae_setAe_same _).trans ?_⟩
  rw [State.noticeTaken_ae]

theorem runsTo_passAbortNotice_caused (hin : (s.ae p).incoming = n :: r) (hmine : n.1 = s.fldWm p) (hlive : s.passLive p = true)
    (hspan : (s.ae p).span = true) (hwm : s.passWm p = n.1) (hthis : (s.ae p).spans = n.2.2) :
    RunsTo (.passAbortNotice p) s (fun t => (t.ae p).incoming = r ∧
      ∃ c : PassCause, t.causes = s.causes ++ [c] ∧ c.plane = p ∧ c.cause = 0x11 ∧ c.hardware = n.2.1) := by
  obtain ⟨c, hcause, hc⟩ := State.planeCause_live (cause := 0x11) (hw := n.2.1) ((State.noticeTaken_passLive (p := p) n r).trans hlive)
  refine ⟨_, exec_passAbortNotice hin, ?_⟩
  rw [State.noticeActs_caused _ hmine hlive hspan hwm hthis, hcause]
  exact ⟨congrArg ArrayEng.incoming (State.noticeTaken_ae n r), c, congrArg (· ++ [c]) (State.noticeTaken_causes n r), hc⟩

theorem runsTo_passAbortNotice_dropped (hin : (s.ae p).incoming = n :: r)
    (h : ¬ n.1 = s.fldWm p ∨ (s.passLive p = false ∧ n.2.2 ≤ (s.ae p).spans) ∨ n.2.2 < (s.ae p).spans) :
    RunsTo (.passAbortNotice p) s (fun t => t.causes = s.causes ∧ t.ae p = { s.ae p with incoming := r }) := by
  refine ⟨_, exec_passAbortNotice hin, ?_⟩
  rw [State.noticeActs_dropped _ h]
  exact ⟨State.noticeTaken_causes n r, State.noticeTaken_ae n r⟩

end

/-- Settles O33: each clause is what one command leaves, taken apart into the steps of the Array Engine that its lemma names. -/
theorem passesGoThroughTheirStates : Obligations.PassesGoThroughTheirStates := by
  unfold Obligations.PassesGoThroughTheirStates
  intro p s n fs quiet fresh img
  refine ⟨fun q r hr => runsTo_placeLoad hr, fun q index addr => runsTo_placeLoadCommit, fun q r => runsTo_passRun, runsTo_passLoadBegin,
    ?armed, ?entered, ?restart, ?finishing, ?complete, fun c => runsTo_passAbort, ?failed, ?notice, ?watchdog⟩
  case armed =>
    intro hloading hheld hcause hquiet hready hfresh r hread hload
    exact ⟨_, exec_passArmed hloading hheld hcause hquiet hready hfresh hread hload,
      State.passArms_passState.trans (by rw [State.ae_loaded])⟩
  case entered =>
    exact fun harmed hfirst hentered hcause hready =>
      ⟨_, exec_passArmed_entered harmed hfirst hentered hcause hready, State.passGo_passState false⟩
  case restart =>
    exact fun harmed hreuse hcause hfresh hready hspan =>
      ⟨_, exec_passRestart harmed hreuse hcause hfresh hready hspan, State.passGo_passState true⟩
  case finishing =>
    exact fun cycles hrunning hcause hdone => ⟨_, exec_passFinishing cycles hrunning hcause hdone,
      (State.stopDrains_arrayStays _).passState.trans (State.passState_setPassState (by omega))⟩
  case complete =>
    exact fun hfinishing hcause hquiet =>
      ⟨_, rfl, State.parkAfterPass_passState.trans (State.completePass_passState hfinishing hcause hquiet)⟩
  case failed =>
    exact fun haborting hquiet => ⟨_, rfl, State.parkAfterPass_passState.trans (State.failPass_passState haborting hquiet)⟩
  case notice =>
    exact fun y r hin => ⟨runsTo_passAbortNotice_kept hin, runsTo_passAbortNotice_caused hin, runsTo_passAbortNotice_dropped hin⟩
  case watchdog =>
    intro hlive
    obtain ⟨c, hcause, hc⟩ := State.planeCause_live (cause := 0x0C) (hw := true) hlive
    exact ⟨_, rfl, c, hcause, hc⟩

end Sys2Proof.Machine
end

section
/-!
PROOF of O38. The marker unit: the value of a marker after one operation, after all of them in order, and that nothing later in
MARKER_UPDATE touches a marker. Watches: the watch is disarmed, then its token or its capture follows. Barriers: the registers that a
completion and a timeout set on the channel, and that what follows leaves the channel as set (`ChannelStays`).
-/
namespace Sys2Proof.Machine

variable {s t u : State} {l : List Part} {f : FieldAddr} {a : TileAddr} {p : Fin 2} {ch : Fin 16}

/-- A step taken only where a condition holds. -/
theorem Changes.when {c : Prop} [Decidable c] (h : Changes l s t) (k : Changes l t u) : Changes l s (if c then u else t) := by
  split
  · exact h.trans k
  · exact h

theorem Changes.unless {c : Prop} [Decidable c] (h : Changes l s t) (k : Changes l t u) : Changes l s (if c then t else u) := by
  split
  · exact h
  · exact h.trans k

/-! ### One operation of the marker unit (R421, R425) -/

/-- What an operation makes of the value of marker m: a write its amount, a signal the saturating sum. -/
def MarkOp.valueAt (op : MarkOp) (m : Nat) (v : W32) : W32 :=
  if op.marker = m then
    (if op.write = true then op.amount else BitVec.ofNat 32 (min (2 ^ 32 - 1) (v.toNat + op.amount.toNat)))
  else v

theorem State.countIrq_only (c : Ctr) (i b : Nat) : OnlyRegs s (s.countIrq c i b) := by
  unfold State.countIrq
  dsimp only
  split
  · exact (State.count_only s c i 1).trans (State.setIrq_only _ _ _ _)
  · exact State.count_only s c i 1

theorem FieldSt.value_putMarker (x : FieldSt) (n m : Nat) (k : Marker) :
    (({ x with markers := put (fun _ => Marker.reset) x.markers n k } : FieldSt).marker m).value =
      if n = m then k.value else (x.marker m).value := by
  unfold FieldSt.marker
  rw [look_put]
  by_cases h : n = m
  · simp [h]
  · simp [h, Ne.symm h]

theorem State.value_applyMark (op : MarkOp) (m : Nat) :
    (((s.applyMark f op).fieldSt f).marker m).value = op.valueAt m (((s.fieldSt f).marker m).value) := by
  have hcounted (v : State) (b : Bool) : ((if b = true then v.countIrq C.MRK_SATURATED f.inst 1 else v).fieldSt f) = v.fieldSt f := by
    split
    · exact (State.countIrq_only _ _ _).fieldSt f
    · rfl
  unfold State.applyMark
  dsimp only
  rw [hcounted, State.fieldSt_count, State.fieldSt_setField_same, FieldSt.value_putMarker]
  unfold MarkOp.valueAt
  by_cases h : op.marker = m
  · subst h; simp
  · simp [h]

theorem State.value_applyMarks (m : Nat) (ops : List MarkOp) (s : State) :
    (((ops.foldl (fun s op => s.applyMark f op) s).fieldSt f).marker m).value =
      ops.foldl (fun v op => op.valueAt m v) (((s.fieldSt f).marker m).value) := by
  induction ops generalizing s with
  | nil => rfl
  | cons op ops ih => rw [List.foldl_cons, List.foldl_cons, ih, State.value_applyMark]

/-! ### Markers that stay -/

/-- From s to t the markers of a field stand still; operations may have reached its marker unit. -/
def MarkersStay (f : FieldAddr) (s t : State) : Prop := (t.fieldSt f).markers = (s.fieldSt f).markers

theorem MarkersStay.refl (f : FieldAddr) (s : State) : MarkersStay f s s := rfl

theorem MarkersStay.trans (h : MarkersStay f s t) (k : MarkersStay f t u) : MarkersStay f s u := Eq.trans k h

theorem MarkersStay.marker (h : MarkersStay f s t) (m : Nat) : (t.fieldSt f).marker m = (s.fieldSt f).marker m := by
  unfold FieldSt.marker
  rw [h]

theorem MarkersStay.foldl {β : Type} {g : State → β → State} (hg : ∀ u x, MarkersStay f u (g u x)) (xs : List β) (s : State) :
    MarkersStay f s (xs.foldl g s) := by
  induction xs generalizing s with
  | nil => exact MarkersStay.refl f s
  | cons x xs ih => exact (hg s x).trans (ih _)

theorem Changes.markersStay (h : Changes l s t) (hl : Part.fields ∉ l) (f : FieldAddr) : MarkersStay f s t :=
  congrArg FieldSt.markers (h.fieldSt hl f)

theorem State.setField_markersStay {g : FieldAddr} {x : FieldSt} (h : x.markers = (s.fieldSt g).markers) (f : FieldAddr) :
    MarkersStay f s (s.setField g x) := by
  unfold MarkersStay
  rw [State.fieldSt_setField]
  by_cases hf : f = g
  · rw [if_pos hf, h, hf]
  · rw [if_neg hf]

theorem State.markOp_markersStay (g : FieldAddr) (op : MarkOp) (f : FieldAddr) : MarkersStay f s (s.markOp g op) := by
  unfold State.markOp
  dsimp only
  split
  · exact MarkersStay.refl f s
  · exact State.setField_markersStay (by rfl) f

theorem State.signalRef_markersStay (e q index : Nat) (r : RawRec) (f : FieldAddr) : MarkersStay f s (s.signalRef e q index r) := by
  unfold State.signalRef
  split
  · exact MarkersStay.refl f s
  · split
    · unfold State.signal
      split
      · exact MarkersStay.refl f s
      · exact State.markOp_markersStay _ _ f
    · exact (State.countWm_changes (pl := [.page .ENG, .risen, .ahead]) (.refl _ s) (by decide) (hL := by decide)).markersStay
        (by decide) f

/-- The parts that the completion of a record changes after its SIGNAL. -/
def completionParts : List Part :=
  [.page .ENG, .page .EMP, .page .HBM, .risen, .ahead, .recOnce, .records, .hostOut, .hostHeld, .fwIrq, .msix, .edge, .edgeMark,
   .edgeWb, .selfRefresh, .queues, .step, .free]

/-- A record that completes OK signals its marker; what follows reaches no field. -/
theorem State.complete_ok (e q index : Nat) (hw : Bool) (result : W64) : s.complete e q index 0 0 hw result = s ∨
    ∃ r, Changes completionParts (s.signalRef e q index r) (s.complete e q index 0 0 hw result) := by
  unfold State.complete
  split
  · exact .inl rfl
  · rename_i x hx
    refine .inr ⟨x.raw, ?_⟩
    have hrefl (u : State) : Changes completionParts u u := .refl _ u
    simp only [beq_self_eq_true, Bool.true_and, Bool.and_true, Bool.true_or, Bool.or_false, Bool.not_true, if_true]
    refine State.retireQueue_changes (State.setQueue_changes (.when ?counted ?_) (hL := by decide)) (hL := by decide)
    case counted =>
      refine State.countWm_changes (.when (.unless (hrefl _) ?_) ?_) (by decide) (hL := by decide)
      · exact State.writeCqe_changes (hrefl _) (hL := by decide)
      · exact State.msixSend_changes (hrefl _) (hL := by decide)
    exact State.setF_changes (hrefl _) (Part.mem_elem rfl) (hL := by decide)

theorem State.complete_markersStay (e q index : Nat) (hw : Bool) (result : W64) (f : FieldAddr) :
    MarkersStay f s (s.complete e q index 0 0 hw result) := by
  rcases State.complete_ok e q index hw result with h | ⟨r, h⟩
  · rw [h]; exact MarkersStay.refl f s
  · exact (State.signalRef_markersStay e q index r f).trans (h.markersStay (by decide) f)

/-! ### MARKER_UPDATE (R424) -/

/-- The marker unit of a field after its operations. -/
def State.marksApplied (s : State) (f : FieldAddr) : State :=
  (sortOps (s.fieldSt f).mops).foldl (fun s op => s.applyMark f op) (s.setField f { s.fieldSt f with mops := [] })

theorem State.value_marksApplied (m : Nat) : (((s.marksApplied f).fieldSt f).marker m).value =
    (sortOps (s.fieldSt f).mops).foldl (fun v op => op.valueAt m v) (((s.fieldSt f).marker m).value) := by
  unfold State.marksApplied
  rw [State.value_applyMarks, State.fieldSt_setField_same]
  rfl

/-- The parts that waits and watches, answers to frames and stream contexts change in MARKER_UPDATE. -/
def evaluationParts : List Part :=
  [.page .SEN, .page .VPT, .risen, .ahead, .tiles, .hostOut, .hostHeld, .fwIrq, .msix, .ctxs, .queues, .links, .wire]

/-- MARKER_UPDATE of a field in service applies the operations; what follows leaves the markers alone. -/
theorem exec_markerUpdate (hlost : (s.fieldSt f).lost = false) (hreset : (s.fieldSt f).resetting = false)
    (hlayby : s.inLayby f = false) : ∃ t, exec (.markerUpdate f) s = .next t ∧ MarkersStay f (s.marksApplied f) t := by
  have hserves : ¬ ((s.fieldSt f).lost || (s.fieldSt f).resetting || s.inLayby f) = true := by simp [hlost, hreset, hlayby]
  have hrefl (u : State) : Changes evaluationParts u u := .refl _ u
  refine ⟨_, (congrArg Host.Outcome.next (if_neg hserves) :), ?_⟩
  refine (Changes.markersStay (l := evaluationParts) (.foldl (.foldl ?evaluated ?answered) ?dried) (by decide) f).trans
    (.foldl (fun u op => ?completed) _ _)
  case evaluated => exact State.evalWatches_changes (State.evalWaits_changes (hrefl _) (hL := by decide)) (hL := by decide)
  case answered =>
    intro u op hu
    split
    · exact State.sendFrame_changes hu (hL := by decide)
    · exact hu
  case dried => exact fun u k hu => State.noteDry_changes hu (hL := by decide)
  case completed =>
    split
    · exact State.complete_markersStay ..
    · exact MarkersStay.refl f u

theorem runsTo_markerUpdate (hlost : (s.fieldSt f).lost = false) (hreset : (s.fieldSt f).resetting = false)
    (hlayby : s.inLayby f = false) : RunsTo (.markerUpdate f) s (fun t => ∀ m, ((t.fieldSt f).marker m).value =
      (sortOps (s.fieldSt f).mops).foldl (fun v op => op.valueAt m v) ((s.fieldSt f).marker m).value) := by
  obtain ⟨t, hnext, hstay⟩ := exec_markerUpdate hlost hreset hlayby
  exact ⟨t, hnext, fun m => (congrArg Marker.value (hstay.marker m)).trans (State.value_marksApplied m)⟩

/-! ### Watches (R427, R440) -/

section
variable {k : Nat} {w : Watch}

/-- The task's watch is disarmed. -/
def State.disarmWatch (s : State) (a : TileAddr) (k : Nat) : State :=
  s.setTile a ((s.tile a).setTask k { (s.tile a).task k with watch := none })

theorem State.watch_disarmWatch : (((s.disarmWatch a k).tile a).task k).watch = none := by
  rw [State.disarmWatch, State.tile_setTile_same, Tile.task_setTask_same]

theorem State.tile_disarmWatch_ne {b : TileAddr} (h : b ≠ a) : (s.disarmWatch a k).tile b = s.tile b := by
  rw [State.disarmWatch, State.tile_setTile, if_neg h]

theorem State.cq_disarmWatch : ((s.disarmWatch a k).tile a).cq = (s.tile a).cq := by
  rw [State.disarmWatch, State.tile_setTile_same, Tile.setTask_cq]

theorem State.epoch_disarmWatch : ((s.disarmWatch a k).tile a).epoch = (s.tile a).epoch := by
  rw [State.disarmWatch, State.tile_setTile_same, Tile.setTask_epoch]

theorem State.disarmWatch_changes : Changes [.tiles] s (s.disarmWatch a k) := State.setTile_changes (.refl _ s) (hL := by decide)

/-- A token of the tile's own epoch enters its queue (R104). -/
theorem State.enterCq_ownEpoch {n : Nat} {c : CtlTok} (h : c.epoch = (s.tile a).epoch) :
    s.enterCq a n c = s.setTile a ((s.tile a).setCq n ((s.tile a).cqOf n ++ [c])) := by
  simp [State.enterCq, h]

theorem Tile.cqOf_setCq_same (x : Tile) (n : Nat) (q : List CtlTok) : (x.setCq n q).cqOf n = q := look_put_same _ _ _ _

theorem exec_watchDelivery {task : Fin 4} (hw : ((s.tile a).task task).watch = some w) (hruns : s.tileRuns a = true)
    (hsat : w.satisfied = true) (hroom : (s.tile a).cqRoom w.cq = true) : exec (.watchDelivery a task) s =
      .next (((s.disarmWatch a task).enterCq a w.cq { kind := 7, value := w.token, epoch := (s.tile a).epoch }).count
        C.MRK_WATCHES_FIRED a.fld.inst 1) := by
  change execWatchDelivery a task s = _
  unfold execWatchDelivery
  dsimp only
  rw [hw]
  dsimp only
  rw [if_pos (by simp [hruns, hsat, hroom])]
  rfl

theorem runsTo_watchDelivery {task : Fin 4} (hw : ((s.tile a).task task).watch = some w) (hruns : s.tileRuns a = true)
    (hsat : w.satisfied = true) (hroom : (s.tile a).cqRoom w.cq = true) :
    RunsTo (.watchDelivery a task) s (fun t => ((t.tile a).task task).watch = none ∧ (∀ b, b ≠ a → t.tile b = s.tile b) ∧
      (t.tile a).cqOf w.cq = (s.tile a).cqOf w.cq ++ [{ kind := 7, value := w.token, epoch := (s.tile a).epoch }] ∧
      t.getC C.MRK_WATCHES_FIRED a.fld.inst = min (2 ^ 48 - 1) (s.getC C.MRK_WATCHES_FIRED a.fld.inst + 1)) := by
  refine ⟨_, exec_watchDelivery hw hruns hsat hroom, ?_⟩
  rw [State.enterCq_ownEpoch State.epoch_disarmWatch.symm]
  refine ⟨?_, fun b hb => ?_, ?_, ?_⟩
  · rw [State.tile_count, State.tile_setTile_same]
    exact State.watch_disarmWatch
  · rw [State.tile_count, State.tile_setTile, if_neg hb, State.tile_disarmWatch_ne hb]
  · rw [State.tile_count, State.tile_setTile_same, Tile.cqOf_setCq_same, Tile.cqOf, State.cq_disarmWatch]
    rfl
  · rw [State.getC_count_narrow _ _ _ rfl]
    rfl

/-- WATCH_TIMEOUT after the watch is disarmed: counted, captured, recorded once, and a cause of the pass. -/
theorem exec_watchTimeout {task : Fin 4} (hw : ((s.tile a).task task).watch = some w) (hsat : w.satisfied = false)
    (hlost : (s.fieldSt a.fld).lost = false) (hreset : (s.fieldSt a.fld).resetting = false) :
    ∃ r : ErrRec, exec (.watchTimeout a task) s =
      .next (((((s.disarmWatch a task).count C.MRK_TIMEOUTS a.fld.inst 1).markerCapture a.fld 0 a.row a.col task w.marker 0).raiseOnce
        a.fld.inst r).fieldTimeout a.fld a.row a.col true) := by
  change ∃ r, execWatchTimeout a task s = _
  unfold execWatchTimeout
  dsimp only
  rw [hw]
  dsimp only
  rw [if_neg (by simp [hsat, hlost, hreset])]
  exact ⟨_, rfl⟩

theorem State.getC_timeouts_markerCapture (kind row col task index blocks i : Nat) :
    (s.markerCapture f kind row col task index blocks).getC C.MRK_TIMEOUTS i = s.getC C.MRK_TIMEOUTS i := by
  refine congrArg BitVec.toNat (State.reg_captureFirst_ne _ _ _ _ _ _ ?_ ?_) <;>
    simp [regKey_eq, C.MRK_TIMEOUTS, F.MRK_TO_FIRST_VALID]

theorem runsTo_watchTimeout {task : Fin 4} (hw : ((s.tile a).task task).watch = some w) (hsat : w.satisfied = false)
    (hlost : (s.fieldSt a.fld).lost = false) (hreset : (s.fieldSt a.fld).resetting = false) :
    RunsTo (.watchTimeout a task) s (fun t => ((t.tile a).task task).watch = none ∧ (∀ b, b ≠ a → t.tile b = s.tile b) ∧
      (t.tile a).cq = (s.tile a).cq ∧ t.getC C.MRK_TIMEOUTS a.fld.inst = min (2 ^ 48 - 1) (s.getC C.MRK_TIMEOUTS a.fld.inst + 1)) := by
  obtain ⟨r, hnext⟩ := exec_watchTimeout hw hsat hlost hreset
  let u := ((s.disarmWatch a task).count C.MRK_TIMEOUTS a.fld.inst 1).markerCapture a.fld 0 a.row a.col task w.marker 0
  have hafter : Changes [.recOnce, .records, .causes] u ((u.raiseOnce a.fld.inst r).fieldTimeout a.fld a.row a.col true) :=
    State.fieldTimeout_changes (State.raiseOnce_changes (.refl _ u) (hL := by decide)) (hL := by decide)
  have htile (b : TileAddr) : u.tile b = (s.disarmWatch a task).tile b := by
    exact (State.captureFirst_only ..).tile b |>.trans (State.tile_count ..)
  refine ⟨_, hnext, ?_, fun b hb => ?_, ?_, ?_⟩
  · rw [hafter.tile (by decide), htile, State.watch_disarmWatch]
  · rw [hafter.tile (by decide), htile, State.tile_disarmWatch_ne hb]
  · rw [hafter.tile (by decide), htile, State.cq_disarmWatch]
  · rw [hafter.getC (by decide), State.getC_timeouts_markerCapture, State.getC_count_narrow _ _ _ rfl,
      State.disarmWatch_changes.getC (by decide)]

end

/-! ### Barriers: what leaves a channel alone -/

/-- From s to t a barrier channel stands still: its generation, its state and the plane's count of completions. -/
structure ChannelStays (p : Fin 2) (ch : Fin 16) (s t : State) : Prop where
  gen : t.getF (F.MLW_CH_GEN ch) p = s.getF (F.MLW_CH_GEN ch) p
  state : t.getF (F.MLW_CH_STATE ch) p = s.getF (F.MLW_CH_STATE ch) p
  completions : t.getC C.MLW_COMPLETIONS p = s.getC C.MLW_COMPLETIONS p

theorem ChannelStays.refl (p : Fin 2) (ch : Fin 16) (s : State) : ChannelStays p ch s s := ⟨rfl, rfl, rfl⟩

theorem ChannelStays.trans (h : ChannelStays p ch s t) (k : ChannelStays p ch t u) : ChannelStays p ch s u :=
  ⟨k.gen.trans h.gen, k.state.trans h.state, k.completions.trans h.completions⟩

theorem Changes.channelStays (h : Changes l s t) (hl : Part.page .MLW ∉ l) : ChannelStays p ch s t :=
  ⟨h.getF hl p, h.getF hl p, h.getC hl p⟩

/-- Fields whose bits lie apart, of one register or of two. -/
theorem State.getF_setF_apart {b g : Fld} (h : b.hi < g.lo ∨ g.hi < b.lo) (i j v : Nat) : (s.setF b i v).getF g j = s.getF g j := by
  rw [State.getF_setF]
  split
  · rename_i hkey
    rw [wbits_setBits_ne _ _ _ _ _ _ h]
    unfold State.getF State.reg
    rw [hkey]
  · rfl

theorem State.setBridged_channelStays {c : Nat} (hc : c < 16) (v : Nat) : ChannelStays p ch s (s.setF (F.MLW_CH_BRIDGED c) p v) := by
  refine ⟨State.getF_setF_apart (.inl (by simp [F.MLW_CH_BRIDGED, F.MLW_CH_GEN])) _ _ _,
    State.getF_setF_apart (.inr (by simp [F.MLW_CH_BRIDGED, F.MLW_CH_STATE])) _ _ _, congrArg BitVec.toNat ?_⟩
  rw [State.reg_setF, if_neg]
  simp only [C.MLW_COMPLETIONS, F.MLW_CH_BRIDGED]
  exact regKey_ne_of_off (by omega) (by omega) (by omega)

theorem State.unbridge_channelStays : ChannelStays p ch s (s.unbridge p) := by
  have hfold (cs : List Nat) (hcs : ∀ c ∈ cs, c < 16) (u : State) :
      ChannelStays p ch u (cs.foldl (fun s c => s.setF (F.MLW_CH_BRIDGED c) p 0) u) := by
    induction cs generalizing u with
    | nil => exact .refl p ch u
    | cons c cs ih =>
      exact (State.setBridged_channelStays (hcs c (by simp)) 0).trans (ih (fun d hd => hcs d (by simp [hd])) _)
  exact hfold _ (fun c hc => List.mem_range.1 hc) s

/-- The parts that the end and the start of a pass change beside the barrier channels. -/
def besideChannels : List Part :=
  [.page .ENG, .page .AEN, .page .EMP, .page .HBM, .page .MESH, .page .TSQ, .page .SPD, .page .PAS, .page .FEN, .page .FLT, .risen,
   .ahead, .tiles, .fields, .recOnce, .records, .hostOut, .hostHeld, .fwIrq, .msix, .edge, .edgeMark, .edgeWb, .selfRefresh,
   .edgeHeld, .ctxs, .queues, .step, .array, .free]

theorem State.passEnd_channelStays : ChannelStays p ch s (s.passEnd p) := by
  have hstays {u v : State} (h : Changes besideChannels u v) : ChannelStays p ch u v := h.channelStays (by decide)
  have hrefl (u : State) : Changes besideChannels u u := .refl _ u
  unfold State.passEnd
  dsimp only
  generalize hended : State.setAe (State.unbridge _ p) p _ = v
  have hv : ChannelStays p ch s v := by
    rw [← hended]
    refine .trans (hstays ?_) (State.unbridge_channelStays.trans (hstays (State.setAe_changes (hrefl _) (hL := by decide))))
    refine State.setIrq_changes (State.setPassState_changes ?_ (hL := by decide)) (by decide) (hL := by decide)
    exact State.countWm_changes (Changes.upd_ctxs (hrefl s) (by decide)) (by decide) (hL := by decide)
  split
  · exact hv.trans (hstays (State.complete_changes (hrefl v) (hL := by decide)))
  · exact hv

theorem State.aeCompletion_channelStays : ChannelStays p ch s (s.aeCompletion p) := by
  have hstays {u v : State} (h : Changes besideChannels u v) : ChannelStays p ch u v := h.channelStays (by decide)
  have hrefl (u : State) : Changes besideChannels u u := .refl _ u
  unfold State.aeCompletion
  split
  · exact .refl p ch s
  · split
    · have hentered (e : ArrayEng) : Changes besideChannels s (s.setAe p e) := State.setAe_changes (hrefl s) (hL := by decide)
      dsimp only
      exact hstays (.when (hentered _) (State.passGo_changes (hrefl _) (hL := by decide)))
    · split
      · exact State.passEnd_channelStays
      · exact .refl p ch s

/-! ### A completion reaches the participants (R435) -/

theorem State.barLatch_barrierToken (b : TileAddr) (n q : Nat) :
    ((s.barrierToken a n q).tile b).barLatch = (s.tile b).barLatch := by
  unfold State.barrierToken
  dsimp only
  have hset (x : Tile) (hx : x.barLatch = (s.tile a).barLatch) : ((s.setTile a x).tile b).barLatch = (s.tile b).barLatch := by
    rw [State.tile_setTile]
    by_cases h : b = a
    · rw [if_pos h, hx, h]
    · rw [if_neg h]
  split
  · rw [State.enterCq_ownEpoch rfl]
    exact hset _ rfl
  · exact hset _ rfl

/-- The completion at one participant: its latch clears, and its token goes to the queue that its BARR named. -/
def State.completeTile (s : State) (a : TileAddr) (ch : Nat) : State :=
  (s.setTile a { s.tile a with barLatch := (s.tile a).barLatch &&& ~~~(BitVec.ofNat 16 (2 ^ ch))
                               barCq := put (fun _ => 0) (s.tile a).barCq ch 0 }).barrierToken a ch
    (look (fun _ => 0) (s.tile a).barCq ch)

theorem State.barLatch_completeTile (b : TileAddr) (n : Nat) : ((s.completeTile a n).tile b).barLatch =
    if b = a then (s.tile a).barLatch &&& ~~~(BitVec.ofNat 16 (2 ^ n)) else (s.tile b).barLatch := by
  rw [State.completeTile, State.barLatch_barrierToken, State.tile_setTile]
  split <;> rfl

/-- The arrival latch of a tile is clear on a channel. -/
def State.latchClear (s : State) (b : TileAddr) (ch : Fin 16) : Prop := (s.tile b).barLatch.getLsbD ch = false

theorem State.latchClear_completeTile_same : (s.completeTile a ch).latchClear a ch := by
  unfold State.latchClear
  rw [State.barLatch_completeTile, if_pos rfl]
  simp only [BitVec.getLsbD_and, BitVec.getLsbD_not, BitVec.getLsbD_ofNat, Nat.testBit_two_pow_self, ch.isLt, decide_true,
    Bool.and_true, Bool.not_true, Bool.and_false]

theorem State.latchClear.completeTile {b : TileAddr} (h : s.latchClear b ch) (a : TileAddr) : (s.completeTile a ch).latchClear b ch := by
  unfold State.latchClear at h ⊢
  rw [State.barLatch_completeTile]
  split
  · rename_i hb
    rw [← hb, BitVec.getLsbD_and, h, Bool.false_and]
  · exact h

/-- The completion at one entry of the live tiles: a participant takes it, no other tile. -/
def State.completeEntry (s : State) (p : Fin 2) (ch : Nat) (e : TileAddr × Tile) : State :=
  if e.1.fld.plane == p && e.2.barLatch.getLsbD ch then s.completeTile e.1 ch else s

theorem State.sendCompletion_eq (n : Nat) :
    s.sendCompletion p n = s.liveTiles.foldl (fun s e => s.completeEntry p n e) s := rfl

theorem State.latchClear.completeEntry {b : TileAddr} (h : s.latchClear b ch) (e : TileAddr × Tile) :
    (s.completeEntry p ch e).latchClear b ch := by
  unfold State.completeEntry
  split
  · exact h.completeTile e.1
  · exact h

theorem State.latchClear.completeEntries {b : TileAddr} (es : List (TileAddr × Tile)) (h : s.latchClear b ch) :
    (es.foldl (fun s e => s.completeEntry p ch e) s).latchClear b ch := by
  induction es generalizing s with
  | nil => exact h
  | cons e es ih => exact ih (h.completeEntry e)

theorem State.latchClear_completeEntries (es : List (TileAddr × Tile)) (s : State) {e : TileAddr × Tile} (he : e ∈ es)
    (hplane : e.1.fld.plane = p) (hlatch : e.2.barLatch.getLsbD ch = true) :
    (es.foldl (fun s e => s.completeEntry p ch e) s).latchClear e.1 ch := by
  induction es generalizing s with
  | nil => cases he
  | cons x es ih =>
    rcases List.mem_cons.1 he with rfl | hmem
    · have hclear : (s.completeEntry p ch e).latchClear e.1 ch := by
        rw [State.completeEntry, if_pos (by simp [hplane, hlatch])]
        exact State.latchClear_completeTile_same
      exact hclear.completeEntries es
    · exact ih _ hmem

/-! ### BARRIER_COMPLETE (R435) -/

/-- Where a channel is bridged and the other plane has not completed, the completion shows it that this root was high. -/
def State.rootShown (s : State) (p : Fin 2) (ch : Nat) : State :=
  if s.chBridged p ch && s.getF (F.MLW_CH_GEN ch) (otherPlane p) == s.getF (F.MLW_CH_GEN ch) p then s.setRemote (otherPlane p) ch true
  else s

/-- The channel after generation `gen`: the next generation, IDLE. -/
def State.channelRisen (s : State) (p : Fin 2) (ch gen : Nat) : State :=
  (s.setF (F.MLW_CH_GEN ch) p ((gen + 1) % 65536)).setF (F.MLW_CH_STATE ch) p 0

/-- The root shows its output and the generation rises. -/
def State.genRisen (s : State) (p : Fin 2) (ch : Nat) : State :=
  (s.rootShown p ch).channelRisen p ch (s.getF (F.MLW_CH_GEN ch) p)

/-- The root completes the generation of a channel and counts it. -/
def State.genCounted (s : State) (p : Fin 2) (ch : Nat) : State :=
  ((s.genRisen p ch).setRemote p ch false).count C.MLW_COMPLETIONS p 1

/-- A completion, counted once more where the channel is bridged. -/
def State.genCompleted (s : State) (p : Fin 2) (ch : Nat) : State :=
  if s.chBridged p ch then (s.genCounted p ch).count C.MLW_BRIDGED_COMPLETIONS p 1 else s.genCounted p ch

/-- The completion goes to the Array Engine or to the tiles (R433). -/
def State.completionDelivered (s : State) (p : Fin 2) (ch : Nat) (engine : Bool) : State :=
  if engine then ({ s with aeArrived := put (fun _ => false) s.aeArrived (chKey p ch) false } : State).aeCompletion p
  else s.sendCompletion p ch

theorem exec_barrierComplete (h : s.canComplete p ch = true) :
    exec (.barrierComplete p ch) s = .next ((s.genCompleted p ch).completionDelivered p ch (s.chEngine p ch)) := by
  exact congrArg Host.Outcome.next (if_neg (by simp [h]))

theorem State.completionDelivered_channelStays (engine : Bool) : ChannelStays p ch s (s.completionDelivered p ch engine) := by
  unfold State.completionDelivered
  split
  · have harrived (v : List (Nat × Bool)) : Changes [.aeArrived] s { s with aeArrived := v } :=
      Changes.upd_aeArrived (.refl _ s) (by decide)
    exact ((harrived _).channelStays (by decide)).trans State.aeCompletion_channelStays
  · exact (State.sendCompletion_changes (pl := besideChannels) (.refl _ s) (hL := by decide)).channelStays (by decide)

theorem State.setRemote_remoteRoot (q : Fin 2) (n : Nat) (v : Bool) : Changes [.remoteRoot] s (s.setRemote q n v) :=
  State.setRemote_changes (.refl _ s) (hL := by decide)

theorem State.rootShown_changes (n : Nat) : Changes [.remoteRoot] s (s.rootShown p n) :=
  .when (.refl _ s) (State.setRemote_remoteRoot _ n true)

theorem State.channelRisen_changes (n gen : Nat) : Changes [.page .MLW] s (s.channelRisen p n gen) :=
  State.setF_changes (State.setF_changes (.refl _ s) (Part.mem_elem rfl) (hL := by decide)) (Part.mem_elem rfl) (hL := by decide)

theorem State.genRisen_changes (n : Nat) : Changes [.page .MLW, .remoteRoot] s (s.genRisen p n) :=
  ((State.rootShown_changes n).mono (by decide)).trans ((State.channelRisen_changes n _).mono (by decide))

theorem State.genCompleted_changes (n : Nat) : Changes [.page .MLW, .remoteRoot] s (s.genCompleted p n) :=
  .when (State.count_changes (State.setRemote_changes (State.genRisen_changes n) (hL := by decide)) (by decide) (hL := by decide))
    (State.count_changes (.refl _ _) (by decide) (hL := by decide))

/-- A count leaves the registers below the counters alone. -/
theorem State.getF_count_above {g : Fld} {c : Ctr} (hg : g.off < c.off) (hc : c.off < 4096) (i j n : Nat) :
    (s.count c i n).getF g j = s.getF g j := by
  rw [State.count, State.getF_setReg, if_neg]
  rw [regKey_eq]
  omega

theorem channelOff_lt (ch : Fin 16) : 0x100 + 0x8 * ch.val < 0x200 := by omega

/-- The counters stand above the registers of the channels. -/
theorem State.getF_genCompleted {g : Fld} (hg : g.off < 0x200) (n : Nat) : (s.genCompleted p n).getF g p = (s.genRisen p n).getF g p := by
  have hcount (v : State) (c : Ctr) (hc : 0x200 ≤ c.off ∧ c.off < 4096) : (v.count c p 1).getF g p = v.getF g p :=
    State.getF_count_above (by omega) hc.2 _ _ _
  have hcounted : (s.genCounted p n).getF g p = (s.genRisen p n).getF g p :=
    (hcount _ C.MLW_COMPLETIONS (by decide)).trans ((State.setRemote_remoteRoot p n false).getF (by simp) p)
  unfold State.genCompleted
  split
  · exact (hcount _ C.MLW_BRIDGED_COMPLETIONS (by decide)).trans hcounted
  · exact hcounted

theorem State.genCompleted_gen (ch : Fin 16) :
    (s.genCompleted p ch).getF (F.MLW_CH_GEN ch) p = (s.getF (F.MLW_CH_GEN ch) p + 1) % 65536 := by
  rw [State.getF_genCompleted (channelOff_lt ch), State.genRisen, State.channelRisen,
    State.getF_setF_apart (.inl (by simp [F.MLW_CH_STATE, F.MLW_CH_GEN])),
    State.getF_setF_same _ _ _ (by simp [F.MLW_CH_GEN]) (by simp [F.MLW_CH_GEN])]
  exact Nat.mod_mod _ _

theorem State.genCompleted_state (ch : Fin 16) : (s.genCompleted p ch).getF (F.MLW_CH_STATE ch) p = 0 := by
  rw [State.getF_genCompleted (channelOff_lt ch), State.genRisen, State.channelRisen,
    State.getF_setF_same _ _ _ (by simp [F.MLW_CH_STATE]) (by simp [F.MLW_CH_STATE]), Nat.zero_mod]

theorem State.getC_channelRisen (ch : Fin 16) (gen : Nat) :
    (s.channelRisen p ch gen).getC C.MLW_COMPLETIONS p = s.getC C.MLW_COMPLETIONS p := by
  refine congrArg BitVec.toNat ?_
  rw [State.channelRisen, State.reg_setF, if_neg (by simp [regKey_eq, C.MLW_COMPLETIONS, F.MLW_CH_STATE]; omega),
    State.reg_setF, if_neg (by simp [regKey_eq, C.MLW_COMPLETIONS, F.MLW_CH_GEN]; omega)]

theorem State.genCompleted_completions (ch : Fin 16) : (s.genCompleted p ch).getC C.MLW_COMPLETIONS p =
    min (2 ^ 48 - 1) (s.getC C.MLW_COMPLETIONS p + 1) := by
  have hcounted : (s.genCounted p ch).getC C.MLW_COMPLETIONS p = min (2 ^ 48 - 1) (s.getC C.MLW_COMPLETIONS p + 1) := by
    rw [State.genCounted, State.getC_count_narrow _ _ _ rfl, (State.setRemote_remoteRoot p ch false).getC (by decide),
      State.genRisen, State.getC_channelRisen, (State.rootShown_changes ch).getC (by decide)]
  unfold State.genCompleted
  split
  · refine Eq.trans (congrArg BitVec.toNat ?_) hcounted
    rw [State.count, State.reg_setReg, if_neg (by simp [regKey_eq, C.MLW_COMPLETIONS, C.MLW_BRIDGED_COMPLETIONS])]
  · exact hcounted

theorem runsTo_barrierComplete (h : s.canComplete p ch = true) : RunsTo (.barrierComplete p ch) s (fun t =>
    t.getF (F.MLW_CH_GEN ch) p = (s.getF (F.MLW_CH_GEN ch) p + 1) % 65536 ∧ t.getF (F.MLW_CH_STATE ch) p = 0 ∧
    t.getC C.MLW_COMPLETIONS p = min (2 ^ 48 - 1) (s.getC C.MLW_COMPLETIONS p + 1) ∧
    (s.chEngine p ch = false → ∀ e ∈ s.liveTiles, e.1.fld.plane = p → e.2.barLatch.getLsbD ch = true →
      (t.tile e.1).barLatch.getLsbD ch = false)) := by
  have hstays : ChannelStays p ch (s.genCompleted p ch) _ := State.completionDelivered_channelStays (s.chEngine p ch)
  obtain ⟨hgen, hstate, hcount⟩ := hstays
  refine ⟨_, exec_barrierComplete h, hgen.trans (State.genCompleted_gen ch), hstate.trans (State.genCompleted_state ch),
    hcount.trans (State.genCompleted_completions ch), fun hengine e he hplane hlatch => ?_⟩
  have htiles : (s.genCompleted p ch).liveTiles = s.liveTiles := by
    unfold State.liveTiles
    rw [show (s.genCompleted p ch).tiles = s.tiles from State.genCompleted_changes ch .tiles (by decide)]
  rw [State.completionDelivered, if_neg (by simp [hengine]), State.sendCompletion_eq, htiles]
  exact State.latchClear_completeEntries s.liveTiles _ he hplane hlatch

/-! ### The barrier watchdog (R437, R439) -/

/-- The channel of a plane is FAILED and its timeout counted. -/
def State.channelFailed (s : State) (p : Fin 2) (ch : Nat) : State :=
  (s.setF (F.MLW_CH_STATE ch) p 2).count C.MLW_TIMEOUTS p 1

theorem State.channelFailed_state (ch : Fin 16) : (s.channelFailed p ch).getF (F.MLW_CH_STATE ch) p = 2 := by
  rw [State.channelFailed, State.getF_count_above (by simp [F.MLW_CH_STATE, C.MLW_TIMEOUTS]; omega) (by decide),
    State.getF_setF_same _ _ _ (by simp [F.MLW_CH_STATE]) (by simp [F.MLW_CH_STATE])]
  rfl

theorem State.channelFailed_timeouts (ch : Fin 16) :
    (s.channelFailed p ch).getC C.MLW_TIMEOUTS p = min (2 ^ 48 - 1) (s.getC C.MLW_TIMEOUTS p + 1) := by
  rw [State.channelFailed, State.getC_count_narrow _ _ _ rfl, State.getC, State.reg_setF,
    if_neg (by simp [regKey_eq, C.MLW_TIMEOUTS, F.MLW_CH_STATE]; omega), State.getC]

theorem State.channelFailed_valid (ch : Fin 16) :
    (s.channelFailed p ch).getF F.MLW_TO_FIRST_VALID p = s.getF F.MLW_TO_FIRST_VALID p := by
  rw [State.channelFailed, State.getF_count_above (by decide) (by decide), State.getF_setF_apart (.inl ?_)]
  simp [F.MLW_CH_STATE, F.MLW_TO_FIRST_VALID]

/-- The plane's error bit TIMEOUT rises with the first capture (R450). -/
def State.timeoutNoted (s : State) (p : Fin 2) (first : Bool) : State := if first then s.setErr .MLW p 0 else s

theorem State.reg_timeoutNoted (first : Bool) {off : Nat} (ho : off < 4096) (herr : off ≠ 0x028) :
    (s.timeoutNoted p first).reg ⟨.MLW, p⟩ off = s.reg ⟨.MLW, p⟩ off := by
  unfold State.timeoutNoted
  split
  · exact ((RegsBut.refl [(⟨.MLW, p⟩, 0x028)] s).setErr (by simp)).reg _ _ (by simpa using regKey_ne_of_off ho (by decide) herr)
  · rfl

/-- The fields that a mask of arrivals shows missing. -/
def missingFields (p : Fin 2) (mask : W64) : List FieldAddr :=
  (List.finRange 60).filterMap (fun f : Fin 60 => if mask.getLsbD f.val then none else some ⟨p, f⟩)

/-- The registers of the first timeout of a plane. -/
def State.timeoutRegs (s : State) (p : Fin 2) (ch : Nat) (cyc : W64) : List (Nat × W64) :=
  [(0x088, BitVec.ofNat 64 (ch + s.getF (F.MLW_CH_GEN ch) p <<< 4 + boolNat (s.chEngine p ch) <<< 20 + boolNat (s.chBridged p ch) <<< 21 +
     1 <<< 31 + (s.passWm p).toNat <<< 32)), (0x090, s.arrMask p ch), (0x098, cyc)]

/-- The plane takes the timeout of a channel: FAILED, counted, and the first one captured. -/
def State.timeoutTaken (s : State) (p : Fin 2) (ch : Nat) (cyc : W64) : State :=
  ((s.channelFailed p ch).timeoutNoted p (s.getF F.MLW_TO_FIRST_VALID p == 0)).captureFirst F.MLW_TO_FIRST_VALID p (some 0)
    (s.timeoutRegs p ch cyc)

theorem State.reg_timeoutTaken (n : Nat) (cyc : W64) {off : Nat} (ho : off < 4096) (habove : 0x100 ≤ off) :
    (s.timeoutTaken p n cyc).reg ⟨.MLW, p⟩ off = (s.channelFailed p n).reg ⟨.MLW, p⟩ off := by
  have hcaptured := State.reg_captureFirst_ne (s := (s.channelFailed p n).timeoutNoted p (s.getF F.MLW_TO_FIRST_VALID p == 0))
    F.MLW_TO_FIRST_VALID p (some 0) (s.timeoutRegs p n cyc) ⟨.MLW, p⟩ off ?_ (regKey_ne_of_off ho (by decide) (by omega))
  · exact hcaptured.trans (State.reg_timeoutNoted _ ho (by omega))
  · intro x hx
    have hbelow : x.1 < 0x100 := by
      simp only [State.timeoutRegs, List.mem_cons, List.not_mem_nil, or_false] at hx
      rcases hx with rfl | rfl | rfl <;> simp
    exact regKey_ne_of_off ho (by omega) (by omega)

theorem State.timeoutTaken_state (ch : Fin 16) (cyc : W64) : (s.timeoutTaken p ch cyc).getF (F.MLW_CH_STATE ch) p = 2 := by
  refine Eq.trans (congrArg (fun w => wbits w 1 0) (State.reg_timeoutTaken (off := 0x100 + 0x8 * ch.val) ch cyc ?_ ?_))
    (State.channelFailed_state ch) <;> omega

theorem State.timeoutTaken_timeouts (ch : Fin 16) (cyc : W64) :
    (s.timeoutTaken p ch cyc).getC C.MLW_TIMEOUTS p = min (2 ^ 48 - 1) (s.getC C.MLW_TIMEOUTS p + 1) :=
  (congrArg BitVec.toNat (State.reg_timeoutTaken (off := 0x210) ch cyc (by decide) (by decide))).trans (State.channelFailed_timeouts ch)

theorem State.timeoutTaken_mask (ch : Fin 16) (cyc : W64) (hfirst : s.getF F.MLW_TO_FIRST_VALID p = 0) :
    (s.timeoutTaken p ch cyc).reg ⟨.MLW, p⟩ 0x090 = s.arrMask p ch := by
  have hfree : ((s.channelFailed p ch).timeoutNoted p (s.getF F.MLW_TO_FIRST_VALID p == 0)).getF F.MLW_TO_FIRST_VALID p = 0 :=
    (congrArg (fun w => wbits w 31 31) (State.reg_timeoutNoted _ (off := 0x088) (by decide) (by decide))).trans
      ((State.channelFailed_valid ch).trans hfirst)
  have hread := State.reg_capture (s := (s.channelFailed p ch).timeoutNoted p (s.getF F.MLW_TO_FIRST_VALID p == 0))
    F.MLW_TO_FIRST_VALID p (some 0) (s.timeoutRegs p ch cyc) ⟨.MLW, p⟩ 0x090 (regKey_ne_of_off (by decide) (by decide) (by decide))
  rw [State.timeoutTaken, State.captureFirst_free hfree]
  refine hread.trans ?_
  simp [State.timeoutRegs, State.reg_setReg, regKey_eq, F.MLW_TO_FIRST_VALID]

/-- A missing field counts the timeout and captures its scan. -/
def State.timeoutScanned (s : State) (ch : Nat) (f : FieldAddr) : State :=
  match (s.missingTiles f ch).head? with
  | some a => (s.count C.MRK_TIMEOUTS f.inst 1).markerCapture f 1 a.row a.col 0 ch (blockMask (s.missingTiles f ch))
  | none => (s.count C.MRK_TIMEOUTS f.inst 1).markerCapture f 1 0 0 0 ch 0

/-- The cause that aborts the pass: of the lowest missing field, or of the plane. -/
def State.timeoutCaused (s : State) (p : Fin 2) (engine : Bool) (low : Option FieldAddr) : State :=
  match low with
  | some f => if engine then s.planeCause p 0x0D true else s.fieldTimeout f 0 0 false
  | none => s.planeCause p 0x0D true

theorem exec_barrierWatchdog (hopen : s.getF (F.MLW_CH_STATE ch) p = 1) (h : s.canComplete p ch = false) :
    ∃ (cyc : W64) (r : ErrRec), exec (.barrierWatchdog p ch) s = .next
      ((((missingFields p (s.arrMask p ch)).foldl (fun u f => u.timeoutScanned ch f) (s.timeoutTaken p ch cyc)).raise r).timeoutCaused p
        (s.chEngine p ch) (missingFields p (s.arrMask p ch)).head?) := by
  exact ⟨_, _, congrArg Host.Outcome.next (if_neg (by simp [hopen, h]))⟩

/-- The parts that the scans, the record and the cause of a timeout change. -/
def timeoutParts : List Part := [.page .MRK, .risen, .records, .causes, .hostOut, .hostHeld, .fwIrq, .msix]

theorem State.timeoutScanned_changes (n : Nat) (f : FieldAddr) : Changes timeoutParts s (s.timeoutScanned n f) := by
  have hcounted : Changes timeoutParts s (s.count C.MRK_TIMEOUTS f.inst 1) :=
    State.count_changes (.refl _ s) (by decide) (hL := by decide)
  unfold State.timeoutScanned
  split <;> exact State.markerCapture_changes hcounted (hL := by decide)

theorem State.timeoutCaused_changes (engine : Bool) (low : Option FieldAddr) :
    Changes timeoutParts s (s.timeoutCaused p engine low) := by
  have hplane : Changes timeoutParts s (s.planeCause p 0x0D true) := State.planeCause_changes (.refl _ s) (hL := by decide)
  unfold State.timeoutCaused
  split
  · split
    · exact hplane
    · exact State.fieldTimeout_changes (.refl _ s) (hL := by decide)
  · exact hplane

theorem runsTo_barrierWatchdog (hopen : s.getF (F.MLW_CH_STATE ch) p = 1) (h : s.canComplete p ch = false) :
    RunsTo (.barrierWatchdog p ch) s (fun t => t.getF (F.MLW_CH_STATE ch) p = 2 ∧
      t.getC C.MLW_TIMEOUTS p = min (2 ^ 48 - 1) (s.getC C.MLW_TIMEOUTS p + 1) ∧
      (s.getF F.MLW_TO_FIRST_VALID p = 0 → t.reg ⟨.MLW, p⟩ 0x090 = s.arrMask p ch)) := by
  obtain ⟨cyc, r, hnext⟩ := exec_barrierWatchdog hopen h
  let fs := missingFields p (s.arrMask p ch)
  let scanned := fs.foldl (fun u f => u.timeoutScanned ch f) (s.timeoutTaken p ch cyc)
  have hscanned : Changes timeoutParts (s.timeoutTaken p ch cyc) scanned :=
    (Changes.refl _ _).foldl fun u f hu => hu.trans (State.timeoutScanned_changes ch f)
  have hafter : Changes timeoutParts (s.timeoutTaken p ch cyc) ((scanned.raise r).timeoutCaused p (s.chEngine p ch) fs.head?) :=
    (State.raise_changes hscanned (hL := by decide)).trans (State.timeoutCaused_changes _ _)
  have hmlw : Part.page .MLW ∉ timeoutParts := by decide
  exact ⟨_, hnext, (hafter.getF hmlw p).trans (State.timeoutTaken_state ch cyc),
    (hafter.getC hmlw p).trans (State.timeoutTaken_timeouts ch cyc),
    fun hfirst => (hafter.reg hmlw 0x090).trans (State.timeoutTaken_mask ch cyc hfirst)⟩

/-- Settles O38: the marker unit is a fold of one operation's lemma, and each watch and channel is read off the step that last sets it. -/
theorem markersWatchesAndBarriersComplete : Obligations.MarkersWatchesAndBarriersComplete := by
  unfold Obligations.MarkersWatchesAndBarriersComplete
  intro s
  exact ⟨fun f => runsTo_markerUpdate, fun a task w hw => ⟨runsTo_watchDelivery hw, runsTo_watchTimeout hw⟩,
    fun p ch => ⟨runsTo_barrierComplete, runsTo_barrierWatchdog⟩⟩

end Sys2Proof.Machine
end
